-- ==== Sys2Proof/Word.lean ====
section
/-! DEFINITION. The word types of the S8G: a 32-bit register word, a byte, and the two wider words the spec names. -/

namespace Sys2Proof

/-- A register or mailbox word (chapter 0: "Registers are 32 bits wide"). -/
abbrev Word := BitVec 32

/-- A byte of capture memory or of a frame. -/
abbrev Byte := BitVec 8

/-- A channel-core data word (R272). -/
abbrev CWord := BitVec 24

/-- A time stamp: seconds [95:48], nanoseconds [47:16], fraction [15:0] in 2^-16 ns (chapter 0, Notation). -/
abbrev Sts := BitVec 96

end Sys2Proof
end

