-- ==== Sys2Proof/Syntax.lean ====
section
/-! DEFINITION. The commands of the block: one constructor of `Instr` for each row of the opcode table, and the types
of their operands. The table gives its rows no operand fields; the operands are the model's (assumption log, entry 2). -/

namespace Sys2Proof

/-- A transform die T0 to T3 by its index. -/
abbrev TDie := Fin 4
/-- An acquisition die A0 or A1 by its index. -/
abbrev ADie := Fin 2
/-- A hub H0 or H1 by its index. -/
abbrev Hub := Fin 2
/-- A channel core of a die (R3: 132 on each transform die). -/
abbrev CoreIx := Fin 132

/-- The paths that reach the register map, in the order of R631. -/
inductive Path where
  | planner | dma (h : Hub) | mgmt (h : Hub) | spi (h : Hub)
  deriving DecidableEq, Repr

/-- An Ethernet address that has a mailbox value (R557). -/
inductive EthAddr where
  | ip6 | group6 | allow (k : Fin 8) | dst6 (t : Fin 64)
  deriving DecidableEq, Repr

/-- A hardware update of a register in the cycle of a software access (R7): the bits it writes, their value, and
whether it also increments the register's counter. -/
structure HwUpdate where
  mask : Word := 0
  value : Word := 0
  inc : Bool := false
  deriving DecidableEq, Repr

/-- One slot of a link in one direction (R20): the virtual channels with a flit ready (bit v for VCv), the credits
the receiver returns to the pools of VC0 and VC3 and to the shared pool, how many flits on the wire reach it whole, and
how many flits of the retry buffer it acknowledges. -/
structure FlitSlot where
  ready : BitVec 4
  freed0 : Nat
  freed3 : Nat
  shared : Nat := 0
  arrived : Nat := 0
  acked : Nat
  deriving DecidableEq, Repr

/-- What a frame brings (R42, R55, R76): the 64 converter samples in the order of their slots, and the sample of the spare;
in the S8G-2D instead the octets of each lane for 32 stream samples. -/
structure ConvFrame where
  codes : List (BitVec 12) := []
  spare : BitVec 12 := 0
  lanes : List (List Byte) := []
  deriving DecidableEq, Repr

/-- What the SECDED codes find in the memory reads of one core instruction or scrub (R273): corrected words, and
whether a word has a double-bit error. -/
structure EccRead where
  corrected : Nat := 0
  double : Bool := false
  deriving DecidableEq, Repr

/-- A received PTP message: its domainNumber, and whether it is of a kind that the S8G supports (R422). -/
structure PtpMsg where
  domain : BitVec 8
  supported : Bool
  deriving DecidableEq, Repr

/-- What an Announce carries (R422, R431): the grandmaster's data set, the steps removed, its sender, currentUtcOffset,
and the flags leap61, leap59, currentUtcOffsetValid and ptpTimescale in bits 0 to 3. -/
structure PtpAnnounce where
  priority1 : BitVec 8
  clockClass : BitVec 8
  accuracy : BitVec 8
  variance : BitVec 16
  priority2 : BitVec 8
  gmId : BitVec 64
  steps : BitVec 16
  sender : BitVec 64
  utcOffset : BitVec 16
  flags : BitVec 4
  deriving DecidableEq, Repr
/-- A request that reaches a DDR-5 controller (R499): its source, its address, and the bytes it writes (none for a
read). -/
structure DdrReq where
  source : Fin 10
  addr : Nat
  data : List Byte := []
  deriving DecidableEq, Repr

/-- What happens on the wires of one DDR-5 access (R496, R502): CA parity errors and write CRC errors in a row, for each
codeword the components whose symbol is wrong, and where the access lies in the devices. -/
structure DdrAccess where
  ca : Nat := 0
  crc : Nat := 0
  symbols : List (List (Fin 20)) := []
  rank : Bool := false
  bank : BitVec 5 := 0
  syndrome : BitVec 16 := 0
  deriving DecidableEq, Repr

/-- What training finds on a channel (R487, R491, R492): its row of the table of populations, and for each grade from
4800 to 8000 the smallest eye margin in 1/128 UI, or none where a step fails. -/
structure DdrTrain where
  population : Fin 4
  margins : List (Option (BitVec 7))
  deriving DecidableEq, Repr

/-- A LUN as its parameter page reports it (R454, R455): its index c + 8p, whether the page passes its CRC and reports
only supported options, manufacturer, bits per cell (4 or 3), planes (4 or 2), pages per block, blocks per LUN, and the
measured program rate in MB/s. -/
structure NandLun where
  i : Fin 256
  ok : Bool
  maker : Nat
  bpc4 : Bool
  planes4 : Bool
  pages : Nat
  blocks : Nat
  mbps : Nat
  deriving DecidableEq, Repr

/-- What the reads of an operation of the flash store needed (R470, R472): codewords corrected, read-retry and soft
reads, codewords rebuilt from parity, and the most bits corrected in one codeword. -/
structure NandRead where
  corrected : Nat := 0
  retries : Nat := 0
  rebuilt : Nat := 0
  bits : Nat := 0
  deriving DecidableEq, Repr


/-- An address and UDP port on the network; an IPv4 address is the low 32 bits. -/
structure NetPeer where
  v6 : Bool
  addr : BitVec 128
  port : BitVec 16
  deriving DecidableEq, Repr

/-- A frame that an Ethernet port receives, as its headers classify it (R549): a PTP message and whether the S8G supports
it, an ARP, ND, ICMP or ICMPv6 request for the port's own addresses, a UDP datagram, a PAUSE (quanta of entry 0) or PFC
frame, or anything else. -/
inductive EthFrame where
  | ptp (domain : BitVec 8) (supported : Bool)
  | own (kind : Fin 4) (src : NetPeer)
  | udp (src dst : NetPeer) (payload : List Byte)
  | flow (pfc : Bool) (prios : BitVec 8) (quanta : List (BitVec 16))
  | other
  deriving DecidableEq, Repr

/-- Where the planner places a zoom channel (R269): channel `k` of input `inp` goes to channel `chan` of `die`, feeds port
`port` of `core` (none where its key names no program), and its ring lies at `ring` MiB. -/
structure ZoomPlace where
  inp : ADie
  k : BitVec 8
  die : TDie
  chan : Fin 128
  core : Option CoreIx := none
  port : Fin 4 := 0
  ring : BitVec 24 := 0
  deriving DecidableEq, Repr

/-- Where the planner places the output rings of a channel core, in MiB (R316). -/
structure CorePlace where
  die : TDie
  core : CoreIx
  out0 : BitVec 24
  out1 : BitVec 24
  deriving DecidableEq, Repr

/-- What the planner finds for a plan at an admission check (R347): the dies it needs, its placements, the stream each of
its Ethernet routes takes; then, with the running plans counted in and beside what the settings fix (`Loads`), traffic by
link direction in MB/s (R29; 2 * l runs from the die that R18 names first in link l), capture-memory traffic in MB/s and
regions in MiB by hub (R30, R172), flash writes by hub in MB/s (R33), line rate by port in Mb/s (R34), the costs of the
factory power model for the package and for the plan alone, in mW by ledger domain (R372); last the writes of the placement fields that its
keys and placements do not determine (R352). -/
structure PlanNeed where
  dies : BitVec 8 := 0
  zooms : List ZoomPlace := []
  cores : List CorePlace := []
  streams : List (Fin 64) := []
  links : List Nat := []
  rate : List Nat := []
  mib : List Nat := []
  flash : List Nat := []
  eth : List Nat := []
  power : List Nat := []
  share : List Nat := []
  writes : List (Nat × Nat) := []
  deriving DecidableEq, Repr

/-- What the planner does as a plan stops: the register writes that release what the plan held, and the plans it checks
again in consequence, with what each needs (R349, R352). -/
structure PlanEnd where
  writes : List (Nat × Nat) := []
  again : List (Fin 32 × PlanNeed) := []
  deriving DecidableEq, Repr

/-- What the ledger counts in one step (R360, R362): each domain's energy estimate in µJ before its gain; for each running
plan the resource time it holds in each domain and the work it has done; mebibytes flushed to flash. Then what the
planner does in the step (R349, R373, R378): what it writes for plans that a lower cap suspends, and what waiting plans
need that a higher cap or a higher available energy lets it check again. -/
structure LedgerIn where
  est : List Nat := []
  held : List (Fin 32 × List Nat) := []
  works : List (Fin 32 × Nat) := []
  flushed : Nat := 0
  ends : List (Fin 32 × PlanEnd) := []
  again : List (Fin 32 × PlanNeed) := []
  deriving DecidableEq, Repr

/-- The commands of the S8G: one constructor for each row of the opcode table. An operand names what the row acts on
(a die, an instance, a value written) or carries what the row finds outside the model (a measured value, received
bytes); see the assumption log, entry 2. -/
inductive Instr where
  /-- CONFIG_WRITE (R12): A host or planner write to a register field that has no row of its own lands in the cycle it arrives and takes effect then or at the block's named point of effect. -/
  | configWrite (p : Path) (addr : BitVec 32) (v : Word) (u : HwUpdate)
  /-- RC_CLEARING_READ (R636): A normal read of a register returns its value and clears every RC field in it, and a hardware set in that cycle survives. -/
  | rcClearingRead (p : Path) (w : BitVec 28) (u : HwUpdate)
  /-- ALIAS_SET_WRITE (R637): A write through the set alias window ORs the mask into the register in one cycle. -/
  | aliasSetWrite (p : Path) (w : BitVec 28) (m : Word) (u : HwUpdate)
  /-- ALIAS_CLEAR_WRITE (R637): A write through the clear alias window clears the masked bits in one cycle. -/
  | aliasClearWrite (p : Path) (w : BitVec 28) (m : Word) (u : HwUpdate)
  /-- ALIAS_TOGGLE_WRITE (R637): A write through the toggle alias window XORs the mask into the register in one cycle. -/
  | aliasToggleWrite (p : Path) (w : BitVec 28) (m : Word) (u : HwUpdate)
  /-- LINK_TRAIN (R25): Chrysalis trains every die link, using spare lanes where needed, before any plan loads. -/
  | linkTrain (trained : BitVec 9) (spareUsed : BitVec 9)
  /-- LINK_TRAIN_TIMEOUT (R25): A link not trained within 10 ms leaves its far die unusable until the next power-up. -/
  | linkTrainTimeout (l : Fin 9)
  /-- LINK_FLIT_SEND (R20): A link fills a flit slot from the ready virtual channels in priority order within their rate limits. -/
  | linkFlitSend (l : Fin 9) (back : Bool) (f : FlitSlot)
  /-- LINK_CRC_RETRY (R22): A link that detects a CRC error replays the affected flits from its retry buffer and counts the error. -/
  | linkCrcRetry (l : Fin 9) (back : Bool) (first : Nat)
  /-- INPUT_BUFFER_OVERFLOW (R24): A link that delivers nothing for longer than the 4 µs input buffer loses the overflowing samples, flags them LOST and raises a FAULT event. -/
  | inputBufferOverflow (t : TDie) (first last : Nat)
  /-- STREAM_FRAME (R42): At each 64-sample frame the acquisition die sends its stream flit with OVR, SETTLE and UNCAL status to both transform dies of its pair. -/
  | streamFrame (a : ADie) (f : ConvFrame)
  /-- ACQ_ENABLE (R672): A write of ACQ_CTRL.EN = 1 starts the stream at the next frame and starts a calibration run with cause START. -/
  | acqEnable (a : ADie)
  /-- ACQ_DISABLE (R65): A write of ACQ_CTRL.EN = 0 ends the stream after the frame in progress, abandons the calibration step and sets the state OFF. -/
  | acqDisable (a : ADie)
  /-- GAIN_WRITE (R39): A write that changes ACQ_CTRL.GAIN takes effect at the next frame boundary and marks the following 7 frames SETTLE. -/
  | gainWrite (a : ADie) (code : Fin 32)
  /-- GAIN_SETTLE_END (R39): After 7 frames the SETTLE status of a gain change ends. -/
  | gainSettleEnd (a : ADie)
  /-- SUBWINDOW_COMPLETE (R47): A calibration sub-window of 2^16 samples per slot completes and is tested for qualification. -/
  | subwindowComplete (a : ADie)
  /-- CAL_WINDOW_COMPLETE (R49): After 64 qualifying sub-windows the estimators compute offset, gain and skew errors for each slot. -/
  | calWindowComplete (a : ADie)
  /-- FAILED_SC_REPLACE (R61): At the next frame boundary the spare replaces a failed sub-converter, which is retired, or the second failure leaves it in service as DEGRADED. -/
  | failedScReplace (a : ADie)
  /-- CAL_STEP_START (R55): A run step starts: the spare begins shadowing slot s and collection of its window begins. -/
  | calStepStart (a : ADie)
  /-- VERIFY_WINDOW_COMPLETE (R56): The shadow verification window completes and the spare is compared with the live sub-converter against CAL_VERIFY limits. -/
  | verifyWindowComplete (a : ADie)
  /-- SPARE_SWAP (R45): At a frame boundary the spare takes over slot s and the displaced sub-converter becomes the spare. -/
  | spareSwap (a : ADie)
  /-- TRIM_UPDATE (R50): The displaced sub-converter's trims are updated from the estimates by the loop gains and settle. -/
  | trimUpdate (a : ADie)
  /-- CAL_RUN_COMPLETE (R55): After 65 steps a run completes, counts in CAL_RUN_COUNT, clears UNCAL and returns to IDLE or runs again on RERUN. -/
  | calRunComplete (a : ADie)
  /-- IDLE_STEP_START (R57): STEP_IDLE after the previous one an idle step starts, shadowing and verifying without trimming. -/
  | idleStepStart (a : ADie)
  /-- LIVE_TRIM_STEP (R63): In FROZEN with LIVE_TRIM, a live-trim run step collects a window for a live slot and moves its trims by at most one step. -/
  | liveTrimStep (a : ADie)
  /-- CAL_TEMP_READ (R53): Every 10 ms the die temperature is read and a run starts with cause TEMP if it has moved more than TEMP_DELTA. -/
  | calTempRead (a : ADie) (temp : BitVec 16)
  /-- CAL_INTERVAL_EXPIRE (R53): MAX_INTERVAL seconds after the last run a run starts with cause INTERVAL. -/
  | calIntervalExpire (a : ADie)
  /-- CAL_STAT_TIMEOUT (R59): A step that has waited STAT_TIMEOUT counts in CAL_TIMEOUT_COUNT, raises a NOTICE event and restarts its timer. -/
  | calStatTimeout (a : ADie)
  /-- CAL_CMD_RUN (R53): A write of 1 to CAL_CMD.RUN starts a run with cause HOST or sets RERUN during a run. -/
  | calCmdRun (a : ADie)
  /-- CAL_CMD_ABORT (R65): A write of 1 to CAL_CMD.ABORT ends the run after the current step and clears RERUN. -/
  | calCmdAbort (a : ADie)
  /-- CAL_CMD_XSKEW (R69): A write of 1 to CAL_CMD.XSKEW on A0 starts the cross-correlation skew measurement, or sets NA in the S8G-4D. -/
  | calCmdXskew (a : ADie)
  /-- XSKEW_COMPLETE (R70): The skew correlation over 2^24 samples completes, writes XSKEW_RESULT or FAIL, and applies a valid result if APPLY is set. -/
  | xskewComplete
  /-- CAL_MODE_WRITE (R65): A write of CAL_CTRL.MODE switches among OFF, VERIFY and AUTO with the effects on the step and run in progress. -/
  | calModeWrite (a : ADie) (mode : BitVec 2)
  /-- EST_SEL_WRITE (R74): A write of EST_SEL takes a snapshot of that slot's last estimates into EST_OFS, EST_GAIN and EST_SKEW. -/
  | estSelWrite (a : ADie) (slot : Fin 64)
  /-- FACTORY_TRIM_LOAD (R66): When the acquisition die is enabled its fused trims are interpolated to the die temperature and written to all sub-converters. -/
  | factoryTrimLoad (a : ADie) (temp : Rat)
  /-- ACQ_DELAY_MEASURE (R67): Every 1 ms the acquisition die measures its sample-clock phase into ACQ_DELAY_MEAS and updates ACQ_DELAY_TOTAL. -/
  | acqDelayMeasure (a : ADie) (v : BitVec 16)
  /-- JRX_ENABLE (R77): Setting JRX_CTRL.EN starts lane lock to sync headers and extended multiblocks. -/
  | jrxEnable
  /-- JRX_RELEASE (R78): At RBD blocks after an LEMC edge the lane buffers release together, READY sets and the stream starts. -/
  | jrxRelease
  /-- JRX_CRC_ERROR (R80): A CRC-12 or sync-header error counts in JRX_ERR_COUNT and sets CRC_ERR. -/
  | jrxCrcError
  /-- JRX_LANE_LOCK_LOSS (R80): A lane that loses lock raises a FAULT event and its lost samples are flagged and not repaired. -/
  | jrxLaneLockLoss (lane : Fin 16) (first last : Nat)
  /-- WB_COMMIT (R92): A write of 1 to WB_COMMIT.COMMIT hands the shadow set over and schedules a switch sample, or sets HELD while PENDING. -/
  | wbCommit (t : TDie)
  /-- WB_REVERT (R96): A write of 1 to WB_COMMIT.REVERT copies the live set into the shadow set and clears SHADOW_DIRTY. -/
  | wbRevert (t : TDie)
  /-- WB_HELD_HANDOVER (R94): In the cycle after PENDING clears, a held commit hands over the shadow set as it then stands. -/
  | wbHeldHandover (t : TDie)
  /-- WB_SWITCH (R97): At switch sample S the new wide-band setting takes effect, the interval and trace close, and spectra in the switch zone carry SWITCH and RETUNE. -/
  | wbSwitch (t : TDie)
  /-- WB_PENDING_CLEAR (R92): PENDING clears when the first spectrum of the new setting has reached the consumers on every die. -/
  | wbPendingClear (t : TDie)
  /-- WTAB_DATA_ACCESS (R100): An access to WB_WTAB_DATA writes or reads the shadow user-window coefficient at ADDR and increments ADDR. -/
  | wtabDataAccess (t : TDie) (write : Option (BitVec 18))
  /-- SPECTRUM_COMPLETE (R105): A pipeline completes the spectrum of a frame and delivers it to the detectors, triggers, density engine and output. -/
  | spectrumComplete (t : TDie) (start : Nat) (replay : Bool)
  /-- DETECT_MERGE (R114): At 87.5 % overlap the hub merges the partial detected spectra of both dies by their counts. -/
  | detectMerge (t : TDie)
  /-- TRACE_REPAIR_OUTPUT (R119): After a replay from the Tarn the S8G outputs each incomplete trace again, complete and REPAIRED, with the same FIRST. -/
  | traceRepairOutput (t : TDie) (first : Nat)
  /-- LEVEL_HIT (R137): A LEVEL condition's state changes at the first sample past its threshold and gives a hit by POL. -/
  | levelHit (t : TDie) (c : Fin 16)
  /-- WIDTH_HIT (R138): A WIDTH condition judges a LEVEL pulse at its end or at WMAX + 1 and places a hit at its first sample. -/
  | widthHit (t : TDie) (c : Fin 16)
  /-- TRGU_FORCE (R143): A write to TRGU_u_FORCE gives a HOST hit at the sample the lead die is receiving. -/
  | trguForce (t : TDie) (u : Fin 8)
  /-- TIMER_HIT (R143): A unit's TIMER source gives a hit at every sample that is a multiple of 8 × PERIOD. -/
  | timerHit (t : TDie) (u : Fin 8) (j : Nat)
  /-- FABRIC_EVALUATE (R151): When sample j + ALIGN × 1024 reaches the balls the fabric evaluates sample j for every unit and issues trigger events. -/
  | fabricEvaluate (t : TDie) (j : Nat)
  /-- DROPOUT_WINDOW_EXPIRE (R145): In DROPOUT a held firing of A with no firing of B by a + W gives a trigger event at a + W. -/
  | dropoutWindowExpire (t : TDie) (u : Fin 8)
  /-- HOLDOFF_END (R147): At e + 8 × HOLDOFF a unit's holdoff ends and firings are accepted again. -/
  | holdoffEnd (t : TDie) (u : Fin 8)
  /-- LATE_HIT (R152): A hit that arrives after its sample was evaluated is evaluated from the log, or as INCOMPLETE, and counts in TRG_LATE_COUNT. -/
  | lateHit (t : TDie)
  /-- TRIGGER_MESSAGE_SEND (R156): A unit with NET_TX hands a trigger message to its hub's transmit queue, or drops it with TXFULL when the queue is full. -/
  | triggerMessageSend (t : TDie)
  /-- TRIGGER_MESSAGE_REPEAT (R156): Every 10 µs a further REPEAT copy of a trigger message is queued. -/
  | triggerMessageRepeat (t : TDie)
  /-- TRIGGER_MESSAGE_RECEIVE (R157): A received trigger message is checked, rejected or accepted, de-duplicated per unit and placed as a NET hit. -/
  | triggerMessageReceive (payload : List Byte)
  /-- TRG_COMMIT (R161): A write of 1 to TRG_COMMIT.COMMIT on the lead die hands over both dies' TRG shadow sets and schedules S on multiples of 8192. -/
  | trgCommit (t : TDie)
  /-- TRG_REVERT (R167): A write of 1 to TRG_COMMIT.REVERT copies both dies' live TRG sets into their shadow sets. -/
  | trgRevert (t : TDie)
  /-- TRG_HELD_HANDOVER (R161): A commit held while PENDING hands over in the cycle after PENDING clears. -/
  | trgHeldHandover (t : TDie)
  /-- TRG_SWITCH (R162): At S the new TRG set takes effect, held A firings are discarded and conditions evaluate against their new settings. -/
  | trgSwitch (t : TDie)
  /-- TRG_PENDING_CLEAR (R161): TRG PENDING clears once the fabric has evaluated S and every spectral condition has evaluated its first spectrum of the new set. -/
  | trgPendingClear (t : TDie)
  /-- TRG_MASK_DATA_ACCESS (R130): An access to TRG_MASK_DATA writes or reads a shadow mask entry and increments TRG_MASK_ADDR, ignoring writes on a partner die. -/
  | trgMaskDataAccess (t : TDie) (write : Option Word)
  /-- AUTO_MASK_BUILD (R166): The planner builds an AUTO mask from the first trace after the first calibration run and commits it. -/
  | autoMaskBuild (t : TDie)
  /-- TARN_BLOCK_WRITE (R169): Each block of 65,536 stream samples is written into its Tarn slot with its descriptor and generation. -/
  | tarnBlockWrite (t : TDie)
  /-- TARN_START (R173): With REC_TARN_CTRL.EN set and the stream running the Tarn starts empty, reading its base and depth. -/
  | tarnStart (t : TDie)
  /-- REC_ARM (R177): A write of 1 to REC_CMD.ARM latches the (A) fields and mask-test table, computes CAP and arms the selected units. -/
  | recArm (t : TDie)
  /-- REC_STOP (R181): A write of 1 to REC_CMD.STOP disarms the units, and DONE and STOPPED set when the last delivered segment completes. -/
  | recStop (t : TDie)
  /-- TRIGGER_EVENT_DELIVER (R179): A trigger event delivered to the record engine takes a SEGNO and slot and starts the copy of its segment from the Tarn. -/
  | triggerEventDeliver (t : TDie)
  /-- SEGMENT_COMPLETE (R182): A segment's data, measurements and header are written, REC_SEG_COUNT increments and the REC request line pulses. -/
  | segmentComplete (t : TDie)
  /-- REC_REARM (R182): The record engine re-arms its units 0.8 µs after an event, or when the fabric reaches e + POST. -/
  | recRearm (t : TDie)
  /-- CO_ENABLE (R196): A change of REC_CO_CTRL.EN to 1 reads the change-only settings and starts every bin OFF. -/
  | coEnable (t : TDie)
  /-- CO_BLOCK_FLUSH (R197): REC_CO_FLUSH ms after it opened a change-only block closes, even if empty. -/
  | coBlockFlush (t : TDie)
  /-- DENS_FRAME_END (R212): After F spectra the engine takes the frame from the counts and applies the decay. -/
  | densFrameEnd (t : TDie)
  /-- DENS_FRAME_WRITTEN (R214): A frame is in capture memory, DENS_MAP_LAST updates and the DENS frame line pulses. -/
  | densFrameWritten (t : TDie)
  /-- SG_ROW_END (R216): After R spectra the spectrogram engine reduces them into one row. -/
  | sgRowEnd (t : TDie)
  /-- SG_ROW_WRITTEN (R219): A row is in capture memory, DENS_SG_LAST updates and the DENS row line pulses. -/
  | sgRowWritten (t : TDie)
  /-- DENS_CLEAR (R213): A write of 1 to DENS_CMD.CLEAR sets every count of both banks to zero. -/
  | densClear (t : TDie)
  /-- DENS_COMMIT (R228): A write of 1 to DENS_CMD.COMMIT hands over the DENS shadow set from the next frame start, closing the frame and row with PARTIAL. -/
  | densCommit (t : TDie)
  /-- DENS_REVERT (R227): A write of 1 to DENS_CMD.REVERT copies the live DENS set into the shadow set. -/
  | densRevert (t : TDie)
  /-- DENS_HELD_HANDOVER (R228): A DENS commit held while PENDING hands over once PENDING clears. -/
  | densHeldHandover (t : TDie)
  /-- DENS_TAB_DATA_ACCESS (R215): An access to DENS_TAB_DATA writes or reads a shadow map-table entry and advances DENS_TAB_ADDR. -/
  | densTabDataAccess (t : TDie) (write : Option (BitVec 16))
  /-- DENS_ENABLE (R231): A change of DENS_CTRL.EN to 1 makes the next spectrum the first of the setting. -/
  | densEnable (t : TDie)
  /-- DENS_MERGE_ARRIVE (R223): The partner die's counts arrive and are added to the lead die's counts before the frame is taken. -/
  | densMergeArrive (t : TDie)
  /-- DENS_MERGE_TIMEOUT (R223): If partner counts have not arrived DENS_MERGE.WAIT after the frame end the frame is taken without them as PARTIAL and MERGE_LATE. -/
  | densMergeTimeout (t : TDie)
  /-- DENS_ROW_REPAIR (R226): After a replay the complete row is written again as REPAIRED into its slot, or discarded if the slot was reused. -/
  | densRowRepair (t : TDie) (first : Nat)
  /-- CHZ_PRIMED (R239): 6144 stream samples after the stream starts the band bank is primed and PRIMED sets. -/
  | chzPrimed (t : TDie)
  /-- ZOOM_OUTPUT (R245): Every L band samples a zoom channel emits one output to its detectors, its core port and its memory block. -/
  | zoomOutput (t : TDie) (n : Fin 128)
  /-- ZOOM_BLOCK_WRITTEN (R264): A zoom block is in memory, ZC_n_BLOCKS increments and the ZOOM line pulses. -/
  | zoomBlockWritten (t : TDie) (n : Fin 128)
  /-- CHZ_COMMIT (R251): A write of 1 to bits of CHZ_COMMIT_k hands those channels over and schedules one switch point. -/
  | chzCommit (t : TDie) (k : Fin 4) (mask : Word)
  /-- CHZ_REVERT (R252): A write of 1 to bits of CHZ_REVERT_k copies those channels' live sets into their shadow sets. -/
  | chzRevert (t : TDie) (k : Fin 4) (mask : Word)
  /-- CHZ_SYNC (R254): A write of 1 to bits of CHZ_SYNC_k schedules a synchronising reset of those channels at a switch point. -/
  | chzSync (t : TDie) (k : Fin 4) (mask : Word)
  /-- CHZ_HELD_HANDOVER (R252): A channel commit held while PENDING hands over once PENDING clears. -/
  | chzHeldHandover (t : TDie) (n : Fin 128)
  /-- ZOOM_SWITCH_POINT (R253): At u_S a channel's new live set takes effect, with a synchronising reset if EN, BAND or L changed, and PENDING clears. -/
  | zoomSwitchPoint (t : TDie)
  /-- ZOOM_CHANNEL_FAULT (R267): A zoom channel fault raises a FAULT event and the planner moves the channel to a free channel at the next switch point. -/
  | zoomChannelFault (t : TDie) (n : Fin 128)
  /-- REPLAY_REBUILD (R266): A die's replay path reads the Tarn and rebuilds a channel's outputs for the affected interval with REPAIRED. -/
  | replayRebuild (t : TDie) (n : Fin 128) (v : Nat) (last : Bool)
  /-- PIPELINE_FAULT (R627): An FFT pipeline fails its residue check, raises a FAULT event and the hot spare takes over with a replay of the lost spectra. -/
  | pipelineFault (t : TDie) (pipe : Fin 4) (first : BitVec 56)
  /-- REPAIR_PLACE (R355): The planner places a spare for a repairable fault and starts or queues its replay from the Tarn. -/
  | repairPlace (h : Hub)
  /-- REPAIR_COMPLETE (R628): When the last replayed item of a repair is delivered the planner logs a REPAIRED entry and takes a new spare. -/
  | repairComplete (h : Hub) (again : List (Fin 32 × PlanNeed))
  /-- NOP (R318): The core instruction NOP does nothing for one cycle. -/
  | coreNop (t : TDie) (c : CoreIx) (e : EccRead)
  /-- HALT (R342): The core instruction HALT stops issue and halts the core with cause HALT. -/
  | coreHalt (t : TDie) (c : CoreIx) (e : EccRead)
  /-- ADD (R325): ALU ADD writes xs + xt and sets Z, N, C and V. -/
  | coreAdd (t : TDie) (c : CoreIx) (e : EccRead)
  /-- ADC (R325): ALU ADC writes xs + xt + C and sets the flags. -/
  | coreAdc (t : TDie) (c : CoreIx) (e : EccRead)
  /-- SUB (R325): ALU SUB writes xs − xt and sets the flags. -/
  | coreSub (t : TDie) (c : CoreIx) (e : EccRead)
  /-- SBC (R325): ALU SBC writes xs − xt − 1 + C and sets the flags. -/
  | coreSbc (t : TDie) (c : CoreIx) (e : EccRead)
  /-- ADDS (R325): ALU ADDS writes the saturated sum and sets V if clamped. -/
  | coreAdds (t : TDie) (c : CoreIx) (e : EccRead)
  /-- SUBS (R325): ALU SUBS writes the saturated difference and sets V if clamped. -/
  | coreSubs (t : TDie) (c : CoreIx) (e : EccRead)
  /-- AND (R325): ALU AND writes xs & xt. -/
  | coreAnd (t : TDie) (c : CoreIx) (e : EccRead)
  /-- OR (R325): ALU OR writes xs | xt. -/
  | coreOr (t : TDie) (c : CoreIx) (e : EccRead)
  /-- XOR (R325): ALU XOR writes xs ^ xt. -/
  | coreXor (t : TDie) (c : CoreIx) (e : EccRead)
  /-- ANDN (R325): ALU ANDN writes xs & ~xt. -/
  | coreAndn (t : TDie) (c : CoreIx) (e : EccRead)
  /-- ASR (R325): ALU ASR shifts xs right arithmetically by xt[4:0]. -/
  | coreAsr (t : TDie) (c : CoreIx) (e : EccRead)
  /-- LSR (R325): ALU LSR shifts xs right logically by xt[4:0]. -/
  | coreLsr (t : TDie) (c : CoreIx) (e : EccRead)
  /-- LSL (R325): ALU LSL shifts xs left by xt[4:0]. -/
  | coreLsl (t : TDie) (c : CoreIx) (e : EccRead)
  /-- MIN (R325): ALU MIN writes the signed minimum of xs and xt. -/
  | coreMin (t : TDie) (c : CoreIx) (e : EccRead)
  /-- MAX (R325): ALU MAX writes the signed maximum of xs and xt. -/
  | coreMax (t : TDie) (c : CoreIx) (e : EccRead)
  /-- ABS (R325): ALU ABS writes the saturated absolute value of xs. -/
  | coreAbs (t : TDie) (c : CoreIx) (e : EccRead)
  /-- NEG (R325): ALU NEG writes the saturated negation of xs. -/
  | coreNeg (t : TDie) (c : CoreIx) (e : EccRead)
  /-- NOT (R325): ALU NOT writes ~xs. -/
  | coreNot (t : TDie) (c : CoreIx) (e : EccRead)
  /-- CMP (R325): ALU CMP sets flags from xs − xt without writing. -/
  | coreCmp (t : TDie) (c : CoreIx) (e : EccRead)
  /-- TST (R325): ALU TST sets flags from xs & xt without writing. -/
  | coreTst (t : TDie) (c : CoreIx) (e : EccRead)
  /-- NORM (R325): ALU NORM writes the count of redundant sign bits of xs. -/
  | coreNorm (t : TDie) (c : CoreIx) (e : EccRead)
  /-- ADDI (R326): ADDI writes xs plus the sign-extended immediate. -/
  | coreAddi (t : TDie) (c : CoreIx) (e : EccRead)
  /-- ANDI (R326): ANDI writes xs AND the immediate. -/
  | coreAndi (t : TDie) (c : CoreIx) (e : EccRead)
  /-- ORI (R326): ORI writes xs OR the immediate. -/
  | coreOri (t : TDie) (c : CoreIx) (e : EccRead)
  /-- XORI (R326): XORI writes xs XOR the immediate. -/
  | coreXori (t : TDie) (c : CoreIx) (e : EccRead)
  /-- CMPI (R326): CMPI sets flags from xs minus the immediate. -/
  | coreCmpi (t : TDie) (c : CoreIx) (e : EccRead)
  /-- SHI (R326): SHI shifts xs by an immediate amount as ASR, LSR or LSL. -/
  | coreShi (t : TDie) (c : CoreIx) (e : EccRead)
  /-- MOV (R327): MOV copies register SRC into DST with the effects of R322. -/
  | coreMov (t : TDie) (c : CoreIx) (e : EccRead)
  /-- LDI (R327): LDI writes the sign-extended 16-bit immediate into a register. -/
  | coreLdi (t : TDie) (c : CoreIx) (e : EccRead)
  /-- LDIH (R327): LDIH writes an 8-bit immediate into bits [23:16] of a register. -/
  | coreLdih (t : TDie) (c : CoreIx) (e : EccRead)
  /-- LD (R328): LD loads a data word into a register at the address MODE selects. -/
  | coreLd (t : TDie) (c : CoreIx) (e : EccRead)
  /-- ST (R328): ST stores a register into a data word at the address MODE selects. -/
  | coreSt (t : TDie) (c : CoreIx) (e : EccRead)
  /-- CLRA (R331): CLRA clears ACa. -/
  | coreClra (t : TDie) (c : CoreIx) (e : EccRead)
  /-- MOVA (R331): MOVA copies ACb into ACa. -/
  | coreMova (t : TDie) (c : CoreIx) (e : EccRead)
  /-- ADDA (R331): ADDA adds ACb to ACa under the range rule. -/
  | coreAdda (t : TDie) (c : CoreIx) (e : EccRead)
  /-- SUBA (R331): SUBA subtracts ACb from ACa under the range rule. -/
  | coreSuba (t : TDie) (c : CoreIx) (e : EccRead)
  /-- NEGA (R331): NEGA writes −ACb into ACa. -/
  | coreNega (t : TDie) (c : CoreIx) (e : EccRead)
  /-- ABSA (R331): ABSA writes |ACb| into ACa. -/
  | coreAbsa (t : TDie) (c : CoreIx) (e : EccRead)
  /-- ASHA (R331): ASHA writes ACb shifted by sh into ACa. -/
  | coreAsha (t : TDie) (c : CoreIx) (e : EccRead)
  /-- LDAH (R331): LDAH loads xr × 2^24 into ACa. -/
  | coreLdah (t : TDie) (c : CoreIx) (e : EccRead)
  /-- LDAL (R331): LDAL loads sign-extended xr into ACa. -/
  | coreLdal (t : TDie) (c : CoreIx) (e : EccRead)
  /-- EXT (R294): EXT extracts ACb with shift sh into xr, saturating and setting ESAT. -/
  | coreExt (t : TDie) (c : CoreIx) (e : EccRead)
  /-- CMPA (R331): CMPA sets Z and N from ACa − ACb exactly without writing. -/
  | coreCmpa (t : TDie) (c : CoreIx) (e : EccRead)
  /-- MPY (R329): MPY writes the product into ACa and optionally performs the two loads. -/
  | coreMpy (t : TDie) (c : CoreIx) (e : EccRead)
  /-- MAC (R329): MAC adds the product to ACa and optionally performs the two loads. -/
  | coreMac (t : TDie) (c : CoreIx) (e : EccRead)
  /-- MSU (R329): MSU subtracts the product from ACa and optionally performs the two loads. -/
  | coreMsu (t : TDie) (c : CoreIx) (e : EccRead)
  /-- LDD (R330): LDD performs only the dual loads with post-modify. -/
  | coreLdd (t : TDie) (c : CoreIx) (e : EccRead)
  /-- MAXI (R333): MAXI keeps a larger candidate and its index, advances the index and optionally loads. -/
  | coreMaxi (t : TDie) (c : CoreIx) (e : EccRead)
  /-- MINI (R333): MINI keeps a smaller candidate and its index, advances the index and optionally loads. -/
  | coreMini (t : TDie) (c : CoreIx) (e : EccRead)
  /-- JMP (R335): JMP transfers to TARGET after two delay slots if its condition holds. -/
  | coreJmp (t : TDie) (c : CoreIx) (e : EccRead)
  /-- CALL (R335): CALL writes its return address into Pn and transfers to TARGET after two delay slots. -/
  | coreCall (t : TDie) (c : CoreIx) (e : EccRead)
  /-- JR (R335): JR transfers to Pn after two delay slots. -/
  | coreJr (t : TDie) (c : CoreIx) (e : EccRead)
  /-- RETI (R298): RETI returns from the handler to bank 0 at IRA after its delay slots. -/
  | coreReti (t : TDie) (c : CoreIx) (e : EccRead)
  /-- REP (R336): REP pushes a block-repeat level, or skips the body in 3 cycles on a count of 0. -/
  | coreRep (t : TDie) (c : CoreIx) (e : EccRead)
  /-- LEXIT (R337): LEXIT removes the innermost loop level, halting with LOOP_UNF on an empty stack. -/
  | coreLexit (t : TDie) (c : CoreIx) (e : EccRead)
  /-- IN (R338): IN reads a port into two registers and PTAG, stalling on an empty port unless NB is set. -/
  | coreIn (t : TDie) (c : CoreIx) (e : EccRead)
  /-- OUT (R339): OUT writes a register into an output port buffer, stalling when it is full. -/
  | coreOut (t : TDie) (c : CoreIx) (e : EccRead) (drained : Nat)
  /-- TRIG (R340): TRIG gives a CORE hit at J(port) + xs. -/
  | coreTrig (t : TDie) (c : CoreIx) (e : EccRead)
  /-- EVT (R305): EVT pushes a value and code into the core event queue, or sets EVQ_OVF when full. -/
  | coreEvt (t : TDie) (c : CoreIx) (e : EccRead)
  /-- SRSET (R341): SRSET sets the SR bits named in MASK. -/
  | coreSrset (t : TDie) (c : CoreIx) (e : EccRead)
  /-- SRCLR (R341): SRCLR clears the SR bits named in MASK. -/
  | coreSrclr (t : TDie) (c : CoreIx) (e : EccRead)
  /-- INTERRUPT_TAKE (R297): A pending enabled interrupt is taken at the next eligible boundary, saving IRA and switching to bank 1. -/
  | interruptTake (t : TDie) (c : CoreIx)
  /-- CORE_TIMER_EXPIRE (R296): TMR reaching 0 makes the TIMER interrupt pending. -/
  | coreTimerExpire (t : TDie) (c : CoreIx)
  /-- CORE_DOORBELL (R309): A write to CORE_c_DOORBELL loads DBR and sets DOORBELL pending, or DBOVF if already pending. -/
  | coreDoorbell (t : TDie) (c : CoreIx) (v : BitVec 24)
  /-- CORE_RUN (R307): A write of CORE_c_CTRL.RUN = 1 starts issue at PC. -/
  | coreRun (t : TDie) (c : CoreIx)
  /-- CORE_STOP (R307): A write of CORE_c_CTRL.RUN = 0 stops issue and halts the core with cause HOST. -/
  | coreStop (t : TDie) (c : CoreIx)
  /-- CORE_STEP (R307): A write of CORE_c_CTRL.STEP issues one instruction while halted. -/
  | coreStep (t : TDie) (c : CoreIx) (e : EccRead)
  /-- CORE_RESET (R307): A write of CORE_c_CTRL.RESET sets every register of both banks to reset and empties the loop stacks. -/
  | coreReset (t : TDie) (c : CoreIx)
  /-- BREAKPOINT_HALT (R307): With BRK_EN the core halts with cause BREAK before issuing the instruction at CORE_c_BRK.ADDR. -/
  | breakpointHalt (t : TDie) (c : CoreIx)
  /-- CCTL_START (R310): A write to CCTL_START_k sets RUN of each selected core in the same cycle. -/
  | cctlStart (t : TDie) (k : Fin 5) (mask : Word)
  /-- CCTL_STOP (R310): A write to CCTL_STOP_k clears RUN of each selected core in the same cycle. -/
  | cctlStop (t : TDie) (k : Fin 5) (mask : Word)
  /-- CORE_DBG_DATA_WRITE (R308): A write of CORE_c_DBG_DATA writes the selected core register while halted, or is a violation while running. -/
  | coreDbgDataWrite (t : TDie) (c : CoreIx) (v : BitVec 24)
  /-- CORE_EVQ_POP (R310): A normal read of CORE_c_EVQ pops the oldest event. -/
  | coreEvqPop (t : TDie) (c : CoreIx)
  /-- CORE_PROGRAM_WRITE (R275): A host write to program memory takes effect in its cycle, including for a fetch of that word. -/
  | coreProgramWrite (t : TDie) (c : CoreIx) (a : BitVec 14) (v : Word)
  /-- CORE_DATA_WRITE (R276): A host write to data memory lands and wins over a core write in the same cycle. -/
  | coreDataWrite (t : TDie) (c : CoreIx) (a : BitVec 14) (v : Word)
  /-- CORE_SCRUB (R273): Every 1024 cycles the scrubber reads and corrects one word of each memory. -/
  | coreScrub (t : TDie) (c : CoreIx) (e : EccRead)
  /-- CORE_PARITY_ERROR (R311): A parity mismatch in the register file or pipeline halts the core with cause PARITY and a FAULT event. -/
  | coreParityError (t : TDie) (c : CoreIx)
  /-- CORE_REPAIR (R314): On an ECC or PARITY halt the planner loads a spare, routes the feeding channels to it and starts it with REPLAY. -/
  | coreRepair (t : TDie) (c spare : CoreIx) (prog : List Word) (data : List (BitVec 24))
  /-- CORE_REPLAY_END (R314): At the end of the replay REPLAY clears and the spare drains the catch-up buffer with CATCHUP. -/
  | coreReplayEnd (t : TDie) (c : CoreIx)
  /-- CATCHUP_EMPTY (R314): When the catch-up buffer empties CATCHUP clears and the spare reads its ports directly. -/
  | catchupEmpty (t : TDie) (c : CoreIx)
  /-- CORE_BLOCK_WRITTEN (R304): A core output block is in memory and the CORE line pulses. -/
  | coreBlockWritten (t : TDie) (c : CoreIx) (p : Fin 2)
  /-- PLAN_LOAD (R345): PLAN_CMD OP = LOAD reads a staged plan record into a slot, or refuses it with SLOT or FORMAT. -/
  | planLoad (n : Fin 32)
  /-- PLAN_ADMIT (R347): PLAN_CMD OP = ADMIT admits the plan in a slot now under the admission checks. -/
  | planAdmit (n : Fin 32) (p : PlanNeed)
  /-- PLAN_STOP (R351): PLAN_CMD OP = STOP ends the plan in a slot. -/
  | planStop (n : Fin 32) (e : PlanEnd)
  /-- PLAN_CLEAR (R375): PLAN_CMD OP = CLEAR stops a running plan and empties its slot. -/
  | planClear (n : Fin 32) (e : PlanEnd)
  /-- PLAN_START (R347): At a plan's START the planner applies the admission checks in order and admits or refuses the plan. -/
  | planStart (n : Fin 32) (p : PlanNeed)
  /-- PLAN_END (R351): At START + DURATION a plan ends and is rescheduled by PERIOD, and the planner rewrites the blocks it used. -/
  | planEnd (n : Fin 32) (e : PlanEnd)
  /-- PLAN_WAKE (R358): At START − LEAD the planner wakes the dies a plan needs. -/
  | planWake (n : Fin 32) (dies : BitVec 8)
  /-- DIE_SLEEP (R359): A die unneeded for SLEEP_S is powered down, entering SENTINEL or AON as allowed. -/
  | dieSleep (d : Fin 8)
  /-- PWR_CMD_SLEEP (R359): A write of 1 to PWR_CMD.SLEEP applies the sleep rule now. -/
  | pwrCmdSleep
  /-- PWR_CMD_WAKE (R359): A write of 1 to PWR_CMD.WAKE leaves AON for SENTINEL. -/
  | pwrCmdWake
  /-- AON_EXIT (R397): An exit from AON re-runs the start-up from the rails row, reading and checking the image again. -/
  | aonExit
  /-- HOLDUP_RECHECK (R370): Every 100 ms a plan refused for HOLDUP while the bank charges is checked again. -/
  | holdupRecheck (n : Fin 32) (p : PlanNeed)
  /-- LEDGER_STEP (R360): Every 1 ms the ledger adds to its counters, measures the bank voltage and recomputes E_avail, the limit and OVER_CAP. -/
  | ledgerStep (l : LedgerIn)
  /-- LEDGER_CALIBRATE (R361): Every calibration interval, or on PWR_CMD.CAL, the ledger moves each measured domain's gain toward the rail measurement. -/
  | ledgerCalibrate
  /-- CAP_TEST_START (R363): Periodically or on PWR_CMD.TEST the ledger stops the charger and records V0 to measure capacitance. -/
  | capTestStart
  /-- CAP_TEST_END (R363): When V has fallen by DROP or TEST_MAX passes the ledger computes C, or sets TEST_FAIL, and restarts the charger. -/
  | capTestEnd
  /-- THROTTLE_SUSPEND (R368): A writer waiting SUSPEND_MS makes the planner suspend the lowest-priority staging plan with HOLDUP. -/
  | throttleSuspend (e : PlanEnd)
  /-- PWR_CAP_WRITE (R373): A write that lowers PWR_CAP below PWR_PRED makes the planner suspend plans with reason CAP. -/
  | pwrCapWrite (p : Path) (v : BitVec 17)
  /-- POWER_FAIL (R371): A fall of PWR_FAIL_N enters FLUSH, stops every plan and removes power from the A and T dies. -/
  | powerFail
  /-- RESET_ASSERT (R399): RESET_N low returns every register except BOOT_NEXT and the time counter to reset. -/
  | resetAssert
  /-- RESET_RELEASE (R396): The rising edge of RESET_N samples BOOT_SEL and fuses and starts the Chrysalis start-up. -/
  | resetRelease (sel : BitVec 2)
  /-- RAIL_SEQUENCE_STEP (R656): Each millisecond the sequencer checks the previous rail and asserts the next enable. -/
  | railSequenceStep (ok pmb : Bool)
  /-- RAIL_OUT_OF_TOLERANCE (R660): Every 10 µs the always-on domain checks each rail and raises its source, or a power failure on a deep undervoltage. -/
  | railOutOfTolerance (out deep : BitVec 10) (codes : List (BitVec 32))
  /-- VCORE_SET_POINT (R654): With an adaptive regulator the S8G moves the VCORE set point over PMBus by at most 10 mV per 10 µs. -/
  | vcoreSetPoint (mv : Nat)
  /-- MEMORY_TRAINING_COMPLETE (R492): DDR-5 training of every channel ends, each channel READY or FAILED, and the boot region is reserved. -/
  | memoryTrainingComplete (a0 a1 b0 b1 : DdrTrain)
  /-- IMAGE_READ_COMPLETE (R389): A NOR copy has been read into the boot region and is checked in order, falling back or entering FAILED. -/
  | imageReadComplete (img : List Byte) (valid : Bool) (size : Nat)
  /-- BOOT_PLANNER_START (R396): With the sample clocks locked Chrysalis loads the plans into slots and starts the planner, then reaches DONE. -/
  | bootPlannerStart (ms : BitVec 16)
  /-- SVN_ADVANCE (R395): With ADVANCE_SVN the security-version fuses are blown up to SEC_VERSION after DONE. -/
  | svnAdvance
  /-- BOOT_HOSTGO (R393): A write of BOOT_CMD.HOSTGO checks the host image and applies it if it passes. -/
  | bootHostgo
  /-- BOOT_NOR_PROG (R404): A write of BOOT_CMD.NOR_PROG erases, programs and verifies the NOR range from hub memory. -/
  | bootNorProg
  /-- NOR_PROG_DONE (R404): The NOR programming completes, clearing NOR_BUSY and setting NOR_ERR on a mismatch. -/
  | norProgDone (mismatch : Bool)
  /-- BOOT_RESTART (R406): A write of BOOT_CMD.RESTART in FAILED, HOSTWAIT or MANUFACTURING restarts from the rails row. -/
  | bootRestart
  /-- BOOT_FUSE_GO (R405): A write of BOOT_CMD.FUSE_GO starts the fuse operation that BOOT_FUSE_CMD.OP selects. -/
  | bootFuseGo
  /-- FUSE_DONE (R405): A fuse operation completes and sets ERR if the fuse does not read back blown. -/
  | fuseDone (ok : Bool)
  /-- BOOT_LOCK_WRITE (R402): A write to BOOT_LOCK sets lock bits once, taking effect in the cycle written. -/
  | bootLockWrite (p : Path) (v : BitVec 5)
  /-- POWER_RESTORE (R398): When PWR_FAIL_N has been high 100 ms after an early power fail, Chrysalis restarts from the rails row. -/
  | powerRestore
  /-- RATE_EFFECTIVE (R412): At r1 the time base is re-anchored and the new RATE_EFF applies. -/
  | rateEffective
  /-- SLEW_INTERVAL (R413): Each 1 µs slew interval reduces REM by the time the slew term adds. -/
  | slewInterval
  /-- TIME_STEP (R415): While SET = 0 the first correction is applied as a step at r1, setting SET and logging the step. -/
  | timeStep
  /-- TIME_REM_WRITE (R413): A host write of TIME_REM sets the remainder to be slewed. -/
  | timeRemWrite (v : Word)
  /-- TIME_UNSET (R415): A write of 1 to TIME_CMD.UNSET clears SET so the next correction steps. -/
  | timeUnset
  /-- TIME_ADJUST (R414): A write of 1 to TIME_CMD.ADJUST adds TIME_ADJ.ADJ_NS to REM. -/
  | timeAdjust
  /-- TIME_HOSTSET (R418): A write of 1 to TIME_CMD.HOSTSET updates a HOST base with the offset from TIME_HOST. -/
  | timeHostset
  /-- BASE_REVERT (R420): A lower-PRIO base LOCKED for REVERT_S is selected. -/
  | baseRevert (k : Fin 4)
  /-- REF_BASE_TICK (R418): Every 1 s a REF base updates with offset 0 and rate 0. -/
  | refBaseTick
  /-- PPS_LOSS (R418): A PPS base with no edge for 1.5 s becomes LOST. -/
  | ppsLoss (k : Fin 4)
  /-- PTP_SYNC_RECEIVE (R422): A Sync message is received and time-stamped at the port. -/
  | ptpSyncReceive (p : Hub) (m : PtpMsg) (origin : Sts) (corr : BitVec 64) (r : Nat)
  /-- PTP_ANNOUNCE_RECEIVE (R422): An Announce message is received, feeding BMCA and TIME_UTC. -/
  | ptpAnnounceReceive (p : Hub) (m : PtpMsg) (a : PtpAnnounce)
  /-- PTP_DELAY_RESP_RECEIVE (R422): A Delay_Resp or Pdelay_Resp completes a path-delay measurement. -/
  | ptpDelayRespReceive (p : Hub) (m : PtpMsg) (remote : Sts) (corr : BitVec 64) (r : Nat)
  /-- PTP_SYNC_TIMEOUT (R423): A SLAVE port with no Sync for SYNC_TO intervals makes its base LOST. -/
  | ptpSyncTimeout (p : Hub) (inst : Fin 2)
  /-- PTP_ANNOUNCE_TIMEOUT (R423): An announce receipt timeout follows the standard and counts in TIME_PTP_i_TIMEOUT. -/
  | ptpAnnounceTimeout (p : Hub) (inst : Fin 2)
  /-- PTP_DELAY_TIMEOUT (R423): A delay response not arrived within four request intervals drops that measurement. -/
  | ptpDelayTimeout (p : Hub) (inst : Fin 2)
  /-- PTP_MESSAGE_TRANSMIT (R425): A PTP message leaves the port with one-step time insertion where set. -/
  | ptpMessageTransmit (p : Hub) (inst : Fin 2) (kind : Fin 16) (r : Nat)
  /-- TDC_EDGE (R440): An edge at an event-timing input is captured and stamped, missed in the blind time, or gated. -/
  | tdcEdge (g : Fin 16) (rising : Bool) (r : Nat) (k : BitVec 8)
  /-- TDC_ARM (R443): A write of 1 to bits of TDC_CMD.ARM arms inputs in COUNT gate mode. -/
  | tdcArm (h : Hub) (mask : BitVec 8)
  /-- TDC_FLUSH (R446): A write of 1 to bits of TDC_CMD.FLUSH empties those queues. -/
  | tdcFlush (h : Hub) (mask : BitVec 8)
  /-- TDC_CHECK (R438): A write of TDC_CMD.CHECK runs a code-density test, or aborts if the gate is open or FINE is clear. -/
  | tdcCheck (h : Hub) (n : Fin 8) (update : Bool)
  /-- TDC_CHECK_DONE (R438): The code-density test completes, reports DNL and INL and replaces code widths with UPDATE. -/
  | tdcCheckDone (h : Hub) (dnl inl : BitVec 8) (minHits : Nat)
  /-- TDC_FIFO_POP (R446): A read of the word at +0xC of TDC_n_FIFO pops the oldest entry. -/
  | tdcFifoPop (g : Fin 16)
  /-- IV_FIFO_POP (R448): A read of the last word of IV_m_FIFO pops the oldest interval entry. -/
  | ivFifoPop (h : Hub) (m : Fin 4)
  /-- PRESENCE_TIMEOUT (R449): No edge within P + TOL clears PRESENT, sets PRES_CHANGE and raises a NOTICE event. -/
  | presenceTimeout (g : Fin 16)
  /-- TDC_READY (R450): 2.0 µs after EN becomes 1 an input becomes READY and starts capturing. -/
  | tdcReady (g : Fin 16)
  /-- TDC_SETTLE_END (R435): 1.0 µs after a change of STD, TERM or THRESH captured edges stop carrying SETTLE. -/
  | tdcSettleEnd (g : Fin 16)
  /-- SOURCE_OPEN (R461): A change of NFS_SRC_s_CTRL.EN to 1 opens a recording with the next number. -/
  | sourceOpen (h : Hub) (k : Fin 64)
  /-- SOURCE_CLOSE (R461): A change of EN to 0 closes a recording, which is CLOSING until SAFE reaches its WPTR. -/
  | sourceClose (h : Hub) (k : Fin 64)
  /-- SOURCE_WAIT_EXPIRE (R463): A source with fewer than 64 sectors staged is taken once it has waited 10 ms. -/
  | sourceWaitExpire (h : Hub) (k : Fin 64)
  /-- ROW_SEAL (R463): A row that has been open SEAL_MS is sealed with PAD and programmed. -/
  | rowSeal (h : Hub)
  /-- ROW_CONFIRM (R464): A row and its parity programmed with passing status confirm their sectors and advance SAFE. -/
  | rowConfirm (h : Hub) (seq : Nat) (fail : Option (Fin 256)) (waits : Nat)
  /-- NAND_DIE_FAIL (R474): A die not ready 10 ms after a command, or failing 3 operations, is failed and its group degraded. -/
  | nandDieFail (h : Hub) (d : Fin 256)
  /-- REBUILD_COMPLETE (R475): The background rebuild of a degraded group completes and REBUILD clears. -/
  | rebuildComplete (h : Hub) (g : Nat)
  /-- PATROL (R472): The patrol reads due rows and relocates superblocks that need refresh. -/
  | patrol (h : Hub) (g sb : Nat) (x : NandRead)
  /-- READ_DISTURB_PATROL (R473): A block reaching NFS_READ_LIMIT reads is patrolled at once. -/
  | readDisturbPatrol (h : Hub) (g sb : Nat) (x : NandRead)
  /-- NFS_FORMAT (R481): NFS_CMD.FORMAT formats the store when every source is disabled. -/
  | nfsFormat (h : Hub)
  /-- NFS_READ (R483): NFS_CMD.READ copies sectors of a recording decrypted to hub memory. -/
  | nfsRead (h : Hub)
  /-- NFS_READ_DONE (R483): A read-back completes, sets DONE and pulses the NFS line. -/
  | nfsReadDone (h : Hub) (x : NandRead)
  /-- NFS_DELETE (R469): NFS_CMD.DELETE deletes the selected recording or sets REFUSED. -/
  | nfsDelete (h : Hub)
  /-- NFS_UNLOCK_CMD (R477): NFS_CMD.UNLOCK unwraps the media key with the host secret, or counts a failure. -/
  | nfsUnlockCmd (h : Hub)
  /-- NFS_ERASE (R478): NFS_CMD.ERASE performs a cryptographic erase when sources are disabled and PENDING is zero. -/
  | nfsErase (h : Hub)
  /-- NFS_ERASE_DONE (R478): The cryptographic erase completes with a new key and empty catalogue. -/
  | nfsEraseDone (h : Hub)
  /-- NFS_CAT_SEL_WRITE (R485): A write of NFS_CAT_SEL takes a snapshot of that recording's catalogue entry. -/
  | nfsCatSelWrite (h : Hub) (n : BitVec 24)
  /-- NFS_MOUNT (R481): After memory training each store resets its targets, trains interfaces and reads its metadata log. -/
  | nfsMount (h : Hub) (luns : List NandLun) (chans : List (BitVec 12 × BitVec 2))
  /-- NFS_MOUNTED (R480): A store completes its clean or unclean mount and sets MOUNTED, or sets BLANK. -/
  | nfsMounted (h : Hub) (kept : List Nat) (again : List (Fin 32 × PlanNeed))
  /-- NFS_CLOSED (R479): A store completes its flush and sets CLOSED. -/
  | nfsClosed (h : Hub)
  /-- DDR_READ_SERVE (R499): A channel serves a queued read by its scheduling order, correcting or freezing on ECC. -/
  | ddrReadServe (h : Hub) (c : Fin 2) (arrivals : List DdrReq) (a : DdrAccess) (kept : List (Fin 32)) (e : PlanEnd)
  /-- DDR_WRITE_ACCEPT (R500): A write enters a channel's write queue and becomes visible to later reads. -/
  | ddrWriteAccept (h : Hub) (l : List DdrReq)
  /-- DDR_RETRAIN (R495): Every PERIOD_MS a READY channel retrains ZQ and DQS timing. -/
  | ddrRetrain (h : Hub) (c : Fin 2)
  /-- DDR_SCRUB (R498): The scrubber reads codewords and writes back corrected ones over the scrub period. -/
  | ddrScrub (h : Hub) (c : Fin 2) (a : DdrAccess) (kept : List (Fin 32)) (e : PlanEnd)
  /-- DDR_SELF_REFRESH_ENTRY (R503): An idle channel, or SENTINEL entry, drains and issues the self-refresh entry command. -/
  | ddrSelfRefreshEntry (h : Hub) (c : Fin 2) (early : Bool)
  /-- DDR_SELF_REFRESH_EXIT (R504): A request after the commitment makes the channel exit self-refresh before being served. -/
  | ddrSelfRefreshExit (h : Hub) (c : Fin 2)
  /-- DDR_RELEASE (R509): A write of DDR_CMD.RELEASE retrains a frozen channel and starts zeroing it. -/
  | ddrRelease (h : Hub) (c : Fin 2) (t : DdrTrain)
  /-- DDR_RELEASE_DONE (R509): A released channel finishes zeroing and becomes READY. -/
  | ddrReleaseDone (h : Hub) (c : Fin 2)
  /-- DMA_HALT (R517): The DMA instruction HALT halts the channel with cause HALT. -/
  | dmaHalt (h : Hub) (k : Fin 16) (parityBad : Bool)
  /-- DMA_MOVE (R518): MOVE copies LEN bytes between spaces in paced bursts and advances its address registers. -/
  | dmaMove (h : Hub) (k : Fin 16) (parityBad : Bool) (waits stalls : BitVec 32)
  /-- DMA_GATHER (R519): GATHER copies indexed elements to the destination. -/
  | dmaGather (h : Hub) (k : Fin 16) (parityBad : Bool) (waits stalls : BitVec 32)
  /-- DMA_LOOP (R521): LOOP pushes a loop level over a body. -/
  | dmaLoop (h : Hub) (k : Fin 16) (parityBad : Bool)
  /-- DMA_WAIT (R526): WAIT proceeds when its level line is asserted or it takes a pulse credit. -/
  | dmaWait (h : Hub) (k : Fin 16) (parityBad : Bool)
  /-- DMA_WAIT_TIMEOUT (R526): A WAIT whose TIMEOUT passes continues at TARGET and counts a timeout. -/
  | dmaWaitTimeout (h : Hub) (k : Fin 16)
  /-- DMA_SIGNAL_IRQ (R522): SIGNAL IRQ sets the channel's bit in DMA_IRQ after its writes are accepted. -/
  | dmaSignalIrq (h : Hub) (k : Fin 16) (parityBad : Bool)
  /-- DMA_SIGNAL_EVENT (R522): SIGNAL EVENT gives one credit to an EVENT line after its writes are accepted. -/
  | dmaSignalEvent (h : Hub) (k : Fin 16) (parityBad : Bool)
  /-- DMA_SIGNAL_REGWRITE (R522): SIGNAL REGWRITE writes a value to a hub register after its writes are accepted. -/
  | dmaSignalRegwrite (h : Hub) (k : Fin 16) (parityBad : Bool)
  /-- DMA_SETA (R523): SETA loads BASE and SIZE into an address register and clears OFF. -/
  | dmaSeta (h : Hub) (k : Fin 16) (parityBad : Bool)
  /-- DMA_NOP (R517): The DMA instruction NOP does nothing. -/
  | dmaNop (h : Hub) (k : Fin 16) (parityBad : Bool)
  /-- DMA_BURST (R527): A paced burst starts when its line is asserted and completes, counting WITHDRAWN if the line has dropped. -/
  | dmaBurst (h : Hub) (k : Fin 16) (waits stalls : BitVec 32)
  /-- DMA_RUN (R530): A write of DMA_k_CTRL.RUN = 1 starts the channel at its PC. -/
  | dmaRun (h : Hub) (k : Fin 16)
  /-- DMA_STOP (R530): A write of RUN = 0 stops the channel at the next boundary with cause HOST. -/
  | dmaStop (h : Hub) (k : Fin 16)
  /-- DMA_PAUSE (R529): A write of PAUSE = 1 pauses the channel at the next boundary. -/
  | dmaPause (h : Hub) (k : Fin 16)
  /-- DMA_RESUME (R529): A write of PAUSE = 0 resumes the channel with the next byte or entry. -/
  | dmaResume (h : Hub) (k : Fin 16)
  /-- ETH_LINK_UP (R538): A port's PCS aligns and its FEC locks, bringing the link up. -/
  | ethLinkUp (h : Hub) (sub : Fin 4)
  /-- ETH_LINK_DOWN (R538): A link going down sets LINK_DOWN and raises a NOTICE event. -/
  | ethLinkDown (h : Hub) (sub : Fin 4)
  /-- ETH_RESTART (R538): A write of ETH_CTRL.RESTART restarts link bring-up. -/
  | ethRestart (h : Hub)
  /-- STREAM_PACKET_FORM (R543): A stream forms a packet when MAXPAY bytes are queued. -/
  | streamPacketForm (h : Hub) (t : Fin 64)
  /-- STREAM_HOLD_EXPIRE (R543): A stream whose oldest byte has waited HOLD_US forms a packet of what is queued. -/
  | streamHoldExpire (h : Hub) (t : Fin 64)
  /-- FRAME_TRANSMIT (R545): The port starts the next frame by strict class priority and stream shaping, inserting TX_STS. -/
  | frameTransmit (h : Hub) (sub : Fin 4)
  /-- ADDRESS_RESOLVE (R539): Every 60 s the port resolves unicast stream destinations through ARP or ND. -/
  | addressResolve (h : Hub) (macs : List (Option (BitVec 48)))
  /-- ETH_FRAME_RECEIVE (R549): A received frame is classified into the MGMT or trigger queue, flow control, or discarded. -/
  | ethFrameReceive (h : Hub) (f : EthFrame)
  /-- MGMT_READ (R551): A management READ operation reads a host address and returns its value. -/
  | mgmtRead (h : Hub)
  /-- MGMT_WRITE (R551): A management WRITE operation writes a host address. -/
  | mgmtWrite (h : Hub)
  /-- MGMT_ECHO (R550): A management ECHO operation returns its data. -/
  | mgmtEcho (h : Hub)
  /-- MGMT_STOP_PORT_STREAMS (R553): STOP with ARG 0 clears EN of every stream of the receiving port within 50 µs. -/
  | mgmtStopPortStreams (h : Hub)
  /-- MGMT_STOP_ALL_STREAMS (R553): STOP with ARG 1 clears EN of every stream of both ports. -/
  | mgmtStopAllStreams (h : Hub)
  /-- MGMT_STOP_PLAN (R553): STOP with ARG 2 stops the plan in slot ADDR. -/
  | mgmtStopPlan (h : Hub) (e : PlanEnd)
  /-- MGMT_STOP_ALL_PLANS (R553): STOP with ARG 3 stops every plan. -/
  | mgmtStopAllPlans (h : Hub) (e : PlanEnd)
  /-- PAUSE_RECEIVE (R554): A received PAUSE or PFC frame pauses the affected classes. -/
  | pauseReceive (h : Hub) (pfc : Bool) (prios : BitVec 8) (quanta : List (BitVec 16))
  /-- PAUSE_EXPIRE (R554): When a pause's quanta expire the class resumes. -/
  | pauseExpire (h : Hub) (prios : BitVec 8)
  /-- DISP_ENABLE (R575): A change of DISP_CTRL.EN to 1 takes pending hand-overs and starts timing and link training. -/
  | dispEnable (h : Hub)
  /-- DISP_DISABLE (R575): A change of EN to 0 completes the frame, stops and retires each enabled layer's BASE. -/
  | dispDisable (h : Hub)
  /-- DISP_LINK_TRAIN (R560): The output reads the DPCD and trains, falling back in rate or setting LINK_FAIL. -/
  | dispLinkTrain (h : Hub) (trains : BitVec 8) (adaptive : Bool)
  /-- DISP_COMMIT (R568): A write of 1 to bit k of DISP_COMMIT sets the layer's PENDING, late past the deadline line. -/
  | dispCommit (h : Hub) (mask : BitVec 4)
  /-- DISP_REVERT (R569): A write of 1 to bit k + 8 of DISP_COMMIT copies the layer's live set into its shadow. -/
  | dispRevert (h : Hub) (mask : BitVec 4)
  /-- DISP_HANDOVER (R570): At the start of line VACTIVE every pending layer copies its shadow set to live, retiring old buffers. -/
  | dispHandover (h : Hub)
  /-- VRR_RELEASE (R571): With VRR a commit after the minimum front porch releases the frame with a hand-over. -/
  | vrrRelease (h : Hub)
  /-- VRR_MAX_EXPIRE (R571): At VFP_MAX lines the frame is released, repeating if no commit came. -/
  | vrrMaxExpire (h : Hub)
  /-- LINE_FETCH (R566): Each layer fetches its source line PREFILL lines before it is shown. -/
  | lineFetch (h : Hub)
  /-- DISP_UNDERRUN (R567): A missing source byte sends the rest of the line in background and counts an underrun. -/
  | dispUnderrun (h : Hub) (x : BitVec 13)
  /-- DISP_PAL_DATA_ACCESS (R565): An access to DISP_PAL_DATA writes or reads a shadow palette entry and advances DISP_PAL_ADDR. -/
  | dispPalDataAccess (h : Hub) (write : Option Word)
  /-- HPD_CHANGE (R575): A loss of HPD sets LINK_DOWN and raises a NOTICE event, and its return retrains the link. -/
  | hpdChange (h : Hub) (high : Bool)
  /-- REF_PRESENCE_WINDOW (R580): Each 32-AOCLK window the presence detector judges each reference present or absent. -/
  | refPresenceWindow (edges0 edges1 : Nat)
  /-- REF_EDGE_TIMEOUT (R580): A reference with no edge for 1.0 µs becomes absent and raises its loss event. -/
  | refEdgeTimeout (n : Fin 2)
  /-- REF_REVERT (R581): REFIN0 present for REVERT_S switches back to it. -/
  | refRevert
  /-- RELOCK_START (R590): A relock moves the affected clocks to holdover and restarts the loop with new words. -/
  | relockStart (h : Hub) (out : Bool)
  /-- LOCK_WINDOW (R587): Each counter window of 2^WIN reference cycles passes or fails the lock check. -/
  | lockWindow (h : Hub) (out : Bool) (count : Nat)
  /-- LOCKA_CHANGE (R588): The LOCKA comparator crosses its threshold and sets or clears CLK_STATUS.LOCKA. -/
  | lockaChange (on : Bool)
  /-- SYNTH_LOCK (R589): A synthesiser declared locked returns its clocks from holdover and counts a relock. -/
  | synthLock (h : Hub) (out : Bool)
  /-- RELOCK_TIMEOUT (R590): TIMEOUT ms without lock raises a FAULT event and starts a new relock. -/
  | relockTimeout (h : Hub) (out : Bool)
  /-- CLK_COMMIT (R590): A write of CLK_CMD.COMMIT hands the clock shadow set over, starting relocks, or is refused with RANGE. -/
  | clkCommit (h : Hub)
  /-- CLK_REVERT (R597): A write of CLK_CMD.REVERT copies the live clock set into the shadow set. -/
  | clkRevert (h : Hub)
  /-- CLK_RELOCK (R597): A write of CLK_CMD.RELOCK relocks both synthesisers now. -/
  | clkRelock (h : Hub)
  /-- SYSREF_GO (R593): A write of CLK_CMD.SYSREF_GO starts a ONESHOT or PULSES sequence. -/
  | sysrefGo (h : Hub)
  /-- SYSREF_EDGE (R594): A SYSREF edge is sent and starts the frame count or LEMC of waiting dies. -/
  | sysrefEdge (h : Hub)
  /-- SAMPLE_CLOCK_LOCK (R583): An acquisition die's sample-clock synthesiser locks and sets CLK_LOCK. -/
  | sampleClockLock (a : ADie)
  /-- SAMPLE_CLOCK_UNLOCK (R583): A loss of sample-clock lock stops samples, raises a FAULT event and restarts the frame count after relock. -/
  | sampleClockUnlock (a : ADie)
  /-- REF_START_TIMEOUT (R595): No reference in 100 ms at CLOCKS continues on holdover with NOREF and a FAULT event. -/
  | refStartTimeout
  /-- HK_START (R603): A write of HK_CMD.START triggers a converter's sequence. -/
  | hkStart (h : Hub) (mask : BitVec 2)
  /-- HK_TIMER_TRIGGER (R603): Every PERIOD µs a TIMER-triggered sequence is triggered. -/
  | hkTimerTrigger (h : Hub) (c : Fin 2)
  /-- HK_SEQUENCE_START (R603): DELAY cycles after its trigger a sequence starts sampling its first entry. -/
  | hkSequenceStart (h : Hub) (c : Fin 2)
  /-- HK_ENTRY_RESULT (R602): An entry's conversion completes, its result lands and is checked against limits and pair checks. -/
  | hkEntryResult (h : Hub) (c : Fin 2) (v : Rat)
  /-- HK_PAIR_TIMEOUT (R608): A pair-check window expiring without the other result fails the check with TIMEOUT. -/
  | hkPairTimeout (h : Hub) (k : Fin 8)
  /-- LEDGER_CONVERSION (R606): Every 1 ms HK_1 of H0 converts HOLDUP_SENSE for the ledger. -/
  | ledgerConversion (v : Rat)
  /-- PWM_EDGE (R611): A PWM output's count reaches 0 or DUTY and its level changes, applying new PERIOD and DUTY at count 0. -/
  | pwmEdge (h : Hub) (p : Fin 4) (zero : Bool)
  /-- FAULT_EVENT (R617): An event reaching the collector is logged, counted, promoted and acted on by its class. -/
  | faultEvent (n : Nat)
  /-- FCOL_WINDOW_CLOSE (R618): WINDOW_MS after its opening event a source's counting window closes. -/
  | fcolWindowClose (h : Hub) (n : BitVec 8)
  /-- FCOL_QUIET_EXIT (R619): An ACTIVE source with no event for QUIET_MS returns to CLEAR, or goes STUCK at the recovery limit. -/
  | fcolQuietExit (h : Hub) (n : BitVec 8)
  /-- PLANNER_HEARTBEAT (R625): The planner confirms a heartbeat to the lead collector every 1 ms. -/
  | plannerHeartbeat
  /-- HEARTBEAT_MISS (R625): Two missing heartbeats raise source 36. -/
  | heartbeatMiss
  /-- ALIVE_TOGGLE (R626): Every PERIOD_MS ALIVE toggles, unless a SEVERE event has stopped it. -/
  | aliveToggle
  /-- FCOL_CLEAR_FIRST (R623): A write of FCOL_CMD.CLEAR_FIRST empties the first-fault record. -/
  | fcolClearFirst (h : Hub)
  /-- FCOL_ALIVE_RESUME (R626): A write of FCOL_CMD.ALIVE_RESUME restarts ALIVE while no source is SEVERE. -/
  | fcolAliveResume (h : Hub)
  /-- FCOL_CLEAR_SRC (R630): A write of FCOL_CMD.CLEAR_SRC returns the selected source to CLEAR with RECOVERIES 0. -/
  | fcolClearSrc (h : Hub)
  /-- SPI_READ (R641): An SPI READ frame reads words from consecutive addresses with filler and marker bytes. -/
  | spiRead (h : Hub) (addr : BitVec 32) (words : List (Nat × Bool))
  /-- SPI_READ_FIXED (R641): An SPI READ_FIXED frame reads words repeatedly from one address. -/
  | spiReadFixed (h : Hub) (addr : BitVec 32) (words : List (Nat × Bool))
  /-- SPI_WRITE (R642): An SPI WRITE frame posts words to consecutive addresses through the write buffer. -/
  | spiWrite (h : Hub) (addr : BitVec 32) (words : List Word)
  /-- SPI_WRITE_FIXED (R642): An SPI WRITE_FIXED frame posts words to one address. -/
  | spiWriteFixed (h : Hub) (addr : BitVec 32) (words : List Word)
  /-- SPI_STATUS (R640): An SPI STATUS frame returns the status byte and clears WERR and TMO. -/
  | spiStatus (h : Hub)
  /-- SPI_ID (R640): An SPI ID frame returns CHIP_PART without a bus access. -/
  | spiId (h : Hub)
  /-- SPI_READ_TIMEOUT (R641): A word not ready 16 µs after issue is sent as marker 0x5E with zeros and sets TMO. -/
  | spiReadTimeout (h : Hub) (addr : BitVec 32)
  /-- SPI_WRITE_DRAIN (R642): A posted SPI write drains from the buffer and takes effect. -/
  | spiWriteDrain (h : Hub)
  /-- MBOX_REQUEST_COMPLETE (R646): A mailbox request completes, setting VALID, EMPTY or DONE with the value's words. -/
  | mboxRequestComplete (h : Hub) (p : Path)
  /-- MBOX_LAST_WORD_READ (R646): The normal read of the last mailbox data word clears VALID. -/
  | mboxLastWordRead (h : Hub) (p : Path)
  /-- TIME_NOW (R649): A mailbox request for TIME_NOW returns the STS at the request cycle. -/
  | timeNow (h : Hub) (p : Path)
  /-- TIME_FRC (R649): A mailbox request for TIME_FRC returns the free-running counter. -/
  | timeFrc (h : Hub) (p : Path)
  /-- TIME_RS (R428): A mailbox request for TIME_RS returns R_S of an input, or R_L in the S8G-2D. -/
  | timeRs (h : Hub) (p : Path) (n : Fin 2)
  /-- TIME_HOST (R418): A mailbox write of TIME_HOST sets the time a HOST base uses. -/
  | timeHost (h : Hub) (p : Path) (v : BitVec 96)
  /-- TIME_STEP_LOG (R415): A mailbox request for TIME_STEP_LOG returns r1 and the times before and after the last step. -/
  | timeStepLog (h : Hub) (p : Path)
  /-- TIME_CLOCK_ID_WRITE (R427): A mailbox write of TIME_CLOCK_ID sets the clockIdentity once. -/
  | timeClockIdWrite (h : Hub) (p : Path) (v : BitVec 64)
  /-- TIME_CLOCK_ID_READ (R649): A mailbox request reads TIME_CLOCK_ID. -/
  | timeClockIdRead (h : Hub) (p : Path)
  /-- TIME_GM_ID (R431): A mailbox request returns the latest grandmasterIdentity. -/
  | timeGmId (h : Hub) (p : Path)
  /-- PLAN_SCHEDULE_READ (R649): A mailbox request reads START, DURATION or PERIOD of a plan. -/
  | planScheduleRead (h : Hub) (p : Path) (k : Fin 3) (n : Fin 32)
  /-- PLAN_SCHEDULE_WRITE (R649): A mailbox write sets START, DURATION or PERIOD of a plan. -/
  | planScheduleWrite (h : Hub) (p : Path) (k : Fin 3) (n : Fin 32) (v : BitVec 64)
  /-- PLAN_ENERGY_WORK (R362): A mailbox request returns a plan's ENERGY or WORK counter. -/
  | planEnergyWork (h : Hub) (p : Path) (work : Bool) (n : Fin 32)
  /-- LEDGER_ENERGY (R360): A mailbox request returns a ledger domain's energy counter. -/
  | ledgerEnergy (h : Hub) (p : Path) (d : Fin 13)
  /-- TARN_HEAD (R202): A mailbox request returns the newest readable Tarn sample index of an input. -/
  | tarnHead (h : Hub) (p : Path) (n : Fin 2)
  /-- TARN_OLDEST (R202): A mailbox request returns the oldest readable Tarn sample index of an input. -/
  | tarnOldest (h : Hub) (p : Path) (n : Fin 2)
  /-- TDC_POP (R446): A mailbox TDC_POP pops the oldest edge entry of an input, or reports EMPTY. -/
  | tdcPop (h : Hub) (p : Path) (n : Fin 8)
  /-- TDC_IVPOP (R448): A mailbox TDC_IVPOP pops the oldest interval entry of a unit. -/
  | tdcIvpop (h : Hub) (p : Path) (m : Fin 4)
  /-- TDC_GATE_TIME_READ (R442): A mailbox request reads TDC_GATE_OPEN_n or TDC_GATE_CLOSE_n. -/
  | tdcGateTimeRead (h : Hub) (p : Path) (close : Bool) (n : Fin 8)
  /-- TDC_GATE_TIME_WRITE (R442): A mailbox write sets TDC_GATE_OPEN_n or TDC_GATE_CLOSE_n. -/
  | tdcGateTimeWrite (h : Hub) (p : Path) (close : Bool) (n : Fin 8) (v : BitVec 96)
  /-- NFS_UNLOCK (R477): A mailbox write of NFS_UNLOCK stores the host secret. -/
  | nfsUnlock (h : Hub) (p : Path) (v : BitVec 256)
  /-- NFS_CAT_STS (R485): A mailbox request returns the open or close STS of the selected recording. -/
  | nfsCatSts (h : Hub) (p : Path) (close : Bool)
  /-- DMA_AR (R535): A mailbox request returns BASE, SIZE and OFF of a DMA address register. -/
  | dmaAr (h : Hub) (p : Path) (k : Fin 16) (a : Fin 4)
  /-- DDR_FREEZE_ADDR (R506): A mailbox request returns the hub address of a channel's freeze. -/
  | ddrFreezeAddr (h : Hub) (p : Path) (c : Fin 2)
  /-- DDR_FREEZE_STS (R506): A mailbox request returns the STS of a channel's freeze. -/
  | ddrFreezeSts (h : Hub) (p : Path) (c : Fin 2)
  /-- ETH_ADDRESS_READ (R557): A mailbox request reads ETH_IP6, ETH_TRIG_GROUP6, ETH_ALLOW_k or ETH_STR_DST6_t. -/
  | ethAddressRead (h : Hub) (p : Path) (w : EthAddr)
  /-- ETH_ADDRESS_WRITE (R557): A mailbox write sets ETH_IP6, ETH_TRIG_GROUP6, ETH_ALLOW_k or ETH_STR_DST6_t. -/
  | ethAddressWrite (h : Hub) (p : Path) (w : EthAddr) (v : BitVec 160)
  /-- ETH_MGMT_KEY (R552): A mailbox write sets the management HMAC key once. -/
  | ethMgmtKey (h : Hub) (p : Path) (v : BitVec 256)
  /-- FCOL_FIRST_DETAIL (R623): A mailbox request returns the STS and detail of the first-fault record. -/
  | fcolFirstDetail (h : Hub) (p : Path)
  /-- FCOL_LOG (R624): A mailbox FCOL_LOG request pops the oldest fault-log entry. -/
  | fcolLog (h : Hub) (p : Path)
  /-- FUSE_KEY_HASH (R405): A mailbox write supplies the 48-byte key hash for fuse operation 4. -/
  | fuseKeyHash (h : Hub) (p : Path) (v : BitVec 384)
  /-- POWER_ON_RESET (R392): The loss and return of VAON clears BOOT_NEXT, DDR_c_CFG.MAX_MTS, the ledger counters and the always-on time counter. -/
  | powerOnReset
  /-- DDR_WRITE_SERVE (R502): A channel issues a queued write to its devices, retrying on a write CRC or CA parity error and freezing on a failed retry. -/
  | ddrWriteServe (h : Hub) (c : Fin 2) (a : DdrAccess) (kept : List (Fin 32)) (e : PlanEnd)
  /-- NFS_FORMAT_COMPLETE (R481): A store's format completes after up to 60 s, clearing FORMATTING and leaving the store with an empty catalogue and a new media key. -/
  | nfsFormatComplete (h : Hub) (bad : List Nat)
  /-- JRX_LANE_LOCK (R77): A JESD204C lane locks to its sync headers and extended multiblocks, and its bit in JRX_STATUS.LANE_LOCK sets. -/
  | jrxLaneLock (lane : Fin 16) (arrival : BitVec 16)
  /-- VRT_CONTEXT_PERIODIC (R548): Every 1 s a VRT stream sends a VITA 49.2 context packet for each channel it carries. -/
  | vrtContextPeriodic (h : Hub) (t : Fin 64)
  deriving DecidableEq, Repr

end Sys2Proof
end

