-- ==== Sys2Proof/Decode.lean ====
section
/-! DEFINITION. Reading a command from a word. -/

namespace Sys2Proof

/-- The command that the `nbits`-bit word `w` spells by spec/opcode_table.json. No row of the table gives its command
any bits (every row's list of fields is empty), so no word spells a command: a command reaches the S8G as an access or
an event, never as an encoded word. -/
def decodeTableWord (_nbits _w : Nat) : Option Instr := none

end Sys2Proof
end

