-- ==== Sys2Proof/Machine/CoreIsa.lean ====
section
/-! DEFINITION. The instruction words of a channel core (chapter 9): the instructions, the decoder of R318 with every
word it calls ILLEGAL, and an encoder written from the same formats (R323). -/

namespace Sys2Proof.Machine

/-- The functions of the ALU format (R325). -/
inductive AluFn where
  | add | adc | sub | sbc | adds | subs | and | or | xor | andn | asr | lsr | lsl | min | max | abs | neg | not | cmp
  | tst | norm
  deriving DecidableEq, Repr

/-- The instructions of the IMM format (R326). -/
inductive ImmFn where
  | addi | andi | ori | xori | cmpi | shi
  deriving DecidableEq, Repr

/-- The functions of the ACC format (R331). -/
inductive AccFn where
  | clra | mova | adda | suba | nega | absa | asha | ldah | ldal | ext | cmpa
  deriving DecidableEq, Repr

/-- The instructions of the MAC format (R329, R330). -/
inductive MacFn where
  | mpy | mac | msu | ldd
  deriving DecidableEq, Repr

/-- The control transfers (R335). -/
inductive CtlFn where
  | jmp | call | jr | reti
  deriving DecidableEq, Repr

/-- An instruction of a channel core. -/
inductive CoreInstr where
  | nop
  | halt
  | alu (fn : AluFn) (cond xd xs xt : BitVec 4)
  | imm (fn : ImmFn) (cond xd xs : BitVec 4) (i : BitVec 14)
  | mov (cond : BitVec 4) (dst src : BitVec 7)
  | ldi (high : Bool) (reg : BitVec 7) (i : BitVec 16)
  | mem (store : Bool) (reg : BitVec 7) (pn : BitVec 3) (mode : BitVec 2) (off : BitVec 14)
  | acc (fn : AccFn) (cond : BitVec 4) (a b : BitVec 1) (xr : BitVec 4) (sh : BitVec 5)
  | mac (fn : MacFn) (a : BitVec 1) (xa xb : BitVec 4) (ld : BitVec 1) (xc : BitVec 4) (pi : BitVec 3)
      (xd : BitVec 4) (pj : BitVec 3)
  | srch (min : Bool) (xm xi xs xk : BitVec 4) (ld : BitVec 1) (xl : BitVec 4) (pl : BitVec 3)
  | ctl (fn : CtlFn) (cond : BitVec 4) (pn : BitVec 3) (target : BitVec 14)
  | rep (reg : Bool) (count : BitVec 11) (le : BitVec 14)
  | lexit
  | inp (nb : BitVec 1) (port : BitVec 2) (xi xq : BitVec 4)
  | out (cond : BitVec 4) (port : BitVec 1) (xs : BitVec 4)
  | trig (cond : BitVec 4) (port : BitVec 2) (xs : BitVec 4)
  | evt (cond : BitVec 4) (code : BitVec 7) (xs : BitVec 4)
  | srb (set : Bool) (mask : BitVec 24)
  deriving DecidableEq, Repr

def AluFn.code : AluFn → BitVec 6
  | .add => 0 | .adc => 1 | .sub => 2 | .sbc => 3 | .adds => 4 | .subs => 5 | .and => 6 | .or => 7 | .xor => 8
  | .andn => 9 | .asr => 10 | .lsr => 11 | .lsl => 12 | .min => 13 | .max => 14 | .abs => 15 | .neg => 16
  | .not => 17 | .cmp => 18 | .tst => 19 | .norm => 20

/-- The ALU function of a code (R325). -/
def aluOf (c : BitVec 6) : Option AluFn :=
  [AluFn.add, .adc, .sub, .sbc, .adds, .subs, .and, .or, .xor, .andn, .asr, .lsr, .lsl, .min, .max, .abs, .neg, .not,
    .cmp, .tst, .norm][c.toNat]?

def ImmFn.opc : ImmFn → BitVec 6
  | .addi => 3 | .andi => 4 | .ori => 5 | .xori => 6 | .cmpi => 7 | .shi => 8

def AccFn.code : AccFn → BitVec 5
  | .clra => 0 | .mova => 1 | .adda => 2 | .suba => 3 | .nega => 4 | .absa => 5 | .asha => 6 | .ldah => 7 | .ldal => 8
  | .ext => 9 | .cmpa => 10

/-- The accumulator function of a code (R331). -/
def accOf (c : BitVec 5) : Option AccFn :=
  [AccFn.clra, .mova, .adda, .suba, .nega, .absa, .asha, .ldah, .ldal, .ext, .cmpa][c.toNat]?

def MacFn.code : MacFn → BitVec 2
  | .mpy => 0 | .mac => 1 | .msu => 2 | .ldd => 3

def macOf (c : BitVec 2) : MacFn :=
  match c.toNat with | 0 => .mpy | 1 => .mac | 2 => .msu | _ => .ldd

def CtlFn.code : CtlFn → BitVec 3
  | .jmp => 0 | .call => 1 | .jr => 2 | .reti => 3

/-- The control transfer of a KIND (R335). -/
def ctlOf (c : BitVec 3) : Option CtlFn := [CtlFn.jmp, .call, .jr, .reti][c.toNat]?

/-- Register codes a MOV source or a REP count accepts (R321). -/
def okSrc (c : BitVec 7) : Bool :=
  let n := c.toNat
  decide (n ≤ 0x15) || (decide (0x18 ≤ n) && decide (n ≤ 0x39))
    || (decide (0x40 ≤ n) && decide (n ≤ 0x4F) && decide (n % 4 ≠ 3)) || (decide (0x50 ≤ n) && decide (n ≤ 0x54))

/-- Register codes a MOV or LDI destination accepts (R321): no LS or LE. -/
def okDst (c : BitVec 7) : Bool :=
  okSrc c && !(decide (0x40 ≤ c.toNat) && decide (c.toNat ≤ 0x4F) && decide (c.toNat % 4 ≠ 2))

/-- Register codes LD and ST accept (R321). -/
def okMem (c : BitVec 7) : Bool :=
  decide (c.toNat ≤ 0x15) || (decide (0x18 ≤ c.toNat) && decide (c.toNat ≤ 0x39))

/-- What R318, R321, R326, R327, R332, R323 and R338 ask of the fields of an instruction. -/
def CoreInstr.ok : CoreInstr → Bool
  | .imm .shi _ _ _ i => decide (i.extractLsb' 5 2 ≠ 3) && decide (i.extractLsb' 7 7 = 0)
  | .mov _ dst src => okDst dst && okSrc src
  | .ldi h reg i => okDst reg && (!h || decide (i.extractLsb' 8 8 = 0))
  | .mem _ reg _ _ _ => okMem reg
  | .acc .ext _ _ _ _ sh => decide (sh.toNat ≤ 8)
  | .rep r count _ => !r || (decide (count.extractLsb' 7 4 = 0) && okSrc (count.extractLsb' 0 7))
  | .inp _ _ xi xq => decide (xi ≠ xq)
  | _ => true

/-- The word of an instruction (R323). -/
def CoreInstr.encode : CoreInstr → Word
  | .nop => 0#32
  | .halt => 1#6 ++ 0#26
  | .alu fn cond xd xs xt => 2#6 ++ cond ++ fn.code ++ xd ++ xs ++ xt ++ 0#4
  | .imm fn cond xd xs i => fn.opc ++ cond ++ xd ++ xs ++ i
  | .mov cond dst src => 9#6 ++ cond ++ dst ++ src ++ 0#8
  | .ldi h reg i => 0xA#6 ++ BitVec.ofBool h ++ reg ++ 0#2 ++ i
  | .mem st reg pn mode off => (if st then 0xC#6 else 0xB#6) ++ reg ++ pn ++ mode ++ off
  | .acc fn cond a b xr sh => 0xD#6 ++ cond ++ fn.code ++ a ++ b ++ xr ++ sh ++ 0#6
  | .mac fn a xa xb ld xc pi xd pj => 0xE#6 ++ a ++ fn.code ++ xa ++ xb ++ ld ++ xc ++ pi ++ xd ++ pj
  | .srch mn xm xi xs xk ld xl pl => 0xF#6 ++ BitVec.ofBool mn ++ xm ++ xi ++ xs ++ xk ++ ld ++ xl ++ pl ++ 0#1
  | .ctl fn cond pn target => 0x10#6 ++ cond ++ fn.code ++ pn ++ 0#2 ++ target
  | .rep r count le => 0x11#6 ++ BitVec.ofBool r ++ count ++ le
  | .lexit => 0x12#6 ++ 0#26
  | .inp nb port xi xq => 0x13#6 ++ nb ++ port ++ xi ++ xq ++ 0#15
  | .out cond port xs => 0x14#6 ++ cond ++ port ++ xs ++ 0#17
  | .trig cond port xs => 0x15#6 ++ cond ++ port ++ xs ++ 0#16
  | .evt cond code xs => 0x16#6 ++ cond ++ code ++ xs ++ 0#11
  | .srb st mask => 0x17#6 ++ BitVec.ofBool st ++ 0#1 ++ mask

/-- `i` if the bits that its format marks 0 are 0. -/
def zeros {n : Nat} (z : BitVec n) (i : CoreInstr) : Option CoreInstr := if z = 0 then some i else none

/-- The fields of a word by its opcode, before the checks of `CoreInstr.ok` (R318, R323). -/
def CoreInstr.fields (w : Word) : Option CoreInstr :=
  let f := fun lo n => w.extractLsb' lo n
  let cond := f 22 4
  match (f 26 6).toNat with
  | 0x00 => zeros (f 0 26) .nop
  | 0x01 => zeros (f 0 26) .halt
  | 0x02 => (aluOf (f 16 6)).bind fun fn => zeros (f 0 4) (.alu fn cond (f 12 4) (f 8 4) (f 4 4))
  | 0x03 => some (.imm .addi cond (f 18 4) (f 14 4) (f 0 14))
  | 0x04 => some (.imm .andi cond (f 18 4) (f 14 4) (f 0 14))
  | 0x05 => some (.imm .ori cond (f 18 4) (f 14 4) (f 0 14))
  | 0x06 => some (.imm .xori cond (f 18 4) (f 14 4) (f 0 14))
  | 0x07 => some (.imm .cmpi cond (f 18 4) (f 14 4) (f 0 14))
  | 0x08 => some (.imm .shi cond (f 18 4) (f 14 4) (f 0 14))
  | 0x09 => zeros (f 0 8) (.mov cond (f 15 7) (f 8 7))
  | 0x0A => zeros (f 16 2) (.ldi (w.getLsbD 25) (f 18 7) (f 0 16))
  | 0x0B => some (.mem false (f 19 7) (f 16 3) (f 14 2) (f 0 14))
  | 0x0C => some (.mem true (f 19 7) (f 16 3) (f 14 2) (f 0 14))
  | 0x0D => (accOf (f 17 5)).bind fun fn => zeros (f 0 6) (.acc fn cond (f 16 1) (f 15 1) (f 11 4) (f 6 5))
  | 0x0E => some (.mac (macOf (f 23 2)) (f 25 1) (f 19 4) (f 15 4) (f 14 1) (f 10 4) (f 7 3) (f 3 4) (f 0 3))
  | 0x0F => zeros (f 0 1) (.srch (w.getLsbD 25) (f 21 4) (f 17 4) (f 13 4) (f 9 4) (f 8 1) (f 4 4) (f 1 3))
  | 0x10 => (ctlOf (f 19 3)).bind fun fn => zeros (f 14 2) (.ctl fn cond (f 16 3) (f 0 14))
  | 0x11 => some (.rep (w.getLsbD 25) (f 14 11) (f 0 14))
  | 0x12 => zeros (f 0 26) .lexit
  | 0x13 => zeros (f 0 15) (.inp (f 25 1) (f 23 2) (f 19 4) (f 15 4))
  | 0x14 => zeros (f 0 17) (.out cond (f 21 1) (f 17 4))
  | 0x15 => zeros (f 0 16) (.trig cond (f 20 2) (f 16 4))
  | 0x16 => zeros (f 0 11) (.evt cond (f 15 7) (f 11 4))
  | 0x17 => zeros (f 24 1) (.srb (w.getLsbD 25) (f 0 24))
  | _ => none

/-- The instruction of a word; `none` where the word itself is ILLEGAL (R318). -/
def CoreInstr.decode (w : Word) : Option CoreInstr := (CoreInstr.fields w).filter CoreInstr.ok

/-- Whether an instruction is a control transfer (R334). -/
def CoreInstr.isTransfer : CoreInstr → Bool
  | .ctl .. => true
  | _ => false

/-- Whether an instruction may not stand in a delay slot (R282, R337). -/
def CoreInstr.noSlot : CoreInstr → Bool
  | .ctl .. | .rep .. | .lexit | .halt => true
  | _ => false

/-- The rows of the opcode table that are core instructions. -/
inductive CoreOp where
  | nop | halt | alu (fn : AluFn) | imm (fn : ImmFn) | mov | ldi | ldih | ld | st | acc (fn : AccFn) | mac (fn : MacFn)
  | maxi | mini | ctl (fn : CtlFn) | rep | lexit | inp | out | trig | evt | srset | srclr
  deriving DecidableEq, Repr

/-- The row of an instruction. -/
def CoreInstr.op : CoreInstr → CoreOp
  | .nop => .nop | .halt => .halt
  | .alu fn .. => .alu fn | .imm fn .. => .imm fn | .mov .. => .mov
  | .ldi h .. => if h then .ldih else .ldi
  | .mem st .. => if st then .st else .ld
  | .acc fn .. => .acc fn | .mac fn .. => .mac fn
  | .srch mn .. => if mn then .mini else .maxi
  | .ctl fn .. => .ctl fn | .rep .. => .rep | .lexit => .lexit
  | .inp .. => .inp | .out .. => .out | .trig .. => .trig | .evt .. => .evt
  | .srb st .. => if st then .srset else .srclr

end Sys2Proof.Machine
end

