-- ==== Sys2Proof/Config.lean ====
section
/-! DEFINITION. The values the spec leaves open. Each is a constant with no body: nothing can be proved of it beyond
its type, and a claim about it holds whatever it is. -/

namespace Sys2Proof

/-- A value the spec does not state: value `k` of open point `tag`. `tag` names the point (the assumption log lists
them), `k` is the operand it depends on or a counter of `State` where it is fresh each time. -/
opaque Config.free : (tag k : Nat) → Nat

/-- Credits of the pool that VC1 and VC2 of a link direction share (R20 names the pool and gives it no size). -/
opaque Config.sharedCredits : Nat

/-- How far a reported level lies from the exact one, in 1/256 dB, within the accuracy the spec states (R108); by the numerator and denominator of the power ratio. -/
opaque Config.levelOffset : (num den : Nat) → Int

/-- A rational that the spec does not state: value `k` of open point `tag`. -/
opaque Config.freeRat : (tag k : Nat) → Rat

/-- Taps of the down-converter's filter by their distance from its centre in converter samples (R85), before `Dsp` scales
them to a gain of 1 at 0 Hz. -/
opaque Config.ddcTap : Nat → Rat

/-- The prototype filter of the band bank by the distance from its centre in fifths of a stream sample (R237), before it
is scaled to a gain of 1 at the band centre. -/
opaque Config.bankTap : Nat → Rat

/-- The resampler's filter at P / Q: its reach in stream samples, and its taps by the distance from the centre in P-ths of
a stream sample (R122), before they are scaled to a gain of 1 at 0 Hz. -/
opaque Config.rsReach : (p q : Nat) → Nat
opaque Config.rsTap : (p q k : Nat) → Rat

/-- How far the S8G's coefficient of sample `i` of window `code` at 2^`w` points lies from the ideal one (R99). -/
opaque Config.windowOffset : (code w i : Nat) → Rat

/-- Rounding noise and spurs of a zoom channel's mixer at band sample `u` (R243): the I and Q parts. -/
opaque Config.mixerNoise : (chan u : Nat) → Rat × Rat

end Sys2Proof
end

