-- ==== Sys2Proof/Machine/Tbl.lean ====
section
/-! DEFINITION. Sparse tables in one canonical form (keys strictly rising, no entry equal to what an unlisted key
reads as): the one way the state holds registers, memories and per-instance records. Also the plain number helpers
(bit fields, sign extension, byte order, rounding) that every block uses. -/

namespace Sys2Proof.Machine

/-- A sparse table from numbered places to values. -/
abbrev Tbl (α : Type) := List (Nat × α)

/-- What place `k` holds: its entry, or `d k` where none is listed. -/
def tget {α : Type} (d : Nat → α) : Tbl α → Nat → α
  | [], k => d k
  | (j, v) :: m, k => if j = k then v else tget d m k

/-- Write place `k`, keeping the table canonical. -/
def tset {α : Type} [DecidableEq α] (d : Nat → α) (m : Tbl α) (k : Nat) (v : α) : Tbl α :=
  m.filter (fun e => e.1 < k) ++ ((if v = d k then [] else [(k, v)]) ++ m.filter (fun e => k < e.1))

/-- Drop every entry with a key in `[lo, hi)`. -/
def tclear {α : Type} (m : Tbl α) (lo hi : Nat) : Tbl α :=
  m.filter (fun e => decide (e.1 < lo) || decide (hi ≤ e.1))

/-- `dst` with its places `[lo, hi)` taken from `src`: a hand-over or a revert of a range of registers (R13). -/
def tcopy {α : Type} (src dst : Tbl α) (lo hi : Nat) : Tbl α :=
  dst.filter (fun e => e.1 < lo) ++
    (src.filter (fun e => decide (lo ≤ e.1) && decide (e.1 < hi)) ++
      dst.filter (fun e => decide (lo ≤ e.1) && decide (hi ≤ e.1)))

/-- The canonical form: keys strictly rising and no entry equal to its default. -/
abbrev twf {α : Type} [DecidableEq α] (d : Nat → α) (m : Tbl α) : Prop :=
  m.Pairwise (fun a b => a.1 < b.1) ∧ ∀ e ∈ m, e.2 ≠ d e.1

/-! Numbers. -/

/-- Bits `lo` to `lo + w - 1` of `n`. -/
def bitsOf (n lo w : Nat) : Nat := n / 2 ^ lo % 2 ^ w

/-- `n` with bits `lo` to `lo + w - 1` replaced by `v`. -/
def bitsPut (n lo w v : Nat) : Nat :=
  n - bitsOf n lo w * 2 ^ lo + (v % 2 ^ w) * 2 ^ lo

/-- The two's complement value of the `w`-bit number `n`. -/
def sx (w n : Nat) : Int :=
  if n % 2 ^ w < 2 ^ (w - 1) then ((n % 2 ^ w : Nat) : Int) else ((n % 2 ^ w : Nat) : Int) - (2 ^ w : Nat)

/-- The `w`-bit two's complement code of `i`. -/
def enc (w : Nat) (i : Int) : Nat := (i % ((2 ^ w : Nat) : Int)).toNat

/-- `i` held within `[lo, hi]`. -/
def clampI (lo hi i : Int) : Int := if i < lo then lo else if hi < i then hi else i

/-- `n / d` rounded to the nearest integer, halves upward. -/
def rhu (n : Int) (d : Nat) : Int := (2 * n + d) / (2 * d : Int)

/-- `n / d` rounded to the nearest integer, halves away from zero. -/
def rha (n : Int) (d : Nat) : Int :=
  if n < 0 then -((2 * -n + d) / (2 * d : Int)) else (2 * n + d) / (2 * d : Int)

/-- `n / d` rounded to the nearest integer, halves to the even one. -/
def rhe (n : Int) (d : Nat) : Int :=
  if (2 * n + d) % (2 * d : Int) = 0 ∧ (2 * n + d) / (2 * d : Int) % 2 = 1
  then (2 * n + d) / (2 * d : Int) - 1 else (2 * n + d) / (2 * d : Int)

/-- The least number that is a multiple of `m` and not below `n`. -/
def ceilTo (m n : Nat) : Nat := (n + m - 1) / m * m

/-- The greatest multiple of `m` not above `n`. -/
def floorTo (m n : Nat) : Nat := n / m * m

/-- The `k` bytes of `n`, lowest first. -/
def leBytes : Nat → Nat → List Byte
  | 0, _ => []
  | k + 1, n => BitVec.ofNat 8 n :: leBytes k (n / 256)

/-- The `k` bytes of `n`, highest first. -/
def beBytes (k n : Nat) : List Byte := (leBytes k n).reverse

/-- The number whose bytes, lowest first, are `l`. -/
def ofLe : List Byte → Nat
  | [] => 0
  | b :: l => b.toNat + 256 * ofLe l

/-- Bit `k` of `n`. -/
def bit (n k : Nat) : Bool := decide (n / 2 ^ k % 2 = 1)

/-- A truth value as a bit. -/
def b2n (b : Bool) : Nat := if b then 1 else 0

/-- The first `n` items of `l`, filled up with `d`. -/
def padTo {α : Type} (n : Nat) (d : α) (l : List α) : List α := (l ++ List.replicate n d).take n

/-- How many of the lowest `w` bits of `n` are 1. -/
def popCount : Nat → Nat → Nat
  | 0, _ => 0
  | w + 1, n => n % 2 + popCount w (n / 2)

/-- The lowest `k` below `w` at which `p` holds. -/
def firstBelow (w : Nat) (p : Nat → Bool) : Option Nat := (List.range w).find? p

/-! Checksums, roots and angles. -/

/-- One bit of the CRC-32 of IEEE 802.3, reflected. -/
def crcBit (c : Nat) : Nat := if c % 2 = 1 then c / 2 ^^^ 0xEDB88320 else c / 2

/-- The CRC-32 with the IEEE 802.3 polynomial over bytes. -/
def crc32 (l : List Byte) : Nat :=
  (l.foldl (fun c b =>
    crcBit (crcBit (crcBit (crcBit (crcBit (crcBit (crcBit (crcBit (c ^^^ b.toNat)))))))))
    0xFFFFFFFF) ^^^ 0xFFFFFFFF

/-- The integer square root, rounded down, of `n` below 4^bits: bit by bit. -/
def isqrt (n : Nat) : (bits : Nat) → (r : Nat) → Nat
  | 0, r => r
  | b + 1, r => if (r + 2 ^ b) * (r + 2 ^ b) ≤ n then isqrt n b (r + 2 ^ b) else isqrt n b r

/-- atan(2^-i) in 2^-64 turns, for i from 0. -/
def atanTab : List Nat :=
  [2305843009213693952, 1361218612134873190, 719230530580881038, 365092647525521947] ++
  [183254791493294829, 91716730292036216, 45869556482713130, 22936177926750895] ++
  [11468263948075831, 5734153847876408, 2867079658191483, 1433540170878135] ++
  [716770128161890, 358385069421298, 179192535378193, 89596267772540] ++
  [44798133896700, 22399066949654, 11199533474990, 5599766737515] ++
  [2799883368760, 1399941684380, 699970842190, 349985421095] ++
  [174992710548, 87496355274, 43748177637, 21874088818] ++
  [10937044409, 5468522205, 2734261102, 1367130551] ++
  [683565276, 341782638, 170891319, 85445659] ++
  [42722830, 21361415, 10680707, 5340354] ++
  [2670177, 1335088, 667544, 333772]

/-- The angle of (`x`, `y`), x > 0, in 2^-64 turns, by rotation to the axis. -/
def cordic : (i : Nat) → List Nat → (x y acc : Int) → Int
  | _, [], _, _, acc => acc
  | i, a :: l, x, y, acc =>
    if 0 ≤ y then cordic (i + 1) l (x + y / 2 ^ i) (y - x / 2 ^ i) (acc + a)
    else cordic (i + 1) l (x - y / 2 ^ i) (y + x / 2 ^ i) (acc - a)

/-- The angle of a complex number that is not zero, as a fraction of a turn in `2^-w`, rounded to nearest, in
`[0, 2^w)`. -/
def turnCode (w : Nat) (re im : Int) : Nat :=
  let s : Int := 2 ^ 80
  let a := if 0 ≤ re then cordic 0 atanTab (re * s) (im * s) 0 else cordic 0 atanTab (-re * s) (-im * s) (2 ^ 63)
  (rhu a (2 ^ (64 - w)) % (2 ^ w : Nat)).toNat

end Sys2Proof.Machine
end

