-- ==== Sys2Proof/Machine/Regs.lean ====
section
/-! DEFINITION. The register map of the spec's register tables: for every register its offset in its block, for
every field its place, width and access type (R7), and the reset value of the register word. `R.<REGISTER>` is a
register's offset in its block and `R.<REGISTER>_<FIELD>` a field's place, under the spec's own names. -/

namespace Sys2Proof.Machine

/-- The access types of R7. -/
inductive Access where
  | rw | ro | hs | rc | wo | wl | ct
  deriving DecidableEq, Repr

/-- A field's place: the offset of its register in the block, its lowest bit and its width. -/
structure Fld where
  off : Nat
  lo : Nat
  w : Nat
  deriving DecidableEq, Repr

/-- A field of a register table row. -/
structure FieldDesc where
  lo : Nat
  w : Nat
  acc : Access
  deriving DecidableEq, Repr

/-- A register of a block, or `count` like registers `stride` bytes apart. -/
structure RegDesc where
  off : Nat
  stride : Nat
  count : Nat
  reset : Nat
  fields : List FieldDesc
  deriving DecidableEq, Repr

namespace R

/-! Block `acq`: 02_rf_acquisition.md, R74. -/
def ACQ_ID : Nat := 0x0
def ACQ_ID_DIE_TYPE : Fld := ⟨0x0, 24, 8⟩
def ACQ_ID_REVISION : Fld := ⟨0x0, 16, 8⟩
def ACQ_ID_INDEX : Fld := ⟨0x0, 0, 1⟩
def ACQ_CTRL : Nat := 0x4
def ACQ_CTRL_EN : Fld := ⟨0x4, 0, 1⟩
def ACQ_CTRL_GAIN : Fld := ⟨0x4, 8, 5⟩
def ACQ_CTRL_LIVE_TRIM : Fld := ⟨0x4, 16, 1⟩
def ACQ_STATUS : Nat := 0x8
def ACQ_STATUS_CLK_LOCK : Fld := ⟨0x8, 0, 1⟩
def ACQ_STATUS_STREAM : Fld := ⟨0x8, 1, 1⟩
def ACQ_STATUS_UNCAL : Fld := ⟨0x8, 2, 1⟩
def ACQ_STATUS_DEGRADED : Fld := ⟨0x8, 3, 1⟩
def ACQ_STATUS_FROZEN : Fld := ⟨0x8, 4, 1⟩
def ACQ_STATUS_OVR : Fld := ⟨0x8, 8, 1⟩
def ACQ_STATUS_GAIN_CLAMP : Fld := ⟨0x8, 9, 1⟩
def ACQ_STATUS_LIMIT : Fld := ⟨0x8, 10, 1⟩
def ACQ_OVR_COUNT : Nat := 0xC
def ACQ_OVR_COUNT_OVR_SAMPLES : Fld := ⟨0xC, 0, 32⟩
def CAL_CTRL : Nat := 0x10
def CAL_CTRL_MODE : Fld := ⟨0x10, 0, 2⟩
def CAL_CTRL_HOLD : Fld := ⟨0x10, 2, 1⟩
def CAL_CTRL_MU_OFS : Fld := ⟨0x10, 4, 2⟩
def CAL_CTRL_MU_GAIN : Fld := ⟨0x10, 6, 2⟩
def CAL_CTRL_MU_SKEW : Fld := ⟨0x10, 8, 2⟩
def CAL_CTRL_TEMP_DELTA : Fld := ⟨0x10, 16, 8⟩
def CAL_CMD : Nat := 0x14
def CAL_CMD_RUN : Fld := ⟨0x14, 0, 1⟩
def CAL_CMD_XSKEW : Fld := ⟨0x14, 1, 1⟩
def CAL_CMD_ABORT : Fld := ⟨0x14, 2, 1⟩
def CAL_TIMING : Nat := 0x18
def CAL_TIMING_STEP_RUN : Fld := ⟨0x18, 0, 8⟩
def CAL_TIMING_STEP_IDLE : Fld := ⟨0x18, 8, 16⟩
def CAL_LIMITS : Nat := 0x1C
def CAL_LIMITS_MAX_INTERVAL : Fld := ⟨0x1C, 0, 16⟩
def CAL_LIMITS_STAT_TIMEOUT : Fld := ⟨0x1C, 16, 16⟩
def CAL_QUAL : Nat := 0x20
def CAL_QUAL_MIN_POWER : Fld := ⟨0x20, 0, 8⟩
def CAL_QUAL_MIN_BINS : Fld := ⟨0x20, 8, 8⟩
def CAL_QUAL_SLOPE_SHIFT : Fld := ⟨0x20, 16, 4⟩
def CAL_QUAL_TONE_EXCL : Fld := ⟨0x20, 20, 1⟩
def CAL_VERIFY : Nat := 0x24
def CAL_VERIFY_OFS_LIM : Fld := ⟨0x24, 0, 8⟩
def CAL_VERIFY_GAIN_LIM : Fld := ⟨0x24, 8, 8⟩
def CAL_VERIFY_SKEW_LIM : Fld := ⟨0x24, 16, 4⟩
def CAL_VERIFY_RETRY : Fld := ⟨0x24, 20, 4⟩
def CAL_STATE : Nat := 0x28
def CAL_STATE_STATE : Fld := ⟨0x28, 0, 3⟩
def CAL_STATE_SLOT : Fld := ⟨0x28, 8, 6⟩
def CAL_STATE_SPARE : Fld := ⟨0x28, 16, 7⟩
def CAL_STATE_CAUSE : Fld := ⟨0x28, 24, 3⟩
def CAL_STATE_RERUN : Fld := ⟨0x28, 27, 1⟩
def CAL_TEMP : Nat := 0x2C
def CAL_TEMP_TEMP_NOW : Fld := ⟨0x2C, 0, 16⟩
def CAL_TEMP_TEMP_REF : Fld := ⟨0x2C, 16, 16⟩
def CAL_RUN_COUNT : Nat := 0x30
def CAL_RUN_COUNT_RUNS : Fld := ⟨0x30, 0, 32⟩
def CAL_REJECT_COUNT : Nat := 0x34
def CAL_REJECT_COUNT_REJECTS : Fld := ⟨0x34, 0, 32⟩
def CAL_REJECT_CAUSE : Nat := 0x38
def CAL_REJECT_CAUSE_CAUSES : Fld := ⟨0x38, 0, 6⟩
def CAL_TIMEOUT_COUNT : Nat := 0x3C
def CAL_TIMEOUT_COUNT_TIMEOUTS : Fld := ⟨0x3C, 0, 32⟩
def CAL_RETIRED : Nat := 0x70
def CAL_RETIRED_INDEX : Fld := ⟨0x70, 0, 7⟩
def CAL_RETIRED_REASON : Fld := ⟨0x70, 8, 2⟩
def CAL_RETIRED_SECOND : Fld := ⟨0x70, 16, 1⟩
def ACQ_DELAY_FACT : Nat := 0x40
def ACQ_DELAY_FACT_DELAY : Fld := ⟨0x40, 0, 16⟩
def ACQ_DELAY_MEAS : Nat := 0x44
def ACQ_DELAY_MEAS_DELAY : Fld := ⟨0x44, 0, 16⟩
def ACQ_DELAY_BOARD : Nat := 0x48
def ACQ_DELAY_BOARD_DELAY : Fld := ⟨0x48, 0, 24⟩
def ACQ_DELAY_TOTAL : Nat := 0x4C
def ACQ_DELAY_TOTAL_DELAY : Fld := ⟨0x4C, 0, 26⟩
def XSKEW_CTRL : Nat := 0x50
def XSKEW_CTRL_APPLY : Fld := ⟨0x50, 0, 1⟩
def XSKEW_RESULT : Nat := 0x54
def XSKEW_RESULT_SKEW : Fld := ⟨0x54, 0, 24⟩
def XSKEW_RESULT_VALID : Fld := ⟨0x54, 24, 1⟩
def XSKEW_RESULT_FAIL : Fld := ⟨0x54, 25, 1⟩
def XSKEW_RESULT_NA : Fld := ⟨0x54, 26, 1⟩
def EST_SEL : Nat := 0x60
def EST_SEL_SLOT : Fld := ⟨0x60, 0, 6⟩
def EST_OFS : Nat := 0x64
def EST_OFS_OFS : Fld := ⟨0x64, 0, 16⟩
def EST_GAIN : Nat := 0x68
def EST_GAIN_GAIN : Fld := ⟨0x68, 0, 16⟩
def EST_SKEW : Nat := 0x6C
def EST_SKEW_SKEW : Fld := ⟨0x6C, 0, 16⟩
def SC_n_OFS : Nat := 0x1000
def SC_n_OFS_TRIM : Fld := ⟨0x1000, 0, 10⟩
def SC_n_GAIN : Nat := 0x1004
def SC_n_GAIN_TRIM : Fld := ⟨0x1004, 0, 10⟩
def SC_n_SKEW : Nat := 0x1008
def SC_n_SKEW_TRIM : Fld := ⟨0x1008, 0, 7⟩
def SC_n_STATE : Nat := 0x100C
def SC_n_STATE_SLOT : Fld := ⟨0x100C, 0, 6⟩
def SC_n_STATE_ROLE : Fld := ⟨0x100C, 8, 2⟩
def SC_n_STATE_LIMIT : Fld := ⟨0x100C, 12, 1⟩

/-! Block `jrx`: 02_rf_acquisition.md, R81. -/
def JRX_CTRL : Nat := 0x0
def JRX_CTRL_EN : Fld := ⟨0x0, 0, 1⟩
def JRX_CTRL_LANES : Fld := ⟨0x0, 1, 2⟩
def JRX_CTRL_RES : Fld := ⟨0x0, 4, 3⟩
def JRX_CTRL_E : Fld := ⟨0x0, 8, 8⟩
def JRX_RBD : Nat := 0x4
def JRX_RBD_RBD : Fld := ⟨0x4, 0, 16⟩
def JRX_POL : Nat := 0x8
def JRX_POL_INVERT : Fld := ⟨0x8, 0, 16⟩
def JRX_STATUS : Nat := 0xC
def JRX_STATUS_LANE_LOCK : Fld := ⟨0xC, 0, 16⟩
def JRX_STATUS_READY : Fld := ⟨0xC, 16, 1⟩
def JRX_STATUS_RBD_ERR : Fld := ⟨0xC, 17, 1⟩
def JRX_STATUS_CRC_ERR : Fld := ⟨0xC, 18, 1⟩
def JRX_ARRIVAL : Nat := 0x10
def JRX_ARRIVAL_EARLY : Fld := ⟨0x10, 0, 16⟩
def JRX_ARRIVAL_LATE : Fld := ⟨0x10, 16, 16⟩
def JRX_ERR_COUNT : Nat := 0x14
def JRX_ERR_COUNT_ERRORS : Fld := ⟨0x14, 0, 32⟩
def JRX_DELAY_BOARD : Nat := 0x18
def JRX_DELAY_BOARD_DELAY : Fld := ⟨0x18, 0, 24⟩

/-! Block `wb`: 03_wideband_transform.md, R126. -/
def WB_ID : Nat := 0x0
def WB_ID_DIE_TYPE : Fld := ⟨0x0, 24, 8⟩
def WB_ID_REVISION : Fld := ⟨0x0, 16, 8⟩
def WB_ID_LEAD : Fld := ⟨0x0, 8, 1⟩
def WB_ID_INDEX : Fld := ⟨0x0, 0, 2⟩
def WB_CTRL : Nat := 0x4
def WB_CTRL_EN : Fld := ⟨0x4, 0, 1⟩
def WB_CTRL_OVERLAP : Fld := ⟨0x4, 1, 2⟩
def WB_CTRL_LOG2N : Fld := ⟨0x4, 4, 5⟩
def WB_CTRL_WINDOW : Fld := ⟨0x4, 12, 4⟩
def WB_TUNE_LO : Nat := 0x8
def WB_TUNE_LO_TUNE_LO : Fld := ⟨0x8, 0, 32⟩
def WB_TUNE_HI : Nat := 0xC
def WB_TUNE_HI_TUNE_HI : Fld := ⟨0xC, 0, 8⟩
def WB_SCALE : Nat := 0x10
def WB_SCALE_MODE : Fld := ⟨0x10, 0, 1⟩
def WB_SCALE_SHIFT : Fld := ⟨0x10, 8, 5⟩
def WB_FMT : Nat := 0x14
def WB_FMT_SPEC_OUT : Fld := ⟨0x14, 0, 2⟩
def WB_FMT_EVERY : Fld := ⟨0x14, 8, 24⟩
def WB_DET : Nat := 0x18
def WB_DET_MODE : Fld := ⟨0x18, 0, 3⟩
def WB_DET_LEN : Fld := ⟨0x18, 8, 24⟩
def WB_AVG : Nat := 0x1C
def WB_AVG_LEN : Fld := ⟨0x1C, 0, 17⟩
def WB_AVG_DOMAIN : Fld := ⟨0x1C, 20, 1⟩
def WB_AVG_TRACE_EN : Fld := ⟨0x1C, 24, 1⟩
def WB_RS : Nat := 0x20
def WB_RS_EN : Fld := ⟨0x20, 0, 1⟩
def WB_RS_FMT : Fld := ⟨0x20, 4, 1⟩
def WB_RS_SHIFT : Fld := ⟨0x20, 8, 4⟩
def WB_RS_P : Fld := ⟨0x20, 16, 6⟩
def WB_RS_Q : Fld := ⟨0x20, 24, 6⟩
def WB_COMMIT : Nat := 0x24
def WB_COMMIT_COMMIT : Fld := ⟨0x24, 0, 1⟩
def WB_COMMIT_REVERT : Fld := ⟨0x24, 1, 1⟩
def WB_SHADOW : Nat := 0x28
def WB_SHADOW_SHADOW_DIRTY : Fld := ⟨0x28, 0, 1⟩
def WB_SHADOW_PENDING : Fld := ⟨0x28, 1, 1⟩
def WB_SHADOW_HELD : Fld := ⟨0x28, 2, 1⟩
def WB_SHADOW_VIEW : Fld := ⟨0x28, 8, 1⟩
def WB_STATUS : Nat := 0x2C
def WB_STATUS_RUN : Fld := ⟨0x2C, 0, 1⟩
def WB_STATUS_PIPES : Fld := ⟨0x2C, 4, 4⟩
def WB_STATUS_CLAMP : Fld := ⟨0x2C, 8, 1⟩
def WB_STATUS_NO_PIPES : Fld := ⟨0x2C, 9, 1⟩
def WB_STATUS_WTAB_ZERO : Fld := ⟨0x2C, 10, 1⟩
def WB_STATUS_REPAIR : Fld := ⟨0x2C, 11, 1⟩
def WB_PIPE_MAP : Nat := 0x30
def WB_PIPE_MAP_LOCAL : Fld := ⟨0x30, 0, 4⟩
def WB_PIPE_MAP_PARTNER : Fld := ⟨0x30, 4, 4⟩
def WB_EDGE : Nat := 0x34
def WB_EDGE_FIRST : Fld := ⟨0x34, 0, 16⟩
def WB_EDGE_LAST : Fld := ⟨0x34, 16, 16⟩
def WB_WTAB_ADDR : Nat := 0x38
def WB_WTAB_ADDR_ADDR : Fld := ⟨0x38, 0, 16⟩
def WB_WTAB_DATA : Nat := 0x3C
def WB_WTAB_DATA_COEF : Fld := ⟨0x3C, 0, 18⟩
def WB_WTAB_CG : Nat := 0x40
def WB_WTAB_CG_CG : Fld := ⟨0x40, 0, 24⟩
def WB_WTAB_ENBW : Nat := 0x44
def WB_WTAB_ENBW_ENBW : Fld := ⟨0x44, 0, 16⟩
def WB_SPEC_COUNT : Nat := 0x48
def WB_SPEC_COUNT_SPECTRA : Fld := ⟨0x48, 0, 32⟩
def WB_SAT_COUNT : Nat := 0x4C
def WB_SAT_COUNT_SATURATIONS : Fld := ⟨0x4C, 0, 32⟩
def WB_SWITCH_COUNT : Nat := 0x50
def WB_SWITCH_COUNT_SWITCHES : Fld := ⟨0x50, 0, 32⟩
def WB_PARTIAL_COUNT : Nat := 0x54
def WB_PARTIAL_COUNT_PARTIALS : Fld := ⟨0x54, 0, 32⟩

/-! Block `trg`: 04_spectrum_triggers.md, R167. -/
def TRG_ID : Nat := 0x0
def TRG_ID_DIE_TYPE : Fld := ⟨0x0, 24, 8⟩
def TRG_ID_REVISION : Fld := ⟨0x0, 16, 8⟩
def TRG_ID_LEAD : Fld := ⟨0x0, 8, 1⟩
def TRG_ID_INDEX : Fld := ⟨0x0, 0, 2⟩
def TRG_CTRL : Nat := 0x4
def TRG_CTRL_EN : Fld := ⟨0x4, 0, 1⟩
def TRG_COMMIT : Nat := 0x8
def TRG_COMMIT_COMMIT : Fld := ⟨0x8, 0, 1⟩
def TRG_COMMIT_REVERT : Fld := ⟨0x8, 1, 1⟩
def TRG_SHADOW : Nat := 0xC
def TRG_SHADOW_SHADOW_DIRTY : Fld := ⟨0xC, 0, 1⟩
def TRG_SHADOW_PENDING : Fld := ⟨0xC, 1, 1⟩
def TRG_SHADOW_HELD : Fld := ⟨0xC, 2, 1⟩
def TRG_SHADOW_VIEW : Fld := ⟨0xC, 8, 1⟩
def TRG_FAB : Nat := 0x10
def TRG_FAB_ALIGN : Fld := ⟨0x10, 0, 10⟩
def TRG_STATUS : Nat := 0x14
def TRG_STATUS_RUN : Fld := ⟨0x14, 0, 1⟩
def TRG_STATUS_LOG_OVF : Fld := ⟨0x14, 8, 1⟩
def TRG_STATUS_BAD_RANGE : Fld := ⟨0x14, 9, 1⟩
def TRG_MASK_ADDR : Nat := 0x18
def TRG_MASK_ADDR_ENTRY : Fld := ⟨0x18, 0, 16⟩
def TRG_MASK_ADDR_TABLE : Fld := ⟨0x18, 16, 2⟩
def TRG_MASK_DATA : Nat := 0x1C
def TRG_MASK_DATA_LOWER : Fld := ⟨0x1C, 0, 16⟩
def TRG_MASK_DATA_UPPER : Fld := ⟨0x1C, 16, 16⟩
def TRG_NET_ID : Nat := 0x20
def TRG_NET_ID_ENGINE : Fld := ⟨0x20, 0, 12⟩
def TRG_NET_ID_ARRAY : Fld := ⟨0x20, 16, 16⟩
def TRG_COND_STATE : Nat := 0x24
def TRG_COND_STATE_STATE : Fld := ⟨0x24, 0, 16⟩
def TRG_COND_STATE_INACTIVE : Fld := ⟨0x24, 16, 16⟩
def TRG_LATE_COUNT : Nat := 0x28
def TRG_LATE_COUNT_LATE : Fld := ⟨0x28, 0, 32⟩
def TRG_NET_TX_COUNT : Nat := 0x2C
def TRG_NET_TX_COUNT_SENT : Fld := ⟨0x2C, 0, 32⟩
def TRG_NET_RX_COUNT : Nat := 0x30
def TRG_NET_RX_COUNT_ACCEPTED : Fld := ⟨0x30, 0, 32⟩
def TRG_NET_DROP_COUNT : Nat := 0x34
def TRG_NET_DROP_COUNT_DROPPED : Fld := ⟨0x34, 0, 32⟩
def TRG_NET_DUP_COUNT : Nat := 0x38
def TRG_NET_DUP_COUNT_DUPLICATES : Fld := ⟨0x38, 0, 32⟩
def TRG_NET_CAUSE : Nat := 0x3C
def TRG_NET_CAUSE_CAUSES : Fld := ⟨0x3C, 0, 5⟩
def TRG_COND_c_CTRL : Nat := 0x100
def TRG_COND_c_CTRL_TYPE : Fld := ⟨0x100, 0, 3⟩
def TRG_COND_c_CTRL_SIDE : Fld := ⟨0x100, 4, 2⟩
def TRG_COND_c_CTRL_POL : Fld := ⟨0x100, 6, 1⟩
def TRG_COND_c_CTRL_PLACE : Fld := ⟨0x100, 8, 2⟩
def TRG_COND_c_CTRL_SRC : Fld := ⟨0x100, 10, 1⟩
def TRG_COND_c_CTRL_SKIPF : Fld := ⟨0x100, 11, 1⟩
def TRG_COND_c_CTRL_TABLE : Fld := ⟨0x100, 12, 2⟩
def TRG_COND_c_CTRL_RUN : Fld := ⟨0x100, 16, 8⟩
def TRG_COND_c_BINS : Nat := 0x104
def TRG_COND_c_BINS_FIRST : Fld := ⟨0x104, 0, 16⟩
def TRG_COND_c_BINS_LAST : Fld := ⟨0x104, 16, 16⟩
def TRG_COND_c_THRESH : Nat := 0x108
def TRG_COND_c_THRESH_LEVEL : Fld := ⟨0x108, 0, 16⟩
def TRG_COND_c_THRESH_HYST : Fld := ⟨0x108, 16, 16⟩
def TRG_COND_c_COUNT : Nat := 0x10C
def TRG_COND_c_COUNT_K : Fld := ⟨0x10C, 0, 17⟩
def TRG_COND_c_WMIN : Nat := 0x110
def TRG_COND_c_WMIN_WMIN : Fld := ⟨0x110, 0, 24⟩
def TRG_COND_c_WMIN_OUTSIDE : Fld := ⟨0x110, 31, 1⟩
def TRG_COND_c_WMAX : Nat := 0x114
def TRG_COND_c_WMAX_WMAX : Fld := ⟨0x114, 0, 24⟩
def TRG_COND_c_SEL : Nat := 0x118
def TRG_COND_c_SEL_CHAN : Fld := ⟨0x118, 0, 8⟩
def TRG_COND_c_SEL_DET : Fld := ⟨0x118, 8, 2⟩
def TRG_COND_c_SEL_DEADLINE : Fld := ⟨0x118, 16, 16⟩
def TRG_COND_c_HITS : Nat := 0x11C
def TRG_COND_c_HITS_HITS : Fld := ⟨0x11C, 0, 32⟩
def TRGU_u_CTRL : Nat := 0x400
def TRGU_u_CTRL_EN : Fld := ⟨0x400, 0, 1⟩
def TRGU_u_CTRL_MODE : Fld := ⟨0x400, 1, 2⟩
def TRGU_u_CTRL_A_AND : Fld := ⟨0x400, 3, 1⟩
def TRGU_u_CTRL_B_AND : Fld := ⟨0x400, 4, 1⟩
def TRGU_u_CTRL_ARESTART : Fld := ⟨0x400, 5, 1⟩
def TRGU_u_CTRL_NET_TX : Fld := ⟨0x400, 6, 1⟩
def TRGU_u_CTRL_NET_RX : Fld := ⟨0x400, 7, 1⟩
def TRGU_u_CTRL_REPEAT : Fld := ⟨0x400, 8, 2⟩
def TRGU_u_CTRL_TXGROUP : Fld := ⟨0x400, 16, 3⟩
def TRGU_u_CTRL_RXGROUPS : Fld := ⟨0x400, 24, 8⟩
def TRGU_u_A : Nat := 0x404
def TRGU_u_A_CONDS : Fld := ⟨0x404, 0, 32⟩
def TRGU_u_B : Nat := 0x408
def TRGU_u_B_CONDS : Fld := ⟨0x408, 0, 32⟩
def TRGU_u_XSRC : Nat := 0x40C
def TRGU_u_XSRC_A_XSRC : Fld := ⟨0x40C, 0, 8⟩
def TRGU_u_XSRC_B_XSRC : Fld := ⟨0x40C, 8, 8⟩
def TRGU_u_XSRC_TDC : Fld := ⟨0x40C, 16, 4⟩
def TRGU_u_XSRC_XIN : Fld := ⟨0x40C, 20, 3⟩
def TRGU_u_WINDOW : Nat := 0x410
def TRGU_u_WINDOW_W : Fld := ⟨0x410, 0, 32⟩
def TRGU_u_HOLDOFF : Nat := 0x414
def TRGU_u_HOLDOFF_HOLDOFF : Fld := ⟨0x414, 0, 32⟩
def TRGU_u_TIMER : Nat := 0x418
def TRGU_u_TIMER_PERIOD : Fld := ⟨0x418, 0, 32⟩
def TRGU_u_FORCE : Nat := 0x41C
def TRGU_u_FORCE_FORCE : Fld := ⟨0x41C, 0, 1⟩
def TRGU_u_NETWIN : Nat := 0x420
def TRGU_u_NETWIN_PRE_NS : Fld := ⟨0x420, 0, 16⟩
def TRGU_u_NETWIN_POST_NS : Fld := ⟨0x420, 16, 16⟩
def TRGU_u_EVENTS : Nat := 0x424
def TRGU_u_EVENTS_EVENTS : Fld := ⟨0x424, 0, 32⟩
def TRGU_u_HELD : Nat := 0x428
def TRGU_u_HELD_HELD : Fld := ⟨0x428, 0, 32⟩
def TRGU_u_MISS : Nat := 0x42C
def TRGU_u_MISS_MISSED : Fld := ⟨0x42C, 0, 32⟩
def TRGU_u_MERGED : Nat := 0x430
def TRGU_u_MERGED_MERGED : Fld := ⟨0x430, 0, 32⟩
def TRGU_u_STATUS : Nat := 0x434
def TRGU_u_STATUS_ARMED : Fld := ⟨0x434, 0, 1⟩
def TRGU_u_STATUS_WAIT_B : Fld := ⟨0x434, 1, 1⟩
def TRGU_u_STATUS_HOLDOFF : Fld := ⟨0x434, 2, 1⟩

/-! Block `rec`: 05_records_and_tarn.md, R202. -/
def REC_ID : Nat := 0x0
def REC_ID_DIE_TYPE : Fld := ⟨0x0, 24, 8⟩
def REC_ID_REVISION : Fld := ⟨0x0, 16, 8⟩
def REC_ID_LEAD : Fld := ⟨0x0, 8, 1⟩
def REC_ID_INDEX : Fld := ⟨0x0, 0, 2⟩
def REC_CTRL : Nat := 0x4
def REC_CTRL_EN : Fld := ⟨0x4, 0, 1⟩
def REC_CTRL_MODE : Fld := ⟨0x4, 1, 2⟩
def REC_CTRL_ARM_MODE : Fld := ⟨0x4, 3, 1⟩
def REC_CTRL_FORMAT : Fld := ⟨0x4, 4, 1⟩
def REC_CTRL_SHIFT : Fld := ⟨0x4, 8, 4⟩
def REC_CTRL_NETWIN : Fld := ⟨0x4, 12, 1⟩
def REC_CTRL_MEAS : Fld := ⟨0x4, 13, 1⟩
def REC_CTRL_UNITS : Fld := ⟨0x4, 16, 8⟩
def REC_CMD : Nat := 0x8
def REC_CMD_ARM : Fld := ⟨0x8, 0, 1⟩
def REC_CMD_STOP : Fld := ⟨0x8, 1, 1⟩
def REC_STATUS : Nat := 0xC
def REC_STATUS_ARMED : Fld := ⟨0xC, 0, 1⟩
def REC_STATUS_RUN : Fld := ⟨0xC, 1, 1⟩
def REC_STATUS_DONE : Fld := ⟨0xC, 2, 1⟩
def REC_STATUS_STOPPED : Fld := ⟨0xC, 3, 1⟩
def REC_STATUS_PRE_CLIP : Fld := ⟨0xC, 8, 1⟩
def REC_STATUS_TRUNC : Fld := ⟨0xC, 9, 1⟩
def REC_STATUS_OVERRUN : Fld := ⟨0xC, 10, 1⟩
def REC_STATUS_MT_FAIL : Fld := ⟨0xC, 11, 1⟩
def REC_STATUS_CO_DROP : Fld := ⟨0xC, 12, 1⟩
def REC_STATUS_SEGS_CUT : Fld := ⟨0xC, 13, 1⟩
def REC_PRE : Nat := 0x10
def REC_PRE_PRE : Fld := ⟨0x10, 0, 32⟩
def REC_POST : Nat := 0x14
def REC_POST_POST : Fld := ⟨0x14, 0, 32⟩
def REC_SEGS : Nat := 0x18
def REC_SEGS_M : Fld := ⟨0x18, 0, 21⟩
def REC_REGION_BASE : Nat := 0x1C
def REC_REGION_BASE_BASE : Fld := ⟨0x1C, 0, 24⟩
def REC_REGION_SIZE : Nat := 0x20
def REC_REGION_SIZE_SIZE : Fld := ⟨0x20, 0, 24⟩
def REC_TARN_CTRL : Nat := 0x24
def REC_TARN_CTRL_EN : Fld := ⟨0x24, 0, 1⟩
def REC_TARN_BASE : Nat := 0x28
def REC_TARN_BASE_BASE : Fld := ⟨0x28, 0, 24⟩
def REC_TARN_DEPTH : Nat := 0x2C
def REC_TARN_DEPTH_DEPTH : Fld := ⟨0x2C, 0, 24⟩
def REC_TARN_STATUS : Nat := 0x30
def REC_TARN_STATUS_RUN : Fld := ⟨0x30, 0, 1⟩
def REC_TARN_STATUS_FULL : Fld := ⟨0x30, 1, 1⟩
def REC_TARN_STATUS_LOST : Fld := ⟨0x30, 8, 1⟩
def REC_CAP : Nat := 0x34
def REC_CAP_CAP : Fld := ⟨0x34, 0, 32⟩
def REC_SEG_COUNT : Nat := 0x38
def REC_SEG_COUNT_SEGMENTS : Fld := ⟨0x38, 0, 32⟩
def REC_ACQ_COUNT : Nat := 0x3C
def REC_ACQ_COUNT_ACQUISITIONS : Fld := ⟨0x3C, 0, 32⟩
def REC_MEAS_START : Nat := 0x40
def REC_MEAS_START_START : Fld := ⟨0x40, 0, 32⟩
def REC_MEAS_LEN : Nat := 0x44
def REC_MEAS_LEN_LEN : Fld := ⟨0x44, 0, 32⟩
def REC_MT_CTRL : Nat := 0x48
def REC_MT_CTRL_EN : Fld := ⟨0x48, 0, 1⟩
def REC_MT_CTRL_STOP : Fld := ⟨0x48, 1, 1⟩
def REC_MT_CTRL_DEC : Fld := ⟨0x48, 4, 5⟩
def REC_MT_CTRL_POINTS : Fld := ⟨0x48, 16, 13⟩
def REC_MT_OFFSET : Nat := 0x4C
def REC_MT_OFFSET_OFFSET : Fld := ⟨0x4C, 0, 32⟩
def REC_MT_ADDR : Nat := 0x50
def REC_MT_ADDR_ENTRY : Fld := ⟨0x50, 0, 12⟩
def REC_MT_DATA : Nat := 0x54
def REC_MT_DATA_LOWER : Fld := ⟨0x54, 0, 16⟩
def REC_MT_DATA_UPPER : Fld := ⟨0x54, 16, 16⟩
def REC_MT_PASS : Nat := 0x58
def REC_MT_PASS_PASSED : Fld := ⟨0x58, 0, 32⟩
def REC_MT_FAIL : Nat := 0x5C
def REC_MT_FAIL_FAILED : Fld := ⟨0x5C, 0, 32⟩
def REC_MT_FIRST : Nat := 0x60
def REC_MT_FIRST_SEG : Fld := ⟨0x60, 0, 21⟩
def REC_MT_FIRST_VALID : Fld := ⟨0x60, 31, 1⟩
def REC_CO_CTRL : Nat := 0x64
def REC_CO_CTRL_EN : Fld := ⟨0x64, 0, 1⟩
def REC_CO_CTRL_SRC : Fld := ⟨0x64, 1, 1⟩
def REC_CO_CTRL_TABLE : Fld := ⟨0x64, 4, 2⟩
def REC_CO_CTRL_HYST : Fld := ⟨0x64, 16, 16⟩
def REC_CO_BINS : Nat := 0x68
def REC_CO_BINS_FIRST : Fld := ⟨0x68, 0, 16⟩
def REC_CO_BINS_LAST : Fld := ⟨0x68, 16, 16⟩
def REC_CO_BASE : Nat := 0x6C
def REC_CO_BASE_BASE : Fld := ⟨0x6C, 0, 24⟩
def REC_CO_SIZE : Nat := 0x70
def REC_CO_SIZE_SIZE : Fld := ⟨0x70, 0, 24⟩
def REC_CO_FLUSH : Nat := 0x74
def REC_CO_FLUSH_FLUSH : Fld := ⟨0x74, 0, 16⟩
def REC_CO_ENTRIES : Nat := 0x78
def REC_CO_ENTRIES_ENTRIES : Fld := ⟨0x78, 0, 32⟩
def REC_CO_DROP : Nat := 0x7C
def REC_CO_DROP_DROPPED : Fld := ⟨0x7C, 0, 32⟩
def REC_TRUNC_COUNT : Nat := 0x80
def REC_TRUNC_COUNT_TRUNCATED : Fld := ⟨0x80, 0, 32⟩
def REC_OVERRUN_COUNT : Nat := 0x84
def REC_OVERRUN_COUNT_OVERRUNS : Fld := ⟨0x84, 0, 32⟩
def REC_NET_STALE : Nat := 0x88
def REC_NET_STALE_STALE : Fld := ⟨0x88, 0, 32⟩

/-! Block `dens`: 06_density_and_spectrogram.md, R234. -/
def DENS_ID : Nat := 0x0
def DENS_ID_DIE_TYPE : Fld := ⟨0x0, 24, 8⟩
def DENS_ID_REVISION : Fld := ⟨0x0, 16, 8⟩
def DENS_ID_LEAD : Fld := ⟨0x0, 8, 1⟩
def DENS_ID_INDEX : Fld := ⟨0x0, 0, 2⟩
def DENS_CTRL : Nat := 0x4
def DENS_CTRL_EN : Fld := ⟨0x4, 0, 1⟩
def DENS_CTRL_MAP_EN : Fld := ⟨0x4, 1, 1⟩
def DENS_CTRL_SG_EN : Fld := ⟨0x4, 2, 1⟩
def DENS_CTRL_COLMODE : Fld := ⟨0x4, 4, 2⟩
def DENS_CTRL_FILLMAX : Fld := ⟨0x4, 8, 4⟩
def DENS_CTRL_CLIP : Fld := ⟨0x4, 12, 1⟩
def DENS_CTRL_SKIPF : Fld := ⟨0x4, 13, 1⟩
def DENS_CMD : Nat := 0x8
def DENS_CMD_COMMIT : Fld := ⟨0x8, 0, 1⟩
def DENS_CMD_REVERT : Fld := ⟨0x8, 1, 1⟩
def DENS_CMD_CLEAR : Fld := ⟨0x8, 2, 1⟩
def DENS_SHADOW : Nat := 0xC
def DENS_SHADOW_SHADOW_DIRTY : Fld := ⟨0xC, 0, 1⟩
def DENS_SHADOW_PENDING : Fld := ⟨0xC, 1, 1⟩
def DENS_SHADOW_HELD : Fld := ⟨0xC, 2, 1⟩
def DENS_SHADOW_VIEW : Fld := ⟨0xC, 8, 1⟩
def DENS_STATUS : Nat := 0x10
def DENS_STATUS_RUN : Fld := ⟨0x10, 0, 1⟩
def DENS_STATUS_DECIM : Fld := ⟨0x10, 1, 1⟩
def DENS_STATUS_SAT : Fld := ⟨0x10, 8, 1⟩
def DENS_STATUS_BAD_RANGE : Fld := ⟨0x10, 9, 1⟩
def DENS_STATUS_CLAMP : Fld := ⟨0x10, 10, 1⟩
def DENS_STATUS_MERGE_LATE : Fld := ⟨0x10, 11, 1⟩
def DENS_STATUS_EVERY : Fld := ⟨0x10, 16, 8⟩
def DENS_GEOM : Nat := 0x14
def DENS_GEOM_W : Fld := ⟨0x14, 0, 13⟩
def DENS_GEOM_H : Fld := ⟨0x14, 16, 11⟩
def DENS_BINS : Nat := 0x18
def DENS_BINS_FIRST : Fld := ⟨0x18, 0, 16⟩
def DENS_BINS_LAST : Fld := ⟨0x18, 16, 16⟩
def DENS_LEVEL : Nat := 0x1C
def DENS_LEVEL_TOP : Fld := ⟨0x1C, 0, 16⟩
def DENS_LEVEL_STEP : Fld := ⟨0x1C, 16, 16⟩
def DENS_FRAME : Nat := 0x20
def DENS_FRAME_SPECTRA : Fld := ⟨0x20, 0, 24⟩
def DENS_DECAY : Nat := 0x24
def DENS_DECAY_MODE : Fld := ⟨0x24, 0, 2⟩
def DENS_DECAY_K : Fld := ⟨0x24, 8, 4⟩
def DENS_DECAY_STEP : Fld := ⟨0x24, 16, 16⟩
def DENS_OUT : Nat := 0x28
def DENS_OUT_FORMAT : Fld := ⟨0x28, 0, 1⟩
def DENS_OUT_NBUF : Fld := ⟨0x28, 4, 3⟩
def DENS_MAP_BASE : Nat := 0x2C
def DENS_MAP_BASE_BASE : Fld := ⟨0x2C, 0, 24⟩
def DENS_MAP_LAST : Nat := 0x30
def DENS_MAP_LAST_FRAME : Fld := ⟨0x30, 0, 32⟩
def DENS_TAB_ADDR : Nat := 0x34
def DENS_TAB_ADDR_ENTRY : Fld := ⟨0x34, 0, 8⟩
def DENS_TAB_DATA : Nat := 0x38
def DENS_TAB_DATA_T : Fld := ⟨0x38, 0, 16⟩
def DENS_SG_CTRL : Nat := 0x3C
def DENS_SG_CTRL_DET : Fld := ⟨0x3C, 0, 3⟩
def DENS_SG_CTRL_CDEC : Fld := ⟨0x3C, 4, 3⟩
def DENS_SG_CTRL_FORMAT : Fld := ⟨0x3C, 8, 1⟩
def DENS_SG_CTRL_SKIPF : Fld := ⟨0x3C, 9, 1⟩
def DENS_SG_SPECTRA : Nat := 0x40
def DENS_SG_SPECTRA_R : Fld := ⟨0x40, 0, 24⟩
def DENS_SG_BINS : Nat := 0x44
def DENS_SG_BINS_FIRST : Fld := ⟨0x44, 0, 16⟩
def DENS_SG_BINS_LAST : Fld := ⟨0x44, 16, 16⟩
def DENS_SG_IDX : Nat := 0x48
def DENS_SG_IDX_FLOOR : Fld := ⟨0x48, 0, 16⟩
def DENS_SG_IDX_STEP : Fld := ⟨0x48, 16, 16⟩
def DENS_SG_BASE : Nat := 0x4C
def DENS_SG_BASE_BASE : Fld := ⟨0x4C, 0, 24⟩
def DENS_SG_ROWS : Nat := 0x50
def DENS_SG_ROWS_ROWS : Fld := ⟨0x50, 0, 20⟩
def DENS_SG_LAST : Nat := 0x54
def DENS_SG_LAST_ROW : Fld := ⟨0x54, 0, 32⟩
def DENS_FRAME_COUNT : Nat := 0x58
def DENS_FRAME_COUNT_FRAMES : Fld := ⟨0x58, 0, 32⟩
def DENS_ROW_COUNT : Nat := 0x5C
def DENS_ROW_COUNT_ROWS : Fld := ⟨0x5C, 0, 32⟩
def DENS_PARTIAL_COUNT : Nat := 0x60
def DENS_PARTIAL_COUNT_PARTIALS : Fld := ⟨0x60, 0, 32⟩
def DENS_DECIM_COUNT : Nat := 0x64
def DENS_DECIM_COUNT_SKIPPED : Fld := ⟨0x64, 0, 32⟩
def DENS_LATE_COUNT : Nat := 0x68
def DENS_LATE_COUNT_LATE : Fld := ⟨0x68, 0, 32⟩
def DENS_MERGE : Nat := 0x6C
def DENS_MERGE_WAIT : Fld := ⟨0x6C, 0, 16⟩

/-! Block `chz`: 07_zoom_channels.md, R270. -/
def CHZ_ID : Nat := 0x0
def CHZ_ID_DIE_TYPE : Fld := ⟨0x0, 24, 8⟩
def CHZ_ID_REVISION : Fld := ⟨0x0, 16, 8⟩
def CHZ_ID_LEAD : Fld := ⟨0x0, 8, 1⟩
def CHZ_ID_INDEX : Fld := ⟨0x0, 0, 2⟩
def CHZ_CTRL : Nat := 0x4
def CHZ_CTRL_EN : Fld := ⟨0x4, 0, 1⟩
def CHZ_CTRL_VIEW : Fld := ⟨0x4, 8, 1⟩
def CHZ_STATUS : Nat := 0x8
def CHZ_STATUS_RUN : Fld := ⟨0x8, 0, 1⟩
def CHZ_STATUS_PRIMED : Fld := ⟨0x8, 1, 1⟩
def CHZ_STATUS_CLAMP : Fld := ⟨0x8, 8, 1⟩
def CHZ_STATUS_REPLAY : Fld := ⟨0x8, 9, 1⟩
def CHZ_COMMIT_k : Nat := 0x10
def CHZ_COMMIT_k_COMMIT : Fld := ⟨0x10, 0, 32⟩
def CHZ_SYNC_k : Nat := 0x20
def CHZ_SYNC_k_SYNC : Fld := ⟨0x20, 0, 32⟩
def CHZ_REVERT_k : Nat := 0x30
def CHZ_REVERT_k_REVERT : Fld := ⟨0x30, 0, 32⟩
def CHZ_DIRTY_k : Nat := 0x40
def CHZ_DIRTY_k_DIRTY : Fld := ⟨0x40, 0, 32⟩
def CHZ_PENDING_k : Nat := 0x50
def CHZ_PENDING_k_PENDING : Fld := ⟨0x50, 0, 32⟩
def CHZ_HELD_k : Nat := 0x60
def CHZ_HELD_k_HELD : Fld := ⟨0x60, 0, 32⟩
def CHZ_SAT_COUNT : Nat := 0x70
def CHZ_SAT_COUNT_SATURATIONS : Fld := ⟨0x70, 0, 32⟩
def CHZ_SWITCH_COUNT : Nat := 0x74
def CHZ_SWITCH_COUNT_SWITCHES : Fld := ⟨0x74, 0, 32⟩
def CHZ_SYNC_COUNT : Nat := 0x78
def CHZ_SYNC_COUNT_RESETS : Fld := ⟨0x78, 0, 32⟩
def ZC_n_CTRL : Nat := 0x1000
def ZC_n_CTRL_EN : Fld := ⟨0x1000, 0, 1⟩
def ZC_n_CTRL_BAND : Fld := ⟨0x1000, 8, 6⟩
def ZC_n_FREQ_LO : Nat := 0x1004
def ZC_n_FREQ_LO_FREQ_LO : Fld := ⟨0x1004, 0, 32⟩
def ZC_n_FREQ_HI : Nat := 0x1008
def ZC_n_FREQ_HI_FREQ_HI : Fld := ⟨0x1008, 0, 16⟩
def ZC_n_DEC : Nat := 0x100C
def ZC_n_DEC_L : Fld := ⟨0x100C, 0, 18⟩
def ZC_n_DEC_SHIFT : Fld := ⟨0x100C, 24, 6⟩
def ZC_n_GAIN : Nat := 0x1010
def ZC_n_GAIN_GAIN : Fld := ⟨0x1010, 0, 18⟩
def ZC_n_DET : Nat := 0x1014
def ZC_n_DET_WIN : Fld := ⟨0x1014, 0, 16⟩
def ZC_n_DET_ATT : Fld := ⟨0x1014, 16, 4⟩
def ZC_n_DET_DEC : Fld := ⟨0x1014, 20, 4⟩
def ZC_n_OUT : Nat := 0x1018
def ZC_n_OUT_FMT : Fld := ⟨0x1018, 0, 1⟩
def ZC_n_OUT_SHIFT : Fld := ⟨0x1018, 4, 4⟩
def ZC_n_OUT_BLK : Fld := ⟨0x1018, 8, 5⟩
def ZC_n_OUT_MEM : Fld := ⟨0x1018, 16, 1⟩
def ZC_n_ROUTE : Nat := 0x101C
def ZC_n_ROUTE_CORE : Fld := ⟨0x101C, 0, 8⟩
def ZC_n_ROUTE_PORT : Fld := ⟨0x101C, 8, 2⟩
def ZC_n_RING_BASE : Nat := 0x1020
def ZC_n_RING_BASE_BASE : Fld := ⟨0x1020, 0, 24⟩
def ZC_n_RING_SIZE : Nat := 0x1024
def ZC_n_RING_SIZE_SIZE : Fld := ⟨0x1024, 0, 24⟩
def ZC_n_PEAK : Nat := 0x1028
def ZC_n_PEAK_LEVEL : Fld := ⟨0x1028, 0, 16⟩
def ZC_n_RMS : Nat := 0x102C
def ZC_n_RMS_LEVEL : Fld := ⟨0x102C, 0, 16⟩
def ZC_n_ENV : Nat := 0x1030
def ZC_n_ENV_LEVEL : Fld := ⟨0x1030, 0, 16⟩
def ZC_n_STATUS : Nat := 0x1034
def ZC_n_STATUS_RUN : Fld := ⟨0x1034, 0, 1⟩
def ZC_n_STATUS_PRIMING : Fld := ⟨0x1034, 1, 1⟩
def ZC_n_STATUS_EDGE : Fld := ⟨0x1034, 2, 1⟩
def ZC_n_STATUS_RING_SMALL : Fld := ⟨0x1034, 3, 1⟩
def ZC_n_STATUS_SAT : Fld := ⟨0x1034, 8, 1⟩
def ZC_n_STATUS_DROP : Fld := ⟨0x1034, 9, 1⟩
def ZC_n_STATUS_CLAMP : Fld := ⟨0x1034, 10, 1⟩
def ZC_n_DROP : Nat := 0x1038
def ZC_n_DROP_DROPPED : Fld := ⟨0x1038, 0, 32⟩
def ZC_n_BLOCKS : Nat := 0x103C
def ZC_n_BLOCKS_BLOCKS : Fld := ⟨0x103C, 0, 32⟩

/-! Block `cctl`: 08_channel_core_model.md, R310. -/
def CCTL_ID : Nat := 0x0
def CCTL_ID_DIE_TYPE : Fld := ⟨0x0, 24, 8⟩
def CCTL_ID_REVISION : Fld := ⟨0x0, 16, 8⟩
def CCTL_ID_LEAD : Fld := ⟨0x0, 8, 1⟩
def CCTL_ID_INDEX : Fld := ⟨0x0, 0, 2⟩
def CCTL_CFG : Nat := 0x4
def CCTL_CFG_CORES : Fld := ⟨0x4, 0, 8⟩
def CCTL_CFG_RESERVE : Fld := ⟨0x4, 8, 3⟩
def CCTL_CFG_SPARES : Fld := ⟨0x4, 16, 3⟩
def CCTL_CU_BASE : Nat := 0x8
def CCTL_CU_BASE_BASE : Fld := ⟨0x8, 0, 24⟩
def CCTL_CU_SIZE : Nat := 0xC
def CCTL_CU_SIZE_SIZE : Fld := ⟨0xC, 0, 24⟩
def CCTL_SPARE_k : Nat := 0x10
def CCTL_SPARE_k_SPARE : Fld := ⟨0x10, 0, 32⟩
def CCTL_HALTED_k : Nat := 0x30
def CCTL_HALTED_k_HALTED : Fld := ⟨0x30, 0, 32⟩
def CCTL_START_k : Nat := 0x50
def CCTL_START_k_START : Fld := ⟨0x50, 0, 32⟩
def CCTL_STOP_k : Nat := 0x70
def CCTL_STOP_k_STOP : Fld := ⟨0x70, 0, 32⟩
def CCTL_EVREQ_k : Nat := 0x90
def CCTL_EVREQ_k_EVREQ : Fld := ⟨0x90, 0, 32⟩
def CORE_c_CTRL : Nat := 0x1000
def CORE_c_CTRL_RUN : Fld := ⟨0x1000, 0, 1⟩
def CORE_c_CTRL_STEP : Fld := ⟨0x1000, 1, 1⟩
def CORE_c_CTRL_RESET : Fld := ⟨0x1000, 2, 1⟩
def CORE_c_CTRL_BRK_EN : Fld := ⟨0x1000, 3, 1⟩
def CORE_c_STATUS : Nat := 0x1004
def CORE_c_STATUS_RUNNING : Fld := ⟨0x1004, 0, 1⟩
def CORE_c_STATUS_HALTED : Fld := ⟨0x1004, 1, 1⟩
def CORE_c_STATUS_STALL : Fld := ⟨0x1004, 2, 1⟩
def CORE_c_STATUS_BANK : Fld := ⟨0x1004, 3, 1⟩
def CORE_c_STATUS_CATCHUP : Fld := ⟨0x1004, 4, 1⟩
def CORE_c_STATUS_REPLAY : Fld := ⟨0x1004, 5, 1⟩
def CORE_c_STATUS_SPARE : Fld := ⟨0x1004, 6, 1⟩
def CORE_c_STATUS_RING_SMALL : Fld := ⟨0x1004, 7, 1⟩
def CORE_c_STATUS_LOOPS : Fld := ⟨0x1004, 8, 3⟩
def CORE_c_STATUS_CAUSE : Fld := ⟨0x1004, 12, 4⟩
def CORE_c_STATUS_EVQ_OVF : Fld := ⟨0x1004, 16, 1⟩
def CORE_c_STATUS_DBOVF : Fld := ⟨0x1004, 17, 1⟩
def CORE_c_PC : Nat := 0x1008
def CORE_c_PC_PC : Fld := ⟨0x1008, 0, 14⟩
def CORE_c_BRK : Nat := 0x100C
def CORE_c_BRK_ADDR : Fld := ⟨0x100C, 0, 14⟩
def CORE_c_DOORBELL : Nat := 0x1010
def CORE_c_DOORBELL_VALUE : Fld := ⟨0x1010, 0, 24⟩
def CORE_c_DBG_SEL : Nat := 0x1014
def CORE_c_DBG_SEL_REG : Fld := ⟨0x1014, 0, 7⟩
def CORE_c_DBG_SEL_BANK : Fld := ⟨0x1014, 7, 1⟩
def CORE_c_DBG_DATA : Nat := 0x1018
def CORE_c_DBG_DATA_VALUE : Fld := ⟨0x1018, 0, 24⟩
def CORE_c_EVQ : Nat := 0x101C
def CORE_c_EVQ_VALUE : Fld := ⟨0x101C, 0, 24⟩
def CORE_c_EVQ_CODE : Fld := ⟨0x101C, 24, 7⟩
def CORE_c_EVQ_VALID : Fld := ⟨0x101C, 31, 1⟩
def CORE_c_OUT_0 : Nat := 0x1020
def CORE_c_OUT_0_BASE : Fld := ⟨0x1020, 0, 24⟩
def CORE_c_OUT_1 : Nat := 0x1024
def CORE_c_OUT_1_BASE : Fld := ⟨0x1024, 0, 24⟩
def CORE_c_OUT_CTRL : Nat := 0x1028
def CORE_c_OUT_CTRL_EN0 : Fld := ⟨0x1028, 0, 1⟩
def CORE_c_OUT_CTRL_EN1 : Fld := ⟨0x1028, 1, 1⟩
def CORE_c_OUT_CTRL_BLK0 : Fld := ⟨0x1028, 4, 4⟩
def CORE_c_OUT_CTRL_BLK1 : Fld := ⟨0x1028, 8, 4⟩
def CORE_c_OUT_CTRL_SIZE0 : Fld := ⟨0x1028, 16, 8⟩
def CORE_c_OUT_CTRL_SIZE1 : Fld := ⟨0x1028, 24, 8⟩
def CORE_c_WARMUP : Nat := 0x102C
def CORE_c_WARMUP_SAMPLES : Fld := ⟨0x102C, 0, 24⟩
def CORE_c_CYCLES : Nat := 0x1030
def CORE_c_CYCLES_CYCLES : Fld := ⟨0x1030, 0, 32⟩
def CORE_c_STALLS : Nat := 0x1034
def CORE_c_STALLS_STALLS : Fld := ⟨0x1034, 0, 32⟩
def CORE_c_ECC_COUNT : Nat := 0x1038
def CORE_c_ECC_COUNT_CORRECTED : Fld := ⟨0x1038, 0, 32⟩
def CORE_c_WORDS : Nat := 0x103C
def CORE_c_WORDS_WORDS : Fld := ⟨0x103C, 0, 32⟩

/-! Block `plan`: 10_planner_and_energy.md, R375. -/
def PLAN_ID : Nat := 0x0
def PLAN_ID_SLOTS : Fld := ⟨0x0, 0, 6⟩
def PLAN_ID_LEAD : Fld := ⟨0x0, 8, 1⟩
def PLAN_CTRL : Nat := 0x4
def PLAN_CTRL_EN : Fld := ⟨0x4, 0, 1⟩
def PLAN_CMD : Nat := 0x8
def PLAN_CMD_SLOT : Fld := ⟨0x8, 0, 5⟩
def PLAN_CMD_OP : Fld := ⟨0x8, 8, 3⟩
def PLAN_STATUS : Nat := 0xC
def PLAN_STATUS_BUSY : Fld := ⟨0xC, 0, 1⟩
def PLAN_STATUS_UNPROTECTED : Fld := ⟨0xC, 1, 1⟩
def PLAN_STATUS_MIRROR_OK : Fld := ⟨0xC, 2, 1⟩
def PLAN_STATUS_QUEUE0 : Fld := ⟨0xC, 8, 4⟩
def PLAN_STATUS_QUEUE1 : Fld := ⟨0xC, 12, 4⟩
def PLAN_STAGE_BASE : Nat := 0x10
def PLAN_STAGE_BASE_BASE : Fld := ⟨0x10, 0, 24⟩
def PLAN_REFUSE : Nat := 0x14
def PLAN_REFUSE_SLOT : Fld := ⟨0x14, 0, 5⟩
def PLAN_REFUSE_REASON : Fld := ⟨0x14, 8, 4⟩
def PLAN_REFUSE_VALID : Fld := ⟨0x14, 31, 1⟩
def PLAN_ADMIT_COUNT : Nat := 0x18
def PLAN_ADMIT_COUNT_ADMITS : Fld := ⟨0x18, 0, 32⟩
def PLAN_REFUSE_COUNT : Nat := 0x1C
def PLAN_REFUSE_COUNT_REFUSALS : Fld := ⟨0x1C, 0, 32⟩
def PLAN_REPAIR_COUNT : Nat := 0x20
def PLAN_REPAIR_COUNT_REPAIRS : Fld := ⟨0x20, 0, 32⟩
def PLAN_SUSPEND_COUNT : Nat := 0x24
def PLAN_SUSPEND_COUNT_SUSPENDS : Fld := ⟨0x24, 0, 32⟩
def PLAN_NEXT : Nat := 0x28
def PLAN_NEXT_SLOT : Fld := ⟨0x28, 0, 5⟩
def PLAN_NEXT_DUE_S : Fld := ⟨0x28, 8, 24⟩
def PLAN_LEAD : Nat := 0x2C
def PLAN_LEAD_AON_MS : Fld := ⟨0x2C, 0, 16⟩
def PLAN_LEAD_DIE_MS : Fld := ⟨0x2C, 16, 16⟩
def PLAN_SLEEP : Nat := 0x30
def PLAN_SLEEP_SLEEP_S : Fld := ⟨0x30, 0, 16⟩
def PLAN_SLEEP_AON_S : Fld := ⟨0x30, 16, 16⟩
def PLAN_n_CFG : Nat := 0x100
def PLAN_n_CFG_PRIO : Fld := ⟨0x100, 0, 4⟩
def PLAN_n_CFG_INPUTS : Fld := ⟨0x100, 8, 2⟩
def PLAN_n_CFG_SPARES : Fld := ⟨0x100, 12, 1⟩
def PLAN_n_CFG_WAKE : Fld := ⟨0x100, 13, 2⟩
def PLAN_n_CFG_WAITFIT : Fld := ⟨0x100, 16, 1⟩
def PLAN_n_CFG_UNPROTECTED : Fld := ⟨0x100, 17, 1⟩
def PLAN_n_STATE : Nat := 0x104
def PLAN_n_STATE_STATE : Fld := ⟨0x104, 0, 3⟩
def PLAN_n_STATE_REASON : Fld := ⟨0x104, 8, 4⟩
def PLAN_n_PRED : Nat := 0x108
def PLAN_n_PRED_POWER : Fld := ⟨0x108, 0, 17⟩
def PLAN_n_STAGE : Nat := 0x10C
def PLAN_n_STAGE_STAGE : Fld := ⟨0x10C, 0, 17⟩

/-! Block `pwr`: 10_planner_and_energy.md, R376. -/
def PWR_CTRL : Nat := 0x0
def PWR_CTRL_LEDGER_EN : Fld := ⟨0x0, 0, 1⟩
def PWR_CTRL_HOLDUP_EN : Fld := ⟨0x0, 1, 1⟩
def PWR_CTRL_TEST_EN : Fld := ⟨0x0, 2, 1⟩
def PWR_CTRL_DEEP_SLEEP : Fld := ⟨0x0, 4, 1⟩
def PWR_CMD : Nat := 0x4
def PWR_CMD_TEST : Fld := ⟨0x4, 0, 1⟩
def PWR_CMD_SLEEP : Fld := ⟨0x4, 1, 1⟩
def PWR_CMD_WAKE : Fld := ⟨0x4, 2, 1⟩
def PWR_CMD_CAL : Fld := ⟨0x4, 3, 1⟩
def PWR_STATE : Nat := 0x8
def PWR_STATE_STATE : Fld := ⟨0x8, 0, 2⟩
def PWR_STATE_THROTTLE : Fld := ⟨0x8, 2, 1⟩
def PWR_STATE_OVER_CAP : Fld := ⟨0x8, 3, 1⟩
def PWR_STATE_TEST : Fld := ⟨0x8, 4, 1⟩
def PWR_STATE_NAMEPLATE : Fld := ⟨0x8, 5, 1⟩
def PWR_STATE_TEST_FAIL : Fld := ⟨0x8, 8, 1⟩
def PWR_STATE_CAL_LIMIT : Fld := ⟨0x8, 9, 1⟩
def PWR_CAP : Nat := 0xC
def PWR_CAP_CAP : Fld := ⟨0xC, 0, 17⟩
def PWR_PRED : Nat := 0x10
def PWR_PRED_POWER : Fld := ⟨0x10, 0, 17⟩
def PWR_MEAS : Nat := 0x14
def PWR_MEAS_POWER : Fld := ⟨0x14, 0, 17⟩
def PWR_HOLDUP_V : Nat := 0x18
def PWR_HOLDUP_V_V : Fld := ⟨0x18, 0, 16⟩
def PWR_HOLDUP_C : Nat := 0x1C
def PWR_HOLDUP_C_C : Fld := ⟨0x1C, 0, 24⟩
def PWR_NAMEPLATE : Nat := 0x20
def PWR_NAMEPLATE_C : Fld := ⟨0x20, 0, 24⟩
def PWR_VMIN : Nat := 0x24
def PWR_VMIN_VMIN : Fld := ⟨0x24, 0, 16⟩
def PWR_DERATE : Nat := 0x28
def PWR_DERATE_DERATE : Fld := ⟨0x28, 0, 8⟩
def PWR_RESERVE : Nat := 0x2C
def PWR_RESERVE_RESERVE : Fld := ⟨0x2C, 0, 24⟩
def PWR_EPB : Nat := 0x30
def PWR_EPB_EPB : Fld := ⟨0x30, 0, 16⟩
def PWR_EPB_MEASURED : Fld := ⟨0x30, 16, 16⟩
def PWR_E_AVAIL : Nat := 0x34
def PWR_E_AVAIL_E : Fld := ⟨0x34, 0, 32⟩
def PWR_DEBT : Nat := 0x38
def PWR_DEBT_D : Fld := ⟨0x38, 0, 32⟩
def PWR_PENDING : Nat := 0x3C
def PWR_PENDING_PENDING : Fld := ⟨0x3C, 0, 32⟩
def PWR_LIMIT_MIB : Nat := 0x40
def PWR_LIMIT_MIB_LIMIT : Fld := ⟨0x40, 0, 32⟩
def PWR_BLEED : Nat := 0x44
def PWR_BLEED_R : Fld := ⟨0x44, 0, 24⟩
def PWR_TEST_CFG : Nat := 0x48
def PWR_TEST_CFG_DROP : Fld := ⟨0x48, 0, 8⟩
def PWR_TEST_CFG_INTERVAL : Fld := ⟨0x48, 8, 16⟩
def PWR_TEST_CFG_TEST_MAX : Fld := ⟨0x48, 24, 8⟩
def PWR_DIVIDER : Nat := 0x4C
def PWR_DIVIDER_RATIO : Fld := ⟨0x4C, 0, 16⟩
def PWR_CAL_CFG : Nat := 0x50
def PWR_CAL_CFG_INTERVAL : Fld := ⟨0x50, 0, 16⟩
def PWR_THROTTLE : Nat := 0x54
def PWR_THROTTLE_SUSPEND_MS : Fld := ⟨0x54, 0, 16⟩
def PWR_THROTTLE_COUNT : Nat := 0x58
def PWR_THROTTLE_COUNT_THROTTLES : Fld := ⟨0x58, 0, 32⟩
def PWR_GAIN_d : Nat := 0x60
def PWR_GAIN_d_GAIN : Fld := ⟨0x60, 0, 16⟩

/-! Block `boot`: 11_cocoon_and_chrysalis.md, R406. -/
def BOOT_STATUS : Nat := 0x0
def BOOT_STATUS_STATE : Fld := ⟨0x0, 0, 4⟩
def BOOT_STATUS_STRAP : Fld := ⟨0x0, 4, 2⟩
def BOOT_STATUS_COPY : Fld := ⟨0x0, 6, 1⟩
def BOOT_STATUS_FALLBACK : Fld := ⟨0x0, 7, 1⟩
def BOOT_STATUS_HOST : Fld := ⟨0x0, 8, 1⟩
def BOOT_STATUS_UNSIGNED : Fld := ⟨0x0, 9, 1⟩
def BOOT_STATUS_DIE_LOST : Fld := ⟨0x0, 10, 1⟩
def BOOT_STATUS_NOR_BUSY : Fld := ⟨0x0, 11, 1⟩
def BOOT_STATUS_KEY_WARN : Fld := ⟨0x0, 16, 1⟩
def BOOT_STATUS_NOR_ERR : Fld := ⟨0x0, 17, 1⟩
def BOOT_STATUS_SVN_ADV : Fld := ⟨0x0, 18, 1⟩
def BOOT_FAIL_A : Nat := 0x4
def BOOT_FAIL_A_CAUSE : Fld := ⟨0x4, 0, 10⟩
def BOOT_FAIL_B : Nat := 0x8
def BOOT_FAIL_B_CAUSE : Fld := ⟨0x8, 0, 10⟩
def BOOT_IMAGE : Nat := 0xC
def BOOT_IMAGE_VERSION : Fld := ⟨0xC, 0, 32⟩
def BOOT_SVN : Nat := 0x10
def BOOT_SVN_IMAGE : Fld := ⟨0x10, 0, 6⟩
def BOOT_SVN_FUSED : Fld := ⟨0x10, 8, 6⟩
def BOOT_TIME : Nat := 0x14
def BOOT_TIME_MS : Fld := ⟨0x14, 0, 16⟩
def BOOT_KEY_ERRS : Nat := 0x18
def BOOT_KEY_ERRS_ERRORS : Fld := ⟨0x18, 0, 32⟩
def BOOT_NEXT : Nat := 0x1C
def BOOT_NEXT_COPY : Fld := ⟨0x1C, 0, 1⟩
def BOOT_NEXT_VALID : Fld := ⟨0x1C, 1, 1⟩
def BOOT_NEXT_ONCE : Fld := ⟨0x1C, 2, 1⟩
def BOOT_LOCK : Nat := 0x20
def BOOT_LOCK_DEBUG : Fld := ⟨0x20, 0, 1⟩
def BOOT_LOCK_NOR : Fld := ⟨0x20, 1, 1⟩
def BOOT_LOCK_PLAN_LOAD : Fld := ⟨0x20, 2, 1⟩
def BOOT_LOCK_CAP : Fld := ⟨0x20, 3, 1⟩
def BOOT_LOCK_FUSE : Fld := ⟨0x20, 4, 1⟩
def BOOT_CMD : Nat := 0x24
def BOOT_CMD_HOSTGO : Fld := ⟨0x24, 0, 1⟩
def BOOT_CMD_NOR_PROG : Fld := ⟨0x24, 1, 1⟩
def BOOT_CMD_RESTART : Fld := ⟨0x24, 2, 1⟩
def BOOT_CMD_FUSE_GO : Fld := ⟨0x24, 3, 1⟩
def BOOT_HOST_BASE : Nat := 0x28
def BOOT_HOST_BASE_BASE : Fld := ⟨0x28, 0, 24⟩
def BOOT_HOST_LEN : Nat := 0x2C
def BOOT_HOST_LEN_LEN : Fld := ⟨0x2C, 0, 26⟩
def BOOT_NOR_ADDR : Nat := 0x30
def BOOT_NOR_ADDR_ADDR : Fld := ⟨0x30, 0, 26⟩
def BOOT_FUSE : Nat := 0x34
def BOOT_FUSE_SECURE : Fld := ⟨0x34, 0, 1⟩
def BOOT_FUSE_DEBUG_LOCK : Fld := ⟨0x34, 1, 1⟩
def BOOT_FUSE_STRAP_LOCK : Fld := ⟨0x34, 2, 1⟩
def BOOT_FUSE_KEY_PRESENT : Fld := ⟨0x34, 4, 4⟩
def BOOT_FUSE_KEY_REVOKED : Fld := ⟨0x34, 8, 4⟩
def BOOT_FUSE_CMD : Nat := 0x38
def BOOT_FUSE_CMD_OP : Fld := ⟨0x38, 0, 3⟩
def BOOT_FUSE_CMD_SLOT : Fld := ⟨0x38, 4, 2⟩
def BOOT_FUSE_CMD_BUSY : Fld := ⟨0x38, 8, 1⟩
def BOOT_FUSE_CMD_ERR : Fld := ⟨0x38, 9, 1⟩

/-! Block `time`: 12_time_and_synchronisation.md, R431. -/
def TIME_ID : Nat := 0x0
def TIME_ID_HUB : Fld := ⟨0x0, 0, 1⟩
def TIME_ID_LEAD : Fld := ⟨0x0, 8, 1⟩
def TIME_CTRL : Nat := 0x4
def TIME_CTRL_SLEW_PPM : Fld := ⟨0x4, 0, 10⟩
def TIME_CTRL_MANUAL : Fld := ⟨0x4, 16, 1⟩
def TIME_CTRL_MANUAL_BASE : Fld := ⟨0x4, 17, 2⟩
def TIME_CMD : Nat := 0x8
def TIME_CMD_UNSET : Fld := ⟨0x8, 0, 1⟩
def TIME_CMD_ADJUST : Fld := ⟨0x8, 1, 1⟩
def TIME_CMD_HOSTSET : Fld := ⟨0x8, 2, 1⟩
def TIME_STATUS : Nat := 0xC
def TIME_STATUS_SET : Fld := ⟨0xC, 0, 1⟩
def TIME_STATUS_REF_OK : Fld := ⟨0xC, 1, 1⟩
def TIME_STATUS_FINE : Fld := ⟨0xC, 2, 1⟩
def TIME_STATUS_SLEWING : Fld := ⟨0xC, 3, 1⟩
def TIME_STATUS_HOLDOVER : Fld := ⟨0xC, 4, 1⟩
def TIME_STATUS_SELECTED : Fld := ⟨0xC, 5, 2⟩
def TIME_STATUS_RATE_LIMIT : Fld := ⟨0xC, 7, 1⟩
def TIME_STATUS_STEP : Fld := ⟨0xC, 8, 1⟩
def TIME_STATUS_SWITCH : Fld := ⟨0xC, 9, 1⟩
def TIME_STATUS_FAR : Fld := ⟨0xC, 10, 1⟩
def TIME_STATUS_REF_GAP : Fld := ⟨0xC, 11, 1⟩
def TIME_STATUS_MIRROR_OK : Fld := ⟨0xC, 12, 1⟩
def TIME_RATE : Nat := 0x10
def TIME_RATE_RATE : Fld := ⟨0x10, 0, 32⟩
def TIME_REM : Nat := 0x14
def TIME_REM_REM : Fld := ⟨0x14, 0, 32⟩
def TIME_ADJ : Nat := 0x18
def TIME_ADJ_ADJ_NS : Fld := ⟨0x18, 0, 32⟩
def TIME_SELECT : Nat := 0x1C
def TIME_SELECT_REVERT_S : Fld := ⟨0x1C, 0, 16⟩
def TIME_LOCK : Nat := 0x20
def TIME_LOCK_LOCK_NS : Fld := ⟨0x20, 0, 16⟩
def TIME_LOCK_LOCK_COUNT : Fld := ⟨0x20, 16, 8⟩
def TIME_SERVO : Nat := 0x24
def TIME_SERVO_KP : Fld := ⟨0x24, 0, 5⟩
def TIME_SERVO_KI : Fld := ⟨0x24, 8, 5⟩
def TIME_UTC : Nat := 0x28
def TIME_UTC_OFFSET : Fld := ⟨0x28, 0, 16⟩
def TIME_UTC_VALID : Fld := ⟨0x28, 16, 1⟩
def TIME_UTC_LEAP61 : Fld := ⟨0x28, 17, 1⟩
def TIME_UTC_LEAP59 : Fld := ⟨0x28, 18, 1⟩
def TIME_UTC_PTP_TIMESCALE : Fld := ⟨0x28, 19, 1⟩
def TIME_STEP_COUNT : Nat := 0x2C
def TIME_STEP_COUNT_STEPS : Fld := ⟨0x2C, 0, 32⟩
def TIME_SWITCH_COUNT : Nat := 0x30
def TIME_SWITCH_COUNT_SWITCHES : Fld := ⟨0x30, 0, 32⟩
def TIME_JRX_STEP : Nat := 0x34
def TIME_JRX_STEP_STEP : Fld := ⟨0x34, 0, 32⟩
def TIME_DB_k_CFG : Nat := 0x40
def TIME_DB_k_CFG_SRC : Fld := ⟨0x40, 0, 3⟩
def TIME_DB_k_CFG_PRIO : Fld := ⟨0x40, 4, 4⟩
def TIME_DB_k_CFG_TDC : Fld := ⟨0x40, 8, 4⟩
def TIME_DB_k_STATE : Nat := 0x44
def TIME_DB_k_STATE_STATE : Fld := ⟨0x44, 0, 2⟩
def TIME_DB_k_STATE_GOOD : Fld := ⟨0x44, 8, 8⟩
def TIME_DB_k_OFS : Nat := 0x48
def TIME_DB_k_OFS_OFS : Fld := ⟨0x48, 0, 32⟩
def TIME_DB_k_RATE : Nat := 0x4C
def TIME_DB_k_RATE_RATE : Fld := ⟨0x4C, 0, 32⟩
def TIME_PTP_i_CFG : Nat := 0x100
def TIME_PTP_i_CFG_EN : Fld := ⟨0x100, 0, 1⟩
def TIME_PTP_i_CFG_DELAY : Fld := ⟨0x100, 1, 1⟩
def TIME_PTP_i_CFG_TRANSPORT : Fld := ⟨0x100, 2, 2⟩
def TIME_PTP_i_CFG_ONESTEP : Fld := ⟨0x100, 4, 1⟩
def TIME_PTP_i_CFG_ARB : Fld := ⟨0x100, 5, 1⟩
def TIME_PTP_i_CFG_DOMAIN : Fld := ⟨0x100, 8, 8⟩
def TIME_PTP_i_CFG_ROLE0 : Fld := ⟨0x100, 16, 2⟩
def TIME_PTP_i_CFG_ROLE1 : Fld := ⟨0x100, 18, 2⟩
def TIME_PTP_i_INTV : Nat := 0x104
def TIME_PTP_i_INTV_LOG_SYNC : Fld := ⟨0x104, 0, 4⟩
def TIME_PTP_i_INTV_LOG_ANNOUNCE : Fld := ⟨0x104, 4, 4⟩
def TIME_PTP_i_INTV_LOG_DELAY : Fld := ⟨0x104, 8, 4⟩
def TIME_PTP_i_INTV_ANNOUNCE_TO : Fld := ⟨0x104, 12, 4⟩
def TIME_PTP_i_INTV_SYNC_TO : Fld := ⟨0x104, 16, 4⟩
def TIME_PTP_i_DS : Nat := 0x108
def TIME_PTP_i_DS_PRIORITY1 : Fld := ⟨0x108, 0, 8⟩
def TIME_PTP_i_DS_PRIORITY2 : Fld := ⟨0x108, 8, 8⟩
def TIME_PTP_i_DS_CLASS_LOCKED : Fld := ⟨0x108, 16, 8⟩
def TIME_PTP_i_DS_CLASS_HOLDOVER : Fld := ⟨0x108, 24, 8⟩
def TIME_PTP_i_STATE : Nat := 0x10C
def TIME_PTP_i_STATE_PORT0 : Fld := ⟨0x10C, 0, 4⟩
def TIME_PTP_i_STATE_PORT1 : Fld := ⟨0x10C, 4, 4⟩
def TIME_PTP_i_STATE_GM : Fld := ⟨0x10C, 8, 1⟩
def TIME_PTP_i_MPD : Nat := 0x110
def TIME_PTP_i_MPD_MPD : Fld := ⟨0x110, 0, 32⟩
def TIME_PTP_i_RX : Nat := 0x114
def TIME_PTP_i_RX_RECEIVED : Fld := ⟨0x114, 0, 32⟩
def TIME_PTP_i_TX : Nat := 0x118
def TIME_PTP_i_TX_SENT : Fld := ⟨0x118, 0, 32⟩
def TIME_PTP_i_TIMEOUT : Nat := 0x11C
def TIME_PTP_i_TIMEOUT_TIMEOUTS : Fld := ⟨0x11C, 0, 32⟩
def TIME_PTP_i_BAD : Nat := 0x120
def TIME_PTP_i_BAD_DISCARDED : Fld := ⟨0x120, 0, 32⟩
def TIME_PORTp_ASYM : Nat := 0x200
def TIME_PORTp_ASYM_ASYM : Fld := ⟨0x200, 0, 32⟩
def TIME_PORTp_LAT : Nat := 0x204
def TIME_PORTp_LAT_INGRESS : Fld := ⟨0x204, 0, 16⟩
def TIME_PORTp_LAT_EGRESS : Fld := ⟨0x204, 16, 16⟩

/-! Block `tdc`: 13_event_timing_inputs.md, R452. -/
def TDC_ID : Nat := 0x0
def TDC_ID_HUB : Fld := ⟨0x0, 0, 1⟩
def TDC_ID_INPUTS : Fld := ⟨0x0, 8, 4⟩
def TDC_CMD : Nat := 0x4
def TDC_CMD_ARM : Fld := ⟨0x4, 0, 8⟩
def TDC_CMD_FLUSH : Fld := ⟨0x4, 8, 8⟩
def TDC_CMD_CHECK : Fld := ⟨0x4, 16, 1⟩
def TDC_CMD_UPDATE : Fld := ⟨0x4, 17, 1⟩
def TDC_CMD_CHECK_IN : Fld := ⟨0x4, 20, 3⟩
def TDC_CAL : Nat := 0x8
def TDC_CAL_DNL : Fld := ⟨0x8, 0, 8⟩
def TDC_CAL_INL : Fld := ⟨0x8, 8, 8⟩
def TDC_CAL_BUSY : Fld := ⟨0x8, 16, 1⟩
def TDC_CAL_DONE : Fld := ⟨0x8, 17, 1⟩
def TDC_CAL_ABORT : Fld := ⟨0x8, 18, 1⟩
def TDC_CAL_UPDATED : Fld := ⟨0x8, 19, 1⟩
def TDC_n_CFG : Nat := 0x100
def TDC_n_CFG_EN : Fld := ⟨0x100, 0, 1⟩
def TDC_n_CFG_STD : Fld := ⟨0x100, 1, 2⟩
def TDC_n_CFG_TERM : Fld := ⟨0x100, 3, 1⟩
def TDC_n_CFG_EDGE : Fld := ⟨0x100, 4, 2⟩
def TDC_n_CFG_THRESH : Fld := ⟨0x100, 8, 8⟩
def TDC_n_CFG_WMARK : Fld := ⟨0x100, 16, 12⟩
def TDC_n_GATE : Nat := 0x104
def TDC_n_GATE_MODE : Fld := ⟨0x104, 0, 2⟩
def TDC_n_GATE_COUNT : Fld := ⟨0x104, 8, 24⟩
def TDC_n_PERIOD : Nat := 0x108
def TDC_n_PERIOD_PERIOD : Fld := ⟨0x108, 0, 32⟩
def TDC_n_PRES : Nat := 0x10C
def TDC_n_PRES_TOL : Fld := ⟨0x10C, 0, 16⟩
def TDC_n_PRES_COUNT : Fld := ⟨0x10C, 16, 8⟩
def TDC_n_STATUS : Nat := 0x110
def TDC_n_STATUS_READY : Fld := ⟨0x110, 0, 1⟩
def TDC_n_STATUS_GATE_OPEN : Fld := ⟨0x110, 1, 1⟩
def TDC_n_STATUS_PRESENT : Fld := ⟨0x110, 2, 1⟩
def TDC_n_STATUS_COARSE : Fld := ⟨0x110, 3, 1⟩
def TDC_n_STATUS_OVF : Fld := ⟨0x110, 8, 1⟩
def TDC_n_STATUS_MISSED : Fld := ⟨0x110, 9, 1⟩
def TDC_n_STATUS_PRES_CHANGE : Fld := ⟨0x110, 10, 1⟩
def TDC_n_DELAY_FACT : Nat := 0x114
def TDC_n_DELAY_FACT_DELAY : Fld := ⟨0x114, 0, 16⟩
def TDC_n_DELAY_BOARD : Nat := 0x118
def TDC_n_DELAY_BOARD_DELAY : Fld := ⟨0x118, 0, 24⟩
def TDC_n_FILL : Nat := 0x11C
def TDC_n_FILL_FILL : Fld := ⟨0x11C, 0, 13⟩
def TDC_n_CAPTURED : Nat := 0x120
def TDC_n_CAPTURED_EDGES : Fld := ⟨0x120, 0, 32⟩
def TDC_n_MISSED : Nat := 0x124
def TDC_n_MISSED_MISSED : Fld := ⟨0x124, 0, 32⟩
def TDC_n_OVF : Nat := 0x128
def TDC_n_OVF_DROPPED : Fld := ⟨0x128, 0, 32⟩
def TDC_n_GATED : Nat := 0x12C
def TDC_n_GATED_GATED : Fld := ⟨0x12C, 0, 32⟩
def IV_m_CFG : Nat := 0x400
def IV_m_CFG_START : Fld := ⟨0x400, 0, 3⟩
def IV_m_CFG_START_EDGE : Fld := ⟨0x400, 3, 2⟩
def IV_m_CFG_STOP : Fld := ⟨0x400, 5, 3⟩
def IV_m_CFG_STOP_EDGE : Fld := ⟨0x400, 8, 2⟩
def IV_m_CFG_EN : Fld := ⟨0x400, 12, 1⟩
def IV_m_WINDOW : Nat := 0x404
def IV_m_WINDOW_W : Fld := ⟨0x404, 0, 32⟩
def IV_m_FILL : Nat := 0x408
def IV_m_FILL_FILL : Fld := ⟨0x408, 0, 11⟩
def IV_m_PAIRS : Nat := 0x40C
def IV_m_PAIRS_DROPPED : Fld := ⟨0x40C, 0, 32⟩
def IV_m_UNPAIRED : Nat := 0x410
def IV_m_UNPAIRED_UNPAIRED : Fld := ⟨0x410, 0, 32⟩
def IV_m_ORDER : Nat := 0x414
def IV_m_ORDER_ORDER : Fld := ⟨0x414, 0, 32⟩

/-! Block `nfs`: 14_flash_store.md, R485. -/
def NFS_ID : Nat := 0x0
def NFS_ID_HUB : Fld := ⟨0x0, 0, 1⟩
def NFS_ID_CHANNELS : Fld := ⟨0x0, 8, 4⟩
def NFS_CTRL : Nat := 0x4
def NFS_CTRL_EN : Fld := ⟨0x4, 0, 1⟩
def NFS_CTRL_WIDTH : Fld := ⟨0x4, 8, 6⟩
def NFS_CTRL_FULL : Fld := ⟨0x4, 16, 1⟩
def NFS_CTRL_PATROL_EN : Fld := ⟨0x4, 17, 1⟩
def NFS_CTRL_CRYPTO : Fld := ⟨0x4, 18, 2⟩
def NFS_CTRL_SEAL_MS : Fld := ⟨0x4, 20, 12⟩
def NFS_CMD : Nat := 0x8
def NFS_CMD_FORMAT : Fld := ⟨0x8, 0, 1⟩
def NFS_CMD_READ : Fld := ⟨0x8, 1, 1⟩
def NFS_CMD_DELETE : Fld := ⟨0x8, 2, 1⟩
def NFS_CMD_UNLOCK : Fld := ⟨0x8, 3, 1⟩
def NFS_CMD_ERASE : Fld := ⟨0x8, 4, 1⟩
def NFS_STATUS : Nat := 0xC
def NFS_STATUS_MOUNTED : Fld := ⟨0xC, 0, 1⟩
def NFS_STATUS_BLANK : Fld := ⟨0xC, 1, 1⟩
def NFS_STATUS_LOCKED : Fld := ⟨0xC, 2, 1⟩
def NFS_STATUS_FULL : Fld := ⟨0xC, 3, 1⟩
def NFS_STATUS_DEGRADED : Fld := ⟨0xC, 4, 1⟩
def NFS_STATUS_REBUILD : Fld := ⟨0xC, 5, 1⟩
def NFS_STATUS_FLUSH : Fld := ⟨0xC, 6, 1⟩
def NFS_STATUS_CLOSED : Fld := ⟨0xC, 7, 1⟩
def NFS_STATUS_FORMATTING : Fld := ⟨0xC, 8, 1⟩
def NFS_STATUS_ERASING : Fld := ⟨0xC, 9, 1⟩
def NFS_STATUS_UNCLEAN : Fld := ⟨0xC, 16, 1⟩
def NFS_STATUS_DIE_MISMATCH : Fld := ⟨0xC, 17, 1⟩
def NFS_STATUS_DIE_FAIL : Fld := ⟨0xC, 18, 1⟩
def NFS_STATUS_REFUSED : Fld := ⟨0xC, 19, 1⟩
def NFS_STATUS_CAT_FULL : Fld := ⟨0xC, 20, 1⟩
def NFS_GEOM : Nat := 0x10
def NFS_GEOM_GROUPS : Fld := ⟨0x10, 0, 7⟩
def NFS_GEOM_WIDTH : Fld := ⟨0x10, 8, 6⟩
def NFS_GEOM_BPC : Fld := ⟨0x10, 16, 1⟩
def NFS_GEOM_PLANES : Fld := ⟨0x10, 17, 1⟩
def NFS_GEOM_IDLE : Fld := ⟨0x10, 24, 8⟩
def NFS_RATE : Nat := 0x14
def NFS_RATE_MBPS : Fld := ⟨0x14, 0, 16⟩
def NFS_CAP : Nat := 0x18
def NFS_CAP_GB : Fld := ⟨0x18, 0, 32⟩
def NFS_FREE : Nat := 0x1C
def NFS_FREE_GB : Fld := ⟨0x1C, 0, 32⟩
def NFS_TAGS : Nat := 0x20
def NFS_TAGS_LIMIT : Fld := ⟨0x20, 0, 17⟩
def NFS_TAGS_USED : Nat := 0x84
def NFS_TAGS_USED_IN_USE : Fld := ⟨0x84, 0, 17⟩
def NFS_WEAR : Nat := 0x24
def NFS_WEAR_PE_MEAN : Fld := ⟨0x24, 0, 16⟩
def NFS_WEAR_PE_MAX : Fld := ⟨0x24, 16, 16⟩
def NFS_MEDIA : Nat := 0x28
def NFS_MEDIA_PE_LIMIT : Fld := ⟨0x28, 0, 16⟩
def NFS_MEDIA_WEAR_SPREAD : Fld := ⟨0x28, 16, 12⟩
def NFS_MEDIA_SPARE_PCT : Fld := ⟨0x28, 28, 4⟩
def NFS_PATROL : Nat := 0x2C
def NFS_PATROL_DAYS : Fld := ⟨0x2C, 0, 9⟩
def NFS_PATROL_RETAIN_D : Fld := ⟨0x2C, 9, 12⟩
def NFS_PATROL_REFRESH_BITS : Fld := ⟨0x2C, 21, 8⟩
def NFS_READ_LIMIT : Nat := 0x30
def NFS_READ_LIMIT_LIMIT : Fld := ⟨0x30, 0, 32⟩
def NFS_REBUILD : Nat := 0x34
def NFS_REBUILD_MBPS : Fld := ⟨0x34, 0, 16⟩
def NFS_REBUILD_PCT : Fld := ⟨0x34, 16, 8⟩
def NFS_NEXT_REC : Nat := 0x38
def NFS_NEXT_REC_REC : Fld := ⟨0x38, 0, 24⟩
def NFS_CAT_SEL : Nat := 0x3C
def NFS_CAT_SEL_REC : Fld := ⟨0x3C, 0, 24⟩
def NFS_CAT_STATE : Nat := 0x40
def NFS_CAT_STATE_STATE : Fld := ⟨0x40, 0, 3⟩
def NFS_CAT_STATE_PROTECT : Fld := ⟨0x40, 3, 1⟩
def NFS_CAT_STATE_UNCLEAN : Fld := ⟨0x40, 4, 1⟩
def NFS_CAT_STATE_LOSS : Fld := ⟨0x40, 5, 1⟩
def NFS_CAT_STATE_SOURCE : Fld := ⟨0x40, 8, 6⟩
def NFS_CAT_SAFE : Nat := 0x44
def NFS_CAT_SAFE_SECTORS : Fld := ⟨0x44, 0, 32⟩
def NFS_RD_REC : Nat := 0x48
def NFS_RD_REC_REC : Fld := ⟨0x48, 0, 24⟩
def NFS_RD_OFS : Nat := 0x4C
def NFS_RD_OFS_SECTOR : Fld := ⟨0x4C, 0, 32⟩
def NFS_RD_LEN : Nat := 0x50
def NFS_RD_LEN_SECTORS : Fld := ⟨0x50, 0, 20⟩
def NFS_RD_DEST : Nat := 0x54
def NFS_RD_DEST_BASE : Fld := ⟨0x54, 0, 24⟩
def NFS_RD_STATUS : Nat := 0x58
def NFS_RD_STATUS_BUSY : Fld := ⟨0x58, 0, 1⟩
def NFS_RD_STATUS_DONE : Fld := ⟨0x58, 1, 1⟩
def NFS_RD_STATUS_CORRECTED : Fld := ⟨0x58, 2, 1⟩
def NFS_RD_STATUS_REBUILT : Fld := ⟨0x58, 3, 1⟩
def NFS_RD_STATUS_LOST : Fld := ⟨0x58, 4, 1⟩
def NFS_RD_STATUS_SHORT : Fld := ⟨0x58, 5, 1⟩
def NFS_RD_STATUS_REFUSED : Fld := ⟨0x58, 6, 1⟩
def NFS_RD_STATUS_MOVED : Fld := ⟨0x58, 12, 20⟩
def NFS_CORR_COUNT : Nat := 0x60
def NFS_CORR_COUNT_COUNT : Fld := ⟨0x60, 0, 32⟩
def NFS_RETRY_COUNT : Nat := 0x64
def NFS_RETRY_COUNT_COUNT : Fld := ⟨0x64, 0, 32⟩
def NFS_REBUILT_COUNT : Nat := 0x68
def NFS_REBUILT_COUNT_COUNT : Fld := ⟨0x68, 0, 32⟩
def NFS_LOST_COUNT : Nat := 0x6C
def NFS_LOST_COUNT_COUNT : Fld := ⟨0x6C, 0, 32⟩
def NFS_BAD_COUNT : Nat := 0x70
def NFS_BAD_COUNT_COUNT : Fld := ⟨0x70, 0, 32⟩
def NFS_REFRESH_COUNT : Nat := 0x74
def NFS_REFRESH_COUNT_COUNT : Fld := ⟨0x74, 0, 32⟩
def NFS_PROG_FAIL : Nat := 0x78
def NFS_PROG_FAIL_COUNT : Fld := ⟨0x78, 0, 32⟩
def NFS_TAG_WAITS : Nat := 0x7C
def NFS_TAG_WAITS_COUNT : Fld := ⟨0x7C, 0, 32⟩
def NFS_UNLOCK_FAIL : Nat := 0x80
def NFS_UNLOCK_FAIL_COUNT : Fld := ⟨0x80, 0, 32⟩
def NFS_FREE_MIN : Nat := 0x88
def NFS_FREE_MIN_SUPERBLOCKS : Fld := ⟨0x88, 0, 4⟩
def NFS_CHAN_c : Nat := 0x100
def NFS_CHAN_c_MTS : Fld := ⟨0x100, 0, 12⟩
def NFS_CHAN_c_IFACE : Fld := ⟨0x100, 12, 2⟩
def NFS_DIES_c : Nat := 0x104
def NFS_DIES_c_DIES : Fld := ⟨0x104, 0, 32⟩
def NFS_FAILED_c : Nat := 0x108
def NFS_FAILED_c_FAILED : Fld := ⟨0x108, 0, 32⟩
def NFS_SRC_s_CTRL : Nat := 0x1000
def NFS_SRC_s_CTRL_EN : Fld := ⟨0x1000, 0, 1⟩
def NFS_SRC_s_CTRL_PRODUCER : Fld := ⟨0x1000, 1, 1⟩
def NFS_SRC_s_CTRL_PROTECT : Fld := ⟨0x1000, 2, 1⟩
def NFS_SRC_s_BASE : Nat := 0x1004
def NFS_SRC_s_BASE_BASE : Fld := ⟨0x1004, 0, 24⟩
def NFS_SRC_s_SIZE : Nat := 0x1008
def NFS_SRC_s_SIZE_SIZE : Fld := ⟨0x1008, 0, 16⟩
def NFS_SRC_s_WPTR : Nat := 0x100C
def NFS_SRC_s_WPTR_WPTR : Fld := ⟨0x100C, 0, 32⟩
def NFS_SRC_s_RPTR : Nat := 0x1010
def NFS_SRC_s_RPTR_RPTR : Fld := ⟨0x1010, 0, 32⟩
def NFS_SRC_s_SAFE : Nat := 0x1014
def NFS_SRC_s_SAFE_SAFE : Fld := ⟨0x1014, 0, 32⟩
def NFS_SRC_s_REC : Nat := 0x1018
def NFS_SRC_s_REC_REC : Fld := ⟨0x1018, 0, 24⟩

/-! Block `ddr`: 15_capture_memory.md, R511. -/
def DDR_ID : Nat := 0x0
def DDR_ID_HUB : Fld := ⟨0x0, 0, 1⟩
def DDR_ID_CHANNELS : Fld := ⟨0x0, 8, 4⟩
def DDR_CTRL : Nat := 0x4
def DDR_CTRL_SCRUB_EN : Fld := ⟨0x4, 0, 1⟩
def DDR_CTRL_SR_EN : Fld := ⟨0x4, 1, 1⟩
def DDR_CMD : Nat := 0x8
def DDR_CMD_RELEASE : Fld := ⟨0x8, 0, 2⟩
def DDR_STATUS : Nat := 0xC
def DDR_STATUS_MISMATCH : Fld := ⟨0xC, 0, 1⟩
def DDR_STATUS_MTS : Fld := ⟨0xC, 8, 3⟩
def DDR_c_CFG : Nat := 0x100
def DDR_c_CFG_MAX_MTS : Fld := ⟨0x100, 0, 3⟩
def DDR_c_CFG_DENSITY : Fld := ⟨0x100, 4, 2⟩
def DDR_c_CFG_RANKS : Fld := ⟨0x100, 8, 1⟩
def DDR_c_STATUS : Nat := 0x104
def DDR_c_STATUS_STATE : Fld := ⟨0x104, 0, 3⟩
def DDR_c_STATUS_ERASURE : Fld := ⟨0x104, 3, 1⟩
def DDR_c_STATUS_DEV : Fld := ⟨0x104, 4, 5⟩
def DDR_c_STATUS_MARGIN : Fld := ⟨0x104, 9, 7⟩
def DDR_c_STATUS_CE : Fld := ⟨0x104, 16, 1⟩
def DDR_c_STATUS_UE : Fld := ⟨0x104, 17, 1⟩
def DDR_c_STATUS_CMD_ERR : Fld := ⟨0x104, 18, 1⟩
def DDR_c_SIZE : Nat := 0x108
def DDR_c_SIZE_MIB : Fld := ⟨0x108, 0, 17⟩
def DDR_c_WQ : Nat := 0x10C
def DDR_c_WQ_HIGH : Fld := ⟨0x10C, 0, 9⟩
def DDR_c_WQ_LOW : Fld := ⟨0x10C, 16, 9⟩
def DDR_c_SR : Nat := 0x110
def DDR_c_SR_IDLE_US : Fld := ⟨0x110, 0, 16⟩
def DDR_c_TRAIN : Nat := 0x114
def DDR_c_TRAIN_PERIOD_MS : Fld := ⟨0x114, 0, 16⟩
def DDR_c_SCRUB : Nat := 0x118
def DDR_c_SCRUB_HOURS : Fld := ⟨0x118, 0, 8⟩
def DDR_c_SCRUB_PCT : Fld := ⟨0x118, 8, 8⟩
def DDR_c_ECC : Nat := 0x11C
def DDR_c_ECC_DEV_LIMIT : Fld := ⟨0x11C, 0, 16⟩
def DDR_c_CE_COUNT : Nat := 0x120
def DDR_c_CE_COUNT_CORRECTED : Fld := ⟨0x120, 0, 32⟩
def DDR_c_RETRY_COUNT : Nat := 0x124
def DDR_c_RETRY_COUNT_RETRIES : Fld := ⟨0x124, 0, 32⟩
def DDR_c_SR_COUNT : Nat := 0x128
def DDR_c_SR_COUNT_ENTRIES : Fld := ⟨0x128, 0, 32⟩
def DDR_c_SR_CANCEL : Nat := 0x12C
def DDR_c_SR_CANCEL_CANCELLED : Fld := ⟨0x12C, 0, 32⟩
def DDR_c_FREEZE : Nat := 0x130
def DDR_c_FREEZE_CAUSE : Fld := ⟨0x130, 0, 2⟩
def DDR_c_FREEZE_SOURCE : Fld := ⟨0x130, 4, 4⟩
def DDR_c_FREEZE_RANK : Fld := ⟨0x130, 8, 1⟩
def DDR_c_FREEZE_BANK : Fld := ⟨0x130, 9, 5⟩
def DDR_c_FREEZE_SYNDROME : Fld := ⟨0x130, 16, 16⟩
def DDR_c_LOAD : Nat := 0x134
def DDR_c_LOAD_READ_PCT : Fld := ⟨0x134, 0, 8⟩
def DDR_c_LOAD_WRITE_PCT : Fld := ⟨0x134, 8, 8⟩

/-! Block `dma`: 16_dma_programs.md, R535. -/
def DMA_ID : Nat := 0x0
def DMA_ID_HUB : Fld := ⟨0x0, 0, 1⟩
def DMA_ID_CHANNELS : Fld := ⟨0x0, 8, 4⟩
def DMA_CTRL : Nat := 0x4
def DMA_CTRL_EN : Fld := ⟨0x4, 0, 1⟩
def DMA_CFG : Nat := 0x8
def DMA_CFG_HOST_CH : Fld := ⟨0x8, 0, 5⟩
def DMA_IRQ : Nat := 0xC
def DMA_IRQ_IRQ : Fld := ⟨0xC, 0, 16⟩
def DMA_TAGS_USED : Nat := 0x10
def DMA_TAGS_USED_IN_USE : Fld := ⟨0x10, 0, 17⟩
def DMA_TAG_WAITS : Nat := 0x14
def DMA_TAG_WAITS_WAITS : Fld := ⟨0x14, 0, 32⟩
def DMA_LINE_SEL : Nat := 0x18
def DMA_LINE_SEL_LINE : Fld := ⟨0x18, 0, 16⟩
def DMA_LINE_STATE : Nat := 0x1C
def DMA_LINE_STATE_CREDITS : Fld := ⟨0x1C, 0, 16⟩
def DMA_LINE_STATE_LEVEL : Fld := ⟨0x1C, 16, 1⟩
def DMA_LINE_STATE_OVF : Fld := ⟨0x1C, 17, 1⟩
def DMA_k_CTRL : Nat := 0x100
def DMA_k_CTRL_RUN : Fld := ⟨0x100, 0, 1⟩
def DMA_k_CTRL_PAUSE : Fld := ⟨0x100, 1, 1⟩
def DMA_k_STATUS : Nat := 0x104
def DMA_k_STATUS_STATE : Fld := ⟨0x104, 0, 3⟩
def DMA_k_STATUS_CAUSE : Fld := ⟨0x104, 4, 4⟩
def DMA_k_STATUS_TIMEOUT : Fld := ⟨0x104, 8, 1⟩
def DMA_k_STATUS_WITHDRAWN : Fld := ⟨0x104, 9, 1⟩
def DMA_k_STATUS_POISON : Fld := ⟨0x104, 10, 1⟩
def DMA_k_PC : Nat := 0x108
def DMA_k_PC_PC : Fld := ⟨0x108, 0, 11⟩
def DMA_k_CFG : Nat := 0x10C
def DMA_k_CFG_PRIO : Fld := ⟨0x10C, 0, 2⟩
def DMA_k_CFG_TAGS : Fld := ⟨0x10C, 4, 12⟩
def DMA_k_CFG_OWNER : Fld := ⟨0x10C, 16, 1⟩
def DMA_k_LEFT : Nat := 0x110
def DMA_k_LEFT_LEFT : Fld := ⟨0x110, 0, 32⟩
def DMA_k_LOOP_0 : Nat := 0x114
def DMA_k_LOOP_0_COUNT : Fld := ⟨0x114, 0, 32⟩
def DMA_k_LOOP_1 : Nat := 0x118
def DMA_k_LOOP_1_COUNT : Fld := ⟨0x118, 0, 32⟩
def DMA_k_BYTES : Nat := 0x11C
def DMA_k_BYTES_BYTES : Fld := ⟨0x11C, 0, 32⟩
def DMA_k_WITHDRAWN : Nat := 0x120
def DMA_k_WITHDRAWN_WITHDRAWN : Fld := ⟨0x120, 0, 32⟩
def DMA_k_TIMEOUTS : Nat := 0x124
def DMA_k_TIMEOUTS_TIMEOUTS : Fld := ⟨0x124, 0, 32⟩
def DMA_k_STALLS : Nat := 0x128
def DMA_k_STALLS_STALLS : Fld := ⟨0x128, 0, 32⟩
def DMA_k_WAITLINE : Nat := 0x12C
def DMA_k_WAITLINE_LINE : Fld := ⟨0x12C, 0, 16⟩

/-! Block `eth`: 17_ethernet_streams.md, R557. -/
def ETH_ID : Nat := 0x0
def ETH_ID_HUB : Fld := ⟨0x0, 0, 1⟩
def ETH_CTRL : Nat := 0x4
def ETH_CTRL_EN : Fld := ⟨0x4, 0, 1⟩
def ETH_CTRL_MODE : Fld := ⟨0x4, 1, 2⟩
def ETH_CTRL_FEC : Fld := ⟨0x4, 3, 1⟩
def ETH_CTRL_RESTART : Fld := ⟨0x4, 8, 1⟩
def ETH_STATUS : Nat := 0x8
def ETH_STATUS_LINK : Fld := ⟨0x8, 0, 4⟩
def ETH_STATUS_FEC_LOCK : Fld := ⟨0x8, 4, 1⟩
def ETH_STATUS_LINK_DOWN : Fld := ⟨0x8, 8, 1⟩
def ETH_STATUS_QOVER : Fld := ⟨0x8, 9, 1⟩
def ETH_MAC_LO : Nat := 0xC
def ETH_MAC_LO_MAC : Fld := ⟨0xC, 0, 32⟩
def ETH_MAC_HI : Nat := 0x10
def ETH_MAC_HI_MAC : Fld := ⟨0x10, 0, 16⟩
def ETH_IP4 : Nat := 0x14
def ETH_IP4_ADDR : Fld := ⟨0x14, 0, 32⟩
def ETH_IP4_CFG : Nat := 0x18
def ETH_IP4_CFG_PREFIX : Fld := ⟨0x18, 0, 6⟩
def ETH_IP4_CFG_IP6_EN : Fld := ⟨0x18, 8, 1⟩
def ETH_GW4 : Nat := 0x1C
def ETH_GW4_GW : Fld := ⟨0x1C, 0, 32⟩
def ETH_CFG : Nat := 0x20
def ETH_CFG_MTU : Fld := ⟨0x20, 0, 14⟩
def ETH_CFG_VLAN_EN : Fld := ⟨0x20, 14, 1⟩
def ETH_CFG_VID : Fld := ⟨0x20, 16, 12⟩
def ETH_CFG_MGMT_PCP : Fld := ⟨0x20, 28, 3⟩
def ETH_MGMT : Nat := 0x24
def ETH_MGMT_PORT : Fld := ⟨0x24, 0, 16⟩
def ETH_MGMT_AUTH : Fld := ⟨0x24, 16, 1⟩
def ETH_MGMT_ALLOW_EN : Fld := ⟨0x24, 24, 8⟩
def ETH_TRIG : Nat := 0x38
def ETH_TRIG_PORT : Fld := ⟨0x38, 0, 16⟩
def ETH_TRIG_IP6 : Fld := ⟨0x38, 16, 1⟩
def ETH_TRIG_GROUP4 : Nat := 0x28
def ETH_TRIG_GROUP4_GROUP : Fld := ⟨0x28, 0, 32⟩
def ETH_FC : Nat := 0x2C
def ETH_FC_MODE : Fld := ⟨0x2C, 0, 2⟩
def ETH_FC_PAUSED : Fld := ⟨0x2C, 8, 8⟩
def ETH_SHAPE : Nat := 0x30
def ETH_SHAPE_STREAM_MBPS : Fld := ⟨0x30, 0, 17⟩
def ETH_VRT : Nat := 0x34
def ETH_VRT_OUI : Fld := ⟨0x34, 0, 24⟩
def ETH_RX_FRAMES : Nat := 0x40
def ETH_RX_FRAMES_COUNT : Fld := ⟨0x40, 0, 32⟩
def ETH_RX_DROP : Nat := 0x44
def ETH_RX_DROP_COUNT : Fld := ⟨0x44, 0, 32⟩
def ETH_MGMT_RX : Nat := 0x48
def ETH_MGMT_RX_COUNT : Fld := ⟨0x48, 0, 32⟩
def ETH_MGMT_DROP : Nat := 0x4C
def ETH_MGMT_DROP_COUNT : Fld := ⟨0x4C, 0, 32⟩
def ETH_MGMT_REJECT : Nat := 0x50
def ETH_MGMT_REJECT_COUNT : Fld := ⟨0x50, 0, 32⟩
def ETH_PAUSE_COUNT : Nat := 0x54
def ETH_PAUSE_COUNT_COUNT : Fld := ⟨0x54, 0, 32⟩
def ETH_FEC_CORR : Nat := 0x58
def ETH_FEC_CORR_COUNT : Fld := ⟨0x58, 0, 32⟩
def ETH_FEC_UNCORR : Nat := 0x5C
def ETH_FEC_UNCORR_COUNT : Fld := ⟨0x5C, 0, 32⟩
def ETH_STOP_COUNT : Nat := 0x60
def ETH_STOP_COUNT_COUNT : Fld := ⟨0x60, 0, 32⟩
def ETH_STR_t_CFG : Nat := 0x400
def ETH_STR_t_CFG_EN : Fld := ⟨0x400, 0, 1⟩
def ETH_STR_t_CFG_FORMAT : Fld := ⟨0x400, 1, 1⟩
def ETH_STR_t_CFG_IPV6 : Fld := ⟨0x400, 2, 1⟩
def ETH_STR_t_CFG_STATIC_MAC : Fld := ⟨0x400, 3, 1⟩
def ETH_STR_t_CFG_FULL : Fld := ⟨0x400, 4, 1⟩
def ETH_STR_t_CFG_SUBPORT : Fld := ⟨0x400, 5, 2⟩
def ETH_STR_t_CFG_PCP : Fld := ⟨0x400, 8, 3⟩
def ETH_STR_t_CFG_MAXPAY : Fld := ⟨0x400, 12, 12⟩
def ETH_STR_t_CFG_HOLD_US : Fld := ⟨0x400, 24, 8⟩
def ETH_STR_t_DST4 : Nat := 0x404
def ETH_STR_t_DST4_ADDR : Fld := ⟨0x404, 0, 32⟩
def ETH_STR_t_UDP : Nat := 0x408
def ETH_STR_t_UDP_DST : Fld := ⟨0x408, 0, 16⟩
def ETH_STR_t_UDP_SRC : Fld := ⟨0x408, 16, 16⟩
def ETH_STR_t_MAC_LO : Nat := 0x40C
def ETH_STR_t_MAC_LO_MAC : Fld := ⟨0x40C, 0, 32⟩
def ETH_STR_t_MAC_HI : Nat := 0x410
def ETH_STR_t_MAC_HI_MAC : Fld := ⟨0x410, 0, 16⟩
def ETH_STR_t_QUEUE : Nat := 0x414
def ETH_STR_t_QUEUE_QBYTES : Fld := ⟨0x414, 0, 13⟩
def ETH_STR_t_QUEUE_FILL : Fld := ⟨0x414, 16, 13⟩
def ETH_STR_t_QUEUE_UNRESOLVED : Fld := ⟨0x414, 31, 1⟩
def ETH_STR_t_PKTS : Nat := 0x418
def ETH_STR_t_PKTS_PACKETS : Fld := ⟨0x418, 0, 32⟩
def ETH_STR_t_DROPS : Nat := 0x41C
def ETH_STR_t_DROPS_DROPS : Fld := ⟨0x41C, 0, 32⟩

/-! Block `disp`: 18_display_scanout.md, R577. -/
def DISP_ID : Nat := 0x0
def DISP_ID_HUB : Fld := ⟨0x0, 0, 1⟩
def DISP_ID_LAYERS : Fld := ⟨0x0, 8, 4⟩
def DISP_CTRL : Nat := 0x4
def DISP_CTRL_EN : Fld := ⟨0x4, 0, 1⟩
def DISP_CTRL_VRR : Fld := ⟨0x4, 1, 1⟩
def DISP_CTRL_BPC : Fld := ⟨0x4, 2, 1⟩
def DISP_CTRL_PREFILL : Fld := ⟨0x4, 4, 3⟩
def DISP_STATUS : Nat := 0x8
def DISP_STATUS_RUN : Fld := ⟨0x8, 0, 1⟩
def DISP_STATUS_LINK_UP : Fld := ⟨0x8, 1, 1⟩
def DISP_STATUS_VRR_NA : Fld := ⟨0x8, 2, 1⟩
def DISP_STATUS_BLANK : Fld := ⟨0x8, 3, 1⟩
def DISP_STATUS_UNDERRUN : Fld := ⟨0x8, 8, 1⟩
def DISP_STATUS_COMMIT_LATE : Fld := ⟨0x8, 9, 1⟩
def DISP_STATUS_LINK_FAIL : Fld := ⟨0x8, 10, 1⟩
def DISP_STATUS_LINK_DOWN : Fld := ⟨0x8, 11, 1⟩
def DISP_STATUS_CLAMP : Fld := ⟨0x8, 12, 1⟩
def DISP_COMMIT : Nat := 0xC
def DISP_COMMIT_COMMIT : Fld := ⟨0xC, 0, 4⟩
def DISP_COMMIT_REVERT : Fld := ⟨0xC, 8, 4⟩
def DISP_SHADOW : Nat := 0x10
def DISP_SHADOW_DIRTY : Fld := ⟨0x10, 0, 4⟩
def DISP_SHADOW_PENDING : Fld := ⟨0x10, 8, 4⟩
def DISP_SHADOW_VIEW : Fld := ⟨0x10, 16, 1⟩
def DISP_PCLK : Nat := 0x14
def DISP_PCLK_FRAC : Fld := ⟨0x14, 0, 24⟩
def DISP_H : Nat := 0x18
def DISP_H_HACTIVE : Fld := ⟨0x18, 0, 13⟩
def DISP_HBLANK : Nat := 0x1C
def DISP_HBLANK_HFP : Fld := ⟨0x1C, 0, 10⟩
def DISP_HBLANK_HSYNC : Fld := ⟨0x1C, 10, 10⟩
def DISP_HBLANK_HBP : Fld := ⟨0x1C, 20, 10⟩
def DISP_HBLANK_HPOL : Fld := ⟨0x1C, 30, 1⟩
def DISP_V : Nat := 0x20
def DISP_V_VACTIVE : Fld := ⟨0x20, 0, 13⟩
def DISP_VBLANK : Nat := 0x24
def DISP_VBLANK_VFP : Fld := ⟨0x24, 0, 10⟩
def DISP_VBLANK_VSYNC : Fld := ⟨0x24, 10, 10⟩
def DISP_VBLANK_VBP : Fld := ⟨0x24, 20, 10⟩
def DISP_VBLANK_VPOL : Fld := ⟨0x24, 30, 1⟩
def DISP_VRR : Nat := 0x28
def DISP_VRR_VFP_MAX : Fld := ⟨0x28, 0, 16⟩
def DISP_DEADLINE : Nat := 0x2C
def DISP_DEADLINE_LINE : Fld := ⟨0x2C, 0, 13⟩
def DISP_BG : Nat := 0x30
def DISP_BG_RGB : Fld := ⟨0x30, 0, 24⟩
def DISP_LINK : Nat := 0x34
def DISP_LINK_LANES : Fld := ⟨0x34, 0, 2⟩
def DISP_LINK_RATE : Fld := ⟨0x34, 2, 3⟩
def DISP_LINK_SSC : Fld := ⟨0x34, 5, 1⟩
def DISP_LINK_STATUS : Nat := 0x38
def DISP_LINK_STATUS_LANES : Fld := ⟨0x38, 0, 2⟩
def DISP_LINK_STATUS_RATE : Fld := ⟨0x38, 2, 3⟩
def DISP_LINK_STATUS_HPD : Fld := ⟨0x38, 8, 1⟩
def DISP_POS : Nat := 0x3C
def DISP_POS_LINE : Fld := ⟨0x3C, 0, 13⟩
def DISP_FRAME_COUNT : Nat := 0x40
def DISP_FRAME_COUNT_FRAMES : Fld := ⟨0x40, 0, 32⟩
def DISP_UNDERRUN_COUNT : Nat := 0x44
def DISP_UNDERRUN_COUNT_UNDERRUNS : Fld := ⟨0x44, 0, 32⟩
def DISP_LATE_COUNT : Nat := 0x48
def DISP_LATE_COUNT_LATE : Fld := ⟨0x48, 0, 32⟩
def DISP_REPEAT_COUNT : Nat := 0x4C
def DISP_REPEAT_COUNT_REPEATS : Fld := ⟨0x4C, 0, 32⟩
def DISP_PAL_ADDR : Nat := 0x50
def DISP_PAL_ADDR_ENTRY : Fld := ⟨0x50, 0, 8⟩
def DISP_PAL_ADDR_LAYER : Fld := ⟨0x50, 8, 2⟩
def DISP_PAL_DATA : Nat := 0x54
def DISP_PAL_DATA_ENTRY : Fld := ⟨0x54, 0, 32⟩
def DISP_LAYER_k_CTRL : Nat := 0x100
def DISP_LAYER_k_CTRL_EN : Fld := ⟨0x100, 0, 1⟩
def DISP_LAYER_k_CTRL_HREP : Fld := ⟨0x100, 4, 2⟩
def DISP_LAYER_k_CTRL_VREP : Fld := ⟨0x100, 8, 2⟩
def DISP_LAYER_k_BASE : Nat := 0x104
def DISP_LAYER_k_BASE_BASE : Fld := ⟨0x104, 0, 32⟩
def DISP_LAYER_k_PITCH : Nat := 0x108
def DISP_LAYER_k_PITCH_PITCH : Fld := ⟨0x108, 0, 13⟩
def DISP_LAYER_k_SIZE : Nat := 0x10C
def DISP_LAYER_k_SIZE_W : Fld := ⟨0x10C, 0, 13⟩
def DISP_LAYER_k_SIZE_H : Fld := ⟨0x10C, 16, 13⟩
def DISP_LAYER_k_POS : Nat := 0x110
def DISP_LAYER_k_POS_X : Fld := ⟨0x110, 0, 13⟩
def DISP_LAYER_k_POS_Y : Fld := ⟨0x110, 16, 13⟩
def DISP_LAYER_k_RING : Nat := 0x114
def DISP_LAYER_k_RING_LINES : Fld := ⟨0x114, 0, 20⟩
def DISP_LAYER_k_START : Nat := 0x120
def DISP_LAYER_k_START_START : Fld := ⟨0x120, 0, 20⟩
def DISP_LAYER_k_RETIRED : Nat := 0x118
def DISP_LAYER_k_RETIRED_BASE : Fld := ⟨0x118, 0, 32⟩
def DISP_LAYER_k_FENCE : Nat := 0x11C
def DISP_LAYER_k_FENCE_RETIRES : Fld := ⟨0x11C, 0, 32⟩

/-! Block `clk`: 19_clock_synthesis.md, R597. -/
def CLK_ID : Nat := 0x0
def CLK_ID_HUB : Fld := ⟨0x0, 0, 1⟩
def CLK_ID_OUTPUTS : Fld := ⟨0x0, 8, 4⟩
def CLK_CMD : Nat := 0x4
def CLK_CMD_COMMIT : Fld := ⟨0x4, 0, 1⟩
def CLK_CMD_REVERT : Fld := ⟨0x4, 1, 1⟩
def CLK_CMD_SYSREF_GO : Fld := ⟨0x4, 2, 1⟩
def CLK_CMD_RELOCK : Fld := ⟨0x4, 3, 1⟩
def CLK_STATUS : Nat := 0x8
def CLK_STATUS_SYS_LOCK : Fld := ⟨0x8, 0, 1⟩
def CLK_STATUS_OUT_LOCK : Fld := ⟨0x8, 1, 1⟩
def CLK_STATUS_HOLD_SYS : Fld := ⟨0x8, 2, 1⟩
def CLK_STATUS_HOLD_OUT : Fld := ⟨0x8, 3, 1⟩
def CLK_STATUS_LOCKA : Fld := ⟨0x8, 4, 1⟩
def CLK_STATUS_SAMP_LOCK : Fld := ⟨0x8, 5, 2⟩
def CLK_STATUS_NOREF : Fld := ⟨0x8, 7, 1⟩
def CLK_STATUS_RANGE : Fld := ⟨0x8, 8, 1⟩
def CLK_STATUS_TIMEOUT : Fld := ⟨0x8, 9, 1⟩
def CLK_SHADOW : Nat := 0xC
def CLK_SHADOW_DIRTY : Fld := ⟨0xC, 0, 1⟩
def CLK_SHADOW_PENDING : Fld := ⟨0xC, 1, 1⟩
def CLK_SHADOW_HELD : Fld := ⟨0xC, 2, 1⟩
def CLK_SHADOW_VIEW : Fld := ⟨0xC, 8, 1⟩
def CLK_REF : Nat := 0x10
def CLK_REF_FREQ : Fld := ⟨0x10, 0, 2⟩
def CLK_REF_MODE : Fld := ⟨0x10, 4, 2⟩
def CLK_REF_FMT_0 : Fld := ⟨0x10, 8, 1⟩
def CLK_REF_FMT_1 : Fld := ⟨0x10, 9, 1⟩
def CLK_REF_REVERT_S : Fld := ⟨0x10, 16, 8⟩
def CLK_REF_STATUS : Nat := 0x14
def CLK_REF_STATUS_PRES_0 : Fld := ⟨0x14, 0, 1⟩
def CLK_REF_STATUS_PRES_1 : Fld := ⟨0x14, 1, 1⟩
def CLK_REF_STATUS_IN_USE : Fld := ⟨0x14, 2, 1⟩
def CLK_OUT_N : Nat := 0x18
def CLK_OUT_N_INT : Fld := ⟨0x18, 0, 10⟩
def CLK_OUT_FRAC : Nat := 0x1C
def CLK_OUT_FRAC_FRAC : Fld := ⟨0x1C, 0, 24⟩
def CLK_OUT_MOD : Nat := 0x20
def CLK_OUT_MOD_MOD : Fld := ⟨0x20, 0, 24⟩
def CLK_DITHER : Nat := 0x24
def CLK_DITHER_SEED : Fld := ⟨0x24, 0, 23⟩
def CLK_DITHER_SYS_DITH : Fld := ⟨0x24, 24, 1⟩
def CLK_DITHER_OUT_DITH : Fld := ⟨0x24, 25, 1⟩
def CLK_DITHER_SYNC : Fld := ⟨0x24, 26, 1⟩
def CLK_LOCK_CFG : Nat := 0x2C
def CLK_LOCK_CFG_WIN : Fld := ⟨0x2C, 0, 4⟩
def CLK_LOCK_CFG_TOL : Fld := ⟨0x2C, 4, 8⟩
def CLK_LOCK_CFG_LOCK_COUNT : Fld := ⟨0x2C, 12, 4⟩
def CLK_LOCK_CFG_METHOD : Fld := ⟨0x2C, 16, 2⟩
def CLK_LOCK_CFG_TIMEOUT : Fld := ⟨0x2C, 24, 8⟩
def CLK_LOCKA : Nat := 0x30
def CLK_LOCKA_SRC : Fld := ⟨0x30, 0, 1⟩
def CLK_LOCKA_WIN_PS : Fld := ⟨0x30, 8, 8⟩
def CLK_SYSREF : Nat := 0x34
def CLK_SYSREF_MODE : Fld := ⟨0x34, 0, 2⟩
def CLK_SYSREF_PERIOD : Fld := ⟨0x34, 4, 16⟩
def CLK_SYSREF_PULSES : Fld := ⟨0x34, 20, 12⟩
def CLK_RELOCK_COUNT : Nat := 0x40
def CLK_RELOCK_COUNT_COUNT : Fld := ⟨0x40, 0, 32⟩
def CLK_UNLOCK_COUNT : Nat := 0x44
def CLK_UNLOCK_COUNT_COUNT : Fld := ⟨0x44, 0, 32⟩
def CLK_REFLOSS_COUNT : Nat := 0x48
def CLK_REFLOSS_COUNT_COUNT : Fld := ⟨0x48, 0, 32⟩
def CLK_LIMIT_COUNT : Nat := 0x4C
def CLK_LIMIT_COUNT_COUNT : Fld := ⟨0x4C, 0, 32⟩
def CLK_OUT_o_CFG : Nat := 0x100
def CLK_OUT_o_CFG_FMT : Fld := ⟨0x100, 0, 3⟩
def CLK_OUT_o_CFG_SRC : Fld := ⟨0x100, 4, 2⟩
def CLK_OUT_o_DIV : Nat := 0x104
def CLK_OUT_o_DIV_DIV : Fld := ⟨0x104, 0, 10⟩
def CLK_OUT_o_HOLD : Nat := 0x108
def CLK_OUT_o_HOLD_DIV : Fld := ⟨0x108, 0, 10⟩
def CLK_OUT_o_FMAX : Nat := 0x10C
def CLK_OUT_o_FMAX_FMAX : Fld := ⟨0x10C, 0, 16⟩

/-! Block `hka`: 20_housekeeping.md, R614. -/
def HK_ID : Nat := 0x0
def HK_ID_HUB : Fld := ⟨0x0, 0, 1⟩
def HK_ID_CONVERTERS : Fld := ⟨0x0, 8, 4⟩
def HK_ID_PWMS : Fld := ⟨0x0, 12, 4⟩
def HK_CMD : Nat := 0x4
def HK_CMD_START : Fld := ⟨0x4, 0, 2⟩
def HK_c_CTRL : Nat := 0x100
def HK_c_CTRL_EN : Fld := ⟨0x100, 0, 1⟩
def HK_c_CTRL_LEN : Fld := ⟨0x100, 4, 5⟩
def HK_c_CTRL_TRIG : Fld := ⟨0x100, 12, 2⟩
def HK_c_CTRL_PWM_SEL : Fld := ⟨0x100, 16, 2⟩
def HK_c_CTRL_PWM_EDGE : Fld := ⟨0x100, 18, 1⟩
def HK_c_CTRL_DELAY : Fld := ⟨0x100, 20, 12⟩
def HK_c_TIMER : Nat := 0x104
def HK_c_TIMER_PERIOD : Fld := ⟨0x104, 0, 20⟩
def HK_c_STATUS : Nat := 0x108
def HK_c_STATUS_BUSY : Fld := ⟨0x108, 0, 1⟩
def HK_c_STATUS_ENTRY : Fld := ⟨0x108, 4, 4⟩
def HK_c_STATUS_MISS : Fld := ⟨0x108, 8, 1⟩
def HK_c_STATUS_LIMIT : Fld := ⟨0x108, 9, 1⟩
def HK_c_SEQ_COUNT : Nat := 0x10C
def HK_c_SEQ_COUNT_SEQUENCES : Fld := ⟨0x10C, 0, 32⟩
def HK_c_MISS_COUNT : Nat := 0x110
def HK_c_MISS_COUNT_MISSED : Fld := ⟨0x110, 0, 32⟩
def HK_c_SEQ_e : Nat := 0x140
def HK_c_SEQ_e_CHAN : Fld := ⟨0x140, 0, 6⟩
def HK_c_SEQ_e_GAIN : Fld := ⟨0x140, 8, 2⟩
def HK_c_SEQ_e_SAMP : Fld := ⟨0x140, 12, 3⟩
def HK_c_RES_e : Nat := 0x180
def HK_c_RES_e_VALUE : Fld := ⟨0x180, 0, 12⟩
def HK_c_RES_e_VALID : Fld := ⟨0x180, 12, 1⟩
def HK_c_RES_e_ABSENT : Fld := ⟨0x180, 13, 1⟩
def HK_c_RES_e_OVER : Fld := ⟨0x180, 14, 1⟩
def HK_c_RES_e_NEW : Fld := ⟨0x180, 15, 1⟩
def HK_c_LIM_e : Nat := 0x1C0
def HK_c_LIM_e_LO : Fld := ⟨0x1C0, 0, 12⟩
def HK_c_LIM_e_HI : Fld := ⟨0x1C0, 16, 12⟩
def HK_c_LIM_e_EN : Fld := ⟨0x1C0, 31, 1⟩
def HK_PL_k_CFG : Nat := 0x300
def HK_PL_k_CFG_EN : Fld := ⟨0x300, 0, 1⟩
def HK_PL_k_CFG_ENT0 : Fld := ⟨0x300, 4, 4⟩
def HK_PL_k_CFG_ENT1 : Fld := ⟨0x300, 8, 4⟩
def HK_PL_k_CFG_WINDOW : Fld := ⟨0x300, 12, 12⟩
def HK_PL_k_CFG_FAILS : Fld := ⟨0x300, 24, 4⟩
def HK_PL_k_CFG_TOL : Fld := ⟨0x300, 28, 4⟩
def HK_PL_k_STATUS : Nat := 0x304
def HK_PL_k_STATUS_FAILED : Fld := ⟨0x304, 0, 1⟩
def HK_PL_k_STATUS_MISMATCH : Fld := ⟨0x304, 1, 1⟩
def HK_PL_k_STATUS_CAUSE : Fld := ⟨0x304, 2, 1⟩
def HK_PL_k_STATUS_DIFF : Fld := ⟨0x304, 16, 12⟩
def HK_PL_k_PASS : Nat := 0x308
def HK_PL_k_PASS_PASSES : Fld := ⟨0x308, 0, 32⟩
def HK_PL_k_FAIL : Nat := 0x30C
def HK_PL_k_FAIL_FAILURES : Fld := ⟨0x30C, 0, 32⟩
def HK_RAIL_r : Nat := 0x380
def HK_RAIL_r_VSRC : Fld := ⟨0x380, 0, 5⟩
def HK_RAIL_r_ISRC : Fld := ⟨0x380, 8, 5⟩
def HK_RAIL_r_ISCALE : Fld := ⟨0x380, 16, 12⟩
def HK_RAIL_r_EN : Fld := ⟨0x380, 31, 1⟩
def HK_PWM_p_CFG : Nat := 0x400
def HK_PWM_p_CFG_EN : Fld := ⟨0x400, 0, 1⟩
def HK_PWM_p_CFG_POL : Fld := ⟨0x400, 1, 1⟩
def HK_PWM_p_CFG_IDLE : Fld := ⟨0x400, 2, 1⟩
def HK_PWM_p_CFG_CHARGER : Fld := ⟨0x400, 3, 1⟩
def HK_PWM_p_PERIOD : Nat := 0x404
def HK_PWM_p_PERIOD_PERIOD : Fld := ⟨0x404, 0, 16⟩
def HK_PWM_p_DUTY : Nat := 0x408
def HK_PWM_p_DUTY_DUTY : Fld := ⟨0x408, 0, 16⟩
def HK_PWM_p_STATUS : Nat := 0x40C
def HK_PWM_p_STATUS_LEVEL : Fld := ⟨0x40C, 0, 1⟩
def HK_PWM_p_STATUS_FORCED : Fld := ⟨0x40C, 1, 1⟩

/-! Block `fcol`: 21_fault_handling.md, R630. -/
def FCOL_ID : Nat := 0x0
def FCOL_ID_HUB : Fld := ⟨0x0, 0, 1⟩
def FCOL_ID_LEAD : Fld := ⟨0x0, 8, 1⟩
def FCOL_CTRL : Nat := 0x4
def FCOL_CTRL_IRQ_NOTICE : Fld := ⟨0x4, 0, 1⟩
def FCOL_CTRL_IRQ_FAULT : Fld := ⟨0x4, 1, 1⟩
def FCOL_CMD : Nat := 0x8
def FCOL_CMD_CLEAR_FIRST : Fld := ⟨0x8, 0, 1⟩
def FCOL_CMD_ALIVE_RESUME : Fld := ⟨0x8, 1, 1⟩
def FCOL_CMD_CLEAR_SRC : Fld := ⟨0x8, 2, 1⟩
def FCOL_STATUS : Nat := 0xC
def FCOL_STATUS_ANY_FAULT : Fld := ⟨0xC, 0, 1⟩
def FCOL_STATUS_ANY_SEVERE : Fld := ⟨0xC, 1, 1⟩
def FCOL_STATUS_ALIVE_STOP : Fld := ⟨0xC, 2, 1⟩
def FCOL_STATUS_IRQ : Fld := ⟨0xC, 8, 1⟩
def FCOL_STATUS_LOG_OVF : Fld := ⟨0xC, 9, 1⟩
def FCOL_FIRST : Nat := 0x10
def FCOL_FIRST_SOURCE : Fld := ⟨0x10, 0, 8⟩
def FCOL_FIRST_CLASS : Fld := ⟨0x10, 8, 2⟩
def FCOL_FIRST_CONCURRENT : Fld := ⟨0x10, 16, 1⟩
def FCOL_FIRST_VALID : Fld := ⟨0x10, 31, 1⟩
def FCOL_ALIVE : Nat := 0x14
def FCOL_ALIVE_PERIOD_MS : Fld := ⟨0x14, 0, 16⟩
def FCOL_SRC_SEL : Nat := 0x18
def FCOL_SRC_SEL_SOURCE : Fld := ⟨0x18, 0, 8⟩
def FCOL_SRC_CFG : Nat := 0x1C
def FCOL_SRC_CFG_CLASS : Fld := ⟨0x1C, 0, 2⟩
def FCOL_SRC_CFG_PROFILE : Fld := ⟨0x1C, 4, 2⟩
def FCOL_SRC_CFG_IRQ : Fld := ⟨0x1C, 8, 1⟩
def FCOL_SRC_CFG_REPAIR : Fld := ⟨0x1C, 9, 1⟩
def FCOL_SRC_STATE : Nat := 0x20
def FCOL_SRC_STATE_STATE : Fld := ⟨0x20, 0, 2⟩
def FCOL_SRC_STATE_CLASS_NOW : Fld := ⟨0x20, 4, 2⟩
def FCOL_SRC_STATE_RECOVERIES : Fld := ⟨0x20, 8, 8⟩
def FCOL_SRC_COUNT : Nat := 0x24
def FCOL_SRC_COUNT_EVENTS : Fld := ⟨0x24, 0, 32⟩
def FCOL_PROF_p : Nat := 0x30
def FCOL_PROF_p_PROMOTE_N : Fld := ⟨0x30, 0, 8⟩
def FCOL_PROF_p_WINDOW_MS : Fld := ⟨0x30, 8, 16⟩
def FCOL_PROF_p_RECOVER_LIMIT : Fld := ⟨0x30, 24, 8⟩
def FCOL_QUIET_p : Nat := 0x40
def FCOL_QUIET_p_QUIET_MS : Fld := ⟨0x40, 0, 24⟩
def FCOL_NOTICE_COUNT : Nat := 0x50
def FCOL_NOTICE_COUNT_COUNT : Fld := ⟨0x50, 0, 32⟩
def FCOL_FAULT_COUNT : Nat := 0x54
def FCOL_FAULT_COUNT_COUNT : Fld := ⟨0x54, 0, 32⟩
def FCOL_SEVERE_COUNT : Nat := 0x58
def FCOL_SEVERE_COUNT_COUNT : Fld := ⟨0x58, 0, 32⟩
def FCOL_PROMOTE_COUNT : Nat := 0x5C
def FCOL_PROMOTE_COUNT_COUNT : Fld := ⟨0x5C, 0, 32⟩
def FCOL_RECOVER_COUNT : Nat := 0x60
def FCOL_RECOVER_COUNT_COUNT : Fld := ⟨0x60, 0, 32⟩
def FCOL_LOG_LOST : Nat := 0x64
def FCOL_LOG_LOST_COUNT : Fld := ⟨0x64, 0, 32⟩

/-! Block `chip`: 22_host_register_access.md, R651. -/
def CHIP_ID : Nat := 0x0
def CHIP_ID_DIE_TYPE : Fld := ⟨0x0, 24, 8⟩
def CHIP_ID_REVISION : Fld := ⟨0x0, 16, 8⟩
def CHIP_ID_HUB : Fld := ⟨0x0, 0, 1⟩
def CHIP_PART : Nat := 0x4
def CHIP_PART_PART : Fld := ⟨0x4, 0, 32⟩
def CHIP_CONFIG : Nat := 0x8
def CHIP_CONFIG_CODE : Fld := ⟨0x8, 0, 2⟩
def CHIP_CONFIG_SUFFIX : Fld := ⟨0x8, 4, 1⟩
def CHIP_CONFIG_PRESENT : Fld := ⟨0x8, 8, 8⟩
def CHIP_CONFIG_USABLE : Fld := ⟨0x8, 16, 8⟩
def CHIP_SERIAL_LO : Nat := 0xC
def CHIP_SERIAL_LO_SERIAL : Fld := ⟨0xC, 0, 32⟩
def CHIP_SERIAL_HI : Nat := 0x10
def CHIP_SERIAL_HI_SERIAL : Fld := ⟨0x10, 0, 32⟩
def CHIP_STATUS : Nat := 0x14
def CHIP_STATUS_AWAKE : Fld := ⟨0x14, 0, 1⟩
def CHIP_STATUS_LEAD : Fld := ⟨0x14, 1, 1⟩
def CHIP_STATUS_VIOL : Fld := ⟨0x14, 8, 1⟩
def CHIP_VIOL_ADDR : Nat := 0x18
def CHIP_VIOL_ADDR_ADDR : Fld := ⟨0x18, 0, 32⟩
def CHIP_VIOL_COUNT : Nat := 0x1C
def CHIP_VIOL_COUNT_VIOLATIONS : Fld := ⟨0x1C, 0, 32⟩
def CHIP_MEMWIN : Nat := 0x20
def CHIP_MEMWIN_PAGE : Fld := ⟨0x20, 0, 16⟩
def CHIP_IRQ_PEND : Nat := 0x24
def CHIP_IRQ_PEND_PEND : Fld := ⟨0x24, 0, 4⟩
def CHIP_IRQ_EN : Nat := 0x28
def CHIP_IRQ_EN_EN : Fld := ⟨0x28, 0, 4⟩
def CHIP_SCRATCH : Nat := 0x2C
def CHIP_SCRATCH_VALUE : Fld := ⟨0x2C, 0, 32⟩

/-! Block `mbox`: 22_host_register_access.md, R651. -/
def MBOX_REQ : Nat := 0x0
def MBOX_REQ_CODE : Fld := ⟨0x0, 0, 16⟩
def MBOX_REQ_INDEX : Fld := ⟨0x0, 16, 8⟩
def MBOX_REQ_DIR : Fld := ⟨0x0, 24, 1⟩
def MBOX_STATUS : Nat := 0x4
def MBOX_STATUS_BUSY : Fld := ⟨0x4, 0, 1⟩
def MBOX_STATUS_VALID : Fld := ⟨0x4, 1, 1⟩
def MBOX_STATUS_EMPTY : Fld := ⟨0x4, 2, 1⟩
def MBOX_STATUS_DONE : Fld := ⟨0x4, 3, 1⟩
def MBOX_STATUS_ERR : Fld := ⟨0x4, 8, 1⟩
def MBOX_STATUS_OVERRUN : Fld := ⟨0x4, 9, 1⟩
def MBOX_STATUS_WORDS : Fld := ⟨0x4, 12, 4⟩
def MBOX_BANK : Nat := 0x8
def MBOX_BANK_PATH : Fld := ⟨0x8, 0, 3⟩
def MBOX_DATA_w : Nat := 0x40
def MBOX_DATA_w_DATA : Fld := ⟨0x40, 0, 32⟩

end R

def acqRegs0 : List RegDesc := [
  ⟨0x0, 0x0, 1, 0x41100000, [⟨24, 8, .ro⟩, ⟨16, 8, .ro⟩, ⟨0, 1, .ro⟩]⟩,
  ⟨0x4, 0x0, 1, 0x0, [⟨0, 1, .rw⟩, ⟨8, 5, .rw⟩, ⟨16, 1, .rw⟩]⟩,
  ⟨0x8, 0x0, 1, 0x4, [⟨0, 1, .hs⟩, ⟨1, 1, .hs⟩, ⟨2, 1, .hs⟩, ⟨3, 1, .hs⟩, ⟨4, 1, .hs⟩, ⟨8, 1, .rc⟩, ⟨9, 1, .rc⟩, ⟨10, 1, .rc⟩]⟩,
  ⟨0xC, 0x0, 1, 0x0, [⟨0, 32, .ct⟩]⟩,
  ⟨0x10, 0x0, 1, 0x200102, [⟨0, 2, .rw⟩, ⟨2, 1, .rw⟩, ⟨4, 2, .rw⟩, ⟨6, 2, .rw⟩, ⟨8, 2, .rw⟩, ⟨16, 8, .rw⟩]⟩,
  ⟨0x14, 0x0, 1, 0x0, [⟨0, 1, .wo⟩, ⟨1, 1, .wo⟩, ⟨2, 1, .wo⟩]⟩,
  ⟨0x18, 0x0, 1, 0x3E810, [⟨0, 8, .rw⟩, ⟨8, 16, .rw⟩]⟩,
  ⟨0x1C, 0x0, 1, 0x3E80258, [⟨0, 16, .rw⟩, ⟨16, 16, .rw⟩]⟩,
  ⟨0x20, 0x0, 1, 0x160428, [⟨0, 8, .rw⟩, ⟨8, 8, .rw⟩, ⟨16, 4, .rw⟩, ⟨20, 1, .rw⟩]⟩,
  ⟨0x24, 0x0, 1, 0x320A04, [⟨0, 8, .rw⟩, ⟨8, 8, .rw⟩, ⟨16, 4, .rw⟩, ⟨20, 4, .rw⟩]⟩,
  ⟨0x28, 0x0, 1, 0x400000, [⟨0, 3, .hs⟩, ⟨8, 6, .hs⟩, ⟨16, 7, .hs⟩, ⟨24, 3, .hs⟩, ⟨27, 1, .hs⟩]⟩,
  ⟨0x2C, 0x0, 1, 0x0, [⟨0, 16, .hs⟩, ⟨16, 16, .hs⟩]⟩,
  ⟨0x30, 0x0, 1, 0x0, [⟨0, 32, .ct⟩]⟩,
  ⟨0x34, 0x0, 1, 0x0, [⟨0, 32, .ct⟩]⟩,
  ⟨0x38, 0x0, 1, 0x0, [⟨0, 6, .rc⟩]⟩,
  ⟨0x3C, 0x0, 1, 0x0, [⟨0, 32, .ct⟩]⟩,
  ⟨0x70, 0x0, 1, 0x7F, [⟨0, 7, .hs⟩, ⟨8, 2, .hs⟩, ⟨16, 1, .hs⟩]⟩,
  ⟨0x40, 0x0, 1, 0x0, [⟨0, 16, .ro⟩]⟩,
  ⟨0x44, 0x0, 1, 0x0, [⟨0, 16, .hs⟩]⟩,
  ⟨0x48, 0x0, 1, 0x0, [⟨0, 24, .rw⟩]⟩,
  ⟨0x4C, 0x0, 1, 0x0, [⟨0, 26, .hs⟩]⟩,
  ⟨0x50, 0x0, 1, 0x0, [⟨0, 1, .rw⟩]⟩,
  ⟨0x54, 0x0, 1, 0x0, [⟨0, 24, .hs⟩, ⟨24, 1, .hs⟩, ⟨25, 1, .hs⟩, ⟨26, 1, .hs⟩]⟩,
  ⟨0x60, 0x0, 1, 0x0, [⟨0, 6, .rw⟩]⟩]

def acqRegs1 : List RegDesc := [
  ⟨0x64, 0x0, 1, 0x0, [⟨0, 16, .hs⟩]⟩,
  ⟨0x68, 0x0, 1, 0x0, [⟨0, 16, .hs⟩]⟩,
  ⟨0x6C, 0x0, 1, 0x0, [⟨0, 16, .hs⟩]⟩,
  ⟨0x1000, 0x10, 65, 0x0, [⟨0, 10, .hs⟩]⟩,
  ⟨0x1004, 0x10, 65, 0x0, [⟨0, 10, .hs⟩]⟩,
  ⟨0x1008, 0x10, 65, 0x0, [⟨0, 7, .hs⟩]⟩,
  ⟨0x100C, 0x10, 65, 0x0, [⟨0, 6, .hs⟩, ⟨8, 2, .hs⟩, ⟨12, 1, .hs⟩]⟩]

/-- The registers of block `acq`, as the register tables of 02_rf_acquisition.md give them. -/
def acqRegs : List RegDesc := acqRegs0 ++ acqRegs1

def jrxRegs0 : List RegDesc := [
  ⟨0x0, 0x0, 1, 0x144, [⟨0, 1, .rw⟩, ⟨1, 2, .rw⟩, ⟨4, 3, .rw⟩, ⟨8, 8, .rw⟩]⟩,
  ⟨0x4, 0x0, 1, 0x0, [⟨0, 16, .rw⟩]⟩,
  ⟨0x8, 0x0, 1, 0x0, [⟨0, 16, .rw⟩]⟩,
  ⟨0xC, 0x0, 1, 0x0, [⟨0, 16, .hs⟩, ⟨16, 1, .hs⟩, ⟨17, 1, .rc⟩, ⟨18, 1, .rc⟩]⟩,
  ⟨0x10, 0x0, 1, 0x0, [⟨0, 16, .hs⟩, ⟨16, 16, .hs⟩]⟩,
  ⟨0x14, 0x0, 1, 0x0, [⟨0, 32, .ct⟩]⟩,
  ⟨0x18, 0x0, 1, 0x0, [⟨0, 24, .rw⟩]⟩]

/-- The registers of block `jrx`, as the register tables of 02_rf_acquisition.md give them. -/
def jrxRegs : List RegDesc := jrxRegs0

def wbRegs0 : List RegDesc := [
  ⟨0x0, 0x0, 1, 0x54100000, [⟨24, 8, .ro⟩, ⟨16, 8, .ro⟩, ⟨8, 1, .ro⟩, ⟨0, 2, .ro⟩]⟩,
  ⟨0x4, 0x0, 1, 0x40D4, [⟨0, 1, .rw⟩, ⟨1, 2, .rw⟩, ⟨4, 5, .rw⟩, ⟨12, 4, .rw⟩]⟩,
  ⟨0x8, 0x0, 1, 0x0, [⟨0, 32, .rw⟩]⟩,
  ⟨0xC, 0x0, 1, 0x40, [⟨0, 8, .rw⟩]⟩,
  ⟨0x10, 0x0, 1, 0x0, [⟨0, 1, .rw⟩, ⟨8, 5, .rw⟩]⟩,
  ⟨0x14, 0x0, 1, 0x100, [⟨0, 2, .rw⟩, ⟨8, 24, .rw⟩]⟩,
  ⟨0x18, 0x0, 1, 0x101, [⟨0, 3, .rw⟩, ⟨8, 24, .rw⟩]⟩,
  ⟨0x1C, 0x0, 1, 0x1, [⟨0, 17, .rw⟩, ⟨20, 1, .rw⟩, ⟨24, 1, .rw⟩]⟩,
  ⟨0x20, 0x0, 1, 0x1010000, [⟨0, 1, .rw⟩, ⟨4, 1, .rw⟩, ⟨8, 4, .rw⟩, ⟨16, 6, .rw⟩, ⟨24, 6, .rw⟩]⟩,
  ⟨0x24, 0x0, 1, 0x0, [⟨0, 1, .wo⟩, ⟨1, 1, .wo⟩]⟩,
  ⟨0x28, 0x0, 1, 0x0, [⟨0, 1, .hs⟩, ⟨1, 1, .hs⟩, ⟨2, 1, .hs⟩, ⟨8, 1, .rw⟩]⟩,
  ⟨0x2C, 0x0, 1, 0x0, [⟨0, 1, .hs⟩, ⟨4, 4, .hs⟩, ⟨8, 1, .rc⟩, ⟨9, 1, .rc⟩, ⟨10, 1, .hs⟩, ⟨11, 1, .hs⟩]⟩,
  ⟨0x30, 0x0, 1, 0x0, [⟨0, 4, .rw⟩, ⟨4, 4, .rw⟩]⟩,
  ⟨0x34, 0x0, 1, 0x0, [⟨0, 16, .hs⟩, ⟨16, 16, .hs⟩]⟩,
  ⟨0x38, 0x0, 1, 0x0, [⟨0, 16, .rw⟩]⟩,
  ⟨0x3C, 0x0, 1, 0x0, [⟨0, 18, .rw⟩]⟩,
  ⟨0x40, 0x0, 1, 0x0, [⟨0, 24, .hs⟩]⟩,
  ⟨0x44, 0x0, 1, 0x0, [⟨0, 16, .hs⟩]⟩,
  ⟨0x48, 0x0, 1, 0x0, [⟨0, 32, .ct⟩]⟩,
  ⟨0x4C, 0x0, 1, 0x0, [⟨0, 32, .ct⟩]⟩,
  ⟨0x50, 0x0, 1, 0x0, [⟨0, 32, .ct⟩]⟩,
  ⟨0x54, 0x0, 1, 0x0, [⟨0, 32, .ct⟩]⟩]

/-- The registers of block `wb`, as the register tables of 03_wideband_transform.md give them. -/
def wbRegs : List RegDesc := wbRegs0

def trgRegs0 : List RegDesc := [
  ⟨0x0, 0x0, 1, 0x54100000, [⟨24, 8, .ro⟩, ⟨16, 8, .ro⟩, ⟨8, 1, .ro⟩, ⟨0, 2, .ro⟩]⟩,
  ⟨0x4, 0x0, 1, 0x0, [⟨0, 1, .rw⟩]⟩,
  ⟨0x8, 0x0, 1, 0x0, [⟨0, 1, .wo⟩, ⟨1, 1, .wo⟩]⟩,
  ⟨0xC, 0x0, 1, 0x0, [⟨0, 1, .hs⟩, ⟨1, 1, .hs⟩, ⟨2, 1, .hs⟩, ⟨8, 1, .rw⟩]⟩,
  ⟨0x10, 0x0, 1, 0x19, [⟨0, 10, .rw⟩]⟩,
  ⟨0x14, 0x0, 1, 0x0, [⟨0, 1, .hs⟩, ⟨8, 1, .rc⟩, ⟨9, 1, .rc⟩]⟩,
  ⟨0x18, 0x0, 1, 0x0, [⟨0, 16, .rw⟩, ⟨16, 2, .rw⟩]⟩,
  ⟨0x1C, 0x0, 1, 0x7FFF8000, [⟨0, 16, .rw⟩, ⟨16, 16, .rw⟩]⟩,
  ⟨0x20, 0x0, 1, 0x0, [⟨0, 12, .wl⟩, ⟨16, 16, .wl⟩]⟩,
  ⟨0x24, 0x0, 1, 0x0, [⟨0, 16, .hs⟩, ⟨16, 16, .hs⟩]⟩,
  ⟨0x28, 0x0, 1, 0x0, [⟨0, 32, .ct⟩]⟩,
  ⟨0x2C, 0x0, 1, 0x0, [⟨0, 32, .ct⟩]⟩,
  ⟨0x30, 0x0, 1, 0x0, [⟨0, 32, .ct⟩]⟩,
  ⟨0x34, 0x0, 1, 0x0, [⟨0, 32, .ct⟩]⟩,
  ⟨0x38, 0x0, 1, 0x0, [⟨0, 32, .ct⟩]⟩,
  ⟨0x3C, 0x0, 1, 0x0, [⟨0, 5, .rc⟩]⟩,
  ⟨0x100, 0x20, 16, 0x10810, [⟨0, 3, .rw⟩, ⟨4, 2, .rw⟩, ⟨6, 1, .rw⟩, ⟨8, 2, .rw⟩, ⟨10, 1, .rw⟩, ⟨11, 1, .rw⟩, ⟨12, 2, .rw⟩, ⟨16, 8, .rw⟩]⟩,
  ⟨0x104, 0x20, 16, 0xFFFF0000, [⟨0, 16, .rw⟩, ⟨16, 16, .rw⟩]⟩,
  ⟨0x108, 0x20, 16, 0x100EC00, [⟨0, 16, .rw⟩, ⟨16, 16, .rw⟩]⟩,
  ⟨0x10C, 0x20, 16, 0x1, [⟨0, 17, .rw⟩]⟩,
  ⟨0x110, 0x20, 16, 0x0, [⟨0, 24, .rw⟩, ⟨31, 1, .rw⟩]⟩,
  ⟨0x114, 0x20, 16, 0xFFFFFF, [⟨0, 24, .rw⟩]⟩,
  ⟨0x118, 0x20, 16, 0x640000, [⟨0, 8, .rw⟩, ⟨8, 2, .rw⟩, ⟨16, 16, .rw⟩]⟩,
  ⟨0x11C, 0x20, 16, 0x0, [⟨0, 32, .ct⟩]⟩]

def trgRegs1 : List RegDesc := [
  ⟨0x400, 0x40, 8, 0x100, [⟨0, 1, .rw⟩, ⟨1, 2, .rw⟩, ⟨3, 1, .rw⟩, ⟨4, 1, .rw⟩, ⟨5, 1, .rw⟩, ⟨6, 1, .rw⟩, ⟨7, 1, .rw⟩, ⟨8, 2, .rw⟩, ⟨16, 3, .rw⟩, ⟨24, 8, .rw⟩]⟩,
  ⟨0x404, 0x40, 8, 0x0, [⟨0, 32, .rw⟩]⟩,
  ⟨0x408, 0x40, 8, 0x0, [⟨0, 32, .rw⟩]⟩,
  ⟨0x40C, 0x40, 8, 0x0, [⟨0, 8, .rw⟩, ⟨8, 8, .rw⟩, ⟨16, 4, .rw⟩, ⟨20, 3, .rw⟩]⟩,
  ⟨0x410, 0x40, 8, 0x0, [⟨0, 32, .rw⟩]⟩,
  ⟨0x414, 0x40, 8, 0x0, [⟨0, 32, .rw⟩]⟩,
  ⟨0x418, 0x40, 8, 0x0, [⟨0, 32, .rw⟩]⟩,
  ⟨0x41C, 0x40, 8, 0x0, [⟨0, 1, .wo⟩]⟩,
  ⟨0x420, 0x40, 8, 0x0, [⟨0, 16, .rw⟩, ⟨16, 16, .rw⟩]⟩,
  ⟨0x424, 0x40, 8, 0x0, [⟨0, 32, .ct⟩]⟩,
  ⟨0x428, 0x40, 8, 0x0, [⟨0, 32, .ct⟩]⟩,
  ⟨0x42C, 0x40, 8, 0x0, [⟨0, 32, .ct⟩]⟩,
  ⟨0x430, 0x40, 8, 0x0, [⟨0, 32, .ct⟩]⟩,
  ⟨0x434, 0x40, 8, 0x0, [⟨0, 1, .hs⟩, ⟨1, 1, .hs⟩, ⟨2, 1, .hs⟩]⟩]

/-- The registers of block `trg`, as the register tables of 04_spectrum_triggers.md give them. -/
def trgRegs : List RegDesc := trgRegs0 ++ trgRegs1

def recRegs0 : List RegDesc := [
  ⟨0x0, 0x0, 1, 0x54100000, [⟨24, 8, .ro⟩, ⟨16, 8, .ro⟩, ⟨8, 1, .ro⟩, ⟨0, 2, .ro⟩]⟩,
  ⟨0x4, 0x0, 1, 0x10000, [⟨0, 1, .rw⟩, ⟨1, 2, .rw⟩, ⟨3, 1, .rw⟩, ⟨4, 1, .rw⟩, ⟨8, 4, .rw⟩, ⟨12, 1, .rw⟩, ⟨13, 1, .rw⟩, ⟨16, 8, .rw⟩]⟩,
  ⟨0x8, 0x0, 1, 0x0, [⟨0, 1, .wo⟩, ⟨1, 1, .wo⟩]⟩,
  ⟨0xC, 0x0, 1, 0x0, [⟨0, 1, .hs⟩, ⟨1, 1, .hs⟩, ⟨2, 1, .hs⟩, ⟨3, 1, .hs⟩, ⟨8, 1, .rc⟩, ⟨9, 1, .rc⟩, ⟨10, 1, .rc⟩, ⟨11, 1, .rc⟩, ⟨12, 1, .rc⟩, ⟨13, 1, .rc⟩]⟩,
  ⟨0x10, 0x0, 1, 0x0, [⟨0, 32, .rw⟩]⟩,
  ⟨0x14, 0x0, 1, 0x1, [⟨0, 32, .rw⟩]⟩,
  ⟨0x18, 0x0, 1, 0x1, [⟨0, 21, .rw⟩]⟩,
  ⟨0x1C, 0x0, 1, 0x0, [⟨0, 24, .rw⟩]⟩,
  ⟨0x20, 0x0, 1, 0x0, [⟨0, 24, .rw⟩]⟩,
  ⟨0x24, 0x0, 1, 0x0, [⟨0, 1, .rw⟩]⟩,
  ⟨0x28, 0x0, 1, 0x0, [⟨0, 24, .rw⟩]⟩,
  ⟨0x2C, 0x0, 1, 0x2625A, [⟨0, 24, .rw⟩]⟩,
  ⟨0x30, 0x0, 1, 0x0, [⟨0, 1, .hs⟩, ⟨1, 1, .hs⟩, ⟨8, 1, .rc⟩]⟩,
  ⟨0x34, 0x0, 1, 0x0, [⟨0, 32, .hs⟩]⟩,
  ⟨0x38, 0x0, 1, 0x0, [⟨0, 32, .ct⟩]⟩,
  ⟨0x3C, 0x0, 1, 0x0, [⟨0, 32, .ct⟩]⟩,
  ⟨0x40, 0x0, 1, 0x0, [⟨0, 32, .rw⟩]⟩,
  ⟨0x44, 0x0, 1, 0x0, [⟨0, 32, .rw⟩]⟩,
  ⟨0x48, 0x0, 1, 0x10000000, [⟨0, 1, .rw⟩, ⟨1, 1, .rw⟩, ⟨4, 5, .rw⟩, ⟨16, 13, .rw⟩]⟩,
  ⟨0x4C, 0x0, 1, 0x0, [⟨0, 32, .rw⟩]⟩,
  ⟨0x50, 0x0, 1, 0x0, [⟨0, 12, .rw⟩]⟩,
  ⟨0x54, 0x0, 1, 0x7FFF8000, [⟨0, 16, .rw⟩, ⟨16, 16, .rw⟩]⟩,
  ⟨0x58, 0x0, 1, 0x0, [⟨0, 32, .ct⟩]⟩,
  ⟨0x5C, 0x0, 1, 0x0, [⟨0, 32, .ct⟩]⟩]

def recRegs1 : List RegDesc := [
  ⟨0x60, 0x0, 1, 0x0, [⟨0, 21, .hs⟩, ⟨31, 1, .hs⟩]⟩,
  ⟨0x64, 0x0, 1, 0x1000000, [⟨0, 1, .rw⟩, ⟨1, 1, .rw⟩, ⟨4, 2, .rw⟩, ⟨16, 16, .rw⟩]⟩,
  ⟨0x68, 0x0, 1, 0xFFFF0000, [⟨0, 16, .rw⟩, ⟨16, 16, .rw⟩]⟩,
  ⟨0x6C, 0x0, 1, 0x0, [⟨0, 24, .rw⟩]⟩,
  ⟨0x70, 0x0, 1, 0x0, [⟨0, 24, .rw⟩]⟩,
  ⟨0x74, 0x0, 1, 0x64, [⟨0, 16, .rw⟩]⟩,
  ⟨0x78, 0x0, 1, 0x0, [⟨0, 32, .ct⟩]⟩,
  ⟨0x7C, 0x0, 1, 0x0, [⟨0, 32, .ct⟩]⟩,
  ⟨0x80, 0x0, 1, 0x0, [⟨0, 32, .ct⟩]⟩,
  ⟨0x84, 0x0, 1, 0x0, [⟨0, 32, .ct⟩]⟩,
  ⟨0x88, 0x0, 1, 0x0, [⟨0, 32, .ct⟩]⟩]

/-- The registers of block `rec`, as the register tables of 05_records_and_tarn.md give them. -/
def recRegs : List RegDesc := recRegs0 ++ recRegs1

def densRegs0 : List RegDesc := [
  ⟨0x0, 0x0, 1, 0x54100000, [⟨24, 8, .ro⟩, ⟨16, 8, .ro⟩, ⟨8, 1, .ro⟩, ⟨0, 2, .ro⟩]⟩,
  ⟨0x4, 0x0, 1, 0x3306, [⟨0, 1, .rw⟩, ⟨1, 1, .rw⟩, ⟨2, 1, .rw⟩, ⟨4, 2, .rw⟩, ⟨8, 4, .rw⟩, ⟨12, 1, .rw⟩, ⟨13, 1, .rw⟩]⟩,
  ⟨0x8, 0x0, 1, 0x0, [⟨0, 1, .wo⟩, ⟨1, 1, .wo⟩, ⟨2, 1, .wo⟩]⟩,
  ⟨0xC, 0x0, 1, 0x0, [⟨0, 1, .hs⟩, ⟨1, 1, .hs⟩, ⟨2, 1, .hs⟩, ⟨8, 1, .rw⟩]⟩,
  ⟨0x10, 0x0, 1, 0x10000, [⟨0, 1, .hs⟩, ⟨1, 1, .hs⟩, ⟨8, 1, .rc⟩, ⟨9, 1, .rc⟩, ⟨10, 1, .rc⟩, ⟨11, 1, .rc⟩, ⟨16, 8, .hs⟩]⟩,
  ⟨0x14, 0x0, 1, 0x2000800, [⟨0, 13, .rw⟩, ⟨16, 11, .rw⟩]⟩,
  ⟨0x18, 0x0, 1, 0xFFFF0000, [⟨0, 16, .rw⟩, ⟨16, 16, .rw⟩]⟩,
  ⟨0x1C, 0x0, 1, 0x400000, [⟨0, 16, .rw⟩, ⟨16, 16, .rw⟩]⟩,
  ⟨0x20, 0x0, 1, 0x14585, [⟨0, 24, .rw⟩]⟩,
  ⟨0x24, 0x0, 1, 0x10401, [⟨0, 2, .rw⟩, ⟨8, 4, .rw⟩, ⟨16, 16, .rw⟩]⟩,
  ⟨0x28, 0x0, 1, 0x30, [⟨0, 1, .rw⟩, ⟨4, 3, .rw⟩]⟩,
  ⟨0x2C, 0x0, 1, 0x0, [⟨0, 24, .rw⟩]⟩,
  ⟨0x30, 0x0, 1, 0xFFFFFFFF, [⟨0, 32, .hs⟩]⟩,
  ⟨0x34, 0x0, 1, 0x1, [⟨0, 8, .rw⟩]⟩,
  ⟨0x38, 0x0, 1, 0x0, [⟨0, 16, .rw⟩]⟩,
  ⟨0x3C, 0x0, 1, 0x200, [⟨0, 3, .rw⟩, ⟨4, 3, .rw⟩, ⟨8, 1, .rw⟩, ⟨9, 1, .rw⟩]⟩,
  ⟨0x40, 0x0, 1, 0x1388, [⟨0, 24, .rw⟩]⟩,
  ⟨0x44, 0x0, 1, 0xFFFF0000, [⟨0, 16, .rw⟩, ⟨16, 16, .rw⟩]⟩,
  ⟨0x48, 0x0, 1, 0x808000, [⟨0, 16, .rw⟩, ⟨16, 16, .rw⟩]⟩,
  ⟨0x4C, 0x0, 1, 0x0, [⟨0, 24, .rw⟩]⟩,
  ⟨0x50, 0x0, 1, 0x1000, [⟨0, 20, .rw⟩]⟩,
  ⟨0x54, 0x0, 1, 0xFFFFFFFF, [⟨0, 32, .hs⟩]⟩,
  ⟨0x58, 0x0, 1, 0x0, [⟨0, 32, .ct⟩]⟩,
  ⟨0x5C, 0x0, 1, 0x0, [⟨0, 32, .ct⟩]⟩]

def densRegs1 : List RegDesc := [
  ⟨0x60, 0x0, 1, 0x0, [⟨0, 32, .ct⟩]⟩,
  ⟨0x64, 0x0, 1, 0x0, [⟨0, 32, .ct⟩]⟩,
  ⟨0x68, 0x0, 1, 0x0, [⟨0, 32, .ct⟩]⟩,
  ⟨0x6C, 0x0, 1, 0xC8, [⟨0, 16, .rw⟩]⟩]

/-- The registers of block `dens`, as the register tables of 06_density_and_spectrogram.md give them. -/
def densRegs : List RegDesc := densRegs0 ++ densRegs1

def chzRegs0 : List RegDesc := [
  ⟨0x0, 0x0, 1, 0x54100000, [⟨24, 8, .ro⟩, ⟨16, 8, .ro⟩, ⟨8, 1, .ro⟩, ⟨0, 2, .ro⟩]⟩,
  ⟨0x4, 0x0, 1, 0x0, [⟨0, 1, .rw⟩, ⟨8, 1, .rw⟩]⟩,
  ⟨0x8, 0x0, 1, 0x0, [⟨0, 1, .hs⟩, ⟨1, 1, .hs⟩, ⟨8, 1, .rc⟩, ⟨9, 1, .hs⟩]⟩,
  ⟨0x10, 0x4, 4, 0x0, [⟨0, 32, .wo⟩]⟩,
  ⟨0x20, 0x4, 4, 0x0, [⟨0, 32, .wo⟩]⟩,
  ⟨0x30, 0x4, 4, 0x0, [⟨0, 32, .wo⟩]⟩,
  ⟨0x40, 0x4, 4, 0x0, [⟨0, 32, .hs⟩]⟩,
  ⟨0x50, 0x4, 4, 0x0, [⟨0, 32, .hs⟩]⟩,
  ⟨0x60, 0x4, 4, 0x0, [⟨0, 32, .hs⟩]⟩,
  ⟨0x70, 0x0, 1, 0x0, [⟨0, 32, .ct⟩]⟩,
  ⟨0x74, 0x0, 1, 0x0, [⟨0, 32, .ct⟩]⟩,
  ⟨0x78, 0x0, 1, 0x0, [⟨0, 32, .ct⟩]⟩,
  ⟨0x1000, 0x40, 128, 0x2000, [⟨0, 1, .rw⟩, ⟨8, 6, .rw⟩]⟩,
  ⟨0x1004, 0x40, 128, 0x0, [⟨0, 32, .rw⟩]⟩,
  ⟨0x1008, 0x40, 128, 0x0, [⟨0, 16, .rw⟩]⟩,
  ⟨0x100C, 0x40, 128, 0x34027100, [⟨0, 18, .rw⟩, ⟨24, 6, .rw⟩]⟩,
  ⟨0x1010, 0x40, 128, 0x1197A, [⟨0, 18, .rw⟩]⟩,
  ⟨0x1014, 0x40, 128, 0x800001, [⟨0, 16, .rw⟩, ⟨16, 4, .rw⟩, ⟨20, 4, .rw⟩]⟩,
  ⟨0x1018, 0x40, 128, 0xC00, [⟨0, 1, .rw⟩, ⟨4, 4, .rw⟩, ⟨8, 5, .rw⟩, ⟨16, 1, .rw⟩]⟩,
  ⟨0x101C, 0x40, 128, 0xFF, [⟨0, 8, .rw⟩, ⟨8, 2, .rw⟩]⟩,
  ⟨0x1020, 0x40, 128, 0x0, [⟨0, 24, .rw⟩]⟩,
  ⟨0x1024, 0x40, 128, 0x0, [⟨0, 24, .rw⟩]⟩,
  ⟨0x1028, 0x40, 128, 0x8000, [⟨0, 16, .hs⟩]⟩,
  ⟨0x102C, 0x40, 128, 0x8000, [⟨0, 16, .hs⟩]⟩]

def chzRegs1 : List RegDesc := [
  ⟨0x1030, 0x40, 128, 0x8000, [⟨0, 16, .hs⟩]⟩,
  ⟨0x1034, 0x40, 128, 0x0, [⟨0, 1, .hs⟩, ⟨1, 1, .hs⟩, ⟨2, 1, .hs⟩, ⟨3, 1, .hs⟩, ⟨8, 1, .rc⟩, ⟨9, 1, .rc⟩, ⟨10, 1, .rc⟩]⟩,
  ⟨0x1038, 0x40, 128, 0x0, [⟨0, 32, .ct⟩]⟩,
  ⟨0x103C, 0x40, 128, 0x0, [⟨0, 32, .ct⟩]⟩]

/-- The registers of block `chz`, as the register tables of 07_zoom_channels.md give them. -/
def chzRegs : List RegDesc := chzRegs0 ++ chzRegs1

def cctlRegs0 : List RegDesc := [
  ⟨0x0, 0x0, 1, 0x54100000, [⟨24, 8, .ro⟩, ⟨16, 8, .ro⟩, ⟨8, 1, .ro⟩, ⟨0, 2, .ro⟩]⟩,
  ⟨0x4, 0x0, 1, 0x484, [⟨0, 8, .ro⟩, ⟨8, 3, .rw⟩, ⟨16, 3, .hs⟩]⟩,
  ⟨0x8, 0x0, 1, 0x0, [⟨0, 24, .rw⟩]⟩,
  ⟨0xC, 0x0, 1, 0x100, [⟨0, 24, .rw⟩]⟩,
  ⟨0x10, 0x4, 5, 0x0, [⟨0, 32, .hs⟩]⟩,
  ⟨0x30, 0x4, 5, 0xFFFFFFFF, [⟨0, 32, .hs⟩]⟩,
  ⟨0x50, 0x4, 5, 0x0, [⟨0, 32, .wo⟩]⟩,
  ⟨0x70, 0x4, 5, 0x0, [⟨0, 32, .wo⟩]⟩,
  ⟨0x90, 0x4, 5, 0x0, [⟨0, 32, .hs⟩]⟩,
  ⟨0x1000, 0x40, 132, 0x0, [⟨0, 1, .rw⟩, ⟨1, 1, .wo⟩, ⟨2, 1, .wo⟩, ⟨3, 1, .rw⟩]⟩,
  ⟨0x1004, 0x40, 132, 0x2, [⟨0, 1, .hs⟩, ⟨1, 1, .hs⟩, ⟨2, 1, .hs⟩, ⟨3, 1, .hs⟩, ⟨4, 1, .hs⟩, ⟨5, 1, .hs⟩, ⟨6, 1, .hs⟩, ⟨7, 1, .hs⟩, ⟨8, 3, .hs⟩, ⟨12, 4, .hs⟩, ⟨16, 1, .rc⟩, ⟨17, 1, .rc⟩]⟩,
  ⟨0x1008, 0x40, 132, 0x0, [⟨0, 14, .hs⟩]⟩,
  ⟨0x100C, 0x40, 132, 0x0, [⟨0, 14, .rw⟩]⟩,
  ⟨0x1010, 0x40, 132, 0x0, [⟨0, 24, .rw⟩]⟩,
  ⟨0x1014, 0x40, 132, 0x0, [⟨0, 7, .rw⟩, ⟨7, 1, .rw⟩]⟩,
  ⟨0x1018, 0x40, 132, 0x0, [⟨0, 24, .rw⟩]⟩,
  ⟨0x101C, 0x40, 132, 0x0, [⟨0, 24, .rc⟩, ⟨24, 7, .rc⟩, ⟨31, 1, .rc⟩]⟩,
  ⟨0x1020, 0x40, 132, 0x0, [⟨0, 24, .rw⟩]⟩,
  ⟨0x1024, 0x40, 132, 0x0, [⟨0, 24, .rw⟩]⟩,
  ⟨0x1028, 0x40, 132, 0xAA0, [⟨0, 1, .rw⟩, ⟨1, 1, .rw⟩, ⟨4, 4, .rw⟩, ⟨8, 4, .rw⟩, ⟨16, 8, .rw⟩, ⟨24, 8, .rw⟩]⟩,
  ⟨0x102C, 0x40, 132, 0x0, [⟨0, 24, .rw⟩]⟩,
  ⟨0x1030, 0x40, 132, 0x0, [⟨0, 32, .ct⟩]⟩,
  ⟨0x1034, 0x40, 132, 0x0, [⟨0, 32, .ct⟩]⟩,
  ⟨0x1038, 0x40, 132, 0x0, [⟨0, 32, .ct⟩]⟩]

def cctlRegs1 : List RegDesc := [
  ⟨0x103C, 0x40, 132, 0x0, [⟨0, 32, .ct⟩]⟩]

/-- The registers of block `cctl`, as the register tables of 08_channel_core_model.md give them. -/
def cctlRegs : List RegDesc := cctlRegs0 ++ cctlRegs1

def planRegs0 : List RegDesc := [
  ⟨0x0, 0x0, 1, 0x20, [⟨0, 6, .ro⟩, ⟨8, 1, .hs⟩]⟩,
  ⟨0x4, 0x0, 1, 0x1, [⟨0, 1, .rw⟩]⟩,
  ⟨0x8, 0x0, 1, 0x0, [⟨0, 5, .wo⟩, ⟨8, 3, .wo⟩]⟩,
  ⟨0xC, 0x0, 1, 0x0, [⟨0, 1, .hs⟩, ⟨1, 1, .hs⟩, ⟨2, 1, .hs⟩, ⟨8, 4, .hs⟩, ⟨12, 4, .hs⟩]⟩,
  ⟨0x10, 0x0, 1, 0x0, [⟨0, 24, .rw⟩]⟩,
  ⟨0x14, 0x0, 1, 0x0, [⟨0, 5, .rc⟩, ⟨8, 4, .rc⟩, ⟨31, 1, .rc⟩]⟩,
  ⟨0x18, 0x0, 1, 0x0, [⟨0, 32, .ct⟩]⟩,
  ⟨0x1C, 0x0, 1, 0x0, [⟨0, 32, .ct⟩]⟩,
  ⟨0x20, 0x0, 1, 0x0, [⟨0, 32, .ct⟩]⟩,
  ⟨0x24, 0x0, 1, 0x0, [⟨0, 32, .ct⟩]⟩,
  ⟨0x28, 0x0, 1, 0xFFFFFF1F, [⟨0, 5, .hs⟩, ⟨8, 24, .hs⟩]⟩,
  ⟨0x2C, 0x0, 1, 0x140096, [⟨0, 16, .rw⟩, ⟨16, 16, .rw⟩]⟩,
  ⟨0x30, 0x0, 1, 0x2580005, [⟨0, 16, .rw⟩, ⟨16, 16, .rw⟩]⟩,
  ⟨0x100, 0x10, 32, 0x3008, [⟨0, 4, .rw⟩, ⟨8, 2, .rw⟩, ⟨12, 1, .rw⟩, ⟨13, 2, .rw⟩, ⟨16, 1, .rw⟩, ⟨17, 1, .rw⟩]⟩,
  ⟨0x104, 0x10, 32, 0x0, [⟨0, 3, .hs⟩, ⟨8, 4, .hs⟩]⟩,
  ⟨0x108, 0x10, 32, 0x0, [⟨0, 17, .hs⟩]⟩,
  ⟨0x10C, 0x10, 32, 0x0, [⟨0, 17, .rw⟩]⟩]

/-- The registers of block `plan`, as the register tables of 10_planner_and_energy.md give them. -/
def planRegs : List RegDesc := planRegs0

def pwrRegs0 : List RegDesc := [
  ⟨0x0, 0x0, 1, 0x1, [⟨0, 1, .rw⟩, ⟨1, 1, .rw⟩, ⟨2, 1, .rw⟩, ⟨4, 1, .rw⟩]⟩,
  ⟨0x4, 0x0, 1, 0x0, [⟨0, 1, .wo⟩, ⟨1, 1, .wo⟩, ⟨2, 1, .wo⟩, ⟨3, 1, .wo⟩]⟩,
  ⟨0x8, 0x0, 1, 0x21, [⟨0, 2, .hs⟩, ⟨2, 1, .hs⟩, ⟨3, 1, .hs⟩, ⟨4, 1, .hs⟩, ⟨5, 1, .hs⟩, ⟨8, 1, .rc⟩, ⟨9, 1, .rc⟩]⟩,
  ⟨0xC, 0x0, 1, 0x0, [⟨0, 17, .rw⟩]⟩,
  ⟨0x10, 0x0, 1, 0x0, [⟨0, 17, .hs⟩]⟩,
  ⟨0x14, 0x0, 1, 0x0, [⟨0, 17, .hs⟩]⟩,
  ⟨0x18, 0x0, 1, 0x0, [⟨0, 16, .hs⟩]⟩,
  ⟨0x1C, 0x0, 1, 0x0, [⟨0, 24, .hs⟩]⟩,
  ⟨0x20, 0x0, 1, 0x0, [⟨0, 24, .rw⟩]⟩,
  ⟨0x24, 0x0, 1, 0xFFFF, [⟨0, 16, .rw⟩]⟩,
  ⟨0x28, 0x0, 1, 0x50, [⟨0, 8, .rw⟩]⟩,
  ⟨0x2C, 0x0, 1, 0x5DC, [⟨0, 24, .rw⟩]⟩,
  ⟨0x30, 0x0, 1, 0x4E2, [⟨0, 16, .rw⟩, ⟨16, 16, .hs⟩]⟩,
  ⟨0x34, 0x0, 1, 0x0, [⟨0, 32, .hs⟩]⟩,
  ⟨0x38, 0x0, 1, 0x0, [⟨0, 32, .hs⟩]⟩,
  ⟨0x3C, 0x0, 1, 0x0, [⟨0, 32, .hs⟩]⟩,
  ⟨0x40, 0x0, 1, 0x0, [⟨0, 32, .hs⟩]⟩,
  ⟨0x44, 0x0, 1, 0x0, [⟨0, 24, .rw⟩]⟩,
  ⟨0x48, 0x0, 1, 0x1E0E1014, [⟨0, 8, .rw⟩, ⟨8, 16, .rw⟩, ⟨24, 8, .rw⟩]⟩,
  ⟨0x4C, 0x0, 1, 0x3E80, [⟨0, 16, .rw⟩]⟩,
  ⟨0x50, 0x0, 1, 0xA, [⟨0, 16, .rw⟩]⟩,
  ⟨0x54, 0x0, 1, 0x3E8, [⟨0, 16, .rw⟩]⟩,
  ⟨0x58, 0x0, 1, 0x0, [⟨0, 32, .ct⟩]⟩,
  ⟨0x60, 0x4, 13, 0x8000, [⟨0, 16, .hs⟩]⟩]

/-- The registers of block `pwr`, as the register tables of 10_planner_and_energy.md give them. -/
def pwrRegs : List RegDesc := pwrRegs0

def bootRegs0 : List RegDesc := [
  ⟨0x0, 0x0, 1, 0x0, [⟨0, 4, .hs⟩, ⟨4, 2, .hs⟩, ⟨6, 1, .hs⟩, ⟨7, 1, .hs⟩, ⟨8, 1, .hs⟩, ⟨9, 1, .hs⟩, ⟨10, 1, .hs⟩, ⟨11, 1, .hs⟩, ⟨16, 1, .rc⟩, ⟨17, 1, .rc⟩, ⟨18, 1, .rc⟩]⟩,
  ⟨0x4, 0x0, 1, 0x0, [⟨0, 10, .hs⟩]⟩,
  ⟨0x8, 0x0, 1, 0x0, [⟨0, 10, .hs⟩]⟩,
  ⟨0xC, 0x0, 1, 0x0, [⟨0, 32, .hs⟩]⟩,
  ⟨0x10, 0x0, 1, 0x0, [⟨0, 6, .hs⟩, ⟨8, 6, .hs⟩]⟩,
  ⟨0x14, 0x0, 1, 0x0, [⟨0, 16, .hs⟩]⟩,
  ⟨0x18, 0x0, 1, 0x0, [⟨0, 32, .ct⟩]⟩,
  ⟨0x1C, 0x0, 1, 0x0, [⟨0, 1, .rw⟩, ⟨1, 1, .rw⟩, ⟨2, 1, .rw⟩]⟩,
  ⟨0x20, 0x0, 1, 0x0, [⟨0, 1, .wl⟩, ⟨1, 1, .wl⟩, ⟨2, 1, .wl⟩, ⟨3, 1, .wl⟩, ⟨4, 1, .wl⟩]⟩,
  ⟨0x24, 0x0, 1, 0x0, [⟨0, 1, .wo⟩, ⟨1, 1, .wo⟩, ⟨2, 1, .wo⟩, ⟨3, 1, .wo⟩]⟩,
  ⟨0x28, 0x0, 1, 0x0, [⟨0, 24, .rw⟩]⟩,
  ⟨0x2C, 0x0, 1, 0x0, [⟨0, 26, .rw⟩]⟩,
  ⟨0x30, 0x0, 1, 0x0, [⟨0, 26, .rw⟩]⟩,
  ⟨0x34, 0x0, 1, 0x0, [⟨0, 1, .ro⟩, ⟨1, 1, .ro⟩, ⟨2, 1, .ro⟩, ⟨4, 4, .ro⟩, ⟨8, 4, .ro⟩]⟩,
  ⟨0x38, 0x0, 1, 0x0, [⟨0, 3, .rw⟩, ⟨4, 2, .rw⟩, ⟨8, 1, .hs⟩, ⟨9, 1, .rc⟩]⟩]

/-- The registers of block `boot`, as the register tables of 11_cocoon_and_chrysalis.md give them. -/
def bootRegs : List RegDesc := bootRegs0

def timeRegs0 : List RegDesc := [
  ⟨0x0, 0x0, 1, 0x0, [⟨0, 1, .ro⟩, ⟨8, 1, .hs⟩]⟩,
  ⟨0x4, 0x0, 1, 0x64, [⟨0, 10, .rw⟩, ⟨16, 1, .rw⟩, ⟨17, 2, .rw⟩]⟩,
  ⟨0x8, 0x0, 1, 0x0, [⟨0, 1, .wo⟩, ⟨1, 1, .wo⟩, ⟨2, 1, .wo⟩]⟩,
  ⟨0xC, 0x0, 1, 0x0, [⟨0, 1, .hs⟩, ⟨1, 1, .hs⟩, ⟨2, 1, .hs⟩, ⟨3, 1, .hs⟩, ⟨4, 1, .hs⟩, ⟨5, 2, .hs⟩, ⟨7, 1, .hs⟩, ⟨8, 1, .rc⟩, ⟨9, 1, .rc⟩, ⟨10, 1, .rc⟩, ⟨11, 1, .rc⟩, ⟨12, 1, .hs⟩]⟩,
  ⟨0x10, 0x0, 1, 0x0, [⟨0, 32, .hs⟩]⟩,
  ⟨0x14, 0x0, 1, 0x0, [⟨0, 32, .hs⟩]⟩,
  ⟨0x18, 0x0, 1, 0x0, [⟨0, 32, .rw⟩]⟩,
  ⟨0x1C, 0x0, 1, 0x3C, [⟨0, 16, .rw⟩]⟩,
  ⟨0x20, 0x0, 1, 0x100064, [⟨0, 16, .rw⟩, ⟨16, 8, .rw⟩]⟩,
  ⟨0x24, 0x0, 1, 0x602, [⟨0, 5, .rw⟩, ⟨8, 5, .rw⟩]⟩,
  ⟨0x28, 0x0, 1, 0x0, [⟨0, 16, .hs⟩, ⟨16, 1, .hs⟩, ⟨17, 1, .hs⟩, ⟨18, 1, .hs⟩, ⟨19, 1, .hs⟩]⟩,
  ⟨0x2C, 0x0, 1, 0x0, [⟨0, 32, .ct⟩]⟩,
  ⟨0x30, 0x0, 1, 0x0, [⟨0, 32, .ct⟩]⟩,
  ⟨0x34, 0x0, 1, 0x0, [⟨0, 32, .rw⟩]⟩,
  ⟨0x40, 0x10, 4, 0xF0, [⟨0, 3, .rw⟩, ⟨4, 4, .rw⟩, ⟨8, 4, .rw⟩]⟩,
  ⟨0x44, 0x10, 4, 0x0, [⟨0, 2, .hs⟩, ⟨8, 8, .hs⟩]⟩,
  ⟨0x48, 0x10, 4, 0x0, [⟨0, 32, .hs⟩]⟩,
  ⟨0x4C, 0x10, 4, 0x0, [⟨0, 32, .hs⟩]⟩,
  ⟨0x100, 0x40, 2, 0x10, [⟨0, 1, .rw⟩, ⟨1, 1, .rw⟩, ⟨2, 2, .rw⟩, ⟨4, 1, .rw⟩, ⟨5, 1, .rw⟩, ⟨8, 8, .rw⟩, ⟨16, 2, .rw⟩, ⟨18, 2, .rw⟩]⟩,
  ⟨0x104, 0x40, 2, 0x33010, [⟨0, 4, .rw⟩, ⟨4, 4, .rw⟩, ⟨8, 4, .rw⟩, ⟨12, 4, .rw⟩, ⟨16, 4, .rw⟩]⟩,
  ⟨0x108, 0x40, 2, 0xF8F88080, [⟨0, 8, .rw⟩, ⟨8, 8, .rw⟩, ⟨16, 8, .rw⟩, ⟨24, 8, .rw⟩]⟩,
  ⟨0x10C, 0x40, 2, 0x33, [⟨0, 4, .hs⟩, ⟨4, 4, .hs⟩, ⟨8, 1, .hs⟩]⟩,
  ⟨0x110, 0x40, 2, 0x0, [⟨0, 32, .hs⟩]⟩,
  ⟨0x114, 0x40, 2, 0x0, [⟨0, 32, .ct⟩]⟩]

def timeRegs1 : List RegDesc := [
  ⟨0x118, 0x40, 2, 0x0, [⟨0, 32, .ct⟩]⟩,
  ⟨0x11C, 0x40, 2, 0x0, [⟨0, 32, .ct⟩]⟩,
  ⟨0x120, 0x40, 2, 0x0, [⟨0, 32, .ct⟩]⟩,
  ⟨0x200, 0x10, 2, 0x0, [⟨0, 32, .rw⟩]⟩,
  ⟨0x204, 0x10, 2, 0x0, [⟨0, 16, .ro⟩, ⟨16, 16, .ro⟩]⟩]

/-- The registers of block `time`, as the register tables of 12_time_and_synchronisation.md give them. -/
def timeRegs : List RegDesc := timeRegs0 ++ timeRegs1

def tdcRegs0 : List RegDesc := [
  ⟨0x0, 0x0, 1, 0x800, [⟨0, 1, .ro⟩, ⟨8, 4, .ro⟩]⟩,
  ⟨0x4, 0x0, 1, 0x0, [⟨0, 8, .wo⟩, ⟨8, 8, .wo⟩, ⟨16, 1, .wo⟩, ⟨17, 1, .wo⟩, ⟨20, 3, .wo⟩]⟩,
  ⟨0x8, 0x0, 1, 0x0, [⟨0, 8, .hs⟩, ⟨8, 8, .hs⟩, ⟨16, 1, .hs⟩, ⟨17, 1, .rc⟩, ⟨18, 1, .rc⟩, ⟨19, 1, .rc⟩]⟩,
  ⟨0x100, 0x40, 8, 0x8008010, [⟨0, 1, .rw⟩, ⟨1, 2, .rw⟩, ⟨3, 1, .rw⟩, ⟨4, 2, .rw⟩, ⟨8, 8, .rw⟩, ⟨16, 12, .rw⟩]⟩,
  ⟨0x104, 0x40, 8, 0x100, [⟨0, 2, .rw⟩, ⟨8, 24, .rw⟩]⟩,
  ⟨0x108, 0x40, 8, 0x0, [⟨0, 32, .rw⟩]⟩,
  ⟨0x10C, 0x40, 8, 0x303E8, [⟨0, 16, .rw⟩, ⟨16, 8, .rw⟩]⟩,
  ⟨0x110, 0x40, 8, 0x0, [⟨0, 1, .hs⟩, ⟨1, 1, .hs⟩, ⟨2, 1, .hs⟩, ⟨3, 1, .hs⟩, ⟨8, 1, .rc⟩, ⟨9, 1, .rc⟩, ⟨10, 1, .rc⟩]⟩,
  ⟨0x114, 0x40, 8, 0x0, [⟨0, 16, .ro⟩]⟩,
  ⟨0x118, 0x40, 8, 0x0, [⟨0, 24, .rw⟩]⟩,
  ⟨0x11C, 0x40, 8, 0x0, [⟨0, 13, .hs⟩]⟩,
  ⟨0x120, 0x40, 8, 0x0, [⟨0, 32, .ct⟩]⟩,
  ⟨0x124, 0x40, 8, 0x0, [⟨0, 32, .ct⟩]⟩,
  ⟨0x128, 0x40, 8, 0x0, [⟨0, 32, .ct⟩]⟩,
  ⟨0x12C, 0x40, 8, 0x0, [⟨0, 32, .ct⟩]⟩,
  ⟨0x400, 0x40, 4, 0x128, [⟨0, 3, .rw⟩, ⟨3, 2, .rw⟩, ⟨5, 3, .rw⟩, ⟨8, 2, .rw⟩, ⟨12, 1, .rw⟩]⟩,
  ⟨0x404, 0x40, 4, 0x3E8, [⟨0, 32, .rw⟩]⟩,
  ⟨0x408, 0x40, 4, 0x0, [⟨0, 11, .hs⟩]⟩,
  ⟨0x40C, 0x40, 4, 0x0, [⟨0, 32, .ct⟩]⟩,
  ⟨0x410, 0x40, 4, 0x0, [⟨0, 32, .ct⟩]⟩,
  ⟨0x414, 0x40, 4, 0x0, [⟨0, 32, .ct⟩]⟩]

/-- The registers of block `tdc`, as the register tables of 13_event_timing_inputs.md give them. -/
def tdcRegs : List RegDesc := tdcRegs0

def nfsRegs0 : List RegDesc := [
  ⟨0x0, 0x0, 1, 0x800, [⟨0, 1, .ro⟩, ⟨8, 4, .ro⟩]⟩,
  ⟨0x4, 0x0, 1, 0x6462000, [⟨0, 1, .rw⟩, ⟨8, 6, .rw⟩, ⟨16, 1, .rw⟩, ⟨17, 1, .rw⟩, ⟨18, 2, .rw⟩, ⟨20, 12, .rw⟩]⟩,
  ⟨0x8, 0x0, 1, 0x0, [⟨0, 1, .wo⟩, ⟨1, 1, .wo⟩, ⟨2, 1, .wo⟩, ⟨3, 1, .wo⟩, ⟨4, 1, .wo⟩]⟩,
  ⟨0xC, 0x0, 1, 0x0, [⟨0, 1, .hs⟩, ⟨1, 1, .hs⟩, ⟨2, 1, .hs⟩, ⟨3, 1, .hs⟩, ⟨4, 1, .hs⟩, ⟨5, 1, .hs⟩, ⟨6, 1, .hs⟩, ⟨7, 1, .hs⟩, ⟨8, 1, .hs⟩, ⟨9, 1, .hs⟩, ⟨16, 1, .rc⟩, ⟨17, 1, .rc⟩, ⟨18, 1, .rc⟩, ⟨19, 1, .rc⟩, ⟨20, 1, .rc⟩]⟩,
  ⟨0x10, 0x0, 1, 0x0, [⟨0, 7, .hs⟩, ⟨8, 6, .hs⟩, ⟨16, 1, .hs⟩, ⟨17, 1, .hs⟩, ⟨24, 8, .hs⟩]⟩,
  ⟨0x14, 0x0, 1, 0x0, [⟨0, 16, .hs⟩]⟩,
  ⟨0x18, 0x0, 1, 0x0, [⟨0, 32, .hs⟩]⟩,
  ⟨0x1C, 0x0, 1, 0x0, [⟨0, 32, .hs⟩]⟩,
  ⟨0x20, 0x0, 1, 0xC000, [⟨0, 17, .rw⟩]⟩,
  ⟨0x84, 0x0, 1, 0x0, [⟨0, 17, .hs⟩]⟩,
  ⟨0x24, 0x0, 1, 0x0, [⟨0, 16, .hs⟩, ⟨16, 16, .hs⟩]⟩,
  ⟨0x28, 0x0, 1, 0x21F40BB8, [⟨0, 16, .rw⟩, ⟨16, 12, .rw⟩, ⟨28, 4, .rw⟩]⟩,
  ⟨0x2C, 0x0, 1, 0xC00B407, [⟨0, 9, .rw⟩, ⟨9, 12, .rw⟩, ⟨21, 8, .rw⟩]⟩,
  ⟨0x30, 0x0, 1, 0x186A0, [⟨0, 32, .rw⟩]⟩,
  ⟨0x34, 0x0, 1, 0x3E8, [⟨0, 16, .rw⟩, ⟨16, 8, .hs⟩]⟩,
  ⟨0x38, 0x0, 1, 0x1, [⟨0, 24, .hs⟩]⟩,
  ⟨0x3C, 0x0, 1, 0x0, [⟨0, 24, .rw⟩]⟩,
  ⟨0x40, 0x0, 1, 0x0, [⟨0, 3, .hs⟩, ⟨3, 1, .rw⟩, ⟨4, 1, .hs⟩, ⟨5, 1, .hs⟩, ⟨8, 6, .hs⟩]⟩,
  ⟨0x44, 0x0, 1, 0x0, [⟨0, 32, .hs⟩]⟩,
  ⟨0x48, 0x0, 1, 0x0, [⟨0, 24, .rw⟩]⟩,
  ⟨0x4C, 0x0, 1, 0x0, [⟨0, 32, .rw⟩]⟩,
  ⟨0x50, 0x0, 1, 0x0, [⟨0, 20, .rw⟩]⟩,
  ⟨0x54, 0x0, 1, 0x0, [⟨0, 24, .rw⟩]⟩,
  ⟨0x58, 0x0, 1, 0x0, [⟨0, 1, .hs⟩, ⟨1, 1, .rc⟩, ⟨2, 1, .rc⟩, ⟨3, 1, .rc⟩, ⟨4, 1, .rc⟩, ⟨5, 1, .rc⟩, ⟨6, 1, .rc⟩, ⟨12, 20, .hs⟩]⟩]

def nfsRegs1 : List RegDesc := [
  ⟨0x60, 0x0, 1, 0x0, [⟨0, 32, .ct⟩]⟩,
  ⟨0x64, 0x0, 1, 0x0, [⟨0, 32, .ct⟩]⟩,
  ⟨0x68, 0x0, 1, 0x0, [⟨0, 32, .ct⟩]⟩,
  ⟨0x6C, 0x0, 1, 0x0, [⟨0, 32, .ct⟩]⟩,
  ⟨0x70, 0x0, 1, 0x0, [⟨0, 32, .ct⟩]⟩,
  ⟨0x74, 0x0, 1, 0x0, [⟨0, 32, .ct⟩]⟩,
  ⟨0x78, 0x0, 1, 0x0, [⟨0, 32, .ct⟩]⟩,
  ⟨0x7C, 0x0, 1, 0x0, [⟨0, 32, .ct⟩]⟩,
  ⟨0x80, 0x0, 1, 0x0, [⟨0, 32, .ct⟩]⟩,
  ⟨0x88, 0x0, 1, 0x2, [⟨0, 4, .rw⟩]⟩,
  ⟨0x100, 0x10, 8, 0x0, [⟨0, 12, .hs⟩, ⟨12, 2, .hs⟩]⟩,
  ⟨0x104, 0x10, 8, 0x0, [⟨0, 32, .hs⟩]⟩,
  ⟨0x108, 0x10, 8, 0x0, [⟨0, 32, .hs⟩]⟩,
  ⟨0x1000, 0x20, 64, 0x0, [⟨0, 1, .rw⟩, ⟨1, 1, .rw⟩, ⟨2, 1, .rw⟩]⟩,
  ⟨0x1004, 0x20, 64, 0x0, [⟨0, 24, .rw⟩]⟩,
  ⟨0x1008, 0x20, 64, 0x0, [⟨0, 16, .rw⟩]⟩,
  ⟨0x100C, 0x20, 64, 0x0, [⟨0, 32, .hs⟩]⟩,
  ⟨0x1010, 0x20, 64, 0x0, [⟨0, 32, .hs⟩]⟩,
  ⟨0x1014, 0x20, 64, 0x0, [⟨0, 32, .hs⟩]⟩,
  ⟨0x1018, 0x20, 64, 0x0, [⟨0, 24, .hs⟩]⟩]

/-- The registers of block `nfs`, as the register tables of 14_flash_store.md give them. -/
def nfsRegs : List RegDesc := nfsRegs0 ++ nfsRegs1

def ddrRegs0 : List RegDesc := [
  ⟨0x0, 0x0, 1, 0x200, [⟨0, 1, .ro⟩, ⟨8, 4, .ro⟩]⟩,
  ⟨0x4, 0x0, 1, 0x3, [⟨0, 1, .rw⟩, ⟨1, 1, .rw⟩]⟩,
  ⟨0x8, 0x0, 1, 0x0, [⟨0, 2, .wo⟩]⟩,
  ⟨0xC, 0x0, 1, 0x0, [⟨0, 1, .hs⟩, ⟨8, 3, .hs⟩]⟩,
  ⟨0x100, 0x80, 2, 0x4, [⟨0, 3, .rw⟩, ⟨4, 2, .hs⟩, ⟨8, 1, .hs⟩]⟩,
  ⟨0x104, 0x80, 2, 0x0, [⟨0, 3, .hs⟩, ⟨3, 1, .hs⟩, ⟨4, 5, .hs⟩, ⟨9, 7, .hs⟩, ⟨16, 1, .rc⟩, ⟨17, 1, .rc⟩, ⟨18, 1, .rc⟩]⟩,
  ⟨0x108, 0x80, 2, 0x0, [⟨0, 17, .hs⟩]⟩,
  ⟨0x10C, 0x80, 2, 0x4000C0, [⟨0, 9, .rw⟩, ⟨16, 9, .rw⟩]⟩,
  ⟨0x110, 0x80, 2, 0x32, [⟨0, 16, .rw⟩]⟩,
  ⟨0x114, 0x80, 2, 0x80, [⟨0, 16, .rw⟩]⟩,
  ⟨0x118, 0x80, 2, 0x18, [⟨0, 8, .rw⟩, ⟨8, 8, .hs⟩]⟩,
  ⟨0x11C, 0x80, 2, 0x40, [⟨0, 16, .rw⟩]⟩,
  ⟨0x120, 0x80, 2, 0x0, [⟨0, 32, .ct⟩]⟩,
  ⟨0x124, 0x80, 2, 0x0, [⟨0, 32, .ct⟩]⟩,
  ⟨0x128, 0x80, 2, 0x0, [⟨0, 32, .ct⟩]⟩,
  ⟨0x12C, 0x80, 2, 0x0, [⟨0, 32, .ct⟩]⟩,
  ⟨0x130, 0x80, 2, 0x0, [⟨0, 2, .hs⟩, ⟨4, 4, .hs⟩, ⟨8, 1, .hs⟩, ⟨9, 5, .hs⟩, ⟨16, 16, .hs⟩]⟩,
  ⟨0x134, 0x80, 2, 0x0, [⟨0, 8, .hs⟩, ⟨8, 8, .hs⟩]⟩]

/-- The registers of block `ddr`, as the register tables of 15_capture_memory.md give them. -/
def ddrRegs : List RegDesc := ddrRegs0

def dmaRegs0 : List RegDesc := [
  ⟨0x0, 0x0, 1, 0x0, [⟨0, 1, .ro⟩, ⟨8, 4, .ro⟩]⟩,
  ⟨0x4, 0x0, 1, 0x1, [⟨0, 1, .rw⟩]⟩,
  ⟨0x8, 0x0, 1, 0x4, [⟨0, 5, .rw⟩]⟩,
  ⟨0xC, 0x0, 1, 0x0, [⟨0, 16, .rc⟩]⟩,
  ⟨0x10, 0x0, 1, 0x0, [⟨0, 17, .hs⟩]⟩,
  ⟨0x14, 0x0, 1, 0x0, [⟨0, 32, .ct⟩]⟩,
  ⟨0x18, 0x0, 1, 0x0, [⟨0, 16, .rw⟩]⟩,
  ⟨0x1C, 0x0, 1, 0x0, [⟨0, 16, .ct⟩, ⟨16, 1, .hs⟩, ⟨17, 1, .rc⟩]⟩,
  ⟨0x100, 0x40, 16, 0x0, [⟨0, 1, .rw⟩, ⟨1, 1, .rw⟩]⟩,
  ⟨0x104, 0x40, 16, 0x5, [⟨0, 3, .hs⟩, ⟨4, 4, .hs⟩, ⟨8, 1, .rc⟩, ⟨9, 1, .rc⟩, ⟨10, 1, .rc⟩]⟩,
  ⟨0x108, 0x40, 16, 0x0, [⟨0, 11, .hs⟩]⟩,
  ⟨0x10C, 0x40, 16, 0x4000, [⟨0, 2, .rw⟩, ⟨4, 12, .rw⟩, ⟨16, 1, .hs⟩]⟩,
  ⟨0x110, 0x40, 16, 0x0, [⟨0, 32, .hs⟩]⟩,
  ⟨0x114, 0x40, 16, 0x0, [⟨0, 32, .hs⟩]⟩,
  ⟨0x118, 0x40, 16, 0x0, [⟨0, 32, .hs⟩]⟩,
  ⟨0x11C, 0x40, 16, 0x0, [⟨0, 32, .ct⟩]⟩,
  ⟨0x120, 0x40, 16, 0x0, [⟨0, 32, .ct⟩]⟩,
  ⟨0x124, 0x40, 16, 0x0, [⟨0, 32, .ct⟩]⟩,
  ⟨0x128, 0x40, 16, 0x0, [⟨0, 32, .ct⟩]⟩,
  ⟨0x12C, 0x40, 16, 0x0, [⟨0, 16, .hs⟩]⟩]

/-- The registers of block `dma`, as the register tables of 16_dma_programs.md give them. -/
def dmaRegs : List RegDesc := dmaRegs0

def ethRegs0 : List RegDesc := [
  ⟨0x0, 0x0, 1, 0x0, [⟨0, 1, .ro⟩]⟩,
  ⟨0x4, 0x0, 1, 0x8, [⟨0, 1, .rw⟩, ⟨1, 2, .rw⟩, ⟨3, 1, .rw⟩, ⟨8, 1, .wo⟩]⟩,
  ⟨0x8, 0x0, 1, 0x0, [⟨0, 4, .hs⟩, ⟨4, 1, .hs⟩, ⟨8, 1, .rc⟩, ⟨9, 1, .rc⟩]⟩,
  ⟨0xC, 0x0, 1, 0x0, [⟨0, 32, .rw⟩]⟩,
  ⟨0x10, 0x0, 1, 0x0, [⟨0, 16, .rw⟩]⟩,
  ⟨0x14, 0x0, 1, 0x0, [⟨0, 32, .rw⟩]⟩,
  ⟨0x18, 0x0, 1, 0x18, [⟨0, 6, .rw⟩, ⟨8, 1, .rw⟩]⟩,
  ⟨0x1C, 0x0, 1, 0x0, [⟨0, 32, .rw⟩]⟩,
  ⟨0x20, 0x0, 1, 0x70002328, [⟨0, 14, .rw⟩, ⟨14, 1, .rw⟩, ⟨16, 12, .rw⟩, ⟨28, 3, .rw⟩]⟩,
  ⟨0x24, 0x0, 1, 0x76C0, [⟨0, 16, .rw⟩, ⟨16, 1, .rw⟩, ⟨24, 8, .rw⟩]⟩,
  ⟨0x38, 0x0, 1, 0x76C1, [⟨0, 16, .rw⟩, ⟨16, 1, .rw⟩]⟩,
  ⟨0x28, 0x0, 1, 0xEF534701, [⟨0, 32, .rw⟩]⟩,
  ⟨0x2C, 0x0, 1, 0x1, [⟨0, 2, .rw⟩, ⟨8, 8, .hs⟩]⟩,
  ⟨0x30, 0x0, 1, 0x17AE8, [⟨0, 17, .rw⟩]⟩,
  ⟨0x34, 0x0, 1, 0x0, [⟨0, 24, .rw⟩]⟩,
  ⟨0x40, 0x0, 1, 0x0, [⟨0, 32, .ct⟩]⟩,
  ⟨0x44, 0x0, 1, 0x0, [⟨0, 32, .ct⟩]⟩,
  ⟨0x48, 0x0, 1, 0x0, [⟨0, 32, .ct⟩]⟩,
  ⟨0x4C, 0x0, 1, 0x0, [⟨0, 32, .ct⟩]⟩,
  ⟨0x50, 0x0, 1, 0x0, [⟨0, 32, .ct⟩]⟩,
  ⟨0x54, 0x0, 1, 0x0, [⟨0, 32, .ct⟩]⟩,
  ⟨0x58, 0x0, 1, 0x0, [⟨0, 32, .ct⟩]⟩,
  ⟨0x5C, 0x0, 1, 0x0, [⟨0, 32, .ct⟩]⟩,
  ⟨0x60, 0x0, 1, 0x0, [⟨0, 32, .ct⟩]⟩]

def ethRegs1 : List RegDesc := [
  ⟨0x400, 0x20, 64, 0x64800000, [⟨0, 1, .rw⟩, ⟨1, 1, .rw⟩, ⟨2, 1, .rw⟩, ⟨3, 1, .rw⟩, ⟨4, 1, .rw⟩, ⟨5, 2, .rw⟩, ⟨8, 3, .rw⟩, ⟨12, 12, .rw⟩, ⟨24, 8, .rw⟩]⟩,
  ⟨0x404, 0x20, 64, 0x0, [⟨0, 32, .rw⟩]⟩,
  ⟨0x408, 0x20, 64, 0x0, [⟨0, 16, .rw⟩, ⟨16, 16, .rw⟩]⟩,
  ⟨0x40C, 0x20, 64, 0x0, [⟨0, 32, .rw⟩]⟩,
  ⟨0x410, 0x20, 64, 0x0, [⟨0, 16, .rw⟩]⟩,
  ⟨0x414, 0x20, 64, 0x0, [⟨0, 13, .rw⟩, ⟨16, 13, .hs⟩, ⟨31, 1, .hs⟩]⟩,
  ⟨0x418, 0x20, 64, 0x0, [⟨0, 32, .ct⟩]⟩,
  ⟨0x41C, 0x20, 64, 0x0, [⟨0, 32, .ct⟩]⟩]

/-- The registers of block `eth`, as the register tables of 17_ethernet_streams.md give them. -/
def ethRegs : List RegDesc := ethRegs0 ++ ethRegs1

def dispRegs0 : List RegDesc := [
  ⟨0x0, 0x0, 1, 0x400, [⟨0, 1, .ro⟩, ⟨8, 4, .ro⟩]⟩,
  ⟨0x4, 0x0, 1, 0x24, [⟨0, 1, .rw⟩, ⟨1, 1, .rw⟩, ⟨2, 1, .rw⟩, ⟨4, 3, .rw⟩]⟩,
  ⟨0x8, 0x0, 1, 0x0, [⟨0, 1, .hs⟩, ⟨1, 1, .hs⟩, ⟨2, 1, .hs⟩, ⟨3, 1, .hs⟩, ⟨8, 1, .rc⟩, ⟨9, 1, .rc⟩, ⟨10, 1, .rc⟩, ⟨11, 1, .rc⟩, ⟨12, 1, .rc⟩]⟩,
  ⟨0xC, 0x0, 1, 0x0, [⟨0, 4, .wo⟩, ⟨8, 4, .wo⟩]⟩,
  ⟨0x10, 0x0, 1, 0x0, [⟨0, 4, .hs⟩, ⟨8, 4, .hs⟩, ⟨16, 1, .rw⟩]⟩,
  ⟨0x14, 0x0, 1, 0xD10BB7, [⟨0, 24, .rw⟩]⟩,
  ⟨0x18, 0x0, 1, 0xF00, [⟨0, 13, .rw⟩]⟩,
  ⟨0x1C, 0x0, 1, 0x42808008, [⟨0, 10, .rw⟩, ⟨10, 10, .rw⟩, ⟨20, 10, .rw⟩, ⟨30, 1, .rw⟩]⟩,
  ⟨0x20, 0x0, 1, 0x870, [⟨0, 13, .rw⟩]⟩,
  ⟨0x24, 0x0, 1, 0x602030, [⟨0, 10, .rw⟩, ⟨10, 10, .rw⟩, ⟨20, 10, .rw⟩, ⟨30, 1, .rw⟩]⟩,
  ⟨0x28, 0x0, 1, 0x30, [⟨0, 16, .rw⟩]⟩,
  ⟨0x2C, 0x0, 1, 0x86E, [⟨0, 13, .rw⟩]⟩,
  ⟨0x30, 0x0, 1, 0x0, [⟨0, 24, .rw⟩]⟩,
  ⟨0x34, 0x0, 1, 0x1A, [⟨0, 2, .rw⟩, ⟨2, 3, .rw⟩, ⟨5, 1, .rw⟩]⟩,
  ⟨0x38, 0x0, 1, 0x0, [⟨0, 2, .hs⟩, ⟨2, 3, .hs⟩, ⟨8, 1, .hs⟩]⟩,
  ⟨0x3C, 0x0, 1, 0x0, [⟨0, 13, .hs⟩]⟩,
  ⟨0x40, 0x0, 1, 0x0, [⟨0, 32, .ct⟩]⟩,
  ⟨0x44, 0x0, 1, 0x0, [⟨0, 32, .ct⟩]⟩,
  ⟨0x48, 0x0, 1, 0x0, [⟨0, 32, .ct⟩]⟩,
  ⟨0x4C, 0x0, 1, 0x0, [⟨0, 32, .ct⟩]⟩,
  ⟨0x50, 0x0, 1, 0x0, [⟨0, 8, .rw⟩, ⟨8, 2, .rw⟩]⟩,
  ⟨0x54, 0x0, 1, 0x0, [⟨0, 32, .rw⟩]⟩,
  ⟨0x100, 0x40, 4, 0x0, [⟨0, 1, .rw⟩, ⟨4, 2, .rw⟩, ⟨8, 2, .rw⟩]⟩,
  ⟨0x104, 0x40, 4, 0x0, [⟨0, 32, .rw⟩]⟩]

def dispRegs1 : List RegDesc := [
  ⟨0x108, 0x40, 4, 0x0, [⟨0, 13, .rw⟩]⟩,
  ⟨0x10C, 0x40, 4, 0x400040, [⟨0, 13, .rw⟩, ⟨16, 13, .rw⟩]⟩,
  ⟨0x110, 0x40, 4, 0x0, [⟨0, 13, .rw⟩, ⟨16, 13, .rw⟩]⟩,
  ⟨0x114, 0x40, 4, 0x0, [⟨0, 20, .rw⟩]⟩,
  ⟨0x120, 0x40, 4, 0x0, [⟨0, 20, .rw⟩]⟩,
  ⟨0x118, 0x40, 4, 0x0, [⟨0, 32, .hs⟩]⟩,
  ⟨0x11C, 0x40, 4, 0x0, [⟨0, 32, .ct⟩]⟩]

/-- The registers of block `disp`, as the register tables of 18_display_scanout.md give them. -/
def dispRegs : List RegDesc := dispRegs0 ++ dispRegs1

def clkRegs0 : List RegDesc := [
  ⟨0x0, 0x0, 1, 0x300, [⟨0, 1, .ro⟩, ⟨8, 4, .ro⟩]⟩,
  ⟨0x4, 0x0, 1, 0x0, [⟨0, 1, .wo⟩, ⟨1, 1, .wo⟩, ⟨2, 1, .wo⟩, ⟨3, 1, .wo⟩]⟩,
  ⟨0x8, 0x0, 1, 0x0, [⟨0, 1, .hs⟩, ⟨1, 1, .hs⟩, ⟨2, 1, .hs⟩, ⟨3, 1, .hs⟩, ⟨4, 1, .hs⟩, ⟨5, 2, .hs⟩, ⟨7, 1, .hs⟩, ⟨8, 1, .rc⟩, ⟨9, 1, .rc⟩]⟩,
  ⟨0xC, 0x0, 1, 0x0, [⟨0, 1, .hs⟩, ⟨1, 1, .hs⟩, ⟨2, 1, .hs⟩, ⟨8, 1, .rw⟩]⟩,
  ⟨0x10, 0x0, 1, 0xA0021, [⟨0, 2, .rw⟩, ⟨4, 2, .rw⟩, ⟨8, 1, .rw⟩, ⟨9, 1, .rw⟩, ⟨16, 8, .rw⟩]⟩,
  ⟨0x14, 0x0, 1, 0x0, [⟨0, 1, .hs⟩, ⟨1, 1, .hs⟩, ⟨2, 1, .hs⟩]⟩,
  ⟨0x18, 0x0, 1, 0x33, [⟨0, 10, .rw⟩]⟩,
  ⟨0x1C, 0x0, 1, 0x1, [⟨0, 24, .rw⟩]⟩,
  ⟨0x20, 0x0, 1, 0x5, [⟨0, 24, .rw⟩]⟩,
  ⟨0x24, 0x0, 1, 0x3000001, [⟨0, 23, .rw⟩, ⟨24, 1, .rw⟩, ⟨25, 1, .rw⟩, ⟨26, 1, .rw⟩]⟩,
  ⟨0x2C, 0x0, 1, 0x5024044, [⟨0, 4, .rw⟩, ⟨4, 8, .rw⟩, ⟨12, 4, .rw⟩, ⟨16, 2, .rw⟩, ⟨24, 8, .rw⟩]⟩,
  ⟨0x30, 0x0, 1, 0x3200, [⟨0, 1, .rw⟩, ⟨8, 8, .rw⟩]⟩,
  ⟨0x34, 0x0, 1, 0x100140, [⟨0, 2, .rw⟩, ⟨4, 16, .rw⟩, ⟨20, 12, .rw⟩]⟩,
  ⟨0x40, 0x0, 1, 0x0, [⟨0, 32, .ct⟩]⟩,
  ⟨0x44, 0x0, 1, 0x0, [⟨0, 32, .ct⟩]⟩,
  ⟨0x48, 0x0, 1, 0x0, [⟨0, 32, .ct⟩]⟩,
  ⟨0x4C, 0x0, 1, 0x0, [⟨0, 32, .ct⟩]⟩,
  ⟨0x100, 0x10, 3, 0x0, [⟨0, 3, .rw⟩, ⟨4, 2, .rw⟩]⟩,
  ⟨0x104, 0x10, 3, 0x34, [⟨0, 10, .rw⟩]⟩,
  ⟨0x108, 0x10, 3, 0x0, [⟨0, 10, .rw⟩]⟩,
  ⟨0x10C, 0x10, 3, 0xFA00, [⟨0, 16, .rw⟩]⟩]

/-- The registers of block `clk`, as the register tables of 19_clock_synthesis.md give them. -/
def clkRegs : List RegDesc := clkRegs0

def hkaRegs0 : List RegDesc := [
  ⟨0x0, 0x0, 1, 0x4200, [⟨0, 1, .ro⟩, ⟨8, 4, .ro⟩, ⟨12, 4, .ro⟩]⟩,
  ⟨0x4, 0x0, 1, 0x0, [⟨0, 2, .wo⟩]⟩,
  ⟨0x100, 0x100, 2, 0x10, [⟨0, 1, .rw⟩, ⟨4, 5, .rw⟩, ⟨12, 2, .rw⟩, ⟨16, 2, .rw⟩, ⟨18, 1, .rw⟩, ⟨20, 12, .rw⟩]⟩,
  ⟨0x104, 0x100, 2, 0x64, [⟨0, 20, .rw⟩]⟩,
  ⟨0x108, 0x100, 2, 0x0, [⟨0, 1, .hs⟩, ⟨4, 4, .hs⟩, ⟨8, 1, .rc⟩, ⟨9, 1, .rc⟩]⟩,
  ⟨0x10C, 0x100, 2, 0x0, [⟨0, 32, .ct⟩]⟩,
  ⟨0x110, 0x100, 2, 0x0, [⟨0, 32, .ct⟩]⟩,
  ⟨0x140, 0x100, 2, 0x1F, [⟨0, 6, .rw⟩, ⟨8, 2, .rw⟩, ⟨12, 3, .rw⟩]⟩,
  ⟨0x144, 0x100, 2, 0x1F, [⟨0, 6, .rw⟩, ⟨8, 2, .rw⟩, ⟨12, 3, .rw⟩]⟩,
  ⟨0x148, 0x100, 2, 0x1F, [⟨0, 6, .rw⟩, ⟨8, 2, .rw⟩, ⟨12, 3, .rw⟩]⟩,
  ⟨0x14C, 0x100, 2, 0x1F, [⟨0, 6, .rw⟩, ⟨8, 2, .rw⟩, ⟨12, 3, .rw⟩]⟩,
  ⟨0x150, 0x100, 2, 0x1F, [⟨0, 6, .rw⟩, ⟨8, 2, .rw⟩, ⟨12, 3, .rw⟩]⟩,
  ⟨0x154, 0x100, 2, 0x1F, [⟨0, 6, .rw⟩, ⟨8, 2, .rw⟩, ⟨12, 3, .rw⟩]⟩,
  ⟨0x158, 0x100, 2, 0x1F, [⟨0, 6, .rw⟩, ⟨8, 2, .rw⟩, ⟨12, 3, .rw⟩]⟩,
  ⟨0x15C, 0x100, 2, 0x1F, [⟨0, 6, .rw⟩, ⟨8, 2, .rw⟩, ⟨12, 3, .rw⟩]⟩,
  ⟨0x160, 0x100, 2, 0x1F, [⟨0, 6, .rw⟩, ⟨8, 2, .rw⟩, ⟨12, 3, .rw⟩]⟩,
  ⟨0x164, 0x100, 2, 0x1F, [⟨0, 6, .rw⟩, ⟨8, 2, .rw⟩, ⟨12, 3, .rw⟩]⟩,
  ⟨0x168, 0x100, 2, 0x1F, [⟨0, 6, .rw⟩, ⟨8, 2, .rw⟩, ⟨12, 3, .rw⟩]⟩,
  ⟨0x16C, 0x100, 2, 0x1F, [⟨0, 6, .rw⟩, ⟨8, 2, .rw⟩, ⟨12, 3, .rw⟩]⟩,
  ⟨0x170, 0x100, 2, 0x1F, [⟨0, 6, .rw⟩, ⟨8, 2, .rw⟩, ⟨12, 3, .rw⟩]⟩,
  ⟨0x174, 0x100, 2, 0x1F, [⟨0, 6, .rw⟩, ⟨8, 2, .rw⟩, ⟨12, 3, .rw⟩]⟩,
  ⟨0x178, 0x100, 2, 0x1F, [⟨0, 6, .rw⟩, ⟨8, 2, .rw⟩, ⟨12, 3, .rw⟩]⟩,
  ⟨0x17C, 0x100, 2, 0x1F, [⟨0, 6, .rw⟩, ⟨8, 2, .rw⟩, ⟨12, 3, .rw⟩]⟩,
  ⟨0x180, 0x100, 2, 0x0, [⟨0, 12, .hs⟩, ⟨12, 1, .hs⟩, ⟨13, 1, .hs⟩, ⟨14, 1, .hs⟩, ⟨15, 1, .rc⟩]⟩]

def hkaRegs1 : List RegDesc := [
  ⟨0x184, 0x100, 2, 0x0, [⟨0, 12, .hs⟩, ⟨12, 1, .hs⟩, ⟨13, 1, .hs⟩, ⟨14, 1, .hs⟩, ⟨15, 1, .rc⟩]⟩,
  ⟨0x188, 0x100, 2, 0x0, [⟨0, 12, .hs⟩, ⟨12, 1, .hs⟩, ⟨13, 1, .hs⟩, ⟨14, 1, .hs⟩, ⟨15, 1, .rc⟩]⟩,
  ⟨0x18C, 0x100, 2, 0x0, [⟨0, 12, .hs⟩, ⟨12, 1, .hs⟩, ⟨13, 1, .hs⟩, ⟨14, 1, .hs⟩, ⟨15, 1, .rc⟩]⟩,
  ⟨0x190, 0x100, 2, 0x0, [⟨0, 12, .hs⟩, ⟨12, 1, .hs⟩, ⟨13, 1, .hs⟩, ⟨14, 1, .hs⟩, ⟨15, 1, .rc⟩]⟩,
  ⟨0x194, 0x100, 2, 0x0, [⟨0, 12, .hs⟩, ⟨12, 1, .hs⟩, ⟨13, 1, .hs⟩, ⟨14, 1, .hs⟩, ⟨15, 1, .rc⟩]⟩,
  ⟨0x198, 0x100, 2, 0x0, [⟨0, 12, .hs⟩, ⟨12, 1, .hs⟩, ⟨13, 1, .hs⟩, ⟨14, 1, .hs⟩, ⟨15, 1, .rc⟩]⟩,
  ⟨0x19C, 0x100, 2, 0x0, [⟨0, 12, .hs⟩, ⟨12, 1, .hs⟩, ⟨13, 1, .hs⟩, ⟨14, 1, .hs⟩, ⟨15, 1, .rc⟩]⟩,
  ⟨0x1A0, 0x100, 2, 0x0, [⟨0, 12, .hs⟩, ⟨12, 1, .hs⟩, ⟨13, 1, .hs⟩, ⟨14, 1, .hs⟩, ⟨15, 1, .rc⟩]⟩,
  ⟨0x1A4, 0x100, 2, 0x0, [⟨0, 12, .hs⟩, ⟨12, 1, .hs⟩, ⟨13, 1, .hs⟩, ⟨14, 1, .hs⟩, ⟨15, 1, .rc⟩]⟩,
  ⟨0x1A8, 0x100, 2, 0x0, [⟨0, 12, .hs⟩, ⟨12, 1, .hs⟩, ⟨13, 1, .hs⟩, ⟨14, 1, .hs⟩, ⟨15, 1, .rc⟩]⟩,
  ⟨0x1AC, 0x100, 2, 0x0, [⟨0, 12, .hs⟩, ⟨12, 1, .hs⟩, ⟨13, 1, .hs⟩, ⟨14, 1, .hs⟩, ⟨15, 1, .rc⟩]⟩,
  ⟨0x1B0, 0x100, 2, 0x0, [⟨0, 12, .hs⟩, ⟨12, 1, .hs⟩, ⟨13, 1, .hs⟩, ⟨14, 1, .hs⟩, ⟨15, 1, .rc⟩]⟩,
  ⟨0x1B4, 0x100, 2, 0x0, [⟨0, 12, .hs⟩, ⟨12, 1, .hs⟩, ⟨13, 1, .hs⟩, ⟨14, 1, .hs⟩, ⟨15, 1, .rc⟩]⟩,
  ⟨0x1B8, 0x100, 2, 0x0, [⟨0, 12, .hs⟩, ⟨12, 1, .hs⟩, ⟨13, 1, .hs⟩, ⟨14, 1, .hs⟩, ⟨15, 1, .rc⟩]⟩,
  ⟨0x1BC, 0x100, 2, 0x0, [⟨0, 12, .hs⟩, ⟨12, 1, .hs⟩, ⟨13, 1, .hs⟩, ⟨14, 1, .hs⟩, ⟨15, 1, .rc⟩]⟩,
  ⟨0x1C0, 0x100, 2, 0xFFF0000, [⟨0, 12, .rw⟩, ⟨16, 12, .rw⟩, ⟨31, 1, .rw⟩]⟩,
  ⟨0x1C4, 0x100, 2, 0xFFF0000, [⟨0, 12, .rw⟩, ⟨16, 12, .rw⟩, ⟨31, 1, .rw⟩]⟩,
  ⟨0x1C8, 0x100, 2, 0xFFF0000, [⟨0, 12, .rw⟩, ⟨16, 12, .rw⟩, ⟨31, 1, .rw⟩]⟩,
  ⟨0x1CC, 0x100, 2, 0xFFF0000, [⟨0, 12, .rw⟩, ⟨16, 12, .rw⟩, ⟨31, 1, .rw⟩]⟩,
  ⟨0x1D0, 0x100, 2, 0xFFF0000, [⟨0, 12, .rw⟩, ⟨16, 12, .rw⟩, ⟨31, 1, .rw⟩]⟩,
  ⟨0x1D4, 0x100, 2, 0xFFF0000, [⟨0, 12, .rw⟩, ⟨16, 12, .rw⟩, ⟨31, 1, .rw⟩]⟩,
  ⟨0x1D8, 0x100, 2, 0xFFF0000, [⟨0, 12, .rw⟩, ⟨16, 12, .rw⟩, ⟨31, 1, .rw⟩]⟩,
  ⟨0x1DC, 0x100, 2, 0xFFF0000, [⟨0, 12, .rw⟩, ⟨16, 12, .rw⟩, ⟨31, 1, .rw⟩]⟩,
  ⟨0x1E0, 0x100, 2, 0xFFF0000, [⟨0, 12, .rw⟩, ⟨16, 12, .rw⟩, ⟨31, 1, .rw⟩]⟩]

def hkaRegs2 : List RegDesc := [
  ⟨0x1E4, 0x100, 2, 0xFFF0000, [⟨0, 12, .rw⟩, ⟨16, 12, .rw⟩, ⟨31, 1, .rw⟩]⟩,
  ⟨0x1E8, 0x100, 2, 0xFFF0000, [⟨0, 12, .rw⟩, ⟨16, 12, .rw⟩, ⟨31, 1, .rw⟩]⟩,
  ⟨0x1EC, 0x100, 2, 0xFFF0000, [⟨0, 12, .rw⟩, ⟨16, 12, .rw⟩, ⟨31, 1, .rw⟩]⟩,
  ⟨0x1F0, 0x100, 2, 0xFFF0000, [⟨0, 12, .rw⟩, ⟨16, 12, .rw⟩, ⟨31, 1, .rw⟩]⟩,
  ⟨0x1F4, 0x100, 2, 0xFFF0000, [⟨0, 12, .rw⟩, ⟨16, 12, .rw⟩, ⟨31, 1, .rw⟩]⟩,
  ⟨0x1F8, 0x100, 2, 0xFFF0000, [⟨0, 12, .rw⟩, ⟨16, 12, .rw⟩, ⟨31, 1, .rw⟩]⟩,
  ⟨0x1FC, 0x100, 2, 0xFFF0000, [⟨0, 12, .rw⟩, ⟨16, 12, .rw⟩, ⟨31, 1, .rw⟩]⟩,
  ⟨0x300, 0x10, 8, 0x83032000, [⟨0, 1, .rw⟩, ⟨4, 4, .rw⟩, ⟨8, 4, .rw⟩, ⟨12, 12, .rw⟩, ⟨24, 4, .rw⟩, ⟨28, 4, .rw⟩]⟩,
  ⟨0x304, 0x10, 8, 0x0, [⟨0, 1, .hs⟩, ⟨1, 1, .hs⟩, ⟨2, 1, .hs⟩, ⟨16, 12, .hs⟩]⟩,
  ⟨0x308, 0x10, 8, 0x0, [⟨0, 32, .ct⟩]⟩,
  ⟨0x30C, 0x10, 8, 0x0, [⟨0, 32, .ct⟩]⟩,
  ⟨0x380, 0x4, 8, 0x0, [⟨0, 5, .rw⟩, ⟨8, 5, .rw⟩, ⟨16, 12, .rw⟩, ⟨31, 1, .rw⟩]⟩,
  ⟨0x400, 0x10, 4, 0x0, [⟨0, 1, .rw⟩, ⟨1, 1, .rw⟩, ⟨2, 1, .rw⟩, ⟨3, 1, .rw⟩]⟩,
  ⟨0x404, 0x10, 4, 0x1900, [⟨0, 16, .rw⟩]⟩,
  ⟨0x408, 0x10, 4, 0x0, [⟨0, 16, .rw⟩]⟩,
  ⟨0x40C, 0x10, 4, 0x0, [⟨0, 1, .hs⟩, ⟨1, 1, .hs⟩]⟩]

/-- The registers of block `hka`, as the register tables of 20_housekeeping.md give them. -/
def hkaRegs : List RegDesc := hkaRegs0 ++ hkaRegs1 ++ hkaRegs2

def fcolRegs0 : List RegDesc := [
  ⟨0x0, 0x0, 1, 0x0, [⟨0, 1, .ro⟩, ⟨8, 1, .hs⟩]⟩,
  ⟨0x4, 0x0, 1, 0x2, [⟨0, 1, .rw⟩, ⟨1, 1, .rw⟩]⟩,
  ⟨0x8, 0x0, 1, 0x0, [⟨0, 1, .wo⟩, ⟨1, 1, .wo⟩, ⟨2, 1, .wo⟩]⟩,
  ⟨0xC, 0x0, 1, 0x0, [⟨0, 1, .hs⟩, ⟨1, 1, .hs⟩, ⟨2, 1, .hs⟩, ⟨8, 1, .rc⟩, ⟨9, 1, .rc⟩]⟩,
  ⟨0x10, 0x0, 1, 0x0, [⟨0, 8, .hs⟩, ⟨8, 2, .hs⟩, ⟨16, 1, .hs⟩, ⟨31, 1, .hs⟩]⟩,
  ⟨0x14, 0x0, 1, 0xA, [⟨0, 16, .rw⟩]⟩,
  ⟨0x18, 0x0, 1, 0x0, [⟨0, 8, .rw⟩]⟩,
  ⟨0x1C, 0x0, 1, 0x300, [⟨0, 2, .rw⟩, ⟨4, 2, .rw⟩, ⟨8, 1, .rw⟩, ⟨9, 1, .rw⟩]⟩,
  ⟨0x20, 0x0, 1, 0x0, [⟨0, 2, .hs⟩, ⟨4, 2, .hs⟩, ⟨8, 8, .hs⟩]⟩,
  ⟨0x24, 0x0, 1, 0x0, [⟨0, 32, .ct⟩]⟩,
  ⟨0x30, 0x4, 4, 0x0, [⟨0, 8, .rw⟩, ⟨8, 16, .rw⟩, ⟨24, 8, .rw⟩]⟩,
  ⟨0x40, 0x4, 4, 0x0, [⟨0, 24, .rw⟩]⟩,
  ⟨0x50, 0x0, 1, 0x0, [⟨0, 32, .ct⟩]⟩,
  ⟨0x54, 0x0, 1, 0x0, [⟨0, 32, .ct⟩]⟩,
  ⟨0x58, 0x0, 1, 0x0, [⟨0, 32, .ct⟩]⟩,
  ⟨0x5C, 0x0, 1, 0x0, [⟨0, 32, .ct⟩]⟩,
  ⟨0x60, 0x0, 1, 0x0, [⟨0, 32, .ct⟩]⟩,
  ⟨0x64, 0x0, 1, 0x0, [⟨0, 32, .ct⟩]⟩]

/-- The registers of block `fcol`, as the register tables of 21_fault_handling.md give them. -/
def fcolRegs : List RegDesc := fcolRegs0

def chipRegs0 : List RegDesc := [
  ⟨0x0, 0x0, 1, 0x48100000, [⟨24, 8, .ro⟩, ⟨16, 8, .ro⟩, ⟨0, 1, .ro⟩]⟩,
  ⟨0x4, 0x0, 1, 0x53384700, [⟨0, 32, .ro⟩]⟩,
  ⟨0x8, 0x0, 1, 0x0, [⟨0, 2, .ro⟩, ⟨4, 1, .ro⟩, ⟨8, 8, .ro⟩, ⟨16, 8, .hs⟩]⟩,
  ⟨0xC, 0x0, 1, 0x0, [⟨0, 32, .ro⟩]⟩,
  ⟨0x10, 0x0, 1, 0x0, [⟨0, 32, .ro⟩]⟩,
  ⟨0x14, 0x0, 1, 0x0, [⟨0, 1, .hs⟩, ⟨1, 1, .hs⟩, ⟨8, 1, .rc⟩]⟩,
  ⟨0x18, 0x0, 1, 0x0, [⟨0, 32, .hs⟩]⟩,
  ⟨0x1C, 0x0, 1, 0x0, [⟨0, 32, .ct⟩]⟩,
  ⟨0x20, 0x0, 1, 0x0, [⟨0, 16, .rw⟩]⟩,
  ⟨0x24, 0x0, 1, 0x0, [⟨0, 4, .hs⟩]⟩,
  ⟨0x28, 0x0, 1, 0xB, [⟨0, 4, .rw⟩]⟩,
  ⟨0x2C, 0x0, 1, 0x0, [⟨0, 32, .rw⟩]⟩]

/-- The registers of block `chip`, as the register tables of 22_host_register_access.md give them. -/
def chipRegs : List RegDesc := chipRegs0

def mboxRegs0 : List RegDesc := [
  ⟨0x0, 0x0, 1, 0x0, [⟨0, 16, .rw⟩, ⟨16, 8, .rw⟩, ⟨24, 1, .rw⟩]⟩,
  ⟨0x4, 0x0, 1, 0x0, [⟨0, 1, .hs⟩, ⟨1, 1, .hs⟩, ⟨2, 1, .hs⟩, ⟨3, 1, .hs⟩, ⟨8, 1, .rc⟩, ⟨9, 1, .rc⟩, ⟨12, 4, .hs⟩]⟩,
  ⟨0x8, 0x0, 1, 0x0, [⟨0, 3, .ro⟩]⟩,
  ⟨0x40, 0x4, 12, 0x0, [⟨0, 32, .rw⟩]⟩]

/-- The registers of block `mbox`, as the register tables of 22_host_register_access.md give them. -/
def mboxRegs : List RegDesc := mboxRegs0

end Sys2Proof.Machine
end

