-- ==== Sys2Proof/Machine/Map.lean ====
section
/-! DEFINITION. The host address map of R632 and R633, and what every register holds at reset. -/

namespace Sys2Proof.Machine

/-- The blocks of the windows (R633). -/
inductive Block where
  | chip | boot | pwr | plan | clk | time | tdc | hka | fcol | dma | ddr | nfs | eth | disp | mbox
  | aperture
  | acq
  | wb | trg | recd | dens | chz | cctl | jrx | core
  deriving DecidableEq, Repr

/-- Where the windows of R632 start. -/
def hubB (h : Nat) : Nat := h * 0x800000
def acqB (a : Nat) : Nat := 0x1000000 + a * 0x100000
def tB (t : Nat) : Nat := 0x4000000 + t * 0x2000000

/-- Where the blocks of a hub window start (R633). -/
def chipB (h : Nat) : Nat := hubB h
def bootB (h : Nat) : Nat := hubB h + 0x10000
def pwrB (h : Nat) : Nat := hubB h + 0x20000
def planB (h : Nat) : Nat := hubB h + 0x30000
def clkB (h : Nat) : Nat := hubB h + 0x40000
def timeB (h : Nat) : Nat := hubB h + 0x50000
def tdcB (h : Nat) : Nat := hubB h + 0x60000
def hkaB (h : Nat) : Nat := hubB h + 0x70000
def fcolB (h : Nat) : Nat := hubB h + 0x80000
def dmaB (h : Nat) : Nat := hubB h + 0x90000
def ddrB (h : Nat) : Nat := hubB h + 0xA0000
def nfsB (h : Nat) : Nat := hubB h + 0xB0000
def ethB (h : Nat) : Nat := hubB h + 0xC0000
def dispB (h : Nat) : Nat := hubB h + 0xD0000
def mboxB (h : Nat) : Nat := hubB h + 0xE0000
def apertureB (h : Nat) : Nat := hubB h + 0x400000

/-- Where the blocks of a transform-die window start (R633). -/
def wbB (t : Nat) : Nat := tB t + 0x10000
def trgB (t : Nat) : Nat := tB t + 0x20000
def recB (t : Nat) : Nat := tB t + 0x30000
def densB (t : Nat) : Nat := tB t + 0x40000
def chzB (t : Nat) : Nat := tB t + 0x50000
def cctlB (t : Nat) : Nat := tB t + 0x60000
def jrxB (t : Nat) : Nat := tB t + 0xF0000
def coreB (t c : Nat) : Nat := tB t + 0x100000 + c * 0x20000
/-- The control registers CORE_c_* of core `c` of die `t` (R310). -/
def coreRegB (t c : Nat) : Nat := cctlB t + 0x40 * c

/-- A block of a hub window by its 64 KiB page (R633). -/
def hubBlock (page : Nat) : Option Block :=
  match page with
  | 0 => some .chip | 1 => some .boot | 2 => some .pwr | 3 => some .plan | 4 => some .clk
  | 5 => some .time | 6 => some .tdc | 7 => some .hka | 8 => some .fcol | 9 => some .dma
  | 10 => some .ddr | 11 => some .nfs | 12 => some .eth | 13 => some .disp | 14 => some .mbox
  | _ => none

/-- A block of a transform-die window by its 64 KiB page (R633). -/
def tBlock (page : Nat) : Option Block :=
  match page with
  | 1 => some .wb | 2 => some .trg | 3 => some .recd | 4 => some .dens | 5 => some .chz | 6 => some .cctl
  | 15 => some .jrx
  | _ => none

/-- The block, the die's index among its kind, and the offset in the block at window address `a` (R632, R633).
`none` in a reserved range. -/
def place (a : Nat) : Option (Block × Nat × Nat) :=
  if a < 0x1000000 then
    if 0x400000 ≤ a % 0x800000 then some (.aperture, a / 0x800000, a % 0x400000)
    else (hubBlock (a % 0x800000 / 0x10000)).map fun b => (b, a / 0x800000, a % 0x10000)
  else if a < 0x1200000 then some (.acq, (a - 0x1000000) / 0x100000, a % 0x100000)
  else if 0x4000000 ≤ a ∧ a < 0xC000000 then
    let o := a % 0x2000000
    let t := (a - 0x4000000) / 0x2000000
    if 0x100000 ≤ o ∧ o < 0x1180000 then some (.core, t, o - 0x100000)
    else if o < 0x100000 then (tBlock (o / 0x10000)).map fun b => (b, t, o % 0x10000)
    else none
  else none

/-- The register table of a block. -/
def blockRegs : Block → List RegDesc
  | .chip => chipRegs | .boot => bootRegs | .pwr => pwrRegs | .plan => planRegs | .clk => clkRegs
  | .time => timeRegs | .tdc => tdcRegs | .hka => hkaRegs | .fcol => fcolRegs | .dma => dmaRegs
  | .ddr => ddrRegs | .nfs => nfsRegs | .eth => ethRegs | .disp => dispRegs | .mbox => mboxRegs
  | .acq => acqRegs | .wb => wbRegs | .trg => trgRegs | .recd => recRegs | .dens => densRegs
  | .chz => chzRegs | .cctl => cctlRegs | .jrx => jrxRegs
  | .core => [] | .aperture => []

/-- Whether offset `o` is an instance of register `r`. -/
def RegDesc.covers (r : RegDesc) (o : Nat) : Bool :=
  if r.stride = 0 then decide (o = r.off)
  else decide (r.off ≤ o) && decide ((o - r.off) % r.stride = 0) && decide ((o - r.off) / r.stride < r.count)

/-- The register at offset `o` of block `b`. -/
def regAt (b : Block) (o : Nat) : Option RegDesc := (blockRegs b).find? (·.covers o)

/-- The reset values that depend on the instance: `per die`, `per hub`, `n`, `i` and the R620 profiles. `none` where
the table's own value holds. -/
def resetSpecial (b : Block) (i o : Nat) : Option Nat :=
  match b with
  | .acq =>
    if o = 0 then some (0x41100000 + i)
    else if 0x1000 ≤ o ∧ o < 0x1410 ∧ o % 0x10 = 0xC then
      let n := (o - 0x1000) / 0x10
      some (if n = 64 then 0x100 else n)
    else none
  | .wb | .trg | .recd | .dens | .chz =>
    if o = 0 then some (0x54100000 + (if i % 2 = 0 then 0x100 else 0) + i) else none
  | .cctl =>
    if o = 0 then some (0x54100000 + (if i % 2 = 0 then 0x100 else 0) + i)
    else if o = 0x40 then some 0xF else none
  | .chip => if o = 0 then some (0x48100000 + i) else if o = 0x14 then some (if i = 0 then 2 else 0) else none
  | .plan => if o = 0 then some (32 + (if i = 0 then 0x100 else 0)) else none
  | .pwr => if o = 0xC then some 95000 else none
  | .time =>
    if o = 0 then some (i + (if i = 0 then 0x100 else 0))
    else if o = 0x40 then some (4 + 15 * 0x10)
    else if o = 0x140 then some 0x110
    else none
  | .fcol =>
    if o = 0 then some (i + (if i = 0 then 0x100 else 0))
    else match o with
    | 0x30 => some (1000 * 0x100 + 8 * 0x1000000)
    | 0x34 => some (16 + 1000 * 0x100 + 16 * 0x1000000)
    | 0x38 => some (64 + 60000 * 0x100)
    | 0x3C => some (1000 * 0x100)
    | 0x40 => some 1000
    | 0x44 => some 10000
    | 0x48 => some 60000
    | _ => none
  | .dma =>
    if o = 0 then (regAt b 0).map fun r => r.reset + i
    else if 0x200 ≤ o ∧ o < 0x500 ∧ o % 0x40 = 0xC then (regAt b o).map fun r => r.reset + 2 ^ 16
    else none
  | .tdc | .nfs | .ddr | .disp | .clk | .hka | .eth =>
    if o = 0 then (regAt b 0).map fun r => r.reset + i else none
  | _ => none

/-- Counters that wrap at 2^32 instead of holding at all ones (R9): those whose register table says so. -/
def wrapsAt : Block → List Nat
  | .wb => [R.WB_SPEC_COUNT]
  | .trg => [R.TRG_COND_c_HITS, R.TRGU_u_EVENTS]
  | .recd => [R.REC_ACQ_COUNT, R.REC_CO_ENTRIES]
  | .dens => [R.DENS_FRAME_COUNT, R.DENS_ROW_COUNT]
  | .chz => [R.CHZ_SYNC_COUNT, R.ZC_n_BLOCKS]
  | .cctl => [R.CORE_c_CYCLES, R.CORE_c_STALLS, R.CORE_c_WORDS]
  | .time => [R.TIME_PTP_i_RX, R.TIME_PTP_i_TX]
  | .tdc => [R.TDC_n_CAPTURED]
  | .ddr => [R.DDR_c_SR_COUNT]
  | .dma => [R.DMA_k_BYTES, R.DMA_k_STALLS]
  | .eth => [R.ETH_STR_t_PKTS]
  | .disp => [R.DISP_FRAME_COUNT, R.DISP_LAYER_k_FENCE]
  | .hka => [R.HK_c_SEQ_COUNT, R.HK_PL_k_PASS]
  | _ => []

/-- What the register at window address `a` holds at reset where no other value is set (the register tables'
reset columns). -/
def resetOf (a : Nat) : Word :=
  match place a with
  | none => 0
  | some (b, i, o) =>
    match resetSpecial b i o with
    | some v => BitVec.ofNat 32 v
    | none => BitVec.ofNat 32 (match regAt b o with | some r => r.reset | none => 0)

end Sys2Proof.Machine
end

