-- ==== Sys2Proof/Machine/State.lean ====
section
/-! DEFINITION. The state of the S8G: the waiting commands, the registers the host reads (`regs`), the live sets
behind shadowed registers (`live`), the memories, and for each block the state its chapter gives it beside its
registers. Every record's field defaults are its reset values. -/

namespace Sys2Proof.Machine

/-- Why the block stops. No command ends in a fault: the spec gives every command an effect, and an access to an address
where nothing exists reads as zero or is ignored (R6). -/
inductive Fault where
  deriving DecidableEq, Repr

/-- Why a command has no meaning. -/
inductive Refusal where
  /-- Raised by the dispatch for a command that the model gives no meaning. Safe. -/
  | notModelled (mnemonic : String)
  deriving DecidableEq, Repr

/-- The configuration codes of R1 and R3. -/
inductive Part where
  | s8d | s4d | s2d
  deriving DecidableEq, Repr

/-- An event on its way to the fault collectors (R615, R616). -/
structure Event where
  source : Nat
  detail : Nat
  sts : Nat
  deriving DecidableEq, Repr

/-- Stream samples `first` to `last` that carry the status bits `bits` of R42 and R24. -/
structure Mark where
  first : Nat
  last : Nat
  bits : Nat
  deriving DecidableEq, Repr

/-- One direction of a die link (R20, R22). -/
structure LinkDir where
  /-- flit slots since the last VC0 and VC3 flit -/
  gap0 : Nat := 100
  gap3 : Nat := 50
  /-- credits left in the reserved pools -/
  cred0 : Nat := 8
  cred3 : Nat := 16
  /-- credits taken from the shared pool of VC1 and VC2 -/
  used : Nat := 0
  /-- number of the next flit -/
  next : Nat := 0
  /-- the retry buffer: flits sent and not acknowledged, oldest first, with their virtual channel -/
  retry : List (Nat × Nat) := []
  /-- flits on the wire, oldest first; the receiver's next flit number, and the flit it delivered last -/
  wire : List (Nat × Nat) := []
  expect : Nat := 0
  got : Option (Nat × Nat) := .none
  deriving DecidableEq, Repr

/-- A die link of R18. -/
structure Link where
  training : Bool := false
  trained : Bool := false
  /-- not trained in 10 ms: the far die is unusable until the next power-up (R25) -/
  failed : Bool := false
  /-- whether the link trained with its spare lane; its errors (R22); its two directions -/
  spareUsed : Bool := false
  errors : Nat := 0
  fwd : LinkDir := {}
  back : LinkDir := {}
  deriving DecidableEq, Repr

/-- What kind of calibration step is in progress (R55, R57, R63). -/
inductive StepKind where
  | none | run | idle | live
  deriving DecidableEq, Repr

/-- The phase the calibration is in beneath WAIT, HOLD and FROZEN (R64). -/
inductive CalPhase where
  | off | idle | run
  deriving DecidableEq, Repr

/-- The last estimates of a slot (R49): offset in LSB, power ratio p/c0, skew in femtoseconds. -/
structure Est where
  ofs : Rat := 0
  ratio : Rat := 1
  skew : Rat := 0
  deriving DecidableEq, Repr

/-- A trim triple: offset, gain and skew codes (R51). -/
structure Trims where
  ofs : Int := 0
  gain : Int := 0
  skew : Int := 0
  deriving DecidableEq, Repr

/-- Acquisition-die state beside its registers (chapter 2). -/
structure AcqSt where
  /-- the frame count has started (R594) and the number of the frame in progress -/
  counting : Bool := false
  frame : Nat := 0
  /-- EN as last acted on, and the stretches of frames in which the stream runs, newest first (R672) -/
  enabled : Bool := false
  spans : List (Nat × Option Nat) := []
  /-- gain code in force, the code waiting for the frame boundary, and the SETTLE frames left (R39) -/
  gain : Nat := 0
  gainNext : Option Nat := .none
  settling : Bool := false
  settleLeft : Nat := 0
  /-- the last flit sent: first stream sample and status bits (R42) -/
  flit : Option (Nat × Nat) := .none
  /-- frames at which the gain changed (R39, R47) -/
  gainAt : List Nat := []
  /-- sub-converter in each slot, default k in slot k (R43), and the slot the spare enters next (R44) -/
  slots : Tbl Nat := []
  nextSlot : Nat := 0
  /-- what the calibration does, and whether rotation has stopped because no spare remains (R63) -/
  phase : CalPhase := .off
  frozen : Bool := false
  /-- the frame with which the sub-window in progress starts (R47) -/
  subStart : Nat := 0
  /-- the step in progress and its slot; first frames of the qualifying sub-windows seen in it, oldest first -/
  step : StepKind := .none
  slot : Nat := 0
  subs : List Nat := []
  /-- the verification (R56): the frame from which the spare's trims stand, first frames of the qualifying sub-windows
  since, whether it has passed, attempts; idle-step verifications failed in VERIFY mode (R73) -/
  verFrom : Nat := 0
  verSubs : List Nat := []
  verified : Bool := false
  retries : Nat := 0
  verifyFails : Nat := 0
  /-- the estimation window of the step is complete, and the FRC value at which it was; whether the step lacks
  sub-windows (R47, R58, R59) -/
  windowDone : Bool := false
  doneAt : Option Nat := .none
  waiting : Bool := false
  /-- the displaced sub-converter whose trims the step is to update -/
  displaced : Option Nat := .none
  /-- steps of the run in progress that have completed, and whether ABORT ends it -/
  runSteps : Nat := 0
  abort : Bool := false
  /-- the cause that arose first during a run, and during an idle step (R54, R57) -/
  rerunCause : Option Nat := .none
  idleCause : Option Nat := .none
  /-- a run has completed, and the last estimates by slot (R49) -/
  ranOnce : Bool := false
  est : Tbl Est := []
  /-- failed sub-converters waiting for the frame boundary, with the first sample affected (R61) -/
  failing : List (Nat × Nat) := []
  /-- failed sub-converters that stay in service (R63) -/
  degraded : List Nat := []
  /-- the shared-signal skew measurement is in progress, from this stream sample on (R69) -/
  xskew : Option Nat := .none
  /-- the frame from which samples are lost after a loss of sample-clock lock (R583) -/
  lostAt : Option Nat := .none
  /-- factory trims of each sub-converter at 25 and 85 degrees (R66) -/
  fact25 : Tbl Trims := []
  fact85 : Tbl Trims := []
  deriving DecidableEq, Repr

/-- JESD204C receiver state beside its registers: arrival of each locked lane (R77). -/
structure JrxSt where
  arrival : Tbl Nat := []
  /-- FRC value of the SYSREF edge that started the LEMC (R594) -/
  lemc : Option Nat := .none
  /-- index of the next stream sample; the first sample lost while the lanes realign (R79) -/
  next : Nat := 0
  lostFrom : Option Nat := .none
  deriving DecidableEq, Repr

/-- A domain base beside its registers (R674): FRC value, offset and device time less all steps of its previous update,
the latest offset, and the FRC value at which it last became LOCKED. -/
structure BaseSt where
  last : Option (Nat × Int × Int) := .none
  ofs : Int := 0
  since : Nat := 0
  deriving DecidableEq, Repr

/-- The best Announce a PTP port holds (R422): what the data set comparison compares, in order, and its sender. -/
structure PtpBest where
  rank : List Nat
  sender : Nat
  deriving DecidableEq, Repr

/-- A PTP port of an instance beside its registers (R422, R423): best Announce, the last Sync's times (sent, received,
its corrections), and the FRC value at which a delay request left that is not yet answered. -/
structure PtpPort where
  best : Option PtpBest := .none
  sync : Option (Int × Int × Int) := .none
  req : Option Nat := .none
  /-- FRC values at which the last Sync and the last Announce arrived (R14) -/
  syncAt : Option Nat := .none
  annAt : Option Nat := .none
  deriving DecidableEq, Repr

/-- A PTP message that left a port (R425): port, instance, message type, originTimestamp, correctionField, and the
clockClass an Announce carries. -/
structure PtpOut where
  port : Nat
  inst : Nat
  kind : Nat
  origin : Nat
  corr : Nat
  cls : Nat
  deriving DecidableEq, Repr

/-- Time-base state beside its registers (chapter 12). One unit of FRC is 0.78125 ns (R408). Device times and
corrections are exact in 2^-60 ns / 10^6, of which a slewed FRC unit is a whole number; rates are in 2^-44 / 10^6. -/
structure TimeSt where
  /-- the counter has started; `alt` alternates the step it takes on AOCLK (R409) -/
  run : Bool := false
  alt : Bool := false
  /-- FRC (R408), and device time at the FRC value from which the present rates hold -/
  frc : Nat := 0
  baseT : Int := 0
  baseR : Nat := 0
  /-- the servo rate in force and as decided, in 2^-44, and the slew term in force -/
  rate : Int := 0
  rateD : Int := 0
  sl : Int := 0
  rem : Int := 0
  /-- what the slew interval in progress takes off REM when it ends, or that it ends the slew (R413) -/
  owed : Int := 0
  lastIv : Bool := false
  /-- where the interval ends or the slew starts; rate changes decided, with their r1; the step decided (R412, R415) -/
  slewAt : Option Nat := .none
  rates : List (Nat × Int) := []
  step : Option (Nat × Int) := .none
  /-- all steps so far; what TIME_STEP_LOG shows: r1, time before, time after (R415) -/
  stepSum : Int := 0
  stepLog : Nat × Int × Int := (0, 0, 0)
  /-- the base that is selected, and the bases beside their registers (R420) -/
  selected : Option Nat := .none
  bases : Tbl BaseSt := []
  /-- the mailbox values TIME_HOST, TIME_CLOCK_ID and TIME_GM_ID (R649) -/
  hostTime : Nat := 0
  clockId : Option Nat := .none
  gmId : Nat := 0
  /-- PTP ports, by 2 * instance + port -/
  ports : Tbl PtpPort := []
  /-- PTP messages that left, newest last -/
  sent : List PtpOut := []
  /-- FRC value of the SYSREF edge that started each input's frame count (R428), and of the JRX release (R429) -/
  rs0 : Option Nat := .none
  rs1 : Option Nat := .none
  rl : Option Nat := .none
  deriving DecidableEq, Repr

/-- A detection interval in progress or closed (R112, R113): its number, the spectra it holds, the OR of their flags,
the first and last spectrum index, the time of the first frame, and per bin the power and level statistics. -/
structure Det where
  iv : Nat := 0
  n : Nat := 0
  flags : Nat := 0
  first : Nat := 0
  last : Nat := 0
  sts : Nat := 0
  /-- first stream sample of the last spectrum's frame -/
  lastStart : Nat := 0
  pw : List Rat := []
  lv : List Int := []
  deriving DecidableEq, Repr

/-- A trace in progress (R115): its number, how many detected spectra it holds, and their statistics. -/
structure TraceAcc where
  tr : Nat := 0
  ivs : Nat := 0
  det : Det := {}
  deriving DecidableEq, Repr

/-- Stream samples `first` to `last` whose spectra carry the flag bits `bits` (R97). -/
abbrev Zone := Mark

/-- A sample of the output resampler (R121 to R124): components in the format chosen, and its flags in the bits of R110. -/
structure RsSample where
  i : Int
  q : Int
  flags : Nat
  deriving DecidableEq, Repr

/-- A wide-band setting as spectra are computed under it: LOG2N, overlap, window, detector, D, L, domain, whether scaling is
fixed and its shift, the spectrum output and its decimation, the start of its first frame and that frame's index (R99 to
R115), and the user window in force. -/
structure WbSet where
  log2n : Nat
  overlap : Nat
  window : Nat
  det : Nat
  d : Nat
  l : Nat
  domain : Nat
  fixed : Bool
  shift : Nat
  out : Nat
  every : Nat
  baseStart : Nat
  baseIdx : Nat
  tab : Tbl Word
  deriving DecidableEq, Repr

/-- A spectrum that a pipeline fault removed: its index, first sample and setting (R119). -/
structure LostSpec where
  idx : Nat
  start : Nat
  set : WbSet
  deriving DecidableEq, Repr

/-- A trace that a pipeline fault left without some of its spectra (R119): its first spectrum, how many it asks for, the
time and sample it starts at, and its setting. -/
structure TraceLack where
  first : Nat
  n : Nat
  sts : Nat
  start : Nat
  set : WbSet
  deriving DecidableEq, Repr

/-- A mask that the planner is to build (R166): its table, its margin in dB16, LEN of its rate preset, and the trace it is
built from once that has gone out. -/
structure AutoMask where
  table : Nat
  margin : Int
  len : Nat
  trace : Option (List Int) := .none
  deriving DecidableEq, Repr

/-- Wide-band state of an input beside its registers, held for the lead die (chapter 3). -/
structure WbSt where
  /-- the stream runs, and its first sample -/
  running : Bool := false
  start : Nat := 0
  /-- the scheduled switch sample, or that one is to be scheduled when the stream starts (R92) -/
  sw : Option Nat := .none
  waitStart : Bool := false
  /-- TUNE as each switch left it, newest first, by switch sample, and before them (R87, R97) -/
  tunes : List (Nat × Nat) := []
  tune0 : Nat := 274877906944
  /-- WB_PIPE_MAP as each write left it, newest first, by the sample from which frames take it (R98) -/
  pipes : List (Nat × Nat) := []
  /-- the setting in force: its first frame's start, that frame's spectrum index, and for each die of the pair the index
  after the last spectrum it has computed -/
  baseStart : Nat := 0
  baseIdx : Nat := 0
  doneLead : Nat := 0
  donePartner : Nat := 0
  /-- index of the next spectrum, and of the next one that goes on to the consumers that take them in order -/
  nextIdx : Nat := 0
  relIdx : Nat := 0
  /-- stretches of the stream around switches (R92, R94) -/
  zones : List Zone := []
  /-- detection in progress on the lead die and on the partner; closed ones that wait for each other; the trace in
  progress -/
  detLead : Det := {}
  detPartner : Det := {}
  parts : List Det := []
  trace : TraceAcc := {}
  /-- spectra that pipeline faults removed, and the traces that lack them (R119) -/
  lost : List LostSpec := []
  incomplete : List TraceLack := []
  /-- detected spectra that the trigger conditions with SRC = 1 have yet to see (R134) -/
  detOut : List Det := []
  /-- first stream sample of the resampler's run, the number of its next sample, and the samples it has given (R121 to
  R124) -/
  rsStart : Nat := 0
  rsNext : Nat := 0
  rsOut : List RsSample := []
  /-- masks to be built from the input's first trace (R166) -/
  auto : List AutoMask := []
  deriving DecidableEq, Repr

/-- A ring of like items in a hub's capture memory. -/
structure ItemRing where
  base : Nat := 0
  size : Nat := 0
  count : Nat := 0
  next : Nat := 0
  deriving DecidableEq, Repr

/-- What made a set of conditions fire (R149): the conditions by global number, the external sources, the flags of
R154, and the window a network message asks for (R155). -/
structure Fire where
  cause : Nat := 0
  xsrc : Nat := 0
  flags : Nat := 0
  pre : Nat := 0
  post : Nat := 0
  sender : Nat := 0
  deriving DecidableEq, Repr

/-- An entry of the fabric's log of hits and state changes (R152): source 0 to 31 is a condition of the pair,
32 + 8 * u + b external source b of unit u. -/
structure TrgEntry where
  at_ : Nat
  src : Nat
  hit : Bool
  state : Option Bool := .none
  flags : Nat := 0
  pre : Nat := 0
  post : Nat := 0
  sender : Nat := 0
  /-- for a NET hit the message's INPUT, UNIT and SEQ as one number (R157) -/
  id : Nat := 0
  deriving DecidableEq, Repr

/-- A trigger event (R154), with the network window of its NET hit. -/
structure TrgEvent where
  input : Nat
  unit : Nat
  primary : Nat
  sample : Nat
  fire : Fire
  sts : Nat
  seq : Nat
  deriving DecidableEq, Repr

/-- A trigger unit's state (R145 to R149, R158). -/
structure TrgUnit where
  /-- the held firing of A and its sample -/
  held : Option (Nat × Fire) := .none
  /-- events issued: sample and first sample after the holdoff -/
  ends : List (Nat × Nat) := []
  /-- the last messages accepted, newest first: sender, input, unit, SEQ -/
  seen : List (Nat × Nat × Nat × Nat) := []
  deriving DecidableEq, Repr

/-- A condition's evaluation state: violating and passing runs (R133), and the state of a LEVEL, ZOOM, MASK or
BANDPOWER condition. -/
structure CondSt where
  state : Bool := false
  runOn : Nat := 0
  runOff : Nat := 0
  /-- the next stream sample a LEVEL or WIDTH condition judges; for WIDTH the LEVEL state and its pulse's first sample
  (R137, R138) -/
  next : Nat := 0
  level : Bool := false
  pulse : Nat := 0
  deriving DecidableEq, Repr

/-- A TRG set in force for samples below `upTo`: the registers and mask tables (R161, R162). -/
structure TrgOld where
  upTo : Nat
  regs : Tbl Word
  tabs : Tbl Word
  deriving DecidableEq, Repr

/-- What a spectrum brings its consumers: its die and lead die, index, first sample, size, flags, time, powers and
levels. -/
structure SpecInfo where
  die : Nat
  lead : Nat
  idx : Nat
  start : Nat
  n : Nat
  flags : Nat
  sts : Nat
  pw : List Rat
  lv : List Int
  deriving DecidableEq, Repr

/-- A spectrum on its way to the consumers that take spectra in index order (R130, R196), with what each spectral condition
finds: whether it violates or is above, passes or is below, or neither. -/
structure SpecResult where
  i : SpecInfo
  judged : List (Nat × Option Bool)
  deriving DecidableEq, Repr

/-- The trigger fabric of an input beside its registers, held for the lead die (chapter 4). -/
structure TrgSt where
  /-- the first sample not yet evaluated, and the first that the log covers -/
  evaluated : Nat := 0
  floor : Nat := 0
  /-- the log in sample order, and the states before it -/
  log : List TrgEntry := []
  base : List Nat := []
  /-- hits that arrived late, with whether the log covered them -/
  late : List (TrgEntry × Bool) := []
  /-- trigger units, and conditions by their number in the pair -/
  units : Tbl TrgUnit := []
  conds : Tbl CondSt := []
  /-- switch sample, and that one is to be scheduled when the stream starts -/
  sw : Option Nat := .none
  waitStart : Bool := false
  /-- the last switch sample while PENDING, and whether spectra and detected spectra from it on have been evaluated -/
  lastSw : Option Nat := .none
  specSince : Bool := false
  detSince : Bool := false
  /-- the sets in force for earlier samples -/
  old : List TrgOld := []
  /-- events for the record engine, messages for the hub, and repeats still to send -/
  events : List TrgEvent := []
  /-- the event items as the fabric has sent them (R154), and judged spectra that wait for the other die's (R130) -/
  sentItems : List (List Byte) := []
  results : List SpecResult := []
  outbox : List (List Byte × Nat) := []
  repeats : List (List Byte × Nat) := []
  deriving DecidableEq, Repr

/-- The Tarn of an input (R169, R173): base in bytes and depth as latched at its start, first sample received, the block
to be written next, and the die that forwards the stream (R28). -/
structure TarnSt where
  run : Bool := false
  base : Nat := 0
  depth : Nat := 16
  first : Nat := 0
  next : Nat := 0
  src : Nat := 0
  deriving DecidableEq, Repr

/-- A segment whose copy is in progress (R179, R180): its event and number, the samples it is to hold, its flags, the
samples copied so far, whether the Tarn has overtaken the copy (R175), and the bytes of it staged (R187). -/
structure RecSeg where
  ev : TrgEvent
  segno : Nat
  start : Nat
  len : Nat
  req : Nat
  flags : Nat
  xs : List (Int × Int) := []
  overrun : Bool := false
  staged : Nat := 0
  deriving DecidableEq, Repr

/-- An open block of the change-only ring (R197): entries in order, the last spectrum covered. -/
structure CoBlock where
  first : Nat
  sts : Nat
  last : Nat
  flags : Nat := 0
  entries : List (List Byte) := []
  deriving DecidableEq, Repr

/-- The change-only generator (R195 to R198): settings as read at the enable, bins ON, the open block, the ring
position, and what the next block must begin with. -/
structure CoSt where
  run : Bool := false
  src : Nat := 0
  table : Nat := 0
  hyst : Nat := 0
  first : Nat := 0
  last : Nat := 0
  on : List Nat := []
  blk : Option CoBlock := .none
  pos : Nat := 0
  restart : Bool := false
  dropped : Bool := false
  /-- ON bins still to be listed as snapshot entries -/
  snap : List Nat := []
  deriving DecidableEq, Repr

/-- Record-engine state of an input beside its registers (chapter 5). -/
structure RecSt where
  /-- the Tarn; segments whose copies are in progress, the number of the next, segments of the acquisition and bytes
  of a slot, the acquisition's number, and whether STOP ends it -/
  tarn : TarnSt := {}
  segs : List RecSeg := []
  nextSeg : Nat := 0
  m : Nat := 0
  slot : Nat := 0
  acqNo : Nat := 0
  stopping : Bool := false
  /-- the sample the fabric must reach before the units are armed again -/
  rearm : Option Nat := .none
  /-- STREAM mode: bytes written to the staging ring, and whole sectors handed to its source -/
  stageWr : Nat := 0
  stageRd : Nat := 0
  /-- the change-only generator -/
  co : CoSt := {}
  deriving DecidableEq, Repr

/-- A density frame (R211, R220): its number and first spectrum, the spectra that have come and those counted, flags, the
time of the first one counted, and whether no counts of the partner die are still to come (R223). -/
structure DensFrame where
  f : Nat := 0
  first : Nat := 0
  seen : Nat := 0
  count : Nat := 0
  flags : Nat := 0
  sts : Nat := 0
  whole : Bool := false
  deriving DecidableEq, Repr

/-- Counts of the partner die on their way to the lead die (R223). -/
structure DensPart where
  frame : DensFrame
  counts : Tbl Nat
  deriving DecidableEq, Repr

/-- A spectrogram row in progress (R216, R224): its number, the spectra that have come, and the reductions of the lead die
and of the partner die so far. -/
structure DensRow where
  j : Nat := 0
  seen : Nat := 0
  det : Det := {}
  pdet : Det := {}
  deriving DecidableEq, Repr

/-- The spectrogram settings rows are made under (R216 to R220). -/
structure SgSet where
  r : Nat
  det : Nat
  cdec : Nat
  index8 : Bool
  skip : Bool
  first : Nat
  last : Nat
  floor : Int
  step : Nat
  base : Nat
  rows : Nat
  deriving DecidableEq, Repr

/-- A frame or row on its way to capture memory: its number, first spectrum, address and bytes (R220). -/
structure DensOut where
  n : Nat
  first : Nat
  addr : Nat
  bytes : List Byte
  deriving DecidableEq, Repr

/-- A row that was output without all of its spectra (R226): its number, first spectrum, how many it asks for, its settings,
its slot, and whether a later row has reused that. -/
structure DensLack where
  j : Nat
  first : Nat
  n : Nat
  set : WbSet
  sg : SgSet
  addr : Nat
  size : Nat
  reused : Bool := false
  deriving DecidableEq, Repr

/-- Density and spectrogram state of an input beside its registers, held for the lead die (chapter 6). Counts are keyed
by row * W + column. -/
structure DensSt where
  /-- counts of the lead die up to the oldest frame not yet taken -/
  counts : Tbl Nat := []
  /-- frames that have ended and wait for counts of the partner die, oldest first, each with the counts after it -/
  ended : List (DensFrame × Tbl Nat) := []
  /-- counts of the partner die; the frames in progress on the two dies; counts on their way -/
  partner : Tbl Nat := []
  frame : DensFrame := {}
  pframe : DensFrame := {}
  sent : List DensPart := []
  /-- the next frame taken carries CLEARED (R213) -/
  cleared : Bool := false
  /-- the row in progress -/
  row : DensRow := {}
  /-- first spectrum of the setting; whether the next spectrum starts one, and after which sample a frame of it starts if
  that is not the wide-band setting's first (R228) -/
  mS : Nat := 0
  fresh : Bool := true
  after : Option Nat := .none
  /-- the sample received at the hand-over whose set is not yet in force -/
  handedAt : Option Nat := .none
  /-- a rate of the image key fell outside F or R: the hand-over sets CLAMP (R232) -/
  rateClamp : Bool := false
  /-- frames and rows taken and not yet in memory -/
  frames : List DensOut := []
  rows : List DensOut := []
  /-- rows output without all of their spectra (R226) -/
  lacking : List DensLack := []
  deriving DecidableEq, Repr

/-- A sample word at an input port of a channel core (R260, R300): I, Q, the tags of R301 without PORT, and the stream
sample it is referred to (R256). -/
structure PortWord where
  i : Int
  q : Int
  tags : Nat
  j : Int
  deriving DecidableEq, Repr

/-- Who wrote a core register, as R281 and R324 distinguish them. -/
inductive WKind where
  | alu | move | load | mac | acc | post
  deriving DecidableEq, Repr

/-- A recent write of a core register: instructions issued since, bank and register, the bits written and their value,
and the register before it (R281). -/
structure CoreWrite where
  age : Nat := 0
  bank : Nat
  reg : Nat
  mask : Nat
  val : Nat
  old : Nat
  kind : WKind
  deriving DecidableEq, Repr

/-- A level of the loop stack (R285). -/
structure CoreLoop where
  ls : Nat
  le : Nat
  lc : Nat
  deriving DecidableEq, Repr

/-- An output port of a core (R303, R304): words in the buffer, the open block, words and blocks since the start, and
closed blocks not yet in memory. -/
structure CoreOut where
  level : Nat := 0
  words : List Nat := []
  first : Nat := 0
  inJ : Int := 0
  flags : Nat := 0
  total : Nat := 0
  blocks : Nat := 0
  closed : List (Nat × List Byte) := []
  deriving DecidableEq, Repr

/-- A channel core beside its registers in the window (chapters 8 and 9). Register `code` of bank `b` is `regs` entry
128 * b + code under the codes of R308; AC0 and AC1 are held whole under 0x10 and 0x13. -/
structure CoreSt where
  /-- registers; the bank in use; PC, IRA, IEN, IPEND, the timer and DBR; the loop stacks of the two banks, innermost
  first -/
  regs : Tbl Nat := []
  bank : Nat := 0
  pc : Nat := 0
  ira : Nat := 0
  ien : Nat := 0
  ipend : Nat := 0
  tmr : Nat := 0
  dbr : Nat := 0
  loops0 : List CoreLoop := []
  loops1 : List CoreLoop := []
  /-- writes that an instruction may still not see, oldest first, and those of the instruction in hand -/
  recent : List CoreWrite := []
  fresh : List CoreWrite := []
  /-- recent moves into LC: age, bank, level counted from the outermost, LC before -/
  lcMoves : List (Nat × Nat × Nat × Nat) := []
  /-- recent stores: age, address, word before -/
  stores : List (Nat × Nat × Nat) := []
  /-- delay slots still to issue, and where fetch goes after them -/
  slots : Nat := 0
  target : Option Nat := .none
  /-- the jump in its delay slots returns from an interrupt -/
  reti : Bool := false
  /-- no instruction has issued since RUN was written -/
  resumed : Bool := false
  /-- words at the input ports (R260, R300) -/
  inp : Tbl (List PortWord) := []
  /-- J of each port read since the start, with REPAIRED of its word, and J of the last port read -/
  jport : List (Nat × Int × Bool) := []
  lastJ : Int := 0
  /-- words read since the start (R317); the event queue; output ports -/
  reads : Nat := 0
  evq : List (Nat × Nat) := []
  outs : Tbl CoreOut := []
  /-- live words in the catch-up buffer, with their port (R314) -/
  catchup : List (Nat × PortWord) := []
  /-- a repair has taken the core out of service (R314) -/
  retired : Bool := false
  deriving DecidableEq, Repr

/-- A block of a zoom channel (R263, R265): first output and its time, flags, invalid outputs at its start, the
samples, and the format, shift and size it was opened with. -/
structure ZoomBlock where
  first : Nat
  sts : Nat
  flags : Nat := 0
  invalid : Nat := 0
  fmt : Bool := false
  shift : Nat := 0
  blk : Nat := 12
  data : List (Int × Int) := []
  deriving DecidableEq, Repr

/-- The run of a zoom channel that its rebuilt outputs belong to (R266, R267): its first band sample and number, the band
samples at which settings took effect without a reset, and FREQ as each left it, newest first. -/
structure ZoomRun where
  uS : Nat := 0
  runs : Nat := 0
  changes : List Nat := []
  freqs : List (Nat × Int) := []
  deriving DecidableEq, Repr

/-- A zoom channel beside its registers (chapter 7). -/
structure ZoomSt where
  /-- the run in progress: band sample it started at, and its next output -/
  run : Bool := false
  uS : Nat := 0
  v : Nat := 0
  /-- synchronising resets since power-up -/
  runs : Nat := 0
  /-- band samples of the run at which new settings took effect without a reset -/
  changes : List Nat := []
  /-- FREQ of the run from a band sample on, newest first (R242, R253) -/
  freqs : List (Nat × Int) := []
  /-- switch points scheduled for a hand-over and for resets; those that wait for the stream to start -/
  sw : Option Nat := .none
  syncs : List Nat := []
  waitSw : Bool := false
  waitSync : Bool := false
  /-- a word was discarded since the last one delivered -/
  gap : Bool := false
  /-- detector window: outputs seen, highest power and its output, sum and number of valid outputs -/
  wN : Nat := 0
  wPk : Nat := 0
  wPkV : Nat := 0
  wSum : Nat := 0
  wValid : Nat := 0
  /-- envelope magnitude in 2^-32 -/
  env : Nat := 0
  /-- the open block, and the one that the replay path rebuilds (R266) -/
  blk : Option ZoomBlock := .none
  rebuilt : Option ZoomBlock := .none
  /-- blocks closed so far, and those not yet in memory: block number, its slot's size, bytes -/
  blkNo : Nat := 0
  closed : List (Nat × Nat × List Byte) := []
  /-- the channel has failed, the run whose outputs are rebuilt, and where its settings have gone -/
  failed : Bool := false
  movedTo : Option Nat := .none
  old : ZoomRun := {}
  deriving DecidableEq, Repr

/-- A fault whose repair is under way (R355): its source and detail. -/
structure Repair where
  source : Nat
  detail : Nat
  deriving DecidableEq, Repr

/-- The repairs of a hub (R355): faults not yet placed, the replay in progress, and the replays that wait. -/
structure RepairSt where
  faults : List Repair := []
  active : Option Repair := .none
  queue : List Repair := []
  deriving DecidableEq, Repr

/-- An event-timing input beside its registers (chapter 13). Stamps count 1/256 FRC units. -/
structure TdcIn where
  /-- SEQ of the next edge, the stamp of the last edge, edges left of an ARM count, and whether the input settles
  after a change of its settings -/
  seq : Nat := 0
  last : Option Nat := .none
  armLeft : Nat := 0
  settle : Bool := false
  /-- presence: stamp of the last captured edge while expected, and consecutive edges in time -/
  presLast : Option Nat := .none
  presCount : Nat := 0
  /-- the gate's times OPEN and CLOSE, as STS (R442) -/
  gateOpen : Nat := 0
  gateClose : Nat := 0
  /-- queue entries as 128-bit numbers, oldest first -/
  fifo : List Nat := []
  afterOvf : Bool := false
  deriving DecidableEq, Repr

/-- An edge held by an interval unit (R447): whether it is a START, its time in 2^-16 ns, SEQ, COARSE, and its input. -/
structure HeldEdge where
  start : Bool
  time : Int
  seq : Nat
  coarse : Bool
  input : Nat
  deriving DecidableEq, Repr

/-- An interval unit beside its registers (R447, R448). -/
structure IvUnit where
  held : Option HeldEdge := .none
  fifo : List Nat := []
  afterOvf : Bool := false
  deriving DecidableEq, Repr

/-- A read in a channel's read queue (R499): source, address, and the FRC value at which it came. -/
structure DdrRead where
  source : Nat
  addr : Nat
  at_ : Nat
  deriving DecidableEq, Repr

/-- A DDR-5 channel beside its registers (chapter 15). -/
structure DdrSt where
  reads : List DdrRead := []
  /-- writes accepted and not yet issued to the devices: source and address -/
  writes : List (Nat × Nat) := []
  /-- writes only are served until the queue has fallen to LOW (R499) -/
  draining : Bool := false
  /-- corrected codewords of the last second: component and FRC value (R497) -/
  ce : List (Nat × Nat) := []
  /-- FRC values of the last request, the last retrain and the self-refresh commitment -/
  served : Nat := 0
  trained : Nat := 0
  entered : Nat := 0
  /-- the unit the scrubber reads next, and the grade the channel trained at -/
  scrub : Nat := 0
  grade : Nat := 0
  /-- a release has been commanded and its training has not ended; the channel is being zeroed (R509) -/
  releasing : Bool := false
  zeroing : Bool := false
  /-- address and STS of the freeze (R506) -/
  freezeAddr : Nat := 0
  freezeSts : Nat := 0
  /-- what the last read served returned, and whether it was marked POISON -/
  out : List Byte := []
  poison : Bool := false
  /-- reads and writes served since the last 1 ms step (R511) -/
  readN : Nat := 0
  writeN : Nat := 0
  deriving DecidableEq, Repr

/-- A run of consecutive sectors of one recording in a row (R463, R465): recording, first sector in it, sectors, and
first sector in the row's payload. -/
structure Extent where
  num : Nat
  offset : Nat
  count : Nat
  start : Nat
  deriving DecidableEq, Repr

/-- A sealed row (R457, R464): its number, place, dies, header, and whether it and its parity are confirmed. `old` is
the row it was relocated from. -/
structure NandRow where
  seq : Nat
  group : Nat
  sb : Nat
  row : Nat
  dies : List Nat
  extents : List Extent
  flags : Nat
  header : List Byte
  sealedAt : Nat
  patrolled : Nat
  passed : Bool := false
  old : Option Nat := .none
  deriving DecidableEq, Repr

/-- A row being filled (R463): its place, dies, room in sectors, extents, and the FRC value at which it opened. -/
structure NandOpen where
  group : Nat
  sb : Nat
  row : Nat
  dies : List Nat
  room : Nat
  used : Nat := 0
  extents : List Extent := []
  opened : Nat
  deriving DecidableEq, Repr

/-- A superblock (R457, R471): its program/erase count, whether it holds data, whether it is out of service, and page
reads since it was programmed (R473). -/
structure NandSuper where
  pe : Nat := 0
  inUse : Bool := false
  retired : Bool := false
  reads : Nat := 0
  deriving DecidableEq, Repr

/-- A stripe group (R456): its dies, and the superblock being filled with its next row. -/
structure NandGroup where
  dies : List Nat
  filling : Option (Nat × Nat) := .none
  deriving DecidableEq, Repr

/-- A recording in the catalogue (R461): source, state code, flags, open and close STS, and its counts where the source's
registers no longer show them. -/
structure NfsRec where
  num : Nat
  source : Nat
  state : Nat := 1
  protect : Bool := false
  unclean : Bool := false
  loss : Bool := false
  openSts : Nat
  closeSts : Nat := 0
  wptr : Nat := 0
  rptr : Nat := 0
  safe : Nat := 0
  /-- power ended before it was closed (R480) -/
  orphan : Bool := false
  deriving DecidableEq, Repr

/-- A flash store beside its registers (chapter 14). The catalogue is in the order of opening. `sectors` holds the
sectors that the store has taken, by recording * 2^32 + sector. -/
structure NfsSt where
  /-- the LUNs found at the mount, with their properties (R455) -/
  luns : List NandLun := []
  /-- sum of the channels' rates in MT/s, dies failed, and consecutive failed operations of each die -/
  rates : Nat := 0
  failed : List Nat := []
  fails : Tbl Nat := []
  /-- whether the media hold a format, and whether it was closed cleanly (R479) -/
  formatted : Bool := false
  clean : Bool := true
  /-- what the format fixed: planes * bits per cell, rows and blocks -/
  unit : Nat := 12
  rowsPer : Nat := 512
  supersPer : Nat := 0
  /-- stripe groups; spare blocks of each die; superblocks; sealed rows; the number of the next row; the row being
  filled; the group whose turn it is; the catalogue; sectors taken -/
  groups : List NandGroup := []
  spares : Tbl Nat := []
  supers : Tbl NandSuper := []
  rows : List NandRow := []
  rowSeq : Nat := 0
  filling : Option NandOpen := .none
  turn : Nat := 0
  cat : List NfsRec := []
  sectors : Tbl (List Byte) := []
  /-- recording each source's registers show; sources with fewer than 64 sectors that have waited; the round-robin place -/
  shown : Tbl Nat := []
  waited : Tbl Nat := []
  rr : Nat := 0
  /-- groups whose rebuild is under way, oldest first (R475) -/
  rebuilding : List Nat := []
  /-- media key, encryption mode and host secret at the format, and the secret the host has written (R477) -/
  key : Nat := 0
  crypto : Nat := 1
  wrapped : List Byte := []
  secret : List Byte := []
  /-- a recording to be deleted once the read-back in progress ends -/
  delAfter : Option Nat := .none
  /-- the catalogue entry shown: open and close STS -/
  catOpen : Nat := 0
  catClose : Nat := 0
  /-- nfs.format = NEVER -/
  neverFormat : Bool := false
  /-- failed UNLOCK commands since the reset (R477), and a cryptographic erase that power cut, which the next mount
  completes (R478) -/
  unlockFails : Nat := 0
  eraseDue : Bool := false
  /-- writes waiting for the throttle since this FRC value (R367, R368) -/
  throttled : Option Nat := .none
  deriving DecidableEq, Repr

/-- A synthesiser of a CLK block beside its registers (R585 to R590): a relock in progress since an FRC value, its loop
not yet restarted, counter windows passed in a row and whether the counter check passes, whether it has ever locked, and
the modulator's accumulators and LFSR as last loaded. -/
structure Synth where
  relocking : Bool := false
  restart : Bool := false
  since : Nat := 0
  good : Nat := 0
  pass : Bool := false
  ever : Bool := false
  acc : List Nat := [0, 0, 0]
  lfsr : Nat := 0
  deriving DecidableEq, Repr

/-- A CLK block beside its registers (chapter 19): SYS and OUT, presence windows passed in a row by each reference, the
FRC value since which REFIN0 has been present, and the SYSREF edges a sequence has still to send on the outputs. -/
structure ClkSt where
  sys : Synth := {}
  out : Synth := {}
  good0 : Nat := 0
  good1 : Nat := 0
  since0 : Option Nat := .none
  sysref : Nat := 0
  deriving DecidableEq, Repr

/-- A converter beside its registers (R602 to R605): a trigger waits out its delay, or a sequence runs; the entry being
converted with the channel and gain it began with. -/
structure HkSt where
  waits : Bool := false
  runs : Bool := false
  entry : Nat := 0
  chan : Nat := 31
  gain : Nat := 0
  deriving DecidableEq, Repr

/-- A pair check beside its registers (R608, R609): the side that opened the window and its code, and failures and
passes in a row. -/
structure PairSt where
  waiting : Option (Nat × Nat) := .none
  fails : Nat := 0
  passes : Nat := 0
  deriving DecidableEq, Repr

/-- A PWM output beside its registers: the period and duty in force (R611). -/
structure PwmSt where
  period : Nat := 6400
  duty : Nat := 0
  deriving DecidableEq, Repr

/-- A display output beside its registers (chapter 18): the timing fields as read at the enable (HACTIVE, VACTIVE, VFP,
VSYNC, VBP, VFP_MAX), the line being sent, whether the sink reports Adaptive-Sync, front-porch lines of the frame once it
is released, the layers whose commit came late and waits one frame more, the line buffers of the layers (newest first:
source line and bytes), and the pixels of the line being sent. -/
structure DispSt where
  hact : Nat := 64
  vact : Nat := 64
  vfp : Nat := 1
  vsync : Nat := 1
  vbp : Nat := 1
  vfpMax : Nat := 1
  line : Nat := 0
  adaptive : Bool := false
  porch : Option Nat := .none
  late : Nat := 0
  bufs : Tbl (List (Nat × List Byte)) := []
  sent : List Nat := []
  deriving DecidableEq, Repr

/-- An address register of a DMA channel (R515). -/
structure DmaAr where
  base : Nat := 0
  size : Nat := 0
  off : Nat := 0
  deriving DecidableEq, Repr

/-- A DMA channel beside its registers (chapter 16): address registers; loop levels, innermost first (start, END, COUNT);
the words of the instruction in progress; bytes or entries of it done; whether it waits on its line; bytes or entries
left of a burst that has started; and whether it stops once that burst completes. -/
structure DmaSt where
  ars : Tbl DmaAr := []
  loops : List (Nat × Nat × Nat) := []
  insn : Option (List Nat) := .none
  done : Nat := 0
  waiting : Bool := false
  burst : Option Nat := .none
  stopping : Bool := false
  deriving DecidableEq, Repr

/-- An item, or what is left of it, in a stream's queue: its bytes, whether part of it is in a packet already, bytes
discarded before it, and whether it follows a discard for room (R544) or begins a resynchronised packet (R547). -/
structure EthItem where
  data : List Byte
  begun : Bool := false
  gap : Nat := 0
  dropped : Bool := false
  resync : Bool := false
  deriving DecidableEq, Repr

/-- A packet of a stream that waits for transmission, with the settings it was formed under: UDP payload, whether a
native header holds TX_STS, addresses, VLAN priority and sub-port. -/
structure EthPkt where
  body : List Byte
  native : Bool
  v6 : Bool
  dst : Nat
  mac : Nat
  sport : Nat
  dport : Nat
  pcp : Nat
  sub : Nat
  deriving DecidableEq, Repr

/-- A zoom-channel block being sent as VITA 49.2 packets (R548): its header, samples sent and left. -/
structure VrtBlock where
  head : List Byte
  sent : Nat
  left : Nat
  deriving DecidableEq, Repr

/-- An Ethernet stream beside its registers (R541 to R548). `resolved` is the destination last resolved and its MAC
address; `ctx` the context last sent for each channel. -/
structure EthStr where
  items : List EthItem := []
  pkts : List EthPkt := []
  seq : Nat := 0
  offset : Nat := 0
  gap : Nat := 0
  dropped : Bool := false
  resync : Bool := false
  skip : Bool := false
  resolved : Option (Bool × Nat × Nat) := .none
  vrt : Option VrtBlock := .none
  ctx : Tbl (List Nat) := []
  dataCount : Nat := 0
  ctxCount : Nat := 0
  dst6 : Nat := 0
  deriving DecidableEq, Repr

/-- An operation of a management request (R550); `done` once it has run or been refused. -/
structure MgmtOp where
  op : Nat
  status : Nat
  arg : Nat
  addr : Nat
  data : Nat
  done : Bool
  deriving DecidableEq, Repr

/-- A management request that waits or runs: who sent it, its header, its operations, whether it carries a tag. -/
structure MgmtReq where
  peer : NetPeer
  seq : Nat
  head : List Byte
  ops : List MgmtOp
  auth : Bool
  deriving DecidableEq, Repr

/-- A client of a port (R552): the highest SEQ accepted and its last replies, newest first. -/
structure MgmtClient where
  peer : NetPeer
  top : Nat := 0
  replies : List (Nat × List Byte) := []
  deriving DecidableEq, Repr

/-- A frame that waits in a port's MGMT class: a management reply, an answer of the kind of `EthFrame.own`, or a
membership report (R539). -/
inductive EthTx where
  | reply (peer : NetPeer) (body : List Byte)
  | answer (kind : Nat) (peer : NetPeer)
  | report (v6 : Bool) (group : Nat)
  deriving DecidableEq, Repr

/-- The last frame a port sent: class (0 MGMT, 1 EVENT, 2 STREAM), sub-port, start time, destination and source, MAC
address, VLAN tag, UDP ports and checksum, and payload. -/
structure EthSent where
  cls : Nat
  sub : Nat
  sts : Nat
  v6 : Bool
  dst : Nat
  src : Nat
  mac : Nat
  tag : Option Nat
  sport : Nat
  dport : Nat
  check : Nat
  body : List Byte
  deriving DecidableEq, Repr

/-- An Ethernet port beside its registers (chapter 17). `turn` and `deficits` are the round-robin's, `shapeAt` the FRC
value from which the next stream frame of each sub-port may begin. -/
structure EthSt where
  ip6 : Nat := 0
  group6 : Nat := 0
  allow : Tbl (Nat × Nat) := []
  key : List Byte := []
  keySet : Bool := false
  reqs : List MgmtReq := []
  clients : List MgmtClient := []
  mgmtTx : List EthTx := []
  turn : Nat := 0
  deficits : Tbl Nat := []
  shapeAt : Tbl Nat := []
  sent : Option EthSent := .none
  deriving DecidableEq, Repr

/-- A fault source at a collector (R617 to R620): its FCOL_SRC_CFG word, state (0 CLEAR, 1 ACTIVE, 2 STUCK), present
class, quiet exits, events, and the events of the window that is open. -/
structure FaultSrc where
  cfg : Nat
  state : Nat := 0
  cls : Nat
  recoveries : Nat := 0
  events : Nat := 0
  window : Option Nat := .none
  /-- FRC value at which its last event arrived (R14) -/
  eventAt : Option Nat := .none
  deriving DecidableEq, Repr

/-- A fault collector beside its registers (chapter 21): its sources, the log, oldest first, and the STS and detail of
the first-fault record. -/
structure FcolSt where
  srcs : Tbl FaultSrc := []
  log : List (List Byte) := []
  firstSts : Nat := 0
  firstDetail : Nat := 0
  deriving DecidableEq, Repr

/-- A mailbox request in progress (R646 to R648): its value and instance, whether it writes, the words copied or taken
when it landed, whether it found an empty queue, and whether its value is taken only when it reaches the die. -/
structure MboxReq where
  code : Nat
  index : Nat
  write : Bool
  data : List Nat
  empty : Bool := false
  atDie : Bool := false
  deriving DecidableEq, Repr

/-- A bank of mailbox registers (R645, R651): the word of MBOX_REQ, the bits of MBOX_STATUS, the data words, and the
request in progress (BUSY). -/
structure MboxSt where
  req : Nat := 0
  valid : Bool := false
  empty : Bool := false
  done : Bool := false
  err : Bool := false
  overrun : Bool := false
  words : Nat := 0
  data : Tbl Nat := []
  busy : Option MboxReq := .none
  /-- BUSY as software reads it: hardware sets and clears it with the request, and a write sets it (R7) -/
  busyBit : Bool := false
  deriving DecidableEq, Repr

/-- A plan beside its registers (R343, R385): name, START in seconds (all ones: `boot`), DURATION, PERIOD, key records,
the start that is due or in effect, the number of its admission, the dies it needs as bits of CHIP_CONFIG.PRESENT, its
placements and streams while it runs, and its energy in 2^-15 µJ and work. -/
structure PlanSt where
  name : List Byte := []
  start : Nat := 0
  duration : Nat := 0
  period : Nat := 0
  keys : List (List Byte × List Byte) := []
  due : Nat := 0
  admitted : Nat := 0
  dies : Nat := 0
  zooms : List ZoomPlace := []
  streams : List Nat := []
  energy : Nat := 0
  work : Nat := 0
  deriving DecidableEq, Repr

/-- A section of the image in the boot region (R383): its type, its name, and where its body lies in the image. -/
structure Section where
  type : Nat
  name : List Byte
  off : Nat
  len : Nat
  deriving DecidableEq, Repr

/-- Chrysalis beside the BOOT registers (chapter 11): the copy being read, and whether it is the second one tried; the
image in force: keys outside any plan (R401), sections, the key slot that verified it, and ADVANCE_SVN; a NOR operation
and a fuse operation (OP, SLOT, hash) in progress (R400). -/
structure BootSt where
  copy : Nat := 0
  second : Bool := false
  keys : List (List Byte × List Byte) := []
  sections : List Section := []
  slot : Option Nat := .none
  advance : Bool := false
  norRuns : Bool := false
  fuseOp : Option (Nat × Nat × List Byte) := .none
  deriving DecidableEq, Repr

/-- The supply sequencer (R654, R656, R657): enables asserted, the step that is due next, failed attempts, whether three
have failed, whether a start waits for PWR_FAIL_N (R398), whether the VCORE regulator answers PMBus, and the VCORE set
point in mV. -/
structure RailSt where
  enables : Nat := 0
  next : Nat := 0
  tries : Nat := 0
  stopped : Bool := false
  waits : Bool := false
  adaptive : Bool := false
  vcore : Nat := 750
  deriving DecidableEq, Repr

/-- The ledger beside the PWR registers (R361, R363, R370, R374): bank voltage at the previous step and whether it has
risen since; V0 and the FRC value of a capacitance test; power of the last 100 steps in µW, newest first; µJ measured
by each rail assignment (8 * hub + r) and, at those steps, estimated for the domains of its rail. -/
structure LedgerSt where
  lastV : Nat := 0
  rising : Bool := false
  test : Option (Nat × Nat) := .none
  power : List Rat := []
  meas : Tbl Rat := []
  esti : Tbl Rat := []
  deriving DecidableEq, Repr

/-- The write buffer and status of an SPI host port (R639 to R643): posted writes (host address and word), a write
error and a timeout not yet reported, and the last frame's answer bytes. -/
structure SpiSt where
  posted : List (Nat × Nat) := []
  werr : Bool := false
  tmo : Bool := false
  out : List Byte := []
  deriving DecidableEq, Repr


/-- The state of the S8G. -/
structure State where
  /-- the commands that are waiting, first in first out -/
  pending : List Instr := []
  /-- configuration and temperature suffix of the part (R1, R2) -/
  part : Part := .s8d
  suffixE : Bool := false
  /-- the registers as software sees them, by window address -/
  regs : Tbl Word := []
  /-- the live sets of shadowed registers and tables, by the same addresses -/
  live : Tbl Word := []
  /-- shadow and live table entries beside the registers, by the number `Ops` gives each table entry -/
  tabS : Tbl Word := []
  tabL : Tbl Word := []
  /-- the registers and table entries in force in the blocks whose settings change at a switch point -/
  force : Tbl Word := []
  tabF : Tbl Word := []
  /-- WL fields already written, by window address (R7) -/
  locked : Tbl Word := []
  /-- capture memory of the hubs: byte at hub address a of hub h is cell h * 2^40 + a -/
  cap : List Host.Cell := []
  /-- events on their way to the collectors, oldest first -/
  flight : List Event := []
  /-- flagged stream samples as each transform die received them -/
  marks : Tbl (List Mark) := []
  /-- how many free values have been drawn (the model's own) -/
  drawn : Nat := 0
  /-- die links in the order of R18; acquisition dies; the JESD204C receiver; the time base -/
  link : Tbl Link := []
  acq : Tbl AcqSt := []
  jrx : JrxSt := {}
  time : TimeSt := {}
  /-- spectra and traces that left the dies as items, oldest first, with their hub (R109) -/
  items : List (Nat × List Byte) := []
  /-- where the planner has placed each input's item ring in hub memory -/
  traceRing : Tbl ItemRing := []
  /-- credits and overflow marks of the DMA pulse lines, by hub * 2^16 + line (R525) -/
  credits : Tbl Nat := []
  lineOvf : Tbl Nat := []
  /-- converter samples and the spare's samples as the frames brought them, by 2^64 * die + number; the input streams,
  by 2^64 * input + stream sample -/
  codes : Tbl Nat := []
  spares : Tbl Nat := []
  stream : Tbl (Int × Int) := []
  /-- the word the last register read returned -/
  readData : Word := 0
  /-- wide-band transforms and trigger fabrics, by lead die -/
  wb : Tbl WbSt := []
  trg : Tbl TrgSt := []
  /-- trigger messages waiting for a hub's port (R156) -/
  trgTx : Tbl (List (List Byte)) := []
  /-- record engines and density engines, by lead die -/
  recs : Tbl RecSt := []
  dens : Tbl DensSt := []
  /-- channel cores, by 256 * die + core -/
  cores : Tbl CoreSt := []
  /-- zoom channels, by 128 * die + channel -/
  zooms : Tbl ZoomSt := []
  /-- repairs by hub (R355) -/
  repairs : Tbl RepairSt := []
  /-- the hub that runs the planner and the servo (R5) -/
  lead : Nat := 0
  /-- event-timing inputs by their global number, interval units by 4 * hub + unit, and the code-density test in
  progress at each hub: input and UPDATE (R438) -/
  tdc : Tbl TdcIn := []
  iv : Tbl IvUnit := []
  tdcCheck : Tbl (Option (Nat × Bool)) := []
  /-- DDR-5 channels, by 2 * hub + channel -/
  ddr : Tbl DdrSt := []
  /-- flash stores by hub -/
  nfs : Tbl NfsSt := []
  /-- PWR_FAIL_N is high and no rail far below its nominal (R660); RESET_N is held low -/
  powerGood : Bool := true
  resetLow : Bool := false
  /-- CLK blocks by hub; the step in which each acquisition die was last enabled, 0 where it is off; steps so far -/
  clk : Tbl ClkSt := []
  enabledIn : Tbl Nat := []
  enableStep : Nat := 0
  /-- converters by 2 * hub + converter, pair checks by 8 * hub + check, PWM outputs by 4 * hub + output; FRC values at
  which results landed, by 32 * hub + 16 * converter + entry (R610) -/
  hk : Tbl HkSt := []
  pairs : Tbl PairSt := []
  pwm : Tbl PwmSt := []
  hkAt : Tbl Nat := []
  /-- dies whose power switches are closed, and dies switched off for their temperature until the next start (R671),
  as bits of CHIP_CONFIG.PRESENT -/
  powered : Nat := 0
  hotLost : Nat := 0
  /-- display outputs by hub -/
  disp : Tbl DispSt := []
  /-- DMA channels by 16 * hub + channel, and the programs' words by hub * 2^13 + 4 * instruction + word -/
  dma : Tbl DmaSt := []
  dmaMem : Tbl Nat := []
  /-- Ethernet ports by hub, and their streams by 64 * hub + stream -/
  eth : Tbl EthSt := []
  strs : Tbl EthStr := []
  /-- how the last register access of a path ended: 0 done, 1 absent (R6), 2 ignored under R8 -/
  access : Nat := 0
  /-- fault collectors by hub; ALIVE toggles from DONE on, and its level (R626) -/
  fcol : Tbl FcolSt := []
  aliveRuns : Bool := false
  alive : Bool := false
  /-- a SEVERE control fault of a part without a second hub has left only the SPI host port in service (R622) -/
  controlLost : Bool := false
  /-- heartbeats of the planner missing in a row (R625) -/
  beatsMissed : Nat := 0
  /-- mailbox banks, by 8 * hub + order of the path in R631 less 1 -/
  mbox : Tbl MboxSt := []
  /-- plan slots, plan commands of the host that wait (slot and OP), and admissions so far (R343, R350) -/
  plans : Tbl PlanSt := []
  planCmds : List (Nat × Nat) := []
  admissions : Nat := 0
  /-- ledger energy of each domain in 2^-15 µJ (R360) -/
  energy : Tbl Nat := []
  /-- the rest of the ledger, the supply sequencer, and Chrysalis -/
  ledger : LedgerSt := {}
  rails : RailSt := {}
  boot : BootSt := {}
  /-- pipelines that have failed, by 4 * die + pipe (R355, R627) -/
  brokenPipes : List Nat := []
  /-- SPI host ports by hub -/
  spi : Tbl SpiSt := []
  /-- the fuses (R380): the bits that BOOT_FUSE shows, the fused version, the key hashes by slot; and the hash written for
  BOOT_FUSE_CMD.OP 4 (R405) -/
  fuses : Nat := 0
  fusedSvn : Nat := 0
  keyHash : Tbl (List Byte) := []
  hashIn : List Byte := []
  deriving DecidableEq, Repr

/-- The machine right after reset: every field at its default, an S8G-8D. -/
def State.reset : State := {}

end Sys2Proof.Machine
end

