-- ==== Sys2Proof/Machine/Ops.lean ====
section
/-! DEFINITION. The named operations over registers, memory, time and events that every block uses. -/

namespace Sys2Proof.Machine

/-! The configuration (R3). -/

/-- How many transform dies, acquisition dies and hubs the configuration holds. -/
def Part.tDies : Part → Nat | .s8d => 4 | .s4d => 2 | .s2d => 1
def Part.aDies : Part → Nat | .s8d => 2 | .s4d => 1 | .s2d => 0
def Part.hubs : Part → Nat | .s8d => 2 | .s4d => 1 | .s2d => 1
/-- The package maximum power of the configuration in mW (R3). -/
def Part.maxPower : Part → Nat | .s8d => 95000 | .s4d => 52000 | .s2d => 30000

def State.hasT (s : State) (t : Nat) : Bool := decide (t < s.part.tDies)
def State.hasA (s : State) (a : Nat) : Bool := decide (a < s.part.aDies)
def State.hasHub (s : State) (h : Nat) : Bool := decide (h < s.part.hubs)
/-- The hubs present. -/
def State.hubList (s : State) : List Nat := if s.hasHub 1 then [0, 1] else [0]
/-- Inputs: one for each acquisition die, or the JESD204C stream of the S8G-2D (R3, R26). -/
def State.inputs (s : State) : Nat := match s.part with | .s8d => 2 | .s4d => 1 | .s2d => 1
/-- The bits of CHIP_CONFIG.PRESENT (R651): 0 H0, 1 H1, 2 to 5 T0 to T3, 6 A0, 7 A1. -/
def Part.present : Part → Nat | .s8d => 0xFF | .s4d => 0x4D | .s2d => 0x05

/-! Registers. -/

/-- The register word at window address `a`. -/
def State.reg (s : State) (a : Nat) : Word := tget resetOf s.regs a

def State.setReg (s : State) (a : Nat) (v : Word) : State := { s with regs := tset resetOf s.regs a v }

/-- The live word behind the shadowed register at window address `a`. -/
def State.liveReg (s : State) (a : Nat) : Word := tget resetOf s.live a

def State.setLive (s : State) (a : Nat) (v : Word) : State := { s with live := tset resetOf s.live a v }

/-- Field `f` of the block instance at `b`, as a number. -/
def State.rd (s : State) (b : Nat) (f : Fld) : Nat := bitsOf (s.reg (b + f.off)).toNat f.lo f.w

/-- Field `f` of the block instance at `b`, as a two's complement number. -/
def State.rdI (s : State) (b : Nat) (f : Fld) : Int := sx f.w (s.rd b f)

/-- Field `f` of the live set. -/
def State.rdL (s : State) (b : Nat) (f : Fld) : Nat := bitsOf (s.liveReg (b + f.off)).toNat f.lo f.w

def State.rdLI (s : State) (b : Nat) (f : Fld) : Int := sx f.w (s.rdL b f)

/-- Hardware sets field `f` to `v`. -/
def State.wr (s : State) (b : Nat) (f : Fld) (v : Nat) : State :=
  s.setReg (b + f.off) (BitVec.ofNat 32 (bitsPut (s.reg (b + f.off)).toNat f.lo f.w v))

def State.wrI (s : State) (b : Nat) (f : Fld) (v : Int) : State := s.wr b f (enc f.w v)

def State.wrL (s : State) (b : Nat) (f : Fld) (v : Nat) : State :=
  s.setLive (b + f.off) (BitVec.ofNat 32 (bitsPut (s.liveReg (b + f.off)).toNat f.lo f.w v))

/-- Whether a one-bit field is set. -/
def State.on (s : State) (b : Nat) (f : Fld) : Bool := s.rd b f != 0

def State.onL (s : State) (b : Nat) (f : Fld) : Bool := s.rdL b f != 0

/-- A counter field adds `n` and holds at its all-ones value (R9). -/
def State.inc (s : State) (b : Nat) (f : Fld) (n : Nat := 1) : State :=
  s.wr b f (min (2 ^ f.w - 1) (s.rd b f + n))

/-- Hardware writes of several fields of one block instance, in order. -/
def State.wrs (s : State) (b : Nat) : List (Fld × Nat) → State
  | [] => s
  | (f, v) :: l => (s.wr b f v).wrs b l

/-- Registers `[b + lo, b + hi)` of the shadow set become the live set (a hand-over, R13). -/
def State.handOver (s : State) (b lo hi : Nat) : State := { s with live := tcopy s.regs s.live (b + lo) (b + hi) }

/-- Registers `[b + lo, b + hi)` of the live set are copied into the shadow set (a revert). -/
def State.takeBack (s : State) (b lo hi : Nat) : State := { s with regs := tcopy s.live s.regs (b + lo) (b + hi) }

/-! Time (R411). -/

/-- Fine time units (2^-60 ns / 10^6) in 2^-16 ns, in 1 ns, and in one FRC unit at the nominal rate. -/
def fineU : Nat := 2 ^ 44 * 1000000
def fineNs : Nat := 2 ^ 60 * 1000000
def fineFrc : Nat := 51200 * fineU

/-- RATE_EFF in 2^-44 / 10^6 (R411). -/
def TimeSt.rateEff (q : TimeSt) : Int := q.rate * 1000000 + q.sl

/-- Device time at FRC value `num/den`, times `den`, in fine units (R411). -/
def State.timeFineAt (s : State) (num : Int) (den : Nat) : Int :=
  s.time.baseT * den + (num - s.time.baseR * den) * 51200 * ((fineU : Int) + s.time.rateEff)

/-- Device time at FRC value `r`, in 2^-16 ns, rounded half up (R411). -/
def State.timeAt (s : State) (r : Nat) : Int := rhu (s.timeFineAt r 1) fineU

/-- Device time now. -/
def State.now (s : State) : Int := s.timeAt s.time.frc

/-- The STS word of a device time: seconds [95:48], nanoseconds [47:16], fraction [15:0]. A time before 0 s is reported
as 0 (R417). -/
def stsOf (t : Int) : Nat :=
  let u := t.toNat % (2 ^ 48 * 1000000000 * 65536)
  u / 65536000000000 * 2 ^ 48 + u % 65536000000000

/-- The device time of an STS word. -/
def ofSts (w : Nat) : Int := ((bitsOf w 48 48 * 65536000000000 + w % 2 ^ 48 : Nat) : Int)

/-- The STS now. -/
def State.sts (s : State) : Nat := stsOf s.now

/-! Events and free values. -/

/-- An event of source `src` with detail word `detail` sets out for the collectors (R615, R616). -/
def State.raise (s : State) (src detail : Nat) : State :=
  { s with flight := s.flight ++ [{ source := src, detail := detail % 2 ^ 64, sts := s.sts }] }

/-- Raise an event if `c`. -/
def State.raiseIf (s : State) (c : Bool) (src detail : Nat) : State := if c then s.raise src detail else s

/-- A fresh free value of `w` bits for open point `tag`, and the state after it is drawn. -/
def State.draw (s : State) (tag w : Nat) : Nat × State :=
  (Config.free tag s.drawn % 2 ^ w, { s with drawn := s.drawn + 1 })

/-- An access-violation event for host address `addr` at hub `h` (R6, R8, R636). -/
def State.violation (s : State) (h addr : Nat) : State :=
  (((s.wr (chipB h) R.CHIP_STATUS_VIOL 1).wr (chipB h) R.CHIP_VIOL_ADDR_ADDR addr).inc (chipB h)
    R.CHIP_VIOL_COUNT_VIOLATIONS).raise 38 addr

/-- The S8G is in AON. PWR_STATE.STATE 0 is AON (R357). -/
def inAon (s : State) : Bool := decide (s.rd (pwrB 0) R.PWR_STATE_STATE = 0)

/-- Registers that hold factory values, which no reset and no loss of power changes: ACQ_DELAY_FACT, TDC_n_DELAY_FACT,
TIME_PORTp_LAT, CHIP_SERIAL. -/
def factoryReg (a : Nat) : Bool :=
  match place a with
  | some (.acq, _, o) => o == R.ACQ_DELAY_FACT
  | some (.tdc, _, o) => decide (0x100 ≤ o) && decide (o < 0x300) && decide (o % 0x40 = R.TDC_n_DELAY_FACT % 0x40)
  | some (.time, _, o) => o == R.TIME_PORTp_LAT || o == R.TIME_PORTp_LAT + 0x10
  | some (.chip, _, o) => o == R.CHIP_SERIAL_LO || o == R.CHIP_SERIAL_LO + 4
  | _ => false

/-! Capture memory. -/

/-- The hub a transform die is attached to (R18, R28). -/
def hubOf (s : State) (l : Nat) : Nat := if l < 2 ∨ !s.hasHub 1 then 0 else 1

/-- Where byte `a` of hub `h`'s capture memory is held; `h` = 2 is the second copy of H0's boot region (R490). -/
def cellOf (h a : Nat) : Nat := h * 2 ^ 40 + a % 2 ^ 40

def zeroByte : Nat → Byte := fun _ => 0

/-- The canonical form of capture memory: addresses strictly rising, and no byte equal to what an unlisted one reads as. -/
abbrev Memory.wf (m : List Host.Cell) : Prop := twf zeroByte m

/-- The registers of DDR-5 channel `c` of hub `h` (R511). -/
def ddrChB (h c : Nat) : Nat := ddrB h + 0x80 * c

def State.chMib (s : State) (h c : Nat) : Nat := s.rd (ddrChB h c) R.DDR_c_SIZE_MIB

/-- DDR_c_STATUS.STATE 4: the channel is frozen (R506). -/
def State.frozen (s : State) (h c : Nat) : Bool := s.rd (ddrChB h c) R.DDR_c_STATUS_STATE == 4
def State.anyFrozen (s : State) (h : Nat) : Bool := s.frozen h 0 || s.frozen h 1
def State.bothChannels (s : State) (h : Nat) : Bool := s.chMib h 0 != 0 && s.chMib h 1 != 0

/-- The end of the hub's address space: the capacities of its channels, on H0 less the second copy of the boot region
(R490). -/
def State.hubLimit (s : State) (h : Nat) : Nat :=
  (s.chMib h 0 + s.chMib h 1 - (if h = 0 && s.bothChannels h then 64 else 0)) * 2 ^ 20

/-- Whether hub address `a` lies in the boot region, the highest 64 MiB of H0's address space (R389, R490). -/
def State.inBoot (s : State) (h a : Nat) : Bool :=
  decide (h = 0) && decide (s.hubLimit 0 - 64 * 2 ^ 20 ≤ a) && decide (a < s.hubLimit 0)

/-- The slot of hub `h`'s running Tarn that byte `a` lies in (R169). -/
def State.tarnSlotAt (s : State) (h a : Nat) : Option Nat :=
  ((s.recs.filter fun e => e.2.tarn.run && decide (hubOf s e.1 = h) && decide (e.2.tarn.base ≤ a)
    && decide (a < e.2.tarn.base + e.2.tarn.depth * 393216)).head?).map fun e => (a - e.2.tarn.base) / 393216

/-- The channel that holds byte `a` (R490); in the boot region the first of its copies. -/
def State.chanOf (s : State) (h a : Nat) : Nat :=
  if !s.bothChannels h then b2n (s.chMib h 0 == 0 && s.chMib h 1 != 0)
  else if s.inBoot h a then 0
  else match s.tarnSlotAt h a with
    | some slot => slot % 2
    | none => a / 4096 % 2

/-- Whether byte `a`, in its first copy, is in a frozen channel. -/
def State.frozenAt (s : State) (h a : Nat) : Bool := s.frozen h (s.chanOf h a)

/-- Byte `a` as stored. -/
def State.rawByte (s : State) (h a : Nat) : Byte := tget zeroByte s.cap (cellOf h a)

/-- Byte `a` as a requester reads it: a frozen channel gives zeros, and of the boot region the copy that is not frozen
is read (R490, R507). -/
def State.byte (s : State) (h a : Nat) : Byte :=
  if !s.anyFrozen h then s.rawByte h a
  else if s.frozenAt h a then
    if s.inBoot h a && s.bothChannels h && !s.frozen h 1 then s.rawByte 2 a else 0
  else s.rawByte h a

def State.setRaw (s : State) (h a : Nat) (v : Byte) : State :=
  { s with cap := tset zeroByte s.cap (cellOf h a) v }

/-- The cells of bytes from `a` up that differ from what an unwritten byte reads as. -/
def cellsFrom : Nat → List Byte → List Host.Cell
  | _, [] => []
  | a, b :: l => if b = 0 then cellsFrom (a + 1) l else (a, b) :: cellsFrom (a + 1) l

/-- Write bytes from address `a` up, whatever holds them. -/
def State.putRaw (s : State) (h a : Nat) (l : List Byte) : State :=
  { s with cap := tcopy (cellsFrom (cellOf h a) l) s.cap (cellOf h a) (cellOf h a + l.length) }

/-- The part of bytes `l` from address `a` up that lies in the boot region goes to its second copy, unless that is
frozen. -/
def State.putBoot (s : State) (h a : Nat) (l : List Byte) : State :=
  let lo := s.hubLimit 0 - 64 * 2 ^ 20
  let hi := s.hubLimit 0
  if h = 0 ∧ a < hi ∧ lo < a + l.length ∧ s.bothChannels 0 ∧ !s.frozen 0 1 then
    s.putRaw 2 (max a lo) ((l.drop (lo - a)).take (hi - max a lo))
  else s

/-- Write bytes from address `a` up; bytes in a frozen channel (R507) and beyond the 2^40-byte address space of the hub
land nowhere. -/
def State.setBytes (s : State) (h a : Nat) (l : List Byte) : State :=
  let l := l.take (2 ^ 40 - a % 2 ^ 40)
  let s := s.putBoot h a l
  if !s.anyFrozen h then s.putRaw h a l
  else (l.zipIdx).foldl (fun s x => if s.frozenAt h (a + x.2) then s else s.setRaw h (a + x.2) x.1) s

/-- Write bytes into the ring of `size` bytes at `base`, from offset `pos`, wrapping at its end. -/
def State.ringBytes (s : State) (h base size pos : Nat) (l : List Byte) : State :=
  if size = 0 then s
  else
    let p := pos % size
    let n := size - p
    (s.setBytes h (base + p) (l.take n)).setBytes h base ((l.drop n).take size)

/-- The `n` bytes from address `a` up. -/
def State.bytes (s : State) (h a : Nat) : Nat → List Byte
  | 0 => []
  | n + 1 => s.byte h a :: s.bytes h (a + 1) n

/-- The little-endian number in the `n` bytes at `a`. -/
def State.leAt (s : State) (h a n : Nat) : Nat := ofLe (s.bytes h a n)

/-- Write zero to addresses `[lo, hi)`: cells not listed read as zero, and a frozen channel keeps its bytes. -/
def State.zeroRange (s : State) (h lo hi : Nat) : State :=
  let a := cellOf h lo
  let z := min (a + (hi - lo)) ((h + 1) * 2 ^ 40)
  if !s.anyFrozen h then { s with cap := tclear s.cap a z }
  else
    let keep := fun (e : Host.Cell) => decide (e.1 < a) || decide (z ≤ e.1) || s.frozenAt h (e.1 - h * 2 ^ 40)
    { s with cap := s.cap.filter keep }

/-! Per-instance records. -/

def dWb : Nat → WbSt := fun _ => {}
def State.wbSt (s : State) (t : Nat) : WbSt := tget dWb s.wb t
def State.modWb (s : State) (t : Nat) (f : WbSt → WbSt) : State := { s with wb := tset dWb s.wb t (f (s.wbSt t)) }
def dLink : Nat → Link := fun _ => {}
def dAcq : Nat → AcqSt := fun _ => {}
def State.linkSt (s : State) (l : Nat) : Link := tget dLink s.link l
def State.setLink (s : State) (l : Nat) (v : Link) : State := { s with link := tset dLink s.link l v }
def State.acqSt (s : State) (a : Nat) : AcqSt := tget dAcq s.acq a
def State.setAcq (s : State) (a : Nat) (v : AcqSt) : State := { s with acq := tset dAcq s.acq a v }

/-! Status of stream samples (R24, R42). -/

def markOvr : Nat := 1
def markSettle : Nat := 2
def markUncal : Nat := 4
def markLost : Nat := 128

def noMarks : Nat → List Mark := fun _ => []

/-- Add samples `first` to `last` with status `bits`, joining the newest interval where it continues it. -/
def addMark (l : List Mark) (m : Mark) : List Mark :=
  match l with
  | [] => [m]
  | n :: r => if n.bits = m.bits ∧ n.first ≤ m.first ∧ n.last + 1 = m.first then { n with last := m.last } :: r else m :: n :: r

/-- Transform die `t` receives stream samples with status `bits`. -/
def State.mark (s : State) (t first last bits : Nat) : State :=
  if bits = 0 then s
  else { s with marks := tset noMarks s.marks t (addMark (tget noMarks s.marks t) ⟨first, last, bits⟩) }

/-- The status bits of every sample of die `t` in `[first, last]`. -/
def State.statusOf (s : State) (t first last : Nat) : Nat :=
  (tget noMarks s.marks t).foldl
    (fun b m => if m.first ≤ last ∧ first ≤ m.last then b ||| m.bits else b) 0

/-! The settings in force (blocks whose settings change at a switch point). -/

def State.forceReg (s : State) (a : Nat) : Word := tget resetOf s.force a
def State.rdF (s : State) (b : Nat) (f : Fld) : Nat := bitsOf (s.forceReg (b + f.off)).toNat f.lo f.w
def State.rdFI (s : State) (b : Nat) (f : Fld) : Int := sx f.w (s.rdF b f)
def State.onF (s : State) (b : Nat) (f : Fld) : Bool := s.rdF b f != 0

/-- The registers `[b + lo, b + hi)` take effect as software wrote them. -/
def State.enforceRegs (s : State) (b lo hi : Nat) : State := { s with force := tcopy s.regs s.force (b + lo) (b + hi) }

/-- The live registers `[b + lo, b + hi)` take effect. -/
def State.enforce (s : State) (b lo hi : Nat) : State := { s with force := tcopy s.live s.force (b + lo) (b + hi) }

/-! Tables behind data ports. Entry numbers: per transform die the user window (65,536 entries), four mask tables, the
mask-test table and the map table; per hub the palettes. -/

def wtabKey (t i : Nat) : Nat := t * 0x100000 + i
def maskKey (t tab i : Nat) : Nat := t * 0x100000 + 0x40000 + tab * 0x10000 + i
def mtKey (t i : Nat) : Nat := t * 0x100000 + 0x80000 + i
def densKey (t i : Nat) : Nat := t * 0x100000 + 0x90000 + i
def palKey (h layer i : Nat) : Nat := 0x800000 + h * 0x1000 + layer * 256 + i

/-- The least `n` above `lo` and at most `lo + 2^fuel` with `n ^ e ≥ x`, by bisection. -/
def leastRoot (e x : Nat) : (fuel : Nat) → (lo : Nat) → Nat
  | 0, lo => lo + 1
  | f + 1, lo => if x ≤ (lo + 2 ^ f) ^ e then leastRoot e x f lo else leastRoot e x f (lo + 2 ^ f)

/-- Entry i of the map table LOG:65535 (R215): ceil(65535^((i - 1) / 254)). -/
def logEntry (i : Nat) : Nat := leastRoot 254 (65535 ^ (i - 1)) 16 0

/-- What a table entry holds at reset: zero weights and colours, open masks (TRG_MASK_DATA, REC_MT_DATA), and the map
table LOG:65535 (R215). -/
def tabReset (k : Nat) : Word :=
  if 0x800000 ≤ k then 0
  else if k % 0x100000 < 0x40000 then 0
  else if k % 0x100000 < 0x90000 then 0x7FFF8000
  else if k % 0x100000 < 0x90100 then BitVec.ofNat 32 (logEntry (k % 0x100))
  else 0

def State.tabHandOver (s : State) (lo hi : Nat) : State := { s with tabL := tcopy s.tabS s.tabL lo hi }
def State.tabTakeBack (s : State) (lo hi : Nat) : State := { s with tabS := tcopy s.tabL s.tabS lo hi }
def State.tabEnforce (s : State) (lo hi : Nat) : State := { s with tabF := tcopy s.tabL s.tabF lo hi }

/-! DMA request lines (R524, R525). -/

def noNat : Nat → Nat := fun _ => 0

/-- A pulse on pulse line `line` of hub `h`: one credit, held at 65,535 with OVF (R525). -/
def State.pulse (s : State) (h line : Nat) : State :=
  let k := h * 65536 + line
  let c := tget noNat s.credits k
  if c = 65535 then { s with lineOvf := tset noNat s.lineOvf k 1 }
  else { s with credits := tset noNat s.credits k (c + 1) }

/-! Samples and time (R141, R428, R429). -/

/-- The complex sample rate of the input streams in S/s: 10.24 GS/s, or in the S8G-2D the rate that TIME_JRX_STEP gives
(R83, R429). -/
def State.fs (s : State) : Rat :=
  match s.part with
  | .s2d => (2 ^ 28 * 1280000000 : Nat) / (max 1 (s.rd (timeB 0) R.TIME_JRX_STEP_STEP) : Nat)
  | _ => 10240000000

/-- The FRC value of stream sample `j` of an input as a fraction, where its count has started (R428, R429). -/
def State.sampleFrc (s : State) (inp : Nat) (j : Int) : Option (Int × Nat) :=
 
  match s.part with
  | .s2d => s.time.rl.map fun r => ((r * 2 ^ 28 : Nat) + j * (s.rd (timeB 0) R.TIME_JRX_STEP_STEP : Nat), 2 ^ 28)
  | _ => (if inp = 0 then s.time.rs0 else s.time.rs1).map fun r => ((r * 8 : Nat) + j, 8)

/-- Device time at FRC value `num/den` less a delay in steps of 48 fs, rounded half up to 2^-16 ns: 48 fs is
49152/15625 of that unit. -/
def State.timeAtLess (s : State) (num : Int) (den : Nat) (delay : Int) : Int :=
  rhu (s.timeFineAt num den * 15625 - delay * 49152 * fineU * den) (fineU * den * 15625)

/-- The delay that samples of an input are corrected by: ACQ_DELAY_TOTAL, or JRX_DELAY_BOARD (R141). -/
def State.inputDelay (s : State) (inp : Nat) : Int :=
  match s.part with
  | .s2d => s.rdI (jrxB 0) R.JRX_DELAY_BOARD_DELAY
  | _ => s.rdI (acqB inp) R.ACQ_DELAY_TOTAL_DELAY

/-- The STS of stream sample `j` of an input at its reference plane (R141, R428); zero while the count has not
started. -/
def State.sampleSts (s : State) (inp : Nat) (j : Int) : Nat :=
  match s.sampleFrc inp j with
  | some (n, d) => stsOf (s.timeAtLess n d (s.inputDelay inp))
  | none => 0

/-- The stream sample an input's lead die is receiving: in the frame in progress, or at the present FRC value under
R429. -/
def State.recvSample (s : State) (inp : Nat) : Nat :=
  match s.part with
  | .s2d => match s.time.rl with
    | some r => (s.time.frc - r) * 2 ^ 28 / max 1 (s.rd (timeB 0) R.TIME_JRX_STEP_STEP)
    | none => 0
  | _ => 32 * (s.acqSt inp).frame

/-! Logarithms (exact, by powers). -/

/-- Whether `x ^ e ≥ 10 ^ k` for the rational `x`, with `k` of either sign. -/
def powGe (x : Rat) (e : Nat) (k : Int) : Bool :=
  if k < 0 then decide (x.den ^ e ≤ x.num.toNat ^ e * 10 ^ k.natAbs)
  else decide (10 ^ k.natAbs * x.den ^ e ≤ x.num.toNat ^ e)

/-- The greatest `n` in `[lo, lo + 2^fuel)` with `x ^ (2 * scale) ≥ 10 ^ (2 * n - 1)`, by bisection. -/
def logSearch (x : Rat) (scale : Nat) : (fuel : Nat) → (lo : Int) → Int
  | 0, lo => lo
  | f + 1, lo =>
    if powGe x (2 * scale) (2 * (lo + (2 ^ f : Nat)) - 1) then logSearch x scale f (lo + (2 ^ f : Nat))
    else logSearch x scale f lo

/-- `scale * log10 x` rounded to the nearest integer and held within `[-2^fuel, 2^fuel)`. No tie can occur: an odd
power of the square root of 10 is not rational. A value of 0 or less gives the lower end. -/
def logRound (x : Rat) (scale : Nat) (fuel : Nat) : Int :=
  if x.num ≤ 0 then -(2 ^ fuel : Nat) else logSearch x scale (fuel + 1) (-(2 ^ fuel : Nat))

/-- A rational rounded to the nearest integer, halves away from zero. -/
def roundRat (x : Rat) : Int := rha x.num x.den

/-! Repairs (R355, R627). -/

def dRepair : Nat → RepairSt := fun _ => {}
def State.repairSt (s : State) (h : Nat) : RepairSt := tget dRepair s.repairs h
def State.modRepair (s : State) (h : Nat) (f : RepairSt → RepairSt) : State :=
  { s with repairs := tset dRepair s.repairs h (f (s.repairSt h)) }

/-- Whether the replay queue of hub `h` has room for one more repair (R355, R627). -/
def repairRoom (s : State) (h : Nat) : Bool :=
  let r := s.repairSt h
  decide (r.faults.length + r.queue.length < 8)

/-- The kind of a source that R627 repairs through a replay, with its transform die: 0 pipeline, 1 core, 3 zoom channel. -/
def repairKind (src : Nat) : Option (Nat × Nat) :=
  if 96 ≤ src ∧ src < 128 ∧ (src % 8 = 0 ∨ src % 8 = 1 ∨ src % 8 = 3) then some (src % 8, (src - 96) / 8) else none

end Sys2Proof.Machine
end

