-- ==== Sys2Proof/Machine/Link.lean ====
section
/-! DEFINITION. The die links (chapter 1, R18 to R25). -/

namespace Sys2Proof.Machine

/-- Whether link `l` of R18 exists in the configuration. -/
def State.hasLink (s : State) (l : Nat) : Bool :=
  match s.part with
  | .s8d => true
  | .s4d => l == 0 || l == 1 || l == 4 || l == 5
  | .s2d => l == 4

/-- The die at the end of link `l` away from H0, as its bit in CHIP_CONFIG.PRESENT (R25, R651). -/
def farDie (l : Nat) : Nat :=
  match l with
  | 0 | 1 => 6 | 2 | 3 => 7 | 4 => 2 | 5 => 3 | 6 => 4 | 7 => 5 | _ => 1

/-- The far dies of links that have not trained (R25), as bits of CHIP_CONFIG.PRESENT. -/
def State.farLost (s : State) : Nat :=
  (List.range 9).foldl (fun m l => if (s.linkSt l).failed then m ||| 2 ^ farDie l else m) 0

/-- The dies in `m`, with those that only they join to the rest: T2 and T3 hang on H1, and an acquisition die on the two
transform dies of its pair (R18). -/
def cutOff (m : Nat) : Nat :=
  let m := if bit m 1 then m ||| 0x30 else m
  let m := if bit m 2 && bit m 3 then m ||| 0x40 else m
  if bit m 4 && bit m 5 then m ||| 0x80 else m

/-- The dies lost under R25 and those without a path to the lead hub (R18), as bits of CHIP_CONFIG.PRESENT. -/
def State.linkLost (s : State) : Nat := cutOff s.farLost &&& s.part.present

/-- The dies lost for this start (R18, R25, R671). -/
def State.lostDies (s : State) : Nat := cutOff (s.farLost ||| s.hotLost) &&& s.part.present

/-- CHIP_CONFIG.USABLE of both hubs: the dies present with those lost under R25 cleared (R651). -/
def State.showUsable (s : State) : State :=
  let u := s.part.present - (s.part.present &&& s.linkLost)
  (s.wr (chipB 0) R.CHIP_CONFIG_USABLE u).wr (chipB 1) R.CHIP_CONFIG_USABLE (if s.hasHub 1 then u else 0)

/-- Whether transform die `t` is present and usable. -/
def State.usableT (s : State) (t : Nat) : Bool := s.hasT t && !bit s.lostDies (2 + t)

/-- Whether acquisition die `a` is present and usable. -/
def State.usableA (s : State) (a : Nat) : Bool := s.hasA a && !bit s.lostDies (6 + a)

/-- Chrysalis trains every link; the links in `trained` lock, those in `spare` on their spare lanes (R25). -/
def trainLinks (trained spare : BitVec 9) (s : State) : State :=
  ((List.range 9).foldl (fun s l =>
    if s.hasLink l && !(s.linkSt l).failed then
      s.setLink l { s.linkSt l with
        training := !trained.getLsbD l, trained := trained.getLsbD l
        spareUsed := trained.getLsbD l && spare.getLsbD l }
    else s) s).showUsable

/-- LINK_TRAIN: Chrysalis trains every link before any plan loads (R25), in the MEMORY row of a start (R396). -/
def execLinkTrain (trained spare : BitVec 9) (s : State) : Host.Outcome State Fault Refusal :=
  let s := if s.rd (bootB 0) R.BOOT_STATUS_STATE = 2 then s.wr (bootB 0) R.BOOT_STATUS_STATE 3 else s
  .next (trainLinks trained spare s)

/-- LINK_TRAIN_TIMEOUT: a link still training after 10 ms leaves its far die unusable (R25). -/
def execLinkTrainTimeout (l : Fin 9) (s : State) : Host.Outcome State Fault Refusal :=
  if s.hasLink l && (s.linkSt l).training then
    .next (((s.setLink l { s.linkSt l with training := false, failed := true }).showUsable).wr
      (bootB 0) R.BOOT_STATUS_DIE_LOST 1)
  else .next s

/-- Whether direction `d` may send a flit of VC `v` in this slot: ready, within its rate limit, with a credit of its
reserved or shared pool, and room in the retry buffer (R20, R22). DESIGN CHOICE where R20 is silent: one flit in N slots
means that a channel's flits lie at least N slots apart, and a retry buffer of 64 unacknowledged flits holds back every
channel, VC0 too. -/
def LinkDir.maySend (d : LinkDir) (ready : BitVec 4) (v : Nat) : Bool :=
  ready.getLsbD v && decide (d.retry.length < 64) &&
    (match v with
     | 0 => decide (100 ≤ d.gap0) && decide (0 < d.cred0)
     | 3 => decide (50 ≤ d.gap3) && decide (0 < d.cred3)
     | _ => decide (d.used < Config.sharedCredits))

/-- The virtual channel that gets the slot: priority VC0, VC3, VC1, VC2 (R20). -/
def LinkDir.pick (d : LinkDir) (ready : BitVec 4) : Option Nat := [0, 3, 1, 2].find? (d.maySend ready)

/-- The receiver takes flits off the wire: the one it expects is delivered, an earlier one is a duplicate (R22). -/
def LinkDir.take (d : LinkDir) (l : List (Nat × Nat)) : LinkDir :=
  l.foldl (fun d e => if e.1 = d.expect then { d with expect := d.expect + 1, got := some e } else d) d

/-- Flits that the receiver has delivered leave the retry buffer when they are acknowledged. -/
def LinkDir.ack (d : LinkDir) (n : Nat) : LinkDir :=
  { d with retry := (d.retry.take n).filter (fun e => decide (d.expect ≤ e.1)) ++ d.retry.drop n }

/-- One flit slot: flits arrive, credits and acknowledgements come back, then the chosen channel sends (R20, R22). -/
def LinkDir.slot (d : LinkDir) (f : FlitSlot) : LinkDir :=
  let d := { (d.take (d.wire.take f.arrived)) with wire := d.wire.drop f.arrived }
  let d := { (d.ack f.acked) with
    cred0 := min 8 (d.cred0 + f.freed0), cred3 := min 16 (d.cred3 + f.freed3), used := d.used - f.shared }
  let v := d.pick f.ready
  { d with
    gap0 := if v = some 0 then 1 else min 100 (d.gap0 + 1)
    gap3 := if v = some 3 then 1 else min 50 (d.gap3 + 1)
    cred0 := if v = some 0 then d.cred0 - 1 else d.cred0
    cred3 := if v = some 3 then d.cred3 - 1 else d.cred3
    used := if v = some 1 ∨ v = some 2 then d.used + 1 else d.used
    next := match v with | some _ => d.next + 1 | none => d.next
    wire := match v with | some c => d.wire ++ [(d.next, c)] | none => d.wire
    retry := match v with | some c => d.retry ++ [(d.next, c)] | none => d.retry }

/-- LINK_FLIT_SEND: one direction of a trained link fills a flit slot (R20, R21). -/
def execLinkFlitSend (l : Fin 9) (back : Bool) (f : FlitSlot) (s : State) : Host.Outcome State Fault Refusal :=
  let k := s.linkSt l
  if s.hasLink l && k.trained then
    .next (s.setLink l (if back then { k with back := k.back.slot f } else { k with fwd := k.fwd.slot f }))
  else .next s

/-- Flits `first` and later of the retry buffer: those a CRC retry sends again, in order (R22). -/
def LinkDir.replay (d : LinkDir) (first : Nat) : List (Nat × Nat) := d.retry.filter fun e => decide (first ≤ e.1)

/-- LINK_CRC_RETRY: the receiver found a CRC error in flit `first`: the link sends it and the later ones again from its
retry buffer, in place of those still on the wire, and counts the error, which is source 48 + l (R22, R616). The receiver
delivers every flit once and in order (`LinkDir.take`). -/
def execLinkCrcRetry (l : Fin 9) (back : Bool) (first : Nat) (s : State) : Host.Outcome State Fault Refusal :=
  let k := s.linkSt l
  if s.hasLink l && k.trained then
    let d := if back then k.back else k.fwd
    let d' := { d with wire := d.wire.filter (fun e => decide (e.1 < first)) ++ d.replay first }
    let k' := { k with errors := k.errors + 1 }
    .next ((s.setLink l (if back then { k' with back := d' } else { k' with fwd := d' })).raise (48 + l)
      (k.errors + 1))
  else .next s

end Sys2Proof.Machine
end

