-- ==== Sys2Proof/Machine/Dsp.lean ====
section
/-! DEFINITION. The digital sample path: the oscillators, the down-converter (R84 to R87), the stream as the transform
dies receive it, windows (R99, R100) and transforms. Angles and exponentials are computed in 2^-96. The spec limits the
filters by their response (R85, R122, R237) and gives no taps: those are constants of `Config`, here made symmetric and of
gain 1 at 0 Hz. -/

namespace Sys2Proof.Machine

/-! Circular and exponential functions in 2^-96. -/

def fx : Nat := 2 ^ 96
/-- 2 pi and ln 10 in 2^-96. -/
def twoPi : Nat := 497805226624462170461043889244
def ln10 : Nat := 182429585950654714090129938606

/-- The cosine and sine of `x` in 2^-96 radians, from 0 to a quarter turn, by their series. -/
def cosSmall (x : Nat) : Int :=
  (List.range 24).foldr (fun k acc => (fx : Int) - x * x / fx * acc / fx / ((2 * k + 1) * (2 * k + 2) : Nat)) fx
def sinSmall (x : Nat) : Int :=
  x * (List.range 24).foldr (fun k acc => (fx : Int) - x * x / fx * acc / fx / ((2 * k + 2) * (2 * k + 3) : Nat)) fx / fx

/-- The cosine and sine of `p` / 2^`w` turns, in 2^-96; exact at quarter turns. -/
def cosTurn (w p : Nat) : Int :=
  let x := 4 * p % 2 ^ w * twoPi / 2 ^ (w + 2)
  match 4 * (p % 2 ^ w) / 2 ^ w with
  | 0 => cosSmall x
  | 1 => -sinSmall x
  | 2 => -cosSmall x
  | _ => sinSmall x
def sinTurn (w p : Nat) : Int :=
  let x := 4 * p % 2 ^ w * twoPi / 2 ^ (w + 2)
  match 4 * (p % 2 ^ w) / 2 ^ w with
  | 0 => sinSmall x
  | 1 => cosSmall x
  | 2 => -sinSmall x
  | _ => -cosSmall x

/-- e^y and e^-y for `y` in 2^-96, from 0 to 5, in 2^-96. -/
def expUp (y : Nat) : Nat := (List.range 80).foldr (fun k acc => fx + y * acc / fx / (k + 1)) fx
def expDown (y : Nat) : Int := (List.range 80).foldr (fun k acc => (fx : Int) - y * acc / fx / (k + 1 : Nat)) fx

/-- 10^(c / 2560): the linear power of a dB16 code (R112, R115). -/
def pow10 (c : Int) : Rat :=
  let d := c / 2560
  let f : Rat := (expUp ((c % 2560).toNat * ln10 / 2560) : Nat) / (fx : Nat)
  if d < 0 then f / (10 ^ d.natAbs : Nat) else f * (10 ^ d.natAbs : Nat)

/-! Complex numbers. -/

abbrev Cx := Rat × Rat

/-- `x` times e^(-2 pi i p / 2^w). -/
def turnBack (w p : Nat) (x : Cx) : Cx :=
  let c : Rat := (cosTurn w p : Rat) / (fx : Nat)
  let n : Rat := (sinTurn w p : Rat) / (fx : Nat)
  (x.1 * c + x.2 * n, x.2 * c - x.1 * n)

def cxAdd (a b : Cx) : Cx := (a.1 + b.1, a.2 + b.2)
def cxScale (r : Rat) (a : Cx) : Cx := (r * a.1, r * a.2)
def cxSum (l : List Cx) : Cx := l.foldl cxAdd (0, 0)
def toCx (x : Int × Int) : Cx := (x.1, x.2)

/-- `x` held within `r` of 0. -/
def within (r x : Rat) : Rat := if x < -r then -r else if r < x then r else x

/-- `x / y`, or where `y` is 0, for which the spec states no result, value `k` of open point `tag`. -/
def ratio (tag k : Nat) (x y : Rat) : Rat := if y = 0 then Config.freeRat tag k else x / y

/-! The wide-band setting that the down-converter takes. -/

/-- TUNE as committed: 2^39 or more gives 10.24 GHz (R86). -/
def clampTune (n : Nat) : Nat := if 2 ^ 39 ≤ n then 2 ^ 39 else n

def tuneOf (rd : Nat → Fld → Nat) (t : Nat) : Nat :=
  rd (wbB t) R.WB_TUNE_HI_TUNE_HI * 2 ^ 32 + rd (wbB t) R.WB_TUNE_LO_TUNE_LO

/-- The lead transform die of an input (T0 for A0, T2 for A1). -/
def leadOf (inp : Nat) : Nat := 2 * inp

/-- The tuning of the newest switch that has reached converter sample `n`. -/
def WbSt.tuneBefore (w : WbSt) (n : Nat) : Nat :=
  match w.tunes.find? fun e => decide (2 * e.1 + 64 ≤ n) with
  | some e => e.2
  | none => w.tune0

/-- TUNE at converter sample `n` of an input: a switch at stream sample S acts on the mixer from sample 2 S + 64 on, so
that the filter's outputs S to S + 63 mix both tunings (R92, R97). -/
def tuneAt (s : State) (inp n : Nat) : Nat :=
  let w := s.wbSt (leadOf inp)
  match w.sw with
  | some sw => if 2 * sw + 64 ≤ n then clampTune (tuneOf s.rdL (leadOf inp)) else w.tuneBefore n
  | none => w.tuneBefore n

/-! Converter samples. -/

/-- Where converter sample `n` of acquisition die `a` and the spare's sample in frame `f` are held. -/
def codeKey (a n : Nat) : Nat := a * 2 ^ 64 + n

/-- Converter sample `n` of acquisition die `a`, -2048 to 2047 (R41). -/
def State.code (s : State) (a n : Nat) : Int := sx 12 (tget noNat s.codes (codeKey a n))

/-- What the spare sampled in frame `f`, at the instant of the slot it shadows (R55). -/
def State.spareCode (s : State) (a f : Nat) : Int := sx 12 (tget noNat s.spares (codeKey a f))

/-- The codes of frame `f` are taken in. -/
def State.takeCodes (s : State) (a f : Nat) (codes : List (BitVec 12)) (spare : BitVec 12) : State :=
  { s with
    codes := (padTo 64 0 codes).zipIdx.foldl (fun m x => tset noNat m (codeKey a (64 * f + x.2)) x.1.toNat) s.codes
    spares := tset noNat s.spares (codeKey a f) spare.toNat }

/-! The down-converter (R84, R85, R87). -/

/-- Tap `k` samples from the centre of the 129-tap filter. -/
def ddcTap (k : Nat) : Rat :=
  Config.ddcTap k / (Config.ddcTap 0 + 2 * ((List.range 64).map fun i => Config.ddcTap (i + 1)).foldl (· + ·) 0)

/-- Stream sample `j` before rounding: the converter samples mixed with the oscillator, whose phase at sample n is
TUNE * n in 2^-40 turns (R87), filtered about sample 2 j, every second output being kept (R84), and scaled so that the
full-scale sinusoid of 1936 codes gives 2^23 (R41, R84). -/
def ddcExact (s : State) (a j : Nat) : Cx :=
  let term := fun (n : Nat) (tap : Rat) =>
    cxScale (tap * (s.code a n : Rat)) (turnBack 40 (tuneAt s a n * n) (1, 0))
  cxScale ((2 ^ 24 : Nat) / 1936) (cxSum ((List.range 129).map fun m =>
    if 2 * j + m < 64 then (0, 0) else term (2 * j + m - 64) (ddcTap ((m : Int) - 64).natAbs)))

/-- A component rounded, ties away from zero, and held at the ends of its 24 bits, and whether it was held (R41). -/
def c24Hold (x : Rat) : Int × Bool :=
  let v := rha x.num x.den
  (clampI (-8388608) 8388607 v, decide (v < -8388608) || decide (8388607 < v))

/-- C16 of a component (R123) and whether it saturates. -/
def c16 (shift : Nat) (x : Int) : Int × Bool :=
  let v := rha x (2 ^ (8 - shift))
  (clampI (-32768) 32767 v, decide (v < -32768) || decide (32767 < v))

/-! The stream. -/

def noPair : Nat → Int × Int := fun _ => (0, 0)
def streamKey (inp j : Nat) : Nat := inp * 2 ^ 64 + j

/-- Stream sample `j` of an input as its source sent it. -/
def State.streamSample (s : State) (inp j : Nat) : Int × Int := tget noPair s.stream (streamKey inp j)

def State.putSample (s : State) (inp j : Nat) (x : Int × Int) : State :=
  { s with stream := tset noPair s.stream (streamKey inp j) x }

/-- How many frames pass in the down-converter: its group delay of 12.5 ns (R85). -/
def ddcDelay : Nat := 4

/-- The stream samples of an input below this index have been sent. -/
def State.streamHead (s : State) (inp : Nat) : Nat :=
  match s.part with
  | .s2d => s.jrx.next
  | _ => 32 * ((s.acqSt inp).frame - ddcDelay)

/-- Stream sample `j` as transform die `t` holds it; one it lost (R24) has an open value (assumption log). -/
def State.dieSample (s : State) (t j : Nat) : Int × Int :=
  if bit (s.statusOf t j j) 7 then
    (sx 24 (Config.free 172 (2 * streamKey t j)), sx 24 (Config.free 172 (2 * streamKey t j + 1)))
  else s.streamSample (t / 2) j

/-! The JESD204C input (R76, R81). -/

/-- Lanes in use: JRX_CTRL.LANES, where 11 acts as 10 (R81). -/
def State.jrxLanes (s : State) : Nat :=
  match s.rd (jrxB 0) R.JRX_CTRL_LANES with
  | 0 => 4 | 1 => 8 | _ => 16

/-- The complex samples in the lanes' octets: a JESD204C frame holds L / 4 samples of I, then as many of Q, of 16 bits
each, high octet first, one octet to a lane (PRESUMED, assumption log); an inverted lane has its octets complemented (R81),
and the N bits of resolution are aligned at the top of the 24 (R76). -/
def jesdSamples (s : State) (lanes : List (List Byte)) : List (Int × Int) :=
  let n := s.jrxLanes / 4
  let res := 12 + min 4 (s.rd (jrxB 0) R.JRX_CTRL_RES)
  let octet := fun (lane f : Nat) =>
    let v := (((lanes[lane]?).getD []).getD f 0).toNat
    if bit (s.rd (jrxB 0) R.JRX_POL_INVERT) lane then 255 - v else v
  let comp := fun (c f : Nat) => sx 24 ((octet (2 * c) f * 256 + octet (2 * c + 1) f) / 2 ^ (16 - res) * 2 ^ (24 - res))
  (List.range 32).map fun i => (comp (i % n) (i / n), comp (n + i % n) (i / n))

/-! Windows (R99, R100). -/

/-- Sum of (-1)^m a_m cos(2 pi m i / 2^w), with a_m in 10^-9. -/
def cosineSum (l : List Nat) (w i : Nat) : Rat :=
  ((l.zipIdx.foldl (fun (a : Int) x => a + (-1) ^ x.2 * x.1 * cosTurn w (x.2 * i)) 0 : Int) : Rat)
    / (1000000000 * fx : Nat)

/-- I0(2 sqrt y) for `y` in 2^-96, in 2^-96. -/
def besselI0 (y : Nat) : Nat := (List.range 80).foldr (fun k acc => fx + y * acc / fx / ((k + 1) * (k + 1))) fx

/-- The ideal weight of sample `i` of a window of 2^`w` samples (R99; the formulas behind the table's figures are
PRESUMED, assumption log). -/
def windowIdeal (code w i : Nat) : Rat :=
  let n : Int := 2 ^ w
  let u2 := ((2 * i - n) * (2 * i - n) * fx / (n * n)).toNat
  match code with
  | 1 => cosineSum [500000000, 500000000] w i
  | 2 => cosineSum [540000000, 460000000] w i
  | 3 => cosineSum [420000000, 500000000, 80000000] w i
  | 4 => cosineSum [358750000, 488290000, 141280000, 11680000] w i
  | 5 =>
    let z := 9 * (twoPi * twoPi / fx) / 16
    (besselI0 (z * (fx - u2) / fx) : Nat) / (besselI0 z : Nat)
  | 6 => (expDown (9 * u2 / 2) : Rat) / (fx : Nat)
  | 7 => cosineSum [215578950, 416631580, 277263158, 83578947, 6947368] w i
  | _ => 1

/-- The weight that the S8G gives sample `i` of a frame of 2^`w` samples of lead die `t`: the user table's entry, in
`tab`, or its own coefficient, which may lie within 2^-18 of the ideal one (R99, R100). -/
def windowWeight (tab : Tbl Word) (t code w i : Nat) : Rat :=
  if code = 0 then 1
  else if code = 8 then ((tget tabReset tab (wtabKey t (i * 2 ^ (16 - w)))).toNat : Rat) / (2 ^ 17 : Nat)
  else windowIdeal code w i + within (1 / (2 ^ 18 : Nat)) (Config.windowOffset code w i)

/-- The N weights in use and their sum. -/
def windowWeights (tab : Tbl Word) (t code w : Nat) : List Rat := (List.range (2 ^ w)).map (windowWeight tab t code w)
def ratSum (l : List Rat) : Rat := l.foldl (· + ·) 0

/-! Transforms. -/

/-- Bin `k` of the 2^`w`-point transform of `x`, with bin 2^(w-1) at 0 Hz. -/
def dftBin (w : Nat) (x : List Cx) (k : Nat) : Cx :=
  cxSum (x.zipIdx.map fun e => turnBack w ((k + 2 ^ (w - 1)) * e.2) e.1)

def dft (w : Nat) (x : List Cx) : List Cx := (List.range (2 ^ w)).map (dftBin w x)

/-- |x|². -/
def cxPower (x : Cx) : Rat := x.1 * x.1 + x.2 * x.2

end Sys2Proof.Machine
end

