-- ==== Sys2Proof/Machine/Level.lean ====
section
/-! DEFINITION. Spectral levels: dB16 codes from powers (R108), and the items spectra and traces leave in (R109). -/

namespace Sys2Proof.Machine

/-- The dB16 code of a power ratio against full scale (R108), within the conversion's accuracy of 0.01 dB (at most 3
codes with the rounding): 2560 log10, held at 0x8000 and 32767. -/
def dbCode (r : Rat) : Int :=
  if r ≤ 0 then -32768
  else clampI (-32768) 32767 (logRound r 2560 17 + clampI (-3) 3 (Config.levelOffset r.num.toNat r.den))

/-- Sum over the entries of die `t`'s user window that an N-point transform uses, in the given bank, of `f w` (R100:
sample i takes entry i * 65,536 / N). -/
def windowFold (tab : Tbl Word) (t n : Nat) (f : Nat → Nat) : Nat :=
  tab.foldl (fun a e =>
    if wtabKey t 0 ≤ e.1 ∧ e.1 < wtabKey t 65536 ∧ (e.1 - wtabKey t 0) % (65536 / n) = 0 then a + f e.2.toNat else a) 0

/-- A bin's power against full scale (R108): re² + im² by 2^2e, over (2^23 sum_w)². -/
def binPower (re im : Int) (e : Nat) (sumW : Rat) : Rat :=
  (((re * re + im * im) * 2 ^ (2 * e) : Int) : Rat) / ((2 ^ 46 : Nat) * (sumW * sumW))

/-- The header of a spectrum or trace item (R109). -/
def itemHeader (ty inp flags log2n window det exp sts first count : Nat) : List Byte :=
  leBytes 1 ty ++ leBytes 1 inp ++ leBytes 2 flags ++ leBytes 1 log2n ++ leBytes 1 window ++ leBytes 1 det
    ++ leBytes 1 exp ++ leBytes 12 sts ++ leBytes 8 first ++ leBytes 4 count

/-- dB16 bins as bytes. -/
def levelBytes (l : List Int) : List Byte := l.flatMap fun v => leBytes 2 (enc 16 v)

/-- CPLX bins in C24 layout: 24-bit I, then Q (R109). -/
def cplxBytes (l : List (Int × Int)) : List Byte := l.flatMap fun b => leBytes 3 (enc 24 b.1) ++ leBytes 3 (enc 24 b.2)

/-- An item leaves a die for hub `h` and, where the planner has placed a ring for the input, enters it; line TRACE
pulses (R111, R115, R524). -/
def sendItem (inp : Nat) (bytes : List Byte) (s : State) : State :=
  let r : ItemRing := tget (fun _ => {}) s.traceRing inp
  let s := { s with items := s.items ++ [(inp, bytes)] }
  let s := if r.count = 0 then s
    else
      let s := s.setBytes inp (r.base + r.next * r.size) (bytes.take r.size)
      { s with traceRing := tset (fun _ => {}) s.traceRing inp { r with next := (r.next + 1) % r.count } }
  s.pulse inp 0x5000

end Sys2Proof.Machine
end

