-- ==== Sys2Proof/Machine/Wb.lean ====
section
/-! DEFINITION. The gap-free wide-band transform (chapter 3): shadow set and switch, detectors, averaging. -/

namespace Sys2Proof.Machine

/-- T0 and T2 are lead dies (R88). -/
def isLead (t : Nat) : Bool := t % 2 == 0

/-- The input a transform die serves (R26). -/
def inputOf (t : Nat) : Nat := t / 2

/-- The lead die of a die's pair. -/
def pairLead (t : Nat) : Nat := t / 2 * 2

/-! Settings. -/

/-- LOG2N with 6 and 16 as its ends (R102). -/
def clampLog2n (n : Nat) : Nat := if n < 6 then 6 else if 16 < n then 16 else n

/-- A length of 0 acts as 1, one above `m` as `m` (R112, R115). -/
def clampLen (m n : Nat) : Nat := if n = 0 then 1 else if m < n then m else n

/-- A resampler field of 0 means 64 (R121). -/
def rsField (n : Nat) : Nat := if n = 0 then 64 else n

/-- The setting in force on lead die `t`: LOG2N, hop, detector, D, averager L, window (R99, R102, R112, R115). -/
def State.wbLog2n (s : State) (t : Nat) : Nat := clampLog2n (s.rdF (wbB t) R.WB_CTRL_LOG2N)
def State.wbN (s : State) (t : Nat) : Nat := 2 ^ s.wbLog2n t
def State.wbOverlap (s : State) (t : Nat) : Nat := s.rdF (wbB t) R.WB_CTRL_OVERLAP
def State.wbHop (s : State) (t : Nat) : Nat := s.wbN t / 2 ^ s.wbOverlap t
def State.wbDet (s : State) (t : Nat) : Nat :=
  let m := s.rdF (wbB t) R.WB_DET_MODE
  if 5 ≤ m then 1 else m
def State.wbD (s : State) (t : Nat) : Nat := clampLen 1048576 (s.rdF (wbB t) R.WB_DET_LEN)
def State.wbL (s : State) (t : Nat) : Nat := clampLen 65536 (s.rdF (wbB t) R.WB_AVG_LEN)
def State.wbWindow (s : State) (t : Nat) : Nat :=
  let w := s.rdF (wbB t) R.WB_CTRL_WINDOW
  if 9 ≤ w then 4 else w

/-- The setting in force on lead die `t` as spectra are computed under it (R99 to R115). -/
def State.wbSet (s : State) (t : Nat) : WbSet :=
  { log2n := s.wbLog2n t, overlap := s.wbOverlap t, window := s.wbWindow t, det := s.wbDet t, d := s.wbD t, l := s.wbL t
    domain := s.rdF (wbB t) R.WB_AVG_DOMAIN, fixed := s.onF (wbB t) R.WB_SCALE_MODE
    shift := min 16 (s.rdF (wbB t) R.WB_SCALE_SHIFT), out := s.rdF (wbB t) R.WB_FMT_SPEC_OUT
    every := max 1 (s.rdF (wbB t) R.WB_FMT_EVERY), baseStart := (s.wbSt t).baseStart, baseIdx := (s.wbSt t).baseIdx
    tab := if s.wbWindow t = 8 then tcopy s.tabF [] (wtabKey t 0) (wtabKey t 65536) else [] }

def WbSet.n (q : WbSet) : Nat := 2 ^ q.log2n
def WbSet.hop (q : WbSet) : Nat := q.n / 2 ^ q.overlap
/-- The first sample of the frame of spectrum `idx`, and the number of the frame that starts at `start`. -/
def WbSet.startOf (q : WbSet) (idx : Nat) : Nat := q.baseStart + (idx - q.baseIdx) * q.hop
def WbSet.numberOf (q : WbSet) (start : Nat) : Nat := (start - q.baseStart) / q.hop

/-- Pipelines that WB_PIPE_MAP holds: those of the lead die, and those of the partner die while it is usable (R95,
R104, R353). -/
def pipesHeld (s : State) (t : Nat) : Nat :=
  popCount 4 (s.rd (wbB t) R.WB_PIPE_MAP_LOCAL)
    + (if s.usableT (t + 1) then popCount 4 (s.rd (wbB t) R.WB_PIPE_MAP_PARTNER) else 0)

/-- The first and last bins of R90: within ±4.0 GHz of the centre and within the first Nyquist zone. In units of
20.48 GHz / 2^40 / N, bin k lies at TUNE * N + (k - N/2) * 2^39. The S8G-2D has no Nyquist limit (R89). -/
def wbEdge (s : State) (tune n : Nat) : Nat × Nat :=
  let first := n / 2 - 25 * n / 64
  let last := n / 2 + 25 * n / 64 - 1
  if s.part = .s2d then (first, last)
  else (max first (n / 2 - tune * n / 2 ^ 39),
    min last (n / 2 + (2 ^ 39 - tune) * n / 2 ^ 39))

/-- The ENBW of a user table at `n` points in 1/4096 bins, rounded half up and held at the field's largest value (R101).
That of a table of zeros is an open value (assumption log, entry 21). -/
def userEnbw (tab : Tbl Word) (t n : Nat) : Nat :=
  let s1 := windowFold tab t n id
  if s1 = 0 then Config.free 21 n % 65536
  else min 65535 (rhu (4096 * n * windowFold tab t n fun w => w * w : Nat) (s1 * s1)).toNat

/-- WB_WTAB_CG, WB_WTAB_ENBW and WTAB_ZERO of the live user table at the new N, rounded half up and held at the
field's largest value (R101). DESIGN CHOICE: coefficients are in use only while WINDOW = 8 selects the table, so WTAB_ZERO
stays clear under any other window. -/
def windowFigures (t : Nat) (s : State) : State :=
  let n := 2 ^ clampLog2n (s.rdL (wbB t) R.WB_CTRL_LOG2N)
  let s1 := windowFold s.tabL t n id
  s.wrs (wbB t) [(R.WB_WTAB_CG_CG, min (2 ^ 24 - 1) (rhu (s1 * 32 : Nat) n).toNat),
    (R.WB_WTAB_ENBW_ENBW, userEnbw s.tabL t n),
    (R.WB_STATUS_WTAB_ZERO, b2n (decide (s1 = 0) && decide (s.rdL (wbB t) R.WB_CTRL_WINDOW = 8)))]

/-- Whether the set handed over holds a field that is clamped (R86, R102, R121); TUNE has no effect in the S8G-2D (R89). -/
def wbClamped (s : State) (t : Nat) : Bool :=
  let l := s.rdL (wbB t) R.WB_CTRL_LOG2N
  (decide (s.part ≠ .s2d) && decide (2 ^ 39 ≤ tuneOf s.rdL t)) || decide (l < 6) || decide (16 < l)
    || decide (rsField (s.rdL (wbB t) R.WB_RS_Q) < rsField (s.rdL (wbB t) R.WB_RS_P))

/-- Whether the WB set handed over changes TUNE, which has no effect in the S8G-2D (R86, R89). -/
def wbTuneMoves (s : State) (t : Nat) : Bool :=
  decide (s.part ≠ .s2d) && decide (clampTune (tuneOf s.rdF t) ≠ clampTune (tuneOf s.rdL t))

/-- Schedule the switch sample S from stream sample `j`: the least multiple of 65,536 at least 20,480 later (R92). The
switch zone runs from S - N_old to S + N_new - 1, and RETUNE covers S to S + 63 if TUNE changes (R97). -/
def wbSchedule (t j : Nat) (s : State) : State :=
  let sw := ceilTo 65536 (j + 20480)
  let nOld := s.wbN t
  let nNew := 2 ^ clampLog2n (s.rdL (wbB t) R.WB_CTRL_LOG2N)
  let zs : List Zone := [⟨sw - nOld, sw + nNew - 1, 16⟩]
  let zs := if wbTuneMoves s t then zs ++ [⟨sw, sw + 63, 8⟩] else zs
  s.modWb t fun w => { w with sw := some sw, waitStart := false, zones := w.zones ++ zs }

/-- The hand-over: the shadow set becomes the live set and a switch sample is scheduled, or NO_PIPES sets and nothing
else changes (R92, R93, R95). -/
def wbHandOver (t : Nat) (s : State) : State :=
  let ov := s.rd (wbB t) R.WB_CTRL_OVERLAP
  if s.on (wbB t) R.WB_CTRL_EN && decide (pipesHeld s t < 2 ^ ov) then s.wr (wbB t) R.WB_STATUS_NO_PIPES 1
  else
    let s := (s.handOver (wbB t) 0x4 0x24).tabHandOver (wtabKey t 0) (wtabKey t 65536)
    let s := if wbClamped s t then s.wr (wbB t) R.WB_STATUS_CLAMP 1 else s
    let e := wbEdge s (clampTune (tuneOf s.rdL t)) (2 ^ clampLog2n (s.rdL (wbB t) R.WB_CTRL_LOG2N))
    let s := (s.wrs (wbB t) [(R.WB_SHADOW_SHADOW_DIRTY, 0), (R.WB_SHADOW_PENDING, 1), (R.WB_EDGE_FIRST, e.1),
      (R.WB_EDGE_LAST, e.2)]).inc (wbB t) R.WB_SWITCH_COUNT_SWITCHES
    let s := windowFigures t s
    if (s.wbSt t).running then wbSchedule t (s.recvSample (inputOf t)) s
    else s.modWb t fun w => { w with waitStart := true }

/-- WB_COMMIT.COMMIT on a lead die: a hand-over, or HELD while PENDING (R92, R94). -/
def wbCommit (t : Nat) (s : State) : State :=
  if !isLead t then s
  else if s.on (wbB t) R.WB_SHADOW_PENDING || s.on (wbB t) R.WB_SHADOW_HELD then s.wr (wbB t) R.WB_SHADOW_HELD 1
  else wbHandOver t s

/-- WB_COMMIT.REVERT: the die's live set is copied into its shadow set (R96); on a partner die the words at 0x004 to 0x00C
are copies of the lead die's and stay so (R88). -/
def wbRevert (t : Nat) (s : State) : State :=
  ((s.takeBack (wbB t) (if isLead t then 0x4 else 0x10) 0x24).tabTakeBack (wtabKey t 0) (wtabKey t 65536)).wr (wbB t)
    R.WB_SHADOW_SHADOW_DIRTY 0

/-- WB_COMMIT (R92). -/
def execWbCommit (t : TDie) (s : State) : Host.Outcome State Fault Refusal :=
  .next (if s.usableT t then wbCommit t s else s)

/-- WB_REVERT (R96). -/
def execWbRevert (t : TDie) (s : State) : Host.Outcome State Fault Refusal :=
  .next (if s.usableT t then wbRevert t s else s)

/-- WB_HELD_HANDOVER: once PENDING has cleared, a held commit hands over the shadow set as it stands (R94). -/
def execWbHeldHandover (t : TDie) (s : State) : Host.Outcome State Fault Refusal :=
  .next (if s.on (wbB t) R.WB_SHADOW_HELD && !s.on (wbB t) R.WB_SHADOW_PENDING then
    wbHandOver t (s.wr (wbB t) R.WB_SHADOW_HELD 0) else s)

/-! Detectors and averaging. -/

/-- Bin by bin accumulation of a spectrum (power `p`, level `l`) into an interval (R112): maximum, sum, sum, last,
minimum. -/
def accPw (mode : Nat) (a p : Rat) : Rat :=
  match mode with
  | 0 => if a < p then p else a
  | 3 => p
  | 4 => if p < a then p else a
  | _ => a + p

def accLv (mode : Nat) (a l : Int) : Int :=
  match mode with
  | 0 => max a l
  | 3 => l
  | 4 => min a l
  | _ => a + l

/-- Merge interval parts or add a spectrum: `d` is the earlier (R112, R114). SAMPLE takes the higher index. -/
def detJoin (mode : Nat) (a d : Det) : Det :=
  if a.n = 0 then d
  else if d.n = 0 then a
  else
    let hi := if a.last ≤ d.last then d else a
    let lo := if a.first ≤ d.first then a else d
    { iv := a.iv, n := a.n + d.n, flags := a.flags ||| d.flags, first := lo.first, last := hi.last, sts := lo.sts, lastStart := hi.lastStart
      pw := if mode = 3 then hi.pw else List.zipWith (accPw mode) a.pw d.pw
      lv := if mode = 3 then hi.lv else List.zipWith (accLv mode) a.lv d.lv }

/-- The detected spectrum of an interval: powers and levels per bin (R112). AVERAGE rounds ties away from zero; the
linear power of an averaged level is the level's. -/
def detResult (mode : Nat) (d : Det) : Det :=
  if d.n = 1 then d
  else match mode with
  | 1 => let pw := d.pw.map (· / (d.n : Rat)); { d with pw := pw, lv := pw.map dbCode }
  | 2 => let lv := d.lv.map fun v => rha v d.n; { d with lv := lv, pw := lv.map pow10 }
  | _ => { d with lv := d.pw.map dbCode }

/-- The trace's levels: the mean of linear power or of levels over its detected spectra (R115). -/
def traceLevels (domain ivs : Nat) (d : Det) : List Int :=
  if domain = 1 then d.lv.map fun v => rha v ivs
  else d.pw.map fun p => dbCode (p / (ivs : Rat))

/-- A detected spectrum joins a trace of `a.ivs` others, the sums of powers and levels going on (R115). -/
def TraceAcc.add (a : TraceAcc) (tr : Nat) (d : Det) : TraceAcc :=
  let det := if a.ivs = 0 then d
    else { a.det with n := a.det.n + d.n, flags := a.det.flags ||| d.flags, last := d.last
                      lastStart := d.lastStart
                      pw := List.zipWith (· + ·) a.det.pw d.pw, lv := List.zipWith (· + ·) a.det.lv d.lv }
  { tr := tr, ivs := a.ivs + 1, det := det }

/-- The item of a trace made under setting `q` (R109, R115). -/
def traceBytes (q : WbSet) (inp extra : Nat) (a : TraceAcc) : List Byte :=
  itemHeader 3 inp (a.det.flags ||| extra ||| (if q.overlap = 3 then 512 else 0)) q.log2n q.window q.det 0
    a.det.sts a.det.first a.det.n ++ levelBytes (traceLevels q.domain a.ivs a.det)

/-- A complete trace under a rate preset, after the first calibration run, is what the masks that wait for it are built
from (R120, R166). -/
def AutoMask.take (q : WbSet) (calibrated whole : Bool) (a : TraceAcc) (m : AutoMask) : AutoMask :=
  if m.trace.isNone ∧ calibrated ∧ whole ∧ q.l = m.len ∧ q.d = 1 ∧ q.det = 1 ∧ q.domain = 0 then
    { m with trace := some (traceLevels q.domain a.ivs a.det) }
  else m

/-- Output the trace in progress as an item (R109, R115). -/
def emitTrace (t : Nat) (extra : Nat) (s : State) : State :=
  let a := (s.wbSt t).trace
  if a.ivs = 0 then s
  else
    let q := s.wbSet t
    let calibrated := decide (s.part = .s2d) || (s.acqSt (inputOf t)).ranOnce
    sendItem (inputOf t) (traceBytes q (inputOf t) extra a)
      (s.modWb t fun w => { w with trace := {}, auto := w.auto.map (AutoMask.take q calibrated (extra == 0) a) })

/-- A detected spectrum enters the averager (R115). A trace whose last interval it is goes out; one that lacks
spectra carries PARTIAL (R119), and counts if its last interval was cut short (R118). -/
def averager (t : Nat) (d : Det) (s : State) : State :=
  let s := s.modWb t fun w => { w with detOut := w.detOut ++ [d] }
  if !s.onF (wbB t) R.WB_AVG_TRACE_EN then s
  else
    let l := s.wbL t
    let full := s.wbD t * l
    let s := if (s.wbSt t).trace.ivs ≠ 0 ∧ (s.wbSt t).trace.tr ≠ d.iv / l then emitTrace t 32 s else s
    let a := (s.wbSt t).trace.add (d.iv / l) d
    let s := s.modWb t fun w => { w with trace := a }
    if d.iv % l = l - 1 then
      emitTrace t (if a.det.n < full then 32 else 0)
        (if bit d.flags 5 then s.inc (wbB t) R.WB_PARTIAL_COUNT_PARTIALS else s)
    else s

/-- An interval closes (R112): on one die its result goes to the averager; at 87.5 % it waits for the merge (R114). -/
def closeDet (t : Nat) (d : Det) (s : State) : State :=
  if d.n = 0 then s
  else if s.wbOverlap t = 3 then s.modWb t fun w => { w with parts := w.parts ++ [d] }
  else averager t (detResult (s.wbDet t) d) s

/-- Merge the parts of the oldest interval waiting at the hub (R114). -/
def mergeOldest (t : Nat) (s : State) : Det × State :=
  match (s.wbSt t).parts with
  | [] => ({}, s)
  | p :: _ =>
    let iv := (s.wbSt t).parts.foldl (fun m d => min m d.iv) p.iv
    let mine := (s.wbSt t).parts.filter fun d => d.iv == iv
    (mine.foldl (detJoin (s.wbDet t)) {},
      s.modWb t fun w => { w with parts := w.parts.filter fun d => d.iv != iv })

/-- Whether the oldest interval at the hub has the parts of every die that computes spectra of it. -/
def mergeReady (s : State) (t : Nat) : Bool :=
  match (s.wbSt t).parts with
  | [] => false
  | p :: l =>
    let iv := l.foldl (fun m d => min m d.iv) p.iv
    decide (min 2 (s.wbD t) ≤ ((s.wbSt t).parts.filter fun d => d.iv == iv).length)
      || (s.wbSt t).parts.any fun d => decide (iv + 1 < d.iv)

/-- Pass on an interval that closes short, with PARTIAL and a count if it lacks spectra (R118). -/
def passShort (t : Nat) (d : Det) (s : State) : State :=
  if d.n = 0 then s
  else if d.n < s.wbD t then
    averager t { detResult (s.wbDet t) d with flags := d.flags ||| 32 } (s.inc (wbB t) R.WB_PARTIAL_COUNT_PARTIALS)
  else averager t (detResult (s.wbDet t) d) s

/-- Merge and pass on every part left at the hub; `fuel` bounds their number. -/
def passParts (t : Nat) : (fuel : Nat) → State → State
  | 0, s => s
  | f + 1, s =>
    if (s.wbSt t).parts.isEmpty then s
    else
      let r := mergeOldest t s
      passParts t f (passShort t r.1 r.2)

/-- The detection interval and the trace in progress close before spectrum `idx`, each counting if it closes short
(R118); a trace that a fault left short asks for no spectra from `idx` on. -/
def partialClose (t idx : Nat) (s : State) : State :=
  let s := s.modWb t fun w => { w with incomplete := w.incomplete.map fun e =>
    if e.set.baseIdx = w.baseIdx ∧ idx < e.first + e.n then { e with n := idx - e.first } else e }
  let a := (s.wbSt t).detLead
  let b := (s.wbSt t).detPartner
  let s := s.modWb t fun w => { w with detLead := {}, detPartner := {} }
  let s := if s.wbOverlap t = 3 then
      let s := s.modWb t fun w => { w with parts := w.parts ++ [a, b].filter fun d => d.n != 0 }
      passParts t (s.wbSt t).parts.length s
    else passShort t a s
  if (s.wbSt t).trace.ivs = 0 then s
  else emitTrace t 32 (s.inc (wbB t) R.WB_PARTIAL_COUNT_PARTIALS)

/-! The switch (R92, R97). -/

/-- The wide-band setting's counts start afresh at the first frame at or after sample `j` (R103, R113). -/
def wbRestart (t j idx : Nat) (s : State) : State :=
  s.modWb t fun w => { w with
    baseStart := ceilTo (s.wbHop t) j, baseIdx := idx, nextIdx := idx, relIdx := idx, doneLead := idx, donePartner := idx
    detLead := {}, detPartner := {}, parts := [], trace := {} }

/-- WB_STATUS.RUN and PIPES follow the setting in force. -/
def wbShow (t : Nat) (s : State) : State :=
  let en := s.onF (wbB t) R.WB_CTRL_EN
  s.wrs (wbB t) [(R.WB_STATUS_RUN, b2n (en && (s.wbSt t).running)),
    (R.WB_STATUS_PIPES, if en then 2 ^ s.wbOverlap t else 0)]

/-- The index the next spectrum of the input takes: the count goes on over frames of the setting that ends. -/
def wbNextIdx (s : State) (t sw : Nat) : Nat :=
  let w := s.wbSt t
  if s.onF (wbB t) R.WB_CTRL_EN && w.running then max w.nextIdx (w.baseIdx + (sw - w.baseStart) / s.wbHop t)
  else w.nextIdx

/-- The live set takes effect at S, the frame there being that of spectrum `idx`: the new counts start, and the resampler
starts a new run if EN, P, Q or FMT changes (R97, R113, R124). -/
def wbSwitchAt (t sw idx : Nat) (s : State) : State :=
  let rsOld := (s.forceReg (wbB t + R.WB_RS)).toNat
  let rsNew := (s.liveReg (wbB t + R.WB_RS)).toNat
  let sameRun := decide (bitsPut rsOld 8 4 0 = bitsPut rsNew 8 4 0)
  let tune := clampTune (tuneOf s.rdL t)
  let s := (s.enforce (wbB t) 0x4 0x24).tabEnforce (wtabKey t 0) (wtabKey t 65536)
  let s := wbRestart t sw idx s
  let s := s.modWb t fun w => { w with
    sw := none
    tunes := (sw, tune) :: w.tunes
    rsStart := if sameRun then w.rsStart else sw
    rsNext := if sameRun then w.rsNext else 0 }
  wbShow t s

/-- WB_PENDING_CLEAR: the switch has taken effect and, if spectra are produced, the first one of each die that computes
spectra of the input has reached its consumers (R92, R104). -/
def execWbPendingClear (t : TDie) (s : State) : Host.Outcome State Fault Refusal :=
  let w := s.wbSt t
  let first := decide (w.baseIdx < w.doneLead)
    && (decide (s.wbOverlap t ≠ 3) || !s.usableT (t + 1) || decide (w.baseIdx < w.donePartner))
  .next (if s.on (wbB t) R.WB_SHADOW_PENDING && w.sw.isNone && !w.waitStart
      && (!s.onF (wbB t) R.WB_CTRL_EN || first) then s.wr (wbB t) R.WB_SHADOW_PENDING 0 else s)

/-- The user-window data port: a write sets the shadow coefficient at ADDR, a read returns the shadow or live one by
VIEW, and ADDR steps on and wraps (R91, R100, R126). -/
def wtabAccess (t : Nat) (write : Option Word) (s : State) : State :=
  let i := s.rd (wbB t) R.WB_WTAB_ADDR_ADDR
  let s := match write with
    | some v => ({ s with tabS := tset tabReset s.tabS (wtabKey t i) (v &&& 0x3FFFF) } : State).wr (wbB t)
        R.WB_SHADOW_SHADOW_DIRTY 1
    | none =>
      { s with readData := tget tabReset (if s.on (wbB t) R.WB_SHADOW_VIEW then s.tabL else s.tabS) (wtabKey t i) }
  s.wr (wbB t) R.WB_WTAB_ADDR_ADDR ((i + 1) % 65536)

/-- WTAB_DATA_ACCESS (R100). -/
def execWtabDataAccess (t : TDie) (write : Option (BitVec 18)) (s : State) : Host.Outcome State Fault Refusal :=
  .next (if s.hasT t then wtabAccess t (write.map (·.setWidth 32)) s else s)

/-! The output resampler (R121 to R124). -/

/-- P and Q in force: a P above Q acts as P = Q (R121). -/
def State.rsRatio (s : State) (t : Nat) : Nat × Nat :=
  let p := rsField (s.rdF (wbB t) R.WB_RS_P)
  let q := rsField (s.rdF (wbB t) R.WB_RS_Q)
  if q < p then (q, q) else (p, q)

/-- Reach of the resampler's filter in stream samples: none where P = Q passes the stream unchanged (R121, R122). -/
def rsSpan (r : Nat × Nat) : Nat := if r.1 = r.2 then 0 else Config.rsReach r.1 r.2

/-- The stream samples about output `j` of a run from sample `start`, each with its tap (R121, R122): output `j` lies at
j Q / P samples after the start, and the taps are scaled to a gain of 1 at 0 Hz. -/
def rsTerms (r : Nat × Nat) (start j : Nat) : List (Int × Rat) :=
  let c := start + j * r.2 / r.1
  if r.1 = r.2 then [((c : Int), 1)]
  else
    let at_ : Int := start * r.1 + j * r.2
    let near := (List.range (2 * rsSpan r + 2)).filterMap fun (i : Nat) =>
      let m : Int := (c : Int) - rsSpan r + i
      let d := (m * r.1 - at_).natAbs
      if rsSpan r * r.1 < d then none else some (m, Config.rsTap r.1 r.2 d)
    let sum := ratSum (near.map (·.2))
    near.map fun e => (e.1, ratio 176 (j % r.1) e.2 sum)

/-- Output `j` of the resampler's run: its sample, and how many of its components saturated (R121 to R124). Rounding to C24
is DESIGN CHOICE (assumption log). -/
def rsSample (s : State) (t j : Nat) : RsSample × Nat :=
  let w := s.wbSt t
  let r := s.rsRatio t
  let terms := rsTerms r w.rsStart j
  let x := cxSum (terms.map fun e => if e.1 < 0 then (0, 0) else cxScale e.2 (toCx (s.dieSample t e.1.toNat)))
  let i := (c24Hold x.1).1
  let q := (c24Hold x.2).1
  let lo := ((terms.head?.map Prod.fst).getD 0).toNat
  let hi := ((terms.getLast?.map Prod.fst).getD 0).toNat
  let fl := s.statusOf t lo hi ||| (if j < 256 then 2 else 0)
  if s.onF (wbB t) R.WB_RS_FMT then
    let sh := min 8 (s.rdF (wbB t) R.WB_RS_SHIFT)
    ({ i := (c16 sh i).1, q := (c16 sh q).1, flags := fl }, b2n (c16 sh i).2 + b2n (c16 sh q).2)
  else ({ i := i, q := q, flags := fl }, 0)

/-- How many outputs of a run from `start` lie below stream sample `j`. -/
def rsBelow (r : Nat × Nat) (start j : Nat) : Nat := ((j - start) * r.1 + r.2 - 1) / r.2

/-- The resampler gives every output whose stream samples have come, up to a switch sample not yet reached (R121). -/
def rsAdvance (t : Nat) (s : State) : State :=
  let w := s.wbSt t
  if !(s.usableT t && s.onF (wbB t) R.WB_RS_EN && w.running) then s
  else
    let r := s.rsRatio t
    let n := rsBelow r w.rsStart (s.streamHead (inputOf t) - rsSpan r)
    let n := match w.sw with | some sw => min n (rsBelow r w.rsStart sw) | none => n
    let outs := (List.range (n - w.rsNext)).map fun i => rsSample s t (w.rsNext + i)
    let sat := (outs.map (·.2)).foldl (· + ·) 0
    let s := s.modWb t fun w => { w with rsNext := max w.rsNext n, rsOut := w.rsOut ++ outs.map (·.1) }
    if sat = 0 then s else s.inc (wbB t) R.WB_SAT_COUNT_SATURATIONS sat

/-! Pipelines (R98, R104). -/

/-- WB_PIPE_MAP of lead die `l` has been written: frames that start from now on take it (R98). -/
def notePipes (l : Nat) (s : State) : State :=
  let k := if (s.wbSt l).running then s.recvSample (inputOf l) + 1 else 0
  let m := (s.reg (wbB l + R.WB_PIPE_MAP)).toNat
  s.modWb l fun w => { w with pipes := (k, m) :: (if k = 0 then [] else w.pipes) }

/-- The pipelines of a map in the order in which they take spectra, as (die, pipeline): at 87.5 % the dies' take turns.
DESIGN CHOICE: below it a pipeline of the partner die, which only a repair puts there, comes after the lead die's (R104,
R353). -/
def pipeList (l overlap m : Nat) : List (Nat × Nat) :=
  let own := ((List.range 4).filter fun k => bit m k).map fun k => (l, k)
  let other := ((List.range 4).filter fun k => bit m (4 + k)).map fun k => (l + 1, k)
  if overlap = 3 then (own.zip other).flatMap fun e => [e.1, e.2] else own ++ other

/-- The pipeline that computes the spectrum of the frame at `start` (R104). -/
def pipeOf (s : State) (l start : Nat) : Option (Nat × Nat) :=
  let q := s.wbSet l
  let m := (((s.wbSt l).pipes.find? fun e => decide (e.1 ≤ start)).map (·.2)).getD 0
  (pipeList l q.overlap m)[q.numberOf start % 2 ^ q.overlap]?

/-! A spectrum (R103 to R116). -/

/-- Whether die `t` is to compute the spectrum of the frame at `start` next or later under the setting in force, and the
whole frame has come. -/
def specDue (s : State) (t start : Nat) : Bool :=
  let l := pairLead t
  let w := s.wbSt l
  let q := s.wbSet l
  s.usableT t && s.onF (wbB l) R.WB_CTRL_EN && w.running && decide (w.baseStart ≤ start)
    && decide ((start - w.baseStart) % q.hop = 0)
    && (match w.sw with | some sw => decide (start < sw) | none => true)
    && decide (start + q.n ≤ s.streamHead (inputOf l))
    && decide ((if t = l then w.doneLead else w.donePartner) ≤ w.baseIdx + q.numberOf start)
    && ((pipeOf s l start).map (·.1) == some t)

/-- Die `t` has computed the spectrum with index `idx`, or lost it. -/
def specDone (t idx : Nat) (s : State) : State :=
  let l := pairLead t
  s.modWb l fun w => { w with
    nextIdx := max w.nextIdx (idx + 1)
    doneLead := if t = l then idx + 1 else w.doneLead
    donePartner := if t = l then w.donePartner else idx + 1 }

/-- The spectrum of the frame at `start` is lost in a pipeline that has failed: it is to be recomputed, and so is the
trace that lacks it (R119). -/
def specLost (t start : Nat) (s : State) : State :=
  let l := pairLead t
  let q := s.wbSet l
  let idx := q.baseIdx + q.numberOf start
  let span := q.d * q.l
  let first := q.baseIdx + q.numberOf start / span * span
  let s := specDone t idx (s.modWb l fun w => { w with lost := w.lost ++ [{ idx := idx, start := start, set := q }] })
  if !s.onF (wbB l) R.WB_AVG_TRACE_EN || (s.wbSt l).incomplete.any fun e => e.first == first then s
  else
    let at_ := q.startOf first
    s.modWb l fun w => { w with incomplete := w.incomplete ++
      [{ first := first, n := span, sts := s.sampleSts (inputOf l) at_, start := at_, set := q }] }

/-- Whether a component lies in its 24-bit range. -/
def binFits (b : Int × Int) : Bool :=
  decide (-8388608 ≤ b.1) && decide (b.1 ≤ 8388607) && decide (-8388608 ≤ b.2) && decide (b.2 ≤ 8388607)

/-- A bin as a mantissa at exponent `e`, rounded to nearest, ties away from zero (DESIGN CHOICE, assumption log). -/
def binAt (e : Nat) (x : Cx) : Int × Int :=
  (rha x.1.num (x.1.den * 2 ^ e), rha x.2.num (x.2.den * 2 ^ e))

/-- The block exponent: the least at which no bin saturates (R107; that it is the least is DESIGN CHOICE). -/
def blockExp (x : List Cx) : Nat := ((List.range 16).find? fun e => x.all fun b => binFits (binAt e b)).getD 16

/-- Components held at the ends of their range (R107). -/
def holdBin (b : Int × Int) : Int × Int := (clampI (-8388608) 8388607 b.1, clampI (-8388608) 8388607 b.2)

/-- The bins of the frame at `start` of samples `x`: mantissas, exponent, and how many bins hold a held component (R99 to
R107). -/
def specBins (q : WbSet) (l : Nat) (x : Nat → Int × Int) (start : Nat) : List (Int × Int) × Nat × Nat :=
  let raw := dft q.log2n (((windowWeights q.tab l q.window q.log2n).zipIdx start).map fun e => cxScale e.1 (toCx (x e.2)))
  let e := if q.fixed then q.shift else blockExp raw
  let bins := raw.map (binAt e)
  (bins.map holdBin, e, (bins.filter fun b => !binFits b).length)

/-- Flags of stretches of the stream that samples `first` to `last` touch (R97). -/
def zoneBits (w : WbSt) (first last : Nat) : Nat :=
  w.zones.foldl (fun b z => if z.first ≤ last ∧ first ≤ z.last then b ||| z.bits else b) 0

/-- The spectrum with index `idx` that die `t` computes under setting `q` from samples `x` with status `st`, as its
consumers see it; the number of its saturated bins, its bins and its exponent (R107, R108, R110). -/
def specInfo (s : State) (t : Nat) (q : WbSet) (idx : Nat) (x : Nat → Int × Int) (st : Nat) :
    SpecInfo × Nat × List (Int × Int) × Nat :=
  let l := pairLead t
  let start := q.startOf idx
  let (bins, e, sat) := specBins q l x start
  let sumW := ratSum (windowWeights q.tab l q.window q.log2n)
  let pw := bins.map fun b => binPower b.1 b.2 e sumW
  ({ die := t, lead := l, idx := idx, start := start, n := q.n
     flags := st ||| zoneBits (s.wbSt l) start (start + q.n - 1) ||| (if sat = 0 then 0 else 256)
     sts := s.sampleSts (inputOf t) start, pw := pw, lv := pw.map dbCode }, sat, bins, e)

/-- A spectrum is counted, and goes out as an item if its setting asks for it (R107, R109, R111). -/
def specOut (q : WbSet) (i : SpecInfo) (sat : Nat) (bins : List (Int × Int)) (e : Nat) (s : State) : State :=
  let s := s.wr (wbB i.die) R.WB_SPEC_COUNT_SPECTRA ((s.rd (wbB i.die) R.WB_SPEC_COUNT_SPECTRA + 1) % 2 ^ 32)
  let s := if sat = 0 then s else s.inc (wbB i.die) R.WB_SAT_COUNT_SATURATIONS sat
  let lead := decide (i.die = i.lead) || bit i.flags 6
  if lead && decide ((i.idx - q.baseIdx) % q.every = 0) && (q.out == 1 || q.out == 2) then
    let hdr := fun ty exp => itemHeader ty (inputOf i.lead) i.flags q.log2n q.window 0xFF exp i.sts i.idx 1
    sendItem (inputOf i.lead) (if q.out = 1 then hdr 2 0 ++ levelBytes i.lv else hdr 1 e ++ cplxBytes bins) s
  else s

/-- A spectrum as a detection interval of its own (R112). -/
def SpecInfo.det (i : SpecInfo) (iv : Nat) : Det :=
  { iv := iv, n := 1, flags := i.flags, first := i.idx, last := i.idx, sts := i.sts, lastStart := i.start, pw := i.pw
    lv := i.lv }

/-- A spectrum enters the detector of its die (R112, R114). -/
def specDetect (i : SpecInfo) (s : State) : State :=
  let l := i.lead
  let rel := i.idx - (s.wbSt l).baseIdx
  let d := s.wbD l
  let one := i.det (rel / d)
  let partner := decide (i.die ≠ l) && decide (s.wbOverlap l = 3)
  let get := fun (w : WbSt) => if partner then w.detPartner else w.detLead
  let put := fun (w : WbSt) x => if partner then { w with detPartner := x } else { w with detLead := x }
  let old := get (s.wbSt l)
  let s := if old.n ≠ 0 ∧ old.iv ≠ one.iv then closeDet l old (s.modWb l fun w => put w {}) else s
  let cur := detJoin (s.wbDet l) (get (s.wbSt l)) one
  let lastOwn := if s.wbOverlap l = 3 then decide (d ≤ rel % d + 2) else decide (rel % d + 1 = d)
  if lastOwn then closeDet l cur (s.modWb l fun w => put w {}) else s.modWb l fun w => put w cur

/-- The detected spectrum of interval `iv` of setting `q` from its spectra (R112, R119). -/
def detOf (q : WbSet) (iv : Nat) (l : List SpecInfo) : Det :=
  detResult q.det ((l.filter fun i => (i.idx - q.baseIdx) / q.d == iv).foldl (fun a i => detJoin q.det a (i.det iv)) {})

/-- The trace of setting `q` that spectra `l`, in order, make (R115, R119). -/
def traceOf (q : WbSet) (l : List SpecInfo) : TraceAcc :=
  let ivs := (l.map fun i => (i.idx - q.baseIdx) / q.d).eraseDups
  ivs.foldl (fun a iv => a.add (iv / q.l) (detOf q iv l)) {}

end Sys2Proof.Machine
end

