-- ==== Sys2Proof/Machine/Trg.lean ====
section
/-! DEFINITION. Triggers (chapter 4): conditions, units, the fabric and its log, messages, and the TRG shadow set. -/

namespace Sys2Proof.Machine

def dTrg : Nat → TrgSt := fun _ => {}
def State.trgSt (s : State) (l : Nat) : TrgSt := tget dTrg s.trg l
def State.modTrg (s : State) (l : Nat) (f : TrgSt → TrgSt) : State :=
  { s with trg := tset dTrg s.trg l (f (s.trgSt l)) }
def dUnit : Nat → TrgUnit := fun _ => {}
def State.unitSt (s : State) (l u : Nat) : TrgUnit := tget dUnit (s.trgSt l).units u
def State.modUnit (s : State) (l u : Nat) (f : TrgUnit → TrgUnit) : State :=
  s.modTrg l fun q => { q with units := tset dUnit q.units u (f (s.unitSt l u)) }
def dCond : Nat → CondSt := fun _ => {}

/-- Where the registers of condition `c` (0 to 31 of the pair of lead die `l`) and unit `u` are based. -/
def condB (l c : Nat) : Nat := trgB (l + c / 16) + 0x20 * (c % 16)
def unitB (l u : Nat) : Nat := trgB l + 0x40 * u

/-- The TRG registers that hold for sample `k`, and the mask tables that hold for a frame starting at `k` (R161). -/
def trgSetAt (s : State) (l k : Nat) : Tbl Word :=
  match (s.trgSt l).old.find? fun o => decide (k < o.upTo) with
  | some o => o.regs
  | none => s.force
def trgTabAt (s : State) (l k : Nat) : Tbl Word :=
  match (s.trgSt l).old.find? fun o => decide (k < o.upTo) with
  | some o => o.tabs
  | none => s.tabF

/-- Field `f` of the TRG set that holds for sample `k`. -/
def State.rdT (s : State) (l k b : Nat) (f : Fld) : Nat :=
  bitsOf (tget resetOf (trgSetAt s l k) (b + f.off)).toNat f.lo f.w
def State.rdTI (s : State) (l k b : Nat) (f : Fld) : Int := sx f.w (s.rdT l k b f)
def State.onT (s : State) (l k b : Nat) (f : Fld) : Bool := s.rdT l k b f != 0

/-- The type of condition `c` for sample `k` (R129, R130): code 7 is OFF, and MASK and BANDPOWER act on a lead die
only. -/
def condType (s : State) (l k c : Nat) : Nat :=
  let ty := s.rdT l k (condB l c) R.TRG_COND_c_CTRL_TYPE
  if ty = 7 ∨ (16 ≤ c ∧ (ty = 1 ∨ ty = 2)) then 0 else ty

/-- Whether the conditions of condition `c`'s die are enabled and it exists. -/
def condOn (s : State) (l c : Nat) : Bool :=
  s.usableT (l + c / 16) && s.on (trgB (l + c / 16)) R.TRG_CTRL_EN

/-! Samples and times (R142, R143). -/

/-- The stream sample of an input nearest to reference-plane time `t` (R143); 0 before its count has started. -/
def State.sampleAt (s : State) (inp : Nat) (t : Int) : Nat :=
  let t15625 := t * 15625 + s.inputDelay inp * 49152
  -- FRC = baseR + (t - baseT) / (51200 * (fineU + rateEff)), over den
  let den : Int := 15625 * 51200 * ((fineU : Int) + s.time.rateEff)
  let num : Int := t15625 * fineU - s.time.baseT * 15625 + s.time.baseR * den
  match s.sampleFrc inp 0 with
  | none => 0
  | some (r0, d0) =>
    match s.part with
    | .s2d => (rhu ((num * d0 - r0 * den)) (den * max 1 (s.rd (timeB 0) R.TIME_JRX_STEP_STEP)).toNat).toNat
    | _ => (rhu (num * d0 - r0 * den) den.toNat).toNat

/-- A sample of one input moved to the other's index (R142): 48 fs at 10.24 GS/s is 49152/10^8 of a sample. -/
def moveInput (s : State) (inp from_ j : Nat) : Nat :=
  (j + rhu ((s.inputDelay inp - s.inputDelay from_) * 49152) 100000000).toNat

/-- 250 ms in stream samples of an input (R152). -/
def logSpan (s : State) : Nat :=
  match s.part with
  | .s2d => 320000000 * 2 ^ 28 / max 1 (s.rd (timeB 0) R.TIME_JRX_STEP_STEP)
  | _ => 2560000000

/-! The log (R152). -/

/-- Insert into the log in sample order, after entries of the same sample. -/
def logInsert : List TrgEntry → TrgEntry → List TrgEntry
  | [], e => [e]
  | x :: l, e => if x.at_ ≤ e.at_ then x :: logInsert l e else e :: x :: l

/-- The states before the log after dropping entry `e` from its front. -/
def baseAfter (base : List Nat) (e : TrgEntry) : List Nat :=
  match e.state with
  | some true => if e.src ∈ base then base else base ++ [e.src]
  | some false => base.filter (· != e.src)
  | none => base

/-- Keep the most recent 65,536 entries and 250 ms. -/
def logTrim (span : Nat) (q : TrgSt) : (fuel : Nat) → TrgSt
  | 0 => q
  | f + 1 =>
    match q.log with
    | [] => q
    | e :: l =>
      if 65536 < q.log.length ∨ e.at_ + span < q.evaluated then
        logTrim span { q with log := l, base := baseAfter q.base e, floor := max q.floor (e.at_ + 1) } f
      else q

/-- The state of source `src` at sample `k`. -/
def stateAt (base : List Nat) (log : List TrgEntry) (src k : Nat) : Bool :=
  log.foldl (fun b e => if e.at_ ≤ k ∧ e.src = src then e.state.getD b else b) (decide (src ∈ base))

/-- Whether an entry is of an external source that its unit does not select, so that it is no hit (R144). -/
def unselected (s : State) (l : Nat) (e : TrgEntry) : Bool :=
  let b := unitB l ((e.src - 32) / 8)
  decide (32 ≤ e.src)
    && !bit (s.rdT l e.at_ b R.TRGU_u_XSRC_A_XSRC ||| s.rdT l e.at_ b R.TRGU_u_XSRC_B_XSRC) ((e.src - 32) % 8)

/-- An entry reaches the fabric. A hit on a sample already evaluated is late (R152); a state change that the log no longer
covers becomes part of the states before it. A fabric that is not enabled keeps the states only. -/
def trgEntry (l : Nat) (e : TrgEntry) (s : State) : State :=
  let q := s.trgSt l
  if !s.on (trgB l) R.TRG_CTRL_EN then s.modTrg l fun q => { q with base := baseAfter q.base e } else
  let covered := decide (q.floor ≤ e.at_) && decide (q.evaluated ≤ e.at_ + logSpan s)
  if e.hit && decide (e.at_ < q.evaluated) then
    if unselected s l e then s
    else (s.inc (trgB l) R.TRG_LATE_COUNT_LATE).modTrg l fun q => { q with late := q.late ++ [(e, covered)] }
  else if covered then
    s.modTrg l fun q =>
      let q := { q with log := logInsert q.log e }
      logTrim (logSpan s) q q.log.length
  else s.modTrg l fun q => { q with base := baseAfter q.base e }

/-- Show a condition's live state (TRG_COND_STATE.STATE). -/
def showCond (l c : Nat) (on : Bool) (s : State) : State :=
  let b := trgB (l + c / 16)
  s.wr b R.TRG_COND_STATE_STATE (bitsPut (s.rd b R.TRG_COND_STATE_STATE) (c % 16) 1 (b2n on))

/-- A hit of condition `c`: counted, wrapping at 2^32 (TRG_COND_c_HITS). -/
def countHit (l c : Nat) (s : State) : State :=
  s.wr (condB l c) R.TRG_COND_c_HITS_HITS ((s.rd (condB l c) R.TRG_COND_c_HITS_HITS + 1) % 2 ^ 32)

/-- Condition `c` takes state `on` at sample `k` under the set that holds for sample `set`; a change in the direction of
POL is a hit (R133, R137, R161). -/
def condStateAt (l c set k : Nat) (on : Bool) (flags : Nat) (s : State) : State :=
  let q := tget dCond (s.trgSt l).conds c
  if q.state = on then s
  else
    let hit := on != s.onT l set (condB l c) R.TRG_COND_c_CTRL_POL
    let s := s.modTrg l fun t => { t with conds := tset dCond t.conds c { q with state := on } }
    let s := showCond l c on (if hit then countHit l c s else s)
    trgEntry l { at_ := k, src := c, hit := hit, state := some on, flags := flags } s

def condState (l c k : Nat) (on : Bool) (flags : Nat) (s : State) : State := condStateAt l c k k on flags s

/-- A hit of condition `c` at sample `k` whose state is true for that one sample (R138, R140). -/
def condPoint (l c k flags : Nat) (s : State) : State :=
  let s := trgEntry l { at_ := k, src := c, hit := true, state := some true, flags := flags } (countHit l c s)
  trgEntry l { at_ := k + 1, src := c, hit := false, state := some false } s

/-- A hit of external source `b` of unit `u` (R144). -/
def extHit (l u b k : Nat) (pre post sender : Nat) (s : State) (id : Nat := 0) : State :=
  trgEntry l { at_ := k, src := 32 + 8 * u + b, hit := true, pre := pre, post := post, sender := sender, id := id } s

/-! Level comparisons in dB16, exact. -/

/-- Whether 10 log10 x is strictly above `code` / 256 dB: x^2560 > 10^code. -/
def aboveDb (x : Rat) (code : Int) : Bool :=
  if x ≤ 0 then false
  else if code < 0 then decide (x.den ^ 2560 < x.num.toNat ^ 2560 * 10 ^ code.natAbs)
  else decide (10 ^ code.natAbs * x.den ^ 2560 < x.num.toNat ^ 2560)

/-- Whether 10 log10 x is strictly below `code` / 256 dB. -/
def belowDb (x : Rat) (code : Int) : Bool := if x ≤ 0 then true else !powGe x 2560 code

/-- The next state of a threshold with hysteresis (R137): true above LEVEL, false below LEVEL - HYST. -/
def hystState (on : Bool) (x : Rat) (level hyst : Int) : Bool :=
  if on then !belowDb x (level - hyst) else aboveDb x level

/-! The stream's samples (R137, R138). -/

def State.condSt (s : State) (l c : Nat) : CondSt := tget dCond (s.trgSt l).conds c
def State.setCond (s : State) (l c : Nat) (q : CondSt) : State :=
  s.modTrg l fun t => { t with conds := tset dCond t.conds c q }

/-- The power of stream sample `k` as die `t` receives it, against full scale (R137). -/
def samplePower (s : State) (t k : Nat) : Rat :=
  let x := s.dieSample t k
  ((x.1 * x.1 + x.2 * x.2 : Int) : Rat) / ((2 ^ 46 : Nat) : Rat)

/-- Whether the LEVEL state that was `on` holds at sample `k`, under condition `c`'s settings for that sample (R137). -/
def levelOn (s : State) (l c k : Nat) (on : Bool) : Bool :=
  let b := condB l c
  hystState on (samplePower s (l + c / 16) k) (s.rdTI l k b R.TRG_COND_c_THRESH_LEVEL)
    (s.rdT l k b R.TRG_COND_c_THRESH_HYST)

/-- LEVEL condition `c` judges sample `k`; whether its state changes. -/
def levelAt (l c k : Nat) (s : State) : State × Bool :=
  let on := levelOn s l c k (s.condSt l c).state
  (condState l c k on 0 s, on != (s.condSt l c).state)

/-- WIDTH condition `c` judges sample `k`: its pulse begins, goes on or ends (R138); whether a hit or the end of a hit
comes of it. -/
def widthAt (l c k : Nat) (s : State) : State × Bool :=
  let b := condB l c
  let q := s.condSt l c
  let lo := s.rdT l k b R.TRG_COND_c_WMIN_WMIN
  let hi := s.rdT l k b R.TRG_COND_c_WMAX_WMAX
  let outside := s.onT l k b R.TRG_COND_c_WMIN_OUTSIDE
  let on := levelOn s l c k q.level
  let first := if on && !q.level then k else q.pulse
  let s := s.setCond l c { q with level := on, pulse := first }
  if on then
    if outside && decide (k - first = hi) then
      let s := s.setCond l c { s.condSt l c with state := true }
      (trgEntry l { at_ := first, src := c, hit := true, state := some true } (showCond l c true (countHit l c s)), true)
    else (s, false)
  else if !q.level then (s, false)
  else
    let w := k - first
    if q.state then
      let s := s.setCond l c { s.condSt l c with state := false }
      (trgEntry l { at_ := k, src := c, hit := false, state := some false } (showCond l c false s), true)
    else if (if outside then decide (w < lo) else decide (lo ≤ w) && decide (w ≤ hi)) then (condPoint l c first 0 s, true)
    else (s, false)

/-- The next sample that condition `c` judges, and the samples it may judge: those that have come, up to a switch sample
not yet reached. -/
def condNext (s : State) (l c : Nat) : Nat := max (s.condSt l c).next (s.wbSt l).start
def condLimit (s : State) (l : Nat) : Nat :=
  match (s.trgSt l).sw with
  | some sw => min sw (s.streamHead (inputOf l))
  | none => s.streamHead (inputOf l)

/-- Condition `c` judges sample after sample, while its type is `ty`, until one makes a hit or changes its state; `fuel`
bounds their number. -/
def timeScan (ty l c : Nat) : (fuel : Nat) → State → State
  | 0, s => s
  | f + 1, s =>
    let k := condNext s l c
    let tk := condType s l k c
    if condLimit s l ≤ k ∨ (tk ≠ ty ∧ (tk = 3 ∨ tk = 4)) then s
    else
      let s := s.setCond l c { s.condSt l c with next := k + 1 }
      let r := if tk ≠ ty then (s, false) else if ty = 3 then levelAt l c k s else widthAt l c k s
      if r.2 then r.1 else timeScan ty l c f r.1

/-- LEVEL_HIT: condition `c` of die `t` judges the stream up to the next sample that carries it past its threshold
(R137). -/
def execLevelHit (t : TDie) (c : Fin 16) (s : State) : Host.Outcome State Fault Refusal :=
  let l := pairLead t
  let c := 16 * (t - l : Nat) + c
  .next (if condOn s l c then timeScan 3 l c (condLimit s l - condNext s l c) s else s)

/-- WIDTH_HIT: condition `c` of die `t` judges the stream up to the next pulse that it takes, or to the end of one (R138). -/
def execWidthHit (t : TDie) (c : Fin 16) (s : State) : Host.Outcome State Fault Refusal :=
  let l := pairLead t
  let c := 16 * (t - l : Nat) + c
  .next (if condOn s l c then timeScan 4 l c (condLimit s l - condNext s l c) s else s)

/-- TRG_CTRL.EN of die `t` has become 1: its conditions judge the stream from the sample now received on. -/
def condsEnabled (t : Nat) (s : State) : State :=
  let l := pairLead t
  (List.range 16).foldl (fun s c0 =>
    let c := 16 * (t - l) + c0
    s.setCond l c { s.condSt l c with next := max (s.condSt l c).next (s.recvSample (inputOf l)) }) s

/-- The next state of a threshold on dB16 results with hysteresis (R137, R139). -/
def hystCode (on : Bool) (v level hyst : Int) : Bool :=
  if on then decide (level - hyst ≤ v) else decide (level < v)

/-- A detector result `v` in dB16 of zoom channel `ch` of die `t` at stream sample `k`: every ZOOM condition that
watches that detector compares it with LEVEL and HYST (R139). -/
def zoomConds (t ch det k : Nat) (v : Int) (flags : Nat) (s : State) : State :=
  let l := pairLead t
  (List.range 16).foldl (fun s c0 =>
    let c := 16 * (t - l) + c0
    let b := condB l c
    let sel := s.rdT l k b R.TRG_COND_c_SEL_DET
    if condOn s l c && decide (condType s l k c = 5) && decide (s.rdT l k b R.TRG_COND_c_SEL_CHAN = ch)
        && decide ((if sel = 3 then 0 else sel) = det) then
      condState l c k (hystCode (tget dCond (s.trgSt l).conds c).state v (s.rdTI l k b R.TRG_COND_c_THRESH_LEVEL)
        (s.rdT l k b R.TRG_COND_c_THRESH_HYST)) flags s
    else s) s

/-- Core `core` of die `t` gives a trigger at sample `k`: every CORE condition that selects it hits (R140). -/
def coreConds (t core k : Nat) (flags : Nat) (s : State) : State :=
  let l := pairLead t
  (List.range 16).foldl (fun s c0 =>
    let c := 16 * (t - l) + c0
    if condOn s l c && decide (condType s l k c = 6)
        && decide (s.rdT l k (condB l c) R.TRG_COND_c_SEL_CHAN = core) then condPoint l c k flags s
    else s) s

/-! Spectral conditions (R131 to R136). -/

/-- The ENBW of a setting's window in 1/4096 bins: R99's figures (to within the 0.01 bins the spec states, an open value),
or the user table's of R101. -/
def enbw4096 (q : WbSet) (l : Nat) : Rat :=
  match q.window with
  | 0 => 4096
  | 8 => userEnbw q.tab l q.n
  | w =>
    let nominal : Nat := #[100, 150, 136, 173, 200, 180, 164, 377].getD w 100
    4096 * ((nominal : Rat) / 100 + within (1 / 100) (Config.freeRat 32 w))

/-- How many bins of FIRST to LAST violate the mask (R131). -/
def maskCount (s : State) (l k b n : Nat) (lv : List Int) : Nat :=
  let first := s.rdT l k b R.TRG_COND_c_BINS_FIRST
  let last := min (n - 1) (s.rdT l k b R.TRG_COND_c_BINS_LAST)
  let side := s.rdT l k b R.TRG_COND_c_CTRL_SIDE
  let tab := trgTabAt s l k
  let t := s.rdT l k b R.TRG_COND_c_CTRL_TABLE
  ((lv.zipIdx).filter fun x =>
    let e := (tget tabReset tab (maskKey l t (x.2 * 65536 / n))).toNat
    decide (first ≤ x.2) && decide (x.2 ≤ last)
      && ((side != 2 && decide (sx 16 (bitsOf e 16 16) < x.1))
        || ((side == 2 || side == 3) && decide (x.1 < sx 16 (bitsOf e 0 16))))).length

/-- Whether spectrum violates or is above (`some true`), passes or is below (`some false`), or neither (R131, R132). -/
def spectralJudge (s : State) (set : WbSet) (l k c n : Nat) (pw : List Rat) (lv : List Int) : Option Bool :=
  let b := condB l c
  if condType s l k c = 1 then
    some (decide (max 1 (s.rdT l k b R.TRG_COND_c_COUNT_K) ≤ maskCount s l k b n lv))
  else
    let first := s.rdT l k b R.TRG_COND_c_BINS_FIRST
    let last := min (n - 1) (s.rdT l k b R.TRG_COND_c_BINS_LAST)
    let sum := ((pw.drop first).take (last + 1 - first)).foldl (· + ·) 0
    let e := enbw4096 set l
    let p := if e = 0 then 0 else sum * 4096 / e
    let level := s.rdTI l k b R.TRG_COND_c_THRESH_LEVEL
    if aboveDb p level then some true
    else if belowDb p (level - s.rdT l k b R.TRG_COND_c_THRESH_HYST) then some false else none

/-- A spectral condition takes the judgement `v` of a spectrum whose frame starts at `k` (R133, R135, R136). -/
def spectralCond (l c k n flags : Nat) (v : Option Bool) (s : State) : State :=
  let b := condB l c
  let bad := decide (min (n - 1) (s.rdT l k b R.TRG_COND_c_BINS_LAST) < s.rdT l k b R.TRG_COND_c_BINS_FIRST)
  if bad || (s.onT l k b R.TRG_COND_c_CTRL_SKIPF && flags &&& (16 ||| 8 ||| 128) != 0) then s
  else
    let q := s.condSt l c
    let q' : CondSt := { q with
      runOn := if v = some true then q.runOn + 1 else 0
      runOff := if v = some false then q.runOff + 1 else 0 }
    let run := max 1 (s.rdT l k b R.TRG_COND_c_CTRL_RUN)
    let on := if run ≤ q'.runOn then true else if run ≤ q'.runOff then false else q.state
    let place := match s.rdT l k b R.TRG_COND_c_CTRL_PLACE with | 0 => 0 | 2 => n - 1 | _ => n / 2
    condStateAt l c k (k + place) on (if bit flags 6 then 4 else 0) (s.setCond l c q')

/-- Every MASK and BANDPOWER condition of the input with the given SRC judges a spectrum of setting `set` whose frame
starts at sample `k`, whichever die computed it (R130, R134). -/
def spectralJudged (s : State) (set : WbSet) (l src k n : Nat) (pw : List Rat) (lv : List Int) :
    List (Nat × Option Bool) :=
  ((List.range 16).filter fun c =>
    let ty := condType s l k c
    condOn s l c && (ty == 1 || ty == 2) && decide (s.rdT l k (condB l c) R.TRG_COND_c_CTRL_SRC = src)).map fun c =>
      (c, spectralJudge s set l k c n pw lv)

/-- The conditions take their judgements of a spectrum (R133). -/
def spectralTake (l src : Nat) (r : SpecResult) (s : State) : State :=
  let s := s.modTrg l fun q => match q.lastSw with
    | some sw => if sw ≤ r.i.start then
        (if src = 0 then { q with specSince := true } else { q with detSince := true }) else q
    | none => q
  r.judged.foldl (fun s e => spectralCond l e.1 r.i.start r.i.n r.i.flags e.2 s) s

/-- A spectrum as its conditions judge it. -/
def specResult (s : State) (set : WbSet) (src : Nat) (i : SpecInfo) : SpecResult :=
  { i := i, judged := spectralJudged s set i.lead src i.start i.n i.pw i.lv }

/-- Insert a judged spectrum by its index. -/
def resultInsert : List SpecResult → SpecResult → List SpecResult
  | [], r => [r]
  | x :: l, r => if x.i.idx ≤ r.i.idx then x :: resultInsert l r else r :: x :: l

/-! Units (R144 to R149). -/

/-- A unit's settings. -/
structure UnitCfg where
  en : Bool
  mode : Nat
  aAnd : Bool
  bAnd : Bool
  restart : Bool
  aC : Nat
  bC : Nat
  aX : Nat
  bX : Nat
  w : Nat
  holdoff : Nat

/-- The settings of unit `u` for sample `k`. -/
def unitCfg (s : State) (l u k : Nat) : UnitCfg :=
  let b := unitB l u
  { en := s.onT l k b R.TRGU_u_CTRL_EN, mode := s.rdT l k b R.TRGU_u_CTRL_MODE % 3
    aAnd := s.onT l k b R.TRGU_u_CTRL_A_AND, bAnd := s.onT l k b R.TRGU_u_CTRL_B_AND
    restart := s.onT l k b R.TRGU_u_CTRL_ARESTART
    aC := s.rdT l k b R.TRGU_u_A_CONDS, bC := s.rdT l k b R.TRGU_u_B_CONDS
    aX := s.rdT l k b R.TRGU_u_XSRC_A_XSRC, bX := s.rdT l k b R.TRGU_u_XSRC_B_XSRC
    w := s.rdT l k b R.TRGU_u_WINDOW_W, holdoff := s.rdT l k b R.TRGU_u_HOLDOFF_HOLDOFF }

/-- Whether an entry is a hit at `k` of a member of the set of conditions `cs` and external sources `xs` of unit `u`. -/
def memberHit (u cs xs k : Nat) (e : TrgEntry) : Bool :=
  e.hit && decide (e.at_ = k) &&
    (if e.src < 32 then bit cs e.src
     else decide ((e.src - 32) / 8 = u) && decide ((e.src - 32) % 8 < 5) && bit xs ((e.src - 32) % 8))

/-- Whether every member of the set is true at `k` (R144); a reserved source never is. -/
def allTrue (base : List Nat) (log : List TrgEntry) (u cs xs k : Nat) : Bool :=
  (List.range 32).all (fun c => !bit cs c || stateAt base log c k) &&
    (List.range 8).all (fun b => !bit xs b ||
      (decide (b < 5) && log.any fun e => e.hit && decide (e.at_ = k) && decide (e.src = 32 + 8 * u + b)))

/-- How often a set fires at sample `k`, and what made it (R144, R149). `l` is the lead die. -/
def setFire (l : Nat) (base : List Nat) (log : List TrgEntry) (u cs xs : Nat) (and_ : Bool) (k : Nat) : Nat × Fire :=
  let hits := log.filter (memberHit u cs xs k)
  let fl := hits.foldl (fun f e => f ||| e.flags) 0
  let pre := hits.foldl (fun m e => max m e.pre) 0
  let post := hits.foldl (fun m e => max m e.post) 0
  let snd := hits.foldl (fun m e => max m e.sender) 0
  let net := fun x => if bit x 4 then 8 else 0
  if cs = 0 ∧ xs = 0 then (0, {})
  else if and_ then
    if allTrue base log u cs xs k && (decide (k = 0) || !allTrue base log u cs xs (k - 1)) then
      (1, { cause := cs * 2 ^ (16 * l), xsrc := xs, flags := fl ||| net xs, pre := pre, post := post, sender := snd })
    else (0, {})
  else
    let c := hits.foldl (fun m e => if e.src < 32 then m ||| 2 ^ (16 * l + e.src) else m) 0
    let x := hits.foldl (fun m e => if e.src < 32 then m else m ||| 2 ^ ((e.src - 32) % 8)) 0
    (hits.length, { cause := c, xsrc := x, flags := fl ||| net x, pre := pre, post := post, sender := snd })

/-- What one sample does to a unit: the held firing after it, the events it completes (sample, firings, causes), and
the firings of A ignored in holdoff. -/
structure UnitOut where
  held : Option (Nat × Fire)
  done : List (Nat × Nat × Fire) := []
  ignored : Nat := 0

/-- The window of a held firing ends before sample `k`: a DROPOUT event at a + W (R145), or nothing. DESIGN CHOICE: R146
does not say what becomes of a firing of A that no firing of B has followed within W in SEQUENCE; it is released there. A
firing held across a switch sample of `sws` is discarded there (R162). -/
def windowEnd (c : UnitCfg) (sws : List Nat) (k : Nat) (held : Option (Nat × Fire)) : UnitOut :=
  match held with
  | none => { held := none }
  | some (a, f) =>
    match sws.find? fun sw => decide (a < sw) && decide (sw ≤ k) && decide (sw ≤ a + c.w) with
    | some _ => { held := none }
    | none =>
      if a + c.w < k then
        { held := none
          done := if c.mode = 2 then [(a + c.w, 1, { f with flags := f.flags ||| 16 })] else [] }
      else { held := some (a, f) }

/-- The firings `a` and `b` of sets A and B at sample `k` (R145, R146). `ok` says that an event at `k` would be
issued, `blocked` that the unit is in holdoff at `k`. -/
def unitFirings (c : UnitCfg) (ok blocked : Bool) (k : Nat) (a b : Nat × Fire) (held : Option (Nat × Fire)) :
    UnitOut :=
  if !c.en then { held := held }
  else if c.mode = 0 then { held := none, done := if a.1 = 0 then [] else [(k, a.1, a.2)] }
  else
    let ign := if a.1 ≠ 0 ∧ blocked then a.1 else 0
    let held := if a.1 ≠ 0 ∧ !blocked ∧ (held.isNone ∨ c.restart) then some (k, a.2) else held
    match held with
    | none => { held := none, ignored := ign }
    | some (a0, f) =>
      if b.1 = 0 ∨ a0 + c.w < k then { held := some (a0, f), ignored := ign }
      else if c.mode = 2 then { held := none, ignored := ign }
      else { held := if ok then none else some (a0, f), done := [(k, b.1, b.2)], ignored := ign }

/-- Whether sample `k` lies in the holdoff of an event at an earlier sample (R147, R153). -/
def inHoldoff (ends : List (Nat × Nat)) (k : Nat) : Bool :=
  ends.any fun e => decide (e.1 ≤ k) && decide (k < e.2)

/-- PRIMARY of a trigger event (R149). -/
def primaryOf (f : Fire) : Nat :=
  match firstBelow 64 (bit f.cause) with
  | some g => g
  | none => 64 + (firstBelow 8 (bit f.xsrc)).getD 0

/-- The 48 bytes of a trigger message (R155, R168). -/
def messageBytes (s : State) (l : Nat) (e : TrgEvent) : List Byte :=
  let b := unitB l e.unit
  let fl := (if bit e.fire.flags 0 then 2 else 0) + (if bit e.fire.flags 2 then 4 else 0)
  beBytes 2 0x5347 ++ beBytes 1 1 ++ beBytes 1 fl ++ beBytes 2 (s.rd (trgB l) R.TRG_NET_ID_ARRAY)
    ++ beBytes 2 (s.rd (trgB l) R.TRG_NET_ID_ENGINE) ++ beBytes 1 e.unit ++ beBytes 1 e.input ++ beBytes 1 e.primary
    ++ beBytes 1 (s.rdT l e.sample b R.TRGU_u_CTRL_TXGROUP) ++ beBytes 4 e.seq ++ beBytes 12 e.sts
    ++ beBytes 4 (16 * s.rdT l e.sample b R.TRGU_u_NETWIN_PRE_NS)
    ++ beBytes 4 (16 * s.rdT l e.sample b R.TRGU_u_NETWIN_POST_NS) ++ beBytes 8 e.fire.cause ++ beBytes 4 0

/-- The 40 bytes of a trigger event's item (R154). -/
def eventItem (e : TrgEvent) : List Byte :=
  leBytes 1 0x10 ++ leBytes 1 e.input ++ leBytes 1 e.unit ++ leBytes 1 e.primary ++ leBytes 2 (e.fire.flags % 32)
    ++ leBytes 1 e.fire.xsrc ++ [0] ++ leBytes 8 e.sample ++ leBytes 8 e.fire.cause ++ leBytes 12 e.sts ++ leBytes 4 e.seq

/-- Offer an event of unit `u` of lead die `l` to the XIN sources of the other input's units (R142, R144). -/
def offerXin (l u k : Nat) (s : State) : State :=
  let m := 2 - l
  if s.part = .s8d ∧ s.usableT m = true ∧ s.on (trgB m) R.TRG_CTRL_EN = true ∧ (s.wbSt m).running = true then
    (List.range 8).foldl (fun s v =>
      let j := moveInput s (inputOf m) (inputOf l) k
      if s.rdT m j (unitB m v) R.TRGU_u_XSRC_XIN = u then extHit m v 3 j 0 0 0 s else s) s
  else s

/-- Unit `u` issues a trigger event at sample `k` (R147, R149, R154, R155). SEQ is the count with this event. -/
def issueEvent (l u k n : Nat) (f : Fire) (s : State) : State :=
  let c := unitCfg s l u k
  let b := unitB l u
  let seq := (s.rd b R.TRGU_u_EVENTS_EVENTS + 1) % 2 ^ 32
  let e : TrgEvent := { input := inputOf l, unit := u, primary := primaryOf f, sample := k, fire := f
                        sts := s.sampleSts (inputOf l) k, seq := seq }
  let s := (s.wr b R.TRGU_u_EVENTS_EVENTS seq).inc b R.TRGU_u_MERGED_MERGED (n - 1)
  let s := if c.holdoff = 0 then s else s.wr b R.TRGU_u_STATUS_HOLDOFF 1
  let s := s.modUnit l u fun q => { q with
    ends := (q.ends.filter fun x => decide ((s.trgSt l).floor ≤ x.2)) ++ [(k, k + 8 * c.holdoff)] }
  let s := s.modTrg l fun q => { q with
    events := q.events ++ [e], sentItems := q.sentItems ++ [eventItem e] }
  let s := if s.onT l k b R.TRGU_u_CTRL_NET_TX then
      let m := messageBytes s l e
      s.modTrg l fun q => { q with outbox := q.outbox ++ [(m, s.rdT l k b R.TRGU_u_CTRL_REPEAT)] }
    else s
  offerXin l u k s

/-- `n` firings complete an event at sample `k`: in holdoff they count in HELD, unarmed in MISS, else the event is
issued (R147 to R149). -/
def completeEvent (l u : Nat) (d : Nat × Nat × Fire) (s : State) : State :=
  let b := unitB l u
  if inHoldoff (s.unitSt l u).ends d.1 then s.inc b R.TRGU_u_HELD_HELD d.2.1
  else if !s.on b R.TRGU_u_STATUS_ARMED then s.inc b R.TRGU_u_MISS_MISSED d.2.1
  else issueEvent l u d.1 d.2.1 d.2.2 s

/-- Set a unit's held firing and show it (TRGU_u_STATUS.WAIT_B). -/
def setHeld (l u : Nat) (h : Option (Nat × Fire)) (s : State) : State :=
  (s.modUnit l u fun q => { q with held := h }).wr (unitB l u) R.TRGU_u_STATUS_WAIT_B (b2n h.isSome)

/-- Apply what a sample did to unit `u`. -/
def applyOut (l u : Nat) (o : UnitOut) (s : State) : State :=
  let s := setHeld l u o.held (if o.ignored = 0 then s else s.inc (unitB l u) R.TRGU_u_HELD_HELD o.ignored)
  o.done.foldl (fun s d => completeEvent l u d s) s

/-- The switch samples the fabric knows. -/
def switches (s : State) (l : Nat) : List Nat := (s.trgSt l).old.map (·.upTo)

/-- Windows that end before sample `k` (R145). -/
def unitWindow (l u k : Nat) (s : State) : State :=
  match (s.unitSt l u).held with
  | none => s
  | some (a, f) => applyOut l u (windowEnd (unitCfg s l u a) (switches s l) k (some (a, f))) s

/-- Unit `u` at sample `k` (R151). -/
def unitSample (l k u : Nat) (s : State) : State :=
  let s := unitWindow l u k s
  let c := unitCfg s l u k
  let q := s.trgSt l
  let a := setFire l q.base q.log u c.aC c.aX c.aAnd k
  let b := setFire l q.base q.log u c.bC c.bX c.bAnd k
  let blocked := inHoldoff (s.unitSt l u).ends k
  if a.1 = 0 ∧ b.1 = 0 then s
  else applyOut l u (unitFirings c (!blocked && s.on (unitB l u) R.TRGU_u_STATUS_ARMED) blocked k a b
    (s.unitSt l u).held) s

/-- The samples of `log` in `[lo, hi)`, each once, in order. -/
def logSamples (log : List TrgEntry) (lo hi : Nat) : List Nat :=
  (log.foldl (fun (acc : List Nat) e =>
    if lo ≤ e.at_ ∧ e.at_ < hi ∧ acc.head? ≠ some e.at_ then e.at_ :: acc else acc) []).reverse

/-- Two rising lists of samples as one, each sample once; `fuel` bounds their length. -/
def mergeSamples : (fuel : Nat) → List Nat → List Nat → List Nat
  | 0, _, _ => []
  | _ + 1, [], b => b
  | _ + 1, a, [] => a
  | f + 1, x :: a, y :: b =>
    if x < y then x :: mergeSamples f a (y :: b)
    else if y < x then y :: mergeSamples f (x :: a) b else x :: mergeSamples f a b

/-- The samples in `[lo, hi)` at which something can happen to a unit: those of the log, and the switch samples, at which
held firings are discarded (R162). -/
def fabricSamples (s : State) (l : Nat) (log : List TrgEntry) (lo hi : Nat) : List Nat :=
  let sws := (switches s l).filter fun k => decide (lo ≤ k) && decide (k < hi)
  mergeSamples (log.length + sws.length + 1) (logSamples log lo hi) sws

/-- The fabric evaluates every sample up to and including `j`; samples without a hit complete nothing but windows
(R151). -/
def fabricTo (l j : Nat) (s : State) : State :=
  let q := s.trgSt l
  if j < q.evaluated then s
  else
    let s := (fabricSamples s l q.log q.evaluated (j + 1)).foldl
      (fun s k => (List.range 8).foldl (fun s u => unitSample l k u s) s) s
    s.modTrg l fun q =>
      let q := { q with evaluated := j + 1 }
      logTrim (logSpan s) { q with old := q.old.filter fun o => decide (j ≤ o.upTo + logSpan s) } q.log.length

/-- FABRIC_EVALUATE: the fabric of lead die `t` evaluates sample `j` (R151). -/
def execFabricEvaluate (t : TDie) (j : Nat) (s : State) : Host.Outcome State Fault Refusal :=
  .next (if isLead t && s.usableT t && s.on (trgB t) R.TRG_CTRL_EN && (s.wbSt t).running then fabricTo t j s else s)

/-- DROPOUT_WINDOW_EXPIRE: the window of unit `u`'s held firing is over (R145). -/
def execDropoutWindowExpire (t : TDie) (u : Fin 8) (s : State) : Host.Outcome State Fault Refusal :=
  .next (if isLead t then unitWindow t u (s.trgSt t).evaluated s else s)

/-- HOLDOFF_END: the fabric is past the end of unit `u`'s holdoff (R147). -/
def execHoldoffEnd (t : TDie) (u : Fin 8) (s : State) : Host.Outcome State Fault Refusal :=
  .next (if isLead t && (s.unitSt t u).ends.all fun e => decide (e.2 ≤ (s.trgSt t).evaluated) then
    s.wr (unitB t u) R.TRGU_u_STATUS_HOLDOFF 0 else s)

/-- TRGU_FORCE: a write of 1 to TRGU_u_FORCE.FORCE gives a HOST hit at the sample the lead die is receiving (R143). -/
def trguForce (t u : Nat) (s : State) : State :=
  if isLead t && s.usableT t && s.on (trgB t) R.TRG_CTRL_EN && (s.wbSt t).running then
    extHit t u 0 (s.recvSample (inputOf t)) 0 0 0 s
  else s

/-- TRGU_FORCE (R143). -/
def execTrguForce (t : TDie) (u : Fin 8) (s : State) : Host.Outcome State Fault Refusal := .next (trguForce t u s)

/-- TIMER_HIT: sample `j` is a multiple of 8 * PERIOD (R143, R144: PERIOD = 0 disables the source). -/
def execTimerHit (t : TDie) (u : Fin 8) (j : Nat) (s : State) : Host.Outcome State Fault Refusal :=
  let p := s.rdT t j (unitB t u) R.TRGU_u_TIMER_PERIOD
  .next (if isLead t && s.usableT t && s.on (trgB t) R.TRG_CTRL_EN && (s.wbSt t).running && decide (0 < p)
      && decide (j % (8 * p) = 0) then extHit t u 1 j 0 0 0 s else s)

/-- A passed edge of event-timing input `n` at reference-plane time `time`: a TDC hit of every unit that selects it
(R143, R144). -/
def tdcHits (n : Nat) (time : Int) (s : State) : State :=
  [0, 2].foldl (fun s l =>
    if s.usableT l && s.on (trgB l) R.TRG_CTRL_EN && (s.wbSt l).running then
      let j := s.sampleAt (inputOf l) time
      (List.range 8).foldl (fun s u =>
        if s.rdT l j (unitB l u) R.TRGU_u_XSRC_TDC = n then extHit l u 2 j 0 0 0 s else s) s
    else s) s

/-! Late hits (R152, R153). -/

/-- The held firing and the events a unit completes over a log, from its first sample to the last one evaluated. -/
def simulate (s : State) (l u : Nat) (log : List TrgEntry) : UnitOut :=
  let q := s.trgSt l
  let ends := (s.unitSt l u).ends
  let o := (fabricSamples s l log 0 q.evaluated).foldl (fun (o : UnitOut) k =>
    let w := match o.held with
      | some (a, f) => windowEnd (unitCfg s l u a) (switches s l) k (some (a, f))
      | none => { held := none }
    let c := unitCfg s l u k
    let blocked := inHoldoff (ends.filter fun e => decide (e.1 < k)) k
    let r := unitFirings c (!blocked) blocked k (setFire l q.base log u c.aC c.aX c.aAnd k)
      (setFire l q.base log u c.bC c.bX c.bAnd k) w.held
    { held := r.held, done := o.done ++ w.done ++ r.done, ignored := o.ignored + r.ignored }) { held := none }
  match o.held with
  | some (a, f) =>
    let w := windowEnd (unitCfg s l u a) (switches s l) q.evaluated (some (a, f))
    { held := w.held, done := o.done ++ w.done, ignored := o.ignored }
  | none => o

/-- `n` more firings complete the event that unit `u` has issued at sample `k`: they merge (R149), and the event's item
carries their causes if the record engine has not taken it yet. -/
def mergeLate (l u k n : Nat) (f : Fire) (s : State) : State :=
  (s.inc (unitB l u) R.TRGU_u_MERGED_MERGED n).modTrg l fun q => { q with
    events := q.events.map fun e =>
      if e.unit = u ∧ e.sample = k then
        let g : Fire := { e.fire with cause := e.fire.cause ||| f.cause, xsrc := e.fire.xsrc ||| f.xsrc }
        { e with fire := g, primary := primaryOf g }
      else e }

/-- What unit `u` completes at sample `d.1` through a late hit, as LATE (R152, R153). -/
def completeLate (l u : Nat) (d : Nat × Nat × Fire) (s : State) : State :=
  if (s.unitSt l u).ends.any fun e => e.1 == d.1 then mergeLate l u d.1 d.2.1 d.2.2 s
  else completeEvent l u (d.1, d.2.1, { d.2.2 with flags := d.2.2.flags ||| 1 }) s

/-- A late hit that the log covers, at unit `u`: what it completes beyond what completed without it, as LATE (R152). -/
def lateUnit (l u : Nat) (log log' : List TrgEntry) (s : State) : State :=
  let before := simulate s l u log
  let after := simulate s l u log'
  let new := after.done.filterMap fun d =>
    let n := ((before.done.filter fun b => b.1 == d.1).map (·.2.1)).foldl (· + ·) 0
    if n < d.2.1 then some (d.1, d.2.1 - n, d.2.2) else none
  let s := if before.held ≠ after.held then setHeld l u after.held s else s
  let s := if before.ignored < after.ignored then
      s.inc (unitB l u) R.TRGU_u_HELD_HELD (after.ignored - before.ignored) else s
  new.foldl (fun s d => completeLate l u d s) s

/-- A late hit that the log does not cover: it fires an OR set in SINGLE mode, LATE and INCOMPLETE (R152). -/
def lateUncovered (l u : Nat) (e : TrgEntry) (s : State) : State :=
  let c := unitCfg s l u e.at_
  let a := setFire l [] [e] u c.aC c.aX false e.at_
  if c.en && decide (c.mode = 0) && !c.aAnd && decide (0 < a.1) then
    completeEvent l u (e.at_, 1, { a.2 with flags := a.2.flags ||| 3 })
      (s.wr (trgB l) R.TRG_STATUS_LOG_OVF 1)
  else s

/-- LATE_HIT: the oldest late hit is evaluated (R152). -/
def execLateHit (t : TDie) (s : State) : Host.Outcome State Fault Refusal :=
  match (s.trgSt t).late with
  | [] => .next s
  | (e, covered) :: r =>
    let s := s.modTrg t fun q => { q with late := r }
    let log := (s.trgSt t).log
    if covered then
      let log' := logInsert log e
      let s := (List.range 8).foldl (fun s u => lateUnit t u log log' s) s
      .next (s.modTrg t fun q => logTrim (logSpan s) { q with log := logInsert q.log e } (q.log.length + 1))
    else .next ((List.range 8).foldl (fun s u => lateUncovered t u e s) (s.wr (trgB t) R.TRG_STATUS_LOG_OVF 1))

/-! Messages (R155 to R158). -/

/-- Put a message in hub `h`'s transmit queue; counters of lead die `l` (R156). -/
def queueMessage (l h : Nat) (m : List Byte) (s : State) : State :=
  let q := tget (fun _ => []) s.trgTx h
  if 256 ≤ q.length then
    (s.inc (trgB l) R.TRG_NET_DROP_COUNT_DROPPED).wr (trgB l) R.TRG_NET_CAUSE_CAUSES
      (s.rd (trgB l) R.TRG_NET_CAUSE_CAUSES ||| 1)
  else
    ({ s with trgTx := tset (fun _ => []) s.trgTx h (q ++ [m]) } : State).inc (trgB l) R.TRG_NET_TX_COUNT_SENT

/-- TRIGGER_MESSAGE_SEND: the lead die hands its oldest message to its hub (R156). -/
def execTriggerMessageSend (t : TDie) (s : State) : Host.Outcome State Fault Refusal :=
  match (s.trgSt t).outbox with
  | [] => .next s
  | (m, n) :: r =>
    .next (queueMessage t (hubOf s t) m (s.modTrg t fun q => { q with
      outbox := r, repeats := if n = 0 then q.repeats else q.repeats ++ [(m.set 3 (m.getD 3 0 ||| 1), n)] }))

/-- TRIGGER_MESSAGE_REPEAT: the oldest message with copies to come is queued again (R156). -/
def execTriggerMessageRepeat (t : TDie) (s : State) : Host.Outcome State Fault Refusal :=
  match (s.trgSt t).repeats with
  | [] => .next s
  | (m, n) :: r =>
    .next (queueMessage t (hubOf s t) m (s.modTrg t fun q => { q with
      repeats := if n = 1 then r else r ++ [(m, n - 1)] }))

/-- A field of a received message, in network byte order. -/
def msgField (m : List Byte) (at_ n : Nat) : Nat := ofLe (((m.drop at_).take n).reverse)

/-- Accepted messages that wait for their sample (R157); a message offered to several units waits once. -/
def messagesWaiting (q : TrgSt) : Nat :=
  ((q.log.filter fun e => decide (32 ≤ e.src) && decide ((e.src - 32) % 8 = 4) && decide (q.evaluated ≤ e.at_)).map
    fun e => (e.at_, e.sender, e.id)).eraseDups.length

/-- Why lead die `l` rejects a message: the bits of TRG_NET_CAUSE, each case its own (R157). A payload shorter than a
message counts as ARRAY. -/
def messageFault (s : State) (l : Nat) (m : List Byte) : Nat :=
  if m.length < 48 then 2
  else 2 * b2n (decide (msgField m 0 2 ≠ 0x5347) || decide (msgField m 2 1 ≠ 1)
      || decide (msgField m 4 2 ≠ s.rd (trgB l) R.TRG_NET_ID_ARRAY))
    + 4 * b2n (decide (s.now + 1000000000 * 65536 < ofSts (msgField m 16 12)))
    + 8 * b2n (decide (64 ≤ messagesWaiting (s.trgSt l)))
    + 16 * b2n (decide (msgField m 6 2 % 4096 = s.rd (trgB l) R.TRG_NET_ID_ENGINE))

/-- Unit `u` takes an accepted message, unless it is a duplicate (R158). -/
def unitMessage (l u : Nat) (m : List Byte) (s : State) : State :=
  let k := s.sampleAt (inputOf l) (ofSts (msgField m 16 12))
  let b := unitB l u
  if s.onT l k b R.TRGU_u_CTRL_NET_RX && bit (s.rdT l k b R.TRGU_u_CTRL_RXGROUPS) (msgField m 11 1) then
    let id := (msgField m 6 2 % 4096, msgField m 9 1, msgField m 8 1, msgField m 12 4)
    if id ∈ (s.unitSt l u).seen then s.inc (trgB l) R.TRG_NET_DUP_COUNT_DUPLICATES
    else
      extHit l u 4 k (msgField m 28 4) (msgField m 32 4) (msgField m 6 2 % 4096)
        (s.modUnit l u fun q => { q with seen := (id :: q.seen).take 16 })
        (id.2.1 * 2 ^ 40 + id.2.2.1 * 2 ^ 32 + id.2.2.2)
  else s

/-- A received message at lead die `l` (R157, R158). Before the frame count has started nothing can be placed. -/
def leadMessage (l : Nat) (m : List Byte) (s : State) : State :=
  let c := messageFault s l m
  if c ≠ 0 then
    (s.inc (trgB l) R.TRG_NET_DROP_COUNT_DROPPED).wr (trgB l) R.TRG_NET_CAUSE_CAUSES
      (s.rd (trgB l) R.TRG_NET_CAUSE_CAUSES ||| c)
  else
    let s := s.inc (trgB l) R.TRG_NET_RX_COUNT_ACCEPTED
    if (s.sampleFrc (inputOf l) 0).isNone then s
    else (List.range 8).foldl (fun s u => unitMessage l u m s) s

/-- A received trigger message is offered to the units of both inputs (R549). -/
def receiveMessage (m : List Byte) (s : State) : State :=
  [0, 2].foldl (fun s l => if s.usableT l then leadMessage l m s else s) s

/-- TRIGGER_MESSAGE_RECEIVE (R157, R158). -/
def execTriggerMessageReceive (payload : List Byte) (s : State) : Host.Outcome State Fault Refusal :=
  .next (receiveMessage payload s)

/-! The shadow set (R160 to R163). -/

/-- The address ranges, within a TRG block, of the shadowed registers (R160). -/
def trgRanges : List (Nat × Nat) :=
  [(0x10, 0x14)] ++ (List.range 16).map (fun c => (0x100 + 0x20 * c, 0x11C + 0x20 * c))
    ++ (List.range 8).flatMap (fun u => [(0x400 + 0x40 * u, 0x41C + 0x40 * u), (0x420 + 0x40 * u, 0x424 + 0x40 * u)])

/-- The dies of the pair of lead die `l` that exist. -/
def pairDies (s : State) (l : Nat) : List Nat := if s.hasT (l + 1) then [l, l + 1] else [l]

/-- The mask tables of the partner take the entries of the lead die's (R130). -/
def copyMasks (l : Nat) (m : Tbl Word) : Tbl Word :=
  let src := (m.filter fun e => decide (maskKey l 0 0 ≤ e.1) && decide (e.1 < maskKey l 4 0)).map
    fun e => (e.1 + 0x100000, e.2)
  tcopy src m (maskKey (l + 1) 0 0) (maskKey (l + 1) 4 0)

/-- Whether a MASK or BANDPOWER condition of the set handed over has FIRST above LAST, clipped to N - 1 (R163). -/
def badRange (s : State) (l : Nat) : Bool :=
  let n := 2 ^ clampLog2n (s.rdL (wbB l) R.WB_CTRL_LOG2N)
  (List.range 16).any fun c =>
    let b := condB l c
    let ty := s.rdL b R.TRG_COND_c_CTRL_TYPE
    (ty == 1 || ty == 2)
      && decide (min (n - 1) (s.rdL b R.TRG_COND_c_BINS_LAST) < s.rdL b R.TRG_COND_c_BINS_FIRST)

/-- Schedule S on multiples of 8192 (R161). -/
def trgSchedule (l j : Nat) (s : State) : State :=
  let sw := ceilTo 8192 (j + 20480)
  s.modTrg l fun q => { q with sw := some sw, waitStart := false, lastSw := some sw, specSince := false, detSince := false }

/-- The hand-over of both dies' TRG sets (R161). -/
def trgHandOver (l : Nat) (s : State) : State :=
  let s := (pairDies s l).foldl (fun s t =>
    (trgRanges.foldl (fun s r => s.handOver (trgB t) r.1 r.2) s).wr (trgB t) R.TRG_SHADOW_SHADOW_DIRTY 0) s
  let s := s.tabHandOver (maskKey l 0 0) (maskKey l 4 0)
  let s := if s.hasT (l + 1) then { s with tabS := copyMasks l s.tabS, tabL := copyMasks l s.tabL } else s
  let s := if badRange s l then s.wr (trgB l) R.TRG_STATUS_BAD_RANGE 1 else s
  let s := s.wr (trgB l) R.TRG_SHADOW_PENDING 1
  if (s.wbSt l).running then trgSchedule l (s.recvSample (inputOf l)) s
  else s.modTrg l fun q => { q with waitStart := true, lastSw := none }

/-- TRG_COMMIT.COMMIT (R160, R161): only the lead die's acts. -/
def trgCommit (t : Nat) (s : State) : State :=
  if !isLead t || !s.usableT t then s
  else if s.on (trgB t) R.TRG_SHADOW_PENDING || s.on (trgB t) R.TRG_SHADOW_HELD then
    s.wr (trgB t) R.TRG_SHADOW_HELD 1
  else trgHandOver t s

/-- TRG_COMMIT.REVERT: both dies' live sets are copied into their shadow sets (R167, R96). -/
def trgRevert (t : Nat) (s : State) : State :=
  if !isLead t || !s.usableT t then s
  else
    ((pairDies s t).foldl (fun s d =>
      ((trgRanges.foldl (fun s r => s.takeBack (trgB d) r.1 r.2) s).wr (trgB d) R.TRG_SHADOW_SHADOW_DIRTY 0).tabTakeBack
        (maskKey d 0 0) (maskKey d 4 0)) s)

/-- TRG_COMMIT (R161). -/
def execTrgCommit (t : TDie) (s : State) : Host.Outcome State Fault Refusal := .next (trgCommit t s)

/-- TRG_REVERT (R167). -/
def execTrgRevert (t : TDie) (s : State) : Host.Outcome State Fault Refusal := .next (trgRevert t s)

/-- TRG_HELD_HANDOVER: once PENDING has cleared, a held commit hands over (R161, R94). -/
def execTrgHeldHandover (t : TDie) (s : State) : Host.Outcome State Fault Refusal :=
  .next (if s.on (trgB t) R.TRG_SHADOW_HELD && !s.on (trgB t) R.TRG_SHADOW_PENDING then
    trgHandOver t (s.wr (trgB t) R.TRG_SHADOW_HELD 0) else s)

/-- The live TRG set takes effect at sample `sw` (R161, R162): the old set still holds for samples below it; a
condition that becomes OFF goes false; INACTIVE shows the partner's spectral conditions (R130). -/
def trgSwitchAt (l sw : Nat) (s : State) : State :=
  let s := s.modTrg l fun q => { q with sw := none, old := q.old ++ [{ upTo := sw, regs := s.force, tabs := s.tabF }] }
  let s := (pairDies s l).foldl (fun s t =>
    (trgRanges.foldl (fun s r => s.enforce (trgB t) r.1 r.2) s).tabEnforce (maskKey t 0 0) (maskKey t 4 0)) s
  let s := (List.range 32).foldl (fun s c =>
    let on := (tget dCond (s.trgSt l).conds c).state
    let s := if condType s l sw c = 0 then s.modTrg l fun q => { q with conds := tset dCond q.conds c {} } else s
    if on && decide (condType s l sw c = 0) then
      trgEntry l { at_ := sw, src := c, hit := false, state := some false } (showCond l c false s)
    else s) s
  if s.hasT (l + 1) then
    s.wr (trgB (l + 1)) R.TRG_COND_STATE_INACTIVE ((List.range 16).foldl (fun m c =>
      let ty := s.rdF (condB l (16 + c)) R.TRG_COND_c_CTRL_TYPE
      if ty = 1 ∨ ty = 2 then m ||| 2 ^ c else m) 0)
  else s

/-- TRG_SWITCH: the scheduled switch sample has come (R162). -/
def execTrgSwitch (t : TDie) (s : State) : Host.Outcome State Fault Refusal :=
  match (s.trgSt t).sw with
  | some sw => .next (trgSwitchAt t sw s)
  | none => .next s

/-- Whether a MASK or BANDPOWER condition with the given SRC is in force. -/
def hasSpectral (s : State) (l src : Nat) : Bool :=
  (List.range 16).any fun c =>
    let ty := s.rdF (condB l c) R.TRG_COND_c_CTRL_TYPE
    (ty == 1 || ty == 2) && decide (s.rdF (condB l c) R.TRG_COND_c_CTRL_SRC = src)

/-- TRG_PENDING_CLEAR: the fabric has evaluated S and every spectral condition its first spectrum from S on (R161). -/
def execTrgPendingClear (t : TDie) (s : State) : Host.Outcome State Fault Refusal :=
  let q := s.trgSt t
  let produces := s.onF (wbB t) R.WB_CTRL_EN && (s.wbSt t).running
  .next (if s.on (trgB t) R.TRG_SHADOW_PENDING && q.sw.isNone && !q.waitStart
      && (match q.lastSw with | some sw => decide (sw < q.evaluated) | none => false)
      && (!produces || ((q.specSince || !hasSpectral s t 0) && (q.detSince || !hasSpectral s t 1))) then
    (s.wr (trgB t) R.TRG_SHADOW_PENDING 0).modTrg t fun q => { q with lastSw := none }
  else s)

/-- The mask data port (R130, TRG_MASK_ADDR): a write sets the shadow entry on a lead die and is ignored on a partner, a
read returns the shadow or live one by VIEW; ENTRY steps on and wraps. -/
def maskAccess (t : Nat) (write : Option Word) (s : State) : State :=
  let b := trgB t
  let i := s.rd b R.TRG_MASK_ADDR_ENTRY
  let k := maskKey t (s.rd b R.TRG_MASK_ADDR_TABLE) i
  let s := match write with
    | some v =>
      if isLead t then ({ s with tabS := tset tabReset s.tabS k v } : State).wr b R.TRG_SHADOW_SHADOW_DIRTY 1 else s
    | none => { s with readData := tget tabReset (if s.on b R.TRG_SHADOW_VIEW then s.tabL else s.tabS) k }
  s.wr b R.TRG_MASK_ADDR_ENTRY ((i + 1) % 65536)

/-- TRG_MASK_DATA_ACCESS (R130). -/
def execTrgMaskDataAccess (t : TDie) (write : Option Word) (s : State) : Host.Outcome State Fault Refusal :=
  .next (if s.hasT t then maskAccess t write s else s)

/-- The mask of R166: UPPER is the trace's bin plus the margin, held within dB16, LOWER 0x8000. -/
def autoMask (l table n : Nat) (margin : Int) (trace : List Int) : Tbl Word :=
  (trace.zipIdx).flatMap fun x =>
    let w : Word := BitVec.ofNat 32 (enc 16 (clampI (-32768) 32767 (x.1 + margin)) * 65536 + 0x8000)
    if w = 0x7FFF8000 then []
    else (List.range (65536 / n)).map fun i => (maskKey l table (x.2 * (65536 / n) + i), w)

/-- AUTO_MASK_BUILD: the input's first trace has gone out, and the planner builds the masks that wait for it and commits
(R166). -/
def execAutoMaskBuild (t : TDie) (s : State) : Host.Outcome State Fault Refusal :=
  let ready := (s.wbSt t).auto.filter fun m => m.trace.isSome
  if !isLead t || !s.usableT t || ready.isEmpty then .next s
  else
    let put := fun (tab : Tbl Word) (m : AutoMask) =>
      let lv := m.trace.getD []
      tcopy (autoMask t m.table lv.length m.margin lv) tab (maskKey t m.table 0) (maskKey t (m.table + 1) 0)
    let s := s.modWb t fun w => { w with auto := w.auto.filter fun m => m.trace.isNone }
    .next (trgCommit t ({ s with tabS := ready.foldl put s.tabS }.wr (trgB t) R.TRG_SHADOW_SHADOW_DIRTY 1))

/-! Stream and enable. -/

/-- TRG_STATUS.RUN of lead die `l` follows EN and the stream. -/
def trgShow (l : Nat) (s : State) : State :=
  s.wr (trgB l) R.TRG_STATUS_RUN (b2n (s.on (trgB l) R.TRG_CTRL_EN && (s.wbSt l).running))

/-- The stream starts at sample `j`: condition states start false, a waiting switch is scheduled (R161, R164). -/
def trgStreamStart (l j : Nat) (s : State) : State :=
  let s := s.modTrg l fun q => { q with evaluated := max q.evaluated j, floor := max q.evaluated j, log := [], base := [], late := [], conds := [] }
  let s := (pairDies s l).foldl (fun s t => s.wr (trgB t) R.TRG_COND_STATE_STATE 0) s
  trgShow l (if (s.trgSt l).waitStart then trgSchedule l j s else s)

end Sys2Proof.Machine
end

