-- ==== Sys2Proof/Machine/Cpu.lean ====
section
/-! DEFINITION. The channel core's registers, memories, ports, loop stack, halts and interrupts (chapter 8). -/

namespace Sys2Proof.Machine

def dCore : Nat → CoreSt := fun _ => {}
def coreKey (t c : Nat) : Nat := 256 * t + c
def State.core (s : State) (t c : Nat) : CoreSt := tget dCore s.cores (coreKey t c)
def State.modCore (s : State) (t c : Nat) (f : CoreSt → CoreSt) : State :=
  { s with cores := tset dCore s.cores (coreKey t c) (f (s.core t c)) }

/-! Memories (R272, R274): program word `a` and data word `a` are the words of the core's window. -/

def pmAddr (t c a : Nat) : Nat := coreB t c + 4 * (a % 16384)
def dmAddr (t c a : Nat) : Nat := coreB t c + 0x10000 + 4 * (a % 16384)
def State.pm (s : State) (t c a : Nat) : Word := s.reg (pmAddr t c a)
def State.dm (s : State) (t c a : Nat) : Nat := (s.reg (dmAddr t c a)).toNat % 2 ^ 24

/-- A data word as a load sees it: a store with fewer than two instructions between is not seen (R324); a store's age
is 1 at the next instruction. -/
def dmSeen (s : State) (t c a : Nat) : Nat :=
  match (s.core t c).stores.find? fun x => decide (x.1 < 3) && decide (x.2.1 = a % 16384) with
  | some x => x.2.2
  | none => s.dm t c a

/-- A store of the core (R276, R324). -/
def dmStore (t c a v : Nat) (s : State) : State :=
  (s.modCore t c fun q => { q with stores := q.stores ++ [(0, a % 16384, s.dm t c a)] }).setReg (dmAddr t c a)
    (BitVec.ofNat 32 (v % 2 ^ 24))

/-! Registers (R277, R278, R281, R324). -/

/-- What reads a register, as R281 and R324 distinguish them. -/
inductive RKind where
  | reg | mac | acc | cond | addr | mode
  deriving DecidableEq, Repr

/-- Instructions that must lie between a write and a read that sees it (R281, R324). Pairs the tables do not name see
the write at once (assumption log). -/
def need (w : WKind) (r : RKind) : Nat :=
  match r with
  | .mac => if w = .mac then 0 else 1
  | .acc => if w = .load then 2 else 1
  | .cond => if w = .load then 2 else 1
  | .addr => if w = .post then 0 else if w = .load then 3 else 2
  | .mode => if w = .load then 3 else 2
  | .reg => if w = .load then 1 else 0

/-- Reset values of the banked registers: SATM0 and SATM1 of SR are 1 (R278). -/
def coreReset (k : Nat) : Nat := if k % 128 = 0x38 then 0x30000 else 0

/-- A register in program order. -/
def CoreSt.cur (q : CoreSt) (bank code : Nat) : Nat := tget coreReset q.regs (128 * bank + code)

/-- Replace the bits of `mask` by those of `val`. -/
def maskPut (v mask val : Nat) : Nat := v - (v &&& mask) + (val &&& mask)

/-- Register `code` of the present bank as a reader of kind `r` sees it. -/
def CoreSt.seen (q : CoreSt) (r : RKind) (code : Nat) : Nat :=
  match q.recent.filter fun w => decide (w.bank = q.bank) && decide (w.reg = code) with
  | [] => q.cur q.bank code
  | w :: l => (w :: l).foldl (fun v x => if need x.kind r ≤ x.age then maskPut v x.mask x.val else v) w.old

/-- The instruction in hand writes the bits `mask` of a register. -/
def CoreSt.put (q : CoreSt) (code mask val : Nat) (k : WKind) : CoreSt :=
  let old := q.cur q.bank code
  { q with
    regs := tset coreReset q.regs (128 * q.bank + code) (maskPut old mask val)
    fresh := q.fresh ++ [{ bank := q.bank, reg := code, mask := mask, val := val, old := old, kind := k }] }

def w24 : Nat := 2 ^ 24 - 1
def w56 : Nat := 2 ^ 56 - 1

/-- X register `n`, unsigned. -/
def CoreSt.x (q : CoreSt) (n : Nat) : Nat := q.seen .reg n
def CoreSt.xI (q : CoreSt) (n : Nat) : Int := sx 24 (q.x n)

/-- SR as a read returns it (R278): BANK shows the bank. -/
def CoreSt.sr (q : CoreSt) (r : RKind) : Nat := q.seen r 0x38 + q.bank * 2 ^ 21

def srFlags : Nat := 0xF
def srSticky : Nat := 0x1F00
def srWritable : Nat := 0x1F1F0F

/-- Make interrupt source `k` (0 ARITH to 4 TAG) pending if it is enabled (R296). -/
def CoreSt.pend (q : CoreSt) (k : Nat) : CoreSt := if bit q.ien k then { q with ipend := q.ipend ||| 2 ^ k } else q

/-- Write bits of SR; a sticky flag that goes from 0 to 1 makes ARITH pending (R279, R295, R322). -/
def CoreSt.putSr (q : CoreSt) (mask val : Nat) (k : WKind) : CoreSt :=
  let rise := (val &&& mask &&& srSticky) &&& (srSticky - (q.cur q.bank 0x38 &&& srSticky)) != 0
  let q := q.put 0x38 mask val k
  if rise then q.pend 0 else q

/-- Set the flags Z, N and, where given, C and V (R325). -/
def CoreSt.flags (q : CoreSt) (z n : Bool) (c v : Option Bool) : CoreSt :=
  let mask := 3 + (if c.isSome then 4 else 0) + (if v.isSome then 8 else 0)
  q.putSr mask (b2n z + 2 * b2n n + 4 * b2n (c.getD false) + 8 * b2n (v.getD false)) .alu

/-- Write accumulator `a` (0 or 1) bits `mask`; AVa follows (R291), one instruction later for a load (R324). -/
def CoreSt.putAc (q : CoreSt) (a mask val : Nat) (k : WKind) : CoreSt :=
  let q := q.put (0x10 + 3 * a) mask val k
  let v := sx 56 (q.cur q.bank (0x10 + 3 * a))
  let av := decide (v < -(2 ^ 47)) || decide (2 ^ 47 ≤ v)
  q.put 0x38 (2 ^ (4 + a)) (2 ^ (4 + a) * b2n av) (if k = .load then .load else .acc)

/-- Accumulator `a` as a signed number. -/
def CoreSt.ac (q : CoreSt) (r : RKind) (a : Nat) : Int := sx 56 (q.seen r (0x10 + 3 * a))

/-- Write an exact result into accumulator `a` with the range rule of R293; the value written. -/
def CoreSt.putRange (q : CoreSt) (a : Nat) (r : Int) (k : WKind) : CoreSt × Int :=
  if -(2 ^ 55) ≤ r ∧ r < 2 ^ 55 then (q.putAc a w56 (enc 56 r) k, r)
  else if bit (q.sr .mode) (16 + a) then
    let v := clampI (-(2 ^ 55)) (2 ^ 55 - 1) r
    ((q.putAc a w56 (enc 56 v) k).putSr (2 ^ (8 + a)) (2 ^ (8 + a)) .acc, v)
  else ((q.putAc a w56 (enc 56 r) k).putSr (2 ^ (10 + a)) (2 ^ (10 + a)) .acc, sx 56 (enc 56 r))

/-- The loop stack of the present bank, innermost level first. -/
def CoreSt.loops (q : CoreSt) : List CoreLoop := if q.bank = 0 then q.loops0 else q.loops1
def CoreSt.setLoops (q : CoreSt) (l : List CoreLoop) : CoreSt :=
  if q.bank = 0 then { q with loops0 := l } else { q with loops1 := l }

/-- Read a register by its code (R308, R321, R322). -/
def CoreSt.readReg (q : CoreSt) (code : Nat) : Nat :=
  if code < 0x10 then q.x code
  else if code < 0x16 then
    let a := (code - 0x10) / 3
    let v := q.seen .acc (0x10 + 3 * a)
    match (code - 0x10) % 3 with
    | 0 => bitsOf v 0 24
    | 1 => bitsOf v 24 24
    | _ => enc 24 (sx 8 (bitsOf v 48 8))
  else if 0x18 ≤ code ∧ code < 0x38 then q.seen .reg code
  else if code = 0x38 then q.sr .reg
  else if code = 0x39 then q.seen .reg 0x39
  else if 0x40 ≤ code ∧ code < 0x50 then
    match q.loops[(code - 0x40) / 4]? with
    | some l => match (code - 0x40) % 4 with | 0 => l.ls | 1 => l.le | 2 => l.lc | _ => 0
    | none => 0
  else if code = 0x50 then q.ira
  else if code = 0x51 then q.ien
  else if code = 0x52 then q.ipend
  else if code = 0x53 then q.tmr
  else if code = 0x54 then q.dbr
  else 0

/-- Write a register by its code (R308, R321, R322). -/
def CoreSt.writeReg (q : CoreSt) (code v : Nat) (k : WKind) : CoreSt :=
  let v := v % 2 ^ 24
  if code < 0x10 then q.put code w24 v k
  else if code < 0x16 then
    let a := (code - 0x10) / 3
    match (code - 0x10) % 3 with
    | 0 => q.putAc a (2 ^ 24 - 1) v k
    | 1 => q.putAc a (2 ^ 48 - 2 ^ 24) (v * 2 ^ 24) k
    | _ => q.putAc a (2 ^ 56 - 2 ^ 48) (v % 256 * 2 ^ 48) k
  else if 0x18 ≤ code ∧ code < 0x38 then q.put code w24 v k
  else if code = 0x38 then q.putSr srWritable v k
  else if code = 0x39 then q.put code w24 v k
  else if 0x40 ≤ code ∧ code < 0x50 ∧ code % 4 = 2 then
    let n := (code - 0x40) / 4
    match q.loops[n]? with
    | some l =>
      { q.setLoops (q.loops.set n { l with lc := v }) with
        lcMoves := q.lcMoves ++ [(0, q.bank, q.loops.length - 1 - n, l.lc)] }
    | none => q
  else if code = 0x50 then { q with ira := v % 16384 }
  else if code = 0x51 then { q with ien := v }
  else if code = 0x52 then { q with ipend := v % 32 }
  else if code = 0x53 then { q with tmr := v }
  else if code = 0x54 then { q with dbr := v }
  else q

/-- Every write so far is seen by what follows (R284). -/
def CoreSt.settle (q : CoreSt) : CoreSt := { q with recent := [], fresh := [], stores := [], lcMoves := [] }

/-- One instruction has issued: the writes before it are one instruction older (R281). -/
def CoreSt.age (q : CoreSt) : CoreSt :=
  { q with
    recent := ((q.recent.map fun w => { w with age := w.age + 1 }).filter fun w => decide (w.age < 4)) ++ q.fresh
    fresh := []
    stores := (q.stores.map fun x => (x.1 + 1, x.2)).filter fun x => decide (x.1 < 3)
    lcMoves := (q.lcMoves.map fun x => (x.1 + 1, x.2)).filter fun x => decide (x.1 < 3) }

/-! Addressing (R289, R290). -/

/-- The low `k` bits of `n` in reverse order. -/
def revBits (k n : Nat) : Nat := (List.range k).foldl (fun a i => if bit n i then a + 2 ^ (k - 1 - i) else a) 0

/-- The pointer after the post-modify of Pn (R289, R290). -/
def CoreSt.postMod (q : CoreSt) (n : Nat) : Nat :=
  let p : Int := (q.seen .addr (0x18 + n) % 16384 : Nat)
  let m := sx 24 (q.seen .addr (0x20 + n))
  let b : Int := (q.seen .addr (0x28 + n) % 16384 : Nat)
  let lw := q.seen .addr (0x30 + n)
  let l := lw % 32768
  if l = 0 then ((p + m) % 16384).toNat
  else
    match (if bit lw 23 then (List.range 14).find? fun i => l == 2 ^ (i + 1) else none) with
    | some i =>
      let k := i + 1
      let x := (revBits k ((p - b) % l).toNat + revBits k (m % l).toNat) % l
      ((b + revBits k x) % 16384).toNat
    | none => ((b + (p - b + m) % l) % 16384).toNat

/-- The address in Pn. -/
def CoreSt.ptr (q : CoreSt) (n : Nat) : Nat := q.seen .addr (0x18 + n) % 16384

/-! Halts (R307, R311). -/

/-- A field of core `c` of die `t`. -/
def State.rdC (s : State) (t c : Nat) (f : Fld) : Nat := s.rd (coreRegB t c) f
def State.onC (s : State) (t c : Nat) (f : Fld) : Bool := s.on (coreRegB t c) f
def State.wrC (s : State) (t c : Nat) (f : Fld) (v : Nat) : State := s.wr (coreRegB t c) f v

/-- Bit `c` of a bitmap register of the CCTL block (R310): its address and bit. -/
def coreMap (f : Fld) (c : Nat) : Fld := { f with off := f.off + 4 * (c / 32), lo := c % 32, w := 1 }

/-- Close the open block of output port `p` (R304). -/
def coreOutClose (t c p extra : Nat) (s : State) : State :=
  let q := s.core t c
  let o := tget (fun _ => ({} : CoreOut)) q.outs p
  if o.words.isEmpty then s
  else
    let blk := s.rdC t c (if p = 0 then R.CORE_c_OUT_CTRL_BLK0 else R.CORE_c_OUT_CTRL_BLK1)
    let bytes := leBytes 1 0x60 ++ leBytes 1 (inputOf t) ++ leBytes 2 (o.flags ||| extra) ++ leBytes 2 (132 * t + c)
      ++ leBytes 1 p ++ leBytes 1 (max 6 (min 12 blk)) ++ leBytes 8 o.first ++ leBytes 8 (enc 64 o.inJ)
      ++ leBytes 4 o.words.length ++ leBytes 4 0 ++ o.words.flatMap fun w => leBytes 4 (enc 32 (sx 24 w))
    s.modCore t c fun q => { q with outs := tset (fun _ => ({} : CoreOut)) q.outs p { o with
      words := [], flags := 0, blocks := o.blocks + 1, closed := o.closed ++ [(o.blocks, bytes)] } }

/-- The core halts with `cause` (R304, R307, R311): its open blocks close with PARTIAL; a fault of the program or the
core raises its event. -/
def coreHalt (t c cause : Nat) (s : State) : State :=
  let s := s.modCore t c CoreSt.settle
  let s := coreOutClose t c 1 32 (coreOutClose t c 0 32 s)
  let s := s.wrs (coreRegB t c) [(R.CORE_c_CTRL_RUN, 0), (R.CORE_c_STATUS_RUNNING, 0), (R.CORE_c_STATUS_HALTED, 1),
    (R.CORE_c_STATUS_STALL, 0), (R.CORE_c_STATUS_CAUSE, cause), (R.CORE_c_PC_PC, (s.core t c).pc)]
  let s := s.wr (cctlB t) (coreMap R.CCTL_HALTED_k_HALTED c) 1
  let s := s.raiseIf (decide (5 ≤ cause) && decide (cause ≤ 7)) (98 + 8 * t) c
  s.raiseIf (decide (cause = 8) || decide (cause = 9)) (97 + 8 * t) c

/-- Whether core `c` of die `t` is issuing. -/
def coreRunning (s : State) (t c : Nat) : Bool := s.usableT t && s.onC t c R.CORE_c_STATUS_RUNNING

/-- Show the registers the host reads (CORE_c_PC, BANK, LOOPS). -/
def coreShow (t c : Nat) (s : State) : State :=
  let q := s.core t c
  s.wrs (coreRegB t c) [(R.CORE_c_PC_PC, q.pc), (R.CORE_c_STATUS_BANK, q.bank), (R.CORE_c_STATUS_LOOPS, q.loops.length)]

/-- RUN = 1: issue starts at PC (R307). Warm-up, J and output counts start afresh (R304, R306, R313). -/
def coreStart (t c : Nat) (s : State) : State :=
  if s.onC t c R.CORE_c_STATUS_RUNNING || (s.core t c).retired then s.wrC t c R.CORE_c_CTRL_RUN 1
  else
    let s := s.wrs (coreRegB t c) [(R.CORE_c_CTRL_RUN, 1), (R.CORE_c_STATUS_RUNNING, 1), (R.CORE_c_STATUS_HALTED, 0)]
    (s.wr (cctlB t) (coreMap R.CCTL_HALTED_k_HALTED c) 0).modCore t c fun q => { q with
      resumed := true, reads := 0, jport := [], lastJ := 0
      outs := q.outs.map fun e => (e.1, { e.2 with total := 0, blocks := 0, level := 0 }) }

/-- RUN = 0: issue stops with cause HOST (R307). -/
def coreStop (t c : Nat) (s : State) : State :=
  let s := s.wrC t c R.CORE_c_CTRL_RUN 0
  if s.onC t c R.CORE_c_STATUS_RUNNING then coreHalt t c 1 s else s

/-- RESET: every register of both banks at its reset value, both loop stacks empty (R307). -/
def coreReset0 (t c : Nat) (s : State) : State :=
  coreShow t c ((s.modCore t c fun q => { q.settle with
    regs := [], bank := 0, pc := 0, ira := 0, ien := 0, ipend := 0, tmr := 0, dbr := 0, loops0 := [], loops1 := []
    slots := 0, target := none, reti := false }).wr (coreRegB t c) R.CORE_c_STATUS_STALL 0)

/-! Interrupts (R296 to R299). -/

/-- The vector that is due at this boundary (R297): the lowest pending, with IE set as an instruction here sees it. -/
def interruptDue (q : CoreSt) : Option Nat :=
  if q.bank = 0 ∧ q.slots = 0 ∧ bit (q.sr .mode) 20 then firstBelow 5 (bit q.ipend) else none

/-- Taking the interrupt of source `k` (R297, R299). -/
def takeInterrupt (t c k : Nat) (s : State) : State :=
  let s := s.modCore t c fun q => { q.settle with
    ipend := q.ipend - (q.ipend &&& 2 ^ k), ira := q.pc, bank := 1, pc := 4 * (k + 1), resumed := false }
  coreShow t c (s.wrC t c R.CORE_c_STATUS_STALL 0)

/-- INTERRUPT_TAKE: a pending interrupt is taken at an instruction boundary (R297). -/
def execInterruptTake (t : TDie) (c : CoreIx) (s : State) : Host.Outcome State Fault Refusal :=
  .next (if coreRunning s t c then
    match interruptDue (s.core t c) with
    | some k => takeInterrupt t c k s
    | none => s
  else s)

/-- TMR reaches 0 (R296). -/
def timerZero (q : CoreSt) : CoreSt := { q with tmr := 0 }.pend 2

/-- `n` cycles pass for TMR. -/
def CoreSt.tick (q : CoreSt) (n : Nat) : CoreSt :=
  if q.tmr = 0 then q else if q.tmr ≤ n then timerZero q else { q with tmr := q.tmr - n }

/-- CORE_TIMER_EXPIRE: TMR counts down to 0 while the core issues nothing (R296). -/
def execCoreTimerExpire (t : TDie) (c : CoreIx) (s : State) : Host.Outcome State Fault Refusal :=
  .next (if s.usableT t && decide ((s.core t c).tmr ≠ 0) then s.modCore t c timerZero else s)

/-! Ports (R261, R300, R314, R315). -/

def noWords : Nat → List PortWord := fun _ => []

/-- A word enters input port `p`; PORT becomes pending where the port was empty and is enabled (R296, R300). -/
def portPut (t c p : Nat) (w : PortWord) (s : State) : State :=
  s.modCore t c fun q =>
    let l := tget noWords q.inp p
    let q := if l.isEmpty && bit q.ien (8 + p) then q.pend 1 else q
    { q with inp := tset noWords q.inp p (l ++ [w]) }

/-- Words in the catch-up buffer of die `t`. -/
def catchupCount (s : State) (t : Nat) : Nat :=
  (s.cores.filter fun e => decide (e.1 / 256 = t)).foldl (fun n e => n + e.2.catchup.length) 0

/-- A live word for port `p` of core `c`: into the catch-up buffer while the core takes replayed or buffered words, else
into the port. `none` where it finds no room (R261, R314, R315). -/
def liveArrive (t c p : Nat) (w : PortWord) (s : State) : Option State :=
  if s.onC t c R.CORE_c_STATUS_REPLAY || s.onC t c R.CORE_c_STATUS_CATCHUP then
    if s.rd (cctlB t) R.CCTL_CU_SIZE_SIZE * 2 ^ 20 / 8 ≤ catchupCount s t then none
    else some (s.modCore t c fun q => { q with catchup := q.catchup ++ [(p, w)] })
  else if 64 ≤ (tget noWords (s.core t c).inp p).length then none
  else some (portPut t c p w s)

/-- The oldest buffered word of port `p` moves into its port, if the core drains the catch-up buffer (R314). -/
def catchupFill (t c p : Nat) (s : State) : State :=
  let q := s.core t c
  if s.onC t c R.CORE_c_STATUS_CATCHUP && (tget noWords q.inp p).isEmpty then
    match q.catchup.find? fun e => e.1 == p with
    | some e => portPut t c p e.2 (s.modCore t c fun q => { q with catchup := q.catchup.erase e })
    | none => s
  else s

end Sys2Proof.Machine
end

