-- ==== Sys2Proof/Machine/CpuExec.lean ====
section
/-! DEFINITION. The channel core's instructions (chapter 9): one function for each format, the issue of an instruction
with its delay slots and loop-end check, and the command of each instruction row. -/

namespace Sys2Proof.Machine

/-- Whether condition `cond` holds (R320). -/
def condHolds (q : CoreSt) (cond : Nat) : Bool :=
  let f := q.sr .cond
  let z := bit f 0
  let n := bit f 1
  let c := bit f 2
  let v := bit f 3
  match cond with
  | 0 => true | 1 => z | 2 => !z | 3 => n != v | 4 => n == v | 5 => !z && n == v | 6 => z || n != v
  | 7 => c | 8 => !c | 9 => v | 10 => !v | 11 => n | 12 => !n | 13 => bit f 4 | 14 => bit f 5 | _ => false

/-- What an ALU function gives: the 24-bit result, and C and V where it changes them (R325). -/
structure AluOut where
  r : Nat
  c : Option Bool := none
  v : Option Bool := none

/-- A sum of signed operands with carry-in, wrapping or clamping (R325). -/
def aluAdd (sat : Bool) (a b cin : Nat) : AluOut :=
  let e := sx 24 a + sx 24 b + cin
  let ovr := decide (e < -(2 ^ 23)) || decide (2 ^ 23 ≤ e)
  { r := enc 24 (if sat then clampI (-(2 ^ 23)) (2 ^ 23 - 1) e else e)
    c := some (decide (2 ^ 24 ≤ a + b + cin)), v := some ovr }

/-- A difference with borrow (R325): C is 1 if there is no borrow. -/
def aluSub (sat : Bool) (a b bin : Nat) : AluOut :=
  let e := sx 24 a - sx 24 b - bin
  let ovr := decide (e < -(2 ^ 23)) || decide (2 ^ 23 ≤ e)
  { r := enc 24 (if sat then clampI (-(2 ^ 23)) (2 ^ 23 - 1) e else e)
    c := some (decide (b + bin ≤ a)), v := some ovr }

/-- The shifts (R325): `kind` 0 ASR, 1 LSR, 2 LSL, by `n`. -/
def aluShift (kind a n : Nat) : AluOut :=
  let c := if n = 0 then none
    else some (match kind with
      | 0 => if 24 ≤ n then bit a 23 else bit a (n - 1)
      | 1 => decide (n ≤ 24) && bit a (n - 1)
      | _ => decide (n ≤ 24) && bit a (24 - n))
  let r := match kind with
    | 0 => enc 24 (sx 24 a / 2 ^ n)
    | 1 => a / 2 ^ n
    | _ => a * 2 ^ n % 2 ^ 24
  { r := r, c := c, v := some false }

/-- |x| and -x, clamped (R325). -/
def aluSat (x : Int) : AluOut :=
  { r := enc 24 (clampI (-(2 ^ 23)) (2 ^ 23 - 1) x), v := some (decide (2 ^ 23 ≤ x)) }

/-- Leading bits equal to bit 23, minus 1 (R325). -/
def leadBits (a : Nat) : Nat :=
  match (List.range 24).find? fun i => bit a (23 - i) != bit a 23 with
  | some i => i - 1
  | none => 23

/-- The ALU functions (R325) of `a` = xs, `b` = xt and carry-in `c`. -/
def aluDo (fn : AluFn) (a b c : Nat) : AluOut :=
  match fn with
  | .add => aluAdd false a b 0
  | .adc => aluAdd false a b c
  | .sub => aluSub false a b 0
  | .sbc => aluSub false a b (1 - c)
  | .adds => aluAdd true a b 0
  | .subs => aluSub true a b 0
  | .and => { r := a &&& b, v := some false }
  | .or => { r := a ||| b, v := some false }
  | .xor => { r := a ^^^ b, v := some false }
  | .andn => { r := a - (a &&& b), v := some false }
  | .asr => aluShift 0 a (b % 32)
  | .lsr => aluShift 1 a (b % 32)
  | .lsl => aluShift 2 a (b % 32)
  | .min => { r := if sx 24 a < sx 24 b then a else b, v := some false }
  | .max => { r := if sx 24 b < sx 24 a then a else b, v := some false }
  | .abs => aluSat (sx 24 a).natAbs
  | .neg => aluSat (-sx 24 a)
  | .not => { r := w24 - a, v := some false }
  | .cmp => aluSub false a b 0
  | .tst => { r := a &&& b, v := some false }
  | .norm => { r := leadBits a, v := some false }

/-- Write an ALU result and its flags; CMP, TST and CMPI write none (R325). -/
def CoreSt.aluPut (q : CoreSt) (write : Bool) (xd : Nat) (o : AluOut) : CoreSt :=
  let q := if write then q.put xd w24 o.r .alu else q
  q.flags (decide (o.r = 0)) (bit o.r 23) o.c o.v

/-- The ALU format (R325). -/
def doAlu (fn : AluFn) (xd xs xt : Nat) (q : CoreSt) : CoreSt :=
  q.aluPut (decide (fn ≠ .cmp) && decide (fn ≠ .tst)) xd (aluDo fn (q.x xs) (q.x xt) (b2n (bit (q.sr .reg) 2)))

/-- The IMM format (R326). -/
def doImm (fn : ImmFn) (xd xs : Nat) (i : BitVec 14) (q : CoreSt) : CoreSt :=
  let a := q.x xs
  let b := enc 24 i.toInt
  match fn with
  | .addi => q.aluPut true xd (aluDo .add a b 0)
  | .andi => q.aluPut true xd (aluDo .and a b 0)
  | .ori => q.aluPut true xd (aluDo .or a b 0)
  | .xori => q.aluPut true xd (aluDo .xor a b 0)
  | .cmpi => q.aluPut false xd (aluDo .cmp a b 0)
  | .shi => q.aluPut true xd (aluShift (i.extractLsb' 5 2).toNat a (i.extractLsb' 0 5).toNat)

/-- Extraction (R294): the result and whether it saturates. -/
def extract (ac : Int) (s : Nat) (rnd : Bool) : Int × Bool :=
  let r := (ac * 2 ^ s + (if rnd then 2 ^ 23 else 0)) / 2 ^ 24
  (clampI (-(2 ^ 23)) (2 ^ 23 - 1) r, decide (r < -(2 ^ 23)) || decide (2 ^ 23 ≤ r))

/-- An accumulator result: range, Z and N of the value written (R331). -/
def CoreSt.accPut (q : CoreSt) (a : Nat) (r : Int) : CoreSt :=
  let p := q.putRange a r .acc
  p.1.flags (decide (p.2 = 0)) (decide (p.2 < 0)) none none

/-- The ACC format (R331, R332). -/
def doAcc (fn : AccFn) (a b xr : Nat) (sh : BitVec 5) (q : CoreSt) : CoreSt :=
  let va := q.ac .acc a
  let vb := q.ac .acc b
  match fn with
  | .clra => q.accPut a 0
  | .mova => q.accPut a vb
  | .adda => q.accPut a (va + vb)
  | .suba => q.accPut a (va - vb)
  | .nega => q.accPut a (-vb)
  | .absa => q.accPut a vb.natAbs
  | .asha =>
    let n := sh.toInt
    q.accPut a (if 0 ≤ n then vb * 2 ^ n.toNat else vb / 2 ^ (-n).toNat)
  | .ldah => q.accPut a (q.xI xr * 2 ^ 24)
  | .ldal => q.accPut a (q.xI xr)
  | .ext =>
    let e := extract vb sh.toNat (bit (q.sr .mode) 19)
    let q := q.put xr w24 (enc 24 e.1) .alu
    let q := if e.2 then q.putSr (2 ^ 12) (2 ^ 12) .acc else q
    q.flags (decide (e.1 = 0)) (decide (e.1 < 0)) none none
  | .cmpa => q.flags (decide (va - vb = 0)) (decide (va - vb < 0)) none none

/-- The post-modify of Pn (R289). -/
def CoreSt.modPtr (q : CoreSt) (old : CoreSt) (n : Nat) : CoreSt := q.put (0x18 + n) w24 (old.postMod n) .post

/-- The loads of the MAC format (R329, R330): `va`, `vb` are the words at Pi and Pj of `q0`, the core before the
instruction. -/
def macLoads (q0 : CoreSt) (xc pi xd pj va vb : Nat) (q : CoreSt) : CoreSt :=
  if pi = pj then ((q.put xc w24 va .load).put xd w24 va .load).modPtr q0 pi
  else ((((q.put xc w24 va .load).put xd w24 vb .load).modPtr q0 pi).modPtr q0 pj)

/-- The MAC format's product and sum (R292, R329). -/
def doMac (fn : MacFn) (a xa xb : Nat) (q : CoreSt) : CoreSt :=
  let p0 := q.xI xa * q.xI xb
  let p := if bit (q.sr .mode) 18 then 2 * p0 else p0
  match fn with
  | .mpy => (q.putRange a p .mac).1
  | .mac => (q.putRange a (q.ac .mac a + p) .mac).1
  | .msu => (q.putRange a (q.ac .mac a - p) .mac).1
  | .ldd => q

/-- The search format (R333), before its load. -/
def doSrch (mn : Bool) (xm xi xs xk : Nat) (q : CoreSt) : CoreSt :=
  let s := q.xI xs
  let m := q.xI xm
  let k := q.x xk
  let q := if (if mn then s < m else m < s) then (q.put xm w24 (enc 24 s) .alu).put xi w24 k .alu else q
  q.put xk w24 ((k + 1) % 2 ^ 24) .alu

/-- The address and the pointer use of LD and ST (R328). -/
def memAddr (q : CoreSt) (pn : Nat) (mode : BitVec 2) (off : BitVec 14) : Nat :=
  match mode.toNat with
  | 0 | 1 => q.ptr pn
  | 2 => (((q.ptr pn : Int) + off.toInt) % 16384).toNat
  | _ => off.toNat

/-- Whether an instruction other than IN or OUT runs to its end: what it does to core and memory (R326 to R341). The
next address and the cycles are `coreIssue`'s. -/
def coreDo (t c : Nat) (i : CoreInstr) (s : State) : State :=
  let q := s.core t c
  let when_ := fun (cond : BitVec 4) (f : State → State) => if condHolds q cond.toNat then f s else s
  let up := fun (f : CoreSt → CoreSt) (s : State) => s.modCore t c f
  match i with
  | .alu fn cond xd xs xt => when_ cond (up (doAlu fn xd.toNat xs.toNat xt.toNat))
  | .imm fn cond xd xs v => when_ cond (up (doImm fn xd.toNat xs.toNat v))
  | .mov cond dst src => when_ cond (up fun q => q.writeReg dst.toNat (q.readReg src.toNat) .move)
  | .ldi h reg v =>
    up (fun q => if h then
        (if reg.toNat < 0x10 then q.put reg.toNat 0xFF0000 ((v.toNat % 256) * 65536) .alu
         else q.writeReg reg.toNat (q.readReg reg.toNat % 65536 + (v.toNat % 256) * 65536) .move)
      else q.writeReg reg.toNat (enc 24 v.toInt) .move) s
  | .mem st reg pn mode off =>
    let a := memAddr q pn.toNat mode off
    let s := if st then dmStore t c a (q.readReg reg.toNat) s
      else s.modCore t c fun x => x.writeReg reg.toNat (dmSeen s t c a) .load
    if mode = 0 then s.modCore t c fun x => x.modPtr q pn.toNat else s
  | .acc fn cond a b xr sh => when_ cond (up (doAcc fn a.toNat b.toNat xr.toNat sh))
  | .mac fn a xa xb ld xc pi xd pj =>
    up (fun x =>
      let x := doMac fn a.toNat xa.toNat xb.toNat x
      if ld = 1 then macLoads q xc.toNat pi.toNat xd.toNat pj.toNat (dmSeen s t c (q.ptr pi.toNat))
        (dmSeen s t c (q.ptr pj.toNat)) x
      else x) s
  | .srch mn xm xi xs xk ld xl pl =>
    up (fun x =>
      let x := doSrch mn xm.toNat xi.toNat xs.toNat xk.toNat x
      if ld = 1 then (x.put xl.toNat w24 (dmSeen s t c (q.ptr pl.toNat)) .load).modPtr q pl.toNat else x) s
  | .ctl fn cond pn target =>
    let taken := condHolds q cond.toNat
    let dest := match fn with
      | .jmp | .call => target.toNat
      | .jr => q.ptr pn.toNat
      | .reti => 0
    up (fun x =>
      let x := if taken && decide (fn = .call) then x.put (0x18 + pn.toNat) w24 ((q.pc + 3) % 16384) .move else x
      { x with slots := 3, target := if taken && decide (fn ≠ .reti) then some dest else none
               reti := taken && decide (fn = .reti) }) s
  | .lexit => up (fun x => x.setLoops (x.loops.drop 1)) s
  | .trig cond port xs =>
    when_ cond fun s =>
      match q.jport.find? fun e => e.1 == port.toNat with
      | some e =>
        coreConds t c (e.2.1 + q.xI xs.toNat).toNat
          (if e.2.2 then 4 else 0) s
      | none => s
  | .evt cond code xs =>
    when_ cond fun s =>
      if 16 ≤ q.evq.length then s.wrC t c R.CORE_c_STATUS_EVQ_OVF 1
      else (s.modCore t c fun x => { x with evq := x.evq ++ [(q.x xs.toNat, code.toNat)] }).wr (cctlB t)
        (coreMap R.CCTL_EVREQ_k_EVREQ c) 1
  | .srb st mask => up (fun x => x.putSr (mask.toNat &&& srWritable) (if st then w24 else 0) .move) s
  | .rep r count le =>
    up (fun x =>
      let n := if r then q.readReg (count.toNat % 128) else count.toNat
      if n = 0 then x
      else x.setLoops ({ ls := (q.pc + 1) % 16384, le := le.toNat, lc := n } :: x.loops)) s
  | .nop | .halt | .inp .. | .out .. => s

/-! Issue (R282, R285 to R288, R337). -/

/-- Whether the instruction at PC may issue where it stands (R282, R288, R335, R337). -/
def legalHere (q : CoreSt) (i : CoreInstr) : Bool :=
  let inner := q.loops.head?.map (·.le)
  let le := fun a => decide (inner = some (a % 16384))
  (decide (q.slots = 0) || !i.noSlot)
    && (!i.isTransfer || !(le q.pc || le (q.pc + 1) || le (q.pc + 2)))
    && (match i with
        | .ctl .reti .. => decide (q.bank = 1)
        | .rep _ _ e => decide ((q.pc + 1) % 16384 ≤ e.toNat) && (match inner with | some x => decide (e.toNat ≤ x) | none => true)
        | _ => true)

/-- The loop-end check at address `a` (R285), from the inside outwards: the levels after it and where fetch goes. The LC
that the check sees may be from before a recent move (R281). `fuel` bounds the levels. -/
def loopEnd (moves : List (Nat × Nat × Nat × Nat)) (bank a : Nat) : (fuel : Nat) → List CoreLoop → List CoreLoop × Nat
  | 0, l => (l, (a + 1) % 16384)
  | _ + 1, [] => ([], (a + 1) % 16384)
  | f + 1, l :: r =>
    if l.le ≠ a then (l :: r, (a + 1) % 16384)
    else
      let here := moves.filter fun m => decide (m.1 < 3) && decide (m.2.1 = bank) && decide (m.2.2.1 = r.length)
      let lc := match here with
        | m :: _ => m.2.2.2
        | [] => l.lc
      let left := if here.any (fun m => m.1 == 0) then l.lc else lc - 1
      if 1 < lc then ({ l with lc := left } :: r, l.ls) else loopEnd moves bank a f r

/-- Where the core goes after the instruction `i` at PC: the loop-end check, the delay slots of a transfer, the end of
a return from interrupt (R282, R285, R286, R298). -/
def advance (i : CoreInstr) (skip : Bool) (q : CoreSt) : CoreSt :=
  let e := match i with
    | .rep _ _ le => if skip then (q.loops, (le.toNat + 1) % 16384) else (q.loops, (q.pc + 1) % 16384)
    | _ => loopEnd q.lcMoves q.bank q.pc 4 q.loops
  let checked : Bool := match i with | .rep .. => false | _ => decide (q.loops.head?.map (·.le) = some q.pc)
  let moves := if checked then q.lcMoves.filter (fun m => m.1 == 0) else q.lcMoves
  let q := ({ q.setLoops e.1 with pc := e.2, resumed := false, lcMoves := moves } : CoreSt).age
  if q.slots = 0 then q
  else if 1 < q.slots then { q with slots := q.slots - 1 }
  else
    let q := { q with slots := 0 }
    if q.reti then { q with reti := false, bank := 0, pc := q.ira }
    else match q.target with
      | some a => { q with target := none, pc := a }
      | none => q

/-- A cycle of the core: counted, and TMR counts down (R296, CORE_c_CYCLES). -/
def coreCycles (t c n : Nat) (s : State) : State :=
  (s.wrC t c R.CORE_c_CYCLES_CYCLES ((s.rdC t c R.CORE_c_CYCLES_CYCLES + n) % 2 ^ 32)).modCore t c (·.tick n)

/-- A stalled cycle (R280, R302). -/
def coreStall (t c : Nat) (s : State) : State :=
  (s.wrC t c R.CORE_c_STALLS_STALLS ((s.rdC t c R.CORE_c_STALLS_STALLS + 1) % 2 ^ 32)).wrC t c R.CORE_c_STATUS_STALL 1

/-- IN takes the oldest word of its port (R300, R338): X registers, PTAG, J, the warm-up count, TAG, and the tags that
output blocks collect (R304). -/
def inTake (t c port xi xq : Nat) (nb : Bool) (w : PortWord) (rest : List PortWord) (s : State) : State :=
  s.modCore t c fun q =>
    let q := (q.put xi w24 (enc 24 w.i) .load).put xq w24 (enc 24 w.q) .load
    let q := q.put 0x39 w24 (w.tags % 1024 + port * 4096) .load
    let q := if nb then q.putSr 1 0 .alu else q
    let q := { q with
      inp := tset noWords q.inp port rest, reads := q.reads + 1, lastJ := w.j
      jport := (port, w.j, bit w.tags 5) :: q.jport.filter (fun e => e.1 != port)
      outs := if bit w.tags 5 then q.outs.map fun e =>
          (e.1, if e.2.words.isEmpty then e.2 else { e.2 with flags := e.2.flags ||| 64 }) else q.outs }
    if w.tags &&& (2 ||| 8 ||| 16) != 0 then q.pend 4 else q

/-- OUT puts a word into output port `p` (R303, R304, R313). -/
def outPut (t c p v : Nat) (s : State) : State :=
  let q := s.core t c
  let o := tget (fun _ => ({} : CoreOut)) q.outs p
  let blk := max 6 (min 12 (s.rdC t c (if p = 0 then R.CORE_c_OUT_CTRL_BLK0 else R.CORE_c_OUT_CTRL_BLK1)))
  let catchup := s.onC t c R.CORE_c_STATUS_CATCHUP
  let fl := (if catchup then 1024 else 0) + (if o.blocks = 0 then 2048 else 0)
  let o := if o.words.isEmpty then { o with words := [v], first := o.total, inJ := q.lastJ, flags := fl }
    else { o with words := o.words ++ [v], flags := o.flags ||| (if catchup then 1024 else 0) }
  let o := { o with total := o.total + 1, level := o.level + 1 }
  let s := s.modCore t c fun q => { q with outs := tset (fun _ => ({} : CoreOut)) q.outs p o }
  let s := s.wrC t c R.CORE_c_WORDS_WORDS ((s.rdC t c R.CORE_c_WORDS_WORDS + 1) % 2 ^ 32)
  if 2 ^ blk ≤ o.words.length then coreOutClose t c p 0 s else s

/-- The buffer of output port `p` has drained `n` words towards memory. -/
def outDrain (t c p n : Nat) (s : State) : State :=
  s.modCore t c fun q =>
    let o := tget (fun _ => ({} : CoreOut)) q.outs p
    { q with outs := tset (fun _ => ({} : CoreOut)) q.outs p { o with level := o.level - n } }

/-- The instruction `i` at PC issues: it stalls, halts the core, or runs and the core goes on. -/
def issueInstr (t c : Nat) (i : CoreInstr) (s : State) : State :=
  let q := s.core t c
  let go := fun (s : State) =>
    coreShow t c ((s.modCore t c (advance i false)).wrC t c R.CORE_c_STATUS_STALL 0)
  match i with
  | .halt =>
    coreHalt t c 4 ((coreCycles t c 1 s).modCore t c fun q => { q with pc := (q.pc + 1) % 16384, resumed := false })
  | .lexit => if q.loops.isEmpty then coreHalt t c 7 s else go (coreDo t c i (coreCycles t c 1 s))
  | .rep r count _ =>
    let n := if r then (q.tick 1).readReg (count.toNat % 128) else count.toNat
    if n = 0 then coreShow t c ((coreCycles t c 3 s).modCore t c (advance i true))
    else if 4 ≤ q.loops.length then coreHalt t c 6 s
    else go (coreDo t c i (coreCycles t c 1 s))
  | .inp nb port xi xq =>
    let s := catchupFill t c port.toNat (coreCycles t c 1 s)
    match tget noWords (s.core t c).inp port.toNat with
    | w :: rest => go (inTake t c port.toNat xi.toNat xq.toNat (decide (nb = 1)) w rest s)
    | [] => if nb = 1 then go (s.modCore t c fun q => q.putSr 1 1 .alu) else coreStall t c s
  | .out cond port xs =>
    let s := coreCycles t c 1 s
    let p := port.toNat
    if !condHolds q cond.toNat || !s.onC t c (if p = 0 then R.CORE_c_OUT_CTRL_EN0 else R.CORE_c_OUT_CTRL_EN1)
        || decide (q.reads < s.rdC t c R.CORE_c_WARMUP_SAMPLES) then go s
    else if 512 ≤ (tget (fun _ => ({} : CoreOut)) q.outs p).level then coreStall t c s
    else go (outPut t c p (q.x xs.toNat) s)
  | i => go (coreDo t c i (coreCycles t c 1 s))

/-- What the SECDED codes find in the reads of the instruction (R273): corrections counted; a double-bit error halts
the core with cause ECC before the instruction has any effect. -/
def coreEcc (t c : Nat) (e : EccRead) (s : State) : State :=
  s.inc (coreRegB t c) R.CORE_c_ECC_COUNT_CORRECTED e.corrected

/-- Whether the breakpoint stands at PC (R307): an instruction that is the first after RUN issues. -/
def atBreak (s : State) (t c : Nat) : Bool :=
  s.onC t c R.CORE_c_CTRL_BRK_EN && decide (s.rdC t c R.CORE_c_BRK_ADDR = (s.core t c).pc) && !(s.core t c).resumed

/-- Core `c` of die `t` issues the word at PC, if it is of row `op` (or no legal instruction stands there and the row
is NOP's, which carries R318's halt). A core that is halted, at its breakpoint or about to take an interrupt does not
issue. -/
def coreCmd (t c : Nat) (e : EccRead) (op : CoreOp) (s : State) : State :=
  let q := s.core t c
  if !coreRunning s t c || atBreak s t c || (interruptDue q).isSome then s
  else
    match CoreInstr.decode (s.pm t c q.pc) with
    | none => if op = .nop then coreHalt t c 5 s else s
    | some i =>
      if legalHere q i then
        (if i.op ≠ op then s
         else
           let s := coreEcc t c e s
           if e.double then coreHalt t c 8 s else issueInstr t c i s)
      else if op = .nop ∨ i.op = op then coreHalt t c 5 s else s
/-! The instruction rows. -/

/-- NOP (R318). -/
def execCoreNop (t : TDie) (c : CoreIx) (e : EccRead) (s : State) : Host.Outcome State Fault Refusal :=
  .next (coreCmd t c e .nop s)

/-- HALT (R342). -/
def execCoreHalt (t : TDie) (c : CoreIx) (e : EccRead) (s : State) : Host.Outcome State Fault Refusal :=
  .next (coreCmd t c e .halt s)

/-- ADD (R325). -/
def execCoreAdd (t : TDie) (c : CoreIx) (e : EccRead) (s : State) : Host.Outcome State Fault Refusal :=
  .next (coreCmd t c e (.alu .add) s)

/-- ADC (R325). -/
def execCoreAdc (t : TDie) (c : CoreIx) (e : EccRead) (s : State) : Host.Outcome State Fault Refusal :=
  .next (coreCmd t c e (.alu .adc) s)

/-- SUB (R325). -/
def execCoreSub (t : TDie) (c : CoreIx) (e : EccRead) (s : State) : Host.Outcome State Fault Refusal :=
  .next (coreCmd t c e (.alu .sub) s)

/-- SBC (R325). -/
def execCoreSbc (t : TDie) (c : CoreIx) (e : EccRead) (s : State) : Host.Outcome State Fault Refusal :=
  .next (coreCmd t c e (.alu .sbc) s)

/-- ADDS (R325). -/
def execCoreAdds (t : TDie) (c : CoreIx) (e : EccRead) (s : State) : Host.Outcome State Fault Refusal :=
  .next (coreCmd t c e (.alu .adds) s)

/-- SUBS (R325). -/
def execCoreSubs (t : TDie) (c : CoreIx) (e : EccRead) (s : State) : Host.Outcome State Fault Refusal :=
  .next (coreCmd t c e (.alu .subs) s)

/-- AND (R325). -/
def execCoreAnd (t : TDie) (c : CoreIx) (e : EccRead) (s : State) : Host.Outcome State Fault Refusal :=
  .next (coreCmd t c e (.alu .and) s)

/-- OR (R325). -/
def execCoreOr (t : TDie) (c : CoreIx) (e : EccRead) (s : State) : Host.Outcome State Fault Refusal :=
  .next (coreCmd t c e (.alu .or) s)

/-- XOR (R325). -/
def execCoreXor (t : TDie) (c : CoreIx) (e : EccRead) (s : State) : Host.Outcome State Fault Refusal :=
  .next (coreCmd t c e (.alu .xor) s)

/-- ANDN (R325). -/
def execCoreAndn (t : TDie) (c : CoreIx) (e : EccRead) (s : State) : Host.Outcome State Fault Refusal :=
  .next (coreCmd t c e (.alu .andn) s)

/-- ASR (R325). -/
def execCoreAsr (t : TDie) (c : CoreIx) (e : EccRead) (s : State) : Host.Outcome State Fault Refusal :=
  .next (coreCmd t c e (.alu .asr) s)

/-- LSR (R325). -/
def execCoreLsr (t : TDie) (c : CoreIx) (e : EccRead) (s : State) : Host.Outcome State Fault Refusal :=
  .next (coreCmd t c e (.alu .lsr) s)

/-- LSL (R325). -/
def execCoreLsl (t : TDie) (c : CoreIx) (e : EccRead) (s : State) : Host.Outcome State Fault Refusal :=
  .next (coreCmd t c e (.alu .lsl) s)

/-- MIN (R325). -/
def execCoreMin (t : TDie) (c : CoreIx) (e : EccRead) (s : State) : Host.Outcome State Fault Refusal :=
  .next (coreCmd t c e (.alu .min) s)

/-- MAX (R325). -/
def execCoreMax (t : TDie) (c : CoreIx) (e : EccRead) (s : State) : Host.Outcome State Fault Refusal :=
  .next (coreCmd t c e (.alu .max) s)

/-- ABS (R325). -/
def execCoreAbs (t : TDie) (c : CoreIx) (e : EccRead) (s : State) : Host.Outcome State Fault Refusal :=
  .next (coreCmd t c e (.alu .abs) s)

/-- NEG (R325). -/
def execCoreNeg (t : TDie) (c : CoreIx) (e : EccRead) (s : State) : Host.Outcome State Fault Refusal :=
  .next (coreCmd t c e (.alu .neg) s)

/-- NOT (R325). -/
def execCoreNot (t : TDie) (c : CoreIx) (e : EccRead) (s : State) : Host.Outcome State Fault Refusal :=
  .next (coreCmd t c e (.alu .not) s)

/-- CMP (R325). -/
def execCoreCmp (t : TDie) (c : CoreIx) (e : EccRead) (s : State) : Host.Outcome State Fault Refusal :=
  .next (coreCmd t c e (.alu .cmp) s)

/-- TST (R325). -/
def execCoreTst (t : TDie) (c : CoreIx) (e : EccRead) (s : State) : Host.Outcome State Fault Refusal :=
  .next (coreCmd t c e (.alu .tst) s)

/-- NORM (R325). -/
def execCoreNorm (t : TDie) (c : CoreIx) (e : EccRead) (s : State) : Host.Outcome State Fault Refusal :=
  .next (coreCmd t c e (.alu .norm) s)

/-- ADDI (R326). -/
def execCoreAddi (t : TDie) (c : CoreIx) (e : EccRead) (s : State) : Host.Outcome State Fault Refusal :=
  .next (coreCmd t c e (.imm .addi) s)

/-- ANDI (R326). -/
def execCoreAndi (t : TDie) (c : CoreIx) (e : EccRead) (s : State) : Host.Outcome State Fault Refusal :=
  .next (coreCmd t c e (.imm .andi) s)

/-- ORI (R326). -/
def execCoreOri (t : TDie) (c : CoreIx) (e : EccRead) (s : State) : Host.Outcome State Fault Refusal :=
  .next (coreCmd t c e (.imm .ori) s)

/-- XORI (R326). -/
def execCoreXori (t : TDie) (c : CoreIx) (e : EccRead) (s : State) : Host.Outcome State Fault Refusal :=
  .next (coreCmd t c e (.imm .xori) s)

/-- CMPI (R326). -/
def execCoreCmpi (t : TDie) (c : CoreIx) (e : EccRead) (s : State) : Host.Outcome State Fault Refusal :=
  .next (coreCmd t c e (.imm .cmpi) s)

/-- SHI (R326). -/
def execCoreShi (t : TDie) (c : CoreIx) (e : EccRead) (s : State) : Host.Outcome State Fault Refusal :=
  .next (coreCmd t c e (.imm .shi) s)

/-- MOV (R327). -/
def execCoreMov (t : TDie) (c : CoreIx) (e : EccRead) (s : State) : Host.Outcome State Fault Refusal :=
  .next (coreCmd t c e .mov s)

/-- LDI (R327). -/
def execCoreLdi (t : TDie) (c : CoreIx) (e : EccRead) (s : State) : Host.Outcome State Fault Refusal :=
  .next (coreCmd t c e .ldi s)

/-- LDIH (R327). -/
def execCoreLdih (t : TDie) (c : CoreIx) (e : EccRead) (s : State) : Host.Outcome State Fault Refusal :=
  .next (coreCmd t c e .ldih s)

/-- LD (R328). -/
def execCoreLd (t : TDie) (c : CoreIx) (e : EccRead) (s : State) : Host.Outcome State Fault Refusal :=
  .next (coreCmd t c e .ld s)

/-- ST (R328). -/
def execCoreSt (t : TDie) (c : CoreIx) (e : EccRead) (s : State) : Host.Outcome State Fault Refusal :=
  .next (coreCmd t c e .st s)

/-- CLRA (R331). -/
def execCoreClra (t : TDie) (c : CoreIx) (e : EccRead) (s : State) : Host.Outcome State Fault Refusal :=
  .next (coreCmd t c e (.acc .clra) s)

/-- MOVA (R331). -/
def execCoreMova (t : TDie) (c : CoreIx) (e : EccRead) (s : State) : Host.Outcome State Fault Refusal :=
  .next (coreCmd t c e (.acc .mova) s)

/-- ADDA (R331). -/
def execCoreAdda (t : TDie) (c : CoreIx) (e : EccRead) (s : State) : Host.Outcome State Fault Refusal :=
  .next (coreCmd t c e (.acc .adda) s)

/-- SUBA (R331). -/
def execCoreSuba (t : TDie) (c : CoreIx) (e : EccRead) (s : State) : Host.Outcome State Fault Refusal :=
  .next (coreCmd t c e (.acc .suba) s)

/-- NEGA (R331). -/
def execCoreNega (t : TDie) (c : CoreIx) (e : EccRead) (s : State) : Host.Outcome State Fault Refusal :=
  .next (coreCmd t c e (.acc .nega) s)

/-- ABSA (R331). -/
def execCoreAbsa (t : TDie) (c : CoreIx) (e : EccRead) (s : State) : Host.Outcome State Fault Refusal :=
  .next (coreCmd t c e (.acc .absa) s)

/-- ASHA (R331). -/
def execCoreAsha (t : TDie) (c : CoreIx) (e : EccRead) (s : State) : Host.Outcome State Fault Refusal :=
  .next (coreCmd t c e (.acc .asha) s)

/-- LDAH (R331). -/
def execCoreLdah (t : TDie) (c : CoreIx) (e : EccRead) (s : State) : Host.Outcome State Fault Refusal :=
  .next (coreCmd t c e (.acc .ldah) s)

/-- LDAL (R331). -/
def execCoreLdal (t : TDie) (c : CoreIx) (e : EccRead) (s : State) : Host.Outcome State Fault Refusal :=
  .next (coreCmd t c e (.acc .ldal) s)

/-- EXT (R294). -/
def execCoreExt (t : TDie) (c : CoreIx) (e : EccRead) (s : State) : Host.Outcome State Fault Refusal :=
  .next (coreCmd t c e (.acc .ext) s)

/-- CMPA (R331). -/
def execCoreCmpa (t : TDie) (c : CoreIx) (e : EccRead) (s : State) : Host.Outcome State Fault Refusal :=
  .next (coreCmd t c e (.acc .cmpa) s)

/-- MPY (R329). -/
def execCoreMpy (t : TDie) (c : CoreIx) (e : EccRead) (s : State) : Host.Outcome State Fault Refusal :=
  .next (coreCmd t c e (.mac .mpy) s)

/-- MAC (R329). -/
def execCoreMac (t : TDie) (c : CoreIx) (e : EccRead) (s : State) : Host.Outcome State Fault Refusal :=
  .next (coreCmd t c e (.mac .mac) s)

/-- MSU (R329). -/
def execCoreMsu (t : TDie) (c : CoreIx) (e : EccRead) (s : State) : Host.Outcome State Fault Refusal :=
  .next (coreCmd t c e (.mac .msu) s)

/-- LDD (R330). -/
def execCoreLdd (t : TDie) (c : CoreIx) (e : EccRead) (s : State) : Host.Outcome State Fault Refusal :=
  .next (coreCmd t c e (.mac .ldd) s)

/-- MAXI (R333). -/
def execCoreMaxi (t : TDie) (c : CoreIx) (e : EccRead) (s : State) : Host.Outcome State Fault Refusal :=
  .next (coreCmd t c e .maxi s)

/-- MINI (R333). -/
def execCoreMini (t : TDie) (c : CoreIx) (e : EccRead) (s : State) : Host.Outcome State Fault Refusal :=
  .next (coreCmd t c e .mini s)

/-- JMP (R335). -/
def execCoreJmp (t : TDie) (c : CoreIx) (e : EccRead) (s : State) : Host.Outcome State Fault Refusal :=
  .next (coreCmd t c e (.ctl .jmp) s)

/-- CALL (R335). -/
def execCoreCall (t : TDie) (c : CoreIx) (e : EccRead) (s : State) : Host.Outcome State Fault Refusal :=
  .next (coreCmd t c e (.ctl .call) s)

/-- JR (R335). -/
def execCoreJr (t : TDie) (c : CoreIx) (e : EccRead) (s : State) : Host.Outcome State Fault Refusal :=
  .next (coreCmd t c e (.ctl .jr) s)

/-- RETI (R298). -/
def execCoreReti (t : TDie) (c : CoreIx) (e : EccRead) (s : State) : Host.Outcome State Fault Refusal :=
  .next (coreCmd t c e (.ctl .reti) s)

/-- REP (R336). -/
def execCoreRep (t : TDie) (c : CoreIx) (e : EccRead) (s : State) : Host.Outcome State Fault Refusal :=
  .next (coreCmd t c e .rep s)

/-- LEXIT (R337). -/
def execCoreLexit (t : TDie) (c : CoreIx) (e : EccRead) (s : State) : Host.Outcome State Fault Refusal :=
  .next (coreCmd t c e .lexit s)

/-- IN (R338). -/
def execCoreIn (t : TDie) (c : CoreIx) (e : EccRead) (s : State) : Host.Outcome State Fault Refusal :=
  .next (coreCmd t c e .inp s)

/-- OUT (R339): `drained` words have left the port's buffer since the last one. -/
def execCoreOut (t : TDie) (c : CoreIx) (e : EccRead) (drained : Nat) (s : State) : Host.Outcome State Fault Refusal :=
  .next (match CoreInstr.decode (s.pm t c (s.core t c).pc) with
    | some (.out _ port _) => coreCmd t c e .out (outDrain t c port.toNat drained s)
    | _ => coreCmd t c e .out s)

/-- TRIG (R340). -/
def execCoreTrig (t : TDie) (c : CoreIx) (e : EccRead) (s : State) : Host.Outcome State Fault Refusal :=
  .next (coreCmd t c e .trig s)

/-- EVT (R305). -/
def execCoreEvt (t : TDie) (c : CoreIx) (e : EccRead) (s : State) : Host.Outcome State Fault Refusal :=
  .next (coreCmd t c e .evt s)

/-- SRSET (R341). -/
def execCoreSrset (t : TDie) (c : CoreIx) (e : EccRead) (s : State) : Host.Outcome State Fault Refusal :=
  .next (coreCmd t c e .srset s)

/-- SRCLR (R341). -/
def execCoreSrclr (t : TDie) (c : CoreIx) (e : EccRead) (s : State) : Host.Outcome State Fault Refusal :=
  .next (coreCmd t c e .srclr s)

end Sys2Proof.Machine
end

