-- ==== Sys2Proof/Machine/CpuCtl.lean ====
section
/-! DEFINITION. The host's view of the channel cores, their memories' faults, and the repair of a core (R303 to R315). -/

namespace Sys2Proof.Machine

/-- A write of the doorbell (R309); the interrupt is subject to its enable (R296). -/
def coreDoorbell (t c : Nat) (v : Nat) (s : State) : State :=
  let ovr := bit (s.core t c).ipend 3
  let s := s.wrC t c R.CORE_c_DOORBELL_VALUE v
  let s := if ovr then s.wrC t c R.CORE_c_STATUS_DBOVF 1 else s
  s.modCore t c fun q => { q with dbr := v }.pend 3

/-- CORE_DOORBELL (R309). -/
def execCoreDoorbell (t : TDie) (c : CoreIx) (v : BitVec 24) (s : State) : Host.Outcome State Fault Refusal :=
  .next (if s.usableT t then coreDoorbell t c v.toNat s else s)

/-- CORE_RUN: RUN = 1 is written (R307). -/
def execCoreRun (t : TDie) (c : CoreIx) (s : State) : Host.Outcome State Fault Refusal :=
  .next (if s.usableT t then coreStart t c s else s)

/-- CORE_STOP: RUN = 0 is written (R307). -/
def execCoreStop (t : TDie) (c : CoreIx) (s : State) : Host.Outcome State Fault Refusal :=
  .next (if s.usableT t then coreStop t c s else s)

/-- STEP: one instruction issues and completes, then the core is halted with cause STEP; ignored while RUN = 1
(R307). A stalled instruction does not issue. -/
def coreStep (t c : Nat) (e : EccRead) (s : State) : State :=
  if s.onC t c R.CORE_c_CTRL_RUN || s.onC t c R.CORE_c_STATUS_RUNNING || (s.core t c).retired then s
  else
    let q := s.core t c
    match CoreInstr.decode (s.pm t c q.pc) with
    | none => coreHalt t c 5 s
    | some i =>
      if !legalHere q i then coreHalt t c 5 s
      else
        let s := coreEcc t c e s
        if e.double then coreHalt t c 8 s
        else
          let s := issueInstr t c i (s.wrC t c R.CORE_c_STATUS_CAUSE 0)
          if s.rdC t c R.CORE_c_STATUS_CAUSE = 0 then coreHalt t c 2 s else s

/-- CORE_STEP (R307). -/
def execCoreStep (t : TDie) (c : CoreIx) (e : EccRead) (s : State) : Host.Outcome State Fault Refusal :=
  .next (if s.usableT t then coreStep t c e s else s)

/-- CORE_RESET (R307). -/
def execCoreReset (t : TDie) (c : CoreIx) (s : State) : Host.Outcome State Fault Refusal :=
  .next (if s.usableT t then coreReset0 t c s else s)

/-- BREAKPOINT_HALT: the core is about to issue the instruction at CORE_c_BRK.ADDR with BRK_EN set (R307). -/
def execBreakpointHalt (t : TDie) (c : CoreIx) (s : State) : Host.Outcome State Fault Refusal :=
  .next (if coreRunning s t c && atBreak s t c then coreHalt t c 3 s else s)

/-- Apply `f` to each core whose bit is set in register `k` of a bitmap (R310). -/
def eachCore (k mask : Nat) (f : Nat → State → State) (s : State) : State :=
  (List.range 32).foldl (fun s b => if bit mask b && decide (32 * k + b < 132) then f (32 * k + b) s else s) s

/-- CCTL_START (R310). -/
def execCctlStart (t : TDie) (k : Fin 5) (mask : Word) (s : State) : Host.Outcome State Fault Refusal :=
  .next (if s.usableT t then eachCore k mask.toNat (coreStart t) s else s)

/-- CCTL_STOP (R310). -/
def execCctlStop (t : TDie) (k : Fin 5) (mask : Word) (s : State) : Host.Outcome State Fault Refusal :=
  .next (if s.usableT t then eachCore k mask.toNat (coreStop t) s else s)

/-- The core register that CORE_c_DBG_SEL selects (R308). -/
def dbgRead (t c : Nat) (s : State) : Nat :=
  let q := s.core t c
  ({ q with bank := s.rdC t c R.CORE_c_DBG_SEL_BANK, recent := [] } : CoreSt).readReg (s.rdC t c R.CORE_c_DBG_SEL_REG)

/-- A debug write of a register of the selected bank; a level's LS and LE can be written too (R308). -/
def dbgWrite (code v : Nat) (q : CoreSt) : CoreSt :=
  if 0x40 ≤ code ∧ code < 0x50 then
    let n := (code - 0x40) / 4
    match q.loops[n]? with
    | some l =>
      q.setLoops (q.loops.set n (match (code - 0x40) % 4 with
        | 0 => { l with ls := v % 16384 } | 1 => { l with le := v % 16384 } | 2 => { l with lc := v } | _ => l))
    | none => q
  else (q.writeReg code v .move).settle

/-- A write of CORE_c_DBG_DATA: ignored with an access violation while the core runs (R308). -/
def coreDbgWrite (t c v : Nat) (s : State) : State :=
  if s.onC t c R.CORE_c_STATUS_RUNNING then s.violation (hubOf s t) (coreRegB t c + R.CORE_c_DBG_DATA)
  else
    let q := s.core t c
    let r := dbgWrite (s.rdC t c R.CORE_c_DBG_SEL_REG) v { q with bank := s.rdC t c R.CORE_c_DBG_SEL_BANK }
    coreShow t c (s.modCore t c fun _ => { r with bank := q.bank })

/-- A write of CORE_c_PC while the core is halted: the next instruction, with no delay slot left to issue (R310). -/
def corePcWrite (t c v : Nat) (s : State) : State :=
  coreShow t c (s.modCore t c fun q => { q with pc := v % 16384, slots := 0, target := none, reti := false })

/-- CORE_DBG_DATA_WRITE (R308). -/
def execCoreDbgDataWrite (t : TDie) (c : CoreIx) (v : BitVec 24) (s : State) : Host.Outcome State Fault Refusal :=
  .next (if s.usableT t then coreDbgWrite t c v.toNat s else s)

/-- A read of CORE_c_EVQ pops the oldest event (R305, R310). -/
def evqPop (t c : Nat) (s : State) : State :=
  match (s.core t c).evq with
  | [] => { s with readData := 0 }
  | (v, code) :: r =>
    let s := (s.modCore t c fun q => { q with evq := r }).wr (cctlB t) (coreMap R.CCTL_EVREQ_k_EVREQ c) (b2n (!r.isEmpty))
    { s with readData := BitVec.ofNat 32 (v % 2 ^ 24 + code % 128 * 2 ^ 24 + 2 ^ 31) }

/-- CORE_EVQ_POP (R310). -/
def execCoreEvqPop (t : TDie) (c : CoreIx) (s : State) : Host.Outcome State Fault Refusal :=
  .next (if s.usableT t then evqPop t c s else s)

/-- CORE_PROGRAM_WRITE: a host write of a program word (R274, R275). -/
def execCoreProgramWrite (t : TDie) (c : CoreIx) (a : BitVec 14) (v : Word) (s : State) :
    Host.Outcome State Fault Refusal :=
  .next (if s.usableT t then s.setReg (pmAddr t c a.toNat) v else s)

/-- A host write of a data word: bits [23:0]; the next read sees it (R274, R276). -/
def dmHostWrite (t c a : Nat) (v : Word) (s : State) : State :=
  (s.setReg (dmAddr t c a) (v &&& 0xFFFFFF)).modCore t c fun q => { q with
    stores := q.stores.filter fun x => x.2.1 != a % 16384 }

/-- CORE_DATA_WRITE (R274, R276). -/
def execCoreDataWrite (t : TDie) (c : CoreIx) (a : BitVec 14) (v : Word) (s : State) :
    Host.Outcome State Fault Refusal :=
  .next (if s.usableT t then dmHostWrite t c a.toNat v s else s)

/-- CORE_SCRUB: the scrubber reads a word of each memory (R273). -/
def execCoreScrub (t : TDie) (c : CoreIx) (e : EccRead) (s : State) : Host.Outcome State Fault Refusal :=
  .next (if s.usableT t then
    let s := coreEcc t c e s
    if e.double && coreRunning s t c then coreHalt t c 8 s else s
  else s)

/-- CORE_PARITY_ERROR: a parity mismatch in the register file or the pipeline (R311). -/
def execCoreParityError (t : TDie) (c : CoreIx) (s : State) : Host.Outcome State Fault Refusal :=
  .next (if coreRunning s t c then coreHalt t c 9 s else s)

/-- Write words from an address up. -/
def loadWords (a : Nat) : List Word → State → State
  | [], s => s
  | w :: l, s => loadWords (a + 4) l (s.setReg a w)

/-- Load a program and a data image: words that the images do not list are zero (R312, R316). -/
def coreImages (t c : Nat) (prog : List Word) (data : List (BitVec 24)) (s : State) : State :=
  let s : State := { s with regs := tclear s.regs (coreB t c) (coreB t c + 0x20000) }
  loadWords (dmAddr t c 0) ((data.take 16384).map (·.setWidth 32)) (loadWords (pmAddr t c 0) (prog.take 16384) s)

/-- Show whether core `c` is held in reserve (CCTL_SPARE_k, CORE_c_STATUS.SPARE). -/
def setSpare (t c : Nat) (on : Bool) (s : State) : State :=
  (s.wr (cctlB t) (coreMap R.CCTL_SPARE_k_SPARE c) (b2n on)).wrC t c R.CORE_c_STATUS_SPARE (b2n on)

/-- Whether the program of a running plan is placed on core `c`. -/
def corePlaced (s : State) (t c : Nat) : Bool :=
  s.plans.any fun x => x.2.zooms.any fun z => z.die.val == t && z.core.map Fin.val == some c

/-- Change the recorded placements of the running plans, as a repair moves a channel or a program (R314, R355). -/
def State.mapPlaces (f : ZoomPlace → ZoomPlace) (s : State) : State :=
  { s with plans := s.plans.map fun x => (x.1, { x.2 with zooms := x.2.zooms.map f }) }

/-- Whether core `c` can be used for a program or a spare: not retired, halted, of no running plan, not a spare. -/
def coreFree (s : State) (t c : Nat) : Bool :=
  !(s.core t c).retired && s.onC t c R.CORE_c_STATUS_HALTED && !corePlaced s t c
    && !s.onC t c R.CORE_c_STATUS_SPARE

/-- The usable cores of die `t`: not retired and of no running plan. -/
def usableCores (s : State) (t : Nat) : List Nat :=
  (List.range 132).filter fun c => !(s.core t c).retired && !corePlaced s t c

/-- The RESERVE highest-numbered usable cores of die `t`, which an admission holds as spares (R312). -/
def reserveCores (s : State) (t : Nat) : List Nat :=
  (usableCores s t).reverse.take (min 4 (s.rd (cctlB t) R.CCTL_CFG_RESERVE))

/-- How many spares die `t` holds, in CCTL_CFG.SPARES. -/
def showSpares (t : Nat) (s : State) : State :=
  s.wr (cctlB t) R.CCTL_CFG_SPARES ((List.range 132).filter fun c => s.onC t c R.CORE_c_STATUS_SPARE).length

/-- Hold the RESERVE highest-numbered usable cores as spares (R312). -/
def holdSpares (t : Nat) (s : State) : State :=
  let top := reserveCores s t
  let s := (List.range 132).foldl (fun s c => setSpare t c false s) s
  showSpares t (top.foldl (fun s c => setSpare t c true s) s)

/-- CORE_REPAIR: the planner moves the program of a core halted with ECC or PARITY to a spare of its die (R314): images
and OUT and WARMUP fields are copied, the feeding channels are routed to the spare, and it starts with REPLAY set. The
failed core is retired; a free core becomes a spare in its place. -/
def execCoreRepair (t : TDie) (c spare : CoreIx) (prog : List Word) (data : List (BitVec 24)) (s : State) :
    Host.Outcome State Fault Refusal :=
  let cause := s.rdC t c R.CORE_c_STATUS_CAUSE
  .next (if s.usableT t && (decide (cause = 8) || decide (cause = 9)) && !(s.core t c).retired
      && s.onC t spare R.CORE_c_STATUS_SPARE && decide (c ≠ spare) then
    let s := coreImages t spare prog data s
    let s := [R.CORE_c_OUT_0, R.CORE_c_OUT_1, R.CORE_c_OUT_CTRL, R.CORE_c_WARMUP].foldl
      (fun s r => s.setReg (coreRegB t spare + r) (s.reg (coreRegB t c + r))) s
    let s := (List.range 128).foldl (fun s n =>
      let b := chzB t + 0x40 * n
      if s.rd b R.ZC_n_ROUTE_CORE = c.val then s.wr b R.ZC_n_ROUTE_CORE spare.val else s) s
    let s := (s.modCore t c fun q => { q with retired := true }).mapPlaces fun z =>
      if z.die = t ∧ z.core = some c then { z with core := some spare } else z
    let s := setSpare t spare false s
    let s := match (List.range 132).reverse.find? fun k => coreFree s t k && decide (k ≠ spare) with
      | some k => setSpare t k true s
      | none => s
    let s := showSpares t s
    let s := (coreReset0 t spare s).wrC t spare R.CORE_c_STATUS_REPLAY 1
    (coreStart t spare s).wr (chzB t) R.CHZ_STATUS_REPLAY 1
  else s)

/-- CORE_REPLAY_END: the last replayed word has been delivered; REPLAY clears and CATCHUP sets (R314). -/
def execCoreReplayEnd (t : TDie) (c : CoreIx) (s : State) : Host.Outcome State Fault Refusal :=
  .next (if s.onC t c R.CORE_c_STATUS_REPLAY then
    (s.wrs (coreRegB t c) [(R.CORE_c_STATUS_REPLAY, 0), (R.CORE_c_STATUS_CATCHUP, 1)]).wr (chzB t) R.CHZ_STATUS_REPLAY 0
  else s)

/-- CATCHUP_EMPTY: the catch-up buffer is empty, and the core reads its ports directly (R314). -/
def execCatchupEmpty (t : TDie) (c : CoreIx) (s : State) : Host.Outcome State Fault Refusal :=
  .next (if s.onC t c R.CORE_c_STATUS_CATCHUP && (s.core t c).catchup.isEmpty then
    s.wrC t c R.CORE_c_STATUS_CATCHUP 0 else s)

/-- CORE_BLOCK_WRITTEN: the oldest closed block of output port `p` is in memory and line CORE pulses; with fewer than
two slots nothing is written and RING_SMALL sets (R303, R304). -/
def execCoreBlockWritten (t : TDie) (c : CoreIx) (p : Fin 2) (s : State) : Host.Outcome State Fault Refusal :=
  let q := s.core t c
  let o := tget (fun _ => ({} : CoreOut)) q.outs p
  match o.closed with
  | [] => .next s
  | (i, bytes) :: r =>
    let s := s.modCore t c fun q => { q with outs := tset (fun _ => ({} : CoreOut)) q.outs p { o with closed := r } }
    let blk := max 6 (min 12 (s.rdC t c (if p = 0 then R.CORE_c_OUT_CTRL_BLK0 else R.CORE_c_OUT_CTRL_BLK1)))
    let size := s.rdC t c (if p = 0 then R.CORE_c_OUT_CTRL_SIZE0 else R.CORE_c_OUT_CTRL_SIZE1) * 2 ^ 20
    let slot := 32 + 4 * 2 ^ blk
    let nb := size / slot
    let base := s.rdC t c (if p = 0 then R.CORE_c_OUT_0_BASE else R.CORE_c_OUT_1_BASE) * 2 ^ 20
    if nb < 2 then .next (s.wrC t c R.CORE_c_STATUS_RING_SMALL 1)
    else
      let h := hubOf s t
      .next (((s.setBytes h (base + i % nb * slot) bytes).wrC t c R.CORE_c_STATUS_RING_SMALL 0).pulse h
        (0x7000 + 2 * (132 * (t % 2) + c) + p))

end Sys2Proof.Machine
end

