-- ==== Sys2Proof/Machine/Nfs.lean ====
section
/-! DEFINITION. The flash stores (chapter 14). -/

namespace Sys2Proof.Machine

def dNfs : Nat → NfsSt := fun _ => {}
def State.nfsSt (s : State) (h : Nat) : NfsSt := tget dNfs s.nfs h
def State.modNfs (s : State) (h : Nat) (f : NfsSt → NfsSt) : State := { s with nfs := tset dNfs s.nfs h (f (s.nfsSt h)) }

/-- The registers of source `k` of hub `h`. -/
def nfsSrcB (h k : Nat) : Nat := nfsB h + 0x20 * k

def dSuper : Nat → NandSuper := fun _ => {}
def superKey (g sb : Nat) : Nat := g * 0x100000 + sb
def NfsSt.super (q : NfsSt) (g sb : Nat) : NandSuper := tget dSuper q.supers (superKey g sb)
def NfsSt.modSuper (q : NfsSt) (g sb : Nat) (f : NandSuper → NandSuper) : NfsSt :=
  { q with supers := tset dSuper q.supers (superKey g sb) (f (q.super g sb)) }

/-- The store can be written and read: mounted, not locked, not blank (R482). -/
def nfsReady (s : State) (h : Nat) : Bool :=
  s.on (nfsB h) R.NFS_STATUS_MOUNTED && !s.on (nfsB h) R.NFS_STATUS_LOCKED && !s.on (nfsB h) R.NFS_STATUS_BLANK

/-! Layout (R455 to R459). -/

/-- Pages of 16,384 bytes in a program unit: planes times bits per cell (R455). -/
def NandLun.unit (l : NandLun) : Nat := (if l.planes4 then 4 else 2) * (if l.bpc4 then 4 else 3)

/-- The usable LUNs in ascending order: those that agree with the lowest-numbered one of them (R455). -/
def usableLuns (l : List NandLun) : List NandLun :=
  let sorted := (List.range 256).filterMap fun i => l.find? fun x => x.i.val == i && x.ok
  match sorted with
  | [] => []
  | x :: _ => sorted.filter fun y => decide ((y.maker, y.bpc4, y.planes4, y.pages, y.blocks)
      = (x.maker, x.bpc4, x.planes4, x.pages, x.blocks))

/-- A list cut into pieces of `w`; a last piece of fewer than 4 is left out (R456). -/
def pieces (w : Nat) : (fuel : Nat) → List Nat → List (List Nat)
  | 0, _ => []
  | f + 1, l => if l.length < 4 then [] else l.take w :: pieces w f (l.drop w)

/-- Payload of a row of `w` dies in sectors (R457). -/
def rowRoom (unit w : Nat) : Nat := (w - 1) * unit * 4 - 1

/-- The dies of a group that have not failed. -/
def NfsSt.live (q : NfsSt) (g : Nat) : List Nat :=
  match q.groups[g]? with
  | some x => x.dies.filter fun d => !q.failed.contains d
  | none => []

/-- Superblocks of a group for data: group 0 gives 4 to the metadata log (R458). -/
def NfsSt.supersOf (q : NfsSt) (g : Nat) : Nat := if g = 0 then q.supersPer - 4 else q.supersPer

/-- The free superblocks of a group. -/
def NfsSt.free (q : NfsSt) (g : Nat) : List Nat :=
  (List.range (q.supersOf g)).filter fun sb => !(q.super g sb).inUse && !(q.super g sb).retired

/-- FREE_MIN (R458); 0 acts as 1. -/
def freeMin (s : State) (h : Nat) : Nat := max 1 (s.rd (nfsB h) R.NFS_FREE_MIN_SUPERBLOCKS)

/-- Payload bytes of a superblock of group `g`. -/
def NfsSt.superBytes (q : NfsSt) (g : Nat) : Nat :=
  match q.groups[g]? with
  | some x => q.rowsPer * rowRoom q.unit x.dies.length * 4096
  | none => 0

/-- NFS_RATE (R459, R482). -/
def nfsRate (s : State) (h : Nat) : Nat :=
  let q := s.nfsSt h
  let w := max 1 (s.rd (nfsB h) R.NFS_GEOM_WIDTH)
  let bus := 97 * q.rates * (w - 1) * 8 / (100 * 9 * w)
  let prog := ((q.luns.filter fun l => !q.failed.contains l.i.val).map (·.mbps)).sum * (w - 1) / w
  if nfsReady s h then min 16000 (min bus prog) else 0

/-- The rate, capacity, free space and tags in use are shown (R458, R459, R467). -/
def nfsShow (h : Nat) (s : State) : State :=
  let q := s.nfsSt h
  let gs := List.range q.groups.length
  let m := freeMin s h
  let cap := (gs.map fun g => (q.supersOf g - m) * q.superBytes g).sum / 10 ^ 9
  let free := (gs.map fun g => ((q.free g).length - m) * q.superBytes g).sum / 10 ^ 9
  let tags := ((q.rows.filter (!·.passed)).map fun r => r.dies.length).sum
  s.wrs (nfsB h) [(R.NFS_RATE_MBPS, nfsRate s h), (R.NFS_CAP_GB, cap), (R.NFS_FREE_GB, free),
    (R.NFS_TAGS_USED_IN_USE, min tags (max 1 (s.rd (nfsB h) R.NFS_TAGS_LIMIT)))]

/-- NFS_WEAR: mean and highest program/erase count (R471). -/
def nfsShowWear (h : Nat) (s : State) : State :=
  let q := s.nfsSt h
  let n := ((List.range q.groups.length).map q.supersOf).sum
  let sum := (q.supers.map fun e => e.2.pe).sum
  let top := (q.supers.map fun e => e.2.pe).foldl max 0
  s.wrs (nfsB h) [(R.NFS_WEAR_PE_MEAN, sum / max 1 n), (R.NFS_WEAR_PE_MAX, top)]

/-- NFS_DIES_c and NFS_FAILED_c: die c + 8p is bit p of channel c. -/
def nfsShowDies (h : Nat) (s : State) : State :=
  let q := s.nfsSt h
  let mask := fun (c : Nat) (l : List Nat) => (l.filter fun d => d % 8 == c).foldl (fun m d => m ||| 2 ^ (d / 8)) 0
  (List.range 8).foldl (fun s c =>
    s.wrs (nfsB h + 0x10 * c) [(R.NFS_DIES_c_DIES, mask c (q.luns.map (·.i.val))), (R.NFS_FAILED_c_FAILED, mask c q.failed)]) s

/-! Recordings and their counts (R460, R461). -/

def NfsSt.find (q : NfsSt) (n : Nat) : Option NfsRec := q.cat.find? (·.num == n)

def modRecording (h n : Nat) (f : NfsRec → NfsRec) (s : State) : State :=
  s.modNfs h fun q => { q with cat := q.cat.map fun r => if r.num = n then f r else r }

/-- Whether the source's registers show this recording. -/
def NfsSt.isShown (q : NfsSt) (r : NfsRec) : Bool := tget noNat q.shown r.source == r.num

/-- WPTR, RPTR and SAFE of a recording. -/
def recCounts (s : State) (h : Nat) (r : NfsRec) : Nat × Nat × Nat :=
  let b := nfsSrcB h r.source
  if (s.nfsSt h).isShown r then
    (s.rd b R.NFS_SRC_s_WPTR_WPTR, s.rd b R.NFS_SRC_s_RPTR_RPTR, s.rd b R.NFS_SRC_s_SAFE_SAFE)
  else (r.wptr, r.rptr, r.safe)

def setCounts (h : Nat) (r : NfsRec) (w p f : Nat) (s : State) : State :=
  let b := nfsSrcB h r.source
  let s := if (s.nfsSt h).isShown r then
      s.wrs b [(R.NFS_SRC_s_WPTR_WPTR, w), (R.NFS_SRC_s_RPTR_RPTR, p), (R.NFS_SRC_s_SAFE_SAFE, f)]
    else s
  modRecording h r.num (fun r => { r with wptr := w, rptr := p, safe := f }) s

/-- Distance between two free-running 32-bit counts. -/
def dist32 (a b : Nat) : Nat := (a + 2 ^ 32 - b % 2 ^ 32) % 2 ^ 32

/-- Sectors staged and not safe over enabled and CLOSING sources (R464). The model writes metadata changes at once, so
they add nothing. -/
def pendingSectors (s : State) (h : Nat) : Nat :=
  ((s.nfsSt h).cat.map fun r => if r.state = 1 ∨ r.state = 2 then
    (let c := recCounts s h r; dist32 c.1 c.2.2) else 0).sum

/-- PENDING of both hubs in sectors. -/
def pendingAll (s : State) : Nat := pendingSectors s 0 + (if s.hasHub 1 then pendingSectors s 1 else 0)

/-- PENDING in MiB, rounded up (R365). -/
def pendingMib (s : State) : Nat := (pendingAll s + 255) / 256

/-! Rows (R463 to R465). -/

/-- The row header (R465). -/
def rowHeader (seq sts width flags : Nat) (e : List Extent) : List Byte :=
  let ext := e.flatMap fun x =>
    leBytes 4 x.num ++ leBytes 8 x.offset ++ leBytes 4 x.count ++ leBytes 4 x.start ++ List.replicate 12 0
  let b := [0x53, 0x52, 0x4F, 0x57] ++ leBytes 8 seq ++ leBytes 12 sts ++ leBytes 2 e.length
    ++ leBytes 1 width ++ leBytes 1 flags ++ List.replicate 36 0 ++ ext
  let b := b ++ List.replicate (4092 - b.length) 0
  b ++ leBytes 4 (crc32 b)

/-- The free superblock with the lowest program/erase count (R471). -/
def NfsSt.bestFree (q : NfsSt) (g : Nat) : Option Nat :=
  (q.free g).foldl (fun b sb => match b with
    | none => some sb
    | some x => if (q.super g sb).pe < (q.super g x).pe then some sb else b) none

/-- A place for the next row in group `g`: in the superblock being filled, or in a free one if more than `keep` are
free. The answer is the superblock, row and group state after. -/
def NfsSt.placeIn (q : NfsSt) (keep g : Nat) : Option (Nat × Nat × NfsSt) :=
  let set := fun (q : NfsSt) sb r => { q with groups := q.groups.modify g fun x => { x with filling := some (sb, r) } }
  match (q.groups[g]?).bind (·.filling) with
  | some (sb, r) => if r < q.rowsPer && !(q.super g sb).retired then some (sb, r, set q sb (r + 1)) else fresh q set
  | none => fresh q set
where
  fresh (q : NfsSt) (set : NfsSt → Nat → Nat → NfsSt) : Option (Nat × Nat × NfsSt) :=
    if (q.free g).length ≤ keep ∨ q.rowsPer = 0 then none
    else match q.bestFree g with
      | none => none
      | some sb => some (sb, 0, (set q sb 1).modSuper g sb fun x => { x with pe := x.pe + 1, inUse := true, reads := 0 })

/-- A place in the next group in turn that has one. -/
def NfsSt.place (q : NfsSt) (keep : Nat) : Option (Nat × Nat × Nat × NfsSt) :=
  let n := q.groups.length
  (List.range n).findSome? fun k =>
    let g := (q.turn + k) % n
    if (q.live g).length < 2 then none
    else (q.placeIn keep g).map fun (sb, r, q) => (g, sb, r, { q with turn := g + 1 })

/-- The row being filled is sealed, padded if it is not full (R463, R465). -/
def nfsSeal (h : Nat) (s : State) : State :=
  match (s.nfsSt h).filling with
  | none => s
  | some o =>
    let flags := b2n (decide (o.used < o.room)) + 2 * b2n (s.on (nfsB h) R.NFS_STATUS_FLUSH)
    s.modNfs h fun q => { q with
      filling := none, rowSeq := q.rowSeq + 1
      rows := q.rows ++ [{ seq := q.rowSeq, group := o.group, sb := o.sb, row := o.row, dies := o.dies
                           extents := o.extents, flags := flags, sealedAt := s.time.frc, patrolled := s.time.frc
                           header := rowHeader q.rowSeq s.sts o.dies.length flags o.extents }] }

/-- Whether a recording has sectors that the store takes now: 64, or it has waited, is CLOSING, or in FLUSH (R463). -/
def takeable (s : State) (h : Nat) (r : NfsRec) : Bool :=
  let c := recCounts s h r
  let n := dist32 c.1 c.2.1
  !r.orphan && (r.state == 1 || r.state == 2) && n != 0 && s.rd (nfsSrcB h r.source) R.NFS_SRC_s_SIZE_SIZE != 0 &&
    (decide (64 ≤ n) || r.state == 2 || tget noNat (s.nfsSt h).waited r.source != 0 || s.on (nfsB h) R.NFS_STATUS_FLUSH)

/-- The recording whose turn it is, by source from the round-robin place on. -/
def nextTake (s : State) (h : Nat) : Option NfsRec :=
  let q := s.nfsSt h
  (List.range 64).findSome? fun k => q.cat.find? fun r => r.source == (q.rr + k) % 64 && takeable s h r

/-- Sector `n` of the ring of source `k`, as it stands in capture memory (R460). -/
def ringSector (s : State) (h k n : Nat) : List Byte :=
  let b := nfsSrcB h k
  let size := s.rd b R.NFS_SRC_s_SIZE_SIZE * 256
  s.bytes h (s.rd b R.NFS_SRC_s_BASE_BASE * 2 ^ 20 + n % size * 4096) 4096

/-- Sectors of `r` from `first` up are taken into the row `o`. -/
def takeInto (h : Nat) (r : NfsRec) (first n : Nat) (o : NandOpen) (s : State) : State :=
  let data := (List.range n).map fun k => (r.num * 2 ^ 32 + (first + k) % 2 ^ 32, ringSector s h r.source (first + k))
  let ext := match o.extents.getLast? with
    | some e => if e.num = r.num && e.offset + e.count == first then
        o.extents.dropLast ++ [{ e with count := e.count + n }]
      else o.extents ++ [⟨r.num, first, n, o.used⟩]
    | none => [⟨r.num, first, n, o.used⟩]
  s.modNfs h fun q => { q with
    sectors := data.foldl (fun t e => tset (fun _ => []) t e.1 e.2) q.sectors
    filling := some { o with extents := ext, used := o.used + n }
    rr := (r.source + 1) % 64, waited := tset noNat q.waited r.source 0 }

/-- The store takes staged sectors into rows until none may be taken or no place is left (R463, R468). -/
def nfsFill (h : Nat) : (fuel : Nat) → State → State
  | 0, s => s
  | fuel + 1, s =>
    if !nfsReady s h || !s.on (nfsB h) R.NFS_CTRL_EN || s.on (nfsB h) R.NFS_STATUS_ERASING
      || s.on (nfsB h) R.NFS_STATUS_FORMATTING then s
    else match nextTake s h with
    | none => s
    | some r =>
      let q := s.nfsSt h
      match q.filling with
      | none =>
        match q.place (freeMin s h) with
        | none => s
        | some (g, sb, row, q) =>
          let d := q.live g
          nfsFill h fuel (s.modNfs h fun _ => { q with
            filling := some { group := g, sb := sb, row := row, dies := d, room := rowRoom q.unit d.length
                              opened := s.time.frc } })
      | some o =>
        let c := recCounts s h r
        let n := min (dist32 c.1 c.2.1) (o.room - o.used)
        let s := setCounts h r c.1 ((c.2.1 + n) % 2 ^ 32) c.2.2 (takeInto h r c.2.1 n o s)
        let full := match (s.nfsSt h).filling with
          | some o => decide (o.room ≤ o.used) || decide (125 ≤ o.extents.length)
          | none => false
        nfsFill h fuel (if full then nfsSeal h s else s)

/-- Enough rounds for everything that is staged. -/
def nfsRounds (s : State) (h : Nat) : Nat :=
  2 * ((s.nfsSt h).cat.map fun r => let c := recCounts s h r; dist32 c.1 c.2.1).sum + 2

/-- The store acts on what is staged. -/
def nfsRun (h : Nat) (s : State) : State := nfsShow h (nfsFill h (nfsRounds s h) s)

/-! Confirmation, failure and care (R464, R466, R468, R470, R471). -/

/-- SAFE after the confirmed runs that join it (R464). -/
def safeFrom (rows : List NandRow) (n : Nat) : (fuel : Nat) → Nat → Nat
  | 0, f => f
  | k + 1, f =>
    match rows.findSome? fun r => if !r.passed then none else
        r.extents.findSome? fun e => if e.num = n && e.offset % 2 ^ 32 ≤ f && f < e.offset % 2 ^ 32 + e.count then
          some (e.offset % 2 ^ 32 + e.count) else none with
    | some g => if g ≤ f then f else safeFrom rows n k (g % 2 ^ 32)
    | none => f

/-- SAFE of every open and CLOSING recording advances; a CLOSING one whose SAFE reaches WPTR is CLOSED (R461). -/
def nfsAdvance (h : Nat) (s : State) : State :=
  (s.nfsSt h).cat.foldl (fun s r =>
    if r.state = 1 ∨ r.state = 2 then
      let c := recCounts s h r
      let rows := (s.nfsSt h).rows
      let f := if c.2.2 = c.2.1 then c.2.2 else safeFrom rows r.num (rows.length * 125 + 1) c.2.2
      let s := if f = c.2.2 then s else setCounts h r c.1 c.2.1 f s
      if r.state = 2 && f = c.1 then
        let b := nfsSrcB h r.source
        let s := if (s.nfsSt h).isShown r then s.wr b R.NFS_SRC_s_REC_REC 0 else s
        modRecording h r.num (fun r => { r with state := 3, wptr := c.1, rptr := c.2.1, safe := f, closeSts := s.sts }) s
      else s
    else s) s

/-- A retired block of die `d` in superblock (`g`, `sb`): a spare of the die replaces it, or the superblock goes out of
service and its other blocks become spares (R470). -/
def retireBlock (h g sb d : Nat) (s : State) : State :=
  let q := s.nfsSt h
  let s := (s.inc (nfsB h) R.NFS_BAD_COUNT_COUNT).raise (129 + 16 * h) (d * 2 ^ 32 + sb)
  if 0 < tget noNat q.spares d then
    s.modNfs h fun q => { q with spares := tset noNat q.spares d (tget noNat q.spares d - 1) }
  else
    let others := (((q.groups[g]?).map (·.dies)).getD []).filter (· != d)
    s.modNfs h fun q => { q.modSuper g sb fun x => { x with retired := true } with
      spares := others.foldl (fun t o => tset noNat t o (tget noNat t o + 1)) q.spares }

/-- Rows without live data are dropped; a superblock without rows returns to the free pool, and is retired once its
count has reached PE_LIMIT (R469, R471). -/
def nfsReclaim (h : Nat) (s : State) : State :=
  let q := s.nfsSt h
  let nums := q.cat.map (·.num)
  let rows := q.rows.filter fun r => r.extents.any fun e => nums.contains e.num
  let busy := fun (g sb : Nat) => rows.any (fun r => r.group == g && r.sb == sb)
    || (match q.filling with | some o => o.group == g && o.sb == sb | none => false)
    || ((q.groups[g]?).bind (·.filling)).any fun f => f.1 == sb && decide (f.2 < q.rowsPer)
  let idle := q.supers.filter fun e => e.2.inUse && !busy (e.1 / 0x100000) (e.1 % 0x100000)
  let s := s.modNfs h fun q => idle.foldl (fun (q : NfsSt) e =>
    q.modSuper (e.1 / 0x100000) (e.1 % 0x100000) fun x => { x with inUse := false }) { q with rows := rows }
  idle.foldl (fun s e => if s.rd (nfsB h) R.NFS_MEDIA_PE_LIMIT ≤ e.2.pe then
      let g := e.1 / 0x100000
      let sb := e.1 % 0x100000
      let s := ((q.groups[g]?).map (·.dies)).getD [] |>.foldl (fun s d => retireBlock h g sb d s) s
      s.modNfs h fun q => q.modSuper g sb fun x => { x with pe := 0 }
    else s) s

/-- Whether the free superblocks have fallen to FREE_MIN in every group. -/
def nfsShort (s : State) (h : Nat) : Bool :=
  let q := s.nfsSt h
  (List.range q.groups.length).all fun g => decide ((q.free g).length ≤ freeMin s h)

/-- A recording is deleted: its entry, its sectors, and rows that held only its data (R469). A store that has room again
is no longer FULL (R468). -/
def nfsDelete (h n : Nat) (s : State) : State :=
  let s := nfsShow h (nfsReclaim h (s.modNfs h fun q => { q with
    cat := q.cat.filter (·.num != n), sectors := tclear q.sectors (n * 2 ^ 32) ((n + 1) * 2 ^ 32) }))
  if nfsShort s h then s else s.wr (nfsB h) R.NFS_STATUS_FULL 0

/-- The oldest closed recording without PROTECT. -/
def NfsSt.oldest (q : NfsSt) : Option Nat := (q.cat.find? fun r => r.state == 3 && !r.protect).map (·.num)

/-- A store with no room deletes the oldest recording it may, or stops with a NOTICE event (R468). -/
def storeFull (h : Nat) (s : State) : State :=
  if !nfsShort s h || (s.nfsSt h).groups.isEmpty then s.wr (nfsB h) R.NFS_STATUS_FULL 0
  else
    let del := if s.on (nfsB h) R.NFS_CTRL_FULL then (s.nfsSt h).oldest else none
    match del with
    | some n => nfsDelete h n s
    | none => if s.on (nfsB h) R.NFS_STATUS_FULL then s
        else (s.wr (nfsB h) R.NFS_STATUS_FULL 1).raise (130 + 16 * h) 0

/-- Live extents packed into rows of `room` sectors and at most 125 extents. -/
def packRows (room : Nat) : (fuel : Nat) → (used : Nat) → (cur : List Extent) → List Extent → List (List Extent)
  | 0, _, cur, _ => if cur.isEmpty then [] else [cur]
  | _ + 1, _, cur, [] => if cur.isEmpty then [] else [cur]
  | f + 1, used, cur, e :: l =>
    if room ≤ used ∨ 125 ≤ cur.length then cur :: packRows room f 0 [] (e :: l)
    else
      let n := min e.count (room - used)
      let cur := cur ++ [⟨e.num, e.offset, n, used⟩]
      if n < e.count then packRows room f (used + n) cur (⟨e.num, e.offset + n, e.count - n, 0⟩ :: l)
      else packRows room f (used + n) cur l

/-- New rows with the live data of row `r`, which stays the live one until they are confirmed; `passed` where the copy
has already been confirmed (R471). -/
def relocateRow (h : Nat) (passed : Bool) (r : NandRow) (s : State) : State :=
  let q := s.nfsSt h
  let nums := q.cat.map (·.num)
  let d := q.live r.group
  let room := rowRoom q.unit d.length
  let ext := r.extents.filter fun e => nums.contains e.num
  (packRows room (2 * (room + 2) + 2 * ext.length + 2 * (ext.map (·.count)).sum) 0 [] ext).foldl (fun s ex =>
    match (s.nfsSt h).placeIn 0 r.group with
    | none => s
    | some (sb, row, q) =>
      let flags := 4 + b2n (decide ((ex.map (·.count)).sum < room))
      s.modNfs h fun _ => { q with
        rowSeq := q.rowSeq + 1
        rows := q.rows ++ [{ seq := q.rowSeq, group := r.group, sb := sb, row := row, dies := d, extents := ex
                             flags := flags, sealedAt := s.time.frc, patrolled := s.time.frc, passed := passed
                             old := some r.seq, header := rowHeader q.rowSeq s.sts d.length flags ex }] }) s

/-- Live rows of superblock (`g`, `sb`) that are not already being copied. -/
def NfsSt.rowsOf (q : NfsSt) (g sb : Nat) : List NandRow :=
  q.rows.filter fun r => r.group == g && r.sb == sb && r.passed && !q.rows.any (·.old == some r.seq)

/-- The live data of a superblock is relocated (R471, R472). A superblock being filled is filled no further. -/
def relocateSuper (h g sb : Nat) (s : State) : State :=
  let rows := (s.nfsSt h).rowsOf g sb
  let close := fun (x : NandGroup) => if x.filling.any (·.1 == sb) then { x with filling := none } else x
  let s := s.modNfs h fun q => { q with groups := q.groups.modify g close }
  rows.foldl (fun s r => relocateRow h false r s) s

/-- Live data leaves the superblock with the lowest count when the spread exceeds WEAR_SPREAD (R471). -/
def wearRelocate (h : Nat) (s : State) : State :=
  let q := s.nfsSt h
  let pe := fun g sb => (q.super g sb).pe
  let all := (List.range q.groups.length).flatMap fun g => (List.range (q.supersOf g)).map fun sb => (g, sb)
  let top := (q.supers.map fun e => e.2.pe).foldl max 0
  match all.foldl (fun (b : Option (Nat × Nat)) x => match b with
    | none => some x
    | some y => if pe x.1 x.2 < pe y.1 y.2 then some x else b) none with
  | none => s
  | some (g, sb) =>
    if s.rd (nfsB h) R.NFS_MEDIA_WEAR_SPREAD < top - pe g sb then relocateSuper h g sb s else s

/-- The data unit of a row's payload sector lies on this die (R457): the header fills the first sector of the first
unit, and the parity die is skipped. -/
def NandRow.dieOf (r : NandRow) (unit sector : Nat) : Nat :=
  let k := (sector + 1) / (unit * 4)
  let p := r.row % max 1 r.dies.length
  r.dies.getD (if k < p then k else k + 1) 0

/-- The dies of a row that have failed. -/
def NfsSt.bad (q : NfsSt) (r : NandRow) : List Nat := r.dies.filter fun d => q.failed.contains d

/-- Where sector `n` of recording `num` lies: the row that is the live copy, and its die. -/
def NfsSt.whereIs (q : NfsSt) (num n : Nat) : Option (NandRow × Nat) :=
  q.rows.findSome? fun r => if !r.passed then none else
    (r.extents.find? fun e => e.num == num && decide (e.offset ≤ n) && decide (n < e.offset + e.count)).map fun e =>
      (r, r.dieOf q.unit (e.start + (n - e.offset)))

/-- Sectors of row `r` on failed dies that parity can no longer rebuild, by recording (R475). -/
def NfsSt.lostIn (q : NfsSt) (r : NandRow) : List Nat :=
  if (q.bad r).length < 2 then []
  else r.extents.flatMap fun e => (List.range e.count).filterMap fun k =>
    if q.failed.contains (r.dieOf q.unit (e.start + k)) then some e.num else none

/-- Die `d` fails (R474, R475): its group is degraded and is rebuilt; a second one before the rebuild ends loses the
units of rows on both. -/
def dieFail (h d : Nat) (s : State) : State :=
  let q := s.nfsSt h
  if q.failed.contains d || !(q.luns.any (·.i.val == d)) then s
  else
    let g := (List.range q.groups.length).find? fun g => ((q.groups[g]?).map (·.dies)).getD [] |>.contains d
    let before := q.rows.flatMap q.lostIn
    let s := s.modNfs h fun q => { q with failed := q.failed ++ [d]
                                          rebuilding := match g with
                                            | some g => q.rebuilding.filter (· != g) ++ [g]
                                            | none => q.rebuilding }
    let s := (s.wr (nfsB h) R.NFS_STATUS_DIE_FAIL 1).raise (128 + 16 * h) d
    let q := s.nfsSt h
    let after := q.rows.flatMap q.lostIn
    let s := s.inc (nfsB h) R.NFS_LOST_COUNT_COUNT (after.length - before.length)
    let s := s.modNfs h fun q => { q with cat := q.cat.map fun r => if after.contains r.num then { r with loss := true } else r }
    let s := if g.isSome then s.wrs (nfsB h) [(R.NFS_STATUS_DEGRADED, 1), (R.NFS_STATUS_REBUILD, 1), (R.NFS_REBUILD_PCT, 0)]
      else s
    nfsShow h (nfsShowDies h s)

/-- An operation on die `d` ends; three in a row that fail make it a failed die (R474). -/
def dieOp (h d : Nat) (ok : Bool) (s : State) : State :=
  let n := if ok then 0 else tget noNat (s.nfsSt h).fails d + 1
  let s := s.modNfs h fun q => { q with fails := tset noNat q.fails d n }
  if 3 ≤ n then dieFail h d s else s

/-- Row `r` and its parity have passed (R464, R471). -/
def rowPass (h : Nat) (r : NandRow) (s : State) : State :=
  let s := s.modNfs h fun q =>
    let rows := q.rows.map fun x => if x.seq = r.seq then { x with passed := true } else x
    let whole := !rows.any fun x => x.old == r.old && !x.passed
    { q with rows := match r.old with
        | some o => if whole then (rows.filter (·.seq != o)).map fun x => if x.old == some o then { x with old := none } else x
          else rows
        | none => rows }
  let s := r.dies.foldl (fun s d => dieOp h d true s) s
  let s := if r.flags / 4 % 2 = 1 then s else nfsAdvance h s
  nfsShowWear h (nfsRun h (storeFull h (wearRelocate h (nfsReclaim h s))))

/-- A program of row `r` on die `d` fails: the block is retired and the row is programmed again further on (R466). -/
def rowFail (h : Nat) (r : NandRow) (d : Nat) (s : State) : State :=
  let s := retireBlock h r.group r.sb d (s.inc (nfsB h) R.NFS_PROG_FAIL_COUNT)
  let s := dieOp h d false s
  let s := match (s.nfsSt h).placeIn 0 r.group with
    | none => s
    | some (sb, row, q) => s.modNfs h fun _ => { q with
        rows := q.rows.map fun x => if x.seq = r.seq then { x with sb := sb, row := row, dies := q.live r.group } else x }
  nfsShow h s

/-- ROW_CONFIRM: the programs of row `seq` and its parity end: passing, or failed on die `fail`. `waits` is the cycles
the row waited for tags (R464, R466 to R468, R471). -/
def execRowConfirm (h : Hub) (seq : Nat) (fail : Option (Fin 256)) (waits : Nat) (s : State) :
    Host.Outcome State Fault Refusal :=
  match (s.nfsSt h).rows.find? fun r => r.seq == seq && !r.passed with
  | none => .next s
  | some r =>
    let s := s.inc (nfsB h) R.NFS_TAG_WAITS_COUNT waits
    .next (match fail with
      | none => rowPass h r s
      | some d => if r.dies.contains d.val then rowFail h r d s else s)

/-- SOURCE_OPEN (R461, R462). -/
def sourceOpen (h k : Nat) (s : State) : State :=
  let b := nfsSrcB h k
  if s.on b R.NFS_SRC_s_CTRL_EN then s
  else
    let full := fun (s : State) => decide (65536 ≤ (s.nfsSt h).cat.length)
    let s := if full s && s.on (nfsB h) R.NFS_CTRL_FULL then
        (match (s.nfsSt h).oldest with | some n => nfsDelete h n s | none => s)
      else s
    if full s then s.wr (nfsB h) R.NFS_STATUS_CAT_FULL 1
    else
      let nums := (s.nfsSt h).cat.map (·.num)
      let start := s.rd (nfsB h) R.NFS_NEXT_REC_REC
      let num := ((List.range 65537).map fun i => (start - 1 + i) % (2 ^ 24 - 1) + 1).find? (fun n => !nums.contains n) |>.getD 1
      let old := tget noNat (s.nfsSt h).shown k
      let s := match (s.nfsSt h).find old with
        | some r => (let c := recCounts s h r
            modRecording h old (fun r => { r with wptr := c.1, rptr := c.2.1, safe := c.2.2 }) s)
        | none => s
      let s := s.modNfs h fun q => { q with
        clean := false, shown := tset noNat q.shown k num
        cat := q.cat ++ [{ num := num, source := k, protect := s.on b R.NFS_SRC_s_CTRL_PROTECT, openSts := s.sts }] }
      let s := s.wr (nfsB h) R.NFS_NEXT_REC_REC (num % (2 ^ 24 - 1) + 1)
      s.wrs b [(R.NFS_SRC_s_CTRL_EN, 1), (R.NFS_SRC_s_WPTR_WPTR, 0), (R.NFS_SRC_s_RPTR_RPTR, 0), (R.NFS_SRC_s_SAFE_SAFE, 0),
        (R.NFS_SRC_s_REC_REC, num)]

/-- SOURCE_CLOSE: the recording is CLOSING until SAFE reaches its WPTR (R461). -/
def sourceClose (h k : Nat) (s : State) : State :=
  let b := nfsSrcB h k
  if !s.on b R.NFS_SRC_s_CTRL_EN then s
  else
    let n := s.rd b R.NFS_SRC_s_REC_REC
    nfsRun h (nfsAdvance h (modRecording h n (fun r => { r with state := 2 }) (s.wr b R.NFS_SRC_s_CTRL_EN 0)))

def execSourceOpen (h : Hub) (k : Fin 64) (s : State) : Host.Outcome State Fault Refusal :=
  .next (if s.hasHub h then sourceOpen h k s else s)
def execSourceClose (h : Hub) (k : Fin 64) (s : State) : Host.Outcome State Fault Refusal :=
  .next (if s.hasHub h then sourceClose h k s else s)

/-- SOURCE_WAIT_EXPIRE: a source with sectors staged has waited 10 ms (R463). -/
def execSourceWaitExpire (h : Hub) (k : Fin 64) (s : State) : Host.Outcome State Fault Refusal :=
  .next (if s.hasHub h then nfsRun h (s.modNfs h fun q => { q with waited := tset noNat q.waited k 1 }) else s)

/-- ROW_SEAL: a row that has been open SEAL_MS is sealed; 0 seals only full rows (R463). -/
def execRowSeal (h : Hub) (s : State) : Host.Outcome State Fault Refusal :=
  let ms := s.rd (nfsB h) R.NFS_CTRL_SEAL_MS
  .next (match (s.nfsSt h).filling with
    | some o => if ms ≠ 0 ∧ o.opened + ms * 1280000 ≤ s.time.frc ∧ o.used ≠ 0 then nfsRun h (nfsSeal h s) else s
    | none => s)

/-! Staging by a hardware producer (R187, R367, R460, R520). -/

/-- The source that stages the ring at `base` MiB: enabled, with PRODUCER = 1. -/
def stageSource (s : State) (h base : Nat) : Option Nat :=
  firstBelow 64 fun k => s.on (nfsSrcB h k) R.NFS_SRC_s_CTRL_EN && s.on (nfsSrcB h k) R.NFS_SRC_s_CTRL_PRODUCER
    && s.rd (nfsSrcB h k) R.NFS_SRC_s_BASE_BASE == base

/-- Sectors staged in the ring of source `k` and not safe. -/
def stageUsed (s : State) (h k : Nat) : Nat :=
  dist32 (s.rd (nfsSrcB h k) R.NFS_SRC_s_WPTR_WPTR) (s.rd (nfsSrcB h k) R.NFS_SRC_s_SAFE_SAFE)

/-- Whether PENDING would exceed PWR_LIMIT_MIB with `n` sectors more (R367); without a hold-up bank nothing is counted
(R369). -/
def overLimit (s : State) (n : Nat) : Bool :=
  s.on (pwrB 0) R.PWR_CTRL_HOLDUP_EN && decide (s.rd (pwrB 0) R.PWR_LIMIT_MIB_LIMIT * 256 < pendingAll s + n)

/-- A writer into staging waits for the throttle, or no longer does (R367). -/
def throttle (h : Nat) (on : Bool) (s : State) : State :=
  let was := (s.nfsSt h).throttled.isSome
  let s := if on && !was then s.modNfs h fun q => { q with throttled := some s.time.frc }
    else if on then s else s.modNfs h fun q => { q with throttled := none }
  let any := (s.nfsSt 0).throttled.isSome || (s.nfsSt 1).throttled.isSome
  let s := if any && !s.on (pwrB 0) R.PWR_STATE_THROTTLE then s.inc (pwrB 0) R.PWR_THROTTLE_COUNT_THROTTLES else s
  s.wr (pwrB 0) R.PWR_STATE_THROTTLE (b2n any)

/-- WPTR of source `k` advances by `n` sectors, and the store acts on them. -/
def stageAdvance (h k n : Nat) (s : State) : State :=
  let b := nfsSrcB h k
  nfsRun h (s.wr b R.NFS_SRC_s_WPTR_WPTR (s.rd b R.NFS_SRC_s_WPTR_WPTR + n))

/-! Failed dies, patrol (R472 to R475). -/

/-- NAND_DIE_FAIL: a die is not ready 10 ms after a command (R474). -/
def execNandDieFail (h : Hub) (d : Fin 256) (s : State) : Host.Outcome State Fault Refusal :=
  .next (if s.hasHub h then dieFail h d s else s)

/-- REBUILD_COMPLETE: every live row of group `g` with units on a failed die has been relocated (R475). -/
def execRebuildComplete (h : Hub) (g : Nat) (s : State) : Host.Outcome State Fault Refusal :=
  let q := s.nfsSt h
  if !q.rebuilding.contains g then .next s
  else
    let old := q.rows.filter fun r => r.group == g && r.passed && !(q.bad r).isEmpty
    let s := old.foldl (fun s r => relocateRow h true r s) s
    let moved := fun (q : NfsSt) (r : NandRow) => old.any (·.seq == r.seq) && q.rows.any (·.old == some r.seq)
    let s := s.modNfs h fun q => { q with
      rebuilding := q.rebuilding.filter (· != g)
      rows := (q.rows.filter fun r => !moved q r).map fun r => if r.passed then { r with old := none } else r }
    let s := s.wrs (nfsB h) [(R.NFS_STATUS_REBUILD, b2n !(s.nfsSt h).rebuilding.isEmpty), (R.NFS_REBUILD_PCT, 100)]
    .next (nfsShow h (nfsReclaim h s))

/-- What reads needed is counted (R470). -/
def countReads (h : Nat) (x : NandRead) (s : State) : State :=
  ((s.inc (nfsB h) R.NFS_CORR_COUNT_COUNT x.corrected).inc (nfsB h) R.NFS_RETRY_COUNT_COUNT x.retries).inc
    (nfsB h) R.NFS_REBUILT_COUNT_COUNT x.rebuilt

/-- A superblock that a patrol has read is relocated if it needs refresh (R472). -/
def patrolSuper (h g sb : Nat) (x : NandRead) (s : State) : State :=
  let q := s.nfsSt h
  let day := 86400 * 1000000 * 1280
  let s := countReads h x s
  let old := (q.rowsOf g sb).any fun r =>
    decide (r.sealedAt + max 1 (s.rd (nfsB h) R.NFS_PATROL_RETAIN_D) * day < s.time.frc)
  let s := s.modNfs h fun q => { q.modSuper g sb fun x => { x with reads := 0 } with
    rows := q.rows.map fun r => if r.group = g ∧ r.sb = sb then { r with patrolled := s.time.frc } else r }
  if (s.rd (nfsB h) R.NFS_PATROL_REFRESH_BITS < x.bits || x.retries != 0 || old) && !(q.rowsOf g sb).isEmpty then
    nfsShow h ((relocateSuper h g sb s).inc (nfsB h) R.NFS_REFRESH_COUNT_COUNT)
  else s

/-- PATROL: the patrol reads superblock (`g`, `sb`), if one of its rows is due, in SENTINEL or ACTIVE (R472). -/
def execPatrol (h : Hub) (g sb : Nat) (x : NandRead) (s : State) : Host.Outcome State Fault Refusal :=
  let p := s.rd (pwrB 0) R.PWR_STATE_STATE
  let age := max 1 (s.rd (nfsB h) R.NFS_PATROL_DAYS) * 86400 * 1000000 * 1280
  let due := ((s.nfsSt h).rowsOf g sb).any fun r => decide (r.patrolled + age ≤ s.time.frc)
  .next (if nfsReady s h && s.on (nfsB h) R.NFS_CTRL_PATROL_EN && (p == 1 || p == 2) && due then patrolSuper h g sb x s
    else s)

/-- READ_DISTURB_PATROL: a block that has reached NFS_READ_LIMIT reads is patrolled at once (R473). -/
def execReadDisturbPatrol (h : Hub) (g sb : Nat) (x : NandRead) (s : State) : Host.Outcome State Fault Refusal :=
  let lim := s.rd (nfsB h) R.NFS_READ_LIMIT_LIMIT
  .next (if nfsReady s h && decide (lim ≤ ((s.nfsSt h).super g sb).reads) then patrolSuper h g sb x s else s)

/-! Commands (R469, R477, R478, R481, R483, R485). -/

/-- Whether every source is disabled. -/
def noSources (s : State) (h : Nat) : Bool :=
  (List.range 64).all fun k => !s.on (nfsSrcB h k) R.NFS_SRC_s_CTRL_EN

/-- NFS_CMD.FORMAT acts only while every source is disabled (R481). -/
def nfsFormat (h : Nat) (s : State) : State :=
  if noSources s h && !s.on (nfsB h) R.NFS_STATUS_FORMATTING then
    (s.wrs (nfsB h) [(R.NFS_STATUS_FORMATTING, 1), (R.NFS_STATUS_MOUNTED, 0), (R.NFS_STATUS_BLANK, 1)]).modNfs h fun q =>
      { q with formatted := false }
  else s

def execNfsFormat (h : Hub) (s : State) : Host.Outcome State Fault Refusal :=
  .next (if s.hasHub h then nfsFormat h s else s)

/-- A new media key (R477, R478). -/
def newKey (h : Nat) (s : State) : State :=
  let (k, s) := s.draw 40 512
  s.modNfs h fun q => { q with key := k }

/-- NFS_FORMAT_COMPLETE: the layout of R456 to R458, an empty catalogue and a new media key; `bad` are the factory-marked
bad blocks of each die, in the order of the usable LUNs (R470, R481). -/
def execNfsFormatComplete (h : Hub) (bad : List Nat) (s : State) : Host.Outcome State Fault Refusal :=
  if !s.hasHub h || !s.on (nfsB h) R.NFS_STATUS_FORMATTING then .next s
  else
    let b := nfsB h
    let q := s.nfsSt h
    let dies := (q.luns.map (·.i.val)).filter fun d => !q.failed.contains d
    let w := min 32 (max 4 (s.rd b R.NFS_CTRL_WIDTH))
    let gs := pieces w 64 dies
    let first := q.luns.head?
    let planes := match first with | some l => if l.planes4 then 4 else 2 | none => 4
    let bpc := match first with | some l => if l.bpc4 then 4 else 3 | none => 3
    let pages := match first with | some l => l.pages | none => 0
    let blockBytes := max 1 (pages * planes * 16384)
    let blocks := match first with | some l => min (l.blocks / planes) (125 * 10 ^ 9 / blockBytes) | none => 0
    let pct := max 1 (s.rd b R.NFS_MEDIA_SPARE_PCT)
    let spare := (blocks * pct + 99) / 100
    let crypto := match s.rd b R.NFS_CTRL_CRYPTO with | 0 => 0 | 2 => 2 | _ => 1
    let badOf := fun (d : Nat) => bad.getD ((q.luns.map (·.i.val)).idxOf d) 0
    let s := newKey h (s.modNfs h fun q => { q with
      formatted := true, clean := true, unit := planes * bpc, rowsPer := pages / bpc, supersPer := blocks - spare
      groups := gs.map fun d => { dies := d }
      spares := dies.foldl (fun t d => tset noNat t d (spare - badOf d)) []
      supers := [], rows := [], filling := none, turn := 0, rowSeq := 0, cat := [], sectors := [], shown := [], waited := []
      rebuilding := [], crypto := crypto, wrapped := q.secret })
    let s := s.wrs b [(R.NFS_STATUS_FORMATTING, 0), (R.NFS_STATUS_BLANK, 0), (R.NFS_STATUS_MOUNTED, 1),
      (R.NFS_STATUS_LOCKED, 0), (R.NFS_STATUS_FULL, 0), (R.NFS_STATUS_DEGRADED, 0), (R.NFS_STATUS_REBUILD, 0),
      (R.NFS_GEOM_GROUPS, gs.length), (R.NFS_GEOM_WIDTH, w), (R.NFS_GEOM_BPC, b2n (bpc == 4)),
      (R.NFS_GEOM_PLANES, b2n (planes == 4)), (R.NFS_GEOM_IDLE, dies.length - (gs.map List.length).sum),
      (R.NFS_NEXT_REC_REC, 1), (R.NFS_CTRL_EN, 1)]
    .next (nfsShowWear h (nfsShow h (s.inc b R.NFS_BAD_COUNT_COUNT (dies.map badOf).sum)))

/-- NFS_CMD.READ: ignored with REFUSED while BUSY; a length of 0 completes at once (R483). -/
def nfsRead (h : Nat) (s : State) : State :=
  let b := nfsB h
  if s.on b R.NFS_RD_STATUS_BUSY then s.wr b R.NFS_RD_STATUS_REFUSED 1
  else if s.rd b R.NFS_RD_LEN_SECTORS = 0 then
    (s.wrs b [(R.NFS_RD_STATUS_MOVED, 0), (R.NFS_RD_STATUS_DONE, 1)]).pulse h 0x8000
  else s.wrs b [(R.NFS_RD_STATUS_BUSY, 1), (R.NFS_RD_STATUS_MOVED, 0)]

def execNfsRead (h : Hub) (s : State) : Host.Outcome State Fault Refusal :=
  .next (if s.hasHub h then nfsRead h s else s)

/-- NFS_READ_DONE: the read-back completes (R470, R474, R475, R483). -/
def execNfsReadDone (h : Hub) (x : NandRead) (s : State) : Host.Outcome State Fault Refusal :=
  let b := nfsB h
  if !s.hasHub h || !s.on b R.NFS_RD_STATUS_BUSY then .next s
  else
    let q := s.nfsSt h
    let num := s.rd b R.NFS_RD_REC_REC
    let ofs := s.rd b R.NFS_RD_OFS_SECTOR
    let len := s.rd b R.NFS_RD_LEN_SECTORS
    let safe := match q.find num with | some r => (recCounts s h r).2.2 | none => 0
    let n := if nfsReady s h then min len (safe - ofs) else 0
    let info := (List.range n).map fun k => (ofs + k, q.whereIs num (ofs + k))
    let dead := fun (w : Option (NandRow × Nat)) => match w with
      | some (r, d) => q.failed.contains d && decide (2 ≤ (q.bad r).length)
      | none => false
    let weak := info.any fun i => match i.2 with | some (r, d) => q.failed.contains d && decide ((q.bad r).length = 1) | none => false
    let data := info.flatMap fun i =>
      if dead i.2 then List.replicate 4096 0 else tget (fun _ => List.replicate 4096 0) q.sectors (num * 2 ^ 32 + i.1)
    let s := countReads h x (s.setBytes h (s.rd b R.NFS_RD_DEST_BASE * 2 ^ 20) data)
    let s := s.modNfs h fun q => info.foldl (fun (q : NfsSt) i => match i.2 with
      | some (r, _) => if i.1 % 4 = 0 then q.modSuper r.group r.sb fun z => { z with reads := z.reads + 1 } else q
      | none => q) q
    let set := fun (c : Bool) f (s : State) => if c then s.wr b f 1 else s
    let s := set (x.retries != 0) R.NFS_RD_STATUS_CORRECTED s
    let s := set (weak || x.rebuilt != 0) R.NFS_RD_STATUS_REBUILT s
    let s := set (info.any fun i => dead i.2) R.NFS_RD_STATUS_LOST s
    let s := set (decide (n < len)) R.NFS_RD_STATUS_SHORT s
    let s := (s.wrs b [(R.NFS_RD_STATUS_BUSY, 0), (R.NFS_RD_STATUS_DONE, 1), (R.NFS_RD_STATUS_MOVED, n)]).pulse h 0x8000
    .next (match (s.nfsSt h).delAfter with
      | some d => nfsDelete h d (s.modNfs h fun q => { q with delAfter := none })
      | none => s)

/-- NFS_CMD.DELETE (R469). -/
def nfsCmdDelete (h : Nat) (s : State) : State :=
  let b := nfsB h
  let n := s.rd b R.NFS_CAT_SEL_REC
  match (s.nfsSt h).find n with
  | none => s
  | some r =>
    if r.state ≠ 3 ∨ r.protect then s.wr b R.NFS_STATUS_REFUSED 1
    else if s.on b R.NFS_RD_STATUS_BUSY && s.rd b R.NFS_RD_REC_REC == n then s.modNfs h fun q => { q with delAfter := some n }
    else nfsDelete h n s

def execNfsDelete (h : Hub) (s : State) : Host.Outcome State Fault Refusal :=
  .next (if s.hasHub h then nfsCmdDelete h s else s)

/-- NFS_CMD.UNLOCK: the media key is unwrapped with the host secret, or a failure is counted; after 8 failures the
command is an access violation (R477). -/
def nfsUnlock (h : Nat) (s : State) : State :=
  let b := nfsB h
  if 8 ≤ (s.nfsSt h).unlockFails then s.violation h (b + R.NFS_CMD)
  else if !s.on b R.NFS_STATUS_LOCKED then s
  else if (s.nfsSt h).secret = (s.nfsSt h).wrapped then nfsRun h (s.wr b R.NFS_STATUS_LOCKED 0)
  else (s.inc b R.NFS_UNLOCK_FAIL_COUNT).modNfs h fun q => { q with unlockFails := q.unlockFails + 1 }

def execNfsUnlockCmd (h : Hub) (s : State) : Host.Outcome State Fault Refusal :=
  .next (if s.hasHub h then nfsUnlock h s else s)

/-- NFS_CMD.ERASE acts while every source is disabled and PENDING is zero, and not while PWR_FAIL_N is low; otherwise
it is ignored under R8 (R478). -/
def nfsErase (h : Nat) (s : State) : State :=
  if !s.powerGood then s
  else if noSources s h && pendingSectors s h == 0 then s.wr (nfsB h) R.NFS_STATUS_ERASING 1
  else s.violation h (nfsB h + R.NFS_CMD)

def execNfsErase (h : Hub) (s : State) : Host.Outcome State Fault Refusal :=
  .next (if s.hasHub h then nfsErase h s else s)

/-- A cryptographic erase: a new media key, an empty catalogue, and every data block free (R478). -/
def eraseStore (h : Nat) (s : State) : State :=
  newKey h (s.modNfs h fun q => { q with
    cat := [], rows := [], sectors := [], filling := none, shown := [], waited := [], eraseDue := false
    groups := q.groups.map fun g => { g with filling := none }
    supers := (q.supers.map fun e => (e.1, { e.2 with inUse := false, reads := 0 })).filter fun e => e.2 ≠ dSuper e.1 })

/-- NFS_ERASE_DONE (R478). -/
def execNfsEraseDone (h : Hub) (s : State) : Host.Outcome State Fault Refusal :=
  if !s.hasHub h || !s.on (nfsB h) R.NFS_STATUS_ERASING then .next s
  else .next (nfsShow h ((eraseStore h s).wrs (nfsB h) [(R.NFS_STATUS_ERASING, 0), (R.NFS_STATUS_FULL, 0)]))

/-- NFS_CAT_SEL_WRITE: a snapshot of a catalogue entry (R485). -/
def catSelect (h n : Nat) (s : State) : State :=
  let b := nfsB h
  let s := s.wr b R.NFS_CAT_SEL_REC n
  match (s.nfsSt h).find (n % 2 ^ 24) with
  | some r =>
    (s.wrs b [(R.NFS_CAT_STATE_STATE, r.state), (R.NFS_CAT_STATE_PROTECT, b2n r.protect),
      (R.NFS_CAT_STATE_UNCLEAN, b2n r.unclean), (R.NFS_CAT_STATE_LOSS, b2n r.loss), (R.NFS_CAT_STATE_SOURCE, r.source),
      (R.NFS_CAT_SAFE_SECTORS, (recCounts s h r).2.2)]).modNfs h fun q =>
        { q with catOpen := r.openSts, catClose := r.closeSts }
  | none =>
    ((s.setReg (b + R.NFS_CAT_STATE) 0).setReg (b + R.NFS_CAT_SAFE) 0).modNfs h fun q => { q with catOpen := 0, catClose := 0 }

def execNfsCatSelWrite (h : Hub) (n : BitVec 24) (s : State) : Host.Outcome State Fault Refusal :=
  .next (if s.hasHub h then catSelect h n.toNat s else s)

/-- A write of NFS_CAT_STATE.PROTECT sets or clears PROTECT of the selected recording. -/
def catProtect (h : Nat) (s : State) : State :=
  let p := s.on (nfsB h) R.NFS_CAT_STATE_PROTECT
  modRecording h (s.rd (nfsB h) R.NFS_CAT_SEL_REC) (fun r => { r with protect := p }) s

/-! Mount, flush and the end of power (R479 to R482). -/

/-- NFS_MOUNT: the targets are reset and the parameter pages read; channel c trains at `chans` c, as rate in MT/s and
interface code (R455, R481). -/
def execNfsMount (h : Hub) (luns : List NandLun) (chans : List (BitVec 12 × BitVec 2)) (s : State) :
    Host.Outcome State Fault Refusal :=
  if !s.hasHub h then .next s
  else
    let u := usableLuns luns
    let rates := ((chans.take 8).map fun c => c.1.toNat).sum
    let s := s.modNfs h fun q => { q with luns := u, rates := rates }
    let s := (List.range 8).foldl (fun s c => match chans[c]? with
      | some x => s.wrs (nfsB h + 0x10 * c) [(R.NFS_CHAN_c_MTS, x.1.toNat), (R.NFS_CHAN_c_IFACE, x.2.toNat)]
      | none => s) s
    let s := if u.length < luns.length then s.wr (nfsB h) R.NFS_STATUS_DIE_MISMATCH 1 else s
    .next (nfsShowDies h s)

/-- A recording that power cut short ends at its last confirmed sector, and the sectors cut are counted (R480). -/
def cutRecording (h : Nat) (r : NfsRec) (s : State) : State :=
  let rows := (s.nfsSt h).rows
  let f := safeFrom rows r.num (rows.length * 125 + 1) r.safe
  let cut := dist32 r.rptr f
  let s := (s.inc (nfsB h) R.NFS_LOST_COUNT_COUNT cut).modNfs h fun q =>
    { q with sectors := tclear q.sectors (r.num * 2 ^ 32 + f) ((r.num + 1) * 2 ^ 32) }
  modRecording h r.num (fun r => { r with state := 3, unclean := true, orphan := false, wptr := f, rptr := f, safe := f }) s

/-- The mount of store `h` ends. Without a valid metadata log the store is BLANK, and formats itself unless nfs.format is
NEVER. After an unclean end, `kept` are the rows not yet confirmed whose header CRC, data and parity check (R480, R481). An
erase that power cut has completed by then (R478). -/
def nfsMountEnd (h : Nat) (kept : List Nat) (s : State) : State :=
  if !s.hasHub h || s.on (nfsB h) R.NFS_STATUS_MOUNTED then s
  else
    let s := if (s.nfsSt h).eraseDue then eraseStore h s else s
    let b := nfsB h
    let q := s.nfsSt h
    if !q.formatted then s.wrs b [(R.NFS_STATUS_BLANK, 1), (R.NFS_STATUS_FORMATTING, b2n !q.neverFormat)]
    else
      let s := s.modNfs h fun q => { q with
        rows := (q.rows.filter fun r => r.passed || kept.contains r.seq).map fun r => { r with passed := true, old := none }
        filling := none, rebuilding := (List.range q.groups.length).filter fun g =>
          q.rows.any fun r => r.group == g && !(q.bad r).isEmpty }
      let orphans := (s.nfsSt h).cat.filter (·.orphan)
      let s := if q.clean then s.modNfs h fun q => { q with cat := q.cat.map fun r => if r.orphan then { r with state := 3, orphan := false } else r }
        else orphans.foldl (fun s r => cutRecording h r s) (s.wr b R.NFS_STATUS_UNCLEAN 1)
      let q := s.nfsSt h
      let bpc4 := q.luns.any (·.bpc4)
      let next := (q.cat.getLast?.map fun r => r.num % (2 ^ 24 - 1) + 1).getD 1
      let s := s.wrs b [(R.NFS_STATUS_MOUNTED, 1), (R.NFS_STATUS_LOCKED, b2n (q.crypto == 2)), (R.NFS_CTRL_EN, 1),
        (R.NFS_STATUS_DEGRADED, b2n (q.groups.any fun g => g.dies.any q.failed.contains)),
        (R.NFS_STATUS_REBUILD, b2n !q.rebuilding.isEmpty), (R.NFS_NEXT_REC_REC, next),
        (R.NFS_GEOM_GROUPS, q.groups.length), (R.NFS_GEOM_WIDTH, ((q.groups.head?).map (·.dies.length)).getD 0),
        (R.NFS_GEOM_BPC, b2n bpc4), (R.NFS_GEOM_PLANES, b2n (q.luns.any (·.planes4)))]
      nfsShowWear h (nfsShow h (nfsReclaim h s))

/-- In FLUSH a store stops patrol, relocation, read-back and a format, takes all that is staged, and seals its row (R479,
R481). -/
def nfsFlush (h : Nat) (s : State) : State :=
  let s := (s.wrs (nfsB h) [(R.NFS_STATUS_FLUSH, 1), (R.NFS_RD_STATUS_BUSY, 0), (R.NFS_STATUS_FORMATTING, 0)]).modNfs h fun q =>
    { q with rows := q.rows.filter fun r => r.passed || r.old.isNone, delAfter := none }
  nfsSeal h (nfsRun h s)

/-- Power ends at the store: recordings not closed are to be found again at the next mount (R480). -/
def nfsPowerOff (h : Nat) (s : State) : State :=
  s.modNfs h fun q => { q with
    cat := q.cat.map fun r =>
      if r.state = 1 ∨ r.state = 2 then
        (let c := recCounts s h r; { r with wptr := c.1, rptr := c.2.1, safe := c.2.2, orphan := true })
      else r
    formatted := q.formatted && !s.on (nfsB h) R.NFS_STATUS_FORMATTING
    eraseDue := q.eraseDue || s.on (nfsB h) R.NFS_STATUS_ERASING
    shown := [], waited := [], filling := none, delAfter := none, throttled := none, secret := [] }

end Sys2Proof.Machine
end

