-- ==== Sys2Proof/Machine/Rec.lean ====
section
/-! DEFINITION. The Tarn, segments, measurements, the mask test, and change-only records (chapter 5). -/

namespace Sys2Proof.Machine

def dRec : Nat → RecSt := fun _ => {}
def State.recSt (s : State) (l : Nat) : RecSt := tget dRec s.recs l
def State.modRec (s : State) (l : Nat) (f : RecSt → RecSt) : State :=
  { s with recs := tset dRec s.recs l (f (s.recSt l)) }

/-! The Tarn (R169 to R175). -/

def tarnBlock : Nat := 65536
def tarnSlot : Nat := 393216

/-- The oldest block that can be read: the writer has begun the slot after the newest (R171). -/
def TarnSt.oldestBlock (q : TarnSt) : Nat := max (q.first / tarnBlock) (q.next + 1 - q.depth)

/-- The oldest readable sample, and the sample after the newest readable one (TARN_OLDEST, TARN_HEAD). -/
def TarnSt.oldest (q : TarnSt) : Nat := max q.first (q.oldestBlock * tarnBlock)
def TarnSt.head (q : TarnSt) : Nat := max q.first (q.next * tarnBlock)

/-- Whether sample `j` can be read. -/
def TarnSt.holds (q : TarnSt) (j : Nat) : Bool := decide (q.oldest ≤ j) && decide (j < q.head)

/-- Where the slot and the descriptor of block `b` lie (R169, R170). -/
def TarnSt.slotAt (q : TarnSt) (b : Nat) : Nat := q.base + b % q.depth * tarnSlot
def TarnSt.descAt (q : TarnSt) (b : Nat) : Nat := q.base + q.depth * tarnSlot + b % q.depth * 16

/-- A C24 sample: 24-bit I, then Q, each little-endian (the byte order is the model's, assumption log). -/
def c24 (i q : Int) : List Byte := leBytes 3 (enc 24 i) ++ leBytes 3 (enc 24 q)

/-- Sample `j` as the Tarn holds it. -/
def tarnSample (s : State) (l j : Nat) : Int × Int :=
  let q := (s.recSt l).tarn
  let a := q.slotAt (j / tarnBlock) + j % tarnBlock * 6
  (sx 24 (s.leAt (hubOf s l) a 3), sx 24 (s.leAt (hubOf s l) (a + 3) 3))

/-- Sample `j` as a reader of the Tarn gets it: zero where the Tarn does not hold it (R174, R175). -/
def tarnRead (s : State) (l j : Nat) : Int × Int :=
  if (s.recSt l).tarn.holds j then tarnSample s l j else (0, 0)

/-- Whether the Tarn holds samples `first` to `last`. -/
def tarnHolds (s : State) (l first last : Nat) : Bool :=
  decide ((s.recSt l).tarn.oldest ≤ first) && decide (last < (s.recSt l).tarn.head)

/-- A replay reads from the Tarn: samples that have been overtaken count (R175). -/
def replayCount (l : Nat) (held : Bool) (s : State) : State :=
  if held then s else (s.inc (recB l) R.REC_OVERRUN_COUNT_OVERRUNS).wr (recB l) R.REC_STATUS_OVERRUN 1

/-- The status bits of samples `first` to `last` in the Tarn: those of the die that forwarded them (R24, R28). -/
def tarnBits (s : State) (l first last : Nat) : Nat := s.statusOf (s.recSt l).tarn.src first last

/-- The stream status of samples `first` to `last` in the order of R189's bits 0 to 4: OVR, SETTLE, UNCAL, RETUNE,
LOST. RETUNE covers S to S + 63 of a switch that changes TUNE (R97). -/
def tarnStatus (s : State) (l first last : Nat) : Nat :=
  let b := tarnBits s l first last
  let rt := (s.wbSt l).zones.any fun z => decide (z.bits = 8) && decide (z.first ≤ last) && decide (first ≤ z.last)
  (b &&& 7) + (if rt then 8 else 0) + (if bit b 7 then 16 else 0)

/-- The die of lead die `l`'s pair that forwards the stream to the hub: the lower-numbered usable one (R28). -/
def forwarder (s : State) (l : Nat) : Option Nat := [l, l + 1].find? s.usableT

/-- The Tarn starts empty, reading its base and depth (R172, R173); a frozen channel of the hub keeps it stopped (R174). -/
def tarnStart (l : Nat) (s : State) : State :=
  if s.on (recB l) R.REC_TARN_CTRL_EN && (s.wbSt l).running && !(s.recSt l).tarn.run && !s.anyFrozen (hubOf s l) then
    let j := max (s.recvSample (inputOf l)) (s.wbSt l).start
    (s.wrs (recB l) [(R.REC_TARN_STATUS_RUN, 1), (R.REC_TARN_STATUS_FULL, 0)]).modRec l fun r => { r with
      tarn := { run := true, base := s.rd (recB l) R.REC_TARN_BASE_BASE * 2 ^ 20
                depth := max 16 (s.rd (recB l) R.REC_TARN_DEPTH_DEPTH), first := j, next := j / tarnBlock
                src := (forwarder s l).getD l } }
  else s

/-- The Tarn stops: EN = 0, the stream stops, or a DDR channel of the hub is frozen (R173, R174). -/
def tarnStop (l : Nat) (s : State) : State :=
  (s.wr (recB l) R.REC_TARN_STATUS_RUN 0).modRec l fun r => { r with tarn := { r.tarn with run := false } }

/-- TARN_START (R173). -/
def execTarnStart (t : TDie) (s : State) : Host.Outcome State Fault Refusal :=
  .next (if isLead t && (forwarder s t).isSome then tarnStart t s else s)

/-- The other die of the pair takes over forwarding: the samples of the block in progress count as lost to it (R28; that
they are this block's is DESIGN CHOICE, assumption log). -/
def takeOver (l d : Nat) (s : State) : State :=
  let q := (s.recSt l).tarn
  if q.src = d then s
  else (s.mark d (q.next * tarnBlock) (q.next * tarnBlock + tarnBlock - 1) markLost).modRec l fun r => { r with
    tarn := { r.tarn with src := d } }

/-- The next block is written with its descriptor and generation; samples the Tarn does not receive, those before its first
and those marked LOST, are stored as zero (R169, R170, R174). -/
def blockWrite (l : Nat) (s : State) : State :=
  let q := (s.recSt l).tarn
  let h := hubOf s l
  let j0 := q.next * tarnBlock
  let bytes := (List.range tarnBlock).flatMap fun i =>
    if q.first ≤ j0 + i ∧ bit (s.statusOf q.src (j0 + i) (j0 + i)) 7 = false then
      c24 (s.streamSample (inputOf l) (j0 + i)).1 (s.streamSample (inputOf l) (j0 + i)).2
    else List.replicate 6 0
  let st := tarnStatus s l j0 (j0 + tarnBlock - 1)
  let d := q.descAt q.next
  let gen := (s.leAt h (d + 10) 4 + 1) % 2 ^ 32
  let s := (s.setBytes h (q.slotAt q.next) bytes).setBytes h d (leBytes 8 j0 ++ leBytes 2 st ++ leBytes 4 gen ++ [0, 0])
  let s := if bit st 4 then s.wr (recB l) R.REC_TARN_STATUS_LOST 1 else s
  let s := if q.depth ≤ q.next + 1 - q.first / tarnBlock then s.wr (recB l) R.REC_TARN_STATUS_FULL 1 else s
  s.modRec l fun r => { r with tarn := { q with next := q.next + 1 } }

/-- INPUT_BUFFER_OVERFLOW: samples `first` to `last` overflow the input buffer of die `t`: lost there, flagged, and a
FAULT event (R24). -/
def execInputBufferOverflow (t : TDie) (first last : Nat) (s : State) : Host.Outcome State Fault Refusal :=
  .next (if s.usableT t && decide (first ≤ last) then (s.mark t first last markLost).raise (57 + t) first
    else s)

/-! Acquisitions (R176 to R187). -/

/-- The latched settings of an acquisition. -/
def recMode (s : State) (l : Nat) : Nat := s.rdL (recB l) R.REC_CTRL_MODE % 3
def recPre (s : State) (l : Nat) : Nat := 64 * s.rdL (recB l) R.REC_PRE_PRE
def recPost (s : State) (l : Nat) : Nat := 64 * s.rdL (recB l) R.REC_POST_POST
def recC16 (s : State) (l : Nat) : Bool := s.onL (recB l) R.REC_CTRL_FORMAT
def recShift (s : State) (l : Nat) : Nat := min 8 (s.rdL (recB l) R.REC_CTRL_SHIFT)
def recMeas (s : State) (l : Nat) : Bool := s.onL (recB l) R.REC_CTRL_MEAS
def recRegion (s : State) (l : Nat) : Nat := s.rdL (recB l) R.REC_REGION_BASE_BASE * 2 ^ 20
def recSize (s : State) (l : Nat) : Nat := s.rdL (recB l) R.REC_REGION_SIZE_SIZE * 2 ^ 20
def sampleBytes (s : State) (l : Nat) : Nat := if recC16 s l then 4 else 6

/-- Show which units the record engine holds armed (R148, R177, R179, R182). -/
def showArmed (l : Nat) (s : State) : State :=
  let r := s.recSt l
  let armed := s.on (recB l) R.REC_STATUS_RUN && !r.stopping && r.rearm.isNone
  let units := s.rdL (recB l) R.REC_CTRL_UNITS
  let s := (List.range 8).foldl (fun s u => s.wr (unitB l u) R.TRGU_u_STATUS_ARMED
    (b2n (if bit units u then armed else s.on (recB l) R.REC_CTRL_EN))) s
  s.wr (recB l) R.REC_STATUS_ARMED (b2n armed)

/-- The staging ring's source sees the whole sectors written so far; with `pad` the last sector is padded with zeros
(R187, R460, R461). -/
def stagePush (l : Nat) (pad : Bool) (s : State) : State :=
  let h := hubOf s l
  let r := s.recSt l
  match stageSource s h (s.rdL (recB l) R.REC_REGION_BASE_BASE) with
  | none => s
  | some k =>
    let wr := if pad then ceilTo 4096 r.stageWr else r.stageWr
    let s := if wr = r.stageWr then s
      else s.ringBytes h (recRegion s l) (recSize s l) r.stageWr (List.replicate (wr - r.stageWr) 0)
    let n := wr / 4096 - r.stageRd
    let s := s.modRec l fun r => { r with stageWr := wr, stageRd := wr / 4096 }
    if n = 0 then s else stageAdvance h k n s

/-- The bytes that find room in the staging ring (R187), and those that the limit of R367 leaves. -/
def stageRoom (s : State) (l : Nat) : Nat × Nat :=
  let h := hubOf s l
  let r := s.recSt l
  match stageSource s h (s.rdL (recB l) R.REC_REGION_BASE_BASE) with
  | some k =>
    let free := recSize s l - (stageUsed s h k * 4096 + r.stageWr % 4096)
    let left := (s.rd (pwrB 0) R.PWR_LIMIT_MIB_LIMIT * 256 - pendingAll s) * 4096 - r.stageWr % 4096
    (free, if s.on (pwrB 0) R.PWR_CTRL_HOLDUP_EN then left else free)
  | none => (recSize s l - r.stageWr, recSize s l)

/-- The acquisition ends if its last segment has completed, or it was stopped and none is in progress (R176, R181). -/
def recFinish (l : Nat) (s : State) : State :=
  let r := s.recSt l
  let ended := r.stopping || decide (r.m = 0) || (recMode s l != 1 && decide (r.m ≤ r.nextSeg))
  if s.on (recB l) R.REC_STATUS_RUN && ended && r.segs.isEmpty then
    let s := if recMode s l = 2 then stagePush l true s else s
    showArmed l (s.wrs (recB l) [(R.REC_STATUS_RUN, 0), (R.REC_STATUS_DONE, 1), (R.REC_STATUS_STOPPED, b2n r.stopping)])
  else s

/-- REC_CMD.ARM: latch the (A) fields and the mask-test table, compute the slot size and CAP, and arm (R177, R184,
R186). An ARM while RUN is ignored. -/
def recArm (l : Nat) (s : State) : State :=
  if !isLead l || !s.usableT l || s.on (recB l) R.REC_STATUS_RUN then s
  else
    let s := ((s.handOver (recB l) 0x4 0x8).handOver (recB l) 0x10 0x24).handOver (recB l) 0x40 0x50
    let s := s.tabHandOver (mtKey l 0) (mtKey l 4096)
    let a := recSize s l
    let m0 := clampLen 1048576 (s.rdL (recB l) R.REC_SEGS_M)
    let stream := recMode s l == 2
    let cut := !stream && decide (a / m0 / 64 * 64 < 576)
    let m := if cut then a / 576 else m0
    let slot := a / max 1 m / 64 * 64
    let cap := (slot - 192) / (64 * sampleBytes s l) * 64
    let acq := (s.rd (recB l) R.REC_ACQ_COUNT_ACQUISITIONS + 1) % 2 ^ 32
    let s := s.wrs (recB l) [(R.REC_ACQ_COUNT_ACQUISITIONS, acq), (R.REC_SEG_COUNT_SEGMENTS, 0),
      (R.REC_MT_FIRST_VALID, 0), (R.REC_STATUS_RUN, 1), (R.REC_STATUS_DONE, 0), (R.REC_STATUS_STOPPED, 0),
      (R.REC_CAP_CAP, if stream then 0xFFFFFFFF else min 0xFFFFFFFF (cap / 64))]
    let s := if cut then s.wr (recB l) R.REC_STATUS_SEGS_CUT 1 else s
    let s := s.modRec l fun r => { r with
      segs := [], nextSeg := 0, m := m, slot := slot, acqNo := acq, stopping := false, rearm := none
      stageWr := 0, stageRd := 0 }
    recFinish l (showArmed l s)

/-- REC_CMD.STOP: disarm; DONE and STOPPED when the last delivered segment completes (R181). -/
def recStop (l : Nat) (s : State) : State :=
  if isLead l && s.on (recB l) R.REC_STATUS_RUN then
    recFinish l (showArmed l (s.modRec l fun r => { r with stopping := true }))
  else s

/-- REC_ARM (R177). -/
def execRecArm (t : TDie) (s : State) : Host.Outcome State Fault Refusal := .next (recArm t s)

/-- REC_STOP (R181). -/
def execRecStop (t : TDie) (s : State) : Host.Outcome State Fault Refusal := .next (recStop t s)

/-- Nanoseconds as stream samples, rounded up to a multiple of 64 (R199). -/
def nsToSamples (s : State) (ns : Nat) : Nat :=
  ceilTo 64 (match s.part with
    | .s2d =>
      let d := 25 * max 1 (s.rd (timeB 0) R.TIME_JRX_STEP_STEP)
      (ns * 32 * 2 ^ 28 + d - 1) / d
    | _ => (ns * 256 + 24) / 25)

/-- PRE and POST of the segment of an event (R180, R199). -/
def recWindow (s : State) (l : Nat) (f : Fire) : Nat × Nat :=
  if s.onL (recB l) R.REC_CTRL_NETWIN && bit f.xsrc 4 then (nsToSamples s f.pre, nsToSamples s f.post)
  else (recPre s l, recPost s l)

/-- The segment of event `e` (R180, R183, R185): its samples and flags. TRUNC is judged on the length requested. -/
def cutSegment (s : State) (l segno : Nat) (e : TrgEvent) : RecSeg :=
  let q := (s.recSt l).tarn
  let w := recWindow s l e.fire
  let req := w.1 + w.2
  let fl := e.fire.flags % 32 * 128
  let cap := s.rd (recB l) R.REC_CAP_CAP * 64
  let trunc := recMode s l != 2 && decide (cap < req)
  let fl := if recMode s l = 2 then fl ||| 16384 else if trunc then fl ||| 32 else fl
  if e.sample < q.oldest ∨ (!q.run ∧ q.head ≤ e.sample) then
    { ev := e, segno := segno, start := e.sample, len := 0, req := req, flags := (fl ||| 64) - (fl &&& 32) }
  else
    let back := if trunc && decide (cap ≤ w.1) then cap - 1 else w.1
    let start := max q.oldest (e.sample - back)
    let whole := decide (back ≤ e.sample) && decide (start = e.sample - back)
    let fl := if whole then fl else fl ||| 64
    let len := if trunc && decide (cap ≤ w.1) then e.sample + 1 - start else e.sample + w.2 - start
    { ev := e, segno := segno, start := start, len := if trunc then min cap len else len, req := req, flags := fl }

/-- The record engine takes event `e` (R179, R182, R183, R185). -/
def deliverEvent (l : Nat) (e : TrgEvent) (s : State) : State :=
  let r := s.recSt l
  if !bit (s.rdL (recB l) R.REC_CTRL_UNITS) e.unit then s
  else if !s.on (recB l) R.REC_STATUS_RUN && s.on (recB l) R.REC_STATUS_DONE && !s.on (recB l) R.REC_STATUS_STOPPED then
    s.inc (unitB l e.unit) R.TRGU_u_MISS_MISSED
  else if !s.on (recB l) R.REC_STATUS_RUN || r.stopping then s
  else if recMode s l != 1 && decide (r.m ≤ r.nextSeg) then s.inc (unitB l e.unit) R.TRGU_u_MISS_MISSED
  else
    let g := cutSegment s l r.nextSeg e
    let s := if g.len = 0 ∧ bit g.flags 6 then s.inc (recB l) R.REC_NET_STALE_STALE else s
    let s := if bit g.flags 6 then s.wr (recB l) R.REC_STATUS_PRE_CLIP 1 else s
    let s := if bit g.flags 5 then
        (s.inc (recB l) R.REC_TRUNC_COUNT_TRUNCATED).wr (recB l) R.REC_STATUS_TRUNC 1 else s
    let k := if s.onL (recB l) R.REC_CTRL_ARM_MODE then 0 else e.sample + max (recWindow s l e.fire).2 9216
    showArmed l (s.modRec l fun r => { r with
      segs := r.segs ++ [g], nextSeg := r.nextSeg + 1, rearm := some (max k (r.rearm.getD 0)) })

/-- TRIGGER_EVENT_DELIVER: the oldest trigger event reaches the record engine (R179). -/
def execTriggerEventDeliver (t : TDie) (s : State) : Host.Outcome State Fault Refusal :=
  match (s.trgSt t).events with
  | [] => .next s
  | e :: r => .next (deliverEvent t e (s.modTrg t fun q => { q with events := r }))

/-- REC_REARM: the units in UNITS are armed again, in AFTER_POST mode once the fabric has reached the sample (R182). -/
def execRecRearm (t : TDie) (s : State) : Host.Outcome State Fault Refusal :=
  match (s.recSt t).rearm with
  | some k =>
    .next (if k ≤ (s.trgSt t).evaluated then showArmed t (s.modRec t fun r => { r with rearm := none }) else s)
  | none => .next s

/-! Segment data (R175, R188). -/

/-- How many samples of a segment have yet to be copied, and how many of them are settled: readable, gone, or never to
come. -/
def segLeft (g : RecSeg) : Nat := g.len - g.xs.length
def segSettled (s : State) (l : Nat) (g : RecSeg) : Nat :=
  let q := (s.recSt l).tarn
  if q.run then min (segLeft g) (q.head - (g.start + g.xs.length)) else segLeft g

/-- The next `n` samples of a segment are copied from the Tarn: zero where it no longer or not yet holds them (R174,
R175). -/
def segCopy (s : State) (l n : Nat) (g : RecSeg) : RecSeg :=
  let a := g.start + g.xs.length
  { g with
    xs := g.xs ++ (List.range n).map fun i => tarnRead s l (a + i)
    overrun := g.overrun || (decide (0 < n) && decide (a < (s.recSt l).tarn.oldest)) }

/-- The OR over the blocks that a segment touches of their stream status (R189). -/
def segStatus (s : State) (l : Nat) (g : RecSeg) : Nat :=
  if g.len = 0 then 0
  else
    let q := (s.recSt l).tarn
    let b0 := g.start / tarnBlock
    let b1 := (g.start + g.len - 1) / tarnBlock
    (List.range (b1 - b0 + 1)).foldl (fun f i =>
      f ||| (if q.oldestBlock ≤ b0 + i ∧ b0 + i < q.next then s.leAt (hubOf s l) (q.descAt (b0 + i) + 8) 2 % 32
        else tarnStatus s l ((b0 + i) * tarnBlock) ((b0 + i) * tarnBlock + tarnBlock - 1)
          ||| (if q.next ≤ b0 + i then 16 else 0))) 0

/-! Measurements (R190, R191). Amplitudes are held as integers times 2^32, rounded down. -/

/-- |x| times 2^32. -/
def amp (x : Int × Int) : Nat := isqrt (((x.1 * x.1 + x.2 * x.2).toNat) * 2 ^ 64) 60 0

/-- The crossings of level `lv` (times 2^32) in a sequence whose first member has index `n`: position, and whether
upward. -/
def crossings (lv : Rat) : (n : Nat) → List Nat → List (Rat × Bool)
  | n, a :: b :: r =>
    let rest := crossings lv (n + 1) (b :: r)
    let pos : Rat := n + (lv - a) / ((b : Rat) - a)
    if (a : Rat) < lv ∧ lv ≤ b then (pos, true) :: rest
    else if lv ≤ a ∧ (b : Rat) < lv then (pos, false) :: rest
    else rest
  | _, _ => []

/-- A dB16 code of a power ratio, rounded to nearest. -/
def dbExact (x : Rat) : Int := if x ≤ 0 then -32768 else clampI (-32768) 32767 (logRound x 2560 17)

/-- A duration in 1/16 samples, unsigned on `w` bits. -/
def dur16 (w : Nat) (x : Option Rat) : Nat :=
  match x with | some v => min (2 ^ w - 1) (roundRat (v * 16)).toNat | none => 0

/-- The measurement block of a segment (R190, R191). `xs` are its samples, `xe` the event sample. -/
def measureBlock (s : State) (l : Nat) (g : RecSeg) (xs : List (Int × Int)) (xe : Int × Int) : List Byte :=
  let e : Int := g.ev.sample
  let want0 := e + s.rdLI (recB l) R.REC_MEAS_START_START
  let len := s.rdL (recB l) R.REC_MEAS_LEN_LEN
  let lo : Int := if len = 0 then g.start else max want0 g.start
  let hi : Int := if len = 0 then g.start + g.len else min (want0 + len) (g.start + g.len)
  let clip := decide (len ≠ 0) && (decide (want0 < g.start) || decide ((g.start + g.len : Int) < want0 + len))
  let start := lo.toNat
  let n := (hi - lo).toNat
  let xs := (xs.drop (start - g.start)).take n
  let am := xs.map amp
  let pw := xs.map fun x => (x.1 * x.1 + x.2 * x.2).toNat
  let pk2 := pw.foldl max 0
  let npk := pw.findIdx fun p => p == pk2
  let full : Rat := (2 ^ 46 : Nat)
  let high := pw.filter fun p => decide (pk2 ≤ 4 * p)
  let top2 : Rat := ((high.foldl (· + ·) 0 : Nat) : Rat) / (max 1 high.length : Nat)
  let top : Rat := (isqrt (top2 * (2 ^ 64 : Nat)).floor.toNat 60 0 : Nat)
  let ups := fun x => (crossings (top * x) start am).filterMap fun c => if c.2 then some c.1 else none
  let downs := fun x => (crossings (top * x) start am).filterMap fun c => if c.2 then none else some c.1
  let t10 := (ups (1 / 10)).head?
  let rise := t10.bind fun t => ((ups (9 / 10)).find? fun x => decide (t < x)).map (· - t)
  let t90 := (downs (9 / 10)).getLast?
  let fall := t90.bind fun t => ((downs (1 / 10)).find? fun x => decide (t < x)).map (· - t)
  let width := match (ups (1 / 2)).head?, (downs (1 / 2)).getLast? with
    | some a, some b => if a ≤ b then some (b - a) else none
    | _, _ => none
  let low := decide (n = 0) || belowDb (top2 / full) (-60 * 256)
  let pairs := (xs.zip (xs.drop 1)).filter fun p =>
    decide (top2 ≤ 4 * ((p.1.1 * p.1.1 + p.1.2 * p.1.2 : Int) : Rat))
      && decide (top2 ≤ 4 * ((p.2.1 * p.2.1 + p.2.2 * p.2.2 : Int) : Rat))
  let acc := pairs.foldl (fun (a : Int × Int) p =>
    (a.1 + p.2.1 * p.1.1 + p.2.2 * p.1.2, a.2 + p.2.2 * p.1.1 - p.2.1 * p.1.2)) (0, 0)
  let freq := if low then 0 else if acc = (0, 0) then Config.free 33 g.segno % 2 ^ 32 else turnCode 32 acc.1 acc.2
  let phase := if xe = (0, 0) then Config.free 34 g.segno % 2 ^ 16 else turnCode 16 xe.1 xe.2
  let mean : Rat := ((pw.foldl (· + ·) 0 : Nat) : Rat) / (max 1 n : Nat)
  let peakDb := dbExact ((pk2 : Nat) / full)
  let meanDb := dbExact (mean / full)
  let status := b2n rise.isNone + 2 * b2n fall.isNone + 4 * b2n width.isNone + 8 * b2n clip + 16 * b2n low
  leBytes 2 (enc 16 peakDb) ++ leBytes 2 (enc 16 meanDb) ++ leBytes 2 (peakDb - meanDb).toNat
    ++ leBytes 2 (enc 16 (dbExact (top2 / full))) ++ leBytes 4 (dur16 32 rise) ++ leBytes 4 (dur16 32 fall)
    ++ leBytes 8 (dur16 64 width) ++ leBytes 4 freq ++ leBytes 2 phase ++ leBytes 2 status
    ++ leBytes 8 start ++ leBytes 8 n ++ leBytes 8 (start + npk) ++ leBytes 8 0

/-! The mask test (R192 to R194). -/

/-- Whether a sample lies above UPPER or below LOWER (R192, R194: a zero sample is at -128.0 dBFS). -/
def mtBad (upper lower : Int) (x : Int × Int) : Bool :=
  let p := x.1 * x.1 + x.2 * x.2
  if p = 0 then decide (-32768 < lower)
  else
    let r : Rat := (p : Rat) / (2 ^ 46 : Nat)
    aboveDb r upper || belowDb r lower

/-- The lowest failing point of a segment (R192): the least point of a sample outside its limits. -/
def mtPoint (s : State) (l : Nat) (g : RecSeg) (xs : List (Int × Int)) : Option Nat :=
  let b := recB l
  let p0 := s.rdL b R.REC_MT_CTRL_POINTS
  let points := if p0 = 0 ∨ 4096 < p0 then 4096 else p0
  let dec := min 16 (s.rdL b R.REC_MT_CTRL_DEC)
  let o := (g.ev.sample : Int) + s.rdLI b R.REC_MT_OFFSET_OFFSET
  (xs.zipIdx g.start).findSome? fun x =>
    let d := (x.2 : Int) - o
    if d < 0 ∨ points ≤ d.toNat / 2 ^ dec then none
    else
      let p := d.toNat / 2 ^ dec
      let w := (tget tabReset s.tabL (mtKey l p)).toNat
      if mtBad (sx 16 (bitsOf w 16 16)) (sx 16 (bitsOf w 0 16)) x.1 then some p else none

/-- The bytes of a segment as stored (R188): header with CRC, data padded to 64 bytes, measurement block. -/
def segBytes (s : State) (l : Nat) (g : RecSeg) (flags : Nat) (mt : Option Nat) (xs : List (Int × Int))
    (meas : List Byte) : List Byte :=
  let f16 := recC16 s l
  let sh := recShift s l
  let data := if f16 then xs.flatMap fun x => leBytes 2 (enc 16 (c16 sh x.1).1) ++ leBytes 2 (enc 16 (c16 sh x.2).1)
    else xs.flatMap fun x => c24 x.1 x.2
  let data := data ++ List.replicate (ceilTo 64 data.length - data.length) 0
  let e := g.ev
  let hdr := leBytes 1 0x20 ++ leBytes 1 e.input ++ leBytes 1 e.unit ++ leBytes 1 e.primary ++ leBytes 2 flags
    ++ leBytes 1 (b2n f16) ++ leBytes 1 e.fire.xsrc ++ leBytes 8 e.sample ++ leBytes 12 e.sts ++ leBytes 4 g.segno
    ++ leBytes 4 (s.recSt l).acqNo ++ leBytes 4 e.seq ++ leBytes 8 g.start ++ leBytes 8 g.len ++ leBytes 8 g.req
    ++ leBytes 8 (e.sample - g.start) ++ leBytes 8 e.fire.cause
    ++ leBytes 2 (if bit e.fire.xsrc 4 then e.fire.sender else 0) ++ leBytes 1 (if f16 then sh else 0)
    ++ leBytes 1 (b2n (!meas.isEmpty)) ++ leBytes 4 (mt.getD 0xFFFFFFFF) ++ leBytes 4 data.length
    ++ List.replicate 32 0
  hdr ++ leBytes 4 (crc32 hdr) ++ data ++ meas

/-- The mask test's verdict on a segment, where it is tested (R192). -/
def segTested (s : State) (l : Nat) (g : RecSeg) : Bool := s.onL (recB l) R.REC_MT_CTRL_EN && decide (g.len ≠ 0)

/-- The bytes of a segment from the samples copied so far (R188 to R193). The MT_FAIL flag is that of the acquisition's
first failing segment (R193). -/
def segItem (s : State) (l : Nat) (g : RecSeg) : List Byte :=
  let sat := recC16 s l && g.xs.any fun x => (c16 (recShift s l) x.1).2 || (c16 (recShift s l) x.2).2
  let mt := if segTested s l g then mtPoint s l g g.xs else none
  let first := mt.isSome && !s.on (recB l) R.REC_MT_FIRST_VALID
  let flags := g.flags ||| segStatus s l g ||| (if g.overrun then 4096 else 0) ||| (if first then 8192 else 0)
    ||| (if sat then 32768 else 0)
  let xe := if g.start ≤ g.ev.sample ∧ g.ev.sample < g.start + g.xs.length then
      (g.xs[g.ev.sample - g.start]?).getD (0, 0)
    else tarnRead s l g.ev.sample
  segBytes s l g flags mt g.xs (if recMeas s l then measureBlock s l g g.xs xe else [])

/-- Bytes enter the staging ring (R187). -/
def stageBytes (l : Nat) (bytes : List Byte) (s : State) : State :=
  stagePush l false ((s.ringBytes (hubOf s l) (recRegion s l) (recSize s l) (s.recSt l).stageWr bytes).modRec l fun r =>
    { r with stageWr := r.stageWr + bytes.length })

/-- The oldest segment is replaced by a later state of its copy. -/
def setOldest (l : Nat) (g : RecSeg) (s : State) : State :=
  s.modRec l fun r => { r with segs := g :: r.segs.drop 1 }

/-- STREAM mode: as many settled samples of the oldest segment as find room are copied into the staging ring, which the
storage engine drains while the copy runs; its header goes first (R187; a header already staged keeps the flags it had,
DESIGN CHOICE, assumption log). -/
def streamCopy (l : Nat) (g : RecSeg) (s : State) : State :=
  let room := stageRoom s l
  let free := min room.1 room.2
  let head := if g.staged = 0 then 128 else 0
  let s := throttle (hubOf s l) (decide (0 < segSettled s l g) && decide (room.2 < head + sampleBytes s l)
    && decide (head + sampleBytes s l ≤ room.1)) s
  let n := min (segSettled s l g) ((free - head) / sampleBytes s l)
  if n = 0 then s
  else
    let g := segCopy s l n g
    let upTo := 128 + g.xs.length * sampleBytes s l
    let g' := { g with staged := upTo }
    stageBytes l (((segItem s l g).take upTo).drop g.staged) (setOldest l g' s)

/-- The copies go on with what the Tarn holds: in STREAM mode the oldest segment's, as far as the staging ring has room
(R182, R187). -/
def segsAdvance (l : Nat) (s : State) : State :=
  if recMode s l = 2 then
    match (s.recSt l).segs with
    | g :: _ => streamCopy l g s
    | [] => s
  else s.modRec l fun r => { r with segs := r.segs.map fun g => segCopy s l (segSettled s l g) g }

/-- TARN_BLOCK_WRITE: the die that forwards the stream sends the next whole block (R28, R169, R170, R174). Copies under way
take what the slot still holds first. -/
def execTarnBlockWrite (t : TDie) (s : State) : Host.Outcome State Fault Refusal :=
  let l := pairLead t
  let q := (s.recSt l).tarn
  .next (if q.run && (forwarder s l == some t.val)
      && decide ((q.next + 1) * tarnBlock ≤ s.streamHead (inputOf l)) then
    blockWrite l (takeOver l t (segsAdvance l s)) else s)

/-- A segment completes: data, measurements and header written, counted, tested, and line REC pulses (R182, R192,
R193). -/
def completeSegment (l : Nat) (g : RecSeg) (s : State) : State :=
  let bytes := segItem s l g
  let ovr := g.overrun
  let mtOn := segTested s l g
  let mt := if mtOn then mtPoint s l g g.xs else none
  let h := hubOf s l
  let r := s.recSt l
  let s := if recMode s l = 2 then stageBytes l (bytes.drop g.staged) s
    else s.setBytes h (recRegion s l + g.segno % max 1 r.m * r.slot) bytes
  let s := if ovr then (s.inc (recB l) R.REC_OVERRUN_COUNT_OVERRUNS).wr (recB l) R.REC_STATUS_OVERRUN 1 else s
  let s := (s.inc (recB l) R.REC_SEG_COUNT_SEGMENTS).pulse h 0x3000
  let s := s.modRec l fun r => { r with segs := r.segs.drop 1 }
  let s := if !mtOn then s
    else if mt.isNone then s.inc (recB l) R.REC_MT_PASS_PASSED
    else
      let s := s.inc (recB l) R.REC_MT_FAIL_FAILED
      let s := if s.on (recB l) R.REC_MT_FIRST_VALID then s
        else s.wrs (recB l) [(R.REC_MT_FIRST_SEG, g.segno), (R.REC_MT_FIRST_VALID, 1), (R.REC_STATUS_MT_FAIL, 1)]
      if s.onL (recB l) R.REC_MT_CTRL_STOP then recStop l s else s
  recFinish l s

/-- SEGMENT_COMPLETE: the oldest segment completes once its samples are copied and, in STREAM mode, the staging ring has
room for what is left of it; until then its copy goes on (R182, R187). -/
def execSegmentComplete (t : TDie) (s : State) : Host.Outcome State Fault Refusal :=
  let s := segsAdvance t s
  match (s.recSt t).segs with
  | [] => .next s
  | g :: _ =>
    if segLeft g ≠ 0 then .next s
    else if recMode s t != 2 then .next (completeSegment t g s)
    else
      let left := (segItem s t g).length - g.staged
      let room := stageRoom s t
      let s := throttle (hubOf s t) (decide (room.2 < left) && decide (left ≤ room.1)) s
      .next (if left ≤ room.1 ∧ left ≤ room.2 then completeSegment t g s else s)

/-- The mask-test table's data port (REC_MT_ADDR): writes land in the shadow bank; ENTRY steps on and wraps. -/
def mtAccess (t : Nat) (write : Option Word) (s : State) : State :=
  let i := s.rd (recB t) R.REC_MT_ADDR_ENTRY
  let s := match write with
    | some v => { s with tabS := tset tabReset s.tabS (mtKey t i) v }
    | none => { s with readData := tget tabReset s.tabS (mtKey t i) }
  s.wr (recB t) R.REC_MT_ADDR_ENTRY ((i + 1) % 4096)

/-! Change-only records (R195 to R198). -/

def State.modCo (s : State) (l : Nat) (f : CoSt → CoSt) : State := s.modRec l fun r => { r with co := f r.co }

/-- The ring of the change-only blocks, in bytes. -/
def coBase (s : State) (l : Nat) : Nat := s.rd (recB l) R.REC_CO_BASE_BASE * 2 ^ 20
def coSize (s : State) (l : Nat) : Nat := s.rd (recB l) R.REC_CO_SIZE_SIZE * 2 ^ 20

/-- An 8-byte entry (R197). -/
def coEntryBytes (bin dspec : Nat) (level : Int) (on snap : Bool) : List Byte :=
  leBytes 2 bin ++ leBytes 2 dspec ++ leBytes 2 (enc 16 level) ++ leBytes 1 (b2n on + 2 * b2n snap) ++ [0]

/-- The open block closes and is written into the ring (R197). -/
def coClose (l : Nat) (s : State) : State :=
  match (s.recSt l).co.blk with
  | none => s
  | some b =>
    let bytes := leBytes 1 0x30 ++ leBytes 1 (inputOf l) ++ leBytes 2 b.flags ++ leBytes 4 b.entries.length
      ++ leBytes 8 b.first ++ leBytes 12 b.sts ++ leBytes 4 (b.last + 1 - b.first) ++ b.entries.flatten
    let c := (s.recSt l).co
    (s.ringBytes (hubOf s l) (coBase s l) (coSize s l) c.pos bytes).modCo l fun c => { c with
      blk := none, pos := if coSize s l = 0 then 0 else (c.pos + bytes.length) % coSize s l }

/-- An entry is written into the open block, or dropped where the ring has no room for it (R198). -/
def coPut (l : Nat) (e : List Byte) (s : State) : State :=
  match (s.recSt l).co.blk with
  | none => s
  | some b =>
    if coSize s l < 32 + 8 * (b.entries.length + 1) then
      ((s.inc (recB l) R.REC_CO_DROP_DROPPED).wr (recB l) R.REC_STATUS_CO_DROP 1).modCo l fun c => { c with
        dropped := true, blk := some { b with flags := b.flags ||| 1 } }
    else
      let n := (s.rd (recB l) R.REC_CO_ENTRIES_ENTRIES + 1) % 2 ^ 32
      (s.wr (recB l) R.REC_CO_ENTRIES_ENTRIES n).modCo l fun c => { c with
        blk := some { b with entries := b.entries ++ [e] } }

/-- Open a block at spectrum `idx`, with the snapshot entries it must begin with: of the bins that are ON at the drop, those
that still are (R196, R198). -/
def coOpen (l idx sts : Nat) (lv : List Int) (s : State) : State :=
  let c := (s.recSt l).co
  let snap := if c.dropped then c.on else c.snap.filter c.on.contains
  let fl := (if c.restart then 2 else 0) + (if c.dropped || !snap.isEmpty then 4 else 0)
  let s := s.modCo l fun c => { c with
    blk := some { first := idx, sts := sts, last := idx, flags := fl }
    restart := false, dropped := false, snap := snap.drop 4096 }
  (snap.take 4096).foldl (fun s b => coPut l (coEntryBytes b 0 (lv.getD b (-32768)) true true) s) s

/-- Whether the open block is full (R197). -/
def coFull (s : State) (l : Nat) : Bool :=
  match (s.recSt l).co.blk with
  | some b => decide (4096 ≤ b.entries.length)
  | none => false

/-- Open a block that has room for an entry: blocks that snapshot entries fill close at once. `fuel` bounds their number. -/
def coReady (l idx sts : Nat) (lv : List Int) : (fuel : Nat) → State → State
  | 0, s => s
  | f + 1, s =>
    let s := if (s.recSt l).co.blk.isNone then coOpen l idx sts lv s else s
    if coFull s l then coReady l idx sts lv f (coClose l s) else s

/-- Every bin starts OFF (R196): the open block closes and the next carries RESTART. -/
def coRestart (l : Nat) (s : State) : State :=
  if (s.recSt l).co.run then (coClose l s).modCo l fun c => { c with on := [], restart := true, snap := [] } else s

/-- A bin of a spectrum whose frame starts at `k` (R195, R197): a block that is full closes first. -/
def coBin (l idx sts k n : Nat) (lv : List Int) (bin : Nat) (s : State) : State :=
  let c := (s.recSt l).co
  let t := sx 16 (bitsOf (tget tabReset (trgTabAt s l k) (maskKey l c.table (bin * 65536 / n))).toNat 16 16)
  let v := lv.getD bin (-32768)
  let isOn := c.on.contains bin
  let turn := if isOn then decide (v < t - c.hyst) else decide (t < v)
  if !turn then s
  else
    let s := coReady l idx sts lv (c.on.length / 4096 + 2) s
    let d := match (s.recSt l).co.blk with | some b => idx - b.first | none => 0
    let s := coPut l (coEntryBytes bin d v (!isOn) false)
      (s.modCo l fun c => { c with on := if isOn then c.on.filter (· != bin) else c.on ++ [bin] })
    if coFull s l then coClose l s else s

/-- A spectrum (SRC = 0) or detected spectrum (SRC = 1) with index `idx` reaches the change-only generator (R195). -/
def coSpectrum (src : Nat) (i : SpecInfo) (s : State) : State :=
  let l := i.lead
  let idx := i.idx
  let c := (s.recSt l).co
  let spans := match c.blk with | some b => decide (b.first + 65536 ≤ idx) | none => false
  let s := if c.run && c.src == src && spans then coClose l s else s
  if !c.run || c.src != src || i.flags &&& (16 ||| 8 ||| 128) != 0 then s
  else
    let n := i.lv.length
    let s := if c.blk.isNone || spans then coReady l idx i.sts i.lv (c.on.length / 4096 + 2) s
      else s.modCo l fun c => { c with blk := c.blk.map fun b => { b with last := max b.last idx } }
    let lastBin := min (n - 1) c.last
    let s := (List.range (lastBin + 1 - c.first)).foldl (fun s k => coBin l idx i.sts i.start n i.lv (c.first + k) s) s
    match (s.recSt l).co.blk with
    | some b => if 65536 ≤ b.last + 1 - b.first then coClose l s else s
    | none => s

/-- REC_CO_CTRL.EN changes to 1: the settings are read and every bin starts OFF (R196). -/
def coEnable (l : Nat) (s : State) : State :=
  if isLead l && s.usableT l && s.on (recB l) R.REC_CO_CTRL_EN && !(s.recSt l).co.run then
    s.modCo l fun c => { c with
      run := true, src := s.rd (recB l) R.REC_CO_CTRL_SRC, table := s.rd (recB l) R.REC_CO_CTRL_TABLE
      hyst := s.rd (recB l) R.REC_CO_CTRL_HYST, first := s.rd (recB l) R.REC_CO_BINS_FIRST
      last := s.rd (recB l) R.REC_CO_BINS_LAST, on := [], restart := true, dropped := false, snap := [] }
  else s

/-- EN is 0: the generator stops and its open block closes. -/
def coDisable (l : Nat) (s : State) : State := (coClose l s).modCo l fun c => { c with run := false, on := [] }

/-- CO_ENABLE: a change of REC_CO_CTRL.EN to 1 (R196). -/
def execCoEnable (t : TDie) (s : State) : Host.Outcome State Fault Refusal :=
  .next (if isLead t && s.usableT t && !s.on (recB t) R.REC_CO_CTRL_EN then coEnable t (s.wr (recB t) R.REC_CO_CTRL_EN 1)
    else s)

/-- CO_BLOCK_FLUSH: REC_CO_FLUSH milliseconds have passed since the block opened (R197). -/
def execCoBlockFlush (t : TDie) (s : State) : Host.Outcome State Fault Refusal :=
  .next (if s.rd (recB t) R.REC_CO_FLUSH_FLUSH = 0 then s else coClose t s)

/-- A detected spectrum as its consumers see it: its last spectrum gives its index and place (R134, R195). -/
def Det.info (l : Nat) (d : Det) : SpecInfo :=
  { die := l, lead := l, idx := d.last, start := d.lastStart, n := d.lv.length, flags := d.flags, sts := d.sts
    pw := d.pw, lv := d.lv }

/-- Detected spectra that have come out reach the trigger conditions and the change-only generator (R134, R195). -/
def detectedOut (l : Nat) (s : State) : State :=
  let ds := (s.wbSt l).detOut
  let s := s.modWb l fun w => { w with detOut := [] }
  ds.foldl (fun s d => coSpectrum 1 (d.info l) (spectralTake l 1 (specResult s (s.wbSet l) 1 (d.info l)) s)) s

end Sys2Proof.Machine
end

