-- ==== Sys2Proof/Machine/Chz.lean ====
section
/-! DEFINITION. The band bank, the zoom channels, their detectors, feeds, blocks and repair (chapter 7). -/

namespace Sys2Proof.Machine

def dZoom : Nat → ZoomSt := fun _ => {}
def zoomKey (t n : Nat) : Nat := 128 * t + n
def State.zoom (s : State) (t n : Nat) : ZoomSt := tget dZoom s.zooms (zoomKey t n)
def State.modZoom (s : State) (t n : Nat) (f : ZoomSt → ZoomSt) : State :=
  { s with zooms := tset dZoom s.zooms (zoomKey t n) (f (s.zoom t n)) }

/-- The registers of channel `n` of die `t`; the shadowed ones are the first 7 words (R270). -/
def zcB (t n : Nat) : Nat := chzB t + 0x40 * n
def zcLo : Nat := 0x1000
def zcHi : Nat := 0x101C

/-- Bit `n` of a bitmap register of the CHZ block (R250, R251): its address and bit. -/
def zoomMap (f : Fld) (n : Nat) : Fld := { f with off := f.off + 4 * (n / 32), lo := n % 32, w := 1 }

/-- Whether the stream of a die's input runs. -/
def streamRuns (s : State) (t : Nat) : Bool := (s.wbSt (pairLead t)).running

/-! Settings, read from the live or the in-force registers by `rd`. -/

/-- L with 4 and 160,000 as its ends (R245). -/
def clampL (n : Nat) : Nat := if n < 4 then 4 else if 160000 < n then 160000 else n
def zoomL (rd : Nat → Fld → Nat) (t n : Nat) : Nat := clampL (rd (zcB t n) R.ZC_n_DEC_L)
def zoomFreq (rd : Nat → Fld → Nat) (t n : Nat) : Int :=
  sx 48 (rd (zcB t n) R.ZC_n_FREQ_HI_FREQ_HI * 2 ^ 32 + rd (zcB t n) R.ZC_n_FREQ_LO_FREQ_LO)
def zoomWin (s : State) (t n : Nat) : Nat := max 1 (s.rdF (zcB t n) R.ZC_n_DET_WIN)

/-- Whether |fo| + 0.4 fout exceeds 96 MHz (R244). -/
def zoomEdge (s : State) (t n : Nat) : Bool :=
  let l := zoomL s.rdF t n
  decide (96 * l * 2 ^ 48 < (zoomFreq s.rdF t n).natAbs * 200 * l + 80 * 2 ^ 48)

/-! Commits (R251 to R254). -/

/-- The switch point for a commit or a reset that lands now (R251). -/
def zoomSwitchPoint (s : State) (t : Nat) : Nat :=
  ceilTo 65536 (max (s.recvSample (inputOf t) + 20480) ((s.wbSt (pairLead t)).start + 6144))

/-- The hand-over of channel `n` (R245, R251, R253): a switch point is scheduled, or waits for the stream (R268). -/
def zoomHandOver (t n : Nat) (s : State) : State :=
  let s := s.handOver (zcB t n) zcLo zcHi
  let l := s.rdL (zcB t n) R.ZC_n_DEC_L
  let s := if clampL l ≠ l then (s.wr (zcB t n) R.ZC_n_STATUS_CLAMP 1).wr (chzB t) R.CHZ_STATUS_CLAMP 1 else s
  let s := (s.wrs (chzB t) [(zoomMap R.CHZ_DIRTY_k_DIRTY n, 0), (zoomMap R.CHZ_PENDING_k_PENDING n, 1)]).inc (chzB t)
    R.CHZ_SWITCH_COUNT_SWITCHES
  if streamRuns s t then
    let p := zoomSwitchPoint s t
    s.modZoom t n fun q => { q with sw := some p }
  else s.modZoom t n fun q => { q with waitSw := true }

/-- A commit of channel `n`: a hand-over, or HELD while PENDING (R94, R252). -/
def zoomCommit (t n : Nat) (s : State) : State :=
  if s.on (chzB t) (zoomMap R.CHZ_PENDING_k_PENDING n) || s.on (chzB t) (zoomMap R.CHZ_HELD_k_HELD n) then
    s.wr (chzB t) (zoomMap R.CHZ_HELD_k_HELD n) 1
  else zoomHandOver t n s

/-- A revert of channel `n` (R96, R252). -/
def zoomRevert (t n : Nat) (s : State) : State :=
  (s.takeBack (zcB t n) zcLo zcHi).wr (chzB t) (zoomMap R.CHZ_DIRTY_k_DIRTY n) 0

/-- A reset of channel `n` is scheduled, at the hand-over's switch point while one is pending (R254). -/
def zoomSync (t n : Nat) (s : State) : State :=
  let p := ((s.zoom t n).sw).getD (zoomSwitchPoint s t)
  if streamRuns s t then s.modZoom t n fun q => { q with syncs := if q.syncs.contains p then q.syncs else q.syncs ++ [p] }
  else s.modZoom t n fun q => { q with waitSync := true }

/-- Apply `f` to each channel whose bit is set in register `k` of a bitmap. -/
def eachZoom (k mask : Nat) (f : Nat → State → State) (s : State) : State :=
  (List.range 32).foldl (fun s b => if bit mask b then f (32 * k + b) s else s) s

/-- CHZ_COMMIT: one write hands over its channels, with one switch point (R251). -/
def execChzCommit (t : TDie) (k : Fin 4) (mask : Word) (s : State) : Host.Outcome State Fault Refusal :=
  .next (if s.usableT t then eachZoom k mask.toNat (zoomCommit t) s else s)

/-- CHZ_REVERT (R252). -/
def execChzRevert (t : TDie) (k : Fin 4) (mask : Word) (s : State) : Host.Outcome State Fault Refusal :=
  .next (if s.usableT t then eachZoom k mask.toNat (zoomRevert t) s else s)

/-- CHZ_SYNC (R254). -/
def execChzSync (t : TDie) (k : Fin 4) (mask : Word) (s : State) : Host.Outcome State Fault Refusal :=
  .next (if s.usableT t then eachZoom k mask.toNat (zoomSync t) s else s)

/-- CHZ_HELD_HANDOVER: once PENDING has cleared, the held commit of channel `n` hands over (R94, R252). -/
def execChzHeldHandover (t : TDie) (n : Fin 128) (s : State) : Host.Outcome State Fault Refusal :=
  .next (if s.on (chzB t) (zoomMap R.CHZ_HELD_k_HELD n) && !s.on (chzB t) (zoomMap R.CHZ_PENDING_k_PENDING n) then
    zoomHandOver t n (s.wr (chzB t) (zoomMap R.CHZ_HELD_k_HELD n) 0)
  else s)

/-! Blocks in memory (R263 to R265). -/

/-- Bytes of a full block. -/
def zoomBlockSize (fmt : Bool) (blk : Nat) : Nat := 64 + (if fmt then 4 else 6) * 2 ^ blk

/-- A block's bytes (R265). `runs`, L, FREQ and BAND are the channel's when it closes. -/
def zoomBlockBytes (s : State) (t n : Nat) (b : ZoomBlock) (flags : Nat) : List Byte :=
  let q := s.zoom t n
  let conv := b.data.map fun x => ((c16 b.shift x.1), (c16 b.shift x.2))
  let sat := b.fmt && conv.any fun x => x.1.2 || x.2.2
  let fl := b.flags ||| flags ||| (if sat then 256 else 0)
  leBytes 1 (if b.fmt then 0x51 else 0x50) ++ leBytes 1 (inputOf t) ++ leBytes 2 fl ++ leBytes 2 (128 * t + n)
    ++ leBytes 1 b.invalid ++ leBytes 1 b.shift ++ leBytes 8 b.first ++ leBytes 12 b.sts ++ leBytes 4 b.data.length
    ++ leBytes 4 (if q.movedTo.isSome then q.old.runs else q.runs) ++ leBytes 4 (zoomL s.rdF t n) ++ leBytes 8 (enc 64 (zoomFreq s.rdF t n))
    ++ leBytes 1 (s.rdF (zcB t n) R.ZC_n_CTRL_BAND) ++ List.replicate 15 0
    ++ (if b.fmt then conv.flatMap fun x => leBytes 2 (enc 16 x.1.1) ++ leBytes 2 (enc 16 x.2.1)
        else b.data.flatMap fun x => c24 x.1 x.2)

/-- The channel whose ring a channel's blocks go to: the one its settings have moved to after a fault (R267). -/
def ringOwner (s : State) (t n : Nat) : Nat := ((s.zoom t n).movedTo).getD n

/-- A closed block of channel `n` waits to be written. -/
def zoomClose (t n : Nat) (b : ZoomBlock) (flags : Nat) (s : State) : State :=
  let bytes := zoomBlockBytes s t n b flags
  s.modZoom t (ringOwner s t n) fun q => { q with
    blkNo := q.blkNo + 1, closed := q.closed ++ [(q.blkNo, zoomBlockSize b.fmt b.blk, bytes)] }

/-- The open block closes early with the flags given (R264). -/
def zoomCloseOpen (t n flags : Nat) (s : State) : State :=
  match (s.zoom t n).blk with
  | none => s
  | some b => zoomClose t n b flags (s.modZoom t n fun q => { q with blk := none })

/-- The run of channel `n` ends: its block closes with PARTIAL and END (R264). -/
def zoomEnd (t n : Nat) (s : State) : State :=
  let s := zoomCloseOpen t n (32 + 4096) s
  (s.wrs (zcB t n) [(R.ZC_n_STATUS_RUN, 0), (R.ZC_n_STATUS_PRIMING, 0)]).modZoom t n fun q => { q with run := false }

/-! Switch points (R253, R254). -/

/-- A synchronising reset of channel `n` at band sample `u`. -/
def zoomReset (t n u : Nat) (s : State) : State :=
  let s := if (s.zoom t n).run then zoomEnd t n s else s
  let run := s.onF (zcB t n) R.ZC_n_CTRL_EN && s.on (chzB t) R.CHZ_CTRL_EN && streamRuns s t
  let s := s.wr (chzB t) R.CHZ_SYNC_COUNT_RESETS ((s.rd (chzB t) R.CHZ_SYNC_COUNT_RESETS + 1) % 2 ^ 32)
  let s := s.wrs (zcB t n) [(R.ZC_n_STATUS_RUN, b2n run), (R.ZC_n_STATUS_PRIMING, b2n run)]
  s.modZoom t n fun q => { q with
    run := run, uS := u, v := 0, runs := (q.runs + 1) % 2 ^ 32, changes := [], env := 0
    freqs := [(u, zoomFreq s.rdF t n)]
    wN := 0, wPk := 0, wPkV := 0, wSum := 0, wValid := 0 }

/-- Whether the set about to take effect changes EN, BAND or L (R253). -/
def zoomResets (s : State) (t n : Nat) : Bool :=
  [R.ZC_n_CTRL_EN, R.ZC_n_CTRL_BAND].any (fun f => s.rdF (zcB t n) f != s.rdL (zcB t n) f)
    || zoomL s.rdF t n != zoomL s.rdL t n

/-- Switch point `p` of channel `n`: the new live set takes effect at band sample 5 p / 256, and a reset that is due
takes place (R251, R253, R254). -/
def zoomSwitch (t n p : Nat) (s : State) : State :=
  let q := s.zoom t n
  let u := 5 * p / 256
  let hand := decide (q.sw = some p)
  let reset := q.syncs.contains p || (hand && zoomResets s t n)
  let out := hand && s.forceReg (zcB t n + R.ZC_n_OUT) != s.liveReg (zcB t n + R.ZC_n_OUT)
  let win := hand && s.rdF (zcB t n) R.ZC_n_DET_WIN != s.rdL (zcB t n) R.ZC_n_DET_WIN
  let s := s.modZoom t n fun q => { q with
    sw := if hand then none else q.sw, syncs := q.syncs.filter (· != p) }
  let s := if reset && q.run then zoomEnd t n s else if out then zoomCloseOpen t n 32 s else s
  let s := if hand then
      (s.enforce (zcB t n) zcLo zcHi).wr (chzB t) (zoomMap R.CHZ_PENDING_k_PENDING n) 0
    else s
  let s := if reset then zoomReset t n u s
    else s.modZoom t n fun q => { q with
      changes := if q.run then q.changes ++ [u] else q.changes, freqs := (u, zoomFreq s.rdF t n) :: q.freqs }
  let s := if win then s.modZoom t n fun q => { q with wN := 0, wPk := 0, wPkV := 0, wSum := 0, wValid := 0 }
    else s
  s.wr (zcB t n) R.ZC_n_STATUS_EDGE (b2n (zoomEdge s t n))

/-- The earliest switch point scheduled on die `t`. -/
def nextPoint (s : State) (t : Nat) : Option Nat :=
  (List.range 128).foldl (fun m n =>
    ((s.zoom t n).sw :: (s.zoom t n).syncs.map some).foldl (fun m p =>
      match m, p with
      | some a, some b => some (min a b)
      | none, p => p
      | m, none => m) m) none

/-- ZOOM_SWITCH_POINT: the earliest switch point of the die, for every channel that has it (R251, R253). -/
def execZoomSwitchPoint (t : TDie) (s : State) : Host.Outcome State Fault Refusal :=
  .next (if s.usableT t then
    match nextPoint s t with
    | some p => (List.range 128).foldl (fun s n =>
        if (s.zoom t n).sw = some p ∨ p ∈ (s.zoom t n).syncs then zoomSwitch t n p s else s) s
    | none => s
  else s)

/-! The bank (R239) and the stream. -/

/-- Enabled channels of die `t` are to restart at the next switch point. -/
def zoomRestartAll (t : Nat) (s : State) : State :=
  (List.range 128).foldl (fun s n =>
    let s := if s.onF (zcB t n) R.ZC_n_CTRL_EN then zoomSync t n s else s
    let p := zoomSwitchPoint s t
    s.modZoom t n fun q => { q with
      sw := if q.waitSw then some p else q.sw, waitSw := false
      syncs := if q.waitSync && !q.syncs.contains p then q.syncs ++ [p] else q.syncs, waitSync := false }) s

/-- The stream of die `t`'s input has started (R239, R268). -/
def chzStreamStart (t : Nat) (s : State) : State :=
  zoomRestartAll t (s.wrs (chzB t) [(R.CHZ_STATUS_RUN, s.rd (chzB t) R.CHZ_CTRL_EN), (R.CHZ_STATUS_PRIMED, 0)])

/-- The runs of die `t` end. -/
def zoomEndAll (t : Nat) (s : State) : State :=
  (List.range 128).foldl (fun s n => if (s.zoom t n).run then zoomEnd t n s else s) s

/-- The stream of die `t`'s input has stopped: switch points not reached wait for its start. -/
def chzStreamStop (t : Nat) (s : State) : State :=
  let s := zoomEndAll t (s.wrs (chzB t) [(R.CHZ_STATUS_RUN, 0), (R.CHZ_STATUS_PRIMED, 0)])
  (List.range 128).foldl (fun s n => s.modZoom t n fun q => { q with
    waitSw := q.waitSw || q.sw.isSome, sw := none, waitSync := q.waitSync || !q.syncs.isEmpty, syncs := [] }) s

/-- A write of CHZ_CTRL.EN (R239): the bank runs or stops; its channels restart at the next switch point. -/
def chzEnable (t : Nat) (on : Bool) (s : State) : State :=
  let was := s.on (chzB t) R.CHZ_CTRL_EN
  let s := s.wrs (chzB t) [(R.CHZ_CTRL_EN, b2n on), (R.CHZ_STATUS_RUN, b2n (on && streamRuns s t))]
  if on && !was && streamRuns s t then zoomRestartAll t s else if !on && was then zoomEndAll t s else s

/-- CHZ_PRIMED: 6144 stream samples have passed since the stream started (R239). -/
def execChzPrimed (t : TDie) (s : State) : Host.Outcome State Fault Refusal :=
  .next (if s.usableT t && streamRuns s t then s.wr (chzB t) R.CHZ_STATUS_PRIMED 1 else s)

/-! Outputs (R245 to R262). -/

/-- A component of an output and whether it saturated (R246). -/
def zoomScale (gain shift : Nat) (c : Int) : Int × Bool :=
  let y := rha (c * gain) (2 ^ (16 + shift))
  if y < -(2 ^ 23 - 1) then (-(2 ^ 23), true) else if 2 ^ 23 - 1 < y then (2 ^ 23 - 1, true) else (y, false)

/-- The cascade output that output `v` of a run keeps (R245). -/
def zoomN (uS l v : Nat) : Nat := uS + (v + 1) * l - 1

/-- The stream sample output `v` is referred to (R256). -/
def zoomJ (uS l v : Nat) : Int := (256 * (zoomN uS l v : Int) - 384 * ((l : Int) - 1)) / 5 - 3072

/-- The stream samples that output `v` depends on (R237, R240). -/
def zoomSpan (uS l v : Nat) : Nat × Nat :=
  let n := zoomN uS l v
  ((256 * max uS (n - 3 * (l - 1)) + 4) / 5 - 6144, 256 * n / 5)

/-- Status bits of a span of stream samples as die `t` received them, with RETUNE (R240). -/
def zoomBits (s : State) (t : Nat) (span : Nat × Nat) : Nat :=
  let rt := (s.wbSt (pairLead t)).zones.any fun z => z.bits == 8 && decide (z.first ≤ span.2) && decide (span.1 ≤ z.last)
  s.statusOf t span.1 span.2 ||| (if rt then 8 else 0)

/-- The stream samples about 256 u / 5 - 3072, each with its tap of the bank's 6145, which are scaled to a gain of 1 at the
band centre (R236, R237). -/
def bankTerms (u : Nat) : List (Int × Rat) :=
  let at_ : Int := 256 * (u : Int) - 15360
  let lo := (at_ - 15360 + 4) / 5
  let taps := (List.range 6145).filterMap fun (i : Nat) =>
    let d := (at_ - 5 * (lo + i)).natAbs
    if 15360 < d then none else some (lo + i, Config.bankTap d)
  let sum := ratSum (taps.map (·.2))
  taps.map fun e => (e.1, ratio 177 (u % 5) e.2 sum)

/-- Band sample `u` of band `b` of the stream `x` (R236, R237): the stream mixed with the band's centre, whose phase is
counted from stream sample 0 (DEDUCED, assumption log), and filtered. -/
def bandSample (x : Nat → Int × Int) (b u : Nat) : Cx :=
  cxSum ((bankTerms u).map fun e =>
    if e.1 < 0 then (0, 0) else cxScale e.2 (turnBack 6 ((b + 32) * e.1.toNat) (toCx (x e.1.toNat))))

/-- FREQ at band sample `u` of a run (R253). -/
def freqAt (freqs : List (Nat × Int)) (u : Nat) : Nat :=
  let f : Int := ((freqs.find? fun e => decide (e.1 ≤ u)).map (·.2)).getD 0
  (f % 2 ^ 48).toNat

/-- Band sample `u` shifted by the channel's oscillator, whose phase is FREQ * u in 2^-48 turns (R241, R242), and rounded;
`chan`'s mixer adds spurs and noise 120 dB or more below full scale (R243). -/
def mixedSample (x : Nat → Int × Int) (chan band : Nat) (freqs : List (Nat × Int)) (u : Nat) : Int × Int :=
  let z := turnBack 48 (freqAt freqs u * u) (bandSample x band u)
  let e := Config.mixerNoise chan u
  let fix := fun (a b : Rat) => let r := a + within (59 / 10) b; rha r.num r.den
  (fix z.1 e.1, fix z.2 e.2)

/-- The weight of the sample `k` before an output in three moving averages of length `l` (R245): how many triples of
numbers below `l` sum to `k`. -/
def cascadeWeight (l k : Nat) : Int :=
  let tri := fun (m : Int) => if m < 0 then 0 else (m + 2) * (m + 1) / 2
  tri k - 3 * tri ((k : Int) - l) + 3 * tri ((k : Int) - 2 * l)

/-- Output `n` of the cascade of a run that started at band sample `uS` with zeros (R245, R246). -/
def cascade (l uS n : Nat) (mixed : Nat → Int × Int) : Int × Int :=
  (List.range (min (3 * (l - 1)) (n - uS) + 1)).foldl (fun a k =>
    let w := cascadeWeight l k
    (a.1 + w * (mixed (n - k)).1, a.2 + w * (mixed (n - k)).2)) (0, 0)

/-- An output as it leaves the decimator: its number, value, validity, and flags of R110 and R265. -/
structure ZoomOut where
  v : Nat
  i : Int
  q : Int
  valid : Bool
  bits : Nat
  j : Int

/-- Output `v` of run `r` of channel `n`, from the stream `x` with status `st` (R245, R246, R249), and how many of its
components saturated. -/
def zoomOut (s : State) (t n v : Nat) (r : ZoomRun) (x : Nat → Int × Int) (st : Nat) : ZoomOut × Nat :=
  let uS := r.uS
  let l := zoomL s.rdF t n
  let gain := s.rdF (zcB t n) R.ZC_n_GAIN_GAIN
  let shift := min 55 (s.rdF (zcB t n) R.ZC_n_DEC_SHIFT)
  let k := zoomN uS l v
  let valid := decide (3 * (l - 1) ≤ (v + 1) * l - 1)
  let c := cascade l uS k (mixedSample x (zoomKey t n) (s.rdF (zcB t n) R.ZC_n_CTRL_BAND) r.freqs)
  let yi := zoomScale gain shift c.1
  let yq := zoomScale gain shift c.2
  let sats := if valid then b2n yi.2 + b2n yq.2 else 0
  let sw := r.changes.any fun u => decide (u ≤ k) && decide (k ≤ u + 3 * (l - 1))
  ({ v := v, i := if valid then yi.1 else 0, q := if valid then yq.1 else 0, valid := valid
     bits := st ||| (if sw then 16 else 0) ||| (if sats = 0 then 0 else 256)
     j := zoomJ uS l v }, sats)

/-- The run in progress. -/
def ZoomSt.cur (q : ZoomSt) : ZoomRun := { uS := q.uS, runs := q.runs, changes := q.changes, freqs := q.freqs }

/-- A detector result goes to its register and to the ZOOM conditions (R259); a hit before stream sample 0 is placed there
(DESIGN CHOICE, assumption log). -/
def zoomResult (t n det : Nat) (f : Fld) (v : Int) (j : Int) (s : State) : State :=
  zoomConds t n det j.toNat v 0 (s.wrI (zcB t n) f v)

/-- The detectors take an output (R257, R258). -/
def zoomDetect (t n uS : Nat) (o : ZoomOut) (s : State) : State :=
  let q := s.zoom t n
  let p := (o.i * o.i + o.q * o.q).toNat
  let a := isqrt (p * 2 ^ 64) 60 0
  let sh := s.rdF (zcB t n) (if q.env < a then R.ZC_n_DET_ATT else R.ZC_n_DET_DEC)
  let env := if o.valid then (q.env + ((a : Int) - q.env) / (2 ^ sh : Nat)).toNat else q.env
  let better := o.valid && (decide (q.wValid = 0) || decide (q.wPk < p))
  let q := { q with
    env := env, wN := q.wN + 1
    wPk := if better then p else q.wPk, wPkV := if better then o.v else q.wPkV
    wSum := if o.valid then q.wSum + p else q.wSum, wValid := q.wValid + b2n o.valid }
  let s := s.modZoom t n fun _ => q
  let s := if o.valid then
      zoomResult t n 2 R.ZC_n_ENV_LEVEL (dbExact (((env * env : Nat) : Rat) / ((2 ^ 110 : Nat) : Rat))) o.j s
    else s
  let l := zoomL s.rdF t n
  let win := zoomWin s t n
  if (o.v + 1) % win ≠ 0 then s
  else
    let full : Rat := ((2 ^ 46 : Nat) : Rat)
    let pk := if q.wValid = 0 then -32768 else dbExact ((q.wPk : Rat) / full)
    let rms := if q.wValid = 0 then -32768 else dbCode ((q.wSum : Rat) / (q.wValid : Rat) / full)
    let s := s.modZoom t n fun q => { q with wN := 0, wPk := 0, wPkV := 0, wSum := 0, wValid := 0 }
    let pkV := if q.wValid = 0 then o.v + 1 - win else q.wPkV
    let s := zoomResult t n 0 R.ZC_n_PEAK_LEVEL pk (zoomJ uS l pkV) s
    zoomResult t n 1 R.ZC_n_RMS_LEVEL rms (zoomJ uS l ((o.v + 1 - win + o.v) / 2)) s

/-- An output's sample word (R260, R301). -/
def zoomWord (o : ZoomOut) (gap repaired : Bool) : PortWord :=
  { i := o.i, q := o.q, j := o.j
    tags := b2n o.valid + 2 * b2n (bit o.bits 4) + 4 * b2n (bit o.bits 3) + 8 * b2n (decide (o.v = 0)) + 16 * b2n gap
      + 32 * b2n repaired + 64 * (o.bits % 8) + 512 * b2n (bit o.bits 7) }

/-- An output goes to the channel's core, or is discarded (R260, R261, R315). -/
def zoomFeed (t n : Nat) (o : ZoomOut) (s : State) : State :=
  let c := s.rd (zcB t n) R.ZC_n_ROUTE_CORE
  if 132 ≤ c then s
  else
    match liveArrive t c (s.rd (zcB t n) R.ZC_n_ROUTE_PORT) (zoomWord o (s.zoom t n).gap false) s with
    | some s => s.modZoom t n fun q => { q with gap := false }
    | none =>
      let buffered := s.onC t c R.CORE_c_STATUS_REPLAY || s.onC t c R.CORE_c_STATUS_CATCHUP
      (((s.inc (zcB t n) R.ZC_n_DROP_DROPPED).wr (zcB t n) R.ZC_n_STATUS_DROP 1).modZoom t n fun q => { q with
        gap := true }).raiseIf buffered (101 + 8 * t) c

/-- The block that output `o` opens. -/
def zoomOpen (s : State) (t n : Nat) (o : ZoomOut) : ZoomBlock :=
  { first := o.v, sts := s.sampleSts (inputOf t) o.j, fmt := s.onF (zcB t n) R.ZC_n_OUT_FMT
    shift := min 8 (s.rdF (zcB t n) R.ZC_n_OUT_SHIFT), blk := max 8 (min 16 (s.rdF (zcB t n) R.ZC_n_OUT_BLK)) }

/-- A block with output `o` added (R265). -/
def zoomAppend (b : ZoomBlock) (o : ZoomOut) (edge : Bool) : ZoomBlock :=
  { b with
    data := b.data ++ [(o.i, o.q)]
    invalid := if !o.valid && decide (b.invalid = b.data.length) then b.invalid + 1 else b.invalid
    flags := b.flags ||| o.bits ||| (if o.valid then 0 else 1024) ||| (if o.v = 0 then 2048 else 0)
      ||| (if edge then 8192 else 0) }

/-- An output goes to the channel's block in memory (R263). -/
def zoomStore (t n : Nat) (o : ZoomOut) (s : State) : State :=
  if !s.onF (zcB t n) R.ZC_n_OUT_MEM then s
  else
    let b := zoomAppend (((s.zoom t n).blk).getD (zoomOpen s t n o)) o (zoomEdge s t n)
    if 2 ^ b.blk ≤ b.data.length then zoomClose t n b 0 (s.modZoom t n fun q => { q with blk := none })
    else s.modZoom t n fun q => { q with blk := some b }

/-- Whether a switch point lies at or before the channel's next output, so that it comes first (R253). -/
def zoomBlocked (s : State) (t n k : Nat) : Bool :=
  ((s.zoom t n).sw.toList ++ (s.zoom t n).syncs).any fun p => decide (5 * p / 256 ≤ k)

/-- ZOOM_OUTPUT: the band samples of channel `n`'s next output have come, and it is emitted (R245 to R263). -/
def execZoomOutput (t : TDie) (n : Fin 128) (s : State) : Host.Outcome State Fault Refusal :=
  let q := s.zoom t n
  let l := zoomL s.rdF t n
  let span := zoomSpan q.uS l q.v
  if !(s.usableT t && q.run) || zoomBlocked s t n (zoomN q.uS l q.v) || decide (s.streamHead (inputOf t) ≤ span.2) then
    .next s
  else
    let (o, sats) := zoomOut s t n q.v q.cur (s.dieSample t) (zoomBits s t span)
    let s := if sats = 0 then s
      else (s.inc (chzB t) R.CHZ_SAT_COUNT_SATURATIONS sats).wr (zcB t n) R.ZC_n_STATUS_SAT 1
    let s := (s.modZoom t n fun q => { q with v := q.v + 1 }).wr (zcB t n) R.ZC_n_STATUS_PRIMING (b2n !o.valid)
    .next (zoomStore t n o (zoomFeed t n o (zoomDetect t n q.uS o s)))

/-- ZOOM_BLOCK_WRITTEN: the oldest closed block is in memory and line ZOOM pulses; with fewer than two slots nothing is
written and RING_SMALL sets (R263, R264). -/
def execZoomBlockWritten (t : TDie) (n : Fin 128) (s : State) : Host.Outcome State Fault Refusal :=
  match (s.zoom t n).closed with
  | [] => .next s
  | (i, size, bytes) :: r =>
    let s := s.modZoom t n fun q => { q with closed := r }
    let nb := s.rd (zcB t n) R.ZC_n_RING_SIZE_SIZE * 1024 / size
    if nb < 2 then .next (s.wr (zcB t n) R.ZC_n_STATUS_RING_SMALL 1)
    else
      let s := s.setBytes (hubOf s t) (s.rd (zcB t n) R.ZC_n_RING_BASE_BASE * 2 ^ 20 + i % nb * size) bytes
      let s := s.wrs (zcB t n) [(R.ZC_n_STATUS_RING_SMALL, 0),
        (R.ZC_n_BLOCKS_BLOCKS, (s.rd (zcB t n) R.ZC_n_BLOCKS_BLOCKS + 1) % 2 ^ 32)]
      .next (s.pulse (hubOf s t) (0x6000 + 128 * (t % 2) + n))

/-! Faults and repair (R266, R267). -/

/-- Whether channel `n` is free: not enabled, nothing pending, and not failed (R267). -/
def zoomFree (s : State) (t n : Nat) : Bool :=
  !s.onL (zcB t n) R.ZC_n_CTRL_EN && !s.onF (zcB t n) R.ZC_n_CTRL_EN
    && !s.on (chzB t) (zoomMap R.CHZ_PENDING_k_PENDING n) && !(s.zoom t n).failed

/-- The planner moves the settings of channel `n` to channel `m` at the next switch point. -/
def zoomMove (t n m : Nat) (s : State) : State :=
  let p := if streamRuns s t then some (((s.zoom t n).sw).getD (zoomSwitchPoint s t)) else none
  let cp := fun (tab : Tbl Word) => (List.range 10).foldl (fun (x : Tbl Word) i =>
    tset resetOf x (zcB t m + zcLo + 4 * i) (tget resetOf tab (zcB t n + zcLo + 4 * i))) tab
  let s := { s with regs := cp s.regs, live := (List.range 7).foldl (fun (x : Tbl Word) i =>
    tset resetOf x (zcB t m + zcLo + 4 * i) (tget resetOf s.live (zcB t n + zcLo + 4 * i))) s.live }
  let s := s.mapPlaces fun z =>
    if z.die.val = t ∧ z.chan.val = n then { z with chan := Fin.ofNat 128 m } else z
  let s := (s.wr (zcB t n) R.ZC_n_CTRL_EN 0).wrL (zcB t n) R.ZC_n_CTRL_EN 0
  let s := s.wrs (chzB t) [(zoomMap R.CHZ_PENDING_k_PENDING n, 1), (zoomMap R.CHZ_PENDING_k_PENDING m, 1),
    (zoomMap R.CHZ_DIRTY_k_DIRTY n, 0), (zoomMap R.CHZ_DIRTY_k_DIRTY m, 0)]
  let no := (s.zoom t n).blkNo
  ((s.inc (chzB t) R.CHZ_SWITCH_COUNT_SWITCHES 2).modZoom t n fun q => { q with
    sw := p, waitSw := p.isNone, movedTo := some m, old := q.cur }).modZoom t m fun q =>
    { q with sw := p, waitSw := p.isNone, blkNo := no }

/-- ZOOM_CHANNEL_FAULT: a FAULT event; the planner moves the channel when it places the repair (R267, R354, R355). -/
def execZoomChannelFault (t : TDie) (n : Fin 128) (s : State) : Host.Outcome State Fault Refusal :=
  .next (if s.usableT t && !(s.zoom t n).failed then
    (s.raise (99 + 8 * t) n).modZoom t n fun q => { q with failed := true }
  else s)

/-- Whether the replay in progress on die `t`'s hub is that of its replay path: for a core, or for a zoom channel (R266). -/
def zoomReplay (s : State) (t : Nat) : Bool :=
  match (s.repairSt (hubOf s t)).active with
  | some f => (repairKind f.source).any fun k => decide (k.1 ≠ 0) && decide (k.2 = t)
  | none => false

/-- REPLAY_REBUILD: the die's replay path rebuilds output `v` of channel `n` from the samples in the Tarn and delivers it
with REPAIRED: to the spare core that takes replayed words, or into a rebuilt block (R266, R267). A sample that the Tarn
no longer holds reads as zero and counts as an overrun (R175). `last` closes the rebuilt block. -/
def execReplayRebuild (t : TDie) (n : Fin 128) (v : Nat) (last : Bool) (s : State) : Host.Outcome State Fault Refusal :=
  let q := s.zoom t n
  let r := if q.movedTo.isSome then q.old else q.cur
  let span := zoomSpan r.uS (zoomL s.rdF t n) v
  let l := pairLead t
  if !(s.usableT t && zoomReplay s t) then .next s
  else
    let (o, _) := zoomOut s t n v r (tarnRead s l) (zoomBits s (s.recSt l).tarn.src span)
    let s := replayCount l (tarnHolds s l span.1 span.2) s
    let c := s.rd (zcB t n) R.ZC_n_ROUTE_CORE
    if q.movedTo.isSome then
      let b := zoomAppend (q.rebuilt.getD (zoomOpen s t n o)) { o with bits := o.bits ||| 64 } (zoomEdge s t n)
      if last || decide (2 ^ b.blk ≤ b.data.length) then
        .next (zoomClose t n b (if b.data.length < 2 ^ b.blk then 32 else 0)
          (s.modZoom t n fun q => { q with rebuilt := none }))
      else .next (s.modZoom t n fun q => { q with rebuilt := some b })
    else if decide (c < 132) && s.onC t c R.CORE_c_STATUS_REPLAY then
      let p := s.rd (zcB t n) R.ZC_n_ROUTE_PORT
      if 64 ≤ (tget noWords (s.core t c).inp p).length then .next s
      else .next (portPut t c p (zoomWord o false true) s)
    else .next s

end Sys2Proof.Machine
end

