-- ==== Sys2Proof/Machine/Dens.lean ====
section
/-! DEFINITION. Density maps and spectrograms (chapter 6). -/

namespace Sys2Proof.Machine

def dDens : Nat → DensSt := fun _ => {}
def State.densSt (s : State) (l : Nat) : DensSt := tget dDens s.dens l
def State.modDens (s : State) (l : Nat) (f : DensSt → DensSt) : State :=
  { s with dens := tset dDens s.dens l (f (s.densSt l)) }

/-! Geometry (R204 to R206), read from the live or the in-force registers by `rd`. -/

/-- Bins FIRST and LAST, LAST clipped to N - 1. -/
def densFirst (rd : Nat → Fld → Nat) (l : Nat) : Nat := rd (densB l) R.DENS_BINS_FIRST
def densLast (rd : Nat → Fld → Nat) (l n : Nat) : Nat := min (n - 1) (rd (densB l) R.DENS_BINS_LAST)

/-- Columns before and after the limit of R205, and rows (R204). -/
def densW0 (rd : Nat → Fld → Nat) (l : Nat) : Nat := max 64 (min 4096 (rd (densB l) R.DENS_GEOM_W))
def densW (rd : Nat → Fld → Nat) (l n : Nat) : Nat := min (densW0 rd l) (densLast rd l n + 1 - densFirst rd l)
def densH (rd : Nat → Fld → Nat) (l : Nat) : Nat :=
  min (max 16 (min 1024 (rd (densB l) R.DENS_GEOM_H))) (2097152 / densW0 rd l)

/-- Whether a geometry limit acts (R204, R205). -/
def densClamped (rd : Nat → Fld → Nat) (l n : Nat) : Bool :=
  let w := rd (densB l) R.DENS_GEOM_W
  let h := rd (densB l) R.DENS_GEOM_H
  decide (w ≠ densW0 rd l) || decide (h ≠ densH rd l) || decide (densW rd l n ≠ densW0 rd l)

/-- The row of a level before limits (R206). -/
def levelRow (s : State) (l : Nat) (v : Int) : Int :=
  (s.rdFI (densB l) R.DENS_LEVEL_TOP - v) / (max 1 (s.rdF (densB l) R.DENS_LEVEL_STEP) : Nat)

/-- The pipelines of an overlap (R103) and the updates a die has time for in a spectrum (R209). -/
def densBudget (s : State) (l : Nat) : Nat :=
  if s.wbOverlap l = 3 then s.wbN l else 4 * s.wbN l / 2 ^ s.wbOverlap l

/-- Every how many spectra one is counted (R209). -/
def densEvery (s : State) (l : Nat) : Nat :=
  let n := s.wbN l
  let w := densW s.rdF l n
  let worst := match s.rdF (densB l) R.DENS_CTRL_COLMODE with
    | 1 => densLast s.rdF l n + 1 - densFirst s.rdF l
    | 2 => w * (1 + s.rdF (densB l) R.DENS_CTRL_FILLMAX)
    | _ => w
  max 1 ((worst + densBudget s l - 1) / max 1 (densBudget s l))

/-- Whether spectra of the input arrive. -/
def spectraRun (s : State) (l : Nat) : Bool := s.onF (wbB l) R.WB_CTRL_EN && (s.wbSt l).running

/-- Whether the partner die computes spectra of the input (R104, R223, R353). -/
def partnerCounts (s : State) (l : Nat) : Bool :=
  s.usableT (l + 1) && (decide (s.wbOverlap l = 3) || s.rd (wbB l) R.WB_PIPE_MAP_PARTNER != 0)

/-- DENS_STATUS.RUN, DECIM and EVERY follow the setting in force; a partner die's while it computes spectra (R223). -/
def densShow (l : Nat) (s : State) : State :=
  let e := densEvery s l
  let run := s.onF (densB l) R.DENS_CTRL_EN && spectraRun s l
  let show_ := fun t on (s : State) => s.wrs (densB t) [(R.DENS_STATUS_RUN, b2n (run && on)),
    (R.DENS_STATUS_DECIM, b2n (on && decide (1 < e))), (R.DENS_STATUS_EVERY, if on then min 255 e else 1)]
  let s := show_ l true s
  if s.hasT (l + 1) then show_ (l + 1) (partnerCounts s l) s else s

/-! Counting (R206 to R210). -/

/-- The rows that column `c` adds: its own points, then its filled ones (R207). `prev` and `cur` are the clamped rows
of the highest level of columns c - 1 and c. -/
def fillRows (prev cur maxN : Nat) : List Nat :=
  if prev < cur then (List.range (min maxN (cur - 1 - prev))).map fun i => cur - 1 - i
  else (List.range (min maxN (prev - 1 - cur))).map fun i => cur + 1 + i

/-- The points that a spectrum with levels `lv` increments, each as often as it does (R207). -/
def specPoints (s : State) (l : Nat) (lv : List Int) : List Nat :=
  let n := lv.length
  let w := densW s.rdF l n
  let h := densH s.rdF l
  let first := densFirst s.rdF l
  let nb := densLast s.rdF l n + 1 - first
  let clip := s.onF (densB l) R.DENS_CTRL_CLIP
  let mode := s.rdF (densB l) R.DENS_CTRL_COLMODE
  let col := fun c => (lv.drop (first + c * nb / w)).take ((c + 1) * nb / w - c * nb / w)
  let rowOf := fun (v : Int) => levelRow s l v
  let counts := fun (r : Int) => clip || (decide (0 ≤ r) && decide (r < h))
  let lim := fun (r : Int) => (clampI 0 (h - 1 : Nat) r).toNat
  let top := fun c => rowOf ((col c).foldl max (-32768))
  (List.range w).flatMap fun c =>
    if mode = 1 then ((col c).filterMap fun v => if counts (rowOf v) then some (lim (rowOf v) * w + c) else none)
    else
      let own := if counts (top c) then [lim (top c) * w + c] else []
      if mode = 2 ∧ 0 < c then
        own ++ (fillRows (lim (top (c - 1))) (lim (top c)) (s.rdF (densB l) R.DENS_CTRL_FILLMAX)).map fun r => r * w + c
      else own

/-- Add `n` to a count, which holds at 65,535 (R208). -/
def countAdd (m : Tbl Nat) (k n : Nat) : Tbl Nat := tset noNat m k (min 65535 (tget noNat m k + n))

/-- Add one table of counts to another. -/
def countsAdd (m p : Tbl Nat) : Tbl Nat := p.foldl (fun m e => countAdd m e.1 e.2) m

/-- Whether a count reaches 65,535 between two tables (R208). -/
def satReached (m m' : Tbl Nat) : Bool := m'.any fun e => e.2 == 65535 && tget noNat m e.1 != 65535

/-- A count that has reached 65,535 sets DENS_STATUS.SAT of its die (R208). -/
def satShow (t : Nat) (hit : Bool) (s : State) : State := if hit then s.wr (densB t) R.DENS_STATUS_SAT 1 else s

/-- The decay of a count at the end of a frame (R212). -/
def decay (mode k step c : Nat) : Nat :=
  match mode with
  | 0 => 0
  | 1 => c - (c + 2 ^ k - 1) / 2 ^ k
  | 2 => c - step
  | _ => c

def decayAll (s : State) (l : Nat) (m : Tbl Nat) : Tbl Nat :=
  let f := decay (s.rdF (densB l) R.DENS_DECAY_MODE) (max 1 (s.rdF (densB l) R.DENS_DECAY_K))
    (s.rdF (densB l) R.DENS_DECAY_STEP)
  (m.map fun e => (e.1, f e.2)).filter fun e => e.2 != 0

/-! Frames (R211 to R215, R220, R221). -/

/-- F and R with 0 as 1. -/
def densF (s : State) (l : Nat) : Nat := max 1 (s.rdF (densB l) R.DENS_FRAME_SPECTRA)
def densR (s : State) (l : Nat) : Nat := max 1 (s.rdF (densB l) R.DENS_SG_SPECTRA_R)

/-- The palette index of a count: how many entries T[1] to T[255] it reaches (R215). -/
def mapIndex (tab : List Nat) (c : Nat) : Nat := (tab.filter fun t => decide (t ≤ c)).length

/-- Pad to a multiple of 64 bytes with zeros (R220). -/
def pad64 (l : List Byte) : List Byte := l ++ List.replicate (ceilTo 64 l.length - l.length) 0

/-- The item of a frame, taken from the counts (R215, R220). -/
def frameBytes (s : State) (l : Nat) (fr : DensFrame) (counts : Tbl Nat) : List Byte :=
  let w := densW s.rdF l (s.wbN l)
  let h := densH s.rdF l
  let c16 := s.onF (densB l) R.DENS_OUT_FORMAT
  let tab := (List.range 255).map fun i => (tget tabReset s.tabF (densKey l (i + 1))).toNat
  let hdr := leBytes 1 (if c16 then 0x42 else 0x40) ++ leBytes 1 (inputOf l) ++ leBytes 2 fr.flags ++ leBytes 2 w
    ++ leBytes 2 h ++ leBytes 12 fr.sts ++ leBytes 8 fr.first ++ leBytes 4 fr.count
  let body := (List.range (w * h)).flatMap fun k =>
    let c := tget noNat counts k
    if c16 then leBytes 2 c else leBytes 1 (mapIndex tab c)
  pad64 (hdr ++ body)

def densNbuf (s : State) (l : Nat) : Nat := max 2 (min 4 (s.rdF (densB l) R.DENS_OUT_NBUF))

/-- The first sample's time of spectrum `idx` of the wide-band setting in force. -/
def specSts (s : State) (l idx : Nat) : Nat := s.sampleSts (inputOf l) ((s.wbSet l).startOf idx)

/-- Frame number `f` of the setting, before any spectrum of it has come (R211). With none counted, its STS is that of its
first spectrum (DESIGN CHOICE, assumption log). -/
def newFrame (s : State) (l f : Nat) : DensFrame :=
  let first := (s.densSt l).mS + f * densF s l
  { f := f, first := first, sts := specSts s l first }

/-- Table `k` of counts: 0 is that of the oldest frame not yet taken, and table k + 1 follows the frame `ended[k]`. -/
def DensSt.setTab (q : DensSt) (k : Nat) (g : Tbl Nat → Tbl Nat) : DensSt :=
  if k = 0 then { q with counts := g q.counts }
  else { q with ended := q.ended.zipIdx.map fun e => if e.2 + 1 = k then (e.1.1, g e.1.2) else e.1 }
def DensSt.tabAt (q : DensSt) (k : Nat) : Tbl Nat :=
  if k = 0 then q.counts else ((q.ended[k - 1]?).map (·.2)).getD []

/-- Change table `k`; a count that reaches 65,535 sets STATUS.SAT (R208). -/
def densAdd (l k : Nat) (g : Tbl Nat → Tbl Nat) (s : State) : State :=
  let m := (s.densSt l).tabAt k
  satShow l (satReached m (g m)) (s.modDens l fun q => q.setTab k g)

/-- The oldest ended frame is taken from the counts as they stand, then the decay is applied and the counts that came
after it are added (R212). `extra` are flags of the moment; the first frame after a clear carries CLEARED (R213). -/
def takeFrame (l extra : Nat) (s : State) : State :=
  let q := s.densSt l
  match q.ended with
  | [] => s
  | (fr, next) :: rest =>
    let sat := q.counts.any fun e => e.2 == 65535
    let fr := { fr with flags := fr.flags ||| extra ||| (if sat then 256 else 0) ||| (if 1 < densEvery s l then 1024 else 0)
      ||| (if fr.seen < densF s l then 32 else 0) ||| (if q.cleared then 2048 else 0) }
    let bytes := frameBytes s l fr q.counts
    let o : DensOut := { n := fr.f, first := fr.first, bytes := bytes
                         addr := s.rdF (densB l) R.DENS_MAP_BASE_BASE * 2 ^ 20 + fr.f % densNbuf s l * bytes.length }
    let decayed := decayAll s l q.counts
    let counts := countsAdd decayed next
    satShow l (satReached decayed counts) (s.modDens l fun q => { q with
      counts := counts, ended := rest, cleared := false
      frames := if s.onF (densB l) R.DENS_CTRL_MAP_EN then q.frames ++ [o] else q.frames })

/-- Every frame at the head of those that have ended is taken once no counts of it are to come; `fuel` bounds their
number. -/
def takeReady (l : Nat) : (fuel : Nat) → State → State
  | 0, s => s
  | n + 1, s =>
    match (s.densSt l).ended with
    | (fr, _) :: _ => if fr.whole then takeReady l n (takeFrame l 0 s) else s
    | [] => s

/-- Partner counts of a frame reach the lead die's (R223). -/
def mergePart (fr : DensFrame) (p : DensPart) : DensFrame :=
  { fr with count := fr.count + p.frame.count, seen := fr.seen + p.frame.seen, whole := true
            flags := fr.flags ||| p.frame.flags ||| (if p.frame.count = 0 then 0 else 512)
            sts := if p.frame.count = 0 then fr.sts else if fr.count = 0 then p.frame.sts else min fr.sts p.frame.sts }

/-- Counts of the partner die arrive: into their own frame, if it waits for them, or late into the next one to be taken
(R223). -/
def mergeArrive (l : Nat) (s : State) (p : DensPart) : State :=
  match (s.densSt l).ended.zipIdx.find? fun e => e.1.1.first == p.frame.first && !e.1.1.whole with
  | some e =>
    let s := (densAdd l e.2 (countsAdd · p.counts) s).modDens l fun q => { q with
      ended := q.ended.zipIdx.map fun x => if x.2 = e.2 then (mergePart x.1.1 p, x.1.2) else x.1 }
    takeReady l (s.densSt l).ended.length s
  | none =>
    let fl := fun (fr : DensFrame) => if p.frame.count = 0 then fr else { fr with flags := fr.flags ||| 512 }
    (densAdd l 0 (countsAdd · p.counts) (s.inc (densB l) R.DENS_LATE_COUNT_LATE)).modDens l fun q =>
      match q.ended with
      | [] => { q with frame := fl q.frame }
      | e :: r => { q with ended := (fl e.1, e.2) :: r }

/-- The spectra of the frame in progress have ended: it waits for the partner die's counts if that sends any, or is taken
(R212, R223). -/
def endFrame (l : Nat) (s : State) : State :=
  let q := s.densSt l
  let both := partnerCounts s l || decide (q.pframe.seen ≠ 0)
  let part : DensPart := { frame := { q.pframe with f := q.frame.f, first := q.frame.first }, counts := q.partner }
  let next := newFrame s l (q.frame.f + 1)
  let s := s.modDens l fun q => { q with
    ended := q.ended ++ [({ q.frame with whole := !both }, [])]
    sent := if both then q.sent ++ [part] else q.sent
    frame := next, pframe := {}, partner := [] }
  takeReady l (s.densSt l).ended.length s

/-- End every frame whose spectra all have an index below `e` (R211, R212); `fuel` bounds their number. -/
def endFrames (l e : Nat) : (fuel : Nat) → State → State
  | 0, s => s
  | n + 1, s => if (s.densSt l).frame.first + densF s l ≤ e then endFrames l e n (endFrame l s) else s

/-! Rows (R216 to R218). -/

/-- Group the bins of a row (R217). -/
def rowGroup (mode : Nat) (g : List (Rat × Int)) : Int :=
  match g with
  | [] => -32768
  | x :: r =>
    match mode with
    | 0 => dbCode (r.foldl (fun m y => if m < y.1 then y.1 else m) x.1)
    | 2 => rha (g.foldl (fun m y => m + y.2) 0) g.length
    | 3 => x.2
    | 4 => dbCode (r.foldl (fun m y => if y.1 < m then y.1 else m) x.1)
    | _ => dbCode (g.foldl (fun m y => m + y.1) 0 / (g.length : Rat))

/-- Cut a list into groups of `k`; `fuel` bounds their number. -/
def chunks {α : Type} (k : Nat) : (fuel : Nat) → List α → List (List α)
  | 0, _ => []
  | f + 1, l => if l.isEmpty then [] else l.take k :: chunks k f (l.drop k)

/-- The spectrogram settings in force. -/
def State.sgSet (s : State) (l : Nat) : SgSet :=
  let m := s.rdF (densB l) R.DENS_SG_CTRL_DET
  { r := densR s l, det := if 5 ≤ m then 1 else m, cdec := s.rdF (densB l) R.DENS_SG_CTRL_CDEC
    index8 := s.onF (densB l) R.DENS_SG_CTRL_FORMAT, skip := s.onF (densB l) R.DENS_SG_CTRL_SKIPF
    first := s.rdF (densB l) R.DENS_SG_BINS_FIRST, last := s.rdF (densB l) R.DENS_SG_BINS_LAST
    floor := s.rdFI (densB l) R.DENS_SG_IDX_FLOOR, step := max 1 (s.rdF (densB l) R.DENS_SG_IDX_STEP)
    base := s.rdF (densB l) R.DENS_SG_BASE_BASE * 2 ^ 20, rows := max 1 (s.rdF (densB l) R.DENS_SG_ROWS_ROWS) }

/-- The row width ceil(nb / G) at `n` points (R217). -/
def SgSet.width (g : SgSet) (n : Nat) : Nat := (min (n - 1) g.last + 1 - g.first + 2 ^ g.cdec - 1) / 2 ^ g.cdec

/-- The levels of a row (R217); -128 dB in every group where no spectrum contributed (DESIGN CHOICE, assumption log). -/
def SgSet.levels (g : SgSet) (n : Nat) (d : Det) : List Int :=
  if d.n = 0 then List.replicate (g.width n) (-32768)
  else
    let r := detResult g.det d
    let bins := ((r.pw.zip r.lv).drop g.first).take (min (n - 1) g.last + 1 - g.first)
    (chunks (2 ^ g.cdec) bins.length bins).map (rowGroup g.det)

/-- A row point as stored (R218). -/
def SgSet.point (g : SgSet) (v : Int) : List Byte :=
  if g.index8 then leBytes 1 (clampI 0 255 ((v - g.floor) / (g.step : Nat))).toNat else leBytes 2 (enc 16 v)

/-- The item of a row of input `inp` with levels `lv` (R220). -/
def SgSet.bytes (g : SgSet) (inp flags sts first count : Nat) (lv : List Int) : List Byte :=
  pad64 (leBytes 1 (if g.index8 then 0x43 else 0x41) ++ leBytes 1 inp ++ leBytes 2 flags ++ leBytes 2 lv.length
    ++ leBytes 2 (g.det + 16 * g.cdec) ++ leBytes 12 sts ++ leBytes 8 first ++ leBytes 4 count ++ lv.flatMap g.point)

/-- Slot address of row `j` of `size` bytes (R220). -/
def SgSet.addr (g : SgSet) (j size : Nat) : Nat := g.base + j % g.rows * size

/-- Whether the spectrogram leaves a spectrum with these flags out (R210, R216). -/
def SgSet.skips (g : SgSet) (flags : Nat) : Bool := g.skip && flags &&& (16 ||| 8 ||| 128) != 0

/-- OVR, SETTLE, UNCAL, RETUNE, SWITCH and LOST of a row's or frame's spectra (R221). -/
def densFlags (flags : Nat) : Nat := flags % 32 ||| (flags / 128 % 2 * 128)

/-- The row in progress, which asks for `n` spectra, ends and is taken (R216, R224, R226). An `n` below R is that of a row a
setting cuts short. -/
def endRow (l n : Nat) (s : State) : State :=
  let q := s.densSt l
  let g := s.sgSet l
  let d := detJoin g.det q.row.det q.row.pdet
  let first := q.mS + q.row.j * g.r
  let fl := densFlags d.flags ||| (if q.row.pdet.n ≠ 0 then 512 else 0)
    ||| (if n < g.r ∨ q.row.seen < n then 32 else 0)
  let bytes := g.bytes (inputOf l) fl (specSts s l first) first d.n (g.levels (s.wbN l) d)
  let a := g.addr q.row.j bytes.length
  let lack : DensLack := { j := q.row.j, first := first, n := n, set := s.wbSet l, sg := g, addr := a, size := bytes.length }
  let s := s.modDens l fun q => { q with row := { j := q.row.j + 1 } }
  if s.onF (densB l) R.DENS_CTRL_SG_EN then
    s.modDens l fun x => { x with
      rows := x.rows ++ [{ n := q.row.j, first := first, addr := a, bytes := bytes }]
      lacking := if q.row.seen < n then x.lacking ++ [lack] else x.lacking }
  else s

/-- End every row whose spectra all have an index below `e` (R216); `fuel` bounds their number. -/
def endRows (l e : Nat) : (fuel : Nat) → State → State
  | 0, s => s
  | n + 1, s =>
    let r := densR s l
    if (s.densSt l).mS + ((s.densSt l).row.j + 1) * r ≤ e then endRows l e n (endRow l r s) else s

/-- Every spectrum with an index below `e` has come or never will: frames and rows that end there are taken (R211,
R216). -/
def densAdvance (l e : Nat) (s : State) : State :=
  let q := s.densSt l
  if q.fresh || !s.onF (densB l) R.DENS_CTRL_EN then s
  else endRows l e ((e - q.mS) / densR s l + 1) (endFrames l e ((e - q.mS) / densF s l + 1) s)

/-! Settings that take effect (R228 to R230). -/

/-- The frame and the row in progress close before spectrum `e`, each with PARTIAL and a count if one of its spectra lies
before `e` (R228); counts of the partner die that are on their way come in, and every frame is taken (DESIGN CHOICE for
the frames that have ended before, assumption log). -/
def densClose (l e : Nat) (s : State) : State :=
  let s := densAdvance l e s
  let q := s.densSt l
  if q.fresh || !s.onF (densB l) R.DENS_CTRL_EN then s.modDens l fun q => { q with fresh := true, after := .none }
  else
    let one := fun (b : Bool) (s : State) => if b then s.inc (densB l) R.DENS_PARTIAL_COUNT_PARTIALS else s
    let r := q.mS + q.row.j * densR s l
    let s := if r < e then endRow l (e - r) (one true s) else s
    let s := if q.frame.first < e then endFrame l (one true s) else s
    let s := (s.densSt l).sent.foldl (mergeArrive l) (s.modDens l fun q => { q with sent := [] })
    let s := s.modDens l fun q => { q with ended := q.ended.map fun x => ({ x.1 with whole := true }, x.2) }
    (takeReady l (s.densSt l).ended.length s).modDens l fun q => { q with
      fresh := true, after := .none, row := {}, frame := {}, pframe := {} }

/-- Every count goes to zero; the next frame taken carries CLEARED (R213, R229). -/
def densClear (l : Nat) (s : State) : State :=
  s.modDens l fun q => { q with
    counts := [], ended := q.ended.map fun x => (x.1, []), partner := [], cleared := true }

/-- Whether the set about to take effect changes what R229 names. -/
def densChanges (s : State) (l : Nat) : Bool :=
  let b := densB l
  [R.DENS_GEOM_W, R.DENS_GEOM_H, R.DENS_BINS_FIRST, R.DENS_BINS_LAST, R.DENS_LEVEL_TOP, R.DENS_LEVEL_STEP,
    R.DENS_CTRL_CLIP, R.DENS_CTRL_COLMODE].any fun f => s.rdF b f != s.rdL b f

/-- The live DENS set comes into force at spectrum `e`, the first whose frame starts after sample `after`; PENDING clears
(R228, R229). -/
def densTakeEffect (l : Nat) (after : Option Nat) (e : Nat) (s : State) : State :=
  let clear := densChanges s l
  let s := densClose l e s
  let b := densB l
  let s := (((s.enforce b 0x4 0x8).enforce b 0x14 0x30).enforce b 0x3C 0x54).tabEnforce (densKey l 0) (densKey l 256)
  let s := if clear then densClear l s else s
  densShow l ((s.wr b R.DENS_SHADOW_PENDING 0).modDens l fun q => { q with handedAt := none, after := after })

/-- The first spectrum of the wide-band setting in force whose frame starts after sample `j`. -/
def firstAfter (s : State) (l j : Nat) : Nat :=
  let q := s.wbSet l
  if j < q.baseStart then q.baseIdx else q.baseIdx + (j - q.baseStart) / q.hop + 1

/-- A limit of R205 acts on a set of `n` points: CLAMP or BAD_RANGE. -/
def densRange (l n : Nat) (rd : Nat → Fld → Nat) (s : State) : State :=
  if densLast rd l n < densFirst rd l then s.wr (densB l) R.DENS_STATUS_BAD_RANGE 1 else s

/-- A WB switch, which has closed the frame and the row, clears the counts if it changes LOG2N or TUNE (R230); at its N a
limit of R205 may act anew. -/
def densWbSwitch (l : Nat) (changed : Bool) (s : State) : State :=
  let s := if changed then densClear l s else s
  let s := if densW s.rdF l (s.wbN l) < densW0 s.rdF l then s.wr (densB l) R.DENS_STATUS_CLAMP 1 else s
  densShow l (densRange l (s.wbN l) s.rdF s)

/-- The hand-over of the DENS set (R228). With no spectra arriving the set is in force at once. -/
def densHandOver (l : Nat) (s : State) : State :=
  let b := densB l
  let s := (((s.handOver b 0x4 0x8).handOver b 0x14 0x30).handOver b 0x3C 0x54).tabHandOver (densKey l 0) (densKey l 256)
  let n := 2 ^ clampLog2n (s.rdL (wbB l) R.WB_CTRL_LOG2N)
  let s := s.wrs b [(R.DENS_SHADOW_SHADOW_DIRTY, 0), (R.DENS_SHADOW_PENDING, 1)]
  let s := if densClamped s.rdL l n || (s.densSt l).rateClamp then s.wr b R.DENS_STATUS_CLAMP 1 else s
  let s := densRange l n s.rdL s
  let s := s.modDens l fun q => { q with handedAt := some (s.recvSample (inputOf l)), rateClamp := false }
  if spectraRun s l then s else densTakeEffect l .none (s.wbSt l).nextIdx s

/-- DENS_CMD.COMMIT (R227, R228). -/
def densCommit (l : Nat) (s : State) : State :=
  if !isLead l || !s.usableT l then s
  else if s.on (densB l) R.DENS_SHADOW_PENDING || s.on (densB l) R.DENS_SHADOW_HELD then
    s.wr (densB l) R.DENS_SHADOW_HELD 1
  else densHandOver l s

/-- DENS_CMD.REVERT (R227, R96). -/
def densRevert (l : Nat) (s : State) : State :=
  if !isLead l || !s.usableT l then s
  else
    let b := densB l
    ((((s.takeBack b 0x4 0x8).takeBack b 0x14 0x30).takeBack b 0x3C 0x54).tabTakeBack (densKey l 0) (densKey l 256)).wr
      b R.DENS_SHADOW_SHADOW_DIRTY 0

/-- DENS_COMMIT (R228). -/
def execDensCommit (t : TDie) (s : State) : Host.Outcome State Fault Refusal := .next (densCommit t s)

/-- DENS_REVERT (R227). -/
def execDensRevert (t : TDie) (s : State) : Host.Outcome State Fault Refusal := .next (densRevert t s)

/-- DENS_HELD_HANDOVER (R228, R94). -/
def execDensHeldHandover (t : TDie) (s : State) : Host.Outcome State Fault Refusal :=
  .next (if s.on (densB t) R.DENS_SHADOW_HELD && !s.on (densB t) R.DENS_SHADOW_PENDING then
    densHandOver t (s.wr (densB t) R.DENS_SHADOW_HELD 0) else s)

/-- DENS_CLEAR: a write of 1 to DENS_CMD.CLEAR on the lead die (R213). -/
def execDensClear (t : TDie) (s : State) : Host.Outcome State Fault Refusal :=
  .next (if isLead t && s.usableT t then densClear t s else s)

/-- DENS_ENABLE: EN of the set handed over is 1 where it was 0: the next spectrum becomes m_S (R231). -/
def execDensEnable (t : TDie) (s : State) : Host.Outcome State Fault Refusal :=
  .next (if isLead t && s.onL (densB t) R.DENS_CTRL_EN && !s.onF (densB t) R.DENS_CTRL_EN then
    match (s.densSt t).handedAt with
    | some j => densTakeEffect t (some j) (firstAfter s t j) s
    | none => s
  else s)

/-- The map-table data port (R215, R227, DENS_TAB_ADDR): ENTRY 0 acts as 1 and steps on from 255 to 1; a partner die
reads the lead die's live entry. -/
def densTabAccess (t : Nat) (write : Option Word) (s : State) : State :=
  let b := densB t
  let i := max 1 (s.rd (densB (pairLead t)) R.DENS_TAB_ADDR_ENTRY)
  let k := densKey (pairLead t) i
  if !isLead t then
    match write with
    | some _ => s
    | none => { s with readData := tget tabReset s.tabL k }
  else
    let s := match write with
      | some v => ({ s with tabS := tset tabReset s.tabS k (v &&& 0xFFFF) } : State).wr b R.DENS_SHADOW_SHADOW_DIRTY 1
      | none => { s with readData := tget tabReset (if s.on b R.DENS_SHADOW_VIEW then s.tabL else s.tabS) k }
    s.wr b R.DENS_TAB_ADDR_ENTRY (if i = 255 then 1 else i + 1)

/-- DENS_TAB_DATA_ACCESS (R215). -/
def execDensTabDataAccess (t : TDie) (write : Option (BitVec 16)) (s : State) : Host.Outcome State Fault Refusal :=
  .next (if s.hasT t then densTabAccess t (write.map (·.setWidth 32)) s else s)

/-! A spectrum (R207, R210, R216). -/

/-- A frame counts a spectrum or leaves it out: the frame after it, the points it adds, and whether R209 leaves it out
(R207, R209, R210). -/
def frameCount (s : State) (l : Nat) (i : SpecInfo) (first : Nat) (fr : DensFrame) : DensFrame × List Nat × Bool :=
  let out := decide ((i.idx - first) % densEvery s l ≠ 0)
  let skip := s.onF (densB l) R.DENS_CTRL_SKIPF && i.flags &&& (16 ||| 8 ||| 128) != 0
  let fr := { fr with seen := fr.seen + 1 }
  if out || skip then (fr, [], out)
  else
    ({ fr with count := fr.count + 1, sts := if fr.count = 0 then i.sts else min fr.sts i.sts
               flags := fr.flags ||| densFlags i.flags },
      if densLast s.rdF l i.n < densFirst s.rdF l then [] else specPoints s l i.lv, false)

/-- Increment points. -/
def countPoints (pts : List Nat) (m : Tbl Nat) : Tbl Nat := pts.foldl (fun m k => countAdd m k 1) m

/-- A spectrum that R209 leaves out counts on its die. -/
def densSkip (t : Nat) (out : Bool) (s : State) : State := if out then s.inc (densB t) R.DENS_DECIM_COUNT_SKIPPED else s

/-- A spectrum is counted in the map of the die that computed it (R207, R209, R210, R223). -/
def densCount (i : SpecInfo) (s : State) : State :=
  let l := i.lead
  let q := s.densSt l
  if i.die = l then
    let r := frameCount s l i q.frame.first q.frame
    densAdd l q.ended.length (countPoints r.2.1) (densSkip l r.2.2 (s.modDens l fun q => { q with frame := r.1 }))
  else
    let r := frameCount s l i q.frame.first q.pframe
    satShow i.die (satReached q.partner (countPoints r.2.1 q.partner)) (densSkip i.die r.2.2 (s.modDens l fun q => { q with
      pframe := r.1, partner := countPoints r.2.1 q.partner }))

/-- A spectrum contributes to the row in progress on its die (R216, R224). -/
def sgCount (i : SpecInfo) (s : State) : State :=
  let l := i.lead
  let g := s.sgSet l
  let add := fun d => if g.skips i.flags then d else detJoin g.det d (i.det 0)
  s.modDens l fun q => { q with row :=
    if i.die = l then { q.row with seen := q.row.seen + 1, det := add q.row.det }
    else { q.row with seen := q.row.seen + 1, pdet := add q.row.pdet } }

/-- A spectrum reaches the density engine, in index order: a set handed over before its frame comes into force first, and
frames and rows that have ended before it are taken (R211, R216, R228, R231). -/
def densSpectrum (i : SpecInfo) (s : State) : State :=
  let l := i.lead
  let s := match (s.densSt l).handedAt with
    | some j => if j < i.start then densTakeEffect l (some j) (firstAfter s l j) s else s
    | none => s
  if !s.onF (densB l) R.DENS_CTRL_EN then s
  else
    let s := if (s.densSt l).fresh then
        let m := match (s.densSt l).after with | some j => firstAfter s l j | none => (s.wbSt l).baseIdx
        let s := s.modDens l fun q => { q with fresh := false, after := none, mS := min m i.idx, pframe := {}, row := {} }
        let fr := newFrame s l 0
        s.modDens l fun q => { q with frame := fr }
      else s
    sgCount i (densCount i (densAdvance l i.idx s))

/-- A recomputed spectrum `i`, on lead die `l`: counted in its own frame if that has not been taken, and in its row if that
has not ended; otherwise the frame is left as it is and LATE_COUNT steps (R225, R226). -/
def densReplay (i : SpecInfo) (s : State) : State :=
  let l := i.lead
  let q := s.densSt l
  if !s.onF (densB l) R.DENS_CTRL_EN then s
  else
    let holds := fun (fr : DensFrame) => decide (fr.first ≤ i.idx) && decide (i.idx < fr.first + densF s l)
    let s := if !q.fresh ∧ q.mS + q.row.j * densR s l ≤ i.idx then sgCount { i with die := l } s else s
    if !q.fresh && holds q.frame then densCount { i with die := l } s
    else match q.ended.zipIdx.find? fun e => holds e.1.1 with
      | some e =>
        let r := frameCount s l i e.1.1.first e.1.1
        densAdd l e.2 (countPoints r.2.1) (densSkip l r.2.2 (s.modDens l fun q => { q with
          ended := q.ended.zipIdx.map fun x => if x.2 = e.2 then (r.1, x.1.2) else x.1 }))
      | none => s.inc (densB l) R.DENS_LATE_COUNT_LATE

/-- DENS_FRAME_END: the last spectrum of the frame in progress has come, or never will (R212). -/
def execDensFrameEnd (t : TDie) (s : State) : Host.Outcome State Fault Refusal :=
  let q := s.densSt t
  .next (if isLead t && s.onF (densB t) R.DENS_CTRL_EN && !q.fresh
      && decide (q.frame.first + densF s t ≤ (s.wbSt t).relIdx) then endFrame t s else s)

/-- DENS_FRAME_WRITTEN: the oldest frame taken is in capture memory (R214, R220, R222). -/
def execDensFrameWritten (t : TDie) (s : State) : Host.Outcome State Fault Refusal :=
  match (s.densSt t).frames with
  | [] => .next s
  | o :: r =>
    let s := (s.setBytes (hubOf s t) o.addr o.bytes).modDens t fun q => { q with frames := r }
    .next ((s.wrs (densB t) [(R.DENS_MAP_LAST_FRAME, o.n),
      (R.DENS_FRAME_COUNT_FRAMES, (s.rd (densB t) R.DENS_FRAME_COUNT_FRAMES + 1) % 2 ^ 32)]).pulse (hubOf s t) 0x4000)

/-- SG_ROW_END: the last spectrum of the row in progress has come, or never will (R216). -/
def execSgRowEnd (t : TDie) (s : State) : Host.Outcome State Fault Refusal :=
  let q := s.densSt t
  .next (if isLead t && s.onF (densB t) R.DENS_CTRL_EN && !q.fresh
      && decide (q.mS + (q.row.j + 1) * densR s t ≤ (s.wbSt t).relIdx) then endRow t (densR s t) s else s)

/-- SG_ROW_WRITTEN: the oldest row taken is in capture memory, over whatever its slot held (R219, R220, R222, R226). -/
def execSgRowWritten (t : TDie) (s : State) : Host.Outcome State Fault Refusal :=
  match (s.densSt t).rows with
  | [] => .next s
  | o :: r =>
    let covers := fun (e : DensLack) => e.first != o.first && decide (e.addr < o.addr + o.bytes.length)
      && decide (o.addr < e.addr + e.size)
    let s := (s.setBytes (hubOf s t) o.addr o.bytes).modDens t fun q => { q with
      rows := r, lacking := q.lacking.map fun e => { e with reused := e.reused || covers e } }
    .next ((s.wrs (densB t) [(R.DENS_SG_LAST_ROW, o.n),
      (R.DENS_ROW_COUNT_ROWS, (s.rd (densB t) R.DENS_ROW_COUNT_ROWS + 1) % 2 ^ 32)]).pulse (hubOf s t) 0x4001)

/-- DENS_MERGE_ARRIVE: the oldest counts sent by the partner die reach the lead die (R223). -/
def execDensMergeArrive (t : TDie) (s : State) : Host.Outcome State Fault Refusal :=
  match (s.densSt t).sent with
  | [] => .next s
  | p :: r => .next (mergeArrive t (s.modDens t fun q => { q with sent := r }) p)

/-- DENS_MERGE_TIMEOUT: DENS_MERGE.WAIT has passed and the oldest frame that waits is taken without the partner's counts
(R223). -/
def execDensMergeTimeout (t : TDie) (s : State) : Host.Outcome State Fault Refusal :=
  match (s.densSt t).ended with
  | [] => .next s
  | _ =>
    let s := takeFrame t (32 + 4096) (s.wr (densB t) R.DENS_STATUS_MERGE_LATE 1)
    .next (takeReady t (s.densSt t).ended.length s)

/-- The complete row that `e` asks for, from the spectra that the samples in the Tarn give (R216, R226). -/
def DensLack.whole (s : State) (l : Nat) (e : DensLack) : Det :=
  (List.range e.n).foldl (fun d k =>
    let at_ := e.set.startOf (e.first + k)
    let i := (specInfo s l e.set (e.first + k) (tarnRead s l) (tarnBits s l at_ (at_ + e.set.n - 1))).1
    if e.sg.skips i.flags then d else detJoin e.sg.det d (i.det 0)) {}

/-- DENS_ROW_REPAIR: the spectra that the row with first spectrum `first` lacked have been recomputed, and the complete row
is written as REPAIRED into its slot, or discarded if a later row has reused that (R226). -/
def execDensRowRepair (t : TDie) (first : Nat) (s : State) : Host.Outcome State Fault Refusal :=
  match (s.densSt t).lacking.find? fun e => e.first == first with
  | none => .next s
  | some e =>
    let late := (s.wbSt t).lost.any fun x => decide (first ≤ x.idx) && decide (x.idx < first + e.n)
    if late || (s.densSt t).rows.any fun o => o.first == first then .next s
    else
      let s := s.modDens t fun q => { q with lacking := q.lacking.filter fun x => x.first != first }
      if e.reused then .next (s.inc (densB t) R.DENS_LATE_COUNT_LATE)
      else
        let lo := e.set.startOf first
        let s := replayCount t (tarnHolds s t lo (e.set.startOf (first + e.n - 1) + e.set.n - 1)) s
        let d := e.whole s t
        let fl := densFlags d.flags ||| 64 ||| (if e.set.overlap = 3 then 512 else 0) ||| (if e.n < e.sg.r then 32 else 0)
        .next (s.setBytes (hubOf s t) e.addr
          (e.sg.bytes (inputOf t) fl (s.sampleSts (inputOf t) lo) first d.n (e.sg.levels e.set.n d)))

end Sys2Proof.Machine
end

