-- ==== Sys2Proof/Machine/Spectrum.lean ====
section
/-! DEFINITION. The wide-band switch, a completed spectrum, what it does in every block that takes spectra, and the replay
of spectra that a pipeline fault removed (chapters 3 to 6). -/

namespace Sys2Proof.Machine

/-- A DENS set that waits for a spectrum takes effect where none arrives any more (R228). -/
def densIdle (l : Nat) (s : State) : State :=
  if !spectraRun s l && (s.densSt l).handedAt.isSome then densTakeEffect l .none (s.wbSt l).nextIdx s else s

/-- Whether the WB set about to take effect changes LOG2N or TUNE (R89, R196, R230). -/
def wbRetunes (s : State) (t : Nat) : Bool :=
  clampLog2n (s.rdF (wbB t) R.WB_CTRL_LOG2N) != clampLog2n (s.rdL (wbB t) R.WB_CTRL_LOG2N) || wbTuneMoves s t

/-! Spectra in index order (R130, R196, R206). -/

/-- A spectrum reaches the trigger conditions, the change-only generator and the density engine (R133, R195, R206, R216). -/
def specConsume (l : Nat) (r : SpecResult) (s : State) : State :=
  densSpectrum r.i (coSpectrum 0 r.i (spectralTake l 0 r s))

/-- Whether spectrum `m` has come or never will: its die has gone past it, or cannot be used (R104). -/
def specSettled (s : State) (l m : Nat) : Bool :=
  match pipeOf s l ((s.wbSet l).startOf m) with
  | some d => !s.usableT d.1 || decide (m < if d.1 = l then (s.wbSt l).doneLead else (s.wbSt l).donePartner)
  | none => true

/-- The spectra that both dies of the pair have settled go on in index order; `fuel` bounds their number. -/
def specRelease (l : Nat) : (fuel : Nat) → State → State
  | 0, s => s
  | n + 1, s =>
    let w := s.wbSt l
    if w.relIdx < max w.doneLead w.donePartner && specSettled s l w.relIdx then
      let s' := s.modWb l fun w => { w with relIdx := w.relIdx + 1 }
      match (s.trgSt l).results with
      | r :: rest =>
        if r.i.idx = w.relIdx then specRelease l n (specConsume l r (s'.modTrg l fun q => { q with results := rest }))
        else specRelease l n s'
      | [] => specRelease l n s'
    else s

def specReleaseAll (l : Nat) (s : State) : State :=
  specRelease l (max (s.wbSt l).doneLead (s.wbSt l).donePartner - (s.wbSt l).relIdx) s

/-- The setting ends: every spectrum that still waits for an earlier one goes on. -/
def specFlush (l : Nat) (s : State) : State :=
  (s.trgSt l).results.foldl (fun s r => specConsume l r s) (s.modTrg l fun q => { q with results := [] })

/-- The wide-band setting ends before spectrum `idx`: what is in progress in the density engine, the detector and the
averager closes (R118, R228, R230). -/
def wbClose (l idx : Nat) (s : State) : State :=
  detectedOut l (partialClose l idx (densClose l idx (specFlush l s)))

/-- WB_SWITCH: the live set takes effect at the switch sample; what is in progress closes under the old set, and
change-only records start afresh if LOG2N or TUNE changes (R92, R118, R196, R230). -/
def execWbSwitch (t : TDie) (s : State) : Host.Outcome State Fault Refusal :=
  match (s.wbSt t).sw with
  | none => .next s
  | some sw =>
    let changed := wbRetunes s t
    let idx := wbNextIdx s t sw
    let s := wbSwitchAt t sw idx (wbClose t idx s)
    .next (densIdle t (densWbSwitch t changed (if changed then coRestart t s else s)))

/-! Replays (R119, R153, R225). -/

/-- Whether the replay in progress on the hub of lead die `l` is that of a pipeline of the pair (R355, R627). -/
def pipeReplay (s : State) (l : Nat) : Bool :=
  match (s.repairSt (hubOf s l)).active with
  | some f => (repairKind f.source).any fun k => k.1 == 0 && decide (pairLead k.2 = l)
  | none => false

/-- The spectrum with index `idx` of setting `q`, from the samples in the Tarn, as a die of lead die `l`'s pair recomputes
it; its saturated bins, bins and exponent (R119). -/
def replayInfo (s : State) (t : Nat) (q : WbSet) (idx : Nat) : SpecInfo × Nat × List (Int × Int) × Nat :=
  let l := pairLead t
  specInfo s t q idx (tarnRead s l) (tarnBits s l (q.startOf idx) (q.startOf idx + q.n - 1) ||| 64)

/-- The conditions with source `src` judge a recomputed spectrum, late (R153). Their runs go on as they stand (DESIGN
CHOICE, assumption log). -/
def replayConds (q : WbSet) (src : Nat) (i : SpecInfo) (s : State) : State :=
  (spectralJudged s q i.lead src i.start i.n i.pw i.lv).foldl
    (fun s e => spectralCond i.lead e.1 i.start i.n i.flags e.2 s) s

/-- A recomputed spectrum that was the last one missing from its detection interval gives its detected spectrum, late
(R134, R153). -/
def replayDetected (t : Nat) (q : WbSet) (idx : Nat) (s : State) : State :=
  let l := pairLead t
  let iv := (idx - q.baseIdx) / q.d
  let first := q.baseIdx + iv * q.d
  let ended := if q.baseIdx = (s.wbSt l).baseIdx then decide (first + q.d ≤ (s.wbSt l).relIdx) else true
  if !ended || (s.wbSt l).lost.any fun e => decide (first ≤ e.idx) && decide (e.idx < first + q.d) then s
  else
    let d := detOf q iv ((List.range q.d).map fun k => (replayInfo s t q (first + k)).1)
    replayConds q 1 ({ d with flags := d.flags ||| 64 }.info l) s

/-- A spectrum that a pipeline fault removed is recomputed from the Tarn on a die of the pair and output with REPAIRED; its
conditions hit late, and the density engine counts it if it still can (R119, R153, R225). -/
def specReplay (t start : Nat) (s : State) : State :=
  let l := pairLead t
  match (s.wbSt l).lost.find? fun e => e.start == start with
  | none => s
  | some e =>
    if !(s.usableT t && pipeReplay s l) then s
    else
      let s := replayCount l (tarnHolds s l start (start + e.set.n - 1)) s
      let (i, sat, bins, ex) := replayInfo s t e.set e.idx
      let s := specOut e.set i sat bins ex (s.modWb l fun w => { w with lost := w.lost.filter (· != e) })
      replayDetected t e.set e.idx (densReplay i (replayConds e.set 0 i s))

/-! A spectrum of the stream. -/

/-- SPECTRUM_COMPLETE: the spectrum of the frame at `start` is due: its pipeline computes it and it reaches the output and
the detector of its die, and in index order the other consumers; a pipeline that has failed loses it (R103 to R116, R119,
R131 to R136, R195, R206, R216). With `replay`, one that was lost is recomputed. -/
def execSpectrumComplete (t : TDie) (start : Nat) (replay : Bool) (s : State) : Host.Outcome State Fault Refusal :=
  let l := pairLead t
  if replay then .next (specReplay t start s)
  else if !specDue s t start then .next s
  else if (pipeOf s l start).any fun d => s.brokenPipes.contains (4 * d.1 + d.2) then
    .next (specReleaseAll l (specLost t start s))
  else
    let q := s.wbSet l
    let (i, sat, bins, ex) := specInfo s t q (q.baseIdx + q.numberOf start) (s.dieSample t)
      (s.statusOf t start (start + q.n - 1))
    let s := specDetect i (specOut q i sat bins ex (specDone t i.idx s))
    let r := specResult s q 0 i
    .next (detectedOut l (specReleaseAll l (s.modTrg l fun x => { x with results := resultInsert x.results r })))

/-- DETECT_MERGE: the hub merges the partial detected spectra of both dies by their counts and averages the result
(R114, R116). -/
def execDetectMerge (t : TDie) (s : State) : Host.Outcome State Fault Refusal :=
  .next (if isLead t && decide (s.wbOverlap t = 3) && mergeReady s t then
    let r := mergeOldest t s
    detectedOut t (averager t (detResult (s.wbDet t) r.1) r.2)
  else s)

/-- TRACE_REPAIR_OUTPUT: every spectrum that a trace already output lacked has been recomputed, and the trace goes out
again from the samples in the Tarn, REPAIRED and with the same FIRST (R119, R175). -/
def execTraceRepairOutput (t : TDie) (first : Nat) (s : State) : Host.Outcome State Fault Refusal :=
  let l := pairLead t
  let w := s.wbSt l
  match w.incomplete.find? fun e => e.first == first with
  | none => .next s
  | some e =>
    let q := e.set
    let out := decide (q.baseIdx ≠ w.baseIdx) || decide (first + e.n ≤ w.relIdx)
    let lacks := w.lost.any fun x => decide (first ≤ x.idx) && decide (x.idx < first + e.n)
    if !s.usableT t || !out || lacks then .next s
    else
      let s := s.modWb l fun w => { w with incomplete := w.incomplete.filter (· != e) }
      if e.n = 0 then .next s
      else
        let s := replayCount l (tarnHolds s l e.start (q.startOf (first + e.n - 1) + q.n - 1)) s
        let a := traceOf q ((List.range e.n).map fun k => (replayInfo s t q (first + k)).1)
        .next (sendItem (inputOf l) (traceBytes q (inputOf l) (64 ||| if e.n < q.d * q.l then 32 else 0) a) s)

end Sys2Proof.Machine
end

