-- ==== Sys2Proof/Machine/Stream.lean ====
section
/-! DEFINITION. What the start and the stop of an input's stream do to the blocks that consume it. -/

namespace Sys2Proof.Machine

/-- The resampler goes on with the run it is in, from the first output at or after sample `j`; a count of samples that has
started again starts a run. DESIGN CHOICE: a start of the stream alone starts none (R124). -/
def rsResume (r : Nat × Nat) (j : Nat) (w : WbSt) : WbSt :=
  let start := min w.rsStart j
  { w with rsStart := start, rsNext := rsBelow r start j }

/-- The stream of input `inp` starts with stream sample `j`: waiting switches are scheduled, and counts, conditions, the
Tarn and the zoom channels start (R92, R113, R161, R164, R173, R239). -/
def streamStart (inp j : Nat) (s : State) : State :=
  let l := leadOf inp
  let s := s.modWb l fun w => rsResume (s.rsRatio l) j { w with
    running := true, start := j, tunes := [], tune0 := clampTune (tuneOf s.rdF l)
    pipes := [(0, (s.reg (wbB l + R.WB_PIPE_MAP)).toNat)] }
  let s := wbShow l (wbRestart l j (s.wbSt l).nextIdx s)
  let s := if (s.wbSt l).waitStart then wbSchedule l j s else s
  let s := (pairDies s l).foldl (fun s t => chzStreamStart t s) (trgStreamStart l j s)
  densShow l (densIdle l (tarnStart l s))

/-- The index after the last spectrum of the input whose frame ends before sample `j`. -/
def lastIdx (s : State) (l j : Nat) : Nat :=
  let q := s.wbSet l
  let m := if j < q.baseStart + q.n then q.baseIdx else q.baseIdx + (j - q.baseStart - q.n) / q.hop + 1
  max (s.wbSt l).nextIdx (if spectraRun s l then m else 0)

/-- The stream of input `inp` stops before stream sample `j`: intervals, frames, rows and runs close, and switches that
have not been reached wait for the next start (R92, R118, R173, R230, R239). -/
def streamStop (inp j : Nat) (s : State) : State :=
  let l := leadOf inp
  let idx := lastIdx s l j
  let s := wbClose l idx s
  let s := s.modWb l fun w => { w with
    running := false, nextIdx := idx, waitStart := w.waitStart || w.sw.isSome, sw := none
    zones := if w.sw.isSome then w.zones.filter fun z => decide (z.last < j) else w.zones }
  let s := s.modTrg l fun q => { q with waitStart := q.waitStart || q.sw.isSome, sw := none }
  let s := (pairDies s l).foldl (fun s t => chzStreamStop t s) (trgShow l (wbShow l s))
  densShow l (densIdle l (tarnStop l s))

end Sys2Proof.Machine
end

