-- ==== Sys2Proof/Machine/Acq.lean ====
section
/-! DEFINITION. Direct RF acquisition and blind calibration (chapter 2, R37 to R75, R672). -/

namespace Sys2Proof.Machine

def State.modAcq (s : State) (a : Nat) (f : AcqSt → AcqSt) : State := s.setAcq a (f (s.acqSt a))

/-- The sub-converter in slot `k` (R43). -/
def AcqSt.inSlot (q : AcqSt) (k : Nat) : Nat := tget (fun k => k) q.slots k

/-- CAL_CTRL.MODE, where 11 acts as 10 (R74). -/
def State.calMode (s : State) (a : Nat) : Nat := min 2 (s.rd (acqB a) R.CAL_CTRL_MODE)

def State.calHold (s : State) (a : Nat) : Bool := s.on (acqB a) R.CAL_CTRL_HOLD

/-- CAL_STATE.STATE (R64): FROZEN without a spare; OFF; WAIT in a step that lacks sub-windows; HOLD between steps. -/
def AcqSt.stateCode (q : AcqSt) (hold : Bool) : Nat :=
  if q.frozen then 5
  else match q.phase with
  | .off => 0
  | .idle => if q.step ≠ .none then (if q.waiting then 3 else 1) else if hold then 4 else 1
  | .run => if q.step ≠ .none then (if q.waiting then 3 else 2) else if hold then 4 else 2

/-- CAL_STATE.STATE follows the calibration. -/
def State.calShow (s : State) (a : Nat) : State :=
  s.wr (acqB a) R.CAL_STATE_STATE ((s.acqSt a).stateCode (s.calHold a))

/-- A run starts with cause `c` (R53, R54); a live-trim run starts at slot 0 (R63). -/
def startRun (a c : Nat) (s : State) : State :=
  let s := s.modAcq a fun q => { q with
    phase := .run, runSteps := 0, abort := false, step := .none
    nextSlot := if q.frozen then 0 else q.nextSlot }
  ((s.wrs (acqB a) [(R.CAL_STATE_CAUSE, c), (R.CAL_TEMP_TEMP_REF, s.rd (acqB a) R.CAL_TEMP_TEMP_NOW)])).calShow a

/-- RERUN sets, and the cause that arose first is kept (R54). -/
def setRerun (a c : Nat) (s : State) : State :=
  (s.modAcq a fun q => { q with rerunCause := some (q.rerunCause.getD c) }).wr (acqB a) R.CAL_STATE_RERUN 1

/-- A cause of R53 arises: under AUTO, or cause HOST also under VERIFY; during a run or HOLD it sets RERUN; during an
idle step it waits for the step's end (R57); in FROZEN it starts a live-trim run if LIVE_TRIM is set (R63). DEDUCED:
LIVE_TRIM, which R46 and R63 call CAL_CTRL.LIVE_TRIM, is the field that R74 places in ACQ_CTRL[16]. -/
def calCause (a c : Nat) (s : State) : State :=
  let q := s.acqSt a
  if !q.enabled || s.calMode a == 0 || (s.calMode a == 1 && c != 4) then s
  else if q.frozen && !s.on (acqB a) R.ACQ_CTRL_LIVE_TRIM then s
  else if q.phase = .run then setRerun a c s
  else if q.step ≠ .none then s.modAcq a fun q => { q with idleCause := some (q.idleCause.getD c) }
  else if s.calHold a then setRerun a c s
  else startRun a c s

/-- The calibration enters IDLE (R64). -/
def enterIdle (a : Nat) (s : State) : State :=
  (s.modAcq a fun q => { q with phase := .idle, step := .none }).calShow a

/-- The step in progress is abandoned at once and the calibration is OFF; the trims stay (R65). -/
def calOff (a : Nat) (s : State) : State :=
  ((s.modAcq a fun q => { q with
      phase := .off, step := .none, waiting := false, displaced := .none, abort := false
      rerunCause := .none, idleCause := .none }).wr (acqB a) R.CAL_STATE_RERUN 0).calShow a

/-- The calibration starts as on an enable: a run with cause START in AUTO, IDLE in VERIFY (R64). -/
def calOn (a : Nat) (s : State) : State :=
  match s.calMode a with
  | 0 => calOff a s
  | 1 => enterIdle a s
  | _ => calCause a 0 (enterIdle a s)

/-- A cause that waits starts a run under AUTO; under VERIFY only cause HOST does (R65). -/
def waitingCause (a : Nat) (c : Option Nat) (s : State) : Option Nat :=
  c.filter fun c => decide (s.calMode a = 2) || decide (c = 4)

/-- A run ends; complete, it counts and clears UNCAL; a further run follows if RERUN is set (R54, R64, R66). An ABORT has
cleared RERUN (R65), so a cause that waits after one arose later. -/
def runOver (a : Nat) (done : Bool) (s : State) : State :=
  let s := if done then (s.inc (acqB a) R.CAL_RUN_COUNT_RUNS).wr (acqB a) R.ACQ_STATUS_UNCAL 0 else s
  let again := waitingCause a (s.acqSt a).rerunCause s
  let hold := s.calHold a
  let s := s.modAcq a fun q => { q with
    phase := .idle, step := .none, abort := false, ranOnce := true, runSteps := 0
    rerunCause := if hold then again else .none }
  let s := s.wr (acqB a) R.CAL_STATE_RERUN (b2n (hold && again.isSome))
  match again with
  | some c => if hold then s.calShow a else startRun a c s
  | .none => s.calShow a

/-- Steps of a run: 65, or one for each slot in a live-trim run (R55, R63). -/
def AcqSt.runLength (q : AcqSt) : Nat := if q.frozen then 64 else 65

/-- A run step or live-trim step has completed (R55, R65). -/
def stepDone (a : Nat) (s : State) : State :=
  let s := s.modAcq a fun q => { q with
    step := .none, displaced := .none, waiting := false, runSteps := q.runSteps + 1
    nextSlot := if q.frozen then (q.slot + 1) % 64 else q.nextSlot }
  let q := s.acqSt a
  if q.abort && decide (q.runSteps < q.runLength) then runOver a false s else s.calShow a

/-- An idle step has ended: a cause that arose in it starts its run (R57). -/
def idleDone (a : Nat) (s : State) : State :=
  let c := waitingCause a (s.acqSt a).idleCause s
  let s := s.modAcq a fun q => { q with step := .none, displaced := .none, waiting := false, idleCause := .none }
  match c with
  | some c => if s.calHold a then (setRerun a c s).calShow a else startRun a c s
  | .none => s.calShow a

/-! Trims (R51, R52). -/

/-- The trim registers of a sub-converter: offset, gain, skew, with the ends of their ranges. -/
def trimFld : Nat → Fld × Int × Int
  | 0 => (R.SC_n_OFS_TRIM, -512, 511)
  | 1 => (R.SC_n_GAIN_TRIM, -512, 511)
  | _ => (R.SC_n_SKEW_TRIM, -63, 63)

def scB (a n : Nat) : Nat := acqB a + 0x10 * n

/-- Trim `i` of sub-converter `n` in force; a skew of -64 acts as -63 (R51). -/
def State.trim (s : State) (a n i : Nat) : Int := max (trimFld i).2.1 (s.rdI (scB a n) (trimFld i).1)

/-- Whether a trim of sub-converter `n` stands at the end of its range. -/
def State.trimAtEnd (s : State) (a n : Nat) : Bool :=
  [0, 1, 2].any fun i => decide (s.trim a n i = (trimFld i).2.1) || decide (s.trim a n i = (trimFld i).2.2)

/-- SC_n_STATE.LIMIT says whether a trim of sub-converter `n` is at the end of its range (R74). -/
def showLimit (a n : Nat) (s : State) : State := s.wr (scB a n) R.SC_n_STATE_LIMIT (b2n (s.trimAtEnd a n))

/-- The calibration sets trim `i` of sub-converter `n` to `v`, held at the end of its range (R52); ACQ_STATUS.LIMIT sets
where the update would pass the end, or reaches it (R74). -/
def setTrim (a n i : Nat) (v : Int) (s : State) : State :=
  let f := trimFld i
  let ends := decide (v ≤ f.2.1) || decide (f.2.2 ≤ v)
  let reached := ends && (decide (s.trim a n i ≠ clampI f.2.1 f.2.2 v) || decide (v < f.2.1) || decide (f.2.2 < v))
  let s := showLimit a n (s.wrI (scB a n) f.1 (clampI f.2.1 f.2.2 v))
  if reached then s.wr (acqB a) R.ACQ_STATUS_LIMIT 1 else s

/-- The calibration moves the three trims of sub-converter `n`. -/
def moveTrims (a n : Nat) (d : Int × Int × Int) (s : State) : State :=
  let t0 := s.trim a n 0 + d.1
  let t1 := s.trim a n 1 + d.2.1
  let t2 := s.trim a n 2 + d.2.2
  setTrim a n 2 t2 (setTrim a n 1 t1 (setTrim a n 0 t0 s))

/-- A loop gain code: 1, 1/2, 1/4, 1/8 (R50). -/
def loopGain (c : Nat) : Rat := 1 / (2 ^ c : Nat)

/-- The trim changes of R50 for estimate `e`. The gain estimate is 10 log10 of the power ratio, in steps of
0.001 dB times the loop gain 2^-c, so its logarithm is taken at scale 10^4 / 2^c. -/
def trimDelta (s : State) (a : Nat) (e : Est) : Int × Int × Int :=
  let b := acqB a
  (-roundRat (loopGain (s.rd b R.CAL_CTRL_MU_OFS) * 16 * e.ofs),
   -(logRound (e.ratio) (10000 / 2 ^ s.rd b R.CAL_CTRL_MU_GAIN) 17),
   -roundRat (loopGain (s.rd b R.CAL_CTRL_MU_SKEW) * e.skew / 48))

/-! The blind estimators (R47 to R49). -/

/-- Frames of a sub-window: 2^16 samples of each slot (R47). -/
def subLen : Nat := 65536

/-- The RF frequency in MHz of bin `k` of the 1024-point spectrum: the tuning in force plus the bin's offset, folded into
0 to 10.24 GHz (R47, R84, R86). -/
def rfOfBin (s : State) (a k : Nat) : Rat :=
  let f : Rat := (clampTune (tuneOf s.rdF (leadOf a)) * 20480 : Nat) / (2 ^ 40 : Nat) + ((k : Int) - 512) * 10
  let f := if f < 0 then -f else f
  if 10240 < f then 20480 - f else f

/-- Whether a frequency in MHz lies more than 10 MHz from every multiple of 160 MHz (R47). -/
def clearOfTones (f : Rat) : Bool :=
  let r := f - 160 * (f / 160).floor
  decide (10 < r) && decide (r < 150)

/-- The mean of `f` over the frames of the sub-windows that start with frames `fs`. -/
def meanFrames (fs : List Nat) (f : Nat → Rat) : Rat :=
  fs.foldl (fun r b => (List.range subLen).foldl (fun r i => r + f (b + i)) r) (0 : Rat) / (fs.length * subLen : Nat)

def meanRat (l : List Rat) : Rat := ratSum l / (l.length : Rat)

/-- The statistics of one slot (R49): mean, power, and products with the next slot and the one after it. -/
structure SlotStat where
  m : Rat
  p : Rat
  c1 : Rat
  c2 : Rat
  deriving DecidableEq, Repr

/-- The statistics of the 64 slots over the sub-windows `fs`, from the converter's samples (R49). -/
def slotStats (s : State) (a : Nat) (fs : List Nat) : List SlotStat :=
  let ms := (List.range 64).map fun k => meanFrames fs fun f => s.code a (64 * f + k)
  let y := fun f k => (s.code a (64 * f + k) : Rat) - ms.getD (k % 64) 0
  (List.range 64).map fun k =>
    { m := ms.getD k 0, p := meanFrames fs fun f => y f k * y f k
      c1 := meanFrames fs fun f => y f k * y f (k + 1), c2 := meanFrames fs fun f => y f k * y f (k + 2) }

/-- Mean power of the stream over the sub-window from frame `b` against full scale (R47). -/
def subPower (s : State) (a b : Nat) : Rat :=
  ((List.range (32 * subLen)).foldl (fun r i => r + cxPower (toCx (s.streamSample a (32 * b + i)))) (0 : Rat))
    / (32 * subLen * 2 ^ 46 : Nat)

/-- The power spectrum of the sub-window from frame `b`, summed over its 2048 consecutive 1024-point transforms (R47). The
transforms take no window (DESIGN CHOICE, assumption log). -/
def subSpectrum (s : State) (a b : Nat) : List Rat :=
  (List.range 2048).foldl (fun acc m =>
    let x := (List.range 1024).map fun i => toCx (s.streamSample a (32 * b + 1024 * m + i))
    List.zipWith (· + ·) acc ((dft 10 x).map cxPower)) (List.replicate 1024 0)

/-- Whether a converter sample is an overload (R41). -/
def overload (v : Int) : Bool := decide (v = 2047) || decide (v = -2048)

/-- The rejection causes of the sub-window from frame `b`, as the bits of CAL_REJECT_CAUSE (R47). Of equally strong bins
the lowest is the strongest (DESIGN CHOICE). -/
def rejectCauses (s : State) (a b : Nat) : Nat :=
  let r := acqB a
  let st := slotStats s a [b]
  let c0 := meanRat (st.map (·.p))
  let c2 := meanRat (st.map (·.c2))
  let sp := subSpectrum s a b
  let top := sp.foldl (fun m x => if m < x then x else m) 0
  let peak := sp.findIdx fun x => decide (x = top)
  b2n (!powGe (subPower s a b) 10 (-(s.rd r R.CAL_QUAL_MIN_POWER : Int)))
    + 2 * b2n (decide ((sp.filter fun x => decide (top ≤ 1000 * x)).length < s.rd r R.CAL_QUAL_MIN_BINS))
    + 4 * b2n (s.on r R.CAL_QUAL_TONE_EXCL && !clearOfTones (rfOfBin s a peak))
    + 8 * b2n (decide ((if c2 < c0 then c0 - c2 else c2 - c0) < c0 / (2 ^ s.rd r R.CAL_QUAL_SLOPE_SHIFT : Nat)))
    + 16 * b2n ((List.range (64 * subLen)).any fun i => overload (s.code a (64 * b + i)))
    + 32 * b2n ((s.acqSt a).gainAt.any fun g => decide (b ≤ g) && decide (g < b + subLen))

/-- Running sums: t[0] = 0, t[k+1] = t[k] + d[k] (R49). -/
def accumulate (t : Rat) : List Rat → List Rat
  | [] => []
  | d :: l => t :: accumulate (t + d) l

/-- The estimates of a completed window for every slot (R49); ts is 48.828125 ps. Quotients by a power or a slope of 0 are
open (`ratio`). -/
def estimates (st : List SlotStat) : List Est :=
  let c0 := meanRat (st.map (·.p))
  let c2 := meanRat (st.map (·.c2))
  let slope := (c2 - c0) / (2 * (48828125 / 1000))
  let m1 := meanRat (st.map (·.c1))
  let t := accumulate 0 (st.zipIdx.map fun x => ratio 174 x.2 (x.1.c1 - m1) slope)
  let mt := meanRat t
  (st.zipIdx.zip t).map fun x => { ofs := x.1.1.m, ratio := ratio 173 x.1.2 x.1.1.p c0, skew := x.2 - mt }

def absRat (x : Rat) : Rat := if x < 0 then -x else x

/-- Whether a completed window's estimate shows a failed sub-converter (R61). -/
def estFails (e : Est) : Bool :=
  decide (32 < absRat e.ofs) || !(powGe e.ratio 10 (-1)) || (powGe e.ratio 10 1 && !(powGe (1 / e.ratio) 10 (-1)))
    || decide (3024 < absRat e.skew)

/-- The slots whose output is constant over the sub-window from frame `b` (R61). -/
def constantSlots (s : State) (a b : Nat) : List Nat :=
  (List.range 64).filter fun k =>
    (List.range subLen).all fun i => decide (s.code a (64 * (b + i) + k) = s.code a (64 * b + k))

/-- Whether the slots' mean power over the sub-window is -60 dBFS or more (R61), full scale being the sinusoid whose peaks
reach 1936 codes (R41). -/
def ensembleLoud (s : State) (a b : Nat) : Bool :=
  powGe (meanRat ((slotStats s a [b]).map (·.p)) * 2 / (1936 * 1936 : Nat)) 10 (-60)

/-- Sub-converter `n` is found failed, its interval affected from sample `j` (R61, R63): the spare is to replace it at
the next frame boundary, or without a spare it stays in service. The event is source 80 or 81, or 82 or 83. -/
def scFailed (a n j : Nat) (s : State) : State :=
  let q := s.acqSt a
  if q.failing.any (fun f => f.1 == n) || q.degraded.contains n then s
  else if q.frozen || !q.failing.isEmpty then s.modAcq a fun q => { q with failing := q.failing ++ [(n, j)] }
  else (s.modAcq a fun q => { q with failing := [(n, j)] }).raise (80 + a) j

/-- Whether the step in progress still lacks qualifying sub-windows, for its window or its verification (R58). -/
def AcqSt.lacks (q : AcqSt) : Bool := (q.step != .idle && !q.windowDone) || !q.verified

/-- The step waits no longer once it lacks no sub-window (R58, R64). -/
def AcqSt.settleWait (q : AcqSt) : AcqSt := { q with waiting := q.waiting && q.lacks }

/-- SUBWINDOW_COMPLETE: the 2^16 samples per slot of the sub-window in progress, and the stream samples they give, are
there, and it is judged (R47). A rejected one is discarded and counted (R48), a qualifying one counts toward the window
and the verification; a constant slot is a failed sub-converter (R61). DESIGN CHOICE where the spec is silent: the step
shows WAIT from its first rejected sub-window on while it lacks some (R58), and a sub-window outside a step is neither
counted in CAL_REJECT_COUNT nor shown in CAL_REJECT_CAUSE (R48). -/
def execSubwindowComplete (a : ADie) (s : State) : Host.Outcome State Fault Refusal :=
  let q := s.acqSt a
  let b := q.subStart
  if !(s.hasA a && s.on (acqB a) R.ACQ_STATUS_STREAM) || decide (s.streamHead a < 32 * (b + subLen)) then .next s
  else
    let cs := rejectCauses s a b
    let bad := if ensembleLoud s a b then constantSlots s a b else []
    let s := if q.step = .none then s
      else if cs ≠ 0 then
        let s := (s.inc (acqB a) R.CAL_REJECT_COUNT_REJECTS).wr (acqB a) R.CAL_REJECT_CAUSE_CAUSES
          (s.rd (acqB a) R.CAL_REJECT_CAUSE_CAUSES ||| cs)
        s.modAcq a fun q => { q with waiting := q.waiting || q.lacks }
      else s.modAcq a fun q => { q with
        subs := if q.windowDone then q.subs else q.subs ++ [b]
        verSubs := if q.verified || decide (b < q.verFrom) then q.verSubs else q.verSubs ++ [b] }
    let s := s.modAcq a fun q => { q with subStart := b + subLen, gainAt := q.gainAt.filter fun g => decide (b + subLen ≤ g) }
    .next ((bad.foldl (fun s k => scFailed a (q.inSlot k) (32 * b) s) s).calShow a)

/-- CAL_WINDOW_COMPLETE: 64 qualifying sub-windows give the estimates of every slot (R49), and an estimate beyond
the limits of R61 shows a failed sub-converter. -/
def execCalWindowComplete (a : ADie) (s : State) : Host.Outcome State Fault Refusal :=
  let q := s.acqSt a
  if !(s.hasA a) || q.step = .none || q.step = .idle || decide (q.subs.length < 64) || q.windowDone then .next s
  else
    let es := (estimates (slotStats s a (q.subs.take 64))).zip (List.range 64)
    let s := s.modAcq a fun q => ({ q with
      windowDone := true, doneAt := some s.time.frc
      est := es.foldl (fun m e => tset (fun _ => {}) m e.2 e.1) q.est } : AcqSt).settleWait
    let bad := es.filter fun e => estFails e.1
    .next ((bad.foldl (fun s e => scFailed a (q.inSlot e.2) (32 * q.subs.headD 0) s) s).calShow a)

/-- No spare remains: rotation stops, a run in progress ends uncounted, RERUN clears, and with LIVE_TRIM a live-trim
run follows at once: with the ended run's cause, or with the cause that waited for the idle step to end (R57, R63). -/
def freeze (a : Nat) (s : State) : State :=
  let q := s.acqSt a
  let wasRun := decide (q.phase = .run)
  let cause := if wasRun then some (s.rd (acqB a) R.CAL_STATE_CAUSE) else waitingCause a q.idleCause s
  let s := s.modAcq a fun q => { q with
    frozen := true, step := .none, displaced := .none, waiting := false, abort := false
    rerunCause := .none, idleCause := .none, phase := if q.phase = .off then .off else .idle
    ranOnce := q.ranOnce || wasRun }
  let s := s.wrs (acqB a) [(R.CAL_STATE_RERUN, 0), (R.CAL_STATE_SPARE, 127), (R.ACQ_STATUS_FROZEN, 1)]
  match cause with
  | some c => if s.on (acqB a) R.ACQ_CTRL_LIVE_TRIM then startRun a c s else s.calShow a
  | .none => s.calShow a

/-- Sub-converter `n` is retired for `reason`: 1 verification failed, 2 failed in service (R56, R61, R74). -/
def retire (a n reason : Nat) (s : State) : State :=
  freeze a ((s.wrs (acqB a) [(R.CAL_RETIRED_INDEX, n), (R.CAL_RETIRED_REASON, reason)]).wr
    (scB a n) R.SC_n_STATE_ROLE 2)

/-- The spare, if there is one. -/
def State.spare (s : State) (a : Nat) : Option Nat :=
  let n := s.rd (acqB a) R.CAL_STATE_SPARE
  if n = 127 then .none else some n

/-- FAILED_SC_REPLACE: at the frame boundary the spare takes the failed sub-converter's slot and the failed one is
retired (R61); without a spare the failed one stays in service as DEGRADED, with source 82 or 83 (R63). -/
def execFailedScReplace (a : ADie) (s : State) : Host.Outcome State Fault Refusal :=
  let q := s.acqSt a
  match q.failing with
  | [] => .next s
  | (n, _) :: rest =>
    let s := s.modAcq a fun q => { q with failing := rest }
    match s.spare a, (List.range 64).find? (fun k => q.inSlot k == n) with
    | some y, some k =>
      let s := s.modAcq a fun q => { q with slots := tset (fun k => k) q.slots k y }
      let s := s.wrs (scB a y) [(R.SC_n_STATE_SLOT, k), (R.SC_n_STATE_ROLE, 0)]
      .next (retire a n 2 s)
    | _, some _ =>
      let s := s.modAcq a fun q => { q with degraded := q.degraded ++ [n] }
      .next ((s.wrs (acqB a) [(R.ACQ_STATUS_DEGRADED, 1), (R.CAL_RETIRED_SECOND, 1)]).raise (82 + a) n)
    | _, .none => .next s

/-- The first frame that begins from now on. -/
def AcqSt.nextFrame (q : AcqSt) : Nat := if q.counting then q.frame + 1 else 0

/-- A step of kind `k` starts at the slot the spare enters next, and collects sub-windows from the next frame on (R55,
R57, R63). -/
def beginStep (a : Nat) (k : StepKind) (s : State) : State :=
  let s := s.modAcq a fun q => { q with
    step := k, slot := q.nextSlot, subStart := q.nextFrame, subs := [], verFrom := q.nextFrame, verSubs := []
    retries := 0, windowDone := false, doneAt := .none, waiting := false
    verified := decide (k = .live), displaced := .none }
  (s.wr (acqB a) R.CAL_STATE_SLOT (s.acqSt a).slot).calShow a

/-- CAL_STEP_START: the next step of a run starts; in FROZEN it is a live-trim step, which LIVE_TRIM must allow: while it
is 0 a live-trim run stands still (R46, R55, R63; that the run does not end is a DESIGN CHOICE, assumption log). HOLD keeps
it waiting (R64). -/
def execCalStepStart (a : ADie) (s : State) : Host.Outcome State Fault Refusal :=
  let q := s.acqSt a
  if q.phase = .run ∧ q.step = .none ∧ s.calHold a = false ∧ q.runSteps < q.runLength
      ∧ (q.frozen = false ∨ s.on (acqB a) R.ACQ_CTRL_LIVE_TRIM = true) then
    .next (beginStep a (if q.frozen then .live else .run) s)
  else .next s

/-- IDLE_STEP_START: an idle step starts in IDLE; a STEP_IDLE of 0 stops idle rotation (R57). -/
def execIdleStepStart (a : ADie) (s : State) : Host.Outcome State Fault Refusal :=
  let q := s.acqSt a
  if q.phase = .idle ∧ q.step = .none ∧ s.calHold a = false ∧ q.frozen = false ∧
      s.rd (acqB a) R.CAL_TIMING_STEP_IDLE ≠ 0 then .next (beginStep a .idle s)
  else .next s

/-- Whether the differences of Y and X are within CAL_VERIFY (R56): offset in LSB, power ratio, skew in fs. -/
def verifyOk (s : State) (a : Nat) (ofs gain skew : Rat) : Bool :=
  let b := acqB a
  let g : Int := s.rd b R.CAL_VERIFY_GAIN_LIM
  decide (absRat ofs * 16 ≤ (s.rd b R.CAL_VERIFY_OFS_LIM : Rat))
    && powGe gain 10000 (-g) && decide (0 < gain) && powGe (1 / gain) 10000 (-g)
    && decide (absRat skew ≤ (s.rd b R.CAL_VERIFY_SKEW_LIM : Rat) * 48)

/-- Y against X over the shadow window, 2^18 samples from the sub-windows `fs` (R56): mean(y - x) in LSB, var y / var x,
and the skew in fs by correlating y - x with (x[n + 1] - x[n - 1]) / (2 ts). Quotients by 0 are open (`ratio`). -/
def verifyFigures (s : State) (a slot : Nat) (fs : List Nat) : Rat × Rat × Rat :=
  let x := fun f => (s.code a (64 * f + slot) : Rat)
  let y := fun f => (s.spareCode a f : Rat)
  let mx := meanFrames fs x
  let my := meanFrames fs y
  let vx := meanFrames fs fun f => (x f - mx) * (x f - mx)
  let vy := meanFrames fs fun f => (y f - my) * (y f - my)
  let g := fun f => (s.code a (64 * f + slot + 1) : Rat)
    - (if 64 * f + slot = 0 then 0 else (s.code a (64 * f + slot - 1) : Rat))
  let dg := meanFrames fs fun f => (y f - x f) * g f
  let gg := meanFrames fs fun f => g f * g f
  (my - mx, ratio 173 64 vy vx, ratio 174 64 (dg * 2 * (48828125 / 1000)) gg)

/-- VERIFY_WINDOW_COMPLETE: 2^18 samples of the spare against the live sub-converter (R56). A failed run step takes
the differences off the spare's trims and verifies again, and retires the spare after RETRY further failures; a failed
idle step performs no swap, is counted in VERIFY mode (R73), and under AUTO a run with cause RESIDUAL starts at its slot
(R57). -/
def execVerifyWindowComplete (a : ADie) (s : State) : Host.Outcome State Fault Refusal :=
  let q := s.acqSt a
  if (q.step ≠ .run ∧ q.step ≠ .idle) ∨ q.verified = true ∨ q.verSubs.length < 4 then .next s
  else
    let (ofs, gain, skew) := verifyFigures s a q.slot (q.verSubs.take 4)
    if verifyOk s a ofs gain skew then
      .next ((s.modAcq a fun q => ({ q with verified := true } : AcqSt).settleWait).calShow a)
    else if q.step = .idle then
      let c := if s.calMode a = 2 then some (q.idleCause.getD 3) else q.idleCause
      .next (idleDone a (s.modAcq a fun q => { q with
        idleCause := c, verifyFails := q.verifyFails + b2n (decide (s.calMode a = 1)) }))
    else
      match s.spare a with
      | .none => .next s
      | some y =>
        if s.rd (acqB a) R.CAL_VERIFY_RETRY < q.retries + 1 then
          .next (retire a y 1 (s.raise (80 + a) (32 * q.verSubs.headD 0)))
        else
          let d := (-roundRat (16 * ofs), -(logRound gain 10000 17), -roundRat (skew / 48))
          .next (moveTrims a y d (s.modAcq a fun q => { q with
            retries := q.retries + 1, verSubs := [], verFrom := q.nextFrame }))

/-- SPARE_SWAP: at a frame boundary the verified spare takes over slot s and the displaced sub-converter becomes the
spare (R44, R45). An idle step ends with its swap (R57). A failed sub-converter comes first (R61). -/
def execSpareSwap (a : ADie) (s : State) : Host.Outcome State Fault Refusal :=
  let q := s.acqSt a
  match s.spare a with
  | .none => .next s
  | some y =>
    if q.verified = true ∧ q.displaced = .none ∧ q.failing = [] ∧ (q.step = .idle ∨ (q.step = .run ∧ q.windowDone = true)) then
      let x := q.inSlot q.slot
      let nxt := (q.slot + 1) % 64
      let s := s.modAcq a fun q => { q with
        slots := tset (fun k => k) q.slots q.slot y, nextSlot := nxt, displaced := some x }
      let s := s.wrs (scB a y) [(R.SC_n_STATE_SLOT, q.slot), (R.SC_n_STATE_ROLE, 0)]
      let s := s.wrs (scB a x) [(R.SC_n_STATE_SLOT, nxt), (R.SC_n_STATE_ROLE, 1)]
      let s := s.wr (acqB a) R.CAL_STATE_SPARE x
      .next (if q.step = .idle then idleDone a s else s)
    else .next s

/-- TRIM_UPDATE: the displaced sub-converter's trims move by R50, and the step ends (R55). -/
def execTrimUpdate (a : ADie) (s : State) : Host.Outcome State Fault Refusal :=
  let q := s.acqSt a
  match q.step, q.displaced with
  | .run, some x => .next (stepDone a (moveTrims a x (trimDelta s a (tget (fun _ => {}) q.est q.slot)) s))
  | _, _ => .next s

/-- LIVE_TRIM_STEP: a live-trim step moves the live sub-converter's trims by at most one step each, while LIVE_TRIM is set
(R46, R63). -/
def execLiveTrimStep (a : ADie) (s : State) : Host.Outcome State Fault Refusal :=
  let q := s.acqSt a
  if q.step = .live ∧ q.windowDone = true ∧ s.on (acqB a) R.ACQ_CTRL_LIVE_TRIM = true then
    let d := trimDelta s a (tget (fun _ => {}) q.est q.slot)
    .next (stepDone a (moveTrims a (q.inSlot q.slot) (clampI (-1) 1 d.1, clampI (-1) 1 d.2.1, clampI (-1) 1 d.2.2) s))
  else .next s

/-- CAL_RUN_COMPLETE: all steps of the run are done (R55, R63). -/
def execCalRunComplete (a : ADie) (s : State) : Host.Outcome State Fault Refusal :=
  let q := s.acqSt a
  if q.phase = .run ∧ q.step = .none ∧ q.runLength ≤ q.runSteps then .next (runOver a true s) else .next s

/-- CAL_TEMP_READ: the die temperature is read, and cause TEMP arises if it has moved by more than TEMP_DELTA (R53). -/
def execCalTempRead (a : ADie) (temp : BitVec 16) (s : State) : Host.Outcome State Fault Refusal :=
  if !s.hasA a then .next s
  else
    let s := s.wr (acqB a) R.CAL_TEMP_TEMP_NOW temp.toNat
    let d := sx 16 temp.toNat - s.rdI (acqB a) R.CAL_TEMP_TEMP_REF
    .next (if s.rd (acqB a) R.CAL_CTRL_TEMP_DELTA < d.natAbs then calCause a 1 s else s)

/-- CAL_INTERVAL_EXPIRE: MAX_INTERVAL has passed since the last run ended; 0 disables (R53). -/
def execCalIntervalExpire (a : ADie) (s : State) : Host.Outcome State Fault Refusal :=
  .next (if s.rd (acqB a) R.CAL_LIMITS_MAX_INTERVAL ≠ 0 ∧ (s.acqSt a).ranOnce = true then calCause a 2 s else s)

/-- CAL_STAT_TIMEOUT: a step has waited STAT_TIMEOUT; it counts, raises source 84 or 85, and goes on (R59, R60). A window
whose sub-windows are there, or that has completed in this cycle, counts as completed (R14, R59). -/
def execCalStatTimeout (a : ADie) (s : State) : Host.Outcome State Fault Refusal :=
  let q := s.acqSt a
  let due := q.step != .idle && !q.windowDone && decide (64 ≤ q.subs.length)
  if q.step ≠ .none ∧ s.rd (acqB a) R.CAL_LIMITS_STAT_TIMEOUT ≠ 0 ∧ due = false ∧ q.doneAt ≠ some s.time.frc then
    .next ((s.inc (acqB a) R.CAL_TIMEOUT_COUNT_TIMEOUTS).raise (84 + a) q.slot)
  else .next s

def calCmdRun (a : Nat) (s : State) : State := calCause a 4 s

/-- CAL_CMD_RUN: a run with cause HOST, or RERUN during a run (R53). -/
def execCalCmdRun (a : ADie) (s : State) : Host.Outcome State Fault Refusal :=
  .next (if s.hasA a then calCmdRun a s else s)

/-- The run ends after the current step, and RERUN clears (R65), also where it waits in HOLD. -/
def calCmdAbort (a : Nat) (s : State) : State :=
  let q := s.acqSt a
  let s := (s.modAcq a fun q => { q with abort := decide (q.phase = .run), rerunCause := .none }).wr (acqB a)
    R.CAL_STATE_RERUN 0
  if q.phase = .run ∧ q.step = .none then runOver a false s else s

/-- CAL_CMD_ABORT (R65). -/
def execCalCmdAbort (a : ADie) (s : State) : Host.Outcome State Fault Refusal :=
  .next (if s.hasA a then calCmdAbort a s else s)

/-- The shared-signal skew measurement starts on A0 of the S8G-8D; the S8G-4D sets NA; A1 does nothing (R69, R71). -/
def calCmdXskew (a : Nat) (s : State) : State :=
  match s.part with
  | .s8d => if a = 0 then s.modAcq 0 fun q => { q with xskew := some (s.recvSample 0) } else s
  | .s4d => if a = 0 then s.wr (acqB 0) R.XSKEW_RESULT_NA 1 else s
  | .s2d => s

/-- CAL_CMD_XSKEW (R69, R71). -/
def execCalCmdXskew (a : ADie) (s : State) : Host.Outcome State Fault Refusal := .next (calCmdXskew a s)

/-- ACQ_DELAY_TOTAL = FACT + MEAS + BOARD at all times (R67). -/
def delayTotal (a : Nat) (s : State) : State :=
  s.wrI (acqB a) R.ACQ_DELAY_TOTAL_DELAY (s.rdI (acqB a) R.ACQ_DELAY_FACT_DELAY
    + s.rdI (acqB a) R.ACQ_DELAY_MEAS_DELAY + s.rdI (acqB a) R.ACQ_DELAY_BOARD_DELAY)

/-- The open point of R71: a sum that ACQ_DELAY_BOARD cannot hold (assumption log, entry 20). -/
def boardSum (b d : Int) : Nat :=
  if -8388608 ≤ b + d ∧ b + d ≤ 8388607 then enc 24 (b + d) else Config.free 20 (enc 26 (b + d)) % 2 ^ 24

/-- The correlation of the two streams over 2^24 samples from sample `j`, with A1's taken `d` samples later, and the
energies of the two stretches (R69). -/
def xskewAt (s : State) (j : Nat) (d : Int) : Cx × Rat × Rat :=
  (List.range (2 ^ 24)).foldl (fun acc n =>
    let x := toCx (s.streamSample 0 (j + n))
    let k : Int := (j + n : Nat) + d
    let y := if k < 0 then ((0, 0) : Cx) else toCx (s.streamSample 1 k.toNat)
    (cxAdd acc.1 (x.1 * y.1 + x.2 * y.2, x.1 * y.2 - x.2 * y.1), acc.2.1 + cxPower x, acc.2.2 + cxPower y))
    ((0, 0), 0, 0)

/-- The lag of the highest correlation within 64 samples, the lowest of equal ones, with its power and the square of its
ideal value. -/
def xskewPeak (s : State) (j : Nat) : Int × Rat × Rat :=
  ((List.range 129).map fun (i : Nat) =>
    let d := (i : Int) - 64
    let c := xskewAt s j d
    (d, cxPower c.1, c.2.1 * c.2.2)).foldl (fun m x => if m.2.1 < x.2.1 then x else m) (-64, 0, 0)

/-- A1 minus A0 in steps of 48 fs for a peak at lag `d`. The spec gives the result finer steps than a sample and not how
they are found: where within half a sample the peak lies is an open value (assumption log). -/
def xskewSteps (j : Nat) (d : Int) : Int :=
  roundRat ((d * 9765625 / 4800 : Rat) + within (9765625 / 9600) (Config.freeRat 175 j))

/-- XSKEW_COMPLETE: both streams have given the 2^24 samples of the correlation. Its peak is held against the ideal value
and the ends of the search (R70; no signal fails it, DESIGN CHOICE); a valid result is added to A1's ACQ_DELAY_BOARD if
APPLY is set (R71). -/
def execXskewComplete (s : State) : Host.Outcome State Fault Refusal :=
  match (s.acqSt 0).xskew with
  | .none => .next s
  | some j =>
    if s.streamHead 0 < j + 2 ^ 24 ∨ s.streamHead 1 < j + 2 ^ 24 + 64 then .next s
    else
      let (d, p, ideal) := xskewPeak s j
      let s := s.modAcq 0 fun q => { q with xskew := .none }
      if 4 * p < ideal ∨ p = 0 ∨ d.natAbs = 64 then
        .next (s.wrs (acqB 0) [(R.XSKEW_RESULT_VALID, 0), (R.XSKEW_RESULT_FAIL, 1)])
      else
        let steps := xskewSteps j d
        let s := s.wrs (acqB 0) [(R.XSKEW_RESULT_SKEW, enc 24 steps), (R.XSKEW_RESULT_VALID, 1),
          (R.XSKEW_RESULT_FAIL, 0)]
        .next (if s.on (acqB 0) R.XSKEW_CTRL_APPLY then
          delayTotal 1 (s.wr (acqB 1) R.ACQ_DELAY_BOARD_DELAY
            (boardSum (s.rdI (acqB 1) R.ACQ_DELAY_BOARD_DELAY) steps))
        else s)

/-- CAL_CTRL has been written: a change of MODE while the input is enabled acts as R65 states, and clearing HOLD
resumes with the causes that arose (R64). `old` is MODE before the write. -/
def calCtrlWritten (a old : Nat) (s : State) : State :=
  let m := s.calMode a
  let s := if (s.acqSt a).enabled && m != min 2 old then
      (if m = 0 then calOff a s else if min 2 old = 0 then calOn a s else s)
    else s
  let q := s.acqSt a
  if !s.calHold a && decide (q.phase = .idle) && decide (q.step = .none) then
    match waitingCause a q.rerunCause s with
    | some c =>
      startRun a c ((s.modAcq a fun q => { q with rerunCause := .none }).wr (acqB a) R.CAL_STATE_RERUN 0)
    | .none => s.calShow a
  else s.calShow a

/-- CAL_MODE_WRITE (R65). -/
def execCalModeWrite (a : ADie) (mode : BitVec 2) (s : State) : Host.Outcome State Fault Refusal :=
  .next (if s.hasA a then
    calCtrlWritten a (s.rd (acqB a) R.CAL_CTRL_MODE) (s.wr (acqB a) R.CAL_CTRL_MODE mode.toNat) else s)

/-- The snapshot that a write of EST_SEL takes: estimates held at the ends of their 16-bit fields (R74). -/
def estSnapshot (a : Nat) (s : State) : State :=
  let e := tget (fun _ => {}) (s.acqSt a).est (s.rd (acqB a) R.EST_SEL_SLOT)
  ((s.wrI (acqB a) R.EST_OFS_OFS (clampI (-32768) 32767 (roundRat (e.ofs * 256)))).wrI (acqB a)
    R.EST_GAIN_GAIN (clampI (-32768) 32767 (logRound e.ratio 100000 20))).wrI (acqB a)
    R.EST_SKEW_SKEW (clampI (-32768) 32767 (roundRat e.skew))

/-- EST_SEL_WRITE (R74). -/
def execEstSelWrite (a : ADie) (slot : Fin 64) (s : State) : Host.Outcome State Fault Refusal :=
  .next (if s.hasA a then estSnapshot a (s.wr (acqB a) R.EST_SEL_SLOT slot) else s)

/-- A factory trim at die temperature `t` in degrees, linear between 25 and 85 (R66). -/
def factoryTrim (x25 x85 : Int) (t : Rat) : Int := roundRat (x25 + (x85 - x25) * (t - 25) / 60)

/-- FACTORY_TRIM_LOAD: the fused trims, interpolated to the die temperature, go to all 65 sub-converters (R66). -/
def execFactoryTrimLoad (a : ADie) (temp : Rat) (s : State) : Host.Outcome State Fault Refusal :=
  if !s.usableA a then .next s
  else
    let q := s.acqSt a
    .next ((List.range 65).foldl (fun s n =>
      let lo : Trims := tget (fun _ => {}) q.fact25 n
      let hi : Trims := tget (fun _ => {}) q.fact85 n
      setTrim a n 2 (factoryTrim lo.skew hi.skew temp) (setTrim a n 1 (factoryTrim lo.gain hi.gain temp)
        (setTrim a n 0 (factoryTrim lo.ofs hi.ofs temp) s))) s)

/-- ACQ_DELAY_MEASURE: the sample-clock phase measured against SYSREF, every 1 ms (R67). -/
def execAcqDelayMeasure (a : ADie) (v : BitVec 16) (s : State) : Host.Outcome State Fault Refusal :=
  .next (if s.hasA a then delayTotal a (s.wr (acqB a) R.ACQ_DELAY_MEAS_DELAY v.toNat) else s)

/-! The stream (R39 to R42, R672). -/

/-- The stream of `a` starts with frame `k`: STREAM and UNCAL set (R42, R66). -/
def startStreamAt (a k : Nat) (s : State) : State :=
  let s := s.modAcq a fun q => { q with spans := (k, .none) :: q.spans, subStart := k }
  streamStart a (32 * k) (s.wrs (acqB a) [(R.ACQ_STATUS_STREAM, 1), (R.ACQ_STATUS_UNCAL, 1)])

/-- EN has become 1: the stream starts with the next frame, or with sample 0 when the frame count starts, and the
calibration starts (R64, R672). -/
def acqEnable (a : Nat) (s : State) : State :=
  if (s.acqSt a).enabled then s
  else
    let s := (s.modAcq a fun q => { q with enabled := true }).wr (acqB a) R.ACQ_CTRL_EN 1
    let s := if (s.acqSt a).counting then startStreamAt a ((s.acqSt a).frame + 1) s else s
    calOn a s

/-- ACQ_ENABLE (R672). -/
def execAcqEnable (a : ADie) (s : State) : Host.Outcome State Fault Refusal :=
  .next (if s.usableA a then acqEnable a s else s)

/-- EN has become 0: the stream ends with the frame in progress, the step is abandoned and the state is OFF (R65,
R672). -/
def acqDisable (a : Nat) (s : State) : State :=
  if (s.acqSt a).enabled then
    let q := s.acqSt a
    let s := (s.modAcq a fun q => { q with
      enabled := false, spans := q.spans.map fun e => (e.1, some (e.2.getD q.frame)) }).wr (acqB a) R.ACQ_CTRL_EN 0
    let run := s.on (acqB a) R.ACQ_STATUS_STREAM
    let s := calOff a (s.wr (acqB a) R.ACQ_STATUS_STREAM 0)
    if run then streamStop a (32 * (q.frame + 1)) s else s
  else s

/-- ACQ_DISABLE (R65, R672). -/
def execAcqDisable (a : ADie) (s : State) : Host.Outcome State Fault Refusal :=
  .next (if s.hasA a then acqDisable a s else s)

/-- ACQ_CTRL.GAIN has been written: a code above 24 sets 12.0 dB and GAIN_CLAMP; a changed gain waits for the frame
boundary, an unchanged one does nothing (R38 to R40). -/
def gainWritten (a : Nat) (s : State) : State :=
  let code := s.rd (acqB a) R.ACQ_CTRL_GAIN
  let s := if 24 < code then s.wr (acqB a) R.ACQ_STATUS_GAIN_CLAMP 1 else s
  s.modAcq a fun q => { q with gainNext := if min 24 code = q.gain then .none else some (min 24 code) }

/-- GAIN_WRITE (R39, R40). -/
def execGainWrite (a : ADie) (code : Fin 32) (s : State) : Host.Outcome State Fault Refusal :=
  .next (if s.hasA a then gainWritten a (s.wr (acqB a) R.ACQ_CTRL_GAIN code) else s)

/-- GAIN_SETTLE_END: after the 7 frames of a gain change SETTLE ends (R39). -/
def execGainSettleEnd (a : ADie) (s : State) : Host.Outcome State Fault Refusal :=
  let q := s.acqSt a
  .next (if q.settling && q.settleLeft == 0 then s.modAcq a fun q => { q with settling := false } else s)

/-- The frame boundary: a waiting gain change takes effect and the next 7 frames settle (R39). -/
def AcqSt.boundary (q : AcqSt) : AcqSt :=
  match q.gainNext with
  | some g => { q with frame := q.frame + 1, gain := g, gainNext := .none, settling := true, settleLeft := 7
                       gainAt := q.gainAt ++ [q.frame + 1] }
  | .none => { q with frame := q.frame + 1 }

/-- Whether frame `k` belongs to the stream (R672). -/
def AcqSt.streams (q : AcqSt) (k : Nat) : Bool :=
  q.spans.any fun e => decide (e.1 ≤ k) && (match e.2 with | some t => decide (k ≤ t) | .none => true)

/-- The 32 stream samples of frame `k` leave the down-converter for both transform dies (R27, R84); one that was held at
the end of its range gives their flit OVR (R41). -/
def sendFrame (a k : Nat) (s : State) : State :=
  if !(s.acqSt a).streams k then s
  else
    let xs := (List.range 32).map fun i =>
      let x := ddcExact s a (32 * k + i)
      (32 * k + i, c24Hold x.1, c24Hold x.2)
    let s := xs.foldl (fun s x => s.putSample a x.1 (x.2.1.1, x.2.2.1)) s
    if xs.any fun x => x.2.1.2 || x.2.2.2 then
      (s.mark (leadOf a) (32 * k) (32 * k + 31) markOvr).mark (leadOf a + 1) (32 * k) (32 * k + 31) markOvr
    else s

/-- A frame of converter samples: if the stream runs, overloads count (R41) and the frame's flit carries OVR, SETTLE and
UNCAL to both transform dies of the pair (R27, R42). The stream samples of the frame that entered the down-converter
12.5 ns before leave it (R85). -/
def acqFrame (a : Nat) (f : ConvFrame) (s : State) : State :=
  let q := s.acqSt a
  let s := s.takeCodes a q.frame f.codes f.spare
  let s := if q.streams q.frame then
      let n := ((f.codes.take 64).filter fun v => overload v.toInt).length
      let s := if n = 0 then s else (s.inc (acqB a) R.ACQ_OVR_COUNT_OVR_SAMPLES n).wr (acqB a) R.ACQ_STATUS_OVR 1
      let bits := markOvr * b2n (decide (0 < n)) + markSettle * b2n (q.settling && decide (0 < q.settleLeft))
        + markUncal * s.rd (acqB a) R.ACQ_STATUS_UNCAL
      let j := 32 * q.frame
      let s := (s.mark (leadOf a) j (j + 31) bits).mark (leadOf a + 1) j (j + 31) bits
      s.modAcq a fun q => { q with flit := some (j, bits) }
    else s
  let s := if ddcDelay ≤ q.frame then sendFrame a (q.frame - ddcDelay) s else s
  rsAdvance (leadOf a) (s.modAcq a fun q => ({ q with settleLeft := q.settleLeft - 1 } : AcqSt).boundary)

/-- The JESD204C receiver of the S8G-2D delivers 32 stream samples, once the lanes have released and while they are
aligned (R76, R78, R79). The table has no row of its own for it. -/
def jrxFrame (f : ConvFrame) (s : State) : State :=
  if s.on (jrxB 0) R.JRX_STATUS_READY && s.jrx.lostFrom.isNone then
    let s := (jesdSamples s f.lanes).zipIdx.foldl (fun s x => s.putSample 0 (s.jrx.next + x.2) x.1) s
    rsAdvance 0 { s with jrx := { s.jrx with next := s.jrx.next + 32 } }
  else s

/-- STREAM_FRAME: a frame of 64 converter samples is complete (R42), or in the S8G-2D 32 samples have come over the lanes
(R26, R76). -/
def execStreamFrame (a : ADie) (f : ConvFrame) (s : State) : Host.Outcome State Fault Refusal :=
  .next (if s.part = .s2d then jrxFrame f s
    else if s.hasA a && (s.acqSt a).counting then acqFrame a f s else s)

end Sys2Proof.Machine
end

