-- ==== Sys2Proof/Machine/Jrx.lean ====
section
/-! DEFINITION. The JESD204C input of the S8G-2D (chapter 2, R76 to R83). In the other configurations its
window is that of an absent die. -/

namespace Sys2Proof.Machine

/-- The lanes in use whose data arrives after the release point (R79). -/
def State.jrxLate (s : State) : List Nat :=
  (List.range s.jrxLanes).filter fun l => decide (s.rd (jrxB 0) R.JRX_RBD_RBD < tget (fun _ => 0) s.jrx.arrival l)

/-- Whether every lane in use is locked. -/
def State.jrxLocked (s : State) : Bool :=
  (List.range s.jrxLanes).all fun l => bit (s.rd (jrxB 0) R.JRX_STATUS_LANE_LOCK) l

/-- JRX_CTRL.EN has become 1: the lanes start to lock (R77). -/
def jrxEnable (s : State) : State :=
  { (s.wrs (jrxB 0) [(R.JRX_CTRL_EN, 1), (R.JRX_STATUS_LANE_LOCK, 0), (R.JRX_STATUS_READY, 0)]) with jrx := {} }

/-- JRX_ENABLE (R77). -/
def execJrxEnable (s : State) : Host.Outcome State Fault Refusal :=
  .next (if s.part = .s2d ∧ s.on (jrxB 0) R.JRX_CTRL_EN = false then jrxEnable s else s)

/-- JRX_CTRL.EN has become 0: the lanes unlock and the stream stops before sample `j`. -/
def jrxDisable (j : Nat) (s : State) : State :=
  let run := s.on (jrxB 0) R.JRX_STATUS_READY
  let s := { (s.wrs (jrxB 0) [(R.JRX_CTRL_EN, 0), (R.JRX_STATUS_LANE_LOCK, 0), (R.JRX_STATUS_READY, 0)]) with jrx := {} }
  if run then streamStop 0 j s else s

/-- JRX_LANE_LOCK: a lane in use locks, and its arrival joins JRX_ARRIVAL (R77, R81). DESIGN CHOICE: EARLY and LATE are the
least and greatest arrival since no lane was locked, so that they keep an earlier arrival of a lane that locks again. -/
def execJrxLaneLock (lane : Fin 16) (arrival : BitVec 16) (s : State) : Host.Outcome State Fault Refusal :=
  if s.part = .s2d ∧ s.on (jrxB 0) R.JRX_CTRL_EN = true ∧ (lane : Nat) < s.jrxLanes then
    let none := s.rd (jrxB 0) R.JRX_STATUS_LANE_LOCK = 0
    let early := if none then arrival.toNat else min arrival.toNat (s.rd (jrxB 0) R.JRX_ARRIVAL_EARLY)
    let late := if none then arrival.toNat else max arrival.toNat (s.rd (jrxB 0) R.JRX_ARRIVAL_LATE)
    let s := s.wrs (jrxB 0) [(R.JRX_STATUS_LANE_LOCK, s.rd (jrxB 0) R.JRX_STATUS_LANE_LOCK ||| 2 ^ (lane : Nat)),
      (R.JRX_ARRIVAL_EARLY, early), (R.JRX_ARRIVAL_LATE, late)]
    .next { s with jrx := { s.jrx with arrival := tset (fun _ => 0) s.jrx.arrival lane arrival.toNat } }
  else .next s

/-- All lanes have realigned: the stream samples that went by are lost, and the stream goes on (R79, R24). -/
def jrxRealigned (s : State) : State :=
  match s.jrx.lostFrom with
  | none => s
  | some j =>
    let k := max j (s.recvSample 0)
    let s := if j < k then s.mark 0 j (k - 1) markLost else s
    { s with jrx := { s.jrx with next := k, lostFrom := none } }

/-- JRX_RELEASE: at RBD blocks after an LEMC edge the lane buffers release together. The first release sets READY and starts
the stream, with its FRC value as R_L (R78, R429). If a lane's data has not arrived, RBD_ERR sets, source 66 names the
lanes, and all lanes realign at the next LEMC edge, whose release ends the gap in a stream that runs (R79, R616). -/
def execJrxRelease (s : State) : Host.Outcome State Fault Refusal :=
  if !(decide (s.part = .s2d) && s.on (jrxB 0) R.JRX_CTRL_EN && s.jrxLocked && s.jrx.lemc.isSome) then .next s
  else
    let ready := s.on (jrxB 0) R.JRX_STATUS_READY
    match s.jrxLate with
    | [] => .next (if ready then jrxRealigned s
      else streamStart 0 0 { s.wr (jrxB 0) R.JRX_STATUS_READY 1 with
        time := { s.time with rl := some s.time.frc }
        jrx := { s.jrx with next := 0, lostFrom := none } })
    | l =>
      let s := (s.wr (jrxB 0) R.JRX_STATUS_RBD_ERR 1).raise 66 (l.foldl (fun m k => m ||| 2 ^ k) 0)
      .next (if ready then { s with jrx := { s.jrx with lostFrom := some (s.jrx.lostFrom.getD s.jrx.next) } } else s)

/-- JRX_CRC_ERROR: a CRC-12 or sync-header error counts and sets CRC_ERR (R80). -/
def execJrxCrcError (s : State) : Host.Outcome State Fault Refusal :=
  if s.part = .s2d ∧ s.on (jrxB 0) R.JRX_CTRL_EN = true then
    .next ((s.inc (jrxB 0) R.JRX_ERR_COUNT_ERRORS).wr (jrxB 0) R.JRX_STATUS_CRC_ERR 1)
  else .next s

/-- JRX_LANE_LOCK_LOSS: a locked lane loses lock: source 66, and the stream samples `first` to `last` lost meanwhile
are flagged and not repaired (R80). -/
def execJrxLaneLockLoss (lane : Fin 16) (first last : Nat) (s : State) : Host.Outcome State Fault Refusal :=
  if s.part = .s2d ∧ bit (s.rd (jrxB 0) R.JRX_STATUS_LANE_LOCK) lane = true then
    let m := s.rd (jrxB 0) R.JRX_STATUS_LANE_LOCK
    .next (((s.wr (jrxB 0) R.JRX_STATUS_LANE_LOCK (m - 2 ^ (lane : Nat))).mark 0 first last markLost).raise 66
      (2 ^ (lane : Nat)))
  else .next s

end Sys2Proof.Machine
end

