-- ==== Sys2Proof/Machine/Time.lean ====
section
/-! DEFINITION. The time base: rates, slews and steps, domain bases, and PTP (chapter 12). The registers are held in
H0's window, from which H1's fields read; each hub's RC bits and counters are its own (R431). -/

namespace Sys2Proof.Machine

def State.modTime (s : State) (f : TimeSt → TimeSt) : State := { s with time := f s.time }
def dBase : Nat → BaseSt := fun _ => {}
def State.baseSt (s : State) (k : Nat) : BaseSt := tget dBase s.time.bases k
def State.modBase (s : State) (k : Nat) (f : BaseSt → BaseSt) : State :=
  s.modTime fun q => { q with bases := tset dBase q.bases k (f (s.baseSt k)) }

/-- Where base `k`'s registers lie (R431). -/
def dbB (k : Nat) : Nat := timeB 0 + 0x10 * k
/-- Where instance `i`'s registers lie at hub `h`. -/
def ptpB (h i : Nat) : Nat := timeB h + 0x40 * i

/-- Apply `f` at the TIME window of each hub present. -/
def eachHub (s : State) (f : Nat → State → State) : State := if s.hasHub 1 then f 1 (f 0 s) else f 0 s

/-- A signed number in a 32-bit register, held at the ends of its range. -/
def hold32 (v : Int) : Nat := enc 32 (clampI (-(2 ^ 31)) (2 ^ 31 - 1) v)

/-- The device time at FRC value `r` in fine units. -/
def State.fineAt (s : State) (r : Nat) : Int := s.timeFineAt r 1

/-- The next r1 for a change decided now (R412). -/
def nextR1 (r : Nat) : Nat := ceilTo 1280 (r + 1280)

/-- TIME_REM and SLEWING show the remainder (R413). -/
def showRem (s : State) : State :=
  s.wrs (timeB 0) [(R.TIME_REM_REM, hold32 (rhu s.time.rem fineNs)), (R.TIME_STATUS_SLEWING, b2n (decide (s.time.rem ≠ 0)))]

/-- The time base is re-anchored at `r` and takes the rates given; `jump` is a step (R412, R415). -/
def reanchor (r : Nat) (rate sl jump : Int) (s : State) : State :=
  let t := s.fineAt r + jump
  s.modTime fun q => { q with baseT := t, baseR := r, rate := rate, sl := sl }

/-- The earliest decided event: a rate change, a slew boundary, or a step. -/
def timeDue (s : State) : Nat :=
  let q := s.time
  let a := (q.rates.map (·.1)).foldl min (2 ^ 64)
  min a (min (q.slewAt.getD (2 ^ 64)) ((q.step.map (·.1)).getD (2 ^ 64)))

/-- A rate is decided: it takes effect at the next r1 (R412). -/
def decideRate (v : Int) (s : State) : State :=
  if v = s.time.rateD then s
  else s.modTime fun q => { q with rateD := v, rates := q.rates ++ [(nextR1 q.frc, v)] }

/-- RATE_EFFECTIVE: at r1 the base is re-anchored and the new rate applies (R412). -/
def execRateEffective (s : State) : Host.Outcome State Fault Refusal :=
  match s.time.rates with
  | (r, v) :: l =>
    .next (if r ≤ s.time.frc ∧ r ≤ timeDue s then
      ((reanchor r v s.time.sl 0 s).modTime fun q => { q with rates := l }).wr (timeB 0) R.TIME_RATE_RATE (enc 32 v)
    else s)
  | [] => .next s

/-- A slew begins at the next r1 if REM is not zero and none is under way (R413). -/
def startSlew (s : State) : State :=
  showRem (if s.time.rem ≠ 0 ∧ s.time.slewAt.isNone then s.modTime fun q => { q with slewAt := some (nextR1 q.frc) } else s)

/-- SLEW_PPM with its limits (R413). -/
def slewPpm (s : State) : Nat := max 1 (min 1000 (s.rd (timeB 0) R.TIME_CTRL_SLEW_PPM))

/-- SLEW_INTERVAL: at an interval's end REM is reduced by what SL added, and SL for the next interval is set; a
remainder smaller than an interval's slew goes in one last interval (R413). -/
def execSlewInterval (s : State) : Host.Outcome State Fault Refusal :=
  match s.time.slewAt with
  | none => .next s
  | some r =>
    .next (if r ≤ s.time.frc ∧ r ≤ timeDue s then
      let rem := if s.time.lastIv then 0 else s.time.rem - s.time.owed
      let full : Int := (slewPpm s * 2 ^ 44 : Nat)
      let perIv : Int := 1280 * 51200
      let sign : Int := if rem < 0 then -1 else 1
      let last := decide (rem.natAbs < (full * perIv).natAbs)
      let sl := if rem = 0 then 0 else if last then rhu rem (1280 * 51200 * 1000000) * 1000000 else sign * full
      let s := reanchor r s.time.rate sl 0 s
      showRem (s.modTime fun q => { q with
        rem := rem, owed := sl * perIv, lastIv := last && decide (rem ≠ 0), slewAt := if rem = 0 then none else some (r + 1280) })
    else s)

/-- A correction (R414, R415): to the step while SET = 0, else to REM. One over 1 s sets FAR and raises an event. -/
def correct (v : Int) (s : State) : State :=
  let far := decide (1000000000 * fineNs < v.natAbs)
  let s := if far then (eachHub s fun h s => s.wr (timeB h) R.TIME_STATUS_FAR 1).raise (133 + 16 * s.lead)
      (enc 64 (v / fineNs)) else s
  match s.time.step with
  | some (r, c) => s.modTime fun q => { q with step := some (r, c + v) }
  | none =>
    if s.on (timeB 0) R.TIME_STATUS_SET then startSlew (s.modTime fun q => { q with rem := q.rem + v, lastIv := false })
    else s.modTime fun q => { q with step := some (nextR1 q.frc, v) }

/-- TIME_STEP: at r1 the correction is applied as a step (R415). -/
def execTimeStep (s : State) : Host.Outcome State Fault Refusal :=
  match s.time.step with
  | none => .next s
  | some (r, c) =>
    .next (if r ≤ s.time.frc ∧ r ≤ timeDue s then
      let before := s.fineAt r
      let s := reanchor r s.time.rate 0 c s
      let s := s.modTime fun q => { q with
        step := none, rem := 0, owed := 0, lastIv := false, slewAt := none, stepSum := q.stepSum + c
        stepLog := (r, rhu before fineU, rhu (before + c) fineU) }
      let s := eachHub s fun h s => (s.wr (timeB h) R.TIME_STATUS_STEP 1).inc (timeB h) R.TIME_STEP_COUNT_STEPS
      showRem (s.wr (timeB 0) R.TIME_STATUS_SET 1)
    else s)

/-- A write of TIME_REM (R413). -/
def writeRem (v : Int) (s : State) : State :=
  startSlew (s.modTime fun q => { q with rem := v * fineNs, owed := 0, lastIv := false })

/-- TIME_REM_WRITE (R413). -/
def execTimeRemWrite (v : Word) (s : State) : Host.Outcome State Fault Refusal := .next (writeRem v.toInt s)

/-- TIME_UNSET (R415). -/
def timeUnset (s : State) : State := s.wr (timeB 0) R.TIME_STATUS_SET 0
def execTimeUnset (s : State) : Host.Outcome State Fault Refusal := .next (timeUnset s)

/-- TIME_ADJUST (R414). -/
def timeAdjust (s : State) : State := correct (s.rdI (timeB 0) R.TIME_ADJ_ADJ_NS * fineNs) s
def execTimeAdjust (s : State) : Host.Outcome State Fault Refusal := .next (timeAdjust s)

/-! Domain bases (R418 to R421, R674). -/

/-- The source of base `k`; 6 and 7 act as OFF. -/
def baseSrc (s : State) (k : Nat) : Nat :=
  let v := s.rd (dbB k) R.TIME_DB_k_CFG_SRC
  if 6 ≤ v then 0 else v
def basePrio (s : State) (k : Nat) : Nat := s.rd (dbB k) R.TIME_DB_k_CFG_PRIO
def baseState (s : State) (k : Nat) : Nat := s.rd (dbB k) R.TIME_DB_k_STATE_STATE

/-- The LOCKED base of lowest PRIO, then index. -/
def bestBase (s : State) : Option Nat :=
  (List.range 4).foldl (fun m k =>
    if baseState s k ≠ 2 then m
    else match m with
      | none => some k
      | some j => if basePrio s k < basePrio s j then some k else m) none

/-- Base `k` is selected: a switch-over (R420). -/
def selectBase (k : Nat) (s : State) : State :=
  let src := baseSrc s k
  let res := if src = 4 then 0 else (s.baseSt k).ofs - s.time.rem
  let s := (s.modTime fun q => { q with selected := some k }).wrs (timeB 0) [(R.TIME_STATUS_SELECTED, k),
    (R.TIME_STATUS_HOLDOVER, 0)]
  let s := correct res s
  let s := if src = 5 then s else decideRate (if src = 4 then 0 else s.rdI (dbB k) R.TIME_DB_k_RATE_RATE) s
  let s := eachHub s fun h s => (s.wr (timeB h) R.TIME_STATUS_SWITCH 1).inc (timeB h) R.TIME_SWITCH_COUNT_SWITCHES
  s.raise (133 + 16 * s.lead) (enc 64 (res / fineNs))

/-- The selection follows the states of the bases (R420, R421): with none selected the S8G is in holdover. -/
def baseSelect (s : State) : State :=
  let want := if s.on (timeB 0) R.TIME_CTRL_MANUAL then
      let m := s.rd (timeB 0) R.TIME_CTRL_MANUAL_BASE
      if baseState s m = 2 then some m else none
    else match s.time.selected with
      | some k => if baseState s k = 2 then some k else bestBase s
      | none => bestBase s
  if want = s.time.selected then s
  else match want with
    | some k => selectBase k s
    | none => (s.modTime fun q => { q with selected := none }).wr (timeB 0) R.TIME_STATUS_HOLDOVER 1

/-- Base `k` is lost (R418, R419). -/
def baseLost (k : Nat) (s : State) : State :=
  if baseState s k = 0 ∨ baseState s k = 3 then s
  else baseSelect ((s.wrs (dbB k) [(R.TIME_DB_k_STATE_STATE, 3), (R.TIME_DB_k_STATE_GOOD, 0)]).modBase k fun b => { b with
    last := none })

/-- A write of TIME_DB_k_CFG: a source that changes restarts the base (R418, R419). -/
def baseConfig (k : Nat) (changed : Bool) (s : State) : State :=
  if !changed then baseSelect s
  else baseSelect ((s.wrs (dbB k) [(R.TIME_DB_k_STATE_STATE, if baseSrc s k = 0 then 0 else 1),
    (R.TIME_DB_k_STATE_GOOD, 0)]).modBase k fun b => { b with last := none })

/-- What an update gives (R674): the residual, if there is one, and DB_RATE. -/
def baseMeasure (s : State) (k r : Nat) (o : Int) : Option Int × Int :=
  let src := baseSrc s k
  let old := s.rdI (dbB k) R.TIME_DB_k_RATE_RATE
  let sel := decide (s.time.selected = some k)
  if src = 4 then (some 0, 0)
  else if src = 5 then (some (o - s.time.rem), s.time.rateD)
  else
    match (s.baseSt k).last with
    | none => (if sel then some (o - s.time.rem) else none, old)
    | some (r0, o0, t0) =>
      let dr := r - r0
      -- m * 2^-44 * dt, in fine units
      let m := s.fineAt r - s.time.stepSum - t0 - (dr * fineFrc : Nat)
      let unit := 51200 * 1000000 * max 1 dr
      (some (if sel then o - s.time.rem else o - o0 - (old * (51200 * 1000000 * dr : Nat) - m)),
        clampI (-(2 ^ 31)) (2 ^ 31 - 1) (rhu (m + (o - o0)) unit))

/-- The lock state of base `k` after an update with residual `res` (R419). -/
def baseLock (k : Nat) (first : Bool) (res : Option Int) (s : State) : State :=
  let lim : Int := (max 1 (s.rd (timeB 0) R.TIME_LOCK_LOCK_NS) * fineNs : Nat)
  let need := max 1 (s.rd (timeB 0) R.TIME_LOCK_LOCK_COUNT)
  let st := if baseState s k = 2 then 2 else 1
  let good0 := s.rd (dbB k) R.TIME_DB_k_STATE_GOOD
  let good := match res with
    | none => good0
    | some v => if v.natAbs ≤ lim.natAbs then min 255 (good0 + 1) else 0
  let st := match res with
    | some v => if st = 2 ∧ 4 * lim.natAbs < v.natAbs then 1 else st
    | none => st
  let host := decide (baseSrc s k = 5) && first
  let now := if st = 1 && (decide (need ≤ good) || host) then 2 else st
  let s := s.wrs (dbB k) [(R.TIME_DB_k_STATE_STATE, now), (R.TIME_DB_k_STATE_GOOD, good)]
  if now = 2 ∧ st = 1 then s.modBase k fun b => { b with since := s.time.frc } else s

/-- The servo of the selected base (R674). -/
def baseServo (k r : Nat) (res : Int) (s : State) : State :=
  let src := baseSrc s k
  if src = 5 then correct res s
  else if src = 4 then s
  else
    let s := correct (res / 2 ^ s.rd (timeB 0) R.TIME_SERVO_KP) s
    match (s.baseSt k).last with
    | none => s
    | some (r0, _, _) =>
      let raw := s.time.rateD + rhu res (2 ^ s.rd (timeB 0) R.TIME_SERVO_KI * (51200 * 1000000 * max 1 (r - r0)))
      let v := clampI (-(2 ^ 31)) (2 ^ 31 - 1) raw
      decideRate v (s.wr (timeB 0) R.TIME_STATUS_RATE_LIMIT (b2n (decide (v ≠ raw))))

/-- An update of base `k` at FRC value `r` with offset `o` (R674). -/
def baseUpdate (k r : Nat) (o : Int) (s : State) : State :=
  if baseSrc s k = 0 then s
  else
    let sel := decide (s.time.selected = some k)
    let first := (s.baseSt k).last.isNone
    let (res, rate) := baseMeasure s k r o
    let s := match res, sel with
      | some v, true => baseServo k r v s
      | _, _ => s
    let s := s.wrs (dbB k) [(R.TIME_DB_k_OFS_OFS, hold32 (rhu o fineNs)), (R.TIME_DB_k_RATE_RATE, enc 32 rate)]
    let t := s.fineAt r - s.time.stepSum
    let s := s.modBase k fun b => { b with last := some (r, o, t), ofs := o }
    baseSelect (baseLock k first res s)

/-- Update every base whose source is `src`. -/
def updateBases (src r : Nat) (o : Int) (s : State) : State :=
  (List.range 4).foldl (fun s k => if baseSrc s k = src then baseUpdate k r o s else s) s

/-- TIME_CMD.HOSTSET (R418). -/
def timeHostset (s : State) : State :=
  updateBases 5 s.time.frc (ofSts s.time.hostTime * fineU - s.fineAt s.time.frc) s
def execTimeHostset (s : State) : Host.Outcome State Fault Refusal := .next (timeHostset s)

/-- BASE_REVERT: a LOCKED base of lower PRIO than the selected one has stayed LOCKED for REVERT_S (R420), each second
1.28 × 10^9 FRC units. -/
def execBaseRevert (k : Fin 4) (s : State) : Host.Outcome State Fault Refusal :=
  let rv := s.rd (timeB 0) R.TIME_SELECT_REVERT_S
  match s.time.selected with
  | some j =>
    .next (if decide (rv ≠ 0) && !s.on (timeB 0) R.TIME_CTRL_MANUAL && decide (baseState s k = 2)
        && decide (basePrio s k < basePrio s j) && decide ((s.baseSt k).since + rv * 1280000000 ≤ s.time.frc)
      then selectBase k s else s)
  | none => .next s

/-- REF_BASE_TICK: every second a REF base updates, or is lost without the reference (R418). -/
def execRefBaseTick (s : State) : Host.Outcome State Fault Refusal :=
  .next (if s.on (timeB 0) R.TIME_STATUS_REF_OK then updateBases 4 s.time.frc 0 s
    else (List.range 4).foldl (fun s k => if baseSrc s k = 4 then baseLost k s else s) s)

/-- PPS_LOSS: a PPS base has seen no edge for 1.5 s (R418). -/
def execPpsLoss (k : Fin 4) (s : State) : Host.Outcome State Fault Refusal :=
  .next (if baseSrc s k = 3 then baseLost k s else s)

/-- A rising edge of event-timing input `g` at device time `t` (2^-16 ns) and FRC value `r` reaches the PPS bases: the
base's time is the nearest whole second, and the offset is that time less device time, as R418 defines offsets and the
example of R421 has the sign (DEDUCED). -/
def ppsEdge (g r : Nat) (t : Int) (s : State) : State :=
  let sec : Int := 65536000000000
  let o := (rhu t 65536000000000 * sec - t) * fineU
  (List.range 4).foldl (fun s k =>
    if baseSrc s k = 3 ∧ s.rd (dbB k) R.TIME_DB_k_CFG_TDC = g then baseUpdate k r o s else s) s

/-- FRC starts (R408): bases take their configured sources, and no base is selected. -/
def timeStart (ref : Bool) (s : State) : State :=
  let s := (s.modTime fun q => { q with run := true }).wrs (timeB 0) [(R.TIME_STATUS_FINE, 1), (R.TIME_STATUS_REF_OK, b2n ref),
    (R.TIME_STATUS_HOLDOVER, 1)]
  let s := (List.range 4).foldl (fun s k => baseConfig k true s) s
  if s.hasHub 1 then s.wr (timeB 1) R.TIME_STATUS_MIRROR_OK 1 else s

/-! PTP (R422 to R427). Port state codes of the standard: 3 DISABLED, 4 LISTENING, 6 MASTER, 7 PASSIVE, 9 SLAVE. -/

def dPort : Nat → PtpPort := fun _ => {}
def State.ptpPort (s : State) (i p : Nat) : PtpPort := tget dPort s.time.ports (2 * i + p)
def State.modPort (s : State) (i p : Nat) (f : PtpPort → PtpPort) : State :=
  s.modTime fun q => { q with ports := tset dPort q.ports (2 * i + p) (f (s.ptpPort i p)) }

/-- The role of port `p` in instance `i` (R422): DISABLED without the instance or the hub. -/
def ptpRole (s : State) (i p : Nat) : Nat :=
  if !s.on (ptpB 0 i) R.TIME_PTP_i_CFG_EN || !s.hasHub p then 0
  else s.rd (ptpB 0 i) (if p = 0 then R.TIME_PTP_i_CFG_ROLE0 else R.TIME_PTP_i_CFG_ROLE1)

def portFld (p : Nat) : Fld := if p = 0 then R.TIME_PTP_i_STATE_PORT0 else R.TIME_PTP_i_STATE_PORT1
def portState (s : State) (i p : Nat) : Nat := s.rd (ptpB 0 i) (portFld p)

/-- Ordering of data sets: lexicographic, lower wins. -/
def rankLt : List Nat → List Nat → Bool
  | a :: l, b :: m => decide (a < b) || (decide (a = b) && rankLt l m)
  | [], _ :: _ => true
  | _, [] => false

/-- The clockClass an instance announces (R427). -/
def ptpClass (s : State) (i : Nat) : Nat :=
  match s.time.selected with
  | some k => if baseState s k = 2 ∧ baseSrc s k ≠ 1 ∧ baseSrc s k ≠ 2
      then s.rd (ptpB 0 i) R.TIME_PTP_i_DS_CLASS_LOCKED else s.rd (ptpB 0 i) R.TIME_PTP_i_DS_CLASS_HOLDOVER
  | none => s.rd (ptpB 0 i) R.TIME_PTP_i_DS_CLASS_HOLDOVER

/-- The data set of the instance itself: priority1, class, accuracy, variance, priority2, identity, steps. -/
def ownRank (s : State) (i : Nat) : List Nat :=
  [s.rd (ptpB 0 i) R.TIME_PTP_i_DS_PRIORITY1, ptpClass s i, 0xFE, 0xFFFF, s.rd (ptpB 0 i) R.TIME_PTP_i_DS_PRIORITY2,
    s.time.clockId.getD 0, 0]

/-- The state of port `p` after the best master clock algorithm of the standard (R422). -/
def ptpDecide (s : State) (i p : Nat) : Nat :=
  let best := (s.ptpPort i p).best
  let other := (s.ptpPort i (1 - p)).best
  match ptpRole s i p with
  | 0 => 3
  | 2 => if best.isSome then 9 else 4
  | 3 => 6
  | _ =>
    match best with
    | none => if portState s i p = 6 then 6 else 4
    | some b =>
      if !rankLt b.rank (ownRank s i) then 6
      else match other with
        | some o => if rankLt o.rank b.rank && decide (ptpRole s i (1 - p) = 1 ∨ ptpRole s i (1 - p) = 2) then 7 else 9
        | none => 9

/-- The ports of instance `i` take their states; GM shows that none is a slave (R422). -/
def ptpPorts (i : Nat) (s : State) : State :=
  let a := ptpDecide s i 0
  let b := ptpDecide s i 1
  s.wrs (ptpB 0 i) [(R.TIME_PTP_i_STATE_PORT0, a), (R.TIME_PTP_i_STATE_PORT1, b),
    (R.TIME_PTP_i_STATE_GM, b2n ((a == 6 || b == 6) && a != 9 && b != 9))]

/-- A write of TIME_PTP_i_CFG: each port starts in the state of its role. -/
def ptpConfig (i : Nat) (s : State) : State :=
  let st := fun p => match ptpRole s i p with | 0 => 3 | 3 => 6 | _ => 4
  let s := (s.modPort i 0 fun _ => {}).modPort i 1 fun _ => {}
  ptpPorts i (s.wrs (ptpB 0 i) [(R.TIME_PTP_i_STATE_PORT0, st 0), (R.TIME_PTP_i_STATE_PORT1, st 1)])

/-- The enabled instance that a message in `domain` at port `p` belongs to. -/
def ptpInst (s : State) (p domain : Nat) : Option Nat :=
  [0, 1].find? fun i => decide (ptpRole s i p ≠ 0) && decide (min 127 (s.rd (ptpB 0 i) R.TIME_PTP_i_CFG_DOMAIN) = domain)

/-- A message that is not accepted is discarded and counted for the instance whose port received it (R422). -/
def ptpDiscard (p : Nat) (s : State) : State :=
  let i := if ptpRole s 0 p = 0 ∧ ptpRole s 1 p ≠ 0 then 1 else 0
  s.inc (ptpB p i) R.TIME_PTP_i_BAD_DISCARDED

/-- An accepted message counts in the receiving hub's counter (R431). -/
def ptpAccept (p i : Nat) (s : State) : State :=
  s.wr (ptpB p i) R.TIME_PTP_i_RX_RECEIVED ((s.rd (ptpB p i) R.TIME_PTP_i_RX_RECEIVED + 1) % 2 ^ 32)

/-- Picoseconds in fine units: 1 ps is 2^60 * 1000 of them. -/
def finePs : Nat := 2 ^ 60 * 1000

/-- Device time at which a message passed port `p`'s balls, from its FRC stamp (R424). -/
def ingressAt (s : State) (p r : Nat) : Int := s.fineAt r - s.rd (timeB p + 0x10 * p) R.TIME_PORTp_LAT_INGRESS * finePs
def egressAt (s : State) (p r : Nat) : Int := s.fineAt r + s.rd (timeB p + 0x10 * p) R.TIME_PORTp_LAT_EGRESS * finePs
def portAsym (s : State) (p : Nat) : Int := s.rdI (timeB p + 0x10 * p) R.TIME_PORTp_ASYM_ASYM * finePs

/-- PTP_SYNC_RECEIVE: a Sync, with its originTimestamp and corrections, stamped at FRC value `r`. In state SLAVE it
updates the bases of its instance (R418, R422, R424). -/
def execPtpSyncReceive (p : Hub) (m : PtpMsg) (origin : Sts) (corr : BitVec 64) (r : Nat) (s : State) :
    Host.Outcome State Fault Refusal :=
  match (if m.supported then ptpInst s p m.domain.toNat else none) with
  | none => .next (ptpDiscard p s)
  | some i =>
    let s := (ptpAccept p i s).modPort i p fun q => { q with syncAt := some s.time.frc }
    if portState s i p ≠ 9 then .next s
    else
      let t1 := ofSts origin.toNat * fineU
      let c := corr.toInt * fineU
      let t2 := ingressAt s p r
      let mpd : Int := (s.rd (ptpB 0 i) R.TIME_PTP_i_MPD_MPD * finePs : Nat)
      let s := s.modPort i p fun q => { q with sync := some (t1, t2, c) }
      .next (updateBases (1 + i) r (t1 + c + portAsym s p + mpd - t2) s)

/-- PTP_ANNOUNCE_RECEIVE: an Announce feeds the best master clock algorithm and TIME_UTC (R417, R422). -/
def execPtpAnnounceReceive (p : Hub) (m : PtpMsg) (a : PtpAnnounce) (s : State) : Host.Outcome State Fault Refusal :=
  match (if m.supported then ptpInst s p m.domain.toNat else none) with
  | none => .next (ptpDiscard p s)
  | some i =>
    let s := ptpAccept p i s
    let rank := [a.priority1.toNat, a.clockClass.toNat, a.accuracy.toNat, a.variance.toNat, a.priority2.toNat,
      a.gmId.toNat, a.steps.toNat]
    let s := s.modPort i p fun q => { q with annAt := some s.time.frc, best := match q.best with
      | none => some ⟨rank, a.sender.toNat⟩
      | some b => if b.sender = a.sender.toNat ∨ rankLt rank b.rank then some ⟨rank, a.sender.toNat⟩ else some b }
    let s := s.wrs (timeB 0) [(R.TIME_UTC_OFFSET, a.utcOffset.toNat), (R.TIME_UTC_VALID, b2n (a.flags.getLsbD 2)),
      (R.TIME_UTC_LEAP61, b2n (a.flags.getLsbD 0)), (R.TIME_UTC_LEAP59, b2n (a.flags.getLsbD 1)),
      (R.TIME_UTC_PTP_TIMESCALE, b2n (a.flags.getLsbD 3))]
    .next (ptpPorts i (s.modTime fun q => { q with gmId := a.gmId.toNat }))

/-- PTP_DELAY_RESP_RECEIVE: a Delay_Resp or Pdelay_Resp completes the measurement whose request is out (R422, R423).
`remote` is the time the request was received (end-to-end) or the responder's turnaround (peer), `corr` the
corrections, `r` the stamp of a Pdelay_Resp. -/
def execPtpDelayRespReceive (p : Hub) (m : PtpMsg) (remote : Sts) (corr : BitVec 64) (r : Nat) (s : State) :
    Host.Outcome State Fault Refusal :=
  match (if m.supported then ptpInst s p m.domain.toNat else none) with
  | none => .next (ptpDiscard p s)
  | some i =>
    let s := ptpAccept p i s
    match (s.ptpPort i p).req with
    | none => .next s
    | some r3 =>
      let t3 := egressAt s p r3
      let c := corr.toInt * fineU
      let rem := ofSts remote.toNat * fineU
      let mpd := if s.on (ptpB 0 i) R.TIME_PTP_i_CFG_DELAY then some ((ingressAt s p r - t3 - rem - c) / 2)
        else match (s.ptpPort i p).sync with
          | some (t1, t2, c1) => some ((t2 - t1 - c1 + rem - t3 - c) / 2)
          | none => none
      let s := s.modPort i p fun q => { q with req := none }
      .next (match mpd with
        | some v => s.wr (ptpB 0 i) R.TIME_PTP_i_MPD_MPD (clampI 0 (2 ^ 32 - 1) (rhu v finePs)).toNat
        | none => s)

/-- A timeout counts in the hub's counter (R423). -/
def ptpTimeout (p i : Nat) (s : State) : State := s.inc (ptpB p i) R.TIME_PTP_i_TIMEOUT_TIMEOUTS

/-- PTP_SYNC_TIMEOUT: no Sync for SYNC_TO intervals at a port in SLAVE: its bases are lost (R423). A Sync that arrives in
the same cycle wins (R14). -/
def execPtpSyncTimeout (p : Hub) (i : Fin 2) (s : State) : Host.Outcome State Fault Refusal :=
  .next (if portState s i p = 9 ∧ (s.ptpPort i p).syncAt ≠ some s.time.frc then
    (List.range 4).foldl (fun s k => if baseSrc s k = 1 + i then baseLost k s else s) (ptpTimeout p i s)
  else s)

/-- PTP_ANNOUNCE_TIMEOUT: the port drops its best master (R423): with BMCA it becomes a master. An Announce that arrives
in the same cycle wins (R14). -/
def execPtpAnnounceTimeout (p : Hub) (i : Fin 2) (s : State) : Host.Outcome State Fault Refusal :=
  let role := ptpRole s i p
  .next (if (role = 1 ∨ role = 2) ∧ (s.ptpPort i p).annAt ≠ some s.time.frc then
    let s := (ptpTimeout p i s).modPort i p fun q => { q with best := none }
    ptpPorts i (s.wr (ptpB 0 i) (portFld p) (if role = 1 then 6 else 4))
  else s)

/-- PTP_DELAY_TIMEOUT: the response has not arrived within four request intervals: the measurement is dropped (R423). -/
def execPtpDelayTimeout (p : Hub) (i : Fin 2) (s : State) : Host.Outcome State Fault Refusal :=
  .next (s.modPort i p fun q => { q with req := none })

/-- PTP_MESSAGE_TRANSMIT: a message of the standard's type `kind` leaves at FRC value `r`. A one-step Sync carries T at
the timestamp point, its fraction in the correctionField (R425); a delay request starts a measurement. -/
def execPtpMessageTransmit (p : Hub) (i : Fin 2) (kind : Fin 16) (r : Nat) (s : State) :
    Host.Outcome State Fault Refusal :=
  if ptpRole s i p = 0 then .next s
  else
    let s := s.wr (ptpB p i) R.TIME_PTP_i_TX_SENT ((s.rd (ptpB p i) R.TIME_PTP_i_TX_SENT + 1) % 2 ^ 32)
    let t := stsOf (rhu (egressAt s p r) fineU)
    let one := decide ((kind : Nat) = 0) && s.on (ptpB 0 i) R.TIME_PTP_i_CFG_ONESTEP
    let follow := decide ((kind : Nat) = 8)
    let ins := one || follow
    let o : PtpOut := { port := p, inst := i, kind := kind, origin := if ins then t / 65536 else 0
                        corr := if ins then t % 65536 else 0, cls := if (kind : Nat) = 11 then ptpClass s i else 0 }
    let s := s.modTime fun q => { q with sent := q.sent ++ [o] }
    .next (if (kind : Nat) = 1 ∨ (kind : Nat) = 2 then s.modPort i p fun q => { q with req := some r } else s)

/-- What passes while no command waits: one TCLK cycle, in which FRC adds 8, or in AON without a reference one AOCLK
cycle, in which it adds 39,062 and 39,063 in turn (R408, R409). Nothing passes before FRC has started. -/
def idleTick (s : State) : State :=
  if !s.time.run then s
  else if inAon s && !s.on (timeB 0) R.TIME_STATUS_REF_OK then
    s.modTime fun q => { q with frc := (q.frc + (if q.alt then 39063 else 39062)) % 2 ^ 64, alt := !q.alt }
  else s.modTime fun q => { q with frc := (q.frc + 8) % 2 ^ 64 }

end Sys2Proof.Machine
end

