-- ==== Sys2Proof/Machine/Clk.lean ====
section
/-! DEFINITION. Clock synthesis: references, synthesisers, relock, and SYSREF (chapter 19). -/

namespace Sys2Proof.Machine

def dClk : Nat → ClkSt := fun _ => {}
def State.clkSt (s : State) (h : Nat) : ClkSt := tget dClk s.clk h
def State.modClk (s : State) (h : Nat) (f : ClkSt → ClkSt) : State := { s with clk := tset dClk s.clk h (f (s.clkSt h)) }
def State.synth (s : State) (h : Nat) (out : Bool) : Synth := if out then (s.clkSt h).out else (s.clkSt h).sys
def State.modSynth (s : State) (h : Nat) (out : Bool) (f : Synth → Synth) : State :=
  s.modClk h fun q => if out then { q with out := f q.out } else { q with sys := f q.sys }

def lockFld (out : Bool) : Fld := if out then R.CLK_STATUS_OUT_LOCK else R.CLK_STATUS_SYS_LOCK
def holdFld (out : Bool) : Fld := if out then R.CLK_STATUS_HOLD_OUT else R.CLK_STATUS_HOLD_SYS

/-- The hubs that have a CLK block. -/
def State.clkHubs (s : State) : List Nat := if s.hasHub 1 then [0, 1] else [0]

/-- The reference frequency in MHz (R579). -/
def refMhz (code : Nat) : Nat := match code with | 0 => 10 | 2 => 160 | _ => 100
def liveMhz (s : State) : Nat := refMhz (s.rdL (clkB 0) R.CLK_REF_FREQ)

/-! Relock (R585, R590). -/

/-- The modulator loads SEED; 0 acts as 1 (R585). -/
def seedSynth (s : State) (h : Nat) (q : Synth) : Synth :=
  let seed := max 1 (s.rd (clkB h) R.CLK_DITHER_SEED)
  { q with acc := [seed, seed, seed], lfsr := seed }

/-- A relock of a synthesiser starts: its clocks go to holdover (R590). A relock in progress starts again. -/
def relock (h : Nat) (out : Bool) (s : State) : State :=
  (s.wrs (clkB h) [(lockFld out, 0), (holdFld out, 1)]).modSynth h out fun q =>
    { q with relocking := true, restart := true, since := s.time.frc, good := 0, pass := false }

/-- RELOCK_START: 1 us into a relock the loop restarts with the new words and the modulator is loaded (R585, R590). -/
def execRelockStart (h : Hub) (out : Bool) (s : State) : Host.Outcome State Fault Refusal :=
  .next (if s.hasHub h && (s.synth h out).restart then
    s.modSynth h out fun q => { seedSynth s h q with restart := false } else s)

/-- Both synthesisers of every hub take a new reference: a change of the input in use or of FREQ (R581, R590). -/
def relockAll (s : State) : State :=
  s.clkHubs.foldl (fun s h => relock h true (relock h false s)) s

/-! References (R580, R581). -/

def presFld (n : Nat) : Fld := if n = 0 then R.CLK_REF_STATUS_PRES_0 else R.CLK_REF_STATUS_PRES_1
def refInUse (s : State) : Nat := s.rd (clkB 0) R.CLK_REF_STATUS_IN_USE
def refPresent (s : State) (n : Nat) : Bool := s.on (clkB 0) (presFld n)

/-- TIME_STATUS.REF_OK follows the selected reference. In AON its return clears SET and sets REF_GAP (R409, R580). -/
def showRefOk (s : State) : State :=
  let ok := refPresent s (refInUse s)
  let back := ok && !s.on (timeB 0) R.TIME_STATUS_REF_OK && inAon s && s.time.run
  let s := s.wr (timeB 0) R.TIME_STATUS_REF_OK (b2n ok)
  if back then eachHub (timeUnset s) fun h s => s.wr (timeB h) R.TIME_STATUS_REF_GAP 1 else s

/-- The input in use becomes `n`: SYS and OUT relock (R581). -/
def refUse (n : Nat) (s : State) : State :=
  if refInUse s = n then showRefOk s
  else showRefOk (relockAll (s.wr (clkB 0) R.CLK_REF_STATUS_IN_USE n))

/-- The input that MODE selects (R581): REF0, REF1, or in AUTO REFIN0 while it is present and otherwise REFIN1 if that
is present; the return to REFIN0 is REF_REVERT's. -/
def refSelect (s : State) : State :=
  match s.rdL (clkB 0) R.CLK_REF_MODE with
  | 0 => refUse 0 s
  | 1 => refUse 1 s
  | _ =>
    if refInUse s = 0 && !refPresent s 0 && refPresent s 1 then refUse 1 s
    else if refInUse s = 1 && !refPresent s 1 && refPresent s 0 && !(s.clkSt 0).sys.ever then refUse 0 s
    else showRefOk s

/-- Input `n` becomes present. -/
def refPresentNow (n : Nat) (s : State) : State :=
  if refPresent s n then s
  else
    let s := s.wr (clkB 0) (presFld n) 1
    let s := if n = 0 then s.modClk 0 fun q => { q with since0 := some s.time.frc } else s
    let s := refSelect s
    if s.on (clkB 0) R.CLK_STATUS_NOREF && refPresent s (refInUse s) then
      relockAll (s.wr (clkB 0) R.CLK_STATUS_NOREF 0)
    else s

/-- Input `n` becomes absent: counted, and an event of source 16 or 17 (R580). -/
def refAbsentNow (n : Nat) (s : State) : State :=
  let s := s.modClk 0 fun q => if n = 0 then { q with good0 := 0, since0 := none } else { q with good1 := 0 }
  if !refPresent s n then s
  else
    let used := decide (refInUse s = n)
    let s := ((s.wr (clkB 0) (presFld n) 0).inc (clkB 0) R.CLK_REFLOSS_COUNT_COUNT).raise (if used then 16 else 17) n
    refSelect s

/-- Whether `edges` in a window of 32 AOCLK cycles lie within 0.2 % of the expected f * 976.5625 (R580). -/
def windowOk (mhz edges : Nat) : Bool :=
  decide (((edges * 16 : Nat) - (mhz * 15625 : Nat) : Int).natAbs * 500 ≤ mhz * 15625)

/-- REF_PRESENCE_WINDOW: the edges of both references in a window of 32 AOCLK cycles (R580). The input not in use is taken
first, so that a loss of both raises an event of each source. -/
def execRefPresenceWindow (edges0 edges1 : Nat) (s : State) : Host.Outcome State Fault Refusal :=
  let f := liveMhz s
  let win := fun n edges (s : State) =>
    if windowOk f edges then
      let s := s.modClk 0 fun q => if n = 0 then { q with good0 := min 3 (q.good0 + 1) } else { q with good1 := min 3 (q.good1 + 1) }
      s
    else refAbsentNow n s
  let s := if refInUse s = 0 then win 0 edges0 (win 1 edges1 s) else win 1 edges1 (win 0 edges0 s)
  let s := if 3 ≤ (s.clkSt 0).good0 then refPresentNow 0 s else s
  .next (if 3 ≤ (s.clkSt 0).good1 then refPresentNow 1 s else s)

/-- REF_EDGE_TIMEOUT: no edge for 1.0 us (R580). -/
def execRefEdgeTimeout (n : Fin 2) (s : State) : Host.Outcome State Fault Refusal := .next (refAbsentNow n s)

/-- REF_REVERT: in AUTO, REFIN0 has been present for REVERT_S seconds; 0 never reverts (R581). -/
def execRefRevert (s : State) : Host.Outcome State Fault Refusal :=
  let r := s.rdL (clkB 0) R.CLK_REF_REVERT_S
  .next (match (s.clkSt 0).since0 with
    | some f => if r ≠ 0 ∧ 2 ≤ s.rdL (clkB 0) R.CLK_REF_MODE ∧ refInUse s = 1 ∧ f + r * 1280000000 ≤ s.time.frc then
        refUse 0 s else s
    | none => s)

/-- REF_START_TIMEOUT: 100 ms into the CLOCKS row the selected reference is not present (R595). -/
def execRefStartTimeout (s : State) : Host.Outcome State Fault Refusal :=
  .next (if s.rd (bootB 0) R.BOOT_STATUS_STATE = 2 ∧ refPresent s (refInUse s) = false then
    (s.wr (clkB 0) R.CLK_STATUS_NOREF 1).raise 22 0 else s)

/-! Lock (R587 to R590). -/

/-- N of a synthesiser as a fraction (R582, R584). -/
def synthN (s : State) (h : Nat) (out : Bool) : Nat × Nat :=
  if out then
    let m := max 1 (s.rdL (clkB h) R.CLK_OUT_MOD_MOD)
    (s.rdL (clkB h) R.CLK_OUT_N_INT * m + s.rdL (clkB h) R.CLK_OUT_FRAC_FRAC, m)
  else match liveMhz s with
    | 10 => (512, 1) | 160 => (32, 1) | _ => (256, 5)

/-- The expected count of a window (R587). -/
def lockExpect (s : State) (h : Nat) (out : Bool) : Nat :=
  let n := synthN s h out
  let w := 8 + min 8 (s.rd (clkB h) R.CLK_LOCK_CFG_WIN)
  (rhu (n.1 * 2 ^ w : Nat) (4 * n.2)).toNat

/-- Whether the LOCKA comparator watches this synthesiser (R588). -/
def lockaWatches (s : State) (h : Nat) (out : Bool) : Bool :=
  decide (h = 0) && (s.on (clkB 0) R.CLK_LOCKA_SRC == out)

/-- Whether the checks that METHOD names pass (R589). -/
def checksPass (s : State) (h : Nat) (out : Bool) : Bool :=
  let locka := s.on (clkB 0) R.CLK_STATUS_LOCKA
  let cnt := (s.synth h out).pass
  if lockaWatches s h out then
    match s.rd (clkB h) R.CLK_LOCK_CFG_METHOD with
    | 0 => cnt
    | 1 => locka
    | _ => cnt && locka
  else cnt

/-- A locked synthesiser that fails a check it depends on has lost lock (R589). -/
def checkUnlock (h : Nat) (out : Bool) (s : State) : State :=
  if s.on (clkB h) (lockFld out) && !checksPass s h out then relock h out (s.inc (clkB h) R.CLK_UNLOCK_COUNT_COUNT) else s

/-- LOCK_WINDOW: a counter window of a synthesiser ends with `count` (R587). -/
def execLockWindow (h : Hub) (out : Bool) (count : Nat) (s : State) : Host.Outcome State Fault Refusal :=
  if !s.hasHub h || (s.synth h out).restart then .next s
  else
    let tol := max 1 (s.rd (clkB h) R.CLK_LOCK_CFG_TOL)
    let d := ((count : Int) - lockExpect s h out).natAbs
    let need := max 1 (s.rd (clkB h) R.CLK_LOCK_CFG_LOCK_COUNT)
    let s := s.modSynth h out fun q =>
      if d ≤ tol then { q with good := q.good + 1, pass := q.pass || decide (need ≤ q.good + 1) }
      else if d ≤ 4 * tol then { q with good := 0 }
      else { q with good := 0, pass := false }
    .next (checkUnlock h out s)

/-- LOCKA_CHANGE: the comparator crosses a threshold (R588, R589). -/
def execLockaChange (on : Bool) (s : State) : Host.Outcome State Fault Refusal :=
  let s := s.wr (clkB 0) R.CLK_STATUS_LOCKA (b2n on)
  .next (checkUnlock 0 true (checkUnlock 0 false s))

/-- Lock is declared: the clocks return to the synthesiser (R590). -/
def declareLock (h : Nat) (out : Bool) (s : State) : State :=
  ((s.wrs (clkB h) [(lockFld out, 1), (holdFld out, 0)]).inc (clkB h) R.CLK_RELOCK_COUNT_COUNT).modSynth h out fun q =>
    { q with relocking := false, ever := true }

/-- Whether lock can be declared: the checks pass and the reference in use is present (R589, R590). -/
def mayLock (s : State) (h : Nat) (out : Bool) : Bool :=
  let q := s.synth h out
  q.relocking && !q.restart && checksPass s h out && refPresent s (refInUse s)

/-- SYNTH_LOCK (R589, R590). -/
def execSynthLock (h : Hub) (out : Bool) (s : State) : Host.Outcome State Fault Refusal :=
  .next (if s.hasHub h && mayLock s h out then declareLock h out s else s)

/-- RELOCK_TIMEOUT: TIMEOUT ms without lock; a lock in that cycle counts as declared (R14, R590). -/
def execRelockTimeout (h : Hub) (out : Bool) (s : State) : Host.Outcome State Fault Refusal :=
  let q := s.synth h out
  let ms := max 1 (s.rd (clkB h) R.CLK_LOCK_CFG_TIMEOUT)
  .next (if !s.hasHub h || !q.relocking || decide (s.time.frc < q.since + ms * 1280000) then s
    else if mayLock s h out then declareLock h out s
    else relock h out ((s.wr (clkB h) R.CLK_STATUS_TIMEOUT 1).raise (if out then 19 else 18) h))

/-! The shadow set (R590, R597, R598). -/

/-- Offsets of the registers marked (S). -/
def clkShadow : List Nat := [0x10, 0x18, 0x1C, 0x20, 0x104, 0x114, 0x124]

/-- Whether the shadow set may be handed over: 4000 to 6400 MHz and FRAC below MOD (R598). -/
def clkInRange (s : State) (h : Nat) : Bool :=
  let m := max 1 (s.rd (clkB h) R.CLK_OUT_MOD_MOD)
  let fr := s.rd (clkB h) R.CLK_OUT_FRAC_FRAC
  let f := if h = 0 then refMhz (s.rd (clkB 0) R.CLK_REF_FREQ) else liveMhz s
  let v := (s.rd (clkB h) R.CLK_OUT_N_INT * m + fr) * f
  decide (4000 * m ≤ v) && decide (v ≤ 6400 * m) && decide (fr < m)

/-- CLK_CMD.COMMIT: the hand-over, with the relocks it calls for, or RANGE (R590, R598). A relock in progress on the hub
starts again with the new values. -/
def clkCommit (h : Nat) (s : State) : State :=
  let b := clkB h
  if !clkInRange s h then s.wr b R.CLK_STATUS_RANGE 1
  else
    let words := fun (s : State) => ([0x18, 0x1C, 0x20].map fun o => s.liveReg (b + o))
    let old := words s
    let f := liveMhz s
    let s := (clkShadow.foldl (fun s o => s.handOver b o (o + 4)) s).wr b R.CLK_SHADOW_DIRTY 0
    if liveMhz s ≠ f then refSelect (relockAll s)
    else
      let s := if words s ≠ old ∨ (s.synth h true).relocking then relock h true s else s
      let s := if (s.synth h false).relocking then relock h false s else s
      if h = 0 then refSelect s else s

/-- CLK_CMD.REVERT, as R96. -/
def clkRevert (h : Nat) (s : State) : State :=
  (clkShadow.foldl (fun s o => s.takeBack (clkB h) o (o + 4)) s).wr (clkB h) R.CLK_SHADOW_DIRTY 0

def clkRelock (h : Nat) (s : State) : State := relock h true (relock h false s)

def execClkCommit (h : Hub) (s : State) : Host.Outcome State Fault Refusal :=
  .next (if s.hasHub h then clkCommit h s else s)
def execClkRevert (h : Hub) (s : State) : Host.Outcome State Fault Refusal :=
  .next (if s.hasHub h then clkRevert h s else s)
def execClkRelock (h : Hub) (s : State) : Host.Outcome State Fault Refusal :=
  .next (if s.hasHub h then clkRelock h s else s)

/-- What drives an output: nothing, held low, or a source (0 OUT, 1 SYSREF, 2 TCLK, 3 the reference, 4 HO) divided by
a number (R590, R592). A DIV of 1 acts as 2 except in CML. -/
inductive ClkDrive where
  | off | low | source (code div : Nat)
  deriving DecidableEq, Repr

def clkOutput (s : State) (h o : Nat) : ClkDrive :=
  let b := clkB h + 0x10 * o
  let fmt := s.rd b R.CLK_OUT_o_CFG_FMT
  let src := s.rd b R.CLK_OUT_o_CFG_SRC
  if fmt = 0 ∨ 6 ≤ fmt then .off
  else if src ≠ 0 then .source src 1
  else if s.on (clkB h) R.CLK_STATUS_HOLD_OUT then
    (let d := s.rd b R.CLK_OUT_o_HOLD_DIV
     if d = 0 then .low else .source 4 d)
  else
    let d := max 1 (s.rdL b R.CLK_OUT_o_DIV_DIV)
    .source 0 (if d = 1 ∧ fmt ≠ 3 then 2 else d)

/-! SYSREF and the sample clocks (R583, R593, R594). -/

/-- CLK_CMD.SYSREF_GO: a sequence starts, or starts again (R593). -/
def sysrefGo (h : Nat) (s : State) : State :=
  match s.rd (clkB h) R.CLK_SYSREF_MODE with
  | 1 => s.modClk h fun q => { q with sysref := 1 }
  | 2 => s.modClk h fun q => { q with sysref := max 1 (s.rd (clkB h) R.CLK_SYSREF_PULSES) }
  | _ => s

def execSysrefGo (h : Hub) (s : State) : Host.Outcome State Fault Refusal :=
  .next (if s.hasHub h then sysrefGo h s else s)

/-- Acquisition dies in `mask` are enabled in one step (R66, R594). -/
def enableAcq (mask : Nat) (s : State) : State :=
  let n := s.enableStep + 1
  [0, 1].foldl (fun s a => if bit mask a && s.usableA a then { s with enabledIn := tset noNat s.enabledIn a n } else s)
    { s with enableStep := n }

/-- The hub whose CLK block feeds an acquisition die: H0 feeds A0, H1 feeds A1. -/
def clkHubOf (s : State) (a : Nat) : Nat := if s.hasHub 1 then a else 0

/-- The edge at FRC value `r` starts, or after a loss of lock restarts, the frame count of die `a` (R428, R583, R594).
A frame lasts 4 FRC units. -/
def startCount (a r : Nat) (s : State) : State :=
  let old := if a = 0 then s.time.rs0 else s.time.rs1
  match old, (s.acqSt a).lostAt with
  | some r0, some f =>
    let k := (r - r0) / 4
    let l := leadOf a
    let s := if f < k then (s.mark l (32 * f) (32 * k - 1) markLost).mark (l + 1) (32 * f) (32 * k - 1) markLost else s
    let s := s.modAcq a fun q => { q with counting := true, frame := k, lostAt := none }
    if (s.acqSt a).enabled && !s.on (acqB a) R.ACQ_STATUS_STREAM then startStreamAt a k s else s
  | _, _ =>
    let s := s.modTime fun q => if a = 0 then { q with rs0 := some r } else { q with rs1 := some r }
    let s := s.modAcq a fun q => { q with counting := true, frame := 0, lostAt := none }
    if (s.acqSt a).enabled then startStreamAt a 0 s else s

/-- Dies that wait for a SYSREF edge: enabled, locked with every die enabled in the same step, and not counting (R594).
After a loss of lock the die's own lock is enough (R583). -/
def waitsSysref (s : State) (a : Nat) : Bool :=
  let n := tget noNat s.enabledIn a
  n != 0 && !(s.acqSt a).counting && s.on (acqB a) R.ACQ_STATUS_CLK_LOCK &&
    ((s.acqSt a).lostAt.isSome ||
      [0, 1].all fun b => tget noNat s.enabledIn b != n || s.on (acqB b) R.ACQ_STATUS_CLK_LOCK)

/-- SYSREF_EDGE: an edge, on a multiple of 64 * PERIOD of FRC: sent on the outputs as MODE says, and on the internal line
to the dies and the receiver that wait (R585, R593, R594). -/
def execSysrefEdge (h : Hub) (s : State) : Host.Outcome State Fault Refusal :=
  let b := clkB h
  let r := s.time.frc
  if !s.hasHub h || r % (64 * max 1 (s.rd b R.CLK_SYSREF_PERIOD)) != 0 then .next s
  else
    let s := s.modClk h fun q => { q with sysref := q.sysref - 1 }
    let s := if s.on b R.CLK_DITHER_SYNC then
        s.modClk h fun q => { q with sys := seedSynth s h q.sys, out := seedSynth s h q.out } else s
    let s := [0, 1].foldl (fun s a => if clkHubOf s a = h && s.hasA a && waitsSysref s a then startCount a r s else s) s
    .next (if s.part = .s2d ∧ s.on (jrxB 0) R.JRX_CTRL_EN = true ∧ s.jrx.lemc = none then
      { s with jrx := { s.jrx with lemc := some r } } else s)

/-- CLK_STATUS.SAMP_LOCK of the hub that feeds die `a`: bit 5 for the lower-numbered attached die. -/
def showSampLock (s : State) : State :=
  s.clkHubs.foldl (fun s h =>
    let m := [0, 1].foldl (fun m a => if clkHubOf s a = h && s.hasA a && s.on (acqB a) R.ACQ_STATUS_CLK_LOCK then
      m ||| 2 ^ (if s.hasHub 1 then 0 else a) else m) 0
    s.wr (clkB h) R.CLK_STATUS_SAMP_LOCK m) s

/-- SAMPLE_CLOCK_LOCK (R66, R583). -/
def execSampleClockLock (a : ADie) (s : State) : Host.Outcome State Fault Refusal :=
  .next (if s.usableA a && tget noNat s.enabledIn a != 0 then showSampLock (s.wr (acqB a) R.ACQ_STATUS_CLK_LOCK 1) else s)

/-- The frames of die `a` that are still in its down-converter leave it; the converter codes after the loss of lock
read as zero. DESIGN CHOICE: R583 does not say what becomes of them. -/
def flushFrames (a : Nat) (s : State) : State :=
  let f := (s.acqSt a).frame
  (List.range (min ddcDelay f)).foldl (fun s i => sendFrame a (f - min ddcDelay f + i) s) s

/-- SAMPLE_CLOCK_UNLOCK: no samples until the synthesiser relocks (R583). -/
def execSampleClockUnlock (a : ADie) (s : State) : Host.Outcome State Fault Refusal :=
  .next (if s.usableA a && s.on (acqB a) R.ACQ_STATUS_CLK_LOCK then
    let q := s.acqSt a
    let s := showSampLock ((s.wr (acqB a) R.ACQ_STATUS_CLK_LOCK 0).raise (20 + a) (32 * q.frame))
    let s := if q.counting then rsAdvance (leadOf a) (flushFrames a s) else s
    s.modAcq a fun q => { q with counting := false, lostAt := if q.counting then some q.frame else q.lostAt }
  else s)

end Sys2Proof.Machine
end

