-- ==== Sys2Proof/Machine/Disp.lean ====
section
/-! DEFINITION. Display scan-out: link, timing, layers, commit and hand-over (chapter 18). -/

namespace Sys2Proof.Machine

def dDisp : Nat → DispSt := fun _ => {}
def State.dispSt (s : State) (h : Nat) : DispSt := tget dDisp s.disp h
def State.modDisp (s : State) (h : Nat) (f : DispSt → DispSt) : State :=
  { s with disp := tset dDisp s.disp h (f (s.dispSt h)) }

/-- The registers of layer `k` (R577). -/
def layerB (h k : Nat) : Nat := dispB h + 0x40 * k

/-- What `f` does for each layer of a mask. -/
def eachLayer (mask : Nat) (f : Nat → State → State) (s : State) : State :=
  (List.range 4).foldl (fun s k => if bit mask k then f k s else s) s

/-- The addresses of the shadowed registers of layer `k`; DISP_BG belongs to layer 0 (R568, R577). -/
def layerRanges (k : Nat) : List (Nat × Nat) :=
  [(0x100 + 0x40 * k, 0x118 + 0x40 * k), (0x120 + 0x40 * k, 0x124 + 0x40 * k)] ++ if k = 0 then [(0x30, 0x34)] else []

/-- The layer whose shadow set holds the register at offset `o`. -/
def layerOf (o : Nat) : Option Nat :=
  (List.range 4).find? fun k => (layerRanges k).any fun r => decide (r.1 ≤ o) && decide (o < r.2)

/-- Bit `k` of a mask field. -/
def State.wrBit (s : State) (b : Nat) (f : Fld) (k : Nat) (v : Bool) : State :=
  s.wr b f (bitsPut (s.rd b f) k 1 (b2n v))

/-! Timing (R561, R562). -/

/-- `v` held within `[lo, hi]`. -/
def held (lo hi v : Nat) : Nat := max lo (min hi v)

/-- Whether VRR is in force: asked for, and reported by the sink (R571). -/
def vrrOn (s : State) (h : Nat) : Bool := s.on (dispB h) R.DISP_CTRL_VRR && (s.dispSt h).adaptive

def DispSt.frontPorch (q : DispSt) : Nat := q.porch.getD q.vfp
/-- Lines of the frame in progress (R561, R571). -/
def DispSt.vtotal (q : DispSt) : Nat := q.vact + q.frontPorch + q.vsync + q.vbp

def prefill (s : State) (h : Nat) : Nat := held 1 4 (s.rd (dispB h) R.DISP_CTRL_PREFILL)

/-- DEADLINE.LINE, held to the active lines (R570). -/
def deadline (s : State) (h : Nat) : Nat := min ((s.dispSt h).vact - 1) (s.rd (dispB h) R.DISP_DEADLINE_LINE)

/-- The timing fields are read, each held within its range; the sum of the vertical blanking is 8 or more (R561). -/
def readTiming (h : Nat) (s : State) : State :=
  let b := dispB h
  let ha := s.rd b R.DISP_H_HACTIVE
  let va := s.rd b R.DISP_V_VACTIVE
  let fp := s.rd b R.DISP_VBLANK_VFP
  let sy := s.rd b R.DISP_VBLANK_VSYNC
  let bp := s.rd b R.DISP_VBLANK_VBP
  let hb := [s.rd b R.DISP_HBLANK_HFP, s.rd b R.DISP_HBLANK_HSYNC, s.rd b R.DISP_HBLANK_HBP]
  let bad := decide (held 64 4096 ha ≠ ha) || decide (held 64 4096 va ≠ va) || decide (fp = 0) || decide (sy = 0)
    || decide (bp = 0) || hb.contains 0 || decide (fp + sy + bp < 8)
  let fp := max 1 fp
  let sy := max 1 sy
  let bp := max (max 1 bp) (8 - fp - sy)
  let s := if bad then s.wr b R.DISP_STATUS_CLAMP 1 else s
  s.modDisp h fun q => { q with
    hact := held 64 4096 ha, vact := held 64 4096 va, vfp := fp, vsync := sy, vbp := bp,
    vfpMax := max fp (s.rd b R.DISP_VRR_VFP_MAX) }

/-- The output is at line `n` of the frame. -/
def atLine (h n : Nat) (s : State) : State :=
  let q := s.dispSt h
  (s.wrs (dispB h) [(R.DISP_POS_LINE, n), (R.DISP_STATUS_BLANK, b2n (decide (q.vact ≤ n)))]).modDisp h
    fun q => { q with line := n }

/-! Commit and hand-over (R568 to R572). -/

/-- Layer `k`'s shadow set becomes its live set. A change of BASE or RING_LINES, or a clear of EN, retires the old
buffer (R569, R572). -/
def layerHandOver (h k : Nat) (s : State) : State :=
  let b := layerB h k
  let base := s.rdL b R.DISP_LAYER_k_BASE_BASE
  let ends := decide (base ≠ s.rd b R.DISP_LAYER_k_BASE_BASE)
    || decide (s.rdL b R.DISP_LAYER_k_RING_LINES ≠ s.rd b R.DISP_LAYER_k_RING_LINES)
    || (s.onL b R.DISP_LAYER_k_CTRL_EN && !s.on b R.DISP_LAYER_k_CTRL_EN)
  let s := ((layerRanges k).foldl (fun s r => s.handOver (dispB h) r.1 r.2) s).tabHandOver (palKey h k 0)
    (palKey h k 256)
  let s := (s.wrBit (dispB h) R.DISP_SHADOW_PENDING k false).wrBit (dispB h) R.DISP_SHADOW_DIRTY k false
  if ends then
    s.wrs b [(R.DISP_LAYER_k_RETIRED_BASE, base), (R.DISP_LAYER_k_FENCE_RETIRES, s.rd b R.DISP_LAYER_k_FENCE_RETIRES + 1)]
  else s

/-- The hand-over of every pending layer but those whose commit was late for it; those wait for the next (R569,
R570). The buffers of the lines of the last frame are done with. -/
def dispHandOver (h : Nat) (s : State) : State :=
  let late := (s.dispSt h).late
  let s := eachLayer (s.rd (dispB h) R.DISP_SHADOW_PENDING) (fun k s => if bit late k then s else layerHandOver h k s) s
  s.modDisp h fun q => { q with late := 0, bufs := [] }

/-- Write of 1 to bit `k` of DISP_COMMIT: PENDING sets; with fixed timing it is late from the deadline line to the end
of the active lines, and then waits one frame more (R568, R570). -/
def layerCommit (h k : Nat) (s : State) : State :=
  let b := dispB h
  if bit (s.rd b R.DISP_SHADOW_PENDING) k then s
  else
    let q := s.dispSt h
    let late := s.on b R.DISP_STATUS_RUN && !vrrOn s h && decide (deadline s h ≤ q.line) && decide (q.line < q.vact)
    let s := s.wrBit b R.DISP_SHADOW_PENDING k true
    if late then
      ((s.wr b R.DISP_STATUS_COMMIT_LATE 1).inc b R.DISP_LATE_COUNT_LATE).modDisp h fun q =>
        { q with late := bitsPut q.late k 1 1 }
    else s

def dispCommit (h mask : Nat) (s : State) : State := eachLayer mask (layerCommit h) s

/-- DISP_COMMIT (R568). -/
def execDispCommit (h : Hub) (mask : BitVec 4) (s : State) : Host.Outcome State Fault Refusal :=
  .next (if s.hasHub h then dispCommit h mask.toNat s else s)

/-- Write of 1 to bit `k` + 8 of DISP_COMMIT: the live set is copied into the shadow set (R569). -/
def layerRevert (h k : Nat) (s : State) : State :=
  (((layerRanges k).foldl (fun s r => s.takeBack (dispB h) r.1 r.2) s).tabTakeBack (palKey h k 0)
    (palKey h k 256)).wrBit (dispB h) R.DISP_SHADOW_DIRTY k false

def dispRevert (h mask : Nat) (s : State) : State := eachLayer mask (layerRevert h) s

/-- DISP_REVERT (R569). -/
def execDispRevert (h : Hub) (mask : BitVec 4) (s : State) : Host.Outcome State Fault Refusal :=
  .next (if s.hasHub h then dispRevert h mask.toNat s else s)

/-- DISP_HANDOVER: with fixed timing, line VACTIVE starts (R570). -/
def execDispHandover (h : Hub) (s : State) : Host.Outcome State Fault Refusal :=
  .next (if s.on (dispB h) R.DISP_STATUS_RUN && !vrrOn s h then
    dispHandOver h (atLine h (s.dispSt h).vact (s.modDisp h fun q => { q with porch := none }))
  else s)

/-- VRR_RELEASE: a commit releases the frame once the front porch has lasted VFP lines: the porch ends with the line in
progress (R571). -/
def execVrrRelease (h : Hub) (s : State) : Host.Outcome State Fault Refusal :=
  let q := s.dispSt h
  .next (if s.on (dispB h) R.DISP_STATUS_RUN && vrrOn s h && q.porch.isNone
      && s.rd (dispB h) R.DISP_SHADOW_PENDING != 0 && decide (q.vact + q.vfp ≤ q.line + 1) then
    dispHandOver h (s.modDisp h fun q => { q with porch := some (q.line + 1 - q.vact) })
  else s)

/-- VRR_MAX_EXPIRE: VFP_MAX lines have passed: the frame is released, with the hand-over of what is pending, or repeats
(R571). -/
def execVrrMaxExpire (h : Hub) (s : State) : Host.Outcome State Fault Refusal :=
  let q := s.dispSt h
  let b := dispB h
  .next (if s.on b R.DISP_STATUS_RUN && vrrOn s h && q.porch.isNone && decide (q.vact + q.vfpMax ≤ q.line + 1) then
    let s := s.modDisp h fun q => { q with porch := some q.vfpMax }
    if s.rd b R.DISP_SHADOW_PENDING = 0 then (s.inc b R.DISP_REPEAT_COUNT_REPEATS).modDisp h fun q => { q with bufs := [] }
    else dispHandOver h s
  else s)

/-! Enable, disable and link (R560, R575). -/

/-- EN becomes 1: the timing fields are read, the pending hand-overs take place, and the timing generator starts at the
first blanking line; link training runs beside it. -/
def dispEnable (h : Nat) (s : State) : State :=
  let b := dispB h
  if s.on b R.DISP_STATUS_RUN then s
  else
    let s := readTiming h (s.wrs b [(R.DISP_CTRL_EN, 1), (R.DISP_STATUS_RUN, 1), (R.DISP_STATUS_LINK_UP, 0)])
    let s := s.modDisp h fun q => { q with porch := some q.vfp, late := 0, sent := [] }
    dispHandOver h (atLine h (s.dispSt h).vact s)

/-- DISP_ENABLE (R575). -/
def execDispEnable (h : Hub) (s : State) : Host.Outcome State Fault Refusal :=
  .next (if s.hasHub h then dispEnable h s else s)

/-- EN becomes 0: the output completes the frame and stops; the live BASE of each enabled layer is retired and pending
commits stay pending. -/
def dispDisable (h : Nat) (s : State) : State :=
  let b := dispB h
  let s := s.wr b R.DISP_CTRL_EN 0
  if !s.on b R.DISP_STATUS_RUN then s
  else
    let s := (atLine h (s.dispSt h).vact s).wrs b [(R.DISP_STATUS_RUN, 0), (R.DISP_STATUS_BLANK, 0)]
    let s := eachLayer 15 (fun k s => if s.onL (layerB h k) R.DISP_LAYER_k_CTRL_EN then
      s.wr (layerB h k) R.DISP_LAYER_k_RETIRED_BASE (s.rdL (layerB h k) R.DISP_LAYER_k_BASE_BASE) else s) s
    s.modDisp h fun q => { q with late := 0, bufs := [], sent := [] }

/-- DISP_DISABLE (R575). -/
def execDispDisable (h : Hub) (s : State) : Host.Outcome State Fault Refusal :=
  .next (if s.hasHub h then dispDisable h s else s)

/-- The link rates of R559 in 10 Mb/s. -/
def linkRate : Nat → Nat
  | 0 => 162 | 1 => 216 | 2 => 243 | 3 => 270 | 4 => 324 | 5 => 432 | 6 => 540 | _ => 810

/-- Whether the pixels fit: pixel rate * 3 * bits per component at most 0.99 * lanes * rate * 0.8 (R560, R562). -/
def linkFits (s : State) (h rate : Nat) : Bool :=
  let lanes := 2 ^ min 2 (s.rd (dispB h) R.DISP_LINK_LANES)
  let bpc := if s.on (dispB h) R.DISP_CTRL_BPC then 8 else 6
  decide (640 * min 15728640 (s.rd (dispB h) R.DISP_PCLK_FRAC) * 3 * bpc * 100 ≤ 792 * lanes * linkRate rate * 2 ^ 24)

/-- VRR_NA: VRR is asked for and the sink does not report Adaptive-Sync (R571). -/
def showVrrNa (h : Nat) (s : State) : State :=
  s.wr (dispB h) R.DISP_STATUS_VRR_NA
    (b2n (s.on (dispB h) R.DISP_STATUS_RUN && s.on (dispB h) R.DISP_CTRL_VRR && !(s.dispSt h).adaptive))

/-- DISP_LINK_TRAIN: the DPCD is read and the link trains at RATE, then at each lower rate in turn. `trains` are the rates
at which the sink trains, `adaptive` what it reports of Adaptive-Sync (R560, R571). -/
def execDispLinkTrain (h : Hub) (trains : BitVec 8) (adaptive : Bool) (s : State) : Host.Outcome State Fault Refusal :=
  let b := dispB h
  if !s.on b R.DISP_STATUS_RUN then .next s
  else
    let top := s.rd b R.DISP_LINK_RATE
    let found := ((List.range (top + 1)).reverse).find? fun r => bit trains.toNat r
    let s := showVrrNa h (s.modDisp h fun q => { q with adaptive := adaptive })
    let s := match found with
      | some r => s.wrs b [(R.DISP_LINK_STATUS_RATE, r), (R.DISP_LINK_STATUS_LANES, min 2 (s.rd b R.DISP_LINK_LANES))]
      | none => s
    .next (if (match found with | some r => linkFits s h r | none => false) then s.wr b R.DISP_STATUS_LINK_UP 1
      else (s.wrs b [(R.DISP_STATUS_LINK_UP, 0), (R.DISP_STATUS_LINK_FAIL, 1)]).raise (135 + 16 * h) 0)

/-- HPD_CHANGE: a loss sets LINK_DOWN and raises an event; frames go on. The return retrains the link (R575). -/
def execHpdChange (h : Hub) (high : Bool) (s : State) : Host.Outcome State Fault Refusal :=
  let b := dispB h
  if !s.hasHub h || s.on b R.DISP_LINK_STATUS_HPD == high then .next s
  else
    let s := s.wr b R.DISP_LINK_STATUS_HPD (b2n high)
    .next (if high then s else (s.wrs b [(R.DISP_STATUS_LINK_DOWN, 1), (R.DISP_STATUS_LINK_UP, 0)]).raise (135 + 16 * h) 0)

/-! Layers (R563, R564, R566). -/

/-- A live layer: position, size, repeats, and where its source lies. -/
structure LayerView where
  x : Nat
  y : Nat
  w : Nat
  h : Nat
  hrep : Nat
  vrep : Nat
  base : Nat
  pitch : Nat
  lines : Nat
  start : Nat

def layerView (s : State) (h k : Nat) : LayerView :=
  let b := layerB h k
  { x := s.rdL b R.DISP_LAYER_k_POS_X, y := s.rdL b R.DISP_LAYER_k_POS_Y
    w := held 1 4096 (s.rdL b R.DISP_LAYER_k_SIZE_W), h := held 1 4096 (s.rdL b R.DISP_LAYER_k_SIZE_H)
    hrep := s.rdL b R.DISP_LAYER_k_CTRL_HREP + 1, vrep := s.rdL b R.DISP_LAYER_k_CTRL_VREP + 1
    base := s.rdL b R.DISP_LAYER_k_BASE_BASE, pitch := s.rdL b R.DISP_LAYER_k_PITCH_PITCH
    lines := s.rdL b R.DISP_LAYER_k_RING_LINES, start := s.rdL b R.DISP_LAYER_k_START_START }

/-- Whether the layer covers screen line `y`, and screen column `x`. -/
def LayerView.hasLine (v : LayerView) (y : Nat) : Bool := decide (v.y ≤ y) && decide (y < v.y + v.h * v.vrep)
def LayerView.hasCol (v : LayerView) (x : Nat) : Bool := decide (v.x ≤ x) && decide (x < v.x + v.w * v.hrep)

/-- The byte address of source line `sy` (R563). -/
def LayerView.addr (v : LayerView) (sy : Nat) : Nat :=
  32 * v.base + 32 * v.pitch * (if v.lines = 0 then sy else (v.start + sy) % v.lines)

/-- One component of a blend: (ALPHA * colour + (255 - ALPHA) * below) / 255, rounded half up (R564). -/
def blendComp (alpha colour below : Nat) : Nat := (2 * (alpha * colour + (255 - alpha) * below) + 255) / 510

/-- A palette entry blended over the colour below. -/
def blend (entry below : Nat) : Nat :=
  let a := bitsOf entry 24 8
  let c := fun lo => blendComp a (bitsOf entry lo 8) (bitsOf below lo 8) * 2 ^ lo
  c 16 + c 8 + c 0

/-- The output takes the upper 6 bits of each component with 6 bits per component (R564). -/
def outPixel (bpc8 : Bool) (c : Nat) : Nat :=
  if bpc8 then c else bitsOf c 18 6 * 2 ^ 12 + bitsOf c 10 6 * 2 ^ 6 + bitsOf c 2 6

/-- The pixel at column `x` of screen line `y`: the background with each enabled layer blended over it, lowest first;
`none` where a source byte is not in the line buffer (R564, R567). -/
def pixelAt (views : List (Nat × LayerView)) (q : DispSt) (pal : Nat → Nat → Nat) (bg y x : Nat) : Option Nat :=
  views.foldl (fun below e =>
    below.bind fun c =>
      let v := e.2
      if v.hasLine y && v.hasCol x then
        match (tget (fun _ => []) q.bufs e.1).find? fun l => l.1 == (y - v.y) / v.vrep with
        | some l => (l.2[(x - v.x) / v.hrep]?).map fun p => blend (pal e.1 p.toNat) c
        | none => none
      else some c) (some bg)

/-- The enabled layers. -/
def liveLayers (s : State) (h : Nat) : List (Nat × LayerView) :=
  ((List.range 4).filter fun k => s.onL (layerB h k) R.DISP_LAYER_k_CTRL_EN).map fun k => (k, layerView s h k)

/-- The background colour as it is sent. -/
def bgPixel (s : State) (h : Nat) : Nat := outPixel (s.on (dispB h) R.DISP_CTRL_BPC) (s.rdL (dispB h) R.DISP_BG_RGB)

/-- A source byte is missing from column `x` on: the rest of the line is the background, and the underrun counts
(R567). -/
def dispUnderrun (h x : Nat) (s : State) : State :=
  ((s.wr (dispB h) R.DISP_STATUS_UNDERRUN 1).inc (dispB h) R.DISP_UNDERRUN_COUNT_UNDERRUNS).modDisp h fun q =>
    { q with sent := (q.sent.take x) ++ List.replicate (q.hact - x) (bgPixel s h) }

/-- The pixels of active line `y` are sent. -/
def sendLine (h y : Nat) (s : State) : State :=
  let q := s.dispSt h
  let views := liveLayers s h
  let pal := fun k i => (tget tabReset s.tabL (palKey h k i)).toNat
  let bpc8 := s.on (dispB h) R.DISP_CTRL_BPC
  let px := (List.range q.hact).map fun x => pixelAt views q pal (s.rdL (dispB h) R.DISP_BG_RGB) y x
  let s := s.modDisp h fun q => { q with sent := px.map fun p => outPixel bpc8 (p.getD 0) }
  match px.findIdx? (·.isNone) with
  | some x => dispUnderrun h x s
  | none => s

/-- Layer `k` fetches the source line first shown on screen line `y`; the buffer holds the 4 lines last fetched (R566). -/
def layerFetch (h y : Nat) (s : State) (e : Nat × LayerView) : State :=
  let v := e.2
  if v.hasLine y && decide ((y - v.y) % v.vrep = 0) then
    let sy := (y - v.y) / v.vrep
    let l := (sy, s.bytes h (v.addr sy) v.w)
    s.modDisp h fun q => { q with bufs := tset (fun _ => []) q.bufs e.1 ((l :: tget (fun _ => []) q.bufs e.1).take 4) }
  else s

/-- The line after line `n`: line VACTIVE of a fixed-timing frame is DISP_HANDOVER's, and an unreleased front porch ends
by its release or at VFP_MAX lines. -/
def nextLine (s : State) (h : Nat) : Option Nat :=
  let q := s.dispSt h
  if q.line + 1 = q.vact ∧ !vrrOn s h then none
  else if vrrOn s h && q.porch.isNone && decide (q.vact ≤ q.line) then
    if q.line + 1 < q.vact + q.vfpMax then some (q.line + 1) else none
  else if q.vtotal ≤ q.line + 1 then some 0 else some (q.line + 1)

/-- LINE_FETCH: the next line starts. An active line is sent from the line buffers, and each layer fetches the source
line first shown PREFILL lines later (R563, R566). -/
def execLineFetch (h : Hub) (s : State) : Host.Outcome State Fault Refusal :=
  let q := s.dispSt h
  match if s.on (dispB h) R.DISP_STATUS_RUN then nextLine s h else none with
  | none => .next s
  | some n =>
    let s := atLine h n s
    let s := if n = 0 then (s.wr (dispB h) R.DISP_FRAME_COUNT_FRAMES (s.rd (dispB h) R.DISP_FRAME_COUNT_FRAMES + 1)).modDisp h
      fun q => { q with porch := if vrrOn s h then none else q.porch } else s
    let s := if n < q.vact then sendLine h n s else s
    let q := s.dispSt h
    let first := vrrOn s h && q.porch.any fun p => decide (n = q.vact + p)
    let ys := if n < q.vact then [n + prefill s h] else if q.porch.isNone && vrrOn s h then []
      else if first then List.range (n + prefill s h + 1 - q.vtotal)
      else if q.vtotal ≤ n + prefill s h then [n + prefill s h - q.vtotal] else []
    .next (ys.foldl (fun s y => if y < q.vact then (liveLayers s h).foldl (layerFetch h y) s else s) s)

/-- DISP_UNDERRUN: the source byte of column `x` of the line being sent was not in the line buffer (R567). -/
def execDispUnderrun (h : Hub) (x : BitVec 13) (s : State) : Host.Outcome State Fault Refusal :=
  let q := s.dispSt h
  .next (if s.on (dispB h) R.DISP_STATUS_RUN && decide (q.line < q.vact) && decide (x.toNat < q.hact) then
    dispUnderrun h x.toNat s else s)

/-! Palettes (R565). -/

/-- An access to DISP_PAL_DATA: a write lands in the shadow bank of the selected layer, a read returns the shadow or live
entry by VIEW; ENTRY steps on and wraps. -/
def palAccess (h : Nat) (write : Option Word) (s : State) : State :=
  let b := dispB h
  let i := s.rd b R.DISP_PAL_ADDR_ENTRY
  let k := s.rd b R.DISP_PAL_ADDR_LAYER
  let s := match write with
    | some v => ({ s with tabS := tset tabReset s.tabS (palKey h k i) v } : State).wrBit b R.DISP_SHADOW_DIRTY k true
    | none => { s with readData := tget tabReset (if s.on b R.DISP_SHADOW_VIEW then s.tabL else s.tabS) (palKey h k i) }
  s.wr b R.DISP_PAL_ADDR_ENTRY ((i + 1) % 256)

/-- DISP_PAL_DATA_ACCESS (R565). -/
def execDispPalDataAccess (h : Hub) (write : Option Word) (s : State) : Host.Outcome State Fault Refusal :=
  .next (if s.hasHub h then palAccess h write s else s)

end Sys2Proof.Machine
end

