-- ==== Sys2Proof/Machine/Hka.lean ====
section
/-! DEFINITION. Housekeeping converters and PWM outputs (chapter 20). -/

namespace Sys2Proof.Machine

def dHk : Nat → HkSt := fun _ => {}
def State.hkSt (s : State) (h c : Nat) : HkSt := tget dHk s.hk (2 * h + c)
def State.modHk (s : State) (h c : Nat) (f : HkSt → HkSt) : State :=
  { s with hk := tset dHk s.hk (2 * h + c) (f (s.hkSt h c)) }
def dPair : Nat → PairSt := fun _ => {}
def State.pairSt (s : State) (h k : Nat) : PairSt := tget dPair s.pairs (8 * h + k)
def State.modPair (s : State) (h k : Nat) (f : PairSt → PairSt) : State :=
  { s with pairs := tset dPair s.pairs (8 * h + k) (f (s.pairSt h k)) }
def dPwm : Nat → PwmSt := fun _ => {}
def State.pwmSt (s : State) (h p : Nat) : PwmSt := tget dPwm s.pwm (4 * h + p)
def State.modPwm (s : State) (h p : Nat) (f : PwmSt → PwmSt) : State :=
  { s with pwm := tset dPwm s.pwm (4 * h + p) (f (s.pwmSt h p)) }

/-- The registers of converter `c`, of its entry `e`, of check `k` and of output `p` (R614). -/
def hkB (h c : Nat) : Nat := hkaB h + 0x100 * c
def hkEntryB (h c e : Nat) : Nat := hkB h c + 4 * e
def pairB (h k : Nat) : Nat := hkaB h + 0x10 * k
def pwmB (h p : Nat) : Nat := hkaB h + 0x10 * p

/-! Sequences (R602 to R605). -/

/-- Entry `e` begins to sample, with the values of its register as they stand (R605). -/
def hkBegin (h c e : Nat) (s : State) : State :=
  let b := hkEntryB h c e
  (s.wrs (hkB h c) [(R.HK_c_STATUS_BUSY, 1), (R.HK_c_STATUS_ENTRY, e)]).modHk h c fun _ =>
    { runs := true, entry := e, chan := s.rd b R.HK_c_SEQ_e_CHAN, gain := s.rd b R.HK_c_SEQ_e_GAIN }

/-- A trigger: ignored and counted while a sequence runs or waits; otherwise the delay begins (R603, R604). -/
def hkTrigger (h c : Nat) (s : State) : State :=
  let q := s.hkSt h c
  if !s.on (hkB h c) R.HK_c_CTRL_EN then s
  else if q.runs || q.waits then
    (s.inc (hkB h c) R.HK_c_MISS_COUNT_MISSED).wr (hkB h c) R.HK_c_STATUS_MISS 1
  else (s.wr (hkB h c) R.HK_c_STATUS_BUSY 1).modHk h c fun q => { q with waits := true }

/-- The converters named by `mask` are triggered by software (R603). -/
def hkStart (h mask : Nat) (s : State) : State :=
  [0, 1].foldl (fun s c => if bit mask c && s.rd (hkB h c) R.HK_c_CTRL_TRIG = 0 then hkTrigger h c s else s) s

/-- HK_START (R603). -/
def execHkStart (h : Hub) (mask : BitVec 2) (s : State) : Host.Outcome State Fault Refusal :=
  .next (if s.hasHub h && !inAon s then hkStart h mask.toNat s else s)

/-- HK_TIMER_TRIGGER (R603). -/
def execHkTimerTrigger (h : Hub) (c : Fin 2) (s : State) : Host.Outcome State Fault Refusal :=
  .next (if s.hasHub h && !inAon s && s.rd (hkB h c) R.HK_c_CTRL_TRIG = 1 then hkTrigger h c s else s)

/-- HK_SEQUENCE_START: DELAY has passed since the trigger (R603). -/
def execHkSequenceStart (h : Hub) (c : Fin 2) (s : State) : Host.Outcome State Fault Refusal :=
  .next (if s.hasHub h && (s.hkSt h c).waits then hkBegin h c 0 s else s)

/-- HK_c_CTRL has been written: EN = 1 with CONTINUOUS starts a sequence, EN = 0 ends one, after the entry that has begun
sampling (R605). -/
def hkCtrlWritten (h c : Nat) (s : State) : State :=
  if !s.on (hkB h c) R.HK_c_CTRL_EN then
    (if (s.hkSt h c).runs then s else (s.wr (hkB h c) R.HK_c_STATUS_BUSY 0).modHk h c fun _ => {})
  else if s.rd (hkB h c) R.HK_c_CTRL_TRIG = 3 && !(s.hkSt h c).runs && !(s.hkSt h c).waits then hkBegin h c 0 s
  else s

/-! Results (R599 to R601, R607). -/

/-- The die whose temperature a channel reads, as its bit in CHIP_CONFIG.PRESENT. -/
def tempDie (h chan : Nat) : Option Nat :=
  match chan with
  | 20 => some h | 21 => some (2 + 2 * h) | 22 => some (3 + 2 * h) | 23 => some (6 + h) | _ => none

/-- Whether a temperature channel's die is present, usable and powered (R600). Hubs always are. -/
def tempThere (s : State) (d : Nat) : Bool :=
  if d < 2 then s.hasHub d else bit s.part.present d && !bit s.lostDies d && bit s.powered d

/-- The code of a channel for the quantity `v` at the converter, in volts or degrees (R599). -/
def hkCode (chan gain : Nat) (v : Rat) : Nat :=
  if 20 ≤ chan ∧ chan ≤ 23 then enc 12 (clampI (-2048) 2047 (roundRat (v * 16)))
  else
    let g : Rat := if chan ≤ 7 ∨ chan = 17 then (2 ^ gain : Nat) else 1
    let w := if 8 ≤ chan ∧ chan ≤ 15 then v / 2 else v
    (clampI 0 4095 (roundRat (w * g / (12 / 10) * 4096))).toNat

/-- The code as a number: temperatures are signed. -/
def hkValue (chan code : Nat) : Int := if 20 ≤ chan ∧ chan ≤ 23 then sx 12 code else code

/-- A result lands and is checked against its limits (R602, R607). -/
def hkLand (h c e chan code : Nat) (valid : Bool) (s : State) : State :=
  let b := hkEntryB h c e
  let s := s.wrs b [(R.HK_c_RES_e_VALUE, if valid then code else 0), (R.HK_c_RES_e_VALID, b2n valid),
    (R.HK_c_RES_e_ABSENT, b2n !valid), (R.HK_c_RES_e_NEW, 1)]
  let s := { s with hkAt := tset noNat s.hkAt (32 * h + 16 * c + e) s.time.frc }
  if !valid then s
  else
    let f := fun fld => hkValue chan (s.rd b fld)
    let v := hkValue chan code
    let ovr := s.on b R.HK_c_LIM_e_EN && (decide (v < f R.HK_c_LIM_e_LO) || decide (f R.HK_c_LIM_e_HI < v))
    let was := s.on b R.HK_c_RES_e_OVER
    let s := s.wr b R.HK_c_RES_e_OVER (b2n ovr)
    let s := if ovr then s.wr (hkB h c) R.HK_c_STATUS_LIMIT 1 else s
    s.raiseIf (ovr && !was) 13 (h * 32 + c * 16 + e)

/-! Pair checks (R608, R609). -/

/-- A check fails with a cause (0 DIFF, 1 TIMEOUT). -/
def pairFail (h k cause : Nat) (s : State) : State :=
  let b := pairB h k
  let s := ((s.inc b R.HK_PL_k_FAIL_FAILURES).wr b R.HK_PL_k_STATUS_CAUSE cause).modPair h k fun q =>
    { waiting := none, fails := q.fails + 1, passes := 0 }
  if max 1 (s.rd b R.HK_PL_k_CFG_FAILS) ≤ (s.pairSt h k).fails && !s.on b R.HK_PL_k_STATUS_FAILED then
    (s.wr b R.HK_PL_k_STATUS_FAILED 1).raise 11 (h * 8 + k)
  else s

/-- A check passes; 16 passes in a row clear FAILED. -/
def pairPass (h k : Nat) (s : State) : State :=
  let b := pairB h k
  let s := (s.wr b R.HK_PL_k_PASS_PASSES (s.rd b R.HK_PL_k_PASS_PASSES + 1)).modPair h k fun q =>
    { waiting := none, fails := 0, passes := q.passes + 1 }
  if 16 ≤ (s.pairSt h k).passes then s.wr b R.HK_PL_k_STATUS_FAILED 0 else s

/-- A result of entry `e` of converter `c` reaches check `k`. -/
def pairResult (h k c e code : Nat) (s : State) : State :=
  let b := pairB h k
  let e0 := s.rd b R.HK_PL_k_CFG_ENT0
  let e1 := s.rd b R.HK_PL_k_CFG_ENT1
  if !s.on b R.HK_PL_k_CFG_EN || (if c = 0 then e0 else e1) != e then s
  else
    let b0 := hkEntryB h 0 e0
    let b1 := hkEntryB h 1 e1
    let same := decide (s.rd b0 R.HK_c_SEQ_e_CHAN = s.rd b1 R.HK_c_SEQ_e_CHAN)
      && decide (s.rd b0 R.HK_c_SEQ_e_GAIN = s.rd b1 R.HK_c_SEQ_e_GAIN)
    let s := s.wr b R.HK_PL_k_STATUS_MISMATCH (b2n !same)
    if !same then s.modPair h k fun q => { q with waiting := none }
    else match (s.pairSt h k).waiting with
      | some (side, other) =>
        if side = c then s.modPair h k fun q => { q with waiting := some (c, code) }
        else
          let chan := s.rd b0 R.HK_c_SEQ_e_CHAN
          let d := (hkValue chan code - hkValue chan other).natAbs
          let s := s.wr b R.HK_PL_k_STATUS_DIFF d
          if d ≤ s.rd b R.HK_PL_k_CFG_TOL then pairPass h k s else pairFail h k 0 s
      | none => s.modPair h k fun q => { q with waiting := some (c, code) }

/-- HK_PAIR_TIMEOUT: the window expires without the other result (R608). -/
def execHkPairTimeout (h : Hub) (k : Fin 8) (s : State) : Host.Outcome State Fault Refusal :=
  .next (if (s.pairSt h k).waiting.isSome && s.on (pairB h k) R.HK_PL_k_CFG_EN then pairFail h k 1 s else s)

/-- The conversion of the entry in progress ends with the quantity `v` at the converter: its result lands and is
checked, and the next entry or sequence begins (R602, R604). The channel it read comes with the state. -/
def hkResult (h c : Nat) (v : Rat) (s : State) : Nat × State :=
  let q := s.hkSt h c
  if !q.runs then (31, s)
  else
    let valid := match tempDie h q.chan with | some d => tempThere s d | none => true
    let code := hkCode q.chan q.gain v
    let s := hkLand h c q.entry q.chan code valid s
    let s := if valid then (List.range 8).foldl (fun s k => pairResult h k c q.entry code s) s else s
    let len := max 1 (min 16 (s.rd (hkB h c) R.HK_c_CTRL_LEN))
    if q.entry + 1 < len then
      (q.chan, if s.on (hkB h c) R.HK_c_CTRL_EN then hkBegin h c (q.entry + 1) s
        else (s.wr (hkB h c) R.HK_c_STATUS_BUSY 0).modHk h c fun _ => {})
    else
      let s := (s.wrs (hkB h c) [(R.HK_c_SEQ_COUNT_SEQUENCES, s.rd (hkB h c) R.HK_c_SEQ_COUNT_SEQUENCES + 1),
        (R.HK_c_STATUS_BUSY, 0)]).modHk h c fun _ => {}
      (q.chan, if s.rd (hkB h c) R.HK_c_CTRL_TRIG = 3 && s.on (hkB h c) R.HK_c_CTRL_EN then hkBegin h c 0 s else s)

/-- LEDGER_CONVERSION: HK_1 of H0 converts HOLDUP_SENSE for the ledger: V is the sensed voltage times DIVIDER / 1000
(R363, R606). -/
def execLedgerConversion (v : Rat) (s : State) : Host.Outcome State Fault Refusal :=
  let mv := rhu (hkCode 17 0 v * 1200 * s.rd (pwrB 0) R.PWR_DIVIDER_RATIO : Nat) (4096 * 1000)
  .next (s.wr (pwrB 0) R.PWR_HOLDUP_V_V (min 65535 mv.toNat))

/-! Rails for the ledger (R609, R610). -/

/-- The value of the entry a rail assignment names, if it is valid, at most 1 ms old, and in no failed check. -/
def railEntry (s : State) (h src : Nat) : Option Nat :=
  let c := src / 16
  let e := src % 16
  let b := hkEntryB h c e
  let failed := (List.range 8).any fun k =>
    s.on (pairB h k) R.HK_PL_k_STATUS_FAILED && s.on (pairB h k) R.HK_PL_k_CFG_EN
      && s.rd (pairB h k) (if c = 0 then R.HK_PL_k_CFG_ENT0 else R.HK_PL_k_CFG_ENT1) == e
  if s.on b R.HK_c_RES_e_VALID && !failed && decide (s.time.frc ≤ tget noNat s.hkAt (32 * h + 16 * c + e) + 1280000) then
    some (s.rd b R.HK_c_RES_e_VALUE)
  else none

/-- The channel of the entry a rail assignment names. -/
def railChan (s : State) (h src : Nat) : Nat := s.rd (hkEntryB h (src / 16) (src % 16)) R.HK_c_SEQ_e_CHAN

/-- Power of rail assignment `r` in microwatts: voltage code times 2400/4096 mV, current code times ISCALE/4 mA. -/
def railPower (s : State) (h r : Nat) : Option Rat :=
  let b := hkaB h + 4 * r
  if !s.on b R.HK_RAIL_r_EN then none
  else match railEntry s h (s.rd b R.HK_RAIL_r_VSRC), railEntry s h (s.rd b R.HK_RAIL_r_ISRC) with
    | some v, some i => some ((v : Rat) * 2400 / 4096 * ((i : Rat) * (s.rd b R.HK_RAIL_r_ISCALE : Rat) / 4))
    | _, _ => none

/-! PWM outputs (R611, R612). -/

/-- Whether a charger output is forced to IDLE: a capacitance test or FLUSH (R612). -/
def pwmForced (s : State) (h p : Nat) : Bool :=
  s.on (pwmB h p) R.HK_PWM_p_CFG_CHARGER && s.on (pwmB h p) R.HK_PWM_p_CFG_EN &&
    (s.on (pwrB 0) R.PWR_STATE_TEST || s.rd (pwrB 0) R.PWR_STATE_STATE == 3)

/-- The output takes a level; an edge that it really makes triggers the converters that wait for it (R603). -/
def pwmLevel (h p : Nat) (v : Bool) (s : State) : State :=
  let b := pwmB h p
  let was := s.on b R.HK_PWM_p_STATUS_LEVEL
  let s := s.wr b R.HK_PWM_p_STATUS_LEVEL (b2n v)
  if was = v then s
  else [0, 1].foldl (fun s c =>
    if s.rd (hkB h c) R.HK_c_CTRL_TRIG = 2 && s.rd (hkB h c) R.HK_c_CTRL_PWM_SEL == p
        && (s.on (hkB h c) R.HK_c_CTRL_PWM_EDGE != v) then hkTrigger h c s else s) s

/-- The output is idle or forced, or nothing changes. -/
def pwmRest (h p : Nat) (s : State) : State :=
  let b := pwmB h p
  let forced := pwmForced s h p
  let s := s.wr b R.HK_PWM_p_STATUS_FORCED (b2n forced)
  if forced || !s.on b R.HK_PWM_p_CFG_EN || inAon s then pwmLevel h p (s.on b R.HK_PWM_p_CFG_IDLE) s else s

/-- PWM_EDGE: the count reaches 0 (`zero`), which applies new PERIOD and DUTY, or reaches DUTY (R611). -/
def execPwmEdge (h : Hub) (p : Fin 4) (zero : Bool) (s : State) : Host.Outcome State Fault Refusal :=
  let b := pwmB h p
  if !s.hasHub h then .next s
  else if !s.on b R.HK_PWM_p_CFG_EN || inAon s || pwmForced s h p then .next (pwmRest h p s)
  else
    let s := s.wr b R.HK_PWM_p_STATUS_FORCED 0
    let s := if zero then
        s.modPwm h p fun _ => { period := max 2 (s.rd b R.HK_PWM_p_PERIOD_PERIOD), duty := s.rd b R.HK_PWM_p_DUTY_DUTY }
      else s
    let q := s.pwmSt h p
    let high := if zero then decide (0 < q.duty) else decide (q.period ≤ q.duty)
    .next (pwmLevel h p (high != s.on b R.HK_PWM_p_CFG_POL) s)

end Sys2Proof.Machine
end

