-- ==== Sys2Proof/Machine/Ddr.lean ====
section
/-! DEFINITION. The DDR-5 channels of the capture memory (chapter 15). -/

namespace Sys2Proof.Machine

def dDdr : Nat → DdrSt := fun _ => {}
def State.ddrSt (s : State) (h c : Nat) : DdrSt := tget dDdr s.ddr (2 * h + c)
def State.modDdr (s : State) (h c : Nat) (f : DdrSt → DdrSt) : State :=
  { s with ddr := tset dDdr s.ddr (2 * h + c) (f (s.ddrSt h c)) }

def ddrState (s : State) (h c : Nat) : Nat := s.rd (ddrChB h c) R.DDR_c_STATUS_STATE
def setDdrState (h c v : Nat) (s : State) : State := s.wr (ddrChB h c) R.DDR_c_STATUS_STATE v

/-- The FRC units in one microsecond (R408). -/
def frcUs : Nat := 1280

/-! Training (R487 to R493). -/

/-- Density code, rank code and capacity in MiB of a population (R487). -/
def population (p : Fin 4) : Nat × Nat × Nat :=
  match p with
  | 0 => (0, 0, 32768) | 1 => (0, 1, 65536) | 2 => (1, 0, 49152) | 3 => (2, 0, 65536)

/-- The highest grade not above `top` that trains with a margin of 0.20 UI, with its margin (R492). -/
def bestGrade (m : List (Option (BitVec 7))) : (top : Nat) → Option (Nat × Nat)
  | 0 => match m[0]? with
    | some (some v) => if 128 ≤ 5 * v.toNat then some (0, v.toNat) else none
    | _ => none
  | g + 1 => match m[g + 1]? with
    | some (some v) => if 128 ≤ 5 * v.toNat then some (g + 1, v.toNat) else bestGrade m g
    | _ => bestGrade m g

/-- The hub's grade and the capacity in use follow from what its channels trained to (R489). -/
def ddrHub (h : Nat) (mib : Nat → Nat) (s : State) : State :=
  let ok := fun c => ddrState s h c != 5 && ddrState s h c != 0
  let g := fun c => (s.ddrSt h c).grade
  let both := ok 0 && ok 1
  let mts := if both then min (g 0) (g 1) else if ok 0 then g 0 else if ok 1 then g 1 else 0
  let pop := fun c => (s.rd (ddrChB h c) R.DDR_c_CFG_DENSITY, s.rd (ddrChB h c) R.DDR_c_CFG_RANKS)
  let size := fun c => if !ok c then 0 else if both then min (mib 0) (mib 1) else mib c
  (((s.wrs (ddrB h) [(R.DDR_STATUS_MTS, mts), (R.DDR_STATUS_MISMATCH, b2n (both && pop 0 != pop 1))]).wr
    (ddrChB h 0) R.DDR_c_SIZE_MIB (size 0)).wr (ddrChB h 1) R.DDR_c_SIZE_MIB (size 1))

/-- The capacity of a channel as its mode registers give it, in MiB. -/
def ddrMib (s : State) (h c : Nat) : Nat :=
  match s.rd (ddrChB h c) R.DDR_c_CFG_DENSITY, s.rd (ddrChB h c) R.DDR_c_CFG_RANKS with
  | 0, 0 => 32768
  | 1, 0 => 49152
  | _, _ => 65536

/-- Channel `c` trains: at its best grade, or it is FAILED with an event (R491, R492). `ready` is the state a trained
channel enters. -/
def ddrTrain (h c ready : Nat) (t : DdrTrain) (s : State) : State :=
  let b := ddrChB h c
  let (dens, ranks, _) := population t.population
  let s := s.wrs b [(R.DDR_c_CFG_DENSITY, dens), (R.DDR_c_CFG_RANKS, ranks), (R.DDR_c_STATUS_ERASURE, 0),
    (R.DDR_c_STATUS_DEV, 0)]
  let s := s.modDdr h c fun q => { served := s.time.frc, trained := s.time.frc, scrub := q.scrub, grade := q.grade
                                   freezeAddr := q.freezeAddr, freezeSts := q.freezeSts }
  match bestGrade t.margins (min 4 (s.rd b R.DDR_c_CFG_MAX_MTS)) with
  | some (g, m) => (s.wrs b [(R.DDR_c_STATUS_STATE, ready), (R.DDR_c_STATUS_MARGIN, m)]).modDdr h c fun q =>
      { q with grade := g }
  | none => (setDdrState h c 5 s).raise 76 (2 * h + c)

/-- Training of both channels of hub `h` (R491). -/
def ddrTrainHub (h : Nat) (t0 t1 : DdrTrain) (s : State) : State :=
  let s := ddrTrain h 1 2 t1 (ddrTrain h 0 2 t0 s)
  ddrHub h (ddrMib s h) s

/-- Whether hub `h` has a usable channel (R494). -/
def ddrUsable (s : State) (h : Nat) : Bool := s.chMib h 0 != 0 || s.chMib h 1 != 0

/-! Error correction and freeze (R496, R497, R506, R507). -/

/-- Channel `c` freezes in the cycle of an error of cause 1 (uncorrectable) or 2 (command error); the Tarn of the hub's
input stops with LOST (R174, R506, R507). -/
def ddrFreeze (h c cause source addr : Nat) (a : DdrAccess) (s : State) : State :=
  let b := ddrChB h c
  let s := s.wrs b [(R.DDR_c_STATUS_STATE, 4), (R.DDR_c_FREEZE_CAUSE, cause), (R.DDR_c_FREEZE_SOURCE, source),
    (R.DDR_c_FREEZE_RANK, b2n a.rank), (R.DDR_c_FREEZE_BANK, a.bank.toNat),
    (R.DDR_c_FREEZE_SYNDROME, if cause = 1 then a.syndrome.toNat else 0),
    (if cause = 1 then R.DDR_c_STATUS_UE else R.DDR_c_STATUS_CMD_ERR, 1)]
  let s := (s.modDdr h c fun q => { q with freezeAddr := addr, freezeSts := s.sts }).raise (72 + 2 * h + c) addr
  let s := s.raiseIf (cause = 2) 76 (2 * h + c)
  [0, 2].foldl (fun s l => if hubOf s l = h && (s.recSt l).tarn.run then
    (tarnStop l s).wr (recB l) R.REC_TARN_STATUS_LOST 1 else s) s

/-- The wrong symbols that the code does not know of: all, or in erasure mode all but the known bad component's. -/
def unknownBad (s : State) (h c : Nat) (w : List (Fin 20)) : List (Fin 20) :=
  let b := ddrChB h c
  let l := w.eraseDups
  if s.on b R.DDR_c_STATUS_ERASURE then l.filter fun k => k.val != s.rd b R.DDR_c_STATUS_DEV else l

/-- A corrected codeword whose wrong symbol is component `k`'s: counted, and the channel enters erasure mode for a
component with more than DEV_LIMIT of them in a second (R496, R497). -/
def ddrCorrected (h c : Nat) (k : Option Nat) (s : State) : State :=
  let b := ddrChB h c
  let s := (s.inc b R.DDR_c_CE_COUNT_CORRECTED).wr b R.DDR_c_STATUS_CE 1
  match k with
  | none => s
  | some k =>
    let now := s.time.frc
    let ce := (k, now) :: (s.ddrSt h c).ce.filter fun e => decide (now < e.2 + 1000000 * frcUs)
    let s := s.modDdr h c fun q => { q with ce := ce }
    let n := (ce.filter fun e => e.1 == k).length
    if max 1 (s.rd b R.DDR_c_ECC_DEV_LIMIT) < n && !s.on b R.DDR_c_STATUS_ERASURE then
      (s.wrs b [(R.DDR_c_STATUS_ERASURE, 1), (R.DDR_c_STATUS_DEV, k)]).raise (68 + 2 * h + c) k
    else s

/-- Whether a codeword can be corrected as the channel stands (R496, R497). -/
def correctable (s : State) (h c : Nat) (w : List (Fin 20)) : Bool := decide ((unknownBad s h c w).length ≤ 1)

/-- The codewords of an access are decoded in order; the first uncorrectable one freezes the channel. -/
def ddrDecode (h c source addr : Nat) (a : DdrAccess) : List (List (Fin 20)) → State → State
  | [], s => s
  | w :: l, s =>
    if w.isEmpty then ddrDecode h c source addr a l s
    else if correctable s h c w then
      ddrDecode h c source addr a l (ddrCorrected h c ((unknownBad s h c w).head?.map (·.val)) s)
    else ddrFreeze h c 1 source addr a s

/-- A command is sent: a CA parity error is retried once, a write CRC error up to three times, each retry counted; a
retry that fails in turn freezes the channel (R502). The answer says whether the command went through. -/
def ddrCommand (h c source addr : Nat) (write : Bool) (a : DdrAccess) (s : State) : Bool × State :=
  let crc := if write then a.crc else 0
  let s := s.inc (ddrChB h c) R.DDR_c_RETRY_COUNT_RETRIES (min 1 a.ca + min 3 crc)
  if 1 < a.ca ∨ 3 < crc then (false, ddrFreeze h c 2 source addr a s) else (true, s)

/-! Scheduling (R499 to R501). -/

def ddrHigh (s : State) (h c : Nat) : Nat := min 256 (max 1 (s.rd (ddrChB h c) R.DDR_c_WQ_HIGH))
def ddrLow (s : State) (h c : Nat) : Nat := min (ddrHigh s h c - 1) (s.rd (ddrChB h c) R.DDR_c_WQ_LOW)

/-- The watermarks decide whether the channel serves writes only (R499). -/
def ddrMark (h c : Nat) (s : State) : State :=
  let n := (s.ddrSt h c).writes.length
  let hi := ddrHigh s h c
  let lo := ddrLow s h c
  s.modDdr h c fun q => { q with draining := decide (hi ≤ n) || (q.draining && decide (lo < n)) }

/-- Reads for channel `c` join its queue of 128 entries. -/
def ddrQueueReads (h c : Nat) (l : List DdrReq) (s : State) : State :=
  l.foldl (fun s r =>
    if r.addr < s.hubLimit h && s.chanOf h r.addr == c && decide ((s.ddrSt h c).reads.length < 128) then
      s.modDdr h c fun q => { q with reads := q.reads ++ [⟨r.source, r.addr / 128 * 128, s.time.frc⟩], served := s.time.frc }
    else s) s

/-- The read served next: one that has waited 4.0 us, then source 0, then source 2, then the oldest (R499). -/
def nextRead (now : Nat) (l : List DdrRead) : Option DdrRead :=
  (l.find? fun r => decide (r.at_ + 4 * frcUs ≤ now)) <|> (l.find? fun r => r.source == 0)
    <|> (l.find? fun r => r.source == 2) <|> l.head?

/-- The 128-byte unit at `a` as stored. -/
def rawUnit (s : State) (h a : Nat) : List Byte := (List.range 128).map fun k => s.rawByte h (a + k)

/-- A channel serves its next read (R496, R499, R507). While frozen, only the host (source 7) is given what is stored;
every other read returns zeros marked POISON. -/
def ddrServeRead (h c : Nat) (a : DdrAccess) (s : State) : State :=
  let q := s.ddrSt h c
  match nextRead s.time.frc q.reads with
  | none => s
  | some r =>
    let give := fun out poison (s : State) => s.modDdr h c fun q =>
      { q with reads := q.reads.erase r, served := s.time.frc, out := out, poison := poison }
    if ddrState s h c = 4 then
      if r.source = 7 then
        let bad := a.symbols.any fun w => !correctable s h c w
        give (rawUnit s h r.addr) false (if bad then s.wr (ddrChB h c) R.DDR_c_STATUS_UE 1 else s)
      else give (List.replicate 128 0) true s
    else if ddrState s h c ≠ 2 ∨ q.draining then s
    else
      let (ok, s) := ddrCommand h c r.source r.addr false a (s.modDdr h c fun q => { q with readN := q.readN + 1 })
      let s := if ok then ddrDecode h c r.source r.addr a (a.symbols.take 8) s else s
      if ddrState s h c = 4 then give (List.replicate 128 0) true s else give (rawUnit s h r.addr) false s

/-- A write is accepted into channel `c`'s queue and is what later reads see (R500). Outside READY, or with the queue
full, it waits at its source; a frozen channel discards it (R507). -/
def ddrAcceptOne (h : Nat) (r : DdrReq) (s : State) : State :=
  let a := r.addr
  let data := r.data.take (128 - a % 128)
  if s.hubLimit h < a + data.length then s
  else
    let c := s.chanOf h a
    let q := s.ddrSt h c
    if ddrState s h c = 4 then s.setBytes h a data
    else if ddrState s h c ≠ 2 ∨ 256 ≤ q.writes.length then s
    else
      let s := (s.setBytes h a data).modDdr h c fun q =>
        { q with writes := q.writes ++ [(r.source.val, a)], served := s.time.frc }
      ddrMark h c s

/-- DDR_WRITE_ACCEPT: writes that arrive in one cycle are accepted in ascending source number (R500, R501). -/
def execDdrWriteAccept (h : Hub) (l : List DdrReq) (s : State) : Host.Outcome State Fault Refusal :=
  .next (if s.hasHub h then
    (List.range 10).foldl (fun s src => (l.filter fun r => r.source.val == src).foldl (fun s r => ddrAcceptOne h r s) s) s
  else s)

/-- A channel issues its oldest write to the devices (R502). -/
def ddrServeWrite (h c : Nat) (a : DdrAccess) (s : State) : State :=
  match (s.ddrSt h c).writes with
  | [] => s
  | (src, addr) :: rest =>
    if ddrState s h c ≠ 2 then s
    else
      let (_, s) := ddrCommand h c src addr true a s
      ddrMark h c (s.modDdr h c fun q => { q with writes := rest, writeN := q.writeN + 1 })

/-- DDR_c_LOAD at the end of a millisecond: the share of it that the bursts of reads and of writes took, each of 16 beats
at the hub's grade (R496, R511). Commands and turnarounds are not counted (DESIGN CHOICE). -/
def ddrLoads (s : State) : State :=
  s.hubList.foldl (fun s h =>
    let mts := ([4800, 5600, 6400, 7200, 8000][s.rd (ddrB h) R.DDR_STATUS_MTS]?).getD 8000
    let pct := fun (n : Nat) => min 100 (n * 1600 / (mts * 1000))
    [0, 1].foldl (fun s c =>
      let q := s.ddrSt h c
      (s.wrs (ddrChB h c) [(R.DDR_c_LOAD_READ_PCT, pct q.readN), (R.DDR_c_LOAD_WRITE_PCT, pct q.writeN)]).modDdr h c fun q =>
        { q with readN := 0, writeN := 0 }) s) s

/-- DDR_RETRAIN: a READY channel retrains every PERIOD_MS (R495). -/
def execDdrRetrain (h : Hub) (c : Fin 2) (s : State) : Host.Outcome State Fault Refusal :=
  let due := (s.ddrSt h c).trained + max 1 (s.rd (ddrChB h c) R.DDR_c_TRAIN_PERIOD_MS) * 1000 * frcUs
  .next (if s.hasHub h && ddrState s h c == 2 && decide (due ≤ s.time.frc) then
    s.modDdr h c fun q => { q with trained := s.time.frc } else s)

/-- The scrubber of channel `c` reads the next 128-byte unit and writes back corrected codewords (R498). -/
def ddrScrub (h c : Nat) (a : DdrAccess) (s : State) : State :=
  if !s.on (ddrB h) R.DDR_CTRL_SCRUB_EN || ddrState s h c != 2 then s
  else
    let units := max 1 (s.chMib h c * 8192)
    let n := (s.ddrSt h c).scrub % units
    let s := (s.modDdr h c fun q => { q with scrub := (n + 1) % units }).wr (ddrChB h c) R.DDR_c_SCRUB_PCT
      ((n + 1) % units * 100 / units)
    let addr := if s.bothChannels h then n / 32 * 8192 + c * 4096 + n % 32 * 128 else n * 128
    ddrDecode h c 9 addr a (a.symbols.take 8) s

/-! Self-refresh (R503 to R505). -/

/-- Whether a READY channel is to enter self-refresh: in SENTINEL, or idle for IDLE_US with SR_EN (R503). -/
def restDue (s : State) (h c : Nat) : Bool :=
  let us := s.rd (ddrChB h c) R.DDR_c_SR_IDLE_US
  ddrState s h c == 2 && (s.rd (pwrB 0) R.PWR_STATE_STATE == 1 ||
    (s.on (ddrB h) R.DDR_CTRL_SR_EN && us != 0 && decide ((s.ddrSt h c).served + us * frcUs ≤ s.time.frc)))

/-- Both queues of channel `c` are drained: their reads are served, their writes issued (R503). -/
def ddrDrain (h c : Nat) (s : State) : State :=
  let q := s.ddrSt h c
  let s := (List.range q.writes.length).foldl (fun s _ => ddrServeWrite h c {} s) s
  let s := s.modDdr h c fun q => { q with draining := false }
  (List.range q.reads.length).foldl (fun s _ => ddrServeRead h c {} s) s

/-- The queues drain, and at the commitment the self-refresh entry command is issued (R503). -/
def ddrRest (h c : Nat) (s : State) : State :=
  let b := ddrChB h c
  let s := ddrDrain h c s
  ((setDdrState h c 3 s).wr b R.DDR_c_SR_COUNT_ENTRIES (s.rd b R.DDR_c_SR_COUNT_ENTRIES + 1)).modDdr h c fun q =>
    { q with reads := [], writes := [], draining := false, entered := s.time.frc }

/-- DDR_SELF_REFRESH_ENTRY: a request before the commitment (`early`) cancels the entry (R503, R504). -/
def execDdrSelfRefreshEntry (h : Hub) (c : Fin 2) (early : Bool) (s : State) : Host.Outcome State Fault Refusal :=
  .next (if !s.hasHub h || !restDue s h c then s
    else if early then (s.inc (ddrChB h c) R.DDR_c_SR_CANCEL_CANCELLED).modDdr h c fun q => { q with served := s.time.frc }
    else ddrRest h c s)

/-- The channel leaves self-refresh, retraining after more than one second in it (R504, R505). -/
def ddrWake (h c : Nat) (s : State) : State :=
  if ddrState s h c != 3 then s
  else (setDdrState h c 2 s).modDdr h c fun q =>
    { q with served := s.time.frc
             trained := if q.entered + 1000000 * frcUs < s.time.frc then s.time.frc else q.trained }

/-- DDR_SELF_REFRESH_EXIT (R504). -/
def execDdrSelfRefreshExit (h : Hub) (c : Fin 2) (s : State) : Host.Outcome State Fault Refusal :=
  .next (if s.hasHub h then ddrWake h c s else s)

/-! Release (R509). -/

/-- A write of 1 to bits of DDR_CMD.RELEASE: a frozen channel begins to train; of any other channel it is an access
violation (R8, R509). -/
def ddrRelease (h mask : Nat) (s : State) : State :=
  [0, 1].foldl (fun s c =>
    if !bit mask c then s
    else if ddrState s h c = 4 then (setDdrState h c 1 s).modDdr h c fun q =>
      { q with releasing := true, reads := [], writes := [], draining := false }
    else s.violation h (ddrB h + R.DDR_CMD)) s

/-- Every byte that channel `c` holds becomes zero. -/
def ddrZero (h c : Nat) (s : State) : State :=
  let keep := fun (e : Host.Cell) =>
    if e.1 / 2 ^ 40 = h then s.chanOf h (e.1 % 2 ^ 40) != c
    else !(decide (e.1 / 2 ^ 40 = 2) && decide (h = 0) && decide (c = 1))
  { s with cap := s.cap.filter keep }

/-- DDR_RELEASE: the write of DDR_CMD.RELEASE to channel `c`, its training, and the start of zeroing (R492, R509). It
also carries on a release that a register write began. -/
def execDdrRelease (h : Hub) (c : Fin 2) (t : DdrTrain) (s : State) : Host.Outcome State Fault Refusal :=
  if !s.hasHub h then .next s
  else
    let s := if (s.ddrSt h c).releasing then s else ddrRelease h (2 ^ c.val) s
    .next (if (s.ddrSt h c).releasing then
      let s := (ddrTrain h c 1 t (ddrZero h c s)).modDdr h c fun q => { q with releasing := false }
      if ddrState s h c = 1 then s.modDdr h c fun q => { q with zeroing := true }
      else ddrHub h (ddrMib s h) s
    else s)

/-- DDR_RELEASE_DONE: the channel is zeroed and READY (R509). -/
def execDdrReleaseDone (h : Hub) (c : Fin 2) (s : State) : Host.Outcome State Fault Refusal :=
  .next (if s.hasHub h && (s.ddrSt h c).zeroing then
    let s := (setDdrState h c 2 s).modDdr h c fun q => { q with zeroing := false, served := s.time.frc }
    ddrHub h (ddrMib s h) s
  else s)

end Sys2Proof.Machine
end

