-- ==== Sys2Proof/Machine/DmaCtl.lean ====
section
/-! DEFINITION. DMA channels: request lines, loops, waits, run, stop and pause (chapter 16). What moves data is in
`Dma`. -/

namespace Sys2Proof.Machine

def dDma : Nat → DmaSt := fun _ => {}
def State.dmaSt (s : State) (h k : Nat) : DmaSt := tget dDma s.dma (16 * h + k)
def State.modDma (s : State) (h k : Nat) (f : DmaSt → DmaSt) : State :=
  { s with dma := tset dDma s.dma (16 * h + k) (f (s.dmaSt h k)) }

/-- The registers of channel `k` (R535). -/
def dmaChB (h k : Nat) : Nat := dmaB h + 0x40 * k

def dmaState (s : State) (h k : Nat) : Nat := s.rd (dmaChB h k) R.DMA_k_STATUS_STATE
def setDmaState (h k v : Nat) (s : State) : State := s.wr (dmaChB h k) R.DMA_k_STATUS_STATE v

/-- Word `j` of instruction `i` (R514). -/
def dmaWordKey (h i j : Nat) : Nat := h * 8192 + 4 * (i % 2048) + j
def dmaWord (s : State) (h i j : Nat) : Nat := tget noNat s.dmaMem (dmaWordKey h i j)
def dmaInsn (s : State) (h i : Nat) : List Nat := (List.range 4).map (dmaWord s h i)

/-! Instructions (R517). -/

/-- The fields of MOVE and GATHER. -/
structure DmaXfer where
  ssp : Nat
  dsp : Nat
  sfix : Bool
  dfix : Bool
  sar : Nat
  dar : Nat
  iar : Nat
  port : Nat
  len : Nat
  esize : Nat
  wide : Bool
  line : Nat
  burst : Nat
  sskip : Int
  dskip : Int
  deriving DecidableEq, Repr

inductive DmaOp where
  | halt
  | move (x : DmaXfer)
  | gather (x : DmaXfer)
  | loop (stop count : Nat)
  | wait (target timeout line : Nat)
  | irq
  | event (flag : Nat)
  | regwrite (off value : Nat)
  | seta (ar base size : Nat)
  | nop
  | illegal
  deriving DecidableEq, Repr

/-- Whether a LINE names a request line of the configuration (R524). -/
def lineOk (s : State) (line : Nat) : Bool :=
  let n := line % 2048
  (!bit line 11 || s.hasHub 1) &&
  match line / 4096 with
  | 0 => n == 0 | 1 => decide (n < 8) | 2 => decide (n < 4) | 3 => n == 0 | 4 => decide (n < 2) | 5 => n == 0
  | 6 => decide (n < 256) | 7 => decide (n < 528) | 8 => n == 0 | 9 => decide (n < 16)
  | _ => false

/-- No bit of `w` lies outside the ranges (low bit, width). -/
def onlyBits (w : Nat) (fs : List (Nat × Nat)) : Bool := (fs.foldl (fun v f => bitsPut v f.1 f.2 0) w) == 0

/-- The fields of a MOVE or GATHER; `none` where a bit the layout does not name is set, the source is in PORT space, or
the LINE is none (R517, R524). -/
def dmaXfer (s : State) (gather : Bool) (w0 w1 w2 w3 : Nat) : Option DmaXfer :=
  let x : DmaXfer :=
    { ssp := bitsOf w0 26 2, dsp := bitsOf w0 24 2, sfix := bit w0 23, dfix := bit w0 22, sar := bitsOf w0 20 2
      dar := bitsOf w0 18 2, iar := bitsOf w0 16 2, port := bitsOf w0 8 7
      len := if gather then bitsOf w1 0 16 else w1, esize := bitsOf w1 16 6, wide := bit w1 24
      line := bitsOf w2 0 16, burst := max 4 (min 16 (bitsOf w2 16 5))
      sskip := sx 16 (bitsOf w3 0 16), dskip := sx 16 (bitsOf w3 16 16) }
  let ok := onlyBits w0 ([(28, 4), (18, 10), (15, 1), (8, 7)] ++ if gather then [(16, 2)] else [])
    && (if gather then onlyBits w1 [(0, 22), (24, 1)] && onlyBits w2 [(0, 16)] && x.esize != 0
        else onlyBits w2 [(0, 21)])
    && x.ssp != 3 && lineOk s x.line
  if ok then some x else none

/-- The instruction that four words spell. -/
def dmaDecode (s : State) (l : List Nat) : DmaOp :=
  let w0 := l.getD 0 0
  let w1 := l.getD 1 0
  let w2 := l.getD 2 0
  let w3 := l.getD 3 0
  match w0 / 2 ^ 28 with
  | 0 => if w0 = 0 ∧ w1 = 0 ∧ w2 = 0 ∧ w3 = 0 then .halt else .illegal
  | 1 => match dmaXfer s false w0 w1 w2 w3 with | some x => .move x | none => .illegal
  | 2 => match dmaXfer s true w0 w1 w2 w3 with | some x => .gather x | none => .illegal
  | 3 => if onlyBits w0 [(28, 4), (0, 11)] ∧ w2 = 0 ∧ w3 = 0 then .loop (bitsOf w0 0 11) w1 else .illegal
  | 4 => if onlyBits w0 [(28, 4), (0, 11)] ∧ onlyBits w2 [(0, 16)] ∧ w3 = 0 ∧ lineOk s w2 then
      .wait (bitsOf w0 0 11) w1 w2 else .illegal
  | 5 =>
    if onlyBits w0 [(24, 8)] ∧ w3 = 0 then
      match bitsOf w0 24 4 with
      | 0 => if w1 = 0 ∧ w2 = 0 then .irq else .illegal
      | 1 => if w1 = 0 ∧ onlyBits w2 [(0, 4)] then .event w2 else .illegal
      | 2 => .regwrite w1 w2
      | _ => .illegal
    else .illegal
  | 6 => if onlyBits w0 [(28, 4), (20, 2)] ∧ onlyBits w2 [(0, 8)] then
      .seta (bitsOf w0 20 2) (w2 * 2 ^ 32 + w1) w3 else .illegal
  | 7 => if w0 = 7 * 2 ^ 28 ∧ w1 = 0 ∧ w2 = 0 ∧ w3 = 0 then .nop else .illegal
  | _ => .illegal

/-! Request lines (R524, R525). -/

/-- The hub whose line a LINE names. -/
def lineHub (h line : Nat) : Nat := if bit line 11 then 1 - h else h
def lineKey (h line : Nat) : Nat := lineHub h line * 65536 + bitsPut line 11 1 0

/-- Whether the line is asserted: a level line by what it follows, a pulse line while it holds a credit. -/
def lineOn (s : State) (h line : Nat) : Bool :=
  let g := lineHub h line
  let n := line % 2048
  match line / 4096 with
  | 0 => true
  | 1 => decide (max 1 (s.rd (tdcB g + 0x40 * n) R.TDC_n_CFG_WMARK) ≤ s.rd (tdcB g + 0x40 * n) R.TDC_n_FILL_FILL)
  | 2 => decide (1 ≤ s.rd (tdcB g + 0x40 * n) R.IV_m_FILL_FILL)
  | _ => decide (0 < tget noNat s.credits (lineKey h line))

/-- One credit of a pulse line is taken; a level line gives none away. -/
def takeCredit (h line : Nat) (s : State) : State :=
  if line / 4096 < 3 then s
  else { s with credits := tset noNat s.credits (lineKey h line) (tget noNat s.credits (lineKey h line) - 1) }

/-- DMA_LINE_STATE of the line LINE_SEL names: credits, level and OVF. -/
def lineStateWord (s : State) (h : Nat) : Nat :=
  let line := s.rd (dmaB h) R.DMA_LINE_SEL_LINE
  if !lineOk s line then 0
  else tget noNat s.credits (lineKey h line) + 2 ^ 16 * b2n (lineOn s h line)
    + 2 ^ 17 * tget noNat s.lineOvf (lineKey h line)

/-- A write of CREDITS sets the count of the line shown; a normal read clears its OVF (R525). -/
def setCredits (h v : Nat) (s : State) : State :=
  let line := s.rd (dmaB h) R.DMA_LINE_SEL_LINE
  if !lineOk s line || decide (line / 4096 < 3) then s
  else { s with credits := tset noNat s.credits (lineKey h line) (v % 65536) }

def clearLineOvf (h : Nat) (s : State) : State :=
  { s with lineOvf := tset noNat s.lineOvf (lineKey h (s.rd (dmaB h) R.DMA_LINE_SEL_LINE)) 0 }

/-! The program counter and loops (R521). -/

def showLoops (h k : Nat) (s : State) : State :=
  let l := (s.dmaSt h k).loops
  s.wrs (dmaChB h k) [(R.DMA_k_LOOP_0_COUNT, match l with | e :: _ => e.2.2 | [] => 0),
    (R.DMA_k_LOOP_1_COUNT, match l with | _ :: e :: _ => e.2.2 | _ => 0)]

/-- The loop ends met when the instruction at `pc` completes, from the inside outwards: where fetch goes on, and the
levels that remain. -/
def loopEnds (pc : Nat) : List (Nat × Nat × Nat) → Option Nat × List (Nat × Nat × Nat)
  | [] => (none, [])
  | (start, stop, count) :: l =>
    if stop ≠ pc then (none, (start, stop, count) :: l)
    else if count = 1 then loopEnds pc l
    else (some start, (start, stop, count - 1) :: l)

/-- The instruction in progress has completed; `next` is where it goes unless a loop ends at it. -/
def dmaNext (h k : Nat) (next : Option Nat) (s : State) : State :=
  let b := dmaChB h k
  let pc := s.rd b R.DMA_k_PC_PC
  let e := match next with
    | some t => (some t, (s.dmaSt h k).loops)
    | none => loopEnds pc (s.dmaSt h k).loops
  let s := s.modDma h k fun q => { q with loops := e.2, insn := none, done := 0, waiting := false, burst := none }
  showLoops h k (s.wrs b [(R.DMA_k_PC_PC, e.1.getD (pc + 1)), (R.DMA_k_LEFT_LEFT, 0), (R.DMA_k_STATUS_STATE, 1)])

/-- The channel halts with a cause (R517, R530, R531). -/
def dmaHalt (h k cause : Nat) (s : State) : State :=
  let s := s.modDma h k fun q =>
    { q with loops := [], insn := none, done := 0, waiting := false, burst := none, stopping := false }
  showLoops h k (s.wrs (dmaChB h k) [(R.DMA_k_STATUS_STATE, 5), (R.DMA_k_STATUS_CAUSE, cause), (R.DMA_k_LEFT_LEFT, 0)])

/-! Run, stop, pause (R529, R530). -/

/-- The channel is asked to pause, by its own bit or by DMA_CTRL.EN = 0. -/
def pauseAsked (s : State) (h k : Nat) : Bool :=
  s.on (dmaChB h k) R.DMA_k_CTRL_PAUSE || !s.on (dmaB h) R.DMA_CTRL_EN

/-- Whether a burst that has started has yet to complete; a channel that a port keeps waiting pauses at once. -/
def midBurst (s : State) (h k : Nat) : Bool := (s.dmaSt h k).burst.isSome && dmaState s h k != 3

/-- The channel follows its pause: PAUSED at the boundary, or on with the next byte or entry. -/
def dmaPauseShow (h k : Nat) (s : State) : State :=
  let st := dmaState s h k
  if st = 5 then s
  else if pauseAsked s h k then (if midBurst s h k then s else setDmaState h k 4 s)
  else if st = 4 then setDmaState h k (if (s.dmaSt h k).waiting then 2 else 1) s
  else s

/-- RUN = 1 starts a halted channel at its PC, with no loop level. -/
def dmaRun (h k : Nat) (s : State) : State :=
  let b := dmaChB h k
  let s := s.wr b R.DMA_k_CTRL_RUN 1
  if dmaState s h k ≠ 5 then s
  else
    let s := s.modDma h k fun q =>
      { q with loops := [], insn := none, done := 0, waiting := false, burst := none, stopping := false }
    dmaPauseShow h k (showLoops h k (s.wrs b [(R.DMA_k_STATUS_STATE, 1), (R.DMA_k_STATUS_CAUSE, 0), (R.DMA_k_LEFT_LEFT, 0)]))

/-- RUN = 0 halts the channel with cause HOST at the next boundary. -/
def dmaStop (h k : Nat) (s : State) : State :=
  let s := s.wr (dmaChB h k) R.DMA_k_CTRL_RUN 0
  if dmaState s h k = 5 then s
  else if midBurst s h k then s.modDma h k fun q => { q with stopping := true }
  else dmaHalt h k 1 s

/-- DMA_RUN (R530). -/
def execDmaRun (h : Hub) (k : Fin 16) (s : State) : Host.Outcome State Fault Refusal :=
  .next (if s.hasHub h then dmaRun h k s else s)

/-- DMA_STOP (R530). -/
def execDmaStop (h : Hub) (k : Fin 16) (s : State) : Host.Outcome State Fault Refusal :=
  .next (if s.hasHub h then dmaStop h k s else s)

/-- DMA_PAUSE (R529). -/
def execDmaPause (h : Hub) (k : Fin 16) (s : State) : Host.Outcome State Fault Refusal :=
  .next (if s.hasHub h then dmaPauseShow h k (s.wr (dmaChB h k) R.DMA_k_CTRL_PAUSE 1) else s)

/-- DMA_RESUME (R529). -/
def execDmaResume (h : Hub) (k : Fin 16) (s : State) : Host.Outcome State Fault Refusal :=
  .next (if s.hasHub h then dmaPauseShow h k (s.wr (dmaChB h k) R.DMA_k_CTRL_PAUSE 0) else s)

/-- DMA_CTRL.EN has been written: every channel follows it. -/
def dmaEnWritten (h : Nat) (s : State) : State := (List.range 16).foldl (fun s k => dmaPauseShow h k s) s

/-- DMA_k_CTRL has been written as `w`: RUN and PAUSE act; RUN = 0 with PAUSE = 1 stops (R530). -/
def dmaCtrlWritten (h k : Nat) (w : Nat) (s : State) : State :=
  let s := dmaPauseShow h k (s.wr (dmaChB h k) R.DMA_k_CTRL_PAUSE (b2n (bit w 1)))
  if bit w 0 then dmaRun h k s else dmaStop h k s

/-! Waiting channels (R525, R526, R527). -/

/-- Channel `k` waits on `line`. -/
def dmaWaitOn (h k line : Nat) (s : State) : State :=
  (s.modDma h k fun q => { q with waiting := true }).wrs (dmaChB h k)
    [(R.DMA_k_STATUS_STATE, 2), (R.DMA_k_WAITLINE_LINE, line)]

/-- What a burst of the transfer holds: 2^BURST bytes of a MOVE, all entries of a GATHER. -/
def burstSize (op : DmaOp) : Nat := match op with | .move x => 2 ^ x.burst | .gather x => x.len | _ => 0

/-- Waiting channel `k` goes on if its line is asserted: a WAIT completes, a transfer's burst starts. -/
def dmaWakeOne (h k : Nat) (s : State) : State :=
  let q := s.dmaSt h k
  let line := s.rd (dmaChB h k) R.DMA_k_WAITLINE_LINE
  if dmaState s h k = 2 ∧ q.waiting ∧ lineOn s h line then
    let s := takeCredit h line s
    let op := dmaDecode s (q.insn.getD [])
    match op with
    | .wait _ _ _ => dmaNext h k none s
    | _ => setDmaState h k 1 (s.modDma h k fun q => { q with waiting := false, burst := some (burstSize op) })
  else s

/-- Every waiting channel whose line has been asserted goes on, the lowest-numbered first. -/
def dmaWake (s : State) : State :=
  (List.range 32).foldl (fun s i => dmaWakeOne (i / 16) (i % 16) s) s

/-! Instructions that move no data. A row of the table names the instruction that the channel issues next; it has no
effect where the channel does not run or issues another. -/

/-- Channel `k` fetches the instruction at its PC; a parity mismatch halts it with PARITY (R514), an illegal one with
ILLEGAL (R517). -/
def dmaFetch (h k : Nat) (parityBad : Bool) (f : DmaOp → State → State) (s : State) : State :=
  if !s.hasHub h || dmaState s h k != 1 || (s.dmaSt h k).insn.isSome then s
  else if parityBad then (dmaHalt h k 7 s).raise (131 + 16 * h) k
  else match dmaDecode s (dmaInsn s h (s.rd (dmaChB h k) R.DMA_k_PC_PC)) with
    | .illegal => dmaHalt h k 3 s
    | op => f op s

/-- Waiting channels whose line is asserted go on first. -/
def dmaIssue (h k : Nat) (parityBad : Bool) (f : DmaOp → State → State) (s : State) : State :=
  dmaFetch h k parityBad f (dmaWake s)

/-- The instruction stays in progress. -/
def dmaHold (h k : Nat) (s : State) : State :=
  let l := dmaInsn s h (s.rd (dmaChB h k) R.DMA_k_PC_PC)
  s.modDma h k fun q => { q with insn := some l }

/-- DMA_HALT (R517). -/
def execDmaHalt (h : Hub) (k : Fin 16) (parityBad : Bool) (s : State) : Host.Outcome State Fault Refusal :=
  .next (dmaIssue h k parityBad (fun op s => match op with | .halt => dmaHalt h k 2 s | _ => s) s)

/-- DMA_NOP (R517). -/
def execDmaNop (h : Hub) (k : Fin 16) (parityBad : Bool) (s : State) : Host.Outcome State Fault Refusal :=
  .next (dmaIssue h k parityBad (fun op s => match op with | .nop => dmaNext h k none s | _ => s) s)

/-- DMA_SETA: BASE and SIZE into an address register, OFF 0 (R523). -/
def execDmaSeta (h : Hub) (k : Fin 16) (parityBad : Bool) (s : State) : Host.Outcome State Fault Refusal :=
  .next (dmaIssue h k parityBad (fun op s => match op with
    | .seta ar base size =>
      dmaNext h k none (s.modDma h k fun q =>
        { q with ars := tset (fun _ => {}) q.ars ar { base := base, size := size, off := 0 } })
    | _ => s) s)

/-- DMA_LOOP: a level over the instructions to END; a third level, or an END before the LOOP, halts with LOOP (R521). -/
def execDmaLoop (h : Hub) (k : Fin 16) (parityBad : Bool) (s : State) : Host.Outcome State Fault Refusal :=
  .next (dmaIssue h k parityBad (fun op s => match op with
    | .loop stop count =>
      let pc := s.rd (dmaChB h k) R.DMA_k_PC_PC
      if 2 ≤ (s.dmaSt h k).loops.length ∨ stop < pc then dmaHalt h k 6 s
      else
        let s := s.modDma h k fun q => { q with loops := ((pc + 1) % 2048, stop, count) :: q.loops }
        dmaNext h k none s
    | _ => s) s)

/-- DMA_WAIT: the WAIT proceeds if its line is asserted, and else the channel waits on it (R526). -/
def execDmaWait (h : Hub) (k : Fin 16) (parityBad : Bool) (s : State) : Host.Outcome State Fault Refusal :=
  .next (dmaIssue h k parityBad (fun op s => match op with
    | .wait _ _ line => dmaWakeOne h k (dmaWaitOn h k line (dmaHold h k s))
    | _ => s) s)

/-- DMA_WAIT_TIMEOUT: TIMEOUT microseconds have passed without the line: the channel goes on at TARGET (R526). A WAIT
whose line is asserted by then has proceeded (R532). -/
def execDmaWaitTimeout (h : Hub) (k : Fin 16) (s : State) : Host.Outcome State Fault Refusal :=
  let s := dmaWake s
  let b := dmaChB h k
  .next (if dmaState s h k = 2 then
    match dmaDecode s ((s.dmaSt h k).insn.getD []) with
    | .wait target timeout _ =>
      if timeout = 0 then s
      else dmaNext h k (some target) ((s.wr b R.DMA_k_STATUS_TIMEOUT 1).inc b R.DMA_k_TIMEOUTS_TIMEOUTS)
    | _ => s
  else s)

/-- DMA_SIGNAL_IRQ (R522). -/
def execDmaSignalIrq (h : Hub) (k : Fin 16) (parityBad : Bool) (s : State) : Host.Outcome State Fault Refusal :=
  .next (dmaIssue h k parityBad (fun op s => match op with
    | .irq => dmaNext h k none (s.wr (dmaB h) R.DMA_IRQ_IRQ (bitsPut (s.rd (dmaB h) R.DMA_IRQ_IRQ) k 1 1))
    | _ => s) s)

/-- DMA_SIGNAL_EVENT: one credit to the flag's line; a channel that waits on it takes it at once (R522, R532). -/
def execDmaSignalEvent (h : Hub) (k : Fin 16) (parityBad : Bool) (s : State) : Host.Outcome State Fault Refusal :=
  .next (dmaIssue h k parityBad (fun op s => match op with
    | .event flag => dmaWake ((dmaNext h k none s).pulse h (0x9000 + flag))
    | _ => s) s)

end Sys2Proof.Machine
end

