-- ==== Sys2Proof/Machine/Sha.lean ====
section
/-! DEFINITION. The hash and signature functions the spec names by standard: SHA-256 and SHA-384 (FIPS 180-4),
HMAC-SHA-256 (RFC 2104), and ECDSA verification over P-384 (FIPS 186-5) (R386, R389, R552). -/

namespace Sys2Proof.Machine

/-! SHA-2. Words of `w` bits: 32 for SHA-256, 64 for SHA-384. -/

/-- The round constants of SHA-512 and SHA-384; SHA-256 takes the upper halves of the first 64. -/
def shaK : List Nat :=
  [0x428A2F98D728AE22, 0x7137449123EF65CD, 0xB5C0FBCFEC4D3B2F, 0xE9B5DBA58189DBBC] ++
  [0x3956C25BF348B538, 0x59F111F1B605D019, 0x923F82A4AF194F9B, 0xAB1C5ED5DA6D8118] ++
  [0xD807AA98A3030242, 0x12835B0145706FBE, 0x243185BE4EE4B28C, 0x550C7DC3D5FFB4E2] ++
  [0x72BE5D74F27B896F, 0x80DEB1FE3B1696B1, 0x9BDC06A725C71235, 0xC19BF174CF692694] ++
  [0xE49B69C19EF14AD2, 0xEFBE4786384F25E3, 0xFC19DC68B8CD5B5, 0x240CA1CC77AC9C65] ++
  [0x2DE92C6F592B0275, 0x4A7484AA6EA6E483, 0x5CB0A9DCBD41FBD4, 0x76F988DA831153B5] ++
  [0x983E5152EE66DFAB, 0xA831C66D2DB43210, 0xB00327C898FB213F, 0xBF597FC7BEEF0EE4] ++
  [0xC6E00BF33DA88FC2, 0xD5A79147930AA725, 0x6CA6351E003826F, 0x142929670A0E6E70] ++
  [0x27B70A8546D22FFC, 0x2E1B21385C26C926, 0x4D2C6DFC5AC42AED, 0x53380D139D95B3DF] ++
  [0x650A73548BAF63DE, 0x766A0ABB3C77B2A8, 0x81C2C92E47EDAEE6, 0x92722C851482353B] ++
  [0xA2BFE8A14CF10364, 0xA81A664BBC423001, 0xC24B8B70D0F89791, 0xC76C51A30654BE30] ++
  [0xD192E819D6EF5218, 0xD69906245565A910, 0xF40E35855771202A, 0x106AA07032BBD1B8] ++
  [0x19A4C116B8D2D0C8, 0x1E376C085141AB53, 0x2748774CDF8EEB99, 0x34B0BCB5E19B48A8] ++
  [0x391C0CB3C5C95A63, 0x4ED8AA4AE3418ACB, 0x5B9CCA4F7763E373, 0x682E6FF3D6B2B8A3] ++
  [0x748F82EE5DEFB2FC, 0x78A5636F43172F60, 0x84C87814A1F0AB72, 0x8CC702081A6439EC] ++
  [0x90BEFFFA23631E28, 0xA4506CEBDE82BDE9, 0xBEF9A3F7B2C67915, 0xC67178F2E372532B] ++
  [0xCA273ECEEA26619C, 0xD186B8C721C0C207, 0xEADA7DD6CDE0EB1E, 0xF57D4F7FEE6ED178] ++
  [0x6F067AA72176FBA, 0xA637DC5A2C898A6, 0x113F9804BEF90DAE, 0x1B710B35131C471B] ++
  [0x28DB77F523047D84, 0x32CAAB7B40C72493, 0x3C9EBE0A15C9BEBC, 0x431D67C49C100D4C] ++
  [0x4CC5D4BECB3E42B6, 0x597F299CFC657E2A, 0x5FCB6FAB3AD6FAEC, 0x6C44198C4A475817]

/-- The initial hash values. -/
def sha256Init : List Nat :=
  [0x6A09E667, 0xBB67AE85, 0x3C6EF372, 0xA54FF53A, 0x510E527F, 0x9B05688C, 0x1F83D9AB, 0x5BE0CD19]
def sha384Init : List Nat :=
  [0xCBBB9D5DC1059ED8, 0x629A292A367CD507, 0x9159015A3070DD17, 0x152FECD8F70E5939] ++
  [0x67332667FFC00B31, 0x8EB44A8768581511, 0xDB0C2E0D64F98FA7, 0x47B5481DBEFA4FA4]

/-- `x` rotated right by `n` in `w` bits. -/
def rotr (w x n : Nat) : Nat := x / 2 ^ n + x % 2 ^ n * 2 ^ (w - n)

/-- The amounts of a mixing function for each width. -/
def shaMix (w x a b c : Nat) (shiftLast : Bool) : Nat :=
  rotr w x a ^^^ rotr w x b ^^^ (if shiftLast then x / 2 ^ c else rotr w x c)

def shaSig0 (w x : Nat) : Nat := if w = 32 then shaMix w x 7 18 3 true else shaMix w x 1 8 7 true
def shaSig1 (w x : Nat) : Nat := if w = 32 then shaMix w x 17 19 10 true else shaMix w x 19 61 6 true
def shaSum0 (w x : Nat) : Nat := if w = 32 then shaMix w x 2 13 22 false else shaMix w x 28 34 39 false
def shaSum1 (w x : Nat) : Nat := if w = 32 then shaMix w x 6 11 25 false else shaMix w x 14 18 41 false

/-- The message schedule, newest word first, extended by `n` words. -/
def shaSchedule (w : Nat) : (n : Nat) → List Nat → List Nat
  | 0, l => l
  | n + 1, l =>
    shaSchedule w n
      ((shaSig1 w (l.getD 1 0) + l.getD 6 0 + shaSig0 w (l.getD 14 0) + l.getD 15 0) % 2 ^ w :: l)

/-- One round over the working variables a to h. -/
def shaRound (w : Nat) (v : List Nat) (kw : Nat) : List Nat :=
  match v with
  | [a, b, c, d, e, f, g, h] =>
    let t1 := h + shaSum1 w e + (e &&& f ^^^ (2 ^ w - 1 - e) &&& g) + kw
    let t2 := shaSum0 w a + (a &&& b ^^^ a &&& c ^^^ b &&& c)
    [(t1 + t2) % 2 ^ w, a, b, c, (d + t1) % 2 ^ w, e, f, g]
  | v => v

/-- One block into the hash value. -/
def shaBlock (w : Nat) (h : List Nat) (block : List Byte) : List Nat :=
  let m := (List.range 16).map fun i => ofLe ((block.drop (i * (w / 8))).take (w / 8)).reverse
  let ws := (shaSchedule w (if w = 32 then 48 else 64) m.reverse).reverse
  let v := ((shaK.zip ws).foldl (fun v x => shaRound w v (x.1 / 2 ^ (64 - w) + x.2)) h)
  (h.zip v).map fun x => (x.1 + x.2) % 2 ^ w

/-- Blocks of `n` bytes of `l` into the hash value. -/
def shaBlocks (w n : Nat) : (fuel : Nat) → List Byte → List Nat → List Nat
  | 0, _, h => h
  | f + 1, l, h => if l.length < n then h else shaBlocks w n f (l.drop n) (shaBlock w h (l.take n))

/-- The hash of a message: a 1 bit, zeros, and the length in bits. -/
def sha (w : Nat) (init : List Nat) (m : List Byte) : List Byte :=
  let n := 2 * w
  let pad := n - 1 - (m.length + w / 4) % n
  let l := m ++ [0x80] ++ List.replicate pad 0 ++ beBytes (w / 4) (8 * m.length)
  (shaBlocks w n (l.length / n) l init).flatMap (beBytes (w / 8))

def sha256 (m : List Byte) : List Byte := sha 32 sha256Init m
def sha384 (m : List Byte) : List Byte := (sha 64 sha384Init m).take 48

/-- HMAC-SHA-256 with a key of at most 64 bytes. -/
def hmac256 (key m : List Byte) : List Byte :=
  let k := padTo 64 0 key
  sha256 (k.map (· ^^^ 0x5C) ++ sha256 (k.map (· ^^^ 0x36) ++ m))

/-! ECDSA over P-384. -/

def p384P : Nat := 2 ^ 384 - 2 ^ 128 - 2 ^ 96 + 2 ^ 32 - 1
def p384N : Nat := 0xFFFFFFFFFFFFFFFFFFFFFFFFFFFFFFFFFFFFFFFFFFFFFFFFC7634D81F4372DDF581A0DB248B0A77AECEC196ACCC52973
def p384B : Nat := 0xB3312FA7E23EE7E4988E056BE3F82D19181D9C6EFE8141120314088F5013875AC656398D8A2ED19D2A85C8EDD3EC2AEF
def p384Gx : Nat := 0xAA87CA22BE8B05378EB1C71EF320AD746E1D3B628BA79B9859F741E082542A385502F25DBF55296C3A545E3872760AB7
def p384Gy : Nat := 0x3617DE4A96262C6F5D9E98BF9292DC29F8F41DBD289A147CE9DA3113B5F0B8C00A60B1CE1D7E819D7A431D7C90EA0E5F

/-- `b ^ e` modulo `m`, over the lowest `fuel` bits of `e`. -/
def powMod (m : Nat) : (fuel : Nat) → (b e : Nat) → Nat
  | 0, _, _ => 1
  | f + 1, b, e =>
    let r := powMod m f (b * b % m) (e / 2)
    if e % 2 = 1 then r * b % m else r

/-- The inverse modulo a prime `m`. -/
def invMod (m x : Nat) : Nat := powMod m 384 (x % m) (m - 2)

/-- A point of the curve; `none` is the point at infinity. -/
abbrev EcPoint := Option (Nat × Nat)

/-- The sum of two points of y^2 = x^3 - 3 x + b. -/
def ecAdd (a b : EcPoint) : EcPoint :=
  match a, b with
  | none, b => b
  | a, none => a
  | some (x1, y1), some (x2, y2) =>
    let p := p384P
    if x1 = x2 ∧ (y1 + y2) % p = 0 then none
    else
      let l := if x1 = x2 then (3 * x1 * x1 + p - 3) * invMod p (2 * y1) % p else (y2 + p - y1) * invMod p (x2 + p - x1) % p
      let x3 := (l * l + 2 * p - x1 - x2) % p
      some (x3, (l * (x1 + p - x3) + p - y1) % p)

/-- `k` times a point, over the lowest `fuel` bits of `k`. -/
def ecMul : (fuel : Nat) → (k : Nat) → EcPoint → EcPoint
  | 0, _, _ => none
  | f + 1, k, a =>
    let r := ecMul f (k / 2) (ecAdd a a)
    if k % 2 = 1 then ecAdd r a else r

/-- Whether (`x`, `y`) is a point of the curve. -/
def onP384 (x y : Nat) : Bool :=
  decide (x < p384P) && decide (y < p384P) && decide ((y * y + 3 * x) % p384P = (x * x * x + p384B) % p384P)

/-- Whether (`r`, `s`) is a signature of a message under the public key (`qx`, `qy`). -/
def ecdsaOk (qx qy r s : Nat) (m : List Byte) : Bool :=
  let n := p384N
  if r = 0 ∨ n ≤ r ∨ s = 0 ∨ n ≤ s ∨ onP384 qx qy = false then false
  else
    let e := ofLe (sha384 m).reverse
    let w := invMod n s
    match ecAdd (ecMul 384 (e * w % n) (some (p384Gx, p384Gy))) (ecMul 384 (r * w % n) (some (qx, qy))) with
    | none => false
    | some (x, _) => decide (x % n = r)

end Sys2Proof.Machine
end

