-- ==== Sys2Proof/Machine/EthCtl.lean ====
section
/-! DEFINITION. Ethernet: link, stream queues and packets, transmission, reception, flow control (chapter 17). The
management operations themselves are in `Mgmt`. -/

namespace Sys2Proof.Machine

def dEth : Nat → EthSt := fun _ => {}
def State.ethSt (s : State) (h : Nat) : EthSt := tget dEth s.eth h
def State.modEth (s : State) (h : Nat) (f : EthSt → EthSt) : State := { s with eth := tset dEth s.eth h (f (s.ethSt h)) }
def dStr : Nat → EthStr := fun _ => {}
def State.strSt (s : State) (h t : Nat) : EthStr := tget dStr s.strs (64 * h + t)
def State.modStr (s : State) (h t : Nat) (f : EthStr → EthStr) : State :=
  { s with strs := tset dStr s.strs (64 * h + t) (f (s.strSt h t)) }

/-- The registers of stream `t` (R557). -/
def strB (h t : Nat) : Nat := ethB h + 0x20 * t

/-- Whether the port is a BREAKOUT of four sub-ports (R537). -/
def breakout (s : State) (h : Nat) : Bool := s.rd (ethB h) R.ETH_CTRL_MODE == 2

/-- The MTU, clamped (ETH_CFG). -/
def ethMtu (s : State) (h : Nat) : Nat := max 1500 (min 9000 (s.rd (ethB h) R.ETH_CFG_MTU))

/-! Link (R538). -/

/-- Links of the mask `m` go down: LINK_DOWN and an event. -/
def ethDrop (h m : Nat) (s : State) : State :=
  let b := ethB h
  let was := s.rd b R.ETH_STATUS_LINK
  if was &&& m = 0 then s
  else
    let now := was &&& (15 ^^^ m)
    (s.wrs b [(R.ETH_STATUS_LINK, now), (R.ETH_STATUS_LINK_DOWN, 1),
      (R.ETH_STATUS_FEC_LOCK, if now = 0 then 0 else s.rd b R.ETH_STATUS_FEC_LOCK)]).raise (132 + 16 * h) (was &&& m)

/-- The membership reports of a port whose link has come up: trigger group and PTP groups (R539). -/
def membership (s : State) (h : Nat) : List EthTx :=
  (if s.on (ethB h) R.ETH_TRIG_IP6 then [.report true (s.ethSt h).group6]
    else [.report false (s.rd (ethB h) R.ETH_TRIG_GROUP4_GROUP)])
  ++ (if [0, 1].any fun i => ptpRole s i h != 0 then [.report false 0xE0000181, .report false 0xE000006B] else [])

/-- A frame for the MGMT class; a full queue of 64 loses it (R545). -/
def mgmtSend (h : Nat) (f : EthTx) (s : State) : State :=
  s.modEth h fun q => if 64 ≤ q.mgmtTx.length then q else { q with mgmtTx := q.mgmtTx ++ [f] }

/-- ETH_LINK_UP: the PCS of a sub-port (0 outside BREAKOUT) is aligned and, where FEC is on, the FEC is locked. -/
def execEthLinkUp (h : Hub) (sub : Fin 4) (s : State) : Host.Outcome State Fault Refusal :=
  let b := ethB h
  if !s.hasHub h || !s.on b R.ETH_CTRL_EN || inAon s || (!breakout s h && sub.val != 0) then .next s
  else
    let fec := s.on b R.ETH_CTRL_FEC || (s.rd b R.ETH_CTRL_MODE != 1 && s.rd b R.ETH_CTRL_MODE != 2)
    let s := s.wrs b [(R.ETH_STATUS_LINK, s.rd b R.ETH_STATUS_LINK ||| 2 ^ sub.val), (R.ETH_STATUS_FEC_LOCK, b2n fec)]
    .next (if sub.val = 0 then (membership s h).foldl (fun s f => mgmtSend h f s) s else s)

/-- ETH_LINK_DOWN (R538). -/
def execEthLinkDown (h : Hub) (sub : Fin 4) (s : State) : Host.Outcome State Fault Refusal :=
  .next (ethDrop h (2 ^ sub.val) s)

/-- ETH_RESTART: link bring-up starts again (R538). -/
def execEthRestart (h : Hub) (s : State) : Host.Outcome State Fault Refusal := .next (ethDrop h 15 s)

/-- ETH_CTRL.EN has become 0, or the port goes off in AON. -/
def ethOff (h : Nat) (s : State) : State := ethDrop h 15 s

/-! Stream queues (R541, R542, R544). -/

/-- The KiB each stream gets, in stream order; one that would carry the sum beyond 4096 gets none. -/
def strAllocs (s : State) (h : Nat) : (n : Nat) → List Nat × Nat
  | 0 => ([], 0)
  | n + 1 =>
    let (l, sum) := strAllocs s h n
    let q := s.rd (strB h n) R.ETH_STR_t_QUEUE_QBYTES
    if sum + q ≤ 4096 then (l ++ [q], sum + q) else (l ++ [0], sum)

def strAlloc (s : State) (h t : Nat) : Nat := (strAllocs s h 64).1.getD t 0

/-- Whether stream `t` gets none of the buffer because its QBYTES would carry the sum beyond it. -/
def strOver (s : State) (h t : Nat) : Bool :=
  strAlloc s h t != s.rd (strB h t) R.ETH_STR_t_QUEUE_QBYTES

/-- QBYTES of a stream has been written: QOVER shows streams that get none (R542). -/
def qbytesWritten (h : Nat) (s : State) : State :=
  if (List.range 64).any (strOver s h) then s.wr (ethB h) R.ETH_STATUS_QOVER 1 else s

def EthStr.itemBytes (q : EthStr) : Nat := (q.items.map fun i => i.data.length).sum
def EthStr.fill (q : EthStr) : Nat := q.itemBytes + (q.pkts.map fun p => p.body.length).sum

def strShow (h t : Nat) (s : State) : State :=
  s.wr (strB h t) R.ETH_STR_t_QUEUE_FILL (min 8191 (ceilTo 1024 (s.strSt h t).fill / 1024))

def strOn (s : State) (h t : Nat) : Bool := s.on (strB h t) R.ETH_STR_t_CFG_EN

/-! Destinations (R539, R540). -/

/-- Whether the stream's destination is IPv6, and the address. -/
def strDst (s : State) (h t : Nat) : Bool × Nat :=
  if s.on (strB h t) R.ETH_STR_t_CFG_IPV6 then (true, (s.strSt h t).dst6)
  else (false, s.rd (strB h t) R.ETH_STR_t_DST4_ADDR)

/-- A multicast address maps to its MAC address under RFC 1112 and RFC 2464. -/
def multicastMac (v6 : Bool) (a : Nat) : Option Nat :=
  if v6 then (if a / 2 ^ 120 = 255 then some (0x333300000000 + a % 2 ^ 32) else none)
  else if a / 2 ^ 28 = 14 then some (0x01005E000000 + a % 2 ^ 23) else none

/-- The MAC address the stream's packets go to, where it is resolved. -/
def strMac (s : State) (h t : Nat) : Option Nat :=
  let b := strB h t
  if s.on b R.ETH_STR_t_CFG_STATIC_MAC then
    some (s.rd b R.ETH_STR_t_MAC_HI_MAC * 2 ^ 32 + s.rd b R.ETH_STR_t_MAC_LO_MAC)
  else
    let d := strDst s h t
    match multicastMac d.1 d.2 with
    | some m => some m
    | none => match (s.strSt h t).resolved with
      | some (v6, a, m) => if v6 = d.1 ∧ a = d.2 then some m else none
      | none => none

/-- UNRESOLVED follows the destination (R540). -/
def strResolveShow (h t : Nat) (s : State) : State :=
  s.wr (strB h t) R.ETH_STR_t_QUEUE_UNRESOLVED (b2n (strOn s h t && (strMac s h t).isNone))

/-- ADDRESS_RESOLVE: the port resolves the unicast destinations of its streams; `macs` are what ARP or ND answer, per
stream (R539). -/
def execAddressResolve (h : Hub) (macs : List (Option (BitVec 48))) (s : State) : Host.Outcome State Fault Refusal :=
  .next (if s.rd (ethB h) R.ETH_STATUS_LINK = 0 then s
    else ((padTo 64 none macs).zipIdx).foldl (fun s x =>
      let t := x.2
      let d := strDst s h t
      let s := s.modStr h t fun q => { q with resolved := x.1.map fun m => (d.1, d.2, m.toNat) }
      strResolveShow h t s) s)

/-- CFG.EN of stream `t` has been written as `on`: an enabled stream starts anew; a disabled one loses its queue (R547,
R558). A stream that gets no buffer cannot be enabled (R542). -/
def strEnable (h t : Nat) (on : Bool) (s : State) : State :=
  let b := strB h t
  if on then
    if strOver s h t then (s.wr b R.ETH_STR_t_CFG_EN 0).wr (ethB h) R.ETH_STATUS_QOVER 1
    else if strOn s h t then s
    else
      let s := s.modStr h t fun q => { q with
        items := [], pkts := [], seq := 0, offset := 0, gap := 0, dropped := false, resync := true, skip := false
        vrt := none, ctx := [], dataCount := 0, ctxCount := 0 }
      strResolveShow h t (s.wr b R.ETH_STR_t_CFG_EN 1)
  else
    let s := (s.wr b R.ETH_STR_t_CFG_EN 0).modStr h t fun q => { q with items := [], pkts := [], vrt := none }
    strResolveShow h t (strShow h t s)

/-! Writing into a stream (R541, R544). -/

/-- Bytes `l` join the queue; `start`: they begin an item. -/
def EthStr.push (q : EthStr) (start : Bool) (l : List Byte) : EthStr :=
  if start then
    { q with
      items := q.items ++ [{ data := l, gap := q.gap, dropped := q.dropped, resync := q.resync }]
      gap := 0, dropped := false, resync := false, skip := false }
  else if q.skip then { q with gap := q.gap + l.length }
  else match q.items.reverse with
    | i :: r => { q with items := (({ i with data := i.data ++ l } : EthItem) :: r).reverse }
    | [] => { q with items := [{ data := l, begun := true }] }

/-- The oldest whole item that has not begun transmission is discarded (R544); `none` where there is none. The last item is
whole once another begins (`start`). -/
def EthStr.dropOldest (start : Bool) (q : EthStr) : Option EthStr :=
  let (keep, rest) := q.items.span (·.begun)
  match rest with
  | [] => none
  | i :: j :: r =>
    some { q with items := keep ++ { j with gap := j.gap + i.gap + i.data.length, dropped := true, resync := true } :: r }
  | [i] => if start then some { q with
      items := keep, gap := q.gap + i.gap + i.data.length, dropped := true, resync := true } else none

/-- Items are discarded until `n` bytes fit in `cap`; how many were. -/
def EthStr.makeRoom (start : Bool) (cap n : Nat) : (fuel : Nat) → EthStr → Nat → EthStr × Nat
  | 0, q, k => (q, k)
  | f + 1, q, k =>
    if q.fill + n ≤ cap then (q, k)
    else match q.dropOldest start with
      | some q => makeRoom start cap n f q (k + 1)
      | none => (q, k)

/-- Bytes `l` are written into stream `t`: `none` where the queue has no room and the writer waits (R544). The rest of an item
that has been discarded needs none. -/
def strPush (h t : Nat) (start : Bool) (l : List Byte) (s : State) : Option State :=
  let b := strB h t
  let q := s.strSt h t
  let cap := strAlloc s h t * 1024
  let skip := !start && q.skip
  let (q, k) := if s.on b R.ETH_STR_t_CFG_FULL && !skip then q.makeRoom start cap l.length (q.items.length + 1) 0 else (q, 0)
  if skip || decide (q.fill + l.length ≤ cap) then
    some (strShow h t ((s.inc b R.ETH_STR_t_DROPS_DROPS k).modStr h t fun _ => q.push start l))
  else none

/-! Packets (R543, R546). -/

/-- Most payload bytes of a packet (R543). -/
def strMaxPay (s : State) (h t : Nat) : Nat :=
  let lim := ethMtu s h - (if s.on (strB h t) R.ETH_STR_t_CFG_IPV6 then 88 else 68)
  min (s.rd (strB h t) R.ETH_STR_t_CFG_MAXPAY * 4) (floorTo 4 lim)

/-- Up to `n` bytes from the head of a queue, stopping before an item that begins a resynchronised packet: the bytes, the
offset of the first item header among them, and what is left. -/
def takeBytes : (n : Nat) → (first : Bool) → List EthItem → (at_ : Nat) → List Byte × Option Nat × List EthItem
  | _, _, [], _ => ([], none, [])
  | n, first, i :: r, at_ =>
    if n = 0 ∨ (!first && i.resync) then ([], none, i :: r)
    else if n < i.data.length then
      (i.data.take n, if i.begun then none else some at_,
        { i with data := i.data.drop n, begun := true, gap := 0, dropped := false, resync := false } :: r)
    else
      let (l, a, r) := takeBytes (n - i.data.length) false r (at_ + i.data.length)
      (i.data ++ l, if i.begun then a else some at_, r)

/-- The 12-bit engine number and the hub, as streams name their sender (R546, R548). -/
def engineOf (s : State) (h : Nat) : Nat := s.rd (trgB (if h = 0 ∨ s.part ≠ .s8d then 0 else 2)) R.TRG_NET_ID_ENGINE

/-- A packet is ready to go to the stream's destination, or is discarded where that is unresolved (R540). -/
def strEmit (h t : Nat) (native : Bool) (body : List Byte) (s : State) : State :=
  let b := strB h t
  let d := strDst s h t
  match strMac s h t with
  | none =>
    strResolveShow h t (s.inc b R.ETH_STR_t_DROPS_DROPS)
  | some m =>
    s.modStr h t fun q => { q with pkts := q.pkts ++
      [{ body := body, native := native, v6 := d.1, dst := d.2, mac := m, sport := s.rd b R.ETH_STR_t_UDP_SRC
         dport := s.rd b R.ETH_STR_t_UDP_DST, pcp := s.rd b R.ETH_STR_t_CFG_PCP
         sub := if breakout s h then s.rd b R.ETH_STR_t_CFG_SUBPORT else 0 }] }

/-- After a packet is discarded because its destination is unresolved, the next begins with an item header: the rest of
an item that has begun goes too (R547). -/
def EthStr.resyncNext (q : EthStr) : EthStr :=
  match q.items with
  | i :: j :: r => if i.begun then { q with offset := q.offset + i.data.length, items := { j with resync := true } :: r }
      else { q with items := { i with resync := true } :: j :: r }
  | [i] => if i.begun then { q with offset := q.offset + i.data.length, items := [], resync := true, skip := true }
      else { q with items := [{ i with resync := true }] }
  | [] => { q with resync := true, skip := true }

/-- A native packet of at most MAXPAY bytes (R546). -/
def formNative (h t : Nat) (s : State) : State :=
  let q := s.strSt h t
  match q.items with
  | [] => s
  | i :: _ =>
    let (l, at_, rest) := takeBytes (strMaxPay s h t) true q.items 0
    if l = [] then s
    else
      let off := q.offset + i.gap
      let flags := b2n at_.isSome + 2 * b2n i.resync + 4 * b2n i.dropped
      let head := beBytes 2 0x5354 ++ [1, BitVec.ofNat 8 t] ++ beBytes 2 (engineOf s h + 4096 * h) ++ beBytes 2 flags
        ++ beBytes 4 q.seq ++ beBytes 8 off ++ beBytes 2 (at_.getD 65535) ++ beBytes 2 l.length
        ++ List.replicate 16 0
      let lost := (strMac s h t).isNone
      let s := s.modStr h t fun q => { q with items := rest, offset := off + l.length, seq := q.seq + b2n !lost }
      let s := strEmit h t true (head ++ l) s
      if lost then s.modStr h t EthStr.resyncNext else s

/-! VITA 49.2 (R548). -/

/-- A time in 2^-16 ns as VITA words: seconds, and picoseconds rounded half up. -/
def vrtTime (t : Int) : List Byte :=
  let ps := (rhu (t * 1000) 65536).toNat
  beBytes 4 (ps / 10 ^ 12) ++ beBytes 8 (ps % 10 ^ 12)

/-- The first seven words of a packet: type, count, size, stream ID, class ID, time. -/
def vrtHead (s : State) (h t kind count chan cls words : Nat) (time : Int) : List Byte :=
  beBytes 4 (kind * 2 ^ 28 + 2 ^ 27 + 3 * 2 ^ 22 + 2 * 2 ^ 20 + count % 16 * 2 ^ 16 + words)
    ++ beBytes 4 (engineOf s h * 2 ^ 20 + h * 2 ^ 19 + chan * 64 + t)
    ++ beBytes 4 (s.rd (ethB h) R.ETH_VRT_OUI) ++ beBytes 4 cls ++ vrtTime time

/-- A field of a block header (R265). -/
def blockField (l : List Byte) (at_ n : Nat) : Nat := ofLe ((l.drop at_).take n)

/-- What a context packet tells of a channel: run, BAND, FREQ, L, TUNE (which has no effect in the S8G-2D, R89), then its
FLAGS and TYPE. -/
def vrtContext (s : State) (l : List Byte) : List Nat :=
  let die := blockField l 4 2 / 128
  [blockField l 32 4, blockField l 48 1, blockField l 40 8, blockField l 36 4,
    if s.part = .s2d then 0 else clampTune (tuneOf s.rdF (die / 2 * 2)), blockField l 2 2, blockField l 0 1]

/-- A value in Hz as VITA's fixed point of 2^-20 Hz, rounded half up. -/
def vrtHz (x : Rat) : Int := (x * (2 ^ 20 : Nat) + 1 / 2).floor

/-- The body of a context packet (R548): bandwidth 0.8 fout, RF reference fz, sample rate fout, which is the bank's rate
divided by L (R236, R245), state and events, and payload format. -/
def vrtContextBody (s : State) (c : List Nat) (changed : Bool) : List Byte :=
  let l := max 1 (c.getD 3 1)
  let bank : Rat := s.fs * 5 / 256
  let fz : Rat := ((c.getD 4 0 : Nat) : Rat) * 20480000000 / (2 ^ 40 : Nat)
    + ((sx 64 (c.getD 2 0) : Int) : Rat) * bank / (2 ^ 48 : Nat) + (((c.getD 1 0 : Int) - 32 : Int) : Rat) * (s.fs / 64)
  let fl := c.getD 5 0
  let ovr := bit fl 0
  let lost := bit fl 7
  let ev := 2 ^ 31 + 2 ^ 25 + 2 ^ 24 + b2n (s.on (timeB 0) R.TIME_STATUS_SET) * 2 ^ 19 + b2n ovr * 2 ^ 13 + b2n lost * 2 ^ 12
  let size := if c.getD 6 0 = 0x51 then 15 else 31
  beBytes 4 (b2n changed * 2 ^ 31 + 2 ^ 29 + 2 ^ 27 + 2 ^ 21 + 2 ^ 16 + 2 ^ 15)
    ++ beBytes 8 (vrtHz (bank * 4 / 5 / (l : Nat))).toNat ++ beBytes 8 (enc 64 (vrtHz fz))
    ++ beBytes 8 (vrtHz (bank / (l : Nat))).toNat
    ++ beBytes 4 ev ++ beBytes 8 ((2 ^ 29 + size * 64 + size) * 2 ^ 32)

/-- The information class and packet class of a block type. -/
def vrtClass (ty : Nat) : Nat := if ty = 0x51 then 0x51 else 0x50

/-- A context packet of channel `chan` at time `time`. -/
def vrtSendContext (h t chan : Nat) (time : Int) (changed : Bool) (s : State) : State :=
  let c := tget (fun _ => []) (s.strSt h t).ctx chan
  let body := vrtContextBody s c changed
  let pkt := vrtHead s h t 4 (s.strSt h t).ctxCount chan (vrtClass (c.getD 6 0)) ((28 + body.length) / 4) time ++ body
  strEmit h t false pkt (s.modStr h t fun q => { q with ctxCount := q.ctxCount + 1 })

/-- A sample of a block as 32-bit words, I before Q. -/
def vrtSample (c16 : Bool) (l : List Byte) : List Byte :=
  if c16 then beBytes 2 (ofLe (l.take 2)) ++ beBytes 2 (ofLe ((l.drop 2).take 2))
  else beBytes 4 (enc 32 (sx 24 (ofLe (l.take 3)))) ++ beBytes 4 (enc 32 (sx 24 (ofLe ((l.drop 3).take 3))))

/-- The head item's block opens: a block of types 0x50 and 0x51 whose header is queued; an item of another type is
discarded. A context goes first where the run or a setting has changed. -/
def vrtOpen (h t : Nat) (s : State) : State :=
  match (s.strSt h t).items with
  | [] => s
  | i :: r =>
    let ty := blockField i.data 0 1
    if i.begun || (i.data ≠ [] && ty != 0x50 && ty != 0x51) then
      (if i.begun then s else s.inc (strB h t) R.ETH_STR_t_DROPS_DROPS).modStr h t fun q =>
        { q with items := r, skip := if r = [] then true else q.skip }
    else if i.data.length < 64 then s
    else
      let c := vrtContext s (i.data.take 64)
      let chan := blockField i.data 4 2
      let old := tget (fun _ => []) (s.strSt h t).ctx chan
      let changed := decide (old.take 5 ≠ c.take 5)
      let s := s.modStr h t fun q => { q with
        vrt := some { head := i.data.take 64, sent := 0, left := blockField i.data 28 4 }
        items := { i with data := i.data.drop 64, begun := true } :: r, ctx := tset (fun _ => []) q.ctx chan c }
      if changed then vrtSendContext h t chan (ofSts (blockField i.data 16 12)) true s else s

/-- The next data packet of the block in progress, of MAXPAY bytes, or of what is queued where `all`. -/
def vrtForm (h t : Nat) (all : Bool) (s : State) : State :=
  let s := if (s.strSt h t).vrt.isNone then vrtOpen h t s else s
  let q := s.strSt h t
  match q.vrt, q.items with
  | some v, i :: r =>
    let c16 := decide (blockField v.head 0 1 = 0x51)
    let per := if c16 then 4 else 6
    let full := strMaxPay s h t / (if c16 then 4 else 8)
    let n := min full (min v.left (i.data.length / per))
    if n = 0 ∨ (n < min full v.left ∧ !all) then s
    else
      let data := ((List.range n).map fun k => vrtSample c16 ((i.data.drop (k * per)).take per)).flatten
      let time := ofSts (blockField v.head 16 12)
        + ((v.sent * blockField v.head 36 4 * (256 * 10 ^ 9 * 65536) : Nat) / (5 * s.fs) + 1 / 2 : Rat).floor
      let chan := blockField v.head 4 2
      let pkt := vrtHead s h t 1 q.dataCount chan (vrtClass (blockField v.head 0 1)) ((28 + data.length) / 4) time ++ data
      let s := s.modStr h t fun q => { q with
        dataCount := q.dataCount + 1
        vrt := if v.left = n then none else some { v with sent := v.sent + n, left := v.left - n }
        items := if v.left = n then r else { i with data := i.data.drop (n * per) } :: r
        skip := if v.left = n && r.isEmpty then true else q.skip }
      strEmit h t false pkt s
  | _, _ => s

/-- STREAM_PACKET_FORM: with MAXPAY bytes queued, or a whole packet of a block, a packet forms (R543, R548). -/
def execStreamPacketForm (h : Hub) (t : Fin 64) (s : State) : Host.Outcome State Fault Refusal :=
  .next (if !strOn s h t then s
    else if s.on (strB h t) R.ETH_STR_t_CFG_FORMAT then strShow h t (vrtForm h t false s)
    else if strMaxPay s h t ≤ (s.strSt h t).itemBytes then strShow h t (formNative h t s) else s)

/-- STREAM_HOLD_EXPIRE: the oldest byte has waited HOLD_US: a packet forms of what is queued (R543). -/
def execStreamHoldExpire (h : Hub) (t : Fin 64) (s : State) : Host.Outcome State Fault Refusal :=
  .next (if !strOn s h t then s
    else strShow h t (if s.on (strB h t) R.ETH_STR_t_CFG_FORMAT then vrtForm h t true s else formNative h t s))

/-- VRT_CONTEXT_PERIODIC: every 1 s a context packet for each channel the stream carries (R548). -/
def execVrtContextPeriodic (h : Hub) (t : Fin 64) (s : State) : Host.Outcome State Fault Refusal :=
  .next (if strOn s h t && s.on (strB h t) R.ETH_STR_t_CFG_FORMAT then
    strShow h t (((s.strSt h t).ctx).foldl (fun s e => vrtSendContext h t e.1 s.now false s) s)
  else s)

/-! Transmission (R545, R547, R554). -/

/-- The ones' complement sum of 16-bit words in network byte order. -/
def onesSum : List Byte → Nat
  | a :: b :: l =>
    let x := onesSum l + a.toNat * 256 + b.toNat
    if 65535 < x then x - 65535 else x
  | [a] => a.toNat * 256
  | [] => 0

/-- The UDP checksum over the pseudo-header and the packet; 0 is sent as all ones. -/
def udpCheck (v6 : Bool) (src dst sport dport : Nat) (body : List Byte) : Nat :=
  let n := 8 + body.length
  let addr := if v6 then 16 else 4
  let c := 65535 - onesSum (beBytes addr src ++ beBytes addr dst ++ beBytes 4 n ++ beBytes 4 17 ++ beBytes 2 sport
    ++ beBytes 2 dport ++ beBytes 2 n ++ beBytes 2 0 ++ body)
  if c = 0 then 65535 else c

def ethSource (s : State) (h : Nat) (v6 : Bool) : Nat := if v6 then (s.ethSt h).ip6 else s.rd (ethB h) R.ETH_IP4_ADDR

/-- The VLAN tag of a frame with priority `pcp`, where VLAN_EN. -/
def vlanTag (s : State) (h pcp : Nat) : Option Nat :=
  if s.on (ethB h) R.ETH_CFG_VLAN_EN then some (pcp * 2 ^ 13 + s.rd (ethB h) R.ETH_CFG_VID) else none

/-- Whether frames of VLAN priority `pcp` may begin: with VLAN_EN = 0 every frame counts as priority 0 (R554). -/
def unpaused (s : State) (h pcp : Nat) : Bool :=
  !bit (s.rd (ethB h) R.ETH_FC_PAUSED) (if s.on (ethB h) R.ETH_CFG_VLAN_EN then pcp else 0)

/-- The STS at which a frame that starts now passes the port's balls (R424). -/
def egressSts (s : State) (h : Nat) : Nat := stsOf (rhu (egressAt s h s.time.frc) fineU)

/-- A frame leaves the port. -/
def ethSend (h : Nat) (f : EthSent) (s : State) : State :=
  s.modEth h fun q => { q with sent := some { f with check := udpCheck f.v6 f.src f.dst f.sport f.dport f.body } }

/-- The oldest frame of the MGMT class leaves. -/
def sendMgmt (h : Nat) (s : State) : State :=
  match (s.ethSt h).mgmtTx with
  | [] => s
  | f :: r =>
    let s := s.modEth h fun q => { q with mgmtTx := r }
    let tag := vlanTag s h (s.rd (ethB h) R.ETH_CFG_MGMT_PCP)
    let sts := egressSts s h
    match f with
    | .reply p body =>
      ethSend h ⟨0, 0, sts, p.v6, p.addr.toNat, ethSource s h p.v6, 0, tag, s.rd (ethB h) R.ETH_MGMT_PORT, p.port.toNat, 0, body⟩ s
    | .answer _ p => ethSend h ⟨0, 0, sts, p.v6, p.addr.toNat, ethSource s h p.v6, 0, tag, 0, 0, 0, []⟩ s
    | .report v6 g =>
      ethSend h ⟨0, 0, sts, v6, g, ethSource s h v6, (multicastMac v6 g).getD 0, tag, 0, 0, 0, []⟩ s

/-- The oldest trigger message leaves, multicast to the trigger group (R155). -/
def sendEvent (h : Nat) (s : State) : State :=
  match tget (fun _ => []) s.trgTx h with
  | [] => s
  | m :: r =>
    let s : State := { s with trgTx := tset (fun _ => []) s.trgTx h r }
    let v6 := s.on (ethB h) R.ETH_TRIG_IP6
    let g := if v6 then (s.ethSt h).group6 else s.rd (ethB h) R.ETH_TRIG_GROUP4_GROUP
    let port := s.rd (ethB h) R.ETH_TRIG_PORT
    ethSend h ⟨1, 0, egressSts s h, v6, g, ethSource s h v6, (multicastMac v6 g).getD 0,
      vlanTag s h (s.rd (ethB h) R.ETH_CFG_MGMT_PCP), port, port, 0, m⟩ s

/-- Bytes of a stream frame on the line, with preamble, FCS and gap. -/
def EthPkt.lineBytes (p : EthPkt) (tagged : Bool) : Nat :=
  p.body.length + 8 + (if p.v6 then 40 else 20) + 14 + (if tagged then 4 else 0) + 4 + 20

/-- The oldest packet of stream `t`, where it may begin on sub-port `sub`. -/
def strReady (s : State) (h t sub : Nat) : Option EthPkt :=
  match (s.strSt h t).pkts with
  | p :: _ => if p.sub = sub && unpaused s h p.pcp then some p else none
  | [] => none

/-- Deficit round-robin with equal weight (R545): from stream `t` on, the stream that sends next, and the deficits. -/
def drr (s : State) (h sub quantum : Nat) : (fuel : Nat) → (t : Nat) → Tbl Nat → Option (Nat × EthPkt) × Tbl Nat
  | 0, _, d => (none, d)
  | f + 1, t, d =>
    match strReady s h t sub with
    | none => drr s h sub quantum f ((t + 1) % 64) d
    | some p =>
      let n := p.lineBytes (s.on (ethB h) R.ETH_CFG_VLAN_EN)
      let have_ := tget noNat d t
      if n ≤ have_ then (some (t, p), tset noNat d t (have_ - n))
      else drr s h sub quantum f ((t + 1) % 64) (tset noNat d t (have_ + quantum))

/-- The rate of the STREAM class in Mb/s (ETH_SHAPE), a quarter of it on a sub-port. -/
def streamMbps (s : State) (h : Nat) : Nat :=
  let m := min 97000 (s.rd (ethB h) R.ETH_SHAPE_STREAM_MBPS)
  if breakout s h then m / 4 else m

/-- A stream frame leaves: TX_STS is inserted, the packet counts, and the shaper holds the class for its time. -/
def sendStream (h sub : Nat) (s : State) : State :=
  let q := s.ethSt h
  let rate := streamMbps s h
  if rate = 0 ∨ s.time.frc < tget noNat q.shapeAt sub then s
  else
    match drr s h sub 9216 130 q.turn q.deficits with
    | (none, _) => s
    | (some (t, p), d) =>
      let sts := egressSts s h
      let body := if p.native then p.body.take 24 ++ beBytes 12 sts ++ p.body.drop 36 else p.body
      let tag := vlanTag s h p.pcp
      let s := s.modStr h t fun q => { q with pkts := q.pkts.drop 1 }
      let d := if (s.strSt h t).pkts = [] then tset noNat d t 0 else d
      let hold := (p.lineBytes tag.isSome * 8 * 1280 + rate - 1) / rate
      let s := s.modEth h fun q => { q with
        turn := t, deficits := d, shapeAt := tset noNat q.shapeAt sub (s.time.frc + hold) }
      let s := s.wr (strB h t) R.ETH_STR_t_PKTS_PACKETS (s.rd (strB h t) R.ETH_STR_t_PKTS_PACKETS + 1)
      strShow h t (ethSend h ⟨2, sub, sts, p.v6, p.dst, ethSource s h p.v6, p.mac, tag, p.sport, p.dport, 0, body⟩ s)

/-- FRAME_TRANSMIT: sub-port `sub` starts its next frame: MGMT before EVENT before STREAM; MGMT and EVENT leave by
sub-port 0 (R537, R545). -/
def execFrameTransmit (h : Hub) (sub : Fin 4) (s : State) : Host.Outcome State Fault Refusal :=
  .next (if !bit (s.rd (ethB h) R.ETH_STATUS_LINK) sub then s
    else
      let open_ := sub.val == 0 && unpaused s h (s.rd (ethB h) R.ETH_CFG_MGMT_PCP)
      if open_ && (s.ethSt h).mgmtTx ≠ [] then sendMgmt h s
      else if open_ && tget (fun _ => []) s.trgTx h ≠ [] then sendEvent h s
      else sendStream h sub s)

/-! Flow control (R554). -/

/-- A PAUSE or PFC frame. -/
def flowFrame (h : Nat) (pfc : Bool) (prios : Nat) (quanta : List Nat) (s : State) : State :=
  let b := ethB h
  let s := s.inc b R.ETH_PAUSE_COUNT_COUNT
  let mode := s.rd b R.ETH_FC_MODE
  if mode = 0 ∨ pfc ≠ decide (mode = 2) then s
  else if pfc then
    (List.range 8).foldl (fun s p =>
      if bit prios p then s.wr b R.ETH_FC_PAUSED (bitsPut (s.rd b R.ETH_FC_PAUSED) p 1 (b2n (quanta.getD p 0 != 0)))
      else s) s
  else s.wr b R.ETH_FC_PAUSED (if quanta.getD 0 0 = 0 then 0 else 255)

/-- PAUSE_RECEIVE (R554). -/
def execPauseReceive (h : Hub) (pfc : Bool) (prios : BitVec 8) (quanta : List (BitVec 16)) (s : State) :
    Host.Outcome State Fault Refusal :=
  .next (if s.rd (ethB h) R.ETH_STATUS_LINK = 0 then s else flowFrame h pfc prios.toNat (quanta.map BitVec.toNat) s)

/-- PAUSE_EXPIRE: the quanta of the priorities of a mask have run out (R554). -/
def execPauseExpire (h : Hub) (prios : BitVec 8) (s : State) : Host.Outcome State Fault Refusal :=
  .next (s.wr (ethB h) R.ETH_FC_PAUSED (s.rd (ethB h) R.ETH_FC_PAUSED &&& (255 - prios.toNat)))

/-! Reception and management requests (R549 to R552). -/

/-- Whether an address lies in a prefix. -/
def inPrefix (bits a p len : Nat) : Bool := decide (a / 2 ^ (bits - min bits len) = p / 2 ^ (bits - min bits len))

/-- Whether the allow-list accepts a source: with no entry enabled, every one (R549). Entry k holds the address, and the
prefix length with bit 8 for IPv6. -/
def allowed (s : State) (h : Nat) (p : NetPeer) : Bool :=
  let en := s.rd (ethB h) R.ETH_MGMT_ALLOW_EN
  decide (en = 0) || (List.range 8).any fun k =>
    let e := tget (fun _ => (0, 0)) (s.ethSt h).allow k
    bit en k && bit e.2 8 == p.v6 && inPrefix (if p.v6 then 128 else 32) p.addr.toNat e.1 (e.2 % 256)

/-- An operation of a request (R550). -/
def parseOp (bad : Bool) (l : List Byte) : MgmtOp :=
  let op := (l.getD 0 0).toNat
  let unknown := bad || op == 0 || decide (4 < op) || (op == 3 && decide (3 < ofLe ((l.drop 2).take 2).reverse))
  { op := op, status := if unknown then 3 else 0, arg := ofLe ((l.drop 2).take 2).reverse
    addr := ofLe ((l.drop 4).take 4).reverse, data := ofLe ((l.drop 8).take 4).reverse, done := unknown }

def parseOps (bad : Bool) : (n : Nat) → List Byte → List MgmtOp
  | 0, _ => []
  | n + 1, l => parseOp bad (l.take 12) :: parseOps bad n (l.drop 12)

/-- The bytes of an operation in a reply. -/
def MgmtOp.bytes (o : MgmtOp) : List Byte :=
  [BitVec.ofNat 8 o.op, BitVec.ofNat 8 o.status] ++ beBytes 2 o.arg ++ beBytes 4 o.addr ++ beBytes 4 o.data

/-- The reply to a request (R550); with AUTH it carries a tag. -/
def replyBytes (key : List Byte) (r : MgmtReq) : List Byte :=
  let m := r.head.take 8 ++ [r.head.getD 8 0 ||| 1] ++ (r.head.drop 9).take 7 ++ r.ops.flatMap MgmtOp.bytes
  if r.auth then m ++ (hmac256 key m).take 16 else m

/-- The client of a peer. -/
def clientOf (q : EthSt) (p : NetPeer) : Option MgmtClient := q.clients.find? fun c => c.peer == p

/-- Client `c` becomes the most recently used; a seventeenth evicts the least recently used. -/
def EthSt.useClient (q : EthSt) (c : MgmtClient) : EthSt :=
  { q with clients := (c :: q.clients.filter fun d => d.peer != c.peer).take 16 }

/-- Requests whose operations are all done are answered, the oldest first, and their replies kept (R552). -/
def mgmtFinishN (h : Nat) : (fuel : Nat) → State → State
  | 0, s => s
  | f + 1, s =>
  match (s.ethSt h).reqs with
  | [] => s
  | r :: rest =>
    if r.ops.all (·.done) then
      let body := replyBytes (s.ethSt h).key r
      let c := (clientOf (s.ethSt h) r.peer).getD { peer := r.peer }
      let c := { c with replies := ((r.seq, body) :: c.replies).take 16 }
      mgmtFinishN h f (mgmtSend h (.reply r.peer body) (s.modEth h fun q => { (q.useClient c) with reqs := rest }))
    else s

def mgmtFinish (h : Nat) (s : State) : State := mgmtFinishN h (s.ethSt h).reqs.length s

/-- A management request from an accepted source: replayed, refused or queued (R551, R552). -/
def mgmtRequest (h : Nat) (p : NetPeer) (m : List Byte) (s : State) : State :=
  let b := ethB h
  let auth := s.on b R.ETH_MGMT_AUTH
  let reject := s.inc b R.ETH_MGMT_REJECT_COUNT
  let count := (m.getD 3 0).toNat
  let len := 16 + 12 * count
  if m.length < len + (if auth then 16 else 0) ∨ ofLe (m.take 2).reverse ≠ 0x534D ∨ m.getD 2 0 ≠ 1 then reject
  else
    let q := s.ethSt h
    let seq := ofLe ((m.drop 4).take 4).reverse
    let bad := decide (count = 0) || decide (64 < count)
    let req : MgmtReq :=
      { peer := p, seq := seq, head := m.take 16, ops := parseOps bad count (m.drop 16), auth := auth }
    let tagOk := q.keySet && (hmac256 q.key (m.take len)).take 16 == (m.drop len).take 16
    if auth && !tagOk then
      mgmtSend h (.reply p (replyBytes q.key { req with ops := req.ops.map fun o => { o with status := 4 } })) reject
    else
      let c := clientOf q p
      match c.bind fun c => c.replies.find? fun r => r.1 == seq with
      | some r => mgmtSend h (.reply p r.2) (s.modEth h fun q => q.useClient (c.getD { peer := p }))
      | none =>
        if q.reqs.any fun r => r.peer == p && r.seq == seq then s
        else if auth && (c.map fun c => decide (seq ≤ c.top)).getD (decide (16 ≤ q.clients.length)) then reject
        else if 64 ≤ q.reqs.length then s.inc b R.ETH_MGMT_DROP_COUNT
        else
          let c := c.getD { peer := p }
          let s := s.modEth h fun q => { (q.useClient { c with top := max c.top seq }) with reqs := q.reqs ++ [req] }
          mgmtFinish h s

/-- Whether a datagram is for the port's own unicast address. -/
def toOwn (s : State) (h : Nat) (d : NetPeer) : Bool :=
  if d.v6 then s.on (ethB h) R.ETH_IP4_CFG_IP6_EN && decide (d.addr.toNat = (s.ethSt h).ip6)
  else decide (d.addr.toNat = s.rd (ethB h) R.ETH_IP4_ADDR)

/-- Whether it is for the trigger group. -/
def toGroup (s : State) (h : Nat) (d : NetPeer) : Bool :=
  if s.on (ethB h) R.ETH_TRIG_IP6 then d.v6 && decide (d.addr.toNat = (s.ethSt h).group6)
  else !d.v6 && decide (d.addr.toNat = s.rd (ethB h) R.ETH_TRIG_GROUP4_GROUP)

/-- ETH_FRAME_RECEIVE: a frame is classified by its headers (R549). -/
def execEthFrameReceive (h : Hub) (f : EthFrame) (s : State) : Host.Outcome State Fault Refusal :=
  let b := ethB h
  if s.rd b R.ETH_STATUS_LINK = 0 then .next s
  else
    let s := s.inc b R.ETH_RX_FRAMES_COUNT
    let drop := s.inc b R.ETH_RX_DROP_COUNT
    let mgmt := s.inc b R.ETH_MGMT_RX_COUNT
    .next (match f with
      | .ptp domain supported =>
        if [0, 1].all fun i => decide (ptpRole s i h = 0) then drop
        else if supported && (ptpInst s h domain.toNat).isSome then mgmt else ptpDiscard h mgmt
      | .own kind src => mgmtSend h (.answer kind src) mgmt
      | .udp src dst payload =>
        if dst.port.toNat = s.rd b R.ETH_MGMT_PORT ∧ toOwn s h dst then
          if allowed s h src then mgmtRequest h src payload mgmt else s.inc b R.ETH_MGMT_REJECT_COUNT
        else if dst.port.toNat = s.rd b R.ETH_TRIG_PORT ∧ (toGroup s h dst ∨ toOwn s h dst) then receiveMessage payload s
        else drop
      | .flow pfc prios quanta => flowFrame h pfc prios.toNat (quanta.map BitVec.toNat) s
      | .other => drop)

/-! The stop command (R553). -/

/-- The oldest waiting request of the port with a STOP of argument `arg` still to run: its STOP operations of that
argument, and address, are done with status `st`; one that was executed counts. -/
def stopTaken (h arg st : Nat) (s : State) : Option (Nat × State) :=
  let pick := fun (o : MgmtOp) => o.op == 3 && o.arg == arg && !o.done
  match (s.ethSt h).reqs.findIdx? fun r => r.ops.any pick with
  | none => none
  | some i =>
    let addr := ((((s.ethSt h).reqs.getD i ⟨⟨false, 0, 0⟩, 0, [], [], false⟩).ops.find? pick).map (·.addr)).getD 0
    let one := fun (o : MgmtOp) => if pick o && (decide (arg ≠ 2) || o.addr == addr) then { o with done := true, status := st } else o
    let mark := fun (r : MgmtReq) => { r with ops := r.ops.map one }
    let s := s.modEth h fun q => { q with reqs := q.reqs.zipIdx.map fun x => if x.2 = i then mark x.1 else x.1 }
    some (addr, mgmtFinish h (if st = 0 then s.inc (ethB h) R.ETH_STOP_COUNT_COUNT else s))

/-- Every stream of port `h` is disabled. -/
def stopStreams (h : Nat) (s : State) : State :=
  (List.range 64).foldl (fun s t => if strOn s h t then strEnable h t false s else s) s

/-- MGMT_STOP_PORT_STREAMS: STOP with ARG 0 (R553). -/
def execMgmtStopPortStreams (h : Hub) (s : State) : Host.Outcome State Fault Refusal :=
  .next (match stopTaken h 0 0 s with
    | some (_, s) => stopStreams h s
    | none => s)

/-- MGMT_STOP_ALL_STREAMS: STOP with ARG 1 (R553). -/
def execMgmtStopAllStreams (h : Hub) (s : State) : Host.Outcome State Fault Refusal :=
  .next (match stopTaken h 1 0 s with
    | some (_, s) => eachHub s fun h s => stopStreams h s
    | none => s)

end Sys2Proof.Machine
end

