-- ==== Sys2Proof/Machine/FcolCtl.lean ====
section
/-! DEFINITION. Fault collectors: sources, windows, the log, the first fault, ALIVE (chapter 21). What the planner does
on an event is in `Faults`. -/

namespace Sys2Proof.Machine

/-- The configured class of a source (R616): 0 NOTICE, 1 FAULT, 2 SEVERE. -/
def srcClass (n : Nat) : Nat :=
  if 32 ≤ n ∧ n ≤ 36 ∨ n = 77 then 2
  else if n ∈ [12, 13, 14, 17, 38, 84, 85] ∨ (48 ≤ n ∧ n ≤ 56) then 0
  else if n ≤ 11 ∨ n = 16 ∨ (18 ≤ n ∧ n ≤ 22) ∨ n = 37 ∨ (57 ≤ n ∧ n ≤ 66) ∨ (68 ≤ n ∧ n ≤ 76)
      ∨ (80 ≤ n ∧ n ≤ 83) ∨ (88 ≤ n ∧ n ≤ 95) then 1
  else if 96 ≤ n ∧ n < 128 then (if n % 8 < 6 ∧ n % 8 ≠ 2 then 1 else 0)
  else if n = 128 ∨ n = 144 ∨ n = 131 ∨ n = 147 then 1
  else 0

/-- The profile of a source at reset (R620). -/
def srcProfile (n : Nat) : Nat :=
  if (48 ≤ n ∧ n ≤ 56) ∨ (68 ≤ n ∧ n ≤ 71) then 1
  else if 32 ≤ n ∧ n ≤ 36 then 3
  else if n = 129 ∨ n = 145 then 2 else 0

def dSrc : Nat → FaultSrc := fun n =>
  { cfg := srcClass n + 16 * srcProfile n + 256 + 512, cls := srcClass n }

def dFcol : Nat → FcolSt := fun _ => {}
def State.fcolSt (s : State) (h : Nat) : FcolSt := tget dFcol s.fcol h
def State.modFcol (s : State) (h : Nat) (f : FcolSt → FcolSt) : State :=
  { s with fcol := tset dFcol s.fcol h (f (s.fcolSt h)) }
def State.srcSt (s : State) (h n : Nat) : FaultSrc := tget dSrc (s.fcolSt h).srcs n
def State.modSrc (s : State) (h n : Nat) (f : FaultSrc → FaultSrc) : State :=
  s.modFcol h fun q => { q with srcs := tset dSrc q.srcs n (f (tget dSrc q.srcs n)) }

/-- CLASS as it acts: 3 acts as 2. -/
def FaultSrc.cfgClass (q : FaultSrc) : Nat := min 2 (q.cfg % 4)
def FaultSrc.profile (q : FaultSrc) : Nat := bitsOf q.cfg 4 2

/-- A field of profile `p` of hub `h`. -/
def profB (h p : Nat) : Nat := fcolB h + 4 * p

/-- ANY_FAULT and ANY_SEVERE follow the sources that are not CLEAR. -/
def fcolShow (h : Nat) (s : State) : State :=
  let any := fun c => (s.fcolSt h).srcs.any fun e => decide (e.2.state ≠ 0) && decide (e.2.cls = c)
  s.wrs (fcolB h) [(R.FCOL_STATUS_ANY_FAULT, b2n (any 1)), (R.FCOL_STATUS_ANY_SEVERE, b2n (any 2))]

/-! The registers that show the selected source (R630). -/

def selSrc (s : State) (h : Nat) : Nat := s.rd (fcolB h) R.FCOL_SRC_SEL_SOURCE
def srcCfgWord (s : State) (h : Nat) : Nat := (s.srcSt h (selSrc s h)).cfg
def srcStateWord (s : State) (h : Nat) : Nat :=
  let q := s.srcSt h (selSrc s h)
  q.state + 16 * q.cls + 256 * q.recoveries
def srcCountWord (s : State) (h : Nat) : Nat := (s.srcSt h (selSrc s h)).events

/-- A write of FCOL_SRC_CFG: a CLEAR source takes the new class; a raised class raises the class of another at once, a
lowered one does not lower it (R620). -/
def srcCfgWrite (h w : Nat) (s : State) : State :=
  fcolShow h (s.modSrc h (selSrc s h) fun q =>
    let q := { q with cfg := w % 4 + 16 * bitsOf w 4 2 + 256 * bitsOf w 8 2 }
    { q with cls := if q.state = 0 then q.cfgClass else max q.cls q.cfgClass })

/-- A write of FCOL_SRC_STATE or FCOL_SRC_COUNT by software (R7). -/
def srcStateWrite (h w : Nat) (s : State) : State :=
  fcolShow h (s.modSrc h (selSrc s h) fun q =>
    { q with state := bitsOf w 0 2, cls := bitsOf w 4 2, recoveries := bitsOf w 8 8 })
def srcCountWrite (h w : Nat) (s : State) : State := s.modSrc h (selSrc s h) fun q => { q with events := w }

/-! Events (R617 to R624). -/

/-- An event as a collector logs it: class, and FLAGS. -/
structure Logged where
  ev : Event
  cls : Nat
  flags : Nat

/-- An event at collector `h`: its source counts it, becomes ACTIVE, and is promoted by the PROMOTE_N-th event of a
window. -/
def srcEvent (h : Nat) (e : Event) (s : State) : State × Logged :=
  let q := s.srcSt h e.source
  let q := if q.state = 0 then { q with state := 1, cls := q.cfgClass } else q
  let n := (q.window.getD 0) + 1
  let lim := s.rd (profB h q.profile) R.FCOL_PROF_p_PROMOTE_N
  let up := decide (lim ≠ 0) && decide (n = lim) && decide (q.cls < 2)
  let q := { q with events := min (2 ^ 32 - 1) (q.events + 1), cls := if up then q.cls + 1 else q.cls,
                    window := if up then none else some n, eventAt := some s.time.frc }
  let s := s.modSrc h e.source fun _ => q
  let s := if up then s.inc (fcolB h) R.FCOL_PROMOTE_COUNT_COUNT else s
  (s, ⟨e, q.cls, b2n up + 16 * b2n (decide (q.state = 2))⟩)

/-- Highest class first, then lowest source number (R623, R624). -/
def loggedBefore (a b : Logged) : Bool :=
  decide (b.cls < a.cls) || (decide (a.cls = b.cls) && decide (a.ev.source ≤ b.ev.source))

/-- An entry of the log (R624); a full log loses it. -/
def fcolLog (h : Nat) (e : Logged) (s : State) : State :=
  if 256 ≤ (s.fcolSt h).log.length then
    (s.inc (fcolB h) R.FCOL_LOG_LOST_COUNT).wr (fcolB h) R.FCOL_STATUS_LOG_OVF 1
  else
    s.modFcol h fun q => { q with log := q.log ++
      [leBytes 12 e.ev.sts ++ leBytes 1 e.ev.source ++ leBytes 1 e.cls ++ leBytes 1 e.flags ++ [0] ++ leBytes 8 e.ev.detail] }

/-- Events of class FAULT or SEVERE of one cycle, in order, at the lead collector: the first fills an empty record, the
others are concurrent with it (R623). -/
def firstFault (h : Nat) (l : List Logged) (s : State) : State × List Logged :=
  let b := fcolB h
  let serious := fun (e : Logged) => decide (1 ≤ e.cls)
  match l.find? serious with
  | none => (s, l)
  | some e =>
    if s.on b R.FCOL_FIRST_VALID then (s, l)
    else
      let many := decide (2 ≤ (l.filter serious).length)
      let s := s.wrs b [(R.FCOL_FIRST_SOURCE, e.ev.source), (R.FCOL_FIRST_CLASS, e.cls),
        (R.FCOL_FIRST_CONCURRENT, b2n many), (R.FCOL_FIRST_VALID, 1)]
      let s := s.modFcol h fun q => { q with firstSts := e.ev.sts, firstDetail := e.ev.detail }
      let l := l.zipIdx.map fun x =>
        if !serious x.1 then x.1
        else { x.1 with flags := x.1.flags + (if x.2 = (l.findIdx serious) then 4 else 2) }
      (s, l)

/-- An event counts in its class and asserts IRQ_N under FCOL_CTRL and the source's IRQ bit (R621). -/
def classAct (h : Nat) (e : Logged) (s : State) : State :=
  let b := fcolB h
  let s := s.inc b (if e.cls = 0 then R.FCOL_NOTICE_COUNT_COUNT else if e.cls = 1 then R.FCOL_FAULT_COUNT_COUNT
    else R.FCOL_SEVERE_COUNT_COUNT)
  let irq := bit (s.srcSt h e.ev.source).cfg 8
    && (if e.cls = 0 then s.on b R.FCOL_CTRL_IRQ_NOTICE else s.on b R.FCOL_CTRL_IRQ_FAULT)
  if irq then s.wr b R.FCOL_STATUS_IRQ 1 else s

/-- The events of one cycle at collector `h`: their order, and what the collector makes of them. -/
def collect (h : Nat) (l : List Event) (s : State) : State × List Logged :=
  let (s, r) := l.foldl (fun x e => let (s, g) := srcEvent h e x.1; (s, x.2 ++ [g])) (s, [])
  let r := r.mergeSort loggedBefore
  let (s, r) := if h = s.lead then firstFault h r s else (s, r)
  (fcolShow h (r.foldl (fun s e => fcolLog h e (classAct h e s)) s), r)

/-- The planner's entry for a completed repair, in the lead's log: REPAIRED, with the failed resource's source (R628). -/
def logRepaired (source detail : Nat) (s : State) : State :=
  let h := s.lead
  fcolLog h ⟨{ source := source, detail := detail, sts := s.sts }, (s.srcSt h source).cls, 8⟩ s

/-! Windows and quiet exit. -/

/-- FCOL_WINDOW_CLOSE: WINDOW_MS after its opening event the window of a source closes (R618). -/
def execFcolWindowClose (h : Hub) (n : BitVec 8) (s : State) : Host.Outcome State Fault Refusal :=
  .next (if s.hasHub h then s.modSrc h n.toNat fun q => { q with window := none } else s)

/-- FCOL_QUIET_EXIT: an ACTIVE source with no event for QUIET_MS: RECOVERIES counts, and it returns to CLEAR, or goes STUCK
at RECOVER_LIMIT (R619). An event that arrives in the same cycle wins (R14). -/
def execFcolQuietExit (h : Hub) (n : BitVec 8) (s : State) : Host.Outcome State Fault Refusal :=
  let q := s.srcSt h n.toNat
  let b := profB h q.profile
  if !s.hasHub h || q.state != 1 || s.rd b R.FCOL_QUIET_p_QUIET_MS == 0 || q.eventAt == some s.time.frc then .next s
  else
    let r := min 255 (q.recoveries + 1)
    let lim := s.rd b R.FCOL_PROF_p_RECOVER_LIMIT
    let stuck := decide (lim ≠ 0) && decide (lim ≤ r)
    let s := s.modSrc h n.toNat fun q =>
      { q with recoveries := r, state := if stuck then 2 else 0, cls := if stuck then q.cls else q.cfgClass }
    .next (fcolShow h (s.inc (fcolB h) R.FCOL_RECOVER_COUNT_COUNT))

/-! Commands (R623, R626, R630). -/

def clearFirst (h : Nat) (s : State) : State :=
  (s.wrs (fcolB h) [(R.FCOL_FIRST_SOURCE, 0), (R.FCOL_FIRST_CLASS, 0), (R.FCOL_FIRST_CONCURRENT, 0),
    (R.FCOL_FIRST_VALID, 0)]).modFcol h fun q => { q with firstSts := 0, firstDetail := 0 }

/-- FCOL_CLEAR_FIRST (R623). -/
def execFcolClearFirst (h : Hub) (s : State) : Host.Outcome State Fault Refusal :=
  .next (if s.hasHub h then clearFirst h s else s)

/-- ALIVE_RESUME at the lead collector, while no source is SEVERE (R626). -/
def aliveResume (h : Nat) (s : State) : State :=
  if h = s.lead ∧ !s.on (fcolB h) R.FCOL_STATUS_ANY_SEVERE then
    s.hubList.foldl (fun s g => s.wr (fcolB g) R.FCOL_STATUS_ALIVE_STOP 0) s
  else s

/-- FCOL_ALIVE_RESUME (R626). -/
def execFcolAliveResume (h : Hub) (s : State) : Host.Outcome State Fault Refusal := .next (aliveResume h s)

def clearSrc (h : Nat) (s : State) : State :=
  fcolShow h (s.modSrc h (selSrc s h) fun q => { q with state := 0, recoveries := 0, cls := q.cfgClass })

/-- FCOL_CLEAR_SRC: the selected source to CLEAR with RECOVERIES 0 (R630). -/
def execFcolClearSrc (h : Hub) (s : State) : Host.Outcome State Fault Refusal :=
  .next (if s.hasHub h then clearSrc h s else s)

/-- A write of FCOL_CMD. -/
def fcolCmd (h w : Nat) (s : State) : State :=
  let s := if bit w 0 then clearFirst h s else s
  let s := if bit w 2 then clearSrc h s else s
  if bit w 1 then aliveResume h s else s

/-! Heartbeat and ALIVE (R625, R626). -/

/-- PLANNER_HEARTBEAT: the planner confirms a heartbeat. -/
def execPlannerHeartbeat (s : State) : Host.Outcome State Fault Refusal := .next { s with beatsMissed := 0 }

/-- HEARTBEAT_MISS: a heartbeat is missing; two in a row raise source 36. -/
def execHeartbeatMiss (s : State) : Host.Outcome State Fault Refusal :=
  .next (if s.beatsMissed + 1 < 2 then { s with beatsMissed := s.beatsMissed + 1 }
    else ({ s with beatsMissed := 0 } : State).raise 36 0)

/-- ALIVE_TOGGLE: every PERIOD_MS from DONE on, ALIVE toggles, unless a SEVERE event has stopped it. -/
def execAliveToggle (s : State) : Host.Outcome State Fault Refusal :=
  .next (if s.aliveRuns && !s.on (fcolB s.lead) R.FCOL_STATUS_ALIVE_STOP then { s with alive := !s.alive } else s)

end Sys2Proof.Machine
end

