-- ==== Sys2Proof/Machine/Tdc.lean ====
section
/-! DEFINITION. The event-timing inputs and interval units (chapter 13). -/

namespace Sys2Proof.Machine

def dTdc : Nat → TdcIn := fun _ => {}
def State.tdcIn (s : State) (g : Nat) : TdcIn := tget dTdc s.tdc g
def State.modTdc (s : State) (g : Nat) (f : TdcIn → TdcIn) : State := { s with tdc := tset dTdc s.tdc g (f (s.tdcIn g)) }
def dIv : Nat → IvUnit := fun _ => {}
def State.ivUnit (s : State) (h m : Nat) : IvUnit := tget dIv s.iv (4 * h + m)
def State.modIv (s : State) (h m : Nat) (f : IvUnit → IvUnit) : State :=
  { s with iv := tset dIv s.iv (4 * h + m) (f (s.ivUnit h m)) }
def noCheck : Nat → Option (Nat × Bool) := fun _ => none

/-- The registers of input `g` in its hub's TDC block, and of interval unit `m` of hub `h` (R452). -/
def tdcInB (g : Nat) : Nat := tdcB (g / 8) + 0x40 * (g % 8)
def ivB (h m : Nat) : Nat := tdcB h + 0x40 * m

/-- Show the queue level of input `g`. -/
def tdcShow (g : Nat) (s : State) : State := s.wr (tdcInB g) R.TDC_n_FILL_FILL (s.tdcIn g).fifo.length
def ivShow (h m : Nat) (s : State) : State := s.wr (ivB h m) R.IV_m_FILL_FILL (s.ivUnit h m).fifo.length

/-- The time of stamp `raw` (1/256 FRC units) at input `g`'s reference plane, in 2^-16 ns (R436): one code is 200 units
of the fraction. -/
def stampTime (s : State) (g raw : Nat) : Int :=
  rhu (s.timeFineAt raw 256) (256 * fineU)
    - (s.rdI (tdcInB g) R.TDC_n_DELAY_FACT_DELAY + s.rdI (tdcInB g) R.TDC_n_DELAY_BOARD_DELAY) * 200

/-- A change of PRESENT: shown, and a NOTICE event (R449). -/
def setPresent (g : Nat) (on : Bool) (s : State) : State :=
  if s.on (tdcInB g) R.TDC_n_STATUS_PRESENT = on then s
  else (s.wrs (tdcInB g) [(R.TDC_n_STATUS_PRESENT, b2n on), (R.TDC_n_STATUS_PRES_CHANGE, 1)]).raise (134 + 16 * (g / 8)) g

/-- The presence detector sees a captured edge (R449). P and TOL are nanoseconds: 1 ns is 1.28 FRC units, 8192/25 of a
stamp unit. -/
def presence (g raw : Nat) (s : State) : State :=
  let b := tdcInB g
  let p := s.rd b R.TDC_n_PERIOD_PERIOD
  if p = 0 then s
  else
    let tol := s.rd b R.TDC_n_PRES_TOL
    let need := max 1 (s.rd b R.TDC_n_PRES_COUNT)
    let q := s.tdcIn g
    match q.presLast with
    | none => s.modTdc g fun q => { q with presLast := some raw, presCount := 0 }
    | some r0 =>
      let d25 := (raw - r0) * 25
      let early := decide (d25 + tol * 8192 < p * 8192)
      let late := decide ((p + tol) * 8192 < d25)
      let n := if early || late then 0 else min need (q.presCount + 1)
      let s := s.modTdc g fun q => { q with presLast := some raw, presCount := n }
      if early || late then setPresent g false s else if n = need then setPresent g true s else s

/-- Whether input `g`'s gate passes an edge at time `t` (R442, R443). -/
def gatePasses (s : State) (g : Nat) (t : Int) : Bool :=
  let q := s.tdcIn g
  match s.rd (tdcInB g) R.TDC_n_GATE_MODE with
  | 1 => true
  | 2 => decide (ofSts q.gateOpen ≤ t) && decide (t < ofSts q.gateClose)
  | 3 => decide (0 < q.armLeft)
  | _ => false

/-- TDC_n_STATUS.GATE_OPEN. -/
def showGate (g : Nat) (s : State) : State := s.wr (tdcInB g) R.TDC_n_STATUS_GATE_OPEN (b2n (gatePasses s g s.now))

/-- An entry enters the queue, or is discarded (R444, R445). -/
def tdcQueue (g : Nat) (t : Int) (seq : Nat) (rising coarse : Bool) (s : State) : State :=
  let q := s.tdcIn g
  let b := tdcInB g
  if 4096 ≤ q.fifo.length then
    ((s.inc b R.TDC_n_OVF_DROPPED).wr b R.TDC_n_STATUS_OVF 1).modTdc g fun q => { q with afterOvf := true }
  else
    let absent := decide (s.rd b R.TDC_n_PERIOD_PERIOD ≠ 0) && !s.on b R.TDC_n_STATUS_PRESENT
    let flags := b2n rising + 2 * b2n coarse + 4 * b2n q.afterOvf + 8 * b2n q.settle + 16 * b2n absent
    let e := stsOf t + seq * 2 ^ 96 + flags * 2 ^ 112 + g * 2 ^ 120
    tdcShow g (s.modTdc g fun q => { q with fifo := q.fifo ++ [e], afterOvf := false })

/-- A pair's entry enters the unit's queue (R448). -/
def ivQueue (h m : Nat) (a b : HeldEdge) (s : State) : State :=
  let d := b.time - a.time
  let s := if d < 0 then s.inc (ivB h m) R.IV_m_ORDER_ORDER else s
  let q := s.ivUnit h m
  if 1024 ≤ q.fifo.length then (s.inc (ivB h m) R.IV_m_PAIRS_DROPPED).modIv h m fun q => { q with afterOvf := true }
  else
    let flags := b2n (decide (d < 0)) + 2 * b2n (a.coarse || b.coarse) + 4 * b2n q.afterOvf
    let e := enc 64 d + a.seq * 2 ^ 64 + b.seq * 2 ^ 80 + flags * 2 ^ 96 + m * 2 ^ 104
    ivShow h m (s.modIv h m fun q => { q with fifo := q.fifo ++ [e], afterOvf := false })

/-- An edge in one role reaches interval unit `m` (R447). -/
def ivEdge (h m : Nat) (e : HeldEdge) (s : State) : State :=
  let w := max 1 (s.rd (ivB h m) R.IV_m_WINDOW_W)
  match (s.ivUnit h m).held with
  | none => s.modIv h m fun q => { q with held := some e }
  | some o =>
    if o.start ≠ e.start ∧ (e.time - o.time).natAbs ≤ w * 65536 then
      ivQueue h m (if e.start then e else o) (if e.start then o else e) (s.modIv h m fun q => { q with held := none })
    else (s.inc (ivB h m) R.IV_m_UNPAIRED_UNPAIRED).modIv h m fun q => { q with held := some e }

/-- A passed edge reaches the interval units of its hub, as a START first (R447). -/
def ivEdges (g : Nat) (t : Int) (seq : Nat) (rising coarse : Bool) (s : State) : State :=
  let h := g / 8
  (List.range 4).foldl (fun s m =>
    let b := ivB h m
    if !s.on b R.IV_m_CFG_EN then s
    else
      let dir := fun f => if s.rd b f = 2 then !rising else rising
      let e := fun st => { start := st, time := t, seq := seq, coarse := coarse, input := g % 8 : HeldEdge }
      let s := if s.rd b R.IV_m_CFG_START = g % 8 ∧ dir R.IV_m_CFG_START_EDGE = true then ivEdge h m (e true) s else s
      if s.rd b R.IV_m_CFG_STOP = g % 8 ∧ dir R.IV_m_CFG_STOP_EDGE = true then ivEdge h m (e false) s else s) s

/-- A captured edge that the gate passes goes to its consumers (R442). -/
def tdcPass (g raw : Nat) (t : Int) (seq : Nat) (rising coarse : Bool) (s : State) : State :=
  let s := s.modTdc g fun q => { q with armLeft := q.armLeft - 1 }
  let s := ivEdges g t seq rising coarse (tdcQueue g t seq rising coarse s)
  let s := tdcHits g t s
  if rising then ppsEdge g (raw / 256) t s else s

/-- Whether input `g` captures edges: enabled, READY, its hub present and awake, and not under test. -/
def tdcLive (s : State) (g : Nat) : Bool :=
  s.hasHub (g / 8) && s.on (tdcInB g) R.TDC_n_CFG_EN && s.on (tdcInB g) R.TDC_n_STATUS_READY && !inAon s
    && (match tget noCheck s.tdcCheck (g / 8) with | some (n, _) => n != g % 8 | none => true)

/-- Whether an edge has the polarity that TDC_n_CFG.EDGE selects (R440). -/
def edgeSelected (s : State) (g : Nat) (rising : Bool) : Bool :=
  match s.rd (tdcInB g) R.TDC_n_CFG_EDGE with
  | 2 => !rising
  | 3 => true
  | _ => rising

/-- TDC_EDGE: an edge at input `g` with FRC value `r` and interpolator code `k` (R436 to R449). -/
def execTdcEdge (g : Fin 16) (rising : Bool) (r : Nat) (k : BitVec 8) (s : State) : Host.Outcome State Fault Refusal :=
  if !tdcLive s g || !edgeSelected s g rising then .next s
  else
    let coarse := !s.on (timeB 0) R.TIME_STATUS_FINE
    let raw := r * 256 + k.toNat
    let blind := match (s.tdcIn g).last with
      | some l => if coarse then decide (raw < l + 4096) else decide (5 * raw < 5 * l + 8192)
      | none => false
    let b := tdcInB g
    if blind then .next ((s.inc b R.TDC_n_MISSED_MISSED).wr b R.TDC_n_STATUS_MISSED 1)
    else
      let stamp := if coarse then ceilTo 2048 raw else raw
      let seq := ((s.tdcIn g).seq + 1) % 65536
      let s := s.modTdc g fun q => { q with seq := seq, last := some raw }
      let s := s.wrs b [(R.TDC_n_CAPTURED_EDGES, (s.rd b R.TDC_n_CAPTURED_EDGES + 1) % 2 ^ 32),
        (R.TDC_n_STATUS_COARSE, b2n coarse)]
      let s := presence g stamp s
      let t := stampTime s g stamp
      .next (showGate g (if gatePasses s g t then tdcPass g stamp t seq rising coarse s
        else s.inc b R.TDC_n_GATED_GATED))

/-- A write of TDC_CMD.ARM (R443). -/
def tdcArm (h mask : Nat) (s : State) : State :=
  (List.range 8).foldl (fun s n =>
    let g := 8 * h + n
    if bit mask n && decide (s.rd (tdcInB g) R.TDC_n_GATE_MODE = 3) then
      showGate g (s.modTdc g fun q => { q with armLeft := max 1 (s.rd (tdcInB g) R.TDC_n_GATE_COUNT) })
    else s) s

/-- TDC_ARM (R443). -/
def execTdcArm (h : Hub) (mask : BitVec 8) (s : State) : Host.Outcome State Fault Refusal :=
  .next (if s.hasHub h then tdcArm h mask.toNat s else s)

/-- A write of TDC_CMD.FLUSH (R446). -/
def tdcFlush (h mask : Nat) (s : State) : State :=
  (List.range 8).foldl (fun s n =>
    if bit mask n then tdcShow (8 * h + n) (s.modTdc (8 * h + n) fun q => { q with fifo := [] }) else s) s

/-- TDC_FLUSH (R446). -/
def execTdcFlush (h : Hub) (mask : BitVec 8) (s : State) : Host.Outcome State Fault Refusal :=
  .next (if s.hasHub h then tdcFlush h mask.toNat s else s)

/-- A write of TDC_CMD.CHECK: the test runs only with the gate CLOSED and FINE set (R438). -/
def tdcStartCheck (h n : Nat) (update : Bool) (s : State) : State :=
  if s.on (tdcB h) R.TDC_CAL_BUSY then s
  else if s.rd (tdcInB (8 * h + n)) R.TDC_n_GATE_MODE ≠ 0 || !s.on (timeB 0) R.TIME_STATUS_FINE then
    s.wr (tdcB h) R.TDC_CAL_ABORT 1
  else { (s.wr (tdcB h) R.TDC_CAL_BUSY 1) with tdcCheck := tset noCheck s.tdcCheck h (some (n, update)) }

/-- TDC_CHECK (R438). -/
def execTdcCheck (h : Hub) (n : Fin 8) (update : Bool) (s : State) : Host.Outcome State Fault Refusal :=
  .next (if s.hasHub h then tdcStartCheck h n update s else s)

/-- TDC_CHECK_DONE: the test has taken its 2^22 hits; it reports the worst DNL and INL, and with UPDATE replaces the code
widths if every code received at least 8192 hits (R438). -/
def execTdcCheckDone (h : Hub) (dnl inl : BitVec 8) (minHits : Nat) (s : State) : Host.Outcome State Fault Refusal :=
  match tget noCheck s.tdcCheck h with
  | none => .next s
  | some (_, update) =>
    let s := { s with tdcCheck := tset noCheck s.tdcCheck h none }
    let s := s.wrs (tdcB h) [(R.TDC_CAL_DNL, dnl.toNat), (R.TDC_CAL_INL, inl.toNat), (R.TDC_CAL_BUSY, 0), (R.TDC_CAL_DONE, 1)]
    .next (if update && decide (8192 ≤ minHits) then s.wr (tdcB h) R.TDC_CAL_UPDATED 1 else s)

/-- The oldest entry of an input's queue leaves it (R446). -/
def tdcPop (g : Nat) (s : State) : Nat × Bool × State :=
  match (s.tdcIn g).fifo with
  | [] => (0, false, s)
  | e :: l => (e, true, tdcShow g (s.modTdc g fun q => { q with fifo := l }))

def ivPop (h m : Nat) (s : State) : Nat × Bool × State :=
  match (s.ivUnit h m).fifo with
  | [] => (0, false, s)
  | e :: l => (e, true, ivShow h m (s.modIv h m fun q => { q with fifo := l }))

/-- TDC_FIFO_POP: the word at +0xC is read and the entry popped; an empty queue gives zero (R446). -/
def execTdcFifoPop (g : Fin 16) (s : State) : Host.Outcome State Fault Refusal :=
  let r := tdcPop g s
  .next { r.2.2 with readData := BitVec.ofNat 32 (r.1 / 2 ^ 96) }

/-- IV_FIFO_POP: as TDC_FIFO_POP, for an interval unit (R448). -/
def execIvFifoPop (h : Hub) (m : Fin 4) (s : State) : Host.Outcome State Fault Refusal :=
  let r := ivPop h m s
  .next { r.2.2 with readData := BitVec.ofNat 32 (r.1 / 2 ^ 96) }

/-- PRESENCE_TIMEOUT: no edge within P + TOL of the last (R449); an edge in the present TCLK cycle is in time (R14). -/
def execPresenceTimeout (g : Fin 16) (s : State) : Host.Outcome State Fault Refusal :=
  .next (if s.hasHub (g / 8) && decide (s.rd (tdcInB g) R.TDC_n_PERIOD_PERIOD ≠ 0)
      && (s.tdcIn g).presLast.map (· / 2048) != some (s.time.frc / 8) then
    setPresent g false (s.modTdc g fun q => { q with presCount := 0 }) else s)

/-- TDC_READY: 2.0 µs after EN becomes 1 (R450). -/
def execTdcReady (g : Fin 16) (s : State) : Host.Outcome State Fault Refusal :=
  .next (if s.hasHub (g / 8) && s.on (tdcInB g) R.TDC_n_CFG_EN && !s.on (tdcInB g) R.TDC_n_STATUS_READY then
    (s.wr (tdcInB g) R.TDC_n_STATUS_READY 1).modTdc g fun q => { q with
      seq := 0, last := none, presLast := none, presCount := 0 }
  else s)

/-- TDC_SETTLE_END: 1.0 µs after a change of STD, TERM or THRESH (R435). -/
def execTdcSettleEnd (g : Fin 16) (s : State) : Host.Outcome State Fault Refusal :=
  .next (s.modTdc g fun q => { q with settle := false })

/-- A write of TDC_n_CFG, whose word was `old`: SETTLE after a change of STD, TERM or THRESH, and a cleared EN empties
the queue and discards held edges (R435, R450). -/
def tdcConfig (g old : Nat) (s : State) : State :=
  let b := tdcInB g
  let new := (s.reg (b + R.TDC_n_CFG)).toNat
  let s := if bitsOf old 1 3 ≠ bitsOf new 1 3 ∨ bitsOf old 8 8 ≠ bitsOf new 8 8 then
      s.modTdc g fun q => { q with settle := true } else s
  if bit old 0 && !bit new 0 then
    let s := tdcShow g ((s.wr b R.TDC_n_STATUS_READY 0).modTdc g fun q => { q with fifo := [], afterOvf := false })
    (List.range 4).foldl (fun s m => s.modIv (g / 8) m fun q => { q with
      held := q.held.filter fun e => e.input != g % 8 }) s
  else s

end Sys2Proof.Machine
end

