-- ==== Sys2Proof/Machine/Mbox.lean ====
section
/-! DEFINITION. The mailboxes: wide values, requests and their banks (R645 to R649, R652). -/

namespace Sys2Proof.Machine

def dMbox : Nat → MboxSt := fun _ => {}
def State.mboxSt (s : State) (h p : Nat) : MboxSt := tget dMbox s.mbox (8 * h + p)
def State.modMbox (s : State) (h p : Nat) (f : MboxSt → MboxSt) : State :=
  { s with mbox := tset dMbox s.mbox (8 * h + p) (f (s.mboxSt h p)) }

def dPlan : Nat → PlanSt := fun _ => {}
def State.planSt (s : State) (n : Nat) : PlanSt := tget dPlan s.plans n
def State.modPlan (s : State) (n : Nat) (f : PlanSt → PlanSt) : State :=
  { s with plans := tset dPlan s.plans n (f (s.planSt n)) }

/-- The registers PLAN_n_* of slot `n`, which hub 0's window shows first and H1's mirrors (R356, R375). -/
def planNB (n : Nat) : Nat := planB 0 + 0x10 * n
/-- PLAN_n_STATE.STATE (R346): 0 EMPTY, 1 LOADED, 2 SCHEDULED, 3 WAKING, 4 RUNNING, 5 WAITING, 6 REFUSED, 7 SUSPENDED. -/
def planState (s : State) (n : Nat) : Nat := s.rd (planNB n) R.PLAN_n_STATE_STATE

/-- The bank of a path (R645): its order in R631, less 1. -/
def bankOf : Path → Nat
  | .planner => 0
  | .dma _ => 1
  | .mgmt h => 2 + h
  | .spi h => 4 + h

/-- A value of R649: its instances, its words, and the directions it allows. -/
structure MboxInfo where
  count : Nat
  words : Nat
  read : Bool
  write : Bool
  deriving DecidableEq, Repr

def mboxInfo (code : Nat) : Option MboxInfo :=
  match code with
  | 0x01 => some ⟨1, 3, true, false⟩ | 0x02 => some ⟨1, 2, true, false⟩ | 0x03 => some ⟨2, 2, true, false⟩
  | 0x04 => some ⟨1, 3, false, true⟩ | 0x05 => some ⟨1, 8, true, false⟩ | 0x06 => some ⟨1, 2, true, true⟩
  | 0x07 => some ⟨1, 2, true, false⟩
  | 0x10 => some ⟨32, 2, true, true⟩ | 0x11 => some ⟨32, 2, true, true⟩ | 0x12 => some ⟨32, 2, true, true⟩
  | 0x13 => some ⟨32, 2, true, false⟩ | 0x14 => some ⟨32, 2, true, false⟩ | 0x18 => some ⟨13, 2, true, false⟩
  | 0x20 => some ⟨2, 2, true, false⟩ | 0x21 => some ⟨2, 2, true, false⟩
  | 0x30 => some ⟨8, 4, true, false⟩ | 0x31 => some ⟨4, 4, true, false⟩
  | 0x32 => some ⟨8, 3, true, true⟩ | 0x33 => some ⟨8, 3, true, true⟩
  | 0x40 => some ⟨1, 8, false, true⟩ | 0x41 => some ⟨1, 3, true, false⟩ | 0x42 => some ⟨1, 3, true, false⟩
  | 0x50 => some ⟨64, 4, true, false⟩ | 0x60 => some ⟨2, 2, true, false⟩ | 0x61 => some ⟨2, 3, true, false⟩
  | 0x70 => some ⟨1, 4, true, true⟩ | 0x71 => some ⟨1, 4, true, true⟩ | 0x72 => some ⟨8, 5, true, true⟩
  | 0x73 => some ⟨64, 4, true, true⟩ | 0x74 => some ⟨1, 8, true, true⟩
  | 0x80 => some ⟨1, 5, true, false⟩ | 0x81 => some ⟨1, 6, true, false⟩ | 0x90 => some ⟨1, 12, false, true⟩
  | _ => none

/-- The `k` words of a value, bits [31:0] first (R646). -/
def wordsOf : (k : Nat) → Nat → List Nat
  | 0, _ => []
  | k + 1, n => n % 2 ^ 32 :: wordsOf k (n / 2 ^ 32)

/-- The value whose words are `l`. -/
def ofWords : List Nat → Nat
  | [] => 0
  | w :: l => w % 2 ^ 32 + 2 ^ 32 * ofWords l

/-- Whether the value lies on a die of the configuration: the Tarn's and R_S of an input (R648, R6). -/
def mboxAbsent (s : State) (code i : Nat) : Bool :=
  (code == 3 || code == 0x20 || code == 0x21) && decide (s.inputs ≤ i)

/-- Whether the value is taken only when the request reaches the die (R646). -/
def mboxAtDie (code : Nat) : Bool := code == 0x20 || code == 0x21

/-- R_S of an input, or R_L in the S8G-2D (R428, R429); all ones while the count has not started. -/
def rsOf (s : State) (i : Nat) : Nat :=
  ((match s.part with
    | .s2d => s.time.rl
    | _ => if i = 0 then s.time.rs0 else s.time.rs1) : Option Nat).getD (2 ^ 64 - 1)

/-- The newest and the oldest readable sample of an input's Tarn (R171, R202). -/
def tarnHead (s : State) (i : Nat) : Nat := (s.recSt (2 * i)).tarn.head - 1
def tarnOldest (s : State) (i : Nat) : Nat := (s.recSt (2 * i)).tarn.oldest

/-- What instance `i` of value `code` of hub `h` reads as, and the state after a pop; `none` for an empty queue. -/
def mboxTake (h code i : Nat) (s : State) : Option (Nat × State) :=
  match code with
  | 0x01 => some (s.sts, s)
  | 0x02 => some (s.time.frc, s)
  | 0x03 => some (rsOf s i, s)
  | 0x05 => some (s.time.stepLog.1 + 2 ^ 64 * stsOf s.time.stepLog.2.1 + 2 ^ 160 * stsOf s.time.stepLog.2.2, s)
  | 0x06 => some (s.time.clockId.getD 0, s)
  | 0x07 => some (s.time.gmId, s)
  | 0x10 => some ((s.planSt i).start, s)
  | 0x11 => some ((s.planSt i).duration, s)
  | 0x12 => some ((s.planSt i).period, s)
  | 0x13 => some ((s.planSt i).energy / 32768, s)
  | 0x14 => some ((s.planSt i).work, s)
  | 0x18 => some (tget noNat s.energy i / 32768, s)
  | 0x20 => some (tarnHead s i, s)
  | 0x21 => some (tarnOldest s i, s)
  | 0x30 => if (s.tdcIn (8 * h + i)).fifo.isEmpty then none
    else some ((tdcPop (8 * h + i) s).1, (tdcPop (8 * h + i) s).2.2)
  | 0x31 => if (s.ivUnit h i).fifo.isEmpty then none else some ((ivPop h i s).1, (ivPop h i s).2.2)
  | 0x32 => some ((s.tdcIn (8 * h + i)).gateOpen, s)
  | 0x33 => some ((s.tdcIn (8 * h + i)).gateClose, s)
  | 0x41 => some ((s.nfsSt h).catOpen, s)
  | 0x42 => some ((s.nfsSt h).catClose, s)
  | 0x50 =>
    let a := tget (fun _ => ({} : DmaAr)) (s.dmaSt h (i / 4)).ars (i % 4)
    some (a.base % 2 ^ 40 + 2 ^ 64 * (a.size % 2 ^ 32) + 2 ^ 96 * (a.off % 2 ^ 32), s)
  | 0x60 => some ((s.ddrSt h i).freezeAddr, s)
  | 0x61 => some ((s.ddrSt h i).freezeSts, s)
  | 0x70 => some ((s.ethSt h).ip6, s)
  | 0x71 => some ((s.ethSt h).group6, s)
  | 0x72 =>
    let e := tget (fun _ => (0, 0)) (s.ethSt h).allow i
    some (e.1 + 2 ^ 128 * e.2, s)
  | 0x73 => some ((s.strSt h i).dst6, s)
  | 0x74 => some (0, s)
  | 0x80 => some ((s.fcolSt h).firstSts + 2 ^ 96 * (s.fcolSt h).firstDetail, s)
  | 0x81 =>
    match (s.fcolSt h).log with
    | [] => none
    | e :: l => some (ofLe e, s.modFcol h fun q => { q with log := l })
  | _ => some (0, s)

/-- A write of a value that is locked is ignored with an access violation at MBOX_REQ (R647, R8). -/
def mboxLocked (h : Nat) (s : State) : State := { (s.violation h (mboxB h)) with access := 2 }

/-- The value `v` is written to instance `i` of value `code` of hub `h` (R647, R649). PLAN values belong to the lead
hub's plan table (R356). -/
def mboxPut (h code i v : Nat) (s : State) : State :=
  match code with
  | 0x04 => s.modTime fun q => { q with hostTime := v % 2 ^ 96 }
  | 0x06 => if s.time.clockId.isSome then mboxLocked h s else s.modTime fun q => { q with clockId := some (v % 2 ^ 64) }
  | 0x10 => if h = s.lead then s.modPlan i fun q => { q with
      start := v % 2 ^ 64, due := if planState s i = 4 then q.due else v % 2 ^ 64 } else s
  | 0x11 => if h = s.lead then s.modPlan i fun q => { q with duration := v % 2 ^ 64 } else s
  | 0x12 => if h = s.lead then s.modPlan i fun q => { q with period := v % 2 ^ 64 } else s
  | 0x32 => showGate (8 * h + i) (s.modTdc (8 * h + i) fun q => { q with gateOpen := v % 2 ^ 96 })
  | 0x33 => showGate (8 * h + i) (s.modTdc (8 * h + i) fun q => { q with gateClose := v % 2 ^ 96 })
  | 0x40 => s.modNfs h fun q => { q with secret := leBytes 32 v }
  | 0x70 => s.modEth h fun q => { q with ip6 := v % 2 ^ 128 }
  | 0x71 => s.modEth h fun q => { q with group6 := v % 2 ^ 128 }
  | 0x72 => s.modEth h fun q => { q with
      allow := tset (fun _ => (0, 0)) q.allow i (v % 2 ^ 128, v / 2 ^ 128 % 2 ^ 9) }
  | 0x73 => strResolveShow h i (s.modStr h i fun q => { q with dst6 := v % 2 ^ 128 })
  | 0x74 => if (s.ethSt h).keySet then mboxLocked h s
    else s.modEth h fun q => { q with key := leBytes 32 v, keySet := true }
  | 0x90 => if s.on (bootB 0) R.BOOT_LOCK_FUSE then mboxLocked h s else { s with hashIn := leBytes 48 v }
  | _ => s

/-- A request whose code, instance or direction is not one of R649's (R648). -/
def mboxBad (code i : Nat) (write : Bool) : Bool :=
  match mboxInfo code with
  | some f => decide (f.count ≤ i) || !(if write then f.write else f.read)
  | none => true

/-- How many words the value has. -/
def mboxWords (code : Nat) : Nat := ((mboxInfo code).map (·.words)).getD 0

/-- The request that a read of the value issues: a hub value is taken in the cycle the request lands (R646). -/
def mboxReadReq (h code i : Nat) (s : State) : MboxReq × State :=
  if mboxAbsent s code i then (⟨code, i, false, wordsOf (mboxWords code) 0, false, false⟩, s)
  else if mboxAtDie code then (⟨code, i, false, [], false, true⟩, s)
  else match mboxTake h code i s with
    | some (v, s) => (⟨code, i, false, wordsOf (mboxWords code) v, false, false⟩, s)
    | none => (⟨code, i, false, wordsOf (mboxWords code) 0, true, false⟩, s)

/-- A write of MBOX_REQ issues a request (R646 to R648, R652). -/
def mboxLand (h p w : Nat) (s : State) : State :=
  let w := w % 2 ^ 25
  let s := s.modMbox h p fun q => { q with req := w }
  let code := w % 2 ^ 16
  let i := bitsOf w 16 8
  let write := bit w 24
  if (s.mboxSt h p).busyBit then s.modMbox h p fun q => { q with overrun := true }
  else
    let s := s.modMbox h p fun q => { q with valid := false, empty := false, done := false, words := 0 }
    if mboxBad code i write then
      s.modMbox h p fun q => { q with err := true, data := if write then q.data else [] }
    else if write then
      s.modMbox h p fun q => { q with
        busy := some ⟨code, i, true, (List.range (mboxWords code)).map (tget noNat q.data), false, false⟩, busyBit := true }
    else
      let r := mboxReadReq h code i s
      r.2.modMbox h p fun q => { q with busy := some r.1, busyBit := true }

/-- The request in progress completes: VALID with the value's words, EMPTY, or DONE (R646 to R648). -/
def mboxComplete (h p : Nat) (s : State) : State :=
  match (s.mboxSt h p).busy with
  | none => s
  | some r =>
    let s := s.modMbox h p fun q => { q with busy := none, busyBit := false }
    if r.write then
      (if mboxAbsent s r.code r.index then s else mboxPut h r.code r.index (ofWords r.data) s).modMbox h p
        fun q => { q with done := true }
    else
      let l := if r.atDie then wordsOf (mboxWords r.code) (((mboxTake h r.code r.index s).map (·.1)).getD 0) else r.data
      s.modMbox h p fun q => { q with
        valid := !r.empty, empty := r.empty, words := l.length
        data := (l.zipIdx).foldl (fun m x => tset noNat m x.2 x.1) q.data }

/-- MBOX_STATUS of a bank. -/
def MboxSt.status (q : MboxSt) : Nat :=
  b2n q.busyBit + 2 * b2n q.valid + 4 * b2n q.empty + 8 * b2n q.done + 256 * b2n q.err + 512 * b2n q.overrun
    + 4096 * (q.words % 16)

/-- A register of the bank of path `p` at offset `o` (R651). -/
def mboxReg (s : State) (h p o : Nat) : Nat :=
  let q := s.mboxSt h p
  if o = 0 then q.req
  else if o = 4 then q.status
  else if o = 8 then p
  else if 0x40 ≤ o ∧ o < 0x70 then tget noNat q.data ((o - 0x40) / 4)
  else 0

/-- What a normal read of offset `o` changes: ERR and OVERRUN clear, and the last word of a value clears VALID (R646,
R651). -/
def mboxReadEffect (h p o : Nat) (s : State) : State :=
  s.modMbox h p fun q =>
    if o = 4 then { q with err := false, overrun := false }
    else if q.valid ∧ q.words ≠ 0 ∧ o = 0x40 + 4 * (q.words - 1) then { q with valid := false }
    else q

/-- MBOX_STATUS takes the word `v`: every field, its RC bits included. -/
def mboxStatusSet (h p o v : Nat) (s : State) : State :=
  if o = 4 then s.modMbox h p fun q => { q with
    busyBit := bit v 0, valid := bit v 1, empty := bit v 2, done := bit v 3, err := bit v 8, overrun := bit v 9
    words := bitsOf v 12 4 }
  else s

/-- A write of value `v` to offset `o` of the bank: the request, a data word, or the status bits that software may set
(R7). -/
def mboxWrite (h p o v : Nat) (s : State) : State :=
  if o = 0 then mboxLand h p v s
  else if o = 4 then s.modMbox h p fun q => { q with
    busyBit := bit v 0, valid := bit v 1, empty := bit v 2, done := bit v 3, words := bitsOf v 12 4 }
  else if 0x40 ≤ o ∧ o < 0x70 then
    s.modMbox h p fun q => { q with data := tset noNat q.data ((o - 0x40) / 4) (v % 2 ^ 32) }
  else s

end Sys2Proof.Machine
end

