-- ==== Sys2Proof/Machine/Bus.lean ====
section
/-! DEFINITION. A word of the host address map read and written: field types, alias windows, shadow views, locks, and
what a write does in each block (R6 to R13, R631 to R638). The commands PLAN_CMD, PWR_CMD and BOOT_CMD, whose effects
need the planner and Chrysalis, are acted on in `Host`. -/

namespace Sys2Proof.Machine

/-! Where an access leads (R632, R633). -/

/-- What an access reaches: nothing (a reserved range, or RESET_N low), a die absent from the configuration with the hub that records
the access, a die that is lost or without power, or an offset in a block. -/
inductive Reach where
  | none
  | absent (h : Nat)
  | silent
  | at_ (b : Block) (i o : Nat)
  deriving DecidableEq, Repr

/-- The alias selector and the window address of a host address; its lowest two bits are ignored (R632, R635). -/
def aliasOf (addr : Nat) : Nat := bitsOf addr 28 2
def windowOf (addr : Nat) : Nat := floorTo 4 (addr % 2 ^ 28)

/-- The die whose window holds window address `w`, as its bit in CHIP_CONFIG.PRESENT. -/
def dieOfWindow (w : Nat) : Option Nat :=
  if w < 0x1000000 then some (w / 0x800000)
  else if w < 0x1200000 then some (6 + (w - 0x1000000) / 0x100000)
  else if 0x4000000 ≤ w ∧ w < 0xC000000 then some (2 + (w - 0x4000000) / 0x2000000)
  else none

/-- The hub at which an access to the window of absent die `d` is recorded. -/
def hubOfDie (s : State) (d : Nat) : Nat := if 2 ≤ d ∧ d < 6 then hubOf s (d - 2) else 0

/-- Whether a transform die answers: it has power and is not lost (R25, R671). -/
def tAnswers (s : State) (t : Nat) : Bool := bit s.powered (2 + t) && !bit (s.farLost ||| s.hotLost) (2 + t)

/-- Whether a die answers over the links of its hub's side: hubs do; a transform die and an acquisition die with power that
are not lost do, the latter through a transform die of its pair (R18). -/
def dieAnswers (s : State) (d : Nat) : Bool :=
  decide (d < 2) ||
    (if d < 6 then tAnswers s (d - 2)
     else bit s.powered d && !bit (s.farLost ||| s.hotLost) d && (tAnswers s (2 * (d - 6)) || tAnswers s (2 * (d - 6) + 1)))

/-- The hub on whose side of the link H0-H1 die `d` lies (R18). -/
def sideOf (d : Nat) : Nat := if d = 1 ∨ d = 4 ∨ d = 5 ∨ d = 7 then 1 else 0

/-- Whether hub `h` has a path to the window at `w`: the sides meet only in the link H0-H1 (R18). -/
def linked (s : State) (h w : Nat) : Bool :=
  match dieOfWindow w with
  | some d => decide (sideOf d = h) || !(s.linkSt 8).failed
  | none => true

def reach (s : State) (addr : Nat) : Reach :=
  if 2 ^ 30 ≤ addr ∨ s.resetLow = true then .none
  else match dieOfWindow (windowOf addr) with
    | none => .none
    | some d =>
      if !bit s.part.present d then .absent (hubOfDie s d)
      else if !dieAnswers s d then .silent
      else match place (windowOf addr) with
        | some (.jrx, i, o) =>
          if i ≠ 0 then .none else if s.part = .s2d then .at_ .jrx i o else .absent (hubOfDie s d)
        | some (b, i, o) => .at_ b i o
        | none => .none

/-- Whether the DEBUG lock is in force (R403). -/
def debugLocked (s : State) : Bool := s.on (bootB 0) R.BOOT_LOCK_DEBUG || s.on (bootB 0) R.BOOT_FUSE_DEBUG_LOCK

/-- Whether the boot region is read-only: this start has reached APPLY (R394). -/
def bootSealed (s : State) : Bool :=
  decide (6 ≤ s.rd (bootB 0) R.BOOT_STATUS_STATE) && decide (s.rd (bootB 0) R.BOOT_STATUS_STATE ≤ 8)

/-! What a register is, where the hubs share it or part of it does not exist. -/

/-- A TIME register that each hub has of its own: counters and TIME_PORT_1 (R431). -/
def timeOwn (o : Nat) : Bool :=
  o == R.TIME_ID || o == R.TIME_STEP_COUNT || o == R.TIME_SWITCH_COUNT || o == 0x210 || o == 0x214 ||
    (decide (0x114 ≤ o) && decide (o < 0x180) && decide (0x14 ≤ o % 0x40) && decide (o % 0x40 < 0x24))

/-- The window address at which the register at offset `o` of block `b` of die `i` is held: PLAN and PWR, and TIME
but for each hub's own registers, are held once (R356, R410, R431). -/
def homeOf (b : Block) (i o w : Nat) : Nat :=
  match b with
  | .plan => if o = R.PLAN_ID then w else planB 0 + o
  | .pwr => pwrB 0 + o
  | .time => if timeOwn o then timeB i + o else timeB 0 + o
  | _ => w

/-- TRG registers that exist on lead dies only (R167). -/
def trgLeadOnly (o : Nat) : Bool :=
  decide (0x400 ≤ o) || o == R.TRG_FAB || o == R.TRG_NET_ID || (decide (0x2C ≤ o) && decide (o < 0x40))

/-- DENS registers that a partner die has of its own: DENS_ID, DENS_STATUS and the counters (R227). -/
def densOwn (o : Nat) : Bool := o == 0 || o == R.DENS_STATUS || (decide (0x58 ≤ o) && decide (o < 0x6C))

/-- Registers that read as zero and ignore writes on this die: the parts of TRG and REC on a partner die (R167, R202),
CLK_REF and CLK_LOCKA on H1 (R597). -/
def regMissing (b : Block) (i o : Nat) : Bool :=
  match b with
  | .trg => !isLead i && trgLeadOnly o
  | .recd => !isLead i
  | .clk => i == 1 && (o == R.CLK_REF || o == R.CLK_LOCKA)
  | _ => false

/-- WB registers that a partner die shows as the lead die's live values (R88). -/
def wbCopied (i o : Nat) : Bool :=
  !isLead i && (o == R.WB_CTRL || o == R.WB_TUNE_LO || o == R.WB_TUNE_HI || o == R.WB_PIPE_MAP)

/-- Registers that ignore writes on this die without an event: PLAN and PWR through the hub that does not lead (R356),
TIME through it but for its own registers (R431), copies of the lead die's WB registers (R88), TRG_COMMIT and the DENS
registers that a partner die does not have of its own (R160, R227). -/
def readOnlyHere (s : State) (b : Block) (i o : Nat) : Bool :=
  match b with
  | .plan | .pwr => i != s.lead
  | .time => i != s.lead && !timeOwn o
  | .wb => wbCopied i o
  | .trg => !isLead i && o == R.TRG_COMMIT
  | .dens => !isLead i && !densOwn o
  | _ => false

/-- The registers of a shadow set (R13): those marked (S), and the layers' and clock outputs'. -/
def isShadow (b : Block) (o : Nat) : Bool :=
  match b with
  | .wb => decide (0x4 ≤ o) && decide (o < 0x24)
  | .trg => trgRanges.any fun r => decide (r.1 ≤ o) && decide (o < r.2)
  | .dens => o == 0x4 || (decide (0x14 ≤ o) && decide (o < 0x30)) || (decide (0x3C ≤ o) && decide (o < 0x54))
  | .chz => decide (0x1000 ≤ o) && decide (o < 0x3000) && decide (o % 0x40 < 0x1C)
  | .clk => clkShadow.contains o
  | .disp => (layerOf o).isSome
  | _ => false

/-- Whether the block shows live values in its shadowed registers (VIEW; a partner's DENS always does). -/
def viewsLive (s : State) (b : Block) (i : Nat) : Bool :=
  match b with
  | .wb => s.on (wbB i) R.WB_SHADOW_VIEW
  | .trg => s.on (trgB i) R.TRG_SHADOW_VIEW
  | .dens => !isLead i || s.on (densB i) R.DENS_SHADOW_VIEW
  | .chz => s.on (chzB i) R.CHZ_CTRL_VIEW
  | .clk => s.on (clkB i) R.CLK_SHADOW_VIEW
  | .disp => s.on (dispB i) R.DISP_SHADOW_VIEW
  | _ => false

/-- A write landed in a shadow set: its dirty bit is set. -/
def setDirty (b : Block) (i o : Nat) (s : State) : State :=
  match b with
  | .wb => s.wr (wbB i) R.WB_SHADOW_SHADOW_DIRTY 1
  | .trg => s.wr (trgB i) R.TRG_SHADOW_SHADOW_DIRTY 1
  | .dens => s.wr (densB i) R.DENS_SHADOW_SHADOW_DIRTY 1
  | .chz => s.wr (chzB i) (zoomMap R.CHZ_DIRTY_k_DIRTY ((o - 0x1000) / 0x40)) 1
  | .clk => s.wr (clkB i) R.CLK_SHADOW_DIRTY 1
  | .disp => match layerOf o with | some k => s.wrBit (dispB i) R.DISP_SHADOW_DIRTY k true | none => s
  | _ => s

/-! Derived registers. -/

/-- The sources of CHIP_IRQ_PEND (R650). -/
def irqPend (s : State) (h : Nat) : Nat :=
  let ev := (List.range 4).any fun t =>
    s.hasT t && hubOf s t == h && (List.range 5).any fun k => s.reg (cctlB t + 0x90 + 4 * k) != 0
  b2n (s.on (fcolB h) R.FCOL_STATUS_IRQ) + 2 * b2n (s.rd (dmaB h) R.DMA_IRQ_IRQ != 0) + 4 * b2n ev
    + 8 * b2n (s.on (planB 0) R.PLAN_REFUSE_VALID)

/-- Whether IRQ_N is low (R650). -/
def irqLow (s : State) : Bool :=
  s.hubList.any fun h => irqPend s h &&& s.rd (chipB h) R.CHIP_IRQ_EN_EN != 0

/-- CHIP_CONFIG.CODE (R651). -/
def Part.code : Part → Nat | .s2d => 0 | .s4d => 1 | .s8d => 2

/-! Memory words and ports behind the map. -/

/-- The core and the word that offset `o` of the core windows names: program words first, then data words (R274). -/
def coreOfWindow (o : Nat) : Nat × Bool × Nat := (o / 0x20000, decide (0x10000 ≤ o % 0x20000), o % 0x10000 / 4)

def coreWord (s : State) (host : Bool) (t o : Nat) : Nat :=
  let x := coreOfWindow o
  if host && debugLocked s then 0
  else if x.2.1 then enc 32 (sx 24 (s.dm t x.1 x.2.2)) else (s.pm t x.1 x.2.2).toNat

def coreWordWrite (t o v : Nat) (s : State) : State :=
  let x := coreOfWindow o
  if x.2.1 then dmHostWrite t x.1 x.2.2 (BitVec.ofNat 32 v) s
  else s.setReg (pmAddr t x.1 x.2.2) (BitVec.ofNat 32 v)

/-- The hub address that offset `o` of the aperture shows (R634). -/
def apertureAddr (s : State) (h o : Nat) : Nat := s.rd (chipB h) R.CHIP_MEMWIN_PAGE * 2 ^ 22 + o

/-- A word read through the aperture: from a frozen channel as stored (R507), zeros of the boot region under the DEBUG
lock (R403), zeros beyond the hub's memory (R634). -/
def apertureWord (s : State) (host : Bool) (h o : Nat) : Nat :=
  let a := apertureAddr s h o
  if s.hubLimit h ≤ a then 0
  else if host && debugLocked s && s.inBoot h a then 0
  else ofLe ((List.range 4).map fun j => s.rawByte h (a + j))

/-- A word written through the aperture; `addr` is the host address that an access violation reports. -/
def apertureWrite (host : Bool) (h o addr v : Nat) (s : State) : State :=
  let a := apertureAddr s h o
  if s.hubLimit h ≤ a then { (s.violation h addr) with access := 2 }
  else if host && bootSealed s && s.inBoot h a then { (s.violation h addr) with access := 2 }
  else s.setBytes h a (leBytes 4 v)

/-- A word of a queue window: of the oldest entry (R446, R448). -/
def fifoWord (l : List Nat) (j : Nat) : Nat := l.headD 0 / 2 ^ (32 * j) % 2 ^ 32

/-- The event-timing queue, or interval queue, whose window holds offset `o`, with the word's number. -/
def tdcWindow (o : Nat) : Option (Nat × Nat) :=
  if 0x100 ≤ o ∧ o < 0x300 ∧ 0x30 ≤ o % 0x40 then some ((o - 0x100) / 0x40, (o % 0x40 - 0x30) / 4) else none
def ivWindow (o : Nat) : Option (Nat × Nat) :=
  if 0x400 ≤ o ∧ o < 0x500 ∧ 0x20 ≤ o % 0x40 ∧ o % 0x40 < 0x30 then some ((o - 0x400) / 0x40, (o % 0x40 - 0x20) / 4)
  else none

/-- Whether offset `o` of block `b` is a table data port, a memory word or a program word, which an alias window treats
as the normal window does (R637). -/
def isPort (b : Block) (o : Nat) : Bool :=
  match b with
  | .wb => o == R.WB_WTAB_DATA
  | .trg => o == R.TRG_MASK_DATA
  | .recd => o == R.REC_MT_DATA
  | .dens => o == R.DENS_TAB_DATA
  | .disp => o == R.DISP_PAL_DATA
  | .dma => decide (0x8000 ≤ o)
  | .core | .aperture => true
  | _ => false

/-- Core `c` whose control registers hold offset `o` of CCTL, and the offset in them counted from 0x1000. -/
def coreOfCctl (o : Nat) : Option (Nat × Nat) :=
  if 0x1000 ≤ o ∧ o < 0x1000 + 0x40 * 132 then some ((o - 0x1000) / 0x40, 0x1000 + o % 0x40) else none

/-! Reads. -/

/-- The value of the register at offset `o`, without the effects of a read. -/
def regValue (s : State) (p : Path) (b : Block) (i o w : Nat) : Nat :=
  let plain := fun (_ : Unit) =>
    if isShadow b o && viewsLive s b i then (s.liveReg (if b = .dens then densB (pairLead i) + o else w)).toNat
    else (s.reg (homeOf b i o w)).toNat
  if regMissing b i o then 0
  else match b with
  | .chip =>
    if o = R.CHIP_CONFIG then
      (plain () - plain () % 2 ^ 16) + s.part.code + 16 * b2n s.suffixE + 256 * s.part.present
    else if o = R.CHIP_IRQ_PEND then irqPend s i
    else plain ()
  | .plan =>
    if o = R.PLAN_STATUS then bitsPut (plain ()) 2 1 (b2n (decide (i = 1) && decide (s.lead = 0))) else plain ()
  | .time =>
    if o = R.TIME_STATUS ∧ i = 1 then
      bitsPut (bitsPut (plain ()) 8 4 (bitsOf (s.reg w).toNat 8 4)) 12 1 (bitsOf (s.reg w).toNat 12 1)
    else plain ()
  | .wb =>
    if wbCopied i o then
      ((if o = R.WB_PIPE_MAP then s.reg (wbB (pairLead i) + o) else s.liveReg (wbB (pairLead i) + o))).toNat
    else plain ()
  | .dens => if !isLead i && !densOwn o && !isShadow b o then (s.reg (densB (pairLead i) + o)).toNat else plain ()
  | .fcol =>
    if o = R.FCOL_SRC_CFG then srcCfgWord s i
    else if o = R.FCOL_SRC_STATE then srcStateWord s i
    else if o = R.FCOL_SRC_COUNT then srcCountWord s i
    else plain ()
  | .dma =>
    if 0x8000 ≤ o then tget noNat s.dmaMem (dmaWordKey i ((o - 0x8000) / 16) (o % 16 / 4))
    else if o = R.DMA_LINE_STATE then lineStateWord s i
    else plain ()
  | .tdc =>
    match tdcWindow o, ivWindow o with
    | some (n, j), _ => fifoWord (s.tdcIn (8 * i + n)).fifo j
    | _, some (m, j) => fifoWord (s.ivUnit i m).fifo j
    | _, _ => plain ()
  | .cctl =>
    match coreOfCctl o with
    | some (c, r) =>
      if r = R.CORE_c_DBG_DATA then (if p ≠ .planner ∧ debugLocked s = true then 0 else dbgRead i c s)
      else if r = R.CORE_c_EVQ then (evqPop i c s).readData.toNat
      else plain ()
    | none => plain ()
  | .mbox => mboxReg s i (bankOf p) o
  | .core => coreWord s (decide (p ≠ .planner)) i o
  | .aperture => apertureWord s (decide (p ≠ .planner)) i o
  | _ => plain ()

/-- The bits of the fields of a register that have one of the given types. -/
def accMask (r : Option RegDesc) (f : Access → Bool) : Nat :=
  match r with
  | some r => r.fields.foldl (fun m x => if f x.acc then m ||| (2 ^ x.w - 1) * 2 ^ x.lo else m) 0
  | none => 0

/-- `v` without the bits of `m`. -/
def without (v m : Nat) : Nat := v - (v &&& m)

/-- What a normal read changes: RC fields clear, queue windows and the event queue pop, a mailbox's VALID clears, and a
table data port steps on (R636). An aperture read beyond the memory is an access violation (R634). -/
def readEffect (p : Path) (b : Block) (i o w addr : Nat) (s : State) : State :=
  match b with
  | .mbox => mboxReadEffect i (bankOf p) o s
  | .core => s
  | .aperture => if s.hubLimit i ≤ apertureAddr s i o then s.violation i addr else s
  | .dma =>
    if o = R.DMA_LINE_STATE then clearLineOvf i s
    else if 0x8000 ≤ o then s
    else s.setReg w (BitVec.ofNat 32 (without (s.reg w).toNat (accMask (regAt b o) (· == .rc))))
  | .tdc =>
    match tdcWindow o, ivWindow o with
    | some (n, 3), _ => (tdcPop (8 * i + n) s).2.2
    | some _, _ => s
    | none, some (m, 3) => (ivPop i m s).2.2
    | none, some _ => s
    | none, none => s.setReg w (BitVec.ofNat 32 (without (s.reg w).toNat (accMask (regAt b o) (· == .rc))))
  | .cctl =>
    match coreOfCctl o with
    | some (c, r) =>
      if r = R.CORE_c_EVQ then evqPop i c s
      else s.setReg w (BitVec.ofNat 32 (without (s.reg w).toNat (accMask (regAt b o) (· == .rc))))
    | none => s
  | _ =>
    let a := if b = .time then timeB i + o else homeOf b i o w
    s.setReg a (BitVec.ofNat 32 (without (s.reg a).toNat (accMask (regAt b o) (· == .rc))))

/-- A read of a table data port: its value and the state after ADDR has stepped on. -/
def portRead (b : Block) (i : Nat) (s : State) : State :=
  match b with
  | .wb => wtabAccess i none s
  | .trg => maskAccess i none s
  | .recd => if isLead i then mtAccess i none s else { s with readData := 0 }
  | .dens => densTabAccess i none s
  | .disp => palAccess i none s
  | _ => s

/-- Whether the register is a table data port (its read steps an address). -/
def isTable (b : Block) (o : Nat) : Bool := isPort b o && decide (b ≠ .dma) && decide (b ≠ .core) && decide (b ≠ .aperture)

/-- Whether a path reaches a host address: a DMA engine reaches its own hub's window only, without alias windows, and paths
through H1 exist where H1 does (R631); a lost control processor leaves the SPI port only (R622); the two sides of the chip
meet in the link H0-H1 (R18). -/
def pathReaches (s : State) (p : Path) (addr : Nat) : Bool :=
  match p with
  | .planner => linked s s.lead (windowOf addr)
  | .dma h => !s.controlLost && s.hasHub h && aliasOf addr == 0 && dieOfWindow (windowOf addr) == some h.val
  | .mgmt h => !s.controlLost && s.hasHub h && linked s h (windowOf addr)
  | .spi h => s.hasHub h && linked s h (windowOf addr)

/-- A read by path `p`: the word goes to `readData` (R6, R635, R636, R638). -/
def busRead (p : Path) (addr : Nat) (s : State) : State :=
  let w := windowOf addr
  match reach s addr with
  | .none => { s with readData := 0, access := 0 }
  | .absent _ => { s with readData := 0, access := 1 }
  | .silent => { s with readData := 0, access := 0 }
  | .at_ b i o =>
    if isTable b o then { (portRead b i s) with access := 0 }
    else
      let v := regValue s p b i o w
      let s := if aliasOf addr = 0 ∨ isPort b o then readEffect p b i o w addr s else s
      { s with readData := BitVec.ofNat 32 v, access := 0 }

/-! Writes. -/

/-- A write's result on the value a field group holds: through the normal, set, clear or toggle window (R637). -/
def aliasResult (a v m : Nat) : Nat :=
  match a with
  | 0 => m
  | 1 => v ||| m
  | 2 => without v m
  | _ => v ^^^ m

/-- `old` with the bits of `mask` taken from `new`. -/
def mixBits (old new mask : Nat) : Nat := without old mask + (new &&& mask)

/-- A register ignored under R8. -/
def ignored8 (s : State) (h addr : Nat) : State := { (s.violation h addr) with access := 2 }

/-- The hub that records an access violation at a register of block `b`. -/
def hubOfBlock (s : State) (b : Block) (i : Nat) : Nat :=
  match b with
  | .wb | .trg | .recd | .dens | .chz | .cctl | .jrx | .core => hubOf s i
  | .acq => if s.hasHub 1 then i else 0
  | _ => i

/-- The sub-converter whose trim register stands at offset `o`. -/
def trimReg (o : Nat) : Option Nat :=
  if 0x1000 ≤ o ∧ o < 0x1000 + 0x10 * 65 ∧ o % 0x10 < 0xC then some ((o - 0x1000) / 0x10) else none

/-- What a write does in an acquisition die (chapter 2). DESIGN CHOICE (R65 gives no order): of the bits of one CAL_CMD
write ABORT acts first, then RUN, then XSKEW. -/
def acqWrote (i o old new wo : Nat) (s : State) : State :=
  if o = R.ACQ_CTRL then
    let s := gainWritten i s
    if bit new 0 = bit old 0 then s else if bit new 0 then acqEnable i s else acqDisable i s
  else if o = R.CAL_CTRL then calCtrlWritten i (old % 4) s
  else if o = R.CAL_CMD then
    let s := if bit wo 2 then calCmdAbort i s else s
    let s := if bit wo 0 then calCmdRun i s else s
    if bit wo 1 then calCmdXskew i s else s
  else if o = R.ACQ_DELAY_BOARD ∨ o = R.ACQ_DELAY_MEAS ∨ o = R.ACQ_DELAY_TOTAL then delayTotal i s
  else if o = R.EST_SEL then estSnapshot i s
  else match trimReg o with
    | some n => showLimit i n s
    | none => s

/-- What a write does in the JESD204C receiver. -/
def jrxWrote (o old new : Nat) (s : State) : State :=
  if o = R.JRX_CTRL ∧ bit old 0 ≠ bit new 0 then
    (if bit new 0 then jrxEnable s else jrxDisable (s.recvSample 0) s)
  else s

/-- A COMMIT and a REVERT written together: the revert follows the hand-over (R96). -/
def commitRevert (wo : Nat) (commit revert : State → State) (s : State) : State :=
  let s := if bit wo 0 then commit s else s
  if bit wo 1 then revert s else s

/-- What a write does in WB; WB_PIPE_MAP acts on the spectra that start from then on (R98). -/
def wbWrote (i o wo : Nat) (s : State) : State :=
  if o = R.WB_COMMIT then commitRevert wo (wbCommit i) (wbRevert i) s
  else if o = R.WB_PIPE_MAP then densShow i (notePipes i s)
  else s

/-- What a write does in TRG. -/
def trgWrote (i o old new wo : Nat) (s : State) : State :=
  if o = R.TRG_COMMIT then commitRevert wo (trgCommit i) (trgRevert i) s
  else if o = R.TRG_CTRL then trgShow (pairLead i) (if !bit old 0 && bit new 0 then condsEnabled i s else s)
  else if 0x400 ≤ o ∧ o % 0x40 = R.TRGU_u_FORCE % 0x40 ∧ bit wo 0 = true then trguForce i ((o - 0x400) / 0x40) s
  else s

/-- What a write does in REC. -/
def recWrote (i o old new wo : Nat) (s : State) : State :=
  if o = R.REC_CMD then
    let s := if bit wo 1 then recStop i s else s
    if bit wo 0 then recArm i s else s
  else if o = R.REC_CTRL then showArmed i s
  else if o = R.REC_TARN_CTRL ∧ bit old 0 ≠ bit new 0 then (if bit new 0 then tarnStart i s else tarnStop i s)
  else if o = R.REC_CO_CTRL ∧ bit old 0 ≠ bit new 0 then (if bit new 0 then coEnable i s else coDisable i s)
  else s

/-- What a write does in DENS. -/
def densWrote (i o wo : Nat) (s : State) : State :=
  if o = R.DENS_CMD then
    let s := commitRevert wo (densCommit i) (densRevert i) s
    if bit wo 2 then densClear i s else s
  else s

/-- What a write does in CHZ. -/
def chzWrote (i o old new wo : Nat) (s : State) : State :=
  if o = R.CHZ_CTRL then
    (if bit old 0 = bit new 0 then s else chzEnable i (bit new 0) (s.wr (chzB i) R.CHZ_CTRL_EN (b2n (bit old 0))))
  else if 0x10 ≤ o ∧ o < 0x20 then eachZoom ((o - 0x10) / 4) wo (zoomCommit i) s
  else if 0x20 ≤ o ∧ o < 0x30 then eachZoom ((o - 0x20) / 4) wo (zoomSync i) s
  else if 0x30 ≤ o ∧ o < 0x40 then eachZoom ((o - 0x30) / 4) wo (zoomRevert i) s
  else s

/-- What a write does in CCTL. -/
def cctlWrote (normal : Bool) (i o old new wo : Nat) (s : State) : State :=
  match coreOfCctl o with
  | some (c, r) =>
    if r = R.CORE_c_CTRL then
      let s := if bit wo 2 then coreReset0 i c s else s
      let s := if !normal && bit old 0 == bit new 0 then s
        else if bit new 0 then coreStart i c s else coreStop i c s
      if bit wo 1 then coreStep i c {} s else s
    else if r = R.CORE_c_DOORBELL then coreDoorbell i c (new % 2 ^ 24) s
    else s
  | none =>
    if 0x50 ≤ o ∧ o < 0x64 then eachCore ((o - 0x50) / 4) wo (coreStart i) s
    else if 0x70 ≤ o ∧ o < 0x84 then eachCore ((o - 0x70) / 4) wo (coreStop i) s
    else s

/-- What a write does in CLK. -/
def clkWrote (i o wo : Nat) (s : State) : State :=
  if o = R.CLK_CMD then
    let s := commitRevert wo (clkCommit i) (clkRevert i) s
    let s := if bit wo 3 then clkRelock i s else s
    if bit wo 2 then sysrefGo i s else s
  else s

/-- What a write does in TIME. -/
def timeWrote (o old new wo : Nat) (s : State) : State :=
  if o = R.TIME_CMD then
    let s := if bit wo 0 then timeUnset s else s
    let s := if bit wo 1 then timeAdjust s else s
    if bit wo 2 then timeHostset s else s
  else if o = R.TIME_REM then writeRem (sx 32 new) s
  else if o = R.TIME_CTRL then baseSelect s
  else if 0x40 ≤ o ∧ o < 0x80 ∧ o % 0x10 = 0 then baseConfig ((o - 0x40) / 0x10) (decide (old % 8 ≠ new % 8)) s
  else if (o = 0x100 ∨ o = 0x140) ∧ old ≠ new then ptpConfig ((o - 0x100) / 0x40) s
  else s

/-- What a write does in TDC. -/
def tdcWrote (i o old wo : Nat) (s : State) : State :=
  if o = R.TDC_CMD then
    let s := tdcArm i (bitsOf wo 0 8) s
    let s := tdcFlush i (bitsOf wo 8 8) s
    if bit wo 16 then tdcStartCheck i (bitsOf wo 20 3) (bit wo 17) s else s
  else if 0x100 ≤ o ∧ o < 0x300 then
    let g := 8 * i + (o - 0x100) / 0x40
    if o % 0x40 = 0 then tdcConfig g old s else if o % 0x40 = 4 then showGate g s else s
  else s

/-- What a write does in HKA. -/
def hkaWrote (i o wo : Nat) (s : State) : State :=
  if o = R.HK_CMD then hkStart i (wo % 4) s
  else if o = 0x100 ∨ o = 0x200 then hkCtrlWritten i ((o - 0x100) / 0x100) s
  else if 0x400 ≤ o ∧ o < 0x440 then pwmRest i ((o - 0x400) / 0x10) s
  else s

/-- What a write does in DMA. -/
def dmaWrote (normal : Bool) (i o old new : Nat) (s : State) : State :=
  if o = R.DMA_CTRL then dmaEnWritten i s
  else if 0x100 ≤ o ∧ o < 0x500 ∧ o % 0x40 = 0 then
    if normal || old % 4 != new % 4 then dmaCtrlWritten i ((o - 0x100) / 0x40) new s else s
  else s

/-- What a write does in NFS. -/
def nfsWrote (i o old new wo : Nat) (s : State) : State :=
  if o = R.NFS_CMD then
    let s := if bit wo 0 then nfsFormat i s else s
    let s := if bit wo 1 then nfsRead i s else s
    let s := if bit wo 2 then nfsCmdDelete i s else s
    let s := if bit wo 3 then nfsUnlock i s else s
    if bit wo 4 then nfsErase i s else s
  else if o = R.NFS_CAT_SEL then catSelect i (new % 2 ^ 24) s
  else if o = R.NFS_CAT_STATE then catProtect i s
  else if 0x1000 ≤ o ∧ o < 0x1800 then
    let k := (o - 0x1000) / 0x20
    if o % 0x20 = 0 ∧ bit old 0 ≠ bit new 0 then
      let s := s.wr (nfsSrcB i k) R.NFS_SRC_s_CTRL_EN (b2n (bit old 0))
      if bit new 0 then sourceOpen i k s else sourceClose i k s
    else if o % 0x20 = 0xC then nfsRun i s
    else s
  else s

/-- What a write does in ETH. -/
def ethWrote (i o old new wo : Nat) (s : State) : State :=
  if o = R.ETH_CTRL then
    let s := if bit old 0 && !bit new 0 then ethOff i s else s
    if bit wo 8 then ethDrop i 15 s else s
  else if 0x400 ≤ o ∧ o < 0xC00 then
    let t := (o - 0x400) / 0x20
    if o % 0x20 = 0 then
      let s := if bit old 0 = bit new 0 then s
        else strEnable i t (bit new 0) (s.wr (strB i t) R.ETH_STR_t_CFG_EN (b2n (bit old 0)))
      strResolveShow i t s
    else if o % 0x20 = 0x14 then qbytesWritten i s
    else if o % 0x20 = 4 ∨ o % 0x20 = 0xC ∨ o % 0x20 = 0x10 then strResolveShow i t s
    else s
  else s

/-- What a write does in DISP. -/
def dispWrote (i o old new wo : Nat) (s : State) : State :=
  if o = R.DISP_CTRL then
    let s := if bit old 1 ≠ bit new 1 then showVrrNa i s else s
    if bit old 0 = bit new 0 then s else if bit new 0 then dispEnable i s else dispDisable i s
  else if o = R.DISP_COMMIT then
    let s := if bitsOf wo 0 4 = 0 then s else dispCommit i (bitsOf wo 0 4) s
    if bitsOf wo 8 4 = 0 then s else dispRevert i (bitsOf wo 8 4) s
  else s

/-- What follows a write of the register at offset `o`: its word was `old` and is now `new`, and the bits `wo` of its
WO fields were written as 1. `normal` is a write through the normal window. -/
def wrote (normal : Bool) (b : Block) (i o old new wo : Nat) (s : State) : State :=
  match b with
  | .acq => acqWrote i o old new wo s
  | .jrx => jrxWrote o old new s
  | .wb => wbWrote i o wo s
  | .trg => trgWrote i o old new wo s
  | .recd => recWrote i o old new wo s
  | .dens => densWrote i o wo s
  | .chz => chzWrote i o old new wo s
  | .cctl => cctlWrote normal i o old new wo s
  | .clk => clkWrote i o wo s
  | .time => timeWrote o old new wo s
  | .tdc => tdcWrote i o old wo s
  | .hka => hkaWrote i o wo s
  | .fcol => if o = R.FCOL_CMD then fcolCmd i wo s else s
  | .dma => dmaWrote normal i o old new s
  | .ddr => if o = R.DDR_CMD then ddrRelease i (wo % 4) s else s
  | .nfs => nfsWrote i o old new wo s
  | .eth => ethWrote i o old new wo s
  | .disp => dispWrote i o old new wo s
  | _ => s

/-- A write to the register described by `r`, held at `a`: each field by its type (R7), a locked WL field under R8
(R637). -/
def fieldWrite (al : Nat) (b : Block) (i o a addr : Nat) (r : RegDesc) (m : Nat) (s : State) : State :=
  let r := some r
  let old := (s.reg a).toNat
  let wl := accMask r (· == .wl)
  let lock := (tget (fun _ => (0 : Word)) s.locked a).toNat
  let soft := accMask r fun x => x == .rw || x == .hs || x == .ct
  let res := aliasResult al old m
  let new := mixBits (mixBits old res soft) res (without wl lock)
  let wo := if al ≤ 1 then m &&& accMask r (· == .wo) else 0
  let s := s.setReg a (BitVec.ofNat 32 new)
  let s := if wl = 0 then s
    else { s with locked := tset (fun _ => (0 : Word)) s.locked a (BitVec.ofNat 32 (lock ||| wl)) }
  let s := if wl &&& lock = 0 then s else ignored8 s (hubOfBlock s b i) addr
  let s := if isShadow b o then setDirty b i o s else s
  wrote (al == 0) b i o old new wo s

/-- Registers whose software write is not a plain word: the selected fault source, a line's credits, a queue window, a
core's debug register, and locks (R402, R403, R535). `none` leaves the write to the field types. -/
def specialWrite (p : Path) (al : Nat) (b : Block) (i o addr m : Nat) (s : State) : Option State :=
  match b with
  | .pwr =>
    if (o = R.PWR_CAP ∨ o = R.PWR_CTRL) ∧ s.on (bootB 0) R.BOOT_LOCK_CAP = true then some (ignored8 s i addr) else none
  | .fcol =>
    if o = R.FCOL_SRC_CFG then some (srcCfgWrite i (aliasResult al (srcCfgWord s i) m) s)
    else if o = R.FCOL_SRC_STATE then some (srcStateWrite i (aliasResult al (srcStateWord s i) m) s)
    else if o = R.FCOL_SRC_COUNT then some (srcCountWrite i (aliasResult al (srcCountWord s i) m) s)
    else none
  | .dma =>
    if 0x8000 ≤ o then
      some { s with dmaMem := tset noNat s.dmaMem (dmaWordKey i ((o - 0x8000) / 16) (o % 16 / 4)) m }
    else if o = R.DMA_LINE_STATE then
      some (dmaWake (setCredits i (aliasResult al (lineStateWord s i) m % 2 ^ 16) s))
    else if 0x100 ≤ o ∧ o < 0x500 ∧ o % 0x40 = 8 ∧ dmaState s i ((o - 0x100) / 0x40) ≠ 5 then some (ignored8 s i addr)
    else none
  | .tdc => if (tdcWindow o).isSome || (ivWindow o).isSome then some s else none
  | .cctl =>
    match coreOfCctl o with
    | some (c, r) =>
      if r = R.CORE_c_DBG_DATA then
        some (if p ≠ .planner ∧ debugLocked s = true then ignored8 s (hubOf s i) addr
          else if al = 0 then
            (if s.onC i c R.CORE_c_STATUS_RUNNING then { (coreDbgWrite i c (m % 2 ^ 24) s) with access := 2 }
              else coreDbgWrite i c (m % 2 ^ 24) s)
          else coreDbgWrite i c (aliasResult al (dbgRead i c s) m % 2 ^ 24) s)
      else if r = R.CORE_c_PC then
        some (if s.onC i c R.CORE_c_STATUS_RUNNING then ignored8 s (hubOf s i) addr
          else corePcWrite i c (aliasResult al (s.core i c).pc m) s)
      else if r = R.CORE_c_CTRL ∧ p ≠ .planner ∧ debugLocked s = true ∧ al ≠ 2 ∧ m &&& 0xA ≠ 0 then
        (regAt b o).map fun d => ignored8 (fieldWrite al b i o (cctlB i + o) addr d (without m 0xA) s) (hubOf s i) addr
      else none
    | none => none
  | .mbox => some (mboxWrite i (bankOf p) o (aliasResult al (mboxReg s i (bankOf p) o) m) s)
  | .core => some (coreWordWrite i o m s)
  | .aperture => some (apertureWrite (decide (p ≠ .planner)) i o addr m s)
  | _ => none

/-- A write of a table data port. -/
def portWrite (b : Block) (i m : Nat) (s : State) : State :=
  let v : Word := BitVec.ofNat 32 m
  match b with
  | .wb => wtabAccess i (some v) s
  | .trg => maskAccess i (some v) s
  | .recd => if isLead i then mtAccess i (some v) s else s
  | .dens => densTabAccess i (some v) s
  | .disp => palAccess i (some v) s
  | _ => s

/-- A write of word `m` by path `p` to host address `addr` (R6, R8, R12, R637). -/
def busWrite (p : Path) (addr m : Nat) (s : State) : State :=
  let s := { s with access := 0 }
  let w := windowOf addr
  let al := aliasOf addr
  let m := m % 2 ^ 32
  match reach s addr with
  | .none => s
  | .silent => s
  | .absent h => { (s.violation h addr) with access := 1 }
  | .at_ b i o =>
    if isTable b o then portWrite b i m s
    else if regMissing b i o || readOnlyHere s b i o then s
    else match specialWrite p al b i o addr m s with
      | some s => s
      | none =>
        match regAt b o with
        | none => s
        | some r => fieldWrite al b i o (homeOf b i o w) addr r m s

/-- Writes of a list of addresses and words, in order. -/
def busWrites (p : Path) : List (Nat × Nat) → State → State
  | [], s => s
  | (a, v) :: l, s => busWrites p l (busWrite p a v s)

end Sys2Proof.Machine
end

