-- ==== Sys2Proof/Machine/Keys.lean ====
section
/-! DEFINITION. The keys of the Cocoon image: which keys there are, what values they take, and the fields they set
(the key tables of chapters 2 to 21, R390, R401). Settings that the planner places or that need a table section's
buffers (zoom channels, cores, routes, layer sources, masks) have their key and value checked here and are written as
the planner's own writes. -/

namespace Sys2Proof.Machine

/-- The ASCII bytes of a text. -/
def asc (t : String) : List Byte := t.toList.map fun c => BitVec.ofNat 8 c.toNat

/-- The parts of a text between separators. -/
def splitBy (sep : Char) : List Byte → List (List Byte)
  | [] => [[]]
  | b :: l =>
    if b.toNat = sep.toNat then [] :: splitBy sep l
    else match splitBy sep l with
      | p :: r => (b :: p) :: r
      | [] => [[b]]

/-! Values. -/

/-- A part of a key's value: a number, a name's place in its list, the name of an image section, or a text. -/
inductive KAtom where
  | num (q : Rat) | idx (n : Nat) | sect (l : List Byte) | text (l : List Byte)
  deriving DecidableEq, Repr

/-- A parsed value: for each item of a list, or for the one value, which of its forms it has and its parts. -/
abbrev KeyVal := List (Nat × List KAtom)

def KeyVal.alt (v : KeyVal) : Nat := (v.headD (0, [])).1
def KeyVal.atoms (v : KeyVal) : List KAtom := (v.headD (0, [])).2
def KAtom.q : KAtom → Rat
  | .num q => q
  | .idx n => n
  | _ => 0
def KeyVal.q (v : KeyVal) (k : Nat) : Rat := ((v.atoms[k]?).map (·.q)).getD 0
/-- Part `k` as a number not below 0, rounded to nearest. -/
def KeyVal.n (v : KeyVal) (k : Nat) : Nat := (roundRat (v.q k)).toNat
def KeyVal.has (v : KeyVal) (k : Nat) : Bool := decide (k < v.atoms.length)
def KeyVal.text (v : KeyVal) (k : Nat) : List Byte :=
  match v.atoms[k]? with
  | some (.text l) => l
  | some (.sect l) => l
  | _ => []

abbrev Atom := List Byte → Option KAtom
abbrev Form := List Byte → Option (List KAtom)
abbrev Gram := List Byte → Option KeyVal

def digitOf (b : Byte) : Option Nat := if 48 ≤ b.toNat ∧ b.toNat ≤ 57 then some (b.toNat - 48) else none

/-- A row of decimal digits. -/
def parseNat : List Byte → Option Nat
  | [] => none
  | l => (l.mapM digitOf).map fun d => d.foldl (fun n x => 10 * n + x) 0

def parseInt (l : List Byte) : Option Int :=
  match l with
  | 45 :: r => (parseNat r).map fun n => -(n : Int)
  | 43 :: r => (parseNat r).map fun n => (n : Int)
  | l => (parseNat l).map fun n => (n : Int)

/-- Digits with at most one decimal point. -/
def parseMant (l : List Byte) : Option Rat :=
  match splitBy '.' l with
  | [i] => (parseNat i).map fun n => (n : Rat)
  | [i, f] => match parseNat i, parseNat (i ++ f) with
    | some _, some n => if f.isEmpty then none else some ((n : Rat) / (10 ^ f.length : Nat))
    | _, _ => none
  | _ => none

/-- A decimal number with an optional sign and power of ten, as in the image of R344. -/
def parseRat (l : List Byte) : Option Rat :=
  let neg := l.head? = some 45
  let l := if neg then l.drop 1 else l
  match splitBy 'e' l with
  | [m] => (parseMant m).map fun q => if neg then -q else q
  | [m, e] => match parseMant m, parseInt e with
    | some q, some e =>
      let q := if neg then -q else q
      some (if 0 ≤ e then q * (10 ^ e.toNat : Nat) else q / (10 ^ e.natAbs : Nat))
    | _, _ => none
  | _ => none

def hexOf (b : Byte) : Option Nat :=
  let n := b.toNat
  if 48 ≤ n ∧ n ≤ 57 then some (n - 48) else if 65 ≤ n ∧ n ≤ 70 then some (n - 55)
  else if 97 ≤ n ∧ n ≤ 102 then some (n - 87) else none

def parseHex (l : List Byte) : Option Nat := (l.mapM hexOf).map fun d => d.foldl (fun n x => 16 * n + x) 0

/-- A number within a range. -/
def aNum (lo hi : Rat) : Atom := fun l =>
  match parseRat l with
  | some q => if lo ≤ q ∧ q ≤ hi then some (.num q) else none
  | none => none
/-- A whole number within a range. -/
def aInt (lo hi : Int) : Atom := fun l =>
  match parseRat l with
  | some q => if q.den = 1 ∧ lo ≤ q.num ∧ q.num ≤ hi then some (.num q) else none
  | none => none
/-- A power of two within a range. -/
def aPow (lo hi : Nat) : Atom := fun l =>
  match parseNat l with
  | some n => if lo ≤ n ∧ n ≤ hi ∧ 2 ^ Nat.log2 n = n then some (.num n) else none
  | none => none
/-- One of a list of names. -/
def aOne (names : List String) : Atom := fun l => (names.findIdx? fun t => decide (asc t = l)).map .idx
def aHex (digits : Nat) : Atom := fun l => if l.length = digits then (parseHex l).map fun n => .num n else none
def aText : Atom := fun l => if l.isEmpty then none else some (.text l)
def aSect : Atom := fun l => if l.isEmpty ∨ 32 < l.length then none else some (.sect l)
def aOnOff : Atom := aOne ["off", "on"]

def parseIp4 (l : List Byte) : Option Nat :=
  match (splitBy '.' l).mapM parseNat with
  | some [a, b, c, d] => if a < 256 ∧ b < 256 ∧ c < 256 ∧ d < 256 then some (((a * 256 + b) * 256 + c) * 256 + d) else none
  | _ => none

/-- Groups of an IPv6 address between colons. -/
def ip6Groups (l : List (List Byte)) : Option (List Nat) :=
  l.mapM fun g => if g.isEmpty ∨ 4 < g.length then none else parseHex g

/-- An IPv6 address, with at most one run of zero groups left out. -/
def parseIp6 (l : List Byte) : Option Nat :=
  let join := fun (g : List Nat) => g.foldl (fun n x => n * 65536 + x) 0
  let p := splitBy ':' l
  match p.findIdx? (·.isEmpty) with
  | none => match ip6Groups p with
    | some g => if g.length = 8 then some (join g) else none
    | none => none
  | some k =>
    match ip6Groups (p.take k), ip6Groups ((p.drop k).dropWhile (·.isEmpty)) with
    | some a, some b =>
      if 3 ≤ p.length ∧ a.length + b.length < 8 then
        some (join (a ++ List.replicate (8 - a.length - b.length) 0 ++ b)) else none
    | _, _ => none

def aIp4 : Atom := fun l => (parseIp4 l).map fun n => .num n
def aIp6 : Atom := fun l => (parseIp6 l).map fun n => .num n

/-- Parts between separators, the first `req` of them required. -/
def form (sep : Char) (ps : List Atom) (req : Nat) : Form := fun l =>
  let parts := splitBy sep l
  if req ≤ parts.length ∧ parts.length ≤ ps.length then (parts.zip ps).mapM fun x => x.2 x.1 else none
def whole (a : Atom) : Form := fun l => (a l).map fun x => [x]
/-- A word, alone or before a colon and further parts. -/
def word (w : String) (ps : List Atom) (req : Nat) : Form := fun l => (form ':' (aOne [w] :: ps) (req + 1) l).map (·.drop 1)

/-- One of several forms. -/
def oneOf (fs : List Form) : Gram := fun l => fs.zipIdx.findSome? fun x => (x.1 l).map fun v => [(x.2, v)]
/-- A list of values between commas. -/
def listOf (f : Form) : Gram := fun l => (splitBy ',' l).mapM fun p => (f (p.dropWhile (· == 32))).map fun v => (0, v)
def one (a : Atom) : Gram := oneOf [whole a]

/-! Keys. -/

/-- A part of a key between dots: a word, an input a0 or a1, a hub h0 or h1, a number, or a name. -/
inductive Seg where
  | lit (t : String) | inp | hub | num (bound : Nat) | name

/-- The numbers that a key's variable parts hold, where it matches. -/
def matchSegs : List Seg → List (List Byte) → Option (List Nat)
  | [], [] => some []
  | .lit t :: p, l :: r => if asc t = l then matchSegs p r else none
  | .inp :: p, l :: r => match [asc "a0", asc "a1"].findIdx? (· == l) with
    | some n => (matchSegs p r).map (n :: ·)
    | none => none
  | .hub :: p, l :: r => match [asc "h0", asc "h1"].findIdx? (· == l) with
    | some n => (matchSegs p r).map (n :: ·)
    | none => none
  | .num b :: p, l :: r => match parseNat l with
    | some n => if n < b then (matchSegs p r).map (n :: ·) else none
    | none => none
  | .name :: p, l :: r => if l.isEmpty then none else matchSegs p r
  | _, _ => none

/-- A key: its parts, its values, and what it sets given the numbers in its name. -/
structure KeyRow where
  pat : List Seg
  val : Gram
  act : List Nat → KeyVal → State → State := fun _ _ s => s

def arg (a : List Nat) (k : Nat) : Nat := (a[k]?).getD 0

/-- A field is written by the planner or Chrysalis, where its die is there. -/
def setFld (b : Nat) (f : Fld) (v : Nat) (s : State) : State :=
  match reach s (b + f.off) with
  | .at_ _ _ _ => busWrite .planner (b + f.off) (bitsPut (s.reg (b + f.off)).toNat f.lo f.w v) s
  | _ => s

def setFlds (b : Nat) (l : List (Fld × Nat)) (s : State) : State := l.foldl (fun s x => setFld b x.1 x.2 s) s

/-- Chrysalis writes a WL field once; the register's other WL fields stay open to the host (R159, R401, R402). -/
def setWl (b : Nat) (f : Fld) (v : Nat) (s : State) : State :=
  let a := b + f.off
  let bits := (2 ^ f.w - 1) * 2 ^ f.lo
  let lock := (tget (fun _ => (0 : Word)) s.locked a).toNat
  match reach s a with
  | .at_ blk i o =>
    if regMissing blk i o || decide (lock &&& bits ≠ 0) then s
    else { s.wr b f v with locked := tset (fun _ => (0 : Word)) s.locked a (BitVec.ofNat 32 (lock ||| bits)) }
  | _ => s

/-! Sections of the image (R383, R394). -/

/-- The base of the boot region, where the image in force lies (R389). -/
def bootBase (s : State) : Nat := s.hubLimit 0 - 64 * 2 ^ 20

/-- The body of a section of the given type, as the boot region holds it; empty where the image has none. -/
def sectionBody (s : State) (type : Nat) (name : List Byte) : List Byte :=
  match s.boot.sections.find? fun x => x.type == type && x.name == name with
  | some x => s.bytes 0 (bootBase s + x.off) x.len
  | none => []

/-- The little-endian 4-byte words of `l`. -/
def le4s : (fuel : Nat) → List Byte → List Nat
  | 0, _ => []
  | n + 1, l => if l.length < 4 then [] else ofLe (l.take 4) :: le4s n (l.drop 4)

/-- The entries of a table section. -/
def tableEntries (s : State) (name : List Byte) : List Nat :=
  let b := sectionBody s 3 name
  le4s (ofLe ((b.drop 32).take 4)) (b.drop 64)

/-- Code and data words of a program section. -/
def programWords (s : State) (name : List Byte) : List Nat × List Nat :=
  let b := sectionBody s 4 name
  let c := ofLe ((b.drop 32).take 4)
  (le4s c (b.drop 64), le4s (ofLe ((b.drop 36).take 4)) (b.drop (64 + 4 * c)))

/-- Entries of a table behind a data port, from `first` on. -/
def portFill (addr data first : Nat) (l : List Nat) (s : State) : State :=
  l.foldl (fun s v => busWrite .planner data v s) (busWrite .planner addr first s)

/-- Keys below `pre` with one value each, for a block at `b`: name, value and fields. -/
def keysAt (pre : List Seg) (b : List Nat → Nat) (l : List (String × Gram × (KeyVal → List (Fld × Nat)))) :
    List KeyRow :=
  l.map fun x => { pat := pre ++ [.lit x.1], val := x.2.1, act := fun a v s => setFlds (b a) (x.2.2 v) s }

/-- Complex samples per nanosecond of an input (R83). -/
def sampPerNs (s : State) : Rat :=
  match s.part with
  | .s2d => 128 * (2 ^ 28 : Nat) / (100 * max 1 (s.rd (timeB 0) R.TIME_JRX_STEP_STEP) : Nat)
  | _ => 1024 / 100

/-- Signed number `v` in `w` bits. -/
def encR (w : Nat) (v : Rat) : Nat := enc w (roundRat v)
def rnd (v : Rat) : Nat := (roundRat v).toNat
def ceilRat (v : Rat) : Nat := (-((-v.num) / (v.den : Int))).toNat

def aDet : Atom := aOne ["PEAK", "RMS", "AVERAGE", "SAMPLE", "MIN"]
def firstLast : Gram := oneOf [form ':' [aInt 0 65535, aInt 0 65535] 2]

/-- Acquisition (R72, R73). -/
def keysAcq : List KeyRow :=
  keysAt [.lit "acq", .inp] (fun a => acqB (arg a 0))
    [("gain_db", one fun l => match aNum 0 12 l with
        | some (.num q) => if (2 * q).den = 1 then some (.num q) else none
        | _ => none, fun v => [(R.ACQ_CTRL_GAIN, rnd (2 * v.q 0))]),
     ("cal", one (aOne ["TRACK", "TIGHT", "VERIFY", "OFF", "EXPERT"]), fun v =>
        let p := v.n 0
        if p = 4 then [] else
          let mu := if p = 1 then (1, 1, 2) else (0, 0, 1)
          [(R.CAL_CTRL_MODE, if p ≤ 1 then 2 else if p = 2 then 1 else 0), (R.CAL_CTRL_MU_OFS, mu.1),
           (R.CAL_CTRL_MU_GAIN, mu.2.1), (R.CAL_CTRL_MU_SKEW, mu.2.2), (R.CAL_CTRL_TEMP_DELTA, if p = 1 then 8 else 32),
           (R.CAL_TIMING_STEP_RUN, 16), (R.CAL_TIMING_STEP_IDLE, if p = 1 then 250 else if p = 3 then 0 else 1000),
           (R.CAL_LIMITS_MAX_INTERVAL, if p = 0 then 600 else if p = 1 then 60 else 0)]),
     ("board_delay_ps", one (aNum (-402000) 402000), fun v => [(R.ACQ_DELAY_BOARD_DELAY, encR 24 (v.q 0 * 1000 / 48))])] ++
  [{ pat := [.lit "acq", .lit "xskew_apply"], val := one aOnOff
     act := fun _ v s => [0, 1].foldl (fun s a => setFld (acqB a) R.XSKEW_CTRL_APPLY (v.n 0) s) s }]

/-- The receiver of the S8G-2D (R82, R83); elsewhere jrx.rate_hz is ignored. DESIGN CHOICE: R82 gives jrx.board_delay_ps
no range; it takes that of acq.in.board_delay_ps. -/
def keysJrx : List KeyRow :=
  keysAt [.lit "jrx"] (fun _ => jrxB 0)
    [("lanes", one (aOne ["4", "8", "16"]), fun v => [(R.JRX_CTRL_LANES, v.n 0)]),
     ("resolution", one (aInt 12 16), fun v => [(R.JRX_CTRL_RES, v.n 0 - 12)]),
     ("e", one (aInt 1 32), fun v => [(R.JRX_CTRL_E, v.n 0)]),
     ("rbd", one (aInt 0 65535), fun v => [(R.JRX_RBD_RBD, v.n 0)]),
     ("invert", one (aInt 0 65535), fun v => [(R.JRX_POL_INVERT, v.n 0)]),
     ("board_delay_ps", one (aNum (-402000) 402000), fun v => [(R.JRX_DELAY_BOARD_DELAY, encR 24 (v.q 0 * 1000 / 48))])] ++
  [{ pat := [.lit "jrx", .lit "rate_hz"], val := one (aNum 0 (10 ^ 12))
     act := fun _ v s =>
      let l := min 2 (s.rd (jrxB 0) R.JRX_CTRL_LANES)
      let lo : Rat := match l with | 0 => 788000000 | 1 => 1576000000 | _ => 3152000000
      let hi : Rat := match l with | 0 => 3000000000 | 1 => 6000000000 | _ => 10240000000
      let f := v.q 0
      if s.part ≠ .s2d then s
      else setFld (timeB 0) R.TIME_JRX_STEP_STEP
        (if lo ≤ f ∧ f ≤ hi then rnd ((2 ^ 28 * 1280000000 : Nat) / f) else 2 ^ 25) s }]

/-- Wide-band transform (R120, R125). DESIGN CHOICE: R125 gives n of FIXED:n no range; it takes the shifts that differ, 0
to 16 (R107). -/
def keysWb : List KeyRow :=
  keysAt [.lit "wb", .inp] (fun a => wbB (leadOf (arg a 0)))
    [("centre_hz", one (aNum 0 10240000000), fun v =>
        let t := rnd (v.q 0 * (2 ^ 40 : Nat) / 20480000000)
        [(R.WB_TUNE_LO_TUNE_LO, t % 2 ^ 32), (R.WB_TUNE_HI_TUNE_HI, t / 2 ^ 32)]),
     ("fft_points", one (aPow 64 65536), fun v => [(R.WB_CTRL_LOG2N, Nat.log2 (v.n 0))]),
     ("overlap", one (aOne ["0", "50", "75", "87.5"]), fun v => [(R.WB_CTRL_OVERLAP, v.n 0)]),
     ("window", one (aOne ["RECT", "HANN", "HAMMING", "BLACKMAN", "BLACKMAN_HARRIS", "KAISER3", "GAUSS3", "FLATTOP",
        "USER"]), fun v => [(R.WB_CTRL_WINDOW, v.n 0)]),
     ("scaling", oneOf [whole (aOne ["BLOCK"]), word "FIXED" [aInt 0 16] 1], fun v =>
        if v.alt = 0 then [(R.WB_SCALE_MODE, 0)] else [(R.WB_SCALE_MODE, 1), (R.WB_SCALE_SHIFT, v.n 0)]),
     ("rate", one (aOne ["FOOTHILL", "SPUR", "RIDGE", "SUMMIT", "EXPERT"]), fun v =>
        if v.n 0 = 4 then [] else
          [(R.WB_AVG_LEN, ([4, 16, 128, 1024][v.n 0]?).getD 16), (R.WB_DET_MODE, 1), (R.WB_DET_LEN, 1),
           (R.WB_AVG_DOMAIN, 0), (R.WB_AVG_TRACE_EN, 1)]),
     ("detector", one aDet, fun v => [(R.WB_DET_MODE, v.n 0)]),
     ("detector_len", one (aInt 1 1048576), fun v => [(R.WB_DET_LEN, v.n 0)]),
     ("avg_len", one (aInt 1 65536), fun v => [(R.WB_AVG_LEN, v.n 0)]),
     ("avg_domain", one (aOne ["POWER", "LOG"]), fun v => [(R.WB_AVG_DOMAIN, v.n 0)]),
     ("spectra_out", one (aOne ["off", "db16", "cplx"]), fun v => [(R.WB_FMT_SPEC_OUT, v.n 0)]),
     ("spectra_every", one (aInt 1 16777215), fun v => [(R.WB_FMT_EVERY, v.n 0)]),
     ("record_rate", oneOf [whole (aOne ["off"]), form '/' [aInt 1 64, aInt 1 64] 2], fun v =>
        if v.alt = 0 then [(R.WB_RS_EN, 0)]
        else [(R.WB_RS_EN, 1), (R.WB_RS_P, v.n 0 % 64), (R.WB_RS_Q, v.n 1 % 64)]),
     ("record_format", one (aOne ["C24", "C16"]), fun v => [(R.WB_RS_FMT, v.n 0)]),
     ("record_shift", one (aInt 0 8), fun v => [(R.WB_RS_SHIFT, v.n 0)])] ++
  [{ pat := [.lit "wb", .inp, .lit "window_table"], val := one aSect
     act := fun a v s =>
      let b := wbB (leadOf (arg a 0))
      portFill (b + R.WB_WTAB_ADDR) (b + R.WB_WTAB_DATA) 0 (tableEntries s (v.text 0)) s }]

/-- A set of conditions and sources of a trigger unit: items joined by one of `or` and `and` (R144, R165). -/
def trigSet : Gram := fun l =>
  let w := (splitBy ' ' l).filter (! ·.isEmpty)
  let items := (w.zipIdx.filter fun x => x.2 % 2 = 0).map (·.1)
  let joins := (w.zipIdx.filter fun x => x.2 % 2 = 1).map (·.1)
  let item : Form := fun t => match aInt 0 31 t with
    | some a => some [a]
    | none => (aOne ["HOST", "TIMER", "TDC", "XIN", "NET"] t).map fun a => [.num (32 + a.q)]
  if w.length % 2 = 0 then none
  else if joins.all (· == asc "or") then items.mapM fun t => (item t).map fun v => (0, v)
  else if joins.all (· == asc "and") then items.mapM fun t => (item t).map fun v => (1, v)
  else none

/-- Conditions and external sources of a set, as masks. -/
def trigMask (v : KeyVal) : Nat :=
  v.foldl (fun m x => m ||| 2 ^ (roundRat ((x.2.head?.map (·.q)).getD 0)).toNat) 0

def condOf (a : List Nat) : Nat := trgB (leadOf (arg a 0) + arg a 1 / 16) + 0x20 * (arg a 1 % 16)
def unitOf (a : List Nat) : Nat := trgB (leadOf (arg a 0)) + 0x40 * arg a 1

/-- Triggers (R159, R165). DESIGN CHOICE: TRG_COND_c_THRESH.HYST is unsigned, and a hyst_db below 0, which R165 allows, sets
it to 0. -/
def keysTrg : List KeyRow :=
  keysAt [.lit "trg", .inp, .lit "cond", .num 32] condOf
    [("type", one (aOne ["OFF", "MASK", "BANDPOWER", "LEVEL", "WIDTH", "ZOOM", "CORE"]), fun v =>
        [(R.TRG_COND_c_CTRL_TYPE, v.n 0)]),
     ("mask", oneOf [word "AUTO" [aOne ["FOOTHILL", "SPUR", "RIDGE", "SUMMIT"], aNum (-128) (12799 / 100)] 2, whole aSect],
        fun _ => []),
     ("side", one (aOne ["", "UPPER", "LOWER", "BOTH"]), fun v => [(R.TRG_COND_c_CTRL_SIDE, v.n 0)]),
     ("polarity", one (aOne ["ENTER", "EXIT"]), fun v => [(R.TRG_COND_c_CTRL_POL, v.n 0)]),
     ("place", one (aOne ["START", "CENTRE", "END"]), fun v => [(R.TRG_COND_c_CTRL_PLACE, v.n 0)]),
     ("source", one (aOne ["SPECTRA", "DETECTED"]), fun v => [(R.TRG_COND_c_CTRL_SRC, v.n 0)]),
     ("bins", firstLast, fun v => [(R.TRG_COND_c_BINS_FIRST, v.n 0), (R.TRG_COND_c_BINS_LAST, v.n 1)]),
     ("count", one (aInt 1 65536), fun v => [(R.TRG_COND_c_COUNT_K, v.n 0)]),
     ("run", one (aInt 1 255), fun v => [(R.TRG_COND_c_CTRL_RUN, v.n 0)]),
     ("level_db", one (aNum (-128) (12799 / 100)), fun v => [(R.TRG_COND_c_THRESH_LEVEL, encR 16 (v.q 0 * 256))]),
     ("hyst_db", one (aNum (-128) (12799 / 100)), fun v => [(R.TRG_COND_c_THRESH_HYST, rnd (v.q 0 * 256))]),
     ("channel", one (aInt 0 131), fun v => [(R.TRG_COND_c_SEL_CHAN, v.n 0)]),
     ("detector", one (aOne ["PEAK", "RMS", "ENVELOPE"]), fun v => [(R.TRG_COND_c_SEL_DET, v.n 0)]),
     ("deadline_us", one (aNum (1 / 10) (65535 / 10)), fun v => [(R.TRG_COND_c_SEL_DEADLINE, rnd (v.q 0 * 10))])] ++
  [{ pat := [.lit "trg", .inp, .lit "cond", .num 32, .lit "width_ns"]
     val := oneOf [form ':' [aNum 0 1638400, aNum 0 1638400, aOne ["outside"]] 2]
     act := fun a v s => setFlds (condOf a) [(R.TRG_COND_c_WMIN_WMIN, min (2 ^ 24 - 1) (rnd (v.q 0 * sampPerNs s))),
      (R.TRG_COND_c_WMIN_OUTSIDE, b2n (v.has 2)), (R.TRG_COND_c_WMAX_WMAX, min (2 ^ 24 - 1) (rnd (v.q 1 * sampPerNs s)))] s },
   { pat := [.lit "trg", .inp, .lit "unit", .num 8, .lit "window_ns"], val := one (aNum 0 419000000)
     act := fun a v s => setFld (unitOf a) R.TRGU_u_WINDOW_W (rnd (v.q 0 * sampPerNs s)) s },
   { pat := [.lit "trg", .lit "engine_id"], val := one (aInt 0 4095)
     act := fun _ v s => (List.range 4).foldl (fun s t => setWl (trgB t) R.TRG_NET_ID_ENGINE (v.n 0) s) s },
   { pat := [.lit "trg", .lit "array_id"], val := one (aInt 0 65535)
     act := fun _ v s => (List.range 4).foldl (fun s t => setWl (trgB t) R.TRG_NET_ID_ARRAY (v.n 0) s) s }] ++
  keysAt [.lit "trg", .inp, .lit "unit", .num 8] unitOf
    [("a", trigSet, fun v => [(R.TRGU_u_A_CONDS, trigMask v % 2 ^ 32), (R.TRGU_u_XSRC_A_XSRC, trigMask v / 2 ^ 32),
        (R.TRGU_u_CTRL_A_AND, v.alt), (R.TRGU_u_CTRL_EN, 1)]),
     ("b", trigSet, fun v => [(R.TRGU_u_B_CONDS, trigMask v % 2 ^ 32), (R.TRGU_u_XSRC_B_XSRC, trigMask v / 2 ^ 32),
        (R.TRGU_u_CTRL_B_AND, v.alt)]),
     ("mode", one (aOne ["SINGLE", "SEQUENCE", "DROPOUT"]), fun v => [(R.TRGU_u_CTRL_MODE, v.n 0)]),
     ("restart", one aOnOff, fun v => [(R.TRGU_u_CTRL_ARESTART, v.n 0)]),
     ("holdoff_ns", one (aNum 0 3350000000), fun v => [(R.TRGU_u_HOLDOFF_HOLDOFF, rnd (v.q 0 * 128 / 100))]),
     ("timer_ns", one (aNum 0 3350000000), fun v => [(R.TRGU_u_TIMER_PERIOD, rnd (v.q 0 * 128 / 100))]),
     ("net_tx", one aOnOff, fun v => [(R.TRGU_u_CTRL_NET_TX, v.n 0)]),
     ("net_rx", one aOnOff, fun v => [(R.TRGU_u_CTRL_NET_RX, v.n 0)]),
     ("tx_group", one (aInt 0 7), fun v => [(R.TRGU_u_CTRL_TXGROUP, v.n 0)]),
     ("rx_groups", listOf (whole (aInt 0 7)), fun v => [(R.TRGU_u_CTRL_RXGROUPS, trigMask v)]),
     ("repeat", one (aInt 0 3), fun v => [(R.TRGU_u_CTRL_REPEAT, v.n 0)])]

/-- Records and the Tarn (R201). The limit of R172 on tarn_s is held at admission; the key takes what the field can
hold. -/
def keysRec : List KeyRow :=
  keysAt [.lit "rec", .inp] (fun a => recB (leadOf (arg a 0)))
    [("mode", one (aOne ["SINGLE", "RING", "STREAM"]), fun v => [(R.REC_CTRL_MODE, v.n 0)]),
     ("segments", one (aInt 1 1048576), fun v => [(R.REC_SEGS_M, v.n 0)]),
     ("rearm", one (aOne ["AFTER_POST", "IMMEDIATE"]), fun v => [(R.REC_CTRL_ARM_MODE, v.n 0)]),
     ("format", oneOf [whole (aOne ["C24"]), word "C16" [aInt 0 8] 1], fun v =>
        if v.alt = 0 then [(R.REC_CTRL_FORMAT, 0)] else [(R.REC_CTRL_FORMAT, 1), (R.REC_CTRL_SHIFT, v.n 0)]),
     ("units", listOf (whole (aInt 0 7)), fun v => [(R.REC_CTRL_UNITS, trigMask v)]),
     ("region_mib", one (aInt 0 131072), fun v => [(R.REC_REGION_SIZE_SIZE, v.n 0)]),
     ("net_window", one (aOne ["LOCAL", "MESSAGE"]), fun v => [(R.REC_CTRL_NETWIN, v.n 0)]),
     ("change_only", oneOf [whole (aOne ["off"]), form ':' [aSect, aNum 0 (25599 / 100), aOne ["SPECTRA", "DETECTED"]] 3],
        fun v => if v.alt = 0 then [(R.REC_CO_CTRL_EN, 0)]
          else [(R.REC_CO_CTRL_HYST, rnd (v.q 1 * 256)), (R.REC_CO_CTRL_SRC, v.n 2)]),
     ("change_bins", firstLast, fun v => [(R.REC_CO_BINS_FIRST, v.n 0), (R.REC_CO_BINS_LAST, v.n 1)]),
     ("change_flush_ms", one (aInt 0 65535), fun v => [(R.REC_CO_FLUSH_FLUSH, v.n 0)]),
     ("change_mib", one (aInt 1 16384), fun v => [(R.REC_CO_SIZE_SIZE, v.n 0)]),
     ("arm", one (aOne ["AUTO", "HOST"]), fun _ => [])] ++
  [{ pat := [.lit "rec", .inp, .lit "tarn_s"], val := one (aNum (1 / 10000) 1000000)
     act := fun a v s => setFld (recB (leadOf (arg a 0))) R.REC_TARN_DEPTH_DEPTH
      (min (2 ^ 24 - 1) (ceilRat (v.q 0 * 1000000000 * sampPerNs s / 65536))) s },
   { pat := [.lit "rec", .inp, .lit "pre_us"], val := one (aNum 0 26800000)
     act := fun a v s => setFld (recB (leadOf (arg a 0))) R.REC_PRE_PRE (ceilRat (v.q 0 * 1000 * sampPerNs s / 64)) s },
   { pat := [.lit "rec", .inp, .lit "post_us"], val := one (aNum 0 26800000)
     act := fun a v s => setFld (recB (leadOf (arg a 0))) R.REC_POST_POST (ceilRat (v.q 0 * 1000 * sampPerNs s / 64)) s },
   { pat := [.lit "rec", .inp, .lit "measure"]
     val := oneOf [whole (aOne ["off"]), form ':' [aOne ["on"], aNum (-200000000) 200000000, aNum 0 400000000] 1]
     act := fun a v s => setFlds (recB (leadOf (arg a 0)))
      (if v.alt = 0 then [(R.REC_CTRL_MEAS, 0)]
       else [(R.REC_CTRL_MEAS, 1), (R.REC_MEAS_START_START, encR 32 (v.q 1 * sampPerNs s)),
        (R.REC_MEAS_LEN_LEN, rnd (v.q 2 * sampPerNs s))]) s },
   { pat := [.lit "rec", .inp, .lit "mask_test"]
     val := oneOf [whole (aOne ["off"]),
      form ':' [aSect, aInt 0 16, aNum (-200000000) 200000000, aInt 1 4096, aOne ["stop"]] 4]
     act := fun a v s =>
      let b := recB (leadOf (arg a 0))
      let s := if v.alt = 0 then s
        else portFill (b + R.REC_MT_ADDR) (b + R.REC_MT_DATA) 0 (tableEntries s (v.text 0)) s
      setFlds b
      (if v.alt = 0 then [(R.REC_MT_CTRL_EN, 0)]
       else [(R.REC_MT_CTRL_EN, 1), (R.REC_MT_CTRL_DEC, v.n 1), (R.REC_MT_OFFSET_OFFSET, encR 32 (v.q 2 * sampPerNs s)),
        (R.REC_MT_CTRL_POINTS, v.n 3), (R.REC_MT_CTRL_STOP, b2n (v.has 4))]) s }]

/-- Spectra per second of the input's setting as its keys give it (R103). -/
def specRate (s : State) (l : Nat) : Rat :=
  sampPerNs s * 1000000000 * (2 ^ s.rd (wbB l) R.WB_CTRL_OVERLAP : Nat) / (2 ^ s.rd (wbB l) R.WB_CTRL_LOG2N : Nat)

/-- A rate of frames or rows as a count of spectra; where it is outside the field, CLAMP sets at the hand-over (R232). -/
def setRate (l : Nat) (f : Fld) (hz : Rat) (s : State) : State :=
  let n := rnd (specRate s l / hz)
  let s := setFld (densB l) f (min (2 ^ 24 - 1) (max 1 n)) s
  if 1 ≤ n ∧ n < 2 ^ 24 then s else s.modDens l fun q => { q with rateClamp := true }

/-- Density map and spectrogram (R215, R232, R233). -/
def keysDens : List KeyRow :=
  keysAt [.lit "dens", .inp] (fun a => densB (leadOf (arg a 0)))
    [("map_size", oneOf [form 'x' [aInt 1 4096, aInt 1 1024] 2], fun v => [(R.DENS_GEOM_W, v.n 0), (R.DENS_GEOM_H, v.n 1)]),
     ("map_bins", firstLast, fun v => [(R.DENS_BINS_FIRST, v.n 0), (R.DENS_BINS_LAST, v.n 1)]),
     ("map_levels", oneOf [form ':' [aNum (-128) (12799 / 100), aNum 0 (25599 / 100), aOnOff] 2], fun v =>
        [(R.DENS_LEVEL_TOP, encR 16 (v.q 0 * 256)), (R.DENS_LEVEL_STEP, rnd (v.q 1 * 256))]
          ++ (if v.has 2 then [(R.DENS_CTRL_CLIP, v.n 2)] else [])),
     ("map_mode", oneOf [whole (aOne ["PEAK", "ALL"]), word "FILL" [aInt 0 15] 1], fun v =>
        if v.alt = 0 then [(R.DENS_CTRL_COLMODE, v.n 0)] else [(R.DENS_CTRL_COLMODE, 2), (R.DENS_CTRL_FILLMAX, v.n 0)]),
     ("persistence", one (aOne ["OFF", "SHORT", "MEDIUM", "LONG", "INFINITE", "EXPERT"]), fun v =>
        match v.n 0 with
        | 0 => [(R.DENS_DECAY_MODE, 0)]
        | 1 => [(R.DENS_DECAY_MODE, 1), (R.DENS_DECAY_K, 2)]
        | 2 => [(R.DENS_DECAY_MODE, 1), (R.DENS_DECAY_K, 4)]
        | 3 => [(R.DENS_DECAY_MODE, 1), (R.DENS_DECAY_K, 7)]
        | 4 => [(R.DENS_DECAY_MODE, 3)]
        | _ => []),
     ("map_format", one (aOne ["INDEX8", "COUNT16"]), fun v => [(R.DENS_OUT_FORMAT, v.n 0)]),
     ("map_buffers", one (aInt 2 4), fun v => [(R.DENS_OUT_NBUF, v.n 0)]),
     ("sg_detector", one aDet, fun v => [(R.DENS_SG_CTRL_DET, v.n 0)]),
     ("sg_bins", firstLast, fun v => [(R.DENS_SG_BINS_FIRST, v.n 0), (R.DENS_SG_BINS_LAST, v.n 1)]),
     ("sg_group", one (aPow 1 128), fun v => [(R.DENS_SG_CTRL_CDEC, Nat.log2 (v.n 0))]),
     ("sg_format", oneOf [whole (aOne ["DB16"]), word "INDEX8" [aNum (-128) (12799 / 100), aNum 0 (25599 / 100)] 2], fun v =>
        if v.alt = 0 then [(R.DENS_SG_CTRL_FORMAT, 0)]
        else [(R.DENS_SG_CTRL_FORMAT, 1), (R.DENS_SG_IDX_FLOOR, encR 16 (v.q 0 * 256)), (R.DENS_SG_IDX_STEP, rnd (v.q 1 * 256))]),
     ("sg_ring_rows", one (aInt 1 1048575), fun v => [(R.DENS_SG_ROWS_ROWS, v.n 0)])] ++
  [{ pat := [.lit "dens", .inp, .lit "frame_hz"], val := one (aNum (1 / 1000) 1000000)
     act := fun a v s => setRate (leadOf (arg a 0)) R.DENS_FRAME_SPECTRA (v.q 0) s },
   { pat := [.lit "dens", .inp, .lit "sg_rows_hz"], val := one (aNum (1 / 1000) 1000000)
     act := fun a v s => setRate (leadOf (arg a 0)) R.DENS_SG_SPECTRA_R (v.q 0) s },
   { pat := [.lit "dens", .inp, .lit "map_scale"]
     val := oneOf [word "LINEAR" [aInt 1 65535] 1, word "LOG" [aInt 1 65535] 1, whole aSect]
     act := fun a v s =>
      let full := v.n 0
      let b := densB (leadOf (arg a 0))
      if v.alt = 2 then portFill (b + R.DENS_TAB_ADDR) (b + R.DENS_TAB_DATA) 0 (tableEntries s (v.text 0)) s
      else portFill (b + R.DENS_TAB_ADDR) (b + R.DENS_TAB_DATA) 1 ((List.range 255).map fun i =>
        if v.alt = 0 then ((i + 1) * full + 254) / 255 else if full = 1 then 1 else leastRoot 254 (full ^ i) 16 0) s }]

/-- Zoom channels and channel cores, which the planner places (R269, R316). -/
def keysZoom : List KeyRow :=
  ([("centre_hz", one (aNum 0 10240000000)),
    ("rate", oneOf [whole (aOne ["BW40M", "BW20M", "BW10M", "BW4M", "BW800K", "BW80K", "BW1K", "EXPERT"]),
      whole (aNum 1250 50000000)]),
    ("det_window", one (aInt 1 65535)), ("env_attack", one (aInt 0 15)), ("env_decay", one (aInt 0 15)),
    ("output", oneOf [whole (aOne ["off", "C24"]), word "C16" [aInt 0 8] 1]), ("block", one (aPow 256 65536)),
    ("ring_kib", one (aInt 1 16777215)), ("core", oneOf [whole (aOne ["off"]), whole aSect]),
    ("die", one (aOne ["AUTO", "LEAD", "PARTNER"]))] : List (String × Gram)).map
    (fun x => { pat := [.lit "zoom", .inp, .lit "ch", .num 256, .lit x.1], val := x.2 }) ++
  (([("code", one aSect), ("data", one aSect), ("cycles", one (aInt 1 65535)), ("warmup", one (aInt 0 16777215)),
    ("out0", oneOf [whole (aOne ["off"]), form ':' [aInt 0 255, aPow 64 4096] 2]),
    ("out1", oneOf [whole (aOne ["off"]), form ':' [aInt 0 255, aPow 64 4096] 2])] : List (String × Gram)).map
    fun x => { pat := [.lit "core", .name, .lit x.1], val := x.2 }) ++
  [{ pat := [.lit "core", .lit "reserve"], val := one (aInt 0 4)
     act := fun _ v s => (List.range 4).foldl (fun s t => setFld (cctlB t) R.CCTL_CFG_RESERVE (v.n 0) s) s },
   { pat := [.lit "core", .lit "catchup_mib"], val := one (aInt 16 16384)
     act := fun _ v s => (List.range 4).foldl (fun s t => setFld (cctlB t) R.CCTL_CU_SIZE_SIZE (v.n 0) s) s }]

/-- Power, hold-up and locks (R377, R402). A holdup key sets HOLDUP_EN and TEST_EN. -/
def keysPwr : List KeyRow :=
  let hold := [(R.PWR_CTRL_HOLDUP_EN, 1), (R.PWR_CTRL_TEST_EN, 1)]
  keysAt [.lit "power"] (fun _ => pwrB 0)
    [("cap_mw", one (aInt 0 131071), fun v => [(R.PWR_CAP_CAP, v.n 0)]),
     ("deep_sleep", one aOnOff, fun v => [(R.PWR_CTRL_DEEP_SLEEP, v.n 0)])] ++
  keysAt [.lit "holdup"] (fun _ => pwrB 0)
    [("nominal_mf", one (aNum 0 167772), fun v => (R.PWR_NAMEPLATE_C, rnd (v.q 0 * 100)) :: hold),
     ("vmin_mv", one (aInt 0 65535), fun v => (R.PWR_VMIN_VMIN, v.n 0) :: hold),
     ("derate_pct", one (aInt 0 100), fun v => (R.PWR_DERATE_DERATE, v.n 0) :: hold),
     ("reserve_mj", one (aInt 0 16777215), fun v => (R.PWR_RESERVE_RESERVE, v.n 0) :: hold),
     ("bleed_ohm", one (aInt 0 16777215), fun v => (R.PWR_BLEED_R, v.n 0) :: hold),
     ("divider", one (aInt 0 65535), fun v => (R.PWR_DIVIDER_RATIO, v.n 0) :: hold),
     ("test_s", one (aInt 0 65535), fun v => (R.PWR_TEST_CFG_INTERVAL, v.n 0) :: hold)] ++
  ([("debug_lock", R.BOOT_LOCK_DEBUG), ("nor_lock", R.BOOT_LOCK_NOR), ("plan_load_lock", R.BOOT_LOCK_PLAN_LOAD),
    ("cap_lock", R.BOOT_LOCK_CAP), ("fuse_lock", R.BOOT_LOCK_FUSE)] : List (String × Fld)).map fun x =>
      { pat := [.lit "security", .lit x.1], val := one aOnOff
        act := fun _ v s => if v.n 0 = 1 then setWl (bootB 0) x.2 1 s else s }

/-- Time base and PTP (R430). -/
def keysTime : List KeyRow :=
  keysAt [.lit "time"] (fun _ => timeB 0)
    [("slew_ppm", one (aInt 1 1000), fun v => [(R.TIME_CTRL_SLEW_PPM, v.n 0)]),
     ("revert_s", one (aInt 0 65535), fun v => [(R.TIME_SELECT_REVERT_S, v.n 0)]),
     ("lock_ns", one (aInt 1 65535), fun v => [(R.TIME_LOCK_LOCK_NS, v.n 0)]),
     ("lock_count", one (aInt 1 255), fun v => [(R.TIME_LOCK_LOCK_COUNT, v.n 0)])] ++
  [{ pat := [.lit "time", .lit "base", .num 4]
     val := oneOf [whole (aOne ["OFF"]), form ':' [aOne ["", "PTP0", "PTP1", "", "REF", "HOST"], aInt 0 15] 2,
      word "PPS" [aInt 0 15, aInt 0 15] 2]
     act := fun a v s => setFlds (dbB (arg a 0))
      (match v.alt with
       | 0 => [(R.TIME_DB_k_CFG_SRC, 0)]
       | 1 => [(R.TIME_DB_k_CFG_PRIO, v.n 1), (R.TIME_DB_k_CFG_SRC, v.n 0)]
       | _ => [(R.TIME_DB_k_CFG_PRIO, v.n 0), (R.TIME_DB_k_CFG_TDC, v.n 1), (R.TIME_DB_k_CFG_SRC, 3)]) s },
   { pat := [.lit "time", .lit "clock_id"], val := one (aHex 16)
     act := fun _ v s => if s.time.clockId.isSome then s else mboxPut 0 0x06 0 (v.n 0) s },
   { pat := [.lit "time", .lit "asym_ps", .num 2], val := one (aInt (-(2 ^ 31)) (2 ^ 31 - 1))
     act := fun a v s => setFld (timeB (arg a 0) + 0x10 * arg a 0) R.TIME_PORTp_ASYM_ASYM (encR 32 (v.q 0)) s },
   { pat := [.lit "ptp", .num 2, .lit "role", .num 2]
     val := one (aOne ["DISABLED", "BMCA", "SLAVE_ONLY", "MASTER_ONLY"])
     act := fun a v s => setFlds (ptpB 0 (arg a 0))
      [(if arg a 1 = 0 then R.TIME_PTP_i_CFG_ROLE0 else R.TIME_PTP_i_CFG_ROLE1, v.n 0), (R.TIME_PTP_i_CFG_EN, 1)] s }] ++
  keysAt [.lit "ptp", .num 2] (fun a => ptpB 0 (arg a 0))
    [("profile", one (aOne ["DEFAULT_E2E", "DEFAULT_P2P", "EXPERT"]), fun v =>
        if v.n 0 = 2 then [] else
          [(R.TIME_PTP_i_CFG_DELAY, v.n 0), (R.TIME_PTP_i_INTV_LOG_SYNC, 0), (R.TIME_PTP_i_INTV_LOG_ANNOUNCE, 1),
           (R.TIME_PTP_i_INTV_LOG_DELAY, 0), (R.TIME_PTP_i_INTV_ANNOUNCE_TO, 3), (R.TIME_PTP_i_INTV_SYNC_TO, 3),
           (R.TIME_PTP_i_DS_PRIORITY1, 128), (R.TIME_PTP_i_DS_PRIORITY2, 128), (R.TIME_PTP_i_DS_CLASS_LOCKED, 248),
           (R.TIME_PTP_i_DS_CLASS_HOLDOVER, 248)]),
     ("domain", one (aInt 0 127), fun v => [(R.TIME_PTP_i_CFG_DOMAIN, v.n 0)]),
     ("transport", one (aOne ["IPV4", "IPV6", "ETH"]), fun v => [(R.TIME_PTP_i_CFG_TRANSPORT, v.n 0)]),
     ("one_step", one aOnOff, fun v => [(R.TIME_PTP_i_CFG_ONESTEP, v.n 0)]),
     ("log_sync", one (aInt (-7) 4), fun v => [(R.TIME_PTP_i_INTV_LOG_SYNC, encR 4 (v.q 0))]),
     ("priority1", one (aInt 0 255), fun v => [(R.TIME_PTP_i_DS_PRIORITY1, v.n 0)]),
     ("priority2", one (aInt 0 255), fun v => [(R.TIME_PTP_i_DS_PRIORITY2, v.n 0)]),
     ("class_locked", one (aInt 0 255), fun v => [(R.TIME_PTP_i_DS_CLASS_LOCKED, v.n 0)]),
     ("class_holdover", one (aInt 0 255), fun v => [(R.TIME_PTP_i_DS_CLASS_HOLDOVER, v.n 0)])]

def tdcOf (a : List Nat) : Nat := tdcB (arg a 0 / 8) + 0x40 * (arg a 0 % 8)

/-- Event-timing inputs (R451). An interval unit's number counts on from H0's to H1's. -/
def keysTdc : List KeyRow :=
  let edge := aOne ["", "RISING", "FALLING"]
  keysAt [.lit "tdc", .num 16] tdcOf
    [("standard", oneOf [whole (aOne ["DIFF", "SE18"]), word "SE_THR" [aNum 0 1793] 1], fun v =>
        if v.alt = 0 then [(R.TDC_n_CFG_STD, v.n 0)]
        else [(R.TDC_n_CFG_STD, 2), (R.TDC_n_CFG_THRESH, min 255 (rnd (v.q 0 * 128 / 900)))]),
     ("termination", one aOnOff, fun v => [(R.TDC_n_CFG_TERM, v.n 0)]),
     ("edge", one (aOne ["", "RISING", "FALLING", "BOTH"]), fun v => [(R.TDC_n_CFG_EDGE, v.n 0)]),
     ("board_delay_ps", one (aNum (-25600000) 25600000), fun v => [(R.TDC_n_DELAY_BOARD_DELAY, encR 24 (v.q 0 * 32768 / 100000))]),
     ("gate", oneOf [whole (aOne ["CLOSED", "OPEN"]), word "COUNT" [aInt 1 16777215] 1], fun v =>
        if v.alt = 0 then [(R.TDC_n_GATE_MODE, v.n 0)] else [(R.TDC_n_GATE_COUNT, v.n 0), (R.TDC_n_GATE_MODE, 3)]),
     ("presence", oneOf [whole (aOne ["off"]), form ':' [aInt 1 (2 ^ 32 - 1), aInt 0 65535, aInt 0 255] 3], fun v =>
        if v.alt = 0 then [(R.TDC_n_PERIOD_PERIOD, 0)]
        else [(R.TDC_n_PRES_TOL, v.n 1), (R.TDC_n_PRES_COUNT, v.n 2), (R.TDC_n_PERIOD_PERIOD, v.n 0)]),
     ("watermark", one (aInt 1 4095), fun v => [(R.TDC_n_CFG_WMARK, v.n 0)]),
     ("enable", one aOnOff, fun v => [(R.TDC_n_CFG_EN, v.n 0)])] ++
  [{ pat := [.lit "tdc", .lit "interval", .num 8]
     val := oneOf [whole (aOne ["off"]), form ':' [aInt 0 7, edge, aInt 0 7, edge, aInt 1 (2 ^ 32 - 1)] 5]
     act := fun a v s => setFlds (tdcB (arg a 0 / 4) + 0x40 * (arg a 0 % 4))
      (if v.alt = 0 then [(R.IV_m_CFG_EN, 0)]
       else [(R.IV_m_CFG_START, v.n 0), (R.IV_m_CFG_START_EDGE, v.n 1), (R.IV_m_CFG_STOP, v.n 2),
        (R.IV_m_CFG_STOP_EDGE, v.n 3), (R.IV_m_WINDOW_W, v.n 4), (R.IV_m_CFG_EN, 1)]) s }]

/-- Keys that set the same fields of both hubs. -/
def keysBoth (pre : String) (b : Nat → List Nat) (l : List (String × Gram × (KeyVal → List (Fld × Nat)))) : List KeyRow :=
  l.map fun x => { pat := [.lit pre, .lit x.1], val := x.2.1
                   act := fun _ v s => (b 0 ++ b 1).foldl (fun s a => setFlds a (x.2.2 v) s) s }

/-- The flash stores (R481, R484). -/
def keysNfs : List KeyRow :=
  keysBoth "nfs" (fun h => [nfsB h])
    [("stripe_width", one (aInt 4 32), fun v => [(R.NFS_CTRL_WIDTH, v.n 0)]),
     ("full", one (aOne ["STOP", "OVERWRITE"]), fun v => [(R.NFS_CTRL_FULL, v.n 0)]),
     ("seal_ms", one (aInt 0 4095), fun v => [(R.NFS_CTRL_SEAL_MS, v.n 0)]),
     ("encryption", one (aOne ["OFF", "DEVICE", "HOST"]), fun v => [(R.NFS_CTRL_CRYPTO, v.n 0)]),
     ("patrol_days", one (aInt 1 511), fun v => [(R.NFS_PATROL_DAYS, v.n 0)]),
     ("retain_days", one (aInt 1 4095), fun v => [(R.NFS_PATROL_RETAIN_D, v.n 0)]),
     ("refresh_bits", one (aInt 1 255), fun v => [(R.NFS_PATROL_REFRESH_BITS, v.n 0)]),
     ("read_limit", one (aInt 1000 (2 ^ 32 - 1)), fun v => [(R.NFS_READ_LIMIT_LIMIT, v.n 0)]),
     ("pe_limit", one (aInt 100 65535), fun v => [(R.NFS_MEDIA_PE_LIMIT, v.n 0)]),
     ("wear_spread", one (aInt 100 4095), fun v => [(R.NFS_MEDIA_WEAR_SPREAD, v.n 0)]),
     ("spare_pct", one (aInt 1 10), fun v => [(R.NFS_MEDIA_SPARE_PCT, v.n 0)]),
     ("free_min", one (aInt 1 8), fun v => [(R.NFS_FREE_MIN_SUPERBLOCKS, v.n 0)]),
     ("rebuild_mbps", one (aInt 100 8000), fun v => [(R.NFS_REBUILD_MBPS, v.n 0)]),
     ("tag_limit", one (aInt 4096 65536), fun v => [(R.NFS_TAGS_LIMIT, v.n 0)])] ++
  [{ pat := [.lit "nfs", .lit "format"], val := one (aOne ["BLANK", "NEVER"])
     act := fun _ v s => [0, 1].foldl (fun s h => s.modNfs h fun q => { q with neverFormat := v.n 0 == 1 }) s }]

/-- The capture memory (R493, R510). -/
def keysDdr : List KeyRow :=
  keysBoth "ddr" (fun h => [ddrChB h 0, ddrChB h 1])
    [("max_mts", one (aOne ["4800", "5600", "6400", "7200", "8000"]), fun v => [(R.DDR_c_CFG_MAX_MTS, v.n 0)]),
     ("dev_limit", one (aInt 1 65535), fun v => [(R.DDR_c_ECC_DEV_LIMIT, v.n 0)]),
     ("write_watermarks", fun l => match oneOf [form ':' [aInt 1 256, aInt 1 256] 2] l with
        | some v => if v.n 1 < v.n 0 then some v else none
        | none => none, fun v => [(R.DDR_c_WQ_HIGH, v.n 0), (R.DDR_c_WQ_LOW, v.n 1)])] ++
  [{ pat := [.lit "ddr", .lit "scrub_hours"], val := one (aInt 0 255)
     act := fun _ v s => [0, 1].foldl (fun s h =>
      let s := setFld (ddrB h) R.DDR_CTRL_SCRUB_EN (b2n (v.n 0 != 0)) s
      [0, 1].foldl (fun s c => setFld (ddrChB h c) R.DDR_c_SCRUB_HOURS (v.n 0) s) s) s },
   { pat := [.lit "ddr", .lit "sr_idle_us"], val := one (aInt 0 65535)
     act := fun _ v s => [0, 1].foldl (fun s h =>
      let s := setFld (ddrB h) R.DDR_CTRL_SR_EN (b2n (v.n 0 != 0)) s
      [0, 1].foldl (fun s c => setFld (ddrChB h c) R.DDR_c_SR_IDLE_US (v.n 0) s) s) s }]

/-- DMA programs of the host channels (R534). The program itself is loaded with the image's sections. -/
def keysDma : List KeyRow :=
  let at_ := fun (a : List Nat) (f : Fld) (v : Nat) (s : State) => [0, 1].foldl (fun s h =>
    setFld (dmaB h + 0x40 * arg a 0) f v s) s
  [{ pat := [.lit "dma", .lit "host_channels"], val := one (aInt 0 16)
     act := fun _ v s => [0, 1].foldl (fun s h => setFld (dmaB h) R.DMA_CFG_HOST_CH (v.n 0) s) s },
   { pat := [.lit "dma", .num 16, .lit "program"], val := one aSect },
   { pat := [.lit "dma", .num 16, .lit "start"], val := one (aInt 0 1023) },
   { pat := [.lit "dma", .num 16, .lit "run"], val := one aOnOff, act := fun a v s => at_ a R.DMA_k_CTRL_RUN (v.n 0) s },
   { pat := [.lit "dma", .num 16, .lit "priority"], val := one (aInt 0 3)
     act := fun a v s => at_ a R.DMA_k_CFG_PRIO (v.n 0) s },
   { pat := [.lit "dma", .num 16, .lit "tags"], val := one (aInt 1 4095)
     act := fun a v s => at_ a R.DMA_k_CFG_TAGS (v.n 0) s }]

/-- An address prefix: IPv4 or IPv6 address and length. -/
def prefixForm : Form := fun l =>
  match form '/' [aIp4, aInt 0 32] 2 l with
  | some v => some (v ++ [.num 0])
  | none => (form '/' [aIp6, aInt 0 128] 2 l).map (· ++ [.num 1])

/-- The value of a route (R556): IPv6 flag, destination, UDP port, VRT, PCP, MAXPAY in bytes, DROP, queue in KiB. The parts
after the port may each be left out; an IPv6 destination stands in brackets. -/
def routeValue : Gram := fun l =>
  let dest : Option (List KAtom × List Byte) :=
    match l with
    | b :: r =>
      if b = 91 then
        let a := r.takeWhile (· != 93)
        (parseIp6 a).map fun n => ([.num 1, .num n], r.drop (a.length + 1))
      else
        let a := l.takeWhile (· != 58)
        (parseIp4 a).map fun n => ([.num 0, .num n], l.drop a.length)
    | [] => none
  let opt := fun (p : Atom) (d : Rat) (x : List (List Byte)) =>
    match x with
    | t :: r => match p t with | some a => (KAtom.num a.q, r) | none => (.num d, x)
    | [] => (.num d, [])
  match dest with
  | some (d, 58 :: r) =>
    match splitBy ':' r with
    | port :: r =>
      match aInt 1 65535 port with
      | some port =>
        let (fmt, r) := opt (aOne ["NATIVE", "VRT"]) 0 r
        let (pcp, r) := opt (aInt 0 7) 0 r
        let (pay, r) := opt (aInt 0 16380) 8192 r
        let (full, r) := opt (aOne ["WAIT", "DROP"]) 0 r
        let (q, r) := opt (aInt 0 4096) 512 r
        if r.isEmpty then some [(0, d ++ [port, fmt, pcp, pay, full, q])] else none
      | none => none
    | [] => none
  | _ => none

/-- The Ethernet ports (R556). Streams of a route are the planner's. -/
def keysEth : List KeyRow :=
  keysAt [.lit "eth", .hub] (fun a => ethB (arg a 0))
    [("mode", one (aOne ["KR4", "CAUI4", "BREAKOUT"]), fun v => [(R.ETH_CTRL_MODE, v.n 0)]),
     ("fec", one aOnOff, fun v => [(R.ETH_CTRL_FEC, v.n 0)]),
     ("mac", one (aHex 12), fun v => [(R.ETH_MAC_LO_MAC, v.n 0 % 2 ^ 32), (R.ETH_MAC_HI_MAC, v.n 0 / 2 ^ 32)]),
     ("ipv4", oneOf [form '/' [aIp4, aInt 0 32] 2], fun v => [(R.ETH_IP4_ADDR, v.n 0), (R.ETH_IP4_CFG_PREFIX, v.n 1)]),
     ("gateway", one aIp4, fun v => [(R.ETH_GW4_GW, v.n 0)]),
     ("mtu", one (aInt 1500 9000), fun v => [(R.ETH_CFG_MTU, v.n 0)]),
     ("vlan", oneOf [whole (aOne ["off"]), form ':' [aInt 0 4095, aInt 0 7] 2], fun v =>
        if v.alt = 0 then [(R.ETH_CFG_VLAN_EN, 0)]
        else [(R.ETH_CFG_VLAN_EN, 1), (R.ETH_CFG_VID, v.n 0), (R.ETH_CFG_MGMT_PCP, v.n 1)]),
     ("flow_control", one (aOne ["IGNORE", "PAUSE", "PFC"]), fun v => [(R.ETH_FC_MODE, v.n 0)])] ++
  [{ pat := [.lit "eth", .hub, .lit "ipv6"], val := one aIp6
     act := fun a v s => setFld (ethB (arg a 0)) R.ETH_IP4_CFG_IP6_EN 1 (mboxPut (arg a 0) 0x70 0 (v.n 0) s) },
   { pat := [.lit "eth", .lit "mgmt", .lit "port"], val := one (aInt 1 65535)
     act := fun _ v s => [0, 1].foldl (fun s h => setFld (ethB h) R.ETH_MGMT_PORT (v.n 0) s) s },
   { pat := [.lit "eth", .lit "mgmt", .lit "auth"], val := one aOnOff
     act := fun _ v s => [0, 1].foldl (fun s h => setFld (ethB h) R.ETH_MGMT_AUTH (v.n 0) s) s },
   { pat := [.lit "eth", .lit "mgmt", .lit "allow"]
     val := fun l => match listOf prefixForm l with | some v => if v.length ≤ 8 then some v else none | none => none
     act := fun _ v s => [0, 1].foldl (fun s h =>
      let s := v.zipIdx.foldl (fun s x =>
        let p : KeyVal := [x.1]
        mboxPut h 0x72 x.2 (p.n 0 + 2 ^ 128 * (p.n 1 + 256 * p.n 2)) s) s
      setFld (ethB h) R.ETH_MGMT_ALLOW_EN (2 ^ v.length - 1) s) s },
   { pat := [.lit "eth", .lit "trigger", .lit "port"], val := one (aInt 1 65535)
     act := fun _ v s => [0, 1].foldl (fun s h => setFld (ethB h) R.ETH_TRIG_PORT (v.n 0) s) s },
   { pat := [.lit "eth", .lit "trigger", .lit "group"], val := oneOf [whole aIp4, whole aIp6]
     act := fun _ v s => [0, 1].foldl (fun s h =>
      if v.alt = 0 then setFlds (ethB h) [(R.ETH_TRIG_IP6, 0), (R.ETH_TRIG_GROUP4_GROUP, v.n 0)] s
      else setFld (ethB h) R.ETH_TRIG_IP6 1 (mboxPut h 0x71 0 (v.n 0) s)) s },
   { pat := [.lit "eth", .lit "route", .name], val := routeValue }]

/-- The entries of a palette preset (R576): GREY, HEAT, SPECTRUM. -/
def paletteEntry (p i : Nat) : Nat :=
  let j := i % 64
  let up := 255 * j / 63
  let dn := 255 - up
  let rgb := fun r g b : Nat => r * 65536 + g * 256 + b
  (if i = 0 then 0 else 255 * 2 ^ 24) +
    (match p with
     | 0 => rgb i i i
     | 1 => if i < 85 then rgb (3 * i) 0 0 else if i < 170 then rgb 255 (3 * (i - 85)) 0 else rgb 255 255 (3 * (i - 170))
     | _ => match i / 64 with
       | 0 => rgb 0 up 255
       | 1 => rgb 0 255 dn
       | 2 => rgb up 255 0
       | _ => rgb 255 dn 0)

/-- The display (R562, R576). -/
def keysDisp : List KeyRow :=
  let link := fun l => (aOne ["1.62", "2.16", "2.43", "2.7", "3.24", "4.32", "5.4", "8.1"] l)
  let qhd := [(R.DISP_H_HACTIVE, 2560), (R.DISP_V_VACTIVE, 1440), (R.DISP_VBLANK_VFP, 71), (R.DISP_PCLK_FRAC, 12664701)]
  keysAt [.lit "disp", .hub] (fun a => dispB (arg a 0))
    [("mode", one (aOne ["UHD60", "QHD120", "QHD_VRR", "EXPERT"]), fun v =>
        let every := [(R.DISP_HBLANK_HFP, 8), (R.DISP_HBLANK_HSYNC, 32), (R.DISP_HBLANK_HBP, 40), (R.DISP_VBLANK_VSYNC, 8),
          (R.DISP_VBLANK_VBP, 6), (R.DISP_CTRL_BPC, 1), (R.DISP_LINK_LANES, 2), (R.DISP_LINK_RATE, 6)]
        match v.n 0 with
        | 0 => every ++ [(R.DISP_H_HACTIVE, 3840), (R.DISP_V_VACTIVE, 2160), (R.DISP_VBLANK_VFP, 48),
            (R.DISP_PCLK_FRAC, 13700023), (R.DISP_CTRL_VRR, 0)]
        | 1 => every ++ qhd ++ [(R.DISP_CTRL_VRR, 0)]
        | 2 => every ++ qhd ++ [(R.DISP_CTRL_VRR, 1), (R.DISP_VRR_VFP_MAX, 2358)]
        | _ => []),
     ("link", oneOf [form ':' [aOne ["1", "2", "4"], link, aOne ["ssc"]] 2], fun v =>
        [(R.DISP_LINK_LANES, v.n 0), (R.DISP_LINK_RATE, v.n 1), (R.DISP_LINK_SSC, b2n (v.has 2))]),
     ("bpc", one (aOne ["6", "8"]), fun v => [(R.DISP_CTRL_BPC, v.n 0)]),
     ("prefill", one (aInt 1 4), fun v => [(R.DISP_CTRL_PREFILL, v.n 0)]),
     ("background", one (aHex 6), fun v => [(R.DISP_BG_RGB, v.n 0)])] ++
  [{ pat := [.lit "disp", .hub, .lit "deadline_lines"], val := one (aInt 1 4096)
     act := fun a v s => setFld (dispB (arg a 0)) R.DISP_DEADLINE_LINE
      (s.rd (dispB (arg a 0)) R.DISP_V_VACTIVE - v.n 0) s },
   { pat := [.lit "disp", .hub, .lit "layer", .num 4, .lit "source"]
     val := oneOf [whole (aOne ["off"]), form '.' [aOne ["dens"], aOne ["a0", "a1"], aOne ["map", "sg"]] 3] },
   { pat := [.lit "disp", .hub, .lit "layer", .num 4, .lit "palette"], val := one (aOne ["GREY", "HEAT", "SPECTRUM", "EXPERT"])
     act := fun a v s =>
      let b := dispB (arg a 0)
      if v.n 0 = 3 then s
      else portFill (b + R.DISP_PAL_ADDR) (b + R.DISP_PAL_DATA) (256 * arg a 1) ((List.range 256).map (paletteEntry (v.n 0))) s }] ++
  keysAt [.lit "disp", .hub, .lit "layer", .num 4] (fun a => dispB (arg a 0) + 0x40 * arg a 1)
    [("position", oneOf [form ':' [aInt 0 8191, aInt 0 8191] 2], fun v =>
        [(R.DISP_LAYER_k_POS_X, v.n 0), (R.DISP_LAYER_k_POS_Y, v.n 1)]),
     ("scale", oneOf [form ':' [aInt 1 4, aInt 1 4] 2], fun v =>
        [(R.DISP_LAYER_k_CTRL_HREP, v.n 0 - 1), (R.DISP_LAYER_k_CTRL_VREP, v.n 1 - 1)])]

/-- The fraction of denominator below 2^24 nearest to `q`, by its continued fraction: numerator and denominator. -/
def nearFrac (q : Rat) : (fuel : Nat) → (p0 q0 p1 q1 : Nat) → Nat × Nat
  | 0, _, _, p1, q1 => (p1, q1)
  | n + 1, p0, q0, p1, q1 =>
    let a := (q.num / (q.den : Int)).toNat
    let p := a * p1 + p0
    let d := a * q1 + q0
    let r := q - a
    if 2 ^ 24 ≤ d then (p1, q1) else if r = 0 then (p, d) else nearFrac (1 / r) n p1 q1 p d

/-- An output of frequency `hz` from OUT: the largest DIV that keeps the VCO at or below 6400 MHz, and the multiplier
(R592, R596). -/
def clkOut (h o : Nat) (hz : Rat) (fmt src : Nat) (pct : Rat) (s : State) : State :=
  let b := clkB h
  let ob := b + 0x10 * o
  let ref : Rat := refMhz (s.rd (clkB 0) R.CLK_REF_FREQ) * 1000000
  let div := max 1 (6400000000 / hz).floor.toNat
  let n := hz * div / ref
  let int := n.floor.toNat
  let fr := nearFrac (n - int) 40 0 1 1 0
  let s := setFlds ob [(R.CLK_OUT_o_CFG_FMT, fmt), (R.CLK_OUT_o_CFG_SRC, src),
    (R.CLK_OUT_o_FMAX_FMAX, min 65535 (ceilRat (hz * pct / 100 / 100000)))] s
  if src ≠ 0 then s
  else
    let s := setFlds ob [(R.CLK_OUT_o_DIV_DIV, div), (R.CLK_OUT_o_HOLD_DIV, min 1023 (rnd (5120000000 / hz)))] s
    setFlds b [(R.CLK_OUT_N_INT, int), (R.CLK_OUT_FRAC_FRAC, fr.1), (R.CLK_OUT_MOD_MOD, fr.2)] s

/-- Clocks (R596). -/
def keysClk : List KeyRow :=
  keysAt [.lit "clock"] (fun _ => clkB 0)
    [("ref_mhz", one (aOne ["10", "100", "160"]), fun v => [(R.CLK_REF_FREQ, v.n 0)]),
     ("ref_mode", one (aOne ["REF0", "REF1", "AUTO"]), fun v => [(R.CLK_REF_MODE, v.n 0)]),
     ("revert_s", one (aInt 0 255), fun v => [(R.CLK_REF_REVERT_S, v.n 0)]),
     ("locka_src", one (aOne ["SYS", "OUT"]), fun v => [(R.CLK_LOCKA_SRC, v.n 0)])] ++
  keysBoth "clock" (fun h => [clkB h])
    [("lock", one (aOne ["COUNTER", "LOCKA", "BOTH"]), fun v => [(R.CLK_LOCK_CFG_METHOD, v.n 0)]),
     ("dither", one aOnOff, fun v => [(R.CLK_DITHER_SYS_DITH, v.n 0), (R.CLK_DITHER_OUT_DITH, v.n 0)]),
     ("seed", one (aInt 1 (2 ^ 23 - 1)), fun v => [(R.CLK_DITHER_SEED, v.n 0)]),
     ("sync", one aOnOff, fun v => [(R.CLK_DITHER_SYNC, v.n 0)])] ++
  [{ pat := [.lit "clock", .lit "ref_format", .num 2], val := one (aOne ["DIFF", "SE18"])
     act := fun a v s => setFld (clkB 0) (if arg a 0 = 0 then R.CLK_REF_FMT_0 else R.CLK_REF_FMT_1) (v.n 0) s },
   { pat := [.lit "clock", .hub, .lit "out", .num 3]
     val := oneOf [whole (aOne ["off"]),
      form ':' [aNum 1 6400000000, aOne ["OFF", "LVDS", "HCSL", "CML", "LVCMOS", "LVCMOS_INV"],
        aOne ["OUT", "SYSREF", "TCLK", "REF"], aNum 100 200] 2]
     act := fun a v s =>
      if v.alt = 0 then setFld (clkB (arg a 0) + 0x10 * arg a 1) R.CLK_OUT_o_CFG_FMT 0 s
      else clkOut (arg a 0) (arg a 1) (v.q 0) (v.n 1) (v.n 2) (if v.has 3 then v.q 3 else 105) s },
   { pat := [.lit "clock", .hub, .lit "sysref"]
     val := oneOf [form ':' [aOne ["OFF", "ONESHOT", "", "PERIODIC"], aNum 50 3276750] 1,
      word "PULSES" [aInt 1 4095, aNum 50 3276750] 1]
     act := fun a v s => setFlds (clkB (arg a 0))
      ((if v.alt = 0 then [(R.CLK_SYSREF_MODE, v.n 0)] else [(R.CLK_SYSREF_PULSES, v.n 0), (R.CLK_SYSREF_MODE, 2)])
        ++ (if v.has 1 then [(R.CLK_SYSREF_PERIOD, rnd (v.q 1 / 50))] else [])) s }]

/-- A converter's sequence: entries of channel, gain and sampling code. -/
def hkSequence (h c : Nat) (l : List (Nat × Nat × Nat)) (s : State) : State :=
  let b := hkaB h + 0x100 * c
  let s := l.zipIdx.foldl (fun s x => setFlds (b + 4 * x.2)
    [(R.HK_c_SEQ_e_CHAN, x.1.1), (R.HK_c_SEQ_e_GAIN, x.1.2.1), (R.HK_c_SEQ_e_SAMP, x.1.2.2)] s) s
  setFld b R.HK_c_CTRL_LEN l.length s

/-- Housekeeping and PWM (R613). A gain of 1, 2, 4 or 8 is codes 0 to 3; a sequence and its trigger enable the
converter. -/
def keysHk : List KeyRow :=
  [{ pat := [.lit "hk", .hub, .num 2, .lit "sequence"]
     val := fun l => match one (aOne ["RAILS"]) l with
      | some v => some v
      | none => match listOf (form ':' [aInt 0 31, aOne ["1", "2", "4", "8"], aInt 0 7] 3) l with
        | some v => if v.length ≤ 16 then some (v.map fun x => (1, x.2)) else none
        | none => none
     act := fun a v s => hkSequence (arg a 0) (arg a 1)
      (if v.alt = 0 then ((List.range 9).map (· + 8) ++ [20, 21, 22, 23]).map fun c => (c, 0, 1)
       else v.map fun x => let p : KeyVal := [x]; (p.n 0, p.n 1, p.n 2)) s },
   { pat := [.lit "hk", .hub, .num 2, .lit "trigger"]
     val := oneOf [whole (aOne ["SOFTWARE"]), word "TIMER" [aInt 1 1048575] 1,
      word "PWM" [aInt 0 3, aOne ["RISING", "FALLING"], aNum 0 255938] 3, whole (aOne ["CONTINUOUS"])]
     act := fun a v s => setFlds (hkaB (arg a 0) + 0x100 * arg a 1)
      ((match v.alt with
        | 1 => [(R.HK_c_TIMER_PERIOD, v.n 0)]
        | 2 => [(R.HK_c_CTRL_PWM_SEL, v.n 0), (R.HK_c_CTRL_PWM_EDGE, v.n 1), (R.HK_c_CTRL_DELAY, min 4095 (rnd (v.q 2 * 2 / 125)))]
        | _ => []) ++ [(R.HK_c_CTRL_TRIG, v.alt), (R.HK_c_CTRL_EN, 1)]) s },
   { pat := [.lit "hk", .hub, .num 2, .lit "limit", .num 16]
     val := oneOf [whole (aOne ["off"]), form ':' [aInt (-2048) 4095, aInt (-2048) 4095] 2]
     act := fun a v s => setFlds (hkaB (arg a 0) + 0x100 * arg a 1 + 4 * arg a 2)
      (if v.alt = 0 then [(R.HK_c_LIM_e_EN, 0)]
       else [(R.HK_c_LIM_e_LO, encR 12 (v.q 0)), (R.HK_c_LIM_e_HI, encR 12 (v.q 1)), (R.HK_c_LIM_e_EN, 1)]) s },
   { pat := [.lit "hk", .hub, .lit "pair", .num 8]
     val := oneOf [whole (aOne ["off"]), form ':' [aInt 0 15, aInt 0 15, aInt 0 15, aInt 1 4095, aInt 1 15] 5]
     act := fun a v s => setFlds (pairB (arg a 0) (arg a 1))
      (if v.alt = 0 then [(R.HK_PL_k_CFG_EN, 0)]
       else [(R.HK_PL_k_CFG_ENT0, v.n 0), (R.HK_PL_k_CFG_ENT1, v.n 1), (R.HK_PL_k_CFG_TOL, v.n 2),
        (R.HK_PL_k_CFG_WINDOW, v.n 3), (R.HK_PL_k_CFG_FAILS, v.n 4), (R.HK_PL_k_CFG_EN, 1)]) s },
   { pat := [.lit "hk", .hub, .lit "rail", .num 8]
     val := oneOf [whole (aOne ["off"]), form ':' [aInt 0 31, aInt 0 31, aNum 0 1024] 3]
     act := fun a v s => setFlds (hkaB (arg a 0) + 4 * arg a 1)
      (if v.alt = 0 then [(R.HK_RAIL_r_EN, 0)]
       else [(R.HK_RAIL_r_VSRC, v.n 0), (R.HK_RAIL_r_ISRC, v.n 1), (R.HK_RAIL_r_ISCALE, min 4095 (rnd (v.q 2 * 4))),
        (R.HK_RAIL_r_EN, 1)]) s },
   { pat := [.lit "pwm", .hub, .num 4]
     val := oneOf [whole (aOne ["off"]), fun l =>
      match splitBy ':' l with
      | f :: d :: r =>
        match aNum 2441 80000000 f, aNum 0 100 d with
        | some f, some d => (r.mapM (aOne ["INV", "CHARGER", "idle_high"])).map fun w => f :: d :: w
        | _, _ => none
      | _ => none]
     act := fun a v s =>
      let b := pwmB (arg a 0) (arg a 1)
      let w := (v.atoms.drop 2).map fun x => (roundRat x.q).toNat
      let per := min 65535 (rnd (160000000 / max 1 (v.q 0)))
      if v.alt = 0 then setFld b R.HK_PWM_p_CFG_EN 0 s
      else setFlds b [(R.HK_PWM_p_PERIOD_PERIOD, per), (R.HK_PWM_p_DUTY_DUTY, rnd (per * v.q 1 / 100)),
        (R.HK_PWM_p_CFG_POL, b2n (w.contains 0)), (R.HK_PWM_p_CFG_CHARGER, b2n (w.contains 1)),
        (R.HK_PWM_p_CFG_IDLE, b2n (w.contains 2)), (R.HK_PWM_p_CFG_EN, 1)] s }]

/-- Fault collection (R629). -/
def keysFault : List KeyRow :=
  [{ pat := [.lit "fault", .lit "src", .num 256]
     val := oneOf [form ':' [aOne ["NOTICE", "FAULT", "SEVERE"], aInt 0 3, aOne ["irq", "norepair"], aOne ["irq", "norepair"]] 2]
     act := fun a v s =>
      let w := (v.atoms.drop 2).map fun x => (roundRat x.q).toNat
      s.hubList.foldl (fun s h =>
        let sel := s.rd (fcolB h) R.FCOL_SRC_SEL_SOURCE
        let s := s.wr (fcolB h) R.FCOL_SRC_SEL_SOURCE (arg a 0)
        let s := srcCfgWrite h (v.n 0 + 16 * v.n 1 + 256 * b2n (w.contains 0) + 512 * b2n (!w.contains 1)) s
        s.wr (fcolB h) R.FCOL_SRC_SEL_SOURCE sel) s },
   { pat := [.lit "fault", .lit "profile", .num 4]
     val := oneOf [form ':' [aInt 0 255, aInt 0 65535, aInt 0 16777215, aInt 0 255] 4]
     act := fun a v s => [0, 1].foldl (fun s h => setFlds (profB h (arg a 0))
      [(R.FCOL_PROF_p_PROMOTE_N, v.n 0), (R.FCOL_PROF_p_WINDOW_MS, v.n 1), (R.FCOL_QUIET_p_QUIET_MS, v.n 2),
       (R.FCOL_PROF_p_RECOVER_LIMIT, v.n 3)] s) s },
   { pat := [.lit "fault", .lit "alive_ms"], val := one (aInt 1 65535)
     act := fun _ v s => [0, 1].foldl (fun s h => setFld (fcolB h) R.FCOL_ALIVE_PERIOD_MS (v.n 0) s) s },
   { pat := [.lit "fault", .lit "irq"], val := listOf (whole (aOne ["NOTICE", "FAULT"]))
     act := fun _ v s => [0, 1].foldl (fun s h => setFlds (fcolB h)
      [(R.FCOL_CTRL_IRQ_NOTICE, bitsOf (trigMask v) 0 1), (R.FCOL_CTRL_IRQ_FAULT, bitsOf (trigMask v) 1 1)] s) s }]

/-- Keys of a plan that are not block keys (R344, R484). -/
def keysPlan : List KeyRow :=
  [{ pat := [.lit "inputs"], val := one (aOne ["", "a0", "a1", "both"]) },
   { pat := [.lit "eth"], val := listOf (form ':' [aText, aText] 2) },
   { pat := [.lit "flash_protect"], val := one aOnOff }]

def keyRows : List KeyRow :=
  keysAcq ++ keysJrx ++ keysWb ++ keysTrg ++ keysRec ++ keysDens ++ keysZoom ++ keysPwr ++ keysTime ++ keysTdc ++
    keysNfs ++ keysDdr ++ keysDma ++ keysEth ++ keysDisp ++ keysClk ++ keysHk ++ keysFault

/-- A key and its value as a record holds them. -/
abbrev KeyRec := List Byte × List Byte

/-- The row of a key with the numbers in its name. -/
def findKey (rows : List KeyRow) (key : List Byte) : Option (KeyRow × List Nat) :=
  let p := splitBy '.' key
  rows.findSome? fun r => (matchSegs r.pat p).map fun a => (r, a)

/-- The parsed value of a known key. -/
def keyValue (rows : List KeyRow) (k : KeyRec) : Option (KeyRow × List Nat × KeyVal) :=
  match findKey rows k.1 with
  | some (r, a) => (r.val k.2).map fun v => (r, a, v)
  | none => none

/-- Whether a record is a key error: unknown, unparsable or out of range, or naming a section that is not in `names`
(R390). -/
def keyError (rows : List KeyRow) (names : List (List Byte)) (k : KeyRec) : Bool :=
  match keyValue rows k with
  | none => true
  | some (_, _, v) => v.any fun x => x.2.any fun t => match t with | .sect l => !names.contains l | _ => false

/-- What a key sets. -/
def keyApply (k : KeyRec) (s : State) : State :=
  match keyValue keyRows k with
  | some (r, a, v) => r.act a v s
  | none => s

/-- Whether a key outside any plan is a device key: its block is none of those that plans set, or it sets a WL field
(R401). -/
def deviceKey (key : List Byte) : Bool :=
  let b := (splitBy '.' key).headD []
  key == asc "trg.engine_id" || key == asc "trg.array_id" ||
    !(["acq", "wb", "trg", "rec", "dens", "zoom", "core"].any fun t => asc t == b)

/-- Keys that a record's own header holds, and so are errors in a plan record (R385). -/
def headerKey (key : List Byte) : Bool :=
  ["start", "duration_s", "period_s", "priority", "spares", "wake", "wait_fit", "unprotected", "staging_mib"].any fun t =>
    asc t == key

/-- The key records of a section: a later record of the same key takes the place of the earlier one; a malformed record
ends the section and is one key error (R384). -/
def keyRecords : (fuel : Nat) → List Byte → List KeyRec → List KeyRec × Nat
  | 0, _, acc => (acc, 0)
  | _, [], acc => (acc, 0)
  | n + 1, l, acc =>
    let k := ofLe (l.take 2)
    let v := ofLe ((l.drop 2).take 2)
    let size := ceilTo 4 (4 + k + v)
    if l.length < 4 ∨ k = 0 ∨ 255 < k ∨ 4095 < v ∨ l.length < 4 + k + v then (acc, 1)
    else
      let key := (l.drop 4).take k
      let val := (l.drop (4 + k)).take v
      let acc := if acc.any (·.1 == key) then acc.map fun r => if r.1 == key then (key, val) else r else acc ++ [(key, val)]
      keyRecords n (l.drop size) acc

end Sys2Proof.Machine
end

