-- ==== Sys2Proof/Machine/Place.lean ====
section
/-! DEFINITION. Placement: the keys that act for a plan, and where the planner puts its pipelines, zoom channels,
programs, masks and routes (R269, R316, R317, R344, R352 to R354, R541, R556). -/

namespace Sys2Proof.Machine

/-! The keys of a plan (R344). -/

/-- The inputs a plan uses. -/
def planInputs (s : State) (n : Nat) : List Nat :=
  (List.range s.inputs).filter fun i => bit (s.rd (planNB n) R.PLAN_n_CFG_INPUTS) i

/-- The input that a block key names. -/
def keyInput (key : List Byte) : Option Nat :=
  match (splitBy '.' key)[1]? with
  | some x => [asc "a0", asc "a1"].findIdx? (· == x)
  | none => none

/-- The keys that act for plan `n`: its own, and the plan defaults of the inputs it uses. -/
def effKeys (s : State) (n : Nat) : List KeyRec :=
  let own := (s.planSt n).keys
  (s.boot.keys.filter fun k =>
    !deviceKey k.1 && !own.any (·.1 == k.1) &&
      (match keyInput k.1 with | some i => (planInputs s n).contains i | none => true)) ++ own

/-- The value of key `name` among `keys`. -/
def keyOf (keys : List KeyRec) (name : List Byte) : Option KeyVal :=
  (keys.find? (·.1 == name)).bind fun k => (keyValue keyRows k).map (·.2.2)

/-! Pipelines (R353). -/

/-- The pipelines of the dies of an input's pair that are not broken, lead die first, each as 4 * die + pipe. -/
def pairPipes (s : State) (i : Nat) : List Nat :=
  ([leadOf i, leadOf i + 1].filter s.usableT).flatMap fun t =>
    ((List.range 4).map (4 * t + ·)).filter fun p => !s.brokenPipes.contains p

/-- Pipelines that the overlap of an input's setting needs (R103). -/
def pipesNeeded (s : State) (i : Nat) : Nat := 2 ^ s.rd (wbB (leadOf i)) R.WB_CTRL_OVERLAP

/-- The first pipelines of the pair, as WB_PIPE_MAP names them. -/
def placePipes (i : Nat) (s : State) : State :=
  let l := (pairPipes s i).take (pipesNeeded s i)
  let m := fun t => (l.filter fun p => p / 4 == t).foldl (fun m p => m ||| 2 ^ (p % 4)) 0
  setFlds (wbB (leadOf i)) [(R.WB_PIPE_MAP_LOCAL, m (leadOf i)), (R.WB_PIPE_MAP_PARTNER, m (leadOf i + 1))] s

/-! Zoom channels (R241, R248, R269). -/

/-- The channels that keys ask for: input and number. -/
def zoomWanted (keys : List KeyRec) : List (Nat × Nat) :=
  keys.filterMap fun k => match splitBy '.' k.1 with
    | [z, i, c, n, f] =>
      if z = asc "zoom" ∧ c = asc "ch" ∧ f = asc "centre_hz" then
        match [asc "a0", asc "a1"].findIdx? (· == i), parseNat n with
        | some i, some n => some (i, n)
        | _, _ => none
      else none
    | _ => none

def zoomVal (keys : List KeyRec) (i k : Nat) (f : String) : Option KeyVal :=
  keyOf keys (asc ("zoom.a" ++ toString i ++ ".ch." ++ toString k ++ "." ++ f))

/-- A number of a key, or its default. -/
def zoomNum (keys : List KeyRec) (i k : Nat) (f : String) (d : Nat) : Nat := ((zoomVal keys i k f).map (·.n 0)).getD d

/-- The rate at which the bank delivers a band, and the spacing of its bands: 200 MS/s and 160 MHz at 10.24 GS/s (R236). In
the S8G-2D they follow the rate of R77, which the planner takes for fs (R83). -/
def bankRate (s : State) : Rat := s.fs * 5 / 256
def bandStep (s : State) : Rat := s.fs / 64

/-- L of the rate preset or rate; none under EXPERT. -/
def zoomRateL (s : State) (keys : List KeyRec) (i k : Nat) : Option Nat :=
  match zoomVal keys i k "rate" with
  | some v => if v.alt = 1 then some (rnd (bankRate s / v.q 0)) else [4, 8, 16, 40, 200, 2000, 160000][v.n 0]?
  | none => some 160000

/-- SHIFT and GAIN for a gain of 1 at 0 Hz (R248). -/
def decShift (l : Nat) : Nat := Nat.log2 (l ^ 3 - 1) + 1
def decGain (l : Nat) : Nat := rnd ((2 ^ (16 + decShift l) : Nat) / (l ^ 3 : Nat))

/-- The centre frequency of an input's setting in Hz; in the S8G-2D frequencies count from the converters' centre (R89). -/
def centreHz (s : State) (i : Nat) : Rat :=
  if s.part = .s2d then 0 else (clampTune (tuneOf s.rd (leadOf i)) : Rat) * 20480000000 / (2 ^ 40 : Nat)

/-- The band nearest a centre in Hz, the lower one at a tie, and the offset from its centre (R269). -/
def zoomBand (s : State) (i : Nat) (centre : Rat) : Nat × Rat :=
  let off := centre - centreHz s i
  let b := (clampI 0 63 ((off / bandStep s - 1 / 2).ceil + 32)).toNat
  (b, off - ((b : Rat) - 32) * bandStep s)

/-- The output rate of a channel in S/s, with the registers' L under EXPERT. -/
def zoomRate (s : State) (keys : List KeyRec) (p : ZoomPlace) : Rat :=
  bankRate s / (((zoomRateL s keys p.inp p.k.toNat).getD (clampL (s.rd (zcB p.die p.chan) R.ZC_n_DEC_L)) : Nat) : Rat)

/-- Whether the covered span of a channel lies within its band and within the span of WB_EDGE (R238, R269). -/
def zoomSpanOk (s : State) (keys : List KeyRec) (p : ZoomPlace) : Bool :=
  let c := ((zoomVal keys p.inp p.k.toNat "centre_hz").map (·.q 0)).getD 0
  let half := zoomRate s keys p * 4 / 10
  let fo := (zoomBand s p.inp c).2
  let n := 2 ^ clampLog2n (s.rd (wbB (leadOf p.inp)) R.WB_CTRL_LOG2N)
  let e := wbEdge s (clampTune (tuneOf s.rd (leadOf p.inp))) n
  let f := fun (k : Nat) => centreHz s p.inp + ((k : Rat) - (n / 2 : Nat)) * s.fs / n
  decide (absRat fo + half ≤ bandStep s * 6 / 10) && decide (f e.1 ≤ c - half) && decide (c + half ≤ f e.2)

/-- Whether a running plan holds the channel already; both then use the same placement. -/
def zoomHeld (s : State) (running : List Nat) (i k : Nat) : Option ZoomPlace :=
  running.findSome? fun m => (s.planSt m).zooms.find? fun p => p.inp.val == i && p.k.toNat == k

/-- The die a key names: 0 AUTO, 1 LEAD, 2 PARTNER. -/
def zoomDieOk (keys : List KeyRec) (p : ZoomPlace) : Bool :=
  match zoomNum keys p.inp p.k.toNat "die" 0 with
  | 1 => p.die.val == leadOf p.inp
  | 2 => p.die.val == leadOf p.inp + 1
  | _ => true

/-- The placements that the plan adds: those for channels it wants that no running plan holds. -/
def newZooms (s : State) (running : List Nat) (keys : List KeyRec) (l : List ZoomPlace) : List ZoomPlace :=
  l.filter fun p => (zoomWanted keys).contains (p.inp.val, p.k.toNat) && (zoomHeld s running p.inp p.k.toNat).isNone

/-- All placements of a plan. -/
def planZooms (s : State) (running : List Nat) (keys : List KeyRec) (l : List ZoomPlace) : List ZoomPlace :=
  (zoomWanted keys).filterMap fun w =>
    match zoomHeld s running w.1 w.2 with
    | some p => some p
    | none => (newZooms s running keys l).find? fun p => p.inp.val == w.1 && p.k.toNat == w.2

/-- Zoom channel placement (R269): every channel wanted has a free channel on a usable die of its pair, and its span is
covered. `t` is the state with the plan's settings. -/
def channelsOk (s t : State) (running : List Nat) (keys : List KeyRec) (l : List ZoomPlace) : Bool :=
  let all := planZooms s running keys l
  let new := newZooms s running keys l
  decide (all.length = (zoomWanted keys).length)
    && (new.all fun p => s.usableT p.die && decide (p.die.val / 2 = p.inp.val) && zoomDieOk keys p
      && zoomFree s p.die p.chan && zoomSpanOk t keys p)
    && decide (new.map fun p => (p.die, p.chan)).Nodup

/-- The fields of a placed channel. -/
def placeZoom (keys : List KeyRec) (s : State) (p : ZoomPlace) : State :=
  let i := p.inp.val
  let k := p.k.toNat
  let c := ((zoomVal keys i k "centre_hz").map (·.q 0)).getD 0
  let b := zoomBand s i c
  let freq := enc 48 (roundRat (b.2 * (2 ^ 48 : Nat) / bankRate s))
  let dec := match zoomRateL s keys i k with
    | some l => [(R.ZC_n_DEC_L, l), (R.ZC_n_DEC_SHIFT, decShift l), (R.ZC_n_GAIN_GAIN, decGain l)]
    | none => []
  let out := match zoomVal keys i k "output" with
    | some v =>
      if v.alt = 1 then [(R.ZC_n_OUT_MEM, 1), (R.ZC_n_OUT_FMT, 1), (R.ZC_n_OUT_SHIFT, v.n 0)]
      else [(R.ZC_n_OUT_MEM, v.n 0), (R.ZC_n_OUT_FMT, 0)]
    | none => [(R.ZC_n_OUT_MEM, 0)]
  setFlds (zcB p.die p.chan)
    ([(R.ZC_n_CTRL_EN, 1), (R.ZC_n_CTRL_BAND, b.1), (R.ZC_n_FREQ_LO_FREQ_LO, freq % 2 ^ 32),
      (R.ZC_n_FREQ_HI_FREQ_HI, freq / 2 ^ 32)] ++ dec ++
     [(R.ZC_n_DET_WIN, zoomNum keys i k "det_window" 1), (R.ZC_n_DET_ATT, zoomNum keys i k "env_attack" 0),
      (R.ZC_n_DET_DEC, zoomNum keys i k "env_decay" 8)] ++ out ++
     [(R.ZC_n_OUT_BLK, Nat.log2 (zoomNum keys i k "block" 4096)), (R.ZC_n_RING_BASE_BASE, p.ring.toNat),
      (R.ZC_n_RING_SIZE_SIZE, zoomNum keys i k "ring_kib" 1024),
      (R.ZC_n_ROUTE_CORE, (p.core.map (·.val)).getD 255), (R.ZC_n_ROUTE_PORT, p.port.val)]) s

/-- Words of 32 bits that select items by number: item n is bit n mod 32 of word n / 32. -/
def maskWord (l : List Nat) (k : Nat) : Nat := (l.filter fun n => n / 32 == k).foldl (fun m n => m ||| 2 ^ (n % 32)) 0

/-- Registers `a`, `a + 4`, … take the words that select the items of `l`. -/
def selectWords (a words : Nat) (l : List Nat) (s : State) : State :=
  (List.range words).foldl (fun s k => if maskWord l k = 0 then s else busWrite .planner (a + 4 * k) (maskWord l k) s) s

/-- The channels of a die among placements. -/
def zoomsOf (l : List ZoomPlace) (t : Nat) : List Nat := (l.filter fun p => p.die.val == t).map (·.chan.val)

/-! Channel cores (R312, R316, R317). -/

/-- The program that a channel's key names. -/
def zoomProgram (keys : List KeyRec) (p : ZoomPlace) : Option (List Byte) :=
  match zoomVal keys p.inp p.k.toNat "core" with
  | some v => if v.alt = 1 then some (v.text 0) else none
  | none => none

/-- A value of program `name` (keys core.NAME.*). -/
def coreVal (keys : List KeyRec) (name : List Byte) (f : String) : Option KeyVal :=
  keyOf keys (asc "core." ++ name ++ asc ("." ++ f))

/-- The cores that placements use: die and core. -/
def coresOf (keys : List KeyRec) (l : List ZoomPlace) : List (Nat × Nat) :=
  (l.filterMap fun p => match zoomProgram keys p, p.core with
    | some _, some c => some (p.die.val, c.val)
    | _, _ => none).eraseDups

/-- The cores that the plans `running` use. -/
def runningCores (s : State) (running : List Nat) : List (Nat × Nat) :=
  (running.flatMap fun m => coresOf (effKeys s m) (s.planSt m).zooms).eraseDups

/-- The core reserve of R312 stays held on each die that gets a program (R353). -/
def reserveKept (s : State) (cores : List (Nat × Nat)) : Bool :=
  (List.range s.part.tDies).all fun t =>
    let new := (cores.filter (·.1 == t)).length
    decide (new = 0) || decide (new + min 4 (s.rd (cctlB t) R.CCTL_CFG_RESERVE) ≤ (usableCores s t).length)

/-- Channel-core placement and load (R312, R317): each program has a free core outside the reserve, one program to a core,
and its cycles per word times the summed rate of its channels is at most 1.024 × 10^9. -/
def coresOk (s t : State) (running : List Nat) (keys : List KeyRec) (l : List ZoomPlace) : Bool :=
  let new := newZooms s running keys l
  (new.all fun p => (zoomProgram keys p).isNone || p.core.isSome) &&
    (coresOf keys new).all fun x =>
      let on := new.filter fun p => p.die.val == x.1 && p.core.map (·.val) == some x.2
      let name := (on.head?).bind (zoomProgram keys)
      let cycles := ((name.bind fun m => coreVal keys m "cycles").map (·.n 0)).getD 0
      let rate := on.foldl (fun r p => r + zoomRate t keys p) (0 : Rat)
      (usableCores s x.1).contains x.2 && s.onC x.1 x.2 R.CORE_c_STATUS_HALTED && !(reserveCores s x.1).contains x.2
        && (on.all fun p => zoomProgram keys p == name) && decide (0 < cycles)
        && decide ((cycles : Rat) * rate ≤ 1024000000)

/-- The program of a placed core is loaded and its fields written (R316). -/
def placeCore (keys : List KeyRec) (zooms : List ZoomPlace) (rings : List CorePlace) (s : State) (x : Nat × Nat) : State :=
  let name := ((zooms.find? fun p => p.die.val == x.1 && p.core.map (·.val) == some x.2).bind (zoomProgram keys)).getD []
  let from_ := fun f => ((coreVal keys name f).map (·.text 0)).getD name
  let code := (programWords s (from_ "code")).1
  let data := match coreVal keys name "data" with
    | some v => (programWords s (v.text 0)).2
    | none => (programWords s name).2
  let r := rings.find? fun r => r.die.val == x.1 && r.core.val == x.2
  let out := fun (f : String) => match coreVal keys name f with
    | some v => if v.alt = 1 then (1, v.n 0, Nat.log2 (v.n 1)) else (0, 0, 6)
    | none => (0, 0, 6)
  let o0 := out "out0"
  let o1 := out "out1"
  let s := coreImages x.1 x.2 (code.map (BitVec.ofNat 32)) (data.map (BitVec.ofNat 24)) s
  setFlds (coreRegB x.1 x.2)
    [(R.CORE_c_OUT_0_BASE, (r.map (·.out0.toNat)).getD 0), (R.CORE_c_OUT_1_BASE, (r.map (·.out1.toNat)).getD 0),
     (R.CORE_c_OUT_CTRL_EN0, o0.1), (R.CORE_c_OUT_CTRL_SIZE0, o0.2.1), (R.CORE_c_OUT_CTRL_BLK0, o0.2.2),
     (R.CORE_c_OUT_CTRL_EN1, o1.1), (R.CORE_c_OUT_CTRL_SIZE1, o1.2.1), (R.CORE_c_OUT_CTRL_BLK1, o1.2.2),
     (R.CORE_c_WARMUP_SAMPLES, ((coreVal keys name "warmup").map (·.n 0)).getD 0)] s

/-- Zoom channels and cores of a plan are placed: channels committed, cores started together through CCTL_START_k. -/
def placeZooms (keys : List KeyRec) (new : List ZoomPlace) (rings : List CorePlace) (s : State) : State :=
  let cores := coresOf keys new
  let s := new.foldl (placeZoom keys) s
  let s := cores.foldl (placeCore keys new rings) s
  (List.range 4).foldl (fun s t =>
    let l := zoomsOf new t
    if l.isEmpty then s
    else
      let s := setFld (chzB t) R.CHZ_CTRL_EN 1 s
      let s := selectWords (chzB t + R.CHZ_COMMIT_k) 4 l s
      selectWords (cctlB t + R.CCTL_START_k) 5 ((cores.filter (·.1 == t)).map (·.2)) s) s

/-! Mask tables (R131, R165, R195). -/

/-- The mask that a key of input `i` asks for: a table section, or the preset and margin of AUTO (R165, R166, R195). -/
def maskOf (i : Nat) (k : KeyRec) : Option (List KAtom) :=
  match splitBy '.' k.1, keyValue keyRows k with
  | b :: r, some (_, _, v) =>
    if keyInput k.1 ≠ some i then none
    else if b = asc "trg" ∧ r.getLast? = some (asc "mask") then some v.atoms
    else if b = asc "rec" ∧ r.getLast? = some (asc "change_only") ∧ v.alt = 1 then some (v.atoms.take 1)
    else none
  | _, _ => none

/-- The masks that the keys of input `i` ask for, in order: the first takes table 0. -/
def masksOf (keys : List KeyRec) (i : Nat) : List (List KAtom) := ((keys.filterMap (maskOf i)).eraseDups).take 4

/-- Table `x` of input `i` takes its mask: the entries of a section, or the reset mask until the planner has built that of
AUTO from a trace (R166). `held` are the masks of running plans, of which AUTO builds none again. -/
def placeMask (i : Nat) (held : List (List KAtom)) (x : List KAtom × Nat) (s : State) : State :=
  let l := leadOf i
  match x.1 with
  | [.sect n] => portFill (trgB l + R.TRG_MASK_ADDR) (trgB l + R.TRG_MASK_DATA) (x.2 * 65536) (tableEntries s n) s
  | [p, m] =>
    if held.contains x.1 then s
    else
      let len := ([4, 16, 128, 1024][(roundRat p.q).toNat]?).getD 16
      let s := { s with tabS := tclear s.tabS (maskKey l x.2 0) (maskKey l (x.2 + 1) 0) }
      (s.wr (trgB l) R.TRG_SHADOW_SHADOW_DIRTY 1).modWb l fun w => { w with
        auto := ⟨x.2, roundRat (m.q * 256), len, none⟩ :: w.auto.filter fun a => a.table != x.2 }
  | _ => s

/-- The masks of an input are loaded, and the conditions and the change-only generator name their tables. -/
def placeMasks (keys : List KeyRec) (i : Nat) (held : List (List KAtom)) (s : State) : State :=
  let masks := masksOf keys i
  let l := leadOf i
  let s := masks.zipIdx.foldl (fun s x => placeMask i held x s) s
  keys.foldl (fun s k => match (maskOf i k).bind fun m => masks.findIdx? (· == m), keyValue keyRows k with
    | some x, some (_, a, _) =>
      if (splitBy '.' k.1).head? = some (asc "trg") then setFld (condOf a) R.TRG_COND_c_CTRL_TABLE x s
      else setFld (recB l) R.REC_CO_CTRL_TABLE x s
    | _, _ => s) s

/-! Ethernet routes (R541, R556). -/

/-- The routes of a plan: name and hub. -/
def planRoutes (s : State) (n : Nat) : List (List Byte × Nat) :=
  match keyValue keysPlan (asc "eth", (((s.planSt n).keys.find? (·.1 == asc "eth")).map (·.2)).getD []) with
  | some (_, _, v) => v.filterMap fun x =>
    let p : KeyVal := [x]
    ([asc "h0", asc "h1"].findIdx? (· == p.text 1)).map fun h => (p.text 0, h)
  | none => []

/-- The streams of a plan as 64 * hub + stream: the planner's own are 16 to 63. -/
def planStreams (s : State) (n : Nat) (l : List (Fin 64)) : List Nat :=
  (((planRoutes s n).zip l).filter fun x => 16 ≤ x.2.val).map fun x => 64 * x.1.2 + x.2.val

/-- A route's stream takes its settings and is enabled. -/
def placeRoute (s : State) (x : (List Byte × Nat) × Fin 64) : State :=
  let h := x.1.2
  let t := x.2.val
  match keyOf s.boot.keys (asc "eth.route." ++ x.1.1) with
  | some v =>
    if t < 16 ∨ !s.hasHub h ∨ bit s.lostDies h = true then s
    else
      let s := if v.n 0 = 1 then mboxPut h 0x73 t (v.n 1) s else setFld (strB h t) R.ETH_STR_t_DST4_ADDR (v.n 1) s
      setFlds (strB h t) [(R.ETH_STR_t_CFG_IPV6, v.n 0), (R.ETH_STR_t_UDP_DST, v.n 2), (R.ETH_STR_t_CFG_FORMAT, v.n 3),
        (R.ETH_STR_t_CFG_PCP, v.n 4), (R.ETH_STR_t_CFG_MAXPAY, v.n 5 / 4), (R.ETH_STR_t_CFG_FULL, v.n 6),
        (R.ETH_STR_t_QUEUE_QBYTES, v.n 7), (R.ETH_STR_t_CFG_EN, 1)] s
  | none => s

end Sys2Proof.Machine
end

