-- ==== Sys2Proof/Machine/Loads.lean ====
section
/-! DEFINITION. What the settings of a plan come to: the defaults of keys it leaves out, the evaluation delay of its
triggers (R150, R151, R259), and the loads that the planner admits against, as far as the settings fix them: input
streams, Tarns, spectra and traces on the links, in capture memory and on the Ethernet ports (R28 to R35, R111, R172).
Rates are in 10^6 bytes per second. What else a plan moves is an operand of the row (`PlanNeed`). -/

namespace Sys2Proof.Machine

/-! Settings (R344, R352). -/

def applyKeys (keys : List KeyRec) (s : State) : State := keys.foldl (fun s k => keyApply k s) s

/-- Whether keys set a block of input `i`. -/
def setsBlock (keys : List KeyRec) (b : String) (i : Nat) : Bool :=
  keys.any fun k => (splitBy '.' k.1).head? == some (asc b) && keyInput k.1 == some i

/-- The defaults of the keys of a group, `pre` being what their names begin with (R72, R125, R165, R201, R232). -/
def defaultsAt (pre : String) (l : List (String × String)) : List KeyRec :=
  l.map fun x => (asc (pre ++ x.1), asc x.2)

def wbDefaults : List (String × String) :=
  [("centre_hz", "5120000000"), ("fft_points", "8192"), ("overlap", "75"), ("window", "BLACKMAN_HARRIS"),
   ("scaling", "BLOCK"), ("rate", "SPUR"), ("spectra_out", "off"), ("spectra_every", "1"), ("record_rate", "off"),
   ("record_format", "C24"), ("record_shift", "0")]

def acqDefaults : List (String × String) := [("gain_db", "0.0"), ("cal", "TRACK"), ("board_delay_ps", "0")]

/-- `edges` are the bins of R90 as a key has them. -/
def condDefaults (edges : String) : List (String × String) :=
  [("type", "OFF"), ("side", "UPPER"), ("polarity", "ENTER"), ("place", "START"), ("source", "SPECTRA"), ("bins", edges),
   ("count", "1"), ("run", "1"), ("level_db", "-20.0"), ("hyst_db", "1.0"), ("width_ns", "0:1638400"), ("channel", "0"),
   ("detector", "PEAK"), ("deadline_us", "10")]

def unitDefaults : List (String × String) :=
  [("mode", "SINGLE"), ("window_ns", "0"), ("restart", "off"), ("holdoff_ns", "0"), ("timer_ns", "0"), ("net_tx", "off"),
   ("net_rx", "off"), ("tx_group", "0"), ("repeat", "1")]

def recDefaults : List (String × String) :=
  [("tarn_s", "1.0"), ("mode", "SINGLE"), ("pre_us", "0"), ("post_us", "0.00625"), ("segments", "1"),
   ("rearm", "AFTER_POST"), ("format", "C24"), ("units", "0"), ("region_mib", "0"), ("measure", "off"),
   ("mask_test", "off"), ("net_window", "LOCAL"), ("change_only", "off")]

def changeDefaults (edges : String) : List (String × String) :=
  [("change_bins", edges), ("change_flush_ms", "100"), ("change_mib", "64")]

def densDefaults (edges : String) : List (String × String) :=
  [("map_size", "2048x512"), ("map_bins", edges), ("map_levels", "0.0:0.25:off"), ("map_mode", "PEAK"),
   ("frame_hz", "60"), ("persistence", "MEDIUM"), ("map_scale", "LOG:65535"), ("map_format", "INDEX8"),
   ("map_buffers", "3"), ("sg_rows_hz", "1000"), ("sg_detector", "PEAK"), ("sg_bins", "0:65535"), ("sg_group", "1"),
   ("sg_format", "DB16"), ("sg_ring_rows", "4096")]

/-- The keys of a group that `keys` leave out, with their defaults, where `keys` have any key of the group. -/
def absentIn (keys : List KeyRec) (pre : String) (l : List (String × String)) : List KeyRec :=
  if keys.any fun k => (asc pre).isPrefixOf k.1 then (defaultsAt pre l).filter fun d => !keys.any (·.1 == d.1) else []

/-- The wide-band keys that the keys of input `i` leave out, with their defaults. -/
def absentWb (keys : List KeyRec) (i : Nat) : List KeyRec :=
  (defaultsAt ("wb.a" ++ toString i ++ ".") wbDefaults).filter fun d => !keys.any (·.1 == d.1)

/-- WB_EDGE of input `i` under the settings of `s`, as a key has it (R90). -/
def edgesText (s : State) (i : Nat) : String :=
  let e := wbEdge s (clampTune (tuneOf s.rd (leadOf i))) (2 ^ clampLog2n (s.rd (wbB (leadOf i)) R.WB_CTRL_LOG2N))
  toString e.1 ++ ":" ++ toString e.2

/-- The other keys of input `i` that `keys` leave out in the groups that they set. `s` has the wide-band settings. -/
def absentKeys (s : State) (keys : List KeyRec) (i : Nat) : List KeyRec :=
  let a := "a" ++ toString i ++ "."
  let e := edgesText s i
  let co := match keyOf keys (asc ("rec." ++ a ++ "change_only")) with | some v => v.alt == 1 | none => false
  absentIn keys ("acq." ++ a) acqDefaults ++ absentIn keys ("rec." ++ a) recDefaults
    ++ (if co then absentIn keys ("rec." ++ a) (changeDefaults e) else [])
    ++ absentIn keys ("dens." ++ a) (densDefaults e)
    ++ ((List.range 32).flatMap fun k => absentIn keys ("trg." ++ a ++ "cond." ++ toString k ++ ".") (condDefaults e))
    ++ (List.range 8).flatMap fun u => absentIn keys ("trg." ++ a ++ "unit." ++ toString u ++ ".") unitDefaults

/-- Whether a key acts: the detector and the averager take theirs under wb.in.rate = EXPERT only (R125). -/
def keyActs (keys : List KeyRec) (k : KeyRec) : Bool :=
  match splitBy '.' k.1 with
  | [b, i, f] =>
    !(b == asc "wb" && (["detector", "detector_len", "avg_len", "avg_domain"].any fun t => asc t == f))
      || keys.any fun r => r.1 == asc "wb." ++ i ++ asc ".rate" && r.2 == asc "EXPERT"
  | _ => true

/-- The fields that `keys` set in the blocks of `inputs`, the wide-band ones first, as row and frame rates are counted in
spectra (R232). DESIGN CHOICE: a key that is left out acts with its default, wide-band keys in every plan that uses the
input, the others where the plan has a key of their group; R352 names only the fields that keys set. -/
def applySettings (keys : List KeyRec) (inputs : List Nat) (s : State) : State :=
  let own := keys.filter (keyActs keys)
  let wb := fun (k : KeyRec) => (splitBy '.' k.1).head? == some (asc "wb")
  let s := applyKeys (inputs.flatMap (absentWb keys) ++ own.filter wb) s
  applyKeys (inputs.flatMap (absentKeys s keys) ++ own.filter fun k => !wb k) s

/-! The evaluation delay (R150, R151, R259), in nanoseconds. -/

/-- The longest delay of condition `c` of lead die `l`, none where it is off. -/
def condDelay (s : State) (l c : Nat) : Rat :=
  let t := l + c / 16
  let b := trgB t + 0x20 * (c % 16)
  let n := 2 ^ clampLog2n (s.rd (wbB l) R.WB_CTRL_LOG2N)
  let two := s.rd (wbB l) R.WB_CTRL_OVERLAP == 3 || s.rd (wbB l) R.WB_PIPE_MAP_PARTNER != 0
  let ns := fun (x : Rat) => x / sampPerNs s
  let far := fun (on : Bool) => if on || decide (t ≠ l) then (1000 : Rat) else 0
  match s.rd b R.TRG_COND_c_CTRL_TYPE with
  | 1 | 2 =>
    let place := s.rd b R.TRG_COND_c_CTRL_PLACE
    let wait := if place = 2 then 0 else if place = 1 then n / 2 - 1 else n - 1
    let d := if s.on b R.TRG_COND_c_CTRL_SRC then
      (clampLen 1048576 (s.rd (wbB l) R.WB_DET_LEN) - 1) * (n / 2 ^ s.rd (wbB l) R.WB_CTRL_OVERLAP) else 0
    1700 + ns (wait + d : Nat) + far two
  | 3 => 800 + far false
  | 4 => 800 + ns (s.rd b R.TRG_COND_c_WMAX_WMAX + 1 : Nat) + far false
  | 5 =>
    let ch := s.rd b R.TRG_COND_c_SEL_CHAN
    let z := zcB t ch
    let len := clampL (s.rd z R.ZC_n_DEC_L)
    let win := if s.rd b R.TRG_COND_c_SEL_DET ≤ 1 then (max 1 (s.rd z R.ZC_n_DET_WIN) - 1) * len * 256 else 0
    1500 + ns (3072 + ((384 * (len - 1) + win : Nat) : Rat) / 5) + far false
  | 6 => (s.rd b R.TRG_COND_c_SEL_DEADLINE * 100 : Nat) + far false
  | _ => 0

/-- The longest delay of the sources of unit `u`. A NET source has no bound and is left out; XIN counts from the event of
the other input's unit, which its fabric gives after its own ALIGN. -/
def unitDelay (s : State) (l u : Nat) : Rat :=
  let b := trgB l + 0x40 * u
  if !s.on b R.TRGU_u_CTRL_EN then 0
  else
    let two := decide (s.rd b R.TRGU_u_CTRL_MODE % 3 ≠ 0)
    let conds := s.rd b R.TRGU_u_A_CONDS ||| (if two then s.rd b R.TRGU_u_B_CONDS else 0)
    let x := s.rd b R.TRGU_u_XSRC_A_XSRC ||| (if two then s.rd b R.TRGU_u_XSRC_B_XSRC else 0)
    let tdc := if bit x 2 then (if s.rd b R.TRGU_u_XSRC_TDC / 8 = hubOf s l then (1200 : Rat) else 1700) else 0
    let xin := if bit x 3 && s.hasT (2 - l) then ((s.rd (trgB (2 - l)) R.TRG_FAB_ALIGN * 100 + 1500 : Nat) : Rat) else 0
    (((List.range 32).filter (bit conds)).map (condDelay s l)).foldl max (max tdc xin)

/-- ALIGN of lead die `l` for the units that its settings enable, in units of 100 ns, held in its field (R151). -/
def alignOf (s : State) (l : Nat) : Nat :=
  min 1023 (ceilRat ((((List.range 8).map (unitDelay s l)).foldl max 0) / 100))

/-! Loads. -/

/-- The first `k`-th number of a list of figures; a figure not given is 0. -/
def at0 (l : List Nat) (k : Nat) : Nat := (l[k]?).getD 0

/-- An input's stream at C24: 6 bytes for each sample (R29). -/
def streamRate (s : State) : Rat := 6 * s.fs / 1000000

/-- The die that forwards the stream of input `i` to the hub: the lower-numbered usable one of its pair (R28). -/
def forwarderOf (s : State) (i : Nat) : Option Nat := [leadOf i, leadOf i + 1].find? s.usableT

/-- Spectra of input `i` per second, in millions, under the settings of `s` (R103). -/
def spectraPerUs (s : State) (i : Nat) : Rat :=
  let b := wbB (leadOf i)
  s.fs * (2 ^ s.rd b R.WB_CTRL_OVERLAP : Nat) / (2 ^ clampLog2n (s.rd b R.WB_CTRL_LOG2N) : Nat) / 1000000

/-- Points of a spectrum of input `i` under the settings of `s`. -/
def specN (s : State) (i : Nat) : Nat := 2 ^ clampLog2n (s.rd (wbB (leadOf i)) R.WB_CTRL_LOG2N)

/-- The spectrum items of input `i`: every EVERY-th spectrum, of those that the lead die computes (R111). -/
def spectraRate (s : State) (i : Nat) : Rat :=
  let b := wbB (leadOf i)
  let every := max 1 (s.rd b R.WB_FMT_EVERY)
  let step := if s.rd b R.WB_CTRL_OVERLAP = 3 then Nat.lcm 2 every else every
  match s.rd b R.WB_FMT_SPEC_OUT with
  | 1 => spectraPerUs s i / (step : Nat) * (32 + 2 * specN s i : Nat)
  | 2 => spectraPerUs s i / (step : Nat) * (32 + 6 * specN s i : Nat)
  | _ => 0

/-- The trace items of input `i`: one for D * L spectra (R112, R115). -/
def traceRate (s : State) (i : Nat) : Rat :=
  let b := wbB (leadOf i)
  if s.on b R.WB_AVG_TRACE_EN then
    spectraPerUs s i / (clampLen 1048576 (s.rd b R.WB_DET_LEN) * clampLen 65536 (s.rd b R.WB_AVG_LEN) : Nat)
      * (32 + 2 * specN s i : Nat)
  else 0

/-- Bytes of a density frame and of a row of input `i` under the settings of `t` (R220). -/
def mapBytes (t : State) (i : Nat) : Nat :=
  let l := leadOf i
  ceilTo 64 (32 + densW t.rd l (specN t i) * densH t.rd l * (1 + t.rd (densB l) R.DENS_OUT_FORMAT))
def sgBytes (t : State) (i : Nat) : Nat :=
  let b := densB (leadOf i)
  let bins := min (specN t i - 1) (t.rd b R.DENS_SG_BINS_LAST) + 1 - t.rd b R.DENS_SG_BINS_FIRST
  let c := 2 ^ t.rd b R.DENS_SG_CTRL_CDEC
  ceilTo 64 (32 + (bins + c - 1) / c * (2 - t.rd b R.DENS_SG_CTRL_FORMAT))

/-- The density frames and rows of input `i` (R211, R216). -/
def densLoad (t : State) (i : Nat) : Rat :=
  let b := densB (leadOf i)
  let per := fun (n size : Nat) => spectraPerUs t i * (size : Nat) / (max 1 n : Nat)
  (if t.on b R.DENS_CTRL_MAP_EN then per (t.rd b R.DENS_FRAME_SPECTRA) (mapBytes t i) else 0)
    + (if t.on b R.DENS_CTRL_SG_EN then per (t.rd b R.DENS_SG_SPECTRA_R) (sgBytes t i) else 0)

/-- The blocks that a zoom channel writes to memory (R263), and the ring they take in bytes. -/
def zoomLoad (s : State) (x : List KeyRec × ZoomPlace) : Rat :=
  let p := x.2
  let size := match zoomVal x.1 p.inp p.k.toNat "output" with
    | some v => if v.alt = 1 then 4 else if v.n 0 = 1 then 6 else 0
    | none => 0
  if size = 0 then 0
  else zoomRate s x.1 p / 1000000 * ((size : Nat) + 64 / (zoomNum x.1 p.inp p.k.toNat "block" 4096 : Nat))
def zoomRing (x : List KeyRec × ZoomPlace) : Nat :=
  let p := x.2
  let on := match zoomVal x.1 p.inp p.k.toNat "output" with
    | some v => v.alt == 1 || v.n 0 == 1
    | none => false
  if on then zoomNum x.1 p.inp p.k.toNat "ring_kib" 1024 * 1024 else 0

/-- What the transform dies send to their hubs beside streams, traces and spectra, by die: density frames and rows of the
inputs `dens`, and the blocks of zoom channels. -/
def dieLoads (s t : State) (dens : List Nat) (zooms : List (List KeyRec × ZoomPlace)) : List (Nat × Rat) :=
  dens.map (fun i => (leadOf i, densLoad t i)) ++ zooms.map fun x => (x.2.die.val, zoomLoad s x)

/-- The sum of the figures of `l` whose die `p` takes. -/
def sumOf (l : List (Nat × Rat)) (p : Nat → Bool) : Rat := ((l.filter fun x => p x.1).map (·.2)).foldl (· + ·) 0

/-- What a route carries, where its name gives the product: `traces.aI` or `spectra.aI`, with the input. -/
def routeRate (s : State) (name : List Byte) : Option (Nat × Rat) :=
  match splitBy '.' name with
  | [p, x] => ([asc "a0", asc "a1"].findIdx? (· == x)).bind fun i =>
    if p = asc "traces" then some (i, traceRate s i)
    else if p = asc "spectra" then some (i, spectraRate s i)
    else none
  | _ => none

/-- Plan routes with their hub and stream: `streams` are those of plan `n`, which is not admitted yet. -/
def routesWith (s : State) (plans : List Nat) (n : Nat) (streams : List (Fin 64)) : List ((List Byte × Nat) × Nat) :=
  plans.flatMap fun m =>
    (planRoutes s m).zip (if m = n then streams.map (·.val) else (s.planSt m).streams.map (· % 64))

/-- Traffic of input streams and items in direction `d` of the links: 2 * l runs from the die that R18 names first in
link l to the other, 2 * l + 1 back (R27, R28, R29). -/
def linkLoad (s t : State) (inputs : List Nat) (routes : List ((List Byte × Nat) × Nat)) (items : List (Nat × Rat))
    (d : Nat) : Rat :=
  let l := d / 2
  let crosses := (routes.map fun r => match routeRate t r.1.1 with
    | some (i, x) => if hubOf s (leadOf i) ≠ r.1.2 ∧ r.1.2 = (if d = 16 then 1 else 0) then x else 0
    | none => 0).foldl (· + ·) (0 : Rat)
  if d = 16 ∨ d = 17 then crosses
  else if d % 2 = 1 then 0
  else if l < 4 then (if inputs.contains (l / 2) then streamRate s else 0)
  else
    let i := (l - 4) / 2
    let stream := if inputs.contains i ∧ forwarderOf s i = some (l - 4) then streamRate s else 0
    let lead := if inputs.contains i ∧ leadOf i = l - 4 then traceRate t i + spectraRate t i else 0
    stream + lead + sumOf items (· == l - 4)

/-- Capture-memory traffic of hub `h`: the Tarns of its inputs, what its transform dies write, twice what the plans send to
flash and what its port's routes carry, each written and read, and the plans' other traffic (R30, R32). -/
def memoryLoad (s t : State) (inputs : List Nat) (routes : List ((List Byte × Nat) × Nat)) (own : List (Nat × Rat))
    (p : PlanNeed) (h : Nat) : Rat :=
  let tarn := (inputs.filter fun i => hubOf s (leadOf i) == h).length
  let items := (routes.map fun r => match routeRate t r.1.1 with
    | some (_, x) => if r.1.2 = h then x else 0
    | none => 0).foldl (· + ·) (0 : Rat)
  (tarn : Nat) * streamRate s + sumOf own (fun t => hubOf s t == h) + 2 * items + (2 * at0 p.flash h : Nat) + (at0 p.rate h : Nat)

/-- Capture memory that input `i` takes on its hub, in bytes: the Tarn with its descriptors, the record region and the
change-only ring, and with `dens` its frame buffers and row ring (R170, R172, R220). -/
def inputBytes (t : State) (i : Nat) (dens : Bool) : Nat :=
  let b := recB (leadOf i)
  let d := densB (leadOf i)
  (if dens then max 2 (min 4 (t.rd d R.DENS_OUT_NBUF)) * mapBytes t i + max 1 (t.rd d R.DENS_SG_ROWS_ROWS) * sgBytes t i
    else 0) + max 16 (t.rd b R.REC_TARN_DEPTH_DEPTH) * 393232
    + (t.rd b R.REC_REGION_SIZE_SIZE + t.rd b R.REC_CO_SIZE_SIZE) * 2 ^ 20

/-- Capture memory that the zoom channels and the core output rings of plans take on hub `h`, in bytes (R263, R303). -/
def ringBytes (s : State) (zooms : List (List KeyRec × ZoomPlace)) (h : Nat) : Nat :=
  let own := zooms.filter fun x => hubOf s x.2.die == h
  let cores := (own.filterMap fun x => match zoomProgram x.1 x.2, x.2.core with
    | some m, some c => some ((x.2.die.val, c.val), x.1, m)
    | _, _ => none)
  let ring := fun (v : Option KeyVal) => match v with | some v => if v.alt = 1 then v.n 0 * 2 ^ 20 else 0 | none => 0
  (own.map zoomRing).sum + ((cores.zipIdx.filter fun x => (cores.findIdx? fun y => y.1 == x.1.1) == some x.2).map fun x =>
    ring (coreVal x.1.2.1 x.1.2.2 "out0") + ring (coreVal x.1.2.1 x.1.2.2 "out1")).sum

/-- Line rate in Mb/s of `x` million payload bytes per second over route settings `v`: each packet of MAXPAY bytes adds
106 bytes, 20 more under IPv6 and 4 with a VLAN tag (R34, R545, R546). -/
def lineRate (s : State) (h : Nat) (v : Option KeyVal) (x : Rat) : Rat :=
  let perPacket := 106 + 20 * ((v.map (·.n 0)).getD 0) + 4 * s.rd (ethB h) R.ETH_CFG_VLAN_EN
  (x + (perPacket : Nat) * x / (max 1 ((v.map (·.n 5)).getD 8192) : Nat)) * 8

/-- Ethernet load of hub `h`'s sub-port `sub` in Mb/s (R34, R35, R537): the routes whose product the settings fix, and
the other streams of the plans. -/
def ethLoad (s t : State) (routes : List ((List Byte × Nat) × Nat)) (p : PlanNeed) (h sub : Nat) : Rat :=
  let breakout := s.rd (ethB h) R.ETH_CTRL_MODE == 2
  (routes.map fun r =>
    if r.1.2 ≠ h ∨ (breakout = true ∧ s.rd (strB h r.2) R.ETH_STR_t_CFG_SUBPORT ≠ sub) then 0
    else match routeRate t r.1.1 with
      | some (_, x) => lineRate s h (keyOf s.boot.keys (asc "eth.route." ++ r.1.1)) x
      | none => 0).foldl (· + ·) (0 : Rat) + (at0 p.eth h : Nat)

/-- A port carries more than R34 lets the planner admit: 97 Gb/s, or 24.25 Gb/s on a sub-port (R537). -/
def ethOver (s t : State) (routes : List ((List Byte × Nat) × Nat)) (p : PlanNeed) (h : Nat) : Bool :=
  if s.rd (ethB h) R.ETH_CTRL_MODE == 2 then [0, 1, 2, 3].any fun x => decide (24250 < ethLoad s t routes p h x)
  else decide (97000 < ethLoad s t routes p h 0)

end Sys2Proof.Machine
end

