-- ==== Sys2Proof/Machine/Plan.lean ====
section
/-! DEFINITION. The planner: plan records, admission, the schedule, stops and suspensions, and the power states
(R343 to R359, R366, R369, R370, R372 to R374). -/

namespace Sys2Proof.Machine

/-- The planner runs: a start has reached PLANNER, the S8G is neither in AON nor in FLUSH, and its control processor has
not been lost (R622). -/
def plannerRuns (s : State) : Bool :=
  !s.controlLost && (s.rd (bootB 0) R.BOOT_STATUS_STATE == 7 || s.rd (bootB 0) R.BOOT_STATUS_STATE == 8) &&
    !inAon s && s.rd (pwrB 0) R.PWR_STATE_STATE != 3

def allSlots : List Nat := List.range 32
/-- The running plans. -/
def running (s : State) : List Nat := allSlots.filter fun n => planState s n == 4

def planStage (s : State) (n : Nat) : Nat := s.rd (planNB n) R.PLAN_n_STAGE_STAGE
def planPrio (s : State) (n : Nat) : Nat := s.rd (planNB n) R.PLAN_n_CFG_PRIO
def setPlanState (n v : Nat) (s : State) : State := s.wr (planNB n) R.PLAN_n_STATE_STATE v

/-- A write to PLAN_CMD that a row acts on is no longer waiting. -/
def takeCmd (n op : Nat) (s : State) : State := { s with planCmds := s.planCmds.erase (n, op) }

/-! Dies (R358, R359). -/

/-- The registers and table entries of the window of die `d` (a bit of CHIP_CONFIG.PRESENT) below and above. -/
def dieWindow (d : Nat) : Nat × Nat :=
  if d < 2 then (hubB d, hubB d + 0x800000)
  else if d < 6 then (tB (d - 2), tB (d - 2) + 0x2000000)
  else (acqB (d - 6), acqB (d - 6) + 0x100000)

/-- The state of a table without the entries of one die. -/
def dropKeys {α : Type} (lo n : Nat) (m : Tbl α) : Tbl α := tclear m lo (lo + n)

/-- A die loses power: its registers, tables and everything in it are gone (R352, R359). Factory values stay. -/
def dieOff (d : Nat) (s : State) : State :=
  let w := dieWindow d
  let s := { s with
    powered := s.powered - (s.powered &&& 2 ^ d)
    regs := s.regs.filter fun e => decide (e.1 < w.1) || decide (w.2 ≤ e.1) || factoryReg e.1
    live := tclear s.live w.1 w.2, force := tclear s.force w.1 w.2
    locked := tclear s.locked w.1 w.2
    link := s.link.filter fun e => farDie e.1 != d || e.2.failed }
  if 6 ≤ d then
    let a := d - 6
    delayTotal a { s.modAcq a (fun q => { fact25 := q.fact25, fact85 := q.fact85 }) with
      enabledIn := dropKeys a 1 s.enabledIn
      codes := dropKeys (codeKey a 0) (2 ^ 64) s.codes, spares := dropKeys (codeKey a 0) (2 ^ 64) s.spares
      stream := dropKeys (streamKey a 0) (2 ^ 64) s.stream }
  else if 2 ≤ d then
    let t := d - 2
    let k := t * 0x100000
    { s with
      tabS := dropKeys k 0x100000 s.tabS, tabL := dropKeys k 0x100000 s.tabL, tabF := dropKeys k 0x100000 s.tabF
      marks := dropKeys t 1 s.marks, wb := dropKeys t 1 s.wb, trg := dropKeys t 1 s.trg, recs := dropKeys t 1 s.recs
      dens := dropKeys t 1 s.dens, cores := dropKeys (256 * t) 256 s.cores, zooms := dropKeys (128 * t) 128 s.zooms
      jrx := if t = 0 then {} else s.jrx }
  else s

/-- The acquisition and transform dies that have power, as bits of CHIP_CONFIG.PRESENT. -/
def diesOn (s : State) : Nat := s.powered &&& 0xFC

/-- The planner powers the dies in `mask` that are usable and off: their links train and acquisition dies are enabled
together (R66, R358). -/
def wakeDies (mask : Nat) (s : State) : State :=
  let new := (List.range 8).filter fun d =>
    2 ≤ d && bit mask d && bit s.part.present d && !bit s.lostDies d && !bit s.powered d
  if new.isEmpty then s
  else
    let s := { s with powered := new.foldl (fun m d => m ||| 2 ^ d) s.powered }
    let s := (List.range 9).foldl (fun s l =>
      if s.hasLink l && new.contains (farDie l) && !(s.linkSt l).failed then
        s.setLink l { s.linkSt l with training := true, trained := false }
      else s) s
    let s := if new.any (6 ≤ ·) then enableAcq (bitsOf (new.foldl (fun m d => m ||| 2 ^ d) 0) 6 2) s else s
    s.wr (pwrB 0) R.PWR_STATE_STATE 2

/-- The dies a plan needs, as bits of CHIP_CONFIG.PRESENT: as recorded, or those of its inputs, the hubs they hang on, and
the hubs of its Ethernet routes. -/
def planDies (s : State) (n : Nat) : Nat :=
  if (s.planSt n).dies ≠ 0 then (s.planSt n).dies
  else (planInputs s n).foldl (fun m i =>
    m ||| (if s.hasA i then 2 ^ (6 + i) else 0) ||| (if s.hasT (leadOf i) then 2 ^ (2 + leadOf i) else 0) |||
      (if s.hasT (leadOf i + 1) then 2 ^ (3 + leadOf i) else 0) ||| 2 ^ hubOf s (leadOf i)) 0
    ||| (planRoutes s n).foldl (fun m r => m ||| 2 ^ r.2) 0

/-! Settings (R344, R352). -/

/-- Whether plan `n`'s keys use the block that a key sets. -/
def usesBlock (keys : List KeyRec) (inputs : List Nat) (key : List Byte) : Bool :=
  match keyInput key with
  | some i => inputs.contains i
  | none => keys.any fun k => (splitBy '.' k.1).head? == (splitBy '.' key).head?

/-- The keys of `plans` that set the blocks of `inputs` or those that `keys` use. -/
def keysFor (s : State) (plans : List Nat) (keys : List KeyRec) (inputs : List Nat) : List KeyRec :=
  plans.flatMap fun m => (effKeys s m).filter fun k => usesBlock keys inputs k.1

/-- Every field that a key of a running plan, or of plan `n`, sets in the blocks that plan `n` uses. -/
def settled (s : State) (n : Nat) : State :=
  let keys := effKeys s n
  applySettings (keysFor s (running s) keys (planInputs s n) ++ keys) (planInputs s n) s

/-- The blocks of an input that keys set are enabled and committed (R125, R165, R232). -/
def commitInput (keys : List KeyRec) (i : Nat) (s : State) : State :=
  let l := leadOf i
  let s := wbCommit l (setFld (wbB l) R.WB_CTRL_EN 1 s)
  let s := if setsBlock keys "trg" i then
    trgCommit l (setFld (trgB (l + 1)) R.TRG_CTRL_EN 1 (setFlds (trgB l) [(R.TRG_FAB_ALIGN, alignOf s l), (R.TRG_CTRL_EN, 1)] s))
  else s
  if setsBlock keys "dens" i then densCommit l (setFld (densB l) R.DENS_CTRL_EN 1 s) else s

/-- An input that a plan uses is enabled in the blocks its keys set, and they are committed (R72, R201). -/
def enableInput (keys : List KeyRec) (i : Nat) (s : State) : State :=
  let l := leadOf i
  let s := commitInput keys i s
  let s := if s.part = .s2d then s else setFld (acqB i) R.ACQ_CTRL_EN 1 s
  let s := setFld (recB l) R.REC_TARN_CTRL_EN 1 s
  let host := match keyOf keys (asc ("rec.a" ++ toString i ++ ".arm")) with | some v => v.n 0 == 1 | none => false
  let co := match keyOf keys (asc ("rec.a" ++ toString i ++ ".change_only")) with | some v => v.alt == 1 | none => false
  let s := if co then setFld (recB l) R.REC_CO_CTRL_EN 1 s else s
  if !setsBlock keys "rec" i then s
  else
    let s := setFld (recB l) R.REC_CTRL_EN 1 s
    if host then s else busWrite .planner (recB l + R.REC_CMD) 1 s

/-! Admission (R347 to R349). -/

/-- Two records of one key have the same value (R344). -/
def sameValue (x y : KeyRec) : Bool :=
  x.2 == y.2 || match keyValue keyRows x, keyValue keyRows y with
    | some a, some b => a.2.2 == b.2.2
    | _, _ => false

/-- Two plans set a block key to different values (R344). -/
def keysConflict (a b : List KeyRec) : Bool :=
  a.any fun x => (findKey keyRows x.1).isSome && b.any fun y => x.1 == y.1 && !sameValue x y

/-- A plan's flash staging claim over all hubs, in MiB (R366). -/
def planClaim (s : State) (n : Nat) : Nat := planStage s n * s.part.hubs

/-- EPB in µJ per MiB (R365), with EPB.EPB as the last ledger step took it (R378). -/
def epb (s : State) : Nat := max (s.rdF (pwrB 0) R.PWR_EPB_EPB) (s.rd (pwrB 0) R.PWR_EPB_MEASURED)

/-- Claims of the running plans and of plan `n` break the flush-debt invariant, or have no bank to rest on (R366, R369). -/
def holdupFails (s : State) (n : Nat) : Bool :=
  let b := pwrB 0
  if s.on b R.PWR_CTRL_HOLDUP_EN then
    let sum := ((running s).map (planClaim s)).sum + planClaim s n
    decide (s.rd b R.PWR_E_AVAIL_E * 1000 < sum * epb s + s.rdF b R.PWR_RESERVE_RESERVE * 1000)
  else decide (0 < planClaim s n) && !s.on (planNB n) R.PLAN_n_CFG_UNPROTECTED

/-- The ledger gain of domain `d` (R361). -/
def gainReg (d : Nat) : Fld := { R.PWR_GAIN_d_GAIN with off := R.PWR_GAIN_d_GAIN.off + 4 * d }

/-- Predicted power in mW: the power model's costs by domain, multiplied by the ledger gains (R372). -/
def predict (s : State) (costs : List Nat) : Nat :=
  (((List.range 13).map fun d => at0 costs d * s.rd (pwrB 0) (gainReg d)).sum + 16384) / 32768

/-- The power cap as it acts (R372): the value that the last ledger step took (R378), at most the package maximum. -/
def capNow (s : State) : Nat := min (s.rdF (pwrB 0) R.PWR_CAP_CAP) s.part.maxPower

/-- Peak rate of a hub's usable channels in MB/s (R488). -/
def ddrPeak (s : State) (h : Nat) : Nat :=
  let mts := ([4800, 5600, 6400, 7200, 8000][s.rd (ddrB h) R.DDR_STATUS_MTS]?).getD 8000
  8 * mts * (([0, 1].filter fun c => s.chMib h c != 0).length)

/-- Memory that plans may use on a hub: less the boot region on H0 (R172, R389). -/
def planMib (s : State) (h : Nat) : Nat := s.hubLimit h / 2 ^ 20 - (if h = 0 then 64 else 0)

/-- The flash rate that plans may use on a hub in MB/s: less what a rebuild takes (R33, R459, R475). -/
def flashRate (s : State) (h : Nat) : Nat :=
  min 16000 (s.rd (nfsB h) R.NFS_RATE_MBPS)
    - (if s.on (nfsB h) R.NFS_STATUS_REBUILD then s.rd (nfsB h) R.NFS_REBUILD_MBPS else 0)

/-- The checks of R347 in table order: whether each fails, and its reason code. -/
def admissionChecks (s : State) (n : Nat) (p : PlanNeed) : List (Bool × Nat) :=
  let run := running s
  let keys := effKeys s n
  let t := settled s n
  let inputs := planInputs s n
  let dies := p.dies.toNat ||| planDies s n
  let spares := s.on (planNB n) R.PLAN_n_CFG_SPARES
  let hubs := s.hubList
  let all := (List.range s.inputs).filter fun i => inputs.contains i || run.any fun m => (planInputs s m).contains i
  let routes := routesWith s (run ++ [n]) n p.streams
  let every := (run.flatMap (effKeys s)) ++ keys
  let dens := all.filter (setsBlock every "dens")
  let zooms := (run.flatMap fun m => (s.planSt m).zooms.map fun z => (effKeys s m, z))
    ++ (newZooms s run keys p.zooms).map fun z => (keys, z)
  let own := dieLoads s t dens zooms
  let linkOver := fun d => decide (110000 < linkLoad s t all routes own d + (at0 p.links d : Nat))
  let memory := fun h => memoryLoad s t all routes own p h
  let regions := fun h => ((all.filter fun i => hubOf s (leadOf i) == h).map fun i => inputBytes t i (dens.contains i)).sum
    + ringBytes s zooms h + at0 p.mib h * 2 ^ 20
  [(s.rd (planNB n) R.PLAN_n_STATE_REASON == 12, 12),
   (decide (dies &&& s.part.present ≠ dies) || decide (dies &&& s.lostDies ≠ 0)
      || decide (s.rd (planNB n) R.PLAN_n_CFG_INPUTS ≥ 2 ^ s.inputs), 11),
   (run.any fun m => keysConflict keys (effKeys s m), 15),
   (inputs.any fun i => decide ((pairPipes s i).length < pipesNeeded t i), 1),
   (spares && ((inputs.any fun i => decide ((pairPipes s i).length < pipesNeeded t i + 1))
      || !reserveKept s (coresOf keys (newZooms s run keys p.zooms))), 9),
   (!channelsOk s t run keys p.zooms, 10),
   (!coresOk s t run keys p.zooms, 7),
   ((List.range 18).any linkOver, 2),
   (hubs.any fun h => decide (0 < memory h) && decide ((85 * ddrPeak s h : Nat) < (memory h + 10240) * 100)
      || decide (planMib s h * 2 ^ 20 < regions h), 3),
   (hubs.any fun h => decide (flashRate s h < at0 p.flash h), 4),
   (hubs.any fun h => ethOver s t routes p h, 5),
   (decide (capNow s < predict s p.power) || s.on (pwrB 0) R.PWR_STATE_OVER_CAP, 6),
   (holdupFails s n, 8)]

/-- The reason that refuses plan `n`, if a check fails. -/
def refusal (s : State) (n : Nat) (p : PlanNeed) : Option Nat := ((admissionChecks s n p).find? (·.1)).map (·.2)

/-- A refused plan waits: WAITFIT, HOLDUP while the bank charges, or flash of a store that is not mounted (R349, R370,
R482). -/
def waits (s : State) (n r : Nat) (p : PlanNeed) : Bool :=
  s.on (planNB n) R.PLAN_n_CFG_WAITFIT || (r == 8 && decide (0 < planStage s n) && s.ledger.rising)
    || (r == 4 && s.hubList.any fun h => decide (0 < at0 p.flash h) && s.rd (nfsB h) R.NFS_RATE_MBPS == 0)

/-- A refusal is reported in PLAN_REFUSE and counted. -/
def reportRefusal (n r : Nat) (s : State) : State :=
  (s.wrs (planB 0) [(R.PLAN_REFUSE_SLOT, n), (R.PLAN_REFUSE_REASON, r), (R.PLAN_REFUSE_VALID, 1)]).inc (planB 0)
    R.PLAN_REFUSE_COUNT_REFUSALS

def refuse (n r : Nat) (wait : Bool) (s : State) : State :=
  (reportRefusal n r s).wrs (planNB n) [(R.PLAN_n_STATE_REASON, r), (R.PLAN_n_STATE_STATE, if wait then 5 else 6)]

/-- With plan.NAME.flash_protect = on the sources that a plan enables open recordings with PROTECT (R484). -/
def protectWrites (keys : List KeyRec) (l : List (Nat × Nat)) : List (Nat × Nat) :=
  match keys.find? (·.1 == asc "flash_protect") with
  | none => l
  | some k =>
    let on := match keyValue keysPlan k with | some (_, _, v) => v.n 0 | none => 0
    l.map fun w => match place w.1 with
      | some (.nfs, _, o) => if 0x1000 ≤ o ∧ o % 0x20 = 0 then (w.1, bitsPut w.2 R.NFS_SRC_s_CTRL_PROTECT.lo 1 on) else w
      | _ => w

/-- The plan's settings and placements are written and committed (R348, R352, R353). -/
def placePlan (n : Nat) (p : PlanNeed) (s : State) : State :=
  let run := running s
  let keys := effKeys s n
  let inputs := planInputs s n
  let new := newZooms s run keys p.zooms
  let t := settled s n
  let held := keysFor s run keys inputs
  let t := inputs.foldl (fun t i => placeMasks (held ++ keys) i (masksOf held i) (placePipes i t)) t
  let t := (List.range 4).foldl (fun t d => if t.usableT d && bit t.powered (2 + d) then holdSpares d t else t) t
  let t := placeZooms keys new p.cores t
  let t := ((planRoutes s n).zip p.streams).foldl placeRoute t
  let t := busWrites .planner (protectWrites keys p.writes) t
  inputs.foldl (fun t i => enableInput keys i t) t

/-- The DMA channels are shared out between host and planner by HOST_CH, which an admission reads (R513). -/
def dmaOwners (s : State) : State :=
  s.hubList.foldl (fun s h =>
    let hosts := min 16 (s.rd (dmaB h) R.DMA_CFG_HOST_CH)
    (List.range 16).foldl (fun s k =>
      s.wr (dmaB h + 0x40 * k) R.DMA_k_CFG_OWNER (b2n (decide (hosts ≤ k)))) s) s

/-- The plan is admitted: it runs from here on. -/
def admitted (n : Nat) (p : PlanNeed) (s : State) : State :=
  let zooms := planZooms s (running s) (effKeys s n) p.zooms
  let dies := p.dies.toNat ||| planDies s n
  let streams := planStreams s n p.streams
  let s := placePlan n p (dmaOwners (wakeDies dies s))
  let s := (s.wrs (planNB n) [(R.PLAN_n_STATE_STATE, 4), (R.PLAN_n_STATE_REASON, 0), (R.PLAN_n_PRED_POWER, min (2 ^ 17 - 1) (predict s p.share))]).inc
    (planB 0) R.PLAN_ADMIT_COUNT_ADMITS
  let s := s.wrs (pwrB 0) [(R.PWR_PRED_POWER, predict s p.power), (R.PWR_STATE_STATE, if diesOn s = 0 then 1 else 2)]
  { s.modPlan n (fun q => { q with admitted := s.admissions + 1, dies := dies, zooms := zooms, streams := streams }) with
    admissions := s.admissions + 1 }

/-- A repair is being placed, so admissions wait (R355). -/
def repairWaits (s : State) : Bool := s.hubList.any fun h => !(s.repairSt h).faults.isEmpty

/-- An admission: the checks, then the admission or the refusal. -/
def tryAdmit (n : Nat) (p : PlanNeed) (s : State) : State :=
  if repairWaits s then s
  else match refusal s n p with
    | some r => refuse n r (waits s n r p) s
    | none => admitted n p s

/-- A plan that waits is checked again; nothing changes where it still fails (R349). A suspended plan is checked only with
WAITFIT = 1 (R373). -/
def recheck (n : Nat) (p : PlanNeed) (s : State) : State :=
  let st := planState s n
  if repairWaits s || !(st == 5 || (st == 7 && s.on (planNB n) R.PLAN_n_CFG_WAITFIT)) then s
  else match refusal s n p with
    | some _ => s
    | none => admitted n p s

/-- Rechecks in priority order, lower slots first at equal priority (R349). -/
def recheckAll (l : List (Fin 32 × PlanNeed)) (s : State) : State :=
  let key := fun (x : Fin 32 × PlanNeed) => 32 * planPrio s x.1 + x.1.val
  ((l.mergeSort fun a b => decide (key a ≤ key b))).foldl (fun s x => recheck x.1 x.2 s) s

/-! Stops (R351, R352, R368, R373). -/

/-- The blocks of input `i` that keys of running plans may set and that `keys` leave alone: their EN fields are 0. -/
def disableBlocks (keys : List KeyRec) (i : Nat) (s : State) : State :=
  let l := leadOf i
  let s := if setsBlock keys "rec" i then s
    else setFld (recB l) R.REC_CTRL_EN 0 (setFld (recB l) R.REC_CO_CTRL_EN 0 (busWrite .planner (recB l + R.REC_CMD) 2 s))
  let s := if setsBlock keys "dens" i then s else densCommit l (setFld (densB l) R.DENS_CTRL_EN 0 s)
  if setsBlock keys "trg" i then s else setFld (trgB (l + 1)) R.TRG_CTRL_EN 0 (setFld (trgB l) R.TRG_CTRL_EN 0 s)

/-- An input that no running plan uses any more: its blocks' EN fields are 0. -/
def disableInput (i : Nat) (s : State) : State :=
  let l := leadOf i
  let s := disableBlocks [] i (setFld (recB l) R.REC_TARN_CTRL_EN 0 s)
  let s := setFld (chzB (l + 1)) R.CHZ_CTRL_EN 0 (setFld (chzB l) R.CHZ_CTRL_EN 0 s)
  let s := wbCommit l (setFld (wbB l) R.WB_CTRL_EN 0 s)
  if s.part = .s2d then s else setFld (acqB i) R.ACQ_CTRL_EN 0 s

/-- What plan `n` held is released; the blocks it shares with running plans are written for those (R352). -/
def releasePlan (n : Nat) (s : State) : State :=
  let rest := (running s).filter (· != n)
  let used := rest.flatMap (planInputs s)
  let keys := effKeys s n
  let held := rest.flatMap fun m => (s.planSt m).zooms
  let mine := (s.planSt n).zooms.filter fun p => !held.contains p
  let cores := (coresOf keys mine).filter fun c => !(runningCores s rest).contains c
  let s := mine.foldl (fun s p => setFld (zcB p.die p.chan) R.ZC_n_CTRL_EN 0 s) s
  let s := (List.range 4).foldl (fun s t =>
    let s := selectWords (cctlB t + R.CCTL_STOP_k) 5 ((cores.filter (·.1 == t)).map (·.2)) s
    selectWords (chzB t + R.CHZ_COMMIT_k) 4 (zoomsOf mine t) s) s
  let s := (s.planSt n).streams.foldl (fun s x => setFld (strB (x / 64) (x % 64)) R.ETH_STR_t_CFG_EN 0 s) s
  let s := ((planInputs s n).filter fun i => !used.contains i).foldl (fun s i => disableInput i s) s
  let shared := (planInputs s n).filter used.contains
  let s := applySettings (keysFor s rest keys shared) shared s
  shared.foldl (fun t i =>
    let users := (rest.filter fun m => (planInputs s m).contains i).flatMap (effKeys s)
    commitInput users i (disableBlocks users i t)) s

/-- The plan no longer runs: its share leaves the prediction, and what it held is released. -/
def leave (n : Nat) (writes : List (Nat × Nat)) (s : State) : State :=
  if planState s n ≠ 4 then s
  else
    let s := busWrites .planner writes (releasePlan n s)
    let share := s.rd (planNB n) R.PLAN_n_PRED_POWER
    let s := s.wr (pwrB 0) R.PWR_PRED_POWER (s.rd (pwrB 0) R.PWR_PRED_POWER - share)
    (s.wr (planNB n) R.PLAN_n_PRED_POWER 0).modPlan n fun q => { q with zooms := [], streams := [], admitted := 0 }

/-- Device time in seconds. -/
def nowSec (s : State) : Nat := s.now.toNat / (65536 * 1000000000)

/-- Where a plan that has ended goes: scheduled again for its next period, or LOADED (R351). -/
def afterEnd (n : Nat) (s : State) : State :=
  let q := s.planSt n
  if q.period = 0 then setPlanState n 1 s
  else
    let k := if nowSec s < q.due then 1 else (nowSec s - q.due) / q.period + 1
    (setPlanState n 2 s).modPlan n fun q => { q with due := q.due + k * q.period }

/-- A plan stops, whatever holds it: running, scheduled, waking, waiting or suspended (R351). -/
def stopPlan (n : Nat) (writes : List (Nat × Nat)) (s : State) : State :=
  let st := planState s n
  if st = 0 ∨ st = 1 ∨ st = 6 then s else afterEnd n (leave n writes s)

/-- The planner stops a plan for a fault, with a reason (R621). -/
def stopFor (n r : Nat) (s : State) : State := (stopPlan n [] s).wr (planNB n) R.PLAN_n_STATE_REASON r

/-- The planner suspends a running plan (R368, R373). -/
def suspend (n r : Nat) (writes : List (Nat × Nat)) (s : State) : State :=
  if planState s n ≠ 4 then s
  else
    ((leave n writes s).wrs (planNB n) [(R.PLAN_n_STATE_STATE, 7), (R.PLAN_n_STATE_REASON, r)]).inc (planB 0)
      R.PLAN_SUSPEND_COUNT_SUSPENDS

/-- The running plan of lowest priority, the latest admission first at equal priority, among those of which `p` holds. -/
def victim (s : State) (p : Nat → Bool) : Option Nat :=
  let l := (running s).filter p
  l.find? fun n => l.all fun m =>
    decide (planPrio s m < planPrio s n)
      || (planPrio s m == planPrio s n && decide ((s.planSt m).admitted ≤ (s.planSt n).admitted))

/-! The schedule (R358). -/

/-- LEAD of a plan in milliseconds (R358). -/
def planLead (s : State) (n : Nat) : Nat :=
  let dies := planDies s n
  let wake := s.rd (planNB n) R.PLAN_n_CFG_WAKE
  let off := fun (m : Nat) => decide ((dies &&& m) &&& (s.powered &&& m) ≠ dies &&& m)
  let cal := if wake ≠ 0 ∧ off 0xC0 = true then 1040 else 0
  let tarn := if wake = 2 then
      (planInputs s n).foldl (fun m i =>
        if (s.recSt (leadOf i)).tarn.run then m
        else max m (max 16 (s.rd (recB (leadOf i)) R.REC_TARN_DEPTH_DEPTH) * 64 / 10000)) 0
    else 0
  (if inAon s then s.rd (planB 0) R.PLAN_LEAD_AON_MS else 0)
    + (if off 0xFC then s.rd (planB 0) R.PLAN_LEAD_DIE_MS else 0) + max cal tarn

/-- Milliseconds until a scheduled plan's wake; none where nothing is scheduled or the time is not set. -/
def wakeIn (s : State) (n : Nat) : Option Nat :=
  if planState s n = 2 ∧ ((s.planSt n).start = 2 ^ 64 - 1 ∨ s.on (timeB 0) R.TIME_STATUS_SET = true) then
    some ((s.planSt n).due * 1000 - planLead s n - s.now.toNat / (65536 * 1000000))
  else none

/-- The plan due next and the seconds until its wake (PLAN_NEXT). -/
def nextPlan (s : State) : Option (Nat × Nat) :=
  allSlots.foldl (fun b n => match b, wakeIn s n with
    | none, some w => some (n, w / 1000)
    | some (m, v), some w => if w / 1000 < v then some (n, w / 1000) else some (m, v)
    | b, none => b) none

/-- PLAN_NEXT shows the plan due next. -/
def showNext (s : State) : State :=
  let x := (nextPlan s).getD (31, 0xFFFFFF)
  s.wrs (planB 0) [(R.PLAN_NEXT_SLOT, x.1), (R.PLAN_NEXT_DUE_S, min 0xFFFFFF x.2)]

/-- What the planner does while it runs; PLAN_NEXT follows. -/
def planStep (f : State → State) (s : State) : State := if plannerRuns s then showNext (f s) else s

/-! Plan records (R345, R385). -/

/-- The inputs of a plan: its key `inputs`, or those that its other keys name. -/
def recordInputs (keys : List KeyRec) : Nat :=
  match keyValue keysPlan (asc "inputs", ((keys.find? (·.1 == asc "inputs")).map (·.2)).getD []) with
  | some (_, _, v) => v.n 0
  | none => keys.foldl (fun m k => match keyInput k.1 with | some i => m ||| 2 ^ i | none => m) 0

/-- Key errors are counted and set KEY_WARN (R390). -/
def keyErrors (n : Nat) (s : State) : State :=
  if n = 0 then s
  else (s.inc (bootB 0) R.BOOT_KEY_ERRS_ERRORS n).wr (bootB 0) R.BOOT_STATUS_KEY_WARN 1

/-- A NAME without its padding. -/
def trimName (l : List Byte) : List Byte := l.takeWhile (· != 0)

/-- The names of the sections that keys may name. -/
def sectionNames (s : State) : List (List Byte) :=
  (s.boot.sections.filter fun x => x.type = 3 ∨ x.type = 4).map (·.name)

/-- The key records of a plan: those that stand, and how many errors there are. -/
def planRecords (names : List (List Byte)) (l : List Byte) : List KeyRec × Nat :=
  let (r, e) := keyRecords l.length l []
  let ok := r.filter fun k => !headerKey k.1 && !keyError (keyRows ++ keysPlan) names k
  (ok, e + (r.length - ok.length))

/-- Whether a plan record's CRC holds (R385). -/
def recordCrcOk (head keys : List Byte) : Bool := crc32 (head.take 60 ++ keys) == ofLe ((head.drop 60).take 4)

/-- A plan record goes into slot `n`, SCHEDULED for its START; `boot` is the time it is loaded (R348, R385). -/
def putPlan (n : Nat) (head : List Byte) (keys : List KeyRec) (s : State) : State :=
  let f := fun o k => ofLe ((head.drop o).take k)
  let fl := f 49 1
  let start := f 32 8
  let s := s.modPlan n fun q =>
    { name := trimName (head.take 32), start := start, duration := f 40 4, period := f 44 4, keys := keys
      due := if start = 2 ^ 64 - 1 then nowSec s else start, energy := q.energy, work := q.work }
  s.wrs (planNB n) [(R.PLAN_n_CFG_PRIO, min 15 (f 48 1)), (R.PLAN_n_CFG_INPUTS, recordInputs keys),
    (R.PLAN_n_CFG_SPARES, bitsOf fl 0 1), (R.PLAN_n_CFG_WAITFIT, bitsOf fl 1 1),
    (R.PLAN_n_CFG_UNPROTECTED, bitsOf fl 2 1), (R.PLAN_n_CFG_WAKE, bitsOf fl 3 2),
    (R.PLAN_n_STAGE_STAGE, f 52 4), (R.PLAN_n_PRED_POWER, 0), (R.PLAN_n_STATE_REASON, 0), (R.PLAN_n_STATE_STATE, 2)]

/-- OP = LOAD: the record at PLAN_STAGE_BASE of the lead hub's memory goes into the slot, or is refused with SLOT or FORMAT
(R345, R385, R402). -/
def planLoad (n : Nat) (s : State) : State :=
  let h := s.lead
  let at_ := s.rd (planB 0) R.PLAN_STAGE_BASE_BASE * 2 ^ 20
  let head := s.bytes h at_ 64
  let size := ofLe ((head.drop 56).take 4)
  if s.on (bootB 0) R.BOOT_LOCK_PLAN_LOAD then ignored8 s h (planB h + R.PLAN_CMD)
  else if planState s n ≠ 0 ∧ planState s n ≠ 1 ∧ planState s n ≠ 6 then reportRefusal n 14 s
  else if s.hubLimit h < at_ + 64 + size then refuse n 12 false s
  else
    let body := s.bytes h (at_ + 64) size
    if !recordCrcOk head body then refuse n 12 false s
    else
      let (keys, e) := planRecords (sectionNames s) body
      putPlan n head keys (keyErrors e s)

/-- PLAN_LOAD (R345). -/
def execPlanLoad (n : Fin 32) (s : State) : Host.Outcome State Fault Refusal :=
  .next (planStep (fun s => planLoad n (takeCmd n 1 s)) s)

/-- PLAN_ADMIT: OP = ADMIT: the plan in the slot is admitted now (R347, R375). -/
def execPlanAdmit (n : Fin 32) (p : PlanNeed) (s : State) : Host.Outcome State Fault Refusal :=
  .next (planStep (fun s =>
    if planState s n = 0 ∨ planState s n = 4 then takeCmd n 2 s else tryAdmit n p (takeCmd n 2 s)) s)

/-- PLAN_STOP (R351). -/
def execPlanStop (n : Fin 32) (e : PlanEnd) (s : State) : Host.Outcome State Fault Refusal :=
  .next (planStep (fun s => recheckAll e.again (stopPlan n e.writes (takeCmd n 3 s))) s)

/-- A slot becomes EMPTY; its counters stay (R360, R375). -/
def emptySlot (n : Nat) (s : State) : State :=
  let s := s.modPlan n fun q => { energy := q.energy, work := q.work }
  { s with regs := tclear s.regs (planNB n + 0x100) (planNB n + 0x110) }

/-- PLAN_CLEAR (R375). -/
def execPlanClear (n : Fin 32) (e : PlanEnd) (s : State) : Host.Outcome State Fault Refusal :=
  .next (planStep (fun s => recheckAll e.again (emptySlot n (stopPlan n e.writes (takeCmd n 4 s)))) s)

/-- Whether a plan's START has come (R347, R348); an STS waits for the first SET, and `boot` does not (R416). -/
def startDue (s : State) (n : Nat) : Bool :=
  let q := s.planSt n
  let boot := q.start == 2 ^ 64 - 1
  boot && q.period == 0 || (boot || s.on (timeB 0) R.TIME_STATUS_SET) && decide (q.due ≤ nowSec s)

/-- PLAN_START: a scheduled plan's START has come (R347). -/
def execPlanStart (n : Fin 32) (p : PlanNeed) (s : State) : Host.Outcome State Fault Refusal :=
  .next (planStep (fun s =>
    if (planState s n == 2 || planState s n == 3) && s.on (planB 0) R.PLAN_CTRL_EN && startDue s n then tryAdmit n p s
    else s) s)

/-- PLAN_END: START + DURATION has come: a running plan ends, one that waits or is suspended gives up (R349, R351). -/
def execPlanEnd (n : Fin 32) (e : PlanEnd) (s : State) : Host.Outcome State Fault Refusal :=
  .next (planStep (fun s =>
    let q := s.planSt n
    let st := planState s n
    if q.duration == 0 || (q.period != 0 && decide (q.period ≤ q.duration)) then s
    else if st = 4 then recheckAll e.again (afterEnd n (leave n e.writes s))
    else if st = 5 ∨ st = 7 then setPlanState n 1 s
    else s) s)

/-- The converters and the Tarn of an input run from a plan's wake on, so that calibration and Tarn fill end by its START
(R352, R358). -/
def wakeInput (s : State) (i : Nat) : State :=
  let s := if s.part = .s2d then s else setFld (acqB i) R.ACQ_CTRL_EN 1 s
  setFld (recB (leadOf i)) R.REC_TARN_CTRL_EN 1 s

/-- PLAN_WAKE: at START - LEAD the planner wakes the dies the plan needs and writes their fields (R352, R358). -/
def execPlanWake (n : Fin 32) (dies : BitVec 8) (s : State) : Host.Outcome State Fault Refusal :=
  .next (planStep (fun s =>
    if planState s n ≠ 2 then s
    else
      let mask := dies.toNat ||| planDies s n
      (setPlanState n 3 ((planInputs s n).foldl wakeInput (settled (wakeDies mask s) n))).modPlan n fun q => { q with dies := mask }) s)

/-! Sleep (R359). -/

/-- Whether a plan that runs or wakes needs die `d`, or one needs it within `sec` seconds. -/
def dieNeeded (s : State) (d sec : Nat) : Bool :=
  allSlots.any fun n =>
    let st := planState s n
    bit (planDies s n) d && (st == 4 || st == 3 ||
      (match wakeIn s n with | some w => decide (w ≤ sec * 1000) | none => false))

/-- Every rail but VAON and those of `enables` goes off (R658, R659): capture memory, the links and what the stores held in
the hubs are gone, and the stores are no longer mounted. -/
def railsOff (enables : Nat) (s : State) : State :=
  let s := s.hubList.foldl (fun s h =>
    let s := ddrHub h (fun _ => 0) ([0, 1].foldl (fun s c => setDdrState h c 0 s) (nfsPowerOff h s))
    s.wrs (nfsB h) [(R.NFS_STATUS_MOUNTED, 0), (R.NFS_RATE_MBPS, 0)]) s
  { s with cap := [], ddr := [], link := [], rails := { s.rails with enables := enables } }

/-- NFS_CLOSED: the flush ends: the rows sealed are confirmed, the metadata and its CLEAN marker are written (R479).
Once every store is CLOSED the rails go off (R659). -/
def execNfsClosed (h : Hub) (s : State) : Host.Outcome State Fault Refusal :=
  if !s.hasHub h || !s.on (nfsB h) R.NFS_STATUS_FLUSH then .next s
  else
    let s := nfsFlush h s
    let s := s.modNfs h fun q => { q with rows := q.rows.map fun r => { r with passed := true }, clean := true }
    let s := nfsAdvance h s
    let s := s.wrs (nfsB h) [(R.NFS_STATUS_FLUSH, 0), (R.NFS_STATUS_CLOSED, 1)]
    .next (if s.rd (pwrB 0) R.PWR_STATE_STATE = 3 ∧ (s.hubList.all fun k => s.on (nfsB k) R.NFS_STATUS_CLOSED) = true
      then railsOff 0 s else s)

/-- PWR_STATE.STATE after dies have been powered down: AON only where deep sleep is allowed, nothing is due soon and no
flush debt is left (R359). In AON the rails are off and capture memory is lost. -/
def settlePower (s : State) : State :=
  if diesOn s ≠ 0 then s
  else
    let due := allSlots.any fun n => match wakeIn s n with
      | some w => decide (w ≤ s.rd (planB 0) R.PLAN_SLEEP_AON_S * 1000)
      | none => false
    if s.on (pwrB 0) R.PWR_CTRL_DEEP_SLEEP && !due && decide (pendingMib s = 0) && (running s).isEmpty then
      (railsOff 1 (s.hubList.foldl (fun s h => ethDrop h 15 s) s)).wr (pwrB 0) R.PWR_STATE_STATE 0
    else s.wr (pwrB 0) R.PWR_STATE_STATE 1

/-- Power off every die in `l` that nothing needs. -/
def sleepDies (l : List Nat) (s : State) : State :=
  settlePower (l.foldl (fun s d =>
    if 2 ≤ d && bit s.powered d && !dieNeeded s d (s.rd (planB 0) R.PLAN_SLEEP_SLEEP_S) then dieOff d s else s) s)

/-- DIE_SLEEP: die `d` (its bit in CHIP_CONFIG.PRESENT) has been unneeded for SLEEP_S (R359). -/
def execDieSleep (d : Fin 8) (s : State) : Host.Outcome State Fault Refusal :=
  .next (planStep (sleepDies [d.val]) s)

/-- PWR_CMD.SLEEP: the rule of R359 is applied now. -/
def pwrSleep (s : State) : State := planStep (sleepDies (List.range 8)) s
def execPwrCmdSleep (s : State) : Host.Outcome State Fault Refusal := .next (pwrSleep s)

/-- An exit from AON: the start-up runs again from the rails row (R397). -/
def aonExit (s : State) : State :=
  if inAon s then
    { (s.wr (pwrB 0) R.PWR_STATE_STATE 1).wr (bootB 0) R.BOOT_STATUS_STATE 1 with
      rails := { s.rails with next := 0, tries := 0 } }
  else s

/-- PWR_CMD.WAKE (R359). -/
def execPwrCmdWake (s : State) : Host.Outcome State Fault Refusal := .next (aonExit s)

/-- AON_EXIT: a due plan or a host access wakes the S8G (R359, R397). -/
def execAonExit (s : State) : Host.Outcome State Fault Refusal := .next (aonExit s)

/-- NFS_MOUNTED: the mount of a store ends, and plans that wait are checked again (R480 to R482). -/
def execNfsMounted (h : Hub) (kept : List Nat) (again : List (Fin 32 × PlanNeed)) (s : State) :
    Host.Outcome State Fault Refusal :=
  let t := nfsMountEnd h kept s
  .next (if again.isEmpty || s.on (nfsB h) R.NFS_STATUS_MOUNTED || !t.on (nfsB h) R.NFS_STATUS_MOUNTED then t
    else planStep (recheckAll again) t)

/-- HOLDUP_RECHECK: every 100 ms a plan that waits for HOLDUP, or for a store to mount, is checked again (R370, R482). -/
def execHoldupRecheck (n : Fin 32) (p : PlanNeed) (s : State) : Host.Outcome State Fault Refusal :=
  .next (planStep (fun s =>
    let r := s.rd (planNB n) R.PLAN_n_STATE_REASON
    if planState s n == 5 && (r == 8 || r == 4) then recheck n p s else s) s)

/-! Suspensions (R368, R373). -/

/-- THROTTLE_SUSPEND: a writer has waited SUSPEND_MS: the lowest-priority plan that claims staging is suspended (R368). -/
def execThrottleSuspend (e : PlanEnd) (s : State) : Host.Outcome State Fault Refusal :=
  .next (planStep (fun s =>
    if s.on (pwrB 0) R.PWR_STATE_THROTTLE && s.rd (pwrB 0) R.PWR_THROTTLE_SUSPEND_MS != 0 then
      match victim s fun n => decide (0 < planStage s n) with
      | some n => recheckAll e.again (suspend n 8 e.writes s)
      | none => s
    else s) s)

/-- Running plans are suspended until the prediction is within the cap (R373). -/
def capSuspend (l : List (Fin 32 × PlanEnd)) : (fuel : Nat) → State → State
  | 0, s => s
  | f + 1, s =>
    if s.rd (pwrB 0) R.PWR_PRED_POWER ≤ capNow s then s
    else match victim s fun _ => true with
      | some n => capSuspend l f (suspend n 13 (((l.find? fun x => x.1.val == n).map (·.2.writes)).getD []) s)
      | none => s

/-- Writes to PWR_CAP, VMIN, DERATE, RESERVE and EPB take effect at a ledger step (R378). -/
def takePwr (s : State) : State :=
  let b := pwrB 0
  ((s.enforceRegs b R.PWR_CAP (R.PWR_CAP + 4)).enforceRegs b R.PWR_VMIN (R.PWR_VMIN + 4)).enforceRegs b R.PWR_DERATE
    (R.PWR_EPB + 4)

/-- What the planner does in a ledger step that changed the cap in force from `cap` and the available energy from `e`: a
lower cap suspends plans (R373); a rise of either lets waiting plans be checked again (R349). -/
def capAct (cap e : Nat) (ends : List (Fin 32 × PlanEnd)) (again : List (Fin 32 × PlanNeed)) (s : State) : State :=
  let s := if capNow s < cap then capSuspend ends 32 s else s
  if cap < capNow s ∨ e < s.rd (pwrB 0) R.PWR_E_AVAIL_E then recheckAll again s else s

/-- PWR_CAP_WRITE: path `p` writes PWR_CAP through the lead hub (R402); the planner acts on it at the next ledger step
(R373, R378). -/
def execPwrCapWrite (p : Path) (v : BitVec 17) (s : State) : Host.Outcome State Fault Refusal :=
  .next (if pathReaches s p (pwrB s.lead + R.PWR_CAP) then busWrite p (pwrB s.lead + R.PWR_CAP) v.toNat s
  else { s with access := 0 })

end Sys2Proof.Machine
end

