-- ==== Sys2Proof/Machine/Ledger.lean ====
section
/-! DEFINITION. The energy ledger: counters, the bank, calibration and the capacitance test (R360 to R367, R374, R655). -/

namespace Sys2Proof.Machine

/-- Energy of each domain in a step, in 2^-15 µJ: the estimate times the domain's gain (R361). -/
def stepEnergy (s : State) (l : LedgerIn) : List Nat := (List.range 13).map fun d => at0 l.est d * s.rd (pwrB 0) (gainReg d)

/-- A plan's share of each domain, in proportion to the resource time it holds among the running plans (R362). -/
def planShare (s : State) (l : LedgerIn) (e : List Nat) (n : Nat) : Nat :=
  let held := l.held.filter fun x => planState s x.1 == 4
  ((List.range 13).map fun d =>
    let all := (held.map fun x => at0 x.2 d).sum
    let mine := ((held.filter fun x => x.1.val == n).map fun x => at0 x.2 d).sum
    at0 e d * mine / all).sum

/-- The counters of a step (R360, R362). -/
def ledgerCount (l : LedgerIn) (s : State) : State :=
  let e := stepEnergy s l
  let s := (List.range 13).foldl (fun s d =>
    { s with energy := tset noNat s.energy d (tget noNat s.energy d + at0 e d) }) s
  let s := (running s).foldl (fun t n => t.modPlan n fun q => { q with
    energy := q.energy + planShare s l e n
    work := q.work + ((l.works.filter fun x => x.1.val == n).map (·.2)).sum }) s
  if l.flushed = 0 then s
  else s.wr (pwrB 0) R.PWR_EPB_MEASURED (min 65535 (((e.drop 6).take 6).sum / 32768 / l.flushed))

/-- The ledger domains of the rail whose voltage channel is `chan` (R655). -/
def railDomains (chan : Nat) : List Nat :=
  match chan with
  | 8 => [12]
  | 9 => [0, 1, 2, 3, 4, 5, 6, 9]
  | 10 => [2, 3, 4, 5, 6, 9]
  | 11 => [0, 1, 2, 3, 4, 5, 6, 8, 9, 11]
  | 12 => [7, 10]
  | 13 => [8, 11]
  | 14 => [8, 11]
  | 15 => [0, 1]
  | _ => []

def noRat : Nat → Rat := fun _ => 0

/-- Rail assignments as 8 * hub + r. -/
def railsOf (s : State) : List Nat := s.hubList.flatMap fun h => (List.range 8).map (8 * h + ·)

/-- The domains of rail assignment `k`. -/
def domainsOf (s : State) (k : Nat) : List Nat :=
  railDomains (railChan s (k / 8) (s.rd (hkaB (k / 8) + 4 * (k % 8)) R.HK_RAIL_r_VSRC))

/-- Power of the measured rails is taken for the step: PWR_MEAS is the mean of 100 steps, and each rail's energy is
integrated beside the estimate of its domains (R361, R374, R610). -/
def ledgerRails (l : LedgerIn) (s : State) : State :=
  let e := stepEnergy s l
  let rails := (railsOf s).filterMap fun k => (railPower s (k / 8) (k % 8)).map fun p => (k, p)
  let total := rails.foldl (fun t x => t + x.2) (0 : Rat)
  let power := (total :: s.ledger.power).take 100
  let mean := power.foldl (· + ·) (0 : Rat) / (power.length : Nat)
  let s := s.wr (pwrB 0) R.PWR_MEAS_POWER (min (2 ^ 17 - 1) (rnd (mean / 1000)))
  let q := rails.foldl (fun (q : LedgerSt) x =>
    let est : Rat := ((((domainsOf s x.1).map (at0 e)).sum : Nat) : Rat) / 32768
    { q with meas := tset noRat q.meas x.1 (tget noRat q.meas x.1 + x.2 / 1000)
             esti := tset noRat q.esti x.1 (tget noRat q.esti x.1 + est) }) s.ledger
  { s with ledger := { q with power := power } }

/-- The bank's capacitance in 0.01 mF: the nameplate until a test completes (R364). -/
def bankC (s : State) : Nat :=
  if s.on (pwrB 0) R.PWR_STATE_NAMEPLATE then s.rd (pwrB 0) R.PWR_NAMEPLATE_C else s.rd (pwrB 0) R.PWR_HOLDUP_C_C

/-- E_avail in mJ, rounded down (R364, R369). -/
def availOf (s : State) : Nat :=
  let b := pwrB 0
  let v := s.rd b R.PWR_HOLDUP_V_V
  let m := s.rdF b R.PWR_VMIN_VMIN
  if !s.on b R.PWR_CTRL_HOLDUP_EN ∨ v ≤ m then 0
  else min 100 (s.rdF b R.PWR_DERATE_DERATE) * bankC s * (v * v - m * m) / 20000000000

/-- PWR_LIMIT_MIB (R367). -/
def limitOf (s : State) (e : Nat) : Nat :=
  let r := s.rdF (pwrB 0) R.PWR_RESERVE_RESERVE
  if epb s = 0 then 2 ^ 32 - 1 else min (2 ^ 32 - 1) ((e - r) * 1000 / epb s)

/-- The bank's figures, and OVER_CAP (R364 to R367, R374). -/
def ledgerBank (s : State) : State :=
  let b := pwrB 0
  let v := s.rd b R.PWR_HOLDUP_V_V
  let e := availOf s
  let pend := pendingMib s
  let s : State := { s with ledger := { s.ledger with rising := decide (s.ledger.lastV < v), lastV := v } }
  let s := s.wrs b [(R.PWR_E_AVAIL_E, min (2 ^ 32 - 1) e), (R.PWR_PENDING_PENDING, min (2 ^ 32 - 1) pend),
    (R.PWR_DEBT_D, min (2 ^ 32 - 1) (pend * epb s / 1000)), (R.PWR_LIMIT_MIB_LIMIT, limitOf s e)]
  let meas := s.rd b R.PWR_MEAS_POWER
  let was := s.on b R.PWR_STATE_OVER_CAP
  if !was ∧ capNow s * 102 < meas * 100 then (s.wr b R.PWR_STATE_OVER_CAP 1).raise 14 meas
  else if was ∧ meas ≤ capNow s then s.wr b R.PWR_STATE_OVER_CAP 0
  else s

/-- LEDGER_STEP: the 1 ms step of the ledger (R360, R363, R364), at which written power settings take effect (R378). The
shares that the capture-memory channels report are those of the millisecond that ends. -/
def execLedgerStep (l : LedgerIn) (s : State) : Host.Outcome State Fault Refusal :=
  let cap := capNow s
  let e := s.rd (pwrB 0) R.PWR_E_AVAIL_E
  let s := takePwr (ddrLoads s)
  let s := if s.on (pwrB 0) R.PWR_CTRL_LEDGER_EN then ledgerRails l (ledgerCount l s) else s
  .next (planStep (capAct cap e l.ends l.again) (ledgerBank s))

/-- A domain's gain moves by a ratio, held within ±1 % and the range 0.5 to 1.5 (R361). -/
def moveGain (ratio : Rat) (d : Nat) (s : State) : State :=
  let r := if ratio < 99 / 100 then 99 / 100 else if 101 / 100 < ratio then 101 / 100 else ratio
  let g := rnd (s.rd (pwrB 0) (gainReg d) * r)
  let s := s.wr (pwrB 0) (gainReg d) (max 16384 (min 49152 g))
  if g < 16384 ∨ 49152 < g then (s.wr (pwrB 0) R.PWR_STATE_CAL_LIMIT 1).raise 12 d else s

/-- The rails measured over the interval: each one's domains and the ratio of its energy to their estimate (R361). -/
def railRatios (s : State) : List (List Nat × Rat) :=
  (railsOf s).filterMap fun k =>
    let m := tget noRat s.ledger.meas k
    let e := tget noRat s.ledger.esti k
    if e ≤ 0 ∨ m ≤ 0 then none else some (domainsOf s k, m / e)

/-- A calibration: every domain's gain moves once, by the product of the ratios of the measured rails it is on (R361). -/
def calibrate (s : State) : State :=
  let l := railRatios s
  let s := (List.range 13).foldl (fun s d =>
    let mine := l.filter fun x => x.1.contains d
    if mine.isEmpty then s else moveGain (mine.foldl (fun (r : Rat) x => r * x.2) 1) d s) s
  { s with ledger := { s.ledger with meas := [], esti := [] } }

/-- LEDGER_CALIBRATE (R361). -/
def execLedgerCalibrate (s : State) : Host.Outcome State Fault Refusal := .next (calibrate s)

/-- Charger outputs go to their resting level, or resume, as a test begins or ends (R612). -/
def chargers (s : State) : State :=
  s.hubList.foldl (fun s h => (List.range 4).foldl (fun s p => pwmRest h p s) s) s

/-- A capacitance test begins: the charger stops and V0 is recorded (R363). -/
def capTestStart (s : State) : State :=
  let b := pwrB 0
  if s.on b R.PWR_CTRL_TEST_EN && s.rd b R.PWR_BLEED_R != 0 && s.ledger.test.isNone && s.powerGood then
    chargers ({ s with ledger := { s.ledger with test := some (s.rd b R.PWR_HOLDUP_V_V, s.time.frc) } }.wr b
      R.PWR_STATE_TEST 1)
  else s

/-- CAP_TEST_START (R363). -/
def execCapTestStart (s : State) : Host.Outcome State Fault Refusal := .next (capTestStart s)

/-- ln(a / b) in 2^-64 for a > b > 0: twice the series of atanh((a - b) / (a + b)). -/
def lnRatio (a b : Nat) : Nat :=
  let z := (a - b) * 2 ^ 64 / (a + b)
  2 * ((List.range 400).foldl (fun (x : Nat × Nat) k => (x.1 + x.2 / (2 * k + 1), x.2 * z / 2 ^ 64 * z / 2 ^ 64)) (0, z)).1

/-- A test ends, whatever ended it: the charger runs again. -/
def capTestOver (s : State) : State :=
  chargers ({ s with ledger := { s.ledger with test := none } }.wr (pwrB 0) R.PWR_STATE_TEST 0)

/-- CAP_TEST_END: V has fallen by DROP, or TEST_MAX has passed: C = t / (R ln(V0 / V1)), or TEST_FAIL where V has fallen
by less than 4 LSB (R363). -/
def execCapTestEnd (s : State) : Host.Outcome State Fault Refusal :=
  let b := pwrB 0
  match s.ledger.test with
  | none => .next s
  | some (v0, r0) =>
    let v1 := s.rd b R.PWR_HOLDUP_V_V
    let few := decide ((v0 - v1) * 4096 * 1000 < 4 * 1200 * s.rd b R.PWR_DIVIDER_RATIO) || decide (v0 ≤ v1)
    let s := capTestOver s
    if few then .next ((s.wr b R.PWR_STATE_TEST_FAIL 1).raise 12 0xFF)
    else
      let ln := lnRatio v0 v1
      let c : Rat := ((s.time.frc - r0 : Nat) : Rat) * 78125 * (2 ^ 64 : Nat)
        / (((10 ^ 9 * max 1 (s.rd b R.PWR_BLEED_R) * max 1 ln : Nat) : Rat))
      .next (s.wrs b [(R.PWR_HOLDUP_C_C, if v1 = 0 then 0 else min (2 ^ 24 - 1) (rnd c)), (R.PWR_STATE_NAMEPLATE, 0)])

end Sys2Proof.Machine
end

