-- ==== Sys2Proof/Machine/Boot.lean ====
section
/-! DEFINITION. Chrysalis and the supplies: reset, the rail sequence, the checks of a Cocoon image and its application,
fuses, NOR programming, power failure (R371, R379 to R406, R653 to R660). -/

namespace Sys2Proof.Machine

def bootState (s : State) : Nat := s.rd (bootB 0) R.BOOT_STATUS_STATE
def setBoot (v : Nat) (s : State) : State := s.wr (bootB 0) R.BOOT_STATUS_STATE v

/-- BOOT_SEL as it acts: 11 acts as 00 with STRAP_LOCK blown (R381). -/
def strapMode (s : State) : Nat :=
  let m := s.rd (bootB 0) R.BOOT_STATUS_STRAP
  if m = 3 ∧ bit s.fuses 2 = true then 0 else m

/-- BOOT_FUSE and BOOT_SVN.FUSED show the fuses (R380, R407). -/
def showFuses (s : State) : State :=
  (s.setReg (bootB 0 + R.BOOT_FUSE) (BitVec.ofNat 32 s.fuses)).wr (bootB 0) R.BOOT_SVN_FUSED s.fusedSvn

/-- A Chrysalis command ignored under R8. -/
def bootIgnored (o : Nat) (s : State) : State := ignored8 s 0 (bootB 0 + o)

/-! Reset (R392, R399, R400, R493). -/

/-- Registers of the always-on domain that RESET_N leaves alone: BOOT_NEXT and DDR_c_CFG.MAX_MTS; and factory values. -/
def keptReg (s : State) (a : Nat) : Option Word :=
  if factoryReg a then some (s.reg a)
  else match place a with
    | some (.boot, 0, o) => if o = R.BOOT_NEXT then some (s.reg a) else none
    | some (.ddr, _, _) =>
      if [0, 1].any fun h => [0, 1].any fun c => a == ddrChB h c + R.DDR_c_CFG then
        some (BitVec.ofNat 32 (bitsPut (resetOf a).toNat R.DDR_c_CFG_MAX_MTS.lo R.DDR_c_CFG_MAX_MTS.w
          (bitsOf (s.reg a).toNat R.DDR_c_CFG_MAX_MTS.lo R.DDR_c_CFG_MAX_MTS.w)))
      else none
    | _ => none

/-- Reset values that the configuration and the factory values decide: PWR_CAP is the package maximum (R3, R376), and
ACQ_DELAY_TOTAL holds its sum (R67). -/
def partResets (s : State) : State :=
  let cap := BitVec.ofNat 32 s.part.maxPower
  let s := { (s.setReg (pwrB 0 + R.PWR_CAP) cap) with force := tset resetOf s.force (pwrB 0 + R.PWR_CAP) cap }
  [0, 1].foldl (fun s a => if s.hasA a then delayTotal a s else s) s

/-- RESET_N low. What is in the always-on domain, in the fuses, on the NAND devices and set at the factory stays; a NOR or
fuse operation in progress goes on (R400). With `cold`, VAON was lost too (R392). -/
def resetAll (cold : Bool) (s : State) : State :=
  let s := s.hubList.foldl (fun s h => (nfsPowerOff h s).modNfs h fun q => { q with unlockFails := 0 }) s
  let keep := s.regs.filterMap fun e => if cold && !factoryReg e.1 then none else (keptReg s e.1).map fun v => (e.1, v)
  partResets
  { pending := s.pending, part := s.part, suffixE := s.suffixE, drawn := s.drawn
    regs := keep.filter fun e => decide (e.2 ≠ resetOf e.1)
    time := if cold then {} else { run := s.time.run, alt := s.time.alt, frc := s.time.frc }
    energy := if cold then [] else s.energy
    plans := if cold then [] else s.plans.filterMap fun e =>
      let q : PlanSt := { energy := e.2.energy, work := e.2.work }
      if q = {} then none else some (e.1, q)
    acq := s.acq.filterMap fun e =>
      let q : AcqSt := { fact25 := e.2.fact25, fact85 := e.2.fact85 }
      if q = {} then none else some (e.1, q)
    nfs := s.nfs
    fuses := s.fuses, fusedSvn := s.fusedSvn, keyHash := s.keyHash
    boot := if cold then {} else { norRuns := s.boot.norRuns, fuseOp := s.boot.fuseOp }
    powerGood := s.powerGood, resetLow := true }

/-- The state right after reset of a part of configuration `p`, E-suffixed or not (R1, R3); `State.reset` is that of an
S8G-8D-C. -/
def partReset (p : Part) (e : Bool) : State := partResets { State.reset with part := p, suffixE := e }

/-- RESET_ASSERT: RESET_N falls (R399, R400). -/
def execResetAssert (s : State) : Host.Outcome State Fault Refusal := .next (resetAll false s)

/-- POWER_ON_RESET: VAON was lost and has returned; RESET_N is low (R360, R392, R493). -/
def execPowerOnReset (s : State) : Host.Outcome State Fault Refusal := .next (resetAll true s)

/-- RESET_RELEASE: RESET_N rises: BOOT_SEL and the fuses are read (R379, R396). After `State.reset` too, while nothing has
happened since. -/
def execResetRelease (sel : BitVec 2) (s : State) : Host.Outcome State Fault Refusal :=
  .next (if s.resetLow || (bootState s == 0 && s.rails.next == 0) then
    showFuses (({ s with resetLow := false }).wr (bootB 0) R.BOOT_STATUS_STRAP sel.toNat)
  else s)

/-! Rails (R654, R656, R657, R660). -/

/-- Rails in the order of R653 and the enable that switches each, none for VAON. -/
def railEnable (r : Nat) : Option Nat := ([none, some 1, some 2, some 3, some 6, some 7, some 0, some 4, some 9, some 10][r]?).getD none

/-- Whether rail `r` is to be on: its enable is asserted, and of VANA10 and VANA18 an acquisition die runs or the sequence
is in progress (R658). -/
def railOn (s : State) (r : Nat) : Bool :=
  match railEnable r with
  | none => true
  | some e => bit s.rails.enables e && (decide (r ≠ 7 ∧ r ≠ 8) || decide (s.rails.next < 12) || decide (bitsOf s.powered 6 2 ≠ 0))

/-- Enables that the S8G-2D never asserts. -/
def enableSkipped (s : State) (e : Nat) : Bool := decide (s.part = .s2d) && (e == 4 || e == 9)

/-- A failed attempt: every enable goes off; the third leaves only VIO18 on (R657). -/
def railsFail (s : State) : State :=
  let n := s.rails.tries + 1
  { s with rails := { s.rails with
      tries := n, next := 0, stopped := decide (3 ≤ n), enables := if 3 ≤ n then 1 else 0 } }

/-- RAIL_SEQUENCE_STEP: a step of R656 falls due. `ok` says whether the rails it checks are within tolerance, `pmb` whether
the VCORE regulator answers PMBus. The twelfth step checks every rail and closes the power switches. -/
def execRailSequenceStep (ok pmb : Bool) (s : State) : Host.Outcome State Fault Refusal :=
  let r := s.rails
  let k := r.next
  if s.resetLow || 2 ≤ bootState s || r.stopped || r.waits || s.boot.norRuns || s.boot.fuseOp.isSome || 12 ≤ k then .next s
  else
    let s := setBoot 1 s
    let checked := decide (0 < k) && (k == 11 || (k != 6 && k != 9 && !enableSkipped s (k - 1)))
    if checked && !ok then .next (railsFail s)
    else if k = 11 then
      .next ((setBoot 2 { s with rails := { r with next := 12 }, powered := s.part.present, hotLost := 0 }).wr (pwrB 0)
        R.PWR_STATE_STATE 2)
    else .next { s with rails := { r with
      next := k + 1
      enables := if enableSkipped s k then r.enables else r.enables ||| 2 ^ k
      adaptive := if k = 1 then pmb else r.adaptive } }

/-- VCORE_SET_POINT: with an adaptive regulator the set point moves in steps of 5 mV, by at most 10 mV (R654). -/
def execVcoreSetPoint (mv : Nat) (s : State) : Host.Outcome State Fault Refusal :=
  let r := s.rails
  .next (if r.adaptive && bit r.enables 1 && decide (650 ≤ mv ∧ mv ≤ 850 ∧ mv % 5 = 0 ∧ mv ≤ r.vcore + 10 ∧ r.vcore ≤ mv + 10)
    then { s with rails := { r with vcore := mv } } else s)

/-! Power failure (R371, R398). -/

/-- A plan that runs ends, one that wakes goes back to SCHEDULED (R371). -/
def flushPlans (s : State) : State :=
  allSlots.foldl (fun s n =>
    if planState s n = 4 then stopPlan n [] s else if planState s n = 3 then setPlanState n 2 s else s) s

/-- Every A and T die loses power. -/
def diesOff (s : State) : State := [2, 3, 4, 5, 6, 7].foldl (fun s d => if bit s.powered d then dieOff d s else s) s

/-- PWR_FAIL_N falls, or a rail falls far below its nominal (R371, R398, R404, R660). -/
def powerFail (s : State) : State :=
  if !s.powerGood then s
  else
    let s := { s.raise 10 (pendingMib s) with powerGood := false, boot := { s.boot with norRuns := false } }
    let s := s.wr (bootB 0) R.BOOT_STATUS_NOR_BUSY 0
    let s := if s.ledger.test.isSome then capTestOver s else s
    if bootState s ≠ 8 then
      let s := railsOff 0 (diesOff s)
      (setBoot 0 { s with rails := { s.rails with next := 0, tries := 0, waits := true } }).wr (pwrB 0) R.PWR_STATE_STATE 0
    else if inAon s then s
    else
      let s := (diesOff (flushPlans s)).wr (pwrB 0) R.PWR_STATE_STATE 3
      chargers (s.hubList.foldl (fun s h => nfsFlush h s) s)

/-- POWER_FAIL (R371). -/
def execPowerFail (s : State) : Host.Outcome State Fault Refusal := .next (powerFail s)

/-- POWER_RESTORE: PWR_FAIL_N has been high for 100 ms: a start that waits begins again at the rails row (R398). -/
def execPowerRestore (s : State) : Host.Outcome State Fault Refusal :=
  let s := { s with powerGood := true }
  .next (if s.rails.waits then setBoot 1 { s with rails := { s.rails with waits := false, next := 0 } } else s)

/-- RAIL_OUT_OF_TOLERANCE: the comparison of every 10 µs finds the rails of `out` outside their tolerance, with their
measured codes, and those of `deep` more than 10 % below their nominal (R660). -/
def execRailOutOfTolerance (out deep : BitVec 10) (codes : List (BitVec 32)) (s : State) : Host.Outcome State Fault Refusal :=
  let s := (List.range 10).foldl (fun s r =>
    s.raiseIf (out.getLsbD r && railOn s r) r ((codes[r]?).getD 0).toNat) s
  .next (if (List.range 10).any fun r => deep.getLsbD r && railOn s r then powerFail s else s)

/-! The image (R382, R383, R389, R390). -/

/-- A little-endian field of `n` bytes at byte `o`. -/
def imgFld (img : List Byte) (o n : Nat) : Nat := ofLe ((img.drop o).take n)
def imgLen (img : List Byte) : Nat := imgFld img 8 4
def imgFlags (img : List Byte) : Nat := imgFld img 20 2
def imgSigOff (img : List Byte) : Nat := imgFld img 56 4
def imgSigned (img : List Byte) : Bool := imgFld img 19 1 == 1

/-- The section table: each section with its CRC. -/
def imgTable (img : List Byte) : List (Section × Nat) :=
  (List.range (imgFld img 6 2)).map fun i =>
    let o := 64 + 16 * i
    let type := imgFld img o 2
    let off := imgFld img (o + 4) 4
    ({ type := type, off := off, len := imgFld img (o + 8) 4
       name := if type = 3 ∨ type = 4 then trimName ((img.drop off).take 32) else [] }, imgFld img (o + 12) 4)

def imgSections (img : List Byte) : List Section := (imgTable img).map (·.1)
def imgBody (img : List Byte) (x : Section) : List Byte := (img.drop x.off).take x.len
def imgNames (img : List Byte) : List (List Byte) :=
  ((imgSections img).filter fun x => x.type = 3 ∨ x.type = 4).map (·.name)

/-- The key records of the KEYS sections, and how many are malformed. -/
def imgRecords (img : List Byte) : List KeyRec × Nat :=
  ((imgSections img).filter (·.type = 1)).foldl (fun r x =>
    let b := imgBody img x
    let (l, e) := keyRecords b.length b r.1
    (l, r.2 + e)) ([], 0)

/-- The VCO frequency that an output key of a hub with SRC = 0 needs (R592, R596). -/
def outVco (k : KeyRec) : Option (Nat × Rat) :=
  match splitBy '.' k.1, keyValue keysClk k with
  | [_, _, o, _], some (_, a, v) =>
    if o == asc "out" && v.alt == 1 && v.n 2 == 0 then
      some (arg a 0, v.q 0 * max 1 ((6400000000 / v.q 0).floor.toNat))
    else none
  | _, _ => none

/-- Whether a record is the first output key of its hub or needs the same VCO frequency as the first (R596). -/
def vcoAgrees (l : List KeyRec) (k : KeyRec) : Bool :=
  match outVco k with
  | none => true
  | some (h, f) => match (l.filterMap outVco).find? (·.1 == h) with
    | some x => x.2 == f
    | none => true

/-- The lowest and highest sample rate at a lane count (R83). -/
def rateRange (l : List KeyRec) : Rat × Rat :=
  match (keyValue keysJrx (asc "jrx.lanes", ((l.find? (·.1 == asc "jrx.lanes")).map (·.2)).getD [])).map fun x => x.2.2.n 0 with
  | some 0 => (788000000, 3000000000)
  | some 1 => (1576000000, 6000000000)
  | _ => (3152000000, 10240000000)

/-- Whether the S8G-2D finds no sample rate in its range (R83). -/
def rateBad (l : List KeyRec) : Bool :=
  match l.find? (·.1 == asc "jrx.rate_hz") with
  | some k => match parseRat k.2 with
    | some f => decide (f < (rateRange l).1) || decide ((rateRange l).2 < f)
    | none => true
  | none => true

/-- The keys outside any plan that stand, and the number of key errors among them (R83, R390, R596). -/
def imgKeys (s : State) (img : List Byte) : List KeyRec × Nat :=
  let (l, e) := imgRecords img
  let rate := asc "jrx.rate_hz"
  let ok := l.filter fun k => (k.1 == rate) || !keyError keyRows (imgNames img) k
  let good := ok.filter fun k => vcoAgrees ok k && k.1 != rate
  let keep := good ++ if rateBad l then [] else l.filter (·.1 == rate)
  let rateErr := if s.part = .s2d then b2n (rateBad l) else 0
  (keep, e + (l.filter (·.1 != rate)).length - good.length + rateErr)

/-- Whether a PLAN section holds a whole plan record (R385). -/
def planBodyOk (b : List Byte) : Bool :=
  let n := imgFld b 56 4
  decide (64 + n ≤ b.length) && recordCrcOk b ((b.drop 64).take n)

/-- The PLAN sections that are loaded: the first 32. -/
def imgPlans (img : List Byte) : List (List Byte) := (((imgSections img).filter (·.type = 2)).take 32).map (imgBody img)

/-- Key errors of the image (R390). -/
def imgErrors (s : State) (img : List Byte) : Nat :=
  let t := imgSections img
  let known := fun (n : Nat) => n = 1 ∨ n = 2 ∨ n = 3 ∨ n = 4 ∨ n = 255
  (imgKeys s img).2 + (t.filter fun x => !decide (known x.type)).length + ((t.filter (·.type = 2)).length - 32)
    + ((imgPlans img).map fun b =>
        if planBodyOk b then (planRecords (imgNames img) ((b.drop 64).take (imgFld b 56 4))).2 else 1).sum

/-- The slot whose key hash is that of the image's public key (R386). -/
def keySlot (s : State) (img : List Byte) : Option Nat :=
  let hash := sha384 ((img.drop (imgSigOff img)).take 97)
  (List.range 4).find? fun k =>
    bit s.fuses (4 + k) && !bit s.fuses (8 + k) && decide (tget (fun _ => []) s.keyHash k = hash)

/-- Whether the signature of the image verifies against the key in its block (R386). -/
def signatureOk (img : List Byte) : Bool :=
  let o := imgSigOff img
  let be := fun a n => ofLe ((img.drop (o + a)).take n).reverse
  decide (imgFld img o 1 = 4) && ecdsaOk (be 1 48) (be 49 48) (be 100 48) (be 148 48) (img.take o)

/-- The REVISION of each die present (R382). -/
def dieRevisions (s : State) : List Nat :=
  (List.range 8).filterMap fun d =>
    if bit s.part.present d then
      some (bitsOf (s.reg (if d < 2 then chipB d else if d < 6 then wbB (d - 2) else acqB (d - 6))).toNat 16 8)
    else none

/-- The checks 2 to 10 of R389 in order: the number of the first cause bit that is set. `room` is how many bytes the
medium holds from the image's first byte. -/
def imgFails (s : State) (img : List Byte) (room : Nat) : Option Nat :=
  let len := imgLen img
  let sig := imgSigOff img
  let secure := bit s.fuses 0
  let bounds := decide (len % 64 ≠ 0) || decide (33554432 < len) || decide (sig + 256 ≠ len) || decide (room < len)
    || (imgSections img).any fun x => decide (x.off < 64 + 16 * imgFld img 6 2) || decide (sig < x.off + x.len)
  let target := match s.part with | .s2d => 0 | .s4d => 1 | .s8d => 2
  (([(1, decide (img.take 4 ≠ [0x43, 0x4F, 0x43, 0x4E]) || decide (imgFld img 4 2 ≠ 1)),
     (2, decide (crc32 (img.take 60) ≠ imgFld img 60 4)),
     (3, bounds),
     (4, !bit (imgFld img 22 1) target || (dieRevisions s).any fun r => decide (r < imgFld img 23 1)),
     (5, secure && (!imgSigned img || (keySlot s img).isNone)),
     (6, imgSigned img && !signatureOk img),
     (7, secure && decide (imgFld img 16 1 < s.fusedSvn)),
     (8, (imgTable img).any fun x => decide (crc32 (imgBody img x.1) ≠ x.2)),
     (9, bit (imgFlags img) 0 && decide (0 < imgErrors s img))] : List (Nat × Bool)).find? (·.2)).map (·.1)

/-! Applying the image (R396, R398, R401). -/

/-- Instructions of a host program of the DMA (R534): its words go into both hubs' memories from instruction `first` on, and
DMA_k_PC points at its start. -/
def dmaProgram (s0 : State) (k start first : Nat) (name : List Byte) (s : State) : State :=
  let w := ((programWords s0 name).1.zipIdx).filter fun x => decide (4 * first + x.2 < 4096)
  s.hubList.foldl (fun s h =>
    let m := w.foldl (fun m x => tset noNat m (dmaWordKey h ((4 * first + x.2) / 4) (x.2 % 4)) x.1) s.dmaMem
    setFld (dmaB h + 0x40 * k) R.DMA_k_PC_PC (first + start) { s with dmaMem := m }) s

/-- Chrysalis writes one device key; `first` is the first free instruction of the DMA's host programs. -/
def deviceApply (keys : List KeyRec) (k : KeyRec) (x : State × Nat) : State × Nat :=
  match keyValue keysDma k with
  | some (_, [c], v) =>
    let start := match keys.find? (·.1 == asc ("dma." ++ toString c ++ ".start")) with
      | some r => (parseNat r.2).getD 0
      | none => 0
    let part := ((splitBy '.' k.1)[2]?).getD []
    if part == asc "program" then
      (dmaProgram x.1 c start x.2 (v.text 0) x.1, x.2 + (programWords x.1 (v.text 0)).1.length / 4)
    else (keyApply k x.1, x.2)
  | _ => (keyApply k x.1, x.2)

/-- Gates of event-timing inputs whose keys are silent: OPEN where the input is enabled, or where a PPS base names it, which
also makes its edge rising (R451). -/
def tdcDefaults (keys : List KeyRec) (s : State) : State :=
  let pps := (List.range 4).filterMap fun k =>
    if s.rd (dbB k) R.TIME_DB_k_CFG_SRC = 3 then some (s.rd (dbB k) R.TIME_DB_k_CFG_TDC) else none
  let said := fun (g : Nat) (x : String) => keys.any (·.1 == asc ("tdc." ++ toString g ++ "." ++ x))
  (List.range 16).foldl (fun s g =>
    let b := tdcInB g
    let p := pps.contains g
    let s := if p && !said g "edge" then setFld b R.TDC_n_CFG_EDGE 1 s else s
    if !said g "gate" && (p || s.on b R.TDC_n_CFG_EN) then setFld b R.TDC_n_GATE_MODE 1 s else s) s

/-- TIME_CLOCK_ID without its key: the MAC address of the H0 port with FF FE after its third byte (R427). -/
def clockIdDefault (s : State) : State :=
  if s.time.clockId.isSome then s
  else
    let mac := s.rd (ethB 0) R.ETH_MAC_LO_MAC + 2 ^ 32 * s.rd (ethB 0) R.ETH_MAC_HI_MAC
    s.modTime fun q => { q with clockId := some (mac / 2 ^ 24 * 2 ^ 40 + 0xFFFE * 2 ^ 24 + mac % 2 ^ 24) }

/-- The device keys are written, in image order (R401), with what the tables give in place of absent keys. -/
def applyDevices (keys : List KeyRec) (s : State) : State :=
  let dev := keys.filter fun k => deviceKey k.1
  let s := (dev.foldl (fun x k => deviceApply dev k x) ({ s with dmaMem := [] }, 0)).1
  let s := if s.part = .s2d ∧ !(keys.any (·.1 == asc "jrx.rate_hz")) then setFld (timeB 0) R.TIME_JRX_STEP_STEP (2 ^ 25) s else s
  let s := clockIdDefault (tdcDefaults keys s)
  s.hubList.foldl (fun s h =>
    let s := if s.on (clkB h) R.CLK_SHADOW_DIRTY then clkCommit h s else s
    setFld (ethB h) R.ETH_CTRL_EN 1 s) s

/-- An image that has passed and lies in the boot region is applied (R396, R401): the device keys are written, core memories
cleared, the acquisition dies enabled. -/
def applyImage (host : Bool) (img : List Byte) (s : State) : State :=
  let b := bootB 0
  let keys := (imgKeys s img).1
  let slot := if bit s.fuses 0 then keySlot s img else none
  let s := (s.setReg (b + R.BOOT_IMAGE) (BitVec.ofNat 32 (imgFld img 12 4))).wrs b
    [(R.BOOT_SVN_IMAGE, imgFld img 16 1), (R.BOOT_STATUS_UNSIGNED, b2n (!imgSigned img)), (R.BOOT_STATUS_HOST, b2n host),
     (R.BOOT_STATUS_COPY, if host then s.rd b R.BOOT_STATUS_COPY else s.boot.copy), (R.BOOT_STATUS_STATE, 6)]
  let s := { s with boot := { s.boot with
    keys := keys, sections := imgSections img, slot := slot, advance := bit (imgFlags img) 1 } }
  let s := { s with regs := (List.range 4).foldl (fun m t => tclear m (coreB t 0) (tB t + 0x1180000)) s.regs }
  enableAcq 3 (applyDevices keys s)

/-- The field that holds the cause of a failed check of copy `c`. -/
def failFld (c : Nat) : Fld := if c = 0 then R.BOOT_FAIL_A_CAUSE else R.BOOT_FAIL_B_CAUSE

/-- A copy fails a check: the other copy is tried, or both have failed (R391). -/
def copyFails (cause : Nat) (s : State) : State :=
  let b := bootB 0
  let s := s.wr b (failFld s.boot.copy) (2 ^ cause)
  if s.boot.second then
    (setBoot 9 s).raise 37 (s.rd b R.BOOT_FAIL_A_CAUSE + 2 ^ 32 * s.rd b R.BOOT_FAIL_B_CAUSE)
  else (setBoot 4 { s with boot := { s.boot with second := true, copy := 1 - s.boot.copy } }).wr b R.BOOT_STATUS_FALLBACK 1

/-- IMAGE_READ_COMPLETE: the copy being tried has been read: the bytes, whether the device gave valid data, and the
device's size in bytes (R388 to R391). -/
def execImageReadComplete (img : List Byte) (valid : Bool) (size : Nat) (s : State) : Host.Outcome State Fault Refusal :=
  if bootState s ≠ 4 ∧ bootState s ≠ 5 then .next s
  else
    let base := s.boot.copy * 0x2000000
    if !valid || size ≤ base || (s.boot.copy == 1 && decide (size < 0x4000000)) then .next (copyFails 0 s)
    else
      let s := s.setBytes 0 (bootBase s) (img.take (imgLen img))
      match imgFails s img (size - base) with
      | some 9 => .next (copyFails 9 (keyErrors (imgErrors s img) s))
      | some c => .next (copyFails c s)
      | none => .next (applyImage false img (keyErrors (imgErrors s img) s))

/-- MEMORY_TRAINING_COMPLETE: the training of every channel ends (R396, R491 to R494): the boot region is reserved and the
start goes on by BOOT_SEL or BOOT_NEXT (R379, R392). -/
def execMemoryTrainingComplete (a0 a1 b0 b1 : DdrTrain) (s : State) : Host.Outcome State Fault Refusal :=
  if bootState s ≠ 2 ∧ bootState s ≠ 3 then .next s
  else
    let b := bootB 0
    let s := ddrTrainHub 0 a0 a1 s
    let s := setBoot 3 (if s.hasHub 1 then ddrTrainHub 1 b0 b1 s else s)
    if !ddrUsable s 0 then .next (s.raise 77 0)
    else
      let s := s.wrs b [(R.BOOT_HOST_BASE_BASE, bootBase s / 2 ^ 20), (R.BOOT_STATUS_FALLBACK, 0), (R.BOOT_FAIL_A_CAUSE, 0),
        (R.BOOT_FAIL_B_CAUSE, 0)]
      let m := strapMode s
      if 2 ≤ m then .next (setBoot (8 + m) s)
      else
        let next := s.on b R.BOOT_NEXT_VALID
        let copy := if next then s.rd b R.BOOT_NEXT_COPY else m
        let s := if next && s.on b R.BOOT_NEXT_ONCE then s.wr b R.BOOT_NEXT_VALID 0 else s
        .next (setBoot 4 { s with boot := { s.boot with copy := copy, second := false } })

/-- Whether the sample clocks have locked: of every usable acquisition die, or in the S8G-2D the system synthesiser. -/
def sampleClocks (s : State) : Bool :=
  if s.part = .s2d then s.on (clkB 0) R.CLK_STATUS_SYS_LOCK
  else [0, 1].all fun a => !s.usableA a || s.on (acqB a) R.ACQ_STATUS_CLK_LOCK

/-- The plans of the image in force go into slots 0 upwards (R396). -/
def loadPlans (s : State) : State :=
  let plans := ((s.boot.sections.filter (·.type = 2)).take 32).map fun x => s.bytes 0 (bootBase s + x.off) x.len
  ((plans.filter planBodyOk).zipIdx).foldl (fun s x =>
    putPlan x.2 (x.1.take 64) (planRecords (sectionNames s) ((x.1.drop 64).take (imgFld x.1 56 4))).1 s) s

/-- Every die link has trained or has failed to (R25). -/
def linksSettled (s : State) : Bool :=
  (List.range 9).all fun l => !s.hasLink l || (s.linkSt l).trained || (s.linkSt l).failed

/-- BOOT_PLANNER_START: with the links trained or their far dies lost (R25) and the sample clocks locked the receiver of the S8G-2D is enabled, the plans are loaded and the
planner runs: DONE, `ms` after the start began (R82, R396, R626). -/
def execBootPlannerStart (ms : BitVec 16) (s : State) : Host.Outcome State Fault Refusal :=
  if bootState s ≠ 6 || !sampleClocks s || !linksSettled s then .next s
  else
    let s := if s.part = .s2d then setFld (jrxB 0) R.JRX_CTRL_EN 1 s else s
    let s := (setBoot 8 (loadPlans s)).wr (bootB 0) R.BOOT_TIME_MS ms.toNat
    .next (showNext ({ s with aliveRuns := true }.wr (pwrB 0) R.PWR_STATE_STATE (if diesOn s = 0 then 1 else 2)))

/-! Fuses, NOR programming and host images (R393, R395, R404 to R407). -/

/-- SVN_ADVANCE: security-version fuses are blown up to SEC_VERSION (R395). -/
def execSvnAdvance (s : State) : Host.Outcome State Fault Refusal :=
  let v := s.rd (bootB 0) R.BOOT_SVN_IMAGE
  .next (if bootState s == 8 && s.boot.advance && bit s.fuses 0 && decide (s.fusedSvn < v) && s.powerGood then
    (showFuses { s with fusedSvn := v }).wr (bootB 0) R.BOOT_STATUS_SVN_ADV 1
  else s)

/-- BOOT_CMD.HOSTGO: the host's image is checked as checks 2 to 10 and applied if it passes (R393). -/
def bootHostgo (s : State) : State :=
  let st := bootState s
  if st ≠ 9 ∧ st ≠ 10 ∧ st ≠ 11 then bootIgnored R.BOOT_CMD s
  else
    let n := s.rd (bootB 0) R.BOOT_HOST_LEN_LEN
    let img := s.bytes 0 (s.rd (bootB 0) R.BOOT_HOST_BASE_BASE * 2 ^ 20) n
    match imgFails s img n with
    | some 9 => (keyErrors (imgErrors s img) s).wr (bootB 0) R.BOOT_FAIL_A_CAUSE (2 ^ 9)
    | some c => s.wr (bootB 0) R.BOOT_FAIL_A_CAUSE (2 ^ c)
    | none =>
      applyImage true img (((keyErrors (imgErrors s img) s).wr (bootB 0) R.BOOT_FAIL_A_CAUSE 0).setBytes 0 (bootBase s) img)
def execBootHostgo (s : State) : Host.Outcome State Fault Refusal := .next (bootHostgo s)

/-- BOOT_CMD.NOR_PROG (R402, R404). -/
def bootNorProg (s : State) : State :=
  let b := bootB 0
  if s.on b R.BOOT_LOCK_NOR || s.on b R.BOOT_STATUS_NOR_BUSY then bootIgnored R.BOOT_CMD s
  else if s.rd b R.BOOT_HOST_LEN_LEN = 0 then s
  else { s with boot := { s.boot with norRuns := true } }.wr b R.BOOT_STATUS_NOR_BUSY 1
def execBootNorProg (s : State) : Host.Outcome State Fault Refusal := .next (bootNorProg s)

/-- NOR_PROG_DONE: the NOR operation ends; `mismatch` says that the bytes read back differ, or the range lies beyond the
device (R404). After a reset it only ends (R400). -/
def execNorProgDone (mismatch : Bool) (s : State) : Host.Outcome State Fault Refusal :=
  if !s.boot.norRuns then .next s
  else
    let b := bootB 0
    let t := { s with boot := { s.boot with norRuns := false } }
    .next (if s.on b R.BOOT_STATUS_NOR_BUSY then
      (let t := t.wr b R.BOOT_STATUS_NOR_BUSY 0; if mismatch then t.wr b R.BOOT_STATUS_NOR_ERR 1 else t)
    else t)

/-- BOOT_CMD.RESTART: in FAILED, HOSTWAIT or MANUFACTURING the start begins again at the rails row (R406). -/
def bootRestart (s : State) : State :=
  let st := bootState s
  if st = 9 ∨ st = 10 ∨ st = 11 then
    let s := railsOff 0 (diesOff s)
    setBoot 1 { s with rails := { s.rails with next := 0, tries := 0 } }
  else bootIgnored R.BOOT_CMD s
def execBootRestart (s : State) : Host.Outcome State Fault Refusal := .next (bootRestart s)

/-- BOOT_CMD.FUSE_GO: the operation of BOOT_FUSE_CMD starts, or is refused under R8 (R402, R405). -/
def bootFuseGo (s : State) : State :=
  let b := bootB 0
  let op := s.rd b R.BOOT_FUSE_CMD_OP
  let slot := s.rd b R.BOOT_FUSE_CMD_SLOT
  if s.on b R.BOOT_LOCK_FUSE || s.on b R.BOOT_FUSE_CMD_BUSY then bootIgnored R.BOOT_CMD s
  else if op = 0 ∨ op = 7 then s
  else if (op ≤ 4 ∧ bootState s ≠ 11) ∨ (op = 5 ∧ s.boot.slot = some slot) ∨ s.powerGood = false then
    bootIgnored R.BOOT_CMD s
  else { s with boot := { s.boot with fuseOp := some (op, slot, s.hashIn) } }.wr b R.BOOT_FUSE_CMD_BUSY 1
def execBootFuseGo (s : State) : Host.Outcome State Fault Refusal := .next (bootFuseGo s)

/-- What a fuse operation blows; a blown fuse cannot be restored (R380). -/
def blow (op slot : Nat) (hash : List Byte) (s : State) : State :=
  match op with
  | 1 => { s with fuses := s.fuses ||| 1 }
  | 2 => { s with fuses := s.fuses ||| 2 }
  | 3 => { s with fuses := s.fuses ||| 4 }
  | 4 =>
    let old := padTo 48 0 (tget (fun _ => []) s.keyHash slot)
    { s with fuses := s.fuses ||| 2 ^ (4 + slot)
             keyHash := tset (fun _ => []) s.keyHash slot ((old.zip (padTo 48 0 hash)).map fun x => x.1 ||| x.2) }
  | 5 => { s with fuses := s.fuses ||| 2 ^ (8 + slot) }
  | 6 => { s with fusedSvn := min 63 (s.fusedSvn + 1) }
  | _ => s

/-- FUSE_DONE: the fuse operation ends; `ok` says that the fuse reads back as blown (R405, R407). During a reset the
registers show the result from the next start (R400). -/
def execFuseDone (ok : Bool) (s : State) : Host.Outcome State Fault Refusal :=
  match s.boot.fuseOp with
  | none => .next s
  | some (op, slot, hash) =>
    let s := { s with boot := { s.boot with fuseOp := none } }
    let s := if ok then blow op slot hash s else s
    if s.resetLow then .next s
    else
      let s := showFuses s
      .next (if s.on (bootB 0) R.BOOT_FUSE_CMD_BUSY then
        (let s := s.wr (bootB 0) R.BOOT_FUSE_CMD_BUSY 0; if ok then s else s.wr (bootB 0) R.BOOT_FUSE_CMD_ERR 1)
      else s)

/-- BOOT_LOCK_WRITE: a write to BOOT_LOCK through H0 (R7, R402). -/
def execBootLockWrite (p : Path) (v : BitVec 5) (s : State) : Host.Outcome State Fault Refusal :=
  .next (if pathReaches s p (bootB 0 + R.BOOT_LOCK) then busWrite p (bootB 0 + R.BOOT_LOCK) v.toNat s
    else { s with access := 0 })

end Sys2Proof.Machine
end

