-- ==== Sys2Proof/Machine/Host.lean ====
section
/-! DEFINITION. The rows of the register map: a word read or written by one of the paths of R631, with the commands PLAN_CMD,
PWR_CMD, PWR_CAP and BOOT_CMD acted on, and a hardware update in the same cycle (R6 to R12, R631 to R638). -/

namespace Sys2Proof.Machine

/-- PLAN_CMD: the command waits for the planner, which takes commands in order of arrival (R350); through the hub that does not
lead it is an access violation (R356), and a LOAD under the PLAN_LOAD lock is ignored (R402). -/
def planCmdWrite (i addr wo : Nat) (s : State) : State :=
  let slot := bitsOf wo R.PLAN_CMD_SLOT.lo R.PLAN_CMD_SLOT.w
  let op := bitsOf wo R.PLAN_CMD_OP.lo R.PLAN_CMD_OP.w
  if i ≠ s.lead then ignored8 s i addr
  else if op = 0 ∨ 4 < op then s
  else if op = 1 ∧ s.on (bootB 0) R.BOOT_LOCK_PLAN_LOAD = true then ignored8 s i addr
  else { s with planCmds := s.planCmds ++ [(slot, op)] }

/-- PWR_CMD through the lead hub (R359, R361, R363). -/
def pwrCmdWrite (wo : Nat) (s : State) : State :=
  let s := if bit wo R.PWR_CMD_WAKE.lo then aonExit s else s
  let s := if bit wo R.PWR_CMD_TEST.lo then capTestStart s else s
  let s := if bit wo R.PWR_CMD_CAL.lo then calibrate s else s
  if bit wo R.PWR_CMD_SLEEP.lo then pwrSleep s else s

/-- BOOT_CMD (R406). -/
def bootCmdWrite (wo : Nat) (s : State) : State :=
  let s := if bit wo R.BOOT_CMD_HOSTGO.lo then bootHostgo s else s
  let s := if bit wo R.BOOT_CMD_NOR_PROG.lo then bootNorProg s else s
  let s := if bit wo R.BOOT_CMD_RESTART.lo then bootRestart s else s
  if bit wo R.BOOT_CMD_FUSE_GO.lo then bootFuseGo s else s

/-- A write of word `m` by path `p`, with what the planner and Chrysalis do on it. -/
def hostWrite (p : Path) (addr m : Nat) (s : State) : State :=
  let wo := if aliasOf addr ≤ 1 then m else 0
  if !pathReaches s p addr then { s with access := 0 }
  else match reach s addr with
    | .at_ .plan i o => if o = R.PLAN_CMD then planCmdWrite i addr wo { s with access := 0 } else busWrite p addr m s
    | .at_ .pwr i o =>
      let t := busWrite p addr m s
      if o = R.PWR_CMD ∧ i = s.lead then pwrCmdWrite wo t else t
    | .at_ .boot i o => if o = R.BOOT_CMD ∧ i = 0 then bootCmdWrite wo (busWrite p addr m s) else busWrite p addr m s
    | _ => busWrite p addr m s

/-- A read by path `p`. -/
def hostRead (p : Path) (addr : Nat) (s : State) : State :=
  if pathReaches s p addr then busRead p addr s else { s with readData := 0, access := 0 }

/-- Fields of type CT of a register word count one more; they hold at all ones, or wrap where their block's chapter says
so (R7, R9). -/
def ctMore (wrap : Bool) (r : RegDesc) (v : Nat) : Nat :=
  (r.fields.filter fun x => x.acc == .ct).foldl (fun v x =>
    let n := bitsOf v x.lo x.w + 1
    bitsPut v x.lo x.w (if wrap then n % 2 ^ x.w else min (2 ^ x.w - 1) n)) v

/-- The word `v` of a register after the hardware update `u` of R7. -/
def hwWord (b : Block) (r : RegDesc) (u : HwUpdate) (v : Nat) : Nat :=
  let hs := accMask (some r) (· == .hs) &&& u.mask.toNat
  let rc := accMask (some r) (· == .rc) &&& u.mask.toNat &&& u.value.toNat
  let v := mixBits v u.value.toNat hs ||| rc
  if u.inc then ctMore ((wrapsAt b).contains r.off) r v else v

/-- A hardware update of a register that is not held as a plain word: the selected fault source, the credits of the line
shown, and the status of a mailbox bank. `none` for the others. -/
def hwSpecial (p : Path) (b : Block) (i o : Nat) (r : RegDesc) (u : HwUpdate) (s : State) : Option State :=
  match b with
  | .fcol =>
    if o = R.FCOL_SRC_CFG then some s
    else if o = R.FCOL_SRC_STATE then some (srcStateWrite i (hwWord b r u (srcStateWord s i)) s)
    else if o = R.FCOL_SRC_COUNT then some (srcCountWrite i (hwWord b r u (srcCountWord s i)) s)
    else none
  | .dma =>
    if o = R.DMA_LINE_STATE then
      let v := hwWord b r u (lineStateWord s i)
      let line := s.rd (dmaB i) R.DMA_LINE_SEL_LINE
      let s := if bit v 17 && lineOk s line then { s with lineOvf := tset noNat s.lineOvf (lineKey i line) 1 } else s
      some (dmaWake (setCredits i (v % 2 ^ 16) s))
    else none
  | .mbox => some (mboxStatusSet i (bankOf p) o (hwWord b r u (mboxReg s i (bankOf p) o)) s)
  | _ => none

/-- A hardware update of the register at `addr` in the cycle of a software access by path `p` (R7): it wins in HS fields,
sets RC fields that survive the read, loses in RW fields, and counts on top of a CT write. ACQ_DELAY_TOTAL follows
ACQ_DELAY_MEAS (R67). -/
def hwApply (p : Path) (addr : Nat) (u : HwUpdate) (s : State) : State :=
  if u.mask = 0 && !u.inc then s
  else match reach s addr with
    | .at_ b i o =>
      match regAt b o with
      | none => s
      | some r =>
        match hwSpecial p b i o r u s with
        | some s => s
        | none =>
          let a := homeOf b i o (windowOf addr)
          let s := s.setReg a (BitVec.ofNat 32 (hwWord b r u (s.reg a).toNat))
          if b = .acq then delayTotal i s else s
    | _ => s

/-- CONFIG_WRITE: a host or planner write of a register (R12). -/
def execConfigWrite (p : Path) (addr : BitVec 32) (v : Word) (u : HwUpdate) (s : State) : Host.Outcome State Fault Refusal :=
  .next (hwApply p addr.toNat u (hostWrite p addr.toNat v.toNat s))

/-- RC_CLEARING_READ: a normal read (R636). -/
def execRcClearingRead (p : Path) (w : BitVec 28) (u : HwUpdate) (s : State) : Host.Outcome State Fault Refusal :=
  .next (hwApply p w.toNat u (hostRead p w.toNat s))

/-- ALIAS_SET_WRITE (R637). -/
def execAliasSetWrite (p : Path) (w : BitVec 28) (m : Word) (u : HwUpdate) (s : State) : Host.Outcome State Fault Refusal :=
  .next (hwApply p w.toNat u (hostWrite p (2 ^ 28 + w.toNat) m.toNat s))

/-- ALIAS_CLEAR_WRITE (R637). -/
def execAliasClearWrite (p : Path) (w : BitVec 28) (m : Word) (u : HwUpdate) (s : State) : Host.Outcome State Fault Refusal :=
  .next (hwApply p w.toNat u (hostWrite p (2 * 2 ^ 28 + w.toNat) m.toNat s))

/-- ALIAS_TOGGLE_WRITE (R637). -/
def execAliasToggleWrite (p : Path) (w : BitVec 28) (m : Word) (u : HwUpdate) (s : State) : Host.Outcome State Fault Refusal :=
  .next (hwApply p w.toNat u (hostWrite p (3 * 2 ^ 28 + w.toNat) m.toNat s))

end Sys2Proof.Machine
end

