-- ==== Sys2Proof/Machine/Dma.lean ====
section
/-! DEFINITION. The DMA instructions that move data: MOVE, GATHER, paced bursts, and SIGNAL REGWRITE (R515 to R520, R522,
R527, R531). -/

namespace Sys2Proof.Machine

def dAr : Nat → DmaAr := fun _ => {}
def dmaAr (s : State) (h k a : Nat) : DmaAr := tget dAr (s.dmaSt h k).ars a

/-- Where byte `b` of an access through an address register lies (R515). OFF is held modulo 2^40 where the register is
linear. -/
def DmaAr.at_ (a : DmaAr) (b : Nat) : Nat :=
  if a.size = 0 then (a.base + a.off + b) % 2 ^ 40 else a.base + (a.off + b) % a.size

/-- The register after an advance of `n` bytes. -/
def DmaAr.advance (a : DmaAr) (n : Int) : DmaAr :=
  { a with off := (((a.off : Int) + n) % (if a.size = 0 then 2 ^ 40 else a.size : Nat)).toNat }

def modAr (h k a : Nat) (n : Int) (s : State) : State :=
  s.modDma h k fun q => { q with ars := tset dAr q.ars a ((tget dAr q.ars a).advance n) }

/-- A space as it is reached from hub `h`: the hub whose memory it is, or the register window, or nothing. -/
inductive DmaSpace where
  | mem (g : Nat) | reg | none

def dmaSpace (s : State) (h code : Nat) : DmaSpace :=
  match code with
  | 0 => .mem h
  | 1 => if s.hasHub 1 then .mem (1 - h) else .none
  | 2 => .reg
  | _ => .none

/-- Whether addresses exist in a space: bytes of capture memory, or whole words of the window (R516, R531). -/
def addrsOk (s : State) (sp : DmaSpace) (l : List Nat) : Bool :=
  match sp with
  | .mem g => l.all fun a => decide (a < s.hubLimit g)
  | .reg => decide (l.length % 4 = 0) && (l.zipIdx).all fun x =>
      decide (x.1 < 0x800000) && decide (x.1 % 4 = x.2 % 4)
  | .none => l.isEmpty

/-- Whether a write falls in the sealed boot region (R394, R531). -/
def addrsSealed (s : State) (sp : DmaSpace) (l : List Nat) : Bool :=
  match sp with
  | .mem g => bootSealed s && l.any fun a => s.inBoot g a
  | _ => false

/-- The words at the window offsets of every fourth byte address, read in order by the engine's path. -/
def regBytes (h : Hub) : (fuel : Nat) → List Nat → State → List Byte × State
  | 0, _, s => ([], s)
  | _, [], s => ([], s)
  | n + 1, a :: l, s =>
    let s := hostRead (.dma h) (hubB h + a) s
    let w := leBytes 4 s.readData.toNat
    let (r, s) := regBytes h n (l.drop 3) s
    (w ++ r, s)

/-- The bytes at a list of addresses of a space, and the state after reading them. Bytes of a frozen channel read as zeros
and set POISON (R531). -/
def spaceRead (h : Hub) (k : Nat) (sp : DmaSpace) (l : List Nat) (s : State) : List Byte × State :=
  match sp with
  | .mem g =>
    let bad := s.anyFrozen g && l.any fun a => s.frozenAt g a
    (l.map fun a => s.byte g a, if bad then s.wr (dmaChB h k) R.DMA_k_STATUS_POISON 1 else s)
  | .reg => regBytes h l.length l s
  | .none => ([], s)

/-- Words written to the window in order. -/
def regPut (h : Hub) : (fuel : Nat) → List Nat → List Byte → State → State
  | 0, _, _, s => s
  | _, [], _, s => s
  | n + 1, a :: l, d, s => regPut h n (l.drop 3) (d.drop 4) (hostWrite (.dma h) (hubB h + a) (ofLe (d.take 4)) s)

/-- Bytes written to a list of addresses of a space. -/
def spaceWrite (h : Hub) (sp : DmaSpace) (l : List Nat) (d : List Byte) (s : State) : State :=
  match sp with
  | .mem g => (l.zip d).foldl (fun s x => s.setBytes g x.1 [x.2]) s
  | .reg => regPut h l.length l d s
  | .none => s

/-! Destinations in PORT space (R520). -/

/-- Whether a port takes data: an enabled flash source with a hardware producer, or an enabled stream. -/
def portOpen (s : State) (h port : Nat) : Bool :=
  if port < 64 then
    s.on (nfsSrcB h port) R.NFS_SRC_s_CTRL_EN && s.on (nfsSrcB h port) R.NFS_SRC_s_CTRL_PRODUCER
  else s.on (strB h (port - 64)) R.ETH_STR_t_CFG_EN

/-- Sectors of the ring of flash source `port`, and whether a write of `n` bytes, `done` bytes into the transfer, needs a
sector that the ring does not have. -/
def stageSize (s : State) (h port : Nat) : Nat := s.rd (nfsSrcB h port) R.NFS_SRC_s_SIZE_SIZE * 256
def stageFull (s : State) (h port done n : Nat) : Bool :=
  let used := stageUsed s h port
  (decide (done % 4096 = 0) && decide (stageSize s h port ≤ used))
    || (decide (4096 < done % 4096 + n) && decide (stageSize s h port ≤ used + 1))

/-- Whether a port keeps a write waiting: the staging ring is full, the throttle or the flush holds, or the stream has no
room. -/
def portWaits (s : State) (h port done n : Nat) : Bool :=
  if port < 64 then
    stageFull s h port done n || (decide (done % 4096 = 0) && overLimit s 1) || s.rd (pwrB 0) R.PWR_STATE_STATE == 3
  else (strPush h (port - 64) (done == 0) (List.replicate n 0) s).isNone

/-- A writer into staging waits on the throttle only where nothing else holds it (R367). -/
def portThrottled (s : State) (h port done n : Nat) : Bool :=
  decide (port < 64) && overLimit s 1 && !stageFull s h port done n

/-- Bytes written to a port, `done` bytes into the transfer; `last` ends it, and fills a flash source's last sector with
zeros. -/
def dmaPortPut (h port done : Nat) (last : Bool) (d : List Byte) (s : State) : State :=
  if port < 64 then
    let b := nfsSrcB h port
    let n := done % 4096 + d.length
    let d := if last then d ++ List.replicate (ceilTo 4096 n - n) 0 else d
    let n := (done % 4096 + d.length) / 4096
    let s := s.ringBytes h (s.rd b R.NFS_SRC_s_BASE_BASE * 2 ^ 20) (stageSize s h port * 4096)
      (s.rd b R.NFS_SRC_s_WPTR_WPTR * 4096 + done % 4096) d
    if n = 0 then s else throttle h false (stageAdvance h port n s)
  else (strPush h (port - 64) (done == 0) d s).getD s

/-! A transfer (R518, R519). -/

/-- Whether window offset `a` lies in a queue window, whose 16 bytes a fixed source reads in turn (R446, R448, R518). -/
def queueWindow (a : Nat) : Bool :=
  decide (0x60000 ≤ a ∧ a < 0x70000) && ((tdcWindow (a - 0x60000)).isSome || (ivWindow (a - 0x60000)).isSome)

/-- Source addresses of `n` bytes from byte `done` of a MOVE. -/
def moveSrc (x : DmaXfer) (a : DmaAr) (done n : Nat) : List Nat :=
  let m := if x.ssp = 2 ∧ queueWindow (a.at_ 0) = true then 16 else 4
  (List.range n).map fun b => a.at_ (if x.sfix then (done + b) % m else done + b)

/-- Destination addresses of `n` bytes from byte `done`. -/
def xferDst (fix : Bool) (a : DmaAr) (done n : Nat) : List Nat :=
  (List.range n).map fun b => a.at_ (if fix then (done + b) % 4 else done + b)

/-- Bytes of the whole transfer. -/
def xferBytes (gather : Bool) (x : DmaXfer) : Nat := if gather then x.len * x.esize else x.len

/-- The channel waits for its port; `stalls` is how many cycles it has waited. -/
def dmaStall (h k : Nat) (stalls : Nat) (s : State) : State :=
  let b := dmaChB h k
  s.wrs b [(R.DMA_k_STATUS_STATE, 3), (R.DMA_k_STALLS_STALLS, (s.rd b R.DMA_k_STALLS_STALLS + max 1 stalls) % 2 ^ 32)]

/-- The index of entry `i` of a GATHER, and whether it is all ones. -/
def gatherIndex (s : State) (h k : Nat) (x : DmaXfer) (i : Nat) : Nat × Bool :=
  let w := if x.wide then 4 else 2
  let a := dmaAr s h k x.iar
  let v := ofLe ((List.range w).map fun b => s.byte h (a.at_ (i * w + b)))
  (v, decide (v = 2 ^ (8 * w) - 1))

/-- One unit of a transfer: up to 4 KiB of a MOVE or one entry of a GATHER, from byte `done` on. The state after it, and
whether the transfer goes on: a bad address halts the channel with ADDR, a write to the sealed boot region with PROTECT, a
port that waits stalls it. -/
def dmaUnit (h : Hub) (k : Nat) (gather : Bool) (x : DmaXfer) (stalls done n : Nat) (s : State) : State × Bool :=
  let total := xferBytes gather x
  let sa := dmaAr s h k x.sar
  let da := dmaAr s h k x.dar
  let ssp := dmaSpace s h x.ssp
  let dsp := dmaSpace s h x.dsp
  let idx := gatherIndex s h k x (done / max 1 x.esize)
  let zero := gather && idx.2
  let src := if zero then [] else if gather then (List.range n).map fun b => sa.at_ (idx.1 * x.esize + b) else moveSrc x sa done n
  let dst := if x.dsp = 3 then [] else xferDst (x.dfix && !gather) da done n
  let iw := if x.wide then 4 else 2
  let tableOk := !gather || addrsOk s (.mem h) ((List.range iw).map fun b => (dmaAr s h k x.iar).at_ (done / max 1 x.esize * iw + b))
  if x.dsp = 3 ∧ portOpen s h x.port = false then (dmaHalt h k 4 s, false)
  else if !tableOk || !addrsOk s ssp src || !addrsOk s dsp dst then (dmaHalt h k 4 s, false)
  else if addrsSealed s dsp dst then (dmaHalt h k 5 (s.violation h (dst.headD 0)), false)
  else if x.dsp = 3 ∧ portWaits s h x.port done n = true then
    (throttleIf (portThrottled s h x.port done n) h (dmaStall h k stalls s), false)
  else
    let (data, s) := if zero then (List.replicate n 0, s) else spaceRead h k ssp src s
    let s := if x.dsp = 3 then dmaPortPut h x.port done (done + n == total) data s else spaceWrite h dsp dst data s
    let b := dmaChB h k
    let s := s.modDma h k fun q => { q with done := done + n }
    (s.wrs b [(R.DMA_k_BYTES_BYTES, (s.rd b R.DMA_k_BYTES_BYTES + n) % 2 ^ 32),
      (R.DMA_k_LEFT_LEFT, if gather then x.len - (done + n) / max 1 x.esize else total - (done + n)),
      (R.DMA_k_STATUS_STATE, 1)], true)
where
  throttleIf (on : Bool) (h : Nat) (s : State) : State := if on then throttle h true s else s

/-- Units until `stop` bytes of the transfer are done, or it stops. -/
def dmaUnits (h : Hub) (k : Nat) (gather : Bool) (x : DmaXfer) (stalls stop : Nat) : (fuel : Nat) → State → State
  | 0, s => s
  | f + 1, s =>
    let done := (s.dmaSt h k).done
    if stop ≤ done then s
    else
      let n := if gather then x.esize
        else min (stop - done) (4096 - done % 4096)
      match dmaUnit h k gather x stalls done n s with
      | (s, true) => dmaUnits h k gather x stalls stop f s
      | (s, false) => s

/-- The transfer is complete: the address registers advance and the next instruction issues (R518 to R520). -/
def dmaDone (h k : Nat) (gather : Bool) (x : DmaXfer) (s : State) : State :=
  let total := xferBytes gather x
  let s := if gather then modAr h k x.iar (x.len * (if x.wide then 4 else 2) : Nat) s else s
  let s := if gather then (if x.sfix then s else modAr h k x.sar x.sskip s)
    else modAr h k x.sar ((if x.sfix then 0 else (total : Int)) + x.sskip) s
  let s := if x.dsp = 3 then s else modAr h k x.dar ((if x.dfix then 0 else (total : Int)) + x.dskip) s
  dmaNext h k none s

/-- A stop that was asked for during a burst takes place, or a pause. -/
def dmaBoundary (h k : Nat) (s : State) : State :=
  if (s.dmaSt h k).stopping then dmaHalt h k 1 s else dmaPauseShow h k s

/-- The transfer in progress, and whether it is a GATHER. -/
def dmaXferOf (s : State) (h k : Nat) : Option (Bool × DmaXfer) :=
  match (s.dmaSt h k).insn with
  | none => none
  | some l => match dmaDecode s l with
    | .move x => some (false, x)
    | .gather x => some (true, x)
    | _ => none

/-- An unpaced transfer in progress runs to its end. -/
def dmaFree (h : Hub) (k stalls : Nat) (s : State) : State :=
  match dmaXferOf s h k with
  | some (g, x) =>
    if x.line / 4096 ≠ 0 ∨ (dmaState s h k ≠ 1 ∧ dmaState s h k ≠ 3) then s
    else
      let total := xferBytes g x
      let s := dmaUnits h k g x stalls total (total + 1) s
      if dmaState s h k = 5 ∨ (s.dmaSt h k).done < total then s else dmaBoundary h k (dmaDone h k g x s)
  | none => s

/-- A paced burst that has started completes (R527). -/
def dmaBurst (h : Hub) (k stalls : Nat) (s : State) : State :=
  match dmaXferOf s h k, (s.dmaSt h k).burst with
  | some (g, x), some size =>
    if dmaState s h k ≠ 1 ∧ dmaState s h k ≠ 3 then s
    else
      let total := xferBytes g x
      let begun := (s.dmaSt h k).done
      let stop := if g then total else min total (if begun % size = 0 then begun + size else ceilTo size begun)
      let s := dmaUnits h k g x stalls stop (total + 1) s
      if dmaState s h k = 5 ∨ (s.dmaSt h k).done < stop then s
      else
        let b := dmaChB h k
        let low := !lineOn s h x.line
        let s := if low then (s.wr b R.DMA_k_STATUS_WITHDRAWN 1).inc b R.DMA_k_WITHDRAWN_WITHDRAWN else s
        let s := s.modDma h k fun q => { q with burst := none }
        if total ≤ stop then dmaBoundary h k (dmaDone h k g x s)
        else if (s.dmaSt h k).stopping then dmaHalt h k 1 s
        else
          let s := dmaWaitOn h k x.line s
          if pauseAsked s h k then dmaPauseShow h k s else dmaWakeOne h k s
  | _, _ => s

/-- A MOVE or GATHER has been issued: with no line it runs, with a line it waits for its first burst (R518, R519). -/
def dmaXferIssue (h : Hub) (k : Nat) (g : Bool) (stalls : Nat) (x : DmaXfer) (s : State) : State :=
  let s := dmaHold h k s
  let s := s.modDma h k fun q => { q with done := 0 }
  if xferBytes g x = 0 then dmaBoundary h k (dmaDone h k g x s)
  else if x.line / 4096 = 0 then dmaFree h k stalls s
  else dmaWakeOne h k (dmaWaitOn h k x.line s)

/-- Cycles in which the channel waited for a tag (R528). -/
def tagWaits (h : Nat) (n : BitVec 32) (s : State) : State :=
  if s.hasHub h then s.inc (dmaB h) R.DMA_TAG_WAITS_WAITS n.toNat else s

/-- DMA_MOVE: the MOVE at PC issues; one in progress without a line goes on (R518). -/
def execDmaMove (h : Hub) (k : Fin 16) (parityBad : Bool) (waits stalls : BitVec 32) (s : State) :
    Host.Outcome State Fault Refusal :=
  let s := dmaWake (tagWaits h waits s)
  .next (if (s.dmaSt h k).insn.isSome then
    (match dmaXferOf s h k with | some (false, _) => dmaFree h k stalls.toNat s | _ => s)
  else dmaFetch h k parityBad (fun op s => match op with | .move x => dmaXferIssue h k false stalls.toNat x s | _ => s) s)

/-- DMA_GATHER (R519). -/
def execDmaGather (h : Hub) (k : Fin 16) (parityBad : Bool) (waits stalls : BitVec 32) (s : State) :
    Host.Outcome State Fault Refusal :=
  let s := dmaWake (tagWaits h waits s)
  .next (if (s.dmaSt h k).insn.isSome then
    (match dmaXferOf s h k with | some (true, _) => dmaFree h k stalls.toNat s | _ => s)
  else dmaFetch h k parityBad (fun op s => match op with | .gather x => dmaXferIssue h k true stalls.toNat x s | _ => s) s)

/-- DMA_BURST: the burst that has started completes; a waiting channel whose line is asserted starts one first (R527). -/
def execDmaBurst (h : Hub) (k : Fin 16) (waits stalls : BitVec 32) (s : State) : Host.Outcome State Fault Refusal :=
  .next (if s.hasHub h then dmaBurst h k stalls.toNat (dmaWake (tagWaits h waits s)) else s)

/-- DMA_SIGNAL_REGWRITE: a word to the hub register at the offset (R522); an offset beyond the window, or not of a whole word,
halts with ADDR (R516, R531). -/
def execDmaSignalRegwrite (h : Hub) (k : Fin 16) (parityBad : Bool) (s : State) : Host.Outcome State Fault Refusal :=
  .next (dmaIssue h k parityBad (fun op s => match op with
    | .regwrite off value =>
      if 0x800000 ≤ off ∨ off % 4 ≠ 0 then dmaHalt h k 4 s
      else dmaNext h k none (hostWrite (.dma h) (hubB h + off) value s)
    | _ => s) s)

end Sys2Proof.Machine
end

