-- ==== Sys2Proof/Machine/Faults.lean ====
section
/-! DEFINITION. What the planner does on an event: the actions of its class, the lead's change of hands, and the repair of
single faults (R355, R617, R621, R622, R627, R628). -/

namespace Sys2Proof.Machine

/-! Repairs under way (R355). -/

/-- PLAN_STATUS.BUSY, QUEUE0 and QUEUE1 follow the repairs. -/
def showRepairs (s : State) : State :=
  let busy := fun h => !(s.repairSt h).faults.isEmpty || (s.repairSt h).active.isSome
  s.wrs (planB 0) [(R.PLAN_STATUS_BUSY, b2n (busy 0 || busy 1)), (R.PLAN_STATUS_QUEUE0, (s.repairSt 0).queue.length),
    (R.PLAN_STATUS_QUEUE1, (s.repairSt 1).queue.length)]

/-- A fault waits for the planner to place its repair, where the queue of its hub has room. -/
def queueFault (h : Nat) (f : Repair) (s : State) : State :=
  if repairRoom s h then showRepairs (s.modRepair h fun q => { q with faults := q.faults ++ [f] }) else s

/-- The pipelines in the input's list, as 4 * die + pipe. -/
def mapPipes (s : State) (i : Nat) : List Nat :=
  let l := leadOf i
  let of := fun (t m : Nat) => ((List.range 4).filter fun k => bit m k).map (4 * t + ·)
  of l (s.rd (wbB l) R.WB_PIPE_MAP_LOCAL) ++ of (l + 1) (s.rd (wbB l) R.WB_PIPE_MAP_PARTNER)

/-- The hot spares of an input: pipelines of its pair out of its list, while a plan with SPARES = 1 uses the input (R353). -/
def hotSpares (s : State) (i : Nat) : List Nat :=
  if (running s).any fun n => s.on (planNB n) R.PLAN_n_CFG_SPARES && (planInputs s n).contains i then
    (pairPipes s i).filter fun p => !(mapPipes s i).contains p
  else []

/-- The input's list with pipeline `p` in place of `old`. -/
def swapPipe (i old p : Nat) (s : State) : State :=
  let m := (mapPipes s i).map fun x => if x = old then p else x
  let w := fun t => (m.filter fun x => x / 4 == t).foldl (fun m x => m ||| 2 ^ (x % 4)) 0
  setFlds (wbB (leadOf i)) [(R.WB_PIPE_MAP_LOCAL, w (leadOf i)), (R.WB_PIPE_MAP_PARTNER, w (leadOf i + 1))] s

/-- Whether the failed resource is in use, so that a spare has to take its place. -/
def repairNeeded (s : State) (f : Repair) : Bool :=
  match repairKind f.source with
  | some (0, t) => (mapPipes s (inputOf t)).contains (4 * t + f.detail / 2 ^ 56)
  | some (1, t) => !(s.core t f.detail).retired
  | some (_, t) => s.onF (zcB t f.detail) R.ZC_n_CTRL_EN
  | none => false

/-- The spare takes the place of the failed resource; none where no spare is held or free. A core's program is moved by
CORE_REPAIR. -/
def placeSpare (f : Repair) (s : State) : Option State :=
  match repairKind f.source with
  | some (0, t) =>
    let i := inputOf t
    let l := hotSpares s i
    ((l.find? fun p => p / 4 == t) <|> l.head?).map fun p => swapPipe i (4 * t + f.detail / 2 ^ 56) p s
  | some (1, t) =>
    if (List.range 132).any fun c => s.onC t c R.CORE_c_STATUS_SPARE && c != f.detail then some s else none
  | some (_, t) =>
    ((List.range 128).find? fun m => zoomFree s t m && m != f.detail).map fun m => zoomMove t f.detail m s
  | none => none

/-- After a repair a free resource of the kind becomes the new spare; where none is free the S8G is unprotected. -/
def spareLacks (s : State) (f : Repair) : Bool :=
  match repairKind f.source with
  | some (0, t) =>
    let i := inputOf t
    ((running s).any fun n => s.on (planNB n) R.PLAN_n_CFG_SPARES && (planInputs s n).contains i) && (hotSpares s i).isEmpty
  | some (1, t) => decide (((List.range 132).filter fun c => s.onC t c R.CORE_c_STATUS_SPARE).length < min 4 (s.rd (cctlB t) R.CCTL_CFG_RESERVE))
  | _ => false

def unprotected (c : Bool) (s : State) : State := if c then s.wr (planB 0) R.PLAN_STATUS_UNPROTECTED 1 else s

/-- A replay starts (1) or ends (0): CHZ_STATUS.REPLAY of the die for a zoom channel (R266; a core's shows it by
CORE_REPAIR and CORE_REPLAY_END), WB_STATUS.REPAIR of the input's lead die for a pipeline (R126). -/
def replayFlag (f : Repair) (v : Nat) (s : State) : State :=
  match repairKind f.source with
  | some (0, t) => s.wr (wbB (leadOf (inputOf t))) R.WB_STATUS_REPAIR v
  | some (3, t) => s.wr (chzB t) R.CHZ_STATUS_REPLAY v
  | _ => s

/-- The repair of the oldest fault of hub `h` is placed, and its replay starts or waits. -/
def repairPlace (h : Nat) (s : State) : State :=
  match (s.repairSt h).faults with
  | [] => s
  | f :: rest =>
    let s := s.modRepair h fun q => { q with faults := rest }
    if !repairNeeded s f then showRepairs (unprotected (spareLacks s f) s)
    else match placeSpare f s with
      | none => showRepairs (unprotected true s)
      | some s =>
        let s := s.inc (planB 0) R.PLAN_REPAIR_COUNT_REPAIRS
        showRepairs (if (s.repairSt h).active.isNone then
          replayFlag f 1 (s.modRepair h fun q => { q with active := some f })
        else s.modRepair h fun q => { q with queue := q.queue ++ [f] })

/-- REPAIR_PLACE (R355). -/
def execRepairPlace (h : Hub) (s : State) : Host.Outcome State Fault Refusal :=
  .next (planStep (repairPlace h) s)

/-- The last replayed item of hub `h`'s repair has been delivered: an entry with REPAIRED, the next replay, and the new
spare. -/
def repairComplete (h : Nat) (s : State) : State :=
  match (s.repairSt h).active with
  | none => s
  | some f =>
    let s := replayFlag f 0 (logRepaired f.source f.detail s)
    let s := match repairKind f.source with
      | some (3, t) => s.modZoom t f.detail fun q => { q with movedTo := none, rebuilt := none }
      | _ => s
    let s := unprotected (spareLacks s f) s
    showRepairs (match (s.repairSt h).queue with
      | [] => s.modRepair h fun q => { q with active := none }
      | g :: rest => replayFlag g 1 (s.modRepair h fun q => { q with active := some g, queue := rest }))

/-- REPAIR_COMPLETE: and plans that wait are checked again (R349, R628). -/
def execRepairComplete (h : Hub) (again : List (Fin 32 × PlanNeed)) (s : State) : Host.Outcome State Fault Refusal :=
  .next (planStep (fun s => if (s.repairSt h).active.isSome then recheckAll again (repairComplete h s) else s) s)

/-- PIPELINE_FAULT: pipeline `pipe` of die `t` fails its residue check at spectrum `first` (R627). -/
def execPipelineFault (t : TDie) (pipe : Fin 4) (first : BitVec 56) (s : State) : Host.Outcome State Fault Refusal :=
  let p := 4 * t.val + pipe.val
  .next (if s.usableT t && !s.brokenPipes.contains p then
    { s.raise (96 + 8 * t) (pipe.val * 2 ^ 56 + first.toNat) with brokenPipes := p :: s.brokenPipes }
  else s)

/-! Actions (R621, R622). -/

/-- The die of a source's event, as a bit of CHIP_CONFIG.PRESENT; for a link the die at its far end. -/
def sourceDie (e : Event) : Option Nat :=
  let n := e.source
  if n = 11 then some (e.detail / 8 % 2)
  else if n = 13 then some (e.detail / 32 % 2)
  else if n = 18 ∨ n = 19 then some (e.detail % 2)
  else if n = 20 ∨ n = 21 ∨ n = 80 ∨ n = 81 ∨ n = 82 ∨ n = 83 ∨ n = 84 ∨ n = 85 then some (6 + n % 2)
  else if 32 ≤ n ∧ n ≤ 35 then some (n % 2)
  else if 48 ≤ n ∧ n ≤ 56 then some (farDie (n - 48))
  else if 57 ≤ n ∧ n ≤ 65 then some (farDie (n - 57))
  else if n = 66 then some 2
  else if 68 ≤ n ∧ n ≤ 75 then some (n / 2 % 2)
  else if n = 76 then some (e.detail / 2 % 2)
  else if n = 77 then some 0
  else if 88 ≤ n ∧ n ≤ 95 then [6, 7, 2, 3, 4, 5, 0, 1][n - 88]?
  else if 96 ≤ n ∧ n < 128 then some (2 + (n - 96) / 8)
  else if 128 ≤ n ∧ n < 160 then some ((n - 128) / 16)
  else none

/-- Whether plan `n` uses die `d`; a hub through the transform dies attached to it and its streams. -/
def usesDie (s : State) (n d : Nat) : Bool :=
  let dies := planDies s n
  bit dies d || (decide (d < 2) && ((List.range 4).any (fun t => bit dies (2 + t) && hubOf s t == d)
    || (s.planSt n).streams.any fun x => x / 64 == d))

/-- The planner stops every plan that runs or wakes and uses die `d`, with reason 11 DIE. -/
def stopUsers (d : Nat) (s : State) : State :=
  allSlots.foldl (fun s n =>
    if (planState s n = 4 ∨ planState s n = 3) ∧ usesDie s n d = true then stopFor n 11 s else s) s

/-- H1 takes the lead (R5, R622). -/
def takeLead (s : State) : State :=
  let show_ := fun b f (s : State) => (s.wr (b 0) f 0).wr (b 1) f 1
  { show_ chipB R.CHIP_STATUS_LEAD (show_ fcolB R.FCOL_ID_LEAD (show_ timeB R.TIME_ID_LEAD
      (show_ planB R.PLAN_ID_LEAD s))) with lead := 1 }

/-- A SEVERE control fault of the lead hub. -/
def controlFault (s : State) : State :=
  if s.hasHub 1 then (if s.lead = 0 then takeLead s else s)
  else { allSlots.foldl (fun s n => stopPlan n [] s) s with controlLost := true }

/-- What a SEVERE event does beside its entry: ALIVE stops; control faults and the plans of the source's die. -/
def severe (e : Event) (s : State) : State :=
  let s := s.hubList.foldl (fun s h => s.wr (fcolB h) R.FCOL_STATUS_ALIVE_STOP 1) s
  if e.source = 32 + s.lead ∨ e.source = 34 + s.lead ∨ e.source = 36 then controlFault s
  else match sourceDie e with
    | some d => stopUsers d s
    | none => s

/-- What the lead collector has done for an event of its class beside logging it (R621). -/
def faultAct (e : Logged) (s : State) : State :=
  let s := match repairKind e.ev.source with
    | some (_, t) =>
      if 1 ≤ e.cls ∧ bit (s.srcSt s.lead e.ev.source).cfg 9 = true then
        queueFault (hubOf s t) ⟨e.ev.source, e.ev.detail⟩ s
      else s
    | none => s
  if e.cls < 2 then s else severe e.ev s

/-- FAULT_EVENT: the `n` oldest events on their way reach the collectors in one cycle (R615 to R624). -/
def execFaultEvent (n : Nat) (s : State) : Host.Outcome State Fault Refusal :=
  let l := s.flight.take n
  if l.isEmpty then .next s
  else
    let s := { s with flight := s.flight.drop n }
    let r := s.hubList.foldl (fun (x : State × List Logged) h =>
      let y := collect h l x.1
      if h = s.lead then y else (y.1, x.2)) (s, [])
    .next (r.2.foldl (fun s e => faultAct e s) r.1)

end Sys2Proof.Machine
end

