-- ==== Sys2Proof/Machine/Mgmt.lean ====
section
/-! DEFINITION. The operations of management requests: READ, WRITE, ECHO, and the stops that need the planner (R550 to R553,
R644). -/

namespace Sys2Proof.Machine

/-- The operation that the oldest request of port `h` runs next, where it is `op`: `f` gives its answer, status and data, and
the state after it. Nothing runs once the control processor is lost (R622). -/
def mgmtRun (h op : Nat) (f : MgmtOp → State → Nat × Nat × State) (s : State) : State :=
  if s.controlLost then s
  else match (s.ethSt h).reqs with
  | [] => s
  | r :: rest =>
    match r.ops.findIdx? fun o => !o.done with
    | none => s
    | some i =>
      match r.ops[i]? with
      | none => s
      | some o =>
        if o.op ≠ op then s
        else
          let x := f o s
          let done := { o with status := x.1, data := x.2.1, done := true }
          mgmtFinish h (x.2.2.modEth h fun q => { q with reqs := { r with ops := r.ops.set i done } :: rest })

/-- MGMT_READ: STATUS is ABSENT where R6 answers (R550, R551). -/
def execMgmtRead (h : Hub) (s : State) : Host.Outcome State Fault Refusal :=
  .next (mgmtRun h 1 (fun o s =>
    let s := hostRead (.mgmt h) o.addr s
    (if s.access = 1 then 1 else 0, s.readData.toNat, s)) s)

/-- MGMT_WRITE: STATUS is ABSENT where R6 ignores the write, LOCKED where R8 does (R550, R551). -/
def execMgmtWrite (h : Hub) (s : State) : Host.Outcome State Fault Refusal :=
  .next (mgmtRun h 2 (fun o s =>
    let s := hostWrite (.mgmt h) o.addr o.data s
    (s.access, o.data, s)) s)

/-- MGMT_ECHO (R550). -/
def execMgmtEcho (h : Hub) (s : State) : Host.Outcome State Fault Refusal :=
  .next (mgmtRun h 4 (fun o s => (0, o.data, s)) s)

/-- A stop of plans under the PLAN_LOAD lock is ignored under R8 (R553). -/
def stopLocked (h arg : Nat) (s : State) : State :=
  match stopTaken h arg 2 s with
  | some (addr, s) => s.violation h addr
  | none => s

/-- MGMT_STOP_PLAN: STOP with ARG 2: the plan in slot ADDR stops (R553). -/
def execMgmtStopPlan (h : Hub) (e : PlanEnd) (s : State) : Host.Outcome State Fault Refusal :=
  .next (if s.controlLost then s
  else if s.on (bootB 0) R.BOOT_LOCK_PLAN_LOAD then stopLocked h 2 s
  else match stopTaken h 2 0 s with
    | some (n, s) => if n < 32 then planStep (fun s => recheckAll e.again (stopPlan n e.writes s)) s else s
    | none => s)

/-- MGMT_STOP_ALL_PLANS: STOP with ARG 3 (R553). -/
def execMgmtStopAllPlans (h : Hub) (e : PlanEnd) (s : State) : Host.Outcome State Fault Refusal :=
  .next (if s.controlLost then s
  else if s.on (bootB 0) R.BOOT_LOCK_PLAN_LOAD then stopLocked h 3 s
  else match stopTaken h 3 0 s with
    | some (_, s) => planStep (fun s =>
        recheckAll e.again (busWrites .planner e.writes (allSlots.foldl (fun s n => stopPlan n [] s) s))) s
    | none => s)

end Sys2Proof.Machine
end

