-- ==== Sys2Proof/Machine/Requests.lean ====
section
/-! DEFINITION. The rows of the mailbox: a request for one value of R649 lands through hub `h`'s MBOX on path `p`, and completes
(R645 to R649). A row that writes a value first writes its words into MBOX_DATA. -/

namespace Sys2Proof.Machine

/-- The code, the instance and the words of an Ethernet address (R649, R557). -/
def ethCode : EthAddr → Nat | .ip6 => 0x70 | .group6 => 0x71 | .allow _ => 0x72 | .dst6 _ => 0x73
def ethIndex : EthAddr → Nat | .allow k => k.val | .dst6 t => t.val | _ => 0
def ethWords : EthAddr → Nat | .allow _ => 5 | _ => 4

/-- The request for a value: path `p` writes MBOX_REQ of hub `h`. -/
def mboxRequest (h : Nat) (p : Path) (code index dir : Nat) (s : State) : State :=
  hostWrite p (mboxB h + R.MBOX_REQ) (code + index * 2 ^ 16 + dir * 2 ^ 24) s

/-- A request to read. -/
def mboxGet (h : Nat) (p : Path) (code index : Nat) (s : State) : State := mboxRequest h p code index 0 s

/-- The `k` words of `v` go into MBOX_DATA, and then a request to write lands. -/
def mboxSet (h : Nat) (p : Path) (code index k v : Nat) (s : State) : State :=
  mboxRequest h p code index 1 (((wordsOf k v).zipIdx).foldl (fun s x =>
    hostWrite p (mboxB h + R.MBOX_DATA_w + 4 * x.2) x.1 s) s)

/-- MBOX_REQUEST_COMPLETE (R646 to R648). -/
def execMboxRequestComplete (h : Hub) (p : Path) (s : State) : Host.Outcome State Fault Refusal :=
  .next (if s.hasHub h then mboxComplete h (bankOf p) s else s)

/-- MBOX_LAST_WORD_READ: path `p` reads the last word of its value (R646). -/
def execMboxLastWordRead (h : Hub) (p : Path) (s : State) : Host.Outcome State Fault Refusal :=
  .next (hostRead p (mboxB h + R.MBOX_DATA_w + 4 * ((s.mboxSt h (bankOf p)).words - 1)) s)

/-- TIME_NOW: the STS at the request cycle (R649). -/
def execTimeNow (h : Hub) (p : Path) (s : State) : Host.Outcome State Fault Refusal :=
  .next (mboxGet h p 1 0 s)

/-- TIME_FRC: the free-running counter (R649). -/
def execTimeFrc (h : Hub) (p : Path) (s : State) : Host.Outcome State Fault Refusal :=
  .next (mboxGet h p 2 0 s)

/-- TIME_RS: R_S of input `n`, or R_L in the S8G-2D (R428, R429). -/
def execTimeRs (h : Hub) (p : Path) (n : Fin 2) (s : State) : Host.Outcome State Fault Refusal :=
  .next (mboxGet h p 3 n.val s)

/-- TIME_HOST: the time that a HOST base uses (R418). -/
def execTimeHost (h : Hub) (p : Path) (v : BitVec 96) (s : State) : Host.Outcome State Fault Refusal :=
  .next (mboxSet h p 4 0 3 v.toNat s)

/-- TIME_STEP_LOG: r1 and the times before and after the last step (R415). -/
def execTimeStepLog (h : Hub) (p : Path) (s : State) : Host.Outcome State Fault Refusal :=
  .next (mboxGet h p 5 0 s)

/-- TIME_CLOCK_ID_WRITE: the clockIdentity, once (R427). -/
def execTimeClockIdWrite (h : Hub) (p : Path) (v : BitVec 64) (s : State) : Host.Outcome State Fault Refusal :=
  .next (mboxSet h p 6 0 2 v.toNat s)

/-- TIME_CLOCK_ID_READ (R649). -/
def execTimeClockIdRead (h : Hub) (p : Path) (s : State) : Host.Outcome State Fault Refusal :=
  .next (mboxGet h p 6 0 s)

/-- TIME_GM_ID: the latest grandmasterIdentity (R431). -/
def execTimeGmId (h : Hub) (p : Path) (s : State) : Host.Outcome State Fault Refusal :=
  .next (mboxGet h p 7 0 s)

/-- PLAN_SCHEDULE_READ: START, DURATION or PERIOD of plan `n`, by `k` (R649). -/
def execPlanScheduleRead (h : Hub) (p : Path) (k : Fin 3) (n : Fin 32) (s : State) : Host.Outcome State Fault Refusal :=
  .next (mboxGet h p (0x10 + k.val) n.val s)

/-- PLAN_SCHEDULE_WRITE: START, DURATION or PERIOD of plan `n`, by `k` (R649). -/
def execPlanScheduleWrite (h : Hub) (p : Path) (k : Fin 3) (n : Fin 32) (v : BitVec 64) (s : State) : Host.Outcome State Fault Refusal :=
  .next (mboxSet h p (0x10 + k.val) n.val 2 v.toNat s)

/-- PLAN_ENERGY_WORK: ENERGY or WORK of plan `n` (R362). -/
def execPlanEnergyWork (h : Hub) (p : Path) (work : Bool) (n : Fin 32) (s : State) : Host.Outcome State Fault Refusal :=
  .next (mboxGet h p (if work then 0x14 else 0x13) n.val s)

/-- LEDGER_ENERGY: the energy counter of ledger domain `d` (R360). -/
def execLedgerEnergy (h : Hub) (p : Path) (d : Fin 13) (s : State) : Host.Outcome State Fault Refusal :=
  .next (mboxGet h p 0x18 d.val s)

/-- TARN_HEAD: the newest readable Tarn sample of input `n` (R202). -/
def execTarnHead (h : Hub) (p : Path) (n : Fin 2) (s : State) : Host.Outcome State Fault Refusal :=
  .next (mboxGet h p 0x20 n.val s)

/-- TARN_OLDEST: the oldest readable Tarn sample of input `n` (R202). -/
def execTarnOldest (h : Hub) (p : Path) (n : Fin 2) (s : State) : Host.Outcome State Fault Refusal :=
  .next (mboxGet h p 0x21 n.val s)

/-- TDC_POP: pops the oldest edge entry of input `n`, or reports EMPTY (R446). -/
def execTdcPop (h : Hub) (p : Path) (n : Fin 8) (s : State) : Host.Outcome State Fault Refusal :=
  .next (mboxGet h p 0x30 n.val s)

/-- TDC_IVPOP: pops the oldest interval entry of unit `m` (R448). -/
def execTdcIvpop (h : Hub) (p : Path) (m : Fin 4) (s : State) : Host.Outcome State Fault Refusal :=
  .next (mboxGet h p 0x31 m.val s)

/-- TDC_GATE_TIME_READ: TDC_GATE_OPEN_n or TDC_GATE_CLOSE_n (R442). -/
def execTdcGateTimeRead (h : Hub) (p : Path) (close : Bool) (n : Fin 8) (s : State) : Host.Outcome State Fault Refusal :=
  .next (mboxGet h p (if close then 0x33 else 0x32) n.val s)

/-- TDC_GATE_TIME_WRITE: TDC_GATE_OPEN_n or TDC_GATE_CLOSE_n (R442). -/
def execTdcGateTimeWrite (h : Hub) (p : Path) (close : Bool) (n : Fin 8) (v : BitVec 96) (s : State) : Host.Outcome State Fault Refusal :=
  .next (mboxSet h p (if close then 0x33 else 0x32) n.val 3 v.toNat s)

/-- NFS_UNLOCK: the host secret (R477). -/
def execNfsUnlock (h : Hub) (p : Path) (v : BitVec 256) (s : State) : Host.Outcome State Fault Refusal :=
  .next (mboxSet h p 0x40 0 8 v.toNat s)

/-- NFS_CAT_STS: the open or close STS of the selected recording (R485). -/
def execNfsCatSts (h : Hub) (p : Path) (close : Bool) (s : State) : Host.Outcome State Fault Refusal :=
  .next (mboxGet h p (if close then 0x42 else 0x41) 0 s)

/-- DMA_AR: BASE, SIZE and OFF of address register `a` of channel `k` (R535). -/
def execDmaAr (h : Hub) (p : Path) (k : Fin 16) (a : Fin 4) (s : State) : Host.Outcome State Fault Refusal :=
  .next (mboxGet h p 0x50 (4 * k.val + a.val) s)

/-- DDR_FREEZE_ADDR: the hub address of a channel's freeze (R506). -/
def execDdrFreezeAddr (h : Hub) (p : Path) (c : Fin 2) (s : State) : Host.Outcome State Fault Refusal :=
  .next (mboxGet h p 0x60 c.val s)

/-- DDR_FREEZE_STS: the STS of a channel's freeze (R506). -/
def execDdrFreezeSts (h : Hub) (p : Path) (c : Fin 2) (s : State) : Host.Outcome State Fault Refusal :=
  .next (mboxGet h p 0x61 c.val s)

/-- ETH_ADDRESS_READ: ETH_IP6, ETH_TRIG_GROUP6, ETH_ALLOW_k or ETH_STR_DST6_t (R557). -/
def execEthAddressRead (h : Hub) (p : Path) (w : EthAddr) (s : State) : Host.Outcome State Fault Refusal :=
  .next (mboxGet h p (ethCode w) (ethIndex w) s)

/-- ETH_ADDRESS_WRITE: ETH_IP6, ETH_TRIG_GROUP6, ETH_ALLOW_k or ETH_STR_DST6_t (R557). -/
def execEthAddressWrite (h : Hub) (p : Path) (w : EthAddr) (v : BitVec 160) (s : State) : Host.Outcome State Fault Refusal :=
  .next (mboxSet h p (ethCode w) (ethIndex w) (ethWords w) v.toNat s)

/-- ETH_MGMT_KEY: the management key, once (R552). -/
def execEthMgmtKey (h : Hub) (p : Path) (v : BitVec 256) (s : State) : Host.Outcome State Fault Refusal :=
  .next (mboxSet h p 0x74 0 8 v.toNat s)

/-- FCOL_FIRST_DETAIL: STS and detail of the first-fault record (R623). -/
def execFcolFirstDetail (h : Hub) (p : Path) (s : State) : Host.Outcome State Fault Refusal :=
  .next (mboxGet h p 0x80 0 s)

/-- FCOL_LOG: pops the oldest fault-log entry (R624). -/
def execFcolLog (h : Hub) (p : Path) (s : State) : Host.Outcome State Fault Refusal :=
  .next (mboxGet h p 0x81 0 s)

/-- FUSE_KEY_HASH: the key hash for fuse operation 4 (R405). -/
def execFuseKeyHash (h : Hub) (p : Path) (v : BitVec 384) (s : State) : Host.Outcome State Fault Refusal :=
  .next (mboxSet h p 0x90 0 12 v.toNat s)

end Sys2Proof.Machine
end

