-- ==== Sys2Proof/Machine/Serve.lean ====
section
/-! DEFINITION. Rows of the capture memory and of housekeeping after which plans are suspended, dies switched off, or the
sequence-down begins (R498, R499, R502, R507, R602, R671). -/

namespace Sys2Proof.Machine

/-- Whether plan `n` has a region on hub `h`: it uses an input whose pair is attached to the hub. -/
def onHub (s : State) (n h : Nat) : Bool := (planInputs s n).any fun i => hubOf s (leadOf i) == h

/-- Where `f` froze a channel of hub `h`, each running plan with a region on that hub is suspended with reason MEMORY but
for those in `kept`, which the planner could re-place on the other hub; `e` holds the planner's writes (R507). -/
def afterFreeze (h c : Nat) (kept : List (Fin 32)) (e : PlanEnd) (f : State → State) (s : State) : State :=
  let t := f s
  if ddrState s h c ≠ 4 ∧ ddrState t h c = 4 then
    planStep (fun t => recheckAll e.again (busWrites .planner e.writes ((running t).foldl (fun t n =>
      if onHub t n h && !(kept.map (·.val)).contains n then suspend n 3 [] t else t) t))) t
  else t

/-- DDR_READ_SERVE: reads arrive, and the channel serves one (R499). -/
def execDdrReadServe (h : Hub) (c : Fin 2) (arrivals : List DdrReq) (a : DdrAccess) (kept : List (Fin 32)) (e : PlanEnd)
    (s : State) : Host.Outcome State Fault Refusal :=
  .next (if s.hasHub h then
    afterFreeze h c kept e (fun s => ddrServeRead h c a (ddrQueueReads h c arrivals s)) s else s)

/-- DDR_WRITE_SERVE: the channel issues its oldest write (R502). -/
def execDdrWriteServe (h : Hub) (c : Fin 2) (a : DdrAccess) (kept : List (Fin 32)) (e : PlanEnd) (s : State) :
    Host.Outcome State Fault Refusal :=
  .next (if s.hasHub h then afterFreeze h c kept e (ddrServeWrite h c a) s else s)

/-- DDR_SCRUB (R498). -/
def execDdrScrub (h : Hub) (c : Fin 2) (a : DdrAccess) (kept : List (Fin 32)) (e : PlanEnd) (s : State) :
    Host.Outcome State Fault Refusal :=
  .next (if s.hasHub h then afterFreeze h c kept e (ddrScrub h c a) s else s)

/-! Temperatures (R671). -/

/-- The source of die `d` above its limit: A0, A1, T0 to T3, H0, H1 are 88 to 95. -/
def tempSource (d : Nat) : Nat := if 6 ≤ d then 88 + (d - 6) else if 2 ≤ d then 90 + (d - 2) else 94 + d

/-- The junction limit of the suffix in 1/16 °C (R2). -/
def tempLimit (s : State) : Int := 16 * (if s.suffixE then 105 else 100)

/-- A transform or acquisition die switched off at its power switches is lost for this start; the plans that use it stop
with reason 11 DIE. -/
def dieHot (d : Nat) (s : State) : State :=
  let s := { dieOff d s with hotLost := s.hotLost ||| 2 ^ d }
  allSlots.foldl (fun s n =>
    if (planState s n = 4 ∨ planState s n = 3) ∧ bit (planDies s n) d = true then stopFor n 11 s else s) s

/-- A valid temperature `v`, in 1/16 °C, of die `d`. -/
def tempCheck (d : Nat) (v : Int) (s : State) : State :=
  let s := s.raiseIf (decide (tempLimit s < v)) (tempSource d) (enc 64 v)
  if 2 ≤ d then (if tempLimit s + 160 ≤ v then dieHot d s else s)
  else if tempLimit s + 240 ≤ v then powerFail s
  else s

/-- HK_ENTRY_RESULT: the conversion of converter `c`'s entry ends with quantity `v`, in volts or degrees (R602, R671). -/
def execHkEntryResult (h : Hub) (c : Fin 2) (v : Rat) (s : State) : Host.Outcome State Fault Refusal :=
  if !s.hasHub h || !(s.hkSt h c).runs then .next s
  else
    let (chan, s) := hkResult h c v s
    .next (match tempDie h chan with
      | some d => if tempThere s d then tempCheck d (hkValue chan (hkCode chan 0 v)) s else s
      | none => s)

end Sys2Proof.Machine
end

