-- ==== Sys2Proof/Machine/Spi.lean ====
section
/-! DEFINITION. The SPI host ports (R639 to R643). -/

namespace Sys2Proof.Machine

def dSpi : Nat → SpiSt := fun _ => {}
def State.spiSt (s : State) (h : Nat) : SpiSt := tget dSpi s.spi h
def State.modSpi (s : State) (h : Nat) (f : SpiSt → SpiSt) : State := { s with spi := tset dSpi s.spi h (f (s.spiSt h)) }

/-- The port works: its hub is there and VIO18 is up (R639, R643). -/
def spiWorks (s : State) (h : Nat) : Bool := s.hasHub h && !s.resetLow && bit s.rails.enables 0

/-- READY: from the MEMORY row on, in every state but AON (R640). The rails are up: an exit from AON, and a start that is
before its MEMORY row, are not ready. -/
def spiReady (s : State) : Bool := decide (3 ≤ bootState s) && !inAon s

/-- The status byte (R640). -/
def spiStatus (s : State) (h : Nat) : Nat :=
  let q := s.spiSt h
  b2n (spiReady s) + 2 * b2n (inAon s && decide (8 ≤ bootState s)) + 4 * b2n q.werr + 8 * b2n q.tmo + 16 * b2n (irqLow s)

/-- In AON a READ or WRITE frame also starts the wake (R359, R643). -/
def spiWake (s : State) : State := if inAon s && decide (8 ≤ bootState s) then aonExit s else s

/-- The host address of word `k` of a frame. -/
def spiAddr (addr : Nat) (fixed : Bool) (k : Nat) : Nat := if fixed then addr else (addr + 4 * k) % 2 ^ 32

/-- The oldest posted write takes effect; a write ignored under R6 or R8 sets WERR (R640, R642). -/
def spiDrain (h : Hub) (s : State) : State :=
  match (s.spiSt h).posted with
  | [] => s
  | (a, v) :: rest =>
    let s := hostWrite (.spi h) a v s
    let bad := decide (s.access ≠ 0)
    s.modSpi h fun q => { q with posted := rest, werr := q.werr || bad }

def spiDrainAll (h : Hub) : (fuel : Nat) → State → State
  | 0, s => s
  | n + 1, s => spiDrainAll h n (spiDrain h s)

/-- A word is sent: its filler bytes, its marker and its data; the marker 0x5E comes with zeros and sets TMO (R641). -/
def spiSend (h : Nat) (filler : Nat) (late : Bool) (v : Nat) (s : State) : State :=
  s.modSpi h fun q => { q with
    out := q.out ++ List.replicate filler 0xFF ++ (if late then [0x5E, 0, 0, 0, 0] else 0x5A :: beBytes 4 v)
    tmo := q.tmo || late }

/-- The words of a READ frame, in order: filler bytes of each, and whether it took more than 16 µs. -/
def spiReads (h : Hub) (addr : Nat) (fixed : Bool) : List (Nat × Bool) → Nat → State → State
  | [], _, s => s
  | (filler, late) :: l, k, s =>
    let s := hostRead (.spi h) (spiAddr addr fixed k) s
    spiReads h addr fixed l (k + 1) (spiSend h filler late s.readData.toNat s)

/-- A READ frame: earlier writes of the port have taken effect first (R642). Before MEMORY and in AON every word is 0x5E with
zeros (R643). -/
def spiRead (h : Hub) (addr : Nat) (fixed : Bool) (words : List (Nat × Bool)) (s : State) : State :=
  if !spiWorks s h then s
  else
    let s := s.modSpi h fun q => { q with out := [] }
    if spiReady s then spiReads h addr fixed words 0 (spiDrainAll h (s.spiSt h).posted.length s)
    else spiWake (words.foldl (fun s x => spiSend h x.1 true 0 s) s)

/-- SPI_READ: `words` gives for each word that the host clocks out its filler bytes and whether it was not ready after 16 µs
(R640, R641). -/
def execSpiRead (h : Hub) (addr : BitVec 32) (words : List (Nat × Bool)) (s : State) : Host.Outcome State Fault Refusal :=
  .next (spiRead h addr.toNat false words s)

/-- SPI_READ_FIXED (R640, R641). -/
def execSpiReadFixed (h : Hub) (addr : BitVec 32) (words : List (Nat × Bool)) (s : State) : Host.Outcome State Fault Refusal :=
  .next (spiRead h addr.toNat true words s)

/-- SPI_READ_TIMEOUT: a word is not ready 16 µs after its issue: it is sent as 0x5E with zeros, and the read still has its
effects (R641). -/
def execSpiReadTimeout (h : Hub) (addr : BitVec 32) (s : State) : Host.Outcome State Fault Refusal :=
  .next (if spiWorks s h && spiReady s then spiSend h 0 true 0 (hostRead (.spi h) addr.toNat s) else s)

/-- A word is issued into the write buffer, or discarded where it is full (R642). -/
def spiPost (h a v : Nat) (s : State) : State :=
  s.modSpi h fun q => if 64 ≤ q.posted.length then { q with werr := true } else { q with posted := q.posted ++ [(a, v)] }

/-- A WRITE frame; before MEMORY and in AON it is discarded with WERR (R642, R643). MISO drives 0xFF. -/
def spiWrite (h : Hub) (addr : Nat) (fixed : Bool) (words : List Word) (s : State) : State :=
  if !spiWorks s h then s
  else
    let s := s.modSpi h fun q => { q with out := List.replicate (4 * words.length) 0xFF }
    if spiReady s then (words.zipIdx).foldl (fun s x => spiPost h (spiAddr addr fixed x.2) x.1.toNat s) s
    else spiWake (s.modSpi h fun q => { q with werr := true })

/-- SPI_WRITE (R640, R642). -/
def execSpiWrite (h : Hub) (addr : BitVec 32) (words : List Word) (s : State) : Host.Outcome State Fault Refusal :=
  .next (spiWrite h addr.toNat false words s)

/-- SPI_WRITE_FIXED (R640, R642). -/
def execSpiWriteFixed (h : Hub) (addr : BitVec 32) (words : List Word) (s : State) : Host.Outcome State Fault Refusal :=
  .next (spiWrite h addr.toNat true words s)

/-- SPI_WRITE_DRAIN: the oldest posted write takes effect (R642). -/
def execSpiWriteDrain (h : Hub) (s : State) : Host.Outcome State Fault Refusal := .next (spiDrain h s)

/-- SPI_STATUS: the status byte goes out, WERR and TMO clear (R640, R643). -/
def execSpiStatus (h : Hub) (s : State) : Host.Outcome State Fault Refusal :=
  .next (if spiWorks s h then
    s.modSpi h fun q => { q with out := [BitVec.ofNat 8 (spiStatus s h)], werr := false, tmo := false }
  else s)

/-- SPI_ID: CHIP_PART goes out without a bus access (R640, R643). -/
def execSpiId (h : Hub) (s : State) : Host.Outcome State Fault Refusal :=
  .next (if spiWorks s h then s.modSpi h fun q => { q with out := beBytes 4 (s.reg (chipB h)).toNat } else s)

end Sys2Proof.Machine
end

