-- ==== Sys2Proof/Machine/Dispatch.lean ====
section
/-! DEFINITION. What each command does: one arm for each constructor of `Instr`, each a call of that command's
meaning. -/

namespace Sys2Proof.Machine

/-- The effect of a command on everything but the queue of waiting commands. -/
def exec (i : Instr) (s : State) : Host.Outcome State Fault Refusal :=
  match i with
  | .configWrite p addr v u => Sys2Proof.Machine.execConfigWrite p addr v u s
  | .rcClearingRead p w u => Sys2Proof.Machine.execRcClearingRead p w u s
  | .aliasSetWrite p w m u => Sys2Proof.Machine.execAliasSetWrite p w m u s
  | .aliasClearWrite p w m u => Sys2Proof.Machine.execAliasClearWrite p w m u s
  | .aliasToggleWrite p w m u => Sys2Proof.Machine.execAliasToggleWrite p w m u s
  | .linkTrain trained spareUsed => Sys2Proof.Machine.execLinkTrain trained spareUsed s
  | .linkTrainTimeout l => Sys2Proof.Machine.execLinkTrainTimeout l s
  | .linkFlitSend l back f => Sys2Proof.Machine.execLinkFlitSend l back f s
  | .linkCrcRetry l back first => Sys2Proof.Machine.execLinkCrcRetry l back first s
  | .inputBufferOverflow t first last => Sys2Proof.Machine.execInputBufferOverflow t first last s
  | .streamFrame a f => Sys2Proof.Machine.execStreamFrame a f s
  | .acqEnable a => Sys2Proof.Machine.execAcqEnable a s
  | .acqDisable a => Sys2Proof.Machine.execAcqDisable a s
  | .gainWrite a code => Sys2Proof.Machine.execGainWrite a code s
  | .gainSettleEnd a => Sys2Proof.Machine.execGainSettleEnd a s
  | .subwindowComplete a => Sys2Proof.Machine.execSubwindowComplete a s
  | .calWindowComplete a => Sys2Proof.Machine.execCalWindowComplete a s
  | .failedScReplace a => Sys2Proof.Machine.execFailedScReplace a s
  | .calStepStart a => Sys2Proof.Machine.execCalStepStart a s
  | .verifyWindowComplete a => Sys2Proof.Machine.execVerifyWindowComplete a s
  | .spareSwap a => Sys2Proof.Machine.execSpareSwap a s
  | .trimUpdate a => Sys2Proof.Machine.execTrimUpdate a s
  | .calRunComplete a => Sys2Proof.Machine.execCalRunComplete a s
  | .idleStepStart a => Sys2Proof.Machine.execIdleStepStart a s
  | .liveTrimStep a => Sys2Proof.Machine.execLiveTrimStep a s
  | .calTempRead a temp => Sys2Proof.Machine.execCalTempRead a temp s
  | .calIntervalExpire a => Sys2Proof.Machine.execCalIntervalExpire a s
  | .calStatTimeout a => Sys2Proof.Machine.execCalStatTimeout a s
  | .calCmdRun a => Sys2Proof.Machine.execCalCmdRun a s
  | .calCmdAbort a => Sys2Proof.Machine.execCalCmdAbort a s
  | .calCmdXskew a => Sys2Proof.Machine.execCalCmdXskew a s
  | .xskewComplete => Sys2Proof.Machine.execXskewComplete s
  | .calModeWrite a mode => Sys2Proof.Machine.execCalModeWrite a mode s
  | .estSelWrite a slot => Sys2Proof.Machine.execEstSelWrite a slot s
  | .factoryTrimLoad a temp => Sys2Proof.Machine.execFactoryTrimLoad a temp s
  | .acqDelayMeasure a v => Sys2Proof.Machine.execAcqDelayMeasure a v s
  | .jrxEnable => Sys2Proof.Machine.execJrxEnable s
  | .jrxRelease => Sys2Proof.Machine.execJrxRelease s
  | .jrxCrcError => Sys2Proof.Machine.execJrxCrcError s
  | .jrxLaneLockLoss lane first last => Sys2Proof.Machine.execJrxLaneLockLoss lane first last s
  | .wbCommit t => Sys2Proof.Machine.execWbCommit t s
  | .wbRevert t => Sys2Proof.Machine.execWbRevert t s
  | .wbHeldHandover t => Sys2Proof.Machine.execWbHeldHandover t s
  | .wbSwitch t => Sys2Proof.Machine.execWbSwitch t s
  | .wbPendingClear t => Sys2Proof.Machine.execWbPendingClear t s
  | .wtabDataAccess t write => Sys2Proof.Machine.execWtabDataAccess t write s
  | .spectrumComplete t start replay => Sys2Proof.Machine.execSpectrumComplete t start replay s
  | .detectMerge t => Sys2Proof.Machine.execDetectMerge t s
  | .traceRepairOutput t first => Sys2Proof.Machine.execTraceRepairOutput t first s
  | .levelHit t c => Sys2Proof.Machine.execLevelHit t c s
  | .widthHit t c => Sys2Proof.Machine.execWidthHit t c s
  | .trguForce t u => Sys2Proof.Machine.execTrguForce t u s
  | .timerHit t u j => Sys2Proof.Machine.execTimerHit t u j s
  | .fabricEvaluate t j => Sys2Proof.Machine.execFabricEvaluate t j s
  | .dropoutWindowExpire t u => Sys2Proof.Machine.execDropoutWindowExpire t u s
  | .holdoffEnd t u => Sys2Proof.Machine.execHoldoffEnd t u s
  | .lateHit t => Sys2Proof.Machine.execLateHit t s
  | .triggerMessageSend t => Sys2Proof.Machine.execTriggerMessageSend t s
  | .triggerMessageRepeat t => Sys2Proof.Machine.execTriggerMessageRepeat t s
  | .triggerMessageReceive payload => Sys2Proof.Machine.execTriggerMessageReceive payload s
  | .trgCommit t => Sys2Proof.Machine.execTrgCommit t s
  | .trgRevert t => Sys2Proof.Machine.execTrgRevert t s
  | .trgHeldHandover t => Sys2Proof.Machine.execTrgHeldHandover t s
  | .trgSwitch t => Sys2Proof.Machine.execTrgSwitch t s
  | .trgPendingClear t => Sys2Proof.Machine.execTrgPendingClear t s
  | .trgMaskDataAccess t write => Sys2Proof.Machine.execTrgMaskDataAccess t write s
  | .autoMaskBuild t => Sys2Proof.Machine.execAutoMaskBuild t s
  | .tarnBlockWrite t => Sys2Proof.Machine.execTarnBlockWrite t s
  | .tarnStart t => Sys2Proof.Machine.execTarnStart t s
  | .recArm t => Sys2Proof.Machine.execRecArm t s
  | .recStop t => Sys2Proof.Machine.execRecStop t s
  | .triggerEventDeliver t => Sys2Proof.Machine.execTriggerEventDeliver t s
  | .segmentComplete t => Sys2Proof.Machine.execSegmentComplete t s
  | .recRearm t => Sys2Proof.Machine.execRecRearm t s
  | .coEnable t => Sys2Proof.Machine.execCoEnable t s
  | .coBlockFlush t => Sys2Proof.Machine.execCoBlockFlush t s
  | .densFrameEnd t => Sys2Proof.Machine.execDensFrameEnd t s
  | .densFrameWritten t => Sys2Proof.Machine.execDensFrameWritten t s
  | .sgRowEnd t => Sys2Proof.Machine.execSgRowEnd t s
  | .sgRowWritten t => Sys2Proof.Machine.execSgRowWritten t s
  | .densClear t => Sys2Proof.Machine.execDensClear t s
  | .densCommit t => Sys2Proof.Machine.execDensCommit t s
  | .densRevert t => Sys2Proof.Machine.execDensRevert t s
  | .densHeldHandover t => Sys2Proof.Machine.execDensHeldHandover t s
  | .densTabDataAccess t write => Sys2Proof.Machine.execDensTabDataAccess t write s
  | .densEnable t => Sys2Proof.Machine.execDensEnable t s
  | .densMergeArrive t => Sys2Proof.Machine.execDensMergeArrive t s
  | .densMergeTimeout t => Sys2Proof.Machine.execDensMergeTimeout t s
  | .densRowRepair t first => Sys2Proof.Machine.execDensRowRepair t first s
  | .chzPrimed t => Sys2Proof.Machine.execChzPrimed t s
  | .zoomOutput t n => Sys2Proof.Machine.execZoomOutput t n s
  | .zoomBlockWritten t n => Sys2Proof.Machine.execZoomBlockWritten t n s
  | .chzCommit t k mask => Sys2Proof.Machine.execChzCommit t k mask s
  | .chzRevert t k mask => Sys2Proof.Machine.execChzRevert t k mask s
  | .chzSync t k mask => Sys2Proof.Machine.execChzSync t k mask s
  | .chzHeldHandover t n => Sys2Proof.Machine.execChzHeldHandover t n s
  | .zoomSwitchPoint t => Sys2Proof.Machine.execZoomSwitchPoint t s
  | .zoomChannelFault t n => Sys2Proof.Machine.execZoomChannelFault t n s
  | .replayRebuild t n v last => Sys2Proof.Machine.execReplayRebuild t n v last s
  | .pipelineFault t pipe first => Sys2Proof.Machine.execPipelineFault t pipe first s
  | .repairPlace h => Sys2Proof.Machine.execRepairPlace h s
  | .repairComplete h again => Sys2Proof.Machine.execRepairComplete h again s
  | .coreNop t c e => Sys2Proof.Machine.execCoreNop t c e s
  | .coreHalt t c e => Sys2Proof.Machine.execCoreHalt t c e s
  | .coreAdd t c e => Sys2Proof.Machine.execCoreAdd t c e s
  | .coreAdc t c e => Sys2Proof.Machine.execCoreAdc t c e s
  | .coreSub t c e => Sys2Proof.Machine.execCoreSub t c e s
  | .coreSbc t c e => Sys2Proof.Machine.execCoreSbc t c e s
  | .coreAdds t c e => Sys2Proof.Machine.execCoreAdds t c e s
  | .coreSubs t c e => Sys2Proof.Machine.execCoreSubs t c e s
  | .coreAnd t c e => Sys2Proof.Machine.execCoreAnd t c e s
  | .coreOr t c e => Sys2Proof.Machine.execCoreOr t c e s
  | .coreXor t c e => Sys2Proof.Machine.execCoreXor t c e s
  | .coreAndn t c e => Sys2Proof.Machine.execCoreAndn t c e s
  | .coreAsr t c e => Sys2Proof.Machine.execCoreAsr t c e s
  | .coreLsr t c e => Sys2Proof.Machine.execCoreLsr t c e s
  | .coreLsl t c e => Sys2Proof.Machine.execCoreLsl t c e s
  | .coreMin t c e => Sys2Proof.Machine.execCoreMin t c e s
  | .coreMax t c e => Sys2Proof.Machine.execCoreMax t c e s
  | .coreAbs t c e => Sys2Proof.Machine.execCoreAbs t c e s
  | .coreNeg t c e => Sys2Proof.Machine.execCoreNeg t c e s
  | .coreNot t c e => Sys2Proof.Machine.execCoreNot t c e s
  | .coreCmp t c e => Sys2Proof.Machine.execCoreCmp t c e s
  | .coreTst t c e => Sys2Proof.Machine.execCoreTst t c e s
  | .coreNorm t c e => Sys2Proof.Machine.execCoreNorm t c e s
  | .coreAddi t c e => Sys2Proof.Machine.execCoreAddi t c e s
  | .coreAndi t c e => Sys2Proof.Machine.execCoreAndi t c e s
  | .coreOri t c e => Sys2Proof.Machine.execCoreOri t c e s
  | .coreXori t c e => Sys2Proof.Machine.execCoreXori t c e s
  | .coreCmpi t c e => Sys2Proof.Machine.execCoreCmpi t c e s
  | .coreShi t c e => Sys2Proof.Machine.execCoreShi t c e s
  | .coreMov t c e => Sys2Proof.Machine.execCoreMov t c e s
  | .coreLdi t c e => Sys2Proof.Machine.execCoreLdi t c e s
  | .coreLdih t c e => Sys2Proof.Machine.execCoreLdih t c e s
  | .coreLd t c e => Sys2Proof.Machine.execCoreLd t c e s
  | .coreSt t c e => Sys2Proof.Machine.execCoreSt t c e s
  | .coreClra t c e => Sys2Proof.Machine.execCoreClra t c e s
  | .coreMova t c e => Sys2Proof.Machine.execCoreMova t c e s
  | .coreAdda t c e => Sys2Proof.Machine.execCoreAdda t c e s
  | .coreSuba t c e => Sys2Proof.Machine.execCoreSuba t c e s
  | .coreNega t c e => Sys2Proof.Machine.execCoreNega t c e s
  | .coreAbsa t c e => Sys2Proof.Machine.execCoreAbsa t c e s
  | .coreAsha t c e => Sys2Proof.Machine.execCoreAsha t c e s
  | .coreLdah t c e => Sys2Proof.Machine.execCoreLdah t c e s
  | .coreLdal t c e => Sys2Proof.Machine.execCoreLdal t c e s
  | .coreExt t c e => Sys2Proof.Machine.execCoreExt t c e s
  | .coreCmpa t c e => Sys2Proof.Machine.execCoreCmpa t c e s
  | .coreMpy t c e => Sys2Proof.Machine.execCoreMpy t c e s
  | .coreMac t c e => Sys2Proof.Machine.execCoreMac t c e s
  | .coreMsu t c e => Sys2Proof.Machine.execCoreMsu t c e s
  | .coreLdd t c e => Sys2Proof.Machine.execCoreLdd t c e s
  | .coreMaxi t c e => Sys2Proof.Machine.execCoreMaxi t c e s
  | .coreMini t c e => Sys2Proof.Machine.execCoreMini t c e s
  | .coreJmp t c e => Sys2Proof.Machine.execCoreJmp t c e s
  | .coreCall t c e => Sys2Proof.Machine.execCoreCall t c e s
  | .coreJr t c e => Sys2Proof.Machine.execCoreJr t c e s
  | .coreReti t c e => Sys2Proof.Machine.execCoreReti t c e s
  | .coreRep t c e => Sys2Proof.Machine.execCoreRep t c e s
  | .coreLexit t c e => Sys2Proof.Machine.execCoreLexit t c e s
  | .coreIn t c e => Sys2Proof.Machine.execCoreIn t c e s
  | .coreOut t c e drained => Sys2Proof.Machine.execCoreOut t c e drained s
  | .coreTrig t c e => Sys2Proof.Machine.execCoreTrig t c e s
  | .coreEvt t c e => Sys2Proof.Machine.execCoreEvt t c e s
  | .coreSrset t c e => Sys2Proof.Machine.execCoreSrset t c e s
  | .coreSrclr t c e => Sys2Proof.Machine.execCoreSrclr t c e s
  | .interruptTake t c => Sys2Proof.Machine.execInterruptTake t c s
  | .coreTimerExpire t c => Sys2Proof.Machine.execCoreTimerExpire t c s
  | .coreDoorbell t c v => Sys2Proof.Machine.execCoreDoorbell t c v s
  | .coreRun t c => Sys2Proof.Machine.execCoreRun t c s
  | .coreStop t c => Sys2Proof.Machine.execCoreStop t c s
  | .coreStep t c e => Sys2Proof.Machine.execCoreStep t c e s
  | .coreReset t c => Sys2Proof.Machine.execCoreReset t c s
  | .breakpointHalt t c => Sys2Proof.Machine.execBreakpointHalt t c s
  | .cctlStart t k mask => Sys2Proof.Machine.execCctlStart t k mask s
  | .cctlStop t k mask => Sys2Proof.Machine.execCctlStop t k mask s
  | .coreDbgDataWrite t c v => Sys2Proof.Machine.execCoreDbgDataWrite t c v s
  | .coreEvqPop t c => Sys2Proof.Machine.execCoreEvqPop t c s
  | .coreProgramWrite t c a v => Sys2Proof.Machine.execCoreProgramWrite t c a v s
  | .coreDataWrite t c a v => Sys2Proof.Machine.execCoreDataWrite t c a v s
  | .coreScrub t c e => Sys2Proof.Machine.execCoreScrub t c e s
  | .coreParityError t c => Sys2Proof.Machine.execCoreParityError t c s
  | .coreRepair t c spare prog data => Sys2Proof.Machine.execCoreRepair t c spare prog data s
  | .coreReplayEnd t c => Sys2Proof.Machine.execCoreReplayEnd t c s
  | .catchupEmpty t c => Sys2Proof.Machine.execCatchupEmpty t c s
  | .coreBlockWritten t c p => Sys2Proof.Machine.execCoreBlockWritten t c p s
  | .planLoad n => Sys2Proof.Machine.execPlanLoad n s
  | .planAdmit n p => Sys2Proof.Machine.execPlanAdmit n p s
  | .planStop n e => Sys2Proof.Machine.execPlanStop n e s
  | .planClear n e => Sys2Proof.Machine.execPlanClear n e s
  | .planStart n p => Sys2Proof.Machine.execPlanStart n p s
  | .planEnd n e => Sys2Proof.Machine.execPlanEnd n e s
  | .planWake n dies => Sys2Proof.Machine.execPlanWake n dies s
  | .dieSleep d => Sys2Proof.Machine.execDieSleep d s
  | .pwrCmdSleep => Sys2Proof.Machine.execPwrCmdSleep s
  | .pwrCmdWake => Sys2Proof.Machine.execPwrCmdWake s
  | .aonExit => Sys2Proof.Machine.execAonExit s
  | .holdupRecheck n p => Sys2Proof.Machine.execHoldupRecheck n p s
  | .ledgerStep l => Sys2Proof.Machine.execLedgerStep l s
  | .ledgerCalibrate => Sys2Proof.Machine.execLedgerCalibrate s
  | .capTestStart => Sys2Proof.Machine.execCapTestStart s
  | .capTestEnd => Sys2Proof.Machine.execCapTestEnd s
  | .throttleSuspend e => Sys2Proof.Machine.execThrottleSuspend e s
  | .pwrCapWrite p v => Sys2Proof.Machine.execPwrCapWrite p v s
  | .powerFail => Sys2Proof.Machine.execPowerFail s
  | .resetAssert => Sys2Proof.Machine.execResetAssert s
  | .resetRelease sel => Sys2Proof.Machine.execResetRelease sel s
  | .railSequenceStep ok pmb => Sys2Proof.Machine.execRailSequenceStep ok pmb s
  | .railOutOfTolerance out deep codes => Sys2Proof.Machine.execRailOutOfTolerance out deep codes s
  | .vcoreSetPoint mv => Sys2Proof.Machine.execVcoreSetPoint mv s
  | .memoryTrainingComplete a0 a1 b0 b1 => Sys2Proof.Machine.execMemoryTrainingComplete a0 a1 b0 b1 s
  | .imageReadComplete img valid size => Sys2Proof.Machine.execImageReadComplete img valid size s
  | .bootPlannerStart ms => Sys2Proof.Machine.execBootPlannerStart ms s
  | .svnAdvance => Sys2Proof.Machine.execSvnAdvance s
  | .bootHostgo => Sys2Proof.Machine.execBootHostgo s
  | .bootNorProg => Sys2Proof.Machine.execBootNorProg s
  | .norProgDone mismatch => Sys2Proof.Machine.execNorProgDone mismatch s
  | .bootRestart => Sys2Proof.Machine.execBootRestart s
  | .bootFuseGo => Sys2Proof.Machine.execBootFuseGo s
  | .fuseDone ok => Sys2Proof.Machine.execFuseDone ok s
  | .bootLockWrite p v => Sys2Proof.Machine.execBootLockWrite p v s
  | .powerRestore => Sys2Proof.Machine.execPowerRestore s
  | .rateEffective => Sys2Proof.Machine.execRateEffective s
  | .slewInterval => Sys2Proof.Machine.execSlewInterval s
  | .timeStep => Sys2Proof.Machine.execTimeStep s
  | .timeRemWrite v => Sys2Proof.Machine.execTimeRemWrite v s
  | .timeUnset => Sys2Proof.Machine.execTimeUnset s
  | .timeAdjust => Sys2Proof.Machine.execTimeAdjust s
  | .timeHostset => Sys2Proof.Machine.execTimeHostset s
  | .baseRevert k => Sys2Proof.Machine.execBaseRevert k s
  | .refBaseTick => Sys2Proof.Machine.execRefBaseTick s
  | .ppsLoss k => Sys2Proof.Machine.execPpsLoss k s
  | .ptpSyncReceive p m origin corr r => Sys2Proof.Machine.execPtpSyncReceive p m origin corr r s
  | .ptpAnnounceReceive p m a => Sys2Proof.Machine.execPtpAnnounceReceive p m a s
  | .ptpDelayRespReceive p m remote corr r => Sys2Proof.Machine.execPtpDelayRespReceive p m remote corr r s
  | .ptpSyncTimeout p inst => Sys2Proof.Machine.execPtpSyncTimeout p inst s
  | .ptpAnnounceTimeout p inst => Sys2Proof.Machine.execPtpAnnounceTimeout p inst s
  | .ptpDelayTimeout p inst => Sys2Proof.Machine.execPtpDelayTimeout p inst s
  | .ptpMessageTransmit p inst kind r => Sys2Proof.Machine.execPtpMessageTransmit p inst kind r s
  | .tdcEdge g rising r k => Sys2Proof.Machine.execTdcEdge g rising r k s
  | .tdcArm h mask => Sys2Proof.Machine.execTdcArm h mask s
  | .tdcFlush h mask => Sys2Proof.Machine.execTdcFlush h mask s
  | .tdcCheck h n update => Sys2Proof.Machine.execTdcCheck h n update s
  | .tdcCheckDone h dnl inl minHits => Sys2Proof.Machine.execTdcCheckDone h dnl inl minHits s
  | .tdcFifoPop g => Sys2Proof.Machine.execTdcFifoPop g s
  | .ivFifoPop h m => Sys2Proof.Machine.execIvFifoPop h m s
  | .presenceTimeout g => Sys2Proof.Machine.execPresenceTimeout g s
  | .tdcReady g => Sys2Proof.Machine.execTdcReady g s
  | .tdcSettleEnd g => Sys2Proof.Machine.execTdcSettleEnd g s
  | .sourceOpen h k => Sys2Proof.Machine.execSourceOpen h k s
  | .sourceClose h k => Sys2Proof.Machine.execSourceClose h k s
  | .sourceWaitExpire h k => Sys2Proof.Machine.execSourceWaitExpire h k s
  | .rowSeal h => Sys2Proof.Machine.execRowSeal h s
  | .rowConfirm h seq fail waits => Sys2Proof.Machine.execRowConfirm h seq fail waits s
  | .nandDieFail h d => Sys2Proof.Machine.execNandDieFail h d s
  | .rebuildComplete h g => Sys2Proof.Machine.execRebuildComplete h g s
  | .patrol h g sb x => Sys2Proof.Machine.execPatrol h g sb x s
  | .readDisturbPatrol h g sb x => Sys2Proof.Machine.execReadDisturbPatrol h g sb x s
  | .nfsFormat h => Sys2Proof.Machine.execNfsFormat h s
  | .nfsRead h => Sys2Proof.Machine.execNfsRead h s
  | .nfsReadDone h x => Sys2Proof.Machine.execNfsReadDone h x s
  | .nfsDelete h => Sys2Proof.Machine.execNfsDelete h s
  | .nfsUnlockCmd h => Sys2Proof.Machine.execNfsUnlockCmd h s
  | .nfsErase h => Sys2Proof.Machine.execNfsErase h s
  | .nfsEraseDone h => Sys2Proof.Machine.execNfsEraseDone h s
  | .nfsCatSelWrite h n => Sys2Proof.Machine.execNfsCatSelWrite h n s
  | .nfsMount h luns chans => Sys2Proof.Machine.execNfsMount h luns chans s
  | .nfsMounted h kept again => Sys2Proof.Machine.execNfsMounted h kept again s
  | .nfsClosed h => Sys2Proof.Machine.execNfsClosed h s
  | .ddrReadServe h c arrivals a kept e => Sys2Proof.Machine.execDdrReadServe h c arrivals a kept e s
  | .ddrWriteAccept h l => Sys2Proof.Machine.execDdrWriteAccept h l s
  | .ddrRetrain h c => Sys2Proof.Machine.execDdrRetrain h c s
  | .ddrScrub h c a kept e => Sys2Proof.Machine.execDdrScrub h c a kept e s
  | .ddrSelfRefreshEntry h c early => Sys2Proof.Machine.execDdrSelfRefreshEntry h c early s
  | .ddrSelfRefreshExit h c => Sys2Proof.Machine.execDdrSelfRefreshExit h c s
  | .ddrRelease h c t => Sys2Proof.Machine.execDdrRelease h c t s
  | .ddrReleaseDone h c => Sys2Proof.Machine.execDdrReleaseDone h c s
  | .dmaHalt h k parityBad => Sys2Proof.Machine.execDmaHalt h k parityBad s
  | .dmaMove h k parityBad waits stalls => Sys2Proof.Machine.execDmaMove h k parityBad waits stalls s
  | .dmaGather h k parityBad waits stalls => Sys2Proof.Machine.execDmaGather h k parityBad waits stalls s
  | .dmaLoop h k parityBad => Sys2Proof.Machine.execDmaLoop h k parityBad s
  | .dmaWait h k parityBad => Sys2Proof.Machine.execDmaWait h k parityBad s
  | .dmaWaitTimeout h k => Sys2Proof.Machine.execDmaWaitTimeout h k s
  | .dmaSignalIrq h k parityBad => Sys2Proof.Machine.execDmaSignalIrq h k parityBad s
  | .dmaSignalEvent h k parityBad => Sys2Proof.Machine.execDmaSignalEvent h k parityBad s
  | .dmaSignalRegwrite h k parityBad => Sys2Proof.Machine.execDmaSignalRegwrite h k parityBad s
  | .dmaSeta h k parityBad => Sys2Proof.Machine.execDmaSeta h k parityBad s
  | .dmaNop h k parityBad => Sys2Proof.Machine.execDmaNop h k parityBad s
  | .dmaBurst h k waits stalls => Sys2Proof.Machine.execDmaBurst h k waits stalls s
  | .dmaRun h k => Sys2Proof.Machine.execDmaRun h k s
  | .dmaStop h k => Sys2Proof.Machine.execDmaStop h k s
  | .dmaPause h k => Sys2Proof.Machine.execDmaPause h k s
  | .dmaResume h k => Sys2Proof.Machine.execDmaResume h k s
  | .ethLinkUp h sub => Sys2Proof.Machine.execEthLinkUp h sub s
  | .ethLinkDown h sub => Sys2Proof.Machine.execEthLinkDown h sub s
  | .ethRestart h => Sys2Proof.Machine.execEthRestart h s
  | .streamPacketForm h t => Sys2Proof.Machine.execStreamPacketForm h t s
  | .streamHoldExpire h t => Sys2Proof.Machine.execStreamHoldExpire h t s
  | .frameTransmit h sub => Sys2Proof.Machine.execFrameTransmit h sub s
  | .addressResolve h macs => Sys2Proof.Machine.execAddressResolve h macs s
  | .ethFrameReceive h f => Sys2Proof.Machine.execEthFrameReceive h f s
  | .mgmtRead h => Sys2Proof.Machine.execMgmtRead h s
  | .mgmtWrite h => Sys2Proof.Machine.execMgmtWrite h s
  | .mgmtEcho h => Sys2Proof.Machine.execMgmtEcho h s
  | .mgmtStopPortStreams h => Sys2Proof.Machine.execMgmtStopPortStreams h s
  | .mgmtStopAllStreams h => Sys2Proof.Machine.execMgmtStopAllStreams h s
  | .mgmtStopPlan h e => Sys2Proof.Machine.execMgmtStopPlan h e s
  | .mgmtStopAllPlans h e => Sys2Proof.Machine.execMgmtStopAllPlans h e s
  | .pauseReceive h pfc prios quanta => Sys2Proof.Machine.execPauseReceive h pfc prios quanta s
  | .pauseExpire h prios => Sys2Proof.Machine.execPauseExpire h prios s
  | .dispEnable h => Sys2Proof.Machine.execDispEnable h s
  | .dispDisable h => Sys2Proof.Machine.execDispDisable h s
  | .dispLinkTrain h trains adaptive => Sys2Proof.Machine.execDispLinkTrain h trains adaptive s
  | .dispCommit h mask => Sys2Proof.Machine.execDispCommit h mask s
  | .dispRevert h mask => Sys2Proof.Machine.execDispRevert h mask s
  | .dispHandover h => Sys2Proof.Machine.execDispHandover h s
  | .vrrRelease h => Sys2Proof.Machine.execVrrRelease h s
  | .vrrMaxExpire h => Sys2Proof.Machine.execVrrMaxExpire h s
  | .lineFetch h => Sys2Proof.Machine.execLineFetch h s
  | .dispUnderrun h x => Sys2Proof.Machine.execDispUnderrun h x s
  | .dispPalDataAccess h write => Sys2Proof.Machine.execDispPalDataAccess h write s
  | .hpdChange h high => Sys2Proof.Machine.execHpdChange h high s
  | .refPresenceWindow edges0 edges1 => Sys2Proof.Machine.execRefPresenceWindow edges0 edges1 s
  | .refEdgeTimeout n => Sys2Proof.Machine.execRefEdgeTimeout n s
  | .refRevert => Sys2Proof.Machine.execRefRevert s
  | .relockStart h out => Sys2Proof.Machine.execRelockStart h out s
  | .lockWindow h out count => Sys2Proof.Machine.execLockWindow h out count s
  | .lockaChange on => Sys2Proof.Machine.execLockaChange on s
  | .synthLock h out => Sys2Proof.Machine.execSynthLock h out s
  | .relockTimeout h out => Sys2Proof.Machine.execRelockTimeout h out s
  | .clkCommit h => Sys2Proof.Machine.execClkCommit h s
  | .clkRevert h => Sys2Proof.Machine.execClkRevert h s
  | .clkRelock h => Sys2Proof.Machine.execClkRelock h s
  | .sysrefGo h => Sys2Proof.Machine.execSysrefGo h s
  | .sysrefEdge h => Sys2Proof.Machine.execSysrefEdge h s
  | .sampleClockLock a => Sys2Proof.Machine.execSampleClockLock a s
  | .sampleClockUnlock a => Sys2Proof.Machine.execSampleClockUnlock a s
  | .refStartTimeout => Sys2Proof.Machine.execRefStartTimeout s
  | .hkStart h mask => Sys2Proof.Machine.execHkStart h mask s
  | .hkTimerTrigger h c => Sys2Proof.Machine.execHkTimerTrigger h c s
  | .hkSequenceStart h c => Sys2Proof.Machine.execHkSequenceStart h c s
  | .hkEntryResult h c v => Sys2Proof.Machine.execHkEntryResult h c v s
  | .hkPairTimeout h k => Sys2Proof.Machine.execHkPairTimeout h k s
  | .ledgerConversion v => Sys2Proof.Machine.execLedgerConversion v s
  | .pwmEdge h p zero => Sys2Proof.Machine.execPwmEdge h p zero s
  | .faultEvent n => Sys2Proof.Machine.execFaultEvent n s
  | .fcolWindowClose h n => Sys2Proof.Machine.execFcolWindowClose h n s
  | .fcolQuietExit h n => Sys2Proof.Machine.execFcolQuietExit h n s
  | .plannerHeartbeat => Sys2Proof.Machine.execPlannerHeartbeat s
  | .heartbeatMiss => Sys2Proof.Machine.execHeartbeatMiss s
  | .aliveToggle => Sys2Proof.Machine.execAliveToggle s
  | .fcolClearFirst h => Sys2Proof.Machine.execFcolClearFirst h s
  | .fcolAliveResume h => Sys2Proof.Machine.execFcolAliveResume h s
  | .fcolClearSrc h => Sys2Proof.Machine.execFcolClearSrc h s
  | .spiRead h addr words => Sys2Proof.Machine.execSpiRead h addr words s
  | .spiReadFixed h addr words => Sys2Proof.Machine.execSpiReadFixed h addr words s
  | .spiWrite h addr words => Sys2Proof.Machine.execSpiWrite h addr words s
  | .spiWriteFixed h addr words => Sys2Proof.Machine.execSpiWriteFixed h addr words s
  | .spiStatus h => Sys2Proof.Machine.execSpiStatus h s
  | .spiId h => Sys2Proof.Machine.execSpiId h s
  | .spiReadTimeout h addr => Sys2Proof.Machine.execSpiReadTimeout h addr s
  | .spiWriteDrain h => Sys2Proof.Machine.execSpiWriteDrain h s
  | .mboxRequestComplete h p => Sys2Proof.Machine.execMboxRequestComplete h p s
  | .mboxLastWordRead h p => Sys2Proof.Machine.execMboxLastWordRead h p s
  | .timeNow h p => Sys2Proof.Machine.execTimeNow h p s
  | .timeFrc h p => Sys2Proof.Machine.execTimeFrc h p s
  | .timeRs h p n => Sys2Proof.Machine.execTimeRs h p n s
  | .timeHost h p v => Sys2Proof.Machine.execTimeHost h p v s
  | .timeStepLog h p => Sys2Proof.Machine.execTimeStepLog h p s
  | .timeClockIdWrite h p v => Sys2Proof.Machine.execTimeClockIdWrite h p v s
  | .timeClockIdRead h p => Sys2Proof.Machine.execTimeClockIdRead h p s
  | .timeGmId h p => Sys2Proof.Machine.execTimeGmId h p s
  | .planScheduleRead h p k n => Sys2Proof.Machine.execPlanScheduleRead h p k n s
  | .planScheduleWrite h p k n v => Sys2Proof.Machine.execPlanScheduleWrite h p k n v s
  | .planEnergyWork h p work n => Sys2Proof.Machine.execPlanEnergyWork h p work n s
  | .ledgerEnergy h p d => Sys2Proof.Machine.execLedgerEnergy h p d s
  | .tarnHead h p n => Sys2Proof.Machine.execTarnHead h p n s
  | .tarnOldest h p n => Sys2Proof.Machine.execTarnOldest h p n s
  | .tdcPop h p n => Sys2Proof.Machine.execTdcPop h p n s
  | .tdcIvpop h p m => Sys2Proof.Machine.execTdcIvpop h p m s
  | .tdcGateTimeRead h p close n => Sys2Proof.Machine.execTdcGateTimeRead h p close n s
  | .tdcGateTimeWrite h p close n v => Sys2Proof.Machine.execTdcGateTimeWrite h p close n v s
  | .nfsUnlock h p v => Sys2Proof.Machine.execNfsUnlock h p v s
  | .nfsCatSts h p close => Sys2Proof.Machine.execNfsCatSts h p close s
  | .dmaAr h p k a => Sys2Proof.Machine.execDmaAr h p k a s
  | .ddrFreezeAddr h p c => Sys2Proof.Machine.execDdrFreezeAddr h p c s
  | .ddrFreezeSts h p c => Sys2Proof.Machine.execDdrFreezeSts h p c s
  | .ethAddressRead h p w => Sys2Proof.Machine.execEthAddressRead h p w s
  | .ethAddressWrite h p w v => Sys2Proof.Machine.execEthAddressWrite h p w v s
  | .ethMgmtKey h p v => Sys2Proof.Machine.execEthMgmtKey h p v s
  | .fcolFirstDetail h p => Sys2Proof.Machine.execFcolFirstDetail h p s
  | .fcolLog h p => Sys2Proof.Machine.execFcolLog h p s
  | .fuseKeyHash h p v => Sys2Proof.Machine.execFuseKeyHash h p v s
  | .powerOnReset => Sys2Proof.Machine.execPowerOnReset s
  | .ddrWriteServe h c a kept e => Sys2Proof.Machine.execDdrWriteServe h c a kept e s
  | .nfsFormatComplete h bad => Sys2Proof.Machine.execNfsFormatComplete h bad s
  | .jrxLaneLock lane arrival => Sys2Proof.Machine.execJrxLaneLock lane arrival s
  | .vrtContextPeriodic h t => Sys2Proof.Machine.execVrtContextPeriodic h t s

end Sys2Proof.Machine
end

