-- ==== Sys2Proof/Safety.lean ====
section
/-! DEFINITION. What a safe state and a safe run are, and the limits that the spec sets on the filters whose taps it leaves
open. -/

namespace Sys2Proof

/-- What every step keeps: capture memory has its canonical form, and the hub that leads exists (R5). -/
structure Inv (s : Machine.State) : Prop where
  memory : Machine.Memory.wf s.cap
  lead : s.lead = 0 ∨ (s.lead = 1 ∧ s.part = .s8d)

/-- A step that neither faults nor refuses. -/
def StepSafe (s : Machine.State) : Prop := ∃ t, Machine.step s = .next t

/-- A safe run: `k` steps from `s` all answer a next state. -/
def RunSafe : Nat → Machine.State → Prop
  | 0, _ => True
  | k + 1, s => ∃ t, Machine.step s = .next t ∧ RunSafe k t

/-- A filter, given by its taps with their places, has a gain from `lo` to `hi` dB at `x` turns per place; no `lo` asks
for no least gain. -/
def GainBetween (taps : List (Int × Rat)) (x : ℝ) (lo : Option ℝ) (hi : ℝ) : Prop :=
  let re := (taps.map fun e => (e.2 : ℝ) * Real.cos (2 * Real.pi * x * e.1)).sum
  let im := (taps.map fun e => (e.2 : ℝ) * Real.sin (2 * Real.pi * x * e.1)).sum
  (∀ l ∈ lo, (10 : ℝ) ^ (l / 10) ≤ re ^ 2 + im ^ 2) ∧ re ^ 2 + im ^ 2 ≤ (10 : ℝ) ^ (hi / 10)

/-- The taps of the down-converter as it uses them. -/
def ddcTaps : List (Int × Rat) := (List.range 129).map fun m => ((m : Int) - 64, Machine.ddcTap ((m : Int) - 64).natAbs)

/-- The limits that R85, R122 and R237 set on the taps, which are constants of `Config`: frequencies in turns per
converter sample for the down-converter, per stream sample for the others. -/
structure FilterLimits : Prop where
  ddcPass : ∀ x : ℝ, |x| ≤ 4 / 20.48 → GainBetween ddcTaps x (some (-0.05)) 0.05
  ddcStop : ∀ x : ℝ, 6.24 / 20.48 ≤ |x| → |x| ≤ 1 / 2 → GainBetween ddcTaps x none (-90)
  bankPass : ∀ (u : Nat) (x : ℝ), |x| ≤ 96 / 10240 → GainBetween (Machine.bankTerms u) x (some (-0.02)) 0.02
  bankStop : ∀ (u : Nat) (x : ℝ), 104 / 10240 ≤ |x| → |x| ≤ 1 / 2 → GainBetween (Machine.bankTerms u) x none (-100)
  rsPass : ∀ (p q start j : Nat) (x : ℝ), 0 < p → p < q → q ≤ 64 → |x| ≤ 0.390625 * p / q →
    GainBetween (Machine.rsTerms (p, q) start j) x (some (-0.05)) 0.05
  rsStop : ∀ (p q start j : Nat) (x : ℝ), 0 < p → p < q → q ≤ 64 → 0.609375 * p / q ≤ |x| → |x| ≤ 1 / 2 →
    GainBetween (Machine.rsTerms (p, q) start j) x none (-90)

end Sys2Proof
end

