-- ==== Sys2Proof/Certificates/Slice0/Obligations.lean ====
section
/-! DEFINITION. The statements for the provers, after the words they are written in. -/

namespace Sys2Proof.Machine

/-! Rows of the core instructions by function, and when an instruction of the program issues. -/

/-- The row of an ALU function. -/
def aluRow (f : AluFn) (d : TDie) (c : CoreIx) (e : EccRead) : Instr :=
  match f with
  | .add => .coreAdd d c e | .adc => .coreAdc d c e | .sub => .coreSub d c e | .sbc => .coreSbc d c e
  | .adds => .coreAdds d c e | .subs => .coreSubs d c e | .and => .coreAnd d c e | .or => .coreOr d c e
  | .xor => .coreXor d c e | .andn => .coreAndn d c e | .asr => .coreAsr d c e | .lsr => .coreLsr d c e
  | .lsl => .coreLsl d c e | .min => .coreMin d c e | .max => .coreMax d c e | .abs => .coreAbs d c e
  | .neg => .coreNeg d c e | .not => .coreNot d c e | .cmp => .coreCmp d c e | .tst => .coreTst d c e
  | .norm => .coreNorm d c e

/-- The row of an IMM instruction. -/
def immRow (f : ImmFn) (d : TDie) (c : CoreIx) (e : EccRead) : Instr :=
  match f with
  | .addi => .coreAddi d c e | .andi => .coreAndi d c e | .ori => .coreOri d c e | .xori => .coreXori d c e
  | .cmpi => .coreCmpi d c e | .shi => .coreShi d c e

/-- The row of an accumulator function. -/
def accRow (f : AccFn) (d : TDie) (c : CoreIx) (e : EccRead) : Instr :=
  match f with
  | .clra => .coreClra d c e | .mova => .coreMova d c e | .adda => .coreAdda d c e | .suba => .coreSuba d c e
  | .nega => .coreNega d c e | .absa => .coreAbsa d c e | .asha => .coreAsha d c e | .ldah => .coreLdah d c e
  | .ldal => .coreLdal d c e | .ext => .coreExt d c e | .cmpa => .coreCmpa d c e

/-- The row of a MAC-format function. -/
def macRow (f : MacFn) (d : TDie) (c : CoreIx) (e : EccRead) : Instr :=
  match f with
  | .mpy => .coreMpy d c e | .mac => .coreMac d c e | .msu => .coreMsu d c e | .ldd => .coreLdd d c e

/-- The row of a control transfer. -/
def ctlRow (f : CtlFn) (d : TDie) (c : CoreIx) (e : EccRead) : Instr :=
  match f with
  | .jmp => .coreJmp d c e | .call => .coreCall d c e | .jr => .coreJr d c e | .reti => .coreReti d c e

/-- Core `c` of die `d` issues instruction `i` of its program now: it runs, is neither at its breakpoint nor about to
take an interrupt, its program word is a legal `i` here, and its memories read without a double-bit error. -/
def issues (s : State) (d : TDie) (c : CoreIx) (e : EccRead) (i : CoreInstr) : Bool :=
  coreRunning s d c && !atBreak s d c && (interruptDue (s.core d c)).isNone
    && decide (CoreInstr.decode (s.pm d c (s.core d c).pc) = some i) && legalHere (s.core d c) i && !e.double

/-- What an IMM instruction of R326 gives from `a` and its immediate. -/
def immOut (f : ImmFn) (a : Nat) (i : BitVec 14) : AluOut :=
  match f with
  | .addi => aluDo .add a (enc 24 i.toInt) 0
  | .andi => aluDo .and a (enc 24 i.toInt) 0
  | .ori => aluDo .or a (enc 24 i.toInt) 0
  | .xori => aluDo .xor a (enc 24 i.toInt) 0
  | .cmpi => aluDo .cmp a (enc 24 i.toInt) 0
  | .shi => aluShift (i.extractLsb' 5 2).toNat a (i.extractLsb' 0 5).toNat

/-- The exact result of an accumulator function of R331 that writes accumulator A, from `va` = A, `vb` = B, register
`x` and SH. -/
def accExact (f : AccFn) (va vb x : Int) (sh : BitVec 5) : Int :=
  match f with
  | .clra => 0 | .mova => vb | .adda => va + vb | .suba => va - vb | .nega => -vb | .absa => vb.natAbs
  | .asha => if 0 ≤ sh.toInt then vb * 2 ^ sh.toInt.toNat else vb / 2 ^ (-sh.toInt).toNat
  | .ldah => x * 2 ^ 24 | .ldal => x | .ext | .cmpa => va


/-- DMA channel `k` of hub `h` runs with no instruction in progress, and the one at its PC is `op`. -/
abbrev dmaIssues (s : State) (h : Hub) (k : Fin 16) (op : DmaOp) : Prop :=
  s.hasHub h = true ∧ dmaState s h k = 1 ∧ (s.dmaSt h k).insn = none ∧
    dmaDecode s (dmaInsn s h (s.rd (dmaChB h k) R.DMA_k_PC_PC)) = op

/-- The same, by the four words of the instruction. -/
abbrev dmaAtPc (s : State) (h : Hub) (k : Fin 16) (l : List Nat) : Prop :=
  s.hasHub h = true ∧ dmaState s h k = 1 ∧ (s.dmaSt h k).insn = none ∧ dmaInsn s h (s.rd (dmaChB h k) R.DMA_k_PC_PC) = l

/-- The row does nothing here: the channel does not run, an instruction is in progress, or another is at its PC. -/
abbrev dmaOther (s : State) (h : Hub) (k : Fin 16) (is : DmaOp → Bool) : Prop :=
  s.hasHub h = false ∨ dmaState s h k ≠ 1 ∨ (s.dmaSt h k).insn ≠ none ∨
    (dmaDecode s (dmaInsn s h (s.rd (dmaChB h k) R.DMA_k_PC_PC)) ≠ .illegal ∧
      is (dmaDecode s (dmaInsn s h (s.rd (dmaChB h k) R.DMA_k_PC_PC))) = false)

/-- A DMA instruction by its name. -/
inductive DmaFn where
  | halt | nop | seta | loop | wait | irq | event | regwrite | move (w z : BitVec 32) | gather (w z : BitVec 32)
  deriving DecidableEq, Repr

/-- The instruction, channel and parity of a DMA instruction's row. -/
def dmaRow (i : Instr) : Option (DmaFn × Hub × Fin 16 × Bool) :=
  match i with
  | .dmaHalt h k b => some (.halt, h, k, b) | .dmaNop h k b => some (.nop, h, k, b) | .dmaSeta h k b => some (.seta, h, k, b)
  | .dmaLoop h k b => some (.loop, h, k, b) | .dmaWait h k b => some (.wait, h, k, b)
  | .dmaSignalIrq h k b => some (.irq, h, k, b) | .dmaSignalEvent h k b => some (.event, h, k, b)
  | .dmaSignalRegwrite h k b => some (.regwrite, h, k, b) | .dmaMove h k b w z => some (.move w z, h, k, b)
  | .dmaGather h k b w z => some (.gather w z, h, k, b)
  | _ => none

/-- Whether the instruction is the one that the row names. -/
def dmaIs (f : DmaFn) (op : DmaOp) : Bool :=
  match f, op with
  | .halt, .halt | .nop, .nop | .seta, .seta _ _ _ | .loop, .loop _ _ | .wait, .wait _ _ _ | .irq, .irq | .event, .event _
  | .regwrite, .regwrite _ _ | .move _ _, .move _ | .gather _ _, .gather _ => true
  | _, _ => false

/-- Whether the instruction moves data. -/
def dmaMoves (f : DmaFn) : Bool := match f with | .move _ _ | .gather _ _ => true | _ => false

/-- Whether the instruction in progress is a WAIT with a timeout. -/
def dmaHasTimeout (s : State) (h : Hub) (k : Fin 16) : Bool :=
  match dmaDecode s ((s.dmaSt h k).insn.getD []) with
  | .wait _ v _ => v != 0
  | _ => false

/-- The state in which the row's own instruction issues: the waits for tags are counted, and every waiting channel whose line
is asserted has gone on (R525, R528). -/
def dmaTurn (f : DmaFn) (h : Hub) (s : State) : State :=
  match f with
  | .move w _ | .gather w _ => dmaWake (tagWaits h w s)
  | _ => dmaWake s

/-- The channel goes on: at the next instruction, or at the start of a loop that ends here (R521). -/
abbrev dmaGoesOn (s t : State) (h : Hub) (k : Fin 16) : Prop :=
  let e := loopEnds (s.rd (dmaChB h k) R.DMA_k_PC_PC) (s.dmaSt h k).loops
  t.rd (dmaChB h k) R.DMA_k_PC_PC = (e.1.getD (s.rd (dmaChB h k) R.DMA_k_PC_PC + 1)) % 2048 ∧ (t.dmaSt h k).loops = e.2 ∧
    dmaState t h k = 1 ∧ (t.dmaSt h k).insn = none

/-- The channel has halted with a cause, without a loop level (R530, R531). -/
abbrev dmaHaltedBy (t : State) (h : Hub) (k : Fin 16) (cause : Nat) : Prop :=
  dmaState t h k = 5 ∧ t.rd (dmaChB h k) R.DMA_k_STATUS_CAUSE = cause ∧ t.rd (dmaChB h k) R.DMA_k_LEFT_LEFT = 0 ∧
    (t.dmaSt h k).loops = [] ∧ (t.dmaSt h k).insn = none

/-- The hub whose capture memory a space code of 0 or 1 names (R516). -/
abbrev spaceHub (h : Hub) (code : Nat) : Nat := if code = 0 then h.val else 1 - h.val

/-- The code names capture memory that is there. -/
abbrev memSpace (s : State) (code : Nat) : Prop := code = 0 ∨ (code = 1 ∧ s.hasHub 1 = true)

/-- Byte `i` of a MOVE lies at `moveSrc1` and goes to `moveDst1` (R515, R518). -/
abbrev moveSrc1 (s : State) (h : Hub) (k : Fin 16) (x : DmaXfer) (i : Nat) : Nat :=
  (dmaAr s h k x.sar).at_ (if x.sfix then i % 4 else i)
abbrev moveDst1 (s : State) (h : Hub) (k : Fin 16) (x : DmaXfer) (i : Nat) : Nat := (dmaAr s h k x.dar).at_ i

/-- Neither hub's memory has a frozen channel, the boot region is not sealed, and the channel is not to pause or stop. -/
abbrev dmaFreely (s : State) (h : Hub) (k : Fin 16) : Prop :=
  s.anyFrozen 0 = false ∧ s.anyFrozen 1 = false ∧ bootSealed s = false ∧ pauseAsked s h k = false ∧
    (s.dmaSt h k).stopping = false

/-- A MOVE `x` copies `n` bytes between places of capture memory that are there, to `n` different places, none of which is read
again after it is written. -/
abbrev mayCopy (s : State) (h : Hub) (k : Fin 16) (x : DmaXfer) (n : Nat) : Prop :=
  memSpace s x.ssp ∧ memSpace s x.dsp ∧ x.dfix = false ∧ dmaFreely s h k ∧
    (∀ i < n, moveSrc1 s h k x i < s.hubLimit (spaceHub h x.ssp) ∧ moveDst1 s h k x i < s.hubLimit (spaceHub h x.dsp)) ∧
    ((dmaAr s h k x.dar).size = 0 ∨ n ≤ (dmaAr s h k x.dar).size) ∧
    (n ≤ 4096 ∨ spaceHub h x.ssp ≠ spaceHub h x.dsp ∨ ∀ i < n, ∀ j < n, moveSrc1 s h k x i ≠ moveDst1 s h k x j)

/-- Its bytes have been copied, no other byte has changed, and they are counted. -/
abbrev hasCopied (s t : State) (h : Hub) (k : Fin 16) (x : DmaXfer) (n : Nat) : Prop :=
  (∀ i < n, t.rawByte (spaceHub h x.dsp) (moveDst1 s h k x i) = s.rawByte (spaceHub h x.ssp) (moveSrc1 s h k x i)) ∧
    (∀ (g : Hub) (p : Nat), p < 2 ^ 40 → (g.val = spaceHub h x.dsp → ∀ i < n, moveDst1 s h k x i ≠ p) →
      t.rawByte g p = s.rawByte g p) ∧
    t.rd (dmaChB h k) R.DMA_k_BYTES_BYTES = (s.rd (dmaChB h k) R.DMA_k_BYTES_BYTES + n) % 2 ^ 32

/-- Address register `a` after a transfer that advances the source register by `n` and the destination register by `m`. -/
abbrev arAfter (s : State) (h : Hub) (k : Fin 16) (x : DmaXfer) (n m : Int) (a : Nat) : DmaAr :=
  let q := if a = x.sar then (dmaAr s h k a).advance n else dmaAr s h k a
  if a = x.dar ∧ x.dsp ≠ 3 then q.advance m else q

/-- The index of entry `i` of a GATHER (R519). -/
abbrev gatherAt (s : State) (h : Hub) (k : Fin 16) (x : DmaXfer) (i : Nat) : Nat × Bool := gatherIndex s h k x i

/-- What byte `b` of entry `i` of a GATHER is: a byte of the source, or zero where the index is all ones. -/
abbrev gatherByte (s : State) (h : Hub) (k : Fin 16) (x : DmaXfer) (i b : Nat) : Byte :=
  if (gatherAt s h k x i).2 then 0
  else s.rawByte (spaceHub h x.ssp) ((dmaAr s h k x.sar).at_ ((gatherAt s h k x i).1 * x.esize + b))

/-- Byte `j` of the index table lies here. -/
abbrev gatherTab (s : State) (h : Hub) (k : Fin 16) (x : DmaXfer) (j : Nat) : Nat := (dmaAr s h k x.iar).at_ j

/-- A GATHER `x` copies its entries between places of capture memory that are there, to different places, none of which holds
what it reads. -/
abbrev mayGather (s : State) (h : Hub) (k : Fin 16) (x : DmaXfer) : Prop :=
  memSpace s x.ssp ∧ memSpace s x.dsp ∧ dmaFreely s h k ∧
    (∀ i < x.len, ∀ b < x.esize, (gatherAt s h k x i).2 = true ∨
      (dmaAr s h k x.sar).at_ ((gatherAt s h k x i).1 * x.esize + b) < s.hubLimit (spaceHub h x.ssp)) ∧
    (∀ i < x.len * x.esize, moveDst1 s h k x i < s.hubLimit (spaceHub h x.dsp)) ∧
    (∀ j < x.len * (if x.wide then 4 else 2), gatherTab s h k x j < s.hubLimit h) ∧
    ((dmaAr s h k x.dar).size = 0 ∨ x.len * x.esize ≤ (dmaAr s h k x.dar).size) ∧
    (∀ i < x.len * x.esize, (∀ j < x.len * (if x.wide then 4 else 2), spaceHub h x.dsp ≠ h.val ∨
        moveDst1 s h k x i ≠ gatherTab s h k x j) ∧
      (∀ j < x.len, ∀ b < x.esize, spaceHub h x.dsp ≠ spaceHub h x.ssp ∨ (gatherAt s h k x j).2 = true ∨
        moveDst1 s h k x i ≠ (dmaAr s h k x.sar).at_ ((gatherAt s h k x j).1 * x.esize + b)))

/-- Its entries have been copied, no other byte has changed, and they are counted. -/
abbrev hasGathered (s t : State) (h : Hub) (k : Fin 16) (x : DmaXfer) : Prop :=
  (∀ i < x.len, ∀ b < x.esize, t.rawByte (spaceHub h x.dsp) (moveDst1 s h k x (i * x.esize + b)) = gatherByte s h k x i b) ∧
    (∀ (g : Hub) (p : Nat), p < 2 ^ 40 → (g.val = spaceHub h x.dsp → ∀ i < x.len * x.esize, moveDst1 s h k x i ≠ p) →
      t.rawByte g p = s.rawByte g p) ∧
    t.rd (dmaChB h k) R.DMA_k_BYTES_BYTES = (s.rd (dmaChB h k) R.DMA_k_BYTES_BYTES + x.len * x.esize) % 2 ^ 32

/-- The channel waits on `line` with its instruction in progress. -/
abbrev dmaWaits (s t : State) (h : Hub) (k : Fin 16) (line : Nat) : Prop :=
  dmaState t h k = 2 ∧ t.rd (dmaChB h k) R.DMA_k_WAITLINE_LINE = line ∧ (t.dmaSt h k).waiting = true ∧
    (t.dmaSt h k).insn = some (dmaInsn s h (s.rd (dmaChB h k) R.DMA_k_PC_PC)) ∧
    t.rd (dmaChB h k) R.DMA_k_PC_PC = s.rd (dmaChB h k) R.DMA_k_PC_PC

/-- A pulse line gives one credit to the channel that goes on; a level line gives none away (R525). -/
abbrev creditTaken (s t : State) (h : Hub) (line : Nat) : Prop :=
  tget noNat t.credits (lineKey h line) = tget noNat s.credits (lineKey h line) - (if line / 4096 < 3 then 0 else 1)

/-- Of a port's receive counters those in `l` have counted one more, holding at the end, and the others have not (R549). -/
abbrev rxCounted (s t : State) (h : Hub) (l : List Fld) : Prop :=
  ∀ f ∈ [R.ETH_RX_FRAMES_COUNT, R.ETH_RX_DROP_COUNT, R.ETH_MGMT_RX_COUNT, R.ETH_MGMT_DROP_COUNT, R.ETH_MGMT_REJECT_COUNT],
    t.rd (ethB h) f = if f ∈ l then min (2 ^ 32 - 1) (s.rd (ethB h) f + 1) else s.rd (ethB h) f

/-- Frames `l` have joined the MGMT class of a port, whose queue of 64 loses what finds it full (R545). -/
abbrev mgmtQueued (s t : State) (h : Hub) (l : List EthTx) : Prop :=
  (t.ethSt h).mgmtTx = (s.ethSt h).mgmtTx ++ l.take (64 - (s.ethSt h).mgmtTx.length)

/-- The packet with UDP payload `body` that a stream sends to MAC address `m` under its present settings (R537, R540). -/
abbrev pktTo (s : State) (h : Hub) (k : Fin 64) (native : Bool) (m : Nat) (body : List Byte) : EthPkt :=
  { body := body, native := native, v6 := (strDst s h k).1, dst := (strDst s h k).2, mac := m
    sport := s.rd (strB h k) R.ETH_STR_t_UDP_SRC, dport := s.rd (strB h k) R.ETH_STR_t_UDP_DST
    pcp := s.rd (strB h k) R.ETH_STR_t_CFG_PCP, sub := if breakout s h then s.rd (strB h k) R.ETH_STR_t_CFG_SUBPORT else 0 }

/-- The header of a native packet of `n` payload bytes from stream byte `off`, whose first item header begins at `at_` (R546);
TX_STS is still zero. -/
abbrev nativeHead (s : State) (h : Hub) (k : Fin 64) (resync dropped : Bool) (off : Nat) (at_ : Option Nat) (n : Nat) : List Byte :=
  [0x53, 0x54, 1, BitVec.ofNat 8 k] ++ beBytes 2 (engineOf s h + 4096 * h) ++
    [0, BitVec.ofNat 8 (b2n at_.isSome + 2 * b2n resync + 4 * b2n dropped)] ++ beBytes 4 (s.strSt h k).seq ++ beBytes 8 off ++
    beBytes 2 (at_.getD 65535) ++ beBytes 2 n ++ List.replicate 16 0

/-- FILL shows what the stream's queue holds, in KiB. -/
abbrev fillShown (t : State) (h : Hub) (k : Fin 64) : Prop :=
  t.rd (strB h k) R.ETH_STR_t_QUEUE_FILL = min 8191 (ceilTo 1024 (t.strSt h k).fill / 1024)

/-- A stream is disabled: nothing is queued, and if it was enabled its queue is lost (R547, R558). -/
abbrev streamOff (s t : State) (h : Hub) (k : Fin 64) : Prop :=
  strOn t h k = false ∧ (strOn s h k = true → (t.strSt h k).items = [] ∧ (t.strSt h k).pkts = [] ∧ (t.strSt h k).vrt = none) ∧
    (strOn s h k = false → t.strSt h k = s.strSt h k)

/-- The offsets of the registers in layer `k`'s shadow set (R568, R577). -/
abbrev layerRegs (k : Fin 4) : List Nat :=
  ([0, 4, 8, 12, 16, 20, 32].map fun o => 0x100 + 0x40 * k.val + o) ++ if k = 0 then [0x30] else []

/-- Layer `k`'s shadow set is now its live set; its old buffer has retired where BASE, RING_LINES or EN says so (R569, R572). -/
abbrev layerTaken (s t : State) (h : Hub) (k : Fin 4) : Prop :=
  (∀ o ∈ layerRegs k, t.liveReg (dispB h + o) = s.reg (dispB h + o)) ∧
    (∀ i : Fin 256, tget tabReset t.tabL (palKey h k i) = tget tabReset s.tabS (palKey h k i)) ∧
    bit (t.rd (dispB h) R.DISP_SHADOW_PENDING) k = false ∧ bit (t.rd (dispB h) R.DISP_SHADOW_DIRTY) k = false ∧
    if s.rdL (layerB h k) R.DISP_LAYER_k_BASE_BASE ≠ s.rd (layerB h k) R.DISP_LAYER_k_BASE_BASE ∨
        s.rdL (layerB h k) R.DISP_LAYER_k_RING_LINES ≠ s.rd (layerB h k) R.DISP_LAYER_k_RING_LINES ∨
        (s.onL (layerB h k) R.DISP_LAYER_k_CTRL_EN = true ∧ s.on (layerB h k) R.DISP_LAYER_k_CTRL_EN = false) then
      t.rd (layerB h k) R.DISP_LAYER_k_RETIRED_BASE = s.rdL (layerB h k) R.DISP_LAYER_k_BASE_BASE ∧
        t.rd (layerB h k) R.DISP_LAYER_k_FENCE_RETIRES = (s.rd (layerB h k) R.DISP_LAYER_k_FENCE_RETIRES + 1) % 2 ^ 32
    else t.rd (layerB h k) R.DISP_LAYER_k_RETIRED_BASE = s.rd (layerB h k) R.DISP_LAYER_k_RETIRED_BASE ∧
      t.rd (layerB h k) R.DISP_LAYER_k_FENCE_RETIRES = s.rd (layerB h k) R.DISP_LAYER_k_FENCE_RETIRES

/-- Layer `k` keeps its live set and its marks. -/
abbrev layerKept (s t : State) (h : Hub) (k : Fin 4) : Prop :=
  (∀ o ∈ layerRegs k, t.liveReg (dispB h + o) = s.liveReg (dispB h + o)) ∧
    (∀ i : Fin 256, tget tabReset t.tabL (palKey h k i) = tget tabReset s.tabL (palKey h k i)) ∧
    bit (t.rd (dispB h) R.DISP_SHADOW_PENDING) k = bit (s.rd (dispB h) R.DISP_SHADOW_PENDING) k ∧
    bit (t.rd (dispB h) R.DISP_SHADOW_DIRTY) k = bit (s.rd (dispB h) R.DISP_SHADOW_DIRTY) k ∧
    t.rd (layerB h k) R.DISP_LAYER_k_RETIRED_BASE = s.rd (layerB h k) R.DISP_LAYER_k_RETIRED_BASE ∧
    t.rd (layerB h k) R.DISP_LAYER_k_FENCE_RETIRES = s.rd (layerB h k) R.DISP_LAYER_k_FENCE_RETIRES

/-- A hand-over takes every pending layer but those of mask `late` (R569, R570). -/
abbrev layersTaken (s t : State) (h : Hub) (late : Nat) : Prop :=
  ∀ k : Fin 4, if bit (s.rd (dispB h) R.DISP_SHADOW_PENDING) k = true ∧ bit late k = false then layerTaken s t h k
    else layerKept s t h k

/-- A trigger of a converter: ignored and counted while its sequence runs or waits, otherwise its delay begins (R603, R604). -/
abbrev hkTriggered (s t : State) (h : Hub) (c : Fin 2) : Prop :=
  if s.on (hkB h c) R.HK_c_CTRL_EN = true ∧ ((s.hkSt h c).runs || (s.hkSt h c).waits) = true then
    t.rd (hkB h c) R.HK_c_MISS_COUNT_MISSED = min (2 ^ 32 - 1) (s.rd (hkB h c) R.HK_c_MISS_COUNT_MISSED + 1) ∧
      t.on (hkB h c) R.HK_c_STATUS_MISS = true ∧ t.hkSt h c = s.hkSt h c
  else t.rd (hkB h c) R.HK_c_MISS_COUNT_MISSED = s.rd (hkB h c) R.HK_c_MISS_COUNT_MISSED ∧
    if s.on (hkB h c) R.HK_c_CTRL_EN = true then
      t.on (hkB h c) R.HK_c_STATUS_BUSY = true ∧ t.hkSt h c = { s.hkSt h c with waits := true }
    else t.hkSt h c = s.hkSt h c

/-- Nothing of a converter's sequence has changed. -/
abbrev hkSame (s t : State) (h : Hub) (c : Fin 2) : Prop :=
  t.rd (hkB h c) R.HK_c_MISS_COUNT_MISSED = s.rd (hkB h c) R.HK_c_MISS_COUNT_MISSED ∧ t.hkSt h c = s.hkSt h c ∧
    t.reg (hkB h c + R.HK_c_STATUS) = s.reg (hkB h c + R.HK_c_STATUS)

/-- A PWM output has level `v`; an edge that it made has triggered the converters that wait for it (R603). -/
abbrev pwmNow (s t : State) (h : Hub) (p : Fin 4) (v : Bool) : Prop :=
  t.on (pwmB h p) R.HK_PWM_p_STATUS_LEVEL = v ∧ ∀ c : Fin 2,
    if s.on (pwmB h p) R.HK_PWM_p_STATUS_LEVEL ≠ v ∧ s.rd (hkB h c) R.HK_c_CTRL_TRIG = 2 ∧
        s.rd (hkB h c) R.HK_c_CTRL_PWM_SEL = p.val ∧ s.on (hkB h c) R.HK_c_CTRL_PWM_EDGE = !v then hkTriggered s t h c
    else hkSame s t h c

/-- Entry `e` of a converter samples next, with its settings as they stand (R605). -/
abbrev hkSamples (s t : State) (h : Hub) (c : Fin 2) (e : Nat) : Prop :=
  t.hkSt h c = { waits := false, runs := true, entry := e, chan := s.rd (hkEntryB h c e) R.HK_c_SEQ_e_CHAN
                 gain := s.rd (hkEntryB h c e) R.HK_c_SEQ_e_GAIN } ∧
    t.on (hkB h c) R.HK_c_STATUS_BUSY = true ∧ t.rd (hkB h c) R.HK_c_STATUS_ENTRY = e

/-- A check has failed with a cause; FAILS in a row set FAILED, with event 11 (R608, R609). -/
abbrev pairFailed (s t : State) (h : Hub) (k : Fin 8) (cause : Nat) : Prop :=
  t.pairSt h k = { waiting := none, fails := (s.pairSt h k).fails + 1, passes := 0 } ∧
    t.rd (pairB h k) R.HK_PL_k_FAIL_FAILURES = min (2 ^ 32 - 1) (s.rd (pairB h k) R.HK_PL_k_FAIL_FAILURES + 1) ∧
    t.rd (pairB h k) R.HK_PL_k_STATUS_CAUSE = cause ∧
    t.on (pairB h k) R.HK_PL_k_STATUS_FAILED = (s.on (pairB h k) R.HK_PL_k_STATUS_FAILED ||
      decide (max 1 (s.rd (pairB h k) R.HK_PL_k_CFG_FAILS) ≤ (s.pairSt h k).fails + 1))

/-- A valid result with code `code` of entry `e` of converter `c` has reached check `k` (R608, R609). -/
abbrev pairTook (s t : State) (h : Hub) (k : Fin 8) (c : Fin 2) (e code : Nat) : Prop :=
  let b := pairB h k
  let b0 := hkEntryB h 0 (s.rd b R.HK_PL_k_CFG_ENT0)
  let b1 := hkEntryB h 1 (s.rd b R.HK_PL_k_CFG_ENT1)
  let chan := s.rd b0 R.HK_c_SEQ_e_CHAN
  if s.on b R.HK_PL_k_CFG_EN = false ∨ (if c = 0 then s.rd b R.HK_PL_k_CFG_ENT0 else s.rd b R.HK_PL_k_CFG_ENT1) ≠ e then
    t.pairSt h k = s.pairSt h k ∧ t.reg (b + R.HK_PL_k_STATUS) = s.reg (b + R.HK_PL_k_STATUS)
  else if chan ≠ s.rd b1 R.HK_c_SEQ_e_CHAN ∨ s.rd b0 R.HK_c_SEQ_e_GAIN ≠ s.rd b1 R.HK_c_SEQ_e_GAIN then
    t.pairSt h k = { s.pairSt h k with waiting := none } ∧ t.on b R.HK_PL_k_STATUS_MISMATCH = true
  else t.on b R.HK_PL_k_STATUS_MISMATCH = false ∧
    if ((s.pairSt h k).waiting.map (·.1)) = none ∨ ((s.pairSt h k).waiting.map (·.1)) = some c.val then
      t.pairSt h k = { s.pairSt h k with waiting := some (c.val, code) }
    else
      let d := (hkValue chan code - hkValue chan (((s.pairSt h k).waiting.map (·.2)).getD 0)).natAbs
      t.rd b R.HK_PL_k_STATUS_DIFF = d % 2 ^ R.HK_PL_k_STATUS_DIFF.w ∧
        if d ≤ s.rd b R.HK_PL_k_CFG_TOL then
          t.pairSt h k = { waiting := none, fails := 0, passes := (s.pairSt h k).passes + 1 } ∧
            t.rd b R.HK_PL_k_PASS_PASSES = (s.rd b R.HK_PL_k_PASS_PASSES + 1) % 2 ^ 32 ∧
            t.on b R.HK_PL_k_STATUS_FAILED = (s.on b R.HK_PL_k_STATUS_FAILED && decide ((s.pairSt h k).passes + 1 < 16))
        else pairFailed s t h k 0

/-- A source after an event of this cycle, and whether that event promoted it (R617, R618). -/
abbrev srcAfter (s : State) (g : Hub) (n : Nat) : FaultSrc × Bool :=
  let q := s.srcSt g n
  let cls := if q.state = 0 then q.cfgClass else q.cls
  let lim := s.rd (profB g q.profile) R.FCOL_PROF_p_PROMOTE_N
  let up := decide (lim ≠ 0) && decide (q.window.getD 0 + 1 = lim) && decide (cls < 2)
  ({ q with state := max 1 q.state, cls := if up then cls + 1 else cls, events := min (2 ^ 32 - 1) (q.events + 1)
            window := if up then none else some (q.window.getD 0 + 1), eventAt := some s.time.frc }, up)

/-- The counter of events of a class. -/
abbrev clsCount (cls : Nat) : Fld :=
  if cls = 0 then R.FCOL_NOTICE_COUNT_COUNT else if cls = 1 then R.FCOL_FAULT_COUNT_COUNT else R.FCOL_SEVERE_COUNT_COUNT

/-- ANY_FAULT and ANY_SEVERE of a collector show its sources that are not CLEAR. -/
abbrev anyShown (t : State) (g : Hub) : Prop :=
  t.on (fcolB g) R.FCOL_STATUS_ANY_FAULT = ((t.fcolSt g).srcs.any fun x => decide (x.2.state ≠ 0) && decide (x.2.cls = 1)) ∧
    t.on (fcolB g) R.FCOL_STATUS_ANY_SEVERE = ((t.fcolSt g).srcs.any fun x => decide (x.2.state ≠ 0) && decide (x.2.cls = 2))

/-- An entry of a collector's log (R624); `fl` are its FLAGS. -/
abbrev logLine (e : Event) (cls fl : Nat) : List Byte :=
  leBytes 12 e.sts ++ leBytes 1 e.source ++ leBytes 1 cls ++ leBytes 1 fl ++ [0] ++ leBytes 8 e.detail

/-- The entry has joined a log that had room, or has been lost and counted (R624). -/
abbrev logged (s t : State) (g : Hub) (l : List Byte) : Prop :=
  if (s.fcolSt g).log.length < 256 then (t.fcolSt g).log = (s.fcolSt g).log ++ [l] ∧
      t.rd (fcolB g) R.FCOL_LOG_LOST_COUNT = s.rd (fcolB g) R.FCOL_LOG_LOST_COUNT
  else (t.fcolSt g).log = (s.fcolSt g).log ∧ t.on (fcolB g) R.FCOL_STATUS_LOG_OVF = true ∧
    t.rd (fcolB g) R.FCOL_LOG_LOST_COUNT = min (2 ^ R.FCOL_LOG_LOST_COUNT.w - 1) (s.rd (fcolB g) R.FCOL_LOG_LOST_COUNT + 1)

/-- The block in which window address `a` lies is one of `l` (R633). -/
abbrev inBlocks (l : List Block) (a : Nat) : Prop := ∃ b ∈ l, (place a).map (·.1) = some b

/-- Path `p` reaches the MBOX block of hub `h` (R631, R632). -/
abbrev mboxUp (s : State) (h : Hub) (p : Path) : Prop :=
  s.resetLow = false ∧ s.hasHub h = true ∧ pathReaches s p (mboxB h) = true

/-- The bank `q` when a request to read instance `i` of value `code` has landed: in progress with the words `l` it took, none
from an empty queue, none yet for a value at a die; ignored with OVERRUN while BUSY is set (R646, R648). -/
def mboxAsked (q : MboxSt) (code i : Nat) (l : List Nat) (empty : Bool := false) (atDie : Bool := false) : MboxSt :=
  if q.busyBit then { q with req := code + 2 ^ 16 * i, overrun := true }
  else { q with req := code + 2 ^ 16 * i, valid := false, empty := false, done := false, words := 0, busyBit := true
                busy := some ⟨code, i, false, l, empty, atDie⟩ }

/-- The bank `q` when a request to write `v`, of `k` words, to instance `i` of value `code` has landed (R647, R648). -/
def mboxTold (q : MboxSt) (code i k v : Nat) : MboxSt :=
  if q.busyBit then { q with req := code + 2 ^ 16 * i + 2 ^ 24, overrun := true }
  else { q with req := code + 2 ^ 16 * i + 2 ^ 24, valid := false, empty := false, done := false, words := 0, busyBit := true
                busy := some ⟨code, i, true, wordsOf k v, false, false⟩ }

/-- The hub and the path of a row that requests to read a value, or to write one. -/
def mboxRow (write : Bool) (i : Instr) : Option (Hub × Path) :=
  match write, i with
  | false, .timeNow h p | false, .timeFrc h p | false, .timeRs h p _ | false, .timeStepLog h p | false, .timeClockIdRead h p
  | false, .timeGmId h p | false, .planScheduleRead h p _ _ | false, .planEnergyWork h p _ _ | false, .ledgerEnergy h p _
  | false, .tarnHead h p _ | false, .tarnOldest h p _ | false, .tdcPop h p _ | false, .tdcIvpop h p _
  | false, .tdcGateTimeRead h p _ _ | false, .nfsCatSts h p _ | false, .dmaAr h p _ _ | false, .ddrFreezeAddr h p _
  | false, .ddrFreezeSts h p _ | false, .ethAddressRead h p _ | false, .fcolFirstDetail h p | false, .fcolLog h p => some (h, p)
  | true, .timeHost h p _ | true, .timeClockIdWrite h p _ | true, .planScheduleWrite h p _ _ _
  | true, .tdcGateTimeWrite h p _ _ _ | true, .nfsUnlock h p _ | true, .ethAddressWrite h p _ _ | true, .ethMgmtKey h p _
  | true, .fuseKeyHash h p _ => some (h, p)
  | _, _ => none

/-- Bit `k` of a register described by `r` that held `v`, of whose write-once bits `lock` have been written, after a write of `m`
through alias window `al`: software's bits take the written value, the others stay (R7, R637). -/
def writtenBit (al : Nat) (r : RegDesc) (lock v m k : Nat) : Bool :=
  if bit (accMask (some r) fun x => x == .rw || x == .hs || x == .ct) k || (bit (accMask (some r) (· == .wl)) k && !bit lock k) then
    (match al with | 0 => bit m k | 1 => bit v k || bit m k | 2 => bit v k && !bit m k | _ => bit v k ^^ bit m k)
  else bit v k

/-- The rows that write a register: through the normal, the set, the clear and the toggle window (R637). -/
def regWriteRow (n : Fin 4) (p : Path) (a : BitVec 32) (m : Word) (w : HwUpdate) : Instr :=
  match n with
  | 0 => .configWrite p a m w
  | 1 => .aliasSetWrite p (a.setWidth 28) m w
  | 2 => .aliasClearWrite p (a.setWidth 28) m w
  | 3 => .aliasToggleWrite p (a.setWidth 28) m w

/-- The host address that the row writes. -/
abbrev regAddr (n : Fin 4) (a : BitVec 32) : Nat := if n = 0 then a.toNat else n.val * 2 ^ 28 + a.toNat % 2 ^ 28

/-- Path `p` finds at host address `a` the register at offset `o` of block `b` of die `i`, which is described by `r`. -/
abbrev regFound (s : State) (p : Path) (a : Nat) (b : Block) (i o : Nat) (r : RegDesc) : Prop :=
  pathReaches s p a = true ∧ reach s a = .at_ b i o ∧ regAt b o = some r ∧ isPort b o = false

/-- The register is held as a plain word and the path may write it. -/
abbrev regWritable (s : State) (p : Path) (a m : Nat) (b : Block) (i o : Nat) (r : RegDesc) : Prop :=
  regFound s p a b i o r ∧ regMissing b i o = false ∧ readOnlyHere s b i o = false ∧
    (specialWrite p (aliasOf a) b i o a m { s with access := 0 }).isNone = true ∧
    (b, o) ∉ [(Block.plan, R.PLAN_CMD), (.pwr, R.PWR_CMD), (.boot, R.BOOT_CMD)]

/-- The write-once bits of a register that have been written (R8). -/
abbrev lockOf (s : State) (b : Block) (i o a : Nat) : Nat := (tget (fun _ => (0 : Word)) s.locked (homeOf b i o (windowOf a))).toNat

/-- The dirty bit of the shadow set that a register belongs to (R13). -/
def dirtyAt (b : Block) (i o : Nat) : Option (Nat × Fld) :=
  if !isShadow b o then none else match b with
  | .wb => some (wbB i, R.WB_SHADOW_SHADOW_DIRTY)
  | .trg => some (trgB i, R.TRG_SHADOW_SHADOW_DIRTY)
  | .dens => some (densB i, R.DENS_SHADOW_SHADOW_DIRTY)
  | .clk => some (clkB i, R.CLK_SHADOW_DIRTY)
  | .chz => some (chzB i, zoomMap R.CHZ_DIRTY_k_DIRTY ((o - 0x1000) / 0x40))
  | .disp => (layerOf o).map fun k => (dispB i, { R.DISP_SHADOW_DIRTY with lo := R.DISP_SHADOW_DIRTY.lo + k, w := 1 })
  | _ => none

/-- What a write leaves before the operation that it may begin: the register's bits and its write-once bits, the dirty bit of its
shadow set, and an access violation for a write-once field written before (R7, R8, R13, R637). -/
abbrev regWritten (s u : State) (a m : Nat) (b : Block) (i o : Nat) (r : RegDesc) : Prop :=
  (∀ k : Fin 32, (u.reg (homeOf b i o (windowOf a))).getLsbD k =
    writtenBit (aliasOf a) r (lockOf s b i o a) (s.reg (homeOf b i o (windowOf a))).toNat m k) ∧
  lockOf u b i o a = lockOf s b i o a ||| accMask (some r) (· == .wl) ∧
  (if accMask (some r) (· == .wl) &&& lockOf s b i o a = 0 then u.access = 0 ∧ u.flight = s.flight
    else u.access = 2 ∧ (u.flight.map fun e => (e.source, e.detail)) = (s.flight.map fun e => (e.source, e.detail)) ++ [(38, a % 2 ^ 64)]) ∧
  (∀ x ∈ dirtyAt b i o, u.on x.1 x.2 = true)

/-- A write leaves everything else as it is, but for the access violation at a hub's CHIP block. -/
abbrev regRest (s u : State) (a : Nat) (b : Block) (i o : Nat) : Prop :=
  u = { s with regs := u.regs, locked := u.locked, access := u.access, flight := u.flight } ∧
  ∀ x, x ≠ homeOf b i o (windowOf a) → (∀ y ∈ dirtyAt b i o, x ≠ y.1 + y.2.off) → ¬ inBlocks [.chip] x → u.reg x = s.reg x

/-- What a hardware update `w` in the cycle of an access makes of a register described by `r`, which the access left at `v`: it
wins in HS fields, sets RC fields, and counts on top of a write of a CT field, which holds at all ones or wraps as its chapter
says (R7, R9). -/
abbrev hwUpdated (b : Block) (r : RegDesc) (w : HwUpdate) (v : Word) (x : Word) : Prop :=
  (∀ k : Fin 32, bit (accMask (some r) (· == .ct)) k = false → x.getLsbD k =
    if bit (accMask (some r) (· == .hs)) k && w.mask.getLsbD k then w.value.getLsbD k
    else v.getLsbD k || (bit (accMask (some r) (· == .rc)) k && w.mask.getLsbD k && w.value.getLsbD k)) ∧
  ∀ f ∈ r.fields, f.acc = .ct → bitsOf x.toNat f.lo f.w =
    if w.inc then (if r.off ∈ wrapsAt b then (bitsOf v.toNat f.lo f.w + 1) % 2 ^ f.w
      else min (2 ^ f.w - 1) (bitsOf v.toNat f.lo f.w + 1)) else bitsOf v.toNat f.lo f.w

/-- Row `c` in state `s` changes nothing but the parts that `upd` takes from the state after it, and of the registers only some
at window addresses that meet `win`; where `upd` takes no capture memory, every byte of it reads as before. -/
def Leaves (c : Instr) (s : State) (upd : State → State) (win : Nat → Prop) : Prop :=
  ∀ t, exec c s = .next t → t = upd t ∧ ∀ a, ¬ win a → t.reg a = s.reg a

/-- Every byte of hub `g` but the `n` from address `a` of hub `h` up reads as before. -/
abbrev onlyBytes (s t : State) (h a n : Nat) : Prop :=
  ∀ (g : Hub) (b : Nat), b < 2 ^ 40 → g.val ≠ h ∨ b < a % 2 ^ 40 ∨ a % 2 ^ 40 + n ≤ b → t.rawByte g b = s.rawByte g b

/-- Every byte reads as before. -/
abbrev sameBytes (s t : State) : Prop := ∀ (g : Hub) (b : Nat), t.rawByte g b = s.rawByte g b

/-- The slot of output port `p` of core `c` of die `d` that block `i` goes to (R303, R304). -/
abbrev outSlot (s : State) (d : TDie) (c : CoreIx) (p : Fin 2) (i : Nat) : Nat :=
  let slot := 32 + 4 * 2 ^ max 6 (min 12 (s.rdC d c (if p = 0 then R.CORE_c_OUT_CTRL_BLK0 else R.CORE_c_OUT_CTRL_BLK1)))
  s.rdC d c (if p = 0 then R.CORE_c_OUT_0_BASE else R.CORE_c_OUT_1_BASE) * 2 ^ 20 +
    i % (s.rdC d c (if p = 0 then R.CORE_c_OUT_CTRL_SIZE0 else R.CORE_c_OUT_CTRL_SIZE1) * 2 ^ 20 / slot) * slot

/-- A direction of a link after what a slot brings: flits arrive, then credits and acknowledgements come back (R20, R22). -/
def slotBrings (d : LinkDir) (f : FlitSlot) : LinkDir :=
  let d := { (d.take (d.wire.take f.arrived)) with wire := d.wire.drop f.arrived }
  { (d.ack f.acked) with
    cred0 := min 8 (d.cred0 + f.freed0), cred3 := min 16 (d.cred3 + f.freed3), used := d.used - f.shared }

/-- Condition `c` of die `d` by its number in the pair. -/
abbrev pairCond (d : TDie) (c : Fin 16) : Nat := 16 * (d.val - pairLead d) + c.val

/-- Entry `e`, which brings the fabric of lead die `l` a hit or a state change, is in its log, unless the log is full or no longer
covers the sample; a hit on a sample already evaluated is counted as late and waits (R152). -/
abbrev entered (s t : State) (l : Nat) (e : TrgEntry) : Prop :=
  s.on (trgB l) R.TRG_CTRL_EN = true →
    ((s.trgSt l).floor ≤ e.at_ → (s.trgSt l).evaluated ≤ e.at_ → (s.trgSt l).log.length < 65535 → e ∈ (t.trgSt l).log) ∧
    (e.hit = true → e.at_ < (s.trgSt l).evaluated → unselected s l e = false →
      t.rd (trgB l) R.TRG_LATE_COUNT_LATE = min (2 ^ 32 - 1) (s.rd (trgB l) R.TRG_LATE_COUNT_LATE + 1) ∧
      ∃ v ∈ (t.trgSt l).late, v.1 = e)

/-- Unit `u` of lead die `l` has issued one event more, at sample `k`, and the event's causes satisfy `p`. -/
abbrev issued (s t : State) (l u k : Nat) (p : Fire → Bool) : Prop :=
  t.rd (unitB l u) R.TRGU_u_EVENTS_EVENTS = (s.rd (unitB l u) R.TRGU_u_EVENTS_EVENTS + 1) % 2 ^ 32 ∧
    ∃ v ∈ (t.trgSt l).events, v.unit = u ∧ v.sample = k ∧ v.input = inputOf l ∧
      v.seq = t.rd (unitB l u) R.TRGU_u_EVENTS_EVENTS ∧ p v.fire = true

/-- Unit `u` of lead die `l` is armed and in no holdoff at sample `k`. -/
abbrev mayIssue (s : State) (l u k : Nat) : Prop :=
  s.on (unitB l u) R.TRGU_u_STATUS_ARMED = true ∧ inHoldoff (s.unitSt l u).ends k = false

/-- Byte offset `o` of a TRG block belongs to a shadowed register (R160). -/
abbrev inTrgSet (o : Nat) : Prop := (trgRanges.any fun r => decide (r.1 ≤ o) && decide (o < r.2)) = true

/-- The bytes `l` stand in the memory of hub `h` from address `a` up. -/
abbrev stored (t : State) (h a : Nat) (l : List Byte) : Prop := ∀ i < l.length, t.rawByte h (a + i) = l.getD i 0

/-- Bytes `l` at address `a` of hub `h` lie within the hub's address space, and no channel is frozen. -/
abbrev storable (s : State) (h a : Nat) (l : List Byte) : Prop := s.anyFrozen h = false ∧ a + l.length ≤ 2 ^ 40

/-- Pulse line `line` of hub `h` has one credit more, or shows its overflow (R525). -/
abbrev pulsed (s t : State) (h line : Nat) : Prop :=
  if tget noNat s.credits (h * 65536 + line) = 65535 then tget noNat t.lineOvf (h * 65536 + line) = 1
  else tget noNat t.credits (h * 65536 + line) = tget noNat s.credits (h * 65536 + line) + 1

/-- Byte offset `o` of a DENS block belongs to a shadowed register (R227). -/
abbrev inDensSet (o : Nat) : Prop := (0x4 ≤ o ∧ o < 0x8) ∨ (0x14 ≤ o ∧ o < 0x30) ∨ (0x3C ≤ o ∧ o < 0x54)

/-- The unit shows whether it is armed: the record engine's own units as `on` says, the others with the engine (R148, R177). -/
abbrev armedAs (s t : State) (l : Nat) (on : Bool) : Prop :=
  t.on (recB l) R.REC_STATUS_ARMED = on ∧ ∀ u : Fin 8, t.on (unitB l u) R.TRGU_u_STATUS_ARMED =
    if bit (t.rdL (recB l) R.REC_CTRL_UNITS) u then on else s.on (recB l) R.REC_CTRL_EN

/-- Register `code` of core `q` (R308, R321, R322), of the bank in use, has been given the 24-bit value `v` in `q'`. -/
abbrev regGets (q q' : CoreSt) (code v : Nat) : Prop :=
  (code < 0x10 ∨ (0x18 ≤ code ∧ code < 0x38) ∨ code = 0x39 → q'.cur q.bank code % 2 ^ 24 = v) ∧
  (code = 0x10 ∨ code = 0x13 → bitsOf (q'.cur q.bank code) 0 24 = v) ∧
  (code = 0x11 ∨ code = 0x14 → bitsOf (q'.cur q.bank (code - 1)) 24 24 = v) ∧
  (code = 0x12 ∨ code = 0x15 → bitsOf (q'.cur q.bank (code - 2)) 48 8 = v % 256) ∧
  (code = 0x38 → q'.cur q.bank 0x38 &&& srWritable = v &&& srWritable) ∧
  (code = 0x50 → q'.ira = v % 16384) ∧ (code = 0x51 → q'.ien = v) ∧ (code = 0x52 → q'.ipend = v % 32) ∧
  (code = 0x53 → q'.tmr = v) ∧ (code = 0x54 → q'.dbr = v)

/-- The loop stack of the bank that core `q` uses, as it stands in `q'`. -/
abbrev loopsIn (q q' : CoreSt) : List CoreLoop := if q.bank = 0 then q'.loops0 else q'.loops1

/-- The value that an accumulator takes from the exact result `r` (R293). -/
def accRanged (q : CoreSt) (a : Nat) (r : Int) : Int :=
  if -(2 ^ 55) ≤ r ∧ r < 2 ^ 55 then r
  else if bit (q.sr .mode) (16 + a) then (if r < 0 then -(2 ^ 55) else 2 ^ 55 - 1)
  else sx 56 (enc 56 r)

/-- The sticky flag of SR that an exact result `r` outside the range of accumulator `a` sets (R293). -/
def accFlag (q : CoreSt) (a : Nat) : Nat := if bit (q.sr .mode) (16 + a) then 8 + a else 10 + a

/-- Core `q` goes from its pc to the next address: it is in no delay slot and not at the end of its innermost loop. -/
abbrev straight (q : CoreSt) : Prop := q.slots = 0 ∧ q.loops.head?.map (·.le) ≠ some q.pc

/-- Core `c` of die `d` has halted with `cause` at `pc`. -/
abbrev haltedAt (t : State) (d : TDie) (c : CoreIx) (cause pc : Nat) : Prop :=
  t.onC d c R.CORE_c_STATUS_HALTED = true ∧ t.onC d c R.CORE_c_STATUS_RUNNING = false ∧ t.onC d c R.CORE_c_CTRL_RUN = false ∧
    t.rdC d c R.CORE_c_STATUS_CAUSE = cause ∧ (t.core d c).pc = pc

/-- A refusal of slot `n` with reason `r` is reported and counted (R347). -/
abbrev reported (s t : State) (n r : Nat) : Prop :=
  t.rd (planB 0) R.PLAN_REFUSE_SLOT = n ∧ t.rd (planB 0) R.PLAN_REFUSE_REASON = r ∧ t.on (planB 0) R.PLAN_REFUSE_VALID = true ∧
    t.rd (planB 0) R.PLAN_REFUSE_COUNT_REFUSALS = min (2 ^ 32 - 1) (s.rd (planB 0) R.PLAN_REFUSE_COUNT_REFUSALS + 1)

/-- Plan `n` has been admitted with what `p` says it needs, from state `s` (R347, R348, R372). -/
abbrev runsWith (s t : State) (n : Fin 32) (p : PlanNeed) : Prop :=
  planState t n = 4 ∧ t.rd (planNB n) R.PLAN_n_STATE_REASON = 0 ∧ t.rd (pwrB 0) R.PWR_PRED_POWER = predict t p.power ∧
    t.rd (planNB n) R.PLAN_n_PRED_POWER = min (2 ^ 17 - 1) (predict t p.share) ∧
    (t.planSt n).dies = p.dies.toNat ||| planDies s n ∧ (t.planSt n).admitted = s.admissions + 1 ∧ t.admissions = s.admissions + 1

/-- In `u` plan `n` no longer runs: it is due again at the next start of its period, or LOADED where it has none (R351). -/
abbrev endedAs (s u : State) (n : Fin 32) : Prop :=
  ((s.planSt n).period = 0 → planState u n = 1) ∧
    ((s.planSt n).period ≠ 0 → planState u n = 2 ∧ ∃ k, 1 ≤ k ∧ (u.planSt n).due = (s.planSt n).due + k * (s.planSt n).period ∧
      nowSec u < (u.planSt n).due ∧ (k = 1 ∨ (s.planSt n).due + (k - 1) * (s.planSt n).period ≤ nowSec u)) ∧
    (planState s n = 4 → u.rd (planNB n) R.PLAN_n_PRED_POWER = 0 ∧ (u.planSt n).zooms = [] ∧ (u.planSt n).streams = [])

/-- The same of a plan that stops with all the others. -/
abbrev endedAll (s u : State) (n : Fin 32) : Prop :=
  planState u n = (if (s.planSt n).period = 0 then 1 else 2) ∧
    (planState s n = 4 → u.rd (planNB n) R.PLAN_n_PRED_POWER = 0 ∧ (u.planSt n).zooms = [] ∧ (u.planSt n).streams = [])

/-- Plan `n` is refused with reason `r`, or waits where it may, and no register of another block has changed (R347, R349). -/
abbrev refusedAs (s t : State) (n : Fin 32) (p : PlanNeed) (r : Nat) : Prop :=
  t.rd (planNB n) R.PLAN_n_STATE_REASON = r ∧ planState t n = (if waits s n r p = true then 5 else 6) ∧ reported s t n r ∧
    ∀ a, ¬ inBlocks [.plan] a → t.reg a = s.reg a

/-- The rails other than those of `e` are off: capture memory is lost and no store is mounted (R658, R659). -/
abbrev railsLeft (t : State) (e : Nat) : Prop :=
  t.rails.enables = e ∧ t.cap = [] ∧ ∀ h ∈ t.hubList, t.on (nfsB h) R.NFS_STATUS_MOUNTED = false

/-- The start has begun again at the rails row (R396, R397). -/
abbrev startsAgain (t : State) : Prop := bootState t = 1 ∧ t.rails.next = 0

/-- Sector `n` of recording `num` lies on one of two or more failed dies of its row, so that parity cannot rebuild it (R475). -/
abbrev lostAt (q : NfsSt) (num n : Nat) : Bool :=
  match q.whereIs num n with
  | some (r, d) => q.failed.contains d && decide (2 ≤ (q.bad r).length)
  | none => false

/-- Sector `n` of recording `num` lies on the one failed die of its row, so that it is rebuilt (R474). -/
abbrev rebuiltAt (q : NfsSt) (num n : Nat) : Bool :=
  match q.whereIs num n with
  | some (r, d) => q.failed.contains d && decide ((q.bad r).length = 1)
  | none => false

/-- What a read-back of sector `n` of recording `num` returns. -/
abbrev readBack (q : NfsSt) (num n : Nat) : List Byte :=
  if lostAt q num n then List.replicate 4096 0 else tget (fun _ => List.replicate 4096 0) q.sectors (num * 2 ^ 32 + n)

/-- The blocks of a die of `l` that a store uses (R454, R457): at most 125 * 10^9 bytes of multi-plane blocks. -/
abbrev blocksUsed (l : NandLun) : Nat :=
  min (l.blocks / (if l.planes4 then 4 else 2)) (125 * 10 ^ 9 / max 1 (l.pages * (if l.planes4 then 4 else 2) * 16384))

/-- Channel `c` of hub `h` froze in `t` on an error of cause `k` (R506), in an access `a` of source `r` at address `p`. -/
abbrev frozenBy (s t : State) (h c k r p : Nat) (a : DdrAccess) : Prop :=
  ddrState t h c = 4 ∧ t.rd (ddrChB h c) R.DDR_c_FREEZE_CAUSE = k ∧ t.rd (ddrChB h c) R.DDR_c_FREEZE_SOURCE = r % 16 ∧
    t.on (ddrChB h c) R.DDR_c_FREEZE_RANK = a.rank ∧ t.rd (ddrChB h c) R.DDR_c_FREEZE_BANK = a.bank.toNat ∧
    t.rd (ddrChB h c) R.DDR_c_FREEZE_SYNDROME = (if k = 1 then a.syndrome.toNat else 0) ∧
    t.on (ddrChB h c) (if k = 1 then R.DDR_c_STATUS_UE else R.DDR_c_STATUS_CMD_ERR) = true ∧
    (t.ddrSt h c).freezeAddr = p ∧ (t.ddrSt h c).freezeSts = s.sts ∧
    (∃ x ∈ t.flight, x.source = 72 + 2 * h + c ∧ x.detail = p) ∧ ddrState t h (1 - c) = ddrState s h (1 - c)

/-- What the planner does once a channel of hub `h` has frozen in `u` (R507). -/
abbrev afterFrozen (u t : State) (h : Nat) (k : List (Fin 32)) (e : PlanEnd) : Prop :=
  t = planStep (fun v => recheckAll e.again (busWrites .planner e.writes ((running v).foldl (fun v n =>
    if onHub v n h && !(k.map (·.val)).contains n then suspend n 3 [] v else v) v))) u

/-- The reads of `l` for channel `c` that its queue has room for have joined it (R499). -/
abbrev readsJoin (s : State) (h c : Nat) (l : List DdrReq) : List DdrRead :=
  (s.ddrSt h c).reads ++ (((l.filter fun r => decide (r.addr < s.hubLimit h) && s.chanOf h r.addr == c).map fun r =>
    (⟨r.source.val, r.addr / 128 * 128, s.time.frc⟩ : DdrRead)).take (128 - (s.ddrSt h c).reads.length))

/-- The error corrections of an access with wrong symbols `l` are counted (R496). -/
abbrev ceCounted (s t : State) (h c : Nat) (l : List (List (Fin 20))) : Prop :=
  t.rd (ddrChB h c) R.DDR_c_CE_COUNT_CORRECTED = min (2 ^ 32 - 1) (s.rd (ddrChB h c) R.DDR_c_CE_COUNT_CORRECTED +
    (l.filter fun w => !w.isEmpty).length) ∧ ((l.any fun w => !w.isEmpty) = true → t.on (ddrChB h c) R.DDR_c_STATUS_CE = true)

end Sys2Proof.Machine

open Sys2Proof Sys2Proof.Machine

set_option maxRecDepth 4000

/-- The front command runs with the rest of the queue. -/
def Obligations.StepRunsFront : Prop :=
  ∀ (c : Instr) (s : State), step { s with pending := c :: s.pending } = exec c s

/-- Every step answers a next state: no command faults or is refused. With no command waiting one tick of the time base
passes, which changes the time base only (the tick is the model's choice, log entry 4). -/
def Obligations.EveryStepAnswers : Prop :=
  ∀ s : State, StepSafe s ∧
    (s.pending = [] → ∃ t, step s = .next t ∧ t = { s with time := t.time } ∧
      (s.time.run = true → inAon s = false → t.time.frc = (s.time.frc + 8) % 2 ^ 64))

/-- The invariant of `Safety` holds at reset. -/
def Obligations.InvHoldsAtReset : Prop :=
  Inv State.reset

/-- Every step keeps the invariant of `Safety`: capture memory stays canonical, and the hub that leads exists (R5). -/
def Obligations.InvKept : Prop :=
  ∀ s t : State, Inv s → step s = .next t → Inv t

/-- R318, R323: a word is that of a legal instruction exactly when it is the word its format gives that instruction, and the
fields meet what the format asks of them. -/
def Obligations.CoreDecodeEncode : Prop :=
  ∀ (w : Word) (i : CoreInstr), CoreInstr.decode w = some i ↔ i.ok = true ∧ i.encode = w

/-- Words written out from the formats of R323, with what they decode to; the last three are ILLEGAL (R318). -/
def Obligations.CoreWordsDecode : Prop :=
  CoreInstr.decode 0b000010_0000_000000_0011_0001_0010_0000#32 = some (.alu .add 0 3 1 2) ∧
  CoreInstr.decode 0b000011_0001_0100_0101_11111111111111#32 = some (.imm .addi 1 4 5 0x3FFF) ∧
  CoreInstr.decode 0b001001_0000_0111000_0000011_00000000#32 = some (.mov 0 0x38 3) ∧
  CoreInstr.decode 0b001010_0_0001111_00_1000000000000000#32 = some (.ldi false 0x0F 0x8000) ∧
  CoreInstr.decode 0b001100_0000010_111_00_00000000000001#32 = some (.mem true 2 7 0 1) ∧
  CoreInstr.decode 0b001101_0000_00010_0_1_0011_00000_000000#32 = some (.acc .adda 0 0 1 3 0) ∧
  CoreInstr.decode 0b001110_0_01_0001_0010_0_0000_000_0000_000#32 = some (.mac .mac 0 1 2 0 0 0 0 0) ∧
  CoreInstr.decode 0b010000_0000_000_000_00_00000100000000#32 = some (.ctl .jmp 0 0 0x100) ∧
  CoreInstr.decode 0b010001_0_00000000101_00000000010000#32 = some (.rep false 5 0x10) ∧
  CoreInstr.decode 0b010111_1_0_000000000000000000001111#32 = some (.srb true 0xF) ∧
  CoreInstr.decode 0b011000_00000000000000000000000000#32 = none ∧
  CoreInstr.decode 0b000000_00000000000000000000000001#32 = none ∧
  CoreInstr.decode 0b010000_0000_100_000_00_00000000000000#32 = none

/-- What reset leaves,
    by the values the chapters state: no command waits, nothing is in capture memory, and registers hold
their reset values. That unwritten memory reads 0 is the model's choice (log entry 11). -/
def Obligations.ResetState : Prop :=
  State.reset.pending = [] ∧ (∀ (h : Hub) (a : Nat), State.reset.rawByte h a = 0) ∧ State.reset.lead = 0 ∧
  State.reset.reg (chipB 0) = 0x48100000 ∧ State.reset.reg (acqB 1) = 0x41100001 ∧
  State.reset.rd (pwrB 0) R.PWR_CAP_CAP = 95000 ∧ State.reset.rd (densB 0) R.DENS_CTRL_SKIPF = 1 ∧
  (∀ n : Fin 64, State.reset.rd (scB 0 n) R.SC_n_STATE_SLOT = n) ∧ State.reset.rd (scB 0 64) R.SC_n_STATE_ROLE = 1 ∧
  (∀ c : CoreIx, (State.reset.core 0 c).pc = 0 ∧ (State.reset.core 0 c).bank = 0 ∧
      State.reset.onC 0 c R.CORE_c_STATUS_RUNNING = false)

/-- R318, R307: a core that is to issue an ILLEGAL word, or one that is ILLEGAL where it stands, halts with cause 5 before it
issues it; the rows that carry this are the model's choice (log entry 73). -/
def Obligations.IllegalWordHalts : Prop :=
  (∀ (d : TDie) (c : CoreIx) (e : EccRead) (s : State), coreRunning s d c = true → atBreak s d c = false →
      interruptDue (s.core d c) = none → (∀ i, CoreInstr.decode (s.pm d c (s.core d c).pc) = some i →
      legalHere (s.core d c) i = false) → ∃ t, exec (Instr.coreNop d c e) s = .next t ∧
      t.onC d c R.CORE_c_STATUS_RUNNING = false ∧ t.onC d c R.CORE_c_STATUS_HALTED = true ∧
      t.rdC d c R.CORE_c_STATUS_CAUSE = 5 ∧ (t.core d c).pc = (s.core d c).pc ∧
          (t.core d c).bank = (s.core d c).bank ∧
      (t.core d c).regs = (s.core d c).regs ∧ (t.flight.map (·.source)).getLast? = some (98 + 8 * d.val))

/-- R6: the window of a die absent from the configuration. -/
def Obligations.AbsentDieAccess : Prop :=
  (∀ (p : Path) (w : BitVec 28) (u : HwUpdate) (d : Nat) (s : State), pathReaches s p w.toNat = true →
      s.resetLow = false → w.toNat < 2 ^ 30 → dieOfWindow (windowOf w.toNat) = some d → bit s.part.present d = false →
      ∃ t, exec (Instr.rcClearingRead p w u) s = .next t ∧ t.readData = 0 ∧ t.access = 1 ∧ t.regs = s.regs ∧
      t.flight = s.flight) ∧
  (∀ (p : Path) (a : BitVec 32) (v : Word) (u : HwUpdate) (d : Nat) (s : State), pathReaches s p a.toNat = true →
      s.resetLow = false → a.toNat < 2 ^ 30 → dieOfWindow (windowOf a.toNat) = some d → bit s.part.present d = false →
      ∃ t, exec (Instr.configWrite p a v u) s = .next t ∧ t.reg (windowOf a.toNat) = s.reg (windowOf a.toNat) ∧
      t.access = 1 ∧ t.live = s.live ∧ t.cap = s.cap ∧
      (∃ x, t.flight = s.flight ++ [x] ∧ x.source = 38 ∧ x.detail = a.toNat) ∧ srcClass 38 = 0)

/-- R7, R8: WL fields. The first write after reset sets and locks a field; a later one leaves it, and raises an event that
carries the address. -/
def Obligations.LockedFieldWrite : Prop :=
  (∀ (p : Path) (a : BitVec 28) (v : Word) (i o : Nat) (b : Block) (r : RegDesc) (k : Fin 32) (s : State),
      pathReaches s p a.toNat = true → reach s a.toNat = .at_ b i o → (b = .boot ∧ o = 0x20) ∨ (b = .trg ∧ o = 0x20 ∧
      isLead i = true) → regAt b o = some r → bit (accMask (some r) (· == .wl)) k = true →
      ∃ t, exec (Instr.configWrite p (a.zeroExtend 32) v {}) s = .next t ∧
      (bit (tget (fun _ => (0 : Word)) s.locked (windowOf a.toNat)).toNat k = true →
        (t.reg (windowOf a.toNat)).getLsbD k = (s.reg (windowOf a.toNat)).getLsbD k ∧ t.access = 2 ∧
          ∃ x, t.flight = s.flight ++ [x] ∧ x.source = 38 ∧ x.detail = a.toNat) ∧
      (bit (tget (fun _ => (0 : Word)) s.locked (windowOf a.toNat)).toNat k = false →
        (t.reg (windowOf a.toNat)).getLsbD k = v.getLsbD k) ∧
      bit (tget (fun _ => (0 : Word)) t.locked (windowOf a.toNat)).toNat k = true)

/-- R286: a repeat with a count of 0. -/
def Obligations.ZeroRepeatSkips : Prop :=
  (∀ (d : TDie) (c : CoreIx) (e : EccRead) (r : Bool) (n : BitVec 11) (le : BitVec 14) (s : State),
      issues s d c e (.rep r n le) = true → (if r then (s.core d c).readReg (n.toNat % 128) else n.toNat) = 0 →
      ∃ t, exec (Instr.coreRep d c e) s = .next t ∧ (t.core d c).loops = (s.core d c).loops ∧
      (t.core d c).pc = (le.toNat + 1) % 2 ^ 14 ∧
      t.rdC d c R.CORE_c_CYCLES_CYCLES = (s.rdC d c R.CORE_c_CYCLES_CYCLES + 3) % 2 ^ 32)

/-- R40, R38: a GAIN code above 24. -/
def Obligations.GainCodeClamps : Prop :=
  (∀ (a : ADie) (code : Fin 32) (s : State), s.hasA a = true → 24 < code.val →
      ∃ t, exec (Instr.gainWrite a code) s = .next t ∧ (t.acqSt a).gainNext.getD (t.acqSt a).gain = 24 ∧
      (24 : Rat) * (1 / 2) = 12 ∧
      t.on (acqB a) R.ACQ_STATUS_GAIN_CLAMP = true)

/-- Whole-machine rules: the state that only the rows of its own rules change, whatever else a command sets off. Commands leave
the queue, the part and its suffix alone; fuses change with the operations of R405 and R395 only (R407); the lead with a
SEVERE control fault or a reset only (R5, R622). -/
def Obligations.OwnersOfState : Prop :=
  ∀ (c : Instr) (s t : State), exec c s = .next t →
    t.pending = s.pending ∧ t.part = s.part ∧ t.suffixE = s.suffixE ∧
  (match c with
    | .fuseDone .. => True
    | _ => t.fuses = s.fuses ∧ t.keyHash = s.keyHash) ∧
  (match c with
    | .fuseDone .. | .svnAdvance .. => True
    | _ => t.fusedSvn = s.fusedSvn) ∧
  (match c with
    | .faultEvent .. | .resetAssert .. | .powerOnReset .. => True
    | _ => t.lead = s.lead ∧ t.controlLost = s.controlLost) ∧
  (match c with
    | .ledgerStep .. | .resetAssert .. | .powerOnReset .. => True
    | _ => t.energy = s.energy) ∧
  (match c with
    | .nfsEraseDone .. | .nfsFormatComplete .. | .nfsMounted .. => True
    | _ => t.drawn = s.drawn) ∧
  (match c with
    | .pipelineFault .. | .resetAssert .. | .powerOnReset .. => True
    | _ => t.brokenPipes = s.brokenPipes) ∧
  (match c with
    | .aliveToggle .. | .resetAssert .. | .powerOnReset .. => True
    | _ => t.alive = s.alive) ∧
  (match c with
    | .bootPlannerStart .. | .resetAssert .. | .powerOnReset .. => True
    | _ => t.aliveRuns = s.aliveRuns) ∧
  (match c with
    | .plannerHeartbeat .. | .heartbeatMiss .. | .resetAssert .. | .powerOnReset .. => True
    | _ => t.beatsMissed = s.beatsMissed) ∧
  (match c with
    | .spiRead .. | .spiReadFixed .. | .spiWrite .. | .spiWriteFixed .. | .spiStatus .. | .spiId .. | .spiReadTimeout .. | .spiWriteDrain .. | .resetAssert .. | .powerOnReset .. => True
    | _ => t.spi = s.spi) ∧
  (match c with
    | .pwmEdge .. | .resetAssert .. | .powerOnReset .. => True
    | _ => t.pwm = s.pwm) ∧
  (match c with
    | .hkEntryResult .. | .hkPairTimeout .. | .resetAssert .. | .powerOnReset .. => True
    | _ => t.pairs = s.pairs) ∧
  (match c with
    | .hkEntryResult .. | .resetAssert .. | .powerOnReset .. => True
    | _ => t.hkAt = s.hkAt) ∧
  (match c with
    | .railSequenceStep .. | .hkEntryResult .. | .resetAssert .. | .powerOnReset .. => True
    | _ => t.hotLost = s.hotLost) ∧
  (match c with
    | .powerFail .. | .railOutOfTolerance .. | .powerRestore .. | .hkEntryResult .. => True
    | _ => t.powerGood = s.powerGood) ∧
  (match c with
    | .resetAssert .. | .resetRelease .. | .powerOnReset .. => True
    | _ => t.resetLow = s.resetLow) ∧
  (match c with
    | .repairPlace .. | .repairComplete .. | .faultEvent .. | .resetAssert .. | .powerOnReset .. => True
    | _ => t.repairs = s.repairs) ∧
  (match c with
    | .triggerMessageSend .. | .triggerMessageRepeat .. | .frameTransmit .. | .resetAssert .. | .powerOnReset .. => True
    | _ => t.trgTx = s.trgTx)

/-- The die links (R20, R22, R24, R25).
* LINK_TRAIN (R25): every link of the configuration that has not failed is trained as the operand says, over spare
  lanes where it says so; the others go on training; a failed link stays as it is.
* LINK_TRAIN_TIMEOUT (R25): a link that still trains fails: its far die is lost, leaves CHIP_CONFIG.USABLE, and
  DIE_LOST is set. That the far die of a link is the one away from H0 is the model's reading (log entry 22).
* LINK_FLIT_SEND (R20, R22): flits, credits and acknowledgements arrive; then the channel of highest priority that
  is ready and may send takes the slot under the next number, uses a credit of its pool and enters the retry buffer;
  otherwise the slot stays empty. How the rate limits count slots, what a full retry buffer holds back and how large
  the shared pool is are the model's choices (log entry 172).
* LINK_CRC_RETRY (R22, R616): the error is counted, source 48 + l raised with the count, and the flits from the bad
  one on are on the wire again, in the order of the retry buffer.
* INPUT_BUFFER_OVERFLOW (R24, R616): every sample the link lost is flagged LOST on the die, and source 57 + n is
  raised with the first one. That the sources go by link, so that die T_n raises 57 + n, is the model's reading (log
  entry 173). -/
def Obligations.LinkRowsComplete : Prop :=
  (∀ (tr sp : BitVec 9) (s : State), ∃ t, exec (Instr.linkTrain tr sp) s = .next t ∧
      (∀ l : Fin 9, s.hasLink l = true → (s.linkSt l).failed = false → (t.linkSt l).trained = tr.getLsbD l ∧
        (t.linkSt l).training = !tr.getLsbD l ∧ (t.linkSt l).spareUsed = (tr.getLsbD l && sp.getLsbD l)) ∧
      (∀ l : Fin 9, (s.linkSt l).failed = true → t.linkSt l = s.linkSt l)) ∧
  (∀ (l : Fin 9) (s : State), s.hasLink l = true → (s.linkSt l).training = true →
      ∃ t, exec (Instr.linkTrainTimeout l) s = .next t ∧ (t.linkSt l).failed = true ∧ (t.linkSt l).training = false ∧
      t.on (bootB 0) R.BOOT_STATUS_DIE_LOST = true ∧
      bit t.lostDies (farDie l) = true ∧ bit (t.rd (chipB 0) R.CHIP_CONFIG_USABLE) (farDie l) = false) ∧
  (∀ (l : Fin 9) (back : Bool) (f : FlitSlot) (s : State), s.hasLink l = true → (s.linkSt l).trained = true →
      ∃ t, exec (Instr.linkFlitSend l back f) s = .next t ∧
      (∀ v, (slotBrings (if back then (s.linkSt l).back else (s.linkSt l).fwd) f).pick f.ready = some v →
      (if back then (t.linkSt l).back else (t.linkSt l).fwd).next = (if back then (s.linkSt l).back else (s.linkSt l).fwd).next + 1 ∧
        (if back then (t.linkSt l).back else (t.linkSt l).fwd).retry = (slotBrings (if back then (s.linkSt l).back else (s.linkSt l).fwd) f).retry ++ [((if back then (s.linkSt l).back else (s.linkSt l).fwd).next, v)] ∧
        (if back then (t.linkSt l).back else (t.linkSt l).fwd).wire = (slotBrings (if back then (s.linkSt l).back else (s.linkSt l).fwd) f).wire ++ [((if back then (s.linkSt l).back else (s.linkSt l).fwd).next, v)] ∧
        (if back then (t.linkSt l).back else (t.linkSt l).fwd).cred0 = (slotBrings (if back then (s.linkSt l).back else (s.linkSt l).fwd) f).cred0 - (if v = 0 then 1 else 0) ∧
        (if back then (t.linkSt l).back else (t.linkSt l).fwd).cred3 = (slotBrings (if back then (s.linkSt l).back else (s.linkSt l).fwd) f).cred3 - (if v = 3 then 1 else 0) ∧
        (if back then (t.linkSt l).back else (t.linkSt l).fwd).used = (slotBrings (if back then (s.linkSt l).back else (s.linkSt l).fwd) f).used + (if v = 1 ∨ v = 2 then 1 else 0)) ∧
      ((slotBrings (if back then (s.linkSt l).back else (s.linkSt l).fwd) f).pick f.ready = none →
          (if back then (t.linkSt l).back else (t.linkSt l).fwd).next = (if back then (s.linkSt l).back else (s.linkSt l).fwd).next ∧ (if back then (t.linkSt l).back else (t.linkSt l).fwd).retry = (slotBrings (if back then (s.linkSt l).back else (s.linkSt l).fwd) f).retry ∧
        (if back then (t.linkSt l).back else (t.linkSt l).fwd).wire = (slotBrings (if back then (s.linkSt l).back else (s.linkSt l).fwd) f).wire)) ∧
  (∀ (l : Fin 9) (back : Bool) (k : Nat) (s : State), s.hasLink l = true → (s.linkSt l).trained = true →
      ∃ t, exec (Instr.linkCrcRetry l back k) s = .next t ∧ (t.linkSt l).errors = (s.linkSt l).errors + 1 ∧
      (if back then (t.linkSt l).back else (t.linkSt l).fwd).retry = (if back then (s.linkSt l).back else (s.linkSt l).fwd).retry ∧
      (if back then (t.linkSt l).back else (t.linkSt l).fwd).wire = ((if back then (s.linkSt l).back else (s.linkSt l).fwd).wire.filter fun e => decide (e.1 < k)) ++ ((if back then (s.linkSt l).back else (s.linkSt l).fwd).retry.filter fun e => decide (k ≤ e.1)) ∧
      t.flight.map (fun e => (e.source, e.detail)) = s.flight.map (fun e => (e.source, e.detail)) ++ [(48 + l.val, ((s.linkSt l).errors + 1) % 2 ^ 64)]) ∧
  (∀ (d : TDie) (first last : Nat) (s : State), s.usableT d = true → first ≤ last →
      ∃ t, exec (Instr.inputBufferOverflow d first last) s = .next t ∧
      t.flight.map (fun e => (e.source, e.detail)) = s.flight.map (fun e => (e.source, e.detail)) ++ [(57 + d.val, first % 2 ^ 64)] ∧
      (∀ j, first ≤ j → j ≤ last → bit (t.statusOf d j j) 7 = true))

/-- The stream of an acquisition die and its settings (R39 to R42, R65 to R67, R74, R76, R672).
* STREAM_FRAME on an acquisition die (R39, R41, R42): the 64 converter samples are taken in, the frame count
  advances, a waiting gain takes effect with 7 frames to settle; in the stream, overloads count and the flit of the
  frame's 32 stream samples carries OVR, SETTLE and UNCAL.
* STREAM_FRAME in the S8G-2D (R76): once the lanes have released, 32 stream samples arrive as the lanes carry them.
  The layout of a JESD204C frame is taken from outside the spec (log entry 174).
* ACQ_ENABLE (R64, R66, R672): the stream starts with the next frame, uncalibrated; the calibration enters OFF,
  IDLE, or a run with cause START, by MODE. That the run does not wait for the frame count is the model's reading
  (log entry 24).
* ACQ_DISABLE (R65, R672): the stream ends with the frame in progress, the step is abandoned, the calibration is OFF
  and every trim keeps its value.
* GAIN_WRITE (R39, R40): a gain that differs from the one in force waits for the frame boundary; a code above 24
  acts as 24 and sets GAIN_CLAMP.
* GAIN_SETTLE_END (R39): after the 7 frames of a gain change SETTLE ends.
* FACTORY_TRIM_LOAD (R66): all 65 sub-converters take their factory trims, interpolated to the die temperature and
  held to their ranges.
* ACQ_DELAY_MEASURE (R67): the measured delay is shown, and TOTAL is the sum of the factory, measured and board
  delays.
* EST_SEL_WRITE (R74): the registers take the last estimates of the slot, in their units and held at the ends of
  their fields (how a tie rounds is the model's choice, log entry 13). -/
def Obligations.StreamRowsComplete : Prop :=
  (∀ (a : ADie) (f : ConvFrame) (s : State), s.hasA a = true → (s.acqSt a).counting = true →
      ∃ t, exec (Instr.streamFrame a f) s = .next t ∧ (t.acqSt a).frame = (s.acqSt a).frame + 1 ∧
      (∀ k : Fin 64, t.code a (64 * (s.acqSt a).frame + k) = ((f.codes[k.val]?).getD 0).toInt) ∧
      (∀ g ∈ (s.acqSt a).gainNext, (t.acqSt a).gain = g ∧ (t.acqSt a).settling = true ∧ (t.acqSt a).settleLeft = 7 ∧
          (t.acqSt a).gainNext = none) ∧
      ((s.acqSt a).gainNext = none → (t.acqSt a).gain = (s.acqSt a).gain ∧
          (t.acqSt a).settleLeft = (s.acqSt a).settleLeft - 1) ∧
      ((s.acqSt a).streams (s.acqSt a).frame = true → t.rd (acqB a) R.ACQ_OVR_COUNT_OVR_SAMPLES = min (2 ^ 32 - 1)
        (s.rd (acqB a) R.ACQ_OVR_COUNT_OVR_SAMPLES + ((f.codes.take 64).filter fun v => overload v.toInt).length) ∧
        (t.acqSt a).flit = some (32 * (s.acqSt a).frame, markOvr * b2n ((f.codes.take 64).any fun v => overload v.toInt) +
          markSettle * b2n ((s.acqSt a).settling && decide (0 < (s.acqSt a).settleLeft)) + markUncal * s.rd (acqB a) R.ACQ_STATUS_UNCAL))) ∧
  (∀ (a : ADie) (f : ConvFrame) (s : State), s.part = .s2d → s.on (jrxB 0) R.JRX_STATUS_READY = true →
      s.jrx.lostFrom = none → ∃ t, exec (Instr.streamFrame a f) s = .next t ∧ t.jrx.next = s.jrx.next + 32 ∧
      (∀ k : Fin 32, t.streamSample 0 (s.jrx.next + k) = ((jesdSamples s f.lanes)[k.val]?).getD (0, 0))) ∧
  (∀ (a : ADie) (s : State), s.usableA a = true → (s.acqSt a).enabled = false →
      ∃ t, exec (Instr.acqEnable a) s = .next t ∧ (t.acqSt a).enabled = true ∧ t.on (acqB a) R.ACQ_CTRL_EN = true ∧
      ((s.acqSt a).counting = true → (t.acqSt a).spans = ((s.acqSt a).frame + 1, none) :: (s.acqSt a).spans ∧
          t.on (acqB a) R.ACQ_STATUS_STREAM = true ∧
        t.on (acqB a) R.ACQ_STATUS_UNCAL = true) ∧
      (s.calMode a = 0 → (t.acqSt a).phase = .off) ∧ (s.calMode a = 1 → (t.acqSt a).phase = .idle) ∧
      (s.calMode a = 2 → (s.acqSt a).frozen = false → s.calHold a = false → (t.acqSt a).phase = .run ∧
        t.rd (acqB a) R.CAL_STATE_CAUSE = 0)) ∧
  (∀ (a : ADie) (s : State), s.hasA a = true → (s.acqSt a).enabled = true →
      ∃ t, exec (Instr.acqDisable a) s = .next t ∧ (t.acqSt a).enabled = false ∧ t.on (acqB a) R.ACQ_CTRL_EN = false ∧
      t.on (acqB a) R.ACQ_STATUS_STREAM = false ∧
      (t.acqSt a).phase = .off ∧ (t.acqSt a).step = .none ∧
          (t.acqSt a).spans = ((s.acqSt a).spans.map fun e => (e.1, some (e.2.getD (s.acqSt a).frame))) ∧
      (∀ (n : Fin 65) (i : Fin 3), t.trim a n i = s.trim a n i)) ∧
  (∀ (a : ADie) (code : Fin 32) (s : State), s.hasA a = true → ∃ t, exec (Instr.gainWrite a code) s = .next t ∧
      t.rd (acqB a) R.ACQ_CTRL_GAIN = code.val ∧
      (t.acqSt a).gainNext = (if min 24 code.val = (s.acqSt a).gain then none else some (min 24 code.val)) ∧
          (t.acqSt a).gain = (s.acqSt a).gain ∧
      (24 < code.val → t.on (acqB a) R.ACQ_STATUS_GAIN_CLAMP = true)) ∧
  (∀ (a : ADie) (s : State), (s.acqSt a).settling = true → (s.acqSt a).settleLeft = 0 →
      ∃ t, exec (Instr.gainSettleEnd a) s = .next t ∧ (t.acqSt a).settling = false ∧
      (t.acqSt a).gain = (s.acqSt a).gain ∧ (t.acqSt a).frame = (s.acqSt a).frame) ∧
  (∀ (a : ADie) (temp : Rat) (s : State), s.usableA a = true → ∃ t, exec (Instr.factoryTrimLoad a temp) s = .next t ∧
      ∀ n : Fin 65,
        t.trim a n 0 = clampI (-512) 511 (factoryTrim (tget (fun _ => ({} : Trims)) (s.acqSt a).fact25 n).ofs
          (tget (fun _ => ({} : Trims)) (s.acqSt a).fact85 n).ofs temp) ∧
        t.trim a n 1 = clampI (-512) 511 (factoryTrim (tget (fun _ => ({} : Trims)) (s.acqSt a).fact25 n).gain
          (tget (fun _ => ({} : Trims)) (s.acqSt a).fact85 n).gain temp) ∧
        t.trim a n 2 = clampI (-63) 63 (factoryTrim (tget (fun _ => ({} : Trims)) (s.acqSt a).fact25 n).skew
          (tget (fun _ => ({} : Trims)) (s.acqSt a).fact85 n).skew temp)) ∧
  (∀ (a : ADie) (v : BitVec 16) (s : State), s.hasA a = true → ∃ t, exec (Instr.acqDelayMeasure a v) s = .next t ∧
      t.rd (acqB a) R.ACQ_DELAY_MEAS_DELAY = v.toNat ∧
      t.rdI (acqB a) R.ACQ_DELAY_TOTAL_DELAY = s.rdI (acqB a) R.ACQ_DELAY_FACT_DELAY + v.toInt +
        s.rdI (acqB a) R.ACQ_DELAY_BOARD_DELAY) ∧
  (∀ (a : ADie) (slot : Fin 64) (s : State), s.hasA a = true → ∃ t, exec (Instr.estSelWrite a slot) s = .next t ∧
      t.rd (acqB a) R.EST_SEL_SLOT = slot.val ∧ t.rdI (acqB a) R.EST_OFS_OFS = clampI (-32768) 32767
        (roundRat ((tget (fun _ => ({} : Est)) (s.acqSt a).est slot.val).ofs * 256)) ∧
      t.rdI (acqB a) R.EST_GAIN_GAIN = clampI (-32768) 32767
        (logRound (tget (fun _ => ({} : Est)) (s.acqSt a).est slot.val).ratio 100000 20) ∧
      t.rdI (acqB a) R.EST_SKEW_SKEW = clampI (-32768) 32767
        (roundRat (tget (fun _ => ({} : Est)) (s.acqSt a).est slot.val).skew))

/-- The steps of the blind calibration (R44 to R63).
* SUBWINDOW_COMPLETE (R47, R48, R58, R61): once its samples are there a sub-window in a step that meets no rejection
  cause counts toward the window and the verification; one that meets some is discarded, counted, and its causes
  shown; the slots whose output is constant in a loud sub-window name failed sub-converters. That a step waits from
  its first rejected sub-window on, and that a sub-window outside a step neither counts nor shows causes, are the
  model's choices (log entry 175).
* CAL_WINDOW_COMPLETE (R49, R61): 64 qualifying sub-windows give every slot its estimates; an estimate beyond the
  limits names a failed sub-converter. That the check is made for every slot is the model's reading (log entry 25).
* CAL_STEP_START (R55, R63): the next step of a run starts at the slot the spare enters next; with no spare it is a
  live-trim step, which LIVE_TRIM allows. That LIVE_TRIM is the field of ACQ_CTRL, and that a live-trim run stands
  still while it is 0, are the model's (log entry 176).
* IDLE_STEP_START (R57): an idle step starts at the slot the spare enters next, while STEP_IDLE is not 0.
* VERIFY_WINDOW_COMPLETE (R56, R57): the spare within the limits of CAL_VERIFY is verified. A failed idle step ends,
  is counted in VERIFY mode, and under AUTO starts a run with cause RESIDUAL or the cause that waited. A failed run
  step takes the differences off the spare's trims and verifies again, or after RETRY further failures retires the
  spare and raises source 80 or 81. The figures that divide by a power of 0 are open values (log entry 177).
* SPARE_SWAP (R44, R45, R57): the verified spare takes the slot, the displaced sub-converter becomes the spare, and
  the next slot is the following one; an idle step ends. That an idle step needs no full window is the model's
  reading (log entry 26).
* TRIM_UPDATE (R50, R52, R55): the displaced sub-converter's trims move by the changes of R50, held to their ranges,
  and the step is complete (how a tie rounds is the model's choice, log entry 13).
* LIVE_TRIM_STEP (R46, R63): the trims of the sub-converter in the slot move by at most one step each while
  LIVE_TRIM is set (log entry 176).
* FAILED_SC_REPLACE (R61, R63): the spare takes the failed sub-converter's slot, the failed one is retired with
  reason 2 and no spare remains; without a spare it stays in service as DEGRADED, and source 82 or 83 is raised. -/
def Obligations.CalStepRowsComplete : Prop :=
  (∀ (a : ADie) (s : State), s.hasA a = true → s.on (acqB a) R.ACQ_STATUS_STREAM = true →
      32 * ((s.acqSt a).subStart + 65536) ≤ s.streamHead a → ∃ t, exec (Instr.subwindowComplete a) s = .next t ∧
      (t.acqSt a).subStart = (s.acqSt a).subStart + 65536 ∧ (t.acqSt a).step = (s.acqSt a).step ∧
      ((s.acqSt a).step ≠ .none → rejectCauses s a (s.acqSt a).subStart = 0 →
          (t.acqSt a).waiting = (s.acqSt a).waiting ∧
        (t.acqSt a).subs = (if (s.acqSt a).windowDone then (s.acqSt a).subs else (s.acqSt a).subs ++ [(s.acqSt a).subStart]) ∧
        t.rd (acqB a) R.CAL_REJECT_COUNT_REJECTS = s.rd (acqB a) R.CAL_REJECT_COUNT_REJECTS) ∧
      ((s.acqSt a).step ≠ .none → rejectCauses s a (s.acqSt a).subStart ≠ 0 → (t.acqSt a).subs = (s.acqSt a).subs ∧
          (t.acqSt a).verSubs = (s.acqSt a).verSubs ∧
        t.rd (acqB a) R.CAL_REJECT_COUNT_REJECTS = min (2 ^ 32 - 1) (s.rd (acqB a) R.CAL_REJECT_COUNT_REJECTS + 1) ∧
        t.rd (acqB a) R.CAL_REJECT_CAUSE_CAUSES = s.rd (acqB a) R.CAL_REJECT_CAUSE_CAUSES ||| rejectCauses s a (s.acqSt a).subStart ∧
        (t.acqSt a).waiting = ((s.acqSt a).waiting || (s.acqSt a).lacks)) ∧
      ((s.acqSt a).step = .none → (t.acqSt a).subs = (s.acqSt a).subs ∧
        t.rd (acqB a) R.CAL_REJECT_COUNT_REJECTS = s.rd (acqB a) R.CAL_REJECT_COUNT_REJECTS) ∧
      (ensembleLoud s a (s.acqSt a).subStart = true → ∀ k ∈ constantSlots s a (s.acqSt a).subStart,
        (t.acqSt a).failing.any (fun f => f.1 == (s.acqSt a).inSlot k) = true ∨
            (s.acqSt a).inSlot k ∈ (t.acqSt a).degraded)) ∧
  (∀ (a : ADie) (s : State), s.hasA a = true → (s.acqSt a).step = .run ∨ (s.acqSt a).step = .live →
      64 ≤ (s.acqSt a).subs.length → (s.acqSt a).windowDone = false →
      ∃ t, exec (Instr.calWindowComplete a) s = .next t ∧ (t.acqSt a).windowDone = true ∧
      (t.acqSt a).step = (s.acqSt a).step ∧ (t.acqSt a).waiting = ((s.acqSt a).waiting && !(s.acqSt a).verified) ∧
      (∀ k : Fin 64, tget (fun _ => ({} : Est)) (t.acqSt a).est k =
        ((estimates (slotStats s a ((s.acqSt a).subs.take 64)))[k.val]?).getD {}) ∧
      (∀ k : Fin 64, estFails (((estimates (slotStats s a ((s.acqSt a).subs.take 64)))[k.val]?).getD {}) = true →
        (t.acqSt a).failing.any (fun f => f.1 == (s.acqSt a).inSlot k) = true ∨
            (s.acqSt a).inSlot k ∈ (t.acqSt a).degraded)) ∧
  (∀ (a : ADie) (s : State), (s.acqSt a).phase = .run → (s.acqSt a).step = .none → s.calHold a = false →
      (s.acqSt a).runSteps < (s.acqSt a).runLength → (s.acqSt a).frozen = false ∨
      s.on (acqB a) R.ACQ_CTRL_LIVE_TRIM = true → ∃ t, exec (Instr.calStepStart a) s = .next t ∧
      (t.acqSt a).step = (if (s.acqSt a).frozen then .live else .run) ∧ (t.acqSt a).slot = (s.acqSt a).nextSlot ∧
      (t.acqSt a).subs = [] ∧
      (t.acqSt a).windowDone = false ∧ (t.acqSt a).verified = (s.acqSt a).frozen ∧ (t.acqSt a).retries = 0 ∧
      t.rd (acqB a) R.CAL_STATE_SLOT = (s.acqSt a).nextSlot % 64) ∧
  (∀ (a : ADie) (s : State), (s.acqSt a).phase = .idle → (s.acqSt a).step = .none → s.calHold a = false →
      (s.acqSt a).frozen = false → s.rd (acqB a) R.CAL_TIMING_STEP_IDLE ≠ 0 →
      ∃ t, exec (Instr.idleStepStart a) s = .next t ∧ (t.acqSt a).step = .idle ∧
      (t.acqSt a).slot = (s.acqSt a).nextSlot ∧ (t.acqSt a).verified = false ∧ (t.acqSt a).verSubs = [] ∧
      t.rd (acqB a) R.CAL_STATE_SLOT = (s.acqSt a).nextSlot % 64) ∧
  (∀ (a : ADie) (s : State), (s.acqSt a).step = .run ∨ (s.acqSt a).step = .idle → (s.acqSt a).verified = false →
      4 ≤ (s.acqSt a).verSubs.length → ∃ t, exec (Instr.verifyWindowComplete a) s = .next t ∧
      (verifyOk s a (verifyFigures s a (s.acqSt a).slot ((s.acqSt a).verSubs.take 4)).1 (verifyFigures s a (s.acqSt a).slot ((s.acqSt a).verSubs.take 4)).2.1 (verifyFigures s a (s.acqSt a).slot ((s.acqSt a).verSubs.take 4)).2.2 = true → (t.acqSt a).verified = true ∧ (t.acqSt a).step = (s.acqSt a).step) ∧
      (verifyOk s a (verifyFigures s a (s.acqSt a).slot ((s.acqSt a).verSubs.take 4)).1 (verifyFigures s a (s.acqSt a).slot ((s.acqSt a).verSubs.take 4)).2.1 (verifyFigures s a (s.acqSt a).slot ((s.acqSt a).verSubs.take 4)).2.2 = false → (s.acqSt a).step = .idle → (t.acqSt a).step = .none ∧ (t.acqSt a).verifyFails = (s.acqSt a).verifyFails + b2n (decide (s.calMode a = 1)) ∧
        (s.calMode a = 2 → s.calHold a = false → (t.acqSt a).phase = .run ∧
          t.rd (acqB a) R.CAL_STATE_CAUSE = (s.acqSt a).idleCause.getD 3 % 8)) ∧
      (verifyOk s a (verifyFigures s a (s.acqSt a).slot ((s.acqSt a).verSubs.take 4)).1 (verifyFigures s a (s.acqSt a).slot ((s.acqSt a).verSubs.take 4)).2.1 (verifyFigures s a (s.acqSt a).slot ((s.acqSt a).verSubs.take 4)).2.2 = false → (s.acqSt a).step = .run → ∀ y : Fin 65, s.spare a = some y.val →
        (s.rd (acqB a) R.CAL_VERIFY_RETRY < (s.acqSt a).retries + 1 → (t.acqSt a).frozen = true ∧
            t.rd (scB a y) R.SC_n_STATE_ROLE = 2 ∧
          t.rd (acqB a) R.CAL_RETIRED_INDEX = y.val ∧ t.rd (acqB a) R.CAL_RETIRED_REASON = 1 ∧
          t.flight.map (·.source) = s.flight.map (·.source) ++ [80 + a.val]) ∧
        ((s.acqSt a).retries + 1 ≤ s.rd (acqB a) R.CAL_VERIFY_RETRY → (t.acqSt a).retries = (s.acqSt a).retries + 1 ∧
            (t.acqSt a).verSubs = [] ∧
        t.trim a y 0 = clampI (-512) 511 (s.trim a y 0 + -roundRat (16 * (verifyFigures s a (s.acqSt a).slot ((s.acqSt a).verSubs.take 4)).1)) ∧
        t.trim a y 1 = clampI (-512) 511 (s.trim a y 1 + -logRound (verifyFigures s a (s.acqSt a).slot ((s.acqSt a).verSubs.take 4)).2.1 10000 17) ∧
        t.trim a y 2 = clampI (-63) 63 (s.trim a y 2 + -roundRat ((verifyFigures s a (s.acqSt a).slot ((s.acqSt a).verSubs.take 4)).2.2 / 48))))) ∧
  (∀ (a : ADie) (y : Fin 65) (s : State), s.spare a = some y.val → (s.acqSt a).slot < 64 →
      (s.acqSt a).inSlot (s.acqSt a).slot < 65 → (s.acqSt a).inSlot (s.acqSt a).slot ≠ y.val →
      (s.acqSt a).verified = true → (s.acqSt a).displaced = none → (s.acqSt a).failing = [] →
      (s.acqSt a).step = .idle ∨ ((s.acqSt a).step = .run ∧ (s.acqSt a).windowDone = true) →
      ∃ t, exec (Instr.spareSwap a) s = .next t ∧ (t.acqSt a).inSlot (s.acqSt a).slot = y.val ∧
      t.rd (acqB a) R.CAL_STATE_SPARE = (s.acqSt a).inSlot (s.acqSt a).slot ∧
      t.rd (scB a ((s.acqSt a).inSlot (s.acqSt a).slot)) R.SC_n_STATE_ROLE = 1 ∧
          t.rd (scB a y) R.SC_n_STATE_ROLE = 0 ∧
      t.rd (scB a y) R.SC_n_STATE_SLOT = (s.acqSt a).slot ∧ (∀ k : Fin 64, k.val ≠ (s.acqSt a).slot →
          (t.acqSt a).inSlot k = (s.acqSt a).inSlot k) ∧
      ((s.acqSt a).step = .run → (t.acqSt a).step = .run ∧
          (t.acqSt a).displaced = some ((s.acqSt a).inSlot (s.acqSt a).slot)) ∧
      ((s.acqSt a).step = .idle → (t.acqSt a).step = .none ∧ (t.acqSt a).displaced = none) ∧
      ((s.acqSt a).frozen = false → (t.acqSt a).nextSlot = ((s.acqSt a).slot + 1) % 64)) ∧
  (∀ (a : ADie) (x : Fin 65) (s : State), (s.acqSt a).step = .run → (s.acqSt a).displaced = some x.val →
      ∃ t, exec (Instr.trimUpdate a) s = .next t ∧ (t.acqSt a).displaced = none ∧
      t.trim a x 0 = clampI (-512) 511 (s.trim a x 0 + (trimDelta s a (tget (fun _ => ({} : Est)) (s.acqSt a).est (s.acqSt a).slot)).1) ∧
        t.trim a x 1 = clampI (-512) 511 (s.trim a x 1 + (trimDelta s a (tget (fun _ => ({} : Est)) (s.acqSt a).est (s.acqSt a).slot)).2.1) ∧
        t.trim a x 2 = clampI (-63) 63 (s.trim a x 2 + (trimDelta s a (tget (fun _ => ({} : Est)) (s.acqSt a).est (s.acqSt a).slot)).2.2) ∧
      ((s.acqSt a).abort = false → (t.acqSt a).step = .none ∧ (t.acqSt a).runSteps = (s.acqSt a).runSteps + 1)) ∧
  (∀ (a : ADie) (s : State), (s.acqSt a).step = .live → (s.acqSt a).windowDone = true →
      s.on (acqB a) R.ACQ_CTRL_LIVE_TRIM = true → (s.acqSt a).inSlot (s.acqSt a).slot < 65 →
      ∃ t, exec (Instr.liveTrimStep a) s = .next t ∧ (t.acqSt a).step = .none ∧
      t.trim a ((s.acqSt a).inSlot (s.acqSt a).slot) 0 = clampI (-512) 511 (s.trim a ((s.acqSt a).inSlot (s.acqSt a).slot) 0 + clampI (-1) 1 (trimDelta s a (tget (fun _ => ({} : Est)) (s.acqSt a).est (s.acqSt a).slot)).1) ∧
        t.trim a ((s.acqSt a).inSlot (s.acqSt a).slot) 1 = clampI (-512) 511 (s.trim a ((s.acqSt a).inSlot (s.acqSt a).slot) 1 + clampI (-1) 1 (trimDelta s a (tget (fun _ => ({} : Est)) (s.acqSt a).est (s.acqSt a).slot)).2.1) ∧
        t.trim a ((s.acqSt a).inSlot (s.acqSt a).slot) 2 = clampI (-63) 63 (s.trim a ((s.acqSt a).inSlot (s.acqSt a).slot) 2 + clampI (-1) 1 (trimDelta s a (tget (fun _ => ({} : Est)) (s.acqSt a).est (s.acqSt a).slot)).2.2) ∧
      ((s.acqSt a).abort = false → (t.acqSt a).runSteps = (s.acqSt a).runSteps + 1)) ∧
  (∀ (a : ADie) (n : Fin 65) (j : Nat) (rest : List (Nat × Nat)) (k : Fin 64) (s : State),
      (s.acqSt a).failing = (n.val, j) :: rest →
      (List.range 64).find? (fun k => (s.acqSt a).inSlot k == n.val) = some k.val →
      ∃ t, exec (Instr.failedScReplace a) s = .next t ∧ (t.acqSt a).failing = rest ∧
      (∀ y : Fin 65, s.spare a = some y.val → y ≠ n → (t.acqSt a).inSlot k = y.val ∧ (t.acqSt a).frozen = true ∧
        t.rd (acqB a) R.CAL_STATE_SPARE = 127 ∧ t.rd (scB a y) R.SC_n_STATE_ROLE = 0 ∧
            t.rd (scB a n) R.SC_n_STATE_ROLE = 2 ∧
        t.rd (acqB a) R.CAL_RETIRED_INDEX = n.val ∧ t.rd (acqB a) R.CAL_RETIRED_REASON = 2) ∧
      (s.spare a = none → (t.acqSt a).inSlot k = n.val ∧ n.val ∈ (t.acqSt a).degraded ∧
          t.on (acqB a) R.ACQ_STATUS_DEGRADED = true ∧
        t.on (acqB a) R.CAL_RETIRED_SECOND = true ∧
            t.flight.map (fun e => (e.source, e.detail)) = s.flight.map (fun e => (e.source, e.detail)) ++ [(82 + a.val, n.val)]))

/-- Calibration runs, their causes and commands, and the skew measurement (R53 to R65, R69 to R71).
* CAL_RUN_COMPLETE (R54, R55, R64, R66): a run that has all its steps counts, UNCAL clears and IDLE follows; with
  RERUN set under AUTO a further run starts with the cause that arose first.
* CAL_TEMP_READ (R53): the die temperature is shown; a move by more than TEMP_DELTA since the last run starts a run
  with cause TEMP under AUTO.
* CAL_INTERVAL_EXPIRE (R53, R54, R57): MAX_INTERVAL after a run has ended, under AUTO, a run with cause INTERVAL
  starts; during a run RERUN sets; during an idle step the cause waits for its end.
* CAL_STAT_TIMEOUT (R59, R60): a step that has waited STAT_TIMEOUT counts a timeout, raises source 84 or 85 with the
  slot, and goes on; a window that completes in this cycle counts as completed, so it is not such a step (R14).
* CAL_CMD_RUN (R53, R54, R57, R63): under AUTO or VERIFY a run with cause HOST starts; during a run RERUN sets;
  during an idle step the cause waits; in FROZEN this needs LIVE_TRIM (log entry 176).
* CAL_CMD_ABORT (R65): RERUN clears; a run ends after its current step, or at once between steps, and does not
  count.
* CAL_CMD_XSKEW (R69, R71): in the S8G-8D the measurement starts on A0; the S8G-4D sets NA; A1 and the S8G-2D do
  nothing.
* XSKEW_COMPLETE (R69, R70, R71): a peak of at least half the ideal one and inside the search gives a valid result,
  which APPLY adds to A1's board delay; otherwise the measurement fails. Where between two samples the peak lies,
  and a sum that the field cannot hold, are open values (log entries 178 and 20).
* CAL_MODE_WRITE (R64, R65): a change to OFF abandons the step, a change from OFF starts as an enable does, and a
  change between VERIFY and AUTO leaves a run in progress alone. -/
def Obligations.CalRunRowsComplete : Prop :=
  (∀ (a : ADie) (s : State), (s.acqSt a).phase = .run → (s.acqSt a).step = .none →
      (s.acqSt a).runLength ≤ (s.acqSt a).runSteps → ∃ t, exec (Instr.calRunComplete a) s = .next t ∧
      t.rd (acqB a) R.CAL_RUN_COUNT_RUNS = min (2 ^ 32 - 1) (s.rd (acqB a) R.CAL_RUN_COUNT_RUNS + 1) ∧
      t.on (acqB a) R.ACQ_STATUS_UNCAL = false ∧ (t.acqSt a).ranOnce = true ∧ (t.acqSt a).step = .none ∧
      ((s.acqSt a).rerunCause = none → (t.acqSt a).phase = .idle) ∧
      (∀ c ∈ (s.acqSt a).rerunCause, s.calMode a = 2 → s.calHold a = false → (t.acqSt a).phase = .run ∧
          (t.acqSt a).runSteps = 0 ∧
        t.rd (acqB a) R.CAL_STATE_CAUSE = c % 8 ∧ t.on (acqB a) R.CAL_STATE_RERUN = false)) ∧
  (∀ (a : ADie) (temp : BitVec 16) (s : State), s.hasA a = true → ∃ t, exec (Instr.calTempRead a temp) s = .next t ∧
      t.rd (acqB a) R.CAL_TEMP_TEMP_NOW = temp.toNat ∧
      ((temp.toInt - s.rdI (acqB a) R.CAL_TEMP_TEMP_REF).natAbs ≤ s.rd (acqB a) R.CAL_CTRL_TEMP_DELTA →
          t.acqSt a = s.acqSt a) ∧
      (s.rd (acqB a) R.CAL_CTRL_TEMP_DELTA < (temp.toInt - s.rdI (acqB a) R.CAL_TEMP_TEMP_REF).natAbs →
          (s.acqSt a).enabled = true →
        s.calMode a = 2 → (s.acqSt a).frozen = false → (s.acqSt a).phase ≠ .run → (s.acqSt a).step = .none →
            s.calHold a = false →
        (t.acqSt a).phase = .run ∧ t.rd (acqB a) R.CAL_STATE_CAUSE = 1)) ∧
  (∀ (a : ADie) (s : State), s.rd (acqB a) R.CAL_LIMITS_MAX_INTERVAL ≠ 0 → (s.acqSt a).ranOnce = true →
      (s.acqSt a).enabled = true → s.calMode a = 2 → (s.acqSt a).frozen = false →
      ∃ t, exec (Instr.calIntervalExpire a) s = .next t ∧ ((s.acqSt a).phase ≠ .run → (s.acqSt a).step = .none →
      s.calHold a = false → (t.acqSt a).phase = .run ∧ t.rd (acqB a) R.CAL_STATE_CAUSE = 2) ∧
      ((s.acqSt a).phase = .run → (t.acqSt a).rerunCause = some ((s.acqSt a).rerunCause.getD 2) ∧
          t.on (acqB a) R.CAL_STATE_RERUN = true) ∧
      ((s.acqSt a).phase ≠ .run → (s.acqSt a).step ≠ .none →
          (t.acqSt a).idleCause = some ((s.acqSt a).idleCause.getD 2))) ∧
  (∀ (a : ADie) (s : State), (s.acqSt a).step ≠ .none → s.rd (acqB a) R.CAL_LIMITS_STAT_TIMEOUT ≠ 0 →
      (s.acqSt a).doneAt ≠ some s.time.frc → (s.acqSt a).step = .idle ∨ (s.acqSt a).windowDone = true ∨
      (s.acqSt a).subs.length < 64 → ∃ t, exec (Instr.calStatTimeout a) s = .next t ∧
      t.flight.map (fun e => (e.source, e.detail)) = s.flight.map (fun e => (e.source, e.detail)) ++ [(84 + a.val, (s.acqSt a).slot % 2 ^ 64)] ∧
      t.rd (acqB a) R.CAL_TIMEOUT_COUNT_TIMEOUTS = min (2 ^ R.CAL_TIMEOUT_COUNT_TIMEOUTS.w - 1) (s.rd (acqB a) R.CAL_TIMEOUT_COUNT_TIMEOUTS + 1) ∧
      t.acqSt a = s.acqSt a) ∧
  (∀ (a : ADie) (s : State), s.hasA a = true → (s.acqSt a).enabled = true → s.calMode a ≠ 0 →
      (s.acqSt a).frozen = false ∨ s.on (acqB a) R.ACQ_CTRL_LIVE_TRIM = true →
      ∃ t, exec (Instr.calCmdRun a) s = .next t ∧ ((s.acqSt a).phase ≠ .run → (s.acqSt a).step = .none →
      s.calHold a = false → (t.acqSt a).phase = .run ∧ t.rd (acqB a) R.CAL_STATE_CAUSE = 4) ∧
      ((s.acqSt a).phase = .run → (t.acqSt a).rerunCause = some ((s.acqSt a).rerunCause.getD 4) ∧
          t.on (acqB a) R.CAL_STATE_RERUN = true) ∧
      ((s.acqSt a).phase ≠ .run → (s.acqSt a).step ≠ .none →
          (t.acqSt a).idleCause = some ((s.acqSt a).idleCause.getD 4))) ∧
  (∀ (a : ADie) (s : State), s.hasA a = true → ∃ t, exec (Instr.calCmdAbort a) s = .next t ∧
      (t.acqSt a).rerunCause = none ∧ t.on (acqB a) R.CAL_STATE_RERUN = false ∧
      ((s.acqSt a).phase = .run → (s.acqSt a).step ≠ .none → (t.acqSt a).abort = true ∧
          (t.acqSt a).step = (s.acqSt a).step ∧ (t.acqSt a).phase = .run) ∧
      ((s.acqSt a).phase = .run → (s.acqSt a).step = .none → (t.acqSt a).phase = .idle ∧
        t.rd (acqB a) R.CAL_RUN_COUNT_RUNS = s.rd (acqB a) R.CAL_RUN_COUNT_RUNS)) ∧
  (∀ (a : ADie) (s : State), ∃ t, exec (Instr.calCmdXskew a) s = .next t ∧ (s.part = .s8d → a = 0 →
      (t.acqSt 0).xskew = some (s.recvSample 0)) ∧ (s.part = .s4d → a = 0 → t.on (acqB 0) R.XSKEW_RESULT_NA = true) ∧
      (a = 1 ∨ s.part = .s2d → t.acqSt 0 = s.acqSt 0 ∧ t.regs = s.regs)) ∧
  (∀ (j : Nat) (s : State), (s.acqSt 0).xskew = some j → j + 2 ^ 24 ≤ s.streamHead 0 →
      j + 2 ^ 24 + 64 ≤ s.streamHead 1 → ∃ t, exec (Instr.xskewComplete) s = .next t ∧ (t.acqSt 0).xskew = none ∧
      (4 * (xskewPeak s j).2.1 < (xskewPeak s j).2.2 ∨ (xskewPeak s j).2.1 = 0 ∨ (xskewPeak s j).1.natAbs = 64 →
        t.on (acqB 0) R.XSKEW_RESULT_VALID = false ∧ t.on (acqB 0) R.XSKEW_RESULT_FAIL = true) ∧
      (¬ (4 * (xskewPeak s j).2.1 < (xskewPeak s j).2.2 ∨ (xskewPeak s j).2.1 = 0 ∨ (xskewPeak s j).1.natAbs = 64) →
        t.on (acqB 0) R.XSKEW_RESULT_VALID = true ∧ t.on (acqB 0) R.XSKEW_RESULT_FAIL = false ∧
        t.rd (acqB 0) R.XSKEW_RESULT_SKEW = enc 24 (xskewSteps j (xskewPeak s j).1) ∧
        (s.on (acqB 0) R.XSKEW_CTRL_APPLY = true → t.rd (acqB 1) R.ACQ_DELAY_BOARD_DELAY =
          boardSum (s.rdI (acqB 1) R.ACQ_DELAY_BOARD_DELAY) (xskewSteps j (xskewPeak s j).1)))) ∧
  (∀ (a : ADie) (mode : BitVec 2) (s : State), s.hasA a = true → ∃ t, exec (Instr.calModeWrite a mode) s = .next t ∧
      t.rd (acqB a) R.CAL_CTRL_MODE = mode.toNat ∧
      ((s.acqSt a).enabled = true → mode = 0 → s.calMode a ≠ 0 → (t.acqSt a).phase = .off ∧
          (t.acqSt a).step = .none) ∧
      ((s.acqSt a).enabled = true → mode = 1 → s.calMode a = 0 → (s.acqSt a).rerunCause ≠ some 4 →
          (t.acqSt a).phase = .idle ∧ (t.acqSt a).step = .none) ∧
      ((s.acqSt a).enabled = true → 2 ≤ mode.toNat → s.calMode a = 0 → (s.acqSt a).frozen = false →
          s.calHold a = false → (t.acqSt a).phase = .run ∧
        t.rd (acqB a) R.CAL_STATE_CAUSE = 0) ∧
      (s.calMode a ≠ 0 → mode ≠ 0 → (s.acqSt a).phase = .run → (t.acqSt a).phase = .run ∧
          (t.acqSt a).step = (s.acqSt a).step))

/-- The JESD204C input of the S8G-2D (R77 to R81).
* JRX_ENABLE (R77): the receiver is enabled and its lanes start to lock.
* JRX_LANE_LOCK (R77, R81): the lane is locked, its arrival held, and EARLY and LATE take it in. That they keep the
  arrival of a lane that locks again is the model's choice (log entry 179).
* JRX_RELEASE (R78, R79): with every lane's data there the first release starts the stream at sample 0 and its FRC
  value is R_L, and a later one ends a gap; otherwise RBD_ERR sets, source 66 is raised, and the stream is lost from
  here until a release succeeds.
* JRX_CRC_ERROR (R80): the error is counted and CRC_ERR sets.
* JRX_LANE_LOCK_LOSS (R80, R616): the lane is no longer locked, source 66 names it, and the samples lost meanwhile
  are flagged. -/
def Obligations.JrxRowsComplete : Prop :=
  (∀ (s : State), s.part = .s2d → s.on (jrxB 0) R.JRX_CTRL_EN = false → ∃ t, exec (Instr.jrxEnable) s = .next t ∧
      t.on (jrxB 0) R.JRX_CTRL_EN = true ∧ t.rd (jrxB 0) R.JRX_STATUS_LANE_LOCK = 0 ∧
      t.on (jrxB 0) R.JRX_STATUS_READY = false ∧ t.jrx = {}) ∧
  (∀ (lane : Fin 16) (v : BitVec 16) (s : State), s.part = .s2d → s.on (jrxB 0) R.JRX_CTRL_EN = true →
      lane.val < s.jrxLanes → ∃ t, exec (Instr.jrxLaneLock lane v) s = .next t ∧
      t.rd (jrxB 0) R.JRX_STATUS_LANE_LOCK = s.rd (jrxB 0) R.JRX_STATUS_LANE_LOCK ||| 2 ^ lane.val ∧
      tget (fun _ => 0) t.jrx.arrival lane = v.toNat ∧
      (s.rd (jrxB 0) R.JRX_STATUS_LANE_LOCK = 0 →
          t.rd (jrxB 0) R.JRX_ARRIVAL_EARLY = v.toNat % 2 ^ R.JRX_ARRIVAL_EARLY.w ∧
        t.rd (jrxB 0) R.JRX_ARRIVAL_LATE = v.toNat % 2 ^ R.JRX_ARRIVAL_LATE.w) ∧
      (s.rd (jrxB 0) R.JRX_STATUS_LANE_LOCK ≠ 0 → t.rd (jrxB 0) R.JRX_ARRIVAL_EARLY =
        min v.toNat (s.rd (jrxB 0) R.JRX_ARRIVAL_EARLY) % 2 ^ R.JRX_ARRIVAL_EARLY.w ∧
            t.rd (jrxB 0) R.JRX_ARRIVAL_LATE =
        max v.toNat (s.rd (jrxB 0) R.JRX_ARRIVAL_LATE) % 2 ^ R.JRX_ARRIVAL_LATE.w)) ∧
  (∀ (s : State), s.part = .s2d → s.on (jrxB 0) R.JRX_CTRL_EN = true → s.jrxLocked = true → s.jrx.lemc ≠ none →
      ∃ t, exec (Instr.jrxRelease) s = .next t ∧ (s.jrxLate = [] → s.on (jrxB 0) R.JRX_STATUS_READY = false →
      t.on (jrxB 0) R.JRX_STATUS_READY = true ∧
        t.time.rl = some s.time.frc ∧ t.jrx.next = 0) ∧
      (s.jrxLate = [] → s.on (jrxB 0) R.JRX_STATUS_READY = true → t.jrx.lostFrom = none ∧ t.time.rl = s.time.rl) ∧
      (s.jrxLate ≠ [] → t.on (jrxB 0) R.JRX_STATUS_RBD_ERR = true ∧
        t.flight.map (·.source) = s.flight.map (·.source) ++ [66] ∧
        (s.on (jrxB 0) R.JRX_STATUS_READY = true → t.jrx.lostFrom = some (s.jrx.lostFrom.getD s.jrx.next)))) ∧
  (∀ (s : State), s.part = .s2d → s.on (jrxB 0) R.JRX_CTRL_EN = true → ∃ t, exec (Instr.jrxCrcError) s = .next t ∧
      t.on (jrxB 0) R.JRX_STATUS_CRC_ERR = true ∧
      t.rd (jrxB 0) R.JRX_ERR_COUNT_ERRORS = min (2 ^ R.JRX_ERR_COUNT_ERRORS.w - 1) (s.rd (jrxB 0) R.JRX_ERR_COUNT_ERRORS + 1)) ∧
  (∀ (lane : Fin 16) (first last : Nat) (s : State), s.part = .s2d →
      bit (s.rd (jrxB 0) R.JRX_STATUS_LANE_LOCK) lane = true →
      ∃ t, exec (Instr.jrxLaneLockLoss lane first last) s = .next t ∧
      t.rd (jrxB 0) R.JRX_STATUS_LANE_LOCK = s.rd (jrxB 0) R.JRX_STATUS_LANE_LOCK - 2 ^ lane.val ∧
      (∀ j, first ≤ j → j ≤ last → bit (t.statusOf 0 j j) 7 = true) ∧
      t.flight.map (fun e => (e.source, e.detail)) = s.flight.map (fun e => (e.source, e.detail)) ++ [(66, 2 ^ lane.val)])

/-- The wide-band transform: its commit and switch, its data port, spectra and repaired traces (R92 to R97, R100, R103
to R119).
* WB_COMMIT on a lead die (R92 to R95): while a hand-over is pending or held the commit is held; otherwise the whole
  shadow set and table become the live ones, PENDING sets, the switch is counted and its sample is the least
  multiple of 65,536 at least 20,480 after the sample being received, or waits for the stream; with too few
  pipelines NO_PIPES sets and nothing is handed over. What counts as the sample being received is the model's
  reading (log entry 30).
* WB_REVERT (R88, R96): the live set and table come back into the shadow set and DIRTY clears; on a partner die the
  copied words stay.
* WB_HELD_HANDOVER (R94): once PENDING has cleared the shadow set is handed over as it stands.
* WB_SWITCH (R92, R97, R103, R113): at the switch sample the live set and table take effect, the counts of spectra
  start there, and RUN and PIPES follow. That the row stands between the last spectrum of the old setting and the
  first of the new is the model's reading (log entry 38).
* WB_PENDING_CLEAR (R92, R104): after the switch, and the first spectrum of each die that computes some, PENDING
  clears.
* WTAB_DATA_ACCESS, a write (R91, R100): the shadow coefficient at ADDR takes the value, DIRTY sets and ADDR steps
  on, wrapping.
* WTAB_DATA_ACCESS, a read (R91, R100): the coefficient of the bank that VIEW selects, and ADDR steps on.
* SPECTRUM_COMPLETE, a spectrum that is due (R103 to R111): its pipeline computes it, it is counted with its
  saturated bins, and every EVERY-th of the lead die goes out as an item of levels or of bins. The phase of EVERY,
  the rounding of bins and the ends of the accuracy of levels are the model's choices or open values (log entries
  37, 180 and 35).
* SPECTRUM_COMPLETE in a pipeline that has failed (R119): the spectrum is lost, neither counted nor output, and
  waits to be recomputed.
* SPECTRUM_COMPLETE of a replay (R119, R153, R225): a lost spectrum is recomputed from the Tarn, counted and no
  longer lost. In which die's registers it counts is the model's choice (log entry 181).
* DETECT_MERGE (R114, R115): the parts of the oldest interval are merged by their counts, and the result joins the
  trace in progress or completes it, which then goes out as an item.
* TRACE_REPAIR_OUTPUT (R119): once every spectrum the trace lacked has been recomputed the trace goes out again,
  REPAIRED and with the same FIRST, from the samples in the Tarn. -/
def Obligations.WbRowsComplete : Prop :=
  (∀ (d : TDie) (s : State), s.usableT d = true → isLead d = true → ∃ t, exec (Instr.wbCommit d) s = .next t ∧
      (s.on (wbB d) R.WB_SHADOW_PENDING = true ∨ s.on (wbB d) R.WB_SHADOW_HELD = true →
        t.on (wbB d) R.WB_SHADOW_HELD = true ∧ t.live = s.live ∧ t.tabL = s.tabL) ∧
      (s.on (wbB d) R.WB_SHADOW_PENDING = false → s.on (wbB d) R.WB_SHADOW_HELD = false →
          (s.on (wbB d) R.WB_CTRL_EN = false ∨ 2 ^ s.rd (wbB d) R.WB_CTRL_OVERLAP ≤ pipesHeld s d) →
        (∀ o ∈ ([0x4, 0x8, 0xC, 0x10, 0x14, 0x18, 0x1C, 0x20] : List Nat),
            t.liveReg (wbB d + o) = s.reg (wbB d + o)) ∧
            (∀ k : Fin 65536, tget tabReset t.tabL (wtabKey d k) = tget tabReset s.tabS (wtabKey d k)) ∧
        t.on (wbB d) R.WB_SHADOW_PENDING = true ∧ t.on (wbB d) R.WB_SHADOW_SHADOW_DIRTY = false ∧
        t.rd (wbB d) R.WB_SWITCH_COUNT_SWITCHES = min (2 ^ R.WB_SWITCH_COUNT_SWITCHES.w - 1) (s.rd (wbB d) R.WB_SWITCH_COUNT_SWITCHES + 1) ∧
        (wbClamped t d = true → t.on (wbB d) R.WB_STATUS_CLAMP = true) ∧
        ((s.wbSt d).running = true → (t.wbSt d).sw = some (ceilTo 65536 (s.recvSample (inputOf d) + 20480))) ∧
        ((s.wbSt d).running = false → (t.wbSt d).waitStart = true)) ∧
      (s.on (wbB d) R.WB_SHADOW_PENDING = false → s.on (wbB d) R.WB_SHADOW_HELD = false →
          (s.on (wbB d) R.WB_CTRL_EN = true ∧ pipesHeld s d < 2 ^ s.rd (wbB d) R.WB_CTRL_OVERLAP) →
        t.on (wbB d) R.WB_STATUS_NO_PIPES = true ∧ t.live = s.live ∧ (t.wbSt d).sw = (s.wbSt d).sw)) ∧
  (∀ (d : TDie) (s : State), s.usableT d = true → ∃ t, exec (Instr.wbRevert d) s = .next t ∧
      (∀ o ∈ ([0x10, 0x14, 0x18, 0x1C, 0x20] : List Nat), t.reg (wbB d + o) = s.liveReg (wbB d + o)) ∧
      (isLead d = true → ∀ o ∈ ([0x4, 0x8, 0xC] : List Nat), t.reg (wbB d + o) = s.liveReg (wbB d + o)) ∧
      (∀ k : Fin 65536, tget tabReset t.tabS (wtabKey d k) = tget tabReset s.tabL (wtabKey d k)) ∧
          t.on (wbB d) R.WB_SHADOW_SHADOW_DIRTY = false ∧ t.live = s.live) ∧
  (∀ (d : TDie) (s : State), s.on (wbB d) R.WB_SHADOW_HELD = true → s.on (wbB d) R.WB_SHADOW_PENDING = false →
      ∃ t, exec (Instr.wbHeldHandover d) s = .next t ∧ t.on (wbB d) R.WB_SHADOW_HELD = false ∧
      ((s.on (wbB d) R.WB_CTRL_EN = false ∨ 2 ^ s.rd (wbB d) R.WB_CTRL_OVERLAP ≤ pipesHeld s d) →
          (∀ o ∈ ([0x4, 0x8, 0xC, 0x10, 0x14, 0x18, 0x1C, 0x20] : List Nat),
          t.liveReg (wbB d + o) = s.reg (wbB d + o)) ∧
          (∀ k : Fin 65536, tget tabReset t.tabL (wtabKey d k) = tget tabReset s.tabS (wtabKey d k)) ∧
          t.on (wbB d) R.WB_SHADOW_PENDING = true ∧
        t.on (wbB d) R.WB_SHADOW_SHADOW_DIRTY = false) ∧
      ((s.on (wbB d) R.WB_CTRL_EN = true ∧ pipesHeld s d < 2 ^ s.rd (wbB d) R.WB_CTRL_OVERLAP) →
          t.on (wbB d) R.WB_STATUS_NO_PIPES = true ∧ t.live = s.live ∧ (t.wbSt d).sw = (s.wbSt d).sw ∧
          t.on (wbB d) R.WB_SHADOW_PENDING = false)) ∧
  (∀ (d : TDie) (sw : Nat) (s : State), (s.wbSt d).sw = some sw → ∃ t, exec (Instr.wbSwitch d) s = .next t ∧
      (t.wbSt d).sw = none ∧ (∀ o ∈ ([0x4, 0x8, 0xC, 0x10, 0x14, 0x18, 0x1C, 0x20] : List Nat),
      t.forceReg (wbB d + o) = s.liveReg (wbB d + o)) ∧
      (∀ k : Fin 65536, tget tabReset t.tabF (wtabKey d k) = tget tabReset s.tabL (wtabKey d k)) ∧
      (t.wbSt d).tunes = (sw, clampTune (tuneOf s.rdL d)) :: (s.wbSt d).tunes ∧
          (t.wbSt d).baseIdx = wbNextIdx s d sw ∧
      (t.wbSt d).baseStart = ceilTo (t.wbHop d) sw ∧
      t.on (wbB d) R.WB_STATUS_RUN = (t.onF (wbB d) R.WB_CTRL_EN && (s.wbSt d).running) ∧
      t.rd (wbB d) R.WB_STATUS_PIPES = (if t.onF (wbB d) R.WB_CTRL_EN then 2 ^ t.wbOverlap d else 0)) ∧
  (∀ (d : TDie) (s : State), s.on (wbB d) R.WB_SHADOW_PENDING = true → (s.wbSt d).sw = none →
      (s.wbSt d).waitStart = false → s.onF (wbB d) R.WB_CTRL_EN = false ∨ ((s.wbSt d).baseIdx < (s.wbSt d).doneLead ∧
      (s.wbOverlap d ≠ 3 ∨ s.usableT (d + 1 : Nat) = false ∨ (s.wbSt d).baseIdx < (s.wbSt d).donePartner)) →
      ∃ t, exec (Instr.wbPendingClear d) s = .next t ∧ t.on (wbB d) R.WB_SHADOW_PENDING = false ∧ t.wb = s.wb ∧
      t.live = s.live) ∧
  (∀ (d : TDie) (v : BitVec 18) (s : State), s.hasT d = true →
      ∃ t, exec (Instr.wtabDataAccess d (some v)) s = .next t ∧
      tget tabReset t.tabS (wtabKey d (s.rd (wbB d) R.WB_WTAB_ADDR_ADDR)) = v.setWidth 32 ∧ t.tabL = s.tabL ∧
      t.on (wbB d) R.WB_SHADOW_SHADOW_DIRTY = true ∧
      t.rd (wbB d) R.WB_WTAB_ADDR_ADDR = (s.rd (wbB d) R.WB_WTAB_ADDR_ADDR + 1) % 65536) ∧
  (∀ (d : TDie) (s : State), s.hasT d = true → ∃ t, exec (Instr.wtabDataAccess d none) s = .next t ∧
      t.readData = tget tabReset (if s.on (wbB d) R.WB_SHADOW_VIEW then s.tabL else s.tabS)
        (wtabKey d (s.rd (wbB d) R.WB_WTAB_ADDR_ADDR)) ∧ t.tabS = s.tabS ∧
      t.rd (wbB d) R.WB_WTAB_ADDR_ADDR = (s.rd (wbB d) R.WB_WTAB_ADDR_ADDR + 1) % 65536) ∧
  (∀ (d : TDie) (start : Nat) (s : State), specDue s d start = true →
      (pipeOf s (pairLead d) start).any (fun p => s.brokenPipes.contains (4 * p.1 + p.2)) = false →
      ∃ t, exec (Instr.spectrumComplete d start false) s = .next t ∧
      (if d.val = pairLead d then (t.wbSt (pairLead d)).doneLead else (t.wbSt (pairLead d)).donePartner) = ((s.wbSet (pairLead d)).baseIdx + (s.wbSet (pairLead d)).numberOf start) + 1 ∧ t.rd (wbB d) R.WB_SPEC_COUNT_SPECTRA = (s.rd (wbB d) R.WB_SPEC_COUNT_SPECTRA + 1) % 2 ^ 32 ∧
      t.rd (wbB d) R.WB_SAT_COUNT_SATURATIONS = min (2 ^ 32 - 1) (s.rd (wbB d) R.WB_SAT_COUNT_SATURATIONS + (specInfo s d (s.wbSet (pairLead d)) ((s.wbSet (pairLead d)).baseIdx + (s.wbSet (pairLead d)).numberOf start) (s.dieSample d) (s.statusOf d start (start + (s.wbSet (pairLead d)).n - 1))).2.1) ∧
      (t.wbSt (pairLead d)).lost = (s.wbSt (pairLead d)).lost ∧
      (d.val = pairLead d → (s.wbSet (pairLead d)).out = 1 →
          (((s.wbSet (pairLead d)).baseIdx + (s.wbSet (pairLead d)).numberOf start) - (s.wbSet (pairLead d)).baseIdx) % (s.wbSet (pairLead d)).every = 0 →
        (inputOf (pairLead d), itemHeader 2 (inputOf (pairLead d)) (specInfo s d (s.wbSet (pairLead d)) ((s.wbSet (pairLead d)).baseIdx + (s.wbSet (pairLead d)).numberOf start) (s.dieSample d) (s.statusOf d start (start + (s.wbSet (pairLead d)).n - 1))).1.flags (s.wbSet (pairLead d)).log2n (s.wbSet (pairLead d)).window 0xFF 0 (specInfo s d (s.wbSet (pairLead d)) ((s.wbSet (pairLead d)).baseIdx + (s.wbSet (pairLead d)).numberOf start) (s.dieSample d) (s.statusOf d start (start + (s.wbSet (pairLead d)).n - 1))).1.sts ((s.wbSet (pairLead d)).baseIdx + (s.wbSet (pairLead d)).numberOf start) 1
          ++ levelBytes (specInfo s d (s.wbSet (pairLead d)) ((s.wbSet (pairLead d)).baseIdx + (s.wbSet (pairLead d)).numberOf start) (s.dieSample d) (s.statusOf d start (start + (s.wbSet (pairLead d)).n - 1))).1.lv) ∈ t.items) ∧
      (d.val = pairLead d → (s.wbSet (pairLead d)).out = 2 →
          (((s.wbSet (pairLead d)).baseIdx + (s.wbSet (pairLead d)).numberOf start) - (s.wbSet (pairLead d)).baseIdx) % (s.wbSet (pairLead d)).every = 0 →
        (inputOf (pairLead d), itemHeader 1 (inputOf (pairLead d)) (specInfo s d (s.wbSet (pairLead d)) ((s.wbSet (pairLead d)).baseIdx + (s.wbSet (pairLead d)).numberOf start) (s.dieSample d) (s.statusOf d start (start + (s.wbSet (pairLead d)).n - 1))).1.flags (s.wbSet (pairLead d)).log2n (s.wbSet (pairLead d)).window 0xFF (specInfo s d (s.wbSet (pairLead d)) ((s.wbSet (pairLead d)).baseIdx + (s.wbSet (pairLead d)).numberOf start) (s.dieSample d) (s.statusOf d start (start + (s.wbSet (pairLead d)).n - 1))).2.2.2 (specInfo s d (s.wbSet (pairLead d)) ((s.wbSet (pairLead d)).baseIdx + (s.wbSet (pairLead d)).numberOf start) (s.dieSample d) (s.statusOf d start (start + (s.wbSet (pairLead d)).n - 1))).1.sts ((s.wbSet (pairLead d)).baseIdx + (s.wbSet (pairLead d)).numberOf start) 1
          ++ cplxBytes (specInfo s d (s.wbSet (pairLead d)) ((s.wbSet (pairLead d)).baseIdx + (s.wbSet (pairLead d)).numberOf start) (s.dieSample d) (s.statusOf d start (start + (s.wbSet (pairLead d)).n - 1))).2.2.1) ∈ t.items)) ∧
  (∀ (d : TDie) (start : Nat) (s : State), specDue s d start = true →
      (pipeOf s (pairLead d) start).any (fun p => s.brokenPipes.contains (4 * p.1 + p.2)) = true →
      ∃ t, exec (Instr.spectrumComplete d start false) s = .next t ∧
      (if d.val = pairLead d then (t.wbSt (pairLead d)).doneLead else (t.wbSt (pairLead d)).donePartner) = ((s.wbSet (pairLead d)).baseIdx + (s.wbSet (pairLead d)).numberOf start) + 1 ∧ (∃ e ∈ (t.wbSt (pairLead d)).lost, e.start = start ∧ e.idx = ((s.wbSet (pairLead d)).baseIdx + (s.wbSet (pairLead d)).numberOf start)) ∧
      t.rd (wbB d) R.WB_SPEC_COUNT_SPECTRA = s.rd (wbB d) R.WB_SPEC_COUNT_SPECTRA ∧ t.items = s.items) ∧
  (∀ (d : TDie) (start : Nat) (e : LostSpec) (s : State),
      (s.wbSt (pairLead d)).lost.find? (fun x => x.start == start) = some e → s.usableT d = true →
      pipeReplay s (pairLead d) = true → ∃ t, exec (Instr.spectrumComplete d start true) s = .next t ∧
      t.rd (wbB d) R.WB_SPEC_COUNT_SPECTRA = (s.rd (wbB d) R.WB_SPEC_COUNT_SPECTRA + 1) % 2 ^ 32 ∧
      (t.wbSt (pairLead d)).lost = (s.wbSt (pairLead d)).lost.filter (fun x => x != e)) ∧
  (∀ (d : TDie) (p : Det) (s : State), isLead d = true → s.wbOverlap d = 3 → mergeReady s d = true →
      (s.wbSt d).parts.head? = some p → ∃ t, exec (Instr.detectMerge d) s = .next t ∧
      (t.wbSt d).parts = (s.wbSt d).parts.filter (fun x => x.iv != ((s.wbSt d).parts.foldl (fun m x => min m x.iv) p.iv)) ∧
      (s.onF (wbB d) R.WB_AVG_TRACE_EN = true →
          ((s.wbSt d).parts.foldl (fun m x => min m x.iv) p.iv) % s.wbL d ≠ s.wbL d - 1 →
          (t.wbSt d).trace = (if (s.wbSt d).trace.ivs ≠ 0 ∧
          (s.wbSt d).trace.tr ≠ ((s.wbSt d).parts.foldl (fun m x => min m x.iv) p.iv) / s.wbL d then {} else (s.wbSt d).trace).add (((s.wbSt d).parts.foldl (fun m x => min m x.iv) p.iv) / s.wbL d) (detResult (s.wbDet d) (((s.wbSt d).parts.filter fun x => x.iv == ((s.wbSt d).parts.foldl (fun m x => min m x.iv) p.iv)).foldl (detJoin (s.wbDet d)) {}))) ∧
      (s.onF (wbB d) R.WB_AVG_TRACE_EN = true →
          ((s.wbSt d).parts.foldl (fun m x => min m x.iv) p.iv) % s.wbL d = s.wbL d - 1 → (t.wbSt d).trace = {} ∧
        (inputOf d, traceBytes (s.wbSet d) (inputOf d)
          (if ((if (s.wbSt d).trace.ivs ≠ 0 ∧
              (s.wbSt d).trace.tr ≠ ((s.wbSt d).parts.foldl (fun m x => min m x.iv) p.iv) / s.wbL d then {} else (s.wbSt d).trace).add (((s.wbSt d).parts.foldl (fun m x => min m x.iv) p.iv) / s.wbL d) (detResult (s.wbDet d) (((s.wbSt d).parts.filter fun x => x.iv == ((s.wbSt d).parts.foldl (fun m x => min m x.iv) p.iv)).foldl (detJoin (s.wbDet d)) {}))).det.n < s.wbD d * s.wbL d then 32 else 0)
          ((if (s.wbSt d).trace.ivs ≠ 0 ∧
              (s.wbSt d).trace.tr ≠ ((s.wbSt d).parts.foldl (fun m x => min m x.iv) p.iv) / s.wbL d then {} else (s.wbSt d).trace).add (((s.wbSt d).parts.foldl (fun m x => min m x.iv) p.iv) / s.wbL d) (detResult (s.wbDet d) (((s.wbSt d).parts.filter fun x => x.iv == ((s.wbSt d).parts.foldl (fun m x => min m x.iv) p.iv)).foldl (detJoin (s.wbDet d)) {})))) ∈ t.items)) ∧
  (∀ (d : TDie) (first : Nat) (e : TraceLack) (s : State),
      (s.wbSt (pairLead d)).incomplete.find? (fun x => x.first == first) = some e → s.usableT d = true →
      e.set.baseIdx ≠ (s.wbSt (pairLead d)).baseIdx ∨ first + e.n ≤ (s.wbSt (pairLead d)).relIdx →
      ((s.wbSt (pairLead d)).lost.any fun x => decide (first ≤ x.idx) && decide (x.idx < first + e.n)) = false →
      ∃ t, exec (Instr.traceRepairOutput d first) s = .next t ∧
      (t.wbSt (pairLead d)).incomplete = (s.wbSt (pairLead d)).incomplete.filter (fun x => x != e) ∧
      (e.n = 0 → t.items = s.items) ∧
      (e.n ≠ 0 → t.items = s.items ++ [(inputOf (pairLead d), traceBytes e.set (inputOf (pairLead d))
        (64 ||| if e.n < e.set.d * e.set.l then 32 else 0)
        (traceOf e.set ((List.range e.n).map fun k => (replayInfo s (pairLead d) e.set (first + k)).1)))]))

/-- Conditions in the time domain, external hits, the fabric and its units (R137, R138, R143 to R147, R149, R151, R152).
* LEVEL_HIT (R137, R152): the condition judges sample after sample of its die's stream by LEVEL and HYST; the first
  that carries it past the threshold changes its state, is a hit in the direction of POL, and enters the log at that
  sample. How many samples one command judges is the model's choice (log entry 182).
* LEVEL_HIT where no sample received so far carries the condition past its threshold (R137): it has judged them all
  and nothing else changes.
* WIDTH_HIT, a pulse of allowed width (R138): its end makes a hit placed at its first sample, whose state is true
  for that sample.
* WIDTH_HIT with OUTSIDE, a pulse shorter than WMIN (R138): its end makes the hit, placed at its first sample.
* WIDTH_HIT with OUTSIDE, a pulse that becomes longer than WMAX (R138): the hit, placed at its first sample, comes
  while the pulse lasts.
* WIDTH_HIT, the end of a pulse that was too long (R138): the condition's state ends with it.
* FABRIC_EVALUATE over samples with nothing in the log (R151): they are evaluated and nothing happens.
* FABRIC_EVALUATE, a hit for a unit in SINGLE mode with an OR set (R144, R145, R149, R151, R154): the unit, armed
  and in no holdoff, issues an event at the hit's sample.
* FABRIC_EVALUATE, a hit of set B within the window of a held firing of A (R145, R146): the unit in SEQUENCE mode
  issues an event at the sample of B and holds A no longer.
* DROPOUT_WINDOW_EXPIRE (R145, R154): the window of a held firing is over; a unit in DROPOUT mode issues an event at
  its end, flagged MISSING. That a SEQUENCE unit gives up its firing there is the model's choice (log entry 183).
* HOLDOFF_END (R147): once the fabric is past its holdoffs the unit shows none.
* TRGU_FORCE (R143, R144): a HOST hit at the sample the lead die is receiving. Which sample that is in the frame is
  the model's reading (log entry 30).
* TIMER_HIT (R143, R144): a TIMER hit at every sample that is a multiple of 8 * PERIOD.
* LATE_HIT that the log covers (R152, R153): it enters the log, and a unit in SINGLE mode with an OR set issues the
  event it would have issued, flagged LATE.
* LATE_HIT that the log no longer covers (R152): LOG_OVF sets, and only a unit in SINGLE mode with an OR set fires,
  LATE and INCOMPLETE. -/
def Obligations.TrgFabricRowsComplete : Prop :=
  (∀ (d : TDie) (c : Fin 16) (n : Nat) (on : Bool) (s : State), condOn s (pairLead d) (pairCond d c) = true →
      (s.condSt (pairLead d) (pairCond d c)).state = on →
      (condNext s (pairLead d) (pairCond d c)) + n < condLimit s (pairLead d) →
      (∀ i < n + 1, condType s (pairLead d) ((condNext s (pairLead d) (pairCond d c)) + i) (pairCond d c) = 3) →
      (∀ i < n, levelOn s (pairLead d) (pairCond d c) ((condNext s (pairLead d) (pairCond d c)) + i) on = on) →
      levelOn s (pairLead d) (pairCond d c) ((condNext s (pairLead d) (pairCond d c)) + n) on = !on →
      ∃ t, exec (Instr.levelHit d c) s = .next t ∧ (t.condSt (pairLead d) (pairCond d c)).state = !on ∧
      (t.condSt (pairLead d) (pairCond d c)).next = (condNext s (pairLead d) (pairCond d c)) + n + 1 ∧
      bit (t.rd (trgB d) R.TRG_COND_STATE_STATE) c = !on ∧
      t.rd (condB (pairLead d) (pairCond d c)) R.TRG_COND_c_HITS_HITS = (s.rd (condB (pairLead d) (pairCond d c)) R.TRG_COND_c_HITS_HITS + b2n ((!on) != s.onT (pairLead d) ((condNext s (pairLead d) (pairCond d c)) + n) (condB (pairLead d) (pairCond d c)) R.TRG_COND_c_CTRL_POL)) % 2 ^ 32 ∧
      entered s t (pairLead d) { at_ := (condNext s (pairLead d) (pairCond d c)) + n, src := (pairCond d c), hit := (!on) != s.onT (pairLead d) ((condNext s (pairLead d) (pairCond d c)) + n) (condB (pairLead d) (pairCond d c)) R.TRG_COND_c_CTRL_POL, state := some (!on) }) ∧
  (∀ (d : TDie) (c : Fin 16) (n : Nat) (s : State), condOn s (pairLead d) (pairCond d c) = true →
      (condNext s (pairLead d) (pairCond d c)) < condLimit s (pairLead d) →
      condLimit s (pairLead d) = (condNext s (pairLead d) (pairCond d c)) + n →
      (∀ i < n, condType s (pairLead d) ((condNext s (pairLead d) (pairCond d c)) + i) (pairCond d c) = 3) →
      (∀ i < n, levelOn s (pairLead d) (pairCond d c) ((condNext s (pairLead d) (pairCond d c)) + i) (s.condSt (pairLead d) (pairCond d c)).state = (s.condSt (pairLead d) (pairCond d c)).state) → ∃ t, exec (Instr.levelHit d c) s = .next t ∧ (t.condSt (pairLead d) (pairCond d c)).state = (s.condSt (pairLead d) (pairCond d c)).state ∧ (t.condSt (pairLead d) (pairCond d c)).next = condLimit s (pairLead d) ∧ t.regs = s.regs ∧
      (t.trgSt (pairLead d)).log = (s.trgSt (pairLead d)).log) ∧
  (∀ (d : TDie) (c : Fin 16) (m n : Nat) (s : State), condOn s (pairLead d) (pairCond d c) = true →
      (s.condSt (pairLead d) (pairCond d c)).level = false → (s.condSt (pairLead d) (pairCond d c)).state = false →
      0 < n → (condNext s (pairLead d) (pairCond d c)) + m + n < condLimit s (pairLead d) →
      (∀ i < m + n + 1, condType s (pairLead d) ((condNext s (pairLead d) (pairCond d c)) + i) (pairCond d c) = 4) →
      (∀ i < m + n + 1, s.onT (pairLead d) ((condNext s (pairLead d) (pairCond d c)) + i) (condB (pairLead d) (pairCond d c)) R.TRG_COND_c_WMIN_OUTSIDE = false) → (∀ i < m, levelOn s (pairLead d) (pairCond d c) ((condNext s (pairLead d) (pairCond d c)) + i) false = false) → levelOn s (pairLead d) (pairCond d c) ((condNext s (pairLead d) (pairCond d c)) + m) false = true → (∀ i < n, levelOn s (pairLead d) (pairCond d c) ((condNext s (pairLead d) (pairCond d c)) + m + i) true = true) → levelOn s (pairLead d) (pairCond d c) ((condNext s (pairLead d) (pairCond d c)) + m + n) true = false → s.rdT (pairLead d) ((condNext s (pairLead d) (pairCond d c)) + m + n) (condB (pairLead d) (pairCond d c)) R.TRG_COND_c_WMIN_WMIN ≤ n → n ≤ s.rdT (pairLead d) ((condNext s (pairLead d) (pairCond d c)) + m + n) (condB (pairLead d) (pairCond d c)) R.TRG_COND_c_WMAX_WMAX → ∃ t, exec (Instr.widthHit d c) s = .next t ∧ (t.condSt (pairLead d) (pairCond d c)).level = false ∧ (t.condSt (pairLead d) (pairCond d c)).state = false ∧ (t.condSt (pairLead d) (pairCond d c)).next = (condNext s (pairLead d) (pairCond d c)) + m + n + 1 ∧ t.rd (condB (pairLead d) (pairCond d c)) R.TRG_COND_c_HITS_HITS = (s.rd (condB (pairLead d) (pairCond d c)) R.TRG_COND_c_HITS_HITS + 1) % 2 ^ 32 ∧
      entered s t (pairLead d) { at_ := (condNext s (pairLead d) (pairCond d c)) + m, src := (pairCond d c), hit := true, state := some true }) ∧
  (∀ (d : TDie) (c : Fin 16) (m n : Nat) (s : State), condOn s (pairLead d) (pairCond d c) = true →
      (s.condSt (pairLead d) (pairCond d c)).level = false → (s.condSt (pairLead d) (pairCond d c)).state = false →
      0 < n → (condNext s (pairLead d) (pairCond d c)) + m + n < condLimit s (pairLead d) →
      (∀ i < m + n + 1, condType s (pairLead d) ((condNext s (pairLead d) (pairCond d c)) + i) (pairCond d c) = 4) →
      (∀ i < n + 1, s.onT (pairLead d) ((condNext s (pairLead d) (pairCond d c)) + m + i) (condB (pairLead d) (pairCond d c)) R.TRG_COND_c_WMIN_OUTSIDE = true) → (∀ i < n, i ≠ s.rdT (pairLead d) ((condNext s (pairLead d) (pairCond d c)) + m + i) (condB (pairLead d) (pairCond d c)) R.TRG_COND_c_WMAX_WMAX) → (∀ i < m, levelOn s (pairLead d) (pairCond d c) ((condNext s (pairLead d) (pairCond d c)) + i) false = false) → levelOn s (pairLead d) (pairCond d c) ((condNext s (pairLead d) (pairCond d c)) + m) false = true → (∀ i < n, levelOn s (pairLead d) (pairCond d c) ((condNext s (pairLead d) (pairCond d c)) + m + i) true = true) → levelOn s (pairLead d) (pairCond d c) ((condNext s (pairLead d) (pairCond d c)) + m + n) true = false → n < s.rdT (pairLead d) ((condNext s (pairLead d) (pairCond d c)) + m + n) (condB (pairLead d) (pairCond d c)) R.TRG_COND_c_WMIN_WMIN → ∃ t, exec (Instr.widthHit d c) s = .next t ∧ (t.condSt (pairLead d) (pairCond d c)).level = false ∧ (t.condSt (pairLead d) (pairCond d c)).state = false ∧ (t.condSt (pairLead d) (pairCond d c)).next = (condNext s (pairLead d) (pairCond d c)) + m + n + 1 ∧ t.rd (condB (pairLead d) (pairCond d c)) R.TRG_COND_c_HITS_HITS = (s.rd (condB (pairLead d) (pairCond d c)) R.TRG_COND_c_HITS_HITS + 1) % 2 ^ 32 ∧
      entered s t (pairLead d) { at_ := (condNext s (pairLead d) (pairCond d c)) + m, src := (pairCond d c), hit := true, state := some true }) ∧
  (∀ (d : TDie) (c : Fin 16) (m n : Nat) (s : State), condOn s (pairLead d) (pairCond d c) = true →
      (s.condSt (pairLead d) (pairCond d c)).level = false → (s.condSt (pairLead d) (pairCond d c)).state = false →
      (condNext s (pairLead d) (pairCond d c)) + m + n < condLimit s (pairLead d) →
      (∀ i < m + n + 1, condType s (pairLead d) ((condNext s (pairLead d) (pairCond d c)) + i) (pairCond d c) = 4) →
      (∀ i < n + 1, s.onT (pairLead d) ((condNext s (pairLead d) (pairCond d c)) + m + i) (condB (pairLead d) (pairCond d c)) R.TRG_COND_c_WMIN_OUTSIDE = true) → (∀ i < n, i ≠ s.rdT (pairLead d) ((condNext s (pairLead d) (pairCond d c)) + m + i) (condB (pairLead d) (pairCond d c)) R.TRG_COND_c_WMAX_WMAX) → n = s.rdT (pairLead d) ((condNext s (pairLead d) (pairCond d c)) + m + n) (condB (pairLead d) (pairCond d c)) R.TRG_COND_c_WMAX_WMAX → (∀ i < m, levelOn s (pairLead d) (pairCond d c) ((condNext s (pairLead d) (pairCond d c)) + i) false = false) → levelOn s (pairLead d) (pairCond d c) ((condNext s (pairLead d) (pairCond d c)) + m) false = true → (∀ i < n + 1, levelOn s (pairLead d) (pairCond d c) ((condNext s (pairLead d) (pairCond d c)) + m + i) true = true) → ∃ t, exec (Instr.widthHit d c) s = .next t ∧ (t.condSt (pairLead d) (pairCond d c)).level = true ∧ (t.condSt (pairLead d) (pairCond d c)).state = true ∧ (t.condSt (pairLead d) (pairCond d c)).next = (condNext s (pairLead d) (pairCond d c)) + m + n + 1 ∧ t.rd (condB (pairLead d) (pairCond d c)) R.TRG_COND_c_HITS_HITS = (s.rd (condB (pairLead d) (pairCond d c)) R.TRG_COND_c_HITS_HITS + 1) % 2 ^ 32 ∧ bit (t.rd (trgB d) R.TRG_COND_STATE_STATE) c = true ∧
      entered s t (pairLead d) { at_ := (condNext s (pairLead d) (pairCond d c)) + m, src := (pairCond d c), hit := true, state := some true }) ∧
  (∀ (d : TDie) (c : Fin 16) (n : Nat) (s : State), condOn s (pairLead d) (pairCond d c) = true →
      (s.condSt (pairLead d) (pairCond d c)).level = true → (s.condSt (pairLead d) (pairCond d c)).state = true →
      (condNext s (pairLead d) (pairCond d c)) + n < condLimit s (pairLead d) →
      (∀ i < n + 1, condType s (pairLead d) ((condNext s (pairLead d) (pairCond d c)) + i) (pairCond d c) = 4) →
      (∀ i < n, (condNext s (pairLead d) (pairCond d c)) + i - (s.condSt (pairLead d) (pairCond d c)).pulse ≠ s.rdT (pairLead d) ((condNext s (pairLead d) (pairCond d c)) + i) (condB (pairLead d) (pairCond d c)) R.TRG_COND_c_WMAX_WMAX ∨ s.onT (pairLead d) ((condNext s (pairLead d) (pairCond d c)) + i) (condB (pairLead d) (pairCond d c)) R.TRG_COND_c_WMIN_OUTSIDE = false) → (∀ i < n, levelOn s (pairLead d) (pairCond d c) ((condNext s (pairLead d) (pairCond d c)) + i) true = true) → levelOn s (pairLead d) (pairCond d c) ((condNext s (pairLead d) (pairCond d c)) + n) true = false → ∃ t, exec (Instr.widthHit d c) s = .next t ∧ (t.condSt (pairLead d) (pairCond d c)).level = false ∧ (t.condSt (pairLead d) (pairCond d c)).state = false ∧ (t.condSt (pairLead d) (pairCond d c)).next = (condNext s (pairLead d) (pairCond d c)) + n + 1 ∧ t.rd (condB (pairLead d) (pairCond d c)) R.TRG_COND_c_HITS_HITS = s.rd (condB (pairLead d) (pairCond d c)) R.TRG_COND_c_HITS_HITS ∧ bit (t.rd (trgB d) R.TRG_COND_STATE_STATE) c = false ∧
      entered s t (pairLead d) { at_ := (condNext s (pairLead d) (pairCond d c)) + n, src := (pairCond d c), hit := false, state := some false }) ∧
  (∀ (d : TDie) (j : Nat) (s : State), isLead d = true → s.usableT d = true → s.on (trgB d) R.TRG_CTRL_EN = true →
      (s.wbSt d).running = true → (s.trgSt d).evaluated ≤ j →
      (s.trgSt d).log.all (fun e => decide (e.at_ < (s.trgSt d).evaluated) || decide (j < e.at_)) = true →
      (∀ k ∈ switches s d, k < (s.trgSt d).evaluated ∨ j < k) → ∃ t, exec (Instr.fabricEvaluate d j) s = .next t ∧
      (t.trgSt d).evaluated = j + 1 ∧ t.regs = s.regs ∧ (t.trgSt d).events = (s.trgSt d).events) ∧
  (∀ (d : TDie) (j : Nat) (u : Fin 8) (e : TrgEntry) (s : State), isLead d = true → s.usableT d = true →
      s.on (trgB d) R.TRG_CTRL_EN = true → (s.wbSt d).running = true → (s.trgSt d).log = [e] →
      (s.trgSt d).evaluated ≤ e.at_ → e.at_ ≤ j → e.hit = true → e.src < 32 →
      bit (unitCfg s d u e.at_).aC e.src = true → (unitCfg s d u e.at_).en = true → (unitCfg s d u e.at_).mode = 0 →
      (unitCfg s d u e.at_).aAnd = false → (s.unitSt d u).held = none → mayIssue s d u e.at_ →
      ∃ t, exec (Instr.fabricEvaluate d j) s = .next t ∧ (t.trgSt d).evaluated = j + 1 ∧
      issued s t d u e.at_ (fun f => f.cause == 2 ^ (16 * d.val + e.src) && f.xsrc == 0)) ∧
  (∀ (d : TDie) (j : Nat) (u : Fin 8) (e : TrgEntry) (a : Nat) (g : Fire) (s : State), isLead d = true →
      s.usableT d = true → s.on (trgB d) R.TRG_CTRL_EN = true → (s.wbSt d).running = true → (s.trgSt d).log = [e] →
      (s.trgSt d).old = [] → (s.trgSt d).evaluated ≤ e.at_ → e.at_ ≤ j → e.hit = true → e.src < 32 →
      bit (unitCfg s d u e.at_).bC e.src = true → bit (unitCfg s d u e.at_).aC e.src = false →
      (unitCfg s d u e.at_).aAnd = false → (unitCfg s d u e.at_).en = true → (unitCfg s d u e.at_).mode = 1 →
      (unitCfg s d u e.at_).bAnd = false → (s.unitSt d u).held = some (a, g) → e.at_ ≤ a + (unitCfg s d u e.at_).w →
      mayIssue s d u e.at_ → ∃ t, exec (Instr.fabricEvaluate d j) s = .next t ∧ (t.trgSt d).evaluated = j + 1 ∧
      issued s t d u e.at_ (fun f => f.cause == 2 ^ (16 * d.val + e.src) && f.xsrc == 0) ∧
      (t.unitSt d u).held = none) ∧
  (∀ (d : TDie) (u : Fin 8) (a : Nat) (f : Fire) (s : State), isLead d = true → (s.unitSt d u).held = some (a, f) →
      a + (unitCfg s d u a).w < (s.trgSt d).evaluated → (∀ k ∈ switches s d, k ≤ a ∨ a + (unitCfg s d u a).w < k) →
      ∃ t, exec (Instr.dropoutWindowExpire d u) s = .next t ∧ (t.unitSt d u).held = none ∧
      t.on (unitB d u) R.TRGU_u_STATUS_WAIT_B = false ∧
      ((unitCfg s d u a).mode ≠ 2 → (t.trgSt d).events = (s.trgSt d).events) ∧
      ((unitCfg s d u a).mode = 2 → mayIssue s d u (a + (unitCfg s d u a).w) →
        issued s t d u (a + (unitCfg s d u a).w) (fun g => g.cause == f.cause && bit g.flags 4))) ∧
  (∀ (d : TDie) (u : Fin 8) (s : State), isLead d = true →
      (s.unitSt d u).ends.all (fun e => decide (e.2 ≤ (s.trgSt d).evaluated)) = true →
      ∃ t, exec (Instr.holdoffEnd d u) s = .next t ∧ t.on (unitB d u) R.TRGU_u_STATUS_HOLDOFF = false ∧
      t.trg = s.trg) ∧
  (∀ (d : TDie) (u : Fin 8) (s : State), isLead d = true → s.usableT d = true → s.on (trgB d) R.TRG_CTRL_EN = true →
      (s.wbSt d).running = true → ∃ t, exec (Instr.trguForce d u) s = .next t ∧
      entered s t d { at_ := s.recvSample (inputOf d), src := 32 + 8 * u.val, hit := true }) ∧
  (∀ (d : TDie) (u : Fin 8) (j : Nat) (s : State), isLead d = true → s.usableT d = true →
      s.on (trgB d) R.TRG_CTRL_EN = true → (s.wbSt d).running = true →
      0 < s.rdT d j (unitB d u) R.TRGU_u_TIMER_PERIOD → j % (8 * s.rdT d j (unitB d u) R.TRGU_u_TIMER_PERIOD) = 0 →
      ∃ t, exec (Instr.timerHit d u j) s = .next t ∧ entered s t d { at_ := j, src := 33 + 8 * u.val, hit := true }) ∧
  (∀ (d : TDie) (e : TrgEntry) (r : List (TrgEntry × Bool)) (s : State), isLead d = true →
      (s.trgSt d).late = (e, true) :: r → (s.trgSt d).old = [] → ∃ t, exec (Instr.lateHit d) s = .next t ∧
      (t.trgSt d).late = r ∧
      ((s.trgSt d).log.length < 65536 → (s.trgSt d).evaluated ≤ e.at_ + logSpan s → e ∈ (t.trgSt d).log) ∧
      (∀ u : Fin 8, (unitCfg s d u e.at_).en = true → (unitCfg s d u e.at_).mode = 0 →
        (unitCfg s d u e.at_).aAnd = false → bit (unitCfg s d u e.at_).aC e.src = true → e.src < 32 → e.hit = true →
        e.at_ < (s.trgSt d).evaluated → mayIssue s d u e.at_ →
            (s.unitSt d u).ends.all (fun x => x.1 != e.at_) = true →
        (s.trgSt d).log.all (fun x => x.at_ != e.at_) = true →
        issued s t d u e.at_ (fun f => bit f.flags 0))) ∧
  (∀ (d : TDie) (e : TrgEntry) (r : List (TrgEntry × Bool)) (s : State), isLead d = true →
      (s.trgSt d).late = (e, false) :: r → ∃ t, exec (Instr.lateHit d) s = .next t ∧ (t.trgSt d).late = r ∧
      t.on (trgB d) R.TRG_STATUS_LOG_OVF = true ∧
      (∀ u : Fin 8, (unitCfg s d u e.at_).en = true → (unitCfg s d u e.at_).mode = 0 →
        (unitCfg s d u e.at_).aAnd = false → bit (unitCfg s d u e.at_).aC e.src = true → e.src < 32 → e.hit = true →
        mayIssue s d u e.at_ → issued s t d u e.at_ (fun f => bit f.flags 0 && bit f.flags 1)))

/-- Trigger messages, the TRG shadow set and the masks (R130, R155 to R163, R166, R167).
* TRIGGER_MESSAGE_SEND (R155, R156): the oldest message goes to the hub's queue of 256, its copies wait with the
  flag REPEAT set, and a full queue drops it with a cause and a count.
* TRIGGER_MESSAGE_REPEAT (R156): a copy of a message is queued again, as often as REPEAT asks.
* TRIGGER_MESSAGE_RECEIVE, a message that a lead die rejects (R157): it is dropped and counted, and its causes are
  set; a payload that is no message of the array sets ARRAY. That a short payload counts as such is the model's
  choice (log entry 46).
* TRIGGER_MESSAGE_RECEIVE, an accepted message for a unit of its group (R157, R158): it is counted, and remembered
  by the unit unless it is a duplicate.
* TRG_COMMIT (R130, R160, R161, R163): the whole set of both dies becomes the live one, with the lead die's masks on
  both, and its switch sample is set, or waits for the stream; BAD_RANGE shows an empty range. What counts as the
  sample being received is the model's reading (log entry 30).
* TRG_COMMIT while a hand-over is pending (R161, R94): it is held.
* TRG_REVERT (R96, R167): the live set and masks of both dies come back into the shadow set.
* TRG_HELD_HANDOVER (R94, R161): once PENDING has cleared the held commit hands over.
* TRG_SWITCH (R130, R161, R162): the live set takes effect on both dies, the old one still holds for earlier
  samples, conditions that become OFF go false, and INACTIVE shows the partner's spectral conditions.
* TRG_PENDING_CLEAR (R161): once the fabric has evaluated S and every spectral condition a spectrum from S on,
  PENDING clears.
* TRG_MASK_DATA_ACCESS, a write (R130): it sets the shadow entry on a lead die, is ignored on a partner, and ENTRY
  steps on and wraps.
* TRG_MASK_DATA_ACCESS, a read (R130): the entry of the bank that VIEW selects, and ENTRY steps on.
* AUTO_MASK_BUILD (R166): the first trace builds the masks that wait for it, UPPER the trace plus the margin and
  LOWER at the least code, and they are handed over. Which trace is the first is the model's reading (log entry
  184). -/
def Obligations.TrgMessageRowsComplete : Prop :=
  (∀ (d : TDie) (m : List Byte) (n : Nat) (r : List (List Byte × Nat)) (s : State), (s.trgSt d).outbox = (m, n) :: r →
      ∃ t, exec (Instr.triggerMessageSend d) s = .next t ∧ (t.trgSt d).outbox = r ∧
      (t.trgSt d).repeats = (if n = 0 then (s.trgSt d).repeats else (s.trgSt d).repeats ++ [(m.set 3 (m.getD 3 0 ||| 1), n)]) ∧
      (((tget (fun _ => []) s.trgTx (hubOf s d)).length < 256 →
          tget (fun _ => []) t.trgTx (hubOf s d) = tget (fun _ => []) s.trgTx (hubOf s d) ++ [m] ∧
        t.rd (trgB d) R.TRG_NET_TX_COUNT_SENT = min (2 ^ 32 - 1) (s.rd (trgB d) R.TRG_NET_TX_COUNT_SENT + 1)) ∧
      (256 ≤ (tget (fun _ => []) s.trgTx (hubOf s d)).length → t.trgTx = s.trgTx ∧
          bit (t.rd (trgB d) R.TRG_NET_CAUSE_CAUSES) 0 = true ∧
        t.rd (trgB d) R.TRG_NET_DROP_COUNT_DROPPED = min (2 ^ 32 - 1) (s.rd (trgB d) R.TRG_NET_DROP_COUNT_DROPPED + 1)))) ∧
  (∀ (d : TDie) (m : List Byte) (n : Nat) (r : List (List Byte × Nat)) (s : State),
      (s.trgSt d).repeats = (m, n) :: r → ∃ t, exec (Instr.triggerMessageRepeat d) s = .next t ∧
      (t.trgSt d).repeats = (if n = 1 then r else r ++ [(m, n - 1)]) ∧
      (((tget (fun _ => []) s.trgTx (hubOf s d)).length < 256 →
      tget (fun _ => []) t.trgTx (hubOf s d) = tget (fun _ => []) s.trgTx (hubOf s d) ++ [m] ∧
        t.rd (trgB d) R.TRG_NET_TX_COUNT_SENT = min (2 ^ 32 - 1) (s.rd (trgB d) R.TRG_NET_TX_COUNT_SENT + 1)) ∧
      (256 ≤ (tget (fun _ => []) s.trgTx (hubOf s d)).length → t.trgTx = s.trgTx ∧
          bit (t.rd (trgB d) R.TRG_NET_CAUSE_CAUSES) 0 = true ∧
        t.rd (trgB d) R.TRG_NET_DROP_COUNT_DROPPED = min (2 ^ 32 - 1) (s.rd (trgB d) R.TRG_NET_DROP_COUNT_DROPPED + 1)))) ∧
  (∀ (l : TDie) (m : List Byte) (s : State), isLead l = true → s.usableT l = true → messageFault s l m ≠ 0 →
      ∃ t, exec (Instr.triggerMessageReceive m) s = .next t ∧
      t.rd (trgB l) R.TRG_NET_CAUSE_CAUSES = s.rd (trgB l) R.TRG_NET_CAUSE_CAUSES ||| messageFault s l m ∧
      t.rd (trgB l) R.TRG_NET_DROP_COUNT_DROPPED = min (2 ^ 32 - 1) (s.rd (trgB l) R.TRG_NET_DROP_COUNT_DROPPED + 1) ∧
      t.trgSt l = s.trgSt l ∧
      (m.length < 48 ∨ msgField m 0 2 ≠ 0x5347 ∨ msgField m 2 1 ≠ 1 ∨
          msgField m 4 2 ≠ s.rd (trgB l) R.TRG_NET_ID_ARRAY →
        bit (t.rd (trgB l) R.TRG_NET_CAUSE_CAUSES) 1 = true)) ∧
  (∀ (l : TDie) (u : Fin 8) (m : List Byte) (s : State), isLead l = true → s.usableT l = true →
      messageFault s l m = 0 → (s.sampleFrc (inputOf l) 0).isSome = true →
      s.onT l (s.sampleAt (inputOf l) (ofSts (msgField m 16 12))) (unitB l u) R.TRGU_u_CTRL_NET_RX = true →
      bit (s.rdT l (s.sampleAt (inputOf l) (ofSts (msgField m 16 12))) (unitB l u) R.TRGU_u_CTRL_RXGROUPS) (msgField m 11 1) = true → ∃ t, exec (Instr.triggerMessageReceive m) s = .next t ∧ t.rd (trgB l) R.TRG_NET_RX_COUNT_ACCEPTED = min (2 ^ 32 - 1) (s.rd (trgB l) R.TRG_NET_RX_COUNT_ACCEPTED + 1) ∧
      ((msgField m 6 2 % 4096, msgField m 9 1, msgField m 8 1, msgField m 12 4) ∉ (s.unitSt l u).seen →
        (t.unitSt l u).seen = ((msgField m 6 2 % 4096, msgField m 9 1, msgField m 8 1, msgField m 12 4) :: (s.unitSt l u).seen).take 16) ∧
      ((msgField m 6 2 % 4096, msgField m 9 1, msgField m 8 1, msgField m 12 4) ∈ (s.unitSt l u).seen →
        (t.unitSt l u).seen = (s.unitSt l u).seen)) ∧
  (∀ (d : TDie) (s : State), isLead d = true → s.usableT d = true → s.on (trgB d) R.TRG_SHADOW_PENDING = false →
      s.on (trgB d) R.TRG_SHADOW_HELD = false → ∃ t, exec (Instr.trgCommit d) s = .next t ∧
      (∀ p ∈ pairDies s d, ∀ o : Fin 0x800, inTrgSet o → t.liveReg (trgB p + o) = s.reg (trgB p + o)) ∧
      (∀ (k : Fin 4) (i : Fin 65536), tget tabReset t.tabL (maskKey d k i) = tget tabReset s.tabS (maskKey d k i)) ∧
      (s.hasT (d + 1 : Nat) = true →
      ∀ (k : Fin 4) (i : Fin 65536),
      tget tabReset t.tabL (maskKey (d + 1 : Nat) k i) = tget tabReset s.tabS (maskKey d k i)) ∧
      (∀ p ∈ pairDies s d, t.on (trgB p) R.TRG_SHADOW_SHADOW_DIRTY = false) ∧
      t.on (trgB d) R.TRG_SHADOW_PENDING = true ∧ (badRange t d = true →
          t.on (trgB d) R.TRG_STATUS_BAD_RANGE = true) ∧
      ((s.wbSt d).running = true → (t.trgSt d).sw = some (ceilTo 8192 (s.recvSample (inputOf d) + 20480))) ∧
      ((s.wbSt d).running = false → (t.trgSt d).waitStart = true)) ∧
  (∀ (d : TDie) (s : State), isLead d = true → s.usableT d = true → s.on (trgB d) R.TRG_SHADOW_PENDING = true ∨
      s.on (trgB d) R.TRG_SHADOW_HELD = true → ∃ t, exec (Instr.trgCommit d) s = .next t ∧
      t.on (trgB d) R.TRG_SHADOW_HELD = true ∧ t.live = s.live ∧ t.tabL = s.tabL ∧ t.trg = s.trg) ∧
  (∀ (d : TDie) (s : State), isLead d = true → s.usableT d = true → ∃ t, exec (Instr.trgRevert d) s = .next t ∧
      (∀ p ∈ pairDies s d, ∀ o : Fin 0x800, inTrgSet o → t.reg (trgB p + o) = s.liveReg (trgB p + o)) ∧
      (∀ p ∈ pairDies s d, t.on (trgB p) R.TRG_SHADOW_SHADOW_DIRTY = false ∧
        ∀ (k : Fin 4) (i : Fin 65536), tget tabReset t.tabS (maskKey p k i) = tget tabReset s.tabL (maskKey p k i)) ∧
      t.live = s.live ∧ t.tabL = s.tabL) ∧
  (∀ (d : TDie) (s : State), isLead d = true → s.on (trgB d) R.TRG_SHADOW_HELD = true →
      s.on (trgB d) R.TRG_SHADOW_PENDING = false → ∃ t, exec (Instr.trgHeldHandover d) s = .next t ∧
      t.on (trgB d) R.TRG_SHADOW_HELD = false ∧ (∀ p ∈ pairDies s d, ∀ o : Fin 0x800, inTrgSet o →
      t.liveReg (trgB p + o) = s.reg (trgB p + o)) ∧
      (∀ (k : Fin 4) (i : Fin 65536), tget tabReset t.tabL (maskKey d k i) = tget tabReset s.tabS (maskKey d k i)) ∧
      (s.hasT (d + 1 : Nat) = true →
      ∀ (k : Fin 4) (i : Fin 65536),
      tget tabReset t.tabL (maskKey (d + 1 : Nat) k i) = tget tabReset s.tabS (maskKey d k i)) ∧
      (∀ p ∈ pairDies s d, t.on (trgB p) R.TRG_SHADOW_SHADOW_DIRTY = false) ∧
      t.on (trgB d) R.TRG_SHADOW_PENDING = true ∧ (badRange t d = true →
          t.on (trgB d) R.TRG_STATUS_BAD_RANGE = true) ∧
      ((s.wbSt d).running = true → (t.trgSt d).sw = some (ceilTo 8192 (s.recvSample (inputOf d) + 20480))) ∧
      ((s.wbSt d).running = false → (t.trgSt d).waitStart = true)) ∧
  (∀ (d : TDie) (sw : Nat) (s : State), isLead d = true → (s.trgSt d).sw = some sw →
      ∃ t, exec (Instr.trgSwitch d) s = .next t ∧ (t.trgSt d).sw = none ∧ (∃ o ∈ (t.trgSt d).old, o.upTo = sw ∧
      o.regs = s.force ∧ o.tabs = s.tabF) ∧
      (∀ p ∈ pairDies s d, ∀ o : Fin 0x800, inTrgSet o → t.forceReg (trgB p + o) = s.liveReg (trgB p + o)) ∧
      (∀ p ∈ pairDies s d, ∀ (k : Fin 4) (i : Fin 65536),
          tget tabReset t.tabF (maskKey p k i) = tget tabReset s.tabL (maskKey p k i)) ∧
      (∀ c : Fin 32, t.rdF (condB d c) R.TRG_COND_c_CTRL_TYPE = 0 → (t.condSt d c).state = false) ∧
      (s.hasT (d + 1 : Nat) = true → ∀ c : Fin 16, bit (t.rd (trgB (d + 1 : Nat)) R.TRG_COND_STATE_INACTIVE) c =
        (t.rdF (condB d (16 + c)) R.TRG_COND_c_CTRL_TYPE == 1 || t.rdF (condB d (16 + c)) R.TRG_COND_c_CTRL_TYPE == 2))) ∧
  (∀ (d : TDie) (sw : Nat) (s : State), (s.trgSt d).sw = none → (s.trgSt d).waitStart = false →
      (s.trgSt d).lastSw = some sw → sw < (s.trgSt d).evaluated → s.onF (wbB d) R.WB_CTRL_EN = false ∨
      (s.wbSt d).running = false ∨
      (((s.trgSt d).specSince = true ∨ hasSpectral s d 0 = false) ∧ ((s.trgSt d).detSince = true ∨
          hasSpectral s d 1 = false)) → ∃ t, exec (Instr.trgPendingClear d) s = .next t ∧
          t.on (trgB d) R.TRG_SHADOW_PENDING = false ∧ t.live = s.live) ∧
  (∀ (d : TDie) (v : Word) (s : State), s.hasT d = true → ∃ t, exec (Instr.trgMaskDataAccess d (some v)) s = .next t ∧
      t.rd (trgB d) R.TRG_MASK_ADDR_ENTRY = (s.rd (trgB d) R.TRG_MASK_ADDR_ENTRY + 1) % 65536 ∧ t.tabL = s.tabL ∧
      (isLead d = true → t.on (trgB d) R.TRG_SHADOW_SHADOW_DIRTY = true ∧ tget tabReset t.tabS
        (maskKey d (s.rd (trgB d) R.TRG_MASK_ADDR_TABLE) (s.rd (trgB d) R.TRG_MASK_ADDR_ENTRY)) = v) ∧
      (isLead d = false → t.tabS = s.tabS)) ∧
  (∀ (d : TDie) (s : State), s.hasT d = true → ∃ t, exec (Instr.trgMaskDataAccess d none) s = .next t ∧
      t.rd (trgB d) R.TRG_MASK_ADDR_ENTRY = (s.rd (trgB d) R.TRG_MASK_ADDR_ENTRY + 1) % 65536 ∧ t.tabS = s.tabS ∧
      t.readData = tget tabReset (if s.on (trgB d) R.TRG_SHADOW_VIEW then s.tabL else s.tabS)
        (maskKey d (s.rd (trgB d) R.TRG_MASK_ADDR_TABLE) (s.rd (trgB d) R.TRG_MASK_ADDR_ENTRY))) ∧
  (∀ (d : TDie) (m : AutoMask) (w : Fin 17) (lv : List Int) (s : State), isLead d = true → s.usableT d = true →
      s.on (trgB d) R.TRG_SHADOW_PENDING = false → s.on (trgB d) R.TRG_SHADOW_HELD = false → (s.wbSt d).auto = [m] →
      m.table < 4 → m.trace = some lv → lv.length = 2 ^ w.val → ∃ t, exec (Instr.autoMaskBuild d) s = .next t ∧
      (t.wbSt d).auto = [] ∧ t.on (trgB d) R.TRG_SHADOW_SHADOW_DIRTY = false ∧
      t.on (trgB d) R.TRG_SHADOW_PENDING = true ∧
      (∀ i : Fin 65536, tget tabReset t.tabL (maskKey d m.table i) =
        BitVec.ofNat 32 (enc 16 (clampI (-32768) 32767 (lv.getD (i / 2 ^ (16 - w.val)) 0 + m.margin)) * 65536 + 0x8000)))

/-- The Tarn, acquisitions, segments and change-only records of an input (R169 to R187, R192, R193, R195 to R199).
* TARN_START (R28, R172, R173): the Tarn starts empty with the sample being received and reads its base and depth;
  the lower-numbered usable die forwards the stream. What counts as the sample being received is the model's reading
  (log entry 30).
* TARN_BLOCK_WRITE (R28, R169, R170, R174): the die that forwards the stream writes the next whole block, with zeros
  for the samples before the first and those marked LOST, and its descriptor. The byte order of a sample is the
  model's choice (log entry 52).
* REC_ARM (R177, R184, R186): the settings and the mask-test table are latched, an acquisition is counted, the slot
  size and CAP follow from the region, M is lowered where a slot would be too small, and the units are armed.
* REC_STOP (R181): the units are disarmed, and the acquisition is done once its last segment has completed.
* REC_STOP in STREAM mode (R181, R187): the same; what is staged is padded to a whole sector.
* TRIGGER_EVENT_DELIVER (R179, R180, R182, R183): an event of a unit in UNITS becomes the next segment, from PRE
  before it to POST after it, and the units are disarmed until they may be armed again.
* TRIGGER_EVENT_DELIVER where the acquisition has all its segments (R179): the event is missed and counted.
* TRIGGER_EVENT_DELIVER of a unit that UNITS leaves out (R179): the record engine does not act on it.
* SEGMENT_COMPLETE, with its samples in the Tarn or gone (R175, R182, R188, R192, R193): the segment is in its slot
  of the region, counted and tested, and line REC pulses. The order of its parts in memory follows R188.
* SEGMENT_COMPLETE in STREAM mode, with room in the staging ring for what is left (R187): the segment completes and
  counts.
* REC_REARM (R182): once the fabric has reached the sample the units are armed again.
* CO_ENABLE (R196): the settings are read, every bin starts OFF, and the first block carries RESTART.
* CO_BLOCK_FLUSH (R197): the open block closes and is written into its ring, header first. -/
def Obligations.RecRowsComplete : Prop :=
  (∀ (d : TDie) (f : Nat) (s : State), isLead d = true → forwarder s d = some f →
      s.on (recB d) R.REC_TARN_CTRL_EN = true → (s.wbSt d).running = true → (s.recSt d).tarn.run = false →
      s.anyFrozen (hubOf s d) = false → ∃ t, exec (Instr.tarnStart d) s = .next t ∧
      (t.recSt d).tarn = { run := true, base := s.rd (recB d) R.REC_TARN_BASE_BASE * 2 ^ 20, depth := max 16 (s.rd (recB d) R.REC_TARN_DEPTH_DEPTH), first := max (s.recvSample (inputOf d)) (s.wbSt d).start, next := max (s.recvSample (inputOf d)) (s.wbSt d).start / 65536, src := f } ∧
      t.on (recB d) R.REC_TARN_STATUS_RUN = true ∧ t.on (recB d) R.REC_TARN_STATUS_FULL = false) ∧
  (∀ (d : TDie) (s : State), (s.recSt (pairLead d)).tarn.run = true → forwarder s (pairLead d) = some d.val →
      (s.recSt (pairLead d)).tarn.src = d.val →
      ((s.recSt (pairLead d)).tarn.next + 1) * 65536 ≤ s.streamHead (inputOf (pairLead d)) →
      s.anyFrozen (hubOf s (pairLead d)) = false → 0 < (s.recSt (pairLead d)).tarn.depth →
      (s.recSt (pairLead d)).tarn.base + (s.recSt (pairLead d)).tarn.depth * (393216 + 16) ≤ 2 ^ 40 →
      ∃ t, exec (Instr.tarnBlockWrite d) s = .next t ∧
      (t.recSt (pairLead d)).tarn = { (s.recSt (pairLead d)).tarn with next := (s.recSt (pairLead d)).tarn.next + 1 } ∧
      (∀ i : Fin 65536, let j := (s.recSt (pairLead d)).tarn.next * 65536 + i.val
        let x := if (s.recSt (pairLead d)).tarn.first ≤ j ∧
            bit (s.statusOf d j j) 7 = false then s.streamSample (inputOf (pairLead d)) j else (0, 0)
        sx 24 (t.leAt (hubOf s (pairLead d)) ((s.recSt (pairLead d)).tarn.slotAt (s.recSt (pairLead d)).tarn.next + 6 * i.val) 3) = sx 24 (enc 24 x.1) ∧
          sx 24 (t.leAt (hubOf s (pairLead d)) ((s.recSt (pairLead d)).tarn.slotAt (s.recSt (pairLead d)).tarn.next + 6 * i.val + 3) 3) = sx 24 (enc 24 x.2)) ∧
      t.leAt (hubOf s (pairLead d)) ((s.recSt (pairLead d)).tarn.descAt (s.recSt (pairLead d)).tarn.next) 8 = (s.recSt (pairLead d)).tarn.next * 65536 % 2 ^ 64) ∧
  (∀ (d : TDie) (a m0 : Nat) (s : State), isLead d = true → s.usableT d = true →
      s.on (recB d) R.REC_STATUS_RUN = false → a = s.rd (recB d) R.REC_REGION_SIZE_SIZE * 2 ^ 20 →
      m0 = min 1048576 (max 1 (s.rd (recB d) R.REC_SEGS_M)) → ∃ t, exec (Instr.recArm d) s = .next t ∧
      (∀ o ∈ ([0x4, 0x10, 0x14, 0x18, 0x1C, 0x20, 0x40, 0x44, 0x48, 0x4C] : List Nat),
      t.liveReg (recB d + o) = s.reg (recB d + o)) ∧
      (∀ i : Fin 4096, tget tabReset t.tabL (mtKey d i) = tget tabReset s.tabS (mtKey d i)) ∧
      (t.recSt d).m = (if (s.rd (recB d) R.REC_CTRL_MODE % 3 ≠ 2 ∧ a / m0 / 64 * 64 < 576) then a / 576 else m0) ∧
          (t.recSt d).nextSeg = 0 ∧ (t.recSt d).segs = [] ∧ (t.recSt d).stopping = false ∧
      (t.recSt d).slot = a / max 1 (t.recSt d).m / 64 * 64 ∧
      t.rd (recB d) R.REC_ACQ_COUNT_ACQUISITIONS = (s.rd (recB d) R.REC_ACQ_COUNT_ACQUISITIONS + 1) % 2 ^ 32 ∧
      (t.recSt d).acqNo = t.rd (recB d) R.REC_ACQ_COUNT_ACQUISITIONS ∧ t.rd (recB d) R.REC_SEG_COUNT_SEGMENTS = 0 ∧
      t.on (recB d) R.REC_MT_FIRST_VALID = false ∧
      t.rd (recB d) R.REC_CAP_CAP = (if s.rd (recB d) R.REC_CTRL_MODE % 3 = 2 then 2 ^ 32 - 1
        else min (2 ^ 32 - 1) (((t.recSt d).slot - 192) / (64 * (if s.on (recB d) R.REC_CTRL_FORMAT then 4 else 6)))) ∧
      ((s.rd (recB d) R.REC_CTRL_MODE % 3 ≠ 2 ∧ a / m0 / 64 * 64 < 576) →
          t.on (recB d) R.REC_STATUS_SEGS_CUT = true) ∧
      ((t.recSt d).m ≠ 0 → t.on (recB d) R.REC_STATUS_RUN = true ∧ t.on (recB d) R.REC_STATUS_DONE = false ∧
          armedAs s t d true) ∧
      ((t.recSt d).m = 0 → t.on (recB d) R.REC_STATUS_RUN = false ∧ t.on (recB d) R.REC_STATUS_DONE = true ∧
          armedAs s t d false)) ∧
  (∀ (d : TDie) (s : State), isLead d = true → s.on (recB d) R.REC_STATUS_RUN = true → recMode s d ≠ 2 →
      ∃ t, exec (Instr.recStop d) s = .next t ∧ (t.recSt d).stopping = true ∧ armedAs s t d false ∧
      ((s.recSt d).segs = [] → t.on (recB d) R.REC_STATUS_RUN = false ∧ t.on (recB d) R.REC_STATUS_DONE = true ∧
        t.on (recB d) R.REC_STATUS_STOPPED = true) ∧
      ((s.recSt d).segs ≠ [] → t.on (recB d) R.REC_STATUS_RUN = true)) ∧
  (∀ (d : TDie) (s : State), isLead d = true → s.on (recB d) R.REC_STATUS_RUN = true → recMode s d = 2 →
      ∃ t, exec (Instr.recStop d) s = .next t ∧ (t.recSt d).stopping = true ∧
      ((s.recSt d).segs = [] → t.on (recB d) R.REC_STATUS_RUN = false ∧ t.on (recB d) R.REC_STATUS_DONE = true ∧
        t.on (recB d) R.REC_STATUS_STOPPED = true)) ∧
  (∀ (d : TDie) (e : TrgEvent) (r : List TrgEvent) (s : State), (s.trgSt d).events = e :: r →
      bit (s.rdL (recB d) R.REC_CTRL_UNITS) e.unit = true → s.on (recB d) R.REC_STATUS_RUN = true →
      (s.recSt d).stopping = false → recMode s d = 1 ∨ (s.recSt d).nextSeg < (s.recSt d).m →
      s.onL (recB d) R.REC_CTRL_NETWIN = false ∨ bit e.fire.xsrc 4 = false → recPre s d ≤ e.sample →
      (s.recSt d).tarn.oldest ≤ e.sample - recPre s d → (s.recSt d).tarn.run = true ∨
      e.sample < (s.recSt d).tarn.head → recMode s d = 2 ∨
      recPre s d + recPost s d ≤ s.rd (recB d) R.REC_CAP_CAP * 64 →
      ∃ t, exec (Instr.triggerEventDeliver d) s = .next t ∧ (t.trgSt d).events = r ∧
      (t.recSt d).nextSeg = (s.recSt d).nextSeg + 1 ∧ armedAs s t d false ∧
      (∃ g ∈ (t.recSt d).segs, g.ev = e ∧ g.segno = (s.recSt d).nextSeg ∧ g.start = e.sample - recPre s d ∧
          g.len = recPre s d + recPost s d ∧
        g.req = g.len ∧ g.xs = [] ∧ g.flags = e.fire.flags % 32 * 128 ||| (if recMode s d = 2 then 16384 else 0)) ∧
      (t.recSt d).rearm = some (max (if s.onL (recB d) R.REC_CTRL_ARM_MODE then 0 else e.sample + max (recPost s d) 9216) ((s.recSt d).rearm.getD 0))) ∧
  (∀ (d : TDie) (e : TrgEvent) (r : List TrgEvent) (s : State), (s.trgSt d).events = e :: r →
      bit (s.rdL (recB d) R.REC_CTRL_UNITS) e.unit = true → s.on (recB d) R.REC_STATUS_RUN = true →
      (s.recSt d).stopping = false → recMode s d ≠ 1 → (s.recSt d).m ≤ (s.recSt d).nextSeg →
      ∃ t, exec (Instr.triggerEventDeliver d) s = .next t ∧ (t.trgSt d).events = r ∧
      (t.recSt d).segs = (s.recSt d).segs ∧
      t.rd (unitB d e.unit) R.TRGU_u_MISS_MISSED = min (2 ^ 32 - 1) (s.rd (unitB d e.unit) R.TRGU_u_MISS_MISSED + 1)) ∧
  (∀ (d : TDie) (e : TrgEvent) (r : List TrgEvent) (s : State), (s.trgSt d).events = e :: r →
      bit (s.rdL (recB d) R.REC_CTRL_UNITS) e.unit = false → ∃ t, exec (Instr.triggerEventDeliver d) s = .next t ∧
      (t.trgSt d).events = r ∧ t.recs = s.recs ∧ t.regs = s.regs) ∧
  (∀ (d : TDie) (g : RecSeg) (r : List RecSeg) (s : State), (s.recSt d).segs = g :: r → recMode s d ≠ 2 →
      segSettled s d g = segLeft g → ∃ t, exec (Instr.segmentComplete d) s = .next t ∧
      (t.recSt d).segs.map (fun x => x.segno) = r.map (fun x => x.segno) ∧
      t.rd (recB d) R.REC_SEG_COUNT_SEGMENTS = min (2 ^ 32 - 1) (s.rd (recB d) R.REC_SEG_COUNT_SEGMENTS + 1) ∧
      pulsed s t (hubOf s d) 0x3000 ∧
      (storable s (hubOf s d) (recRegion s d + g.segno % max 1 (s.recSt d).m * (s.recSt d).slot) (segItem s d (segCopy s d (segLeft g) g)) →
        stored t (hubOf s d) (recRegion s d + g.segno % max 1 (s.recSt d).m * (s.recSt d).slot) (segItem s d (segCopy s d (segLeft g) g))) ∧
      ((segCopy s d (segLeft g) g).overrun = true → t.on (recB d) R.REC_STATUS_OVERRUN = true ∧
        t.rd (recB d) R.REC_OVERRUN_COUNT_OVERRUNS = min (2 ^ 32 - 1) (s.rd (recB d) R.REC_OVERRUN_COUNT_OVERRUNS + 1)) ∧
      (segTested s d g = true → mtPoint s d g (segCopy s d (segLeft g) g).xs = none →
        t.rd (recB d) R.REC_MT_PASS_PASSED = min (2 ^ 32 - 1) (s.rd (recB d) R.REC_MT_PASS_PASSED + 1)) ∧
      (segTested s d g = true → mtPoint s d g (segCopy s d (segLeft g) g).xs ≠ none →
        t.rd (recB d) R.REC_MT_FAIL_FAILED = min (2 ^ 32 - 1) (s.rd (recB d) R.REC_MT_FAIL_FAILED + 1) ∧
        t.on (recB d) R.REC_MT_FIRST_VALID = true)) ∧
  (∀ (d : TDie) (g : RecSeg) (r : List RecSeg) (s : State), (s.recSt d).segs = g :: r → recMode s d = 2 →
      segLeft g = 0 → (segItem s d g).length - g.staged ≤ (stageRoom s d).1 →
      (segItem s d g).length - g.staged ≤ (stageRoom s d).2 → ∃ t, exec (Instr.segmentComplete d) s = .next t ∧
      (t.recSt d).segs.map (fun x => x.segno) = r.map (fun x => x.segno) ∧
      t.rd (recB d) R.REC_SEG_COUNT_SEGMENTS = min (2 ^ 32 - 1) (s.rd (recB d) R.REC_SEG_COUNT_SEGMENTS + 1) ∧
      pulsed s t (hubOf s d) 0x3000) ∧
  (∀ (d : TDie) (k : Nat) (s : State), (s.recSt d).rearm = some k → k ≤ (s.trgSt d).evaluated →
      ∃ t, exec (Instr.recRearm d) s = .next t ∧ (t.recSt d).rearm = none ∧
      armedAs s t d (s.on (recB d) R.REC_STATUS_RUN && !(s.recSt d).stopping)) ∧
  (∀ (d : TDie) (s : State), isLead d = true → s.usableT d = true → s.on (recB d) R.REC_CO_CTRL_EN = false →
      (s.recSt d).co.run = false → ∃ t, exec (Instr.coEnable d) s = .next t ∧ (t.recSt d).co.run = true ∧
      (t.recSt d).co.on = [] ∧ (t.recSt d).co.src = s.rd (recB d) R.REC_CO_CTRL_SRC ∧
      (t.recSt d).co.table = s.rd (recB d) R.REC_CO_CTRL_TABLE ∧
      (t.recSt d).co.hyst = s.rd (recB d) R.REC_CO_CTRL_HYST ∧
          (t.recSt d).co.first = s.rd (recB d) R.REC_CO_BINS_FIRST ∧
          (t.recSt d).co.last = s.rd (recB d) R.REC_CO_BINS_LAST ∧
      (t.recSt d).co.restart = true ∧ t.on (recB d) R.REC_CO_CTRL_EN = true) ∧
  (∀ (d : TDie) (b : CoBlock) (l : List Byte) (s : State), s.rd (recB d) R.REC_CO_FLUSH_FLUSH ≠ 0 →
      (s.recSt d).co.blk = some b → coSize s d ≠ 0 →
      l = leBytes 1 0x30 ++ leBytes 1 (inputOf d) ++ leBytes 2 b.flags ++ leBytes 4 b.entries.length ++ leBytes 8 b.first ++
      leBytes 12 b.sts ++ leBytes 4 (b.last + 1 - b.first) ++ b.entries.flatten →
          ∃ t, exec (Instr.coBlockFlush d) s = .next t ∧ (t.recSt d).co.blk = none ∧
          (t.recSt d).co.pos = ((s.recSt d).co.pos + l.length) % coSize s d ∧
      (s.anyFrozen (hubOf s d) = false → coBase s d + coSize s d ≤ 2 ^ 40 → l.length ≤ coSize s d →
        ∀ i < l.length, t.rawByte (hubOf s d) (coBase s d + ((s.recSt d).co.pos + i) % coSize s d) = l.getD i 0))

/-- Density frames, spectrogram rows, and the DENS shadow set (R211 to R231).
* DENS_FRAME_END without a partner die (R211, R212, R214, R220): the frame is taken from the counts as they stand,
  then each count decays by MODE, and the next frame begins.
* DENS_FRAME_END with a partner die (R223): its counts are on their way, and the frame waits for them.
* DENS_FRAME_WRITTEN (R214, R220, R222): the frame stands in capture memory, is counted, and line DENS pulses.
* SG_ROW_END (R216, R218, R220, R226): the row is taken, into its slot of the ring, and the next begins; one that
  lacks spectra is remembered for its repair.
* SG_ROW_WRITTEN (R219, R220, R222, R226): the row stands in capture memory, is counted, and line DENS pulses; a row
  whose slot it takes can no longer be repaired.
* DENS_CLEAR (R213): every count goes to zero and the next frame carries CLEARED. Which frame that is while one
  waits for its partner's counts is the model's choice (log entry 62).
* DENS_COMMIT (R204, R205, R227, R228): the set and the table become the live ones; while spectra arrive the set
  waits for the first frame that starts after the sample being received, else it is in force at once; CLAMP and
  BAD_RANGE show limits that act. What counts as the sample being received is the model's reading (log entry 30).
* DENS_COMMIT while a hand-over is pending (R228, R94): it is held.
* DENS_REVERT (R227, R96): the live set and table come back into the shadow set.
* DENS_HELD_HANDOVER (R228, R94): once PENDING has cleared the held commit hands over.
* DENS_TAB_DATA_ACCESS, a write (R215, R227): the shadow entry at ENTRY takes the value and ENTRY steps on from 255
  to 1; a partner die ignores it.
* DENS_TAB_DATA_ACCESS, a read (R215, R227): the entry of the bank that VIEW selects; a partner die reads the lead
  die's live entry. That it takes the lead die's ENTRY is the model's choice (log entry 185).
* DENS_ENABLE (R228, R231): the set with EN comes into force, and its first spectrum is the first whose frame starts
  after the sample received at the hand-over.
* DENS_MERGE_ARRIVE in time (R208, R212, R223): the partner's counts are added, held at 65,535, the frame is taken
  with both counts of spectra, and the counts decay.
* DENS_MERGE_ARRIVE too late (R223): LATE_COUNT steps and the counts go into the next frame taken.
* DENS_MERGE_TIMEOUT (R223): the frame is taken without the partner's counts, PARTIAL and MERGE_LATE.
* DENS_ROW_REPAIR (R220, R221, R226): once its spectra have been recomputed the complete row stands in its slot,
  REPAIRED, or is discarded and counted if a later row has taken the slot. -/
def Obligations.DensRowsComplete : Prop :=
  (∀ (d : TDie) (s : State), isLead d = true → s.onF (densB d) R.DENS_CTRL_EN = true → (s.densSt d).fresh = false →
      (s.densSt d).frame.first + densF s d ≤ (s.wbSt d).relIdx → partnerCounts s d = false →
      (s.densSt d).pframe.seen = 0 → (s.densSt d).ended = [] → ((s.densSt d).counts.map (·.1)).Nodup →
      ∃ t, exec (Instr.densFrameEnd d) s = .next t ∧ (t.densSt d).frame.f = (s.densSt d).frame.f + 1 ∧
      (t.densSt d).ended = [] ∧ (t.densSt d).cleared = false ∧
      (∀ k, tget noNat (t.densSt d).counts k = (if s.rdF (densB d) R.DENS_DECAY_MODE = 0 then 0
        else if s.rdF (densB d) R.DENS_DECAY_MODE = 1 then tget noNat (s.densSt d).counts k - (tget noNat (s.densSt d).counts k + 2 ^ max 1 (s.rdF (densB d) R.DENS_DECAY_K) - 1) / 2 ^ max 1 (s.rdF (densB d) R.DENS_DECAY_K)
        else if s.rdF (densB d) R.DENS_DECAY_MODE = 2 then tget noNat (s.densSt d).counts k - s.rdF (densB d) R.DENS_DECAY_STEP else tget noNat (s.densSt d).counts k)) ∧
      (s.onF (densB d) R.DENS_CTRL_MAP_EN = true → (∃ o ∈ (t.densSt d).frames, o.n = (s.densSt d).frame.f ∧
          o.first = (s.densSt d).frame.first ∧
          o.bytes.take 1 = leBytes 1 (if s.onF (densB d) R.DENS_OUT_FORMAT then 0x42 else 0x40) ∧
        o.addr = s.rdF (densB d) R.DENS_MAP_BASE_BASE * 2 ^ 20 + (s.densSt d).frame.f % densNbuf s d * o.bytes.length ∧
        (o.bytes.drop 28).take 4 = leBytes 4 (s.densSt d).frame.count)) ∧
      (s.onF (densB d) R.DENS_CTRL_MAP_EN = false → (t.densSt d).frames = (s.densSt d).frames)) ∧
  (∀ (d : TDie) (s : State), isLead d = true → s.onF (densB d) R.DENS_CTRL_EN = true → (s.densSt d).fresh = false →
      (s.densSt d).frame.first + densF s d ≤ (s.wbSt d).relIdx → partnerCounts s d = true ∨
      (s.densSt d).pframe.seen ≠ 0 → (s.densSt d).ended = [] → ∃ t, exec (Instr.densFrameEnd d) s = .next t ∧
      (t.densSt d).frame.f = (s.densSt d).frame.f + 1 ∧ (t.densSt d).counts = (s.densSt d).counts ∧
      (t.densSt d).partner = [] ∧ (t.densSt d).frames = (s.densSt d).frames ∧
      (∃ p ∈ (t.densSt d).sent, p.frame.f = (s.densSt d).frame.f ∧ p.frame.first = (s.densSt d).frame.first ∧
          p.frame.count = (s.densSt d).pframe.count ∧ p.counts = (s.densSt d).partner) ∧
      (∃ e ∈ (t.densSt d).ended, e.1.f = (s.densSt d).frame.f ∧ e.1.first = (s.densSt d).frame.first ∧
          e.1.whole = false ∧ e.2 = [])) ∧
  (∀ (d : TDie) (o : DensOut) (r : List DensOut) (s : State), (s.densSt d).frames = o :: r →
      ∃ t, exec (Instr.densFrameWritten d) s = .next t ∧ (t.densSt d).frames = r ∧
      t.rd (densB d) R.DENS_MAP_LAST_FRAME = o.n % 2 ^ 32 ∧
      t.rd (densB d) R.DENS_FRAME_COUNT_FRAMES = (s.rd (densB d) R.DENS_FRAME_COUNT_FRAMES + 1) % 2 ^ 32 ∧
      pulsed s t (hubOf s d) 0x4000 ∧ (storable s (hubOf s d) o.addr o.bytes → stored t (hubOf s d) o.addr o.bytes)) ∧
  (∀ (d : TDie) (s : State), isLead d = true → s.onF (densB d) R.DENS_CTRL_EN = true → (s.densSt d).fresh = false →
      (s.densSt d).mS + ((s.densSt d).row.j + 1) * densR s d ≤ (s.wbSt d).relIdx →
      ∃ t, exec (Instr.sgRowEnd d) s = .next t ∧ (t.densSt d).row = { j := (s.densSt d).row.j + 1 } ∧
      (s.onF (densB d) R.DENS_CTRL_SG_EN = true → ∃ o ∈ (t.densSt d).rows, o.n = (s.densSt d).row.j ∧
          o.first = (s.densSt d).mS + (s.densSt d).row.j * densR s d ∧
        o.bytes.take 1 = leBytes 1 (if s.onF (densB d) R.DENS_SG_CTRL_FORMAT then 0x43 else 0x41) ∧
        o.addr = s.rdF (densB d) R.DENS_SG_BASE_BASE * 2 ^ 20 + (s.densSt d).row.j % max 1 (s.rdF (densB d) R.DENS_SG_ROWS_ROWS) * o.bytes.length ∧
        ((s.densSt d).row.seen < densR s d → ∃ e ∈ (t.densSt d).lacking, e.first = o.first ∧ e.n = densR s d ∧
            e.addr = o.addr)) ∧
      (s.onF (densB d) R.DENS_CTRL_SG_EN = false → (t.densSt d).rows = (s.densSt d).rows ∧
          (t.densSt d).lacking = (s.densSt d).lacking)) ∧
  (∀ (d : TDie) (o : DensOut) (r : List DensOut) (s : State), (s.densSt d).rows = o :: r →
      ∃ t, exec (Instr.sgRowWritten d) s = .next t ∧ (t.densSt d).rows = r ∧
      t.rd (densB d) R.DENS_SG_LAST_ROW = o.n % 2 ^ 32 ∧
      t.rd (densB d) R.DENS_ROW_COUNT_ROWS = (s.rd (densB d) R.DENS_ROW_COUNT_ROWS + 1) % 2 ^ 32 ∧
      pulsed s t (hubOf s d) 0x4001 ∧ (storable s (hubOf s d) o.addr o.bytes → stored t (hubOf s d) o.addr o.bytes) ∧
      (∀ e ∈ (s.densSt d).lacking, e.first ≠ o.first → e.addr < o.addr + o.bytes.length → o.addr < e.addr + e.size →
        ∃ x ∈ (t.densSt d).lacking, x = { e with reused := true })) ∧
  (∀ (d : TDie) (s : State), isLead d = true → s.usableT d = true → ∃ t, exec (Instr.densClear d) s = .next t ∧
      (t.densSt d).counts = [] ∧ (t.densSt d).partner = [] ∧ (t.densSt d).cleared = true ∧
      (t.densSt d).ended = (s.densSt d).ended.map (fun x => (x.1, [])) ∧ t.regs = s.regs) ∧
  (∀ (d : TDie) (s : State), isLead d = true → s.usableT d = true → s.on (densB d) R.DENS_SHADOW_PENDING = false →
      s.on (densB d) R.DENS_SHADOW_HELD = false → ∃ t, exec (Instr.densCommit d) s = .next t ∧
      (∀ o : Fin 0x60, inDensSet o → t.liveReg (densB d + o) = s.reg (densB d + o)) ∧
      (∀ i : Fin 256, tget tabReset t.tabL (densKey d i) = tget tabReset s.tabS (densKey d i)) ∧
      t.on (densB d) R.DENS_SHADOW_SHADOW_DIRTY = false ∧
      t.on (densB d) R.DENS_SHADOW_PENDING = spectraRun s d ∧
      (spectraRun s d = true → (t.densSt d).handedAt = some (s.recvSample (inputOf d)) ∧ t.force = s.force) ∧
      (spectraRun s d = false → (∀ o : Fin 0x60, inDensSet o → t.forceReg (densB d + o) = s.reg (densB d + o)) ∧
          (∀ i : Fin 256, tget tabReset t.tabF (densKey d i) = tget tabReset s.tabS (densKey d i)) ∧
          (t.densSt d).handedAt = none) ∧
      (densClamped t.rdL d (2 ^ clampLog2n (s.rdL (wbB d) R.WB_CTRL_LOG2N)) = true →
          t.on (densB d) R.DENS_STATUS_CLAMP = true) ∧
      (densLast t.rdL d (2 ^ clampLog2n (s.rdL (wbB d) R.WB_CTRL_LOG2N)) < densFirst t.rdL d →
        t.on (densB d) R.DENS_STATUS_BAD_RANGE = true)) ∧
  (∀ (d : TDie) (s : State), isLead d = true → s.usableT d = true → s.on (densB d) R.DENS_SHADOW_PENDING = true ∨
      s.on (densB d) R.DENS_SHADOW_HELD = true → ∃ t, exec (Instr.densCommit d) s = .next t ∧
      t.on (densB d) R.DENS_SHADOW_HELD = true ∧ t.live = s.live ∧ t.tabL = s.tabL ∧ t.dens = s.dens) ∧
  (∀ (d : TDie) (s : State), isLead d = true → s.usableT d = true → ∃ t, exec (Instr.densRevert d) s = .next t ∧
      (∀ o : Fin 0x60, inDensSet o → t.reg (densB d + o) = s.liveReg (densB d + o)) ∧
      (∀ i : Fin 256, tget tabReset t.tabS (densKey d i) = tget tabReset s.tabL (densKey d i)) ∧
      t.on (densB d) R.DENS_SHADOW_SHADOW_DIRTY = false ∧ t.live = s.live) ∧
  (∀ (d : TDie) (s : State), s.on (densB d) R.DENS_SHADOW_HELD = true → s.on (densB d) R.DENS_SHADOW_PENDING = false →
      ∃ t, exec (Instr.densHeldHandover d) s = .next t ∧ t.on (densB d) R.DENS_SHADOW_HELD = false ∧
      (∀ o : Fin 0x60, inDensSet o → t.liveReg (densB d + o) = s.reg (densB d + o)) ∧
      (∀ i : Fin 256, tget tabReset t.tabL (densKey d i) = tget tabReset s.tabS (densKey d i)) ∧
      t.on (densB d) R.DENS_SHADOW_SHADOW_DIRTY = false ∧
      t.on (densB d) R.DENS_SHADOW_PENDING = spectraRun s d ∧
      (spectraRun s d = true → (t.densSt d).handedAt = some (s.recvSample (inputOf d)) ∧ t.force = s.force) ∧
      (spectraRun s d = false → (∀ o : Fin 0x60, inDensSet o → t.forceReg (densB d + o) = s.reg (densB d + o)) ∧
          (∀ i : Fin 256, tget tabReset t.tabF (densKey d i) = tget tabReset s.tabS (densKey d i)) ∧
          (t.densSt d).handedAt = none) ∧
      (densClamped t.rdL d (2 ^ clampLog2n (s.rdL (wbB d) R.WB_CTRL_LOG2N)) = true →
          t.on (densB d) R.DENS_STATUS_CLAMP = true) ∧
      (densLast t.rdL d (2 ^ clampLog2n (s.rdL (wbB d) R.WB_CTRL_LOG2N)) < densFirst t.rdL d →
        t.on (densB d) R.DENS_STATUS_BAD_RANGE = true)) ∧
  (∀ (d : TDie) (v : BitVec 16) (s : State), s.hasT d = true → (max 1 (s.rd (densB d) R.DENS_TAB_ADDR_ENTRY)) ≤ 255 →
      ∃ t, exec (Instr.densTabDataAccess d (some v)) s = .next t ∧ (isLead d = true →
      tget tabReset t.tabS (densKey d (max 1 (s.rd (densB d) R.DENS_TAB_ADDR_ENTRY))) = v.setWidth 32 ∧
      t.on (densB d) R.DENS_SHADOW_SHADOW_DIRTY = true ∧
        t.rd (densB d) R.DENS_TAB_ADDR_ENTRY = if (max 1 (s.rd (densB d) R.DENS_TAB_ADDR_ENTRY)) = 255 then 1 else (max 1 (s.rd (densB d) R.DENS_TAB_ADDR_ENTRY)) + 1) ∧
      (isLead d = false → t = s) ∧ t.tabL = s.tabL) ∧
  (∀ (d : TDie) (s : State), s.hasT d = true → (max 1 (s.rd (densB d) R.DENS_TAB_ADDR_ENTRY)) ≤ 255 →
      ∃ t, exec (Instr.densTabDataAccess d none) s = .next t ∧ (isLead d = true →
      t.readData = tget tabReset (if s.on (densB d) R.DENS_SHADOW_VIEW then s.tabL else s.tabS) (densKey d (max 1 (s.rd (densB d) R.DENS_TAB_ADDR_ENTRY))) ∧
        t.rd (densB d) R.DENS_TAB_ADDR_ENTRY = if (max 1 (s.rd (densB d) R.DENS_TAB_ADDR_ENTRY)) = 255 then 1 else (max 1 (s.rd (densB d) R.DENS_TAB_ADDR_ENTRY)) + 1) ∧
      (isLead d = false → t.readData = tget tabReset s.tabL
        (densKey (pairLead d) (max 1 (s.rd (densB (pairLead d)) R.DENS_TAB_ADDR_ENTRY)))) ∧ t.tabS = s.tabS) ∧
  (∀ (d : TDie) (j : Nat) (s : State), isLead d = true → (s.densSt d).handedAt = some j →
      s.onL (densB d) R.DENS_CTRL_EN = true → s.onF (densB d) R.DENS_CTRL_EN = false →
      ∃ t, exec (Instr.densEnable d) s = .next t ∧ (∀ o : Fin 0x60, inDensSet o →
      t.forceReg (densB d + o) = s.liveReg (densB d + o)) ∧
      (∀ i : Fin 256, tget tabReset t.tabF (densKey d i) = tget tabReset s.tabL (densKey d i)) ∧
      t.onF (densB d) R.DENS_CTRL_EN = true ∧ (t.densSt d).handedAt = none ∧
      (t.densSt d).after = some j ∧ (t.densSt d).fresh = true ∧ t.on (densB d) R.DENS_SHADOW_PENDING = false) ∧
  (∀ (d : TDie) (p : DensPart) (r : List DensPart) (fr : DensFrame) (s : State), (s.densSt d).sent = p :: r →
      (s.densSt d).ended = [(fr, [])] → fr.first = p.frame.first → fr.whole = false →
      ((s.densSt d).counts.map (·.1)).Nodup → (p.counts.map (·.1)).Nodup → (∀ e ∈ (s.densSt d).counts, e.2 ≤ 65535) →
      ∃ t, exec (Instr.densMergeArrive d) s = .next t ∧ (t.densSt d).sent = r ∧ (t.densSt d).ended = [] ∧
      t.rd (densB d) R.DENS_LATE_COUNT_LATE = s.rd (densB d) R.DENS_LATE_COUNT_LATE ∧
      (∀ k, tget noNat (t.densSt d).counts k = (if s.rdF (densB d) R.DENS_DECAY_MODE = 0 then 0
        else if s.rdF (densB d) R.DENS_DECAY_MODE = 1 then (min 65535 (tget noNat (s.densSt d).counts k + tget noNat p.counts k)) - ((min 65535 (tget noNat (s.densSt d).counts k + tget noNat p.counts k)) + 2 ^ max 1 (s.rdF (densB d) R.DENS_DECAY_K) - 1) / 2 ^ max 1 (s.rdF (densB d) R.DENS_DECAY_K)
        else if s.rdF (densB d) R.DENS_DECAY_MODE = 2 then (min 65535 (tget noNat (s.densSt d).counts k + tget noNat p.counts k)) - s.rdF (densB d) R.DENS_DECAY_STEP else (min 65535 (tget noNat (s.densSt d).counts k + tget noNat p.counts k)))) ∧
      (s.onF (densB d) R.DENS_CTRL_MAP_EN = true → (∃ o ∈ (t.densSt d).frames, o.n = fr.f ∧ o.first = fr.first ∧
          o.bytes.take 1 = leBytes 1 (if s.onF (densB d) R.DENS_OUT_FORMAT then 0x42 else 0x40) ∧
        o.addr = s.rdF (densB d) R.DENS_MAP_BASE_BASE * 2 ^ 20 + fr.f % densNbuf s d * o.bytes.length ∧
        (o.bytes.drop 28).take 4 = leBytes 4 (fr.count + p.frame.count)))) ∧
  (∀ (d : TDie) (p : DensPart) (r : List DensPart) (s : State), (s.densSt d).sent = p :: r →
      (s.densSt d).ended.all (fun e => e.1.first != p.frame.first || e.1.whole) = true → (p.counts.map (·.1)).Nodup →
      (∀ e ∈ (s.densSt d).counts, e.2 ≤ 65535) → ∃ t, exec (Instr.densMergeArrive d) s = .next t ∧
      (t.densSt d).sent = r ∧ (t.densSt d).frames = (s.densSt d).frames ∧
      t.rd (densB d) R.DENS_LATE_COUNT_LATE = min (2 ^ 32 - 1) (s.rd (densB d) R.DENS_LATE_COUNT_LATE + 1) ∧
      (∀ k, tget noNat (t.densSt d).counts k = min 65535 (tget noNat (s.densSt d).counts k + tget noNat p.counts k))) ∧
  (∀ (d : TDie) (fr : DensFrame) (n : Tbl Nat) (r : List (DensFrame × Tbl Nat)) (s : State),
      (s.densSt d).ended = (fr, n) :: r → ∃ t, exec (Instr.densMergeTimeout d) s = .next t ∧
      t.on (densB d) R.DENS_STATUS_MERGE_LATE = true ∧ (t.densSt d).ended.length ≤ r.length ∧
      (t.densSt d).sent = (s.densSt d).sent ∧
      (s.onF (densB d) R.DENS_CTRL_MAP_EN = true → (∃ o ∈ (t.densSt d).frames, o.n = fr.f ∧ o.first = fr.first ∧
          o.bytes.take 1 = leBytes 1 (if s.onF (densB d) R.DENS_OUT_FORMAT then 0x42 else 0x40) ∧
        o.addr = s.rdF (densB d) R.DENS_MAP_BASE_BASE * 2 ^ 20 + fr.f % densNbuf s d * o.bytes.length ∧
        bit (ofLe ((o.bytes.drop 2).take 2)) 5 = true ∧ bit (ofLe ((o.bytes.drop 2).take 2)) 12 = true))) ∧
  (∀ (d : TDie) (first : Nat) (e : DensLack) (s : State),
      (s.densSt d).lacking.find? (fun x => x.first == first) = some e →
      ((s.wbSt d).lost.any fun x => decide (first ≤ x.idx) && decide (x.idx < first + e.n)) = false →
      ((s.densSt d).rows.any fun o => o.first == first) = false →
      ∃ t, exec (Instr.densRowRepair d first) s = .next t ∧
      (t.densSt d).lacking = (s.densSt d).lacking.filter (fun x => x.first != first) ∧
      (e.reused = true → t.cap = s.cap ∧
        t.rd (densB d) R.DENS_LATE_COUNT_LATE = min (2 ^ 32 - 1) (s.rd (densB d) R.DENS_LATE_COUNT_LATE + 1)) ∧
      (e.reused = false → s.anyFrozen (hubOf s d) = false → e.addr + 2 ^ 20 ≤ 2 ^ 40 →
        (t.rawByte (hubOf s d) e.addr).toNat = (if e.sg.index8 then 0x43 else 0x41) ∧
        bit (t.rawByte (hubOf s d) (e.addr + 2)).toNat 6 = true ∧
            t.leAt (hubOf s d) (e.addr + 20) 8 = first % 2 ^ 64 ∧
        t.leAt (hubOf s d) (e.addr + 28) 4 = (e.whole s d).n % 2 ^ 32))

/-- The zoom channels (R239, R245, R246, R251 to R254, R263 to R267).
* CHZ_PRIMED (R239): the bank shows that its filter is full.
* ZOOM_OUTPUT (R245, R246, R249, R263): the channel's next output is emitted, zero and PRIMING until its cascade is
  full, and enters its block. The filter's taps and the mixer's spurs are open values (log entries 72 and 186).
* ZOOM_BLOCK_WRITTEN (R263, R264): the oldest closed block stands in its slot of the ring, is counted, and line ZOOM
  pulses.
* ZOOM_BLOCK_WRITTEN with room for fewer than two blocks (R263): nothing is written and RING_SMALL sets.
* CHZ_COMMIT (R245, R251, R252): each channel of the mask hands over its set, with one switch point for all, or
  waits for the stream; a channel whose hand-over is pending is held; the others are left as they are. What counts
  as the sample being received is the model's reading (log entry 30).
* CHZ_REVERT (R96, R252): the live sets of the channels of the mask come back into their shadow sets.
* CHZ_SYNC (R254): each channel of the mask is to be reset at the next switch point, that of its hand-over while one
  is pending, or waits for the stream.
* CHZ_HELD_HANDOVER (R94, R252): once PENDING has cleared the held commit of the channel hands over.
* ZOOM_SWITCH_POINT (R251, R253, R254): at the earliest switch point the live sets of its channels take effect; a
  channel with a reset due, or whose EN, BAND or L changes, starts a new run; the others go on.
* ZOOM_CHANNEL_FAULT (R267): the channel has failed, and a FAULT event tells the planner which.
* REPLAY_REBUILD, the last output of a channel that moved (R266, R267): the rebuilt block closes with REPAIRED, for
  the ring of the channel its settings have gone to.
* REPLAY_REBUILD for a core that replays (R266): the output goes to the spare core's port with REPAIRED. -/
def Obligations.ChzRowsComplete : Prop :=
  (∀ (d : TDie) (s : State), s.usableT d = true → streamRuns s d = true → ∃ t, exec (Instr.chzPrimed d) s = .next t ∧
      t.on (chzB d) R.CHZ_STATUS_PRIMED = true ∧ t.zooms = s.zooms) ∧
  (∀ (d : TDie) (n : Fin 128) (s : State), s.usableT d = true → (s.zoom d n).run = true →
      zoomBlocked s d n (zoomN (s.zoom d n).uS (zoomL s.rdF d n) (s.zoom d n).v) = false →
      (zoomSpan (s.zoom d n).uS (zoomL s.rdF d n) (s.zoom d n).v).2 < s.streamHead (inputOf d) →
      ∃ t, exec (Instr.zoomOutput d n) s = .next t ∧ (t.zoom d n).v = (s.zoom d n).v + 1 ∧
      t.on (zcB d n) R.ZC_n_STATUS_PRIMING = decide (((s.zoom d n).v + 1) * zoomL s.rdF d n - 1 < 3 * (zoomL s.rdF d n - 1)) ∧
      (s.onF (zcB d n) R.ZC_n_OUT_MEM = true → (s.zoom d n).blk = none → ∃ b, (t.zoom d n).blk = some b ∧
          b.first = (s.zoom d n).v ∧
        b.data = [((zoomOut s d n (s.zoom d n).v (s.zoom d n).cur (s.dieSample d) (zoomBits s d (zoomSpan (s.zoom d n).uS (zoomL s.rdF d n) (s.zoom d n).v))).1.i, (zoomOut s d n (s.zoom d n).v (s.zoom d n).cur (s.dieSample d) (zoomBits s d (zoomSpan (s.zoom d n).uS (zoomL s.rdF d n) (s.zoom d n).v))).1.q)]) ∧
      (((s.zoom d n).v + 1) * zoomL s.rdF d n - 1 < 3 * (zoomL s.rdF d n - 1) →
          (zoomOut s d n (s.zoom d n).v (s.zoom d n).cur (s.dieSample d) (zoomBits s d (zoomSpan (s.zoom d n).uS (zoomL s.rdF d n) (s.zoom d n).v))).1.i = 0 ∧ (zoomOut s d n (s.zoom d n).v (s.zoom d n).cur (s.dieSample d) (zoomBits s d (zoomSpan (s.zoom d n).uS (zoomL s.rdF d n) (s.zoom d n).v))).1.q = 0)) ∧
  (∀ (d : TDie) (n : Fin 128) (i size : Nat) (l : List Byte) (r : List (Nat × Nat × List Byte)) (s : State),
      (s.zoom d n).closed = (i, size, l) :: r → 2 ≤ s.rd (zcB d n) R.ZC_n_RING_SIZE_SIZE * 1024 / size →
      ∃ t, exec (Instr.zoomBlockWritten d n) s = .next t ∧ (t.zoom d n).closed = r ∧
      t.rd (zcB d n) R.ZC_n_BLOCKS_BLOCKS = (s.rd (zcB d n) R.ZC_n_BLOCKS_BLOCKS + 1) % 2 ^ 32 ∧
      t.on (zcB d n) R.ZC_n_STATUS_RING_SMALL = false ∧ pulsed s t (hubOf s d) (0x6000 + 128 * (d.val % 2) + n.val) ∧
      (storable s (hubOf s d) (s.rd (zcB d n) R.ZC_n_RING_BASE_BASE * 2 ^ 20 + i % (s.rd (zcB d n) R.ZC_n_RING_SIZE_SIZE * 1024 / size) * size) l →
        stored t (hubOf s d) (s.rd (zcB d n) R.ZC_n_RING_BASE_BASE * 2 ^ 20 + i % (s.rd (zcB d n) R.ZC_n_RING_SIZE_SIZE * 1024 / size) * size) l)) ∧
  (∀ (d : TDie) (n : Fin 128) (i size : Nat) (l : List Byte) (r : List (Nat × Nat × List Byte)) (s : State),
      (s.zoom d n).closed = (i, size, l) :: r → s.rd (zcB d n) R.ZC_n_RING_SIZE_SIZE * 1024 / size < 2 →
      ∃ t, exec (Instr.zoomBlockWritten d n) s = .next t ∧ (t.zoom d n).closed = r ∧
      t.on (zcB d n) R.ZC_n_STATUS_RING_SMALL = true ∧ t.cap = s.cap ∧
      t.rd (zcB d n) R.ZC_n_BLOCKS_BLOCKS = s.rd (zcB d n) R.ZC_n_BLOCKS_BLOCKS) ∧
  (∀ (d : TDie) (k : Fin 4) (m : Word) (s : State), s.usableT d = true →
      ∃ t, exec (Instr.chzCommit d k m) s = .next t ∧ (∀ b : Fin 32, bit m.toNat b = true →
        (s.on (chzB d) (zoomMap R.CHZ_PENDING_k_PENDING (32 * k.val + b.val)) = true ∨
            s.on (chzB d) (zoomMap R.CHZ_HELD_k_HELD (32 * k.val + b.val)) = true →
          t.on (chzB d) (zoomMap R.CHZ_HELD_k_HELD (32 * k.val + b.val)) = true ∧
              (∀ o : Fin 28, t.liveReg (zcB d (32 * k.val + b.val) + zcLo + o) = s.liveReg (zcB d (32 * k.val + b.val) + zcLo + o))) ∧
        (s.on (chzB d) (zoomMap R.CHZ_PENDING_k_PENDING (32 * k.val + b.val)) = false →
            s.on (chzB d) (zoomMap R.CHZ_HELD_k_HELD (32 * k.val + b.val)) = false →
            (∀ o : Fin 28, t.liveReg (zcB d (32 * k.val + b.val) + zcLo + o) = s.reg (zcB d (32 * k.val + b.val) + zcLo + o)) ∧ t.on (chzB d) (zoomMap R.CHZ_PENDING_k_PENDING (32 * k.val + b.val)) = true ∧ t.on (chzB d) (zoomMap R.CHZ_DIRTY_k_DIRTY (32 * k.val + b.val)) = false ∧
        (streamRuns s d = true → (t.zoom d (32 * k.val + b.val)).sw = some (zoomSwitchPoint s d)) ∧
        (streamRuns s d = false → (t.zoom d (32 * k.val + b.val)).waitSw = true) ∧
        (clampL (s.rd (zcB d (32 * k.val + b.val)) R.ZC_n_DEC_L) ≠ s.rd (zcB d (32 * k.val + b.val)) R.ZC_n_DEC_L →
            t.on (zcB d (32 * k.val + b.val)) R.ZC_n_STATUS_CLAMP = true))) ∧
      (∀ b : Fin 32, bit m.toNat b = false →
          (∀ o : Fin 28, t.liveReg (zcB d (32 * k.val + b.val) + zcLo + o) = s.liveReg (zcB d (32 * k.val + b.val) + zcLo + o)) ∧
        t.on (chzB d) (zoomMap R.CHZ_PENDING_k_PENDING (32 * k.val + b.val)) = s.on (chzB d) (zoomMap R.CHZ_PENDING_k_PENDING (32 * k.val + b.val)))) ∧
  (∀ (d : TDie) (k : Fin 4) (m : Word) (s : State), s.usableT d = true →
      ∃ t, exec (Instr.chzRevert d k m) s = .next t ∧ (∀ b : Fin 32, bit m.toNat b = true →
      (∀ o : Fin 28, t.reg (zcB d (32 * k.val + b.val) + zcLo + o) = s.liveReg (zcB d (32 * k.val + b.val) + zcLo + o)) ∧ t.on (chzB d) (zoomMap R.CHZ_DIRTY_k_DIRTY (32 * k.val + b.val)) = false) ∧
      (∀ b : Fin 32, bit m.toNat b = false →
          (∀ o : Fin 28, t.reg (zcB d (32 * k.val + b.val) + zcLo + o) = s.reg (zcB d (32 * k.val + b.val) + zcLo + o))) ∧ t.live = s.live) ∧
  (∀ (d : TDie) (k : Fin 4) (m : Word) (s : State), s.usableT d = true → ∃ t, exec (Instr.chzSync d k m) s = .next t ∧
      (∀ b : Fin 32, bit m.toNat b = true → if streamRuns s d = true
        then (s.zoom d (32 * k.val + b.val)).sw.getD (zoomSwitchPoint s d) ∈ (t.zoom d (32 * k.val + b.val)).syncs
        else (t.zoom d (32 * k.val + b.val)).waitSync = true) ∧
      (∀ b : Fin 32, bit m.toNat b = false → t.zoom d (32 * k.val + b.val) = s.zoom d (32 * k.val + b.val)) ∧
          t.regs = s.regs) ∧
  (∀ (d : TDie) (n : Fin 128) (s : State), s.on (chzB d) (zoomMap R.CHZ_HELD_k_HELD n) = true →
      s.on (chzB d) (zoomMap R.CHZ_PENDING_k_PENDING n) = false → ∃ t, exec (Instr.chzHeldHandover d n) s = .next t ∧
      t.on (chzB d) (zoomMap R.CHZ_HELD_k_HELD n) = false ∧
      (∀ o : Fin 28, t.liveReg (zcB d n + zcLo + o) = s.reg (zcB d n + zcLo + o)) ∧
      t.on (chzB d) (zoomMap R.CHZ_PENDING_k_PENDING n) = true ∧
      t.on (chzB d) (zoomMap R.CHZ_DIRTY_k_DIRTY n) = false ∧
      (streamRuns s d = true → (t.zoom d n).sw = some (zoomSwitchPoint s d)) ∧
      (streamRuns s d = false → (t.zoom d n).waitSw = true) ∧
      (clampL (s.rd (zcB d n) R.ZC_n_DEC_L) ≠ s.rd (zcB d n) R.ZC_n_DEC_L →
          t.on (zcB d n) R.ZC_n_STATUS_CLAMP = true)) ∧
  (∀ (d : TDie) (p : Nat) (s : State), s.usableT d = true → nextPoint s d = some p →
      ∃ t, exec (Instr.zoomSwitchPoint d) s = .next t ∧ (∀ n : Fin 128, (s.zoom d n).sw = some p →
      (t.zoom d n).sw = none ∧ t.on (chzB d) (zoomMap R.CHZ_PENDING_k_PENDING n) = false ∧
      (∀ o : Fin 28, t.forceReg (zcB d n + zcLo + o) = s.liveReg (zcB d n + zcLo + o))) ∧
      (∀ n : Fin 128, p ∈ (s.zoom d n).syncs ∨ ((s.zoom d n).sw = some p ∧ zoomResets s d n = true) →
          (t.zoom d n).uS = 5 * p / 256 ∧ (t.zoom d n).v = 0 ∧
        (t.zoom d n).runs = ((s.zoom d n).runs + 1) % 2 ^ 32 ∧ p ∉ (t.zoom d n).syncs ∧
        (t.zoom d n).run = (t.onF (zcB d n) R.ZC_n_CTRL_EN && s.on (chzB d) R.CHZ_CTRL_EN && streamRuns s d)) ∧
      (∀ n : Fin 128, (s.zoom d n).sw ≠ some p → p ∉ (s.zoom d n).syncs →
          (∀ o : Fin 28, t.forceReg (zcB d n + zcLo + o) = s.forceReg (zcB d n + zcLo + o)) ∧
          (t.zoom d n).v = (s.zoom d n).v ∧ (t.zoom d n).run = (s.zoom d n).run)) ∧
  (∀ (d : TDie) (n : Fin 128) (s : State), s.usableT d = true → (s.zoom d n).failed = false →
      ∃ t, exec (Instr.zoomChannelFault d n) s = .next t ∧ (t.zoom d n).failed = true ∧
      (∃ e ∈ t.flight, e.source = 99 + 8 * d.val ∧ e.detail = n.val) ∧ t.regs = s.regs) ∧
  (∀ (d : TDie) (n : Fin 128) (v m : Nat) (s : State), s.usableT d = true → zoomReplay s d = true →
      (s.zoom d n).movedTo = some m → ∃ t, exec (Instr.replayRebuild d n v true) s = .next t ∧
      (t.zoom d n).rebuilt = none ∧ (t.zoom d m).blkNo = (s.zoom d m).blkNo + 1 ∧
      (∃ e ∈ (t.zoom d m).closed, e.1 = (s.zoom d m).blkNo ∧ bit (ofLe ((e.2.2.drop 2).take 2)) 6 = true)) ∧
  (∀ (d : TDie) (n : Fin 128) (v c : Nat) (last : Bool) (s : State), s.usableT d = true → zoomReplay s d = true →
      (s.zoom d n).movedTo = none → s.rd (zcB d n) R.ZC_n_ROUTE_CORE = c → c < 132 →
      s.onC d c R.CORE_c_STATUS_REPLAY = true →
      (tget noWords (s.core d c).inp (s.rd (zcB d n) R.ZC_n_ROUTE_PORT)).length < 64 →
      ∃ t, exec (Instr.replayRebuild d n v last) s = .next t ∧
      (∃ w ∈ tget noWords (t.core d c).inp (s.rd (zcB d n) R.ZC_n_ROUTE_PORT),
      tget noWords (t.core d c).inp (s.rd (zcB d n) R.ZC_n_ROUTE_PORT) =
        tget noWords (s.core d c).inp (s.rd (zcB d n) R.ZC_n_ROUTE_PORT) ++ [w] ∧ bit w.tags 5 = true))

/-- The ALU and IMM instructions of the channel cores (R279, R320, R325, R326). `aluDo` is the model's table of R325.
* ADD, ADC, SUB, SBC, ADDS, SUBS, AND, OR, XOR, ANDN, ASR, LSR, LSL, MIN, MAX, ABS, NEG, NOT, CMP, TST and NORM
  (R320, R325): where the condition holds the result of R325 goes to xd, but for CMP and TST, with its flags; where
  it does not no register changes.
* ADDI, ANDI, ORI, XORI, CMPI and SHI (R320, R326): the same with the sign-extended immediate, or by the shift that
  it names. -/
def Obligations.AluRowsComplete : Prop :=
  (∀ (d : TDie) (c : CoreIx) (e : EccRead) (f : AluFn) (cond xd xs xt : BitVec 4) (s : State),
      issues s d c e (.alu f cond xd xs xt) = true → ∃ t, exec (aluRow f d c e) s = .next t ∧
      (condHolds (s.core d c) cond.toNat = true → (f ≠ .cmp → f ≠ .tst →
      ((t.core d c).cur (s.core d c).bank xd.toNat) % 2 ^ 24 = (aluDo f ((s.core d c).x xs.toNat) ((s.core d c).x xt.toNat) (b2n (bit ((s.core d c).sr .reg) 2))).r % 2 ^ 24) ∧
        bit ((t.core d c).cur (s.core d c).bank 0x38) 0 = decide ((aluDo f ((s.core d c).x xs.toNat) ((s.core d c).x xt.toNat) (b2n (bit ((s.core d c).sr .reg) 2))).r = 0) ∧ bit ((t.core d c).cur (s.core d c).bank 0x38) 1 = bit (aluDo f ((s.core d c).x xs.toNat) ((s.core d c).x xt.toNat) (b2n (bit ((s.core d c).sr .reg) 2))).r 23 ∧
        bit ((t.core d c).cur (s.core d c).bank 0x38) 2 = (aluDo f ((s.core d c).x xs.toNat) ((s.core d c).x xt.toNat) (b2n (bit ((s.core d c).sr .reg) 2))).c.getD (bit ((s.core d c).cur (s.core d c).bank 0x38) 2) ∧
        bit ((t.core d c).cur (s.core d c).bank 0x38) 3 = (aluDo f ((s.core d c).x xs.toNat) ((s.core d c).x xt.toNat) (b2n (bit ((s.core d c).sr .reg) 2))).v.getD (bit ((s.core d c).cur (s.core d c).bank 0x38) 3)) ∧
      (condHolds (s.core d c) cond.toNat = false → (t.core d c).regs = (s.core d c).regs) ∧ (straight (s.core d c) →
          (t.core d c).pc = ((s.core d c).pc + 1) % 16384)) ∧
  (∀ (d : TDie) (c : CoreIx) (e : EccRead) (f : ImmFn) (cond xd xs : BitVec 4) (i : BitVec 14) (s : State),
      issues s d c e (.imm f cond xd xs i) = true → ∃ t, exec (immRow f d c e) s = .next t ∧
      (condHolds (s.core d c) cond.toNat = true → (f ≠ .cmpi →
      ((t.core d c).cur (s.core d c).bank xd.toNat) % 2 ^ 24 = (immOut f ((s.core d c).x xs.toNat) i).r % 2 ^ 24) ∧
        bit ((t.core d c).cur (s.core d c).bank 0x38) 0 = decide ((immOut f ((s.core d c).x xs.toNat) i).r = 0) ∧
            bit ((t.core d c).cur (s.core d c).bank 0x38) 1 = bit (immOut f ((s.core d c).x xs.toNat) i).r 23 ∧
        bit ((t.core d c).cur (s.core d c).bank 0x38) 2 = (immOut f ((s.core d c).x xs.toNat) i).c.getD (bit ((s.core d c).cur (s.core d c).bank 0x38) 2) ∧
        bit ((t.core d c).cur (s.core d c).bank 0x38) 3 = (immOut f ((s.core d c).x xs.toNat) i).v.getD (bit ((s.core d c).cur (s.core d c).bank 0x38) 3)) ∧
      (condHolds (s.core d c) cond.toNat = false → (t.core d c).regs = (s.core d c).regs) ∧ (straight (s.core d c) →
          (t.core d c).pc = ((s.core d c).pc + 1) % 16384))

/-- The accumulator, multiply and search instructions of the channel cores (R291 to R294, R329 to R333).
* CLRA, MOVA, ADDA, SUBA, NEGA, ABSA, ASHA, LDAH and LDAL (R293, R331): the exact result goes to accumulator A,
  saturated or wrapped by R293 where it is out of range, with its sticky flag, and sets Z and N.
* An accumulator instruction whose condition fails (R320): no register changes.
* EXT (R294, R332): the accumulator times 2^s, rounded if RND is set, is extracted with saturation, which sets XSAT.
* CMPA (R331): Z and N of the exact difference.
* MPY, MAC, MSU and LDD (R292, R293, R329, R330): the exact product, doubled in fractional mode, is put in, added to
  or taken from the accumulator; with the load the words at Pi and Pj go to xc and xd and both pointers are post-
  modified. LDD only loads.
* MAXI and MINI (R333): a better candidate and its index are taken, the index counts on, and the load brings the
  next word. -/
def Obligations.AccMacRowsComplete : Prop :=
  (∀ (d : TDie) (c : CoreIx) (e : EccRead) (f : AccFn) (cond : BitVec 4) (a b : BitVec 1) (xr : BitVec 4) (sh : BitVec 5) (s : State), issues s d c e (.acc f cond a b xr sh) = true → condHolds (s.core d c) cond.toNat = true → f ≠ .ext → f ≠ .cmpa → ∃ t, exec (accRow f d c e) s = .next t ∧ sx 56 ((t.core d c).cur (s.core d c).bank (0x10 + 3 * a.toNat)) = accRanged (s.core d c) a.toNat (accExact f ((s.core d c).ac .acc a.toNat) ((s.core d c).ac .acc b.toNat) ((s.core d c).xI xr.toNat) sh) ∧ (((accExact f ((s.core d c).ac .acc a.toNat) ((s.core d c).ac .acc b.toNat) ((s.core d c).xI xr.toNat) sh) < -(2 ^ 55) ∨ 2 ^ 55 ≤ (accExact f ((s.core d c).ac .acc a.toNat) ((s.core d c).ac .acc b.toNat) ((s.core d c).xI xr.toNat) sh)) → bit ((t.core d c).cur (s.core d c).bank 0x38) (accFlag (s.core d c) a.toNat) = true) ∧
      bit ((t.core d c).cur (s.core d c).bank 0x38) 0 = decide (accRanged (s.core d c) a.toNat (accExact f ((s.core d c).ac .acc a.toNat) ((s.core d c).ac .acc b.toNat) ((s.core d c).xI xr.toNat) sh) = 0) ∧ bit ((t.core d c).cur (s.core d c).bank 0x38) 1 = decide (accRanged (s.core d c) a.toNat (accExact f ((s.core d c).ac .acc a.toNat) ((s.core d c).ac .acc b.toNat) ((s.core d c).xI xr.toNat) sh) < 0)) ∧
  (∀ (d : TDie) (c : CoreIx) (e : EccRead) (f : AccFn) (cond : BitVec 4) (a b : BitVec 1) (xr : BitVec 4) (sh : BitVec 5) (s : State), issues s d c e (.acc f cond a b xr sh) = true → condHolds (s.core d c) cond.toNat = false → ∃ t, exec (accRow f d c e) s = .next t ∧ (t.core d c).regs = (s.core d c).regs) ∧
  (∀ (d : TDie) (c : CoreIx) (e : EccRead) (cond : BitVec 4) (a b : BitVec 1) (xr : BitVec 4) (sh : BitVec 5) (s : State), issues s d c e (.acc .ext cond a b xr sh) = true → condHolds (s.core d c) cond.toNat = true → ∃ t, exec (Instr.coreExt d c e) s = .next t ∧ ((t.core d c).cur (s.core d c).bank xr.toNat) % 2 ^ 24 = enc 24 (clampI (-(2 ^ 23)) (2 ^ 23 - 1) (((s.core d c).ac .acc b.toNat * 2 ^ sh.toNat + (if bit ((s.core d c).sr .mode) 19 then 2 ^ 23 else 0)) / 2 ^ 24)) ∧
      ((((s.core d c).ac .acc b.toNat * 2 ^ sh.toNat + (if bit ((s.core d c).sr .mode) 19 then 2 ^ 23 else 0)) / 2 ^ 24) < -(2 ^ 23) ∨ 2 ^ 23 ≤ (((s.core d c).ac .acc b.toNat * 2 ^ sh.toNat + (if bit ((s.core d c).sr .mode) 19 then 2 ^ 23 else 0)) / 2 ^ 24) → bit ((t.core d c).cur (s.core d c).bank 0x38) 12 = true)) ∧
  (∀ (d : TDie) (c : CoreIx) (e : EccRead) (cond : BitVec 4) (a b : BitVec 1) (xr : BitVec 4) (sh : BitVec 5) (s : State), issues s d c e (.acc .cmpa cond a b xr sh) = true → condHolds (s.core d c) cond.toNat = true → ∃ t, exec (Instr.coreCmpa d c e) s = .next t ∧ bit ((t.core d c).cur (s.core d c).bank 0x38) 0 = decide ((s.core d c).ac .acc a.toNat = (s.core d c).ac .acc b.toNat) ∧
      bit ((t.core d c).cur (s.core d c).bank 0x38) 1 = decide ((s.core d c).ac .acc a.toNat < (s.core d c).ac .acc b.toNat)) ∧
  (∀ (d : TDie) (c : CoreIx) (e : EccRead) (f : MacFn) (a : BitVec 1) (xa xb : BitVec 4) (ld : BitVec 1) (xc : BitVec 4) (pi : BitVec 3) (xd : BitVec 4) (pj : BitVec 3) (r : Int) (s : State), issues s d c e (.mac f a xa xb ld xc pi xd pj) = true → r = (match f with
      | .mpy | .ldd => 0
      | .mac | .msu => (s.core d c).ac .mac a.toNat) +
      (match f with
      | .msu => -1
      | _ => 1) * ((s.core d c).xI xa.toNat * (s.core d c).xI xb.toNat * (if bit ((s.core d c).sr .mode) 18 = true then 2 else 1)) → ∃ t, exec (macRow f d c e) s = .next t ∧ (f ≠ .ldd → sx 56 ((t.core d c).cur (s.core d c).bank (0x10 + 3 * a.toNat)) = accRanged (s.core d c) a.toNat r ∧ ((r < -(2 ^ 55) ∨ 2 ^ 55 ≤ r) → bit ((t.core d c).cur (s.core d c).bank 0x38) (accFlag (s.core d c) a.toNat) = true)) ∧
      (ld = 1 → ((t.core d c).cur (s.core d c).bank xd.toNat) % 2 ^ 24 = dmSeen s d c ((s.core d c).ptr pj.toNat) % 2 ^ 24 ∧
        (xc ≠ xd → ((t.core d c).cur (s.core d c).bank xc.toNat) % 2 ^ 24 = dmSeen s d c ((s.core d c).ptr pi.toNat) % 2 ^ 24) ∧
        ((t.core d c).cur (s.core d c).bank (0x18 + pi.toNat)) % 2 ^ 24 = (s.core d c).postMod pi.toNat ∧
            ((t.core d c).cur (s.core d c).bank (0x18 + pj.toNat)) % 2 ^ 24 = (s.core d c).postMod pj.toNat)) ∧
  (∀ (d : TDie) (c : CoreIx) (e : EccRead) (mn : Bool) (xm xi xs xk : BitVec 4) (ld : BitVec 1) (xl : BitVec 4) (pl : BitVec 3) (s : State), issues s d c e (.srch mn xm xi xs xk ld xl pl) = true → ∃ t, exec (if mn then Instr.coreMini d c e else Instr.coreMaxi d c e) s = .next t ∧ ((ld = 0 ∨ xl ≠ xk) → ((t.core d c).cur (s.core d c).bank xk.toNat) % 2 ^ 24 = ((s.core d c).x xk.toNat + 1) % 2 ^ 24) ∧
      ((if mn then (s.core d c).xI xs.toNat < (s.core d c).xI xm.toNat else (s.core d c).xI xm.toNat < (s.core d c).xI xs.toNat) → xm ≠ xi → xm ≠ xk → xi ≠ xk →
        ((ld = 0 ∨ xl ≠ xm) → ((t.core d c).cur (s.core d c).bank xm.toNat) % 2 ^ 24 = (s.core d c).x xs.toNat % 2 ^ 24) ∧
        ((ld = 0 ∨ xl ≠ xi) → ((t.core d c).cur (s.core d c).bank xi.toNat) % 2 ^ 24 = (s.core d c).x xk.toNat % 2 ^ 24)) ∧
      ((if mn then (s.core d c).xI xm.toNat ≤ (s.core d c).xI xs.toNat else (s.core d c).xI xs.toNat ≤ (s.core d c).xI xm.toNat) → xm ≠ xk → (ld = 0 ∨ xl ≠ xm) →
        ((t.core d c).cur (s.core d c).bank xm.toNat) = (s.core d c).cur (s.core d c).bank xm.toNat) ∧
      (ld = 1 → ((t.core d c).cur (s.core d c).bank xl.toNat) % 2 ^ 24 = dmSeen s d c ((s.core d c).ptr pl.toNat) % 2 ^ 24 ∧ ((t.core d c).cur (s.core d c).bank (0x18 + pl.toNat)) % 2 ^ 24 = (s.core d c).postMod pl.toNat))

/-- The moves, immediates, loads and stores of the channel cores (R289, R321, R322, R326 to R328).
* MOV (R320 to R322, R327): the register named by src, as it reads in this cycle, goes into the one named by dst,
  the writable bits of SR and the LC of an open loop level among them. What a timer or an interrupt changes in the
  same cycle comes first (log entry 81).
* LDI (R327): the sign-extended immediate goes into the register.
* LDIH (R327): bits [23:16] of the register take the immediate, the others stay.
* LD (R289, R328): the data word at Pn, at Pn plus the offset, or at the absolute address goes into the register; in
  the post-modify mode Pn takes its next address.
* ST (R289, R328): the data word at the address takes the register, and no other data word changes. -/
def Obligations.MoveRowsComplete : Prop :=
  (∀ (d : TDie) (c : CoreIx) (e : EccRead) (cond : BitVec 4) (dst src : BitVec 7) (s : State),
      issues s d c e (.mov cond dst src) = true → ∃ t, exec (Instr.coreMov d c e) s = .next t ∧
      (condHolds (s.core d c) cond.toNat = true →
      regGets (s.core d c) (t.core d c) dst.toNat (((s.core d c).tick 1).readReg src.toNat % 2 ^ 24) ∧
        (∀ n : Fin 4, dst.toNat = 0x42 + 4 * n.val → n.val < (s.core d c).loops.length →
            (s.core d c).loops.head?.map (·.le) ≠ some (s.core d c).pc →
        (loopsIn (s.core d c) (t.core d c))[n.val]?.map (fun l : CoreLoop => l.lc) = some (((s.core d c).tick 1).readReg src.toNat % 2 ^ 24))) ∧
      (condHolds (s.core d c) cond.toNat = false → (t.core d c).regs = (s.core d c).regs ∧
          (t.core d c).ira = (s.core d c).ira ∧ (t.core d c).dbr = (s.core d c).dbr)) ∧
  (∀ (d : TDie) (c : CoreIx) (e : EccRead) (reg : BitVec 7) (i : BitVec 16) (s : State),
      issues s d c e (.ldi false reg i) = true → ∃ t, exec (Instr.coreLdi d c e) s = .next t ∧
      regGets (s.core d c) (t.core d c) reg.toNat (enc 24 i.toInt) ∧ (∀ n : Fin 4, reg.toNat = 0x42 + 4 * n.val →
      n.val < (s.core d c).loops.length → (s.core d c).loops.head?.map (·.le) ≠ some (s.core d c).pc →
        (loopsIn (s.core d c) (t.core d c))[n.val]?.map (fun l : CoreLoop => l.lc) = some (enc 24 i.toInt))) ∧
  (∀ (d : TDie) (c : CoreIx) (e : EccRead) (reg : BitVec 7) (i : BitVec 16) (s : State),
      issues s d c e (.ldi true reg i) = true → ∃ t, exec (Instr.coreLdih d c e) s = .next t ∧ (reg.toNat < 0x10 →
      ((t.core d c).cur (s.core d c).bank reg.toNat) % 2 ^ 24 = (s.core d c).cur (s.core d c).bank reg.toNat % 2 ^ 16 + (i.toNat % 256) * 2 ^ 16) ∧
      (0x10 ≤ reg.toNat → regGets (s.core d c) (t.core d c) reg.toNat ((((s.core d c).tick 1).readReg reg.toNat % 2 ^ 16 + (i.toNat % 256) * 2 ^ 16) % 2 ^ 24))) ∧
  (∀ (d : TDie) (c : CoreIx) (e : EccRead) (reg : BitVec 7) (pn : BitVec 3) (m : BitVec 2) (off : BitVec 14) (s : State), issues s d c e (.mem false reg pn m off) = true → ∃ t, exec (Instr.coreLd d c e) s = .next t ∧ ((reg.toNat ≠ 0x18 + pn.toNat ∨ m ≠ 0) → regGets (s.core d c) (t.core d c) reg.toNat (dmSeen s d c (memAddr (s.core d c) pn.toNat m off) % 2 ^ 24)) ∧
      (m = 0 → ((t.core d c).cur (s.core d c).bank (0x18 + pn.toNat)) % 2 ^ 24 = (s.core d c).postMod pn.toNat) ∧
      memAddr (s.core d c) pn.toNat m off = (if m = 2 then ((((s.core d c).ptr pn.toNat : Int) + off.toInt) % 16384).toNat
        else if m = 3 then off.toNat else (s.core d c).ptr pn.toNat)) ∧
  (∀ (d : TDie) (c : CoreIx) (e : EccRead) (reg : BitVec 7) (pn : BitVec 3) (m : BitVec 2) (off : BitVec 14) (s : State), issues s d c e (.mem true reg pn m off) = true → ∃ t, exec (Instr.coreSt d c e) s = .next t ∧ t.dm d c (memAddr (s.core d c) pn.toNat m off) = ((s.core d c).tick 1).readReg reg.toNat % 2 ^ 24 ∧
      (m = 0 → ((t.core d c).cur (s.core d c).bank (0x18 + pn.toNat)) % 2 ^ 24 = (s.core d c).postMod pn.toNat) ∧
      (∀ a : Fin 16384, a.val ≠ memAddr (s.core d c) pn.toNat m off → t.dm d c a = s.dm d c a))

/-- The control instructions of the channel cores (R282, R285 to R288, R298, R334 to R337, R342).
* NOP (R282, R285, R286, R298): nothing but the pc changes; the last of two delay slots ends in the transfer's
  target, or in the return from the interrupt.
* NOP at the end of the innermost loop (R285): the loop goes round with one count less, or ends.
* HALT (R342): the core halts with cause HALT; its pc stands after the instruction.
* JMP, CALL, JR and RETI (R282, R286, R298, R335): two delay slots follow; a taken transfer leaves its target, CALL
  its link, and RETI the return to bank 0.
* REP (R287, R288, R336): a loop of the count given, immediate or from a register, opens with the next instruction;
  a count of 0 skips it; with four levels open the core halts with cause LOOP_OVF. Where the pc stands after a skip
  and a halt is the model's reading (log entries 77 and 78).
* LEXIT (R337): the innermost loop ends; with none open the core halts with cause LOOP_UNF. -/
def Obligations.ControlRowsComplete : Prop :=
  (∀ (d : TDie) (c : CoreIx) (e : EccRead)  (s : State), issues s d c e .nop = true →
      ∃ t, exec (Instr.coreNop d c e) s = .next t ∧ (t.core d c).regs = (s.core d c).regs ∧
      (straight (s.core d c) → (t.core d c).pc = ((s.core d c).pc + 1) % 16384 ∧
          (t.core d c).loops0 = (s.core d c).loops0 ∧ (t.core d c).loops1 = (s.core d c).loops1) ∧
      ((s.core d c).slots = 2 → (s.core d c).loops = [] → (t.core d c).slots = 1 ∧
          (t.core d c).pc = ((s.core d c).pc + 1) % 16384 ∧ (t.core d c).target = (s.core d c).target) ∧
      ((s.core d c).slots = 1 → (s.core d c).reti = false → ∀ a : Nat, (s.core d c).target = some a →
          (t.core d c).slots = 0 ∧ (t.core d c).pc = a ∧ (t.core d c).target = none) ∧
      ((s.core d c).slots = 1 → (s.core d c).reti = true → (t.core d c).slots = 0 ∧
          (t.core d c).pc = (s.core d c).ira ∧ (t.core d c).bank = 0)) ∧
  (∀ (d : TDie) (c : CoreIx) (e : EccRead) (l : CoreLoop) (r : List CoreLoop) (s : State),
      issues s d c e .nop = true → (s.core d c).slots = 0 → (s.core d c).loops = l :: r → l.le = (s.core d c).pc →
      (s.core d c).lcMoves = [] → ∃ t, exec (Instr.coreNop d c e) s = .next t ∧ (1 < l.lc →
      loopsIn (s.core d c) (t.core d c) = { l with lc := l.lc - 1 } :: r ∧ (t.core d c).pc = l.ls) ∧
      (l.lc ≤ 1 → (∀ x ∈ r, x.le ≠ (s.core d c).pc) → loopsIn (s.core d c) (t.core d c) = r ∧
          (t.core d c).pc = ((s.core d c).pc + 1) % 16384)) ∧
  (∀ (d : TDie) (c : CoreIx) (e : EccRead)  (s : State), issues s d c e .halt = true →
      ∃ t, exec (Instr.coreHalt d c e) s = .next t ∧ haltedAt t d c 4 (((s.core d c).pc + 1) % 16384)) ∧
  (∀ (d : TDie) (c : CoreIx) (e : EccRead) (f : CtlFn) (cond : BitVec 4) (pn : BitVec 3) (g : BitVec 14) (s : State),
      issues s d c e (.ctl f cond pn g) = true → ∃ t, exec (ctlRow f d c e) s = .next t ∧ (t.core d c).slots = 2 ∧
      (t.core d c).pc = ((s.core d c).pc + 1) % 16384 ∧
      (t.core d c).reti = (condHolds (s.core d c) cond.toNat && decide (f = .reti)) ∧
      (t.core d c).target = (if condHolds (s.core d c) cond.toNat = false then none else match f with
        | .jmp | .call => some g.toNat
        | .jr => some ((s.core d c).ptr pn.toNat)
        | .reti => none) ∧
      (f = .call → condHolds (s.core d c) cond.toNat = true →
          ((t.core d c).cur (s.core d c).bank (0x18 + pn.toNat)) % 2 ^ 24 = ((s.core d c).pc + 3) % 16384) ∧
      (f ≠ .call ∨ condHolds (s.core d c) cond.toNat = false → (t.core d c).regs = (s.core d c).regs)) ∧
  (∀ (d : TDie) (c : CoreIx) (e : EccRead) (x : Bool) (n : BitVec 11) (le : BitVec 14) (k : Nat) (s : State),
      issues s d c e (.rep x n le) = true →
      k = (if x then ((s.core d c).tick 1).readReg (n.toNat % 128) else n.toNat) →
      ∃ t, exec (Instr.coreRep d c e) s = .next t ∧ (k ≠ 0 → (s.core d c).loops.length < 4 →
      (t.core d c).pc = ((s.core d c).pc + 1) % 16384 ∧
        loopsIn (s.core d c) (t.core d c) = { ls := ((s.core d c).pc + 1) % 16384, le := le.toNat, lc := k } :: (s.core d c).loops) ∧
      (k = 0 → loopsIn (s.core d c) (t.core d c) = (s.core d c).loops ∧ (t.core d c).pc = (le.toNat + 1) % 16384) ∧
      (k ≠ 0 → 4 ≤ (s.core d c).loops.length → haltedAt t d c 6 (s.core d c).pc)) ∧
  (∀ (d : TDie) (c : CoreIx) (e : EccRead)  (s : State), issues s d c e .lexit = true →
      ∃ t, exec (Instr.coreLexit d c e) s = .next t ∧ ((s.core d c).loops ≠ [] →
      (∀ x ∈ (s.core d c).loops.drop 1, x.le ≠ (s.core d c).pc) →
      loopsIn (s.core d c) (t.core d c) = (s.core d c).loops.drop 1 ∧
      (t.core d c).pc = ((s.core d c).pc + 1) % 16384) ∧
      ((s.core d c).loops = [] → haltedAt t d c 7 (s.core d c).pc))

/-- The instructions of the channel cores that reach ports, triggers, events and SR (R300 to R305, R313, R338 to R341).
* IN with a word in its port (R300, R301, R338): I and Q go to their registers, the tags to PTAG, and the word
  leaves the port.
* IN with its port empty (R300, R302, R338): the non-blocking form sets Z and goes on, the other stalls and is
  counted.
* OUT to a port that takes words and has room (R303, R304, R339): the register enters the port's block and is
  counted; a full block closes. How many words have drained meanwhile is an operand (log entry 84).
* OUT with its condition false, to a disabled port or in the warm-up puts nothing out; with the port's buffer full
  it stalls and is counted (R302, R303, R313, R339).
* TRIG (R140, R340): every CORE condition that selects the core hits at the sample that the port's last word is
  referred to, plus the offset in xs; a hit of a replayed word carries REPAIRED. A sample before the stream's first
  acts as 0 (log entry 50).
* EVT (R305): the register and the code enter the queue of 16 and the core asks for the host; a full queue drops the
  event and sets EVQ_OVF.
* SRSET and SRCLR (R341): the writable bits of SR in the mask are set or cleared, the others stay. -/
def Obligations.PortRowsComplete : Prop :=
  (∀ (d : TDie) (c : CoreIx) (e : EccRead) (nb : BitVec 1) (port : BitVec 2) (xi xq : BitVec 4) (w : PortWord) (r : List PortWord) (s : State), issues s d c e (.inp nb port xi xq) = true → tget noWords (s.core d c).inp port.toNat = w :: r → ∃ t, exec (Instr.coreIn d c e) s = .next t ∧ (xi ≠ xq → ((t.core d c).cur (s.core d c).bank xi.toNat) % 2 ^ 24 = enc 24 w.i) ∧ ((t.core d c).cur (s.core d c).bank xq.toNat) % 2 ^ 24 = enc 24 w.q ∧
      ((t.core d c).cur (s.core d c).bank 0x39) % 2 ^ 24 = w.tags % 1024 + port.toNat * 4096 ∧ (nb = 1 →
          bit ((t.core d c).cur (s.core d c).bank 0x38) 0 = false) ∧
      tget noWords (t.core d c).inp port.toNat = r ∧ (t.core d c).lastJ = w.j ∧
          (t.core d c).reads = (s.core d c).reads + 1) ∧
  (∀ (d : TDie) (c : CoreIx) (e : EccRead) (nb : BitVec 1) (port : BitVec 2) (xi xq : BitVec 4) (s : State),
      issues s d c e (.inp nb port xi xq) = true → tget noWords (s.core d c).inp port.toNat = [] →
      s.onC d c R.CORE_c_STATUS_CATCHUP = false → ∃ t, exec (Instr.coreIn d c e) s = .next t ∧ (nb = 1 →
      bit ((t.core d c).cur (s.core d c).bank 0x38) 0 = true ∧ (straight (s.core d c) →
      (t.core d c).pc = ((s.core d c).pc + 1) % 16384)) ∧
      (nb = 0 → (t.core d c).pc = (s.core d c).pc ∧ (t.core d c).regs = (s.core d c).regs ∧
          t.onC d c R.CORE_c_STATUS_STALL = true ∧
        t.rdC d c R.CORE_c_STALLS_STALLS = (s.rdC d c R.CORE_c_STALLS_STALLS + 1) % 2 ^ 32)) ∧
  (∀ (d : TDie) (c : CoreIx) (e : EccRead) (cond : BitVec 4) (port : BitVec 1) (xs : BitVec 4) (n : Nat) (s : State),
      issues s d c e (.out cond port xs) = true → condHolds (s.core d c) cond.toNat = true →
      s.onC d c (if port.toNat = 0 then R.CORE_c_OUT_CTRL_EN0 else R.CORE_c_OUT_CTRL_EN1) = true →
      s.rdC d c R.CORE_c_WARMUP_SAMPLES ≤ (s.core d c).reads →
      (tget (fun _ => ({} : CoreOut)) (s.core d c).outs port.toNat).level - n < 512 →
      ∃ t, exec (Instr.coreOut d c e n) s = .next t ∧
      t.rdC d c R.CORE_c_WORDS_WORDS = (s.rdC d c R.CORE_c_WORDS_WORDS + 1) % 2 ^ 32 ∧
      (tget (fun _ => ({} : CoreOut)) (t.core d c).outs port.toNat).total = (tget (fun _ => ({} : CoreOut)) (s.core d c).outs port.toNat).total + 1 ∧ (tget (fun _ => ({} : CoreOut)) (t.core d c).outs port.toNat).level = (tget (fun _ => ({} : CoreOut)) (s.core d c).outs port.toNat).level - n + 1 ∧
      ((tget (fun _ => ({} : CoreOut)) (s.core d c).outs port.toNat).words.length + 1 < 64 →
          (tget (fun _ => ({} : CoreOut)) (t.core d c).outs port.toNat).words = (tget (fun _ => ({} : CoreOut)) (s.core d c).outs port.toNat).words ++ [(s.core d c).x xs.toNat]) ∧
      (4096 ≤ (tget (fun _ => ({} : CoreOut)) (s.core d c).outs port.toNat).words.length + 1 →
          (tget (fun _ => ({} : CoreOut)) (t.core d c).outs port.toNat).words = [] ∧
          (tget (fun _ => ({} : CoreOut)) (t.core d c).outs port.toNat).blocks = (tget (fun _ => ({} : CoreOut)) (s.core d c).outs port.toNat).blocks + 1)) ∧
  (∀ (d : TDie) (c : CoreIx) (e : EccRead) (cond : BitVec 4) (port : BitVec 1) (xs : BitVec 4) (n : Nat) (s : State),
      issues s d c e (.out cond port xs) = true → ∃ t, exec (Instr.coreOut d c e n) s = .next t ∧
      (condHolds (s.core d c) cond.toNat = false ∨
      s.onC d c (if port.toNat = 0 then R.CORE_c_OUT_CTRL_EN0 else R.CORE_c_OUT_CTRL_EN1) = false ∨
      (s.core d c).reads < s.rdC d c R.CORE_c_WARMUP_SAMPLES →
        (tget (fun _ => ({} : CoreOut)) (t.core d c).outs port.toNat).words = (tget (fun _ => ({} : CoreOut)) (s.core d c).outs port.toNat).words ∧ (tget (fun _ => ({} : CoreOut)) (t.core d c).outs port.toNat).total = (tget (fun _ => ({} : CoreOut)) (s.core d c).outs port.toNat).total ∧ (t.core d c).regs = (s.core d c).regs ∧
        (straight (s.core d c) → (t.core d c).pc = ((s.core d c).pc + 1) % 16384)) ∧
      (condHolds (s.core d c) cond.toNat = true →
          s.onC d c (if port.toNat = 0 then R.CORE_c_OUT_CTRL_EN0 else R.CORE_c_OUT_CTRL_EN1) = true →
          s.rdC d c R.CORE_c_WARMUP_SAMPLES ≤ (s.core d c).reads →
          512 ≤ (tget (fun _ => ({} : CoreOut)) (s.core d c).outs port.toNat).level - n →
        (t.core d c).pc = (s.core d c).pc ∧ t.onC d c R.CORE_c_STATUS_STALL = true ∧
        t.rdC d c R.CORE_c_STALLS_STALLS = (s.rdC d c R.CORE_c_STALLS_STALLS + 1) % 2 ^ 32)) ∧
  (∀ (d : TDie) (c : CoreIx) (e : EccRead) (cond : BitVec 4) (port : BitVec 2) (xs : BitVec 4) (j : Int) (rep : Bool) (s : State), issues s d c e (.trig cond port xs) = true → condHolds (s.core d c) cond.toNat = true → (s.core d c).jport.find? (fun x => x.1 == port.toNat) = some (port.toNat, j, rep) → ∃ t, exec (Instr.coreTrig d c e) s = .next t ∧ (∀ k : Fin 16, condOn s (pairLead d) (pairCond d k) = true → condType s (pairLead d) ((j : Int) + (s.core d c).xI xs.toNat).toNat (pairCond d k) = 6 →
        s.rdT (pairLead d) ((j : Int) + (s.core d c).xI xs.toNat).toNat (condB (pairLead d) (pairCond d k)) R.TRG_COND_c_SEL_CHAN = c.val →
        t.rd (condB (pairLead d) (pairCond d k)) R.TRG_COND_c_HITS_HITS = (s.rd (condB (pairLead d) (pairCond d k)) R.TRG_COND_c_HITS_HITS + 1) % 2 ^ 32 ∧
        (s.on (trgB (pairLead d)) R.TRG_CTRL_EN = true →
            (s.trgSt (pairLead d)).floor ≤ ((j : Int) + (s.core d c).xI xs.toNat).toNat →
            (s.trgSt (pairLead d)).evaluated ≤ ((j : Int) + (s.core d c).xI xs.toNat).toNat →
          (s.trgSt (pairLead d)).log.length ≤ 65000 →
          ∃ x ∈ (t.trgSt (pairLead d)).log, x.at_ = ((j : Int) + (s.core d c).xI xs.toNat).toNat ∧
              x.src = pairCond d k ∧ x.hit = true ∧ x.flags = if rep then 4 else 0)) ∧
      (t.core d c).regs = (s.core d c).regs) ∧
  (∀ (d : TDie) (c : CoreIx) (e : EccRead) (cond : BitVec 4) (code : BitVec 7) (xs : BitVec 4) (s : State),
      issues s d c e (.evt cond code xs) = true → condHolds (s.core d c) cond.toNat = true →
      ∃ t, exec (Instr.coreEvt d c e) s = .next t ∧ ((s.core d c).evq.length < 16 →
      (t.core d c).evq = (s.core d c).evq ++ [((s.core d c).x xs.toNat, code.toNat)] ∧
        t.on (cctlB d) (coreMap R.CCTL_EVREQ_k_EVREQ c) = true) ∧
      (16 ≤ (s.core d c).evq.length → (t.core d c).evq = (s.core d c).evq ∧
          t.onC d c R.CORE_c_STATUS_EVQ_OVF = true)) ∧
  (∀ (d : TDie) (c : CoreIx) (e : EccRead) (x : Bool) (m : BitVec 24) (s : State), issues s d c e (.srb x m) = true →
      ∃ t, exec (if x then Instr.coreSrset d c e else Instr.coreSrclr d c e) s = .next t ∧
      ∀ k : Fin 24, bit ((t.core d c).cur (s.core d c).bank 0x38) k = if bit (m.toNat &&& srWritable) k then x else bit ((s.core d c).cur (s.core d c).bank 0x38) k)

/-- Interrupts, the timer, the doorbell, run control and the host's access to a channel core (R274 to R276, R296, R297,
R305, R307 to R310).
* INTERRUPT_TAKE (R297, R298): the lowest pending source is taken at its vector, in bank 1, with the return address
  in IRA.
* CORE_TIMER_EXPIRE (R296): TMR has counted down to 0 and TIMER becomes pending if it is enabled.
* CORE_DOORBELL (R309): DBR takes the value, DOORBELL becomes pending, and DBOVF shows one not yet taken. That IEN
  applies is the model's reading (log entry 83).
* CORE_RUN (R307, R310): a halted core issues from its pc; the warm-up and the output counts start afresh.
* CORE_STOP (R307, R310): a running core halts with cause HOST.
* CORE_STEP (R307): one instruction issues and completes and the core is halted with cause STEP, or with the
  instruction's own cause.
* CORE_RESET (R278, R307): every register takes its reset value and both loop stacks empty.
* BREAKPOINT_HALT (R307): the core halts before the instruction with cause BRK.
* CCTL_START (R310): the cores of the mask that are in service start, and no other changes.
* CCTL_STOP (R310): the cores of the mask stop, and no other changes.
* CORE_DBG_DATA_WRITE (R308): the register selected, of the bank selected, takes the value, LS, LE and LC of an open
  level among them; while the core runs the write is ignored with an access violation.
* CORE_EVQ_POP (R305, R310): the oldest event leaves the queue and is read with VALID; an empty queue reads 0.
* CORE_PROGRAM_WRITE (R274): the program word takes the value.
* CORE_DATA_WRITE (R274, R276): the data word takes bits [23:0] of the value, and the core's next read sees it. -/
def Obligations.CoreControlRowsComplete : Prop :=
  (∀ (d : TDie) (c : CoreIx) (k : Nat) (s : State), coreRunning s d c = true → interruptDue (s.core d c) = some k →
      ∃ t, exec (Instr.interruptTake d c) s = .next t ∧ (t.core d c).pc = 4 * (k + 1) ∧ (t.core d c).bank = 1 ∧
      (t.core d c).ira = (s.core d c).pc ∧ (t.core d c).regs = (s.core d c).regs ∧
      (t.core d c).ipend = (s.core d c).ipend - ((s.core d c).ipend &&& 2 ^ k)) ∧
  (∀ (d : TDie) (c : CoreIx) (s : State), s.usableT d = true → (s.core d c).tmr ≠ 0 →
      ∃ t, exec (Instr.coreTimerExpire d c) s = .next t ∧ (t.core d c).tmr = 0 ∧
      (t.core d c).ipend = (s.core d c).ipend ||| (if bit (s.core d c).ien 2 then 4 else 0) ∧
      (t.core d c).regs = (s.core d c).regs) ∧
  (∀ (d : TDie) (c : CoreIx) (v : BitVec 24) (s : State), s.usableT d = true →
      ∃ t, exec (Instr.coreDoorbell d c v) s = .next t ∧ (t.core d c).dbr = v.toNat ∧
      t.rdC d c R.CORE_c_DOORBELL_VALUE = v.toNat ∧
      (t.core d c).ipend = (s.core d c).ipend ||| (if bit (s.core d c).ien 3 then 8 else 0) ∧
      (bit (s.core d c).ipend 3 = true → t.onC d c R.CORE_c_STATUS_DBOVF = true)) ∧
  (∀ (d : TDie) (c : CoreIx) (s : State), s.usableT d = true → ∃ t, exec (Instr.coreRun d c) s = .next t ∧
      (s.onC d c R.CORE_c_STATUS_RUNNING = false → (s.core d c).retired = false →
      t.onC d c R.CORE_c_STATUS_RUNNING = true ∧
        t.onC d c R.CORE_c_STATUS_HALTED = false ∧ t.on (cctlB d) (coreMap R.CCTL_HALTED_k_HALTED c) = false ∧
        (t.core d c).pc = (s.core d c).pc ∧ (t.core d c).regs = (s.core d c).regs ∧ (t.core d c).reads = 0) ∧
      (s.onC d c R.CORE_c_STATUS_RUNNING = true → (t.core d c) = (s.core d c)) ∧ t.onC d c R.CORE_c_CTRL_RUN = true) ∧
  (∀ (d : TDie) (c : CoreIx) (s : State), s.usableT d = true → ∃ t, exec (Instr.coreStop d c) s = .next t ∧
      t.onC d c R.CORE_c_CTRL_RUN = false ∧ (s.onC d c R.CORE_c_STATUS_RUNNING = true →
      haltedAt t d c 1 (s.core d c).pc ∧
        t.on (cctlB d) (coreMap R.CCTL_HALTED_k_HALTED c) = true ∧ (t.core d c).regs = (s.core d c).regs) ∧
      (s.onC d c R.CORE_c_STATUS_RUNNING = false → (t.core d c) = (s.core d c))) ∧
  (∀ (d : TDie) (c : CoreIx) (e : EccRead) (i : CoreInstr) (s : State), s.usableT d = true →
      s.onC d c R.CORE_c_CTRL_RUN = false → s.onC d c R.CORE_c_STATUS_RUNNING = false → (s.core d c).retired = false →
      CoreInstr.decode (s.pm d c (s.core d c).pc) = some i → legalHere (s.core d c) i = true → e.double = false →
      ∃ t, exec (Instr.coreStep d c e) s = .next t ∧ t.onC d c R.CORE_c_STATUS_HALTED = true ∧
      t.onC d c R.CORE_c_CTRL_RUN = false ∧
      t.rdC d c R.CORE_c_ECC_COUNT_CORRECTED = min (2 ^ R.CORE_c_ECC_COUNT_CORRECTED.w - 1)
        (s.rdC d c R.CORE_c_ECC_COUNT_CORRECTED + e.corrected) ∧
      (i = .nop → straight (s.core d c) → haltedAt t d c 2 (((s.core d c).pc + 1) % 16384)) ∧
      (i = .halt → haltedAt t d c 4 (((s.core d c).pc + 1) % 16384)) ∧
      (i = .lexit → (s.core d c).loops = [] → haltedAt t d c 7 (s.core d c).pc) ∧
      (∀ r : Fin 16, i = .ldi false (r.val : Nat) 5 → ((t.core d c).cur (s.core d c).bank r) % 2 ^ 24 = 5 ∧
          t.rdC d c R.CORE_c_STATUS_CAUSE = 2)) ∧
  (∀ (d : TDie) (c : CoreIx) (s : State), s.usableT d = true → ∃ t, exec (Instr.coreReset d c) s = .next t ∧
      (t.core d c).regs = [] ∧ (t.core d c).pc = 0 ∧ (t.core d c).bank = 0 ∧ (t.core d c).loops0 = [] ∧
      (t.core d c).loops1 = [] ∧ (t.core d c).ien = 0 ∧ (t.core d c).ipend = 0 ∧
      (t.core d c).tmr = 0 ∧ (t.core d c).slots = 0 ∧ t.rdC d c R.CORE_c_PC_PC = 0 ∧
          t.onC d c R.CORE_c_STATUS_RUNNING = s.onC d c R.CORE_c_STATUS_RUNNING) ∧
  (∀ (d : TDie) (c : CoreIx) (s : State), coreRunning s d c = true → atBreak s d c = true →
      ∃ t, exec (Instr.breakpointHalt d c) s = .next t ∧ haltedAt t d c 3 (s.core d c).pc ∧
      (t.core d c).regs = (s.core d c).regs) ∧
  (∀ (d : TDie) (k : Fin 5) (m : Word) (s : State), s.usableT d = true →
      ∃ t, exec (Instr.cctlStart d k m) s = .next t ∧ (∀ b : Fin 32, 32 * k.val + b.val < 132 →
      (bit m.toNat b = true → (s.core d (32 * k.val + b.val)).retired = false →
      t.onC d (32 * k.val + b.val) R.CORE_c_STATUS_RUNNING = true) ∧
        (bit m.toNat b = false →
            t.onC d (32 * k.val + b.val) R.CORE_c_STATUS_RUNNING = s.onC d (32 * k.val + b.val) R.CORE_c_STATUS_RUNNING ∧ (t.core d (32 * k.val + b.val)) = (s.core d (32 * k.val + b.val))))) ∧
  (∀ (d : TDie) (k : Fin 5) (m : Word) (s : State), s.usableT d = true →
      ∃ t, exec (Instr.cctlStop d k m) s = .next t ∧ (∀ b : Fin 32, 32 * k.val + b.val < 132 → (bit m.toNat b = true →
      t.onC d (32 * k.val + b.val) R.CORE_c_STATUS_RUNNING = false ∧
      t.onC d (32 * k.val + b.val) R.CORE_c_CTRL_RUN = false) ∧
        (bit m.toNat b = false →
            t.onC d (32 * k.val + b.val) R.CORE_c_STATUS_RUNNING = s.onC d (32 * k.val + b.val) R.CORE_c_STATUS_RUNNING ∧ (t.core d (32 * k.val + b.val)) = (s.core d (32 * k.val + b.val))))) ∧
  (∀ (d : TDie) (c : CoreIx) (v : BitVec 24) (s : State), s.usableT d = true → s.rdC d c R.CORE_c_DBG_SEL_BANK ≤ 1 →
      ∃ t, exec (Instr.coreDbgDataWrite d c v) s = .next t ∧ (s.onC d c R.CORE_c_STATUS_RUNNING = false →
      regGets { (s.core d c) with bank := s.rdC d c R.CORE_c_DBG_SEL_BANK } { (t.core d c) with bank := s.rdC d c R.CORE_c_DBG_SEL_BANK } (s.rdC d c R.CORE_c_DBG_SEL_REG) v.toNat ∧
        (∀ n : Fin 4, ∀ l : CoreLoop, ({ (s.core d c) with bank := s.rdC d c R.CORE_c_DBG_SEL_BANK } : CoreSt).loops[n.val]? = some l → (loopsIn { (s.core d c) with bank := s.rdC d c R.CORE_c_DBG_SEL_BANK } { (t.core d c) with bank := s.rdC d c R.CORE_c_DBG_SEL_BANK })[n.val]? =
          some { ls := if (s.rdC d c R.CORE_c_DBG_SEL_REG) = 0x40 + 4 * n.val then v.toNat % 16384 else l.ls, le := if (s.rdC d c R.CORE_c_DBG_SEL_REG) = 0x41 + 4 * n.val then v.toNat % 16384 else l.le, lc := if (s.rdC d c R.CORE_c_DBG_SEL_REG) = 0x42 + 4 * n.val then v.toNat else l.lc })) ∧
      (s.onC d c R.CORE_c_STATUS_RUNNING = true → (t.core d c) = (s.core d c) ∧
          t.on (chipB (hubOf s d)) R.CHIP_STATUS_VIOL = true)) ∧
  (∀ (d : TDie) (c : CoreIx) (s : State), s.usableT d = true → ∃ t, exec (Instr.coreEvqPop d c) s = .next t ∧
      ((s.core d c).evq = [] → t = { s with readData := 0 }) ∧
      (∀ x ∈ (s.core d c).evq.head?, (t.core d c).evq = (s.core d c).evq.drop 1 ∧
          t.readData = BitVec.ofNat 32 (x.1 % 2 ^ 24 + x.2 % 128 * 2 ^ 24 + 2 ^ 31) ∧
        t.on (cctlB d) (coreMap R.CCTL_EVREQ_k_EVREQ c) = decide ((s.core d c).evq.drop 1 ≠ []))) ∧
  (∀ (d : TDie) (c : CoreIx) (a : BitVec 14) (v : Word) (s : State), s.usableT d = true →
      ∃ t, exec (Instr.coreProgramWrite d c a v) s = .next t ∧ t.pm d c a.toNat = v ∧
      (∀ b : Fin 16384, b.val ≠ a.toNat → t.pm d c b = s.pm d c b) ∧ t.cores = s.cores) ∧
  (∀ (d : TDie) (c : CoreIx) (a : BitVec 14) (v : Word) (s : State), s.usableT d = true →
      ∃ t, exec (Instr.coreDataWrite d c a v) s = .next t ∧ t.dm d c a.toNat = v.toNat % 2 ^ 24 ∧
      dmSeen t d c a.toNat = v.toNat % 2 ^ 24 ∧
      (∀ b : Fin 16384, b.val ≠ a.toNat → t.dm d c b = s.dm d c b))

/-- Errors in a channel core's memories and register file, its repair, and its output blocks (R273, R303, R304, R311 to
R314).
* CORE_SCRUB (R273, R311): corrected words are counted, and a double-bit error halts a running core with cause ECC
  and a FAULT event. What a halted core does about one is the model's choice (log entry 87).
* CORE_PARITY_ERROR (R311): the core halts with cause PARITY and a FAULT event.
* CORE_REPAIR (R312, R314): the failed core is retired, its program, data image, outputs and channels go to the
  spare, and the spare starts, in replay.
* CORE_REPLAY_END (R314): after the last replayed word the core takes the buffered ones.
* CATCHUP_EMPTY (R314): with the buffer empty the core reads its ports directly.
* CORE_BLOCK_WRITTEN (R303, R304): the oldest closed block stands in its slot of the port's ring and line CORE
  pulses; with room for fewer than two blocks nothing is written and RING_SMALL sets. -/
def Obligations.CoreRepairRowsComplete : Prop :=
  (∀ (d : TDie) (c : CoreIx) (e : EccRead) (s : State), s.usableT d = true →
      ∃ t, exec (Instr.coreScrub d c e) s = .next t ∧
      t.rdC d c R.CORE_c_ECC_COUNT_CORRECTED = min (2 ^ R.CORE_c_ECC_COUNT_CORRECTED.w - 1)
        (s.rdC d c R.CORE_c_ECC_COUNT_CORRECTED + e.corrected) ∧
      (e.double = true → coreRunning s d c = true → haltedAt t d c 8 (s.core d c).pc ∧
          (∃ x ∈ t.flight, x.source = 97 + 8 * d.val ∧ x.detail = c.val)) ∧
      (e.double = false → (t.core d c) = (s.core d c))) ∧
  (∀ (d : TDie) (c : CoreIx) (s : State), coreRunning s d c = true →
      ∃ t, exec (Instr.coreParityError d c) s = .next t ∧ haltedAt t d c 9 (s.core d c).pc ∧
      (∃ x ∈ t.flight, x.source = 97 + 8 * d.val ∧ x.detail = c.val) ∧ (t.core d c).regs = (s.core d c).regs) ∧
  (∀ (d : TDie) (c k : CoreIx) (p : List Word) (x : List (BitVec 24)) (s : State), s.usableT d = true →
      s.rdC d c R.CORE_c_STATUS_CAUSE = 8 ∨ s.rdC d c R.CORE_c_STATUS_CAUSE = 9 → (s.core d c).retired = false →
      s.onC d k R.CORE_c_STATUS_SPARE = true → c ≠ k → ∃ t, exec (Instr.coreRepair d c k p x) s = .next t ∧
      (t.core d c).retired = true ∧ t.onC d k R.CORE_c_STATUS_SPARE = false ∧
      t.onC d k R.CORE_c_STATUS_REPLAY = true ∧
      t.on (chzB d) R.CHZ_STATUS_REPLAY = true ∧
      (∀ a : Fin 16384, t.pm d k a = p.getD a 0 ∧ t.dm d k a = (x.getD a 0).toNat) ∧
      (∀ r ∈ ([R.CORE_c_OUT_0, R.CORE_c_OUT_1, R.CORE_c_OUT_CTRL, R.CORE_c_WARMUP] : List Nat),
          t.reg (coreRegB d k + r) = s.reg (coreRegB d c + r)) ∧
      (∀ n : Fin 128, t.rd (chzB d + 0x40 * n.val) R.ZC_n_ROUTE_CORE =
        if s.rd (chzB d + 0x40 * n.val) R.ZC_n_ROUTE_CORE = c.val then k.val else s.rd (chzB d + 0x40 * n.val) R.ZC_n_ROUTE_CORE) ∧
      (t.core d k).regs = [] ∧ (t.core d k).pc = 0 ∧
      (s.onC d k R.CORE_c_STATUS_RUNNING = false → (s.core d k).retired = false →
          t.onC d k R.CORE_c_STATUS_RUNNING = true)) ∧
  (∀ (d : TDie) (c : CoreIx) (s : State), s.onC d c R.CORE_c_STATUS_REPLAY = true →
      ∃ t, exec (Instr.coreReplayEnd d c) s = .next t ∧ t.onC d c R.CORE_c_STATUS_REPLAY = false ∧
      t.onC d c R.CORE_c_STATUS_CATCHUP = true ∧ t.on (chzB d) R.CHZ_STATUS_REPLAY = false ∧ t.cores = s.cores) ∧
  (∀ (d : TDie) (c : CoreIx) (s : State), (s.core d c).catchup = [] → ∃ t, exec (Instr.catchupEmpty d c) s = .next t ∧
      t.onC d c R.CORE_c_STATUS_CATCHUP = false ∧ t.cores = s.cores) ∧
  (∀ (d : TDie) (c : CoreIx) (p : Fin 2) (i : Nat) (l : List Byte) (r : List (Nat × List Byte)) (s : State),
      (tget (fun _ => ({} : CoreOut)) (s.core d c).outs p).closed = (i, l) :: r →
      ∃ t, exec (Instr.coreBlockWritten d c p) s = .next t ∧
      (tget (fun _ => ({} : CoreOut)) (t.core d c).outs p).closed = r ∧
      ((s.rdC d c (if p = 0 then R.CORE_c_OUT_CTRL_SIZE0 else R.CORE_c_OUT_CTRL_SIZE1) * 2 ^ 20 / (32 + 4 * 2 ^ max 6 (min 12 (s.rdC d c (if p = 0 then R.CORE_c_OUT_CTRL_BLK0 else R.CORE_c_OUT_CTRL_BLK1))))) < 2 → t.onC d c R.CORE_c_STATUS_RING_SMALL = true ∧ t.cap = s.cap) ∧
      (2 ≤ (s.rdC d c (if p = 0 then R.CORE_c_OUT_CTRL_SIZE0 else R.CORE_c_OUT_CTRL_SIZE1) * 2 ^ 20 / (32 + 4 * 2 ^ max 6 (min 12 (s.rdC d c (if p = 0 then R.CORE_c_OUT_CTRL_BLK0 else R.CORE_c_OUT_CTRL_BLK1))))) → t.onC d c R.CORE_c_STATUS_RING_SMALL = false ∧ pulsed s t (hubOf s d) (0x7000 + 2 * (132 * (d.val % 2) + c.val) + p.val) ∧
        (storable s (hubOf s d) (outSlot s d c p i) l → stored t (hubOf s d) (outSlot s d c p i) l)))

/-- Plans loaded, admitted, refused, started, ended, stopped, woken, suspended and cleared while the planner runs (R343
to R359, R368, R370, R373). What the planner computes a plan to need is an operand (log entry 2).
* PLAN_LOAD (R345, R385): a record that passes its check goes into a slot that is EMPTY, LOADED or REFUSED, as
  SCHEDULED, with the settings it gives; key records that do not stand are left out and show in KEY_WARN.
* PLAN_LOAD of a record that fails its check: refused with reason FORMAT.
* PLAN_LOAD into another slot: refused with reason SLOT, and the slot keeps its plan.
* PLAN_ADMIT of a plan that passes every check (R347, R348, R372, R375): it is RUNNING, admitted last, with its
  predictions.
* PLAN_ADMIT of a plan that fails a check (R347, R349, R370): the first check of the table gives the reason, the
  plan is REFUSED, or WAITING where it may wait, and no register of another block is written.
* PLAN_STOP (R351): the plan's share leaves the prediction, and it is LOADED, or SCHEDULED for the first start of
  its period after now. Plans that the planner checks again then are given by its operand (R349).
* PLAN_CLEAR (R360, R375): a running plan is stopped first; the slot is EMPTY, and its energy and work counters
  stay.
* PLAN_START (R347, R348): a scheduled plan whose START has come, with admissions enabled, is admitted.
* PLAN_START of a plan that fails a check: refused or waiting as above.
* PLAN_END of a running plan whose DURATION is shorter than its PERIOD (R351): the plan's share leaves the
  prediction, and it is LOADED, or SCHEDULED for the first start of its period after now.
* PLAN_END of a plan that waits or is suspended (R349): it gives up and is LOADED.
* PLAN_WAKE (R358): the plan is WAKING, with the dies it needs.
* HOLDUP_RECHECK (R349, R370, R482): a plan that waits for HOLDUP or for a store to mount is admitted once it passes
  every check, and waits on where it does not.
* THROTTLE_SUSPEND (R368): of the running plans that claim staging the one of lowest priority, the latest admission
  first, is suspended with reason HOLDUP. -/
def Obligations.PlanRowsComplete : Prop :=
  (∀ (n : Fin 32) (a : Nat) (hd bd : List Byte) (s : State), plannerRuns s = true →
      s.on (bootB 0) R.BOOT_LOCK_PLAN_LOAD = false → planState s n = 0 ∨ planState s n = 1 ∨ planState s n = 6 →
      a = s.rd (planB 0) R.PLAN_STAGE_BASE_BASE * 2 ^ 20 → hd = s.bytes s.lead a 64 →
      bd = s.bytes s.lead (a + 64) (ofLe ((hd.drop 56).take 4)) → a + 64 + bd.length ≤ s.hubLimit s.lead →
      recordCrcOk hd bd = true → ∃ t, exec (Instr.planLoad n) s = .next t ∧ planState t n = 2 ∧
      t.rd (planNB n) R.PLAN_n_CFG_PRIO = min 15 (ofLe ((hd.drop 48).take 1)) ∧
      t.rd (planNB n) R.PLAN_n_STAGE_STAGE = ofLe ((hd.drop 52).take 4) % 2 ^ 17 ∧
      t.rd (planNB n) R.PLAN_n_CFG_SPARES = ofLe ((hd.drop 49).take 1) % 2 ∧
          t.rd (planNB n) R.PLAN_n_CFG_WAITFIT = ofLe ((hd.drop 49).take 1) / 2 % 2 ∧
      t.rd (planNB n) R.PLAN_n_CFG_UNPROTECTED = ofLe ((hd.drop 49).take 1) / 4 % 2 ∧
          t.rd (planNB n) R.PLAN_n_CFG_WAKE = ofLe ((hd.drop 49).take 1) / 8 % 4 ∧
      t.rd (planNB n) R.PLAN_n_CFG_INPUTS = recordInputs (planRecords (sectionNames s) bd).1 % 4 ∧
      (t.planSt n).start = ofLe ((hd.drop 32).take 8) ∧ (t.planSt n).duration = ofLe ((hd.drop 40).take 4) ∧
          (t.planSt n).period = ofLe ((hd.drop 44).take 4) ∧
      (t.planSt n).keys = (planRecords (sectionNames s) bd).1 ∧
      (0 < (planRecords (sectionNames s) bd).2 → t.on (bootB 0) R.BOOT_STATUS_KEY_WARN = true)) ∧
  (∀ (n : Fin 32) (a : Nat) (hd bd : List Byte) (s : State), plannerRuns s = true →
      s.on (bootB 0) R.BOOT_LOCK_PLAN_LOAD = false → planState s n = 0 ∨ planState s n = 1 ∨ planState s n = 6 →
      a = s.rd (planB 0) R.PLAN_STAGE_BASE_BASE * 2 ^ 20 → hd = s.bytes s.lead a 64 →
      bd = s.bytes s.lead (a + 64) (ofLe ((hd.drop 56).take 4)) → s.hubLimit s.lead < a + 64 + bd.length ∨
      recordCrcOk hd bd = false → ∃ t, exec (Instr.planLoad n) s = .next t ∧
      t.rd (planNB n) R.PLAN_n_STATE_REASON = 12 ∧ planState t n = 6 ∧ reported s t n 12 ∧
      (t.planSt n).keys = (s.planSt n).keys) ∧
  (∀ (n : Fin 32) (s : State), plannerRuns s = true → s.on (bootB 0) R.BOOT_LOCK_PLAN_LOAD = false →
      planState s n ≠ 0 → planState s n ≠ 1 → planState s n ≠ 6 → ∃ t, exec (Instr.planLoad n) s = .next t ∧
      planState t n = planState s n ∧ (t.planSt n).keys = (s.planSt n).keys ∧ reported s t n 14) ∧
  (∀ (n : Fin 32) (p : PlanNeed) (s : State), plannerRuns s = true → planState s n ≠ 0 → planState s n ≠ 4 →
      repairWaits s = false → refusal s n p = none → ∃ t, exec (Instr.planAdmit n p) s = .next t ∧ runsWith s t n p) ∧
  (∀ (n : Fin 32) (p : PlanNeed) (r : Nat) (s : State), plannerRuns s = true → planState s n ≠ 0 → planState s n ≠ 4 →
      repairWaits s = false → refusal s n p = some r → ∃ t, exec (Instr.planAdmit n p) s = .next t ∧
      refusedAs s t n p r) ∧
  (∀ (n : Fin 32) (e : PlanEnd) (s : State), plannerRuns s = true → planState s n ≠ 0 → planState s n ≠ 1 →
      planState s n ≠ 6 → ∃ t, exec (Instr.planStop n e) s = .next t ∧ ∃ u, t = showNext (recheckAll e.again u) ∧
      endedAs s u n) ∧
  (∀ (n : Fin 32) (e : PlanEnd) (s : State), plannerRuns s = true → ∃ t, exec (Instr.planClear n e) s = .next t ∧
      ∃ u, t = showNext (recheckAll e.again u) ∧ planState u n = 0 ∧
      u.planSt n = { energy := (s.planSt n).energy, work := (s.planSt n).work } ∧
          ∀ o : Fin 4, u.reg (planNB n + 0x100 + 4 * o.val) = resetOf (planNB n + 0x100 + 4 * o.val)) ∧
  (∀ (n : Fin 32) (p : PlanNeed) (s : State), plannerRuns s = true → planState s n = 2 ∨ planState s n = 3 →
      s.on (planB 0) R.PLAN_CTRL_EN = true → startDue s n = true → repairWaits s = false → refusal s n p = none →
      ∃ t, exec (Instr.planStart n p) s = .next t ∧ runsWith s t n p) ∧
  (∀ (n : Fin 32) (p : PlanNeed) (r : Nat) (s : State), plannerRuns s = true → planState s n = 2 ∨ planState s n = 3 →
      s.on (planB 0) R.PLAN_CTRL_EN = true → startDue s n = true → repairWaits s = false → refusal s n p = some r →
      ∃ t, exec (Instr.planStart n p) s = .next t ∧ refusedAs s t n p r) ∧
  (∀ (n : Fin 32) (e : PlanEnd) (s : State), plannerRuns s = true → planState s n = 4 → (s.planSt n).duration ≠ 0 →
      (s.planSt n).period = 0 ∨ (s.planSt n).duration < (s.planSt n).period →
      ∃ t, exec (Instr.planEnd n e) s = .next t ∧ ∃ u, t = showNext (recheckAll e.again u) ∧ endedAs s u n) ∧
  (∀ (n : Fin 32) (e : PlanEnd) (s : State), plannerRuns s = true → planState s n = 5 ∨ planState s n = 7 →
      (s.planSt n).duration ≠ 0 → ∃ t, exec (Instr.planEnd n e) s = .next t ∧ ((s.planSt n).period = 0 ∨
      (s.planSt n).duration < (s.planSt n).period → planState t n = 1) ∧
      ((s.planSt n).period ≠ 0 → (s.planSt n).period ≤ (s.planSt n).duration → planState t n = planState s n) ∧
          t.plans = s.plans) ∧
  (∀ (n : Fin 32) (m : BitVec 8) (s : State), plannerRuns s = true → planState s n = 2 →
      ∃ t, exec (Instr.planWake n m) s = .next t ∧ planState t n = 3 ∧ (t.planSt n).dies = m.toNat ||| planDies s n) ∧
  (∀ (n : Fin 32) (p : PlanNeed) (s : State), plannerRuns s = true → planState s n = 5 →
      s.rd (planNB n) R.PLAN_n_STATE_REASON = 8 ∨ s.rd (planNB n) R.PLAN_n_STATE_REASON = 4 → repairWaits s = false →
      ∃ t, exec (Instr.holdupRecheck n p) s = .next t ∧ (refusal s n p = none → runsWith s t n p) ∧
      (refusal s n p ≠ none → planState t n = 5 ∧ t.plans = s.plans)) ∧
  (∀ (e : PlanEnd) (n : Fin 32) (s : State), plannerRuns s = true → s.on (pwrB 0) R.PWR_STATE_THROTTLE = true →
      s.rd (pwrB 0) R.PWR_THROTTLE_SUSPEND_MS ≠ 0 → planState s n = 4 → 0 < planStage s n → (∀ m : Fin 32, m ≠ n →
      planState s m = 4 → 0 < planStage s m → planPrio s m < planPrio s n ∨
      (planPrio s m = planPrio s n ∧ (s.planSt m).admitted < (s.planSt n).admitted)) →
          ∃ t, exec (Instr.throttleSuspend e) s = .next t ∧ ∃ u, t = showNext (recheckAll e.again u) ∧
          planState u n = 7 ∧ u.rd (planNB n) R.PLAN_n_STATE_REASON = 8 ∧
      u.rd (planNB n) R.PLAN_n_PRED_POWER = 0 ∧ (u.planSt n).zooms = [])

/-- Power states, the energy ledger, the capacitance test and the power cap (R359 to R378).
* DIE_SLEEP (R352, R359): a die that nothing needs loses power and a transform die's registers are gone; no other
  die changes.
* PWR_CMD_SLEEP (R359, R376): every die that no plan needs loses power at once.
* PWR_CMD_WAKE and AON_EXIT (R359, R397): the S8G leaves AON and the start-up runs again from the rails row.
* LEDGER_STEP (R360, R361, R364 to R367, R374, R378): written power settings take effect, every domain's counter
  takes its estimate times its gain, the available energy, the debt and the limit are shown, and OVER_CAP follows;
  then the planner acts on a lower cap (R373) and checks waiting plans again (R349). Energy is held in units of
  2^-15 µJ (log entry 169).
* LEDGER_CALIBRATE (R361): the gain of each domain on a rail measured over the interval moves by the ratio of
  measured to estimated energy, by at most 1 % and between 0.5 and 1.5, and the interval starts afresh. That a
  domain on several measured rails moves by the product of their ratios is the model's choice (log entry 164).
* CAP_TEST_START (R363): V0 and the time are recorded, and TEST shows it.
* CAP_TEST_END (R363): the test is over; C is t / (R ln(V0 / V1)), or TEST_FAIL is set where V has fallen by less
  than 4 LSB, with C as it was.
* PWR_CAP_WRITE (R372, R378): PWR_CAP takes the value, which acts from the next ledger step on. -/
def Obligations.PowerRowsComplete : Prop :=
  (∀ (d : Fin 8) (s : State), plannerRuns s = true → 2 ≤ d.val → bit s.powered d = true →
      dieNeeded s d (s.rd (planB 0) R.PLAN_SLEEP_SLEEP_S) = false → ∃ t, exec (Instr.dieSleep d) s = .next t ∧
      bit t.powered d = false ∧ (∀ k : Fin 8, k ≠ d → bit t.powered k = bit s.powered k) ∧
      (d.val < 6 → ∀ a, (dieWindow d).1 ≤ a → a < (dieWindow d).2 → factoryReg a = false → t.reg a = resetOf a)) ∧
  (∀ (s : State), plannerRuns s = true → (∀ n : Fin 32, planState s n ≠ 2) →
      ∃ t, exec (Instr.pwrCmdSleep) s = .next t ∧ ∀ d : Fin 8, 2 ≤ d.val →
      bit t.powered d = (bit s.powered d && dieNeeded s d (s.rd (planB 0) R.PLAN_SLEEP_SLEEP_S))) ∧
  (∀ (s : State), inAon s = true → ∃ t, exec (Instr.pwrCmdWake) s = .next t ∧ t.rd (pwrB 0) R.PWR_STATE_STATE = 1 ∧
      startsAgain t) ∧
  (∀ (s : State), inAon s = true → ∃ t, exec (Instr.aonExit) s = .next t ∧ t.rd (pwrB 0) R.PWR_STATE_STATE = 1 ∧
      startsAgain t) ∧
  (∀ (l : LedgerIn) (s : State), ∃ t, exec (Instr.ledgerStep l) s = .next t ∧
      ∃ u, t = planStep (capAct (capNow s) (s.rd (pwrB 0) R.PWR_E_AVAIL_E) l.ends l.again) u ∧
      u.rd (pwrB 0) R.PWR_E_AVAIL_E = min (2 ^ 32 - 1) (if s.on (pwrB 0) R.PWR_CTRL_HOLDUP_EN = false ∨
          s.rd (pwrB 0) R.PWR_HOLDUP_V_V ≤ s.rd (pwrB 0) R.PWR_VMIN_VMIN then 0
        else min 100 (s.rd (pwrB 0) R.PWR_DERATE_DERATE) * bankC s *
          (s.rd (pwrB 0) R.PWR_HOLDUP_V_V * s.rd (pwrB 0) R.PWR_HOLDUP_V_V - s.rd (pwrB 0) R.PWR_VMIN_VMIN * s.rd (pwrB 0) R.PWR_VMIN_VMIN) / 20000000000) ∧
      u.rd (pwrB 0) R.PWR_LIMIT_MIB_LIMIT = limitOf u (if s.on (pwrB 0) R.PWR_CTRL_HOLDUP_EN = false ∨
          s.rd (pwrB 0) R.PWR_HOLDUP_V_V ≤ s.rd (pwrB 0) R.PWR_VMIN_VMIN then 0
        else min 100 (s.rd (pwrB 0) R.PWR_DERATE_DERATE) * bankC s *
          (s.rd (pwrB 0) R.PWR_HOLDUP_V_V * s.rd (pwrB 0) R.PWR_HOLDUP_V_V - s.rd (pwrB 0) R.PWR_VMIN_VMIN * s.rd (pwrB 0) R.PWR_VMIN_VMIN) / 20000000000) ∧
      u.rd (pwrB 0) R.PWR_DEBT_D = min (2 ^ 32 - 1) (pendingMib u * epb u / 1000) ∧
      u.rd (pwrB 0) R.PWR_PENDING_PENDING = min (2 ^ 32 - 1) (pendingMib u) ∧
      u.ledger.lastV = s.rd (pwrB 0) R.PWR_HOLDUP_V_V ∧
          u.ledger.rising = decide (s.ledger.lastV < s.rd (pwrB 0) R.PWR_HOLDUP_V_V) ∧
      u.rdF (pwrB 0) R.PWR_CAP_CAP = s.rd (pwrB 0) R.PWR_CAP_CAP ∧
          u.rdF (pwrB 0) R.PWR_RESERVE_RESERVE = s.rd (pwrB 0) R.PWR_RESERVE_RESERVE ∧
      u.rdF (pwrB 0) R.PWR_EPB_EPB = s.rd (pwrB 0) R.PWR_EPB_EPB ∧
      u.on (pwrB 0) R.PWR_STATE_OVER_CAP = (if capNow u * 102 < u.rd (pwrB 0) R.PWR_MEAS_POWER * 100 then true
        else if u.rd (pwrB 0) R.PWR_MEAS_POWER ≤ capNow u then false else s.on (pwrB 0) R.PWR_STATE_OVER_CAP) ∧
      (∀ d : Fin 13, tget noNat u.energy d = tget noNat s.energy d +
        if s.on (pwrB 0) R.PWR_CTRL_LEDGER_EN = true then at0 l.est d * s.rd (pwrB 0) (gainReg d) else 0)) ∧
  (∀ (s : State), ∃ t, exec (Instr.ledgerCalibrate) s = .next t ∧ t.ledger.meas = [] ∧ t.ledger.esti = [] ∧
      ∀ d : Fin 13, t.rd (pwrB 0) (gainReg d) =
        if ((railRatios s).filter fun x => x.1.contains d.val).isEmpty = true then s.rd (pwrB 0) (gainReg d)
        else max 16384 (min 49152 (rnd (s.rd (pwrB 0) (gainReg d) * max (99 / 100 : Rat) (min (101 / 100)
          (((railRatios s).filter fun x => x.1.contains d.val).foldl (fun (r : Rat) x => r * x.2) 1)))))) ∧
  (∀ (s : State), s.on (pwrB 0) R.PWR_CTRL_TEST_EN = true → s.rd (pwrB 0) R.PWR_BLEED_R ≠ 0 → s.ledger.test = none →
      s.powerGood = true → ∃ t, exec (Instr.capTestStart) s = .next t ∧
      t.ledger.test = some (s.rd (pwrB 0) R.PWR_HOLDUP_V_V, s.time.frc) ∧ t.on (pwrB 0) R.PWR_STATE_TEST = true) ∧
  (∀ (v r : Nat) (s : State), s.ledger.test = some (v, r) → ∃ t, exec (Instr.capTestEnd) s = .next t ∧
      t.ledger.test = none ∧ t.on (pwrB 0) R.PWR_STATE_TEST = false ∧
      (((v - s.rd (pwrB 0) R.PWR_HOLDUP_V_V) * 4096000 < 4800 * s.rd (pwrB 0) R.PWR_DIVIDER_RATIO ∨
          v ≤ s.rd (pwrB 0) R.PWR_HOLDUP_V_V) → t.on (pwrB 0) R.PWR_STATE_TEST_FAIL = true ∧
          t.rd (pwrB 0) R.PWR_HOLDUP_C_C = s.rd (pwrB 0) R.PWR_HOLDUP_C_C ∧
        ∃ x ∈ t.flight, x.source = 12) ∧
      (¬ ((v - s.rd (pwrB 0) R.PWR_HOLDUP_V_V) * 4096000 < 4800 * s.rd (pwrB 0) R.PWR_DIVIDER_RATIO ∨
          v ≤ s.rd (pwrB 0) R.PWR_HOLDUP_V_V) → t.on (pwrB 0) R.PWR_STATE_NAMEPLATE = false ∧
          (s.rd (pwrB 0) R.PWR_HOLDUP_V_V ≠ 0 →
        t.rd (pwrB 0) R.PWR_HOLDUP_C_C = min (2 ^ 24 - 1) (rnd (((s.time.frc - r : Nat) : Rat) * 78125 * (2 ^ 64 : Nat) / ((10 ^ 9 * max 1 (s.rd (pwrB 0) R.PWR_BLEED_R) * max 1 (lnRatio v (s.rd (pwrB 0) R.PWR_HOLDUP_V_V)) : Nat) : Rat)))))) ∧
  (∀ (p : Path) (v : BitVec 17) (s : State), pathReaches s p (pwrB s.lead + R.PWR_CAP) = true → s.resetLow = false →
      s.lead = 0 ∨ s.lead = 1 → bit s.part.present s.lead = true → s.on (bootB 0) R.BOOT_LOCK_CAP = false →
      ∃ t, exec (Instr.pwrCapWrite p v) s = .next t ∧ t.rd (pwrB 0) R.PWR_CAP_CAP = v.toNat ∧
      t.rdF (pwrB 0) R.PWR_CAP_CAP = s.rdF (pwrB 0) R.PWR_CAP_CAP ∧
      ∀ n : Fin 32, planState t n = planState s n)

/-- Reset, the power rails, the start-up sequence, NOR and fuse operations, and power failure (R371, R380 to R407, R654
to R660).
* RESET_ASSERT (R392, R399, R400): everything but the always-on domain, the fuses and the factory values takes its
  reset value.
* POWER_ON_RESET (R360, R392): the always-on domain too; the fuses stay.
* RESET_RELEASE (R379, R380, R396): BOOT_SEL and the fuses are read.
* RAIL_SEQUENCE_STEP with the rails within tolerance (R396, R656): the next enable is asserted, but for VANA10 and
  VANA18 in the S8G-2D; after the last step the dies have power and the start goes on.
* RAIL_SEQUENCE_STEP with a rail out of tolerance (R657): every enable goes off and the sequence starts again; after
  the third attempt it stops with VIO18 alone on.
* RAIL_OUT_OF_TOLERANCE (R660): a FAULT event for each rail that is on and out of tolerance, and a power failure
  where one is more than 10 % below its nominal.
* VCORE_SET_POINT (R654): with an adaptive regulator the set point moves.
* MEMORY_TRAINING_COMPLETE (R379, R391, R392, R396): the start goes on with the copy that BOOT_NEXT or BOOT_SEL
  names, or in MANUFACTURING or HOSTWAIT; without usable memory on H0 it stops there with a FAULT event.
* IMAGE_READ_COMPLETE of an image that passes checks 2 to 10 (R389, R390, R396): it stands in the boot region and is
  applied.
* IMAGE_READ_COMPLETE of a copy that fails a check (R389, R391): its cause is shown and the other copy is tried;
  where both have failed the start is FAILED, with an event.
* BOOT_PLANNER_START (R25, R82, R396): with the links settled and the sample clocks locked the plans are loaded and
  the planner runs.
* SVN_ADVANCE (R395): the fused security version follows the image's.
* BOOT_HOSTGO (R393): a host's image that passes the checks is copied into the boot region and applied.
* BOOT_HOSTGO with an image that fails (R391, R393): its cause is shown, and nothing is applied.
* BOOT_NOR_PROG (R404): a NOR operation starts.
* NOR_PROG_DONE (R400, R404): it ends, with NOR_ERR where the bytes read back differ.
* BOOT_RESTART (R406): in FAILED, HOSTWAIT and MANUFACTURING the rails go off and the start begins again.
* BOOT_FUSE_GO (R402, R405): a fuse operation starts: 1 to 4 in MANUFACTURING only, and no revocation of the key in
  use.
* FUSE_DONE (R380, R405, R407): the fuses named are blown, or ERR shows that one was not.
* BOOT_LOCK_WRITE (R7, R402): a lock bit written as 1 is set, and one that is set stays.
* POWER_FAIL (R371, R398, R404): every A and T die loses power and an operation on the NOR device ends; a running
  S8G stops its plans and enters FLUSH, a start waits for the supply.
* POWER_RESTORE (R398): a start that waits begins again at the rails row. -/
def Obligations.BootRowsComplete : Prop :=
  (∀ (s : State), ∃ t, exec (Instr.resetAssert) s = .next t ∧ t.resetLow = true ∧ t.cap = [] ∧
      t.time.frc = s.time.frc ∧ bootState t = 0 ∧ t.fuses = s.fuses ∧ t.fusedSvn = s.fusedSvn ∧
      t.keyHash = s.keyHash ∧ t.energy = s.energy ∧ t.reg (bootB 0 + R.BOOT_NEXT) = s.reg (bootB 0 + R.BOOT_NEXT) ∧
      (∀ n : Fin 32, planState t n = 0) ∧ t.rd (pwrB 0) R.PWR_CAP_CAP = s.part.maxPower ∧ t.powerGood = s.powerGood) ∧
  (∀ (s : State), ∃ t, exec (Instr.powerOnReset) s = .next t ∧ t.resetLow = true ∧ t.cap = [] ∧ t.time.frc = 0 ∧
      bootState t = 0 ∧ t.fuses = s.fuses ∧ t.fusedSvn = s.fusedSvn ∧
      t.energy = [] ∧ t.plans = [] ∧ t.rd (pwrB 0) R.PWR_CAP_CAP = s.part.maxPower) ∧
  (∀ (v : BitVec 2) (s : State), s.resetLow = true → ∃ t, exec (Instr.resetRelease v) s = .next t ∧
      t.resetLow = false ∧ t.rd (bootB 0) R.BOOT_STATUS_STRAP = v.toNat ∧
      t.rd (bootB 0) R.BOOT_SVN_FUSED = s.fusedSvn % 2 ^ R.BOOT_SVN_FUSED.w ∧
      t.reg (bootB 0 + R.BOOT_FUSE) = BitVec.ofNat 32 s.fuses) ∧
  (∀ (ok pmb : Bool) (s : State), s.resetLow = false → bootState s < 2 → s.rails.stopped = false →
      s.rails.waits = false → s.boot.norRuns = false → s.boot.fuseOp = none → s.rails.next < 12 → ok = true →
      ∃ t, exec (Instr.railSequenceStep ok pmb) s = .next t ∧ bootState t = (if s.rails.next = 11 then 2 else 1) ∧
      (s.rails.next = 11 → t.powered = s.part.present ∧ t.rails.next = 12) ∧
      (s.rails.next ≠ 11 → t.rails.next = s.rails.next + 1 ∧ (enableSkipped s s.rails.next = false →
          bit t.rails.enables s.rails.next = true) ∧
        (s.rails.next = 1 → t.rails.adaptive = pmb))) ∧
  (∀ (pmb : Bool) (s : State), s.resetLow = false → bootState s < 2 → s.rails.stopped = false →
      s.rails.waits = false → s.boot.norRuns = false → s.boot.fuseOp = none → 0 < s.rails.next → s.rails.next < 12 →
      s.rails.next ≠ 6 → s.rails.next ≠ 9 → enableSkipped s (s.rails.next - 1) = false →
      ∃ t, exec (Instr.railSequenceStep false pmb) s = .next t ∧ t.rails.next = 0 ∧
      t.rails.tries = s.rails.tries + 1 ∧ t.rails.stopped = decide (3 ≤ s.rails.tries + 1) ∧
      t.rails.enables = if 3 ≤ s.rails.tries + 1 then 1 else 0) ∧
  (∀ (o dp : BitVec 10) (l : List (BitVec 32)) (s : State), ∃ t, exec (Instr.railOutOfTolerance o dp l) s = .next t ∧
      ((List.range 10).filter fun r => o.getLsbD r && railOn s r) ⊆ t.flight.map (fun x => x.source) ∧
      ((∃ r : Fin 10, dp.getLsbD r.val = true ∧ railOn s r = true) → t.powerGood = false) ∧
      ((∀ r : Fin 10, dp.getLsbD r.val = false ∨ railOn s r = false) → t.powerGood = s.powerGood ∧ t.regs = s.regs)) ∧
  (∀ (v : Nat) (s : State), s.rails.adaptive = true → bit s.rails.enables 1 = true → 650 ≤ v ∧ v ≤ 850 ∧ v % 5 = 0 →
      v ≤ s.rails.vcore + 10 ∧ s.rails.vcore ≤ v + 10 → ∃ t, exec (Instr.vcoreSetPoint v) s = .next t ∧
      t = { s with rails := { s.rails with vcore := v } }) ∧
  (∀ (a0 a1 b0 b1 : DdrTrain) (s : State), bootState s = 2 ∨ bootState s = 3 →
      ∃ t, exec (Instr.memoryTrainingComplete a0 a1 b0 b1) s = .next t ∧ (ddrUsable t 0 = false → bootState t = 3 ∧
      ∃ x ∈ t.flight, x.source = 77) ∧
      (ddrUsable t 0 = true → 2 ≤ strapMode s → bootState t = 8 + strapMode s) ∧
      (ddrUsable t 0 = true → strapMode s < 2 → bootState t = 4 ∧ t.boot.second = false ∧
        t.boot.copy = (if s.on (bootB 0) R.BOOT_NEXT_VALID = true then s.rd (bootB 0) R.BOOT_NEXT_COPY else strapMode s) ∧
        (s.on (bootB 0) R.BOOT_NEXT_ONCE = true → t.on (bootB 0) R.BOOT_NEXT_VALID = false)) ∧
      (ddrUsable t 0 = true → t.rd (bootB 0) R.BOOT_FAIL_A_CAUSE = 0 ∧ t.rd (bootB 0) R.BOOT_FAIL_B_CAUSE = 0)) ∧
  (∀ (img : List Byte) (n : Nat) (s : State), bootState s = 4 ∨ bootState s = 5 → s.boot.copy * 0x2000000 < n →
      s.boot.copy ≠ 1 ∨ 0x4000000 ≤ n →
      imgFails (s.setBytes 0 (bootBase s) (img.take (imgLen img))) img (n - s.boot.copy * 0x2000000) = none →
      ∃ t, exec (Instr.imageReadComplete img true n) s = .next t ∧
      t = applyImage false img (keyErrors (imgErrors (s.setBytes 0 (bootBase s) (img.take (imgLen img))) img)
        (s.setBytes 0 (bootBase s) (img.take (imgLen img))))) ∧
  (∀ (img : List Byte) (ok : Bool) (n k : Nat) (s : State), bootState s = 4 ∨ bootState s = 5 → (if ok = false ∨
      n ≤ s.boot.copy * 0x2000000 ∨ (s.boot.copy = 1 ∧ n < 0x4000000) then some 0
      else imgFails (s.setBytes 0 (bootBase s) (img.take (imgLen img))) img (n - s.boot.copy * 0x2000000)) = some k →
          ∃ t, exec (Instr.imageReadComplete img ok n) s = .next t ∧ t.rd (bootB 0) (failFld s.boot.copy) = 2 ^ k ∧
      (s.boot.second = true → bootState t = 9 ∧ ∃ x ∈ t.flight, x.source = 37) ∧
      (s.boot.second = false → bootState t = 4 ∧ t.boot.second = true ∧ t.boot.copy = 1 - s.boot.copy ∧
          t.on (bootB 0) R.BOOT_STATUS_FALLBACK = true)) ∧
  (∀ (ms : BitVec 16) (s : State), bootState s = 6 → sampleClocks s = true → linksSettled s = true →
      ∃ t, exec (Instr.bootPlannerStart ms) s = .next t ∧ bootState t = 8 ∧ t.rd (bootB 0) R.BOOT_TIME_MS = ms.toNat ∧
      t.aliveRuns = true ∧
      t.rd (pwrB 0) R.PWR_STATE_STATE = if diesOn s = 0 then 1 else 2) ∧
  (∀ (s : State), bootState s = 8 → s.boot.advance = true → bit s.fuses 0 = true →
      s.fusedSvn < s.rd (bootB 0) R.BOOT_SVN_IMAGE → s.powerGood = true → ∃ t, exec (Instr.svnAdvance) s = .next t ∧
      t.fusedSvn = s.rd (bootB 0) R.BOOT_SVN_IMAGE ∧ t.on (bootB 0) R.BOOT_STATUS_SVN_ADV = true) ∧
  (∀ (s : State), bootState s = 9 ∨ bootState s = 10 ∨ bootState s = 11 →
      imgFails s (s.bytes 0 (s.rd (bootB 0) R.BOOT_HOST_BASE_BASE * 2 ^ 20) (s.rd (bootB 0) R.BOOT_HOST_LEN_LEN))
        (s.rd (bootB 0) R.BOOT_HOST_LEN_LEN) = none → ∃ t, exec (Instr.bootHostgo) s = .next t ∧
            t = applyImage true (s.bytes 0 (s.rd (bootB 0) R.BOOT_HOST_BASE_BASE * 2 ^ 20) (s.rd (bootB 0) R.BOOT_HOST_LEN_LEN))
        (((keyErrors (imgErrors s (s.bytes 0 (s.rd (bootB 0) R.BOOT_HOST_BASE_BASE * 2 ^ 20) (s.rd (bootB 0) R.BOOT_HOST_LEN_LEN))) s).wr (bootB 0) R.BOOT_FAIL_A_CAUSE 0).setBytes 0 (bootBase s) (s.bytes 0 (s.rd (bootB 0) R.BOOT_HOST_BASE_BASE * 2 ^ 20) (s.rd (bootB 0) R.BOOT_HOST_LEN_LEN)))) ∧
  (∀ (k : Nat) (s : State), bootState s = 9 ∨ bootState s = 10 ∨ bootState s = 11 →
      imgFails s (s.bytes 0 (s.rd (bootB 0) R.BOOT_HOST_BASE_BASE * 2 ^ 20) (s.rd (bootB 0) R.BOOT_HOST_LEN_LEN))
        (s.rd (bootB 0) R.BOOT_HOST_LEN_LEN) = some k → ∃ t, exec (Instr.bootHostgo) s = .next t ∧
            t.rd (bootB 0) R.BOOT_FAIL_A_CAUSE = 2 ^ k ∧ bootState t = bootState s ∧ t.cap = s.cap) ∧
  (∀ (s : State), s.on (bootB 0) R.BOOT_LOCK_NOR = false → s.on (bootB 0) R.BOOT_STATUS_NOR_BUSY = false →
      s.rd (bootB 0) R.BOOT_HOST_LEN_LEN ≠ 0 → ∃ t, exec (Instr.bootNorProg) s = .next t ∧
      t = { s with boot := { s.boot with norRuns := true } }.wr (bootB 0) R.BOOT_STATUS_NOR_BUSY 1) ∧
  (∀ (bad : Bool) (s : State), s.boot.norRuns = true → ∃ t, exec (Instr.norProgDone bad) s = .next t ∧
      t.boot.norRuns = false ∧ (s.on (bootB 0) R.BOOT_STATUS_NOR_BUSY = true →
      t.on (bootB 0) R.BOOT_STATUS_NOR_BUSY = false ∧
      (bad = true → t.on (bootB 0) R.BOOT_STATUS_NOR_ERR = true)) ∧ (s.on (bootB 0) R.BOOT_STATUS_NOR_BUSY = false →
          t.regs = s.regs)) ∧
  (∀ (s : State), bootState s = 9 ∨ bootState s = 10 ∨ bootState s = 11 → ∃ t, exec (Instr.bootRestart) s = .next t ∧
      startsAgain t ∧ t.rails.tries = 0 ∧ railsLeft t 0 ∧ bitsOf t.powered 2 6 = 0) ∧
  (∀ (s : State), s.on (bootB 0) R.BOOT_LOCK_FUSE = false → s.on (bootB 0) R.BOOT_FUSE_CMD_BUSY = false →
      s.rd (bootB 0) R.BOOT_FUSE_CMD_OP ≠ 0 ∧ s.rd (bootB 0) R.BOOT_FUSE_CMD_OP ≠ 7 →
      (s.rd (bootB 0) R.BOOT_FUSE_CMD_OP ≤ 4 → bootState s = 11) → (s.rd (bootB 0) R.BOOT_FUSE_CMD_OP = 5 →
      s.boot.slot ≠ some (s.rd (bootB 0) R.BOOT_FUSE_CMD_SLOT)) → s.powerGood = true →
      ∃ t, exec (Instr.bootFuseGo) s = .next t ∧
      t = { s with boot := { s.boot with fuseOp := some (s.rd (bootB 0) R.BOOT_FUSE_CMD_OP, s.rd (bootB 0) R.BOOT_FUSE_CMD_SLOT, s.hashIn) } }.wr
        (bootB 0) R.BOOT_FUSE_CMD_BUSY 1) ∧
  (∀ (ok : Bool) (op k : Nat) (h : List Byte) (s : State), s.boot.fuseOp = some (op, k, h) →
      ∃ t, exec (Instr.fuseDone ok) s = .next t ∧ t.boot.fuseOp = none ∧ (ok = false → t.fuses = s.fuses ∧
      t.fusedSvn = s.fusedSvn ∧ t.keyHash = s.keyHash) ∧
      (ok = true → op ≤ 3 → 0 < op → t.fuses = s.fuses ||| 2 ^ (op - 1)) ∧ (ok = true → op = 4 →
          t.fuses = s.fuses ||| 2 ^ (4 + k)) ∧
      (ok = true → op = 5 → t.fuses = s.fuses ||| 2 ^ (8 + k)) ∧ (ok = true → op = 6 →
          t.fusedSvn = min 63 (s.fusedSvn + 1)) ∧
      (s.resetLow = false → s.on (bootB 0) R.BOOT_FUSE_CMD_BUSY = true → t.on (bootB 0) R.BOOT_FUSE_CMD_BUSY = false ∧
        (ok = false → t.on (bootB 0) R.BOOT_FUSE_CMD_ERR = true))) ∧
  (∀ (p : Path) (v : BitVec 5) (s : State), pathReaches s p (bootB 0 + R.BOOT_LOCK) = true → s.resetLow = false →
      bit s.part.present 0 = true →
      (∀ k : Fin 5, bit (tget (fun _ => (0 : Word)) s.locked (bootB 0 + R.BOOT_LOCK)).toNat k = bit (s.reg (bootB 0 + R.BOOT_LOCK)).toNat k) → ∃ t, exec (Instr.bootLockWrite p v) s = .next t ∧ ∀ k : Fin 5, bit (t.reg (bootB 0 + R.BOOT_LOCK)).toNat k = (bit (s.reg (bootB 0 + R.BOOT_LOCK)).toNat k || v.getLsbD k)) ∧
  (∀ (s : State), s.powerGood = true → ∃ t, exec (Instr.powerFail) s = .next t ∧ t.powerGood = false ∧
      t.on (bootB 0) R.BOOT_STATUS_NOR_BUSY = false ∧ t.boot.norRuns = false ∧ (∃ x ∈ t.flight, x.source = 10) ∧
      (bootState s ≠ 8 → bootState t = 0 ∧ t.rails.waits = true ∧ railsLeft t 0 ∧ bitsOf t.powered 2 6 = 0) ∧
      (bootState s = 8 → inAon s = false → t.rd (pwrB 0) R.PWR_STATE_STATE = 3 ∧ bitsOf t.powered 2 6 = 0 ∧
          ∀ n : Fin 32, planState t n ≠ 4 ∧ planState t n ≠ 3)) ∧
  (∀ (s : State), ∃ t, exec (Instr.powerRestore) s = .next t ∧ t.powerGood = true ∧ (s.rails.waits = true →
      startsAgain t ∧ t.rails.waits = false) ∧ (s.rails.waits = false → t = { s with powerGood := true }))

/-- References, lock, relock, the shadow set, SYSREF and the sample clocks (R66, R579 to R598).
* RELOCK_START (R585, R590): the loop restarts and the modulator loads SEED.
* REF_PRESENCE_WINDOW (R580): an input is present after three windows within 0.2 %, and absent, with an event, after
  one outside.
* REF_EDGE_TIMEOUT (R580): the input is absent, which is counted and raises its event.
* REF_REVERT (R581, R590): in AUTO REFIN0 is used again after REVERT_S, and SYS and OUT relock on every hub.
* REF_START_TIMEOUT (R595): without a reference NOREF sets, with its event.
* LOCK_WINDOW (R587, R589): a window within TOL counts towards LOCK_COUNT, one within 4 TOL starts the count again,
  and one beyond fails the check at once, by which a synthesiser that depends on it loses lock.
* LOCKA_CHANGE (R588, R589): LOCKA follows the comparator; a synthesiser that it watches and METHOD makes depend on
  it loses lock.
* SYNTH_LOCK (R589, R590): with its checks passed and its reference present a relock ends in lock.
* RELOCK_TIMEOUT (R590): TIMEOUT without lock is an event, and the relock starts again.
* CLK_COMMIT in range (R590, R597): the shadow set is handed over; new words of OUT make it relock. What else
  relocks is in log entry 115.
* CLK_COMMIT out of range (R598): RANGE sets, and nothing is handed over.
* CLK_REVERT (R96, R597): the shadow set takes the live values.
* CLK_RELOCK (R590): both synthesisers of the hub relock, with their clocks in holdover.
* SYSREF_GO (R593): one edge, or PULSES edges, are due.
* SYSREF_EDGE (R585, R593, R594): the frame count of a die that waits starts at this edge, or goes on after a loss
  of lock; SYNC loads the modulators; the receiver of the S8G-2D takes its first edge.
* SAMPLE_CLOCK_LOCK (R66, R583): the die's sample clock is locked, as SAMP_LOCK of its hub shows.
* SAMPLE_CLOCK_UNLOCK (R583): the die sends no samples until it has relocked, and raises its event. -/
def Obligations.ClkRowsComplete : Prop :=
  (∀ (h : Hub) (out : Bool) (s : State), s.hasHub h = true → (s.synth h out).restart = true →
      ∃ t, exec (Instr.relockStart h out) s = .next t ∧ (t.synth h out).restart = false ∧
      (t.synth h out).lfsr = max 1 (s.rd (clkB h) R.CLK_DITHER_SEED) ∧
      (t.synth h out).acc = List.replicate 3 (max 1 (s.rd (clkB h) R.CLK_DITHER_SEED)) ∧
          (t.synth h out).relocking = (s.synth h out).relocking) ∧
  (∀ (a b : Nat) (s : State), ∃ t, exec (Instr.refPresenceWindow a b) s = .next t ∧ (windowOk (liveMhz s) a = true →
      (t.clkSt 0).good0 = min 3 ((s.clkSt 0).good0 + 1) ∧
        refPresent t 0 = (refPresent s 0 || decide (2 ≤ (s.clkSt 0).good0))) ∧
      (windowOk (liveMhz s) a = false → (t.clkSt 0).good0 = 0 ∧ refPresent t 0 = false ∧
        (refPresent s 0 = true → ∃ x ∈ t.flight, (x.source = 16 ∨ x.source = 17) ∧ x.detail = 0)) ∧
      (windowOk (liveMhz s) b = true → (t.clkSt 0).good1 = min 3 ((s.clkSt 0).good1 + 1) ∧
        refPresent t 1 = (refPresent s 1 || decide (2 ≤ (s.clkSt 0).good1))) ∧
      (windowOk (liveMhz s) b = false → (t.clkSt 0).good1 = 0 ∧ refPresent t 1 = false ∧
        (refPresent s 1 = true → ∃ x ∈ t.flight, (x.source = 16 ∨ x.source = 17) ∧ x.detail = 1))) ∧
  (∀ (n : Fin 2) (s : State), ∃ t, exec (Instr.refEdgeTimeout n) s = .next t ∧ refPresent t n = false ∧
      (refPresent s n = true → (∃ x ∈ t.flight, (x.source = if refInUse s = n.val then 16 else 17) ∧
      x.detail = n.val) ∧
        t.rd (clkB 0) R.CLK_REFLOSS_COUNT_COUNT = min (2 ^ R.CLK_REFLOSS_COUNT_COUNT.w - 1) (s.rd (clkB 0) R.CLK_REFLOSS_COUNT_COUNT + 1)) ∧
      (refPresent s n = false → t.regs = s.regs)) ∧
  (∀ (f : Nat) (s : State), (s.clkSt 0).since0 = some f → s.rdL (clkB 0) R.CLK_REF_REVERT_S ≠ 0 →
      2 ≤ s.rdL (clkB 0) R.CLK_REF_MODE → refInUse s = 1 →
      f + s.rdL (clkB 0) R.CLK_REF_REVERT_S * 1280000000 ≤ s.time.frc → ∃ t, exec (Instr.refRevert) s = .next t ∧
      refInUse t = 0 ∧ ∀ h ∈ s.clkHubs, ∀ out : Bool, (t.synth h out).relocking = true ∧
      t.on (clkB h) (lockFld out) = false) ∧
  (∀ (s : State), s.rd (bootB 0) R.BOOT_STATUS_STATE = 2 → refPresent s (refInUse s) = false →
      ∃ t, exec (Instr.refStartTimeout) s = .next t ∧ t.on (clkB 0) R.CLK_STATUS_NOREF = true ∧
      ∃ x ∈ t.flight, x.source = 22) ∧
  (∀ (h : Hub) (out : Bool) (n d : Nat) (s : State), s.hasHub h = true → (s.synth h out).restart = false →
      s.on (clkB h) (lockFld out) = false ∨ checksPass s h out = true → d = ((n : Int) - lockExpect s h out).natAbs →
      ∃ t, exec (Instr.lockWindow h out n) s = .next t ∧ (d ≤ max 1 (s.rd (clkB h) R.CLK_LOCK_CFG_TOL) →
      (t.synth h out).good = (s.synth h out).good + 1 ∧
      (t.synth h out).pass = ((s.synth h out).pass || decide (max 1 (s.rd (clkB h) R.CLK_LOCK_CFG_LOCK_COUNT) ≤ (s.synth h out).good + 1))) ∧
      (max 1 (s.rd (clkB h) R.CLK_LOCK_CFG_TOL) < d → d ≤ 4 * max 1 (s.rd (clkB h) R.CLK_LOCK_CFG_TOL) →
          (t.synth h out).good = 0 ∧ (t.synth h out).pass = (s.synth h out).pass) ∧
      (4 * max 1 (s.rd (clkB h) R.CLK_LOCK_CFG_TOL) < d → (t.synth h out).good = 0 ∧ (t.synth h out).pass = false ∧
        (s.on (clkB h) (lockFld out) = true → s.rd (clkB h) R.CLK_LOCK_CFG_METHOD ≠ 1 ∨ lockaWatches s h out = false →
          (t.synth h out).relocking = true ∧ t.on (clkB h) (lockFld out) = false ∧
              t.on (clkB h) (holdFld out) = true ∧
          t.rd (clkB h) R.CLK_UNLOCK_COUNT_COUNT = min (2 ^ R.CLK_UNLOCK_COUNT_COUNT.w - 1) (s.rd (clkB h) R.CLK_UNLOCK_COUNT_COUNT + 1)))) ∧
  (∀ (b : Bool) (s : State), ∃ t, exec (Instr.lockaChange b) s = .next t ∧ t.on (clkB 0) R.CLK_STATUS_LOCKA = b ∧
      ∀ out : Bool, b = false → lockaWatches s 0 out = true → s.rd (clkB 0) R.CLK_LOCK_CFG_METHOD ≠ 0 →
        s.on (clkB 0) (lockFld out) = true → t.on (clkB 0) (lockFld out) = false ∧ (t.synth 0 out).relocking = true) ∧
  (∀ (h : Hub) (out : Bool) (s : State), s.hasHub h = true → (s.synth h out).relocking = true →
      (s.synth h out).restart = false → checksPass s h out = true → refPresent s (refInUse s) = true →
      ∃ t, exec (Instr.synthLock h out) s = .next t ∧ t.on (clkB h) (lockFld out) = true ∧
      t.on (clkB h) (holdFld out) = false ∧ (t.synth h out).relocking = false ∧
      t.rd (clkB h) R.CLK_RELOCK_COUNT_COUNT = min (2 ^ R.CLK_RELOCK_COUNT_COUNT.w - 1) (s.rd (clkB h) R.CLK_RELOCK_COUNT_COUNT + 1)) ∧
  (∀ (h : Hub) (out : Bool) (s : State), s.hasHub h = true → (s.synth h out).relocking = true →
      (s.synth h out).since + max 1 (s.rd (clkB h) R.CLK_LOCK_CFG_TIMEOUT) * 1280000 ≤ s.time.frc →
      mayLock s h out = false → ∃ t, exec (Instr.relockTimeout h out) s = .next t ∧
      t.on (clkB h) R.CLK_STATUS_TIMEOUT = true ∧ (t.synth h out).since = s.time.frc ∧
      (t.synth h out).relocking = true ∧ (t.synth h out).restart = true ∧
      ∃ x ∈ t.flight, (x.source = if out then 19 else 18) ∧ x.detail = h.val) ∧
  (∀ (h : Hub) (s : State), s.hasHub h = true → clkInRange s h = true → ∃ t, exec (Instr.clkCommit h) s = .next t ∧
      t.on (clkB h) R.CLK_SHADOW_DIRTY = false ∧ (∀ o ∈ clkShadow, t.liveReg (clkB h + o) = s.reg (clkB h + o)) ∧
      ((∃ o ∈ ([0x18, 0x1C, 0x20] : List Nat), s.reg (clkB h + o) ≠ s.liveReg (clkB h + o)) →
          (t.synth h true).relocking = true)) ∧
  (∀ (h : Hub) (s : State), s.hasHub h = true → clkInRange s h = false → ∃ t, exec (Instr.clkCommit h) s = .next t ∧
      t = s.wr (clkB h) R.CLK_STATUS_RANGE 1) ∧
  (∀ (h : Hub) (s : State), s.hasHub h = true → ∃ t, exec (Instr.clkRevert h) s = .next t ∧
      t.on (clkB h) R.CLK_SHADOW_DIRTY = false ∧ (∀ o ∈ clkShadow, t.reg (clkB h + o) = s.liveReg (clkB h + o)) ∧
      t.clk = s.clk) ∧
  (∀ (h : Hub) (s : State), s.hasHub h = true → ∃ t, exec (Instr.clkRelock h) s = .next t ∧
      ∀ out : Bool, t.on (clkB h) (lockFld out) = false ∧ t.on (clkB h) (holdFld out) = true ∧
      (t.synth h out).relocking = true ∧
        (t.synth h out).restart = true ∧ (t.synth h out).since = s.time.frc) ∧
  (∀ (h : Hub) (s : State), s.hasHub h = true → s.rd (clkB h) R.CLK_SYSREF_MODE = 1 ∨
      s.rd (clkB h) R.CLK_SYSREF_MODE = 2 → ∃ t, exec (Instr.sysrefGo h) s = .next t ∧
      (t.clkSt h).sysref = if s.rd (clkB h) R.CLK_SYSREF_MODE = 1 then 1 else max 1 (s.rd (clkB h) R.CLK_SYSREF_PULSES)) ∧
  (∀ (h : Hub) (a : ADie) (s : State), s.hasHub h = true →
      s.time.frc % (64 * max 1 (s.rd (clkB h) R.CLK_SYSREF_PERIOD)) = 0 → ∃ t, exec (Instr.sysrefEdge h) s = .next t ∧
      (t.clkSt h).sysref = (s.clkSt h).sysref - 1 ∧
      (clkHubOf s a = h.val → s.hasA a = true → waitsSysref s a = true → (∀ b : ADie, b ≠ a → clkHubOf s b ≠ h.val ∨
          waitsSysref s b = false) →
        (t.acqSt a).counting = true ∧ ((s.acqSt a).lostAt = none → (t.acqSt a).frame = 0 ∧
          (if a.val = 0 then t.time.rs0 else t.time.rs1) = some s.time.frc)) ∧
      (s.on (clkB h) R.CLK_DITHER_SYNC = true →
          ∀ out : Bool, (t.synth h out).lfsr = max 1 (s.rd (clkB h) R.CLK_DITHER_SEED)) ∧
      (s.part = .s2d → s.on (jrxB 0) R.JRX_CTRL_EN = true → s.jrx.lemc = none → t.jrx.lemc = some s.time.frc)) ∧
  (∀ (a : ADie) (s : State), s.usableA a = true → tget noNat s.enabledIn a ≠ 0 →
      ∃ t, exec (Instr.sampleClockLock a) s = .next t ∧ t.on (acqB a) R.ACQ_STATUS_CLK_LOCK = true ∧
      bit (t.rd (clkB (clkHubOf s a)) R.CLK_STATUS_SAMP_LOCK) (if s.hasHub 1 then 0 else a.val) = true) ∧
  (∀ (a : ADie) (s : State), s.usableA a = true → s.on (acqB a) R.ACQ_STATUS_CLK_LOCK = true →
      ∃ t, exec (Instr.sampleClockUnlock a) s = .next t ∧ t.on (acqB a) R.ACQ_STATUS_CLK_LOCK = false ∧
      (t.acqSt a).counting = false ∧ (∃ x ∈ t.flight, x.source = 20 + a.val) ∧
      ((s.acqSt a).counting = true → (t.acqSt a).lostAt = some (s.acqSt a).frame))

/-- Rates, slews, steps, the domain bases and the wide time registers (R411 to R421, R674).
* RATE_EFFECTIVE (R411, R412): at r1 the time is re-anchored under the old rate, and the new rate applies from
  there.
* SLEW_INTERVAL (R413): REM loses what the interval added; the next interval slews by SLEW_PPM, or by what is left
  in a last one.
* TIME_STEP (R415): at r1 the correction is stepped, SET and STEP set, and TIME_STEP_LOG takes r1 and the times
  before and after.
* TIME_REM_WRITE (R413): REM takes the value, and a slew begins where none is under way. A write inside an interval
  is log entry 90's.
* TIME_UNSET (R415): SET clears.
* TIME_ADJUST (R414, R415): the correction goes to the step that is decided, to REM while SET = 1, or makes a step;
  one over a second sets FAR, with its event.
* TIME_HOSTSET (R418): the HOST base updates with TIME_HOST less device time, clamped to its register.
* BASE_REVERT (R420): a base of lower PRIO that has stayed LOCKED for REVERT_S is selected, with a switch-over and
  its event.
* REF_BASE_TICK without the reference (R418, R421): a REF base is LOST and no longer selected.
* REF_BASE_TICK with the reference (R418, R674): a REF base updates with offset and rate 0.
* PPS_LOSS (R418, R420): a PPS base without an edge is LOST, and another base is selected or the S8G is in holdover. -/
def Obligations.TimeRowsComplete : Prop :=
  (∀ (r : Nat) (v : Int) (l : List (Nat × Int)) (s : State), s.time.rates = (r, v) :: l → r ≤ s.time.frc →
      r ≤ timeDue s → ∃ t, exec (Instr.rateEffective) s = .next t ∧ t.time.rate = v ∧ t.time.rates = l ∧
      t.time.baseR = r ∧ t.time.baseT = s.fineAt r ∧ t.time.sl = s.time.sl ∧
      t.rd (timeB 0) R.TIME_RATE_RATE = enc 32 v) ∧
  (∀ (r : Nat) (m : Int) (s : State), s.time.slewAt = some r → r ≤ s.time.frc → r ≤ timeDue s →
      (m = if s.time.lastIv = true then 0 else s.time.rem - s.time.owed) →
      ∃ t, exec (Instr.slewInterval) s = .next t ∧ t.time.rem = m ∧ t.time.baseR = r ∧ t.time.baseT = s.fineAt r ∧
      t.time.rate = s.time.rate ∧
      t.time.slewAt = (if m = 0 then none else some (r + 1280)) ∧ t.time.owed = t.time.sl * (1280 * 51200) ∧
      (m = 0 → t.time.sl = 0) ∧
      ((slewPpm s * 2 ^ 44 * (1280 * 51200) : Nat) ≤ m.natAbs → m ≠ 0 →
          t.time.sl = (if m < 0 then -1 else 1) * (slewPpm s * 2 ^ 44 : Nat)) ∧
      (m ≠ 0 → t.time.lastIv = decide (m.natAbs < slewPpm s * 2 ^ 44 * (1280 * 51200)))) ∧
  (∀ (r : Nat) (c : Int) (s : State), s.time.step = some (r, c) → r ≤ s.time.frc → r ≤ timeDue s →
      ∃ t, exec (Instr.timeStep) s = .next t ∧ t.time.step = none ∧ t.time.rem = 0 ∧ t.time.sl = 0 ∧
      t.time.slewAt = none ∧ t.time.baseR = r ∧ t.time.baseT = s.fineAt r + c ∧
      t.time.stepSum = s.time.stepSum + c ∧ t.on (timeB 0) R.TIME_STATUS_SET = true ∧
          t.on (timeB 0) R.TIME_STATUS_STEP = true ∧
      t.time.stepLog = (r, rhu (s.fineAt r) fineU, rhu (s.fineAt r + c) fineU) ∧
      t.rd (timeB 0) R.TIME_STEP_COUNT_STEPS = min (2 ^ R.TIME_STEP_COUNT_STEPS.w - 1) (s.rd (timeB 0) R.TIME_STEP_COUNT_STEPS + 1)) ∧
  (∀ (v : Word) (s : State), ∃ t, exec (Instr.timeRemWrite v) s = .next t ∧ t.time.rem = v.toInt * fineNs ∧
      t.time.owed = 0 ∧ (t.time.rem ≠ 0 → t.time.slewAt ≠ none) ∧
      (s.time.slewAt ≠ none → t.time.slewAt = s.time.slewAt) ∧ t.rdI (timeB 0) R.TIME_REM_REM = v.toInt) ∧
  (∀ (s : State), ∃ t, exec (Instr.timeUnset) s = .next t ∧ t = s.wr (timeB 0) R.TIME_STATUS_SET 0) ∧
  (∀ (v : Int) (s : State), v = s.rdI (timeB 0) R.TIME_ADJ_ADJ_NS * fineNs →
      ∃ t, exec (Instr.timeAdjust) s = .next t ∧ (∀ (r : Nat) (c : Int), s.time.step = some (r, c) →
      t.time.step = some (r, c + v)) ∧
      (s.time.step = none → s.on (timeB 0) R.TIME_STATUS_SET = true → t.time.rem = s.time.rem + v ∧ (t.time.rem ≠ 0 →
          t.time.slewAt ≠ none)) ∧
      (s.time.step = none → s.on (timeB 0) R.TIME_STATUS_SET = false → t.time.step = some (nextR1 s.time.frc, v)) ∧
      (1000000000 * fineNs < v.natAbs → t.on (timeB 0) R.TIME_STATUS_FAR = true ∧
          ∃ x ∈ t.flight, x.source = 133 + 16 * s.lead)) ∧
  (∀ (k : Fin 4) (s : State), baseSrc s k = 5 → (∀ j : Fin 4, j ≠ k → baseSrc s j ≠ 5) →
      ∃ t, exec (Instr.timeHostset) s = .next t ∧ t.rdI (dbB k) R.TIME_DB_k_OFS_OFS = clampI (-(2 ^ 31)) (2 ^ 31 - 1)
      (rhu (ofSts s.time.hostTime * fineU - s.fineAt s.time.frc) fineNs)) ∧
  (∀ (k j : Fin 4) (s : State), s.time.selected = some j.val → s.rd (timeB 0) R.TIME_SELECT_REVERT_S ≠ 0 →
      s.on (timeB 0) R.TIME_CTRL_MANUAL = false → baseState s k = 2 → basePrio s k < basePrio s j →
      (s.baseSt k).since + s.rd (timeB 0) R.TIME_SELECT_REVERT_S * 1280000000 ≤ s.time.frc →
      ∃ t, exec (Instr.baseRevert k) s = .next t ∧ t.time.selected = some k.val ∧
      t.rd (timeB 0) R.TIME_STATUS_SELECTED = k ∧ t.on (timeB 0) R.TIME_STATUS_HOLDOVER = false ∧
      t.on (timeB 0) R.TIME_STATUS_SWITCH = true ∧ ∃ x ∈ t.flight, x.source = 133 + 16 * s.lead) ∧
  (∀ (k : Fin 4) (s : State), s.on (timeB 0) R.TIME_STATUS_REF_OK = false → baseSrc s k = 4 → baseState s k = 1 ∨
      baseState s k = 2 → s.on (timeB 0) R.TIME_CTRL_MANUAL = false → s.time.selected ≠ some k.val ∨
      baseState s k = 2 → ∃ t, exec (Instr.refBaseTick) s = .next t ∧ baseState t k = 3 ∧
      t.time.selected ≠ some k.val) ∧
  (∀ (k : Fin 4) (s : State), s.on (timeB 0) R.TIME_STATUS_REF_OK = true → baseSrc s k = 4 → (∀ j : Fin 4, j ≠ k →
      baseSrc s j ≠ 4) → ∃ t, exec (Instr.refBaseTick) s = .next t ∧ t.rd (dbB k) R.TIME_DB_k_OFS_OFS = 0 ∧
      t.rd (dbB k) R.TIME_DB_k_RATE_RATE = 0) ∧
  (∀ (k : Fin 4) (s : State), baseSrc s k = 3 → baseState s k = 1 ∨ baseState s k = 2 →
      ∃ t, exec (Instr.ppsLoss k) s = .next t ∧ baseState t k = 3 ∧ (t.baseSt k).last = none ∧
      (s.time.selected = some k.val → s.on (timeB 0) R.TIME_CTRL_MANUAL = false → t.time.selected ≠ some k.val))

/-- PTP messages and their timeouts (R422 to R427, R431). The standard's own algorithms are taken from outside the spec
(log entry 94).
* PTP_SYNC_RECEIVE at a port in SLAVE (R418, R422, R424): the message is counted and kept, and the instance's base
  updates with the origin time plus corrections, asymmetry and path delay, less the time of arrival.
* PTP_SYNC_RECEIVE at another port: counted, and no base updates.
* A message that the S8G does not accept, of each kind (R422): it is counted as discarded. Which instance counts one
  that matches none is log entry 95's.
* PTP_ANNOUNCE_RECEIVE (R417, R422, R431): TIME_UTC and TIME_GM_ID take its words, a port without a best master
  takes its sender, and the ports take their states.
* PTP_DELAY_RESP_RECEIVE (R422 to R424): the measurement that is out completes, and MPD takes the mean path delay,
  peer to peer or end to end. That a negative one acts as 0 is log entry 94's.
* PTP_SYNC_TIMEOUT (R14, R423): unless a Sync arrives in the cycle, the timeout counts and the instance's bases are
  LOST.
* PTP_ANNOUNCE_TIMEOUT (R14, R423): unless an Announce arrives in the cycle, the timeout counts and the port drops
  its master: with BMCA it becomes a master.
* PTP_DELAY_TIMEOUT (R423): the measurement is dropped, and the path delay keeps its value.
* PTP_MESSAGE_TRANSMIT (R425, R427): the message is counted; a one-step Sync and a Follow_Up carry the time at which
  it leaves, an Announce the class, and a delay request starts a measurement. -/
def Obligations.PtpRowsComplete : Prop :=
  (∀ (p : Hub) (m : PtpMsg) (o : Sts) (c : BitVec 64) (r : Nat) (i : Fin 2) (s : State), m.supported = true →
      ptpInst s p m.domain.toNat = some (i : Nat) → portState s i p = 9 →
      ∃ t, exec (Instr.ptpSyncReceive p m o c r) s = .next t ∧
      (t.ptpPort i p).sync = some (ofSts o.toNat * fineU, ingressAt s p r, c.toInt * fineU) ∧
      (t.ptpPort i p).syncAt = some s.time.frc ∧
      t.rd (ptpB p i) R.TIME_PTP_i_RX_RECEIVED = (s.rd (ptpB p i) R.TIME_PTP_i_RX_RECEIVED + 1) % 2 ^ 32 ∧
      (∀ k : Fin 4, baseSrc s k = 1 + i.val → (∀ j : Fin 4, j ≠ k → baseSrc s j ≠ 1 + i.val) →
        t.rdI (dbB k) R.TIME_DB_k_OFS_OFS = clampI (-(2 ^ 31)) (2 ^ 31 - 1) (rhu (ofSts o.toNat * fineU + c.toInt * fineU + portAsym s p + (s.rd (ptpB 0 i) R.TIME_PTP_i_MPD_MPD * finePs : Nat) - ingressAt s p r) fineNs))) ∧
  (∀ (p : Hub) (m : PtpMsg) (o : Sts) (c : BitVec 64) (r : Nat) (i : Fin 2) (s : State), m.supported = true →
      ptpInst s p m.domain.toNat = some (i : Nat) → portState s i p ≠ 9 →
      ∃ t, exec (Instr.ptpSyncReceive p m o c r) s = .next t ∧
      t.rd (ptpB p i) R.TIME_PTP_i_RX_RECEIVED = (s.rd (ptpB p i) R.TIME_PTP_i_RX_RECEIVED + 1) % 2 ^ 32 ∧
      t.time.bases = s.time.bases ∧ t.time.rates = s.time.rates ∧ t.time.step = s.time.step) ∧
  (∀ (p : Hub) (m : PtpMsg) (o : Sts) (c : BitVec 64) (r : Nat) (s : State), m.supported = false ∨
      ptpInst s p m.domain.toNat = none → ∃ t, exec (Instr.ptpSyncReceive p m o c r) s = .next t ∧
      ∃ i : Fin 2, t.rd (ptpB p i) R.TIME_PTP_i_BAD_DISCARDED = min (2 ^ R.TIME_PTP_i_BAD_DISCARDED.w - 1) (s.rd (ptpB p i) R.TIME_PTP_i_BAD_DISCARDED + 1)) ∧
  (∀ (p : Hub) (m : PtpMsg) (a : PtpAnnounce) (i : Fin 2) (s : State), m.supported = true →
      ptpInst s p m.domain.toNat = some (i : Nat) → ∃ t, exec (Instr.ptpAnnounceReceive p m a) s = .next t ∧
      t.time.gmId = a.gmId.toNat ∧ t.rd (timeB 0) R.TIME_UTC_OFFSET = a.utcOffset.toNat ∧
      t.on (timeB 0) R.TIME_UTC_LEAP61 = a.flags.getLsbD 0 ∧ t.on (timeB 0) R.TIME_UTC_LEAP59 = a.flags.getLsbD 1 ∧
      t.on (timeB 0) R.TIME_UTC_VALID = a.flags.getLsbD 2 ∧
          t.on (timeB 0) R.TIME_UTC_PTP_TIMESCALE = a.flags.getLsbD 3 ∧
          t.rd (ptpB p i) R.TIME_PTP_i_RX_RECEIVED = (s.rd (ptpB p i) R.TIME_PTP_i_RX_RECEIVED + 1) % 2 ^ 32 ∧
      (t.ptpPort i p).annAt = some s.time.frc ∧
      ((s.ptpPort i p).best = none →
          (t.ptpPort i p).best = some ⟨[a.priority1.toNat, a.clockClass.toNat, a.accuracy.toNat, a.variance.toNat, a.priority2.toNat, a.gmId.toNat, a.steps.toNat], a.sender.toNat⟩ ∧ (ptpRole s i p = 2 → portState t i p = 9)) ∧
      (ptpRole s i p = 3 → portState t i p = 6)) ∧
  (∀ (p : Hub) (m : PtpMsg) (a : PtpAnnounce) (s : State), m.supported = false ∨ ptpInst s p m.domain.toNat = none →
      ∃ t, exec (Instr.ptpAnnounceReceive p m a) s = .next t ∧
      ∃ i : Fin 2, t.rd (ptpB p i) R.TIME_PTP_i_BAD_DISCARDED = min (2 ^ R.TIME_PTP_i_BAD_DISCARDED.w - 1) (s.rd (ptpB p i) R.TIME_PTP_i_BAD_DISCARDED + 1)) ∧
  (∀ (p : Hub) (m : PtpMsg) (o : Sts) (c : BitVec 64) (r r3 : Nat) (i : Fin 2) (s : State), m.supported = true →
      ptpInst s p m.domain.toNat = some (i : Nat) → (s.ptpPort i p).req = some r3 →
      ∃ t, exec (Instr.ptpDelayRespReceive p m o c r) s = .next t ∧ (t.ptpPort i p).req = none ∧
      t.rd (ptpB p i) R.TIME_PTP_i_RX_RECEIVED = (s.rd (ptpB p i) R.TIME_PTP_i_RX_RECEIVED + 1) % 2 ^ 32 ∧
      (s.on (ptpB 0 i) R.TIME_PTP_i_CFG_DELAY = true → t.rd (ptpB 0 i) R.TIME_PTP_i_MPD_MPD =
        (clampI 0 (2 ^ 32 - 1) (rhu ((ingressAt s p r - egressAt s p r3 - ofSts o.toNat * fineU - c.toInt * fineU) / 2) finePs)).toNat) ∧
      (s.on (ptpB 0 i) R.TIME_PTP_i_CFG_DELAY = false → ∀ (t1 t2 c1 : Int), (s.ptpPort i p).sync = some (t1, t2, c1) →
        t.rd (ptpB 0 i) R.TIME_PTP_i_MPD_MPD =
          (clampI 0 (2 ^ 32 - 1) (rhu ((t2 - t1 - c1 + ofSts o.toNat * fineU - egressAt s p r3 - c.toInt * fineU) / 2) finePs)).toNat)) ∧
  (∀ (p : Hub) (m : PtpMsg) (o : Sts) (c : BitVec 64) (r : Nat) (s : State), m.supported = false ∨
      ptpInst s p m.domain.toNat = none → ∃ t, exec (Instr.ptpDelayRespReceive p m o c r) s = .next t ∧
      ∃ i : Fin 2, t.rd (ptpB p i) R.TIME_PTP_i_BAD_DISCARDED = min (2 ^ R.TIME_PTP_i_BAD_DISCARDED.w - 1) (s.rd (ptpB p i) R.TIME_PTP_i_BAD_DISCARDED + 1)) ∧
  (∀ (p : Hub) (i : Fin 2) (s : State), portState s i p = 9 → (s.ptpPort i p).syncAt ≠ some s.time.frc →
      ∃ t, exec (Instr.ptpSyncTimeout p i) s = .next t ∧
      t.rd (ptpB p i) R.TIME_PTP_i_TIMEOUT_TIMEOUTS = min (2 ^ R.TIME_PTP_i_TIMEOUT_TIMEOUTS.w - 1) (s.rd (ptpB p i) R.TIME_PTP_i_TIMEOUT_TIMEOUTS + 1) ∧
      ∀ k : Fin 4, baseSrc s k = 1 + i.val → baseState s k = 1 ∨ baseState s k = 2 → baseState t k = 3) ∧
  (∀ (p : Hub) (i : Fin 2) (s : State), ptpRole s i p = 1 ∨ ptpRole s i p = 2 →
      (s.ptpPort i p).annAt ≠ some s.time.frc → ∃ t, exec (Instr.ptpAnnounceTimeout p i) s = .next t ∧
      (t.ptpPort i p).best = none ∧ portState t i p = (if ptpRole s i p = 1 then 6 else 4) ∧
      t.rd (ptpB p i) R.TIME_PTP_i_TIMEOUT_TIMEOUTS = min (2 ^ R.TIME_PTP_i_TIMEOUT_TIMEOUTS.w - 1) (s.rd (ptpB p i) R.TIME_PTP_i_TIMEOUT_TIMEOUTS + 1)) ∧
  (∀ (p : Hub) (i : Fin 2) (s : State), ∃ t, exec (Instr.ptpDelayTimeout p i) s = .next t ∧
      (t.ptpPort i p).req = none ∧ t.regs = s.regs) ∧
  (∀ (p : Hub) (i : Fin 2) (k : Fin 16) (r : Nat) (s : State), ptpRole s i p ≠ 0 →
      ∃ t, exec (Instr.ptpMessageTransmit p i k r) s = .next t ∧
      t.rd (ptpB p i) R.TIME_PTP_i_TX_SENT = (s.rd (ptpB p i) R.TIME_PTP_i_TX_SENT + 1) % 2 ^ 32 ∧
      (k = 1 ∨ k = 2 → (t.ptpPort i p).req = some r) ∧
      ∃ o : PtpOut, t.time.sent = s.time.sent ++ [o] ∧ o.port = p ∧ o.inst = i ∧ o.kind = k ∧
        (k = 8 ∨ (k = 0 ∧ s.on (ptpB 0 i) R.TIME_PTP_i_CFG_ONESTEP = true) →
            o.origin = stsOf (rhu (egressAt s p r) fineU) / 65536 ∧
          o.corr = stsOf (rhu (egressAt s p r) fineU) % 65536) ∧
        (k = 11 → o.cls = ptpClass s i))

/-- The event-timing inputs and the interval units (R435 to R450).
* TDC_EDGE of a selected edge after the blind time (R436, R439, R440, R442 to R445): it is captured and counted;
  through the gate it enters the queue with its time, number and flags, or is dropped from a full queue; an edge
  that the gate stops is counted as gated. The reach of its hits is TRG's.
* TDC_EDGE in the blind time (R439, R440): it is lost and counted.
* TDC_ARM (R443): inputs in COUNT mode pass their next COUNT edges; the others stay.
* TDC_FLUSH (R446): the queues named are empty.
* TDC_CHECK (R438): with the gate CLOSED and FINE set the test runs; otherwise it aborts.
* TDC_CHECK_DONE (R438): the worst DNL and INL are reported; with UPDATE the code widths are replaced if every code
  had 8192 hits. The widths themselves are analogue (log entry 97).
* TDC_FIFO_POP and IV_FIFO_POP (R446, R448): the word at +0xC is read and the oldest entry leaves the queue.
* A pop of an empty queue: it reads zero (R446).
* PRESENCE_TIMEOUT (R14, R449): without an edge in the cycle PRESENT clears, with its event.
* TDC_READY (R450): the input captures from here on, with SEQ and the presence count at zero.
* TDC_SETTLE_END (R435): captured edges no longer carry SETTLE. -/
def Obligations.TdcRowsComplete : Prop :=
  (∀ (g : Fin 16) (u : Bool) (r : Nat) (k : BitVec 8) (s : State), tdcLive s g = true → edgeSelected s g u = true →
      (∀ l ∈ (s.tdcIn g).last, ¬ ((s.on (timeB 0) R.TIME_STATUS_FINE = true ∧
      5 * (r * 256 + k.toNat) < 5 * l + 8192) ∨
      (s.on (timeB 0) R.TIME_STATUS_FINE = false ∧ r * 256 + k.toNat < l + 4096))) →
          ∃ t, exec (Instr.tdcEdge g u r k) s = .next t ∧ (t.tdcIn g).seq = ((s.tdcIn g).seq + 1) % 65536 ∧
          (t.tdcIn g).last = some (r * 256 + k.toNat) ∧
      t.rd (tdcInB g) R.TDC_n_CAPTURED_EDGES = (s.rd (tdcInB g) R.TDC_n_CAPTURED_EDGES + 1) % 2 ^ 32 ∧
      t.on (tdcInB g) R.TDC_n_STATUS_COARSE = (!s.on (timeB 0) R.TIME_STATUS_FINE) ∧
      (gatePasses s g (stampTime s g (if s.on (timeB 0) R.TIME_STATUS_FINE = true then r * 256 + k.toNat else ceilTo 2048 (r * 256 + k.toNat))) = false → (t.tdcIn g).fifo = (s.tdcIn g).fifo ∧ t.rd (tdcInB g) R.TDC_n_GATED_GATED = min (2 ^ 32 - 1) (s.rd (tdcInB g) R.TDC_n_GATED_GATED + 1)) ∧
      (gatePasses s g (stampTime s g (if s.on (timeB 0) R.TIME_STATUS_FINE = true then r * 256 + k.toNat else ceilTo 2048 (r * 256 + k.toNat))) = true → (t.tdcIn g).armLeft = (s.tdcIn g).armLeft - 1 ∧
        (4096 ≤ (s.tdcIn g).fifo.length → (t.tdcIn g).fifo = (s.tdcIn g).fifo ∧
            t.on (tdcInB g) R.TDC_n_STATUS_OVF = true ∧
            t.rd (tdcInB g) R.TDC_n_OVF_DROPPED = min (2 ^ 32 - 1) (s.rd (tdcInB g) R.TDC_n_OVF_DROPPED + 1) ∧
            (t.tdcIn g).afterOvf = true) ∧
        ((s.tdcIn g).fifo.length < 4096 → ∃ e, (t.tdcIn g).fifo = (s.tdcIn g).fifo ++ [e] ∧
            e % 2 ^ 96 = stsOf (stampTime s g (if s.on (timeB 0) R.TIME_STATUS_FINE = true then r * 256 + k.toNat else ceilTo 2048 (r * 256 + k.toNat))) ∧
          e / 2 ^ 96 % 2 ^ 16 = ((s.tdcIn g).seq + 1) % 65536 ∧ bit (e / 2 ^ 112) 0 = u ∧
              bit (e / 2 ^ 112) 1 = (!s.on (timeB 0) R.TIME_STATUS_FINE) ∧
          bit (e / 2 ^ 112) 2 = (s.tdcIn g).afterOvf ∧ bit (e / 2 ^ 112) 3 = (s.tdcIn g).settle ∧
              e / 2 ^ 120 = g.val))) ∧
  (∀ (g : Fin 16) (u : Bool) (r : Nat) (k : BitVec 8) (l : Nat) (s : State), tdcLive s g = true →
      edgeSelected s g u = true → (s.tdcIn g).last = some l → ((s.on (timeB 0) R.TIME_STATUS_FINE = true ∧
      5 * (r * 256 + k.toNat) < 5 * l + 8192) ∨
      (s.on (timeB 0) R.TIME_STATUS_FINE = false ∧ r * 256 + k.toNat < l + 4096)) →
          ∃ t, exec (Instr.tdcEdge g u r k) s = .next t ∧
          t.rd (tdcInB g) R.TDC_n_MISSED_MISSED = min (2 ^ 32 - 1) (s.rd (tdcInB g) R.TDC_n_MISSED_MISSED + 1) ∧
          t.on (tdcInB g) R.TDC_n_STATUS_MISSED = true ∧ t.tdc = s.tdc ∧ t.time = s.time) ∧
  (∀ (h : Hub) (m : BitVec 8) (s : State), s.hasHub h = true → ∃ t, exec (Instr.tdcArm h m) s = .next t ∧
      ∀ n : Fin 8, (t.tdcIn (8 * h + n)).armLeft = if m.getLsbD n = true ∧
      s.rd (tdcInB (8 * h + n)) R.TDC_n_GATE_MODE = 3 then
        max 1 (s.rd (tdcInB (8 * h + n)) R.TDC_n_GATE_COUNT) else (s.tdcIn (8 * h + n)).armLeft) ∧
  (∀ (h : Hub) (m : BitVec 8) (s : State), s.hasHub h = true → ∃ t, exec (Instr.tdcFlush h m) s = .next t ∧
      ∀ n : Fin 8, (t.tdcIn (8 * h + n)).fifo = if m.getLsbD n then [] else (s.tdcIn (8 * h + n)).fifo) ∧
  (∀ (h : Hub) (n : Fin 8) (u : Bool) (s : State), s.hasHub h = true → s.on (tdcB h) R.TDC_CAL_BUSY = false →
      ∃ t, exec (Instr.tdcCheck h n u) s = .next t ∧ (s.rd (tdcInB (8 * h + n)) R.TDC_n_GATE_MODE = 0 →
      s.on (timeB 0) R.TIME_STATUS_FINE = true →
        t.on (tdcB h) R.TDC_CAL_BUSY = true ∧ tget noCheck t.tdcCheck h = some (n.val, u)) ∧
      (s.rd (tdcInB (8 * h + n)) R.TDC_n_GATE_MODE ≠ 0 ∨ s.on (timeB 0) R.TIME_STATUS_FINE = false →
        t.on (tdcB h) R.TDC_CAL_ABORT = true ∧ t.tdcCheck = s.tdcCheck)) ∧
  (∀ (h : Hub) (d i : BitVec 8) (k n : Nat) (u : Bool) (s : State), tget noCheck s.tdcCheck h = some (n, u) →
      ∃ t, exec (Instr.tdcCheckDone h d i k) s = .next t ∧ tget noCheck t.tdcCheck h = none ∧
      t.rd (tdcB h) R.TDC_CAL_DNL = d.toNat ∧ t.rd (tdcB h) R.TDC_CAL_INL = i.toNat ∧
      t.on (tdcB h) R.TDC_CAL_BUSY = false ∧ t.on (tdcB h) R.TDC_CAL_DONE = true ∧
      (u = true → 8192 ≤ k → t.on (tdcB h) R.TDC_CAL_UPDATED = true) ∧
      (u = false ∨ k < 8192 → t.on (tdcB h) R.TDC_CAL_UPDATED = s.on (tdcB h) R.TDC_CAL_UPDATED)) ∧
  (∀ (g : Fin 16) (e : Nat) (l : List Nat) (s : State), (s.tdcIn g).fifo = e :: l →
      ∃ t, exec (Instr.tdcFifoPop g) s = .next t ∧ t.readData = BitVec.ofNat 32 (e / 2 ^ 96) ∧ (t.tdcIn g).fifo = l) ∧
  (∀ (g : Fin 16) (s : State), (s.tdcIn g).fifo = [] → ∃ t, exec (Instr.tdcFifoPop g) s = .next t ∧
      t = { s with readData := 0 }) ∧
  (∀ (h : Hub) (m : Fin 4) (e : Nat) (l : List Nat) (s : State), (s.ivUnit h m).fifo = e :: l →
      ∃ t, exec (Instr.ivFifoPop h m) s = .next t ∧ t.readData = BitVec.ofNat 32 (e / 2 ^ 96) ∧
      (t.ivUnit h m).fifo = l) ∧
  (∀ (g : Fin 16) (s : State), s.hasHub (g.val / 8) = true → s.rd (tdcInB g) R.TDC_n_PERIOD_PERIOD ≠ 0 →
      (∀ r ∈ (s.tdcIn g).presLast, r / 2048 ≠ s.time.frc / 8) → ∃ t, exec (Instr.presenceTimeout g) s = .next t ∧
      t.on (tdcInB g) R.TDC_n_STATUS_PRESENT = false ∧ (t.tdcIn g).presCount = 0 ∧
      (s.on (tdcInB g) R.TDC_n_STATUS_PRESENT = true → t.on (tdcInB g) R.TDC_n_STATUS_PRES_CHANGE = true ∧
          ∃ x ∈ t.flight, x.source = 134 + 16 * (g.val / 8) ∧ x.detail = g.val)) ∧
  (∀ (g : Fin 16) (s : State), s.hasHub (g.val / 8) = true → s.on (tdcInB g) R.TDC_n_CFG_EN = true →
      s.on (tdcInB g) R.TDC_n_STATUS_READY = false → ∃ t, exec (Instr.tdcReady g) s = .next t ∧
      t.on (tdcInB g) R.TDC_n_STATUS_READY = true ∧ (t.tdcIn g).seq = 0 ∧ (t.tdcIn g).presCount = 0 ∧
      (t.tdcIn g).last = none) ∧
  (∀ (g : Fin 16) (s : State), ∃ t, exec (Instr.tdcSettleEnd g) s = .next t ∧ (t.tdcIn g).settle = false ∧
      t.regs = s.regs)

/-- R455 to R475: sources, rows, dies and patrol of a flash store. What an operation of the media needed is the row's
operand.
* SOURCE_OPEN (R461): the source is enabled with its counts at zero, and a recording with the next free number
  enters the catalogue, OPEN, with the open STS.
* SOURCE_OPEN with the catalogue full (R462): EN stays 0 and CAT_FULL is set, unless FULL is OVERWRITE and a closed
  recording without PROTECT may go.
* SOURCE_OPEN with the catalogue full and OVERWRITE (R462): the oldest such recording is deleted first.
* SOURCE_CLOSE (R461): the source is disabled, and its recording is CLOSING until SAFE reaches WPTR, then CLOSED
  with the close STS.
* SOURCE_WAIT_EXPIRE (R463): the source is no longer passed over, and the store acts on what is staged.
* SOURCE_WAIT_EXPIRE of the one recording staged, into a row with room (R460, R463): all its sectors are taken from
  the ring into the row.
* ROW_SEAL of a row open for SEAL_MS (R463, R465): it is sealed with its header, and padded with PAD if it is not
  full.
* ROW_SEAL that is not due: nothing changes; SEAL_MS of 0 seals only full rows.
* ROW_CONFIRM, passing (R464, R467): the row is confirmed, and SAFE of each source advances over the run of
  confirmed sectors without a gap; the cycles that the row waited for tags are counted.
* ROW_CONFIRM of relocated data, passing (R471): the old row stays until every new row with its data has been
  confirmed, and is dropped then.
* ROW_CONFIRM with a failed program on die d (R466, R470): the failure is counted, its block is retired with an
  event and replaced by a spare, or the superblock leaves service; the row is programmed again in its next place.
* The third failed operation of a die in a row (R474): the die has failed.
* ROW_CONFIRM of no row that waits, or of a die outside the row: nothing but the count of waits.
* NAND_DIE_FAIL (R459, R474, R475): the die is failed with its event, its group degraded and to be rebuilt, the rate
  computed again, and the sectors that parity can no longer rebuild are counted as lost.
* REBUILD_COMPLETE (R475): the group's rebuild is over and no recording has changed.
* PATROL of a superblock with a row that is due (R472): what the read needed is counted, the age starts again, and
  the superblock is relocated where it needs refresh.
* PATROL that is not due or not enabled, or in another power state than SENTINEL and ACTIVE (R472): nothing changes.
* READ_DISTURB_PATROL (R473): a block that has reached NFS_READ_LIMIT is patrolled at once. -/
def Obligations.NfsWriteRowsComplete : Prop :=
  (∀ (h : Hub) (k : Fin 64) (s : State), s.hasHub h = true → s.on (nfsSrcB h k) R.NFS_SRC_s_CTRL_EN = false →
      (s.nfsSt h).cat.length < 65536 → ∃ t, exec (Instr.sourceOpen h k) s = .next t ∧
      t.on (nfsSrcB h k) R.NFS_SRC_s_CTRL_EN = true ∧ t.rd (nfsSrcB h k) R.NFS_SRC_s_WPTR_WPTR = 0 ∧
      t.rd (nfsSrcB h k) R.NFS_SRC_s_RPTR_RPTR = 0 ∧
      t.rd (nfsSrcB h k) R.NFS_SRC_s_SAFE_SAFE = 0 ∧
          (s.nfsSt h).find (t.rd (nfsSrcB h k) R.NFS_SRC_s_REC_REC) = none ∧
      ((s.nfsSt h).find (s.rd (nfsB h) R.NFS_NEXT_REC_REC) = none → s.rd (nfsB h) R.NFS_NEXT_REC_REC ≠ 0 →
        t.rd (nfsSrcB h k) R.NFS_SRC_s_REC_REC = s.rd (nfsB h) R.NFS_NEXT_REC_REC) ∧
      t.rd (nfsB h) R.NFS_NEXT_REC_REC = t.rd (nfsSrcB h k) R.NFS_SRC_s_REC_REC % (2 ^ 24 - 1) + 1 ∧
      (t.nfsSt h).cat.map (·.num) = (s.nfsSt h).cat.map (·.num) ++ [t.rd (nfsSrcB h k) R.NFS_SRC_s_REC_REC] ∧
      (t.nfsSt h).cat.getLast?.map (fun r => (r.source, r.state, r.protect, r.openSts)) =
        some (k.val, 1, s.on (nfsSrcB h k) R.NFS_SRC_s_CTRL_PROTECT, s.sts)) ∧
  (∀ (h : Hub) (k : Fin 64) (s : State), s.hasHub h = true → s.on (nfsSrcB h k) R.NFS_SRC_s_CTRL_EN = false →
      65536 ≤ (s.nfsSt h).cat.length → s.on (nfsB h) R.NFS_CTRL_FULL = false ∨ (s.nfsSt h).oldest = none →
      ∃ t, exec (Instr.sourceOpen h k) s = .next t ∧ t = s.wr (nfsB h) R.NFS_STATUS_CAT_FULL 1) ∧
  (∀ (h : Hub) (k : Fin 64) (n : Nat) (s : State), s.hasHub h = true →
      s.on (nfsSrcB h k) R.NFS_SRC_s_CTRL_EN = false → (s.nfsSt h).cat.length = 65536 →
      s.on (nfsB h) R.NFS_CTRL_FULL = true → (s.nfsSt h).oldest = some n →
      ∃ t, exec (Instr.sourceOpen h k) s = .next t ∧ t.on (nfsSrcB h k) R.NFS_SRC_s_CTRL_EN = true ∧
      (t.nfsSt h).cat.getLast?.map (fun r => (r.source, r.state, r.openSts)) = some (k.val, 1, s.sts) ∧
      ∀ r ∈ (t.nfsSt h).cat.dropLast, r.num ≠ n) ∧
  (∀ (h : Hub) (k : Fin 64) (s : State), s.hasHub h = false ∨ s.on (nfsSrcB h k) R.NFS_SRC_s_CTRL_EN = true →
      ∃ t, exec (Instr.sourceOpen h k) s = .next t ∧ t = s) ∧
  (∀ (h : Hub) (k : Fin 64) (r : NfsRec) (s : State), s.hasHub h = true →
      s.on (nfsSrcB h k) R.NFS_SRC_s_CTRL_EN = true →
      (s.nfsSt h).find (s.rd (nfsSrcB h k) R.NFS_SRC_s_REC_REC) = some r → r.source = k.val → r.state = 1 →
      (s.nfsSt h).isShown r = true → ((s.nfsSt h).cat.map (·.num)).Nodup →
      ∃ t, exec (Instr.sourceClose h k) s = .next t ∧ t.on (nfsSrcB h k) R.NFS_SRC_s_CTRL_EN = false ∧
      ∃ x, (t.nfsSt h).find r.num = some x ∧ x.openSts = r.openSts ∧
      (x.state = 2 ∨ (x.state = 3 ∧ x.safe = s.rd (nfsSrcB h k) R.NFS_SRC_s_WPTR_WPTR ∧ x.closeSts = s.sts)) ∧
      (s.rd (nfsSrcB h k) R.NFS_SRC_s_RPTR_RPTR = s.rd (nfsSrcB h k) R.NFS_SRC_s_WPTR_WPTR →
          s.rd (nfsSrcB h k) R.NFS_SRC_s_SAFE_SAFE = s.rd (nfsSrcB h k) R.NFS_SRC_s_WPTR_WPTR →
        x.state = 3)) ∧
  (∀ (h : Hub) (k : Fin 64) (s : State), s.hasHub h = false ∨ s.on (nfsSrcB h k) R.NFS_SRC_s_CTRL_EN = false →
      ∃ t, exec (Instr.sourceClose h k) s = .next t ∧ t = s) ∧
  (∀ (h : Hub) (k : Fin 64) (s : State), s.hasHub h = true → ∃ t, exec (Instr.sourceWaitExpire h k) s = .next t ∧
      t = nfsRun h (s.modNfs h fun q => { q with waited := tset noNat q.waited k 1 })) ∧
  (∀ (h : Hub) (k : Fin 64) (r : NfsRec) (o : NandOpen) (n : Nat) (s : State), nfsReady s h = true →
      s.on (nfsB h) R.NFS_CTRL_EN = true → s.on (nfsB h) R.NFS_STATUS_ERASING = false →
      s.on (nfsB h) R.NFS_STATUS_FORMATTING = false → (s.nfsSt h).cat = [r] → r.source = k.val → r.state = 1 →
      r.orphan = false → (s.nfsSt h).isShown r = true → s.rd (nfsSrcB h k) R.NFS_SRC_s_SIZE_SIZE ≠ 0 →
      (s.nfsSt h).filling = some o → o.extents.length < 124 →
      dist32 (s.rd (nfsSrcB h k) R.NFS_SRC_s_WPTR_WPTR) (s.rd (nfsSrcB h k) R.NFS_SRC_s_RPTR_RPTR) = n → 0 < n →
      o.used + n < o.room → s.hasHub h = true → ∃ t, exec (Instr.sourceWaitExpire h k) s = .next t ∧
      t.rd (nfsSrcB h k) R.NFS_SRC_s_RPTR_RPTR = s.rd (nfsSrcB h k) R.NFS_SRC_s_WPTR_WPTR ∧
      (t.nfsSt h).filling.map (fun o => (o.used, o.dies, o.room)) = some (o.used + n, o.dies, o.room) ∧
      ∀ i < n, tget (fun _ => []) (t.nfsSt h).sectors (r.num * 2 ^ 32 + (s.rd (nfsSrcB h k) R.NFS_SRC_s_RPTR_RPTR + i) % 2 ^ 32) =
        ringSector s h k (s.rd (nfsSrcB h k) R.NFS_SRC_s_RPTR_RPTR + i)) ∧
  (∀ (h : Hub) (k : Fin 64) (s : State), s.hasHub h = false → ∃ t, exec (Instr.sourceWaitExpire h k) s = .next t ∧
      t = s) ∧
  (∀ (h : Hub) (o : NandOpen) (s : State), (s.nfsSt h).filling = some o → s.rd (nfsB h) R.NFS_CTRL_SEAL_MS ≠ 0 →
      o.opened + s.rd (nfsB h) R.NFS_CTRL_SEAL_MS * 1280000 ≤ s.time.frc → o.used ≠ 0 →
      ∃ t, exec (Instr.rowSeal h) s = .next t ∧ ∃ r ∈ (t.nfsSt h).rows, r.seq = (s.nfsSt h).rowSeq ∧
      r.group = o.group ∧ r.sb = o.sb ∧ r.row = o.row ∧ r.dies = o.dies ∧
      r.extents = o.extents ∧ r.passed = false ∧
          r.flags = b2n (decide (o.used < o.room)) + 2 * b2n (s.on (nfsB h) R.NFS_STATUS_FLUSH) ∧
      r.header = rowHeader (s.nfsSt h).rowSeq s.sts o.dies.length r.flags o.extents) ∧
  (∀ (h : Hub) (s : State), (s.rd (nfsB h) R.NFS_CTRL_SEAL_MS = 0 ∨
      ∀ o ∈ (s.nfsSt h).filling, s.time.frc < o.opened + s.rd (nfsB h) R.NFS_CTRL_SEAL_MS * 1280000 ∨ o.used = 0) →
      ∃ t, exec (Instr.rowSeal h) s = .next t ∧ t = s) ∧
  (∀ (h : Hub) (q n : Nat) (r : NandRow) (s : State),
      ((s.nfsSt h).rows.find? fun r => r.seq == q && !r.passed) = some r → q < (s.nfsSt h).rowSeq → r.old = none →
      ((s.nfsSt h).cat.map (·.num)).Nodup → (∀ x ∈ (s.nfsSt h).cat, x.source < 64) →
      ∃ t, exec (Instr.rowConfirm h q none n) s = .next t ∧ (∀ x ∈ (t.nfsSt h).rows, x.seq = q → x.passed = true) ∧
      t.rd (nfsB h) R.NFS_TAG_WAITS_COUNT = min (2 ^ 32 - 1) (s.rd (nfsB h) R.NFS_TAG_WAITS_COUNT + n) ∧
      (r.flags / 4 % 2 = 0 → ∀ x ∈ (s.nfsSt h).cat, (x.state = 1 ∨ x.state = 2) → (s.nfsSt h).isShown x = true →
        s.rd (nfsSrcB h x.source) R.NFS_SRC_s_SAFE_SAFE ≠ s.rd (nfsSrcB h x.source) R.NFS_SRC_s_RPTR_RPTR →
        t.rd (nfsSrcB h x.source) R.NFS_SRC_s_SAFE_SAFE = safeFrom ((s.nfsSt h).rows.map fun y => if y.seq = q then { y with passed := true } else y) x.num
          ((s.nfsSt h).rows.length * 125 + 1) (s.rd (nfsSrcB h x.source) R.NFS_SRC_s_SAFE_SAFE))) ∧
  (∀ (h : Hub) (q n : Nat) (r : NandRow) (p : Nat) (s : State),
      ((s.nfsSt h).rows.find? fun r => r.seq == q && !r.passed) = some r → q < (s.nfsSt h).rowSeq → p < q →
      r.old = some p → r.flags / 4 % 2 = 1 → ∃ t, exec (Instr.rowConfirm h q none n) s = .next t ∧
      t.rd (nfsB h) R.NFS_TAG_WAITS_COUNT = min (2 ^ 32 - 1) (s.rd (nfsB h) R.NFS_TAG_WAITS_COUNT + n) ∧
      ((∀ x ∈ (s.nfsSt h).rows, x.old = some p → x.seq = q ∨ x.passed = true) → ∀ x ∈ (t.nfsSt h).rows, x.seq ≠ p ∧
      (x.seq = q → x.passed = true)) ∧
      ((∃ x ∈ (s.nfsSt h).rows, x.old = some p ∧ x.seq ≠ q ∧ x.passed = false) → ∀ y ∈ (s.nfsSt h).rows, y.seq = p →
        (∃ e ∈ y.extents, ((s.nfsSt h).cat.map (·.num)).contains e.num = true) →
            s.on (nfsB h) R.NFS_CTRL_FULL = false → ∃ y ∈ (t.nfsSt h).rows, y.seq = p)) ∧
  (∀ (h : Hub) (q n : Nat) (d : Fin 256) (r : NandRow) (s : State),
      ((s.nfsSt h).rows.find? fun r => r.seq == q && !r.passed) = some r → r.dies.contains d.val = true →
      (∀ x ∈ (s.nfsSt h).rows, x.seq = q → x = r) → tget noNat (s.nfsSt h).fails d < 2 →
      ∃ t, exec (Instr.rowConfirm h q (some d) n) s = .next t ∧
      t.rd (nfsB h) R.NFS_PROG_FAIL_COUNT = min (2 ^ 32 - 1) (s.rd (nfsB h) R.NFS_PROG_FAIL_COUNT + 1) ∧
      t.rd (nfsB h) R.NFS_BAD_COUNT_COUNT = min (2 ^ 32 - 1) (s.rd (nfsB h) R.NFS_BAD_COUNT_COUNT + 1) ∧
      t.rd (nfsB h) R.NFS_TAG_WAITS_COUNT = min (2 ^ 32 - 1) (s.rd (nfsB h) R.NFS_TAG_WAITS_COUNT + n) ∧
      (∃ x ∈ t.flight, x.source = 129 + 16 * h.val ∧ x.detail = d.val * 2 ^ 32 + r.sb) ∧
          tget noNat (t.nfsSt h).fails d = tget noNat (s.nfsSt h).fails d + 1 ∧
      (0 < tget noNat (s.nfsSt h).spares d → tget noNat (t.nfsSt h).spares d = tget noNat (s.nfsSt h).spares d - 1) ∧
      (tget noNat (s.nfsSt h).spares d = 0 → ((t.nfsSt h).super r.group r.sb).retired = true) ∧
      ∃ x ∈ (t.nfsSt h).rows, x.seq = q ∧ x.passed = false ∧ x.extents = r.extents ∧
        ∀ b w u, ((retireBlock h r.group r.sb d s).nfsSt h).placeIn 0 r.group = some (b, w, u) → x.sb = b ∧
            x.row = w ∧ x.dies = (s.nfsSt h).live r.group) ∧
  (∀ (h : Hub) (q n : Nat) (d : Fin 256) (r : NandRow) (s : State),
      ((s.nfsSt h).rows.find? fun r => r.seq == q && !r.passed) = some r → r.dies.contains d.val = true →
      2 ≤ tget noNat (s.nfsSt h).fails d → (s.nfsSt h).failed.contains d.val = false →
      ((s.nfsSt h).luns.any fun l => l.i.val == d.val) = true →
      ∃ t, exec (Instr.rowConfirm h q (some d) n) s = .next t ∧
      t.rd (nfsB h) R.NFS_PROG_FAIL_COUNT = min (2 ^ 32 - 1) (s.rd (nfsB h) R.NFS_PROG_FAIL_COUNT + 1) ∧
      (t.nfsSt h).failed = (s.nfsSt h).failed ++ [d.val] ∧ t.on (nfsB h) R.NFS_STATUS_DIE_FAIL = true ∧
      ∃ x ∈ t.flight, x.source = 128 + 16 * h.val ∧ x.detail = d.val) ∧
  (∀ (h : Hub) (q n : Nat) (d : Fin 256) (r : NandRow) (s : State),
      ((s.nfsSt h).rows.find? fun r => r.seq == q && !r.passed) = some r → r.dies.contains d.val = false →
      ∃ t, exec (Instr.rowConfirm h q (some d) n) s = .next t ∧ t = s.inc (nfsB h) R.NFS_TAG_WAITS_COUNT n) ∧
  (∀ (h : Hub) (q n : Nat) (f : Option (Fin 256)) (s : State),
      ((s.nfsSt h).rows.find? fun r => r.seq == q && !r.passed) = none →
      ∃ t, exec (Instr.rowConfirm h q f n) s = .next t ∧ t = s) ∧
  (∀ (h : Hub) (d : Fin 256) (s : State), s.hasHub h = true → (s.nfsSt h).failed.contains d.val = false →
      ((s.nfsSt h).luns.any fun l => l.i.val == d.val) = true → ∃ t, exec (Instr.nandDieFail h d) s = .next t ∧
      (t.nfsSt h).failed = (s.nfsSt h).failed ++ [d.val] ∧ t.on (nfsB h) R.NFS_STATUS_DIE_FAIL = true ∧
      t.flight.map (·.source) = s.flight.map (·.source) ++ [128 + 16 * h.val] ∧
          bit (t.rd (nfsB h + 0x10 * (d.val % 8)) R.NFS_FAILED_c_FAILED) (d.val / 8) = true ∧
      t.rd (nfsB h) R.NFS_LOST_COUNT_COUNT = min (2 ^ 32 - 1) (s.rd (nfsB h) R.NFS_LOST_COUNT_COUNT + (((s.nfsSt h).rows.flatMap (t.nfsSt h).lostIn).length -
        ((s.nfsSt h).rows.flatMap (s.nfsSt h).lostIn).length)) ∧
      (∀ r ∈ (t.nfsSt h).cat, ((s.nfsSt h).rows.flatMap (t.nfsSt h).lostIn).contains r.num = true → r.loss = true) ∧
      (∀ g, g < (s.nfsSt h).groups.length → (((s.nfsSt h).groups[g]?).map (·.dies)).any (·.contains d.val) = true →
        t.on (nfsB h) R.NFS_STATUS_DEGRADED = true ∧ t.on (nfsB h) R.NFS_STATUS_REBUILD = true) ∧
            t.rd (nfsB h) R.NFS_RATE_MBPS = nfsRate t h) ∧
  (∀ (h : Hub) (d : Fin 256) (s : State), s.hasHub h = false ∨ (s.nfsSt h).failed.contains d.val = true ∨
      ((s.nfsSt h).luns.any fun l => l.i.val == d.val) = false → ∃ t, exec (Instr.nandDieFail h d) s = .next t ∧
      t = s) ∧
  (∀ (h : Hub) (g : Nat) (s : State), (s.nfsSt h).rebuilding.contains g = true →
      ∃ t, exec (Instr.rebuildComplete h g) s = .next t ∧
      (t.nfsSt h).rebuilding = (s.nfsSt h).rebuilding.filter (· != g) ∧ t.rd (nfsB h) R.NFS_REBUILD_PCT = 100 ∧
      t.on (nfsB h) R.NFS_STATUS_REBUILD = !((s.nfsSt h).rebuilding.filter (· != g)).isEmpty ∧
          (t.nfsSt h).cat = (s.nfsSt h).cat ∧ (t.nfsSt h).sectors = (s.nfsSt h).sectors) ∧
  (∀ (h : Hub) (g : Nat) (s : State), (s.nfsSt h).rebuilding.contains g = false →
      ∃ t, exec (Instr.rebuildComplete h g) s = .next t ∧ t = s) ∧
  (∀ (h : Hub) (g sb : Nat) (x : NandRead) (r : NandRow) (s : State), nfsReady s h = true →
      s.on (nfsB h) R.NFS_CTRL_PATROL_EN = true → s.rd (pwrB 0) R.PWR_STATE_STATE = 1 ∨
      s.rd (pwrB 0) R.PWR_STATE_STATE = 2 → r ∈ (s.nfsSt h).rowsOf g sb →
      r.patrolled + max 1 (s.rd (nfsB h) R.NFS_PATROL_DAYS) * 86400 * 1000000 * 1280 ≤ s.time.frc →
      ∃ t, exec (Instr.patrol h g sb x) s = .next t ∧ ((t.nfsSt h).super g sb).reads = 0 ∧
      t.rd (nfsB h) R.NFS_CORR_COUNT_COUNT = min (2 ^ 32 - 1) (s.rd (nfsB h) R.NFS_CORR_COUNT_COUNT + x.corrected) ∧
      t.rd (nfsB h) R.NFS_RETRY_COUNT_COUNT = min (2 ^ 32 - 1) (s.rd (nfsB h) R.NFS_RETRY_COUNT_COUNT + x.retries) ∧
      t.rd (nfsB h) R.NFS_REBUILT_COUNT_COUNT = min (2 ^ 32 - 1) (s.rd (nfsB h) R.NFS_REBUILT_COUNT_COUNT + x.rebuilt) ∧
      (∀ r ∈ (t.nfsSt h).rows, r.group = g → r.sb = sb → r.patrolled = s.time.frc) ∧
      t.rd (nfsB h) R.NFS_REFRESH_COUNT_COUNT = min (2 ^ 32 - 1) (s.rd (nfsB h) R.NFS_REFRESH_COUNT_COUNT +
        if ((s.nfsSt h).rowsOf g sb).isEmpty = false ∧ (s.rd (nfsB h) R.NFS_PATROL_REFRESH_BITS < x.bits ∨
            x.retries ≠ 0 ∨
          ∃ r ∈ (s.nfsSt h).rowsOf g sb, r.sealedAt + max 1 (s.rd (nfsB h) R.NFS_PATROL_RETAIN_D) * (86400 * 1000000 * 1280) < s.time.frc)
        then 1 else 0)) ∧
  (∀ (h : Hub) (g sb : Nat) (x : NandRead) (s : State), (nfsReady s h = false ∨
      s.on (nfsB h) R.NFS_CTRL_PATROL_EN = false ∨ ¬ (s.rd (pwrB 0) R.PWR_STATE_STATE = 1 ∨
      s.rd (pwrB 0) R.PWR_STATE_STATE = 2) ∨
      ∀ r ∈ (s.nfsSt h).rowsOf g sb, s.time.frc < r.patrolled + max 1 (s.rd (nfsB h) R.NFS_PATROL_DAYS) * 86400 * 1000000 * 1280) → ∃ t, exec (Instr.patrol h g sb x) s = .next t ∧ t = s) ∧
  (∀ (h : Hub) (g sb : Nat) (x : NandRead) (s : State), nfsReady s h = true →
      s.rd (nfsB h) R.NFS_READ_LIMIT_LIMIT ≤ ((s.nfsSt h).super g sb).reads →
      ∃ t, exec (Instr.readDisturbPatrol h g sb x) s = .next t ∧ ((t.nfsSt h).super g sb).reads = 0 ∧
      t.rd (nfsB h) R.NFS_CORR_COUNT_COUNT = min (2 ^ 32 - 1) (s.rd (nfsB h) R.NFS_CORR_COUNT_COUNT + x.corrected) ∧
      t.rd (nfsB h) R.NFS_RETRY_COUNT_COUNT = min (2 ^ 32 - 1) (s.rd (nfsB h) R.NFS_RETRY_COUNT_COUNT + x.retries) ∧
      t.rd (nfsB h) R.NFS_REBUILT_COUNT_COUNT = min (2 ^ 32 - 1) (s.rd (nfsB h) R.NFS_REBUILT_COUNT_COUNT + x.rebuilt) ∧
      (∀ r ∈ (t.nfsSt h).rows, r.group = g → r.sb = sb → r.patrolled = s.time.frc) ∧
      t.rd (nfsB h) R.NFS_REFRESH_COUNT_COUNT = min (2 ^ 32 - 1) (s.rd (nfsB h) R.NFS_REFRESH_COUNT_COUNT +
        if ((s.nfsSt h).rowsOf g sb).isEmpty = false ∧ (s.rd (nfsB h) R.NFS_PATROL_REFRESH_BITS < x.bits ∨
            x.retries ≠ 0 ∨
          ∃ r ∈ (s.nfsSt h).rowsOf g sb, r.sealedAt + max 1 (s.rd (nfsB h) R.NFS_PATROL_RETAIN_D) * (86400 * 1000000 * 1280) < s.time.frc)
        then 1 else 0)) ∧
  (∀ (h : Hub) (g sb : Nat) (x : NandRead) (s : State), nfsReady s h = false ∨
      ((s.nfsSt h).super g sb).reads < s.rd (nfsB h) R.NFS_READ_LIMIT_LIMIT →
      ∃ t, exec (Instr.readDisturbPatrol h g sb x) s = .next t ∧ t = s)

/-- R455, R469, R477 to R485: the commands of a flash store, its mount and its end. The media key that a format or an
erase draws is a free value (R477 has it from a random generator).
* NFS_FORMAT with every source disabled (R481): the format begins.
* NFS_FORMAT while a source is enabled (R481): nothing.
* NFS_FORMAT_COMPLETE (R456 to R458, R477, R481): the dies are taken into stripe groups, spares are set aside, the
  catalogue is empty, the media key is new, and the store is mounted.
* A format of a store without a usable die leaves no group.
* NFS_READ (R483): a read-back begins; a length of 0 completes at once, with its request line.
* NFS_READ while BUSY (R483): it is ignored and REFUSED is set.
* NFS_READ_DONE (R470, R474, R475, R483): the sectors below SAFE are in hub memory, a read that reaches SAFE is
  SHORT, sectors that cannot be rebuilt are zeros with LOST, and DONE is set with the request line; a deletion that
  waited for the read takes effect.
* NFS_DELETE of a closed recording (R469): its entry and its sectors are gone, and rows without live data with them.
* NFS_DELETE of the recording that is being read back (R469): it takes effect when the read completes.
* NFS_DELETE of a recording that is not closed or has PROTECT (R469): ignored with REFUSED.
* NFS_DELETE of a number without a recording: nothing.
* NFS_UNLOCK_CMD of a locked store (R477): the right secret unlocks it; a wrong one is counted.
* NFS_UNLOCK_CMD after 8 failures (R8, R477): an access violation.
* NFS_ERASE with every source disabled, nothing pending and PWR_FAIL_N high (R478): the erase begins.
* NFS_ERASE otherwise (R8, R478): an access violation, or while PWR_FAIL_N is low nothing.
* NFS_ERASE_DONE (R478): the media key is new, the catalogue empty and every data block free, without having been
  erased.
* NFS_CAT_SEL_WRITE of a recording's number (R485): a snapshot of its entry is shown.
* NFS_CAT_SEL_WRITE of another number (R485): the entry shown is NONE.
* NFS_MOUNT (R455): the LUNs that agree with the lowest usable one are the store's dies, each one left out sets
  DIE_MISMATCH, and the channels show the rates at which they trained.
* NFS_MOUNTED of a store that is mounted: nothing.
* NFS_MOUNTED of a store without a format (R481): it is BLANK, and formats itself unless nfs.format is NEVER.
* NFS_MOUNTED (R480, R481): the store is mounted, LOCKED in HOST mode; after an unclean end the rows that check are
  kept and each recording cut short ends at its last confirmed sector, UNCLEAN. Plans that wait for the store are
  checked again with the needs that the row brings.
* NFS_CLOSED (R479): everything staged has been written, the store is CLOSED and clean.
* NFS_CLOSED of the last store in FLUSH (R371, R479): the rails go off. -/
def Obligations.NfsCommandRowsComplete : Prop :=
  (∀ (h : Hub) (s : State), s.hasHub h = true → noSources s h = true → s.on (nfsB h) R.NFS_STATUS_FORMATTING = false →
      ∃ t, exec (Instr.nfsFormat h) s = .next t ∧ t.on (nfsB h) R.NFS_STATUS_FORMATTING = true ∧
      t.on (nfsB h) R.NFS_STATUS_MOUNTED = false ∧ t.on (nfsB h) R.NFS_STATUS_BLANK = true ∧
      (t.nfsSt h).formatted = false) ∧
  (∀ (h : Hub) (s : State), s.hasHub h = false ∨ noSources s h = false ∨
      s.on (nfsB h) R.NFS_STATUS_FORMATTING = true → ∃ t, exec (Instr.nfsFormat h) s = .next t ∧ t = s) ∧
  (∀ (h : Hub) (l : List Nat) (u : NandLun) (s : State), s.hasHub h = true →
      s.on (nfsB h) R.NFS_STATUS_FORMATTING = true → (s.nfsSt h).luns.head? = some u →
      ∃ t, exec (Instr.nfsFormatComplete h l) s = .next t ∧ t.on (nfsB h) R.NFS_STATUS_FORMATTING = false ∧
      t.on (nfsB h) R.NFS_STATUS_MOUNTED = true ∧ t.on (nfsB h) R.NFS_STATUS_BLANK = false ∧
      (t.nfsSt h).formatted = true ∧
      (t.nfsSt h).cat = [] ∧ (t.nfsSt h).rows = [] ∧ (t.nfsSt h).sectors = [] ∧ t.rd (nfsB h) R.NFS_NEXT_REC_REC = 1 ∧
          (t.nfsSt h).key = Config.free 40 s.drawn % 2 ^ 512 ∧
      (t.nfsSt h).groups.map (·.dies) = pieces (min 32 (max 4 (s.rd (nfsB h) R.NFS_CTRL_WIDTH))) 64
        (((s.nfsSt h).luns.map (·.i.val)).filter fun d => !(s.nfsSt h).failed.contains d) ∧
      (t.nfsSt h).unit = NandLun.unit u ∧ (t.nfsSt h).rowsPer = u.pages / (if u.bpc4 then 4 else 3) ∧
      (t.nfsSt h).supersPer = blocksUsed u - (blocksUsed u * max 1 (s.rd (nfsB h) R.NFS_MEDIA_SPARE_PCT) + 99) / 100 ∧
      (t.nfsSt h).crypto = (if s.rd (nfsB h) R.NFS_CTRL_CRYPTO = 0 then 0 else if s.rd (nfsB h) R.NFS_CTRL_CRYPTO = 2 then 2 else 1) ∧
      (t.nfsSt h).wrapped = (s.nfsSt h).secret) ∧
  (∀ (h : Hub) (l : List Nat) (s : State), s.hasHub h = true → s.on (nfsB h) R.NFS_STATUS_FORMATTING = true →
      (s.nfsSt h).luns = [] → ∃ t, exec (Instr.nfsFormatComplete h l) s = .next t ∧
      t.on (nfsB h) R.NFS_STATUS_MOUNTED = true ∧ (t.nfsSt h).groups = [] ∧ (t.nfsSt h).cat = []) ∧
  (∀ (h : Hub) (l : List Nat) (s : State), s.hasHub h = false ∨ s.on (nfsB h) R.NFS_STATUS_FORMATTING = false →
      ∃ t, exec (Instr.nfsFormatComplete h l) s = .next t ∧ t = s) ∧
  (∀ (h : Hub) (s : State), s.hasHub h = true → s.on (nfsB h) R.NFS_RD_STATUS_BUSY = false →
      ∃ t, exec (Instr.nfsRead h) s = .next t ∧ (s.rd (nfsB h) R.NFS_RD_LEN_SECTORS = 0 →
      t.on (nfsB h) R.NFS_RD_STATUS_DONE = true ∧ t.rd (nfsB h) R.NFS_RD_STATUS_MOVED = 0 ∧
        pulsed s t h 0x8000) ∧
      (s.rd (nfsB h) R.NFS_RD_LEN_SECTORS ≠ 0 → t.on (nfsB h) R.NFS_RD_STATUS_BUSY = true ∧
          t.rd (nfsB h) R.NFS_RD_STATUS_MOVED = 0)) ∧
  (∀ (h : Hub) (s : State), s.hasHub h = true → s.on (nfsB h) R.NFS_RD_STATUS_BUSY = true →
      ∃ t, exec (Instr.nfsRead h) s = .next t ∧ t = s.wr (nfsB h) R.NFS_RD_STATUS_REFUSED 1) ∧
  (∀ (h : Hub) (s : State), s.hasHub h = false → ∃ t, exec (Instr.nfsRead h) s = .next t ∧ t = s) ∧
  (∀ (h : Hub) (x : NandRead) (n : Nat) (s : State), s.hasHub h = true → s.on (nfsB h) R.NFS_RD_STATUS_BUSY = true →
      (if nfsReady s h then min (s.rd (nfsB h) R.NFS_RD_LEN_SECTORS) ((((s.nfsSt h).find (s.rd (nfsB h) R.NFS_RD_REC_REC)).map fun r => (recCounts s h r).2.2).getD 0 - s.rd (nfsB h) R.NFS_RD_OFS_SECTOR) else 0) = n → ∃ t, exec (Instr.nfsReadDone h x) s = .next t ∧ t.on (nfsB h) R.NFS_RD_STATUS_BUSY = false ∧ t.on (nfsB h) R.NFS_RD_STATUS_DONE = true ∧ t.rd (nfsB h) R.NFS_RD_STATUS_MOVED = n ∧
      pulsed s t h 0x8000 ∧ t.rd (nfsB h) R.NFS_CORR_COUNT_COUNT = min (2 ^ 32 - 1) (s.rd (nfsB h) R.NFS_CORR_COUNT_COUNT + x.corrected) ∧ t.rd (nfsB h) R.NFS_RETRY_COUNT_COUNT = min (2 ^ 32 - 1) (s.rd (nfsB h) R.NFS_RETRY_COUNT_COUNT + x.retries) ∧ t.rd (nfsB h) R.NFS_REBUILT_COUNT_COUNT = min (2 ^ 32 - 1) (s.rd (nfsB h) R.NFS_REBUILT_COUNT_COUNT + x.rebuilt) ∧
      (n < s.rd (nfsB h) R.NFS_RD_LEN_SECTORS → t.on (nfsB h) R.NFS_RD_STATUS_SHORT = true) ∧ (x.retries ≠ 0 →
          t.on (nfsB h) R.NFS_RD_STATUS_CORRECTED = true) ∧
      (x.rebuilt ≠ 0 ∨ (∃ i < n, rebuiltAt (s.nfsSt h) (s.rd (nfsB h) R.NFS_RD_REC_REC) (s.rd (nfsB h) R.NFS_RD_OFS_SECTOR + i) = true) → t.on (nfsB h) R.NFS_RD_STATUS_REBUILT = true) ∧
      ((∃ i < n, lostAt (s.nfsSt h) (s.rd (nfsB h) R.NFS_RD_REC_REC) (s.rd (nfsB h) R.NFS_RD_OFS_SECTOR + i) = true) →
          t.on (nfsB h) R.NFS_RD_STATUS_LOST = true) ∧
      (∀ d, (s.nfsSt h).delAfter = some d → (t.nfsSt h).find d = none) ∧
      (storable s h (s.rd (nfsB h) R.NFS_RD_DEST_BASE * 2 ^ 20) ((List.range n).flatMap fun i => readBack (s.nfsSt h) (s.rd (nfsB h) R.NFS_RD_REC_REC) (s.rd (nfsB h) R.NFS_RD_OFS_SECTOR + i)) →
        stored t h (s.rd (nfsB h) R.NFS_RD_DEST_BASE * 2 ^ 20) ((List.range n).flatMap fun i => readBack (s.nfsSt h) (s.rd (nfsB h) R.NFS_RD_REC_REC) (s.rd (nfsB h) R.NFS_RD_OFS_SECTOR + i)))) ∧
  (∀ (h : Hub) (x : NandRead) (s : State), s.hasHub h = false ∨ s.on (nfsB h) R.NFS_RD_STATUS_BUSY = false →
      ∃ t, exec (Instr.nfsReadDone h x) s = .next t ∧ t = s) ∧
  (∀ (h : Hub) (r : NfsRec) (s : State), s.hasHub h = true →
      (s.nfsSt h).find (s.rd (nfsB h) R.NFS_CAT_SEL_REC) = some r → r.state = 3 → r.protect = false →
      s.on (nfsB h) R.NFS_RD_STATUS_BUSY = false ∨ s.rd (nfsB h) R.NFS_RD_REC_REC ≠ s.rd (nfsB h) R.NFS_CAT_SEL_REC →
      ∃ t, exec (Instr.nfsDelete h) s = .next t ∧
      (t.nfsSt h).cat = (s.nfsSt h).cat.filter (·.num != s.rd (nfsB h) R.NFS_CAT_SEL_REC) ∧
      (∀ i < 2 ^ 32, tget (fun _ => []) (t.nfsSt h).sectors (s.rd (nfsB h) R.NFS_CAT_SEL_REC * 2 ^ 32 + i) = []) ∧
      (∀ x ∈ (t.nfsSt h).rows, ∃ e ∈ x.extents, ∃ y ∈ (t.nfsSt h).cat, y.num = e.num)) ∧
  (∀ (h : Hub) (r : NfsRec) (s : State), s.hasHub h = true →
      (s.nfsSt h).find (s.rd (nfsB h) R.NFS_CAT_SEL_REC) = some r → r.state = 3 → r.protect = false →
      s.on (nfsB h) R.NFS_RD_STATUS_BUSY = true → s.rd (nfsB h) R.NFS_RD_REC_REC = s.rd (nfsB h) R.NFS_CAT_SEL_REC →
      ∃ t, exec (Instr.nfsDelete h) s = .next t ∧
      t = s.modNfs h fun q => { q with delAfter := some (s.rd (nfsB h) R.NFS_CAT_SEL_REC) }) ∧
  (∀ (h : Hub) (r : NfsRec) (s : State), s.hasHub h = true →
      (s.nfsSt h).find (s.rd (nfsB h) R.NFS_CAT_SEL_REC) = some r → r.state ≠ 3 ∨ r.protect = true →
      ∃ t, exec (Instr.nfsDelete h) s = .next t ∧ t = s.wr (nfsB h) R.NFS_STATUS_REFUSED 1) ∧
  (∀ (h : Hub) (s : State), s.hasHub h = false ∨ (s.nfsSt h).find (s.rd (nfsB h) R.NFS_CAT_SEL_REC) = none →
      ∃ t, exec (Instr.nfsDelete h) s = .next t ∧ t = s) ∧
  (∀ (h : Hub) (s : State), s.hasHub h = true → (s.nfsSt h).unlockFails < 8 →
      s.on (nfsB h) R.NFS_STATUS_LOCKED = true → ∃ t, exec (Instr.nfsUnlockCmd h) s = .next t ∧
      ((s.nfsSt h).secret = (s.nfsSt h).wrapped → t = nfsRun h (s.wr (nfsB h) R.NFS_STATUS_LOCKED 0)) ∧
      ((s.nfsSt h).secret ≠ (s.nfsSt h).wrapped → (t.nfsSt h).unlockFails = (s.nfsSt h).unlockFails + 1 ∧
          t.rd (nfsB h) R.NFS_UNLOCK_FAIL_COUNT = min (2 ^ 32 - 1) (s.rd (nfsB h) R.NFS_UNLOCK_FAIL_COUNT + 1) ∧
          t.on (nfsB h) R.NFS_STATUS_LOCKED = true)) ∧
  (∀ (h : Hub) (s : State), s.hasHub h = true → 8 ≤ (s.nfsSt h).unlockFails →
      ∃ t, exec (Instr.nfsUnlockCmd h) s = .next t ∧ t = s.violation h (nfsB h + R.NFS_CMD)) ∧
  (∀ (h : Hub) (s : State), s.hasHub h = false ∨ ((s.nfsSt h).unlockFails < 8 ∧
      s.on (nfsB h) R.NFS_STATUS_LOCKED = false) → ∃ t, exec (Instr.nfsUnlockCmd h) s = .next t ∧ t = s) ∧
  (∀ (h : Hub) (s : State), s.hasHub h = true → noSources s h = true → s.powerGood = true → pendingSectors s h = 0 →
      ∃ t, exec (Instr.nfsErase h) s = .next t ∧ t = s.wr (nfsB h) R.NFS_STATUS_ERASING 1) ∧
  (∀ (h : Hub) (s : State), s.hasHub h = true → s.powerGood = false ∨ noSources s h = false ∨ pendingSectors s h ≠ 0 →
      ∃ t, exec (Instr.nfsErase h) s = .next t ∧ t = if s.powerGood then s.violation h (nfsB h + R.NFS_CMD) else s) ∧
  (∀ (h : Hub) (s : State), s.hasHub h = false → ∃ t, exec (Instr.nfsErase h) s = .next t ∧ t = s) ∧
  (∀ (h : Hub) (s : State), s.hasHub h = true → s.on (nfsB h) R.NFS_STATUS_ERASING = true →
      ∃ t, exec (Instr.nfsEraseDone h) s = .next t ∧ t.on (nfsB h) R.NFS_STATUS_ERASING = false ∧
      t.on (nfsB h) R.NFS_STATUS_FULL = false ∧ (t.nfsSt h).cat = [] ∧ (t.nfsSt h).rows = [] ∧
      (t.nfsSt h).sectors = [] ∧ (t.nfsSt h).filling = none ∧
      (∀ g sb, ((t.nfsSt h).super g sb).inUse = false ∧ (twf dSuper (s.nfsSt h).supers →
          ((t.nfsSt h).super g sb).pe = ((s.nfsSt h).super g sb).pe)) ∧
      (t.nfsSt h).key = Config.free 40 s.drawn % 2 ^ 512) ∧
  (∀ (h : Hub) (s : State), s.hasHub h = false ∨ s.on (nfsB h) R.NFS_STATUS_ERASING = false →
      ∃ t, exec (Instr.nfsEraseDone h) s = .next t ∧ t = s) ∧
  (∀ (h : Hub) (n : BitVec 24) (r : NfsRec) (s : State), s.hasHub h = true → (s.nfsSt h).find n.toNat = some r →
      ∃ t, exec (Instr.nfsCatSelWrite h n) s = .next t ∧ t.rd (nfsB h) R.NFS_CAT_SEL_REC = n.toNat ∧
      t.rd (nfsB h) R.NFS_CAT_STATE_STATE = r.state % 8 ∧
      t.on (nfsB h) R.NFS_CAT_STATE_PROTECT = r.protect ∧ t.on (nfsB h) R.NFS_CAT_STATE_UNCLEAN = r.unclean ∧
      t.on (nfsB h) R.NFS_CAT_STATE_LOSS = r.loss ∧ t.rd (nfsB h) R.NFS_CAT_STATE_SOURCE = r.source % 64 ∧
      (t.nfsSt h).catOpen = r.openSts ∧ (t.nfsSt h).catClose = r.closeSts ∧
          t.rd (nfsB h) R.NFS_CAT_SAFE_SECTORS = (recCounts s h r).2.2 % 2 ^ 32) ∧
  (∀ (h : Hub) (n : BitVec 24) (s : State), s.hasHub h = true → (s.nfsSt h).find n.toNat = none →
      ∃ t, exec (Instr.nfsCatSelWrite h n) s = .next t ∧ t.rd (nfsB h) R.NFS_CAT_SEL_REC = n.toNat ∧
      t.reg (nfsB h + R.NFS_CAT_STATE) = 0 ∧ t.reg (nfsB h + R.NFS_CAT_SAFE) = 0 ∧
      (t.nfsSt h).catOpen = 0 ∧ (t.nfsSt h).catClose = 0) ∧
  (∀ (h : Hub) (n : BitVec 24) (s : State), s.hasHub h = false → ∃ t, exec (Instr.nfsCatSelWrite h n) s = .next t ∧
      t = s) ∧
  (∀ (h : Hub) (l : List NandLun) (v : List (BitVec 12 × BitVec 2)) (s : State), s.hasHub h = true →
      ∃ t, exec (Instr.nfsMount h l v) s = .next t ∧ (t.nfsSt h).luns = usableLuns l ∧
      (t.nfsSt h).rates = ((v.take 8).map fun x => x.1.toNat).sum ∧
      (∀ i < 8, ∀ x, v[i]? = some x → t.rd (nfsB h + 0x10 * i) R.NFS_CHAN_c_MTS = x.1.toNat ∧
          t.rd (nfsB h + 0x10 * i) R.NFS_CHAN_c_IFACE = x.2.toNat) ∧
      ((usableLuns l).length < l.length → t.on (nfsB h) R.NFS_STATUS_DIE_MISMATCH = true) ∧
      (∀ d : Fin 256, bit (t.rd (nfsB h + 0x10 * (d.val % 8)) R.NFS_DIES_c_DIES) (d.val / 8) = (usableLuns l).any fun u => u.i == d)) ∧
  (∀ (h : Hub) (l : List NandLun) (v : List (BitVec 12 × BitVec 2)) (s : State), s.hasHub h = false →
      ∃ t, exec (Instr.nfsMount h l v) s = .next t ∧ t = s) ∧
  (∀ (h : Hub) (k : List Nat) (e : List (Fin 32 × PlanNeed)) (s : State), s.hasHub h = false ∨
      s.on (nfsB h) R.NFS_STATUS_MOUNTED = true → e = [] → ∃ t, exec (Instr.nfsMounted h k e) s = .next t ∧ t = s) ∧
  (∀ (h : Hub) (k : List Nat) (e : List (Fin 32 × PlanNeed)) (s : State), s.hasHub h = true →
      s.on (nfsB h) R.NFS_STATUS_MOUNTED = false → (s.nfsSt h).formatted = false →
      ∃ t, exec (Instr.nfsMounted h k e) s = .next t ∧ t.on (nfsB h) R.NFS_STATUS_MOUNTED = false ∧
      t.on (nfsB h) R.NFS_STATUS_BLANK = true ∧ t.on (nfsB h) R.NFS_STATUS_FORMATTING = !(s.nfsSt h).neverFormat) ∧
  (∀ (h : Hub) (k : List Nat) (e : List (Fin 32 × PlanNeed)) (s : State), s.hasHub h = true →
      s.on (nfsB h) R.NFS_STATUS_MOUNTED = false → (s.nfsSt h).formatted = true →
      (∀ r ∈ (s.nfsSt h).rows, ∃ e ∈ r.extents, ∃ x ∈ (s.nfsSt h).cat, x.num = e.num) →
      ∃ t, exec (Instr.nfsMounted h k e) s = .next t ∧ ∃ u, (t = u ∨ (e ≠ [] ∧ t = planStep (recheckAll e) u)) ∧
      u.on (nfsB h) R.NFS_STATUS_MOUNTED = true ∧ u.on (nfsB h) R.NFS_CTRL_EN = true ∧
      u.on (nfsB h) R.NFS_STATUS_LOCKED = decide ((s.nfsSt h).crypto = 2) ∧
      (∀ r ∈ (u.nfsSt h).rows, r.passed = true ∧ ∃ x ∈ (s.nfsSt h).rows, x.seq = r.seq ∧ (x.passed = true ∨
          k.contains x.seq = true)) ∧
      (∀ r ∈ (u.nfsSt h).cat, r.orphan = false) ∧
      ((s.nfsSt h).clean = true → (s.nfsSt h).eraseDue = false →
          (u.nfsSt h).cat = (s.nfsSt h).cat.map fun r => if r.orphan then { r with state := 3, orphan := false } else r) ∧
      ((s.nfsSt h).clean = false → (s.nfsSt h).eraseDue = false → u.on (nfsB h) R.NFS_STATUS_UNCLEAN = true ∧
        ∀ r ∈ (s.nfsSt h).cat, r.orphan = true → (∀ x ∈ (s.nfsSt h).cat, x.num = r.num → x = r) →
            ∃ x ∈ (u.nfsSt h).cat, x.num = r.num ∧ x.state = 3 ∧ x.unclean = true ∧ x.wptr = x.safe ∧
          x.safe = safeFrom (u.nfsSt h).rows r.num ((u.nfsSt h).rows.length * 125 + 1) r.safe)) ∧
  (∀ (h : Hub) (s : State), s.hasHub h = true → s.on (nfsB h) R.NFS_STATUS_FLUSH = true →
      (s.rd (pwrB 0) R.PWR_STATE_STATE ≠ 3 ∨ ∃ g ∈ s.hubList, g ≠ h.val ∧ s.on (nfsB g) R.NFS_STATUS_CLOSED = false) →
      ∃ t, exec (Instr.nfsClosed h) s = .next t ∧ t.on (nfsB h) R.NFS_STATUS_FLUSH = false ∧
      t.on (nfsB h) R.NFS_STATUS_CLOSED = true ∧ (t.nfsSt h).clean = true ∧
      (∀ r ∈ (t.nfsSt h).rows, r.passed = true) ∧ (t.nfsSt h).filling = none ∧
          t.on (nfsB h) R.NFS_STATUS_FORMATTING = false ∧ t.on (nfsB h) R.NFS_RD_STATUS_BUSY = false) ∧
  (∀ (h : Hub) (s : State), s.hasHub h = true → s.on (nfsB h) R.NFS_STATUS_FLUSH = true →
      s.rd (pwrB 0) R.PWR_STATE_STATE = 3 → (∀ g ∈ s.hubList, g ≠ h.val → s.on (nfsB g) R.NFS_STATUS_CLOSED = true) →
      ∃ t, exec (Instr.nfsClosed h) s = .next t ∧ (t.nfsSt h).clean = true ∧
      (∀ r ∈ (t.nfsSt h).rows, r.passed = true) ∧ railsLeft t 0) ∧
  (∀ (h : Hub) (s : State), s.hasHub h = false ∨ s.on (nfsB h) R.NFS_STATUS_FLUSH = false →
      ∃ t, exec (Instr.nfsClosed h) s = .next t ∧ t = s)

/-- R490 to R509: the capture memory's channels. What goes wrong in an access is the row's operand; reads that arrive in
the row join the queue first (R499).
* DDR_READ_SERVE of a READY channel (R496, R499, R502): the read whose turn it is returns what is stored, corrected
  codewords and a retried command are counted.
* DDR_READ_SERVE while the channel serves writes only, or is not READY (R499, R504): reads that arrive wait in the
  queue of 128.
* DDR_READ_SERVE of a frozen channel (R507): zeros marked POISON; the host is given what is stored, with UE where it
  cannot be corrected.
* DDR_READ_SERVE with a codeword that cannot be corrected, because it comes first or has three wrong symbols (R496,
  R497, R506, R507): the channel freezes, and plans with a region on the hub are suspended with reason MEMORY, but
  for those that the row's operand says were placed again.
* DDR_READ_SERVE whose command fails twice (R502, R506): a command error freezes the channel.
* DDR_WRITE_ACCEPT of one write (R500): it joins the queue, and reads see its data from then on.
* Two writes that reach one unit in the same cycle (R501): the write of the higher source stays.
* DDR_WRITE_ACCEPT to a frozen channel (R507): the write is discarded.
* DDR_WRITE_ACCEPT that finds its channel not READY or its queue full (R500), or an address beyond the hub's: the
  write waits at its source.
* DDR_WRITE_SERVE of a READY channel (R499, R502): the oldest write is issued, its retries are counted, and the
  watermarks decide whether writes go on alone.
* DDR_WRITE_SERVE whose retries fail (R502, R506): a command error freezes the channel.
* DDR_RETRAIN of a READY channel after PERIOD_MS (R495): the period starts again.
* DDR_SCRUB (R498): the next unit is read, its corrected codewords are counted, and the scrubber goes on to the one
  after.
* DDR_SCRUB that meets a codeword it cannot correct (R506): the channel freezes, with source 9.
* DDR_SELF_REFRESH_ENTRY, at its commitment (R503): the queues have drained, and the entry is counted. That the
  queues drain without an error is the model's choice (log entry 187).
* A request before the commitment cancels the entry (R504).
* DDR_SELF_REFRESH_EXIT (R504, R505): the channel is READY, retrained after more than a second.
* DDR_RELEASE of a frozen channel (R492, R509): it trains at the best grade that its margins allow, and its contents
  are gone.
* DDR_RELEASE of a channel that trains at no grade (R492): it is FAILED with its event.
* DDR_RELEASE of a channel that is not frozen (R8, R509): an access violation.
* DDR_RELEASE_DONE (R509): the channel is READY, with its bytes zero. -/
def Obligations.DdrRowsComplete : Prop :=
  (∀ (h : Hub) (c : Fin 2) (l : List DdrReq) (a : DdrAccess) (k : List (Fin 32)) (e : PlanEnd) (r : DdrRead) (s : State), s.hasHub h = true → ddrState s h c = 2 → (s.ddrSt h c).draining = false → nextRead s.time.frc (readsJoin s h c l) = some r → a.ca ≤ 1 → (∀ w ∈ a.symbols.take 8, correctable s h c w = true) → ∃ t, exec (Instr.ddrReadServe h c l a k e) s = .next t ∧ (t.ddrSt h c).out = rawUnit s h r.addr ∧ (t.ddrSt h c).poison = false ∧ (t.ddrSt h c).reads = (readsJoin s h c l).erase r ∧ t.rd (ddrChB h c) R.DDR_c_RETRY_COUNT_RETRIES = min (2 ^ 32 - 1) (s.rd (ddrChB h c) R.DDR_c_RETRY_COUNT_RETRIES + a.ca) ∧
      ceCounted s t h c (a.symbols.take 8) ∧ t.cap = s.cap) ∧
  (∀ (h : Hub) (c : Fin 2) (l : List DdrReq) (a : DdrAccess) (k : List (Fin 32)) (e : PlanEnd) (s : State),
      s.hasHub h = true → (ddrState s h c ≠ 4 ∧ (ddrState s h c ≠ 2 ∨ (s.ddrSt h c).draining = true)) ∨
      readsJoin s h c l = [] → ∃ t, exec (Instr.ddrReadServe h c l a k e) s = .next t ∧
      (t.ddrSt h c).reads = readsJoin s h c l ∧ (t.ddrSt h c).out = (s.ddrSt h c).out ∧
      (t.ddrSt h c).poison = (s.ddrSt h c).poison ∧ t.cap = s.cap ∧ t.regs = s.regs) ∧
  (∀ (h : Hub) (c : Fin 2) (l : List DdrReq) (a : DdrAccess) (k : List (Fin 32)) (e : PlanEnd) (r : DdrRead) (s : State), s.hasHub h = true → ddrState s h c = 4 → nextRead s.time.frc (readsJoin s h c l) = some r → ∃ t, exec (Instr.ddrReadServe h c l a k e) s = .next t ∧ (r.source ≠ 7 → (t.ddrSt h c).out = List.replicate 128 0 ∧ (t.ddrSt h c).poison = true) ∧
      (r.source = 7 → (t.ddrSt h c).out = rawUnit s h r.addr ∧ (t.ddrSt h c).poison = false ∧
          ((∃ w ∈ a.symbols, correctable s h c w = false) → t.on (ddrChB h c) R.DDR_c_STATUS_UE = true)) ∧
      (t.ddrSt h c).reads = (readsJoin s h c l).erase r) ∧
  (∀ (h : Hub) (c : Fin 2) (l : List DdrReq) (a : DdrAccess) (k : List (Fin 32)) (e : PlanEnd) (r : DdrRead) (s : State), s.hasHub h = true → ddrState s h c = 2 → (s.ddrSt h c).draining = false → nextRead s.time.frc (readsJoin s h c l) = some r → a.ca ≤ 1 → (a.symbols.head?.any fun w => !correctable s h c w) = true ∨ ((a.symbols.take 8).any fun w => decide (3 ≤ w.eraseDups.length)) = true → ∃ t, exec (Instr.ddrReadServe h c l a k e) s = .next t ∧ ∃ u, frozenBy s u h c 1 r.source r.addr a ∧ afterFrozen u t h k e) ∧
  (∀ (h : Hub) (c : Fin 2) (l : List DdrReq) (a : DdrAccess) (k : List (Fin 32)) (e : PlanEnd) (r : DdrRead) (s : State), s.hasHub h = true → ddrState s h c = 2 → (s.ddrSt h c).draining = false → nextRead s.time.frc (readsJoin s h c l) = some r → 2 ≤ a.ca → ∃ t, exec (Instr.ddrReadServe h c l a k e) s = .next t ∧ ∃ u, frozenBy s u h c 2 r.source r.addr a ∧ afterFrozen u t h k e) ∧
  (∀ (h : Hub) (c : Fin 2) (l : List DdrReq) (a : DdrAccess) (k : List (Fin 32)) (e : PlanEnd) (s : State),
      s.hasHub h = false → ∃ t, exec (Instr.ddrReadServe h c l a k e) s = .next t ∧ t = s) ∧
  (∀ (h : Hub) (r : DdrReq) (s : State), s.hasHub h = true → s.anyFrozen h = false →
      ddrState s h (s.chanOf h r.addr) = 2 → (s.ddrSt h (s.chanOf h r.addr)).writes.length < 256 →
      r.addr + (r.data.take (128 - r.addr % 128)).length ≤ s.hubLimit h → r.addr < 2 ^ 40 →
      ∃ t, exec (Instr.ddrWriteAccept h [r]) s = .next t ∧
      (t.ddrSt h (s.chanOf h r.addr)).writes = (s.ddrSt h (s.chanOf h r.addr)).writes ++ [(r.source.val, r.addr)] ∧
      ∀ k, k < (r.data.take (128 - r.addr % 128)).length → t.byte h (r.addr + k) = r.data.getD k 0) ∧
  (∀ (h : Hub) (a b : DdrReq) (s : State), s.hasHub h = true → a.source.val < b.source.val →
      a.addr / 128 = b.addr / 128 → a.addr % 128 + a.data.length ≤ 128 → b.addr % 128 + b.data.length ≤ 128 →
      s.anyFrozen h = false → ddrState s h (s.chanOf h a.addr) = 2 →
      (s.ddrSt h (s.chanOf h a.addr)).writes.length < 255 → (a.addr / 128 + 1) * 128 ≤ s.hubLimit h →
      a.addr < 2 ^ 40 → ∃ t, exec (Instr.ddrWriteAccept h [a, b]) s = .next t ∧ ∀ k, k < b.data.length →
      t.byte h (b.addr + k) = b.data.getD k 0) ∧
  (∀ (h : Hub) (a b : DdrReq) (s : State), s.hasHub h = true → a.source.val < b.source.val →
      a.addr / 128 = b.addr / 128 → a.addr % 128 + a.data.length ≤ 128 → b.addr % 128 + b.data.length ≤ 128 →
      s.anyFrozen h = false → ddrState s h (s.chanOf h a.addr) = 2 →
      (s.ddrSt h (s.chanOf h a.addr)).writes.length < 255 → (a.addr / 128 + 1) * 128 ≤ s.hubLimit h →
      a.addr < 2 ^ 40 → ∃ t, exec (Instr.ddrWriteAccept h [b, a]) s = .next t ∧ ∀ k, k < b.data.length →
      t.byte h (b.addr + k) = b.data.getD k 0) ∧
  (∀ (h : Hub) (r : DdrReq) (s : State), s.hasHub h = true → ddrState s h (s.chanOf h r.addr) = 4 →
      ∃ t, exec (Instr.ddrWriteAccept h [r]) s = .next t ∧
      (t.ddrSt h (s.chanOf h r.addr)) = (s.ddrSt h (s.chanOf h r.addr)) ∧ ∀ k, s.frozenAt h k = true → k < 2 ^ 40 →
      t.rawByte h k = s.rawByte h k) ∧
  (∀ (h : Hub) (r : DdrReq) (s : State), s.hasHub h = false ∨
      s.hubLimit h < r.addr + (r.data.take (128 - r.addr % 128)).length ∨ (ddrState s h (s.chanOf h r.addr) ≠ 4 ∧
      (ddrState s h (s.chanOf h r.addr) ≠ 2 ∨ 256 ≤ (s.ddrSt h (s.chanOf h r.addr)).writes.length)) →
          ∃ t, exec (Instr.ddrWriteAccept h [r]) s = .next t ∧ t = s) ∧
  (∀ (h : Hub) (c : Fin 2) (a : DdrAccess) (k : List (Fin 32)) (e : PlanEnd) (x : Nat × Nat) (l : List (Nat × Nat)) (s : State), s.hasHub h = true → ddrState s h c = 2 → (s.ddrSt h c).writes = x :: l → a.ca ≤ 1 → a.crc ≤ 3 → ∃ t, exec (Instr.ddrWriteServe h c a k e) s = .next t ∧ (t.ddrSt h c).writes = l ∧ t.rd (ddrChB h c) R.DDR_c_RETRY_COUNT_RETRIES = min (2 ^ 32 - 1) (s.rd (ddrChB h c) R.DDR_c_RETRY_COUNT_RETRIES + (a.ca + a.crc)) ∧
      (t.ddrSt h c).draining = decide (ddrHigh s h c ≤ l.length ∨ ((s.ddrSt h c).draining = true ∧
          ddrLow s h c < l.length)) ∧ t.cap = s.cap) ∧
  (∀ (h : Hub) (c : Fin 2) (a : DdrAccess) (k : List (Fin 32)) (e : PlanEnd) (x : Nat × Nat) (l : List (Nat × Nat)) (s : State), s.hasHub h = true → ddrState s h c = 2 → (s.ddrSt h c).writes = x :: l → 2 ≤ a.ca ∨ 4 ≤ a.crc → ∃ t, exec (Instr.ddrWriteServe h c a k e) s = .next t ∧ ∃ u, frozenBy s u h c 2 x.1 x.2 a ∧ afterFrozen u t h k e) ∧
  (∀ (h : Hub) (c : Fin 2) (a : DdrAccess) (k : List (Fin 32)) (e : PlanEnd) (s : State), s.hasHub h = false ∨
      (s.ddrSt h c).writes = [] ∨ ddrState s h c ≠ 2 → ∃ t, exec (Instr.ddrWriteServe h c a k e) s = .next t ∧
      t = s) ∧
  (∀ (h : Hub) (c : Fin 2) (s : State), s.hasHub h = true → ddrState s h c = 2 →
      (s.ddrSt h c).trained + max 1 (s.rd (ddrChB h c) R.DDR_c_TRAIN_PERIOD_MS) * 1000 * frcUs ≤ s.time.frc →
      ∃ t, exec (Instr.ddrRetrain h c) s = .next t ∧ t = s.modDdr h c fun q => { q with trained := s.time.frc }) ∧
  (∀ (h : Hub) (c : Fin 2) (s : State), s.hasHub h = false ∨ ddrState s h c ≠ 2 ∨
      s.time.frc < (s.ddrSt h c).trained + max 1 (s.rd (ddrChB h c) R.DDR_c_TRAIN_PERIOD_MS) * 1000 * frcUs →
      ∃ t, exec (Instr.ddrRetrain h c) s = .next t ∧ t = s) ∧
  (∀ (h : Hub) (c : Fin 2) (a : DdrAccess) (k : List (Fin 32)) (e : PlanEnd) (s : State), s.hasHub h = true →
      ddrState s h c = 2 → s.on (ddrB h) R.DDR_CTRL_SCRUB_EN = true →
      (∀ w ∈ a.symbols.take 8, correctable s h c w = true) → ∃ t, exec (Instr.ddrScrub h c a k e) s = .next t ∧
      (t.ddrSt h c).scrub = ((s.ddrSt h c).scrub % max 1 (s.chMib h c * 8192) + 1) % max 1 (s.chMib h c * 8192) ∧
      ceCounted s t h c (a.symbols.take 8) ∧
          t.rd (ddrChB h c) R.DDR_c_SCRUB_PCT = (t.ddrSt h c).scrub * 100 / max 1 (s.chMib h c * 8192) ∧
          t.cap = s.cap) ∧
  (∀ (h : Hub) (c : Fin 2) (a : DdrAccess) (k : List (Fin 32)) (e : PlanEnd) (s : State), s.hasHub h = true →
      ddrState s h c = 2 → s.on (ddrB h) R.DDR_CTRL_SCRUB_EN = true →
      (a.symbols.head?.any fun w => !correctable s h c w) = true ∨
      ((a.symbols.take 8).any fun w => decide (3 ≤ w.eraseDups.length)) = true →
      ∃ t, exec (Instr.ddrScrub h c a k e) s = .next t ∧ ∃ p u, frozenBy s u h c 1 9 p a ∧ afterFrozen u t h k e ∧
      (s.bothChannels h = false → p = (s.ddrSt h c).scrub % max 1 (s.chMib h c * 8192) * 128)) ∧
  (∀ (h : Hub) (c : Fin 2) (a : DdrAccess) (k : List (Fin 32)) (e : PlanEnd) (s : State), s.hasHub h = false ∨
      ddrState s h c ≠ 2 ∨ s.on (ddrB h) R.DDR_CTRL_SCRUB_EN = false →
      ∃ t, exec (Instr.ddrScrub h c a k e) s = .next t ∧ t = s) ∧
  (∀ (h : Hub) (c : Fin 2) (s : State), s.hasHub h = true → restDue s h c = true →
      ∃ t, exec (Instr.ddrSelfRefreshEntry h c false) s = .next t ∧ ddrState t h c = 3 ∧ (t.ddrSt h c).reads = [] ∧
      (t.ddrSt h c).writes = [] ∧ (t.ddrSt h c).entered = s.time.frc ∧ t.cap = s.cap ∧
      t.rd (ddrChB h c) R.DDR_c_SR_COUNT_ENTRIES = (s.rd (ddrChB h c) R.DDR_c_SR_COUNT_ENTRIES + 1) % 2 ^ 32) ∧
  (∀ (h : Hub) (c : Fin 2) (s : State), s.hasHub h = true → restDue s h c = true →
      ∃ t, exec (Instr.ddrSelfRefreshEntry h c true) s = .next t ∧ ddrState t h c = 2 ∧
      (t.ddrSt h c).served = s.time.frc ∧ (t.ddrSt h c).reads = (s.ddrSt h c).reads ∧
      (t.ddrSt h c).writes = (s.ddrSt h c).writes ∧
      t.rd (ddrChB h c) R.DDR_c_SR_CANCEL_CANCELLED = min (2 ^ 32 - 1) (s.rd (ddrChB h c) R.DDR_c_SR_CANCEL_CANCELLED + 1)) ∧
  (∀ (h : Hub) (c : Fin 2) (b : Bool) (s : State), s.hasHub h = false ∨ restDue s h c = false →
      ∃ t, exec (Instr.ddrSelfRefreshEntry h c b) s = .next t ∧ t = s) ∧
  (∀ (h : Hub) (c : Fin 2) (s : State), s.hasHub h = true → ddrState s h c = 3 →
      ∃ t, exec (Instr.ddrSelfRefreshExit h c) s = .next t ∧ ddrState t h c = 2 ∧ (t.ddrSt h c).served = s.time.frc ∧
      (t.ddrSt h c).trained = if (s.ddrSt h c).entered + 1000000 * frcUs < s.time.frc then s.time.frc else (s.ddrSt h c).trained) ∧
  (∀ (h : Hub) (c : Fin 2) (s : State), s.hasHub h = false ∨ ddrState s h c ≠ 3 →
      ∃ t, exec (Instr.ddrSelfRefreshExit h c) s = .next t ∧ t = s) ∧
  (∀ (h : Hub) (c : Fin 2) (w : DdrTrain) (g m : Nat) (s : State), s.hasHub h = true → ddrState s h c = 4 ∨
      (s.ddrSt h c).releasing = true →
      bestGrade w.margins (min 4 (s.rd (ddrChB h c) R.DDR_c_CFG_MAX_MTS)) = some (g, m) →
      ∃ t, exec (Instr.ddrRelease h c w) s = .next t ∧ ddrState t h c = 1 ∧ (t.ddrSt h c).zeroing = true ∧
      (t.ddrSt h c).releasing = false ∧ (t.ddrSt h c).grade = g ∧ t.rd (ddrChB h c) R.DDR_c_STATUS_MARGIN = m ∧
      t.on (ddrChB h c) R.DDR_c_STATUS_ERASURE = false ∧
      ∀ p, p < 2 ^ 40 → t.rawByte h p = if s.chanOf h p = c then 0 else s.rawByte h p) ∧
  (∀ (h : Hub) (c : Fin 2) (w : DdrTrain) (s : State), s.hasHub h = true → ddrState s h c = 4 ∨
      (s.ddrSt h c).releasing = true → bestGrade w.margins (min 4 (s.rd (ddrChB h c) R.DDR_c_CFG_MAX_MTS)) = none →
      ∃ t, exec (Instr.ddrRelease h c w) s = .next t ∧ ddrState t h c = 5 ∧ (t.ddrSt h c).zeroing = false ∧
      (t.ddrSt h c).releasing = false ∧ ∃ x ∈ t.flight, x.source = 76 ∧ x.detail = 2 * h.val + c.val) ∧
  (∀ (h : Hub) (c : Fin 2) (w : DdrTrain) (s : State), s.hasHub h = true → ddrState s h c ≠ 4 →
      (s.ddrSt h c).releasing = false → ∃ t, exec (Instr.ddrRelease h c w) s = .next t ∧
      t = s.violation h (ddrB h + R.DDR_CMD)) ∧
  (∀ (h : Hub) (c : Fin 2) (w : DdrTrain) (s : State), s.hasHub h = false →
      ∃ t, exec (Instr.ddrRelease h c w) s = .next t ∧ t = s) ∧
  (∀ (h : Hub) (c : Fin 2) (s : State), s.hasHub h = true → (s.ddrSt h c).zeroing = true →
      ∃ t, exec (Instr.ddrReleaseDone h c) s = .next t ∧ ddrState t h c = 2 ∧ (t.ddrSt h c).zeroing = false ∧
      (t.ddrSt h c).served = s.time.frc ∧ t.cap = s.cap) ∧
  (∀ (h : Hub) (c : Fin 2) (s : State), s.hasHub h = false ∨ (s.ddrSt h c).zeroing = false →
      ∃ t, exec (Instr.ddrReleaseDone h c) s = .next t ∧ t = s)

/-- R514 to R532: the instructions of a DMA channel, and its commands. Instructions are given by their four words as
R517 lays them out, or by what they decode to; `dmaTurn` is what happens in the cycle before the instruction issues.
* Each instruction's row when the instruction's parity does not match (R514): the channel halts with PARITY, with
  its event.
* Each instruction's row at an illegal instruction (R517, R524): the channel halts with ILLEGAL.
* Each instruction's row where the channel does not run, has an instruction in progress or is at another one:
  nothing but what dmaTurn says (log entry 127).
* DMA_HALT (R517): the channel halts with HALT.
* DMA_NOP (R517, R521): the channel goes on, at the next instruction or where a loop ends here.
* An instruction at the END of the innermost loop (R521): a COUNT of 1 pops the level, another continues at the
  start of the body; 0 repeats for ever.
* DMA_SETA (R523): BASE and SIZE are loaded and OFF is 0.
* DMA_LOOP (R521): a level over the instructions from the next one to END.
* DMA_LOOP that would be a third level, or whose END lies before it (R521): the channel halts with LOOP.
* DMA_WAIT (R525, R526): it proceeds where its line is asserted, taking one credit of a pulse line; else the channel
  waits.
* DMA_WAIT_TIMEOUT of a channel that still waits in a WAIT with a timeout (R14, R526): it goes on at TARGET, with
  TIMEOUT, and is counted.
* DMA_WAIT_TIMEOUT of a channel that has gone on or does not wait in such a WAIT: nothing more.
* DMA_SIGNAL_IRQ (R522): the channel's bit in DMA_IRQ is set.
* DMA_SIGNAL_EVENT (R522, R525): one credit to the flag's line, or its OVF at 65,535.
* DMA_SIGNAL_EVENT that a channel waits for (R532): the lowest-numbered such channel takes the credit in that cycle.
* DMA_SIGNAL_REGWRITE (R522): the word is written to the hub register at the offset, by the engine's path, and the
  channel goes on.
* DMA_SIGNAL_REGWRITE beyond the window or not at a word (R516, R531): the channel halts with ADDR.
* DMA_MOVE between two address registers of the hub's own memory, by its words (R517, R518).
* DMA_MOVE between places of capture memory, linear or in rings, with a fixed source or not (R515, R516, R518): the
  bytes are copied and the address registers advance.
* DMA_MOVE of no bytes: only the address registers advance (R518, R519).
* DMA_GATHER of no bytes: only the address registers advance (R518, R519).
* DMA_MOVE with DFIX (R518): every word goes to the same address, and the last one stays.
* DMA_MOVE of one word from the register window (R516, R518): it is read by the engine's path, with what such a read
  does. Longer moves read word after word.
* DMA_MOVE of one word to the register window (R516, R518): it is written by the engine's path, with what such a
  write does.
* DMA_MOVE to a port that takes no data (R520): the channel halts with ADDR.
* DMA_MOVE to a port that has no room, or that the throttle or FLUSH holds (R367, R520): the channel is STALLED, and
  its cycles are counted.
* DMA_MOVE whose first unit names an address that is not there, or PEER outside the S8G-8D (R516, R531): the channel
  halts with ADDR.
* DMA_MOVE with a line (R527): its first burst starts where the line is asserted, taking one credit of a pulse line;
  else the channel waits.
* DMA_GATHER to a port that takes no data (R520): the channel halts with ADDR.
* DMA_GATHER to a port that has no room, or that the throttle or FLUSH holds (R367, R520): the channel is STALLED,
  and its cycles are counted.
* DMA_GATHER whose first unit names an address that is not there, or PEER outside the S8G-8D (R516, R531): the
  channel halts with ADDR.
* DMA_GATHER with a line (R527): its first burst starts where the line is asserted, taking one credit of a pulse
  line; else the channel waits.
* DMA_MOVE into the sealed boot region (R394, R531): an access violation, and the channel halts with PROTECT.
* DMA_MOVE from or to a frozen channel (R507, R531): it reads zeros with POISON, and its writes there are discarded.
* DMA_MOVE of at most a sector to a flash source (R520): the sector, filled with zeros, stands in the source's ring,
  and WPTR advances.
* DMA_MOVE to an Ethernet stream (R520): its bytes join the stream's queue.
* DMA_MOVE that goes on waiting for its port: one more count of stalled cycles.
* DMA_MOVE whose stream has room again: the rest of its bytes join the queue, none twice (R520).
* DMA_GATHER between places of capture memory (R519): each entry is copied from where its index says, or is zero;
  the address registers advance.
* The same by the instruction's words (R517).
* DMA_BURST, the last of a MOVE (R518, R527): the burst completes, and with it the MOVE; where the line is not
  asserted then, that is counted.
* DMA_BURST, the first of several (R527): its bytes have moved; the next starts where the line is asserted, and else
  the channel waits.
* DMA_BURST of a GATHER, which is one burst (R519).
* DMA_BURST of a channel without a burst: nothing but what dmaTurn says.
* DMA_BURST of a hub that is not there: nothing.
* DMA_RUN of a halted channel (R530): it starts at its PC with no loop level, PAUSED where a pause is asked for.
* DMA_STOP (R530): the channel halts with HOST, without LEFT and loop levels; one in a burst first completes it.
* DMA_PAUSE (R529): the channel is PAUSED at the boundary, with everything it holds; a burst that has started
  completes first.
* DMA_RESUME (R529): the channel goes on where it was, unless the engine is disabled. -/
def Obligations.DmaRowsComplete : Prop :=
  (∀ (f : DmaFn) (h : Hub) (k : Fin 16) (i : Instr) (u : State) (s : State), dmaRow i = some (f, h, k, true) →
      u = dmaTurn f h s → u.hasHub h = true → dmaState u h k = 1 → (u.dmaSt h k).insn = none →
      ∃ t, exec (i) s = .next t ∧ dmaHaltedBy t h k 7 ∧ ∃ x ∈ t.flight, x.source = 131 + 16 * h.val ∧
      x.detail = k.val) ∧
  (∀ (f : DmaFn) (h : Hub) (k : Fin 16) (i : Instr) (u : State) (s : State), dmaRow i = some (f, h, k, false) →
      u = dmaTurn f h s → dmaIssues u h k .illegal → ∃ t, exec (i) s = .next t ∧ dmaHaltedBy t h k 3) ∧
  (∀ (f : DmaFn) (h : Hub) (k : Fin 16) (i : Instr) (u : State) (s : State), dmaRow i = some (f, h, k, false) →
      u = dmaTurn f h s → dmaOther u h k (dmaIs f) → (u.dmaSt h k).insn = none ∨ dmaMoves f = false →
      ∃ t, exec (i) s = .next t ∧ t = u) ∧
  (∀ (h : Hub) (k : Fin 16) (u : State) (s : State), u = dmaTurn .halt h s → dmaAtPc u h k [0, 0, 0, 0] →
      ∃ t, exec (Instr.dmaHalt h k false) s = .next t ∧ dmaHaltedBy t h k 2) ∧
  (∀ (h : Hub) (k : Fin 16) (u : State) (s : State), u = dmaTurn .nop h s → dmaAtPc u h k [0x70000000, 0, 0, 0] →
      ∃ t, exec (Instr.dmaNop h k false) s = .next t ∧ dmaGoesOn u t h k ∧ t.cap = s.cap) ∧
  (∀ (h : Hub) (k : Fin 16) (a c : Nat) (l : List (Nat × Nat × Nat)) (u : State) (s : State), u = dmaTurn .nop h s →
      dmaAtPc u h k [0x70000000, 0, 0, 0] → (u.dmaSt h k).loops = (a, u.rd (dmaChB h k) R.DMA_k_PC_PC, c) :: l →
      ∃ t, exec (Instr.dmaNop h k false) s = .next t ∧ (c = 1 → (∀ e ∈ l, e.2.1 ≠ u.rd (dmaChB h k) R.DMA_k_PC_PC) →
      (t.dmaSt h k).loops = l ∧ t.rd (dmaChB h k) R.DMA_k_PC_PC = (u.rd (dmaChB h k) R.DMA_k_PC_PC + 1) % 2048) ∧
      (c ≠ 1 → (t.dmaSt h k).loops = (a, u.rd (dmaChB h k) R.DMA_k_PC_PC, c - 1) :: l ∧
          t.rd (dmaChB h k) R.DMA_k_PC_PC = a % 2048)) ∧
  (∀ (h : Hub) (k : Fin 16) (a : Fin 4) (lo z : BitVec 32) (hi : BitVec 8) (u : State) (s : State),
      u = dmaTurn .seta h s → dmaAtPc u h k [0x60000000 + a.val * 2 ^ 20, lo.toNat, hi.toNat, z.toNat] →
      ∃ t, exec (Instr.dmaSeta h k false) s = .next t ∧
      dmaAr t h k a = { base := hi.toNat * 2 ^ 32 + lo.toNat, size := z.toNat, off := 0 } ∧ dmaGoesOn u t h k) ∧
  (∀ (h : Hub) (k : Fin 16) (e : Fin 2048) (c : BitVec 32) (u : State) (s : State), u = dmaTurn .loop h s →
      dmaAtPc u h k [0x30000000 + e.val, c.toNat, 0, 0] → (u.dmaSt h k).loops.length < 2 →
      u.rd (dmaChB h k) R.DMA_k_PC_PC ≤ e.val → ∃ t, exec (Instr.dmaLoop h k false) s = .next t ∧
      let l := ((u.rd (dmaChB h k) R.DMA_k_PC_PC + 1) % 2048, e.val, c.toNat) :: (u.dmaSt h k).loops;
      t.rd (dmaChB h k) R.DMA_k_PC_PC = ((loopEnds (u.rd (dmaChB h k) R.DMA_k_PC_PC) l).1.getD (u.rd (dmaChB h k) R.DMA_k_PC_PC + 1)) % 2048 ∧ (t.dmaSt h k).loops = (loopEnds (u.rd (dmaChB h k) R.DMA_k_PC_PC) l).2 ∧
      dmaState t h k = 1 ∧ (t.dmaSt h k).insn = none) ∧
  (∀ (h : Hub) (k : Fin 16) (e : Fin 2048) (c : BitVec 32) (u : State) (s : State), u = dmaTurn .loop h s →
      dmaAtPc u h k [0x30000000 + e.val, c.toNat, 0, 0] → 2 ≤ (u.dmaSt h k).loops.length ∨
      e.val < u.rd (dmaChB h k) R.DMA_k_PC_PC → ∃ t, exec (Instr.dmaLoop h k false) s = .next t ∧
      dmaHaltedBy t h k 6) ∧
  (∀ (h : Hub) (k : Fin 16) (g : Fin 2048) (v : BitVec 32) (l : BitVec 16) (u : State) (s : State),
      u = dmaTurn .wait h s → dmaAtPc u h k [0x40000000 + g.val, v.toNat, l.toNat, 0] → lineOk u l.toNat = true →
      ∃ t, exec (Instr.dmaWait h k false) s = .next t ∧ (lineOn u h l.toNat = true → dmaGoesOn u t h k ∧
      creditTaken u t h l.toNat) ∧ (lineOn u h l.toNat = false → dmaWaits u t h k l.toNat ∧ t.credits = u.credits)) ∧
  (∀ (h : Hub) (k : Fin 16) (g : Fin 2048) (v : BitVec 32) (l : BitVec 16) (u : State) (s : State), u = dmaWake s →
      dmaState u h k = 2 → (u.dmaSt h k).insn = some [0x40000000 + g.val, v.toNat, l.toNat, 0] →
      lineOk u l.toNat = true → v ≠ 0 → ∃ t, exec (Instr.dmaWaitTimeout h k) s = .next t ∧
      t.rd (dmaChB h k) R.DMA_k_PC_PC = g.val ∧ dmaState t h k = 1 ∧ t.on (dmaChB h k) R.DMA_k_STATUS_TIMEOUT = true ∧
      (t.dmaSt h k).insn = none ∧
      t.rd (dmaChB h k) R.DMA_k_TIMEOUTS_TIMEOUTS = min (2 ^ 32 - 1) (u.rd (dmaChB h k) R.DMA_k_TIMEOUTS_TIMEOUTS + 1)) ∧
  (∀ (h : Hub) (k : Fin 16) (u : State) (s : State), u = dmaWake s → dmaState u h k ≠ 2 ∨
      dmaHasTimeout u h k = false → ∃ t, exec (Instr.dmaWaitTimeout h k) s = .next t ∧ t = u) ∧
  (∀ (h : Hub) (k : Fin 16) (u : State) (s : State), u = dmaTurn .irq h s → dmaAtPc u h k [0x50000000, 0, 0, 0] →
      ∃ t, exec (Instr.dmaSignalIrq h k false) s = .next t ∧
      t.rd (dmaB h) R.DMA_IRQ_IRQ = u.rd (dmaB h) R.DMA_IRQ_IRQ ||| 2 ^ k.val ∧ dmaGoesOn u t h k) ∧
  (∀ (h : Hub) (k : Fin 16) (f : Fin 16) (u : State) (s : State), u = dmaTurn .event h s →
      dmaAtPc u h k [0x51000000, 0, f.val, 0] → (∀ i : Fin 32, dmaState u (i / 16) (i % 16) ≠ 2) →
      ∃ t, exec (Instr.dmaSignalEvent h k false) s = .next t ∧ pulsed u t h (0x9000 + f.val) ∧ dmaGoesOn u t h k) ∧
  (∀ (h : Hub) (k : Fin 16) (f : Fin 16) (i : Fin 32) (g v : Nat) (u : State) (s : State), u = dmaTurn .event h s →
      dmaAtPc u h k [0x51000000, 0, f.val, 0] → dmaState u (i / 16) (i % 16) = 2 →
      (u.dmaSt (i / 16) (i % 16)).waiting = true →
      lineHub (i / 16) (u.rd (dmaChB (i / 16) (i % 16)) R.DMA_k_WAITLINE_LINE) = h.val →
      bitsPut (u.rd (dmaChB (i / 16) (i % 16)) R.DMA_k_WAITLINE_LINE) 11 1 0 = 0x9000 + f.val →
      (u.dmaSt (i / 16) (i % 16)).insn = some [0x40000000 + g, v, u.rd (dmaChB (i / 16) (i % 16)) R.DMA_k_WAITLINE_LINE, 0] → g < 2048 → v < 2 ^ 32 → lineOk u (u.rd (dmaChB (i / 16) (i % 16)) R.DMA_k_WAITLINE_LINE) = true → (∀ j : Fin 32, j < i → dmaState u (j / 16) (j % 16) ≠ 2) → tget noNat u.credits (h * 65536 + (0x9000 + f.val)) = 0 → ∃ t, exec (Instr.dmaSignalEvent h k false) s = .next t ∧ tget noNat t.credits (h * 65536 + (0x9000 + f.val)) = 0 ∧ dmaGoesOn u t h k ∧ dmaState t (i / 16) (i % 16) = 1 ∧
      (t.dmaSt (i / 16) (i % 16)).insn = none) ∧
  (∀ (h : Hub) (k : Fin 16) (o : Nat) (v : BitVec 32) (u : State) (s : State), u = dmaTurn .regwrite h s →
      dmaAtPc u h k [0x52000000, o, v.toNat, 0] → o < 0x800000 → o % 4 = 0 →
      ∃ t, exec (Instr.dmaSignalRegwrite h k false) s = .next t ∧
      t = dmaNext h k none (hostWrite (.dma h) (hubB h + o) v.toNat u)) ∧
  (∀ (h : Hub) (k : Fin 16) (o : Nat) (v : BitVec 32) (u : State) (s : State), u = dmaTurn .regwrite h s →
      dmaAtPc u h k [0x52000000, o, v.toNat, 0] → 0x800000 ≤ o ∨ o % 4 ≠ 0 →
      ∃ t, exec (Instr.dmaSignalRegwrite h k false) s = .next t ∧ dmaHaltedBy t h k 4) ∧
  (∀ (h : Hub) (k : Fin 16) (w z : BitVec 32) (a d : Fin 4) (n : BitVec 32) (x : DmaXfer) (u : State) (s : State),
      u = dmaTurn (.move w z) h s → dmaAtPc u h k [0x10000000 + a.val * 2 ^ 20 + d.val * 2 ^ 18, n.toNat, 0, 0] →
      x = ⟨0, 0, false, false, a, d, 0, 0, n.toNat, 0, false, 0, 4, 0, 0⟩ → n ≠ 0 → mayCopy u h k x n.toNat →
      ∃ t, exec (Instr.dmaMove h k false w z) s = .next t ∧ hasCopied u t h k x n.toNat ∧ dmaGoesOn u t h k) ∧
  (∀ (h : Hub) (k : Fin 16) (w z : BitVec 32) (x : DmaXfer) (u : State) (s : State), u = dmaTurn (.move w z) h s →
      dmaIssues u h k (.move x) → x.line / 4096 = 0 → x.len ≠ 0 → mayCopy u h k x x.len →
      ∃ t, exec (Instr.dmaMove h k false w z) s = .next t ∧ hasCopied u t h k x x.len ∧ dmaGoesOn u t h k ∧
      ∀ a : Fin 4, dmaAr t h k a = arAfter u h k x (((if x.sfix then 0 else x.len : Int) + x.sskip)) (x.len + x.dskip) a) ∧
  (∀ (h : Hub) (k : Fin 16) (w z : BitVec 32) (x : DmaXfer) (u : State) (s : State), u = dmaTurn (.move w z) h s →
      dmaIssues u h k (.move x) → x.len = 0 → pauseAsked u h k = false → (u.dmaSt h k).stopping = false →
      ∃ t, exec (Instr.dmaMove h k false w z) s = .next t ∧ t.cap = u.cap ∧ dmaGoesOn u t h k ∧
      t.rd (dmaChB h k) R.DMA_k_BYTES_BYTES = u.rd (dmaChB h k) R.DMA_k_BYTES_BYTES ∧
      ∀ a : Fin 4, dmaAr t h k a = arAfter u h k x (((0 : Int) + x.sskip)) (x.dskip) a) ∧
  (∀ (h : Hub) (k : Fin 16) (w z : BitVec 32) (x : DmaXfer) (u : State) (s : State), u = dmaTurn (.gather w z) h s →
      dmaIssues u h k (.gather x) → x.len = 0 → pauseAsked u h k = false → (u.dmaSt h k).stopping = false →
      ∃ t, exec (Instr.dmaGather h k false w z) s = .next t ∧ t.cap = u.cap ∧ dmaGoesOn u t h k ∧
      t.rd (dmaChB h k) R.DMA_k_BYTES_BYTES = u.rd (dmaChB h k) R.DMA_k_BYTES_BYTES ∧
      (∀ a : Fin 4, a.val ≠ x.iar → dmaAr t h k a = arAfter u h k x (if x.sfix then 0 else x.sskip) x.dskip a)) ∧
  (∀ (h : Hub) (k : Fin 16) (w z : BitVec 32) (x : DmaXfer) (u : State) (s : State), u = dmaTurn (.move w z) h s →
      dmaIssues u h k (.move x) → x.line / 4096 = 0 → x.dfix = true → 4 ≤ x.len → x.len % 4 = 0 → x.len ≤ 4096 →
      memSpace u x.ssp → memSpace u x.dsp → dmaFreely u h k →
      (∀ i < x.len, moveSrc1 u h k x i < u.hubLimit (spaceHub h x.ssp)) →
      (∀ j : Fin 4, moveDst1 u h k x j < u.hubLimit (spaceHub h x.dsp)) → (dmaAr u h k x.dar).size = 0 ∨
      4 ≤ (dmaAr u h k x.dar).size → ∃ t, exec (Instr.dmaMove h k false w z) s = .next t ∧
      (∀ j : Fin 4, t.rawByte (spaceHub h x.dsp) (moveDst1 u h k x j) = u.rawByte (spaceHub h x.ssp) (moveSrc1 u h k x (x.len - 4 + j))) ∧ dmaGoesOn u t h k ∧
      ∀ a : Fin 4, dmaAr t h k a = arAfter u h k x (((if x.sfix then 0 else x.len : Int) + x.sskip)) (x.dskip) a) ∧
  (∀ (h : Hub) (k : Fin 16) (w z : BitVec 32) (x : DmaXfer) (v : State) (u : State) (s : State),
      u = dmaTurn (.move w z) h s → dmaIssues u h k (.move x) →
      v = hostRead (.dma h) (hubB h + (dmaAr u h k x.sar).at_ 0) u → x.line / 4096 = 0 → x.ssp = 2 → x.len = 4 →
      memSpace u x.dsp → x.dfix = false → dmaFreely u h k → (dmaAr u h k x.sar).at_ 0 < 0x800000 →
      (dmaAr u h k x.sar).at_ 0 % 4 = 0 → (dmaAr u h k x.sar).size = 0 ∨ (4 ≤ (dmaAr u h k x.sar).size ∧
      (dmaAr u h k x.sar).off % (dmaAr u h k x.sar).size + 4 ≤ (dmaAr u h k x.sar).size) →
      (∀ j : Fin 4, moveDst1 u h k x j < u.hubLimit (spaceHub h x.dsp)) → (dmaAr u h k x.dar).size = 0 ∨
      4 ≤ (dmaAr u h k x.dar).size → ∃ t, exec (Instr.dmaMove h k false w z) s = .next t ∧
      (∀ i : Fin 4, t.rawByte (spaceHub h x.dsp) (moveDst1 u h k x i) = (leBytes 4 v.readData.toNat).getD i 0) ∧
      t.readData = v.readData ∧ dmaGoesOn u t h k) ∧
  (∀ (h : Hub) (k : Fin 16) (w z : BitVec 32) (x : DmaXfer) (v : State) (u : State) (s : State),
      u = dmaTurn (.move w z) h s → dmaIssues u h k (.move x) →
      v = hostWrite (.dma h) (hubB h + (dmaAr u h k x.dar).at_ 0) (ofLe ((List.range 4).map fun i => u.rawByte (spaceHub h x.ssp) (moveSrc1 u h k x i))) u → x.line / 4096 = 0 → x.dsp = 2 → x.len = 4 → memSpace u x.ssp → x.dfix = false → dmaFreely u h k → (dmaAr u h k x.dar).at_ 0 < 0x800000 → (dmaAr u h k x.dar).at_ 0 % 4 = 0 → (dmaAr u h k x.dar).size = 0 ∨ (4 ≤ (dmaAr u h k x.dar).size ∧ (dmaAr u h k x.dar).off % (dmaAr u h k x.dar).size + 4 ≤ (dmaAr u h k x.dar).size) → (∀ j : Fin 4, moveSrc1 u h k x j < u.hubLimit (spaceHub h x.ssp)) → ∃ t, exec (Instr.dmaMove h k false w z) s = .next t ∧ t.readData = v.readData ∧ t.cap = v.cap ∧ t.flight = v.flight ∧ ∀ p, ¬ inBlocks [.dma] p → t.reg p = v.reg p) ∧
  (∀ (h : Hub) (k : Fin 16) (w z : BitVec 32) (x : DmaXfer) (u : State) (s : State), u = dmaTurn (.move w z) h s →
      dmaIssues u h k (.move x) → x.line / 4096 = 0 → x.len ≠ 0 → x.dsp = 3 → portOpen u h x.port = false →
      ∃ t, exec (Instr.dmaMove h k false w z) s = .next t ∧ dmaHaltedBy t h k 4 ∧ t.cap = u.cap) ∧
  (∀ (h : Hub) (k : Fin 16) (w z : BitVec 32) (x : DmaXfer) (u : State) (s : State), u = dmaTurn (.move w z) h s →
      dmaIssues u h k (.move x) → x.line / 4096 = 0 → x.len ≠ 0 → x.dsp = 3 → portOpen u h x.port = true →
      portWaits u h x.port 0 (min x.len 4096) = true →
      addrsOk u (dmaSpace u h x.ssp) (moveSrc x (dmaAr u h k x.sar) 0 (min x.len 4096)) = true →
      ∃ t, exec (Instr.dmaMove h k false w z) s = .next t ∧ dmaState t h k = 3 ∧
      (t.dmaSt h k).insn = some (dmaInsn u h (u.rd (dmaChB h k) R.DMA_k_PC_PC)) ∧ t.cap = u.cap ∧
      t.rd (dmaChB h k) R.DMA_k_STALLS_STALLS = (u.rd (dmaChB h k) R.DMA_k_STALLS_STALLS + max 1 z.toNat) % 2 ^ 32 ∧
      (portThrottled u h x.port 0 (min x.len 4096) = true → t.on (pwrB 0) R.PWR_STATE_THROTTLE = true)) ∧
  (∀ (h : Hub) (k : Fin 16) (w z : BitVec 32) (x : DmaXfer) (u : State) (s : State), u = dmaTurn (.move w z) h s →
      dmaIssues u h k (.move x) → x.line / 4096 = 0 → x.len ≠ 0 →
      addrsOk u (dmaSpace u h x.ssp) (moveSrc x (dmaAr u h k x.sar) 0 (min x.len 4096)) = false →
      ∃ t, exec (Instr.dmaMove h k false w z) s = .next t ∧ dmaHaltedBy t h k 4 ∧ t.cap = u.cap) ∧
  (∀ (h : Hub) (k : Fin 16) (w z : BitVec 32) (x : DmaXfer) (u : State) (s : State), u = dmaTurn (.move w z) h s →
      dmaIssues u h k (.move x) → x.line / 4096 ≠ 0 → x.len ≠ 0 →
      ∃ t, exec (Instr.dmaMove h k false w z) s = .next t ∧ (lineOn u h x.line = true → dmaState t h k = 1 ∧
      (t.dmaSt h k).burst = some (2 ^ x.burst) ∧ (t.dmaSt h k).waiting = false ∧ creditTaken u t h x.line) ∧
      (lineOn u h x.line = false → dmaWaits u t h k x.line ∧ t.credits = u.credits) ∧ t.cap = u.cap) ∧
  (∀ (h : Hub) (k : Fin 16) (w z : BitVec 32) (x : DmaXfer) (u : State) (s : State), u = dmaTurn (.gather w z) h s →
      dmaIssues u h k (.gather x) → x.line / 4096 = 0 → x.len ≠ 0 → x.dsp = 3 → portOpen u h x.port = false →
      ∃ t, exec (Instr.dmaGather h k false w z) s = .next t ∧ dmaHaltedBy t h k 4 ∧ t.cap = u.cap) ∧
  (∀ (h : Hub) (k : Fin 16) (w z : BitVec 32) (x : DmaXfer) (u : State) (s : State), u = dmaTurn (.gather w z) h s →
      dmaIssues u h k (.gather x) → x.line / 4096 = 0 → x.len ≠ 0 → x.dsp = 3 → portOpen u h x.port = true →
      portWaits u h x.port 0 x.esize = true →
      addrsOk u (dmaSpace u h x.ssp) (if (gatherIndex u h k x 0).2 then [] else (List.range x.esize).map fun i => (dmaAr u h k x.sar).at_ ((gatherIndex u h k x 0).1 * x.esize + i)) = true → addrsOk u (.mem h) ((List.range (if x.wide then 4 else 2)).map fun i => gatherTab u h k x i) = true → ∃ t, exec (Instr.dmaGather h k false w z) s = .next t ∧ dmaState t h k = 3 ∧ (t.dmaSt h k).insn = some (dmaInsn u h (u.rd (dmaChB h k) R.DMA_k_PC_PC)) ∧ t.cap = u.cap ∧
      t.rd (dmaChB h k) R.DMA_k_STALLS_STALLS = (u.rd (dmaChB h k) R.DMA_k_STALLS_STALLS + max 1 z.toNat) % 2 ^ 32 ∧
      (portThrottled u h x.port 0 x.esize = true → t.on (pwrB 0) R.PWR_STATE_THROTTLE = true)) ∧
  (∀ (h : Hub) (k : Fin 16) (w z : BitVec 32) (x : DmaXfer) (u : State) (s : State), u = dmaTurn (.gather w z) h s →
      dmaIssues u h k (.gather x) → x.line / 4096 = 0 → x.len ≠ 0 →
      addrsOk u (dmaSpace u h x.ssp) ((List.range x.esize).map fun i => (dmaAr u h k x.sar).at_ ((gatherIndex u h k x 0).1 * x.esize + i)) = false → (gatherIndex u h k x 0).2 = false → ∃ t, exec (Instr.dmaGather h k false w z) s = .next t ∧ dmaHaltedBy t h k 4 ∧ t.cap = u.cap) ∧
  (∀ (h : Hub) (k : Fin 16) (w z : BitVec 32) (x : DmaXfer) (u : State) (s : State), u = dmaTurn (.gather w z) h s →
      dmaIssues u h k (.gather x) → x.line / 4096 ≠ 0 → x.len ≠ 0 →
      ∃ t, exec (Instr.dmaGather h k false w z) s = .next t ∧ (lineOn u h x.line = true → dmaState t h k = 1 ∧
      (t.dmaSt h k).burst = some x.len ∧ (t.dmaSt h k).waiting = false ∧ creditTaken u t h x.line) ∧
      (lineOn u h x.line = false → dmaWaits u t h k x.line ∧ t.credits = u.credits) ∧ t.cap = u.cap) ∧
  (∀ (h : Hub) (k : Fin 16) (w z : BitVec 32) (x : DmaXfer) (u : State) (s : State), u = dmaTurn (.move w z) h s →
      dmaIssues u h k (.move x) → x.line / 4096 = 0 → x.len ≠ 0 → memSpace u x.ssp → memSpace u x.dsp →
      x.dfix = false → (∀ i < min x.len 4096, moveSrc1 u h k x i < u.hubLimit (spaceHub h x.ssp) ∧
      moveDst1 u h k x i < u.hubLimit (spaceHub h x.dsp)) → bootSealed u = true →
      (∃ i < min x.len 4096, u.inBoot (spaceHub h x.dsp) (moveDst1 u h k x i) = true) →
      ∃ t, exec (Instr.dmaMove h k false w z) s = .next t ∧ dmaHaltedBy t h k 5 ∧ t.cap = u.cap ∧
      t.on (chipB h) R.CHIP_STATUS_VIOL = true) ∧
  (∀ (h : Hub) (k : Fin 16) (w z : BitVec 32) (x : DmaXfer) (u : State) (s : State), u = dmaTurn (.move w z) h s →
      dmaIssues u h k (.move x) → x.line / 4096 = 0 → x.len ≠ 0 → x.len ≤ 4096 → memSpace u x.ssp → memSpace u x.dsp →
      x.dfix = false → (∀ i < x.len, moveSrc1 u h k x i < u.hubLimit (spaceHub h x.ssp) ∧
      moveDst1 u h k x i < u.hubLimit (spaceHub h x.dsp)) → (dmaAr u h k x.dar).size = 0 ∨
      x.len ≤ (dmaAr u h k x.dar).size → bootSealed u = false → pauseAsked u h k = false →
      (u.dmaSt h k).stopping = false → ∃ t, exec (Instr.dmaMove h k false w z) s = .next t ∧
      ((List.range x.len).all fun i => t.rawByte (spaceHub h x.dsp) (moveDst1 u h k x i) ==
        if u.frozenAt (spaceHub h x.dsp) (moveDst1 u h k x i) then u.rawByte (spaceHub h x.dsp) (moveDst1 u h k x i)
        else u.byte (spaceHub h x.ssp) (moveSrc1 u h k x i)) = true ∧
      ((∃ i < x.len, u.frozenAt (spaceHub h x.ssp) (moveSrc1 u h k x i) = true) →
          t.on (dmaChB h k) R.DMA_k_STATUS_POISON = true) ∧ dmaGoesOn u t h k) ∧
  (∀ (h : Hub) (k : Fin 16) (w z : BitVec 32) (x : DmaXfer) (u : State) (s : State), u = dmaTurn (.move w z) h s →
      dmaIssues u h k (.move x) → x.line / 4096 = 0 → x.dsp = 3 → x.port < 64 → x.len ≠ 0 → x.len ≤ 4096 →
      portOpen u h x.port = true → portWaits u h x.port 0 x.len = false → memSpace u x.ssp →
      (∀ i < x.len, moveSrc1 u h k x i < u.hubLimit (spaceHub h x.ssp)) → dmaFreely u h k →
      (u.rd (nfsSrcB h x.port) R.NFS_SRC_s_BASE_BASE + u.rd (nfsSrcB h x.port) R.NFS_SRC_s_SIZE_SIZE) * 2 ^ 20 ≤ 2 ^ 40 → ∃ t, exec (Instr.dmaMove h k false w z) s = .next t ∧ t.rd (nfsSrcB h x.port) R.NFS_SRC_s_WPTR_WPTR = (u.rd (nfsSrcB h x.port) R.NFS_SRC_s_WPTR_WPTR + 1) % 2 ^ 32 ∧ dmaGoesOn u t h k ∧
      ∀ i : Fin 4096, t.rawByte h (u.rd (nfsSrcB h x.port) R.NFS_SRC_s_BASE_BASE * 2 ^ 20 + (u.rd (nfsSrcB h x.port) R.NFS_SRC_s_WPTR_WPTR * 4096 + i) %
        (stageSize u h x.port * 4096)) = if i.val < x.len then u.rawByte (spaceHub h x.ssp) (moveSrc1 u h k x i) else 0) ∧
  (∀ (h : Hub) (k : Fin 16) (w z : BitVec 32) (x : DmaXfer) (v : State) (u : State) (s : State),
      u = dmaTurn (.move w z) h s → dmaIssues u h k (.move x) → x.line / 4096 = 0 → x.dsp = 3 → 64 ≤ x.port →
      x.len ≠ 0 → x.len ≤ 4096 → portOpen u h x.port = true → memSpace u x.ssp →
      (∀ i < x.len, moveSrc1 u h k x i < u.hubLimit (spaceHub h x.ssp)) → dmaFreely u h k →
      strPush h (x.port - 64) true ((List.range x.len).map fun i => u.rawByte (spaceHub h x.ssp) (moveSrc1 u h k x i)) u = some v → ∃ t, exec (Instr.dmaMove h k false w z) s = .next t ∧ (t.strSt h (x.port - 64)).items = (v.strSt h (x.port - 64)).items ∧ t.cap = u.cap ∧ dmaGoesOn u t h k) ∧
  (∀ (h : Hub) (k : Fin 16) (w z : BitVec 32) (x : DmaXfer) (l : List Nat) (u : State) (s : State),
      u = dmaTurn (.move w z) h s → s.hasHub h = true → dmaState u h k = 3 → (u.dmaSt h k).insn = some l →
      dmaDecode u l = .move x → x.dsp = 3 → portOpen u h x.port = true → x.line / 4096 = 0 →
      (u.dmaSt h k).done < x.len →
      portWaits u h x.port ((u.dmaSt h k).done) (min (x.len - (u.dmaSt h k).done) (4096 - (u.dmaSt h k).done % 4096)) = true → addrsOk u (dmaSpace u h x.ssp) (moveSrc x (dmaAr u h k x.sar) ((u.dmaSt h k).done) (min (x.len - (u.dmaSt h k).done) (4096 - (u.dmaSt h k).done % 4096))) = true → ∃ t, exec (Instr.dmaMove h k false w z) s = .next t ∧ dmaState t h k = 3 ∧ (t.dmaSt h k).insn = (u.dmaSt h k).insn ∧ (t.dmaSt h k).done = (u.dmaSt h k).done ∧ t.cap = u.cap ∧
      t.rd (dmaChB h k) R.DMA_k_STALLS_STALLS = (u.rd (dmaChB h k) R.DMA_k_STALLS_STALLS + max 1 z.toNat) % 2 ^ 32) ∧
  (∀ (h : Hub) (k : Fin 16) (w z : BitVec 32) (x : DmaXfer) (l : List Nat) (v : State) (u : State) (s : State),
      u = dmaTurn (.move w z) h s → s.hasHub h = true → dmaState u h k = 3 → (u.dmaSt h k).insn = some l →
      dmaDecode u l = .move x → x.dsp = 3 → 64 ≤ x.port → portOpen u h x.port = true → x.line / 4096 = 0 →
      (u.dmaSt h k).done < x.len → x.len ≤ 4096 → memSpace u x.ssp →
      (∀ i < x.len, moveSrc1 u h k x i < u.hubLimit (spaceHub h x.ssp)) → dmaFreely u h k →
      strPush h (x.port - 64) ((u.dmaSt h k).done == 0) ((List.range (x.len - (u.dmaSt h k).done)).map fun i => u.rawByte (spaceHub h x.ssp) (moveSrc1 u h k x ((u.dmaSt h k).done + i))) u = some v → ∃ t, exec (Instr.dmaMove h k false w z) s = .next t ∧ dmaGoesOn u t h k ∧ (t.strSt h (x.port - 64)).items = (v.strSt h (x.port - 64)).items) ∧
  (∀ (h : Hub) (k : Fin 16) (w z : BitVec 32) (x : DmaXfer) (u : State) (s : State), u = dmaTurn (.gather w z) h s →
      dmaIssues u h k (.gather x) → x.line / 4096 = 0 → x.len ≠ 0 → mayGather u h k x →
      ∃ t, exec (Instr.dmaGather h k false w z) s = .next t ∧ hasGathered u t h k x ∧ dmaGoesOn u t h k ∧
      (x.iar ≠ x.sar → x.iar ≠ x.dar →
          dmaAr t h k x.iar = (dmaAr u h k x.iar).advance (x.len * (if x.wide then 4 else 2) : Nat)) ∧
      ∀ a : Fin 4, a.val ≠ x.iar →
          dmaAr t h k a = arAfter u h k x (if x.sfix then 0 else x.sskip) ((if x.dfix then 0 else (x.len * x.esize : Nat)) + x.dskip) a) ∧
  (∀ (h : Hub) (k : Fin 16) (w z : BitVec 32) (a d i : Fin 4) (c : BitVec 16) (e : Fin 64) (y : Bool) (x : DmaXfer) (u : State) (s : State), u = dmaTurn (.gather w z) h s → dmaAtPc u h k [0x20000000 + a.val * 2 ^ 20 + d.val * 2 ^ 18 + i.val * 2 ^ 16, c.toNat + e.val * 2 ^ 16 + b2n y * 2 ^ 24, 0, 0] → x = ⟨0, 0, false, false, a, d, i, 0, c.toNat, e, y, 0, 4, 0, 0⟩ → c ≠ 0 → e ≠ 0 → mayGather u h k x → ∃ t, exec (Instr.dmaGather h k false w z) s = .next t ∧ hasGathered u t h k x ∧ dmaGoesOn u t h k) ∧
  (∀ (h : Hub) (k : Fin 16) (w z : BitVec 32) (x : DmaXfer) (l : List Nat) (m : Nat) (u : State) (s : State),
      u = dmaTurn (.move w z) h s → s.hasHub h = true → dmaState u h k = 1 ∨ dmaState u h k = 3 →
      (u.dmaSt h k).insn = some l → dmaDecode u l = .move x → x.line / 4096 ≠ 0 → (u.dmaSt h k).burst = some m →
      (u.dmaSt h k).done = 0 → 0 < m → x.len ≠ 0 → x.len ≤ m → mayCopy u h k x x.len →
      ∃ t, exec (Instr.dmaBurst h k w z) s = .next t ∧ hasCopied u t h k x x.len ∧ dmaGoesOn u t h k ∧
      t.rd (dmaChB h k) R.DMA_k_WITHDRAWN_WITHDRAWN = min (2 ^ 32 - 1) (u.rd (dmaChB h k) R.DMA_k_WITHDRAWN_WITHDRAWN + if lineOn u h x.line then 0 else 1) ∧
      ∀ a : Fin 4, dmaAr t h k a = arAfter u h k x (((if x.sfix then 0 else x.len : Int) + x.sskip)) (x.len + x.dskip) a) ∧
  (∀ (h : Hub) (k : Fin 16) (w z : BitVec 32) (x : DmaXfer) (l : List Nat) (m : Nat) (u : State) (s : State),
      u = dmaTurn (.move w z) h s → s.hasHub h = true → dmaState u h k = 1 ∨ dmaState u h k = 3 →
      (u.dmaSt h k).insn = some l → dmaDecode u l = .move x → x.line / 4096 ≠ 0 → (u.dmaSt h k).burst = some m →
      (u.dmaSt h k).done = 0 → 0 < m → m < x.len → mayCopy u h k x m →
      ∃ t, exec (Instr.dmaBurst h k w z) s = .next t ∧ hasCopied u t h k x m ∧ (t.dmaSt h k).insn = some l ∧
      (t.dmaSt h k).done = m ∧
      t.rd (dmaChB h k) R.DMA_k_WITHDRAWN_WITHDRAWN = min (2 ^ 32 - 1) (u.rd (dmaChB h k) R.DMA_k_WITHDRAWN_WITHDRAWN + if lineOn u h x.line then 0 else 1) ∧
      (lineOn u h x.line = true → dmaState t h k = 1 ∧ (t.dmaSt h k).burst = some (2 ^ x.burst) ∧
          creditTaken u t h x.line) ∧
      (lineOn u h x.line = false → dmaState t h k = 2 ∧ (t.dmaSt h k).waiting = true ∧ (t.dmaSt h k).burst = none)) ∧
  (∀ (h : Hub) (k : Fin 16) (w z : BitVec 32) (x : DmaXfer) (l : List Nat) (m : Nat) (u : State) (s : State),
      u = dmaTurn (.move w z) h s → s.hasHub h = true → dmaState u h k = 1 ∨ dmaState u h k = 3 →
      (u.dmaSt h k).insn = some l → dmaDecode u l = .gather x → x.line / 4096 ≠ 0 → (u.dmaSt h k).burst = some m →
      (u.dmaSt h k).done = 0 → x.len ≠ 0 → mayGather u h k x → ∃ t, exec (Instr.dmaBurst h k w z) s = .next t ∧
      hasGathered u t h k x ∧ dmaGoesOn u t h k ∧
      t.rd (dmaChB h k) R.DMA_k_WITHDRAWN_WITHDRAWN = min (2 ^ 32 - 1) (u.rd (dmaChB h k) R.DMA_k_WITHDRAWN_WITHDRAWN + if lineOn u h x.line then 0 else 1)) ∧
  (∀ (h : Hub) (k : Fin 16) (w z : BitVec 32) (x : DmaXfer) (u : State) (s : State), u = dmaTurn (.move w z) h s →
      s.hasHub h = true → (u.dmaSt h k).burst = none ∨ (dmaState u h k ≠ 1 ∧ dmaState u h k ≠ 3) ∨
      dmaXferOf u h k = none → ∃ t, exec (Instr.dmaBurst h k w z) s = .next t ∧ t = u) ∧
  (∀ (h : Hub) (k : Fin 16) (w z : BitVec 32) (x : DmaXfer) (u : State) (s : State), u = dmaTurn (.move w z) h s →
      s.hasHub h = false → ∃ t, exec (Instr.dmaBurst h k w z) s = .next t ∧ t = s) ∧
  (∀ (h : Hub) (k : Fin 16) (s : State), s.hasHub h = false → ∃ t, exec (Instr.dmaRun h k) s = .next t ∧ t = s) ∧
  (∀ (h : Hub) (k : Fin 16) (s : State), s.hasHub h = false → ∃ t, exec (Instr.dmaStop h k) s = .next t ∧ t = s) ∧
  (∀ (h : Hub) (k : Fin 16) (s : State), s.hasHub h = false → ∃ t, exec (Instr.dmaPause h k) s = .next t ∧ t = s) ∧
  (∀ (h : Hub) (k : Fin 16) (s : State), s.hasHub h = false → ∃ t, exec (Instr.dmaResume h k) s = .next t ∧ t = s) ∧
  (∀ (h : Hub) (k : Fin 16) (s : State), s.hasHub h = true → dmaState s h k = 5 →
      ∃ t, exec (Instr.dmaRun h k) s = .next t ∧ t.on (dmaChB h k) R.DMA_k_CTRL_RUN = true ∧
      (t.dmaSt h k).loops = [] ∧ t.rd (dmaChB h k) R.DMA_k_STATUS_CAUSE = 0 ∧ (t.dmaSt h k).insn = none ∧
      t.rd (dmaChB h k) R.DMA_k_PC_PC = s.rd (dmaChB h k) R.DMA_k_PC_PC ∧
          dmaState t h k = if pauseAsked s h k then 4 else 1) ∧
  (∀ (h : Hub) (k : Fin 16) (s : State), s.hasHub h = true → dmaState s h k ≠ 5 →
      ∃ t, exec (Instr.dmaRun h k) s = .next t ∧ t = s.wr (dmaChB h k) R.DMA_k_CTRL_RUN 1) ∧
  (∀ (h : Hub) (k : Fin 16) (s : State), s.hasHub h = true → dmaState s h k ≠ 5 → midBurst s h k = false →
      ∃ t, exec (Instr.dmaStop h k) s = .next t ∧ t.on (dmaChB h k) R.DMA_k_CTRL_RUN = false ∧ dmaHaltedBy t h k 1) ∧
  (∀ (h : Hub) (k : Fin 16) (s : State), s.hasHub h = true → dmaState s h k ≠ 5 → midBurst s h k = true →
      ∃ t, exec (Instr.dmaStop h k) s = .next t ∧ t.on (dmaChB h k) R.DMA_k_CTRL_RUN = false ∧
      dmaState t h k = dmaState s h k ∧ (t.dmaSt h k).stopping = true) ∧
  (∀ (h : Hub) (k : Fin 16) (s : State), s.hasHub h = true → dmaState s h k = 5 →
      ∃ t, exec (Instr.dmaStop h k) s = .next t ∧ t = s.wr (dmaChB h k) R.DMA_k_CTRL_RUN 0) ∧
  (∀ (h : Hub) (k : Fin 16) (s : State), s.hasHub h = true → ∃ t, exec (Instr.dmaPause h k) s = .next t ∧
      t.on (dmaChB h k) R.DMA_k_CTRL_PAUSE = true ∧ dmaState t h k = (if dmaState s h k = 5 ∨
      midBurst s h k = true then dmaState s h k else 4) ∧
      t.dma = s.dma) ∧
  (∀ (h : Hub) (k : Fin 16) (s : State), s.hasHub h = true → ∃ t, exec (Instr.dmaResume h k) s = .next t ∧
      t.on (dmaChB h k) R.DMA_k_CTRL_PAUSE = false ∧ t.dma = s.dma ∧ dmaState t h k = if dmaState s h k = 5 then 5
      else if s.on (dmaB h) R.DMA_CTRL_EN = false then (if midBurst s h k then dmaState s h k else 4)
      else if dmaState s h k = 4 then (if (s.dmaSt h k).waiting then 2 else 1) else dmaState s h k)

/-- R537 to R549, R554: an Ethernet port's link, packets, frames and flow control. `takeBytes`, `strMac`, `parseOps`,
`replyBytes`, `drr` and the VITA layouts are the model's functions.
* ETH_LINK_UP of an enabled port outside AON (R537 to R539): the link, or sub-port, is up; the FEC is locked where
  the mode has it; the port's membership reports are queued.
* ETH_LINK_UP of a port that is absent, disabled or in AON, or of a sub-port outside BREAKOUT: nothing (log entry
  5).
* ETH_LINK_DOWN (R538): the link is down with LINK_DOWN and its event; what is queued waits.
* ETH_LINK_DOWN of a link that is down: nothing.
* ETH_RESTART of a port whose link is up (R538): the link goes down and comes up again later.
* ADDRESS_RESOLVE (R539, R540): each stream's destination has the MAC address that ARP or ND answers, or is
  unresolved and shows so.
* STREAM_PACKET_FORM with MAXPAY bytes queued (R543, R546): a native packet forms of up to MAXPAY bytes, with the
  header R546 gives, and its bytes leave the queue.
* The same for a queue of one item: the packet carries its first MAXPAY bytes.
* STREAM_PACKET_FORM with MAXPAY bytes queued, to a destination that is unresolved (R540, R547): the packet is
  discarded and counted, UNRESOLVED is set, and the next packet begins with an item header.
* STREAM_HOLD_EXPIRE, whatever is queued (R543, R546): a native packet forms of up to MAXPAY bytes, with the header
  R546 gives, and its bytes leave the queue.
* The same for a queue of one item: the packet carries its first MAXPAY bytes.
* STREAM_HOLD_EXPIRE, whatever is queued, to a destination that is unresolved (R540, R547): the packet is discarded
  and counted, UNRESOLVED is set, and the next packet begins with an item header.
* STREAM_PACKET_FORM of a VRT stream in a block (R548): a full packet, or the rest of the block, leaves as a signal
  data packet of whole samples.
* The same to a destination that is unresolved: the packet is discarded and counted.
* The same with too few samples queued: nothing but FILL.
* STREAM_PACKET_FORM at the header of a block (R548): the block opens, after a context packet where the run or a
  setting of its channel has changed, and the row goes on in it.
* STREAM_PACKET_FORM at an item of another type (R548): it is discarded and counted.
* STREAM_PACKET_FORM with nothing queued, or with a header that is not yet whole: nothing but FILL.
* STREAM_PACKET_FORM of a stream that is disabled, or below MAXPAY: nothing.
* STREAM_HOLD_EXPIRE of a VRT stream in a block (R548): what is queued leaves as a signal data packet of whole
  samples.
* The same to a destination that is unresolved: the packet is discarded and counted.
* The same with too few samples queued: nothing but FILL.
* STREAM_HOLD_EXPIRE at the header of a block (R548): the block opens, after a context packet where the run or a
  setting of its channel has changed, and the row goes on in it.
* STREAM_HOLD_EXPIRE at an item of another type (R548): it is discarded and counted.
* STREAM_HOLD_EXPIRE with nothing queued, or with a header that is not yet whole: nothing but FILL.
* STREAM_HOLD_EXPIRE of a stream that is disabled: nothing.
* STREAM_HOLD_EXPIRE of a native stream with nothing queued: nothing but FILL.
* VRT_CONTEXT_PERIODIC (R548): a context packet for every channel the stream carries.
* VRT_CONTEXT_PERIODIC to a destination that is unresolved: the packets are discarded and counted.
* VRT_CONTEXT_PERIODIC of a stream that is disabled or native: nothing.
* FRAME_TRANSMIT with a management reply first in the MGMT class (R545, R547, R550): it leaves, to the address and
  port of the request, with its time.
* FRAME_TRANSMIT of an answer to ARP, ND or an echo request (R539); its payload is not modelled.
* FRAME_TRANSMIT of a membership report (R539); its payload is not modelled.
* FRAME_TRANSMIT with nothing in the MGMT class and a trigger message waiting (R155, R545): it leaves to the trigger
  group.
* FRAME_TRANSMIT with no frame of a higher class that may begin (R545, R547, R554): the deficit round-robin picks a
  stream whose packet may begin; it leaves with TX_STS and counts, and the shaper holds the class for its time. The
  quantum of 9216 bytes is the model's (log entry 135).
* FRAME_TRANSMIT on a link that is down, or with no frame that may begin (R545, R554): nothing leaves.
* ETH_FRAME_RECEIVE of ARP, ND or an echo request for the port's addresses (R539, R549): it is answered.
* ETH_FRAME_RECEIVE of anything else (R549): discarded and counted.
* ETH_FRAME_RECEIVE of a PTP message of an enabled instance (R422, R549): it is taken; what it does is its own
  row's.
* ETH_FRAME_RECEIVE of a PTP message that is not supported or of another domain (R422): discarded and counted for
  the instance.
* ETH_FRAME_RECEIVE of a PTP message at a port without an instance: discarded and counted.
* ETH_FRAME_RECEIVE while the link is down (R538): lost.
* ETH_FRAME_RECEIVE of a management request from a source that the allow-list does not accept (R549): rejected and
  counted, without a reply.
* A payload that is no request of R550: rejected and counted (log entry 140).
* A request whose tag fails (R552): every STATUS of the reply is AUTH, nothing is executed, and it is counted.
* A request whose SEQ matches a stored reply (R552): the reply is sent again, and nothing is executed.
* A request that is already waiting: nothing more (log entry 140).
* With AUTH, a request whose SEQ is not above the client's highest, or of a new client that finds the table full
  (R552): rejected and counted.
* A request that finds 64 waiting (R549): discarded and counted.
* Another request (R550 to R552): it waits for its operations to run; those with an unknown OP are answered BAD_OP;
  its client becomes the most recently used.
* A request none of whose operations runs, with no other waiting (R551): it is answered at once.
* ETH_FRAME_RECEIVE of UDP to the trigger port at the trigger group or the port's address (R157, R549): as
  TRIGGER_MESSAGE_RECEIVE does.
* ETH_FRAME_RECEIVE of any other UDP: discarded and counted.
* PAUSE_RECEIVE, a PAUSE frame under MODE PAUSE (R554): every class stops, or goes on at 0 quanta; it is counted.
* PAUSE_RECEIVE, a PFC frame under MODE PFC (R554): the priorities it names stop, or go on at 0 quanta.
* PAUSE_RECEIVE, of a kind that MODE does not honour: counted and discarded.
* ETH_FRAME_RECEIVE of it, a PAUSE frame under MODE PAUSE (R554): every class stops, or goes on at 0 quanta; it is
  counted.
* ETH_FRAME_RECEIVE of it, a PFC frame under MODE PFC (R554): the priorities it names stop, or go on at 0 quanta.
* ETH_FRAME_RECEIVE of it, of a kind that MODE does not honour: counted and discarded.
* PAUSE_RECEIVE while the link is down: lost.
* PAUSE_EXPIRE (R554): the priorities go on. -/
def Obligations.EthRowsComplete : Prop :=
  (∀ (h : Hub) (u : Fin 4) (s : State), s.hasHub h = true → s.on (ethB h) R.ETH_CTRL_EN = true → inAon s = false →
      breakout s h = true ∨ u = 0 → ∃ t, exec (Instr.ethLinkUp h u) s = .next t ∧
      t.rd (ethB h) R.ETH_STATUS_LINK = s.rd (ethB h) R.ETH_STATUS_LINK ||| 2 ^ u.val ∧
      (t.on (ethB h) R.ETH_STATUS_FEC_LOCK = true ↔ s.rd (ethB h) R.ETH_CTRL_MODE = 0 ∨
          s.rd (ethB h) R.ETH_CTRL_MODE = 3 ∨ s.on (ethB h) R.ETH_CTRL_FEC = true) ∧
      mgmtQueued s t h (if u = 0 then membership s h else []) ∧ t.flight = s.flight) ∧
  (∀ (h : Hub) (u : Fin 4) (s : State), s.hasHub h = false ∨ s.on (ethB h) R.ETH_CTRL_EN = false ∨ inAon s = true ∨
      (breakout s h = false ∧ u ≠ 0) → ∃ t, exec (Instr.ethLinkUp h u) s = .next t ∧ t = s) ∧
  (∀ (h : Hub) (u : Fin 4) (s : State), bit (s.rd (ethB h) R.ETH_STATUS_LINK) u = true →
      ∃ t, exec (Instr.ethLinkDown h u) s = .next t ∧ bit (t.rd (ethB h) R.ETH_STATUS_LINK) u = false ∧
      (∀ v : Fin 4, v ≠ u → bit (t.rd (ethB h) R.ETH_STATUS_LINK) v = bit (s.rd (ethB h) R.ETH_STATUS_LINK) v) ∧
      t.on (ethB h) R.ETH_STATUS_LINK_DOWN = true ∧
          t.flight.map (·.source) = s.flight.map (·.source) ++ [132 + 16 * h.val] ∧ t.eth = s.eth ∧ t.strs = s.strs) ∧
  (∀ (h : Hub) (u : Fin 4) (s : State), bit (s.rd (ethB h) R.ETH_STATUS_LINK) u = false →
      ∃ t, exec (Instr.ethLinkDown h u) s = .next t ∧ t = s) ∧
  (∀ (h : Hub) (s : State), s.rd (ethB h) R.ETH_STATUS_LINK ≠ 0 → ∃ t, exec (Instr.ethRestart h) s = .next t ∧
      t.rd (ethB h) R.ETH_STATUS_LINK = 0 ∧ t.on (ethB h) R.ETH_STATUS_LINK_DOWN = true ∧
      t.flight.map (·.source) = s.flight.map (·.source) ++ [132 + 16 * h.val] ∧
      t.eth = s.eth ∧ t.strs = s.strs) ∧
  (∀ (h : Hub) (s : State), s.rd (ethB h) R.ETH_STATUS_LINK = 0 → ∃ t, exec (Instr.ethRestart h) s = .next t ∧
      t = s) ∧
  (∀ (h : Hub) (l : List (Option (BitVec 48))) (s : State), s.rd (ethB h) R.ETH_STATUS_LINK ≠ 0 →
      ∃ t, exec (Instr.addressResolve h l) s = .next t ∧
      ∀ k : Fin 64, (t.strSt h k).resolved = ((l.getD k none).map fun m => ((strDst s h k).1, (strDst s h k).2, m.toNat)) ∧
      t.on (strB h k) R.ETH_STR_t_QUEUE_UNRESOLVED = (strOn s h k && (strMac t h k).isNone)) ∧
  (∀ (h : Hub) (l : List (Option (BitVec 48))) (s : State), s.rd (ethB h) R.ETH_STATUS_LINK = 0 →
      ∃ t, exec (Instr.addressResolve h l) s = .next t ∧ t = s) ∧
  (∀ (h : Hub) (k : Fin 64) (m : Nat) (i : EthItem) (l : List EthItem) (s : State), strOn s h k = true →
      s.on (strB h k) R.ETH_STR_t_CFG_FORMAT = false → strMac s h k = some m → (s.strSt h k).items = i :: l →
      (takeBytes (strMaxPay s h k) true (s.strSt h k).items 0).1 ≠ [] → strMaxPay s h k ≤ (s.strSt h k).itemBytes →
      ∃ t, exec (Instr.streamPacketForm h k) s = .next t ∧
      (t.strSt h k).pkts = (s.strSt h k).pkts ++ [pktTo s h k true m (nativeHead s h k i.resync i.dropped ((s.strSt h k).offset + i.gap) (takeBytes (strMaxPay s h k) true (s.strSt h k).items 0).2.1
        (takeBytes (strMaxPay s h k) true (s.strSt h k).items 0).1.length ++ (takeBytes (strMaxPay s h k) true (s.strSt h k).items 0).1)] ∧
      (t.strSt h k).seq = (s.strSt h k).seq + 1 ∧
          (t.strSt h k).offset = (s.strSt h k).offset + i.gap + (takeBytes (strMaxPay s h k) true (s.strSt h k).items 0).1.length ∧
      (t.strSt h k).items = (takeBytes (strMaxPay s h k) true (s.strSt h k).items 0).2.2 ∧ fillShown t h k) ∧
  (∀ (h : Hub) (k : Fin 64) (m : Nat) (d : List Byte) (s : State), strOn s h k = true →
      s.on (strB h k) R.ETH_STR_t_CFG_FORMAT = false → strMac s h k = some m →
      (s.strSt h k).items.map (·.data) = [d] → d ≠ [] → strMaxPay s h k ≠ 0 →
      strMaxPay s h k ≤ (s.strSt h k).itemBytes → ∃ t, exec (Instr.streamPacketForm h k) s = .next t ∧
      ∃ x, (t.strSt h k).pkts = (s.strSt h k).pkts ++ [x] ∧ x.body.length = 40 + min d.length (strMaxPay s h k) ∧
      x.body.drop 40 = d.take (strMaxPay s h k) ∧
      (t.strSt h k).items.map (·.data) = if d.length ≤ strMaxPay s h k then [] else [d.drop (strMaxPay s h k)]) ∧
  (∀ (h : Hub) (k : Fin 64) (i : EthItem) (l : List EthItem) (s : State), strOn s h k = true →
      s.on (strB h k) R.ETH_STR_t_CFG_FORMAT = false → strMac s h k = none → (s.strSt h k).items = i :: l →
      (takeBytes (strMaxPay s h k) true (s.strSt h k).items 0).1 ≠ [] → strMaxPay s h k ≤ (s.strSt h k).itemBytes →
      ∃ t, exec (Instr.streamPacketForm h k) s = .next t ∧ (t.strSt h k).pkts = (s.strSt h k).pkts ∧
      t.rd (strB h k) R.ETH_STR_t_DROPS_DROPS = min (2 ^ 32 - 1) (s.rd (strB h k) R.ETH_STR_t_DROPS_DROPS + 1) ∧
      t.on (strB h k) R.ETH_STR_t_QUEUE_UNRESOLVED = true ∧ (t.strSt h k).seq = (s.strSt h k).seq ∧ fillShown t h k ∧
      (∀ j ∈ (t.strSt h k).items.head?, j.resync = true ∧ (l.all (fun x => !x.begun) = true → j.begun = false)) ∧
      ((t.strSt h k).items = [] → (t.strSt h k).resync = true ∧ (t.strSt h k).skip = true)) ∧
  (∀ (h : Hub) (k : Fin 64) (m : Nat) (i : EthItem) (l : List EthItem) (s : State), strOn s h k = true →
      s.on (strB h k) R.ETH_STR_t_CFG_FORMAT = false → strMac s h k = some m → (s.strSt h k).items = i :: l →
      (takeBytes (strMaxPay s h k) true (s.strSt h k).items 0).1 ≠ [] →
      ∃ t, exec (Instr.streamHoldExpire h k) s = .next t ∧
      (t.strSt h k).pkts = (s.strSt h k).pkts ++ [pktTo s h k true m (nativeHead s h k i.resync i.dropped ((s.strSt h k).offset + i.gap) (takeBytes (strMaxPay s h k) true (s.strSt h k).items 0).2.1
        (takeBytes (strMaxPay s h k) true (s.strSt h k).items 0).1.length ++ (takeBytes (strMaxPay s h k) true (s.strSt h k).items 0).1)] ∧
      (t.strSt h k).seq = (s.strSt h k).seq + 1 ∧
          (t.strSt h k).offset = (s.strSt h k).offset + i.gap + (takeBytes (strMaxPay s h k) true (s.strSt h k).items 0).1.length ∧
      (t.strSt h k).items = (takeBytes (strMaxPay s h k) true (s.strSt h k).items 0).2.2 ∧ fillShown t h k) ∧
  (∀ (h : Hub) (k : Fin 64) (m : Nat) (d : List Byte) (s : State), strOn s h k = true →
      s.on (strB h k) R.ETH_STR_t_CFG_FORMAT = false → strMac s h k = some m →
      (s.strSt h k).items.map (·.data) = [d] → d ≠ [] → strMaxPay s h k ≠ 0 →
      ∃ t, exec (Instr.streamHoldExpire h k) s = .next t ∧ ∃ x, (t.strSt h k).pkts = (s.strSt h k).pkts ++ [x] ∧
      x.body.length = 40 + min d.length (strMaxPay s h k) ∧ x.body.drop 40 = d.take (strMaxPay s h k) ∧
      (t.strSt h k).items.map (·.data) = if d.length ≤ strMaxPay s h k then [] else [d.drop (strMaxPay s h k)]) ∧
  (∀ (h : Hub) (k : Fin 64) (i : EthItem) (l : List EthItem) (s : State), strOn s h k = true →
      s.on (strB h k) R.ETH_STR_t_CFG_FORMAT = false → strMac s h k = none → (s.strSt h k).items = i :: l →
      (takeBytes (strMaxPay s h k) true (s.strSt h k).items 0).1 ≠ [] →
      ∃ t, exec (Instr.streamHoldExpire h k) s = .next t ∧ (t.strSt h k).pkts = (s.strSt h k).pkts ∧
      t.rd (strB h k) R.ETH_STR_t_DROPS_DROPS = min (2 ^ 32 - 1) (s.rd (strB h k) R.ETH_STR_t_DROPS_DROPS + 1) ∧
      t.on (strB h k) R.ETH_STR_t_QUEUE_UNRESOLVED = true ∧ (t.strSt h k).seq = (s.strSt h k).seq ∧ fillShown t h k ∧
      (∀ j ∈ (t.strSt h k).items.head?, j.resync = true ∧ (l.all (fun x => !x.begun) = true → j.begun = false)) ∧
      ((t.strSt h k).items = [] → (t.strSt h k).resync = true ∧ (t.strSt h k).skip = true)) ∧
  (∀ (h : Hub) (k : Fin 64) (m : Nat) (v : VrtBlock) (i : EthItem) (l : List EthItem) (n : Nat) (s : State),
      strOn s h k = true → s.on (strB h k) R.ETH_STR_t_CFG_FORMAT = true → strMac s h k = some m →
      (s.strSt h k).vrt = some v → (s.strSt h k).items = i :: l →
      n = min (strMaxPay s h k / (if decide (blockField v.head 0 1 = 0x51) then 4 else 8)) (min v.left (i.data.length / (if decide (blockField v.head 0 1 = 0x51) then 4 else 6))) → n ≠ 0 → n = (strMaxPay s h k / (if decide (blockField v.head 0 1 = 0x51) then 4 else 8)) ∨ n = v.left → ∃ t, exec (Instr.streamPacketForm h k) s = .next t ∧ (t.strSt h k).pkts = (s.strSt h k).pkts ++ [pktTo s h k false m (vrtHead s h k 1 (s.strSt h k).dataCount (blockField v.head 4 2) (vrtClass (blockField v.head 0 1))
          ((28 + (((List.range n).map fun j => vrtSample (decide (blockField v.head 0 1 = 0x51)) ((i.data.drop (j * (if decide (blockField v.head 0 1 = 0x51) then 4 else 6))).take (if decide (blockField v.head 0 1 = 0x51) then 4 else 6))).flatten).length) / 4) (ofSts (blockField v.head 16 12) +
          ((v.sent * blockField v.head 36 4 * (256 * 10 ^ 9 * 65536) : Nat) / (5 * s.fs) + 1 / 2 : Rat).floor) ++ (((List.range n).map fun j => vrtSample (decide (blockField v.head 0 1 = 0x51)) ((i.data.drop (j * (if decide (blockField v.head 0 1 = 0x51) then 4 else 6))).take (if decide (blockField v.head 0 1 = 0x51) then 4 else 6))).flatten))] ∧
      (t.strSt h k).dataCount = (s.strSt h k).dataCount + 1 ∧ fillShown t h k ∧
      (v.left = n → (t.strSt h k).vrt = none ∧ (t.strSt h k).items = l) ∧
      (v.left ≠ n → (t.strSt h k).vrt = some { v with sent := v.sent + n, left := v.left - n } ∧
          (t.strSt h k).items = { i with data := i.data.drop (n * (if decide (blockField v.head 0 1 = 0x51) then 4 else 6)) } :: l)) ∧
  (∀ (h : Hub) (k : Fin 64) (v : VrtBlock) (i : EthItem) (l : List EthItem) (n : Nat) (s : State),
      strOn s h k = true → s.on (strB h k) R.ETH_STR_t_CFG_FORMAT = true → strMac s h k = none →
      (s.strSt h k).vrt = some v → (s.strSt h k).items = i :: l →
      n = min (strMaxPay s h k / (if decide (blockField v.head 0 1 = 0x51) then 4 else 8)) (min v.left (i.data.length / (if decide (blockField v.head 0 1 = 0x51) then 4 else 6))) → n ≠ 0 → n = (strMaxPay s h k / (if decide (blockField v.head 0 1 = 0x51) then 4 else 8)) ∨ n = v.left → ∃ t, exec (Instr.streamPacketForm h k) s = .next t ∧ (t.strSt h k).pkts = (s.strSt h k).pkts ∧ t.rd (strB h k) R.ETH_STR_t_DROPS_DROPS = min (2 ^ 32 - 1) (s.rd (strB h k) R.ETH_STR_t_DROPS_DROPS + 1) ∧
      t.on (strB h k) R.ETH_STR_t_QUEUE_UNRESOLVED = true ∧ (t.strSt h k).dataCount = (s.strSt h k).dataCount + 1 ∧
          fillShown t h k ∧
      (v.left = n → (t.strSt h k).vrt = none ∧ (t.strSt h k).items = l) ∧
      (v.left ≠ n → (t.strSt h k).vrt = some { v with sent := v.sent + n, left := v.left - n } ∧
          (t.strSt h k).items = { i with data := i.data.drop (n * (if decide (blockField v.head 0 1 = 0x51) then 4 else 6)) } :: l)) ∧
  (∀ (h : Hub) (k : Fin 64) (v : VrtBlock) (i : EthItem) (l : List EthItem) (n : Nat) (s : State),
      strOn s h k = true → s.on (strB h k) R.ETH_STR_t_CFG_FORMAT = true → (s.strSt h k).vrt = some v →
      (s.strSt h k).items = i :: l →
      n = min (strMaxPay s h k / (if decide (blockField v.head 0 1 = 0x51) then 4 else 8)) (min v.left (i.data.length / (if decide (blockField v.head 0 1 = 0x51) then 4 else 6))) → n = 0 ∨ (n < (strMaxPay s h k / (if decide (blockField v.head 0 1 = 0x51) then 4 else 8)) ∧ n < v.left) → ∃ t, exec (Instr.streamPacketForm h k) s = .next t ∧ t.strs = s.strs ∧ fillShown t h k) ∧
  (∀ (h : Hub) (k : Fin 64) (m chan : Nat) (i : EthItem) (l : List EthItem) (c : List Nat) (u : State) (s : State),
      strOn s h k = true → s.on (strB h k) R.ETH_STR_t_CFG_FORMAT = true → strMac s h k = some m →
      (s.strSt h k).vrt = none → (s.strSt h k).items = i :: l → i.begun = false → blockField i.data 0 1 = 0x50 ∨
      blockField i.data 0 1 = 0x51 → 64 ≤ i.data.length → chan = blockField i.data 4 2 →
      c = vrtContext s (i.data.take 64) →
      (u = s.modStr h k fun q => { q with vrt := some ⟨i.data.take 64, 0, blockField i.data 28 4⟩, items := { i with data := i.data.drop 64, begun := true } :: l, ctx := tset (fun _ => []) q.ctx chan c, ctxCount := if (tget (fun _ => []) q.ctx chan).take 5 = c.take 5 then q.ctxCount else q.ctxCount + 1, pkts := if (tget (fun _ => []) q.ctx chan).take 5 = c.take 5 then q.pkts else q.pkts ++ [pktTo s h k false m (vrtHead s h k 4 q.ctxCount chan (vrtClass (c.getD 6 0)) ((28 + (vrtContextBody s c true).length) / 4) (ofSts (blockField i.data 16 12)) ++ vrtContextBody s c true)] }) → ∃ t, exec (Instr.streamPacketForm h k) s = .next t ∧ exec (.streamPacketForm h k) u = .next t) ∧
  (∀ (h : Hub) (k : Fin 64) (i : EthItem) (l : List EthItem) (s : State), strOn s h k = true →
      s.on (strB h k) R.ETH_STR_t_CFG_FORMAT = true → (s.strSt h k).vrt = none → (s.strSt h k).items = i :: l →
      i.begun = true ∨ (i.data ≠ [] ∧ blockField i.data 0 1 ≠ 0x50 ∧ blockField i.data 0 1 ≠ 0x51) →
      ∃ t, exec (Instr.streamPacketForm h k) s = .next t ∧ (t.strSt h k).items = l ∧
      (t.strSt h k).pkts = (s.strSt h k).pkts ∧ fillShown t h k ∧
      t.rd (strB h k) R.ETH_STR_t_DROPS_DROPS = min (2 ^ 32 - 1) (s.rd (strB h k) R.ETH_STR_t_DROPS_DROPS + if i.begun then 0 else 1)) ∧
  (∀ (h : Hub) (k : Fin 64) (s : State), strOn s h k = true → s.on (strB h k) R.ETH_STR_t_CFG_FORMAT = true →
      ((s.strSt h k).items = [] ∨ ((s.strSt h k).vrt = none ∧ (∃ i ∈ (s.strSt h k).items.head?, i.begun = false ∧
      i.data.length < 64 ∧ (i.data = [] ∨ blockField i.data 0 1 = 0x50 ∨ blockField i.data 0 1 = 0x51)))) →
      ∃ t, exec (Instr.streamPacketForm h k) s = .next t ∧ t.strs = s.strs ∧ fillShown t h k) ∧
  (∀ (h : Hub) (k : Fin 64) (s : State), strOn s h k = false ∨ (s.on (strB h k) R.ETH_STR_t_CFG_FORMAT = false ∧
      (s.strSt h k).itemBytes < strMaxPay s h k) → ∃ t, exec (Instr.streamPacketForm h k) s = .next t ∧ t = s) ∧
  (∀ (h : Hub) (k : Fin 64) (m : Nat) (v : VrtBlock) (i : EthItem) (l : List EthItem) (n : Nat) (s : State),
      strOn s h k = true → s.on (strB h k) R.ETH_STR_t_CFG_FORMAT = true → strMac s h k = some m →
      (s.strSt h k).vrt = some v → (s.strSt h k).items = i :: l →
      n = min (strMaxPay s h k / (if decide (blockField v.head 0 1 = 0x51) then 4 else 8)) (min v.left (i.data.length / (if decide (blockField v.head 0 1 = 0x51) then 4 else 6))) → n ≠ 0 → ∃ t, exec (Instr.streamHoldExpire h k) s = .next t ∧ (t.strSt h k).pkts = (s.strSt h k).pkts ++ [pktTo s h k false m (vrtHead s h k 1 (s.strSt h k).dataCount (blockField v.head 4 2) (vrtClass (blockField v.head 0 1))
          ((28 + (((List.range n).map fun j => vrtSample (decide (blockField v.head 0 1 = 0x51)) ((i.data.drop (j * (if decide (blockField v.head 0 1 = 0x51) then 4 else 6))).take (if decide (blockField v.head 0 1 = 0x51) then 4 else 6))).flatten).length) / 4) (ofSts (blockField v.head 16 12) +
          ((v.sent * blockField v.head 36 4 * (256 * 10 ^ 9 * 65536) : Nat) / (5 * s.fs) + 1 / 2 : Rat).floor) ++ (((List.range n).map fun j => vrtSample (decide (blockField v.head 0 1 = 0x51)) ((i.data.drop (j * (if decide (blockField v.head 0 1 = 0x51) then 4 else 6))).take (if decide (blockField v.head 0 1 = 0x51) then 4 else 6))).flatten))] ∧
      (t.strSt h k).dataCount = (s.strSt h k).dataCount + 1 ∧ fillShown t h k ∧
      (v.left = n → (t.strSt h k).vrt = none ∧ (t.strSt h k).items = l) ∧
      (v.left ≠ n → (t.strSt h k).vrt = some { v with sent := v.sent + n, left := v.left - n } ∧
          (t.strSt h k).items = { i with data := i.data.drop (n * (if decide (blockField v.head 0 1 = 0x51) then 4 else 6)) } :: l)) ∧
  (∀ (h : Hub) (k : Fin 64) (v : VrtBlock) (i : EthItem) (l : List EthItem) (n : Nat) (s : State),
      strOn s h k = true → s.on (strB h k) R.ETH_STR_t_CFG_FORMAT = true → strMac s h k = none →
      (s.strSt h k).vrt = some v → (s.strSt h k).items = i :: l →
      n = min (strMaxPay s h k / (if decide (blockField v.head 0 1 = 0x51) then 4 else 8)) (min v.left (i.data.length / (if decide (blockField v.head 0 1 = 0x51) then 4 else 6))) → n ≠ 0 → ∃ t, exec (Instr.streamHoldExpire h k) s = .next t ∧ (t.strSt h k).pkts = (s.strSt h k).pkts ∧ t.rd (strB h k) R.ETH_STR_t_DROPS_DROPS = min (2 ^ 32 - 1) (s.rd (strB h k) R.ETH_STR_t_DROPS_DROPS + 1) ∧
      t.on (strB h k) R.ETH_STR_t_QUEUE_UNRESOLVED = true ∧ (t.strSt h k).dataCount = (s.strSt h k).dataCount + 1 ∧
          fillShown t h k ∧
      (v.left = n → (t.strSt h k).vrt = none ∧ (t.strSt h k).items = l) ∧
      (v.left ≠ n → (t.strSt h k).vrt = some { v with sent := v.sent + n, left := v.left - n } ∧
          (t.strSt h k).items = { i with data := i.data.drop (n * (if decide (blockField v.head 0 1 = 0x51) then 4 else 6)) } :: l)) ∧
  (∀ (h : Hub) (k : Fin 64) (v : VrtBlock) (i : EthItem) (l : List EthItem) (n : Nat) (s : State),
      strOn s h k = true → s.on (strB h k) R.ETH_STR_t_CFG_FORMAT = true → (s.strSt h k).vrt = some v →
      (s.strSt h k).items = i :: l →
      n = min (strMaxPay s h k / (if decide (blockField v.head 0 1 = 0x51) then 4 else 8)) (min v.left (i.data.length / (if decide (blockField v.head 0 1 = 0x51) then 4 else 6))) → n = 0 → ∃ t, exec (Instr.streamHoldExpire h k) s = .next t ∧ t.strs = s.strs ∧ fillShown t h k) ∧
  (∀ (h : Hub) (k : Fin 64) (m chan : Nat) (i : EthItem) (l : List EthItem) (c : List Nat) (u : State) (s : State),
      strOn s h k = true → s.on (strB h k) R.ETH_STR_t_CFG_FORMAT = true → strMac s h k = some m →
      (s.strSt h k).vrt = none → (s.strSt h k).items = i :: l → i.begun = false → blockField i.data 0 1 = 0x50 ∨
      blockField i.data 0 1 = 0x51 → 64 ≤ i.data.length → chan = blockField i.data 4 2 →
      c = vrtContext s (i.data.take 64) →
      (u = s.modStr h k fun q => { q with vrt := some ⟨i.data.take 64, 0, blockField i.data 28 4⟩, items := { i with data := i.data.drop 64, begun := true } :: l, ctx := tset (fun _ => []) q.ctx chan c, ctxCount := if (tget (fun _ => []) q.ctx chan).take 5 = c.take 5 then q.ctxCount else q.ctxCount + 1, pkts := if (tget (fun _ => []) q.ctx chan).take 5 = c.take 5 then q.pkts else q.pkts ++ [pktTo s h k false m (vrtHead s h k 4 q.ctxCount chan (vrtClass (c.getD 6 0)) ((28 + (vrtContextBody s c true).length) / 4) (ofSts (blockField i.data 16 12)) ++ vrtContextBody s c true)] }) → ∃ t, exec (Instr.streamHoldExpire h k) s = .next t ∧ exec (.streamHoldExpire h k) u = .next t) ∧
  (∀ (h : Hub) (k : Fin 64) (i : EthItem) (l : List EthItem) (s : State), strOn s h k = true →
      s.on (strB h k) R.ETH_STR_t_CFG_FORMAT = true → (s.strSt h k).vrt = none → (s.strSt h k).items = i :: l →
      i.begun = true ∨ (i.data ≠ [] ∧ blockField i.data 0 1 ≠ 0x50 ∧ blockField i.data 0 1 ≠ 0x51) →
      ∃ t, exec (Instr.streamHoldExpire h k) s = .next t ∧ (t.strSt h k).items = l ∧
      (t.strSt h k).pkts = (s.strSt h k).pkts ∧ fillShown t h k ∧
      t.rd (strB h k) R.ETH_STR_t_DROPS_DROPS = min (2 ^ 32 - 1) (s.rd (strB h k) R.ETH_STR_t_DROPS_DROPS + if i.begun then 0 else 1)) ∧
  (∀ (h : Hub) (k : Fin 64) (s : State), strOn s h k = true → s.on (strB h k) R.ETH_STR_t_CFG_FORMAT = true →
      ((s.strSt h k).items = [] ∨ ((s.strSt h k).vrt = none ∧ (∃ i ∈ (s.strSt h k).items.head?, i.begun = false ∧
      i.data.length < 64 ∧ (i.data = [] ∨ blockField i.data 0 1 = 0x50 ∨ blockField i.data 0 1 = 0x51)))) →
      ∃ t, exec (Instr.streamHoldExpire h k) s = .next t ∧ t.strs = s.strs ∧ fillShown t h k) ∧
  (∀ (h : Hub) (k : Fin 64) (s : State), strOn s h k = false → ∃ t, exec (Instr.streamHoldExpire h k) s = .next t ∧
      t = s) ∧
  (∀ (h : Hub) (k : Fin 64) (s : State), strOn s h k = true → s.on (strB h k) R.ETH_STR_t_CFG_FORMAT = false →
      (takeBytes (strMaxPay s h k) true (s.strSt h k).items 0).1 = [] →
      ∃ t, exec (Instr.streamHoldExpire h k) s = .next t ∧ t.strs = s.strs ∧ fillShown t h k) ∧
  (∀ (h : Hub) (k : Fin 64) (m : Nat) (s : State), strOn s h k = true →
      s.on (strB h k) R.ETH_STR_t_CFG_FORMAT = true → strMac s h k = some m →
      ∃ t, exec (Instr.vrtContextPeriodic h k) s = .next t ∧
      (t.strSt h k).ctxCount = (s.strSt h k).ctxCount + (s.strSt h k).ctx.length ∧
      (t.strSt h k).pkts = (s.strSt h k).pkts ++ (s.strSt h k).ctx.zipIdx.map (fun e => let c := tget (fun _ => []) (s.strSt h k).ctx e.1.1;
        pktTo s h k false m (vrtHead s h k 4 ((s.strSt h k).ctxCount + e.2) e.1.1 (vrtClass (c.getD 6 0)) ((28 + (vrtContextBody s c false).length) / 4) s.now ++
          vrtContextBody s c false)) ∧ fillShown t h k) ∧
  (∀ (h : Hub) (k : Fin 64) (s : State), strOn s h k = true → s.on (strB h k) R.ETH_STR_t_CFG_FORMAT = true →
      strMac s h k = none → ∃ t, exec (Instr.vrtContextPeriodic h k) s = .next t ∧
      (t.strSt h k).pkts = (s.strSt h k).pkts ∧
      (t.strSt h k).ctxCount = (s.strSt h k).ctxCount + (s.strSt h k).ctx.length ∧
      t.rd (strB h k) R.ETH_STR_t_DROPS_DROPS = min (2 ^ 32 - 1) (s.rd (strB h k) R.ETH_STR_t_DROPS_DROPS + (s.strSt h k).ctx.length)) ∧
  (∀ (h : Hub) (k : Fin 64) (s : State), strOn s h k = false ∨ s.on (strB h k) R.ETH_STR_t_CFG_FORMAT = false →
      ∃ t, exec (Instr.vrtContextPeriodic h k) s = .next t ∧ t = s) ∧
  (∀ (h : Hub) (p : NetPeer) (d : List Byte) (l : List EthTx) (s : State),
      bit (s.rd (ethB h) R.ETH_STATUS_LINK) 0 = true → unpaused s h (s.rd (ethB h) R.ETH_CFG_MGMT_PCP) = true →
      (s.ethSt h).mgmtTx = .reply p d :: l → ∃ t, exec (Instr.frameTransmit h 0) s = .next t ∧
      (t.ethSt h).mgmtTx = l ∧ (∀ k : Fin 64, t.strSt h k = s.strSt h k) ∧ t.trgTx = s.trgTx ∧
      (t.ethSt h).sent = some ⟨0, 0, egressSts s h, p.v6, p.addr.toNat, ethSource s h p.v6, 0, (vlanTag s h (s.rd (ethB h) R.ETH_CFG_MGMT_PCP)), (s.rd (ethB h) R.ETH_MGMT_PORT), p.port.toNat,
        udpCheck p.v6 (ethSource s h p.v6) p.addr.toNat (s.rd (ethB h) R.ETH_MGMT_PORT) p.port.toNat (d), d⟩) ∧
  (∀ (h : Hub) (a : Nat) (p : NetPeer) (l : List EthTx) (s : State), bit (s.rd (ethB h) R.ETH_STATUS_LINK) 0 = true →
      unpaused s h (s.rd (ethB h) R.ETH_CFG_MGMT_PCP) = true → (s.ethSt h).mgmtTx = .answer a p :: l →
      ∃ t, exec (Instr.frameTransmit h 0) s = .next t ∧ (t.ethSt h).mgmtTx = l ∧
      (∀ k : Fin 64, t.strSt h k = s.strSt h k) ∧ t.trgTx = s.trgTx ∧
      (t.ethSt h).sent = some ⟨0, 0, egressSts s h, p.v6, p.addr.toNat, ethSource s h p.v6, 0, (vlanTag s h (s.rd (ethB h) R.ETH_CFG_MGMT_PCP)), 0, 0,
        udpCheck p.v6 (ethSource s h p.v6) p.addr.toNat 0 0 ([]), []⟩) ∧
  (∀ (h : Hub) (v : Bool) (g : Nat) (l : List EthTx) (s : State), bit (s.rd (ethB h) R.ETH_STATUS_LINK) 0 = true →
      unpaused s h (s.rd (ethB h) R.ETH_CFG_MGMT_PCP) = true → (s.ethSt h).mgmtTx = .report v g :: l →
      ∃ t, exec (Instr.frameTransmit h 0) s = .next t ∧ (t.ethSt h).mgmtTx = l ∧
      (∀ k : Fin 64, t.strSt h k = s.strSt h k) ∧ t.trgTx = s.trgTx ∧
      (t.ethSt h).sent = some ⟨0, 0, egressSts s h, v, g, ethSource s h v, ((multicastMac v g).getD 0),
          (vlanTag s h (s.rd (ethB h) R.ETH_CFG_MGMT_PCP)), 0, 0,
        udpCheck v (ethSource s h v) g 0 0 ([]), []⟩) ∧
  (∀ (h : Hub) (m : List Byte) (l : List (List Byte)) (v : Bool) (g p : Nat) (s : State),
      bit (s.rd (ethB h) R.ETH_STATUS_LINK) 0 = true → unpaused s h (s.rd (ethB h) R.ETH_CFG_MGMT_PCP) = true →
      (s.ethSt h).mgmtTx = [] → tget (fun _ => []) s.trgTx h = m :: l → v = s.on (ethB h) R.ETH_TRIG_IP6 →
      (g = if v = true then (s.ethSt h).group6 else s.rd (ethB h) R.ETH_TRIG_GROUP4_GROUP) →
      p = s.rd (ethB h) R.ETH_TRIG_PORT → ∃ t, exec (Instr.frameTransmit h 0) s = .next t ∧
      tget (fun _ => []) t.trgTx h = l ∧ (∀ k : Fin 64, t.strSt h k = s.strSt h k) ∧ (t.ethSt h).mgmtTx = [] ∧
      (t.ethSt h).sent = some ⟨1, 0, egressSts s h, v, g, ethSource s h v, ((multicastMac v g).getD 0),
          (vlanTag s h (s.rd (ethB h) R.ETH_CFG_MGMT_PCP)), p, p,
        udpCheck v (ethSource s h v) g p p (m), m⟩) ∧
  (∀ (h : Hub) (u : Fin 4) (k : Fin 64) (p : EthPkt) (d : Tbl Nat) (r : Nat) (s : State),
      bit (s.rd (ethB h) R.ETH_STATUS_LINK) u = true → u ≠ 0 ∨
      unpaused s h (s.rd (ethB h) R.ETH_CFG_MGMT_PCP) = false ∨ ((s.ethSt h).mgmtTx = [] ∧
      tget (fun _ => []) s.trgTx h = []) → r = streamMbps s h → r ≠ 0 →
      tget noNat (s.ethSt h).shapeAt u ≤ s.time.frc →
      drr s h u 9216 130 (s.ethSt h).turn (s.ethSt h).deficits = (some (k.val, p), d) →
      ∃ t, exec (Instr.frameTransmit h u) s = .next t ∧ strReady s h k u = some p ∧
      (t.strSt h k).pkts = (s.strSt h k).pkts.drop 1 ∧
      t.rd (strB h k) R.ETH_STR_t_PKTS_PACKETS = (s.rd (strB h k) R.ETH_STR_t_PKTS_PACKETS + 1) % 2 ^ 32 ∧
          fillShown t h k ∧
      tget noNat (t.ethSt h).shapeAt u = s.time.frc + (p.lineBytes (vlanTag s h p.pcp).isSome * 8 * 1280 + r - 1) / r ∧
      (t.ethSt h).turn = k.val ∧
          (t.ethSt h).deficits = (if (s.strSt h k).pkts.length = 1 then tset noNat d k 0 else d) ∧
      (t.ethSt h).sent = some ⟨2, u.val, egressSts s h, p.v6, p.dst, ethSource s h p.v6, p.mac, (vlanTag s h p.pcp),
          p.sport, p.dport,
        udpCheck p.v6 (ethSource s h p.v6) p.dst p.sport p.dport ((if p.native then p.body.take 24 ++ beBytes 12 (egressSts s h) ++ p.body.drop 36 else p.body)), (if p.native then p.body.take 24 ++ beBytes 12 (egressSts s h) ++ p.body.drop 36 else p.body)⟩) ∧
  (∀ (h : Hub) (u : Fin 4) (s : State), bit (s.rd (ethB h) R.ETH_STATUS_LINK) u = false ∨ ((u ≠ 0 ∨
      unpaused s h (s.rd (ethB h) R.ETH_CFG_MGMT_PCP) = false ∨ ((s.ethSt h).mgmtTx = [] ∧
      tget (fun _ => []) s.trgTx h = [])) ∧
      (streamMbps s h = 0 ∨ s.time.frc < tget noNat (s.ethSt h).shapeAt u ∨
          (drr s h u 9216 130 (s.ethSt h).turn (s.ethSt h).deficits).1 = none)) →
          ∃ t, exec (Instr.frameTransmit h u) s = .next t ∧ t = s) ∧
  (∀ (h : Hub) (a : Fin 4) (p : NetPeer) (s : State), s.rd (ethB h) R.ETH_STATUS_LINK ≠ 0 →
      ∃ t, exec (Instr.ethFrameReceive h (.own a p)) s = .next t ∧
      rxCounted s t h [R.ETH_RX_FRAMES_COUNT, R.ETH_MGMT_RX_COUNT] ∧ mgmtQueued s t h [.answer a p]) ∧
  (∀ (h : Hub) (s : State), s.rd (ethB h) R.ETH_STATUS_LINK ≠ 0 →
      ∃ t, exec (Instr.ethFrameReceive h .other) s = .next t ∧
      rxCounted s t h [R.ETH_RX_FRAMES_COUNT, R.ETH_RX_DROP_COUNT]) ∧
  (∀ (h : Hub) (y : BitVec 8) (z : Bool) (s : State), s.rd (ethB h) R.ETH_STATUS_LINK ≠ 0 → z = true ∧
      (ptpInst s h y.toNat).isSome = true → ∃ t, exec (Instr.ethFrameReceive h (.ptp y z)) s = .next t ∧
      rxCounted s t h [R.ETH_RX_FRAMES_COUNT, R.ETH_MGMT_RX_COUNT] ∧ t.flight = s.flight) ∧
  (∀ (h : Hub) (y : BitVec 8) (z : Bool) (s : State), s.rd (ethB h) R.ETH_STATUS_LINK ≠ 0 → ptpRole s 0 h ≠ 0 ∨
      ptpRole s 1 h ≠ 0 → z = false ∨ (ptpInst s h y.toNat).isNone = true →
      ∃ t, exec (Instr.ethFrameReceive h (.ptp y z)) s = .next t ∧
      rxCounted s t h [R.ETH_RX_FRAMES_COUNT, R.ETH_MGMT_RX_COUNT] ∧
      t.rd (ptpB h (if ptpRole s 0 h = 0 then 1 else 0)) R.TIME_PTP_i_BAD_DISCARDED = min (2 ^ R.TIME_PTP_i_BAD_DISCARDED.w - 1) (s.rd (ptpB h (if ptpRole s 0 h = 0 then 1 else 0)) R.TIME_PTP_i_BAD_DISCARDED + 1)) ∧
  (∀ (h : Hub) (y : BitVec 8) (z : Bool) (s : State), s.rd (ethB h) R.ETH_STATUS_LINK ≠ 0 → ptpRole s 0 h = 0 ∧
      ptpRole s 1 h = 0 → ∃ t, exec (Instr.ethFrameReceive h (.ptp y z)) s = .next t ∧
      rxCounted s t h [R.ETH_RX_FRAMES_COUNT, R.ETH_RX_DROP_COUNT]) ∧
  (∀ (h : Hub) (f : EthFrame) (s : State), s.rd (ethB h) R.ETH_STATUS_LINK = 0 →
      ∃ t, exec (Instr.ethFrameReceive h f) s = .next t ∧ t = s) ∧
  (∀ (h : Hub) (p d : NetPeer) (m : List Byte) (s : State), s.rd (ethB h) R.ETH_STATUS_LINK ≠ 0 →
      d.port.toNat = s.rd (ethB h) R.ETH_MGMT_PORT → toOwn s h d = true → allowed s h p = false →
      ∃ t, exec (Instr.ethFrameReceive h (.udp p d m)) s = .next t ∧
      rxCounted s t h [R.ETH_RX_FRAMES_COUNT, R.ETH_MGMT_REJECT_COUNT] ∧ t.eth = s.eth) ∧
  (∀ (h : Hub) (p d : NetPeer) (m : List Byte) (s : State), s.rd (ethB h) R.ETH_STATUS_LINK ≠ 0 →
      d.port.toNat = s.rd (ethB h) R.ETH_MGMT_PORT → toOwn s h d = true → allowed s h p = true →
      m.length < 16 + 12 * (m.getD 3 0).toNat + (if s.on (ethB h) R.ETH_MGMT_AUTH then 16 else 0) ∨
      m.take 3 ≠ [0x53, 0x4D, 1] → ∃ t, exec (Instr.ethFrameReceive h (.udp p d m)) s = .next t ∧
      rxCounted s t h [R.ETH_RX_FRAMES_COUNT, R.ETH_MGMT_RX_COUNT, R.ETH_MGMT_REJECT_COUNT] ∧ t.eth = s.eth) ∧
  (∀ (h : Hub) (p d : NetPeer) (m : List Byte) (s : State), s.rd (ethB h) R.ETH_STATUS_LINK ≠ 0 →
      d.port.toNat = s.rd (ethB h) R.ETH_MGMT_PORT → toOwn s h d = true → allowed s h p = true →
      16 + 12 * (m.getD 3 0).toNat + (if s.on (ethB h) R.ETH_MGMT_AUTH then 16 else 0) ≤ m.length →
      m.take 3 = [0x53, 0x4D, 1] → s.on (ethB h) R.ETH_MGMT_AUTH = true → ¬ ((s.ethSt h).keySet = true ∧
      (hmac256 (s.ethSt h).key (m.take (16 + 12 * (m.getD 3 0).toNat))).take 16 = (m.drop (16 + 12 * (m.getD 3 0).toNat)).take 16) → ∃ t, exec (Instr.ethFrameReceive h (.udp p d m)) s = .next t ∧ rxCounted s t h [R.ETH_RX_FRAMES_COUNT, R.ETH_MGMT_RX_COUNT, R.ETH_MGMT_REJECT_COUNT] ∧ (t.ethSt h).reqs = (s.ethSt h).reqs ∧
      mgmtQueued s t h [.reply p (replyBytes (s.ethSt h).key { (⟨p, ofLe ((m.drop 4).take 4).reverse, m.take 16, parseOps (decide ((m.getD 3 0).toNat = 0) || decide (64 < (m.getD 3 0).toNat)) (m.getD 3 0).toNat (m.drop 16), s.on (ethB h) R.ETH_MGMT_AUTH⟩ : MgmtReq) with ops := (parseOps (decide ((m.getD 3 0).toNat = 0) || decide (64 < (m.getD 3 0).toNat)) (m.getD 3 0).toNat (m.drop 16)).map fun o => { o with status := 4 } })]) ∧
  (∀ (h : Hub) (p d : NetPeer) (m : List Byte) (s : State), s.rd (ethB h) R.ETH_STATUS_LINK ≠ 0 →
      d.port.toNat = s.rd (ethB h) R.ETH_MGMT_PORT → toOwn s h d = true → allowed s h p = true →
      16 + 12 * (m.getD 3 0).toNat + (if s.on (ethB h) R.ETH_MGMT_AUTH then 16 else 0) ≤ m.length →
      m.take 3 = [0x53, 0x4D, 1] → (s.on (ethB h) R.ETH_MGMT_AUTH = true → (s.ethSt h).keySet = true ∧
      (hmac256 (s.ethSt h).key (m.take (16 + 12 * (m.getD 3 0).toNat))).take 16 = (m.drop (16 + 12 * (m.getD 3 0).toNat)).take 16) → ((clientOf (s.ethSt h) p).bind fun (c : MgmtClient) => c.replies.find? fun (r : Nat × List Byte) => r.1 == ofLe ((m.drop 4).take 4).reverse) ≠ none → ∃ t, exec (Instr.ethFrameReceive h (.udp p d m)) s = .next t ∧ rxCounted s t h [R.ETH_RX_FRAMES_COUNT, R.ETH_MGMT_RX_COUNT] ∧ (t.ethSt h).reqs = (s.ethSt h).reqs ∧
      ∀ r, ((clientOf (s.ethSt h) p).bind fun (c : MgmtClient) => c.replies.find? fun (r : Nat × List Byte) => r.1 == ofLe ((m.drop 4).take 4).reverse) = some r → mgmtQueued s t h [.reply p r.2]) ∧
  (∀ (h : Hub) (p d : NetPeer) (m : List Byte) (s : State), s.rd (ethB h) R.ETH_STATUS_LINK ≠ 0 →
      d.port.toNat = s.rd (ethB h) R.ETH_MGMT_PORT → toOwn s h d = true → allowed s h p = true →
      16 + 12 * (m.getD 3 0).toNat + (if s.on (ethB h) R.ETH_MGMT_AUTH then 16 else 0) ≤ m.length →
      m.take 3 = [0x53, 0x4D, 1] → (s.on (ethB h) R.ETH_MGMT_AUTH = true → (s.ethSt h).keySet = true ∧
      (hmac256 (s.ethSt h).key (m.take (16 + 12 * (m.getD 3 0).toNat))).take 16 = (m.drop (16 + 12 * (m.getD 3 0).toNat)).take 16) → ((clientOf (s.ethSt h) p).bind fun (c : MgmtClient) => c.replies.find? fun (r : Nat × List Byte) => r.1 == ofLe ((m.drop 4).take 4).reverse) = none → (∃ r ∈ (s.ethSt h).reqs, r.peer = p ∧ r.seq = ofLe ((m.drop 4).take 4).reverse) → ∃ t, exec (Instr.ethFrameReceive h (.udp p d m)) s = .next t ∧ rxCounted s t h [R.ETH_RX_FRAMES_COUNT, R.ETH_MGMT_RX_COUNT] ∧ (t.ethSt h).reqs = (s.ethSt h).reqs ∧ (t.ethSt h).mgmtTx = (s.ethSt h).mgmtTx) ∧
  (∀ (h : Hub) (p d : NetPeer) (m : List Byte) (s : State), s.rd (ethB h) R.ETH_STATUS_LINK ≠ 0 →
      d.port.toNat = s.rd (ethB h) R.ETH_MGMT_PORT → toOwn s h d = true → allowed s h p = true →
      16 + 12 * (m.getD 3 0).toNat + (if s.on (ethB h) R.ETH_MGMT_AUTH then 16 else 0) ≤ m.length →
      m.take 3 = [0x53, 0x4D, 1] → (s.on (ethB h) R.ETH_MGMT_AUTH = true → (s.ethSt h).keySet = true ∧
      (hmac256 (s.ethSt h).key (m.take (16 + 12 * (m.getD 3 0).toNat))).take 16 = (m.drop (16 + 12 * (m.getD 3 0).toNat)).take 16) → ((clientOf (s.ethSt h) p).bind fun (c : MgmtClient) => c.replies.find? fun (r : Nat × List Byte) => r.1 == ofLe ((m.drop 4).take 4).reverse) = none → (∀ r ∈ (s.ethSt h).reqs, r.peer ≠ p ∨ r.seq ≠ ofLe ((m.drop 4).take 4).reverse) → s.on (ethB h) R.ETH_MGMT_AUTH = true ∧ ((clientOf (s.ethSt h) p).any (fun c => decide (ofLe ((m.drop 4).take 4).reverse ≤ c.top)) = true ∨ (clientOf (s.ethSt h) p = none ∧ 16 ≤ (s.ethSt h).clients.length)) → ∃ t, exec (Instr.ethFrameReceive h (.udp p d m)) s = .next t ∧ rxCounted s t h [R.ETH_RX_FRAMES_COUNT, R.ETH_MGMT_RX_COUNT, R.ETH_MGMT_REJECT_COUNT] ∧ (t.ethSt h).reqs = (s.ethSt h).reqs ∧ (t.ethSt h).mgmtTx = (s.ethSt h).mgmtTx) ∧
  (∀ (h : Hub) (p d : NetPeer) (m : List Byte) (s : State), s.rd (ethB h) R.ETH_STATUS_LINK ≠ 0 →
      d.port.toNat = s.rd (ethB h) R.ETH_MGMT_PORT → toOwn s h d = true → allowed s h p = true →
      16 + 12 * (m.getD 3 0).toNat + (if s.on (ethB h) R.ETH_MGMT_AUTH then 16 else 0) ≤ m.length →
      m.take 3 = [0x53, 0x4D, 1] → (s.on (ethB h) R.ETH_MGMT_AUTH = true → (s.ethSt h).keySet = true ∧
      (hmac256 (s.ethSt h).key (m.take (16 + 12 * (m.getD 3 0).toNat))).take 16 = (m.drop (16 + 12 * (m.getD 3 0).toNat)).take 16) → ((clientOf (s.ethSt h) p).bind fun (c : MgmtClient) => c.replies.find? fun (r : Nat × List Byte) => r.1 == ofLe ((m.drop 4).take 4).reverse) = none → (∀ r ∈ (s.ethSt h).reqs, r.peer ≠ p ∨ r.seq ≠ ofLe ((m.drop 4).take 4).reverse) → (s.on (ethB h) R.ETH_MGMT_AUTH = true → (∀ c ∈ clientOf (s.ethSt h) p, c.top < ofLe ((m.drop 4).take 4).reverse) ∧ (clientOf (s.ethSt h) p = none → (s.ethSt h).clients.length < 16)) → 64 ≤ (s.ethSt h).reqs.length → ∃ t, exec (Instr.ethFrameReceive h (.udp p d m)) s = .next t ∧ rxCounted s t h [R.ETH_RX_FRAMES_COUNT, R.ETH_MGMT_RX_COUNT, R.ETH_MGMT_DROP_COUNT] ∧ (t.ethSt h).reqs = (s.ethSt h).reqs ∧ (t.ethSt h).mgmtTx = (s.ethSt h).mgmtTx) ∧
  (∀ (h : Hub) (p d : NetPeer) (m : List Byte) (s : State), s.rd (ethB h) R.ETH_STATUS_LINK ≠ 0 →
      d.port.toNat = s.rd (ethB h) R.ETH_MGMT_PORT → toOwn s h d = true → allowed s h p = true →
      16 + 12 * (m.getD 3 0).toNat + (if s.on (ethB h) R.ETH_MGMT_AUTH then 16 else 0) ≤ m.length →
      m.take 3 = [0x53, 0x4D, 1] → (s.on (ethB h) R.ETH_MGMT_AUTH = true → (s.ethSt h).keySet = true ∧
      (hmac256 (s.ethSt h).key (m.take (16 + 12 * (m.getD 3 0).toNat))).take 16 = (m.drop (16 + 12 * (m.getD 3 0).toNat)).take 16) → ((clientOf (s.ethSt h) p).bind fun (c : MgmtClient) => c.replies.find? fun (r : Nat × List Byte) => r.1 == ofLe ((m.drop 4).take 4).reverse) = none → (∀ r ∈ (s.ethSt h).reqs, r.peer ≠ p ∨ r.seq ≠ ofLe ((m.drop 4).take 4).reverse) → (s.on (ethB h) R.ETH_MGMT_AUTH = true → (∀ c ∈ clientOf (s.ethSt h) p, c.top < ofLe ((m.drop 4).take 4).reverse) ∧ (clientOf (s.ethSt h) p = none → (s.ethSt h).clients.length < 16)) → (s.ethSt h).reqs.length < 64 → (parseOps (decide ((m.getD 3 0).toNat = 0) || decide (64 < (m.getD 3 0).toNat)) (m.getD 3 0).toNat (m.drop 16)).any (fun o => !o.done) = true → (∀ r ∈ (s.ethSt h).reqs.head?, r.ops.any (fun o => !o.done) = true) → ∃ t, exec (Instr.ethFrameReceive h (.udp p d m)) s = .next t ∧ rxCounted s t h [R.ETH_RX_FRAMES_COUNT, R.ETH_MGMT_RX_COUNT] ∧ (t.ethSt h).reqs = (s.ethSt h).reqs ++ [(⟨p, ofLe ((m.drop 4).take 4).reverse, m.take 16, parseOps (decide ((m.getD 3 0).toNat = 0) || decide (64 < (m.getD 3 0).toNat)) (m.getD 3 0).toNat (m.drop 16), s.on (ethB h) R.ETH_MGMT_AUTH⟩ : MgmtReq)] ∧ (t.ethSt h).mgmtTx = (s.ethSt h).mgmtTx ∧
      ∃ c, (t.ethSt h).clients.head? = some c ∧ c.peer = p ∧ ofLe ((m.drop 4).take 4).reverse ≤ c.top ∧
          (t.ethSt h).clients.length ≤ 16) ∧
  (∀ (h : Hub) (p d : NetPeer) (m : List Byte) (s : State), s.rd (ethB h) R.ETH_STATUS_LINK ≠ 0 →
      d.port.toNat = s.rd (ethB h) R.ETH_MGMT_PORT → toOwn s h d = true → allowed s h p = true →
      16 + 12 * (m.getD 3 0).toNat + (if s.on (ethB h) R.ETH_MGMT_AUTH then 16 else 0) ≤ m.length →
      m.take 3 = [0x53, 0x4D, 1] → (s.on (ethB h) R.ETH_MGMT_AUTH = true → (s.ethSt h).keySet = true ∧
      (hmac256 (s.ethSt h).key (m.take (16 + 12 * (m.getD 3 0).toNat))).take 16 = (m.drop (16 + 12 * (m.getD 3 0).toNat)).take 16) → ((clientOf (s.ethSt h) p).bind fun (c : MgmtClient) => c.replies.find? fun (r : Nat × List Byte) => r.1 == ofLe ((m.drop 4).take 4).reverse) = none → (∀ r ∈ (s.ethSt h).reqs, r.peer ≠ p ∨ r.seq ≠ ofLe ((m.drop 4).take 4).reverse) → (s.on (ethB h) R.ETH_MGMT_AUTH = true → (∀ c ∈ clientOf (s.ethSt h) p, c.top < ofLe ((m.drop 4).take 4).reverse) ∧ (clientOf (s.ethSt h) p = none → (s.ethSt h).clients.length < 16)) → (parseOps (decide ((m.getD 3 0).toNat = 0) || decide (64 < (m.getD 3 0).toNat)) (m.getD 3 0).toNat (m.drop 16)).all (·.done) = true → (s.ethSt h).reqs = [] → ∃ t, exec (Instr.ethFrameReceive h (.udp p d m)) s = .next t ∧ rxCounted s t h [R.ETH_RX_FRAMES_COUNT, R.ETH_MGMT_RX_COUNT] ∧ (t.ethSt h).reqs = [] ∧ mgmtQueued s t h [.reply p (replyBytes (s.ethSt h).key (⟨p, ofLe ((m.drop 4).take 4).reverse, m.take 16, parseOps (decide ((m.getD 3 0).toNat = 0) || decide (64 < (m.getD 3 0).toNat)) (m.getD 3 0).toNat (m.drop 16), s.on (ethB h) R.ETH_MGMT_AUTH⟩ : MgmtReq))]) ∧
  (∀ (h : Hub) (p d : NetPeer) (m : List Byte) (u : State) (s : State), s.rd (ethB h) R.ETH_STATUS_LINK ≠ 0 →
      d.port.toNat ≠ s.rd (ethB h) R.ETH_MGMT_PORT ∨ toOwn s h d = false →
      d.port.toNat = s.rd (ethB h) R.ETH_TRIG_PORT → toGroup s h d = true ∨ toOwn s h d = true →
      u = s.inc (ethB h) R.ETH_RX_FRAMES_COUNT → ∃ t, exec (Instr.ethFrameReceive h (.udp p d m)) s = .next t ∧
      exec (.triggerMessageReceive m) u = .next t) ∧
  (∀ (h : Hub) (p d : NetPeer) (m : List Byte) (s : State), s.rd (ethB h) R.ETH_STATUS_LINK ≠ 0 →
      d.port.toNat ≠ s.rd (ethB h) R.ETH_MGMT_PORT ∨ toOwn s h d = false →
      d.port.toNat ≠ s.rd (ethB h) R.ETH_TRIG_PORT ∨ (toGroup s h d = false ∧ toOwn s h d = false) →
      ∃ t, exec (Instr.ethFrameReceive h (.udp p d m)) s = .next t ∧
      rxCounted s t h [R.ETH_RX_FRAMES_COUNT, R.ETH_RX_DROP_COUNT] ∧ t.eth = s.eth) ∧
  (∀ (h : Hub) (p : BitVec 8) (l : List (BitVec 16)) (s : State), s.rd (ethB h) R.ETH_STATUS_LINK ≠ 0 →
      s.rd (ethB h) R.ETH_FC_MODE = 1 ∨ s.rd (ethB h) R.ETH_FC_MODE = 3 →
      ∃ t, exec (Instr.pauseReceive h false p l) s = .next t ∧
      t.rd (ethB h) R.ETH_FC_PAUSED = (if l.headD 0 = 0 then 0 else 255) ∧
      t.rd (ethB h) R.ETH_PAUSE_COUNT_COUNT = min (2 ^ 32 - 1) (s.rd (ethB h) R.ETH_PAUSE_COUNT_COUNT + 1)) ∧
  (∀ (h : Hub) (p : BitVec 8) (l : List (BitVec 16)) (s : State), s.rd (ethB h) R.ETH_STATUS_LINK ≠ 0 →
      s.rd (ethB h) R.ETH_FC_MODE = 2 → ∃ t, exec (Instr.pauseReceive h true p l) s = .next t ∧
      (∀ k : Fin 8, bit (t.rd (ethB h) R.ETH_FC_PAUSED) k = if p.getLsbD k then l.getD k 0 != 0 else bit (s.rd (ethB h) R.ETH_FC_PAUSED) k) ∧ t.rd (ethB h) R.ETH_PAUSE_COUNT_COUNT = min (2 ^ 32 - 1) (s.rd (ethB h) R.ETH_PAUSE_COUNT_COUNT + 1)) ∧
  (∀ (h : Hub) (f : Bool) (p : BitVec 8) (l : List (BitVec 16)) (s : State), s.rd (ethB h) R.ETH_STATUS_LINK ≠ 0 →
      s.rd (ethB h) R.ETH_FC_MODE = 0 ∨ (f = true ∧ s.rd (ethB h) R.ETH_FC_MODE ≠ 2) ∨ (f = false ∧
      s.rd (ethB h) R.ETH_FC_MODE = 2) → ∃ t, exec (Instr.pauseReceive h f p l) s = .next t ∧
      t.rd (ethB h) R.ETH_FC_PAUSED = s.rd (ethB h) R.ETH_FC_PAUSED ∧
      t.rd (ethB h) R.ETH_PAUSE_COUNT_COUNT = min (2 ^ 32 - 1) (s.rd (ethB h) R.ETH_PAUSE_COUNT_COUNT + 1)) ∧
  (∀ (h : Hub) (p : BitVec 8) (l : List (BitVec 16)) (s : State), s.rd (ethB h) R.ETH_STATUS_LINK ≠ 0 →
      s.rd (ethB h) R.ETH_FC_MODE = 1 ∨ s.rd (ethB h) R.ETH_FC_MODE = 3 →
      ∃ t, exec (Instr.ethFrameReceive h (.flow false p l)) s = .next t ∧
      t.rd (ethB h) R.ETH_FC_PAUSED = (if l.headD 0 = 0 then 0 else 255) ∧
      t.rd (ethB h) R.ETH_PAUSE_COUNT_COUNT = min (2 ^ 32 - 1) (s.rd (ethB h) R.ETH_PAUSE_COUNT_COUNT + 1) ∧
      rxCounted s t h [R.ETH_RX_FRAMES_COUNT]) ∧
  (∀ (h : Hub) (p : BitVec 8) (l : List (BitVec 16)) (s : State), s.rd (ethB h) R.ETH_STATUS_LINK ≠ 0 →
      s.rd (ethB h) R.ETH_FC_MODE = 2 → ∃ t, exec (Instr.ethFrameReceive h (.flow true p l)) s = .next t ∧
      (∀ k : Fin 8, bit (t.rd (ethB h) R.ETH_FC_PAUSED) k = if p.getLsbD k then l.getD k 0 != 0 else bit (s.rd (ethB h) R.ETH_FC_PAUSED) k) ∧ t.rd (ethB h) R.ETH_PAUSE_COUNT_COUNT = min (2 ^ 32 - 1) (s.rd (ethB h) R.ETH_PAUSE_COUNT_COUNT + 1) ∧ rxCounted s t h [R.ETH_RX_FRAMES_COUNT]) ∧
  (∀ (h : Hub) (f : Bool) (p : BitVec 8) (l : List (BitVec 16)) (s : State), s.rd (ethB h) R.ETH_STATUS_LINK ≠ 0 →
      s.rd (ethB h) R.ETH_FC_MODE = 0 ∨ (f = true ∧ s.rd (ethB h) R.ETH_FC_MODE ≠ 2) ∨ (f = false ∧
      s.rd (ethB h) R.ETH_FC_MODE = 2) → ∃ t, exec (Instr.ethFrameReceive h (.flow f p l)) s = .next t ∧
      t.rd (ethB h) R.ETH_FC_PAUSED = s.rd (ethB h) R.ETH_FC_PAUSED ∧
      t.rd (ethB h) R.ETH_PAUSE_COUNT_COUNT = min (2 ^ 32 - 1) (s.rd (ethB h) R.ETH_PAUSE_COUNT_COUNT + 1) ∧
      rxCounted s t h [R.ETH_RX_FRAMES_COUNT]) ∧
  (∀ (h : Hub) (f : Bool) (p : BitVec 8) (l : List (BitVec 16)) (s : State), s.rd (ethB h) R.ETH_STATUS_LINK = 0 →
      ∃ t, exec (Instr.pauseReceive h f p l) s = .next t ∧ t = s) ∧
  (∀ (h : Hub) (p : BitVec 8) (s : State), ∃ t, exec (Instr.pauseExpire h p) s = .next t ∧
      ∀ k : Fin 8, bit (t.rd (ethB h) R.ETH_FC_PAUSED) k = (bit (s.rd (ethB h) R.ETH_FC_PAUSED) k && !p.getLsbD k))

/-- R550 to R553: the operations of management requests and the stop command. `stopTaken` takes the STOP operations of
one argument from the oldest request that holds one.
* MGMT_READ (R550, R551): the next operation of the oldest request reads by the management path, with what such a
  read does; it is answered with the word and OK, or ABSENT. A request none of whose operations is left is answered.
* MGMT_WRITE (R550, R551): it writes by the management path; it is answered OK, ABSENT or LOCKED.
* MGMT_ECHO (R550): it is answered with its data.
* MGMT_READ where the next operation is another, or the control processor is lost (R622): nothing.
* MGMT_WRITE where the next operation is another, or the control processor is lost (R622): nothing.
* MGMT_ECHO where the next operation is another, or the control processor is lost (R622): nothing.
* MGMT_STOP_PORT_STREAMS, a STOP with ARG 0 (R553): every stream of the receiving port is disabled; the STOP is
  counted once.
* MGMT_STOP_ALL_STREAMS, a STOP with ARG 1 (R553): every stream of every port is disabled.
* MGMT_STOP_PLAN, a STOP with ARG 2 (R351, R553): the plan in the slot stops as under PLAN_STOP.
* MGMT_STOP_PLAN of a slot that has nothing to stop, or while the planner does not run: only counted.
* MGMT_STOP_ALL_PLANS, a STOP with ARG 3 (R553): every plan stops.
* MGMT_STOP_ALL_PLANS while the planner does not run: only counted.
* MGMT_STOP_PLAN under the PLAN_LOAD lock (R8, R553): ignored, with an access violation and STATUS LOCKED.
* MGMT_STOP_ALL_PLANS under the PLAN_LOAD lock (R8, R553): ignored, with an access violation and STATUS LOCKED.
* MGMT_STOP_PORT_STREAMS with no such operation waiting: nothing.
* MGMT_STOP_ALL_STREAMS with no such operation waiting: nothing.
* MGMT_STOP_PLAN with no such operation waiting: nothing.
* MGMT_STOP_ALL_PLANS with no such operation waiting: nothing.
* What `stopTaken` takes of a request whose one operation is a STOP (R550, R553): it is answered with the STOP's
  status. MGMT_ECHO itself does nothing then. -/
def Obligations.MgmtRowsComplete : Prop :=
  (∀ (h : Hub) (r : MgmtReq) (l : List MgmtReq) (o : MgmtOp) (a z : List MgmtOp) (v w : State) (s : State),
      s.controlLost = false → (s.ethSt h).reqs = r :: l → r.ops = a ++ o :: z → a.all (·.done) = true →
      o.done = false → o.op = 1 → v = hostRead (.mgmt h) o.addr s →
      (w = v.modEth h fun x => { x with reqs := { r with ops := a ++ { o with status := (if v.access = 1 then 1 else 0), data := v.readData.toNat, done := true } :: z } :: l }) → ∃ t, exec (Instr.mgmtRead h) s = .next t ∧ t = mgmtFinish h w ∧ (z.any (fun x => !x.done) = true → t = w) ∧
      (z.all (·.done) = true → l = [] → (t.ethSt h).reqs = [] ∧
        mgmtQueued w t h [.reply r.peer (replyBytes (w.ethSt h).key { r with ops := a ++ { o with status := (if v.access = 1 then 1 else 0), data := v.readData.toNat, done := true } :: z })])) ∧
  (∀ (h : Hub) (r : MgmtReq) (l : List MgmtReq) (o : MgmtOp) (a z : List MgmtOp) (v w : State) (s : State),
      s.controlLost = false → (s.ethSt h).reqs = r :: l → r.ops = a ++ o :: z → a.all (·.done) = true →
      o.done = false → o.op = 2 → v = hostWrite (.mgmt h) o.addr o.data s →
      (w = v.modEth h fun x => { x with reqs := { r with ops := a ++ { o with status := v.access, data := o.data, done := true } :: z } :: l }) → ∃ t, exec (Instr.mgmtWrite h) s = .next t ∧ t = mgmtFinish h w ∧ (z.any (fun x => !x.done) = true → t = w) ∧
      (z.all (·.done) = true → l = [] → (t.ethSt h).reqs = [] ∧
        mgmtQueued w t h [.reply r.peer (replyBytes (w.ethSt h).key { r with ops := a ++ { o with status := v.access, data := o.data, done := true } :: z })])) ∧
  (∀ (h : Hub) (r : MgmtReq) (l : List MgmtReq) (o : MgmtOp) (a z : List MgmtOp) (v w : State) (s : State),
      s.controlLost = false → (s.ethSt h).reqs = r :: l → r.ops = a ++ o :: z → a.all (·.done) = true →
      o.done = false → o.op = 4 → v = s →
      (w = v.modEth h fun x => { x with reqs := { r with ops := a ++ { o with status := 0, data := o.data, done := true } :: z } :: l }) → ∃ t, exec (Instr.mgmtEcho h) s = .next t ∧ t = mgmtFinish h w ∧ (z.any (fun x => !x.done) = true → t = w) ∧
      (z.all (·.done) = true → l = [] → (t.ethSt h).reqs = [] ∧
        mgmtQueued w t h [.reply r.peer (replyBytes (w.ethSt h).key { r with ops := a ++ { o with status := 0, data := o.data, done := true } :: z })])) ∧
  (∀ (h : Hub) (s : State), s.controlLost = true ∨
      ((s.ethSt h).reqs.head?.bind fun r => (r.ops.find? fun o => !o.done).map (·.op)) ≠ some 1 →
      ∃ t, exec (Instr.mgmtRead h) s = .next t ∧ t = s) ∧
  (∀ (h : Hub) (s : State), s.controlLost = true ∨
      ((s.ethSt h).reqs.head?.bind fun r => (r.ops.find? fun o => !o.done).map (·.op)) ≠ some 2 →
      ∃ t, exec (Instr.mgmtWrite h) s = .next t ∧ t = s) ∧
  (∀ (h : Hub) (s : State), s.controlLost = true ∨
      ((s.ethSt h).reqs.head?.bind fun r => (r.ops.find? fun o => !o.done).map (·.op)) ≠ some 4 →
      ∃ t, exec (Instr.mgmtEcho h) s = .next t ∧ t = s) ∧
  (∀ (h : Hub) (a : Nat) (v : State) (s : State), stopTaken h 0 0 s = some (a, v) →
      ∃ t, exec (Instr.mgmtStopPortStreams h) s = .next t ∧ (∀ k : Fin 64, streamOff s t h k) ∧
      t.rd (ethB h) R.ETH_STOP_COUNT_COUNT = min (2 ^ 32 - 1) (s.rd (ethB h) R.ETH_STOP_COUNT_COUNT + 1) ∧
      t.eth = v.eth) ∧
  (∀ (h : Hub) (a : Nat) (v : State) (s : State), stopTaken h 1 0 s = some (a, v) →
      ∃ t, exec (Instr.mgmtStopAllStreams h) s = .next t ∧ (∀ g : Hub, s.hasHub g = true →
      ∀ k : Fin 64, streamOff s t g k) ∧
      t.rd (ethB h) R.ETH_STOP_COUNT_COUNT = min (2 ^ 32 - 1) (s.rd (ethB h) R.ETH_STOP_COUNT_COUNT + 1) ∧
      t.eth = v.eth) ∧
  (∀ (h : Hub) (e : PlanEnd) (n : Fin 32) (a : Nat) (v : State) (s : State), stopTaken h 2 0 s = some (a, v) →
      s.controlLost = false → plannerRuns s = true → s.on (bootB 0) R.BOOT_LOCK_PLAN_LOAD = false → a = n.val →
      planState s n ≠ 0 → planState s n ≠ 1 → planState s n ≠ 6 → ∃ t, exec (Instr.mgmtStopPlan h e) s = .next t ∧
      ∃ u, t = showNext (recheckAll e.again u) ∧ endedAs v u n) ∧
  (∀ (h : Hub) (e : PlanEnd) (a : Nat) (v : State) (s : State), stopTaken h 2 0 s = some (a, v) →
      s.controlLost = false → s.on (bootB 0) R.BOOT_LOCK_PLAN_LOAD = false → e.again = [] → plannerRuns s = false ∨
      32 ≤ a ∨ planState s a = 0 ∨ planState s a = 1 ∨ planState s a = 6 →
      ∃ t, exec (Instr.mgmtStopPlan h e) s = .next t ∧ t.plans = s.plans ∧ (∀ n : Fin 32, e.again = [] →
      planState t n = planState s n) ∧
      t.rd (ethB h) R.ETH_STOP_COUNT_COUNT = min (2 ^ 32 - 1) (s.rd (ethB h) R.ETH_STOP_COUNT_COUNT + 1) ∧
      t.eth = v.eth) ∧
  (∀ (h : Hub) (e : PlanEnd) (a : Nat) (v : State) (s : State), stopTaken h 3 0 s = some (a, v) →
      s.controlLost = false → plannerRuns s = true → s.on (bootB 0) R.BOOT_LOCK_PLAN_LOAD = false →
      ∃ t, exec (Instr.mgmtStopAllPlans h e) s = .next t ∧ ∃ u, t = showNext (recheckAll e.again u) ∧
      ∀ n : Fin 32, (planState s n = 0 ∨ planState s n = 1 ∨ planState s n = 6 → planState u n = planState s n) ∧
      (planState s n ≠ 0 → planState s n ≠ 1 → planState s n ≠ 6 → endedAll v u n)) ∧
  (∀ (h : Hub) (e : PlanEnd) (a : Nat) (v : State) (s : State), stopTaken h 3 0 s = some (a, v) →
      s.controlLost = false → plannerRuns s = false → s.on (bootB 0) R.BOOT_LOCK_PLAN_LOAD = false →
      ∃ t, exec (Instr.mgmtStopAllPlans h e) s = .next t ∧ t = v ∧
      t.rd (ethB h) R.ETH_STOP_COUNT_COUNT = min (2 ^ 32 - 1) (s.rd (ethB h) R.ETH_STOP_COUNT_COUNT + 1)) ∧
  (∀ (h : Hub) (e : PlanEnd) (a : Nat) (v : State) (s : State), stopTaken h 2 2 s = some (a, v) →
      s.controlLost = false → s.on (bootB 0) R.BOOT_LOCK_PLAN_LOAD = true →
      ∃ t, exec (Instr.mgmtStopPlan h e) s = .next t ∧ t.plans = s.plans ∧
      (∀ n : Fin 32, planState t n = planState s n) ∧ t.on (chipB h) R.CHIP_STATUS_VIOL = true ∧
      t.rd (ethB h) R.ETH_STOP_COUNT_COUNT = s.rd (ethB h) R.ETH_STOP_COUNT_COUNT ∧ t.eth = v.eth) ∧
  (∀ (h : Hub) (e : PlanEnd) (a : Nat) (v : State) (s : State), stopTaken h 3 2 s = some (a, v) →
      s.controlLost = false → s.on (bootB 0) R.BOOT_LOCK_PLAN_LOAD = true →
      ∃ t, exec (Instr.mgmtStopAllPlans h e) s = .next t ∧ t.plans = s.plans ∧
      (∀ n : Fin 32, planState t n = planState s n) ∧ t.on (chipB h) R.CHIP_STATUS_VIOL = true ∧
      t.rd (ethB h) R.ETH_STOP_COUNT_COUNT = s.rd (ethB h) R.ETH_STOP_COUNT_COUNT ∧ t.eth = v.eth) ∧
  (∀ (h : Hub) (s : State), (stopTaken h 0 0 s).isNone = true → ∃ t, exec (Instr.mgmtStopPortStreams h) s = .next t ∧
      t = s) ∧
  (∀ (h : Hub) (s : State), (stopTaken h 1 0 s).isNone = true → ∃ t, exec (Instr.mgmtStopAllStreams h) s = .next t ∧
      t = s) ∧
  (∀ (h : Hub) (e : PlanEnd) (s : State), (stopTaken h 2 0 s).isNone = true ∨ s.controlLost = true →
      ∃ t, exec (Instr.mgmtStopPlan h e) s = .next t ∧ t = s) ∧
  (∀ (h : Hub) (e : PlanEnd) (s : State), (stopTaken h 3 0 s).isNone = true ∨ s.controlLost = true →
      ∃ t, exec (Instr.mgmtStopAllPlans h e) s = .next t ∧ t = s) ∧
  (∀ (h : Hub) (r : MgmtReq) (o : MgmtOp) (g : Fin 4) (st : Nat) (u : State) (s : State), (s.ethSt h).reqs = [r] →
      r.ops = [o] → o.op = 3 → o.arg = g.val → o.done = false → ∃ t, exec (Instr.mgmtEcho h) s = .next t ∧
      ((r.ops = [o] → stopTaken h g st s = some (o.addr, u) → (u.ethSt h).reqs = [] ∧
      mgmtQueued s u h [.reply r.peer (replyBytes (s.ethSt h).key { r with ops := [{ o with status := st, done := true }] })]) ∧ t = s))

/-- R560 to R575: the display output's enable, link, commits, lines and palettes. `pixelAt`, `layerView`, `linkRate`,
`nextLine` and `outPixel` are the model's functions.
* DISP_ENABLE (R561, R575): the timing fields are read, each held to its range with CLAMP, pending hand-overs take
  place, and the output starts at its first blanking line. A vertical blanking below 8 lines lengthens the back
  porch (log entry 125).
* DISP_ENABLE of an output that runs or is not there: nothing.
* DISP_DISABLE (R575): the output completes its frame and stops; the live BASE of each enabled layer retires;
  commits stay pending. FENCE does not count (log entry 124).
* DISP_DISABLE of an output that does not run: only EN clears.
* DISP_LINK_TRAIN (R560, R571): the link trains at the highest rate up to RATE at which the sink trains, and the
  pixels fit.
* DISP_LINK_TRAIN where no rate trains or the pixels do not fit (R560): the link stays down with LINK_FAIL and an
  event.
* DISP_LINK_TRAIN of an output that does not run: nothing.
* DISP_COMMIT (R568, R570): the layers are pending; one that was not yet is late, and counted, from the deadline
  line to the end of the active lines of a fixed-timing frame.
* DISP_REVERT (R569): the live set is copied into the shadow set, and DIRTY clears.
* DISP_HANDOVER with fixed timing (R569, R570, R572): line VACTIVE starts, and every pending layer that was not late
  is handed over.
* DISP_HANDOVER of an output that does not run, or with VRR: nothing.
* VRR_RELEASE of a frame whose front porch has lasted VFP lines, with a commit pending (R571): it is released at the
  end of the line, with the hand-over.
* VRR_RELEASE otherwise: nothing (log entry 5).
* VRR_MAX_EXPIRE (R571): the frame is released, with the hand-over of a commit that came in that cycle, or repeats
  and is counted.
* VRR_MAX_EXPIRE otherwise: nothing.
* LINE_FETCH of an active line whose source bytes are in the line buffers (R563, R564): it is sent, the enabled
  layers blended over the background.
* The same where no layer is enabled: the line is the background.
* LINE_FETCH of an active line with a byte that is not in the line buffer (R567): from that pixel on the line is the
  background, and the underrun counts.
* LINE_FETCH (R566): each layer fetches the source line first shown PREFILL lines later, and holds the last 4; bytes
  of a frozen channel are zeros.
* LINE_FETCH of a blanking line with fixed timing: nothing is sent; the fetches for the next frame begin PREFILL
  lines before it.
* The same with VRR, but for the line after the porch ends, where the fetches that are due by then are made up (log
  entry 188).
* LINE_FETCH of an output that does not run, or at the last active line or an unreleased front porch, which other
  rows end: nothing.
* Which line comes next (R561): with fixed timing the one after, and line 0 after VTOTAL - 1.
* DISP_UNDERRUN in an active line (R567).
* DISP_UNDERRUN otherwise: nothing.
* DISP_PAL_DATA_ACCESS, a write (R565, R568): it lands in the shadow bank, the layer is DIRTY, and ENTRY steps on.
* DISP_PAL_DATA_ACCESS, a read: the shadow or live entry by VIEW, and ENTRY steps on.
* HPD_CHANGE (R575): a loss sets LINK_DOWN and raises an event; frames go on.
* HPD_CHANGE to the level it has: nothing. -/
def Obligations.DispRowsComplete : Prop :=
  (∀ (h : Hub) (s : State), s.hasHub h = true → s.on (dispB h) R.DISP_STATUS_RUN = false →
      ∃ t, exec (Instr.dispEnable h) s = .next t ∧ t.on (dispB h) R.DISP_CTRL_EN = true ∧
      t.on (dispB h) R.DISP_STATUS_RUN = true ∧ t.on (dispB h) R.DISP_STATUS_LINK_UP = false ∧
      ((s.rd (dispB h) R.DISP_H_HACTIVE < 64 ∨ 4096 < s.rd (dispB h) R.DISP_H_HACTIVE ∨
          s.rd (dispB h) R.DISP_V_VACTIVE < 64 ∨ 4096 < s.rd (dispB h) R.DISP_V_VACTIVE ∨
          s.rd (dispB h) R.DISP_VBLANK_VFP = 0 ∨ s.rd (dispB h) R.DISP_VBLANK_VSYNC = 0 ∨
          s.rd (dispB h) R.DISP_VBLANK_VBP = 0 ∨
        s.rd (dispB h) R.DISP_HBLANK_HFP = 0 ∨ s.rd (dispB h) R.DISP_HBLANK_HSYNC = 0 ∨
            s.rd (dispB h) R.DISP_HBLANK_HBP = 0 ∨
            s.rd (dispB h) R.DISP_VBLANK_VFP + s.rd (dispB h) R.DISP_VBLANK_VSYNC + s.rd (dispB h) R.DISP_VBLANK_VBP < 8) → t.on (dispB h) R.DISP_STATUS_CLAMP = true) ∧ (¬ (s.rd (dispB h) R.DISP_H_HACTIVE < 64 ∨ 4096 < s.rd (dispB h) R.DISP_H_HACTIVE ∨ s.rd (dispB h) R.DISP_V_VACTIVE < 64 ∨ 4096 < s.rd (dispB h) R.DISP_V_VACTIVE ∨ s.rd (dispB h) R.DISP_VBLANK_VFP = 0 ∨ s.rd (dispB h) R.DISP_VBLANK_VSYNC = 0 ∨ s.rd (dispB h) R.DISP_VBLANK_VBP = 0 ∨
        s.rd (dispB h) R.DISP_HBLANK_HFP = 0 ∨ s.rd (dispB h) R.DISP_HBLANK_HSYNC = 0 ∨
            s.rd (dispB h) R.DISP_HBLANK_HBP = 0 ∨
            s.rd (dispB h) R.DISP_VBLANK_VFP + s.rd (dispB h) R.DISP_VBLANK_VSYNC + s.rd (dispB h) R.DISP_VBLANK_VBP < 8) → t.on (dispB h) R.DISP_STATUS_CLAMP = s.on (dispB h) R.DISP_STATUS_CLAMP) ∧
      (t.dispSt h).hact = max 64 (min 4096 (s.rd (dispB h) R.DISP_H_HACTIVE)) ∧
          (t.dispSt h).vact = max 64 (min 4096 (s.rd (dispB h) R.DISP_V_VACTIVE)) ∧
          (t.dispSt h).vfp = max 1 (s.rd (dispB h) R.DISP_VBLANK_VFP) ∧
      (t.dispSt h).vsync = max 1 (s.rd (dispB h) R.DISP_VBLANK_VSYNC) ∧
          (t.dispSt h).vbp = max (max 1 (s.rd (dispB h) R.DISP_VBLANK_VBP)) (8 - (t.dispSt h).vfp - (t.dispSt h).vsync) ∧
      (t.dispSt h).vfpMax = max (t.dispSt h).vfp (s.rd (dispB h) R.DISP_VRR_VFP_MAX) ∧
          (t.dispSt h).line = (t.dispSt h).vact ∧ t.on (dispB h) R.DISP_STATUS_BLANK = true ∧
          t.rd (dispB h) R.DISP_POS_LINE = (t.dispSt h).line % 2 ^ R.DISP_POS_LINE.w ∧
          (t.dispSt h).porch = some (t.dispSt h).vfp ∧ (t.dispSt h).sent = [] ∧ (t.dispSt h).bufs = [] ∧
      layersTaken s t h 0) ∧
  (∀ (h : Hub) (s : State), s.hasHub h = false ∨ s.on (dispB h) R.DISP_STATUS_RUN = true →
      ∃ t, exec (Instr.dispEnable h) s = .next t ∧ t = s) ∧
  (∀ (h : Hub) (s : State), s.hasHub h = true → s.on (dispB h) R.DISP_STATUS_RUN = true →
      ∃ t, exec (Instr.dispDisable h) s = .next t ∧ t.on (dispB h) R.DISP_CTRL_EN = false ∧
      t.on (dispB h) R.DISP_STATUS_RUN = false ∧ t.on (dispB h) R.DISP_STATUS_BLANK = false ∧
      (t.dispSt h).line = (s.dispSt h).vact ∧
      (t.dispSt h).sent = [] ∧ (t.dispSt h).bufs = [] ∧
          t.rd (dispB h) R.DISP_SHADOW_PENDING = s.rd (dispB h) R.DISP_SHADOW_PENDING ∧ t.live = s.live ∧
          ∀ k : Fin 4, t.rd (layerB h k) R.DISP_LAYER_k_RETIRED_BASE =
        if s.onL (layerB h k) R.DISP_LAYER_k_CTRL_EN then s.rdL (layerB h k) R.DISP_LAYER_k_BASE_BASE else s.rd (layerB h k) R.DISP_LAYER_k_RETIRED_BASE) ∧
  (∀ (h : Hub) (s : State), s.hasHub h = true → s.on (dispB h) R.DISP_STATUS_RUN = false →
      ∃ t, exec (Instr.dispDisable h) s = .next t ∧ t = s.wr (dispB h) R.DISP_CTRL_EN 0) ∧
  (∀ (h : Hub) (m : BitVec 8) (a : Bool) (r : Fin 8) (s : State), s.on (dispB h) R.DISP_STATUS_RUN = true →
      m.getLsbD r = true → r.val ≤ s.rd (dispB h) R.DISP_LINK_RATE → (∀ q : Fin 8, r < q →
      q.val ≤ s.rd (dispB h) R.DISP_LINK_RATE → m.getLsbD q = false) →
      640 * min 15728640 (s.rd (dispB h) R.DISP_PCLK_FRAC) * 3 * (if s.on (dispB h) R.DISP_CTRL_BPC then 8 else 6) * 100 ≤ 792 * 2 ^ min 2 (s.rd (dispB h) R.DISP_LINK_LANES) * linkRate r * 2 ^ 24 → ∃ t, exec (Instr.dispLinkTrain h m a) s = .next t ∧ t.on (dispB h) R.DISP_STATUS_LINK_UP = true ∧ t.rd (dispB h) R.DISP_LINK_STATUS_RATE = r.val ∧ t.rd (dispB h) R.DISP_LINK_STATUS_LANES = min 2 (s.rd (dispB h) R.DISP_LINK_LANES) ∧
      (t.dispSt h).adaptive = a ∧ t.on (dispB h) R.DISP_STATUS_VRR_NA = (s.on (dispB h) R.DISP_CTRL_VRR && !a) ∧
          t.flight = s.flight) ∧
  (∀ (h : Hub) (m : BitVec 8) (a : Bool) (s : State), s.on (dispB h) R.DISP_STATUS_RUN = true →
      (∀ r : Fin 8, m.getLsbD r = true → r.val ≤ s.rd (dispB h) R.DISP_LINK_RATE → (∀ q : Fin 8, r < q →
      q.val ≤ s.rd (dispB h) R.DISP_LINK_RATE → m.getLsbD q = false) →
      792 * 2 ^ min 2 (s.rd (dispB h) R.DISP_LINK_LANES) * linkRate r * 2 ^ 24 < 640 * min 15728640 (s.rd (dispB h) R.DISP_PCLK_FRAC) * 3 * (if s.on (dispB h) R.DISP_CTRL_BPC then 8 else 6) * 100) → ∃ t, exec (Instr.dispLinkTrain h m a) s = .next t ∧ t.on (dispB h) R.DISP_STATUS_LINK_UP = false ∧ t.on (dispB h) R.DISP_STATUS_LINK_FAIL = true ∧ t.flight.map (·.source) = s.flight.map (·.source) ++ [135 + 16 * h.val] ∧ (t.dispSt h).adaptive = a) ∧
  (∀ (h : Hub) (m : BitVec 8) (a : Bool) (s : State), s.on (dispB h) R.DISP_STATUS_RUN = false →
      ∃ t, exec (Instr.dispLinkTrain h m a) s = .next t ∧ t = s) ∧
  (∀ (h : Hub) (m : BitVec 4) (s : State), s.hasHub h = true → ∃ t, exec (Instr.dispCommit h m) s = .next t ∧
      (∀ k : Fin 4, bit (t.rd (dispB h) R.DISP_SHADOW_PENDING) k = (m.getLsbD k || bit (s.rd (dispB h) R.DISP_SHADOW_PENDING) k)) ∧
      ((s.on (dispB h) R.DISP_STATUS_RUN = true ∧ vrrOn s h = false ∧
          min ((s.dispSt h).vact - 1) (s.rd (dispB h) R.DISP_DEADLINE_LINE) ≤ (s.dispSt h).line ∧
          (s.dispSt h).line < (s.dispSt h).vact) →
          t.rd (dispB h) R.DISP_LATE_COUNT_LATE = min (2 ^ 32 - 1) (s.rd (dispB h) R.DISP_LATE_COUNT_LATE + ((List.range 4).filter fun k => m.getLsbD k && !bit (s.rd (dispB h) R.DISP_SHADOW_PENDING) k).length) ∧ (((List.range 4).filter fun k => m.getLsbD k && !bit (s.rd (dispB h) R.DISP_SHADOW_PENDING) k) ≠ [] → t.on (dispB h) R.DISP_STATUS_COMMIT_LATE = true) ∧
        ∀ k : Fin 4, bit (t.dispSt h).late k = (bit (s.dispSt h).late k || (m.getLsbD k && !bit (s.rd (dispB h) R.DISP_SHADOW_PENDING) k))) ∧
      (¬ (s.on (dispB h) R.DISP_STATUS_RUN = true ∧ vrrOn s h = false ∧
          min ((s.dispSt h).vact - 1) (s.rd (dispB h) R.DISP_DEADLINE_LINE) ≤ (s.dispSt h).line ∧
          (s.dispSt h).line < (s.dispSt h).vact) →
          t.rd (dispB h) R.DISP_LATE_COUNT_LATE = s.rd (dispB h) R.DISP_LATE_COUNT_LATE ∧
          (t.dispSt h) = (s.dispSt h))) ∧
  (∀ (h : Hub) (m : BitVec 4) (s : State), s.hasHub h = true → ∃ t, exec (Instr.dispRevert h m) s = .next t ∧
      ∀ k : Fin 4, bit (t.rd (dispB h) R.DISP_SHADOW_DIRTY) k = (bit (s.rd (dispB h) R.DISP_SHADOW_DIRTY) k && !m.getLsbD k) ∧
      (∀ o ∈ layerRegs k, t.reg (dispB h + o) = if m.getLsbD k then s.liveReg (dispB h + o) else s.reg (dispB h + o)) ∧
      ∀ i : Fin 256, tget tabReset t.tabS (palKey h k i) = if m.getLsbD k then tget tabReset s.tabL (palKey h k i) else tget tabReset s.tabS (palKey h k i)) ∧
  (∀ (h : Hub) (m : BitVec 4) (s : State), s.hasHub h = false → ∃ t, exec (Instr.dispCommit h m) s = .next t ∧
      t = s) ∧
  (∀ (h : Hub) (m : BitVec 4) (s : State), s.hasHub h = false → ∃ t, exec (Instr.dispRevert h m) s = .next t ∧
      t = s) ∧
  (∀ (h : Hub) (s : State), s.on (dispB h) R.DISP_STATUS_RUN = true → vrrOn s h = false →
      ∃ t, exec (Instr.dispHandover h) s = .next t ∧ (t.dispSt h).line = (s.dispSt h).vact ∧
      t.on (dispB h) R.DISP_STATUS_BLANK = true ∧
      t.rd (dispB h) R.DISP_POS_LINE = (t.dispSt h).line % 2 ^ R.DISP_POS_LINE.w ∧ (t.dispSt h).bufs = [] ∧
      (t.dispSt h).late = 0 ∧ layersTaken s t h (s.dispSt h).late) ∧
  (∀ (h : Hub) (s : State), s.on (dispB h) R.DISP_STATUS_RUN = false ∨ vrrOn s h = true →
      ∃ t, exec (Instr.dispHandover h) s = .next t ∧ t = s) ∧
  (∀ (h : Hub) (s : State), s.on (dispB h) R.DISP_STATUS_RUN = true → vrrOn s h = true → (s.dispSt h).porch = none →
      s.rd (dispB h) R.DISP_SHADOW_PENDING ≠ 0 → (s.dispSt h).vact + (s.dispSt h).vfp ≤ (s.dispSt h).line + 1 →
      ∃ t, exec (Instr.vrrRelease h) s = .next t ∧
      (t.dispSt h).porch = some ((s.dispSt h).line + 1 - (s.dispSt h).vact) ∧ (t.dispSt h).bufs = [] ∧
      (t.dispSt h).late = 0 ∧ layersTaken s t h (s.dispSt h).late) ∧
  (∀ (h : Hub) (s : State), s.on (dispB h) R.DISP_STATUS_RUN = false ∨ vrrOn s h = false ∨ (s.dispSt h).porch ≠ none ∨
      s.rd (dispB h) R.DISP_SHADOW_PENDING = 0 ∨ (s.dispSt h).line + 1 < (s.dispSt h).vact + (s.dispSt h).vfp →
      ∃ t, exec (Instr.vrrRelease h) s = .next t ∧ t = s) ∧
  (∀ (h : Hub) (s : State), s.on (dispB h) R.DISP_STATUS_RUN = true → vrrOn s h = true → (s.dispSt h).porch = none →
      (s.dispSt h).vact + (s.dispSt h).vfpMax ≤ (s.dispSt h).line + 1 → ∃ t, exec (Instr.vrrMaxExpire h) s = .next t ∧
      (t.dispSt h).porch = some (s.dispSt h).vfpMax ∧ (t.dispSt h).bufs = [] ∧
      (s.rd (dispB h) R.DISP_SHADOW_PENDING ≠ 0 → layersTaken s t h (s.dispSt h).late ∧
      t.rd (dispB h) R.DISP_REPEAT_COUNT_REPEATS = s.rd (dispB h) R.DISP_REPEAT_COUNT_REPEATS) ∧
      (s.rd (dispB h) R.DISP_SHADOW_PENDING = 0 → t.live = s.live ∧
          t.rd (dispB h) R.DISP_REPEAT_COUNT_REPEATS = min (2 ^ 32 - 1) (s.rd (dispB h) R.DISP_REPEAT_COUNT_REPEATS + 1))) ∧
  (∀ (h : Hub) (s : State), s.on (dispB h) R.DISP_STATUS_RUN = false ∨ vrrOn s h = false ∨ (s.dispSt h).porch ≠ none ∨
      (s.dispSt h).line + 1 < (s.dispSt h).vact + (s.dispSt h).vfpMax → ∃ t, exec (Instr.vrrMaxExpire h) s = .next t ∧
      t = s) ∧
  (∀ (h : Hub) (n : Nat) (s : State), s.on (dispB h) R.DISP_STATUS_RUN = true → nextLine s h = some n →
      n < (s.dispSt h).vact →
      ((List.range (s.dispSt h).hact).any fun x => (pixelAt (liveLayers s h) (s.dispSt h) (fun k i => (tget tabReset s.tabL (palKey h k i)).toNat) (s.rdL (dispB h) R.DISP_BG_RGB) n x).isNone) = false → ∃ t, exec (Instr.lineFetch h) s = .next t ∧ (t.dispSt h).line = n ∧ t.rd (dispB h) R.DISP_POS_LINE = n % 2 ^ R.DISP_POS_LINE.w ∧ t.on (dispB h) R.DISP_STATUS_BLANK = decide ((s.dispSt h).vact ≤ n) ∧ (n = 0 → t.rd (dispB h) R.DISP_FRAME_COUNT_FRAMES = (s.rd (dispB h) R.DISP_FRAME_COUNT_FRAMES + 1) % 2 ^ 32) ∧
      (n ≠ 0 → t.rd (dispB h) R.DISP_FRAME_COUNT_FRAMES = s.rd (dispB h) R.DISP_FRAME_COUNT_FRAMES) ∧
          (t.dispSt h).sent = (List.range (s.dispSt h).hact).map fun x => outPixel (s.on (dispB h) R.DISP_CTRL_BPC) ((pixelAt (liveLayers s h) (s.dispSt h) (fun k i => (tget tabReset s.tabL (palKey h k i)).toNat) (s.rdL (dispB h) R.DISP_BG_RGB) n x).getD 0)) ∧
  (∀ (h : Hub) (n : Nat) (s : State), s.on (dispB h) R.DISP_STATUS_RUN = true → nextLine s h = some n →
      n < (s.dispSt h).vact → (∀ k : Fin 4, s.onL (layerB h k) R.DISP_LAYER_k_CTRL_EN = false) →
      ∃ t, exec (Instr.lineFetch h) s = .next t ∧
      (t.dispSt h).sent = List.replicate (s.dispSt h).hact (outPixel (s.on (dispB h) R.DISP_CTRL_BPC) (s.rdL (dispB h) R.DISP_BG_RGB))) ∧
  (∀ (h : Hub) (n x : Nat) (s : State), s.on (dispB h) R.DISP_STATUS_RUN = true → nextLine s h = some n →
      n < (s.dispSt h).vact → x < (s.dispSt h).hact →
      (pixelAt (liveLayers s h) (s.dispSt h) (fun k i => (tget tabReset s.tabL (palKey h k i)).toNat) (s.rdL (dispB h) R.DISP_BG_RGB) n x).isNone = true → ((List.range x).any fun x => (pixelAt (liveLayers s h) (s.dispSt h) (fun k i => (tget tabReset s.tabL (palKey h k i)).toNat) (s.rdL (dispB h) R.DISP_BG_RGB) n x).isNone) = false → ∃ t, exec (Instr.lineFetch h) s = .next t ∧ (t.dispSt h).line = n ∧ t.rd (dispB h) R.DISP_POS_LINE = n % 2 ^ R.DISP_POS_LINE.w ∧ t.on (dispB h) R.DISP_STATUS_BLANK = decide ((s.dispSt h).vact ≤ n) ∧ (n = 0 → t.rd (dispB h) R.DISP_FRAME_COUNT_FRAMES = (s.rd (dispB h) R.DISP_FRAME_COUNT_FRAMES + 1) % 2 ^ 32) ∧
      (n ≠ 0 → t.rd (dispB h) R.DISP_FRAME_COUNT_FRAMES = s.rd (dispB h) R.DISP_FRAME_COUNT_FRAMES) ∧
          (t.dispSt h).sent = ((List.range (s.dispSt h).hact).map fun y => outPixel (s.on (dispB h) R.DISP_CTRL_BPC) ((pixelAt (liveLayers s h) (s.dispSt h) (fun k i => (tget tabReset s.tabL (palKey h k i)).toNat) (s.rdL (dispB h) R.DISP_BG_RGB) n y).getD 0)).take x ++ List.replicate ((s.dispSt h).hact - x) (bgPixel s h) ∧
      t.on (dispB h) R.DISP_STATUS_UNDERRUN = true ∧
          t.rd (dispB h) R.DISP_UNDERRUN_COUNT_UNDERRUNS = min (2 ^ 32 - 1) (s.rd (dispB h) R.DISP_UNDERRUN_COUNT_UNDERRUNS + 1)) ∧
  (∀ (h : Hub) (n : Nat) (s : State), s.on (dispB h) R.DISP_STATUS_RUN = true → nextLine s h = some n →
      n < (s.dispSt h).vact → ∃ t, exec (Instr.lineFetch h) s = .next t ∧ (∀ k : Fin 4, let v := layerView s h k;
        tget (fun _ => []) (t.dispSt h).bufs k = if s.onL (layerB h k) R.DISP_LAYER_k_CTRL_EN = true ∧
            (n + (max 1 (min 4 (s.rd (dispB h) R.DISP_CTRL_PREFILL)))) < (s.dispSt h).vact ∧
            v.y ≤ (n + (max 1 (min 4 (s.rd (dispB h) R.DISP_CTRL_PREFILL)))) ∧
            (n + (max 1 (min 4 (s.rd (dispB h) R.DISP_CTRL_PREFILL)))) < v.y + v.h * v.vrep ∧
            ((n + (max 1 (min 4 (s.rd (dispB h) R.DISP_CTRL_PREFILL)))) - v.y) % v.vrep = 0 then
          ((((n + (max 1 (min 4 (s.rd (dispB h) R.DISP_CTRL_PREFILL)))) - v.y) / v.vrep, s.bytes h (v.addr (((n + (max 1 (min 4 (s.rd (dispB h) R.DISP_CTRL_PREFILL)))) - v.y) / v.vrep)) v.w) :: tget (fun _ => []) (s.dispSt h).bufs k).take 4
        else tget (fun _ => []) (s.dispSt h).bufs k) ∧ (t.dispSt h).porch = (if n = 0 ∧
            vrrOn s h = true then none else (s.dispSt h).porch)) ∧
  (∀ (h : Hub) (n : Nat) (s : State), s.on (dispB h) R.DISP_STATUS_RUN = true → nextLine s h = some n →
      (s.dispSt h).vact ≤ n → vrrOn s h = false → ∃ t, exec (Instr.lineFetch h) s = .next t ∧ (t.dispSt h).line = n ∧
      t.rd (dispB h) R.DISP_POS_LINE = n % 2 ^ R.DISP_POS_LINE.w ∧
      t.on (dispB h) R.DISP_STATUS_BLANK = decide ((s.dispSt h).vact ≤ n) ∧ (n = 0 →
      t.rd (dispB h) R.DISP_FRAME_COUNT_FRAMES = (s.rd (dispB h) R.DISP_FRAME_COUNT_FRAMES + 1) % 2 ^ 32) ∧
      (n ≠ 0 → t.rd (dispB h) R.DISP_FRAME_COUNT_FRAMES = s.rd (dispB h) R.DISP_FRAME_COUNT_FRAMES) ∧
          (t.dispSt h).sent = (s.dispSt h).sent ∧
          (((s.dispSt h).vtotal ≤ n + (max 1 (min 4 (s.rd (dispB h) R.DISP_CTRL_PREFILL))) ∧
          (∀ k : Fin 4, let v := layerView s h k;
        tget (fun _ => []) (t.dispSt h).bufs k = if s.onL (layerB h k) R.DISP_LAYER_k_CTRL_EN = true ∧
            (n + (max 1 (min 4 (s.rd (dispB h) R.DISP_CTRL_PREFILL))) - (s.dispSt h).vtotal) < (s.dispSt h).vact ∧
            v.y ≤ (n + (max 1 (min 4 (s.rd (dispB h) R.DISP_CTRL_PREFILL))) - (s.dispSt h).vtotal) ∧
            (n + (max 1 (min 4 (s.rd (dispB h) R.DISP_CTRL_PREFILL))) - (s.dispSt h).vtotal) < v.y + v.h * v.vrep ∧
            ((n + (max 1 (min 4 (s.rd (dispB h) R.DISP_CTRL_PREFILL))) - (s.dispSt h).vtotal) - v.y) % v.vrep = 0 then
          ((((n + (max 1 (min 4 (s.rd (dispB h) R.DISP_CTRL_PREFILL))) - (s.dispSt h).vtotal) - v.y) / v.vrep, s.bytes h (v.addr (((n + (max 1 (min 4 (s.rd (dispB h) R.DISP_CTRL_PREFILL))) - (s.dispSt h).vtotal) - v.y) / v.vrep)) v.w) :: tget (fun _ => []) (s.dispSt h).bufs k).take 4
        else tget (fun _ => []) (s.dispSt h).bufs k)) ∨
      (n + (max 1 (min 4 (s.rd (dispB h) R.DISP_CTRL_PREFILL))) < (s.dispSt h).vtotal ∧
          (t.dispSt h).bufs = (s.dispSt h).bufs))) ∧
  (∀ (h : Hub) (n : Nat) (s : State), s.on (dispB h) R.DISP_STATUS_RUN = true → nextLine s h = some n →
      (s.dispSt h).vact ≤ n → vrrOn s h = true → ∃ t, exec (Instr.lineFetch h) s = .next t ∧ (t.dispSt h).line = n ∧
      t.rd (dispB h) R.DISP_POS_LINE = n % 2 ^ R.DISP_POS_LINE.w ∧
      t.on (dispB h) R.DISP_STATUS_BLANK = decide ((s.dispSt h).vact ≤ n) ∧ (n = 0 →
      t.rd (dispB h) R.DISP_FRAME_COUNT_FRAMES = (s.rd (dispB h) R.DISP_FRAME_COUNT_FRAMES + 1) % 2 ^ 32) ∧
      (n ≠ 0 → t.rd (dispB h) R.DISP_FRAME_COUNT_FRAMES = s.rd (dispB h) R.DISP_FRAME_COUNT_FRAMES) ∧
          (t.dispSt h).sent = (s.dispSt h).sent ∧ ((s.dispSt h).porch = none →
          (t.dispSt h).bufs = (s.dispSt h).bufs) ∧
      (∀ p, (s.dispSt h).porch = some p → n ≠ (s.dispSt h).vact + p →
          ((s.dispSt h).vtotal ≤ n + (max 1 (min 4 (s.rd (dispB h) R.DISP_CTRL_PREFILL))) ∧
          (∀ k : Fin 4, let v := layerView s h k;
        tget (fun _ => []) (t.dispSt h).bufs k = if s.onL (layerB h k) R.DISP_LAYER_k_CTRL_EN = true ∧
            (n + (max 1 (min 4 (s.rd (dispB h) R.DISP_CTRL_PREFILL))) - (s.dispSt h).vtotal) < (s.dispSt h).vact ∧
            v.y ≤ (n + (max 1 (min 4 (s.rd (dispB h) R.DISP_CTRL_PREFILL))) - (s.dispSt h).vtotal) ∧
            (n + (max 1 (min 4 (s.rd (dispB h) R.DISP_CTRL_PREFILL))) - (s.dispSt h).vtotal) < v.y + v.h * v.vrep ∧
            ((n + (max 1 (min 4 (s.rd (dispB h) R.DISP_CTRL_PREFILL))) - (s.dispSt h).vtotal) - v.y) % v.vrep = 0 then
          ((((n + (max 1 (min 4 (s.rd (dispB h) R.DISP_CTRL_PREFILL))) - (s.dispSt h).vtotal) - v.y) / v.vrep, s.bytes h (v.addr (((n + (max 1 (min 4 (s.rd (dispB h) R.DISP_CTRL_PREFILL))) - (s.dispSt h).vtotal) - v.y) / v.vrep)) v.w) :: tget (fun _ => []) (s.dispSt h).bufs k).take 4
        else tget (fun _ => []) (s.dispSt h).bufs k)) ∨
            (n + (max 1 (min 4 (s.rd (dispB h) R.DISP_CTRL_PREFILL))) < (s.dispSt h).vtotal ∧
            (t.dispSt h).bufs = (s.dispSt h).bufs))) ∧
  (∀ (h : Hub) (s : State), s.on (dispB h) R.DISP_STATUS_RUN = false ∨ nextLine s h = none →
      ∃ t, exec (Instr.lineFetch h) s = .next t ∧ t = s) ∧
  (∀ (h : Hub) (n : Nat) (s : State), s.on (dispB h) R.DISP_STATUS_RUN = true → nextLine s h = some n →
      (s.dispSt h).line < (s.dispSt h).vact + (s.dispSt h).porch.getD (s.dispSt h).vfp + (s.dispSt h).vsync + (s.dispSt h).vbp → ∃ t, exec (Instr.lineFetch h) s = .next t ∧ (t.dispSt h).line = n ∧ (vrrOn s h = false → n = (if (s.dispSt h).line + 1 = (s.dispSt h).vact + (s.dispSt h).porch.getD (s.dispSt h).vfp + (s.dispSt h).vsync + (s.dispSt h).vbp then 0 else (s.dispSt h).line + 1))) ∧
  (∀ (h : Hub) (x : BitVec 13) (s : State), s.on (dispB h) R.DISP_STATUS_RUN = true →
      (s.dispSt h).line < (s.dispSt h).vact → x.toNat < (s.dispSt h).hact →
      ∃ t, exec (Instr.dispUnderrun h x) s = .next t ∧ t.on (dispB h) R.DISP_STATUS_UNDERRUN = true ∧
      t.rd (dispB h) R.DISP_UNDERRUN_COUNT_UNDERRUNS = min (2 ^ 32 - 1) (s.rd (dispB h) R.DISP_UNDERRUN_COUNT_UNDERRUNS + 1) ∧
      (t.dispSt h).sent = (s.dispSt h).sent.take x.toNat ++ List.replicate ((s.dispSt h).hact - x.toNat) (bgPixel s h)) ∧
  (∀ (h : Hub) (x : BitVec 13) (s : State), s.on (dispB h) R.DISP_STATUS_RUN = false ∨
      (s.dispSt h).vact ≤ (s.dispSt h).line ∨ (s.dispSt h).hact ≤ x.toNat →
      ∃ t, exec (Instr.dispUnderrun h x) s = .next t ∧ t = s) ∧
  (∀ (h : Hub) (v : Word) (s : State), s.hasHub h = true →
      ∃ t, exec (Instr.dispPalDataAccess h (some v)) s = .next t ∧
      tget tabReset t.tabS (palKey h (s.rd (dispB h) R.DISP_PAL_ADDR_LAYER) (s.rd (dispB h) R.DISP_PAL_ADDR_ENTRY)) = v ∧ t.tabL = s.tabL ∧
      t.rd (dispB h) R.DISP_PAL_ADDR_ENTRY = (s.rd (dispB h) R.DISP_PAL_ADDR_ENTRY + 1) % 256 ∧
          bit (t.rd (dispB h) R.DISP_SHADOW_DIRTY) (s.rd (dispB h) R.DISP_PAL_ADDR_LAYER) = true) ∧
  (∀ (h : Hub) (s : State), s.hasHub h = true → ∃ t, exec (Instr.dispPalDataAccess h none) s = .next t ∧
      t.readData = tget tabReset (if s.on (dispB h) R.DISP_SHADOW_VIEW then s.tabL else s.tabS)
        (palKey h (s.rd (dispB h) R.DISP_PAL_ADDR_LAYER) (s.rd (dispB h) R.DISP_PAL_ADDR_ENTRY)) ∧ t.tabS = s.tabS ∧
      t.rd (dispB h) R.DISP_PAL_ADDR_ENTRY = (s.rd (dispB h) R.DISP_PAL_ADDR_ENTRY + 1) % 256) ∧
  (∀ (h : Hub) (v : Option Word) (s : State), s.hasHub h = false →
      ∃ t, exec (Instr.dispPalDataAccess h v) s = .next t ∧ t = s) ∧
  (∀ (h : Hub) (u : Bool) (s : State), s.hasHub h = true → s.on (dispB h) R.DISP_LINK_STATUS_HPD ≠ u →
      ∃ t, exec (Instr.hpdChange h u) s = .next t ∧ t.on (dispB h) R.DISP_LINK_STATUS_HPD = u ∧ (u = false →
      t.on (dispB h) R.DISP_STATUS_LINK_DOWN = true ∧ t.on (dispB h) R.DISP_STATUS_LINK_UP = false ∧
      t.flight.map (·.source) = s.flight.map (·.source) ++ [135 + 16 * h.val]) ∧
      (u = true → t.flight = s.flight) ∧ t.disp = s.disp) ∧
  (∀ (h : Hub) (u : Bool) (s : State), s.hasHub h = false ∨ s.on (dispB h) R.DISP_LINK_STATUS_HPD = u →
      ∃ t, exec (Instr.hpdChange h u) s = .next t ∧ t = s)

/-- R599 to R612, R671: the housekeeping converters, their pair checks, and the PWM outputs. The quantity at a converter
comes with its row (log entry 2).
* HK_START (R603, R604): each converter it names that waits for software is triggered.
* HK_START in AON or of an absent hub: nothing.
* HK_TIMER_TRIGGER (R603, R604): a converter that the timer triggers.
* HK_TIMER_TRIGGER of another converter: nothing.
* HK_SEQUENCE_START (R602, R603): the delay is over, and entry 0 samples.
* HK_SEQUENCE_START of a converter that does not wait: nothing.
* HK_ENTRY_RESULT (R599, R600, R602, R607): the quantity at the converter lands as its code, VALID and NEW, and is
  checked against its limits; a temperature of a die that is absent, unusable or off reads 0 with ABSENT.
* HK_ENTRY_RESULT (R608, R609): a valid result reaches every pair check that compares its entry: it opens the
  window, replaces the code it opened it with, or the codes are compared.
* HK_ENTRY_RESULT (R602, R605): the next entry samples, or the sequence ends and counts; CONTINUOUS starts the next
  one; a disabled converter stops.
* HK_ENTRY_RESULT of a temperature (R671): above the limit its event is raised; a transform or acquisition die 10 °C
  above it is switched off, and a hub 15 °C above it starts the sequence-down. `hkResult` is what the clauses above
  say.
* HK_ENTRY_RESULT of a converter that does not run: nothing.
* HK_PAIR_TIMEOUT (R608, R609): the check fails with TIMEOUT; FAILS failures in a row set FAILED and raise an event.
* HK_PAIR_TIMEOUT with no window open: nothing.
* LEDGER_CONVERSION (R363, R606): the bank voltage from the code of channel 17 and the divider, rounded half up.
* PWM_EDGE at count 0 (R603, R611): new PERIOD and DUTY are in force, and the output is high if DUTY is not 0; an
  edge it really makes triggers converters.
* PWM_EDGE at count DUTY: the output is low, or stays high where DUTY is at least PERIOD.
* PWM_EDGE of an output that is disabled, in AON, or a charger in a capacitance test or FLUSH (R612): it drives
  IDLE.
* PWM_EDGE of an absent hub: nothing. -/
def Obligations.HkRowsComplete : Prop :=
  (∀ (h : Hub) (m : BitVec 2) (s : State), s.hasHub h = true → inAon s = false →
      ∃ t, exec (Instr.hkStart h m) s = .next t ∧ ∀ c : Fin 2, if m.getLsbD c = true ∧
      s.rd (hkB h c) R.HK_c_CTRL_TRIG = 0 then hkTriggered s t h c else hkSame s t h c) ∧
  (∀ (h : Hub) (m : BitVec 2) (s : State), s.hasHub h = false ∨ inAon s = true →
      ∃ t, exec (Instr.hkStart h m) s = .next t ∧ t = s) ∧
  (∀ (h : Hub) (c : Fin 2) (s : State), s.hasHub h = true → inAon s = false → s.rd (hkB h c) R.HK_c_CTRL_TRIG = 1 →
      ∃ t, exec (Instr.hkTimerTrigger h c) s = .next t ∧ hkTriggered s t h c) ∧
  (∀ (h : Hub) (c : Fin 2) (s : State), s.hasHub h = false ∨ inAon s = true ∨ s.rd (hkB h c) R.HK_c_CTRL_TRIG ≠ 1 →
      ∃ t, exec (Instr.hkTimerTrigger h c) s = .next t ∧ t = s) ∧
  (∀ (h : Hub) (c : Fin 2) (s : State), s.hasHub h = true → (s.hkSt h c).waits = true →
      ∃ t, exec (Instr.hkSequenceStart h c) s = .next t ∧ hkSamples s t h c 0) ∧
  (∀ (h : Hub) (c : Fin 2) (s : State), s.hasHub h = false ∨ (s.hkSt h c).waits = false →
      ∃ t, exec (Instr.hkSequenceStart h c) s = .next t ∧ t = s) ∧
  (∀ (h : Hub) (c : Fin 2) (v : Rat) (s : State), s.hasHub h = true → (s.hkSt h c).runs = true →
      (s.hkSt h c).entry < 16 →
      (tempDie h (s.hkSt h c).chan).all (fun d => !tempThere s d || decide (hkValue (s.hkSt h c).chan (hkCode (s.hkSt h c).chan 0 v) ≤ tempLimit s)) = true → ∃ t, exec (Instr.hkEntryResult h c v) s = .next t ∧ t.rd (hkEntryB h c (s.hkSt h c).entry) R.HK_c_RES_e_VALUE = (if ((tempDie h (s.hkSt h c).chan).all (tempThere s) = true) then (hkCode (s.hkSt h c).chan (s.hkSt h c).gain v) else 0) ∧ t.on (hkEntryB h c (s.hkSt h c).entry) R.HK_c_RES_e_VALID = decide ((tempDie h (s.hkSt h c).chan).all (tempThere s) = true) ∧
      t.on (hkEntryB h c (s.hkSt h c).entry) R.HK_c_RES_e_ABSENT = !decide ((tempDie h (s.hkSt h c).chan).all (tempThere s) = true) ∧ t.on (hkEntryB h c (s.hkSt h c).entry) R.HK_c_RES_e_NEW = true ∧
      t.on (hkEntryB h c (s.hkSt h c).entry) R.HK_c_RES_e_OVER = (if ((tempDie h (s.hkSt h c).chan).all (tempThere s) = true) then decide (s.on (hkEntryB h c (s.hkSt h c).entry) R.HK_c_LIM_e_EN = true ∧ (hkValue (s.hkSt h c).chan (hkCode (s.hkSt h c).chan (s.hkSt h c).gain v) < hkValue (s.hkSt h c).chan (s.rd (hkEntryB h c (s.hkSt h c).entry) R.HK_c_LIM_e_LO) ∨ hkValue (s.hkSt h c).chan (s.rd (hkEntryB h c (s.hkSt h c).entry) R.HK_c_LIM_e_HI) < hkValue (s.hkSt h c).chan (hkCode (s.hkSt h c).chan (s.hkSt h c).gain v))) else s.on (hkEntryB h c (s.hkSt h c).entry) R.HK_c_RES_e_OVER) ∧
      (((tempDie h (s.hkSt h c).chan).all (tempThere s) = true) →
          (s.on (hkEntryB h c (s.hkSt h c).entry) R.HK_c_LIM_e_EN = true ∧
          (hkValue (s.hkSt h c).chan (hkCode (s.hkSt h c).chan (s.hkSt h c).gain v) < hkValue (s.hkSt h c).chan (s.rd (hkEntryB h c (s.hkSt h c).entry) R.HK_c_LIM_e_LO) ∨ hkValue (s.hkSt h c).chan (s.rd (hkEntryB h c (s.hkSt h c).entry) R.HK_c_LIM_e_HI) < hkValue (s.hkSt h c).chan (hkCode (s.hkSt h c).chan (s.hkSt h c).gain v))) → t.on (hkB h c) R.HK_c_STATUS_LIMIT = true) ∧
      (((tempDie h (s.hkSt h c).chan).all (tempThere s) = true) →
          (s.on (hkEntryB h c (s.hkSt h c).entry) R.HK_c_LIM_e_EN = true ∧
          (hkValue (s.hkSt h c).chan (hkCode (s.hkSt h c).chan (s.hkSt h c).gain v) < hkValue (s.hkSt h c).chan (s.rd (hkEntryB h c (s.hkSt h c).entry) R.HK_c_LIM_e_LO) ∨ hkValue (s.hkSt h c).chan (s.rd (hkEntryB h c (s.hkSt h c).entry) R.HK_c_LIM_e_HI) < hkValue (s.hkSt h c).chan (hkCode (s.hkSt h c).chan (s.hkSt h c).gain v))) → s.on (hkEntryB h c (s.hkSt h c).entry) R.HK_c_RES_e_OVER = false → 13 ∈ t.flight.map (·.source)) ∧ tget noNat t.hkAt (32 * h + 16 * c + (s.hkSt h c).entry) = s.time.frc) ∧
  (∀ (h : Hub) (c : Fin 2) (v : Rat) (s : State), s.hasHub h = true → (s.hkSt h c).runs = true →
      (s.hkSt h c).entry < 16 →
      (tempDie h (s.hkSt h c).chan).all (fun d => !tempThere s d || decide (hkValue (s.hkSt h c).chan (hkCode (s.hkSt h c).chan 0 v) ≤ tempLimit s)) = true → ∃ t, exec (Instr.hkEntryResult h c v) s = .next t ∧ ∀ k : Fin 8, if ((tempDie h (s.hkSt h c).chan).all (tempThere s) = true) then pairTook s t h k c (s.hkSt h c).entry (hkCode (s.hkSt h c).chan (s.hkSt h c).gain v) else t.pairSt h k = s.pairSt h k) ∧
  (∀ (h : Hub) (c : Fin 2) (v : Rat) (s : State), s.hasHub h = true → (s.hkSt h c).runs = true →
      (s.hkSt h c).entry < 16 →
      (tempDie h (s.hkSt h c).chan).all (fun d => !tempThere s d || decide (hkValue (s.hkSt h c).chan (hkCode (s.hkSt h c).chan 0 v) ≤ tempLimit s)) = true → ∃ t, exec (Instr.hkEntryResult h c v) s = .next t ∧ ((s.hkSt h c).entry + 1 < (max 1 (min 16 (s.rd (hkB h c) R.HK_c_CTRL_LEN))) → s.on (hkB h c) R.HK_c_CTRL_EN = true → hkSamples s t h c ((s.hkSt h c).entry + 1)) ∧
      ((s.hkSt h c).entry + 1 < (max 1 (min 16 (s.rd (hkB h c) R.HK_c_CTRL_LEN))) →
          s.on (hkB h c) R.HK_c_CTRL_EN = false → (t.hkSt h c) = {} ∧ t.on (hkB h c) R.HK_c_STATUS_BUSY = false) ∧
      ((max 1 (min 16 (s.rd (hkB h c) R.HK_c_CTRL_LEN))) ≤ (s.hkSt h c).entry + 1 →
          t.rd (hkB h c) R.HK_c_SEQ_COUNT_SEQUENCES = (s.rd (hkB h c) R.HK_c_SEQ_COUNT_SEQUENCES + 1) % 2 ^ 32 ∧
        (s.rd (hkB h c) R.HK_c_CTRL_TRIG = 3 → s.on (hkB h c) R.HK_c_CTRL_EN = true → hkSamples s t h c 0) ∧
        (s.rd (hkB h c) R.HK_c_CTRL_TRIG ≠ 3 ∨ s.on (hkB h c) R.HK_c_CTRL_EN = false → (t.hkSt h c) = {} ∧
            t.on (hkB h c) R.HK_c_STATUS_BUSY = false))) ∧
  (∀ (h : Hub) (c : Fin 2) (v : Rat) (d : Nat) (x : Int) (u : State) (s : State), s.hasHub h = true →
      (s.hkSt h c).runs = true → tempDie h (s.hkSt h c).chan = some d → tempThere s d = true →
      x = hkValue (s.hkSt h c).chan (hkCode (s.hkSt h c).chan 0 v) → u = (hkResult h c v s).2 →
      ∃ t, exec (Instr.hkEntryResult h c v) s = .next t ∧
      u.flight ++ (if tempLimit s < x then [⟨tempSource d, enc 64 x % 2 ^ 64, u.sts⟩] else []) <+: t.flight ∧
      (2 ≤ d → tempLimit s + 160 ≤ x → bit t.hotLost d = true ∧ bit t.powered d = false) ∧ (d < 2 →
          tempLimit s + 240 ≤ x → t.powerGood = false) ∧
      ((2 ≤ d ∧ x < tempLimit s + 160) ∨ (d < 2 ∧ x < tempLimit s + 240) → t.regs = u.regs ∧ t.powered = u.powered)) ∧
  (∀ (h : Hub) (c : Fin 2) (v : Rat) (s : State), s.hasHub h = false ∨ (s.hkSt h c).runs = false →
      ∃ t, exec (Instr.hkEntryResult h c v) s = .next t ∧ t = s) ∧
  (∀ (h : Hub) (k : Fin 8) (s : State), (s.pairSt h k).waiting ≠ none → s.on (pairB h k) R.HK_PL_k_CFG_EN = true →
      ∃ t, exec (Instr.hkPairTimeout h k) s = .next t ∧ pairFailed s t h k 1 ∧
      (t.flight.map (·.source) = s.flight.map (·.source) ++
        if s.on (pairB h k) R.HK_PL_k_STATUS_FAILED = false ∧
            max 1 (s.rd (pairB h k) R.HK_PL_k_CFG_FAILS) ≤ (s.pairSt h k).fails + 1 then [11] else [])) ∧
  (∀ (h : Hub) (k : Fin 8) (s : State), (s.pairSt h k).waiting = none ∨ s.on (pairB h k) R.HK_PL_k_CFG_EN = false →
      ∃ t, exec (Instr.hkPairTimeout h k) s = .next t ∧ t = s) ∧
  (∀ (v : Rat) (s : State), ∃ t, exec (Instr.ledgerConversion v) s = .next t ∧ t = s.wr (pwrB 0) R.PWR_HOLDUP_V_V
      (min 65535 (rhu (hkCode 17 0 v * 1200 * s.rd (pwrB 0) R.PWR_DIVIDER_RATIO : Nat) (4096 * 1000)).toNat)) ∧
  (∀ (h : Hub) (p : Fin 4) (s : State), s.hasHub h = true → s.on (pwmB h p) R.HK_PWM_p_CFG_EN = true →
      inAon s = false → pwmForced s h p = false → ∃ t, exec (Instr.pwmEdge h p true) s = .next t ∧
      pwmNow s t h p (decide (0 < s.rd (pwmB h p) R.HK_PWM_p_DUTY_DUTY) != s.on (pwmB h p) R.HK_PWM_p_CFG_POL) ∧
      t.on (pwmB h p) R.HK_PWM_p_STATUS_FORCED = false ∧
      t.pwmSt h p = { period := max 2 (s.rd (pwmB h p) R.HK_PWM_p_PERIOD_PERIOD), duty := s.rd (pwmB h p) R.HK_PWM_p_DUTY_DUTY }) ∧
  (∀ (h : Hub) (p : Fin 4) (s : State), s.hasHub h = true → s.on (pwmB h p) R.HK_PWM_p_CFG_EN = true →
      inAon s = false → pwmForced s h p = false → ∃ t, exec (Instr.pwmEdge h p false) s = .next t ∧
      pwmNow s t h p (decide ((s.pwmSt h p).period ≤ (s.pwmSt h p).duty) != s.on (pwmB h p) R.HK_PWM_p_CFG_POL) ∧
      t.on (pwmB h p) R.HK_PWM_p_STATUS_FORCED = false ∧ t.pwm = s.pwm) ∧
  (∀ (h : Hub) (p : Fin 4) (z : Bool) (s : State), s.hasHub h = true → s.on (pwmB h p) R.HK_PWM_p_CFG_EN = false ∨
      inAon s = true ∨ pwmForced s h p = true → ∃ t, exec (Instr.pwmEdge h p z) s = .next t ∧
      pwmNow s t h p (s.on (pwmB h p) R.HK_PWM_p_CFG_IDLE) ∧
      t.on (pwmB h p) R.HK_PWM_p_STATUS_FORCED = pwmForced s h p ∧ t.pwm = s.pwm) ∧
  (∀ (h : Hub) (p : Fin 4) (z : Bool) (s : State), s.hasHub h = false → ∃ t, exec (Instr.pwmEdge h p z) s = .next t ∧
      t = s)

/-- R355, R615 to R630: the fault collectors, heartbeat and ALIVE, and the repair of a failed pipeline, core or zoom
channel.
* FAULT_EVENT, one event of any class (R615 to R621, R624): at every collector its source counts it, becomes ACTIVE
  and may be promoted; it counts in its class, may assert IRQ_N, and is logged.
* FAULT_EVENT (R623): the first of class FAULT or SEVERE fills an empty first-fault record of the lead collector.
* FAULT_EVENT (R621, R627): a failed pipeline, core or zoom channel whose source has REPAIR waits for its repair,
  where its hub's queue of 8 has room; NOTICE and FAULT do no more.
* FAULT_EVENT of class SEVERE (R621, R622): ALIVE stops; for a control fault of the lead hub H1 takes the lead, or
  without it every plan stops and the control processor is lost; else every running or waking plan that uses the
  source's die stops with reason DIE.
* FAULT_EVENT, the `n` oldest events in one cycle: all of them are counted and logged; events that their actions
  raise stand behind those that wait.
* FAULT_EVENT, two events of one cycle (R623, R624): the highest class first, then the lowest source; the other is
  concurrent.
* FAULT_EVENT with no event on its way: nothing.
* FCOL_WINDOW_CLOSE (R618): the window of the source closes.
* FCOL_QUIET_EXIT of an ACTIVE source with a quiet time and no event in this cycle (R14, R619): RECOVERIES counts,
  and it is CLEAR again, or STUCK at RECOVER_LIMIT.
* FCOL_QUIET_EXIT otherwise, or where an event arrived in this cycle: nothing.
* PLANNER_HEARTBEAT (R625): the heartbeat is confirmed.
* HEARTBEAT_MISS (R625): the second in a row raises source 36.
* ALIVE_TOGGLE (R626): ALIVE toggles from DONE on.
* ALIVE_TOGGLE before DONE, or once a SEVERE event has stopped it: nothing.
* FCOL_CLEAR_FIRST (R623): the first-fault record is empty.
* FCOL_ALIVE_RESUME at the lead collector, with no SEVERE source (R626): ALIVE goes on.
* FCOL_ALIVE_RESUME otherwise: nothing.
* FCOL_CLEAR_SRC (R630): the selected source is CLEAR, with no recoveries.
* PIPELINE_FAULT (R627): the pipeline is broken, and its event names it and the spectrum.
* PIPELINE_FAULT of one that is broken or unusable: nothing.
* REPAIR_PLACE with no fault waiting, or while the planner does not run: nothing but PLAN_NEXT.
* REPAIR_PLACE of a resource that is not in use (R353, R355): nothing moves.
* REPAIR_PLACE where no spare is held or free (R353): the S8G is UNPROTECTED.
* REPAIR_PLACE of a failed pipeline that an input's list names (R353, R355): a hot spare of the input takes its
  place, one of the same die first; the replay starts or waits.
* REPAIR_PLACE of a failed zoom channel that is enabled (R354, R355): the lowest free channel takes its settings;
  here its replay waits.
* REPAIR_PLACE of a failed core, with a spare (R354, R355): the repair is placed; CORE_REPAIR moves its program.
* REPAIR_COMPLETE (R349, R355, R628): the lead's log takes an entry with REPAIRED; the next replay of the queue
  starts; plans that wait are checked again.
* REPAIR_COMPLETE of the last replay (R126, R266): REPLAY of the die, or REPAIR of the lead die, clears.
* REPAIR_COMPLETE with no replay in progress, or while the planner does not run: nothing but PLAN_NEXT. -/
def Obligations.FaultRowsComplete : Prop :=
  (∀ (e : Event) (l : List Event) (s : State), s.flight = e :: l → ∃ t, exec (Instr.faultEvent 1) s = .next t ∧
      t.flight = l ∧ ∀ g : Hub, s.hasHub g = true →
      t.srcSt g e.source = (srcAfter s g e.source).1 ∧ (∀ n : Fin 256, n.val ≠ e.source → t.srcSt g n = s.srcSt g n) ∧
      t.rd (fcolB g) R.FCOL_PROMOTE_COUNT_COUNT = min (2 ^ R.FCOL_PROMOTE_COUNT_COUNT.w - 1) (s.rd (fcolB g) R.FCOL_PROMOTE_COUNT_COUNT + b2n (srcAfter s g e.source).2) ∧
      t.rd (fcolB g) (clsCount (srcAfter s g e.source).1.cls) = min (2 ^ (clsCount (srcAfter s g e.source).1.cls).w - 1) (s.rd (fcolB g) (clsCount (srcAfter s g e.source).1.cls) + 1) ∧
      t.on (fcolB g) R.FCOL_STATUS_IRQ = (s.on (fcolB g) R.FCOL_STATUS_IRQ || (bit (srcAfter s g e.source).1.cfg 8 && s.on (fcolB g) (if (srcAfter s g e.source).1.cls = 0 then R.FCOL_CTRL_IRQ_NOTICE else R.FCOL_CTRL_IRQ_FAULT))) ∧
      logged s t g (logLine e (srcAfter s g e.source).1.cls (b2n (srcAfter s g e.source).2 + 16 * b2n (decide ((srcAfter s g e.source).1.state = 2)) + if g.val = s.lead ∧ 1 ≤ (srcAfter s g e.source).1.cls ∧ s.on (fcolB g) R.FCOL_FIRST_VALID = false then 4 else 0)) ∧ anyShown t g) ∧
  (∀ (e : Event) (l : List Event) (s : State), s.flight = e :: l → s.lead < 2 → s.hasHub s.lead = true →
      ∃ t, exec (Instr.faultEvent 1) s = .next t ∧ let g : Hub := Fin.ofNat 2 s.lead;
      if 1 ≤ (srcAfter s (Fin.ofNat 2 s.lead) e.source).1.cls ∧ s.on (fcolB g) R.FCOL_FIRST_VALID = false then
        t.on (fcolB g) R.FCOL_FIRST_VALID = true ∧ t.rd (fcolB g) R.FCOL_FIRST_SOURCE = e.source % 256 ∧
            t.rd (fcolB g) R.FCOL_FIRST_CLASS = (srcAfter s (Fin.ofNat 2 s.lead) e.source).1.cls ∧
          t.on (fcolB g) R.FCOL_FIRST_CONCURRENT = false ∧ (t.fcolSt g).firstSts = e.sts ∧
              (t.fcolSt g).firstDetail = e.detail
      else t.reg (fcolB g + R.FCOL_FIRST) = s.reg (fcolB g + R.FCOL_FIRST) ∧
          (t.fcolSt g).firstSts = (s.fcolSt g).firstSts ∧ (t.fcolSt g).firstDetail = (s.fcolSt g).firstDetail) ∧
  (∀ (e : Event) (l : List Event) (s : State), s.flight = e :: l → s.lead < 2 → s.hasHub s.lead = true →
      ∃ t, exec (Instr.faultEvent 1) s = .next t ∧ (∀ d k, repairKind e.source = some (k, d) →
      1 ≤ (srcAfter s (Fin.ofNat 2 s.lead) e.source).1.cls →
      bit (srcAfter s (Fin.ofNat 2 s.lead) e.source).1.cfg 9 = true →
        (repairRoom s (hubOf s d) = true →
            (t.repairSt (hubOf s d)).faults = (s.repairSt (hubOf s d)).faults ++ [⟨e.source, e.detail⟩] ∧
            t.on (planB 0) R.PLAN_STATUS_BUSY = ([0, 1].any fun g => !(t.repairSt g).faults.isEmpty || (t.repairSt g).active.isSome) ∧
      t.rd (planB 0) R.PLAN_STATUS_QUEUE0 = (t.repairSt 0).queue.length % 2 ^ R.PLAN_STATUS_QUEUE0.w ∧
          t.rd (planB 0) R.PLAN_STATUS_QUEUE1 = (t.repairSt 1).queue.length % 2 ^ R.PLAN_STATUS_QUEUE1.w) ∧
        (repairRoom s (hubOf s d) = false → t.repairs = s.repairs)) ∧
      (repairKind e.source = none ∨ (srcAfter s (Fin.ofNat 2 s.lead) e.source).1.cls = 0 ∨
          bit (srcAfter s (Fin.ofNat 2 s.lead) e.source).1.cfg 9 = false → t.repairs = s.repairs) ∧
      ((srcAfter s (Fin.ofNat 2 s.lead) e.source).1.cls < 2 → t.plans = s.plans ∧ t.lead = s.lead ∧
          t.controlLost = s.controlLost ∧
          ∀ g : Hub, t.on (fcolB g) R.FCOL_STATUS_ALIVE_STOP = s.on (fcolB g) R.FCOL_STATUS_ALIVE_STOP)) ∧
  (∀ (e : Event) (l : List Event) (s : State), s.flight = e :: l → s.lead < 2 → s.hasHub s.lead = true →
      (srcAfter s (Fin.ofNat 2 s.lead) e.source).1.cls = 2 → ∃ t, exec (Instr.faultEvent 1) s = .next t ∧
      (∀ g : Hub, s.hasHub g = true → t.on (fcolB g) R.FCOL_STATUS_ALIVE_STOP = true) ∧
      (e.source = 32 + s.lead ∨ e.source = 34 + s.lead ∨ e.source = 36 → (s.hasHub 1 = true → t.lead = 1 ∧
          t.controlLost = s.controlLost ∧ (s.lead = 0 → t.rd (chipB 1) R.CHIP_STATUS_LEAD = 1 ∧
          t.rd (chipB 0) R.CHIP_STATUS_LEAD = 0)) ∧
        (s.hasHub 1 = false → t.controlLost = true ∧ ∀ n : Fin 32, planState t n = 0 ∨ planState t n = 1 ∨
            planState t n = 2 ∨ planState t n = 6)) ∧
      (∀ d, e.source ≠ 32 + s.lead → e.source ≠ 34 + s.lead → e.source ≠ 36 → sourceDie e = some d → ∀ n : Fin 32,
        (planState s n = 4 ∨ planState s n = 3) → usesDie s n d = true → (planState t n = 1 ∨ planState t n = 2) ∧
            t.rd (planNB n) R.PLAN_n_STATE_REASON = 11)) ∧
  (∀ (n : Nat) (s : State), s.flight ≠ [] → n ≠ 0 → (∀ g : Hub, ∀ k : Fin 256, (s.srcSt g k).events < 2 ^ 32) →
      ∃ t, exec (Instr.faultEvent n) s = .next t ∧ t.flight.take (s.flight.length - n) = s.flight.drop n ∧
      ∀ g : Hub, s.hasHub g = true →
      (∀ k : Fin 256, (t.srcSt g k).events = min (2 ^ 32 - 1) ((s.srcSt g k).events + ((s.flight.take n).filter fun e => e.source = k.val).length)) ∧
      (t.fcolSt g).log.length = max (s.fcolSt g).log.length (min 256 ((s.fcolSt g).log.length + min n s.flight.length))) ∧
  (∀ (e f : Event) (l : List Event) (s : State), s.flight = e :: f :: l → e.source ≠ f.source → s.lead < 2 →
      s.hasHub s.lead = true → s.on (fcolB s.lead) R.FCOL_FIRST_VALID = false → (s.fcolSt s.lead).log.length < 255 →
      ∃ t, exec (Instr.faultEvent 2) s = .next t ∧
      let g : Hub := Fin.ofNat 2 s.lead; let a := (srcAfter s g e.source).1.cls; let b := (srcAfter s g f.source).1.cls; let x := if b < a ∨ (a = b ∧ e.source ≤ f.source) then e else f; let y := if b < a ∨ (a = b ∧ e.source ≤ f.source) then f else e;
      (1 ≤ max a b → t.rd (fcolB g) R.FCOL_FIRST_SOURCE = x.source % 256 ∧
          t.on (fcolB g) R.FCOL_FIRST_CONCURRENT = decide (1 ≤ min a b)) ∧
      (t.fcolSt g).log.map (fun z => (z.drop 12).take 1) = (s.fcolSt g).log.map (fun z => (z.drop 12).take 1) ++ [leBytes 1 x.source, leBytes 1 y.source]) ∧
  (∀ (n : Nat) (s : State), s.flight = [] ∨ n = 0 → ∃ t, exec (Instr.faultEvent n) s = .next t ∧ t = s) ∧
  (∀ (h : Hub) (n : BitVec 8) (s : State), s.hasHub h = true → ∃ t, exec (Instr.fcolWindowClose h n) s = .next t ∧
      t.srcSt h n.toNat = { s.srcSt h n.toNat with window := none } ∧ t.regs = s.regs) ∧
  (∀ (h : Hub) (n : BitVec 8) (s : State), s.hasHub h = false → ∃ t, exec (Instr.fcolWindowClose h n) s = .next t ∧
      t = s) ∧
  (∀ (h : Hub) (n : BitVec 8) (q : FaultSrc) (r m : Nat) (s : State), s.hasHub h = true → q = s.srcSt h n.toNat →
      q.state = 1 → s.rd (profB h q.profile) R.FCOL_QUIET_p_QUIET_MS ≠ 0 → q.eventAt ≠ some s.time.frc →
      r = min 255 (q.recoveries + 1) → m = s.rd (profB h q.profile) R.FCOL_PROF_p_RECOVER_LIMIT →
      ∃ t, exec (Instr.fcolQuietExit h n) s = .next t ∧
      t.srcSt h n.toNat = { q with recoveries := r, state := if m ≠ 0 ∧ m ≤ r then 2 else 0, cls := if m ≠ 0 ∧ m ≤ r then q.cls else q.cfgClass } ∧
      t.rd (fcolB h) R.FCOL_RECOVER_COUNT_COUNT = min (2 ^ R.FCOL_RECOVER_COUNT_COUNT.w - 1) (s.rd (fcolB h) R.FCOL_RECOVER_COUNT_COUNT + 1) ∧ anyShown t h) ∧
  (∀ (h : Hub) (n : BitVec 8) (s : State), s.hasHub h = false ∨ (s.srcSt h n.toNat).state ≠ 1 ∨
      s.rd (profB h (s.srcSt h n.toNat).profile) R.FCOL_QUIET_p_QUIET_MS = 0 ∨
      (s.srcSt h n.toNat).eventAt = some s.time.frc → ∃ t, exec (Instr.fcolQuietExit h n) s = .next t ∧ t = s) ∧
  (∀ (s : State), ∃ t, exec (Instr.plannerHeartbeat) s = .next t ∧ t = { s with beatsMissed := 0 }) ∧
  (∀ (s : State), ∃ t, exec (Instr.heartbeatMiss) s = .next t ∧
      if s.beatsMissed = 0 then t = { s with beatsMissed := 1 }
      else t = ({ s with beatsMissed := 0 } : State).raise 36 0) ∧
  (∀ (s : State), s.aliveRuns = true → s.on (fcolB s.lead) R.FCOL_STATUS_ALIVE_STOP = false →
      ∃ t, exec (Instr.aliveToggle) s = .next t ∧ t = { s with alive := !s.alive }) ∧
  (∀ (s : State), s.aliveRuns = false ∨ s.on (fcolB s.lead) R.FCOL_STATUS_ALIVE_STOP = true →
      ∃ t, exec (Instr.aliveToggle) s = .next t ∧ t = s) ∧
  (∀ (h : Hub) (s : State), s.hasHub h = true → ∃ t, exec (Instr.fcolClearFirst h) s = .next t ∧
      t.reg (fcolB h + R.FCOL_FIRST) = 0 ∧ (t.fcolSt h).firstSts = 0 ∧ (t.fcolSt h).firstDetail = 0 ∧
      (t.fcolSt h).log = (s.fcolSt h).log ∧ (t.fcolSt h).srcs = (s.fcolSt h).srcs) ∧
  (∀ (h : Hub) (s : State), s.hasHub h = false → ∃ t, exec (Instr.fcolClearFirst h) s = .next t ∧ t = s) ∧
  (∀ (h : Hub) (s : State), h.val = s.lead → s.on (fcolB h) R.FCOL_STATUS_ANY_SEVERE = false →
      ∃ t, exec (Instr.fcolAliveResume h) s = .next t ∧ ∀ g : Hub, s.hasHub g = true →
      t.on (fcolB g) R.FCOL_STATUS_ALIVE_STOP = false) ∧
  (∀ (h : Hub) (s : State), h.val ≠ s.lead ∨ s.on (fcolB h) R.FCOL_STATUS_ANY_SEVERE = true →
      ∃ t, exec (Instr.fcolAliveResume h) s = .next t ∧ t = s) ∧
  (∀ (h : Hub) (s : State), s.hasHub h = true → ∃ t, exec (Instr.fcolClearSrc h) s = .next t ∧
      t.srcSt h (selSrc s h) = { s.srcSt h (selSrc s h) with state := 0, recoveries := 0, cls := (s.srcSt h (selSrc s h)).cfgClass } ∧ anyShown t h) ∧
  (∀ (h : Hub) (s : State), s.hasHub h = false → ∃ t, exec (Instr.fcolClearSrc h) s = .next t ∧ t = s) ∧
  (∀ (d : TDie) (p : Fin 4) (n : BitVec 56) (s : State), s.usableT d = true →
      s.brokenPipes.contains (4 * d.val + p.val) = false → ∃ t, exec (Instr.pipelineFault d p n) s = .next t ∧
      t = { s.raise (96 + 8 * d) (p.val * 2 ^ 56 + n.toNat) with brokenPipes := (4 * d.val + p.val) :: s.brokenPipes }) ∧
  (∀ (d : TDie) (p : Fin 4) (n : BitVec 56) (s : State), s.usableT d = false ∨
      s.brokenPipes.contains (4 * d.val + p.val) = true → ∃ t, exec (Instr.pipelineFault d p n) s = .next t ∧ t = s) ∧
  (∀ (h : Hub) (s : State), plannerRuns s = false ∨ (s.repairSt h).faults = [] →
      ∃ t, exec (Instr.repairPlace h) s = .next t ∧ (plannerRuns s = false → t = s) ∧ (plannerRuns s = true →
      t = showNext s)) ∧
  (∀ (h : Hub) (f : Repair) (l : List Repair) (s : State), plannerRuns s = true → (s.repairSt h).faults = f :: l →
      repairNeeded s f = false → ∃ t, exec (Instr.repairPlace h) s = .next t ∧ (t.repairSt h).faults = l ∧
      (t.repairSt h).active = (s.repairSt h).active ∧ (t.repairSt h).queue = (s.repairSt h).queue ∧
      t.on (planB 0) R.PLAN_STATUS_BUSY = ([0, 1].any fun g => !(t.repairSt g).faults.isEmpty || (t.repairSt g).active.isSome) ∧
      t.rd (planB 0) R.PLAN_STATUS_QUEUE0 = (t.repairSt 0).queue.length % 2 ^ R.PLAN_STATUS_QUEUE0.w ∧
          t.rd (planB 0) R.PLAN_STATUS_QUEUE1 = (t.repairSt 1).queue.length % 2 ^ R.PLAN_STATUS_QUEUE1.w ∧
      t.rd (planB 0) R.PLAN_REPAIR_COUNT_REPAIRS = s.rd (planB 0) R.PLAN_REPAIR_COUNT_REPAIRS ∧ t.plans = s.plans ∧
          ∀ p, ¬ inBlocks [.plan] p → t.reg p = s.reg p) ∧
  (∀ (h : Hub) (f : Repair) (l : List Repair) (s : State), plannerRuns s = true → (s.repairSt h).faults = f :: l →
      repairNeeded s f = true → (placeSpare f s).isNone = true → ∃ t, exec (Instr.repairPlace h) s = .next t ∧
      (t.repairSt h).faults = l ∧ t.on (planB 0) R.PLAN_STATUS_UNPROTECTED = true ∧
      (t.repairSt h).active = (s.repairSt h).active ∧ (t.repairSt h).queue = (s.repairSt h).queue ∧
      t.on (planB 0) R.PLAN_STATUS_BUSY = ([0, 1].any fun g => !(t.repairSt g).faults.isEmpty || (t.repairSt g).active.isSome) ∧
      t.rd (planB 0) R.PLAN_STATUS_QUEUE0 = (t.repairSt 0).queue.length % 2 ^ R.PLAN_STATUS_QUEUE0.w ∧
          t.rd (planB 0) R.PLAN_STATUS_QUEUE1 = (t.repairSt 1).queue.length % 2 ^ R.PLAN_STATUS_QUEUE1.w) ∧
  (∀ (h : Hub) (f : Repair) (l : List Repair) (d i : Nat) (s : State), plannerRuns s = true →
      (s.repairSt h).faults = f :: l → repairKind f.source = some (0, d) → i = inputOf d → repairNeeded s f = true →
      (hotSpares s i) ≠ [] → s.usableT (leadOf i) = true → tAnswers s (leadOf i) = true → s.resetLow = false →
      ∃ t, exec (Instr.repairPlace h) s = .next t ∧ (t.repairSt h).faults = l ∧
      (if (s.repairSt h).active = none then (t.repairSt h).active = some f ∧
      (t.repairSt h).queue = (s.repairSt h).queue
      else (t.repairSt h).active = (s.repairSt h).active ∧ (t.repairSt h).queue = (s.repairSt h).queue ++ [f]) ∧
          t.rd (planB 0) R.PLAN_REPAIR_COUNT_REPAIRS = min (2 ^ R.PLAN_REPAIR_COUNT_REPAIRS.w - 1) (s.rd (planB 0) R.PLAN_REPAIR_COUNT_REPAIRS + 1) ∧ t.on (planB 0) R.PLAN_STATUS_BUSY = ([0, 1].any fun g => !(t.repairSt g).faults.isEmpty || (t.repairSt g).active.isSome) ∧
      t.rd (planB 0) R.PLAN_STATUS_QUEUE0 = (t.repairSt 0).queue.length % 2 ^ R.PLAN_STATUS_QUEUE0.w ∧
          t.rd (planB 0) R.PLAN_STATUS_QUEUE1 = (t.repairSt 1).queue.length % 2 ^ R.PLAN_STATUS_QUEUE1.w ∧
          ∃ p ∈ hotSpares s i, (∀ x : Fin 16, (x.val ∈ mapPipes t i ↔ x.val = p ∨ (x.val ∈ mapPipes s i ∧
          x.val ≠ 4 * d + f.detail / 2 ^ 56))) ∧
      ((hotSpares s i).any (fun x => x / 4 == d) = true → p / 4 = d)) ∧
  (∀ (h : Hub) (f : Repair) (l : List Repair) (d m : Nat) (s : State), plannerRuns s = true →
      (s.repairSt h).faults = f :: l → repairKind f.source = some (3, d) → repairNeeded s f = true → m < 128 →
      zoomFree s d m = true → m ≠ f.detail → f.detail < 128 → (∀ n : Fin 128, n.val < m → zoomFree s d n = false ∨
      n.val = f.detail) → (s.repairSt h).active ≠ none → ∃ t, exec (Instr.repairPlace h) s = .next t ∧
      (t.repairSt h).faults = l ∧ (if (s.repairSt h).active = none then (t.repairSt h).active = some f ∧
      (t.repairSt h).queue = (s.repairSt h).queue
      else (t.repairSt h).active = (s.repairSt h).active ∧ (t.repairSt h).queue = (s.repairSt h).queue ++ [f]) ∧
          t.rd (planB 0) R.PLAN_REPAIR_COUNT_REPAIRS = min (2 ^ R.PLAN_REPAIR_COUNT_REPAIRS.w - 1) (s.rd (planB 0) R.PLAN_REPAIR_COUNT_REPAIRS + 1) ∧ t.on (planB 0) R.PLAN_STATUS_BUSY = ([0, 1].any fun g => !(t.repairSt g).faults.isEmpty || (t.repairSt g).active.isSome) ∧
      t.rd (planB 0) R.PLAN_STATUS_QUEUE0 = (t.repairSt 0).queue.length % 2 ^ R.PLAN_STATUS_QUEUE0.w ∧
          t.rd (planB 0) R.PLAN_STATUS_QUEUE1 = (t.repairSt 1).queue.length % 2 ^ R.PLAN_STATUS_QUEUE1.w ∧
          (t.zoom d f.detail).movedTo = some m ∧ t.on (zcB d f.detail) R.ZC_n_CTRL_EN = false ∧
      (∀ o ∈ ([0, 4, 8, 12, 16, 20, 24, 28, 32, 36] : List Nat),
          t.reg (zcB d m + zcLo + o) = s.reg (zcB d f.detail + zcLo + o))) ∧
  (∀ (h : Hub) (f : Repair) (l : List Repair) (d : Nat) (s : State), plannerRuns s = true →
      (s.repairSt h).faults = f :: l → repairKind f.source = some (1, d) → repairNeeded s f = true →
      (∃ k : Fin 132, s.onC d k R.CORE_c_STATUS_SPARE = true ∧ k.val ≠ f.detail) →
      ∃ t, exec (Instr.repairPlace h) s = .next t ∧ (t.repairSt h).faults = l ∧
      (if (s.repairSt h).active = none then (t.repairSt h).active = some f ∧
      (t.repairSt h).queue = (s.repairSt h).queue
      else (t.repairSt h).active = (s.repairSt h).active ∧ (t.repairSt h).queue = (s.repairSt h).queue ++ [f]) ∧
          t.rd (planB 0) R.PLAN_REPAIR_COUNT_REPAIRS = min (2 ^ R.PLAN_REPAIR_COUNT_REPAIRS.w - 1) (s.rd (planB 0) R.PLAN_REPAIR_COUNT_REPAIRS + 1) ∧ t.on (planB 0) R.PLAN_STATUS_BUSY = ([0, 1].any fun g => !(t.repairSt g).faults.isEmpty || (t.repairSt g).active.isSome) ∧
      t.rd (planB 0) R.PLAN_STATUS_QUEUE0 = (t.repairSt 0).queue.length % 2 ^ R.PLAN_STATUS_QUEUE0.w ∧
          t.rd (planB 0) R.PLAN_STATUS_QUEUE1 = (t.repairSt 1).queue.length % 2 ^ R.PLAN_STATUS_QUEUE1.w ∧
          t.cores = s.cores) ∧
  (∀ (h : Hub) (f : Repair) (l : List (Fin 32 × PlanNeed)) (s : State), plannerRuns s = true →
      (s.repairSt h).active = some f → s.lead < 2 → ∃ t, exec (Instr.repairComplete h l) s = .next t ∧
      ∃ u, t = showNext (recheckAll l u) ∧ (u.repairSt h).active = (s.repairSt h).queue.head? ∧
      (u.repairSt h).queue = (s.repairSt h).queue.tail ∧
      (u.repairSt h).faults = (s.repairSt h).faults ∧ (∀ g : Hub, g.val = s.lead →
          logged s u g (logLine ⟨f.source, f.detail, s.sts⟩ (s.srcSt g f.source).cls 8))) ∧
  (∀ (h : Hub) (f : Repair) (s : State), plannerRuns s = true → (s.repairSt h).active = some f →
      (s.repairSt h).queue = [] → ∃ t, exec (Instr.repairComplete h []) s = .next t ∧
      (∀ d, repairKind f.source = some (3, d) → t.on (chzB d) R.CHZ_STATUS_REPLAY = false ∧
      (t.zoom d f.detail).movedTo = none) ∧
      (∀ d, repairKind f.source = some (0, d) → t.on (wbB (leadOf (inputOf d))) R.WB_STATUS_REPAIR = false)) ∧
  (∀ (h : Hub) (l : List (Fin 32 × PlanNeed)) (s : State), plannerRuns s = false ∨ (s.repairSt h).active = none →
      ∃ t, exec (Instr.repairComplete h l) s = .next t ∧ (plannerRuns s = false → t = s) ∧ (plannerRuns s = true →
      t = showNext s))

/-- R639 to R643: frames of an SPI host port and its write buffer. Reads and writes by the port's path are what
RegisterRowsComplete says.
* SPI_READ of no words from a port whose posted writes have taken effect (R640 to R642): nothing is sent.
* SPI_READ of one word more: it is read by the port's path, with what such a read does, at the next address, and
  sent after its fillers behind 0x5A; one that is late is sent as 0x5E with zeros, with TMO.
* SPI_READ with writes posted (R642): they take effect first.
* SPI_READ before MEMORY or in AON (R643): every word is 0x5E with zeros; in AON it also starts the wake.
* SPI_READ of a port that does not work (R639): nothing.
* SPI_READ_FIXED of no words from a port whose posted writes have taken effect (R640 to R642): nothing is sent.
* SPI_READ_FIXED of one word more: it is read by the port's path, with what such a read does, at the same address,
  and sent after its fillers behind 0x5A; one that is late is sent as 0x5E with zeros, with TMO.
* SPI_READ_FIXED with writes posted (R642): they take effect first.
* SPI_READ_FIXED before MEMORY or in AON (R643): every word is 0x5E with zeros; in AON it also starts the wake.
* SPI_READ_FIXED of a port that does not work (R639): nothing.
* SPI_WRITE (R642): each word is posted at its address, or discarded with WERR where 64 wait.
* SPI_WRITE before MEMORY or in AON (R643): discarded with WERR; in AON it also starts the wake.
* SPI_WRITE of a port that does not work: nothing.
* SPI_WRITE_FIXED (R642): each word is posted at the one address, or discarded with WERR where 64 wait.
* SPI_WRITE_FIXED before MEMORY or in AON (R643): discarded with WERR; in AON it also starts the wake.
* SPI_WRITE_FIXED of a port that does not work: nothing.
* SPI_STATUS (R640, R643): the status byte goes out, and WERR and TMO clear.
* SPI_ID (R640, R643): CHIP_PART goes out.
* SPI_READ_TIMEOUT (R641): the word is sent as 0x5E with zeros and TMO, and the read still has its effects.
* SPI_WRITE_187 with nothing posted: nothing.
* SPI_WRITE_187 (R640, R642): the oldest posted write takes effect by the port's path; one that is ignored sets
  WERR. -/
def Obligations.SpiRowsComplete : Prop :=
  (∀ (h : Hub) (a : BitVec 32) (s : State), spiWorks s h = true → spiReady s = true → (s.spiSt h).posted = [] →
      ∃ t, exec (Instr.spiRead h a []) s = .next t ∧ t = s.modSpi h fun q => { q with out := [] }) ∧
  (∀ (h : Hub) (a : BitVec 32) (l : List (Nat × Bool)) (n : Nat) (u : Bool) (s : State), spiWorks s h = true →
      spiReady s = true → (s.spiSt h).posted = [] → ∃ t, exec (Instr.spiRead h a (l ++ [(n, u)])) s = .next t ∧
      ∃ r v, exec (.spiRead h a l) s = .next r ∧ v = hostRead (.spi h) ((a.toNat + 4 * l.length) % 2 ^ 32) r ∧
      (t.spiSt h).tmo = ((v.spiSt h).tmo || u) ∧
      (t.spiSt h).out = (v.spiSt h).out ++ List.replicate n 0xFF ++ (if u then [0x5E, 0, 0, 0, 0] else 0x5A :: beBytes 4 v.readData.toNat) ∧ t.regs = v.regs ∧ t.readData = v.readData) ∧
  (∀ (h : Hub) (a : BitVec 32) (l : List (Nat × Bool)) (s : State), spiWorks s h = true → spiReady s = true →
      (s.spiSt h).posted ≠ [] → ∃ t, exec (Instr.spiRead h a l) s = .next t ∧
      ∃ u, exec (.spiWriteDrain h) s = .next u ∧ exec (.spiRead h a l) u = .next t) ∧
  (∀ (h : Hub) (a : BitVec 32) (l : List (Nat × Bool)) (s : State), spiWorks s h = true → spiReady s = false →
      ∃ t, exec (Instr.spiRead h a l) s = .next t ∧
      (t.spiSt h).out = l.flatMap (fun x => List.replicate x.1 0xFF ++ [0x5E, 0, 0, 0, 0]) ∧
      (t.spiSt h).tmo = ((s.spiSt h).tmo || !l.isEmpty) ∧ (t.spiSt h).posted = (s.spiSt h).posted ∧
      (inAon s = true → 8 ≤ bootState s → ∃ u, exec .aonExit u = .next t ∧ u.regs = s.regs ∧ u.spiSt h = t.spiSt h) ∧
          (inAon s = false ∨ bootState s < 8 → t.regs = s.regs)) ∧
  (∀ (h : Hub) (a : BitVec 32) (l : List (Nat × Bool)) (s : State), spiWorks s h = false →
      ∃ t, exec (Instr.spiRead h a l) s = .next t ∧ t = s) ∧
  (∀ (h : Hub) (a : BitVec 32) (s : State), spiWorks s h = true → spiReady s = true → (s.spiSt h).posted = [] →
      ∃ t, exec (Instr.spiReadFixed h a []) s = .next t ∧ t = s.modSpi h fun q => { q with out := [] }) ∧
  (∀ (h : Hub) (a : BitVec 32) (l : List (Nat × Bool)) (n : Nat) (u : Bool) (s : State), spiWorks s h = true →
      spiReady s = true → (s.spiSt h).posted = [] → ∃ t, exec (Instr.spiReadFixed h a (l ++ [(n, u)])) s = .next t ∧
      ∃ r v, exec (.spiReadFixed h a l) s = .next r ∧ v = hostRead (.spi h) (a.toNat) r ∧
      (t.spiSt h).tmo = ((v.spiSt h).tmo || u) ∧
      (t.spiSt h).out = (v.spiSt h).out ++ List.replicate n 0xFF ++ (if u then [0x5E, 0, 0, 0, 0] else 0x5A :: beBytes 4 v.readData.toNat) ∧ t.regs = v.regs ∧ t.readData = v.readData) ∧
  (∀ (h : Hub) (a : BitVec 32) (l : List (Nat × Bool)) (s : State), spiWorks s h = true → spiReady s = true →
      (s.spiSt h).posted ≠ [] → ∃ t, exec (Instr.spiReadFixed h a l) s = .next t ∧
      ∃ u, exec (.spiWriteDrain h) s = .next u ∧ exec (.spiReadFixed h a l) u = .next t) ∧
  (∀ (h : Hub) (a : BitVec 32) (l : List (Nat × Bool)) (s : State), spiWorks s h = true → spiReady s = false →
      ∃ t, exec (Instr.spiReadFixed h a l) s = .next t ∧
      (t.spiSt h).out = l.flatMap (fun x => List.replicate x.1 0xFF ++ [0x5E, 0, 0, 0, 0]) ∧
      (t.spiSt h).tmo = ((s.spiSt h).tmo || !l.isEmpty) ∧ (t.spiSt h).posted = (s.spiSt h).posted ∧
      (inAon s = true → 8 ≤ bootState s → ∃ u, exec .aonExit u = .next t ∧ u.regs = s.regs ∧ u.spiSt h = t.spiSt h) ∧
          (inAon s = false ∨ bootState s < 8 → t.regs = s.regs)) ∧
  (∀ (h : Hub) (a : BitVec 32) (l : List (Nat × Bool)) (s : State), spiWorks s h = false →
      ∃ t, exec (Instr.spiReadFixed h a l) s = .next t ∧ t = s) ∧
  (∀ (h : Hub) (a : BitVec 32) (l : List Word) (s : State), spiWorks s h = true → spiReady s = true →
      ∃ t, exec (Instr.spiWrite h a l) s = .next t ∧
      (t.spiSt h).posted = (s.spiSt h).posted ++ (l.zipIdx.map fun x => ((a.toNat + 4 * x.2) % 2 ^ 32, x.1.toNat)).take (64 - (s.spiSt h).posted.length) ∧
      (t.spiSt h).werr = ((s.spiSt h).werr || decide (0 < l.length ∧ 64 < (s.spiSt h).posted.length + l.length)) ∧
          (t.spiSt h).out = List.replicate (4 * l.length) 0xFF ∧ t.regs = s.regs) ∧
  (∀ (h : Hub) (a : BitVec 32) (l : List Word) (s : State), spiWorks s h = true → spiReady s = false →
      ∃ t, exec (Instr.spiWrite h a l) s = .next t ∧ (t.spiSt h).posted = (s.spiSt h).posted ∧
      (t.spiSt h).werr = true ∧ (t.spiSt h).out = List.replicate (4 * l.length) 0xFF ∧
      (inAon s = true → 8 ≤ bootState s → ∃ u, exec .aonExit u = .next t ∧ u.regs = s.regs ∧ u.spiSt h = t.spiSt h) ∧
          (inAon s = false ∨ bootState s < 8 → t.regs = s.regs)) ∧
  (∀ (h : Hub) (a : BitVec 32) (l : List Word) (s : State), spiWorks s h = false →
      ∃ t, exec (Instr.spiWrite h a l) s = .next t ∧ t = s) ∧
  (∀ (h : Hub) (a : BitVec 32) (l : List Word) (s : State), spiWorks s h = true → spiReady s = true →
      ∃ t, exec (Instr.spiWriteFixed h a l) s = .next t ∧
      (t.spiSt h).posted = (s.spiSt h).posted ++ (l.zipIdx.map fun x => (a.toNat, x.1.toNat)).take (64 - (s.spiSt h).posted.length) ∧
      (t.spiSt h).werr = ((s.spiSt h).werr || decide (0 < l.length ∧ 64 < (s.spiSt h).posted.length + l.length)) ∧
          (t.spiSt h).out = List.replicate (4 * l.length) 0xFF ∧ t.regs = s.regs) ∧
  (∀ (h : Hub) (a : BitVec 32) (l : List Word) (s : State), spiWorks s h = true → spiReady s = false →
      ∃ t, exec (Instr.spiWriteFixed h a l) s = .next t ∧ (t.spiSt h).posted = (s.spiSt h).posted ∧
      (t.spiSt h).werr = true ∧ (t.spiSt h).out = List.replicate (4 * l.length) 0xFF ∧
      (inAon s = true → 8 ≤ bootState s → ∃ u, exec .aonExit u = .next t ∧ u.regs = s.regs ∧ u.spiSt h = t.spiSt h) ∧
          (inAon s = false ∨ bootState s < 8 → t.regs = s.regs)) ∧
  (∀ (h : Hub) (a : BitVec 32) (l : List Word) (s : State), spiWorks s h = false →
      ∃ t, exec (Instr.spiWriteFixed h a l) s = .next t ∧ t = s) ∧
  (∀ (h : Hub) (s : State), spiWorks s h = true → ∃ t, exec (Instr.spiStatus h) s = .next t ∧
      t = s.modSpi h fun q => { q with out := [BitVec.ofNat 8 (b2n (spiReady s) + 2 * b2n (inAon s && decide (8 ≤ bootState s)) + 4 * b2n q.werr + 8 * b2n q.tmo + 16 * b2n (irqLow s))], werr := false, tmo := false }) ∧
  (∀ (h : Hub) (s : State), spiWorks s h = true → ∃ t, exec (Instr.spiId h) s = .next t ∧
      t = s.modSpi h fun q => { q with out := beBytes 4 (s.reg (chipB h)).toNat }) ∧
  (∀ (h : Hub) (a : BitVec 32) (v : State) (s : State), spiWorks s h = true → spiReady s = true →
      v = hostRead (.spi h) a.toNat s → ∃ t, exec (Instr.spiReadTimeout h a) s = .next t ∧
      t = v.modSpi h fun q => { q with out := q.out ++ [0x5E, 0, 0, 0, 0], tmo := true }) ∧
  (∀ (h : Hub) (s : State), (s.spiSt h).posted = [] → ∃ t, exec (Instr.spiWriteDrain h) s = .next t ∧ t = s) ∧
  (∀ (h : Hub) (a v : Nat) (l : List (Nat × Nat)) (u : State) (s : State), (s.spiSt h).posted = (a, v) :: l →
      u = hostWrite (.spi h) a v s → ∃ t, exec (Instr.spiWriteDrain h) s = .next t ∧
      t = u.modSpi h fun q => { q with posted := l, werr := q.werr || decide (u.access ≠ 0) }) ∧
  (∀ (h : Hub) (s : State), spiWorks s h = false → ∃ t, exec (Instr.spiStatus h) s = .next t ∧ t = s) ∧
  (∀ (h : Hub) (s : State), spiWorks s h = false → ∃ t, exec (Instr.spiId h) s = .next t ∧ t = s) ∧
  (∀ (h : Hub) (a : BitVec 32) (s : State), spiWorks s h = false ∨ spiReady s = false →
      ∃ t, exec (Instr.spiReadTimeout h a) s = .next t ∧ t = s)

/-- R645 to R649: the rows that read a value through a mailbox. `mboxAsked` says what the bank of the path holds once
the request has landed: it is in progress with the value's words as they stood in that cycle, or it is ignored with
OVERRUN while another is in progress.
* TIME_NOW, TIME_FRC: the STS and the free-running counter of the cycle.
* TIME_RS: R_S of the input, R_L in the S8G-2D; zeros for an input that the part does not have (R6); all ones before
  the count has started (log entry 154).
* TIME_STEP_LOG: r1, the time before and the time after. TIME_CLOCK_ID_READ, TIME_GM_ID: the identities.
* PLAN_SCHEDULE_READ, PLAN_ENERGY_WORK, LEDGER_ENERGY: the plan's times, its energy in µJ or its work, and a
  domain's energy.
* TARN_HEAD, TARN_OLDEST: the value is taken when the request reaches the die; zeros for an input that the part does
  not have (R6).
* TDC_POP (R446): the oldest entry leaves its queue; EMPTY and zeros for an empty one; a request that BUSY turns
  away pops nothing.
* TDC_IVPOP (R448): as TDC_POP, of an interval unit's queue.
* TDC_GATE_TIME_READ, NFS_CAT_STS, DMA_AR, DDR_FREEZE_ADDR, DDR_FREEZE_STS, ETH_ADDRESS_READ, FCOL_FIRST_DETAIL: the
  value that the row names.
* FCOL_LOG (R624): as TDC_POP, of the fault log.
* Every row that reads, while the S8G is in reset or its path does not reach the hub (R631, R632): nothing.
* Every row that reads, by the planner at a hub that the part does not have (R6, R648): an access violation, and
  nothing else.
* MBOX_REQUEST_COMPLETE of a read (R646, R648): VALID or EMPTY, and the words in MBOX_DATA; the value of a die as
  the die holds it.
* MBOX_LAST_WORD_READ (R646): the word, and VALID clears; with no word there (WORDS 0) it reads the first and
  nothing changes. -/
def Obligations.MboxReadRowsComplete : Prop :=
  (∀ (h : Hub) (p : Path) (s : State), mboxUp s h p → ∃ t, exec (Instr.timeNow h p) s = .next t ∧
      (t.mboxSt h (bankOf p)) = mboxAsked (s.mboxSt h (bankOf p)) 1 0 (wordsOf 3 s.sts) ∧
      t = { s with access := 0, mbox := t.mbox }) ∧
  (∀ (h : Hub) (p : Path) (s : State), mboxUp s h p → ∃ t, exec (Instr.timeFrc h p) s = .next t ∧
      (t.mboxSt h (bankOf p)) = mboxAsked (s.mboxSt h (bankOf p)) 2 0 (wordsOf 2 s.time.frc) ∧
      t = { s with access := 0, mbox := t.mbox }) ∧
  (∀ (h : Hub) (p : Path) (n : Fin 2) (s : State), mboxUp s h p → ∃ t, exec (Instr.timeRs h p n) s = .next t ∧
      (t.mboxSt h (bankOf p)) = mboxAsked (s.mboxSt h (bankOf p)) 3 n (wordsOf 2 (if s.inputs ≤ n.val then 0 else ((if s.part = .s2d then s.time.rl else if n.val = 0 then s.time.rs0 else s.time.rs1 : Option Nat).getD (2 ^ 64 - 1)))) ∧ t = { s with access := 0, mbox := t.mbox }) ∧
  (∀ (h : Hub) (p : Path) (s : State), mboxUp s h p → ∃ t, exec (Instr.timeStepLog h p) s = .next t ∧
      (t.mboxSt h (bankOf p)) = mboxAsked (s.mboxSt h (bankOf p)) 5 0 (wordsOf 8 (s.time.stepLog.1 + 2 ^ 64 * stsOf s.time.stepLog.2.1 + 2 ^ 160 * stsOf s.time.stepLog.2.2)) ∧ t = { s with access := 0, mbox := t.mbox }) ∧
  (∀ (h : Hub) (p : Path) (s : State), mboxUp s h p → ∃ t, exec (Instr.timeClockIdRead h p) s = .next t ∧
      (t.mboxSt h (bankOf p)) = mboxAsked (s.mboxSt h (bankOf p)) 6 0 (wordsOf 2 (s.time.clockId.getD 0)) ∧
      t = { s with access := 0, mbox := t.mbox }) ∧
  (∀ (h : Hub) (p : Path) (s : State), mboxUp s h p → ∃ t, exec (Instr.timeGmId h p) s = .next t ∧
      (t.mboxSt h (bankOf p)) = mboxAsked (s.mboxSt h (bankOf p)) 7 0 (wordsOf 2 s.time.gmId) ∧
      t = { s with access := 0, mbox := t.mbox }) ∧
  (∀ (h : Hub) (p : Path) (k : Fin 3) (n : Fin 32) (s : State), mboxUp s h p →
      ∃ t, exec (Instr.planScheduleRead h p k n) s = .next t ∧
      (t.mboxSt h (bankOf p)) = mboxAsked (s.mboxSt h (bankOf p)) (16 + k) n (wordsOf 2 (if k.val = 0 then (s.planSt n).start else if k.val = 1 then (s.planSt n).duration else (s.planSt n).period)) ∧ t = { s with access := 0, mbox := t.mbox }) ∧
  (∀ (h : Hub) (p : Path) (w : Bool) (n : Fin 32) (s : State), mboxUp s h p →
      ∃ t, exec (Instr.planEnergyWork h p w n) s = .next t ∧
      (t.mboxSt h (bankOf p)) = mboxAsked (s.mboxSt h (bankOf p)) (if w then 20 else 19) n (wordsOf 2 (if w then (s.planSt n).work else (s.planSt n).energy / 32768)) ∧ t = { s with access := 0, mbox := t.mbox }) ∧
  (∀ (h : Hub) (p : Path) (d : Fin 13) (s : State), mboxUp s h p → ∃ t, exec (Instr.ledgerEnergy h p d) s = .next t ∧
      (t.mboxSt h (bankOf p)) = mboxAsked (s.mboxSt h (bankOf p)) 24 d (wordsOf 2 (tget noNat s.energy d / 32768)) ∧
      t = { s with access := 0, mbox := t.mbox }) ∧
  (∀ (h : Hub) (p : Path) (n : Fin 2) (s : State), mboxUp s h p → ∃ t, exec (Instr.tarnHead h p n) s = .next t ∧
      (t.mboxSt h (bankOf p)) = (if s.inputs ≤ n.val then mboxAsked (s.mboxSt h (bankOf p)) 32 n [0, 0] else mboxAsked (s.mboxSt h (bankOf p)) 32 n [] false true) ∧ t = { s with access := 0, mbox := t.mbox }) ∧
  (∀ (h : Hub) (p : Path) (n : Fin 2) (s : State), mboxUp s h p → ∃ t, exec (Instr.tarnOldest h p n) s = .next t ∧
      (t.mboxSt h (bankOf p)) = (if s.inputs ≤ n.val then mboxAsked (s.mboxSt h (bankOf p)) 33 n [0, 0] else mboxAsked (s.mboxSt h (bankOf p)) 33 n [] false true) ∧ t = { s with access := 0, mbox := t.mbox }) ∧
  (∀ (h : Hub) (p : Path) (n : Fin 8) (e : Nat) (l : List Nat) (s : State), mboxUp s h p →
      (s.tdcIn (8 * h + n)).fifo = e :: l → ∃ t, exec (Instr.tdcPop h p n) s = .next t ∧
      (t.mboxSt h (bankOf p)) = mboxAsked (s.mboxSt h (bankOf p)) 48 n (wordsOf 4 e) ∧
      ((s.mboxSt h (bankOf p)).busyBit = false → (t.tdcIn (8 * h + n)).fifo = l ∧
      t.rd (tdcInB (8 * h + n)) R.TDC_n_FILL_FILL = l.length % 2 ^ R.TDC_n_FILL_FILL.w) ∧
      ((s.mboxSt h (bankOf p)).busyBit = true → t.tdc = s.tdc) ∧
      t = { s with access := 0, mbox := t.mbox, tdc := t.tdc, regs := t.regs } ∧ ∀ x, ¬ inBlocks [.tdc] x →
          t.reg x = s.reg x) ∧
  (∀ (h : Hub) (p : Path) (n : Fin 8) (s : State), mboxUp s h p → (s.tdcIn (8 * h + n)).fifo = [] →
      ∃ t, exec (Instr.tdcPop h p n) s = .next t ∧
      (t.mboxSt h (bankOf p)) = mboxAsked (s.mboxSt h (bankOf p)) 48 n [0, 0, 0, 0] true ∧
      t = { s with access := 0, mbox := t.mbox }) ∧
  (∀ (h : Hub) (p : Path) (m : Fin 4) (e : Nat) (l : List Nat) (s : State), mboxUp s h p →
      (s.ivUnit h m).fifo = e :: l → ∃ t, exec (Instr.tdcIvpop h p m) s = .next t ∧
      (t.mboxSt h (bankOf p)) = mboxAsked (s.mboxSt h (bankOf p)) 49 m (wordsOf 4 e) ∧
      ((s.mboxSt h (bankOf p)).busyBit = false → (t.ivUnit h m).fifo = l ∧
      t.rd (ivB h m) R.IV_m_FILL_FILL = l.length % 2 ^ R.IV_m_FILL_FILL.w) ∧ ((s.mboxSt h (bankOf p)).busyBit = true →
      t.iv = s.iv) ∧
      t = { s with access := 0, mbox := t.mbox, iv := t.iv, regs := t.regs } ∧ ∀ x, ¬ inBlocks [.tdc] x →
          t.reg x = s.reg x) ∧
  (∀ (h : Hub) (p : Path) (m : Fin 4) (s : State), mboxUp s h p → (s.ivUnit h m).fifo = [] →
      ∃ t, exec (Instr.tdcIvpop h p m) s = .next t ∧
      (t.mboxSt h (bankOf p)) = mboxAsked (s.mboxSt h (bankOf p)) 49 m [0, 0, 0, 0] true ∧
      t = { s with access := 0, mbox := t.mbox }) ∧
  (∀ (h : Hub) (p : Path) (c : Bool) (n : Fin 8) (s : State), mboxUp s h p →
      ∃ t, exec (Instr.tdcGateTimeRead h p c n) s = .next t ∧
      (t.mboxSt h (bankOf p)) = mboxAsked (s.mboxSt h (bankOf p)) (if c then 51 else 50) n (wordsOf 3 (if c then (s.tdcIn (8 * h + n)).gateClose else (s.tdcIn (8 * h + n)).gateOpen)) ∧ t = { s with access := 0, mbox := t.mbox }) ∧
  (∀ (h : Hub) (p : Path) (c : Bool) (s : State), mboxUp s h p → ∃ t, exec (Instr.nfsCatSts h p c) s = .next t ∧
      (t.mboxSt h (bankOf p)) = mboxAsked (s.mboxSt h (bankOf p)) (if c then 66 else 65) 0 (wordsOf 3 (if c then (s.nfsSt h).catClose else (s.nfsSt h).catOpen)) ∧ t = { s with access := 0, mbox := t.mbox }) ∧
  (∀ (h : Hub) (p : Path) (k : Fin 16) (a : Fin 4) (s : State), mboxUp s h p →
      ∃ t, exec (Instr.dmaAr h p k a) s = .next t ∧
      (t.mboxSt h (bankOf p)) = mboxAsked (s.mboxSt h (bankOf p)) 80 (4 * k + a) (wordsOf 4 ((dmaAr s h k a).base % 2 ^ 40 + 2 ^ 64 * ((dmaAr s h k a).size % 2 ^ 32) + 2 ^ 96 * ((dmaAr s h k a).off % 2 ^ 32))) ∧ t = { s with access := 0, mbox := t.mbox }) ∧
  (∀ (h : Hub) (p : Path) (c : Fin 2) (s : State), mboxUp s h p → ∃ t, exec (Instr.ddrFreezeAddr h p c) s = .next t ∧
      (t.mboxSt h (bankOf p)) = mboxAsked (s.mboxSt h (bankOf p)) 96 c (wordsOf 2 (s.ddrSt h c).freezeAddr) ∧
      t = { s with access := 0, mbox := t.mbox }) ∧
  (∀ (h : Hub) (p : Path) (c : Fin 2) (s : State), mboxUp s h p → ∃ t, exec (Instr.ddrFreezeSts h p c) s = .next t ∧
      (t.mboxSt h (bankOf p)) = mboxAsked (s.mboxSt h (bankOf p)) 97 c (wordsOf 3 (s.ddrSt h c).freezeSts) ∧
      t = { s with access := 0, mbox := t.mbox }) ∧
  (∀ (h : Hub) (p : Path) (s : State), mboxUp s h p → ∃ t, exec (Instr.ethAddressRead h p .ip6) s = .next t ∧
      (t.mboxSt h (bankOf p)) = mboxAsked (s.mboxSt h (bankOf p)) 112 0 (wordsOf 4 (s.ethSt h).ip6) ∧
      t = { s with access := 0, mbox := t.mbox }) ∧
  (∀ (h : Hub) (p : Path) (s : State), mboxUp s h p → ∃ t, exec (Instr.ethAddressRead h p .group6) s = .next t ∧
      (t.mboxSt h (bankOf p)) = mboxAsked (s.mboxSt h (bankOf p)) 113 0 (wordsOf 4 (s.ethSt h).group6) ∧
      t = { s with access := 0, mbox := t.mbox }) ∧
  (∀ (h : Hub) (p : Path) (k : Fin 8) (s : State), mboxUp s h p →
      ∃ t, exec (Instr.ethAddressRead h p (.allow k)) s = .next t ∧
      (t.mboxSt h (bankOf p)) = mboxAsked (s.mboxSt h (bankOf p)) 114 k (let e := tget (fun _ => (0, 0)) (s.ethSt h).allow k; wordsOf 5 (e.1 + 2 ^ 128 * e.2)) ∧ t = { s with access := 0, mbox := t.mbox }) ∧
  (∀ (h : Hub) (p : Path) (k : Fin 64) (s : State), mboxUp s h p →
      ∃ t, exec (Instr.ethAddressRead h p (.dst6 k)) s = .next t ∧
      (t.mboxSt h (bankOf p)) = mboxAsked (s.mboxSt h (bankOf p)) 115 k (wordsOf 4 (s.strSt h k).dst6) ∧
      t = { s with access := 0, mbox := t.mbox }) ∧
  (∀ (h : Hub) (p : Path) (s : State), mboxUp s h p → ∃ t, exec (Instr.fcolFirstDetail h p) s = .next t ∧
      (t.mboxSt h (bankOf p)) = mboxAsked (s.mboxSt h (bankOf p)) 128 0 (wordsOf 5 ((s.fcolSt h).firstSts + 2 ^ 96 * (s.fcolSt h).firstDetail)) ∧ t = { s with access := 0, mbox := t.mbox }) ∧
  (∀ (h : Hub) (p : Path) (e : List Byte) (l : List (List Byte)) (s : State), mboxUp s h p →
      (s.fcolSt h).log = e :: l → ∃ t, exec (Instr.fcolLog h p) s = .next t ∧
      (t.mboxSt h (bankOf p)) = mboxAsked (s.mboxSt h (bankOf p)) 129 0 (wordsOf 6 (ofLe e)) ∧
      (t.fcolSt h).log = (if (s.mboxSt h (bankOf p)).busyBit = true then e :: l else l) ∧
      t = { s with access := 0, mbox := t.mbox, fcol := t.fcol }) ∧
  (∀ (h : Hub) (p : Path) (s : State), mboxUp s h p → (s.fcolSt h).log = [] →
      ∃ t, exec (Instr.fcolLog h p) s = .next t ∧
      (t.mboxSt h (bankOf p)) = mboxAsked (s.mboxSt h (bankOf p)) 129 0 [0, 0, 0, 0, 0, 0] true ∧
      t = { s with access := 0, mbox := t.mbox }) ∧
  (∀ (h : Hub) (p : Path) (i : Instr) (s : State), mboxRow false i = some (h, p) → s.resetLow = true ∨
      pathReaches s p (mboxB h) = false → ∃ t, exec (i) s = .next t ∧ t = { s with access := 0 }) ∧
  (∀ (h : Hub) (p : Path) (i : Instr) (s : State), mboxRow false i = some (h, p) → s.resetLow = false →
      pathReaches s p (mboxB h) = true → s.hasHub h = false → ∃ t, exec (i) s = .next t ∧
      t = { s.violation 0 (mboxB h) with access := 1 }) ∧
  (∀ (h : Hub) (p : Path) (c i : Nat) (l : List Nat) (e : Bool) (s : State), s.hasHub h = true →
      (s.mboxSt h (bankOf p)).busy = some ⟨c, i, false, l, e, false⟩ →
      ∃ t, exec (Instr.mboxRequestComplete h p) s = .next t ∧
      (t.mboxSt h (bankOf p)) = { (s.mboxSt h (bankOf p)) with busy := none, busyBit := false, valid := !e, empty := e, words := l.length, data := (t.mboxSt h (bankOf p)).data } ∧
      ∀ j, tget noNat (t.mboxSt h (bankOf p)).data j = if j < l.length then l.getD j 0 else tget noNat (s.mboxSt h (bankOf p)).data j) ∧
  (∀ (h : Hub) (p : Path) (o : Bool) (i : Nat) (s : State), s.hasHub h = true →
      (s.mboxSt h (bankOf p)).busy = some ⟨if o then 33 else 32, i, false, [], false, true⟩ →
      ∃ t, exec (Instr.mboxRequestComplete h p) s = .next t ∧ let v := if o then tarnOldest s i else tarnHead s i;
      (t.mboxSt h (bankOf p)) = { (s.mboxSt h (bankOf p)) with busy := none, busyBit := false, valid := true, empty := false, words := 2, data := (t.mboxSt h (bankOf p)).data } ∧
      ∀ j, tget noNat (t.mboxSt h (bankOf p)).data j = if j < 2 then v / 2 ^ (32 * j) % 2 ^ 32 else tget noNat (s.mboxSt h (bankOf p)).data j) ∧
  (∀ (h : Hub) (p : Path) (s : State), s.hasHub h = false ∨ (s.mboxSt h (bankOf p)).busy = none →
      ∃ t, exec (Instr.mboxRequestComplete h p) s = .next t ∧ t = s) ∧
  (∀ (h : Hub) (p : Path) (s : State), mboxUp s h p → (s.mboxSt h (bankOf p)).words ≤ 12 →
      ∃ t, exec (Instr.mboxLastWordRead h p) s = .next t ∧
      t.readData = BitVec.ofNat 32 (tget noNat (s.mboxSt h (bankOf p)).data ((s.mboxSt h (bankOf p)).words - 1)) ∧
      t.access = 0 ∧ (t.mboxSt h (bankOf p)) = { (s.mboxSt h (bankOf p)) with valid := (s.mboxSt h (bankOf p)).valid && decide ((s.mboxSt h (bankOf p)).words = 0) }) ∧
  (∀ (h : Hub) (p : Path) (s : State), s.resetLow = true ∨ pathReaches s p (mboxB h) = false →
      ∃ t, exec (Instr.mboxLastWordRead h p) s = .next t ∧ t = { s with readData := 0, access := 0 })

/-- R645 to R649: the rows that write a value through a mailbox, and what the value becomes when the request completes.
`mboxTold` says what the bank of the path holds once the request has landed.
* TIME_HOST, TIME_CLOCK_ID_WRITE, PLAN_SCHEDULE_WRITE, TDC_GATE_TIME_WRITE, NFS_UNLOCK, ETH_ADDRESS_WRITE,
  ETH_MGMT_KEY, FUSE_KEY_HASH: the words stand in MBOX_DATA, and the request that copies them is in progress.
* Every row that writes, while the S8G is in reset or its path does not reach the hub (R631, R632): nothing.
* Every row that writes, by the planner at a hub that the part does not have (R6, R648): an access violation, and
  nothing else.
* MBOX_REQUEST_COMPLETE of a write (R647): DONE, and the value is applied: the time of a HOST base, the clock
  identity once (R427), a plan's times through the hub that leads (R356), a gate's times, the host secret, an
  Ethernet address, the management key once (R552), the key hash (R405). A second write of a write-once value, and
  the key hash under the FUSE lock, are access violations (R8, R402). -/
def Obligations.MboxWriteRowsComplete : Prop :=
  (∀ (h : Hub) (p : Path) (v : BitVec 96) (s : State), mboxUp s h p → ∃ t, exec (Instr.timeHost h p v) s = .next t ∧
      (t.mboxSt h (bankOf p)) = { mboxTold (s.mboxSt h (bankOf p)) 4 0 3 (v.toNat) with data := (t.mboxSt h (bankOf p)).data } ∧ t = { s with access := 0, mbox := t.mbox } ∧
      ∀ j, tget noNat (t.mboxSt h (bankOf p)).data j = if j < 3 then v.toNat / 2 ^ (32 * j) % 2 ^ 32 else tget noNat (s.mboxSt h (bankOf p)).data j) ∧
  (∀ (h : Hub) (p : Path) (v : BitVec 64) (s : State), mboxUp s h p →
      ∃ t, exec (Instr.timeClockIdWrite h p v) s = .next t ∧
      (t.mboxSt h (bankOf p)) = { mboxTold (s.mboxSt h (bankOf p)) 6 0 2 (v.toNat) with data := (t.mboxSt h (bankOf p)).data } ∧ t = { s with access := 0, mbox := t.mbox } ∧
      ∀ j, tget noNat (t.mboxSt h (bankOf p)).data j = if j < 2 then v.toNat / 2 ^ (32 * j) % 2 ^ 32 else tget noNat (s.mboxSt h (bankOf p)).data j) ∧
  (∀ (h : Hub) (p : Path) (k : Fin 3) (n : Fin 32) (v : BitVec 64) (s : State), mboxUp s h p →
      ∃ t, exec (Instr.planScheduleWrite h p k n v) s = .next t ∧
      (t.mboxSt h (bankOf p)) = { mboxTold (s.mboxSt h (bankOf p)) (16 + k) n 2 (v.toNat) with data := (t.mboxSt h (bankOf p)).data } ∧ t = { s with access := 0, mbox := t.mbox } ∧
      ∀ j, tget noNat (t.mboxSt h (bankOf p)).data j = if j < 2 then v.toNat / 2 ^ (32 * j) % 2 ^ 32 else tget noNat (s.mboxSt h (bankOf p)).data j) ∧
  (∀ (h : Hub) (p : Path) (c : Bool) (n : Fin 8) (v : BitVec 96) (s : State), mboxUp s h p →
      ∃ t, exec (Instr.tdcGateTimeWrite h p c n v) s = .next t ∧
      (t.mboxSt h (bankOf p)) = { mboxTold (s.mboxSt h (bankOf p)) (if c then 51 else 50) n 3 (v.toNat) with data := (t.mboxSt h (bankOf p)).data } ∧ t = { s with access := 0, mbox := t.mbox } ∧
      ∀ j, tget noNat (t.mboxSt h (bankOf p)).data j = if j < 3 then v.toNat / 2 ^ (32 * j) % 2 ^ 32 else tget noNat (s.mboxSt h (bankOf p)).data j) ∧
  (∀ (h : Hub) (p : Path) (v : BitVec 256) (s : State), mboxUp s h p → ∃ t, exec (Instr.nfsUnlock h p v) s = .next t ∧
      (t.mboxSt h (bankOf p)) = { mboxTold (s.mboxSt h (bankOf p)) 64 0 8 (v.toNat) with data := (t.mboxSt h (bankOf p)).data } ∧ t = { s with access := 0, mbox := t.mbox } ∧
      ∀ j, tget noNat (t.mboxSt h (bankOf p)).data j = if j < 8 then v.toNat / 2 ^ (32 * j) % 2 ^ 32 else tget noNat (s.mboxSt h (bankOf p)).data j) ∧
  (∀ (h : Hub) (p : Path) (v : BitVec 160) (s : State), mboxUp s h p →
      ∃ t, exec (Instr.ethAddressWrite h p .ip6 v) s = .next t ∧
      (t.mboxSt h (bankOf p)) = { mboxTold (s.mboxSt h (bankOf p)) 112 0 4 (v.toNat) with data := (t.mboxSt h (bankOf p)).data } ∧ t = { s with access := 0, mbox := t.mbox } ∧
      ∀ j, tget noNat (t.mboxSt h (bankOf p)).data j = if j < 4 then v.toNat / 2 ^ (32 * j) % 2 ^ 32 else tget noNat (s.mboxSt h (bankOf p)).data j) ∧
  (∀ (h : Hub) (p : Path) (v : BitVec 160) (s : State), mboxUp s h p →
      ∃ t, exec (Instr.ethAddressWrite h p .group6 v) s = .next t ∧
      (t.mboxSt h (bankOf p)) = { mboxTold (s.mboxSt h (bankOf p)) 113 0 4 (v.toNat) with data := (t.mboxSt h (bankOf p)).data } ∧ t = { s with access := 0, mbox := t.mbox } ∧
      ∀ j, tget noNat (t.mboxSt h (bankOf p)).data j = if j < 4 then v.toNat / 2 ^ (32 * j) % 2 ^ 32 else tget noNat (s.mboxSt h (bankOf p)).data j) ∧
  (∀ (h : Hub) (p : Path) (k : Fin 8) (v : BitVec 160) (s : State), mboxUp s h p →
      ∃ t, exec (Instr.ethAddressWrite h p (.allow k) v) s = .next t ∧
      (t.mboxSt h (bankOf p)) = { mboxTold (s.mboxSt h (bankOf p)) 114 k 5 (v.toNat) with data := (t.mboxSt h (bankOf p)).data } ∧ t = { s with access := 0, mbox := t.mbox } ∧
      ∀ j, tget noNat (t.mboxSt h (bankOf p)).data j = if j < 5 then v.toNat / 2 ^ (32 * j) % 2 ^ 32 else tget noNat (s.mboxSt h (bankOf p)).data j) ∧
  (∀ (h : Hub) (p : Path) (k : Fin 64) (v : BitVec 160) (s : State), mboxUp s h p →
      ∃ t, exec (Instr.ethAddressWrite h p (.dst6 k) v) s = .next t ∧
      (t.mboxSt h (bankOf p)) = { mboxTold (s.mboxSt h (bankOf p)) 115 k 4 (v.toNat) with data := (t.mboxSt h (bankOf p)).data } ∧ t = { s with access := 0, mbox := t.mbox } ∧
      ∀ j, tget noNat (t.mboxSt h (bankOf p)).data j = if j < 4 then v.toNat / 2 ^ (32 * j) % 2 ^ 32 else tget noNat (s.mboxSt h (bankOf p)).data j) ∧
  (∀ (h : Hub) (p : Path) (v : BitVec 256) (s : State), mboxUp s h p →
      ∃ t, exec (Instr.ethMgmtKey h p v) s = .next t ∧
      (t.mboxSt h (bankOf p)) = { mboxTold (s.mboxSt h (bankOf p)) 116 0 8 (v.toNat) with data := (t.mboxSt h (bankOf p)).data } ∧ t = { s with access := 0, mbox := t.mbox } ∧
      ∀ j, tget noNat (t.mboxSt h (bankOf p)).data j = if j < 8 then v.toNat / 2 ^ (32 * j) % 2 ^ 32 else tget noNat (s.mboxSt h (bankOf p)).data j) ∧
  (∀ (h : Hub) (p : Path) (v : BitVec 384) (s : State), mboxUp s h p →
      ∃ t, exec (Instr.fuseKeyHash h p v) s = .next t ∧
      (t.mboxSt h (bankOf p)) = { mboxTold (s.mboxSt h (bankOf p)) 144 0 12 (v.toNat) with data := (t.mboxSt h (bankOf p)).data } ∧ t = { s with access := 0, mbox := t.mbox } ∧
      ∀ j, tget noNat (t.mboxSt h (bankOf p)).data j = if j < 12 then v.toNat / 2 ^ (32 * j) % 2 ^ 32 else tget noNat (s.mboxSt h (bankOf p)).data j) ∧
  (∀ (h : Hub) (p : Path) (i : Instr) (s : State), mboxRow true i = some (h, p) → s.resetLow = true ∨
      pathReaches s p (mboxB h) = false → ∃ t, exec (i) s = .next t ∧ t = { s with access := 0 }) ∧
  (∀ (h : Hub) (p : Path) (i : Instr) (s : State), mboxRow true i = some (h, p) → s.resetLow = false →
      pathReaches s p (mboxB h) = true → s.hasHub h = false → ∃ t, exec (i) s = .next t ∧ t.mbox = s.mbox ∧
      t.access = 1 ∧ t.rd (chipB 0) R.CHIP_VIOL_ADDR_ADDR = mboxB h ∧ t.on (chipB 0) R.CHIP_STATUS_VIOL = true) ∧
  (∀ (h : Hub) (p : Path) (l : List Nat) (s : State), s.hasHub h = true →
      (s.mboxSt h (bankOf p)).busy = some ⟨4, 0, true, l, false, false⟩ →
      ∃ t, exec (Instr.mboxRequestComplete h p) s = .next t ∧ t.time.hostTime = (ofWords l) % 2 ^ 96 ∧
      (t.mboxSt h (bankOf p)) = { (s.mboxSt h (bankOf p)) with busy := none, busyBit := false, done := true }) ∧
  (∀ (h : Hub) (p : Path) (l : List Nat) (s : State), s.hasHub h = true →
      (s.mboxSt h (bankOf p)).busy = some ⟨6, 0, true, l, false, false⟩ → s.time.clockId = none →
      ∃ t, exec (Instr.mboxRequestComplete h p) s = .next t ∧ t.time.clockId = some ((ofWords l) % 2 ^ 64) ∧
      (t.mboxSt h (bankOf p)) = { (s.mboxSt h (bankOf p)) with busy := none, busyBit := false, done := true }) ∧
  (∀ (h : Hub) (p : Path) (l : List Nat) (s : State), s.hasHub h = true →
      (s.mboxSt h (bankOf p)).busy = some ⟨6, 0, true, l, false, false⟩ → s.time.clockId ≠ none →
      ∃ t, exec (Instr.mboxRequestComplete h p) s = .next t ∧ t.time = s.time ∧ t.access = 2 ∧
      t.rd (chipB h) R.CHIP_VIOL_ADDR_ADDR = mboxB h ∧ t.flight.map (·.source) = s.flight.map (·.source) ++ [38] ∧
      (t.mboxSt h (bankOf p)) = { (s.mboxSt h (bankOf p)) with busy := none, busyBit := false, done := true }) ∧
  (∀ (h : Hub) (p : Path) (l : List Nat) (j : Fin 3) (n : Fin 32) (s : State), s.hasHub h = true →
      (s.mboxSt h (bankOf p)).busy = some ⟨16 + j.val, n.val, true, l, false, false⟩ →
      ∃ t, exec (Instr.mboxRequestComplete h p) s = .next t ∧
      (t.planSt n = if h.val ≠ s.lead then s.planSt n else if j.val = 0 then { s.planSt n with start := (ofWords l) % 2 ^ 64, due := if planState s n = 4 then (s.planSt n).due else (ofWords l) % 2 ^ 64 } else if j.val = 1 then { s.planSt n with duration := (ofWords l) % 2 ^ 64 } else { s.planSt n with period := (ofWords l) % 2 ^ 64 }) ∧ (t.mboxSt h (bankOf p)) = { (s.mboxSt h (bankOf p)) with busy := none, busyBit := false, done := true }) ∧
  (∀ (h : Hub) (p : Path) (l : List Nat) (n : Fin 8) (s : State), s.hasHub h = true →
      (s.mboxSt h (bankOf p)).busy = some ⟨50, n.val, true, l, false, false⟩ →
      ∃ t, exec (Instr.mboxRequestComplete h p) s = .next t ∧
      t.tdcIn (8 * h + n) = { s.tdcIn (8 * h + n) with gateOpen := (ofWords l) % 2 ^ 96 } ∧
      t.on (tdcInB (8 * h + n)) R.TDC_n_STATUS_GATE_OPEN = gatePasses t (8 * h + n) t.now ∧
      (t.mboxSt h (bankOf p)) = { (s.mboxSt h (bankOf p)) with busy := none, busyBit := false, done := true }) ∧
  (∀ (h : Hub) (p : Path) (l : List Nat) (n : Fin 8) (s : State), s.hasHub h = true →
      (s.mboxSt h (bankOf p)).busy = some ⟨51, n.val, true, l, false, false⟩ →
      ∃ t, exec (Instr.mboxRequestComplete h p) s = .next t ∧
      t.tdcIn (8 * h + n) = { s.tdcIn (8 * h + n) with gateClose := (ofWords l) % 2 ^ 96 } ∧
      t.on (tdcInB (8 * h + n)) R.TDC_n_STATUS_GATE_OPEN = gatePasses t (8 * h + n) t.now ∧
      (t.mboxSt h (bankOf p)) = { (s.mboxSt h (bankOf p)) with busy := none, busyBit := false, done := true }) ∧
  (∀ (h : Hub) (p : Path) (l : List Nat) (s : State), s.hasHub h = true →
      (s.mboxSt h (bankOf p)).busy = some ⟨64, 0, true, l, false, false⟩ →
      ∃ t, exec (Instr.mboxRequestComplete h p) s = .next t ∧ (t.nfsSt h).secret = leBytes 32 (ofWords l) ∧
      (t.mboxSt h (bankOf p)) = { (s.mboxSt h (bankOf p)) with busy := none, busyBit := false, done := true }) ∧
  (∀ (h : Hub) (p : Path) (l : List Nat) (s : State), s.hasHub h = true →
      (s.mboxSt h (bankOf p)).busy = some ⟨112, 0, true, l, false, false⟩ →
      ∃ t, exec (Instr.mboxRequestComplete h p) s = .next t ∧ (t.ethSt h).ip6 = (ofWords l) % 2 ^ 128 ∧
      (t.mboxSt h (bankOf p)) = { (s.mboxSt h (bankOf p)) with busy := none, busyBit := false, done := true }) ∧
  (∀ (h : Hub) (p : Path) (l : List Nat) (s : State), s.hasHub h = true →
      (s.mboxSt h (bankOf p)).busy = some ⟨113, 0, true, l, false, false⟩ →
      ∃ t, exec (Instr.mboxRequestComplete h p) s = .next t ∧ (t.ethSt h).group6 = (ofWords l) % 2 ^ 128 ∧
      (t.mboxSt h (bankOf p)) = { (s.mboxSt h (bankOf p)) with busy := none, busyBit := false, done := true }) ∧
  (∀ (h : Hub) (p : Path) (l : List Nat) (k : Fin 8) (s : State), s.hasHub h = true →
      (s.mboxSt h (bankOf p)).busy = some ⟨114, k.val, true, l, false, false⟩ →
      ∃ t, exec (Instr.mboxRequestComplete h p) s = .next t ∧
      tget (fun _ => (0, 0)) (t.ethSt h).allow k = ((ofWords l) % 2 ^ 128, (ofWords l) / 2 ^ 128 % 2 ^ 9) ∧
      (t.mboxSt h (bankOf p)) = { (s.mboxSt h (bankOf p)) with busy := none, busyBit := false, done := true }) ∧
  (∀ (h : Hub) (p : Path) (l : List Nat) (k : Fin 64) (s : State), s.hasHub h = true →
      (s.mboxSt h (bankOf p)).busy = some ⟨115, k.val, true, l, false, false⟩ →
      ∃ t, exec (Instr.mboxRequestComplete h p) s = .next t ∧
      t.strSt h k = { s.strSt h k with dst6 := (ofWords l) % 2 ^ 128 } ∧
      (t.mboxSt h (bankOf p)) = { (s.mboxSt h (bankOf p)) with busy := none, busyBit := false, done := true }) ∧
  (∀ (h : Hub) (p : Path) (l : List Nat) (s : State), s.hasHub h = true →
      (s.mboxSt h (bankOf p)).busy = some ⟨116, 0, true, l, false, false⟩ → (s.ethSt h).keySet = false →
      ∃ t, exec (Instr.mboxRequestComplete h p) s = .next t ∧ (t.ethSt h).key = leBytes 32 (ofWords l) ∧
      (t.ethSt h).keySet = true ∧
      (t.mboxSt h (bankOf p)) = { (s.mboxSt h (bankOf p)) with busy := none, busyBit := false, done := true }) ∧
  (∀ (h : Hub) (p : Path) (l : List Nat) (s : State), s.hasHub h = true →
      (s.mboxSt h (bankOf p)).busy = some ⟨116, 0, true, l, false, false⟩ → (s.ethSt h).keySet = true →
      ∃ t, exec (Instr.mboxRequestComplete h p) s = .next t ∧ t.eth = s.eth ∧ t.access = 2 ∧
      t.rd (chipB h) R.CHIP_VIOL_ADDR_ADDR = mboxB h ∧ t.flight.map (·.source) = s.flight.map (·.source) ++ [38] ∧
      (t.mboxSt h (bankOf p)) = { (s.mboxSt h (bankOf p)) with busy := none, busyBit := false, done := true }) ∧
  (∀ (h : Hub) (p : Path) (l : List Nat) (s : State), s.hasHub h = true →
      (s.mboxSt h (bankOf p)).busy = some ⟨144, 0, true, l, false, false⟩ → s.on (bootB 0) R.BOOT_LOCK_FUSE = false →
      ∃ t, exec (Instr.mboxRequestComplete h p) s = .next t ∧ t.hashIn = leBytes 48 (ofWords l) ∧
      (t.mboxSt h (bankOf p)) = { (s.mboxSt h (bankOf p)) with busy := none, busyBit := false, done := true }) ∧
  (∀ (h : Hub) (p : Path) (l : List Nat) (s : State), s.hasHub h = true →
      (s.mboxSt h (bankOf p)).busy = some ⟨144, 0, true, l, false, false⟩ → s.on (bootB 0) R.BOOT_LOCK_FUSE = true →
      ∃ t, exec (Instr.mboxRequestComplete h p) s = .next t ∧ t.hashIn = s.hashIn ∧ t.access = 2 ∧
      t.rd (chipB h) R.CHIP_VIOL_ADDR_ADDR = mboxB h ∧ t.flight.map (·.source) = s.flight.map (·.source) ++ [38] ∧
      (t.mboxSt h (bankOf p)) = { (s.mboxSt h (bankOf p)) with busy := none, busyBit := false, done := true })

/-- R6 to R13, R631 to R638: the rows that write a register through the normal, set, clear and toggle windows, by any
path. `regWriteRow` is CONFIG_WRITE, ALIAS_SET_WRITE, ALIAS_CLEAR_WRITE and ALIAS_TOGGLE_WRITE, by number; `regAddr`
is the host address that it writes. `RegisterReadRowsComplete` says what a read does.
* CONFIG_WRITE, ALIAS_SET_WRITE, ALIAS_CLEAR_WRITE and ALIAS_TOGGLE_WRITE of a register (R7, R8, R13, R637):
  software's bits take the written word, or are set, cleared or toggled; a write-once field only once, later an
  access violation; the shadow set becomes dirty. A register whose write begins an operation then begins it
  (`wrote`: the blocks' own rows).
* Each of the four by a path that does not reach the address, or to a reserved address or a die that does not answer
  (R631, R632, R25): nothing.
* Each of the four to the window of a die that the part does not have (R6): an access violation at hub 0, or at the
  hub of the transform die.
* Each of the four to a register that its die lacks or that only another die or hub writes, and to an offset without
  a register (R88, R202, R227, R356, R431, R633): nothing.
* FCOL_SRC_CFG, FCOL_SRC_STATE and FCOL_SRC_COUNT (R7, R620, R630): the selected source's class, profile and
  actions, its state, or its count. `aliasResult` is the word that each window forms from the word shown.
* DMA_LINE_STATE (R525): the credits of the line shown, which may let waiting channels go on.
* A word of the DMA program memory (R513, R637): the written word, through every window.
* A DMA channel's start address while it does not stand halted (R513, R535): an access violation.
* A program word or a data word of a core (R274, R275, R637), through every window.
* A word of the aperture (R394, R634, R637): the 4 bytes of capture memory; beyond the memory, and in the boot
  region once it is sealed, an access violation.
* CORE_c_PC (R310): the next instruction of a halted core; of a running one, an access violation.
* CORE_c_DBG_DATA (R308, R403): the selected register as CORE_DBG_DATA_WRITE writes it; under the DEBUG lock only
  the planner may.
* MBOX_STATUS, MBOX_BANK and MBOX_DATA_w of the path's bank (R7, R645, R651).
* MBOX_REQ with a request that is no value of R649, or while BUSY is set (R648): ERR with zeros for a read, or
  OVERRUN.
* PWR_CAP and PWR_CTRL under the CAP lock (R402): an access violation.
* PLAN_CMD (R350, R356, R402): the command waits for the planner; through the hub that does not lead, and a LOAD
  under the PLAN_LOAD lock, it is an access violation. Only the normal and the set window begin a command (R637).
* PWR_CMD and BOOT_CMD (R361, R406, R637): each bit written as 1 does what its row does.
* A queue window of the event-timing inputs (R446, R448): a write does nothing.
* A table data port (R637): through every window it takes the written word as its port row does.
* Each of the four with a hardware update of the register in the same cycle (R7, R9, R126, R127): the update comes
  on top of what the write leaves. -/
def Obligations.RegisterRowsComplete : Prop :=
  (∀ (n : Fin 4) (p : Path) (a : BitVec 32) (m : Word) (b : Block) (i o : Nat) (r : RegDesc) (s : State),
      regWritable s p (regAddr n a) m.toNat b i o r → ∃ t, exec (regWriteRow n p a m {}) s = .next t ∧
      ∃ u, regRest s u (regAddr n a) b i o ∧ regWritten s u (regAddr n a) m.toNat b i o r ∧
      t = wrote (aliasOf (regAddr n a) == 0) b i o (s.reg (homeOf b i o (windowOf (regAddr n a)))).toNat (u.reg (homeOf b i o (windowOf (regAddr n a)))).toNat (if aliasOf (regAddr n a) ≤ 1 then m.toNat &&& accMask (some r) (· == .wo) else 0) u ∧
      (b ∈ [Block.chip, .boot, .pwr, .plan] → t = u)) ∧
  (∀ (n : Fin 4) (p : Path) (a : BitVec 32) (m : Word) (s : State), pathReaches s p (regAddr n a) = false ∨
      reach s (regAddr n a) = .none ∨ reach s (regAddr n a) = .silent →
      ∃ t, exec (regWriteRow n p a m {}) s = .next t ∧ t = { s with access := 0 }) ∧
  (∀ (n : Fin 4) (p : Path) (a : BitVec 32) (m : Word) (h : Nat) (s : State), pathReaches s p (regAddr n a) = true →
      reach s (regAddr n a) = .absent h → ∃ t, exec (regWriteRow n p a m {}) s = .next t ∧
      t = { s.violation h (regAddr n a) with access := 1 }) ∧
  (∀ (n : Fin 4) (p : Path) (a : BitVec 32) (m : Word) (b : Block) (i o : Nat) (s : State),
      pathReaches s p (regAddr n a) = true → reach s (regAddr n a) = .at_ b i o → isTable b o = false →
      regMissing b i o = true ∨ readOnlyHere s b i o = true ∨ (regAt b o = none ∧
      b ∉ [Block.fcol, .dma, .tdc, .cctl, .mbox, .core, .aperture]) → (b, o) ≠ (Block.plan, R.PLAN_CMD) →
      (b, o) ≠ (Block.pwr, R.PWR_CMD) → ∃ t, exec (regWriteRow n p a m {}) s = .next t ∧ t = { s with access := 0 }) ∧
  (∀ (n : Fin 4) (p : Path) (a : BitVec 32) (m : Word) (h : Hub) (o : Nat) (s : State),
      pathReaches s p (regAddr n a) = true → reach s (regAddr n a) = .at_ .fcol h (o) →
      o ∈ [R.FCOL_SRC_CFG, R.FCOL_SRC_STATE, R.FCOL_SRC_COUNT] → ∃ t, exec (regWriteRow n p a m {}) s = .next t ∧
      t.srcSt h (selSrc s h) =
      if o = R.FCOL_SRC_CFG then let c := (aliasResult (aliasOf (regAddr n a)) (srcCfgWord s h) m.toNat) % 4 + 16 * bitsOf (aliasResult (aliasOf (regAddr n a)) (srcCfgWord s h) m.toNat) 4 2 + 256 * bitsOf (aliasResult (aliasOf (regAddr n a)) (srcCfgWord s h) m.toNat) 8 2; { (s.srcSt h (selSrc s h)) with cfg := c, cls := if (s.srcSt h (selSrc s h)).state = 0 then min 2 (c % 4) else max (s.srcSt h (selSrc s h)).cls (min 2 (c % 4)) }
      else if o = R.FCOL_SRC_STATE then { (s.srcSt h (selSrc s h)) with state := bitsOf (aliasResult (aliasOf (regAddr n a)) (srcStateWord s h) m.toNat) 0 2, cls := bitsOf (aliasResult (aliasOf (regAddr n a)) (srcStateWord s h) m.toNat) 4 2, recoveries := bitsOf (aliasResult (aliasOf (regAddr n a)) (srcStateWord s h) m.toNat) 8 8 }
      else { (s.srcSt h (selSrc s h)) with events := (aliasResult (aliasOf (regAddr n a)) (srcCountWord s h) m.toNat) }) ∧
  (∀ (n : Fin 4) (p : Path) (a : BitVec 32) (m : Word) (h : Hub) (s : State), pathReaches s p (regAddr n a) = true →
      reach s (regAddr n a) = .at_ .dma h (R.DMA_LINE_STATE) → ∃ t, exec (regWriteRow n p a m {}) s = .next t ∧
      t = dmaWake (setCredits h ((aliasResult (aliasOf (regAddr n a)) (lineStateWord s h) m.toNat) % 2 ^ 16) { s with access := 0 })) ∧
  (∀ (n : Fin 4) (p : Path) (a : BitVec 32) (m : Word) (h : Hub) (j : Nat) (s : State),
      pathReaches s p (regAddr n a) = true → reach s (regAddr n a) = .at_ .dma h (0x8000 + 4 * j) → j < 0x2000 →
      ∃ t, exec (regWriteRow n p a m {}) s = .next t ∧
      t = { s with access := 0, dmaMem := tset noNat s.dmaMem (dmaWordKey h (j / 4) (j % 4)) m.toNat }) ∧
  (∀ (n : Fin 4) (p : Path) (a : BitVec 32) (m : Word) (h : Hub) (k : Fin 16) (s : State),
      pathReaches s p (regAddr n a) = true → reach s (regAddr n a) = .at_ .dma h (0x108 + 0x40 * k) →
      dmaState s h k ≠ 5 → ∃ t, exec (regWriteRow n p a m {}) s = .next t ∧
      t = { s.violation h (regAddr n a) with access := 2 }) ∧
  (∀ (n : Fin 4) (p : Path) (a : BitVec 32) (m : Word) (i : TDie) (c : CoreIx) (j : Nat) (s : State),
      pathReaches s p (regAddr n a) = true → reach s (regAddr n a) = .at_ .core i (c * 0x20000 + 4 * j) → j < 0x8000 →
      ∃ t, exec (regWriteRow n p a m {}) s = .next t ∧ t.access = 0 ∧ (j < 0x4000 → t.pm i c j = m ∧
      t.cores = s.cores) ∧ (0x4000 ≤ j → t.dm i c (j - 0x4000) = m.toNat % 2 ^ 24)) ∧
  (∀ (n : Fin 4) (p : Path) (a : BitVec 32) (m : Word) (h : Hub) (j : Nat) (s : State),
      pathReaches s p (regAddr n a) = true → reach s (regAddr n a) = .at_ .aperture h (4 * j) → j < 2 ^ 20 →
      ∃ t, exec (regWriteRow n p a m {}) s = .next t ∧
      if s.hubLimit h ≤ (s.rd (chipB h) R.CHIP_MEMWIN_PAGE * 2 ^ 22 + 4 * j) ∨ (p ≠ .planner ∧ bootSealed s = true ∧
      s.inBoot h (s.rd (chipB h) R.CHIP_MEMWIN_PAGE * 2 ^ 22 + 4 * j) = true) then t = { s.violation h (regAddr n a) with access := 2 }
      else t = { s.setBytes h (s.rd (chipB h) R.CHIP_MEMWIN_PAGE * 2 ^ 22 + 4 * j) (leBytes 4 m.toNat) with access := 0 }) ∧
  (∀ (n : Fin 4) (p : Path) (a : BitVec 32) (m : Word) (i : TDie) (c : CoreIx) (s : State),
      pathReaches s p (regAddr n a) = true → reach s (regAddr n a) = .at_ .cctl i (0x40 * c + R.CORE_c_PC) →
      ∃ t, exec (regWriteRow n p a m {}) s = .next t ∧
      if s.onC i c R.CORE_c_STATUS_RUNNING = true then t = { s.violation (hubOf s i) (regAddr n a) with access := 2 }
      else t.access = 0 ∧ t.core i c = { s.core i c with pc := (t.core i c).pc, slots := 0, target := none, reti := false } ∧ (t.core i c).pc = (aliasResult (aliasOf (regAddr n a)) ((s.core i c).pc) m.toNat) % 2 ^ 14) ∧
  (∀ (n : Fin 4) (p : Path) (a : BitVec 32) (m : Word) (i : TDie) (c : CoreIx) (s : State),
      pathReaches s p (regAddr n a) = true → reach s (regAddr n a) = .at_ .cctl i (0x40 * c + R.CORE_c_DBG_DATA) →
      ∃ t, exec (regWriteRow n p a m {}) s = .next t ∧ if (p ≠ .planner ∧
      debugLocked s = true) then t = { s.violation (hubOf s i) (regAddr n a) with access := 2 }
      else if aliasOf (regAddr n a) = 0 then t = { coreDbgWrite i c (m.toNat % 2 ^ 24) s with access := if s.onC i c R.CORE_c_STATUS_RUNNING then 2 else 0 }
      else t = { coreDbgWrite i c ((aliasResult (aliasOf (regAddr n a)) (dbgRead i c s) m.toNat) % 2 ^ 24) s with access := 0 }) ∧
  (∀ (n : Fin 4) (p : Path) (a : BitVec 32) (m : Word) (h : Hub) (o : Nat) (s : State),
      pathReaches s p (regAddr n a) = true → reach s (regAddr n a) = .at_ .mbox h (o) → o ∈ [4, 8] ∨ (0x40 ≤ o ∧
      o < 0x70 ∧ o % 4 = 0) → ∃ t, exec (regWriteRow n p a m {}) s = .next t ∧
      t.mboxSt h (bankOf p) = (let v := (aliasResult (aliasOf (regAddr n a)) (mboxReg s h (bankOf p) o) m.toNat); if o = 4 then { (s.mboxSt h (bankOf p)) with busyBit := bit v 0, valid := bit v 1, empty := bit v 2, done := bit v 3, words := bitsOf v 12 4 }
      else if o = 8 then (s.mboxSt h (bankOf p)) else { (s.mboxSt h (bankOf p)) with data := tset noNat (s.mboxSt h (bankOf p)).data ((o - 0x40) / 4) (v % 2 ^ 32) }) ∧ t.access = 0) ∧
  (∀ (n : Fin 4) (p : Path) (a : BitVec 32) (m : Word) (h : Hub) (s : State), pathReaches s p (regAddr n a) = true →
      reach s (regAddr n a) = .at_ .mbox h (0) →
      mboxBad ((aliasResult (aliasOf (regAddr n a)) ((s.mboxSt h (bankOf p)).req) m.toNat) % 2 ^ 16) (bitsOf (aliasResult (aliasOf (regAddr n a)) ((s.mboxSt h (bankOf p)).req) m.toNat) 16 8) (bit (aliasResult (aliasOf (regAddr n a)) ((s.mboxSt h (bankOf p)).req) m.toNat) 24) = true ∨ (s.mboxSt h (bankOf p)).busyBit = true → ∃ t, exec (regWriteRow n p a m {}) s = .next t ∧ t.mboxSt h (bankOf p) = (let v := (aliasResult (aliasOf (regAddr n a)) ((s.mboxSt h (bankOf p)).req) m.toNat) % 2 ^ 25; if (s.mboxSt h (bankOf p)).busyBit then { (s.mboxSt h (bankOf p)) with req := v, overrun := true }
      else { (s.mboxSt h (bankOf p)) with req := v, valid := false, empty := false, done := false, words := 0, err := true, data := if bit v 24 then (s.mboxSt h (bankOf p)).data else [] }) ∧ t.access = 0) ∧
  (∀ (n : Fin 4) (p : Path) (a : BitVec 32) (m : Word) (h : Hub) (o : Nat) (s : State),
      pathReaches s p (regAddr n a) = true → reach s (regAddr n a) = .at_ .pwr h (o) → h.val = s.lead →
      o ∈ [R.PWR_CAP, R.PWR_CTRL] → s.on (bootB 0) R.BOOT_LOCK_CAP = true →
      ∃ t, exec (regWriteRow n p a m {}) s = .next t ∧ t = { s.violation h (regAddr n a) with access := 2 }) ∧
  (∀ (n : Fin 4) (p : Path) (a : BitVec 32) (m : Word) (h : Hub) (s : State), pathReaches s p (regAddr n a) = true →
      reach s (regAddr n a) = .at_ .plan h (R.PLAN_CMD) → ∃ t, exec (regWriteRow n p a m {}) s = .next t ∧
      if h.val ≠ s.lead ∨ (bitsOf (if aliasOf (regAddr n a) ≤ 1 then m.toNat else 0) R.PLAN_CMD_OP.lo R.PLAN_CMD_OP.w = 1 ∧ s.on (bootB 0) R.BOOT_LOCK_PLAN_LOAD = true) then t = { s.violation h (regAddr n a) with access := 2 }
      else t = { s with access := 0, planCmds := s.planCmds ++ (if bitsOf (if aliasOf (regAddr n a) ≤ 1 then m.toNat else 0) R.PLAN_CMD_OP.lo R.PLAN_CMD_OP.w = 0 ∨ 4 < bitsOf (if aliasOf (regAddr n a) ≤ 1 then m.toNat else 0) R.PLAN_CMD_OP.lo R.PLAN_CMD_OP.w then [] else [(bitsOf (if aliasOf (regAddr n a) ≤ 1 then m.toNat else 0) R.PLAN_CMD_SLOT.lo R.PLAN_CMD_SLOT.w, bitsOf (if aliasOf (regAddr n a) ≤ 1 then m.toNat else 0) R.PLAN_CMD_OP.lo R.PLAN_CMD_OP.w)]) }) ∧
  (∀ (n : Fin 4) (p : Path) (a : BitVec 32) (m : Word) (h : Hub) (s : State), pathReaches s p (regAddr n a) = true →
      reach s (regAddr n a) = .at_ .pwr h (R.PWR_CMD) → h.val = s.lead →
      ∃ t, exec (regWriteRow n p a m {}) s = .next t ∧
      t = pwrCmdWrite (if aliasOf (regAddr n a) ≤ 1 then m.toNat else 0) { s with access := 0 }) ∧
  (∀ (n : Fin 4) (p : Path) (a : BitVec 32) (m : Word) (s : State), pathReaches s p (regAddr n a) = true →
      reach s (regAddr n a) = .at_ .boot 0 (R.BOOT_CMD) → ∃ t, exec (regWriteRow n p a m {}) s = .next t ∧
      t = bootCmdWrite (if aliasOf (regAddr n a) ≤ 1 then m.toNat else 0) { s with access := 0 }) ∧
  (∀ (n : Fin 4) (p : Path) (a : BitVec 32) (m : Word) (h : Hub) (o : Nat) (s : State),
      pathReaches s p (regAddr n a) = true → reach s (regAddr n a) = .at_ .tdc h (o) → (tdcWindow o).isSome = true ∨
      (ivWindow o).isSome = true → ∃ t, exec (regWriteRow n p a m {}) s = .next t ∧ t = { s with access := 0 }) ∧
  (∀ (n : Fin 4) (p : Path) (a : BitVec 32) (m : Word) (i : TDie) (s : State), pathReaches s p (regAddr n a) = true →
      reach s (regAddr n a) = .at_ .wb i (R.WB_WTAB_DATA) → ∃ t, exec (regWriteRow n p a m {}) s = .next t ∧
      t = wtabAccess i (some m) { s with access := 0 }) ∧
  (∀ (n : Fin 4) (p : Path) (a : BitVec 32) (m : Word) (i : TDie) (s : State), pathReaches s p (regAddr n a) = true →
      reach s (regAddr n a) = .at_ .trg i (R.TRG_MASK_DATA) → ∃ t, exec (regWriteRow n p a m {}) s = .next t ∧
      t = maskAccess i (some m) { s with access := 0 }) ∧
  (∀ (n : Fin 4) (p : Path) (a : BitVec 32) (m : Word) (i : TDie) (s : State), pathReaches s p (regAddr n a) = true →
      reach s (regAddr n a) = .at_ .recd i (R.REC_MT_DATA) → ∃ t, exec (regWriteRow n p a m {}) s = .next t ∧
      t = if isLead i then { mtAccess i (some m) s with access := 0 } else { s with access := 0 }) ∧
  (∀ (n : Fin 4) (p : Path) (a : BitVec 32) (m : Word) (i : TDie) (s : State), pathReaches s p (regAddr n a) = true →
      reach s (regAddr n a) = .at_ .dens i (R.DENS_TAB_DATA) → ∃ t, exec (regWriteRow n p a m {}) s = .next t ∧
      t = densTabAccess i (some m) { s with access := 0 }) ∧
  (∀ (n : Fin 4) (p : Path) (a : BitVec 32) (m : Word) (h : Hub) (s : State), pathReaches s p (regAddr n a) = true →
      reach s (regAddr n a) = .at_ .disp h (R.DISP_PAL_DATA) → ∃ t, exec (regWriteRow n p a m {}) s = .next t ∧
      t = palAccess h (some m) { s with access := 0 }) ∧
  (∀ (n : Fin 4) (p : Path) (a : BitVec 32) (m : Word) (b : Block) (i o : Nat) (r : RegDesc) (w : HwUpdate) (s : State), reach ((hostWrite p (regAddr n a) m.toNat s)) (if n = 0 then a.toNat else a.toNat % 2 ^ 28) = .at_ b i o → regAt b o = some r → w.mask ≠ 0 ∨ w.inc = true → b ≠ .mbox → (b, o) ∉ [(Block.fcol, R.FCOL_SRC_CFG), (.fcol, R.FCOL_SRC_STATE), (.fcol, R.FCOL_SRC_COUNT), (.dma, R.DMA_LINE_STATE), (.acq, R.ACQ_DELAY_TOTAL)] → ∃ t, exec (regWriteRow n p a m w) s = .next t ∧ hwUpdated b r w (((hostWrite p (regAddr n a) m.toNat s)).reg (homeOf b i o (windowOf (if n = 0 then a.toNat else a.toNat % 2 ^ 28)))) (t.reg (homeOf b i o (windowOf (if n = 0 then a.toNat else a.toNat % 2 ^ 28)))))

/-- The frame of the rows of chapters 1 and 2. -/
def Obligations.AcqRowsFrame : Prop :=
  (∀ (a : ADie) (code : Fin 32) (temp : BitVec 16) (mode : BitVec 2) (s : State),
    ∀ row ∈ [Instr.gainWrite a code, Instr.calStepStart a, Instr.calRunComplete a, Instr.idleStepStart a,
      Instr.calTempRead a temp, Instr.calIntervalExpire a, Instr.calCmdRun a, Instr.calCmdAbort a,
      Instr.calCmdXskew a, Instr.xskewComplete, Instr.calModeWrite a mode], Leaves row s
      (fun t => { s with regs := t.regs, acq := t.acq })
      (inBlocks [.acq])) ∧
  (∀ (a : ADie) (s : State),
    Leaves (Instr.gainSettleEnd a) s
      (fun t => { s with acq := t.acq })
      (inBlocks [])) ∧
  (∀ (a : ADie) (f : ConvFrame) (s : State),
    Leaves (Instr.streamFrame a f) s
      (fun t => { s with
          regs := t.regs, marks := t.marks, acq := t.acq, jrx := t.jrx, codes := t.codes
          spares := t.spares, stream := t.stream, wb := t.wb })
      (inBlocks [.acq, .wb])) ∧
  (∀ (a : ADie) (s : State),
    ∀ row ∈ [Instr.subwindowComplete a, Instr.calWindowComplete a], Leaves row s
      (fun t => { s with regs := t.regs, flight := t.flight, acq := t.acq })
      (inBlocks [.acq])) ∧
  (∀ (a : ADie) (s : State),
    Leaves (Instr.calStatTimeout a) s
      (fun t => { s with regs := t.regs, flight := t.flight })
      (inBlocks [.acq])) ∧
  (∀ (a : ADie) (slot : Fin 64) (v : BitVec 16) (temp : Rat) (s : State),
    ∀ row ∈ [Instr.estSelWrite a slot, Instr.acqDelayMeasure a v, Instr.factoryTrimLoad a temp], Leaves row s
      (fun t => { s with regs := t.regs })
      (inBlocks [.acq])) ∧
  (∀ (a : ADie) (s : State),
    ∀ row ∈ [Instr.failedScReplace a, Instr.verifyWindowComplete a], Leaves row s
      (fun t => { s with regs := t.regs, flight := t.flight, acq := t.acq })
      (fun x => acqB a ≤ x)) ∧
  (∀ (a : ADie) (s : State),
    ∀ row ∈ [Instr.spareSwap a, Instr.trimUpdate a, Instr.liveTrimStep a], Leaves row s
      (fun t => { s with regs := t.regs, acq := t.acq })
      (fun x => acqB a ≤ x)) ∧
  (∀ (a : ADie) (s : State),
    Leaves (Instr.sampleClockLock a) s
      (fun t => { s with regs := t.regs })
      (inBlocks [.acq, .clk])) ∧
  (∀ (a : ADie) (s : State),
    Leaves (Instr.sampleClockUnlock a) s
      (fun t => { s with
          regs := t.regs, flight := t.flight, marks := t.marks, acq := t.acq, stream := t.stream
          wb := t.wb })
      (inBlocks [.acq, .clk, .wb])) ∧
  (∀ (a : ADie) (s : State),
    Leaves (Instr.acqEnable a) s
      (fun t => { s with
          regs := t.regs, force := t.force, tabF := t.tabF, acq := t.acq, wb := t.wb, trg := t.trg
          recs := t.recs, dens := t.dens, zooms := t.zooms })
      (inBlocks [.acq, .chz, .dens, .recd, .trg, .wb])) ∧
  (∀ (lane : Fin 16) (arrival : BitVec 16) (s : State),
    ∀ row ∈ [Instr.jrxEnable, Instr.jrxLaneLock lane arrival], Leaves row s
      (fun t => { s with regs := t.regs, jrx := t.jrx })
      (inBlocks [.jrx])) ∧
  (∀ (s : State),
    Leaves (Instr.jrxCrcError) s
      (fun t => { s with regs := t.regs })
      (inBlocks [.jrx])) ∧
  (∀ (lane : Fin 16) (first : Nat) (last : Nat) (s : State),
    Leaves (Instr.jrxLaneLockLoss lane first last) s
      (fun t => { s with regs := t.regs, flight := t.flight, marks := t.marks })
      (inBlocks [.jrx])) ∧
  (∀ (s : State),
    Leaves (Instr.jrxRelease) s
      (fun t => { s with
          regs := t.regs, force := t.force, tabF := t.tabF, flight := t.flight, marks := t.marks
          jrx := t.jrx, time := t.time, wb := t.wb, trg := t.trg, recs := t.recs, dens := t.dens
          zooms := t.zooms })
      (inBlocks [.chz, .dens, .jrx, .recd, .trg, .wb])) ∧
  (∀ (l : Fin 9) (back : Bool) (f : FlitSlot) (s : State),
    Leaves (Instr.linkFlitSend l back f) s
      (fun t => { s with link := t.link })
      (inBlocks [])) ∧
  (∀ (l : Fin 9) (back : Bool) (first : Nat) (s : State),
    Leaves (Instr.linkCrcRetry l back first) s
      (fun t => { s with flight := t.flight, link := t.link })
      (inBlocks [])) ∧
  (∀ (d : TDie) (first : Nat) (last : Nat) (s : State),
    Leaves (Instr.inputBufferOverflow d first last) s
      (fun t => { s with flight := t.flight, marks := t.marks })
      (inBlocks [])) ∧
  (∀ (trained : BitVec 9) (spareUsed : BitVec 9) (l : Fin 9) (s : State),
    ∀ row ∈ [Instr.linkTrain trained spareUsed, Instr.linkTrainTimeout l], Leaves row s
      (fun t => { s with regs := t.regs, link := t.link })
      (inBlocks [.boot, .chip]))

/-- The frame of the wide-band setting rows and of the trigger rows. -/
def Obligations.TriggerRowsFrame : Prop :=
  (∀ (d : TDie) (s : State),
    ∀ row ∈ [Instr.wbCommit d, Instr.wbHeldHandover d], Leaves row s
      (fun t => { s with regs := t.regs, live := t.live, tabL := t.tabL, wb := t.wb })
      (inBlocks [.wb])) ∧
  (∀ (d : TDie) (s : State),
    Leaves (Instr.wbRevert d) s
      (fun t => { s with regs := t.regs, tabS := t.tabS })
      (inBlocks [.wb])) ∧
  (∀ (d : TDie) (s : State),
    Leaves (Instr.wbPendingClear d) s
      (fun t => { s with regs := t.regs })
      (inBlocks [.wb])) ∧
  (∀ (d : TDie) (write : Option (BitVec 18)) (s : State),
    Leaves (Instr.wtabDataAccess d write) s
      (fun t => { s with regs := t.regs, tabS := t.tabS, readData := t.readData })
      (inBlocks [.wb])) ∧
  (∀ (d : TDie) (c : Fin 16) (u : Fin 8) (j : Nat) (payload : List Byte) (s : State),
    ∀ row ∈ [Instr.levelHit d c, Instr.widthHit d c, Instr.trguForce d u, Instr.timerHit d u j,
      Instr.fabricEvaluate d j, Instr.dropoutWindowExpire d u, Instr.lateHit d,
      Instr.triggerMessageReceive payload, Instr.trgPendingClear d], Leaves row s
      (fun t => { s with regs := t.regs, trg := t.trg })
      (inBlocks [.trg])) ∧
  (∀ (d : TDie) (u : Fin 8) (s : State),
    Leaves (Instr.holdoffEnd d u) s
      (fun t => { s with regs := t.regs })
      (inBlocks [.trg])) ∧
  (∀ (d : TDie) (s : State),
    ∀ row ∈ [Instr.triggerMessageSend d, Instr.triggerMessageRepeat d], Leaves row s
      (fun t => { s with regs := t.regs, trg := t.trg, trgTx := t.trgTx })
      (inBlocks [.trg])) ∧
  (∀ (d : TDie) (s : State),
    ∀ row ∈ [Instr.trgCommit d, Instr.trgHeldHandover d], Leaves row s
      (fun t => { s with regs := t.regs, live := t.live, tabS := t.tabS, tabL := t.tabL, trg := t.trg })
      (inBlocks [.trg])) ∧
  (∀ (d : TDie) (s : State),
    Leaves (Instr.trgRevert d) s
      (fun t => { s with regs := t.regs, tabS := t.tabS })
      (inBlocks [.trg])) ∧
  (∀ (d : TDie) (s : State),
    Leaves (Instr.trgSwitch d) s
      (fun t => { s with regs := t.regs, force := t.force, tabF := t.tabF, trg := t.trg })
      (inBlocks [.trg])) ∧
  (∀ (d : TDie) (write : Option Word) (s : State),
    Leaves (Instr.trgMaskDataAccess d write) s
      (fun t => { s with regs := t.regs, tabS := t.tabS, readData := t.readData })
      (inBlocks [.trg])) ∧
  (∀ (d : TDie) (s : State),
    Leaves (Instr.autoMaskBuild d) s
      (fun t => { s with
          regs := t.regs, live := t.live, tabS := t.tabS, tabL := t.tabL, wb := t.wb, trg := t.trg })
      (inBlocks [.trg]))

/-- The frame of the record, density and zoom rows that store nothing. -/
def Obligations.RecordRowsFrame : Prop :=
  (∀ (d : TDie) (s : State),
    ∀ row ∈ [Instr.tarnStart d, Instr.coEnable d], Leaves row s
      (fun t => { s with regs := t.regs, recs := t.recs })
      (inBlocks [.recd])) ∧
  (∀ (d : TDie) (s : State),
    Leaves (Instr.recRearm d) s
      (fun t => { s with regs := t.regs, recs := t.recs })
      (inBlocks [.recd, .trg])) ∧
  (∀ (d : TDie) (s : State),
    Leaves (Instr.triggerEventDeliver d) s
      (fun t => { s with regs := t.regs, trg := t.trg, recs := t.recs })
      (fun x => trgB d ≤ x)) ∧
  (∀ (d : TDie) (s : State),
    ∀ row ∈ [Instr.densFrameEnd d, Instr.densMergeArrive d, Instr.densMergeTimeout d], Leaves row s
      (fun t => { s with regs := t.regs, dens := t.dens })
      (inBlocks [.dens])) ∧
  (∀ (d : TDie) (s : State),
    ∀ row ∈ [Instr.sgRowEnd d, Instr.densClear d], Leaves row s
      (fun t => { s with dens := t.dens })
      (inBlocks [])) ∧
  (∀ (d : TDie) (s : State),
    ∀ row ∈ [Instr.densCommit d, Instr.densHeldHandover d], Leaves row s
      (fun t => { s with
          regs := t.regs, live := t.live, tabL := t.tabL, force := t.force, tabF := t.tabF
          dens := t.dens })
      (inBlocks [.dens])) ∧
  (∀ (d : TDie) (s : State),
    Leaves (Instr.densRevert d) s
      (fun t => { s with regs := t.regs, tabS := t.tabS })
      (inBlocks [.dens])) ∧
  (∀ (d : TDie) (write : Option (BitVec 16)) (s : State),
    Leaves (Instr.densTabDataAccess d write) s
      (fun t => { s with regs := t.regs, tabS := t.tabS, readData := t.readData })
      (inBlocks [.dens])) ∧
  (∀ (d : TDie) (s : State),
    Leaves (Instr.densEnable d) s
      (fun t => { s with regs := t.regs, force := t.force, tabF := t.tabF, dens := t.dens })
      (inBlocks [.dens])) ∧
  (∀ (d : TDie) (k : Fin 4) (mask : Word) (s : State),
    ∀ row ∈ [Instr.chzPrimed d, Instr.chzRevert d k mask], Leaves row s
      (fun t => { s with regs := t.regs })
      (inBlocks [.chz])) ∧
  (∀ (d : TDie) (k : Fin 4) (mask : Word) (s : State),
    Leaves (Instr.chzSync d k mask) s
      (fun t => { s with zooms := t.zooms })
      (inBlocks [])) ∧
  (∀ (d : TDie) (k : Fin 4) (mask : Word) (n : Fin 128) (s : State),
    ∀ row ∈ [Instr.chzCommit d k mask, Instr.chzHeldHandover d n], Leaves row s
      (fun t => { s with regs := t.regs, live := t.live, zooms := t.zooms })
      (inBlocks [.chz])) ∧
  (∀ (d : TDie) (s : State),
    Leaves (Instr.zoomSwitchPoint d) s
      (fun t => { s with regs := t.regs, force := t.force, zooms := t.zooms })
      (inBlocks [.chz])) ∧
  (∀ (d : TDie) (n : Fin 128) (s : State),
    Leaves (Instr.zoomOutput d n) s
      (fun t => { s with
          regs := t.regs, flight := t.flight, trg := t.trg, cores := t.cores, zooms := t.zooms })
      (inBlocks [.chz, .trg])) ∧
  (∀ (d : TDie) (n : Fin 128) (s : State),
    Leaves (Instr.zoomChannelFault d n) s
      (fun t => { s with flight := t.flight, zooms := t.zooms })
      (inBlocks [])) ∧
  (∀ (d : TDie) (pipe : Fin 4) (first : BitVec 56) (s : State),
    Leaves (Instr.pipelineFault d pipe first) s
      (fun t => { s with flight := t.flight, brokenPipes := t.brokenPipes })
      (inBlocks [])) ∧
  (∀ (d : TDie) (n : Fin 128) (v : Nat) (last : Bool) (s : State),
    Leaves (Instr.replayRebuild d n v last) s
      (fun t => { s with regs := t.regs, cores := t.cores, zooms := t.zooms })
      (inBlocks [.recd]))

/-- The frame of the channel-core rows. -/
def Obligations.CoreRowsFrame : Prop :=
  (∀ (d : TDie) (c : CoreIx) (e : EccRead) (drained : Nat) (s : State),
    ∀ row ∈ [Instr.coreNop d c e, Instr.coreHalt d c e, Instr.coreAdd d c e, Instr.coreAdc d c e,
      Instr.coreSub d c e, Instr.coreSbc d c e, Instr.coreAdds d c e, Instr.coreSubs d c e,
      Instr.coreAnd d c e, Instr.coreOr d c e, Instr.coreXor d c e, Instr.coreAndn d c e,
      Instr.coreAsr d c e, Instr.coreLsr d c e, Instr.coreLsl d c e, Instr.coreMin d c e,
      Instr.coreMax d c e, Instr.coreAbs d c e, Instr.coreNeg d c e, Instr.coreNot d c e,
      Instr.coreCmp d c e, Instr.coreTst d c e, Instr.coreNorm d c e, Instr.coreAddi d c e,
      Instr.coreAndi d c e, Instr.coreOri d c e, Instr.coreXori d c e, Instr.coreCmpi d c e,
      Instr.coreShi d c e, Instr.coreMov d c e, Instr.coreLdi d c e, Instr.coreLdih d c e,
      Instr.coreLd d c e, Instr.coreSt d c e, Instr.coreClra d c e, Instr.coreMova d c e,
      Instr.coreAdda d c e, Instr.coreSuba d c e, Instr.coreNega d c e, Instr.coreAbsa d c e,
      Instr.coreAsha d c e, Instr.coreLdah d c e, Instr.coreLdal d c e, Instr.coreExt d c e,
      Instr.coreCmpa d c e, Instr.coreMpy d c e, Instr.coreMac d c e, Instr.coreMsu d c e,
      Instr.coreLdd d c e, Instr.coreMaxi d c e, Instr.coreMini d c e, Instr.coreJmp d c e,
      Instr.coreCall d c e, Instr.coreJr d c e, Instr.coreReti d c e, Instr.coreRep d c e,
      Instr.coreLexit d c e, Instr.coreIn d c e, Instr.coreOut d c e drained, Instr.coreTrig d c e,
      Instr.coreEvt d c e, Instr.coreSrset d c e, Instr.coreSrclr d c e, Instr.coreStep d c e], Leaves row s
      (fun t => { s with regs := t.regs, flight := t.flight, trg := t.trg, cores := t.cores })
      (inBlocks [.cctl, .trg, .core])) ∧
  (∀ (d : TDie) (c : CoreIx) (v : BitVec 24) (k : Fin 5) (mask : Word) (s : State),
    ∀ row ∈ [Instr.interruptTake d c, Instr.coreDoorbell d c v, Instr.coreRun d c, Instr.coreReset d c,
      Instr.cctlStart d k mask], Leaves row s
      (fun t => { s with regs := t.regs, cores := t.cores })
      (inBlocks [.cctl])) ∧
  (∀ (d : TDie) (c : CoreIx) (s : State),
    Leaves (Instr.coreTimerExpire d c) s
      (fun t => { s with cores := t.cores })
      (inBlocks [])) ∧
  (∀ (d : TDie) (c : CoreIx) (k : Fin 5) (mask : Word) (e : EccRead) (s : State),
    ∀ row ∈ [Instr.coreStop d c, Instr.breakpointHalt d c, Instr.cctlStop d k mask, Instr.coreScrub d c e,
      Instr.coreParityError d c], Leaves row s
      (fun t => { s with regs := t.regs, flight := t.flight, cores := t.cores })
      (inBlocks [.cctl])) ∧
  (∀ (d : TDie) (c : CoreIx) (v : BitVec 24) (s : State),
    Leaves (Instr.coreDbgDataWrite d c v) s
      (fun t => { s with regs := t.regs, flight := t.flight, cores := t.cores })
      (inBlocks [.chip, .cctl])) ∧
  (∀ (d : TDie) (c : CoreIx) (s : State),
    Leaves (Instr.coreEvqPop d c) s
      (fun t => { s with regs := t.regs, readData := t.readData, cores := t.cores })
      (inBlocks [.cctl])) ∧
  (∀ (d : TDie) (c : CoreIx) (a : BitVec 14) (v : Word) (s : State),
    Leaves (Instr.coreProgramWrite d c a v) s
      (fun t => { s with regs := t.regs })
      (inBlocks [.core])) ∧
  (∀ (d : TDie) (c : CoreIx) (a : BitVec 14) (v : Word) (s : State),
    Leaves (Instr.coreDataWrite d c a v) s
      (fun t => { s with regs := t.regs, cores := t.cores })
      (inBlocks [.core])) ∧
  (∀ (d : TDie) (c : CoreIx) (spare : CoreIx) (prog : List Word) (data : List (BitVec 24)) (s : State),
    Leaves (Instr.coreRepair d c spare prog data) s
      (fun t => { s with regs := t.regs, cores := t.cores, plans := t.plans })
      (inBlocks [.cctl, .chz, .core])) ∧
  (∀ (d : TDie) (c : CoreIx) (s : State),
    Leaves (Instr.coreReplayEnd d c) s
      (fun t => { s with regs := t.regs })
      (inBlocks [.chz, .cctl])) ∧
  (∀ (d : TDie) (c : CoreIx) (s : State),
    Leaves (Instr.catchupEmpty d c) s
      (fun t => { s with regs := t.regs })
      (inBlocks [.cctl])) ∧
  (∀ (d : TDie) (c : CoreIx) (e : EccRead) (drained : Nat) (s t : State), ∀ row ∈ [
      Instr.coreNop d c e, Instr.coreHalt d c e, Instr.coreAdd d c e, Instr.coreAdc d c e, Instr.coreSub d c e,
      Instr.coreSbc d c e, Instr.coreAdds d c e, Instr.coreSubs d c e, Instr.coreAnd d c e, Instr.coreOr d c e,
      Instr.coreXor d c e, Instr.coreAndn d c e, Instr.coreAsr d c e, Instr.coreLsr d c e, Instr.coreLsl d c e,
      Instr.coreMin d c e, Instr.coreMax d c e, Instr.coreAbs d c e, Instr.coreNeg d c e, Instr.coreNot d c e,
      Instr.coreCmp d c e, Instr.coreTst d c e, Instr.coreNorm d c e, Instr.coreAddi d c e, Instr.coreAndi d c e,
      Instr.coreOri d c e, Instr.coreXori d c e, Instr.coreCmpi d c e, Instr.coreShi d c e, Instr.coreMov d c e,
      Instr.coreLdi d c e, Instr.coreLdih d c e, Instr.coreLd d c e, Instr.coreSt d c e, Instr.coreClra d c e,
      Instr.coreMova d c e, Instr.coreAdda d c e, Instr.coreSuba d c e, Instr.coreNega d c e, Instr.coreAbsa d c e,
      Instr.coreAsha d c e, Instr.coreLdah d c e, Instr.coreLdal d c e, Instr.coreExt d c e, Instr.coreCmpa d c e,
      Instr.coreMpy d c e, Instr.coreMac d c e, Instr.coreMsu d c e, Instr.coreLdd d c e, Instr.coreMaxi d c e,
      Instr.coreMini d c e, Instr.coreJmp d c e, Instr.coreCall d c e, Instr.coreJr d c e, Instr.coreReti d c e,
      Instr.coreRep d c e, Instr.coreLexit d c e, Instr.coreIn d c e, Instr.coreOut d c e drained, Instr.coreTrig d c e,
      Instr.coreEvt d c e, Instr.coreSrset d c e, Instr.coreSrclr d c e], exec row s = .next t →
    ∀ k : Nat, k ≠ 256 * d.val + c.val → tget dCore t.cores k = tget dCore s.cores k) ∧
  (∀ (d : TDie) (c : CoreIx) (e : EccRead) (f : AluFn) (cond xd xs xt : BitVec 4) (s t : State),
    issues s d c e (.alu f cond xd xs xt) = true → exec (aluRow f d c e) s = .next t →
      (∀ n : Nat, n ≠ xd.toNat → n ≠ 0x38 →
          (t.core d c).cur (s.core d c).bank n = (s.core d c).cur (s.core d c).bank n) ∧
      (∀ n : Nat, 4 ≤ n → bit ((t.core d c).cur (s.core d c).bank 0x38) n = bit ((s.core d c).cur (s.core d c).bank 0x38) n)) ∧
  (∀ (d : TDie) (c : CoreIx) (e : EccRead) (f : AccFn) (cond : BitVec 4) (a b : BitVec 1) (xr : BitVec 4) (sh : BitVec 5) (s t : State),
    issues s d c e (.acc f cond a b xr sh) = true → exec (accRow f d c e) s = .next t →
      ∀ n : Nat, n ≠ 0x10 + 3 * a.toNat → n ≠ 0x38 → n ≠ xr.toNat →
          (t.core d c).cur (s.core d c).bank n = (s.core d c).cur (s.core d c).bank n)

/-- The frame of the clock, time, PTP and event-timing rows. -/
def Obligations.ClockRowsFrame : Prop :=
  (∀ (edges0 : Nat) (edges1 : Nat) (n : Fin 2) (s : State),
    ∀ row ∈ [Instr.refPresenceWindow edges0 edges1, Instr.refEdgeTimeout n], Leaves row s
      (fun t => { s with regs := t.regs, flight := t.flight, clk := t.clk })
      (inBlocks [.clk, .time])) ∧
  (∀ (s : State),
    Leaves (Instr.refRevert) s
      (fun t => { s with regs := t.regs, clk := t.clk })
      (inBlocks [.clk, .time])) ∧
  (∀ (h : Hub) (out : Bool) (s : State),
    ∀ row ∈ [Instr.relockStart h out, Instr.sysrefGo h], Leaves row s
      (fun t => { s with clk := t.clk })
      (inBlocks [])) ∧
  (∀ (h : Hub) (out : Bool) (count : Nat) (s : State),
    ∀ row ∈ [Instr.lockWindow h out count, Instr.lockaChange out, Instr.synthLock h out, Instr.clkRelock h], Leaves row s
      (fun t => { s with regs := t.regs, clk := t.clk })
      (inBlocks [.clk])) ∧
  (∀ (h : Hub) (out : Bool) (s : State),
    Leaves (Instr.relockTimeout h out) s
      (fun t => { s with regs := t.regs, flight := t.flight, clk := t.clk })
      (inBlocks [.clk])) ∧
  (∀ (h : Hub) (s : State),
    Leaves (Instr.clkCommit h) s
      (fun t => { s with regs := t.regs, live := t.live, clk := t.clk })
      (inBlocks [.clk, .time])) ∧
  (∀ (h : Hub) (s : State),
    Leaves (Instr.clkRevert h) s
      (fun t => { s with regs := t.regs })
      (inBlocks [.clk])) ∧
  (∀ (s : State),
    Leaves (Instr.refStartTimeout) s
      (fun t => { s with regs := t.regs, flight := t.flight })
      (inBlocks [.clk])) ∧
  (∀ (v : Word) (p : Hub) (m : PtpMsg) (a : PtpAnnounce) (remote : Sts) (corr : BitVec 64)
      (r : Nat) (inst : Fin 2) (kind : Fin 16) (s : State),
    ∀ row ∈ [Instr.rateEffective, Instr.slewInterval, Instr.timeStep, Instr.timeRemWrite v,
      Instr.ptpAnnounceReceive p m a, Instr.ptpDelayRespReceive p m remote corr r,
      Instr.ptpAnnounceTimeout p inst, Instr.ptpMessageTransmit p inst kind r], Leaves row s
      (fun t => { s with regs := t.regs, time := t.time })
      (inBlocks [.time])) ∧
  (∀ (s : State),
    Leaves (Instr.timeUnset) s
      (fun t => { s with regs := t.regs })
      (inBlocks [.time])) ∧
  (∀ (k : Fin 4) (p : Hub) (m : PtpMsg) (origin : Sts) (corr : BitVec 64) (r : Nat)
      (inst : Fin 2) (s : State),
    ∀ row ∈ [Instr.timeAdjust, Instr.timeHostset, Instr.baseRevert k, Instr.refBaseTick, Instr.ppsLoss k,
      Instr.ptpSyncReceive p m origin corr r, Instr.ptpSyncTimeout p inst], Leaves row s
      (fun t => { s with regs := t.regs, flight := t.flight, time := t.time })
      (inBlocks [.time])) ∧
  (∀ (p : Hub) (inst : Fin 2) (s : State),
    Leaves (Instr.ptpDelayTimeout p inst) s
      (fun t => { s with time := t.time })
      (inBlocks [])) ∧
  (∀ (g : Fin 16) (rising : Bool) (r : Nat) (k : BitVec 8) (s : State),
    Leaves (Instr.tdcEdge g rising r k) s
      (fun t => { s with
          regs := t.regs, flight := t.flight, time := t.time, trg := t.trg, tdc := t.tdc, iv := t.iv })
      (inBlocks [.time, .tdc, .trg])) ∧
  (∀ (h : Hub) (mask : BitVec 8) (g : Fin 16) (s : State),
    ∀ row ∈ [Instr.tdcArm h mask, Instr.tdcFlush h mask, Instr.tdcReady g], Leaves row s
      (fun t => { s with regs := t.regs, tdc := t.tdc })
      (inBlocks [.tdc])) ∧
  (∀ (h : Hub) (n : Fin 8) (update : Bool) (dnl : BitVec 8) (inl : BitVec 8) (minHits : Nat) (s : State),
    ∀ row ∈ [Instr.tdcCheck h n update, Instr.tdcCheckDone h dnl inl minHits], Leaves row s
      (fun t => { s with regs := t.regs, tdcCheck := t.tdcCheck })
      (inBlocks [.tdc])) ∧
  (∀ (g : Fin 16) (s : State),
    Leaves (Instr.tdcFifoPop g) s
      (fun t => { s with regs := t.regs, readData := t.readData, tdc := t.tdc })
      (inBlocks [.tdc])) ∧
  (∀ (h : Hub) (m : Fin 4) (s : State),
    Leaves (Instr.ivFifoPop h m) s
      (fun t => { s with regs := t.regs, readData := t.readData, iv := t.iv })
      (inBlocks [.tdc])) ∧
  (∀ (g : Fin 16) (s : State),
    Leaves (Instr.presenceTimeout g) s
      (fun t => { s with regs := t.regs, flight := t.flight, tdc := t.tdc })
      (inBlocks [.tdc])) ∧
  (∀ (g : Fin 16) (s : State),
    Leaves (Instr.tdcSettleEnd g) s
      (fun t => { s with tdc := t.tdc })
      (inBlocks [])) ∧
  (∀ (h : Hub) (s : State),
    Leaves (Instr.sysrefEdge h) s
      (fun t => { s with
          regs := t.regs, force := t.force, tabF := t.tabF, marks := t.marks, acq := t.acq
          jrx := t.jrx, time := t.time, wb := t.wb, trg := t.trg, recs := t.recs, dens := t.dens
          zooms := t.zooms, clk := t.clk })
      (inBlocks [.acq, .chz, .dens, .recd, .trg, .wb]))

/-- The frame of the flash store rows, the capture-memory rows and the DMA rows that store nothing. -/
def Obligations.StoreRowsFrame : Prop :=
  (∀ (h : Hub) (k : Fin 64) (seq : Nat) (fail : Option (Fin 256)) (waits : Nat) (s : State),
    ∀ row ∈ [Instr.sourceOpen h k, Instr.rowConfirm h seq fail waits], Leaves row s
      (fun t => { s with regs := t.regs, flight := t.flight, nfs := t.nfs })
      (fun x => nfsB h ≤ x)) ∧
  (∀ (h : Hub) (k : Fin 64) (s : State),
    ∀ row ∈ [Instr.sourceClose h k, Instr.sourceWaitExpire h k, Instr.rowSeal h], Leaves row s
      (fun t => { s with regs := t.regs, nfs := t.nfs })
      (fun x => nfsB h ≤ x)) ∧
  (∀ (h : Hub) (d : Fin 256) (g : Nat) (s : State),
    ∀ row ∈ [Instr.nandDieFail h d, Instr.rebuildComplete h g, Instr.nfsDelete h], Leaves row s
      (fun t => { s with regs := t.regs, flight := t.flight, nfs := t.nfs })
      (inBlocks [.nfs])) ∧
  (∀ (h : Hub) (g : Nat) (sb : Nat) (x : NandRead) (n : BitVec 24) (luns : List NandLun)
      (chans : List (BitVec 12 × BitVec 2)) (s : State),
    ∀ row ∈ [Instr.patrol h g sb x, Instr.readDisturbPatrol h g sb x, Instr.nfsFormat h, Instr.nfsCatSelWrite h n,
      Instr.nfsMount h luns chans], Leaves row s
      (fun t => { s with regs := t.regs, nfs := t.nfs })
      (inBlocks [.nfs])) ∧
  (∀ (h : Hub) (bad : List Nat) (s : State),
    ∀ row ∈ [Instr.nfsFormatComplete h bad, Instr.nfsEraseDone h], Leaves row s
      (fun t => { s with regs := t.regs, drawn := t.drawn, nfs := t.nfs })
      (inBlocks [.nfs])) ∧
  (∀ (h : Hub) (s : State),
    Leaves (Instr.nfsRead h) s
      (fun t => { s with regs := t.regs, credits := t.credits, lineOvf := t.lineOvf })
      (inBlocks [.nfs])) ∧
  (∀ (h : Hub) (s : State),
    Leaves (Instr.nfsUnlockCmd h) s
      (fun t => { s with regs := t.regs, flight := t.flight, nfs := t.nfs })
      (fun _ => True)) ∧
  (∀ (h : Hub) (s : State),
    Leaves (Instr.nfsErase h) s
      (fun t => { s with regs := t.regs, flight := t.flight })
      (inBlocks [.chip, .nfs])) ∧
  (∀ (h : Hub) (c : Fin 2) (s : State),
    Leaves (Instr.ddrRetrain h c) s
      (fun t => { s with ddr := t.ddr })
      (inBlocks [])) ∧
  (∀ (h : Hub) (c : Fin 2) (early : Bool) (s : State),
    Leaves (Instr.ddrSelfRefreshEntry h c early) s
      (fun t => { s with regs := t.regs, flight := t.flight, recs := t.recs, ddr := t.ddr })
      (inBlocks [.ddr, .recd])) ∧
  (∀ (h : Hub) (c : Fin 2) (s : State),
    ∀ row ∈ [Instr.ddrSelfRefreshExit h c, Instr.ddrReleaseDone h c], Leaves row s
      (fun t => { s with regs := t.regs, ddr := t.ddr })
      (inBlocks [.ddr])) ∧
  (∀ (h : Hub) (k : Fin 16) (parityBad : Bool) (s : State),
    ∀ row ∈ [Instr.dmaHalt h k parityBad, Instr.dmaLoop h k parityBad, Instr.dmaWait h k parityBad,
      Instr.dmaSignalIrq h k parityBad, Instr.dmaSeta h k parityBad, Instr.dmaNop h k parityBad], Leaves row s
      (fun t => { s with regs := t.regs, flight := t.flight, credits := t.credits, dma := t.dma })
      (inBlocks [.dma])) ∧
  (∀ (h : Hub) (k : Fin 16) (s : State),
    Leaves (Instr.dmaWaitTimeout h k) s
      (fun t => { s with regs := t.regs, credits := t.credits, dma := t.dma })
      (inBlocks [.dma])) ∧
  (∀ (h : Hub) (k : Fin 16) (parityBad : Bool) (s : State),
    Leaves (Instr.dmaSignalEvent h k parityBad) s
      (fun t => { s with
          regs := t.regs, flight := t.flight, credits := t.credits, lineOvf := t.lineOvf, dma := t.dma })
      (inBlocks [.dma])) ∧
  (∀ (h : Hub) (k : Fin 16) (s : State),
    ∀ row ∈ [Instr.dmaRun h k, Instr.dmaStop h k], Leaves row s
      (fun t => { s with regs := t.regs, dma := t.dma })
      (inBlocks [.dma])) ∧
  (∀ (h : Hub) (k : Fin 16) (s : State),
    ∀ row ∈ [Instr.dmaPause h k, Instr.dmaResume h k], Leaves row s
      (fun t => { s with regs := t.regs })
      (inBlocks [.dma])) ∧
  (∀ (h : Hub) (kept : List Nat) (s : State),
    Leaves (Instr.nfsMounted h kept []) s
      (fun t => { s with regs := t.regs, flight := t.flight, nfs := t.nfs, drawn := t.drawn })
      (inBlocks [.nfs]))

/-- The frame of the rows of Ethernet, display, housekeeping, faults, SPI, register reads, and of the power and boot rows that place nothing. -/
def Obligations.PortRowsFrame : Prop :=
  (∀ (h : Hub) (sub : Fin 4) (s : State),
    Leaves (Instr.ethLinkUp h sub) s
      (fun t => { s with regs := t.regs, eth := t.eth })
      (inBlocks [.eth])) ∧
  (∀ (h : Hub) (sub : Fin 4) (s : State),
    ∀ row ∈ [Instr.ethLinkDown h sub, Instr.ethRestart h], Leaves row s
      (fun t => { s with regs := t.regs, flight := t.flight })
      (inBlocks [.eth])) ∧
  (∀ (h : Hub) (d : Fin 64) (macs : List (Option (BitVec 48))) (s : State),
    ∀ row ∈ [Instr.streamPacketForm h d, Instr.streamHoldExpire h d, Instr.addressResolve h macs,
      Instr.vrtContextPeriodic h d], Leaves row s
      (fun t => { s with regs := t.regs, strs := t.strs })
      (inBlocks [.eth])) ∧
  (∀ (h : Hub) (sub : Fin 4) (s : State),
    Leaves (Instr.frameTransmit h sub) s
      (fun t => { s with regs := t.regs, trgTx := t.trgTx, eth := t.eth, strs := t.strs })
      (inBlocks [.eth])) ∧
  (∀ (h : Hub) (f : EthFrame) (s : State),
    Leaves (Instr.ethFrameReceive h f) s
      (fun t => { s with regs := t.regs, trg := t.trg, eth := t.eth })
      (inBlocks [.eth, .time, .trg])) ∧
  (∀ (h : Hub) (s : State),
    Leaves (Instr.mgmtEcho h) s
      (fun t => { s with eth := t.eth })
      (inBlocks [])) ∧
  (∀ (h : Hub) (s : State),
    ∀ row ∈ [Instr.mgmtStopPortStreams h, Instr.mgmtStopAllStreams h], Leaves row s
      (fun t => { s with regs := t.regs, eth := t.eth, strs := t.strs })
      (inBlocks [.eth])) ∧
  (∀ (h : Hub) (pfc : Bool) (prios : BitVec 8) (quanta : List (BitVec 16)) (s : State),
    ∀ row ∈ [Instr.pauseReceive h pfc prios quanta, Instr.pauseExpire h prios], Leaves row s
      (fun t => { s with regs := t.regs })
      (inBlocks [.eth])) ∧
  (∀ (h : Hub) (s : State),
    ∀ row ∈ [Instr.dispEnable h, Instr.dispHandover h, Instr.vrrRelease h, Instr.vrrMaxExpire h], Leaves row s
      (fun t => { s with regs := t.regs, live := t.live, tabL := t.tabL, disp := t.disp })
      (inBlocks [.disp])) ∧
  (∀ (h : Hub) (mask : BitVec 4) (x : BitVec 13) (s : State),
    ∀ row ∈ [Instr.dispDisable h, Instr.dispCommit h mask, Instr.lineFetch h, Instr.dispUnderrun h x], Leaves row s
      (fun t => { s with regs := t.regs, disp := t.disp })
      (inBlocks [.disp])) ∧
  (∀ (h : Hub) (trains : BitVec 8) (adaptive : Bool) (s : State),
    Leaves (Instr.dispLinkTrain h trains adaptive) s
      (fun t => { s with regs := t.regs, flight := t.flight, disp := t.disp })
      (inBlocks [.disp])) ∧
  (∀ (h : Hub) (mask : BitVec 4) (s : State),
    Leaves (Instr.dispRevert h mask) s
      (fun t => { s with regs := t.regs, tabS := t.tabS })
      (inBlocks [.disp])) ∧
  (∀ (h : Hub) (write : Option Word) (s : State),
    Leaves (Instr.dispPalDataAccess h write) s
      (fun t => { s with regs := t.regs, tabS := t.tabS, readData := t.readData })
      (inBlocks [.disp])) ∧
  (∀ (h : Hub) (high : Bool) (s : State),
    Leaves (Instr.hpdChange h high) s
      (fun t => { s with regs := t.regs, flight := t.flight })
      (inBlocks [.disp])) ∧
  (∀ (h : Hub) (mask : BitVec 2) (c : Fin 2) (s : State),
    ∀ row ∈ [Instr.hkStart h mask, Instr.hkTimerTrigger h c, Instr.hkSequenceStart h c], Leaves row s
      (fun t => { s with regs := t.regs, hk := t.hk })
      (inBlocks [.hka])) ∧
  (∀ (h : Hub) (k : Fin 8) (s : State),
    Leaves (Instr.hkPairTimeout h k) s
      (fun t => { s with regs := t.regs, flight := t.flight, pairs := t.pairs })
      (inBlocks [.hka])) ∧
  (∀ (v : Rat) (s : State),
    Leaves (Instr.ledgerConversion v) s
      (fun t => { s with regs := t.regs })
      (inBlocks [.pwr])) ∧
  (∀ (h : Hub) (p : Fin 4) (zero : Bool) (s : State),
    Leaves (Instr.pwmEdge h p zero) s
      (fun t => { s with regs := t.regs, hk := t.hk, pwm := t.pwm })
      (inBlocks [.hka])) ∧
  (∀ (h : Hub) (n : BitVec 8) (s : State),
    Leaves (Instr.fcolWindowClose h n) s
      (fun t => { s with fcol := t.fcol })
      (inBlocks [])) ∧
  (∀ (h : Hub) (n : BitVec 8) (s : State),
    ∀ row ∈ [Instr.fcolQuietExit h n, Instr.fcolClearFirst h, Instr.fcolClearSrc h], Leaves row s
      (fun t => { s with regs := t.regs, fcol := t.fcol })
      (inBlocks [.fcol])) ∧
  (∀ (h : Hub) (s : State),
    Leaves (Instr.fcolAliveResume h) s
      (fun t => { s with regs := t.regs })
      (inBlocks [.fcol])) ∧
  (∀ (s : State),
    Leaves (Instr.plannerHeartbeat) s
      (fun t => { s with beatsMissed := t.beatsMissed })
      (inBlocks [])) ∧
  (∀ (s : State),
    Leaves (Instr.heartbeatMiss) s
      (fun t => { s with flight := t.flight, beatsMissed := t.beatsMissed })
      (inBlocks [])) ∧
  (∀ (s : State),
    Leaves (Instr.aliveToggle) s
      (fun t => { s with alive := t.alive })
      (inBlocks [])) ∧
  (∀ (h : Hub) (s : State),
    ∀ row ∈ [Instr.spiStatus h, Instr.spiId h], Leaves row s
      (fun t => { s with spi := t.spi })
      (inBlocks [])) ∧
  (∀ (h : Hub) (addr : BitVec 32) (words : List Word) (s : State),
    ∀ row ∈ [Instr.spiWrite h addr words, Instr.spiWriteFixed h addr words], Leaves row s
      (fun t => { s with regs := t.regs, rails := t.rails, spi := t.spi })
      (inBlocks [.boot, .pwr])) ∧
  (∀ (h : Hub) (addr : BitVec 32) (s : State),
    Leaves (Instr.spiReadTimeout h addr) s
      (fun t => { s with
          regs := t.regs, tabS := t.tabS, flight := t.flight, lineOvf := t.lineOvf
          readData := t.readData, cores := t.cores, tdc := t.tdc, iv := t.iv, access := t.access
          mbox := t.mbox, spi := t.spi })
      (fun _ => True)) ∧
  (∀ (p : Path) (w : BitVec 28) (u : HwUpdate) (s : State),
    Leaves (Instr.rcClearingRead p w u) s
      (fun t => { s with
          regs := t.regs, tabS := t.tabS, flight := t.flight, credits := t.credits
          lineOvf := t.lineOvf, readData := t.readData, cores := t.cores, tdc := t.tdc, iv := t.iv
          dma := t.dma, access := t.access, fcol := t.fcol, mbox := t.mbox })
      (fun _ => True)) ∧
  (∀ (h : Hub) (s : State),
    Leaves (Instr.mgmtRead h) s
      (fun t => { s with
          regs := t.regs, tabS := t.tabS, flight := t.flight, lineOvf := t.lineOvf
          readData := t.readData, cores := t.cores, tdc := t.tdc, iv := t.iv, eth := t.eth
          access := t.access, mbox := t.mbox })
      (fun _ => True)) ∧
  (∀ (h : Hub) (p : Path) (s : State),
    Leaves (Instr.mboxLastWordRead h p) s
      (fun t => { s with
          regs := t.regs, tabS := t.tabS, flight := t.flight, lineOvf := t.lineOvf
          readData := t.readData, cores := t.cores, tdc := t.tdc, iv := t.iv, access := t.access
          mbox := t.mbox })
      (fun _ => True)) ∧
  (∀ (h : Hub) (p : Path) (s : State),
    Leaves (Instr.mboxRequestComplete h p) s
      (fun t => { s with
          regs := t.regs, flight := t.flight, time := t.time, tdc := t.tdc, iv := t.iv, nfs := t.nfs
          eth := t.eth, strs := t.strs, access := t.access, fcol := t.fcol, mbox := t.mbox
          plans := t.plans, hashIn := t.hashIn })
      (fun _ => True)) ∧
  (∀ (s : State),
    ∀ row ∈ [Instr.pwrCmdWake, Instr.aonExit], Leaves row s
      (fun t => { s with regs := t.regs, rails := t.rails })
      (inBlocks [.boot, .pwr])) ∧
  (∀ (ok : Bool) (pmb : Bool) (s : State),
    Leaves (Instr.railSequenceStep ok pmb) s
      (fun t => { s with regs := t.regs, powered := t.powered, hotLost := t.hotLost, rails := t.rails })
      (inBlocks [.boot, .pwr])) ∧
  (∀ (mv : Nat) (s : State),
    Leaves (Instr.vcoreSetPoint mv) s
      (fun t => { s with rails := t.rails })
      (inBlocks [])) ∧
  (∀ (s : State),
    Leaves (Instr.ledgerCalibrate) s
      (fun t => { s with regs := t.regs, flight := t.flight, ledger := t.ledger })
      (inBlocks [.pwr])) ∧
  (∀ (s : State),
    Leaves (Instr.capTestStart) s
      (fun t => { s with regs := t.regs, hk := t.hk, ledger := t.ledger })
      (inBlocks [.hka, .pwr])) ∧
  (∀ (s : State),
    Leaves (Instr.capTestEnd) s
      (fun t => { s with regs := t.regs, flight := t.flight, hk := t.hk, ledger := t.ledger })
      (inBlocks [.hka, .pwr])) ∧
  (∀ (sel : BitVec 2) (s : State),
    Leaves (Instr.resetRelease sel) s
      (fun t => { s with regs := t.regs, resetLow := t.resetLow })
      (inBlocks [.boot])) ∧
  (∀ (s : State),
    Leaves (Instr.powerRestore) s
      (fun t => { s with regs := t.regs, powerGood := t.powerGood, rails := t.rails })
      (inBlocks [.boot])) ∧
  (∀ (mismatch : Bool) (s : State),
    Leaves (Instr.norProgDone mismatch) s
      (fun t => { s with regs := t.regs, boot := t.boot })
      (inBlocks [.boot])) ∧
  (∀ (s : State),
    Leaves (Instr.svnAdvance) s
      (fun t => { s with regs := t.regs, fusedSvn := t.fusedSvn })
      (inBlocks [.boot])) ∧
  (∀ (ok : Bool) (s : State),
    Leaves (Instr.fuseDone ok) s
      (fun t => { s with
          regs := t.regs, boot := t.boot, fuses := t.fuses, fusedSvn := t.fusedSvn, keyHash := t.keyHash })
      (inBlocks [.boot])) ∧
  (∀ (s : State),
    ∀ row ∈ [Instr.bootNorProg, Instr.bootFuseGo], Leaves row s
      (fun t => { s with regs := t.regs, flight := t.flight, access := t.access, boot := t.boot })
      (inBlocks [.boot, .chip])) ∧
  (∀ (a0 : DdrTrain) (a1 : DdrTrain) (b0 : DdrTrain) (b1 : DdrTrain) (s : State),
    Leaves (Instr.memoryTrainingComplete a0 a1 b0 b1) s
      (fun t => { s with regs := t.regs, flight := t.flight, ddr := t.ddr, boot := t.boot })
      (inBlocks [.boot, .ddr])) ∧
  (∀ (l : LedgerIn) (s t : State), exec (.ledgerStep l) s = .next t →
    ∃ u, t = planStep (capAct (capNow s) (s.rd (pwrB 0) R.PWR_E_AVAIL_E) l.ends l.again) u ∧
      u = { s with regs := u.regs, force := u.force, ledger := u.ledger, energy := u.energy, plans := u.plans, ddr := u.ddr,
                   flight := u.flight } ∧ ∀ a, ¬ inBlocks [.pwr, .ddr] a → u.reg a = s.reg a)

/-- The frame of rows that store into capture memory: where they store, and that nothing else changes. -/
def Obligations.MemoryRowsFrame : Prop :=
  (∀ (d : TDie) (n : Fin 128) (s t : State), exec (.zoomBlockWritten d n) s = .next t →
    ((s.zoom d n).closed = [] → sameBytes s t) ∧
    ∀ i size l r, (s.zoom d n).closed = (i, size, l) :: r →
        onlyBytes s t (hubOf s d) (s.rd (zcB d n) R.ZC_n_RING_BASE_BASE * 2 ^ 20 +
        i % (s.rd (zcB d n) R.ZC_n_RING_SIZE_SIZE * 1024 / size) * size) l.length) ∧
  (∀ (d : TDie) (c : CoreIx) (p : Fin 2) (s t : State), exec (.coreBlockWritten d c p) s = .next t →
    ((tget (fun _ => ({} : CoreOut)) (s.core d c).outs p).closed = [] → sameBytes s t) ∧
    ∀ i l r, (tget (fun _ => ({} : CoreOut)) (s.core d c).outs p).closed = (i, l) :: r →
      onlyBytes s t (hubOf s d) (outSlot s d c p i) l.length) ∧
  (∀ (d : TDie) (s t : State), exec (.densFrameWritten d) s = .next t →
    ((s.densSt d).frames = [] → sameBytes s t) ∧
    ∀ o r, (s.densSt d).frames = o :: r → onlyBytes s t (hubOf s d) o.addr o.bytes.length) ∧
  (∀ (d : TDie) (s t : State), exec (.sgRowWritten d) s = .next t →
    ((s.densSt d).rows = [] → sameBytes s t) ∧
    ∀ o r, (s.densSt d).rows = o :: r → onlyBytes s t (hubOf s d) o.addr o.bytes.length) ∧
  (∀ (d : TDie) (s t : State), exec (.tarnBlockWrite d) s = .next t →
    let l := pairLead d; let q := (s.recSt l).tarn;
    (recMode s l = 2 → recRegion s l + recSize s l ≤ 2 ^ 40) →
    ∀ (g : Hub) (b : Nat), b < 2 ^ 40 → (g.val ≠ hubOf s l ∨
        ((b < q.slotAt q.next % 2 ^ 40 ∨ q.slotAt q.next % 2 ^ 40 + tarnSlot ≤ b) ∧
          (b < q.descAt q.next % 2 ^ 40 ∨ q.descAt q.next % 2 ^ 40 + 16 ≤ b) ∧
          (recMode s l = 2 → b < recRegion s l ∨ recRegion s l + recSize s l ≤ b))) → t.rawByte g b = s.rawByte g b) ∧
  (∀ (d : TDie) (s t : State), exec (.coBlockFlush d) s = .next t → coBase s d + coSize s d ≤ 2 ^ 40 →
    onlyBytes s t (hubOf s d) (coBase s d) (coSize s d)) ∧
  (∀ (h : Hub) (x : NandRead) (s t : State), exec (.nfsReadDone h x) s = .next t →
    (∀ e ∈ (s.nfsSt h).sectors, e.2.length = 4096) →
    onlyBytes s t h (s.rd (nfsB h) R.NFS_RD_DEST_BASE * 2 ^ 20) (s.rd (nfsB h) R.NFS_RD_LEN_SECTORS * 4096)) ∧
  (∀ (h : Hub) (l : List DdrReq) (s t : State), exec (.ddrWriteAccept h l) s = .next t →
    ∀ (g : Hub) (b : Nat), b < 2 ^ 40 →
      (g ≠ h ∨ ∀ r ∈ l, b < r.addr % 2 ^ 40 ∨ r.addr % 2 ^ 40 + min r.data.length (128 - r.addr % 128) ≤ b) →
        t.rawByte g b = s.rawByte g b) ∧
  (∀ (d : TDie) (n : Fin 128) (s : State),
    Leaves (Instr.zoomBlockWritten d n) s
      (fun t => { s with
          regs := t.regs, cap := t.cap, credits := t.credits, lineOvf := t.lineOvf, zooms := t.zooms })
      (inBlocks [.chz])) ∧
  (∀ (d : TDie) (c : CoreIx) (p : Fin 2) (s : State),
    Leaves (Instr.coreBlockWritten d c p) s
      (fun t => { s with
          regs := t.regs, cap := t.cap, credits := t.credits, lineOvf := t.lineOvf, cores := t.cores })
      (inBlocks [.cctl])) ∧
  (∀ (d : TDie) (s : State),
    ∀ row ∈ [Instr.densFrameWritten d, Instr.sgRowWritten d], Leaves row s
      (fun t => { s with
          regs := t.regs, cap := t.cap, credits := t.credits, lineOvf := t.lineOvf, dens := t.dens })
      (inBlocks [.dens])) ∧
  (∀ (d : TDie) (s : State),
    Leaves (Instr.tarnBlockWrite d) s
      (fun t => { s with regs := t.regs, cap := t.cap, marks := t.marks, recs := t.recs, nfs := t.nfs })
      (inBlocks [.nfs, .pwr, .recd])) ∧
  (∀ (d : TDie) (s : State),
    Leaves (Instr.coBlockFlush d) s
      (fun t => { s with cap := t.cap, recs := t.recs })
      (inBlocks [])) ∧
  (∀ (h : Hub) (x : NandRead) (s : State),
    Leaves (Instr.nfsReadDone h x) s
      (fun t => { s with
          regs := t.regs, cap := t.cap, flight := t.flight, credits := t.credits, lineOvf := t.lineOvf
          nfs := t.nfs })
      (inBlocks [.nfs])) ∧
  (∀ (h : Hub) (l : List DdrReq) (s : State),
    Leaves (Instr.ddrWriteAccept h l) s
      (fun t => { s with cap := t.cap, ddr := t.ddr })
      (inBlocks [])) ∧
  (∀ (d : TDie) (first : Nat) (s : State),
    Leaves (Instr.densRowRepair d first) s
      (fun t => { s with regs := t.regs, cap := t.cap, dens := t.dens })
      (inBlocks [.dens, .recd])) ∧
  (∀ (d : TDie) (first : Nat) (s : State),
    Leaves (Instr.traceRepairOutput d first) s
      (fun t => { s with
          regs := t.regs, cap := t.cap, items := t.items, traceRing := t.traceRing
          credits := t.credits, lineOvf := t.lineOvf, wb := t.wb })
      (inBlocks [.recd]))

/-- R6, R7, R13, R631 to R638: the row that reads a register by any path, with what a normal read changes.
* RC_CLEARING_READ by a path that does not reach the address, or of a reserved address or a die that does not
  answer: zero.
* RC_CLEARING_READ in the window of a die that the part does not have (R6): zero.
* RC_CLEARING_READ of a register (R636): its value, and its RC fields clear. `regValue` shows live values under VIEW
  (R13), the lead's registers where a die shows them, and the derived registers of CHIP, FCOL and DMA.
* RC_CLEARING_READ of a register that is held as it reads: its word.
* RC_CLEARING_READ of an aperture word (R403, R507, R634): capture memory as it is stored, zeros of the boot region
  under the DEBUG lock; beyond the memory zeros and an access violation.
* RC_CLEARING_READ of a core's program or data word (R274, R403): the word, the data word sign-extended; zero under
  the DEBUG lock.
* RC_CLEARING_READ of the last word of an event queue's window (R446): it pops the entry.
* RC_CLEARING_READ of DMA_LINE_STATE (R525): OVF of the line shown clears.
* RC_CLEARING_READ of CORE_c_EVQ and of a table data port (R305, R310, R636): as the rows CORE_EVQ_POP and the port
  accesses do.
* RC_CLEARING_READ of an offset without a register (R633): zero.
* RC_CLEARING_READ of another word of a queue window: a word of the oldest entry, or zero.
* RC_CLEARING_READ of a register of the path's mailbox bank (R645, R646, R651): it reads it; the last word of a
  value clears VALID, MBOX_STATUS its ERR and OVERRUN.
* RC_CLEARING_READ of a word of the DMA program memory (R513).
* RC_CLEARING_READ with a hardware update in the same cycle (R7): the update comes on top of what the read leaves,
  so an RC bit that it sets survives the read. -/
def Obligations.RegisterReadRowsComplete : Prop :=
  (∀ (p : Path) (a : BitVec 28) (s : State), pathReaches s p a.toNat = false ∨ reach s a.toNat = .none ∨
      reach s a.toNat = .silent → ∃ t, exec (Instr.rcClearingRead p a {}) s = .next t ∧
      t = { s with readData := 0, access := 0 }) ∧
  (∀ (p : Path) (a : BitVec 28) (h : Nat) (s : State), pathReaches s p a.toNat = true → reach s a.toNat = .absent h →
      ∃ t, exec (Instr.rcClearingRead p a {}) s = .next t ∧ t = { s with readData := 0, access := 1 }) ∧
  (∀ (p : Path) (a : BitVec 28) (b : Block) (i o : Nat) (r : RegDesc) (s : State), regFound s p a.toNat b i o r →
      b ∉ [Block.mbox, .core, .aperture] → (b, o) ≠ (Block.dma, R.DMA_LINE_STATE) → (b = .tdc →
      (tdcWindow o).isNone = true ∧ (ivWindow o).isNone = true) → (b = .cctl →
      (coreOfCctl o).all (fun x => x.2 != R.CORE_c_EVQ) = true) →
      ∃ t, exec (Instr.rcClearingRead p a {}) s = .next t ∧
      t.readData = BitVec.ofNat 32 (regValue s p b i o (windowOf a.toNat)) ∧ t.access = 0 ∧
      ∀ k : Fin 32, (t.reg (homeOf b i o (windowOf a.toNat))).getLsbD k = ((s.reg (homeOf b i o (windowOf a.toNat))).getLsbD k && !bit (accMask (some r) (· == .rc)) k)) ∧
  (∀ (p : Path) (a : BitVec 28) (b : Block) (i o : Nat) (s : State), pathReaches s p a.toNat = true →
      reach s a.toNat = .at_ b i o → b ∈ [Block.boot, .hka, .ddr, .nfs, .eth, .acq, .jrx] → a.toNat % 4 = 0 →
      ∃ t, exec (Instr.rcClearingRead p a {}) s = .next t ∧ t.readData = BitVec.ofNat 32 (s.reg a.toNat).toNat) ∧
  (∀ (p : Path) (a : BitVec 28) (i c : Nat) (s : State), pathReaches s p a.toNat = true →
      reach s a.toNat = .at_ .aperture i c → ∃ t, exec (Instr.rcClearingRead p a {}) s = .next t ∧
      t.readData = BitVec.ofNat 32 (apertureWord s (decide (p ≠ .planner)) i c) ∧ (s.hubLimit i ≤ apertureAddr s i c →
      t.rd (chipB i) R.CHIP_VIOL_ADDR_ADDR = a.toNat) ∧ (apertureAddr s i c < s.hubLimit i → t.flight = s.flight)) ∧
  (∀ (p : Path) (a : BitVec 28) (i c : Nat) (s : State), pathReaches s p a.toNat = true →
      reach s a.toNat = .at_ .core i c → ∃ t, exec (Instr.rcClearingRead p a {}) s = .next t ∧
      t = { s with readData := BitVec.ofNat 32 (coreWord s (decide (p ≠ .planner)) i c), access := 0 }) ∧
  (∀ (p : Path) (a : BitVec 28) (i n : Nat) (e : Nat) (l : List Nat) (s : State), pathReaches s p a.toNat = true →
      reach s a.toNat = .at_ .tdc i (0x13C + 0x40 * n) → n < 8 → (s.tdcIn (8 * i + n)).fifo = e :: l →
      ∃ t, exec (Instr.rcClearingRead p a {}) s = .next t ∧ t.readData = BitVec.ofNat 32 (e / 2 ^ 96) ∧ t.access = 0 ∧
      (t.tdcIn (8 * i + n)).fifo = l) ∧
  (∀ (p : Path) (a : BitVec 28) (i n : Nat) (e : Nat) (l : List Nat) (s : State), pathReaches s p a.toNat = true →
      reach s a.toNat = .at_ .tdc i (0x42C + 0x40 * n) → n < 4 → (s.ivUnit i n).fifo = e :: l →
      ∃ t, exec (Instr.rcClearingRead p a {}) s = .next t ∧ t.readData = BitVec.ofNat 32 (e / 2 ^ 96) ∧ t.access = 0 ∧
      (t.ivUnit i n).fifo = l) ∧
  (∀ (p : Path) (a : BitVec 28) (h : Hub) (s : State), pathReaches s p a.toNat = true →
      reach s a.toNat = .at_ .dma h R.DMA_LINE_STATE → ∃ t, exec (Instr.rcClearingRead p a {}) s = .next t ∧
      t = { clearLineOvf h s with readData := BitVec.ofNat 32 (lineStateWord s h), access := 0 }) ∧
  (∀ (p : Path) (a : BitVec 28) (i : TDie) (c : CoreIx) (s : State), pathReaches s p a.toNat = true →
      reach s a.toNat = .at_ .cctl i (0x40 * c + R.CORE_c_EVQ) → ∃ t, exec (Instr.rcClearingRead p a {}) s = .next t ∧
      t = { evqPop i c s with access := 0 }) ∧
  (∀ (p : Path) (a : BitVec 28) (i : TDie) (s : State), pathReaches s p a.toNat = true →
      reach s a.toNat = .at_ .wb i R.WB_WTAB_DATA → ∃ t, exec (Instr.rcClearingRead p a {}) s = .next t ∧
      t = { wtabAccess i none s with access := 0 }) ∧
  (∀ (p : Path) (a : BitVec 28) (i : TDie) (s : State), pathReaches s p a.toNat = true →
      reach s a.toNat = .at_ .trg i R.TRG_MASK_DATA → ∃ t, exec (Instr.rcClearingRead p a {}) s = .next t ∧
      t = { maskAccess i none s with access := 0 }) ∧
  (∀ (p : Path) (a : BitVec 28) (i : TDie) (s : State), pathReaches s p a.toNat = true →
      reach s a.toNat = .at_ .dens i R.DENS_TAB_DATA → ∃ t, exec (Instr.rcClearingRead p a {}) s = .next t ∧
      t = { densTabAccess i none s with access := 0 }) ∧
  (∀ (p : Path) (a : BitVec 28) (i : TDie) (s : State), pathReaches s p a.toNat = true →
      reach s a.toNat = .at_ .recd i R.REC_MT_DATA → ∃ t, exec (Instr.rcClearingRead p a {}) s = .next t ∧
      t = if isLead i then { mtAccess i none s with access := 0 } else { s with readData := 0, access := 0 }) ∧
  (∀ (p : Path) (a : BitVec 28) (h : Hub) (s : State), pathReaches s p a.toNat = true →
      reach s a.toNat = .at_ .disp h R.DISP_PAL_DATA → ∃ t, exec (Instr.rcClearingRead p a {}) s = .next t ∧
      t = { palAccess h none s with access := 0 }) ∧
  (∀ (p : Path) (a : BitVec 28) (b : Block) (i o : Nat) (s : State), pathReaches s p a.toNat = true →
      reach s a.toNat = .at_ b i o → regAt b o = none → b ∉ [Block.mbox, .core, .aperture, .tdc, .cctl, .fcol, .dma] →
      isTable b o = false → s.reg (windowOf a.toNat) = 0 → ∃ t, exec (Instr.rcClearingRead p a {}) s = .next t ∧
      t.readData = 0 ∧ t.access = 0) ∧
  (∀ (p : Path) (a : BitVec 28) (i n : Nat) (s : State), pathReaches s p a.toNat = true →
      reach s a.toNat = .at_ .tdc i (0x130 + 0x40 * (n / 3) + 4 * (n % 3)) → n < 24 →
      ∃ t, exec (Instr.rcClearingRead p a {}) s = .next t ∧
      t = { s with readData := BitVec.ofNat 32 (fifoWord (s.tdcIn (8 * i + n / 3)).fifo (n % 3)), access := 0 }) ∧
  (∀ (p : Path) (a : BitVec 28) (i n : Nat) (s : State), pathReaches s p a.toNat = true →
      reach s a.toNat = .at_ .tdc i (0x420 + 0x40 * (n / 3) + 4 * (n % 3)) → n < 12 →
      ∃ t, exec (Instr.rcClearingRead p a {}) s = .next t ∧
      t = { s with readData := BitVec.ofNat 32 (fifoWord (s.ivUnit i (n / 3)).fifo (n % 3)), access := 0 }) ∧
  (∀ (p : Path) (a : BitVec 28) (h : Hub) (o : Nat) (s : State), pathReaches s p a.toNat = true →
      reach s a.toNat = .at_ .mbox h o → ∃ t, exec (Instr.rcClearingRead p a {}) s = .next t ∧
      t.readData = BitVec.ofNat 32 (mboxReg s h (bankOf p) o) ∧
      (t.mboxSt h (bankOf p)) = (if o = 4 then { (s.mboxSt h (bankOf p)) with err := false, overrun := false }
      else if (s.mboxSt h (bankOf p)).valid = true ∧ (s.mboxSt h (bankOf p)).words ≠ 0 ∧
          o = 0x40 + 4 * ((s.mboxSt h (bankOf p)).words - 1) then { (s.mboxSt h (bankOf p)) with valid := false } else (s.mboxSt h (bankOf p)))) ∧
  (∀ (p : Path) (a : BitVec 28) (h : Hub) (j : Nat) (s : State), pathReaches s p a.toNat = true →
      reach s a.toNat = .at_ .dma h (0x8000 + 4 * j) → ∃ t, exec (Instr.rcClearingRead p a {}) s = .next t ∧
      t = { s with readData := BitVec.ofNat 32 (tget noNat s.dmaMem (dmaWordKey h (j / 4) (j % 4))), access := 0 }) ∧
  (∀ (p : Path) (a : BitVec 28) (b : Block) (i o : Nat) (r : RegDesc) (w : HwUpdate) (s : State),
      reach (hostRead p a.toNat s) a.toNat = .at_ b i o → regAt b o = some r → w.mask ≠ 0 ∨ w.inc = true → b ≠ .mbox →
      (b, o) ∉ [(Block.fcol, R.FCOL_SRC_CFG), (.fcol, R.FCOL_SRC_STATE), (.fcol, R.FCOL_SRC_COUNT),
      (.dma, R.DMA_LINE_STATE), (.acq, R.ACQ_DELAY_TOTAL)] → ∃ t, exec (Instr.rcClearingRead p a w) s = .next t ∧
      hwUpdated b r w ((hostRead p a.toNat s).reg (homeOf b i o (windowOf a.toNat))) (t.reg (homeOf b i o (windowOf a.toNat))))
end

