-- ==== Sys2Proof/Laws/State.lean ====
section
/-! SUPPORT. What each named update of the state leaves alone: one lemma for each field of `State`. -/

namespace Sys2Proof.Machine

/-! setReg -/
@[simp] theorem State.setReg_pending (s : State) (a : Nat) (v : Word) : (s.setReg a v).pending = s.pending := rfl
@[simp] theorem State.setReg_part (s : State) (a : Nat) (v : Word) : (s.setReg a v).part = s.part := rfl
@[simp] theorem State.setReg_suffixE (s : State) (a : Nat) (v : Word) : (s.setReg a v).suffixE = s.suffixE := rfl
@[simp] theorem State.setReg_live (s : State) (a : Nat) (v : Word) : (s.setReg a v).live = s.live := rfl
@[simp] theorem State.setReg_tabS (s : State) (a : Nat) (v : Word) : (s.setReg a v).tabS = s.tabS := rfl
@[simp] theorem State.setReg_tabL (s : State) (a : Nat) (v : Word) : (s.setReg a v).tabL = s.tabL := rfl
@[simp] theorem State.setReg_force (s : State) (a : Nat) (v : Word) : (s.setReg a v).force = s.force := rfl
@[simp] theorem State.setReg_tabF (s : State) (a : Nat) (v : Word) : (s.setReg a v).tabF = s.tabF := rfl
@[simp] theorem State.setReg_locked (s : State) (a : Nat) (v : Word) : (s.setReg a v).locked = s.locked := rfl
@[simp] theorem State.setReg_cap (s : State) (a : Nat) (v : Word) : (s.setReg a v).cap = s.cap := rfl
@[simp] theorem State.setReg_flight (s : State) (a : Nat) (v : Word) : (s.setReg a v).flight = s.flight := rfl
@[simp] theorem State.setReg_marks (s : State) (a : Nat) (v : Word) : (s.setReg a v).marks = s.marks := rfl
@[simp] theorem State.setReg_drawn (s : State) (a : Nat) (v : Word) : (s.setReg a v).drawn = s.drawn := rfl
@[simp] theorem State.setReg_link (s : State) (a : Nat) (v : Word) : (s.setReg a v).link = s.link := rfl
@[simp] theorem State.setReg_acq (s : State) (a : Nat) (v : Word) : (s.setReg a v).acq = s.acq := rfl
@[simp] theorem State.setReg_jrx (s : State) (a : Nat) (v : Word) : (s.setReg a v).jrx = s.jrx := rfl
@[simp] theorem State.setReg_time (s : State) (a : Nat) (v : Word) : (s.setReg a v).time = s.time := rfl
@[simp] theorem State.setReg_items (s : State) (a : Nat) (v : Word) : (s.setReg a v).items = s.items := rfl
@[simp] theorem State.setReg_traceRing (s : State) (a : Nat) (v : Word) : (s.setReg a v).traceRing = s.traceRing := rfl
@[simp] theorem State.setReg_credits (s : State) (a : Nat) (v : Word) : (s.setReg a v).credits = s.credits := rfl
@[simp] theorem State.setReg_lineOvf (s : State) (a : Nat) (v : Word) : (s.setReg a v).lineOvf = s.lineOvf := rfl
@[simp] theorem State.setReg_codes (s : State) (a : Nat) (v : Word) : (s.setReg a v).codes = s.codes := rfl
@[simp] theorem State.setReg_spares (s : State) (a : Nat) (v : Word) : (s.setReg a v).spares = s.spares := rfl
@[simp] theorem State.setReg_stream (s : State) (a : Nat) (v : Word) : (s.setReg a v).stream = s.stream := rfl
@[simp] theorem State.setReg_readData (s : State) (a : Nat) (v : Word) : (s.setReg a v).readData = s.readData := rfl
@[simp] theorem State.setReg_wb (s : State) (a : Nat) (v : Word) : (s.setReg a v).wb = s.wb := rfl
@[simp] theorem State.setReg_trg (s : State) (a : Nat) (v : Word) : (s.setReg a v).trg = s.trg := rfl
@[simp] theorem State.setReg_trgTx (s : State) (a : Nat) (v : Word) : (s.setReg a v).trgTx = s.trgTx := rfl
@[simp] theorem State.setReg_recs (s : State) (a : Nat) (v : Word) : (s.setReg a v).recs = s.recs := rfl
@[simp] theorem State.setReg_dens (s : State) (a : Nat) (v : Word) : (s.setReg a v).dens = s.dens := rfl
@[simp] theorem State.setReg_cores (s : State) (a : Nat) (v : Word) : (s.setReg a v).cores = s.cores := rfl
@[simp] theorem State.setReg_zooms (s : State) (a : Nat) (v : Word) : (s.setReg a v).zooms = s.zooms := rfl
@[simp] theorem State.setReg_repairs (s : State) (a : Nat) (v : Word) : (s.setReg a v).repairs = s.repairs := rfl
@[simp] theorem State.setReg_lead (s : State) (a : Nat) (v : Word) : (s.setReg a v).lead = s.lead := rfl
@[simp] theorem State.setReg_tdc (s : State) (a : Nat) (v : Word) : (s.setReg a v).tdc = s.tdc := rfl
@[simp] theorem State.setReg_iv (s : State) (a : Nat) (v : Word) : (s.setReg a v).iv = s.iv := rfl
@[simp] theorem State.setReg_tdcCheck (s : State) (a : Nat) (v : Word) : (s.setReg a v).tdcCheck = s.tdcCheck := rfl
@[simp] theorem State.setReg_ddr (s : State) (a : Nat) (v : Word) : (s.setReg a v).ddr = s.ddr := rfl
@[simp] theorem State.setReg_nfs (s : State) (a : Nat) (v : Word) : (s.setReg a v).nfs = s.nfs := rfl
@[simp] theorem State.setReg_powerGood (s : State) (a : Nat) (v : Word) : (s.setReg a v).powerGood = s.powerGood := rfl
@[simp] theorem State.setReg_resetLow (s : State) (a : Nat) (v : Word) : (s.setReg a v).resetLow = s.resetLow := rfl
@[simp] theorem State.setReg_clk (s : State) (a : Nat) (v : Word) : (s.setReg a v).clk = s.clk := rfl
@[simp] theorem State.setReg_enabledIn (s : State) (a : Nat) (v : Word) : (s.setReg a v).enabledIn = s.enabledIn := rfl
@[simp] theorem State.setReg_enableStep (s : State) (a : Nat) (v : Word) : (s.setReg a v).enableStep = s.enableStep := rfl
@[simp] theorem State.setReg_hk (s : State) (a : Nat) (v : Word) : (s.setReg a v).hk = s.hk := rfl
@[simp] theorem State.setReg_pairs (s : State) (a : Nat) (v : Word) : (s.setReg a v).pairs = s.pairs := rfl
@[simp] theorem State.setReg_pwm (s : State) (a : Nat) (v : Word) : (s.setReg a v).pwm = s.pwm := rfl
@[simp] theorem State.setReg_hkAt (s : State) (a : Nat) (v : Word) : (s.setReg a v).hkAt = s.hkAt := rfl
@[simp] theorem State.setReg_powered (s : State) (a : Nat) (v : Word) : (s.setReg a v).powered = s.powered := rfl
@[simp] theorem State.setReg_hotLost (s : State) (a : Nat) (v : Word) : (s.setReg a v).hotLost = s.hotLost := rfl
@[simp] theorem State.setReg_disp (s : State) (a : Nat) (v : Word) : (s.setReg a v).disp = s.disp := rfl
@[simp] theorem State.setReg_dma (s : State) (a : Nat) (v : Word) : (s.setReg a v).dma = s.dma := rfl
@[simp] theorem State.setReg_dmaMem (s : State) (a : Nat) (v : Word) : (s.setReg a v).dmaMem = s.dmaMem := rfl
@[simp] theorem State.setReg_eth (s : State) (a : Nat) (v : Word) : (s.setReg a v).eth = s.eth := rfl
@[simp] theorem State.setReg_strs (s : State) (a : Nat) (v : Word) : (s.setReg a v).strs = s.strs := rfl
@[simp] theorem State.setReg_access (s : State) (a : Nat) (v : Word) : (s.setReg a v).access = s.access := rfl
@[simp] theorem State.setReg_fcol (s : State) (a : Nat) (v : Word) : (s.setReg a v).fcol = s.fcol := rfl
@[simp] theorem State.setReg_aliveRuns (s : State) (a : Nat) (v : Word) : (s.setReg a v).aliveRuns = s.aliveRuns := rfl
@[simp] theorem State.setReg_alive (s : State) (a : Nat) (v : Word) : (s.setReg a v).alive = s.alive := rfl
@[simp] theorem State.setReg_controlLost (s : State) (a : Nat) (v : Word) : (s.setReg a v).controlLost = s.controlLost := rfl
@[simp] theorem State.setReg_beatsMissed (s : State) (a : Nat) (v : Word) : (s.setReg a v).beatsMissed = s.beatsMissed := rfl
@[simp] theorem State.setReg_mbox (s : State) (a : Nat) (v : Word) : (s.setReg a v).mbox = s.mbox := rfl
@[simp] theorem State.setReg_plans (s : State) (a : Nat) (v : Word) : (s.setReg a v).plans = s.plans := rfl
@[simp] theorem State.setReg_planCmds (s : State) (a : Nat) (v : Word) : (s.setReg a v).planCmds = s.planCmds := rfl
@[simp] theorem State.setReg_admissions (s : State) (a : Nat) (v : Word) : (s.setReg a v).admissions = s.admissions := rfl
@[simp] theorem State.setReg_energy (s : State) (a : Nat) (v : Word) : (s.setReg a v).energy = s.energy := rfl
@[simp] theorem State.setReg_ledger (s : State) (a : Nat) (v : Word) : (s.setReg a v).ledger = s.ledger := rfl
@[simp] theorem State.setReg_rails (s : State) (a : Nat) (v : Word) : (s.setReg a v).rails = s.rails := rfl
@[simp] theorem State.setReg_boot (s : State) (a : Nat) (v : Word) : (s.setReg a v).boot = s.boot := rfl
@[simp] theorem State.setReg_brokenPipes (s : State) (a : Nat) (v : Word) : (s.setReg a v).brokenPipes = s.brokenPipes := rfl
@[simp] theorem State.setReg_spi (s : State) (a : Nat) (v : Word) : (s.setReg a v).spi = s.spi := rfl
@[simp] theorem State.setReg_fuses (s : State) (a : Nat) (v : Word) : (s.setReg a v).fuses = s.fuses := rfl
@[simp] theorem State.setReg_fusedSvn (s : State) (a : Nat) (v : Word) : (s.setReg a v).fusedSvn = s.fusedSvn := rfl
@[simp] theorem State.setReg_keyHash (s : State) (a : Nat) (v : Word) : (s.setReg a v).keyHash = s.keyHash := rfl
@[simp] theorem State.setReg_hashIn (s : State) (a : Nat) (v : Word) : (s.setReg a v).hashIn = s.hashIn := rfl

/-! setLive -/
@[simp] theorem State.setLive_pending (s : State) (a : Nat) (v : Word) : (s.setLive a v).pending = s.pending := rfl
@[simp] theorem State.setLive_part (s : State) (a : Nat) (v : Word) : (s.setLive a v).part = s.part := rfl
@[simp] theorem State.setLive_suffixE (s : State) (a : Nat) (v : Word) : (s.setLive a v).suffixE = s.suffixE := rfl
@[simp] theorem State.setLive_regs (s : State) (a : Nat) (v : Word) : (s.setLive a v).regs = s.regs := rfl
@[simp] theorem State.setLive_tabS (s : State) (a : Nat) (v : Word) : (s.setLive a v).tabS = s.tabS := rfl
@[simp] theorem State.setLive_tabL (s : State) (a : Nat) (v : Word) : (s.setLive a v).tabL = s.tabL := rfl
@[simp] theorem State.setLive_force (s : State) (a : Nat) (v : Word) : (s.setLive a v).force = s.force := rfl
@[simp] theorem State.setLive_tabF (s : State) (a : Nat) (v : Word) : (s.setLive a v).tabF = s.tabF := rfl
@[simp] theorem State.setLive_locked (s : State) (a : Nat) (v : Word) : (s.setLive a v).locked = s.locked := rfl
@[simp] theorem State.setLive_cap (s : State) (a : Nat) (v : Word) : (s.setLive a v).cap = s.cap := rfl
@[simp] theorem State.setLive_flight (s : State) (a : Nat) (v : Word) : (s.setLive a v).flight = s.flight := rfl
@[simp] theorem State.setLive_marks (s : State) (a : Nat) (v : Word) : (s.setLive a v).marks = s.marks := rfl
@[simp] theorem State.setLive_drawn (s : State) (a : Nat) (v : Word) : (s.setLive a v).drawn = s.drawn := rfl
@[simp] theorem State.setLive_link (s : State) (a : Nat) (v : Word) : (s.setLive a v).link = s.link := rfl
@[simp] theorem State.setLive_acq (s : State) (a : Nat) (v : Word) : (s.setLive a v).acq = s.acq := rfl
@[simp] theorem State.setLive_jrx (s : State) (a : Nat) (v : Word) : (s.setLive a v).jrx = s.jrx := rfl
@[simp] theorem State.setLive_time (s : State) (a : Nat) (v : Word) : (s.setLive a v).time = s.time := rfl
@[simp] theorem State.setLive_items (s : State) (a : Nat) (v : Word) : (s.setLive a v).items = s.items := rfl
@[simp] theorem State.setLive_traceRing (s : State) (a : Nat) (v : Word) : (s.setLive a v).traceRing = s.traceRing := rfl
@[simp] theorem State.setLive_credits (s : State) (a : Nat) (v : Word) : (s.setLive a v).credits = s.credits := rfl
@[simp] theorem State.setLive_lineOvf (s : State) (a : Nat) (v : Word) : (s.setLive a v).lineOvf = s.lineOvf := rfl
@[simp] theorem State.setLive_codes (s : State) (a : Nat) (v : Word) : (s.setLive a v).codes = s.codes := rfl
@[simp] theorem State.setLive_spares (s : State) (a : Nat) (v : Word) : (s.setLive a v).spares = s.spares := rfl
@[simp] theorem State.setLive_stream (s : State) (a : Nat) (v : Word) : (s.setLive a v).stream = s.stream := rfl
@[simp] theorem State.setLive_readData (s : State) (a : Nat) (v : Word) : (s.setLive a v).readData = s.readData := rfl
@[simp] theorem State.setLive_wb (s : State) (a : Nat) (v : Word) : (s.setLive a v).wb = s.wb := rfl
@[simp] theorem State.setLive_trg (s : State) (a : Nat) (v : Word) : (s.setLive a v).trg = s.trg := rfl
@[simp] theorem State.setLive_trgTx (s : State) (a : Nat) (v : Word) : (s.setLive a v).trgTx = s.trgTx := rfl
@[simp] theorem State.setLive_recs (s : State) (a : Nat) (v : Word) : (s.setLive a v).recs = s.recs := rfl
@[simp] theorem State.setLive_dens (s : State) (a : Nat) (v : Word) : (s.setLive a v).dens = s.dens := rfl
@[simp] theorem State.setLive_cores (s : State) (a : Nat) (v : Word) : (s.setLive a v).cores = s.cores := rfl
@[simp] theorem State.setLive_zooms (s : State) (a : Nat) (v : Word) : (s.setLive a v).zooms = s.zooms := rfl
@[simp] theorem State.setLive_repairs (s : State) (a : Nat) (v : Word) : (s.setLive a v).repairs = s.repairs := rfl
@[simp] theorem State.setLive_lead (s : State) (a : Nat) (v : Word) : (s.setLive a v).lead = s.lead := rfl
@[simp] theorem State.setLive_tdc (s : State) (a : Nat) (v : Word) : (s.setLive a v).tdc = s.tdc := rfl
@[simp] theorem State.setLive_iv (s : State) (a : Nat) (v : Word) : (s.setLive a v).iv = s.iv := rfl
@[simp] theorem State.setLive_tdcCheck (s : State) (a : Nat) (v : Word) : (s.setLive a v).tdcCheck = s.tdcCheck := rfl
@[simp] theorem State.setLive_ddr (s : State) (a : Nat) (v : Word) : (s.setLive a v).ddr = s.ddr := rfl
@[simp] theorem State.setLive_nfs (s : State) (a : Nat) (v : Word) : (s.setLive a v).nfs = s.nfs := rfl
@[simp] theorem State.setLive_powerGood (s : State) (a : Nat) (v : Word) : (s.setLive a v).powerGood = s.powerGood := rfl
@[simp] theorem State.setLive_resetLow (s : State) (a : Nat) (v : Word) : (s.setLive a v).resetLow = s.resetLow := rfl
@[simp] theorem State.setLive_clk (s : State) (a : Nat) (v : Word) : (s.setLive a v).clk = s.clk := rfl
@[simp] theorem State.setLive_enabledIn (s : State) (a : Nat) (v : Word) : (s.setLive a v).enabledIn = s.enabledIn := rfl
@[simp] theorem State.setLive_enableStep (s : State) (a : Nat) (v : Word) : (s.setLive a v).enableStep = s.enableStep := rfl
@[simp] theorem State.setLive_hk (s : State) (a : Nat) (v : Word) : (s.setLive a v).hk = s.hk := rfl
@[simp] theorem State.setLive_pairs (s : State) (a : Nat) (v : Word) : (s.setLive a v).pairs = s.pairs := rfl
@[simp] theorem State.setLive_pwm (s : State) (a : Nat) (v : Word) : (s.setLive a v).pwm = s.pwm := rfl
@[simp] theorem State.setLive_hkAt (s : State) (a : Nat) (v : Word) : (s.setLive a v).hkAt = s.hkAt := rfl
@[simp] theorem State.setLive_powered (s : State) (a : Nat) (v : Word) : (s.setLive a v).powered = s.powered := rfl
@[simp] theorem State.setLive_hotLost (s : State) (a : Nat) (v : Word) : (s.setLive a v).hotLost = s.hotLost := rfl
@[simp] theorem State.setLive_disp (s : State) (a : Nat) (v : Word) : (s.setLive a v).disp = s.disp := rfl
@[simp] theorem State.setLive_dma (s : State) (a : Nat) (v : Word) : (s.setLive a v).dma = s.dma := rfl
@[simp] theorem State.setLive_dmaMem (s : State) (a : Nat) (v : Word) : (s.setLive a v).dmaMem = s.dmaMem := rfl
@[simp] theorem State.setLive_eth (s : State) (a : Nat) (v : Word) : (s.setLive a v).eth = s.eth := rfl
@[simp] theorem State.setLive_strs (s : State) (a : Nat) (v : Word) : (s.setLive a v).strs = s.strs := rfl
@[simp] theorem State.setLive_access (s : State) (a : Nat) (v : Word) : (s.setLive a v).access = s.access := rfl
@[simp] theorem State.setLive_fcol (s : State) (a : Nat) (v : Word) : (s.setLive a v).fcol = s.fcol := rfl
@[simp] theorem State.setLive_aliveRuns (s : State) (a : Nat) (v : Word) : (s.setLive a v).aliveRuns = s.aliveRuns := rfl
@[simp] theorem State.setLive_alive (s : State) (a : Nat) (v : Word) : (s.setLive a v).alive = s.alive := rfl
@[simp] theorem State.setLive_controlLost (s : State) (a : Nat) (v : Word) : (s.setLive a v).controlLost = s.controlLost := rfl
@[simp] theorem State.setLive_beatsMissed (s : State) (a : Nat) (v : Word) : (s.setLive a v).beatsMissed = s.beatsMissed := rfl
@[simp] theorem State.setLive_mbox (s : State) (a : Nat) (v : Word) : (s.setLive a v).mbox = s.mbox := rfl
@[simp] theorem State.setLive_plans (s : State) (a : Nat) (v : Word) : (s.setLive a v).plans = s.plans := rfl
@[simp] theorem State.setLive_planCmds (s : State) (a : Nat) (v : Word) : (s.setLive a v).planCmds = s.planCmds := rfl
@[simp] theorem State.setLive_admissions (s : State) (a : Nat) (v : Word) : (s.setLive a v).admissions = s.admissions := rfl
@[simp] theorem State.setLive_energy (s : State) (a : Nat) (v : Word) : (s.setLive a v).energy = s.energy := rfl
@[simp] theorem State.setLive_ledger (s : State) (a : Nat) (v : Word) : (s.setLive a v).ledger = s.ledger := rfl
@[simp] theorem State.setLive_rails (s : State) (a : Nat) (v : Word) : (s.setLive a v).rails = s.rails := rfl
@[simp] theorem State.setLive_boot (s : State) (a : Nat) (v : Word) : (s.setLive a v).boot = s.boot := rfl
@[simp] theorem State.setLive_brokenPipes (s : State) (a : Nat) (v : Word) : (s.setLive a v).brokenPipes = s.brokenPipes := rfl
@[simp] theorem State.setLive_spi (s : State) (a : Nat) (v : Word) : (s.setLive a v).spi = s.spi := rfl
@[simp] theorem State.setLive_fuses (s : State) (a : Nat) (v : Word) : (s.setLive a v).fuses = s.fuses := rfl
@[simp] theorem State.setLive_fusedSvn (s : State) (a : Nat) (v : Word) : (s.setLive a v).fusedSvn = s.fusedSvn := rfl
@[simp] theorem State.setLive_keyHash (s : State) (a : Nat) (v : Word) : (s.setLive a v).keyHash = s.keyHash := rfl
@[simp] theorem State.setLive_hashIn (s : State) (a : Nat) (v : Word) : (s.setLive a v).hashIn = s.hashIn := rfl

/-! wr -/
@[simp] theorem State.wr_pending (s : State) (b : Nat) (f : Fld) (v : Nat) : (s.wr b f v).pending = s.pending := rfl
@[simp] theorem State.wr_part (s : State) (b : Nat) (f : Fld) (v : Nat) : (s.wr b f v).part = s.part := rfl
@[simp] theorem State.wr_suffixE (s : State) (b : Nat) (f : Fld) (v : Nat) : (s.wr b f v).suffixE = s.suffixE := rfl
@[simp] theorem State.wr_live (s : State) (b : Nat) (f : Fld) (v : Nat) : (s.wr b f v).live = s.live := rfl
@[simp] theorem State.wr_tabS (s : State) (b : Nat) (f : Fld) (v : Nat) : (s.wr b f v).tabS = s.tabS := rfl
@[simp] theorem State.wr_tabL (s : State) (b : Nat) (f : Fld) (v : Nat) : (s.wr b f v).tabL = s.tabL := rfl
@[simp] theorem State.wr_force (s : State) (b : Nat) (f : Fld) (v : Nat) : (s.wr b f v).force = s.force := rfl
@[simp] theorem State.wr_tabF (s : State) (b : Nat) (f : Fld) (v : Nat) : (s.wr b f v).tabF = s.tabF := rfl
@[simp] theorem State.wr_locked (s : State) (b : Nat) (f : Fld) (v : Nat) : (s.wr b f v).locked = s.locked := rfl
@[simp] theorem State.wr_cap (s : State) (b : Nat) (f : Fld) (v : Nat) : (s.wr b f v).cap = s.cap := rfl
@[simp] theorem State.wr_flight (s : State) (b : Nat) (f : Fld) (v : Nat) : (s.wr b f v).flight = s.flight := rfl
@[simp] theorem State.wr_marks (s : State) (b : Nat) (f : Fld) (v : Nat) : (s.wr b f v).marks = s.marks := rfl
@[simp] theorem State.wr_drawn (s : State) (b : Nat) (f : Fld) (v : Nat) : (s.wr b f v).drawn = s.drawn := rfl
@[simp] theorem State.wr_link (s : State) (b : Nat) (f : Fld) (v : Nat) : (s.wr b f v).link = s.link := rfl
@[simp] theorem State.wr_acq (s : State) (b : Nat) (f : Fld) (v : Nat) : (s.wr b f v).acq = s.acq := rfl
@[simp] theorem State.wr_jrx (s : State) (b : Nat) (f : Fld) (v : Nat) : (s.wr b f v).jrx = s.jrx := rfl
@[simp] theorem State.wr_time (s : State) (b : Nat) (f : Fld) (v : Nat) : (s.wr b f v).time = s.time := rfl
@[simp] theorem State.wr_items (s : State) (b : Nat) (f : Fld) (v : Nat) : (s.wr b f v).items = s.items := rfl
@[simp] theorem State.wr_traceRing (s : State) (b : Nat) (f : Fld) (v : Nat) : (s.wr b f v).traceRing = s.traceRing := rfl
@[simp] theorem State.wr_credits (s : State) (b : Nat) (f : Fld) (v : Nat) : (s.wr b f v).credits = s.credits := rfl
@[simp] theorem State.wr_lineOvf (s : State) (b : Nat) (f : Fld) (v : Nat) : (s.wr b f v).lineOvf = s.lineOvf := rfl
@[simp] theorem State.wr_codes (s : State) (b : Nat) (f : Fld) (v : Nat) : (s.wr b f v).codes = s.codes := rfl
@[simp] theorem State.wr_spares (s : State) (b : Nat) (f : Fld) (v : Nat) : (s.wr b f v).spares = s.spares := rfl
@[simp] theorem State.wr_stream (s : State) (b : Nat) (f : Fld) (v : Nat) : (s.wr b f v).stream = s.stream := rfl
@[simp] theorem State.wr_readData (s : State) (b : Nat) (f : Fld) (v : Nat) : (s.wr b f v).readData = s.readData := rfl
@[simp] theorem State.wr_wb (s : State) (b : Nat) (f : Fld) (v : Nat) : (s.wr b f v).wb = s.wb := rfl
@[simp] theorem State.wr_trg (s : State) (b : Nat) (f : Fld) (v : Nat) : (s.wr b f v).trg = s.trg := rfl
@[simp] theorem State.wr_trgTx (s : State) (b : Nat) (f : Fld) (v : Nat) : (s.wr b f v).trgTx = s.trgTx := rfl
@[simp] theorem State.wr_recs (s : State) (b : Nat) (f : Fld) (v : Nat) : (s.wr b f v).recs = s.recs := rfl
@[simp] theorem State.wr_dens (s : State) (b : Nat) (f : Fld) (v : Nat) : (s.wr b f v).dens = s.dens := rfl
@[simp] theorem State.wr_cores (s : State) (b : Nat) (f : Fld) (v : Nat) : (s.wr b f v).cores = s.cores := rfl
@[simp] theorem State.wr_zooms (s : State) (b : Nat) (f : Fld) (v : Nat) : (s.wr b f v).zooms = s.zooms := rfl
@[simp] theorem State.wr_repairs (s : State) (b : Nat) (f : Fld) (v : Nat) : (s.wr b f v).repairs = s.repairs := rfl
@[simp] theorem State.wr_lead (s : State) (b : Nat) (f : Fld) (v : Nat) : (s.wr b f v).lead = s.lead := rfl
@[simp] theorem State.wr_tdc (s : State) (b : Nat) (f : Fld) (v : Nat) : (s.wr b f v).tdc = s.tdc := rfl
@[simp] theorem State.wr_iv (s : State) (b : Nat) (f : Fld) (v : Nat) : (s.wr b f v).iv = s.iv := rfl
@[simp] theorem State.wr_tdcCheck (s : State) (b : Nat) (f : Fld) (v : Nat) : (s.wr b f v).tdcCheck = s.tdcCheck := rfl
@[simp] theorem State.wr_ddr (s : State) (b : Nat) (f : Fld) (v : Nat) : (s.wr b f v).ddr = s.ddr := rfl
@[simp] theorem State.wr_nfs (s : State) (b : Nat) (f : Fld) (v : Nat) : (s.wr b f v).nfs = s.nfs := rfl
@[simp] theorem State.wr_powerGood (s : State) (b : Nat) (f : Fld) (v : Nat) : (s.wr b f v).powerGood = s.powerGood := rfl
@[simp] theorem State.wr_resetLow (s : State) (b : Nat) (f : Fld) (v : Nat) : (s.wr b f v).resetLow = s.resetLow := rfl
@[simp] theorem State.wr_clk (s : State) (b : Nat) (f : Fld) (v : Nat) : (s.wr b f v).clk = s.clk := rfl
@[simp] theorem State.wr_enabledIn (s : State) (b : Nat) (f : Fld) (v : Nat) : (s.wr b f v).enabledIn = s.enabledIn := rfl
@[simp] theorem State.wr_enableStep (s : State) (b : Nat) (f : Fld) (v : Nat) : (s.wr b f v).enableStep = s.enableStep := rfl
@[simp] theorem State.wr_hk (s : State) (b : Nat) (f : Fld) (v : Nat) : (s.wr b f v).hk = s.hk := rfl
@[simp] theorem State.wr_pairs (s : State) (b : Nat) (f : Fld) (v : Nat) : (s.wr b f v).pairs = s.pairs := rfl
@[simp] theorem State.wr_pwm (s : State) (b : Nat) (f : Fld) (v : Nat) : (s.wr b f v).pwm = s.pwm := rfl
@[simp] theorem State.wr_hkAt (s : State) (b : Nat) (f : Fld) (v : Nat) : (s.wr b f v).hkAt = s.hkAt := rfl
@[simp] theorem State.wr_powered (s : State) (b : Nat) (f : Fld) (v : Nat) : (s.wr b f v).powered = s.powered := rfl
@[simp] theorem State.wr_hotLost (s : State) (b : Nat) (f : Fld) (v : Nat) : (s.wr b f v).hotLost = s.hotLost := rfl
@[simp] theorem State.wr_disp (s : State) (b : Nat) (f : Fld) (v : Nat) : (s.wr b f v).disp = s.disp := rfl
@[simp] theorem State.wr_dma (s : State) (b : Nat) (f : Fld) (v : Nat) : (s.wr b f v).dma = s.dma := rfl
@[simp] theorem State.wr_dmaMem (s : State) (b : Nat) (f : Fld) (v : Nat) : (s.wr b f v).dmaMem = s.dmaMem := rfl
@[simp] theorem State.wr_eth (s : State) (b : Nat) (f : Fld) (v : Nat) : (s.wr b f v).eth = s.eth := rfl
@[simp] theorem State.wr_strs (s : State) (b : Nat) (f : Fld) (v : Nat) : (s.wr b f v).strs = s.strs := rfl
@[simp] theorem State.wr_access (s : State) (b : Nat) (f : Fld) (v : Nat) : (s.wr b f v).access = s.access := rfl
@[simp] theorem State.wr_fcol (s : State) (b : Nat) (f : Fld) (v : Nat) : (s.wr b f v).fcol = s.fcol := rfl
@[simp] theorem State.wr_aliveRuns (s : State) (b : Nat) (f : Fld) (v : Nat) : (s.wr b f v).aliveRuns = s.aliveRuns := rfl
@[simp] theorem State.wr_alive (s : State) (b : Nat) (f : Fld) (v : Nat) : (s.wr b f v).alive = s.alive := rfl
@[simp] theorem State.wr_controlLost (s : State) (b : Nat) (f : Fld) (v : Nat) : (s.wr b f v).controlLost = s.controlLost := rfl
@[simp] theorem State.wr_beatsMissed (s : State) (b : Nat) (f : Fld) (v : Nat) : (s.wr b f v).beatsMissed = s.beatsMissed := rfl
@[simp] theorem State.wr_mbox (s : State) (b : Nat) (f : Fld) (v : Nat) : (s.wr b f v).mbox = s.mbox := rfl
@[simp] theorem State.wr_plans (s : State) (b : Nat) (f : Fld) (v : Nat) : (s.wr b f v).plans = s.plans := rfl
@[simp] theorem State.wr_planCmds (s : State) (b : Nat) (f : Fld) (v : Nat) : (s.wr b f v).planCmds = s.planCmds := rfl
@[simp] theorem State.wr_admissions (s : State) (b : Nat) (f : Fld) (v : Nat) : (s.wr b f v).admissions = s.admissions := rfl
@[simp] theorem State.wr_energy (s : State) (b : Nat) (f : Fld) (v : Nat) : (s.wr b f v).energy = s.energy := rfl
@[simp] theorem State.wr_ledger (s : State) (b : Nat) (f : Fld) (v : Nat) : (s.wr b f v).ledger = s.ledger := rfl
@[simp] theorem State.wr_rails (s : State) (b : Nat) (f : Fld) (v : Nat) : (s.wr b f v).rails = s.rails := rfl
@[simp] theorem State.wr_boot (s : State) (b : Nat) (f : Fld) (v : Nat) : (s.wr b f v).boot = s.boot := rfl
@[simp] theorem State.wr_brokenPipes (s : State) (b : Nat) (f : Fld) (v : Nat) : (s.wr b f v).brokenPipes = s.brokenPipes := rfl
@[simp] theorem State.wr_spi (s : State) (b : Nat) (f : Fld) (v : Nat) : (s.wr b f v).spi = s.spi := rfl
@[simp] theorem State.wr_fuses (s : State) (b : Nat) (f : Fld) (v : Nat) : (s.wr b f v).fuses = s.fuses := rfl
@[simp] theorem State.wr_fusedSvn (s : State) (b : Nat) (f : Fld) (v : Nat) : (s.wr b f v).fusedSvn = s.fusedSvn := rfl
@[simp] theorem State.wr_keyHash (s : State) (b : Nat) (f : Fld) (v : Nat) : (s.wr b f v).keyHash = s.keyHash := rfl
@[simp] theorem State.wr_hashIn (s : State) (b : Nat) (f : Fld) (v : Nat) : (s.wr b f v).hashIn = s.hashIn := rfl

/-! wrI -/
@[simp] theorem State.wrI_pending (s : State) (b : Nat) (f : Fld) (v : Int) : (s.wrI b f v).pending = s.pending := rfl
@[simp] theorem State.wrI_part (s : State) (b : Nat) (f : Fld) (v : Int) : (s.wrI b f v).part = s.part := rfl
@[simp] theorem State.wrI_suffixE (s : State) (b : Nat) (f : Fld) (v : Int) : (s.wrI b f v).suffixE = s.suffixE := rfl
@[simp] theorem State.wrI_live (s : State) (b : Nat) (f : Fld) (v : Int) : (s.wrI b f v).live = s.live := rfl
@[simp] theorem State.wrI_tabS (s : State) (b : Nat) (f : Fld) (v : Int) : (s.wrI b f v).tabS = s.tabS := rfl
@[simp] theorem State.wrI_tabL (s : State) (b : Nat) (f : Fld) (v : Int) : (s.wrI b f v).tabL = s.tabL := rfl
@[simp] theorem State.wrI_force (s : State) (b : Nat) (f : Fld) (v : Int) : (s.wrI b f v).force = s.force := rfl
@[simp] theorem State.wrI_tabF (s : State) (b : Nat) (f : Fld) (v : Int) : (s.wrI b f v).tabF = s.tabF := rfl
@[simp] theorem State.wrI_locked (s : State) (b : Nat) (f : Fld) (v : Int) : (s.wrI b f v).locked = s.locked := rfl
@[simp] theorem State.wrI_cap (s : State) (b : Nat) (f : Fld) (v : Int) : (s.wrI b f v).cap = s.cap := rfl
@[simp] theorem State.wrI_flight (s : State) (b : Nat) (f : Fld) (v : Int) : (s.wrI b f v).flight = s.flight := rfl
@[simp] theorem State.wrI_marks (s : State) (b : Nat) (f : Fld) (v : Int) : (s.wrI b f v).marks = s.marks := rfl
@[simp] theorem State.wrI_drawn (s : State) (b : Nat) (f : Fld) (v : Int) : (s.wrI b f v).drawn = s.drawn := rfl
@[simp] theorem State.wrI_link (s : State) (b : Nat) (f : Fld) (v : Int) : (s.wrI b f v).link = s.link := rfl
@[simp] theorem State.wrI_acq (s : State) (b : Nat) (f : Fld) (v : Int) : (s.wrI b f v).acq = s.acq := rfl
@[simp] theorem State.wrI_jrx (s : State) (b : Nat) (f : Fld) (v : Int) : (s.wrI b f v).jrx = s.jrx := rfl
@[simp] theorem State.wrI_time (s : State) (b : Nat) (f : Fld) (v : Int) : (s.wrI b f v).time = s.time := rfl
@[simp] theorem State.wrI_items (s : State) (b : Nat) (f : Fld) (v : Int) : (s.wrI b f v).items = s.items := rfl
@[simp] theorem State.wrI_traceRing (s : State) (b : Nat) (f : Fld) (v : Int) : (s.wrI b f v).traceRing = s.traceRing := rfl
@[simp] theorem State.wrI_credits (s : State) (b : Nat) (f : Fld) (v : Int) : (s.wrI b f v).credits = s.credits := rfl
@[simp] theorem State.wrI_lineOvf (s : State) (b : Nat) (f : Fld) (v : Int) : (s.wrI b f v).lineOvf = s.lineOvf := rfl
@[simp] theorem State.wrI_codes (s : State) (b : Nat) (f : Fld) (v : Int) : (s.wrI b f v).codes = s.codes := rfl
@[simp] theorem State.wrI_spares (s : State) (b : Nat) (f : Fld) (v : Int) : (s.wrI b f v).spares = s.spares := rfl
@[simp] theorem State.wrI_stream (s : State) (b : Nat) (f : Fld) (v : Int) : (s.wrI b f v).stream = s.stream := rfl
@[simp] theorem State.wrI_readData (s : State) (b : Nat) (f : Fld) (v : Int) : (s.wrI b f v).readData = s.readData := rfl
@[simp] theorem State.wrI_wb (s : State) (b : Nat) (f : Fld) (v : Int) : (s.wrI b f v).wb = s.wb := rfl
@[simp] theorem State.wrI_trg (s : State) (b : Nat) (f : Fld) (v : Int) : (s.wrI b f v).trg = s.trg := rfl
@[simp] theorem State.wrI_trgTx (s : State) (b : Nat) (f : Fld) (v : Int) : (s.wrI b f v).trgTx = s.trgTx := rfl
@[simp] theorem State.wrI_recs (s : State) (b : Nat) (f : Fld) (v : Int) : (s.wrI b f v).recs = s.recs := rfl
@[simp] theorem State.wrI_dens (s : State) (b : Nat) (f : Fld) (v : Int) : (s.wrI b f v).dens = s.dens := rfl
@[simp] theorem State.wrI_cores (s : State) (b : Nat) (f : Fld) (v : Int) : (s.wrI b f v).cores = s.cores := rfl
@[simp] theorem State.wrI_zooms (s : State) (b : Nat) (f : Fld) (v : Int) : (s.wrI b f v).zooms = s.zooms := rfl
@[simp] theorem State.wrI_repairs (s : State) (b : Nat) (f : Fld) (v : Int) : (s.wrI b f v).repairs = s.repairs := rfl
@[simp] theorem State.wrI_lead (s : State) (b : Nat) (f : Fld) (v : Int) : (s.wrI b f v).lead = s.lead := rfl
@[simp] theorem State.wrI_tdc (s : State) (b : Nat) (f : Fld) (v : Int) : (s.wrI b f v).tdc = s.tdc := rfl
@[simp] theorem State.wrI_iv (s : State) (b : Nat) (f : Fld) (v : Int) : (s.wrI b f v).iv = s.iv := rfl
@[simp] theorem State.wrI_tdcCheck (s : State) (b : Nat) (f : Fld) (v : Int) : (s.wrI b f v).tdcCheck = s.tdcCheck := rfl
@[simp] theorem State.wrI_ddr (s : State) (b : Nat) (f : Fld) (v : Int) : (s.wrI b f v).ddr = s.ddr := rfl
@[simp] theorem State.wrI_nfs (s : State) (b : Nat) (f : Fld) (v : Int) : (s.wrI b f v).nfs = s.nfs := rfl
@[simp] theorem State.wrI_powerGood (s : State) (b : Nat) (f : Fld) (v : Int) : (s.wrI b f v).powerGood = s.powerGood := rfl
@[simp] theorem State.wrI_resetLow (s : State) (b : Nat) (f : Fld) (v : Int) : (s.wrI b f v).resetLow = s.resetLow := rfl
@[simp] theorem State.wrI_clk (s : State) (b : Nat) (f : Fld) (v : Int) : (s.wrI b f v).clk = s.clk := rfl
@[simp] theorem State.wrI_enabledIn (s : State) (b : Nat) (f : Fld) (v : Int) : (s.wrI b f v).enabledIn = s.enabledIn := rfl
@[simp] theorem State.wrI_enableStep (s : State) (b : Nat) (f : Fld) (v : Int) : (s.wrI b f v).enableStep = s.enableStep := rfl
@[simp] theorem State.wrI_hk (s : State) (b : Nat) (f : Fld) (v : Int) : (s.wrI b f v).hk = s.hk := rfl
@[simp] theorem State.wrI_pairs (s : State) (b : Nat) (f : Fld) (v : Int) : (s.wrI b f v).pairs = s.pairs := rfl
@[simp] theorem State.wrI_pwm (s : State) (b : Nat) (f : Fld) (v : Int) : (s.wrI b f v).pwm = s.pwm := rfl
@[simp] theorem State.wrI_hkAt (s : State) (b : Nat) (f : Fld) (v : Int) : (s.wrI b f v).hkAt = s.hkAt := rfl
@[simp] theorem State.wrI_powered (s : State) (b : Nat) (f : Fld) (v : Int) : (s.wrI b f v).powered = s.powered := rfl
@[simp] theorem State.wrI_hotLost (s : State) (b : Nat) (f : Fld) (v : Int) : (s.wrI b f v).hotLost = s.hotLost := rfl
@[simp] theorem State.wrI_disp (s : State) (b : Nat) (f : Fld) (v : Int) : (s.wrI b f v).disp = s.disp := rfl
@[simp] theorem State.wrI_dma (s : State) (b : Nat) (f : Fld) (v : Int) : (s.wrI b f v).dma = s.dma := rfl
@[simp] theorem State.wrI_dmaMem (s : State) (b : Nat) (f : Fld) (v : Int) : (s.wrI b f v).dmaMem = s.dmaMem := rfl
@[simp] theorem State.wrI_eth (s : State) (b : Nat) (f : Fld) (v : Int) : (s.wrI b f v).eth = s.eth := rfl
@[simp] theorem State.wrI_strs (s : State) (b : Nat) (f : Fld) (v : Int) : (s.wrI b f v).strs = s.strs := rfl
@[simp] theorem State.wrI_access (s : State) (b : Nat) (f : Fld) (v : Int) : (s.wrI b f v).access = s.access := rfl
@[simp] theorem State.wrI_fcol (s : State) (b : Nat) (f : Fld) (v : Int) : (s.wrI b f v).fcol = s.fcol := rfl
@[simp] theorem State.wrI_aliveRuns (s : State) (b : Nat) (f : Fld) (v : Int) : (s.wrI b f v).aliveRuns = s.aliveRuns := rfl
@[simp] theorem State.wrI_alive (s : State) (b : Nat) (f : Fld) (v : Int) : (s.wrI b f v).alive = s.alive := rfl
@[simp] theorem State.wrI_controlLost (s : State) (b : Nat) (f : Fld) (v : Int) : (s.wrI b f v).controlLost = s.controlLost := rfl
@[simp] theorem State.wrI_beatsMissed (s : State) (b : Nat) (f : Fld) (v : Int) : (s.wrI b f v).beatsMissed = s.beatsMissed := rfl
@[simp] theorem State.wrI_mbox (s : State) (b : Nat) (f : Fld) (v : Int) : (s.wrI b f v).mbox = s.mbox := rfl
@[simp] theorem State.wrI_plans (s : State) (b : Nat) (f : Fld) (v : Int) : (s.wrI b f v).plans = s.plans := rfl
@[simp] theorem State.wrI_planCmds (s : State) (b : Nat) (f : Fld) (v : Int) : (s.wrI b f v).planCmds = s.planCmds := rfl
@[simp] theorem State.wrI_admissions (s : State) (b : Nat) (f : Fld) (v : Int) : (s.wrI b f v).admissions = s.admissions := rfl
@[simp] theorem State.wrI_energy (s : State) (b : Nat) (f : Fld) (v : Int) : (s.wrI b f v).energy = s.energy := rfl
@[simp] theorem State.wrI_ledger (s : State) (b : Nat) (f : Fld) (v : Int) : (s.wrI b f v).ledger = s.ledger := rfl
@[simp] theorem State.wrI_rails (s : State) (b : Nat) (f : Fld) (v : Int) : (s.wrI b f v).rails = s.rails := rfl
@[simp] theorem State.wrI_boot (s : State) (b : Nat) (f : Fld) (v : Int) : (s.wrI b f v).boot = s.boot := rfl
@[simp] theorem State.wrI_brokenPipes (s : State) (b : Nat) (f : Fld) (v : Int) : (s.wrI b f v).brokenPipes = s.brokenPipes := rfl
@[simp] theorem State.wrI_spi (s : State) (b : Nat) (f : Fld) (v : Int) : (s.wrI b f v).spi = s.spi := rfl
@[simp] theorem State.wrI_fuses (s : State) (b : Nat) (f : Fld) (v : Int) : (s.wrI b f v).fuses = s.fuses := rfl
@[simp] theorem State.wrI_fusedSvn (s : State) (b : Nat) (f : Fld) (v : Int) : (s.wrI b f v).fusedSvn = s.fusedSvn := rfl
@[simp] theorem State.wrI_keyHash (s : State) (b : Nat) (f : Fld) (v : Int) : (s.wrI b f v).keyHash = s.keyHash := rfl
@[simp] theorem State.wrI_hashIn (s : State) (b : Nat) (f : Fld) (v : Int) : (s.wrI b f v).hashIn = s.hashIn := rfl

/-! wrL -/
@[simp] theorem State.wrL_pending (s : State) (b : Nat) (f : Fld) (v : Nat) : (s.wrL b f v).pending = s.pending := rfl
@[simp] theorem State.wrL_part (s : State) (b : Nat) (f : Fld) (v : Nat) : (s.wrL b f v).part = s.part := rfl
@[simp] theorem State.wrL_suffixE (s : State) (b : Nat) (f : Fld) (v : Nat) : (s.wrL b f v).suffixE = s.suffixE := rfl
@[simp] theorem State.wrL_regs (s : State) (b : Nat) (f : Fld) (v : Nat) : (s.wrL b f v).regs = s.regs := rfl
@[simp] theorem State.wrL_tabS (s : State) (b : Nat) (f : Fld) (v : Nat) : (s.wrL b f v).tabS = s.tabS := rfl
@[simp] theorem State.wrL_tabL (s : State) (b : Nat) (f : Fld) (v : Nat) : (s.wrL b f v).tabL = s.tabL := rfl
@[simp] theorem State.wrL_force (s : State) (b : Nat) (f : Fld) (v : Nat) : (s.wrL b f v).force = s.force := rfl
@[simp] theorem State.wrL_tabF (s : State) (b : Nat) (f : Fld) (v : Nat) : (s.wrL b f v).tabF = s.tabF := rfl
@[simp] theorem State.wrL_locked (s : State) (b : Nat) (f : Fld) (v : Nat) : (s.wrL b f v).locked = s.locked := rfl
@[simp] theorem State.wrL_cap (s : State) (b : Nat) (f : Fld) (v : Nat) : (s.wrL b f v).cap = s.cap := rfl
@[simp] theorem State.wrL_flight (s : State) (b : Nat) (f : Fld) (v : Nat) : (s.wrL b f v).flight = s.flight := rfl
@[simp] theorem State.wrL_marks (s : State) (b : Nat) (f : Fld) (v : Nat) : (s.wrL b f v).marks = s.marks := rfl
@[simp] theorem State.wrL_drawn (s : State) (b : Nat) (f : Fld) (v : Nat) : (s.wrL b f v).drawn = s.drawn := rfl
@[simp] theorem State.wrL_link (s : State) (b : Nat) (f : Fld) (v : Nat) : (s.wrL b f v).link = s.link := rfl
@[simp] theorem State.wrL_acq (s : State) (b : Nat) (f : Fld) (v : Nat) : (s.wrL b f v).acq = s.acq := rfl
@[simp] theorem State.wrL_jrx (s : State) (b : Nat) (f : Fld) (v : Nat) : (s.wrL b f v).jrx = s.jrx := rfl
@[simp] theorem State.wrL_time (s : State) (b : Nat) (f : Fld) (v : Nat) : (s.wrL b f v).time = s.time := rfl
@[simp] theorem State.wrL_items (s : State) (b : Nat) (f : Fld) (v : Nat) : (s.wrL b f v).items = s.items := rfl
@[simp] theorem State.wrL_traceRing (s : State) (b : Nat) (f : Fld) (v : Nat) : (s.wrL b f v).traceRing = s.traceRing := rfl
@[simp] theorem State.wrL_credits (s : State) (b : Nat) (f : Fld) (v : Nat) : (s.wrL b f v).credits = s.credits := rfl
@[simp] theorem State.wrL_lineOvf (s : State) (b : Nat) (f : Fld) (v : Nat) : (s.wrL b f v).lineOvf = s.lineOvf := rfl
@[simp] theorem State.wrL_codes (s : State) (b : Nat) (f : Fld) (v : Nat) : (s.wrL b f v).codes = s.codes := rfl
@[simp] theorem State.wrL_spares (s : State) (b : Nat) (f : Fld) (v : Nat) : (s.wrL b f v).spares = s.spares := rfl
@[simp] theorem State.wrL_stream (s : State) (b : Nat) (f : Fld) (v : Nat) : (s.wrL b f v).stream = s.stream := rfl
@[simp] theorem State.wrL_readData (s : State) (b : Nat) (f : Fld) (v : Nat) : (s.wrL b f v).readData = s.readData := rfl
@[simp] theorem State.wrL_wb (s : State) (b : Nat) (f : Fld) (v : Nat) : (s.wrL b f v).wb = s.wb := rfl
@[simp] theorem State.wrL_trg (s : State) (b : Nat) (f : Fld) (v : Nat) : (s.wrL b f v).trg = s.trg := rfl
@[simp] theorem State.wrL_trgTx (s : State) (b : Nat) (f : Fld) (v : Nat) : (s.wrL b f v).trgTx = s.trgTx := rfl
@[simp] theorem State.wrL_recs (s : State) (b : Nat) (f : Fld) (v : Nat) : (s.wrL b f v).recs = s.recs := rfl
@[simp] theorem State.wrL_dens (s : State) (b : Nat) (f : Fld) (v : Nat) : (s.wrL b f v).dens = s.dens := rfl
@[simp] theorem State.wrL_cores (s : State) (b : Nat) (f : Fld) (v : Nat) : (s.wrL b f v).cores = s.cores := rfl
@[simp] theorem State.wrL_zooms (s : State) (b : Nat) (f : Fld) (v : Nat) : (s.wrL b f v).zooms = s.zooms := rfl
@[simp] theorem State.wrL_repairs (s : State) (b : Nat) (f : Fld) (v : Nat) : (s.wrL b f v).repairs = s.repairs := rfl
@[simp] theorem State.wrL_lead (s : State) (b : Nat) (f : Fld) (v : Nat) : (s.wrL b f v).lead = s.lead := rfl
@[simp] theorem State.wrL_tdc (s : State) (b : Nat) (f : Fld) (v : Nat) : (s.wrL b f v).tdc = s.tdc := rfl
@[simp] theorem State.wrL_iv (s : State) (b : Nat) (f : Fld) (v : Nat) : (s.wrL b f v).iv = s.iv := rfl
@[simp] theorem State.wrL_tdcCheck (s : State) (b : Nat) (f : Fld) (v : Nat) : (s.wrL b f v).tdcCheck = s.tdcCheck := rfl
@[simp] theorem State.wrL_ddr (s : State) (b : Nat) (f : Fld) (v : Nat) : (s.wrL b f v).ddr = s.ddr := rfl
@[simp] theorem State.wrL_nfs (s : State) (b : Nat) (f : Fld) (v : Nat) : (s.wrL b f v).nfs = s.nfs := rfl
@[simp] theorem State.wrL_powerGood (s : State) (b : Nat) (f : Fld) (v : Nat) : (s.wrL b f v).powerGood = s.powerGood := rfl
@[simp] theorem State.wrL_resetLow (s : State) (b : Nat) (f : Fld) (v : Nat) : (s.wrL b f v).resetLow = s.resetLow := rfl
@[simp] theorem State.wrL_clk (s : State) (b : Nat) (f : Fld) (v : Nat) : (s.wrL b f v).clk = s.clk := rfl
@[simp] theorem State.wrL_enabledIn (s : State) (b : Nat) (f : Fld) (v : Nat) : (s.wrL b f v).enabledIn = s.enabledIn := rfl
@[simp] theorem State.wrL_enableStep (s : State) (b : Nat) (f : Fld) (v : Nat) : (s.wrL b f v).enableStep = s.enableStep := rfl
@[simp] theorem State.wrL_hk (s : State) (b : Nat) (f : Fld) (v : Nat) : (s.wrL b f v).hk = s.hk := rfl
@[simp] theorem State.wrL_pairs (s : State) (b : Nat) (f : Fld) (v : Nat) : (s.wrL b f v).pairs = s.pairs := rfl
@[simp] theorem State.wrL_pwm (s : State) (b : Nat) (f : Fld) (v : Nat) : (s.wrL b f v).pwm = s.pwm := rfl
@[simp] theorem State.wrL_hkAt (s : State) (b : Nat) (f : Fld) (v : Nat) : (s.wrL b f v).hkAt = s.hkAt := rfl
@[simp] theorem State.wrL_powered (s : State) (b : Nat) (f : Fld) (v : Nat) : (s.wrL b f v).powered = s.powered := rfl
@[simp] theorem State.wrL_hotLost (s : State) (b : Nat) (f : Fld) (v : Nat) : (s.wrL b f v).hotLost = s.hotLost := rfl
@[simp] theorem State.wrL_disp (s : State) (b : Nat) (f : Fld) (v : Nat) : (s.wrL b f v).disp = s.disp := rfl
@[simp] theorem State.wrL_dma (s : State) (b : Nat) (f : Fld) (v : Nat) : (s.wrL b f v).dma = s.dma := rfl
@[simp] theorem State.wrL_dmaMem (s : State) (b : Nat) (f : Fld) (v : Nat) : (s.wrL b f v).dmaMem = s.dmaMem := rfl
@[simp] theorem State.wrL_eth (s : State) (b : Nat) (f : Fld) (v : Nat) : (s.wrL b f v).eth = s.eth := rfl
@[simp] theorem State.wrL_strs (s : State) (b : Nat) (f : Fld) (v : Nat) : (s.wrL b f v).strs = s.strs := rfl
@[simp] theorem State.wrL_access (s : State) (b : Nat) (f : Fld) (v : Nat) : (s.wrL b f v).access = s.access := rfl
@[simp] theorem State.wrL_fcol (s : State) (b : Nat) (f : Fld) (v : Nat) : (s.wrL b f v).fcol = s.fcol := rfl
@[simp] theorem State.wrL_aliveRuns (s : State) (b : Nat) (f : Fld) (v : Nat) : (s.wrL b f v).aliveRuns = s.aliveRuns := rfl
@[simp] theorem State.wrL_alive (s : State) (b : Nat) (f : Fld) (v : Nat) : (s.wrL b f v).alive = s.alive := rfl
@[simp] theorem State.wrL_controlLost (s : State) (b : Nat) (f : Fld) (v : Nat) : (s.wrL b f v).controlLost = s.controlLost := rfl
@[simp] theorem State.wrL_beatsMissed (s : State) (b : Nat) (f : Fld) (v : Nat) : (s.wrL b f v).beatsMissed = s.beatsMissed := rfl
@[simp] theorem State.wrL_mbox (s : State) (b : Nat) (f : Fld) (v : Nat) : (s.wrL b f v).mbox = s.mbox := rfl
@[simp] theorem State.wrL_plans (s : State) (b : Nat) (f : Fld) (v : Nat) : (s.wrL b f v).plans = s.plans := rfl
@[simp] theorem State.wrL_planCmds (s : State) (b : Nat) (f : Fld) (v : Nat) : (s.wrL b f v).planCmds = s.planCmds := rfl
@[simp] theorem State.wrL_admissions (s : State) (b : Nat) (f : Fld) (v : Nat) : (s.wrL b f v).admissions = s.admissions := rfl
@[simp] theorem State.wrL_energy (s : State) (b : Nat) (f : Fld) (v : Nat) : (s.wrL b f v).energy = s.energy := rfl
@[simp] theorem State.wrL_ledger (s : State) (b : Nat) (f : Fld) (v : Nat) : (s.wrL b f v).ledger = s.ledger := rfl
@[simp] theorem State.wrL_rails (s : State) (b : Nat) (f : Fld) (v : Nat) : (s.wrL b f v).rails = s.rails := rfl
@[simp] theorem State.wrL_boot (s : State) (b : Nat) (f : Fld) (v : Nat) : (s.wrL b f v).boot = s.boot := rfl
@[simp] theorem State.wrL_brokenPipes (s : State) (b : Nat) (f : Fld) (v : Nat) : (s.wrL b f v).brokenPipes = s.brokenPipes := rfl
@[simp] theorem State.wrL_spi (s : State) (b : Nat) (f : Fld) (v : Nat) : (s.wrL b f v).spi = s.spi := rfl
@[simp] theorem State.wrL_fuses (s : State) (b : Nat) (f : Fld) (v : Nat) : (s.wrL b f v).fuses = s.fuses := rfl
@[simp] theorem State.wrL_fusedSvn (s : State) (b : Nat) (f : Fld) (v : Nat) : (s.wrL b f v).fusedSvn = s.fusedSvn := rfl
@[simp] theorem State.wrL_keyHash (s : State) (b : Nat) (f : Fld) (v : Nat) : (s.wrL b f v).keyHash = s.keyHash := rfl
@[simp] theorem State.wrL_hashIn (s : State) (b : Nat) (f : Fld) (v : Nat) : (s.wrL b f v).hashIn = s.hashIn := rfl

/-! inc -/
@[simp] theorem State.inc_pending (s : State) (b : Nat) (f : Fld) (n : Nat) : (s.inc b f n).pending = s.pending := rfl
@[simp] theorem State.inc_part (s : State) (b : Nat) (f : Fld) (n : Nat) : (s.inc b f n).part = s.part := rfl
@[simp] theorem State.inc_suffixE (s : State) (b : Nat) (f : Fld) (n : Nat) : (s.inc b f n).suffixE = s.suffixE := rfl
@[simp] theorem State.inc_live (s : State) (b : Nat) (f : Fld) (n : Nat) : (s.inc b f n).live = s.live := rfl
@[simp] theorem State.inc_tabS (s : State) (b : Nat) (f : Fld) (n : Nat) : (s.inc b f n).tabS = s.tabS := rfl
@[simp] theorem State.inc_tabL (s : State) (b : Nat) (f : Fld) (n : Nat) : (s.inc b f n).tabL = s.tabL := rfl
@[simp] theorem State.inc_force (s : State) (b : Nat) (f : Fld) (n : Nat) : (s.inc b f n).force = s.force := rfl
@[simp] theorem State.inc_tabF (s : State) (b : Nat) (f : Fld) (n : Nat) : (s.inc b f n).tabF = s.tabF := rfl
@[simp] theorem State.inc_locked (s : State) (b : Nat) (f : Fld) (n : Nat) : (s.inc b f n).locked = s.locked := rfl
@[simp] theorem State.inc_cap (s : State) (b : Nat) (f : Fld) (n : Nat) : (s.inc b f n).cap = s.cap := rfl
@[simp] theorem State.inc_flight (s : State) (b : Nat) (f : Fld) (n : Nat) : (s.inc b f n).flight = s.flight := rfl
@[simp] theorem State.inc_marks (s : State) (b : Nat) (f : Fld) (n : Nat) : (s.inc b f n).marks = s.marks := rfl
@[simp] theorem State.inc_drawn (s : State) (b : Nat) (f : Fld) (n : Nat) : (s.inc b f n).drawn = s.drawn := rfl
@[simp] theorem State.inc_link (s : State) (b : Nat) (f : Fld) (n : Nat) : (s.inc b f n).link = s.link := rfl
@[simp] theorem State.inc_acq (s : State) (b : Nat) (f : Fld) (n : Nat) : (s.inc b f n).acq = s.acq := rfl
@[simp] theorem State.inc_jrx (s : State) (b : Nat) (f : Fld) (n : Nat) : (s.inc b f n).jrx = s.jrx := rfl
@[simp] theorem State.inc_time (s : State) (b : Nat) (f : Fld) (n : Nat) : (s.inc b f n).time = s.time := rfl
@[simp] theorem State.inc_items (s : State) (b : Nat) (f : Fld) (n : Nat) : (s.inc b f n).items = s.items := rfl
@[simp] theorem State.inc_traceRing (s : State) (b : Nat) (f : Fld) (n : Nat) : (s.inc b f n).traceRing = s.traceRing := rfl
@[simp] theorem State.inc_credits (s : State) (b : Nat) (f : Fld) (n : Nat) : (s.inc b f n).credits = s.credits := rfl
@[simp] theorem State.inc_lineOvf (s : State) (b : Nat) (f : Fld) (n : Nat) : (s.inc b f n).lineOvf = s.lineOvf := rfl
@[simp] theorem State.inc_codes (s : State) (b : Nat) (f : Fld) (n : Nat) : (s.inc b f n).codes = s.codes := rfl
@[simp] theorem State.inc_spares (s : State) (b : Nat) (f : Fld) (n : Nat) : (s.inc b f n).spares = s.spares := rfl
@[simp] theorem State.inc_stream (s : State) (b : Nat) (f : Fld) (n : Nat) : (s.inc b f n).stream = s.stream := rfl
@[simp] theorem State.inc_readData (s : State) (b : Nat) (f : Fld) (n : Nat) : (s.inc b f n).readData = s.readData := rfl
@[simp] theorem State.inc_wb (s : State) (b : Nat) (f : Fld) (n : Nat) : (s.inc b f n).wb = s.wb := rfl
@[simp] theorem State.inc_trg (s : State) (b : Nat) (f : Fld) (n : Nat) : (s.inc b f n).trg = s.trg := rfl
@[simp] theorem State.inc_trgTx (s : State) (b : Nat) (f : Fld) (n : Nat) : (s.inc b f n).trgTx = s.trgTx := rfl
@[simp] theorem State.inc_recs (s : State) (b : Nat) (f : Fld) (n : Nat) : (s.inc b f n).recs = s.recs := rfl
@[simp] theorem State.inc_dens (s : State) (b : Nat) (f : Fld) (n : Nat) : (s.inc b f n).dens = s.dens := rfl
@[simp] theorem State.inc_cores (s : State) (b : Nat) (f : Fld) (n : Nat) : (s.inc b f n).cores = s.cores := rfl
@[simp] theorem State.inc_zooms (s : State) (b : Nat) (f : Fld) (n : Nat) : (s.inc b f n).zooms = s.zooms := rfl
@[simp] theorem State.inc_repairs (s : State) (b : Nat) (f : Fld) (n : Nat) : (s.inc b f n).repairs = s.repairs := rfl
@[simp] theorem State.inc_lead (s : State) (b : Nat) (f : Fld) (n : Nat) : (s.inc b f n).lead = s.lead := rfl
@[simp] theorem State.inc_tdc (s : State) (b : Nat) (f : Fld) (n : Nat) : (s.inc b f n).tdc = s.tdc := rfl
@[simp] theorem State.inc_iv (s : State) (b : Nat) (f : Fld) (n : Nat) : (s.inc b f n).iv = s.iv := rfl
@[simp] theorem State.inc_tdcCheck (s : State) (b : Nat) (f : Fld) (n : Nat) : (s.inc b f n).tdcCheck = s.tdcCheck := rfl
@[simp] theorem State.inc_ddr (s : State) (b : Nat) (f : Fld) (n : Nat) : (s.inc b f n).ddr = s.ddr := rfl
@[simp] theorem State.inc_nfs (s : State) (b : Nat) (f : Fld) (n : Nat) : (s.inc b f n).nfs = s.nfs := rfl
@[simp] theorem State.inc_powerGood (s : State) (b : Nat) (f : Fld) (n : Nat) : (s.inc b f n).powerGood = s.powerGood := rfl
@[simp] theorem State.inc_resetLow (s : State) (b : Nat) (f : Fld) (n : Nat) : (s.inc b f n).resetLow = s.resetLow := rfl
@[simp] theorem State.inc_clk (s : State) (b : Nat) (f : Fld) (n : Nat) : (s.inc b f n).clk = s.clk := rfl
@[simp] theorem State.inc_enabledIn (s : State) (b : Nat) (f : Fld) (n : Nat) : (s.inc b f n).enabledIn = s.enabledIn := rfl
@[simp] theorem State.inc_enableStep (s : State) (b : Nat) (f : Fld) (n : Nat) : (s.inc b f n).enableStep = s.enableStep := rfl
@[simp] theorem State.inc_hk (s : State) (b : Nat) (f : Fld) (n : Nat) : (s.inc b f n).hk = s.hk := rfl
@[simp] theorem State.inc_pairs (s : State) (b : Nat) (f : Fld) (n : Nat) : (s.inc b f n).pairs = s.pairs := rfl
@[simp] theorem State.inc_pwm (s : State) (b : Nat) (f : Fld) (n : Nat) : (s.inc b f n).pwm = s.pwm := rfl
@[simp] theorem State.inc_hkAt (s : State) (b : Nat) (f : Fld) (n : Nat) : (s.inc b f n).hkAt = s.hkAt := rfl
@[simp] theorem State.inc_powered (s : State) (b : Nat) (f : Fld) (n : Nat) : (s.inc b f n).powered = s.powered := rfl
@[simp] theorem State.inc_hotLost (s : State) (b : Nat) (f : Fld) (n : Nat) : (s.inc b f n).hotLost = s.hotLost := rfl
@[simp] theorem State.inc_disp (s : State) (b : Nat) (f : Fld) (n : Nat) : (s.inc b f n).disp = s.disp := rfl
@[simp] theorem State.inc_dma (s : State) (b : Nat) (f : Fld) (n : Nat) : (s.inc b f n).dma = s.dma := rfl
@[simp] theorem State.inc_dmaMem (s : State) (b : Nat) (f : Fld) (n : Nat) : (s.inc b f n).dmaMem = s.dmaMem := rfl
@[simp] theorem State.inc_eth (s : State) (b : Nat) (f : Fld) (n : Nat) : (s.inc b f n).eth = s.eth := rfl
@[simp] theorem State.inc_strs (s : State) (b : Nat) (f : Fld) (n : Nat) : (s.inc b f n).strs = s.strs := rfl
@[simp] theorem State.inc_access (s : State) (b : Nat) (f : Fld) (n : Nat) : (s.inc b f n).access = s.access := rfl
@[simp] theorem State.inc_fcol (s : State) (b : Nat) (f : Fld) (n : Nat) : (s.inc b f n).fcol = s.fcol := rfl
@[simp] theorem State.inc_aliveRuns (s : State) (b : Nat) (f : Fld) (n : Nat) : (s.inc b f n).aliveRuns = s.aliveRuns := rfl
@[simp] theorem State.inc_alive (s : State) (b : Nat) (f : Fld) (n : Nat) : (s.inc b f n).alive = s.alive := rfl
@[simp] theorem State.inc_controlLost (s : State) (b : Nat) (f : Fld) (n : Nat) : (s.inc b f n).controlLost = s.controlLost := rfl
@[simp] theorem State.inc_beatsMissed (s : State) (b : Nat) (f : Fld) (n : Nat) : (s.inc b f n).beatsMissed = s.beatsMissed := rfl
@[simp] theorem State.inc_mbox (s : State) (b : Nat) (f : Fld) (n : Nat) : (s.inc b f n).mbox = s.mbox := rfl
@[simp] theorem State.inc_plans (s : State) (b : Nat) (f : Fld) (n : Nat) : (s.inc b f n).plans = s.plans := rfl
@[simp] theorem State.inc_planCmds (s : State) (b : Nat) (f : Fld) (n : Nat) : (s.inc b f n).planCmds = s.planCmds := rfl
@[simp] theorem State.inc_admissions (s : State) (b : Nat) (f : Fld) (n : Nat) : (s.inc b f n).admissions = s.admissions := rfl
@[simp] theorem State.inc_energy (s : State) (b : Nat) (f : Fld) (n : Nat) : (s.inc b f n).energy = s.energy := rfl
@[simp] theorem State.inc_ledger (s : State) (b : Nat) (f : Fld) (n : Nat) : (s.inc b f n).ledger = s.ledger := rfl
@[simp] theorem State.inc_rails (s : State) (b : Nat) (f : Fld) (n : Nat) : (s.inc b f n).rails = s.rails := rfl
@[simp] theorem State.inc_boot (s : State) (b : Nat) (f : Fld) (n : Nat) : (s.inc b f n).boot = s.boot := rfl
@[simp] theorem State.inc_brokenPipes (s : State) (b : Nat) (f : Fld) (n : Nat) : (s.inc b f n).brokenPipes = s.brokenPipes := rfl
@[simp] theorem State.inc_spi (s : State) (b : Nat) (f : Fld) (n : Nat) : (s.inc b f n).spi = s.spi := rfl
@[simp] theorem State.inc_fuses (s : State) (b : Nat) (f : Fld) (n : Nat) : (s.inc b f n).fuses = s.fuses := rfl
@[simp] theorem State.inc_fusedSvn (s : State) (b : Nat) (f : Fld) (n : Nat) : (s.inc b f n).fusedSvn = s.fusedSvn := rfl
@[simp] theorem State.inc_keyHash (s : State) (b : Nat) (f : Fld) (n : Nat) : (s.inc b f n).keyHash = s.keyHash := rfl
@[simp] theorem State.inc_hashIn (s : State) (b : Nat) (f : Fld) (n : Nat) : (s.inc b f n).hashIn = s.hashIn := rfl

/-! handOver -/
@[simp] theorem State.handOver_pending (s : State) (b lo hi : Nat) : (s.handOver b lo hi).pending = s.pending := rfl
@[simp] theorem State.handOver_part (s : State) (b lo hi : Nat) : (s.handOver b lo hi).part = s.part := rfl
@[simp] theorem State.handOver_suffixE (s : State) (b lo hi : Nat) : (s.handOver b lo hi).suffixE = s.suffixE := rfl
@[simp] theorem State.handOver_regs (s : State) (b lo hi : Nat) : (s.handOver b lo hi).regs = s.regs := rfl
@[simp] theorem State.handOver_tabS (s : State) (b lo hi : Nat) : (s.handOver b lo hi).tabS = s.tabS := rfl
@[simp] theorem State.handOver_tabL (s : State) (b lo hi : Nat) : (s.handOver b lo hi).tabL = s.tabL := rfl
@[simp] theorem State.handOver_force (s : State) (b lo hi : Nat) : (s.handOver b lo hi).force = s.force := rfl
@[simp] theorem State.handOver_tabF (s : State) (b lo hi : Nat) : (s.handOver b lo hi).tabF = s.tabF := rfl
@[simp] theorem State.handOver_locked (s : State) (b lo hi : Nat) : (s.handOver b lo hi).locked = s.locked := rfl
@[simp] theorem State.handOver_cap (s : State) (b lo hi : Nat) : (s.handOver b lo hi).cap = s.cap := rfl
@[simp] theorem State.handOver_flight (s : State) (b lo hi : Nat) : (s.handOver b lo hi).flight = s.flight := rfl
@[simp] theorem State.handOver_marks (s : State) (b lo hi : Nat) : (s.handOver b lo hi).marks = s.marks := rfl
@[simp] theorem State.handOver_drawn (s : State) (b lo hi : Nat) : (s.handOver b lo hi).drawn = s.drawn := rfl
@[simp] theorem State.handOver_link (s : State) (b lo hi : Nat) : (s.handOver b lo hi).link = s.link := rfl
@[simp] theorem State.handOver_acq (s : State) (b lo hi : Nat) : (s.handOver b lo hi).acq = s.acq := rfl
@[simp] theorem State.handOver_jrx (s : State) (b lo hi : Nat) : (s.handOver b lo hi).jrx = s.jrx := rfl
@[simp] theorem State.handOver_time (s : State) (b lo hi : Nat) : (s.handOver b lo hi).time = s.time := rfl
@[simp] theorem State.handOver_items (s : State) (b lo hi : Nat) : (s.handOver b lo hi).items = s.items := rfl
@[simp] theorem State.handOver_traceRing (s : State) (b lo hi : Nat) : (s.handOver b lo hi).traceRing = s.traceRing := rfl
@[simp] theorem State.handOver_credits (s : State) (b lo hi : Nat) : (s.handOver b lo hi).credits = s.credits := rfl
@[simp] theorem State.handOver_lineOvf (s : State) (b lo hi : Nat) : (s.handOver b lo hi).lineOvf = s.lineOvf := rfl
@[simp] theorem State.handOver_codes (s : State) (b lo hi : Nat) : (s.handOver b lo hi).codes = s.codes := rfl
@[simp] theorem State.handOver_spares (s : State) (b lo hi : Nat) : (s.handOver b lo hi).spares = s.spares := rfl
@[simp] theorem State.handOver_stream (s : State) (b lo hi : Nat) : (s.handOver b lo hi).stream = s.stream := rfl
@[simp] theorem State.handOver_readData (s : State) (b lo hi : Nat) : (s.handOver b lo hi).readData = s.readData := rfl
@[simp] theorem State.handOver_wb (s : State) (b lo hi : Nat) : (s.handOver b lo hi).wb = s.wb := rfl
@[simp] theorem State.handOver_trg (s : State) (b lo hi : Nat) : (s.handOver b lo hi).trg = s.trg := rfl
@[simp] theorem State.handOver_trgTx (s : State) (b lo hi : Nat) : (s.handOver b lo hi).trgTx = s.trgTx := rfl
@[simp] theorem State.handOver_recs (s : State) (b lo hi : Nat) : (s.handOver b lo hi).recs = s.recs := rfl
@[simp] theorem State.handOver_dens (s : State) (b lo hi : Nat) : (s.handOver b lo hi).dens = s.dens := rfl
@[simp] theorem State.handOver_cores (s : State) (b lo hi : Nat) : (s.handOver b lo hi).cores = s.cores := rfl
@[simp] theorem State.handOver_zooms (s : State) (b lo hi : Nat) : (s.handOver b lo hi).zooms = s.zooms := rfl
@[simp] theorem State.handOver_repairs (s : State) (b lo hi : Nat) : (s.handOver b lo hi).repairs = s.repairs := rfl
@[simp] theorem State.handOver_lead (s : State) (b lo hi : Nat) : (s.handOver b lo hi).lead = s.lead := rfl
@[simp] theorem State.handOver_tdc (s : State) (b lo hi : Nat) : (s.handOver b lo hi).tdc = s.tdc := rfl
@[simp] theorem State.handOver_iv (s : State) (b lo hi : Nat) : (s.handOver b lo hi).iv = s.iv := rfl
@[simp] theorem State.handOver_tdcCheck (s : State) (b lo hi : Nat) : (s.handOver b lo hi).tdcCheck = s.tdcCheck := rfl
@[simp] theorem State.handOver_ddr (s : State) (b lo hi : Nat) : (s.handOver b lo hi).ddr = s.ddr := rfl
@[simp] theorem State.handOver_nfs (s : State) (b lo hi : Nat) : (s.handOver b lo hi).nfs = s.nfs := rfl
@[simp] theorem State.handOver_powerGood (s : State) (b lo hi : Nat) : (s.handOver b lo hi).powerGood = s.powerGood := rfl
@[simp] theorem State.handOver_resetLow (s : State) (b lo hi : Nat) : (s.handOver b lo hi).resetLow = s.resetLow := rfl
@[simp] theorem State.handOver_clk (s : State) (b lo hi : Nat) : (s.handOver b lo hi).clk = s.clk := rfl
@[simp] theorem State.handOver_enabledIn (s : State) (b lo hi : Nat) : (s.handOver b lo hi).enabledIn = s.enabledIn := rfl
@[simp] theorem State.handOver_enableStep (s : State) (b lo hi : Nat) : (s.handOver b lo hi).enableStep = s.enableStep := rfl
@[simp] theorem State.handOver_hk (s : State) (b lo hi : Nat) : (s.handOver b lo hi).hk = s.hk := rfl
@[simp] theorem State.handOver_pairs (s : State) (b lo hi : Nat) : (s.handOver b lo hi).pairs = s.pairs := rfl
@[simp] theorem State.handOver_pwm (s : State) (b lo hi : Nat) : (s.handOver b lo hi).pwm = s.pwm := rfl
@[simp] theorem State.handOver_hkAt (s : State) (b lo hi : Nat) : (s.handOver b lo hi).hkAt = s.hkAt := rfl
@[simp] theorem State.handOver_powered (s : State) (b lo hi : Nat) : (s.handOver b lo hi).powered = s.powered := rfl
@[simp] theorem State.handOver_hotLost (s : State) (b lo hi : Nat) : (s.handOver b lo hi).hotLost = s.hotLost := rfl
@[simp] theorem State.handOver_disp (s : State) (b lo hi : Nat) : (s.handOver b lo hi).disp = s.disp := rfl
@[simp] theorem State.handOver_dma (s : State) (b lo hi : Nat) : (s.handOver b lo hi).dma = s.dma := rfl
@[simp] theorem State.handOver_dmaMem (s : State) (b lo hi : Nat) : (s.handOver b lo hi).dmaMem = s.dmaMem := rfl
@[simp] theorem State.handOver_eth (s : State) (b lo hi : Nat) : (s.handOver b lo hi).eth = s.eth := rfl
@[simp] theorem State.handOver_strs (s : State) (b lo hi : Nat) : (s.handOver b lo hi).strs = s.strs := rfl
@[simp] theorem State.handOver_access (s : State) (b lo hi : Nat) : (s.handOver b lo hi).access = s.access := rfl
@[simp] theorem State.handOver_fcol (s : State) (b lo hi : Nat) : (s.handOver b lo hi).fcol = s.fcol := rfl
@[simp] theorem State.handOver_aliveRuns (s : State) (b lo hi : Nat) : (s.handOver b lo hi).aliveRuns = s.aliveRuns := rfl
@[simp] theorem State.handOver_alive (s : State) (b lo hi : Nat) : (s.handOver b lo hi).alive = s.alive := rfl
@[simp] theorem State.handOver_controlLost (s : State) (b lo hi : Nat) : (s.handOver b lo hi).controlLost = s.controlLost := rfl
@[simp] theorem State.handOver_beatsMissed (s : State) (b lo hi : Nat) : (s.handOver b lo hi).beatsMissed = s.beatsMissed := rfl
@[simp] theorem State.handOver_mbox (s : State) (b lo hi : Nat) : (s.handOver b lo hi).mbox = s.mbox := rfl
@[simp] theorem State.handOver_plans (s : State) (b lo hi : Nat) : (s.handOver b lo hi).plans = s.plans := rfl
@[simp] theorem State.handOver_planCmds (s : State) (b lo hi : Nat) : (s.handOver b lo hi).planCmds = s.planCmds := rfl
@[simp] theorem State.handOver_admissions (s : State) (b lo hi : Nat) : (s.handOver b lo hi).admissions = s.admissions := rfl
@[simp] theorem State.handOver_energy (s : State) (b lo hi : Nat) : (s.handOver b lo hi).energy = s.energy := rfl
@[simp] theorem State.handOver_ledger (s : State) (b lo hi : Nat) : (s.handOver b lo hi).ledger = s.ledger := rfl
@[simp] theorem State.handOver_rails (s : State) (b lo hi : Nat) : (s.handOver b lo hi).rails = s.rails := rfl
@[simp] theorem State.handOver_boot (s : State) (b lo hi : Nat) : (s.handOver b lo hi).boot = s.boot := rfl
@[simp] theorem State.handOver_brokenPipes (s : State) (b lo hi : Nat) : (s.handOver b lo hi).brokenPipes = s.brokenPipes := rfl
@[simp] theorem State.handOver_spi (s : State) (b lo hi : Nat) : (s.handOver b lo hi).spi = s.spi := rfl
@[simp] theorem State.handOver_fuses (s : State) (b lo hi : Nat) : (s.handOver b lo hi).fuses = s.fuses := rfl
@[simp] theorem State.handOver_fusedSvn (s : State) (b lo hi : Nat) : (s.handOver b lo hi).fusedSvn = s.fusedSvn := rfl
@[simp] theorem State.handOver_keyHash (s : State) (b lo hi : Nat) : (s.handOver b lo hi).keyHash = s.keyHash := rfl
@[simp] theorem State.handOver_hashIn (s : State) (b lo hi : Nat) : (s.handOver b lo hi).hashIn = s.hashIn := rfl

/-! takeBack -/
@[simp] theorem State.takeBack_pending (s : State) (b lo hi : Nat) : (s.takeBack b lo hi).pending = s.pending := rfl
@[simp] theorem State.takeBack_part (s : State) (b lo hi : Nat) : (s.takeBack b lo hi).part = s.part := rfl
@[simp] theorem State.takeBack_suffixE (s : State) (b lo hi : Nat) : (s.takeBack b lo hi).suffixE = s.suffixE := rfl
@[simp] theorem State.takeBack_live (s : State) (b lo hi : Nat) : (s.takeBack b lo hi).live = s.live := rfl
@[simp] theorem State.takeBack_tabS (s : State) (b lo hi : Nat) : (s.takeBack b lo hi).tabS = s.tabS := rfl
@[simp] theorem State.takeBack_tabL (s : State) (b lo hi : Nat) : (s.takeBack b lo hi).tabL = s.tabL := rfl
@[simp] theorem State.takeBack_force (s : State) (b lo hi : Nat) : (s.takeBack b lo hi).force = s.force := rfl
@[simp] theorem State.takeBack_tabF (s : State) (b lo hi : Nat) : (s.takeBack b lo hi).tabF = s.tabF := rfl
@[simp] theorem State.takeBack_locked (s : State) (b lo hi : Nat) : (s.takeBack b lo hi).locked = s.locked := rfl
@[simp] theorem State.takeBack_cap (s : State) (b lo hi : Nat) : (s.takeBack b lo hi).cap = s.cap := rfl
@[simp] theorem State.takeBack_flight (s : State) (b lo hi : Nat) : (s.takeBack b lo hi).flight = s.flight := rfl
@[simp] theorem State.takeBack_marks (s : State) (b lo hi : Nat) : (s.takeBack b lo hi).marks = s.marks := rfl
@[simp] theorem State.takeBack_drawn (s : State) (b lo hi : Nat) : (s.takeBack b lo hi).drawn = s.drawn := rfl
@[simp] theorem State.takeBack_link (s : State) (b lo hi : Nat) : (s.takeBack b lo hi).link = s.link := rfl
@[simp] theorem State.takeBack_acq (s : State) (b lo hi : Nat) : (s.takeBack b lo hi).acq = s.acq := rfl
@[simp] theorem State.takeBack_jrx (s : State) (b lo hi : Nat) : (s.takeBack b lo hi).jrx = s.jrx := rfl
@[simp] theorem State.takeBack_time (s : State) (b lo hi : Nat) : (s.takeBack b lo hi).time = s.time := rfl
@[simp] theorem State.takeBack_items (s : State) (b lo hi : Nat) : (s.takeBack b lo hi).items = s.items := rfl
@[simp] theorem State.takeBack_traceRing (s : State) (b lo hi : Nat) : (s.takeBack b lo hi).traceRing = s.traceRing := rfl
@[simp] theorem State.takeBack_credits (s : State) (b lo hi : Nat) : (s.takeBack b lo hi).credits = s.credits := rfl
@[simp] theorem State.takeBack_lineOvf (s : State) (b lo hi : Nat) : (s.takeBack b lo hi).lineOvf = s.lineOvf := rfl
@[simp] theorem State.takeBack_codes (s : State) (b lo hi : Nat) : (s.takeBack b lo hi).codes = s.codes := rfl
@[simp] theorem State.takeBack_spares (s : State) (b lo hi : Nat) : (s.takeBack b lo hi).spares = s.spares := rfl
@[simp] theorem State.takeBack_stream (s : State) (b lo hi : Nat) : (s.takeBack b lo hi).stream = s.stream := rfl
@[simp] theorem State.takeBack_readData (s : State) (b lo hi : Nat) : (s.takeBack b lo hi).readData = s.readData := rfl
@[simp] theorem State.takeBack_wb (s : State) (b lo hi : Nat) : (s.takeBack b lo hi).wb = s.wb := rfl
@[simp] theorem State.takeBack_trg (s : State) (b lo hi : Nat) : (s.takeBack b lo hi).trg = s.trg := rfl
@[simp] theorem State.takeBack_trgTx (s : State) (b lo hi : Nat) : (s.takeBack b lo hi).trgTx = s.trgTx := rfl
@[simp] theorem State.takeBack_recs (s : State) (b lo hi : Nat) : (s.takeBack b lo hi).recs = s.recs := rfl
@[simp] theorem State.takeBack_dens (s : State) (b lo hi : Nat) : (s.takeBack b lo hi).dens = s.dens := rfl
@[simp] theorem State.takeBack_cores (s : State) (b lo hi : Nat) : (s.takeBack b lo hi).cores = s.cores := rfl
@[simp] theorem State.takeBack_zooms (s : State) (b lo hi : Nat) : (s.takeBack b lo hi).zooms = s.zooms := rfl
@[simp] theorem State.takeBack_repairs (s : State) (b lo hi : Nat) : (s.takeBack b lo hi).repairs = s.repairs := rfl
@[simp] theorem State.takeBack_lead (s : State) (b lo hi : Nat) : (s.takeBack b lo hi).lead = s.lead := rfl
@[simp] theorem State.takeBack_tdc (s : State) (b lo hi : Nat) : (s.takeBack b lo hi).tdc = s.tdc := rfl
@[simp] theorem State.takeBack_iv (s : State) (b lo hi : Nat) : (s.takeBack b lo hi).iv = s.iv := rfl
@[simp] theorem State.takeBack_tdcCheck (s : State) (b lo hi : Nat) : (s.takeBack b lo hi).tdcCheck = s.tdcCheck := rfl
@[simp] theorem State.takeBack_ddr (s : State) (b lo hi : Nat) : (s.takeBack b lo hi).ddr = s.ddr := rfl
@[simp] theorem State.takeBack_nfs (s : State) (b lo hi : Nat) : (s.takeBack b lo hi).nfs = s.nfs := rfl
@[simp] theorem State.takeBack_powerGood (s : State) (b lo hi : Nat) : (s.takeBack b lo hi).powerGood = s.powerGood := rfl
@[simp] theorem State.takeBack_resetLow (s : State) (b lo hi : Nat) : (s.takeBack b lo hi).resetLow = s.resetLow := rfl
@[simp] theorem State.takeBack_clk (s : State) (b lo hi : Nat) : (s.takeBack b lo hi).clk = s.clk := rfl
@[simp] theorem State.takeBack_enabledIn (s : State) (b lo hi : Nat) : (s.takeBack b lo hi).enabledIn = s.enabledIn := rfl
@[simp] theorem State.takeBack_enableStep (s : State) (b lo hi : Nat) : (s.takeBack b lo hi).enableStep = s.enableStep := rfl
@[simp] theorem State.takeBack_hk (s : State) (b lo hi : Nat) : (s.takeBack b lo hi).hk = s.hk := rfl
@[simp] theorem State.takeBack_pairs (s : State) (b lo hi : Nat) : (s.takeBack b lo hi).pairs = s.pairs := rfl
@[simp] theorem State.takeBack_pwm (s : State) (b lo hi : Nat) : (s.takeBack b lo hi).pwm = s.pwm := rfl
@[simp] theorem State.takeBack_hkAt (s : State) (b lo hi : Nat) : (s.takeBack b lo hi).hkAt = s.hkAt := rfl
@[simp] theorem State.takeBack_powered (s : State) (b lo hi : Nat) : (s.takeBack b lo hi).powered = s.powered := rfl
@[simp] theorem State.takeBack_hotLost (s : State) (b lo hi : Nat) : (s.takeBack b lo hi).hotLost = s.hotLost := rfl
@[simp] theorem State.takeBack_disp (s : State) (b lo hi : Nat) : (s.takeBack b lo hi).disp = s.disp := rfl
@[simp] theorem State.takeBack_dma (s : State) (b lo hi : Nat) : (s.takeBack b lo hi).dma = s.dma := rfl
@[simp] theorem State.takeBack_dmaMem (s : State) (b lo hi : Nat) : (s.takeBack b lo hi).dmaMem = s.dmaMem := rfl
@[simp] theorem State.takeBack_eth (s : State) (b lo hi : Nat) : (s.takeBack b lo hi).eth = s.eth := rfl
@[simp] theorem State.takeBack_strs (s : State) (b lo hi : Nat) : (s.takeBack b lo hi).strs = s.strs := rfl
@[simp] theorem State.takeBack_access (s : State) (b lo hi : Nat) : (s.takeBack b lo hi).access = s.access := rfl
@[simp] theorem State.takeBack_fcol (s : State) (b lo hi : Nat) : (s.takeBack b lo hi).fcol = s.fcol := rfl
@[simp] theorem State.takeBack_aliveRuns (s : State) (b lo hi : Nat) : (s.takeBack b lo hi).aliveRuns = s.aliveRuns := rfl
@[simp] theorem State.takeBack_alive (s : State) (b lo hi : Nat) : (s.takeBack b lo hi).alive = s.alive := rfl
@[simp] theorem State.takeBack_controlLost (s : State) (b lo hi : Nat) : (s.takeBack b lo hi).controlLost = s.controlLost := rfl
@[simp] theorem State.takeBack_beatsMissed (s : State) (b lo hi : Nat) : (s.takeBack b lo hi).beatsMissed = s.beatsMissed := rfl
@[simp] theorem State.takeBack_mbox (s : State) (b lo hi : Nat) : (s.takeBack b lo hi).mbox = s.mbox := rfl
@[simp] theorem State.takeBack_plans (s : State) (b lo hi : Nat) : (s.takeBack b lo hi).plans = s.plans := rfl
@[simp] theorem State.takeBack_planCmds (s : State) (b lo hi : Nat) : (s.takeBack b lo hi).planCmds = s.planCmds := rfl
@[simp] theorem State.takeBack_admissions (s : State) (b lo hi : Nat) : (s.takeBack b lo hi).admissions = s.admissions := rfl
@[simp] theorem State.takeBack_energy (s : State) (b lo hi : Nat) : (s.takeBack b lo hi).energy = s.energy := rfl
@[simp] theorem State.takeBack_ledger (s : State) (b lo hi : Nat) : (s.takeBack b lo hi).ledger = s.ledger := rfl
@[simp] theorem State.takeBack_rails (s : State) (b lo hi : Nat) : (s.takeBack b lo hi).rails = s.rails := rfl
@[simp] theorem State.takeBack_boot (s : State) (b lo hi : Nat) : (s.takeBack b lo hi).boot = s.boot := rfl
@[simp] theorem State.takeBack_brokenPipes (s : State) (b lo hi : Nat) : (s.takeBack b lo hi).brokenPipes = s.brokenPipes := rfl
@[simp] theorem State.takeBack_spi (s : State) (b lo hi : Nat) : (s.takeBack b lo hi).spi = s.spi := rfl
@[simp] theorem State.takeBack_fuses (s : State) (b lo hi : Nat) : (s.takeBack b lo hi).fuses = s.fuses := rfl
@[simp] theorem State.takeBack_fusedSvn (s : State) (b lo hi : Nat) : (s.takeBack b lo hi).fusedSvn = s.fusedSvn := rfl
@[simp] theorem State.takeBack_keyHash (s : State) (b lo hi : Nat) : (s.takeBack b lo hi).keyHash = s.keyHash := rfl
@[simp] theorem State.takeBack_hashIn (s : State) (b lo hi : Nat) : (s.takeBack b lo hi).hashIn = s.hashIn := rfl

/-! raise -/
@[simp] theorem State.raise_pending (s : State) (src detail : Nat) : (s.raise src detail).pending = s.pending := rfl
@[simp] theorem State.raise_part (s : State) (src detail : Nat) : (s.raise src detail).part = s.part := rfl
@[simp] theorem State.raise_suffixE (s : State) (src detail : Nat) : (s.raise src detail).suffixE = s.suffixE := rfl
@[simp] theorem State.raise_regs (s : State) (src detail : Nat) : (s.raise src detail).regs = s.regs := rfl
@[simp] theorem State.raise_live (s : State) (src detail : Nat) : (s.raise src detail).live = s.live := rfl
@[simp] theorem State.raise_tabS (s : State) (src detail : Nat) : (s.raise src detail).tabS = s.tabS := rfl
@[simp] theorem State.raise_tabL (s : State) (src detail : Nat) : (s.raise src detail).tabL = s.tabL := rfl
@[simp] theorem State.raise_force (s : State) (src detail : Nat) : (s.raise src detail).force = s.force := rfl
@[simp] theorem State.raise_tabF (s : State) (src detail : Nat) : (s.raise src detail).tabF = s.tabF := rfl
@[simp] theorem State.raise_locked (s : State) (src detail : Nat) : (s.raise src detail).locked = s.locked := rfl
@[simp] theorem State.raise_cap (s : State) (src detail : Nat) : (s.raise src detail).cap = s.cap := rfl
@[simp] theorem State.raise_marks (s : State) (src detail : Nat) : (s.raise src detail).marks = s.marks := rfl
@[simp] theorem State.raise_drawn (s : State) (src detail : Nat) : (s.raise src detail).drawn = s.drawn := rfl
@[simp] theorem State.raise_link (s : State) (src detail : Nat) : (s.raise src detail).link = s.link := rfl
@[simp] theorem State.raise_acq (s : State) (src detail : Nat) : (s.raise src detail).acq = s.acq := rfl
@[simp] theorem State.raise_jrx (s : State) (src detail : Nat) : (s.raise src detail).jrx = s.jrx := rfl
@[simp] theorem State.raise_time (s : State) (src detail : Nat) : (s.raise src detail).time = s.time := rfl
@[simp] theorem State.raise_items (s : State) (src detail : Nat) : (s.raise src detail).items = s.items := rfl
@[simp] theorem State.raise_traceRing (s : State) (src detail : Nat) : (s.raise src detail).traceRing = s.traceRing := rfl
@[simp] theorem State.raise_credits (s : State) (src detail : Nat) : (s.raise src detail).credits = s.credits := rfl
@[simp] theorem State.raise_lineOvf (s : State) (src detail : Nat) : (s.raise src detail).lineOvf = s.lineOvf := rfl
@[simp] theorem State.raise_codes (s : State) (src detail : Nat) : (s.raise src detail).codes = s.codes := rfl
@[simp] theorem State.raise_spares (s : State) (src detail : Nat) : (s.raise src detail).spares = s.spares := rfl
@[simp] theorem State.raise_stream (s : State) (src detail : Nat) : (s.raise src detail).stream = s.stream := rfl
@[simp] theorem State.raise_readData (s : State) (src detail : Nat) : (s.raise src detail).readData = s.readData := rfl
@[simp] theorem State.raise_wb (s : State) (src detail : Nat) : (s.raise src detail).wb = s.wb := rfl
@[simp] theorem State.raise_trg (s : State) (src detail : Nat) : (s.raise src detail).trg = s.trg := rfl
@[simp] theorem State.raise_trgTx (s : State) (src detail : Nat) : (s.raise src detail).trgTx = s.trgTx := rfl
@[simp] theorem State.raise_recs (s : State) (src detail : Nat) : (s.raise src detail).recs = s.recs := rfl
@[simp] theorem State.raise_dens (s : State) (src detail : Nat) : (s.raise src detail).dens = s.dens := rfl
@[simp] theorem State.raise_cores (s : State) (src detail : Nat) : (s.raise src detail).cores = s.cores := rfl
@[simp] theorem State.raise_zooms (s : State) (src detail : Nat) : (s.raise src detail).zooms = s.zooms := rfl
@[simp] theorem State.raise_repairs (s : State) (src detail : Nat) : (s.raise src detail).repairs = s.repairs := rfl
@[simp] theorem State.raise_lead (s : State) (src detail : Nat) : (s.raise src detail).lead = s.lead := rfl
@[simp] theorem State.raise_tdc (s : State) (src detail : Nat) : (s.raise src detail).tdc = s.tdc := rfl
@[simp] theorem State.raise_iv (s : State) (src detail : Nat) : (s.raise src detail).iv = s.iv := rfl
@[simp] theorem State.raise_tdcCheck (s : State) (src detail : Nat) : (s.raise src detail).tdcCheck = s.tdcCheck := rfl
@[simp] theorem State.raise_ddr (s : State) (src detail : Nat) : (s.raise src detail).ddr = s.ddr := rfl
@[simp] theorem State.raise_nfs (s : State) (src detail : Nat) : (s.raise src detail).nfs = s.nfs := rfl
@[simp] theorem State.raise_powerGood (s : State) (src detail : Nat) : (s.raise src detail).powerGood = s.powerGood := rfl
@[simp] theorem State.raise_resetLow (s : State) (src detail : Nat) : (s.raise src detail).resetLow = s.resetLow := rfl
@[simp] theorem State.raise_clk (s : State) (src detail : Nat) : (s.raise src detail).clk = s.clk := rfl
@[simp] theorem State.raise_enabledIn (s : State) (src detail : Nat) : (s.raise src detail).enabledIn = s.enabledIn := rfl
@[simp] theorem State.raise_enableStep (s : State) (src detail : Nat) : (s.raise src detail).enableStep = s.enableStep := rfl
@[simp] theorem State.raise_hk (s : State) (src detail : Nat) : (s.raise src detail).hk = s.hk := rfl
@[simp] theorem State.raise_pairs (s : State) (src detail : Nat) : (s.raise src detail).pairs = s.pairs := rfl
@[simp] theorem State.raise_pwm (s : State) (src detail : Nat) : (s.raise src detail).pwm = s.pwm := rfl
@[simp] theorem State.raise_hkAt (s : State) (src detail : Nat) : (s.raise src detail).hkAt = s.hkAt := rfl
@[simp] theorem State.raise_powered (s : State) (src detail : Nat) : (s.raise src detail).powered = s.powered := rfl
@[simp] theorem State.raise_hotLost (s : State) (src detail : Nat) : (s.raise src detail).hotLost = s.hotLost := rfl
@[simp] theorem State.raise_disp (s : State) (src detail : Nat) : (s.raise src detail).disp = s.disp := rfl
@[simp] theorem State.raise_dma (s : State) (src detail : Nat) : (s.raise src detail).dma = s.dma := rfl
@[simp] theorem State.raise_dmaMem (s : State) (src detail : Nat) : (s.raise src detail).dmaMem = s.dmaMem := rfl
@[simp] theorem State.raise_eth (s : State) (src detail : Nat) : (s.raise src detail).eth = s.eth := rfl
@[simp] theorem State.raise_strs (s : State) (src detail : Nat) : (s.raise src detail).strs = s.strs := rfl
@[simp] theorem State.raise_access (s : State) (src detail : Nat) : (s.raise src detail).access = s.access := rfl
@[simp] theorem State.raise_fcol (s : State) (src detail : Nat) : (s.raise src detail).fcol = s.fcol := rfl
@[simp] theorem State.raise_aliveRuns (s : State) (src detail : Nat) : (s.raise src detail).aliveRuns = s.aliveRuns := rfl
@[simp] theorem State.raise_alive (s : State) (src detail : Nat) : (s.raise src detail).alive = s.alive := rfl
@[simp] theorem State.raise_controlLost (s : State) (src detail : Nat) : (s.raise src detail).controlLost = s.controlLost := rfl
@[simp] theorem State.raise_beatsMissed (s : State) (src detail : Nat) : (s.raise src detail).beatsMissed = s.beatsMissed := rfl
@[simp] theorem State.raise_mbox (s : State) (src detail : Nat) : (s.raise src detail).mbox = s.mbox := rfl
@[simp] theorem State.raise_plans (s : State) (src detail : Nat) : (s.raise src detail).plans = s.plans := rfl
@[simp] theorem State.raise_planCmds (s : State) (src detail : Nat) : (s.raise src detail).planCmds = s.planCmds := rfl
@[simp] theorem State.raise_admissions (s : State) (src detail : Nat) : (s.raise src detail).admissions = s.admissions := rfl
@[simp] theorem State.raise_energy (s : State) (src detail : Nat) : (s.raise src detail).energy = s.energy := rfl
@[simp] theorem State.raise_ledger (s : State) (src detail : Nat) : (s.raise src detail).ledger = s.ledger := rfl
@[simp] theorem State.raise_rails (s : State) (src detail : Nat) : (s.raise src detail).rails = s.rails := rfl
@[simp] theorem State.raise_boot (s : State) (src detail : Nat) : (s.raise src detail).boot = s.boot := rfl
@[simp] theorem State.raise_brokenPipes (s : State) (src detail : Nat) : (s.raise src detail).brokenPipes = s.brokenPipes := rfl
@[simp] theorem State.raise_spi (s : State) (src detail : Nat) : (s.raise src detail).spi = s.spi := rfl
@[simp] theorem State.raise_fuses (s : State) (src detail : Nat) : (s.raise src detail).fuses = s.fuses := rfl
@[simp] theorem State.raise_fusedSvn (s : State) (src detail : Nat) : (s.raise src detail).fusedSvn = s.fusedSvn := rfl
@[simp] theorem State.raise_keyHash (s : State) (src detail : Nat) : (s.raise src detail).keyHash = s.keyHash := rfl
@[simp] theorem State.raise_hashIn (s : State) (src detail : Nat) : (s.raise src detail).hashIn = s.hashIn := rfl

/-! enforce -/
@[simp] theorem State.enforce_pending (s : State) (b lo hi : Nat) : (s.enforce b lo hi).pending = s.pending := rfl
@[simp] theorem State.enforce_part (s : State) (b lo hi : Nat) : (s.enforce b lo hi).part = s.part := rfl
@[simp] theorem State.enforce_suffixE (s : State) (b lo hi : Nat) : (s.enforce b lo hi).suffixE = s.suffixE := rfl
@[simp] theorem State.enforce_regs (s : State) (b lo hi : Nat) : (s.enforce b lo hi).regs = s.regs := rfl
@[simp] theorem State.enforce_live (s : State) (b lo hi : Nat) : (s.enforce b lo hi).live = s.live := rfl
@[simp] theorem State.enforce_tabS (s : State) (b lo hi : Nat) : (s.enforce b lo hi).tabS = s.tabS := rfl
@[simp] theorem State.enforce_tabL (s : State) (b lo hi : Nat) : (s.enforce b lo hi).tabL = s.tabL := rfl
@[simp] theorem State.enforce_tabF (s : State) (b lo hi : Nat) : (s.enforce b lo hi).tabF = s.tabF := rfl
@[simp] theorem State.enforce_locked (s : State) (b lo hi : Nat) : (s.enforce b lo hi).locked = s.locked := rfl
@[simp] theorem State.enforce_cap (s : State) (b lo hi : Nat) : (s.enforce b lo hi).cap = s.cap := rfl
@[simp] theorem State.enforce_flight (s : State) (b lo hi : Nat) : (s.enforce b lo hi).flight = s.flight := rfl
@[simp] theorem State.enforce_marks (s : State) (b lo hi : Nat) : (s.enforce b lo hi).marks = s.marks := rfl
@[simp] theorem State.enforce_drawn (s : State) (b lo hi : Nat) : (s.enforce b lo hi).drawn = s.drawn := rfl
@[simp] theorem State.enforce_link (s : State) (b lo hi : Nat) : (s.enforce b lo hi).link = s.link := rfl
@[simp] theorem State.enforce_acq (s : State) (b lo hi : Nat) : (s.enforce b lo hi).acq = s.acq := rfl
@[simp] theorem State.enforce_jrx (s : State) (b lo hi : Nat) : (s.enforce b lo hi).jrx = s.jrx := rfl
@[simp] theorem State.enforce_time (s : State) (b lo hi : Nat) : (s.enforce b lo hi).time = s.time := rfl
@[simp] theorem State.enforce_items (s : State) (b lo hi : Nat) : (s.enforce b lo hi).items = s.items := rfl
@[simp] theorem State.enforce_traceRing (s : State) (b lo hi : Nat) : (s.enforce b lo hi).traceRing = s.traceRing := rfl
@[simp] theorem State.enforce_credits (s : State) (b lo hi : Nat) : (s.enforce b lo hi).credits = s.credits := rfl
@[simp] theorem State.enforce_lineOvf (s : State) (b lo hi : Nat) : (s.enforce b lo hi).lineOvf = s.lineOvf := rfl
@[simp] theorem State.enforce_codes (s : State) (b lo hi : Nat) : (s.enforce b lo hi).codes = s.codes := rfl
@[simp] theorem State.enforce_spares (s : State) (b lo hi : Nat) : (s.enforce b lo hi).spares = s.spares := rfl
@[simp] theorem State.enforce_stream (s : State) (b lo hi : Nat) : (s.enforce b lo hi).stream = s.stream := rfl
@[simp] theorem State.enforce_readData (s : State) (b lo hi : Nat) : (s.enforce b lo hi).readData = s.readData := rfl
@[simp] theorem State.enforce_wb (s : State) (b lo hi : Nat) : (s.enforce b lo hi).wb = s.wb := rfl
@[simp] theorem State.enforce_trg (s : State) (b lo hi : Nat) : (s.enforce b lo hi).trg = s.trg := rfl
@[simp] theorem State.enforce_trgTx (s : State) (b lo hi : Nat) : (s.enforce b lo hi).trgTx = s.trgTx := rfl
@[simp] theorem State.enforce_recs (s : State) (b lo hi : Nat) : (s.enforce b lo hi).recs = s.recs := rfl
@[simp] theorem State.enforce_dens (s : State) (b lo hi : Nat) : (s.enforce b lo hi).dens = s.dens := rfl
@[simp] theorem State.enforce_cores (s : State) (b lo hi : Nat) : (s.enforce b lo hi).cores = s.cores := rfl
@[simp] theorem State.enforce_zooms (s : State) (b lo hi : Nat) : (s.enforce b lo hi).zooms = s.zooms := rfl
@[simp] theorem State.enforce_repairs (s : State) (b lo hi : Nat) : (s.enforce b lo hi).repairs = s.repairs := rfl
@[simp] theorem State.enforce_lead (s : State) (b lo hi : Nat) : (s.enforce b lo hi).lead = s.lead := rfl
@[simp] theorem State.enforce_tdc (s : State) (b lo hi : Nat) : (s.enforce b lo hi).tdc = s.tdc := rfl
@[simp] theorem State.enforce_iv (s : State) (b lo hi : Nat) : (s.enforce b lo hi).iv = s.iv := rfl
@[simp] theorem State.enforce_tdcCheck (s : State) (b lo hi : Nat) : (s.enforce b lo hi).tdcCheck = s.tdcCheck := rfl
@[simp] theorem State.enforce_ddr (s : State) (b lo hi : Nat) : (s.enforce b lo hi).ddr = s.ddr := rfl
@[simp] theorem State.enforce_nfs (s : State) (b lo hi : Nat) : (s.enforce b lo hi).nfs = s.nfs := rfl
@[simp] theorem State.enforce_powerGood (s : State) (b lo hi : Nat) : (s.enforce b lo hi).powerGood = s.powerGood := rfl
@[simp] theorem State.enforce_resetLow (s : State) (b lo hi : Nat) : (s.enforce b lo hi).resetLow = s.resetLow := rfl
@[simp] theorem State.enforce_clk (s : State) (b lo hi : Nat) : (s.enforce b lo hi).clk = s.clk := rfl
@[simp] theorem State.enforce_enabledIn (s : State) (b lo hi : Nat) : (s.enforce b lo hi).enabledIn = s.enabledIn := rfl
@[simp] theorem State.enforce_enableStep (s : State) (b lo hi : Nat) : (s.enforce b lo hi).enableStep = s.enableStep := rfl
@[simp] theorem State.enforce_hk (s : State) (b lo hi : Nat) : (s.enforce b lo hi).hk = s.hk := rfl
@[simp] theorem State.enforce_pairs (s : State) (b lo hi : Nat) : (s.enforce b lo hi).pairs = s.pairs := rfl
@[simp] theorem State.enforce_pwm (s : State) (b lo hi : Nat) : (s.enforce b lo hi).pwm = s.pwm := rfl
@[simp] theorem State.enforce_hkAt (s : State) (b lo hi : Nat) : (s.enforce b lo hi).hkAt = s.hkAt := rfl
@[simp] theorem State.enforce_powered (s : State) (b lo hi : Nat) : (s.enforce b lo hi).powered = s.powered := rfl
@[simp] theorem State.enforce_hotLost (s : State) (b lo hi : Nat) : (s.enforce b lo hi).hotLost = s.hotLost := rfl
@[simp] theorem State.enforce_disp (s : State) (b lo hi : Nat) : (s.enforce b lo hi).disp = s.disp := rfl
@[simp] theorem State.enforce_dma (s : State) (b lo hi : Nat) : (s.enforce b lo hi).dma = s.dma := rfl
@[simp] theorem State.enforce_dmaMem (s : State) (b lo hi : Nat) : (s.enforce b lo hi).dmaMem = s.dmaMem := rfl
@[simp] theorem State.enforce_eth (s : State) (b lo hi : Nat) : (s.enforce b lo hi).eth = s.eth := rfl
@[simp] theorem State.enforce_strs (s : State) (b lo hi : Nat) : (s.enforce b lo hi).strs = s.strs := rfl
@[simp] theorem State.enforce_access (s : State) (b lo hi : Nat) : (s.enforce b lo hi).access = s.access := rfl
@[simp] theorem State.enforce_fcol (s : State) (b lo hi : Nat) : (s.enforce b lo hi).fcol = s.fcol := rfl
@[simp] theorem State.enforce_aliveRuns (s : State) (b lo hi : Nat) : (s.enforce b lo hi).aliveRuns = s.aliveRuns := rfl
@[simp] theorem State.enforce_alive (s : State) (b lo hi : Nat) : (s.enforce b lo hi).alive = s.alive := rfl
@[simp] theorem State.enforce_controlLost (s : State) (b lo hi : Nat) : (s.enforce b lo hi).controlLost = s.controlLost := rfl
@[simp] theorem State.enforce_beatsMissed (s : State) (b lo hi : Nat) : (s.enforce b lo hi).beatsMissed = s.beatsMissed := rfl
@[simp] theorem State.enforce_mbox (s : State) (b lo hi : Nat) : (s.enforce b lo hi).mbox = s.mbox := rfl
@[simp] theorem State.enforce_plans (s : State) (b lo hi : Nat) : (s.enforce b lo hi).plans = s.plans := rfl
@[simp] theorem State.enforce_planCmds (s : State) (b lo hi : Nat) : (s.enforce b lo hi).planCmds = s.planCmds := rfl
@[simp] theorem State.enforce_admissions (s : State) (b lo hi : Nat) : (s.enforce b lo hi).admissions = s.admissions := rfl
@[simp] theorem State.enforce_energy (s : State) (b lo hi : Nat) : (s.enforce b lo hi).energy = s.energy := rfl
@[simp] theorem State.enforce_ledger (s : State) (b lo hi : Nat) : (s.enforce b lo hi).ledger = s.ledger := rfl
@[simp] theorem State.enforce_rails (s : State) (b lo hi : Nat) : (s.enforce b lo hi).rails = s.rails := rfl
@[simp] theorem State.enforce_boot (s : State) (b lo hi : Nat) : (s.enforce b lo hi).boot = s.boot := rfl
@[simp] theorem State.enforce_brokenPipes (s : State) (b lo hi : Nat) : (s.enforce b lo hi).brokenPipes = s.brokenPipes := rfl
@[simp] theorem State.enforce_spi (s : State) (b lo hi : Nat) : (s.enforce b lo hi).spi = s.spi := rfl
@[simp] theorem State.enforce_fuses (s : State) (b lo hi : Nat) : (s.enforce b lo hi).fuses = s.fuses := rfl
@[simp] theorem State.enforce_fusedSvn (s : State) (b lo hi : Nat) : (s.enforce b lo hi).fusedSvn = s.fusedSvn := rfl
@[simp] theorem State.enforce_keyHash (s : State) (b lo hi : Nat) : (s.enforce b lo hi).keyHash = s.keyHash := rfl
@[simp] theorem State.enforce_hashIn (s : State) (b lo hi : Nat) : (s.enforce b lo hi).hashIn = s.hashIn := rfl

/-! tabHandOver -/
@[simp] theorem State.tabHandOver_pending (s : State) (lo hi : Nat) : (s.tabHandOver lo hi).pending = s.pending := rfl
@[simp] theorem State.tabHandOver_part (s : State) (lo hi : Nat) : (s.tabHandOver lo hi).part = s.part := rfl
@[simp] theorem State.tabHandOver_suffixE (s : State) (lo hi : Nat) : (s.tabHandOver lo hi).suffixE = s.suffixE := rfl
@[simp] theorem State.tabHandOver_regs (s : State) (lo hi : Nat) : (s.tabHandOver lo hi).regs = s.regs := rfl
@[simp] theorem State.tabHandOver_live (s : State) (lo hi : Nat) : (s.tabHandOver lo hi).live = s.live := rfl
@[simp] theorem State.tabHandOver_tabS (s : State) (lo hi : Nat) : (s.tabHandOver lo hi).tabS = s.tabS := rfl
@[simp] theorem State.tabHandOver_force (s : State) (lo hi : Nat) : (s.tabHandOver lo hi).force = s.force := rfl
@[simp] theorem State.tabHandOver_tabF (s : State) (lo hi : Nat) : (s.tabHandOver lo hi).tabF = s.tabF := rfl
@[simp] theorem State.tabHandOver_locked (s : State) (lo hi : Nat) : (s.tabHandOver lo hi).locked = s.locked := rfl
@[simp] theorem State.tabHandOver_cap (s : State) (lo hi : Nat) : (s.tabHandOver lo hi).cap = s.cap := rfl
@[simp] theorem State.tabHandOver_flight (s : State) (lo hi : Nat) : (s.tabHandOver lo hi).flight = s.flight := rfl
@[simp] theorem State.tabHandOver_marks (s : State) (lo hi : Nat) : (s.tabHandOver lo hi).marks = s.marks := rfl
@[simp] theorem State.tabHandOver_drawn (s : State) (lo hi : Nat) : (s.tabHandOver lo hi).drawn = s.drawn := rfl
@[simp] theorem State.tabHandOver_link (s : State) (lo hi : Nat) : (s.tabHandOver lo hi).link = s.link := rfl
@[simp] theorem State.tabHandOver_acq (s : State) (lo hi : Nat) : (s.tabHandOver lo hi).acq = s.acq := rfl
@[simp] theorem State.tabHandOver_jrx (s : State) (lo hi : Nat) : (s.tabHandOver lo hi).jrx = s.jrx := rfl
@[simp] theorem State.tabHandOver_time (s : State) (lo hi : Nat) : (s.tabHandOver lo hi).time = s.time := rfl
@[simp] theorem State.tabHandOver_items (s : State) (lo hi : Nat) : (s.tabHandOver lo hi).items = s.items := rfl
@[simp] theorem State.tabHandOver_traceRing (s : State) (lo hi : Nat) : (s.tabHandOver lo hi).traceRing = s.traceRing := rfl
@[simp] theorem State.tabHandOver_credits (s : State) (lo hi : Nat) : (s.tabHandOver lo hi).credits = s.credits := rfl
@[simp] theorem State.tabHandOver_lineOvf (s : State) (lo hi : Nat) : (s.tabHandOver lo hi).lineOvf = s.lineOvf := rfl
@[simp] theorem State.tabHandOver_codes (s : State) (lo hi : Nat) : (s.tabHandOver lo hi).codes = s.codes := rfl
@[simp] theorem State.tabHandOver_spares (s : State) (lo hi : Nat) : (s.tabHandOver lo hi).spares = s.spares := rfl
@[simp] theorem State.tabHandOver_stream (s : State) (lo hi : Nat) : (s.tabHandOver lo hi).stream = s.stream := rfl
@[simp] theorem State.tabHandOver_readData (s : State) (lo hi : Nat) : (s.tabHandOver lo hi).readData = s.readData := rfl
@[simp] theorem State.tabHandOver_wb (s : State) (lo hi : Nat) : (s.tabHandOver lo hi).wb = s.wb := rfl
@[simp] theorem State.tabHandOver_trg (s : State) (lo hi : Nat) : (s.tabHandOver lo hi).trg = s.trg := rfl
@[simp] theorem State.tabHandOver_trgTx (s : State) (lo hi : Nat) : (s.tabHandOver lo hi).trgTx = s.trgTx := rfl
@[simp] theorem State.tabHandOver_recs (s : State) (lo hi : Nat) : (s.tabHandOver lo hi).recs = s.recs := rfl
@[simp] theorem State.tabHandOver_dens (s : State) (lo hi : Nat) : (s.tabHandOver lo hi).dens = s.dens := rfl
@[simp] theorem State.tabHandOver_cores (s : State) (lo hi : Nat) : (s.tabHandOver lo hi).cores = s.cores := rfl
@[simp] theorem State.tabHandOver_zooms (s : State) (lo hi : Nat) : (s.tabHandOver lo hi).zooms = s.zooms := rfl
@[simp] theorem State.tabHandOver_repairs (s : State) (lo hi : Nat) : (s.tabHandOver lo hi).repairs = s.repairs := rfl
@[simp] theorem State.tabHandOver_lead (s : State) (lo hi : Nat) : (s.tabHandOver lo hi).lead = s.lead := rfl
@[simp] theorem State.tabHandOver_tdc (s : State) (lo hi : Nat) : (s.tabHandOver lo hi).tdc = s.tdc := rfl
@[simp] theorem State.tabHandOver_iv (s : State) (lo hi : Nat) : (s.tabHandOver lo hi).iv = s.iv := rfl
@[simp] theorem State.tabHandOver_tdcCheck (s : State) (lo hi : Nat) : (s.tabHandOver lo hi).tdcCheck = s.tdcCheck := rfl
@[simp] theorem State.tabHandOver_ddr (s : State) (lo hi : Nat) : (s.tabHandOver lo hi).ddr = s.ddr := rfl
@[simp] theorem State.tabHandOver_nfs (s : State) (lo hi : Nat) : (s.tabHandOver lo hi).nfs = s.nfs := rfl
@[simp] theorem State.tabHandOver_powerGood (s : State) (lo hi : Nat) : (s.tabHandOver lo hi).powerGood = s.powerGood := rfl
@[simp] theorem State.tabHandOver_resetLow (s : State) (lo hi : Nat) : (s.tabHandOver lo hi).resetLow = s.resetLow := rfl
@[simp] theorem State.tabHandOver_clk (s : State) (lo hi : Nat) : (s.tabHandOver lo hi).clk = s.clk := rfl
@[simp] theorem State.tabHandOver_enabledIn (s : State) (lo hi : Nat) : (s.tabHandOver lo hi).enabledIn = s.enabledIn := rfl
@[simp] theorem State.tabHandOver_enableStep (s : State) (lo hi : Nat) : (s.tabHandOver lo hi).enableStep = s.enableStep := rfl
@[simp] theorem State.tabHandOver_hk (s : State) (lo hi : Nat) : (s.tabHandOver lo hi).hk = s.hk := rfl
@[simp] theorem State.tabHandOver_pairs (s : State) (lo hi : Nat) : (s.tabHandOver lo hi).pairs = s.pairs := rfl
@[simp] theorem State.tabHandOver_pwm (s : State) (lo hi : Nat) : (s.tabHandOver lo hi).pwm = s.pwm := rfl
@[simp] theorem State.tabHandOver_hkAt (s : State) (lo hi : Nat) : (s.tabHandOver lo hi).hkAt = s.hkAt := rfl
@[simp] theorem State.tabHandOver_powered (s : State) (lo hi : Nat) : (s.tabHandOver lo hi).powered = s.powered := rfl
@[simp] theorem State.tabHandOver_hotLost (s : State) (lo hi : Nat) : (s.tabHandOver lo hi).hotLost = s.hotLost := rfl
@[simp] theorem State.tabHandOver_disp (s : State) (lo hi : Nat) : (s.tabHandOver lo hi).disp = s.disp := rfl
@[simp] theorem State.tabHandOver_dma (s : State) (lo hi : Nat) : (s.tabHandOver lo hi).dma = s.dma := rfl
@[simp] theorem State.tabHandOver_dmaMem (s : State) (lo hi : Nat) : (s.tabHandOver lo hi).dmaMem = s.dmaMem := rfl
@[simp] theorem State.tabHandOver_eth (s : State) (lo hi : Nat) : (s.tabHandOver lo hi).eth = s.eth := rfl
@[simp] theorem State.tabHandOver_strs (s : State) (lo hi : Nat) : (s.tabHandOver lo hi).strs = s.strs := rfl
@[simp] theorem State.tabHandOver_access (s : State) (lo hi : Nat) : (s.tabHandOver lo hi).access = s.access := rfl
@[simp] theorem State.tabHandOver_fcol (s : State) (lo hi : Nat) : (s.tabHandOver lo hi).fcol = s.fcol := rfl
@[simp] theorem State.tabHandOver_aliveRuns (s : State) (lo hi : Nat) : (s.tabHandOver lo hi).aliveRuns = s.aliveRuns := rfl
@[simp] theorem State.tabHandOver_alive (s : State) (lo hi : Nat) : (s.tabHandOver lo hi).alive = s.alive := rfl
@[simp] theorem State.tabHandOver_controlLost (s : State) (lo hi : Nat) : (s.tabHandOver lo hi).controlLost = s.controlLost := rfl
@[simp] theorem State.tabHandOver_beatsMissed (s : State) (lo hi : Nat) : (s.tabHandOver lo hi).beatsMissed = s.beatsMissed := rfl
@[simp] theorem State.tabHandOver_mbox (s : State) (lo hi : Nat) : (s.tabHandOver lo hi).mbox = s.mbox := rfl
@[simp] theorem State.tabHandOver_plans (s : State) (lo hi : Nat) : (s.tabHandOver lo hi).plans = s.plans := rfl
@[simp] theorem State.tabHandOver_planCmds (s : State) (lo hi : Nat) : (s.tabHandOver lo hi).planCmds = s.planCmds := rfl
@[simp] theorem State.tabHandOver_admissions (s : State) (lo hi : Nat) : (s.tabHandOver lo hi).admissions = s.admissions := rfl
@[simp] theorem State.tabHandOver_energy (s : State) (lo hi : Nat) : (s.tabHandOver lo hi).energy = s.energy := rfl
@[simp] theorem State.tabHandOver_ledger (s : State) (lo hi : Nat) : (s.tabHandOver lo hi).ledger = s.ledger := rfl
@[simp] theorem State.tabHandOver_rails (s : State) (lo hi : Nat) : (s.tabHandOver lo hi).rails = s.rails := rfl
@[simp] theorem State.tabHandOver_boot (s : State) (lo hi : Nat) : (s.tabHandOver lo hi).boot = s.boot := rfl
@[simp] theorem State.tabHandOver_brokenPipes (s : State) (lo hi : Nat) : (s.tabHandOver lo hi).brokenPipes = s.brokenPipes := rfl
@[simp] theorem State.tabHandOver_spi (s : State) (lo hi : Nat) : (s.tabHandOver lo hi).spi = s.spi := rfl
@[simp] theorem State.tabHandOver_fuses (s : State) (lo hi : Nat) : (s.tabHandOver lo hi).fuses = s.fuses := rfl
@[simp] theorem State.tabHandOver_fusedSvn (s : State) (lo hi : Nat) : (s.tabHandOver lo hi).fusedSvn = s.fusedSvn := rfl
@[simp] theorem State.tabHandOver_keyHash (s : State) (lo hi : Nat) : (s.tabHandOver lo hi).keyHash = s.keyHash := rfl
@[simp] theorem State.tabHandOver_hashIn (s : State) (lo hi : Nat) : (s.tabHandOver lo hi).hashIn = s.hashIn := rfl

/-! tabTakeBack -/
@[simp] theorem State.tabTakeBack_pending (s : State) (lo hi : Nat) : (s.tabTakeBack lo hi).pending = s.pending := rfl
@[simp] theorem State.tabTakeBack_part (s : State) (lo hi : Nat) : (s.tabTakeBack lo hi).part = s.part := rfl
@[simp] theorem State.tabTakeBack_suffixE (s : State) (lo hi : Nat) : (s.tabTakeBack lo hi).suffixE = s.suffixE := rfl
@[simp] theorem State.tabTakeBack_regs (s : State) (lo hi : Nat) : (s.tabTakeBack lo hi).regs = s.regs := rfl
@[simp] theorem State.tabTakeBack_live (s : State) (lo hi : Nat) : (s.tabTakeBack lo hi).live = s.live := rfl
@[simp] theorem State.tabTakeBack_tabL (s : State) (lo hi : Nat) : (s.tabTakeBack lo hi).tabL = s.tabL := rfl
@[simp] theorem State.tabTakeBack_force (s : State) (lo hi : Nat) : (s.tabTakeBack lo hi).force = s.force := rfl
@[simp] theorem State.tabTakeBack_tabF (s : State) (lo hi : Nat) : (s.tabTakeBack lo hi).tabF = s.tabF := rfl
@[simp] theorem State.tabTakeBack_locked (s : State) (lo hi : Nat) : (s.tabTakeBack lo hi).locked = s.locked := rfl
@[simp] theorem State.tabTakeBack_cap (s : State) (lo hi : Nat) : (s.tabTakeBack lo hi).cap = s.cap := rfl
@[simp] theorem State.tabTakeBack_flight (s : State) (lo hi : Nat) : (s.tabTakeBack lo hi).flight = s.flight := rfl
@[simp] theorem State.tabTakeBack_marks (s : State) (lo hi : Nat) : (s.tabTakeBack lo hi).marks = s.marks := rfl
@[simp] theorem State.tabTakeBack_drawn (s : State) (lo hi : Nat) : (s.tabTakeBack lo hi).drawn = s.drawn := rfl
@[simp] theorem State.tabTakeBack_link (s : State) (lo hi : Nat) : (s.tabTakeBack lo hi).link = s.link := rfl
@[simp] theorem State.tabTakeBack_acq (s : State) (lo hi : Nat) : (s.tabTakeBack lo hi).acq = s.acq := rfl
@[simp] theorem State.tabTakeBack_jrx (s : State) (lo hi : Nat) : (s.tabTakeBack lo hi).jrx = s.jrx := rfl
@[simp] theorem State.tabTakeBack_time (s : State) (lo hi : Nat) : (s.tabTakeBack lo hi).time = s.time := rfl
@[simp] theorem State.tabTakeBack_items (s : State) (lo hi : Nat) : (s.tabTakeBack lo hi).items = s.items := rfl
@[simp] theorem State.tabTakeBack_traceRing (s : State) (lo hi : Nat) : (s.tabTakeBack lo hi).traceRing = s.traceRing := rfl
@[simp] theorem State.tabTakeBack_credits (s : State) (lo hi : Nat) : (s.tabTakeBack lo hi).credits = s.credits := rfl
@[simp] theorem State.tabTakeBack_lineOvf (s : State) (lo hi : Nat) : (s.tabTakeBack lo hi).lineOvf = s.lineOvf := rfl
@[simp] theorem State.tabTakeBack_codes (s : State) (lo hi : Nat) : (s.tabTakeBack lo hi).codes = s.codes := rfl
@[simp] theorem State.tabTakeBack_spares (s : State) (lo hi : Nat) : (s.tabTakeBack lo hi).spares = s.spares := rfl
@[simp] theorem State.tabTakeBack_stream (s : State) (lo hi : Nat) : (s.tabTakeBack lo hi).stream = s.stream := rfl
@[simp] theorem State.tabTakeBack_readData (s : State) (lo hi : Nat) : (s.tabTakeBack lo hi).readData = s.readData := rfl
@[simp] theorem State.tabTakeBack_wb (s : State) (lo hi : Nat) : (s.tabTakeBack lo hi).wb = s.wb := rfl
@[simp] theorem State.tabTakeBack_trg (s : State) (lo hi : Nat) : (s.tabTakeBack lo hi).trg = s.trg := rfl
@[simp] theorem State.tabTakeBack_trgTx (s : State) (lo hi : Nat) : (s.tabTakeBack lo hi).trgTx = s.trgTx := rfl
@[simp] theorem State.tabTakeBack_recs (s : State) (lo hi : Nat) : (s.tabTakeBack lo hi).recs = s.recs := rfl
@[simp] theorem State.tabTakeBack_dens (s : State) (lo hi : Nat) : (s.tabTakeBack lo hi).dens = s.dens := rfl
@[simp] theorem State.tabTakeBack_cores (s : State) (lo hi : Nat) : (s.tabTakeBack lo hi).cores = s.cores := rfl
@[simp] theorem State.tabTakeBack_zooms (s : State) (lo hi : Nat) : (s.tabTakeBack lo hi).zooms = s.zooms := rfl
@[simp] theorem State.tabTakeBack_repairs (s : State) (lo hi : Nat) : (s.tabTakeBack lo hi).repairs = s.repairs := rfl
@[simp] theorem State.tabTakeBack_lead (s : State) (lo hi : Nat) : (s.tabTakeBack lo hi).lead = s.lead := rfl
@[simp] theorem State.tabTakeBack_tdc (s : State) (lo hi : Nat) : (s.tabTakeBack lo hi).tdc = s.tdc := rfl
@[simp] theorem State.tabTakeBack_iv (s : State) (lo hi : Nat) : (s.tabTakeBack lo hi).iv = s.iv := rfl
@[simp] theorem State.tabTakeBack_tdcCheck (s : State) (lo hi : Nat) : (s.tabTakeBack lo hi).tdcCheck = s.tdcCheck := rfl
@[simp] theorem State.tabTakeBack_ddr (s : State) (lo hi : Nat) : (s.tabTakeBack lo hi).ddr = s.ddr := rfl
@[simp] theorem State.tabTakeBack_nfs (s : State) (lo hi : Nat) : (s.tabTakeBack lo hi).nfs = s.nfs := rfl
@[simp] theorem State.tabTakeBack_powerGood (s : State) (lo hi : Nat) : (s.tabTakeBack lo hi).powerGood = s.powerGood := rfl
@[simp] theorem State.tabTakeBack_resetLow (s : State) (lo hi : Nat) : (s.tabTakeBack lo hi).resetLow = s.resetLow := rfl
@[simp] theorem State.tabTakeBack_clk (s : State) (lo hi : Nat) : (s.tabTakeBack lo hi).clk = s.clk := rfl
@[simp] theorem State.tabTakeBack_enabledIn (s : State) (lo hi : Nat) : (s.tabTakeBack lo hi).enabledIn = s.enabledIn := rfl
@[simp] theorem State.tabTakeBack_enableStep (s : State) (lo hi : Nat) : (s.tabTakeBack lo hi).enableStep = s.enableStep := rfl
@[simp] theorem State.tabTakeBack_hk (s : State) (lo hi : Nat) : (s.tabTakeBack lo hi).hk = s.hk := rfl
@[simp] theorem State.tabTakeBack_pairs (s : State) (lo hi : Nat) : (s.tabTakeBack lo hi).pairs = s.pairs := rfl
@[simp] theorem State.tabTakeBack_pwm (s : State) (lo hi : Nat) : (s.tabTakeBack lo hi).pwm = s.pwm := rfl
@[simp] theorem State.tabTakeBack_hkAt (s : State) (lo hi : Nat) : (s.tabTakeBack lo hi).hkAt = s.hkAt := rfl
@[simp] theorem State.tabTakeBack_powered (s : State) (lo hi : Nat) : (s.tabTakeBack lo hi).powered = s.powered := rfl
@[simp] theorem State.tabTakeBack_hotLost (s : State) (lo hi : Nat) : (s.tabTakeBack lo hi).hotLost = s.hotLost := rfl
@[simp] theorem State.tabTakeBack_disp (s : State) (lo hi : Nat) : (s.tabTakeBack lo hi).disp = s.disp := rfl
@[simp] theorem State.tabTakeBack_dma (s : State) (lo hi : Nat) : (s.tabTakeBack lo hi).dma = s.dma := rfl
@[simp] theorem State.tabTakeBack_dmaMem (s : State) (lo hi : Nat) : (s.tabTakeBack lo hi).dmaMem = s.dmaMem := rfl
@[simp] theorem State.tabTakeBack_eth (s : State) (lo hi : Nat) : (s.tabTakeBack lo hi).eth = s.eth := rfl
@[simp] theorem State.tabTakeBack_strs (s : State) (lo hi : Nat) : (s.tabTakeBack lo hi).strs = s.strs := rfl
@[simp] theorem State.tabTakeBack_access (s : State) (lo hi : Nat) : (s.tabTakeBack lo hi).access = s.access := rfl
@[simp] theorem State.tabTakeBack_fcol (s : State) (lo hi : Nat) : (s.tabTakeBack lo hi).fcol = s.fcol := rfl
@[simp] theorem State.tabTakeBack_aliveRuns (s : State) (lo hi : Nat) : (s.tabTakeBack lo hi).aliveRuns = s.aliveRuns := rfl
@[simp] theorem State.tabTakeBack_alive (s : State) (lo hi : Nat) : (s.tabTakeBack lo hi).alive = s.alive := rfl
@[simp] theorem State.tabTakeBack_controlLost (s : State) (lo hi : Nat) : (s.tabTakeBack lo hi).controlLost = s.controlLost := rfl
@[simp] theorem State.tabTakeBack_beatsMissed (s : State) (lo hi : Nat) : (s.tabTakeBack lo hi).beatsMissed = s.beatsMissed := rfl
@[simp] theorem State.tabTakeBack_mbox (s : State) (lo hi : Nat) : (s.tabTakeBack lo hi).mbox = s.mbox := rfl
@[simp] theorem State.tabTakeBack_plans (s : State) (lo hi : Nat) : (s.tabTakeBack lo hi).plans = s.plans := rfl
@[simp] theorem State.tabTakeBack_planCmds (s : State) (lo hi : Nat) : (s.tabTakeBack lo hi).planCmds = s.planCmds := rfl
@[simp] theorem State.tabTakeBack_admissions (s : State) (lo hi : Nat) : (s.tabTakeBack lo hi).admissions = s.admissions := rfl
@[simp] theorem State.tabTakeBack_energy (s : State) (lo hi : Nat) : (s.tabTakeBack lo hi).energy = s.energy := rfl
@[simp] theorem State.tabTakeBack_ledger (s : State) (lo hi : Nat) : (s.tabTakeBack lo hi).ledger = s.ledger := rfl
@[simp] theorem State.tabTakeBack_rails (s : State) (lo hi : Nat) : (s.tabTakeBack lo hi).rails = s.rails := rfl
@[simp] theorem State.tabTakeBack_boot (s : State) (lo hi : Nat) : (s.tabTakeBack lo hi).boot = s.boot := rfl
@[simp] theorem State.tabTakeBack_brokenPipes (s : State) (lo hi : Nat) : (s.tabTakeBack lo hi).brokenPipes = s.brokenPipes := rfl
@[simp] theorem State.tabTakeBack_spi (s : State) (lo hi : Nat) : (s.tabTakeBack lo hi).spi = s.spi := rfl
@[simp] theorem State.tabTakeBack_fuses (s : State) (lo hi : Nat) : (s.tabTakeBack lo hi).fuses = s.fuses := rfl
@[simp] theorem State.tabTakeBack_fusedSvn (s : State) (lo hi : Nat) : (s.tabTakeBack lo hi).fusedSvn = s.fusedSvn := rfl
@[simp] theorem State.tabTakeBack_keyHash (s : State) (lo hi : Nat) : (s.tabTakeBack lo hi).keyHash = s.keyHash := rfl
@[simp] theorem State.tabTakeBack_hashIn (s : State) (lo hi : Nat) : (s.tabTakeBack lo hi).hashIn = s.hashIn := rfl

/-! tabEnforce -/
@[simp] theorem State.tabEnforce_pending (s : State) (lo hi : Nat) : (s.tabEnforce lo hi).pending = s.pending := rfl
@[simp] theorem State.tabEnforce_part (s : State) (lo hi : Nat) : (s.tabEnforce lo hi).part = s.part := rfl
@[simp] theorem State.tabEnforce_suffixE (s : State) (lo hi : Nat) : (s.tabEnforce lo hi).suffixE = s.suffixE := rfl
@[simp] theorem State.tabEnforce_regs (s : State) (lo hi : Nat) : (s.tabEnforce lo hi).regs = s.regs := rfl
@[simp] theorem State.tabEnforce_live (s : State) (lo hi : Nat) : (s.tabEnforce lo hi).live = s.live := rfl
@[simp] theorem State.tabEnforce_tabS (s : State) (lo hi : Nat) : (s.tabEnforce lo hi).tabS = s.tabS := rfl
@[simp] theorem State.tabEnforce_tabL (s : State) (lo hi : Nat) : (s.tabEnforce lo hi).tabL = s.tabL := rfl
@[simp] theorem State.tabEnforce_force (s : State) (lo hi : Nat) : (s.tabEnforce lo hi).force = s.force := rfl
@[simp] theorem State.tabEnforce_locked (s : State) (lo hi : Nat) : (s.tabEnforce lo hi).locked = s.locked := rfl
@[simp] theorem State.tabEnforce_cap (s : State) (lo hi : Nat) : (s.tabEnforce lo hi).cap = s.cap := rfl
@[simp] theorem State.tabEnforce_flight (s : State) (lo hi : Nat) : (s.tabEnforce lo hi).flight = s.flight := rfl
@[simp] theorem State.tabEnforce_marks (s : State) (lo hi : Nat) : (s.tabEnforce lo hi).marks = s.marks := rfl
@[simp] theorem State.tabEnforce_drawn (s : State) (lo hi : Nat) : (s.tabEnforce lo hi).drawn = s.drawn := rfl
@[simp] theorem State.tabEnforce_link (s : State) (lo hi : Nat) : (s.tabEnforce lo hi).link = s.link := rfl
@[simp] theorem State.tabEnforce_acq (s : State) (lo hi : Nat) : (s.tabEnforce lo hi).acq = s.acq := rfl
@[simp] theorem State.tabEnforce_jrx (s : State) (lo hi : Nat) : (s.tabEnforce lo hi).jrx = s.jrx := rfl
@[simp] theorem State.tabEnforce_time (s : State) (lo hi : Nat) : (s.tabEnforce lo hi).time = s.time := rfl
@[simp] theorem State.tabEnforce_items (s : State) (lo hi : Nat) : (s.tabEnforce lo hi).items = s.items := rfl
@[simp] theorem State.tabEnforce_traceRing (s : State) (lo hi : Nat) : (s.tabEnforce lo hi).traceRing = s.traceRing := rfl
@[simp] theorem State.tabEnforce_credits (s : State) (lo hi : Nat) : (s.tabEnforce lo hi).credits = s.credits := rfl
@[simp] theorem State.tabEnforce_lineOvf (s : State) (lo hi : Nat) : (s.tabEnforce lo hi).lineOvf = s.lineOvf := rfl
@[simp] theorem State.tabEnforce_codes (s : State) (lo hi : Nat) : (s.tabEnforce lo hi).codes = s.codes := rfl
@[simp] theorem State.tabEnforce_spares (s : State) (lo hi : Nat) : (s.tabEnforce lo hi).spares = s.spares := rfl
@[simp] theorem State.tabEnforce_stream (s : State) (lo hi : Nat) : (s.tabEnforce lo hi).stream = s.stream := rfl
@[simp] theorem State.tabEnforce_readData (s : State) (lo hi : Nat) : (s.tabEnforce lo hi).readData = s.readData := rfl
@[simp] theorem State.tabEnforce_wb (s : State) (lo hi : Nat) : (s.tabEnforce lo hi).wb = s.wb := rfl
@[simp] theorem State.tabEnforce_trg (s : State) (lo hi : Nat) : (s.tabEnforce lo hi).trg = s.trg := rfl
@[simp] theorem State.tabEnforce_trgTx (s : State) (lo hi : Nat) : (s.tabEnforce lo hi).trgTx = s.trgTx := rfl
@[simp] theorem State.tabEnforce_recs (s : State) (lo hi : Nat) : (s.tabEnforce lo hi).recs = s.recs := rfl
@[simp] theorem State.tabEnforce_dens (s : State) (lo hi : Nat) : (s.tabEnforce lo hi).dens = s.dens := rfl
@[simp] theorem State.tabEnforce_cores (s : State) (lo hi : Nat) : (s.tabEnforce lo hi).cores = s.cores := rfl
@[simp] theorem State.tabEnforce_zooms (s : State) (lo hi : Nat) : (s.tabEnforce lo hi).zooms = s.zooms := rfl
@[simp] theorem State.tabEnforce_repairs (s : State) (lo hi : Nat) : (s.tabEnforce lo hi).repairs = s.repairs := rfl
@[simp] theorem State.tabEnforce_lead (s : State) (lo hi : Nat) : (s.tabEnforce lo hi).lead = s.lead := rfl
@[simp] theorem State.tabEnforce_tdc (s : State) (lo hi : Nat) : (s.tabEnforce lo hi).tdc = s.tdc := rfl
@[simp] theorem State.tabEnforce_iv (s : State) (lo hi : Nat) : (s.tabEnforce lo hi).iv = s.iv := rfl
@[simp] theorem State.tabEnforce_tdcCheck (s : State) (lo hi : Nat) : (s.tabEnforce lo hi).tdcCheck = s.tdcCheck := rfl
@[simp] theorem State.tabEnforce_ddr (s : State) (lo hi : Nat) : (s.tabEnforce lo hi).ddr = s.ddr := rfl
@[simp] theorem State.tabEnforce_nfs (s : State) (lo hi : Nat) : (s.tabEnforce lo hi).nfs = s.nfs := rfl
@[simp] theorem State.tabEnforce_powerGood (s : State) (lo hi : Nat) : (s.tabEnforce lo hi).powerGood = s.powerGood := rfl
@[simp] theorem State.tabEnforce_resetLow (s : State) (lo hi : Nat) : (s.tabEnforce lo hi).resetLow = s.resetLow := rfl
@[simp] theorem State.tabEnforce_clk (s : State) (lo hi : Nat) : (s.tabEnforce lo hi).clk = s.clk := rfl
@[simp] theorem State.tabEnforce_enabledIn (s : State) (lo hi : Nat) : (s.tabEnforce lo hi).enabledIn = s.enabledIn := rfl
@[simp] theorem State.tabEnforce_enableStep (s : State) (lo hi : Nat) : (s.tabEnforce lo hi).enableStep = s.enableStep := rfl
@[simp] theorem State.tabEnforce_hk (s : State) (lo hi : Nat) : (s.tabEnforce lo hi).hk = s.hk := rfl
@[simp] theorem State.tabEnforce_pairs (s : State) (lo hi : Nat) : (s.tabEnforce lo hi).pairs = s.pairs := rfl
@[simp] theorem State.tabEnforce_pwm (s : State) (lo hi : Nat) : (s.tabEnforce lo hi).pwm = s.pwm := rfl
@[simp] theorem State.tabEnforce_hkAt (s : State) (lo hi : Nat) : (s.tabEnforce lo hi).hkAt = s.hkAt := rfl
@[simp] theorem State.tabEnforce_powered (s : State) (lo hi : Nat) : (s.tabEnforce lo hi).powered = s.powered := rfl
@[simp] theorem State.tabEnforce_hotLost (s : State) (lo hi : Nat) : (s.tabEnforce lo hi).hotLost = s.hotLost := rfl
@[simp] theorem State.tabEnforce_disp (s : State) (lo hi : Nat) : (s.tabEnforce lo hi).disp = s.disp := rfl
@[simp] theorem State.tabEnforce_dma (s : State) (lo hi : Nat) : (s.tabEnforce lo hi).dma = s.dma := rfl
@[simp] theorem State.tabEnforce_dmaMem (s : State) (lo hi : Nat) : (s.tabEnforce lo hi).dmaMem = s.dmaMem := rfl
@[simp] theorem State.tabEnforce_eth (s : State) (lo hi : Nat) : (s.tabEnforce lo hi).eth = s.eth := rfl
@[simp] theorem State.tabEnforce_strs (s : State) (lo hi : Nat) : (s.tabEnforce lo hi).strs = s.strs := rfl
@[simp] theorem State.tabEnforce_access (s : State) (lo hi : Nat) : (s.tabEnforce lo hi).access = s.access := rfl
@[simp] theorem State.tabEnforce_fcol (s : State) (lo hi : Nat) : (s.tabEnforce lo hi).fcol = s.fcol := rfl
@[simp] theorem State.tabEnforce_aliveRuns (s : State) (lo hi : Nat) : (s.tabEnforce lo hi).aliveRuns = s.aliveRuns := rfl
@[simp] theorem State.tabEnforce_alive (s : State) (lo hi : Nat) : (s.tabEnforce lo hi).alive = s.alive := rfl
@[simp] theorem State.tabEnforce_controlLost (s : State) (lo hi : Nat) : (s.tabEnforce lo hi).controlLost = s.controlLost := rfl
@[simp] theorem State.tabEnforce_beatsMissed (s : State) (lo hi : Nat) : (s.tabEnforce lo hi).beatsMissed = s.beatsMissed := rfl
@[simp] theorem State.tabEnforce_mbox (s : State) (lo hi : Nat) : (s.tabEnforce lo hi).mbox = s.mbox := rfl
@[simp] theorem State.tabEnforce_plans (s : State) (lo hi : Nat) : (s.tabEnforce lo hi).plans = s.plans := rfl
@[simp] theorem State.tabEnforce_planCmds (s : State) (lo hi : Nat) : (s.tabEnforce lo hi).planCmds = s.planCmds := rfl
@[simp] theorem State.tabEnforce_admissions (s : State) (lo hi : Nat) : (s.tabEnforce lo hi).admissions = s.admissions := rfl
@[simp] theorem State.tabEnforce_energy (s : State) (lo hi : Nat) : (s.tabEnforce lo hi).energy = s.energy := rfl
@[simp] theorem State.tabEnforce_ledger (s : State) (lo hi : Nat) : (s.tabEnforce lo hi).ledger = s.ledger := rfl
@[simp] theorem State.tabEnforce_rails (s : State) (lo hi : Nat) : (s.tabEnforce lo hi).rails = s.rails := rfl
@[simp] theorem State.tabEnforce_boot (s : State) (lo hi : Nat) : (s.tabEnforce lo hi).boot = s.boot := rfl
@[simp] theorem State.tabEnforce_brokenPipes (s : State) (lo hi : Nat) : (s.tabEnforce lo hi).brokenPipes = s.brokenPipes := rfl
@[simp] theorem State.tabEnforce_spi (s : State) (lo hi : Nat) : (s.tabEnforce lo hi).spi = s.spi := rfl
@[simp] theorem State.tabEnforce_fuses (s : State) (lo hi : Nat) : (s.tabEnforce lo hi).fuses = s.fuses := rfl
@[simp] theorem State.tabEnforce_fusedSvn (s : State) (lo hi : Nat) : (s.tabEnforce lo hi).fusedSvn = s.fusedSvn := rfl
@[simp] theorem State.tabEnforce_keyHash (s : State) (lo hi : Nat) : (s.tabEnforce lo hi).keyHash = s.keyHash := rfl
@[simp] theorem State.tabEnforce_hashIn (s : State) (lo hi : Nat) : (s.tabEnforce lo hi).hashIn = s.hashIn := rfl

/-! violation -/
@[simp] theorem State.violation_pending (s : State) (h addr : Nat) : (s.violation h addr).pending = s.pending := rfl
@[simp] theorem State.violation_part (s : State) (h addr : Nat) : (s.violation h addr).part = s.part := rfl
@[simp] theorem State.violation_suffixE (s : State) (h addr : Nat) : (s.violation h addr).suffixE = s.suffixE := rfl
@[simp] theorem State.violation_live (s : State) (h addr : Nat) : (s.violation h addr).live = s.live := rfl
@[simp] theorem State.violation_tabS (s : State) (h addr : Nat) : (s.violation h addr).tabS = s.tabS := rfl
@[simp] theorem State.violation_tabL (s : State) (h addr : Nat) : (s.violation h addr).tabL = s.tabL := rfl
@[simp] theorem State.violation_force (s : State) (h addr : Nat) : (s.violation h addr).force = s.force := rfl
@[simp] theorem State.violation_tabF (s : State) (h addr : Nat) : (s.violation h addr).tabF = s.tabF := rfl
@[simp] theorem State.violation_locked (s : State) (h addr : Nat) : (s.violation h addr).locked = s.locked := rfl
@[simp] theorem State.violation_cap (s : State) (h addr : Nat) : (s.violation h addr).cap = s.cap := rfl
@[simp] theorem State.violation_marks (s : State) (h addr : Nat) : (s.violation h addr).marks = s.marks := rfl
@[simp] theorem State.violation_drawn (s : State) (h addr : Nat) : (s.violation h addr).drawn = s.drawn := rfl
@[simp] theorem State.violation_link (s : State) (h addr : Nat) : (s.violation h addr).link = s.link := rfl
@[simp] theorem State.violation_acq (s : State) (h addr : Nat) : (s.violation h addr).acq = s.acq := rfl
@[simp] theorem State.violation_jrx (s : State) (h addr : Nat) : (s.violation h addr).jrx = s.jrx := rfl
@[simp] theorem State.violation_time (s : State) (h addr : Nat) : (s.violation h addr).time = s.time := rfl
@[simp] theorem State.violation_items (s : State) (h addr : Nat) : (s.violation h addr).items = s.items := rfl
@[simp] theorem State.violation_traceRing (s : State) (h addr : Nat) : (s.violation h addr).traceRing = s.traceRing := rfl
@[simp] theorem State.violation_credits (s : State) (h addr : Nat) : (s.violation h addr).credits = s.credits := rfl
@[simp] theorem State.violation_lineOvf (s : State) (h addr : Nat) : (s.violation h addr).lineOvf = s.lineOvf := rfl
@[simp] theorem State.violation_codes (s : State) (h addr : Nat) : (s.violation h addr).codes = s.codes := rfl
@[simp] theorem State.violation_spares (s : State) (h addr : Nat) : (s.violation h addr).spares = s.spares := rfl
@[simp] theorem State.violation_stream (s : State) (h addr : Nat) : (s.violation h addr).stream = s.stream := rfl
@[simp] theorem State.violation_readData (s : State) (h addr : Nat) : (s.violation h addr).readData = s.readData := rfl
@[simp] theorem State.violation_wb (s : State) (h addr : Nat) : (s.violation h addr).wb = s.wb := rfl
@[simp] theorem State.violation_trg (s : State) (h addr : Nat) : (s.violation h addr).trg = s.trg := rfl
@[simp] theorem State.violation_trgTx (s : State) (h addr : Nat) : (s.violation h addr).trgTx = s.trgTx := rfl
@[simp] theorem State.violation_recs (s : State) (h addr : Nat) : (s.violation h addr).recs = s.recs := rfl
@[simp] theorem State.violation_dens (s : State) (h addr : Nat) : (s.violation h addr).dens = s.dens := rfl
@[simp] theorem State.violation_cores (s : State) (h addr : Nat) : (s.violation h addr).cores = s.cores := rfl
@[simp] theorem State.violation_zooms (s : State) (h addr : Nat) : (s.violation h addr).zooms = s.zooms := rfl
@[simp] theorem State.violation_repairs (s : State) (h addr : Nat) : (s.violation h addr).repairs = s.repairs := rfl
@[simp] theorem State.violation_lead (s : State) (h addr : Nat) : (s.violation h addr).lead = s.lead := rfl
@[simp] theorem State.violation_tdc (s : State) (h addr : Nat) : (s.violation h addr).tdc = s.tdc := rfl
@[simp] theorem State.violation_iv (s : State) (h addr : Nat) : (s.violation h addr).iv = s.iv := rfl
@[simp] theorem State.violation_tdcCheck (s : State) (h addr : Nat) : (s.violation h addr).tdcCheck = s.tdcCheck := rfl
@[simp] theorem State.violation_ddr (s : State) (h addr : Nat) : (s.violation h addr).ddr = s.ddr := rfl
@[simp] theorem State.violation_nfs (s : State) (h addr : Nat) : (s.violation h addr).nfs = s.nfs := rfl
@[simp] theorem State.violation_powerGood (s : State) (h addr : Nat) : (s.violation h addr).powerGood = s.powerGood := rfl
@[simp] theorem State.violation_resetLow (s : State) (h addr : Nat) : (s.violation h addr).resetLow = s.resetLow := rfl
@[simp] theorem State.violation_clk (s : State) (h addr : Nat) : (s.violation h addr).clk = s.clk := rfl
@[simp] theorem State.violation_enabledIn (s : State) (h addr : Nat) : (s.violation h addr).enabledIn = s.enabledIn := rfl
@[simp] theorem State.violation_enableStep (s : State) (h addr : Nat) : (s.violation h addr).enableStep = s.enableStep := rfl
@[simp] theorem State.violation_hk (s : State) (h addr : Nat) : (s.violation h addr).hk = s.hk := rfl
@[simp] theorem State.violation_pairs (s : State) (h addr : Nat) : (s.violation h addr).pairs = s.pairs := rfl
@[simp] theorem State.violation_pwm (s : State) (h addr : Nat) : (s.violation h addr).pwm = s.pwm := rfl
@[simp] theorem State.violation_hkAt (s : State) (h addr : Nat) : (s.violation h addr).hkAt = s.hkAt := rfl
@[simp] theorem State.violation_powered (s : State) (h addr : Nat) : (s.violation h addr).powered = s.powered := rfl
@[simp] theorem State.violation_hotLost (s : State) (h addr : Nat) : (s.violation h addr).hotLost = s.hotLost := rfl
@[simp] theorem State.violation_disp (s : State) (h addr : Nat) : (s.violation h addr).disp = s.disp := rfl
@[simp] theorem State.violation_dma (s : State) (h addr : Nat) : (s.violation h addr).dma = s.dma := rfl
@[simp] theorem State.violation_dmaMem (s : State) (h addr : Nat) : (s.violation h addr).dmaMem = s.dmaMem := rfl
@[simp] theorem State.violation_eth (s : State) (h addr : Nat) : (s.violation h addr).eth = s.eth := rfl
@[simp] theorem State.violation_strs (s : State) (h addr : Nat) : (s.violation h addr).strs = s.strs := rfl
@[simp] theorem State.violation_access (s : State) (h addr : Nat) : (s.violation h addr).access = s.access := rfl
@[simp] theorem State.violation_fcol (s : State) (h addr : Nat) : (s.violation h addr).fcol = s.fcol := rfl
@[simp] theorem State.violation_aliveRuns (s : State) (h addr : Nat) : (s.violation h addr).aliveRuns = s.aliveRuns := rfl
@[simp] theorem State.violation_alive (s : State) (h addr : Nat) : (s.violation h addr).alive = s.alive := rfl
@[simp] theorem State.violation_controlLost (s : State) (h addr : Nat) : (s.violation h addr).controlLost = s.controlLost := rfl
@[simp] theorem State.violation_beatsMissed (s : State) (h addr : Nat) : (s.violation h addr).beatsMissed = s.beatsMissed := rfl
@[simp] theorem State.violation_mbox (s : State) (h addr : Nat) : (s.violation h addr).mbox = s.mbox := rfl
@[simp] theorem State.violation_plans (s : State) (h addr : Nat) : (s.violation h addr).plans = s.plans := rfl
@[simp] theorem State.violation_planCmds (s : State) (h addr : Nat) : (s.violation h addr).planCmds = s.planCmds := rfl
@[simp] theorem State.violation_admissions (s : State) (h addr : Nat) : (s.violation h addr).admissions = s.admissions := rfl
@[simp] theorem State.violation_energy (s : State) (h addr : Nat) : (s.violation h addr).energy = s.energy := rfl
@[simp] theorem State.violation_ledger (s : State) (h addr : Nat) : (s.violation h addr).ledger = s.ledger := rfl
@[simp] theorem State.violation_rails (s : State) (h addr : Nat) : (s.violation h addr).rails = s.rails := rfl
@[simp] theorem State.violation_boot (s : State) (h addr : Nat) : (s.violation h addr).boot = s.boot := rfl
@[simp] theorem State.violation_brokenPipes (s : State) (h addr : Nat) : (s.violation h addr).brokenPipes = s.brokenPipes := rfl
@[simp] theorem State.violation_spi (s : State) (h addr : Nat) : (s.violation h addr).spi = s.spi := rfl
@[simp] theorem State.violation_fuses (s : State) (h addr : Nat) : (s.violation h addr).fuses = s.fuses := rfl
@[simp] theorem State.violation_fusedSvn (s : State) (h addr : Nat) : (s.violation h addr).fusedSvn = s.fusedSvn := rfl
@[simp] theorem State.violation_keyHash (s : State) (h addr : Nat) : (s.violation h addr).keyHash = s.keyHash := rfl
@[simp] theorem State.violation_hashIn (s : State) (h addr : Nat) : (s.violation h addr).hashIn = s.hashIn := rfl

/-! setRaw -/
@[simp] theorem State.setRaw_pending (s : State) (h a : Nat) (v : Byte) : (s.setRaw h a v).pending = s.pending := rfl
@[simp] theorem State.setRaw_part (s : State) (h a : Nat) (v : Byte) : (s.setRaw h a v).part = s.part := rfl
@[simp] theorem State.setRaw_suffixE (s : State) (h a : Nat) (v : Byte) : (s.setRaw h a v).suffixE = s.suffixE := rfl
@[simp] theorem State.setRaw_regs (s : State) (h a : Nat) (v : Byte) : (s.setRaw h a v).regs = s.regs := rfl
@[simp] theorem State.setRaw_live (s : State) (h a : Nat) (v : Byte) : (s.setRaw h a v).live = s.live := rfl
@[simp] theorem State.setRaw_tabS (s : State) (h a : Nat) (v : Byte) : (s.setRaw h a v).tabS = s.tabS := rfl
@[simp] theorem State.setRaw_tabL (s : State) (h a : Nat) (v : Byte) : (s.setRaw h a v).tabL = s.tabL := rfl
@[simp] theorem State.setRaw_force (s : State) (h a : Nat) (v : Byte) : (s.setRaw h a v).force = s.force := rfl
@[simp] theorem State.setRaw_tabF (s : State) (h a : Nat) (v : Byte) : (s.setRaw h a v).tabF = s.tabF := rfl
@[simp] theorem State.setRaw_locked (s : State) (h a : Nat) (v : Byte) : (s.setRaw h a v).locked = s.locked := rfl
@[simp] theorem State.setRaw_flight (s : State) (h a : Nat) (v : Byte) : (s.setRaw h a v).flight = s.flight := rfl
@[simp] theorem State.setRaw_marks (s : State) (h a : Nat) (v : Byte) : (s.setRaw h a v).marks = s.marks := rfl
@[simp] theorem State.setRaw_drawn (s : State) (h a : Nat) (v : Byte) : (s.setRaw h a v).drawn = s.drawn := rfl
@[simp] theorem State.setRaw_link (s : State) (h a : Nat) (v : Byte) : (s.setRaw h a v).link = s.link := rfl
@[simp] theorem State.setRaw_acq (s : State) (h a : Nat) (v : Byte) : (s.setRaw h a v).acq = s.acq := rfl
@[simp] theorem State.setRaw_jrx (s : State) (h a : Nat) (v : Byte) : (s.setRaw h a v).jrx = s.jrx := rfl
@[simp] theorem State.setRaw_time (s : State) (h a : Nat) (v : Byte) : (s.setRaw h a v).time = s.time := rfl
@[simp] theorem State.setRaw_items (s : State) (h a : Nat) (v : Byte) : (s.setRaw h a v).items = s.items := rfl
@[simp] theorem State.setRaw_traceRing (s : State) (h a : Nat) (v : Byte) : (s.setRaw h a v).traceRing = s.traceRing := rfl
@[simp] theorem State.setRaw_credits (s : State) (h a : Nat) (v : Byte) : (s.setRaw h a v).credits = s.credits := rfl
@[simp] theorem State.setRaw_lineOvf (s : State) (h a : Nat) (v : Byte) : (s.setRaw h a v).lineOvf = s.lineOvf := rfl
@[simp] theorem State.setRaw_codes (s : State) (h a : Nat) (v : Byte) : (s.setRaw h a v).codes = s.codes := rfl
@[simp] theorem State.setRaw_spares (s : State) (h a : Nat) (v : Byte) : (s.setRaw h a v).spares = s.spares := rfl
@[simp] theorem State.setRaw_stream (s : State) (h a : Nat) (v : Byte) : (s.setRaw h a v).stream = s.stream := rfl
@[simp] theorem State.setRaw_readData (s : State) (h a : Nat) (v : Byte) : (s.setRaw h a v).readData = s.readData := rfl
@[simp] theorem State.setRaw_wb (s : State) (h a : Nat) (v : Byte) : (s.setRaw h a v).wb = s.wb := rfl
@[simp] theorem State.setRaw_trg (s : State) (h a : Nat) (v : Byte) : (s.setRaw h a v).trg = s.trg := rfl
@[simp] theorem State.setRaw_trgTx (s : State) (h a : Nat) (v : Byte) : (s.setRaw h a v).trgTx = s.trgTx := rfl
@[simp] theorem State.setRaw_recs (s : State) (h a : Nat) (v : Byte) : (s.setRaw h a v).recs = s.recs := rfl
@[simp] theorem State.setRaw_dens (s : State) (h a : Nat) (v : Byte) : (s.setRaw h a v).dens = s.dens := rfl
@[simp] theorem State.setRaw_cores (s : State) (h a : Nat) (v : Byte) : (s.setRaw h a v).cores = s.cores := rfl
@[simp] theorem State.setRaw_zooms (s : State) (h a : Nat) (v : Byte) : (s.setRaw h a v).zooms = s.zooms := rfl
@[simp] theorem State.setRaw_repairs (s : State) (h a : Nat) (v : Byte) : (s.setRaw h a v).repairs = s.repairs := rfl
@[simp] theorem State.setRaw_lead (s : State) (h a : Nat) (v : Byte) : (s.setRaw h a v).lead = s.lead := rfl
@[simp] theorem State.setRaw_tdc (s : State) (h a : Nat) (v : Byte) : (s.setRaw h a v).tdc = s.tdc := rfl
@[simp] theorem State.setRaw_iv (s : State) (h a : Nat) (v : Byte) : (s.setRaw h a v).iv = s.iv := rfl
@[simp] theorem State.setRaw_tdcCheck (s : State) (h a : Nat) (v : Byte) : (s.setRaw h a v).tdcCheck = s.tdcCheck := rfl
@[simp] theorem State.setRaw_ddr (s : State) (h a : Nat) (v : Byte) : (s.setRaw h a v).ddr = s.ddr := rfl
@[simp] theorem State.setRaw_nfs (s : State) (h a : Nat) (v : Byte) : (s.setRaw h a v).nfs = s.nfs := rfl
@[simp] theorem State.setRaw_powerGood (s : State) (h a : Nat) (v : Byte) : (s.setRaw h a v).powerGood = s.powerGood := rfl
@[simp] theorem State.setRaw_resetLow (s : State) (h a : Nat) (v : Byte) : (s.setRaw h a v).resetLow = s.resetLow := rfl
@[simp] theorem State.setRaw_clk (s : State) (h a : Nat) (v : Byte) : (s.setRaw h a v).clk = s.clk := rfl
@[simp] theorem State.setRaw_enabledIn (s : State) (h a : Nat) (v : Byte) : (s.setRaw h a v).enabledIn = s.enabledIn := rfl
@[simp] theorem State.setRaw_enableStep (s : State) (h a : Nat) (v : Byte) : (s.setRaw h a v).enableStep = s.enableStep := rfl
@[simp] theorem State.setRaw_hk (s : State) (h a : Nat) (v : Byte) : (s.setRaw h a v).hk = s.hk := rfl
@[simp] theorem State.setRaw_pairs (s : State) (h a : Nat) (v : Byte) : (s.setRaw h a v).pairs = s.pairs := rfl
@[simp] theorem State.setRaw_pwm (s : State) (h a : Nat) (v : Byte) : (s.setRaw h a v).pwm = s.pwm := rfl
@[simp] theorem State.setRaw_hkAt (s : State) (h a : Nat) (v : Byte) : (s.setRaw h a v).hkAt = s.hkAt := rfl
@[simp] theorem State.setRaw_powered (s : State) (h a : Nat) (v : Byte) : (s.setRaw h a v).powered = s.powered := rfl
@[simp] theorem State.setRaw_hotLost (s : State) (h a : Nat) (v : Byte) : (s.setRaw h a v).hotLost = s.hotLost := rfl
@[simp] theorem State.setRaw_disp (s : State) (h a : Nat) (v : Byte) : (s.setRaw h a v).disp = s.disp := rfl
@[simp] theorem State.setRaw_dma (s : State) (h a : Nat) (v : Byte) : (s.setRaw h a v).dma = s.dma := rfl
@[simp] theorem State.setRaw_dmaMem (s : State) (h a : Nat) (v : Byte) : (s.setRaw h a v).dmaMem = s.dmaMem := rfl
@[simp] theorem State.setRaw_eth (s : State) (h a : Nat) (v : Byte) : (s.setRaw h a v).eth = s.eth := rfl
@[simp] theorem State.setRaw_strs (s : State) (h a : Nat) (v : Byte) : (s.setRaw h a v).strs = s.strs := rfl
@[simp] theorem State.setRaw_access (s : State) (h a : Nat) (v : Byte) : (s.setRaw h a v).access = s.access := rfl
@[simp] theorem State.setRaw_fcol (s : State) (h a : Nat) (v : Byte) : (s.setRaw h a v).fcol = s.fcol := rfl
@[simp] theorem State.setRaw_aliveRuns (s : State) (h a : Nat) (v : Byte) : (s.setRaw h a v).aliveRuns = s.aliveRuns := rfl
@[simp] theorem State.setRaw_alive (s : State) (h a : Nat) (v : Byte) : (s.setRaw h a v).alive = s.alive := rfl
@[simp] theorem State.setRaw_controlLost (s : State) (h a : Nat) (v : Byte) : (s.setRaw h a v).controlLost = s.controlLost := rfl
@[simp] theorem State.setRaw_beatsMissed (s : State) (h a : Nat) (v : Byte) : (s.setRaw h a v).beatsMissed = s.beatsMissed := rfl
@[simp] theorem State.setRaw_mbox (s : State) (h a : Nat) (v : Byte) : (s.setRaw h a v).mbox = s.mbox := rfl
@[simp] theorem State.setRaw_plans (s : State) (h a : Nat) (v : Byte) : (s.setRaw h a v).plans = s.plans := rfl
@[simp] theorem State.setRaw_planCmds (s : State) (h a : Nat) (v : Byte) : (s.setRaw h a v).planCmds = s.planCmds := rfl
@[simp] theorem State.setRaw_admissions (s : State) (h a : Nat) (v : Byte) : (s.setRaw h a v).admissions = s.admissions := rfl
@[simp] theorem State.setRaw_energy (s : State) (h a : Nat) (v : Byte) : (s.setRaw h a v).energy = s.energy := rfl
@[simp] theorem State.setRaw_ledger (s : State) (h a : Nat) (v : Byte) : (s.setRaw h a v).ledger = s.ledger := rfl
@[simp] theorem State.setRaw_rails (s : State) (h a : Nat) (v : Byte) : (s.setRaw h a v).rails = s.rails := rfl
@[simp] theorem State.setRaw_boot (s : State) (h a : Nat) (v : Byte) : (s.setRaw h a v).boot = s.boot := rfl
@[simp] theorem State.setRaw_brokenPipes (s : State) (h a : Nat) (v : Byte) : (s.setRaw h a v).brokenPipes = s.brokenPipes := rfl
@[simp] theorem State.setRaw_spi (s : State) (h a : Nat) (v : Byte) : (s.setRaw h a v).spi = s.spi := rfl
@[simp] theorem State.setRaw_fuses (s : State) (h a : Nat) (v : Byte) : (s.setRaw h a v).fuses = s.fuses := rfl
@[simp] theorem State.setRaw_fusedSvn (s : State) (h a : Nat) (v : Byte) : (s.setRaw h a v).fusedSvn = s.fusedSvn := rfl
@[simp] theorem State.setRaw_keyHash (s : State) (h a : Nat) (v : Byte) : (s.setRaw h a v).keyHash = s.keyHash := rfl
@[simp] theorem State.setRaw_hashIn (s : State) (h a : Nat) (v : Byte) : (s.setRaw h a v).hashIn = s.hashIn := rfl

/-! putRaw -/
@[simp] theorem State.putRaw_pending (s : State) (h a : Nat) (l : List Byte) : (s.putRaw h a l).pending = s.pending := rfl
@[simp] theorem State.putRaw_part (s : State) (h a : Nat) (l : List Byte) : (s.putRaw h a l).part = s.part := rfl
@[simp] theorem State.putRaw_suffixE (s : State) (h a : Nat) (l : List Byte) : (s.putRaw h a l).suffixE = s.suffixE := rfl
@[simp] theorem State.putRaw_regs (s : State) (h a : Nat) (l : List Byte) : (s.putRaw h a l).regs = s.regs := rfl
@[simp] theorem State.putRaw_live (s : State) (h a : Nat) (l : List Byte) : (s.putRaw h a l).live = s.live := rfl
@[simp] theorem State.putRaw_tabS (s : State) (h a : Nat) (l : List Byte) : (s.putRaw h a l).tabS = s.tabS := rfl
@[simp] theorem State.putRaw_tabL (s : State) (h a : Nat) (l : List Byte) : (s.putRaw h a l).tabL = s.tabL := rfl
@[simp] theorem State.putRaw_force (s : State) (h a : Nat) (l : List Byte) : (s.putRaw h a l).force = s.force := rfl
@[simp] theorem State.putRaw_tabF (s : State) (h a : Nat) (l : List Byte) : (s.putRaw h a l).tabF = s.tabF := rfl
@[simp] theorem State.putRaw_locked (s : State) (h a : Nat) (l : List Byte) : (s.putRaw h a l).locked = s.locked := rfl
@[simp] theorem State.putRaw_flight (s : State) (h a : Nat) (l : List Byte) : (s.putRaw h a l).flight = s.flight := rfl
@[simp] theorem State.putRaw_marks (s : State) (h a : Nat) (l : List Byte) : (s.putRaw h a l).marks = s.marks := rfl
@[simp] theorem State.putRaw_drawn (s : State) (h a : Nat) (l : List Byte) : (s.putRaw h a l).drawn = s.drawn := rfl
@[simp] theorem State.putRaw_link (s : State) (h a : Nat) (l : List Byte) : (s.putRaw h a l).link = s.link := rfl
@[simp] theorem State.putRaw_acq (s : State) (h a : Nat) (l : List Byte) : (s.putRaw h a l).acq = s.acq := rfl
@[simp] theorem State.putRaw_jrx (s : State) (h a : Nat) (l : List Byte) : (s.putRaw h a l).jrx = s.jrx := rfl
@[simp] theorem State.putRaw_time (s : State) (h a : Nat) (l : List Byte) : (s.putRaw h a l).time = s.time := rfl
@[simp] theorem State.putRaw_items (s : State) (h a : Nat) (l : List Byte) : (s.putRaw h a l).items = s.items := rfl
@[simp] theorem State.putRaw_traceRing (s : State) (h a : Nat) (l : List Byte) : (s.putRaw h a l).traceRing = s.traceRing := rfl
@[simp] theorem State.putRaw_credits (s : State) (h a : Nat) (l : List Byte) : (s.putRaw h a l).credits = s.credits := rfl
@[simp] theorem State.putRaw_lineOvf (s : State) (h a : Nat) (l : List Byte) : (s.putRaw h a l).lineOvf = s.lineOvf := rfl
@[simp] theorem State.putRaw_codes (s : State) (h a : Nat) (l : List Byte) : (s.putRaw h a l).codes = s.codes := rfl
@[simp] theorem State.putRaw_spares (s : State) (h a : Nat) (l : List Byte) : (s.putRaw h a l).spares = s.spares := rfl
@[simp] theorem State.putRaw_stream (s : State) (h a : Nat) (l : List Byte) : (s.putRaw h a l).stream = s.stream := rfl
@[simp] theorem State.putRaw_readData (s : State) (h a : Nat) (l : List Byte) : (s.putRaw h a l).readData = s.readData := rfl
@[simp] theorem State.putRaw_wb (s : State) (h a : Nat) (l : List Byte) : (s.putRaw h a l).wb = s.wb := rfl
@[simp] theorem State.putRaw_trg (s : State) (h a : Nat) (l : List Byte) : (s.putRaw h a l).trg = s.trg := rfl
@[simp] theorem State.putRaw_trgTx (s : State) (h a : Nat) (l : List Byte) : (s.putRaw h a l).trgTx = s.trgTx := rfl
@[simp] theorem State.putRaw_recs (s : State) (h a : Nat) (l : List Byte) : (s.putRaw h a l).recs = s.recs := rfl
@[simp] theorem State.putRaw_dens (s : State) (h a : Nat) (l : List Byte) : (s.putRaw h a l).dens = s.dens := rfl
@[simp] theorem State.putRaw_cores (s : State) (h a : Nat) (l : List Byte) : (s.putRaw h a l).cores = s.cores := rfl
@[simp] theorem State.putRaw_zooms (s : State) (h a : Nat) (l : List Byte) : (s.putRaw h a l).zooms = s.zooms := rfl
@[simp] theorem State.putRaw_repairs (s : State) (h a : Nat) (l : List Byte) : (s.putRaw h a l).repairs = s.repairs := rfl
@[simp] theorem State.putRaw_lead (s : State) (h a : Nat) (l : List Byte) : (s.putRaw h a l).lead = s.lead := rfl
@[simp] theorem State.putRaw_tdc (s : State) (h a : Nat) (l : List Byte) : (s.putRaw h a l).tdc = s.tdc := rfl
@[simp] theorem State.putRaw_iv (s : State) (h a : Nat) (l : List Byte) : (s.putRaw h a l).iv = s.iv := rfl
@[simp] theorem State.putRaw_tdcCheck (s : State) (h a : Nat) (l : List Byte) : (s.putRaw h a l).tdcCheck = s.tdcCheck := rfl
@[simp] theorem State.putRaw_ddr (s : State) (h a : Nat) (l : List Byte) : (s.putRaw h a l).ddr = s.ddr := rfl
@[simp] theorem State.putRaw_nfs (s : State) (h a : Nat) (l : List Byte) : (s.putRaw h a l).nfs = s.nfs := rfl
@[simp] theorem State.putRaw_powerGood (s : State) (h a : Nat) (l : List Byte) : (s.putRaw h a l).powerGood = s.powerGood := rfl
@[simp] theorem State.putRaw_resetLow (s : State) (h a : Nat) (l : List Byte) : (s.putRaw h a l).resetLow = s.resetLow := rfl
@[simp] theorem State.putRaw_clk (s : State) (h a : Nat) (l : List Byte) : (s.putRaw h a l).clk = s.clk := rfl
@[simp] theorem State.putRaw_enabledIn (s : State) (h a : Nat) (l : List Byte) : (s.putRaw h a l).enabledIn = s.enabledIn := rfl
@[simp] theorem State.putRaw_enableStep (s : State) (h a : Nat) (l : List Byte) : (s.putRaw h a l).enableStep = s.enableStep := rfl
@[simp] theorem State.putRaw_hk (s : State) (h a : Nat) (l : List Byte) : (s.putRaw h a l).hk = s.hk := rfl
@[simp] theorem State.putRaw_pairs (s : State) (h a : Nat) (l : List Byte) : (s.putRaw h a l).pairs = s.pairs := rfl
@[simp] theorem State.putRaw_pwm (s : State) (h a : Nat) (l : List Byte) : (s.putRaw h a l).pwm = s.pwm := rfl
@[simp] theorem State.putRaw_hkAt (s : State) (h a : Nat) (l : List Byte) : (s.putRaw h a l).hkAt = s.hkAt := rfl
@[simp] theorem State.putRaw_powered (s : State) (h a : Nat) (l : List Byte) : (s.putRaw h a l).powered = s.powered := rfl
@[simp] theorem State.putRaw_hotLost (s : State) (h a : Nat) (l : List Byte) : (s.putRaw h a l).hotLost = s.hotLost := rfl
@[simp] theorem State.putRaw_disp (s : State) (h a : Nat) (l : List Byte) : (s.putRaw h a l).disp = s.disp := rfl
@[simp] theorem State.putRaw_dma (s : State) (h a : Nat) (l : List Byte) : (s.putRaw h a l).dma = s.dma := rfl
@[simp] theorem State.putRaw_dmaMem (s : State) (h a : Nat) (l : List Byte) : (s.putRaw h a l).dmaMem = s.dmaMem := rfl
@[simp] theorem State.putRaw_eth (s : State) (h a : Nat) (l : List Byte) : (s.putRaw h a l).eth = s.eth := rfl
@[simp] theorem State.putRaw_strs (s : State) (h a : Nat) (l : List Byte) : (s.putRaw h a l).strs = s.strs := rfl
@[simp] theorem State.putRaw_access (s : State) (h a : Nat) (l : List Byte) : (s.putRaw h a l).access = s.access := rfl
@[simp] theorem State.putRaw_fcol (s : State) (h a : Nat) (l : List Byte) : (s.putRaw h a l).fcol = s.fcol := rfl
@[simp] theorem State.putRaw_aliveRuns (s : State) (h a : Nat) (l : List Byte) : (s.putRaw h a l).aliveRuns = s.aliveRuns := rfl
@[simp] theorem State.putRaw_alive (s : State) (h a : Nat) (l : List Byte) : (s.putRaw h a l).alive = s.alive := rfl
@[simp] theorem State.putRaw_controlLost (s : State) (h a : Nat) (l : List Byte) : (s.putRaw h a l).controlLost = s.controlLost := rfl
@[simp] theorem State.putRaw_beatsMissed (s : State) (h a : Nat) (l : List Byte) : (s.putRaw h a l).beatsMissed = s.beatsMissed := rfl
@[simp] theorem State.putRaw_mbox (s : State) (h a : Nat) (l : List Byte) : (s.putRaw h a l).mbox = s.mbox := rfl
@[simp] theorem State.putRaw_plans (s : State) (h a : Nat) (l : List Byte) : (s.putRaw h a l).plans = s.plans := rfl
@[simp] theorem State.putRaw_planCmds (s : State) (h a : Nat) (l : List Byte) : (s.putRaw h a l).planCmds = s.planCmds := rfl
@[simp] theorem State.putRaw_admissions (s : State) (h a : Nat) (l : List Byte) : (s.putRaw h a l).admissions = s.admissions := rfl
@[simp] theorem State.putRaw_energy (s : State) (h a : Nat) (l : List Byte) : (s.putRaw h a l).energy = s.energy := rfl
@[simp] theorem State.putRaw_ledger (s : State) (h a : Nat) (l : List Byte) : (s.putRaw h a l).ledger = s.ledger := rfl
@[simp] theorem State.putRaw_rails (s : State) (h a : Nat) (l : List Byte) : (s.putRaw h a l).rails = s.rails := rfl
@[simp] theorem State.putRaw_boot (s : State) (h a : Nat) (l : List Byte) : (s.putRaw h a l).boot = s.boot := rfl
@[simp] theorem State.putRaw_brokenPipes (s : State) (h a : Nat) (l : List Byte) : (s.putRaw h a l).brokenPipes = s.brokenPipes := rfl
@[simp] theorem State.putRaw_spi (s : State) (h a : Nat) (l : List Byte) : (s.putRaw h a l).spi = s.spi := rfl
@[simp] theorem State.putRaw_fuses (s : State) (h a : Nat) (l : List Byte) : (s.putRaw h a l).fuses = s.fuses := rfl
@[simp] theorem State.putRaw_fusedSvn (s : State) (h a : Nat) (l : List Byte) : (s.putRaw h a l).fusedSvn = s.fusedSvn := rfl
@[simp] theorem State.putRaw_keyHash (s : State) (h a : Nat) (l : List Byte) : (s.putRaw h a l).keyHash = s.keyHash := rfl
@[simp] theorem State.putRaw_hashIn (s : State) (h a : Nat) (l : List Byte) : (s.putRaw h a l).hashIn = s.hashIn := rfl

/-! modWb -/
@[simp] theorem State.modWb_pending (s : State) (t : Nat) (f : WbSt → WbSt) : (s.modWb t f).pending = s.pending := rfl
@[simp] theorem State.modWb_part (s : State) (t : Nat) (f : WbSt → WbSt) : (s.modWb t f).part = s.part := rfl
@[simp] theorem State.modWb_suffixE (s : State) (t : Nat) (f : WbSt → WbSt) : (s.modWb t f).suffixE = s.suffixE := rfl
@[simp] theorem State.modWb_regs (s : State) (t : Nat) (f : WbSt → WbSt) : (s.modWb t f).regs = s.regs := rfl
@[simp] theorem State.modWb_live (s : State) (t : Nat) (f : WbSt → WbSt) : (s.modWb t f).live = s.live := rfl
@[simp] theorem State.modWb_tabS (s : State) (t : Nat) (f : WbSt → WbSt) : (s.modWb t f).tabS = s.tabS := rfl
@[simp] theorem State.modWb_tabL (s : State) (t : Nat) (f : WbSt → WbSt) : (s.modWb t f).tabL = s.tabL := rfl
@[simp] theorem State.modWb_force (s : State) (t : Nat) (f : WbSt → WbSt) : (s.modWb t f).force = s.force := rfl
@[simp] theorem State.modWb_tabF (s : State) (t : Nat) (f : WbSt → WbSt) : (s.modWb t f).tabF = s.tabF := rfl
@[simp] theorem State.modWb_locked (s : State) (t : Nat) (f : WbSt → WbSt) : (s.modWb t f).locked = s.locked := rfl
@[simp] theorem State.modWb_cap (s : State) (t : Nat) (f : WbSt → WbSt) : (s.modWb t f).cap = s.cap := rfl
@[simp] theorem State.modWb_flight (s : State) (t : Nat) (f : WbSt → WbSt) : (s.modWb t f).flight = s.flight := rfl
@[simp] theorem State.modWb_marks (s : State) (t : Nat) (f : WbSt → WbSt) : (s.modWb t f).marks = s.marks := rfl
@[simp] theorem State.modWb_drawn (s : State) (t : Nat) (f : WbSt → WbSt) : (s.modWb t f).drawn = s.drawn := rfl
@[simp] theorem State.modWb_link (s : State) (t : Nat) (f : WbSt → WbSt) : (s.modWb t f).link = s.link := rfl
@[simp] theorem State.modWb_acq (s : State) (t : Nat) (f : WbSt → WbSt) : (s.modWb t f).acq = s.acq := rfl
@[simp] theorem State.modWb_jrx (s : State) (t : Nat) (f : WbSt → WbSt) : (s.modWb t f).jrx = s.jrx := rfl
@[simp] theorem State.modWb_time (s : State) (t : Nat) (f : WbSt → WbSt) : (s.modWb t f).time = s.time := rfl
@[simp] theorem State.modWb_items (s : State) (t : Nat) (f : WbSt → WbSt) : (s.modWb t f).items = s.items := rfl
@[simp] theorem State.modWb_traceRing (s : State) (t : Nat) (f : WbSt → WbSt) : (s.modWb t f).traceRing = s.traceRing := rfl
@[simp] theorem State.modWb_credits (s : State) (t : Nat) (f : WbSt → WbSt) : (s.modWb t f).credits = s.credits := rfl
@[simp] theorem State.modWb_lineOvf (s : State) (t : Nat) (f : WbSt → WbSt) : (s.modWb t f).lineOvf = s.lineOvf := rfl
@[simp] theorem State.modWb_codes (s : State) (t : Nat) (f : WbSt → WbSt) : (s.modWb t f).codes = s.codes := rfl
@[simp] theorem State.modWb_spares (s : State) (t : Nat) (f : WbSt → WbSt) : (s.modWb t f).spares = s.spares := rfl
@[simp] theorem State.modWb_stream (s : State) (t : Nat) (f : WbSt → WbSt) : (s.modWb t f).stream = s.stream := rfl
@[simp] theorem State.modWb_readData (s : State) (t : Nat) (f : WbSt → WbSt) : (s.modWb t f).readData = s.readData := rfl
@[simp] theorem State.modWb_trg (s : State) (t : Nat) (f : WbSt → WbSt) : (s.modWb t f).trg = s.trg := rfl
@[simp] theorem State.modWb_trgTx (s : State) (t : Nat) (f : WbSt → WbSt) : (s.modWb t f).trgTx = s.trgTx := rfl
@[simp] theorem State.modWb_recs (s : State) (t : Nat) (f : WbSt → WbSt) : (s.modWb t f).recs = s.recs := rfl
@[simp] theorem State.modWb_dens (s : State) (t : Nat) (f : WbSt → WbSt) : (s.modWb t f).dens = s.dens := rfl
@[simp] theorem State.modWb_cores (s : State) (t : Nat) (f : WbSt → WbSt) : (s.modWb t f).cores = s.cores := rfl
@[simp] theorem State.modWb_zooms (s : State) (t : Nat) (f : WbSt → WbSt) : (s.modWb t f).zooms = s.zooms := rfl
@[simp] theorem State.modWb_repairs (s : State) (t : Nat) (f : WbSt → WbSt) : (s.modWb t f).repairs = s.repairs := rfl
@[simp] theorem State.modWb_lead (s : State) (t : Nat) (f : WbSt → WbSt) : (s.modWb t f).lead = s.lead := rfl
@[simp] theorem State.modWb_tdc (s : State) (t : Nat) (f : WbSt → WbSt) : (s.modWb t f).tdc = s.tdc := rfl
@[simp] theorem State.modWb_iv (s : State) (t : Nat) (f : WbSt → WbSt) : (s.modWb t f).iv = s.iv := rfl
@[simp] theorem State.modWb_tdcCheck (s : State) (t : Nat) (f : WbSt → WbSt) : (s.modWb t f).tdcCheck = s.tdcCheck := rfl
@[simp] theorem State.modWb_ddr (s : State) (t : Nat) (f : WbSt → WbSt) : (s.modWb t f).ddr = s.ddr := rfl
@[simp] theorem State.modWb_nfs (s : State) (t : Nat) (f : WbSt → WbSt) : (s.modWb t f).nfs = s.nfs := rfl
@[simp] theorem State.modWb_powerGood (s : State) (t : Nat) (f : WbSt → WbSt) : (s.modWb t f).powerGood = s.powerGood := rfl
@[simp] theorem State.modWb_resetLow (s : State) (t : Nat) (f : WbSt → WbSt) : (s.modWb t f).resetLow = s.resetLow := rfl
@[simp] theorem State.modWb_clk (s : State) (t : Nat) (f : WbSt → WbSt) : (s.modWb t f).clk = s.clk := rfl
@[simp] theorem State.modWb_enabledIn (s : State) (t : Nat) (f : WbSt → WbSt) : (s.modWb t f).enabledIn = s.enabledIn := rfl
@[simp] theorem State.modWb_enableStep (s : State) (t : Nat) (f : WbSt → WbSt) : (s.modWb t f).enableStep = s.enableStep := rfl
@[simp] theorem State.modWb_hk (s : State) (t : Nat) (f : WbSt → WbSt) : (s.modWb t f).hk = s.hk := rfl
@[simp] theorem State.modWb_pairs (s : State) (t : Nat) (f : WbSt → WbSt) : (s.modWb t f).pairs = s.pairs := rfl
@[simp] theorem State.modWb_pwm (s : State) (t : Nat) (f : WbSt → WbSt) : (s.modWb t f).pwm = s.pwm := rfl
@[simp] theorem State.modWb_hkAt (s : State) (t : Nat) (f : WbSt → WbSt) : (s.modWb t f).hkAt = s.hkAt := rfl
@[simp] theorem State.modWb_powered (s : State) (t : Nat) (f : WbSt → WbSt) : (s.modWb t f).powered = s.powered := rfl
@[simp] theorem State.modWb_hotLost (s : State) (t : Nat) (f : WbSt → WbSt) : (s.modWb t f).hotLost = s.hotLost := rfl
@[simp] theorem State.modWb_disp (s : State) (t : Nat) (f : WbSt → WbSt) : (s.modWb t f).disp = s.disp := rfl
@[simp] theorem State.modWb_dma (s : State) (t : Nat) (f : WbSt → WbSt) : (s.modWb t f).dma = s.dma := rfl
@[simp] theorem State.modWb_dmaMem (s : State) (t : Nat) (f : WbSt → WbSt) : (s.modWb t f).dmaMem = s.dmaMem := rfl
@[simp] theorem State.modWb_eth (s : State) (t : Nat) (f : WbSt → WbSt) : (s.modWb t f).eth = s.eth := rfl
@[simp] theorem State.modWb_strs (s : State) (t : Nat) (f : WbSt → WbSt) : (s.modWb t f).strs = s.strs := rfl
@[simp] theorem State.modWb_access (s : State) (t : Nat) (f : WbSt → WbSt) : (s.modWb t f).access = s.access := rfl
@[simp] theorem State.modWb_fcol (s : State) (t : Nat) (f : WbSt → WbSt) : (s.modWb t f).fcol = s.fcol := rfl
@[simp] theorem State.modWb_aliveRuns (s : State) (t : Nat) (f : WbSt → WbSt) : (s.modWb t f).aliveRuns = s.aliveRuns := rfl
@[simp] theorem State.modWb_alive (s : State) (t : Nat) (f : WbSt → WbSt) : (s.modWb t f).alive = s.alive := rfl
@[simp] theorem State.modWb_controlLost (s : State) (t : Nat) (f : WbSt → WbSt) : (s.modWb t f).controlLost = s.controlLost := rfl
@[simp] theorem State.modWb_beatsMissed (s : State) (t : Nat) (f : WbSt → WbSt) : (s.modWb t f).beatsMissed = s.beatsMissed := rfl
@[simp] theorem State.modWb_mbox (s : State) (t : Nat) (f : WbSt → WbSt) : (s.modWb t f).mbox = s.mbox := rfl
@[simp] theorem State.modWb_plans (s : State) (t : Nat) (f : WbSt → WbSt) : (s.modWb t f).plans = s.plans := rfl
@[simp] theorem State.modWb_planCmds (s : State) (t : Nat) (f : WbSt → WbSt) : (s.modWb t f).planCmds = s.planCmds := rfl
@[simp] theorem State.modWb_admissions (s : State) (t : Nat) (f : WbSt → WbSt) : (s.modWb t f).admissions = s.admissions := rfl
@[simp] theorem State.modWb_energy (s : State) (t : Nat) (f : WbSt → WbSt) : (s.modWb t f).energy = s.energy := rfl
@[simp] theorem State.modWb_ledger (s : State) (t : Nat) (f : WbSt → WbSt) : (s.modWb t f).ledger = s.ledger := rfl
@[simp] theorem State.modWb_rails (s : State) (t : Nat) (f : WbSt → WbSt) : (s.modWb t f).rails = s.rails := rfl
@[simp] theorem State.modWb_boot (s : State) (t : Nat) (f : WbSt → WbSt) : (s.modWb t f).boot = s.boot := rfl
@[simp] theorem State.modWb_brokenPipes (s : State) (t : Nat) (f : WbSt → WbSt) : (s.modWb t f).brokenPipes = s.brokenPipes := rfl
@[simp] theorem State.modWb_spi (s : State) (t : Nat) (f : WbSt → WbSt) : (s.modWb t f).spi = s.spi := rfl
@[simp] theorem State.modWb_fuses (s : State) (t : Nat) (f : WbSt → WbSt) : (s.modWb t f).fuses = s.fuses := rfl
@[simp] theorem State.modWb_fusedSvn (s : State) (t : Nat) (f : WbSt → WbSt) : (s.modWb t f).fusedSvn = s.fusedSvn := rfl
@[simp] theorem State.modWb_keyHash (s : State) (t : Nat) (f : WbSt → WbSt) : (s.modWb t f).keyHash = s.keyHash := rfl
@[simp] theorem State.modWb_hashIn (s : State) (t : Nat) (f : WbSt → WbSt) : (s.modWb t f).hashIn = s.hashIn := rfl

/-! setLink -/
@[simp] theorem State.setLink_pending (s : State) (l : Nat) (v : Link) : (s.setLink l v).pending = s.pending := rfl
@[simp] theorem State.setLink_part (s : State) (l : Nat) (v : Link) : (s.setLink l v).part = s.part := rfl
@[simp] theorem State.setLink_suffixE (s : State) (l : Nat) (v : Link) : (s.setLink l v).suffixE = s.suffixE := rfl
@[simp] theorem State.setLink_regs (s : State) (l : Nat) (v : Link) : (s.setLink l v).regs = s.regs := rfl
@[simp] theorem State.setLink_live (s : State) (l : Nat) (v : Link) : (s.setLink l v).live = s.live := rfl
@[simp] theorem State.setLink_tabS (s : State) (l : Nat) (v : Link) : (s.setLink l v).tabS = s.tabS := rfl
@[simp] theorem State.setLink_tabL (s : State) (l : Nat) (v : Link) : (s.setLink l v).tabL = s.tabL := rfl
@[simp] theorem State.setLink_force (s : State) (l : Nat) (v : Link) : (s.setLink l v).force = s.force := rfl
@[simp] theorem State.setLink_tabF (s : State) (l : Nat) (v : Link) : (s.setLink l v).tabF = s.tabF := rfl
@[simp] theorem State.setLink_locked (s : State) (l : Nat) (v : Link) : (s.setLink l v).locked = s.locked := rfl
@[simp] theorem State.setLink_cap (s : State) (l : Nat) (v : Link) : (s.setLink l v).cap = s.cap := rfl
@[simp] theorem State.setLink_flight (s : State) (l : Nat) (v : Link) : (s.setLink l v).flight = s.flight := rfl
@[simp] theorem State.setLink_marks (s : State) (l : Nat) (v : Link) : (s.setLink l v).marks = s.marks := rfl
@[simp] theorem State.setLink_drawn (s : State) (l : Nat) (v : Link) : (s.setLink l v).drawn = s.drawn := rfl
@[simp] theorem State.setLink_acq (s : State) (l : Nat) (v : Link) : (s.setLink l v).acq = s.acq := rfl
@[simp] theorem State.setLink_jrx (s : State) (l : Nat) (v : Link) : (s.setLink l v).jrx = s.jrx := rfl
@[simp] theorem State.setLink_time (s : State) (l : Nat) (v : Link) : (s.setLink l v).time = s.time := rfl
@[simp] theorem State.setLink_items (s : State) (l : Nat) (v : Link) : (s.setLink l v).items = s.items := rfl
@[simp] theorem State.setLink_traceRing (s : State) (l : Nat) (v : Link) : (s.setLink l v).traceRing = s.traceRing := rfl
@[simp] theorem State.setLink_credits (s : State) (l : Nat) (v : Link) : (s.setLink l v).credits = s.credits := rfl
@[simp] theorem State.setLink_lineOvf (s : State) (l : Nat) (v : Link) : (s.setLink l v).lineOvf = s.lineOvf := rfl
@[simp] theorem State.setLink_codes (s : State) (l : Nat) (v : Link) : (s.setLink l v).codes = s.codes := rfl
@[simp] theorem State.setLink_spares (s : State) (l : Nat) (v : Link) : (s.setLink l v).spares = s.spares := rfl
@[simp] theorem State.setLink_stream (s : State) (l : Nat) (v : Link) : (s.setLink l v).stream = s.stream := rfl
@[simp] theorem State.setLink_readData (s : State) (l : Nat) (v : Link) : (s.setLink l v).readData = s.readData := rfl
@[simp] theorem State.setLink_wb (s : State) (l : Nat) (v : Link) : (s.setLink l v).wb = s.wb := rfl
@[simp] theorem State.setLink_trg (s : State) (l : Nat) (v : Link) : (s.setLink l v).trg = s.trg := rfl
@[simp] theorem State.setLink_trgTx (s : State) (l : Nat) (v : Link) : (s.setLink l v).trgTx = s.trgTx := rfl
@[simp] theorem State.setLink_recs (s : State) (l : Nat) (v : Link) : (s.setLink l v).recs = s.recs := rfl
@[simp] theorem State.setLink_dens (s : State) (l : Nat) (v : Link) : (s.setLink l v).dens = s.dens := rfl
@[simp] theorem State.setLink_cores (s : State) (l : Nat) (v : Link) : (s.setLink l v).cores = s.cores := rfl
@[simp] theorem State.setLink_zooms (s : State) (l : Nat) (v : Link) : (s.setLink l v).zooms = s.zooms := rfl
@[simp] theorem State.setLink_repairs (s : State) (l : Nat) (v : Link) : (s.setLink l v).repairs = s.repairs := rfl
@[simp] theorem State.setLink_lead (s : State) (l : Nat) (v : Link) : (s.setLink l v).lead = s.lead := rfl
@[simp] theorem State.setLink_tdc (s : State) (l : Nat) (v : Link) : (s.setLink l v).tdc = s.tdc := rfl
@[simp] theorem State.setLink_iv (s : State) (l : Nat) (v : Link) : (s.setLink l v).iv = s.iv := rfl
@[simp] theorem State.setLink_tdcCheck (s : State) (l : Nat) (v : Link) : (s.setLink l v).tdcCheck = s.tdcCheck := rfl
@[simp] theorem State.setLink_ddr (s : State) (l : Nat) (v : Link) : (s.setLink l v).ddr = s.ddr := rfl
@[simp] theorem State.setLink_nfs (s : State) (l : Nat) (v : Link) : (s.setLink l v).nfs = s.nfs := rfl
@[simp] theorem State.setLink_powerGood (s : State) (l : Nat) (v : Link) : (s.setLink l v).powerGood = s.powerGood := rfl
@[simp] theorem State.setLink_resetLow (s : State) (l : Nat) (v : Link) : (s.setLink l v).resetLow = s.resetLow := rfl
@[simp] theorem State.setLink_clk (s : State) (l : Nat) (v : Link) : (s.setLink l v).clk = s.clk := rfl
@[simp] theorem State.setLink_enabledIn (s : State) (l : Nat) (v : Link) : (s.setLink l v).enabledIn = s.enabledIn := rfl
@[simp] theorem State.setLink_enableStep (s : State) (l : Nat) (v : Link) : (s.setLink l v).enableStep = s.enableStep := rfl
@[simp] theorem State.setLink_hk (s : State) (l : Nat) (v : Link) : (s.setLink l v).hk = s.hk := rfl
@[simp] theorem State.setLink_pairs (s : State) (l : Nat) (v : Link) : (s.setLink l v).pairs = s.pairs := rfl
@[simp] theorem State.setLink_pwm (s : State) (l : Nat) (v : Link) : (s.setLink l v).pwm = s.pwm := rfl
@[simp] theorem State.setLink_hkAt (s : State) (l : Nat) (v : Link) : (s.setLink l v).hkAt = s.hkAt := rfl
@[simp] theorem State.setLink_powered (s : State) (l : Nat) (v : Link) : (s.setLink l v).powered = s.powered := rfl
@[simp] theorem State.setLink_hotLost (s : State) (l : Nat) (v : Link) : (s.setLink l v).hotLost = s.hotLost := rfl
@[simp] theorem State.setLink_disp (s : State) (l : Nat) (v : Link) : (s.setLink l v).disp = s.disp := rfl
@[simp] theorem State.setLink_dma (s : State) (l : Nat) (v : Link) : (s.setLink l v).dma = s.dma := rfl
@[simp] theorem State.setLink_dmaMem (s : State) (l : Nat) (v : Link) : (s.setLink l v).dmaMem = s.dmaMem := rfl
@[simp] theorem State.setLink_eth (s : State) (l : Nat) (v : Link) : (s.setLink l v).eth = s.eth := rfl
@[simp] theorem State.setLink_strs (s : State) (l : Nat) (v : Link) : (s.setLink l v).strs = s.strs := rfl
@[simp] theorem State.setLink_access (s : State) (l : Nat) (v : Link) : (s.setLink l v).access = s.access := rfl
@[simp] theorem State.setLink_fcol (s : State) (l : Nat) (v : Link) : (s.setLink l v).fcol = s.fcol := rfl
@[simp] theorem State.setLink_aliveRuns (s : State) (l : Nat) (v : Link) : (s.setLink l v).aliveRuns = s.aliveRuns := rfl
@[simp] theorem State.setLink_alive (s : State) (l : Nat) (v : Link) : (s.setLink l v).alive = s.alive := rfl
@[simp] theorem State.setLink_controlLost (s : State) (l : Nat) (v : Link) : (s.setLink l v).controlLost = s.controlLost := rfl
@[simp] theorem State.setLink_beatsMissed (s : State) (l : Nat) (v : Link) : (s.setLink l v).beatsMissed = s.beatsMissed := rfl
@[simp] theorem State.setLink_mbox (s : State) (l : Nat) (v : Link) : (s.setLink l v).mbox = s.mbox := rfl
@[simp] theorem State.setLink_plans (s : State) (l : Nat) (v : Link) : (s.setLink l v).plans = s.plans := rfl
@[simp] theorem State.setLink_planCmds (s : State) (l : Nat) (v : Link) : (s.setLink l v).planCmds = s.planCmds := rfl
@[simp] theorem State.setLink_admissions (s : State) (l : Nat) (v : Link) : (s.setLink l v).admissions = s.admissions := rfl
@[simp] theorem State.setLink_energy (s : State) (l : Nat) (v : Link) : (s.setLink l v).energy = s.energy := rfl
@[simp] theorem State.setLink_ledger (s : State) (l : Nat) (v : Link) : (s.setLink l v).ledger = s.ledger := rfl
@[simp] theorem State.setLink_rails (s : State) (l : Nat) (v : Link) : (s.setLink l v).rails = s.rails := rfl
@[simp] theorem State.setLink_boot (s : State) (l : Nat) (v : Link) : (s.setLink l v).boot = s.boot := rfl
@[simp] theorem State.setLink_brokenPipes (s : State) (l : Nat) (v : Link) : (s.setLink l v).brokenPipes = s.brokenPipes := rfl
@[simp] theorem State.setLink_spi (s : State) (l : Nat) (v : Link) : (s.setLink l v).spi = s.spi := rfl
@[simp] theorem State.setLink_fuses (s : State) (l : Nat) (v : Link) : (s.setLink l v).fuses = s.fuses := rfl
@[simp] theorem State.setLink_fusedSvn (s : State) (l : Nat) (v : Link) : (s.setLink l v).fusedSvn = s.fusedSvn := rfl
@[simp] theorem State.setLink_keyHash (s : State) (l : Nat) (v : Link) : (s.setLink l v).keyHash = s.keyHash := rfl
@[simp] theorem State.setLink_hashIn (s : State) (l : Nat) (v : Link) : (s.setLink l v).hashIn = s.hashIn := rfl

/-! setAcq -/
@[simp] theorem State.setAcq_pending (s : State) (a : Nat) (v : AcqSt) : (s.setAcq a v).pending = s.pending := rfl
@[simp] theorem State.setAcq_part (s : State) (a : Nat) (v : AcqSt) : (s.setAcq a v).part = s.part := rfl
@[simp] theorem State.setAcq_suffixE (s : State) (a : Nat) (v : AcqSt) : (s.setAcq a v).suffixE = s.suffixE := rfl
@[simp] theorem State.setAcq_regs (s : State) (a : Nat) (v : AcqSt) : (s.setAcq a v).regs = s.regs := rfl
@[simp] theorem State.setAcq_live (s : State) (a : Nat) (v : AcqSt) : (s.setAcq a v).live = s.live := rfl
@[simp] theorem State.setAcq_tabS (s : State) (a : Nat) (v : AcqSt) : (s.setAcq a v).tabS = s.tabS := rfl
@[simp] theorem State.setAcq_tabL (s : State) (a : Nat) (v : AcqSt) : (s.setAcq a v).tabL = s.tabL := rfl
@[simp] theorem State.setAcq_force (s : State) (a : Nat) (v : AcqSt) : (s.setAcq a v).force = s.force := rfl
@[simp] theorem State.setAcq_tabF (s : State) (a : Nat) (v : AcqSt) : (s.setAcq a v).tabF = s.tabF := rfl
@[simp] theorem State.setAcq_locked (s : State) (a : Nat) (v : AcqSt) : (s.setAcq a v).locked = s.locked := rfl
@[simp] theorem State.setAcq_cap (s : State) (a : Nat) (v : AcqSt) : (s.setAcq a v).cap = s.cap := rfl
@[simp] theorem State.setAcq_flight (s : State) (a : Nat) (v : AcqSt) : (s.setAcq a v).flight = s.flight := rfl
@[simp] theorem State.setAcq_marks (s : State) (a : Nat) (v : AcqSt) : (s.setAcq a v).marks = s.marks := rfl
@[simp] theorem State.setAcq_drawn (s : State) (a : Nat) (v : AcqSt) : (s.setAcq a v).drawn = s.drawn := rfl
@[simp] theorem State.setAcq_link (s : State) (a : Nat) (v : AcqSt) : (s.setAcq a v).link = s.link := rfl
@[simp] theorem State.setAcq_jrx (s : State) (a : Nat) (v : AcqSt) : (s.setAcq a v).jrx = s.jrx := rfl
@[simp] theorem State.setAcq_time (s : State) (a : Nat) (v : AcqSt) : (s.setAcq a v).time = s.time := rfl
@[simp] theorem State.setAcq_items (s : State) (a : Nat) (v : AcqSt) : (s.setAcq a v).items = s.items := rfl
@[simp] theorem State.setAcq_traceRing (s : State) (a : Nat) (v : AcqSt) : (s.setAcq a v).traceRing = s.traceRing := rfl
@[simp] theorem State.setAcq_credits (s : State) (a : Nat) (v : AcqSt) : (s.setAcq a v).credits = s.credits := rfl
@[simp] theorem State.setAcq_lineOvf (s : State) (a : Nat) (v : AcqSt) : (s.setAcq a v).lineOvf = s.lineOvf := rfl
@[simp] theorem State.setAcq_codes (s : State) (a : Nat) (v : AcqSt) : (s.setAcq a v).codes = s.codes := rfl
@[simp] theorem State.setAcq_spares (s : State) (a : Nat) (v : AcqSt) : (s.setAcq a v).spares = s.spares := rfl
@[simp] theorem State.setAcq_stream (s : State) (a : Nat) (v : AcqSt) : (s.setAcq a v).stream = s.stream := rfl
@[simp] theorem State.setAcq_readData (s : State) (a : Nat) (v : AcqSt) : (s.setAcq a v).readData = s.readData := rfl
@[simp] theorem State.setAcq_wb (s : State) (a : Nat) (v : AcqSt) : (s.setAcq a v).wb = s.wb := rfl
@[simp] theorem State.setAcq_trg (s : State) (a : Nat) (v : AcqSt) : (s.setAcq a v).trg = s.trg := rfl
@[simp] theorem State.setAcq_trgTx (s : State) (a : Nat) (v : AcqSt) : (s.setAcq a v).trgTx = s.trgTx := rfl
@[simp] theorem State.setAcq_recs (s : State) (a : Nat) (v : AcqSt) : (s.setAcq a v).recs = s.recs := rfl
@[simp] theorem State.setAcq_dens (s : State) (a : Nat) (v : AcqSt) : (s.setAcq a v).dens = s.dens := rfl
@[simp] theorem State.setAcq_cores (s : State) (a : Nat) (v : AcqSt) : (s.setAcq a v).cores = s.cores := rfl
@[simp] theorem State.setAcq_zooms (s : State) (a : Nat) (v : AcqSt) : (s.setAcq a v).zooms = s.zooms := rfl
@[simp] theorem State.setAcq_repairs (s : State) (a : Nat) (v : AcqSt) : (s.setAcq a v).repairs = s.repairs := rfl
@[simp] theorem State.setAcq_lead (s : State) (a : Nat) (v : AcqSt) : (s.setAcq a v).lead = s.lead := rfl
@[simp] theorem State.setAcq_tdc (s : State) (a : Nat) (v : AcqSt) : (s.setAcq a v).tdc = s.tdc := rfl
@[simp] theorem State.setAcq_iv (s : State) (a : Nat) (v : AcqSt) : (s.setAcq a v).iv = s.iv := rfl
@[simp] theorem State.setAcq_tdcCheck (s : State) (a : Nat) (v : AcqSt) : (s.setAcq a v).tdcCheck = s.tdcCheck := rfl
@[simp] theorem State.setAcq_ddr (s : State) (a : Nat) (v : AcqSt) : (s.setAcq a v).ddr = s.ddr := rfl
@[simp] theorem State.setAcq_nfs (s : State) (a : Nat) (v : AcqSt) : (s.setAcq a v).nfs = s.nfs := rfl
@[simp] theorem State.setAcq_powerGood (s : State) (a : Nat) (v : AcqSt) : (s.setAcq a v).powerGood = s.powerGood := rfl
@[simp] theorem State.setAcq_resetLow (s : State) (a : Nat) (v : AcqSt) : (s.setAcq a v).resetLow = s.resetLow := rfl
@[simp] theorem State.setAcq_clk (s : State) (a : Nat) (v : AcqSt) : (s.setAcq a v).clk = s.clk := rfl
@[simp] theorem State.setAcq_enabledIn (s : State) (a : Nat) (v : AcqSt) : (s.setAcq a v).enabledIn = s.enabledIn := rfl
@[simp] theorem State.setAcq_enableStep (s : State) (a : Nat) (v : AcqSt) : (s.setAcq a v).enableStep = s.enableStep := rfl
@[simp] theorem State.setAcq_hk (s : State) (a : Nat) (v : AcqSt) : (s.setAcq a v).hk = s.hk := rfl
@[simp] theorem State.setAcq_pairs (s : State) (a : Nat) (v : AcqSt) : (s.setAcq a v).pairs = s.pairs := rfl
@[simp] theorem State.setAcq_pwm (s : State) (a : Nat) (v : AcqSt) : (s.setAcq a v).pwm = s.pwm := rfl
@[simp] theorem State.setAcq_hkAt (s : State) (a : Nat) (v : AcqSt) : (s.setAcq a v).hkAt = s.hkAt := rfl
@[simp] theorem State.setAcq_powered (s : State) (a : Nat) (v : AcqSt) : (s.setAcq a v).powered = s.powered := rfl
@[simp] theorem State.setAcq_hotLost (s : State) (a : Nat) (v : AcqSt) : (s.setAcq a v).hotLost = s.hotLost := rfl
@[simp] theorem State.setAcq_disp (s : State) (a : Nat) (v : AcqSt) : (s.setAcq a v).disp = s.disp := rfl
@[simp] theorem State.setAcq_dma (s : State) (a : Nat) (v : AcqSt) : (s.setAcq a v).dma = s.dma := rfl
@[simp] theorem State.setAcq_dmaMem (s : State) (a : Nat) (v : AcqSt) : (s.setAcq a v).dmaMem = s.dmaMem := rfl
@[simp] theorem State.setAcq_eth (s : State) (a : Nat) (v : AcqSt) : (s.setAcq a v).eth = s.eth := rfl
@[simp] theorem State.setAcq_strs (s : State) (a : Nat) (v : AcqSt) : (s.setAcq a v).strs = s.strs := rfl
@[simp] theorem State.setAcq_access (s : State) (a : Nat) (v : AcqSt) : (s.setAcq a v).access = s.access := rfl
@[simp] theorem State.setAcq_fcol (s : State) (a : Nat) (v : AcqSt) : (s.setAcq a v).fcol = s.fcol := rfl
@[simp] theorem State.setAcq_aliveRuns (s : State) (a : Nat) (v : AcqSt) : (s.setAcq a v).aliveRuns = s.aliveRuns := rfl
@[simp] theorem State.setAcq_alive (s : State) (a : Nat) (v : AcqSt) : (s.setAcq a v).alive = s.alive := rfl
@[simp] theorem State.setAcq_controlLost (s : State) (a : Nat) (v : AcqSt) : (s.setAcq a v).controlLost = s.controlLost := rfl
@[simp] theorem State.setAcq_beatsMissed (s : State) (a : Nat) (v : AcqSt) : (s.setAcq a v).beatsMissed = s.beatsMissed := rfl
@[simp] theorem State.setAcq_mbox (s : State) (a : Nat) (v : AcqSt) : (s.setAcq a v).mbox = s.mbox := rfl
@[simp] theorem State.setAcq_plans (s : State) (a : Nat) (v : AcqSt) : (s.setAcq a v).plans = s.plans := rfl
@[simp] theorem State.setAcq_planCmds (s : State) (a : Nat) (v : AcqSt) : (s.setAcq a v).planCmds = s.planCmds := rfl
@[simp] theorem State.setAcq_admissions (s : State) (a : Nat) (v : AcqSt) : (s.setAcq a v).admissions = s.admissions := rfl
@[simp] theorem State.setAcq_energy (s : State) (a : Nat) (v : AcqSt) : (s.setAcq a v).energy = s.energy := rfl
@[simp] theorem State.setAcq_ledger (s : State) (a : Nat) (v : AcqSt) : (s.setAcq a v).ledger = s.ledger := rfl
@[simp] theorem State.setAcq_rails (s : State) (a : Nat) (v : AcqSt) : (s.setAcq a v).rails = s.rails := rfl
@[simp] theorem State.setAcq_boot (s : State) (a : Nat) (v : AcqSt) : (s.setAcq a v).boot = s.boot := rfl
@[simp] theorem State.setAcq_brokenPipes (s : State) (a : Nat) (v : AcqSt) : (s.setAcq a v).brokenPipes = s.brokenPipes := rfl
@[simp] theorem State.setAcq_spi (s : State) (a : Nat) (v : AcqSt) : (s.setAcq a v).spi = s.spi := rfl
@[simp] theorem State.setAcq_fuses (s : State) (a : Nat) (v : AcqSt) : (s.setAcq a v).fuses = s.fuses := rfl
@[simp] theorem State.setAcq_fusedSvn (s : State) (a : Nat) (v : AcqSt) : (s.setAcq a v).fusedSvn = s.fusedSvn := rfl
@[simp] theorem State.setAcq_keyHash (s : State) (a : Nat) (v : AcqSt) : (s.setAcq a v).keyHash = s.keyHash := rfl
@[simp] theorem State.setAcq_hashIn (s : State) (a : Nat) (v : AcqSt) : (s.setAcq a v).hashIn = s.hashIn := rfl

/-! modAcq -/
@[simp] theorem State.modAcq_pending (s : State) (a : Nat) (f : AcqSt → AcqSt) : (s.modAcq a f).pending = s.pending := rfl
@[simp] theorem State.modAcq_part (s : State) (a : Nat) (f : AcqSt → AcqSt) : (s.modAcq a f).part = s.part := rfl
@[simp] theorem State.modAcq_suffixE (s : State) (a : Nat) (f : AcqSt → AcqSt) : (s.modAcq a f).suffixE = s.suffixE := rfl
@[simp] theorem State.modAcq_regs (s : State) (a : Nat) (f : AcqSt → AcqSt) : (s.modAcq a f).regs = s.regs := rfl
@[simp] theorem State.modAcq_live (s : State) (a : Nat) (f : AcqSt → AcqSt) : (s.modAcq a f).live = s.live := rfl
@[simp] theorem State.modAcq_tabS (s : State) (a : Nat) (f : AcqSt → AcqSt) : (s.modAcq a f).tabS = s.tabS := rfl
@[simp] theorem State.modAcq_tabL (s : State) (a : Nat) (f : AcqSt → AcqSt) : (s.modAcq a f).tabL = s.tabL := rfl
@[simp] theorem State.modAcq_force (s : State) (a : Nat) (f : AcqSt → AcqSt) : (s.modAcq a f).force = s.force := rfl
@[simp] theorem State.modAcq_tabF (s : State) (a : Nat) (f : AcqSt → AcqSt) : (s.modAcq a f).tabF = s.tabF := rfl
@[simp] theorem State.modAcq_locked (s : State) (a : Nat) (f : AcqSt → AcqSt) : (s.modAcq a f).locked = s.locked := rfl
@[simp] theorem State.modAcq_cap (s : State) (a : Nat) (f : AcqSt → AcqSt) : (s.modAcq a f).cap = s.cap := rfl
@[simp] theorem State.modAcq_flight (s : State) (a : Nat) (f : AcqSt → AcqSt) : (s.modAcq a f).flight = s.flight := rfl
@[simp] theorem State.modAcq_marks (s : State) (a : Nat) (f : AcqSt → AcqSt) : (s.modAcq a f).marks = s.marks := rfl
@[simp] theorem State.modAcq_drawn (s : State) (a : Nat) (f : AcqSt → AcqSt) : (s.modAcq a f).drawn = s.drawn := rfl
@[simp] theorem State.modAcq_link (s : State) (a : Nat) (f : AcqSt → AcqSt) : (s.modAcq a f).link = s.link := rfl
@[simp] theorem State.modAcq_jrx (s : State) (a : Nat) (f : AcqSt → AcqSt) : (s.modAcq a f).jrx = s.jrx := rfl
@[simp] theorem State.modAcq_time (s : State) (a : Nat) (f : AcqSt → AcqSt) : (s.modAcq a f).time = s.time := rfl
@[simp] theorem State.modAcq_items (s : State) (a : Nat) (f : AcqSt → AcqSt) : (s.modAcq a f).items = s.items := rfl
@[simp] theorem State.modAcq_traceRing (s : State) (a : Nat) (f : AcqSt → AcqSt) : (s.modAcq a f).traceRing = s.traceRing := rfl
@[simp] theorem State.modAcq_credits (s : State) (a : Nat) (f : AcqSt → AcqSt) : (s.modAcq a f).credits = s.credits := rfl
@[simp] theorem State.modAcq_lineOvf (s : State) (a : Nat) (f : AcqSt → AcqSt) : (s.modAcq a f).lineOvf = s.lineOvf := rfl
@[simp] theorem State.modAcq_codes (s : State) (a : Nat) (f : AcqSt → AcqSt) : (s.modAcq a f).codes = s.codes := rfl
@[simp] theorem State.modAcq_spares (s : State) (a : Nat) (f : AcqSt → AcqSt) : (s.modAcq a f).spares = s.spares := rfl
@[simp] theorem State.modAcq_stream (s : State) (a : Nat) (f : AcqSt → AcqSt) : (s.modAcq a f).stream = s.stream := rfl
@[simp] theorem State.modAcq_readData (s : State) (a : Nat) (f : AcqSt → AcqSt) : (s.modAcq a f).readData = s.readData := rfl
@[simp] theorem State.modAcq_wb (s : State) (a : Nat) (f : AcqSt → AcqSt) : (s.modAcq a f).wb = s.wb := rfl
@[simp] theorem State.modAcq_trg (s : State) (a : Nat) (f : AcqSt → AcqSt) : (s.modAcq a f).trg = s.trg := rfl
@[simp] theorem State.modAcq_trgTx (s : State) (a : Nat) (f : AcqSt → AcqSt) : (s.modAcq a f).trgTx = s.trgTx := rfl
@[simp] theorem State.modAcq_recs (s : State) (a : Nat) (f : AcqSt → AcqSt) : (s.modAcq a f).recs = s.recs := rfl
@[simp] theorem State.modAcq_dens (s : State) (a : Nat) (f : AcqSt → AcqSt) : (s.modAcq a f).dens = s.dens := rfl
@[simp] theorem State.modAcq_cores (s : State) (a : Nat) (f : AcqSt → AcqSt) : (s.modAcq a f).cores = s.cores := rfl
@[simp] theorem State.modAcq_zooms (s : State) (a : Nat) (f : AcqSt → AcqSt) : (s.modAcq a f).zooms = s.zooms := rfl
@[simp] theorem State.modAcq_repairs (s : State) (a : Nat) (f : AcqSt → AcqSt) : (s.modAcq a f).repairs = s.repairs := rfl
@[simp] theorem State.modAcq_lead (s : State) (a : Nat) (f : AcqSt → AcqSt) : (s.modAcq a f).lead = s.lead := rfl
@[simp] theorem State.modAcq_tdc (s : State) (a : Nat) (f : AcqSt → AcqSt) : (s.modAcq a f).tdc = s.tdc := rfl
@[simp] theorem State.modAcq_iv (s : State) (a : Nat) (f : AcqSt → AcqSt) : (s.modAcq a f).iv = s.iv := rfl
@[simp] theorem State.modAcq_tdcCheck (s : State) (a : Nat) (f : AcqSt → AcqSt) : (s.modAcq a f).tdcCheck = s.tdcCheck := rfl
@[simp] theorem State.modAcq_ddr (s : State) (a : Nat) (f : AcqSt → AcqSt) : (s.modAcq a f).ddr = s.ddr := rfl
@[simp] theorem State.modAcq_nfs (s : State) (a : Nat) (f : AcqSt → AcqSt) : (s.modAcq a f).nfs = s.nfs := rfl
@[simp] theorem State.modAcq_powerGood (s : State) (a : Nat) (f : AcqSt → AcqSt) : (s.modAcq a f).powerGood = s.powerGood := rfl
@[simp] theorem State.modAcq_resetLow (s : State) (a : Nat) (f : AcqSt → AcqSt) : (s.modAcq a f).resetLow = s.resetLow := rfl
@[simp] theorem State.modAcq_clk (s : State) (a : Nat) (f : AcqSt → AcqSt) : (s.modAcq a f).clk = s.clk := rfl
@[simp] theorem State.modAcq_enabledIn (s : State) (a : Nat) (f : AcqSt → AcqSt) : (s.modAcq a f).enabledIn = s.enabledIn := rfl
@[simp] theorem State.modAcq_enableStep (s : State) (a : Nat) (f : AcqSt → AcqSt) : (s.modAcq a f).enableStep = s.enableStep := rfl
@[simp] theorem State.modAcq_hk (s : State) (a : Nat) (f : AcqSt → AcqSt) : (s.modAcq a f).hk = s.hk := rfl
@[simp] theorem State.modAcq_pairs (s : State) (a : Nat) (f : AcqSt → AcqSt) : (s.modAcq a f).pairs = s.pairs := rfl
@[simp] theorem State.modAcq_pwm (s : State) (a : Nat) (f : AcqSt → AcqSt) : (s.modAcq a f).pwm = s.pwm := rfl
@[simp] theorem State.modAcq_hkAt (s : State) (a : Nat) (f : AcqSt → AcqSt) : (s.modAcq a f).hkAt = s.hkAt := rfl
@[simp] theorem State.modAcq_powered (s : State) (a : Nat) (f : AcqSt → AcqSt) : (s.modAcq a f).powered = s.powered := rfl
@[simp] theorem State.modAcq_hotLost (s : State) (a : Nat) (f : AcqSt → AcqSt) : (s.modAcq a f).hotLost = s.hotLost := rfl
@[simp] theorem State.modAcq_disp (s : State) (a : Nat) (f : AcqSt → AcqSt) : (s.modAcq a f).disp = s.disp := rfl
@[simp] theorem State.modAcq_dma (s : State) (a : Nat) (f : AcqSt → AcqSt) : (s.modAcq a f).dma = s.dma := rfl
@[simp] theorem State.modAcq_dmaMem (s : State) (a : Nat) (f : AcqSt → AcqSt) : (s.modAcq a f).dmaMem = s.dmaMem := rfl
@[simp] theorem State.modAcq_eth (s : State) (a : Nat) (f : AcqSt → AcqSt) : (s.modAcq a f).eth = s.eth := rfl
@[simp] theorem State.modAcq_strs (s : State) (a : Nat) (f : AcqSt → AcqSt) : (s.modAcq a f).strs = s.strs := rfl
@[simp] theorem State.modAcq_access (s : State) (a : Nat) (f : AcqSt → AcqSt) : (s.modAcq a f).access = s.access := rfl
@[simp] theorem State.modAcq_fcol (s : State) (a : Nat) (f : AcqSt → AcqSt) : (s.modAcq a f).fcol = s.fcol := rfl
@[simp] theorem State.modAcq_aliveRuns (s : State) (a : Nat) (f : AcqSt → AcqSt) : (s.modAcq a f).aliveRuns = s.aliveRuns := rfl
@[simp] theorem State.modAcq_alive (s : State) (a : Nat) (f : AcqSt → AcqSt) : (s.modAcq a f).alive = s.alive := rfl
@[simp] theorem State.modAcq_controlLost (s : State) (a : Nat) (f : AcqSt → AcqSt) : (s.modAcq a f).controlLost = s.controlLost := rfl
@[simp] theorem State.modAcq_beatsMissed (s : State) (a : Nat) (f : AcqSt → AcqSt) : (s.modAcq a f).beatsMissed = s.beatsMissed := rfl
@[simp] theorem State.modAcq_mbox (s : State) (a : Nat) (f : AcqSt → AcqSt) : (s.modAcq a f).mbox = s.mbox := rfl
@[simp] theorem State.modAcq_plans (s : State) (a : Nat) (f : AcqSt → AcqSt) : (s.modAcq a f).plans = s.plans := rfl
@[simp] theorem State.modAcq_planCmds (s : State) (a : Nat) (f : AcqSt → AcqSt) : (s.modAcq a f).planCmds = s.planCmds := rfl
@[simp] theorem State.modAcq_admissions (s : State) (a : Nat) (f : AcqSt → AcqSt) : (s.modAcq a f).admissions = s.admissions := rfl
@[simp] theorem State.modAcq_energy (s : State) (a : Nat) (f : AcqSt → AcqSt) : (s.modAcq a f).energy = s.energy := rfl
@[simp] theorem State.modAcq_ledger (s : State) (a : Nat) (f : AcqSt → AcqSt) : (s.modAcq a f).ledger = s.ledger := rfl
@[simp] theorem State.modAcq_rails (s : State) (a : Nat) (f : AcqSt → AcqSt) : (s.modAcq a f).rails = s.rails := rfl
@[simp] theorem State.modAcq_boot (s : State) (a : Nat) (f : AcqSt → AcqSt) : (s.modAcq a f).boot = s.boot := rfl
@[simp] theorem State.modAcq_brokenPipes (s : State) (a : Nat) (f : AcqSt → AcqSt) : (s.modAcq a f).brokenPipes = s.brokenPipes := rfl
@[simp] theorem State.modAcq_spi (s : State) (a : Nat) (f : AcqSt → AcqSt) : (s.modAcq a f).spi = s.spi := rfl
@[simp] theorem State.modAcq_fuses (s : State) (a : Nat) (f : AcqSt → AcqSt) : (s.modAcq a f).fuses = s.fuses := rfl
@[simp] theorem State.modAcq_fusedSvn (s : State) (a : Nat) (f : AcqSt → AcqSt) : (s.modAcq a f).fusedSvn = s.fusedSvn := rfl
@[simp] theorem State.modAcq_keyHash (s : State) (a : Nat) (f : AcqSt → AcqSt) : (s.modAcq a f).keyHash = s.keyHash := rfl
@[simp] theorem State.modAcq_hashIn (s : State) (a : Nat) (f : AcqSt → AcqSt) : (s.modAcq a f).hashIn = s.hashIn := rfl

/-! modZoom -/
@[simp] theorem State.modZoom_pending (s : State) (t n : Nat) (f : ZoomSt → ZoomSt) : (s.modZoom t n f).pending = s.pending := rfl
@[simp] theorem State.modZoom_part (s : State) (t n : Nat) (f : ZoomSt → ZoomSt) : (s.modZoom t n f).part = s.part := rfl
@[simp] theorem State.modZoom_suffixE (s : State) (t n : Nat) (f : ZoomSt → ZoomSt) : (s.modZoom t n f).suffixE = s.suffixE := rfl
@[simp] theorem State.modZoom_regs (s : State) (t n : Nat) (f : ZoomSt → ZoomSt) : (s.modZoom t n f).regs = s.regs := rfl
@[simp] theorem State.modZoom_live (s : State) (t n : Nat) (f : ZoomSt → ZoomSt) : (s.modZoom t n f).live = s.live := rfl
@[simp] theorem State.modZoom_tabS (s : State) (t n : Nat) (f : ZoomSt → ZoomSt) : (s.modZoom t n f).tabS = s.tabS := rfl
@[simp] theorem State.modZoom_tabL (s : State) (t n : Nat) (f : ZoomSt → ZoomSt) : (s.modZoom t n f).tabL = s.tabL := rfl
@[simp] theorem State.modZoom_force (s : State) (t n : Nat) (f : ZoomSt → ZoomSt) : (s.modZoom t n f).force = s.force := rfl
@[simp] theorem State.modZoom_tabF (s : State) (t n : Nat) (f : ZoomSt → ZoomSt) : (s.modZoom t n f).tabF = s.tabF := rfl
@[simp] theorem State.modZoom_locked (s : State) (t n : Nat) (f : ZoomSt → ZoomSt) : (s.modZoom t n f).locked = s.locked := rfl
@[simp] theorem State.modZoom_cap (s : State) (t n : Nat) (f : ZoomSt → ZoomSt) : (s.modZoom t n f).cap = s.cap := rfl
@[simp] theorem State.modZoom_flight (s : State) (t n : Nat) (f : ZoomSt → ZoomSt) : (s.modZoom t n f).flight = s.flight := rfl
@[simp] theorem State.modZoom_marks (s : State) (t n : Nat) (f : ZoomSt → ZoomSt) : (s.modZoom t n f).marks = s.marks := rfl
@[simp] theorem State.modZoom_drawn (s : State) (t n : Nat) (f : ZoomSt → ZoomSt) : (s.modZoom t n f).drawn = s.drawn := rfl
@[simp] theorem State.modZoom_link (s : State) (t n : Nat) (f : ZoomSt → ZoomSt) : (s.modZoom t n f).link = s.link := rfl
@[simp] theorem State.modZoom_acq (s : State) (t n : Nat) (f : ZoomSt → ZoomSt) : (s.modZoom t n f).acq = s.acq := rfl
@[simp] theorem State.modZoom_jrx (s : State) (t n : Nat) (f : ZoomSt → ZoomSt) : (s.modZoom t n f).jrx = s.jrx := rfl
@[simp] theorem State.modZoom_time (s : State) (t n : Nat) (f : ZoomSt → ZoomSt) : (s.modZoom t n f).time = s.time := rfl
@[simp] theorem State.modZoom_items (s : State) (t n : Nat) (f : ZoomSt → ZoomSt) : (s.modZoom t n f).items = s.items := rfl
@[simp] theorem State.modZoom_traceRing (s : State) (t n : Nat) (f : ZoomSt → ZoomSt) : (s.modZoom t n f).traceRing = s.traceRing := rfl
@[simp] theorem State.modZoom_credits (s : State) (t n : Nat) (f : ZoomSt → ZoomSt) : (s.modZoom t n f).credits = s.credits := rfl
@[simp] theorem State.modZoom_lineOvf (s : State) (t n : Nat) (f : ZoomSt → ZoomSt) : (s.modZoom t n f).lineOvf = s.lineOvf := rfl
@[simp] theorem State.modZoom_codes (s : State) (t n : Nat) (f : ZoomSt → ZoomSt) : (s.modZoom t n f).codes = s.codes := rfl
@[simp] theorem State.modZoom_spares (s : State) (t n : Nat) (f : ZoomSt → ZoomSt) : (s.modZoom t n f).spares = s.spares := rfl
@[simp] theorem State.modZoom_stream (s : State) (t n : Nat) (f : ZoomSt → ZoomSt) : (s.modZoom t n f).stream = s.stream := rfl
@[simp] theorem State.modZoom_readData (s : State) (t n : Nat) (f : ZoomSt → ZoomSt) : (s.modZoom t n f).readData = s.readData := rfl
@[simp] theorem State.modZoom_wb (s : State) (t n : Nat) (f : ZoomSt → ZoomSt) : (s.modZoom t n f).wb = s.wb := rfl
@[simp] theorem State.modZoom_trg (s : State) (t n : Nat) (f : ZoomSt → ZoomSt) : (s.modZoom t n f).trg = s.trg := rfl
@[simp] theorem State.modZoom_trgTx (s : State) (t n : Nat) (f : ZoomSt → ZoomSt) : (s.modZoom t n f).trgTx = s.trgTx := rfl
@[simp] theorem State.modZoom_recs (s : State) (t n : Nat) (f : ZoomSt → ZoomSt) : (s.modZoom t n f).recs = s.recs := rfl
@[simp] theorem State.modZoom_dens (s : State) (t n : Nat) (f : ZoomSt → ZoomSt) : (s.modZoom t n f).dens = s.dens := rfl
@[simp] theorem State.modZoom_cores (s : State) (t n : Nat) (f : ZoomSt → ZoomSt) : (s.modZoom t n f).cores = s.cores := rfl
@[simp] theorem State.modZoom_repairs (s : State) (t n : Nat) (f : ZoomSt → ZoomSt) : (s.modZoom t n f).repairs = s.repairs := rfl
@[simp] theorem State.modZoom_lead (s : State) (t n : Nat) (f : ZoomSt → ZoomSt) : (s.modZoom t n f).lead = s.lead := rfl
@[simp] theorem State.modZoom_tdc (s : State) (t n : Nat) (f : ZoomSt → ZoomSt) : (s.modZoom t n f).tdc = s.tdc := rfl
@[simp] theorem State.modZoom_iv (s : State) (t n : Nat) (f : ZoomSt → ZoomSt) : (s.modZoom t n f).iv = s.iv := rfl
@[simp] theorem State.modZoom_tdcCheck (s : State) (t n : Nat) (f : ZoomSt → ZoomSt) : (s.modZoom t n f).tdcCheck = s.tdcCheck := rfl
@[simp] theorem State.modZoom_ddr (s : State) (t n : Nat) (f : ZoomSt → ZoomSt) : (s.modZoom t n f).ddr = s.ddr := rfl
@[simp] theorem State.modZoom_nfs (s : State) (t n : Nat) (f : ZoomSt → ZoomSt) : (s.modZoom t n f).nfs = s.nfs := rfl
@[simp] theorem State.modZoom_powerGood (s : State) (t n : Nat) (f : ZoomSt → ZoomSt) : (s.modZoom t n f).powerGood = s.powerGood := rfl
@[simp] theorem State.modZoom_resetLow (s : State) (t n : Nat) (f : ZoomSt → ZoomSt) : (s.modZoom t n f).resetLow = s.resetLow := rfl
@[simp] theorem State.modZoom_clk (s : State) (t n : Nat) (f : ZoomSt → ZoomSt) : (s.modZoom t n f).clk = s.clk := rfl
@[simp] theorem State.modZoom_enabledIn (s : State) (t n : Nat) (f : ZoomSt → ZoomSt) : (s.modZoom t n f).enabledIn = s.enabledIn := rfl
@[simp] theorem State.modZoom_enableStep (s : State) (t n : Nat) (f : ZoomSt → ZoomSt) : (s.modZoom t n f).enableStep = s.enableStep := rfl
@[simp] theorem State.modZoom_hk (s : State) (t n : Nat) (f : ZoomSt → ZoomSt) : (s.modZoom t n f).hk = s.hk := rfl
@[simp] theorem State.modZoom_pairs (s : State) (t n : Nat) (f : ZoomSt → ZoomSt) : (s.modZoom t n f).pairs = s.pairs := rfl
@[simp] theorem State.modZoom_pwm (s : State) (t n : Nat) (f : ZoomSt → ZoomSt) : (s.modZoom t n f).pwm = s.pwm := rfl
@[simp] theorem State.modZoom_hkAt (s : State) (t n : Nat) (f : ZoomSt → ZoomSt) : (s.modZoom t n f).hkAt = s.hkAt := rfl
@[simp] theorem State.modZoom_powered (s : State) (t n : Nat) (f : ZoomSt → ZoomSt) : (s.modZoom t n f).powered = s.powered := rfl
@[simp] theorem State.modZoom_hotLost (s : State) (t n : Nat) (f : ZoomSt → ZoomSt) : (s.modZoom t n f).hotLost = s.hotLost := rfl
@[simp] theorem State.modZoom_disp (s : State) (t n : Nat) (f : ZoomSt → ZoomSt) : (s.modZoom t n f).disp = s.disp := rfl
@[simp] theorem State.modZoom_dma (s : State) (t n : Nat) (f : ZoomSt → ZoomSt) : (s.modZoom t n f).dma = s.dma := rfl
@[simp] theorem State.modZoom_dmaMem (s : State) (t n : Nat) (f : ZoomSt → ZoomSt) : (s.modZoom t n f).dmaMem = s.dmaMem := rfl
@[simp] theorem State.modZoom_eth (s : State) (t n : Nat) (f : ZoomSt → ZoomSt) : (s.modZoom t n f).eth = s.eth := rfl
@[simp] theorem State.modZoom_strs (s : State) (t n : Nat) (f : ZoomSt → ZoomSt) : (s.modZoom t n f).strs = s.strs := rfl
@[simp] theorem State.modZoom_access (s : State) (t n : Nat) (f : ZoomSt → ZoomSt) : (s.modZoom t n f).access = s.access := rfl
@[simp] theorem State.modZoom_fcol (s : State) (t n : Nat) (f : ZoomSt → ZoomSt) : (s.modZoom t n f).fcol = s.fcol := rfl
@[simp] theorem State.modZoom_aliveRuns (s : State) (t n : Nat) (f : ZoomSt → ZoomSt) : (s.modZoom t n f).aliveRuns = s.aliveRuns := rfl
@[simp] theorem State.modZoom_alive (s : State) (t n : Nat) (f : ZoomSt → ZoomSt) : (s.modZoom t n f).alive = s.alive := rfl
@[simp] theorem State.modZoom_controlLost (s : State) (t n : Nat) (f : ZoomSt → ZoomSt) : (s.modZoom t n f).controlLost = s.controlLost := rfl
@[simp] theorem State.modZoom_beatsMissed (s : State) (t n : Nat) (f : ZoomSt → ZoomSt) : (s.modZoom t n f).beatsMissed = s.beatsMissed := rfl
@[simp] theorem State.modZoom_mbox (s : State) (t n : Nat) (f : ZoomSt → ZoomSt) : (s.modZoom t n f).mbox = s.mbox := rfl
@[simp] theorem State.modZoom_plans (s : State) (t n : Nat) (f : ZoomSt → ZoomSt) : (s.modZoom t n f).plans = s.plans := rfl
@[simp] theorem State.modZoom_planCmds (s : State) (t n : Nat) (f : ZoomSt → ZoomSt) : (s.modZoom t n f).planCmds = s.planCmds := rfl
@[simp] theorem State.modZoom_admissions (s : State) (t n : Nat) (f : ZoomSt → ZoomSt) : (s.modZoom t n f).admissions = s.admissions := rfl
@[simp] theorem State.modZoom_energy (s : State) (t n : Nat) (f : ZoomSt → ZoomSt) : (s.modZoom t n f).energy = s.energy := rfl
@[simp] theorem State.modZoom_ledger (s : State) (t n : Nat) (f : ZoomSt → ZoomSt) : (s.modZoom t n f).ledger = s.ledger := rfl
@[simp] theorem State.modZoom_rails (s : State) (t n : Nat) (f : ZoomSt → ZoomSt) : (s.modZoom t n f).rails = s.rails := rfl
@[simp] theorem State.modZoom_boot (s : State) (t n : Nat) (f : ZoomSt → ZoomSt) : (s.modZoom t n f).boot = s.boot := rfl
@[simp] theorem State.modZoom_brokenPipes (s : State) (t n : Nat) (f : ZoomSt → ZoomSt) : (s.modZoom t n f).brokenPipes = s.brokenPipes := rfl
@[simp] theorem State.modZoom_spi (s : State) (t n : Nat) (f : ZoomSt → ZoomSt) : (s.modZoom t n f).spi = s.spi := rfl
@[simp] theorem State.modZoom_fuses (s : State) (t n : Nat) (f : ZoomSt → ZoomSt) : (s.modZoom t n f).fuses = s.fuses := rfl
@[simp] theorem State.modZoom_fusedSvn (s : State) (t n : Nat) (f : ZoomSt → ZoomSt) : (s.modZoom t n f).fusedSvn = s.fusedSvn := rfl
@[simp] theorem State.modZoom_keyHash (s : State) (t n : Nat) (f : ZoomSt → ZoomSt) : (s.modZoom t n f).keyHash = s.keyHash := rfl
@[simp] theorem State.modZoom_hashIn (s : State) (t n : Nat) (f : ZoomSt → ZoomSt) : (s.modZoom t n f).hashIn = s.hashIn := rfl

/-! modRepair -/
@[simp] theorem State.modRepair_pending (s : State) (h : Nat) (f : RepairSt → RepairSt) : (s.modRepair h f).pending = s.pending := rfl
@[simp] theorem State.modRepair_part (s : State) (h : Nat) (f : RepairSt → RepairSt) : (s.modRepair h f).part = s.part := rfl
@[simp] theorem State.modRepair_suffixE (s : State) (h : Nat) (f : RepairSt → RepairSt) : (s.modRepair h f).suffixE = s.suffixE := rfl
@[simp] theorem State.modRepair_regs (s : State) (h : Nat) (f : RepairSt → RepairSt) : (s.modRepair h f).regs = s.regs := rfl
@[simp] theorem State.modRepair_live (s : State) (h : Nat) (f : RepairSt → RepairSt) : (s.modRepair h f).live = s.live := rfl
@[simp] theorem State.modRepair_tabS (s : State) (h : Nat) (f : RepairSt → RepairSt) : (s.modRepair h f).tabS = s.tabS := rfl
@[simp] theorem State.modRepair_tabL (s : State) (h : Nat) (f : RepairSt → RepairSt) : (s.modRepair h f).tabL = s.tabL := rfl
@[simp] theorem State.modRepair_force (s : State) (h : Nat) (f : RepairSt → RepairSt) : (s.modRepair h f).force = s.force := rfl
@[simp] theorem State.modRepair_tabF (s : State) (h : Nat) (f : RepairSt → RepairSt) : (s.modRepair h f).tabF = s.tabF := rfl
@[simp] theorem State.modRepair_locked (s : State) (h : Nat) (f : RepairSt → RepairSt) : (s.modRepair h f).locked = s.locked := rfl
@[simp] theorem State.modRepair_cap (s : State) (h : Nat) (f : RepairSt → RepairSt) : (s.modRepair h f).cap = s.cap := rfl
@[simp] theorem State.modRepair_flight (s : State) (h : Nat) (f : RepairSt → RepairSt) : (s.modRepair h f).flight = s.flight := rfl
@[simp] theorem State.modRepair_marks (s : State) (h : Nat) (f : RepairSt → RepairSt) : (s.modRepair h f).marks = s.marks := rfl
@[simp] theorem State.modRepair_drawn (s : State) (h : Nat) (f : RepairSt → RepairSt) : (s.modRepair h f).drawn = s.drawn := rfl
@[simp] theorem State.modRepair_link (s : State) (h : Nat) (f : RepairSt → RepairSt) : (s.modRepair h f).link = s.link := rfl
@[simp] theorem State.modRepair_acq (s : State) (h : Nat) (f : RepairSt → RepairSt) : (s.modRepair h f).acq = s.acq := rfl
@[simp] theorem State.modRepair_jrx (s : State) (h : Nat) (f : RepairSt → RepairSt) : (s.modRepair h f).jrx = s.jrx := rfl
@[simp] theorem State.modRepair_time (s : State) (h : Nat) (f : RepairSt → RepairSt) : (s.modRepair h f).time = s.time := rfl
@[simp] theorem State.modRepair_items (s : State) (h : Nat) (f : RepairSt → RepairSt) : (s.modRepair h f).items = s.items := rfl
@[simp] theorem State.modRepair_traceRing (s : State) (h : Nat) (f : RepairSt → RepairSt) : (s.modRepair h f).traceRing = s.traceRing := rfl
@[simp] theorem State.modRepair_credits (s : State) (h : Nat) (f : RepairSt → RepairSt) : (s.modRepair h f).credits = s.credits := rfl
@[simp] theorem State.modRepair_lineOvf (s : State) (h : Nat) (f : RepairSt → RepairSt) : (s.modRepair h f).lineOvf = s.lineOvf := rfl
@[simp] theorem State.modRepair_codes (s : State) (h : Nat) (f : RepairSt → RepairSt) : (s.modRepair h f).codes = s.codes := rfl
@[simp] theorem State.modRepair_spares (s : State) (h : Nat) (f : RepairSt → RepairSt) : (s.modRepair h f).spares = s.spares := rfl
@[simp] theorem State.modRepair_stream (s : State) (h : Nat) (f : RepairSt → RepairSt) : (s.modRepair h f).stream = s.stream := rfl
@[simp] theorem State.modRepair_readData (s : State) (h : Nat) (f : RepairSt → RepairSt) : (s.modRepair h f).readData = s.readData := rfl
@[simp] theorem State.modRepair_wb (s : State) (h : Nat) (f : RepairSt → RepairSt) : (s.modRepair h f).wb = s.wb := rfl
@[simp] theorem State.modRepair_trg (s : State) (h : Nat) (f : RepairSt → RepairSt) : (s.modRepair h f).trg = s.trg := rfl
@[simp] theorem State.modRepair_trgTx (s : State) (h : Nat) (f : RepairSt → RepairSt) : (s.modRepair h f).trgTx = s.trgTx := rfl
@[simp] theorem State.modRepair_recs (s : State) (h : Nat) (f : RepairSt → RepairSt) : (s.modRepair h f).recs = s.recs := rfl
@[simp] theorem State.modRepair_dens (s : State) (h : Nat) (f : RepairSt → RepairSt) : (s.modRepair h f).dens = s.dens := rfl
@[simp] theorem State.modRepair_cores (s : State) (h : Nat) (f : RepairSt → RepairSt) : (s.modRepair h f).cores = s.cores := rfl
@[simp] theorem State.modRepair_zooms (s : State) (h : Nat) (f : RepairSt → RepairSt) : (s.modRepair h f).zooms = s.zooms := rfl
@[simp] theorem State.modRepair_lead (s : State) (h : Nat) (f : RepairSt → RepairSt) : (s.modRepair h f).lead = s.lead := rfl
@[simp] theorem State.modRepair_tdc (s : State) (h : Nat) (f : RepairSt → RepairSt) : (s.modRepair h f).tdc = s.tdc := rfl
@[simp] theorem State.modRepair_iv (s : State) (h : Nat) (f : RepairSt → RepairSt) : (s.modRepair h f).iv = s.iv := rfl
@[simp] theorem State.modRepair_tdcCheck (s : State) (h : Nat) (f : RepairSt → RepairSt) : (s.modRepair h f).tdcCheck = s.tdcCheck := rfl
@[simp] theorem State.modRepair_ddr (s : State) (h : Nat) (f : RepairSt → RepairSt) : (s.modRepair h f).ddr = s.ddr := rfl
@[simp] theorem State.modRepair_nfs (s : State) (h : Nat) (f : RepairSt → RepairSt) : (s.modRepair h f).nfs = s.nfs := rfl
@[simp] theorem State.modRepair_powerGood (s : State) (h : Nat) (f : RepairSt → RepairSt) : (s.modRepair h f).powerGood = s.powerGood := rfl
@[simp] theorem State.modRepair_resetLow (s : State) (h : Nat) (f : RepairSt → RepairSt) : (s.modRepair h f).resetLow = s.resetLow := rfl
@[simp] theorem State.modRepair_clk (s : State) (h : Nat) (f : RepairSt → RepairSt) : (s.modRepair h f).clk = s.clk := rfl
@[simp] theorem State.modRepair_enabledIn (s : State) (h : Nat) (f : RepairSt → RepairSt) : (s.modRepair h f).enabledIn = s.enabledIn := rfl
@[simp] theorem State.modRepair_enableStep (s : State) (h : Nat) (f : RepairSt → RepairSt) : (s.modRepair h f).enableStep = s.enableStep := rfl
@[simp] theorem State.modRepair_hk (s : State) (h : Nat) (f : RepairSt → RepairSt) : (s.modRepair h f).hk = s.hk := rfl
@[simp] theorem State.modRepair_pairs (s : State) (h : Nat) (f : RepairSt → RepairSt) : (s.modRepair h f).pairs = s.pairs := rfl
@[simp] theorem State.modRepair_pwm (s : State) (h : Nat) (f : RepairSt → RepairSt) : (s.modRepair h f).pwm = s.pwm := rfl
@[simp] theorem State.modRepair_hkAt (s : State) (h : Nat) (f : RepairSt → RepairSt) : (s.modRepair h f).hkAt = s.hkAt := rfl
@[simp] theorem State.modRepair_powered (s : State) (h : Nat) (f : RepairSt → RepairSt) : (s.modRepair h f).powered = s.powered := rfl
@[simp] theorem State.modRepair_hotLost (s : State) (h : Nat) (f : RepairSt → RepairSt) : (s.modRepair h f).hotLost = s.hotLost := rfl
@[simp] theorem State.modRepair_disp (s : State) (h : Nat) (f : RepairSt → RepairSt) : (s.modRepair h f).disp = s.disp := rfl
@[simp] theorem State.modRepair_dma (s : State) (h : Nat) (f : RepairSt → RepairSt) : (s.modRepair h f).dma = s.dma := rfl
@[simp] theorem State.modRepair_dmaMem (s : State) (h : Nat) (f : RepairSt → RepairSt) : (s.modRepair h f).dmaMem = s.dmaMem := rfl
@[simp] theorem State.modRepair_eth (s : State) (h : Nat) (f : RepairSt → RepairSt) : (s.modRepair h f).eth = s.eth := rfl
@[simp] theorem State.modRepair_strs (s : State) (h : Nat) (f : RepairSt → RepairSt) : (s.modRepair h f).strs = s.strs := rfl
@[simp] theorem State.modRepair_access (s : State) (h : Nat) (f : RepairSt → RepairSt) : (s.modRepair h f).access = s.access := rfl
@[simp] theorem State.modRepair_fcol (s : State) (h : Nat) (f : RepairSt → RepairSt) : (s.modRepair h f).fcol = s.fcol := rfl
@[simp] theorem State.modRepair_aliveRuns (s : State) (h : Nat) (f : RepairSt → RepairSt) : (s.modRepair h f).aliveRuns = s.aliveRuns := rfl
@[simp] theorem State.modRepair_alive (s : State) (h : Nat) (f : RepairSt → RepairSt) : (s.modRepair h f).alive = s.alive := rfl
@[simp] theorem State.modRepair_controlLost (s : State) (h : Nat) (f : RepairSt → RepairSt) : (s.modRepair h f).controlLost = s.controlLost := rfl
@[simp] theorem State.modRepair_beatsMissed (s : State) (h : Nat) (f : RepairSt → RepairSt) : (s.modRepair h f).beatsMissed = s.beatsMissed := rfl
@[simp] theorem State.modRepair_mbox (s : State) (h : Nat) (f : RepairSt → RepairSt) : (s.modRepair h f).mbox = s.mbox := rfl
@[simp] theorem State.modRepair_plans (s : State) (h : Nat) (f : RepairSt → RepairSt) : (s.modRepair h f).plans = s.plans := rfl
@[simp] theorem State.modRepair_planCmds (s : State) (h : Nat) (f : RepairSt → RepairSt) : (s.modRepair h f).planCmds = s.planCmds := rfl
@[simp] theorem State.modRepair_admissions (s : State) (h : Nat) (f : RepairSt → RepairSt) : (s.modRepair h f).admissions = s.admissions := rfl
@[simp] theorem State.modRepair_energy (s : State) (h : Nat) (f : RepairSt → RepairSt) : (s.modRepair h f).energy = s.energy := rfl
@[simp] theorem State.modRepair_ledger (s : State) (h : Nat) (f : RepairSt → RepairSt) : (s.modRepair h f).ledger = s.ledger := rfl
@[simp] theorem State.modRepair_rails (s : State) (h : Nat) (f : RepairSt → RepairSt) : (s.modRepair h f).rails = s.rails := rfl
@[simp] theorem State.modRepair_boot (s : State) (h : Nat) (f : RepairSt → RepairSt) : (s.modRepair h f).boot = s.boot := rfl
@[simp] theorem State.modRepair_brokenPipes (s : State) (h : Nat) (f : RepairSt → RepairSt) : (s.modRepair h f).brokenPipes = s.brokenPipes := rfl
@[simp] theorem State.modRepair_spi (s : State) (h : Nat) (f : RepairSt → RepairSt) : (s.modRepair h f).spi = s.spi := rfl
@[simp] theorem State.modRepair_fuses (s : State) (h : Nat) (f : RepairSt → RepairSt) : (s.modRepair h f).fuses = s.fuses := rfl
@[simp] theorem State.modRepair_fusedSvn (s : State) (h : Nat) (f : RepairSt → RepairSt) : (s.modRepair h f).fusedSvn = s.fusedSvn := rfl
@[simp] theorem State.modRepair_keyHash (s : State) (h : Nat) (f : RepairSt → RepairSt) : (s.modRepair h f).keyHash = s.keyHash := rfl
@[simp] theorem State.modRepair_hashIn (s : State) (h : Nat) (f : RepairSt → RepairSt) : (s.modRepair h f).hashIn = s.hashIn := rfl

/-! modClk -/
@[simp] theorem State.modClk_pending (s : State) (h : Nat) (f : ClkSt → ClkSt) : (s.modClk h f).pending = s.pending := rfl
@[simp] theorem State.modClk_part (s : State) (h : Nat) (f : ClkSt → ClkSt) : (s.modClk h f).part = s.part := rfl
@[simp] theorem State.modClk_suffixE (s : State) (h : Nat) (f : ClkSt → ClkSt) : (s.modClk h f).suffixE = s.suffixE := rfl
@[simp] theorem State.modClk_regs (s : State) (h : Nat) (f : ClkSt → ClkSt) : (s.modClk h f).regs = s.regs := rfl
@[simp] theorem State.modClk_live (s : State) (h : Nat) (f : ClkSt → ClkSt) : (s.modClk h f).live = s.live := rfl
@[simp] theorem State.modClk_tabS (s : State) (h : Nat) (f : ClkSt → ClkSt) : (s.modClk h f).tabS = s.tabS := rfl
@[simp] theorem State.modClk_tabL (s : State) (h : Nat) (f : ClkSt → ClkSt) : (s.modClk h f).tabL = s.tabL := rfl
@[simp] theorem State.modClk_force (s : State) (h : Nat) (f : ClkSt → ClkSt) : (s.modClk h f).force = s.force := rfl
@[simp] theorem State.modClk_tabF (s : State) (h : Nat) (f : ClkSt → ClkSt) : (s.modClk h f).tabF = s.tabF := rfl
@[simp] theorem State.modClk_locked (s : State) (h : Nat) (f : ClkSt → ClkSt) : (s.modClk h f).locked = s.locked := rfl
@[simp] theorem State.modClk_cap (s : State) (h : Nat) (f : ClkSt → ClkSt) : (s.modClk h f).cap = s.cap := rfl
@[simp] theorem State.modClk_flight (s : State) (h : Nat) (f : ClkSt → ClkSt) : (s.modClk h f).flight = s.flight := rfl
@[simp] theorem State.modClk_marks (s : State) (h : Nat) (f : ClkSt → ClkSt) : (s.modClk h f).marks = s.marks := rfl
@[simp] theorem State.modClk_drawn (s : State) (h : Nat) (f : ClkSt → ClkSt) : (s.modClk h f).drawn = s.drawn := rfl
@[simp] theorem State.modClk_link (s : State) (h : Nat) (f : ClkSt → ClkSt) : (s.modClk h f).link = s.link := rfl
@[simp] theorem State.modClk_acq (s : State) (h : Nat) (f : ClkSt → ClkSt) : (s.modClk h f).acq = s.acq := rfl
@[simp] theorem State.modClk_jrx (s : State) (h : Nat) (f : ClkSt → ClkSt) : (s.modClk h f).jrx = s.jrx := rfl
@[simp] theorem State.modClk_time (s : State) (h : Nat) (f : ClkSt → ClkSt) : (s.modClk h f).time = s.time := rfl
@[simp] theorem State.modClk_items (s : State) (h : Nat) (f : ClkSt → ClkSt) : (s.modClk h f).items = s.items := rfl
@[simp] theorem State.modClk_traceRing (s : State) (h : Nat) (f : ClkSt → ClkSt) : (s.modClk h f).traceRing = s.traceRing := rfl
@[simp] theorem State.modClk_credits (s : State) (h : Nat) (f : ClkSt → ClkSt) : (s.modClk h f).credits = s.credits := rfl
@[simp] theorem State.modClk_lineOvf (s : State) (h : Nat) (f : ClkSt → ClkSt) : (s.modClk h f).lineOvf = s.lineOvf := rfl
@[simp] theorem State.modClk_codes (s : State) (h : Nat) (f : ClkSt → ClkSt) : (s.modClk h f).codes = s.codes := rfl
@[simp] theorem State.modClk_spares (s : State) (h : Nat) (f : ClkSt → ClkSt) : (s.modClk h f).spares = s.spares := rfl
@[simp] theorem State.modClk_stream (s : State) (h : Nat) (f : ClkSt → ClkSt) : (s.modClk h f).stream = s.stream := rfl
@[simp] theorem State.modClk_readData (s : State) (h : Nat) (f : ClkSt → ClkSt) : (s.modClk h f).readData = s.readData := rfl
@[simp] theorem State.modClk_wb (s : State) (h : Nat) (f : ClkSt → ClkSt) : (s.modClk h f).wb = s.wb := rfl
@[simp] theorem State.modClk_trg (s : State) (h : Nat) (f : ClkSt → ClkSt) : (s.modClk h f).trg = s.trg := rfl
@[simp] theorem State.modClk_trgTx (s : State) (h : Nat) (f : ClkSt → ClkSt) : (s.modClk h f).trgTx = s.trgTx := rfl
@[simp] theorem State.modClk_recs (s : State) (h : Nat) (f : ClkSt → ClkSt) : (s.modClk h f).recs = s.recs := rfl
@[simp] theorem State.modClk_dens (s : State) (h : Nat) (f : ClkSt → ClkSt) : (s.modClk h f).dens = s.dens := rfl
@[simp] theorem State.modClk_cores (s : State) (h : Nat) (f : ClkSt → ClkSt) : (s.modClk h f).cores = s.cores := rfl
@[simp] theorem State.modClk_zooms (s : State) (h : Nat) (f : ClkSt → ClkSt) : (s.modClk h f).zooms = s.zooms := rfl
@[simp] theorem State.modClk_repairs (s : State) (h : Nat) (f : ClkSt → ClkSt) : (s.modClk h f).repairs = s.repairs := rfl
@[simp] theorem State.modClk_lead (s : State) (h : Nat) (f : ClkSt → ClkSt) : (s.modClk h f).lead = s.lead := rfl
@[simp] theorem State.modClk_tdc (s : State) (h : Nat) (f : ClkSt → ClkSt) : (s.modClk h f).tdc = s.tdc := rfl
@[simp] theorem State.modClk_iv (s : State) (h : Nat) (f : ClkSt → ClkSt) : (s.modClk h f).iv = s.iv := rfl
@[simp] theorem State.modClk_tdcCheck (s : State) (h : Nat) (f : ClkSt → ClkSt) : (s.modClk h f).tdcCheck = s.tdcCheck := rfl
@[simp] theorem State.modClk_ddr (s : State) (h : Nat) (f : ClkSt → ClkSt) : (s.modClk h f).ddr = s.ddr := rfl
@[simp] theorem State.modClk_nfs (s : State) (h : Nat) (f : ClkSt → ClkSt) : (s.modClk h f).nfs = s.nfs := rfl
@[simp] theorem State.modClk_powerGood (s : State) (h : Nat) (f : ClkSt → ClkSt) : (s.modClk h f).powerGood = s.powerGood := rfl
@[simp] theorem State.modClk_resetLow (s : State) (h : Nat) (f : ClkSt → ClkSt) : (s.modClk h f).resetLow = s.resetLow := rfl
@[simp] theorem State.modClk_enabledIn (s : State) (h : Nat) (f : ClkSt → ClkSt) : (s.modClk h f).enabledIn = s.enabledIn := rfl
@[simp] theorem State.modClk_enableStep (s : State) (h : Nat) (f : ClkSt → ClkSt) : (s.modClk h f).enableStep = s.enableStep := rfl
@[simp] theorem State.modClk_hk (s : State) (h : Nat) (f : ClkSt → ClkSt) : (s.modClk h f).hk = s.hk := rfl
@[simp] theorem State.modClk_pairs (s : State) (h : Nat) (f : ClkSt → ClkSt) : (s.modClk h f).pairs = s.pairs := rfl
@[simp] theorem State.modClk_pwm (s : State) (h : Nat) (f : ClkSt → ClkSt) : (s.modClk h f).pwm = s.pwm := rfl
@[simp] theorem State.modClk_hkAt (s : State) (h : Nat) (f : ClkSt → ClkSt) : (s.modClk h f).hkAt = s.hkAt := rfl
@[simp] theorem State.modClk_powered (s : State) (h : Nat) (f : ClkSt → ClkSt) : (s.modClk h f).powered = s.powered := rfl
@[simp] theorem State.modClk_hotLost (s : State) (h : Nat) (f : ClkSt → ClkSt) : (s.modClk h f).hotLost = s.hotLost := rfl
@[simp] theorem State.modClk_disp (s : State) (h : Nat) (f : ClkSt → ClkSt) : (s.modClk h f).disp = s.disp := rfl
@[simp] theorem State.modClk_dma (s : State) (h : Nat) (f : ClkSt → ClkSt) : (s.modClk h f).dma = s.dma := rfl
@[simp] theorem State.modClk_dmaMem (s : State) (h : Nat) (f : ClkSt → ClkSt) : (s.modClk h f).dmaMem = s.dmaMem := rfl
@[simp] theorem State.modClk_eth (s : State) (h : Nat) (f : ClkSt → ClkSt) : (s.modClk h f).eth = s.eth := rfl
@[simp] theorem State.modClk_strs (s : State) (h : Nat) (f : ClkSt → ClkSt) : (s.modClk h f).strs = s.strs := rfl
@[simp] theorem State.modClk_access (s : State) (h : Nat) (f : ClkSt → ClkSt) : (s.modClk h f).access = s.access := rfl
@[simp] theorem State.modClk_fcol (s : State) (h : Nat) (f : ClkSt → ClkSt) : (s.modClk h f).fcol = s.fcol := rfl
@[simp] theorem State.modClk_aliveRuns (s : State) (h : Nat) (f : ClkSt → ClkSt) : (s.modClk h f).aliveRuns = s.aliveRuns := rfl
@[simp] theorem State.modClk_alive (s : State) (h : Nat) (f : ClkSt → ClkSt) : (s.modClk h f).alive = s.alive := rfl
@[simp] theorem State.modClk_controlLost (s : State) (h : Nat) (f : ClkSt → ClkSt) : (s.modClk h f).controlLost = s.controlLost := rfl
@[simp] theorem State.modClk_beatsMissed (s : State) (h : Nat) (f : ClkSt → ClkSt) : (s.modClk h f).beatsMissed = s.beatsMissed := rfl
@[simp] theorem State.modClk_mbox (s : State) (h : Nat) (f : ClkSt → ClkSt) : (s.modClk h f).mbox = s.mbox := rfl
@[simp] theorem State.modClk_plans (s : State) (h : Nat) (f : ClkSt → ClkSt) : (s.modClk h f).plans = s.plans := rfl
@[simp] theorem State.modClk_planCmds (s : State) (h : Nat) (f : ClkSt → ClkSt) : (s.modClk h f).planCmds = s.planCmds := rfl
@[simp] theorem State.modClk_admissions (s : State) (h : Nat) (f : ClkSt → ClkSt) : (s.modClk h f).admissions = s.admissions := rfl
@[simp] theorem State.modClk_energy (s : State) (h : Nat) (f : ClkSt → ClkSt) : (s.modClk h f).energy = s.energy := rfl
@[simp] theorem State.modClk_ledger (s : State) (h : Nat) (f : ClkSt → ClkSt) : (s.modClk h f).ledger = s.ledger := rfl
@[simp] theorem State.modClk_rails (s : State) (h : Nat) (f : ClkSt → ClkSt) : (s.modClk h f).rails = s.rails := rfl
@[simp] theorem State.modClk_boot (s : State) (h : Nat) (f : ClkSt → ClkSt) : (s.modClk h f).boot = s.boot := rfl
@[simp] theorem State.modClk_brokenPipes (s : State) (h : Nat) (f : ClkSt → ClkSt) : (s.modClk h f).brokenPipes = s.brokenPipes := rfl
@[simp] theorem State.modClk_spi (s : State) (h : Nat) (f : ClkSt → ClkSt) : (s.modClk h f).spi = s.spi := rfl
@[simp] theorem State.modClk_fuses (s : State) (h : Nat) (f : ClkSt → ClkSt) : (s.modClk h f).fuses = s.fuses := rfl
@[simp] theorem State.modClk_fusedSvn (s : State) (h : Nat) (f : ClkSt → ClkSt) : (s.modClk h f).fusedSvn = s.fusedSvn := rfl
@[simp] theorem State.modClk_keyHash (s : State) (h : Nat) (f : ClkSt → ClkSt) : (s.modClk h f).keyHash = s.keyHash := rfl
@[simp] theorem State.modClk_hashIn (s : State) (h : Nat) (f : ClkSt → ClkSt) : (s.modClk h f).hashIn = s.hashIn := rfl

/-! modCore -/
@[simp] theorem State.modCore_pending (s : State) (t c : Nat) (f : CoreSt → CoreSt) : (s.modCore t c f).pending = s.pending := rfl
@[simp] theorem State.modCore_part (s : State) (t c : Nat) (f : CoreSt → CoreSt) : (s.modCore t c f).part = s.part := rfl
@[simp] theorem State.modCore_suffixE (s : State) (t c : Nat) (f : CoreSt → CoreSt) : (s.modCore t c f).suffixE = s.suffixE := rfl
@[simp] theorem State.modCore_regs (s : State) (t c : Nat) (f : CoreSt → CoreSt) : (s.modCore t c f).regs = s.regs := rfl
@[simp] theorem State.modCore_live (s : State) (t c : Nat) (f : CoreSt → CoreSt) : (s.modCore t c f).live = s.live := rfl
@[simp] theorem State.modCore_tabS (s : State) (t c : Nat) (f : CoreSt → CoreSt) : (s.modCore t c f).tabS = s.tabS := rfl
@[simp] theorem State.modCore_tabL (s : State) (t c : Nat) (f : CoreSt → CoreSt) : (s.modCore t c f).tabL = s.tabL := rfl
@[simp] theorem State.modCore_force (s : State) (t c : Nat) (f : CoreSt → CoreSt) : (s.modCore t c f).force = s.force := rfl
@[simp] theorem State.modCore_tabF (s : State) (t c : Nat) (f : CoreSt → CoreSt) : (s.modCore t c f).tabF = s.tabF := rfl
@[simp] theorem State.modCore_locked (s : State) (t c : Nat) (f : CoreSt → CoreSt) : (s.modCore t c f).locked = s.locked := rfl
@[simp] theorem State.modCore_cap (s : State) (t c : Nat) (f : CoreSt → CoreSt) : (s.modCore t c f).cap = s.cap := rfl
@[simp] theorem State.modCore_flight (s : State) (t c : Nat) (f : CoreSt → CoreSt) : (s.modCore t c f).flight = s.flight := rfl
@[simp] theorem State.modCore_marks (s : State) (t c : Nat) (f : CoreSt → CoreSt) : (s.modCore t c f).marks = s.marks := rfl
@[simp] theorem State.modCore_drawn (s : State) (t c : Nat) (f : CoreSt → CoreSt) : (s.modCore t c f).drawn = s.drawn := rfl
@[simp] theorem State.modCore_link (s : State) (t c : Nat) (f : CoreSt → CoreSt) : (s.modCore t c f).link = s.link := rfl
@[simp] theorem State.modCore_acq (s : State) (t c : Nat) (f : CoreSt → CoreSt) : (s.modCore t c f).acq = s.acq := rfl
@[simp] theorem State.modCore_jrx (s : State) (t c : Nat) (f : CoreSt → CoreSt) : (s.modCore t c f).jrx = s.jrx := rfl
@[simp] theorem State.modCore_time (s : State) (t c : Nat) (f : CoreSt → CoreSt) : (s.modCore t c f).time = s.time := rfl
@[simp] theorem State.modCore_items (s : State) (t c : Nat) (f : CoreSt → CoreSt) : (s.modCore t c f).items = s.items := rfl
@[simp] theorem State.modCore_traceRing (s : State) (t c : Nat) (f : CoreSt → CoreSt) : (s.modCore t c f).traceRing = s.traceRing := rfl
@[simp] theorem State.modCore_credits (s : State) (t c : Nat) (f : CoreSt → CoreSt) : (s.modCore t c f).credits = s.credits := rfl
@[simp] theorem State.modCore_lineOvf (s : State) (t c : Nat) (f : CoreSt → CoreSt) : (s.modCore t c f).lineOvf = s.lineOvf := rfl
@[simp] theorem State.modCore_codes (s : State) (t c : Nat) (f : CoreSt → CoreSt) : (s.modCore t c f).codes = s.codes := rfl
@[simp] theorem State.modCore_spares (s : State) (t c : Nat) (f : CoreSt → CoreSt) : (s.modCore t c f).spares = s.spares := rfl
@[simp] theorem State.modCore_stream (s : State) (t c : Nat) (f : CoreSt → CoreSt) : (s.modCore t c f).stream = s.stream := rfl
@[simp] theorem State.modCore_readData (s : State) (t c : Nat) (f : CoreSt → CoreSt) : (s.modCore t c f).readData = s.readData := rfl
@[simp] theorem State.modCore_wb (s : State) (t c : Nat) (f : CoreSt → CoreSt) : (s.modCore t c f).wb = s.wb := rfl
@[simp] theorem State.modCore_trg (s : State) (t c : Nat) (f : CoreSt → CoreSt) : (s.modCore t c f).trg = s.trg := rfl
@[simp] theorem State.modCore_trgTx (s : State) (t c : Nat) (f : CoreSt → CoreSt) : (s.modCore t c f).trgTx = s.trgTx := rfl
@[simp] theorem State.modCore_recs (s : State) (t c : Nat) (f : CoreSt → CoreSt) : (s.modCore t c f).recs = s.recs := rfl
@[simp] theorem State.modCore_dens (s : State) (t c : Nat) (f : CoreSt → CoreSt) : (s.modCore t c f).dens = s.dens := rfl
@[simp] theorem State.modCore_zooms (s : State) (t c : Nat) (f : CoreSt → CoreSt) : (s.modCore t c f).zooms = s.zooms := rfl
@[simp] theorem State.modCore_repairs (s : State) (t c : Nat) (f : CoreSt → CoreSt) : (s.modCore t c f).repairs = s.repairs := rfl
@[simp] theorem State.modCore_lead (s : State) (t c : Nat) (f : CoreSt → CoreSt) : (s.modCore t c f).lead = s.lead := rfl
@[simp] theorem State.modCore_tdc (s : State) (t c : Nat) (f : CoreSt → CoreSt) : (s.modCore t c f).tdc = s.tdc := rfl
@[simp] theorem State.modCore_iv (s : State) (t c : Nat) (f : CoreSt → CoreSt) : (s.modCore t c f).iv = s.iv := rfl
@[simp] theorem State.modCore_tdcCheck (s : State) (t c : Nat) (f : CoreSt → CoreSt) : (s.modCore t c f).tdcCheck = s.tdcCheck := rfl
@[simp] theorem State.modCore_ddr (s : State) (t c : Nat) (f : CoreSt → CoreSt) : (s.modCore t c f).ddr = s.ddr := rfl
@[simp] theorem State.modCore_nfs (s : State) (t c : Nat) (f : CoreSt → CoreSt) : (s.modCore t c f).nfs = s.nfs := rfl
@[simp] theorem State.modCore_powerGood (s : State) (t c : Nat) (f : CoreSt → CoreSt) : (s.modCore t c f).powerGood = s.powerGood := rfl
@[simp] theorem State.modCore_resetLow (s : State) (t c : Nat) (f : CoreSt → CoreSt) : (s.modCore t c f).resetLow = s.resetLow := rfl
@[simp] theorem State.modCore_clk (s : State) (t c : Nat) (f : CoreSt → CoreSt) : (s.modCore t c f).clk = s.clk := rfl
@[simp] theorem State.modCore_enabledIn (s : State) (t c : Nat) (f : CoreSt → CoreSt) : (s.modCore t c f).enabledIn = s.enabledIn := rfl
@[simp] theorem State.modCore_enableStep (s : State) (t c : Nat) (f : CoreSt → CoreSt) : (s.modCore t c f).enableStep = s.enableStep := rfl
@[simp] theorem State.modCore_hk (s : State) (t c : Nat) (f : CoreSt → CoreSt) : (s.modCore t c f).hk = s.hk := rfl
@[simp] theorem State.modCore_pairs (s : State) (t c : Nat) (f : CoreSt → CoreSt) : (s.modCore t c f).pairs = s.pairs := rfl
@[simp] theorem State.modCore_pwm (s : State) (t c : Nat) (f : CoreSt → CoreSt) : (s.modCore t c f).pwm = s.pwm := rfl
@[simp] theorem State.modCore_hkAt (s : State) (t c : Nat) (f : CoreSt → CoreSt) : (s.modCore t c f).hkAt = s.hkAt := rfl
@[simp] theorem State.modCore_powered (s : State) (t c : Nat) (f : CoreSt → CoreSt) : (s.modCore t c f).powered = s.powered := rfl
@[simp] theorem State.modCore_hotLost (s : State) (t c : Nat) (f : CoreSt → CoreSt) : (s.modCore t c f).hotLost = s.hotLost := rfl
@[simp] theorem State.modCore_disp (s : State) (t c : Nat) (f : CoreSt → CoreSt) : (s.modCore t c f).disp = s.disp := rfl
@[simp] theorem State.modCore_dma (s : State) (t c : Nat) (f : CoreSt → CoreSt) : (s.modCore t c f).dma = s.dma := rfl
@[simp] theorem State.modCore_dmaMem (s : State) (t c : Nat) (f : CoreSt → CoreSt) : (s.modCore t c f).dmaMem = s.dmaMem := rfl
@[simp] theorem State.modCore_eth (s : State) (t c : Nat) (f : CoreSt → CoreSt) : (s.modCore t c f).eth = s.eth := rfl
@[simp] theorem State.modCore_strs (s : State) (t c : Nat) (f : CoreSt → CoreSt) : (s.modCore t c f).strs = s.strs := rfl
@[simp] theorem State.modCore_access (s : State) (t c : Nat) (f : CoreSt → CoreSt) : (s.modCore t c f).access = s.access := rfl
@[simp] theorem State.modCore_fcol (s : State) (t c : Nat) (f : CoreSt → CoreSt) : (s.modCore t c f).fcol = s.fcol := rfl
@[simp] theorem State.modCore_aliveRuns (s : State) (t c : Nat) (f : CoreSt → CoreSt) : (s.modCore t c f).aliveRuns = s.aliveRuns := rfl
@[simp] theorem State.modCore_alive (s : State) (t c : Nat) (f : CoreSt → CoreSt) : (s.modCore t c f).alive = s.alive := rfl
@[simp] theorem State.modCore_controlLost (s : State) (t c : Nat) (f : CoreSt → CoreSt) : (s.modCore t c f).controlLost = s.controlLost := rfl
@[simp] theorem State.modCore_beatsMissed (s : State) (t c : Nat) (f : CoreSt → CoreSt) : (s.modCore t c f).beatsMissed = s.beatsMissed := rfl
@[simp] theorem State.modCore_mbox (s : State) (t c : Nat) (f : CoreSt → CoreSt) : (s.modCore t c f).mbox = s.mbox := rfl
@[simp] theorem State.modCore_plans (s : State) (t c : Nat) (f : CoreSt → CoreSt) : (s.modCore t c f).plans = s.plans := rfl
@[simp] theorem State.modCore_planCmds (s : State) (t c : Nat) (f : CoreSt → CoreSt) : (s.modCore t c f).planCmds = s.planCmds := rfl
@[simp] theorem State.modCore_admissions (s : State) (t c : Nat) (f : CoreSt → CoreSt) : (s.modCore t c f).admissions = s.admissions := rfl
@[simp] theorem State.modCore_energy (s : State) (t c : Nat) (f : CoreSt → CoreSt) : (s.modCore t c f).energy = s.energy := rfl
@[simp] theorem State.modCore_ledger (s : State) (t c : Nat) (f : CoreSt → CoreSt) : (s.modCore t c f).ledger = s.ledger := rfl
@[simp] theorem State.modCore_rails (s : State) (t c : Nat) (f : CoreSt → CoreSt) : (s.modCore t c f).rails = s.rails := rfl
@[simp] theorem State.modCore_boot (s : State) (t c : Nat) (f : CoreSt → CoreSt) : (s.modCore t c f).boot = s.boot := rfl
@[simp] theorem State.modCore_brokenPipes (s : State) (t c : Nat) (f : CoreSt → CoreSt) : (s.modCore t c f).brokenPipes = s.brokenPipes := rfl
@[simp] theorem State.modCore_spi (s : State) (t c : Nat) (f : CoreSt → CoreSt) : (s.modCore t c f).spi = s.spi := rfl
@[simp] theorem State.modCore_fuses (s : State) (t c : Nat) (f : CoreSt → CoreSt) : (s.modCore t c f).fuses = s.fuses := rfl
@[simp] theorem State.modCore_fusedSvn (s : State) (t c : Nat) (f : CoreSt → CoreSt) : (s.modCore t c f).fusedSvn = s.fusedSvn := rfl
@[simp] theorem State.modCore_keyHash (s : State) (t c : Nat) (f : CoreSt → CoreSt) : (s.modCore t c f).keyHash = s.keyHash := rfl
@[simp] theorem State.modCore_hashIn (s : State) (t c : Nat) (f : CoreSt → CoreSt) : (s.modCore t c f).hashIn = s.hashIn := rfl

/-! wrC -/
@[simp] theorem State.wrC_pending (s : State) (t c : Nat) (f : Fld) (v : Nat) : (s.wrC t c f v).pending = s.pending := rfl
@[simp] theorem State.wrC_part (s : State) (t c : Nat) (f : Fld) (v : Nat) : (s.wrC t c f v).part = s.part := rfl
@[simp] theorem State.wrC_suffixE (s : State) (t c : Nat) (f : Fld) (v : Nat) : (s.wrC t c f v).suffixE = s.suffixE := rfl
@[simp] theorem State.wrC_live (s : State) (t c : Nat) (f : Fld) (v : Nat) : (s.wrC t c f v).live = s.live := rfl
@[simp] theorem State.wrC_tabS (s : State) (t c : Nat) (f : Fld) (v : Nat) : (s.wrC t c f v).tabS = s.tabS := rfl
@[simp] theorem State.wrC_tabL (s : State) (t c : Nat) (f : Fld) (v : Nat) : (s.wrC t c f v).tabL = s.tabL := rfl
@[simp] theorem State.wrC_force (s : State) (t c : Nat) (f : Fld) (v : Nat) : (s.wrC t c f v).force = s.force := rfl
@[simp] theorem State.wrC_tabF (s : State) (t c : Nat) (f : Fld) (v : Nat) : (s.wrC t c f v).tabF = s.tabF := rfl
@[simp] theorem State.wrC_locked (s : State) (t c : Nat) (f : Fld) (v : Nat) : (s.wrC t c f v).locked = s.locked := rfl
@[simp] theorem State.wrC_cap (s : State) (t c : Nat) (f : Fld) (v : Nat) : (s.wrC t c f v).cap = s.cap := rfl
@[simp] theorem State.wrC_flight (s : State) (t c : Nat) (f : Fld) (v : Nat) : (s.wrC t c f v).flight = s.flight := rfl
@[simp] theorem State.wrC_marks (s : State) (t c : Nat) (f : Fld) (v : Nat) : (s.wrC t c f v).marks = s.marks := rfl
@[simp] theorem State.wrC_drawn (s : State) (t c : Nat) (f : Fld) (v : Nat) : (s.wrC t c f v).drawn = s.drawn := rfl
@[simp] theorem State.wrC_link (s : State) (t c : Nat) (f : Fld) (v : Nat) : (s.wrC t c f v).link = s.link := rfl
@[simp] theorem State.wrC_acq (s : State) (t c : Nat) (f : Fld) (v : Nat) : (s.wrC t c f v).acq = s.acq := rfl
@[simp] theorem State.wrC_jrx (s : State) (t c : Nat) (f : Fld) (v : Nat) : (s.wrC t c f v).jrx = s.jrx := rfl
@[simp] theorem State.wrC_time (s : State) (t c : Nat) (f : Fld) (v : Nat) : (s.wrC t c f v).time = s.time := rfl
@[simp] theorem State.wrC_items (s : State) (t c : Nat) (f : Fld) (v : Nat) : (s.wrC t c f v).items = s.items := rfl
@[simp] theorem State.wrC_traceRing (s : State) (t c : Nat) (f : Fld) (v : Nat) : (s.wrC t c f v).traceRing = s.traceRing := rfl
@[simp] theorem State.wrC_credits (s : State) (t c : Nat) (f : Fld) (v : Nat) : (s.wrC t c f v).credits = s.credits := rfl
@[simp] theorem State.wrC_lineOvf (s : State) (t c : Nat) (f : Fld) (v : Nat) : (s.wrC t c f v).lineOvf = s.lineOvf := rfl
@[simp] theorem State.wrC_codes (s : State) (t c : Nat) (f : Fld) (v : Nat) : (s.wrC t c f v).codes = s.codes := rfl
@[simp] theorem State.wrC_spares (s : State) (t c : Nat) (f : Fld) (v : Nat) : (s.wrC t c f v).spares = s.spares := rfl
@[simp] theorem State.wrC_stream (s : State) (t c : Nat) (f : Fld) (v : Nat) : (s.wrC t c f v).stream = s.stream := rfl
@[simp] theorem State.wrC_readData (s : State) (t c : Nat) (f : Fld) (v : Nat) : (s.wrC t c f v).readData = s.readData := rfl
@[simp] theorem State.wrC_wb (s : State) (t c : Nat) (f : Fld) (v : Nat) : (s.wrC t c f v).wb = s.wb := rfl
@[simp] theorem State.wrC_trg (s : State) (t c : Nat) (f : Fld) (v : Nat) : (s.wrC t c f v).trg = s.trg := rfl
@[simp] theorem State.wrC_trgTx (s : State) (t c : Nat) (f : Fld) (v : Nat) : (s.wrC t c f v).trgTx = s.trgTx := rfl
@[simp] theorem State.wrC_recs (s : State) (t c : Nat) (f : Fld) (v : Nat) : (s.wrC t c f v).recs = s.recs := rfl
@[simp] theorem State.wrC_dens (s : State) (t c : Nat) (f : Fld) (v : Nat) : (s.wrC t c f v).dens = s.dens := rfl
@[simp] theorem State.wrC_cores (s : State) (t c : Nat) (f : Fld) (v : Nat) : (s.wrC t c f v).cores = s.cores := rfl
@[simp] theorem State.wrC_zooms (s : State) (t c : Nat) (f : Fld) (v : Nat) : (s.wrC t c f v).zooms = s.zooms := rfl
@[simp] theorem State.wrC_repairs (s : State) (t c : Nat) (f : Fld) (v : Nat) : (s.wrC t c f v).repairs = s.repairs := rfl
@[simp] theorem State.wrC_lead (s : State) (t c : Nat) (f : Fld) (v : Nat) : (s.wrC t c f v).lead = s.lead := rfl
@[simp] theorem State.wrC_tdc (s : State) (t c : Nat) (f : Fld) (v : Nat) : (s.wrC t c f v).tdc = s.tdc := rfl
@[simp] theorem State.wrC_iv (s : State) (t c : Nat) (f : Fld) (v : Nat) : (s.wrC t c f v).iv = s.iv := rfl
@[simp] theorem State.wrC_tdcCheck (s : State) (t c : Nat) (f : Fld) (v : Nat) : (s.wrC t c f v).tdcCheck = s.tdcCheck := rfl
@[simp] theorem State.wrC_ddr (s : State) (t c : Nat) (f : Fld) (v : Nat) : (s.wrC t c f v).ddr = s.ddr := rfl
@[simp] theorem State.wrC_nfs (s : State) (t c : Nat) (f : Fld) (v : Nat) : (s.wrC t c f v).nfs = s.nfs := rfl
@[simp] theorem State.wrC_powerGood (s : State) (t c : Nat) (f : Fld) (v : Nat) : (s.wrC t c f v).powerGood = s.powerGood := rfl
@[simp] theorem State.wrC_resetLow (s : State) (t c : Nat) (f : Fld) (v : Nat) : (s.wrC t c f v).resetLow = s.resetLow := rfl
@[simp] theorem State.wrC_clk (s : State) (t c : Nat) (f : Fld) (v : Nat) : (s.wrC t c f v).clk = s.clk := rfl
@[simp] theorem State.wrC_enabledIn (s : State) (t c : Nat) (f : Fld) (v : Nat) : (s.wrC t c f v).enabledIn = s.enabledIn := rfl
@[simp] theorem State.wrC_enableStep (s : State) (t c : Nat) (f : Fld) (v : Nat) : (s.wrC t c f v).enableStep = s.enableStep := rfl
@[simp] theorem State.wrC_hk (s : State) (t c : Nat) (f : Fld) (v : Nat) : (s.wrC t c f v).hk = s.hk := rfl
@[simp] theorem State.wrC_pairs (s : State) (t c : Nat) (f : Fld) (v : Nat) : (s.wrC t c f v).pairs = s.pairs := rfl
@[simp] theorem State.wrC_pwm (s : State) (t c : Nat) (f : Fld) (v : Nat) : (s.wrC t c f v).pwm = s.pwm := rfl
@[simp] theorem State.wrC_hkAt (s : State) (t c : Nat) (f : Fld) (v : Nat) : (s.wrC t c f v).hkAt = s.hkAt := rfl
@[simp] theorem State.wrC_powered (s : State) (t c : Nat) (f : Fld) (v : Nat) : (s.wrC t c f v).powered = s.powered := rfl
@[simp] theorem State.wrC_hotLost (s : State) (t c : Nat) (f : Fld) (v : Nat) : (s.wrC t c f v).hotLost = s.hotLost := rfl
@[simp] theorem State.wrC_disp (s : State) (t c : Nat) (f : Fld) (v : Nat) : (s.wrC t c f v).disp = s.disp := rfl
@[simp] theorem State.wrC_dma (s : State) (t c : Nat) (f : Fld) (v : Nat) : (s.wrC t c f v).dma = s.dma := rfl
@[simp] theorem State.wrC_dmaMem (s : State) (t c : Nat) (f : Fld) (v : Nat) : (s.wrC t c f v).dmaMem = s.dmaMem := rfl
@[simp] theorem State.wrC_eth (s : State) (t c : Nat) (f : Fld) (v : Nat) : (s.wrC t c f v).eth = s.eth := rfl
@[simp] theorem State.wrC_strs (s : State) (t c : Nat) (f : Fld) (v : Nat) : (s.wrC t c f v).strs = s.strs := rfl
@[simp] theorem State.wrC_access (s : State) (t c : Nat) (f : Fld) (v : Nat) : (s.wrC t c f v).access = s.access := rfl
@[simp] theorem State.wrC_fcol (s : State) (t c : Nat) (f : Fld) (v : Nat) : (s.wrC t c f v).fcol = s.fcol := rfl
@[simp] theorem State.wrC_aliveRuns (s : State) (t c : Nat) (f : Fld) (v : Nat) : (s.wrC t c f v).aliveRuns = s.aliveRuns := rfl
@[simp] theorem State.wrC_alive (s : State) (t c : Nat) (f : Fld) (v : Nat) : (s.wrC t c f v).alive = s.alive := rfl
@[simp] theorem State.wrC_controlLost (s : State) (t c : Nat) (f : Fld) (v : Nat) : (s.wrC t c f v).controlLost = s.controlLost := rfl
@[simp] theorem State.wrC_beatsMissed (s : State) (t c : Nat) (f : Fld) (v : Nat) : (s.wrC t c f v).beatsMissed = s.beatsMissed := rfl
@[simp] theorem State.wrC_mbox (s : State) (t c : Nat) (f : Fld) (v : Nat) : (s.wrC t c f v).mbox = s.mbox := rfl
@[simp] theorem State.wrC_plans (s : State) (t c : Nat) (f : Fld) (v : Nat) : (s.wrC t c f v).plans = s.plans := rfl
@[simp] theorem State.wrC_planCmds (s : State) (t c : Nat) (f : Fld) (v : Nat) : (s.wrC t c f v).planCmds = s.planCmds := rfl
@[simp] theorem State.wrC_admissions (s : State) (t c : Nat) (f : Fld) (v : Nat) : (s.wrC t c f v).admissions = s.admissions := rfl
@[simp] theorem State.wrC_energy (s : State) (t c : Nat) (f : Fld) (v : Nat) : (s.wrC t c f v).energy = s.energy := rfl
@[simp] theorem State.wrC_ledger (s : State) (t c : Nat) (f : Fld) (v : Nat) : (s.wrC t c f v).ledger = s.ledger := rfl
@[simp] theorem State.wrC_rails (s : State) (t c : Nat) (f : Fld) (v : Nat) : (s.wrC t c f v).rails = s.rails := rfl
@[simp] theorem State.wrC_boot (s : State) (t c : Nat) (f : Fld) (v : Nat) : (s.wrC t c f v).boot = s.boot := rfl
@[simp] theorem State.wrC_brokenPipes (s : State) (t c : Nat) (f : Fld) (v : Nat) : (s.wrC t c f v).brokenPipes = s.brokenPipes := rfl
@[simp] theorem State.wrC_spi (s : State) (t c : Nat) (f : Fld) (v : Nat) : (s.wrC t c f v).spi = s.spi := rfl
@[simp] theorem State.wrC_fuses (s : State) (t c : Nat) (f : Fld) (v : Nat) : (s.wrC t c f v).fuses = s.fuses := rfl
@[simp] theorem State.wrC_fusedSvn (s : State) (t c : Nat) (f : Fld) (v : Nat) : (s.wrC t c f v).fusedSvn = s.fusedSvn := rfl
@[simp] theorem State.wrC_keyHash (s : State) (t c : Nat) (f : Fld) (v : Nat) : (s.wrC t c f v).keyHash = s.keyHash := rfl
@[simp] theorem State.wrC_hashIn (s : State) (t c : Nat) (f : Fld) (v : Nat) : (s.wrC t c f v).hashIn = s.hashIn := rfl

/-! modDdr -/
@[simp] theorem State.modDdr_pending (s : State) (h c : Nat) (f : DdrSt → DdrSt) : (s.modDdr h c f).pending = s.pending := rfl
@[simp] theorem State.modDdr_part (s : State) (h c : Nat) (f : DdrSt → DdrSt) : (s.modDdr h c f).part = s.part := rfl
@[simp] theorem State.modDdr_suffixE (s : State) (h c : Nat) (f : DdrSt → DdrSt) : (s.modDdr h c f).suffixE = s.suffixE := rfl
@[simp] theorem State.modDdr_regs (s : State) (h c : Nat) (f : DdrSt → DdrSt) : (s.modDdr h c f).regs = s.regs := rfl
@[simp] theorem State.modDdr_live (s : State) (h c : Nat) (f : DdrSt → DdrSt) : (s.modDdr h c f).live = s.live := rfl
@[simp] theorem State.modDdr_tabS (s : State) (h c : Nat) (f : DdrSt → DdrSt) : (s.modDdr h c f).tabS = s.tabS := rfl
@[simp] theorem State.modDdr_tabL (s : State) (h c : Nat) (f : DdrSt → DdrSt) : (s.modDdr h c f).tabL = s.tabL := rfl
@[simp] theorem State.modDdr_force (s : State) (h c : Nat) (f : DdrSt → DdrSt) : (s.modDdr h c f).force = s.force := rfl
@[simp] theorem State.modDdr_tabF (s : State) (h c : Nat) (f : DdrSt → DdrSt) : (s.modDdr h c f).tabF = s.tabF := rfl
@[simp] theorem State.modDdr_locked (s : State) (h c : Nat) (f : DdrSt → DdrSt) : (s.modDdr h c f).locked = s.locked := rfl
@[simp] theorem State.modDdr_cap (s : State) (h c : Nat) (f : DdrSt → DdrSt) : (s.modDdr h c f).cap = s.cap := rfl
@[simp] theorem State.modDdr_flight (s : State) (h c : Nat) (f : DdrSt → DdrSt) : (s.modDdr h c f).flight = s.flight := rfl
@[simp] theorem State.modDdr_marks (s : State) (h c : Nat) (f : DdrSt → DdrSt) : (s.modDdr h c f).marks = s.marks := rfl
@[simp] theorem State.modDdr_drawn (s : State) (h c : Nat) (f : DdrSt → DdrSt) : (s.modDdr h c f).drawn = s.drawn := rfl
@[simp] theorem State.modDdr_link (s : State) (h c : Nat) (f : DdrSt → DdrSt) : (s.modDdr h c f).link = s.link := rfl
@[simp] theorem State.modDdr_acq (s : State) (h c : Nat) (f : DdrSt → DdrSt) : (s.modDdr h c f).acq = s.acq := rfl
@[simp] theorem State.modDdr_jrx (s : State) (h c : Nat) (f : DdrSt → DdrSt) : (s.modDdr h c f).jrx = s.jrx := rfl
@[simp] theorem State.modDdr_time (s : State) (h c : Nat) (f : DdrSt → DdrSt) : (s.modDdr h c f).time = s.time := rfl
@[simp] theorem State.modDdr_items (s : State) (h c : Nat) (f : DdrSt → DdrSt) : (s.modDdr h c f).items = s.items := rfl
@[simp] theorem State.modDdr_traceRing (s : State) (h c : Nat) (f : DdrSt → DdrSt) : (s.modDdr h c f).traceRing = s.traceRing := rfl
@[simp] theorem State.modDdr_credits (s : State) (h c : Nat) (f : DdrSt → DdrSt) : (s.modDdr h c f).credits = s.credits := rfl
@[simp] theorem State.modDdr_lineOvf (s : State) (h c : Nat) (f : DdrSt → DdrSt) : (s.modDdr h c f).lineOvf = s.lineOvf := rfl
@[simp] theorem State.modDdr_codes (s : State) (h c : Nat) (f : DdrSt → DdrSt) : (s.modDdr h c f).codes = s.codes := rfl
@[simp] theorem State.modDdr_spares (s : State) (h c : Nat) (f : DdrSt → DdrSt) : (s.modDdr h c f).spares = s.spares := rfl
@[simp] theorem State.modDdr_stream (s : State) (h c : Nat) (f : DdrSt → DdrSt) : (s.modDdr h c f).stream = s.stream := rfl
@[simp] theorem State.modDdr_readData (s : State) (h c : Nat) (f : DdrSt → DdrSt) : (s.modDdr h c f).readData = s.readData := rfl
@[simp] theorem State.modDdr_wb (s : State) (h c : Nat) (f : DdrSt → DdrSt) : (s.modDdr h c f).wb = s.wb := rfl
@[simp] theorem State.modDdr_trg (s : State) (h c : Nat) (f : DdrSt → DdrSt) : (s.modDdr h c f).trg = s.trg := rfl
@[simp] theorem State.modDdr_trgTx (s : State) (h c : Nat) (f : DdrSt → DdrSt) : (s.modDdr h c f).trgTx = s.trgTx := rfl
@[simp] theorem State.modDdr_recs (s : State) (h c : Nat) (f : DdrSt → DdrSt) : (s.modDdr h c f).recs = s.recs := rfl
@[simp] theorem State.modDdr_dens (s : State) (h c : Nat) (f : DdrSt → DdrSt) : (s.modDdr h c f).dens = s.dens := rfl
@[simp] theorem State.modDdr_cores (s : State) (h c : Nat) (f : DdrSt → DdrSt) : (s.modDdr h c f).cores = s.cores := rfl
@[simp] theorem State.modDdr_zooms (s : State) (h c : Nat) (f : DdrSt → DdrSt) : (s.modDdr h c f).zooms = s.zooms := rfl
@[simp] theorem State.modDdr_repairs (s : State) (h c : Nat) (f : DdrSt → DdrSt) : (s.modDdr h c f).repairs = s.repairs := rfl
@[simp] theorem State.modDdr_lead (s : State) (h c : Nat) (f : DdrSt → DdrSt) : (s.modDdr h c f).lead = s.lead := rfl
@[simp] theorem State.modDdr_tdc (s : State) (h c : Nat) (f : DdrSt → DdrSt) : (s.modDdr h c f).tdc = s.tdc := rfl
@[simp] theorem State.modDdr_iv (s : State) (h c : Nat) (f : DdrSt → DdrSt) : (s.modDdr h c f).iv = s.iv := rfl
@[simp] theorem State.modDdr_tdcCheck (s : State) (h c : Nat) (f : DdrSt → DdrSt) : (s.modDdr h c f).tdcCheck = s.tdcCheck := rfl
@[simp] theorem State.modDdr_nfs (s : State) (h c : Nat) (f : DdrSt → DdrSt) : (s.modDdr h c f).nfs = s.nfs := rfl
@[simp] theorem State.modDdr_powerGood (s : State) (h c : Nat) (f : DdrSt → DdrSt) : (s.modDdr h c f).powerGood = s.powerGood := rfl
@[simp] theorem State.modDdr_resetLow (s : State) (h c : Nat) (f : DdrSt → DdrSt) : (s.modDdr h c f).resetLow = s.resetLow := rfl
@[simp] theorem State.modDdr_clk (s : State) (h c : Nat) (f : DdrSt → DdrSt) : (s.modDdr h c f).clk = s.clk := rfl
@[simp] theorem State.modDdr_enabledIn (s : State) (h c : Nat) (f : DdrSt → DdrSt) : (s.modDdr h c f).enabledIn = s.enabledIn := rfl
@[simp] theorem State.modDdr_enableStep (s : State) (h c : Nat) (f : DdrSt → DdrSt) : (s.modDdr h c f).enableStep = s.enableStep := rfl
@[simp] theorem State.modDdr_hk (s : State) (h c : Nat) (f : DdrSt → DdrSt) : (s.modDdr h c f).hk = s.hk := rfl
@[simp] theorem State.modDdr_pairs (s : State) (h c : Nat) (f : DdrSt → DdrSt) : (s.modDdr h c f).pairs = s.pairs := rfl
@[simp] theorem State.modDdr_pwm (s : State) (h c : Nat) (f : DdrSt → DdrSt) : (s.modDdr h c f).pwm = s.pwm := rfl
@[simp] theorem State.modDdr_hkAt (s : State) (h c : Nat) (f : DdrSt → DdrSt) : (s.modDdr h c f).hkAt = s.hkAt := rfl
@[simp] theorem State.modDdr_powered (s : State) (h c : Nat) (f : DdrSt → DdrSt) : (s.modDdr h c f).powered = s.powered := rfl
@[simp] theorem State.modDdr_hotLost (s : State) (h c : Nat) (f : DdrSt → DdrSt) : (s.modDdr h c f).hotLost = s.hotLost := rfl
@[simp] theorem State.modDdr_disp (s : State) (h c : Nat) (f : DdrSt → DdrSt) : (s.modDdr h c f).disp = s.disp := rfl
@[simp] theorem State.modDdr_dma (s : State) (h c : Nat) (f : DdrSt → DdrSt) : (s.modDdr h c f).dma = s.dma := rfl
@[simp] theorem State.modDdr_dmaMem (s : State) (h c : Nat) (f : DdrSt → DdrSt) : (s.modDdr h c f).dmaMem = s.dmaMem := rfl
@[simp] theorem State.modDdr_eth (s : State) (h c : Nat) (f : DdrSt → DdrSt) : (s.modDdr h c f).eth = s.eth := rfl
@[simp] theorem State.modDdr_strs (s : State) (h c : Nat) (f : DdrSt → DdrSt) : (s.modDdr h c f).strs = s.strs := rfl
@[simp] theorem State.modDdr_access (s : State) (h c : Nat) (f : DdrSt → DdrSt) : (s.modDdr h c f).access = s.access := rfl
@[simp] theorem State.modDdr_fcol (s : State) (h c : Nat) (f : DdrSt → DdrSt) : (s.modDdr h c f).fcol = s.fcol := rfl
@[simp] theorem State.modDdr_aliveRuns (s : State) (h c : Nat) (f : DdrSt → DdrSt) : (s.modDdr h c f).aliveRuns = s.aliveRuns := rfl
@[simp] theorem State.modDdr_alive (s : State) (h c : Nat) (f : DdrSt → DdrSt) : (s.modDdr h c f).alive = s.alive := rfl
@[simp] theorem State.modDdr_controlLost (s : State) (h c : Nat) (f : DdrSt → DdrSt) : (s.modDdr h c f).controlLost = s.controlLost := rfl
@[simp] theorem State.modDdr_beatsMissed (s : State) (h c : Nat) (f : DdrSt → DdrSt) : (s.modDdr h c f).beatsMissed = s.beatsMissed := rfl
@[simp] theorem State.modDdr_mbox (s : State) (h c : Nat) (f : DdrSt → DdrSt) : (s.modDdr h c f).mbox = s.mbox := rfl
@[simp] theorem State.modDdr_plans (s : State) (h c : Nat) (f : DdrSt → DdrSt) : (s.modDdr h c f).plans = s.plans := rfl
@[simp] theorem State.modDdr_planCmds (s : State) (h c : Nat) (f : DdrSt → DdrSt) : (s.modDdr h c f).planCmds = s.planCmds := rfl
@[simp] theorem State.modDdr_admissions (s : State) (h c : Nat) (f : DdrSt → DdrSt) : (s.modDdr h c f).admissions = s.admissions := rfl
@[simp] theorem State.modDdr_energy (s : State) (h c : Nat) (f : DdrSt → DdrSt) : (s.modDdr h c f).energy = s.energy := rfl
@[simp] theorem State.modDdr_ledger (s : State) (h c : Nat) (f : DdrSt → DdrSt) : (s.modDdr h c f).ledger = s.ledger := rfl
@[simp] theorem State.modDdr_rails (s : State) (h c : Nat) (f : DdrSt → DdrSt) : (s.modDdr h c f).rails = s.rails := rfl
@[simp] theorem State.modDdr_boot (s : State) (h c : Nat) (f : DdrSt → DdrSt) : (s.modDdr h c f).boot = s.boot := rfl
@[simp] theorem State.modDdr_brokenPipes (s : State) (h c : Nat) (f : DdrSt → DdrSt) : (s.modDdr h c f).brokenPipes = s.brokenPipes := rfl
@[simp] theorem State.modDdr_spi (s : State) (h c : Nat) (f : DdrSt → DdrSt) : (s.modDdr h c f).spi = s.spi := rfl
@[simp] theorem State.modDdr_fuses (s : State) (h c : Nat) (f : DdrSt → DdrSt) : (s.modDdr h c f).fuses = s.fuses := rfl
@[simp] theorem State.modDdr_fusedSvn (s : State) (h c : Nat) (f : DdrSt → DdrSt) : (s.modDdr h c f).fusedSvn = s.fusedSvn := rfl
@[simp] theorem State.modDdr_keyHash (s : State) (h c : Nat) (f : DdrSt → DdrSt) : (s.modDdr h c f).keyHash = s.keyHash := rfl
@[simp] theorem State.modDdr_hashIn (s : State) (h c : Nat) (f : DdrSt → DdrSt) : (s.modDdr h c f).hashIn = s.hashIn := rfl

/-! modDens -/
@[simp] theorem State.modDens_pending (s : State) (l : Nat) (f : DensSt → DensSt) : (s.modDens l f).pending = s.pending := rfl
@[simp] theorem State.modDens_part (s : State) (l : Nat) (f : DensSt → DensSt) : (s.modDens l f).part = s.part := rfl
@[simp] theorem State.modDens_suffixE (s : State) (l : Nat) (f : DensSt → DensSt) : (s.modDens l f).suffixE = s.suffixE := rfl
@[simp] theorem State.modDens_regs (s : State) (l : Nat) (f : DensSt → DensSt) : (s.modDens l f).regs = s.regs := rfl
@[simp] theorem State.modDens_live (s : State) (l : Nat) (f : DensSt → DensSt) : (s.modDens l f).live = s.live := rfl
@[simp] theorem State.modDens_tabS (s : State) (l : Nat) (f : DensSt → DensSt) : (s.modDens l f).tabS = s.tabS := rfl
@[simp] theorem State.modDens_tabL (s : State) (l : Nat) (f : DensSt → DensSt) : (s.modDens l f).tabL = s.tabL := rfl
@[simp] theorem State.modDens_force (s : State) (l : Nat) (f : DensSt → DensSt) : (s.modDens l f).force = s.force := rfl
@[simp] theorem State.modDens_tabF (s : State) (l : Nat) (f : DensSt → DensSt) : (s.modDens l f).tabF = s.tabF := rfl
@[simp] theorem State.modDens_locked (s : State) (l : Nat) (f : DensSt → DensSt) : (s.modDens l f).locked = s.locked := rfl
@[simp] theorem State.modDens_cap (s : State) (l : Nat) (f : DensSt → DensSt) : (s.modDens l f).cap = s.cap := rfl
@[simp] theorem State.modDens_flight (s : State) (l : Nat) (f : DensSt → DensSt) : (s.modDens l f).flight = s.flight := rfl
@[simp] theorem State.modDens_marks (s : State) (l : Nat) (f : DensSt → DensSt) : (s.modDens l f).marks = s.marks := rfl
@[simp] theorem State.modDens_drawn (s : State) (l : Nat) (f : DensSt → DensSt) : (s.modDens l f).drawn = s.drawn := rfl
@[simp] theorem State.modDens_link (s : State) (l : Nat) (f : DensSt → DensSt) : (s.modDens l f).link = s.link := rfl
@[simp] theorem State.modDens_acq (s : State) (l : Nat) (f : DensSt → DensSt) : (s.modDens l f).acq = s.acq := rfl
@[simp] theorem State.modDens_jrx (s : State) (l : Nat) (f : DensSt → DensSt) : (s.modDens l f).jrx = s.jrx := rfl
@[simp] theorem State.modDens_time (s : State) (l : Nat) (f : DensSt → DensSt) : (s.modDens l f).time = s.time := rfl
@[simp] theorem State.modDens_items (s : State) (l : Nat) (f : DensSt → DensSt) : (s.modDens l f).items = s.items := rfl
@[simp] theorem State.modDens_traceRing (s : State) (l : Nat) (f : DensSt → DensSt) : (s.modDens l f).traceRing = s.traceRing := rfl
@[simp] theorem State.modDens_credits (s : State) (l : Nat) (f : DensSt → DensSt) : (s.modDens l f).credits = s.credits := rfl
@[simp] theorem State.modDens_lineOvf (s : State) (l : Nat) (f : DensSt → DensSt) : (s.modDens l f).lineOvf = s.lineOvf := rfl
@[simp] theorem State.modDens_codes (s : State) (l : Nat) (f : DensSt → DensSt) : (s.modDens l f).codes = s.codes := rfl
@[simp] theorem State.modDens_spares (s : State) (l : Nat) (f : DensSt → DensSt) : (s.modDens l f).spares = s.spares := rfl
@[simp] theorem State.modDens_stream (s : State) (l : Nat) (f : DensSt → DensSt) : (s.modDens l f).stream = s.stream := rfl
@[simp] theorem State.modDens_readData (s : State) (l : Nat) (f : DensSt → DensSt) : (s.modDens l f).readData = s.readData := rfl
@[simp] theorem State.modDens_wb (s : State) (l : Nat) (f : DensSt → DensSt) : (s.modDens l f).wb = s.wb := rfl
@[simp] theorem State.modDens_trg (s : State) (l : Nat) (f : DensSt → DensSt) : (s.modDens l f).trg = s.trg := rfl
@[simp] theorem State.modDens_trgTx (s : State) (l : Nat) (f : DensSt → DensSt) : (s.modDens l f).trgTx = s.trgTx := rfl
@[simp] theorem State.modDens_recs (s : State) (l : Nat) (f : DensSt → DensSt) : (s.modDens l f).recs = s.recs := rfl
@[simp] theorem State.modDens_cores (s : State) (l : Nat) (f : DensSt → DensSt) : (s.modDens l f).cores = s.cores := rfl
@[simp] theorem State.modDens_zooms (s : State) (l : Nat) (f : DensSt → DensSt) : (s.modDens l f).zooms = s.zooms := rfl
@[simp] theorem State.modDens_repairs (s : State) (l : Nat) (f : DensSt → DensSt) : (s.modDens l f).repairs = s.repairs := rfl
@[simp] theorem State.modDens_lead (s : State) (l : Nat) (f : DensSt → DensSt) : (s.modDens l f).lead = s.lead := rfl
@[simp] theorem State.modDens_tdc (s : State) (l : Nat) (f : DensSt → DensSt) : (s.modDens l f).tdc = s.tdc := rfl
@[simp] theorem State.modDens_iv (s : State) (l : Nat) (f : DensSt → DensSt) : (s.modDens l f).iv = s.iv := rfl
@[simp] theorem State.modDens_tdcCheck (s : State) (l : Nat) (f : DensSt → DensSt) : (s.modDens l f).tdcCheck = s.tdcCheck := rfl
@[simp] theorem State.modDens_ddr (s : State) (l : Nat) (f : DensSt → DensSt) : (s.modDens l f).ddr = s.ddr := rfl
@[simp] theorem State.modDens_nfs (s : State) (l : Nat) (f : DensSt → DensSt) : (s.modDens l f).nfs = s.nfs := rfl
@[simp] theorem State.modDens_powerGood (s : State) (l : Nat) (f : DensSt → DensSt) : (s.modDens l f).powerGood = s.powerGood := rfl
@[simp] theorem State.modDens_resetLow (s : State) (l : Nat) (f : DensSt → DensSt) : (s.modDens l f).resetLow = s.resetLow := rfl
@[simp] theorem State.modDens_clk (s : State) (l : Nat) (f : DensSt → DensSt) : (s.modDens l f).clk = s.clk := rfl
@[simp] theorem State.modDens_enabledIn (s : State) (l : Nat) (f : DensSt → DensSt) : (s.modDens l f).enabledIn = s.enabledIn := rfl
@[simp] theorem State.modDens_enableStep (s : State) (l : Nat) (f : DensSt → DensSt) : (s.modDens l f).enableStep = s.enableStep := rfl
@[simp] theorem State.modDens_hk (s : State) (l : Nat) (f : DensSt → DensSt) : (s.modDens l f).hk = s.hk := rfl
@[simp] theorem State.modDens_pairs (s : State) (l : Nat) (f : DensSt → DensSt) : (s.modDens l f).pairs = s.pairs := rfl
@[simp] theorem State.modDens_pwm (s : State) (l : Nat) (f : DensSt → DensSt) : (s.modDens l f).pwm = s.pwm := rfl
@[simp] theorem State.modDens_hkAt (s : State) (l : Nat) (f : DensSt → DensSt) : (s.modDens l f).hkAt = s.hkAt := rfl
@[simp] theorem State.modDens_powered (s : State) (l : Nat) (f : DensSt → DensSt) : (s.modDens l f).powered = s.powered := rfl
@[simp] theorem State.modDens_hotLost (s : State) (l : Nat) (f : DensSt → DensSt) : (s.modDens l f).hotLost = s.hotLost := rfl
@[simp] theorem State.modDens_disp (s : State) (l : Nat) (f : DensSt → DensSt) : (s.modDens l f).disp = s.disp := rfl
@[simp] theorem State.modDens_dma (s : State) (l : Nat) (f : DensSt → DensSt) : (s.modDens l f).dma = s.dma := rfl
@[simp] theorem State.modDens_dmaMem (s : State) (l : Nat) (f : DensSt → DensSt) : (s.modDens l f).dmaMem = s.dmaMem := rfl
@[simp] theorem State.modDens_eth (s : State) (l : Nat) (f : DensSt → DensSt) : (s.modDens l f).eth = s.eth := rfl
@[simp] theorem State.modDens_strs (s : State) (l : Nat) (f : DensSt → DensSt) : (s.modDens l f).strs = s.strs := rfl
@[simp] theorem State.modDens_access (s : State) (l : Nat) (f : DensSt → DensSt) : (s.modDens l f).access = s.access := rfl
@[simp] theorem State.modDens_fcol (s : State) (l : Nat) (f : DensSt → DensSt) : (s.modDens l f).fcol = s.fcol := rfl
@[simp] theorem State.modDens_aliveRuns (s : State) (l : Nat) (f : DensSt → DensSt) : (s.modDens l f).aliveRuns = s.aliveRuns := rfl
@[simp] theorem State.modDens_alive (s : State) (l : Nat) (f : DensSt → DensSt) : (s.modDens l f).alive = s.alive := rfl
@[simp] theorem State.modDens_controlLost (s : State) (l : Nat) (f : DensSt → DensSt) : (s.modDens l f).controlLost = s.controlLost := rfl
@[simp] theorem State.modDens_beatsMissed (s : State) (l : Nat) (f : DensSt → DensSt) : (s.modDens l f).beatsMissed = s.beatsMissed := rfl
@[simp] theorem State.modDens_mbox (s : State) (l : Nat) (f : DensSt → DensSt) : (s.modDens l f).mbox = s.mbox := rfl
@[simp] theorem State.modDens_plans (s : State) (l : Nat) (f : DensSt → DensSt) : (s.modDens l f).plans = s.plans := rfl
@[simp] theorem State.modDens_planCmds (s : State) (l : Nat) (f : DensSt → DensSt) : (s.modDens l f).planCmds = s.planCmds := rfl
@[simp] theorem State.modDens_admissions (s : State) (l : Nat) (f : DensSt → DensSt) : (s.modDens l f).admissions = s.admissions := rfl
@[simp] theorem State.modDens_energy (s : State) (l : Nat) (f : DensSt → DensSt) : (s.modDens l f).energy = s.energy := rfl
@[simp] theorem State.modDens_ledger (s : State) (l : Nat) (f : DensSt → DensSt) : (s.modDens l f).ledger = s.ledger := rfl
@[simp] theorem State.modDens_rails (s : State) (l : Nat) (f : DensSt → DensSt) : (s.modDens l f).rails = s.rails := rfl
@[simp] theorem State.modDens_boot (s : State) (l : Nat) (f : DensSt → DensSt) : (s.modDens l f).boot = s.boot := rfl
@[simp] theorem State.modDens_brokenPipes (s : State) (l : Nat) (f : DensSt → DensSt) : (s.modDens l f).brokenPipes = s.brokenPipes := rfl
@[simp] theorem State.modDens_spi (s : State) (l : Nat) (f : DensSt → DensSt) : (s.modDens l f).spi = s.spi := rfl
@[simp] theorem State.modDens_fuses (s : State) (l : Nat) (f : DensSt → DensSt) : (s.modDens l f).fuses = s.fuses := rfl
@[simp] theorem State.modDens_fusedSvn (s : State) (l : Nat) (f : DensSt → DensSt) : (s.modDens l f).fusedSvn = s.fusedSvn := rfl
@[simp] theorem State.modDens_keyHash (s : State) (l : Nat) (f : DensSt → DensSt) : (s.modDens l f).keyHash = s.keyHash := rfl
@[simp] theorem State.modDens_hashIn (s : State) (l : Nat) (f : DensSt → DensSt) : (s.modDens l f).hashIn = s.hashIn := rfl

/-! modDisp -/
@[simp] theorem State.modDisp_pending (s : State) (h : Nat) (f : DispSt → DispSt) : (s.modDisp h f).pending = s.pending := rfl
@[simp] theorem State.modDisp_part (s : State) (h : Nat) (f : DispSt → DispSt) : (s.modDisp h f).part = s.part := rfl
@[simp] theorem State.modDisp_suffixE (s : State) (h : Nat) (f : DispSt → DispSt) : (s.modDisp h f).suffixE = s.suffixE := rfl
@[simp] theorem State.modDisp_regs (s : State) (h : Nat) (f : DispSt → DispSt) : (s.modDisp h f).regs = s.regs := rfl
@[simp] theorem State.modDisp_live (s : State) (h : Nat) (f : DispSt → DispSt) : (s.modDisp h f).live = s.live := rfl
@[simp] theorem State.modDisp_tabS (s : State) (h : Nat) (f : DispSt → DispSt) : (s.modDisp h f).tabS = s.tabS := rfl
@[simp] theorem State.modDisp_tabL (s : State) (h : Nat) (f : DispSt → DispSt) : (s.modDisp h f).tabL = s.tabL := rfl
@[simp] theorem State.modDisp_force (s : State) (h : Nat) (f : DispSt → DispSt) : (s.modDisp h f).force = s.force := rfl
@[simp] theorem State.modDisp_tabF (s : State) (h : Nat) (f : DispSt → DispSt) : (s.modDisp h f).tabF = s.tabF := rfl
@[simp] theorem State.modDisp_locked (s : State) (h : Nat) (f : DispSt → DispSt) : (s.modDisp h f).locked = s.locked := rfl
@[simp] theorem State.modDisp_cap (s : State) (h : Nat) (f : DispSt → DispSt) : (s.modDisp h f).cap = s.cap := rfl
@[simp] theorem State.modDisp_flight (s : State) (h : Nat) (f : DispSt → DispSt) : (s.modDisp h f).flight = s.flight := rfl
@[simp] theorem State.modDisp_marks (s : State) (h : Nat) (f : DispSt → DispSt) : (s.modDisp h f).marks = s.marks := rfl
@[simp] theorem State.modDisp_drawn (s : State) (h : Nat) (f : DispSt → DispSt) : (s.modDisp h f).drawn = s.drawn := rfl
@[simp] theorem State.modDisp_link (s : State) (h : Nat) (f : DispSt → DispSt) : (s.modDisp h f).link = s.link := rfl
@[simp] theorem State.modDisp_acq (s : State) (h : Nat) (f : DispSt → DispSt) : (s.modDisp h f).acq = s.acq := rfl
@[simp] theorem State.modDisp_jrx (s : State) (h : Nat) (f : DispSt → DispSt) : (s.modDisp h f).jrx = s.jrx := rfl
@[simp] theorem State.modDisp_time (s : State) (h : Nat) (f : DispSt → DispSt) : (s.modDisp h f).time = s.time := rfl
@[simp] theorem State.modDisp_items (s : State) (h : Nat) (f : DispSt → DispSt) : (s.modDisp h f).items = s.items := rfl
@[simp] theorem State.modDisp_traceRing (s : State) (h : Nat) (f : DispSt → DispSt) : (s.modDisp h f).traceRing = s.traceRing := rfl
@[simp] theorem State.modDisp_credits (s : State) (h : Nat) (f : DispSt → DispSt) : (s.modDisp h f).credits = s.credits := rfl
@[simp] theorem State.modDisp_lineOvf (s : State) (h : Nat) (f : DispSt → DispSt) : (s.modDisp h f).lineOvf = s.lineOvf := rfl
@[simp] theorem State.modDisp_codes (s : State) (h : Nat) (f : DispSt → DispSt) : (s.modDisp h f).codes = s.codes := rfl
@[simp] theorem State.modDisp_spares (s : State) (h : Nat) (f : DispSt → DispSt) : (s.modDisp h f).spares = s.spares := rfl
@[simp] theorem State.modDisp_stream (s : State) (h : Nat) (f : DispSt → DispSt) : (s.modDisp h f).stream = s.stream := rfl
@[simp] theorem State.modDisp_readData (s : State) (h : Nat) (f : DispSt → DispSt) : (s.modDisp h f).readData = s.readData := rfl
@[simp] theorem State.modDisp_wb (s : State) (h : Nat) (f : DispSt → DispSt) : (s.modDisp h f).wb = s.wb := rfl
@[simp] theorem State.modDisp_trg (s : State) (h : Nat) (f : DispSt → DispSt) : (s.modDisp h f).trg = s.trg := rfl
@[simp] theorem State.modDisp_trgTx (s : State) (h : Nat) (f : DispSt → DispSt) : (s.modDisp h f).trgTx = s.trgTx := rfl
@[simp] theorem State.modDisp_recs (s : State) (h : Nat) (f : DispSt → DispSt) : (s.modDisp h f).recs = s.recs := rfl
@[simp] theorem State.modDisp_dens (s : State) (h : Nat) (f : DispSt → DispSt) : (s.modDisp h f).dens = s.dens := rfl
@[simp] theorem State.modDisp_cores (s : State) (h : Nat) (f : DispSt → DispSt) : (s.modDisp h f).cores = s.cores := rfl
@[simp] theorem State.modDisp_zooms (s : State) (h : Nat) (f : DispSt → DispSt) : (s.modDisp h f).zooms = s.zooms := rfl
@[simp] theorem State.modDisp_repairs (s : State) (h : Nat) (f : DispSt → DispSt) : (s.modDisp h f).repairs = s.repairs := rfl
@[simp] theorem State.modDisp_lead (s : State) (h : Nat) (f : DispSt → DispSt) : (s.modDisp h f).lead = s.lead := rfl
@[simp] theorem State.modDisp_tdc (s : State) (h : Nat) (f : DispSt → DispSt) : (s.modDisp h f).tdc = s.tdc := rfl
@[simp] theorem State.modDisp_iv (s : State) (h : Nat) (f : DispSt → DispSt) : (s.modDisp h f).iv = s.iv := rfl
@[simp] theorem State.modDisp_tdcCheck (s : State) (h : Nat) (f : DispSt → DispSt) : (s.modDisp h f).tdcCheck = s.tdcCheck := rfl
@[simp] theorem State.modDisp_ddr (s : State) (h : Nat) (f : DispSt → DispSt) : (s.modDisp h f).ddr = s.ddr := rfl
@[simp] theorem State.modDisp_nfs (s : State) (h : Nat) (f : DispSt → DispSt) : (s.modDisp h f).nfs = s.nfs := rfl
@[simp] theorem State.modDisp_powerGood (s : State) (h : Nat) (f : DispSt → DispSt) : (s.modDisp h f).powerGood = s.powerGood := rfl
@[simp] theorem State.modDisp_resetLow (s : State) (h : Nat) (f : DispSt → DispSt) : (s.modDisp h f).resetLow = s.resetLow := rfl
@[simp] theorem State.modDisp_clk (s : State) (h : Nat) (f : DispSt → DispSt) : (s.modDisp h f).clk = s.clk := rfl
@[simp] theorem State.modDisp_enabledIn (s : State) (h : Nat) (f : DispSt → DispSt) : (s.modDisp h f).enabledIn = s.enabledIn := rfl
@[simp] theorem State.modDisp_enableStep (s : State) (h : Nat) (f : DispSt → DispSt) : (s.modDisp h f).enableStep = s.enableStep := rfl
@[simp] theorem State.modDisp_hk (s : State) (h : Nat) (f : DispSt → DispSt) : (s.modDisp h f).hk = s.hk := rfl
@[simp] theorem State.modDisp_pairs (s : State) (h : Nat) (f : DispSt → DispSt) : (s.modDisp h f).pairs = s.pairs := rfl
@[simp] theorem State.modDisp_pwm (s : State) (h : Nat) (f : DispSt → DispSt) : (s.modDisp h f).pwm = s.pwm := rfl
@[simp] theorem State.modDisp_hkAt (s : State) (h : Nat) (f : DispSt → DispSt) : (s.modDisp h f).hkAt = s.hkAt := rfl
@[simp] theorem State.modDisp_powered (s : State) (h : Nat) (f : DispSt → DispSt) : (s.modDisp h f).powered = s.powered := rfl
@[simp] theorem State.modDisp_hotLost (s : State) (h : Nat) (f : DispSt → DispSt) : (s.modDisp h f).hotLost = s.hotLost := rfl
@[simp] theorem State.modDisp_dma (s : State) (h : Nat) (f : DispSt → DispSt) : (s.modDisp h f).dma = s.dma := rfl
@[simp] theorem State.modDisp_dmaMem (s : State) (h : Nat) (f : DispSt → DispSt) : (s.modDisp h f).dmaMem = s.dmaMem := rfl
@[simp] theorem State.modDisp_eth (s : State) (h : Nat) (f : DispSt → DispSt) : (s.modDisp h f).eth = s.eth := rfl
@[simp] theorem State.modDisp_strs (s : State) (h : Nat) (f : DispSt → DispSt) : (s.modDisp h f).strs = s.strs := rfl
@[simp] theorem State.modDisp_access (s : State) (h : Nat) (f : DispSt → DispSt) : (s.modDisp h f).access = s.access := rfl
@[simp] theorem State.modDisp_fcol (s : State) (h : Nat) (f : DispSt → DispSt) : (s.modDisp h f).fcol = s.fcol := rfl
@[simp] theorem State.modDisp_aliveRuns (s : State) (h : Nat) (f : DispSt → DispSt) : (s.modDisp h f).aliveRuns = s.aliveRuns := rfl
@[simp] theorem State.modDisp_alive (s : State) (h : Nat) (f : DispSt → DispSt) : (s.modDisp h f).alive = s.alive := rfl
@[simp] theorem State.modDisp_controlLost (s : State) (h : Nat) (f : DispSt → DispSt) : (s.modDisp h f).controlLost = s.controlLost := rfl
@[simp] theorem State.modDisp_beatsMissed (s : State) (h : Nat) (f : DispSt → DispSt) : (s.modDisp h f).beatsMissed = s.beatsMissed := rfl
@[simp] theorem State.modDisp_mbox (s : State) (h : Nat) (f : DispSt → DispSt) : (s.modDisp h f).mbox = s.mbox := rfl
@[simp] theorem State.modDisp_plans (s : State) (h : Nat) (f : DispSt → DispSt) : (s.modDisp h f).plans = s.plans := rfl
@[simp] theorem State.modDisp_planCmds (s : State) (h : Nat) (f : DispSt → DispSt) : (s.modDisp h f).planCmds = s.planCmds := rfl
@[simp] theorem State.modDisp_admissions (s : State) (h : Nat) (f : DispSt → DispSt) : (s.modDisp h f).admissions = s.admissions := rfl
@[simp] theorem State.modDisp_energy (s : State) (h : Nat) (f : DispSt → DispSt) : (s.modDisp h f).energy = s.energy := rfl
@[simp] theorem State.modDisp_ledger (s : State) (h : Nat) (f : DispSt → DispSt) : (s.modDisp h f).ledger = s.ledger := rfl
@[simp] theorem State.modDisp_rails (s : State) (h : Nat) (f : DispSt → DispSt) : (s.modDisp h f).rails = s.rails := rfl
@[simp] theorem State.modDisp_boot (s : State) (h : Nat) (f : DispSt → DispSt) : (s.modDisp h f).boot = s.boot := rfl
@[simp] theorem State.modDisp_brokenPipes (s : State) (h : Nat) (f : DispSt → DispSt) : (s.modDisp h f).brokenPipes = s.brokenPipes := rfl
@[simp] theorem State.modDisp_spi (s : State) (h : Nat) (f : DispSt → DispSt) : (s.modDisp h f).spi = s.spi := rfl
@[simp] theorem State.modDisp_fuses (s : State) (h : Nat) (f : DispSt → DispSt) : (s.modDisp h f).fuses = s.fuses := rfl
@[simp] theorem State.modDisp_fusedSvn (s : State) (h : Nat) (f : DispSt → DispSt) : (s.modDisp h f).fusedSvn = s.fusedSvn := rfl
@[simp] theorem State.modDisp_keyHash (s : State) (h : Nat) (f : DispSt → DispSt) : (s.modDisp h f).keyHash = s.keyHash := rfl
@[simp] theorem State.modDisp_hashIn (s : State) (h : Nat) (f : DispSt → DispSt) : (s.modDisp h f).hashIn = s.hashIn := rfl

/-! modDma -/
@[simp] theorem State.modDma_pending (s : State) (h k : Nat) (f : DmaSt → DmaSt) : (s.modDma h k f).pending = s.pending := rfl
@[simp] theorem State.modDma_part (s : State) (h k : Nat) (f : DmaSt → DmaSt) : (s.modDma h k f).part = s.part := rfl
@[simp] theorem State.modDma_suffixE (s : State) (h k : Nat) (f : DmaSt → DmaSt) : (s.modDma h k f).suffixE = s.suffixE := rfl
@[simp] theorem State.modDma_regs (s : State) (h k : Nat) (f : DmaSt → DmaSt) : (s.modDma h k f).regs = s.regs := rfl
@[simp] theorem State.modDma_live (s : State) (h k : Nat) (f : DmaSt → DmaSt) : (s.modDma h k f).live = s.live := rfl
@[simp] theorem State.modDma_tabS (s : State) (h k : Nat) (f : DmaSt → DmaSt) : (s.modDma h k f).tabS = s.tabS := rfl
@[simp] theorem State.modDma_tabL (s : State) (h k : Nat) (f : DmaSt → DmaSt) : (s.modDma h k f).tabL = s.tabL := rfl
@[simp] theorem State.modDma_force (s : State) (h k : Nat) (f : DmaSt → DmaSt) : (s.modDma h k f).force = s.force := rfl
@[simp] theorem State.modDma_tabF (s : State) (h k : Nat) (f : DmaSt → DmaSt) : (s.modDma h k f).tabF = s.tabF := rfl
@[simp] theorem State.modDma_locked (s : State) (h k : Nat) (f : DmaSt → DmaSt) : (s.modDma h k f).locked = s.locked := rfl
@[simp] theorem State.modDma_cap (s : State) (h k : Nat) (f : DmaSt → DmaSt) : (s.modDma h k f).cap = s.cap := rfl
@[simp] theorem State.modDma_flight (s : State) (h k : Nat) (f : DmaSt → DmaSt) : (s.modDma h k f).flight = s.flight := rfl
@[simp] theorem State.modDma_marks (s : State) (h k : Nat) (f : DmaSt → DmaSt) : (s.modDma h k f).marks = s.marks := rfl
@[simp] theorem State.modDma_drawn (s : State) (h k : Nat) (f : DmaSt → DmaSt) : (s.modDma h k f).drawn = s.drawn := rfl
@[simp] theorem State.modDma_link (s : State) (h k : Nat) (f : DmaSt → DmaSt) : (s.modDma h k f).link = s.link := rfl
@[simp] theorem State.modDma_acq (s : State) (h k : Nat) (f : DmaSt → DmaSt) : (s.modDma h k f).acq = s.acq := rfl
@[simp] theorem State.modDma_jrx (s : State) (h k : Nat) (f : DmaSt → DmaSt) : (s.modDma h k f).jrx = s.jrx := rfl
@[simp] theorem State.modDma_time (s : State) (h k : Nat) (f : DmaSt → DmaSt) : (s.modDma h k f).time = s.time := rfl
@[simp] theorem State.modDma_items (s : State) (h k : Nat) (f : DmaSt → DmaSt) : (s.modDma h k f).items = s.items := rfl
@[simp] theorem State.modDma_traceRing (s : State) (h k : Nat) (f : DmaSt → DmaSt) : (s.modDma h k f).traceRing = s.traceRing := rfl
@[simp] theorem State.modDma_credits (s : State) (h k : Nat) (f : DmaSt → DmaSt) : (s.modDma h k f).credits = s.credits := rfl
@[simp] theorem State.modDma_lineOvf (s : State) (h k : Nat) (f : DmaSt → DmaSt) : (s.modDma h k f).lineOvf = s.lineOvf := rfl
@[simp] theorem State.modDma_codes (s : State) (h k : Nat) (f : DmaSt → DmaSt) : (s.modDma h k f).codes = s.codes := rfl
@[simp] theorem State.modDma_spares (s : State) (h k : Nat) (f : DmaSt → DmaSt) : (s.modDma h k f).spares = s.spares := rfl
@[simp] theorem State.modDma_stream (s : State) (h k : Nat) (f : DmaSt → DmaSt) : (s.modDma h k f).stream = s.stream := rfl
@[simp] theorem State.modDma_readData (s : State) (h k : Nat) (f : DmaSt → DmaSt) : (s.modDma h k f).readData = s.readData := rfl
@[simp] theorem State.modDma_wb (s : State) (h k : Nat) (f : DmaSt → DmaSt) : (s.modDma h k f).wb = s.wb := rfl
@[simp] theorem State.modDma_trg (s : State) (h k : Nat) (f : DmaSt → DmaSt) : (s.modDma h k f).trg = s.trg := rfl
@[simp] theorem State.modDma_trgTx (s : State) (h k : Nat) (f : DmaSt → DmaSt) : (s.modDma h k f).trgTx = s.trgTx := rfl
@[simp] theorem State.modDma_recs (s : State) (h k : Nat) (f : DmaSt → DmaSt) : (s.modDma h k f).recs = s.recs := rfl
@[simp] theorem State.modDma_dens (s : State) (h k : Nat) (f : DmaSt → DmaSt) : (s.modDma h k f).dens = s.dens := rfl
@[simp] theorem State.modDma_cores (s : State) (h k : Nat) (f : DmaSt → DmaSt) : (s.modDma h k f).cores = s.cores := rfl
@[simp] theorem State.modDma_zooms (s : State) (h k : Nat) (f : DmaSt → DmaSt) : (s.modDma h k f).zooms = s.zooms := rfl
@[simp] theorem State.modDma_repairs (s : State) (h k : Nat) (f : DmaSt → DmaSt) : (s.modDma h k f).repairs = s.repairs := rfl
@[simp] theorem State.modDma_lead (s : State) (h k : Nat) (f : DmaSt → DmaSt) : (s.modDma h k f).lead = s.lead := rfl
@[simp] theorem State.modDma_tdc (s : State) (h k : Nat) (f : DmaSt → DmaSt) : (s.modDma h k f).tdc = s.tdc := rfl
@[simp] theorem State.modDma_iv (s : State) (h k : Nat) (f : DmaSt → DmaSt) : (s.modDma h k f).iv = s.iv := rfl
@[simp] theorem State.modDma_tdcCheck (s : State) (h k : Nat) (f : DmaSt → DmaSt) : (s.modDma h k f).tdcCheck = s.tdcCheck := rfl
@[simp] theorem State.modDma_ddr (s : State) (h k : Nat) (f : DmaSt → DmaSt) : (s.modDma h k f).ddr = s.ddr := rfl
@[simp] theorem State.modDma_nfs (s : State) (h k : Nat) (f : DmaSt → DmaSt) : (s.modDma h k f).nfs = s.nfs := rfl
@[simp] theorem State.modDma_powerGood (s : State) (h k : Nat) (f : DmaSt → DmaSt) : (s.modDma h k f).powerGood = s.powerGood := rfl
@[simp] theorem State.modDma_resetLow (s : State) (h k : Nat) (f : DmaSt → DmaSt) : (s.modDma h k f).resetLow = s.resetLow := rfl
@[simp] theorem State.modDma_clk (s : State) (h k : Nat) (f : DmaSt → DmaSt) : (s.modDma h k f).clk = s.clk := rfl
@[simp] theorem State.modDma_enabledIn (s : State) (h k : Nat) (f : DmaSt → DmaSt) : (s.modDma h k f).enabledIn = s.enabledIn := rfl
@[simp] theorem State.modDma_enableStep (s : State) (h k : Nat) (f : DmaSt → DmaSt) : (s.modDma h k f).enableStep = s.enableStep := rfl
@[simp] theorem State.modDma_hk (s : State) (h k : Nat) (f : DmaSt → DmaSt) : (s.modDma h k f).hk = s.hk := rfl
@[simp] theorem State.modDma_pairs (s : State) (h k : Nat) (f : DmaSt → DmaSt) : (s.modDma h k f).pairs = s.pairs := rfl
@[simp] theorem State.modDma_pwm (s : State) (h k : Nat) (f : DmaSt → DmaSt) : (s.modDma h k f).pwm = s.pwm := rfl
@[simp] theorem State.modDma_hkAt (s : State) (h k : Nat) (f : DmaSt → DmaSt) : (s.modDma h k f).hkAt = s.hkAt := rfl
@[simp] theorem State.modDma_powered (s : State) (h k : Nat) (f : DmaSt → DmaSt) : (s.modDma h k f).powered = s.powered := rfl
@[simp] theorem State.modDma_hotLost (s : State) (h k : Nat) (f : DmaSt → DmaSt) : (s.modDma h k f).hotLost = s.hotLost := rfl
@[simp] theorem State.modDma_disp (s : State) (h k : Nat) (f : DmaSt → DmaSt) : (s.modDma h k f).disp = s.disp := rfl
@[simp] theorem State.modDma_dmaMem (s : State) (h k : Nat) (f : DmaSt → DmaSt) : (s.modDma h k f).dmaMem = s.dmaMem := rfl
@[simp] theorem State.modDma_eth (s : State) (h k : Nat) (f : DmaSt → DmaSt) : (s.modDma h k f).eth = s.eth := rfl
@[simp] theorem State.modDma_strs (s : State) (h k : Nat) (f : DmaSt → DmaSt) : (s.modDma h k f).strs = s.strs := rfl
@[simp] theorem State.modDma_access (s : State) (h k : Nat) (f : DmaSt → DmaSt) : (s.modDma h k f).access = s.access := rfl
@[simp] theorem State.modDma_fcol (s : State) (h k : Nat) (f : DmaSt → DmaSt) : (s.modDma h k f).fcol = s.fcol := rfl
@[simp] theorem State.modDma_aliveRuns (s : State) (h k : Nat) (f : DmaSt → DmaSt) : (s.modDma h k f).aliveRuns = s.aliveRuns := rfl
@[simp] theorem State.modDma_alive (s : State) (h k : Nat) (f : DmaSt → DmaSt) : (s.modDma h k f).alive = s.alive := rfl
@[simp] theorem State.modDma_controlLost (s : State) (h k : Nat) (f : DmaSt → DmaSt) : (s.modDma h k f).controlLost = s.controlLost := rfl
@[simp] theorem State.modDma_beatsMissed (s : State) (h k : Nat) (f : DmaSt → DmaSt) : (s.modDma h k f).beatsMissed = s.beatsMissed := rfl
@[simp] theorem State.modDma_mbox (s : State) (h k : Nat) (f : DmaSt → DmaSt) : (s.modDma h k f).mbox = s.mbox := rfl
@[simp] theorem State.modDma_plans (s : State) (h k : Nat) (f : DmaSt → DmaSt) : (s.modDma h k f).plans = s.plans := rfl
@[simp] theorem State.modDma_planCmds (s : State) (h k : Nat) (f : DmaSt → DmaSt) : (s.modDma h k f).planCmds = s.planCmds := rfl
@[simp] theorem State.modDma_admissions (s : State) (h k : Nat) (f : DmaSt → DmaSt) : (s.modDma h k f).admissions = s.admissions := rfl
@[simp] theorem State.modDma_energy (s : State) (h k : Nat) (f : DmaSt → DmaSt) : (s.modDma h k f).energy = s.energy := rfl
@[simp] theorem State.modDma_ledger (s : State) (h k : Nat) (f : DmaSt → DmaSt) : (s.modDma h k f).ledger = s.ledger := rfl
@[simp] theorem State.modDma_rails (s : State) (h k : Nat) (f : DmaSt → DmaSt) : (s.modDma h k f).rails = s.rails := rfl
@[simp] theorem State.modDma_boot (s : State) (h k : Nat) (f : DmaSt → DmaSt) : (s.modDma h k f).boot = s.boot := rfl
@[simp] theorem State.modDma_brokenPipes (s : State) (h k : Nat) (f : DmaSt → DmaSt) : (s.modDma h k f).brokenPipes = s.brokenPipes := rfl
@[simp] theorem State.modDma_spi (s : State) (h k : Nat) (f : DmaSt → DmaSt) : (s.modDma h k f).spi = s.spi := rfl
@[simp] theorem State.modDma_fuses (s : State) (h k : Nat) (f : DmaSt → DmaSt) : (s.modDma h k f).fuses = s.fuses := rfl
@[simp] theorem State.modDma_fusedSvn (s : State) (h k : Nat) (f : DmaSt → DmaSt) : (s.modDma h k f).fusedSvn = s.fusedSvn := rfl
@[simp] theorem State.modDma_keyHash (s : State) (h k : Nat) (f : DmaSt → DmaSt) : (s.modDma h k f).keyHash = s.keyHash := rfl
@[simp] theorem State.modDma_hashIn (s : State) (h k : Nat) (f : DmaSt → DmaSt) : (s.modDma h k f).hashIn = s.hashIn := rfl

/-! modEth -/
@[simp] theorem State.modEth_pending (s : State) (h : Nat) (f : EthSt → EthSt) : (s.modEth h f).pending = s.pending := rfl
@[simp] theorem State.modEth_part (s : State) (h : Nat) (f : EthSt → EthSt) : (s.modEth h f).part = s.part := rfl
@[simp] theorem State.modEth_suffixE (s : State) (h : Nat) (f : EthSt → EthSt) : (s.modEth h f).suffixE = s.suffixE := rfl
@[simp] theorem State.modEth_regs (s : State) (h : Nat) (f : EthSt → EthSt) : (s.modEth h f).regs = s.regs := rfl
@[simp] theorem State.modEth_live (s : State) (h : Nat) (f : EthSt → EthSt) : (s.modEth h f).live = s.live := rfl
@[simp] theorem State.modEth_tabS (s : State) (h : Nat) (f : EthSt → EthSt) : (s.modEth h f).tabS = s.tabS := rfl
@[simp] theorem State.modEth_tabL (s : State) (h : Nat) (f : EthSt → EthSt) : (s.modEth h f).tabL = s.tabL := rfl
@[simp] theorem State.modEth_force (s : State) (h : Nat) (f : EthSt → EthSt) : (s.modEth h f).force = s.force := rfl
@[simp] theorem State.modEth_tabF (s : State) (h : Nat) (f : EthSt → EthSt) : (s.modEth h f).tabF = s.tabF := rfl
@[simp] theorem State.modEth_locked (s : State) (h : Nat) (f : EthSt → EthSt) : (s.modEth h f).locked = s.locked := rfl
@[simp] theorem State.modEth_cap (s : State) (h : Nat) (f : EthSt → EthSt) : (s.modEth h f).cap = s.cap := rfl
@[simp] theorem State.modEth_flight (s : State) (h : Nat) (f : EthSt → EthSt) : (s.modEth h f).flight = s.flight := rfl
@[simp] theorem State.modEth_marks (s : State) (h : Nat) (f : EthSt → EthSt) : (s.modEth h f).marks = s.marks := rfl
@[simp] theorem State.modEth_drawn (s : State) (h : Nat) (f : EthSt → EthSt) : (s.modEth h f).drawn = s.drawn := rfl
@[simp] theorem State.modEth_link (s : State) (h : Nat) (f : EthSt → EthSt) : (s.modEth h f).link = s.link := rfl
@[simp] theorem State.modEth_acq (s : State) (h : Nat) (f : EthSt → EthSt) : (s.modEth h f).acq = s.acq := rfl
@[simp] theorem State.modEth_jrx (s : State) (h : Nat) (f : EthSt → EthSt) : (s.modEth h f).jrx = s.jrx := rfl
@[simp] theorem State.modEth_time (s : State) (h : Nat) (f : EthSt → EthSt) : (s.modEth h f).time = s.time := rfl
@[simp] theorem State.modEth_items (s : State) (h : Nat) (f : EthSt → EthSt) : (s.modEth h f).items = s.items := rfl
@[simp] theorem State.modEth_traceRing (s : State) (h : Nat) (f : EthSt → EthSt) : (s.modEth h f).traceRing = s.traceRing := rfl
@[simp] theorem State.modEth_credits (s : State) (h : Nat) (f : EthSt → EthSt) : (s.modEth h f).credits = s.credits := rfl
@[simp] theorem State.modEth_lineOvf (s : State) (h : Nat) (f : EthSt → EthSt) : (s.modEth h f).lineOvf = s.lineOvf := rfl
@[simp] theorem State.modEth_codes (s : State) (h : Nat) (f : EthSt → EthSt) : (s.modEth h f).codes = s.codes := rfl
@[simp] theorem State.modEth_spares (s : State) (h : Nat) (f : EthSt → EthSt) : (s.modEth h f).spares = s.spares := rfl
@[simp] theorem State.modEth_stream (s : State) (h : Nat) (f : EthSt → EthSt) : (s.modEth h f).stream = s.stream := rfl
@[simp] theorem State.modEth_readData (s : State) (h : Nat) (f : EthSt → EthSt) : (s.modEth h f).readData = s.readData := rfl
@[simp] theorem State.modEth_wb (s : State) (h : Nat) (f : EthSt → EthSt) : (s.modEth h f).wb = s.wb := rfl
@[simp] theorem State.modEth_trg (s : State) (h : Nat) (f : EthSt → EthSt) : (s.modEth h f).trg = s.trg := rfl
@[simp] theorem State.modEth_trgTx (s : State) (h : Nat) (f : EthSt → EthSt) : (s.modEth h f).trgTx = s.trgTx := rfl
@[simp] theorem State.modEth_recs (s : State) (h : Nat) (f : EthSt → EthSt) : (s.modEth h f).recs = s.recs := rfl
@[simp] theorem State.modEth_dens (s : State) (h : Nat) (f : EthSt → EthSt) : (s.modEth h f).dens = s.dens := rfl
@[simp] theorem State.modEth_cores (s : State) (h : Nat) (f : EthSt → EthSt) : (s.modEth h f).cores = s.cores := rfl
@[simp] theorem State.modEth_zooms (s : State) (h : Nat) (f : EthSt → EthSt) : (s.modEth h f).zooms = s.zooms := rfl
@[simp] theorem State.modEth_repairs (s : State) (h : Nat) (f : EthSt → EthSt) : (s.modEth h f).repairs = s.repairs := rfl
@[simp] theorem State.modEth_lead (s : State) (h : Nat) (f : EthSt → EthSt) : (s.modEth h f).lead = s.lead := rfl
@[simp] theorem State.modEth_tdc (s : State) (h : Nat) (f : EthSt → EthSt) : (s.modEth h f).tdc = s.tdc := rfl
@[simp] theorem State.modEth_iv (s : State) (h : Nat) (f : EthSt → EthSt) : (s.modEth h f).iv = s.iv := rfl
@[simp] theorem State.modEth_tdcCheck (s : State) (h : Nat) (f : EthSt → EthSt) : (s.modEth h f).tdcCheck = s.tdcCheck := rfl
@[simp] theorem State.modEth_ddr (s : State) (h : Nat) (f : EthSt → EthSt) : (s.modEth h f).ddr = s.ddr := rfl
@[simp] theorem State.modEth_nfs (s : State) (h : Nat) (f : EthSt → EthSt) : (s.modEth h f).nfs = s.nfs := rfl
@[simp] theorem State.modEth_powerGood (s : State) (h : Nat) (f : EthSt → EthSt) : (s.modEth h f).powerGood = s.powerGood := rfl
@[simp] theorem State.modEth_resetLow (s : State) (h : Nat) (f : EthSt → EthSt) : (s.modEth h f).resetLow = s.resetLow := rfl
@[simp] theorem State.modEth_clk (s : State) (h : Nat) (f : EthSt → EthSt) : (s.modEth h f).clk = s.clk := rfl
@[simp] theorem State.modEth_enabledIn (s : State) (h : Nat) (f : EthSt → EthSt) : (s.modEth h f).enabledIn = s.enabledIn := rfl
@[simp] theorem State.modEth_enableStep (s : State) (h : Nat) (f : EthSt → EthSt) : (s.modEth h f).enableStep = s.enableStep := rfl
@[simp] theorem State.modEth_hk (s : State) (h : Nat) (f : EthSt → EthSt) : (s.modEth h f).hk = s.hk := rfl
@[simp] theorem State.modEth_pairs (s : State) (h : Nat) (f : EthSt → EthSt) : (s.modEth h f).pairs = s.pairs := rfl
@[simp] theorem State.modEth_pwm (s : State) (h : Nat) (f : EthSt → EthSt) : (s.modEth h f).pwm = s.pwm := rfl
@[simp] theorem State.modEth_hkAt (s : State) (h : Nat) (f : EthSt → EthSt) : (s.modEth h f).hkAt = s.hkAt := rfl
@[simp] theorem State.modEth_powered (s : State) (h : Nat) (f : EthSt → EthSt) : (s.modEth h f).powered = s.powered := rfl
@[simp] theorem State.modEth_hotLost (s : State) (h : Nat) (f : EthSt → EthSt) : (s.modEth h f).hotLost = s.hotLost := rfl
@[simp] theorem State.modEth_disp (s : State) (h : Nat) (f : EthSt → EthSt) : (s.modEth h f).disp = s.disp := rfl
@[simp] theorem State.modEth_dma (s : State) (h : Nat) (f : EthSt → EthSt) : (s.modEth h f).dma = s.dma := rfl
@[simp] theorem State.modEth_dmaMem (s : State) (h : Nat) (f : EthSt → EthSt) : (s.modEth h f).dmaMem = s.dmaMem := rfl
@[simp] theorem State.modEth_strs (s : State) (h : Nat) (f : EthSt → EthSt) : (s.modEth h f).strs = s.strs := rfl
@[simp] theorem State.modEth_access (s : State) (h : Nat) (f : EthSt → EthSt) : (s.modEth h f).access = s.access := rfl
@[simp] theorem State.modEth_fcol (s : State) (h : Nat) (f : EthSt → EthSt) : (s.modEth h f).fcol = s.fcol := rfl
@[simp] theorem State.modEth_aliveRuns (s : State) (h : Nat) (f : EthSt → EthSt) : (s.modEth h f).aliveRuns = s.aliveRuns := rfl
@[simp] theorem State.modEth_alive (s : State) (h : Nat) (f : EthSt → EthSt) : (s.modEth h f).alive = s.alive := rfl
@[simp] theorem State.modEth_controlLost (s : State) (h : Nat) (f : EthSt → EthSt) : (s.modEth h f).controlLost = s.controlLost := rfl
@[simp] theorem State.modEth_beatsMissed (s : State) (h : Nat) (f : EthSt → EthSt) : (s.modEth h f).beatsMissed = s.beatsMissed := rfl
@[simp] theorem State.modEth_mbox (s : State) (h : Nat) (f : EthSt → EthSt) : (s.modEth h f).mbox = s.mbox := rfl
@[simp] theorem State.modEth_plans (s : State) (h : Nat) (f : EthSt → EthSt) : (s.modEth h f).plans = s.plans := rfl
@[simp] theorem State.modEth_planCmds (s : State) (h : Nat) (f : EthSt → EthSt) : (s.modEth h f).planCmds = s.planCmds := rfl
@[simp] theorem State.modEth_admissions (s : State) (h : Nat) (f : EthSt → EthSt) : (s.modEth h f).admissions = s.admissions := rfl
@[simp] theorem State.modEth_energy (s : State) (h : Nat) (f : EthSt → EthSt) : (s.modEth h f).energy = s.energy := rfl
@[simp] theorem State.modEth_ledger (s : State) (h : Nat) (f : EthSt → EthSt) : (s.modEth h f).ledger = s.ledger := rfl
@[simp] theorem State.modEth_rails (s : State) (h : Nat) (f : EthSt → EthSt) : (s.modEth h f).rails = s.rails := rfl
@[simp] theorem State.modEth_boot (s : State) (h : Nat) (f : EthSt → EthSt) : (s.modEth h f).boot = s.boot := rfl
@[simp] theorem State.modEth_brokenPipes (s : State) (h : Nat) (f : EthSt → EthSt) : (s.modEth h f).brokenPipes = s.brokenPipes := rfl
@[simp] theorem State.modEth_spi (s : State) (h : Nat) (f : EthSt → EthSt) : (s.modEth h f).spi = s.spi := rfl
@[simp] theorem State.modEth_fuses (s : State) (h : Nat) (f : EthSt → EthSt) : (s.modEth h f).fuses = s.fuses := rfl
@[simp] theorem State.modEth_fusedSvn (s : State) (h : Nat) (f : EthSt → EthSt) : (s.modEth h f).fusedSvn = s.fusedSvn := rfl
@[simp] theorem State.modEth_keyHash (s : State) (h : Nat) (f : EthSt → EthSt) : (s.modEth h f).keyHash = s.keyHash := rfl
@[simp] theorem State.modEth_hashIn (s : State) (h : Nat) (f : EthSt → EthSt) : (s.modEth h f).hashIn = s.hashIn := rfl

/-! modStr -/
@[simp] theorem State.modStr_pending (s : State) (h t : Nat) (f : EthStr → EthStr) : (s.modStr h t f).pending = s.pending := rfl
@[simp] theorem State.modStr_part (s : State) (h t : Nat) (f : EthStr → EthStr) : (s.modStr h t f).part = s.part := rfl
@[simp] theorem State.modStr_suffixE (s : State) (h t : Nat) (f : EthStr → EthStr) : (s.modStr h t f).suffixE = s.suffixE := rfl
@[simp] theorem State.modStr_regs (s : State) (h t : Nat) (f : EthStr → EthStr) : (s.modStr h t f).regs = s.regs := rfl
@[simp] theorem State.modStr_live (s : State) (h t : Nat) (f : EthStr → EthStr) : (s.modStr h t f).live = s.live := rfl
@[simp] theorem State.modStr_tabS (s : State) (h t : Nat) (f : EthStr → EthStr) : (s.modStr h t f).tabS = s.tabS := rfl
@[simp] theorem State.modStr_tabL (s : State) (h t : Nat) (f : EthStr → EthStr) : (s.modStr h t f).tabL = s.tabL := rfl
@[simp] theorem State.modStr_force (s : State) (h t : Nat) (f : EthStr → EthStr) : (s.modStr h t f).force = s.force := rfl
@[simp] theorem State.modStr_tabF (s : State) (h t : Nat) (f : EthStr → EthStr) : (s.modStr h t f).tabF = s.tabF := rfl
@[simp] theorem State.modStr_locked (s : State) (h t : Nat) (f : EthStr → EthStr) : (s.modStr h t f).locked = s.locked := rfl
@[simp] theorem State.modStr_cap (s : State) (h t : Nat) (f : EthStr → EthStr) : (s.modStr h t f).cap = s.cap := rfl
@[simp] theorem State.modStr_flight (s : State) (h t : Nat) (f : EthStr → EthStr) : (s.modStr h t f).flight = s.flight := rfl
@[simp] theorem State.modStr_marks (s : State) (h t : Nat) (f : EthStr → EthStr) : (s.modStr h t f).marks = s.marks := rfl
@[simp] theorem State.modStr_drawn (s : State) (h t : Nat) (f : EthStr → EthStr) : (s.modStr h t f).drawn = s.drawn := rfl
@[simp] theorem State.modStr_link (s : State) (h t : Nat) (f : EthStr → EthStr) : (s.modStr h t f).link = s.link := rfl
@[simp] theorem State.modStr_acq (s : State) (h t : Nat) (f : EthStr → EthStr) : (s.modStr h t f).acq = s.acq := rfl
@[simp] theorem State.modStr_jrx (s : State) (h t : Nat) (f : EthStr → EthStr) : (s.modStr h t f).jrx = s.jrx := rfl
@[simp] theorem State.modStr_time (s : State) (h t : Nat) (f : EthStr → EthStr) : (s.modStr h t f).time = s.time := rfl
@[simp] theorem State.modStr_items (s : State) (h t : Nat) (f : EthStr → EthStr) : (s.modStr h t f).items = s.items := rfl
@[simp] theorem State.modStr_traceRing (s : State) (h t : Nat) (f : EthStr → EthStr) : (s.modStr h t f).traceRing = s.traceRing := rfl
@[simp] theorem State.modStr_credits (s : State) (h t : Nat) (f : EthStr → EthStr) : (s.modStr h t f).credits = s.credits := rfl
@[simp] theorem State.modStr_lineOvf (s : State) (h t : Nat) (f : EthStr → EthStr) : (s.modStr h t f).lineOvf = s.lineOvf := rfl
@[simp] theorem State.modStr_codes (s : State) (h t : Nat) (f : EthStr → EthStr) : (s.modStr h t f).codes = s.codes := rfl
@[simp] theorem State.modStr_spares (s : State) (h t : Nat) (f : EthStr → EthStr) : (s.modStr h t f).spares = s.spares := rfl
@[simp] theorem State.modStr_stream (s : State) (h t : Nat) (f : EthStr → EthStr) : (s.modStr h t f).stream = s.stream := rfl
@[simp] theorem State.modStr_readData (s : State) (h t : Nat) (f : EthStr → EthStr) : (s.modStr h t f).readData = s.readData := rfl
@[simp] theorem State.modStr_wb (s : State) (h t : Nat) (f : EthStr → EthStr) : (s.modStr h t f).wb = s.wb := rfl
@[simp] theorem State.modStr_trg (s : State) (h t : Nat) (f : EthStr → EthStr) : (s.modStr h t f).trg = s.trg := rfl
@[simp] theorem State.modStr_trgTx (s : State) (h t : Nat) (f : EthStr → EthStr) : (s.modStr h t f).trgTx = s.trgTx := rfl
@[simp] theorem State.modStr_recs (s : State) (h t : Nat) (f : EthStr → EthStr) : (s.modStr h t f).recs = s.recs := rfl
@[simp] theorem State.modStr_dens (s : State) (h t : Nat) (f : EthStr → EthStr) : (s.modStr h t f).dens = s.dens := rfl
@[simp] theorem State.modStr_cores (s : State) (h t : Nat) (f : EthStr → EthStr) : (s.modStr h t f).cores = s.cores := rfl
@[simp] theorem State.modStr_zooms (s : State) (h t : Nat) (f : EthStr → EthStr) : (s.modStr h t f).zooms = s.zooms := rfl
@[simp] theorem State.modStr_repairs (s : State) (h t : Nat) (f : EthStr → EthStr) : (s.modStr h t f).repairs = s.repairs := rfl
@[simp] theorem State.modStr_lead (s : State) (h t : Nat) (f : EthStr → EthStr) : (s.modStr h t f).lead = s.lead := rfl
@[simp] theorem State.modStr_tdc (s : State) (h t : Nat) (f : EthStr → EthStr) : (s.modStr h t f).tdc = s.tdc := rfl
@[simp] theorem State.modStr_iv (s : State) (h t : Nat) (f : EthStr → EthStr) : (s.modStr h t f).iv = s.iv := rfl
@[simp] theorem State.modStr_tdcCheck (s : State) (h t : Nat) (f : EthStr → EthStr) : (s.modStr h t f).tdcCheck = s.tdcCheck := rfl
@[simp] theorem State.modStr_ddr (s : State) (h t : Nat) (f : EthStr → EthStr) : (s.modStr h t f).ddr = s.ddr := rfl
@[simp] theorem State.modStr_nfs (s : State) (h t : Nat) (f : EthStr → EthStr) : (s.modStr h t f).nfs = s.nfs := rfl
@[simp] theorem State.modStr_powerGood (s : State) (h t : Nat) (f : EthStr → EthStr) : (s.modStr h t f).powerGood = s.powerGood := rfl
@[simp] theorem State.modStr_resetLow (s : State) (h t : Nat) (f : EthStr → EthStr) : (s.modStr h t f).resetLow = s.resetLow := rfl
@[simp] theorem State.modStr_clk (s : State) (h t : Nat) (f : EthStr → EthStr) : (s.modStr h t f).clk = s.clk := rfl
@[simp] theorem State.modStr_enabledIn (s : State) (h t : Nat) (f : EthStr → EthStr) : (s.modStr h t f).enabledIn = s.enabledIn := rfl
@[simp] theorem State.modStr_enableStep (s : State) (h t : Nat) (f : EthStr → EthStr) : (s.modStr h t f).enableStep = s.enableStep := rfl
@[simp] theorem State.modStr_hk (s : State) (h t : Nat) (f : EthStr → EthStr) : (s.modStr h t f).hk = s.hk := rfl
@[simp] theorem State.modStr_pairs (s : State) (h t : Nat) (f : EthStr → EthStr) : (s.modStr h t f).pairs = s.pairs := rfl
@[simp] theorem State.modStr_pwm (s : State) (h t : Nat) (f : EthStr → EthStr) : (s.modStr h t f).pwm = s.pwm := rfl
@[simp] theorem State.modStr_hkAt (s : State) (h t : Nat) (f : EthStr → EthStr) : (s.modStr h t f).hkAt = s.hkAt := rfl
@[simp] theorem State.modStr_powered (s : State) (h t : Nat) (f : EthStr → EthStr) : (s.modStr h t f).powered = s.powered := rfl
@[simp] theorem State.modStr_hotLost (s : State) (h t : Nat) (f : EthStr → EthStr) : (s.modStr h t f).hotLost = s.hotLost := rfl
@[simp] theorem State.modStr_disp (s : State) (h t : Nat) (f : EthStr → EthStr) : (s.modStr h t f).disp = s.disp := rfl
@[simp] theorem State.modStr_dma (s : State) (h t : Nat) (f : EthStr → EthStr) : (s.modStr h t f).dma = s.dma := rfl
@[simp] theorem State.modStr_dmaMem (s : State) (h t : Nat) (f : EthStr → EthStr) : (s.modStr h t f).dmaMem = s.dmaMem := rfl
@[simp] theorem State.modStr_eth (s : State) (h t : Nat) (f : EthStr → EthStr) : (s.modStr h t f).eth = s.eth := rfl
@[simp] theorem State.modStr_access (s : State) (h t : Nat) (f : EthStr → EthStr) : (s.modStr h t f).access = s.access := rfl
@[simp] theorem State.modStr_fcol (s : State) (h t : Nat) (f : EthStr → EthStr) : (s.modStr h t f).fcol = s.fcol := rfl
@[simp] theorem State.modStr_aliveRuns (s : State) (h t : Nat) (f : EthStr → EthStr) : (s.modStr h t f).aliveRuns = s.aliveRuns := rfl
@[simp] theorem State.modStr_alive (s : State) (h t : Nat) (f : EthStr → EthStr) : (s.modStr h t f).alive = s.alive := rfl
@[simp] theorem State.modStr_controlLost (s : State) (h t : Nat) (f : EthStr → EthStr) : (s.modStr h t f).controlLost = s.controlLost := rfl
@[simp] theorem State.modStr_beatsMissed (s : State) (h t : Nat) (f : EthStr → EthStr) : (s.modStr h t f).beatsMissed = s.beatsMissed := rfl
@[simp] theorem State.modStr_mbox (s : State) (h t : Nat) (f : EthStr → EthStr) : (s.modStr h t f).mbox = s.mbox := rfl
@[simp] theorem State.modStr_plans (s : State) (h t : Nat) (f : EthStr → EthStr) : (s.modStr h t f).plans = s.plans := rfl
@[simp] theorem State.modStr_planCmds (s : State) (h t : Nat) (f : EthStr → EthStr) : (s.modStr h t f).planCmds = s.planCmds := rfl
@[simp] theorem State.modStr_admissions (s : State) (h t : Nat) (f : EthStr → EthStr) : (s.modStr h t f).admissions = s.admissions := rfl
@[simp] theorem State.modStr_energy (s : State) (h t : Nat) (f : EthStr → EthStr) : (s.modStr h t f).energy = s.energy := rfl
@[simp] theorem State.modStr_ledger (s : State) (h t : Nat) (f : EthStr → EthStr) : (s.modStr h t f).ledger = s.ledger := rfl
@[simp] theorem State.modStr_rails (s : State) (h t : Nat) (f : EthStr → EthStr) : (s.modStr h t f).rails = s.rails := rfl
@[simp] theorem State.modStr_boot (s : State) (h t : Nat) (f : EthStr → EthStr) : (s.modStr h t f).boot = s.boot := rfl
@[simp] theorem State.modStr_brokenPipes (s : State) (h t : Nat) (f : EthStr → EthStr) : (s.modStr h t f).brokenPipes = s.brokenPipes := rfl
@[simp] theorem State.modStr_spi (s : State) (h t : Nat) (f : EthStr → EthStr) : (s.modStr h t f).spi = s.spi := rfl
@[simp] theorem State.modStr_fuses (s : State) (h t : Nat) (f : EthStr → EthStr) : (s.modStr h t f).fuses = s.fuses := rfl
@[simp] theorem State.modStr_fusedSvn (s : State) (h t : Nat) (f : EthStr → EthStr) : (s.modStr h t f).fusedSvn = s.fusedSvn := rfl
@[simp] theorem State.modStr_keyHash (s : State) (h t : Nat) (f : EthStr → EthStr) : (s.modStr h t f).keyHash = s.keyHash := rfl
@[simp] theorem State.modStr_hashIn (s : State) (h t : Nat) (f : EthStr → EthStr) : (s.modStr h t f).hashIn = s.hashIn := rfl

/-! modFcol -/
@[simp] theorem State.modFcol_pending (s : State) (h : Nat) (f : FcolSt → FcolSt) : (s.modFcol h f).pending = s.pending := rfl
@[simp] theorem State.modFcol_part (s : State) (h : Nat) (f : FcolSt → FcolSt) : (s.modFcol h f).part = s.part := rfl
@[simp] theorem State.modFcol_suffixE (s : State) (h : Nat) (f : FcolSt → FcolSt) : (s.modFcol h f).suffixE = s.suffixE := rfl
@[simp] theorem State.modFcol_regs (s : State) (h : Nat) (f : FcolSt → FcolSt) : (s.modFcol h f).regs = s.regs := rfl
@[simp] theorem State.modFcol_live (s : State) (h : Nat) (f : FcolSt → FcolSt) : (s.modFcol h f).live = s.live := rfl
@[simp] theorem State.modFcol_tabS (s : State) (h : Nat) (f : FcolSt → FcolSt) : (s.modFcol h f).tabS = s.tabS := rfl
@[simp] theorem State.modFcol_tabL (s : State) (h : Nat) (f : FcolSt → FcolSt) : (s.modFcol h f).tabL = s.tabL := rfl
@[simp] theorem State.modFcol_force (s : State) (h : Nat) (f : FcolSt → FcolSt) : (s.modFcol h f).force = s.force := rfl
@[simp] theorem State.modFcol_tabF (s : State) (h : Nat) (f : FcolSt → FcolSt) : (s.modFcol h f).tabF = s.tabF := rfl
@[simp] theorem State.modFcol_locked (s : State) (h : Nat) (f : FcolSt → FcolSt) : (s.modFcol h f).locked = s.locked := rfl
@[simp] theorem State.modFcol_cap (s : State) (h : Nat) (f : FcolSt → FcolSt) : (s.modFcol h f).cap = s.cap := rfl
@[simp] theorem State.modFcol_flight (s : State) (h : Nat) (f : FcolSt → FcolSt) : (s.modFcol h f).flight = s.flight := rfl
@[simp] theorem State.modFcol_marks (s : State) (h : Nat) (f : FcolSt → FcolSt) : (s.modFcol h f).marks = s.marks := rfl
@[simp] theorem State.modFcol_drawn (s : State) (h : Nat) (f : FcolSt → FcolSt) : (s.modFcol h f).drawn = s.drawn := rfl
@[simp] theorem State.modFcol_link (s : State) (h : Nat) (f : FcolSt → FcolSt) : (s.modFcol h f).link = s.link := rfl
@[simp] theorem State.modFcol_acq (s : State) (h : Nat) (f : FcolSt → FcolSt) : (s.modFcol h f).acq = s.acq := rfl
@[simp] theorem State.modFcol_jrx (s : State) (h : Nat) (f : FcolSt → FcolSt) : (s.modFcol h f).jrx = s.jrx := rfl
@[simp] theorem State.modFcol_time (s : State) (h : Nat) (f : FcolSt → FcolSt) : (s.modFcol h f).time = s.time := rfl
@[simp] theorem State.modFcol_items (s : State) (h : Nat) (f : FcolSt → FcolSt) : (s.modFcol h f).items = s.items := rfl
@[simp] theorem State.modFcol_traceRing (s : State) (h : Nat) (f : FcolSt → FcolSt) : (s.modFcol h f).traceRing = s.traceRing := rfl
@[simp] theorem State.modFcol_credits (s : State) (h : Nat) (f : FcolSt → FcolSt) : (s.modFcol h f).credits = s.credits := rfl
@[simp] theorem State.modFcol_lineOvf (s : State) (h : Nat) (f : FcolSt → FcolSt) : (s.modFcol h f).lineOvf = s.lineOvf := rfl
@[simp] theorem State.modFcol_codes (s : State) (h : Nat) (f : FcolSt → FcolSt) : (s.modFcol h f).codes = s.codes := rfl
@[simp] theorem State.modFcol_spares (s : State) (h : Nat) (f : FcolSt → FcolSt) : (s.modFcol h f).spares = s.spares := rfl
@[simp] theorem State.modFcol_stream (s : State) (h : Nat) (f : FcolSt → FcolSt) : (s.modFcol h f).stream = s.stream := rfl
@[simp] theorem State.modFcol_readData (s : State) (h : Nat) (f : FcolSt → FcolSt) : (s.modFcol h f).readData = s.readData := rfl
@[simp] theorem State.modFcol_wb (s : State) (h : Nat) (f : FcolSt → FcolSt) : (s.modFcol h f).wb = s.wb := rfl
@[simp] theorem State.modFcol_trg (s : State) (h : Nat) (f : FcolSt → FcolSt) : (s.modFcol h f).trg = s.trg := rfl
@[simp] theorem State.modFcol_trgTx (s : State) (h : Nat) (f : FcolSt → FcolSt) : (s.modFcol h f).trgTx = s.trgTx := rfl
@[simp] theorem State.modFcol_recs (s : State) (h : Nat) (f : FcolSt → FcolSt) : (s.modFcol h f).recs = s.recs := rfl
@[simp] theorem State.modFcol_dens (s : State) (h : Nat) (f : FcolSt → FcolSt) : (s.modFcol h f).dens = s.dens := rfl
@[simp] theorem State.modFcol_cores (s : State) (h : Nat) (f : FcolSt → FcolSt) : (s.modFcol h f).cores = s.cores := rfl
@[simp] theorem State.modFcol_zooms (s : State) (h : Nat) (f : FcolSt → FcolSt) : (s.modFcol h f).zooms = s.zooms := rfl
@[simp] theorem State.modFcol_repairs (s : State) (h : Nat) (f : FcolSt → FcolSt) : (s.modFcol h f).repairs = s.repairs := rfl
@[simp] theorem State.modFcol_lead (s : State) (h : Nat) (f : FcolSt → FcolSt) : (s.modFcol h f).lead = s.lead := rfl
@[simp] theorem State.modFcol_tdc (s : State) (h : Nat) (f : FcolSt → FcolSt) : (s.modFcol h f).tdc = s.tdc := rfl
@[simp] theorem State.modFcol_iv (s : State) (h : Nat) (f : FcolSt → FcolSt) : (s.modFcol h f).iv = s.iv := rfl
@[simp] theorem State.modFcol_tdcCheck (s : State) (h : Nat) (f : FcolSt → FcolSt) : (s.modFcol h f).tdcCheck = s.tdcCheck := rfl
@[simp] theorem State.modFcol_ddr (s : State) (h : Nat) (f : FcolSt → FcolSt) : (s.modFcol h f).ddr = s.ddr := rfl
@[simp] theorem State.modFcol_nfs (s : State) (h : Nat) (f : FcolSt → FcolSt) : (s.modFcol h f).nfs = s.nfs := rfl
@[simp] theorem State.modFcol_powerGood (s : State) (h : Nat) (f : FcolSt → FcolSt) : (s.modFcol h f).powerGood = s.powerGood := rfl
@[simp] theorem State.modFcol_resetLow (s : State) (h : Nat) (f : FcolSt → FcolSt) : (s.modFcol h f).resetLow = s.resetLow := rfl
@[simp] theorem State.modFcol_clk (s : State) (h : Nat) (f : FcolSt → FcolSt) : (s.modFcol h f).clk = s.clk := rfl
@[simp] theorem State.modFcol_enabledIn (s : State) (h : Nat) (f : FcolSt → FcolSt) : (s.modFcol h f).enabledIn = s.enabledIn := rfl
@[simp] theorem State.modFcol_enableStep (s : State) (h : Nat) (f : FcolSt → FcolSt) : (s.modFcol h f).enableStep = s.enableStep := rfl
@[simp] theorem State.modFcol_hk (s : State) (h : Nat) (f : FcolSt → FcolSt) : (s.modFcol h f).hk = s.hk := rfl
@[simp] theorem State.modFcol_pairs (s : State) (h : Nat) (f : FcolSt → FcolSt) : (s.modFcol h f).pairs = s.pairs := rfl
@[simp] theorem State.modFcol_pwm (s : State) (h : Nat) (f : FcolSt → FcolSt) : (s.modFcol h f).pwm = s.pwm := rfl
@[simp] theorem State.modFcol_hkAt (s : State) (h : Nat) (f : FcolSt → FcolSt) : (s.modFcol h f).hkAt = s.hkAt := rfl
@[simp] theorem State.modFcol_powered (s : State) (h : Nat) (f : FcolSt → FcolSt) : (s.modFcol h f).powered = s.powered := rfl
@[simp] theorem State.modFcol_hotLost (s : State) (h : Nat) (f : FcolSt → FcolSt) : (s.modFcol h f).hotLost = s.hotLost := rfl
@[simp] theorem State.modFcol_disp (s : State) (h : Nat) (f : FcolSt → FcolSt) : (s.modFcol h f).disp = s.disp := rfl
@[simp] theorem State.modFcol_dma (s : State) (h : Nat) (f : FcolSt → FcolSt) : (s.modFcol h f).dma = s.dma := rfl
@[simp] theorem State.modFcol_dmaMem (s : State) (h : Nat) (f : FcolSt → FcolSt) : (s.modFcol h f).dmaMem = s.dmaMem := rfl
@[simp] theorem State.modFcol_eth (s : State) (h : Nat) (f : FcolSt → FcolSt) : (s.modFcol h f).eth = s.eth := rfl
@[simp] theorem State.modFcol_strs (s : State) (h : Nat) (f : FcolSt → FcolSt) : (s.modFcol h f).strs = s.strs := rfl
@[simp] theorem State.modFcol_access (s : State) (h : Nat) (f : FcolSt → FcolSt) : (s.modFcol h f).access = s.access := rfl
@[simp] theorem State.modFcol_aliveRuns (s : State) (h : Nat) (f : FcolSt → FcolSt) : (s.modFcol h f).aliveRuns = s.aliveRuns := rfl
@[simp] theorem State.modFcol_alive (s : State) (h : Nat) (f : FcolSt → FcolSt) : (s.modFcol h f).alive = s.alive := rfl
@[simp] theorem State.modFcol_controlLost (s : State) (h : Nat) (f : FcolSt → FcolSt) : (s.modFcol h f).controlLost = s.controlLost := rfl
@[simp] theorem State.modFcol_beatsMissed (s : State) (h : Nat) (f : FcolSt → FcolSt) : (s.modFcol h f).beatsMissed = s.beatsMissed := rfl
@[simp] theorem State.modFcol_mbox (s : State) (h : Nat) (f : FcolSt → FcolSt) : (s.modFcol h f).mbox = s.mbox := rfl
@[simp] theorem State.modFcol_plans (s : State) (h : Nat) (f : FcolSt → FcolSt) : (s.modFcol h f).plans = s.plans := rfl
@[simp] theorem State.modFcol_planCmds (s : State) (h : Nat) (f : FcolSt → FcolSt) : (s.modFcol h f).planCmds = s.planCmds := rfl
@[simp] theorem State.modFcol_admissions (s : State) (h : Nat) (f : FcolSt → FcolSt) : (s.modFcol h f).admissions = s.admissions := rfl
@[simp] theorem State.modFcol_energy (s : State) (h : Nat) (f : FcolSt → FcolSt) : (s.modFcol h f).energy = s.energy := rfl
@[simp] theorem State.modFcol_ledger (s : State) (h : Nat) (f : FcolSt → FcolSt) : (s.modFcol h f).ledger = s.ledger := rfl
@[simp] theorem State.modFcol_rails (s : State) (h : Nat) (f : FcolSt → FcolSt) : (s.modFcol h f).rails = s.rails := rfl
@[simp] theorem State.modFcol_boot (s : State) (h : Nat) (f : FcolSt → FcolSt) : (s.modFcol h f).boot = s.boot := rfl
@[simp] theorem State.modFcol_brokenPipes (s : State) (h : Nat) (f : FcolSt → FcolSt) : (s.modFcol h f).brokenPipes = s.brokenPipes := rfl
@[simp] theorem State.modFcol_spi (s : State) (h : Nat) (f : FcolSt → FcolSt) : (s.modFcol h f).spi = s.spi := rfl
@[simp] theorem State.modFcol_fuses (s : State) (h : Nat) (f : FcolSt → FcolSt) : (s.modFcol h f).fuses = s.fuses := rfl
@[simp] theorem State.modFcol_fusedSvn (s : State) (h : Nat) (f : FcolSt → FcolSt) : (s.modFcol h f).fusedSvn = s.fusedSvn := rfl
@[simp] theorem State.modFcol_keyHash (s : State) (h : Nat) (f : FcolSt → FcolSt) : (s.modFcol h f).keyHash = s.keyHash := rfl
@[simp] theorem State.modFcol_hashIn (s : State) (h : Nat) (f : FcolSt → FcolSt) : (s.modFcol h f).hashIn = s.hashIn := rfl

/-! modSrc -/
@[simp] theorem State.modSrc_pending (s : State) (h n : Nat) (f : FaultSrc → FaultSrc) : (s.modSrc h n f).pending = s.pending := rfl
@[simp] theorem State.modSrc_part (s : State) (h n : Nat) (f : FaultSrc → FaultSrc) : (s.modSrc h n f).part = s.part := rfl
@[simp] theorem State.modSrc_suffixE (s : State) (h n : Nat) (f : FaultSrc → FaultSrc) : (s.modSrc h n f).suffixE = s.suffixE := rfl
@[simp] theorem State.modSrc_regs (s : State) (h n : Nat) (f : FaultSrc → FaultSrc) : (s.modSrc h n f).regs = s.regs := rfl
@[simp] theorem State.modSrc_live (s : State) (h n : Nat) (f : FaultSrc → FaultSrc) : (s.modSrc h n f).live = s.live := rfl
@[simp] theorem State.modSrc_tabS (s : State) (h n : Nat) (f : FaultSrc → FaultSrc) : (s.modSrc h n f).tabS = s.tabS := rfl
@[simp] theorem State.modSrc_tabL (s : State) (h n : Nat) (f : FaultSrc → FaultSrc) : (s.modSrc h n f).tabL = s.tabL := rfl
@[simp] theorem State.modSrc_force (s : State) (h n : Nat) (f : FaultSrc → FaultSrc) : (s.modSrc h n f).force = s.force := rfl
@[simp] theorem State.modSrc_tabF (s : State) (h n : Nat) (f : FaultSrc → FaultSrc) : (s.modSrc h n f).tabF = s.tabF := rfl
@[simp] theorem State.modSrc_locked (s : State) (h n : Nat) (f : FaultSrc → FaultSrc) : (s.modSrc h n f).locked = s.locked := rfl
@[simp] theorem State.modSrc_cap (s : State) (h n : Nat) (f : FaultSrc → FaultSrc) : (s.modSrc h n f).cap = s.cap := rfl
@[simp] theorem State.modSrc_flight (s : State) (h n : Nat) (f : FaultSrc → FaultSrc) : (s.modSrc h n f).flight = s.flight := rfl
@[simp] theorem State.modSrc_marks (s : State) (h n : Nat) (f : FaultSrc → FaultSrc) : (s.modSrc h n f).marks = s.marks := rfl
@[simp] theorem State.modSrc_drawn (s : State) (h n : Nat) (f : FaultSrc → FaultSrc) : (s.modSrc h n f).drawn = s.drawn := rfl
@[simp] theorem State.modSrc_link (s : State) (h n : Nat) (f : FaultSrc → FaultSrc) : (s.modSrc h n f).link = s.link := rfl
@[simp] theorem State.modSrc_acq (s : State) (h n : Nat) (f : FaultSrc → FaultSrc) : (s.modSrc h n f).acq = s.acq := rfl
@[simp] theorem State.modSrc_jrx (s : State) (h n : Nat) (f : FaultSrc → FaultSrc) : (s.modSrc h n f).jrx = s.jrx := rfl
@[simp] theorem State.modSrc_time (s : State) (h n : Nat) (f : FaultSrc → FaultSrc) : (s.modSrc h n f).time = s.time := rfl
@[simp] theorem State.modSrc_items (s : State) (h n : Nat) (f : FaultSrc → FaultSrc) : (s.modSrc h n f).items = s.items := rfl
@[simp] theorem State.modSrc_traceRing (s : State) (h n : Nat) (f : FaultSrc → FaultSrc) : (s.modSrc h n f).traceRing = s.traceRing := rfl
@[simp] theorem State.modSrc_credits (s : State) (h n : Nat) (f : FaultSrc → FaultSrc) : (s.modSrc h n f).credits = s.credits := rfl
@[simp] theorem State.modSrc_lineOvf (s : State) (h n : Nat) (f : FaultSrc → FaultSrc) : (s.modSrc h n f).lineOvf = s.lineOvf := rfl
@[simp] theorem State.modSrc_codes (s : State) (h n : Nat) (f : FaultSrc → FaultSrc) : (s.modSrc h n f).codes = s.codes := rfl
@[simp] theorem State.modSrc_spares (s : State) (h n : Nat) (f : FaultSrc → FaultSrc) : (s.modSrc h n f).spares = s.spares := rfl
@[simp] theorem State.modSrc_stream (s : State) (h n : Nat) (f : FaultSrc → FaultSrc) : (s.modSrc h n f).stream = s.stream := rfl
@[simp] theorem State.modSrc_readData (s : State) (h n : Nat) (f : FaultSrc → FaultSrc) : (s.modSrc h n f).readData = s.readData := rfl
@[simp] theorem State.modSrc_wb (s : State) (h n : Nat) (f : FaultSrc → FaultSrc) : (s.modSrc h n f).wb = s.wb := rfl
@[simp] theorem State.modSrc_trg (s : State) (h n : Nat) (f : FaultSrc → FaultSrc) : (s.modSrc h n f).trg = s.trg := rfl
@[simp] theorem State.modSrc_trgTx (s : State) (h n : Nat) (f : FaultSrc → FaultSrc) : (s.modSrc h n f).trgTx = s.trgTx := rfl
@[simp] theorem State.modSrc_recs (s : State) (h n : Nat) (f : FaultSrc → FaultSrc) : (s.modSrc h n f).recs = s.recs := rfl
@[simp] theorem State.modSrc_dens (s : State) (h n : Nat) (f : FaultSrc → FaultSrc) : (s.modSrc h n f).dens = s.dens := rfl
@[simp] theorem State.modSrc_cores (s : State) (h n : Nat) (f : FaultSrc → FaultSrc) : (s.modSrc h n f).cores = s.cores := rfl
@[simp] theorem State.modSrc_zooms (s : State) (h n : Nat) (f : FaultSrc → FaultSrc) : (s.modSrc h n f).zooms = s.zooms := rfl
@[simp] theorem State.modSrc_repairs (s : State) (h n : Nat) (f : FaultSrc → FaultSrc) : (s.modSrc h n f).repairs = s.repairs := rfl
@[simp] theorem State.modSrc_lead (s : State) (h n : Nat) (f : FaultSrc → FaultSrc) : (s.modSrc h n f).lead = s.lead := rfl
@[simp] theorem State.modSrc_tdc (s : State) (h n : Nat) (f : FaultSrc → FaultSrc) : (s.modSrc h n f).tdc = s.tdc := rfl
@[simp] theorem State.modSrc_iv (s : State) (h n : Nat) (f : FaultSrc → FaultSrc) : (s.modSrc h n f).iv = s.iv := rfl
@[simp] theorem State.modSrc_tdcCheck (s : State) (h n : Nat) (f : FaultSrc → FaultSrc) : (s.modSrc h n f).tdcCheck = s.tdcCheck := rfl
@[simp] theorem State.modSrc_ddr (s : State) (h n : Nat) (f : FaultSrc → FaultSrc) : (s.modSrc h n f).ddr = s.ddr := rfl
@[simp] theorem State.modSrc_nfs (s : State) (h n : Nat) (f : FaultSrc → FaultSrc) : (s.modSrc h n f).nfs = s.nfs := rfl
@[simp] theorem State.modSrc_powerGood (s : State) (h n : Nat) (f : FaultSrc → FaultSrc) : (s.modSrc h n f).powerGood = s.powerGood := rfl
@[simp] theorem State.modSrc_resetLow (s : State) (h n : Nat) (f : FaultSrc → FaultSrc) : (s.modSrc h n f).resetLow = s.resetLow := rfl
@[simp] theorem State.modSrc_clk (s : State) (h n : Nat) (f : FaultSrc → FaultSrc) : (s.modSrc h n f).clk = s.clk := rfl
@[simp] theorem State.modSrc_enabledIn (s : State) (h n : Nat) (f : FaultSrc → FaultSrc) : (s.modSrc h n f).enabledIn = s.enabledIn := rfl
@[simp] theorem State.modSrc_enableStep (s : State) (h n : Nat) (f : FaultSrc → FaultSrc) : (s.modSrc h n f).enableStep = s.enableStep := rfl
@[simp] theorem State.modSrc_hk (s : State) (h n : Nat) (f : FaultSrc → FaultSrc) : (s.modSrc h n f).hk = s.hk := rfl
@[simp] theorem State.modSrc_pairs (s : State) (h n : Nat) (f : FaultSrc → FaultSrc) : (s.modSrc h n f).pairs = s.pairs := rfl
@[simp] theorem State.modSrc_pwm (s : State) (h n : Nat) (f : FaultSrc → FaultSrc) : (s.modSrc h n f).pwm = s.pwm := rfl
@[simp] theorem State.modSrc_hkAt (s : State) (h n : Nat) (f : FaultSrc → FaultSrc) : (s.modSrc h n f).hkAt = s.hkAt := rfl
@[simp] theorem State.modSrc_powered (s : State) (h n : Nat) (f : FaultSrc → FaultSrc) : (s.modSrc h n f).powered = s.powered := rfl
@[simp] theorem State.modSrc_hotLost (s : State) (h n : Nat) (f : FaultSrc → FaultSrc) : (s.modSrc h n f).hotLost = s.hotLost := rfl
@[simp] theorem State.modSrc_disp (s : State) (h n : Nat) (f : FaultSrc → FaultSrc) : (s.modSrc h n f).disp = s.disp := rfl
@[simp] theorem State.modSrc_dma (s : State) (h n : Nat) (f : FaultSrc → FaultSrc) : (s.modSrc h n f).dma = s.dma := rfl
@[simp] theorem State.modSrc_dmaMem (s : State) (h n : Nat) (f : FaultSrc → FaultSrc) : (s.modSrc h n f).dmaMem = s.dmaMem := rfl
@[simp] theorem State.modSrc_eth (s : State) (h n : Nat) (f : FaultSrc → FaultSrc) : (s.modSrc h n f).eth = s.eth := rfl
@[simp] theorem State.modSrc_strs (s : State) (h n : Nat) (f : FaultSrc → FaultSrc) : (s.modSrc h n f).strs = s.strs := rfl
@[simp] theorem State.modSrc_access (s : State) (h n : Nat) (f : FaultSrc → FaultSrc) : (s.modSrc h n f).access = s.access := rfl
@[simp] theorem State.modSrc_aliveRuns (s : State) (h n : Nat) (f : FaultSrc → FaultSrc) : (s.modSrc h n f).aliveRuns = s.aliveRuns := rfl
@[simp] theorem State.modSrc_alive (s : State) (h n : Nat) (f : FaultSrc → FaultSrc) : (s.modSrc h n f).alive = s.alive := rfl
@[simp] theorem State.modSrc_controlLost (s : State) (h n : Nat) (f : FaultSrc → FaultSrc) : (s.modSrc h n f).controlLost = s.controlLost := rfl
@[simp] theorem State.modSrc_beatsMissed (s : State) (h n : Nat) (f : FaultSrc → FaultSrc) : (s.modSrc h n f).beatsMissed = s.beatsMissed := rfl
@[simp] theorem State.modSrc_mbox (s : State) (h n : Nat) (f : FaultSrc → FaultSrc) : (s.modSrc h n f).mbox = s.mbox := rfl
@[simp] theorem State.modSrc_plans (s : State) (h n : Nat) (f : FaultSrc → FaultSrc) : (s.modSrc h n f).plans = s.plans := rfl
@[simp] theorem State.modSrc_planCmds (s : State) (h n : Nat) (f : FaultSrc → FaultSrc) : (s.modSrc h n f).planCmds = s.planCmds := rfl
@[simp] theorem State.modSrc_admissions (s : State) (h n : Nat) (f : FaultSrc → FaultSrc) : (s.modSrc h n f).admissions = s.admissions := rfl
@[simp] theorem State.modSrc_energy (s : State) (h n : Nat) (f : FaultSrc → FaultSrc) : (s.modSrc h n f).energy = s.energy := rfl
@[simp] theorem State.modSrc_ledger (s : State) (h n : Nat) (f : FaultSrc → FaultSrc) : (s.modSrc h n f).ledger = s.ledger := rfl
@[simp] theorem State.modSrc_rails (s : State) (h n : Nat) (f : FaultSrc → FaultSrc) : (s.modSrc h n f).rails = s.rails := rfl
@[simp] theorem State.modSrc_boot (s : State) (h n : Nat) (f : FaultSrc → FaultSrc) : (s.modSrc h n f).boot = s.boot := rfl
@[simp] theorem State.modSrc_brokenPipes (s : State) (h n : Nat) (f : FaultSrc → FaultSrc) : (s.modSrc h n f).brokenPipes = s.brokenPipes := rfl
@[simp] theorem State.modSrc_spi (s : State) (h n : Nat) (f : FaultSrc → FaultSrc) : (s.modSrc h n f).spi = s.spi := rfl
@[simp] theorem State.modSrc_fuses (s : State) (h n : Nat) (f : FaultSrc → FaultSrc) : (s.modSrc h n f).fuses = s.fuses := rfl
@[simp] theorem State.modSrc_fusedSvn (s : State) (h n : Nat) (f : FaultSrc → FaultSrc) : (s.modSrc h n f).fusedSvn = s.fusedSvn := rfl
@[simp] theorem State.modSrc_keyHash (s : State) (h n : Nat) (f : FaultSrc → FaultSrc) : (s.modSrc h n f).keyHash = s.keyHash := rfl
@[simp] theorem State.modSrc_hashIn (s : State) (h n : Nat) (f : FaultSrc → FaultSrc) : (s.modSrc h n f).hashIn = s.hashIn := rfl

/-! modHk -/
@[simp] theorem State.modHk_pending (s : State) (h c : Nat) (f : HkSt → HkSt) : (s.modHk h c f).pending = s.pending := rfl
@[simp] theorem State.modHk_part (s : State) (h c : Nat) (f : HkSt → HkSt) : (s.modHk h c f).part = s.part := rfl
@[simp] theorem State.modHk_suffixE (s : State) (h c : Nat) (f : HkSt → HkSt) : (s.modHk h c f).suffixE = s.suffixE := rfl
@[simp] theorem State.modHk_regs (s : State) (h c : Nat) (f : HkSt → HkSt) : (s.modHk h c f).regs = s.regs := rfl
@[simp] theorem State.modHk_live (s : State) (h c : Nat) (f : HkSt → HkSt) : (s.modHk h c f).live = s.live := rfl
@[simp] theorem State.modHk_tabS (s : State) (h c : Nat) (f : HkSt → HkSt) : (s.modHk h c f).tabS = s.tabS := rfl
@[simp] theorem State.modHk_tabL (s : State) (h c : Nat) (f : HkSt → HkSt) : (s.modHk h c f).tabL = s.tabL := rfl
@[simp] theorem State.modHk_force (s : State) (h c : Nat) (f : HkSt → HkSt) : (s.modHk h c f).force = s.force := rfl
@[simp] theorem State.modHk_tabF (s : State) (h c : Nat) (f : HkSt → HkSt) : (s.modHk h c f).tabF = s.tabF := rfl
@[simp] theorem State.modHk_locked (s : State) (h c : Nat) (f : HkSt → HkSt) : (s.modHk h c f).locked = s.locked := rfl
@[simp] theorem State.modHk_cap (s : State) (h c : Nat) (f : HkSt → HkSt) : (s.modHk h c f).cap = s.cap := rfl
@[simp] theorem State.modHk_flight (s : State) (h c : Nat) (f : HkSt → HkSt) : (s.modHk h c f).flight = s.flight := rfl
@[simp] theorem State.modHk_marks (s : State) (h c : Nat) (f : HkSt → HkSt) : (s.modHk h c f).marks = s.marks := rfl
@[simp] theorem State.modHk_drawn (s : State) (h c : Nat) (f : HkSt → HkSt) : (s.modHk h c f).drawn = s.drawn := rfl
@[simp] theorem State.modHk_link (s : State) (h c : Nat) (f : HkSt → HkSt) : (s.modHk h c f).link = s.link := rfl
@[simp] theorem State.modHk_acq (s : State) (h c : Nat) (f : HkSt → HkSt) : (s.modHk h c f).acq = s.acq := rfl
@[simp] theorem State.modHk_jrx (s : State) (h c : Nat) (f : HkSt → HkSt) : (s.modHk h c f).jrx = s.jrx := rfl
@[simp] theorem State.modHk_time (s : State) (h c : Nat) (f : HkSt → HkSt) : (s.modHk h c f).time = s.time := rfl
@[simp] theorem State.modHk_items (s : State) (h c : Nat) (f : HkSt → HkSt) : (s.modHk h c f).items = s.items := rfl
@[simp] theorem State.modHk_traceRing (s : State) (h c : Nat) (f : HkSt → HkSt) : (s.modHk h c f).traceRing = s.traceRing := rfl
@[simp] theorem State.modHk_credits (s : State) (h c : Nat) (f : HkSt → HkSt) : (s.modHk h c f).credits = s.credits := rfl
@[simp] theorem State.modHk_lineOvf (s : State) (h c : Nat) (f : HkSt → HkSt) : (s.modHk h c f).lineOvf = s.lineOvf := rfl
@[simp] theorem State.modHk_codes (s : State) (h c : Nat) (f : HkSt → HkSt) : (s.modHk h c f).codes = s.codes := rfl
@[simp] theorem State.modHk_spares (s : State) (h c : Nat) (f : HkSt → HkSt) : (s.modHk h c f).spares = s.spares := rfl
@[simp] theorem State.modHk_stream (s : State) (h c : Nat) (f : HkSt → HkSt) : (s.modHk h c f).stream = s.stream := rfl
@[simp] theorem State.modHk_readData (s : State) (h c : Nat) (f : HkSt → HkSt) : (s.modHk h c f).readData = s.readData := rfl
@[simp] theorem State.modHk_wb (s : State) (h c : Nat) (f : HkSt → HkSt) : (s.modHk h c f).wb = s.wb := rfl
@[simp] theorem State.modHk_trg (s : State) (h c : Nat) (f : HkSt → HkSt) : (s.modHk h c f).trg = s.trg := rfl
@[simp] theorem State.modHk_trgTx (s : State) (h c : Nat) (f : HkSt → HkSt) : (s.modHk h c f).trgTx = s.trgTx := rfl
@[simp] theorem State.modHk_recs (s : State) (h c : Nat) (f : HkSt → HkSt) : (s.modHk h c f).recs = s.recs := rfl
@[simp] theorem State.modHk_dens (s : State) (h c : Nat) (f : HkSt → HkSt) : (s.modHk h c f).dens = s.dens := rfl
@[simp] theorem State.modHk_cores (s : State) (h c : Nat) (f : HkSt → HkSt) : (s.modHk h c f).cores = s.cores := rfl
@[simp] theorem State.modHk_zooms (s : State) (h c : Nat) (f : HkSt → HkSt) : (s.modHk h c f).zooms = s.zooms := rfl
@[simp] theorem State.modHk_repairs (s : State) (h c : Nat) (f : HkSt → HkSt) : (s.modHk h c f).repairs = s.repairs := rfl
@[simp] theorem State.modHk_lead (s : State) (h c : Nat) (f : HkSt → HkSt) : (s.modHk h c f).lead = s.lead := rfl
@[simp] theorem State.modHk_tdc (s : State) (h c : Nat) (f : HkSt → HkSt) : (s.modHk h c f).tdc = s.tdc := rfl
@[simp] theorem State.modHk_iv (s : State) (h c : Nat) (f : HkSt → HkSt) : (s.modHk h c f).iv = s.iv := rfl
@[simp] theorem State.modHk_tdcCheck (s : State) (h c : Nat) (f : HkSt → HkSt) : (s.modHk h c f).tdcCheck = s.tdcCheck := rfl
@[simp] theorem State.modHk_ddr (s : State) (h c : Nat) (f : HkSt → HkSt) : (s.modHk h c f).ddr = s.ddr := rfl
@[simp] theorem State.modHk_nfs (s : State) (h c : Nat) (f : HkSt → HkSt) : (s.modHk h c f).nfs = s.nfs := rfl
@[simp] theorem State.modHk_powerGood (s : State) (h c : Nat) (f : HkSt → HkSt) : (s.modHk h c f).powerGood = s.powerGood := rfl
@[simp] theorem State.modHk_resetLow (s : State) (h c : Nat) (f : HkSt → HkSt) : (s.modHk h c f).resetLow = s.resetLow := rfl
@[simp] theorem State.modHk_clk (s : State) (h c : Nat) (f : HkSt → HkSt) : (s.modHk h c f).clk = s.clk := rfl
@[simp] theorem State.modHk_enabledIn (s : State) (h c : Nat) (f : HkSt → HkSt) : (s.modHk h c f).enabledIn = s.enabledIn := rfl
@[simp] theorem State.modHk_enableStep (s : State) (h c : Nat) (f : HkSt → HkSt) : (s.modHk h c f).enableStep = s.enableStep := rfl
@[simp] theorem State.modHk_pairs (s : State) (h c : Nat) (f : HkSt → HkSt) : (s.modHk h c f).pairs = s.pairs := rfl
@[simp] theorem State.modHk_pwm (s : State) (h c : Nat) (f : HkSt → HkSt) : (s.modHk h c f).pwm = s.pwm := rfl
@[simp] theorem State.modHk_hkAt (s : State) (h c : Nat) (f : HkSt → HkSt) : (s.modHk h c f).hkAt = s.hkAt := rfl
@[simp] theorem State.modHk_powered (s : State) (h c : Nat) (f : HkSt → HkSt) : (s.modHk h c f).powered = s.powered := rfl
@[simp] theorem State.modHk_hotLost (s : State) (h c : Nat) (f : HkSt → HkSt) : (s.modHk h c f).hotLost = s.hotLost := rfl
@[simp] theorem State.modHk_disp (s : State) (h c : Nat) (f : HkSt → HkSt) : (s.modHk h c f).disp = s.disp := rfl
@[simp] theorem State.modHk_dma (s : State) (h c : Nat) (f : HkSt → HkSt) : (s.modHk h c f).dma = s.dma := rfl
@[simp] theorem State.modHk_dmaMem (s : State) (h c : Nat) (f : HkSt → HkSt) : (s.modHk h c f).dmaMem = s.dmaMem := rfl
@[simp] theorem State.modHk_eth (s : State) (h c : Nat) (f : HkSt → HkSt) : (s.modHk h c f).eth = s.eth := rfl
@[simp] theorem State.modHk_strs (s : State) (h c : Nat) (f : HkSt → HkSt) : (s.modHk h c f).strs = s.strs := rfl
@[simp] theorem State.modHk_access (s : State) (h c : Nat) (f : HkSt → HkSt) : (s.modHk h c f).access = s.access := rfl
@[simp] theorem State.modHk_fcol (s : State) (h c : Nat) (f : HkSt → HkSt) : (s.modHk h c f).fcol = s.fcol := rfl
@[simp] theorem State.modHk_aliveRuns (s : State) (h c : Nat) (f : HkSt → HkSt) : (s.modHk h c f).aliveRuns = s.aliveRuns := rfl
@[simp] theorem State.modHk_alive (s : State) (h c : Nat) (f : HkSt → HkSt) : (s.modHk h c f).alive = s.alive := rfl
@[simp] theorem State.modHk_controlLost (s : State) (h c : Nat) (f : HkSt → HkSt) : (s.modHk h c f).controlLost = s.controlLost := rfl
@[simp] theorem State.modHk_beatsMissed (s : State) (h c : Nat) (f : HkSt → HkSt) : (s.modHk h c f).beatsMissed = s.beatsMissed := rfl
@[simp] theorem State.modHk_mbox (s : State) (h c : Nat) (f : HkSt → HkSt) : (s.modHk h c f).mbox = s.mbox := rfl
@[simp] theorem State.modHk_plans (s : State) (h c : Nat) (f : HkSt → HkSt) : (s.modHk h c f).plans = s.plans := rfl
@[simp] theorem State.modHk_planCmds (s : State) (h c : Nat) (f : HkSt → HkSt) : (s.modHk h c f).planCmds = s.planCmds := rfl
@[simp] theorem State.modHk_admissions (s : State) (h c : Nat) (f : HkSt → HkSt) : (s.modHk h c f).admissions = s.admissions := rfl
@[simp] theorem State.modHk_energy (s : State) (h c : Nat) (f : HkSt → HkSt) : (s.modHk h c f).energy = s.energy := rfl
@[simp] theorem State.modHk_ledger (s : State) (h c : Nat) (f : HkSt → HkSt) : (s.modHk h c f).ledger = s.ledger := rfl
@[simp] theorem State.modHk_rails (s : State) (h c : Nat) (f : HkSt → HkSt) : (s.modHk h c f).rails = s.rails := rfl
@[simp] theorem State.modHk_boot (s : State) (h c : Nat) (f : HkSt → HkSt) : (s.modHk h c f).boot = s.boot := rfl
@[simp] theorem State.modHk_brokenPipes (s : State) (h c : Nat) (f : HkSt → HkSt) : (s.modHk h c f).brokenPipes = s.brokenPipes := rfl
@[simp] theorem State.modHk_spi (s : State) (h c : Nat) (f : HkSt → HkSt) : (s.modHk h c f).spi = s.spi := rfl
@[simp] theorem State.modHk_fuses (s : State) (h c : Nat) (f : HkSt → HkSt) : (s.modHk h c f).fuses = s.fuses := rfl
@[simp] theorem State.modHk_fusedSvn (s : State) (h c : Nat) (f : HkSt → HkSt) : (s.modHk h c f).fusedSvn = s.fusedSvn := rfl
@[simp] theorem State.modHk_keyHash (s : State) (h c : Nat) (f : HkSt → HkSt) : (s.modHk h c f).keyHash = s.keyHash := rfl
@[simp] theorem State.modHk_hashIn (s : State) (h c : Nat) (f : HkSt → HkSt) : (s.modHk h c f).hashIn = s.hashIn := rfl

/-! modPair -/
@[simp] theorem State.modPair_pending (s : State) (h k : Nat) (f : PairSt → PairSt) : (s.modPair h k f).pending = s.pending := rfl
@[simp] theorem State.modPair_part (s : State) (h k : Nat) (f : PairSt → PairSt) : (s.modPair h k f).part = s.part := rfl
@[simp] theorem State.modPair_suffixE (s : State) (h k : Nat) (f : PairSt → PairSt) : (s.modPair h k f).suffixE = s.suffixE := rfl
@[simp] theorem State.modPair_regs (s : State) (h k : Nat) (f : PairSt → PairSt) : (s.modPair h k f).regs = s.regs := rfl
@[simp] theorem State.modPair_live (s : State) (h k : Nat) (f : PairSt → PairSt) : (s.modPair h k f).live = s.live := rfl
@[simp] theorem State.modPair_tabS (s : State) (h k : Nat) (f : PairSt → PairSt) : (s.modPair h k f).tabS = s.tabS := rfl
@[simp] theorem State.modPair_tabL (s : State) (h k : Nat) (f : PairSt → PairSt) : (s.modPair h k f).tabL = s.tabL := rfl
@[simp] theorem State.modPair_force (s : State) (h k : Nat) (f : PairSt → PairSt) : (s.modPair h k f).force = s.force := rfl
@[simp] theorem State.modPair_tabF (s : State) (h k : Nat) (f : PairSt → PairSt) : (s.modPair h k f).tabF = s.tabF := rfl
@[simp] theorem State.modPair_locked (s : State) (h k : Nat) (f : PairSt → PairSt) : (s.modPair h k f).locked = s.locked := rfl
@[simp] theorem State.modPair_cap (s : State) (h k : Nat) (f : PairSt → PairSt) : (s.modPair h k f).cap = s.cap := rfl
@[simp] theorem State.modPair_flight (s : State) (h k : Nat) (f : PairSt → PairSt) : (s.modPair h k f).flight = s.flight := rfl
@[simp] theorem State.modPair_marks (s : State) (h k : Nat) (f : PairSt → PairSt) : (s.modPair h k f).marks = s.marks := rfl
@[simp] theorem State.modPair_drawn (s : State) (h k : Nat) (f : PairSt → PairSt) : (s.modPair h k f).drawn = s.drawn := rfl
@[simp] theorem State.modPair_link (s : State) (h k : Nat) (f : PairSt → PairSt) : (s.modPair h k f).link = s.link := rfl
@[simp] theorem State.modPair_acq (s : State) (h k : Nat) (f : PairSt → PairSt) : (s.modPair h k f).acq = s.acq := rfl
@[simp] theorem State.modPair_jrx (s : State) (h k : Nat) (f : PairSt → PairSt) : (s.modPair h k f).jrx = s.jrx := rfl
@[simp] theorem State.modPair_time (s : State) (h k : Nat) (f : PairSt → PairSt) : (s.modPair h k f).time = s.time := rfl
@[simp] theorem State.modPair_items (s : State) (h k : Nat) (f : PairSt → PairSt) : (s.modPair h k f).items = s.items := rfl
@[simp] theorem State.modPair_traceRing (s : State) (h k : Nat) (f : PairSt → PairSt) : (s.modPair h k f).traceRing = s.traceRing := rfl
@[simp] theorem State.modPair_credits (s : State) (h k : Nat) (f : PairSt → PairSt) : (s.modPair h k f).credits = s.credits := rfl
@[simp] theorem State.modPair_lineOvf (s : State) (h k : Nat) (f : PairSt → PairSt) : (s.modPair h k f).lineOvf = s.lineOvf := rfl
@[simp] theorem State.modPair_codes (s : State) (h k : Nat) (f : PairSt → PairSt) : (s.modPair h k f).codes = s.codes := rfl
@[simp] theorem State.modPair_spares (s : State) (h k : Nat) (f : PairSt → PairSt) : (s.modPair h k f).spares = s.spares := rfl
@[simp] theorem State.modPair_stream (s : State) (h k : Nat) (f : PairSt → PairSt) : (s.modPair h k f).stream = s.stream := rfl
@[simp] theorem State.modPair_readData (s : State) (h k : Nat) (f : PairSt → PairSt) : (s.modPair h k f).readData = s.readData := rfl
@[simp] theorem State.modPair_wb (s : State) (h k : Nat) (f : PairSt → PairSt) : (s.modPair h k f).wb = s.wb := rfl
@[simp] theorem State.modPair_trg (s : State) (h k : Nat) (f : PairSt → PairSt) : (s.modPair h k f).trg = s.trg := rfl
@[simp] theorem State.modPair_trgTx (s : State) (h k : Nat) (f : PairSt → PairSt) : (s.modPair h k f).trgTx = s.trgTx := rfl
@[simp] theorem State.modPair_recs (s : State) (h k : Nat) (f : PairSt → PairSt) : (s.modPair h k f).recs = s.recs := rfl
@[simp] theorem State.modPair_dens (s : State) (h k : Nat) (f : PairSt → PairSt) : (s.modPair h k f).dens = s.dens := rfl
@[simp] theorem State.modPair_cores (s : State) (h k : Nat) (f : PairSt → PairSt) : (s.modPair h k f).cores = s.cores := rfl
@[simp] theorem State.modPair_zooms (s : State) (h k : Nat) (f : PairSt → PairSt) : (s.modPair h k f).zooms = s.zooms := rfl
@[simp] theorem State.modPair_repairs (s : State) (h k : Nat) (f : PairSt → PairSt) : (s.modPair h k f).repairs = s.repairs := rfl
@[simp] theorem State.modPair_lead (s : State) (h k : Nat) (f : PairSt → PairSt) : (s.modPair h k f).lead = s.lead := rfl
@[simp] theorem State.modPair_tdc (s : State) (h k : Nat) (f : PairSt → PairSt) : (s.modPair h k f).tdc = s.tdc := rfl
@[simp] theorem State.modPair_iv (s : State) (h k : Nat) (f : PairSt → PairSt) : (s.modPair h k f).iv = s.iv := rfl
@[simp] theorem State.modPair_tdcCheck (s : State) (h k : Nat) (f : PairSt → PairSt) : (s.modPair h k f).tdcCheck = s.tdcCheck := rfl
@[simp] theorem State.modPair_ddr (s : State) (h k : Nat) (f : PairSt → PairSt) : (s.modPair h k f).ddr = s.ddr := rfl
@[simp] theorem State.modPair_nfs (s : State) (h k : Nat) (f : PairSt → PairSt) : (s.modPair h k f).nfs = s.nfs := rfl
@[simp] theorem State.modPair_powerGood (s : State) (h k : Nat) (f : PairSt → PairSt) : (s.modPair h k f).powerGood = s.powerGood := rfl
@[simp] theorem State.modPair_resetLow (s : State) (h k : Nat) (f : PairSt → PairSt) : (s.modPair h k f).resetLow = s.resetLow := rfl
@[simp] theorem State.modPair_clk (s : State) (h k : Nat) (f : PairSt → PairSt) : (s.modPair h k f).clk = s.clk := rfl
@[simp] theorem State.modPair_enabledIn (s : State) (h k : Nat) (f : PairSt → PairSt) : (s.modPair h k f).enabledIn = s.enabledIn := rfl
@[simp] theorem State.modPair_enableStep (s : State) (h k : Nat) (f : PairSt → PairSt) : (s.modPair h k f).enableStep = s.enableStep := rfl
@[simp] theorem State.modPair_hk (s : State) (h k : Nat) (f : PairSt → PairSt) : (s.modPair h k f).hk = s.hk := rfl
@[simp] theorem State.modPair_pwm (s : State) (h k : Nat) (f : PairSt → PairSt) : (s.modPair h k f).pwm = s.pwm := rfl
@[simp] theorem State.modPair_hkAt (s : State) (h k : Nat) (f : PairSt → PairSt) : (s.modPair h k f).hkAt = s.hkAt := rfl
@[simp] theorem State.modPair_powered (s : State) (h k : Nat) (f : PairSt → PairSt) : (s.modPair h k f).powered = s.powered := rfl
@[simp] theorem State.modPair_hotLost (s : State) (h k : Nat) (f : PairSt → PairSt) : (s.modPair h k f).hotLost = s.hotLost := rfl
@[simp] theorem State.modPair_disp (s : State) (h k : Nat) (f : PairSt → PairSt) : (s.modPair h k f).disp = s.disp := rfl
@[simp] theorem State.modPair_dma (s : State) (h k : Nat) (f : PairSt → PairSt) : (s.modPair h k f).dma = s.dma := rfl
@[simp] theorem State.modPair_dmaMem (s : State) (h k : Nat) (f : PairSt → PairSt) : (s.modPair h k f).dmaMem = s.dmaMem := rfl
@[simp] theorem State.modPair_eth (s : State) (h k : Nat) (f : PairSt → PairSt) : (s.modPair h k f).eth = s.eth := rfl
@[simp] theorem State.modPair_strs (s : State) (h k : Nat) (f : PairSt → PairSt) : (s.modPair h k f).strs = s.strs := rfl
@[simp] theorem State.modPair_access (s : State) (h k : Nat) (f : PairSt → PairSt) : (s.modPair h k f).access = s.access := rfl
@[simp] theorem State.modPair_fcol (s : State) (h k : Nat) (f : PairSt → PairSt) : (s.modPair h k f).fcol = s.fcol := rfl
@[simp] theorem State.modPair_aliveRuns (s : State) (h k : Nat) (f : PairSt → PairSt) : (s.modPair h k f).aliveRuns = s.aliveRuns := rfl
@[simp] theorem State.modPair_alive (s : State) (h k : Nat) (f : PairSt → PairSt) : (s.modPair h k f).alive = s.alive := rfl
@[simp] theorem State.modPair_controlLost (s : State) (h k : Nat) (f : PairSt → PairSt) : (s.modPair h k f).controlLost = s.controlLost := rfl
@[simp] theorem State.modPair_beatsMissed (s : State) (h k : Nat) (f : PairSt → PairSt) : (s.modPair h k f).beatsMissed = s.beatsMissed := rfl
@[simp] theorem State.modPair_mbox (s : State) (h k : Nat) (f : PairSt → PairSt) : (s.modPair h k f).mbox = s.mbox := rfl
@[simp] theorem State.modPair_plans (s : State) (h k : Nat) (f : PairSt → PairSt) : (s.modPair h k f).plans = s.plans := rfl
@[simp] theorem State.modPair_planCmds (s : State) (h k : Nat) (f : PairSt → PairSt) : (s.modPair h k f).planCmds = s.planCmds := rfl
@[simp] theorem State.modPair_admissions (s : State) (h k : Nat) (f : PairSt → PairSt) : (s.modPair h k f).admissions = s.admissions := rfl
@[simp] theorem State.modPair_energy (s : State) (h k : Nat) (f : PairSt → PairSt) : (s.modPair h k f).energy = s.energy := rfl
@[simp] theorem State.modPair_ledger (s : State) (h k : Nat) (f : PairSt → PairSt) : (s.modPair h k f).ledger = s.ledger := rfl
@[simp] theorem State.modPair_rails (s : State) (h k : Nat) (f : PairSt → PairSt) : (s.modPair h k f).rails = s.rails := rfl
@[simp] theorem State.modPair_boot (s : State) (h k : Nat) (f : PairSt → PairSt) : (s.modPair h k f).boot = s.boot := rfl
@[simp] theorem State.modPair_brokenPipes (s : State) (h k : Nat) (f : PairSt → PairSt) : (s.modPair h k f).brokenPipes = s.brokenPipes := rfl
@[simp] theorem State.modPair_spi (s : State) (h k : Nat) (f : PairSt → PairSt) : (s.modPair h k f).spi = s.spi := rfl
@[simp] theorem State.modPair_fuses (s : State) (h k : Nat) (f : PairSt → PairSt) : (s.modPair h k f).fuses = s.fuses := rfl
@[simp] theorem State.modPair_fusedSvn (s : State) (h k : Nat) (f : PairSt → PairSt) : (s.modPair h k f).fusedSvn = s.fusedSvn := rfl
@[simp] theorem State.modPair_keyHash (s : State) (h k : Nat) (f : PairSt → PairSt) : (s.modPair h k f).keyHash = s.keyHash := rfl
@[simp] theorem State.modPair_hashIn (s : State) (h k : Nat) (f : PairSt → PairSt) : (s.modPair h k f).hashIn = s.hashIn := rfl

/-! modPwm -/
@[simp] theorem State.modPwm_pending (s : State) (h p : Nat) (f : PwmSt → PwmSt) : (s.modPwm h p f).pending = s.pending := rfl
@[simp] theorem State.modPwm_part (s : State) (h p : Nat) (f : PwmSt → PwmSt) : (s.modPwm h p f).part = s.part := rfl
@[simp] theorem State.modPwm_suffixE (s : State) (h p : Nat) (f : PwmSt → PwmSt) : (s.modPwm h p f).suffixE = s.suffixE := rfl
@[simp] theorem State.modPwm_regs (s : State) (h p : Nat) (f : PwmSt → PwmSt) : (s.modPwm h p f).regs = s.regs := rfl
@[simp] theorem State.modPwm_live (s : State) (h p : Nat) (f : PwmSt → PwmSt) : (s.modPwm h p f).live = s.live := rfl
@[simp] theorem State.modPwm_tabS (s : State) (h p : Nat) (f : PwmSt → PwmSt) : (s.modPwm h p f).tabS = s.tabS := rfl
@[simp] theorem State.modPwm_tabL (s : State) (h p : Nat) (f : PwmSt → PwmSt) : (s.modPwm h p f).tabL = s.tabL := rfl
@[simp] theorem State.modPwm_force (s : State) (h p : Nat) (f : PwmSt → PwmSt) : (s.modPwm h p f).force = s.force := rfl
@[simp] theorem State.modPwm_tabF (s : State) (h p : Nat) (f : PwmSt → PwmSt) : (s.modPwm h p f).tabF = s.tabF := rfl
@[simp] theorem State.modPwm_locked (s : State) (h p : Nat) (f : PwmSt → PwmSt) : (s.modPwm h p f).locked = s.locked := rfl
@[simp] theorem State.modPwm_cap (s : State) (h p : Nat) (f : PwmSt → PwmSt) : (s.modPwm h p f).cap = s.cap := rfl
@[simp] theorem State.modPwm_flight (s : State) (h p : Nat) (f : PwmSt → PwmSt) : (s.modPwm h p f).flight = s.flight := rfl
@[simp] theorem State.modPwm_marks (s : State) (h p : Nat) (f : PwmSt → PwmSt) : (s.modPwm h p f).marks = s.marks := rfl
@[simp] theorem State.modPwm_drawn (s : State) (h p : Nat) (f : PwmSt → PwmSt) : (s.modPwm h p f).drawn = s.drawn := rfl
@[simp] theorem State.modPwm_link (s : State) (h p : Nat) (f : PwmSt → PwmSt) : (s.modPwm h p f).link = s.link := rfl
@[simp] theorem State.modPwm_acq (s : State) (h p : Nat) (f : PwmSt → PwmSt) : (s.modPwm h p f).acq = s.acq := rfl
@[simp] theorem State.modPwm_jrx (s : State) (h p : Nat) (f : PwmSt → PwmSt) : (s.modPwm h p f).jrx = s.jrx := rfl
@[simp] theorem State.modPwm_time (s : State) (h p : Nat) (f : PwmSt → PwmSt) : (s.modPwm h p f).time = s.time := rfl
@[simp] theorem State.modPwm_items (s : State) (h p : Nat) (f : PwmSt → PwmSt) : (s.modPwm h p f).items = s.items := rfl
@[simp] theorem State.modPwm_traceRing (s : State) (h p : Nat) (f : PwmSt → PwmSt) : (s.modPwm h p f).traceRing = s.traceRing := rfl
@[simp] theorem State.modPwm_credits (s : State) (h p : Nat) (f : PwmSt → PwmSt) : (s.modPwm h p f).credits = s.credits := rfl
@[simp] theorem State.modPwm_lineOvf (s : State) (h p : Nat) (f : PwmSt → PwmSt) : (s.modPwm h p f).lineOvf = s.lineOvf := rfl
@[simp] theorem State.modPwm_codes (s : State) (h p : Nat) (f : PwmSt → PwmSt) : (s.modPwm h p f).codes = s.codes := rfl
@[simp] theorem State.modPwm_spares (s : State) (h p : Nat) (f : PwmSt → PwmSt) : (s.modPwm h p f).spares = s.spares := rfl
@[simp] theorem State.modPwm_stream (s : State) (h p : Nat) (f : PwmSt → PwmSt) : (s.modPwm h p f).stream = s.stream := rfl
@[simp] theorem State.modPwm_readData (s : State) (h p : Nat) (f : PwmSt → PwmSt) : (s.modPwm h p f).readData = s.readData := rfl
@[simp] theorem State.modPwm_wb (s : State) (h p : Nat) (f : PwmSt → PwmSt) : (s.modPwm h p f).wb = s.wb := rfl
@[simp] theorem State.modPwm_trg (s : State) (h p : Nat) (f : PwmSt → PwmSt) : (s.modPwm h p f).trg = s.trg := rfl
@[simp] theorem State.modPwm_trgTx (s : State) (h p : Nat) (f : PwmSt → PwmSt) : (s.modPwm h p f).trgTx = s.trgTx := rfl
@[simp] theorem State.modPwm_recs (s : State) (h p : Nat) (f : PwmSt → PwmSt) : (s.modPwm h p f).recs = s.recs := rfl
@[simp] theorem State.modPwm_dens (s : State) (h p : Nat) (f : PwmSt → PwmSt) : (s.modPwm h p f).dens = s.dens := rfl
@[simp] theorem State.modPwm_cores (s : State) (h p : Nat) (f : PwmSt → PwmSt) : (s.modPwm h p f).cores = s.cores := rfl
@[simp] theorem State.modPwm_zooms (s : State) (h p : Nat) (f : PwmSt → PwmSt) : (s.modPwm h p f).zooms = s.zooms := rfl
@[simp] theorem State.modPwm_repairs (s : State) (h p : Nat) (f : PwmSt → PwmSt) : (s.modPwm h p f).repairs = s.repairs := rfl
@[simp] theorem State.modPwm_lead (s : State) (h p : Nat) (f : PwmSt → PwmSt) : (s.modPwm h p f).lead = s.lead := rfl
@[simp] theorem State.modPwm_tdc (s : State) (h p : Nat) (f : PwmSt → PwmSt) : (s.modPwm h p f).tdc = s.tdc := rfl
@[simp] theorem State.modPwm_iv (s : State) (h p : Nat) (f : PwmSt → PwmSt) : (s.modPwm h p f).iv = s.iv := rfl
@[simp] theorem State.modPwm_tdcCheck (s : State) (h p : Nat) (f : PwmSt → PwmSt) : (s.modPwm h p f).tdcCheck = s.tdcCheck := rfl
@[simp] theorem State.modPwm_ddr (s : State) (h p : Nat) (f : PwmSt → PwmSt) : (s.modPwm h p f).ddr = s.ddr := rfl
@[simp] theorem State.modPwm_nfs (s : State) (h p : Nat) (f : PwmSt → PwmSt) : (s.modPwm h p f).nfs = s.nfs := rfl
@[simp] theorem State.modPwm_powerGood (s : State) (h p : Nat) (f : PwmSt → PwmSt) : (s.modPwm h p f).powerGood = s.powerGood := rfl
@[simp] theorem State.modPwm_resetLow (s : State) (h p : Nat) (f : PwmSt → PwmSt) : (s.modPwm h p f).resetLow = s.resetLow := rfl
@[simp] theorem State.modPwm_clk (s : State) (h p : Nat) (f : PwmSt → PwmSt) : (s.modPwm h p f).clk = s.clk := rfl
@[simp] theorem State.modPwm_enabledIn (s : State) (h p : Nat) (f : PwmSt → PwmSt) : (s.modPwm h p f).enabledIn = s.enabledIn := rfl
@[simp] theorem State.modPwm_enableStep (s : State) (h p : Nat) (f : PwmSt → PwmSt) : (s.modPwm h p f).enableStep = s.enableStep := rfl
@[simp] theorem State.modPwm_hk (s : State) (h p : Nat) (f : PwmSt → PwmSt) : (s.modPwm h p f).hk = s.hk := rfl
@[simp] theorem State.modPwm_pairs (s : State) (h p : Nat) (f : PwmSt → PwmSt) : (s.modPwm h p f).pairs = s.pairs := rfl
@[simp] theorem State.modPwm_hkAt (s : State) (h p : Nat) (f : PwmSt → PwmSt) : (s.modPwm h p f).hkAt = s.hkAt := rfl
@[simp] theorem State.modPwm_powered (s : State) (h p : Nat) (f : PwmSt → PwmSt) : (s.modPwm h p f).powered = s.powered := rfl
@[simp] theorem State.modPwm_hotLost (s : State) (h p : Nat) (f : PwmSt → PwmSt) : (s.modPwm h p f).hotLost = s.hotLost := rfl
@[simp] theorem State.modPwm_disp (s : State) (h p : Nat) (f : PwmSt → PwmSt) : (s.modPwm h p f).disp = s.disp := rfl
@[simp] theorem State.modPwm_dma (s : State) (h p : Nat) (f : PwmSt → PwmSt) : (s.modPwm h p f).dma = s.dma := rfl
@[simp] theorem State.modPwm_dmaMem (s : State) (h p : Nat) (f : PwmSt → PwmSt) : (s.modPwm h p f).dmaMem = s.dmaMem := rfl
@[simp] theorem State.modPwm_eth (s : State) (h p : Nat) (f : PwmSt → PwmSt) : (s.modPwm h p f).eth = s.eth := rfl
@[simp] theorem State.modPwm_strs (s : State) (h p : Nat) (f : PwmSt → PwmSt) : (s.modPwm h p f).strs = s.strs := rfl
@[simp] theorem State.modPwm_access (s : State) (h p : Nat) (f : PwmSt → PwmSt) : (s.modPwm h p f).access = s.access := rfl
@[simp] theorem State.modPwm_fcol (s : State) (h p : Nat) (f : PwmSt → PwmSt) : (s.modPwm h p f).fcol = s.fcol := rfl
@[simp] theorem State.modPwm_aliveRuns (s : State) (h p : Nat) (f : PwmSt → PwmSt) : (s.modPwm h p f).aliveRuns = s.aliveRuns := rfl
@[simp] theorem State.modPwm_alive (s : State) (h p : Nat) (f : PwmSt → PwmSt) : (s.modPwm h p f).alive = s.alive := rfl
@[simp] theorem State.modPwm_controlLost (s : State) (h p : Nat) (f : PwmSt → PwmSt) : (s.modPwm h p f).controlLost = s.controlLost := rfl
@[simp] theorem State.modPwm_beatsMissed (s : State) (h p : Nat) (f : PwmSt → PwmSt) : (s.modPwm h p f).beatsMissed = s.beatsMissed := rfl
@[simp] theorem State.modPwm_mbox (s : State) (h p : Nat) (f : PwmSt → PwmSt) : (s.modPwm h p f).mbox = s.mbox := rfl
@[simp] theorem State.modPwm_plans (s : State) (h p : Nat) (f : PwmSt → PwmSt) : (s.modPwm h p f).plans = s.plans := rfl
@[simp] theorem State.modPwm_planCmds (s : State) (h p : Nat) (f : PwmSt → PwmSt) : (s.modPwm h p f).planCmds = s.planCmds := rfl
@[simp] theorem State.modPwm_admissions (s : State) (h p : Nat) (f : PwmSt → PwmSt) : (s.modPwm h p f).admissions = s.admissions := rfl
@[simp] theorem State.modPwm_energy (s : State) (h p : Nat) (f : PwmSt → PwmSt) : (s.modPwm h p f).energy = s.energy := rfl
@[simp] theorem State.modPwm_ledger (s : State) (h p : Nat) (f : PwmSt → PwmSt) : (s.modPwm h p f).ledger = s.ledger := rfl
@[simp] theorem State.modPwm_rails (s : State) (h p : Nat) (f : PwmSt → PwmSt) : (s.modPwm h p f).rails = s.rails := rfl
@[simp] theorem State.modPwm_boot (s : State) (h p : Nat) (f : PwmSt → PwmSt) : (s.modPwm h p f).boot = s.boot := rfl
@[simp] theorem State.modPwm_brokenPipes (s : State) (h p : Nat) (f : PwmSt → PwmSt) : (s.modPwm h p f).brokenPipes = s.brokenPipes := rfl
@[simp] theorem State.modPwm_spi (s : State) (h p : Nat) (f : PwmSt → PwmSt) : (s.modPwm h p f).spi = s.spi := rfl
@[simp] theorem State.modPwm_fuses (s : State) (h p : Nat) (f : PwmSt → PwmSt) : (s.modPwm h p f).fuses = s.fuses := rfl
@[simp] theorem State.modPwm_fusedSvn (s : State) (h p : Nat) (f : PwmSt → PwmSt) : (s.modPwm h p f).fusedSvn = s.fusedSvn := rfl
@[simp] theorem State.modPwm_keyHash (s : State) (h p : Nat) (f : PwmSt → PwmSt) : (s.modPwm h p f).keyHash = s.keyHash := rfl
@[simp] theorem State.modPwm_hashIn (s : State) (h p : Nat) (f : PwmSt → PwmSt) : (s.modPwm h p f).hashIn = s.hashIn := rfl

/-! modMbox -/
@[simp] theorem State.modMbox_pending (s : State) (h p : Nat) (f : MboxSt → MboxSt) : (s.modMbox h p f).pending = s.pending := rfl
@[simp] theorem State.modMbox_part (s : State) (h p : Nat) (f : MboxSt → MboxSt) : (s.modMbox h p f).part = s.part := rfl
@[simp] theorem State.modMbox_suffixE (s : State) (h p : Nat) (f : MboxSt → MboxSt) : (s.modMbox h p f).suffixE = s.suffixE := rfl
@[simp] theorem State.modMbox_regs (s : State) (h p : Nat) (f : MboxSt → MboxSt) : (s.modMbox h p f).regs = s.regs := rfl
@[simp] theorem State.modMbox_live (s : State) (h p : Nat) (f : MboxSt → MboxSt) : (s.modMbox h p f).live = s.live := rfl
@[simp] theorem State.modMbox_tabS (s : State) (h p : Nat) (f : MboxSt → MboxSt) : (s.modMbox h p f).tabS = s.tabS := rfl
@[simp] theorem State.modMbox_tabL (s : State) (h p : Nat) (f : MboxSt → MboxSt) : (s.modMbox h p f).tabL = s.tabL := rfl
@[simp] theorem State.modMbox_force (s : State) (h p : Nat) (f : MboxSt → MboxSt) : (s.modMbox h p f).force = s.force := rfl
@[simp] theorem State.modMbox_tabF (s : State) (h p : Nat) (f : MboxSt → MboxSt) : (s.modMbox h p f).tabF = s.tabF := rfl
@[simp] theorem State.modMbox_locked (s : State) (h p : Nat) (f : MboxSt → MboxSt) : (s.modMbox h p f).locked = s.locked := rfl
@[simp] theorem State.modMbox_cap (s : State) (h p : Nat) (f : MboxSt → MboxSt) : (s.modMbox h p f).cap = s.cap := rfl
@[simp] theorem State.modMbox_flight (s : State) (h p : Nat) (f : MboxSt → MboxSt) : (s.modMbox h p f).flight = s.flight := rfl
@[simp] theorem State.modMbox_marks (s : State) (h p : Nat) (f : MboxSt → MboxSt) : (s.modMbox h p f).marks = s.marks := rfl
@[simp] theorem State.modMbox_drawn (s : State) (h p : Nat) (f : MboxSt → MboxSt) : (s.modMbox h p f).drawn = s.drawn := rfl
@[simp] theorem State.modMbox_link (s : State) (h p : Nat) (f : MboxSt → MboxSt) : (s.modMbox h p f).link = s.link := rfl
@[simp] theorem State.modMbox_acq (s : State) (h p : Nat) (f : MboxSt → MboxSt) : (s.modMbox h p f).acq = s.acq := rfl
@[simp] theorem State.modMbox_jrx (s : State) (h p : Nat) (f : MboxSt → MboxSt) : (s.modMbox h p f).jrx = s.jrx := rfl
@[simp] theorem State.modMbox_time (s : State) (h p : Nat) (f : MboxSt → MboxSt) : (s.modMbox h p f).time = s.time := rfl
@[simp] theorem State.modMbox_items (s : State) (h p : Nat) (f : MboxSt → MboxSt) : (s.modMbox h p f).items = s.items := rfl
@[simp] theorem State.modMbox_traceRing (s : State) (h p : Nat) (f : MboxSt → MboxSt) : (s.modMbox h p f).traceRing = s.traceRing := rfl
@[simp] theorem State.modMbox_credits (s : State) (h p : Nat) (f : MboxSt → MboxSt) : (s.modMbox h p f).credits = s.credits := rfl
@[simp] theorem State.modMbox_lineOvf (s : State) (h p : Nat) (f : MboxSt → MboxSt) : (s.modMbox h p f).lineOvf = s.lineOvf := rfl
@[simp] theorem State.modMbox_codes (s : State) (h p : Nat) (f : MboxSt → MboxSt) : (s.modMbox h p f).codes = s.codes := rfl
@[simp] theorem State.modMbox_spares (s : State) (h p : Nat) (f : MboxSt → MboxSt) : (s.modMbox h p f).spares = s.spares := rfl
@[simp] theorem State.modMbox_stream (s : State) (h p : Nat) (f : MboxSt → MboxSt) : (s.modMbox h p f).stream = s.stream := rfl
@[simp] theorem State.modMbox_readData (s : State) (h p : Nat) (f : MboxSt → MboxSt) : (s.modMbox h p f).readData = s.readData := rfl
@[simp] theorem State.modMbox_wb (s : State) (h p : Nat) (f : MboxSt → MboxSt) : (s.modMbox h p f).wb = s.wb := rfl
@[simp] theorem State.modMbox_trg (s : State) (h p : Nat) (f : MboxSt → MboxSt) : (s.modMbox h p f).trg = s.trg := rfl
@[simp] theorem State.modMbox_trgTx (s : State) (h p : Nat) (f : MboxSt → MboxSt) : (s.modMbox h p f).trgTx = s.trgTx := rfl
@[simp] theorem State.modMbox_recs (s : State) (h p : Nat) (f : MboxSt → MboxSt) : (s.modMbox h p f).recs = s.recs := rfl
@[simp] theorem State.modMbox_dens (s : State) (h p : Nat) (f : MboxSt → MboxSt) : (s.modMbox h p f).dens = s.dens := rfl
@[simp] theorem State.modMbox_cores (s : State) (h p : Nat) (f : MboxSt → MboxSt) : (s.modMbox h p f).cores = s.cores := rfl
@[simp] theorem State.modMbox_zooms (s : State) (h p : Nat) (f : MboxSt → MboxSt) : (s.modMbox h p f).zooms = s.zooms := rfl
@[simp] theorem State.modMbox_repairs (s : State) (h p : Nat) (f : MboxSt → MboxSt) : (s.modMbox h p f).repairs = s.repairs := rfl
@[simp] theorem State.modMbox_lead (s : State) (h p : Nat) (f : MboxSt → MboxSt) : (s.modMbox h p f).lead = s.lead := rfl
@[simp] theorem State.modMbox_tdc (s : State) (h p : Nat) (f : MboxSt → MboxSt) : (s.modMbox h p f).tdc = s.tdc := rfl
@[simp] theorem State.modMbox_iv (s : State) (h p : Nat) (f : MboxSt → MboxSt) : (s.modMbox h p f).iv = s.iv := rfl
@[simp] theorem State.modMbox_tdcCheck (s : State) (h p : Nat) (f : MboxSt → MboxSt) : (s.modMbox h p f).tdcCheck = s.tdcCheck := rfl
@[simp] theorem State.modMbox_ddr (s : State) (h p : Nat) (f : MboxSt → MboxSt) : (s.modMbox h p f).ddr = s.ddr := rfl
@[simp] theorem State.modMbox_nfs (s : State) (h p : Nat) (f : MboxSt → MboxSt) : (s.modMbox h p f).nfs = s.nfs := rfl
@[simp] theorem State.modMbox_powerGood (s : State) (h p : Nat) (f : MboxSt → MboxSt) : (s.modMbox h p f).powerGood = s.powerGood := rfl
@[simp] theorem State.modMbox_resetLow (s : State) (h p : Nat) (f : MboxSt → MboxSt) : (s.modMbox h p f).resetLow = s.resetLow := rfl
@[simp] theorem State.modMbox_clk (s : State) (h p : Nat) (f : MboxSt → MboxSt) : (s.modMbox h p f).clk = s.clk := rfl
@[simp] theorem State.modMbox_enabledIn (s : State) (h p : Nat) (f : MboxSt → MboxSt) : (s.modMbox h p f).enabledIn = s.enabledIn := rfl
@[simp] theorem State.modMbox_enableStep (s : State) (h p : Nat) (f : MboxSt → MboxSt) : (s.modMbox h p f).enableStep = s.enableStep := rfl
@[simp] theorem State.modMbox_hk (s : State) (h p : Nat) (f : MboxSt → MboxSt) : (s.modMbox h p f).hk = s.hk := rfl
@[simp] theorem State.modMbox_pairs (s : State) (h p : Nat) (f : MboxSt → MboxSt) : (s.modMbox h p f).pairs = s.pairs := rfl
@[simp] theorem State.modMbox_pwm (s : State) (h p : Nat) (f : MboxSt → MboxSt) : (s.modMbox h p f).pwm = s.pwm := rfl
@[simp] theorem State.modMbox_hkAt (s : State) (h p : Nat) (f : MboxSt → MboxSt) : (s.modMbox h p f).hkAt = s.hkAt := rfl
@[simp] theorem State.modMbox_powered (s : State) (h p : Nat) (f : MboxSt → MboxSt) : (s.modMbox h p f).powered = s.powered := rfl
@[simp] theorem State.modMbox_hotLost (s : State) (h p : Nat) (f : MboxSt → MboxSt) : (s.modMbox h p f).hotLost = s.hotLost := rfl
@[simp] theorem State.modMbox_disp (s : State) (h p : Nat) (f : MboxSt → MboxSt) : (s.modMbox h p f).disp = s.disp := rfl
@[simp] theorem State.modMbox_dma (s : State) (h p : Nat) (f : MboxSt → MboxSt) : (s.modMbox h p f).dma = s.dma := rfl
@[simp] theorem State.modMbox_dmaMem (s : State) (h p : Nat) (f : MboxSt → MboxSt) : (s.modMbox h p f).dmaMem = s.dmaMem := rfl
@[simp] theorem State.modMbox_eth (s : State) (h p : Nat) (f : MboxSt → MboxSt) : (s.modMbox h p f).eth = s.eth := rfl
@[simp] theorem State.modMbox_strs (s : State) (h p : Nat) (f : MboxSt → MboxSt) : (s.modMbox h p f).strs = s.strs := rfl
@[simp] theorem State.modMbox_access (s : State) (h p : Nat) (f : MboxSt → MboxSt) : (s.modMbox h p f).access = s.access := rfl
@[simp] theorem State.modMbox_fcol (s : State) (h p : Nat) (f : MboxSt → MboxSt) : (s.modMbox h p f).fcol = s.fcol := rfl
@[simp] theorem State.modMbox_aliveRuns (s : State) (h p : Nat) (f : MboxSt → MboxSt) : (s.modMbox h p f).aliveRuns = s.aliveRuns := rfl
@[simp] theorem State.modMbox_alive (s : State) (h p : Nat) (f : MboxSt → MboxSt) : (s.modMbox h p f).alive = s.alive := rfl
@[simp] theorem State.modMbox_controlLost (s : State) (h p : Nat) (f : MboxSt → MboxSt) : (s.modMbox h p f).controlLost = s.controlLost := rfl
@[simp] theorem State.modMbox_beatsMissed (s : State) (h p : Nat) (f : MboxSt → MboxSt) : (s.modMbox h p f).beatsMissed = s.beatsMissed := rfl
@[simp] theorem State.modMbox_plans (s : State) (h p : Nat) (f : MboxSt → MboxSt) : (s.modMbox h p f).plans = s.plans := rfl
@[simp] theorem State.modMbox_planCmds (s : State) (h p : Nat) (f : MboxSt → MboxSt) : (s.modMbox h p f).planCmds = s.planCmds := rfl
@[simp] theorem State.modMbox_admissions (s : State) (h p : Nat) (f : MboxSt → MboxSt) : (s.modMbox h p f).admissions = s.admissions := rfl
@[simp] theorem State.modMbox_energy (s : State) (h p : Nat) (f : MboxSt → MboxSt) : (s.modMbox h p f).energy = s.energy := rfl
@[simp] theorem State.modMbox_ledger (s : State) (h p : Nat) (f : MboxSt → MboxSt) : (s.modMbox h p f).ledger = s.ledger := rfl
@[simp] theorem State.modMbox_rails (s : State) (h p : Nat) (f : MboxSt → MboxSt) : (s.modMbox h p f).rails = s.rails := rfl
@[simp] theorem State.modMbox_boot (s : State) (h p : Nat) (f : MboxSt → MboxSt) : (s.modMbox h p f).boot = s.boot := rfl
@[simp] theorem State.modMbox_brokenPipes (s : State) (h p : Nat) (f : MboxSt → MboxSt) : (s.modMbox h p f).brokenPipes = s.brokenPipes := rfl
@[simp] theorem State.modMbox_spi (s : State) (h p : Nat) (f : MboxSt → MboxSt) : (s.modMbox h p f).spi = s.spi := rfl
@[simp] theorem State.modMbox_fuses (s : State) (h p : Nat) (f : MboxSt → MboxSt) : (s.modMbox h p f).fuses = s.fuses := rfl
@[simp] theorem State.modMbox_fusedSvn (s : State) (h p : Nat) (f : MboxSt → MboxSt) : (s.modMbox h p f).fusedSvn = s.fusedSvn := rfl
@[simp] theorem State.modMbox_keyHash (s : State) (h p : Nat) (f : MboxSt → MboxSt) : (s.modMbox h p f).keyHash = s.keyHash := rfl
@[simp] theorem State.modMbox_hashIn (s : State) (h p : Nat) (f : MboxSt → MboxSt) : (s.modMbox h p f).hashIn = s.hashIn := rfl

/-! modPlan -/
@[simp] theorem State.modPlan_pending (s : State) (n : Nat) (f : PlanSt → PlanSt) : (s.modPlan n f).pending = s.pending := rfl
@[simp] theorem State.modPlan_part (s : State) (n : Nat) (f : PlanSt → PlanSt) : (s.modPlan n f).part = s.part := rfl
@[simp] theorem State.modPlan_suffixE (s : State) (n : Nat) (f : PlanSt → PlanSt) : (s.modPlan n f).suffixE = s.suffixE := rfl
@[simp] theorem State.modPlan_regs (s : State) (n : Nat) (f : PlanSt → PlanSt) : (s.modPlan n f).regs = s.regs := rfl
@[simp] theorem State.modPlan_live (s : State) (n : Nat) (f : PlanSt → PlanSt) : (s.modPlan n f).live = s.live := rfl
@[simp] theorem State.modPlan_tabS (s : State) (n : Nat) (f : PlanSt → PlanSt) : (s.modPlan n f).tabS = s.tabS := rfl
@[simp] theorem State.modPlan_tabL (s : State) (n : Nat) (f : PlanSt → PlanSt) : (s.modPlan n f).tabL = s.tabL := rfl
@[simp] theorem State.modPlan_force (s : State) (n : Nat) (f : PlanSt → PlanSt) : (s.modPlan n f).force = s.force := rfl
@[simp] theorem State.modPlan_tabF (s : State) (n : Nat) (f : PlanSt → PlanSt) : (s.modPlan n f).tabF = s.tabF := rfl
@[simp] theorem State.modPlan_locked (s : State) (n : Nat) (f : PlanSt → PlanSt) : (s.modPlan n f).locked = s.locked := rfl
@[simp] theorem State.modPlan_cap (s : State) (n : Nat) (f : PlanSt → PlanSt) : (s.modPlan n f).cap = s.cap := rfl
@[simp] theorem State.modPlan_flight (s : State) (n : Nat) (f : PlanSt → PlanSt) : (s.modPlan n f).flight = s.flight := rfl
@[simp] theorem State.modPlan_marks (s : State) (n : Nat) (f : PlanSt → PlanSt) : (s.modPlan n f).marks = s.marks := rfl
@[simp] theorem State.modPlan_drawn (s : State) (n : Nat) (f : PlanSt → PlanSt) : (s.modPlan n f).drawn = s.drawn := rfl
@[simp] theorem State.modPlan_link (s : State) (n : Nat) (f : PlanSt → PlanSt) : (s.modPlan n f).link = s.link := rfl
@[simp] theorem State.modPlan_acq (s : State) (n : Nat) (f : PlanSt → PlanSt) : (s.modPlan n f).acq = s.acq := rfl
@[simp] theorem State.modPlan_jrx (s : State) (n : Nat) (f : PlanSt → PlanSt) : (s.modPlan n f).jrx = s.jrx := rfl
@[simp] theorem State.modPlan_time (s : State) (n : Nat) (f : PlanSt → PlanSt) : (s.modPlan n f).time = s.time := rfl
@[simp] theorem State.modPlan_items (s : State) (n : Nat) (f : PlanSt → PlanSt) : (s.modPlan n f).items = s.items := rfl
@[simp] theorem State.modPlan_traceRing (s : State) (n : Nat) (f : PlanSt → PlanSt) : (s.modPlan n f).traceRing = s.traceRing := rfl
@[simp] theorem State.modPlan_credits (s : State) (n : Nat) (f : PlanSt → PlanSt) : (s.modPlan n f).credits = s.credits := rfl
@[simp] theorem State.modPlan_lineOvf (s : State) (n : Nat) (f : PlanSt → PlanSt) : (s.modPlan n f).lineOvf = s.lineOvf := rfl
@[simp] theorem State.modPlan_codes (s : State) (n : Nat) (f : PlanSt → PlanSt) : (s.modPlan n f).codes = s.codes := rfl
@[simp] theorem State.modPlan_spares (s : State) (n : Nat) (f : PlanSt → PlanSt) : (s.modPlan n f).spares = s.spares := rfl
@[simp] theorem State.modPlan_stream (s : State) (n : Nat) (f : PlanSt → PlanSt) : (s.modPlan n f).stream = s.stream := rfl
@[simp] theorem State.modPlan_readData (s : State) (n : Nat) (f : PlanSt → PlanSt) : (s.modPlan n f).readData = s.readData := rfl
@[simp] theorem State.modPlan_wb (s : State) (n : Nat) (f : PlanSt → PlanSt) : (s.modPlan n f).wb = s.wb := rfl
@[simp] theorem State.modPlan_trg (s : State) (n : Nat) (f : PlanSt → PlanSt) : (s.modPlan n f).trg = s.trg := rfl
@[simp] theorem State.modPlan_trgTx (s : State) (n : Nat) (f : PlanSt → PlanSt) : (s.modPlan n f).trgTx = s.trgTx := rfl
@[simp] theorem State.modPlan_recs (s : State) (n : Nat) (f : PlanSt → PlanSt) : (s.modPlan n f).recs = s.recs := rfl
@[simp] theorem State.modPlan_dens (s : State) (n : Nat) (f : PlanSt → PlanSt) : (s.modPlan n f).dens = s.dens := rfl
@[simp] theorem State.modPlan_cores (s : State) (n : Nat) (f : PlanSt → PlanSt) : (s.modPlan n f).cores = s.cores := rfl
@[simp] theorem State.modPlan_zooms (s : State) (n : Nat) (f : PlanSt → PlanSt) : (s.modPlan n f).zooms = s.zooms := rfl
@[simp] theorem State.modPlan_repairs (s : State) (n : Nat) (f : PlanSt → PlanSt) : (s.modPlan n f).repairs = s.repairs := rfl
@[simp] theorem State.modPlan_lead (s : State) (n : Nat) (f : PlanSt → PlanSt) : (s.modPlan n f).lead = s.lead := rfl
@[simp] theorem State.modPlan_tdc (s : State) (n : Nat) (f : PlanSt → PlanSt) : (s.modPlan n f).tdc = s.tdc := rfl
@[simp] theorem State.modPlan_iv (s : State) (n : Nat) (f : PlanSt → PlanSt) : (s.modPlan n f).iv = s.iv := rfl
@[simp] theorem State.modPlan_tdcCheck (s : State) (n : Nat) (f : PlanSt → PlanSt) : (s.modPlan n f).tdcCheck = s.tdcCheck := rfl
@[simp] theorem State.modPlan_ddr (s : State) (n : Nat) (f : PlanSt → PlanSt) : (s.modPlan n f).ddr = s.ddr := rfl
@[simp] theorem State.modPlan_nfs (s : State) (n : Nat) (f : PlanSt → PlanSt) : (s.modPlan n f).nfs = s.nfs := rfl
@[simp] theorem State.modPlan_powerGood (s : State) (n : Nat) (f : PlanSt → PlanSt) : (s.modPlan n f).powerGood = s.powerGood := rfl
@[simp] theorem State.modPlan_resetLow (s : State) (n : Nat) (f : PlanSt → PlanSt) : (s.modPlan n f).resetLow = s.resetLow := rfl
@[simp] theorem State.modPlan_clk (s : State) (n : Nat) (f : PlanSt → PlanSt) : (s.modPlan n f).clk = s.clk := rfl
@[simp] theorem State.modPlan_enabledIn (s : State) (n : Nat) (f : PlanSt → PlanSt) : (s.modPlan n f).enabledIn = s.enabledIn := rfl
@[simp] theorem State.modPlan_enableStep (s : State) (n : Nat) (f : PlanSt → PlanSt) : (s.modPlan n f).enableStep = s.enableStep := rfl
@[simp] theorem State.modPlan_hk (s : State) (n : Nat) (f : PlanSt → PlanSt) : (s.modPlan n f).hk = s.hk := rfl
@[simp] theorem State.modPlan_pairs (s : State) (n : Nat) (f : PlanSt → PlanSt) : (s.modPlan n f).pairs = s.pairs := rfl
@[simp] theorem State.modPlan_pwm (s : State) (n : Nat) (f : PlanSt → PlanSt) : (s.modPlan n f).pwm = s.pwm := rfl
@[simp] theorem State.modPlan_hkAt (s : State) (n : Nat) (f : PlanSt → PlanSt) : (s.modPlan n f).hkAt = s.hkAt := rfl
@[simp] theorem State.modPlan_powered (s : State) (n : Nat) (f : PlanSt → PlanSt) : (s.modPlan n f).powered = s.powered := rfl
@[simp] theorem State.modPlan_hotLost (s : State) (n : Nat) (f : PlanSt → PlanSt) : (s.modPlan n f).hotLost = s.hotLost := rfl
@[simp] theorem State.modPlan_disp (s : State) (n : Nat) (f : PlanSt → PlanSt) : (s.modPlan n f).disp = s.disp := rfl
@[simp] theorem State.modPlan_dma (s : State) (n : Nat) (f : PlanSt → PlanSt) : (s.modPlan n f).dma = s.dma := rfl
@[simp] theorem State.modPlan_dmaMem (s : State) (n : Nat) (f : PlanSt → PlanSt) : (s.modPlan n f).dmaMem = s.dmaMem := rfl
@[simp] theorem State.modPlan_eth (s : State) (n : Nat) (f : PlanSt → PlanSt) : (s.modPlan n f).eth = s.eth := rfl
@[simp] theorem State.modPlan_strs (s : State) (n : Nat) (f : PlanSt → PlanSt) : (s.modPlan n f).strs = s.strs := rfl
@[simp] theorem State.modPlan_access (s : State) (n : Nat) (f : PlanSt → PlanSt) : (s.modPlan n f).access = s.access := rfl
@[simp] theorem State.modPlan_fcol (s : State) (n : Nat) (f : PlanSt → PlanSt) : (s.modPlan n f).fcol = s.fcol := rfl
@[simp] theorem State.modPlan_aliveRuns (s : State) (n : Nat) (f : PlanSt → PlanSt) : (s.modPlan n f).aliveRuns = s.aliveRuns := rfl
@[simp] theorem State.modPlan_alive (s : State) (n : Nat) (f : PlanSt → PlanSt) : (s.modPlan n f).alive = s.alive := rfl
@[simp] theorem State.modPlan_controlLost (s : State) (n : Nat) (f : PlanSt → PlanSt) : (s.modPlan n f).controlLost = s.controlLost := rfl
@[simp] theorem State.modPlan_beatsMissed (s : State) (n : Nat) (f : PlanSt → PlanSt) : (s.modPlan n f).beatsMissed = s.beatsMissed := rfl
@[simp] theorem State.modPlan_mbox (s : State) (n : Nat) (f : PlanSt → PlanSt) : (s.modPlan n f).mbox = s.mbox := rfl
@[simp] theorem State.modPlan_planCmds (s : State) (n : Nat) (f : PlanSt → PlanSt) : (s.modPlan n f).planCmds = s.planCmds := rfl
@[simp] theorem State.modPlan_admissions (s : State) (n : Nat) (f : PlanSt → PlanSt) : (s.modPlan n f).admissions = s.admissions := rfl
@[simp] theorem State.modPlan_energy (s : State) (n : Nat) (f : PlanSt → PlanSt) : (s.modPlan n f).energy = s.energy := rfl
@[simp] theorem State.modPlan_ledger (s : State) (n : Nat) (f : PlanSt → PlanSt) : (s.modPlan n f).ledger = s.ledger := rfl
@[simp] theorem State.modPlan_rails (s : State) (n : Nat) (f : PlanSt → PlanSt) : (s.modPlan n f).rails = s.rails := rfl
@[simp] theorem State.modPlan_boot (s : State) (n : Nat) (f : PlanSt → PlanSt) : (s.modPlan n f).boot = s.boot := rfl
@[simp] theorem State.modPlan_brokenPipes (s : State) (n : Nat) (f : PlanSt → PlanSt) : (s.modPlan n f).brokenPipes = s.brokenPipes := rfl
@[simp] theorem State.modPlan_spi (s : State) (n : Nat) (f : PlanSt → PlanSt) : (s.modPlan n f).spi = s.spi := rfl
@[simp] theorem State.modPlan_fuses (s : State) (n : Nat) (f : PlanSt → PlanSt) : (s.modPlan n f).fuses = s.fuses := rfl
@[simp] theorem State.modPlan_fusedSvn (s : State) (n : Nat) (f : PlanSt → PlanSt) : (s.modPlan n f).fusedSvn = s.fusedSvn := rfl
@[simp] theorem State.modPlan_keyHash (s : State) (n : Nat) (f : PlanSt → PlanSt) : (s.modPlan n f).keyHash = s.keyHash := rfl
@[simp] theorem State.modPlan_hashIn (s : State) (n : Nat) (f : PlanSt → PlanSt) : (s.modPlan n f).hashIn = s.hashIn := rfl

/-! modNfs -/
@[simp] theorem State.modNfs_pending (s : State) (h : Nat) (f : NfsSt → NfsSt) : (s.modNfs h f).pending = s.pending := rfl
@[simp] theorem State.modNfs_part (s : State) (h : Nat) (f : NfsSt → NfsSt) : (s.modNfs h f).part = s.part := rfl
@[simp] theorem State.modNfs_suffixE (s : State) (h : Nat) (f : NfsSt → NfsSt) : (s.modNfs h f).suffixE = s.suffixE := rfl
@[simp] theorem State.modNfs_regs (s : State) (h : Nat) (f : NfsSt → NfsSt) : (s.modNfs h f).regs = s.regs := rfl
@[simp] theorem State.modNfs_live (s : State) (h : Nat) (f : NfsSt → NfsSt) : (s.modNfs h f).live = s.live := rfl
@[simp] theorem State.modNfs_tabS (s : State) (h : Nat) (f : NfsSt → NfsSt) : (s.modNfs h f).tabS = s.tabS := rfl
@[simp] theorem State.modNfs_tabL (s : State) (h : Nat) (f : NfsSt → NfsSt) : (s.modNfs h f).tabL = s.tabL := rfl
@[simp] theorem State.modNfs_force (s : State) (h : Nat) (f : NfsSt → NfsSt) : (s.modNfs h f).force = s.force := rfl
@[simp] theorem State.modNfs_tabF (s : State) (h : Nat) (f : NfsSt → NfsSt) : (s.modNfs h f).tabF = s.tabF := rfl
@[simp] theorem State.modNfs_locked (s : State) (h : Nat) (f : NfsSt → NfsSt) : (s.modNfs h f).locked = s.locked := rfl
@[simp] theorem State.modNfs_cap (s : State) (h : Nat) (f : NfsSt → NfsSt) : (s.modNfs h f).cap = s.cap := rfl
@[simp] theorem State.modNfs_flight (s : State) (h : Nat) (f : NfsSt → NfsSt) : (s.modNfs h f).flight = s.flight := rfl
@[simp] theorem State.modNfs_marks (s : State) (h : Nat) (f : NfsSt → NfsSt) : (s.modNfs h f).marks = s.marks := rfl
@[simp] theorem State.modNfs_drawn (s : State) (h : Nat) (f : NfsSt → NfsSt) : (s.modNfs h f).drawn = s.drawn := rfl
@[simp] theorem State.modNfs_link (s : State) (h : Nat) (f : NfsSt → NfsSt) : (s.modNfs h f).link = s.link := rfl
@[simp] theorem State.modNfs_acq (s : State) (h : Nat) (f : NfsSt → NfsSt) : (s.modNfs h f).acq = s.acq := rfl
@[simp] theorem State.modNfs_jrx (s : State) (h : Nat) (f : NfsSt → NfsSt) : (s.modNfs h f).jrx = s.jrx := rfl
@[simp] theorem State.modNfs_time (s : State) (h : Nat) (f : NfsSt → NfsSt) : (s.modNfs h f).time = s.time := rfl
@[simp] theorem State.modNfs_items (s : State) (h : Nat) (f : NfsSt → NfsSt) : (s.modNfs h f).items = s.items := rfl
@[simp] theorem State.modNfs_traceRing (s : State) (h : Nat) (f : NfsSt → NfsSt) : (s.modNfs h f).traceRing = s.traceRing := rfl
@[simp] theorem State.modNfs_credits (s : State) (h : Nat) (f : NfsSt → NfsSt) : (s.modNfs h f).credits = s.credits := rfl
@[simp] theorem State.modNfs_lineOvf (s : State) (h : Nat) (f : NfsSt → NfsSt) : (s.modNfs h f).lineOvf = s.lineOvf := rfl
@[simp] theorem State.modNfs_codes (s : State) (h : Nat) (f : NfsSt → NfsSt) : (s.modNfs h f).codes = s.codes := rfl
@[simp] theorem State.modNfs_spares (s : State) (h : Nat) (f : NfsSt → NfsSt) : (s.modNfs h f).spares = s.spares := rfl
@[simp] theorem State.modNfs_stream (s : State) (h : Nat) (f : NfsSt → NfsSt) : (s.modNfs h f).stream = s.stream := rfl
@[simp] theorem State.modNfs_readData (s : State) (h : Nat) (f : NfsSt → NfsSt) : (s.modNfs h f).readData = s.readData := rfl
@[simp] theorem State.modNfs_wb (s : State) (h : Nat) (f : NfsSt → NfsSt) : (s.modNfs h f).wb = s.wb := rfl
@[simp] theorem State.modNfs_trg (s : State) (h : Nat) (f : NfsSt → NfsSt) : (s.modNfs h f).trg = s.trg := rfl
@[simp] theorem State.modNfs_trgTx (s : State) (h : Nat) (f : NfsSt → NfsSt) : (s.modNfs h f).trgTx = s.trgTx := rfl
@[simp] theorem State.modNfs_recs (s : State) (h : Nat) (f : NfsSt → NfsSt) : (s.modNfs h f).recs = s.recs := rfl
@[simp] theorem State.modNfs_dens (s : State) (h : Nat) (f : NfsSt → NfsSt) : (s.modNfs h f).dens = s.dens := rfl
@[simp] theorem State.modNfs_cores (s : State) (h : Nat) (f : NfsSt → NfsSt) : (s.modNfs h f).cores = s.cores := rfl
@[simp] theorem State.modNfs_zooms (s : State) (h : Nat) (f : NfsSt → NfsSt) : (s.modNfs h f).zooms = s.zooms := rfl
@[simp] theorem State.modNfs_repairs (s : State) (h : Nat) (f : NfsSt → NfsSt) : (s.modNfs h f).repairs = s.repairs := rfl
@[simp] theorem State.modNfs_lead (s : State) (h : Nat) (f : NfsSt → NfsSt) : (s.modNfs h f).lead = s.lead := rfl
@[simp] theorem State.modNfs_tdc (s : State) (h : Nat) (f : NfsSt → NfsSt) : (s.modNfs h f).tdc = s.tdc := rfl
@[simp] theorem State.modNfs_iv (s : State) (h : Nat) (f : NfsSt → NfsSt) : (s.modNfs h f).iv = s.iv := rfl
@[simp] theorem State.modNfs_tdcCheck (s : State) (h : Nat) (f : NfsSt → NfsSt) : (s.modNfs h f).tdcCheck = s.tdcCheck := rfl
@[simp] theorem State.modNfs_ddr (s : State) (h : Nat) (f : NfsSt → NfsSt) : (s.modNfs h f).ddr = s.ddr := rfl
@[simp] theorem State.modNfs_powerGood (s : State) (h : Nat) (f : NfsSt → NfsSt) : (s.modNfs h f).powerGood = s.powerGood := rfl
@[simp] theorem State.modNfs_resetLow (s : State) (h : Nat) (f : NfsSt → NfsSt) : (s.modNfs h f).resetLow = s.resetLow := rfl
@[simp] theorem State.modNfs_clk (s : State) (h : Nat) (f : NfsSt → NfsSt) : (s.modNfs h f).clk = s.clk := rfl
@[simp] theorem State.modNfs_enabledIn (s : State) (h : Nat) (f : NfsSt → NfsSt) : (s.modNfs h f).enabledIn = s.enabledIn := rfl
@[simp] theorem State.modNfs_enableStep (s : State) (h : Nat) (f : NfsSt → NfsSt) : (s.modNfs h f).enableStep = s.enableStep := rfl
@[simp] theorem State.modNfs_hk (s : State) (h : Nat) (f : NfsSt → NfsSt) : (s.modNfs h f).hk = s.hk := rfl
@[simp] theorem State.modNfs_pairs (s : State) (h : Nat) (f : NfsSt → NfsSt) : (s.modNfs h f).pairs = s.pairs := rfl
@[simp] theorem State.modNfs_pwm (s : State) (h : Nat) (f : NfsSt → NfsSt) : (s.modNfs h f).pwm = s.pwm := rfl
@[simp] theorem State.modNfs_hkAt (s : State) (h : Nat) (f : NfsSt → NfsSt) : (s.modNfs h f).hkAt = s.hkAt := rfl
@[simp] theorem State.modNfs_powered (s : State) (h : Nat) (f : NfsSt → NfsSt) : (s.modNfs h f).powered = s.powered := rfl
@[simp] theorem State.modNfs_hotLost (s : State) (h : Nat) (f : NfsSt → NfsSt) : (s.modNfs h f).hotLost = s.hotLost := rfl
@[simp] theorem State.modNfs_disp (s : State) (h : Nat) (f : NfsSt → NfsSt) : (s.modNfs h f).disp = s.disp := rfl
@[simp] theorem State.modNfs_dma (s : State) (h : Nat) (f : NfsSt → NfsSt) : (s.modNfs h f).dma = s.dma := rfl
@[simp] theorem State.modNfs_dmaMem (s : State) (h : Nat) (f : NfsSt → NfsSt) : (s.modNfs h f).dmaMem = s.dmaMem := rfl
@[simp] theorem State.modNfs_eth (s : State) (h : Nat) (f : NfsSt → NfsSt) : (s.modNfs h f).eth = s.eth := rfl
@[simp] theorem State.modNfs_strs (s : State) (h : Nat) (f : NfsSt → NfsSt) : (s.modNfs h f).strs = s.strs := rfl
@[simp] theorem State.modNfs_access (s : State) (h : Nat) (f : NfsSt → NfsSt) : (s.modNfs h f).access = s.access := rfl
@[simp] theorem State.modNfs_fcol (s : State) (h : Nat) (f : NfsSt → NfsSt) : (s.modNfs h f).fcol = s.fcol := rfl
@[simp] theorem State.modNfs_aliveRuns (s : State) (h : Nat) (f : NfsSt → NfsSt) : (s.modNfs h f).aliveRuns = s.aliveRuns := rfl
@[simp] theorem State.modNfs_alive (s : State) (h : Nat) (f : NfsSt → NfsSt) : (s.modNfs h f).alive = s.alive := rfl
@[simp] theorem State.modNfs_controlLost (s : State) (h : Nat) (f : NfsSt → NfsSt) : (s.modNfs h f).controlLost = s.controlLost := rfl
@[simp] theorem State.modNfs_beatsMissed (s : State) (h : Nat) (f : NfsSt → NfsSt) : (s.modNfs h f).beatsMissed = s.beatsMissed := rfl
@[simp] theorem State.modNfs_mbox (s : State) (h : Nat) (f : NfsSt → NfsSt) : (s.modNfs h f).mbox = s.mbox := rfl
@[simp] theorem State.modNfs_plans (s : State) (h : Nat) (f : NfsSt → NfsSt) : (s.modNfs h f).plans = s.plans := rfl
@[simp] theorem State.modNfs_planCmds (s : State) (h : Nat) (f : NfsSt → NfsSt) : (s.modNfs h f).planCmds = s.planCmds := rfl
@[simp] theorem State.modNfs_admissions (s : State) (h : Nat) (f : NfsSt → NfsSt) : (s.modNfs h f).admissions = s.admissions := rfl
@[simp] theorem State.modNfs_energy (s : State) (h : Nat) (f : NfsSt → NfsSt) : (s.modNfs h f).energy = s.energy := rfl
@[simp] theorem State.modNfs_ledger (s : State) (h : Nat) (f : NfsSt → NfsSt) : (s.modNfs h f).ledger = s.ledger := rfl
@[simp] theorem State.modNfs_rails (s : State) (h : Nat) (f : NfsSt → NfsSt) : (s.modNfs h f).rails = s.rails := rfl
@[simp] theorem State.modNfs_boot (s : State) (h : Nat) (f : NfsSt → NfsSt) : (s.modNfs h f).boot = s.boot := rfl
@[simp] theorem State.modNfs_brokenPipes (s : State) (h : Nat) (f : NfsSt → NfsSt) : (s.modNfs h f).brokenPipes = s.brokenPipes := rfl
@[simp] theorem State.modNfs_spi (s : State) (h : Nat) (f : NfsSt → NfsSt) : (s.modNfs h f).spi = s.spi := rfl
@[simp] theorem State.modNfs_fuses (s : State) (h : Nat) (f : NfsSt → NfsSt) : (s.modNfs h f).fuses = s.fuses := rfl
@[simp] theorem State.modNfs_fusedSvn (s : State) (h : Nat) (f : NfsSt → NfsSt) : (s.modNfs h f).fusedSvn = s.fusedSvn := rfl
@[simp] theorem State.modNfs_keyHash (s : State) (h : Nat) (f : NfsSt → NfsSt) : (s.modNfs h f).keyHash = s.keyHash := rfl
@[simp] theorem State.modNfs_hashIn (s : State) (h : Nat) (f : NfsSt → NfsSt) : (s.modNfs h f).hashIn = s.hashIn := rfl

/-! modRec -/
@[simp] theorem State.modRec_pending (s : State) (l : Nat) (f : RecSt → RecSt) : (s.modRec l f).pending = s.pending := rfl
@[simp] theorem State.modRec_part (s : State) (l : Nat) (f : RecSt → RecSt) : (s.modRec l f).part = s.part := rfl
@[simp] theorem State.modRec_suffixE (s : State) (l : Nat) (f : RecSt → RecSt) : (s.modRec l f).suffixE = s.suffixE := rfl
@[simp] theorem State.modRec_regs (s : State) (l : Nat) (f : RecSt → RecSt) : (s.modRec l f).regs = s.regs := rfl
@[simp] theorem State.modRec_live (s : State) (l : Nat) (f : RecSt → RecSt) : (s.modRec l f).live = s.live := rfl
@[simp] theorem State.modRec_tabS (s : State) (l : Nat) (f : RecSt → RecSt) : (s.modRec l f).tabS = s.tabS := rfl
@[simp] theorem State.modRec_tabL (s : State) (l : Nat) (f : RecSt → RecSt) : (s.modRec l f).tabL = s.tabL := rfl
@[simp] theorem State.modRec_force (s : State) (l : Nat) (f : RecSt → RecSt) : (s.modRec l f).force = s.force := rfl
@[simp] theorem State.modRec_tabF (s : State) (l : Nat) (f : RecSt → RecSt) : (s.modRec l f).tabF = s.tabF := rfl
@[simp] theorem State.modRec_locked (s : State) (l : Nat) (f : RecSt → RecSt) : (s.modRec l f).locked = s.locked := rfl
@[simp] theorem State.modRec_cap (s : State) (l : Nat) (f : RecSt → RecSt) : (s.modRec l f).cap = s.cap := rfl
@[simp] theorem State.modRec_flight (s : State) (l : Nat) (f : RecSt → RecSt) : (s.modRec l f).flight = s.flight := rfl
@[simp] theorem State.modRec_marks (s : State) (l : Nat) (f : RecSt → RecSt) : (s.modRec l f).marks = s.marks := rfl
@[simp] theorem State.modRec_drawn (s : State) (l : Nat) (f : RecSt → RecSt) : (s.modRec l f).drawn = s.drawn := rfl
@[simp] theorem State.modRec_link (s : State) (l : Nat) (f : RecSt → RecSt) : (s.modRec l f).link = s.link := rfl
@[simp] theorem State.modRec_acq (s : State) (l : Nat) (f : RecSt → RecSt) : (s.modRec l f).acq = s.acq := rfl
@[simp] theorem State.modRec_jrx (s : State) (l : Nat) (f : RecSt → RecSt) : (s.modRec l f).jrx = s.jrx := rfl
@[simp] theorem State.modRec_time (s : State) (l : Nat) (f : RecSt → RecSt) : (s.modRec l f).time = s.time := rfl
@[simp] theorem State.modRec_items (s : State) (l : Nat) (f : RecSt → RecSt) : (s.modRec l f).items = s.items := rfl
@[simp] theorem State.modRec_traceRing (s : State) (l : Nat) (f : RecSt → RecSt) : (s.modRec l f).traceRing = s.traceRing := rfl
@[simp] theorem State.modRec_credits (s : State) (l : Nat) (f : RecSt → RecSt) : (s.modRec l f).credits = s.credits := rfl
@[simp] theorem State.modRec_lineOvf (s : State) (l : Nat) (f : RecSt → RecSt) : (s.modRec l f).lineOvf = s.lineOvf := rfl
@[simp] theorem State.modRec_codes (s : State) (l : Nat) (f : RecSt → RecSt) : (s.modRec l f).codes = s.codes := rfl
@[simp] theorem State.modRec_spares (s : State) (l : Nat) (f : RecSt → RecSt) : (s.modRec l f).spares = s.spares := rfl
@[simp] theorem State.modRec_stream (s : State) (l : Nat) (f : RecSt → RecSt) : (s.modRec l f).stream = s.stream := rfl
@[simp] theorem State.modRec_readData (s : State) (l : Nat) (f : RecSt → RecSt) : (s.modRec l f).readData = s.readData := rfl
@[simp] theorem State.modRec_wb (s : State) (l : Nat) (f : RecSt → RecSt) : (s.modRec l f).wb = s.wb := rfl
@[simp] theorem State.modRec_trg (s : State) (l : Nat) (f : RecSt → RecSt) : (s.modRec l f).trg = s.trg := rfl
@[simp] theorem State.modRec_trgTx (s : State) (l : Nat) (f : RecSt → RecSt) : (s.modRec l f).trgTx = s.trgTx := rfl
@[simp] theorem State.modRec_dens (s : State) (l : Nat) (f : RecSt → RecSt) : (s.modRec l f).dens = s.dens := rfl
@[simp] theorem State.modRec_cores (s : State) (l : Nat) (f : RecSt → RecSt) : (s.modRec l f).cores = s.cores := rfl
@[simp] theorem State.modRec_zooms (s : State) (l : Nat) (f : RecSt → RecSt) : (s.modRec l f).zooms = s.zooms := rfl
@[simp] theorem State.modRec_repairs (s : State) (l : Nat) (f : RecSt → RecSt) : (s.modRec l f).repairs = s.repairs := rfl
@[simp] theorem State.modRec_lead (s : State) (l : Nat) (f : RecSt → RecSt) : (s.modRec l f).lead = s.lead := rfl
@[simp] theorem State.modRec_tdc (s : State) (l : Nat) (f : RecSt → RecSt) : (s.modRec l f).tdc = s.tdc := rfl
@[simp] theorem State.modRec_iv (s : State) (l : Nat) (f : RecSt → RecSt) : (s.modRec l f).iv = s.iv := rfl
@[simp] theorem State.modRec_tdcCheck (s : State) (l : Nat) (f : RecSt → RecSt) : (s.modRec l f).tdcCheck = s.tdcCheck := rfl
@[simp] theorem State.modRec_ddr (s : State) (l : Nat) (f : RecSt → RecSt) : (s.modRec l f).ddr = s.ddr := rfl
@[simp] theorem State.modRec_nfs (s : State) (l : Nat) (f : RecSt → RecSt) : (s.modRec l f).nfs = s.nfs := rfl
@[simp] theorem State.modRec_powerGood (s : State) (l : Nat) (f : RecSt → RecSt) : (s.modRec l f).powerGood = s.powerGood := rfl
@[simp] theorem State.modRec_resetLow (s : State) (l : Nat) (f : RecSt → RecSt) : (s.modRec l f).resetLow = s.resetLow := rfl
@[simp] theorem State.modRec_clk (s : State) (l : Nat) (f : RecSt → RecSt) : (s.modRec l f).clk = s.clk := rfl
@[simp] theorem State.modRec_enabledIn (s : State) (l : Nat) (f : RecSt → RecSt) : (s.modRec l f).enabledIn = s.enabledIn := rfl
@[simp] theorem State.modRec_enableStep (s : State) (l : Nat) (f : RecSt → RecSt) : (s.modRec l f).enableStep = s.enableStep := rfl
@[simp] theorem State.modRec_hk (s : State) (l : Nat) (f : RecSt → RecSt) : (s.modRec l f).hk = s.hk := rfl
@[simp] theorem State.modRec_pairs (s : State) (l : Nat) (f : RecSt → RecSt) : (s.modRec l f).pairs = s.pairs := rfl
@[simp] theorem State.modRec_pwm (s : State) (l : Nat) (f : RecSt → RecSt) : (s.modRec l f).pwm = s.pwm := rfl
@[simp] theorem State.modRec_hkAt (s : State) (l : Nat) (f : RecSt → RecSt) : (s.modRec l f).hkAt = s.hkAt := rfl
@[simp] theorem State.modRec_powered (s : State) (l : Nat) (f : RecSt → RecSt) : (s.modRec l f).powered = s.powered := rfl
@[simp] theorem State.modRec_hotLost (s : State) (l : Nat) (f : RecSt → RecSt) : (s.modRec l f).hotLost = s.hotLost := rfl
@[simp] theorem State.modRec_disp (s : State) (l : Nat) (f : RecSt → RecSt) : (s.modRec l f).disp = s.disp := rfl
@[simp] theorem State.modRec_dma (s : State) (l : Nat) (f : RecSt → RecSt) : (s.modRec l f).dma = s.dma := rfl
@[simp] theorem State.modRec_dmaMem (s : State) (l : Nat) (f : RecSt → RecSt) : (s.modRec l f).dmaMem = s.dmaMem := rfl
@[simp] theorem State.modRec_eth (s : State) (l : Nat) (f : RecSt → RecSt) : (s.modRec l f).eth = s.eth := rfl
@[simp] theorem State.modRec_strs (s : State) (l : Nat) (f : RecSt → RecSt) : (s.modRec l f).strs = s.strs := rfl
@[simp] theorem State.modRec_access (s : State) (l : Nat) (f : RecSt → RecSt) : (s.modRec l f).access = s.access := rfl
@[simp] theorem State.modRec_fcol (s : State) (l : Nat) (f : RecSt → RecSt) : (s.modRec l f).fcol = s.fcol := rfl
@[simp] theorem State.modRec_aliveRuns (s : State) (l : Nat) (f : RecSt → RecSt) : (s.modRec l f).aliveRuns = s.aliveRuns := rfl
@[simp] theorem State.modRec_alive (s : State) (l : Nat) (f : RecSt → RecSt) : (s.modRec l f).alive = s.alive := rfl
@[simp] theorem State.modRec_controlLost (s : State) (l : Nat) (f : RecSt → RecSt) : (s.modRec l f).controlLost = s.controlLost := rfl
@[simp] theorem State.modRec_beatsMissed (s : State) (l : Nat) (f : RecSt → RecSt) : (s.modRec l f).beatsMissed = s.beatsMissed := rfl
@[simp] theorem State.modRec_mbox (s : State) (l : Nat) (f : RecSt → RecSt) : (s.modRec l f).mbox = s.mbox := rfl
@[simp] theorem State.modRec_plans (s : State) (l : Nat) (f : RecSt → RecSt) : (s.modRec l f).plans = s.plans := rfl
@[simp] theorem State.modRec_planCmds (s : State) (l : Nat) (f : RecSt → RecSt) : (s.modRec l f).planCmds = s.planCmds := rfl
@[simp] theorem State.modRec_admissions (s : State) (l : Nat) (f : RecSt → RecSt) : (s.modRec l f).admissions = s.admissions := rfl
@[simp] theorem State.modRec_energy (s : State) (l : Nat) (f : RecSt → RecSt) : (s.modRec l f).energy = s.energy := rfl
@[simp] theorem State.modRec_ledger (s : State) (l : Nat) (f : RecSt → RecSt) : (s.modRec l f).ledger = s.ledger := rfl
@[simp] theorem State.modRec_rails (s : State) (l : Nat) (f : RecSt → RecSt) : (s.modRec l f).rails = s.rails := rfl
@[simp] theorem State.modRec_boot (s : State) (l : Nat) (f : RecSt → RecSt) : (s.modRec l f).boot = s.boot := rfl
@[simp] theorem State.modRec_brokenPipes (s : State) (l : Nat) (f : RecSt → RecSt) : (s.modRec l f).brokenPipes = s.brokenPipes := rfl
@[simp] theorem State.modRec_spi (s : State) (l : Nat) (f : RecSt → RecSt) : (s.modRec l f).spi = s.spi := rfl
@[simp] theorem State.modRec_fuses (s : State) (l : Nat) (f : RecSt → RecSt) : (s.modRec l f).fuses = s.fuses := rfl
@[simp] theorem State.modRec_fusedSvn (s : State) (l : Nat) (f : RecSt → RecSt) : (s.modRec l f).fusedSvn = s.fusedSvn := rfl
@[simp] theorem State.modRec_keyHash (s : State) (l : Nat) (f : RecSt → RecSt) : (s.modRec l f).keyHash = s.keyHash := rfl
@[simp] theorem State.modRec_hashIn (s : State) (l : Nat) (f : RecSt → RecSt) : (s.modRec l f).hashIn = s.hashIn := rfl

/-! modCo -/
@[simp] theorem State.modCo_pending (s : State) (l : Nat) (f : CoSt → CoSt) : (s.modCo l f).pending = s.pending := rfl
@[simp] theorem State.modCo_part (s : State) (l : Nat) (f : CoSt → CoSt) : (s.modCo l f).part = s.part := rfl
@[simp] theorem State.modCo_suffixE (s : State) (l : Nat) (f : CoSt → CoSt) : (s.modCo l f).suffixE = s.suffixE := rfl
@[simp] theorem State.modCo_regs (s : State) (l : Nat) (f : CoSt → CoSt) : (s.modCo l f).regs = s.regs := rfl
@[simp] theorem State.modCo_live (s : State) (l : Nat) (f : CoSt → CoSt) : (s.modCo l f).live = s.live := rfl
@[simp] theorem State.modCo_tabS (s : State) (l : Nat) (f : CoSt → CoSt) : (s.modCo l f).tabS = s.tabS := rfl
@[simp] theorem State.modCo_tabL (s : State) (l : Nat) (f : CoSt → CoSt) : (s.modCo l f).tabL = s.tabL := rfl
@[simp] theorem State.modCo_force (s : State) (l : Nat) (f : CoSt → CoSt) : (s.modCo l f).force = s.force := rfl
@[simp] theorem State.modCo_tabF (s : State) (l : Nat) (f : CoSt → CoSt) : (s.modCo l f).tabF = s.tabF := rfl
@[simp] theorem State.modCo_locked (s : State) (l : Nat) (f : CoSt → CoSt) : (s.modCo l f).locked = s.locked := rfl
@[simp] theorem State.modCo_cap (s : State) (l : Nat) (f : CoSt → CoSt) : (s.modCo l f).cap = s.cap := rfl
@[simp] theorem State.modCo_flight (s : State) (l : Nat) (f : CoSt → CoSt) : (s.modCo l f).flight = s.flight := rfl
@[simp] theorem State.modCo_marks (s : State) (l : Nat) (f : CoSt → CoSt) : (s.modCo l f).marks = s.marks := rfl
@[simp] theorem State.modCo_drawn (s : State) (l : Nat) (f : CoSt → CoSt) : (s.modCo l f).drawn = s.drawn := rfl
@[simp] theorem State.modCo_link (s : State) (l : Nat) (f : CoSt → CoSt) : (s.modCo l f).link = s.link := rfl
@[simp] theorem State.modCo_acq (s : State) (l : Nat) (f : CoSt → CoSt) : (s.modCo l f).acq = s.acq := rfl
@[simp] theorem State.modCo_jrx (s : State) (l : Nat) (f : CoSt → CoSt) : (s.modCo l f).jrx = s.jrx := rfl
@[simp] theorem State.modCo_time (s : State) (l : Nat) (f : CoSt → CoSt) : (s.modCo l f).time = s.time := rfl
@[simp] theorem State.modCo_items (s : State) (l : Nat) (f : CoSt → CoSt) : (s.modCo l f).items = s.items := rfl
@[simp] theorem State.modCo_traceRing (s : State) (l : Nat) (f : CoSt → CoSt) : (s.modCo l f).traceRing = s.traceRing := rfl
@[simp] theorem State.modCo_credits (s : State) (l : Nat) (f : CoSt → CoSt) : (s.modCo l f).credits = s.credits := rfl
@[simp] theorem State.modCo_lineOvf (s : State) (l : Nat) (f : CoSt → CoSt) : (s.modCo l f).lineOvf = s.lineOvf := rfl
@[simp] theorem State.modCo_codes (s : State) (l : Nat) (f : CoSt → CoSt) : (s.modCo l f).codes = s.codes := rfl
@[simp] theorem State.modCo_spares (s : State) (l : Nat) (f : CoSt → CoSt) : (s.modCo l f).spares = s.spares := rfl
@[simp] theorem State.modCo_stream (s : State) (l : Nat) (f : CoSt → CoSt) : (s.modCo l f).stream = s.stream := rfl
@[simp] theorem State.modCo_readData (s : State) (l : Nat) (f : CoSt → CoSt) : (s.modCo l f).readData = s.readData := rfl
@[simp] theorem State.modCo_wb (s : State) (l : Nat) (f : CoSt → CoSt) : (s.modCo l f).wb = s.wb := rfl
@[simp] theorem State.modCo_trg (s : State) (l : Nat) (f : CoSt → CoSt) : (s.modCo l f).trg = s.trg := rfl
@[simp] theorem State.modCo_trgTx (s : State) (l : Nat) (f : CoSt → CoSt) : (s.modCo l f).trgTx = s.trgTx := rfl
@[simp] theorem State.modCo_dens (s : State) (l : Nat) (f : CoSt → CoSt) : (s.modCo l f).dens = s.dens := rfl
@[simp] theorem State.modCo_cores (s : State) (l : Nat) (f : CoSt → CoSt) : (s.modCo l f).cores = s.cores := rfl
@[simp] theorem State.modCo_zooms (s : State) (l : Nat) (f : CoSt → CoSt) : (s.modCo l f).zooms = s.zooms := rfl
@[simp] theorem State.modCo_repairs (s : State) (l : Nat) (f : CoSt → CoSt) : (s.modCo l f).repairs = s.repairs := rfl
@[simp] theorem State.modCo_lead (s : State) (l : Nat) (f : CoSt → CoSt) : (s.modCo l f).lead = s.lead := rfl
@[simp] theorem State.modCo_tdc (s : State) (l : Nat) (f : CoSt → CoSt) : (s.modCo l f).tdc = s.tdc := rfl
@[simp] theorem State.modCo_iv (s : State) (l : Nat) (f : CoSt → CoSt) : (s.modCo l f).iv = s.iv := rfl
@[simp] theorem State.modCo_tdcCheck (s : State) (l : Nat) (f : CoSt → CoSt) : (s.modCo l f).tdcCheck = s.tdcCheck := rfl
@[simp] theorem State.modCo_ddr (s : State) (l : Nat) (f : CoSt → CoSt) : (s.modCo l f).ddr = s.ddr := rfl
@[simp] theorem State.modCo_nfs (s : State) (l : Nat) (f : CoSt → CoSt) : (s.modCo l f).nfs = s.nfs := rfl
@[simp] theorem State.modCo_powerGood (s : State) (l : Nat) (f : CoSt → CoSt) : (s.modCo l f).powerGood = s.powerGood := rfl
@[simp] theorem State.modCo_resetLow (s : State) (l : Nat) (f : CoSt → CoSt) : (s.modCo l f).resetLow = s.resetLow := rfl
@[simp] theorem State.modCo_clk (s : State) (l : Nat) (f : CoSt → CoSt) : (s.modCo l f).clk = s.clk := rfl
@[simp] theorem State.modCo_enabledIn (s : State) (l : Nat) (f : CoSt → CoSt) : (s.modCo l f).enabledIn = s.enabledIn := rfl
@[simp] theorem State.modCo_enableStep (s : State) (l : Nat) (f : CoSt → CoSt) : (s.modCo l f).enableStep = s.enableStep := rfl
@[simp] theorem State.modCo_hk (s : State) (l : Nat) (f : CoSt → CoSt) : (s.modCo l f).hk = s.hk := rfl
@[simp] theorem State.modCo_pairs (s : State) (l : Nat) (f : CoSt → CoSt) : (s.modCo l f).pairs = s.pairs := rfl
@[simp] theorem State.modCo_pwm (s : State) (l : Nat) (f : CoSt → CoSt) : (s.modCo l f).pwm = s.pwm := rfl
@[simp] theorem State.modCo_hkAt (s : State) (l : Nat) (f : CoSt → CoSt) : (s.modCo l f).hkAt = s.hkAt := rfl
@[simp] theorem State.modCo_powered (s : State) (l : Nat) (f : CoSt → CoSt) : (s.modCo l f).powered = s.powered := rfl
@[simp] theorem State.modCo_hotLost (s : State) (l : Nat) (f : CoSt → CoSt) : (s.modCo l f).hotLost = s.hotLost := rfl
@[simp] theorem State.modCo_disp (s : State) (l : Nat) (f : CoSt → CoSt) : (s.modCo l f).disp = s.disp := rfl
@[simp] theorem State.modCo_dma (s : State) (l : Nat) (f : CoSt → CoSt) : (s.modCo l f).dma = s.dma := rfl
@[simp] theorem State.modCo_dmaMem (s : State) (l : Nat) (f : CoSt → CoSt) : (s.modCo l f).dmaMem = s.dmaMem := rfl
@[simp] theorem State.modCo_eth (s : State) (l : Nat) (f : CoSt → CoSt) : (s.modCo l f).eth = s.eth := rfl
@[simp] theorem State.modCo_strs (s : State) (l : Nat) (f : CoSt → CoSt) : (s.modCo l f).strs = s.strs := rfl
@[simp] theorem State.modCo_access (s : State) (l : Nat) (f : CoSt → CoSt) : (s.modCo l f).access = s.access := rfl
@[simp] theorem State.modCo_fcol (s : State) (l : Nat) (f : CoSt → CoSt) : (s.modCo l f).fcol = s.fcol := rfl
@[simp] theorem State.modCo_aliveRuns (s : State) (l : Nat) (f : CoSt → CoSt) : (s.modCo l f).aliveRuns = s.aliveRuns := rfl
@[simp] theorem State.modCo_alive (s : State) (l : Nat) (f : CoSt → CoSt) : (s.modCo l f).alive = s.alive := rfl
@[simp] theorem State.modCo_controlLost (s : State) (l : Nat) (f : CoSt → CoSt) : (s.modCo l f).controlLost = s.controlLost := rfl
@[simp] theorem State.modCo_beatsMissed (s : State) (l : Nat) (f : CoSt → CoSt) : (s.modCo l f).beatsMissed = s.beatsMissed := rfl
@[simp] theorem State.modCo_mbox (s : State) (l : Nat) (f : CoSt → CoSt) : (s.modCo l f).mbox = s.mbox := rfl
@[simp] theorem State.modCo_plans (s : State) (l : Nat) (f : CoSt → CoSt) : (s.modCo l f).plans = s.plans := rfl
@[simp] theorem State.modCo_planCmds (s : State) (l : Nat) (f : CoSt → CoSt) : (s.modCo l f).planCmds = s.planCmds := rfl
@[simp] theorem State.modCo_admissions (s : State) (l : Nat) (f : CoSt → CoSt) : (s.modCo l f).admissions = s.admissions := rfl
@[simp] theorem State.modCo_energy (s : State) (l : Nat) (f : CoSt → CoSt) : (s.modCo l f).energy = s.energy := rfl
@[simp] theorem State.modCo_ledger (s : State) (l : Nat) (f : CoSt → CoSt) : (s.modCo l f).ledger = s.ledger := rfl
@[simp] theorem State.modCo_rails (s : State) (l : Nat) (f : CoSt → CoSt) : (s.modCo l f).rails = s.rails := rfl
@[simp] theorem State.modCo_boot (s : State) (l : Nat) (f : CoSt → CoSt) : (s.modCo l f).boot = s.boot := rfl
@[simp] theorem State.modCo_brokenPipes (s : State) (l : Nat) (f : CoSt → CoSt) : (s.modCo l f).brokenPipes = s.brokenPipes := rfl
@[simp] theorem State.modCo_spi (s : State) (l : Nat) (f : CoSt → CoSt) : (s.modCo l f).spi = s.spi := rfl
@[simp] theorem State.modCo_fuses (s : State) (l : Nat) (f : CoSt → CoSt) : (s.modCo l f).fuses = s.fuses := rfl
@[simp] theorem State.modCo_fusedSvn (s : State) (l : Nat) (f : CoSt → CoSt) : (s.modCo l f).fusedSvn = s.fusedSvn := rfl
@[simp] theorem State.modCo_keyHash (s : State) (l : Nat) (f : CoSt → CoSt) : (s.modCo l f).keyHash = s.keyHash := rfl
@[simp] theorem State.modCo_hashIn (s : State) (l : Nat) (f : CoSt → CoSt) : (s.modCo l f).hashIn = s.hashIn := rfl

/-! modSpi -/
@[simp] theorem State.modSpi_pending (s : State) (h : Nat) (f : SpiSt → SpiSt) : (s.modSpi h f).pending = s.pending := rfl
@[simp] theorem State.modSpi_part (s : State) (h : Nat) (f : SpiSt → SpiSt) : (s.modSpi h f).part = s.part := rfl
@[simp] theorem State.modSpi_suffixE (s : State) (h : Nat) (f : SpiSt → SpiSt) : (s.modSpi h f).suffixE = s.suffixE := rfl
@[simp] theorem State.modSpi_regs (s : State) (h : Nat) (f : SpiSt → SpiSt) : (s.modSpi h f).regs = s.regs := rfl
@[simp] theorem State.modSpi_live (s : State) (h : Nat) (f : SpiSt → SpiSt) : (s.modSpi h f).live = s.live := rfl
@[simp] theorem State.modSpi_tabS (s : State) (h : Nat) (f : SpiSt → SpiSt) : (s.modSpi h f).tabS = s.tabS := rfl
@[simp] theorem State.modSpi_tabL (s : State) (h : Nat) (f : SpiSt → SpiSt) : (s.modSpi h f).tabL = s.tabL := rfl
@[simp] theorem State.modSpi_force (s : State) (h : Nat) (f : SpiSt → SpiSt) : (s.modSpi h f).force = s.force := rfl
@[simp] theorem State.modSpi_tabF (s : State) (h : Nat) (f : SpiSt → SpiSt) : (s.modSpi h f).tabF = s.tabF := rfl
@[simp] theorem State.modSpi_locked (s : State) (h : Nat) (f : SpiSt → SpiSt) : (s.modSpi h f).locked = s.locked := rfl
@[simp] theorem State.modSpi_cap (s : State) (h : Nat) (f : SpiSt → SpiSt) : (s.modSpi h f).cap = s.cap := rfl
@[simp] theorem State.modSpi_flight (s : State) (h : Nat) (f : SpiSt → SpiSt) : (s.modSpi h f).flight = s.flight := rfl
@[simp] theorem State.modSpi_marks (s : State) (h : Nat) (f : SpiSt → SpiSt) : (s.modSpi h f).marks = s.marks := rfl
@[simp] theorem State.modSpi_drawn (s : State) (h : Nat) (f : SpiSt → SpiSt) : (s.modSpi h f).drawn = s.drawn := rfl
@[simp] theorem State.modSpi_link (s : State) (h : Nat) (f : SpiSt → SpiSt) : (s.modSpi h f).link = s.link := rfl
@[simp] theorem State.modSpi_acq (s : State) (h : Nat) (f : SpiSt → SpiSt) : (s.modSpi h f).acq = s.acq := rfl
@[simp] theorem State.modSpi_jrx (s : State) (h : Nat) (f : SpiSt → SpiSt) : (s.modSpi h f).jrx = s.jrx := rfl
@[simp] theorem State.modSpi_time (s : State) (h : Nat) (f : SpiSt → SpiSt) : (s.modSpi h f).time = s.time := rfl
@[simp] theorem State.modSpi_items (s : State) (h : Nat) (f : SpiSt → SpiSt) : (s.modSpi h f).items = s.items := rfl
@[simp] theorem State.modSpi_traceRing (s : State) (h : Nat) (f : SpiSt → SpiSt) : (s.modSpi h f).traceRing = s.traceRing := rfl
@[simp] theorem State.modSpi_credits (s : State) (h : Nat) (f : SpiSt → SpiSt) : (s.modSpi h f).credits = s.credits := rfl
@[simp] theorem State.modSpi_lineOvf (s : State) (h : Nat) (f : SpiSt → SpiSt) : (s.modSpi h f).lineOvf = s.lineOvf := rfl
@[simp] theorem State.modSpi_codes (s : State) (h : Nat) (f : SpiSt → SpiSt) : (s.modSpi h f).codes = s.codes := rfl
@[simp] theorem State.modSpi_spares (s : State) (h : Nat) (f : SpiSt → SpiSt) : (s.modSpi h f).spares = s.spares := rfl
@[simp] theorem State.modSpi_stream (s : State) (h : Nat) (f : SpiSt → SpiSt) : (s.modSpi h f).stream = s.stream := rfl
@[simp] theorem State.modSpi_readData (s : State) (h : Nat) (f : SpiSt → SpiSt) : (s.modSpi h f).readData = s.readData := rfl
@[simp] theorem State.modSpi_wb (s : State) (h : Nat) (f : SpiSt → SpiSt) : (s.modSpi h f).wb = s.wb := rfl
@[simp] theorem State.modSpi_trg (s : State) (h : Nat) (f : SpiSt → SpiSt) : (s.modSpi h f).trg = s.trg := rfl
@[simp] theorem State.modSpi_trgTx (s : State) (h : Nat) (f : SpiSt → SpiSt) : (s.modSpi h f).trgTx = s.trgTx := rfl
@[simp] theorem State.modSpi_recs (s : State) (h : Nat) (f : SpiSt → SpiSt) : (s.modSpi h f).recs = s.recs := rfl
@[simp] theorem State.modSpi_dens (s : State) (h : Nat) (f : SpiSt → SpiSt) : (s.modSpi h f).dens = s.dens := rfl
@[simp] theorem State.modSpi_cores (s : State) (h : Nat) (f : SpiSt → SpiSt) : (s.modSpi h f).cores = s.cores := rfl
@[simp] theorem State.modSpi_zooms (s : State) (h : Nat) (f : SpiSt → SpiSt) : (s.modSpi h f).zooms = s.zooms := rfl
@[simp] theorem State.modSpi_repairs (s : State) (h : Nat) (f : SpiSt → SpiSt) : (s.modSpi h f).repairs = s.repairs := rfl
@[simp] theorem State.modSpi_lead (s : State) (h : Nat) (f : SpiSt → SpiSt) : (s.modSpi h f).lead = s.lead := rfl
@[simp] theorem State.modSpi_tdc (s : State) (h : Nat) (f : SpiSt → SpiSt) : (s.modSpi h f).tdc = s.tdc := rfl
@[simp] theorem State.modSpi_iv (s : State) (h : Nat) (f : SpiSt → SpiSt) : (s.modSpi h f).iv = s.iv := rfl
@[simp] theorem State.modSpi_tdcCheck (s : State) (h : Nat) (f : SpiSt → SpiSt) : (s.modSpi h f).tdcCheck = s.tdcCheck := rfl
@[simp] theorem State.modSpi_ddr (s : State) (h : Nat) (f : SpiSt → SpiSt) : (s.modSpi h f).ddr = s.ddr := rfl
@[simp] theorem State.modSpi_nfs (s : State) (h : Nat) (f : SpiSt → SpiSt) : (s.modSpi h f).nfs = s.nfs := rfl
@[simp] theorem State.modSpi_powerGood (s : State) (h : Nat) (f : SpiSt → SpiSt) : (s.modSpi h f).powerGood = s.powerGood := rfl
@[simp] theorem State.modSpi_resetLow (s : State) (h : Nat) (f : SpiSt → SpiSt) : (s.modSpi h f).resetLow = s.resetLow := rfl
@[simp] theorem State.modSpi_clk (s : State) (h : Nat) (f : SpiSt → SpiSt) : (s.modSpi h f).clk = s.clk := rfl
@[simp] theorem State.modSpi_enabledIn (s : State) (h : Nat) (f : SpiSt → SpiSt) : (s.modSpi h f).enabledIn = s.enabledIn := rfl
@[simp] theorem State.modSpi_enableStep (s : State) (h : Nat) (f : SpiSt → SpiSt) : (s.modSpi h f).enableStep = s.enableStep := rfl
@[simp] theorem State.modSpi_hk (s : State) (h : Nat) (f : SpiSt → SpiSt) : (s.modSpi h f).hk = s.hk := rfl
@[simp] theorem State.modSpi_pairs (s : State) (h : Nat) (f : SpiSt → SpiSt) : (s.modSpi h f).pairs = s.pairs := rfl
@[simp] theorem State.modSpi_pwm (s : State) (h : Nat) (f : SpiSt → SpiSt) : (s.modSpi h f).pwm = s.pwm := rfl
@[simp] theorem State.modSpi_hkAt (s : State) (h : Nat) (f : SpiSt → SpiSt) : (s.modSpi h f).hkAt = s.hkAt := rfl
@[simp] theorem State.modSpi_powered (s : State) (h : Nat) (f : SpiSt → SpiSt) : (s.modSpi h f).powered = s.powered := rfl
@[simp] theorem State.modSpi_hotLost (s : State) (h : Nat) (f : SpiSt → SpiSt) : (s.modSpi h f).hotLost = s.hotLost := rfl
@[simp] theorem State.modSpi_disp (s : State) (h : Nat) (f : SpiSt → SpiSt) : (s.modSpi h f).disp = s.disp := rfl
@[simp] theorem State.modSpi_dma (s : State) (h : Nat) (f : SpiSt → SpiSt) : (s.modSpi h f).dma = s.dma := rfl
@[simp] theorem State.modSpi_dmaMem (s : State) (h : Nat) (f : SpiSt → SpiSt) : (s.modSpi h f).dmaMem = s.dmaMem := rfl
@[simp] theorem State.modSpi_eth (s : State) (h : Nat) (f : SpiSt → SpiSt) : (s.modSpi h f).eth = s.eth := rfl
@[simp] theorem State.modSpi_strs (s : State) (h : Nat) (f : SpiSt → SpiSt) : (s.modSpi h f).strs = s.strs := rfl
@[simp] theorem State.modSpi_access (s : State) (h : Nat) (f : SpiSt → SpiSt) : (s.modSpi h f).access = s.access := rfl
@[simp] theorem State.modSpi_fcol (s : State) (h : Nat) (f : SpiSt → SpiSt) : (s.modSpi h f).fcol = s.fcol := rfl
@[simp] theorem State.modSpi_aliveRuns (s : State) (h : Nat) (f : SpiSt → SpiSt) : (s.modSpi h f).aliveRuns = s.aliveRuns := rfl
@[simp] theorem State.modSpi_alive (s : State) (h : Nat) (f : SpiSt → SpiSt) : (s.modSpi h f).alive = s.alive := rfl
@[simp] theorem State.modSpi_controlLost (s : State) (h : Nat) (f : SpiSt → SpiSt) : (s.modSpi h f).controlLost = s.controlLost := rfl
@[simp] theorem State.modSpi_beatsMissed (s : State) (h : Nat) (f : SpiSt → SpiSt) : (s.modSpi h f).beatsMissed = s.beatsMissed := rfl
@[simp] theorem State.modSpi_mbox (s : State) (h : Nat) (f : SpiSt → SpiSt) : (s.modSpi h f).mbox = s.mbox := rfl
@[simp] theorem State.modSpi_plans (s : State) (h : Nat) (f : SpiSt → SpiSt) : (s.modSpi h f).plans = s.plans := rfl
@[simp] theorem State.modSpi_planCmds (s : State) (h : Nat) (f : SpiSt → SpiSt) : (s.modSpi h f).planCmds = s.planCmds := rfl
@[simp] theorem State.modSpi_admissions (s : State) (h : Nat) (f : SpiSt → SpiSt) : (s.modSpi h f).admissions = s.admissions := rfl
@[simp] theorem State.modSpi_energy (s : State) (h : Nat) (f : SpiSt → SpiSt) : (s.modSpi h f).energy = s.energy := rfl
@[simp] theorem State.modSpi_ledger (s : State) (h : Nat) (f : SpiSt → SpiSt) : (s.modSpi h f).ledger = s.ledger := rfl
@[simp] theorem State.modSpi_rails (s : State) (h : Nat) (f : SpiSt → SpiSt) : (s.modSpi h f).rails = s.rails := rfl
@[simp] theorem State.modSpi_boot (s : State) (h : Nat) (f : SpiSt → SpiSt) : (s.modSpi h f).boot = s.boot := rfl
@[simp] theorem State.modSpi_brokenPipes (s : State) (h : Nat) (f : SpiSt → SpiSt) : (s.modSpi h f).brokenPipes = s.brokenPipes := rfl
@[simp] theorem State.modSpi_fuses (s : State) (h : Nat) (f : SpiSt → SpiSt) : (s.modSpi h f).fuses = s.fuses := rfl
@[simp] theorem State.modSpi_fusedSvn (s : State) (h : Nat) (f : SpiSt → SpiSt) : (s.modSpi h f).fusedSvn = s.fusedSvn := rfl
@[simp] theorem State.modSpi_keyHash (s : State) (h : Nat) (f : SpiSt → SpiSt) : (s.modSpi h f).keyHash = s.keyHash := rfl
@[simp] theorem State.modSpi_hashIn (s : State) (h : Nat) (f : SpiSt → SpiSt) : (s.modSpi h f).hashIn = s.hashIn := rfl

/-! modTdc -/
@[simp] theorem State.modTdc_pending (s : State) (g : Nat) (f : TdcIn → TdcIn) : (s.modTdc g f).pending = s.pending := rfl
@[simp] theorem State.modTdc_part (s : State) (g : Nat) (f : TdcIn → TdcIn) : (s.modTdc g f).part = s.part := rfl
@[simp] theorem State.modTdc_suffixE (s : State) (g : Nat) (f : TdcIn → TdcIn) : (s.modTdc g f).suffixE = s.suffixE := rfl
@[simp] theorem State.modTdc_regs (s : State) (g : Nat) (f : TdcIn → TdcIn) : (s.modTdc g f).regs = s.regs := rfl
@[simp] theorem State.modTdc_live (s : State) (g : Nat) (f : TdcIn → TdcIn) : (s.modTdc g f).live = s.live := rfl
@[simp] theorem State.modTdc_tabS (s : State) (g : Nat) (f : TdcIn → TdcIn) : (s.modTdc g f).tabS = s.tabS := rfl
@[simp] theorem State.modTdc_tabL (s : State) (g : Nat) (f : TdcIn → TdcIn) : (s.modTdc g f).tabL = s.tabL := rfl
@[simp] theorem State.modTdc_force (s : State) (g : Nat) (f : TdcIn → TdcIn) : (s.modTdc g f).force = s.force := rfl
@[simp] theorem State.modTdc_tabF (s : State) (g : Nat) (f : TdcIn → TdcIn) : (s.modTdc g f).tabF = s.tabF := rfl
@[simp] theorem State.modTdc_locked (s : State) (g : Nat) (f : TdcIn → TdcIn) : (s.modTdc g f).locked = s.locked := rfl
@[simp] theorem State.modTdc_cap (s : State) (g : Nat) (f : TdcIn → TdcIn) : (s.modTdc g f).cap = s.cap := rfl
@[simp] theorem State.modTdc_flight (s : State) (g : Nat) (f : TdcIn → TdcIn) : (s.modTdc g f).flight = s.flight := rfl
@[simp] theorem State.modTdc_marks (s : State) (g : Nat) (f : TdcIn → TdcIn) : (s.modTdc g f).marks = s.marks := rfl
@[simp] theorem State.modTdc_drawn (s : State) (g : Nat) (f : TdcIn → TdcIn) : (s.modTdc g f).drawn = s.drawn := rfl
@[simp] theorem State.modTdc_link (s : State) (g : Nat) (f : TdcIn → TdcIn) : (s.modTdc g f).link = s.link := rfl
@[simp] theorem State.modTdc_acq (s : State) (g : Nat) (f : TdcIn → TdcIn) : (s.modTdc g f).acq = s.acq := rfl
@[simp] theorem State.modTdc_jrx (s : State) (g : Nat) (f : TdcIn → TdcIn) : (s.modTdc g f).jrx = s.jrx := rfl
@[simp] theorem State.modTdc_time (s : State) (g : Nat) (f : TdcIn → TdcIn) : (s.modTdc g f).time = s.time := rfl
@[simp] theorem State.modTdc_items (s : State) (g : Nat) (f : TdcIn → TdcIn) : (s.modTdc g f).items = s.items := rfl
@[simp] theorem State.modTdc_traceRing (s : State) (g : Nat) (f : TdcIn → TdcIn) : (s.modTdc g f).traceRing = s.traceRing := rfl
@[simp] theorem State.modTdc_credits (s : State) (g : Nat) (f : TdcIn → TdcIn) : (s.modTdc g f).credits = s.credits := rfl
@[simp] theorem State.modTdc_lineOvf (s : State) (g : Nat) (f : TdcIn → TdcIn) : (s.modTdc g f).lineOvf = s.lineOvf := rfl
@[simp] theorem State.modTdc_codes (s : State) (g : Nat) (f : TdcIn → TdcIn) : (s.modTdc g f).codes = s.codes := rfl
@[simp] theorem State.modTdc_spares (s : State) (g : Nat) (f : TdcIn → TdcIn) : (s.modTdc g f).spares = s.spares := rfl
@[simp] theorem State.modTdc_stream (s : State) (g : Nat) (f : TdcIn → TdcIn) : (s.modTdc g f).stream = s.stream := rfl
@[simp] theorem State.modTdc_readData (s : State) (g : Nat) (f : TdcIn → TdcIn) : (s.modTdc g f).readData = s.readData := rfl
@[simp] theorem State.modTdc_wb (s : State) (g : Nat) (f : TdcIn → TdcIn) : (s.modTdc g f).wb = s.wb := rfl
@[simp] theorem State.modTdc_trg (s : State) (g : Nat) (f : TdcIn → TdcIn) : (s.modTdc g f).trg = s.trg := rfl
@[simp] theorem State.modTdc_trgTx (s : State) (g : Nat) (f : TdcIn → TdcIn) : (s.modTdc g f).trgTx = s.trgTx := rfl
@[simp] theorem State.modTdc_recs (s : State) (g : Nat) (f : TdcIn → TdcIn) : (s.modTdc g f).recs = s.recs := rfl
@[simp] theorem State.modTdc_dens (s : State) (g : Nat) (f : TdcIn → TdcIn) : (s.modTdc g f).dens = s.dens := rfl
@[simp] theorem State.modTdc_cores (s : State) (g : Nat) (f : TdcIn → TdcIn) : (s.modTdc g f).cores = s.cores := rfl
@[simp] theorem State.modTdc_zooms (s : State) (g : Nat) (f : TdcIn → TdcIn) : (s.modTdc g f).zooms = s.zooms := rfl
@[simp] theorem State.modTdc_repairs (s : State) (g : Nat) (f : TdcIn → TdcIn) : (s.modTdc g f).repairs = s.repairs := rfl
@[simp] theorem State.modTdc_lead (s : State) (g : Nat) (f : TdcIn → TdcIn) : (s.modTdc g f).lead = s.lead := rfl
@[simp] theorem State.modTdc_iv (s : State) (g : Nat) (f : TdcIn → TdcIn) : (s.modTdc g f).iv = s.iv := rfl
@[simp] theorem State.modTdc_tdcCheck (s : State) (g : Nat) (f : TdcIn → TdcIn) : (s.modTdc g f).tdcCheck = s.tdcCheck := rfl
@[simp] theorem State.modTdc_ddr (s : State) (g : Nat) (f : TdcIn → TdcIn) : (s.modTdc g f).ddr = s.ddr := rfl
@[simp] theorem State.modTdc_nfs (s : State) (g : Nat) (f : TdcIn → TdcIn) : (s.modTdc g f).nfs = s.nfs := rfl
@[simp] theorem State.modTdc_powerGood (s : State) (g : Nat) (f : TdcIn → TdcIn) : (s.modTdc g f).powerGood = s.powerGood := rfl
@[simp] theorem State.modTdc_resetLow (s : State) (g : Nat) (f : TdcIn → TdcIn) : (s.modTdc g f).resetLow = s.resetLow := rfl
@[simp] theorem State.modTdc_clk (s : State) (g : Nat) (f : TdcIn → TdcIn) : (s.modTdc g f).clk = s.clk := rfl
@[simp] theorem State.modTdc_enabledIn (s : State) (g : Nat) (f : TdcIn → TdcIn) : (s.modTdc g f).enabledIn = s.enabledIn := rfl
@[simp] theorem State.modTdc_enableStep (s : State) (g : Nat) (f : TdcIn → TdcIn) : (s.modTdc g f).enableStep = s.enableStep := rfl
@[simp] theorem State.modTdc_hk (s : State) (g : Nat) (f : TdcIn → TdcIn) : (s.modTdc g f).hk = s.hk := rfl
@[simp] theorem State.modTdc_pairs (s : State) (g : Nat) (f : TdcIn → TdcIn) : (s.modTdc g f).pairs = s.pairs := rfl
@[simp] theorem State.modTdc_pwm (s : State) (g : Nat) (f : TdcIn → TdcIn) : (s.modTdc g f).pwm = s.pwm := rfl
@[simp] theorem State.modTdc_hkAt (s : State) (g : Nat) (f : TdcIn → TdcIn) : (s.modTdc g f).hkAt = s.hkAt := rfl
@[simp] theorem State.modTdc_powered (s : State) (g : Nat) (f : TdcIn → TdcIn) : (s.modTdc g f).powered = s.powered := rfl
@[simp] theorem State.modTdc_hotLost (s : State) (g : Nat) (f : TdcIn → TdcIn) : (s.modTdc g f).hotLost = s.hotLost := rfl
@[simp] theorem State.modTdc_disp (s : State) (g : Nat) (f : TdcIn → TdcIn) : (s.modTdc g f).disp = s.disp := rfl
@[simp] theorem State.modTdc_dma (s : State) (g : Nat) (f : TdcIn → TdcIn) : (s.modTdc g f).dma = s.dma := rfl
@[simp] theorem State.modTdc_dmaMem (s : State) (g : Nat) (f : TdcIn → TdcIn) : (s.modTdc g f).dmaMem = s.dmaMem := rfl
@[simp] theorem State.modTdc_eth (s : State) (g : Nat) (f : TdcIn → TdcIn) : (s.modTdc g f).eth = s.eth := rfl
@[simp] theorem State.modTdc_strs (s : State) (g : Nat) (f : TdcIn → TdcIn) : (s.modTdc g f).strs = s.strs := rfl
@[simp] theorem State.modTdc_access (s : State) (g : Nat) (f : TdcIn → TdcIn) : (s.modTdc g f).access = s.access := rfl
@[simp] theorem State.modTdc_fcol (s : State) (g : Nat) (f : TdcIn → TdcIn) : (s.modTdc g f).fcol = s.fcol := rfl
@[simp] theorem State.modTdc_aliveRuns (s : State) (g : Nat) (f : TdcIn → TdcIn) : (s.modTdc g f).aliveRuns = s.aliveRuns := rfl
@[simp] theorem State.modTdc_alive (s : State) (g : Nat) (f : TdcIn → TdcIn) : (s.modTdc g f).alive = s.alive := rfl
@[simp] theorem State.modTdc_controlLost (s : State) (g : Nat) (f : TdcIn → TdcIn) : (s.modTdc g f).controlLost = s.controlLost := rfl
@[simp] theorem State.modTdc_beatsMissed (s : State) (g : Nat) (f : TdcIn → TdcIn) : (s.modTdc g f).beatsMissed = s.beatsMissed := rfl
@[simp] theorem State.modTdc_mbox (s : State) (g : Nat) (f : TdcIn → TdcIn) : (s.modTdc g f).mbox = s.mbox := rfl
@[simp] theorem State.modTdc_plans (s : State) (g : Nat) (f : TdcIn → TdcIn) : (s.modTdc g f).plans = s.plans := rfl
@[simp] theorem State.modTdc_planCmds (s : State) (g : Nat) (f : TdcIn → TdcIn) : (s.modTdc g f).planCmds = s.planCmds := rfl
@[simp] theorem State.modTdc_admissions (s : State) (g : Nat) (f : TdcIn → TdcIn) : (s.modTdc g f).admissions = s.admissions := rfl
@[simp] theorem State.modTdc_energy (s : State) (g : Nat) (f : TdcIn → TdcIn) : (s.modTdc g f).energy = s.energy := rfl
@[simp] theorem State.modTdc_ledger (s : State) (g : Nat) (f : TdcIn → TdcIn) : (s.modTdc g f).ledger = s.ledger := rfl
@[simp] theorem State.modTdc_rails (s : State) (g : Nat) (f : TdcIn → TdcIn) : (s.modTdc g f).rails = s.rails := rfl
@[simp] theorem State.modTdc_boot (s : State) (g : Nat) (f : TdcIn → TdcIn) : (s.modTdc g f).boot = s.boot := rfl
@[simp] theorem State.modTdc_brokenPipes (s : State) (g : Nat) (f : TdcIn → TdcIn) : (s.modTdc g f).brokenPipes = s.brokenPipes := rfl
@[simp] theorem State.modTdc_spi (s : State) (g : Nat) (f : TdcIn → TdcIn) : (s.modTdc g f).spi = s.spi := rfl
@[simp] theorem State.modTdc_fuses (s : State) (g : Nat) (f : TdcIn → TdcIn) : (s.modTdc g f).fuses = s.fuses := rfl
@[simp] theorem State.modTdc_fusedSvn (s : State) (g : Nat) (f : TdcIn → TdcIn) : (s.modTdc g f).fusedSvn = s.fusedSvn := rfl
@[simp] theorem State.modTdc_keyHash (s : State) (g : Nat) (f : TdcIn → TdcIn) : (s.modTdc g f).keyHash = s.keyHash := rfl
@[simp] theorem State.modTdc_hashIn (s : State) (g : Nat) (f : TdcIn → TdcIn) : (s.modTdc g f).hashIn = s.hashIn := rfl

/-! modIv -/
@[simp] theorem State.modIv_pending (s : State) (h m : Nat) (f : IvUnit → IvUnit) : (s.modIv h m f).pending = s.pending := rfl
@[simp] theorem State.modIv_part (s : State) (h m : Nat) (f : IvUnit → IvUnit) : (s.modIv h m f).part = s.part := rfl
@[simp] theorem State.modIv_suffixE (s : State) (h m : Nat) (f : IvUnit → IvUnit) : (s.modIv h m f).suffixE = s.suffixE := rfl
@[simp] theorem State.modIv_regs (s : State) (h m : Nat) (f : IvUnit → IvUnit) : (s.modIv h m f).regs = s.regs := rfl
@[simp] theorem State.modIv_live (s : State) (h m : Nat) (f : IvUnit → IvUnit) : (s.modIv h m f).live = s.live := rfl
@[simp] theorem State.modIv_tabS (s : State) (h m : Nat) (f : IvUnit → IvUnit) : (s.modIv h m f).tabS = s.tabS := rfl
@[simp] theorem State.modIv_tabL (s : State) (h m : Nat) (f : IvUnit → IvUnit) : (s.modIv h m f).tabL = s.tabL := rfl
@[simp] theorem State.modIv_force (s : State) (h m : Nat) (f : IvUnit → IvUnit) : (s.modIv h m f).force = s.force := rfl
@[simp] theorem State.modIv_tabF (s : State) (h m : Nat) (f : IvUnit → IvUnit) : (s.modIv h m f).tabF = s.tabF := rfl
@[simp] theorem State.modIv_locked (s : State) (h m : Nat) (f : IvUnit → IvUnit) : (s.modIv h m f).locked = s.locked := rfl
@[simp] theorem State.modIv_cap (s : State) (h m : Nat) (f : IvUnit → IvUnit) : (s.modIv h m f).cap = s.cap := rfl
@[simp] theorem State.modIv_flight (s : State) (h m : Nat) (f : IvUnit → IvUnit) : (s.modIv h m f).flight = s.flight := rfl
@[simp] theorem State.modIv_marks (s : State) (h m : Nat) (f : IvUnit → IvUnit) : (s.modIv h m f).marks = s.marks := rfl
@[simp] theorem State.modIv_drawn (s : State) (h m : Nat) (f : IvUnit → IvUnit) : (s.modIv h m f).drawn = s.drawn := rfl
@[simp] theorem State.modIv_link (s : State) (h m : Nat) (f : IvUnit → IvUnit) : (s.modIv h m f).link = s.link := rfl
@[simp] theorem State.modIv_acq (s : State) (h m : Nat) (f : IvUnit → IvUnit) : (s.modIv h m f).acq = s.acq := rfl
@[simp] theorem State.modIv_jrx (s : State) (h m : Nat) (f : IvUnit → IvUnit) : (s.modIv h m f).jrx = s.jrx := rfl
@[simp] theorem State.modIv_time (s : State) (h m : Nat) (f : IvUnit → IvUnit) : (s.modIv h m f).time = s.time := rfl
@[simp] theorem State.modIv_items (s : State) (h m : Nat) (f : IvUnit → IvUnit) : (s.modIv h m f).items = s.items := rfl
@[simp] theorem State.modIv_traceRing (s : State) (h m : Nat) (f : IvUnit → IvUnit) : (s.modIv h m f).traceRing = s.traceRing := rfl
@[simp] theorem State.modIv_credits (s : State) (h m : Nat) (f : IvUnit → IvUnit) : (s.modIv h m f).credits = s.credits := rfl
@[simp] theorem State.modIv_lineOvf (s : State) (h m : Nat) (f : IvUnit → IvUnit) : (s.modIv h m f).lineOvf = s.lineOvf := rfl
@[simp] theorem State.modIv_codes (s : State) (h m : Nat) (f : IvUnit → IvUnit) : (s.modIv h m f).codes = s.codes := rfl
@[simp] theorem State.modIv_spares (s : State) (h m : Nat) (f : IvUnit → IvUnit) : (s.modIv h m f).spares = s.spares := rfl
@[simp] theorem State.modIv_stream (s : State) (h m : Nat) (f : IvUnit → IvUnit) : (s.modIv h m f).stream = s.stream := rfl
@[simp] theorem State.modIv_readData (s : State) (h m : Nat) (f : IvUnit → IvUnit) : (s.modIv h m f).readData = s.readData := rfl
@[simp] theorem State.modIv_wb (s : State) (h m : Nat) (f : IvUnit → IvUnit) : (s.modIv h m f).wb = s.wb := rfl
@[simp] theorem State.modIv_trg (s : State) (h m : Nat) (f : IvUnit → IvUnit) : (s.modIv h m f).trg = s.trg := rfl
@[simp] theorem State.modIv_trgTx (s : State) (h m : Nat) (f : IvUnit → IvUnit) : (s.modIv h m f).trgTx = s.trgTx := rfl
@[simp] theorem State.modIv_recs (s : State) (h m : Nat) (f : IvUnit → IvUnit) : (s.modIv h m f).recs = s.recs := rfl
@[simp] theorem State.modIv_dens (s : State) (h m : Nat) (f : IvUnit → IvUnit) : (s.modIv h m f).dens = s.dens := rfl
@[simp] theorem State.modIv_cores (s : State) (h m : Nat) (f : IvUnit → IvUnit) : (s.modIv h m f).cores = s.cores := rfl
@[simp] theorem State.modIv_zooms (s : State) (h m : Nat) (f : IvUnit → IvUnit) : (s.modIv h m f).zooms = s.zooms := rfl
@[simp] theorem State.modIv_repairs (s : State) (h m : Nat) (f : IvUnit → IvUnit) : (s.modIv h m f).repairs = s.repairs := rfl
@[simp] theorem State.modIv_lead (s : State) (h m : Nat) (f : IvUnit → IvUnit) : (s.modIv h m f).lead = s.lead := rfl
@[simp] theorem State.modIv_tdc (s : State) (h m : Nat) (f : IvUnit → IvUnit) : (s.modIv h m f).tdc = s.tdc := rfl
@[simp] theorem State.modIv_tdcCheck (s : State) (h m : Nat) (f : IvUnit → IvUnit) : (s.modIv h m f).tdcCheck = s.tdcCheck := rfl
@[simp] theorem State.modIv_ddr (s : State) (h m : Nat) (f : IvUnit → IvUnit) : (s.modIv h m f).ddr = s.ddr := rfl
@[simp] theorem State.modIv_nfs (s : State) (h m : Nat) (f : IvUnit → IvUnit) : (s.modIv h m f).nfs = s.nfs := rfl
@[simp] theorem State.modIv_powerGood (s : State) (h m : Nat) (f : IvUnit → IvUnit) : (s.modIv h m f).powerGood = s.powerGood := rfl
@[simp] theorem State.modIv_resetLow (s : State) (h m : Nat) (f : IvUnit → IvUnit) : (s.modIv h m f).resetLow = s.resetLow := rfl
@[simp] theorem State.modIv_clk (s : State) (h m : Nat) (f : IvUnit → IvUnit) : (s.modIv h m f).clk = s.clk := rfl
@[simp] theorem State.modIv_enabledIn (s : State) (h m : Nat) (f : IvUnit → IvUnit) : (s.modIv h m f).enabledIn = s.enabledIn := rfl
@[simp] theorem State.modIv_enableStep (s : State) (h m : Nat) (f : IvUnit → IvUnit) : (s.modIv h m f).enableStep = s.enableStep := rfl
@[simp] theorem State.modIv_hk (s : State) (h m : Nat) (f : IvUnit → IvUnit) : (s.modIv h m f).hk = s.hk := rfl
@[simp] theorem State.modIv_pairs (s : State) (h m : Nat) (f : IvUnit → IvUnit) : (s.modIv h m f).pairs = s.pairs := rfl
@[simp] theorem State.modIv_pwm (s : State) (h m : Nat) (f : IvUnit → IvUnit) : (s.modIv h m f).pwm = s.pwm := rfl
@[simp] theorem State.modIv_hkAt (s : State) (h m : Nat) (f : IvUnit → IvUnit) : (s.modIv h m f).hkAt = s.hkAt := rfl
@[simp] theorem State.modIv_powered (s : State) (h m : Nat) (f : IvUnit → IvUnit) : (s.modIv h m f).powered = s.powered := rfl
@[simp] theorem State.modIv_hotLost (s : State) (h m : Nat) (f : IvUnit → IvUnit) : (s.modIv h m f).hotLost = s.hotLost := rfl
@[simp] theorem State.modIv_disp (s : State) (h m : Nat) (f : IvUnit → IvUnit) : (s.modIv h m f).disp = s.disp := rfl
@[simp] theorem State.modIv_dma (s : State) (h m : Nat) (f : IvUnit → IvUnit) : (s.modIv h m f).dma = s.dma := rfl
@[simp] theorem State.modIv_dmaMem (s : State) (h m : Nat) (f : IvUnit → IvUnit) : (s.modIv h m f).dmaMem = s.dmaMem := rfl
@[simp] theorem State.modIv_eth (s : State) (h m : Nat) (f : IvUnit → IvUnit) : (s.modIv h m f).eth = s.eth := rfl
@[simp] theorem State.modIv_strs (s : State) (h m : Nat) (f : IvUnit → IvUnit) : (s.modIv h m f).strs = s.strs := rfl
@[simp] theorem State.modIv_access (s : State) (h m : Nat) (f : IvUnit → IvUnit) : (s.modIv h m f).access = s.access := rfl
@[simp] theorem State.modIv_fcol (s : State) (h m : Nat) (f : IvUnit → IvUnit) : (s.modIv h m f).fcol = s.fcol := rfl
@[simp] theorem State.modIv_aliveRuns (s : State) (h m : Nat) (f : IvUnit → IvUnit) : (s.modIv h m f).aliveRuns = s.aliveRuns := rfl
@[simp] theorem State.modIv_alive (s : State) (h m : Nat) (f : IvUnit → IvUnit) : (s.modIv h m f).alive = s.alive := rfl
@[simp] theorem State.modIv_controlLost (s : State) (h m : Nat) (f : IvUnit → IvUnit) : (s.modIv h m f).controlLost = s.controlLost := rfl
@[simp] theorem State.modIv_beatsMissed (s : State) (h m : Nat) (f : IvUnit → IvUnit) : (s.modIv h m f).beatsMissed = s.beatsMissed := rfl
@[simp] theorem State.modIv_mbox (s : State) (h m : Nat) (f : IvUnit → IvUnit) : (s.modIv h m f).mbox = s.mbox := rfl
@[simp] theorem State.modIv_plans (s : State) (h m : Nat) (f : IvUnit → IvUnit) : (s.modIv h m f).plans = s.plans := rfl
@[simp] theorem State.modIv_planCmds (s : State) (h m : Nat) (f : IvUnit → IvUnit) : (s.modIv h m f).planCmds = s.planCmds := rfl
@[simp] theorem State.modIv_admissions (s : State) (h m : Nat) (f : IvUnit → IvUnit) : (s.modIv h m f).admissions = s.admissions := rfl
@[simp] theorem State.modIv_energy (s : State) (h m : Nat) (f : IvUnit → IvUnit) : (s.modIv h m f).energy = s.energy := rfl
@[simp] theorem State.modIv_ledger (s : State) (h m : Nat) (f : IvUnit → IvUnit) : (s.modIv h m f).ledger = s.ledger := rfl
@[simp] theorem State.modIv_rails (s : State) (h m : Nat) (f : IvUnit → IvUnit) : (s.modIv h m f).rails = s.rails := rfl
@[simp] theorem State.modIv_boot (s : State) (h m : Nat) (f : IvUnit → IvUnit) : (s.modIv h m f).boot = s.boot := rfl
@[simp] theorem State.modIv_brokenPipes (s : State) (h m : Nat) (f : IvUnit → IvUnit) : (s.modIv h m f).brokenPipes = s.brokenPipes := rfl
@[simp] theorem State.modIv_spi (s : State) (h m : Nat) (f : IvUnit → IvUnit) : (s.modIv h m f).spi = s.spi := rfl
@[simp] theorem State.modIv_fuses (s : State) (h m : Nat) (f : IvUnit → IvUnit) : (s.modIv h m f).fuses = s.fuses := rfl
@[simp] theorem State.modIv_fusedSvn (s : State) (h m : Nat) (f : IvUnit → IvUnit) : (s.modIv h m f).fusedSvn = s.fusedSvn := rfl
@[simp] theorem State.modIv_keyHash (s : State) (h m : Nat) (f : IvUnit → IvUnit) : (s.modIv h m f).keyHash = s.keyHash := rfl
@[simp] theorem State.modIv_hashIn (s : State) (h m : Nat) (f : IvUnit → IvUnit) : (s.modIv h m f).hashIn = s.hashIn := rfl

/-! modTime -/
@[simp] theorem State.modTime_pending (s : State) (f : TimeSt → TimeSt) : (s.modTime f).pending = s.pending := rfl
@[simp] theorem State.modTime_part (s : State) (f : TimeSt → TimeSt) : (s.modTime f).part = s.part := rfl
@[simp] theorem State.modTime_suffixE (s : State) (f : TimeSt → TimeSt) : (s.modTime f).suffixE = s.suffixE := rfl
@[simp] theorem State.modTime_regs (s : State) (f : TimeSt → TimeSt) : (s.modTime f).regs = s.regs := rfl
@[simp] theorem State.modTime_live (s : State) (f : TimeSt → TimeSt) : (s.modTime f).live = s.live := rfl
@[simp] theorem State.modTime_tabS (s : State) (f : TimeSt → TimeSt) : (s.modTime f).tabS = s.tabS := rfl
@[simp] theorem State.modTime_tabL (s : State) (f : TimeSt → TimeSt) : (s.modTime f).tabL = s.tabL := rfl
@[simp] theorem State.modTime_force (s : State) (f : TimeSt → TimeSt) : (s.modTime f).force = s.force := rfl
@[simp] theorem State.modTime_tabF (s : State) (f : TimeSt → TimeSt) : (s.modTime f).tabF = s.tabF := rfl
@[simp] theorem State.modTime_locked (s : State) (f : TimeSt → TimeSt) : (s.modTime f).locked = s.locked := rfl
@[simp] theorem State.modTime_cap (s : State) (f : TimeSt → TimeSt) : (s.modTime f).cap = s.cap := rfl
@[simp] theorem State.modTime_flight (s : State) (f : TimeSt → TimeSt) : (s.modTime f).flight = s.flight := rfl
@[simp] theorem State.modTime_marks (s : State) (f : TimeSt → TimeSt) : (s.modTime f).marks = s.marks := rfl
@[simp] theorem State.modTime_drawn (s : State) (f : TimeSt → TimeSt) : (s.modTime f).drawn = s.drawn := rfl
@[simp] theorem State.modTime_link (s : State) (f : TimeSt → TimeSt) : (s.modTime f).link = s.link := rfl
@[simp] theorem State.modTime_acq (s : State) (f : TimeSt → TimeSt) : (s.modTime f).acq = s.acq := rfl
@[simp] theorem State.modTime_jrx (s : State) (f : TimeSt → TimeSt) : (s.modTime f).jrx = s.jrx := rfl
@[simp] theorem State.modTime_items (s : State) (f : TimeSt → TimeSt) : (s.modTime f).items = s.items := rfl
@[simp] theorem State.modTime_traceRing (s : State) (f : TimeSt → TimeSt) : (s.modTime f).traceRing = s.traceRing := rfl
@[simp] theorem State.modTime_credits (s : State) (f : TimeSt → TimeSt) : (s.modTime f).credits = s.credits := rfl
@[simp] theorem State.modTime_lineOvf (s : State) (f : TimeSt → TimeSt) : (s.modTime f).lineOvf = s.lineOvf := rfl
@[simp] theorem State.modTime_codes (s : State) (f : TimeSt → TimeSt) : (s.modTime f).codes = s.codes := rfl
@[simp] theorem State.modTime_spares (s : State) (f : TimeSt → TimeSt) : (s.modTime f).spares = s.spares := rfl
@[simp] theorem State.modTime_stream (s : State) (f : TimeSt → TimeSt) : (s.modTime f).stream = s.stream := rfl
@[simp] theorem State.modTime_readData (s : State) (f : TimeSt → TimeSt) : (s.modTime f).readData = s.readData := rfl
@[simp] theorem State.modTime_wb (s : State) (f : TimeSt → TimeSt) : (s.modTime f).wb = s.wb := rfl
@[simp] theorem State.modTime_trg (s : State) (f : TimeSt → TimeSt) : (s.modTime f).trg = s.trg := rfl
@[simp] theorem State.modTime_trgTx (s : State) (f : TimeSt → TimeSt) : (s.modTime f).trgTx = s.trgTx := rfl
@[simp] theorem State.modTime_recs (s : State) (f : TimeSt → TimeSt) : (s.modTime f).recs = s.recs := rfl
@[simp] theorem State.modTime_dens (s : State) (f : TimeSt → TimeSt) : (s.modTime f).dens = s.dens := rfl
@[simp] theorem State.modTime_cores (s : State) (f : TimeSt → TimeSt) : (s.modTime f).cores = s.cores := rfl
@[simp] theorem State.modTime_zooms (s : State) (f : TimeSt → TimeSt) : (s.modTime f).zooms = s.zooms := rfl
@[simp] theorem State.modTime_repairs (s : State) (f : TimeSt → TimeSt) : (s.modTime f).repairs = s.repairs := rfl
@[simp] theorem State.modTime_lead (s : State) (f : TimeSt → TimeSt) : (s.modTime f).lead = s.lead := rfl
@[simp] theorem State.modTime_tdc (s : State) (f : TimeSt → TimeSt) : (s.modTime f).tdc = s.tdc := rfl
@[simp] theorem State.modTime_iv (s : State) (f : TimeSt → TimeSt) : (s.modTime f).iv = s.iv := rfl
@[simp] theorem State.modTime_tdcCheck (s : State) (f : TimeSt → TimeSt) : (s.modTime f).tdcCheck = s.tdcCheck := rfl
@[simp] theorem State.modTime_ddr (s : State) (f : TimeSt → TimeSt) : (s.modTime f).ddr = s.ddr := rfl
@[simp] theorem State.modTime_nfs (s : State) (f : TimeSt → TimeSt) : (s.modTime f).nfs = s.nfs := rfl
@[simp] theorem State.modTime_powerGood (s : State) (f : TimeSt → TimeSt) : (s.modTime f).powerGood = s.powerGood := rfl
@[simp] theorem State.modTime_resetLow (s : State) (f : TimeSt → TimeSt) : (s.modTime f).resetLow = s.resetLow := rfl
@[simp] theorem State.modTime_clk (s : State) (f : TimeSt → TimeSt) : (s.modTime f).clk = s.clk := rfl
@[simp] theorem State.modTime_enabledIn (s : State) (f : TimeSt → TimeSt) : (s.modTime f).enabledIn = s.enabledIn := rfl
@[simp] theorem State.modTime_enableStep (s : State) (f : TimeSt → TimeSt) : (s.modTime f).enableStep = s.enableStep := rfl
@[simp] theorem State.modTime_hk (s : State) (f : TimeSt → TimeSt) : (s.modTime f).hk = s.hk := rfl
@[simp] theorem State.modTime_pairs (s : State) (f : TimeSt → TimeSt) : (s.modTime f).pairs = s.pairs := rfl
@[simp] theorem State.modTime_pwm (s : State) (f : TimeSt → TimeSt) : (s.modTime f).pwm = s.pwm := rfl
@[simp] theorem State.modTime_hkAt (s : State) (f : TimeSt → TimeSt) : (s.modTime f).hkAt = s.hkAt := rfl
@[simp] theorem State.modTime_powered (s : State) (f : TimeSt → TimeSt) : (s.modTime f).powered = s.powered := rfl
@[simp] theorem State.modTime_hotLost (s : State) (f : TimeSt → TimeSt) : (s.modTime f).hotLost = s.hotLost := rfl
@[simp] theorem State.modTime_disp (s : State) (f : TimeSt → TimeSt) : (s.modTime f).disp = s.disp := rfl
@[simp] theorem State.modTime_dma (s : State) (f : TimeSt → TimeSt) : (s.modTime f).dma = s.dma := rfl
@[simp] theorem State.modTime_dmaMem (s : State) (f : TimeSt → TimeSt) : (s.modTime f).dmaMem = s.dmaMem := rfl
@[simp] theorem State.modTime_eth (s : State) (f : TimeSt → TimeSt) : (s.modTime f).eth = s.eth := rfl
@[simp] theorem State.modTime_strs (s : State) (f : TimeSt → TimeSt) : (s.modTime f).strs = s.strs := rfl
@[simp] theorem State.modTime_access (s : State) (f : TimeSt → TimeSt) : (s.modTime f).access = s.access := rfl
@[simp] theorem State.modTime_fcol (s : State) (f : TimeSt → TimeSt) : (s.modTime f).fcol = s.fcol := rfl
@[simp] theorem State.modTime_aliveRuns (s : State) (f : TimeSt → TimeSt) : (s.modTime f).aliveRuns = s.aliveRuns := rfl
@[simp] theorem State.modTime_alive (s : State) (f : TimeSt → TimeSt) : (s.modTime f).alive = s.alive := rfl
@[simp] theorem State.modTime_controlLost (s : State) (f : TimeSt → TimeSt) : (s.modTime f).controlLost = s.controlLost := rfl
@[simp] theorem State.modTime_beatsMissed (s : State) (f : TimeSt → TimeSt) : (s.modTime f).beatsMissed = s.beatsMissed := rfl
@[simp] theorem State.modTime_mbox (s : State) (f : TimeSt → TimeSt) : (s.modTime f).mbox = s.mbox := rfl
@[simp] theorem State.modTime_plans (s : State) (f : TimeSt → TimeSt) : (s.modTime f).plans = s.plans := rfl
@[simp] theorem State.modTime_planCmds (s : State) (f : TimeSt → TimeSt) : (s.modTime f).planCmds = s.planCmds := rfl
@[simp] theorem State.modTime_admissions (s : State) (f : TimeSt → TimeSt) : (s.modTime f).admissions = s.admissions := rfl
@[simp] theorem State.modTime_energy (s : State) (f : TimeSt → TimeSt) : (s.modTime f).energy = s.energy := rfl
@[simp] theorem State.modTime_ledger (s : State) (f : TimeSt → TimeSt) : (s.modTime f).ledger = s.ledger := rfl
@[simp] theorem State.modTime_rails (s : State) (f : TimeSt → TimeSt) : (s.modTime f).rails = s.rails := rfl
@[simp] theorem State.modTime_boot (s : State) (f : TimeSt → TimeSt) : (s.modTime f).boot = s.boot := rfl
@[simp] theorem State.modTime_brokenPipes (s : State) (f : TimeSt → TimeSt) : (s.modTime f).brokenPipes = s.brokenPipes := rfl
@[simp] theorem State.modTime_spi (s : State) (f : TimeSt → TimeSt) : (s.modTime f).spi = s.spi := rfl
@[simp] theorem State.modTime_fuses (s : State) (f : TimeSt → TimeSt) : (s.modTime f).fuses = s.fuses := rfl
@[simp] theorem State.modTime_fusedSvn (s : State) (f : TimeSt → TimeSt) : (s.modTime f).fusedSvn = s.fusedSvn := rfl
@[simp] theorem State.modTime_keyHash (s : State) (f : TimeSt → TimeSt) : (s.modTime f).keyHash = s.keyHash := rfl
@[simp] theorem State.modTime_hashIn (s : State) (f : TimeSt → TimeSt) : (s.modTime f).hashIn = s.hashIn := rfl

/-! modBase -/
@[simp] theorem State.modBase_pending (s : State) (k : Nat) (f : BaseSt → BaseSt) : (s.modBase k f).pending = s.pending := rfl
@[simp] theorem State.modBase_part (s : State) (k : Nat) (f : BaseSt → BaseSt) : (s.modBase k f).part = s.part := rfl
@[simp] theorem State.modBase_suffixE (s : State) (k : Nat) (f : BaseSt → BaseSt) : (s.modBase k f).suffixE = s.suffixE := rfl
@[simp] theorem State.modBase_regs (s : State) (k : Nat) (f : BaseSt → BaseSt) : (s.modBase k f).regs = s.regs := rfl
@[simp] theorem State.modBase_live (s : State) (k : Nat) (f : BaseSt → BaseSt) : (s.modBase k f).live = s.live := rfl
@[simp] theorem State.modBase_tabS (s : State) (k : Nat) (f : BaseSt → BaseSt) : (s.modBase k f).tabS = s.tabS := rfl
@[simp] theorem State.modBase_tabL (s : State) (k : Nat) (f : BaseSt → BaseSt) : (s.modBase k f).tabL = s.tabL := rfl
@[simp] theorem State.modBase_force (s : State) (k : Nat) (f : BaseSt → BaseSt) : (s.modBase k f).force = s.force := rfl
@[simp] theorem State.modBase_tabF (s : State) (k : Nat) (f : BaseSt → BaseSt) : (s.modBase k f).tabF = s.tabF := rfl
@[simp] theorem State.modBase_locked (s : State) (k : Nat) (f : BaseSt → BaseSt) : (s.modBase k f).locked = s.locked := rfl
@[simp] theorem State.modBase_cap (s : State) (k : Nat) (f : BaseSt → BaseSt) : (s.modBase k f).cap = s.cap := rfl
@[simp] theorem State.modBase_flight (s : State) (k : Nat) (f : BaseSt → BaseSt) : (s.modBase k f).flight = s.flight := rfl
@[simp] theorem State.modBase_marks (s : State) (k : Nat) (f : BaseSt → BaseSt) : (s.modBase k f).marks = s.marks := rfl
@[simp] theorem State.modBase_drawn (s : State) (k : Nat) (f : BaseSt → BaseSt) : (s.modBase k f).drawn = s.drawn := rfl
@[simp] theorem State.modBase_link (s : State) (k : Nat) (f : BaseSt → BaseSt) : (s.modBase k f).link = s.link := rfl
@[simp] theorem State.modBase_acq (s : State) (k : Nat) (f : BaseSt → BaseSt) : (s.modBase k f).acq = s.acq := rfl
@[simp] theorem State.modBase_jrx (s : State) (k : Nat) (f : BaseSt → BaseSt) : (s.modBase k f).jrx = s.jrx := rfl
@[simp] theorem State.modBase_items (s : State) (k : Nat) (f : BaseSt → BaseSt) : (s.modBase k f).items = s.items := rfl
@[simp] theorem State.modBase_traceRing (s : State) (k : Nat) (f : BaseSt → BaseSt) : (s.modBase k f).traceRing = s.traceRing := rfl
@[simp] theorem State.modBase_credits (s : State) (k : Nat) (f : BaseSt → BaseSt) : (s.modBase k f).credits = s.credits := rfl
@[simp] theorem State.modBase_lineOvf (s : State) (k : Nat) (f : BaseSt → BaseSt) : (s.modBase k f).lineOvf = s.lineOvf := rfl
@[simp] theorem State.modBase_codes (s : State) (k : Nat) (f : BaseSt → BaseSt) : (s.modBase k f).codes = s.codes := rfl
@[simp] theorem State.modBase_spares (s : State) (k : Nat) (f : BaseSt → BaseSt) : (s.modBase k f).spares = s.spares := rfl
@[simp] theorem State.modBase_stream (s : State) (k : Nat) (f : BaseSt → BaseSt) : (s.modBase k f).stream = s.stream := rfl
@[simp] theorem State.modBase_readData (s : State) (k : Nat) (f : BaseSt → BaseSt) : (s.modBase k f).readData = s.readData := rfl
@[simp] theorem State.modBase_wb (s : State) (k : Nat) (f : BaseSt → BaseSt) : (s.modBase k f).wb = s.wb := rfl
@[simp] theorem State.modBase_trg (s : State) (k : Nat) (f : BaseSt → BaseSt) : (s.modBase k f).trg = s.trg := rfl
@[simp] theorem State.modBase_trgTx (s : State) (k : Nat) (f : BaseSt → BaseSt) : (s.modBase k f).trgTx = s.trgTx := rfl
@[simp] theorem State.modBase_recs (s : State) (k : Nat) (f : BaseSt → BaseSt) : (s.modBase k f).recs = s.recs := rfl
@[simp] theorem State.modBase_dens (s : State) (k : Nat) (f : BaseSt → BaseSt) : (s.modBase k f).dens = s.dens := rfl
@[simp] theorem State.modBase_cores (s : State) (k : Nat) (f : BaseSt → BaseSt) : (s.modBase k f).cores = s.cores := rfl
@[simp] theorem State.modBase_zooms (s : State) (k : Nat) (f : BaseSt → BaseSt) : (s.modBase k f).zooms = s.zooms := rfl
@[simp] theorem State.modBase_repairs (s : State) (k : Nat) (f : BaseSt → BaseSt) : (s.modBase k f).repairs = s.repairs := rfl
@[simp] theorem State.modBase_lead (s : State) (k : Nat) (f : BaseSt → BaseSt) : (s.modBase k f).lead = s.lead := rfl
@[simp] theorem State.modBase_tdc (s : State) (k : Nat) (f : BaseSt → BaseSt) : (s.modBase k f).tdc = s.tdc := rfl
@[simp] theorem State.modBase_iv (s : State) (k : Nat) (f : BaseSt → BaseSt) : (s.modBase k f).iv = s.iv := rfl
@[simp] theorem State.modBase_tdcCheck (s : State) (k : Nat) (f : BaseSt → BaseSt) : (s.modBase k f).tdcCheck = s.tdcCheck := rfl
@[simp] theorem State.modBase_ddr (s : State) (k : Nat) (f : BaseSt → BaseSt) : (s.modBase k f).ddr = s.ddr := rfl
@[simp] theorem State.modBase_nfs (s : State) (k : Nat) (f : BaseSt → BaseSt) : (s.modBase k f).nfs = s.nfs := rfl
@[simp] theorem State.modBase_powerGood (s : State) (k : Nat) (f : BaseSt → BaseSt) : (s.modBase k f).powerGood = s.powerGood := rfl
@[simp] theorem State.modBase_resetLow (s : State) (k : Nat) (f : BaseSt → BaseSt) : (s.modBase k f).resetLow = s.resetLow := rfl
@[simp] theorem State.modBase_clk (s : State) (k : Nat) (f : BaseSt → BaseSt) : (s.modBase k f).clk = s.clk := rfl
@[simp] theorem State.modBase_enabledIn (s : State) (k : Nat) (f : BaseSt → BaseSt) : (s.modBase k f).enabledIn = s.enabledIn := rfl
@[simp] theorem State.modBase_enableStep (s : State) (k : Nat) (f : BaseSt → BaseSt) : (s.modBase k f).enableStep = s.enableStep := rfl
@[simp] theorem State.modBase_hk (s : State) (k : Nat) (f : BaseSt → BaseSt) : (s.modBase k f).hk = s.hk := rfl
@[simp] theorem State.modBase_pairs (s : State) (k : Nat) (f : BaseSt → BaseSt) : (s.modBase k f).pairs = s.pairs := rfl
@[simp] theorem State.modBase_pwm (s : State) (k : Nat) (f : BaseSt → BaseSt) : (s.modBase k f).pwm = s.pwm := rfl
@[simp] theorem State.modBase_hkAt (s : State) (k : Nat) (f : BaseSt → BaseSt) : (s.modBase k f).hkAt = s.hkAt := rfl
@[simp] theorem State.modBase_powered (s : State) (k : Nat) (f : BaseSt → BaseSt) : (s.modBase k f).powered = s.powered := rfl
@[simp] theorem State.modBase_hotLost (s : State) (k : Nat) (f : BaseSt → BaseSt) : (s.modBase k f).hotLost = s.hotLost := rfl
@[simp] theorem State.modBase_disp (s : State) (k : Nat) (f : BaseSt → BaseSt) : (s.modBase k f).disp = s.disp := rfl
@[simp] theorem State.modBase_dma (s : State) (k : Nat) (f : BaseSt → BaseSt) : (s.modBase k f).dma = s.dma := rfl
@[simp] theorem State.modBase_dmaMem (s : State) (k : Nat) (f : BaseSt → BaseSt) : (s.modBase k f).dmaMem = s.dmaMem := rfl
@[simp] theorem State.modBase_eth (s : State) (k : Nat) (f : BaseSt → BaseSt) : (s.modBase k f).eth = s.eth := rfl
@[simp] theorem State.modBase_strs (s : State) (k : Nat) (f : BaseSt → BaseSt) : (s.modBase k f).strs = s.strs := rfl
@[simp] theorem State.modBase_access (s : State) (k : Nat) (f : BaseSt → BaseSt) : (s.modBase k f).access = s.access := rfl
@[simp] theorem State.modBase_fcol (s : State) (k : Nat) (f : BaseSt → BaseSt) : (s.modBase k f).fcol = s.fcol := rfl
@[simp] theorem State.modBase_aliveRuns (s : State) (k : Nat) (f : BaseSt → BaseSt) : (s.modBase k f).aliveRuns = s.aliveRuns := rfl
@[simp] theorem State.modBase_alive (s : State) (k : Nat) (f : BaseSt → BaseSt) : (s.modBase k f).alive = s.alive := rfl
@[simp] theorem State.modBase_controlLost (s : State) (k : Nat) (f : BaseSt → BaseSt) : (s.modBase k f).controlLost = s.controlLost := rfl
@[simp] theorem State.modBase_beatsMissed (s : State) (k : Nat) (f : BaseSt → BaseSt) : (s.modBase k f).beatsMissed = s.beatsMissed := rfl
@[simp] theorem State.modBase_mbox (s : State) (k : Nat) (f : BaseSt → BaseSt) : (s.modBase k f).mbox = s.mbox := rfl
@[simp] theorem State.modBase_plans (s : State) (k : Nat) (f : BaseSt → BaseSt) : (s.modBase k f).plans = s.plans := rfl
@[simp] theorem State.modBase_planCmds (s : State) (k : Nat) (f : BaseSt → BaseSt) : (s.modBase k f).planCmds = s.planCmds := rfl
@[simp] theorem State.modBase_admissions (s : State) (k : Nat) (f : BaseSt → BaseSt) : (s.modBase k f).admissions = s.admissions := rfl
@[simp] theorem State.modBase_energy (s : State) (k : Nat) (f : BaseSt → BaseSt) : (s.modBase k f).energy = s.energy := rfl
@[simp] theorem State.modBase_ledger (s : State) (k : Nat) (f : BaseSt → BaseSt) : (s.modBase k f).ledger = s.ledger := rfl
@[simp] theorem State.modBase_rails (s : State) (k : Nat) (f : BaseSt → BaseSt) : (s.modBase k f).rails = s.rails := rfl
@[simp] theorem State.modBase_boot (s : State) (k : Nat) (f : BaseSt → BaseSt) : (s.modBase k f).boot = s.boot := rfl
@[simp] theorem State.modBase_brokenPipes (s : State) (k : Nat) (f : BaseSt → BaseSt) : (s.modBase k f).brokenPipes = s.brokenPipes := rfl
@[simp] theorem State.modBase_spi (s : State) (k : Nat) (f : BaseSt → BaseSt) : (s.modBase k f).spi = s.spi := rfl
@[simp] theorem State.modBase_fuses (s : State) (k : Nat) (f : BaseSt → BaseSt) : (s.modBase k f).fuses = s.fuses := rfl
@[simp] theorem State.modBase_fusedSvn (s : State) (k : Nat) (f : BaseSt → BaseSt) : (s.modBase k f).fusedSvn = s.fusedSvn := rfl
@[simp] theorem State.modBase_keyHash (s : State) (k : Nat) (f : BaseSt → BaseSt) : (s.modBase k f).keyHash = s.keyHash := rfl
@[simp] theorem State.modBase_hashIn (s : State) (k : Nat) (f : BaseSt → BaseSt) : (s.modBase k f).hashIn = s.hashIn := rfl

/-! modPort -/
@[simp] theorem State.modPort_pending (s : State) (i p : Nat) (f : PtpPort → PtpPort) : (s.modPort i p f).pending = s.pending := rfl
@[simp] theorem State.modPort_part (s : State) (i p : Nat) (f : PtpPort → PtpPort) : (s.modPort i p f).part = s.part := rfl
@[simp] theorem State.modPort_suffixE (s : State) (i p : Nat) (f : PtpPort → PtpPort) : (s.modPort i p f).suffixE = s.suffixE := rfl
@[simp] theorem State.modPort_regs (s : State) (i p : Nat) (f : PtpPort → PtpPort) : (s.modPort i p f).regs = s.regs := rfl
@[simp] theorem State.modPort_live (s : State) (i p : Nat) (f : PtpPort → PtpPort) : (s.modPort i p f).live = s.live := rfl
@[simp] theorem State.modPort_tabS (s : State) (i p : Nat) (f : PtpPort → PtpPort) : (s.modPort i p f).tabS = s.tabS := rfl
@[simp] theorem State.modPort_tabL (s : State) (i p : Nat) (f : PtpPort → PtpPort) : (s.modPort i p f).tabL = s.tabL := rfl
@[simp] theorem State.modPort_force (s : State) (i p : Nat) (f : PtpPort → PtpPort) : (s.modPort i p f).force = s.force := rfl
@[simp] theorem State.modPort_tabF (s : State) (i p : Nat) (f : PtpPort → PtpPort) : (s.modPort i p f).tabF = s.tabF := rfl
@[simp] theorem State.modPort_locked (s : State) (i p : Nat) (f : PtpPort → PtpPort) : (s.modPort i p f).locked = s.locked := rfl
@[simp] theorem State.modPort_cap (s : State) (i p : Nat) (f : PtpPort → PtpPort) : (s.modPort i p f).cap = s.cap := rfl
@[simp] theorem State.modPort_flight (s : State) (i p : Nat) (f : PtpPort → PtpPort) : (s.modPort i p f).flight = s.flight := rfl
@[simp] theorem State.modPort_marks (s : State) (i p : Nat) (f : PtpPort → PtpPort) : (s.modPort i p f).marks = s.marks := rfl
@[simp] theorem State.modPort_drawn (s : State) (i p : Nat) (f : PtpPort → PtpPort) : (s.modPort i p f).drawn = s.drawn := rfl
@[simp] theorem State.modPort_link (s : State) (i p : Nat) (f : PtpPort → PtpPort) : (s.modPort i p f).link = s.link := rfl
@[simp] theorem State.modPort_acq (s : State) (i p : Nat) (f : PtpPort → PtpPort) : (s.modPort i p f).acq = s.acq := rfl
@[simp] theorem State.modPort_jrx (s : State) (i p : Nat) (f : PtpPort → PtpPort) : (s.modPort i p f).jrx = s.jrx := rfl
@[simp] theorem State.modPort_items (s : State) (i p : Nat) (f : PtpPort → PtpPort) : (s.modPort i p f).items = s.items := rfl
@[simp] theorem State.modPort_traceRing (s : State) (i p : Nat) (f : PtpPort → PtpPort) : (s.modPort i p f).traceRing = s.traceRing := rfl
@[simp] theorem State.modPort_credits (s : State) (i p : Nat) (f : PtpPort → PtpPort) : (s.modPort i p f).credits = s.credits := rfl
@[simp] theorem State.modPort_lineOvf (s : State) (i p : Nat) (f : PtpPort → PtpPort) : (s.modPort i p f).lineOvf = s.lineOvf := rfl
@[simp] theorem State.modPort_codes (s : State) (i p : Nat) (f : PtpPort → PtpPort) : (s.modPort i p f).codes = s.codes := rfl
@[simp] theorem State.modPort_spares (s : State) (i p : Nat) (f : PtpPort → PtpPort) : (s.modPort i p f).spares = s.spares := rfl
@[simp] theorem State.modPort_stream (s : State) (i p : Nat) (f : PtpPort → PtpPort) : (s.modPort i p f).stream = s.stream := rfl
@[simp] theorem State.modPort_readData (s : State) (i p : Nat) (f : PtpPort → PtpPort) : (s.modPort i p f).readData = s.readData := rfl
@[simp] theorem State.modPort_wb (s : State) (i p : Nat) (f : PtpPort → PtpPort) : (s.modPort i p f).wb = s.wb := rfl
@[simp] theorem State.modPort_trg (s : State) (i p : Nat) (f : PtpPort → PtpPort) : (s.modPort i p f).trg = s.trg := rfl
@[simp] theorem State.modPort_trgTx (s : State) (i p : Nat) (f : PtpPort → PtpPort) : (s.modPort i p f).trgTx = s.trgTx := rfl
@[simp] theorem State.modPort_recs (s : State) (i p : Nat) (f : PtpPort → PtpPort) : (s.modPort i p f).recs = s.recs := rfl
@[simp] theorem State.modPort_dens (s : State) (i p : Nat) (f : PtpPort → PtpPort) : (s.modPort i p f).dens = s.dens := rfl
@[simp] theorem State.modPort_cores (s : State) (i p : Nat) (f : PtpPort → PtpPort) : (s.modPort i p f).cores = s.cores := rfl
@[simp] theorem State.modPort_zooms (s : State) (i p : Nat) (f : PtpPort → PtpPort) : (s.modPort i p f).zooms = s.zooms := rfl
@[simp] theorem State.modPort_repairs (s : State) (i p : Nat) (f : PtpPort → PtpPort) : (s.modPort i p f).repairs = s.repairs := rfl
@[simp] theorem State.modPort_lead (s : State) (i p : Nat) (f : PtpPort → PtpPort) : (s.modPort i p f).lead = s.lead := rfl
@[simp] theorem State.modPort_tdc (s : State) (i p : Nat) (f : PtpPort → PtpPort) : (s.modPort i p f).tdc = s.tdc := rfl
@[simp] theorem State.modPort_iv (s : State) (i p : Nat) (f : PtpPort → PtpPort) : (s.modPort i p f).iv = s.iv := rfl
@[simp] theorem State.modPort_tdcCheck (s : State) (i p : Nat) (f : PtpPort → PtpPort) : (s.modPort i p f).tdcCheck = s.tdcCheck := rfl
@[simp] theorem State.modPort_ddr (s : State) (i p : Nat) (f : PtpPort → PtpPort) : (s.modPort i p f).ddr = s.ddr := rfl
@[simp] theorem State.modPort_nfs (s : State) (i p : Nat) (f : PtpPort → PtpPort) : (s.modPort i p f).nfs = s.nfs := rfl
@[simp] theorem State.modPort_powerGood (s : State) (i p : Nat) (f : PtpPort → PtpPort) : (s.modPort i p f).powerGood = s.powerGood := rfl
@[simp] theorem State.modPort_resetLow (s : State) (i p : Nat) (f : PtpPort → PtpPort) : (s.modPort i p f).resetLow = s.resetLow := rfl
@[simp] theorem State.modPort_clk (s : State) (i p : Nat) (f : PtpPort → PtpPort) : (s.modPort i p f).clk = s.clk := rfl
@[simp] theorem State.modPort_enabledIn (s : State) (i p : Nat) (f : PtpPort → PtpPort) : (s.modPort i p f).enabledIn = s.enabledIn := rfl
@[simp] theorem State.modPort_enableStep (s : State) (i p : Nat) (f : PtpPort → PtpPort) : (s.modPort i p f).enableStep = s.enableStep := rfl
@[simp] theorem State.modPort_hk (s : State) (i p : Nat) (f : PtpPort → PtpPort) : (s.modPort i p f).hk = s.hk := rfl
@[simp] theorem State.modPort_pairs (s : State) (i p : Nat) (f : PtpPort → PtpPort) : (s.modPort i p f).pairs = s.pairs := rfl
@[simp] theorem State.modPort_pwm (s : State) (i p : Nat) (f : PtpPort → PtpPort) : (s.modPort i p f).pwm = s.pwm := rfl
@[simp] theorem State.modPort_hkAt (s : State) (i p : Nat) (f : PtpPort → PtpPort) : (s.modPort i p f).hkAt = s.hkAt := rfl
@[simp] theorem State.modPort_powered (s : State) (i p : Nat) (f : PtpPort → PtpPort) : (s.modPort i p f).powered = s.powered := rfl
@[simp] theorem State.modPort_hotLost (s : State) (i p : Nat) (f : PtpPort → PtpPort) : (s.modPort i p f).hotLost = s.hotLost := rfl
@[simp] theorem State.modPort_disp (s : State) (i p : Nat) (f : PtpPort → PtpPort) : (s.modPort i p f).disp = s.disp := rfl
@[simp] theorem State.modPort_dma (s : State) (i p : Nat) (f : PtpPort → PtpPort) : (s.modPort i p f).dma = s.dma := rfl
@[simp] theorem State.modPort_dmaMem (s : State) (i p : Nat) (f : PtpPort → PtpPort) : (s.modPort i p f).dmaMem = s.dmaMem := rfl
@[simp] theorem State.modPort_eth (s : State) (i p : Nat) (f : PtpPort → PtpPort) : (s.modPort i p f).eth = s.eth := rfl
@[simp] theorem State.modPort_strs (s : State) (i p : Nat) (f : PtpPort → PtpPort) : (s.modPort i p f).strs = s.strs := rfl
@[simp] theorem State.modPort_access (s : State) (i p : Nat) (f : PtpPort → PtpPort) : (s.modPort i p f).access = s.access := rfl
@[simp] theorem State.modPort_fcol (s : State) (i p : Nat) (f : PtpPort → PtpPort) : (s.modPort i p f).fcol = s.fcol := rfl
@[simp] theorem State.modPort_aliveRuns (s : State) (i p : Nat) (f : PtpPort → PtpPort) : (s.modPort i p f).aliveRuns = s.aliveRuns := rfl
@[simp] theorem State.modPort_alive (s : State) (i p : Nat) (f : PtpPort → PtpPort) : (s.modPort i p f).alive = s.alive := rfl
@[simp] theorem State.modPort_controlLost (s : State) (i p : Nat) (f : PtpPort → PtpPort) : (s.modPort i p f).controlLost = s.controlLost := rfl
@[simp] theorem State.modPort_beatsMissed (s : State) (i p : Nat) (f : PtpPort → PtpPort) : (s.modPort i p f).beatsMissed = s.beatsMissed := rfl
@[simp] theorem State.modPort_mbox (s : State) (i p : Nat) (f : PtpPort → PtpPort) : (s.modPort i p f).mbox = s.mbox := rfl
@[simp] theorem State.modPort_plans (s : State) (i p : Nat) (f : PtpPort → PtpPort) : (s.modPort i p f).plans = s.plans := rfl
@[simp] theorem State.modPort_planCmds (s : State) (i p : Nat) (f : PtpPort → PtpPort) : (s.modPort i p f).planCmds = s.planCmds := rfl
@[simp] theorem State.modPort_admissions (s : State) (i p : Nat) (f : PtpPort → PtpPort) : (s.modPort i p f).admissions = s.admissions := rfl
@[simp] theorem State.modPort_energy (s : State) (i p : Nat) (f : PtpPort → PtpPort) : (s.modPort i p f).energy = s.energy := rfl
@[simp] theorem State.modPort_ledger (s : State) (i p : Nat) (f : PtpPort → PtpPort) : (s.modPort i p f).ledger = s.ledger := rfl
@[simp] theorem State.modPort_rails (s : State) (i p : Nat) (f : PtpPort → PtpPort) : (s.modPort i p f).rails = s.rails := rfl
@[simp] theorem State.modPort_boot (s : State) (i p : Nat) (f : PtpPort → PtpPort) : (s.modPort i p f).boot = s.boot := rfl
@[simp] theorem State.modPort_brokenPipes (s : State) (i p : Nat) (f : PtpPort → PtpPort) : (s.modPort i p f).brokenPipes = s.brokenPipes := rfl
@[simp] theorem State.modPort_spi (s : State) (i p : Nat) (f : PtpPort → PtpPort) : (s.modPort i p f).spi = s.spi := rfl
@[simp] theorem State.modPort_fuses (s : State) (i p : Nat) (f : PtpPort → PtpPort) : (s.modPort i p f).fuses = s.fuses := rfl
@[simp] theorem State.modPort_fusedSvn (s : State) (i p : Nat) (f : PtpPort → PtpPort) : (s.modPort i p f).fusedSvn = s.fusedSvn := rfl
@[simp] theorem State.modPort_keyHash (s : State) (i p : Nat) (f : PtpPort → PtpPort) : (s.modPort i p f).keyHash = s.keyHash := rfl
@[simp] theorem State.modPort_hashIn (s : State) (i p : Nat) (f : PtpPort → PtpPort) : (s.modPort i p f).hashIn = s.hashIn := rfl

/-! modTrg -/
@[simp] theorem State.modTrg_pending (s : State) (l : Nat) (f : TrgSt → TrgSt) : (s.modTrg l f).pending = s.pending := rfl
@[simp] theorem State.modTrg_part (s : State) (l : Nat) (f : TrgSt → TrgSt) : (s.modTrg l f).part = s.part := rfl
@[simp] theorem State.modTrg_suffixE (s : State) (l : Nat) (f : TrgSt → TrgSt) : (s.modTrg l f).suffixE = s.suffixE := rfl
@[simp] theorem State.modTrg_regs (s : State) (l : Nat) (f : TrgSt → TrgSt) : (s.modTrg l f).regs = s.regs := rfl
@[simp] theorem State.modTrg_live (s : State) (l : Nat) (f : TrgSt → TrgSt) : (s.modTrg l f).live = s.live := rfl
@[simp] theorem State.modTrg_tabS (s : State) (l : Nat) (f : TrgSt → TrgSt) : (s.modTrg l f).tabS = s.tabS := rfl
@[simp] theorem State.modTrg_tabL (s : State) (l : Nat) (f : TrgSt → TrgSt) : (s.modTrg l f).tabL = s.tabL := rfl
@[simp] theorem State.modTrg_force (s : State) (l : Nat) (f : TrgSt → TrgSt) : (s.modTrg l f).force = s.force := rfl
@[simp] theorem State.modTrg_tabF (s : State) (l : Nat) (f : TrgSt → TrgSt) : (s.modTrg l f).tabF = s.tabF := rfl
@[simp] theorem State.modTrg_locked (s : State) (l : Nat) (f : TrgSt → TrgSt) : (s.modTrg l f).locked = s.locked := rfl
@[simp] theorem State.modTrg_cap (s : State) (l : Nat) (f : TrgSt → TrgSt) : (s.modTrg l f).cap = s.cap := rfl
@[simp] theorem State.modTrg_flight (s : State) (l : Nat) (f : TrgSt → TrgSt) : (s.modTrg l f).flight = s.flight := rfl
@[simp] theorem State.modTrg_marks (s : State) (l : Nat) (f : TrgSt → TrgSt) : (s.modTrg l f).marks = s.marks := rfl
@[simp] theorem State.modTrg_drawn (s : State) (l : Nat) (f : TrgSt → TrgSt) : (s.modTrg l f).drawn = s.drawn := rfl
@[simp] theorem State.modTrg_link (s : State) (l : Nat) (f : TrgSt → TrgSt) : (s.modTrg l f).link = s.link := rfl
@[simp] theorem State.modTrg_acq (s : State) (l : Nat) (f : TrgSt → TrgSt) : (s.modTrg l f).acq = s.acq := rfl
@[simp] theorem State.modTrg_jrx (s : State) (l : Nat) (f : TrgSt → TrgSt) : (s.modTrg l f).jrx = s.jrx := rfl
@[simp] theorem State.modTrg_time (s : State) (l : Nat) (f : TrgSt → TrgSt) : (s.modTrg l f).time = s.time := rfl
@[simp] theorem State.modTrg_items (s : State) (l : Nat) (f : TrgSt → TrgSt) : (s.modTrg l f).items = s.items := rfl
@[simp] theorem State.modTrg_traceRing (s : State) (l : Nat) (f : TrgSt → TrgSt) : (s.modTrg l f).traceRing = s.traceRing := rfl
@[simp] theorem State.modTrg_credits (s : State) (l : Nat) (f : TrgSt → TrgSt) : (s.modTrg l f).credits = s.credits := rfl
@[simp] theorem State.modTrg_lineOvf (s : State) (l : Nat) (f : TrgSt → TrgSt) : (s.modTrg l f).lineOvf = s.lineOvf := rfl
@[simp] theorem State.modTrg_codes (s : State) (l : Nat) (f : TrgSt → TrgSt) : (s.modTrg l f).codes = s.codes := rfl
@[simp] theorem State.modTrg_spares (s : State) (l : Nat) (f : TrgSt → TrgSt) : (s.modTrg l f).spares = s.spares := rfl
@[simp] theorem State.modTrg_stream (s : State) (l : Nat) (f : TrgSt → TrgSt) : (s.modTrg l f).stream = s.stream := rfl
@[simp] theorem State.modTrg_readData (s : State) (l : Nat) (f : TrgSt → TrgSt) : (s.modTrg l f).readData = s.readData := rfl
@[simp] theorem State.modTrg_wb (s : State) (l : Nat) (f : TrgSt → TrgSt) : (s.modTrg l f).wb = s.wb := rfl
@[simp] theorem State.modTrg_trgTx (s : State) (l : Nat) (f : TrgSt → TrgSt) : (s.modTrg l f).trgTx = s.trgTx := rfl
@[simp] theorem State.modTrg_recs (s : State) (l : Nat) (f : TrgSt → TrgSt) : (s.modTrg l f).recs = s.recs := rfl
@[simp] theorem State.modTrg_dens (s : State) (l : Nat) (f : TrgSt → TrgSt) : (s.modTrg l f).dens = s.dens := rfl
@[simp] theorem State.modTrg_cores (s : State) (l : Nat) (f : TrgSt → TrgSt) : (s.modTrg l f).cores = s.cores := rfl
@[simp] theorem State.modTrg_zooms (s : State) (l : Nat) (f : TrgSt → TrgSt) : (s.modTrg l f).zooms = s.zooms := rfl
@[simp] theorem State.modTrg_repairs (s : State) (l : Nat) (f : TrgSt → TrgSt) : (s.modTrg l f).repairs = s.repairs := rfl
@[simp] theorem State.modTrg_lead (s : State) (l : Nat) (f : TrgSt → TrgSt) : (s.modTrg l f).lead = s.lead := rfl
@[simp] theorem State.modTrg_tdc (s : State) (l : Nat) (f : TrgSt → TrgSt) : (s.modTrg l f).tdc = s.tdc := rfl
@[simp] theorem State.modTrg_iv (s : State) (l : Nat) (f : TrgSt → TrgSt) : (s.modTrg l f).iv = s.iv := rfl
@[simp] theorem State.modTrg_tdcCheck (s : State) (l : Nat) (f : TrgSt → TrgSt) : (s.modTrg l f).tdcCheck = s.tdcCheck := rfl
@[simp] theorem State.modTrg_ddr (s : State) (l : Nat) (f : TrgSt → TrgSt) : (s.modTrg l f).ddr = s.ddr := rfl
@[simp] theorem State.modTrg_nfs (s : State) (l : Nat) (f : TrgSt → TrgSt) : (s.modTrg l f).nfs = s.nfs := rfl
@[simp] theorem State.modTrg_powerGood (s : State) (l : Nat) (f : TrgSt → TrgSt) : (s.modTrg l f).powerGood = s.powerGood := rfl
@[simp] theorem State.modTrg_resetLow (s : State) (l : Nat) (f : TrgSt → TrgSt) : (s.modTrg l f).resetLow = s.resetLow := rfl
@[simp] theorem State.modTrg_clk (s : State) (l : Nat) (f : TrgSt → TrgSt) : (s.modTrg l f).clk = s.clk := rfl
@[simp] theorem State.modTrg_enabledIn (s : State) (l : Nat) (f : TrgSt → TrgSt) : (s.modTrg l f).enabledIn = s.enabledIn := rfl
@[simp] theorem State.modTrg_enableStep (s : State) (l : Nat) (f : TrgSt → TrgSt) : (s.modTrg l f).enableStep = s.enableStep := rfl
@[simp] theorem State.modTrg_hk (s : State) (l : Nat) (f : TrgSt → TrgSt) : (s.modTrg l f).hk = s.hk := rfl
@[simp] theorem State.modTrg_pairs (s : State) (l : Nat) (f : TrgSt → TrgSt) : (s.modTrg l f).pairs = s.pairs := rfl
@[simp] theorem State.modTrg_pwm (s : State) (l : Nat) (f : TrgSt → TrgSt) : (s.modTrg l f).pwm = s.pwm := rfl
@[simp] theorem State.modTrg_hkAt (s : State) (l : Nat) (f : TrgSt → TrgSt) : (s.modTrg l f).hkAt = s.hkAt := rfl
@[simp] theorem State.modTrg_powered (s : State) (l : Nat) (f : TrgSt → TrgSt) : (s.modTrg l f).powered = s.powered := rfl
@[simp] theorem State.modTrg_hotLost (s : State) (l : Nat) (f : TrgSt → TrgSt) : (s.modTrg l f).hotLost = s.hotLost := rfl
@[simp] theorem State.modTrg_disp (s : State) (l : Nat) (f : TrgSt → TrgSt) : (s.modTrg l f).disp = s.disp := rfl
@[simp] theorem State.modTrg_dma (s : State) (l : Nat) (f : TrgSt → TrgSt) : (s.modTrg l f).dma = s.dma := rfl
@[simp] theorem State.modTrg_dmaMem (s : State) (l : Nat) (f : TrgSt → TrgSt) : (s.modTrg l f).dmaMem = s.dmaMem := rfl
@[simp] theorem State.modTrg_eth (s : State) (l : Nat) (f : TrgSt → TrgSt) : (s.modTrg l f).eth = s.eth := rfl
@[simp] theorem State.modTrg_strs (s : State) (l : Nat) (f : TrgSt → TrgSt) : (s.modTrg l f).strs = s.strs := rfl
@[simp] theorem State.modTrg_access (s : State) (l : Nat) (f : TrgSt → TrgSt) : (s.modTrg l f).access = s.access := rfl
@[simp] theorem State.modTrg_fcol (s : State) (l : Nat) (f : TrgSt → TrgSt) : (s.modTrg l f).fcol = s.fcol := rfl
@[simp] theorem State.modTrg_aliveRuns (s : State) (l : Nat) (f : TrgSt → TrgSt) : (s.modTrg l f).aliveRuns = s.aliveRuns := rfl
@[simp] theorem State.modTrg_alive (s : State) (l : Nat) (f : TrgSt → TrgSt) : (s.modTrg l f).alive = s.alive := rfl
@[simp] theorem State.modTrg_controlLost (s : State) (l : Nat) (f : TrgSt → TrgSt) : (s.modTrg l f).controlLost = s.controlLost := rfl
@[simp] theorem State.modTrg_beatsMissed (s : State) (l : Nat) (f : TrgSt → TrgSt) : (s.modTrg l f).beatsMissed = s.beatsMissed := rfl
@[simp] theorem State.modTrg_mbox (s : State) (l : Nat) (f : TrgSt → TrgSt) : (s.modTrg l f).mbox = s.mbox := rfl
@[simp] theorem State.modTrg_plans (s : State) (l : Nat) (f : TrgSt → TrgSt) : (s.modTrg l f).plans = s.plans := rfl
@[simp] theorem State.modTrg_planCmds (s : State) (l : Nat) (f : TrgSt → TrgSt) : (s.modTrg l f).planCmds = s.planCmds := rfl
@[simp] theorem State.modTrg_admissions (s : State) (l : Nat) (f : TrgSt → TrgSt) : (s.modTrg l f).admissions = s.admissions := rfl
@[simp] theorem State.modTrg_energy (s : State) (l : Nat) (f : TrgSt → TrgSt) : (s.modTrg l f).energy = s.energy := rfl
@[simp] theorem State.modTrg_ledger (s : State) (l : Nat) (f : TrgSt → TrgSt) : (s.modTrg l f).ledger = s.ledger := rfl
@[simp] theorem State.modTrg_rails (s : State) (l : Nat) (f : TrgSt → TrgSt) : (s.modTrg l f).rails = s.rails := rfl
@[simp] theorem State.modTrg_boot (s : State) (l : Nat) (f : TrgSt → TrgSt) : (s.modTrg l f).boot = s.boot := rfl
@[simp] theorem State.modTrg_brokenPipes (s : State) (l : Nat) (f : TrgSt → TrgSt) : (s.modTrg l f).brokenPipes = s.brokenPipes := rfl
@[simp] theorem State.modTrg_spi (s : State) (l : Nat) (f : TrgSt → TrgSt) : (s.modTrg l f).spi = s.spi := rfl
@[simp] theorem State.modTrg_fuses (s : State) (l : Nat) (f : TrgSt → TrgSt) : (s.modTrg l f).fuses = s.fuses := rfl
@[simp] theorem State.modTrg_fusedSvn (s : State) (l : Nat) (f : TrgSt → TrgSt) : (s.modTrg l f).fusedSvn = s.fusedSvn := rfl
@[simp] theorem State.modTrg_keyHash (s : State) (l : Nat) (f : TrgSt → TrgSt) : (s.modTrg l f).keyHash = s.keyHash := rfl
@[simp] theorem State.modTrg_hashIn (s : State) (l : Nat) (f : TrgSt → TrgSt) : (s.modTrg l f).hashIn = s.hashIn := rfl

/-! modUnit -/
@[simp] theorem State.modUnit_pending (s : State) (l u : Nat) (f : TrgUnit → TrgUnit) : (s.modUnit l u f).pending = s.pending := rfl
@[simp] theorem State.modUnit_part (s : State) (l u : Nat) (f : TrgUnit → TrgUnit) : (s.modUnit l u f).part = s.part := rfl
@[simp] theorem State.modUnit_suffixE (s : State) (l u : Nat) (f : TrgUnit → TrgUnit) : (s.modUnit l u f).suffixE = s.suffixE := rfl
@[simp] theorem State.modUnit_regs (s : State) (l u : Nat) (f : TrgUnit → TrgUnit) : (s.modUnit l u f).regs = s.regs := rfl
@[simp] theorem State.modUnit_live (s : State) (l u : Nat) (f : TrgUnit → TrgUnit) : (s.modUnit l u f).live = s.live := rfl
@[simp] theorem State.modUnit_tabS (s : State) (l u : Nat) (f : TrgUnit → TrgUnit) : (s.modUnit l u f).tabS = s.tabS := rfl
@[simp] theorem State.modUnit_tabL (s : State) (l u : Nat) (f : TrgUnit → TrgUnit) : (s.modUnit l u f).tabL = s.tabL := rfl
@[simp] theorem State.modUnit_force (s : State) (l u : Nat) (f : TrgUnit → TrgUnit) : (s.modUnit l u f).force = s.force := rfl
@[simp] theorem State.modUnit_tabF (s : State) (l u : Nat) (f : TrgUnit → TrgUnit) : (s.modUnit l u f).tabF = s.tabF := rfl
@[simp] theorem State.modUnit_locked (s : State) (l u : Nat) (f : TrgUnit → TrgUnit) : (s.modUnit l u f).locked = s.locked := rfl
@[simp] theorem State.modUnit_cap (s : State) (l u : Nat) (f : TrgUnit → TrgUnit) : (s.modUnit l u f).cap = s.cap := rfl
@[simp] theorem State.modUnit_flight (s : State) (l u : Nat) (f : TrgUnit → TrgUnit) : (s.modUnit l u f).flight = s.flight := rfl
@[simp] theorem State.modUnit_marks (s : State) (l u : Nat) (f : TrgUnit → TrgUnit) : (s.modUnit l u f).marks = s.marks := rfl
@[simp] theorem State.modUnit_drawn (s : State) (l u : Nat) (f : TrgUnit → TrgUnit) : (s.modUnit l u f).drawn = s.drawn := rfl
@[simp] theorem State.modUnit_link (s : State) (l u : Nat) (f : TrgUnit → TrgUnit) : (s.modUnit l u f).link = s.link := rfl
@[simp] theorem State.modUnit_acq (s : State) (l u : Nat) (f : TrgUnit → TrgUnit) : (s.modUnit l u f).acq = s.acq := rfl
@[simp] theorem State.modUnit_jrx (s : State) (l u : Nat) (f : TrgUnit → TrgUnit) : (s.modUnit l u f).jrx = s.jrx := rfl
@[simp] theorem State.modUnit_time (s : State) (l u : Nat) (f : TrgUnit → TrgUnit) : (s.modUnit l u f).time = s.time := rfl
@[simp] theorem State.modUnit_items (s : State) (l u : Nat) (f : TrgUnit → TrgUnit) : (s.modUnit l u f).items = s.items := rfl
@[simp] theorem State.modUnit_traceRing (s : State) (l u : Nat) (f : TrgUnit → TrgUnit) : (s.modUnit l u f).traceRing = s.traceRing := rfl
@[simp] theorem State.modUnit_credits (s : State) (l u : Nat) (f : TrgUnit → TrgUnit) : (s.modUnit l u f).credits = s.credits := rfl
@[simp] theorem State.modUnit_lineOvf (s : State) (l u : Nat) (f : TrgUnit → TrgUnit) : (s.modUnit l u f).lineOvf = s.lineOvf := rfl
@[simp] theorem State.modUnit_codes (s : State) (l u : Nat) (f : TrgUnit → TrgUnit) : (s.modUnit l u f).codes = s.codes := rfl
@[simp] theorem State.modUnit_spares (s : State) (l u : Nat) (f : TrgUnit → TrgUnit) : (s.modUnit l u f).spares = s.spares := rfl
@[simp] theorem State.modUnit_stream (s : State) (l u : Nat) (f : TrgUnit → TrgUnit) : (s.modUnit l u f).stream = s.stream := rfl
@[simp] theorem State.modUnit_readData (s : State) (l u : Nat) (f : TrgUnit → TrgUnit) : (s.modUnit l u f).readData = s.readData := rfl
@[simp] theorem State.modUnit_wb (s : State) (l u : Nat) (f : TrgUnit → TrgUnit) : (s.modUnit l u f).wb = s.wb := rfl
@[simp] theorem State.modUnit_trgTx (s : State) (l u : Nat) (f : TrgUnit → TrgUnit) : (s.modUnit l u f).trgTx = s.trgTx := rfl
@[simp] theorem State.modUnit_recs (s : State) (l u : Nat) (f : TrgUnit → TrgUnit) : (s.modUnit l u f).recs = s.recs := rfl
@[simp] theorem State.modUnit_dens (s : State) (l u : Nat) (f : TrgUnit → TrgUnit) : (s.modUnit l u f).dens = s.dens := rfl
@[simp] theorem State.modUnit_cores (s : State) (l u : Nat) (f : TrgUnit → TrgUnit) : (s.modUnit l u f).cores = s.cores := rfl
@[simp] theorem State.modUnit_zooms (s : State) (l u : Nat) (f : TrgUnit → TrgUnit) : (s.modUnit l u f).zooms = s.zooms := rfl
@[simp] theorem State.modUnit_repairs (s : State) (l u : Nat) (f : TrgUnit → TrgUnit) : (s.modUnit l u f).repairs = s.repairs := rfl
@[simp] theorem State.modUnit_lead (s : State) (l u : Nat) (f : TrgUnit → TrgUnit) : (s.modUnit l u f).lead = s.lead := rfl
@[simp] theorem State.modUnit_tdc (s : State) (l u : Nat) (f : TrgUnit → TrgUnit) : (s.modUnit l u f).tdc = s.tdc := rfl
@[simp] theorem State.modUnit_iv (s : State) (l u : Nat) (f : TrgUnit → TrgUnit) : (s.modUnit l u f).iv = s.iv := rfl
@[simp] theorem State.modUnit_tdcCheck (s : State) (l u : Nat) (f : TrgUnit → TrgUnit) : (s.modUnit l u f).tdcCheck = s.tdcCheck := rfl
@[simp] theorem State.modUnit_ddr (s : State) (l u : Nat) (f : TrgUnit → TrgUnit) : (s.modUnit l u f).ddr = s.ddr := rfl
@[simp] theorem State.modUnit_nfs (s : State) (l u : Nat) (f : TrgUnit → TrgUnit) : (s.modUnit l u f).nfs = s.nfs := rfl
@[simp] theorem State.modUnit_powerGood (s : State) (l u : Nat) (f : TrgUnit → TrgUnit) : (s.modUnit l u f).powerGood = s.powerGood := rfl
@[simp] theorem State.modUnit_resetLow (s : State) (l u : Nat) (f : TrgUnit → TrgUnit) : (s.modUnit l u f).resetLow = s.resetLow := rfl
@[simp] theorem State.modUnit_clk (s : State) (l u : Nat) (f : TrgUnit → TrgUnit) : (s.modUnit l u f).clk = s.clk := rfl
@[simp] theorem State.modUnit_enabledIn (s : State) (l u : Nat) (f : TrgUnit → TrgUnit) : (s.modUnit l u f).enabledIn = s.enabledIn := rfl
@[simp] theorem State.modUnit_enableStep (s : State) (l u : Nat) (f : TrgUnit → TrgUnit) : (s.modUnit l u f).enableStep = s.enableStep := rfl
@[simp] theorem State.modUnit_hk (s : State) (l u : Nat) (f : TrgUnit → TrgUnit) : (s.modUnit l u f).hk = s.hk := rfl
@[simp] theorem State.modUnit_pairs (s : State) (l u : Nat) (f : TrgUnit → TrgUnit) : (s.modUnit l u f).pairs = s.pairs := rfl
@[simp] theorem State.modUnit_pwm (s : State) (l u : Nat) (f : TrgUnit → TrgUnit) : (s.modUnit l u f).pwm = s.pwm := rfl
@[simp] theorem State.modUnit_hkAt (s : State) (l u : Nat) (f : TrgUnit → TrgUnit) : (s.modUnit l u f).hkAt = s.hkAt := rfl
@[simp] theorem State.modUnit_powered (s : State) (l u : Nat) (f : TrgUnit → TrgUnit) : (s.modUnit l u f).powered = s.powered := rfl
@[simp] theorem State.modUnit_hotLost (s : State) (l u : Nat) (f : TrgUnit → TrgUnit) : (s.modUnit l u f).hotLost = s.hotLost := rfl
@[simp] theorem State.modUnit_disp (s : State) (l u : Nat) (f : TrgUnit → TrgUnit) : (s.modUnit l u f).disp = s.disp := rfl
@[simp] theorem State.modUnit_dma (s : State) (l u : Nat) (f : TrgUnit → TrgUnit) : (s.modUnit l u f).dma = s.dma := rfl
@[simp] theorem State.modUnit_dmaMem (s : State) (l u : Nat) (f : TrgUnit → TrgUnit) : (s.modUnit l u f).dmaMem = s.dmaMem := rfl
@[simp] theorem State.modUnit_eth (s : State) (l u : Nat) (f : TrgUnit → TrgUnit) : (s.modUnit l u f).eth = s.eth := rfl
@[simp] theorem State.modUnit_strs (s : State) (l u : Nat) (f : TrgUnit → TrgUnit) : (s.modUnit l u f).strs = s.strs := rfl
@[simp] theorem State.modUnit_access (s : State) (l u : Nat) (f : TrgUnit → TrgUnit) : (s.modUnit l u f).access = s.access := rfl
@[simp] theorem State.modUnit_fcol (s : State) (l u : Nat) (f : TrgUnit → TrgUnit) : (s.modUnit l u f).fcol = s.fcol := rfl
@[simp] theorem State.modUnit_aliveRuns (s : State) (l u : Nat) (f : TrgUnit → TrgUnit) : (s.modUnit l u f).aliveRuns = s.aliveRuns := rfl
@[simp] theorem State.modUnit_alive (s : State) (l u : Nat) (f : TrgUnit → TrgUnit) : (s.modUnit l u f).alive = s.alive := rfl
@[simp] theorem State.modUnit_controlLost (s : State) (l u : Nat) (f : TrgUnit → TrgUnit) : (s.modUnit l u f).controlLost = s.controlLost := rfl
@[simp] theorem State.modUnit_beatsMissed (s : State) (l u : Nat) (f : TrgUnit → TrgUnit) : (s.modUnit l u f).beatsMissed = s.beatsMissed := rfl
@[simp] theorem State.modUnit_mbox (s : State) (l u : Nat) (f : TrgUnit → TrgUnit) : (s.modUnit l u f).mbox = s.mbox := rfl
@[simp] theorem State.modUnit_plans (s : State) (l u : Nat) (f : TrgUnit → TrgUnit) : (s.modUnit l u f).plans = s.plans := rfl
@[simp] theorem State.modUnit_planCmds (s : State) (l u : Nat) (f : TrgUnit → TrgUnit) : (s.modUnit l u f).planCmds = s.planCmds := rfl
@[simp] theorem State.modUnit_admissions (s : State) (l u : Nat) (f : TrgUnit → TrgUnit) : (s.modUnit l u f).admissions = s.admissions := rfl
@[simp] theorem State.modUnit_energy (s : State) (l u : Nat) (f : TrgUnit → TrgUnit) : (s.modUnit l u f).energy = s.energy := rfl
@[simp] theorem State.modUnit_ledger (s : State) (l u : Nat) (f : TrgUnit → TrgUnit) : (s.modUnit l u f).ledger = s.ledger := rfl
@[simp] theorem State.modUnit_rails (s : State) (l u : Nat) (f : TrgUnit → TrgUnit) : (s.modUnit l u f).rails = s.rails := rfl
@[simp] theorem State.modUnit_boot (s : State) (l u : Nat) (f : TrgUnit → TrgUnit) : (s.modUnit l u f).boot = s.boot := rfl
@[simp] theorem State.modUnit_brokenPipes (s : State) (l u : Nat) (f : TrgUnit → TrgUnit) : (s.modUnit l u f).brokenPipes = s.brokenPipes := rfl
@[simp] theorem State.modUnit_spi (s : State) (l u : Nat) (f : TrgUnit → TrgUnit) : (s.modUnit l u f).spi = s.spi := rfl
@[simp] theorem State.modUnit_fuses (s : State) (l u : Nat) (f : TrgUnit → TrgUnit) : (s.modUnit l u f).fuses = s.fuses := rfl
@[simp] theorem State.modUnit_fusedSvn (s : State) (l u : Nat) (f : TrgUnit → TrgUnit) : (s.modUnit l u f).fusedSvn = s.fusedSvn := rfl
@[simp] theorem State.modUnit_keyHash (s : State) (l u : Nat) (f : TrgUnit → TrgUnit) : (s.modUnit l u f).keyHash = s.keyHash := rfl
@[simp] theorem State.modUnit_hashIn (s : State) (l u : Nat) (f : TrgUnit → TrgUnit) : (s.modUnit l u f).hashIn = s.hashIn := rfl

/-! wrBit -/
@[simp] theorem State.wrBit_pending (s : State) (b : Nat) (f : Fld) (k : Nat) (v : Bool) : (s.wrBit b f k v).pending = s.pending := rfl
@[simp] theorem State.wrBit_part (s : State) (b : Nat) (f : Fld) (k : Nat) (v : Bool) : (s.wrBit b f k v).part = s.part := rfl
@[simp] theorem State.wrBit_suffixE (s : State) (b : Nat) (f : Fld) (k : Nat) (v : Bool) : (s.wrBit b f k v).suffixE = s.suffixE := rfl
@[simp] theorem State.wrBit_live (s : State) (b : Nat) (f : Fld) (k : Nat) (v : Bool) : (s.wrBit b f k v).live = s.live := rfl
@[simp] theorem State.wrBit_tabS (s : State) (b : Nat) (f : Fld) (k : Nat) (v : Bool) : (s.wrBit b f k v).tabS = s.tabS := rfl
@[simp] theorem State.wrBit_tabL (s : State) (b : Nat) (f : Fld) (k : Nat) (v : Bool) : (s.wrBit b f k v).tabL = s.tabL := rfl
@[simp] theorem State.wrBit_force (s : State) (b : Nat) (f : Fld) (k : Nat) (v : Bool) : (s.wrBit b f k v).force = s.force := rfl
@[simp] theorem State.wrBit_tabF (s : State) (b : Nat) (f : Fld) (k : Nat) (v : Bool) : (s.wrBit b f k v).tabF = s.tabF := rfl
@[simp] theorem State.wrBit_locked (s : State) (b : Nat) (f : Fld) (k : Nat) (v : Bool) : (s.wrBit b f k v).locked = s.locked := rfl
@[simp] theorem State.wrBit_cap (s : State) (b : Nat) (f : Fld) (k : Nat) (v : Bool) : (s.wrBit b f k v).cap = s.cap := rfl
@[simp] theorem State.wrBit_flight (s : State) (b : Nat) (f : Fld) (k : Nat) (v : Bool) : (s.wrBit b f k v).flight = s.flight := rfl
@[simp] theorem State.wrBit_marks (s : State) (b : Nat) (f : Fld) (k : Nat) (v : Bool) : (s.wrBit b f k v).marks = s.marks := rfl
@[simp] theorem State.wrBit_drawn (s : State) (b : Nat) (f : Fld) (k : Nat) (v : Bool) : (s.wrBit b f k v).drawn = s.drawn := rfl
@[simp] theorem State.wrBit_link (s : State) (b : Nat) (f : Fld) (k : Nat) (v : Bool) : (s.wrBit b f k v).link = s.link := rfl
@[simp] theorem State.wrBit_acq (s : State) (b : Nat) (f : Fld) (k : Nat) (v : Bool) : (s.wrBit b f k v).acq = s.acq := rfl
@[simp] theorem State.wrBit_jrx (s : State) (b : Nat) (f : Fld) (k : Nat) (v : Bool) : (s.wrBit b f k v).jrx = s.jrx := rfl
@[simp] theorem State.wrBit_time (s : State) (b : Nat) (f : Fld) (k : Nat) (v : Bool) : (s.wrBit b f k v).time = s.time := rfl
@[simp] theorem State.wrBit_items (s : State) (b : Nat) (f : Fld) (k : Nat) (v : Bool) : (s.wrBit b f k v).items = s.items := rfl
@[simp] theorem State.wrBit_traceRing (s : State) (b : Nat) (f : Fld) (k : Nat) (v : Bool) : (s.wrBit b f k v).traceRing = s.traceRing := rfl
@[simp] theorem State.wrBit_credits (s : State) (b : Nat) (f : Fld) (k : Nat) (v : Bool) : (s.wrBit b f k v).credits = s.credits := rfl
@[simp] theorem State.wrBit_lineOvf (s : State) (b : Nat) (f : Fld) (k : Nat) (v : Bool) : (s.wrBit b f k v).lineOvf = s.lineOvf := rfl
@[simp] theorem State.wrBit_codes (s : State) (b : Nat) (f : Fld) (k : Nat) (v : Bool) : (s.wrBit b f k v).codes = s.codes := rfl
@[simp] theorem State.wrBit_spares (s : State) (b : Nat) (f : Fld) (k : Nat) (v : Bool) : (s.wrBit b f k v).spares = s.spares := rfl
@[simp] theorem State.wrBit_stream (s : State) (b : Nat) (f : Fld) (k : Nat) (v : Bool) : (s.wrBit b f k v).stream = s.stream := rfl
@[simp] theorem State.wrBit_readData (s : State) (b : Nat) (f : Fld) (k : Nat) (v : Bool) : (s.wrBit b f k v).readData = s.readData := rfl
@[simp] theorem State.wrBit_wb (s : State) (b : Nat) (f : Fld) (k : Nat) (v : Bool) : (s.wrBit b f k v).wb = s.wb := rfl
@[simp] theorem State.wrBit_trg (s : State) (b : Nat) (f : Fld) (k : Nat) (v : Bool) : (s.wrBit b f k v).trg = s.trg := rfl
@[simp] theorem State.wrBit_trgTx (s : State) (b : Nat) (f : Fld) (k : Nat) (v : Bool) : (s.wrBit b f k v).trgTx = s.trgTx := rfl
@[simp] theorem State.wrBit_recs (s : State) (b : Nat) (f : Fld) (k : Nat) (v : Bool) : (s.wrBit b f k v).recs = s.recs := rfl
@[simp] theorem State.wrBit_dens (s : State) (b : Nat) (f : Fld) (k : Nat) (v : Bool) : (s.wrBit b f k v).dens = s.dens := rfl
@[simp] theorem State.wrBit_cores (s : State) (b : Nat) (f : Fld) (k : Nat) (v : Bool) : (s.wrBit b f k v).cores = s.cores := rfl
@[simp] theorem State.wrBit_zooms (s : State) (b : Nat) (f : Fld) (k : Nat) (v : Bool) : (s.wrBit b f k v).zooms = s.zooms := rfl
@[simp] theorem State.wrBit_repairs (s : State) (b : Nat) (f : Fld) (k : Nat) (v : Bool) : (s.wrBit b f k v).repairs = s.repairs := rfl
@[simp] theorem State.wrBit_lead (s : State) (b : Nat) (f : Fld) (k : Nat) (v : Bool) : (s.wrBit b f k v).lead = s.lead := rfl
@[simp] theorem State.wrBit_tdc (s : State) (b : Nat) (f : Fld) (k : Nat) (v : Bool) : (s.wrBit b f k v).tdc = s.tdc := rfl
@[simp] theorem State.wrBit_iv (s : State) (b : Nat) (f : Fld) (k : Nat) (v : Bool) : (s.wrBit b f k v).iv = s.iv := rfl
@[simp] theorem State.wrBit_tdcCheck (s : State) (b : Nat) (f : Fld) (k : Nat) (v : Bool) : (s.wrBit b f k v).tdcCheck = s.tdcCheck := rfl
@[simp] theorem State.wrBit_ddr (s : State) (b : Nat) (f : Fld) (k : Nat) (v : Bool) : (s.wrBit b f k v).ddr = s.ddr := rfl
@[simp] theorem State.wrBit_nfs (s : State) (b : Nat) (f : Fld) (k : Nat) (v : Bool) : (s.wrBit b f k v).nfs = s.nfs := rfl
@[simp] theorem State.wrBit_powerGood (s : State) (b : Nat) (f : Fld) (k : Nat) (v : Bool) : (s.wrBit b f k v).powerGood = s.powerGood := rfl
@[simp] theorem State.wrBit_resetLow (s : State) (b : Nat) (f : Fld) (k : Nat) (v : Bool) : (s.wrBit b f k v).resetLow = s.resetLow := rfl
@[simp] theorem State.wrBit_clk (s : State) (b : Nat) (f : Fld) (k : Nat) (v : Bool) : (s.wrBit b f k v).clk = s.clk := rfl
@[simp] theorem State.wrBit_enabledIn (s : State) (b : Nat) (f : Fld) (k : Nat) (v : Bool) : (s.wrBit b f k v).enabledIn = s.enabledIn := rfl
@[simp] theorem State.wrBit_enableStep (s : State) (b : Nat) (f : Fld) (k : Nat) (v : Bool) : (s.wrBit b f k v).enableStep = s.enableStep := rfl
@[simp] theorem State.wrBit_hk (s : State) (b : Nat) (f : Fld) (k : Nat) (v : Bool) : (s.wrBit b f k v).hk = s.hk := rfl
@[simp] theorem State.wrBit_pairs (s : State) (b : Nat) (f : Fld) (k : Nat) (v : Bool) : (s.wrBit b f k v).pairs = s.pairs := rfl
@[simp] theorem State.wrBit_pwm (s : State) (b : Nat) (f : Fld) (k : Nat) (v : Bool) : (s.wrBit b f k v).pwm = s.pwm := rfl
@[simp] theorem State.wrBit_hkAt (s : State) (b : Nat) (f : Fld) (k : Nat) (v : Bool) : (s.wrBit b f k v).hkAt = s.hkAt := rfl
@[simp] theorem State.wrBit_powered (s : State) (b : Nat) (f : Fld) (k : Nat) (v : Bool) : (s.wrBit b f k v).powered = s.powered := rfl
@[simp] theorem State.wrBit_hotLost (s : State) (b : Nat) (f : Fld) (k : Nat) (v : Bool) : (s.wrBit b f k v).hotLost = s.hotLost := rfl
@[simp] theorem State.wrBit_disp (s : State) (b : Nat) (f : Fld) (k : Nat) (v : Bool) : (s.wrBit b f k v).disp = s.disp := rfl
@[simp] theorem State.wrBit_dma (s : State) (b : Nat) (f : Fld) (k : Nat) (v : Bool) : (s.wrBit b f k v).dma = s.dma := rfl
@[simp] theorem State.wrBit_dmaMem (s : State) (b : Nat) (f : Fld) (k : Nat) (v : Bool) : (s.wrBit b f k v).dmaMem = s.dmaMem := rfl
@[simp] theorem State.wrBit_eth (s : State) (b : Nat) (f : Fld) (k : Nat) (v : Bool) : (s.wrBit b f k v).eth = s.eth := rfl
@[simp] theorem State.wrBit_strs (s : State) (b : Nat) (f : Fld) (k : Nat) (v : Bool) : (s.wrBit b f k v).strs = s.strs := rfl
@[simp] theorem State.wrBit_access (s : State) (b : Nat) (f : Fld) (k : Nat) (v : Bool) : (s.wrBit b f k v).access = s.access := rfl
@[simp] theorem State.wrBit_fcol (s : State) (b : Nat) (f : Fld) (k : Nat) (v : Bool) : (s.wrBit b f k v).fcol = s.fcol := rfl
@[simp] theorem State.wrBit_aliveRuns (s : State) (b : Nat) (f : Fld) (k : Nat) (v : Bool) : (s.wrBit b f k v).aliveRuns = s.aliveRuns := rfl
@[simp] theorem State.wrBit_alive (s : State) (b : Nat) (f : Fld) (k : Nat) (v : Bool) : (s.wrBit b f k v).alive = s.alive := rfl
@[simp] theorem State.wrBit_controlLost (s : State) (b : Nat) (f : Fld) (k : Nat) (v : Bool) : (s.wrBit b f k v).controlLost = s.controlLost := rfl
@[simp] theorem State.wrBit_beatsMissed (s : State) (b : Nat) (f : Fld) (k : Nat) (v : Bool) : (s.wrBit b f k v).beatsMissed = s.beatsMissed := rfl
@[simp] theorem State.wrBit_mbox (s : State) (b : Nat) (f : Fld) (k : Nat) (v : Bool) : (s.wrBit b f k v).mbox = s.mbox := rfl
@[simp] theorem State.wrBit_plans (s : State) (b : Nat) (f : Fld) (k : Nat) (v : Bool) : (s.wrBit b f k v).plans = s.plans := rfl
@[simp] theorem State.wrBit_planCmds (s : State) (b : Nat) (f : Fld) (k : Nat) (v : Bool) : (s.wrBit b f k v).planCmds = s.planCmds := rfl
@[simp] theorem State.wrBit_admissions (s : State) (b : Nat) (f : Fld) (k : Nat) (v : Bool) : (s.wrBit b f k v).admissions = s.admissions := rfl
@[simp] theorem State.wrBit_energy (s : State) (b : Nat) (f : Fld) (k : Nat) (v : Bool) : (s.wrBit b f k v).energy = s.energy := rfl
@[simp] theorem State.wrBit_ledger (s : State) (b : Nat) (f : Fld) (k : Nat) (v : Bool) : (s.wrBit b f k v).ledger = s.ledger := rfl
@[simp] theorem State.wrBit_rails (s : State) (b : Nat) (f : Fld) (k : Nat) (v : Bool) : (s.wrBit b f k v).rails = s.rails := rfl
@[simp] theorem State.wrBit_boot (s : State) (b : Nat) (f : Fld) (k : Nat) (v : Bool) : (s.wrBit b f k v).boot = s.boot := rfl
@[simp] theorem State.wrBit_brokenPipes (s : State) (b : Nat) (f : Fld) (k : Nat) (v : Bool) : (s.wrBit b f k v).brokenPipes = s.brokenPipes := rfl
@[simp] theorem State.wrBit_spi (s : State) (b : Nat) (f : Fld) (k : Nat) (v : Bool) : (s.wrBit b f k v).spi = s.spi := rfl
@[simp] theorem State.wrBit_fuses (s : State) (b : Nat) (f : Fld) (k : Nat) (v : Bool) : (s.wrBit b f k v).fuses = s.fuses := rfl
@[simp] theorem State.wrBit_fusedSvn (s : State) (b : Nat) (f : Fld) (k : Nat) (v : Bool) : (s.wrBit b f k v).fusedSvn = s.fusedSvn := rfl
@[simp] theorem State.wrBit_keyHash (s : State) (b : Nat) (f : Fld) (k : Nat) (v : Bool) : (s.wrBit b f k v).keyHash = s.keyHash := rfl
@[simp] theorem State.wrBit_hashIn (s : State) (b : Nat) (f : Fld) (k : Nat) (v : Bool) : (s.wrBit b f k v).hashIn = s.hashIn := rfl

end Sys2Proof.Machine
end

