-- ==== Sys2Proof/Laws/Table.lean ====
section
/-! SUPPORT. What the operations of a table do: a read after a write, and that the canonical form is kept. -/

namespace Sys2Proof.Machine

theorem tget_nil {α : Type} (d : Nat → α) (k : Nat) : tget d [] k = d k := rfl

theorem tget_append_left {α : Type} (d : Nat → α) (l m : Tbl α) (k : Nat) (h : ∀ e ∈ l, e.1 ≠ k) :
    tget d (l ++ m) k = tget d m k := by
  induction l with
  | nil => rfl
  | cons e l ih =>
    have he : e.1 ≠ k := h e (by simp)
    rw [List.cons_append, tget, if_neg he]
    exact ih fun x hx => h x (by simp [hx])

theorem tget_append_right {α : Type} (d : Nat → α) (l m : Tbl α) (k : Nat) (h : ∀ e ∈ m, e.1 ≠ k) :
    tget d (l ++ m) k = tget d l k := by
  induction l with
  | nil =>
    have := tget_append_left d m [] k h
    rwa [List.append_nil] at this
  | cons e l ih =>
    rw [List.cons_append, tget, tget, ih]

theorem tget_filter {α : Type} (d : Nat → α) (p : Nat → Bool) (m : Tbl α) (k : Nat) (h : p k = true) :
    tget d (m.filter fun e => p e.1) k = tget d m k := by
  induction m with
  | nil => rfl
  | cons e m ih =>
    rw [List.filter_cons]
    by_cases he : e.1 = k
    · rw [if_pos (he ▸ h), tget, tget, if_pos he, if_pos he]
    · rw [tget, if_neg he]
      split
      · rw [tget, if_neg he, ih]
      · exact ih

theorem tget_none {α : Type} (d : Nat → α) (m : Tbl α) (k : Nat) (h : ∀ e ∈ m, e.1 ≠ k) : tget d m k = d k := by
  have := tget_append_left d m [] k h
  rwa [List.append_nil] at this

/-- A read of the place written. -/
@[simp] theorem tget_tset_same {α : Type} [DecidableEq α] (d : Nat → α) (m : Tbl α) (k : Nat) (v : α) :
    tget d (tset d m k v) k = v := by
  unfold tset
  rw [tget_append_left _ _ _ _ (by intro e he; simp at he; omega)]
  split
  · rename_i hv
    rw [List.nil_append, tget_none _ _ _ (by intro e he; simp at he; omega), hv]
  · simp [tget]

/-- A read of any other place. -/
theorem tget_tset_other {α : Type} [DecidableEq α] (d : Nat → α) (m : Tbl α) (k j : Nat) (v : α) (h : j ≠ k) :
    tget d (tset d m k v) j = tget d m j := by
  unfold tset
  rcases Nat.lt_or_gt_of_ne h with hl | hg
  · rw [tget_append_right _ _ _ _ (by
      intro e he
      rcases List.mem_append.mp he with h1 | h1
      · split at h1
        · cases h1
        · simp at h1; rw [h1]; intro h2; exact h h2.symm
      · simp at h1; omega)]
    exact tget_filter d (fun x => decide (x < k)) m j (by simpa using hl)
  · rw [tget_append_left _ _ _ _ (by intro e he; simp at he; omega)]
    rw [tget_append_left _ _ _ _ (by
      intro e he
      split at he
      · cases he
      · simp at he; rw [he]; intro h2; exact h h2.symm)]
    exact tget_filter d (fun x => decide (k < x)) m j (by simpa using hg)

/-- A read outside the range that is dropped. -/
theorem tget_tclear_outside {α : Type} (d : Nat → α) (m : Tbl α) (lo hi j : Nat) (h : j < lo ∨ hi ≤ j) :
    tget d (tclear m lo hi) j = tget d m j :=
  tget_filter d (fun x => decide (x < lo) || decide (hi ≤ x)) m j (by simpa using h)

/-- A read inside it. -/
theorem tget_tclear_inside {α : Type} (d : Nat → α) (m : Tbl α) (lo hi j : Nat) (h1 : lo ≤ j) (h2 : j < hi) :
    tget d (tclear m lo hi) j = d j :=
  tget_none d _ _ (by
    intro e he
    simp only [tclear, List.mem_filter, Bool.or_eq_true, decide_eq_true_eq] at he
    omega)

/-- A read outside the range that is copied. -/
theorem tget_tcopy_outside {α : Type} (d : Nat → α) (src dst : Tbl α) (lo hi j : Nat) (hh : lo ≤ hi) (h : j < lo ∨ hi ≤ j) :
    tget d (tcopy src dst lo hi) j = tget d dst j := by
  unfold tcopy
  rcases h with h | h
  · rw [tget_append_right _ _ _ _ (by
      intro e he
      simp only [List.mem_append, List.mem_filter, Bool.and_eq_true, decide_eq_true_eq] at he
      omega)]
    exact tget_filter d (fun x => decide (x < lo)) dst j (by simpa using h)
  · rw [tget_append_left _ _ _ _ (by intro e he; simp at he; omega),
      tget_append_left _ _ _ _ (by
        intro e he
        simp only [List.mem_filter, Bool.and_eq_true, decide_eq_true_eq] at he
        omega)]
    exact tget_filter d (fun x => decide (lo ≤ x) && decide (hi ≤ x)) dst j (by simp; omega)

/-- A read inside it: what the source holds. -/
theorem tget_tcopy_inside {α : Type} (d : Nat → α) (src dst : Tbl α) (lo hi j : Nat) (h1 : lo ≤ j) (h2 : j < hi) :
    tget d (tcopy src dst lo hi) j = tget d src j := by
  unfold tcopy
  rw [tget_append_left _ _ _ _ (by intro e he; simp at he; omega),
    tget_append_right _ _ _ _ (by
      intro e he
      simp only [List.mem_filter, Bool.and_eq_true, decide_eq_true_eq] at he
      omega)]
  exact tget_filter d (fun x => decide (lo ≤ x) && decide (x < hi)) src j (by simp; omega)

/-! The canonical form. -/

theorem twf_nil {α : Type} [DecidableEq α] (d : Nat → α) : twf d [] := by simp [twf]

/-- Dropping entries keeps the form. -/
theorem twf_filter {α : Type} [DecidableEq α] {d : Nat → α} {m : Tbl α} (p : Nat × α → Bool) (h : twf d m) :
    twf d (m.filter p) :=
  ⟨h.1.filter _, fun e he => h.2 e (List.mem_filter.mp he).1⟩

theorem twf_tclear {α : Type} [DecidableEq α] {d : Nat → α} {m : Tbl α} (lo hi : Nat) (h : twf d m) :
    twf d (tclear m lo hi) := twf_filter _ h

/-- A write keeps the form. -/
theorem twf_tset {α : Type} [DecidableEq α] {d : Nat → α} {m : Tbl α} (k : Nat) (v : α) (h : twf d m) :
    twf d (tset d m k v) := by
  refine ⟨?_, ?_⟩
  · unfold tset
    rw [List.pairwise_append]
    refine ⟨h.1.filter _, ?_, ?_⟩
    · split
      · exact h.1.filter _
      · rw [List.pairwise_append]
        refine ⟨by simp, h.1.filter _, ?_⟩
        intro a ha b hb
        simp at ha hb
        rw [ha]
        exact hb.2
    · intro a ha b hb
      have ha' : a.1 < k := by simpa using (List.mem_filter.mp ha).2
      rcases List.mem_append.mp hb with hb | hb
      · split at hb
        · cases hb
        · simp at hb; rw [hb]; exact ha'
      · have : k < b.1 := by simpa using (List.mem_filter.mp hb).2
        omega
  · intro e he
    unfold tset at he
    rcases List.mem_append.mp he with he | he
    · exact h.2 e (List.mem_filter.mp he).1
    · rcases List.mem_append.mp he with he | he
      · split at he
        · cases he
        · rename_i hv
          simp at he
          rw [he]
          exact hv
      · exact h.2 e (List.mem_filter.mp he).1

/-- A copy keeps the form. -/
theorem twf_tcopy {α : Type} [DecidableEq α] {d : Nat → α} {src dst : Tbl α} (lo hi : Nat)
    (hs : twf d src) (hd : twf d dst) : twf d (tcopy src dst lo hi) := by
  refine ⟨?_, ?_⟩
  · unfold tcopy
    rw [List.pairwise_append, List.pairwise_append]
    refine ⟨hd.1.filter _, ⟨hs.1.filter _, hd.1.filter _, ?_⟩, ?_⟩
    · intro a ha b hb
      have h1 := (List.mem_filter.mp ha).2
      have h2 := (List.mem_filter.mp hb).2
      simp at h1 h2
      omega
    · intro a ha b hb
      have h1 : a.1 < lo := by simpa using (List.mem_filter.mp ha).2
      rcases List.mem_append.mp hb with hb | hb <;>
        (have h2 := (List.mem_filter.mp hb).2; simp at h2; omega)
  · intro e he
    unfold tcopy at he
    rcases List.mem_append.mp he with he | he
    · exact hd.2 e (List.mem_filter.mp he).1
    · rcases List.mem_append.mp he with he | he
      · exact hs.2 e (List.mem_filter.mp he).1
      · exact hd.2 e (List.mem_filter.mp he).1

/-! Bit fields. -/

theorem bitsOf_lt (n lo w : Nat) : bitsOf n lo w < 2 ^ w := Nat.mod_lt _ (Nat.two_pow_pos w)

theorem bitsOf_testBit (n lo w k : Nat) : (bitsOf n lo w).testBit k = (decide (k < w) && n.testBit (k + lo)) := by
  rw [bitsOf, Nat.testBit_mod_two_pow, ← Nat.shiftRight_eq_div_pow, Nat.testBit_shiftRight, Nat.add_comm]

theorem bitsPut_eq (n lo w v : Nat) :
    bitsPut n lo w v = n / 2 ^ (lo + w) * 2 ^ (lo + w) + (v % 2 ^ w) * 2 ^ lo + n % 2 ^ lo := by
  have h1 : n % 2 ^ (lo + w) = bitsOf n lo w * 2 ^ lo + n % 2 ^ lo := by
    rw [bitsOf, Nat.pow_add, Nat.mod_mul]; ring
  have h2 : n = n / 2 ^ (lo + w) * 2 ^ (lo + w) + n % 2 ^ (lo + w) := by
    rw [Nat.mul_comm]; exact (Nat.div_add_mod n (2 ^ (lo + w))).symm
  unfold bitsPut
  omega

theorem bitsPut_mod (n lo w v : Nat) : bitsPut n lo w v % 2 ^ lo = n % 2 ^ lo := by
  rw [bitsPut_eq, Nat.pow_add, show n / (2 ^ lo * 2 ^ w) * (2 ^ lo * 2 ^ w) + v % 2 ^ w * 2 ^ lo + n % 2 ^ lo
    = 2 ^ lo * (n / (2 ^ lo * 2 ^ w) * 2 ^ w + v % 2 ^ w) + n % 2 ^ lo by ring, Nat.mul_add_mod, Nat.mod_mod]

theorem bitsPut_div (n lo w v : Nat) : bitsPut n lo w v / 2 ^ lo = n / 2 ^ (lo + w) * 2 ^ w + v % 2 ^ w := by
  rw [bitsPut_eq, Nat.pow_add, show n / (2 ^ lo * 2 ^ w) * (2 ^ lo * 2 ^ w) + v % 2 ^ w * 2 ^ lo + n % 2 ^ lo
    = n % 2 ^ lo + 2 ^ lo * (n / (2 ^ lo * 2 ^ w) * 2 ^ w + v % 2 ^ w) by ring,
    Nat.add_mul_div_left _ _ (Nat.two_pow_pos lo), Nat.div_eq_of_lt (Nat.mod_lt _ (Nat.two_pow_pos lo)), Nat.zero_add]

/-- The field that was written. -/
@[simp] theorem bitsOf_bitsPut_same (n lo w v : Nat) : bitsOf (bitsPut n lo w v) lo w = v % 2 ^ w := by
  rw [bitsOf, bitsPut_div, Nat.mul_comm, Nat.mul_add_mod, Nat.mod_mod]

/-- A field below the one written. -/
theorem bitsOf_bitsPut_below (n lo w v l k : Nat) (h : l + k ≤ lo) : bitsOf (bitsPut n lo w v) l k = bitsOf n l k := by
  have key : ∀ m : Nat, bitsOf m l k = m % 2 ^ lo / 2 ^ l % 2 ^ k := by
    intro m
    have hs : lo = l + (lo - l) := by omega
    rw [hs, Nat.pow_add, Nat.mod_mul_right_div_self, Nat.mod_mod_of_dvd _ (Nat.pow_dvd_pow 2 (by omega)), bitsOf]
  rw [key, key, bitsPut_mod]

/-- A field above the one written. -/
theorem bitsOf_bitsPut_above (n lo w v l k : Nat) (h : lo + w ≤ l) : bitsOf (bitsPut n lo w v) l k = bitsOf n l k := by
  have key : ∀ m : Nat, m / 2 ^ l = m / 2 ^ lo / 2 ^ w / 2 ^ (l - lo - w) := by
    intro m
    have hs : 2 ^ l = 2 ^ lo * 2 ^ w * 2 ^ (l - lo - w) := by
      rw [← Nat.pow_add, ← Nat.pow_add]; congr 1; omega
    rw [Nat.div_div_eq_div_mul, Nat.div_div_eq_div_mul, hs, Nat.mul_assoc]
  have hd : bitsPut n lo w v / 2 ^ lo / 2 ^ w = n / 2 ^ lo / 2 ^ w := by
    rw [bitsPut_div, Nat.mul_comm (n / 2 ^ (lo + w)), Nat.mul_add_div (Nat.two_pow_pos w),
      Nat.div_eq_of_lt (Nat.mod_lt v (Nat.two_pow_pos w)), Nat.add_zero, Nat.pow_add, Nat.div_div_eq_div_mul]
  rw [bitsOf, bitsOf, key, key, hd]

theorem bitsPut_lt (n lo w v m : Nat) (hn : n < 2 ^ m) (h : lo + w ≤ m) : bitsPut n lo w v < 2 ^ m := by
  have h1 : bitsPut n lo w v / 2 ^ (lo + w) = n / 2 ^ (lo + w) := by
    have := bitsPut_div n lo w v
    rw [Nat.pow_add, ← Nat.div_div_eq_div_mul, this, Nat.mul_comm (n / 2 ^ (lo + w)),
      Nat.mul_add_div (Nat.two_pow_pos w), Nat.div_eq_of_lt (Nat.mod_lt v (Nat.two_pow_pos w)), Nat.add_zero, Nat.pow_add]
  have hm : m = lo + w + (m - (lo + w)) := by omega
  have h2 : n / 2 ^ (lo + w) < 2 ^ (m - (lo + w)) := by
    rw [Nat.div_lt_iff_lt_mul (Nat.two_pow_pos _), ← Nat.pow_add, Nat.add_comm, ← hm]
    exact hn
  rw [← h1, Nat.div_lt_iff_lt_mul (Nat.two_pow_pos _), ← Nat.pow_add, Nat.add_comm, ← hm] at h2
  exact h2

end Sys2Proof.Machine
end

