-- ==== Sys2Proof/Laws/Ops.lean ====
section
/-! SUPPORT. What the shared operations do: updates made of several, instance records, and the fields of registers. -/

namespace Sys2Proof.Machine

/-! Updates made of several, and folds of updates. -/

/-- What no step of a fold changes, the fold does not change. -/
theorem foldl_keeps {α β : Type} (g : State → α) (f : State → β → State) (h : ∀ s b, g (f s b) = g s) (l : List β) (s : State) :
    g (l.foldl f s) = g s := by
  induction l generalizing s with
  | nil => rfl
  | cons b l ih => exact (ih _).trans (h s b)
@[simp] theorem State.wrs_pending (s : State) (b : Nat) (l : List (Fld × Nat)) : (s.wrs b l).pending = s.pending := by
  induction l generalizing s with
  | nil => rfl
  | cons e l ih => exact ih _
@[simp] theorem State.wrs_part (s : State) (b : Nat) (l : List (Fld × Nat)) : (s.wrs b l).part = s.part := by
  induction l generalizing s with
  | nil => rfl
  | cons e l ih => exact ih _
@[simp] theorem State.wrs_suffixE (s : State) (b : Nat) (l : List (Fld × Nat)) : (s.wrs b l).suffixE = s.suffixE := by
  induction l generalizing s with
  | nil => rfl
  | cons e l ih => exact ih _
@[simp] theorem State.wrs_live (s : State) (b : Nat) (l : List (Fld × Nat)) : (s.wrs b l).live = s.live := by
  induction l generalizing s with
  | nil => rfl
  | cons e l ih => exact ih _
@[simp] theorem State.wrs_tabS (s : State) (b : Nat) (l : List (Fld × Nat)) : (s.wrs b l).tabS = s.tabS := by
  induction l generalizing s with
  | nil => rfl
  | cons e l ih => exact ih _
@[simp] theorem State.wrs_tabL (s : State) (b : Nat) (l : List (Fld × Nat)) : (s.wrs b l).tabL = s.tabL := by
  induction l generalizing s with
  | nil => rfl
  | cons e l ih => exact ih _
@[simp] theorem State.wrs_force (s : State) (b : Nat) (l : List (Fld × Nat)) : (s.wrs b l).force = s.force := by
  induction l generalizing s with
  | nil => rfl
  | cons e l ih => exact ih _
@[simp] theorem State.wrs_tabF (s : State) (b : Nat) (l : List (Fld × Nat)) : (s.wrs b l).tabF = s.tabF := by
  induction l generalizing s with
  | nil => rfl
  | cons e l ih => exact ih _
@[simp] theorem State.wrs_locked (s : State) (b : Nat) (l : List (Fld × Nat)) : (s.wrs b l).locked = s.locked := by
  induction l generalizing s with
  | nil => rfl
  | cons e l ih => exact ih _
@[simp] theorem State.wrs_cap (s : State) (b : Nat) (l : List (Fld × Nat)) : (s.wrs b l).cap = s.cap := by
  induction l generalizing s with
  | nil => rfl
  | cons e l ih => exact ih _
@[simp] theorem State.wrs_flight (s : State) (b : Nat) (l : List (Fld × Nat)) : (s.wrs b l).flight = s.flight := by
  induction l generalizing s with
  | nil => rfl
  | cons e l ih => exact ih _
@[simp] theorem State.wrs_marks (s : State) (b : Nat) (l : List (Fld × Nat)) : (s.wrs b l).marks = s.marks := by
  induction l generalizing s with
  | nil => rfl
  | cons e l ih => exact ih _
@[simp] theorem State.wrs_drawn (s : State) (b : Nat) (l : List (Fld × Nat)) : (s.wrs b l).drawn = s.drawn := by
  induction l generalizing s with
  | nil => rfl
  | cons e l ih => exact ih _
@[simp] theorem State.wrs_link (s : State) (b : Nat) (l : List (Fld × Nat)) : (s.wrs b l).link = s.link := by
  induction l generalizing s with
  | nil => rfl
  | cons e l ih => exact ih _
@[simp] theorem State.wrs_acq (s : State) (b : Nat) (l : List (Fld × Nat)) : (s.wrs b l).acq = s.acq := by
  induction l generalizing s with
  | nil => rfl
  | cons e l ih => exact ih _
@[simp] theorem State.wrs_jrx (s : State) (b : Nat) (l : List (Fld × Nat)) : (s.wrs b l).jrx = s.jrx := by
  induction l generalizing s with
  | nil => rfl
  | cons e l ih => exact ih _
@[simp] theorem State.wrs_time (s : State) (b : Nat) (l : List (Fld × Nat)) : (s.wrs b l).time = s.time := by
  induction l generalizing s with
  | nil => rfl
  | cons e l ih => exact ih _
@[simp] theorem State.wrs_items (s : State) (b : Nat) (l : List (Fld × Nat)) : (s.wrs b l).items = s.items := by
  induction l generalizing s with
  | nil => rfl
  | cons e l ih => exact ih _
@[simp] theorem State.wrs_traceRing (s : State) (b : Nat) (l : List (Fld × Nat)) : (s.wrs b l).traceRing = s.traceRing := by
  induction l generalizing s with
  | nil => rfl
  | cons e l ih => exact ih _
@[simp] theorem State.wrs_credits (s : State) (b : Nat) (l : List (Fld × Nat)) : (s.wrs b l).credits = s.credits := by
  induction l generalizing s with
  | nil => rfl
  | cons e l ih => exact ih _
@[simp] theorem State.wrs_lineOvf (s : State) (b : Nat) (l : List (Fld × Nat)) : (s.wrs b l).lineOvf = s.lineOvf := by
  induction l generalizing s with
  | nil => rfl
  | cons e l ih => exact ih _
@[simp] theorem State.wrs_codes (s : State) (b : Nat) (l : List (Fld × Nat)) : (s.wrs b l).codes = s.codes := by
  induction l generalizing s with
  | nil => rfl
  | cons e l ih => exact ih _
@[simp] theorem State.wrs_spares (s : State) (b : Nat) (l : List (Fld × Nat)) : (s.wrs b l).spares = s.spares := by
  induction l generalizing s with
  | nil => rfl
  | cons e l ih => exact ih _
@[simp] theorem State.wrs_stream (s : State) (b : Nat) (l : List (Fld × Nat)) : (s.wrs b l).stream = s.stream := by
  induction l generalizing s with
  | nil => rfl
  | cons e l ih => exact ih _
@[simp] theorem State.wrs_readData (s : State) (b : Nat) (l : List (Fld × Nat)) : (s.wrs b l).readData = s.readData := by
  induction l generalizing s with
  | nil => rfl
  | cons e l ih => exact ih _
@[simp] theorem State.wrs_wb (s : State) (b : Nat) (l : List (Fld × Nat)) : (s.wrs b l).wb = s.wb := by
  induction l generalizing s with
  | nil => rfl
  | cons e l ih => exact ih _
@[simp] theorem State.wrs_trg (s : State) (b : Nat) (l : List (Fld × Nat)) : (s.wrs b l).trg = s.trg := by
  induction l generalizing s with
  | nil => rfl
  | cons e l ih => exact ih _
@[simp] theorem State.wrs_trgTx (s : State) (b : Nat) (l : List (Fld × Nat)) : (s.wrs b l).trgTx = s.trgTx := by
  induction l generalizing s with
  | nil => rfl
  | cons e l ih => exact ih _
@[simp] theorem State.wrs_recs (s : State) (b : Nat) (l : List (Fld × Nat)) : (s.wrs b l).recs = s.recs := by
  induction l generalizing s with
  | nil => rfl
  | cons e l ih => exact ih _
@[simp] theorem State.wrs_dens (s : State) (b : Nat) (l : List (Fld × Nat)) : (s.wrs b l).dens = s.dens := by
  induction l generalizing s with
  | nil => rfl
  | cons e l ih => exact ih _
@[simp] theorem State.wrs_cores (s : State) (b : Nat) (l : List (Fld × Nat)) : (s.wrs b l).cores = s.cores := by
  induction l generalizing s with
  | nil => rfl
  | cons e l ih => exact ih _
@[simp] theorem State.wrs_zooms (s : State) (b : Nat) (l : List (Fld × Nat)) : (s.wrs b l).zooms = s.zooms := by
  induction l generalizing s with
  | nil => rfl
  | cons e l ih => exact ih _
@[simp] theorem State.wrs_repairs (s : State) (b : Nat) (l : List (Fld × Nat)) : (s.wrs b l).repairs = s.repairs := by
  induction l generalizing s with
  | nil => rfl
  | cons e l ih => exact ih _
@[simp] theorem State.wrs_lead (s : State) (b : Nat) (l : List (Fld × Nat)) : (s.wrs b l).lead = s.lead := by
  induction l generalizing s with
  | nil => rfl
  | cons e l ih => exact ih _
@[simp] theorem State.wrs_tdc (s : State) (b : Nat) (l : List (Fld × Nat)) : (s.wrs b l).tdc = s.tdc := by
  induction l generalizing s with
  | nil => rfl
  | cons e l ih => exact ih _
@[simp] theorem State.wrs_iv (s : State) (b : Nat) (l : List (Fld × Nat)) : (s.wrs b l).iv = s.iv := by
  induction l generalizing s with
  | nil => rfl
  | cons e l ih => exact ih _
@[simp] theorem State.wrs_tdcCheck (s : State) (b : Nat) (l : List (Fld × Nat)) : (s.wrs b l).tdcCheck = s.tdcCheck := by
  induction l generalizing s with
  | nil => rfl
  | cons e l ih => exact ih _
@[simp] theorem State.wrs_ddr (s : State) (b : Nat) (l : List (Fld × Nat)) : (s.wrs b l).ddr = s.ddr := by
  induction l generalizing s with
  | nil => rfl
  | cons e l ih => exact ih _
@[simp] theorem State.wrs_nfs (s : State) (b : Nat) (l : List (Fld × Nat)) : (s.wrs b l).nfs = s.nfs := by
  induction l generalizing s with
  | nil => rfl
  | cons e l ih => exact ih _
@[simp] theorem State.wrs_powerGood (s : State) (b : Nat) (l : List (Fld × Nat)) : (s.wrs b l).powerGood = s.powerGood := by
  induction l generalizing s with
  | nil => rfl
  | cons e l ih => exact ih _
@[simp] theorem State.wrs_resetLow (s : State) (b : Nat) (l : List (Fld × Nat)) : (s.wrs b l).resetLow = s.resetLow := by
  induction l generalizing s with
  | nil => rfl
  | cons e l ih => exact ih _
@[simp] theorem State.wrs_clk (s : State) (b : Nat) (l : List (Fld × Nat)) : (s.wrs b l).clk = s.clk := by
  induction l generalizing s with
  | nil => rfl
  | cons e l ih => exact ih _
@[simp] theorem State.wrs_enabledIn (s : State) (b : Nat) (l : List (Fld × Nat)) : (s.wrs b l).enabledIn = s.enabledIn := by
  induction l generalizing s with
  | nil => rfl
  | cons e l ih => exact ih _
@[simp] theorem State.wrs_enableStep (s : State) (b : Nat) (l : List (Fld × Nat)) : (s.wrs b l).enableStep = s.enableStep := by
  induction l generalizing s with
  | nil => rfl
  | cons e l ih => exact ih _
@[simp] theorem State.wrs_hk (s : State) (b : Nat) (l : List (Fld × Nat)) : (s.wrs b l).hk = s.hk := by
  induction l generalizing s with
  | nil => rfl
  | cons e l ih => exact ih _
@[simp] theorem State.wrs_pairs (s : State) (b : Nat) (l : List (Fld × Nat)) : (s.wrs b l).pairs = s.pairs := by
  induction l generalizing s with
  | nil => rfl
  | cons e l ih => exact ih _
@[simp] theorem State.wrs_pwm (s : State) (b : Nat) (l : List (Fld × Nat)) : (s.wrs b l).pwm = s.pwm := by
  induction l generalizing s with
  | nil => rfl
  | cons e l ih => exact ih _
@[simp] theorem State.wrs_hkAt (s : State) (b : Nat) (l : List (Fld × Nat)) : (s.wrs b l).hkAt = s.hkAt := by
  induction l generalizing s with
  | nil => rfl
  | cons e l ih => exact ih _
@[simp] theorem State.wrs_powered (s : State) (b : Nat) (l : List (Fld × Nat)) : (s.wrs b l).powered = s.powered := by
  induction l generalizing s with
  | nil => rfl
  | cons e l ih => exact ih _
@[simp] theorem State.wrs_hotLost (s : State) (b : Nat) (l : List (Fld × Nat)) : (s.wrs b l).hotLost = s.hotLost := by
  induction l generalizing s with
  | nil => rfl
  | cons e l ih => exact ih _
@[simp] theorem State.wrs_disp (s : State) (b : Nat) (l : List (Fld × Nat)) : (s.wrs b l).disp = s.disp := by
  induction l generalizing s with
  | nil => rfl
  | cons e l ih => exact ih _
@[simp] theorem State.wrs_dma (s : State) (b : Nat) (l : List (Fld × Nat)) : (s.wrs b l).dma = s.dma := by
  induction l generalizing s with
  | nil => rfl
  | cons e l ih => exact ih _
@[simp] theorem State.wrs_dmaMem (s : State) (b : Nat) (l : List (Fld × Nat)) : (s.wrs b l).dmaMem = s.dmaMem := by
  induction l generalizing s with
  | nil => rfl
  | cons e l ih => exact ih _
@[simp] theorem State.wrs_eth (s : State) (b : Nat) (l : List (Fld × Nat)) : (s.wrs b l).eth = s.eth := by
  induction l generalizing s with
  | nil => rfl
  | cons e l ih => exact ih _
@[simp] theorem State.wrs_strs (s : State) (b : Nat) (l : List (Fld × Nat)) : (s.wrs b l).strs = s.strs := by
  induction l generalizing s with
  | nil => rfl
  | cons e l ih => exact ih _
@[simp] theorem State.wrs_access (s : State) (b : Nat) (l : List (Fld × Nat)) : (s.wrs b l).access = s.access := by
  induction l generalizing s with
  | nil => rfl
  | cons e l ih => exact ih _
@[simp] theorem State.wrs_fcol (s : State) (b : Nat) (l : List (Fld × Nat)) : (s.wrs b l).fcol = s.fcol := by
  induction l generalizing s with
  | nil => rfl
  | cons e l ih => exact ih _
@[simp] theorem State.wrs_aliveRuns (s : State) (b : Nat) (l : List (Fld × Nat)) : (s.wrs b l).aliveRuns = s.aliveRuns := by
  induction l generalizing s with
  | nil => rfl
  | cons e l ih => exact ih _
@[simp] theorem State.wrs_alive (s : State) (b : Nat) (l : List (Fld × Nat)) : (s.wrs b l).alive = s.alive := by
  induction l generalizing s with
  | nil => rfl
  | cons e l ih => exact ih _
@[simp] theorem State.wrs_controlLost (s : State) (b : Nat) (l : List (Fld × Nat)) : (s.wrs b l).controlLost = s.controlLost := by
  induction l generalizing s with
  | nil => rfl
  | cons e l ih => exact ih _
@[simp] theorem State.wrs_beatsMissed (s : State) (b : Nat) (l : List (Fld × Nat)) : (s.wrs b l).beatsMissed = s.beatsMissed := by
  induction l generalizing s with
  | nil => rfl
  | cons e l ih => exact ih _
@[simp] theorem State.wrs_mbox (s : State) (b : Nat) (l : List (Fld × Nat)) : (s.wrs b l).mbox = s.mbox := by
  induction l generalizing s with
  | nil => rfl
  | cons e l ih => exact ih _
@[simp] theorem State.wrs_plans (s : State) (b : Nat) (l : List (Fld × Nat)) : (s.wrs b l).plans = s.plans := by
  induction l generalizing s with
  | nil => rfl
  | cons e l ih => exact ih _
@[simp] theorem State.wrs_planCmds (s : State) (b : Nat) (l : List (Fld × Nat)) : (s.wrs b l).planCmds = s.planCmds := by
  induction l generalizing s with
  | nil => rfl
  | cons e l ih => exact ih _
@[simp] theorem State.wrs_admissions (s : State) (b : Nat) (l : List (Fld × Nat)) : (s.wrs b l).admissions = s.admissions := by
  induction l generalizing s with
  | nil => rfl
  | cons e l ih => exact ih _
@[simp] theorem State.wrs_energy (s : State) (b : Nat) (l : List (Fld × Nat)) : (s.wrs b l).energy = s.energy := by
  induction l generalizing s with
  | nil => rfl
  | cons e l ih => exact ih _
@[simp] theorem State.wrs_ledger (s : State) (b : Nat) (l : List (Fld × Nat)) : (s.wrs b l).ledger = s.ledger := by
  induction l generalizing s with
  | nil => rfl
  | cons e l ih => exact ih _
@[simp] theorem State.wrs_rails (s : State) (b : Nat) (l : List (Fld × Nat)) : (s.wrs b l).rails = s.rails := by
  induction l generalizing s with
  | nil => rfl
  | cons e l ih => exact ih _
@[simp] theorem State.wrs_boot (s : State) (b : Nat) (l : List (Fld × Nat)) : (s.wrs b l).boot = s.boot := by
  induction l generalizing s with
  | nil => rfl
  | cons e l ih => exact ih _
@[simp] theorem State.wrs_brokenPipes (s : State) (b : Nat) (l : List (Fld × Nat)) : (s.wrs b l).brokenPipes = s.brokenPipes := by
  induction l generalizing s with
  | nil => rfl
  | cons e l ih => exact ih _
@[simp] theorem State.wrs_spi (s : State) (b : Nat) (l : List (Fld × Nat)) : (s.wrs b l).spi = s.spi := by
  induction l generalizing s with
  | nil => rfl
  | cons e l ih => exact ih _
@[simp] theorem State.wrs_fuses (s : State) (b : Nat) (l : List (Fld × Nat)) : (s.wrs b l).fuses = s.fuses := by
  induction l generalizing s with
  | nil => rfl
  | cons e l ih => exact ih _
@[simp] theorem State.wrs_fusedSvn (s : State) (b : Nat) (l : List (Fld × Nat)) : (s.wrs b l).fusedSvn = s.fusedSvn := by
  induction l generalizing s with
  | nil => rfl
  | cons e l ih => exact ih _
@[simp] theorem State.wrs_keyHash (s : State) (b : Nat) (l : List (Fld × Nat)) : (s.wrs b l).keyHash = s.keyHash := by
  induction l generalizing s with
  | nil => rfl
  | cons e l ih => exact ih _
@[simp] theorem State.wrs_hashIn (s : State) (b : Nat) (l : List (Fld × Nat)) : (s.wrs b l).hashIn = s.hashIn := by
  induction l generalizing s with
  | nil => rfl
  | cons e l ih => exact ih _
@[simp] theorem State.raiseIf_pending (s : State) (c : Bool) (n d : Nat) : (s.raiseIf c n d).pending = s.pending := by cases c <;> rfl
@[simp] theorem State.raiseIf_part (s : State) (c : Bool) (n d : Nat) : (s.raiseIf c n d).part = s.part := by cases c <;> rfl
@[simp] theorem State.raiseIf_suffixE (s : State) (c : Bool) (n d : Nat) : (s.raiseIf c n d).suffixE = s.suffixE := by cases c <;> rfl
@[simp] theorem State.raiseIf_regs (s : State) (c : Bool) (n d : Nat) : (s.raiseIf c n d).regs = s.regs := by cases c <;> rfl
@[simp] theorem State.raiseIf_live (s : State) (c : Bool) (n d : Nat) : (s.raiseIf c n d).live = s.live := by cases c <;> rfl
@[simp] theorem State.raiseIf_tabS (s : State) (c : Bool) (n d : Nat) : (s.raiseIf c n d).tabS = s.tabS := by cases c <;> rfl
@[simp] theorem State.raiseIf_tabL (s : State) (c : Bool) (n d : Nat) : (s.raiseIf c n d).tabL = s.tabL := by cases c <;> rfl
@[simp] theorem State.raiseIf_force (s : State) (c : Bool) (n d : Nat) : (s.raiseIf c n d).force = s.force := by cases c <;> rfl
@[simp] theorem State.raiseIf_tabF (s : State) (c : Bool) (n d : Nat) : (s.raiseIf c n d).tabF = s.tabF := by cases c <;> rfl
@[simp] theorem State.raiseIf_locked (s : State) (c : Bool) (n d : Nat) : (s.raiseIf c n d).locked = s.locked := by cases c <;> rfl
@[simp] theorem State.raiseIf_cap (s : State) (c : Bool) (n d : Nat) : (s.raiseIf c n d).cap = s.cap := by cases c <;> rfl
@[simp] theorem State.raiseIf_marks (s : State) (c : Bool) (n d : Nat) : (s.raiseIf c n d).marks = s.marks := by cases c <;> rfl
@[simp] theorem State.raiseIf_drawn (s : State) (c : Bool) (n d : Nat) : (s.raiseIf c n d).drawn = s.drawn := by cases c <;> rfl
@[simp] theorem State.raiseIf_link (s : State) (c : Bool) (n d : Nat) : (s.raiseIf c n d).link = s.link := by cases c <;> rfl
@[simp] theorem State.raiseIf_acq (s : State) (c : Bool) (n d : Nat) : (s.raiseIf c n d).acq = s.acq := by cases c <;> rfl
@[simp] theorem State.raiseIf_jrx (s : State) (c : Bool) (n d : Nat) : (s.raiseIf c n d).jrx = s.jrx := by cases c <;> rfl
@[simp] theorem State.raiseIf_time (s : State) (c : Bool) (n d : Nat) : (s.raiseIf c n d).time = s.time := by cases c <;> rfl
@[simp] theorem State.raiseIf_items (s : State) (c : Bool) (n d : Nat) : (s.raiseIf c n d).items = s.items := by cases c <;> rfl
@[simp] theorem State.raiseIf_traceRing (s : State) (c : Bool) (n d : Nat) : (s.raiseIf c n d).traceRing = s.traceRing := by cases c <;> rfl
@[simp] theorem State.raiseIf_credits (s : State) (c : Bool) (n d : Nat) : (s.raiseIf c n d).credits = s.credits := by cases c <;> rfl
@[simp] theorem State.raiseIf_lineOvf (s : State) (c : Bool) (n d : Nat) : (s.raiseIf c n d).lineOvf = s.lineOvf := by cases c <;> rfl
@[simp] theorem State.raiseIf_codes (s : State) (c : Bool) (n d : Nat) : (s.raiseIf c n d).codes = s.codes := by cases c <;> rfl
@[simp] theorem State.raiseIf_spares (s : State) (c : Bool) (n d : Nat) : (s.raiseIf c n d).spares = s.spares := by cases c <;> rfl
@[simp] theorem State.raiseIf_stream (s : State) (c : Bool) (n d : Nat) : (s.raiseIf c n d).stream = s.stream := by cases c <;> rfl
@[simp] theorem State.raiseIf_readData (s : State) (c : Bool) (n d : Nat) : (s.raiseIf c n d).readData = s.readData := by cases c <;> rfl
@[simp] theorem State.raiseIf_wb (s : State) (c : Bool) (n d : Nat) : (s.raiseIf c n d).wb = s.wb := by cases c <;> rfl
@[simp] theorem State.raiseIf_trg (s : State) (c : Bool) (n d : Nat) : (s.raiseIf c n d).trg = s.trg := by cases c <;> rfl
@[simp] theorem State.raiseIf_trgTx (s : State) (c : Bool) (n d : Nat) : (s.raiseIf c n d).trgTx = s.trgTx := by cases c <;> rfl
@[simp] theorem State.raiseIf_recs (s : State) (c : Bool) (n d : Nat) : (s.raiseIf c n d).recs = s.recs := by cases c <;> rfl
@[simp] theorem State.raiseIf_dens (s : State) (c : Bool) (n d : Nat) : (s.raiseIf c n d).dens = s.dens := by cases c <;> rfl
@[simp] theorem State.raiseIf_cores (s : State) (c : Bool) (n d : Nat) : (s.raiseIf c n d).cores = s.cores := by cases c <;> rfl
@[simp] theorem State.raiseIf_zooms (s : State) (c : Bool) (n d : Nat) : (s.raiseIf c n d).zooms = s.zooms := by cases c <;> rfl
@[simp] theorem State.raiseIf_repairs (s : State) (c : Bool) (n d : Nat) : (s.raiseIf c n d).repairs = s.repairs := by cases c <;> rfl
@[simp] theorem State.raiseIf_lead (s : State) (c : Bool) (n d : Nat) : (s.raiseIf c n d).lead = s.lead := by cases c <;> rfl
@[simp] theorem State.raiseIf_tdc (s : State) (c : Bool) (n d : Nat) : (s.raiseIf c n d).tdc = s.tdc := by cases c <;> rfl
@[simp] theorem State.raiseIf_iv (s : State) (c : Bool) (n d : Nat) : (s.raiseIf c n d).iv = s.iv := by cases c <;> rfl
@[simp] theorem State.raiseIf_tdcCheck (s : State) (c : Bool) (n d : Nat) : (s.raiseIf c n d).tdcCheck = s.tdcCheck := by cases c <;> rfl
@[simp] theorem State.raiseIf_ddr (s : State) (c : Bool) (n d : Nat) : (s.raiseIf c n d).ddr = s.ddr := by cases c <;> rfl
@[simp] theorem State.raiseIf_nfs (s : State) (c : Bool) (n d : Nat) : (s.raiseIf c n d).nfs = s.nfs := by cases c <;> rfl
@[simp] theorem State.raiseIf_powerGood (s : State) (c : Bool) (n d : Nat) : (s.raiseIf c n d).powerGood = s.powerGood := by cases c <;> rfl
@[simp] theorem State.raiseIf_resetLow (s : State) (c : Bool) (n d : Nat) : (s.raiseIf c n d).resetLow = s.resetLow := by cases c <;> rfl
@[simp] theorem State.raiseIf_clk (s : State) (c : Bool) (n d : Nat) : (s.raiseIf c n d).clk = s.clk := by cases c <;> rfl
@[simp] theorem State.raiseIf_enabledIn (s : State) (c : Bool) (n d : Nat) : (s.raiseIf c n d).enabledIn = s.enabledIn := by cases c <;> rfl
@[simp] theorem State.raiseIf_enableStep (s : State) (c : Bool) (n d : Nat) : (s.raiseIf c n d).enableStep = s.enableStep := by cases c <;> rfl
@[simp] theorem State.raiseIf_hk (s : State) (c : Bool) (n d : Nat) : (s.raiseIf c n d).hk = s.hk := by cases c <;> rfl
@[simp] theorem State.raiseIf_pairs (s : State) (c : Bool) (n d : Nat) : (s.raiseIf c n d).pairs = s.pairs := by cases c <;> rfl
@[simp] theorem State.raiseIf_pwm (s : State) (c : Bool) (n d : Nat) : (s.raiseIf c n d).pwm = s.pwm := by cases c <;> rfl
@[simp] theorem State.raiseIf_hkAt (s : State) (c : Bool) (n d : Nat) : (s.raiseIf c n d).hkAt = s.hkAt := by cases c <;> rfl
@[simp] theorem State.raiseIf_powered (s : State) (c : Bool) (n d : Nat) : (s.raiseIf c n d).powered = s.powered := by cases c <;> rfl
@[simp] theorem State.raiseIf_hotLost (s : State) (c : Bool) (n d : Nat) : (s.raiseIf c n d).hotLost = s.hotLost := by cases c <;> rfl
@[simp] theorem State.raiseIf_disp (s : State) (c : Bool) (n d : Nat) : (s.raiseIf c n d).disp = s.disp := by cases c <;> rfl
@[simp] theorem State.raiseIf_dma (s : State) (c : Bool) (n d : Nat) : (s.raiseIf c n d).dma = s.dma := by cases c <;> rfl
@[simp] theorem State.raiseIf_dmaMem (s : State) (c : Bool) (n d : Nat) : (s.raiseIf c n d).dmaMem = s.dmaMem := by cases c <;> rfl
@[simp] theorem State.raiseIf_eth (s : State) (c : Bool) (n d : Nat) : (s.raiseIf c n d).eth = s.eth := by cases c <;> rfl
@[simp] theorem State.raiseIf_strs (s : State) (c : Bool) (n d : Nat) : (s.raiseIf c n d).strs = s.strs := by cases c <;> rfl
@[simp] theorem State.raiseIf_access (s : State) (c : Bool) (n d : Nat) : (s.raiseIf c n d).access = s.access := by cases c <;> rfl
@[simp] theorem State.raiseIf_fcol (s : State) (c : Bool) (n d : Nat) : (s.raiseIf c n d).fcol = s.fcol := by cases c <;> rfl
@[simp] theorem State.raiseIf_aliveRuns (s : State) (c : Bool) (n d : Nat) : (s.raiseIf c n d).aliveRuns = s.aliveRuns := by cases c <;> rfl
@[simp] theorem State.raiseIf_alive (s : State) (c : Bool) (n d : Nat) : (s.raiseIf c n d).alive = s.alive := by cases c <;> rfl
@[simp] theorem State.raiseIf_controlLost (s : State) (c : Bool) (n d : Nat) : (s.raiseIf c n d).controlLost = s.controlLost := by cases c <;> rfl
@[simp] theorem State.raiseIf_beatsMissed (s : State) (c : Bool) (n d : Nat) : (s.raiseIf c n d).beatsMissed = s.beatsMissed := by cases c <;> rfl
@[simp] theorem State.raiseIf_mbox (s : State) (c : Bool) (n d : Nat) : (s.raiseIf c n d).mbox = s.mbox := by cases c <;> rfl
@[simp] theorem State.raiseIf_plans (s : State) (c : Bool) (n d : Nat) : (s.raiseIf c n d).plans = s.plans := by cases c <;> rfl
@[simp] theorem State.raiseIf_planCmds (s : State) (c : Bool) (n d : Nat) : (s.raiseIf c n d).planCmds = s.planCmds := by cases c <;> rfl
@[simp] theorem State.raiseIf_admissions (s : State) (c : Bool) (n d : Nat) : (s.raiseIf c n d).admissions = s.admissions := by cases c <;> rfl
@[simp] theorem State.raiseIf_energy (s : State) (c : Bool) (n d : Nat) : (s.raiseIf c n d).energy = s.energy := by cases c <;> rfl
@[simp] theorem State.raiseIf_ledger (s : State) (c : Bool) (n d : Nat) : (s.raiseIf c n d).ledger = s.ledger := by cases c <;> rfl
@[simp] theorem State.raiseIf_rails (s : State) (c : Bool) (n d : Nat) : (s.raiseIf c n d).rails = s.rails := by cases c <;> rfl
@[simp] theorem State.raiseIf_boot (s : State) (c : Bool) (n d : Nat) : (s.raiseIf c n d).boot = s.boot := by cases c <;> rfl
@[simp] theorem State.raiseIf_brokenPipes (s : State) (c : Bool) (n d : Nat) : (s.raiseIf c n d).brokenPipes = s.brokenPipes := by cases c <;> rfl
@[simp] theorem State.raiseIf_spi (s : State) (c : Bool) (n d : Nat) : (s.raiseIf c n d).spi = s.spi := by cases c <;> rfl
@[simp] theorem State.raiseIf_fuses (s : State) (c : Bool) (n d : Nat) : (s.raiseIf c n d).fuses = s.fuses := by cases c <;> rfl
@[simp] theorem State.raiseIf_fusedSvn (s : State) (c : Bool) (n d : Nat) : (s.raiseIf c n d).fusedSvn = s.fusedSvn := by cases c <;> rfl
@[simp] theorem State.raiseIf_keyHash (s : State) (c : Bool) (n d : Nat) : (s.raiseIf c n d).keyHash = s.keyHash := by cases c <;> rfl
@[simp] theorem State.raiseIf_hashIn (s : State) (c : Bool) (n d : Nat) : (s.raiseIf c n d).hashIn = s.hashIn := by cases c <;> rfl
@[simp] theorem State.mark_pending (s : State) (t a b c : Nat) : (s.mark t a b c).pending = s.pending := by unfold State.mark; split <;> rfl
@[simp] theorem State.mark_part (s : State) (t a b c : Nat) : (s.mark t a b c).part = s.part := by unfold State.mark; split <;> rfl
@[simp] theorem State.mark_suffixE (s : State) (t a b c : Nat) : (s.mark t a b c).suffixE = s.suffixE := by unfold State.mark; split <;> rfl
@[simp] theorem State.mark_regs (s : State) (t a b c : Nat) : (s.mark t a b c).regs = s.regs := by unfold State.mark; split <;> rfl
@[simp] theorem State.mark_live (s : State) (t a b c : Nat) : (s.mark t a b c).live = s.live := by unfold State.mark; split <;> rfl
@[simp] theorem State.mark_tabS (s : State) (t a b c : Nat) : (s.mark t a b c).tabS = s.tabS := by unfold State.mark; split <;> rfl
@[simp] theorem State.mark_tabL (s : State) (t a b c : Nat) : (s.mark t a b c).tabL = s.tabL := by unfold State.mark; split <;> rfl
@[simp] theorem State.mark_force (s : State) (t a b c : Nat) : (s.mark t a b c).force = s.force := by unfold State.mark; split <;> rfl
@[simp] theorem State.mark_tabF (s : State) (t a b c : Nat) : (s.mark t a b c).tabF = s.tabF := by unfold State.mark; split <;> rfl
@[simp] theorem State.mark_locked (s : State) (t a b c : Nat) : (s.mark t a b c).locked = s.locked := by unfold State.mark; split <;> rfl
@[simp] theorem State.mark_cap (s : State) (t a b c : Nat) : (s.mark t a b c).cap = s.cap := by unfold State.mark; split <;> rfl
@[simp] theorem State.mark_flight (s : State) (t a b c : Nat) : (s.mark t a b c).flight = s.flight := by unfold State.mark; split <;> rfl
@[simp] theorem State.mark_drawn (s : State) (t a b c : Nat) : (s.mark t a b c).drawn = s.drawn := by unfold State.mark; split <;> rfl
@[simp] theorem State.mark_link (s : State) (t a b c : Nat) : (s.mark t a b c).link = s.link := by unfold State.mark; split <;> rfl
@[simp] theorem State.mark_acq (s : State) (t a b c : Nat) : (s.mark t a b c).acq = s.acq := by unfold State.mark; split <;> rfl
@[simp] theorem State.mark_jrx (s : State) (t a b c : Nat) : (s.mark t a b c).jrx = s.jrx := by unfold State.mark; split <;> rfl
@[simp] theorem State.mark_time (s : State) (t a b c : Nat) : (s.mark t a b c).time = s.time := by unfold State.mark; split <;> rfl
@[simp] theorem State.mark_items (s : State) (t a b c : Nat) : (s.mark t a b c).items = s.items := by unfold State.mark; split <;> rfl
@[simp] theorem State.mark_traceRing (s : State) (t a b c : Nat) : (s.mark t a b c).traceRing = s.traceRing := by unfold State.mark; split <;> rfl
@[simp] theorem State.mark_credits (s : State) (t a b c : Nat) : (s.mark t a b c).credits = s.credits := by unfold State.mark; split <;> rfl
@[simp] theorem State.mark_lineOvf (s : State) (t a b c : Nat) : (s.mark t a b c).lineOvf = s.lineOvf := by unfold State.mark; split <;> rfl
@[simp] theorem State.mark_codes (s : State) (t a b c : Nat) : (s.mark t a b c).codes = s.codes := by unfold State.mark; split <;> rfl
@[simp] theorem State.mark_spares (s : State) (t a b c : Nat) : (s.mark t a b c).spares = s.spares := by unfold State.mark; split <;> rfl
@[simp] theorem State.mark_stream (s : State) (t a b c : Nat) : (s.mark t a b c).stream = s.stream := by unfold State.mark; split <;> rfl
@[simp] theorem State.mark_readData (s : State) (t a b c : Nat) : (s.mark t a b c).readData = s.readData := by unfold State.mark; split <;> rfl
@[simp] theorem State.mark_wb (s : State) (t a b c : Nat) : (s.mark t a b c).wb = s.wb := by unfold State.mark; split <;> rfl
@[simp] theorem State.mark_trg (s : State) (t a b c : Nat) : (s.mark t a b c).trg = s.trg := by unfold State.mark; split <;> rfl
@[simp] theorem State.mark_trgTx (s : State) (t a b c : Nat) : (s.mark t a b c).trgTx = s.trgTx := by unfold State.mark; split <;> rfl
@[simp] theorem State.mark_recs (s : State) (t a b c : Nat) : (s.mark t a b c).recs = s.recs := by unfold State.mark; split <;> rfl
@[simp] theorem State.mark_dens (s : State) (t a b c : Nat) : (s.mark t a b c).dens = s.dens := by unfold State.mark; split <;> rfl
@[simp] theorem State.mark_cores (s : State) (t a b c : Nat) : (s.mark t a b c).cores = s.cores := by unfold State.mark; split <;> rfl
@[simp] theorem State.mark_zooms (s : State) (t a b c : Nat) : (s.mark t a b c).zooms = s.zooms := by unfold State.mark; split <;> rfl
@[simp] theorem State.mark_repairs (s : State) (t a b c : Nat) : (s.mark t a b c).repairs = s.repairs := by unfold State.mark; split <;> rfl
@[simp] theorem State.mark_lead (s : State) (t a b c : Nat) : (s.mark t a b c).lead = s.lead := by unfold State.mark; split <;> rfl
@[simp] theorem State.mark_tdc (s : State) (t a b c : Nat) : (s.mark t a b c).tdc = s.tdc := by unfold State.mark; split <;> rfl
@[simp] theorem State.mark_iv (s : State) (t a b c : Nat) : (s.mark t a b c).iv = s.iv := by unfold State.mark; split <;> rfl
@[simp] theorem State.mark_tdcCheck (s : State) (t a b c : Nat) : (s.mark t a b c).tdcCheck = s.tdcCheck := by unfold State.mark; split <;> rfl
@[simp] theorem State.mark_ddr (s : State) (t a b c : Nat) : (s.mark t a b c).ddr = s.ddr := by unfold State.mark; split <;> rfl
@[simp] theorem State.mark_nfs (s : State) (t a b c : Nat) : (s.mark t a b c).nfs = s.nfs := by unfold State.mark; split <;> rfl
@[simp] theorem State.mark_powerGood (s : State) (t a b c : Nat) : (s.mark t a b c).powerGood = s.powerGood := by unfold State.mark; split <;> rfl
@[simp] theorem State.mark_resetLow (s : State) (t a b c : Nat) : (s.mark t a b c).resetLow = s.resetLow := by unfold State.mark; split <;> rfl
@[simp] theorem State.mark_clk (s : State) (t a b c : Nat) : (s.mark t a b c).clk = s.clk := by unfold State.mark; split <;> rfl
@[simp] theorem State.mark_enabledIn (s : State) (t a b c : Nat) : (s.mark t a b c).enabledIn = s.enabledIn := by unfold State.mark; split <;> rfl
@[simp] theorem State.mark_enableStep (s : State) (t a b c : Nat) : (s.mark t a b c).enableStep = s.enableStep := by unfold State.mark; split <;> rfl
@[simp] theorem State.mark_hk (s : State) (t a b c : Nat) : (s.mark t a b c).hk = s.hk := by unfold State.mark; split <;> rfl
@[simp] theorem State.mark_pairs (s : State) (t a b c : Nat) : (s.mark t a b c).pairs = s.pairs := by unfold State.mark; split <;> rfl
@[simp] theorem State.mark_pwm (s : State) (t a b c : Nat) : (s.mark t a b c).pwm = s.pwm := by unfold State.mark; split <;> rfl
@[simp] theorem State.mark_hkAt (s : State) (t a b c : Nat) : (s.mark t a b c).hkAt = s.hkAt := by unfold State.mark; split <;> rfl
@[simp] theorem State.mark_powered (s : State) (t a b c : Nat) : (s.mark t a b c).powered = s.powered := by unfold State.mark; split <;> rfl
@[simp] theorem State.mark_hotLost (s : State) (t a b c : Nat) : (s.mark t a b c).hotLost = s.hotLost := by unfold State.mark; split <;> rfl
@[simp] theorem State.mark_disp (s : State) (t a b c : Nat) : (s.mark t a b c).disp = s.disp := by unfold State.mark; split <;> rfl
@[simp] theorem State.mark_dma (s : State) (t a b c : Nat) : (s.mark t a b c).dma = s.dma := by unfold State.mark; split <;> rfl
@[simp] theorem State.mark_dmaMem (s : State) (t a b c : Nat) : (s.mark t a b c).dmaMem = s.dmaMem := by unfold State.mark; split <;> rfl
@[simp] theorem State.mark_eth (s : State) (t a b c : Nat) : (s.mark t a b c).eth = s.eth := by unfold State.mark; split <;> rfl
@[simp] theorem State.mark_strs (s : State) (t a b c : Nat) : (s.mark t a b c).strs = s.strs := by unfold State.mark; split <;> rfl
@[simp] theorem State.mark_access (s : State) (t a b c : Nat) : (s.mark t a b c).access = s.access := by unfold State.mark; split <;> rfl
@[simp] theorem State.mark_fcol (s : State) (t a b c : Nat) : (s.mark t a b c).fcol = s.fcol := by unfold State.mark; split <;> rfl
@[simp] theorem State.mark_aliveRuns (s : State) (t a b c : Nat) : (s.mark t a b c).aliveRuns = s.aliveRuns := by unfold State.mark; split <;> rfl
@[simp] theorem State.mark_alive (s : State) (t a b c : Nat) : (s.mark t a b c).alive = s.alive := by unfold State.mark; split <;> rfl
@[simp] theorem State.mark_controlLost (s : State) (t a b c : Nat) : (s.mark t a b c).controlLost = s.controlLost := by unfold State.mark; split <;> rfl
@[simp] theorem State.mark_beatsMissed (s : State) (t a b c : Nat) : (s.mark t a b c).beatsMissed = s.beatsMissed := by unfold State.mark; split <;> rfl
@[simp] theorem State.mark_mbox (s : State) (t a b c : Nat) : (s.mark t a b c).mbox = s.mbox := by unfold State.mark; split <;> rfl
@[simp] theorem State.mark_plans (s : State) (t a b c : Nat) : (s.mark t a b c).plans = s.plans := by unfold State.mark; split <;> rfl
@[simp] theorem State.mark_planCmds (s : State) (t a b c : Nat) : (s.mark t a b c).planCmds = s.planCmds := by unfold State.mark; split <;> rfl
@[simp] theorem State.mark_admissions (s : State) (t a b c : Nat) : (s.mark t a b c).admissions = s.admissions := by unfold State.mark; split <;> rfl
@[simp] theorem State.mark_energy (s : State) (t a b c : Nat) : (s.mark t a b c).energy = s.energy := by unfold State.mark; split <;> rfl
@[simp] theorem State.mark_ledger (s : State) (t a b c : Nat) : (s.mark t a b c).ledger = s.ledger := by unfold State.mark; split <;> rfl
@[simp] theorem State.mark_rails (s : State) (t a b c : Nat) : (s.mark t a b c).rails = s.rails := by unfold State.mark; split <;> rfl
@[simp] theorem State.mark_boot (s : State) (t a b c : Nat) : (s.mark t a b c).boot = s.boot := by unfold State.mark; split <;> rfl
@[simp] theorem State.mark_brokenPipes (s : State) (t a b c : Nat) : (s.mark t a b c).brokenPipes = s.brokenPipes := by unfold State.mark; split <;> rfl
@[simp] theorem State.mark_spi (s : State) (t a b c : Nat) : (s.mark t a b c).spi = s.spi := by unfold State.mark; split <;> rfl
@[simp] theorem State.mark_fuses (s : State) (t a b c : Nat) : (s.mark t a b c).fuses = s.fuses := by unfold State.mark; split <;> rfl
@[simp] theorem State.mark_fusedSvn (s : State) (t a b c : Nat) : (s.mark t a b c).fusedSvn = s.fusedSvn := by unfold State.mark; split <;> rfl
@[simp] theorem State.mark_keyHash (s : State) (t a b c : Nat) : (s.mark t a b c).keyHash = s.keyHash := by unfold State.mark; split <;> rfl
@[simp] theorem State.mark_hashIn (s : State) (t a b c : Nat) : (s.mark t a b c).hashIn = s.hashIn := by unfold State.mark; split <;> rfl
@[simp] theorem State.pulse_pending (s : State) (h n : Nat) : (s.pulse h n).pending = s.pending := by unfold State.pulse; dsimp only; split <;> rfl
@[simp] theorem State.pulse_part (s : State) (h n : Nat) : (s.pulse h n).part = s.part := by unfold State.pulse; dsimp only; split <;> rfl
@[simp] theorem State.pulse_suffixE (s : State) (h n : Nat) : (s.pulse h n).suffixE = s.suffixE := by unfold State.pulse; dsimp only; split <;> rfl
@[simp] theorem State.pulse_regs (s : State) (h n : Nat) : (s.pulse h n).regs = s.regs := by unfold State.pulse; dsimp only; split <;> rfl
@[simp] theorem State.pulse_live (s : State) (h n : Nat) : (s.pulse h n).live = s.live := by unfold State.pulse; dsimp only; split <;> rfl
@[simp] theorem State.pulse_tabS (s : State) (h n : Nat) : (s.pulse h n).tabS = s.tabS := by unfold State.pulse; dsimp only; split <;> rfl
@[simp] theorem State.pulse_tabL (s : State) (h n : Nat) : (s.pulse h n).tabL = s.tabL := by unfold State.pulse; dsimp only; split <;> rfl
@[simp] theorem State.pulse_force (s : State) (h n : Nat) : (s.pulse h n).force = s.force := by unfold State.pulse; dsimp only; split <;> rfl
@[simp] theorem State.pulse_tabF (s : State) (h n : Nat) : (s.pulse h n).tabF = s.tabF := by unfold State.pulse; dsimp only; split <;> rfl
@[simp] theorem State.pulse_locked (s : State) (h n : Nat) : (s.pulse h n).locked = s.locked := by unfold State.pulse; dsimp only; split <;> rfl
@[simp] theorem State.pulse_cap (s : State) (h n : Nat) : (s.pulse h n).cap = s.cap := by unfold State.pulse; dsimp only; split <;> rfl
@[simp] theorem State.pulse_flight (s : State) (h n : Nat) : (s.pulse h n).flight = s.flight := by unfold State.pulse; dsimp only; split <;> rfl
@[simp] theorem State.pulse_marks (s : State) (h n : Nat) : (s.pulse h n).marks = s.marks := by unfold State.pulse; dsimp only; split <;> rfl
@[simp] theorem State.pulse_drawn (s : State) (h n : Nat) : (s.pulse h n).drawn = s.drawn := by unfold State.pulse; dsimp only; split <;> rfl
@[simp] theorem State.pulse_link (s : State) (h n : Nat) : (s.pulse h n).link = s.link := by unfold State.pulse; dsimp only; split <;> rfl
@[simp] theorem State.pulse_acq (s : State) (h n : Nat) : (s.pulse h n).acq = s.acq := by unfold State.pulse; dsimp only; split <;> rfl
@[simp] theorem State.pulse_jrx (s : State) (h n : Nat) : (s.pulse h n).jrx = s.jrx := by unfold State.pulse; dsimp only; split <;> rfl
@[simp] theorem State.pulse_time (s : State) (h n : Nat) : (s.pulse h n).time = s.time := by unfold State.pulse; dsimp only; split <;> rfl
@[simp] theorem State.pulse_items (s : State) (h n : Nat) : (s.pulse h n).items = s.items := by unfold State.pulse; dsimp only; split <;> rfl
@[simp] theorem State.pulse_traceRing (s : State) (h n : Nat) : (s.pulse h n).traceRing = s.traceRing := by unfold State.pulse; dsimp only; split <;> rfl
@[simp] theorem State.pulse_codes (s : State) (h n : Nat) : (s.pulse h n).codes = s.codes := by unfold State.pulse; dsimp only; split <;> rfl
@[simp] theorem State.pulse_spares (s : State) (h n : Nat) : (s.pulse h n).spares = s.spares := by unfold State.pulse; dsimp only; split <;> rfl
@[simp] theorem State.pulse_stream (s : State) (h n : Nat) : (s.pulse h n).stream = s.stream := by unfold State.pulse; dsimp only; split <;> rfl
@[simp] theorem State.pulse_readData (s : State) (h n : Nat) : (s.pulse h n).readData = s.readData := by unfold State.pulse; dsimp only; split <;> rfl
@[simp] theorem State.pulse_wb (s : State) (h n : Nat) : (s.pulse h n).wb = s.wb := by unfold State.pulse; dsimp only; split <;> rfl
@[simp] theorem State.pulse_trg (s : State) (h n : Nat) : (s.pulse h n).trg = s.trg := by unfold State.pulse; dsimp only; split <;> rfl
@[simp] theorem State.pulse_trgTx (s : State) (h n : Nat) : (s.pulse h n).trgTx = s.trgTx := by unfold State.pulse; dsimp only; split <;> rfl
@[simp] theorem State.pulse_recs (s : State) (h n : Nat) : (s.pulse h n).recs = s.recs := by unfold State.pulse; dsimp only; split <;> rfl
@[simp] theorem State.pulse_dens (s : State) (h n : Nat) : (s.pulse h n).dens = s.dens := by unfold State.pulse; dsimp only; split <;> rfl
@[simp] theorem State.pulse_cores (s : State) (h n : Nat) : (s.pulse h n).cores = s.cores := by unfold State.pulse; dsimp only; split <;> rfl
@[simp] theorem State.pulse_zooms (s : State) (h n : Nat) : (s.pulse h n).zooms = s.zooms := by unfold State.pulse; dsimp only; split <;> rfl
@[simp] theorem State.pulse_repairs (s : State) (h n : Nat) : (s.pulse h n).repairs = s.repairs := by unfold State.pulse; dsimp only; split <;> rfl
@[simp] theorem State.pulse_lead (s : State) (h n : Nat) : (s.pulse h n).lead = s.lead := by unfold State.pulse; dsimp only; split <;> rfl
@[simp] theorem State.pulse_tdc (s : State) (h n : Nat) : (s.pulse h n).tdc = s.tdc := by unfold State.pulse; dsimp only; split <;> rfl
@[simp] theorem State.pulse_iv (s : State) (h n : Nat) : (s.pulse h n).iv = s.iv := by unfold State.pulse; dsimp only; split <;> rfl
@[simp] theorem State.pulse_tdcCheck (s : State) (h n : Nat) : (s.pulse h n).tdcCheck = s.tdcCheck := by unfold State.pulse; dsimp only; split <;> rfl
@[simp] theorem State.pulse_ddr (s : State) (h n : Nat) : (s.pulse h n).ddr = s.ddr := by unfold State.pulse; dsimp only; split <;> rfl
@[simp] theorem State.pulse_nfs (s : State) (h n : Nat) : (s.pulse h n).nfs = s.nfs := by unfold State.pulse; dsimp only; split <;> rfl
@[simp] theorem State.pulse_powerGood (s : State) (h n : Nat) : (s.pulse h n).powerGood = s.powerGood := by unfold State.pulse; dsimp only; split <;> rfl
@[simp] theorem State.pulse_resetLow (s : State) (h n : Nat) : (s.pulse h n).resetLow = s.resetLow := by unfold State.pulse; dsimp only; split <;> rfl
@[simp] theorem State.pulse_clk (s : State) (h n : Nat) : (s.pulse h n).clk = s.clk := by unfold State.pulse; dsimp only; split <;> rfl
@[simp] theorem State.pulse_enabledIn (s : State) (h n : Nat) : (s.pulse h n).enabledIn = s.enabledIn := by unfold State.pulse; dsimp only; split <;> rfl
@[simp] theorem State.pulse_enableStep (s : State) (h n : Nat) : (s.pulse h n).enableStep = s.enableStep := by unfold State.pulse; dsimp only; split <;> rfl
@[simp] theorem State.pulse_hk (s : State) (h n : Nat) : (s.pulse h n).hk = s.hk := by unfold State.pulse; dsimp only; split <;> rfl
@[simp] theorem State.pulse_pairs (s : State) (h n : Nat) : (s.pulse h n).pairs = s.pairs := by unfold State.pulse; dsimp only; split <;> rfl
@[simp] theorem State.pulse_pwm (s : State) (h n : Nat) : (s.pulse h n).pwm = s.pwm := by unfold State.pulse; dsimp only; split <;> rfl
@[simp] theorem State.pulse_hkAt (s : State) (h n : Nat) : (s.pulse h n).hkAt = s.hkAt := by unfold State.pulse; dsimp only; split <;> rfl
@[simp] theorem State.pulse_powered (s : State) (h n : Nat) : (s.pulse h n).powered = s.powered := by unfold State.pulse; dsimp only; split <;> rfl
@[simp] theorem State.pulse_hotLost (s : State) (h n : Nat) : (s.pulse h n).hotLost = s.hotLost := by unfold State.pulse; dsimp only; split <;> rfl
@[simp] theorem State.pulse_disp (s : State) (h n : Nat) : (s.pulse h n).disp = s.disp := by unfold State.pulse; dsimp only; split <;> rfl
@[simp] theorem State.pulse_dma (s : State) (h n : Nat) : (s.pulse h n).dma = s.dma := by unfold State.pulse; dsimp only; split <;> rfl
@[simp] theorem State.pulse_dmaMem (s : State) (h n : Nat) : (s.pulse h n).dmaMem = s.dmaMem := by unfold State.pulse; dsimp only; split <;> rfl
@[simp] theorem State.pulse_eth (s : State) (h n : Nat) : (s.pulse h n).eth = s.eth := by unfold State.pulse; dsimp only; split <;> rfl
@[simp] theorem State.pulse_strs (s : State) (h n : Nat) : (s.pulse h n).strs = s.strs := by unfold State.pulse; dsimp only; split <;> rfl
@[simp] theorem State.pulse_access (s : State) (h n : Nat) : (s.pulse h n).access = s.access := by unfold State.pulse; dsimp only; split <;> rfl
@[simp] theorem State.pulse_fcol (s : State) (h n : Nat) : (s.pulse h n).fcol = s.fcol := by unfold State.pulse; dsimp only; split <;> rfl
@[simp] theorem State.pulse_aliveRuns (s : State) (h n : Nat) : (s.pulse h n).aliveRuns = s.aliveRuns := by unfold State.pulse; dsimp only; split <;> rfl
@[simp] theorem State.pulse_alive (s : State) (h n : Nat) : (s.pulse h n).alive = s.alive := by unfold State.pulse; dsimp only; split <;> rfl
@[simp] theorem State.pulse_controlLost (s : State) (h n : Nat) : (s.pulse h n).controlLost = s.controlLost := by unfold State.pulse; dsimp only; split <;> rfl
@[simp] theorem State.pulse_beatsMissed (s : State) (h n : Nat) : (s.pulse h n).beatsMissed = s.beatsMissed := by unfold State.pulse; dsimp only; split <;> rfl
@[simp] theorem State.pulse_mbox (s : State) (h n : Nat) : (s.pulse h n).mbox = s.mbox := by unfold State.pulse; dsimp only; split <;> rfl
@[simp] theorem State.pulse_plans (s : State) (h n : Nat) : (s.pulse h n).plans = s.plans := by unfold State.pulse; dsimp only; split <;> rfl
@[simp] theorem State.pulse_planCmds (s : State) (h n : Nat) : (s.pulse h n).planCmds = s.planCmds := by unfold State.pulse; dsimp only; split <;> rfl
@[simp] theorem State.pulse_admissions (s : State) (h n : Nat) : (s.pulse h n).admissions = s.admissions := by unfold State.pulse; dsimp only; split <;> rfl
@[simp] theorem State.pulse_energy (s : State) (h n : Nat) : (s.pulse h n).energy = s.energy := by unfold State.pulse; dsimp only; split <;> rfl
@[simp] theorem State.pulse_ledger (s : State) (h n : Nat) : (s.pulse h n).ledger = s.ledger := by unfold State.pulse; dsimp only; split <;> rfl
@[simp] theorem State.pulse_rails (s : State) (h n : Nat) : (s.pulse h n).rails = s.rails := by unfold State.pulse; dsimp only; split <;> rfl
@[simp] theorem State.pulse_boot (s : State) (h n : Nat) : (s.pulse h n).boot = s.boot := by unfold State.pulse; dsimp only; split <;> rfl
@[simp] theorem State.pulse_brokenPipes (s : State) (h n : Nat) : (s.pulse h n).brokenPipes = s.brokenPipes := by unfold State.pulse; dsimp only; split <;> rfl
@[simp] theorem State.pulse_spi (s : State) (h n : Nat) : (s.pulse h n).spi = s.spi := by unfold State.pulse; dsimp only; split <;> rfl
@[simp] theorem State.pulse_fuses (s : State) (h n : Nat) : (s.pulse h n).fuses = s.fuses := by unfold State.pulse; dsimp only; split <;> rfl
@[simp] theorem State.pulse_fusedSvn (s : State) (h n : Nat) : (s.pulse h n).fusedSvn = s.fusedSvn := by unfold State.pulse; dsimp only; split <;> rfl
@[simp] theorem State.pulse_keyHash (s : State) (h n : Nat) : (s.pulse h n).keyHash = s.keyHash := by unfold State.pulse; dsimp only; split <;> rfl
@[simp] theorem State.pulse_hashIn (s : State) (h n : Nat) : (s.pulse h n).hashIn = s.hashIn := by unfold State.pulse; dsimp only; split <;> rfl
@[simp] theorem State.putBoot_pending (s : State) (h a : Nat) (l : List Byte) : (s.putBoot h a l).pending = s.pending := by unfold State.putBoot; dsimp only; split <;> rfl
@[simp] theorem State.putBoot_part (s : State) (h a : Nat) (l : List Byte) : (s.putBoot h a l).part = s.part := by unfold State.putBoot; dsimp only; split <;> rfl
@[simp] theorem State.putBoot_suffixE (s : State) (h a : Nat) (l : List Byte) : (s.putBoot h a l).suffixE = s.suffixE := by unfold State.putBoot; dsimp only; split <;> rfl
@[simp] theorem State.putBoot_regs (s : State) (h a : Nat) (l : List Byte) : (s.putBoot h a l).regs = s.regs := by unfold State.putBoot; dsimp only; split <;> rfl
@[simp] theorem State.putBoot_live (s : State) (h a : Nat) (l : List Byte) : (s.putBoot h a l).live = s.live := by unfold State.putBoot; dsimp only; split <;> rfl
@[simp] theorem State.putBoot_tabS (s : State) (h a : Nat) (l : List Byte) : (s.putBoot h a l).tabS = s.tabS := by unfold State.putBoot; dsimp only; split <;> rfl
@[simp] theorem State.putBoot_tabL (s : State) (h a : Nat) (l : List Byte) : (s.putBoot h a l).tabL = s.tabL := by unfold State.putBoot; dsimp only; split <;> rfl
@[simp] theorem State.putBoot_force (s : State) (h a : Nat) (l : List Byte) : (s.putBoot h a l).force = s.force := by unfold State.putBoot; dsimp only; split <;> rfl
@[simp] theorem State.putBoot_tabF (s : State) (h a : Nat) (l : List Byte) : (s.putBoot h a l).tabF = s.tabF := by unfold State.putBoot; dsimp only; split <;> rfl
@[simp] theorem State.putBoot_locked (s : State) (h a : Nat) (l : List Byte) : (s.putBoot h a l).locked = s.locked := by unfold State.putBoot; dsimp only; split <;> rfl
@[simp] theorem State.putBoot_flight (s : State) (h a : Nat) (l : List Byte) : (s.putBoot h a l).flight = s.flight := by unfold State.putBoot; dsimp only; split <;> rfl
@[simp] theorem State.putBoot_marks (s : State) (h a : Nat) (l : List Byte) : (s.putBoot h a l).marks = s.marks := by unfold State.putBoot; dsimp only; split <;> rfl
@[simp] theorem State.putBoot_drawn (s : State) (h a : Nat) (l : List Byte) : (s.putBoot h a l).drawn = s.drawn := by unfold State.putBoot; dsimp only; split <;> rfl
@[simp] theorem State.putBoot_link (s : State) (h a : Nat) (l : List Byte) : (s.putBoot h a l).link = s.link := by unfold State.putBoot; dsimp only; split <;> rfl
@[simp] theorem State.putBoot_acq (s : State) (h a : Nat) (l : List Byte) : (s.putBoot h a l).acq = s.acq := by unfold State.putBoot; dsimp only; split <;> rfl
@[simp] theorem State.putBoot_jrx (s : State) (h a : Nat) (l : List Byte) : (s.putBoot h a l).jrx = s.jrx := by unfold State.putBoot; dsimp only; split <;> rfl
@[simp] theorem State.putBoot_time (s : State) (h a : Nat) (l : List Byte) : (s.putBoot h a l).time = s.time := by unfold State.putBoot; dsimp only; split <;> rfl
@[simp] theorem State.putBoot_items (s : State) (h a : Nat) (l : List Byte) : (s.putBoot h a l).items = s.items := by unfold State.putBoot; dsimp only; split <;> rfl
@[simp] theorem State.putBoot_traceRing (s : State) (h a : Nat) (l : List Byte) : (s.putBoot h a l).traceRing = s.traceRing := by unfold State.putBoot; dsimp only; split <;> rfl
@[simp] theorem State.putBoot_credits (s : State) (h a : Nat) (l : List Byte) : (s.putBoot h a l).credits = s.credits := by unfold State.putBoot; dsimp only; split <;> rfl
@[simp] theorem State.putBoot_lineOvf (s : State) (h a : Nat) (l : List Byte) : (s.putBoot h a l).lineOvf = s.lineOvf := by unfold State.putBoot; dsimp only; split <;> rfl
@[simp] theorem State.putBoot_codes (s : State) (h a : Nat) (l : List Byte) : (s.putBoot h a l).codes = s.codes := by unfold State.putBoot; dsimp only; split <;> rfl
@[simp] theorem State.putBoot_spares (s : State) (h a : Nat) (l : List Byte) : (s.putBoot h a l).spares = s.spares := by unfold State.putBoot; dsimp only; split <;> rfl
@[simp] theorem State.putBoot_stream (s : State) (h a : Nat) (l : List Byte) : (s.putBoot h a l).stream = s.stream := by unfold State.putBoot; dsimp only; split <;> rfl
@[simp] theorem State.putBoot_readData (s : State) (h a : Nat) (l : List Byte) : (s.putBoot h a l).readData = s.readData := by unfold State.putBoot; dsimp only; split <;> rfl
@[simp] theorem State.putBoot_wb (s : State) (h a : Nat) (l : List Byte) : (s.putBoot h a l).wb = s.wb := by unfold State.putBoot; dsimp only; split <;> rfl
@[simp] theorem State.putBoot_trg (s : State) (h a : Nat) (l : List Byte) : (s.putBoot h a l).trg = s.trg := by unfold State.putBoot; dsimp only; split <;> rfl
@[simp] theorem State.putBoot_trgTx (s : State) (h a : Nat) (l : List Byte) : (s.putBoot h a l).trgTx = s.trgTx := by unfold State.putBoot; dsimp only; split <;> rfl
@[simp] theorem State.putBoot_recs (s : State) (h a : Nat) (l : List Byte) : (s.putBoot h a l).recs = s.recs := by unfold State.putBoot; dsimp only; split <;> rfl
@[simp] theorem State.putBoot_dens (s : State) (h a : Nat) (l : List Byte) : (s.putBoot h a l).dens = s.dens := by unfold State.putBoot; dsimp only; split <;> rfl
@[simp] theorem State.putBoot_cores (s : State) (h a : Nat) (l : List Byte) : (s.putBoot h a l).cores = s.cores := by unfold State.putBoot; dsimp only; split <;> rfl
@[simp] theorem State.putBoot_zooms (s : State) (h a : Nat) (l : List Byte) : (s.putBoot h a l).zooms = s.zooms := by unfold State.putBoot; dsimp only; split <;> rfl
@[simp] theorem State.putBoot_repairs (s : State) (h a : Nat) (l : List Byte) : (s.putBoot h a l).repairs = s.repairs := by unfold State.putBoot; dsimp only; split <;> rfl
@[simp] theorem State.putBoot_lead (s : State) (h a : Nat) (l : List Byte) : (s.putBoot h a l).lead = s.lead := by unfold State.putBoot; dsimp only; split <;> rfl
@[simp] theorem State.putBoot_tdc (s : State) (h a : Nat) (l : List Byte) : (s.putBoot h a l).tdc = s.tdc := by unfold State.putBoot; dsimp only; split <;> rfl
@[simp] theorem State.putBoot_iv (s : State) (h a : Nat) (l : List Byte) : (s.putBoot h a l).iv = s.iv := by unfold State.putBoot; dsimp only; split <;> rfl
@[simp] theorem State.putBoot_tdcCheck (s : State) (h a : Nat) (l : List Byte) : (s.putBoot h a l).tdcCheck = s.tdcCheck := by unfold State.putBoot; dsimp only; split <;> rfl
@[simp] theorem State.putBoot_ddr (s : State) (h a : Nat) (l : List Byte) : (s.putBoot h a l).ddr = s.ddr := by unfold State.putBoot; dsimp only; split <;> rfl
@[simp] theorem State.putBoot_nfs (s : State) (h a : Nat) (l : List Byte) : (s.putBoot h a l).nfs = s.nfs := by unfold State.putBoot; dsimp only; split <;> rfl
@[simp] theorem State.putBoot_powerGood (s : State) (h a : Nat) (l : List Byte) : (s.putBoot h a l).powerGood = s.powerGood := by unfold State.putBoot; dsimp only; split <;> rfl
@[simp] theorem State.putBoot_resetLow (s : State) (h a : Nat) (l : List Byte) : (s.putBoot h a l).resetLow = s.resetLow := by unfold State.putBoot; dsimp only; split <;> rfl
@[simp] theorem State.putBoot_clk (s : State) (h a : Nat) (l : List Byte) : (s.putBoot h a l).clk = s.clk := by unfold State.putBoot; dsimp only; split <;> rfl
@[simp] theorem State.putBoot_enabledIn (s : State) (h a : Nat) (l : List Byte) : (s.putBoot h a l).enabledIn = s.enabledIn := by unfold State.putBoot; dsimp only; split <;> rfl
@[simp] theorem State.putBoot_enableStep (s : State) (h a : Nat) (l : List Byte) : (s.putBoot h a l).enableStep = s.enableStep := by unfold State.putBoot; dsimp only; split <;> rfl
@[simp] theorem State.putBoot_hk (s : State) (h a : Nat) (l : List Byte) : (s.putBoot h a l).hk = s.hk := by unfold State.putBoot; dsimp only; split <;> rfl
@[simp] theorem State.putBoot_pairs (s : State) (h a : Nat) (l : List Byte) : (s.putBoot h a l).pairs = s.pairs := by unfold State.putBoot; dsimp only; split <;> rfl
@[simp] theorem State.putBoot_pwm (s : State) (h a : Nat) (l : List Byte) : (s.putBoot h a l).pwm = s.pwm := by unfold State.putBoot; dsimp only; split <;> rfl
@[simp] theorem State.putBoot_hkAt (s : State) (h a : Nat) (l : List Byte) : (s.putBoot h a l).hkAt = s.hkAt := by unfold State.putBoot; dsimp only; split <;> rfl
@[simp] theorem State.putBoot_powered (s : State) (h a : Nat) (l : List Byte) : (s.putBoot h a l).powered = s.powered := by unfold State.putBoot; dsimp only; split <;> rfl
@[simp] theorem State.putBoot_hotLost (s : State) (h a : Nat) (l : List Byte) : (s.putBoot h a l).hotLost = s.hotLost := by unfold State.putBoot; dsimp only; split <;> rfl
@[simp] theorem State.putBoot_disp (s : State) (h a : Nat) (l : List Byte) : (s.putBoot h a l).disp = s.disp := by unfold State.putBoot; dsimp only; split <;> rfl
@[simp] theorem State.putBoot_dma (s : State) (h a : Nat) (l : List Byte) : (s.putBoot h a l).dma = s.dma := by unfold State.putBoot; dsimp only; split <;> rfl
@[simp] theorem State.putBoot_dmaMem (s : State) (h a : Nat) (l : List Byte) : (s.putBoot h a l).dmaMem = s.dmaMem := by unfold State.putBoot; dsimp only; split <;> rfl
@[simp] theorem State.putBoot_eth (s : State) (h a : Nat) (l : List Byte) : (s.putBoot h a l).eth = s.eth := by unfold State.putBoot; dsimp only; split <;> rfl
@[simp] theorem State.putBoot_strs (s : State) (h a : Nat) (l : List Byte) : (s.putBoot h a l).strs = s.strs := by unfold State.putBoot; dsimp only; split <;> rfl
@[simp] theorem State.putBoot_access (s : State) (h a : Nat) (l : List Byte) : (s.putBoot h a l).access = s.access := by unfold State.putBoot; dsimp only; split <;> rfl
@[simp] theorem State.putBoot_fcol (s : State) (h a : Nat) (l : List Byte) : (s.putBoot h a l).fcol = s.fcol := by unfold State.putBoot; dsimp only; split <;> rfl
@[simp] theorem State.putBoot_aliveRuns (s : State) (h a : Nat) (l : List Byte) : (s.putBoot h a l).aliveRuns = s.aliveRuns := by unfold State.putBoot; dsimp only; split <;> rfl
@[simp] theorem State.putBoot_alive (s : State) (h a : Nat) (l : List Byte) : (s.putBoot h a l).alive = s.alive := by unfold State.putBoot; dsimp only; split <;> rfl
@[simp] theorem State.putBoot_controlLost (s : State) (h a : Nat) (l : List Byte) : (s.putBoot h a l).controlLost = s.controlLost := by unfold State.putBoot; dsimp only; split <;> rfl
@[simp] theorem State.putBoot_beatsMissed (s : State) (h a : Nat) (l : List Byte) : (s.putBoot h a l).beatsMissed = s.beatsMissed := by unfold State.putBoot; dsimp only; split <;> rfl
@[simp] theorem State.putBoot_mbox (s : State) (h a : Nat) (l : List Byte) : (s.putBoot h a l).mbox = s.mbox := by unfold State.putBoot; dsimp only; split <;> rfl
@[simp] theorem State.putBoot_plans (s : State) (h a : Nat) (l : List Byte) : (s.putBoot h a l).plans = s.plans := by unfold State.putBoot; dsimp only; split <;> rfl
@[simp] theorem State.putBoot_planCmds (s : State) (h a : Nat) (l : List Byte) : (s.putBoot h a l).planCmds = s.planCmds := by unfold State.putBoot; dsimp only; split <;> rfl
@[simp] theorem State.putBoot_admissions (s : State) (h a : Nat) (l : List Byte) : (s.putBoot h a l).admissions = s.admissions := by unfold State.putBoot; dsimp only; split <;> rfl
@[simp] theorem State.putBoot_energy (s : State) (h a : Nat) (l : List Byte) : (s.putBoot h a l).energy = s.energy := by unfold State.putBoot; dsimp only; split <;> rfl
@[simp] theorem State.putBoot_ledger (s : State) (h a : Nat) (l : List Byte) : (s.putBoot h a l).ledger = s.ledger := by unfold State.putBoot; dsimp only; split <;> rfl
@[simp] theorem State.putBoot_rails (s : State) (h a : Nat) (l : List Byte) : (s.putBoot h a l).rails = s.rails := by unfold State.putBoot; dsimp only; split <;> rfl
@[simp] theorem State.putBoot_boot (s : State) (h a : Nat) (l : List Byte) : (s.putBoot h a l).boot = s.boot := by unfold State.putBoot; dsimp only; split <;> rfl
@[simp] theorem State.putBoot_brokenPipes (s : State) (h a : Nat) (l : List Byte) : (s.putBoot h a l).brokenPipes = s.brokenPipes := by unfold State.putBoot; dsimp only; split <;> rfl
@[simp] theorem State.putBoot_spi (s : State) (h a : Nat) (l : List Byte) : (s.putBoot h a l).spi = s.spi := by unfold State.putBoot; dsimp only; split <;> rfl
@[simp] theorem State.putBoot_fuses (s : State) (h a : Nat) (l : List Byte) : (s.putBoot h a l).fuses = s.fuses := by unfold State.putBoot; dsimp only; split <;> rfl
@[simp] theorem State.putBoot_fusedSvn (s : State) (h a : Nat) (l : List Byte) : (s.putBoot h a l).fusedSvn = s.fusedSvn := by unfold State.putBoot; dsimp only; split <;> rfl
@[simp] theorem State.putBoot_keyHash (s : State) (h a : Nat) (l : List Byte) : (s.putBoot h a l).keyHash = s.keyHash := by unfold State.putBoot; dsimp only; split <;> rfl
@[simp] theorem State.putBoot_hashIn (s : State) (h a : Nat) (l : List Byte) : (s.putBoot h a l).hashIn = s.hashIn := by unfold State.putBoot; dsimp only; split <;> rfl
@[simp] theorem State.setBytes_pending (s : State) (h a : Nat) (l : List Byte) : (s.setBytes h a l).pending = s.pending := by
  unfold State.setBytes
  dsimp only
  split
  · simp
  · rw [foldl_keeps State.pending]
    · simp
    · intro s x; split <;> simp
@[simp] theorem State.setBytes_part (s : State) (h a : Nat) (l : List Byte) : (s.setBytes h a l).part = s.part := by
  unfold State.setBytes
  dsimp only
  split
  · simp
  · rw [foldl_keeps State.part]
    · simp
    · intro s x; split <;> simp
@[simp] theorem State.setBytes_suffixE (s : State) (h a : Nat) (l : List Byte) : (s.setBytes h a l).suffixE = s.suffixE := by
  unfold State.setBytes
  dsimp only
  split
  · simp
  · rw [foldl_keeps State.suffixE]
    · simp
    · intro s x; split <;> simp
@[simp] theorem State.setBytes_regs (s : State) (h a : Nat) (l : List Byte) : (s.setBytes h a l).regs = s.regs := by
  unfold State.setBytes
  dsimp only
  split
  · simp
  · rw [foldl_keeps State.regs]
    · simp
    · intro s x; split <;> simp
@[simp] theorem State.setBytes_live (s : State) (h a : Nat) (l : List Byte) : (s.setBytes h a l).live = s.live := by
  unfold State.setBytes
  dsimp only
  split
  · simp
  · rw [foldl_keeps State.live]
    · simp
    · intro s x; split <;> simp
@[simp] theorem State.setBytes_tabS (s : State) (h a : Nat) (l : List Byte) : (s.setBytes h a l).tabS = s.tabS := by
  unfold State.setBytes
  dsimp only
  split
  · simp
  · rw [foldl_keeps State.tabS]
    · simp
    · intro s x; split <;> simp
@[simp] theorem State.setBytes_tabL (s : State) (h a : Nat) (l : List Byte) : (s.setBytes h a l).tabL = s.tabL := by
  unfold State.setBytes
  dsimp only
  split
  · simp
  · rw [foldl_keeps State.tabL]
    · simp
    · intro s x; split <;> simp
@[simp] theorem State.setBytes_force (s : State) (h a : Nat) (l : List Byte) : (s.setBytes h a l).force = s.force := by
  unfold State.setBytes
  dsimp only
  split
  · simp
  · rw [foldl_keeps State.force]
    · simp
    · intro s x; split <;> simp
@[simp] theorem State.setBytes_tabF (s : State) (h a : Nat) (l : List Byte) : (s.setBytes h a l).tabF = s.tabF := by
  unfold State.setBytes
  dsimp only
  split
  · simp
  · rw [foldl_keeps State.tabF]
    · simp
    · intro s x; split <;> simp
@[simp] theorem State.setBytes_locked (s : State) (h a : Nat) (l : List Byte) : (s.setBytes h a l).locked = s.locked := by
  unfold State.setBytes
  dsimp only
  split
  · simp
  · rw [foldl_keeps State.locked]
    · simp
    · intro s x; split <;> simp
@[simp] theorem State.setBytes_flight (s : State) (h a : Nat) (l : List Byte) : (s.setBytes h a l).flight = s.flight := by
  unfold State.setBytes
  dsimp only
  split
  · simp
  · rw [foldl_keeps State.flight]
    · simp
    · intro s x; split <;> simp
@[simp] theorem State.setBytes_marks (s : State) (h a : Nat) (l : List Byte) : (s.setBytes h a l).marks = s.marks := by
  unfold State.setBytes
  dsimp only
  split
  · simp
  · rw [foldl_keeps State.marks]
    · simp
    · intro s x; split <;> simp
@[simp] theorem State.setBytes_drawn (s : State) (h a : Nat) (l : List Byte) : (s.setBytes h a l).drawn = s.drawn := by
  unfold State.setBytes
  dsimp only
  split
  · simp
  · rw [foldl_keeps State.drawn]
    · simp
    · intro s x; split <;> simp
@[simp] theorem State.setBytes_link (s : State) (h a : Nat) (l : List Byte) : (s.setBytes h a l).link = s.link := by
  unfold State.setBytes
  dsimp only
  split
  · simp
  · rw [foldl_keeps State.link]
    · simp
    · intro s x; split <;> simp
@[simp] theorem State.setBytes_acq (s : State) (h a : Nat) (l : List Byte) : (s.setBytes h a l).acq = s.acq := by
  unfold State.setBytes
  dsimp only
  split
  · simp
  · rw [foldl_keeps State.acq]
    · simp
    · intro s x; split <;> simp
@[simp] theorem State.setBytes_jrx (s : State) (h a : Nat) (l : List Byte) : (s.setBytes h a l).jrx = s.jrx := by
  unfold State.setBytes
  dsimp only
  split
  · simp
  · rw [foldl_keeps State.jrx]
    · simp
    · intro s x; split <;> simp
@[simp] theorem State.setBytes_time (s : State) (h a : Nat) (l : List Byte) : (s.setBytes h a l).time = s.time := by
  unfold State.setBytes
  dsimp only
  split
  · simp
  · rw [foldl_keeps State.time]
    · simp
    · intro s x; split <;> simp
@[simp] theorem State.setBytes_items (s : State) (h a : Nat) (l : List Byte) : (s.setBytes h a l).items = s.items := by
  unfold State.setBytes
  dsimp only
  split
  · simp
  · rw [foldl_keeps State.items]
    · simp
    · intro s x; split <;> simp
@[simp] theorem State.setBytes_traceRing (s : State) (h a : Nat) (l : List Byte) : (s.setBytes h a l).traceRing = s.traceRing := by
  unfold State.setBytes
  dsimp only
  split
  · simp
  · rw [foldl_keeps State.traceRing]
    · simp
    · intro s x; split <;> simp
@[simp] theorem State.setBytes_credits (s : State) (h a : Nat) (l : List Byte) : (s.setBytes h a l).credits = s.credits := by
  unfold State.setBytes
  dsimp only
  split
  · simp
  · rw [foldl_keeps State.credits]
    · simp
    · intro s x; split <;> simp
@[simp] theorem State.setBytes_lineOvf (s : State) (h a : Nat) (l : List Byte) : (s.setBytes h a l).lineOvf = s.lineOvf := by
  unfold State.setBytes
  dsimp only
  split
  · simp
  · rw [foldl_keeps State.lineOvf]
    · simp
    · intro s x; split <;> simp
@[simp] theorem State.setBytes_codes (s : State) (h a : Nat) (l : List Byte) : (s.setBytes h a l).codes = s.codes := by
  unfold State.setBytes
  dsimp only
  split
  · simp
  · rw [foldl_keeps State.codes]
    · simp
    · intro s x; split <;> simp
@[simp] theorem State.setBytes_spares (s : State) (h a : Nat) (l : List Byte) : (s.setBytes h a l).spares = s.spares := by
  unfold State.setBytes
  dsimp only
  split
  · simp
  · rw [foldl_keeps State.spares]
    · simp
    · intro s x; split <;> simp
@[simp] theorem State.setBytes_stream (s : State) (h a : Nat) (l : List Byte) : (s.setBytes h a l).stream = s.stream := by
  unfold State.setBytes
  dsimp only
  split
  · simp
  · rw [foldl_keeps State.stream]
    · simp
    · intro s x; split <;> simp
@[simp] theorem State.setBytes_readData (s : State) (h a : Nat) (l : List Byte) : (s.setBytes h a l).readData = s.readData := by
  unfold State.setBytes
  dsimp only
  split
  · simp
  · rw [foldl_keeps State.readData]
    · simp
    · intro s x; split <;> simp
@[simp] theorem State.setBytes_wb (s : State) (h a : Nat) (l : List Byte) : (s.setBytes h a l).wb = s.wb := by
  unfold State.setBytes
  dsimp only
  split
  · simp
  · rw [foldl_keeps State.wb]
    · simp
    · intro s x; split <;> simp
@[simp] theorem State.setBytes_trg (s : State) (h a : Nat) (l : List Byte) : (s.setBytes h a l).trg = s.trg := by
  unfold State.setBytes
  dsimp only
  split
  · simp
  · rw [foldl_keeps State.trg]
    · simp
    · intro s x; split <;> simp
@[simp] theorem State.setBytes_trgTx (s : State) (h a : Nat) (l : List Byte) : (s.setBytes h a l).trgTx = s.trgTx := by
  unfold State.setBytes
  dsimp only
  split
  · simp
  · rw [foldl_keeps State.trgTx]
    · simp
    · intro s x; split <;> simp
@[simp] theorem State.setBytes_recs (s : State) (h a : Nat) (l : List Byte) : (s.setBytes h a l).recs = s.recs := by
  unfold State.setBytes
  dsimp only
  split
  · simp
  · rw [foldl_keeps State.recs]
    · simp
    · intro s x; split <;> simp
@[simp] theorem State.setBytes_dens (s : State) (h a : Nat) (l : List Byte) : (s.setBytes h a l).dens = s.dens := by
  unfold State.setBytes
  dsimp only
  split
  · simp
  · rw [foldl_keeps State.dens]
    · simp
    · intro s x; split <;> simp
@[simp] theorem State.setBytes_cores (s : State) (h a : Nat) (l : List Byte) : (s.setBytes h a l).cores = s.cores := by
  unfold State.setBytes
  dsimp only
  split
  · simp
  · rw [foldl_keeps State.cores]
    · simp
    · intro s x; split <;> simp
@[simp] theorem State.setBytes_zooms (s : State) (h a : Nat) (l : List Byte) : (s.setBytes h a l).zooms = s.zooms := by
  unfold State.setBytes
  dsimp only
  split
  · simp
  · rw [foldl_keeps State.zooms]
    · simp
    · intro s x; split <;> simp
@[simp] theorem State.setBytes_repairs (s : State) (h a : Nat) (l : List Byte) : (s.setBytes h a l).repairs = s.repairs := by
  unfold State.setBytes
  dsimp only
  split
  · simp
  · rw [foldl_keeps State.repairs]
    · simp
    · intro s x; split <;> simp
@[simp] theorem State.setBytes_lead (s : State) (h a : Nat) (l : List Byte) : (s.setBytes h a l).lead = s.lead := by
  unfold State.setBytes
  dsimp only
  split
  · simp
  · rw [foldl_keeps State.lead]
    · simp
    · intro s x; split <;> simp
@[simp] theorem State.setBytes_tdc (s : State) (h a : Nat) (l : List Byte) : (s.setBytes h a l).tdc = s.tdc := by
  unfold State.setBytes
  dsimp only
  split
  · simp
  · rw [foldl_keeps State.tdc]
    · simp
    · intro s x; split <;> simp
@[simp] theorem State.setBytes_iv (s : State) (h a : Nat) (l : List Byte) : (s.setBytes h a l).iv = s.iv := by
  unfold State.setBytes
  dsimp only
  split
  · simp
  · rw [foldl_keeps State.iv]
    · simp
    · intro s x; split <;> simp
@[simp] theorem State.setBytes_tdcCheck (s : State) (h a : Nat) (l : List Byte) : (s.setBytes h a l).tdcCheck = s.tdcCheck := by
  unfold State.setBytes
  dsimp only
  split
  · simp
  · rw [foldl_keeps State.tdcCheck]
    · simp
    · intro s x; split <;> simp
@[simp] theorem State.setBytes_ddr (s : State) (h a : Nat) (l : List Byte) : (s.setBytes h a l).ddr = s.ddr := by
  unfold State.setBytes
  dsimp only
  split
  · simp
  · rw [foldl_keeps State.ddr]
    · simp
    · intro s x; split <;> simp
@[simp] theorem State.setBytes_nfs (s : State) (h a : Nat) (l : List Byte) : (s.setBytes h a l).nfs = s.nfs := by
  unfold State.setBytes
  dsimp only
  split
  · simp
  · rw [foldl_keeps State.nfs]
    · simp
    · intro s x; split <;> simp
@[simp] theorem State.setBytes_powerGood (s : State) (h a : Nat) (l : List Byte) : (s.setBytes h a l).powerGood = s.powerGood := by
  unfold State.setBytes
  dsimp only
  split
  · simp
  · rw [foldl_keeps State.powerGood]
    · simp
    · intro s x; split <;> simp
@[simp] theorem State.setBytes_resetLow (s : State) (h a : Nat) (l : List Byte) : (s.setBytes h a l).resetLow = s.resetLow := by
  unfold State.setBytes
  dsimp only
  split
  · simp
  · rw [foldl_keeps State.resetLow]
    · simp
    · intro s x; split <;> simp
@[simp] theorem State.setBytes_clk (s : State) (h a : Nat) (l : List Byte) : (s.setBytes h a l).clk = s.clk := by
  unfold State.setBytes
  dsimp only
  split
  · simp
  · rw [foldl_keeps State.clk]
    · simp
    · intro s x; split <;> simp
@[simp] theorem State.setBytes_enabledIn (s : State) (h a : Nat) (l : List Byte) : (s.setBytes h a l).enabledIn = s.enabledIn := by
  unfold State.setBytes
  dsimp only
  split
  · simp
  · rw [foldl_keeps State.enabledIn]
    · simp
    · intro s x; split <;> simp
@[simp] theorem State.setBytes_enableStep (s : State) (h a : Nat) (l : List Byte) : (s.setBytes h a l).enableStep = s.enableStep := by
  unfold State.setBytes
  dsimp only
  split
  · simp
  · rw [foldl_keeps State.enableStep]
    · simp
    · intro s x; split <;> simp
@[simp] theorem State.setBytes_hk (s : State) (h a : Nat) (l : List Byte) : (s.setBytes h a l).hk = s.hk := by
  unfold State.setBytes
  dsimp only
  split
  · simp
  · rw [foldl_keeps State.hk]
    · simp
    · intro s x; split <;> simp
@[simp] theorem State.setBytes_pairs (s : State) (h a : Nat) (l : List Byte) : (s.setBytes h a l).pairs = s.pairs := by
  unfold State.setBytes
  dsimp only
  split
  · simp
  · rw [foldl_keeps State.pairs]
    · simp
    · intro s x; split <;> simp
@[simp] theorem State.setBytes_pwm (s : State) (h a : Nat) (l : List Byte) : (s.setBytes h a l).pwm = s.pwm := by
  unfold State.setBytes
  dsimp only
  split
  · simp
  · rw [foldl_keeps State.pwm]
    · simp
    · intro s x; split <;> simp
@[simp] theorem State.setBytes_hkAt (s : State) (h a : Nat) (l : List Byte) : (s.setBytes h a l).hkAt = s.hkAt := by
  unfold State.setBytes
  dsimp only
  split
  · simp
  · rw [foldl_keeps State.hkAt]
    · simp
    · intro s x; split <;> simp
@[simp] theorem State.setBytes_powered (s : State) (h a : Nat) (l : List Byte) : (s.setBytes h a l).powered = s.powered := by
  unfold State.setBytes
  dsimp only
  split
  · simp
  · rw [foldl_keeps State.powered]
    · simp
    · intro s x; split <;> simp
@[simp] theorem State.setBytes_hotLost (s : State) (h a : Nat) (l : List Byte) : (s.setBytes h a l).hotLost = s.hotLost := by
  unfold State.setBytes
  dsimp only
  split
  · simp
  · rw [foldl_keeps State.hotLost]
    · simp
    · intro s x; split <;> simp
@[simp] theorem State.setBytes_disp (s : State) (h a : Nat) (l : List Byte) : (s.setBytes h a l).disp = s.disp := by
  unfold State.setBytes
  dsimp only
  split
  · simp
  · rw [foldl_keeps State.disp]
    · simp
    · intro s x; split <;> simp
@[simp] theorem State.setBytes_dma (s : State) (h a : Nat) (l : List Byte) : (s.setBytes h a l).dma = s.dma := by
  unfold State.setBytes
  dsimp only
  split
  · simp
  · rw [foldl_keeps State.dma]
    · simp
    · intro s x; split <;> simp
@[simp] theorem State.setBytes_dmaMem (s : State) (h a : Nat) (l : List Byte) : (s.setBytes h a l).dmaMem = s.dmaMem := by
  unfold State.setBytes
  dsimp only
  split
  · simp
  · rw [foldl_keeps State.dmaMem]
    · simp
    · intro s x; split <;> simp
@[simp] theorem State.setBytes_eth (s : State) (h a : Nat) (l : List Byte) : (s.setBytes h a l).eth = s.eth := by
  unfold State.setBytes
  dsimp only
  split
  · simp
  · rw [foldl_keeps State.eth]
    · simp
    · intro s x; split <;> simp
@[simp] theorem State.setBytes_strs (s : State) (h a : Nat) (l : List Byte) : (s.setBytes h a l).strs = s.strs := by
  unfold State.setBytes
  dsimp only
  split
  · simp
  · rw [foldl_keeps State.strs]
    · simp
    · intro s x; split <;> simp
@[simp] theorem State.setBytes_access (s : State) (h a : Nat) (l : List Byte) : (s.setBytes h a l).access = s.access := by
  unfold State.setBytes
  dsimp only
  split
  · simp
  · rw [foldl_keeps State.access]
    · simp
    · intro s x; split <;> simp
@[simp] theorem State.setBytes_fcol (s : State) (h a : Nat) (l : List Byte) : (s.setBytes h a l).fcol = s.fcol := by
  unfold State.setBytes
  dsimp only
  split
  · simp
  · rw [foldl_keeps State.fcol]
    · simp
    · intro s x; split <;> simp
@[simp] theorem State.setBytes_aliveRuns (s : State) (h a : Nat) (l : List Byte) : (s.setBytes h a l).aliveRuns = s.aliveRuns := by
  unfold State.setBytes
  dsimp only
  split
  · simp
  · rw [foldl_keeps State.aliveRuns]
    · simp
    · intro s x; split <;> simp
@[simp] theorem State.setBytes_alive (s : State) (h a : Nat) (l : List Byte) : (s.setBytes h a l).alive = s.alive := by
  unfold State.setBytes
  dsimp only
  split
  · simp
  · rw [foldl_keeps State.alive]
    · simp
    · intro s x; split <;> simp
@[simp] theorem State.setBytes_controlLost (s : State) (h a : Nat) (l : List Byte) : (s.setBytes h a l).controlLost = s.controlLost := by
  unfold State.setBytes
  dsimp only
  split
  · simp
  · rw [foldl_keeps State.controlLost]
    · simp
    · intro s x; split <;> simp
@[simp] theorem State.setBytes_beatsMissed (s : State) (h a : Nat) (l : List Byte) : (s.setBytes h a l).beatsMissed = s.beatsMissed := by
  unfold State.setBytes
  dsimp only
  split
  · simp
  · rw [foldl_keeps State.beatsMissed]
    · simp
    · intro s x; split <;> simp
@[simp] theorem State.setBytes_mbox (s : State) (h a : Nat) (l : List Byte) : (s.setBytes h a l).mbox = s.mbox := by
  unfold State.setBytes
  dsimp only
  split
  · simp
  · rw [foldl_keeps State.mbox]
    · simp
    · intro s x; split <;> simp
@[simp] theorem State.setBytes_plans (s : State) (h a : Nat) (l : List Byte) : (s.setBytes h a l).plans = s.plans := by
  unfold State.setBytes
  dsimp only
  split
  · simp
  · rw [foldl_keeps State.plans]
    · simp
    · intro s x; split <;> simp
@[simp] theorem State.setBytes_planCmds (s : State) (h a : Nat) (l : List Byte) : (s.setBytes h a l).planCmds = s.planCmds := by
  unfold State.setBytes
  dsimp only
  split
  · simp
  · rw [foldl_keeps State.planCmds]
    · simp
    · intro s x; split <;> simp
@[simp] theorem State.setBytes_admissions (s : State) (h a : Nat) (l : List Byte) : (s.setBytes h a l).admissions = s.admissions := by
  unfold State.setBytes
  dsimp only
  split
  · simp
  · rw [foldl_keeps State.admissions]
    · simp
    · intro s x; split <;> simp
@[simp] theorem State.setBytes_energy (s : State) (h a : Nat) (l : List Byte) : (s.setBytes h a l).energy = s.energy := by
  unfold State.setBytes
  dsimp only
  split
  · simp
  · rw [foldl_keeps State.energy]
    · simp
    · intro s x; split <;> simp
@[simp] theorem State.setBytes_ledger (s : State) (h a : Nat) (l : List Byte) : (s.setBytes h a l).ledger = s.ledger := by
  unfold State.setBytes
  dsimp only
  split
  · simp
  · rw [foldl_keeps State.ledger]
    · simp
    · intro s x; split <;> simp
@[simp] theorem State.setBytes_rails (s : State) (h a : Nat) (l : List Byte) : (s.setBytes h a l).rails = s.rails := by
  unfold State.setBytes
  dsimp only
  split
  · simp
  · rw [foldl_keeps State.rails]
    · simp
    · intro s x; split <;> simp
@[simp] theorem State.setBytes_boot (s : State) (h a : Nat) (l : List Byte) : (s.setBytes h a l).boot = s.boot := by
  unfold State.setBytes
  dsimp only
  split
  · simp
  · rw [foldl_keeps State.boot]
    · simp
    · intro s x; split <;> simp
@[simp] theorem State.setBytes_brokenPipes (s : State) (h a : Nat) (l : List Byte) : (s.setBytes h a l).brokenPipes = s.brokenPipes := by
  unfold State.setBytes
  dsimp only
  split
  · simp
  · rw [foldl_keeps State.brokenPipes]
    · simp
    · intro s x; split <;> simp
@[simp] theorem State.setBytes_spi (s : State) (h a : Nat) (l : List Byte) : (s.setBytes h a l).spi = s.spi := by
  unfold State.setBytes
  dsimp only
  split
  · simp
  · rw [foldl_keeps State.spi]
    · simp
    · intro s x; split <;> simp
@[simp] theorem State.setBytes_fuses (s : State) (h a : Nat) (l : List Byte) : (s.setBytes h a l).fuses = s.fuses := by
  unfold State.setBytes
  dsimp only
  split
  · simp
  · rw [foldl_keeps State.fuses]
    · simp
    · intro s x; split <;> simp
@[simp] theorem State.setBytes_fusedSvn (s : State) (h a : Nat) (l : List Byte) : (s.setBytes h a l).fusedSvn = s.fusedSvn := by
  unfold State.setBytes
  dsimp only
  split
  · simp
  · rw [foldl_keeps State.fusedSvn]
    · simp
    · intro s x; split <;> simp
@[simp] theorem State.setBytes_keyHash (s : State) (h a : Nat) (l : List Byte) : (s.setBytes h a l).keyHash = s.keyHash := by
  unfold State.setBytes
  dsimp only
  split
  · simp
  · rw [foldl_keeps State.keyHash]
    · simp
    · intro s x; split <;> simp
@[simp] theorem State.setBytes_hashIn (s : State) (h a : Nat) (l : List Byte) : (s.setBytes h a l).hashIn = s.hashIn := by
  unfold State.setBytes
  dsimp only
  split
  · simp
  · rw [foldl_keeps State.hashIn]
    · simp
    · intro s x; split <;> simp

/-! An instance's record after it was written. -/
@[simp] theorem State.zoom_modZoom (s : State) (t n : Nat) (f) : (s.modZoom t n f).zoom t n = f (s.zoom t n) := by
  simp [State.modZoom, State.zoom]
@[simp] theorem State.clkSt_modClk (s : State) (h : Nat) (f) : (s.modClk h f).clkSt h = f (s.clkSt h) := by
  simp [State.modClk, State.clkSt]
@[simp] theorem State.core_modCore (s : State) (t c : Nat) (f) : (s.modCore t c f).core t c = f (s.core t c) := by
  simp [State.modCore, State.core]
@[simp] theorem State.ddrSt_modDdr (s : State) (h c : Nat) (f) : (s.modDdr h c f).ddrSt h c = f (s.ddrSt h c) := by
  simp [State.modDdr, State.ddrSt]
@[simp] theorem State.densSt_modDens (s : State) (l : Nat) (f) : (s.modDens l f).densSt l = f (s.densSt l) := by
  simp [State.modDens, State.densSt]
@[simp] theorem State.dispSt_modDisp (s : State) (h : Nat) (f) : (s.modDisp h f).dispSt h = f (s.dispSt h) := by
  simp [State.modDisp, State.dispSt]
@[simp] theorem State.dmaSt_modDma (s : State) (h k : Nat) (f) : (s.modDma h k f).dmaSt h k = f (s.dmaSt h k) := by
  simp [State.modDma, State.dmaSt]
@[simp] theorem State.ethSt_modEth (s : State) (h : Nat) (f) : (s.modEth h f).ethSt h = f (s.ethSt h) := by
  simp [State.modEth, State.ethSt]
@[simp] theorem State.strSt_modStr (s : State) (h t : Nat) (f) : (s.modStr h t f).strSt h t = f (s.strSt h t) := by
  simp [State.modStr, State.strSt]
@[simp] theorem State.fcolSt_modFcol (s : State) (h : Nat) (f) : (s.modFcol h f).fcolSt h = f (s.fcolSt h) := by
  simp [State.modFcol, State.fcolSt]
@[simp] theorem State.hkSt_modHk (s : State) (h c : Nat) (f) : (s.modHk h c f).hkSt h c = f (s.hkSt h c) := by
  simp [State.modHk, State.hkSt]
@[simp] theorem State.pairSt_modPair (s : State) (h k : Nat) (f) : (s.modPair h k f).pairSt h k = f (s.pairSt h k) := by
  simp [State.modPair, State.pairSt]
@[simp] theorem State.pwmSt_modPwm (s : State) (h p : Nat) (f) : (s.modPwm h p f).pwmSt h p = f (s.pwmSt h p) := by
  simp [State.modPwm, State.pwmSt]
@[simp] theorem State.mboxSt_modMbox (s : State) (h p : Nat) (f) : (s.modMbox h p f).mboxSt h p = f (s.mboxSt h p) := by
  simp [State.modMbox, State.mboxSt]
@[simp] theorem State.planSt_modPlan (s : State) (n : Nat) (f) : (s.modPlan n f).planSt n = f (s.planSt n) := by
  simp [State.modPlan, State.planSt]
@[simp] theorem State.nfsSt_modNfs (s : State) (h : Nat) (f) : (s.modNfs h f).nfsSt h = f (s.nfsSt h) := by
  simp [State.modNfs, State.nfsSt]
@[simp] theorem State.wbSt_modWb (s : State) (t : Nat) (f) : (s.modWb t f).wbSt t = f (s.wbSt t) := by
  simp [State.modWb, State.wbSt]
@[simp] theorem State.acqSt_modAcq (s : State) (a : Nat) (f) : (s.modAcq a f).acqSt a = f (s.acqSt a) := by
  simp [State.modAcq, State.acqSt, State.setAcq]
@[simp] theorem State.repairSt_modRepair (s : State) (h : Nat) (f) : (s.modRepair h f).repairSt h = f (s.repairSt h) := by
  simp [State.modRepair, State.repairSt]
@[simp] theorem State.recSt_modRec (s : State) (l : Nat) (f) : (s.modRec l f).recSt l = f (s.recSt l) := by
  simp [State.modRec, State.recSt]
@[simp] theorem State.spiSt_modSpi (s : State) (h : Nat) (f) : (s.modSpi h f).spiSt h = f (s.spiSt h) := by
  simp [State.modSpi, State.spiSt]
@[simp] theorem State.tdcIn_modTdc (s : State) (g : Nat) (f) : (s.modTdc g f).tdcIn g = f (s.tdcIn g) := by
  simp [State.modTdc, State.tdcIn]
@[simp] theorem State.ivUnit_modIv (s : State) (h m : Nat) (f) : (s.modIv h m f).ivUnit h m = f (s.ivUnit h m) := by
  simp [State.modIv, State.ivUnit]
@[simp] theorem State.trgSt_modTrg (s : State) (l : Nat) (f) : (s.modTrg l f).trgSt l = f (s.trgSt l) := by
  simp [State.modTrg, State.trgSt]

/-! Fields of registers (R7, R12). -/

@[simp] theorem State.reg_setReg_same (s : State) (a : Nat) (v : Word) : (s.setReg a v).reg a = v := by
  simp [State.setReg, State.reg]

theorem State.reg_setReg_other (s : State) (a b : Nat) (v : Word) (h : b ≠ a) : (s.setReg a v).reg b = s.reg b := by
  simp [State.setReg, State.reg, tget_tset_other _ _ _ _ _ h]

/-- A field reads as it was written. -/
theorem State.rd_wr_same (s : State) (b : Nat) (f : Fld) (v : Nat) (h : f.lo + f.w ≤ 32) :
    (s.wr b f v).rd b f = v % 2 ^ f.w := by
  simp only [State.wr, State.rd, State.reg_setReg_same, BitVec.toNat_ofNat]
  rw [Nat.mod_eq_of_lt (bitsPut_lt _ _ _ _ 32 (s.reg (b + f.off)).isLt h), bitsOf_bitsPut_same]

/-- A field of another register does not change. -/
theorem State.rd_wr_other (s : State) (b c : Nat) (f g : Fld) (v : Nat) (h : c + g.off ≠ b + f.off) :
    (s.wr b f v).rd c g = s.rd c g := by
  simp only [State.wr, State.rd, State.reg_setReg_other _ _ _ _ h]

/-- A field of the same register that shares no bit with it does not change. -/
theorem State.rd_wr_apart (s : State) (b c : Nat) (f g : Fld) (v : Nat) (h : f.lo + f.w ≤ 32)
    (h1 : g.lo + g.w ≤ f.lo ∨ f.lo + f.w ≤ g.lo) : (s.wr b f v).rd c g = s.rd c g := by
  by_cases ha : c + g.off = b + f.off
  · simp only [State.wr, State.rd, ha, State.reg_setReg_same, BitVec.toNat_ofNat]
    rw [Nat.mod_eq_of_lt (bitsPut_lt _ _ _ _ 32 (s.reg (b + f.off)).isLt h)]
    rcases h1 with h1 | h1
    · exact bitsOf_bitsPut_below _ _ _ _ _ _ h1
    · exact bitsOf_bitsPut_above _ _ _ _ _ _ h1
  · exact State.rd_wr_other s b c f g v ha

/-- Fields of one block instance: the one written, and one at another offset or in other bits. -/
theorem State.rd_wr (s : State) (b : Nat) (f g : Fld) (v : Nat) (hf : f.lo + f.w ≤ 32)
    (h : g.off ≠ f.off ∨ g.lo + g.w ≤ f.lo ∨ f.lo + f.w ≤ g.lo ∨ g = f) :
    (s.wr b f v).rd b g = if g = f then v % 2 ^ f.w else s.rd b g := by
  split
  · rename_i e; rw [e]; exact State.rd_wr_same s b f v hf
  · rename_i e
    rcases h with h | h | h | h
    · exact State.rd_wr_other s b b f g v (by omega)
    · exact State.rd_wr_apart s b b f g v hf (Or.inl h)
    · exact State.rd_wr_apart s b b f g v hf (Or.inr h)
    · exact absurd h e

theorem State.rd_lt (s : State) (b : Nat) (f : Fld) : s.rd b f < 2 ^ f.w := bitsOf_lt _ _ _

/-- A field depends on the registers alone. -/
theorem State.rd_congr {s t : State} (h : t.regs = s.regs) (b : Nat) (f : Fld) : t.rd b f = s.rd b f := by
  simp only [State.rd, State.reg, h]
@[simp] theorem State.rd_setLive (s : State) (a : Nat) (v : Word) (x : Nat) (y : Fld) : (s.setLive a v).rd x y = s.rd x y := rfl
@[simp] theorem State.rd_wrL (s : State) (b : Nat) (f : Fld) (v : Nat) (x : Nat) (y : Fld) : (s.wrL b f v).rd x y = s.rd x y := rfl
@[simp] theorem State.rd_handOver (s : State) (b lo hi : Nat) (x : Nat) (y : Fld) : (s.handOver b lo hi).rd x y = s.rd x y := rfl
@[simp] theorem State.rd_raise (s : State) (src detail : Nat) (x : Nat) (y : Fld) : (s.raise src detail).rd x y = s.rd x y := rfl
@[simp] theorem State.rd_enforce (s : State) (b lo hi : Nat) (x : Nat) (y : Fld) : (s.enforce b lo hi).rd x y = s.rd x y := rfl
@[simp] theorem State.rd_tabHandOver (s : State) (lo hi : Nat) (x : Nat) (y : Fld) : (s.tabHandOver lo hi).rd x y = s.rd x y := rfl
@[simp] theorem State.rd_tabTakeBack (s : State) (lo hi : Nat) (x : Nat) (y : Fld) : (s.tabTakeBack lo hi).rd x y = s.rd x y := rfl
@[simp] theorem State.rd_tabEnforce (s : State) (lo hi : Nat) (x : Nat) (y : Fld) : (s.tabEnforce lo hi).rd x y = s.rd x y := rfl
@[simp] theorem State.rd_setRaw (s : State) (h a : Nat) (v : Byte) (x : Nat) (y : Fld) : (s.setRaw h a v).rd x y = s.rd x y := rfl
@[simp] theorem State.rd_putRaw (s : State) (h a : Nat) (l : List Byte) (x : Nat) (y : Fld) : (s.putRaw h a l).rd x y = s.rd x y := rfl
@[simp] theorem State.rd_modWb (s : State) (t : Nat) (f : WbSt → WbSt) (x : Nat) (y : Fld) : (s.modWb t f).rd x y = s.rd x y := rfl
@[simp] theorem State.rd_setLink (s : State) (l : Nat) (v : Link) (x : Nat) (y : Fld) : (s.setLink l v).rd x y = s.rd x y := rfl
@[simp] theorem State.rd_setAcq (s : State) (a : Nat) (v : AcqSt) (x : Nat) (y : Fld) : (s.setAcq a v).rd x y = s.rd x y := rfl
@[simp] theorem State.rd_modAcq (s : State) (a : Nat) (f : AcqSt → AcqSt) (x : Nat) (y : Fld) : (s.modAcq a f).rd x y = s.rd x y := rfl
@[simp] theorem State.rd_modZoom (s : State) (t n : Nat) (f : ZoomSt → ZoomSt) (x : Nat) (y : Fld) : (s.modZoom t n f).rd x y = s.rd x y := rfl
@[simp] theorem State.rd_modRepair (s : State) (h : Nat) (f : RepairSt → RepairSt) (x : Nat) (y : Fld) : (s.modRepair h f).rd x y = s.rd x y := rfl
@[simp] theorem State.rd_modClk (s : State) (h : Nat) (f : ClkSt → ClkSt) (x : Nat) (y : Fld) : (s.modClk h f).rd x y = s.rd x y := rfl
@[simp] theorem State.rd_modCore (s : State) (t c : Nat) (f : CoreSt → CoreSt) (x : Nat) (y : Fld) : (s.modCore t c f).rd x y = s.rd x y := rfl
@[simp] theorem State.rd_modDdr (s : State) (h c : Nat) (f : DdrSt → DdrSt) (x : Nat) (y : Fld) : (s.modDdr h c f).rd x y = s.rd x y := rfl
@[simp] theorem State.rd_modDens (s : State) (l : Nat) (f : DensSt → DensSt) (x : Nat) (y : Fld) : (s.modDens l f).rd x y = s.rd x y := rfl
@[simp] theorem State.rd_modDisp (s : State) (h : Nat) (f : DispSt → DispSt) (x : Nat) (y : Fld) : (s.modDisp h f).rd x y = s.rd x y := rfl
@[simp] theorem State.rd_modDma (s : State) (h k : Nat) (f : DmaSt → DmaSt) (x : Nat) (y : Fld) : (s.modDma h k f).rd x y = s.rd x y := rfl
@[simp] theorem State.rd_modEth (s : State) (h : Nat) (f : EthSt → EthSt) (x : Nat) (y : Fld) : (s.modEth h f).rd x y = s.rd x y := rfl
@[simp] theorem State.rd_modStr (s : State) (h t : Nat) (f : EthStr → EthStr) (x : Nat) (y : Fld) : (s.modStr h t f).rd x y = s.rd x y := rfl
@[simp] theorem State.rd_modFcol (s : State) (h : Nat) (f : FcolSt → FcolSt) (x : Nat) (y : Fld) : (s.modFcol h f).rd x y = s.rd x y := rfl
@[simp] theorem State.rd_modSrc (s : State) (h n : Nat) (f : FaultSrc → FaultSrc) (x : Nat) (y : Fld) : (s.modSrc h n f).rd x y = s.rd x y := rfl
@[simp] theorem State.rd_modHk (s : State) (h c : Nat) (f : HkSt → HkSt) (x : Nat) (y : Fld) : (s.modHk h c f).rd x y = s.rd x y := rfl
@[simp] theorem State.rd_modPair (s : State) (h k : Nat) (f : PairSt → PairSt) (x : Nat) (y : Fld) : (s.modPair h k f).rd x y = s.rd x y := rfl
@[simp] theorem State.rd_modPwm (s : State) (h p : Nat) (f : PwmSt → PwmSt) (x : Nat) (y : Fld) : (s.modPwm h p f).rd x y = s.rd x y := rfl
@[simp] theorem State.rd_modMbox (s : State) (h p : Nat) (f : MboxSt → MboxSt) (x : Nat) (y : Fld) : (s.modMbox h p f).rd x y = s.rd x y := rfl
@[simp] theorem State.rd_modPlan (s : State) (n : Nat) (f : PlanSt → PlanSt) (x : Nat) (y : Fld) : (s.modPlan n f).rd x y = s.rd x y := rfl
@[simp] theorem State.rd_modNfs (s : State) (h : Nat) (f : NfsSt → NfsSt) (x : Nat) (y : Fld) : (s.modNfs h f).rd x y = s.rd x y := rfl
@[simp] theorem State.rd_modRec (s : State) (l : Nat) (f : RecSt → RecSt) (x : Nat) (y : Fld) : (s.modRec l f).rd x y = s.rd x y := rfl
@[simp] theorem State.rd_modCo (s : State) (l : Nat) (f : CoSt → CoSt) (x : Nat) (y : Fld) : (s.modCo l f).rd x y = s.rd x y := rfl
@[simp] theorem State.rd_modSpi (s : State) (h : Nat) (f : SpiSt → SpiSt) (x : Nat) (y : Fld) : (s.modSpi h f).rd x y = s.rd x y := rfl
@[simp] theorem State.rd_modTdc (s : State) (g : Nat) (f : TdcIn → TdcIn) (x : Nat) (y : Fld) : (s.modTdc g f).rd x y = s.rd x y := rfl
@[simp] theorem State.rd_modIv (s : State) (h m : Nat) (f : IvUnit → IvUnit) (x : Nat) (y : Fld) : (s.modIv h m f).rd x y = s.rd x y := rfl
@[simp] theorem State.rd_modTime (s : State) (f : TimeSt → TimeSt) (x : Nat) (y : Fld) : (s.modTime f).rd x y = s.rd x y := rfl
@[simp] theorem State.rd_modBase (s : State) (k : Nat) (f : BaseSt → BaseSt) (x : Nat) (y : Fld) : (s.modBase k f).rd x y = s.rd x y := rfl
@[simp] theorem State.rd_modPort (s : State) (i p : Nat) (f : PtpPort → PtpPort) (x : Nat) (y : Fld) : (s.modPort i p f).rd x y = s.rd x y := rfl
@[simp] theorem State.rd_modTrg (s : State) (l : Nat) (f : TrgSt → TrgSt) (x : Nat) (y : Fld) : (s.modTrg l f).rd x y = s.rd x y := rfl
@[simp] theorem State.rd_modUnit (s : State) (l u : Nat) (f : TrgUnit → TrgUnit) (x : Nat) (y : Fld) : (s.modUnit l u f).rd x y = s.rd x y := rfl
@[simp] theorem State.rd_raiseIf (s : State) (c : Bool) (n d : Nat) (x : Nat) (y : Fld) : (s.raiseIf c n d).rd x y = s.rd x y :=
  State.rd_congr (by simp) x y
@[simp] theorem State.rd_mark (s : State) (t a b c : Nat) (x : Nat) (y : Fld) : (s.mark t a b c).rd x y = s.rd x y :=
  State.rd_congr (by simp) x y
@[simp] theorem State.rd_pulse (s : State) (h n : Nat) (x : Nat) (y : Fld) : (s.pulse h n).rd x y = s.rd x y :=
  State.rd_congr (by simp) x y
@[simp] theorem State.rd_setBytes (s : State) (h a : Nat) (l : List Byte) (x : Nat) (y : Fld) : (s.setBytes h a l).rd x y = s.rd x y :=
  State.rd_congr (by simp) x y

end Sys2Proof.Machine
end

