-- ==== Sys2Proof/Laws/Memory.lean ====
section
/-! SUPPORT. Capture memory: every operation keeps its canonical form, and a byte reads as it was last written. -/

namespace Sys2Proof.Machine

theorem cellsFrom_ge (a : Nat) (l : List Byte) : ∀ e ∈ cellsFrom a l, a ≤ e.1 := by
  induction l generalizing a with
  | nil => intro e he; cases he
  | cons b l ih =>
    intro e he
    unfold cellsFrom at he
    split at he
    · have := ih (a + 1) e he; omega
    · rcases List.mem_cons.mp he with rfl | he
      · simp
      · have := ih (a + 1) e he; omega

theorem cellsFrom_wf (a : Nat) (l : List Byte) : Memory.wf (cellsFrom a l) := by
  induction l generalizing a with
  | nil => exact twf_nil _
  | cons b l ih =>
    unfold cellsFrom
    split
    · exact ih (a + 1)
    · rename_i hb
      refine ⟨List.pairwise_cons.mpr ⟨fun e he => ?_, (ih (a + 1)).1⟩, fun e he => ?_⟩
      · have := cellsFrom_ge (a + 1) l e he
        simp only; omega
      · rcases List.mem_cons.mp he with rfl | he
        · exact hb
        · exact (ih (a + 1)).2 e he

theorem tget_cellsFrom (a : Nat) (l : List Byte) (k : Nat) (h : k < l.length) :
    tget zeroByte (cellsFrom a l) (a + k) = (l[k]?).getD 0 := by
  induction l generalizing a k with
  | nil => simp at h
  | cons b l ih =>
    cases k with
    | zero =>
      unfold cellsFrom
      split
      · rename_i hb
        rw [tget_none _ _ _ (by intro e he; have := cellsFrom_ge (a + 1) l e he; omega)]
        simp [zeroByte, hb]
      · simp [tget]
    | succ k =>
      have hk : k < l.length := by simpa using h
      have hi := ih (a + 1) k hk
      have hadd : a + (k + 1) = a + 1 + k := by omega
      unfold cellsFrom
      split
      · rw [hadd, hi]; simp
      · rw [tget, if_neg (by omega), hadd, hi]; simp

/-- Writing one byte keeps the form. -/
theorem State.setRaw_wf {s : State} (h a : Nat) (v : Byte) (hs : Memory.wf s.cap) : Memory.wf (s.setRaw h a v).cap :=
  twf_tset _ _ hs

/-- Writing bytes keeps the form. -/
theorem State.putRaw_wf {s : State} (h a : Nat) (l : List Byte) (hs : Memory.wf s.cap) : Memory.wf (s.putRaw h a l).cap :=
  twf_tcopy _ _ (cellsFrom_wf _ _) hs

theorem State.putBoot_wf {s : State} (h a : Nat) (l : List Byte) (hs : Memory.wf s.cap) : Memory.wf (s.putBoot h a l).cap := by
  unfold State.putBoot
  dsimp only
  split
  · exact State.putRaw_wf _ _ _ hs
  · exact hs

theorem foldl_wf {β : Type} (f : State → β → State) (h : ∀ s b, Memory.wf s.cap → Memory.wf (f s b).cap) (l : List β)
    (s : State) (hs : Memory.wf s.cap) : Memory.wf (l.foldl f s).cap := by
  induction l generalizing s with
  | nil => exact hs
  | cons b l ih => exact ih _ (h s b hs)

/-- The write of bytes that every block uses keeps the form. -/
theorem State.setBytes_wf {s : State} (h a : Nat) (l : List Byte) (hs : Memory.wf s.cap) : Memory.wf (s.setBytes h a l).cap := by
  unfold State.setBytes
  dsimp only
  split
  · exact State.putRaw_wf _ _ _ (State.putBoot_wf _ _ _ hs)
  · refine foldl_wf _ ?_ _ _ (State.putBoot_wf _ _ _ hs)
    intro s x hx
    split
    · exact hx
    · exact State.setRaw_wf _ _ _ hx

theorem State.ringBytes_wf {s : State} (h b n p : Nat) (l : List Byte) (hs : Memory.wf s.cap) :
    Memory.wf (s.ringBytes h b n p l).cap := by
  unfold State.ringBytes
  split
  · exact hs
  · exact State.setBytes_wf _ _ _ (State.setBytes_wf _ _ _ hs)

/-- Writing zeros over a range keeps the form. -/
theorem State.zeroRange_wf {s : State} (h lo hi : Nat) (hs : Memory.wf s.cap) : Memory.wf (s.zeroRange h lo hi).cap := by
  unfold State.zeroRange
  split
  · exact twf_tclear _ _ hs
  · exact twf_filter _ hs

/-- A byte in the range written reads as written. -/
theorem State.rawByte_putRaw_inside (s : State) (h a : Nat) (l : List Byte) (k : Nat) (hk : k < l.length)
    (ha : a + l.length ≤ 2 ^ 40) : (s.putRaw h a l).rawByte h (a + k) = (l[k]?).getD 0 := by
  have h1 : cellOf h (a + k) = cellOf h a + k := by
    simp only [cellOf]
    rw [Nat.mod_eq_of_lt (by omega), Nat.mod_eq_of_lt (by omega)]
    omega
  simp only [State.rawByte, State.putRaw]
  rw [h1, tget_tcopy_inside _ _ _ _ _ _ (by omega) (by omega), tget_cellsFrom _ _ _ hk]

/-- A byte outside the range does not change. -/
theorem State.rawByte_putRaw_outside (s : State) (h a : Nat) (l : List Byte) (g b : Nat)
    (hb : cellOf g b < cellOf h a ∨ cellOf h a + l.length ≤ cellOf g b) :
    (s.putRaw h a l).rawByte g b = s.rawByte g b := by
  simp only [State.rawByte, State.putRaw]
  exact tget_tcopy_outside _ _ _ _ _ _ (by omega) hb

end Sys2Proof.Machine
end

