-- ==== Sys2Proof/WellFormed.lean ====
section
/-! DEFINITION. Which commands are well formed: operands that can occur on the S8G. The meanings do not rely on it: a list
that is too short is padded, one that is too long is cut. -/

namespace Sys2Proof

/-- A power of two from 2^lo to 2^hi. -/
def isPow2 (lo hi n : Nat) : Bool := (List.range (hi + 1)).any fun k => decide (lo ≤ k) && n == 2 ^ k

/-- A host address names a register or a word: a multiple of 4 (R632). -/
def wordAddr {n : Nat} (a : BitVec n) : Bool := a.toNat % 4 == 0

/-- Credits that a receiver returns are at most its reserved pools (R20). -/
def FlitSlot.wf (f : FlitSlot) : Bool := decide (f.freed0 ≤ 8) && decide (f.freed3 ≤ 16)

/-- A frame has 64 converter samples, or the octets of 4, 8 or 16 lanes (R42, R76). -/
def ConvFrame.wf (f : ConvFrame) : Bool := f.codes.length == 64 || isPow2 2 4 f.lanes.length

/-- The accesses of one 128-byte unit: eight codewords (R496). -/
def DdrAccess.wf (a : DdrAccess) : Bool := decide (a.symbols.length ≤ 8)

/-- A request fits one 128-byte unit (R499). -/
def DdrReq.wf (r : DdrReq) : Bool := decide (r.addr < 2 ^ 40) && decide (r.addr % 128 + r.data.length ≤ 128)

/-- Margins are given for the five grades (R491). -/
def DdrTrain.wf (t : DdrTrain) : Bool := t.margins.length == 5

/-- A LUN of a supported population (R454). -/
def NandLun.wf (l : NandLun) : Bool := decide (0 < l.pages) && decide (0 < l.blocks)

/-- A zoom channel lies on a die of its input's pair (R241). -/
def ZoomPlace.wf (p : ZoomPlace) : Bool := p.die.val / 2 == p.inp.val

/-- Figures for nine links in two directions, two hubs, stores and ports; planner streams are 16 to 63 (R541). -/
def PlanNeed.wf (p : PlanNeed) : Bool :=
  p.zooms.all ZoomPlace.wf && p.streams.all (fun t => decide (16 ≤ t.val)) && decide (p.links.length ≤ 18)
    && decide (p.rate.length ≤ 2) && decide (p.mib.length ≤ 2) && decide (p.flash.length ≤ 2) && decide (p.eth.length ≤ 2)

def PlanEnd.wf (e : PlanEnd) : Bool := e.again.all fun x => x.2.wf

/-- A step of the ledger has thirteen domains (R360). -/
def LedgerIn.wf (l : LedgerIn) : Bool :=
  decide (l.est.length ≤ 13) && (l.held.all fun x => decide (x.2.length ≤ 13)) && (l.ends.all fun x => x.2.wf)
    && l.again.all fun x => x.2.wf

/-- A received address is 128 bits, or 32 bits for IPv4. -/
def NetPeer.wf (p : NetPeer) : Bool := p.v6 || decide (p.addr.toNat < 2 ^ 32)

def EthFrame.wf : EthFrame → Bool
  | .own _ src => src.wf
  | .udp src dst payload => src.wf && dst.wf && decide (payload.length ≤ 9000)
  | .flow pfc prios quanta => quanta.length == 8 || (!pfc && quanta.length == 1 && prios == 0)
  | _ => true

/-- Which commands are well formed. -/
def Instr.wf : Instr → Bool
  | .configWrite _ addr _ _ => wordAddr addr
  | .rcClearingRead _ w _ => wordAddr w
  | .aliasSetWrite _ w _ _ => wordAddr w
  | .aliasClearWrite _ w _ _ => wordAddr w
  | .aliasToggleWrite _ w _ _ => wordAddr w
  | .linkFlitSend _ _ f => f.wf
  | .inputBufferOverflow _ first last => decide (first ≤ last)
  | .streamFrame _ f => f.wf
  | .calModeWrite _ mode => decide (mode ≠ 3)
  | .jrxLaneLockLoss _ first last => decide (first ≤ last)
  | .timerHit _ _ j => j % 8 == 0
  | .coreRepair _ c spare prog data => decide (c ≠ spare) && decide (prog.length ≤ 16384) && decide (data.length ≤ 16384)
  | .planAdmit _ p => p.wf
  | .planStart _ p => p.wf
  | .holdupRecheck _ p => p.wf
  | .planStop _ e => e.wf
  | .planClear _ e => e.wf
  | .planEnd _ e => e.wf
  | .throttleSuspend e => e.wf
  | .mgmtStopPlan _ e => e.wf
  | .mgmtStopAllPlans _ e => e.wf
  | .repairComplete _ again => again.all fun x => x.2.wf
  | .ledgerStep l => l.wf
  | .railOutOfTolerance out deep codes => decide (deep &&& out = deep) && codes.length == 10
  | .vcoreSetPoint mv => decide (650 ≤ mv) && decide (mv ≤ 850) && mv % 5 == 0
  | .memoryTrainingComplete a0 a1 b0 b1 => a0.wf && a1.wf && b0.wf && b1.wf
  | .nfsMounted _ _ again => again.all fun x => x.2.wf
  | .nfsMount _ luns chans => luns.all NandLun.wf && decide (chans.length ≤ 8)
  | .ddrReadServe _ _ l a _ e => (l.all fun r => r.wf && r.data.isEmpty) && a.wf && e.wf
  | .ddrWriteAccept _ l => l.all fun r => r.wf && !r.data.isEmpty
  | .ddrWriteServe _ _ a _ e => a.wf && e.wf
  | .ddrScrub _ _ a _ e => a.wf && e.wf
  | .ddrRelease _ _ t => t.wf
  | .ethFrameReceive _ f => f.wf
  | .pauseReceive _ pfc prios quanta => EthFrame.wf (.flow pfc prios quanta)
  | .spiRead _ addr _ => wordAddr addr
  | .spiReadFixed _ addr _ => wordAddr addr
  | .spiReadTimeout _ addr => wordAddr addr
  | .spiWrite _ addr _ => wordAddr addr
  | .spiWriteFixed _ addr _ => wordAddr addr
  | _ => true

end Sys2Proof
end

