-- ==== Sys2Proof/Tests/Slice0.lean ====
section
/-! SUPPORT. Tests: the well-formedness checks refuse an ill-formed command each, words of the core instruction formats
decode, single steps of a few commands, and a witness of the hypotheses of every statement that has some. -/

namespace Sys2Proof.Tests

open Sys2Proof Sys2Proof.Machine

set_option maxRecDepth 4000
set_option Elab.async false
set_option synthInstance.maxSize 2000
set_option synthInstance.maxHeartbeats 400000

/-! An ill-formed command for each check of `Instr.wf`. -/

/-- An admission whose pipeline list holds a zoom channel of another input's die. -/
def strayZoom : PlanNeed := { zooms := [{ inp := 0, k := 1, die := 2, chan := 5 }] }

theorem test_wf_register_address : Instr.wf (.configWrite .planner 2 0 {}) = false ∧
    Instr.wf (.rcClearingRead .planner 2 {}) = false ∧ Instr.wf (.aliasSetWrite .planner 2 0 {}) = false ∧
    Instr.wf (.aliasClearWrite .planner 2 0 {}) = false ∧ Instr.wf (.aliasToggleWrite .planner 2 0 {}) = false := by
  decide
theorem test_wf_spi_address : Instr.wf (.spiRead 0 1 []) = false ∧ Instr.wf (.spiReadFixed 0 1 []) = false ∧
    Instr.wf (.spiWrite 0 1 []) = false ∧ Instr.wf (.spiWriteFixed 0 1 []) = false ∧
    Instr.wf (.spiReadTimeout 0 1) = false := by decide
theorem test_wf_flit_credits : Instr.wf (.linkFlitSend 0 false ⟨0, 9, 0, 0, 0, 0⟩) = false ∧
    Instr.wf (.linkFlitSend 0 false ⟨0, 0, 17, 0, 0, 0⟩) = false := by decide
theorem test_wf_sample_ranges : Instr.wf (.inputBufferOverflow 0 5 4) = false ∧
    Instr.wf (.jrxLaneLockLoss 3 5 4) = false := by decide
theorem test_wf_stream_frame : Instr.wf (.streamFrame 0 {}) = false ∧
    Instr.wf (.streamFrame 0 { lanes := List.replicate 3 [] }) = false := by decide
theorem test_wf_cal_mode : Instr.wf (.calModeWrite 0 3) = false := by decide
theorem test_wf_timer_sample : Instr.wf (.timerHit 0 0 4) = false := by decide
theorem test_wf_core_spare : Instr.wf (.coreRepair 0 7 7 [] []) = false := by decide
theorem test_wf_plan_zoom : Instr.wf (.planAdmit 3 strayZoom) = false ∧ Instr.wf (.planStart 3 strayZoom) = false ∧
    Instr.wf (.holdupRecheck 3 strayZoom) = false := by decide
theorem test_wf_plan_stream : Instr.wf (.planAdmit 3 { streams := [15] }) = false := by decide
theorem test_wf_plan_figures : Instr.wf (.planAdmit 3 { links := List.replicate 19 0 }) = false ∧
    Instr.wf (.planAdmit 3 { rate := [0, 0, 0] }) = false ∧ Instr.wf (.planAdmit 3 { mib := [0, 0, 0] }) = false ∧
    Instr.wf (.planAdmit 3 { flash := [0, 0, 0] }) = false ∧ Instr.wf (.planAdmit 3 { eth := [0, 0, 0] }) = false := by
  decide
theorem test_wf_plan_end : Instr.wf (.planStop 3 { again := [(1, strayZoom)] }) = false ∧
    Instr.wf (.planClear 3 { again := [(1, strayZoom)] }) = false ∧
    Instr.wf (.planEnd 3 { again := [(1, strayZoom)] }) = false ∧
    Instr.wf (.throttleSuspend { again := [(1, strayZoom)] }) = false ∧
    Instr.wf (.mgmtStopPlan 0 { again := [(1, strayZoom)] }) = false ∧
    Instr.wf (.mgmtStopAllPlans 0 { again := [(1, strayZoom)] }) = false ∧
    Instr.wf (.repairComplete 0 [(1, strayZoom)]) = false := by decide
theorem test_wf_power_cap : Instr.wf (.ledgerStep { ends := [(1, { again := [(1, strayZoom)] })] }) = false ∧
    Instr.wf (.ledgerStep { again := [(1, strayZoom)] }) = false ∧ Instr.wf (.nfsMounted 0 [] [(1, strayZoom)]) = false := by
  decide
theorem test_wf_ledger : Instr.wf (.ledgerStep { est := List.replicate 14 0 }) = false ∧
    Instr.wf (.ledgerStep { held := [(1, List.replicate 14 0)] }) = false := by decide
theorem test_wf_rails : Instr.wf (.railOutOfTolerance 1 2 (List.replicate 10 0)) = false ∧
    Instr.wf (.railOutOfTolerance 1 1 []) = false := by decide
theorem test_wf_vcore : Instr.wf (.vcoreSetPoint 645) = false ∧ Instr.wf (.vcoreSetPoint 855) = false ∧
    Instr.wf (.vcoreSetPoint 701) = false := by decide
theorem test_wf_training : Instr.wf (.memoryTrainingComplete ⟨0, []⟩ ⟨0, []⟩ ⟨0, []⟩ ⟨0, []⟩) = false ∧
    Instr.wf (.ddrRelease 0 0 ⟨0, []⟩) = false := by decide
theorem test_wf_nand : Instr.wf (.nfsMount 0 [⟨0, true, 1, true, true, 0, 8, 9⟩] []) = false ∧
    Instr.wf (.nfsMount 0 [⟨0, true, 1, true, true, 8, 0, 9⟩] []) = false ∧
    Instr.wf (.nfsMount 0 [] (List.replicate 9 (0, 0))) = false := by decide
theorem test_wf_ddr_request : Instr.wf (.ddrWriteAccept 0 [⟨0, 0, []⟩]) = false ∧
    Instr.wf (.ddrWriteAccept 0 [⟨0, 127, [1, 2]⟩]) = false ∧ Instr.wf (.ddrWriteAccept 0 [⟨0, 2 ^ 40, [1]⟩]) = false ∧
    Instr.wf (.ddrReadServe 0 0 [⟨0, 0, [1]⟩] {} [] {}) = false := by decide
theorem test_wf_ddr_access : Instr.wf (.ddrReadServe 0 0 [] { symbols := List.replicate 9 [] } [] {}) = false ∧
    Instr.wf (.ddrWriteServe 0 0 { symbols := List.replicate 9 [] } [] {}) = false ∧
    Instr.wf (.ddrScrub 0 0 { symbols := List.replicate 9 [] } [] {}) = false ∧
    Instr.wf (.ddrScrub 0 0 {} [] { again := [(1, strayZoom)] }) = false := by decide
theorem test_wf_eth_frame : Instr.wf (.ethFrameReceive 0 (.own 0 ⟨false, 2 ^ 32, 1⟩)) = false ∧
    Instr.wf (.ethFrameReceive 0 (.udp ⟨false, 2 ^ 32, 1⟩ ⟨false, 1, 1⟩ [])) = false ∧
    Instr.wf (.ethFrameReceive 0 (.udp ⟨false, 1, 1⟩ ⟨false, 2 ^ 32, 1⟩ [])) = false ∧
    Instr.wf (.ethFrameReceive 0 (.flow true 0 [1])) = false ∧ Instr.wf (.pauseReceive 0 false 1 [1]) = false := by decide
theorem test_wf_eth_payload :
    Instr.wf (.ethFrameReceive 0 (.udp ⟨false, 1, 1⟩ ⟨false, 1, 1⟩ (List.replicate 9001 0))) = false := by decide +kernel
/-- Well-formed commands are not refused by the checks. -/
theorem test_wf_accepts : Instr.wf (.configWrite .planner 4 0 {}) = true ∧ Instr.wf (.planAdmit 3 {}) = true ∧
    Instr.wf (.pauseReceive 0 true 1 (List.replicate 8 1)) = true ∧ Instr.wf (.vcoreSetPoint 700) = true := by decide

/-! Words of the core instruction formats, written out bit by bit (R323). -/

theorem test_word_add : CoreInstr.decode 0b000010_0000_000000_0011_0001_0010_0000#32 = some (.alu .add 0 3 1 2) := by
  decide +kernel
theorem test_word_addi : CoreInstr.decode 0b000011_0001_0100_0101_11111111111111#32 = some (.imm .addi 1 4 5 0x3FFF) := by
  decide +kernel
theorem test_word_mov : CoreInstr.decode 0b001001_0000_0111000_0000011_00000000#32 = some (.mov 0 0x38 3) := by
  decide +kernel
theorem test_word_ldi : CoreInstr.decode 0b001010_0_0001111_00_1000000000000000#32 = some (.ldi false 0x0F 0x8000) := by
  decide +kernel
theorem test_word_st : CoreInstr.decode 0b001100_0000010_111_00_00000000000001#32 = some (.mem true 2 7 0 1) := by
  decide +kernel
theorem test_word_adda : CoreInstr.decode 0b001101_0000_00010_0_1_0011_00000_000000#32 = some (.acc .adda 0 0 1 3 0) := by
  decide +kernel
theorem test_word_mac : CoreInstr.decode 0b001110_0_01_0001_0010_0_0000_000_0000_000#32 = some (.mac .mac 0 1 2 0 0 0 0 0) := by
  decide +kernel
theorem test_word_maxi : CoreInstr.decode 0b001111_0_0001_0010_0011_0100_1_0101_110_0#32 = some (.srch false 1 2 3 4 1 5 6) := by
  decide +kernel
theorem test_word_jmp : CoreInstr.decode 0b010000_0000_000_000_00_00000100000000#32 = some (.ctl .jmp 0 0 0x100) := by
  decide +kernel
theorem test_word_rep : CoreInstr.decode 0b010001_0_00000000101_00000000010000#32 = some (.rep false 5 0x10) := by
  decide +kernel
theorem test_word_in : CoreInstr.decode 0b010011_1_10_0001_0010_000000000000000#32 = some (.inp 1 2 1 2) := by
  decide +kernel
theorem test_word_out : CoreInstr.decode 0b010100_0000_1_0111_00000000000000000#32 = some (.out 0 1 7) := by
  decide +kernel
theorem test_word_trig : CoreInstr.decode 0b010101_0000_10_0111_0000000000000000#32 = some (.trig 0 2 7) := by
  decide +kernel
theorem test_word_evt : CoreInstr.decode 0b010110_0000_1111111_0111_00000000000#32 = some (.evt 0 127 7) := by
  decide +kernel
theorem test_word_srset : CoreInstr.decode 0b010111_1_0_000000000000000000001111#32 = some (.srb true 0xF) := by
  decide +kernel
/-- An unused opcode, and bits that must be 0, are ILLEGAL (R318). -/
theorem test_word_illegal : CoreInstr.decode 0b011000_00000000000000000000000000#32 = none ∧
    CoreInstr.decode 0b000000_00000000000000000000000001#32 = none ∧
    CoreInstr.decode 0b010011_0_00_0001_0001_000000000000000#32 = none := by decide +kernel

/-! Values worked by hand from the rules. -/

/-- ADD of 0x7FFFFF and 1 wraps to 0x800000 and sets V; ADDS clamps (R325). -/
theorem test_add_overflow : (aluDo .add 0x7FFFFF 1 0).r = 0x800000 ∧ (aluDo .add 0x7FFFFF 1 0).v = some true ∧
    (aluDo .adds 0x7FFFFF 1 0).r = 0x7FFFFF := by decide +kernel
/-- SUB of equal operands borrows nothing: C is 1 (R325). -/
theorem test_sub_carry : (aluDo .sub 5 5 0).r = 0 ∧ (aluDo .sub 5 5 0).c = some true ∧ (aluDo .sub 4 5 0).c = some false := by
  decide +kernel
/-- ABS of the most negative number clamps and sets V (R325). -/
theorem test_abs_clamps : (aluDo .abs 0x800000 0 0).r = 0x7FFFFF ∧ (aluDo .abs 0x800000 0 0).v = some true := by
  decide +kernel
/-- EXT of an accumulator beyond 24 bits saturates (R294). -/
theorem test_extract_saturates : extract (2 ^ 48) 0 false = (2 ^ 23 - 1, true) ∧ extract (2 ^ 24) 0 false = (1, false) := by
  decide +kernel
/-- A byte written to capture memory reads back, and writing 0 lists nothing. -/
theorem test_memory_cell : ((State.reset.setBytes 0 5 [7]).byte 0 5) = 7 ∧ (State.reset.setBytes 0 5 [0]).cap = [] := by
  decide +kernel

/-! States for the witnesses. -/

/-- A state in which the planner runs, with no plan loaded and 1 GiB on channel 0 of H0. -/
def plannerUp : State :=
  ((State.reset.wr (bootB 0) R.BOOT_STATUS_STATE 8).wr (pwrB 0) R.PWR_STATE_STATE 2).wr (ddrChB 0 0) R.DDR_c_SIZE_MIB 1024
/-- A state in the boot state `n`. -/
def bootAt (n : Nat) : State := State.reset.wr (bootB 0) R.BOOT_STATUS_STATE n
/-- The smallest image: a header without sections, and an unsigned signature block. -/
def tinyImage : List Byte :=
  let h : List Byte := [0x43, 0x4F, 0x43, 0x4E, 1, 0, 0, 0] ++ leBytes 4 320 ++ List.replicate 10 0 ++ [0xFF, 0] ++
    List.replicate 32 0 ++ leBytes 4 64
  h ++ leBytes 4 (crc32 h) ++ List.replicate 256 0
/-- A mounted flash store on H0 with one recording, 1 of source 3, and one row of it that is not yet confirmed. -/
def storeUp : State :=
  (State.reset.wrs (nfsB 0) [(R.NFS_STATUS_MOUNTED, 1), (R.NFS_STATUS_LOCKED, 0), (R.NFS_STATUS_BLANK, 0)]).modNfs 0 fun q =>
    { q with formatted := true, rowSeq := 9, cat := [{ num := 1, source := 3, openSts := 5 }]
             rows := [{ seq := 8, group := 0, sb := 0, row := 0, dies := [7], extents := [⟨1, 0, 4, 0⟩], flags := 0
                        header := [], sealedAt := 0, patrolled := 0 }]
             luns := [{ i := 7, ok := true, maker := 1, bpc4 := true, planes4 := true, pages := 8, blocks := 8, mbps := 9 }] }
/-- Channel 2 of H0 runs at instruction 7, whose words are `l`; 1 GiB of memory on channel 0; A0 at 4096 and A1 at 8192. -/
def dmaUp (l : List Nat) : State :=
  let s := (State.reset.wrs (dmaChB 0 2) [(R.DMA_k_STATUS_STATE, 1), (R.DMA_k_PC_PC, 7)]).wr (dmaB 0) R.DMA_CTRL_EN 1
  let s := (s.wr (ddrChB 0 0) R.DDR_c_SIZE_MIB 1024).putRaw 0 4096 [1, 2, 3, 4, 5]
  { s with dmaMem := (l.zipIdx.filter (·.1 ≠ 0)).map fun x => (28 + x.2, x.1)
           dma := [(2, { ars := [(0, { base := 4096 }), (1, { base := 8000, off := 192 }), (2, { base := 4097 })] })] }
def aPeer : NetPeer := ⟨false, 0x0A000001, 5000⟩
/-- Port 0 of H0 up and enabled, stream 3 enabled to a fixed MAC address, with `l` queued. -/
def ethUp (l : List Byte) : State :=
  let s := (State.reset.wrs (ethB 0) [(R.ETH_CTRL_EN, 1), (R.ETH_STATUS_LINK, 1), (R.ETH_SHAPE_STREAM_MBPS, 1000)]).wr (pwrB 0)
    R.PWR_STATE_STATE 2
  let s := s.wrs (strB 0 3) [(R.ETH_STR_t_CFG_EN, 1), (R.ETH_STR_t_CFG_STATIC_MAC, 1), (R.ETH_STR_t_CFG_MAXPAY, 2)]
  s.modStr 0 3 fun q => { q with items := [{ data := l }] }
/-- A request of one operation `o` waits at that port. -/
def mgmtUp (o : MgmtOp) : State := (ethUp []).modEth 0 fun q => { q with reqs := [⟨aPeer, 1, List.replicate 16 0, [o], false⟩] }
/-- A command that answers a next state. -/
theorem answers {c : Instr} {s : State} (h : (match exec c s with | .next _ => true | _ => false) = true) :
    ∃ t, exec c s = .next t := by
  revert h
  cases exec c s with
  | next t => exact fun _ => ⟨t, rfl⟩
  | _ => exact fun h => absurd h (by simp)

/-! Witnesses. -/

theorem wit_EveryStepAnswers :
    ∃ s : State, s.pending = [] ∧ s.time.run = true ∧ inAon s = false :=
  ⟨(State.reset.modTime fun q => { q with run := true }).wr (pwrB 0) R.PWR_STATE_STATE 1, by decide +kernel⟩

theorem wit_InvKept : ∃ s t : State, Inv s ∧ step s = .next t :=
  ⟨State.reset, idleTick State.reset, ⟨by decide +kernel, by decide +kernel⟩, rfl⟩

theorem wit_IllegalWordHalts :
    ∃ (d : TDie) (c : CoreIx) (s : State), coreRunning s d c = true ∧ atBreak s d c = false ∧
      interruptDue (s.core d c) = none ∧
      (∀ i, CoreInstr.decode (s.pm d c (s.core d c).pc) = some i → legalHere (s.core d c) i = false) :=
  ⟨0, 131, (State.reset.wr (coreRegB 0 131) R.CORE_c_STATUS_RUNNING 1).setReg (pmAddr 0 131 0) 0x60000000,
      by decide +kernel,
    by decide +kernel, by decide +kernel, fun i h => absurd h (by
      have e : CoreInstr.decode (State.pm ((State.reset.wr (coreRegB 0 131) R.CORE_c_STATUS_RUNNING 1).setReg
          (pmAddr 0 131 0) 0x60000000) (0 : TDie) (131 : CoreIx) 0) = none := by decide +kernel
      intro h2
      exact absurd (e.symm.trans h2) (by simp))⟩

theorem wit_AbsentDieAccess :
    (∃ (p : Path) (w : BitVec 28) (d : Nat) (s : State), pathReaches s p w.toNat = true ∧ s.resetLow = false ∧
        w.toNat < 2 ^ 30 ∧ dieOfWindow (windowOf w.toNat) = some d ∧ bit s.part.present d = false) ∧
    (∃ (p : Path) (a : BitVec 32) (d : Nat) (s : State), pathReaches s p a.toNat = true ∧ s.resetLow = false ∧
        a.toNat < 2 ^ 30 ∧ dieOfWindow (windowOf a.toNat) = some d ∧ bit s.part.present d = false) :=
  ⟨⟨.spi 0, (0x800000 : BitVec 28), (1 : Nat), ({ State.reset with part := .s4d } : State), by decide +kernel⟩,
    ⟨.planner, (0x800000 : BitVec 32), (1 : Nat), ({ State.reset with part := .s4d } : State), by decide +kernel⟩⟩

theorem wit_LockedFieldWrite :
    (∃ (p : Path) (a : BitVec 28) (i : Nat) (o : Nat) (b : Block) (r : RegDesc) (k : Fin 32) (s : State),
        pathReaches s p a.toNat = true ∧ reach s a.toNat = .at_ b i o ∧ ((b = .boot ∧ o = 0x20) ∨ (b = .trg ∧
        o = 0x20 ∧ isLead i = true)) ∧ regAt b o = some r ∧ bit (accMask (some r) (· == .wl)) k = true) :=
  ⟨.spi 0, (0x10020 : BitVec 28),
      (0 : Nat), (0x20 : Nat),
      .boot, ⟨0x20, 0x0, 1, 0x0, [⟨0, 1, .wl⟩, ⟨1, 1, .wl⟩, ⟨2, 1, .wl⟩, ⟨3, 1, .wl⟩, ⟨4, 1, .wl⟩]⟩, (3 : Fin 32),
      ({ State.reset with locked := [(0x10020, 8)] } : State), by decide +kernel⟩

theorem wit_ZeroRepeatSkips :
    (∃ (d : TDie) (c : CoreIx) (e : EccRead) (r : Bool) (n : BitVec 11) (le : BitVec 14) (s : State),
        issues s d c e (.rep r n le) = true ∧ (if r then (s.core d c).readReg (n.toNat % 128) else n.toNat) = 0) :=
  ⟨(0 : TDie), (131 : CoreIx), {}, true, (5 : BitVec 11), (9 : BitVec 14),
      ((State.reset.wr (coreRegB 0 131) R.CORE_c_STATUS_RUNNING 1).setReg (pmAddr 0 131 0) (CoreInstr.encode (.rep true 5 9))), by decide +kernel⟩

theorem wit_GainCodeClamps :
    (∃ (a : ADie) (code : Fin 32) (s : State), s.hasA a = true ∧ 24 < code.val) :=
  ⟨(1 : ADie), (25 : Fin 32), State.reset, by decide +kernel⟩

theorem wit_OwnersOfState : ∃ (c : Instr) (s t : State), exec c s = .next t :=
  ⟨.aliveToggle, State.reset, _, rfl⟩

theorem wit_LinkRowsComplete :
    (∃ (l : Fin 9) (s : State), s.hasLink l = true ∧ (s.linkSt l).training = true) ∧
    (∃ (l : Fin 9) (s : State), s.hasLink l = true ∧ (s.linkSt l).trained = true) ∧
    (∃ (l : Fin 9) (s : State), s.hasLink l = true ∧ (s.linkSt l).trained = true) ∧
    (∃ (d : TDie) (first : Nat) (last : Nat) (s : State), s.usableT d = true ∧ first ≤ last) :=
  ⟨⟨(3 : Fin 9), (State.reset.setLink 3 { training := true }), by decide +kernel⟩,
    ⟨(8 : Fin 9), (State.reset.setLink 8 { trained := true }), by decide +kernel⟩,
    ⟨(8 : Fin 9), (State.reset.setLink 8 { trained := true }), by decide +kernel⟩,
    ⟨(3 : TDie), (5 : Nat), (5 : Nat), State.reset, by decide +kernel⟩⟩

theorem wit_StreamRowsComplete :
    (∃ (a : ADie) (s : State), s.hasA a = true ∧ (s.acqSt a).counting = true) ∧
    (∃ (s : State), s.part = .s2d ∧ s.on (jrxB 0) R.JRX_STATUS_READY = true ∧ s.jrx.lostFrom = none) ∧
    (∃ (a : ADie) (s : State), s.usableA a = true ∧ (s.acqSt a).enabled = false) ∧
    (∃ (a : ADie) (s : State), s.hasA a = true ∧ (s.acqSt a).enabled = true) ∧
    (∃ (a : ADie) (s : State), s.hasA a = true) ∧
    (∃ (a : ADie) (s : State), (s.acqSt a).settling = true ∧ (s.acqSt a).settleLeft = 0) ∧
    (∃ (a : ADie) (s : State), s.usableA a = true) ∧
    (∃ (a : ADie) (s : State), s.hasA a = true) ∧
    (∃ (a : ADie) (s : State), s.hasA a = true) :=
  ⟨⟨(0 : ADie), (State.reset.modAcq 0 fun q => { q with counting := true, gainNext := some 3, spans := [(0, none)] }),
      by decide +kernel⟩,
    ⟨({ State.reset with part := .s2d }.wr (jrxB 0) R.JRX_STATUS_READY 1), by decide +kernel⟩,
    ⟨(0 : ADie), ((State.reset.modAcq 0 fun q => { q with counting := true }).wr (acqB 0) R.CAL_CTRL_MODE 2),
        by decide +kernel⟩,
    ⟨(0 : ADie), (State.reset.modAcq 0 fun q => { q with enabled := true, counting := true, phase := .run, spans := [(0, none)] }), by decide +kernel⟩,
    ⟨(1 : ADie), State.reset, by decide +kernel⟩,
    ⟨(0 : ADie), (State.reset.modAcq 0 fun q => { q with settling := true }), by decide +kernel⟩,
    ⟨(1 : ADie), State.reset, by decide +kernel⟩,
    ⟨(1 : ADie), State.reset, by decide +kernel⟩,
    ⟨(1 : ADie), State.reset, by decide +kernel⟩⟩

theorem wit_CalStepRowsComplete :
    (∃ (a : ADie) (s : State), s.hasA a = true ∧ s.on (acqB a) R.ACQ_STATUS_STREAM = true ∧
        32 * ((s.acqSt a).subStart + 65536) ≤ s.streamHead a) ∧
    (∃ (a : ADie) (s : State), s.hasA a = true ∧ ((s.acqSt a).step = .run ∨ (s.acqSt a).step = .live) ∧
        64 ≤ (s.acqSt a).subs.length ∧ (s.acqSt a).windowDone = false) ∧
    (∃ (a : ADie) (s : State), (s.acqSt a).phase = .run ∧ (s.acqSt a).step = .none ∧ s.calHold a = false ∧
        (s.acqSt a).runSteps < (s.acqSt a).runLength ∧ ((s.acqSt a).frozen = false ∨
        s.on (acqB a) R.ACQ_CTRL_LIVE_TRIM = true)) ∧
    (∃ (a : ADie) (s : State), (s.acqSt a).phase = .idle ∧ (s.acqSt a).step = .none ∧ s.calHold a = false ∧
        (s.acqSt a).frozen = false ∧ s.rd (acqB a) R.CAL_TIMING_STEP_IDLE ≠ 0) ∧
    (∃ (a : ADie) (s : State), ((s.acqSt a).step = .run ∨ (s.acqSt a).step = .idle) ∧ (s.acqSt a).verified = false ∧
        4 ≤ (s.acqSt a).verSubs.length) ∧
    (∃ (a : ADie) (y : Fin 65) (s : State), s.spare a = some y.val ∧ (s.acqSt a).slot < 64 ∧
        (s.acqSt a).inSlot (s.acqSt a).slot < 65 ∧ (s.acqSt a).inSlot (s.acqSt a).slot ≠ y.val ∧
        (s.acqSt a).verified = true ∧ (s.acqSt a).displaced = none ∧ (s.acqSt a).failing = [] ∧
        ((s.acqSt a).step = .idle ∨ ((s.acqSt a).step = .run ∧ (s.acqSt a).windowDone = true))) ∧
    (∃ (a : ADie) (x : Fin 65) (s : State), (s.acqSt a).step = .run ∧ (s.acqSt a).displaced = some x.val) ∧
    (∃ (a : ADie) (s : State), (s.acqSt a).step = .live ∧ (s.acqSt a).windowDone = true ∧
        s.on (acqB a) R.ACQ_CTRL_LIVE_TRIM = true ∧ (s.acqSt a).inSlot (s.acqSt a).slot < 65) ∧
    (∃ (a : ADie) (n : Fin 65) (j : Nat) (rest : List (Nat × Nat)) (k : Fin 64) (s : State),
        (s.acqSt a).failing = (n.val, j) :: rest ∧
        (List.range 64).find? (fun k => (s.acqSt a).inSlot k == n.val) = some k.val) :=
  ⟨⟨(0 : ADie), ((State.reset.modAcq 0 fun q => { q with step := .run, counting := true, frame := 70000 }).wr (acqB 0) R.ACQ_STATUS_STREAM 1), by decide +kernel⟩,
    ⟨(0 : ADie), (State.reset.modAcq 0 fun q => { q with step := .live, subs := List.replicate 64 0 }),
        by decide +kernel⟩,
    ⟨(0 : ADie), (State.reset.modAcq 0 fun q => { q with phase := .run, nextSlot := 5 }), by decide +kernel⟩,
    ⟨(0 : ADie), (State.reset.modAcq 0 fun q => { q with phase := .idle, nextSlot := 63 }), by decide +kernel⟩,
    ⟨(0 : ADie), (State.reset.modAcq 0 fun q => { q with step := .run, verSubs := [0, 1, 2, 3] }), by decide +kernel⟩,
    ⟨(0 : ADie), (64 : Fin 65),
        ((State.reset.modAcq 0 fun q => { q with step := .run, verified := true, windowDone := true, slot := 63 }).wr (acqB 0) R.CAL_STATE_SPARE 64), by decide +kernel, by decide +kernel, by decide +kernel, by decide +kernel, by decide +kernel, by decide +kernel, by decide +kernel, by decide +kernel⟩,
    ⟨(0 : ADie), (7 : Fin 65), (State.reset.modAcq 0 fun q => { q with step := .run, displaced := some 7 }),
        by decide +kernel⟩,
    ⟨(0 : ADie), ((State.reset.modAcq 0 fun q => { q with step := .live, windowDone := true, frozen := true }).wr (acqB 0) R.ACQ_CTRL_LIVE_TRIM 1), by decide +kernel⟩,
    ⟨(0 : ADie), (9 : Fin 65),
        (0 : Nat), [], (9 : Fin 64),
        ((State.reset.modAcq 0 fun q => { q with failing := [(9, 0)] }).wr (acqB 0) R.CAL_STATE_SPARE 64),
        by decide +kernel⟩⟩

theorem wit_CalRunRowsComplete :
    (∃ (a : ADie) (s : State), (s.acqSt a).phase = .run ∧ (s.acqSt a).step = .none ∧
        (s.acqSt a).runLength ≤ (s.acqSt a).runSteps) ∧
    (∃ (a : ADie) (s : State), s.hasA a = true) ∧
    (∃ (a : ADie) (s : State), s.rd (acqB a) R.CAL_LIMITS_MAX_INTERVAL ≠ 0 ∧ (s.acqSt a).ranOnce = true ∧
        (s.acqSt a).enabled = true ∧ s.calMode a = 2 ∧ (s.acqSt a).frozen = false) ∧
    (∃ (a : ADie) (s : State), (s.acqSt a).step ≠ .none ∧ s.rd (acqB a) R.CAL_LIMITS_STAT_TIMEOUT ≠ 0 ∧
        (s.acqSt a).doneAt ≠ some s.time.frc ∧ ((s.acqSt a).step = .idle ∨ (s.acqSt a).windowDone = true ∨
        (s.acqSt a).subs.length < 64)) ∧
    (∃ (a : ADie) (s : State), s.hasA a = true ∧ (s.acqSt a).enabled = true ∧ s.calMode a ≠ 0 ∧
        ((s.acqSt a).frozen = false ∨ s.on (acqB a) R.ACQ_CTRL_LIVE_TRIM = true)) ∧
    (∃ (a : ADie) (s : State), s.hasA a = true) ∧
    (∃ (j : Nat) (s : State), (s.acqSt 0).xskew = some j ∧ j + 2 ^ 24 ≤ s.streamHead 0 ∧
        j + 2 ^ 24 + 64 ≤ s.streamHead 1) ∧
    (∃ (a : ADie) (s : State), s.hasA a = true) :=
  ⟨⟨(0 : ADie), ((State.reset.modAcq 0 fun q => { q with phase := .run, runSteps := 65, rerunCause := some 2 }).wr (acqB 0) R.CAL_CTRL_MODE 2), by decide +kernel⟩,
    ⟨(0 : ADie), ((State.reset.modAcq 0 fun q => { q with enabled := true, phase := .idle }).wr (acqB 0) R.CAL_CTRL_MODE 2), by decide +kernel⟩,
    ⟨(0 : ADie), (((State.reset.modAcq 0 fun q => { q with ranOnce := true, enabled := true, phase := .idle }).wr (acqB 0) R.CAL_CTRL_MODE 2).wr (acqB 0) R.CAL_LIMITS_MAX_INTERVAL 5), by decide +kernel⟩,
    ⟨(0 : ADie), ((State.reset.modAcq 0 fun q => { q with step := .idle }).wr (acqB 0) R.CAL_LIMITS_STAT_TIMEOUT 1),
        by decide +kernel⟩,
    ⟨(0 : ADie), ((State.reset.modAcq 0 fun q => { q with enabled := true, phase := .idle }).wr (acqB 0) R.CAL_CTRL_MODE 1), by decide +kernel⟩,
    ⟨(0 : ADie), (State.reset.modAcq 0 fun q => { q with phase := .run, step := .run }), by decide +kernel⟩,
    ⟨(0 : Nat), ((State.reset.modAcq 0 fun q => { q with xskew := some 0, frame := 600000 }).modAcq 1 fun q => { q with frame := 600000 }), by decide +kernel⟩,
    ⟨(0 : ADie), ((State.reset.modAcq 0 fun q => { q with enabled := true, phase := .run, step := .run }).wr (acqB 0) R.CAL_CTRL_MODE 2), by decide +kernel⟩⟩

theorem wit_JrxRowsComplete :
    (∃ (s : State), s.part = .s2d ∧ s.on (jrxB 0) R.JRX_CTRL_EN = false) ∧
    (∃ (lane : Fin 16) (s : State), s.part = .s2d ∧ s.on (jrxB 0) R.JRX_CTRL_EN = true ∧ lane.val < s.jrxLanes) ∧
    (∃ (s : State), s.part = .s2d ∧ s.on (jrxB 0) R.JRX_CTRL_EN = true ∧ s.jrxLocked = true ∧ s.jrx.lemc ≠ none) ∧
    (∃ (s : State), s.part = .s2d ∧ s.on (jrxB 0) R.JRX_CTRL_EN = true) ∧
    (∃ (lane : Fin 16) (s : State), s.part = .s2d ∧ bit (s.rd (jrxB 0) R.JRX_STATUS_LANE_LOCK) lane = true) :=
  ⟨⟨{ State.reset with part := .s2d }, by decide +kernel⟩,
    ⟨(3 : Fin 16), ({ State.reset with part := .s2d, wb := [] }.wr (jrxB 0) R.JRX_CTRL_EN 1), by decide +kernel⟩,
    ⟨{ ({ State.reset with part := .s2d, wb := [] }.wr (jrxB 0) R.JRX_CTRL_EN 1).wr (jrxB 0) R.JRX_STATUS_LANE_LOCK 0xFFFF with jrx := { lemc := some 0 } }, by decide +kernel⟩,
    ⟨({ State.reset with part := .s2d, wb := [] }.wr (jrxB 0) R.JRX_CTRL_EN 1), by decide +kernel⟩,
    ⟨(15 : Fin 16), (({ State.reset with part := .s2d, wb := [] }.wr (jrxB 0) R.JRX_CTRL_EN 1).wr (jrxB 0) R.JRX_STATUS_LANE_LOCK 0x8000), by decide +kernel⟩⟩

theorem wit_WbRowsComplete :
    (∃ (d : TDie) (s : State), s.usableT d = true ∧ isLead d = true) ∧
    (∃ (d : TDie) (s : State), s.usableT d = true) ∧
    (∃ (d : TDie) (s : State), s.on (wbB d) R.WB_SHADOW_HELD = true ∧ s.on (wbB d) R.WB_SHADOW_PENDING = false) ∧
    (∃ (d : TDie) (sw : Nat) (s : State), (s.wbSt d).sw = some sw) ∧
    (∃ (d : TDie) (s : State), s.on (wbB d) R.WB_SHADOW_PENDING = true ∧ (s.wbSt d).sw = none ∧
        (s.wbSt d).waitStart = false ∧ (s.onF (wbB d) R.WB_CTRL_EN = false ∨
        ((s.wbSt d).baseIdx < (s.wbSt d).doneLead ∧ (s.wbOverlap d ≠ 3 ∨ s.usableT (d + 1 : Nat) = false ∨
        (s.wbSt d).baseIdx < (s.wbSt d).donePartner)))) ∧
    (∃ (d : TDie) (s : State), s.hasT d = true) ∧
    (∃ (d : TDie) (s : State), s.hasT d = true) ∧
    (∃ (d : TDie) (start : Nat) (s : State), specDue s d start = true ∧
        (pipeOf s (pairLead d) start).any (fun p => s.brokenPipes.contains (4 * p.1 + p.2)) = false) ∧
    (∃ (d : TDie) (start : Nat) (s : State), specDue s d start = true ∧
        (pipeOf s (pairLead d) start).any (fun p => s.brokenPipes.contains (4 * p.1 + p.2)) = true) ∧
    (∃ (d : TDie) (start : Nat) (e : LostSpec) (s : State),
        (s.wbSt (pairLead d)).lost.find? (fun x => x.start == start) = some e ∧ s.usableT d = true ∧
        pipeReplay s (pairLead d) = true) ∧
    (∃ (d : TDie) (p : Det) (s : State), isLead d = true ∧ s.wbOverlap d = 3 ∧ mergeReady s d = true ∧
        (s.wbSt d).parts.head? = some p) ∧
    (∃ (d : TDie) (first : Nat) (e : TraceLack) (s : State),
        (s.wbSt (pairLead d)).incomplete.find? (fun x => x.first == first) = some e ∧ s.usableT d = true ∧
        (e.set.baseIdx ≠ (s.wbSt (pairLead d)).baseIdx ∨ first + e.n ≤ (s.wbSt (pairLead d)).relIdx) ∧
        ((s.wbSt (pairLead d)).lost.any fun x => decide (first ≤ x.idx) && decide (x.idx < first + e.n)) = false) :=
  ⟨⟨(2 : TDie), (State.reset.modWb 2 fun w => { w with running := true }), by decide +kernel⟩,
    ⟨(0 : TDie), State.reset, by decide +kernel⟩,
    ⟨(0 : TDie), (State.reset.wr (wbB 0) R.WB_SHADOW_HELD 1), by decide +kernel⟩,
    ⟨(0 : TDie), (65536 : Nat), (State.reset.modWb 0 fun w => { w with sw := some 65536 }), by decide +kernel⟩,
    ⟨(0 : TDie), (State.reset.wr (wbB 0) R.WB_SHADOW_PENDING 1), by decide +kernel⟩,
    ⟨(3 : TDie), (State.reset.wr (wbB 3) R.WB_WTAB_ADDR_ADDR 65535), by decide +kernel⟩,
    ⟨(3 : TDie), State.reset, by decide +kernel⟩,
    ⟨(0 : TDie), (0 : Nat),
        ({ State.reset with force := [(wbB 0 + 4, 0x601)], acq := [(0, { frame := 10 })] }.modWb 0 fun w => { w with running := true, pipes := [(0, 1)] }), by decide +kernel⟩,
    ⟨(0 : TDie), (0 : Nat),
        { ({ State.reset with force := [(wbB 0 + 4, 0x601)], acq := [(0, { frame := 10 })] }.modWb 0 fun w => { w with running := true, pipes := [(0, 1)] }) with brokenPipes := [0] }, by decide +kernel⟩,
    ⟨(0 : TDie), (64 : Nat),
        { idx := 1, start := 64, set := { log2n := 6, overlap := 0, window := 4, det := 0, d := 1, l := 1, domain := 0, fixed := false, shift := 0, out := 0, every := 1, baseStart := 0, baseIdx := 0, tab := [] } }, ({ State.reset with repairs := [(0, { active := some ⟨96, 0⟩ })] }.modWb 0 fun w => { w with lost := [{ idx := 1, start := 64, set := { log2n := 6, overlap := 0, window := 4, det := 0, d := 1, l := 1, domain := 0, fixed := false, shift := 0, out := 0, every := 1, baseStart := 0, baseIdx := 0, tab := [] } }] }), by decide +kernel⟩,
    ⟨(0 : TDie), { n := 1, flags := 3 }, ({ State.reset with force := [(wbB 0 + 4, 0x36FF)] }.modWb 0 fun w => { w with parts := [{ n := 1, flags := 3 }, { n := 1 }] }), by decide +kernel⟩,
    ⟨(0 : TDie), (0 : Nat),
        { first := 0, n := 1, sts := 0, start := 0, set := { log2n := 6, overlap := 0, window := 4, det := 0, d := 1, l := 1, domain := 0, fixed := false, shift := 0, out := 0, every := 1, baseStart := 0, baseIdx := 5, tab := [] } }, (State.reset.modWb 0 fun w => { w with incomplete := [{ first := 0, n := 1, sts := 0, start := 0, set := { log2n := 6, overlap := 0, window := 4, det := 0, d := 1, l := 1, domain := 0, fixed := false, shift := 0, out := 0, every := 1, baseStart := 0, baseIdx := 5, tab := [] } }] }), by decide +kernel⟩⟩

theorem wit_TrgFabricRowsComplete :
    (∃ (d : TDie) (c : Fin 16) (n : Nat) (on : Bool) (s : State), condOn s (pairLead d) (pairCond d c) = true ∧
        (s.condSt (pairLead d) (pairCond d c)).state = on ∧
        (condNext s (pairLead d) (pairCond d c)) + n < condLimit s (pairLead d) ∧
        (∀ i < n + 1, condType s (pairLead d) ((condNext s (pairLead d) (pairCond d c)) + i) (pairCond d c) = 3) ∧
        (∀ i < n, levelOn s (pairLead d) (pairCond d c) ((condNext s (pairLead d) (pairCond d c)) + i) on = on) ∧
        levelOn s (pairLead d) (pairCond d c) ((condNext s (pairLead d) (pairCond d c)) + n) on = !on) ∧
    (∃ (d : TDie) (c : Fin 16) (n : Nat) (s : State), condOn s (pairLead d) (pairCond d c) = true ∧
        (condNext s (pairLead d) (pairCond d c)) < condLimit s (pairLead d) ∧
        condLimit s (pairLead d) = (condNext s (pairLead d) (pairCond d c)) + n ∧
        (∀ i < n, condType s (pairLead d) ((condNext s (pairLead d) (pairCond d c)) + i) (pairCond d c) = 3) ∧
        (∀ i < n, levelOn s (pairLead d) (pairCond d c) ((condNext s (pairLead d) (pairCond d c)) + i) (s.condSt (pairLead d) (pairCond d c)).state = (s.condSt (pairLead d) (pairCond d c)).state)) ∧
    (∃ (d : TDie) (c : Fin 16) (m : Nat) (n : Nat) (s : State), condOn s (pairLead d) (pairCond d c) = true ∧
        (s.condSt (pairLead d) (pairCond d c)).level = false ∧ (s.condSt (pairLead d) (pairCond d c)).state = false ∧
        0 < n ∧ (condNext s (pairLead d) (pairCond d c)) + m + n < condLimit s (pairLead d) ∧
        (∀ i < m + n + 1, condType s (pairLead d) ((condNext s (pairLead d) (pairCond d c)) + i) (pairCond d c) = 4) ∧
        (∀ i < m + n + 1, s.onT (pairLead d) ((condNext s (pairLead d) (pairCond d c)) + i) (condB (pairLead d) (pairCond d c)) R.TRG_COND_c_WMIN_OUTSIDE = false) ∧ (∀ i < m, levelOn s (pairLead d) (pairCond d c) ((condNext s (pairLead d) (pairCond d c)) + i) false = false) ∧ levelOn s (pairLead d) (pairCond d c) ((condNext s (pairLead d) (pairCond d c)) + m) false = true ∧ (∀ i < n, levelOn s (pairLead d) (pairCond d c) ((condNext s (pairLead d) (pairCond d c)) + m + i) true = true) ∧ levelOn s (pairLead d) (pairCond d c) ((condNext s (pairLead d) (pairCond d c)) + m + n) true = false ∧ s.rdT (pairLead d) ((condNext s (pairLead d) (pairCond d c)) + m + n) (condB (pairLead d) (pairCond d c)) R.TRG_COND_c_WMIN_WMIN ≤ n ∧ n ≤ s.rdT (pairLead d) ((condNext s (pairLead d) (pairCond d c)) + m + n) (condB (pairLead d) (pairCond d c)) R.TRG_COND_c_WMAX_WMAX) ∧
    (∃ (d : TDie) (c : Fin 16) (m : Nat) (n : Nat) (s : State), condOn s (pairLead d) (pairCond d c) = true ∧
        (s.condSt (pairLead d) (pairCond d c)).level = false ∧ (s.condSt (pairLead d) (pairCond d c)).state = false ∧
        0 < n ∧ (condNext s (pairLead d) (pairCond d c)) + m + n < condLimit s (pairLead d) ∧
        (∀ i < m + n + 1, condType s (pairLead d) ((condNext s (pairLead d) (pairCond d c)) + i) (pairCond d c) = 4) ∧
        (∀ i < n + 1, s.onT (pairLead d) ((condNext s (pairLead d) (pairCond d c)) + m + i) (condB (pairLead d) (pairCond d c)) R.TRG_COND_c_WMIN_OUTSIDE = true) ∧ (∀ i < n, i ≠ s.rdT (pairLead d) ((condNext s (pairLead d) (pairCond d c)) + m + i) (condB (pairLead d) (pairCond d c)) R.TRG_COND_c_WMAX_WMAX) ∧ (∀ i < m, levelOn s (pairLead d) (pairCond d c) ((condNext s (pairLead d) (pairCond d c)) + i) false = false) ∧ levelOn s (pairLead d) (pairCond d c) ((condNext s (pairLead d) (pairCond d c)) + m) false = true ∧ (∀ i < n, levelOn s (pairLead d) (pairCond d c) ((condNext s (pairLead d) (pairCond d c)) + m + i) true = true) ∧ levelOn s (pairLead d) (pairCond d c) ((condNext s (pairLead d) (pairCond d c)) + m + n) true = false ∧ n < s.rdT (pairLead d) ((condNext s (pairLead d) (pairCond d c)) + m + n) (condB (pairLead d) (pairCond d c)) R.TRG_COND_c_WMIN_WMIN) ∧
    (∃ (d : TDie) (c : Fin 16) (m : Nat) (n : Nat) (s : State), condOn s (pairLead d) (pairCond d c) = true ∧
        (s.condSt (pairLead d) (pairCond d c)).level = false ∧ (s.condSt (pairLead d) (pairCond d c)).state = false ∧
        (condNext s (pairLead d) (pairCond d c)) + m + n < condLimit s (pairLead d) ∧
        (∀ i < m + n + 1, condType s (pairLead d) ((condNext s (pairLead d) (pairCond d c)) + i) (pairCond d c) = 4) ∧
        (∀ i < n + 1, s.onT (pairLead d) ((condNext s (pairLead d) (pairCond d c)) + m + i) (condB (pairLead d) (pairCond d c)) R.TRG_COND_c_WMIN_OUTSIDE = true) ∧ (∀ i < n, i ≠ s.rdT (pairLead d) ((condNext s (pairLead d) (pairCond d c)) + m + i) (condB (pairLead d) (pairCond d c)) R.TRG_COND_c_WMAX_WMAX) ∧ n = s.rdT (pairLead d) ((condNext s (pairLead d) (pairCond d c)) + m + n) (condB (pairLead d) (pairCond d c)) R.TRG_COND_c_WMAX_WMAX ∧ (∀ i < m, levelOn s (pairLead d) (pairCond d c) ((condNext s (pairLead d) (pairCond d c)) + i) false = false) ∧ levelOn s (pairLead d) (pairCond d c) ((condNext s (pairLead d) (pairCond d c)) + m) false = true ∧ (∀ i < n + 1, levelOn s (pairLead d) (pairCond d c) ((condNext s (pairLead d) (pairCond d c)) + m + i) true = true)) ∧
    (∃ (d : TDie) (c : Fin 16) (n : Nat) (s : State), condOn s (pairLead d) (pairCond d c) = true ∧
        (s.condSt (pairLead d) (pairCond d c)).level = true ∧ (s.condSt (pairLead d) (pairCond d c)).state = true ∧
        (condNext s (pairLead d) (pairCond d c)) + n < condLimit s (pairLead d) ∧
        (∀ i < n + 1, condType s (pairLead d) ((condNext s (pairLead d) (pairCond d c)) + i) (pairCond d c) = 4) ∧
        (∀ i < n, (condNext s (pairLead d) (pairCond d c)) + i - (s.condSt (pairLead d) (pairCond d c)).pulse ≠ s.rdT (pairLead d) ((condNext s (pairLead d) (pairCond d c)) + i) (condB (pairLead d) (pairCond d c)) R.TRG_COND_c_WMAX_WMAX ∨ s.onT (pairLead d) ((condNext s (pairLead d) (pairCond d c)) + i) (condB (pairLead d) (pairCond d c)) R.TRG_COND_c_WMIN_OUTSIDE = false) ∧ (∀ i < n, levelOn s (pairLead d) (pairCond d c) ((condNext s (pairLead d) (pairCond d c)) + i) true = true) ∧ levelOn s (pairLead d) (pairCond d c) ((condNext s (pairLead d) (pairCond d c)) + n) true = false) ∧
    (∃ (d : TDie) (j : Nat) (s : State), isLead d = true ∧ s.usableT d = true ∧ s.on (trgB d) R.TRG_CTRL_EN = true ∧
        (s.wbSt d).running = true ∧ (s.trgSt d).evaluated ≤ j ∧
        (s.trgSt d).log.all (fun e => decide (e.at_ < (s.trgSt d).evaluated) || decide (j < e.at_)) = true ∧
        (∀ k ∈ switches s d, k < (s.trgSt d).evaluated ∨ j < k)) ∧
    (∃ (d : TDie) (j : Nat) (u : Fin 8) (e : TrgEntry) (s : State), isLead d = true ∧ s.usableT d = true ∧
        s.on (trgB d) R.TRG_CTRL_EN = true ∧ (s.wbSt d).running = true ∧ (s.trgSt d).log = [e] ∧
        (s.trgSt d).evaluated ≤ e.at_ ∧ e.at_ ≤ j ∧ e.hit = true ∧ e.src < 32 ∧
        bit (unitCfg s d u e.at_).aC e.src = true ∧ (unitCfg s d u e.at_).en = true ∧ (unitCfg s d u e.at_).mode = 0 ∧
        (unitCfg s d u e.at_).aAnd = false ∧ (s.unitSt d u).held = none ∧ mayIssue s d u e.at_) ∧
    (∃ (d : TDie) (j : Nat) (u : Fin 8) (e : TrgEntry) (a : Nat) (g : Fire) (s : State), isLead d = true ∧
        s.usableT d = true ∧ s.on (trgB d) R.TRG_CTRL_EN = true ∧ (s.wbSt d).running = true ∧ (s.trgSt d).log = [e] ∧
        (s.trgSt d).old = [] ∧ (s.trgSt d).evaluated ≤ e.at_ ∧ e.at_ ≤ j ∧ e.hit = true ∧ e.src < 32 ∧
        bit (unitCfg s d u e.at_).bC e.src = true ∧ bit (unitCfg s d u e.at_).aC e.src = false ∧
        (unitCfg s d u e.at_).aAnd = false ∧ (unitCfg s d u e.at_).en = true ∧ (unitCfg s d u e.at_).mode = 1 ∧
        (unitCfg s d u e.at_).bAnd = false ∧ (s.unitSt d u).held = some (a, g) ∧ e.at_ ≤ a + (unitCfg s d u e.at_).w ∧
        mayIssue s d u e.at_) ∧
    (∃ (d : TDie) (u : Fin 8) (a : Nat) (f : Fire) (s : State), isLead d = true ∧ (s.unitSt d u).held = some (a, f) ∧
        a + (unitCfg s d u a).w < (s.trgSt d).evaluated ∧ (∀ k ∈ switches s d, k ≤ a ∨ a + (unitCfg s d u a).w < k)) ∧
    (∃ (d : TDie) (u : Fin 8) (s : State), isLead d = true ∧
        (s.unitSt d u).ends.all (fun e => decide (e.2 ≤ (s.trgSt d).evaluated)) = true) ∧
    (∃ (d : TDie) (s : State), isLead d = true ∧ s.usableT d = true ∧ s.on (trgB d) R.TRG_CTRL_EN = true ∧
        (s.wbSt d).running = true) ∧
    (∃ (d : TDie) (u : Fin 8) (j : Nat) (s : State), isLead d = true ∧ s.usableT d = true ∧
        s.on (trgB d) R.TRG_CTRL_EN = true ∧ (s.wbSt d).running = true ∧
        0 < s.rdT d j (unitB d u) R.TRGU_u_TIMER_PERIOD ∧ j % (8 * s.rdT d j (unitB d u) R.TRGU_u_TIMER_PERIOD) = 0) ∧
    (∃ (d : TDie) (e : TrgEntry) (r : List (TrgEntry × Bool)) (s : State), isLead d = true ∧
        (s.trgSt d).late = (e, true) :: r ∧ (s.trgSt d).old = []) ∧
    (∃ (d : TDie) (e : TrgEntry) (r : List (TrgEntry × Bool)) (s : State), isLead d = true ∧
        (s.trgSt d).late = (e, false) :: r) :=
  ⟨⟨(0 : TDie), (0 : Fin 16),
      (3 : Nat), true, (({ State.reset with force := [(condB 0 0 + 0x100, 3), (condB 0 0 + 0x108, 0xF000)], stream := [(0, (8000000, 0)), (1, (8000000, 0)), (2, (8000000, 0))], acq := [(0, { frame := 6 })] }.wr (trgB 0) R.TRG_CTRL_EN 1).modTrg 0 fun q => { q with conds := [(0, { state := true })] }), by decide +kernel, by decide +kernel, by decide +kernel, by decide +kernel, by decide +kernel, by decide +kernel⟩,
    ⟨(0 : TDie), (0 : Fin 16),
        (64 : Nat), (({ State.reset with force := [(condB 0 0 + 0x100, 3), (condB 0 0 + 0x108, 0xF000)], stream := [], acq := [(0, { frame := 6 })] }.wr (trgB 0) R.TRG_CTRL_EN 1).modTrg 0 fun q => { q with  }), by decide +kernel⟩,
    ⟨(0 : TDie), (0 : Fin 16),
        (2 : Nat), (3 : Nat), (({ State.reset with force := [(condB 0 0 + 0x100, 4), (condB 0 0 + 0x108, 0xF000), (condB 0 0 + 0x110, 2), (condB 0 0 + 0x114, 7)], stream := [(2, (8000000, 0)), (3, (8000000, 0)), (4, (8000000, 0))], acq := [(0, { frame := 6 })] }.wr (trgB 0) R.TRG_CTRL_EN 1).modTrg 0 fun q => { q with  }), by decide +kernel, by decide +kernel, by decide +kernel, by decide +kernel, by decide +kernel, by decide +kernel, by decide +kernel, by decide +kernel, by decide +kernel, by decide +kernel, by decide +kernel, by decide +kernel, by decide +kernel⟩,
    ⟨(0 : TDie), (0 : Fin 16),
        (1 : Nat), (2 : Nat), (({ State.reset with force := [(condB 0 0 + 0x100, 4), (condB 0 0 + 0x108, 0xF000), (condB 0 0 + 0x110, 2147483651), (condB 0 0 + 0x114, 7)], stream := [(1, (8000000, 0)), (2, (8000000, 0))], acq := [(0, { frame := 6 })] }.wr (trgB 0) R.TRG_CTRL_EN 1).modTrg 0 fun q => { q with  }), by decide +kernel, by decide +kernel, by decide +kernel, by decide +kernel, by decide +kernel, by decide +kernel, by decide +kernel, by decide +kernel, by decide +kernel, by decide +kernel, by decide +kernel, by decide +kernel, by decide +kernel⟩,
    ⟨(0 : TDie), (0 : Fin 16),
        (1 : Nat), (2 : Nat), (({ State.reset with force := [(condB 0 0 + 0x100, 4), (condB 0 0 + 0x108, 0xF000), (condB 0 0 + 0x110, 2147483651), (condB 0 0 + 0x114, 2)], stream := [(1, (8000000, 0)), (2, (8000000, 0)), (3, (8000000, 0))], acq := [(0, { frame := 6 })] }.wr (trgB 0) R.TRG_CTRL_EN 1).modTrg 0 fun q => { q with  }), by decide +kernel, by decide +kernel, by decide +kernel, by decide +kernel, by decide +kernel, by decide +kernel, by decide +kernel, by decide +kernel, by decide +kernel, by decide +kernel, by decide +kernel⟩,
    ⟨(0 : TDie), (0 : Fin 16),
        (2 : Nat), (({ State.reset with force := [(condB 0 0 + 0x100, 4), (condB 0 0 + 0x108, 0xF000), (condB 0 0 + 0x110, 2147483651), (condB 0 0 + 0x114, 2)], stream := [(4, (8000000, 0)), (5, (8000000, 0))], acq := [(0, { frame := 6 })] }.wr (trgB 0) R.TRG_CTRL_EN 1).modTrg 0 fun q => { q with conds := [(0, { state := true, level := true, next := 4, pulse := 1 })] }), by decide +kernel, by decide +kernel, by decide +kernel, by decide +kernel, by decide +kernel, by decide +kernel, by decide +kernel, by decide +kernel⟩,
    ⟨(0 : TDie), (100 : Nat), (State.reset.wr (trgB 0) R.TRG_CTRL_EN 1 |>.modWb 0 fun w => { w with running := true }),
        by decide +kernel, by decide +kernel, by decide +kernel, by decide +kernel, by decide +kernel,
        by decide +kernel, by decide +kernel⟩,
    ⟨(0 : TDie), (100 : Nat),
        (7 : Fin 8), { at_ := 50, src := 3, hit := true, state := some true }, ((({ State.reset with force := [(unitB 0 7 + 0x400, 1), (unitB 0 7 + 0x404, 8)] }.wr (trgB 0) R.TRG_CTRL_EN 1).wr (unitB 0 7) R.TRGU_u_STATUS_ARMED 1).modWb 0 fun w => { w with running := true }).modTrg 0 (fun q => { q with log := [{ at_ := 50, src := 3, hit := true, state := some true }] }), by decide +kernel, by decide +kernel, by decide +kernel, by decide +kernel, by decide +kernel, by decide +kernel, by decide +kernel, by decide +kernel, by decide +kernel, by decide +kernel, by decide +kernel, by decide +kernel, by decide +kernel, by decide +kernel, by decide +kernel⟩,
    ⟨(0 : TDie), (100 : Nat), (7 : Fin 8), { at_ := 50, src := 3, hit := true, state := some true }, (45 : Nat),
        {}, ((((({ State.reset with force := [(unitB 0 7 + 0x400, 3), (unitB 0 7 + 0x408, 8), (unitB 0 7 + 0x410, 9)] }.wr (trgB 0) R.TRG_CTRL_EN 1).wr (unitB 0 7) R.TRGU_u_STATUS_ARMED 1).modWb 0 fun w => { w with running := true }).modTrg 0 (fun q => { q with log := [{ at_ := 50, src := 3, hit := true, state := some true }] })).modUnit 0 7 fun q => { q with held := some (45, {}) }), by decide +kernel, by decide +kernel, by decide +kernel, by decide +kernel, by decide +kernel, by decide +kernel, by decide +kernel, by decide +kernel, by decide +kernel, by decide +kernel, by decide +kernel, by decide +kernel, by decide +kernel, by decide +kernel, by decide +kernel, by decide +kernel, by decide +kernel, by decide +kernel, by decide +kernel⟩,
    ⟨(0 : TDie), (7 : Fin 8),
        (3 : Nat), {}, ((State.reset.modTrg 0 fun q => { q with evaluated := 10 }).modUnit 0 7 fun q => { q with held := some (3, {}) }), by decide +kernel⟩,
    ⟨(0 : TDie), (7 : Fin 8), (State.reset.wr (unitB 0 7) R.TRGU_u_STATUS_HOLDOFF 1), by decide +kernel⟩,
    ⟨(0 : TDie), (State.reset.wr (trgB 0) R.TRG_CTRL_EN 1 |>.modWb 0 fun w => { w with running := true }),
        by decide +kernel⟩,
    ⟨(0 : TDie), (0 : Fin 8),
        (16 : Nat), { (State.reset.wr (trgB 0) R.TRG_CTRL_EN 1 |>.modWb 0 fun w => { w with running := true }) with force := [(unitB 0 0 + R.TRGU_u_TIMER_PERIOD.off, 2)] }, by decide +kernel, by decide +kernel, by decide +kernel, by decide +kernel, by decide +kernel, by decide +kernel⟩,
    ⟨(0 : TDie), { at_ := 50, src := 3, hit := true, state := some true }, [], ((({ State.reset with force := [(unitB 0 7 + 0x400, 1), (unitB 0 7 + 0x404, 8)] }.wr (trgB 0) R.TRG_CTRL_EN 1).wr (unitB 0 7) R.TRGU_u_STATUS_ARMED 1).modWb 0 fun w => { w with running := true }).modTrg 0 (fun q => { q with evaluated := 60, late := [({ at_ := 50, src := 3, hit := true, state := some true }, true)] }), by decide +kernel⟩,
    ⟨(0 : TDie), { at_ := 50, src := 3, hit := true, state := some true }, [], ((({ State.reset with force := [(unitB 0 7 + 0x400, 1), (unitB 0 7 + 0x404, 8)] }.wr (trgB 0) R.TRG_CTRL_EN 1).wr (unitB 0 7) R.TRGU_u_STATUS_ARMED 1).modWb 0 fun w => { w with running := true }).modTrg 0 (fun q => { q with evaluated := 60, late := [({ at_ := 50, src := 3, hit := true, state := some true }, false)] }), by decide +kernel⟩⟩

theorem wit_TrgMessageRowsComplete :
    (∃ (d : TDie) (m : List Byte) (n : Nat) (r : List (List Byte × Nat)) (s : State),
        (s.trgSt d).outbox = (m, n) :: r) ∧
    (∃ (d : TDie) (m : List Byte) (n : Nat) (r : List (List Byte × Nat)) (s : State),
        (s.trgSt d).repeats = (m, n) :: r) ∧
    (∃ (l : TDie) (m : List Byte) (s : State), isLead l = true ∧ s.usableT l = true ∧ messageFault s l m ≠ 0) ∧
    (∃ (l : TDie) (u : Fin 8) (m : List Byte) (s : State), isLead l = true ∧ s.usableT l = true ∧
        messageFault s l m = 0 ∧ (s.sampleFrc (inputOf l) 0).isSome = true ∧
        s.onT l (s.sampleAt (inputOf l) (ofSts (msgField m 16 12))) (unitB l u) R.TRGU_u_CTRL_NET_RX = true ∧
        bit (s.rdT l (s.sampleAt (inputOf l) (ofSts (msgField m 16 12))) (unitB l u) R.TRGU_u_CTRL_RXGROUPS) (msgField m 11 1) = true) ∧
    (∃ (d : TDie) (s : State), isLead d = true ∧ s.usableT d = true ∧ s.on (trgB d) R.TRG_SHADOW_PENDING = false ∧
        s.on (trgB d) R.TRG_SHADOW_HELD = false) ∧
    (∃ (d : TDie) (s : State), isLead d = true ∧ s.usableT d = true ∧ (s.on (trgB d) R.TRG_SHADOW_PENDING = true ∨
        s.on (trgB d) R.TRG_SHADOW_HELD = true)) ∧
    (∃ (d : TDie) (s : State), isLead d = true ∧ s.usableT d = true) ∧
    (∃ (d : TDie) (s : State), isLead d = true ∧ s.on (trgB d) R.TRG_SHADOW_HELD = true ∧
        s.on (trgB d) R.TRG_SHADOW_PENDING = false) ∧
    (∃ (d : TDie) (sw : Nat) (s : State), isLead d = true ∧ (s.trgSt d).sw = some sw) ∧
    (∃ (d : TDie) (sw : Nat) (s : State), (s.trgSt d).sw = none ∧ (s.trgSt d).waitStart = false ∧
        (s.trgSt d).lastSw = some sw ∧ sw < (s.trgSt d).evaluated ∧ (s.onF (wbB d) R.WB_CTRL_EN = false ∨
        (s.wbSt d).running = false ∨
      (((s.trgSt d).specSince = true ∨ hasSpectral s d 0 = false) ∧ ((s.trgSt d).detSince = true ∨
          hasSpectral s d 1 = false)))) ∧
    (∃ (d : TDie) (s : State), s.hasT d = true) ∧
    (∃ (d : TDie) (s : State), s.hasT d = true) ∧
    (∃ (d : TDie) (m : AutoMask) (w : Fin 17) (lv : List Int) (s : State), isLead d = true ∧ s.usableT d = true ∧
        s.on (trgB d) R.TRG_SHADOW_PENDING = false ∧ s.on (trgB d) R.TRG_SHADOW_HELD = false ∧ (s.wbSt d).auto = [m] ∧
        m.table < 4 ∧ m.trace = some lv ∧ lv.length = 2 ^ w.val) :=
  ⟨⟨(0 : TDie), List.replicate 48 (0 : Byte),
      (2 : Nat), [], (State.reset.modTrg 0 fun q => { q with outbox := [(List.replicate 48 (0 : Byte), 2)] }),
      by decide +kernel⟩,
    ⟨(2 : TDie), List.replicate 48 (0 : Byte),
        (1 : Nat), [], (State.reset.modTrg 2 fun q => { q with repeats := [(List.replicate 48 (0 : Byte), 1)] }),
        by decide +kernel⟩,
    ⟨(0 : TDie), [], State.reset, by decide +kernel⟩,
    ⟨(0 : TDie), (2 : Fin 8),
        [0x53, 0x47, 1] ++ List.replicate 4 0 ++ [1] ++ List.replicate 40 0, { State.reset with force := [(unitB 0 2 + 0x400, 0x01000080)], time := { State.reset.time with rs0 := some 0 } }, by decide +kernel, by decide +kernel, by decide +kernel, by decide +kernel, by decide +kernel, by decide +kernel⟩,
    ⟨(2 : TDie), (State.reset.wr (trgB 2) R.TRG_SHADOW_SHADOW_DIRTY 1), by decide +kernel⟩,
    ⟨(0 : TDie), (State.reset.wr (trgB 0) R.TRG_SHADOW_PENDING 1), by decide +kernel⟩,
    ⟨(2 : TDie), (State.reset.wr (trgB 2) R.TRG_SHADOW_SHADOW_DIRTY 1), by decide +kernel⟩,
    ⟨(0 : TDie), (State.reset.wr (trgB 0) R.TRG_SHADOW_HELD 1), by decide +kernel⟩,
    ⟨(0 : TDie), (8192 : Nat), (State.reset.modTrg 0 fun q => { q with sw := some 8192 }), by decide +kernel⟩,
    ⟨(0 : TDie), (4 : Nat),
        ((State.reset.modTrg 0 fun q => { q with lastSw := some 4, evaluated := 5 }).wr (trgB 0) R.TRG_SHADOW_PENDING 1), by decide +kernel⟩,
    ⟨(0 : TDie), (State.reset.wr (trgB 0) R.TRG_MASK_ADDR_ENTRY 65535), by decide +kernel⟩,
    ⟨(0 : TDie), (State.reset.wr (trgB 0) R.TRG_MASK_ADDR_ENTRY 65535), by decide +kernel⟩,
    ⟨(0 : TDie), { table := 3, margin := 768, len := 64, trace := some (List.replicate 64 5) }, (6 : Fin 17),
        List.replicate 64 5, (State.reset.modWb 0 fun q => { q with auto := [{ table := 3, margin := 768, len := 64, trace := some (List.replicate 64 5) }] }), by decide +kernel, by decide +kernel, by decide +kernel, by decide +kernel, by decide +kernel, by decide +kernel, by decide +kernel, by decide +kernel⟩⟩

theorem wit_RecRowsComplete :
    (∃ (d : TDie) (f : Nat) (s : State), isLead d = true ∧ forwarder s d = some f ∧
        s.on (recB d) R.REC_TARN_CTRL_EN = true ∧ (s.wbSt d).running = true ∧ (s.recSt d).tarn.run = false ∧
        s.anyFrozen (hubOf s d) = false) ∧
    (∃ (d : TDie) (s : State), (s.recSt (pairLead d)).tarn.run = true ∧ forwarder s (pairLead d) = some d.val ∧
        (s.recSt (pairLead d)).tarn.src = d.val ∧
        ((s.recSt (pairLead d)).tarn.next + 1) * 65536 ≤ s.streamHead (inputOf (pairLead d)) ∧
        s.anyFrozen (hubOf s (pairLead d)) = false ∧ 0 < (s.recSt (pairLead d)).tarn.depth ∧
        (s.recSt (pairLead d)).tarn.base + (s.recSt (pairLead d)).tarn.depth * (393216 + 16) ≤ 2 ^ 40) ∧
    (∃ (d : TDie) (a : Nat) (m0 : Nat) (s : State), isLead d = true ∧ s.usableT d = true ∧
        s.on (recB d) R.REC_STATUS_RUN = false ∧ a = s.rd (recB d) R.REC_REGION_SIZE_SIZE * 2 ^ 20 ∧
        m0 = min 1048576 (max 1 (s.rd (recB d) R.REC_SEGS_M))) ∧
    (∃ (d : TDie) (s : State), isLead d = true ∧ s.on (recB d) R.REC_STATUS_RUN = true ∧ recMode s d ≠ 2) ∧
    (∃ (d : TDie) (s : State), isLead d = true ∧ s.on (recB d) R.REC_STATUS_RUN = true ∧ recMode s d = 2) ∧
    (∃ (d : TDie) (e : TrgEvent) (r : List TrgEvent) (s : State), (s.trgSt d).events = e :: r ∧
        bit (s.rdL (recB d) R.REC_CTRL_UNITS) e.unit = true ∧ s.on (recB d) R.REC_STATUS_RUN = true ∧
        (s.recSt d).stopping = false ∧ (recMode s d = 1 ∨ (s.recSt d).nextSeg < (s.recSt d).m) ∧
        (s.onL (recB d) R.REC_CTRL_NETWIN = false ∨ bit e.fire.xsrc 4 = false) ∧ recPre s d ≤ e.sample ∧
        (s.recSt d).tarn.oldest ≤ e.sample - recPre s d ∧ ((s.recSt d).tarn.run = true ∨
        e.sample < (s.recSt d).tarn.head) ∧ (recMode s d = 2 ∨
        recPre s d + recPost s d ≤ s.rd (recB d) R.REC_CAP_CAP * 64)) ∧
    (∃ (d : TDie) (e : TrgEvent) (r : List TrgEvent) (s : State), (s.trgSt d).events = e :: r ∧
        bit (s.rdL (recB d) R.REC_CTRL_UNITS) e.unit = true ∧ s.on (recB d) R.REC_STATUS_RUN = true ∧
        (s.recSt d).stopping = false ∧ recMode s d ≠ 1 ∧ (s.recSt d).m ≤ (s.recSt d).nextSeg) ∧
    (∃ (d : TDie) (e : TrgEvent) (r : List TrgEvent) (s : State), (s.trgSt d).events = e :: r ∧
        bit (s.rdL (recB d) R.REC_CTRL_UNITS) e.unit = false) ∧
    (∃ (d : TDie) (g : RecSeg) (r : List RecSeg) (s : State), (s.recSt d).segs = g :: r ∧ recMode s d ≠ 2 ∧
        segSettled s d g = segLeft g) ∧
    (∃ (d : TDie) (g : RecSeg) (r : List RecSeg) (s : State), (s.recSt d).segs = g :: r ∧ recMode s d = 2 ∧
        segLeft g = 0 ∧ (segItem s d g).length - g.staged ≤ (stageRoom s d).1 ∧
        (segItem s d g).length - g.staged ≤ (stageRoom s d).2) ∧
    (∃ (d : TDie) (k : Nat) (s : State), (s.recSt d).rearm = some k ∧ k ≤ (s.trgSt d).evaluated) ∧
    (∃ (d : TDie) (s : State), isLead d = true ∧ s.usableT d = true ∧ s.on (recB d) R.REC_CO_CTRL_EN = false ∧
        (s.recSt d).co.run = false) ∧
    (∃ (d : TDie) (b : CoBlock) (l : List Byte) (s : State), s.rd (recB d) R.REC_CO_FLUSH_FLUSH ≠ 0 ∧
        (s.recSt d).co.blk = some b ∧ coSize s d ≠ 0 ∧
        l = leBytes 1 0x30 ++ leBytes 1 (inputOf d) ++ leBytes 2 b.flags ++ leBytes 4 b.entries.length ++ leBytes 8 b.first ++
      leBytes 12 b.sts ++ leBytes 4 (b.last + 1 - b.first) ++ b.entries.flatten) :=
  ⟨⟨(0 : TDie), (0 : Nat),
      ((State.reset.wr (recB 0) R.REC_TARN_CTRL_EN 1).modWb 0 fun w => { w with running := true }),
      by decide +kernel, by decide +kernel, by decide +kernel, by decide +kernel, by decide +kernel,
      by decide +kernel⟩,
    ⟨(0 : TDie), ({ State.reset with acq := [(0, { frame := 3000 })], stream := [(5, (7, -3))] }.modRec 0 fun q => { q with tarn := { run := true } }), by decide +kernel, by decide +kernel, by decide +kernel, by decide +kernel, by decide +kernel, by decide +kernel, by decide +kernel⟩,
    ⟨(2 : TDie), (1048576 : Nat), (1 : Nat), (State.reset.wr (recB 2) R.REC_REGION_SIZE_SIZE 1), by decide +kernel⟩,
    ⟨(0 : TDie), (State.reset.wr (recB 0) R.REC_STATUS_RUN 1), by decide +kernel⟩,
    ⟨(0 : TDie), ({ State.reset with live := [(recB 0 + 4, 4)] }.wr (recB 0) R.REC_STATUS_RUN 1), by decide +kernel⟩,
    ⟨(0 : TDie), { input := 0, unit := 2, primary := 0, sample := 100, fire := {}, sts := 0, seq := 1 }, [], (({ State.reset with live := [(recB 0 + 4, 0x4FFFF), (recB 0 + R.REC_PRE_PRE.off, 0), (recB 0 + R.REC_POST_POST.off, 1)] }.wrs (recB 0) [(R.REC_STATUS_RUN, 1), (R.REC_CAP_CAP, 100)] |>.modTrg 0 fun q => { q with events := [{ input := 0, unit := 2, primary := 0, sample := 100, fire := {}, sts := 0, seq := 1 }] }).modRec 0 fun q => { q with m := 1, tarn := { run := true } }), by decide +kernel, by decide +kernel, by decide +kernel, by decide +kernel, by decide +kernel, by decide +kernel, by decide +kernel, by decide +kernel, by decide +kernel, by decide +kernel⟩,
    ⟨(0 : TDie), { input := 0, unit := 2, primary := 0, sample := 100, fire := {}, sts := 0, seq := 1 }, [], ({ State.reset with live := [(recB 0 + 4, 0x4FF00)] }.wr (recB 0) R.REC_STATUS_RUN 1 |>.modTrg 0 fun q => { q with events := [{ input := 0, unit := 2, primary := 0, sample := 100, fire := {}, sts := 0, seq := 1 }] }), by decide +kernel, by decide +kernel, by decide +kernel, by decide +kernel, by decide +kernel, by decide +kernel⟩,
    ⟨(0 : TDie), { input := 0, unit := 2, primary := 0, sample := 100, fire := {}, sts := 0, seq := 1 }, [], ({ State.reset with live := [(recB 0 + 4, 0)] }.modTrg 0 fun q => { q with events := [{ input := 0, unit := 2, primary := 0, sample := 100, fire := {}, sts := 0, seq := 1 }] }), by decide +kernel⟩,
    ⟨(0 : TDie), { ev := { input := 0, unit := 2, primary := 0, sample := 100, fire := {}, sts := 0, seq := 1 }, segno := 0, start := 100, len := 2, req := 2, flags := 0 }, [], (State.reset.modRec 0 fun q => { q with segs := [{ ev := { input := 0, unit := 2, primary := 0, sample := 100, fire := {}, sts := 0, seq := 1 }, segno := 0, start := 100, len := 2, req := 2, flags := 0 }], tarn := { run := true, next := 1 } }), by decide +kernel⟩,
    ⟨(0 : TDie), { ev := { input := 0, unit := 2, primary := 0, sample := 100, fire := {}, sts := 0, seq := 1 }, segno := 0, start := 100, len := 0, req := 2, flags := 0 }, [], (({ State.reset with live := [(recB 0 + 4, 4), (recB 0 + R.REC_REGION_SIZE_SIZE.off, 1)] }).modRec 0 fun q => { q with segs := [{ ev := { input := 0, unit := 2, primary := 0, sample := 100, fire := {}, sts := 0, seq := 1 }, segno := 0, start := 100, len := 0, req := 2, flags := 0 }], tarn := { run := true } }), by decide +kernel⟩,
    ⟨(0 : TDie), (0 : Nat), (State.reset.modRec 0 fun q => { q with rearm := some 0 }), by decide +kernel⟩,
    ⟨(2 : TDie), State.reset, by decide +kernel⟩,
    ⟨(0 : TDie), { first := 0, sts := 0, last := 3 }, leBytes 1 0x30 ++ leBytes 1 0 ++ leBytes 2 0 ++ leBytes 4 0 ++ leBytes 8 0 ++ leBytes 12 0 ++ leBytes 4 4, ((State.reset.modRec 0 fun q => { q with co := { q.co with blk := some { first := 0, sts := 0, last := 3 }, pos := 1048570 } }).wrs (recB 0) [(R.REC_CO_FLUSH_FLUSH, 1), (R.REC_CO_SIZE_SIZE, 1)]), by decide +kernel⟩⟩

theorem wit_DensRowsComplete :
    (∃ (d : TDie) (s : State), isLead d = true ∧ s.onF (densB d) R.DENS_CTRL_EN = true ∧ (s.densSt d).fresh = false ∧
        (s.densSt d).frame.first + densF s d ≤ (s.wbSt d).relIdx ∧ partnerCounts s d = false ∧
        (s.densSt d).pframe.seen = 0 ∧ (s.densSt d).ended = [] ∧ ((s.densSt d).counts.map (·.1)).Nodup) ∧
    (∃ (d : TDie) (s : State), isLead d = true ∧ s.onF (densB d) R.DENS_CTRL_EN = true ∧ (s.densSt d).fresh = false ∧
        (s.densSt d).frame.first + densF s d ≤ (s.wbSt d).relIdx ∧ (partnerCounts s d = true ∨
        (s.densSt d).pframe.seen ≠ 0) ∧ (s.densSt d).ended = []) ∧
    (∃ (d : TDie) (o : DensOut) (r : List DensOut) (s : State), (s.densSt d).frames = o :: r) ∧
    (∃ (d : TDie) (s : State), isLead d = true ∧ s.onF (densB d) R.DENS_CTRL_EN = true ∧ (s.densSt d).fresh = false ∧
        (s.densSt d).mS + ((s.densSt d).row.j + 1) * densR s d ≤ (s.wbSt d).relIdx) ∧
    (∃ (d : TDie) (o : DensOut) (r : List DensOut) (s : State), (s.densSt d).rows = o :: r) ∧
    (∃ (d : TDie) (s : State), isLead d = true ∧ s.usableT d = true) ∧
    (∃ (d : TDie) (s : State), isLead d = true ∧ s.usableT d = true ∧ s.on (densB d) R.DENS_SHADOW_PENDING = false ∧
        s.on (densB d) R.DENS_SHADOW_HELD = false) ∧
    (∃ (d : TDie) (s : State), isLead d = true ∧ s.usableT d = true ∧ (s.on (densB d) R.DENS_SHADOW_PENDING = true ∨
        s.on (densB d) R.DENS_SHADOW_HELD = true)) ∧
    (∃ (d : TDie) (s : State), isLead d = true ∧ s.usableT d = true) ∧
    (∃ (d : TDie) (s : State), s.on (densB d) R.DENS_SHADOW_HELD = true ∧
        s.on (densB d) R.DENS_SHADOW_PENDING = false) ∧
    (∃ (d : TDie) (s : State), s.hasT d = true ∧ (max 1 (s.rd (densB d) R.DENS_TAB_ADDR_ENTRY)) ≤ 255) ∧
    (∃ (d : TDie) (s : State), s.hasT d = true ∧ (max 1 (s.rd (densB d) R.DENS_TAB_ADDR_ENTRY)) ≤ 255) ∧
    (∃ (d : TDie) (j : Nat) (s : State), isLead d = true ∧ (s.densSt d).handedAt = some j ∧
        s.onL (densB d) R.DENS_CTRL_EN = true ∧ s.onF (densB d) R.DENS_CTRL_EN = false) ∧
    (∃ (d : TDie) (p : DensPart) (r : List DensPart) (fr : DensFrame) (s : State), (s.densSt d).sent = p :: r ∧
        (s.densSt d).ended = [(fr, [])] ∧ fr.first = p.frame.first ∧ fr.whole = false ∧
        ((s.densSt d).counts.map (·.1)).Nodup ∧ (p.counts.map (·.1)).Nodup ∧
        (∀ e ∈ (s.densSt d).counts, e.2 ≤ 65535)) ∧
    (∃ (d : TDie) (p : DensPart) (r : List DensPart) (s : State), (s.densSt d).sent = p :: r ∧
        (s.densSt d).ended.all (fun e => e.1.first != p.frame.first || e.1.whole) = true ∧
        (p.counts.map (·.1)).Nodup ∧ (∀ e ∈ (s.densSt d).counts, e.2 ≤ 65535)) ∧
    (∃ (d : TDie) (fr : DensFrame) (n : Tbl Nat) (r : List (DensFrame × Tbl Nat)) (s : State),
        (s.densSt d).ended = (fr, n) :: r) ∧
    (∃ (d : TDie) (first : Nat) (e : DensLack) (s : State),
        (s.densSt d).lacking.find? (fun x => x.first == first) = some e ∧
        ((s.wbSt d).lost.any fun x => decide (first ≤ x.idx) && decide (x.idx < first + e.n)) = false ∧
        ((s.densSt d).rows.any fun o => o.first == first) = false) :=
  ⟨⟨(2 : TDie), ({ State.reset with force := [(densB 2 + 4, 1)] }.modDens 2 fun q => { q with fresh := false, counts := [(3, 9)] }).modWb 2 (fun w => { w with relIdx := 2 ^ 32 }) |>.wr (wbB 2) R.WB_PIPE_MAP_PARTNER 0, by decide +kernel, by decide +kernel, by decide +kernel, by decide +kernel, by decide +kernel, by decide +kernel, by decide +kernel, by decide +kernel⟩,
    ⟨(0 : TDie), ((({ State.reset with force := [(densB 0 + 4, 1)] }.modDens 0 fun q => { q with fresh := false, pframe := { seen := 1 } })).modWb 0 (fun w => { w with relIdx := 2 ^ 32 })), by decide +kernel, by decide +kernel, by decide +kernel, by decide +kernel, by decide +kernel, by decide +kernel⟩,
    ⟨(0 : TDie), { n := 7, first := 0, addr := 4096, bytes := [1, 0, 3] }, [], (State.reset.modDens 0 fun q => { q with frames := [{ n := 7, first := 0, addr := 4096, bytes := [1, 0, 3] }] }), by decide +kernel⟩,
    ⟨(0 : TDie), ((({ State.reset with force := [(densB 0 + 4, 1)] }.modDens 0 fun q => { q with fresh := false, row := { j := 4 } })).modWb 0 (fun w => { w with relIdx := 2 ^ 48 })), by decide +kernel⟩,
    ⟨(0 : TDie), { n := 7, first := 0, addr := 4096, bytes := [1, 0, 3] }, [], (State.reset.modDens 0 fun q => { q with rows := [{ n := 7, first := 0, addr := 4096, bytes := [1, 0, 3] }], lacking := [{ j := 0, first := 9, n := 1, set := { log2n := 6, overlap := 0, window := 0, det := 0, d := 1, l := 1, domain := 0, fixed := false, shift := 0, out := 0, every := 1, baseStart := 0, baseIdx := 0, tab := [] }, sg := { r := 1, det := 0, cdec := 0, index8 := false, skip := false, first := 0, last := 3, floor := 0, step := 1, base := 0, rows := 1 }, addr := 4096, size := 64 }] }), by decide +kernel⟩,
    ⟨(0 : TDie), (State.reset.modDens 0 fun q => { q with counts := [(3, 1)] }), by decide +kernel⟩,
    ⟨(2 : TDie), State.reset, by decide +kernel⟩,
    ⟨(0 : TDie), (State.reset.wr (densB 0) R.DENS_SHADOW_PENDING 1), by decide +kernel⟩,
    ⟨(2 : TDie), (State.reset.wr (densB 2) R.DENS_SHADOW_SHADOW_DIRTY 1), by decide +kernel⟩,
    ⟨(0 : TDie), (State.reset.wr (densB 0) R.DENS_SHADOW_HELD 1), by decide +kernel⟩,
    ⟨(2 : TDie), (State.reset.wr (densB 2) R.DENS_TAB_ADDR_ENTRY 255), by decide +kernel⟩,
    ⟨(3 : TDie), State.reset, by decide +kernel⟩,
    ⟨(0 : TDie), (0 : Nat),
        ({ State.reset with live := [(densB 0 + 4, 1)] }.modDens 0 fun q => { q with handedAt := some 0 }),
        by decide +kernel⟩,
    ⟨(0 : TDie), { frame := { first := 3, count := 2 }, counts := [(5, 2)] }, [], { f := 3, first := 3 }, (State.reset.modDens 0 fun q => { q with sent := [{ frame := { first := 3, count := 2 }, counts := [(5, 2)] }], ended := [({ f := 3, first := 3 }, [])], counts := [(4, 65535), (5, 7)] }), by decide +kernel, by decide +kernel, by decide +kernel, by decide +kernel, by decide +kernel, by decide +kernel, by decide +kernel⟩,
    ⟨(0 : TDie), { frame := { first := 3, count := 2 }, counts := [(5, 2)] }, [], (State.reset.modDens 0 fun q => { q with sent := [{ frame := { first := 3, count := 2 }, counts := [(5, 2)] }], counts := [(5, 65534)] }), by decide +kernel⟩,
    ⟨(0 : TDie), { f := 3 }, [], [], (State.reset.modDens 0 fun q => { q with ended := [({ f := 3 }, [])] }),
        by decide +kernel⟩,
    ⟨(0 : TDie), (9 : Nat),
        { j := 0, first := 9, n := 1, set := { log2n := 6, overlap := 0, window := 0, det := 0, d := 1, l := 1, domain := 0, fixed := false, shift := 0, out := 0, every := 1, baseStart := 0, baseIdx := 0, tab := [] }, sg := { r := 1, det := 0, cdec := 0, index8 := false, skip := false, first := 0, last := 3, floor := 0, step := 1, base := 0, rows := 1 }, addr := 4096, size := 64 }, (State.reset.modDens 0 fun q => { q with lacking := [{ j := 0, first := 9, n := 1, set := { log2n := 6, overlap := 0, window := 0, det := 0, d := 1, l := 1, domain := 0, fixed := false, shift := 0, out := 0, every := 1, baseStart := 0, baseIdx := 0, tab := [] }, sg := { r := 1, det := 0, cdec := 0, index8 := false, skip := false, first := 0, last := 3, floor := 0, step := 1, base := 0, rows := 1 }, addr := 4096, size := 64 }] }), by decide +kernel⟩⟩

theorem wit_ChzRowsComplete :
    (∃ (d : TDie) (s : State), s.usableT d = true ∧ streamRuns s d = true) ∧
    (∃ (d : TDie) (n : Fin 128) (s : State), s.usableT d = true ∧ (s.zoom d n).run = true ∧
        zoomBlocked s d n (zoomN (s.zoom d n).uS (zoomL s.rdF d n) (s.zoom d n).v) = false ∧
        (zoomSpan (s.zoom d n).uS (zoomL s.rdF d n) (s.zoom d n).v).2 < s.streamHead (inputOf d)) ∧
    (∃ (d : TDie) (n : Fin 128) (i : Nat) (size : Nat) (l : List Byte) (r : List (Nat × Nat × List Byte)) (s : State),
        (s.zoom d n).closed = (i, size, l) :: r ∧ 2 ≤ s.rd (zcB d n) R.ZC_n_RING_SIZE_SIZE * 1024 / size) ∧
    (∃ (d : TDie) (n : Fin 128) (i : Nat) (size : Nat) (l : List Byte) (r : List (Nat × Nat × List Byte)) (s : State),
        (s.zoom d n).closed = (i, size, l) :: r ∧ s.rd (zcB d n) R.ZC_n_RING_SIZE_SIZE * 1024 / size < 2) ∧
    (∃ (d : TDie) (s : State), s.usableT d = true) ∧
    (∃ (d : TDie) (s : State), s.usableT d = true) ∧
    (∃ (d : TDie) (s : State), s.usableT d = true) ∧
    (∃ (d : TDie) (n : Fin 128) (s : State), s.on (chzB d) (zoomMap R.CHZ_HELD_k_HELD n) = true ∧
        s.on (chzB d) (zoomMap R.CHZ_PENDING_k_PENDING n) = false) ∧
    (∃ (d : TDie) (p : Nat) (s : State), s.usableT d = true ∧ nextPoint s d = some p) ∧
    (∃ (d : TDie) (n : Fin 128) (s : State), s.usableT d = true ∧ (s.zoom d n).failed = false) ∧
    (∃ (d : TDie) (n : Fin 128) (m : Nat) (s : State), s.usableT d = true ∧ zoomReplay s d = true ∧
        (s.zoom d n).movedTo = some m) ∧
    (∃ (d : TDie) (n : Fin 128) (c : Nat) (s : State), s.usableT d = true ∧ zoomReplay s d = true ∧
        (s.zoom d n).movedTo = none ∧ s.rd (zcB d n) R.ZC_n_ROUTE_CORE = c ∧ c < 132 ∧
        s.onC d c R.CORE_c_STATUS_REPLAY = true ∧
        (tget noWords (s.core d c).inp (s.rd (zcB d n) R.ZC_n_ROUTE_PORT)).length < 64) :=
  ⟨⟨(3 : TDie), (State.reset.modWb 2 fun w => { w with running := true }), by decide +kernel⟩,
    ⟨(0 : TDie), (127 : Fin 128),
        ({ State.reset with force := [(zcB 0 127 + R.ZC_n_OUT, 0x10000), (zcB 0 127 + R.ZC_n_DEC_L.off, 4)], acq := [(0, { frame := 30 })] }.modZoom 0 127 fun q => { q with run := true, blk := none }), by decide +kernel⟩,
    ⟨(0 : TDie), (127 : Fin 128),
        (5 : Nat), (64 : Nat), [1, 2], [], ((State.reset.modZoom 0 127 fun q => { q with closed := [(5, 64, [1, 2])] }).wr (zcB 0 127) R.ZC_n_RING_SIZE_SIZE 1), by decide +kernel⟩,
    ⟨(0 : TDie), (127 : Fin 128),
        (5 : Nat), (64 : Nat), [1, 2], [], (State.reset.modZoom 0 127 fun q => { q with closed := [(5, 64, [1, 2])] }),
        by decide +kernel⟩,
    ⟨(3 : TDie), State.reset, by decide +kernel⟩,
    ⟨(3 : TDie), State.reset, by decide +kernel⟩,
    ⟨(3 : TDie), State.reset, by decide +kernel⟩,
    ⟨(0 : TDie), (127 : Fin 128), (State.reset.wr (chzB 0) (zoomMap R.CHZ_HELD_k_HELD 127) 1), by decide +kernel⟩,
    ⟨(0 : TDie), (65536 : Nat), (State.reset.modZoom 0 127 fun q => { q with sw := some 65536 }), by decide +kernel⟩,
    ⟨(3 : TDie), (127 : Fin 128), State.reset, by decide +kernel⟩,
    ⟨(0 : TDie), (127 : Fin 128),
        (5 : Nat), ({ State.reset with force := [(zcB 0 127 + R.ZC_n_DEC_L.off, 4)], repairs := [(0, { active := some ⟨99, 127⟩ })] }.modZoom 0 127 fun q => { q with movedTo := some 5 }), by decide +kernel⟩,
    ⟨(0 : TDie), (127 : Fin 128),
        (3 : Nat), (({ State.reset with force := [(zcB 0 127 + R.ZC_n_DEC_L.off, 4)], repairs := [(0, { active := some ⟨97, 3⟩ })] }.wr (zcB 0 127) R.ZC_n_ROUTE_CORE 3).wrC 0 3 R.CORE_c_STATUS_REPLAY 1), by decide +kernel, by decide +kernel, by decide +kernel, by decide +kernel, by decide +kernel, by decide +kernel, by decide +kernel⟩⟩

theorem wit_AluRowsComplete :
    (∃ (d : TDie) (c : CoreIx) (e : EccRead) (f : AluFn) (cond : BitVec 4) (xd : BitVec 4) (xs : BitVec 4) (xt : BitVec 4) (s : State), issues s d c e (.alu f cond xd xs xt) = true) ∧
    (∃ (d : TDie) (c : CoreIx) (e : EccRead) (f : ImmFn) (cond : BitVec 4) (xd : BitVec 4) (xs : BitVec 4) (i : BitVec 14) (s : State), issues s d c e (.imm f cond xd xs i) = true) :=
  ⟨⟨(0 : TDie), (131 : CoreIx), {}, .adds, (0 : BitVec 4), (3 : BitVec 4),
      (1 : BitVec 4), (2 : BitVec 4),
      (((State.reset.wr (coreRegB 0 131) R.CORE_c_STATUS_RUNNING 1).setReg (pmAddr 0 131 0) (CoreInstr.encode (.alu .adds 0 3 1 2))).modCore 0 131 fun q => { q with regs := [(1, 5), (2, 0xFFFFFF), (16, 7), (19, 2 ^ 55)] }), by decide +kernel⟩,
    ⟨(0 : TDie), (131 : CoreIx), {}, .addi, (0 : BitVec 4), (3 : BitVec 4),
        (1 : BitVec 4), (0x3FFF : BitVec 14),
        (((State.reset.wr (coreRegB 0 131) R.CORE_c_STATUS_RUNNING 1).setReg (pmAddr 0 131 0) (CoreInstr.encode (.imm .addi 0 3 1 0x3FFF))).modCore 0 131 fun q => { q with regs := [(1, 5), (2, 0xFFFFFF), (16, 7), (19, 2 ^ 55)] }), by decide +kernel⟩⟩

theorem wit_AccMacRowsComplete :
    (∃ (d : TDie) (c : CoreIx) (e : EccRead) (f : AccFn) (cond : BitVec 4) (a : BitVec 1) (b : BitVec 1) (xr : BitVec 4) (sh : BitVec 5) (s : State), issues s d c e (.acc f cond a b xr sh) = true ∧ condHolds (s.core d c) cond.toNat = true ∧ f ≠ .ext ∧ f ≠ .cmpa) ∧
    (∃ (d : TDie) (c : CoreIx) (e : EccRead) (f : AccFn) (cond : BitVec 4) (a : BitVec 1) (b : BitVec 1) (xr : BitVec 4) (sh : BitVec 5) (s : State), issues s d c e (.acc f cond a b xr sh) = true ∧ condHolds (s.core d c) cond.toNat = false) ∧
    (∃ (d : TDie) (c : CoreIx) (e : EccRead) (cond : BitVec 4) (a : BitVec 1) (b : BitVec 1) (xr : BitVec 4) (sh : BitVec 5) (s : State), issues s d c e (.acc .ext cond a b xr sh) = true ∧ condHolds (s.core d c) cond.toNat = true) ∧
    (∃ (d : TDie) (c : CoreIx) (e : EccRead) (cond : BitVec 4) (a : BitVec 1) (b : BitVec 1) (xr : BitVec 4) (sh : BitVec 5) (s : State), issues s d c e (.acc .cmpa cond a b xr sh) = true ∧ condHolds (s.core d c) cond.toNat = true) ∧
    (∃ (d : TDie) (c : CoreIx) (e : EccRead) (f : MacFn) (a : BitVec 1) (xa : BitVec 4) (xb : BitVec 4) (ld : BitVec 1) (xc : BitVec 4) (pi : BitVec 3) (xd : BitVec 4) (pj : BitVec 3) (r : Int) (s : State), issues s d c e (.mac f a xa xb ld xc pi xd pj) = true ∧ r = (match f with
      | .mpy | .ldd => 0
      | .mac | .msu => (s.core d c).ac .mac a.toNat) +
      (match f with
      | .msu => -1
      | _ => 1) * ((s.core d c).xI xa.toNat * (s.core d c).xI xb.toNat * (if bit ((s.core d c).sr .mode) 18 = true then 2 else 1))) ∧
    (∃ (d : TDie) (c : CoreIx) (e : EccRead) (mn : Bool) (xm : BitVec 4) (xi : BitVec 4) (xs : BitVec 4) (xk : BitVec 4) (ld : BitVec 1) (xl : BitVec 4) (pl : BitVec 3) (s : State), issues s d c e (.srch mn xm xi xs xk ld xl pl) = true) :=
  ⟨⟨(0 : TDie), (131 : CoreIx), {}, .adda, (0 : BitVec 4), (0 : BitVec 1),
      (1 : BitVec 1), (2 : BitVec 4),
      (0 : BitVec 5), (((State.reset.wr (coreRegB 0 131) R.CORE_c_STATUS_RUNNING 1).setReg (pmAddr 0 131 0) (CoreInstr.encode (.acc .adda 0 0 1 2 0))).modCore 0 131 fun q => { q with regs := [(1, 5), (2, 0xFFFFFF), (16, 7), (19, 2 ^ 55)] }), by decide +kernel⟩,
    ⟨(0 : TDie), (131 : CoreIx), {}, .adda, (1 : BitVec 4), (0 : BitVec 1),
        (1 : BitVec 1), (2 : BitVec 4),
        (0 : BitVec 5), (((State.reset.wr (coreRegB 0 131) R.CORE_c_STATUS_RUNNING 1).setReg (pmAddr 0 131 0) (CoreInstr.encode (.acc .adda 1 0 1 2 0))).modCore 0 131 fun q => { q with regs := [(1, 5), (2, 0xFFFFFF), (16, 7), (19, 2 ^ 55)] }), by decide +kernel⟩,
    ⟨(0 : TDie), (131 : CoreIx), {}, (0 : BitVec 4), (0 : BitVec 1), (1 : BitVec 1),
        (2 : BitVec 4), (8 : BitVec 5),
        (((State.reset.wr (coreRegB 0 131) R.CORE_c_STATUS_RUNNING 1).setReg (pmAddr 0 131 0) (CoreInstr.encode (.acc .ext 0 0 1 2 8))).modCore 0 131 fun q => { q with regs := [(1, 5), (2, 0xFFFFFF), (16, 7), (19, 2 ^ 55)] }), by decide +kernel⟩,
    ⟨(0 : TDie), (131 : CoreIx), {}, (0 : BitVec 4), (0 : BitVec 1), (1 : BitVec 1),
        (2 : BitVec 4), (0 : BitVec 5),
        (((State.reset.wr (coreRegB 0 131) R.CORE_c_STATUS_RUNNING 1).setReg (pmAddr 0 131 0) (CoreInstr.encode (.acc .cmpa 0 0 1 2 0))).modCore 0 131 fun q => { q with regs := [(1, 5), (2, 0xFFFFFF), (16, 7), (19, 2 ^ 55)] }), by decide +kernel⟩,
    ⟨(0 : TDie), (131 : CoreIx), {}, .msu, (0 : BitVec 1), (1 : BitVec 4),
        (2 : BitVec 4), (1 : BitVec 1), (3 : BitVec 4), (1 : BitVec 3), (4 : BitVec 4),
        (2 : BitVec 3), 7 + 5, (((State.reset.wr (coreRegB 0 131) R.CORE_c_STATUS_RUNNING 1).setReg (pmAddr 0 131 0) (CoreInstr.encode (.mac .msu 0 1 2 1 3 1 4 2))).modCore 0 131 fun q => { q with regs := [(1, 5), (2, 0xFFFFFF), (16, 7), (19, 2 ^ 55)] }), by decide +kernel⟩,
    ⟨(0 : TDie), (131 : CoreIx), {}, false, (3 : BitVec 4), (4 : BitVec 4),
        (1 : BitVec 4), (5 : BitVec 4), (0 : BitVec 1), (0 : BitVec 4), (0 : BitVec 3),
        (((State.reset.wr (coreRegB 0 131) R.CORE_c_STATUS_RUNNING 1).setReg (pmAddr 0 131 0) (CoreInstr.encode (.srch false 3 4 1 5 0 0 0))).modCore 0 131 fun q => { q with regs := [(1, 5), (2, 0xFFFFFF), (16, 7), (19, 2 ^ 55)] }), by decide +kernel⟩⟩

theorem wit_MoveRowsComplete :
    (∃ (d : TDie) (c : CoreIx) (e : EccRead) (cond : BitVec 4) (dst : BitVec 7) (src : BitVec 7) (s : State),
        issues s d c e (.mov cond dst src) = true) ∧
    (∃ (d : TDie) (c : CoreIx) (e : EccRead) (reg : BitVec 7) (i : BitVec 16) (s : State),
        issues s d c e (.ldi false reg i) = true) ∧
    (∃ (d : TDie) (c : CoreIx) (e : EccRead) (reg : BitVec 7) (i : BitVec 16) (s : State),
        issues s d c e (.ldi true reg i) = true) ∧
    (∃ (d : TDie) (c : CoreIx) (e : EccRead) (reg : BitVec 7) (pn : BitVec 3) (m : BitVec 2) (off : BitVec 14) (s : State), issues s d c e (.mem false reg pn m off) = true) ∧
    (∃ (d : TDie) (c : CoreIx) (e : EccRead) (reg : BitVec 7) (pn : BitVec 3) (m : BitVec 2) (off : BitVec 14) (s : State), issues s d c e (.mem true reg pn m off) = true) :=
  ⟨⟨(0 : TDie), (131 : CoreIx), {}, (0 : BitVec 4), (3 : BitVec 7), (0x10 : BitVec 7),
      (((State.reset.wr (coreRegB 0 131) R.CORE_c_STATUS_RUNNING 1).setReg (pmAddr 0 131 0) (CoreInstr.encode (.mov 0 3 0x10))).modCore 0 131 fun q => { q with regs := [(1, 5), (2, 0xFFFFFF), (16, 7), (19, 2 ^ 55)] }), by decide +kernel⟩,
    ⟨(0 : TDie), (131 : CoreIx), {}, (15 : BitVec 7), (0x8000 : BitVec 16),
        (((State.reset.wr (coreRegB 0 131) R.CORE_c_STATUS_RUNNING 1).setReg (pmAddr 0 131 0) (CoreInstr.encode (.ldi false 15 0x8000))).modCore 0 131 fun q => { q with regs := [(1, 5), (2, 0xFFFFFF), (16, 7), (19, 2 ^ 55)] }), by decide +kernel⟩,
    ⟨(0 : TDie), (131 : CoreIx),
        {}, (2 : BitVec 7), (0xFF : BitVec 16),
        (((State.reset.wr (coreRegB 0 131) R.CORE_c_STATUS_RUNNING 1).setReg (pmAddr 0 131 0) (CoreInstr.encode (.ldi true 2 0xFF))).modCore 0 131 fun q => { q with regs := [(1, 5), (2, 0xFFFFFF), (16, 7), (19, 2 ^ 55)] }), by decide +kernel⟩,
    ⟨(0 : TDie), (131 : CoreIx), {}, (2 : BitVec 7), (7 : BitVec 3), (0 : BitVec 2),
        (0 : BitVec 14), (((State.reset.wr (coreRegB 0 131) R.CORE_c_STATUS_RUNNING 1).setReg (pmAddr 0 131 0) (CoreInstr.encode (.mem false 2 7 0 0))).modCore 0 131 fun q => { q with regs := [(1, 5), (2, 0xFFFFFF), (16, 7), (19, 2 ^ 55)] }), by decide +kernel⟩,
    ⟨(0 : TDie), (131 : CoreIx), {}, (2 : BitVec 7), (7 : BitVec 3), (3 : BitVec 2),
        (0x3FFF : BitVec 14), (((State.reset.wr (coreRegB 0 131) R.CORE_c_STATUS_RUNNING 1).setReg (pmAddr 0 131 0) (CoreInstr.encode (.mem true 2 7 3 0x3FFF))).modCore 0 131 fun q => { q with regs := [(1, 5), (2, 0xFFFFFF), (16, 7), (19, 2 ^ 55)] }), by decide +kernel⟩⟩

theorem wit_ControlRowsComplete :
    (∃ (d : TDie) (c : CoreIx) (e : EccRead) (s : State), issues s d c e .nop = true) ∧
    (∃ (d : TDie) (c : CoreIx) (e : EccRead) (l : CoreLoop) (r : List CoreLoop) (s : State),
        issues s d c e .nop = true ∧ (s.core d c).slots = 0 ∧ (s.core d c).loops = l :: r ∧ l.le = (s.core d c).pc ∧
        (s.core d c).lcMoves = []) ∧
    (∃ (d : TDie) (c : CoreIx) (e : EccRead) (s : State), issues s d c e .halt = true) ∧
    (∃ (d : TDie) (c : CoreIx) (e : EccRead) (f : CtlFn) (cond : BitVec 4) (pn : BitVec 3) (g : BitVec 14) (s : State),
        issues s d c e (.ctl f cond pn g) = true) ∧
    (∃ (d : TDie) (c : CoreIx) (e : EccRead) (x : Bool) (n : BitVec 11) (le : BitVec 14) (k : Nat) (s : State),
        issues s d c e (.rep x n le) = true ∧
        k = (if x then ((s.core d c).tick 1).readReg (n.toNat % 128) else n.toNat)) ∧
    (∃ (d : TDie) (c : CoreIx) (e : EccRead) (s : State), issues s d c e .lexit = true) :=
  ⟨⟨(0 : TDie), (131 : CoreIx),
      {}, (((State.reset.wr (coreRegB 0 131) R.CORE_c_STATUS_RUNNING 1).setReg (pmAddr 0 131 0) (CoreInstr.encode (.nop))).modCore 0 131 fun q => { q with pc := 0 }), by decide +kernel⟩,
    ⟨(0 : TDie), (131 : CoreIx),
        {}, { ls := 0, le := 0, lc := 3 }, [], (((State.reset.wr (coreRegB 0 131) R.CORE_c_STATUS_RUNNING 1).setReg (pmAddr 0 131 0) (CoreInstr.encode (.nop))).modCore 0 131 fun q => { q with loops0 := [{ ls := 0, le := 0, lc := 3 }] }), by decide +kernel⟩,
    ⟨(0 : TDie), (131 : CoreIx),
        {}, ((State.reset.wr (coreRegB 0 131) R.CORE_c_STATUS_RUNNING 1).setReg (pmAddr 0 131 0) (CoreInstr.encode (.halt))), by decide +kernel⟩,
    ⟨(0 : TDie), (131 : CoreIx), {}, .call, (0 : BitVec 4), (7 : BitVec 3),
        (0x3FFF : BitVec 14), (((State.reset.wr (coreRegB 0 131) R.CORE_c_STATUS_RUNNING 1).setReg (pmAddr 0 131 0) (CoreInstr.encode (.ctl .call 0 7 0x3FFF))).modCore 0 131 fun q => { q with pc := 0 }), by decide +kernel⟩,
    ⟨(0 : TDie), (131 : CoreIx), {}, false, (2047 : BitVec 11), (5 : BitVec 14),
        (2047 : Nat), ((State.reset.wr (coreRegB 0 131) R.CORE_c_STATUS_RUNNING 1).setReg (pmAddr 0 131 0) (CoreInstr.encode (.rep false 2047 5))), by decide +kernel⟩,
    ⟨(0 : TDie), (131 : CoreIx),
        {}, (((State.reset.wr (coreRegB 0 131) R.CORE_c_STATUS_RUNNING 1).setReg (pmAddr 0 131 0) (CoreInstr.encode (.lexit))).modCore 0 131 fun q => { q with loops0 := [{ ls := 0, le := 9, lc := 3 }] }), by decide +kernel⟩⟩

theorem wit_PortRowsComplete :
    (∃ (d : TDie) (c : CoreIx) (e : EccRead) (nb : BitVec 1) (port : BitVec 2) (xi : BitVec 4) (xq : BitVec 4) (w : PortWord) (r : List PortWord) (s : State), issues s d c e (.inp nb port xi xq) = true ∧ tget noWords (s.core d c).inp port.toNat = w :: r) ∧
    (∃ (d : TDie) (c : CoreIx) (e : EccRead) (nb : BitVec 1) (port : BitVec 2) (xi : BitVec 4) (xq : BitVec 4) (s : State), issues s d c e (.inp nb port xi xq) = true ∧ tget noWords (s.core d c).inp port.toNat = [] ∧ s.onC d c R.CORE_c_STATUS_CATCHUP = false) ∧
    (∃ (d : TDie) (c : CoreIx) (e : EccRead) (cond : BitVec 4) (port : BitVec 1) (xs : BitVec 4) (n : Nat) (s : State),
        issues s d c e (.out cond port xs) = true ∧ condHolds (s.core d c) cond.toNat = true ∧
        s.onC d c (if port.toNat = 0 then R.CORE_c_OUT_CTRL_EN0 else R.CORE_c_OUT_CTRL_EN1) = true ∧
        s.rdC d c R.CORE_c_WARMUP_SAMPLES ≤ (s.core d c).reads ∧
        (tget (fun _ => ({} : CoreOut)) (s.core d c).outs port.toNat).level - n < 512) ∧
    (∃ (d : TDie) (c : CoreIx) (e : EccRead) (cond : BitVec 4) (port : BitVec 1) (xs : BitVec 4) (s : State),
        issues s d c e (.out cond port xs) = true) ∧
    (∃ (d : TDie) (c : CoreIx) (e : EccRead) (cond : BitVec 4) (port : BitVec 2) (xs : BitVec 4) (j : Int) (rep : Bool) (s : State), issues s d c e (.trig cond port xs) = true ∧ condHolds (s.core d c) cond.toNat = true ∧ (s.core d c).jport.find? (fun x => x.1 == port.toNat) = some (port.toNat, j, rep)) ∧
    (∃ (d : TDie) (c : CoreIx) (e : EccRead) (cond : BitVec 4) (code : BitVec 7) (xs : BitVec 4) (s : State),
        issues s d c e (.evt cond code xs) = true ∧ condHolds (s.core d c) cond.toNat = true) ∧
    (∃ (d : TDie) (c : CoreIx) (e : EccRead) (x : Bool) (m : BitVec 24) (s : State),
        issues s d c e (.srb x m) = true) :=
  ⟨⟨(0 : TDie), (131 : CoreIx), {}, (0 : BitVec 1), (3 : BitVec 2), (1 : BitVec 4),
      (2 : BitVec 4), { i := 5, q := -3, tags := 0, j := 77 }, [], (((State.reset.wr (coreRegB 0 131) R.CORE_c_STATUS_RUNNING 1).setReg (pmAddr 0 131 0) (CoreInstr.encode (.inp 0 3 1 2))).modCore 0 131 fun q => { q with inp := [(3, [{ i := 5, q := -3, tags := 0, j := 77 }])] }), by decide +kernel⟩,
    ⟨(0 : TDie), (131 : CoreIx), {}, (0 : BitVec 1), (3 : BitVec 2), (1 : BitVec 4),
        (2 : BitVec 4), ((State.reset.wr (coreRegB 0 131) R.CORE_c_STATUS_RUNNING 1).setReg (pmAddr 0 131 0) (CoreInstr.encode (.inp 0 3 1 2))), by decide +kernel⟩,
    ⟨(0 : TDie), (131 : CoreIx), {}, (0 : BitVec 4), (1 : BitVec 1), (1 : BitVec 4),
        (0 : Nat), ((((State.reset.wr (coreRegB 0 131) R.CORE_c_STATUS_RUNNING 1).setReg (pmAddr 0 131 0) (CoreInstr.encode (.out 0 1 1))).modCore 0 131 fun q => { q with regs := [(1, 5), (2, 0xFFFFFF), (16, 7), (19, 2 ^ 55)] }).wr (coreRegB 0 131) R.CORE_c_OUT_CTRL_EN1 1), by decide +kernel⟩,
    ⟨(0 : TDie), (131 : CoreIx), {}, (0 : BitVec 4), (1 : BitVec 1), (1 : BitVec 4),
        ((((State.reset.wr (coreRegB 0 131) R.CORE_c_STATUS_RUNNING 1).setReg (pmAddr 0 131 0) (CoreInstr.encode (.out 0 1 1))).modCore 0 131 fun q => { q with regs := [(1, 5), (2, 0xFFFFFF), (16, 7), (19, 2 ^ 55)] }).wr (coreRegB 0 131) R.CORE_c_OUT_CTRL_EN1 0), by decide +kernel⟩,
    ⟨(0 : TDie), (131 : CoreIx), {}, (0 : BitVec 4), (3 : BitVec 2), (1 : BitVec 4),
        (9 : Int), true, { (((State.reset.wr (coreRegB 0 131) R.CORE_c_STATUS_RUNNING 1).setReg (pmAddr 0 131 0) (CoreInstr.encode (.trig 0 3 1))).modCore 0 131 fun q => { q with jport := [(3, 9, true)] }) with force := [(condB 0 0 + 0x100, 6)] }, by decide +kernel⟩,
    ⟨(0 : TDie), (131 : CoreIx), {}, (0 : BitVec 4), (127 : BitVec 7), (1 : BitVec 4),
        (((State.reset.wr (coreRegB 0 131) R.CORE_c_STATUS_RUNNING 1).setReg (pmAddr 0 131 0) (CoreInstr.encode (.evt 0 127 1))).modCore 0 131 fun q => { q with regs := [(1, 5), (2, 0xFFFFFF), (16, 7), (19, 2 ^ 55)] }), by decide +kernel⟩,
    ⟨(0 : TDie), (131 : CoreIx),
        {}, true, (0xFFFFFF : BitVec 24),
        ((State.reset.wr (coreRegB 0 131) R.CORE_c_STATUS_RUNNING 1).setReg (pmAddr 0 131 0) (CoreInstr.encode (.srb true 0xFFFFFF))), by decide +kernel⟩⟩

theorem wit_CoreControlRowsComplete :
    (∃ (d : TDie) (c : CoreIx) (k : Nat) (s : State), coreRunning s d c = true ∧ interruptDue (s.core d c) = some k) ∧
    (∃ (d : TDie) (c : CoreIx) (s : State), s.usableT d = true ∧ (s.core d c).tmr ≠ 0) ∧
    (∃ (d : TDie) (s : State), s.usableT d = true) ∧
    (∃ (d : TDie) (s : State), s.usableT d = true) ∧
    (∃ (d : TDie) (s : State), s.usableT d = true) ∧
    (∃ (d : TDie) (c : CoreIx) (e : EccRead) (i : CoreInstr) (s : State), s.usableT d = true ∧
        s.onC d c R.CORE_c_CTRL_RUN = false ∧ s.onC d c R.CORE_c_STATUS_RUNNING = false ∧
        (s.core d c).retired = false ∧ CoreInstr.decode (s.pm d c (s.core d c).pc) = some i ∧
        legalHere (s.core d c) i = true ∧ e.double = false) ∧
    (∃ (d : TDie) (s : State), s.usableT d = true) ∧
    (∃ (d : TDie) (c : CoreIx) (s : State), coreRunning s d c = true ∧ atBreak s d c = true) ∧
    (∃ (d : TDie) (s : State), s.usableT d = true) ∧
    (∃ (d : TDie) (s : State), s.usableT d = true) ∧
    (∃ (d : TDie) (c : CoreIx) (s : State), s.usableT d = true ∧ s.rdC d c R.CORE_c_DBG_SEL_BANK ≤ 1) ∧
    (∃ (d : TDie) (s : State), s.usableT d = true) ∧
    (∃ (d : TDie) (s : State), s.usableT d = true) ∧
    (∃ (d : TDie) (s : State), s.usableT d = true) :=
  ⟨⟨(0 : TDie), (131 : CoreIx),
      (4 : Nat), ((State.reset.wr (coreRegB 0 131) R.CORE_c_STATUS_RUNNING 1).modCore 0 131 fun q => { q with ipend := 16, regs := [(0x38, 2 ^ 20)], pc := 9 }), by decide +kernel⟩,
    ⟨(0 : TDie), (131 : CoreIx), (State.reset.modCore 0 131 fun q => { q with tmr := 1, ien := 4 }),
        by decide +kernel⟩,
    ⟨(0 : TDie), (State.reset.modCore 0 131 fun q => { q with ipend := 8 }), by decide +kernel⟩,
    ⟨(0 : TDie), State.reset, by decide +kernel⟩,
    ⟨(0 : TDie), (State.reset.wr (coreRegB 0 131) R.CORE_c_STATUS_RUNNING 1), by decide +kernel⟩,
    ⟨(0 : TDie), (131 : CoreIx), {}, .lexit, (State.reset.setReg (pmAddr 0 131 0) (CoreInstr.encode .lexit)),
        by decide +kernel, by decide +kernel, by decide +kernel, by decide +kernel, by decide +kernel,
        by decide +kernel, by decide +kernel⟩,
    ⟨(0 : TDie), (State.reset.modCore 0 131 fun q => { q with pc := 5, bank := 1 }), by decide +kernel⟩,
    ⟨(0 : TDie), (131 : CoreIx),
        ((State.reset.wr (coreRegB 0 131) R.CORE_c_STATUS_RUNNING 1).wr (coreRegB 0 131) R.CORE_c_CTRL_BRK_EN 1),
        by decide +kernel⟩,
    ⟨(0 : TDie), State.reset, by decide +kernel⟩,
    ⟨(0 : TDie), (State.reset.wr (coreRegB 0 131) R.CORE_c_STATUS_RUNNING 1), by decide +kernel⟩,
    ⟨(0 : TDie), (131 : CoreIx), State.reset, by decide +kernel⟩,
    ⟨(0 : TDie), (State.reset.modCore 0 131 fun q => { q with evq := [(5, 127)] }), by decide +kernel⟩,
    ⟨(0 : TDie), State.reset, by decide +kernel⟩,
    ⟨(0 : TDie), State.reset, by decide +kernel⟩⟩

theorem wit_CoreRepairRowsComplete :
    (∃ (d : TDie) (s : State), s.usableT d = true) ∧
    (∃ (d : TDie) (c : CoreIx) (s : State), coreRunning s d c = true) ∧
    (∃ (d : TDie) (c : CoreIx) (k : CoreIx) (s : State), s.usableT d = true ∧ (s.rdC d c R.CORE_c_STATUS_CAUSE = 8 ∨
        s.rdC d c R.CORE_c_STATUS_CAUSE = 9) ∧ (s.core d c).retired = false ∧ s.onC d k R.CORE_c_STATUS_SPARE = true ∧
        c ≠ k) ∧
    (∃ (d : TDie) (c : CoreIx) (s : State), s.onC d c R.CORE_c_STATUS_REPLAY = true) ∧
    (∃ (d : TDie) (c : CoreIx) (s : State), (s.core d c).catchup = []) ∧
    (∃ (d : TDie) (c : CoreIx) (p : Fin 2) (i : Nat) (l : List Byte) (r : List (Nat × List Byte)) (s : State),
        (tget (fun _ => ({} : CoreOut)) (s.core d c).outs p).closed = (i, l) :: r) :=
  ⟨⟨(0 : TDie), (State.reset.wr (coreRegB 0 131) R.CORE_c_STATUS_RUNNING 1), by decide +kernel⟩,
    ⟨(0 : TDie), (131 : CoreIx), (State.reset.wr (coreRegB 0 131) R.CORE_c_STATUS_RUNNING 1), by decide +kernel⟩,
    ⟨(0 : TDie), (5 : CoreIx),
        (131 : CoreIx), ((State.reset.wr (coreRegB 0 5) R.CORE_c_STATUS_CAUSE 9).wr (coreRegB 0 131) R.CORE_c_STATUS_SPARE 1), by decide +kernel⟩,
    ⟨(0 : TDie), (131 : CoreIx), (State.reset.wr (coreRegB 0 131) R.CORE_c_STATUS_REPLAY 1), by decide +kernel⟩,
    ⟨(0 : TDie), (131 : CoreIx), (State.reset.wr (coreRegB 0 131) R.CORE_c_STATUS_CATCHUP 1), by decide +kernel⟩,
    ⟨(0 : TDie), (131 : CoreIx),
        (1 : Fin 2), (3 : Nat),
        [1, 2], [], (State.reset.modCore 0 131 fun q => { q with outs := [(1, { words := [], closed := [(3, [1, 2])] })] }), by decide +kernel⟩⟩

theorem wit_PlanRowsComplete :
    (∃ (n : Fin 32) (a : Nat) (hd : List Byte) (bd : List Byte) (s : State), plannerRuns s = true ∧
        s.on (bootB 0) R.BOOT_LOCK_PLAN_LOAD = false ∧ (planState s n = 0 ∨ planState s n = 1 ∨ planState s n = 6) ∧
        a = s.rd (planB 0) R.PLAN_STAGE_BASE_BASE * 2 ^ 20 ∧ hd = s.bytes s.lead a 64 ∧
        bd = s.bytes s.lead (a + 64) (ofLe ((hd.drop 56).take 4)) ∧ a + 64 + bd.length ≤ s.hubLimit s.lead ∧
        recordCrcOk hd bd = true) ∧
    (∃ (n : Fin 32) (a : Nat) (hd : List Byte) (bd : List Byte) (s : State), plannerRuns s = true ∧
        s.on (bootB 0) R.BOOT_LOCK_PLAN_LOAD = false ∧ (planState s n = 0 ∨ planState s n = 1 ∨ planState s n = 6) ∧
        a = s.rd (planB 0) R.PLAN_STAGE_BASE_BASE * 2 ^ 20 ∧ hd = s.bytes s.lead a 64 ∧
        bd = s.bytes s.lead (a + 64) (ofLe ((hd.drop 56).take 4)) ∧ (s.hubLimit s.lead < a + 64 + bd.length ∨
        recordCrcOk hd bd = false)) ∧
    (∃ (n : Fin 32) (s : State), plannerRuns s = true ∧ s.on (bootB 0) R.BOOT_LOCK_PLAN_LOAD = false ∧
        planState s n ≠ 0 ∧ planState s n ≠ 1 ∧ planState s n ≠ 6) ∧
    (∃ (n : Fin 32) (p : PlanNeed) (s : State), plannerRuns s = true ∧ planState s n ≠ 0 ∧ planState s n ≠ 4 ∧
        repairWaits s = false ∧ refusal s n p = none) ∧
    (∃ (n : Fin 32) (p : PlanNeed) (r : Nat) (s : State), plannerRuns s = true ∧ planState s n ≠ 0 ∧
        planState s n ≠ 4 ∧ repairWaits s = false ∧ refusal s n p = some r) ∧
    (∃ (n : Fin 32) (s : State), plannerRuns s = true ∧ planState s n ≠ 0 ∧ planState s n ≠ 1 ∧ planState s n ≠ 6) ∧
    (∃ (s : State), plannerRuns s = true) ∧
    (∃ (n : Fin 32) (p : PlanNeed) (s : State), plannerRuns s = true ∧ (planState s n = 2 ∨ planState s n = 3) ∧
        s.on (planB 0) R.PLAN_CTRL_EN = true ∧ startDue s n = true ∧ repairWaits s = false ∧ refusal s n p = none) ∧
    (∃ (n : Fin 32) (p : PlanNeed) (r : Nat) (s : State), plannerRuns s = true ∧ (planState s n = 2 ∨
        planState s n = 3) ∧ s.on (planB 0) R.PLAN_CTRL_EN = true ∧ startDue s n = true ∧ repairWaits s = false ∧
        refusal s n p = some r) ∧
    (∃ (n : Fin 32) (s : State), plannerRuns s = true ∧ planState s n = 4 ∧ (s.planSt n).duration ≠ 0 ∧
        ((s.planSt n).period = 0 ∨ (s.planSt n).duration < (s.planSt n).period)) ∧
    (∃ (n : Fin 32) (s : State), plannerRuns s = true ∧ (planState s n = 5 ∨ planState s n = 7) ∧
        (s.planSt n).duration ≠ 0) ∧
    (∃ (n : Fin 32) (s : State), plannerRuns s = true ∧ planState s n = 2) ∧
    (∃ (n : Fin 32) (s : State), plannerRuns s = true ∧ planState s n = 5 ∧
        (s.rd (planNB n) R.PLAN_n_STATE_REASON = 8 ∨ s.rd (planNB n) R.PLAN_n_STATE_REASON = 4) ∧
        repairWaits s = false) ∧
    (∃ (n : Fin 32) (s : State), plannerRuns s = true ∧ s.on (pwrB 0) R.PWR_STATE_THROTTLE = true ∧
        s.rd (pwrB 0) R.PWR_THROTTLE_SUSPEND_MS ≠ 0 ∧ planState s n = 4 ∧ 0 < planStage s n ∧ (∀ m : Fin 32, m ≠ n →
        planState s m = 4 → 0 < planStage s m → planPrio s m < planPrio s n ∨
      (planPrio s m = planPrio s n ∧ (s.planSt m).admitted < (s.planSt n).admitted))) :=
  ⟨⟨(31 : Fin 32), (0 : Nat),
      ((List.replicate 32 65 ++ leBytes 8 77 ++ leBytes 4 5 ++ leBytes 4 9 ++ [3, 0xF, 0, 0] ++ leBytes 4 7 ++ leBytes 4 0) ++ leBytes 4 (crc32 (List.replicate 32 65 ++ leBytes 8 77 ++ leBytes 4 5 ++ leBytes 4 9 ++ [3, 0xF, 0, 0] ++ leBytes 4 7 ++ leBytes 4 0))), [], (plannerUp.putRaw 0 0 ((List.replicate 32 65 ++ leBytes 8 77 ++ leBytes 4 5 ++ leBytes 4 9 ++ [3, 0xF, 0, 0] ++ leBytes 4 7 ++ leBytes 4 0) ++ leBytes 4 (crc32 (List.replicate 32 65 ++ leBytes 8 77 ++ leBytes 4 5 ++ leBytes 4 9 ++ [3, 0xF, 0, 0] ++ leBytes 4 7 ++ leBytes 4 0)))), by decide +kernel, by decide +kernel, by decide +kernel, by decide +kernel, by decide +kernel, by decide +kernel, by decide +kernel, by decide +kernel⟩,
    ⟨(31 : Fin 32), (0 : Nat), List.replicate 64 0, [], plannerUp, by decide +kernel,
        by decide +kernel, by decide +kernel, by decide +kernel, by decide +kernel, by decide +kernel,
        by decide +kernel⟩,
    ⟨(31 : Fin 32), (plannerUp.wr (planNB 31) R.PLAN_n_STATE_STATE 4), by decide +kernel⟩,
    ⟨(31 : Fin 32), {}, (plannerUp.wr (planNB 31) R.PLAN_n_STATE_STATE 1), by decide +kernel⟩,
    ⟨(31 : Fin 32), { eth := [97001] }, (5 : Nat), (plannerUp.wr (planNB 31) R.PLAN_n_STATE_STATE 1),
        by decide +kernel⟩,
    ⟨(31 : Fin 32), (plannerUp.wr (planNB 31) R.PLAN_n_STATE_STATE 4), by decide +kernel⟩,
    ⟨(plannerUp.wr (planNB 31) R.PLAN_n_STATE_STATE 6), by decide +kernel⟩,
    ⟨(31 : Fin 32), {}, ((plannerUp.wr (planNB 31) R.PLAN_n_STATE_STATE 2).wr (planB 0) R.PLAN_CTRL_EN 1 |>.modPlan 31 fun q => { q with start := 2 ^ 64 - 1 }), by decide +kernel, by decide +kernel, by decide +kernel, by decide +kernel, by decide +kernel, by decide +kernel⟩,
    ⟨(31 : Fin 32), { eth := [97001] }, (5 : Nat),
        ((plannerUp.wr (planNB 31) R.PLAN_n_STATE_STATE 2).wr (planB 0) R.PLAN_CTRL_EN 1 |>.modPlan 31 fun q => { q with start := 2 ^ 64 - 1 }), by decide +kernel, by decide +kernel, by decide +kernel, by decide +kernel, by decide +kernel, by decide +kernel⟩,
    ⟨(31 : Fin 32), ((plannerUp.wr (planNB 31) R.PLAN_n_STATE_STATE 4).modPlan 31 fun q => { q with duration := 5 }),
        by decide +kernel⟩,
    ⟨(31 : Fin 32), ((plannerUp.wr (planNB 31) R.PLAN_n_STATE_STATE 7).modPlan 31 fun q => { q with duration := 5 }),
        by decide +kernel⟩,
    ⟨(31 : Fin 32), (plannerUp.wr (planNB 31) R.PLAN_n_STATE_STATE 2), by decide +kernel⟩,
    ⟨(31 : Fin 32), ((plannerUp.wr (planNB 31) R.PLAN_n_STATE_STATE 5).wr (planNB 31) R.PLAN_n_STATE_REASON 8),
        by decide +kernel⟩,
    ⟨(31 : Fin 32), ((((plannerUp.wr (planNB 31) R.PLAN_n_STATE_STATE 4).wr (planNB 31) R.PLAN_n_STAGE_STAGE 5).wr (pwrB 0) R.PWR_STATE_THROTTLE 1).wr (pwrB 0) R.PWR_THROTTLE_SUSPEND_MS 9), by decide +kernel, by decide +kernel, by decide +kernel, by decide +kernel, by decide +kernel, by decide +kernel⟩⟩

theorem wit_PowerRowsComplete :
    (∃ (d : Fin 8) (s : State), plannerRuns s = true ∧ 2 ≤ d.val ∧ bit s.powered d = true ∧
        dieNeeded s d (s.rd (planB 0) R.PLAN_SLEEP_SLEEP_S) = false) ∧
    (∃ (s : State), plannerRuns s = true ∧ (∀ n : Fin 32, planState s n ≠ 2)) ∧
    (∃ (s : State), inAon s = true) ∧
    (∃ (s : State), inAon s = true) ∧
    (∃ (s : State), s.on (pwrB 0) R.PWR_CTRL_TEST_EN = true ∧ s.rd (pwrB 0) R.PWR_BLEED_R ≠ 0 ∧ s.ledger.test = none ∧
        s.powerGood = true) ∧
    (∃ (v : Nat) (r : Nat) (s : State), s.ledger.test = some (v, r)) ∧
    (∃ (p : Path) (s : State), pathReaches s p (pwrB s.lead + R.PWR_CAP) = true ∧ s.resetLow = false ∧ (s.lead = 0 ∨
        s.lead = 1) ∧ bit s.part.present s.lead = true ∧ s.on (bootB 0) R.BOOT_LOCK_CAP = false) :=
  ⟨⟨(7 : Fin 8), { plannerUp with powered := 0xFF }, by decide +kernel⟩,
    ⟨{ plannerUp with powered := 0xFF }, by decide +kernel⟩,
    ⟨State.reset.wr (pwrB 0) R.PWR_STATE_STATE 0, by decide +kernel⟩,
    ⟨State.reset.wr (pwrB 0) R.PWR_STATE_STATE 0, by decide +kernel⟩,
    ⟨({ plannerUp with powerGood := true }.wr (pwrB 0) R.PWR_CTRL_TEST_EN 1 |>.wr (pwrB 0) R.PWR_BLEED_R 5),
        by decide +kernel⟩,
    ⟨(5 : Nat), (0 : Nat), { plannerUp with ledger := { test := some (5, 0) } }, by decide +kernel⟩,
    ⟨.planner, { plannerUp with resetLow := false }, by decide +kernel⟩⟩

theorem wit_BootRowsComplete :
    (∃ (s : State), s.resetLow = true) ∧
    (∃ (ok : Bool) (s : State), s.resetLow = false ∧ bootState s < 2 ∧ s.rails.stopped = false ∧
        s.rails.waits = false ∧ s.boot.norRuns = false ∧ s.boot.fuseOp = none ∧ s.rails.next < 12 ∧ ok = true) ∧
    (∃ (s : State), s.resetLow = false ∧ bootState s < 2 ∧ s.rails.stopped = false ∧ s.rails.waits = false ∧
        s.boot.norRuns = false ∧ s.boot.fuseOp = none ∧ 0 < s.rails.next ∧ s.rails.next < 12 ∧ s.rails.next ≠ 6 ∧
        s.rails.next ≠ 9 ∧ enableSkipped s (s.rails.next - 1) = false) ∧
    (∃ (v : Nat) (s : State), s.rails.adaptive = true ∧ bit s.rails.enables 1 = true ∧ 650 ≤ v ∧ v ≤ 850 ∧ v % 5 = 0 ∧
        v ≤ s.rails.vcore + 10 ∧ s.rails.vcore ≤ v + 10) ∧
    (∃ (s : State), (bootState s = 2 ∨ bootState s = 3)) ∧
    (∃ (img : List Byte) (n : Nat) (s : State), (bootState s = 4 ∨ bootState s = 5) ∧ s.boot.copy * 0x2000000 < n ∧
        (s.boot.copy ≠ 1 ∨ 0x4000000 ≤ n) ∧
        imgFails (s.setBytes 0 (bootBase s) (img.take (imgLen img))) img (n - s.boot.copy * 0x2000000) = none) ∧
    (∃ (img : List Byte) (ok : Bool) (n : Nat) (k : Nat) (s : State), (bootState s = 4 ∨ bootState s = 5) ∧
        ((if ok = false ∨ n ≤ s.boot.copy * 0x2000000 ∨ (s.boot.copy = 1 ∧ n < 0x4000000) then some 0
      else imgFails (s.setBytes 0 (bootBase s) (img.take (imgLen img))) img (n - s.boot.copy * 0x2000000)) = some k)) ∧
    (∃ (s : State), bootState s = 6 ∧ sampleClocks s = true ∧ linksSettled s = true) ∧
    (∃ (s : State), bootState s = 8 ∧ s.boot.advance = true ∧ bit s.fuses 0 = true ∧
        s.fusedSvn < s.rd (bootB 0) R.BOOT_SVN_IMAGE ∧ s.powerGood = true) ∧
    (∃ (s : State), (bootState s = 9 ∨ bootState s = 10 ∨ bootState s = 11) ∧
        imgFails s (s.bytes 0 (s.rd (bootB 0) R.BOOT_HOST_BASE_BASE * 2 ^ 20) (s.rd (bootB 0) R.BOOT_HOST_LEN_LEN))
        (s.rd (bootB 0) R.BOOT_HOST_LEN_LEN) = none) ∧
    (∃ (k : Nat) (s : State), (bootState s = 9 ∨ bootState s = 10 ∨ bootState s = 11) ∧
        imgFails s (s.bytes 0 (s.rd (bootB 0) R.BOOT_HOST_BASE_BASE * 2 ^ 20) (s.rd (bootB 0) R.BOOT_HOST_LEN_LEN))
        (s.rd (bootB 0) R.BOOT_HOST_LEN_LEN) = some k) ∧
    (∃ (s : State), s.on (bootB 0) R.BOOT_LOCK_NOR = false ∧ s.on (bootB 0) R.BOOT_STATUS_NOR_BUSY = false ∧
        s.rd (bootB 0) R.BOOT_HOST_LEN_LEN ≠ 0) ∧
    (∃ (s : State), s.boot.norRuns = true) ∧
    (∃ (s : State), (bootState s = 9 ∨ bootState s = 10 ∨ bootState s = 11)) ∧
    (∃ (s : State), s.on (bootB 0) R.BOOT_LOCK_FUSE = false ∧ s.on (bootB 0) R.BOOT_FUSE_CMD_BUSY = false ∧
        s.rd (bootB 0) R.BOOT_FUSE_CMD_OP ≠ 0 ∧ s.rd (bootB 0) R.BOOT_FUSE_CMD_OP ≠ 7 ∧
        (s.rd (bootB 0) R.BOOT_FUSE_CMD_OP ≤ 4 → bootState s = 11) ∧ (s.rd (bootB 0) R.BOOT_FUSE_CMD_OP = 5 →
        s.boot.slot ≠ some (s.rd (bootB 0) R.BOOT_FUSE_CMD_SLOT)) ∧ s.powerGood = true) ∧
    (∃ (op : Nat) (k : Nat) (h : List Byte) (s : State), s.boot.fuseOp = some (op, k, h)) ∧
    (∃ (p : Path) (s : State), pathReaches s p (bootB 0 + R.BOOT_LOCK) = true ∧ s.resetLow = false ∧
        bit s.part.present 0 = true ∧
        (∀ k : Fin 5, bit (tget (fun _ => (0 : Word)) s.locked (bootB 0 + R.BOOT_LOCK)).toNat k = bit (s.reg (bootB 0 + R.BOOT_LOCK)).toNat k)) ∧
    (∃ (s : State), s.powerGood = true) :=
  ⟨⟨{ State.reset with resetLow := true }, by decide +kernel⟩,
    ⟨true, { State.reset with resetLow := false, rails := { next := 11 } },
        by decide +kernel, by decide +kernel, by decide +kernel, by decide +kernel, by decide +kernel,
        by decide +kernel, by decide +kernel, by decide +kernel⟩,
    ⟨{ State.reset with resetLow := false, rails := { next := 5, tries := 2 } },
        by decide +kernel, by decide +kernel, by decide +kernel, by decide +kernel, by decide +kernel,
        by decide +kernel, by decide +kernel, by decide +kernel, by decide +kernel, by decide +kernel,
        by decide +kernel⟩,
    ⟨(650 : Nat), { State.reset with rails := { adaptive := true, enables := 2, vcore := 660 } }, by decide +kernel⟩,
    ⟨{ bootAt 3 with part := .s2d }, by decide +kernel⟩,
    ⟨(tinyImage : List Byte), (320 : Nat), bootAt 5, by decide +kernel⟩,
    ⟨[], true, (0 : Nat), (0 : Nat), bootAt 5, by decide +kernel⟩,
    ⟨{ bootAt 6 with link := (List.range 9).map fun l => (l, { trained := true }) }.wrs (acqB 0) [(R.ACQ_STATUS_CLK_LOCK, 1)] |>.wrs (acqB 1) [(R.ACQ_STATUS_CLK_LOCK, 1)], by decide +kernel⟩,
    ⟨{ (bootAt 8).wr (bootB 0) R.BOOT_SVN_IMAGE 5 with fuses := 1, powerGood := true, boot := { advance := true } },
        by decide +kernel⟩,
    ⟨((bootAt 10).putRaw 0 0 tinyImage).wr (bootB 0) R.BOOT_HOST_LEN_LEN 320, by decide +kernel⟩,
    ⟨(1 : Nat), bootAt 10, by decide +kernel⟩,
    ⟨(bootAt 8).wr (bootB 0) R.BOOT_HOST_LEN_LEN 320, by decide +kernel⟩,
    ⟨{ (bootAt 8).wr (bootB 0) R.BOOT_STATUS_NOR_BUSY 1 with boot := { norRuns := true } }, by decide +kernel⟩,
    ⟨bootAt 11, by decide +kernel⟩,
    ⟨{ (bootAt 11).wr (bootB 0) R.BOOT_FUSE_CMD_OP 4 with powerGood := true },
        by decide +kernel, by decide +kernel, by decide +kernel, by decide +kernel, by decide +kernel,
        by decide +kernel⟩,
    ⟨(1 : Nat), (0 : Nat), [], { bootAt 11 with boot := { fuseOp := some (1, 0, []) } }, by decide +kernel⟩,
    ⟨.spi 0, { bootAt 8 with resetLow := false }, by decide +kernel⟩,
    ⟨{ bootAt 4 with powerGood := true }, by decide +kernel⟩⟩

theorem wit_ClkRowsComplete :
    (∃ (h : Hub) (out : Bool) (s : State), s.hasHub h = true ∧ (s.synth h out).restart = true) ∧
    (∃ (f : Nat) (s : State), (s.clkSt 0).since0 = some f ∧ s.rdL (clkB 0) R.CLK_REF_REVERT_S ≠ 0 ∧
        2 ≤ s.rdL (clkB 0) R.CLK_REF_MODE ∧ refInUse s = 1 ∧
        f + s.rdL (clkB 0) R.CLK_REF_REVERT_S * 1280000000 ≤ s.time.frc) ∧
    (∃ (s : State), s.rd (bootB 0) R.BOOT_STATUS_STATE = 2 ∧ refPresent s (refInUse s) = false) ∧
    (∃ (h : Hub) (out : Bool) (n : Nat) (d : Nat) (s : State), s.hasHub h = true ∧ (s.synth h out).restart = false ∧
        (s.on (clkB h) (lockFld out) = false ∨ checksPass s h out = true) ∧
        d = ((n : Int) - lockExpect s h out).natAbs) ∧
    (∃ (h : Hub) (out : Bool) (s : State), s.hasHub h = true ∧ (s.synth h out).relocking = true ∧
        (s.synth h out).restart = false ∧ checksPass s h out = true ∧ refPresent s (refInUse s) = true) ∧
    (∃ (h : Hub) (out : Bool) (s : State), s.hasHub h = true ∧ (s.synth h out).relocking = true ∧
        (s.synth h out).since + max 1 (s.rd (clkB h) R.CLK_LOCK_CFG_TIMEOUT) * 1280000 ≤ s.time.frc ∧
        mayLock s h out = false) ∧
    (∃ (h : Hub) (s : State), s.hasHub h = true ∧ clkInRange s h = true) ∧
    (∃ (h : Hub) (s : State), s.hasHub h = true ∧ clkInRange s h = false) ∧
    (∃ (h : Hub) (s : State), s.hasHub h = true) ∧
    (∃ (h : Hub) (s : State), s.hasHub h = true) ∧
    (∃ (h : Hub) (s : State), s.hasHub h = true ∧ (s.rd (clkB h) R.CLK_SYSREF_MODE = 1 ∨
        s.rd (clkB h) R.CLK_SYSREF_MODE = 2)) ∧
    (∃ (h : Hub) (s : State), s.hasHub h = true ∧ s.time.frc % (64 * max 1 (s.rd (clkB h) R.CLK_SYSREF_PERIOD)) = 0) ∧
    (∃ (a : ADie) (s : State), s.usableA a = true ∧ tget noNat s.enabledIn a ≠ 0) ∧
    (∃ (a : ADie) (s : State), s.usableA a = true ∧ s.on (acqB a) R.ACQ_STATUS_CLK_LOCK = true) :=
  ⟨⟨(1 : Hub), true, State.reset.modSynth 1 true fun q => { q with restart := true }, by decide +kernel⟩,
    ⟨(5 : Nat), (((State.reset.modClk 0 fun q => { q with since0 := some 5 }).wrL (clkB 0) R.CLK_REF_REVERT_S 1).wrL (clkB 0) R.CLK_REF_MODE 2 |>.wr (clkB 0) R.CLK_REF_STATUS_IN_USE 1 |>.modTime fun q => { q with frc := 1280000005 }), by decide +kernel⟩,
    ⟨bootAt 2, by decide +kernel⟩,
    ⟨(0 : Hub), true, (0 : Nat),
        lockExpect ((State.reset.wr (clkB 0) R.CLK_LOCK_CFG_METHOD 0).wr (clkB 0) (lockFld true) 1) 0 true, ((State.reset.wr (clkB 0) R.CLK_LOCK_CFG_METHOD 0).wr (clkB 0) (lockFld true) 1).modSynth 0 true fun q => { q with pass := true }, by decide +kernel⟩,
    ⟨(0 : Hub), true, (State.reset.modSynth 0 true fun q => { q with relocking := true, restart := false, pass := true }).wrs (clkB 0) [(presFld 0, 1), (R.CLK_LOCK_CFG_METHOD, 0)], by decide +kernel⟩,
    ⟨(0 : Hub), true, (State.reset.modSynth 0 true fun q => { q with relocking := true }).modTime fun q => { q with frc := 2 ^ 40 }, by decide +kernel⟩,
    ⟨(0 : Hub), State.reset.wrs (clkB 0) [(R.CLK_OUT_N_INT, 51), (R.CLK_SHADOW_DIRTY, 1)], by decide +kernel⟩,
    ⟨(0 : Hub), State.reset.wrs (clkB 0) [(R.CLK_OUT_N_INT, 1), (R.CLK_SHADOW_DIRTY, 1)], by decide +kernel⟩,
    ⟨(0 : Hub), State.reset.wrs (clkB 0) [(R.CLK_OUT_N_INT, 51), (R.CLK_SHADOW_DIRTY, 1)], by decide +kernel⟩,
    ⟨(1 : Hub), State.reset, by decide +kernel⟩,
    ⟨(1 : Hub), (State.reset.wr (clkB 1) R.CLK_SYSREF_MODE 2).wr (clkB 1) R.CLK_SYSREF_PULSES 9, by decide +kernel⟩,
    ⟨(0 : Hub), State.reset.modClk 0 fun q => { q with sysref := 4 }, by decide +kernel⟩,
    ⟨(1 : ADie), { State.reset with enabledIn := [(1, 3)], powered := 255 }, by decide +kernel⟩,
    ⟨(1 : ADie), { State.reset with powered := 255 }.wr (acqB 1) R.ACQ_STATUS_CLK_LOCK 1, by decide +kernel⟩⟩

theorem wit_TimeRowsComplete :
    (∃ (r : Nat) (v : Int) (l : List (Nat × Int)) (s : State), s.time.rates = (r, v) :: l ∧ r ≤ s.time.frc ∧
        r ≤ timeDue s) ∧
    (∃ (r : Nat) (m : Int) (s : State), s.time.slewAt = some r ∧ r ≤ s.time.frc ∧ r ≤ timeDue s ∧
        (m = if s.time.lastIv = true then 0 else s.time.rem - s.time.owed)) ∧
    (∃ (r : Nat) (c : Int) (s : State), s.time.step = some (r, c) ∧ r ≤ s.time.frc ∧ r ≤ timeDue s) ∧
    (∃ (v : Int) (s : State), v = s.rdI (timeB 0) R.TIME_ADJ_ADJ_NS * fineNs) ∧
    (∃ (k : Fin 4) (s : State), baseSrc s k = 5 ∧ (∀ j : Fin 4, j ≠ k → baseSrc s j ≠ 5)) ∧
    (∃ (k : Fin 4) (j : Fin 4) (s : State), s.time.selected = some j.val ∧ s.rd (timeB 0) R.TIME_SELECT_REVERT_S ≠ 0 ∧
        s.on (timeB 0) R.TIME_CTRL_MANUAL = false ∧ baseState s k = 2 ∧ basePrio s k < basePrio s j ∧
        (s.baseSt k).since + s.rd (timeB 0) R.TIME_SELECT_REVERT_S * 1280000000 ≤ s.time.frc) ∧
    (∃ (k : Fin 4) (s : State), s.on (timeB 0) R.TIME_STATUS_REF_OK = false ∧ baseSrc s k = 4 ∧ (baseState s k = 1 ∨
        baseState s k = 2) ∧ s.on (timeB 0) R.TIME_CTRL_MANUAL = false ∧ (s.time.selected ≠ some k.val ∨
        baseState s k = 2)) ∧
    (∃ (k : Fin 4) (s : State), s.on (timeB 0) R.TIME_STATUS_REF_OK = true ∧ baseSrc s k = 4 ∧ (∀ j : Fin 4, j ≠ k →
        baseSrc s j ≠ 4)) ∧
    (∃ (k : Fin 4) (s : State), baseSrc s k = 3 ∧ (baseState s k = 1 ∨ baseState s k = 2)) :=
  ⟨⟨(1280 : Nat), -5, [(2560, 7)], State.reset.modTime fun q => { q with rates := [(1280, -5), (2560, 7)], frc := 1281 }, by decide +kernel⟩,
    ⟨(1280 : Nat), 5 * fineNs, State.reset.modTime fun q => { q with slewAt := some 1280, frc := 1281, rem := 5 * fineNs }, by decide +kernel⟩,
    ⟨(1280 : Nat), (77 : Int),
        State.reset.modTime fun q => { q with step := some (1280, 77), frc := 1281, rem := 5 * fineNs },
        by decide +kernel⟩,
    ⟨-5 * fineNs, State.reset.wr (timeB 0) R.TIME_ADJ_ADJ_NS 0xFFFFFFFB, by decide +kernel⟩,
    ⟨(3 : Fin 4), State.reset.wr (dbB 3) R.TIME_DB_k_CFG_SRC 5 |>.modTime fun q => { q with hostTime := 100 },
        by decide +kernel⟩,
    ⟨(1 : Fin 4), (0 : Fin 4),
        ((((State.reset.modTime fun q => { q with selected := some 0, frc := 2 ^ 40 }).wr (timeB 0) R.TIME_SELECT_REVERT_S 1).wr (dbB 1) R.TIME_DB_k_STATE_STATE 2).wr (dbB 0) R.TIME_DB_k_CFG_PRIO 3).wr (dbB 1) R.TIME_DB_k_CFG_PRIO 1, by decide +kernel, by decide +kernel, by decide +kernel, by decide +kernel, by decide +kernel, by decide +kernel⟩,
    ⟨(2 : Fin 4), (State.reset.wr (dbB 2) R.TIME_DB_k_CFG_SRC 4).wr (dbB 2) R.TIME_DB_k_STATE_STATE 2,
        by decide +kernel⟩,
    ⟨(0 : Fin 4), State.reset.wr (timeB 0) R.TIME_STATUS_REF_OK 1, by decide +kernel⟩,
    ⟨(2 : Fin 4), (State.reset.wr (dbB 2) R.TIME_DB_k_CFG_SRC 3).wr (dbB 2) R.TIME_DB_k_STATE_STATE 2,
        by decide +kernel⟩⟩

theorem wit_PtpRowsComplete :
    (∃ (p : Hub) (m : PtpMsg) (i : Fin 2) (s : State), m.supported = true ∧
        ptpInst s p m.domain.toNat = some (i : Nat) ∧ portState s i p = 9) ∧
    (∃ (p : Hub) (m : PtpMsg) (i : Fin 2) (s : State), m.supported = true ∧
        ptpInst s p m.domain.toNat = some (i : Nat) ∧ portState s i p ≠ 9) ∧
    (∃ (p : Hub) (m : PtpMsg) (s : State), (m.supported = false ∨ ptpInst s p m.domain.toNat = none)) ∧
    (∃ (p : Hub) (m : PtpMsg) (i : Fin 2) (s : State), m.supported = true ∧
        ptpInst s p m.domain.toNat = some (i : Nat)) ∧
    (∃ (p : Hub) (m : PtpMsg) (s : State), (m.supported = false ∨ ptpInst s p m.domain.toNat = none)) ∧
    (∃ (p : Hub) (m : PtpMsg) (r3 : Nat) (i : Fin 2) (s : State), m.supported = true ∧
        ptpInst s p m.domain.toNat = some (i : Nat) ∧ (s.ptpPort i p).req = some r3) ∧
    (∃ (p : Hub) (m : PtpMsg) (s : State), (m.supported = false ∨ ptpInst s p m.domain.toNat = none)) ∧
    (∃ (p : Hub) (i : Fin 2) (s : State), portState s i p = 9 ∧ (s.ptpPort i p).syncAt ≠ some s.time.frc) ∧
    (∃ (p : Hub) (i : Fin 2) (s : State), (ptpRole s i p = 1 ∨ ptpRole s i p = 2) ∧
        (s.ptpPort i p).annAt ≠ some s.time.frc) ∧
    (∃ (p : Hub) (i : Fin 2) (s : State), ptpRole s i p ≠ 0) :=
  ⟨⟨(0 : Hub), ⟨9, true⟩, (1 : Fin 2), ((State.reset.wrs (ptpB 0 1) [(R.TIME_PTP_i_CFG_EN, 1),
      (R.TIME_PTP_i_CFG_DOMAIN, 9), (R.TIME_PTP_i_CFG_ROLE0, 2), (R.TIME_PTP_i_CFG_ROLE1, 2),
      (R.TIME_PTP_i_STATE_PORT0, 9), (R.TIME_PTP_i_CFG_DELAY, 1)]).wrs (dbB 3) [(R.TIME_DB_k_CFG_SRC, 2),
      (R.TIME_DB_k_STATE_STATE, 2)]), by decide +kernel⟩,
    ⟨(0 : Hub), ⟨9, true⟩, (1 : Fin 2), ((State.reset.wrs (ptpB 0 1) [(R.TIME_PTP_i_CFG_EN, 1),
        (R.TIME_PTP_i_CFG_DOMAIN, 9), (R.TIME_PTP_i_CFG_ROLE0, 2), (R.TIME_PTP_i_CFG_ROLE1, 2),
        (R.TIME_PTP_i_STATE_PORT0, 9), (R.TIME_PTP_i_CFG_DELAY, 1)]).wr (ptpB 0 1) R.TIME_PTP_i_STATE_PORT0 4),
        by decide +kernel⟩,
    ⟨(0 : Hub), ⟨9, false⟩, State.reset, by decide +kernel⟩,
    ⟨(0 : Hub), ⟨9, true⟩, (1 : Fin 2), (State.reset.wrs (ptpB 0 1) [(R.TIME_PTP_i_CFG_EN, 1),
        (R.TIME_PTP_i_CFG_DOMAIN, 9), (R.TIME_PTP_i_CFG_ROLE0, 2), (R.TIME_PTP_i_CFG_ROLE1, 2),
        (R.TIME_PTP_i_STATE_PORT0, 9), (R.TIME_PTP_i_CFG_DELAY, 1)]), by decide +kernel⟩,
    ⟨(0 : Hub), ⟨9, false⟩, State.reset, by decide +kernel⟩,
    ⟨(0 : Hub), ⟨9, true⟩, (5 : Nat), (1 : Fin 2), (State.reset.wrs (ptpB 0 1) [(R.TIME_PTP_i_CFG_EN, 1),
        (R.TIME_PTP_i_CFG_DOMAIN, 9), (R.TIME_PTP_i_CFG_ROLE0, 2), (R.TIME_PTP_i_CFG_ROLE1, 2),
        (R.TIME_PTP_i_STATE_PORT0, 9), (R.TIME_PTP_i_CFG_DELAY, 1)]).modPort 1 0 fun q => { q with req := some 5 },
        by decide +kernel⟩,
    ⟨(0 : Hub), ⟨9, false⟩, State.reset, by decide +kernel⟩,
    ⟨(0 : Hub), (1 : Fin 2), ((State.reset.wrs (ptpB 0 1) [(R.TIME_PTP_i_CFG_EN, 1),
        (R.TIME_PTP_i_CFG_DOMAIN, 9), (R.TIME_PTP_i_CFG_ROLE0, 2), (R.TIME_PTP_i_CFG_ROLE1, 2),
        (R.TIME_PTP_i_STATE_PORT0, 9), (R.TIME_PTP_i_CFG_DELAY, 1)]).wrs (dbB 3) [(R.TIME_DB_k_CFG_SRC, 2),
        (R.TIME_DB_k_STATE_STATE, 2)]), by decide +kernel⟩,
    ⟨(1 : Hub), (1 : Fin 2), (State.reset.wrs (ptpB 0 1) [(R.TIME_PTP_i_CFG_EN, 1),
        (R.TIME_PTP_i_CFG_DOMAIN, 9), (R.TIME_PTP_i_CFG_ROLE0, 2), (R.TIME_PTP_i_CFG_ROLE1, 2),
        (R.TIME_PTP_i_STATE_PORT0, 9), (R.TIME_PTP_i_CFG_DELAY, 1)]), by decide +kernel⟩,
    ⟨(0 : Hub), (1 : Fin 2), (State.reset.wrs (ptpB 0 1) [(R.TIME_PTP_i_CFG_EN, 1),
        (R.TIME_PTP_i_CFG_DOMAIN, 9), (R.TIME_PTP_i_CFG_ROLE0, 2), (R.TIME_PTP_i_CFG_ROLE1, 2),
        (R.TIME_PTP_i_STATE_PORT0, 9), (R.TIME_PTP_i_CFG_DELAY, 1)]), by decide +kernel⟩⟩

theorem wit_TdcRowsComplete :
    (∃ (g : Fin 16) (u : Bool) (r : Nat) (k : BitVec 8) (s : State), tdcLive s g = true ∧ edgeSelected s g u = true ∧
        (∀ l ∈ (s.tdcIn g).last, ¬ ((s.on (timeB 0) R.TIME_STATUS_FINE = true ∧
        5 * (r * 256 + k.toNat) < 5 * l + 8192) ∨
      (s.on (timeB 0) R.TIME_STATUS_FINE = false ∧ r * 256 + k.toNat < l + 4096)))) ∧
    (∃ (g : Fin 16) (u : Bool) (r : Nat) (k : BitVec 8) (l : Nat) (s : State), tdcLive s g = true ∧
        edgeSelected s g u = true ∧ (s.tdcIn g).last = some l ∧ (((s.on (timeB 0) R.TIME_STATUS_FINE = true ∧
        5 * (r * 256 + k.toNat) < 5 * l + 8192) ∨
      (s.on (timeB 0) R.TIME_STATUS_FINE = false ∧ r * 256 + k.toNat < l + 4096)))) ∧
    (∃ (h : Hub) (s : State), s.hasHub h = true) ∧
    (∃ (h : Hub) (s : State), s.hasHub h = true) ∧
    (∃ (h : Hub) (s : State), s.hasHub h = true ∧ s.on (tdcB h) R.TDC_CAL_BUSY = false) ∧
    (∃ (h : Hub) (n : Nat) (u : Bool) (s : State), tget noCheck s.tdcCheck h = some (n, u)) ∧
    (∃ (g : Fin 16) (e : Nat) (l : List Nat) (s : State), (s.tdcIn g).fifo = e :: l) ∧
    (∃ (g : Fin 16) (s : State), (s.tdcIn g).fifo = []) ∧
    (∃ (h : Hub) (m : Fin 4) (e : Nat) (l : List Nat) (s : State), (s.ivUnit h m).fifo = e :: l) ∧
    (∃ (g : Fin 16) (s : State), s.hasHub (g.val / 8) = true ∧ s.rd (tdcInB g) R.TDC_n_PERIOD_PERIOD ≠ 0 ∧
        (∀ r ∈ (s.tdcIn g).presLast, r / 2048 ≠ s.time.frc / 8)) ∧
    (∃ (g : Fin 16) (s : State), s.hasHub (g.val / 8) = true ∧ s.on (tdcInB g) R.TDC_n_CFG_EN = true ∧
        s.on (tdcInB g) R.TDC_n_STATUS_READY = false) :=
  ⟨⟨(15 : Fin 16), true, (100 : Nat), (7 : BitVec 8), (State.reset.wrs (tdcInB 15) [(R.TDC_n_CFG_EN, 1),
      (R.TDC_n_STATUS_READY, 1),
      (R.TDC_n_GATE_MODE, 1)] |>.wrs (timeB 0) [(R.TIME_STATUS_FINE, 1)] |>.wr (pwrB 0) R.PWR_STATE_STATE 2),
      by decide +kernel⟩,
    ⟨(15 : Fin 16), true, (100 : Nat),
        (7 : BitVec 8), (25600 : Nat), ((State.reset.wrs (tdcInB 15) [(R.TDC_n_CFG_EN, 1),
        (R.TDC_n_STATUS_READY, 1),
        (R.TDC_n_GATE_MODE, 1)] |>.wrs (timeB 0) [(R.TIME_STATUS_FINE, 1)] |>.wr (pwrB 0) R.PWR_STATE_STATE 2).modTdc 15 fun q => { q with last := some 25600 }), by decide +kernel⟩,
    ⟨(1 : Hub), State.reset.wr (tdcInB 15) R.TDC_n_GATE_MODE 3, by decide +kernel⟩,
    ⟨(1 : Hub), State.reset.modTdc 15 fun q => { q with fifo := [1] }, by decide +kernel⟩,
    ⟨(1 : Hub), (State.reset.wr (timeB 0) R.TIME_STATUS_FINE 1).wr (tdcInB 15) R.TDC_n_GATE_MODE 0,
        by decide +kernel⟩,
    ⟨(1 : Hub), (7 : Nat), true, { State.reset with tdcCheck := [(1, some (7, true))] }, by decide +kernel⟩,
    ⟨(3 : Fin 16), 5 * 2 ^ 96, [7], State.reset.modTdc 3 fun q => { q with fifo := [5 * 2 ^ 96, 7] },
        by decide +kernel⟩,
    ⟨(3 : Fin 16), State.reset, by decide +kernel⟩,
    ⟨(1 : Hub), (3 : Fin 4), 5 * 2 ^ 96, [7], State.reset.modIv 1 3 fun q => { q with fifo := [5 * 2 ^ 96, 7] },
        by decide +kernel⟩,
    ⟨(9 : Fin 16), State.reset.wrs (tdcInB 9) [(R.TDC_n_PERIOD_PERIOD, 5),
        (R.TDC_n_STATUS_PRESENT, 1)], by decide +kernel⟩,
    ⟨(9 : Fin 16), State.reset.wrs (tdcInB 9) [(R.TDC_n_CFG_EN, 1)], by decide +kernel⟩⟩

theorem wit_NfsWriteRowsComplete :
    (∃ (h : Hub) (k : Fin 64) (s : State), s.hasHub h = true ∧ s.on (nfsSrcB h k) R.NFS_SRC_s_CTRL_EN = false ∧
        (s.nfsSt h).cat.length < 65536) ∧
    (∃ (h : Hub) (k : Fin 64) (s : State), s.hasHub h = true ∧ s.on (nfsSrcB h k) R.NFS_SRC_s_CTRL_EN = false ∧
        65536 ≤ (s.nfsSt h).cat.length ∧ (s.on (nfsB h) R.NFS_CTRL_FULL = false ∨ (s.nfsSt h).oldest = none)) ∧
    (∃ (h : Hub) (k : Fin 64) (n : Nat) (s : State), s.hasHub h = true ∧
        s.on (nfsSrcB h k) R.NFS_SRC_s_CTRL_EN = false ∧ (s.nfsSt h).cat.length = 65536 ∧
        s.on (nfsB h) R.NFS_CTRL_FULL = true ∧ (s.nfsSt h).oldest = some n) ∧
    (∃ (h : Hub) (k : Fin 64) (s : State), (s.hasHub h = false ∨ s.on (nfsSrcB h k) R.NFS_SRC_s_CTRL_EN = true)) ∧
    (∃ (h : Hub) (k : Fin 64) (r : NfsRec) (s : State), s.hasHub h = true ∧
        s.on (nfsSrcB h k) R.NFS_SRC_s_CTRL_EN = true ∧
        (s.nfsSt h).find (s.rd (nfsSrcB h k) R.NFS_SRC_s_REC_REC) = some r ∧ r.source = k.val ∧ r.state = 1 ∧
        (s.nfsSt h).isShown r = true ∧ ((s.nfsSt h).cat.map (·.num)).Nodup) ∧
    (∃ (h : Hub) (k : Fin 64) (s : State), (s.hasHub h = false ∨ s.on (nfsSrcB h k) R.NFS_SRC_s_CTRL_EN = false)) ∧
    (∃ (h : Hub) (s : State), s.hasHub h = true) ∧
    (∃ (h : Hub) (k : Fin 64) (r : NfsRec) (o : NandOpen) (n : Nat) (s : State), nfsReady s h = true ∧
        s.on (nfsB h) R.NFS_CTRL_EN = true ∧ s.on (nfsB h) R.NFS_STATUS_ERASING = false ∧
        s.on (nfsB h) R.NFS_STATUS_FORMATTING = false ∧ (s.nfsSt h).cat = [r] ∧ r.source = k.val ∧ r.state = 1 ∧
        r.orphan = false ∧ (s.nfsSt h).isShown r = true ∧ s.rd (nfsSrcB h k) R.NFS_SRC_s_SIZE_SIZE ≠ 0 ∧
        (s.nfsSt h).filling = some o ∧ o.extents.length < 124 ∧
        dist32 (s.rd (nfsSrcB h k) R.NFS_SRC_s_WPTR_WPTR) (s.rd (nfsSrcB h k) R.NFS_SRC_s_RPTR_RPTR) = n ∧ 0 < n ∧
        o.used + n < o.room ∧ s.hasHub h = true) ∧
    (∃ (h : Hub) (s : State), s.hasHub h = false) ∧
    (∃ (h : Hub) (o : NandOpen) (s : State), (s.nfsSt h).filling = some o ∧ s.rd (nfsB h) R.NFS_CTRL_SEAL_MS ≠ 0 ∧
        o.opened + s.rd (nfsB h) R.NFS_CTRL_SEAL_MS * 1280000 ≤ s.time.frc ∧ o.used ≠ 0) ∧
    (∃ (h : Hub) (s : State), (s.rd (nfsB h) R.NFS_CTRL_SEAL_MS = 0 ∨
        ∀ o ∈ (s.nfsSt h).filling, s.time.frc < o.opened + s.rd (nfsB h) R.NFS_CTRL_SEAL_MS * 1280000 ∨ o.used = 0)) ∧
    (∃ (h : Hub) (q : Nat) (r : NandRow) (s : State),
        ((s.nfsSt h).rows.find? fun r => r.seq == q && !r.passed) = some r ∧ q < (s.nfsSt h).rowSeq ∧ r.old = none ∧
        ((s.nfsSt h).cat.map (·.num)).Nodup ∧ (∀ x ∈ (s.nfsSt h).cat, x.source < 64)) ∧
    (∃ (h : Hub) (q : Nat) (r : NandRow) (p : Nat) (s : State),
        ((s.nfsSt h).rows.find? fun r => r.seq == q && !r.passed) = some r ∧ q < (s.nfsSt h).rowSeq ∧ p < q ∧
        r.old = some p ∧ r.flags / 4 % 2 = 1) ∧
    (∃ (h : Hub) (q : Nat) (d : Fin 256) (r : NandRow) (s : State),
        ((s.nfsSt h).rows.find? fun r => r.seq == q && !r.passed) = some r ∧ r.dies.contains d.val = true ∧
        (∀ x ∈ (s.nfsSt h).rows, x.seq = q → x = r) ∧ tget noNat (s.nfsSt h).fails d < 2) ∧
    (∃ (h : Hub) (q : Nat) (d : Fin 256) (r : NandRow) (s : State),
        ((s.nfsSt h).rows.find? fun r => r.seq == q && !r.passed) = some r ∧ r.dies.contains d.val = true ∧
        2 ≤ tget noNat (s.nfsSt h).fails d ∧ (s.nfsSt h).failed.contains d.val = false ∧
        ((s.nfsSt h).luns.any fun l => l.i.val == d.val) = true) ∧
    (∃ (h : Hub) (q : Nat) (d : Fin 256) (r : NandRow) (s : State),
        ((s.nfsSt h).rows.find? fun r => r.seq == q && !r.passed) = some r ∧ r.dies.contains d.val = false) ∧
    (∃ (h : Hub) (q : Nat) (s : State), ((s.nfsSt h).rows.find? fun r => r.seq == q && !r.passed) = none) ∧
    (∃ (h : Hub) (d : Fin 256) (s : State), s.hasHub h = true ∧ (s.nfsSt h).failed.contains d.val = false ∧
        ((s.nfsSt h).luns.any fun l => l.i.val == d.val) = true) ∧
    (∃ (h : Hub) (d : Fin 256) (s : State), (s.hasHub h = false ∨ (s.nfsSt h).failed.contains d.val = true ∨
        ((s.nfsSt h).luns.any fun l => l.i.val == d.val) = false)) ∧
    (∃ (h : Hub) (g : Nat) (s : State), (s.nfsSt h).rebuilding.contains g = true) ∧
    (∃ (h : Hub) (g : Nat) (s : State), (s.nfsSt h).rebuilding.contains g = false) ∧
    (∃ (h : Hub) (g : Nat) (sb : Nat) (r : NandRow) (s : State), nfsReady s h = true ∧
        s.on (nfsB h) R.NFS_CTRL_PATROL_EN = true ∧ (s.rd (pwrB 0) R.PWR_STATE_STATE = 1 ∨
        s.rd (pwrB 0) R.PWR_STATE_STATE = 2) ∧ r ∈ (s.nfsSt h).rowsOf g sb ∧
        r.patrolled + max 1 (s.rd (nfsB h) R.NFS_PATROL_DAYS) * 86400 * 1000000 * 1280 ≤ s.time.frc) ∧
    (∃ (h : Hub) (g : Nat) (sb : Nat) (s : State), (nfsReady s h = false ∨
        s.on (nfsB h) R.NFS_CTRL_PATROL_EN = false ∨ ¬ (s.rd (pwrB 0) R.PWR_STATE_STATE = 1 ∨
        s.rd (pwrB 0) R.PWR_STATE_STATE = 2) ∨
      ∀ r ∈ (s.nfsSt h).rowsOf g sb, s.time.frc < r.patrolled + max 1 (s.rd (nfsB h) R.NFS_PATROL_DAYS) * 86400 * 1000000 * 1280)) ∧
    (∃ (h : Hub) (g : Nat) (sb : Nat) (s : State), nfsReady s h = true ∧
        s.rd (nfsB h) R.NFS_READ_LIMIT_LIMIT ≤ ((s.nfsSt h).super g sb).reads) ∧
    (∃ (h : Hub) (g : Nat) (sb : Nat) (s : State), (nfsReady s h = false ∨
        ((s.nfsSt h).super g sb).reads < s.rd (nfsB h) R.NFS_READ_LIMIT_LIMIT)) :=
  ⟨⟨(0 : Hub), (3 : Fin 64), storeUp, by decide +kernel⟩,
    ⟨(0 : Hub), (3 : Fin 64),
        storeUp.modNfs 0 fun q => { q with cat := List.replicate 65536 { num := 1, source := 3, openSts := 5, state := 3 } }, by decide +kernel⟩,
    ⟨(0 : Hub), (3 : Fin 64),
        (1 : Nat), (storeUp.modNfs 0 fun q => { q with cat := List.replicate 65536 { num := 1, source := 3, openSts := 5, state := 3 } }).wr (nfsB 0) R.NFS_CTRL_FULL 1, by decide +kernel⟩,
    ⟨(0 : Hub), (3 : Fin 64), storeUp.wr (nfsSrcB 0 3) R.NFS_SRC_s_CTRL_EN 1, by decide +kernel⟩,
    ⟨(0 : Hub), (3 : Fin 64),
        { num := 1, source := 3, openSts := 5 }, (storeUp.wrs (nfsSrcB 0 3) [(R.NFS_SRC_s_CTRL_EN, 1),
        (R.NFS_SRC_s_REC_REC, 1)]).modNfs 0 fun q => { q with shown := [(3, 1)] },
        by decide +kernel, by decide +kernel, by decide +kernel, by decide +kernel, by decide +kernel,
        by decide +kernel, by decide +kernel⟩,
    ⟨(0 : Hub), (3 : Fin 64), storeUp, by decide +kernel⟩,
    ⟨(0 : Hub), storeUp, by decide +kernel⟩,
    ⟨(0 : Hub), (3 : Fin 64),
        { num := 1, source := 3, openSts := 5 }, ⟨0, 0, 0, [7], 40, 3, [⟨1, 0, 3, 0⟩], 0⟩, (2 : Nat),
        ((storeUp.modNfs 0 fun q => { q with filling := some ⟨0, 0, 0, [7], 40, 3, [⟨1, 0, 3, 0⟩], 0⟩, shown := [(3, 1)] }).wr (nfsB 0) R.NFS_CTRL_EN 1).wrs (nfsSrcB 0 3) [(R.NFS_SRC_s_SIZE_SIZE, 1), (R.NFS_SRC_s_WPTR_WPTR, 3), (R.NFS_SRC_s_RPTR_RPTR, 1)], by decide +kernel, by decide +kernel, by decide +kernel, by decide +kernel, by decide +kernel, by decide +kernel, by decide +kernel, by decide +kernel, by decide +kernel, by decide +kernel, by decide +kernel, by decide +kernel, by decide +kernel, by decide +kernel, by decide +kernel, by decide +kernel⟩,
    ⟨(1 : Hub), { State.reset with part := .s4d }, by decide +kernel⟩,
    ⟨(0 : Hub), ⟨0, 0, 0, [7], 40, 3, [⟨1, 0, 3, 0⟩], 0⟩, (storeUp.modNfs 0 fun q => { q with filling := some ⟨0, 0, 0, [7], 40, 3, [⟨1, 0, 3, 0⟩], 0⟩ }).wr (nfsB 0) R.NFS_CTRL_SEAL_MS 1 |> fun s => { s with time := { s.time with frc := 2 ^ 30 } }, by decide +kernel⟩,
    ⟨(0 : Hub), storeUp, by decide +kernel⟩,
    ⟨(0 : Hub), (8 : Nat), { seq := 8, group := 0, sb := 0, row := 0, dies := [7], extents := [⟨1, 0, 4, 0⟩], flags := 0, header := [], sealedAt := 0, patrolled := 0 }, storeUp, by decide +kernel⟩,
    ⟨(0 : Hub), (8 : Nat), { seq := 8, group := 0, sb := 0, row := 0, dies := [7], extents := [⟨1, 0, 4, 0⟩], flags := 4, header := [], sealedAt := 0, patrolled := 0, old := some 3 }, (3 : Nat), storeUp.modNfs 0 fun q => { q with rows := q.rows.map fun r => { r with flags := 4, old := some 3 } }, by decide +kernel⟩,
    ⟨(0 : Hub), (8 : Nat), (7 : Fin 256),
        { seq := 8, group := 0, sb := 0, row := 0, dies := [7], extents := [⟨1, 0, 4, 0⟩], flags := 0, header := [], sealedAt := 0, patrolled := 0 }, storeUp, by decide +kernel⟩,
    ⟨(0 : Hub), (8 : Nat), (7 : Fin 256),
        { seq := 8, group := 0, sb := 0, row := 0, dies := [7], extents := [⟨1, 0, 4, 0⟩], flags := 0, header := [], sealedAt := 0, patrolled := 0 }, storeUp.modNfs 0 fun q => { q with fails := [(7, 2)] }, by decide +kernel⟩,
    ⟨(0 : Hub), (8 : Nat), (6 : Fin 256),
        { seq := 8, group := 0, sb := 0, row := 0, dies := [7], extents := [⟨1, 0, 4, 0⟩], flags := 0, header := [], sealedAt := 0, patrolled := 0 }, storeUp, by decide +kernel⟩,
    ⟨(0 : Hub), (9 : Nat), storeUp, by decide +kernel⟩,
    ⟨(0 : Hub), (7 : Fin 256), storeUp, by decide +kernel⟩,
    ⟨(0 : Hub), (6 : Fin 256), storeUp, by decide +kernel⟩,
    ⟨(0 : Hub), (0 : Nat), storeUp.modNfs 0 fun q => { q with rebuilding := [0] }, by decide +kernel⟩,
    ⟨(0 : Hub), (0 : Nat), storeUp, by decide +kernel⟩,
    ⟨(0 : Hub), (0 : Nat), (0 : Nat),
        { seq := 8, group := 0, sb := 0, row := 0, dies := [7], extents := [⟨1, 0, 4, 0⟩], flags := 0, header := [], sealedAt := 0, patrolled := 0, passed := true }, ((storeUp.modNfs 0 fun q => { q with rows := q.rows.map fun r => { r with passed := true } }).wr (nfsB 0) R.NFS_CTRL_PATROL_EN 1).wr (pwrB 0) R.PWR_STATE_STATE 2 |> fun s => { s with time := { s.time with frc := 2 ^ 63 } }, by decide +kernel⟩,
    ⟨(0 : Hub), (0 : Nat), (0 : Nat), storeUp, by decide +kernel⟩,
    ⟨(0 : Hub), (0 : Nat), (0 : Nat),
        ((storeUp.modNfs 0 fun q => { q with rows := q.rows.map fun r => { r with passed := true } }).wr (nfsB 0) R.NFS_READ_LIMIT_LIMIT 5).modNfs 0 fun q => q.modSuper 0 0 fun x => { x with reads := 5 }, by decide +kernel⟩,
    ⟨(0 : Hub), (0 : Nat), (0 : Nat), storeUp, by decide +kernel⟩⟩

theorem wit_NfsCommandRowsComplete :
    (∃ (h : Hub) (s : State), s.hasHub h = true ∧ noSources s h = true ∧
        s.on (nfsB h) R.NFS_STATUS_FORMATTING = false) ∧
    (∃ (h : Hub) (s : State), (s.hasHub h = false ∨ noSources s h = false ∨
        s.on (nfsB h) R.NFS_STATUS_FORMATTING = true)) ∧
    (∃ (h : Hub) (u : NandLun) (s : State), s.hasHub h = true ∧ s.on (nfsB h) R.NFS_STATUS_FORMATTING = true ∧
        (s.nfsSt h).luns.head? = some u) ∧
    (∃ (h : Hub) (s : State), s.hasHub h = true ∧ s.on (nfsB h) R.NFS_STATUS_FORMATTING = true ∧
        (s.nfsSt h).luns = []) ∧
    (∃ (h : Hub) (s : State), (s.hasHub h = false ∨ s.on (nfsB h) R.NFS_STATUS_FORMATTING = false)) ∧
    (∃ (h : Hub) (s : State), s.hasHub h = true ∧ s.on (nfsB h) R.NFS_RD_STATUS_BUSY = false) ∧
    (∃ (h : Hub) (s : State), s.hasHub h = true ∧ s.on (nfsB h) R.NFS_RD_STATUS_BUSY = true) ∧
    (∃ (h : Hub) (s : State), s.hasHub h = false) ∧
    (∃ (h : Hub) (n : Nat) (s : State), s.hasHub h = true ∧ s.on (nfsB h) R.NFS_RD_STATUS_BUSY = true ∧
        (if nfsReady s h then min (s.rd (nfsB h) R.NFS_RD_LEN_SECTORS) ((((s.nfsSt h).find (s.rd (nfsB h) R.NFS_RD_REC_REC)).map fun r => (recCounts s h r).2.2).getD 0 - s.rd (nfsB h) R.NFS_RD_OFS_SECTOR) else 0) = n) ∧
    (∃ (h : Hub) (s : State), (s.hasHub h = false ∨ s.on (nfsB h) R.NFS_RD_STATUS_BUSY = false)) ∧
    (∃ (h : Hub) (r : NfsRec) (s : State), s.hasHub h = true ∧
        (s.nfsSt h).find (s.rd (nfsB h) R.NFS_CAT_SEL_REC) = some r ∧ r.state = 3 ∧ r.protect = false ∧
        (s.on (nfsB h) R.NFS_RD_STATUS_BUSY = false ∨
        s.rd (nfsB h) R.NFS_RD_REC_REC ≠ s.rd (nfsB h) R.NFS_CAT_SEL_REC)) ∧
    (∃ (h : Hub) (r : NfsRec) (s : State), s.hasHub h = true ∧
        (s.nfsSt h).find (s.rd (nfsB h) R.NFS_CAT_SEL_REC) = some r ∧ r.state = 3 ∧ r.protect = false ∧
        s.on (nfsB h) R.NFS_RD_STATUS_BUSY = true ∧
        s.rd (nfsB h) R.NFS_RD_REC_REC = s.rd (nfsB h) R.NFS_CAT_SEL_REC) ∧
    (∃ (h : Hub) (r : NfsRec) (s : State), s.hasHub h = true ∧
        (s.nfsSt h).find (s.rd (nfsB h) R.NFS_CAT_SEL_REC) = some r ∧ (r.state ≠ 3 ∨ r.protect = true)) ∧
    (∃ (h : Hub) (s : State), (s.hasHub h = false ∨ (s.nfsSt h).find (s.rd (nfsB h) R.NFS_CAT_SEL_REC) = none)) ∧
    (∃ (h : Hub) (s : State), s.hasHub h = true ∧ (s.nfsSt h).unlockFails < 8 ∧
        s.on (nfsB h) R.NFS_STATUS_LOCKED = true) ∧
    (∃ (h : Hub) (s : State), s.hasHub h = true ∧ 8 ≤ (s.nfsSt h).unlockFails) ∧
    (∃ (h : Hub) (s : State), (s.hasHub h = false ∨ ((s.nfsSt h).unlockFails < 8 ∧
        s.on (nfsB h) R.NFS_STATUS_LOCKED = false))) ∧
    (∃ (h : Hub) (s : State), s.hasHub h = true ∧ noSources s h = true ∧ s.powerGood = true ∧
        pendingSectors s h = 0) ∧
    (∃ (h : Hub) (s : State), s.hasHub h = true ∧ (s.powerGood = false ∨ noSources s h = false ∨
        pendingSectors s h ≠ 0)) ∧
    (∃ (h : Hub) (s : State), s.hasHub h = false) ∧
    (∃ (h : Hub) (s : State), s.hasHub h = true ∧ s.on (nfsB h) R.NFS_STATUS_ERASING = true) ∧
    (∃ (h : Hub) (s : State), (s.hasHub h = false ∨ s.on (nfsB h) R.NFS_STATUS_ERASING = false)) ∧
    (∃ (h : Hub) (n : BitVec 24) (r : NfsRec) (s : State), s.hasHub h = true ∧ (s.nfsSt h).find n.toNat = some r) ∧
    (∃ (h : Hub) (n : BitVec 24) (s : State), s.hasHub h = true ∧ (s.nfsSt h).find n.toNat = none) ∧
    (∃ (h : Hub) (s : State), s.hasHub h = false) ∧
    (∃ (h : Hub) (s : State), s.hasHub h = true) ∧
    (∃ (h : Hub) (s : State), s.hasHub h = false) ∧
    (∃ (h : Hub) (e : List (Fin 32 × PlanNeed)) (s : State), (s.hasHub h = false ∨
        s.on (nfsB h) R.NFS_STATUS_MOUNTED = true) ∧ e = []) ∧
    (∃ (h : Hub) (s : State), s.hasHub h = true ∧ s.on (nfsB h) R.NFS_STATUS_MOUNTED = false ∧
        (s.nfsSt h).formatted = false) ∧
    (∃ (h : Hub) (e : List (Fin 32 × PlanNeed)) (s : State), s.hasHub h = true ∧
        s.on (nfsB h) R.NFS_STATUS_MOUNTED = false ∧ (s.nfsSt h).formatted = true ∧
        (∀ r ∈ (s.nfsSt h).rows, ∃ e ∈ r.extents, ∃ x ∈ (s.nfsSt h).cat, x.num = e.num)) ∧
    (∃ (h : Hub) (s : State), s.hasHub h = true ∧ s.on (nfsB h) R.NFS_STATUS_FLUSH = true ∧
        (s.rd (pwrB 0) R.PWR_STATE_STATE ≠ 3 ∨ ∃ g ∈ s.hubList, g ≠ h.val ∧
        s.on (nfsB g) R.NFS_STATUS_CLOSED = false)) ∧
    (∃ (h : Hub) (s : State), s.hasHub h = true ∧ s.on (nfsB h) R.NFS_STATUS_FLUSH = true ∧
        s.rd (pwrB 0) R.PWR_STATE_STATE = 3 ∧ (∀ g ∈ s.hubList, g ≠ h.val →
        s.on (nfsB g) R.NFS_STATUS_CLOSED = true)) ∧
    (∃ (h : Hub) (s : State), (s.hasHub h = false ∨ s.on (nfsB h) R.NFS_STATUS_FLUSH = false)) :=
  ⟨⟨(0 : Hub), storeUp, by decide +kernel⟩,
    ⟨(0 : Hub), storeUp.wr (nfsSrcB 0 3) R.NFS_SRC_s_CTRL_EN 1, by decide +kernel⟩,
    ⟨(0 : Hub), { i := 7, ok := true, maker := 1, bpc4 := true, planes4 := true, pages := 8, blocks := 8, mbps := 9 }, storeUp.wr (nfsB 0) R.NFS_STATUS_FORMATTING 1, by decide +kernel⟩,
    ⟨(0 : Hub), (storeUp.wr (nfsB 0) R.NFS_STATUS_FORMATTING 1).modNfs 0 fun q => { q with luns := [] },
        by decide +kernel⟩,
    ⟨(0 : Hub), storeUp, by decide +kernel⟩,
    ⟨(0 : Hub), storeUp, by decide +kernel⟩,
    ⟨(0 : Hub), storeUp.wr (nfsB 0) R.NFS_RD_STATUS_BUSY 1, by decide +kernel⟩,
    ⟨(1 : Hub), { State.reset with part := .s4d }, by decide +kernel⟩,
    ⟨(0 : Hub), (2 : Nat), (storeUp.modNfs 0 fun q => { q with cat := [{ num := 1, source := 3, openSts := 5, safe := 4 }] }).wrs (nfsB 0) [(R.NFS_RD_STATUS_BUSY, 1), (R.NFS_RD_REC_REC, 1), (R.NFS_RD_LEN_SECTORS, 3), (R.NFS_RD_OFS_SECTOR, 2)], by decide +kernel⟩,
    ⟨(0 : Hub), storeUp, by decide +kernel⟩,
    ⟨(0 : Hub), { num := 1, source := 3, openSts := 5, state := 3 }, (storeUp.modNfs 0 fun q => { q with cat := [{ num := 1, source := 3, openSts := 5, state := 3 }] }).wr (nfsB 0) R.NFS_CAT_SEL_REC 1, by decide +kernel⟩,
    ⟨(0 : Hub), { num := 1, source := 3, openSts := 5, state := 3 }, (storeUp.modNfs 0 fun q => { q with cat := [{ num := 1, source := 3, openSts := 5, state := 3 }] }).wrs (nfsB 0) [(R.NFS_CAT_SEL_REC, 1), (R.NFS_RD_REC_REC, 1), (R.NFS_RD_STATUS_BUSY, 1)], by decide +kernel, by decide +kernel, by decide +kernel, by decide +kernel, by decide +kernel, by decide +kernel⟩,
    ⟨(0 : Hub), { num := 1, source := 3, openSts := 5 }, storeUp.wr (nfsB 0) R.NFS_CAT_SEL_REC 1, by decide +kernel⟩,
    ⟨(0 : Hub), storeUp, by decide +kernel⟩,
    ⟨(0 : Hub), storeUp.wr (nfsB 0) R.NFS_STATUS_LOCKED 1, by decide +kernel⟩,
    ⟨(0 : Hub), storeUp.modNfs 0 fun q => { q with unlockFails := 8 }, by decide +kernel⟩,
    ⟨(0 : Hub), storeUp, by decide +kernel⟩,
    ⟨(0 : Hub), storeUp, by decide +kernel⟩,
    ⟨(0 : Hub), storeUp.wr (nfsSrcB 0 3) R.NFS_SRC_s_CTRL_EN 1, by decide +kernel⟩,
    ⟨(1 : Hub), { State.reset with part := .s4d }, by decide +kernel⟩,
    ⟨(0 : Hub), storeUp.wr (nfsB 0) R.NFS_STATUS_ERASING 1, by decide +kernel⟩,
    ⟨(0 : Hub), storeUp, by decide +kernel⟩,
    ⟨(0 : Hub), (1 : BitVec 24), { num := 1, source := 3, openSts := 5 }, storeUp, by decide +kernel⟩,
    ⟨(0 : Hub), (7 : BitVec 24), storeUp, by decide +kernel⟩,
    ⟨(1 : Hub), { State.reset with part := .s4d }, by decide +kernel⟩,
    ⟨(0 : Hub), storeUp, by decide +kernel⟩,
    ⟨(1 : Hub), { State.reset with part := .s4d }, by decide +kernel⟩,
    ⟨(0 : Hub), [], storeUp, by decide +kernel⟩,
    ⟨(0 : Hub), (storeUp.wr (nfsB 0) R.NFS_STATUS_MOUNTED 0).modNfs 0 fun q => { q with formatted := false },
        by decide +kernel⟩,
    ⟨(0 : Hub), [], (storeUp.wr (nfsB 0) R.NFS_STATUS_MOUNTED 0).modNfs 0 fun q => { q with clean := false, cat := [{ num := 1, source := 3, openSts := 5, orphan := true }] }, by decide +kernel⟩,
    ⟨(0 : Hub), storeUp.wr (nfsB 0) R.NFS_STATUS_FLUSH 1, by decide +kernel⟩,
    ⟨(0 : Hub), ((storeUp.wr (nfsB 0) R.NFS_STATUS_FLUSH 1).wr (nfsB 1) R.NFS_STATUS_CLOSED 1).wr (pwrB 0) R.PWR_STATE_STATE 3, by decide +kernel⟩,
    ⟨(0 : Hub), storeUp, by decide +kernel⟩⟩

theorem wit_DdrRowsComplete :
    (∃ (h : Hub) (c : Fin 2) (l : List DdrReq) (a : DdrAccess) (r : DdrRead) (s : State), s.hasHub h = true ∧
        ddrState s h c = 2 ∧ (s.ddrSt h c).draining = false ∧ nextRead s.time.frc (readsJoin s h c l) = some r ∧
        a.ca ≤ 1 ∧ (∀ w ∈ a.symbols.take 8, correctable s h c w = true)) ∧
    (∃ (h : Hub) (c : Fin 2) (l : List DdrReq) (s : State), s.hasHub h = true ∧ ((ddrState s h c ≠ 4 ∧
        (ddrState s h c ≠ 2 ∨ (s.ddrSt h c).draining = true)) ∨ readsJoin s h c l = [])) ∧
    (∃ (h : Hub) (c : Fin 2) (l : List DdrReq) (r : DdrRead) (s : State), s.hasHub h = true ∧ ddrState s h c = 4 ∧
        nextRead s.time.frc (readsJoin s h c l) = some r) ∧
    (∃ (h : Hub) (c : Fin 2) (l : List DdrReq) (a : DdrAccess) (r : DdrRead) (s : State), s.hasHub h = true ∧
        ddrState s h c = 2 ∧ (s.ddrSt h c).draining = false ∧ nextRead s.time.frc (readsJoin s h c l) = some r ∧
        a.ca ≤ 1 ∧ ((a.symbols.head?.any fun w => !correctable s h c w) = true ∨
        ((a.symbols.take 8).any fun w => decide (3 ≤ w.eraseDups.length)) = true)) ∧
    (∃ (h : Hub) (c : Fin 2) (l : List DdrReq) (a : DdrAccess) (r : DdrRead) (s : State), s.hasHub h = true ∧
        ddrState s h c = 2 ∧ (s.ddrSt h c).draining = false ∧ nextRead s.time.frc (readsJoin s h c l) = some r ∧
        2 ≤ a.ca) ∧
    (∃ (h : Hub) (s : State), s.hasHub h = false) ∧
    (∃ (h : Hub) (r : DdrReq) (s : State), s.hasHub h = true ∧ s.anyFrozen h = false ∧
        ddrState s h (s.chanOf h r.addr) = 2 ∧ (s.ddrSt h (s.chanOf h r.addr)).writes.length < 256 ∧
        r.addr + (r.data.take (128 - r.addr % 128)).length ≤ s.hubLimit h ∧ r.addr < 2 ^ 40) ∧
    (∃ (h : Hub) (a : DdrReq) (b : DdrReq) (s : State), s.hasHub h = true ∧ a.source.val < b.source.val ∧
        a.addr / 128 = b.addr / 128 ∧ a.addr % 128 + a.data.length ≤ 128 ∧ b.addr % 128 + b.data.length ≤ 128 ∧
        s.anyFrozen h = false ∧ ddrState s h (s.chanOf h a.addr) = 2 ∧
        (s.ddrSt h (s.chanOf h a.addr)).writes.length < 255 ∧ (a.addr / 128 + 1) * 128 ≤ s.hubLimit h ∧
        a.addr < 2 ^ 40) ∧
    (∃ (h : Hub) (a : DdrReq) (b : DdrReq) (s : State), s.hasHub h = true ∧ a.source.val < b.source.val ∧
        a.addr / 128 = b.addr / 128 ∧ a.addr % 128 + a.data.length ≤ 128 ∧ b.addr % 128 + b.data.length ≤ 128 ∧
        s.anyFrozen h = false ∧ ddrState s h (s.chanOf h a.addr) = 2 ∧
        (s.ddrSt h (s.chanOf h a.addr)).writes.length < 255 ∧ (a.addr / 128 + 1) * 128 ≤ s.hubLimit h ∧
        a.addr < 2 ^ 40) ∧
    (∃ (h : Hub) (r : DdrReq) (s : State), s.hasHub h = true ∧ ddrState s h (s.chanOf h r.addr) = 4) ∧
    (∃ (h : Hub) (r : DdrReq) (s : State), (s.hasHub h = false ∨
        s.hubLimit h < r.addr + (r.data.take (128 - r.addr % 128)).length ∨ (ddrState s h (s.chanOf h r.addr) ≠ 4 ∧
      (ddrState s h (s.chanOf h r.addr) ≠ 2 ∨ 256 ≤ (s.ddrSt h (s.chanOf h r.addr)).writes.length)))) ∧
    (∃ (h : Hub) (c : Fin 2) (a : DdrAccess) (x : Nat × Nat) (l : List (Nat × Nat)) (s : State), s.hasHub h = true ∧
        ddrState s h c = 2 ∧ (s.ddrSt h c).writes = x :: l ∧ a.ca ≤ 1 ∧ a.crc ≤ 3) ∧
    (∃ (h : Hub) (c : Fin 2) (a : DdrAccess) (x : Nat × Nat) (l : List (Nat × Nat)) (s : State), s.hasHub h = true ∧
        ddrState s h c = 2 ∧ (s.ddrSt h c).writes = x :: l ∧ (2 ≤ a.ca ∨ 4 ≤ a.crc)) ∧
    (∃ (h : Hub) (c : Fin 2) (s : State), (s.hasHub h = false ∨ (s.ddrSt h c).writes = [] ∨ ddrState s h c ≠ 2)) ∧
    (∃ (h : Hub) (c : Fin 2) (s : State), s.hasHub h = true ∧ ddrState s h c = 2 ∧
        (s.ddrSt h c).trained + max 1 (s.rd (ddrChB h c) R.DDR_c_TRAIN_PERIOD_MS) * 1000 * frcUs ≤ s.time.frc) ∧
    (∃ (h : Hub) (c : Fin 2) (s : State), (s.hasHub h = false ∨ ddrState s h c ≠ 2 ∨
        s.time.frc < (s.ddrSt h c).trained + max 1 (s.rd (ddrChB h c) R.DDR_c_TRAIN_PERIOD_MS) * 1000 * frcUs)) ∧
    (∃ (h : Hub) (c : Fin 2) (a : DdrAccess) (s : State), s.hasHub h = true ∧ ddrState s h c = 2 ∧
        s.on (ddrB h) R.DDR_CTRL_SCRUB_EN = true ∧ (∀ w ∈ a.symbols.take 8, correctable s h c w = true)) ∧
    (∃ (h : Hub) (c : Fin 2) (a : DdrAccess) (s : State), s.hasHub h = true ∧ ddrState s h c = 2 ∧
        s.on (ddrB h) R.DDR_CTRL_SCRUB_EN = true ∧ ((a.symbols.head?.any fun w => !correctable s h c w) = true ∨
        ((a.symbols.take 8).any fun w => decide (3 ≤ w.eraseDups.length)) = true)) ∧
    (∃ (h : Hub) (c : Fin 2) (s : State), (s.hasHub h = false ∨ ddrState s h c ≠ 2 ∨
        s.on (ddrB h) R.DDR_CTRL_SCRUB_EN = false)) ∧
    (∃ (h : Hub) (c : Fin 2) (s : State), s.hasHub h = true ∧ restDue s h c = true) ∧
    (∃ (h : Hub) (c : Fin 2) (s : State), s.hasHub h = true ∧ restDue s h c = true) ∧
    (∃ (h : Hub) (c : Fin 2) (s : State), (s.hasHub h = false ∨ restDue s h c = false)) ∧
    (∃ (h : Hub) (c : Fin 2) (s : State), s.hasHub h = true ∧ ddrState s h c = 3) ∧
    (∃ (h : Hub) (c : Fin 2) (s : State), (s.hasHub h = false ∨ ddrState s h c ≠ 3)) ∧
    (∃ (h : Hub) (c : Fin 2) (w : DdrTrain) (g : Nat) (m : Nat) (s : State), s.hasHub h = true ∧ (ddrState s h c = 4 ∨
        (s.ddrSt h c).releasing = true) ∧
        bestGrade w.margins (min 4 (s.rd (ddrChB h c) R.DDR_c_CFG_MAX_MTS)) = some (g, m)) ∧
    (∃ (h : Hub) (c : Fin 2) (w : DdrTrain) (s : State), s.hasHub h = true ∧ (ddrState s h c = 4 ∨
        (s.ddrSt h c).releasing = true) ∧
        bestGrade w.margins (min 4 (s.rd (ddrChB h c) R.DDR_c_CFG_MAX_MTS)) = none) ∧
    (∃ (h : Hub) (c : Fin 2) (s : State), s.hasHub h = true ∧ ddrState s h c ≠ 4 ∧ (s.ddrSt h c).releasing = false) ∧
    (∃ (h : Hub) (s : State), s.hasHub h = false) ∧
    (∃ (h : Hub) (c : Fin 2) (s : State), s.hasHub h = true ∧ (s.ddrSt h c).zeroing = true) ∧
    (∃ (h : Hub) (c : Fin 2) (s : State), (s.hasHub h = false ∨ (s.ddrSt h c).zeroing = false)) :=
  ⟨⟨(0 : Hub), (1 : Fin 2),
      [⟨2, 4352, []⟩], { symbols := [[]] }, ⟨2, 4352, 0⟩, ((State.reset.wr (ddrChB 0 1) R.DDR_c_STATUS_STATE 2).wr (ddrChB 0 1) R.DDR_c_SIZE_MIB 64), by decide +kernel, by decide +kernel, by decide +kernel, by decide +kernel, by decide +kernel, by decide +kernel⟩,
    ⟨(0 : Hub), (1 : Fin 2),
        [⟨2, 4352, []⟩], ((State.reset.wr (ddrChB 0 1) R.DDR_c_STATUS_STATE 2).wr (ddrChB 0 1) R.DDR_c_SIZE_MIB 64).wr (ddrChB 0 1) R.DDR_c_STATUS_STATE 3, by decide +kernel⟩,
    ⟨(0 : Hub), (1 : Fin 2),
        [⟨2, 4352, []⟩], ⟨2, 4352, 0⟩, ((State.reset.wr (ddrChB 0 1) R.DDR_c_STATUS_STATE 2).wr (ddrChB 0 1) R.DDR_c_SIZE_MIB 64).wr (ddrChB 0 1) R.DDR_c_STATUS_STATE 4, by decide +kernel⟩,
    ⟨(0 : Hub), (1 : Fin 2),
        [⟨2, 4352, []⟩], { symbols := [[1, 2]] }, ⟨2, 4352, 0⟩, ((State.reset.wr (ddrChB 0 1) R.DDR_c_STATUS_STATE 2).wr (ddrChB 0 1) R.DDR_c_SIZE_MIB 64), by decide +kernel, by decide +kernel, by decide +kernel, by decide +kernel, by decide +kernel, by decide +kernel⟩,
    ⟨(0 : Hub), (1 : Fin 2),
        [⟨2, 4352, []⟩], { ca := 2 }, ⟨2, 4352, 0⟩, ((State.reset.wr (ddrChB 0 1) R.DDR_c_STATUS_STATE 2).wr (ddrChB 0 1) R.DDR_c_SIZE_MIB 64), by decide +kernel⟩,
    ⟨(1 : Hub), { State.reset with part := .s4d }, by decide +kernel⟩,
    ⟨(0 : Hub), ⟨3, 4480, [1, 2, 3]⟩, ((State.reset.wr (ddrChB 0 1) R.DDR_c_STATUS_STATE 2).wr (ddrChB 0 1) R.DDR_c_SIZE_MIB 64), by decide +kernel, by decide +kernel, by decide +kernel, by decide +kernel, by decide +kernel, by decide +kernel⟩,
    ⟨(0 : Hub), ⟨3, 4480, [1, 2, 3]⟩, ⟨5, 4481, [7]⟩, ((State.reset.wr (ddrChB 0 1) R.DDR_c_STATUS_STATE 2).wr (ddrChB 0 1) R.DDR_c_SIZE_MIB 64), by decide +kernel, by decide +kernel, by decide +kernel, by decide +kernel, by decide +kernel, by decide +kernel, by decide +kernel, by decide +kernel, by decide +kernel, by decide +kernel⟩,
    ⟨(0 : Hub), ⟨3, 4480, [1, 2, 3]⟩, ⟨5, 4481, [7]⟩, ((State.reset.wr (ddrChB 0 1) R.DDR_c_STATUS_STATE 2).wr (ddrChB 0 1) R.DDR_c_SIZE_MIB 64), by decide +kernel, by decide +kernel, by decide +kernel, by decide +kernel, by decide +kernel, by decide +kernel, by decide +kernel, by decide +kernel, by decide +kernel, by decide +kernel⟩,
    ⟨(0 : Hub), ⟨3, 4480, [1, 2, 3]⟩, ((State.reset.wr (ddrChB 0 1) R.DDR_c_STATUS_STATE 2).wr (ddrChB 0 1) R.DDR_c_SIZE_MIB 64).wr (ddrChB 0 1) R.DDR_c_STATUS_STATE 4, by decide +kernel⟩,
    ⟨(0 : Hub), ⟨3, 4480, [1, 2, 3]⟩, State.reset, by decide +kernel⟩,
    ⟨(0 : Hub), (1 : Fin 2),
        { crc := 3 }, (3, 128),
        [(4, 256)], ((State.reset.wr (ddrChB 0 1) R.DDR_c_STATUS_STATE 2).wr (ddrChB 0 1) R.DDR_c_SIZE_MIB 64).modDdr 0 1 fun q => { q with writes := [(3, 128), (4, 256)] }, by decide +kernel⟩,
    ⟨(0 : Hub), (1 : Fin 2),
        { crc := 4 }, (3, 128),
        [(4, 256)], ((State.reset.wr (ddrChB 0 1) R.DDR_c_STATUS_STATE 2).wr (ddrChB 0 1) R.DDR_c_SIZE_MIB 64).modDdr 0 1 fun q => { q with writes := [(3, 128), (4, 256)] }, by decide +kernel⟩,
    ⟨(0 : Hub), (1 : Fin 2), State.reset, by decide +kernel⟩,
    ⟨(0 : Hub), (1 : Fin 2),
        { ((State.reset.wr (ddrChB 0 1) R.DDR_c_STATUS_STATE 2).wr (ddrChB 0 1) R.DDR_c_SIZE_MIB 64) with time := { frc := 2 ^ 60 } }, by decide +kernel⟩,
    ⟨(0 : Hub), (1 : Fin 2),
        ((State.reset.wr (ddrChB 0 1) R.DDR_c_STATUS_STATE 2).wr (ddrChB 0 1) R.DDR_c_SIZE_MIB 64),
        by decide +kernel⟩,
    ⟨(0 : Hub), (1 : Fin 2),
        { symbols := [[]] }, ((State.reset.wr (ddrChB 0 1) R.DDR_c_STATUS_STATE 2).wr (ddrChB 0 1) R.DDR_c_SIZE_MIB 64).wr (ddrB 0) R.DDR_CTRL_SCRUB_EN 1, by decide +kernel⟩,
    ⟨(0 : Hub), (1 : Fin 2),
        { symbols := [[1, 2]] }, ((State.reset.wr (ddrChB 0 1) R.DDR_c_STATUS_STATE 2).wr (ddrChB 0 1) R.DDR_c_SIZE_MIB 64).wr (ddrB 0) R.DDR_CTRL_SCRUB_EN 1, by decide +kernel⟩,
    ⟨(0 : Hub), (1 : Fin 2), State.reset, by decide +kernel⟩,
    ⟨(0 : Hub), (1 : Fin 2),
        ((State.reset.wr (ddrChB 0 1) R.DDR_c_STATUS_STATE 2).wr (ddrChB 0 1) R.DDR_c_SIZE_MIB 64).wr (pwrB 0) R.PWR_STATE_STATE 1, by decide +kernel⟩,
    ⟨(0 : Hub), (1 : Fin 2),
        ((State.reset.wr (ddrChB 0 1) R.DDR_c_STATUS_STATE 2).wr (ddrChB 0 1) R.DDR_c_SIZE_MIB 64).wr (pwrB 0) R.PWR_STATE_STATE 1, by decide +kernel⟩,
    ⟨(0 : Hub), (1 : Fin 2), State.reset, by decide +kernel⟩,
    ⟨(0 : Hub), (1 : Fin 2),
        ((State.reset.wr (ddrChB 0 1) R.DDR_c_STATUS_STATE 2).wr (ddrChB 0 1) R.DDR_c_SIZE_MIB 64).wr (ddrChB 0 1) R.DDR_c_STATUS_STATE 3, by decide +kernel⟩,
    ⟨(0 : Hub), (1 : Fin 2), State.reset, by decide +kernel⟩,
    ⟨(0 : Hub), (1 : Fin 2), { population := 0, margins := List.replicate 5 (some 127) }, (4 : Nat),
        (127 : Nat), (((State.reset.wr (ddrChB 0 1) R.DDR_c_STATUS_STATE 2).wr (ddrChB 0 1) R.DDR_c_SIZE_MIB 64).wr (ddrChB 0 1) R.DDR_c_CFG_MAX_MTS 4).wr (ddrChB 0 1) R.DDR_c_STATUS_STATE 4, by decide +kernel⟩,
    ⟨(0 : Hub), (1 : Fin 2),
        { population := 0, margins := List.replicate 5 none }, ((State.reset.wr (ddrChB 0 1) R.DDR_c_STATUS_STATE 2).wr (ddrChB 0 1) R.DDR_c_SIZE_MIB 64).wr (ddrChB 0 1) R.DDR_c_STATUS_STATE 4, by decide +kernel⟩,
    ⟨(0 : Hub), (1 : Fin 2),
        ((State.reset.wr (ddrChB 0 1) R.DDR_c_STATUS_STATE 2).wr (ddrChB 0 1) R.DDR_c_SIZE_MIB 64),
        by decide +kernel⟩,
    ⟨(1 : Hub), { State.reset with part := .s4d }, by decide +kernel⟩,
    ⟨(0 : Hub), (1 : Fin 2),
        ((State.reset.wr (ddrChB 0 1) R.DDR_c_STATUS_STATE 2).wr (ddrChB 0 1) R.DDR_c_SIZE_MIB 64).modDdr 0 1 fun q => { q with zeroing := true }, by decide +kernel⟩,
    ⟨(0 : Hub), (1 : Fin 2),
        ((State.reset.wr (ddrChB 0 1) R.DDR_c_STATUS_STATE 2).wr (ddrChB 0 1) R.DDR_c_SIZE_MIB 64),
        by decide +kernel⟩⟩

theorem wit_DmaRowsComplete :
    (∃ (f : DmaFn) (h : Hub) (k : Fin 16) (i : Instr) (u : State) (s : State), dmaRow i = some (f, h, k, true) ∧
        u = dmaTurn f h s ∧ u.hasHub h = true ∧ dmaState u h k = 1 ∧ (u.dmaSt h k).insn = none) ∧
    (∃ (f : DmaFn) (h : Hub) (k : Fin 16) (i : Instr) (u : State) (s : State), dmaRow i = some (f, h, k, false) ∧
        u = dmaTurn f h s ∧ dmaIssues u h k .illegal) ∧
    (∃ (f : DmaFn) (h : Hub) (k : Fin 16) (i : Instr) (u : State) (s : State), dmaRow i = some (f, h, k, false) ∧
        u = dmaTurn f h s ∧ dmaOther u h k (dmaIs f) ∧ ((u.dmaSt h k).insn = none ∨ dmaMoves f = false)) ∧
    (∃ (h : Hub) (k : Fin 16) (u : State) (s : State), u = dmaTurn .halt h s ∧ dmaAtPc u h k [0, 0, 0, 0]) ∧
    (∃ (h : Hub) (k : Fin 16) (u : State) (s : State), u = dmaTurn .nop h s ∧ dmaAtPc u h k [0x70000000, 0, 0, 0]) ∧
    (∃ (h : Hub) (k : Fin 16) (a : Nat) (c : Nat) (l : List (Nat × Nat × Nat)) (u : State) (s : State),
        u = dmaTurn .nop h s ∧ dmaAtPc u h k [0x70000000, 0, 0, 0] ∧
        (u.dmaSt h k).loops = (a, u.rd (dmaChB h k) R.DMA_k_PC_PC, c) :: l) ∧
    (∃ (h : Hub) (k : Fin 16) (a : Fin 4) (lo : BitVec 32) (z : BitVec 32) (hi : BitVec 8) (u : State) (s : State),
        u = dmaTurn .seta h s ∧ dmaAtPc u h k [0x60000000 + a.val * 2 ^ 20, lo.toNat, hi.toNat, z.toNat]) ∧
    (∃ (h : Hub) (k : Fin 16) (e : Fin 2048) (c : BitVec 32) (u : State) (s : State), u = dmaTurn .loop h s ∧
        dmaAtPc u h k [0x30000000 + e.val, c.toNat, 0, 0] ∧ (u.dmaSt h k).loops.length < 2 ∧
        u.rd (dmaChB h k) R.DMA_k_PC_PC ≤ e.val) ∧
    (∃ (h : Hub) (k : Fin 16) (e : Fin 2048) (c : BitVec 32) (u : State) (s : State), u = dmaTurn .loop h s ∧
        dmaAtPc u h k [0x30000000 + e.val, c.toNat, 0, 0] ∧ (2 ≤ (u.dmaSt h k).loops.length ∨
        e.val < u.rd (dmaChB h k) R.DMA_k_PC_PC)) ∧
    (∃ (h : Hub) (k : Fin 16) (g : Fin 2048) (v : BitVec 32) (l : BitVec 16) (u : State) (s : State),
        u = dmaTurn .wait h s ∧ dmaAtPc u h k [0x40000000 + g.val, v.toNat, l.toNat, 0] ∧ lineOk u l.toNat = true) ∧
    (∃ (h : Hub) (k : Fin 16) (g : Fin 2048) (v : BitVec 32) (l : BitVec 16) (u : State) (s : State), u = dmaWake s ∧
        dmaState u h k = 2 ∧ (u.dmaSt h k).insn = some [0x40000000 + g.val, v.toNat, l.toNat, 0] ∧
        lineOk u l.toNat = true ∧ v ≠ 0) ∧
    (∃ (h : Hub) (k : Fin 16) (u : State) (s : State), u = dmaWake s ∧ (dmaState u h k ≠ 2 ∨
        dmaHasTimeout u h k = false)) ∧
    (∃ (h : Hub) (k : Fin 16) (u : State) (s : State), u = dmaTurn .irq h s ∧ dmaAtPc u h k [0x50000000, 0, 0, 0]) ∧
    (∃ (h : Hub) (k : Fin 16) (f : Fin 16) (u : State) (s : State), u = dmaTurn .event h s ∧
        dmaAtPc u h k [0x51000000, 0, f.val, 0] ∧ (∀ i : Fin 32, dmaState u (i / 16) (i % 16) ≠ 2)) ∧
    (∃ (h : Hub) (k : Fin 16) (f : Fin 16) (i : Fin 32) (g : Nat) (v : Nat) (u : State) (s : State),
        u = dmaTurn .event h s ∧ dmaAtPc u h k [0x51000000, 0, f.val, 0] ∧ dmaState u (i / 16) (i % 16) = 2 ∧
        (u.dmaSt (i / 16) (i % 16)).waiting = true ∧
        lineHub (i / 16) (u.rd (dmaChB (i / 16) (i % 16)) R.DMA_k_WAITLINE_LINE) = h.val ∧
        bitsPut (u.rd (dmaChB (i / 16) (i % 16)) R.DMA_k_WAITLINE_LINE) 11 1 0 = 0x9000 + f.val ∧
        (u.dmaSt (i / 16) (i % 16)).insn = some [0x40000000 + g, v, u.rd (dmaChB (i / 16) (i % 16)) R.DMA_k_WAITLINE_LINE, 0] ∧ g < 2048 ∧ v < 2 ^ 32 ∧ lineOk u (u.rd (dmaChB (i / 16) (i % 16)) R.DMA_k_WAITLINE_LINE) = true ∧ (∀ j : Fin 32, j < i → dmaState u (j / 16) (j % 16) ≠ 2) ∧ tget noNat u.credits (h * 65536 + (0x9000 + f.val)) = 0) ∧
    (∃ (h : Hub) (k : Fin 16) (o : Nat) (v : BitVec 32) (u : State) (s : State), u = dmaTurn .regwrite h s ∧
        dmaAtPc u h k [0x52000000, o, v.toNat, 0] ∧ o < 0x800000 ∧ o % 4 = 0) ∧
    (∃ (h : Hub) (k : Fin 16) (o : Nat) (v : BitVec 32) (u : State) (s : State), u = dmaTurn .regwrite h s ∧
        dmaAtPc u h k [0x52000000, o, v.toNat, 0] ∧ (0x800000 ≤ o ∨ o % 4 ≠ 0)) ∧
    (∃ (h : Hub) (k : Fin 16) (w : BitVec 32) (z : BitVec 32) (a : Fin 4) (d : Fin 4) (n : BitVec 32) (x : DmaXfer) (u : State) (s : State), u = dmaTurn (.move w z) h s ∧ dmaAtPc u h k [0x10000000 + a.val * 2 ^ 20 + d.val * 2 ^ 18, n.toNat, 0, 0] ∧ x = ⟨0, 0, false, false, a, d, 0, 0, n.toNat, 0, false, 0, 4, 0, 0⟩ ∧ n ≠ 0 ∧ mayCopy u h k x n.toNat) ∧
    (∃ (h : Hub) (k : Fin 16) (w : BitVec 32) (z : BitVec 32) (x : DmaXfer) (u : State) (s : State),
        u = dmaTurn (.move w z) h s ∧ dmaIssues u h k (.move x) ∧ x.line / 4096 = 0 ∧ x.len ≠ 0 ∧
        mayCopy u h k x x.len) ∧
    (∃ (h : Hub) (k : Fin 16) (w : BitVec 32) (z : BitVec 32) (x : DmaXfer) (u : State) (s : State),
        u = dmaTurn (.move w z) h s ∧ dmaIssues u h k (.move x) ∧ x.len = 0 ∧ pauseAsked u h k = false ∧
        (u.dmaSt h k).stopping = false) ∧
    (∃ (h : Hub) (k : Fin 16) (w : BitVec 32) (z : BitVec 32) (x : DmaXfer) (u : State) (s : State),
        u = dmaTurn (.gather w z) h s ∧ dmaIssues u h k (.gather x) ∧ x.len = 0 ∧ pauseAsked u h k = false ∧
        (u.dmaSt h k).stopping = false) ∧
    (∃ (h : Hub) (k : Fin 16) (w : BitVec 32) (z : BitVec 32) (x : DmaXfer) (u : State) (s : State),
        u = dmaTurn (.move w z) h s ∧ dmaIssues u h k (.move x) ∧ x.line / 4096 = 0 ∧ x.dfix = true ∧ 4 ≤ x.len ∧
        x.len % 4 = 0 ∧ x.len ≤ 4096 ∧ memSpace u x.ssp ∧ memSpace u x.dsp ∧ dmaFreely u h k ∧
        (∀ i < x.len, moveSrc1 u h k x i < u.hubLimit (spaceHub h x.ssp)) ∧
        (∀ j : Fin 4, moveDst1 u h k x j < u.hubLimit (spaceHub h x.dsp)) ∧ ((dmaAr u h k x.dar).size = 0 ∨
        4 ≤ (dmaAr u h k x.dar).size)) ∧
    (∃ (h : Hub) (k : Fin 16) (w : BitVec 32) (z : BitVec 32) (x : DmaXfer) (v : State) (u : State) (s : State),
        u = dmaTurn (.move w z) h s ∧ dmaIssues u h k (.move x) ∧
        v = hostRead (.dma h) (hubB h + (dmaAr u h k x.sar).at_ 0) u ∧ x.line / 4096 = 0 ∧ x.ssp = 2 ∧ x.len = 4 ∧
        memSpace u x.dsp ∧ x.dfix = false ∧ dmaFreely u h k ∧ (dmaAr u h k x.sar).at_ 0 < 0x800000 ∧
        (dmaAr u h k x.sar).at_ 0 % 4 = 0 ∧ ((dmaAr u h k x.sar).size = 0 ∨ (4 ≤ (dmaAr u h k x.sar).size ∧
        (dmaAr u h k x.sar).off % (dmaAr u h k x.sar).size + 4 ≤ (dmaAr u h k x.sar).size)) ∧
        (∀ j : Fin 4, moveDst1 u h k x j < u.hubLimit (spaceHub h x.dsp)) ∧ ((dmaAr u h k x.dar).size = 0 ∨
        4 ≤ (dmaAr u h k x.dar).size)) ∧
    (∃ (h : Hub) (k : Fin 16) (w : BitVec 32) (z : BitVec 32) (x : DmaXfer) (v : State) (u : State) (s : State),
        u = dmaTurn (.move w z) h s ∧ dmaIssues u h k (.move x) ∧
        v = hostWrite (.dma h) (hubB h + (dmaAr u h k x.dar).at_ 0) (ofLe ((List.range 4).map fun i => u.rawByte (spaceHub h x.ssp) (moveSrc1 u h k x i))) u ∧ x.line / 4096 = 0 ∧ x.dsp = 2 ∧ x.len = 4 ∧ memSpace u x.ssp ∧ x.dfix = false ∧ dmaFreely u h k ∧ (dmaAr u h k x.dar).at_ 0 < 0x800000 ∧ (dmaAr u h k x.dar).at_ 0 % 4 = 0 ∧ ((dmaAr u h k x.dar).size = 0 ∨ (4 ≤ (dmaAr u h k x.dar).size ∧ (dmaAr u h k x.dar).off % (dmaAr u h k x.dar).size + 4 ≤ (dmaAr u h k x.dar).size)) ∧ (∀ j : Fin 4, moveSrc1 u h k x j < u.hubLimit (spaceHub h x.ssp))) ∧
    (∃ (h : Hub) (k : Fin 16) (w : BitVec 32) (z : BitVec 32) (x : DmaXfer) (u : State) (s : State),
        u = dmaTurn (.move w z) h s ∧ dmaIssues u h k (.move x) ∧ x.line / 4096 = 0 ∧ x.len ≠ 0 ∧ x.dsp = 3 ∧
        portOpen u h x.port = false) ∧
    (∃ (h : Hub) (k : Fin 16) (w : BitVec 32) (z : BitVec 32) (x : DmaXfer) (u : State) (s : State),
        u = dmaTurn (.move w z) h s ∧ dmaIssues u h k (.move x) ∧ x.line / 4096 = 0 ∧ x.len ≠ 0 ∧ x.dsp = 3 ∧
        portOpen u h x.port = true ∧ portWaits u h x.port 0 (min x.len 4096) = true ∧
        addrsOk u (dmaSpace u h x.ssp) (moveSrc x (dmaAr u h k x.sar) 0 (min x.len 4096)) = true) ∧
    (∃ (h : Hub) (k : Fin 16) (w : BitVec 32) (z : BitVec 32) (x : DmaXfer) (u : State) (s : State),
        u = dmaTurn (.move w z) h s ∧ dmaIssues u h k (.move x) ∧ x.line / 4096 = 0 ∧ x.len ≠ 0 ∧
        addrsOk u (dmaSpace u h x.ssp) (moveSrc x (dmaAr u h k x.sar) 0 (min x.len 4096)) = false) ∧
    (∃ (h : Hub) (k : Fin 16) (w : BitVec 32) (z : BitVec 32) (x : DmaXfer) (u : State) (s : State),
        u = dmaTurn (.move w z) h s ∧ dmaIssues u h k (.move x) ∧ x.line / 4096 ≠ 0 ∧ x.len ≠ 0) ∧
    (∃ (h : Hub) (k : Fin 16) (w : BitVec 32) (z : BitVec 32) (x : DmaXfer) (u : State) (s : State),
        u = dmaTurn (.gather w z) h s ∧ dmaIssues u h k (.gather x) ∧ x.line / 4096 = 0 ∧ x.len ≠ 0 ∧ x.dsp = 3 ∧
        portOpen u h x.port = false) ∧
    (∃ (h : Hub) (k : Fin 16) (w : BitVec 32) (z : BitVec 32) (x : DmaXfer) (u : State) (s : State),
        u = dmaTurn (.gather w z) h s ∧ dmaIssues u h k (.gather x) ∧ x.line / 4096 = 0 ∧ x.len ≠ 0 ∧ x.dsp = 3 ∧
        portOpen u h x.port = true ∧ portWaits u h x.port 0 x.esize = true ∧
        addrsOk u (dmaSpace u h x.ssp) (if (gatherIndex u h k x 0).2 then [] else (List.range x.esize).map fun i => (dmaAr u h k x.sar).at_ ((gatherIndex u h k x 0).1 * x.esize + i)) = true ∧ addrsOk u (.mem h) ((List.range (if x.wide then 4 else 2)).map fun i => gatherTab u h k x i) = true) ∧
    (∃ (h : Hub) (k : Fin 16) (w : BitVec 32) (z : BitVec 32) (x : DmaXfer) (u : State) (s : State),
        u = dmaTurn (.gather w z) h s ∧ dmaIssues u h k (.gather x) ∧ x.line / 4096 = 0 ∧ x.len ≠ 0 ∧
        addrsOk u (dmaSpace u h x.ssp) ((List.range x.esize).map fun i => (dmaAr u h k x.sar).at_ ((gatherIndex u h k x 0).1 * x.esize + i)) = false ∧ (gatherIndex u h k x 0).2 = false) ∧
    (∃ (h : Hub) (k : Fin 16) (w : BitVec 32) (z : BitVec 32) (x : DmaXfer) (u : State) (s : State),
        u = dmaTurn (.gather w z) h s ∧ dmaIssues u h k (.gather x) ∧ x.line / 4096 ≠ 0 ∧ x.len ≠ 0) ∧
    (∃ (h : Hub) (k : Fin 16) (w : BitVec 32) (z : BitVec 32) (x : DmaXfer) (u : State) (s : State),
        u = dmaTurn (.move w z) h s ∧ dmaIssues u h k (.move x) ∧ x.line / 4096 = 0 ∧ x.len ≠ 0 ∧ memSpace u x.ssp ∧
        memSpace u x.dsp ∧ x.dfix = false ∧
        (∀ i < min x.len 4096, moveSrc1 u h k x i < u.hubLimit (spaceHub h x.ssp) ∧
        moveDst1 u h k x i < u.hubLimit (spaceHub h x.dsp)) ∧ bootSealed u = true ∧
        (∃ i < min x.len 4096, u.inBoot (spaceHub h x.dsp) (moveDst1 u h k x i) = true)) ∧
    (∃ (h : Hub) (k : Fin 16) (w : BitVec 32) (z : BitVec 32) (x : DmaXfer) (u : State) (s : State),
        u = dmaTurn (.move w z) h s ∧ dmaIssues u h k (.move x) ∧ x.line / 4096 = 0 ∧ x.len ≠ 0 ∧ x.len ≤ 4096 ∧
        memSpace u x.ssp ∧ memSpace u x.dsp ∧ x.dfix = false ∧
        (∀ i < x.len, moveSrc1 u h k x i < u.hubLimit (spaceHub h x.ssp) ∧
        moveDst1 u h k x i < u.hubLimit (spaceHub h x.dsp)) ∧ ((dmaAr u h k x.dar).size = 0 ∨
        x.len ≤ (dmaAr u h k x.dar).size) ∧ bootSealed u = false ∧ pauseAsked u h k = false ∧
        (u.dmaSt h k).stopping = false) ∧
    (∃ (h : Hub) (k : Fin 16) (w : BitVec 32) (z : BitVec 32) (x : DmaXfer) (u : State) (s : State),
        u = dmaTurn (.move w z) h s ∧ dmaIssues u h k (.move x) ∧ x.line / 4096 = 0 ∧ x.dsp = 3 ∧ x.port < 64 ∧
        x.len ≠ 0 ∧ x.len ≤ 4096 ∧ portOpen u h x.port = true ∧ portWaits u h x.port 0 x.len = false ∧
        memSpace u x.ssp ∧ (∀ i < x.len, moveSrc1 u h k x i < u.hubLimit (spaceHub h x.ssp)) ∧ dmaFreely u h k ∧
        (u.rd (nfsSrcB h x.port) R.NFS_SRC_s_BASE_BASE + u.rd (nfsSrcB h x.port) R.NFS_SRC_s_SIZE_SIZE) * 2 ^ 20 ≤ 2 ^ 40) ∧
    (∃ (h : Hub) (k : Fin 16) (w : BitVec 32) (z : BitVec 32) (x : DmaXfer) (v : State) (u : State) (s : State),
        u = dmaTurn (.move w z) h s ∧ dmaIssues u h k (.move x) ∧ x.line / 4096 = 0 ∧ x.dsp = 3 ∧ 64 ≤ x.port ∧
        x.len ≠ 0 ∧ x.len ≤ 4096 ∧ portOpen u h x.port = true ∧ memSpace u x.ssp ∧
        (∀ i < x.len, moveSrc1 u h k x i < u.hubLimit (spaceHub h x.ssp)) ∧ dmaFreely u h k ∧
        strPush h (x.port - 64) true ((List.range x.len).map fun i => u.rawByte (spaceHub h x.ssp) (moveSrc1 u h k x i)) u = some v) ∧
    (∃ (h : Hub) (k : Fin 16) (w : BitVec 32) (z : BitVec 32) (x : DmaXfer) (l : List Nat) (u : State) (s : State),
        u = dmaTurn (.move w z) h s ∧ s.hasHub h = true ∧ dmaState u h k = 3 ∧ (u.dmaSt h k).insn = some l ∧
        dmaDecode u l = .move x ∧ x.dsp = 3 ∧ portOpen u h x.port = true ∧ x.line / 4096 = 0 ∧
        (u.dmaSt h k).done < x.len ∧
        portWaits u h x.port ((u.dmaSt h k).done) (min (x.len - (u.dmaSt h k).done) (4096 - (u.dmaSt h k).done % 4096)) = true ∧ addrsOk u (dmaSpace u h x.ssp) (moveSrc x (dmaAr u h k x.sar) ((u.dmaSt h k).done) (min (x.len - (u.dmaSt h k).done) (4096 - (u.dmaSt h k).done % 4096))) = true) ∧
    (∃ (h : Hub) (k : Fin 16) (w : BitVec 32) (z : BitVec 32) (x : DmaXfer) (l : List Nat) (v : State) (u : State) (s : State), u = dmaTurn (.move w z) h s ∧ s.hasHub h = true ∧ dmaState u h k = 3 ∧ (u.dmaSt h k).insn = some l ∧ dmaDecode u l = .move x ∧ x.dsp = 3 ∧ 64 ≤ x.port ∧ portOpen u h x.port = true ∧ x.line / 4096 = 0 ∧ (u.dmaSt h k).done < x.len ∧ x.len ≤ 4096 ∧ memSpace u x.ssp ∧ (∀ i < x.len, moveSrc1 u h k x i < u.hubLimit (spaceHub h x.ssp)) ∧ dmaFreely u h k ∧ strPush h (x.port - 64) ((u.dmaSt h k).done == 0) ((List.range (x.len - (u.dmaSt h k).done)).map fun i => u.rawByte (spaceHub h x.ssp) (moveSrc1 u h k x ((u.dmaSt h k).done + i))) u = some v) ∧
    (∃ (h : Hub) (k : Fin 16) (w : BitVec 32) (z : BitVec 32) (x : DmaXfer) (u : State) (s : State),
        u = dmaTurn (.gather w z) h s ∧ dmaIssues u h k (.gather x) ∧ x.line / 4096 = 0 ∧ x.len ≠ 0 ∧
        mayGather u h k x) ∧
    (∃ (h : Hub) (k : Fin 16) (w : BitVec 32) (z : BitVec 32) (a : Fin 4) (d : Fin 4) (i : Fin 4) (c : BitVec 16) (e : Fin 64) (y : Bool) (x : DmaXfer) (u : State) (s : State), u = dmaTurn (.gather w z) h s ∧ dmaAtPc u h k [0x20000000 + a.val * 2 ^ 20 + d.val * 2 ^ 18 + i.val * 2 ^ 16, c.toNat + e.val * 2 ^ 16 + b2n y * 2 ^ 24, 0, 0] ∧ x = ⟨0, 0, false, false, a, d, i, 0, c.toNat, e, y, 0, 4, 0, 0⟩ ∧ c ≠ 0 ∧ e ≠ 0 ∧ mayGather u h k x) ∧
    (∃ (h : Hub) (k : Fin 16) (w : BitVec 32) (z : BitVec 32) (x : DmaXfer) (l : List Nat) (m : Nat) (u : State) (s : State), u = dmaTurn (.move w z) h s ∧ s.hasHub h = true ∧ (dmaState u h k = 1 ∨ dmaState u h k = 3) ∧ (u.dmaSt h k).insn = some l ∧ dmaDecode u l = .move x ∧ x.line / 4096 ≠ 0 ∧ (u.dmaSt h k).burst = some m ∧ (u.dmaSt h k).done = 0 ∧ 0 < m ∧ x.len ≠ 0 ∧ x.len ≤ m ∧ mayCopy u h k x x.len) ∧
    (∃ (h : Hub) (k : Fin 16) (w : BitVec 32) (z : BitVec 32) (x : DmaXfer) (l : List Nat) (m : Nat) (u : State) (s : State), u = dmaTurn (.move w z) h s ∧ s.hasHub h = true ∧ (dmaState u h k = 1 ∨ dmaState u h k = 3) ∧ (u.dmaSt h k).insn = some l ∧ dmaDecode u l = .move x ∧ x.line / 4096 ≠ 0 ∧ (u.dmaSt h k).burst = some m ∧ (u.dmaSt h k).done = 0 ∧ 0 < m ∧ m < x.len ∧ mayCopy u h k x m) ∧
    (∃ (h : Hub) (k : Fin 16) (w : BitVec 32) (z : BitVec 32) (x : DmaXfer) (l : List Nat) (m : Nat) (u : State) (s : State), u = dmaTurn (.move w z) h s ∧ s.hasHub h = true ∧ (dmaState u h k = 1 ∨ dmaState u h k = 3) ∧ (u.dmaSt h k).insn = some l ∧ dmaDecode u l = .gather x ∧ x.line / 4096 ≠ 0 ∧ (u.dmaSt h k).burst = some m ∧ (u.dmaSt h k).done = 0 ∧ x.len ≠ 0 ∧ mayGather u h k x) ∧
    (∃ (h : Hub) (k : Fin 16) (w : BitVec 32) (z : BitVec 32) (u : State) (s : State), u = dmaTurn (.move w z) h s ∧
        s.hasHub h = true ∧ ((u.dmaSt h k).burst = none ∨ (dmaState u h k ≠ 1 ∧ dmaState u h k ≠ 3) ∨
        dmaXferOf u h k = none)) ∧
    (∃ (h : Hub) (w : BitVec 32) (z : BitVec 32) (u : State) (s : State), u = dmaTurn (.move w z) h s ∧
        s.hasHub h = false) ∧
    (∃ (h : Hub) (s : State), s.hasHub h = false) ∧
    (∃ (h : Hub) (s : State), s.hasHub h = false) ∧
    (∃ (h : Hub) (s : State), s.hasHub h = false) ∧
    (∃ (h : Hub) (s : State), s.hasHub h = false) ∧
    (∃ (h : Hub) (k : Fin 16) (s : State), s.hasHub h = true ∧ dmaState s h k = 5) ∧
    (∃ (h : Hub) (k : Fin 16) (s : State), s.hasHub h = true ∧ dmaState s h k ≠ 5) ∧
    (∃ (h : Hub) (k : Fin 16) (s : State), s.hasHub h = true ∧ dmaState s h k ≠ 5 ∧ midBurst s h k = false) ∧
    (∃ (h : Hub) (k : Fin 16) (s : State), s.hasHub h = true ∧ dmaState s h k ≠ 5 ∧ midBurst s h k = true) ∧
    (∃ (h : Hub) (k : Fin 16) (s : State), s.hasHub h = true ∧ dmaState s h k = 5) ∧
    (∃ (h : Hub) (s : State), s.hasHub h = true) ∧
    (∃ (h : Hub) (s : State), s.hasHub h = true) :=
  ⟨⟨.halt, (0 : Hub), (2 : Fin 16), .dmaHalt 0 2 true, dmaTurn .halt 0 (dmaUp [0, 0, 0, 0]),
      dmaUp [0, 0, 0, 0], by decide +kernel⟩,
    ⟨.nop, (0 : Hub), (2 : Fin 16), .dmaNop 0 2 false, dmaTurn .nop 0 (dmaUp [0x70000001, 0, 0, 0]),
        dmaUp [0x70000001, 0, 0, 0], by decide +kernel⟩,
    ⟨.nop, (0 : Hub), (2 : Fin 16), .dmaNop 0 2 false, dmaTurn .nop 0 (dmaUp [0, 0, 0, 0]),
        dmaUp [0, 0, 0, 0], by decide +kernel⟩,
    ⟨(0 : Hub), (2 : Fin 16), dmaTurn .halt 0 (dmaUp [0, 0, 0, 0]), dmaUp [0, 0, 0, 0], by decide +kernel⟩,
    ⟨(0 : Hub), (2 : Fin 16), dmaTurn .nop 0 (dmaUp [0x70000000, 0, 0, 0]),
        dmaUp [0x70000000, 0, 0, 0], by decide +kernel⟩,
    ⟨(0 : Hub), (2 : Fin 16),
        (7 : Nat), (1 : Nat), [], dmaTurn .nop 0 ((dmaUp [0x70000000, 0, 0, 0]).modDma 0 2 fun q => { q with loops := [(7, 7, 1)] }), (dmaUp [0x70000000, 0, 0, 0]).modDma 0 2 fun q => { q with loops := [(7, 7, 1)] }, by decide +kernel⟩,
    ⟨(0 : Hub), (2 : Fin 16), (3 : Fin 4), (0xFFFFFFFF : BitVec 32), (5 : BitVec 32),
        (0xFF : BitVec 8), dmaTurn .seta 0 (dmaUp [0x60300000, 0xFFFFFFFF, 0xFF, 5]),
        dmaUp [0x60300000, 0xFFFFFFFF, 0xFF, 5], by decide +kernel⟩,
    ⟨(0 : Hub), (2 : Fin 16), (2047 : Fin 2048), (0 : BitVec 32), dmaTurn .loop 0 (dmaUp [0x300007FF, 0, 0, 0]),
        dmaUp [0x300007FF, 0, 0, 0], by decide +kernel⟩,
    ⟨(0 : Hub), (2 : Fin 16), (5 : Fin 2048), (0 : BitVec 32), dmaTurn .loop 0 (dmaUp [0x30000005, 0, 0, 0]),
        dmaUp [0x30000005, 0, 0, 0], by decide +kernel⟩,
    ⟨(0 : Hub), (2 : Fin 16), (2047 : Fin 2048), (9 : BitVec 32), (0x9003 : BitVec 16),
        dmaTurn .wait 0 (dmaUp [0x400007FF, 9, 0x9003, 0]), dmaUp [0x400007FF, 9, 0x9003, 0], by decide +kernel⟩,
    ⟨(0 : Hub), (2 : Fin 16), (2047 : Fin 2048), (9 : BitVec 32), (0x9003 : BitVec 16),
        dmaWake (((dmaUp []).wrs (dmaChB 0 2) [(R.DMA_k_STATUS_STATE, 2),
        (R.DMA_k_WAITLINE_LINE, 0x9003)]).modDma 0 2 fun q => { q with insn := some [0x400007FF, 9, 0x9003, 0], waiting := true }), ((dmaUp []).wrs (dmaChB 0 2) [(R.DMA_k_STATUS_STATE, 2), (R.DMA_k_WAITLINE_LINE, 0x9003)]).modDma 0 2 fun q => { q with insn := some [0x400007FF, 9, 0x9003, 0], waiting := true }, by decide +kernel⟩,
    ⟨(0 : Hub), (2 : Fin 16), dmaTurn .halt 0 (dmaUp []), dmaUp [], by decide +kernel⟩,
    ⟨(0 : Hub), (2 : Fin 16), dmaTurn .irq 0 (dmaUp [0x50000000, 0, 0, 0]),
        dmaUp [0x50000000, 0, 0, 0], by decide +kernel⟩,
    ⟨(0 : Hub), (2 : Fin 16), (15 : Fin 16), dmaTurn .event 0 (dmaUp [0x51000000, 0, 15, 0]),
        dmaUp [0x51000000, 0, 15, 0], by decide +kernel⟩,
    ⟨(0 : Hub), (2 : Fin 16), (3 : Fin 16), (5 : Fin 32), (7 : Nat), (8 : Nat),
        dmaTurn .event 0 ((((dmaUp [0x51000000, 0, 3, 0]).wrs (dmaChB 0 5) [(R.DMA_k_STATUS_STATE, 2),
        (R.DMA_k_WAITLINE_LINE, 0x9003)]).modDma 0 5 fun q => { q with insn := some [0x40000007, 8, 0x9003, 0], waiting := true })), (((dmaUp [0x51000000, 0, 3, 0]).wrs (dmaChB 0 5) [(R.DMA_k_STATUS_STATE, 2), (R.DMA_k_WAITLINE_LINE, 0x9003)]).modDma 0 5 fun q => { q with insn := some [0x40000007, 8, 0x9003, 0], waiting := true }), by decide +kernel, by decide +kernel, by decide +kernel, by decide +kernel, by decide +kernel, by decide +kernel, by decide +kernel, by decide +kernel, by decide +kernel, by decide +kernel, by decide +kernel, by decide +kernel⟩,
    ⟨(0 : Hub), (2 : Fin 16), (0x8 : Nat), (77 : BitVec 32), dmaTurn .regwrite 0 (dmaUp [0x52000000, 8, 77, 0]),
        dmaUp [0x52000000, 8, 77, 0], by decide +kernel⟩,
    ⟨(0 : Hub), (2 : Fin 16), (0x6 : Nat), (77 : BitVec 32), dmaTurn .regwrite 0 (dmaUp [0x52000000, 6, 77, 0]),
        dmaUp [0x52000000, 6, 77, 0], by decide +kernel⟩,
    ⟨(0 : Hub), (2 : Fin 16), (3 : BitVec 32), (4 : BitVec 32), (0 : Fin 4),
        (1 : Fin 4), (5 : BitVec 32),
        ⟨0, 0, false, false, 0, 1, 0, 0, 5, 0, false, 0, 4, 0, 0⟩, dmaTurn (.move 3 4) 0 (dmaUp [0x10040000, 5, 0, 0]),
        dmaUp [0x10040000, 5, 0, 0], by decide +kernel⟩,
    ⟨(0 : Hub), (2 : Fin 16),
        (3 : BitVec 32), (4 : BitVec 32),
        ⟨0, 0, false, false, 0, 1, 0, 0, 5, 0, false, 0, 4, 0, 0⟩, dmaTurn (.move 3 4) 0 (dmaUp [0x10040000, 5, 0, 0]),
        dmaUp [0x10040000, 5, 0, 0], by decide +kernel⟩,
    ⟨(0 : Hub), (2 : Fin 16),
        (3 : BitVec 32), (4 : BitVec 32),
        ⟨0, 0, false, false, 0, 1, 0, 0, 0, 0, false, 0, 4, 0, 0⟩, dmaTurn (.move 3 4) 0 (dmaUp [0x10040000, 0, 0, 0]),
        dmaUp [0x10040000, 0, 0, 0], by decide +kernel⟩,
    ⟨(0 : Hub), (2 : Fin 16),
        (3 : BitVec 32), (4 : BitVec 32),
        ⟨0, 0, false, false, 0, 1, 2, 0, 0, 2, false, 0, 4, 0, 0⟩, dmaTurn (.gather 3 4) 0 (dmaUp [0x20060000, 0x20000, 0, 0]), dmaUp [0x20060000, 0x20000, 0, 0], by decide +kernel⟩,
    ⟨(0 : Hub), (2 : Fin 16),
        (3 : BitVec 32), (4 : BitVec 32),
        ⟨0, 0, false, true, 0, 1, 0, 0, 8, 0, false, 0, 4, 0, 0⟩, dmaTurn (.move 3 4) 0 (dmaUp [0x10440000, 8, 0, 0]),
        dmaUp [0x10440000, 8, 0, 0], by decide +kernel, by decide +kernel, by decide +kernel,
        by decide +kernel, by decide +kernel, by decide +kernel, by decide +kernel, by decide +kernel,
        by decide +kernel, by decide +kernel, by decide +kernel, by decide +kernel, by decide +kernel⟩,
    ⟨(0 : Hub), (2 : Fin 16),
        (3 : BitVec 32), (4 : BitVec 32),
        ⟨2, 0, false, false, 2, 1, 0, 0, 4, 0, false, 0, 4, 0, 0⟩, hostRead (.dma 0) (hubB 0 + 4100) (dmaTurn (.move 3 4) 0 ((dmaUp [0x18240000, 4, 0, 0]).modDma 0 2 fun q => { q with ars := q.ars.map fun e => if e.1 = 2 then (2, { base := 4100 }) else e })), dmaTurn (.move 3 4) 0 ((dmaUp [0x18240000, 4, 0, 0]).modDma 0 2 fun q => { q with ars := q.ars.map fun e => if e.1 = 2 then (2, { base := 4100 }) else e }), (dmaUp [0x18240000, 4, 0, 0]).modDma 0 2 fun q => { q with ars := q.ars.map fun e => if e.1 = 2 then (2, { base := 4100 }) else e }, by decide +kernel, by decide +kernel, by decide +kernel, by decide +kernel, by decide +kernel, by decide +kernel, by decide +kernel, by decide +kernel, by decide +kernel, by decide +kernel, by decide +kernel, by decide +kernel, by decide +kernel, by decide +kernel⟩,
    ⟨(0 : Hub), (2 : Fin 16),
        (3 : BitVec 32), (4 : BitVec 32),
        ⟨0, 2, false, false, 0, 2, 0, 0, 4, 0, false, 0, 4, 0, 0⟩, hostWrite (.dma 0) (hubB 0 + 4100) 67305985 (dmaTurn (.move 3 4) 0 ((dmaUp [0x12080000, 4, 0, 0]).modDma 0 2 fun q => { q with ars := q.ars.map fun e => if e.1 = 2 then (2, { base := 4100 }) else e })), dmaTurn (.move 3 4) 0 ((dmaUp [0x12080000, 4, 0, 0]).modDma 0 2 fun q => { q with ars := q.ars.map fun e => if e.1 = 2 then (2, { base := 4100 }) else e }), (dmaUp [0x12080000, 4, 0, 0]).modDma 0 2 fun q => { q with ars := q.ars.map fun e => if e.1 = 2 then (2, { base := 4100 }) else e }, by decide +kernel, by decide +kernel, by decide +kernel, by decide +kernel, by decide +kernel, by decide +kernel, by decide +kernel, by decide +kernel, by decide +kernel, by decide +kernel, by decide +kernel, by decide +kernel, by decide +kernel⟩,
    ⟨(0 : Hub), (2 : Fin 16),
        (3 : BitVec 32), (4 : BitVec 32),
        ⟨0, 3, false, false, 0, 1, 0, 3, 5, 0, false, 0, 4, 0, 0⟩, dmaTurn (.move 3 4) 0 (dmaUp [0x13040300, 5, 0, 0]),
        dmaUp [0x13040300, 5, 0, 0], by decide +kernel, by decide +kernel, by decide +kernel,
        by decide +kernel, by decide +kernel, by decide +kernel⟩,
    ⟨(0 : Hub), (2 : Fin 16),
        (3 : BitVec 32), (4 : BitVec 32),
        ⟨0, 3, false, false, 0, 1, 0, 3, 5, 0, false, 0, 4, 0, 0⟩, dmaTurn (.move 3 4) 0 (((dmaUp [0x13040300, 5, 0, 0]).wrs (nfsSrcB 0 3) [(R.NFS_SRC_s_CTRL_EN, 1), (R.NFS_SRC_s_CTRL_PRODUCER, 1)])), ((dmaUp [0x13040300, 5, 0, 0]).wrs (nfsSrcB 0 3) [(R.NFS_SRC_s_CTRL_EN, 1), (R.NFS_SRC_s_CTRL_PRODUCER, 1)]), by decide +kernel, by decide +kernel, by decide +kernel, by decide +kernel, by decide +kernel, by decide +kernel, by decide +kernel, by decide +kernel⟩,
    ⟨(0 : Hub), (2 : Fin 16),
        (3 : BitVec 32), (4 : BitVec 32),
        ⟨1, 0, false, false, 0, 1, 0, 0, 5, 0, false, 0, 4, 0, 0⟩, dmaTurn (.move 3 4) 0 ({ dmaUp [0x14040000, 5, 0, 0] with part := .s4d }), { dmaUp [0x14040000, 5, 0, 0] with part := .s4d }, by decide +kernel⟩,
    ⟨(0 : Hub), (2 : Fin 16),
        (3 : BitVec 32), (4 : BitVec 32),
        ⟨0, 0, false, false, 0, 1, 0, 0, 5, 0, false, 0x9003, 4, 0, 0⟩, dmaTurn (.move 3 4) 0 (dmaUp [0x10040000, 5, 0x9003, 0]), dmaUp [0x10040000, 5, 0x9003, 0], by decide +kernel⟩,
    ⟨(0 : Hub), (2 : Fin 16),
        (3 : BitVec 32), (4 : BitVec 32),
        ⟨0, 3, false, false, 0, 1, 2, 3, 1, 2, false, 0, 4, 0, 0⟩, dmaTurn (.gather 3 4) 0 (dmaUp [0x23060300, 0x20001, 0, 0]), dmaUp [0x23060300, 0x20001, 0, 0], by decide +kernel, by decide +kernel, by decide +kernel, by decide +kernel, by decide +kernel, by decide +kernel⟩,
    ⟨(0 : Hub), (2 : Fin 16),
        (3 : BitVec 32), (4 : BitVec 32),
        ⟨0, 3, false, false, 0, 1, 2, 3, 1, 2, false, 0, 4, 0, 0⟩, dmaTurn (.gather 3 4) 0 (((dmaUp [0x23060300, 0x20001, 0, 0]).wrs (nfsSrcB 0 3) [(R.NFS_SRC_s_CTRL_EN, 1), (R.NFS_SRC_s_CTRL_PRODUCER, 1)])), ((dmaUp [0x23060300, 0x20001, 0, 0]).wrs (nfsSrcB 0 3) [(R.NFS_SRC_s_CTRL_EN, 1), (R.NFS_SRC_s_CTRL_PRODUCER, 1)]), by decide +kernel, by decide +kernel, by decide +kernel, by decide +kernel, by decide +kernel, by decide +kernel, by decide +kernel, by decide +kernel, by decide +kernel⟩,
    ⟨(0 : Hub), (2 : Fin 16),
        (3 : BitVec 32), (4 : BitVec 32),
        ⟨1, 0, false, false, 0, 1, 2, 0, 1, 2, false, 0, 4, 0, 0⟩, dmaTurn (.gather 3 4) 0 ({ dmaUp [0x24060000, 0x20001, 0, 0] with part := .s4d }), { dmaUp [0x24060000, 0x20001, 0, 0] with part := .s4d }, by decide +kernel, by decide +kernel, by decide +kernel, by decide +kernel, by decide +kernel, by decide +kernel⟩,
    ⟨(0 : Hub), (2 : Fin 16),
        (3 : BitVec 32), (4 : BitVec 32),
        ⟨0, 0, false, false, 0, 1, 2, 0, 1, 2, false, 0x9003, 4, 0, 0⟩, dmaTurn (.gather 3 4) 0 (dmaUp [0x20060000, 0x20001, 0x9003, 0]), dmaUp [0x20060000, 0x20001, 0x9003, 0], by decide +kernel⟩,
    ⟨(0 : Hub), (2 : Fin 16),
        (3 : BitVec 32), (4 : BitVec 32),
        ⟨0, 0, false, false, 0, 1, 0, 0, 5, 0, false, 0, 4, 0, 0⟩, dmaTurn (.move 3 4) 0 (((dmaUp [0x10040000, 5, 0, 0]).modDma 0 2 fun q => { q with ars := [(0, { base := 4096 }), (1, { base := 960 * 2 ^ 20 })] }).wr (bootB 0) R.BOOT_STATUS_STATE 7), ((dmaUp [0x10040000, 5, 0, 0]).modDma 0 2 fun q => { q with ars := [(0, { base := 4096 }), (1, { base := 960 * 2 ^ 20 })] }).wr (bootB 0) R.BOOT_STATUS_STATE 7, by decide +kernel, by decide +kernel, by decide +kernel, by decide +kernel, by decide +kernel, by decide +kernel, by decide +kernel, by decide +kernel, by decide +kernel, by decide +kernel⟩,
    ⟨(0 : Hub), (2 : Fin 16),
        (3 : BitVec 32), (4 : BitVec 32),
        ⟨0, 0, false, false, 0, 1, 0, 0, 5, 0, false, 0, 4, 0, 0⟩, dmaTurn (.move 3 4) 0 ((dmaUp [0x10040000, 5, 0, 0]).wr (ddrChB 0 0) R.DDR_c_STATUS_STATE 4), (dmaUp [0x10040000, 5, 0, 0]).wr (ddrChB 0 0) R.DDR_c_STATUS_STATE 4, by decide +kernel, by decide +kernel, by decide +kernel, by decide +kernel, by decide +kernel, by decide +kernel, by decide +kernel, by decide +kernel, by decide +kernel, by decide +kernel, by decide +kernel, by decide +kernel, by decide +kernel⟩,
    ⟨(0 : Hub), (2 : Fin 16),
        (3 : BitVec 32), (4 : BitVec 32),
        ⟨0, 3, false, false, 0, 1, 0, 3, 5, 0, false, 0, 4, 0, 0⟩, dmaTurn (.move 3 4) 0 (((dmaUp [0x13040300, 5, 0, 0]).wrs (nfsSrcB 0 3) [(R.NFS_SRC_s_CTRL_EN, 1), (R.NFS_SRC_s_CTRL_PRODUCER, 1), (R.NFS_SRC_s_SIZE_SIZE, 1)])), ((dmaUp [0x13040300, 5, 0, 0]).wrs (nfsSrcB 0 3) [(R.NFS_SRC_s_CTRL_EN, 1), (R.NFS_SRC_s_CTRL_PRODUCER, 1), (R.NFS_SRC_s_SIZE_SIZE, 1)]), by decide +kernel, by decide +kernel, by decide +kernel, by decide +kernel, by decide +kernel, by decide +kernel, by decide +kernel, by decide +kernel, by decide +kernel, by decide +kernel, by decide +kernel, by decide +kernel, by decide +kernel⟩,
    ⟨(0 : Hub), (2 : Fin 16),
        (3 : BitVec 32), (4 : BitVec 32),
        ⟨0, 3, false, false, 0, 1, 0, 67, 5, 0, false, 0, 4, 0, 0⟩, let s0 := dmaTurn (.move 3 4) 0 ((dmaUp [0x13044300, 5, 0, 0]).wrs (strB 0 3) [(R.ETH_STR_t_CFG_EN, 1), (R.ETH_STR_t_QUEUE_QBYTES, 4)]); (strPush 0 3 true ((List.range 5).map fun i => s0.rawByte 0 (moveSrc1 s0 0 2 ⟨0, 3, false, false, 0, 1, 0, 67, 5, 0, false, 0, 4, 0, 0⟩ i)) s0).getD s0, dmaTurn (.move 3 4) 0 ((dmaUp [0x13044300, 5, 0, 0]).wrs (strB 0 3) [(R.ETH_STR_t_CFG_EN, 1), (R.ETH_STR_t_QUEUE_QBYTES, 4)]), (dmaUp [0x13044300, 5, 0, 0]).wrs (strB 0 3) [(R.ETH_STR_t_CFG_EN, 1), (R.ETH_STR_t_QUEUE_QBYTES, 4)], by decide +kernel, by decide +kernel, by decide +kernel, by decide +kernel, by decide +kernel, by decide +kernel, by decide +kernel, by decide +kernel, by decide +kernel, by decide +kernel, by decide +kernel, by decide +kernel⟩,
    ⟨(0 : Hub), (2 : Fin 16),
        (3 : BitVec 32), (4 : BitVec 32),
        ⟨0, 3, false, false, 0, 1, 0, 3, 5, 0, false, 0, 4, 0, 0⟩, [0x13040300, 5, 0, 0], dmaTurn (.move 3 4) 0 (((dmaUp []).wrs (nfsSrcB 0 3) [(R.NFS_SRC_s_CTRL_EN, 1), (R.NFS_SRC_s_CTRL_PRODUCER, 1)]).wr (dmaChB 0 2) R.DMA_k_STATUS_STATE 3 |>.modDma 0 2 fun q => { q with insn := some [0x13040300, 5, 0, 0] }), ((dmaUp []).wrs (nfsSrcB 0 3) [(R.NFS_SRC_s_CTRL_EN, 1), (R.NFS_SRC_s_CTRL_PRODUCER, 1)]).wr (dmaChB 0 2) R.DMA_k_STATUS_STATE 3 |>.modDma 0 2 fun q => { q with insn := some [0x13040300, 5, 0, 0] }, by decide +kernel, by decide +kernel, by decide +kernel, by decide +kernel, by decide +kernel, by decide +kernel, by decide +kernel, by decide +kernel, by decide +kernel, by decide +kernel, by decide +kernel⟩,
    ⟨(0 : Hub), (2 : Fin 16),
        (3 : BitVec 32), (4 : BitVec 32),
        ⟨0, 3, false, false, 0, 1, 0, 67, 5, 0, false, 0, 4, 0, 0⟩, [0x13044300, 5, 0, 0], let s0 := dmaTurn (.move 3 4) 0 ((((dmaUp []).wrs (strB 0 3) [(R.ETH_STR_t_CFG_EN, 1), (R.ETH_STR_t_QUEUE_QBYTES, 4)]).wr (dmaChB 0 2) R.DMA_k_STATUS_STATE 3).modDma 0 2 fun q => { q with insn := some [0x13044300, 5, 0, 0] }); (strPush 0 3 true ((List.range 5).map fun i => s0.rawByte 0 (moveSrc1 s0 0 2 ⟨0, 3, false, false, 0, 1, 0, 67, 5, 0, false, 0, 4, 0, 0⟩ i)) s0).getD s0, dmaTurn (.move 3 4) 0 ((((dmaUp []).wrs (strB 0 3) [(R.ETH_STR_t_CFG_EN, 1), (R.ETH_STR_t_QUEUE_QBYTES, 4)]).wr (dmaChB 0 2) R.DMA_k_STATUS_STATE 3).modDma 0 2 fun q => { q with insn := some [0x13044300, 5, 0, 0] }), (((dmaUp []).wrs (strB 0 3) [(R.ETH_STR_t_CFG_EN, 1), (R.ETH_STR_t_QUEUE_QBYTES, 4)]).wr (dmaChB 0 2) R.DMA_k_STATUS_STATE 3).modDma 0 2 fun q => { q with insn := some [0x13044300, 5, 0, 0] }, by decide +kernel, by decide +kernel, by decide +kernel, by decide +kernel, by decide +kernel, by decide +kernel, by decide +kernel, by decide +kernel, by decide +kernel, by decide +kernel, by decide +kernel, by decide +kernel, by decide +kernel, by decide +kernel, by decide +kernel⟩,
    ⟨(0 : Hub), (2 : Fin 16),
        (3 : BitVec 32), (4 : BitVec 32),
        ⟨0, 0, false, false, 0, 1, 2, 0, 1, 2, false, 0, 4, 0, 0⟩, dmaTurn (.gather 3 4) 0 (dmaUp [0x20060000, 0x20001, 0, 0]), dmaUp [0x20060000, 0x20001, 0, 0], by decide +kernel⟩,
    ⟨(0 : Hub), (2 : Fin 16), (3 : BitVec 32), (4 : BitVec 32), (0 : Fin 4), (1 : Fin 4), (2 : Fin 4), (1 : BitVec 16),
        (2 : Fin 64), false, ⟨0, 0, false, false, 0, 1, 2, 0, 1, 2, false, 0, 4, 0, 0⟩, dmaTurn (.gather 3 4) 0 (dmaUp [0x20060000, 0x20001, 0, 0]), dmaUp [0x20060000, 0x20001, 0, 0], by decide +kernel, by decide +kernel, by decide +kernel, by decide +kernel, by decide +kernel, by decide +kernel⟩,
    ⟨(0 : Hub), (2 : Fin 16),
        (3 : BitVec 32), (4 : BitVec 32),
        ⟨0, 0, false, false, 0, 1, 0, 0, 5, 0, false, 0x9003, 4, 0, 0⟩, [0x10040000, 5, 0x49003, 0], (16 : Nat),
        dmaTurn (.move 3 4) 0 ((dmaUp []).modDma 0 2 fun q => { q with insn := some [0x10040000, 5, 0x49003, 0], burst := some 16 }), (dmaUp []).modDma 0 2 fun q => { q with insn := some [0x10040000, 5, 0x49003, 0], burst := some 16 }, by decide +kernel, by decide +kernel, by decide +kernel, by decide +kernel, by decide +kernel, by decide +kernel, by decide +kernel, by decide +kernel, by decide +kernel, by decide +kernel, by decide +kernel, by decide +kernel⟩,
    ⟨(0 : Hub), (2 : Fin 16),
        (3 : BitVec 32), (4 : BitVec 32),
        ⟨0, 0, false, false, 0, 1, 0, 0, 50, 0, false, 0x9003, 4, 0, 0⟩, [0x10040000, 50, 0x49003, 0], (16 : Nat),
        dmaTurn (.move 3 4) 0 ((dmaUp []).modDma 0 2 fun q => { q with insn := some [0x10040000, 50, 0x49003, 0], burst := some 16 }), (dmaUp []).modDma 0 2 fun q => { q with insn := some [0x10040000, 50, 0x49003, 0], burst := some 16 }, by decide +kernel, by decide +kernel, by decide +kernel, by decide +kernel, by decide +kernel, by decide +kernel, by decide +kernel, by decide +kernel, by decide +kernel, by decide +kernel, by decide +kernel⟩,
    ⟨(0 : Hub), (2 : Fin 16),
        (3 : BitVec 32), (4 : BitVec 32),
        ⟨0, 0, false, false, 0, 1, 2, 0, 1, 2, false, 0x9003, 4, 0, 0⟩, [0x20060000, 0x20001, 0x9003, 0], (1 : Nat),
        dmaTurn (.move 3 4) 0 ((dmaUp []).modDma 0 2 fun q => { q with insn := some [0x20060000, 0x20001, 0x9003, 0], burst := some 1 }), (dmaUp []).modDma 0 2 fun q => { q with insn := some [0x20060000, 0x20001, 0x9003, 0], burst := some 1 }, by decide +kernel, by decide +kernel, by decide +kernel, by decide +kernel, by decide +kernel, by decide +kernel, by decide +kernel, by decide +kernel, by decide +kernel, by decide +kernel⟩,
    ⟨(0 : Hub), (2 : Fin 16), (3 : BitVec 32), (4 : BitVec 32), dmaTurn (.move 3 4) 0 (dmaUp []),
        dmaUp [], by decide +kernel⟩,
    ⟨(1 : Hub), (3 : BitVec 32),
        (4 : BitVec 32), dmaTurn (.move 3 4) 1 { State.reset with part := .s4d }, { State.reset with part := .s4d },
        by decide +kernel⟩,
    ⟨(1 : Hub), { State.reset with part := .s4d }, by decide +kernel⟩,
    ⟨(1 : Hub), { State.reset with part := .s4d }, by decide +kernel⟩,
    ⟨(1 : Hub), { State.reset with part := .s4d }, by decide +kernel⟩,
    ⟨(1 : Hub), { State.reset with part := .s4d }, by decide +kernel⟩,
    ⟨(0 : Hub), (2 : Fin 16), (dmaUp []).wr (dmaChB 0 2) R.DMA_k_STATUS_STATE 5, by decide +kernel⟩,
    ⟨(0 : Hub), (2 : Fin 16), dmaUp [], by decide +kernel⟩,
    ⟨(0 : Hub), (2 : Fin 16), dmaUp [], by decide +kernel⟩,
    ⟨(0 : Hub), (2 : Fin 16),
        (dmaUp []).modDma 0 2 fun q => { q with insn := some [0x10040000, 5, 0x49003, 0], burst := some 16 },
        by decide +kernel⟩,
    ⟨(0 : Hub), (2 : Fin 16), (dmaUp []).wr (dmaChB 0 2) R.DMA_k_STATUS_STATE 5, by decide +kernel⟩,
    ⟨(0 : Hub), dmaUp [], by decide +kernel⟩,
    ⟨(0 : Hub), (dmaUp []).wrs (dmaChB 0 2) [(R.DMA_k_STATUS_STATE, 4), (R.DMA_k_CTRL_PAUSE, 1)], by decide +kernel⟩⟩

theorem wit_EthRowsComplete :
    (∃ (h : Hub) (u : Fin 4) (s : State), s.hasHub h = true ∧ s.on (ethB h) R.ETH_CTRL_EN = true ∧ inAon s = false ∧
        (breakout s h = true ∨ u = 0)) ∧
    (∃ (h : Hub) (u : Fin 4) (s : State), (s.hasHub h = false ∨ s.on (ethB h) R.ETH_CTRL_EN = false ∨ inAon s = true ∨
        (breakout s h = false ∧ u ≠ 0))) ∧
    (∃ (h : Hub) (u : Fin 4) (s : State), bit (s.rd (ethB h) R.ETH_STATUS_LINK) u = true) ∧
    (∃ (h : Hub) (u : Fin 4) (s : State), bit (s.rd (ethB h) R.ETH_STATUS_LINK) u = false) ∧
    (∃ (h : Hub) (s : State), s.rd (ethB h) R.ETH_STATUS_LINK ≠ 0) ∧
    (∃ (h : Hub) (s : State), s.rd (ethB h) R.ETH_STATUS_LINK = 0) ∧
    (∃ (h : Hub) (s : State), s.rd (ethB h) R.ETH_STATUS_LINK ≠ 0) ∧
    (∃ (h : Hub) (s : State), s.rd (ethB h) R.ETH_STATUS_LINK = 0) ∧
    (∃ (h : Hub) (k : Fin 64) (m : Nat) (i : EthItem) (l : List EthItem) (s : State), strOn s h k = true ∧
        s.on (strB h k) R.ETH_STR_t_CFG_FORMAT = false ∧ strMac s h k = some m ∧ (s.strSt h k).items = i :: l ∧
        (takeBytes (strMaxPay s h k) true (s.strSt h k).items 0).1 ≠ [] ∧ strMaxPay s h k ≤ (s.strSt h k).itemBytes) ∧
    (∃ (h : Hub) (k : Fin 64) (m : Nat) (d : List Byte) (s : State), strOn s h k = true ∧
        s.on (strB h k) R.ETH_STR_t_CFG_FORMAT = false ∧ strMac s h k = some m ∧
        (s.strSt h k).items.map (·.data) = [d] ∧ d ≠ [] ∧ strMaxPay s h k ≠ 0 ∧
        strMaxPay s h k ≤ (s.strSt h k).itemBytes) ∧
    (∃ (h : Hub) (k : Fin 64) (i : EthItem) (l : List EthItem) (s : State), strOn s h k = true ∧
        s.on (strB h k) R.ETH_STR_t_CFG_FORMAT = false ∧ strMac s h k = none ∧ (s.strSt h k).items = i :: l ∧
        (takeBytes (strMaxPay s h k) true (s.strSt h k).items 0).1 ≠ [] ∧ strMaxPay s h k ≤ (s.strSt h k).itemBytes) ∧
    (∃ (h : Hub) (k : Fin 64) (m : Nat) (i : EthItem) (l : List EthItem) (s : State), strOn s h k = true ∧
        s.on (strB h k) R.ETH_STR_t_CFG_FORMAT = false ∧ strMac s h k = some m ∧ (s.strSt h k).items = i :: l ∧
        (takeBytes (strMaxPay s h k) true (s.strSt h k).items 0).1 ≠ []) ∧
    (∃ (h : Hub) (k : Fin 64) (m : Nat) (d : List Byte) (s : State), strOn s h k = true ∧
        s.on (strB h k) R.ETH_STR_t_CFG_FORMAT = false ∧ strMac s h k = some m ∧
        (s.strSt h k).items.map (·.data) = [d] ∧ d ≠ [] ∧ strMaxPay s h k ≠ 0) ∧
    (∃ (h : Hub) (k : Fin 64) (i : EthItem) (l : List EthItem) (s : State), strOn s h k = true ∧
        s.on (strB h k) R.ETH_STR_t_CFG_FORMAT = false ∧ strMac s h k = none ∧ (s.strSt h k).items = i :: l ∧
        (takeBytes (strMaxPay s h k) true (s.strSt h k).items 0).1 ≠ []) ∧
    (∃ (h : Hub) (k : Fin 64) (m : Nat) (v : VrtBlock) (i : EthItem) (l : List EthItem) (n : Nat) (s : State),
        strOn s h k = true ∧ s.on (strB h k) R.ETH_STR_t_CFG_FORMAT = true ∧ strMac s h k = some m ∧
        (s.strSt h k).vrt = some v ∧ (s.strSt h k).items = i :: l ∧
        n = min (strMaxPay s h k / (if decide (blockField v.head 0 1 = 0x51) then 4 else 8)) (min v.left (i.data.length / (if decide (blockField v.head 0 1 = 0x51) then 4 else 6))) ∧ n ≠ 0 ∧ (n = (strMaxPay s h k / (if decide (blockField v.head 0 1 = 0x51) then 4 else 8)) ∨ n = v.left)) ∧
    (∃ (h : Hub) (k : Fin 64) (v : VrtBlock) (i : EthItem) (l : List EthItem) (n : Nat) (s : State),
        strOn s h k = true ∧ s.on (strB h k) R.ETH_STR_t_CFG_FORMAT = true ∧ strMac s h k = none ∧
        (s.strSt h k).vrt = some v ∧ (s.strSt h k).items = i :: l ∧
        n = min (strMaxPay s h k / (if decide (blockField v.head 0 1 = 0x51) then 4 else 8)) (min v.left (i.data.length / (if decide (blockField v.head 0 1 = 0x51) then 4 else 6))) ∧ n ≠ 0 ∧ (n = (strMaxPay s h k / (if decide (blockField v.head 0 1 = 0x51) then 4 else 8)) ∨ n = v.left)) ∧
    (∃ (h : Hub) (k : Fin 64) (v : VrtBlock) (i : EthItem) (l : List EthItem) (n : Nat) (s : State),
        strOn s h k = true ∧ s.on (strB h k) R.ETH_STR_t_CFG_FORMAT = true ∧ (s.strSt h k).vrt = some v ∧
        (s.strSt h k).items = i :: l ∧
        n = min (strMaxPay s h k / (if decide (blockField v.head 0 1 = 0x51) then 4 else 8)) (min v.left (i.data.length / (if decide (blockField v.head 0 1 = 0x51) then 4 else 6))) ∧ (n = 0 ∨ (n < (strMaxPay s h k / (if decide (blockField v.head 0 1 = 0x51) then 4 else 8)) ∧ n < v.left))) ∧
    (∃ (h : Hub) (k : Fin 64) (m : Nat) (chan : Nat) (i : EthItem) (l : List EthItem) (c : List Nat) (u : State) (s : State), strOn s h k = true ∧ s.on (strB h k) R.ETH_STR_t_CFG_FORMAT = true ∧ strMac s h k = some m ∧ (s.strSt h k).vrt = none ∧ (s.strSt h k).items = i :: l ∧ i.begun = false ∧ (blockField i.data 0 1 = 0x50 ∨ blockField i.data 0 1 = 0x51) ∧ 64 ≤ i.data.length ∧ chan = blockField i.data 4 2 ∧ c = vrtContext s (i.data.take 64) ∧ (u = s.modStr h k fun q => { q with vrt := some ⟨i.data.take 64, 0, blockField i.data 28 4⟩, items := { i with data := i.data.drop 64, begun := true } :: l, ctx := tset (fun _ => []) q.ctx chan c, ctxCount := if (tget (fun _ => []) q.ctx chan).take 5 = c.take 5 then q.ctxCount else q.ctxCount + 1, pkts := if (tget (fun _ => []) q.ctx chan).take 5 = c.take 5 then q.pkts else q.pkts ++ [pktTo s h k false m (vrtHead s h k 4 q.ctxCount chan (vrtClass (c.getD 6 0)) ((28 + (vrtContextBody s c true).length) / 4) (ofSts (blockField i.data 16 12)) ++ vrtContextBody s c true)] })) ∧
    (∃ (h : Hub) (k : Fin 64) (i : EthItem) (l : List EthItem) (s : State), strOn s h k = true ∧
        s.on (strB h k) R.ETH_STR_t_CFG_FORMAT = true ∧ (s.strSt h k).vrt = none ∧ (s.strSt h k).items = i :: l ∧
        (i.begun = true ∨ (i.data ≠ [] ∧ blockField i.data 0 1 ≠ 0x50 ∧ blockField i.data 0 1 ≠ 0x51))) ∧
    (∃ (h : Hub) (k : Fin 64) (s : State), strOn s h k = true ∧ s.on (strB h k) R.ETH_STR_t_CFG_FORMAT = true ∧
        (((s.strSt h k).items = [] ∨ ((s.strSt h k).vrt = none ∧ (∃ i ∈ (s.strSt h k).items.head?, i.begun = false ∧
        i.data.length < 64 ∧ (i.data = [] ∨ blockField i.data 0 1 = 0x50 ∨ blockField i.data 0 1 = 0x51)))))) ∧
    (∃ (h : Hub) (k : Fin 64) (s : State), (strOn s h k = false ∨ (s.on (strB h k) R.ETH_STR_t_CFG_FORMAT = false ∧
        (s.strSt h k).itemBytes < strMaxPay s h k))) ∧
    (∃ (h : Hub) (k : Fin 64) (m : Nat) (v : VrtBlock) (i : EthItem) (l : List EthItem) (n : Nat) (s : State),
        strOn s h k = true ∧ s.on (strB h k) R.ETH_STR_t_CFG_FORMAT = true ∧ strMac s h k = some m ∧
        (s.strSt h k).vrt = some v ∧ (s.strSt h k).items = i :: l ∧
        n = min (strMaxPay s h k / (if decide (blockField v.head 0 1 = 0x51) then 4 else 8)) (min v.left (i.data.length / (if decide (blockField v.head 0 1 = 0x51) then 4 else 6))) ∧ n ≠ 0) ∧
    (∃ (h : Hub) (k : Fin 64) (v : VrtBlock) (i : EthItem) (l : List EthItem) (n : Nat) (s : State),
        strOn s h k = true ∧ s.on (strB h k) R.ETH_STR_t_CFG_FORMAT = true ∧ strMac s h k = none ∧
        (s.strSt h k).vrt = some v ∧ (s.strSt h k).items = i :: l ∧
        n = min (strMaxPay s h k / (if decide (blockField v.head 0 1 = 0x51) then 4 else 8)) (min v.left (i.data.length / (if decide (blockField v.head 0 1 = 0x51) then 4 else 6))) ∧ n ≠ 0) ∧
    (∃ (h : Hub) (k : Fin 64) (v : VrtBlock) (i : EthItem) (l : List EthItem) (n : Nat) (s : State),
        strOn s h k = true ∧ s.on (strB h k) R.ETH_STR_t_CFG_FORMAT = true ∧ (s.strSt h k).vrt = some v ∧
        (s.strSt h k).items = i :: l ∧
        n = min (strMaxPay s h k / (if decide (blockField v.head 0 1 = 0x51) then 4 else 8)) (min v.left (i.data.length / (if decide (blockField v.head 0 1 = 0x51) then 4 else 6))) ∧ n = 0) ∧
    (∃ (h : Hub) (k : Fin 64) (m : Nat) (chan : Nat) (i : EthItem) (l : List EthItem) (c : List Nat) (u : State) (s : State), strOn s h k = true ∧ s.on (strB h k) R.ETH_STR_t_CFG_FORMAT = true ∧ strMac s h k = some m ∧ (s.strSt h k).vrt = none ∧ (s.strSt h k).items = i :: l ∧ i.begun = false ∧ (blockField i.data 0 1 = 0x50 ∨ blockField i.data 0 1 = 0x51) ∧ 64 ≤ i.data.length ∧ chan = blockField i.data 4 2 ∧ c = vrtContext s (i.data.take 64) ∧ (u = s.modStr h k fun q => { q with vrt := some ⟨i.data.take 64, 0, blockField i.data 28 4⟩, items := { i with data := i.data.drop 64, begun := true } :: l, ctx := tset (fun _ => []) q.ctx chan c, ctxCount := if (tget (fun _ => []) q.ctx chan).take 5 = c.take 5 then q.ctxCount else q.ctxCount + 1, pkts := if (tget (fun _ => []) q.ctx chan).take 5 = c.take 5 then q.pkts else q.pkts ++ [pktTo s h k false m (vrtHead s h k 4 q.ctxCount chan (vrtClass (c.getD 6 0)) ((28 + (vrtContextBody s c true).length) / 4) (ofSts (blockField i.data 16 12)) ++ vrtContextBody s c true)] })) ∧
    (∃ (h : Hub) (k : Fin 64) (i : EthItem) (l : List EthItem) (s : State), strOn s h k = true ∧
        s.on (strB h k) R.ETH_STR_t_CFG_FORMAT = true ∧ (s.strSt h k).vrt = none ∧ (s.strSt h k).items = i :: l ∧
        (i.begun = true ∨ (i.data ≠ [] ∧ blockField i.data 0 1 ≠ 0x50 ∧ blockField i.data 0 1 ≠ 0x51))) ∧
    (∃ (h : Hub) (k : Fin 64) (s : State), strOn s h k = true ∧ s.on (strB h k) R.ETH_STR_t_CFG_FORMAT = true ∧
        (((s.strSt h k).items = [] ∨ ((s.strSt h k).vrt = none ∧ (∃ i ∈ (s.strSt h k).items.head?, i.begun = false ∧
        i.data.length < 64 ∧ (i.data = [] ∨ blockField i.data 0 1 = 0x50 ∨ blockField i.data 0 1 = 0x51)))))) ∧
    (∃ (h : Hub) (k : Fin 64) (s : State), strOn s h k = false) ∧
    (∃ (h : Hub) (k : Fin 64) (s : State), strOn s h k = true ∧ s.on (strB h k) R.ETH_STR_t_CFG_FORMAT = false ∧
        (takeBytes (strMaxPay s h k) true (s.strSt h k).items 0).1 = []) ∧
    (∃ (h : Hub) (k : Fin 64) (m : Nat) (s : State), strOn s h k = true ∧
        s.on (strB h k) R.ETH_STR_t_CFG_FORMAT = true ∧ strMac s h k = some m) ∧
    (∃ (h : Hub) (k : Fin 64) (s : State), strOn s h k = true ∧ s.on (strB h k) R.ETH_STR_t_CFG_FORMAT = true ∧
        strMac s h k = none) ∧
    (∃ (h : Hub) (k : Fin 64) (s : State), (strOn s h k = false ∨ s.on (strB h k) R.ETH_STR_t_CFG_FORMAT = false)) ∧
    (∃ (h : Hub) (p : NetPeer) (d : List Byte) (l : List EthTx) (s : State),
        bit (s.rd (ethB h) R.ETH_STATUS_LINK) 0 = true ∧ unpaused s h (s.rd (ethB h) R.ETH_CFG_MGMT_PCP) = true ∧
        (s.ethSt h).mgmtTx = .reply p d :: l) ∧
    (∃ (h : Hub) (a : Nat) (p : NetPeer) (l : List EthTx) (s : State),
        bit (s.rd (ethB h) R.ETH_STATUS_LINK) 0 = true ∧ unpaused s h (s.rd (ethB h) R.ETH_CFG_MGMT_PCP) = true ∧
        (s.ethSt h).mgmtTx = .answer a p :: l) ∧
    (∃ (h : Hub) (v : Bool) (g : Nat) (l : List EthTx) (s : State), bit (s.rd (ethB h) R.ETH_STATUS_LINK) 0 = true ∧
        unpaused s h (s.rd (ethB h) R.ETH_CFG_MGMT_PCP) = true ∧ (s.ethSt h).mgmtTx = .report v g :: l) ∧
    (∃ (h : Hub) (m : List Byte) (l : List (List Byte)) (v : Bool) (g : Nat) (p : Nat) (s : State),
        bit (s.rd (ethB h) R.ETH_STATUS_LINK) 0 = true ∧ unpaused s h (s.rd (ethB h) R.ETH_CFG_MGMT_PCP) = true ∧
        (s.ethSt h).mgmtTx = [] ∧ tget (fun _ => []) s.trgTx h = m :: l ∧ v = s.on (ethB h) R.ETH_TRIG_IP6 ∧
        (g = if v = true then (s.ethSt h).group6 else s.rd (ethB h) R.ETH_TRIG_GROUP4_GROUP) ∧
        p = s.rd (ethB h) R.ETH_TRIG_PORT) ∧
    (∃ (h : Hub) (u : Fin 4) (k : Fin 64) (p : EthPkt) (d : Tbl Nat) (r : Nat) (s : State),
        bit (s.rd (ethB h) R.ETH_STATUS_LINK) u = true ∧ (u ≠ 0 ∨
        unpaused s h (s.rd (ethB h) R.ETH_CFG_MGMT_PCP) = false ∨ ((s.ethSt h).mgmtTx = [] ∧
        tget (fun _ => []) s.trgTx h = [])) ∧ r = streamMbps s h ∧ r ≠ 0 ∧
        tget noNat (s.ethSt h).shapeAt u ≤ s.time.frc ∧
        drr s h u 9216 130 (s.ethSt h).turn (s.ethSt h).deficits = (some (k.val, p), d)) ∧
    (∃ (h : Hub) (u : Fin 4) (s : State), (bit (s.rd (ethB h) R.ETH_STATUS_LINK) u = false ∨ ((u ≠ 0 ∨
        unpaused s h (s.rd (ethB h) R.ETH_CFG_MGMT_PCP) = false ∨ ((s.ethSt h).mgmtTx = [] ∧
        tget (fun _ => []) s.trgTx h = [])) ∧
      (streamMbps s h = 0 ∨ s.time.frc < tget noNat (s.ethSt h).shapeAt u ∨
          (drr s h u 9216 130 (s.ethSt h).turn (s.ethSt h).deficits).1 = none)))) ∧
    (∃ (h : Hub) (s : State), s.rd (ethB h) R.ETH_STATUS_LINK ≠ 0) ∧
    (∃ (h : Hub) (s : State), s.rd (ethB h) R.ETH_STATUS_LINK ≠ 0) ∧
    (∃ (h : Hub) (y : BitVec 8) (z : Bool) (s : State), s.rd (ethB h) R.ETH_STATUS_LINK ≠ 0 ∧ z = true ∧
        (ptpInst s h y.toNat).isSome = true) ∧
    (∃ (h : Hub) (y : BitVec 8) (z : Bool) (s : State), s.rd (ethB h) R.ETH_STATUS_LINK ≠ 0 ∧ (ptpRole s 0 h ≠ 0 ∨
        ptpRole s 1 h ≠ 0) ∧ (z = false ∨ (ptpInst s h y.toNat).isNone = true)) ∧
    (∃ (h : Hub) (s : State), s.rd (ethB h) R.ETH_STATUS_LINK ≠ 0 ∧ ptpRole s 0 h = 0 ∧ ptpRole s 1 h = 0) ∧
    (∃ (h : Hub) (s : State), s.rd (ethB h) R.ETH_STATUS_LINK = 0) ∧
    (∃ (h : Hub) (p : NetPeer) (d : NetPeer) (s : State), s.rd (ethB h) R.ETH_STATUS_LINK ≠ 0 ∧
        d.port.toNat = s.rd (ethB h) R.ETH_MGMT_PORT ∧ toOwn s h d = true ∧ allowed s h p = false) ∧
    (∃ (h : Hub) (p : NetPeer) (d : NetPeer) (m : List Byte) (s : State), s.rd (ethB h) R.ETH_STATUS_LINK ≠ 0 ∧
        d.port.toNat = s.rd (ethB h) R.ETH_MGMT_PORT ∧ toOwn s h d = true ∧ allowed s h p = true ∧
        (m.length < 16 + 12 * (m.getD 3 0).toNat + (if s.on (ethB h) R.ETH_MGMT_AUTH then 16 else 0) ∨
        m.take 3 ≠ [0x53, 0x4D, 1])) ∧
    (∃ (h : Hub) (p : NetPeer) (d : NetPeer) (m : List Byte) (s : State), s.rd (ethB h) R.ETH_STATUS_LINK ≠ 0 ∧
        d.port.toNat = s.rd (ethB h) R.ETH_MGMT_PORT ∧ toOwn s h d = true ∧ allowed s h p = true ∧
        16 + 12 * (m.getD 3 0).toNat + (if s.on (ethB h) R.ETH_MGMT_AUTH then 16 else 0) ≤ m.length ∧
        m.take 3 = [0x53, 0x4D, 1] ∧ s.on (ethB h) R.ETH_MGMT_AUTH = true ∧ ¬ ((s.ethSt h).keySet = true ∧
        (hmac256 (s.ethSt h).key (m.take (16 + 12 * (m.getD 3 0).toNat))).take 16 = (m.drop (16 + 12 * (m.getD 3 0).toNat)).take 16)) ∧
    (∃ (h : Hub) (p : NetPeer) (d : NetPeer) (m : List Byte) (s : State), s.rd (ethB h) R.ETH_STATUS_LINK ≠ 0 ∧
        d.port.toNat = s.rd (ethB h) R.ETH_MGMT_PORT ∧ toOwn s h d = true ∧ allowed s h p = true ∧
        16 + 12 * (m.getD 3 0).toNat + (if s.on (ethB h) R.ETH_MGMT_AUTH then 16 else 0) ≤ m.length ∧
        m.take 3 = [0x53, 0x4D, 1] ∧ (s.on (ethB h) R.ETH_MGMT_AUTH = true → (s.ethSt h).keySet = true ∧
        (hmac256 (s.ethSt h).key (m.take (16 + 12 * (m.getD 3 0).toNat))).take 16 = (m.drop (16 + 12 * (m.getD 3 0).toNat)).take 16) ∧ ((clientOf (s.ethSt h) p).bind fun (c : MgmtClient) => c.replies.find? fun (r : Nat × List Byte) => r.1 == ofLe ((m.drop 4).take 4).reverse) ≠ none) ∧
    (∃ (h : Hub) (p : NetPeer) (d : NetPeer) (m : List Byte) (s : State), s.rd (ethB h) R.ETH_STATUS_LINK ≠ 0 ∧
        d.port.toNat = s.rd (ethB h) R.ETH_MGMT_PORT ∧ toOwn s h d = true ∧ allowed s h p = true ∧
        16 + 12 * (m.getD 3 0).toNat + (if s.on (ethB h) R.ETH_MGMT_AUTH then 16 else 0) ≤ m.length ∧
        m.take 3 = [0x53, 0x4D, 1] ∧ (s.on (ethB h) R.ETH_MGMT_AUTH = true → (s.ethSt h).keySet = true ∧
        (hmac256 (s.ethSt h).key (m.take (16 + 12 * (m.getD 3 0).toNat))).take 16 = (m.drop (16 + 12 * (m.getD 3 0).toNat)).take 16) ∧ ((clientOf (s.ethSt h) p).bind fun (c : MgmtClient) => c.replies.find? fun (r : Nat × List Byte) => r.1 == ofLe ((m.drop 4).take 4).reverse) = none ∧ (∃ r ∈ (s.ethSt h).reqs, r.peer = p ∧ r.seq = ofLe ((m.drop 4).take 4).reverse)) ∧
    (∃ (h : Hub) (p : NetPeer) (d : NetPeer) (m : List Byte) (s : State), s.rd (ethB h) R.ETH_STATUS_LINK ≠ 0 ∧
        d.port.toNat = s.rd (ethB h) R.ETH_MGMT_PORT ∧ toOwn s h d = true ∧ allowed s h p = true ∧
        16 + 12 * (m.getD 3 0).toNat + (if s.on (ethB h) R.ETH_MGMT_AUTH then 16 else 0) ≤ m.length ∧
        m.take 3 = [0x53, 0x4D, 1] ∧ (s.on (ethB h) R.ETH_MGMT_AUTH = true → (s.ethSt h).keySet = true ∧
        (hmac256 (s.ethSt h).key (m.take (16 + 12 * (m.getD 3 0).toNat))).take 16 = (m.drop (16 + 12 * (m.getD 3 0).toNat)).take 16) ∧ ((clientOf (s.ethSt h) p).bind fun (c : MgmtClient) => c.replies.find? fun (r : Nat × List Byte) => r.1 == ofLe ((m.drop 4).take 4).reverse) = none ∧ (∀ r ∈ (s.ethSt h).reqs, r.peer ≠ p ∨ r.seq ≠ ofLe ((m.drop 4).take 4).reverse) ∧ (s.on (ethB h) R.ETH_MGMT_AUTH = true ∧ ((clientOf (s.ethSt h) p).any (fun c => decide (ofLe ((m.drop 4).take 4).reverse ≤ c.top)) = true ∨ (clientOf (s.ethSt h) p = none ∧ 16 ≤ (s.ethSt h).clients.length)))) ∧
    (∃ (h : Hub) (p : NetPeer) (d : NetPeer) (m : List Byte) (s : State), s.rd (ethB h) R.ETH_STATUS_LINK ≠ 0 ∧
        d.port.toNat = s.rd (ethB h) R.ETH_MGMT_PORT ∧ toOwn s h d = true ∧ allowed s h p = true ∧
        16 + 12 * (m.getD 3 0).toNat + (if s.on (ethB h) R.ETH_MGMT_AUTH then 16 else 0) ≤ m.length ∧
        m.take 3 = [0x53, 0x4D, 1] ∧ (s.on (ethB h) R.ETH_MGMT_AUTH = true → (s.ethSt h).keySet = true ∧
        (hmac256 (s.ethSt h).key (m.take (16 + 12 * (m.getD 3 0).toNat))).take 16 = (m.drop (16 + 12 * (m.getD 3 0).toNat)).take 16) ∧ ((clientOf (s.ethSt h) p).bind fun (c : MgmtClient) => c.replies.find? fun (r : Nat × List Byte) => r.1 == ofLe ((m.drop 4).take 4).reverse) = none ∧ (∀ r ∈ (s.ethSt h).reqs, r.peer ≠ p ∨ r.seq ≠ ofLe ((m.drop 4).take 4).reverse) ∧ (s.on (ethB h) R.ETH_MGMT_AUTH = true → (∀ c ∈ clientOf (s.ethSt h) p, c.top < ofLe ((m.drop 4).take 4).reverse) ∧ (clientOf (s.ethSt h) p = none → (s.ethSt h).clients.length < 16)) ∧ 64 ≤ (s.ethSt h).reqs.length) ∧
    (∃ (h : Hub) (p : NetPeer) (d : NetPeer) (m : List Byte) (s : State), s.rd (ethB h) R.ETH_STATUS_LINK ≠ 0 ∧
        d.port.toNat = s.rd (ethB h) R.ETH_MGMT_PORT ∧ toOwn s h d = true ∧ allowed s h p = true ∧
        16 + 12 * (m.getD 3 0).toNat + (if s.on (ethB h) R.ETH_MGMT_AUTH then 16 else 0) ≤ m.length ∧
        m.take 3 = [0x53, 0x4D, 1] ∧ (s.on (ethB h) R.ETH_MGMT_AUTH = true → (s.ethSt h).keySet = true ∧
        (hmac256 (s.ethSt h).key (m.take (16 + 12 * (m.getD 3 0).toNat))).take 16 = (m.drop (16 + 12 * (m.getD 3 0).toNat)).take 16) ∧ ((clientOf (s.ethSt h) p).bind fun (c : MgmtClient) => c.replies.find? fun (r : Nat × List Byte) => r.1 == ofLe ((m.drop 4).take 4).reverse) = none ∧ (∀ r ∈ (s.ethSt h).reqs, r.peer ≠ p ∨ r.seq ≠ ofLe ((m.drop 4).take 4).reverse) ∧ (s.on (ethB h) R.ETH_MGMT_AUTH = true → (∀ c ∈ clientOf (s.ethSt h) p, c.top < ofLe ((m.drop 4).take 4).reverse) ∧ (clientOf (s.ethSt h) p = none → (s.ethSt h).clients.length < 16)) ∧ (s.ethSt h).reqs.length < 64 ∧ (parseOps (decide ((m.getD 3 0).toNat = 0) || decide (64 < (m.getD 3 0).toNat)) (m.getD 3 0).toNat (m.drop 16)).any (fun o => !o.done) = true ∧ (∀ r ∈ (s.ethSt h).reqs.head?, r.ops.any (fun o => !o.done) = true)) ∧
    (∃ (h : Hub) (p : NetPeer) (d : NetPeer) (m : List Byte) (s : State), s.rd (ethB h) R.ETH_STATUS_LINK ≠ 0 ∧
        d.port.toNat = s.rd (ethB h) R.ETH_MGMT_PORT ∧ toOwn s h d = true ∧ allowed s h p = true ∧
        16 + 12 * (m.getD 3 0).toNat + (if s.on (ethB h) R.ETH_MGMT_AUTH then 16 else 0) ≤ m.length ∧
        m.take 3 = [0x53, 0x4D, 1] ∧ (s.on (ethB h) R.ETH_MGMT_AUTH = true → (s.ethSt h).keySet = true ∧
        (hmac256 (s.ethSt h).key (m.take (16 + 12 * (m.getD 3 0).toNat))).take 16 = (m.drop (16 + 12 * (m.getD 3 0).toNat)).take 16) ∧ ((clientOf (s.ethSt h) p).bind fun (c : MgmtClient) => c.replies.find? fun (r : Nat × List Byte) => r.1 == ofLe ((m.drop 4).take 4).reverse) = none ∧ (∀ r ∈ (s.ethSt h).reqs, r.peer ≠ p ∨ r.seq ≠ ofLe ((m.drop 4).take 4).reverse) ∧ (s.on (ethB h) R.ETH_MGMT_AUTH = true → (∀ c ∈ clientOf (s.ethSt h) p, c.top < ofLe ((m.drop 4).take 4).reverse) ∧ (clientOf (s.ethSt h) p = none → (s.ethSt h).clients.length < 16)) ∧ (parseOps (decide ((m.getD 3 0).toNat = 0) || decide (64 < (m.getD 3 0).toNat)) (m.getD 3 0).toNat (m.drop 16)).all (·.done) = true ∧ (s.ethSt h).reqs = []) ∧
    (∃ (h : Hub) (d : NetPeer) (u : State) (s : State), s.rd (ethB h) R.ETH_STATUS_LINK ≠ 0 ∧
        (d.port.toNat ≠ s.rd (ethB h) R.ETH_MGMT_PORT ∨ toOwn s h d = false) ∧
        d.port.toNat = s.rd (ethB h) R.ETH_TRIG_PORT ∧ (toGroup s h d = true ∨ toOwn s h d = true) ∧
        u = s.inc (ethB h) R.ETH_RX_FRAMES_COUNT) ∧
    (∃ (h : Hub) (d : NetPeer) (s : State), s.rd (ethB h) R.ETH_STATUS_LINK ≠ 0 ∧
        (d.port.toNat ≠ s.rd (ethB h) R.ETH_MGMT_PORT ∨ toOwn s h d = false) ∧
        (d.port.toNat ≠ s.rd (ethB h) R.ETH_TRIG_PORT ∨ (toGroup s h d = false ∧ toOwn s h d = false))) ∧
    (∃ (h : Hub) (s : State), s.rd (ethB h) R.ETH_STATUS_LINK ≠ 0 ∧ (s.rd (ethB h) R.ETH_FC_MODE = 1 ∨
        s.rd (ethB h) R.ETH_FC_MODE = 3)) ∧
    (∃ (h : Hub) (s : State), s.rd (ethB h) R.ETH_STATUS_LINK ≠ 0 ∧ s.rd (ethB h) R.ETH_FC_MODE = 2) ∧
    (∃ (h : Hub) (f : Bool) (s : State), s.rd (ethB h) R.ETH_STATUS_LINK ≠ 0 ∧ (s.rd (ethB h) R.ETH_FC_MODE = 0 ∨
        (f = true ∧ s.rd (ethB h) R.ETH_FC_MODE ≠ 2) ∨ (f = false ∧ s.rd (ethB h) R.ETH_FC_MODE = 2))) ∧
    (∃ (h : Hub) (s : State), s.rd (ethB h) R.ETH_STATUS_LINK ≠ 0 ∧ (s.rd (ethB h) R.ETH_FC_MODE = 1 ∨
        s.rd (ethB h) R.ETH_FC_MODE = 3)) ∧
    (∃ (h : Hub) (s : State), s.rd (ethB h) R.ETH_STATUS_LINK ≠ 0 ∧ s.rd (ethB h) R.ETH_FC_MODE = 2) ∧
    (∃ (h : Hub) (f : Bool) (s : State), s.rd (ethB h) R.ETH_STATUS_LINK ≠ 0 ∧ (s.rd (ethB h) R.ETH_FC_MODE = 0 ∨
        (f = true ∧ s.rd (ethB h) R.ETH_FC_MODE ≠ 2) ∨ (f = false ∧ s.rd (ethB h) R.ETH_FC_MODE = 2))) ∧
    (∃ (h : Hub) (s : State), s.rd (ethB h) R.ETH_STATUS_LINK = 0) :=
  ⟨⟨(0 : Hub), (0 : Fin 4), (ethUp []).wr (ethB 0) R.ETH_STATUS_LINK 0, by decide +kernel⟩,
    ⟨(0 : Hub), (1 : Fin 4), ethUp [], by decide +kernel⟩,
    ⟨(0 : Hub), (0 : Fin 4), ethUp [], by decide +kernel⟩,
    ⟨(0 : Hub), (1 : Fin 4), ethUp [], by decide +kernel⟩,
    ⟨(0 : Hub), ethUp [], by decide +kernel⟩,
    ⟨(0 : Hub), State.reset, by decide +kernel⟩,
    ⟨(0 : Hub), ethUp [], by decide +kernel⟩,
    ⟨(0 : Hub), State.reset, by decide +kernel⟩,
    ⟨(0 : Hub), (3 : Fin 64),
        (9 : Nat), { data := [1, 2, 3, 4, 5, 6, 7, 8, 9] }, [], ethUp [1, 2, 3, 4, 5, 6, 7, 8, 9] |>.wr (strB 0 3) R.ETH_STR_t_MAC_LO_MAC 9, by decide +kernel, by decide +kernel, by decide +kernel, by decide +kernel, by decide +kernel, by decide +kernel⟩,
    ⟨(0 : Hub), (3 : Fin 64),
        (9 : Nat), [1, 2, 3, 4, 5, 6, 7, 8, 9], ethUp [1, 2, 3, 4, 5, 6, 7, 8, 9] |>.wr (strB 0 3) R.ETH_STR_t_MAC_LO_MAC 9, by decide +kernel, by decide +kernel, by decide +kernel, by decide +kernel, by decide +kernel, by decide +kernel, by decide +kernel⟩,
    ⟨(0 : Hub), (3 : Fin 64),
        { data := [1, 2, 3, 4, 5, 6, 7, 8, 9] }, [], (ethUp [1, 2, 3, 4, 5, 6, 7, 8, 9]).wr (strB 0 3) R.ETH_STR_t_CFG_STATIC_MAC 0, by decide +kernel, by decide +kernel, by decide +kernel, by decide +kernel, by decide +kernel, by decide +kernel⟩,
    ⟨(0 : Hub), (3 : Fin 64),
        (9 : Nat), { data := [1, 2] }, [], ethUp [1, 2] |>.wr (strB 0 3) R.ETH_STR_t_MAC_LO_MAC 9, by decide +kernel⟩,
    ⟨(0 : Hub), (3 : Fin 64), (9 : Nat), [1, 2], ethUp [1, 2] |>.wr (strB 0 3) R.ETH_STR_t_MAC_LO_MAC 9,
        by decide +kernel, by decide +kernel, by decide +kernel, by decide +kernel, by decide +kernel,
        by decide +kernel⟩,
    ⟨(0 : Hub), (3 : Fin 64), { data := [1, 2] }, [], (ethUp [1, 2]).wr (strB 0 3) R.ETH_STR_t_CFG_STATIC_MAC 0,
        by decide +kernel⟩,
    ⟨(0 : Hub), (3 : Fin 64),
        (9 : Nat), ⟨([0x50, 0, 0, 0, 5, 0, 0, 0] ++ List.replicate 20 0 ++ [3, 0, 0, 0, 0, 0, 0, 0, 3, 0, 0, 0] ++ List.replicate 24 0), 0, 1⟩, { data := [1, 2, 3, 4, 5, 6], begun := true }, [], (1 : Nat), (((ethUp []).wrs (strB 0 3) [(R.ETH_STR_t_CFG_FORMAT, 1), (R.ETH_STR_t_CFG_MAXPAY, 20), (R.ETH_STR_t_MAC_LO_MAC, 9)]).modStr 0 3 fun q => { q with items := [{ data := [1, 2, 3, 4, 5, 6], begun := true }], vrt := some ⟨([0x50, 0, 0, 0, 5, 0, 0, 0] ++ List.replicate 20 0 ++ [3, 0, 0, 0, 0, 0, 0, 0, 3, 0, 0, 0] ++ List.replicate 24 0), 0, 1⟩ }), by decide +kernel, by decide +kernel, by decide +kernel, by decide +kernel, by decide +kernel, by decide +kernel, by decide +kernel, by decide +kernel⟩,
    ⟨(0 : Hub), (3 : Fin 64),
        ⟨([0x50, 0, 0, 0, 5, 0, 0, 0] ++ List.replicate 20 0 ++ [3, 0, 0, 0, 0, 0, 0, 0, 3, 0, 0, 0] ++ List.replicate 24 0), 0, 1⟩, { data := [1, 2, 3, 4, 5, 6], begun := true }, [], (1 : Nat), (((ethUp []).wrs (strB 0 3) [(R.ETH_STR_t_CFG_FORMAT, 1), (R.ETH_STR_t_CFG_MAXPAY, 20), (R.ETH_STR_t_MAC_LO_MAC, 9)]).modStr 0 3 fun q => { q with items := [{ data := [1, 2, 3, 4, 5, 6], begun := true }], vrt := some ⟨([0x50, 0, 0, 0, 5, 0, 0, 0] ++ List.replicate 20 0 ++ [3, 0, 0, 0, 0, 0, 0, 0, 3, 0, 0, 0] ++ List.replicate 24 0), 0, 1⟩ }) |>.wr (strB 0 3) R.ETH_STR_t_CFG_STATIC_MAC 0, by decide +kernel, by decide +kernel, by decide +kernel, by decide +kernel, by decide +kernel, by decide +kernel, by decide +kernel, by decide +kernel⟩,
    ⟨(0 : Hub), (3 : Fin 64),
        ⟨([0x50, 0, 0, 0, 5, 0, 0, 0] ++ List.replicate 20 0 ++ [3, 0, 0, 0, 0, 0, 0, 0, 3, 0, 0, 0] ++ List.replicate 24 0), 0, 1⟩, { data := [], begun := true }, [], (0 : Nat), (((ethUp []).wrs (strB 0 3) [(R.ETH_STR_t_CFG_FORMAT, 1), (R.ETH_STR_t_CFG_MAXPAY, 20), (R.ETH_STR_t_MAC_LO_MAC, 9)]).modStr 0 3 fun q => { q with items := [{ data := [], begun := true }], vrt := some ⟨([0x50, 0, 0, 0, 5, 0, 0, 0] ++ List.replicate 20 0 ++ [3, 0, 0, 0, 0, 0, 0, 0, 3, 0, 0, 0] ++ List.replicate 24 0), 0, 1⟩ }), by decide +kernel, by decide +kernel, by decide +kernel, by decide +kernel, by decide +kernel, by decide +kernel⟩,
    ⟨(0 : Hub), (3 : Fin 64),
        (9 : Nat), (5 : Nat), { data := ([0x50, 0, 0, 0, 5, 0, 0, 0] ++ List.replicate 20 0 ++ [3, 0, 0, 0, 0, 0, 0, 0, 3, 0, 0, 0] ++ List.replicate 24 0) }, [], vrtContext State.reset ([0x50, 0, 0, 0, 5, 0, 0, 0] ++ List.replicate 20 0 ++ [3, 0, 0, 0, 0, 0, 0, 0, 3, 0, 0, 0] ++ List.replicate 24 0), let s := (((ethUp []).wrs (strB 0 3) [(R.ETH_STR_t_CFG_FORMAT, 1), (R.ETH_STR_t_CFG_MAXPAY, 20), (R.ETH_STR_t_MAC_LO_MAC, 9)]).modStr 0 3 fun q => { q with items := [{ data := ([0x50, 0, 0, 0, 5, 0, 0, 0] ++ List.replicate 20 0 ++ [3, 0, 0, 0, 0, 0, 0, 0, 3, 0, 0, 0] ++ List.replicate 24 0) }] }); s.modStr 0 3 fun q => { q with vrt := some ⟨([0x50, 0, 0, 0, 5, 0, 0, 0] ++ List.replicate 20 0 ++ [3, 0, 0, 0, 0, 0, 0, 0, 3, 0, 0, 0] ++ List.replicate 24 0), 0, 3⟩, items := [{ data := [], begun := true }], ctx := tset (fun _ => []) q.ctx 5 (vrtContext State.reset ([0x50, 0, 0, 0, 5, 0, 0, 0] ++ List.replicate 20 0 ++ [3, 0, 0, 0, 0, 0, 0, 0, 3, 0, 0, 0] ++ List.replicate 24 0)), ctxCount := 1, pkts := [pktTo s 0 3 false 9 (vrtHead s 0 3 4 0 5 0x50 ((28 + (vrtContextBody s (vrtContext State.reset ([0x50, 0, 0, 0, 5, 0, 0, 0] ++ List.replicate 20 0 ++ [3, 0, 0, 0, 0, 0, 0, 0, 3, 0, 0, 0] ++ List.replicate 24 0)) true).length) / 4) (ofSts 0) ++ vrtContextBody s (vrtContext State.reset ([0x50, 0, 0, 0, 5, 0, 0, 0] ++ List.replicate 20 0 ++ [3, 0, 0, 0, 0, 0, 0, 0, 3, 0, 0, 0] ++ List.replicate 24 0)) true)] }, (((ethUp []).wrs (strB 0 3) [(R.ETH_STR_t_CFG_FORMAT, 1), (R.ETH_STR_t_CFG_MAXPAY, 20), (R.ETH_STR_t_MAC_LO_MAC, 9)]).modStr 0 3 fun q => { q with items := [{ data := ([0x50, 0, 0, 0, 5, 0, 0, 0] ++ List.replicate 20 0 ++ [3, 0, 0, 0, 0, 0, 0, 0, 3, 0, 0, 0] ++ List.replicate 24 0) }] }), by decide +kernel, by decide +kernel, by decide +kernel, by decide +kernel, by decide +kernel, by decide +kernel, by decide +kernel, by decide +kernel, by decide +kernel, by decide +kernel, by decide +kernel⟩,
    ⟨(0 : Hub), (3 : Fin 64), { data := [0x40] }, [], (((ethUp []).wrs (strB 0 3) [(R.ETH_STR_t_CFG_FORMAT, 1),
        (R.ETH_STR_t_CFG_MAXPAY, 20),
        (R.ETH_STR_t_MAC_LO_MAC, 9)]).modStr 0 3 fun q => { q with items := [{ data := [0x40] }] }),
        by decide +kernel⟩,
    ⟨(0 : Hub), (3 : Fin 64), (((ethUp []).wrs (strB 0 3) [(R.ETH_STR_t_CFG_FORMAT, 1),
        (R.ETH_STR_t_CFG_MAXPAY, 20), (R.ETH_STR_t_MAC_LO_MAC, 9)]).modStr 0 3 fun q => { q with items := [] }),
        by decide +kernel⟩,
    ⟨(0 : Hub), (3 : Fin 64), State.reset, by decide +kernel⟩,
    ⟨(0 : Hub), (3 : Fin 64),
        (9 : Nat), ⟨([0x50, 0, 0, 0, 5, 0, 0, 0] ++ List.replicate 20 0 ++ [3, 0, 0, 0, 0, 0, 0, 0, 3, 0, 0, 0] ++ List.replicate 24 0), 0, 1⟩, { data := [1, 2, 3, 4, 5, 6], begun := true }, [], (1 : Nat), (((ethUp []).wrs (strB 0 3) [(R.ETH_STR_t_CFG_FORMAT, 1), (R.ETH_STR_t_CFG_MAXPAY, 20), (R.ETH_STR_t_MAC_LO_MAC, 9)]).modStr 0 3 fun q => { q with items := [{ data := [1, 2, 3, 4, 5, 6], begun := true }], vrt := some ⟨([0x50, 0, 0, 0, 5, 0, 0, 0] ++ List.replicate 20 0 ++ [3, 0, 0, 0, 0, 0, 0, 0, 3, 0, 0, 0] ++ List.replicate 24 0), 0, 1⟩ }), by decide +kernel, by decide +kernel, by decide +kernel, by decide +kernel, by decide +kernel, by decide +kernel, by decide +kernel⟩,
    ⟨(0 : Hub), (3 : Fin 64),
        ⟨([0x50, 0, 0, 0, 5, 0, 0, 0] ++ List.replicate 20 0 ++ [3, 0, 0, 0, 0, 0, 0, 0, 3, 0, 0, 0] ++ List.replicate 24 0), 0, 1⟩, { data := [1, 2, 3, 4, 5, 6], begun := true }, [], (1 : Nat), (((ethUp []).wrs (strB 0 3) [(R.ETH_STR_t_CFG_FORMAT, 1), (R.ETH_STR_t_CFG_MAXPAY, 20), (R.ETH_STR_t_MAC_LO_MAC, 9)]).modStr 0 3 fun q => { q with items := [{ data := [1, 2, 3, 4, 5, 6], begun := true }], vrt := some ⟨([0x50, 0, 0, 0, 5, 0, 0, 0] ++ List.replicate 20 0 ++ [3, 0, 0, 0, 0, 0, 0, 0, 3, 0, 0, 0] ++ List.replicate 24 0), 0, 1⟩ }) |>.wr (strB 0 3) R.ETH_STR_t_CFG_STATIC_MAC 0, by decide +kernel, by decide +kernel, by decide +kernel, by decide +kernel, by decide +kernel, by decide +kernel, by decide +kernel⟩,
    ⟨(0 : Hub), (3 : Fin 64),
        ⟨([0x50, 0, 0, 0, 5, 0, 0, 0] ++ List.replicate 20 0 ++ [3, 0, 0, 0, 0, 0, 0, 0, 3, 0, 0, 0] ++ List.replicate 24 0), 0, 1⟩, { data := [], begun := true }, [], (0 : Nat), (((ethUp []).wrs (strB 0 3) [(R.ETH_STR_t_CFG_FORMAT, 1), (R.ETH_STR_t_CFG_MAXPAY, 20), (R.ETH_STR_t_MAC_LO_MAC, 9)]).modStr 0 3 fun q => { q with items := [{ data := [], begun := true }], vrt := some ⟨([0x50, 0, 0, 0, 5, 0, 0, 0] ++ List.replicate 20 0 ++ [3, 0, 0, 0, 0, 0, 0, 0, 3, 0, 0, 0] ++ List.replicate 24 0), 0, 1⟩ }), by decide +kernel, by decide +kernel, by decide +kernel, by decide +kernel, by decide +kernel, by decide +kernel⟩,
    ⟨(0 : Hub), (3 : Fin 64),
        (9 : Nat), (5 : Nat), { data := ([0x50, 0, 0, 0, 5, 0, 0, 0] ++ List.replicate 20 0 ++ [3, 0, 0, 0, 0, 0, 0, 0, 3, 0, 0, 0] ++ List.replicate 24 0) }, [], vrtContext State.reset ([0x50, 0, 0, 0, 5, 0, 0, 0] ++ List.replicate 20 0 ++ [3, 0, 0, 0, 0, 0, 0, 0, 3, 0, 0, 0] ++ List.replicate 24 0), let s := (((ethUp []).wrs (strB 0 3) [(R.ETH_STR_t_CFG_FORMAT, 1), (R.ETH_STR_t_CFG_MAXPAY, 20), (R.ETH_STR_t_MAC_LO_MAC, 9)]).modStr 0 3 fun q => { q with items := [{ data := ([0x50, 0, 0, 0, 5, 0, 0, 0] ++ List.replicate 20 0 ++ [3, 0, 0, 0, 0, 0, 0, 0, 3, 0, 0, 0] ++ List.replicate 24 0) }] }); s.modStr 0 3 fun q => { q with vrt := some ⟨([0x50, 0, 0, 0, 5, 0, 0, 0] ++ List.replicate 20 0 ++ [3, 0, 0, 0, 0, 0, 0, 0, 3, 0, 0, 0] ++ List.replicate 24 0), 0, 3⟩, items := [{ data := [], begun := true }], ctx := tset (fun _ => []) q.ctx 5 (vrtContext State.reset ([0x50, 0, 0, 0, 5, 0, 0, 0] ++ List.replicate 20 0 ++ [3, 0, 0, 0, 0, 0, 0, 0, 3, 0, 0, 0] ++ List.replicate 24 0)), ctxCount := 1, pkts := [pktTo s 0 3 false 9 (vrtHead s 0 3 4 0 5 0x50 ((28 + (vrtContextBody s (vrtContext State.reset ([0x50, 0, 0, 0, 5, 0, 0, 0] ++ List.replicate 20 0 ++ [3, 0, 0, 0, 0, 0, 0, 0, 3, 0, 0, 0] ++ List.replicate 24 0)) true).length) / 4) (ofSts 0) ++ vrtContextBody s (vrtContext State.reset ([0x50, 0, 0, 0, 5, 0, 0, 0] ++ List.replicate 20 0 ++ [3, 0, 0, 0, 0, 0, 0, 0, 3, 0, 0, 0] ++ List.replicate 24 0)) true)] }, (((ethUp []).wrs (strB 0 3) [(R.ETH_STR_t_CFG_FORMAT, 1), (R.ETH_STR_t_CFG_MAXPAY, 20), (R.ETH_STR_t_MAC_LO_MAC, 9)]).modStr 0 3 fun q => { q with items := [{ data := ([0x50, 0, 0, 0, 5, 0, 0, 0] ++ List.replicate 20 0 ++ [3, 0, 0, 0, 0, 0, 0, 0, 3, 0, 0, 0] ++ List.replicate 24 0) }] }), by decide +kernel, by decide +kernel, by decide +kernel, by decide +kernel, by decide +kernel, by decide +kernel, by decide +kernel, by decide +kernel, by decide +kernel, by decide +kernel, by decide +kernel⟩,
    ⟨(0 : Hub), (3 : Fin 64), { data := [0x40] }, [], (((ethUp []).wrs (strB 0 3) [(R.ETH_STR_t_CFG_FORMAT, 1),
        (R.ETH_STR_t_CFG_MAXPAY, 20),
        (R.ETH_STR_t_MAC_LO_MAC, 9)]).modStr 0 3 fun q => { q with items := [{ data := [0x40] }] }),
        by decide +kernel⟩,
    ⟨(0 : Hub), (3 : Fin 64), (((ethUp []).wrs (strB 0 3) [(R.ETH_STR_t_CFG_FORMAT, 1),
        (R.ETH_STR_t_CFG_MAXPAY, 20), (R.ETH_STR_t_MAC_LO_MAC, 9)]).modStr 0 3 fun q => { q with items := [] }),
        by decide +kernel⟩,
    ⟨(0 : Hub), (3 : Fin 64), State.reset, by decide +kernel⟩,
    ⟨(0 : Hub), (3 : Fin 64), ethUp [], by decide +kernel⟩,
    ⟨(0 : Hub), (3 : Fin 64), (9 : Nat), (((ethUp []).wrs (strB 0 3) [(R.ETH_STR_t_CFG_FORMAT, 1),
        (R.ETH_STR_t_CFG_MAXPAY, 20),
        (R.ETH_STR_t_MAC_LO_MAC, 9)]).modStr 0 3 fun q => { q with items := [], ctx := [(5, [1, 2, 3, 4, 5, 6, 7])] }),
        by decide +kernel⟩,
    ⟨(0 : Hub), (3 : Fin 64), (((ethUp []).wrs (strB 0 3) [(R.ETH_STR_t_CFG_FORMAT, 1),
        (R.ETH_STR_t_CFG_MAXPAY, 20),
        (R.ETH_STR_t_MAC_LO_MAC, 9)]).modStr 0 3 fun q => { q with items := [], ctx := [(5, [1, 2, 3, 4, 5, 6, 7])] }).wr (strB 0 3) R.ETH_STR_t_CFG_STATIC_MAC 0, by decide +kernel⟩,
    ⟨(0 : Hub), (3 : Fin 64), ethUp [], by decide +kernel⟩,
    ⟨(0 : Hub), (aPeer : NetPeer), [1], [], (ethUp []).modEth 0 fun q => { q with mgmtTx := [.reply aPeer [1]] },
        by decide +kernel⟩,
    ⟨(0 : Hub), (1 : Nat), (aPeer : NetPeer), [], (ethUp []).modEth 0 fun q => { q with mgmtTx := [.answer 1 aPeer] },
        by decide +kernel⟩,
    ⟨(0 : Hub), false, (0xE0000181 : Nat),
        [], (ethUp []).modEth 0 fun q => { q with mgmtTx := [.report false 0xE0000181] }, by decide +kernel⟩,
    ⟨(0 : Hub), [7, 8], [], false, (0 : Nat), (0 : Nat), (ethUp []).wrs (ethB 0) [(R.ETH_TRIG_IP6, 0),
        (R.ETH_TRIG_GROUP4_GROUP, 0), (R.ETH_TRIG_PORT, 0)] |> fun s => { s with trgTx := [(0, [[7, 8]])] },
        by decide +kernel, by decide +kernel, by decide +kernel, by decide +kernel, by decide +kernel,
        by decide +kernel, by decide +kernel⟩,
    ⟨(0 : Hub), (0 : Fin 4), (3 : Fin 64), ⟨[1], false, false, 9, 0, 4, 5, 0, 0⟩, [(3, 9149)], (1000 : Nat),
        (ethUp []).modStr 0 3 fun q => { q with items := [], pkts := [⟨[1], false, false, 9, 0, 4, 5, 0, 0⟩] },
        by decide +kernel, by decide +kernel, by decide +kernel, by decide +kernel, by decide +kernel,
        by decide +kernel⟩,
    ⟨(0 : Hub), (1 : Fin 4), ethUp [], by decide +kernel⟩,
    ⟨(0 : Hub), ethUp [], by decide +kernel⟩,
    ⟨(0 : Hub), ethUp [], by decide +kernel⟩,
    ⟨(0 : Hub), (5 : BitVec 8), true, (ethUp []).wrs (ptpB 0 1) [(R.TIME_PTP_i_CFG_EN, 1),
        (R.TIME_PTP_i_CFG_ROLE0, 1), (R.TIME_PTP_i_CFG_DOMAIN, 5)], by decide +kernel⟩,
    ⟨(0 : Hub), (6 : BitVec 8), true, (ethUp []).wrs (ptpB 0 1) [(R.TIME_PTP_i_CFG_EN, 1),
        (R.TIME_PTP_i_CFG_ROLE0, 1), (R.TIME_PTP_i_CFG_DOMAIN, 5)], by decide +kernel⟩,
    ⟨(0 : Hub), ethUp [], by decide +kernel⟩,
    ⟨(0 : Hub), State.reset, by decide +kernel⟩,
    ⟨(0 : Hub), (aPeer : NetPeer),
        ⟨false, 0, 0xFE01⟩, (((ethUp []).wr (ethB 0) R.ETH_MGMT_ALLOW_EN 1).wr (ethB 0) R.ETH_MGMT_PORT 0xFE01).modEth 0 fun q => { q with allow := [(0, (1, 32))] }, by decide +kernel⟩,
    ⟨(0 : Hub), (aPeer : NetPeer), ⟨false, 0, 0xFE01⟩, [], ((ethUp []).wr (ethB 0) R.ETH_MGMT_PORT 0xFE01),
        by decide +kernel⟩,
    ⟨(0 : Hub), (aPeer : NetPeer),
        ⟨false, 0, 0xFE01⟩, [0x53, 0x4D, 1, 1, 0, 0, 0, 9, 0, 0, 0, 0, 0, 0, 0, 0, 4, 0, 0, 0, 0, 0, 0, 0, 0, 0, 0, 5] ++ List.replicate 16 0, (((ethUp []).wr (ethB 0) R.ETH_MGMT_PORT 0xFE01).wr (ethB 0) R.ETH_MGMT_AUTH 1), by decide +kernel, by decide +kernel, by decide +kernel, by decide +kernel, by decide +kernel, by decide +kernel, by decide +kernel, by decide +kernel⟩,
    ⟨(0 : Hub), (aPeer : NetPeer),
        ⟨false, 0, 0xFE01⟩, [0x53, 0x4D, 1, 1, 0, 0, 0, 9, 0, 0, 0, 0, 0, 0, 0, 0, 4, 0, 0, 0, 0, 0, 0, 0, 0, 0, 0, 5], ((ethUp []).wr (ethB 0) R.ETH_MGMT_PORT 0xFE01).modEth 0 fun q => { q with clients := [{ peer := aPeer, replies := [(9, [7])] }] }, by decide +kernel, by decide +kernel, by decide +kernel, by decide +kernel, by decide +kernel, by decide +kernel, by decide +kernel, by decide +kernel⟩,
    ⟨(0 : Hub), (aPeer : NetPeer),
        ⟨false, 0, 0xFE01⟩, [0x53, 0x4D, 1, 1, 0, 0, 0, 9, 0, 0, 0, 0, 0, 0, 0, 0, 4, 0, 0, 0, 0, 0, 0, 0, 0, 0, 0, 5], ((ethUp []).wr (ethB 0) R.ETH_MGMT_PORT 0xFE01).modEth 0 fun q => { q with reqs := [⟨aPeer, 9, [], [⟨1, 0, 0, 0, 0, false⟩], false⟩] }, by decide +kernel, by decide +kernel, by decide +kernel, by decide +kernel, by decide +kernel, by decide +kernel, by decide +kernel, by decide +kernel, by decide +kernel⟩,
    ⟨(0 : Hub), (aPeer : NetPeer),
        ⟨false, 0, 0xFE01⟩, [0x53, 0x4D, 1, 1, 0, 0, 0, 9, 0, 0, 0, 0, 0, 0, 0, 0, 4, 0, 0, 0, 0, 0, 0, 0, 0, 0, 0, 5] ++ (hmac256 [] ([0x53, 0x4D, 1, 1, 0, 0, 0, 9, 0, 0, 0, 0, 0, 0, 0, 0, 4, 0, 0, 0, 0, 0, 0, 0, 0, 0, 0, 5])).take 16, (((ethUp []).wr (ethB 0) R.ETH_MGMT_PORT 0xFE01).wr (ethB 0) R.ETH_MGMT_AUTH 1).modEth 0 fun q => { q with keySet := true, clients := [{ peer := aPeer, top := 9 }] }, by decide +kernel, by decide +kernel, by decide +kernel, by decide +kernel, by decide +kernel, by decide +kernel, by decide +kernel, by decide +kernel, by decide +kernel, by decide +kernel⟩,
    ⟨(0 : Hub), (aPeer : NetPeer),
        ⟨false, 0, 0xFE01⟩, [0x53, 0x4D, 1, 1, 0, 0, 0, 9, 0, 0, 0, 0, 0, 0, 0, 0, 4, 0, 0, 0, 0, 0, 0, 0, 0, 0, 0, 5], ((ethUp []).wr (ethB 0) R.ETH_MGMT_PORT 0xFE01).modEth 0 fun q => { q with reqs := List.replicate 64 ⟨aPeer, 1, [], [⟨1, 0, 0, 0, 0, false⟩], false⟩ }, by decide +kernel, by decide +kernel, by decide +kernel, by decide +kernel, by decide +kernel, by decide +kernel, by decide +kernel, by decide +kernel, by decide +kernel, by decide +kernel, by decide +kernel⟩,
    ⟨(0 : Hub), (aPeer : NetPeer),
        ⟨false, 0, 0xFE01⟩, [0x53, 0x4D, 1, 1, 0, 0, 0, 9, 0, 0, 0, 0, 0, 0, 0, 0, 4, 0, 0, 0, 0, 0, 0, 0, 0, 0, 0, 5], ((ethUp []).wr (ethB 0) R.ETH_MGMT_PORT 0xFE01), by decide +kernel, by decide +kernel, by decide +kernel, by decide +kernel, by decide +kernel, by decide +kernel, by decide +kernel, by decide +kernel, by decide +kernel, by decide +kernel, by decide +kernel, by decide +kernel, by decide +kernel⟩,
    ⟨(0 : Hub), (aPeer : NetPeer),
        ⟨false, 0, 0xFE01⟩, [0x53, 0x4D, 1, 1, 0, 0, 0, 9, 0, 0, 0, 0, 0, 0, 0, 0, 9, 0, 0, 0, 0, 0, 0, 0, 0, 0, 0, 5], ((ethUp []).wr (ethB 0) R.ETH_MGMT_PORT 0xFE01), by decide +kernel, by decide +kernel, by decide +kernel, by decide +kernel, by decide +kernel, by decide +kernel, by decide +kernel, by decide +kernel, by decide +kernel, by decide +kernel, by decide +kernel, by decide +kernel⟩,
    ⟨(0 : Hub), ⟨false, 0, 0⟩, (ethUp []).wr (ethB 0) R.ETH_MGMT_PORT 9 |>.wrs (ethB 0) [(R.ETH_TRIG_PORT, 0),
        (R.ETH_IP4_ADDR, 0)] |>.inc (ethB 0) R.ETH_RX_FRAMES_COUNT, (ethUp []).wr (ethB 0) R.ETH_MGMT_PORT 9 |>.wrs (ethB 0) [(R.ETH_TRIG_PORT, 0), (R.ETH_IP4_ADDR, 0)], by decide +kernel⟩,
    ⟨(0 : Hub), ⟨false, 0, 7⟩, ethUp [], by decide +kernel⟩,
    ⟨(0 : Hub), (ethUp []).wr (ethB 0) R.ETH_FC_MODE 1, by decide +kernel⟩,
    ⟨(0 : Hub), (ethUp []).wr (ethB 0) R.ETH_FC_MODE 2, by decide +kernel⟩,
    ⟨(0 : Hub), true, ethUp [] |>.wr (ethB 0) R.ETH_FC_MODE 0, by decide +kernel⟩,
    ⟨(0 : Hub), (ethUp []).wr (ethB 0) R.ETH_FC_MODE 1, by decide +kernel⟩,
    ⟨(0 : Hub), (ethUp []).wr (ethB 0) R.ETH_FC_MODE 2, by decide +kernel⟩,
    ⟨(0 : Hub), true, ethUp [] |>.wr (ethB 0) R.ETH_FC_MODE 0, by decide +kernel⟩,
    ⟨(0 : Hub), State.reset, by decide +kernel⟩⟩

theorem wit_MgmtRowsComplete :
    (∃ (h : Hub) (r : MgmtReq) (l : List MgmtReq) (o : MgmtOp) (a : List MgmtOp) (z : List MgmtOp) (v : State) (w : State) (s : State), s.controlLost = false ∧ (s.ethSt h).reqs = r :: l ∧ r.ops = a ++ o :: z ∧ a.all (·.done) = true ∧ o.done = false ∧ o.op = 1 ∧ v = hostRead (.mgmt h) o.addr s ∧ (w = v.modEth h fun x => { x with reqs := { r with ops := a ++ { o with status := (if v.access = 1 then 1 else 0), data := v.readData.toNat, done := true } :: z } :: l })) ∧
    (∃ (h : Hub) (r : MgmtReq) (l : List MgmtReq) (o : MgmtOp) (a : List MgmtOp) (z : List MgmtOp) (v : State) (w : State) (s : State), s.controlLost = false ∧ (s.ethSt h).reqs = r :: l ∧ r.ops = a ++ o :: z ∧ a.all (·.done) = true ∧ o.done = false ∧ o.op = 2 ∧ v = hostWrite (.mgmt h) o.addr o.data s ∧ (w = v.modEth h fun x => { x with reqs := { r with ops := a ++ { o with status := v.access, data := o.data, done := true } :: z } :: l })) ∧
    (∃ (h : Hub) (r : MgmtReq) (l : List MgmtReq) (o : MgmtOp) (a : List MgmtOp) (z : List MgmtOp) (v : State) (w : State) (s : State), s.controlLost = false ∧ (s.ethSt h).reqs = r :: l ∧ r.ops = a ++ o :: z ∧ a.all (·.done) = true ∧ o.done = false ∧ o.op = 4 ∧ v = s ∧ (w = v.modEth h fun x => { x with reqs := { r with ops := a ++ { o with status := 0, data := o.data, done := true } :: z } :: l })) ∧
    (∃ (h : Hub) (s : State), (s.controlLost = true ∨
        ((s.ethSt h).reqs.head?.bind fun r => (r.ops.find? fun o => !o.done).map (·.op)) ≠ some 1)) ∧
    (∃ (h : Hub) (s : State), (s.controlLost = true ∨
        ((s.ethSt h).reqs.head?.bind fun r => (r.ops.find? fun o => !o.done).map (·.op)) ≠ some 2)) ∧
    (∃ (h : Hub) (s : State), (s.controlLost = true ∨
        ((s.ethSt h).reqs.head?.bind fun r => (r.ops.find? fun o => !o.done).map (·.op)) ≠ some 4)) ∧
    (∃ (h : Hub) (a : Nat) (v : State) (s : State), stopTaken h 0 0 s = some (a, v)) ∧
    (∃ (h : Hub) (a : Nat) (v : State) (s : State), stopTaken h 1 0 s = some (a, v)) ∧
    (∃ (h : Hub) (n : Fin 32) (a : Nat) (v : State) (s : State), stopTaken h 2 0 s = some (a, v) ∧
        s.controlLost = false ∧ plannerRuns s = true ∧ s.on (bootB 0) R.BOOT_LOCK_PLAN_LOAD = false ∧ a = n.val ∧
        planState s n ≠ 0 ∧ planState s n ≠ 1 ∧ planState s n ≠ 6) ∧
    (∃ (h : Hub) (e : PlanEnd) (a : Nat) (v : State) (s : State), stopTaken h 2 0 s = some (a, v) ∧
        s.controlLost = false ∧ s.on (bootB 0) R.BOOT_LOCK_PLAN_LOAD = false ∧ e.again = [] ∧ (plannerRuns s = false ∨
        32 ≤ a ∨ planState s a = 0 ∨ planState s a = 1 ∨ planState s a = 6)) ∧
    (∃ (h : Hub) (a : Nat) (v : State) (s : State), stopTaken h 3 0 s = some (a, v) ∧ s.controlLost = false ∧
        plannerRuns s = true ∧ s.on (bootB 0) R.BOOT_LOCK_PLAN_LOAD = false) ∧
    (∃ (h : Hub) (a : Nat) (v : State) (s : State), stopTaken h 3 0 s = some (a, v) ∧ s.controlLost = false ∧
        plannerRuns s = false ∧ s.on (bootB 0) R.BOOT_LOCK_PLAN_LOAD = false) ∧
    (∃ (h : Hub) (a : Nat) (v : State) (s : State), stopTaken h 2 2 s = some (a, v) ∧ s.controlLost = false ∧
        s.on (bootB 0) R.BOOT_LOCK_PLAN_LOAD = true) ∧
    (∃ (h : Hub) (a : Nat) (v : State) (s : State), stopTaken h 3 2 s = some (a, v) ∧ s.controlLost = false ∧
        s.on (bootB 0) R.BOOT_LOCK_PLAN_LOAD = true) ∧
    (∃ (h : Hub) (s : State), (stopTaken h 0 0 s).isNone = true) ∧
    (∃ (h : Hub) (s : State), (stopTaken h 1 0 s).isNone = true) ∧
    (∃ (h : Hub) (s : State), ((stopTaken h 2 0 s).isNone = true ∨ s.controlLost = true)) ∧
    (∃ (h : Hub) (s : State), ((stopTaken h 3 0 s).isNone = true ∨ s.controlLost = true)) ∧
    (∃ (h : Hub) (r : MgmtReq) (o : MgmtOp) (g : Fin 4) (s : State), (s.ethSt h).reqs = [r] ∧ r.ops = [o] ∧ o.op = 3 ∧
        o.arg = g.val ∧ o.done = false) :=
  ⟨⟨(0 : Hub), ⟨aPeer, 1, List.replicate 16 0, [⟨1, 0, 0, 8, 77, false⟩], false⟩, [], ⟨1, 0, 0, 8, 77, false⟩, [], [], let h : Hub := 0; let o : MgmtOp := ⟨1, 0, 0, 8, 77, false⟩; let s : State := mgmtUp ⟨1, 0, 0, 8, 77, false⟩; hostRead (.mgmt h) o.addr s, let h : Hub := 0; let o : MgmtOp := ⟨1, 0, 0, 8, 77, false⟩; let s : State := mgmtUp ⟨1, 0, 0, 8, 77, false⟩; let v : State := hostRead (.mgmt h) o.addr s; v.modEth h fun x => { x with reqs := [⟨aPeer, 1, List.replicate 16 0, [{ o with status := (if v.access = 1 then 1 else 0), data := v.readData.toNat, done := true }], false⟩] }, mgmtUp ⟨1, 0, 0, 8, 77, false⟩, by decide +kernel, by decide +kernel, by decide +kernel, by decide +kernel, by decide +kernel, by decide +kernel, by decide +kernel, by decide +kernel⟩,
    ⟨(0 : Hub), ⟨aPeer, 1, List.replicate 16 0, [⟨2, 0, 0, 8, 77, false⟩], false⟩, [], ⟨2, 0, 0, 8, 77, false⟩, [], [], let h : Hub := 0; let o : MgmtOp := ⟨2, 0, 0, 8, 77, false⟩; let s : State := mgmtUp ⟨2, 0, 0, 8, 77, false⟩; hostWrite (.mgmt h) o.addr o.data s, let h : Hub := 0; let o : MgmtOp := ⟨2, 0, 0, 8, 77, false⟩; let s : State := mgmtUp ⟨2, 0, 0, 8, 77, false⟩; let v : State := hostWrite (.mgmt h) o.addr o.data s; v.modEth h fun x => { x with reqs := [⟨aPeer, 1, List.replicate 16 0, [{ o with status := v.access, data := o.data, done := true }], false⟩] }, mgmtUp ⟨2, 0, 0, 8, 77, false⟩, by decide +kernel, by decide +kernel, by decide +kernel, by decide +kernel, by decide +kernel, by decide +kernel, by decide +kernel, by decide +kernel⟩,
    ⟨(0 : Hub), ⟨aPeer, 1, List.replicate 16 0, [⟨4, 0, 0, 8, 77, false⟩], false⟩, [], ⟨4, 0, 0, 8, 77, false⟩, [], [], let h : Hub := 0; let o : MgmtOp := ⟨4, 0, 0, 8, 77, false⟩; let s : State := mgmtUp ⟨4, 0, 0, 8, 77, false⟩; s, let h : Hub := 0; let o : MgmtOp := ⟨4, 0, 0, 8, 77, false⟩; let s : State := mgmtUp ⟨4, 0, 0, 8, 77, false⟩; let v : State := s; v.modEth h fun x => { x with reqs := [⟨aPeer, 1, List.replicate 16 0, [{ o with status := 0, data := o.data, done := true }], false⟩] }, mgmtUp ⟨4, 0, 0, 8, 77, false⟩, by decide +kernel, by decide +kernel, by decide +kernel, by decide +kernel, by decide +kernel, by decide +kernel, by decide +kernel, by decide +kernel⟩,
    ⟨(0 : Hub), ethUp [], by decide +kernel⟩,
    ⟨(0 : Hub), ethUp [], by decide +kernel⟩,
    ⟨(0 : Hub), ethUp [], by decide +kernel⟩,
    ⟨(0 : Hub), (31 : Nat),
        ((stopTaken 0 0 0 ((mgmtUp ⟨3, 0, 0, 31, 0, false⟩))).map (·.2)).getD State.reset, (mgmtUp ⟨3, 0, 0, 31, 0, false⟩), by decide +kernel⟩,
    ⟨(0 : Hub), (31 : Nat),
        ((stopTaken 0 1 0 ((mgmtUp ⟨3, 0, 1, 31, 0, false⟩))).map (·.2)).getD State.reset, (mgmtUp ⟨3, 0, 1, 31, 0, false⟩), by decide +kernel⟩,
    ⟨(0 : Hub), (31 : Fin 32),
        (31 : Nat), ((stopTaken 0 2 0 ((({ plannerUp with eth := ((mgmtUp ⟨3, 0, 2, 31, 0, false⟩)).eth }).wr (planNB 31) R.PLAN_n_STATE_STATE 4))).map (·.2)).getD State.reset, (({ plannerUp with eth := ((mgmtUp ⟨3, 0, 2, 31, 0, false⟩)).eth }).wr (planNB 31) R.PLAN_n_STATE_STATE 4), by decide +kernel, by decide +kernel, by decide +kernel, by decide +kernel, by decide +kernel, by decide +kernel, by decide +kernel, by decide +kernel⟩,
    ⟨(0 : Hub), {}, (31 : Nat),
        ((stopTaken 0 2 0 ((mgmtUp ⟨3, 0, 2, 31, 0, false⟩))).map (·.2)).getD State.reset, (mgmtUp ⟨3, 0, 2, 31, 0, false⟩), by decide +kernel⟩,
    ⟨(0 : Hub), (31 : Nat),
        ((stopTaken 0 3 0 ((({ plannerUp with eth := ((mgmtUp ⟨3, 0, 3, 31, 0, false⟩)).eth }).wr (planNB 31) R.PLAN_n_STATE_STATE 4))).map (·.2)).getD State.reset, (({ plannerUp with eth := ((mgmtUp ⟨3, 0, 3, 31, 0, false⟩)).eth }).wr (planNB 31) R.PLAN_n_STATE_STATE 4), by decide +kernel⟩,
    ⟨(0 : Hub), (31 : Nat),
        ((stopTaken 0 3 0 ((mgmtUp ⟨3, 0, 3, 31, 0, false⟩))).map (·.2)).getD State.reset, (mgmtUp ⟨3, 0, 3, 31, 0, false⟩), by decide +kernel⟩,
    ⟨(0 : Hub), (31 : Nat),
        ((stopTaken 0 2 2 (((mgmtUp ⟨3, 0, 2, 31, 0, false⟩)).wr (bootB 0) R.BOOT_LOCK_PLAN_LOAD 1)).map (·.2)).getD State.reset, ((mgmtUp ⟨3, 0, 2, 31, 0, false⟩)).wr (bootB 0) R.BOOT_LOCK_PLAN_LOAD 1, by decide +kernel⟩,
    ⟨(0 : Hub), (31 : Nat),
        ((stopTaken 0 3 2 (((mgmtUp ⟨3, 0, 3, 31, 0, false⟩)).wr (bootB 0) R.BOOT_LOCK_PLAN_LOAD 1)).map (·.2)).getD State.reset, ((mgmtUp ⟨3, 0, 3, 31, 0, false⟩)).wr (bootB 0) R.BOOT_LOCK_PLAN_LOAD 1, by decide +kernel⟩,
    ⟨(0 : Hub), ethUp [], by decide +kernel⟩,
    ⟨(0 : Hub), ethUp [], by decide +kernel⟩,
    ⟨(0 : Hub), ethUp [], by decide +kernel⟩,
    ⟨(0 : Hub), ethUp [], by decide +kernel⟩,
    ⟨(0 : Hub), ⟨aPeer, 1, List.replicate 16 0, [⟨3, 0, 0, 31, 0, false⟩], false⟩, ⟨3, 0, 0, 31, 0, false⟩, (0 : Fin 4), (mgmtUp ⟨3, 0, 0, 31, 0, false⟩), by decide +kernel⟩⟩

theorem wit_DispRowsComplete :
    (∃ (h : Hub) (s : State), s.hasHub h = true ∧ s.on (dispB h) R.DISP_STATUS_RUN = false) ∧
    (∃ (h : Hub) (s : State), (s.hasHub h = false ∨ s.on (dispB h) R.DISP_STATUS_RUN = true)) ∧
    (∃ (h : Hub) (s : State), s.hasHub h = true ∧ s.on (dispB h) R.DISP_STATUS_RUN = true) ∧
    (∃ (h : Hub) (s : State), s.hasHub h = true ∧ s.on (dispB h) R.DISP_STATUS_RUN = false) ∧
    (∃ (h : Hub) (m : BitVec 8) (r : Fin 8) (s : State), s.on (dispB h) R.DISP_STATUS_RUN = true ∧
        m.getLsbD r = true ∧ r.val ≤ s.rd (dispB h) R.DISP_LINK_RATE ∧ (∀ q : Fin 8, r < q →
        q.val ≤ s.rd (dispB h) R.DISP_LINK_RATE → m.getLsbD q = false) ∧
        640 * min 15728640 (s.rd (dispB h) R.DISP_PCLK_FRAC) * 3 * (if s.on (dispB h) R.DISP_CTRL_BPC then 8 else 6) * 100 ≤ 792 * 2 ^ min 2 (s.rd (dispB h) R.DISP_LINK_LANES) * linkRate r * 2 ^ 24) ∧
    (∃ (h : Hub) (m : BitVec 8) (s : State), s.on (dispB h) R.DISP_STATUS_RUN = true ∧
        (∀ r : Fin 8, m.getLsbD r = true → r.val ≤ s.rd (dispB h) R.DISP_LINK_RATE → (∀ q : Fin 8, r < q →
        q.val ≤ s.rd (dispB h) R.DISP_LINK_RATE → m.getLsbD q = false) →
      792 * 2 ^ min 2 (s.rd (dispB h) R.DISP_LINK_LANES) * linkRate r * 2 ^ 24 < 640 * min 15728640 (s.rd (dispB h) R.DISP_PCLK_FRAC) * 3 * (if s.on (dispB h) R.DISP_CTRL_BPC then 8 else 6) * 100)) ∧
    (∃ (h : Hub) (s : State), s.on (dispB h) R.DISP_STATUS_RUN = false) ∧
    (∃ (h : Hub) (s : State), s.hasHub h = true) ∧
    (∃ (h : Hub) (s : State), s.hasHub h = true) ∧
    (∃ (h : Hub) (s : State), s.hasHub h = false) ∧
    (∃ (h : Hub) (s : State), s.hasHub h = false) ∧
    (∃ (h : Hub) (s : State), s.on (dispB h) R.DISP_STATUS_RUN = true ∧ vrrOn s h = false) ∧
    (∃ (h : Hub) (s : State), (s.on (dispB h) R.DISP_STATUS_RUN = false ∨ vrrOn s h = true)) ∧
    (∃ (h : Hub) (s : State), s.on (dispB h) R.DISP_STATUS_RUN = true ∧ vrrOn s h = true ∧ (s.dispSt h).porch = none ∧
        s.rd (dispB h) R.DISP_SHADOW_PENDING ≠ 0 ∧ (s.dispSt h).vact + (s.dispSt h).vfp ≤ (s.dispSt h).line + 1) ∧
    (∃ (h : Hub) (s : State), (s.on (dispB h) R.DISP_STATUS_RUN = false ∨ vrrOn s h = false ∨
        (s.dispSt h).porch ≠ none ∨ s.rd (dispB h) R.DISP_SHADOW_PENDING = 0 ∨
        (s.dispSt h).line + 1 < (s.dispSt h).vact + (s.dispSt h).vfp)) ∧
    (∃ (h : Hub) (s : State), s.on (dispB h) R.DISP_STATUS_RUN = true ∧ vrrOn s h = true ∧ (s.dispSt h).porch = none ∧
        (s.dispSt h).vact + (s.dispSt h).vfpMax ≤ (s.dispSt h).line + 1) ∧
    (∃ (h : Hub) (s : State), (s.on (dispB h) R.DISP_STATUS_RUN = false ∨ vrrOn s h = false ∨
        (s.dispSt h).porch ≠ none ∨ (s.dispSt h).line + 1 < (s.dispSt h).vact + (s.dispSt h).vfpMax)) ∧
    (∃ (h : Hub) (n : Nat) (s : State), s.on (dispB h) R.DISP_STATUS_RUN = true ∧ nextLine s h = some n ∧
        n < (s.dispSt h).vact ∧
        ((List.range (s.dispSt h).hact).any fun x => (pixelAt (liveLayers s h) (s.dispSt h) (fun k i => (tget tabReset s.tabL (palKey h k i)).toNat) (s.rdL (dispB h) R.DISP_BG_RGB) n x).isNone) = false) ∧
    (∃ (h : Hub) (n : Nat) (s : State), s.on (dispB h) R.DISP_STATUS_RUN = true ∧ nextLine s h = some n ∧
        n < (s.dispSt h).vact ∧ (∀ k : Fin 4, s.onL (layerB h k) R.DISP_LAYER_k_CTRL_EN = false)) ∧
    (∃ (h : Hub) (n : Nat) (x : Nat) (s : State), s.on (dispB h) R.DISP_STATUS_RUN = true ∧ nextLine s h = some n ∧
        n < (s.dispSt h).vact ∧ x < (s.dispSt h).hact ∧
        (pixelAt (liveLayers s h) (s.dispSt h) (fun k i => (tget tabReset s.tabL (palKey h k i)).toNat) (s.rdL (dispB h) R.DISP_BG_RGB) n x).isNone = true ∧ ((List.range x).any fun x => (pixelAt (liveLayers s h) (s.dispSt h) (fun k i => (tget tabReset s.tabL (palKey h k i)).toNat) (s.rdL (dispB h) R.DISP_BG_RGB) n x).isNone) = false) ∧
    (∃ (h : Hub) (n : Nat) (s : State), s.on (dispB h) R.DISP_STATUS_RUN = true ∧ nextLine s h = some n ∧
        n < (s.dispSt h).vact) ∧
    (∃ (h : Hub) (n : Nat) (s : State), s.on (dispB h) R.DISP_STATUS_RUN = true ∧ nextLine s h = some n ∧
        (s.dispSt h).vact ≤ n ∧ vrrOn s h = false) ∧
    (∃ (h : Hub) (n : Nat) (s : State), s.on (dispB h) R.DISP_STATUS_RUN = true ∧ nextLine s h = some n ∧
        (s.dispSt h).vact ≤ n ∧ vrrOn s h = true) ∧
    (∃ (h : Hub) (s : State), (s.on (dispB h) R.DISP_STATUS_RUN = false ∨ nextLine s h = none)) ∧
    (∃ (h : Hub) (n : Nat) (s : State), s.on (dispB h) R.DISP_STATUS_RUN = true ∧ nextLine s h = some n ∧
        (s.dispSt h).line < (s.dispSt h).vact + (s.dispSt h).porch.getD (s.dispSt h).vfp + (s.dispSt h).vsync + (s.dispSt h).vbp) ∧
    (∃ (h : Hub) (x : BitVec 13) (s : State), s.on (dispB h) R.DISP_STATUS_RUN = true ∧
        (s.dispSt h).line < (s.dispSt h).vact ∧ x.toNat < (s.dispSt h).hact) ∧
    (∃ (h : Hub) (x : BitVec 13) (s : State), (s.on (dispB h) R.DISP_STATUS_RUN = false ∨
        (s.dispSt h).vact ≤ (s.dispSt h).line ∨ (s.dispSt h).hact ≤ x.toNat)) ∧
    (∃ (h : Hub) (s : State), s.hasHub h = true) ∧
    (∃ (h : Hub) (s : State), s.hasHub h = true) ∧
    (∃ (h : Hub) (s : State), s.hasHub h = false) ∧
    (∃ (h : Hub) (u : Bool) (s : State), s.hasHub h = true ∧ s.on (dispB h) R.DISP_LINK_STATUS_HPD ≠ u) ∧
    (∃ (h : Hub) (u : Bool) (s : State), (s.hasHub h = false ∨ s.on (dispB h) R.DISP_LINK_STATUS_HPD = u)) :=
  ⟨⟨(0 : Hub), State.reset, by decide +kernel⟩,
    ⟨(0 : Hub), (State.reset.wr (dispB 0) R.DISP_STATUS_RUN 1), by decide +kernel⟩,
    ⟨(0 : Hub), (State.reset.wr (dispB 0) R.DISP_STATUS_RUN 1), by decide +kernel⟩,
    ⟨(0 : Hub), State.reset, by decide +kernel⟩,
    ⟨(0 : Hub), (0x5F : BitVec 8),
        (4 : Fin 8), ((State.reset.wr (dispB 0) R.DISP_STATUS_RUN 1).wr (dispB 0) R.DISP_LINK_RATE 5).wrs (dispB 0) [(R.DISP_PCLK_FRAC, 100), (R.DISP_LINK_RATE, 5)], by decide +kernel⟩,
    ⟨(0 : Hub), (0 : BitVec 8), (State.reset.wr (dispB 0) R.DISP_STATUS_RUN 1), by decide +kernel⟩,
    ⟨(0 : Hub), State.reset, by decide +kernel⟩,
    ⟨(0 : Hub), (State.reset.wr (dispB 0) R.DISP_STATUS_RUN 1), by decide +kernel⟩,
    ⟨(0 : Hub), (State.reset.wr (layerB 0 3) R.DISP_LAYER_k_BASE_BASE 7).wr (dispB 0) R.DISP_SHADOW_DIRTY 15,
        by decide +kernel⟩,
    ⟨(1 : Hub), { State.reset with part := .s4d }, by decide +kernel⟩,
    ⟨(1 : Hub), { State.reset with part := .s4d }, by decide +kernel⟩,
    ⟨(0 : Hub), ((State.reset.wr (dispB 0) R.DISP_STATUS_RUN 1).wr (layerB 0 3) R.DISP_LAYER_k_BASE_BASE 7).wr (dispB 0) R.DISP_SHADOW_PENDING 9, by decide +kernel⟩,
    ⟨(0 : Hub), State.reset, by decide +kernel⟩,
    ⟨(0 : Hub), (((State.reset.wr (dispB 0) R.DISP_STATUS_RUN 1).wr (dispB 0) R.DISP_CTRL_VRR 1).modDisp 0 fun q => { q with adaptive := true, line := 80 }).wr (dispB 0) R.DISP_SHADOW_PENDING 9, by decide +kernel⟩,
    ⟨(0 : Hub), (State.reset.wr (dispB 0) R.DISP_STATUS_RUN 1), by decide +kernel⟩,
    ⟨(0 : Hub), (((State.reset.wr (dispB 0) R.DISP_STATUS_RUN 1).wr (dispB 0) R.DISP_CTRL_VRR 1).modDisp 0 fun q => { q with adaptive := true, line := 80 }), by decide +kernel⟩,
    ⟨(0 : Hub), (State.reset.wr (dispB 0) R.DISP_STATUS_RUN 1), by decide +kernel⟩,
    ⟨(0 : Hub), (1 : Nat), (State.reset.wr (dispB 0) R.DISP_STATUS_RUN 1), by decide +kernel⟩,
    ⟨(0 : Hub), (1 : Nat), (State.reset.wr (dispB 0) R.DISP_STATUS_RUN 1), by decide +kernel⟩,
    ⟨(0 : Hub), (1 : Nat), (0 : Nat),
        let s : State := (State.reset.wr (dispB 0) R.DISP_STATUS_RUN 1).wr (layerB 0 1) R.DISP_LAYER_k_CTRL_EN 1; { s with live := s.regs }, by decide +kernel, by decide +kernel, by decide +kernel, by decide +kernel, by decide +kernel, by decide +kernel⟩,
    ⟨(0 : Hub), (1 : Nat), (State.reset.wr (dispB 0) R.DISP_STATUS_RUN 1), by decide +kernel⟩,
    ⟨(0 : Hub), (65 : Nat),
        ((State.reset.wr (dispB 0) R.DISP_STATUS_RUN 1) |>.modDisp 0 fun q => { q with line := 64 }),
        by decide +kernel⟩,
    ⟨(0 : Hub), (81 : Nat),
        (((State.reset.wr (dispB 0) R.DISP_STATUS_RUN 1).wr (dispB 0) R.DISP_CTRL_VRR 1).modDisp 0 fun q => { q with adaptive := true, line := 80 }).modDisp 0 fun q => { q with vfpMax := 900 }, by decide +kernel⟩,
    ⟨(0 : Hub), State.reset, by decide +kernel⟩,
    ⟨(0 : Hub), (65 : Nat),
        ((State.reset.wr (dispB 0) R.DISP_STATUS_RUN 1) |>.modDisp 0 fun q => { q with line := 64 }),
        by decide +kernel⟩,
    ⟨(0 : Hub), (63 : BitVec 13), (State.reset.wr (dispB 0) R.DISP_STATUS_RUN 1), by decide +kernel⟩,
    ⟨(0 : Hub), (63 : BitVec 13), State.reset, by decide +kernel⟩,
    ⟨(0 : Hub), State.reset.wrs (dispB 0) [(R.DISP_PAL_ADDR_ENTRY, 255),
        (R.DISP_PAL_ADDR_LAYER, 3)], by decide +kernel⟩,
    ⟨(0 : Hub), State.reset.wrs (dispB 0) [(R.DISP_PAL_ADDR_ENTRY, 255),
        (R.DISP_PAL_ADDR_LAYER, 3)], by decide +kernel⟩,
    ⟨(1 : Hub), { State.reset with part := .s4d }, by decide +kernel⟩,
    ⟨(0 : Hub), false, State.reset.wr (dispB 0) R.DISP_LINK_STATUS_HPD 1, by decide +kernel⟩,
    ⟨(0 : Hub), false, State.reset, by decide +kernel⟩⟩

theorem wit_HkRowsComplete :
    (∃ (h : Hub) (s : State), s.hasHub h = true ∧ inAon s = false) ∧
    (∃ (h : Hub) (s : State), (s.hasHub h = false ∨ inAon s = true)) ∧
    (∃ (h : Hub) (c : Fin 2) (s : State), s.hasHub h = true ∧ inAon s = false ∧ s.rd (hkB h c) R.HK_c_CTRL_TRIG = 1) ∧
    (∃ (h : Hub) (c : Fin 2) (s : State), (s.hasHub h = false ∨ inAon s = true ∨
        s.rd (hkB h c) R.HK_c_CTRL_TRIG ≠ 1)) ∧
    (∃ (h : Hub) (c : Fin 2) (s : State), s.hasHub h = true ∧ (s.hkSt h c).waits = true) ∧
    (∃ (h : Hub) (c : Fin 2) (s : State), (s.hasHub h = false ∨ (s.hkSt h c).waits = false)) ∧
    (∃ (h : Hub) (c : Fin 2) (v : Rat) (s : State), s.hasHub h = true ∧ (s.hkSt h c).runs = true ∧
        (s.hkSt h c).entry < 16 ∧
        (tempDie h (s.hkSt h c).chan).all (fun d => !tempThere s d || decide (hkValue (s.hkSt h c).chan (hkCode (s.hkSt h c).chan 0 v) ≤ tempLimit s)) = true) ∧
    (∃ (h : Hub) (c : Fin 2) (v : Rat) (s : State), s.hasHub h = true ∧ (s.hkSt h c).runs = true ∧
        (s.hkSt h c).entry < 16 ∧
        (tempDie h (s.hkSt h c).chan).all (fun d => !tempThere s d || decide (hkValue (s.hkSt h c).chan (hkCode (s.hkSt h c).chan 0 v) ≤ tempLimit s)) = true) ∧
    (∃ (h : Hub) (c : Fin 2) (v : Rat) (s : State), s.hasHub h = true ∧ (s.hkSt h c).runs = true ∧
        (s.hkSt h c).entry < 16 ∧
        (tempDie h (s.hkSt h c).chan).all (fun d => !tempThere s d || decide (hkValue (s.hkSt h c).chan (hkCode (s.hkSt h c).chan 0 v) ≤ tempLimit s)) = true) ∧
    (∃ (h : Hub) (c : Fin 2) (v : Rat) (d : Nat) (x : Int) (u : State) (s : State), s.hasHub h = true ∧
        (s.hkSt h c).runs = true ∧ tempDie h (s.hkSt h c).chan = some d ∧ tempThere s d = true ∧
        x = hkValue (s.hkSt h c).chan (hkCode (s.hkSt h c).chan 0 v) ∧ u = (hkResult h c v s).2) ∧
    (∃ (h : Hub) (c : Fin 2) (s : State), (s.hasHub h = false ∨ (s.hkSt h c).runs = false)) ∧
    (∃ (h : Hub) (k : Fin 8) (s : State), (s.pairSt h k).waiting ≠ none ∧ s.on (pairB h k) R.HK_PL_k_CFG_EN = true) ∧
    (∃ (h : Hub) (k : Fin 8) (s : State), ((s.pairSt h k).waiting = none ∨
        s.on (pairB h k) R.HK_PL_k_CFG_EN = false)) ∧
    (∃ (h : Hub) (p : Fin 4) (s : State), s.hasHub h = true ∧ s.on (pwmB h p) R.HK_PWM_p_CFG_EN = true ∧
        inAon s = false ∧ pwmForced s h p = false) ∧
    (∃ (h : Hub) (p : Fin 4) (s : State), s.hasHub h = true ∧ s.on (pwmB h p) R.HK_PWM_p_CFG_EN = true ∧
        inAon s = false ∧ pwmForced s h p = false) ∧
    (∃ (h : Hub) (p : Fin 4) (s : State), s.hasHub h = true ∧ (s.on (pwmB h p) R.HK_PWM_p_CFG_EN = false ∨
        inAon s = true ∨ pwmForced s h p = true)) ∧
    (∃ (h : Hub) (s : State), s.hasHub h = false) :=
  ⟨⟨(0 : Hub), (State.reset.wr (pwrB 0) R.PWR_STATE_STATE 2).wr (hkB 0 1) R.HK_c_CTRL_EN 1, by decide +kernel⟩,
    ⟨(0 : Hub), State.reset.wr (pwrB 0) R.PWR_STATE_STATE 0, by decide +kernel⟩,
    ⟨(0 : Hub), (1 : Fin 2), ((State.reset.wr (pwrB 0) R.PWR_STATE_STATE 2).wrs (hkB 0 1) [(R.HK_c_CTRL_EN, 1),
        (R.HK_c_CTRL_TRIG, 1), (R.HK_c_CTRL_LEN, 3)]), by decide +kernel⟩,
    ⟨(0 : Hub), (1 : Fin 2), State.reset, by decide +kernel⟩,
    ⟨(0 : Hub), (1 : Fin 2), ((State.reset.wr (pwrB 0) R.PWR_STATE_STATE 2).wrs (hkB 0 1) [(R.HK_c_CTRL_EN, 1),
        (R.HK_c_CTRL_TRIG, 1), (R.HK_c_CTRL_LEN, 3)]).modHk 0 1 fun q => { q with waits := true }, by decide +kernel⟩,
    ⟨(0 : Hub), (1 : Fin 2), State.reset, by decide +kernel⟩,
    ⟨(0 : Hub), (1 : Fin 2), 3 / 5, ((State.reset.wr (pwrB 0) R.PWR_STATE_STATE 2).wrs (hkB 0 1) [(R.HK_c_CTRL_EN, 1),
        (R.HK_c_CTRL_TRIG, 1), (R.HK_c_CTRL_LEN, 3)]).modHk 0 1 fun q => { q with runs := true, entry := 1, chan := 17 }, by decide +kernel⟩,
    ⟨(0 : Hub), (1 : Fin 2), 3 / 5, ((State.reset.wr (pwrB 0) R.PWR_STATE_STATE 2).wrs (hkB 0 1) [(R.HK_c_CTRL_EN, 1),
        (R.HK_c_CTRL_TRIG, 1), (R.HK_c_CTRL_LEN, 3)]).modHk 0 1 fun q => { q with runs := true, entry := 1, chan := 17 }, by decide +kernel⟩,
    ⟨(0 : Hub), (1 : Fin 2), 3 / 5, ((State.reset.wr (pwrB 0) R.PWR_STATE_STATE 2).wrs (hkB 0 1) [(R.HK_c_CTRL_EN, 1),
        (R.HK_c_CTRL_TRIG, 1), (R.HK_c_CTRL_LEN, 3)]).modHk 0 1 fun q => { q with runs := true, entry := 1, chan := 17 }, by decide +kernel⟩,
    ⟨(0 : Hub), (1 : Fin 2),
        (130 : Rat), (0 : Nat),
        (2047 : Int), (hkResult 0 1 130 (((State.reset.wr (pwrB 0) R.PWR_STATE_STATE 2).wrs (hkB 0 1) [(R.HK_c_CTRL_EN, 1), (R.HK_c_CTRL_TRIG, 1), (R.HK_c_CTRL_LEN, 3)]).modHk 0 1 fun q => { q with runs := true, entry := 1, chan := 20 })).2, ((State.reset.wr (pwrB 0) R.PWR_STATE_STATE 2).wrs (hkB 0 1) [(R.HK_c_CTRL_EN, 1), (R.HK_c_CTRL_TRIG, 1), (R.HK_c_CTRL_LEN, 3)]).modHk 0 1 fun q => { q with runs := true, entry := 1, chan := 20 }, by decide +kernel, by decide +kernel, by decide +kernel, by decide +kernel, by decide +kernel, by decide +kernel⟩,
    ⟨(0 : Hub), (1 : Fin 2), State.reset, by decide +kernel⟩,
    ⟨(0 : Hub), (7 : Fin 8),
        (State.reset.wr (pairB 0 7) R.HK_PL_k_CFG_EN 1).modPair 0 7 fun q => { q with waiting := some (0, 5) },
        by decide +kernel⟩,
    ⟨(0 : Hub), (7 : Fin 8), State.reset, by decide +kernel⟩,
    ⟨(0 : Hub), (3 : Fin 4), (State.reset.wr (pwrB 0) R.PWR_STATE_STATE 2).wrs (pwmB 0 3) [(R.HK_PWM_p_CFG_EN, 1),
        (R.HK_PWM_p_DUTY_DUTY, 5)], by decide +kernel⟩,
    ⟨(0 : Hub), (3 : Fin 4), (State.reset.wr (pwrB 0) R.PWR_STATE_STATE 2).wrs (pwmB 0 3) [(R.HK_PWM_p_CFG_EN, 1),
        (R.HK_PWM_p_DUTY_DUTY, 5)], by decide +kernel⟩,
    ⟨(0 : Hub), (3 : Fin 4), (State.reset.wr (pwrB 0) R.PWR_STATE_STATE 2).wrs (pwmB 0 3) [(R.HK_PWM_p_CFG_IDLE, 1)],
        by decide +kernel⟩,
    ⟨(1 : Hub), { State.reset with part := .s4d }, by decide +kernel⟩⟩

theorem wit_FaultRowsComplete :
    (∃ (e : Event) (l : List Event) (s : State), s.flight = e :: l) ∧
    (∃ (e : Event) (l : List Event) (s : State), s.flight = e :: l ∧ s.lead < 2 ∧ s.hasHub s.lead = true) ∧
    (∃ (e : Event) (l : List Event) (s : State), s.flight = e :: l ∧ s.lead < 2 ∧ s.hasHub s.lead = true) ∧
    (∃ (e : Event) (l : List Event) (s : State), s.flight = e :: l ∧ s.lead < 2 ∧ s.hasHub s.lead = true ∧
        (srcAfter s (Fin.ofNat 2 s.lead) e.source).1.cls = 2) ∧
    (∃ (n : Nat) (s : State), s.flight ≠ [] ∧ n ≠ 0 ∧ (∀ g : Hub, ∀ k : Fin 256, (s.srcSt g k).events < 2 ^ 32)) ∧
    (∃ (e : Event) (f : Event) (l : List Event) (s : State), s.flight = e :: f :: l ∧ e.source ≠ f.source ∧
        s.lead < 2 ∧ s.hasHub s.lead = true ∧ s.on (fcolB s.lead) R.FCOL_FIRST_VALID = false ∧
        (s.fcolSt s.lead).log.length < 255) ∧
    (∃ (n : Nat) (s : State), (s.flight = [] ∨ n = 0)) ∧
    (∃ (h : Hub) (s : State), s.hasHub h = true) ∧
    (∃ (h : Hub) (s : State), s.hasHub h = false) ∧
    (∃ (h : Hub) (n : BitVec 8) (q : FaultSrc) (r : Nat) (m : Nat) (s : State), s.hasHub h = true ∧
        q = s.srcSt h n.toNat ∧ q.state = 1 ∧ s.rd (profB h q.profile) R.FCOL_QUIET_p_QUIET_MS ≠ 0 ∧
        q.eventAt ≠ some s.time.frc ∧ r = min 255 (q.recoveries + 1) ∧
        m = s.rd (profB h q.profile) R.FCOL_PROF_p_RECOVER_LIMIT) ∧
    (∃ (h : Hub) (n : BitVec 8) (s : State), (s.hasHub h = false ∨ (s.srcSt h n.toNat).state ≠ 1 ∨
        s.rd (profB h (s.srcSt h n.toNat).profile) R.FCOL_QUIET_p_QUIET_MS = 0 ∨
        (s.srcSt h n.toNat).eventAt = some s.time.frc)) ∧
    (∃ (s : State), s.aliveRuns = true ∧ s.on (fcolB s.lead) R.FCOL_STATUS_ALIVE_STOP = false) ∧
    (∃ (s : State), (s.aliveRuns = false ∨ s.on (fcolB s.lead) R.FCOL_STATUS_ALIVE_STOP = true)) ∧
    (∃ (h : Hub) (s : State), s.hasHub h = true) ∧
    (∃ (h : Hub) (s : State), s.hasHub h = false) ∧
    (∃ (h : Hub) (s : State), h.val = s.lead ∧ s.on (fcolB h) R.FCOL_STATUS_ANY_SEVERE = false) ∧
    (∃ (h : Hub) (s : State), (h.val ≠ s.lead ∨ s.on (fcolB h) R.FCOL_STATUS_ANY_SEVERE = true)) ∧
    (∃ (h : Hub) (s : State), s.hasHub h = true) ∧
    (∃ (h : Hub) (s : State), s.hasHub h = false) ∧
    (∃ (d : TDie) (p : Fin 4) (s : State), s.usableT d = true ∧ s.brokenPipes.contains (4 * d.val + p.val) = false) ∧
    (∃ (d : TDie) (p : Fin 4) (s : State), (s.usableT d = false ∨
        s.brokenPipes.contains (4 * d.val + p.val) = true)) ∧
    (∃ (h : Hub) (s : State), (plannerRuns s = false ∨ (s.repairSt h).faults = [])) ∧
    (∃ (h : Hub) (f : Repair) (l : List Repair) (s : State), plannerRuns s = true ∧ (s.repairSt h).faults = f :: l ∧
        repairNeeded s f = false) ∧
    (∃ (h : Hub) (f : Repair) (l : List Repair) (s : State), plannerRuns s = true ∧ (s.repairSt h).faults = f :: l ∧
        repairNeeded s f = true ∧ (placeSpare f s).isNone = true) ∧
    (∃ (h : Hub) (f : Repair) (l : List Repair) (d : Nat) (i : Nat) (s : State), plannerRuns s = true ∧
        (s.repairSt h).faults = f :: l ∧ repairKind f.source = some (0, d) ∧ i = inputOf d ∧ repairNeeded s f = true ∧
        (hotSpares s i) ≠ [] ∧ s.usableT (leadOf i) = true ∧ tAnswers s (leadOf i) = true ∧ s.resetLow = false) ∧
    (∃ (h : Hub) (f : Repair) (l : List Repair) (d : Nat) (m : Nat) (s : State), plannerRuns s = true ∧
        (s.repairSt h).faults = f :: l ∧ repairKind f.source = some (3, d) ∧ repairNeeded s f = true ∧ m < 128 ∧
        zoomFree s d m = true ∧ m ≠ f.detail ∧ f.detail < 128 ∧ (∀ n : Fin 128, n.val < m → zoomFree s d n = false ∨
        n.val = f.detail) ∧ (s.repairSt h).active ≠ none) ∧
    (∃ (h : Hub) (f : Repair) (l : List Repair) (d : Nat) (s : State), plannerRuns s = true ∧
        (s.repairSt h).faults = f :: l ∧ repairKind f.source = some (1, d) ∧ repairNeeded s f = true ∧
        (∃ k : Fin 132, s.onC d k R.CORE_c_STATUS_SPARE = true ∧ k.val ≠ f.detail)) ∧
    (∃ (h : Hub) (f : Repair) (s : State), plannerRuns s = true ∧ (s.repairSt h).active = some f ∧ s.lead < 2) ∧
    (∃ (h : Hub) (f : Repair) (s : State), plannerRuns s = true ∧ (s.repairSt h).active = some f ∧
        (s.repairSt h).queue = []) ∧
    (∃ (h : Hub) (s : State), (plannerRuns s = false ∨ (s.repairSt h).active = none)) :=
  ⟨⟨⟨84, 5, 99⟩, [], { State.reset with flight := [⟨84, 5, 99⟩] }, by decide +kernel⟩,
    ⟨⟨3, 5, 99⟩, [], { State.reset with flight := [⟨3, 5, 99⟩] }, by decide +kernel⟩,
    ⟨⟨3, 5, 99⟩, [], { State.reset with flight := [⟨3, 5, 99⟩] }, by decide +kernel⟩,
    ⟨⟨36, 5, 99⟩, [], { State.reset with flight := [⟨36, 5, 99⟩] }, by decide +kernel⟩,
    ⟨(2 : Nat), { State.reset with flight := [⟨84, 5, 99⟩, ⟨3, 5, 99⟩] }, by decide +kernel⟩,
    ⟨⟨84, 5, 99⟩, ⟨3, 5, 99⟩, [], { State.reset with flight := [⟨84, 5, 99⟩, ⟨3, 5, 99⟩] },
        by decide +kernel, by decide +kernel, by decide +kernel, by decide +kernel, by decide +kernel,
        by decide +kernel⟩,
    ⟨(1 : Nat), State.reset, by decide +kernel⟩,
    ⟨(1 : Hub), State.reset.modSrc 1 84 fun q => { q with window := some 4 }, by decide +kernel⟩,
    ⟨(1 : Hub), { State.reset with part := .s4d }, by decide +kernel⟩,
    ⟨(1 : Hub), (84 : BitVec 8), { State.reset.srcSt 1 84 with state := 1 }, (1 : Nat),
        State.reset.rd (profB 1 (State.reset.srcSt 1 84).profile) R.FCOL_PROF_p_RECOVER_LIMIT, (State.reset.modSrc 1 84 fun q => { q with state := 1 }).wr (profB 1 (State.reset.srcSt 1 84).profile) R.FCOL_QUIET_p_QUIET_MS 5, by decide +kernel, by decide +kernel, by decide +kernel, by decide +kernel, by decide +kernel, by decide +kernel, by decide +kernel⟩,
    ⟨(1 : Hub), (84 : BitVec 8), State.reset, by decide +kernel⟩,
    ⟨{ State.reset with aliveRuns := true }, by decide +kernel⟩,
    ⟨State.reset, by decide +kernel⟩,
    ⟨(1 : Hub), State.reset.wr (fcolB 1) R.FCOL_FIRST_VALID 1, by decide +kernel⟩,
    ⟨(1 : Hub), { State.reset with part := .s4d }, by decide +kernel⟩,
    ⟨(0 : Hub), State.reset.wr (fcolB 1) R.FCOL_STATUS_ALIVE_STOP 1, by decide +kernel⟩,
    ⟨(1 : Hub), State.reset, by decide +kernel⟩,
    ⟨(1 : Hub), (State.reset.modSrc 1 84 fun q => { q with state := 1 }).wr (fcolB 1) R.FCOL_SRC_SEL_SOURCE 84,
        by decide +kernel⟩,
    ⟨(1 : Hub), { State.reset with part := .s4d }, by decide +kernel⟩,
    ⟨(3 : TDie), (2 : Fin 4), { State.reset with powered := 0xFF }, by decide +kernel⟩,
    ⟨(3 : TDie), (2 : Fin 4), { State.reset with powered := 0xFF, brokenPipes := [14] }, by decide +kernel⟩,
    ⟨(1 : Hub), State.reset, by decide +kernel⟩,
    ⟨(1 : Hub), ⟨104, 0⟩, [], plannerUp.modRepair 1 fun q => { q with faults := [⟨104, 0⟩] }, by decide +kernel⟩,
    ⟨(1 : Hub), ⟨97, 5⟩, [], plannerUp.modRepair 1 fun q => { q with faults := [⟨97, 5⟩] }, by decide +kernel⟩,
    ⟨(0 : Hub), ⟨96, 0⟩, [], (0 : Nat),
        (0 : Nat), let s := (plannerUp.modRepair 0 fun q => { q with faults := [⟨96, 0⟩] }).wr (planNB 31) R.PLAN_n_STATE_STATE 4; (({ s with powered := 0xFF } : State).wrs (wbB 0) [(R.WB_PIPE_MAP_LOCAL, 3)]).wrs (planNB 31) [(R.PLAN_n_CFG_SPARES, 1), (R.PLAN_n_CFG_INPUTS, 1)], by decide +kernel, by decide +kernel, by decide +kernel, by decide +kernel, by decide +kernel, by decide +kernel, by decide +kernel, by decide +kernel, by decide +kernel⟩,
    ⟨(0 : Hub), ⟨99, 5⟩, [], (0 : Nat),
        (0 : Nat), let s : State := (plannerUp.modRepair 0 fun q => { q with faults := [⟨99, 5⟩], active := some ⟨97, 1⟩ }); { s with force := [(zcB 0 5 + R.ZC_n_CTRL_EN.off, 1)] }, by decide +kernel, by decide +kernel, by decide +kernel, by decide +kernel, by decide +kernel, by decide +kernel, by decide +kernel, by decide +kernel, by decide +kernel, by decide +kernel⟩,
    ⟨(1 : Hub), ⟨97, 5⟩, [], (0 : Nat),
        (plannerUp.modRepair 1 fun q => { q with faults := [⟨97, 5⟩] }).wrC 0 130 R.CORE_c_STATUS_SPARE 1,
        by decide +kernel⟩,
    ⟨(1 : Hub), ⟨96, 0⟩, plannerUp.modRepair 1 fun q => { q with active := some ⟨96, 0⟩, queue := [⟨97, 1⟩] },
        by decide +kernel⟩,
    ⟨(1 : Hub), ⟨96, 0⟩, plannerUp.modRepair 1 fun q => { q with active := some ⟨96, 0⟩ }, by decide +kernel⟩,
    ⟨(1 : Hub), State.reset, by decide +kernel⟩⟩

theorem wit_SpiRowsComplete :
    (∃ (h : Hub) (s : State), spiWorks s h = true ∧ spiReady s = true ∧ (s.spiSt h).posted = []) ∧
    (∃ (h : Hub) (s : State), spiWorks s h = true ∧ spiReady s = true ∧ (s.spiSt h).posted = []) ∧
    (∃ (h : Hub) (s : State), spiWorks s h = true ∧ spiReady s = true ∧ (s.spiSt h).posted ≠ []) ∧
    (∃ (h : Hub) (s : State), spiWorks s h = true ∧ spiReady s = false) ∧
    (∃ (h : Hub) (s : State), spiWorks s h = false) ∧
    (∃ (h : Hub) (s : State), spiWorks s h = true ∧ spiReady s = true ∧ (s.spiSt h).posted = []) ∧
    (∃ (h : Hub) (s : State), spiWorks s h = true ∧ spiReady s = true ∧ (s.spiSt h).posted = []) ∧
    (∃ (h : Hub) (s : State), spiWorks s h = true ∧ spiReady s = true ∧ (s.spiSt h).posted ≠ []) ∧
    (∃ (h : Hub) (s : State), spiWorks s h = true ∧ spiReady s = false) ∧
    (∃ (h : Hub) (s : State), spiWorks s h = false) ∧
    (∃ (h : Hub) (s : State), spiWorks s h = true ∧ spiReady s = true) ∧
    (∃ (h : Hub) (s : State), spiWorks s h = true ∧ spiReady s = false) ∧
    (∃ (h : Hub) (s : State), spiWorks s h = false) ∧
    (∃ (h : Hub) (s : State), spiWorks s h = true ∧ spiReady s = true) ∧
    (∃ (h : Hub) (s : State), spiWorks s h = true ∧ spiReady s = false) ∧
    (∃ (h : Hub) (s : State), spiWorks s h = false) ∧
    (∃ (h : Hub) (s : State), spiWorks s h = true) ∧
    (∃ (h : Hub) (s : State), spiWorks s h = true) ∧
    (∃ (h : Hub) (a : BitVec 32) (v : State) (s : State), spiWorks s h = true ∧ spiReady s = true ∧
        v = hostRead (.spi h) a.toNat s) ∧
    (∃ (h : Hub) (s : State), (s.spiSt h).posted = []) ∧
    (∃ (h : Hub) (a : Nat) (v : Nat) (l : List (Nat × Nat)) (u : State) (s : State),
        (s.spiSt h).posted = (a, v) :: l ∧ u = hostWrite (.spi h) a v s) ∧
    (∃ (h : Hub) (s : State), spiWorks s h = false) ∧
    (∃ (h : Hub) (s : State), spiWorks s h = false) ∧
    (∃ (h : Hub) (s : State), (spiWorks s h = false ∨ spiReady s = false)) :=
  ⟨⟨(0 : Hub), { (bootAt 8) with rails := { enables := 1 }, resetLow := false }, by decide +kernel⟩,
    ⟨(0 : Hub), { (bootAt 8) with rails := { enables := 1 }, resetLow := false }, by decide +kernel⟩,
    ⟨(0 : Hub), ({ (bootAt 8) with rails := { enables := 1 }, resetLow := false } : State).modSpi 0 fun q => { q with posted := [(0xC, 3)] }, by decide +kernel⟩,
    ⟨(0 : Hub), ({ (bootAt 8) with rails := { enables := 1 }, resetLow := false } : State).wr (pwrB 0) R.PWR_STATE_STATE 0, by decide +kernel⟩,
    ⟨(0 : Hub), State.reset, by decide +kernel⟩,
    ⟨(0 : Hub), { (bootAt 8) with rails := { enables := 1 }, resetLow := false }, by decide +kernel⟩,
    ⟨(0 : Hub), { (bootAt 8) with rails := { enables := 1 }, resetLow := false }, by decide +kernel⟩,
    ⟨(0 : Hub), ({ (bootAt 8) with rails := { enables := 1 }, resetLow := false } : State).modSpi 0 fun q => { q with posted := [(0xC, 3)] }, by decide +kernel⟩,
    ⟨(0 : Hub), ({ (bootAt 8) with rails := { enables := 1 }, resetLow := false } : State).wr (pwrB 0) R.PWR_STATE_STATE 0, by decide +kernel⟩,
    ⟨(0 : Hub), State.reset, by decide +kernel⟩,
    ⟨(0 : Hub), { (bootAt 8) with rails := { enables := 1 }, resetLow := false }, by decide +kernel⟩,
    ⟨(0 : Hub), ({ (bootAt 8) with rails := { enables := 1 }, resetLow := false } : State).wr (pwrB 0) R.PWR_STATE_STATE 0, by decide +kernel⟩,
    ⟨(0 : Hub), State.reset, by decide +kernel⟩,
    ⟨(0 : Hub), { (bootAt 8) with rails := { enables := 1 }, resetLow := false }, by decide +kernel⟩,
    ⟨(0 : Hub), ({ (bootAt 8) with rails := { enables := 1 }, resetLow := false } : State).wr (pwrB 0) R.PWR_STATE_STATE 0, by decide +kernel⟩,
    ⟨(0 : Hub), State.reset, by decide +kernel⟩,
    ⟨(0 : Hub), { (bootAt 8) with rails := { enables := 1 }, resetLow := false }, by decide +kernel⟩,
    ⟨(0 : Hub), { (bootAt 8) with rails := { enables := 1 }, resetLow := false }, by decide +kernel⟩,
    ⟨(0 : Hub), (0xC : BitVec 32),
        hostRead (.spi 0) 0xC ({ (bootAt 8) with rails := { enables := 1 }, resetLow := false }),
        { (bootAt 8) with rails := { enables := 1 }, resetLow := false }, by decide +kernel⟩,
    ⟨(0 : Hub), State.reset, by decide +kernel⟩,
    ⟨(0 : Hub), (0xC : Nat),
        (3 : Nat), [], hostWrite (.spi 0) 0xC 3 (({ (bootAt 8) with rails := { enables := 1 }, resetLow := false } : State).modSpi 0 fun q => { q with posted := [(0xC, 3)] }), ({ (bootAt 8) with rails := { enables := 1 }, resetLow := false } : State).modSpi 0 fun q => { q with posted := [(0xC, 3)] }, by decide +kernel⟩,
    ⟨(0 : Hub), State.reset, by decide +kernel⟩,
    ⟨(0 : Hub), State.reset, by decide +kernel⟩,
    ⟨(0 : Hub), State.reset, by decide +kernel⟩⟩

theorem wit_MboxReadRowsComplete :
    (∃ (h : Hub) (p : Path) (s : State), mboxUp s h p) ∧
    (∃ (h : Hub) (p : Path) (s : State), mboxUp s h p) ∧
    (∃ (h : Hub) (p : Path) (s : State), mboxUp s h p) ∧
    (∃ (h : Hub) (p : Path) (s : State), mboxUp s h p) ∧
    (∃ (h : Hub) (p : Path) (s : State), mboxUp s h p) ∧
    (∃ (h : Hub) (p : Path) (s : State), mboxUp s h p) ∧
    (∃ (h : Hub) (p : Path) (s : State), mboxUp s h p) ∧
    (∃ (h : Hub) (p : Path) (s : State), mboxUp s h p) ∧
    (∃ (h : Hub) (p : Path) (s : State), mboxUp s h p) ∧
    (∃ (h : Hub) (p : Path) (s : State), mboxUp s h p) ∧
    (∃ (h : Hub) (p : Path) (s : State), mboxUp s h p) ∧
    (∃ (h : Hub) (p : Path) (n : Fin 8) (e : Nat) (l : List Nat) (s : State), mboxUp s h p ∧
        (s.tdcIn (8 * h + n)).fifo = e :: l) ∧
    (∃ (h : Hub) (p : Path) (n : Fin 8) (s : State), mboxUp s h p ∧ (s.tdcIn (8 * h + n)).fifo = []) ∧
    (∃ (h : Hub) (p : Path) (m : Fin 4) (e : Nat) (l : List Nat) (s : State), mboxUp s h p ∧
        (s.ivUnit h m).fifo = e :: l) ∧
    (∃ (h : Hub) (p : Path) (m : Fin 4) (s : State), mboxUp s h p ∧ (s.ivUnit h m).fifo = []) ∧
    (∃ (h : Hub) (p : Path) (s : State), mboxUp s h p) ∧
    (∃ (h : Hub) (p : Path) (s : State), mboxUp s h p) ∧
    (∃ (h : Hub) (p : Path) (s : State), mboxUp s h p) ∧
    (∃ (h : Hub) (p : Path) (s : State), mboxUp s h p) ∧
    (∃ (h : Hub) (p : Path) (s : State), mboxUp s h p) ∧
    (∃ (h : Hub) (p : Path) (s : State), mboxUp s h p) ∧
    (∃ (h : Hub) (p : Path) (s : State), mboxUp s h p) ∧
    (∃ (h : Hub) (p : Path) (s : State), mboxUp s h p) ∧
    (∃ (h : Hub) (p : Path) (s : State), mboxUp s h p) ∧
    (∃ (h : Hub) (p : Path) (s : State), mboxUp s h p) ∧
    (∃ (h : Hub) (p : Path) (e : List Byte) (l : List (List Byte)) (s : State), mboxUp s h p ∧
        (s.fcolSt h).log = e :: l) ∧
    (∃ (h : Hub) (p : Path) (s : State), mboxUp s h p ∧ (s.fcolSt h).log = []) ∧
    (∃ (h : Hub) (p : Path) (i : Instr) (s : State), mboxRow false i = some (h, p) ∧ (s.resetLow = true ∨
        pathReaches s p (mboxB h) = false)) ∧
    (∃ (h : Hub) (p : Path) (i : Instr) (s : State), mboxRow false i = some (h, p) ∧ s.resetLow = false ∧
        pathReaches s p (mboxB h) = true ∧ s.hasHub h = false) ∧
    (∃ (h : Hub) (p : Path) (c : Nat) (i : Nat) (l : List Nat) (e : Bool) (s : State), s.hasHub h = true ∧
        (s.mboxSt h (bankOf p)).busy = some ⟨c, i, false, l, e, false⟩) ∧
    (∃ (h : Hub) (p : Path) (o : Bool) (i : Nat) (s : State), s.hasHub h = true ∧
        (s.mboxSt h (bankOf p)).busy = some ⟨if o then 33 else 32, i, false, [], false, true⟩) ∧
    (∃ (h : Hub) (p : Path) (s : State), (s.hasHub h = false ∨ (s.mboxSt h (bankOf p)).busy = none)) ∧
    (∃ (h : Hub) (p : Path) (s : State), mboxUp s h p ∧ (s.mboxSt h (bankOf p)).words ≤ 12) ∧
    (∃ (h : Hub) (p : Path) (s : State), (s.resetLow = true ∨ pathReaches s p (mboxB h) = false)) :=
  ⟨⟨(1 : Hub), .spi 1, State.reset, by decide +kernel⟩,
    ⟨(1 : Hub), .spi 1, State.reset, by decide +kernel⟩,
    ⟨(1 : Hub), .spi 1, State.reset, by decide +kernel⟩,
    ⟨(1 : Hub), .spi 1, State.reset, by decide +kernel⟩,
    ⟨(1 : Hub), .spi 1, State.reset, by decide +kernel⟩,
    ⟨(1 : Hub), .spi 1, State.reset, by decide +kernel⟩,
    ⟨(1 : Hub), .spi 1, State.reset, by decide +kernel⟩,
    ⟨(1 : Hub), .spi 1, State.reset, by decide +kernel⟩,
    ⟨(1 : Hub), .spi 1, State.reset, by decide +kernel⟩,
    ⟨(1 : Hub), .spi 1, State.reset, by decide +kernel⟩,
    ⟨(1 : Hub), .spi 1, State.reset, by decide +kernel⟩,
    ⟨(1 : Hub), .spi 1, (7 : Fin 8),
        5 * 2 ^ 96, [6], State.reset.modTdc 15 fun q => { q with fifo := [5 * 2 ^ 96, 6] }, by decide +kernel⟩,
    ⟨(1 : Hub), .spi 1, (7 : Fin 8), State.reset, by decide +kernel⟩,
    ⟨(1 : Hub), .spi 1, (3 : Fin 4),
        5 * 2 ^ 96, [6], State.reset.modIv 1 3 fun q => { q with fifo := [5 * 2 ^ 96, 6] }, by decide +kernel⟩,
    ⟨(1 : Hub), .spi 1, (3 : Fin 4), State.reset, by decide +kernel⟩,
    ⟨(1 : Hub), .spi 1, State.reset, by decide +kernel⟩,
    ⟨(1 : Hub), .spi 1, State.reset, by decide +kernel⟩,
    ⟨(1 : Hub), .spi 1, State.reset, by decide +kernel⟩,
    ⟨(1 : Hub), .spi 1, State.reset, by decide +kernel⟩,
    ⟨(1 : Hub), .spi 1, State.reset, by decide +kernel⟩,
    ⟨(1 : Hub), .spi 1, State.reset, by decide +kernel⟩,
    ⟨(1 : Hub), .spi 1, State.reset, by decide +kernel⟩,
    ⟨(1 : Hub), .spi 1, State.reset, by decide +kernel⟩,
    ⟨(1 : Hub), .spi 1, State.reset, by decide +kernel⟩,
    ⟨(1 : Hub), .spi 1, State.reset, by decide +kernel⟩,
    ⟨(1 : Hub), .spi 1, [1, 2], [[3]], State.reset.modFcol 1 fun q => { q with log := [[1, 2], [3]] },
        by decide +kernel⟩,
    ⟨(1 : Hub), .spi 1, State.reset, by decide +kernel⟩,
    ⟨(1 : Hub), .spi 1, .timeNow 1 (.spi 1), { State.reset with resetLow := true }, by decide +kernel⟩,
    ⟨(1 : Hub), .planner, .timeNow 1 (.planner), { State.reset with part := .s4d }, by decide +kernel⟩,
    ⟨(1 : Hub), .planner, (2 : Nat),
        (0 : Nat), [7, 8], false, State.reset.modMbox 1 0 fun q => { q with busy := some ⟨2, 0, false, [7, 8], false, false⟩ }, by decide +kernel⟩,
    ⟨(1 : Hub), .planner, true, (0 : Nat),
        State.reset.modMbox 1 0 fun q => { q with busy := some ⟨33, 0, false, [], false, true⟩ }, by decide +kernel⟩,
    ⟨(0 : Hub), .planner, State.reset, by decide +kernel⟩,
    ⟨(1 : Hub), .spi 1, State.reset.modMbox 1 5 fun q => { q with valid := true, words := 12, data := [(11, 77)] },
        by decide +kernel⟩,
    ⟨(1 : Hub), .spi 1, { State.reset with resetLow := true }, by decide +kernel⟩⟩

theorem wit_MboxWriteRowsComplete :
    (∃ (h : Hub) (p : Path) (s : State), mboxUp s h p) ∧
    (∃ (h : Hub) (p : Path) (s : State), mboxUp s h p) ∧
    (∃ (h : Hub) (p : Path) (s : State), mboxUp s h p) ∧
    (∃ (h : Hub) (p : Path) (s : State), mboxUp s h p) ∧
    (∃ (h : Hub) (p : Path) (s : State), mboxUp s h p) ∧
    (∃ (h : Hub) (p : Path) (s : State), mboxUp s h p) ∧
    (∃ (h : Hub) (p : Path) (s : State), mboxUp s h p) ∧
    (∃ (h : Hub) (p : Path) (s : State), mboxUp s h p) ∧
    (∃ (h : Hub) (p : Path) (s : State), mboxUp s h p) ∧
    (∃ (h : Hub) (p : Path) (s : State), mboxUp s h p) ∧
    (∃ (h : Hub) (p : Path) (s : State), mboxUp s h p) ∧
    (∃ (h : Hub) (p : Path) (i : Instr) (s : State), mboxRow true i = some (h, p) ∧ (s.resetLow = true ∨
        pathReaches s p (mboxB h) = false)) ∧
    (∃ (h : Hub) (p : Path) (i : Instr) (s : State), mboxRow true i = some (h, p) ∧ s.resetLow = false ∧
        pathReaches s p (mboxB h) = true ∧ s.hasHub h = false) ∧
    (∃ (h : Hub) (p : Path) (l : List Nat) (s : State), s.hasHub h = true ∧
        (s.mboxSt h (bankOf p)).busy = some ⟨4, 0, true, l, false, false⟩) ∧
    (∃ (h : Hub) (p : Path) (l : List Nat) (s : State), s.hasHub h = true ∧
        (s.mboxSt h (bankOf p)).busy = some ⟨6, 0, true, l, false, false⟩ ∧ s.time.clockId = none) ∧
    (∃ (h : Hub) (p : Path) (l : List Nat) (s : State), s.hasHub h = true ∧
        (s.mboxSt h (bankOf p)).busy = some ⟨6, 0, true, l, false, false⟩ ∧ s.time.clockId ≠ none) ∧
    (∃ (h : Hub) (p : Path) (l : List Nat) (j : Fin 3) (n : Fin 32) (s : State), s.hasHub h = true ∧
        (s.mboxSt h (bankOf p)).busy = some ⟨16 + j.val, n.val, true, l, false, false⟩) ∧
    (∃ (h : Hub) (p : Path) (l : List Nat) (n : Fin 8) (s : State), s.hasHub h = true ∧
        (s.mboxSt h (bankOf p)).busy = some ⟨50, n.val, true, l, false, false⟩) ∧
    (∃ (h : Hub) (p : Path) (l : List Nat) (n : Fin 8) (s : State), s.hasHub h = true ∧
        (s.mboxSt h (bankOf p)).busy = some ⟨51, n.val, true, l, false, false⟩) ∧
    (∃ (h : Hub) (p : Path) (l : List Nat) (s : State), s.hasHub h = true ∧
        (s.mboxSt h (bankOf p)).busy = some ⟨64, 0, true, l, false, false⟩) ∧
    (∃ (h : Hub) (p : Path) (l : List Nat) (s : State), s.hasHub h = true ∧
        (s.mboxSt h (bankOf p)).busy = some ⟨112, 0, true, l, false, false⟩) ∧
    (∃ (h : Hub) (p : Path) (l : List Nat) (s : State), s.hasHub h = true ∧
        (s.mboxSt h (bankOf p)).busy = some ⟨113, 0, true, l, false, false⟩) ∧
    (∃ (h : Hub) (p : Path) (l : List Nat) (k : Fin 8) (s : State), s.hasHub h = true ∧
        (s.mboxSt h (bankOf p)).busy = some ⟨114, k.val, true, l, false, false⟩) ∧
    (∃ (h : Hub) (p : Path) (l : List Nat) (k : Fin 64) (s : State), s.hasHub h = true ∧
        (s.mboxSt h (bankOf p)).busy = some ⟨115, k.val, true, l, false, false⟩) ∧
    (∃ (h : Hub) (p : Path) (l : List Nat) (s : State), s.hasHub h = true ∧
        (s.mboxSt h (bankOf p)).busy = some ⟨116, 0, true, l, false, false⟩ ∧ (s.ethSt h).keySet = false) ∧
    (∃ (h : Hub) (p : Path) (l : List Nat) (s : State), s.hasHub h = true ∧
        (s.mboxSt h (bankOf p)).busy = some ⟨116, 0, true, l, false, false⟩ ∧ (s.ethSt h).keySet = true) ∧
    (∃ (h : Hub) (p : Path) (l : List Nat) (s : State), s.hasHub h = true ∧
        (s.mboxSt h (bankOf p)).busy = some ⟨144, 0, true, l, false, false⟩ ∧
        s.on (bootB 0) R.BOOT_LOCK_FUSE = false) ∧
    (∃ (h : Hub) (p : Path) (l : List Nat) (s : State), s.hasHub h = true ∧
        (s.mboxSt h (bankOf p)).busy = some ⟨144, 0, true, l, false, false⟩ ∧
        s.on (bootB 0) R.BOOT_LOCK_FUSE = true) :=
  ⟨⟨(1 : Hub), .spi 1, State.reset, by decide +kernel⟩,
    ⟨(1 : Hub), .spi 1, State.reset, by decide +kernel⟩,
    ⟨(1 : Hub), .spi 1, State.reset, by decide +kernel⟩,
    ⟨(1 : Hub), .spi 1, State.reset, by decide +kernel⟩,
    ⟨(1 : Hub), .spi 1, State.reset, by decide +kernel⟩,
    ⟨(1 : Hub), .spi 1, State.reset, by decide +kernel⟩,
    ⟨(1 : Hub), .spi 1, State.reset, by decide +kernel⟩,
    ⟨(1 : Hub), .spi 1, State.reset, by decide +kernel⟩,
    ⟨(1 : Hub), .spi 1, State.reset, by decide +kernel⟩,
    ⟨(1 : Hub), .spi 1, State.reset, by decide +kernel⟩,
    ⟨(1 : Hub), .spi 1, State.reset, by decide +kernel⟩,
    ⟨(1 : Hub), .spi 1, .timeHost 1 (.spi 1) 5, { State.reset with resetLow := true }, by decide +kernel⟩,
    ⟨(1 : Hub), .planner, .timeHost 1 (.planner) 5, { State.reset with part := .s4d }, by decide +kernel⟩,
    ⟨(0 : Hub), .spi 0, [7, 8], State.reset.modMbox 0 4 fun q => { q with busy := some ⟨4, 0, true, [7, 8], false, false⟩ }, by decide +kernel⟩,
    ⟨(0 : Hub), .spi 0, [7, 8], State.reset.modMbox 0 4 fun q => { q with busy := some ⟨6, 0, true, [7, 8], false, false⟩ }, by decide +kernel⟩,
    ⟨(0 : Hub), .spi 0, [7, 8], { State.reset with time := { State.reset.time with clockId := some 5 } }.modMbox 0 4 fun q => { q with busy := some ⟨6, 0, true, [7, 8], false, false⟩ }, by decide +kernel⟩,
    ⟨(0 : Hub), .spi 0, [7, 8], (2 : Fin 3),
        (3 : Fin 32), State.reset.modMbox 0 4 fun q => { q with busy := some ⟨18, 3, true, [7, 8], false, false⟩ },
        by decide +kernel⟩,
    ⟨(0 : Hub), .spi 0, [7, 8], (3 : Fin 8),
        State.reset.modMbox 0 4 fun q => { q with busy := some ⟨50, 3, true, [7, 8], false, false⟩ },
        by decide +kernel⟩,
    ⟨(0 : Hub), .spi 0, [7, 8], (3 : Fin 8),
        State.reset.modMbox 0 4 fun q => { q with busy := some ⟨51, 3, true, [7, 8], false, false⟩ },
        by decide +kernel⟩,
    ⟨(0 : Hub), .spi 0, [7, 8], State.reset.modMbox 0 4 fun q => { q with busy := some ⟨64, 0, true, [7, 8], false, false⟩ }, by decide +kernel⟩,
    ⟨(0 : Hub), .spi 0, [7, 8], State.reset.modMbox 0 4 fun q => { q with busy := some ⟨112, 0, true, [7, 8], false, false⟩ }, by decide +kernel⟩,
    ⟨(0 : Hub), .spi 0, [7, 8], State.reset.modMbox 0 4 fun q => { q with busy := some ⟨113, 0, true, [7, 8], false, false⟩ }, by decide +kernel⟩,
    ⟨(0 : Hub), .spi 0, [7, 8], (3 : Fin 8),
        State.reset.modMbox 0 4 fun q => { q with busy := some ⟨114, 3, true, [7, 8], false, false⟩ },
        by decide +kernel⟩,
    ⟨(0 : Hub), .spi 0, [7, 8], (3 : Fin 64),
        State.reset.modMbox 0 4 fun q => { q with busy := some ⟨115, 3, true, [7, 8], false, false⟩ },
        by decide +kernel⟩,
    ⟨(0 : Hub), .spi 0, [7, 8], State.reset.modMbox 0 4 fun q => { q with busy := some ⟨116, 0, true, [7, 8], false, false⟩ }, by decide +kernel⟩,
    ⟨(0 : Hub), .spi 0, [7, 8], (State.reset.modEth 0 fun q => { q with keySet := true }).modMbox 0 4 fun q => { q with busy := some ⟨116, 0, true, [7, 8], false, false⟩ }, by decide +kernel⟩,
    ⟨(0 : Hub), .spi 0, [7, 8], State.reset.modMbox 0 4 fun q => { q with busy := some ⟨144, 0, true, [7, 8], false, false⟩ }, by decide +kernel⟩,
    ⟨(0 : Hub), .spi 0, [7, 8], (State.reset.wr (bootB 0) R.BOOT_LOCK_FUSE 1).modMbox 0 4 fun q => { q with busy := some ⟨144, 0, true, [7, 8], false, false⟩ }, by decide +kernel⟩⟩

theorem wit_RegisterRowsComplete :
    (∃ (n : Fin 4) (p : Path) (a : BitVec 32) (m : Word) (b : Block) (i : Nat) (o : Nat) (r : RegDesc) (s : State),
        regWritable s p (regAddr n a) m.toNat b i o r) ∧
    (∃ (n : Fin 4) (p : Path) (a : BitVec 32) (s : State), (pathReaches s p (regAddr n a) = false ∨
        reach s (regAddr n a) = .none ∨ reach s (regAddr n a) = .silent)) ∧
    (∃ (n : Fin 4) (p : Path) (a : BitVec 32) (h : Nat) (s : State), pathReaches s p (regAddr n a) = true ∧
        reach s (regAddr n a) = .absent h) ∧
    (∃ (n : Fin 4) (p : Path) (a : BitVec 32) (b : Block) (i : Nat) (o : Nat) (s : State),
        pathReaches s p (regAddr n a) = true ∧ reach s (regAddr n a) = .at_ b i o ∧ isTable b o = false ∧
        (regMissing b i o = true ∨ readOnlyHere s b i o = true ∨ (regAt b o = none ∧
        b ∉ [Block.fcol, .dma, .tdc, .cctl, .mbox, .core, .aperture])) ∧ (b, o) ≠ (Block.plan, R.PLAN_CMD) ∧
        (b, o) ≠ (Block.pwr, R.PWR_CMD)) ∧
    (∃ (n : Fin 4) (p : Path) (a : BitVec 32) (h : Hub) (o : Nat) (s : State), pathReaches s p (regAddr n a) = true ∧
        reach s (regAddr n a) = .at_ .fcol h (o) ∧ o ∈ [R.FCOL_SRC_CFG, R.FCOL_SRC_STATE, R.FCOL_SRC_COUNT]) ∧
    (∃ (n : Fin 4) (p : Path) (a : BitVec 32) (h : Hub) (s : State), pathReaches s p (regAddr n a) = true ∧
        reach s (regAddr n a) = .at_ .dma h (R.DMA_LINE_STATE)) ∧
    (∃ (n : Fin 4) (p : Path) (a : BitVec 32) (h : Hub) (j : Nat) (s : State), pathReaches s p (regAddr n a) = true ∧
        reach s (regAddr n a) = .at_ .dma h (0x8000 + 4 * j) ∧ j < 0x2000) ∧
    (∃ (n : Fin 4) (p : Path) (a : BitVec 32) (h : Hub) (k : Fin 16) (s : State),
        pathReaches s p (regAddr n a) = true ∧ reach s (regAddr n a) = .at_ .dma h (0x108 + 0x40 * k) ∧
        dmaState s h k ≠ 5) ∧
    (∃ (n : Fin 4) (p : Path) (a : BitVec 32) (i : TDie) (c : CoreIx) (j : Nat) (s : State),
        pathReaches s p (regAddr n a) = true ∧ reach s (regAddr n a) = .at_ .core i (c * 0x20000 + 4 * j) ∧
        j < 0x8000) ∧
    (∃ (n : Fin 4) (p : Path) (a : BitVec 32) (h : Hub) (j : Nat) (s : State), pathReaches s p (regAddr n a) = true ∧
        reach s (regAddr n a) = .at_ .aperture h (4 * j) ∧ j < 2 ^ 20) ∧
    (∃ (n : Fin 4) (p : Path) (a : BitVec 32) (i : TDie) (c : CoreIx) (s : State),
        pathReaches s p (regAddr n a) = true ∧ reach s (regAddr n a) = .at_ .cctl i (0x40 * c + R.CORE_c_PC)) ∧
    (∃ (n : Fin 4) (p : Path) (a : BitVec 32) (i : TDie) (c : CoreIx) (s : State),
        pathReaches s p (regAddr n a) = true ∧ reach s (regAddr n a) = .at_ .cctl i (0x40 * c + R.CORE_c_DBG_DATA)) ∧
    (∃ (n : Fin 4) (p : Path) (a : BitVec 32) (h : Hub) (o : Nat) (s : State), pathReaches s p (regAddr n a) = true ∧
        reach s (regAddr n a) = .at_ .mbox h (o) ∧ (o ∈ [4, 8] ∨ (0x40 ≤ o ∧ o < 0x70 ∧ o % 4 = 0))) ∧
    (∃ (n : Fin 4) (p : Path) (a : BitVec 32) (m : Word) (h : Hub) (s : State), pathReaches s p (regAddr n a) = true ∧
        reach s (regAddr n a) = .at_ .mbox h (0) ∧
        (mboxBad ((aliasResult (aliasOf (regAddr n a)) ((s.mboxSt h (bankOf p)).req) m.toNat) % 2 ^ 16) (bitsOf (aliasResult (aliasOf (regAddr n a)) ((s.mboxSt h (bankOf p)).req) m.toNat) 16 8) (bit (aliasResult (aliasOf (regAddr n a)) ((s.mboxSt h (bankOf p)).req) m.toNat) 24) = true ∨ (s.mboxSt h (bankOf p)).busyBit = true)) ∧
    (∃ (n : Fin 4) (p : Path) (a : BitVec 32) (h : Hub) (o : Nat) (s : State), pathReaches s p (regAddr n a) = true ∧
        reach s (regAddr n a) = .at_ .pwr h (o) ∧ h.val = s.lead ∧ o ∈ [R.PWR_CAP, R.PWR_CTRL] ∧
        s.on (bootB 0) R.BOOT_LOCK_CAP = true) ∧
    (∃ (n : Fin 4) (p : Path) (a : BitVec 32) (h : Hub) (s : State), pathReaches s p (regAddr n a) = true ∧
        reach s (regAddr n a) = .at_ .plan h (R.PLAN_CMD)) ∧
    (∃ (n : Fin 4) (p : Path) (a : BitVec 32) (h : Hub) (s : State), pathReaches s p (regAddr n a) = true ∧
        reach s (regAddr n a) = .at_ .pwr h (R.PWR_CMD) ∧ h.val = s.lead) ∧
    (∃ (n : Fin 4) (p : Path) (a : BitVec 32) (s : State), pathReaches s p (regAddr n a) = true ∧
        reach s (regAddr n a) = .at_ .boot 0 (R.BOOT_CMD)) ∧
    (∃ (n : Fin 4) (p : Path) (a : BitVec 32) (h : Hub) (o : Nat) (s : State), pathReaches s p (regAddr n a) = true ∧
        reach s (regAddr n a) = .at_ .tdc h (o) ∧ ((tdcWindow o).isSome = true ∨ (ivWindow o).isSome = true)) ∧
    (∃ (n : Fin 4) (p : Path) (a : BitVec 32) (i : TDie) (s : State), pathReaches s p (regAddr n a) = true ∧
        reach s (regAddr n a) = .at_ .wb i (R.WB_WTAB_DATA)) ∧
    (∃ (n : Fin 4) (p : Path) (a : BitVec 32) (i : TDie) (s : State), pathReaches s p (regAddr n a) = true ∧
        reach s (regAddr n a) = .at_ .trg i (R.TRG_MASK_DATA)) ∧
    (∃ (n : Fin 4) (p : Path) (a : BitVec 32) (i : TDie) (s : State), pathReaches s p (regAddr n a) = true ∧
        reach s (regAddr n a) = .at_ .recd i (R.REC_MT_DATA)) ∧
    (∃ (n : Fin 4) (p : Path) (a : BitVec 32) (i : TDie) (s : State), pathReaches s p (regAddr n a) = true ∧
        reach s (regAddr n a) = .at_ .dens i (R.DENS_TAB_DATA)) ∧
    (∃ (n : Fin 4) (p : Path) (a : BitVec 32) (h : Hub) (s : State), pathReaches s p (regAddr n a) = true ∧
        reach s (regAddr n a) = .at_ .disp h (R.DISP_PAL_DATA)) ∧
    (∃ (n : Fin 4) (p : Path) (a : BitVec 32) (m : Word) (b : Block) (i : Nat) (o : Nat) (r : RegDesc) (w : HwUpdate) (s : State), reach ((hostWrite p (regAddr n a) m.toNat s)) (if n = 0 then a.toNat else a.toNat % 2 ^ 28) = .at_ b i o ∧ regAt b o = some r ∧ (w.mask ≠ 0 ∨ w.inc = true) ∧ b ≠ .mbox ∧ (b, o) ∉ [(Block.fcol, R.FCOL_SRC_CFG), (.fcol, R.FCOL_SRC_STATE), (.fcol, R.FCOL_SRC_COUNT), (.dma, R.DMA_LINE_STATE), (.acq, R.ACQ_DELAY_TOTAL)]) :=
  ⟨⟨(0 : Fin 4), .spi 0, (0x28 : BitVec 32), (5 : Word), .chip, (0 : Nat), (0x28 : Nat),
      ⟨0x28, 0x0, 1, 0xB, [⟨0, 4, .rw⟩]⟩, State.reset, by decide +kernel⟩,
    ⟨(0 : Fin 4), .dma 1, (0x28 : BitVec 32), State.reset, by decide +kernel⟩,
    ⟨(0 : Fin 4), .spi 0, (0x800028 : BitVec 32), (0 : Nat), { State.reset with part := .s4d }, by decide +kernel⟩,
    ⟨(0 : Fin 4), .spi 0, (0xFC : BitVec 32), .chip, (0 : Nat), (0xFC : Nat), State.reset,
        by decide +kernel, by decide +kernel, by decide +kernel, by decide +kernel, by decide +kernel,
        by decide +kernel⟩,
    ⟨(0 : Fin 4), .spi 0, (0x8001C : BitVec 32), (0 : Hub), R.FCOL_SRC_CFG, State.reset, by decide +kernel⟩,
    ⟨(0 : Fin 4), .spi 0, (0x9001C : BitVec 32), (0 : Hub), State.reset, by decide +kernel⟩,
    ⟨(0 : Fin 4), .spi 0, (0x98074 : BitVec 32), (0 : Hub), (29 : Nat), State.reset, by decide +kernel⟩,
    ⟨(0 : Fin 4), .spi 0, (0x90188 : BitVec 32),
        (0 : Hub), (2 : Fin 16), State.reset.wr (dmaChB 0 2) R.DMA_k_STATUS_STATE 1, by decide +kernel⟩,
    ⟨(0 : Fin 4), .spi 0, (0x41B0004 : BitVec 32), (0 : TDie), (5 : CoreIx), (0x4001 : Nat),
        { State.reset with powered := 0xFF }, by decide +kernel⟩,
    ⟨(0 : Fin 4), .spi 0, (0x400134 : BitVec 32),
        (0 : Hub), (77 : Nat), State.reset.wr (ddrChB 0 0) R.DDR_c_SIZE_MIB 1024, by decide +kernel⟩,
    ⟨(0 : Fin 4), .spi 0, (BitVec.ofNat _ (0x4060000 + 0x40 * 5 + R.CORE_c_PC)),
        (0 : TDie), (5 : CoreIx), { State.reset with powered := 0xFF }, by decide +kernel⟩,
    ⟨(0 : Fin 4), .spi 0, (BitVec.ofNat _ (0x4060000 + 0x40 * 5 + R.CORE_c_DBG_DATA)),
        (0 : TDie), (5 : CoreIx), { State.reset with powered := 0xFF }, by decide +kernel⟩,
    ⟨(0 : Fin 4), .spi 0, (0xE0044 : BitVec 32), (0 : Hub), (0x44 : Nat), State.reset, by decide +kernel⟩,
    ⟨(0 : Fin 4), .spi 0, (0xE0000 : BitVec 32),
        (5 : Word), (0 : Hub), State.reset.modMbox 0 4 fun q => { q with busyBit := true }, by decide +kernel⟩,
    ⟨(0 : Fin 4), .spi 0, (BitVec.ofNat _ (0x20000 + R.PWR_CAP)),
        (0 : Hub), R.PWR_CAP, State.reset.wr (bootB 0) R.BOOT_LOCK_CAP 1, by decide +kernel⟩,
    ⟨(0 : Fin 4), .spi 0, (BitVec.ofNat _ (0x30000 + R.PLAN_CMD)), (0 : Hub), State.reset, by decide +kernel⟩,
    ⟨(0 : Fin 4), .spi 0, (BitVec.ofNat _ (0x20000 + R.PWR_CMD)), (0 : Hub), State.reset, by decide +kernel⟩,
    ⟨(0 : Fin 4), .spi 0, (BitVec.ofNat _ (0x10000 + R.BOOT_CMD)), State.reset, by decide +kernel⟩,
    ⟨(0 : Fin 4), .spi 0, (0x60130 : BitVec 32), (0 : Hub), (0x130 : Nat), State.reset, by decide +kernel⟩,
    ⟨(0 : Fin 4), .spi 0, (BitVec.ofNat _ (0x4000000 + (wbB 0 - tB 0) * 1 + R.WB_WTAB_DATA)),
        (0 : TDie), { State.reset with powered := 0xFF }, by decide +kernel⟩,
    ⟨(0 : Fin 4), .spi 0, (BitVec.ofNat _ (0x4000000 + (wbB 0 - tB 0) * 2 + R.TRG_MASK_DATA)),
        (0 : TDie), { State.reset with powered := 0xFF }, by decide +kernel⟩,
    ⟨(0 : Fin 4), .spi 0, (BitVec.ofNat _ (0x4000000 + (wbB 0 - tB 0) * 3 + R.REC_MT_DATA)),
        (0 : TDie), { State.reset with powered := 0xFF }, by decide +kernel⟩,
    ⟨(0 : Fin 4), .spi 0, (BitVec.ofNat _ (0x4000000 + (wbB 0 - tB 0) * 4 + R.DENS_TAB_DATA)),
        (0 : TDie), { State.reset with powered := 0xFF }, by decide +kernel⟩,
    ⟨(0 : Fin 4), .spi 0, (BitVec.ofNat _ (0xD0000 + R.DISP_PAL_DATA)), (0 : Hub), State.reset, by decide +kernel⟩,
    ⟨(0 : Fin 4), .spi 0, (0x1C : BitVec 32), (5 : Word), .chip, (0 : Nat), (0x1C : Nat),
        ⟨0x1C, 0x0, 1, 0x0, [⟨0, 32, .ct⟩]⟩, { inc := true }, State.reset, by decide +kernel⟩⟩

theorem wit_AcqRowsFrame : ∃ t, exec (.gainWrite 0 3) State.reset = .next t := answers (by decide +kernel)

theorem wit_TriggerRowsFrame : ∃ t, exec (.wbCommit 0) State.reset = .next t := answers (by decide +kernel)

theorem wit_RecordRowsFrame : ∃ t, exec (.densCommit 0) State.reset = .next t := answers (by decide +kernel)

theorem wit_CoreRowsFrame :
    (∃ (d : TDie) (c : CoreIx) (e : EccRead) (f : AluFn) (cond xd xs xt : BitVec 4) (s t : State),
      issues s d c e (.alu f cond xd xs xt) = true ∧ exec (aluRow f d c e) s = .next t) ∧
    (∃ (d : TDie) (c : CoreIx) (e : EccRead) (f : AccFn) (cond : BitVec 4) (a b : BitVec 1) (xr : BitVec 4) (sh : BitVec 5)
      (s t : State), issues s d c e (.acc f cond a b xr sh) = true ∧ exec (accRow f d c e) s = .next t) :=
  ⟨⟨0, 131, {}, .adds, 0, 3, 1, 2, (State.reset.wr (coreRegB 0 131) R.CORE_c_STATUS_RUNNING 1).setReg (pmAddr 0 131 0)
      (CoreInstr.encode (.alu .adds 0 3 1 2)), _, by decide +kernel, rfl⟩,
    ⟨0, 131, {}, .adda, 0, 0, 1, 2, 0, (State.reset.wr (coreRegB 0 131) R.CORE_c_STATUS_RUNNING 1).setReg (pmAddr 0 131 0)
      (CoreInstr.encode (.acc .adda 0 0 1 2 0)), _, by decide +kernel, rfl⟩⟩

theorem wit_ClockRowsFrame : ∃ t, exec (.refRevert) State.reset = .next t := answers (by decide +kernel)

theorem wit_StoreRowsFrame : ∃ t, exec (.dmaPause 0 3) State.reset = .next t := answers (by decide +kernel)

theorem wit_PortRowsFrame : ∃ t, exec (.aliveToggle) State.reset = .next t := answers (by decide +kernel)

theorem wit_MemoryRowsFrame :
    (∃ s : State, (∃ t, exec (.zoomBlockWritten 0 5) s = .next t) ∧ (s.zoom 0 5).closed = [(2, 64, [1])]) ∧
    (∃ s : State, (∃ t, exec (.coreBlockWritten 0 5 1) s = .next t) ∧
      (tget (fun _ => ({} : CoreOut)) (s.core 0 5).outs 1).closed = [(2, [1])]) ∧
    (∃ s : State, (∃ t, exec (.densFrameWritten 0) s = .next t) ∧ (s.densSt 0).frames = [⟨2, 0, 64, [1]⟩]) ∧
    (∃ s : State, (∃ t, exec (.sgRowWritten 0) s = .next t) ∧ (s.densSt 0).rows = [⟨2, 0, 64, [1]⟩]) ∧
    (∃ s : State, (∃ t, exec (.tarnBlockWrite 0) s = .next t) ∧ (recMode s 0 = 2 →
        recRegion s 0 + recSize s 0 ≤ 2 ^ 40)) ∧
    (∃ s : State, (∃ t, exec (.coBlockFlush 0) s = .next t) ∧ coBase s 0 + coSize s 0 ≤ 2 ^ 40) ∧
    (∃ s : State, (∃ t, exec (.nfsReadDone 0 {}) s = .next t) ∧ ∀ e ∈ (s.nfsSt 0).sectors, e.2.length = 4096) :=
  ⟨⟨State.reset.modZoom 0 5 fun q => { q with closed := [(2, 64, [1])] }, answers (by decide +kernel),
      by decide +kernel⟩,
    ⟨State.reset.modCore 0 5 fun q => { q with outs := [(1, { closed := [(2, [1])] })] }, answers (by decide +kernel),
        by decide +kernel⟩,
    ⟨State.reset.modDens 0 fun q => { q with frames := [⟨2, 0, 64, [1]⟩] }, answers (by decide +kernel),
        by decide +kernel⟩,
    ⟨State.reset.modDens 0 fun q => { q with rows := [⟨2, 0, 64, [1]⟩] }, answers (by decide +kernel),
        by decide +kernel⟩,
    ⟨State.reset.modRec 0 fun r => { r with tarn := { r.tarn with run := true } }, answers (by decide +kernel),
        by decide +kernel⟩,
    ⟨State.reset, answers (by decide +kernel), by decide +kernel⟩, ⟨State.reset, answers (by decide +kernel),
        by decide +kernel⟩⟩

theorem wit_RegisterReadRowsComplete :
    (∃ (p : Path) (a : BitVec 28) (s : State), (pathReaches s p a.toNat = false ∨ reach s a.toNat = .none ∨
        reach s a.toNat = .silent)) ∧
    (∃ (p : Path) (a : BitVec 28) (h : Nat) (s : State), pathReaches s p a.toNat = true ∧
        reach s a.toNat = .absent h) ∧
    (∃ (p : Path) (a : BitVec 28) (b : Block) (i : Nat) (o : Nat) (r : RegDesc) (s : State),
        regFound s p a.toNat b i o r ∧ b ∉ [Block.mbox, .core, .aperture] ∧ (b, o) ≠ (Block.dma, R.DMA_LINE_STATE) ∧
        (b = .tdc → (tdcWindow o).isNone = true ∧ (ivWindow o).isNone = true) ∧ (b = .cctl →
        (coreOfCctl o).all (fun x => x.2 != R.CORE_c_EVQ) = true)) ∧
    (∃ (p : Path) (a : BitVec 28) (b : Block) (i : Nat) (o : Nat) (s : State), pathReaches s p a.toNat = true ∧
        reach s a.toNat = .at_ b i o ∧ b ∈ [Block.boot, .hka, .ddr, .nfs, .eth, .acq, .jrx] ∧ a.toNat % 4 = 0) ∧
    (∃ (p : Path) (a : BitVec 28) (i : Nat) (c : Nat) (s : State), pathReaches s p a.toNat = true ∧
        reach s a.toNat = .at_ .aperture i c) ∧
    (∃ (p : Path) (a : BitVec 28) (i : Nat) (c : Nat) (s : State), pathReaches s p a.toNat = true ∧
        reach s a.toNat = .at_ .core i c) ∧
    (∃ (p : Path) (a : BitVec 28) (i : Nat) (n : Nat) (e : Nat) (l : List Nat) (s : State),
        pathReaches s p a.toNat = true ∧ reach s a.toNat = .at_ .tdc i (0x13C + 0x40 * n) ∧ n < 8 ∧
        (s.tdcIn (8 * i + n)).fifo = e :: l) ∧
    (∃ (p : Path) (a : BitVec 28) (i : Nat) (n : Nat) (e : Nat) (l : List Nat) (s : State),
        pathReaches s p a.toNat = true ∧ reach s a.toNat = .at_ .tdc i (0x42C + 0x40 * n) ∧ n < 4 ∧
        (s.ivUnit i n).fifo = e :: l) ∧
    (∃ (p : Path) (a : BitVec 28) (h : Hub) (s : State), pathReaches s p a.toNat = true ∧
        reach s a.toNat = .at_ .dma h R.DMA_LINE_STATE) ∧
    (∃ (p : Path) (a : BitVec 28) (i : TDie) (c : CoreIx) (s : State), pathReaches s p a.toNat = true ∧
        reach s a.toNat = .at_ .cctl i (0x40 * c + R.CORE_c_EVQ)) ∧
    (∃ (p : Path) (a : BitVec 28) (i : TDie) (s : State), pathReaches s p a.toNat = true ∧
        reach s a.toNat = .at_ .wb i R.WB_WTAB_DATA) ∧
    (∃ (p : Path) (a : BitVec 28) (i : TDie) (s : State), pathReaches s p a.toNat = true ∧
        reach s a.toNat = .at_ .trg i R.TRG_MASK_DATA) ∧
    (∃ (p : Path) (a : BitVec 28) (i : TDie) (s : State), pathReaches s p a.toNat = true ∧
        reach s a.toNat = .at_ .dens i R.DENS_TAB_DATA) ∧
    (∃ (p : Path) (a : BitVec 28) (i : TDie) (s : State), pathReaches s p a.toNat = true ∧
        reach s a.toNat = .at_ .recd i R.REC_MT_DATA) ∧
    (∃ (p : Path) (a : BitVec 28) (h : Hub) (s : State), pathReaches s p a.toNat = true ∧
        reach s a.toNat = .at_ .disp h R.DISP_PAL_DATA) ∧
    (∃ (p : Path) (a : BitVec 28) (b : Block) (i : Nat) (o : Nat) (s : State), pathReaches s p a.toNat = true ∧
        reach s a.toNat = .at_ b i o ∧ regAt b o = none ∧
        b ∉ [Block.mbox, .core, .aperture, .tdc, .cctl, .fcol, .dma] ∧ isTable b o = false ∧
        s.reg (windowOf a.toNat) = 0) ∧
    (∃ (p : Path) (a : BitVec 28) (i : Nat) (n : Nat) (s : State), pathReaches s p a.toNat = true ∧
        reach s a.toNat = .at_ .tdc i (0x130 + 0x40 * (n / 3) + 4 * (n % 3)) ∧ n < 24) ∧
    (∃ (p : Path) (a : BitVec 28) (i : Nat) (n : Nat) (s : State), pathReaches s p a.toNat = true ∧
        reach s a.toNat = .at_ .tdc i (0x420 + 0x40 * (n / 3) + 4 * (n % 3)) ∧ n < 12) ∧
    (∃ (p : Path) (a : BitVec 28) (h : Hub) (o : Nat) (s : State), pathReaches s p a.toNat = true ∧
        reach s a.toNat = .at_ .mbox h o) ∧
    (∃ (p : Path) (a : BitVec 28) (h : Hub) (j : Nat) (s : State), pathReaches s p a.toNat = true ∧
        reach s a.toNat = .at_ .dma h (0x8000 + 4 * j)) ∧
    (∃ (p : Path) (a : BitVec 28) (b : Block) (i : Nat) (o : Nat) (r : RegDesc) (w : HwUpdate) (s : State),
        reach (hostRead p a.toNat s) a.toNat = .at_ b i o ∧ regAt b o = some r ∧ (w.mask ≠ 0 ∨ w.inc = true) ∧
        b ≠ .mbox ∧ (b, o) ∉ [(Block.fcol, R.FCOL_SRC_CFG), (.fcol, R.FCOL_SRC_STATE), (.fcol, R.FCOL_SRC_COUNT),
        (.dma, R.DMA_LINE_STATE), (.acq, R.ACQ_DELAY_TOTAL)]) :=
  ⟨⟨.dma 1, (0x28 : BitVec 28), State.reset, by decide +kernel⟩,
    ⟨.spi 0, (0x800028 : BitVec 28), (0 : Nat), { State.reset with part := .s4d }, by decide +kernel⟩,
    ⟨.spi 0, (0x14 : BitVec 28),
        .chip, (0 : Nat), (0x14 : Nat),
        ⟨0x14, 0x0, 1, 0x0, [⟨0, 1, .hs⟩, ⟨1, 1, .hs⟩, ⟨8, 1, .rc⟩]⟩, State.reset.wr (chipB 0) R.CHIP_STATUS_VIOL 1,
        by decide +kernel⟩,
    ⟨.spi 0, (0x10004 : BitVec 28), .boot, (0 : Nat), (4 : Nat), State.reset, by decide +kernel⟩,
    ⟨.spi 0, (0x400134 : BitVec 28), (0 : Nat), (0x134 : Nat), State.reset.wr (ddrChB 0 0) R.DDR_c_SIZE_MIB 1024,
        by decide +kernel⟩,
    ⟨.spi 0, (0x41B0004 : BitVec 28), (0 : Nat), (0xB0004 : Nat), { State.reset with powered := 0xFF },
        by decide +kernel⟩,
    ⟨.spi 0, (0x6013C : BitVec 28),
        (0 : Nat), (0 : Nat), (5 : Nat), [6], State.reset.modTdc 0 fun q => { q with fifo := [5, 6] },
        by decide +kernel⟩,
    ⟨.spi 0, (0x6042C : BitVec 28),
        (0 : Nat), (0 : Nat), (5 : Nat), [6], State.reset.modIv 0 0 fun q => { q with fifo := [5, 6] },
        by decide +kernel⟩,
    ⟨.spi 0, (0x9001C : BitVec 28), (0 : Hub), State.reset, by decide +kernel⟩,
    ⟨.spi 0, (BitVec.ofNat _ (0x4060000 + 0x40 * 5 + R.CORE_c_EVQ)),
        (0 : TDie), (5 : CoreIx), { State.reset with powered := 0xFF }, by decide +kernel⟩,
    ⟨.spi 0, (BitVec.ofNat _ (0x4000000 + 0x10000 * 1 + R.WB_WTAB_DATA)),
        (0 : TDie), { State.reset with powered := 0xFF }, by decide +kernel⟩,
    ⟨.spi 0, (BitVec.ofNat _ (0x4000000 + 0x10000 * 2 + R.TRG_MASK_DATA)),
        (0 : TDie), { State.reset with powered := 0xFF }, by decide +kernel⟩,
    ⟨.spi 0, (BitVec.ofNat _ (0x4000000 + 0x10000 * 4 + R.DENS_TAB_DATA)),
        (0 : TDie), { State.reset with powered := 0xFF }, by decide +kernel⟩,
    ⟨.spi 0, (BitVec.ofNat _ (0x4030000 + R.REC_MT_DATA)), (0 : TDie), { State.reset with powered := 0xFF },
        by decide +kernel⟩,
    ⟨.spi 0, (BitVec.ofNat _ (0xD0000 + R.DISP_PAL_DATA)), (0 : Hub), State.reset, by decide +kernel⟩,
    ⟨.spi 0, (0xFC : BitVec 28), .chip, (0 : Nat), (0xFC : Nat), State.reset,
        by decide +kernel, by decide +kernel, by decide +kernel, by decide +kernel, by decide +kernel,
        by decide +kernel⟩,
    ⟨.spi 0, (0x60134 : BitVec 28), (0 : Nat), (1 : Nat), State.reset.modTdc 0 fun q => { q with fifo := [5, 6] },
        by decide +kernel⟩,
    ⟨.spi 0, (0x60424 : BitVec 28), (0 : Nat), (1 : Nat), State.reset.modIv 0 0 fun q => { q with fifo := [5, 6] },
        by decide +kernel⟩,
    ⟨.spi 0, (0xE0044 : BitVec 28), (0 : Hub), (0x44 : Nat), State.reset, by decide +kernel⟩,
    ⟨.spi 0, (0x98074 : BitVec 28), (0 : Hub), (29 : Nat), State.reset, by decide +kernel⟩,
    ⟨.spi 0, (0x1C : BitVec 28),
        .chip, (0 : Nat), (0x1C : Nat), ⟨0x1C, 0x0, 1, 0x0, [⟨0, 32, .ct⟩]⟩, { inc := true }, State.reset,
        by decide +kernel⟩⟩

end Sys2Proof.Tests
end

section
/-! PROOFS. The front of the queue, and the two register row statements that fail. -/

namespace Sys2Proof.Machine

/-- Settles O1: `step` matches on the queue, and its first case is `exec` with the queue's rest. -/
theorem stepRunsFront : Obligations.StepRunsFront := by
  intro c s
  rfl

/-- TIME_STATUS as the tables describe it: STEP, bit 8, is RC and the lead time unit's window shows it on every die. -/
def timeStatusReg : RegDesc :=
  ⟨0xC, 0, 1, 0, [⟨0, 1, .hs⟩, ⟨1, 1, .hs⟩, ⟨2, 1, .hs⟩, ⟨3, 1, .hs⟩, ⟨4, 1, .hs⟩, ⟨5, 2, .hs⟩, ⟨7, 1, .hs⟩, ⟨8, 1, .rc⟩,
    ⟨9, 1, .rc⟩, ⟨10, 1, .rc⟩, ⟨11, 1, .rc⟩, ⟨12, 1, .hs⟩]⟩

/-- The reset state after the lead time unit has stepped its counter: TIME_STATUS.STEP is set. -/
def steppedState : State := State.reset.wr (timeB 0) R.TIME_STATUS_STEP 1

/-- The read of TIME_STATUS through the window of test die 1. -/
def timeStatusRead : State := hwApply (.spi 1) 0x85000C {} (hostRead (.spi 1) 0x85000C steppedState)

theorem timeStatusRead_found : regFound steppedState (.spi 1) 0x85000C .time 1 0xC timeStatusReg := by
  decide +kernel

/-- The read clears the RC bits at die 1's own address, and leaves STEP set where the value was read. -/
theorem timeStatusRead_step : (timeStatusRead.reg (homeOf .time 1 0xC (windowOf 0x85000C))).getLsbD 8 = true := by
  decide +kernel

theorem timeStatusReg_step_rc : bit (accMask (some timeStatusReg) (· == .rc)) 8 = true := by
  decide +kernel

/-- Refutes O60: TIME_STATUS through the window of test die 1 shows the lead time unit's word, but the read clears the RC
bits of die 1's own address, so STEP stays set (third clause). -/
theorem not_registerReadRowsComplete : ¬ Obligations.RegisterReadRowsComplete := by
  unfold Obligations.RegisterReadRowsComplete
  rintro ⟨-, -, hread, -⟩
  obtain ⟨t, ht, -, -, hbits⟩ := hread (.spi 1) 0x85000C#28 .time 1 0xC timeStatusReg steppedState timeStatusRead_found
    (by decide) (by decide) (by decide) (by decide)
  have hstate : t = timeStatusRead := (Host.Outcome.next.inj ht).symm
  have hclear := hbits 8
  rw [hstate] at hclear
  have hset := timeStatusRead_step
  simp_all [timeStatusReg_step_rc]

/-- A state that holds the word 0 of PWR_CMD as an entry of its register table, where a written table has none. -/
def zeroEntryState : State := { State.reset with regs := [(pwrB 0 + R.PWR_CMD, 0)] }

/-- Refutes O51: a write of 0 to PWR_CMD stores the register's word and so drops its zero entry from the table, while the
clause of PWR_CMD says that the state stays as it is. -/
theorem not_registerRowsComplete : ¬ Obligations.RegisterRowsComplete := by
  unfold Obligations.RegisterRowsComplete
  rintro ⟨-, -, -, -, -, -, -, -, -, -, -, -, -, -, -, -, hpwr, -⟩
  obtain ⟨t, ht, hrow⟩ := hpwr 0 (.spi 0) 0x20004 0 0 zeroEntryState (by decide +kernel) (by decide +kernel) rfl
  have hwritten : t.regs = [] := by
    rw [← Host.Outcome.next.inj ht]
    decide +kernel
  have hkept : t.regs = zeroEntryState.regs := by
    rw [hrow]
    rfl
  rw [hwritten] at hkept
  cases hkept

end Sys2Proof.Machine
end

section
/-! PROOFS. Accesses to the window of an absent die (R6). -/

namespace Sys2Proof.Machine

theorem reach_absentDie {s : State} {addr d : Nat} (hlow : s.resetLow = false) (haddr : addr < 2 ^ 30)
    (hdie : dieOfWindow (windowOf addr) = some d) (habsent : bit s.part.present d = false) :
    reach s addr = .absent (hubOfDie s d) := by
  have hlive : ¬ (2 ^ 30 ≤ addr ∨ s.resetLow = true) := by
    simp only [hlow, Bool.false_eq_true, or_false, not_le]
    exact haddr
  rw [reach, if_neg hlive, hdie]
  simp only [habsent, Bool.not_false, if_true]

/-- An absent die is not H0, and with a die absent there is no H1 (R3). -/
theorem hubOfDie_absentDie {s : State} {d : Nat} (hd : d < 8) (habsent : bit s.part.present d = false) :
    hubOfDie s d = 0 ∧ d ≠ 0 := by
  cases hpart : s.part with
  | s8d =>
    rw [hpart] at habsent
    have hpresent : ∀ k < 8, bit Part.s8d.present k = true := by decide
    simp [hpresent d hd] at habsent
  | s4d | s2d =>
    have hone : s.hasHub 1 = false := by simp [State.hasHub, hpart, Part.hubs]
    refine ⟨by simp [hubOfDie, hubOf, hone], ?_⟩
    rintro rfl
    rw [hpart] at habsent
    revert habsent
    decide

theorem dieOfWindow_lt {w d : Nat} (hdie : dieOfWindow w = some d) : d < 8 := by
  unfold dieOfWindow at hdie
  split_ifs at hdie <;> simp only [Option.some.injEq] at hdie <;> omega

theorem windowOf_ge_of_die {w d : Nat} (hdie : dieOfWindow w = some d) (hd : d ≠ 0) : 0x800000 ≤ w := by
  unfold dieOfWindow at hdie
  split_ifs at hdie <;> simp only [Option.some.injEq] at hdie <;> omega

theorem State.reg_wr_other (s : State) (b : Nat) (f : Fld) (v a : Nat) (h : a ≠ b + f.off) :
    (s.wr b f v).reg a = s.reg a :=
  State.reg_setReg_other s _ _ _ h

theorem State.reg_inc_other (s : State) (b : Nat) (f : Fld) (n a : Nat) (h : a ≠ b + f.off) :
    (s.inc b f n).reg a = s.reg a :=
  State.reg_setReg_other s _ _ _ h

theorem State.reg_raise (s : State) (src detail a : Nat) : (s.raise src detail).reg a = s.reg a := rfl

/-- An access violation at a hub writes CHIP_STATUS, CHIP_VIOL_ADDR and CHIP_VIOL_COUNT of the hub, no other register. -/
theorem State.reg_violation_other (s : State) (h addr a : Nat) (hstatus : a ≠ chipB h + R.CHIP_STATUS_VIOL.off)
    (haddr : a ≠ chipB h + R.CHIP_VIOL_ADDR_ADDR.off) (hcount : a ≠ chipB h + R.CHIP_VIOL_COUNT_VIOLATIONS.off) :
    (s.violation h addr).reg a = s.reg a := by
  rw [State.violation, State.reg_raise, State.reg_inc_other _ _ _ _ _ hcount, State.reg_wr_other _ _ _ _ _ haddr,
    State.reg_wr_other _ _ _ _ _ hstatus]

/-- Outside H0's CHIP block an access violation at H0 changes no register. -/
theorem State.reg_violation_hub0 (s : State) (addr a : Nat) (h : 0x1000 ≤ a) : (s.violation 0 addr).reg a = s.reg a := by
  refine State.reg_violation_other s 0 addr a ?_ ?_ ?_ <;>
    simp [chipB, hubB, R.CHIP_STATUS_VIOL, R.CHIP_VIOL_ADDR_ADDR, R.CHIP_VIOL_COUNT_VIOLATIONS] <;> omega

theorem State.violation_flight_eq (s : State) (h addr : Nat) :
    ∃ x, (s.violation h addr).flight = s.flight ++ [x] ∧ x.source = 38 ∧ x.detail = addr % 2 ^ 64 :=
  ⟨_, rfl, rfl, rfl⟩

/-- Without a register at the address there is nothing for a hardware update to change. -/
theorem hwApply_absent {s : State} {p : Path} {addr h : Nat} {u : HwUpdate} (hr : reach s addr = .absent h) :
    hwApply p addr u s = s := by
  simp [hwApply, hr]

theorem hostRead_absent {s : State} {p : Path} {addr h : Nat} (hpath : pathReaches s p addr = true)
    (hr : reach s addr = .absent h) : hostRead p addr s = { s with readData := 0, access := 1 } := by
  simp [hostRead, busRead, hpath, hr]

theorem hostWrite_absent {s : State} {p : Path} {addr h m : Nat} (hpath : pathReaches s p addr = true)
    (hr : reach s addr = .absent h) :
    hostWrite p addr m s = { State.violation { s with access := 0 } h addr with access := 1 } := by
  have hr' : reach { s with access := 0 } addr = .absent h := hr
  simp [hostWrite, busWrite, hpath, hr, hr']

/-- Settles O9: both accesses reach an absent die, a read leaves registers and events, and a write is the access violation at
H0, whose registers no absent die's window holds. -/
theorem absentDieAccess : Obligations.AbsentDieAccess := by
  unfold Obligations.AbsentDieAccess
  refine ⟨fun p w u d s hpath hlow haddr hdie habsent => ?_, fun p a v u d s hpath hlow haddr hdie habsent => ?_⟩
  · have hread := hostRead_absent hpath (reach_absentDie hlow haddr hdie habsent)
    refine ⟨{ s with readData := 0, access := 1 }, ?_, rfl, rfl, rfl, rfl⟩
    have hafter : reach { s with readData := 0, access := 1 } w.toNat = .absent (hubOfDie s d) :=
      reach_absentDie hlow haddr hdie habsent
    calc exec (Instr.rcClearingRead p w u) s = .next (hwApply p w.toNat u (hostRead p w.toNat s)) := rfl
      _ = .next { s with readData := 0, access := 1 } := by rw [hread, hwApply_absent hafter]
  · obtain ⟨hhub, hd⟩ := hubOfDie_absentDie (dieOfWindow_lt hdie) habsent
    have hreach := reach_absentDie hlow haddr hdie habsent
    rw [hhub] at hreach
    let t : State := { State.violation { s with access := 0 } 0 a.toNat with access := 1 }
    have hafter : reach t a.toNat = .absent (hubOfDie t d) := reach_absentDie (s := t) hlow haddr hdie habsent
    have hwindow : 0x800000 ≤ windowOf a.toNat := windowOf_ge_of_die hdie hd
    obtain ⟨x, hflight, hsource, hdetail⟩ := State.violation_flight_eq { s with access := 0 } 0 a.toNat
    refine ⟨t, ?_, ?_, rfl, rfl, rfl, ⟨x, hflight, hsource, ?_⟩, rfl⟩
    · calc exec (Instr.configWrite p a v u) s = .next (hwApply p a.toNat u (hostWrite p a.toNat v.toNat s)) := rfl
        _ = .next t := by rw [hostWrite_absent hpath hreach, hwApply_absent hafter]
    · exact State.reg_violation_hub0 { s with access := 0 } a.toNat (windowOf a.toNat) (by omega)
    · omega

end Sys2Proof.Machine
end

section
/-! PROOFS. Write-lock fields (R7, R8): the bits that a write of BOOT_LOCK or TRG_NET_ID takes. -/

namespace Sys2Proof.Machine

/-! The bits of a masked word. -/

theorem add_eq_or_of_and_eq_zero (x y : Nat) (h : x &&& y = 0) : x + y = x ||| y := by
  have hx : x < 2 ^ (x + y) := lt_of_le_of_lt (Nat.le_add_right x y) Nat.lt_two_pow_self
  have hy : y < 2 ^ (x + y) := lt_of_le_of_lt (Nat.le_add_left y x) Nat.lt_two_pow_self
  have hsum : x + y < 2 ^ (x + y) := Nat.lt_two_pow_self
  have hand : BitVec.ofNat (x + y) x &&& BitVec.ofNat (x + y) y = 0#(x + y) := by
    apply BitVec.eq_of_toNat_eq
    simp [BitVec.toNat_and, Nat.mod_eq_of_lt hx, Nat.mod_eq_of_lt hy, h]
  have hadd := congrArg BitVec.toNat (BitVec.add_eq_or_of_and_eq_zero _ _ hand)
  simpa [BitVec.toNat_add, BitVec.toNat_or, Nat.mod_eq_of_lt hx, Nat.mod_eq_of_lt hy, Nat.mod_eq_of_lt hsum] using hadd

theorem without_eq_ldiff (v m : Nat) : without v m = v.ldiff m := by
  have hdisjoint : (v &&& m) &&& v.ldiff m = 0 := by
    apply Nat.eq_of_testBit_eq
    intro k
    simp only [Nat.testBit_and, Nat.testBit_ldiff, Nat.zero_testBit]
    cases v.testBit k <;> cases m.testBit k <;> rfl
  have hunion : (v &&& m) ||| v.ldiff m = v := by
    apply Nat.eq_of_testBit_eq
    intro k
    simp only [Nat.testBit_or, Nat.testBit_and, Nat.testBit_ldiff]
    cases v.testBit k <;> cases m.testBit k <;> rfl
  have hsum := add_eq_or_of_and_eq_zero _ _ hdisjoint
  rw [hunion] at hsum
  unfold without
  omega

theorem without_testBit (v m k : Nat) : (without v m).testBit k = (v.testBit k && !m.testBit k) := by
  rw [without_eq_ldiff, Nat.testBit_ldiff]

theorem mixBits_testBit (old new mask k : Nat) :
    (mixBits old new mask).testBit k = if mask.testBit k then new.testBit k else old.testBit k := by
  have hdisjoint : without old mask &&& (new &&& mask) = 0 := by
    apply Nat.eq_of_testBit_eq
    intro j
    simp only [Nat.testBit_and, without_testBit, Nat.zero_testBit]
    cases mask.testBit j <;> simp
  rw [mixBits, add_eq_or_of_and_eq_zero _ _ hdisjoint, Nat.testBit_or, Nat.testBit_and, without_testBit]
  cases mask.testBit k <;> simp

theorem mixBits_zero (old new : Nat) : mixBits old new 0 = old := by simp [mixBits, without]

theorem bit_eq_testBit (n k : Nat) : bit n k = n.testBit k := by
  rw [bit, Nat.testBit_eq_decide_div_mod_eq]

/-! The write of a register whose fields are all of type WL. -/

/-- The lock bits of the register at `a`. -/
abbrev State.lockWord (s : State) (a : Nat) : Nat := (tget (fun _ => (0 : Word)) s.locked a).toNat

/-- The register at `a`, of WL fields of mask `wl`, takes the bits of `m` for the fields that do not stand locked, and all
of them lock (R7). -/
def takeUnlocked (a wl m : Nat) (s : State) : State :=
  { s.setReg a (BitVec.ofNat 32 (mixBits (s.reg a).toNat m (without wl (s.lockWord a)))) with
    locked := tset (fun _ => (0 : Word)) s.locked a (BitVec.ofNat 32 (s.lockWord a ||| wl)) }

/-- A write of a register whose fields are all WL: one that meets a locked field is an access violation (R8). -/
def writeLocked (h a addr wl m : Nat) (s : State) : State :=
  if wl &&& s.lockWord a = 0 then takeUnlocked a wl m s else ignored8 (takeUnlocked a wl m s) h addr

/-- BOOT_LOCK of a hub, or TRG_NET_ID of a lead die. -/
def IsLockReg (b : Block) (i o : Nat) : Prop := (b = .boot ∧ o = 0x20) ∨ (b = .trg ∧ o = 0x20 ∧ isLead i = true)

theorem fieldWrite_allLocked {b : Block} {i o a addr m : Nat} {r : RegDesc} (s : State)
    (hsoft : accMask (some r) (fun x => x == .rw || x == .hs || x == .ct) = 0)
    (hwl : accMask (some r) (· == .wl) ≠ 0) (hshadow : isShadow b o = false)
    (hwrote : ∀ old new wo s, wrote true b i o old new wo s = s) :
    fieldWrite 0 b i o a addr r m s = writeLocked (hubOfBlock s b i) a addr (accMask (some r) (· == .wl)) m s := by
  have hhub : ∀ v l, hubOfBlock { s.setReg a v with locked := l } b i = hubOfBlock s b i := fun _ _ => rfl
  simp only [fieldWrite, writeLocked, takeUnlocked, State.lockWord, State.setReg_locked, hsoft, mixBits_zero, if_neg hwl, hshadow, Bool.false_eq_true, if_false, hwrote,
    beq_self_eq_true, aliasResult, hhub]

theorem fieldWrite_lockReg {b : Block} {i o a addr m : Nat} {r : RegDesc} (hreg : IsLockReg b i o)
    (hr : regAt b o = some r) (s : State) :
    fieldWrite 0 b i o a addr r m s = writeLocked (hubOfBlock s b i) a addr (accMask (some r) (· == .wl)) m s := by
  rcases hreg with ⟨rfl, rfl⟩ | ⟨rfl, rfl, -⟩
  · have hdesc : r = ⟨0x20, 0x0, 1, 0x0, [⟨0, 1, .wl⟩, ⟨1, 1, .wl⟩, ⟨2, 1, .wl⟩, ⟨3, 1, .wl⟩, ⟨4, 1, .wl⟩]⟩ :=
      (Option.some.inj (hr.symm.trans (by decide +kernel)))
    subst hdesc
    exact fieldWrite_allLocked s (by decide) (by decide) (by decide) (fun _ _ _ _ => rfl)
  · have hdesc : r = ⟨0x20, 0x0, 1, 0x0, [⟨0, 12, .wl⟩, ⟨16, 16, .wl⟩]⟩ :=
      (Option.some.inj (hr.symm.trans (by decide +kernel)))
    subst hdesc
    exact fieldWrite_allLocked s (by decide) (by decide) (by decide) (fun _ _ _ _ => rfl)

/-! Where the two registers stand. -/

theorem aliasOf_window (a : BitVec 28) : aliasOf a.toNat = 0 := by
  have := a.isLt
  simp only [aliasOf, bitsOf]
  omega

theorem place_of_reach {s : State} {addr i o : Nat} {b : Block} (h : reach s addr = .at_ b i o) :
    place (windowOf addr) = some (b, i, o) := by
  unfold reach at h
  split at h
  · cases h
  split at h
  · cases h
  split at h
  · cases h
  split at h
  · cases h
  split at h
  · split_ifs at h
    cases h
    assumption
  · cases h
    assumption
  · cases h

theorem place_chip {h o : Nat} (hh : h < 2) (ho : o < 0x10000) : place (chipB h + o) = some (.chip, h, o) := by
  have hwindow : chipB h + o < 0x1000000 := by simp only [chipB, hubB]; omega
  have hregs : ¬ 0x400000 ≤ (chipB h + o) % 0x800000 := by simp only [chipB, hubB]; omega
  have hpage : (chipB h + o) % 0x800000 / 0x10000 = 0 := by simp only [chipB, hubB]; omega
  have hhub : (chipB h + o) / 0x800000 = h := by simp only [chipB, hubB]; omega
  have hoff : (chipB h + o) % 0x10000 = o := by simp only [chipB, hubB]; omega
  rw [place, if_pos hwindow, if_neg hregs, hpage, hhub, hoff]
  rfl

/-- A register outside CHIP is none of those that an access violation writes. -/
theorem State.reg_violation_of_place {s : State} {h addr w i o : Nat} {b : Block} (hh : h < 2)
    (hw : place w = some (b, i, o)) (hb : b ≠ .chip) : (s.violation h addr).reg w = s.reg w := by
  have hne : ∀ k < 0x10000, w ≠ chipB h + k := by
    rintro k hk rfl
    rw [place_chip hh hk] at hw
    cases hw
    exact hb rfl
  exact State.reg_violation_other s h addr w (hne _ (by decide)) (hne _ (by decide)) (hne _ (by decide))

theorem place_boot_hub {w i o : Nat} (hw : place w = some (.boot, i, o)) : i < 2 := by
  unfold place at hw
  split at hw
  case isTrue hwindow =>
    have hindex : i = w / 0x800000 := by
      split at hw
      · cases hw
      · obtain ⟨b, -, hplace⟩ := Option.map_eq_some_iff.mp hw
        cases hplace
        rfl
    omega
  case isFalse =>
    split at hw
    · cases hw
    · split at hw
      · dsimp only at hw
        split at hw
        · cases hw
        · split at hw
          · obtain ⟨b, hb, hplace⟩ := Option.map_eq_some_iff.mp hw
            cases hplace
            unfold tBlock at hb
            split at hb <;> cases hb
          · cases hw
      · cases hw

theorem hubOfBlock_lockReg {s : State} {b : Block} {w i o : Nat} (hreg : IsLockReg b i o)
    (hw : place w = some (b, i, o)) : hubOfBlock s b i < 2 := by
  rcases hreg with ⟨rfl, rfl⟩ | ⟨rfl, rfl, -⟩
  · exact place_boot_hub hw
  · simp only [hubOfBlock, hubOf]
    split <;> decide

theorem hostWrite_lockReg {s : State} {p : Path} {a : BitVec 28} {b : Block} {i o m : Nat} {r : RegDesc}
    (hpath : pathReaches s p a.toNat = true) (hreach : reach s a.toNat = .at_ b i o) (hreg : IsLockReg b i o)
    (hr : regAt b o = some r) (hm : m < 2 ^ 32) :
    hostWrite p a.toNat m s = writeLocked (hubOfBlock s b i) (windowOf a.toNat) a.toNat
      (accMask (some r) (· == .wl)) m { s with access := 0 } := by
  let q : State := { s with access := 0 }
  have hreach' : reach q a.toNat = .at_ b i o := hreach
  have hbus : hostWrite p a.toNat m s = busWrite p a.toNat m s := by
    rcases hreg with ⟨rfl, rfl⟩ | ⟨rfl, rfl, -⟩ <;> simp [hostWrite, hpath, hreach, R.BOOT_CMD]
  have hplain : isTable b o = false ∧ regMissing b i o = false ∧ readOnlyHere q b i o = false ∧
      specialWrite p 0 b i o a.toNat m q = none ∧ homeOf b i o (windowOf a.toNat) = windowOf a.toNat := by
    rcases hreg with ⟨rfl, rfl⟩ | ⟨rfl, rfl, hlead⟩
    · exact ⟨rfl, rfl, rfl, rfl, rfl⟩
    · exact ⟨rfl, by simp [regMissing, hlead], by simp [readOnlyHere, hlead], rfl, rfl⟩
  obtain ⟨htable, hpresent, hwritable, hspecial, hhome⟩ := hplain
  have hwrite := fieldWrite_lockReg (a := windowOf a.toNat) (addr := a.toNat) (m := m) hreg hr q
  calc hostWrite p a.toNat m s = fieldWrite 0 b i o (windowOf a.toNat) a.toNat r m q := by
        rw [hbus]
        simp only [busWrite, aliasOf_window, Nat.mod_eq_of_lt hm]
        rw [hreach']
        simp only [htable, hpresent, hwritable, hspecial, hhome, hr, Bool.or_false, Bool.false_eq_true, if_false, q]
    _ = _ := hwrite

/-! What the write leaves. -/

theorem takeUnlocked_lockWord (a wl m : Nat) (s : State) :
    (takeUnlocked a wl m s).lockWord a = (s.lockWord a ||| wl) % 2 ^ 32 := by
  simp only [takeUnlocked, State.lockWord, tget_tset_same, BitVec.toNat_ofNat]

theorem takeUnlocked_reg (a wl m : Nat) (s : State) :
    (takeUnlocked a wl m s).reg a = BitVec.ofNat 32 (mixBits (s.reg a).toNat m (without wl (s.lockWord a))) :=
  State.reg_setReg_same s a _

theorem ignored8_lockWord (s : State) (h addr a : Nat) : (ignored8 s h addr).lockWord a = s.lockWord a := rfl

theorem ignored8_reg (s : State) (h addr a : Nat) : (ignored8 s h addr).reg a = (s.violation h addr).reg a := by
  simp only [ignored8, State.reg]

theorem writeLocked_lockWord (h a addr wl m : Nat) (s : State) :
    (writeLocked h a addr wl m s).lockWord a = (s.lockWord a ||| wl) % 2 ^ 32 := by
  rw [writeLocked]
  split
  · exact takeUnlocked_lockWord a wl m s
  · rw [ignored8_lockWord, takeUnlocked_lockWord]

theorem writeLocked_reg {h a addr wl m i o : Nat} {b : Block} {s : State} (hh : h < 2)
    (hplace : place a = some (b, i, o)) (hb : b ≠ .chip) :
    (writeLocked h a addr wl m s).reg a =
      BitVec.ofNat 32 (mixBits (s.reg a).toNat m (without wl (s.lockWord a))) := by
  rw [writeLocked]
  split
  · exact takeUnlocked_reg a wl m s
  · rw [ignored8_reg, State.reg_violation_of_place hh hplace hb, takeUnlocked_reg]

/-- The answer of R8: the access and an event of source 38 with the address. -/
theorem ignored8_answers (s : State) (h addr : Nat) : (ignored8 s h addr).access = 2 ∧
    ∃ x, (ignored8 s h addr).flight = s.flight ++ [x] ∧ x.source = 38 ∧ x.detail = addr % 2 ^ 64 :=
  ⟨rfl, State.violation_flight_eq s h addr⟩

/-- A field that stands locked makes the write a violation. -/
theorem writeLocked_violates {h a addr wl m k : Nat} {s : State} (hwl : wl.testBit k = true)
    (hlock : (s.lockWord a).testBit k = true) :
    (writeLocked h a addr wl m s).access = 2 ∧
      ∃ x, (writeLocked h a addr wl m s).flight = s.flight ++ [x] ∧ x.source = 38 ∧ x.detail = addr % 2 ^ 64 := by
  have hmeet : wl &&& s.lockWord a ≠ 0 := by
    intro hzero
    have hbit := congrArg (fun n => Nat.testBit n k) hzero
    simp [Nat.testBit_and, hwl, hlock] at hbit
  rw [writeLocked, if_neg hmeet]
  exact ignored8_answers (takeUnlocked a wl m s) h addr

theorem hwApply_none (p : Path) (addr : Nat) (s : State) : hwApply p addr {} s = s := rfl

/-- Settles O10: the write takes, of the WL bits, those that do not stand locked, and locks all of them. -/
theorem lockedFieldWrite : Obligations.LockedFieldWrite := by
  unfold Obligations.LockedFieldWrite
  intro p a v i o b r k s hpath hreach hreg hr hwl
  have hplace := place_of_reach hreach
  have hhub : hubOfBlock s b i < 2 := hubOfBlock_lockReg hreg hplace
  have hb : b ≠ .chip := by rcases hreg with ⟨rfl, -⟩ | ⟨rfl, -⟩ <;> decide
  have hk : k.val < 32 := k.isLt
  rw [bit_eq_testBit] at hwl
  let wl := accMask (some r) (· == .wl)
  let w := windowOf a.toNat
  let q : State := { s with access := 0 }
  let t := writeLocked (hubOfBlock s b i) w a.toNat wl v.toNat q
  have hrun : exec (Instr.configWrite p (a.zeroExtend 32) v {}) s = .next t := by
    have haddr : (a.zeroExtend 32).toNat = a.toNat := by simp [BitVec.toNat_setWidth]; omega
    calc exec (Instr.configWrite p (a.zeroExtend 32) v {}) s
        = .next (hostWrite p (a.zeroExtend 32).toNat v.toNat s) := rfl
      _ = .next t := by rw [haddr, hostWrite_lockReg hpath hreach hreg hr v.isLt]
  have hword : (t.reg w).getLsbD k = if (s.lockWord w).testBit k then (s.reg w).getLsbD k else v.getLsbD k := by
    have hreg : t.reg w = BitVec.ofNat 32 (mixBits (s.reg w).toNat v.toNat (without wl (s.lockWord w))) :=
      writeLocked_reg hhub hplace hb
    rw [hreg, BitVec.getLsbD_ofNat, mixBits_testBit, without_testBit, hwl]
    cases (s.lockWord w).testBit k <;> simp [hk, BitVec.getLsbD]
  have hlocked : t.lockWord w = (s.lockWord w ||| wl) % 2 ^ 32 := writeLocked_lockWord _ _ _ _ _ q
  refine ⟨t, hrun, fun hlock => ?_, fun hlock => ?_, ?_⟩
  · rw [bit_eq_testBit] at hlock
    obtain ⟨haccess, x, hflight, hsource, hdetail⟩ := writeLocked_violates (h := hubOfBlock s b i) (addr := a.toNat)
      (m := v.toNat) (s := q) hwl hlock
    refine ⟨by rw [hword, if_pos hlock], haccess, x, hflight, hsource, ?_⟩
    omega
  · rw [bit_eq_testBit] at hlock
    rw [hword, hlock]
    rfl
  · change bit (t.lockWord w) k = true
    rw [bit_eq_testBit, hlocked, Nat.testBit_mod_two_pow, Nat.testBit_or, hwl]
    simp [hk]

end Sys2Proof.Machine
end

section
/-! PROOFS. The frame of the trigger rows (R161, R162), which the switch of the last die's TRG set breaks. -/

namespace Sys2Proof.Machine

/-- The COND_STATE register of a fifth T die: a window address that no block of the part holds. -/
def fifthCondState : Nat := trgB 4 + R.TRG_COND_STATE_STATE.off

/-- Condition 16 of die 3's fabric, of type OFF, is true where a switch sample has come, and bit 0 of the word at
`fifthCondState` is set. -/
def lastDieSwitching : State :=
  { State.reset with
    regs := [(fifthCondState, 1)]
    trg := [(3, { sw := some 0, conds := [(16, { state := true })] })] }

/-- Refutes O53: TRG_SWITCH of die 3 clears its condition 16, and shows that in the COND_STATE register of the die after
it, which lies in no TRG block. -/
theorem not_triggerRowsFrame : ¬ Obligations.TriggerRowsFrame := by
  unfold Obligations.TriggerRowsFrame
  rintro ⟨-, -, -, -, -, -, -, -, -, hswitch, -⟩
  obtain ⟨-, hreg⟩ := hswitch 3 lastDieSwitching (trgSwitchAt 3 0 lastDieSwitching) rfl
  have hout : ¬ inBlocks [.trg] fifthCondState := by decide +kernel
  have hcleared : (trgSwitchAt 3 0 lastDieSwitching).reg fifthCondState = 0 := by decide +kernel
  have hset : lastDieSwitching.reg fifthCondState = 1 := by decide +kernel
  have hkept := hreg fifthCondState hout
  rw [hcleared, hset] at hkept
  exact absurd hkept (by decide)

end Sys2Proof.Machine
end

section
/-! PROOFS. The parts of the state that have owners (R5, R360, R395, R407, R490, R622): which operations may change
    which of
them. `State.owned` erases the parts an operation may change, so that what an operation keeps is one equation, and
    `simp`
chains the equations of the operations it is made of. -/

namespace Sys2Proof.Machine

/-- A part of the state that only the rows of its own rules change: most are a field of `State`; `fuses` stands for the
fuse bits and key hashes, `lead` for the leading hub and `controlLost`. -/
inductive OwnedField where
  | cap | fuses | fusedSvn | lead | energy | drawn | brokenPipes | alive | aliveRuns | beatsMissed | spi | pwm | pairs
      | hkAt | hotLost | powerGood | resetLow | repairs | trgTx
  deriving DecidableEq

/-- The parts of the state with owners, beside the queue and the configuration, which no command changes. -/
structure OwnedState where
  pending : List Instr
  part : Part
  suffixE : Bool
  cap : List Host.Cell
  drawn : Nat
  trgTx : Tbl (List (List Byte))
  repairs : Tbl RepairSt
  lead : Nat
  powerGood : Bool
  resetLow : Bool
  pairs : Tbl PairSt
  pwm : Tbl PwmSt
  hkAt : Tbl Nat
  hotLost : Nat
  aliveRuns : Bool
  alive : Bool
  controlLost : Bool
  beatsMissed : Nat
  energy : Tbl Nat
  brokenPipes : List Nat
  spi : Tbl SpiSt
  fuses : Nat
  fusedSvn : Nat
  keyHash : Tbl (List Byte)

section
variable {parts : List OwnedField}

/-- The owned parts of a state, without those of `parts`. -/
def State.owned (parts : List OwnedField) (s : State) : OwnedState where
  pending := s.pending
  part := s.part
  suffixE := s.suffixE
  cap := if .cap ∈ parts then [] else s.cap
  drawn := if .drawn ∈ parts then 0 else s.drawn
  trgTx := if .trgTx ∈ parts then [] else s.trgTx
  repairs := if .repairs ∈ parts then [] else s.repairs
  lead := if .lead ∈ parts then 0 else s.lead
  powerGood := if .powerGood ∈ parts then true else s.powerGood
  resetLow := if .resetLow ∈ parts then false else s.resetLow
  pairs := if .pairs ∈ parts then [] else s.pairs
  pwm := if .pwm ∈ parts then [] else s.pwm
  hkAt := if .hkAt ∈ parts then [] else s.hkAt
  hotLost := if .hotLost ∈ parts then 0 else s.hotLost
  aliveRuns := if .aliveRuns ∈ parts then false else s.aliveRuns
  alive := if .alive ∈ parts then false else s.alive
  controlLost := if .lead ∈ parts then false else s.controlLost
  beatsMissed := if .beatsMissed ∈ parts then 0 else s.beatsMissed
  energy := if .energy ∈ parts then [] else s.energy
  brokenPipes := if .brokenPipes ∈ parts then [] else s.brokenPipes
  spi := if .spi ∈ parts then [] else s.spi
  fuses := if .fuses ∈ parts then 0 else s.fuses
  fusedSvn := if .fusedSvn ∈ parts then 0 else s.fusedSvn
  keyHash := if .fuses ∈ parts then [] else s.keyHash

/-- An update of parts without owners. -/
@[simp] theorem State.owned_mk (parts : List OwnedField) (s : State) (regs live tabS tabL force tabF locked : Tbl
    Word) (flight : List Event) (marks : Tbl (List Mark)) (link : Tbl Link) (acq : Tbl AcqSt) (jrx : JrxSt) (time :
    TimeSt) (items : List (Nat × List Byte)) (traceRing : Tbl ItemRing) (credits lineOvf codes spares enabledIn dmaMem
    : Tbl Nat) (stream : Tbl (Int × Int)) (readData : Word) (wb : Tbl WbSt) (trg : Tbl TrgSt) (recs : Tbl RecSt) (dens
    : Tbl DensSt) (cores : Tbl CoreSt) (zooms : Tbl ZoomSt) (tdc : Tbl TdcIn) (iv : Tbl IvUnit) (tdcCheck : Tbl
    (Option (Nat × Bool))) (ddr : Tbl DdrSt) (nfs : Tbl NfsSt) (clk : Tbl ClkSt) (enableStep powered access admissions
    : Nat) (hk : Tbl HkSt) (disp : Tbl DispSt) (dma : Tbl DmaSt) (eth : Tbl EthSt) (strs : Tbl EthStr) (fcol : Tbl
    FcolSt) (mbox : Tbl MboxSt) (plans : Tbl PlanSt) (planCmds : List (Nat × Nat)) (ledger : LedgerSt) (rails :
    RailSt) (boot : BootSt) (hashIn : List Byte) :
    ({ s with
      regs, live, tabS, tabL, force, tabF, locked, flight, marks, link, acq, jrx, time, items, traceRing
      credits, lineOvf, codes, spares, stream, readData, wb, trg, recs, dens, cores, zooms, tdc, iv, tdcCheck
      ddr, nfs, clk, enabledIn, enableStep, hk, powered, disp, dma, dmaMem, eth, strs, access, fcol, mbox
      plans, planCmds, admissions, ledger, rails, boot, hashIn } : State).owned parts = s.owned parts := rfl

/-- What is left of the owned parts when those of `parts` go as well. -/
def OwnedState.without (parts : List OwnedField) (o : OwnedState) : OwnedState :=
  { o with
    cap := if .cap ∈ parts then [] else o.cap
    drawn := if .drawn ∈ parts then 0 else o.drawn
    trgTx := if .trgTx ∈ parts then [] else o.trgTx
    repairs := if .repairs ∈ parts then [] else o.repairs
    lead := if .lead ∈ parts then 0 else o.lead
    powerGood := if .powerGood ∈ parts then true else o.powerGood
    resetLow := if .resetLow ∈ parts then false else o.resetLow
    pairs := if .pairs ∈ parts then [] else o.pairs
    pwm := if .pwm ∈ parts then [] else o.pwm
    hkAt := if .hkAt ∈ parts then [] else o.hkAt
    hotLost := if .hotLost ∈ parts then 0 else o.hotLost
    aliveRuns := if .aliveRuns ∈ parts then false else o.aliveRuns
    alive := if .alive ∈ parts then false else o.alive
    controlLost := if .lead ∈ parts then false else o.controlLost
    beatsMissed := if .beatsMissed ∈ parts then 0 else o.beatsMissed
    energy := if .energy ∈ parts then [] else o.energy
    brokenPipes := if .brokenPipes ∈ parts then [] else o.brokenPipes
    spi := if .spi ∈ parts then [] else o.spi
    fuses := if .fuses ∈ parts then 0 else o.fuses
    fusedSvn := if .fusedSvn ∈ parts then 0 else o.fusedSvn
    keyHash := if .fuses ∈ parts then [] else o.keyHash }

theorem State.owned_without {ps parts : List OwnedField} (h : ps ⊆ parts) (s : State) :
    (s.owned ps).without parts = s.owned parts := by
  have hfield : ∀ {α : Type} (k : OwnedField) (d x : α),
      (if k ∈ parts then d else if k ∈ ps then d else x) = if k ∈ parts then d else x := by
    intro α k d x
    by_cases hk : k ∈ ps
    · simp [h hk]
    · simp [hk]
  simp only [State.owned, OwnedState.without, hfield]

/-- What keeps all but the parts of `ps` keeps all but those of any larger list. -/
theorem State.owned_mono {ps parts : List OwnedField} {s t : State} (h : ps ⊆ parts) (heq : t.owned ps = s.owned ps) :
    t.owned parts = s.owned parts := by
  rw [← State.owned_without h, heq, State.owned_without h]

/-! An update of one part, where the part is left out. -/
@[simp] theorem State.owned_drawn (s : State) (x : Nat) (h : .drawn ∈ parts) :
    ({ s with drawn := x } : State).owned parts = s.owned parts :=
  State.owned_mono (ps := [.drawn]) (by simp [h]) rfl
@[simp] theorem State.owned_trgTx (s : State) (x : Tbl (List (List Byte))) (h : .trgTx ∈ parts) :
    ({ s with trgTx := x } : State).owned parts = s.owned parts :=
  State.owned_mono (ps := [.trgTx]) (by simp [h]) rfl
@[simp] theorem State.owned_repairs (s : State) (x : Tbl RepairSt) (h : .repairs ∈ parts) :
    ({ s with repairs := x } : State).owned parts = s.owned parts :=
  State.owned_mono (ps := [.repairs]) (by simp [h]) rfl
@[simp] theorem State.owned_lead (s : State) (x : Nat) (h : .lead ∈ parts) :
    ({ s with lead := x } : State).owned parts = s.owned parts :=
  State.owned_mono (ps := [.lead]) (by simp [h]) rfl
@[simp] theorem State.owned_powerGood (s : State) (x : Bool) (h : .powerGood ∈ parts) :
    ({ s with powerGood := x } : State).owned parts = s.owned parts :=
  State.owned_mono (ps := [.powerGood]) (by simp [h]) rfl
@[simp] theorem State.owned_resetLow (s : State) (x : Bool) (h : .resetLow ∈ parts) :
    ({ s with resetLow := x } : State).owned parts = s.owned parts :=
  State.owned_mono (ps := [.resetLow]) (by simp [h]) rfl
@[simp] theorem State.owned_pairs (s : State) (x : Tbl PairSt) (h : .pairs ∈ parts) :
    ({ s with pairs := x } : State).owned parts = s.owned parts :=
  State.owned_mono (ps := [.pairs]) (by simp [h]) rfl
@[simp] theorem State.owned_pwm (s : State) (x : Tbl PwmSt) (h : .pwm ∈ parts) :
    ({ s with pwm := x } : State).owned parts = s.owned parts :=
  State.owned_mono (ps := [.pwm]) (by simp [h]) rfl
@[simp] theorem State.owned_hkAt (s : State) (x : Tbl Nat) (h : .hkAt ∈ parts) :
    ({ s with hkAt := x } : State).owned parts = s.owned parts :=
  State.owned_mono (ps := [.hkAt]) (by simp [h]) rfl
@[simp] theorem State.owned_hotLost (s : State) (x : Nat) (h : .hotLost ∈ parts) :
    ({ s with hotLost := x } : State).owned parts = s.owned parts :=
  State.owned_mono (ps := [.hotLost]) (by simp [h]) rfl
@[simp] theorem State.owned_aliveRuns (s : State) (x : Bool) (h : .aliveRuns ∈ parts) :
    ({ s with aliveRuns := x } : State).owned parts = s.owned parts :=
  State.owned_mono (ps := [.aliveRuns]) (by simp [h]) rfl
@[simp] theorem State.owned_alive (s : State) (x : Bool) (h : .alive ∈ parts) :
    ({ s with alive := x } : State).owned parts = s.owned parts :=
  State.owned_mono (ps := [.alive]) (by simp [h]) rfl
@[simp] theorem State.owned_controlLost (s : State) (x : Bool) (h : .lead ∈ parts) :
    ({ s with controlLost := x } : State).owned parts = s.owned parts :=
  State.owned_mono (ps := [.lead]) (by simp [h]) rfl
@[simp] theorem State.owned_beatsMissed (s : State) (x : Nat) (h : .beatsMissed ∈ parts) :
    ({ s with beatsMissed := x } : State).owned parts = s.owned parts :=
  State.owned_mono (ps := [.beatsMissed]) (by simp [h]) rfl
@[simp] theorem State.owned_energy (s : State) (x : Tbl Nat) (h : .energy ∈ parts) :
    ({ s with energy := x } : State).owned parts = s.owned parts :=
  State.owned_mono (ps := [.energy]) (by simp [h]) rfl
@[simp] theorem State.owned_brokenPipes (s : State) (x : List Nat) (h : .brokenPipes ∈ parts) :
    ({ s with brokenPipes := x } : State).owned parts = s.owned parts :=
  State.owned_mono (ps := [.brokenPipes]) (by simp [h]) rfl
@[simp] theorem State.owned_spi (s : State) (x : Tbl SpiSt) (h : .spi ∈ parts) :
    ({ s with spi := x } : State).owned parts = s.owned parts :=
  State.owned_mono (ps := [.spi]) (by simp [h]) rfl
@[simp] theorem State.owned_fusedSvn (s : State) (x : Nat) (h : .fusedSvn ∈ parts) :
    ({ s with fusedSvn := x } : State).owned parts = s.owned parts :=
  State.owned_mono (ps := [.fusedSvn]) (by simp [h]) rfl

/-- An update of parts without owners and of capture memory. -/
@[simp] theorem State.owned_mk_cap (s : State) (regs live tabS tabL force tabF locked : Tbl Word) (flight : List
    Event) (marks : Tbl (List Mark)) (link : Tbl Link) (acq : Tbl AcqSt) (jrx : JrxSt) (time : TimeSt) (items : List
    (Nat × List Byte)) (traceRing : Tbl ItemRing) (credits lineOvf codes spares enabledIn dmaMem : Tbl Nat) (stream :
    Tbl (Int × Int)) (readData : Word) (wb : Tbl WbSt) (trg : Tbl TrgSt) (recs : Tbl RecSt) (dens : Tbl DensSt) (cores
    : Tbl CoreSt) (zooms : Tbl ZoomSt) (tdc : Tbl TdcIn) (iv : Tbl IvUnit) (tdcCheck : Tbl (Option (Nat × Bool))) (ddr
    : Tbl DdrSt) (nfs : Tbl NfsSt) (clk : Tbl ClkSt) (enableStep powered access admissions : Nat) (hk : Tbl HkSt)
    (disp : Tbl DispSt) (dma : Tbl DmaSt) (eth : Tbl EthSt) (strs : Tbl EthStr) (fcol : Tbl FcolSt) (mbox : Tbl
    MboxSt) (plans : Tbl PlanSt) (planCmds : List (Nat × Nat)) (ledger : LedgerSt) (rails : RailSt) (boot : BootSt)
    (hashIn : List Byte) (cap : List Host.Cell) (h : .cap ∈ parts) :
    ({ s with
      cap, regs, live, tabS, tabL, force, tabF, locked, flight, marks, link, acq, jrx, time, items, traceRing
      credits, lineOvf, codes, spares, stream, readData, wb, trg, recs, dens, cores, zooms, tdc, iv, tdcCheck
      ddr, nfs, clk, enabledIn, enableStep, hk, powered, disp, dma, dmaMem, eth, strs, access, fcol, mbox
      plans, planCmds, admissions, ledger, rails, boot, hashIn } : State).owned parts = s.owned parts :=
  State.owned_mono (ps := [.cap]) (by simp [h]) rfl

@[simp] theorem State.owned_ite (parts : List OwnedField) (c : Prop) [Decidable c] (s t : State) :
    (if c then s else t).owned parts = if c then s.owned parts else t.owned parts := apply_ite _ _ _ _

/-- A fold keeps what its steps keep. -/
@[simp] theorem State.owned_foldl {β : Type} (parts : List OwnedField) (f : State → β → State) (xs : List β) (s : State)
    (h : ∀ s b, (f s b).owned parts = s.owned parts) : (xs.foldl f s).owned parts = s.owned parts :=
  foldl_keeps (State.owned parts) f h xs s

/-- The answer `o` to a command leaves the owned parts of `s` but those of `parts` as they are. -/
def Keeps (parts : List OwnedField) (s : State) (o : Host.Outcome State Fault Refusal) : Prop :=
  ∀ t, o = .next t → t.owned parts = s.owned parts

@[simp] theorem keeps_next (parts : List OwnedField) (s t : State) : Keeps parts s (.next t) ↔ t.owned parts = s.owned
    parts := by
  simp [Keeps]

@[simp] theorem keeps_ite (parts : List OwnedField) (c : Prop) [Decidable c] (s : State) (o p : Host.Outcome State
    Fault Refusal) :
    Keeps parts s (if c then o else p) ↔ if c then Keeps parts s o else Keeps parts s p := by
  split <;> rfl

end


section
variable {parts : List OwnedField}


/-! The operations of Sys2Proof/Machine/Ops.lean. -/

@[simp] theorem State.setReg_owned (s : State) (a : Nat) (v : Word) :
    (State.setReg s a v).owned parts = s.owned parts := by simp [State.setReg]

@[simp] theorem State.setLive_owned (s : State) (a : Nat) (v : Word) :
    (State.setLive s a v).owned parts = s.owned parts := by simp [State.setLive]

@[simp] theorem State.wr_owned (s : State) (b : Nat) (f : Fld) (v : Nat) :
    (State.wr s b f v).owned parts = s.owned parts := by simp [State.wr]

@[simp] theorem State.wrI_owned (s : State) (b : Nat) (f : Fld) (v : Int) :
    (State.wrI s b f v).owned parts = s.owned parts := by simp [State.wrI]

@[simp] theorem State.wrL_owned (s : State) (b : Nat) (f : Fld) (v : Nat) :
    (State.wrL s b f v).owned parts = s.owned parts := by simp [State.wrL]

@[simp] theorem State.inc_owned (s : State) (b : Nat) (f : Fld) (n : Nat) :
    (State.inc s b f n).owned parts = s.owned parts := by simp [State.inc]

@[simp] theorem State.wrs_owned (b : Nat) (xs : List (Fld × Nat)) (s : State) : (s.wrs b xs).owned parts = s.owned
    parts := by
  induction xs generalizing s with
  | nil => rfl
  | cons x xs ih => exact ih _

@[simp] theorem State.handOver_owned (s : State) (b lo hi : Nat) :
    (State.handOver s b lo hi).owned parts = s.owned parts := by simp [State.handOver]

@[simp] theorem State.takeBack_owned (s : State) (b lo hi : Nat) :
    (State.takeBack s b lo hi).owned parts = s.owned parts := by simp [State.takeBack]

@[simp] theorem State.raise_owned (s : State) (src detail : Nat) :
    (State.raise s src detail).owned parts = s.owned parts := by simp [State.raise]

@[simp] theorem State.raiseIf_owned (s : State) (c : Bool) (src detail : Nat) :
    (State.raiseIf s c src detail).owned parts = s.owned parts := by simp [State.raiseIf]

@[simp] theorem State.draw_owned (tag w : Nat) (s : State) (hdrawn : .drawn ∈ parts) : (s.draw tag w).2.owned parts =
    s.owned parts := by
  simp [State.draw, State.owned, hdrawn]

@[simp] theorem State.violation_owned (s : State) (h addr : Nat) :
    (State.violation s h addr).owned parts = s.owned parts := by simp [State.violation]

@[simp] theorem State.setRaw_owned (s : State) (h a : Nat) (v : Byte) (hcap : .cap ∈ parts) :
    (State.setRaw s h a v).owned parts = s.owned parts := by
  simp [State.setRaw, State.owned, hcap]

@[simp] theorem State.putRaw_owned (s : State) (h a : Nat) (l : List Byte) (hcap : .cap ∈ parts) :
    (State.putRaw s h a l).owned parts = s.owned parts := by
  simp [State.putRaw, State.owned, hcap]

@[simp] theorem State.putBoot_owned (s : State) (h a : Nat) (l : List Byte) (hcap : .cap ∈ parts) :
    (State.putBoot s h a l).owned parts = s.owned parts := by simp [State.putBoot, hcap]

@[simp] theorem State.setBytes_owned (s : State) (h a : Nat) (l : List Byte) (hcap : .cap ∈ parts) :
    (State.setBytes s h a l).owned parts = s.owned parts := by simp [State.setBytes, hcap]

@[simp] theorem State.ringBytes_owned (s : State) (h base size pos : Nat) (l : List Byte) (hcap : .cap ∈ parts) :
    (State.ringBytes s h base size pos l).owned parts = s.owned parts := by simp [State.ringBytes, hcap]

@[simp] theorem State.zeroRange_owned (s : State) (h lo hi : Nat) (hcap : .cap ∈ parts) :
    (State.zeroRange s h lo hi).owned parts = s.owned parts := by
  unfold State.zeroRange
  (repeat' split) <;> simp [State.owned, hcap]

@[simp] theorem State.modWb_owned (s : State) (t : Nat) (f : WbSt → WbSt) :
    (State.modWb s t f).owned parts = s.owned parts := by simp [State.modWb]

@[simp] theorem State.setLink_owned (s : State) (l : Nat) (v : Link) :
    (State.setLink s l v).owned parts = s.owned parts := by simp [State.setLink]

@[simp] theorem State.setAcq_owned (s : State) (a : Nat) (v : AcqSt) :
    (State.setAcq s a v).owned parts = s.owned parts := by simp [State.setAcq]

@[simp] theorem State.mark_owned (s : State) (t first last bits : Nat) :
    (State.mark s t first last bits).owned parts = s.owned parts := by simp [State.mark]

@[simp] theorem State.enforceRegs_owned (s : State) (b lo hi : Nat) :
    (State.enforceRegs s b lo hi).owned parts = s.owned parts := by simp [State.enforceRegs]

@[simp] theorem State.enforce_owned (s : State) (b lo hi : Nat) :
    (State.enforce s b lo hi).owned parts = s.owned parts := by simp [State.enforce]

@[simp] theorem State.tabHandOver_owned (s : State) (lo hi : Nat) :
    (State.tabHandOver s lo hi).owned parts = s.owned parts := by simp [State.tabHandOver]

@[simp] theorem State.tabTakeBack_owned (s : State) (lo hi : Nat) :
    (State.tabTakeBack s lo hi).owned parts = s.owned parts := by simp [State.tabTakeBack]

@[simp] theorem State.tabEnforce_owned (s : State) (lo hi : Nat) :
    (State.tabEnforce s lo hi).owned parts = s.owned parts := by simp [State.tabEnforce]

@[simp] theorem State.pulse_owned (s : State) (h line : Nat) :
    (State.pulse s h line).owned parts = s.owned parts := by simp [State.pulse]

@[simp] theorem State.modRepair_owned (s : State) (h : Nat) (f : RepairSt → RepairSt) (hrepairs : .repairs ∈ parts) :
    (State.modRepair s h f).owned parts = s.owned parts := by
  simp [State.modRepair, State.owned, hrepairs]


/-! The operations of Sys2Proof/Machine/Link.lean. -/

@[simp] theorem State.showUsable_owned (s : State) :
    (State.showUsable s).owned parts = s.owned parts := by simp [State.showUsable]

@[simp] theorem trainLinks_owned (trained spare : BitVec 9) (s : State) :
    (trainLinks trained spare s).owned parts = s.owned parts := by simp [trainLinks]

@[simp] theorem execLinkTrain_keeps (trained spare : BitVec 9) (s : State) :
    Keeps parts s (execLinkTrain trained spare s) := by simp [execLinkTrain]

@[simp] theorem execLinkTrainTimeout_keeps (l : Fin 9) (s : State) :
    Keeps parts s (execLinkTrainTimeout l s) := by simp [execLinkTrainTimeout]

@[simp] theorem execLinkFlitSend_keeps (l : Fin 9) (back : Bool) (f : FlitSlot) (s : State) :
    Keeps parts s (execLinkFlitSend l back f s) := by simp [execLinkFlitSend]

@[simp] theorem execLinkCrcRetry_keeps (l : Fin 9) (back : Bool) (first : Nat) (s : State) :
    Keeps parts s (execLinkCrcRetry l back first s) := by simp [execLinkCrcRetry]


/-! The operations of Sys2Proof/Machine/Dsp.lean. -/

@[simp] theorem State.takeCodes_owned (s : State) (a f : Nat) (codes : List (BitVec 12)) (spare : BitVec 12) :
    (State.takeCodes s a f codes spare).owned parts = s.owned parts := by simp [State.takeCodes]

@[simp] theorem State.putSample_owned (s : State) (inp j : Nat) (x : Int × Int) :
    (State.putSample s inp j x).owned parts = s.owned parts := by simp [State.putSample]


/-! The operations of Sys2Proof/Machine/Level.lean. -/

@[simp] theorem sendItem_owned (inp : Nat) (bytes : List Byte) (s : State) (hcap : .cap ∈ parts) :
    (sendItem inp bytes s).owned parts = s.owned parts := by
  simp only [sendItem]
  split <;> simp [hcap]


/-! The operations of Sys2Proof/Machine/Wb.lean. -/

@[simp] theorem windowFigures_owned (t : Nat) (s : State) :
    (windowFigures t s).owned parts = s.owned parts := by simp [windowFigures]

@[simp] theorem wbSchedule_owned (t j : Nat) (s : State) :
    (wbSchedule t j s).owned parts = s.owned parts := by simp [wbSchedule]

@[simp] theorem wbHandOver_owned (t : Nat) (s : State) :
    (wbHandOver t s).owned parts = s.owned parts := by simp [wbHandOver]

@[simp] theorem wbCommit_owned (t : Nat) (s : State) :
    (wbCommit t s).owned parts = s.owned parts := by simp [wbCommit]

@[simp] theorem wbRevert_owned (t : Nat) (s : State) :
    (wbRevert t s).owned parts = s.owned parts := by simp [wbRevert]

@[simp] theorem execWbCommit_keeps (t : TDie) (s : State) :
    Keeps parts s (execWbCommit t s) := by simp [execWbCommit]

@[simp] theorem execWbRevert_keeps (t : TDie) (s : State) :
    Keeps parts s (execWbRevert t s) := by simp [execWbRevert]

@[simp] theorem execWbHeldHandover_keeps (t : TDie) (s : State) :
    Keeps parts s (execWbHeldHandover t s) := by simp [execWbHeldHandover]

@[simp] theorem emitTrace_owned (t : Nat) (extra : Nat) (s : State) (hcap : .cap ∈ parts) :
    (emitTrace t extra s).owned parts = s.owned parts := by simp [emitTrace, hcap]

@[simp] theorem averager_owned (t : Nat) (d : Det) (s : State) (hcap : .cap ∈ parts) :
    (averager t d s).owned parts = s.owned parts := by simp [averager, hcap]

@[simp] theorem closeDet_owned (t : Nat) (d : Det) (s : State) (hcap : .cap ∈ parts) :
    (closeDet t d s).owned parts = s.owned parts := by simp [closeDet, hcap]

@[simp] theorem mergeOldest_owned (t : Nat) (s : State) : (mergeOldest t s).2.owned parts = s.owned parts := by
  unfold mergeOldest; split <;> simp

@[simp] theorem passShort_owned (t : Nat) (d : Det) (s : State) (hcap : .cap ∈ parts) :
    (passShort t d s).owned parts = s.owned parts := by simp [passShort, hcap]

@[simp] theorem passParts_owned (t : Nat) (n : Nat) (s : State) (hcap : .cap ∈ parts) : (passParts t n s).owned parts
    = s.owned parts := by
  induction n generalizing s with
  | zero => rfl
  | succ n ih => simp [passParts, ih, hcap]

@[simp] theorem partialClose_owned (t idx : Nat) (s : State) (hcap : .cap ∈ parts) :
    (partialClose t idx s).owned parts = s.owned parts := by simp [partialClose, hcap]

@[simp] theorem wbRestart_owned (t j idx : Nat) (s : State) :
    (wbRestart t j idx s).owned parts = s.owned parts := by simp [wbRestart]

@[simp] theorem wbShow_owned (t : Nat) (s : State) :
    (wbShow t s).owned parts = s.owned parts := by simp [wbShow]

@[simp] theorem wbSwitchAt_owned (t sw idx : Nat) (s : State) :
    (wbSwitchAt t sw idx s).owned parts = s.owned parts := by simp [wbSwitchAt]

@[simp] theorem execWbPendingClear_keeps (t : TDie) (s : State) :
    Keeps parts s (execWbPendingClear t s) := by simp [execWbPendingClear]

@[simp] theorem wtabAccess_owned (t : Nat) (write : Option Word) (s : State) :
    (wtabAccess t write s).owned parts = s.owned parts := by
  unfold wtabAccess
  split <;> simp []

@[simp] theorem execWtabDataAccess_keeps (t : TDie) (write : Option (BitVec 18)) (s : State) :
    Keeps parts s (execWtabDataAccess t write s) := by simp [execWtabDataAccess]

@[simp] theorem rsAdvance_owned (t : Nat) (s : State) :
    (rsAdvance t s).owned parts = s.owned parts := by simp [rsAdvance]

@[simp] theorem notePipes_owned (l : Nat) (s : State) :
    (notePipes l s).owned parts = s.owned parts := by simp [notePipes]

@[simp] theorem specDone_owned (t idx : Nat) (s : State) :
    (specDone t idx s).owned parts = s.owned parts := by simp [specDone]

@[simp] theorem specLost_owned (t start : Nat) (s : State) :
    (specLost t start s).owned parts = s.owned parts := by simp [specLost]

@[simp] theorem specOut_owned (q : WbSet) (i : SpecInfo) (sat : Nat) (bins : List (Int × Int)) (e : Nat) (s : State)
    (hcap : .cap ∈ parts) :
    (specOut q i sat bins e s).owned parts = s.owned parts := by simp [specOut, hcap]

@[simp] theorem specDetect_owned (i : SpecInfo) (s : State) (hcap : .cap ∈ parts) :
    (specDetect i s).owned parts = s.owned parts := by simp [specDetect, hcap]


/-! The operations of Sys2Proof/Machine/Trg.lean. -/

@[simp] theorem State.modTrg_owned (s : State) (l : Nat) (f : TrgSt → TrgSt) :
    (State.modTrg s l f).owned parts = s.owned parts := by simp [State.modTrg]

@[simp] theorem State.modUnit_owned (s : State) (l u : Nat) (f : TrgUnit → TrgUnit) :
    (State.modUnit s l u f).owned parts = s.owned parts := by simp [State.modUnit]

@[simp] theorem trgEntry_owned (l : Nat) (e : TrgEntry) (s : State) :
    (trgEntry l e s).owned parts = s.owned parts := by simp [trgEntry]

@[simp] theorem showCond_owned (l c : Nat) (on : Bool) (s : State) :
    (showCond l c on s).owned parts = s.owned parts := by simp [showCond]

@[simp] theorem countHit_owned (l c : Nat) (s : State) :
    (countHit l c s).owned parts = s.owned parts := by simp [countHit]

@[simp] theorem condStateAt_owned (l c set k : Nat) (on : Bool) (flags : Nat) (s : State) :
    (condStateAt l c set k on flags s).owned parts = s.owned parts := by simp [condStateAt]

@[simp] theorem condState_owned (l c k : Nat) (on : Bool) (flags : Nat) (s : State) :
    (condState l c k on flags s).owned parts = s.owned parts := by simp [condState]

@[simp] theorem condPoint_owned (l c k flags : Nat) (s : State) :
    (condPoint l c k flags s).owned parts = s.owned parts := by simp [condPoint]

@[simp] theorem extHit_owned (l u b k : Nat) (pre post sender : Nat) (s : State) (id : Nat) :
    (extHit l u b k pre post sender s id).owned parts = s.owned parts := by simp [extHit]

@[simp] theorem State.setCond_owned (s : State) (l c : Nat) (q : CondSt) :
    (State.setCond s l c q).owned parts = s.owned parts := by simp [State.setCond]

@[simp] theorem levelAt_owned (i c k : Nat) (s : State) : (levelAt i c k s).1.owned parts = s.owned parts := by
  simp [levelAt]

@[simp] theorem widthAt_owned (i c k : Nat) (s : State) : (widthAt i c k s).1.owned parts = s.owned parts := by
  simp only [widthAt]
  split_ifs <;> simp

@[simp] theorem timeScan_owned (ty l₁ c : Nat) (n : Nat) (s : State) :
    (timeScan ty l₁ c n s).owned parts = s.owned parts := by
  induction n generalizing s with
  | zero => rfl
  | succ n ih =>
    unfold timeScan
    extract_lets k tk condition u r
    split
    · rfl
    · have hr : r.1.owned parts = s.owned parts := by
        simp only [r]
        split_ifs <;> simp [u]
      split
      · exact hr
      · rw [ih, hr]

@[simp] theorem execLevelHit_keeps (t : TDie) (c : Fin 16) (s : State) :
    Keeps parts s (execLevelHit t c s) := by simp [execLevelHit]

@[simp] theorem execWidthHit_keeps (t : TDie) (c : Fin 16) (s : State) :
    Keeps parts s (execWidthHit t c s) := by simp [execWidthHit]

@[simp] theorem condsEnabled_owned (t : Nat) (s : State) :
    (condsEnabled t s).owned parts = s.owned parts := by simp [condsEnabled]

@[simp] theorem zoomConds_owned (t ch det k : Nat) (v : Int) (flags : Nat) (s : State) :
    (zoomConds t ch det k v flags s).owned parts = s.owned parts := by simp [zoomConds]

@[simp] theorem coreConds_owned (t core k : Nat) (flags : Nat) (s : State) :
    (coreConds t core k flags s).owned parts = s.owned parts := by simp [coreConds]

@[simp] theorem spectralCond_owned (l c k n flags : Nat) (v : Option Bool) (s : State) :
    (spectralCond l c k n flags v s).owned parts = s.owned parts := by simp [spectralCond]

@[simp] theorem spectralTake_owned (l src : Nat) (r : SpecResult) (s : State) :
    (spectralTake l src r s).owned parts = s.owned parts := by simp [spectralTake]

@[simp] theorem offerXin_owned (l u k : Nat) (s : State) :
    (offerXin l u k s).owned parts = s.owned parts := by simp [offerXin]

@[simp] theorem issueEvent_owned (l u k n : Nat) (f : Fire) (s : State) :
    (issueEvent l u k n f s).owned parts = s.owned parts := by simp [issueEvent]

@[simp] theorem completeEvent_owned (l u : Nat) (d : Nat × Nat × Fire) (s : State) :
    (completeEvent l u d s).owned parts = s.owned parts := by simp [completeEvent]

@[simp] theorem setHeld_owned (l u : Nat) (h : Option (Nat × Fire)) (s : State) :
    (setHeld l u h s).owned parts = s.owned parts := by simp [setHeld]

@[simp] theorem applyOut_owned (l u : Nat) (o : UnitOut) (s : State) :
    (applyOut l u o s).owned parts = s.owned parts := by simp [applyOut]

@[simp] theorem unitWindow_owned (l u k : Nat) (s : State) :
    (unitWindow l u k s).owned parts = s.owned parts := by
  unfold unitWindow
  split <;> simp []

@[simp] theorem unitSample_owned (l k u : Nat) (s : State) :
    (unitSample l k u s).owned parts = s.owned parts := by simp [unitSample]

@[simp] theorem fabricTo_owned (l j : Nat) (s : State) :
    (fabricTo l j s).owned parts = s.owned parts := by simp [fabricTo]

@[simp] theorem execFabricEvaluate_keeps (t : TDie) (j : Nat) (s : State) :
    Keeps parts s (execFabricEvaluate t j s) := by simp [execFabricEvaluate]

@[simp] theorem execDropoutWindowExpire_keeps (t : TDie) (u : Fin 8) (s : State) :
    Keeps parts s (execDropoutWindowExpire t u s) := by simp [execDropoutWindowExpire]

@[simp] theorem execHoldoffEnd_keeps (t : TDie) (u : Fin 8) (s : State) :
    Keeps parts s (execHoldoffEnd t u s) := by simp [execHoldoffEnd]

@[simp] theorem trguForce_owned (t u : Nat) (s : State) :
    (trguForce t u s).owned parts = s.owned parts := by simp [trguForce]

@[simp] theorem execTrguForce_keeps (t : TDie) (u : Fin 8) (s : State) :
    Keeps parts s (execTrguForce t u s) := by simp [execTrguForce]

@[simp] theorem execTimerHit_keeps (t : TDie) (u : Fin 8) (j : Nat) (s : State) :
    Keeps parts s (execTimerHit t u j s) := by simp [execTimerHit]

@[simp] theorem tdcHits_owned (n : Nat) (time : Int) (s : State) :
    (tdcHits n time s).owned parts = s.owned parts := by simp [tdcHits]

@[simp] theorem mergeLate_owned (l u k n : Nat) (f : Fire) (s : State) :
    (mergeLate l u k n f s).owned parts = s.owned parts := by simp [mergeLate]

@[simp] theorem completeLate_owned (l u : Nat) (d : Nat × Nat × Fire) (s : State) :
    (completeLate l u d s).owned parts = s.owned parts := by simp [completeLate]

@[simp] theorem lateUnit_owned (l u : Nat) (log log' : List TrgEntry) (s : State) :
    (lateUnit l u log log' s).owned parts = s.owned parts := by simp [lateUnit]

@[simp] theorem lateUncovered_owned (l u : Nat) (e : TrgEntry) (s : State) :
    (lateUncovered l u e s).owned parts = s.owned parts := by simp [lateUncovered]

@[simp] theorem execLateHit_keeps (t : TDie) (s : State) :
    Keeps parts s (execLateHit t s) := by
  unfold execLateHit
  split <;> simp []

@[simp] theorem queueMessage_owned (l h : Nat) (m : List Byte) (s : State) (htrgTx : .trgTx ∈ parts) :
    (queueMessage l h m s).owned parts = s.owned parts := by
  simp only [queueMessage]
  split
  · simp
  · simp [htrgTx]

@[simp] theorem execTriggerMessageSend_keeps (t : TDie) (s : State) (htrgTx : .trgTx ∈ parts) :
    Keeps parts s (execTriggerMessageSend t s) := by
  unfold execTriggerMessageSend
  split <;> simp [htrgTx]

@[simp] theorem execTriggerMessageRepeat_keeps (t : TDie) (s : State) (htrgTx : .trgTx ∈ parts) :
    Keeps parts s (execTriggerMessageRepeat t s) := by
  unfold execTriggerMessageRepeat
  split <;> simp [htrgTx]

@[simp] theorem unitMessage_owned (l u : Nat) (m : List Byte) (s : State) :
    (unitMessage l u m s).owned parts = s.owned parts := by simp [unitMessage]

@[simp] theorem leadMessage_owned (l : Nat) (m : List Byte) (s : State) :
    (leadMessage l m s).owned parts = s.owned parts := by simp [leadMessage]

@[simp] theorem receiveMessage_owned (m : List Byte) (s : State) :
    (receiveMessage m s).owned parts = s.owned parts := by simp [receiveMessage]

@[simp] theorem execTriggerMessageReceive_keeps (payload : List Byte) (s : State) :
    Keeps parts s (execTriggerMessageReceive payload s) := by simp [execTriggerMessageReceive]

@[simp] theorem trgSchedule_owned (l j : Nat) (s : State) :
    (trgSchedule l j s).owned parts = s.owned parts := by simp [trgSchedule]

@[simp] theorem trgHandOver_owned (l : Nat) (s : State) :
    (trgHandOver l s).owned parts = s.owned parts := by
  simp only [trgHandOver]
  (repeat' split) <;> simp []

@[simp] theorem trgCommit_owned (t : Nat) (s : State) :
    (trgCommit t s).owned parts = s.owned parts := by simp [trgCommit]

@[simp] theorem trgRevert_owned (t : Nat) (s : State) :
    (trgRevert t s).owned parts = s.owned parts := by simp [trgRevert]

@[simp] theorem execTrgCommit_keeps (t : TDie) (s : State) :
    Keeps parts s (execTrgCommit t s) := by simp [execTrgCommit]

@[simp] theorem execTrgRevert_keeps (t : TDie) (s : State) :
    Keeps parts s (execTrgRevert t s) := by simp [execTrgRevert]

@[simp] theorem execTrgHeldHandover_keeps (t : TDie) (s : State) :
    Keeps parts s (execTrgHeldHandover t s) := by simp [execTrgHeldHandover]

@[simp] theorem trgSwitchAt_owned (l sw : Nat) (s : State) :
    (trgSwitchAt l sw s).owned parts = s.owned parts := by simp [trgSwitchAt]

@[simp] theorem execTrgSwitch_keeps (t : TDie) (s : State) :
    Keeps parts s (execTrgSwitch t s) := by
  unfold execTrgSwitch
  split <;> simp []

@[simp] theorem execTrgPendingClear_keeps (t : TDie) (s : State) :
    Keeps parts s (execTrgPendingClear t s) := by simp [execTrgPendingClear]

@[simp] theorem maskAccess_owned (t : Nat) (write : Option Word) (s : State) :
    (maskAccess t write s).owned parts = s.owned parts := by
  unfold maskAccess
  split <;> simp []

@[simp] theorem execTrgMaskDataAccess_keeps (t : TDie) (write : Option Word) (s : State) :
    Keeps parts s (execTrgMaskDataAccess t write s) := by simp [execTrgMaskDataAccess]

@[simp] theorem execAutoMaskBuild_keeps (t : TDie) (s : State) :
    Keeps parts s (execAutoMaskBuild t s) := by simp [execAutoMaskBuild]

@[simp] theorem trgShow_owned (l : Nat) (s : State) :
    (trgShow l s).owned parts = s.owned parts := by simp [trgShow]

@[simp] theorem trgStreamStart_owned (l j : Nat) (s : State) :
    (trgStreamStart l j s).owned parts = s.owned parts := by simp [trgStreamStart]


/-! The operations of Sys2Proof/Machine/Cpu.lean. -/

@[simp] theorem State.modCore_owned (s : State) (t c : Nat) (f : CoreSt → CoreSt) :
    (State.modCore s t c f).owned parts = s.owned parts := by simp [State.modCore]

@[simp] theorem dmStore_owned (t c a v : Nat) (s : State) :
    (dmStore t c a v s).owned parts = s.owned parts := by simp [dmStore]

@[simp] theorem State.wrC_owned (s : State) (t c : Nat) (f : Fld) (v : Nat) :
    (State.wrC s t c f v).owned parts = s.owned parts := by simp [State.wrC]

@[simp] theorem coreOutClose_owned (t c p extra : Nat) (s : State) :
    (coreOutClose t c p extra s).owned parts = s.owned parts := by simp [coreOutClose]

@[simp] theorem coreHalt_owned (t c cause : Nat) (s : State) :
    (coreHalt t c cause s).owned parts = s.owned parts := by simp [coreHalt]

@[simp] theorem coreShow_owned (t c : Nat) (s : State) :
    (coreShow t c s).owned parts = s.owned parts := by simp [coreShow]

@[simp] theorem coreStart_owned (t c : Nat) (s : State) :
    (coreStart t c s).owned parts = s.owned parts := by simp [coreStart]

@[simp] theorem coreStop_owned (t c : Nat) (s : State) :
    (coreStop t c s).owned parts = s.owned parts := by simp [coreStop]

@[simp] theorem coreReset0_owned (t c : Nat) (s : State) :
    (coreReset0 t c s).owned parts = s.owned parts := by simp [coreReset0]

@[simp] theorem takeInterrupt_owned (t c k : Nat) (s : State) :
    (takeInterrupt t c k s).owned parts = s.owned parts := by simp [takeInterrupt]

@[simp] theorem execInterruptTake_keeps (t : TDie) (c : CoreIx) (s : State) :
    Keeps parts s (execInterruptTake t c s) := by
  unfold execInterruptTake
  (repeat' split) <;> simp []

@[simp] theorem execCoreTimerExpire_keeps (t : TDie) (c : CoreIx) (s : State) :
    Keeps parts s (execCoreTimerExpire t c s) := by simp [execCoreTimerExpire]

@[simp] theorem portPut_owned (t c p : Nat) (w : PortWord) (s : State) :
    (portPut t c p w s).owned parts = s.owned parts := by simp [portPut]

theorem liveArrive_owned {t c p : Nat} {w : PortWord} {s u : State} (h : liveArrive t c p w s = some u) :
    u.owned parts = s.owned parts := by
  unfold liveArrive at h
  split_ifs at h <;> cases h <;> simp

@[simp] theorem catchupFill_owned (t c p : Nat) (s : State) :
    (catchupFill t c p s).owned parts = s.owned parts := by
  simp only [catchupFill]
  (repeat' split) <;> simp []


/-! The operations of Sys2Proof/Machine/CpuExec.lean. -/

@[simp] theorem coreDo_owned (t c : Nat) (i : CoreInstr) (s : State) :
    (coreDo t c i s).owned parts = s.owned parts := by
  simp only [coreDo]
  (repeat' split) <;> simp []

@[simp] theorem coreCycles_owned (t c n : Nat) (s : State) :
    (coreCycles t c n s).owned parts = s.owned parts := by simp [coreCycles]

@[simp] theorem coreStall_owned (t c : Nat) (s : State) :
    (coreStall t c s).owned parts = s.owned parts := by simp [coreStall]

@[simp] theorem inTake_owned (t c port xi xq : Nat) (nb : Bool) (w : PortWord) (rest : List PortWord) (s : State) :
    (inTake t c port xi xq nb w rest s).owned parts = s.owned parts := by simp [inTake]

@[simp] theorem outPut_owned (t c p v : Nat) (s : State) :
    (outPut t c p v s).owned parts = s.owned parts := by simp [outPut]

@[simp] theorem outDrain_owned (t c p n : Nat) (s : State) :
    (outDrain t c p n s).owned parts = s.owned parts := by simp [outDrain]

@[simp] theorem issueInstr_owned (t c : Nat) (i : CoreInstr) (s : State) :
    (issueInstr t c i s).owned parts = s.owned parts := by
  simp only [issueInstr]
  (repeat' split) <;> simp []

@[simp] theorem coreEcc_owned (t c : Nat) (e : EccRead) (s : State) :
    (coreEcc t c e s).owned parts = s.owned parts := by simp [coreEcc]

@[simp] theorem coreCmd_owned (t c : Nat) (e : EccRead) (op : CoreOp) (s : State) :
    (coreCmd t c e op s).owned parts = s.owned parts := by
  simp only [coreCmd]
  (repeat' split) <;> simp []

@[simp] theorem execCoreNop_keeps (t : TDie) (c : CoreIx) (e : EccRead) (s : State) :
    Keeps parts s (execCoreNop t c e s) := by simp [execCoreNop]

@[simp] theorem execCoreHalt_keeps (t : TDie) (c : CoreIx) (e : EccRead) (s : State) :
    Keeps parts s (execCoreHalt t c e s) := by simp [execCoreHalt]

@[simp] theorem execCoreAdd_keeps (t : TDie) (c : CoreIx) (e : EccRead) (s : State) :
    Keeps parts s (execCoreAdd t c e s) := by simp [execCoreAdd]

@[simp] theorem execCoreAdc_keeps (t : TDie) (c : CoreIx) (e : EccRead) (s : State) :
    Keeps parts s (execCoreAdc t c e s) := by simp [execCoreAdc]

@[simp] theorem execCoreSub_keeps (t : TDie) (c : CoreIx) (e : EccRead) (s : State) :
    Keeps parts s (execCoreSub t c e s) := by simp [execCoreSub]

@[simp] theorem execCoreSbc_keeps (t : TDie) (c : CoreIx) (e : EccRead) (s : State) :
    Keeps parts s (execCoreSbc t c e s) := by simp [execCoreSbc]

@[simp] theorem execCoreAdds_keeps (t : TDie) (c : CoreIx) (e : EccRead) (s : State) :
    Keeps parts s (execCoreAdds t c e s) := by simp [execCoreAdds]

@[simp] theorem execCoreSubs_keeps (t : TDie) (c : CoreIx) (e : EccRead) (s : State) :
    Keeps parts s (execCoreSubs t c e s) := by simp [execCoreSubs]

@[simp] theorem execCoreAnd_keeps (t : TDie) (c : CoreIx) (e : EccRead) (s : State) :
    Keeps parts s (execCoreAnd t c e s) := by simp [execCoreAnd]

@[simp] theorem execCoreOr_keeps (t : TDie) (c : CoreIx) (e : EccRead) (s : State) :
    Keeps parts s (execCoreOr t c e s) := by simp [execCoreOr]

@[simp] theorem execCoreXor_keeps (t : TDie) (c : CoreIx) (e : EccRead) (s : State) :
    Keeps parts s (execCoreXor t c e s) := by simp [execCoreXor]

@[simp] theorem execCoreAndn_keeps (t : TDie) (c : CoreIx) (e : EccRead) (s : State) :
    Keeps parts s (execCoreAndn t c e s) := by simp [execCoreAndn]

@[simp] theorem execCoreAsr_keeps (t : TDie) (c : CoreIx) (e : EccRead) (s : State) :
    Keeps parts s (execCoreAsr t c e s) := by simp [execCoreAsr]

@[simp] theorem execCoreLsr_keeps (t : TDie) (c : CoreIx) (e : EccRead) (s : State) :
    Keeps parts s (execCoreLsr t c e s) := by simp [execCoreLsr]

@[simp] theorem execCoreLsl_keeps (t : TDie) (c : CoreIx) (e : EccRead) (s : State) :
    Keeps parts s (execCoreLsl t c e s) := by simp [execCoreLsl]

@[simp] theorem execCoreMin_keeps (t : TDie) (c : CoreIx) (e : EccRead) (s : State) :
    Keeps parts s (execCoreMin t c e s) := by simp [execCoreMin]

@[simp] theorem execCoreMax_keeps (t : TDie) (c : CoreIx) (e : EccRead) (s : State) :
    Keeps parts s (execCoreMax t c e s) := by simp [execCoreMax]

@[simp] theorem execCoreAbs_keeps (t : TDie) (c : CoreIx) (e : EccRead) (s : State) :
    Keeps parts s (execCoreAbs t c e s) := by simp [execCoreAbs]

@[simp] theorem execCoreNeg_keeps (t : TDie) (c : CoreIx) (e : EccRead) (s : State) :
    Keeps parts s (execCoreNeg t c e s) := by simp [execCoreNeg]

@[simp] theorem execCoreNot_keeps (t : TDie) (c : CoreIx) (e : EccRead) (s : State) :
    Keeps parts s (execCoreNot t c e s) := by simp [execCoreNot]

@[simp] theorem execCoreCmp_keeps (t : TDie) (c : CoreIx) (e : EccRead) (s : State) :
    Keeps parts s (execCoreCmp t c e s) := by simp [execCoreCmp]

@[simp] theorem execCoreTst_keeps (t : TDie) (c : CoreIx) (e : EccRead) (s : State) :
    Keeps parts s (execCoreTst t c e s) := by simp [execCoreTst]

@[simp] theorem execCoreNorm_keeps (t : TDie) (c : CoreIx) (e : EccRead) (s : State) :
    Keeps parts s (execCoreNorm t c e s) := by simp [execCoreNorm]

@[simp] theorem execCoreAddi_keeps (t : TDie) (c : CoreIx) (e : EccRead) (s : State) :
    Keeps parts s (execCoreAddi t c e s) := by simp [execCoreAddi]

@[simp] theorem execCoreAndi_keeps (t : TDie) (c : CoreIx) (e : EccRead) (s : State) :
    Keeps parts s (execCoreAndi t c e s) := by simp [execCoreAndi]

@[simp] theorem execCoreOri_keeps (t : TDie) (c : CoreIx) (e : EccRead) (s : State) :
    Keeps parts s (execCoreOri t c e s) := by simp [execCoreOri]

@[simp] theorem execCoreXori_keeps (t : TDie) (c : CoreIx) (e : EccRead) (s : State) :
    Keeps parts s (execCoreXori t c e s) := by simp [execCoreXori]

@[simp] theorem execCoreCmpi_keeps (t : TDie) (c : CoreIx) (e : EccRead) (s : State) :
    Keeps parts s (execCoreCmpi t c e s) := by simp [execCoreCmpi]

@[simp] theorem execCoreShi_keeps (t : TDie) (c : CoreIx) (e : EccRead) (s : State) :
    Keeps parts s (execCoreShi t c e s) := by simp [execCoreShi]

@[simp] theorem execCoreMov_keeps (t : TDie) (c : CoreIx) (e : EccRead) (s : State) :
    Keeps parts s (execCoreMov t c e s) := by simp [execCoreMov]

@[simp] theorem execCoreLdi_keeps (t : TDie) (c : CoreIx) (e : EccRead) (s : State) :
    Keeps parts s (execCoreLdi t c e s) := by simp [execCoreLdi]

@[simp] theorem execCoreLdih_keeps (t : TDie) (c : CoreIx) (e : EccRead) (s : State) :
    Keeps parts s (execCoreLdih t c e s) := by simp [execCoreLdih]

@[simp] theorem execCoreLd_keeps (t : TDie) (c : CoreIx) (e : EccRead) (s : State) :
    Keeps parts s (execCoreLd t c e s) := by simp [execCoreLd]

@[simp] theorem execCoreSt_keeps (t : TDie) (c : CoreIx) (e : EccRead) (s : State) :
    Keeps parts s (execCoreSt t c e s) := by simp [execCoreSt]

@[simp] theorem execCoreClra_keeps (t : TDie) (c : CoreIx) (e : EccRead) (s : State) :
    Keeps parts s (execCoreClra t c e s) := by simp [execCoreClra]

@[simp] theorem execCoreMova_keeps (t : TDie) (c : CoreIx) (e : EccRead) (s : State) :
    Keeps parts s (execCoreMova t c e s) := by simp [execCoreMova]

@[simp] theorem execCoreAdda_keeps (t : TDie) (c : CoreIx) (e : EccRead) (s : State) :
    Keeps parts s (execCoreAdda t c e s) := by simp [execCoreAdda]

@[simp] theorem execCoreSuba_keeps (t : TDie) (c : CoreIx) (e : EccRead) (s : State) :
    Keeps parts s (execCoreSuba t c e s) := by simp [execCoreSuba]

@[simp] theorem execCoreNega_keeps (t : TDie) (c : CoreIx) (e : EccRead) (s : State) :
    Keeps parts s (execCoreNega t c e s) := by simp [execCoreNega]

@[simp] theorem execCoreAbsa_keeps (t : TDie) (c : CoreIx) (e : EccRead) (s : State) :
    Keeps parts s (execCoreAbsa t c e s) := by simp [execCoreAbsa]

@[simp] theorem execCoreAsha_keeps (t : TDie) (c : CoreIx) (e : EccRead) (s : State) :
    Keeps parts s (execCoreAsha t c e s) := by simp [execCoreAsha]

@[simp] theorem execCoreLdah_keeps (t : TDie) (c : CoreIx) (e : EccRead) (s : State) :
    Keeps parts s (execCoreLdah t c e s) := by simp [execCoreLdah]

@[simp] theorem execCoreLdal_keeps (t : TDie) (c : CoreIx) (e : EccRead) (s : State) :
    Keeps parts s (execCoreLdal t c e s) := by simp [execCoreLdal]

@[simp] theorem execCoreExt_keeps (t : TDie) (c : CoreIx) (e : EccRead) (s : State) :
    Keeps parts s (execCoreExt t c e s) := by simp [execCoreExt]

@[simp] theorem execCoreCmpa_keeps (t : TDie) (c : CoreIx) (e : EccRead) (s : State) :
    Keeps parts s (execCoreCmpa t c e s) := by simp [execCoreCmpa]

@[simp] theorem execCoreMpy_keeps (t : TDie) (c : CoreIx) (e : EccRead) (s : State) :
    Keeps parts s (execCoreMpy t c e s) := by simp [execCoreMpy]

@[simp] theorem execCoreMac_keeps (t : TDie) (c : CoreIx) (e : EccRead) (s : State) :
    Keeps parts s (execCoreMac t c e s) := by simp [execCoreMac]

@[simp] theorem execCoreMsu_keeps (t : TDie) (c : CoreIx) (e : EccRead) (s : State) :
    Keeps parts s (execCoreMsu t c e s) := by simp [execCoreMsu]

@[simp] theorem execCoreLdd_keeps (t : TDie) (c : CoreIx) (e : EccRead) (s : State) :
    Keeps parts s (execCoreLdd t c e s) := by simp [execCoreLdd]

@[simp] theorem execCoreMaxi_keeps (t : TDie) (c : CoreIx) (e : EccRead) (s : State) :
    Keeps parts s (execCoreMaxi t c e s) := by simp [execCoreMaxi]

@[simp] theorem execCoreMini_keeps (t : TDie) (c : CoreIx) (e : EccRead) (s : State) :
    Keeps parts s (execCoreMini t c e s) := by simp [execCoreMini]

@[simp] theorem execCoreJmp_keeps (t : TDie) (c : CoreIx) (e : EccRead) (s : State) :
    Keeps parts s (execCoreJmp t c e s) := by simp [execCoreJmp]

@[simp] theorem execCoreCall_keeps (t : TDie) (c : CoreIx) (e : EccRead) (s : State) :
    Keeps parts s (execCoreCall t c e s) := by simp [execCoreCall]

@[simp] theorem execCoreJr_keeps (t : TDie) (c : CoreIx) (e : EccRead) (s : State) :
    Keeps parts s (execCoreJr t c e s) := by simp [execCoreJr]

@[simp] theorem execCoreReti_keeps (t : TDie) (c : CoreIx) (e : EccRead) (s : State) :
    Keeps parts s (execCoreReti t c e s) := by simp [execCoreReti]

@[simp] theorem execCoreRep_keeps (t : TDie) (c : CoreIx) (e : EccRead) (s : State) :
    Keeps parts s (execCoreRep t c e s) := by simp [execCoreRep]

@[simp] theorem execCoreLexit_keeps (t : TDie) (c : CoreIx) (e : EccRead) (s : State) :
    Keeps parts s (execCoreLexit t c e s) := by simp [execCoreLexit]

@[simp] theorem execCoreIn_keeps (t : TDie) (c : CoreIx) (e : EccRead) (s : State) :
    Keeps parts s (execCoreIn t c e s) := by simp [execCoreIn]

@[simp] theorem execCoreOut_keeps (t : TDie) (c : CoreIx) (e : EccRead) (drained : Nat) (s : State) :
    Keeps parts s (execCoreOut t c e drained s) := by
  unfold execCoreOut
  split <;> simp []

@[simp] theorem execCoreTrig_keeps (t : TDie) (c : CoreIx) (e : EccRead) (s : State) :
    Keeps parts s (execCoreTrig t c e s) := by simp [execCoreTrig]

@[simp] theorem execCoreEvt_keeps (t : TDie) (c : CoreIx) (e : EccRead) (s : State) :
    Keeps parts s (execCoreEvt t c e s) := by simp [execCoreEvt]

@[simp] theorem execCoreSrset_keeps (t : TDie) (c : CoreIx) (e : EccRead) (s : State) :
    Keeps parts s (execCoreSrset t c e s) := by simp [execCoreSrset]

@[simp] theorem execCoreSrclr_keeps (t : TDie) (c : CoreIx) (e : EccRead) (s : State) :
    Keeps parts s (execCoreSrclr t c e s) := by simp [execCoreSrclr]


/-! The operations of Sys2Proof/Machine/CpuCtl.lean. -/

@[simp] theorem coreDoorbell_owned (t c : Nat) (v : Nat) (s : State) :
    (coreDoorbell t c v s).owned parts = s.owned parts := by simp [coreDoorbell]

@[simp] theorem execCoreDoorbell_keeps (t : TDie) (c : CoreIx) (v : BitVec 24) (s : State) :
    Keeps parts s (execCoreDoorbell t c v s) := by simp [execCoreDoorbell]

@[simp] theorem execCoreRun_keeps (t : TDie) (c : CoreIx) (s : State) :
    Keeps parts s (execCoreRun t c s) := by simp [execCoreRun]

@[simp] theorem execCoreStop_keeps (t : TDie) (c : CoreIx) (s : State) :
    Keeps parts s (execCoreStop t c s) := by simp [execCoreStop]

@[simp] theorem coreStep_owned (t c : Nat) (e : EccRead) (s : State) :
    (coreStep t c e s).owned parts = s.owned parts := by
  simp only [coreStep]
  (repeat' split) <;> simp []

@[simp] theorem execCoreStep_keeps (t : TDie) (c : CoreIx) (e : EccRead) (s : State) :
    Keeps parts s (execCoreStep t c e s) := by simp [execCoreStep]

@[simp] theorem execCoreReset_keeps (t : TDie) (c : CoreIx) (s : State) :
    Keeps parts s (execCoreReset t c s) := by simp [execCoreReset]

@[simp] theorem execBreakpointHalt_keeps (t : TDie) (c : CoreIx) (s : State) :
    Keeps parts s (execBreakpointHalt t c s) := by simp [execBreakpointHalt]

@[simp] theorem eachCore_owned (k mask : Nat) (f : Nat → State → State) (s : State)
    (hf : ∀ c s, (f c s).owned parts = s.owned parts) : (eachCore k mask f s).owned parts = s.owned parts := by
  simp [eachCore, hf]

@[simp] theorem execCctlStart_keeps (t : TDie) (k : Fin 5) (mask : Word) (s : State) :
    Keeps parts s (execCctlStart t k mask s) := by simp [execCctlStart]

@[simp] theorem execCctlStop_keeps (t : TDie) (k : Fin 5) (mask : Word) (s : State) :
    Keeps parts s (execCctlStop t k mask s) := by simp [execCctlStop]

@[simp] theorem coreDbgWrite_owned (t c v : Nat) (s : State) :
    (coreDbgWrite t c v s).owned parts = s.owned parts := by simp [coreDbgWrite]

@[simp] theorem corePcWrite_owned (t c v : Nat) (s : State) :
    (corePcWrite t c v s).owned parts = s.owned parts := by simp [corePcWrite]

@[simp] theorem execCoreDbgDataWrite_keeps (t : TDie) (c : CoreIx) (v : BitVec 24) (s : State) :
    Keeps parts s (execCoreDbgDataWrite t c v s) := by simp [execCoreDbgDataWrite]

@[simp] theorem evqPop_owned (t c : Nat) (s : State) :
    (evqPop t c s).owned parts = s.owned parts := by
  unfold evqPop
  split <;> simp []

@[simp] theorem execCoreEvqPop_keeps (t : TDie) (c : CoreIx) (s : State) :
    Keeps parts s (execCoreEvqPop t c s) := by simp [execCoreEvqPop]

@[simp] theorem execCoreProgramWrite_keeps (t : TDie) (c : CoreIx) (a : BitVec 14) (v : Word) (s : State) :
    Keeps parts s (execCoreProgramWrite t c a v s) := by simp [execCoreProgramWrite]

@[simp] theorem dmHostWrite_owned (t c a : Nat) (v : Word) (s : State) :
    (dmHostWrite t c a v s).owned parts = s.owned parts := by simp [dmHostWrite]

@[simp] theorem execCoreDataWrite_keeps (t : TDie) (c : CoreIx) (a : BitVec 14) (v : Word) (s : State) :
    Keeps parts s (execCoreDataWrite t c a v s) := by simp [execCoreDataWrite]

@[simp] theorem execCoreScrub_keeps (t : TDie) (c : CoreIx) (e : EccRead) (s : State) :
    Keeps parts s (execCoreScrub t c e s) := by simp [execCoreScrub]

@[simp] theorem execCoreParityError_keeps (t : TDie) (c : CoreIx) (s : State) :
    Keeps parts s (execCoreParityError t c s) := by simp [execCoreParityError]

@[simp] theorem loadWords_owned (a : Nat) (ws : List Word) (s : State) : (loadWords a ws s).owned parts = s.owned
    parts := by
  induction ws generalizing a s with
  | nil => rfl
  | cons w ws ih => simp [loadWords, ih]

@[simp] theorem coreImages_owned (t c : Nat) (prog : List Word) (data : List (BitVec 24)) (s : State) :
    (coreImages t c prog data s).owned parts = s.owned parts := by simp [coreImages]

@[simp] theorem setSpare_owned (t c : Nat) (on : Bool) (s : State) :
    (setSpare t c on s).owned parts = s.owned parts := by simp [setSpare]

@[simp] theorem State.mapPlaces_owned (f : ZoomPlace → ZoomPlace) (s : State) :
    (State.mapPlaces f s).owned parts = s.owned parts := by simp [State.mapPlaces]

@[simp] theorem showSpares_owned (t : Nat) (s : State) :
    (showSpares t s).owned parts = s.owned parts := by simp [showSpares]

@[simp] theorem holdSpares_owned (t : Nat) (s : State) :
    (holdSpares t s).owned parts = s.owned parts := by simp [holdSpares]

@[simp] theorem execCoreRepair_keeps (t : TDie) (c spare : CoreIx) (prog : List Word) (data : List (BitVec 24)) (s :
    State) :
    Keeps parts s (execCoreRepair t c spare prog data s) := by
  simp only [execCoreRepair]
  (repeat' split) <;> simp []

@[simp] theorem execCoreReplayEnd_keeps (t : TDie) (c : CoreIx) (s : State) :
    Keeps parts s (execCoreReplayEnd t c s) := by simp [execCoreReplayEnd]

@[simp] theorem execCatchupEmpty_keeps (t : TDie) (c : CoreIx) (s : State) :
    Keeps parts s (execCatchupEmpty t c s) := by simp [execCatchupEmpty]

@[simp] theorem execCoreBlockWritten_keeps (t : TDie) (c : CoreIx) (p : Fin 2) (s : State) (hcap : .cap ∈ parts) :
    Keeps parts s (execCoreBlockWritten t c p s) := by
  simp only [execCoreBlockWritten]
  split <;> simp [hcap]


/-! The operations of Sys2Proof/Machine/Nfs.lean. -/

@[simp] theorem State.modNfs_owned (s : State) (h : Nat) (f : NfsSt → NfsSt) :
    (State.modNfs s h f).owned parts = s.owned parts := by simp [State.modNfs]

@[simp] theorem nfsShow_owned (h : Nat) (s : State) :
    (nfsShow h s).owned parts = s.owned parts := by simp [nfsShow]

@[simp] theorem nfsShowWear_owned (h : Nat) (s : State) :
    (nfsShowWear h s).owned parts = s.owned parts := by simp [nfsShowWear]

@[simp] theorem nfsShowDies_owned (h : Nat) (s : State) :
    (nfsShowDies h s).owned parts = s.owned parts := by simp [nfsShowDies]

@[simp] theorem modRecording_owned (h n : Nat) (f : NfsRec → NfsRec) (s : State) :
    (modRecording h n f s).owned parts = s.owned parts := by simp [modRecording]

@[simp] theorem setCounts_owned (h : Nat) (r : NfsRec) (w p f : Nat) (s : State) :
    (setCounts h r w p f s).owned parts = s.owned parts := by simp [setCounts]

@[simp] theorem nfsSeal_owned (h : Nat) (s : State) :
    (nfsSeal h s).owned parts = s.owned parts := by
  unfold nfsSeal
  split <;> simp []

@[simp] theorem takeInto_owned (h : Nat) (r : NfsRec) (first n : Nat) (o : NandOpen) (s : State) :
    (takeInto h r first n o s).owned parts = s.owned parts := by simp [takeInto]

@[simp] theorem nfsFill_owned (h : Nat) (n : Nat) (s : State) : (nfsFill h n s).owned parts = s.owned parts := by
  induction n generalizing s with
  | zero => rfl
  | succ n ih =>
    simp only [nfsFill]
    split
    · rfl
    · split
      · rfl
      · split
        · split <;> simp [ih]
        · simp [ih]

@[simp] theorem nfsRun_owned (h : Nat) (s : State) :
    (nfsRun h s).owned parts = s.owned parts := by simp [nfsRun]

@[simp] theorem nfsAdvance_owned (h : Nat) (s : State) :
    (nfsAdvance h s).owned parts = s.owned parts := by simp [nfsAdvance]

@[simp] theorem retireBlock_owned (h g sb d : Nat) (s : State) :
    (retireBlock h g sb d s).owned parts = s.owned parts := by simp [retireBlock]

@[simp] theorem nfsReclaim_owned (h : Nat) (s : State) :
    (nfsReclaim h s).owned parts = s.owned parts := by simp [nfsReclaim]

@[simp] theorem nfsDelete_owned (h n : Nat) (s : State) :
    (nfsDelete h n s).owned parts = s.owned parts := by simp [nfsDelete]

@[simp] theorem storeFull_owned (h : Nat) (s : State) :
    (storeFull h s).owned parts = s.owned parts := by
  simp only [storeFull]
  (repeat' split) <;> simp []

@[simp] theorem relocateRow_owned (h : Nat) (passed : Bool) (r : NandRow) (s : State) :
    (relocateRow h passed r s).owned parts = s.owned parts := by
  unfold relocateRow
  extract_lets q nums d room ext
  refine State.owned_foldl _ _ _ _ (fun u ex => ?_)
  split <;> simp

@[simp] theorem relocateSuper_owned (h g sb : Nat) (s : State) :
    (relocateSuper h g sb s).owned parts = s.owned parts := by simp [relocateSuper]

@[simp] theorem wearRelocate_owned (h : Nat) (s : State) :
    (wearRelocate h s).owned parts = s.owned parts := by
  simp only [wearRelocate]
  split <;> simp []

@[simp] theorem dieFail_owned (h d : Nat) (s : State) :
    (dieFail h d s).owned parts = s.owned parts := by simp [dieFail]

@[simp] theorem dieOp_owned (h d : Nat) (ok : Bool) (s : State) :
    (dieOp h d ok s).owned parts = s.owned parts := by simp [dieOp]

@[simp] theorem rowPass_owned (h : Nat) (r : NandRow) (s : State) :
    (rowPass h r s).owned parts = s.owned parts := by simp [rowPass]

@[simp] theorem rowFail_owned (h : Nat) (r : NandRow) (d : Nat) (s : State) :
    (rowFail h r d s).owned parts = s.owned parts := by
  simp only [rowFail]
  split <;> simp []

@[simp] theorem execRowConfirm_keeps (h : Hub) (seq : Nat) (fail : Option (Fin 256)) (waits : Nat) (s : State) :
    Keeps parts s (execRowConfirm h seq fail waits s) := by
  unfold execRowConfirm
  (repeat' split) <;> simp []

@[simp] theorem sourceOpen_owned (h k : Nat) (s : State) :
    (sourceOpen h k s).owned parts = s.owned parts := by
  simp only [sourceOpen]
  (repeat' split) <;> simp []

@[simp] theorem sourceClose_owned (h k : Nat) (s : State) :
    (sourceClose h k s).owned parts = s.owned parts := by simp [sourceClose]

@[simp] theorem execSourceOpen_keeps (h : Hub) (k : Fin 64) (s : State) :
    Keeps parts s (execSourceOpen h k s) := by simp [execSourceOpen]

@[simp] theorem execSourceClose_keeps (h : Hub) (k : Fin 64) (s : State) :
    Keeps parts s (execSourceClose h k s) := by simp [execSourceClose]

@[simp] theorem execSourceWaitExpire_keeps (h : Hub) (k : Fin 64) (s : State) :
    Keeps parts s (execSourceWaitExpire h k s) := by simp [execSourceWaitExpire]

@[simp] theorem execRowSeal_keeps (h : Hub) (s : State) :
    Keeps parts s (execRowSeal h s) := by
  unfold execRowSeal
  split <;> simp []

@[simp] theorem throttle_owned (h : Nat) (on : Bool) (s : State) :
    (throttle h on s).owned parts = s.owned parts := by simp [throttle]

@[simp] theorem stageAdvance_owned (h k n : Nat) (s : State) :
    (stageAdvance h k n s).owned parts = s.owned parts := by simp [stageAdvance]

@[simp] theorem execNandDieFail_keeps (h : Hub) (d : Fin 256) (s : State) :
    Keeps parts s (execNandDieFail h d s) := by simp [execNandDieFail]

@[simp] theorem execRebuildComplete_keeps (h : Hub) (g : Nat) (s : State) :
    Keeps parts s (execRebuildComplete h g s) := by simp [execRebuildComplete]

@[simp] theorem countReads_owned (h : Nat) (x : NandRead) (s : State) :
    (countReads h x s).owned parts = s.owned parts := by simp [countReads]

@[simp] theorem patrolSuper_owned (h g sb : Nat) (x : NandRead) (s : State) :
    (patrolSuper h g sb x s).owned parts = s.owned parts := by simp [patrolSuper]

@[simp] theorem execPatrol_keeps (h : Hub) (g sb : Nat) (x : NandRead) (s : State) :
    Keeps parts s (execPatrol h g sb x s) := by simp [execPatrol]

@[simp] theorem execReadDisturbPatrol_keeps (h : Hub) (g sb : Nat) (x : NandRead) (s : State) :
    Keeps parts s (execReadDisturbPatrol h g sb x s) := by simp [execReadDisturbPatrol]

@[simp] theorem nfsFormat_owned (h : Nat) (s : State) :
    (nfsFormat h s).owned parts = s.owned parts := by simp [nfsFormat]

@[simp] theorem execNfsFormat_keeps (h : Hub) (s : State) :
    Keeps parts s (execNfsFormat h s) := by simp [execNfsFormat]

@[simp] theorem newKey_owned (h : Nat) (s : State) (hdrawn : .drawn ∈ parts) :
    (newKey h s).owned parts = s.owned parts := by simp [newKey, hdrawn]

@[simp] theorem execNfsFormatComplete_keeps (h : Hub) (bad : List Nat) (s : State) (hdrawn : .drawn ∈ parts) :
    Keeps parts s (execNfsFormatComplete h bad s) := by simp [execNfsFormatComplete, hdrawn]

@[simp] theorem nfsRead_owned (h : Nat) (s : State) :
    (nfsRead h s).owned parts = s.owned parts := by simp [nfsRead]

@[simp] theorem execNfsRead_keeps (h : Hub) (s : State) :
    Keeps parts s (execNfsRead h s) := by simp [execNfsRead]

@[simp] theorem execNfsReadDone_keeps (h : Hub) (x : NandRead) (s : State) (hcap : .cap ∈ parts) :
    Keeps parts s (execNfsReadDone h x s) := by
  unfold execNfsReadDone
  extract_lets b q num ofs len safe n info dead weak data u v set w₁ w₂ w₃ w₄ w
  have hset : ∀ c f (x : State), (set c f x).owned parts = x.owned parts := fun c f x => by simp [set]
  have hw : w.owned parts = s.owned parts := by simp [w, w₄, w₃, w₂, w₁, v, u, hset, hcap]
  split
  · simp
  · rw [keeps_next]
    split <;> simp [hw]

@[simp] theorem nfsCmdDelete_owned (h : Nat) (s : State) :
    (nfsCmdDelete h s).owned parts = s.owned parts := by
  simp only [nfsCmdDelete]
  split <;> simp []

@[simp] theorem execNfsDelete_keeps (h : Hub) (s : State) :
    Keeps parts s (execNfsDelete h s) := by simp [execNfsDelete]

@[simp] theorem nfsUnlock_owned (h : Nat) (s : State) :
    (nfsUnlock h s).owned parts = s.owned parts := by simp [nfsUnlock]

@[simp] theorem execNfsUnlockCmd_keeps (h : Hub) (s : State) :
    Keeps parts s (execNfsUnlockCmd h s) := by simp [execNfsUnlockCmd]

@[simp] theorem nfsErase_owned (h : Nat) (s : State) :
    (nfsErase h s).owned parts = s.owned parts := by simp [nfsErase]

@[simp] theorem execNfsErase_keeps (h : Hub) (s : State) :
    Keeps parts s (execNfsErase h s) := by simp [execNfsErase]

@[simp] theorem eraseStore_owned (h : Nat) (s : State) (hdrawn : .drawn ∈ parts) :
    (eraseStore h s).owned parts = s.owned parts := by simp [eraseStore, hdrawn]

@[simp] theorem execNfsEraseDone_keeps (h : Hub) (s : State) (hdrawn : .drawn ∈ parts) :
    Keeps parts s (execNfsEraseDone h s) := by simp [execNfsEraseDone, hdrawn]

@[simp] theorem catSelect_owned (h n : Nat) (s : State) :
    (catSelect h n s).owned parts = s.owned parts := by
  simp only [catSelect]
  split <;> simp []

@[simp] theorem execNfsCatSelWrite_keeps (h : Hub) (n : BitVec 24) (s : State) :
    Keeps parts s (execNfsCatSelWrite h n s) := by simp [execNfsCatSelWrite]

@[simp] theorem catProtect_owned (h : Nat) (s : State) :
    (catProtect h s).owned parts = s.owned parts := by simp [catProtect]

@[simp] theorem execNfsMount_keeps (h : Hub) (luns : List NandLun) (chans : List (BitVec 12 × BitVec 2)) (s : State) :
    Keeps parts s (execNfsMount h luns chans s) := by
  unfold execNfsMount
  split
  · simp
  · extract_lets luns rates u v w
    have hv : v.owned parts = u.owned parts := State.owned_foldl _ _ _ _ (fun u c => by split <;> simp)
    have hw : w.owned parts = v.owned parts := by simp [w]
    rw [keeps_next, nfsShowDies_owned, hw, hv]
    simp [u]

@[simp] theorem cutRecording_owned (h : Nat) (r : NfsRec) (s : State) :
    (cutRecording h r s).owned parts = s.owned parts := by simp [cutRecording]

@[simp] theorem nfsMountEnd_owned (h : Nat) (kept : List Nat) (s : State) (hdrawn : .drawn ∈ parts) :
    (nfsMountEnd h kept s).owned parts = s.owned parts := by simp [nfsMountEnd, hdrawn]

@[simp] theorem nfsFlush_owned (h : Nat) (s : State) :
    (nfsFlush h s).owned parts = s.owned parts := by simp [nfsFlush]

@[simp] theorem nfsPowerOff_owned (h : Nat) (s : State) :
    (nfsPowerOff h s).owned parts = s.owned parts := by simp [nfsPowerOff]


/-! The operations of Sys2Proof/Machine/Rec.lean. -/

@[simp] theorem State.modRec_owned (s : State) (l : Nat) (f : RecSt → RecSt) :
    (State.modRec s l f).owned parts = s.owned parts := by simp [State.modRec]

@[simp] theorem replayCount_owned (l : Nat) (held : Bool) (s : State) :
    (replayCount l held s).owned parts = s.owned parts := by simp [replayCount]

@[simp] theorem tarnStart_owned (l : Nat) (s : State) :
    (tarnStart l s).owned parts = s.owned parts := by simp [tarnStart]

@[simp] theorem tarnStop_owned (l : Nat) (s : State) :
    (tarnStop l s).owned parts = s.owned parts := by simp [tarnStop]

@[simp] theorem execTarnStart_keeps (t : TDie) (s : State) :
    Keeps parts s (execTarnStart t s) := by simp [execTarnStart]

@[simp] theorem takeOver_owned (l d : Nat) (s : State) :
    (takeOver l d s).owned parts = s.owned parts := by simp [takeOver]

@[simp] theorem blockWrite_owned (l : Nat) (s : State) (hcap : .cap ∈ parts) :
    (blockWrite l s).owned parts = s.owned parts := by simp [blockWrite, hcap]

@[simp] theorem execInputBufferOverflow_keeps (t : TDie) (first last : Nat) (s : State) :
    Keeps parts s (execInputBufferOverflow t first last s) := by simp [execInputBufferOverflow]

@[simp] theorem showArmed_owned (l : Nat) (s : State) :
    (showArmed l s).owned parts = s.owned parts := by simp [showArmed]

@[simp] theorem stagePush_owned (l : Nat) (pad : Bool) (s : State) (hcap : .cap ∈ parts) :
    (stagePush l pad s).owned parts = s.owned parts := by
  simp only [stagePush]
  split <;> simp [hcap]

@[simp] theorem recFinish_owned (l : Nat) (s : State) (hcap : .cap ∈ parts) :
    (recFinish l s).owned parts = s.owned parts := by simp [recFinish, hcap]

@[simp] theorem recArm_owned (l : Nat) (s : State) (hcap : .cap ∈ parts) :
    (recArm l s).owned parts = s.owned parts := by simp [recArm, hcap]

@[simp] theorem recStop_owned (l : Nat) (s : State) (hcap : .cap ∈ parts) :
    (recStop l s).owned parts = s.owned parts := by simp [recStop, hcap]

@[simp] theorem execRecArm_keeps (t : TDie) (s : State) (hcap : .cap ∈ parts) :
    Keeps parts s (execRecArm t s) := by simp [execRecArm, hcap]

@[simp] theorem execRecStop_keeps (t : TDie) (s : State) (hcap : .cap ∈ parts) :
    Keeps parts s (execRecStop t s) := by simp [execRecStop, hcap]

@[simp] theorem deliverEvent_owned (l : Nat) (e : TrgEvent) (s : State) :
    (deliverEvent l e s).owned parts = s.owned parts := by simp [deliverEvent]

@[simp] theorem execTriggerEventDeliver_keeps (t : TDie) (s : State) :
    Keeps parts s (execTriggerEventDeliver t s) := by
  unfold execTriggerEventDeliver
  split <;> simp []

@[simp] theorem execRecRearm_keeps (t : TDie) (s : State) :
    Keeps parts s (execRecRearm t s) := by
  unfold execRecRearm
  split <;> simp []

@[simp] theorem stageBytes_owned (l : Nat) (bytes : List Byte) (s : State) (hcap : .cap ∈ parts) :
    (stageBytes l bytes s).owned parts = s.owned parts := by simp [stageBytes, hcap]

@[simp] theorem setOldest_owned (l : Nat) (g : RecSeg) (s : State) :
    (setOldest l g s).owned parts = s.owned parts := by simp [setOldest]

@[simp] theorem streamCopy_owned (l : Nat) (g : RecSeg) (s : State) (hcap : .cap ∈ parts) :
    (streamCopy l g s).owned parts = s.owned parts := by simp [streamCopy, hcap]

@[simp] theorem segsAdvance_owned (l : Nat) (s : State) (hcap : .cap ∈ parts) :
    (segsAdvance l s).owned parts = s.owned parts := by
  unfold segsAdvance
  split
  · split <;> simp [hcap]
  · simp

@[simp] theorem execTarnBlockWrite_keeps (t : TDie) (s : State) (hcap : .cap ∈ parts) :
    Keeps parts s (execTarnBlockWrite t s) := by simp [execTarnBlockWrite, hcap]

@[simp] theorem completeSegment_owned (l : Nat) (g : RecSeg) (s : State) (hcap : .cap ∈ parts) :
    (completeSegment l g s).owned parts = s.owned parts := by simp [completeSegment, hcap]

@[simp] theorem execSegmentComplete_keeps (t : TDie) (s : State) (hcap : .cap ∈ parts) :
    Keeps parts s (execSegmentComplete t s) := by
  simp only [execSegmentComplete]
  split <;> simp [hcap]

@[simp] theorem mtAccess_owned (t : Nat) (write : Option Word) (s : State) :
    (mtAccess t write s).owned parts = s.owned parts := by
  unfold mtAccess
  split <;> simp []

@[simp] theorem State.modCo_owned (s : State) (l : Nat) (f : CoSt → CoSt) :
    (State.modCo s l f).owned parts = s.owned parts := by simp [State.modCo]

@[simp] theorem coClose_owned (l : Nat) (s : State) (hcap : .cap ∈ parts) :
    (coClose l s).owned parts = s.owned parts := by
  unfold coClose
  split <;> simp [hcap]

@[simp] theorem coPut_owned (l : Nat) (e : List Byte) (s : State) :
    (coPut l e s).owned parts = s.owned parts := by
  unfold coPut
  split <;> simp []

@[simp] theorem coOpen_owned (l idx sts : Nat) (lv : List Int) (s : State) :
    (coOpen l idx sts lv s).owned parts = s.owned parts := by simp [coOpen]

@[simp] theorem coReady_owned (i idx sts : Nat) (lv : List Int) (n : Nat) (s : State) (hcap : .cap ∈ parts) : (coReady
    i idx sts lv n s).owned parts = s.owned parts := by
  induction n generalizing s with
  | zero => rfl
  | succ n ih => simp [coReady, ih, hcap]

@[simp] theorem coRestart_owned (l : Nat) (s : State) (hcap : .cap ∈ parts) :
    (coRestart l s).owned parts = s.owned parts := by simp [coRestart, hcap]

@[simp] theorem coBin_owned (l idx sts k n : Nat) (lv : List Int) (bin : Nat) (s : State) (hcap : .cap ∈ parts) :
    (coBin l idx sts k n lv bin s).owned parts = s.owned parts := by simp [coBin, hcap]

@[simp] theorem coSpectrum_owned (src : Nat) (i : SpecInfo) (s : State) (hcap : .cap ∈ parts) :
    (coSpectrum src i s).owned parts = s.owned parts := by
  unfold coSpectrum
  extract_lets l idx c spans u n v lastBin w
  have hu : u.owned parts = s.owned parts := by simp [u, hcap]
  split
  · exact hu
  · have hv : v.owned parts = u.owned parts := by simp [v, hcap]
    have hw : w.owned parts = v.owned parts := by simp [w, hcap]
    split <;> simp [hcap, hw, hv, hu]

@[simp] theorem coEnable_owned (l : Nat) (s : State) :
    (coEnable l s).owned parts = s.owned parts := by simp [coEnable]

@[simp] theorem coDisable_owned (l : Nat) (s : State) (hcap : .cap ∈ parts) :
    (coDisable l s).owned parts = s.owned parts := by simp [coDisable, hcap]

@[simp] theorem execCoEnable_keeps (t : TDie) (s : State) :
    Keeps parts s (execCoEnable t s) := by simp [execCoEnable]

@[simp] theorem execCoBlockFlush_keeps (t : TDie) (s : State) (hcap : .cap ∈ parts) :
    Keeps parts s (execCoBlockFlush t s) := by simp [execCoBlockFlush, hcap]

@[simp] theorem detectedOut_owned (l : Nat) (s : State) (hcap : .cap ∈ parts) :
    (detectedOut l s).owned parts = s.owned parts := by simp [detectedOut, hcap]


/-! The operations of Sys2Proof/Machine/Chz.lean. -/

@[simp] theorem State.modZoom_owned (s : State) (t n : Nat) (f : ZoomSt → ZoomSt) :
    (State.modZoom s t n f).owned parts = s.owned parts := by simp [State.modZoom]

@[simp] theorem zoomHandOver_owned (t n : Nat) (s : State) :
    (zoomHandOver t n s).owned parts = s.owned parts := by simp [zoomHandOver]

@[simp] theorem zoomCommit_owned (t n : Nat) (s : State) :
    (zoomCommit t n s).owned parts = s.owned parts := by simp [zoomCommit]

@[simp] theorem zoomRevert_owned (t n : Nat) (s : State) :
    (zoomRevert t n s).owned parts = s.owned parts := by simp [zoomRevert]

@[simp] theorem zoomSync_owned (t n : Nat) (s : State) :
    (zoomSync t n s).owned parts = s.owned parts := by simp [zoomSync]

@[simp] theorem eachZoom_owned (k mask : Nat) (f : Nat → State → State) (s : State)
    (hf : ∀ c s, (f c s).owned parts = s.owned parts) : (eachZoom k mask f s).owned parts = s.owned parts := by
  simp [eachZoom, hf]

@[simp] theorem execChzCommit_keeps (t : TDie) (k : Fin 4) (mask : Word) (s : State) :
    Keeps parts s (execChzCommit t k mask s) := by simp [execChzCommit]

@[simp] theorem execChzRevert_keeps (t : TDie) (k : Fin 4) (mask : Word) (s : State) :
    Keeps parts s (execChzRevert t k mask s) := by simp [execChzRevert]

@[simp] theorem execChzSync_keeps (t : TDie) (k : Fin 4) (mask : Word) (s : State) :
    Keeps parts s (execChzSync t k mask s) := by simp [execChzSync]

@[simp] theorem execChzHeldHandover_keeps (t : TDie) (n : Fin 128) (s : State) :
    Keeps parts s (execChzHeldHandover t n s) := by simp [execChzHeldHandover]

@[simp] theorem zoomClose_owned (t n : Nat) (b : ZoomBlock) (flags : Nat) (s : State) :
    (zoomClose t n b flags s).owned parts = s.owned parts := by simp [zoomClose]

@[simp] theorem zoomCloseOpen_owned (t n flags : Nat) (s : State) :
    (zoomCloseOpen t n flags s).owned parts = s.owned parts := by
  unfold zoomCloseOpen
  split <;> simp []

@[simp] theorem zoomEnd_owned (t n : Nat) (s : State) :
    (zoomEnd t n s).owned parts = s.owned parts := by simp [zoomEnd]

@[simp] theorem zoomReset_owned (t n u : Nat) (s : State) :
    (zoomReset t n u s).owned parts = s.owned parts := by simp [zoomReset]

@[simp] theorem zoomSwitch_owned (t n p : Nat) (s : State) :
    (zoomSwitch t n p s).owned parts = s.owned parts := by simp [zoomSwitch]

@[simp] theorem execZoomSwitchPoint_keeps (t : TDie) (s : State) :
    Keeps parts s (execZoomSwitchPoint t s) := by
  unfold execZoomSwitchPoint
  (repeat' split) <;> simp []

@[simp] theorem zoomRestartAll_owned (t : Nat) (s : State) :
    (zoomRestartAll t s).owned parts = s.owned parts := by simp [zoomRestartAll]

@[simp] theorem chzStreamStart_owned (t : Nat) (s : State) :
    (chzStreamStart t s).owned parts = s.owned parts := by simp [chzStreamStart]

@[simp] theorem zoomEndAll_owned (t : Nat) (s : State) :
    (zoomEndAll t s).owned parts = s.owned parts := by simp [zoomEndAll]

@[simp] theorem chzStreamStop_owned (t : Nat) (s : State) :
    (chzStreamStop t s).owned parts = s.owned parts := by simp [chzStreamStop]

@[simp] theorem chzEnable_owned (t : Nat) (on : Bool) (s : State) :
    (chzEnable t on s).owned parts = s.owned parts := by simp [chzEnable]

@[simp] theorem execChzPrimed_keeps (t : TDie) (s : State) :
    Keeps parts s (execChzPrimed t s) := by simp [execChzPrimed]

@[simp] theorem zoomResult_owned (t n det : Nat) (f : Fld) (v : Int) (j : Int) (s : State) :
    (zoomResult t n det f v j s).owned parts = s.owned parts := by simp [zoomResult]

@[simp] theorem zoomDetect_owned (t n uS : Nat) (o : ZoomOut) (s : State) :
    (zoomDetect t n uS o s).owned parts = s.owned parts := by simp [zoomDetect]

@[simp] theorem zoomFeed_owned (t n : Nat) (o : ZoomOut) (s : State) :
    (zoomFeed t n o s).owned parts = s.owned parts := by
  unfold zoomFeed
  extract_lets c
  split
  · rfl
  · split
    case h_1 hfed => simp [liveArrive_owned hfed]
    case h_2 => simp

@[simp] theorem zoomStore_owned (t n : Nat) (o : ZoomOut) (s : State) :
    (zoomStore t n o s).owned parts = s.owned parts := by simp [zoomStore]

@[simp] theorem execZoomOutput_keeps (t : TDie) (n : Fin 128) (s : State) :
    Keeps parts s (execZoomOutput t n s) := by simp [execZoomOutput]

@[simp] theorem execZoomBlockWritten_keeps (t : TDie) (n : Fin 128) (s : State) (hcap : .cap ∈ parts) :
    Keeps parts s (execZoomBlockWritten t n s) := by
  simp only [execZoomBlockWritten]
  (repeat' split) <;> simp [hcap]

@[simp] theorem zoomMove_owned (t n m : Nat) (s : State) :
    (zoomMove t n m s).owned parts = s.owned parts := by simp [zoomMove]

@[simp] theorem execZoomChannelFault_keeps (t : TDie) (n : Fin 128) (s : State) :
    Keeps parts s (execZoomChannelFault t n s) := by simp [execZoomChannelFault]

@[simp] theorem execReplayRebuild_keeps (t : TDie) (n : Fin 128) (v : Nat) (last : Bool) (s : State) :
    Keeps parts s (execReplayRebuild t n v last s) := by simp [execReplayRebuild]


/-! The operations of Sys2Proof/Machine/Dens.lean. -/

@[simp] theorem State.modDens_owned (s : State) (l : Nat) (f : DensSt → DensSt) :
    (State.modDens s l f).owned parts = s.owned parts := by simp [State.modDens]

@[simp] theorem densShow_owned (l : Nat) (s : State) :
    (densShow l s).owned parts = s.owned parts := by simp [densShow]

@[simp] theorem satShow_owned (t : Nat) (hit : Bool) (s : State) :
    (satShow t hit s).owned parts = s.owned parts := by simp [satShow]

@[simp] theorem densAdd_owned (l k : Nat) (g : Tbl Nat → Tbl Nat) (s : State) :
    (densAdd l k g s).owned parts = s.owned parts := by simp [densAdd]

@[simp] theorem takeFrame_owned (l extra : Nat) (s : State) :
    (takeFrame l extra s).owned parts = s.owned parts := by
  simp only [takeFrame]
  split <;> simp []

@[simp] theorem takeReady_owned (i : Nat) (n : Nat) (s : State) : (takeReady i n s).owned parts = s.owned parts := by
  induction n generalizing s with
  | zero => rfl
  | succ n ih => unfold takeReady; (repeat' split) <;> simp [ih]

@[simp] theorem mergeArrive_owned (l : Nat) (s : State) (p : DensPart) :
    (mergeArrive l s p).owned parts = s.owned parts := by
  unfold mergeArrive
  split <;> simp []

@[simp] theorem endFrame_owned (l : Nat) (s : State) :
    (endFrame l s).owned parts = s.owned parts := by simp [endFrame]

@[simp] theorem endFrames_owned (i e : Nat) (n : Nat) (s : State) : (endFrames i e n s).owned parts = s.owned parts :=
    by
  induction n generalizing s with
  | zero => rfl
  | succ n ih => simp [endFrames, ih]

@[simp] theorem endRow_owned (l n : Nat) (s : State) :
    (endRow l n s).owned parts = s.owned parts := by simp [endRow]

@[simp] theorem endRows_owned (i e : Nat) (n : Nat) (s : State) : (endRows i e n s).owned parts = s.owned parts := by
  induction n generalizing s with
  | zero => rfl
  | succ n ih => simp [endRows, ih]

@[simp] theorem densAdvance_owned (l e : Nat) (s : State) :
    (densAdvance l e s).owned parts = s.owned parts := by simp [densAdvance]

@[simp] theorem densClose_owned (l e : Nat) (s : State) :
    (densClose l e s).owned parts = s.owned parts := by simp [densClose]

@[simp] theorem densClear_owned (l : Nat) (s : State) :
    (densClear l s).owned parts = s.owned parts := by simp [densClear]

@[simp] theorem densTakeEffect_owned (l : Nat) (after : Option Nat) (e : Nat) (s : State) :
    (densTakeEffect l after e s).owned parts = s.owned parts := by simp [densTakeEffect]

@[simp] theorem densRange_owned (l n : Nat) (rd : Nat → Fld → Nat) (s : State) :
    (densRange l n rd s).owned parts = s.owned parts := by simp [densRange]

@[simp] theorem densWbSwitch_owned (l : Nat) (changed : Bool) (s : State) :
    (densWbSwitch l changed s).owned parts = s.owned parts := by simp [densWbSwitch]

@[simp] theorem densHandOver_owned (l : Nat) (s : State) :
    (densHandOver l s).owned parts = s.owned parts := by simp [densHandOver]

@[simp] theorem densCommit_owned (l : Nat) (s : State) :
    (densCommit l s).owned parts = s.owned parts := by simp [densCommit]

@[simp] theorem densRevert_owned (l : Nat) (s : State) :
    (densRevert l s).owned parts = s.owned parts := by simp [densRevert]

@[simp] theorem execDensCommit_keeps (t : TDie) (s : State) :
    Keeps parts s (execDensCommit t s) := by simp [execDensCommit]

@[simp] theorem execDensRevert_keeps (t : TDie) (s : State) :
    Keeps parts s (execDensRevert t s) := by simp [execDensRevert]

@[simp] theorem execDensHeldHandover_keeps (t : TDie) (s : State) :
    Keeps parts s (execDensHeldHandover t s) := by simp [execDensHeldHandover]

@[simp] theorem execDensClear_keeps (t : TDie) (s : State) :
    Keeps parts s (execDensClear t s) := by simp [execDensClear]

@[simp] theorem execDensEnable_keeps (t : TDie) (s : State) :
    Keeps parts s (execDensEnable t s) := by
  unfold execDensEnable
  (repeat' split) <;> simp []

@[simp] theorem densTabAccess_owned (t : Nat) (write : Option Word) (s : State) :
    (densTabAccess t write s).owned parts = s.owned parts := by
  unfold densTabAccess
  (repeat' split) <;> simp []

@[simp] theorem execDensTabDataAccess_keeps (t : TDie) (write : Option (BitVec 16)) (s : State) :
    Keeps parts s (execDensTabDataAccess t write s) := by simp [execDensTabDataAccess]

@[simp] theorem densSkip_owned (t : Nat) (out : Bool) (s : State) :
    (densSkip t out s).owned parts = s.owned parts := by simp [densSkip]

@[simp] theorem densCount_owned (i : SpecInfo) (s : State) :
    (densCount i s).owned parts = s.owned parts := by simp [densCount]

@[simp] theorem sgCount_owned (i : SpecInfo) (s : State) :
    (sgCount i s).owned parts = s.owned parts := by simp [sgCount]

@[simp] theorem densSpectrum_owned (i : SpecInfo) (s : State) :
    (densSpectrum i s).owned parts = s.owned parts := by
  simp only [densSpectrum]
  split <;> simp []

@[simp] theorem densReplay_owned (i : SpecInfo) (s : State) :
    (densReplay i s).owned parts = s.owned parts := by
  simp only [densReplay]
  (repeat' split) <;> simp []

@[simp] theorem execDensFrameEnd_keeps (t : TDie) (s : State) :
    Keeps parts s (execDensFrameEnd t s) := by simp [execDensFrameEnd]

@[simp] theorem execDensFrameWritten_keeps (t : TDie) (s : State) (hcap : .cap ∈ parts) :
    Keeps parts s (execDensFrameWritten t s) := by
  unfold execDensFrameWritten
  split <;> simp [hcap]

@[simp] theorem execSgRowEnd_keeps (t : TDie) (s : State) :
    Keeps parts s (execSgRowEnd t s) := by simp [execSgRowEnd]

@[simp] theorem execSgRowWritten_keeps (t : TDie) (s : State) (hcap : .cap ∈ parts) :
    Keeps parts s (execSgRowWritten t s) := by
  unfold execSgRowWritten
  split <;> simp [hcap]

@[simp] theorem execDensMergeArrive_keeps (t : TDie) (s : State) :
    Keeps parts s (execDensMergeArrive t s) := by
  unfold execDensMergeArrive
  split <;> simp []

@[simp] theorem execDensMergeTimeout_keeps (t : TDie) (s : State) :
    Keeps parts s (execDensMergeTimeout t s) := by
  unfold execDensMergeTimeout
  split <;> simp []

@[simp] theorem execDensRowRepair_keeps (t : TDie) (first : Nat) (s : State) (hcap : .cap ∈ parts) :
    Keeps parts s (execDensRowRepair t first s) := by
  unfold execDensRowRepair
  split <;> simp [hcap]


/-! The operations of Sys2Proof/Machine/Spectrum.lean. -/

@[simp] theorem densIdle_owned (l : Nat) (s : State) :
    (densIdle l s).owned parts = s.owned parts := by simp [densIdle]

@[simp] theorem specConsume_owned (l : Nat) (r : SpecResult) (s : State) (hcap : .cap ∈ parts) :
    (specConsume l r s).owned parts = s.owned parts := by simp [specConsume, hcap]

@[simp] theorem specRelease_owned (i : Nat) (n : Nat) (s : State) (hcap : .cap ∈ parts) :
    (specRelease i n s).owned parts = s.owned parts := by
  induction n generalizing s with
  | zero => rfl
  | succ n ih =>
    unfold specRelease
    extract_lets w u
    split
    · split
      · split <;> simp [u, ih, hcap]
      · simp [u, ih]
    · rfl

@[simp] theorem specReleaseAll_owned (l : Nat) (s : State) (hcap : .cap ∈ parts) :
    (specReleaseAll l s).owned parts = s.owned parts := by simp [specReleaseAll, hcap]

@[simp] theorem specFlush_owned (l : Nat) (s : State) (hcap : .cap ∈ parts) :
    (specFlush l s).owned parts = s.owned parts := by simp [specFlush, hcap]

@[simp] theorem wbClose_owned (l idx : Nat) (s : State) (hcap : .cap ∈ parts) :
    (wbClose l idx s).owned parts = s.owned parts := by simp [wbClose, hcap]

@[simp] theorem execWbSwitch_keeps (t : TDie) (s : State) (hcap : .cap ∈ parts) :
    Keeps parts s (execWbSwitch t s) := by
  unfold execWbSwitch
  split <;> simp [hcap]

@[simp] theorem replayConds_owned (q : WbSet) (src : Nat) (i : SpecInfo) (s : State) :
    (replayConds q src i s).owned parts = s.owned parts := by simp [replayConds]

@[simp] theorem replayDetected_owned (t : Nat) (q : WbSet) (idx : Nat) (s : State) :
    (replayDetected t q idx s).owned parts = s.owned parts := by simp [replayDetected]

@[simp] theorem specReplay_owned (t start : Nat) (s : State) (hcap : .cap ∈ parts) :
    (specReplay t start s).owned parts = s.owned parts := by
  simp only [specReplay]
  split <;> simp [hcap]

@[simp] theorem execSpectrumComplete_keeps (t : TDie) (start : Nat) (replay : Bool) (s : State) (hcap : .cap ∈ parts) :
    Keeps parts s (execSpectrumComplete t start replay s) := by simp [execSpectrumComplete, hcap]

@[simp] theorem execDetectMerge_keeps (t : TDie) (s : State) (hcap : .cap ∈ parts) :
    Keeps parts s (execDetectMerge t s) := by simp [execDetectMerge, hcap]

@[simp] theorem execTraceRepairOutput_keeps (t : TDie) (first : Nat) (s : State) (hcap : .cap ∈ parts) :
    Keeps parts s (execTraceRepairOutput t first s) := by
  simp only [execTraceRepairOutput]
  split <;> simp [hcap]


/-! The operations of Sys2Proof/Machine/Stream.lean. -/

@[simp] theorem streamStart_owned (inp j : Nat) (s : State) :
    (streamStart inp j s).owned parts = s.owned parts := by simp [streamStart]

@[simp] theorem streamStop_owned (inp j : Nat) (s : State) (hcap : .cap ∈ parts) :
    (streamStop inp j s).owned parts = s.owned parts := by simp [streamStop, hcap]


/-! The operations of Sys2Proof/Machine/Acq.lean. -/

@[simp] theorem State.modAcq_owned (s : State) (a : Nat) (f : AcqSt → AcqSt) :
    (State.modAcq s a f).owned parts = s.owned parts := by simp [State.modAcq]

@[simp] theorem State.calShow_owned (s : State) (a : Nat) :
    (State.calShow s a).owned parts = s.owned parts := by simp [State.calShow]

@[simp] theorem startRun_owned (a c : Nat) (s : State) :
    (startRun a c s).owned parts = s.owned parts := by simp [startRun]

@[simp] theorem setRerun_owned (a c : Nat) (s : State) :
    (setRerun a c s).owned parts = s.owned parts := by simp [setRerun]

@[simp] theorem calCause_owned (a c : Nat) (s : State) :
    (calCause a c s).owned parts = s.owned parts := by simp [calCause]

@[simp] theorem enterIdle_owned (a : Nat) (s : State) :
    (enterIdle a s).owned parts = s.owned parts := by simp [enterIdle]

@[simp] theorem calOff_owned (a : Nat) (s : State) :
    (calOff a s).owned parts = s.owned parts := by simp [calOff]

@[simp] theorem calOn_owned (a : Nat) (s : State) :
    (calOn a s).owned parts = s.owned parts := by
  unfold calOn
  split <;> simp []

@[simp] theorem runOver_owned (a : Nat) (done : Bool) (s : State) :
    (runOver a done s).owned parts = s.owned parts := by
  simp only [runOver]
  split <;> simp []

@[simp] theorem stepDone_owned (a : Nat) (s : State) :
    (stepDone a s).owned parts = s.owned parts := by simp [stepDone]

@[simp] theorem idleDone_owned (a : Nat) (s : State) :
    (idleDone a s).owned parts = s.owned parts := by
  simp only [idleDone]
  split <;> simp []

@[simp] theorem showLimit_owned (a n : Nat) (s : State) :
    (showLimit a n s).owned parts = s.owned parts := by simp [showLimit]

@[simp] theorem setTrim_owned (a n i : Nat) (v : Int) (s : State) :
    (setTrim a n i v s).owned parts = s.owned parts := by simp [setTrim]

@[simp] theorem moveTrims_owned (a n : Nat) (d : Int × Int × Int) (s : State) :
    (moveTrims a n d s).owned parts = s.owned parts := by simp [moveTrims]

@[simp] theorem scFailed_owned (a n j : Nat) (s : State) :
    (scFailed a n j s).owned parts = s.owned parts := by simp [scFailed]

@[simp] theorem execSubwindowComplete_keeps (a : ADie) (s : State) :
    Keeps parts s (execSubwindowComplete a s) := by simp [execSubwindowComplete]

@[simp] theorem execCalWindowComplete_keeps (a : ADie) (s : State) :
    Keeps parts s (execCalWindowComplete a s) := by simp [execCalWindowComplete]

@[simp] theorem freeze_owned (a : Nat) (s : State) :
    (freeze a s).owned parts = s.owned parts := by
  simp only [freeze]
  split <;> simp []

@[simp] theorem retire_owned (a n reason : Nat) (s : State) :
    (retire a n reason s).owned parts = s.owned parts := by simp [retire]

@[simp] theorem execFailedScReplace_keeps (a : ADie) (s : State) :
    Keeps parts s (execFailedScReplace a s) := by
  simp only [execFailedScReplace]
  split
  · simp
  · split <;> simp

@[simp] theorem beginStep_owned (a : Nat) (k : StepKind) (s : State) :
    (beginStep a k s).owned parts = s.owned parts := by simp [beginStep]

@[simp] theorem execCalStepStart_keeps (a : ADie) (s : State) :
    Keeps parts s (execCalStepStart a s) := by simp [execCalStepStart]

@[simp] theorem execIdleStepStart_keeps (a : ADie) (s : State) :
    Keeps parts s (execIdleStepStart a s) := by simp [execIdleStepStart]

@[simp] theorem execVerifyWindowComplete_keeps (a : ADie) (s : State) :
    Keeps parts s (execVerifyWindowComplete a s) := by
  unfold execVerifyWindowComplete
  extract_lets q
  generalize verifyFigures s a q.slot (q.verSubs.take 4) = figures
  obtain ⟨ofs, gain, skew⟩ := figures
  dsimp only
  split
  · simp
  · split
    · simp
    · split
      · simp
      · split
        · simp
        · split <;> simp

@[simp] theorem execSpareSwap_keeps (a : ADie) (s : State) :
    Keeps parts s (execSpareSwap a s) := by
  unfold execSpareSwap
  split <;> simp []

@[simp] theorem execTrimUpdate_keeps (a : ADie) (s : State) :
    Keeps parts s (execTrimUpdate a s) := by
  simp only [execTrimUpdate]
  split <;> simp []

@[simp] theorem execLiveTrimStep_keeps (a : ADie) (s : State) :
    Keeps parts s (execLiveTrimStep a s) := by simp [execLiveTrimStep]

@[simp] theorem execCalRunComplete_keeps (a : ADie) (s : State) :
    Keeps parts s (execCalRunComplete a s) := by simp [execCalRunComplete]

@[simp] theorem execCalTempRead_keeps (a : ADie) (temp : BitVec 16) (s : State) :
    Keeps parts s (execCalTempRead a temp s) := by simp [execCalTempRead]

@[simp] theorem execCalIntervalExpire_keeps (a : ADie) (s : State) :
    Keeps parts s (execCalIntervalExpire a s) := by simp [execCalIntervalExpire]

@[simp] theorem execCalStatTimeout_keeps (a : ADie) (s : State) :
    Keeps parts s (execCalStatTimeout a s) := by simp [execCalStatTimeout]

@[simp] theorem calCmdRun_owned (a : Nat) (s : State) :
    (calCmdRun a s).owned parts = s.owned parts := by simp [calCmdRun]

@[simp] theorem execCalCmdRun_keeps (a : ADie) (s : State) :
    Keeps parts s (execCalCmdRun a s) := by simp [execCalCmdRun]

@[simp] theorem calCmdAbort_owned (a : Nat) (s : State) :
    (calCmdAbort a s).owned parts = s.owned parts := by simp [calCmdAbort]

@[simp] theorem execCalCmdAbort_keeps (a : ADie) (s : State) :
    Keeps parts s (execCalCmdAbort a s) := by simp [execCalCmdAbort]

@[simp] theorem calCmdXskew_owned (a : Nat) (s : State) :
    (calCmdXskew a s).owned parts = s.owned parts := by
  unfold calCmdXskew
  split <;> simp []

@[simp] theorem execCalCmdXskew_keeps (a : ADie) (s : State) :
    Keeps parts s (execCalCmdXskew a s) := by simp [execCalCmdXskew]

@[simp] theorem delayTotal_owned (a : Nat) (s : State) :
    (delayTotal a s).owned parts = s.owned parts := by simp [delayTotal]

@[simp] theorem execXskewComplete_keeps (s : State) :
    Keeps parts s (execXskewComplete s) := by
  unfold execXskewComplete
  split
  · simp
  · rename_i j hj
    generalize xskewPeak s j = peak
    obtain ⟨d, p, ideal⟩ := peak
    dsimp only
    generalize xskewSteps j d = steps
    split
    · simp
    · split
      · simp
      · rw [keeps_next]
        split <;> simp

@[simp] theorem calCtrlWritten_owned (a old : Nat) (s : State) :
    (calCtrlWritten a old s).owned parts = s.owned parts := by
  unfold calCtrlWritten
  extract_lets m u q
  have hu : u.owned parts = s.owned parts := by simp [u]
  split
  · split <;> simp [hu]
  · simp [hu]

@[simp] theorem execCalModeWrite_keeps (a : ADie) (mode : BitVec 2) (s : State) :
    Keeps parts s (execCalModeWrite a mode s) := by simp [execCalModeWrite]

@[simp] theorem estSnapshot_owned (a : Nat) (s : State) :
    (estSnapshot a s).owned parts = s.owned parts := by simp [estSnapshot]

@[simp] theorem execEstSelWrite_keeps (a : ADie) (slot : Fin 64) (s : State) :
    Keeps parts s (execEstSelWrite a slot s) := by simp [execEstSelWrite]

@[simp] theorem execFactoryTrimLoad_keeps (a : ADie) (temp : Rat) (s : State) :
    Keeps parts s (execFactoryTrimLoad a temp s) := by simp [execFactoryTrimLoad]

@[simp] theorem execAcqDelayMeasure_keeps (a : ADie) (v : BitVec 16) (s : State) :
    Keeps parts s (execAcqDelayMeasure a v s) := by simp [execAcqDelayMeasure]

@[simp] theorem startStreamAt_owned (a k : Nat) (s : State) :
    (startStreamAt a k s).owned parts = s.owned parts := by simp [startStreamAt]

@[simp] theorem acqEnable_owned (a : Nat) (s : State) :
    (acqEnable a s).owned parts = s.owned parts := by simp [acqEnable]

@[simp] theorem execAcqEnable_keeps (a : ADie) (s : State) :
    Keeps parts s (execAcqEnable a s) := by simp [execAcqEnable]

@[simp] theorem acqDisable_owned (a : Nat) (s : State) (hcap : .cap ∈ parts) :
    (acqDisable a s).owned parts = s.owned parts := by simp [acqDisable, hcap]

@[simp] theorem execAcqDisable_keeps (a : ADie) (s : State) (hcap : .cap ∈ parts) :
    Keeps parts s (execAcqDisable a s) := by simp [execAcqDisable, hcap]

@[simp] theorem gainWritten_owned (a : Nat) (s : State) :
    (gainWritten a s).owned parts = s.owned parts := by simp [gainWritten]

@[simp] theorem execGainWrite_keeps (a : ADie) (code : Fin 32) (s : State) :
    Keeps parts s (execGainWrite a code s) := by simp [execGainWrite]

@[simp] theorem execGainSettleEnd_keeps (a : ADie) (s : State) :
    Keeps parts s (execGainSettleEnd a s) := by simp [execGainSettleEnd]

@[simp] theorem sendFrame_owned (a k : Nat) (s : State) :
    (sendFrame a k s).owned parts = s.owned parts := by simp [sendFrame]

@[simp] theorem acqFrame_owned (a : Nat) (f : ConvFrame) (s : State) :
    (acqFrame a f s).owned parts = s.owned parts := by simp [acqFrame]

@[simp] theorem jrxFrame_owned (f : ConvFrame) (s : State) :
    (jrxFrame f s).owned parts = s.owned parts := by
  have hput : ∀ (xs : List ((Int × Int) × Nat)) (u : State),
      (xs.foldl (fun s x => s.putSample 0 (s.jrx.next + x.2) x.1) u).owned parts = u.owned parts := fun xs u =>
    State.owned_foldl _ _ _ _ (fun v x => State.putSample_owned v _ _ _)
  have hnext : ∀ (u : State) (jrx : JrxSt), ({ u with jrx := jrx } : State).owned parts = u.owned parts := fun u jrx
      => rfl
  unfold jrxFrame
  generalize (jesdSamples s f.lanes).zipIdx = xs
  split
  · rw [rsAdvance_owned, hnext, hput]
  · rfl

@[simp] theorem execStreamFrame_keeps (a : ADie) (f : ConvFrame) (s : State) :
    Keeps parts s (execStreamFrame a f s) := by simp [execStreamFrame]


/-! The operations of Sys2Proof/Machine/Jrx.lean. -/

@[simp] theorem jrxEnable_owned (s : State) :
    (jrxEnable s).owned parts = s.owned parts := by simp [jrxEnable]

@[simp] theorem execJrxEnable_keeps (s : State) :
    Keeps parts s (execJrxEnable s) := by simp [execJrxEnable]

@[simp] theorem jrxDisable_owned (j : Nat) (s : State) (hcap : .cap ∈ parts) :
    (jrxDisable j s).owned parts = s.owned parts := by simp [jrxDisable, hcap]

@[simp] theorem execJrxLaneLock_keeps (lane : Fin 16) (arrival : BitVec 16) (s : State) :
    Keeps parts s (execJrxLaneLock lane arrival s) := by simp [execJrxLaneLock]

@[simp] theorem jrxRealigned_owned (s : State) :
    (jrxRealigned s).owned parts = s.owned parts := by
  unfold jrxRealigned
  split <;> simp []

@[simp] theorem execJrxRelease_keeps (s : State) :
    Keeps parts s (execJrxRelease s) := by
  unfold execJrxRelease
  (repeat' split) <;> simp []

@[simp] theorem execJrxCrcError_keeps (s : State) :
    Keeps parts s (execJrxCrcError s) := by simp [execJrxCrcError]

@[simp] theorem execJrxLaneLockLoss_keeps (lane : Fin 16) (first last : Nat) (s : State) :
    Keeps parts s (execJrxLaneLockLoss lane first last s) := by simp [execJrxLaneLockLoss]


/-! The operations of Sys2Proof/Machine/Time.lean. -/

@[simp] theorem State.modTime_owned (s : State) (f : TimeSt → TimeSt) :
    (State.modTime s f).owned parts = s.owned parts := by simp [State.modTime]

@[simp] theorem State.modBase_owned (s : State) (k : Nat) (f : BaseSt → BaseSt) :
    (State.modBase s k f).owned parts = s.owned parts := by simp [State.modBase]

@[simp] theorem eachHub_owned (s : State) (f : Nat → State → State)
    (hf : ∀ h s, (f h s).owned parts = s.owned parts) : (eachHub s f).owned parts = s.owned parts := by
  simp [eachHub, hf]

@[simp] theorem showRem_owned (s : State) :
    (showRem s).owned parts = s.owned parts := by simp [showRem]

@[simp] theorem reanchor_owned (r : Nat) (rate sl jump : Int) (s : State) :
    (reanchor r rate sl jump s).owned parts = s.owned parts := by simp [reanchor]

@[simp] theorem decideRate_owned (v : Int) (s : State) :
    (decideRate v s).owned parts = s.owned parts := by simp [decideRate]

@[simp] theorem execRateEffective_keeps (s : State) :
    Keeps parts s (execRateEffective s) := by
  unfold execRateEffective
  split <;> simp []

@[simp] theorem startSlew_owned (s : State) :
    (startSlew s).owned parts = s.owned parts := by simp [startSlew]

@[simp] theorem execSlewInterval_keeps (s : State) :
    Keeps parts s (execSlewInterval s) := by
  unfold execSlewInterval
  split <;> simp []

@[simp] theorem correct_owned (v : Int) (s : State) :
    (correct v s).owned parts = s.owned parts := by
  simp only [correct]
  split <;> simp []

@[simp] theorem execTimeStep_keeps (s : State) :
    Keeps parts s (execTimeStep s) := by
  unfold execTimeStep
  split <;> simp []

@[simp] theorem writeRem_owned (v : Int) (s : State) :
    (writeRem v s).owned parts = s.owned parts := by simp [writeRem]

@[simp] theorem execTimeRemWrite_keeps (v : Word) (s : State) :
    Keeps parts s (execTimeRemWrite v s) := by simp [execTimeRemWrite]

@[simp] theorem timeUnset_owned (s : State) :
    (timeUnset s).owned parts = s.owned parts := by simp [timeUnset]

@[simp] theorem execTimeUnset_keeps (s : State) :
    Keeps parts s (execTimeUnset s) := by simp [execTimeUnset]

@[simp] theorem timeAdjust_owned (s : State) :
    (timeAdjust s).owned parts = s.owned parts := by simp [timeAdjust]

@[simp] theorem execTimeAdjust_keeps (s : State) :
    Keeps parts s (execTimeAdjust s) := by simp [execTimeAdjust]

@[simp] theorem selectBase_owned (k : Nat) (s : State) :
    (selectBase k s).owned parts = s.owned parts := by simp [selectBase]

@[simp] theorem baseSelect_owned (s : State) :
    (baseSelect s).owned parts = s.owned parts := by
  simp only [baseSelect]
  (repeat' split) <;> simp []

@[simp] theorem baseLost_owned (k : Nat) (s : State) :
    (baseLost k s).owned parts = s.owned parts := by simp [baseLost]

@[simp] theorem baseConfig_owned (k : Nat) (changed : Bool) (s : State) :
    (baseConfig k changed s).owned parts = s.owned parts := by simp [baseConfig]

@[simp] theorem baseLock_owned (k : Nat) (first : Bool) (res : Option Int) (s : State) :
    (baseLock k first res s).owned parts = s.owned parts := by simp [baseLock]

@[simp] theorem baseServo_owned (k r : Nat) (res : Int) (s : State) :
    (baseServo k r res s).owned parts = s.owned parts := by
  simp only [baseServo]
  (repeat' split) <;> simp []

@[simp] theorem baseUpdate_owned (k r : Nat) (o : Int) (s : State) :
    (baseUpdate k r o s).owned parts = s.owned parts := by
  simp only [baseUpdate]
  (repeat' split) <;> simp []

@[simp] theorem updateBases_owned (src r : Nat) (o : Int) (s : State) :
    (updateBases src r o s).owned parts = s.owned parts := by simp [updateBases]

@[simp] theorem timeHostset_owned (s : State) :
    (timeHostset s).owned parts = s.owned parts := by simp [timeHostset]

@[simp] theorem execTimeHostset_keeps (s : State) :
    Keeps parts s (execTimeHostset s) := by simp [execTimeHostset]

@[simp] theorem execBaseRevert_keeps (k : Fin 4) (s : State) :
    Keeps parts s (execBaseRevert k s) := by
  unfold execBaseRevert
  split <;> simp []

@[simp] theorem execRefBaseTick_keeps (s : State) :
    Keeps parts s (execRefBaseTick s) := by simp [execRefBaseTick]

@[simp] theorem execPpsLoss_keeps (k : Fin 4) (s : State) :
    Keeps parts s (execPpsLoss k s) := by simp [execPpsLoss]

@[simp] theorem ppsEdge_owned (g r : Nat) (t : Int) (s : State) :
    (ppsEdge g r t s).owned parts = s.owned parts := by simp [ppsEdge]

@[simp] theorem timeStart_owned (ref : Bool) (s : State) :
    (timeStart ref s).owned parts = s.owned parts := by simp [timeStart]

@[simp] theorem State.modPort_owned (s : State) (i p : Nat) (f : PtpPort → PtpPort) :
    (State.modPort s i p f).owned parts = s.owned parts := by simp [State.modPort]

@[simp] theorem ptpPorts_owned (i : Nat) (s : State) :
    (ptpPorts i s).owned parts = s.owned parts := by simp [ptpPorts]

@[simp] theorem ptpConfig_owned (i : Nat) (s : State) :
    (ptpConfig i s).owned parts = s.owned parts := by simp [ptpConfig]

@[simp] theorem ptpDiscard_owned (p : Nat) (s : State) :
    (ptpDiscard p s).owned parts = s.owned parts := by simp [ptpDiscard]

@[simp] theorem ptpAccept_owned (p i : Nat) (s : State) :
    (ptpAccept p i s).owned parts = s.owned parts := by simp [ptpAccept]

@[simp] theorem execPtpSyncReceive_keeps (p : Hub) (m : PtpMsg) (origin : Sts) (corr : BitVec 64) (r : Nat) (s :
    State) :
    Keeps parts s (execPtpSyncReceive p m origin corr r s) := by
  unfold execPtpSyncReceive
  split <;> simp []

@[simp] theorem execPtpAnnounceReceive_keeps (p : Hub) (m : PtpMsg) (a : PtpAnnounce) (s : State) :
    Keeps parts s (execPtpAnnounceReceive p m a s) := by
  unfold execPtpAnnounceReceive
  split <;> simp []

@[simp] theorem execPtpDelayRespReceive_keeps (p : Hub) (m : PtpMsg) (remote : Sts) (corr : BitVec 64) (r : Nat) (s :
    State) :
    Keeps parts s (execPtpDelayRespReceive p m remote corr r s) := by
  simp only [execPtpDelayRespReceive]
  (repeat' split) <;> simp []

@[simp] theorem ptpTimeout_owned (p i : Nat) (s : State) :
    (ptpTimeout p i s).owned parts = s.owned parts := by simp [ptpTimeout]

@[simp] theorem execPtpSyncTimeout_keeps (p : Hub) (i : Fin 2) (s : State) :
    Keeps parts s (execPtpSyncTimeout p i s) := by simp [execPtpSyncTimeout]

@[simp] theorem execPtpAnnounceTimeout_keeps (p : Hub) (i : Fin 2) (s : State) :
    Keeps parts s (execPtpAnnounceTimeout p i s) := by simp [execPtpAnnounceTimeout]

@[simp] theorem execPtpDelayTimeout_keeps (p : Hub) (i : Fin 2) (s : State) :
    Keeps parts s (execPtpDelayTimeout p i s) := by simp [execPtpDelayTimeout]

@[simp] theorem execPtpMessageTransmit_keeps (p : Hub) (i : Fin 2) (kind : Fin 16) (r : Nat) (s : State) :
    Keeps parts s (execPtpMessageTransmit p i kind r s) := by simp [execPtpMessageTransmit]

@[simp] theorem idleTick_owned (s : State) :
    (idleTick s).owned parts = s.owned parts := by simp [idleTick]


/-! The operations of Sys2Proof/Machine/Clk.lean. -/

@[simp] theorem State.modClk_owned (s : State) (h : Nat) (f : ClkSt → ClkSt) :
    (State.modClk s h f).owned parts = s.owned parts := by simp [State.modClk]

@[simp] theorem State.modSynth_owned (s : State) (h : Nat) (out : Bool) (f : Synth → Synth) :
    (State.modSynth s h out f).owned parts = s.owned parts := by simp [State.modSynth]

@[simp] theorem relock_owned (h : Nat) (out : Bool) (s : State) :
    (relock h out s).owned parts = s.owned parts := by simp [relock]

@[simp] theorem execRelockStart_keeps (h : Hub) (out : Bool) (s : State) :
    Keeps parts s (execRelockStart h out s) := by simp [execRelockStart]

@[simp] theorem relockAll_owned (s : State) :
    (relockAll s).owned parts = s.owned parts := by simp [relockAll]

@[simp] theorem showRefOk_owned (s : State) :
    (showRefOk s).owned parts = s.owned parts := by simp [showRefOk]

@[simp] theorem refUse_owned (n : Nat) (s : State) :
    (refUse n s).owned parts = s.owned parts := by simp [refUse]

@[simp] theorem refSelect_owned (s : State) :
    (refSelect s).owned parts = s.owned parts := by
  unfold refSelect
  split <;> simp []

@[simp] theorem refPresentNow_owned (n : Nat) (s : State) :
    (refPresentNow n s).owned parts = s.owned parts := by simp [refPresentNow]

@[simp] theorem refAbsentNow_owned (n : Nat) (s : State) :
    (refAbsentNow n s).owned parts = s.owned parts := by simp [refAbsentNow]

@[simp] theorem execRefPresenceWindow_keeps (edges0 edges1 : Nat) (s : State) :
    Keeps parts s (execRefPresenceWindow edges0 edges1 s) := by simp [execRefPresenceWindow]

@[simp] theorem execRefEdgeTimeout_keeps (n : Fin 2) (s : State) :
    Keeps parts s (execRefEdgeTimeout n s) := by simp [execRefEdgeTimeout]

@[simp] theorem execRefRevert_keeps (s : State) :
    Keeps parts s (execRefRevert s) := by
  unfold execRefRevert
  split <;> simp []

@[simp] theorem execRefStartTimeout_keeps (s : State) :
    Keeps parts s (execRefStartTimeout s) := by simp [execRefStartTimeout]

@[simp] theorem checkUnlock_owned (h : Nat) (out : Bool) (s : State) :
    (checkUnlock h out s).owned parts = s.owned parts := by simp [checkUnlock]

@[simp] theorem execLockWindow_keeps (h : Hub) (out : Bool) (count : Nat) (s : State) :
    Keeps parts s (execLockWindow h out count s) := by simp [execLockWindow]

@[simp] theorem execLockaChange_keeps (on : Bool) (s : State) :
    Keeps parts s (execLockaChange on s) := by simp [execLockaChange]

@[simp] theorem declareLock_owned (h : Nat) (out : Bool) (s : State) :
    (declareLock h out s).owned parts = s.owned parts := by simp [declareLock]

@[simp] theorem execSynthLock_keeps (h : Hub) (out : Bool) (s : State) :
    Keeps parts s (execSynthLock h out s) := by simp [execSynthLock]

@[simp] theorem execRelockTimeout_keeps (h : Hub) (out : Bool) (s : State) :
    Keeps parts s (execRelockTimeout h out s) := by simp [execRelockTimeout]

@[simp] theorem clkCommit_owned (h : Nat) (s : State) :
    (clkCommit h s).owned parts = s.owned parts := by simp [clkCommit]

@[simp] theorem clkRevert_owned (h : Nat) (s : State) :
    (clkRevert h s).owned parts = s.owned parts := by simp [clkRevert]

@[simp] theorem clkRelock_owned (h : Nat) (s : State) :
    (clkRelock h s).owned parts = s.owned parts := by simp [clkRelock]

@[simp] theorem execClkCommit_keeps (h : Hub) (s : State) :
    Keeps parts s (execClkCommit h s) := by simp [execClkCommit]

@[simp] theorem execClkRevert_keeps (h : Hub) (s : State) :
    Keeps parts s (execClkRevert h s) := by simp [execClkRevert]

@[simp] theorem execClkRelock_keeps (h : Hub) (s : State) :
    Keeps parts s (execClkRelock h s) := by simp [execClkRelock]

@[simp] theorem sysrefGo_owned (h : Nat) (s : State) :
    (sysrefGo h s).owned parts = s.owned parts := by
  unfold sysrefGo
  split <;> simp []

@[simp] theorem execSysrefGo_keeps (h : Hub) (s : State) :
    Keeps parts s (execSysrefGo h s) := by simp [execSysrefGo]

@[simp] theorem enableAcq_owned (mask : Nat) (s : State) :
    (enableAcq mask s).owned parts = s.owned parts := by simp [enableAcq]

@[simp] theorem startCount_owned (a r : Nat) (s : State) :
    (startCount a r s).owned parts = s.owned parts := by
  simp only [startCount]
  split <;> simp []

@[simp] theorem execSysrefEdge_keeps (h : Hub) (s : State) :
    Keeps parts s (execSysrefEdge h s) := by simp [execSysrefEdge]

@[simp] theorem showSampLock_owned (s : State) :
    (showSampLock s).owned parts = s.owned parts := by simp [showSampLock]

@[simp] theorem execSampleClockLock_keeps (a : ADie) (s : State) :
    Keeps parts s (execSampleClockLock a s) := by simp [execSampleClockLock]

@[simp] theorem flushFrames_owned (a : Nat) (s : State) :
    (flushFrames a s).owned parts = s.owned parts := by simp [flushFrames]

@[simp] theorem execSampleClockUnlock_keeps (a : ADie) (s : State) :
    Keeps parts s (execSampleClockUnlock a s) := by simp [execSampleClockUnlock]


/-! The operations of Sys2Proof/Machine/Disp.lean. -/

@[simp] theorem State.modDisp_owned (s : State) (h : Nat) (f : DispSt → DispSt) :
    (State.modDisp s h f).owned parts = s.owned parts := by simp [State.modDisp]

@[simp] theorem eachLayer_owned (mask : Nat) (f : Nat → State → State) (s : State)
    (hf : ∀ k s, (f k s).owned parts = s.owned parts) : (eachLayer mask f s).owned parts = s.owned parts := by
  simp [eachLayer, hf]

@[simp] theorem State.wrBit_owned (s : State) (b : Nat) (f : Fld) (k : Nat) (v : Bool) :
    (State.wrBit s b f k v).owned parts = s.owned parts := by simp [State.wrBit]

@[simp] theorem readTiming_owned (h : Nat) (s : State) :
    (readTiming h s).owned parts = s.owned parts := by simp [readTiming]

@[simp] theorem atLine_owned (h n : Nat) (s : State) :
    (atLine h n s).owned parts = s.owned parts := by simp [atLine]

@[simp] theorem layerHandOver_owned (h k : Nat) (s : State) :
    (layerHandOver h k s).owned parts = s.owned parts := by simp [layerHandOver]

@[simp] theorem dispHandOver_owned (h : Nat) (s : State) :
    (dispHandOver h s).owned parts = s.owned parts := by simp [dispHandOver]

@[simp] theorem layerCommit_owned (h k : Nat) (s : State) :
    (layerCommit h k s).owned parts = s.owned parts := by simp [layerCommit]

@[simp] theorem dispCommit_owned (h mask : Nat) (s : State) :
    (dispCommit h mask s).owned parts = s.owned parts := by simp [dispCommit]

@[simp] theorem execDispCommit_keeps (h : Hub) (mask : BitVec 4) (s : State) :
    Keeps parts s (execDispCommit h mask s) := by simp [execDispCommit]

@[simp] theorem layerRevert_owned (h k : Nat) (s : State) :
    (layerRevert h k s).owned parts = s.owned parts := by simp [layerRevert]

@[simp] theorem dispRevert_owned (h mask : Nat) (s : State) :
    (dispRevert h mask s).owned parts = s.owned parts := by simp [dispRevert]

@[simp] theorem execDispRevert_keeps (h : Hub) (mask : BitVec 4) (s : State) :
    Keeps parts s (execDispRevert h mask s) := by simp [execDispRevert]

@[simp] theorem execDispHandover_keeps (h : Hub) (s : State) :
    Keeps parts s (execDispHandover h s) := by simp [execDispHandover]

@[simp] theorem execVrrRelease_keeps (h : Hub) (s : State) :
    Keeps parts s (execVrrRelease h s) := by simp [execVrrRelease]

@[simp] theorem execVrrMaxExpire_keeps (h : Hub) (s : State) :
    Keeps parts s (execVrrMaxExpire h s) := by
  simp only [execVrrMaxExpire]
  (repeat' split) <;> simp []

@[simp] theorem dispEnable_owned (h : Nat) (s : State) :
    (dispEnable h s).owned parts = s.owned parts := by simp [dispEnable]

@[simp] theorem execDispEnable_keeps (h : Hub) (s : State) :
    Keeps parts s (execDispEnable h s) := by simp [execDispEnable]

@[simp] theorem dispDisable_owned (h : Nat) (s : State) :
    (dispDisable h s).owned parts = s.owned parts := by simp [dispDisable]

@[simp] theorem execDispDisable_keeps (h : Hub) (s : State) :
    Keeps parts s (execDispDisable h s) := by simp [execDispDisable]

@[simp] theorem showVrrNa_owned (h : Nat) (s : State) :
    (showVrrNa h s).owned parts = s.owned parts := by simp [showVrrNa]

@[simp] theorem execDispLinkTrain_keeps (h : Hub) (trains : BitVec 8) (adaptive : Bool) (s : State) :
    Keeps parts s (execDispLinkTrain h trains adaptive s) := by
  simp only [execDispLinkTrain]
  (repeat' split) <;> simp []

@[simp] theorem execHpdChange_keeps (h : Hub) (high : Bool) (s : State) :
    Keeps parts s (execHpdChange h high s) := by simp [execHpdChange]

@[simp] theorem dispUnderrun_owned (h x : Nat) (s : State) :
    (dispUnderrun h x s).owned parts = s.owned parts := by simp [dispUnderrun]

@[simp] theorem sendLine_owned (h y : Nat) (s : State) :
    (sendLine h y s).owned parts = s.owned parts := by
  simp only [sendLine]
  split <;> simp []

@[simp] theorem layerFetch_owned (h y : Nat) (s : State) (e : Nat × LayerView) :
    (layerFetch h y s e).owned parts = s.owned parts := by simp [layerFetch]

@[simp] theorem execLineFetch_keeps (h : Hub) (s : State) :
    Keeps parts s (execLineFetch h s) := by
  unfold execLineFetch
  split <;> simp []

@[simp] theorem execDispUnderrun_keeps (h : Hub) (x : BitVec 13) (s : State) :
    Keeps parts s (execDispUnderrun h x s) := by simp [execDispUnderrun]

@[simp] theorem palAccess_owned (h : Nat) (write : Option Word) (s : State) :
    (palAccess h write s).owned parts = s.owned parts := by
  unfold palAccess
  split <;> simp []

@[simp] theorem execDispPalDataAccess_keeps (h : Hub) (write : Option Word) (s : State) :
    Keeps parts s (execDispPalDataAccess h write s) := by simp [execDispPalDataAccess]


/-! The operations of Sys2Proof/Machine/Hka.lean. -/

@[simp] theorem State.modHk_owned (s : State) (h c : Nat) (f : HkSt → HkSt) :
    (State.modHk s h c f).owned parts = s.owned parts := by simp [State.modHk]

@[simp] theorem State.modPair_owned (s : State) (h k : Nat) (f : PairSt → PairSt) (hpairs : .pairs ∈ parts) :
    (State.modPair s h k f).owned parts = s.owned parts := by
  simp [State.modPair, State.owned, hpairs]

@[simp] theorem State.modPwm_owned (s : State) (h p : Nat) (f : PwmSt → PwmSt) (hpwm : .pwm ∈ parts) :
    (State.modPwm s h p f).owned parts = s.owned parts := by
  simp [State.modPwm, State.owned, hpwm]

@[simp] theorem hkBegin_owned (h c e : Nat) (s : State) :
    (hkBegin h c e s).owned parts = s.owned parts := by simp [hkBegin]

@[simp] theorem hkTrigger_owned (h c : Nat) (s : State) :
    (hkTrigger h c s).owned parts = s.owned parts := by simp [hkTrigger]

@[simp] theorem hkStart_owned (h mask : Nat) (s : State) :
    (hkStart h mask s).owned parts = s.owned parts := by simp [hkStart]

@[simp] theorem execHkStart_keeps (h : Hub) (mask : BitVec 2) (s : State) :
    Keeps parts s (execHkStart h mask s) := by simp [execHkStart]

@[simp] theorem execHkTimerTrigger_keeps (h : Hub) (c : Fin 2) (s : State) :
    Keeps parts s (execHkTimerTrigger h c s) := by simp [execHkTimerTrigger]

@[simp] theorem execHkSequenceStart_keeps (h : Hub) (c : Fin 2) (s : State) :
    Keeps parts s (execHkSequenceStart h c s) := by simp [execHkSequenceStart]

@[simp] theorem hkCtrlWritten_owned (h c : Nat) (s : State) :
    (hkCtrlWritten h c s).owned parts = s.owned parts := by simp [hkCtrlWritten]

@[simp] theorem hkLand_owned (h c e chan code : Nat) (valid : Bool) (s : State) (hhkAt : .hkAt ∈ parts) :
    (hkLand h c e chan code valid s).owned parts = s.owned parts := by
  unfold hkLand
  extract_lets b u v f value ovr was w w'
  have hv : v.owned parts = u.owned parts := State.owned_hkAt u _ hhkAt
  split <;> simp [w', w, hv, u]

@[simp] theorem pairFail_owned (h k cause : Nat) (s : State) (hpairs : .pairs ∈ parts) :
    (pairFail h k cause s).owned parts = s.owned parts := by simp [pairFail, hpairs]

@[simp] theorem pairPass_owned (h k : Nat) (s : State) (hpairs : .pairs ∈ parts) :
    (pairPass h k s).owned parts = s.owned parts := by simp [pairPass, hpairs]

@[simp] theorem pairResult_owned (h k c e code : Nat) (s : State) (hpairs : .pairs ∈ parts) :
    (pairResult h k c e code s).owned parts = s.owned parts := by
  simp only [pairResult]
  (repeat' split) <;> simp [hpairs]

@[simp] theorem execHkPairTimeout_keeps (h : Hub) (k : Fin 8) (s : State) (hpairs : .pairs ∈ parts) :
    Keeps parts s (execHkPairTimeout h k s) := by simp [execHkPairTimeout, hpairs]

@[simp] theorem hkResult_owned (h c : Nat) (v : Rat) (s : State) (hpairs : .pairs ∈ parts) (hhkAt : .hkAt ∈ parts) :
    (hkResult h c v s).2.owned parts = s.owned parts := by
  simp only [hkResult]
  split_ifs <;> simp [hpairs, hhkAt]

@[simp] theorem execLedgerConversion_keeps (v : Rat) (s : State) :
    Keeps parts s (execLedgerConversion v s) := by simp [execLedgerConversion]

@[simp] theorem pwmLevel_owned (h p : Nat) (v : Bool) (s : State) :
    (pwmLevel h p v s).owned parts = s.owned parts := by simp [pwmLevel]

@[simp] theorem pwmRest_owned (h p : Nat) (s : State) :
    (pwmRest h p s).owned parts = s.owned parts := by simp [pwmRest]

@[simp] theorem execPwmEdge_keeps (h : Hub) (p : Fin 4) (zero : Bool) (s : State) (hpwm : .pwm ∈ parts) :
    Keeps parts s (execPwmEdge h p zero s) := by simp [execPwmEdge, hpwm]


/-! The operations of Sys2Proof/Machine/Ddr.lean. -/

@[simp] theorem State.modDdr_owned (s : State) (h c : Nat) (f : DdrSt → DdrSt) :
    (State.modDdr s h c f).owned parts = s.owned parts := by simp [State.modDdr]

@[simp] theorem setDdrState_owned (h c v : Nat) (s : State) :
    (setDdrState h c v s).owned parts = s.owned parts := by simp [setDdrState]

@[simp] theorem ddrHub_owned (h : Nat) (mib : Nat → Nat) (s : State) :
    (ddrHub h mib s).owned parts = s.owned parts := by simp [ddrHub]

@[simp] theorem ddrTrain_owned (h c ready : Nat) (t : DdrTrain) (s : State) :
    (ddrTrain h c ready t s).owned parts = s.owned parts := by
  simp only [ddrTrain]
  split <;> simp []

@[simp] theorem ddrTrainHub_owned (h : Nat) (t0 t1 : DdrTrain) (s : State) :
    (ddrTrainHub h t0 t1 s).owned parts = s.owned parts := by simp [ddrTrainHub]

@[simp] theorem ddrFreeze_owned (h c cause source addr : Nat) (a : DdrAccess) (s : State) :
    (ddrFreeze h c cause source addr a s).owned parts = s.owned parts := by simp [ddrFreeze]

@[simp] theorem ddrCorrected_owned (h c : Nat) (k : Option Nat) (s : State) :
    (ddrCorrected h c k s).owned parts = s.owned parts := by
  unfold ddrCorrected
  split <;> simp []

@[simp] theorem ddrDecode_owned (h c source addr : Nat) (a : DdrAccess) (ws : List (List (Fin 20))) (s : State) :
    (ddrDecode h c source addr a ws s).owned parts = s.owned parts := by
  induction ws generalizing s with
  | nil => rfl
  | cons w ws ih => simp [ddrDecode, ih]

@[simp] theorem ddrCommand_owned (h c source addr : Nat) (write : Bool) (a : DdrAccess) (s : State) :
    (ddrCommand h c source addr write a s).2.owned parts = s.owned parts := by
  simp only [ddrCommand]
  split_ifs <;> simp

@[simp] theorem ddrMark_owned (h c : Nat) (s : State) :
    (ddrMark h c s).owned parts = s.owned parts := by simp [ddrMark]

@[simp] theorem ddrQueueReads_owned (h c : Nat) (l : List DdrReq) (s : State) :
    (ddrQueueReads h c l s).owned parts = s.owned parts := by simp [ddrQueueReads]

@[simp] theorem ddrServeRead_owned (h c : Nat) (a : DdrAccess) (s : State) :
    (ddrServeRead h c a s).owned parts = s.owned parts := by
  unfold ddrServeRead
  extract_lets q
  split
  · rfl
  · extract_lets give bad
    have hgive : ∀ out poison (u : State), (give out poison u).owned parts = u.owned parts := fun out poison u => by
      simp [give]
    split
    · split <;> simp [hgive]
    · split
      · rfl
      · generalize hcommand : ddrCommand h c _ _ _ _ _ = answer
        have hanswer : answer.2.owned parts = s.owned parts := by simp [← hcommand]
        obtain ⟨ok, u⟩ := answer
        dsimp only at hanswer ⊢
        split_ifs <;> simp [hgive, hanswer]

@[simp] theorem ddrAcceptOne_owned (h : Nat) (r : DdrReq) (s : State) (hcap : .cap ∈ parts) :
    (ddrAcceptOne h r s).owned parts = s.owned parts := by simp [ddrAcceptOne, hcap]

@[simp] theorem execDdrWriteAccept_keeps (h : Hub) (l : List DdrReq) (s : State) (hcap : .cap ∈ parts) :
    Keeps parts s (execDdrWriteAccept h l s) := by
  rw [execDdrWriteAccept, keeps_next]
  split
  · exact State.owned_foldl _ _ _ _ (fun u src => State.owned_foldl _ _ _ _ (fun u r => ddrAcceptOne_owned _ _ _ hcap))
  · rfl

@[simp] theorem ddrServeWrite_owned (h c : Nat) (a : DdrAccess) (s : State) :
    (ddrServeWrite h c a s).owned parts = s.owned parts := by
  unfold ddrServeWrite
  split <;> simp []

@[simp] theorem ddrLoads_owned (s : State) :
    (ddrLoads s).owned parts = s.owned parts := by simp [ddrLoads]

@[simp] theorem execDdrRetrain_keeps (h : Hub) (c : Fin 2) (s : State) :
    Keeps parts s (execDdrRetrain h c s) := by simp [execDdrRetrain]

@[simp] theorem ddrScrub_owned (h c : Nat) (a : DdrAccess) (s : State) :
    (ddrScrub h c a s).owned parts = s.owned parts := by simp [ddrScrub]

@[simp] theorem ddrDrain_owned (h c : Nat) (s : State) :
    (ddrDrain h c s).owned parts = s.owned parts := by simp [ddrDrain]

@[simp] theorem ddrRest_owned (h c : Nat) (s : State) :
    (ddrRest h c s).owned parts = s.owned parts := by simp [ddrRest]

@[simp] theorem execDdrSelfRefreshEntry_keeps (h : Hub) (c : Fin 2) (early : Bool) (s : State) :
    Keeps parts s (execDdrSelfRefreshEntry h c early s) := by simp [execDdrSelfRefreshEntry]

@[simp] theorem ddrWake_owned (h c : Nat) (s : State) :
    (ddrWake h c s).owned parts = s.owned parts := by simp [ddrWake]

@[simp] theorem execDdrSelfRefreshExit_keeps (h : Hub) (c : Fin 2) (s : State) :
    Keeps parts s (execDdrSelfRefreshExit h c s) := by simp [execDdrSelfRefreshExit]

@[simp] theorem ddrRelease_owned (h mask : Nat) (s : State) :
    (ddrRelease h mask s).owned parts = s.owned parts := by simp [ddrRelease]

@[simp] theorem ddrZero_owned (h c : Nat) (s : State) (hcap : .cap ∈ parts) :
    (ddrZero h c s).owned parts = s.owned parts := by
  unfold ddrZero
  exact State.owned_mono (ps := [.cap]) (by simp [hcap]) rfl

@[simp] theorem execDdrRelease_keeps (h : Hub) (c : Fin 2) (t : DdrTrain) (s : State) (hcap : .cap ∈ parts) :
    Keeps parts s (execDdrRelease h c t s) := by simp [execDdrRelease, hcap]

@[simp] theorem execDdrReleaseDone_keeps (h : Hub) (c : Fin 2) (s : State) :
    Keeps parts s (execDdrReleaseDone h c s) := by simp [execDdrReleaseDone]


/-! The operations of Sys2Proof/Machine/DmaCtl.lean. -/

@[simp] theorem State.modDma_owned (s : State) (h k : Nat) (f : DmaSt → DmaSt) :
    (State.modDma s h k f).owned parts = s.owned parts := by simp [State.modDma]

@[simp] theorem setDmaState_owned (h k v : Nat) (s : State) :
    (setDmaState h k v s).owned parts = s.owned parts := by simp [setDmaState]

@[simp] theorem takeCredit_owned (h line : Nat) (s : State) :
    (takeCredit h line s).owned parts = s.owned parts := by simp [takeCredit]

@[simp] theorem setCredits_owned (h v : Nat) (s : State) :
    (setCredits h v s).owned parts = s.owned parts := by simp [setCredits]

@[simp] theorem clearLineOvf_owned (h : Nat) (s : State) :
    (clearLineOvf h s).owned parts = s.owned parts := by simp [clearLineOvf]

@[simp] theorem showLoops_owned (h k : Nat) (s : State) :
    (showLoops h k s).owned parts = s.owned parts := by simp [showLoops]

@[simp] theorem dmaNext_owned (h k : Nat) (next : Option Nat) (s : State) :
    (dmaNext h k next s).owned parts = s.owned parts := by simp [dmaNext]

@[simp] theorem dmaHalt_owned (h k cause : Nat) (s : State) :
    (dmaHalt h k cause s).owned parts = s.owned parts := by simp [dmaHalt]

@[simp] theorem dmaPauseShow_owned (h k : Nat) (s : State) :
    (dmaPauseShow h k s).owned parts = s.owned parts := by simp [dmaPauseShow]

@[simp] theorem dmaRun_owned (h k : Nat) (s : State) :
    (dmaRun h k s).owned parts = s.owned parts := by simp [dmaRun]

@[simp] theorem dmaStop_owned (h k : Nat) (s : State) :
    (dmaStop h k s).owned parts = s.owned parts := by simp [dmaStop]

@[simp] theorem execDmaRun_keeps (h : Hub) (k : Fin 16) (s : State) :
    Keeps parts s (execDmaRun h k s) := by simp [execDmaRun]

@[simp] theorem execDmaStop_keeps (h : Hub) (k : Fin 16) (s : State) :
    Keeps parts s (execDmaStop h k s) := by simp [execDmaStop]

@[simp] theorem execDmaPause_keeps (h : Hub) (k : Fin 16) (s : State) :
    Keeps parts s (execDmaPause h k s) := by simp [execDmaPause]

@[simp] theorem execDmaResume_keeps (h : Hub) (k : Fin 16) (s : State) :
    Keeps parts s (execDmaResume h k s) := by simp [execDmaResume]

@[simp] theorem dmaEnWritten_owned (h : Nat) (s : State) :
    (dmaEnWritten h s).owned parts = s.owned parts := by simp [dmaEnWritten]

@[simp] theorem dmaCtrlWritten_owned (h k : Nat) (w : Nat) (s : State) :
    (dmaCtrlWritten h k w s).owned parts = s.owned parts := by simp [dmaCtrlWritten]

@[simp] theorem dmaWaitOn_owned (h k line : Nat) (s : State) :
    (dmaWaitOn h k line s).owned parts = s.owned parts := by simp [dmaWaitOn]

@[simp] theorem dmaWakeOne_owned (h k : Nat) (s : State) :
    (dmaWakeOne h k s).owned parts = s.owned parts := by
  simp only [dmaWakeOne]
  (repeat' split) <;> simp []

@[simp] theorem dmaWake_owned (s : State) :
    (dmaWake s).owned parts = s.owned parts := by simp [dmaWake]

@[simp] theorem dmaFetch_owned (h k : Nat) (bad : Bool) (f : DmaOp → State → State) (s : State)
    (hf : ∀ op s, (f op s).owned parts = s.owned parts) : (dmaFetch h k bad f s).owned parts = s.owned parts := by
  unfold dmaFetch; (repeat' split) <;> simp [hf]

@[simp] theorem dmaIssue_owned (h k : Nat) (bad : Bool) (f : DmaOp → State → State) (s : State)
    (hf : ∀ op s, (f op s).owned parts = s.owned parts) : (dmaIssue h k bad f s).owned parts = s.owned parts := by
  simp [dmaIssue, hf]

@[simp] theorem dmaHold_owned (h k : Nat) (s : State) :
    (dmaHold h k s).owned parts = s.owned parts := by simp [dmaHold]

@[simp] theorem execDmaHalt_keeps (h : Hub) (k : Fin 16) (parityBad : Bool) (s : State) :
    Keeps parts s (execDmaHalt h k parityBad s) := by
  rw [execDmaHalt, keeps_next]
  exact dmaIssue_owned _ _ _ _ _ (fun op u => by split <;> simp)

@[simp] theorem execDmaNop_keeps (h : Hub) (k : Fin 16) (parityBad : Bool) (s : State) :
    Keeps parts s (execDmaNop h k parityBad s) := by
  rw [execDmaNop, keeps_next]
  exact dmaIssue_owned _ _ _ _ _ (fun op u => by split <;> simp)

@[simp] theorem execDmaSeta_keeps (h : Hub) (k : Fin 16) (parityBad : Bool) (s : State) :
    Keeps parts s (execDmaSeta h k parityBad s) := by
  rw [execDmaSeta, keeps_next]
  exact dmaIssue_owned _ _ _ _ _ (fun op u => by split <;> simp)

@[simp] theorem execDmaLoop_keeps (h : Hub) (k : Fin 16) (parityBad : Bool) (s : State) :
    Keeps parts s (execDmaLoop h k parityBad s) := by
  rw [execDmaLoop, keeps_next]
  exact dmaIssue_owned _ _ _ _ _ (fun op u => by split <;> simp)

@[simp] theorem execDmaWait_keeps (h : Hub) (k : Fin 16) (parityBad : Bool) (s : State) :
    Keeps parts s (execDmaWait h k parityBad s) := by
  rw [execDmaWait, keeps_next]
  exact dmaIssue_owned _ _ _ _ _ (fun op u => by split <;> simp)

@[simp] theorem execDmaWaitTimeout_keeps (h : Hub) (k : Fin 16) (s : State) :
    Keeps parts s (execDmaWaitTimeout h k s) := by
  simp only [execDmaWaitTimeout]
  (repeat' split) <;> simp []

@[simp] theorem execDmaSignalIrq_keeps (h : Hub) (k : Fin 16) (parityBad : Bool) (s : State) :
    Keeps parts s (execDmaSignalIrq h k parityBad s) := by
  rw [execDmaSignalIrq, keeps_next]
  exact dmaIssue_owned _ _ _ _ _ (fun op u => by split <;> simp)

@[simp] theorem execDmaSignalEvent_keeps (h : Hub) (k : Fin 16) (parityBad : Bool) (s : State) :
    Keeps parts s (execDmaSignalEvent h k parityBad s) := by
  rw [execDmaSignalEvent, keeps_next]
  exact dmaIssue_owned _ _ _ _ _ (fun op u => by split <;> simp)


/-! The operations of Sys2Proof/Machine/EthCtl.lean. -/

@[simp] theorem State.modEth_owned (s : State) (h : Nat) (f : EthSt → EthSt) :
    (State.modEth s h f).owned parts = s.owned parts := by simp [State.modEth]

@[simp] theorem State.modStr_owned (s : State) (h t : Nat) (f : EthStr → EthStr) :
    (State.modStr s h t f).owned parts = s.owned parts := by simp [State.modStr]

@[simp] theorem ethDrop_owned (h m : Nat) (s : State) :
    (ethDrop h m s).owned parts = s.owned parts := by simp [ethDrop]

@[simp] theorem mgmtSend_owned (h : Nat) (f : EthTx) (s : State) :
    (mgmtSend h f s).owned parts = s.owned parts := by simp [mgmtSend]

@[simp] theorem execEthLinkUp_keeps (h : Hub) (sub : Fin 4) (s : State) :
    Keeps parts s (execEthLinkUp h sub s) := by simp [execEthLinkUp]

@[simp] theorem execEthLinkDown_keeps (h : Hub) (sub : Fin 4) (s : State) :
    Keeps parts s (execEthLinkDown h sub s) := by simp [execEthLinkDown]

@[simp] theorem execEthRestart_keeps (h : Hub) (s : State) :
    Keeps parts s (execEthRestart h s) := by simp [execEthRestart]

@[simp] theorem ethOff_owned (h : Nat) (s : State) :
    (ethOff h s).owned parts = s.owned parts := by simp [ethOff]

@[simp] theorem qbytesWritten_owned (h : Nat) (s : State) :
    (qbytesWritten h s).owned parts = s.owned parts := by simp [qbytesWritten]

@[simp] theorem strShow_owned (h t : Nat) (s : State) :
    (strShow h t s).owned parts = s.owned parts := by simp [strShow]

@[simp] theorem strResolveShow_owned (h t : Nat) (s : State) :
    (strResolveShow h t s).owned parts = s.owned parts := by simp [strResolveShow]

@[simp] theorem execAddressResolve_keeps (h : Hub) (macs : List (Option (BitVec 48))) (s : State) :
    Keeps parts s (execAddressResolve h macs s) := by simp [execAddressResolve]

@[simp] theorem strEnable_owned (h t : Nat) (on : Bool) (s : State) :
    (strEnable h t on s).owned parts = s.owned parts := by simp [strEnable]

theorem strPush_owned {h t : Nat} {start : Bool} {d : List Byte} {s u : State} (hu : strPush h t start d s = some u) :
    u.owned parts = s.owned parts := by
  simp only [strPush] at hu
  split_ifs at hu <;> cases hu <;> simp

@[simp] theorem strEmit_owned (h t : Nat) (native : Bool) (body : List Byte) (s : State) :
    (strEmit h t native body s).owned parts = s.owned parts := by
  unfold strEmit
  split <;> simp []

@[simp] theorem formNative_owned (h t : Nat) (s : State) :
    (formNative h t s).owned parts = s.owned parts := by
  simp only [formNative]
  split <;> simp []

@[simp] theorem vrtSendContext_owned (h t chan : Nat) (time : Int) (changed : Bool) (s : State) :
    (vrtSendContext h t chan time changed s).owned parts = s.owned parts := by simp [vrtSendContext]

@[simp] theorem vrtOpen_owned (h t : Nat) (s : State) :
    (vrtOpen h t s).owned parts = s.owned parts := by
  unfold vrtOpen
  split <;> simp []

@[simp] theorem vrtForm_owned (h t : Nat) (all : Bool) (s : State) :
    (vrtForm h t all s).owned parts = s.owned parts := by
  simp only [vrtForm]
  split <;> simp []

@[simp] theorem execStreamPacketForm_keeps (h : Hub) (t : Fin 64) (s : State) :
    Keeps parts s (execStreamPacketForm h t s) := by simp [execStreamPacketForm]

@[simp] theorem execStreamHoldExpire_keeps (h : Hub) (t : Fin 64) (s : State) :
    Keeps parts s (execStreamHoldExpire h t s) := by simp [execStreamHoldExpire]

@[simp] theorem execVrtContextPeriodic_keeps (h : Hub) (t : Fin 64) (s : State) :
    Keeps parts s (execVrtContextPeriodic h t s) := by simp [execVrtContextPeriodic]

@[simp] theorem ethSend_owned (h : Nat) (f : EthSent) (s : State) :
    (ethSend h f s).owned parts = s.owned parts := by simp [ethSend]

@[simp] theorem sendMgmt_owned (h : Nat) (s : State) :
    (sendMgmt h s).owned parts = s.owned parts := by
  unfold sendMgmt
  (repeat' split) <;> simp []

@[simp] theorem sendEvent_owned (h : Nat) (s : State) (htrgTx : .trgTx ∈ parts) :
    (sendEvent h s).owned parts = s.owned parts := by
  unfold sendEvent
  split
  · rfl
  · extract_lets u
    have hu : u.owned parts = s.owned parts := State.owned_trgTx s _ htrgTx
    simp [hu]

@[simp] theorem sendStream_owned (h sub : Nat) (s : State) :
    (sendStream h sub s).owned parts = s.owned parts := by
  unfold sendStream
  extract_lets
  split
  · rfl
  · split
    · rfl
    · simp

@[simp] theorem execFrameTransmit_keeps (h : Hub) (sub : Fin 4) (s : State) (htrgTx : .trgTx ∈ parts) :
    Keeps parts s (execFrameTransmit h sub s) := by simp [execFrameTransmit, htrgTx]

@[simp] theorem flowFrame_owned (h : Nat) (pfc : Bool) (prios : Nat) (quanta : List Nat) (s : State) :
    (flowFrame h pfc prios quanta s).owned parts = s.owned parts := by simp [flowFrame]

@[simp] theorem execPauseReceive_keeps (h : Hub) (pfc : Bool) (prios : BitVec 8) (quanta : List (BitVec 16)) (s :
    State) :
    Keeps parts s (execPauseReceive h pfc prios quanta s) := by simp [execPauseReceive]

@[simp] theorem execPauseExpire_keeps (h : Hub) (prios : BitVec 8) (s : State) :
    Keeps parts s (execPauseExpire h prios s) := by simp [execPauseExpire]

@[simp] theorem mgmtFinishN_owned (h : Nat) (n : Nat) (s : State) : (mgmtFinishN h n s).owned parts = s.owned parts :=
    by
  induction n generalizing s with
  | zero => rfl
  | succ n ih => unfold mgmtFinishN; (repeat' split) <;> simp [ih]

@[simp] theorem mgmtFinish_owned (h : Nat) (s : State) :
    (mgmtFinish h s).owned parts = s.owned parts := by simp [mgmtFinish]

@[simp] theorem mgmtRequest_owned (h : Nat) (p : NetPeer) (m : List Byte) (s : State) :
    (mgmtRequest h p m s).owned parts = s.owned parts := by
  unfold mgmtRequest
  extract_lets b auth reject count len q seq bad req tagOk c client u
  have hreject : reject.owned parts = s.owned parts := by simp [reject]
  generalize (if auth = true then 16 else 0) = tagLen
  split
  · exact hreject
  · split
    · simp [hreject]
    · split
      · simp
      · split_ifs <;> simp [u, hreject]

@[simp] theorem execEthFrameReceive_keeps (h : Hub) (f : EthFrame) (s : State) :
    Keeps parts s (execEthFrameReceive h f s) := by
  unfold execEthFrameReceive
  split <;> simp []

theorem stopTaken_owned {h arg st : Nat} {s : State} {x : Nat × State} (hx : stopTaken h arg st s = some x) :
    x.2.owned parts = s.owned parts := by
  simp only [stopTaken] at hx
  split at hx
  · cases hx
  · cases hx
    simp

@[simp] theorem stopStreams_owned (h : Nat) (s : State) :
    (stopStreams h s).owned parts = s.owned parts := by simp [stopStreams]

@[simp] theorem execMgmtStopPortStreams_keeps (h : Hub) (s : State) :
    Keeps parts s (execMgmtStopPortStreams h s) := by
  rw [execMgmtStopPortStreams, keeps_next]
  split
  case h_1 hx => simp [stopTaken_owned hx]
  case h_2 => rfl

@[simp] theorem execMgmtStopAllStreams_keeps (h : Hub) (s : State) :
    Keeps parts s (execMgmtStopAllStreams h s) := by
  rw [execMgmtStopAllStreams, keeps_next]
  split
  case h_1 hx => simp [stopTaken_owned hx]
  case h_2 => rfl


/-! The operations of Sys2Proof/Machine/FcolCtl.lean. -/

@[simp] theorem State.modFcol_owned (s : State) (h : Nat) (f : FcolSt → FcolSt) :
    (State.modFcol s h f).owned parts = s.owned parts := by simp [State.modFcol]

@[simp] theorem State.modSrc_owned (s : State) (h n : Nat) (f : FaultSrc → FaultSrc) :
    (State.modSrc s h n f).owned parts = s.owned parts := by simp [State.modSrc]

@[simp] theorem fcolShow_owned (h : Nat) (s : State) :
    (fcolShow h s).owned parts = s.owned parts := by simp [fcolShow]

@[simp] theorem srcCfgWrite_owned (h w : Nat) (s : State) :
    (srcCfgWrite h w s).owned parts = s.owned parts := by simp [srcCfgWrite]

@[simp] theorem srcStateWrite_owned (h w : Nat) (s : State) :
    (srcStateWrite h w s).owned parts = s.owned parts := by simp [srcStateWrite]

@[simp] theorem srcCountWrite_owned (h w : Nat) (s : State) :
    (srcCountWrite h w s).owned parts = s.owned parts := by simp [srcCountWrite]

@[simp] theorem srcEvent_owned (h : Nat) (e : Event) (s : State) : (srcEvent h e s).1.owned parts = s.owned parts := by
  simp [srcEvent]

@[simp] theorem fcolLog_owned (h : Nat) (e : Logged) (s : State) :
    (fcolLog h e s).owned parts = s.owned parts := by simp [fcolLog]

@[simp] theorem firstFault_owned (h : Nat) (xs : List Logged) (s : State) :
    (firstFault h xs s).1.owned parts = s.owned parts := by
  simp only [firstFault]
  split
  · rfl
  · split <;> simp

@[simp] theorem classAct_owned (h : Nat) (e : Logged) (s : State) :
    (classAct h e s).owned parts = s.owned parts := by simp [classAct]

@[simp] theorem collect_owned (h : Nat) (xs : List Event) (s : State) : (collect h xs s).1.owned parts = s.owned parts
    := by
  have hevents : ∀ (ys : List Event) (x : State × List Logged),
      (ys.foldl (fun x e => ((srcEvent h e x.1).1, x.2 ++ [(srcEvent h e x.1).2])) x).1.owned parts = x.1.owned parts
          := by
    intro ys
    induction ys with
    | nil => intro x; rfl
    | cons y ys ih => intro x; simp [ih]
  simp only [collect]
  split <;> simp [hevents]

@[simp] theorem logRepaired_owned (source detail : Nat) (s : State) :
    (logRepaired source detail s).owned parts = s.owned parts := by simp [logRepaired]

@[simp] theorem execFcolWindowClose_keeps (h : Hub) (n : BitVec 8) (s : State) :
    Keeps parts s (execFcolWindowClose h n s) := by simp [execFcolWindowClose]

@[simp] theorem execFcolQuietExit_keeps (h : Hub) (n : BitVec 8) (s : State) :
    Keeps parts s (execFcolQuietExit h n s) := by simp [execFcolQuietExit]

@[simp] theorem clearFirst_owned (h : Nat) (s : State) :
    (clearFirst h s).owned parts = s.owned parts := by simp [clearFirst]

@[simp] theorem execFcolClearFirst_keeps (h : Hub) (s : State) :
    Keeps parts s (execFcolClearFirst h s) := by simp [execFcolClearFirst]

@[simp] theorem aliveResume_owned (h : Nat) (s : State) :
    (aliveResume h s).owned parts = s.owned parts := by simp [aliveResume]

@[simp] theorem execFcolAliveResume_keeps (h : Hub) (s : State) :
    Keeps parts s (execFcolAliveResume h s) := by simp [execFcolAliveResume]

@[simp] theorem clearSrc_owned (h : Nat) (s : State) :
    (clearSrc h s).owned parts = s.owned parts := by simp [clearSrc]

@[simp] theorem execFcolClearSrc_keeps (h : Hub) (s : State) :
    Keeps parts s (execFcolClearSrc h s) := by simp [execFcolClearSrc]

@[simp] theorem fcolCmd_owned (h w : Nat) (s : State) :
    (fcolCmd h w s).owned parts = s.owned parts := by simp [fcolCmd]

@[simp] theorem execPlannerHeartbeat_keeps (s : State) (hbeatsMissed : .beatsMissed ∈ parts) :
    Keeps parts s (execPlannerHeartbeat s) := by
  simp [execPlannerHeartbeat, State.owned, hbeatsMissed]

@[simp] theorem execHeartbeatMiss_keeps (s : State) (hbeatsMissed : .beatsMissed ∈ parts) :
    Keeps parts s (execHeartbeatMiss s) := by
  unfold execHeartbeatMiss
  (repeat' split) <;> simp [State.owned, hbeatsMissed]

@[simp] theorem execAliveToggle_keeps (s : State) (halive : .alive ∈ parts) :
    Keeps parts s (execAliveToggle s) := by
  unfold execAliveToggle
  (repeat' split) <;> simp [State.owned, halive]


/-! The operations of Sys2Proof/Machine/Tdc.lean. -/

@[simp] theorem State.modTdc_owned (s : State) (g : Nat) (f : TdcIn → TdcIn) :
    (State.modTdc s g f).owned parts = s.owned parts := by simp [State.modTdc]

@[simp] theorem State.modIv_owned (s : State) (h m : Nat) (f : IvUnit → IvUnit) :
    (State.modIv s h m f).owned parts = s.owned parts := by simp [State.modIv]

@[simp] theorem tdcShow_owned (g : Nat) (s : State) :
    (tdcShow g s).owned parts = s.owned parts := by simp [tdcShow]

@[simp] theorem ivShow_owned (h m : Nat) (s : State) :
    (ivShow h m s).owned parts = s.owned parts := by simp [ivShow]

@[simp] theorem setPresent_owned (g : Nat) (on : Bool) (s : State) :
    (setPresent g on s).owned parts = s.owned parts := by simp [setPresent]

@[simp] theorem presence_owned (g raw : Nat) (s : State) :
    (presence g raw s).owned parts = s.owned parts := by
  simp only [presence]
  (repeat' split) <;> simp []

@[simp] theorem showGate_owned (g : Nat) (s : State) :
    (showGate g s).owned parts = s.owned parts := by simp [showGate]

@[simp] theorem tdcQueue_owned (g : Nat) (t : Int) (seq : Nat) (rising coarse : Bool) (s : State) :
    (tdcQueue g t seq rising coarse s).owned parts = s.owned parts := by simp [tdcQueue]

@[simp] theorem ivQueue_owned (h m : Nat) (a b : HeldEdge) (s : State) :
    (ivQueue h m a b s).owned parts = s.owned parts := by simp [ivQueue]

@[simp] theorem ivEdge_owned (h m : Nat) (e : HeldEdge) (s : State) :
    (ivEdge h m e s).owned parts = s.owned parts := by
  unfold ivEdge
  split <;> simp []

@[simp] theorem ivEdges_owned (g : Nat) (t : Int) (seq : Nat) (rising coarse : Bool) (s : State) :
    (ivEdges g t seq rising coarse s).owned parts = s.owned parts := by simp [ivEdges]

@[simp] theorem tdcPass_owned (g raw : Nat) (t : Int) (seq : Nat) (rising coarse : Bool) (s : State) :
    (tdcPass g raw t seq rising coarse s).owned parts = s.owned parts := by simp [tdcPass]

@[simp] theorem execTdcEdge_keeps (g : Fin 16) (rising : Bool) (r : Nat) (k : BitVec 8) (s : State) :
    Keeps parts s (execTdcEdge g rising r k s) := by simp [execTdcEdge]

@[simp] theorem tdcArm_owned (h mask : Nat) (s : State) :
    (tdcArm h mask s).owned parts = s.owned parts := by simp [tdcArm]

@[simp] theorem execTdcArm_keeps (h : Hub) (mask : BitVec 8) (s : State) :
    Keeps parts s (execTdcArm h mask s) := by simp [execTdcArm]

@[simp] theorem tdcFlush_owned (h mask : Nat) (s : State) :
    (tdcFlush h mask s).owned parts = s.owned parts := by simp [tdcFlush]

@[simp] theorem execTdcFlush_keeps (h : Hub) (mask : BitVec 8) (s : State) :
    Keeps parts s (execTdcFlush h mask s) := by simp [execTdcFlush]

@[simp] theorem tdcStartCheck_owned (h n : Nat) (update : Bool) (s : State) :
    (tdcStartCheck h n update s).owned parts = s.owned parts := by simp [tdcStartCheck]

@[simp] theorem execTdcCheck_keeps (h : Hub) (n : Fin 8) (update : Bool) (s : State) :
    Keeps parts s (execTdcCheck h n update s) := by simp [execTdcCheck]

@[simp] theorem execTdcCheckDone_keeps (h : Hub) (dnl inl : BitVec 8) (minHits : Nat) (s : State) :
    Keeps parts s (execTdcCheckDone h dnl inl minHits s) := by
  unfold execTdcCheckDone
  split <;> simp []

@[simp] theorem tdcPop_owned (g : Nat) (s : State) : (tdcPop g s).2.2.owned parts = s.owned parts := by
  unfold tdcPop; split <;> simp

@[simp] theorem ivPop_owned (h m : Nat) (s : State) : (ivPop h m s).2.2.owned parts = s.owned parts := by
  unfold ivPop; split <;> simp

@[simp] theorem execTdcFifoPop_keeps (g : Fin 16) (s : State) :
    Keeps parts s (execTdcFifoPop g s) := by simp [execTdcFifoPop]

@[simp] theorem execIvFifoPop_keeps (h : Hub) (m : Fin 4) (s : State) :
    Keeps parts s (execIvFifoPop h m s) := by simp [execIvFifoPop]

@[simp] theorem execPresenceTimeout_keeps (g : Fin 16) (s : State) :
    Keeps parts s (execPresenceTimeout g s) := by simp [execPresenceTimeout]

@[simp] theorem execTdcReady_keeps (g : Fin 16) (s : State) :
    Keeps parts s (execTdcReady g s) := by simp [execTdcReady]

@[simp] theorem execTdcSettleEnd_keeps (g : Fin 16) (s : State) :
    Keeps parts s (execTdcSettleEnd g s) := by simp [execTdcSettleEnd]

@[simp] theorem tdcConfig_owned (g old : Nat) (s : State) :
    (tdcConfig g old s).owned parts = s.owned parts := by simp [tdcConfig]


/-! The operations of Sys2Proof/Machine/Mbox.lean. -/

@[simp] theorem State.modMbox_owned (s : State) (h p : Nat) (f : MboxSt → MboxSt) :
    (State.modMbox s h p f).owned parts = s.owned parts := by simp [State.modMbox]

@[simp] theorem State.modPlan_owned (s : State) (n : Nat) (f : PlanSt → PlanSt) :
    (State.modPlan s n f).owned parts = s.owned parts := by simp [State.modPlan]

theorem mboxTake_owned {h code i : Nat} {s : State} {x : Nat × State} (hx : mboxTake h code i s = some x) :
    x.2.owned parts = s.owned parts := by
  unfold mboxTake at hx
  split at hx
  case h_15 | h_16 | h_30 => split at hx <;> cases hx <;> simp
  all_goals
    cases hx
    simp

@[simp] theorem mboxLocked_owned (h : Nat) (s : State) :
    (mboxLocked h s).owned parts = s.owned parts := by simp [mboxLocked]

@[simp] theorem mboxPut_owned (h code i v : Nat) (s : State) :
    (mboxPut h code i v s).owned parts = s.owned parts := by
  unfold mboxPut
  split <;> simp []

@[simp] theorem mboxReadReq_owned (h code i : Nat) (s : State) : (mboxReadReq h code i s).2.owned parts = s.owned
    parts := by
  unfold mboxReadReq
  split_ifs
  · rfl
  · rfl
  · split
    · exact mboxTake_owned ‹_›
    · rfl

@[simp] theorem mboxLand_owned (h p w : Nat) (s : State) :
    (mboxLand h p w s).owned parts = s.owned parts := by simp [mboxLand]

@[simp] theorem mboxComplete_owned (h p : Nat) (s : State) :
    (mboxComplete h p s).owned parts = s.owned parts := by
  unfold mboxComplete
  split <;> simp []

@[simp] theorem mboxReadEffect_owned (h p o : Nat) (s : State) :
    (mboxReadEffect h p o s).owned parts = s.owned parts := by simp [mboxReadEffect]

@[simp] theorem mboxStatusSet_owned (h p o v : Nat) (s : State) :
    (mboxStatusSet h p o v s).owned parts = s.owned parts := by simp [mboxStatusSet]

@[simp] theorem mboxWrite_owned (h p o v : Nat) (s : State) :
    (mboxWrite h p o v s).owned parts = s.owned parts := by simp [mboxWrite]


/-! The operations of Sys2Proof/Machine/Bus.lean. -/

@[simp] theorem setDirty_owned (b : Block) (i o : Nat) (s : State) :
    (setDirty b i o s).owned parts = s.owned parts := by
  cases b <;> simp only [setDirty]
  case disp => split <;> simp
  all_goals simp

@[simp] theorem coreWordWrite_owned (t o v : Nat) (s : State) :
    (coreWordWrite t o v s).owned parts = s.owned parts := by simp [coreWordWrite]

@[simp] theorem apertureWrite_owned (host : Bool) (h o addr v : Nat) (s : State) (hcap : .cap ∈ parts) :
    (apertureWrite host h o addr v s).owned parts = s.owned parts := by simp [apertureWrite, hcap]

@[simp] theorem readEffect_owned (p : Path) (b : Block) (i o w addr : Nat) (s : State) :
    (readEffect p b i o w addr s).owned parts = s.owned parts := by
  cases b <;> simp only [readEffect]
  case tdc => split <;> simp
  case cctl => split <;> simp
  all_goals simp

@[simp] theorem portRead_owned (b : Block) (i : Nat) (s : State) :
    (portRead b i s).owned parts = s.owned parts := by
  unfold portRead
  split <;> simp []

@[simp] theorem busRead_owned (p : Path) (addr : Nat) (s : State) :
    (busRead p addr s).owned parts = s.owned parts := by
  unfold busRead
  split <;> simp []

@[simp] theorem ignored8_owned (s : State) (h addr : Nat) :
    (ignored8 s h addr).owned parts = s.owned parts := by simp [ignored8]

@[simp] theorem acqWrote_owned (i o old new wo : Nat) (s : State) (hcap : .cap ∈ parts) :
    (acqWrote i o old new wo s).owned parts = s.owned parts := by
  simp only [acqWrote]
  split
  · split <;> simp [hcap]
  · split
    · simp
    · split
      · simp
      · split
        · simp
        · split
          · simp
          · split <;> simp

@[simp] theorem jrxWrote_owned (o old new : Nat) (s : State) (hcap : .cap ∈ parts) :
    (jrxWrote o old new s).owned parts = s.owned parts := by simp [jrxWrote, hcap]

@[simp] theorem commitRevert_owned (wo : Nat) (f g : State → State) (s : State) (hf : ∀ s, (f s).owned parts = s.owned
    parts)
    (hg : ∀ s, (g s).owned parts = s.owned parts) : (commitRevert wo f g s).owned parts = s.owned parts := by
  simp [commitRevert, hf, hg]

@[simp] theorem wbWrote_owned (i o wo : Nat) (s : State) :
    (wbWrote i o wo s).owned parts = s.owned parts := by simp [wbWrote]

@[simp] theorem trgWrote_owned (i o old new wo : Nat) (s : State) :
    (trgWrote i o old new wo s).owned parts = s.owned parts := by simp [trgWrote]

@[simp] theorem recWrote_owned (i o old new wo : Nat) (s : State) (hcap : .cap ∈ parts) :
    (recWrote i o old new wo s).owned parts = s.owned parts := by simp [recWrote, hcap]

@[simp] theorem densWrote_owned (i o wo : Nat) (s : State) :
    (densWrote i o wo s).owned parts = s.owned parts := by simp [densWrote]

@[simp] theorem chzWrote_owned (i o old new wo : Nat) (s : State) :
    (chzWrote i o old new wo s).owned parts = s.owned parts := by simp [chzWrote]

@[simp] theorem cctlWrote_owned (normal : Bool) (i o old new wo : Nat) (s : State) :
    (cctlWrote normal i o old new wo s).owned parts = s.owned parts := by
  unfold cctlWrote
  split <;> simp []

@[simp] theorem clkWrote_owned (i o wo : Nat) (s : State) :
    (clkWrote i o wo s).owned parts = s.owned parts := by simp [clkWrote]

@[simp] theorem timeWrote_owned (o old new wo : Nat) (s : State) :
    (timeWrote o old new wo s).owned parts = s.owned parts := by simp [timeWrote]

@[simp] theorem tdcWrote_owned (i o old wo : Nat) (s : State) :
    (tdcWrote i o old wo s).owned parts = s.owned parts := by simp [tdcWrote]

@[simp] theorem hkaWrote_owned (i o wo : Nat) (s : State) :
    (hkaWrote i o wo s).owned parts = s.owned parts := by simp [hkaWrote]

@[simp] theorem dmaWrote_owned (normal : Bool) (i o old new : Nat) (s : State) :
    (dmaWrote normal i o old new s).owned parts = s.owned parts := by simp [dmaWrote]

@[simp] theorem nfsWrote_owned (i o old new wo : Nat) (s : State) :
    (nfsWrote i o old new wo s).owned parts = s.owned parts := by simp [nfsWrote]

@[simp] theorem ethWrote_owned (i o old new wo : Nat) (s : State) :
    (ethWrote i o old new wo s).owned parts = s.owned parts := by simp [ethWrote]

@[simp] theorem dispWrote_owned (i o old new wo : Nat) (s : State) :
    (dispWrote i o old new wo s).owned parts = s.owned parts := by simp [dispWrote]

@[simp] theorem wrote_owned (normal : Bool) (b : Block) (i o old new wo : Nat) (s : State) (hcap : .cap ∈ parts) :
    (wrote normal b i o old new wo s).owned parts = s.owned parts := by
  unfold wrote
  split <;> simp [hcap]

@[simp] theorem fieldWrite_owned (al : Nat) (b : Block) (i o a addr : Nat) (r : RegDesc) (m : Nat) (s : State) (hcap :
    .cap ∈ parts) :
    (fieldWrite al b i o a addr r m s).owned parts = s.owned parts := by simp [fieldWrite, hcap]

theorem specialWrite_owned {p : Path} {al : Nat} {b : Block} {i o addr m : Nat} {s u : State} (hcap : .cap ∈ parts)
    (h : specialWrite p al b i o addr m s = some u) : u.owned parts = s.owned parts := by
  cases b <;> simp only [specialWrite, reduceCtorEq, Option.some.injEq] at h
  case pwr => split_ifs at h; cases h; simp
  case fcol => split_ifs at h <;> cases h <;> simp
  case dma => split_ifs at h <;> cases h <;> simp
  case tdc => split_ifs at h; cases h; rfl
  case cctl =>
    split at h
    · split at h
      · rw [← Option.some.inj h]
        split_ifs <;> simp
      · split at h
        · rw [← Option.some.inj h]
          split_ifs <;> simp
        · split at h
          · obtain ⟨d, -, rfl⟩ := Option.map_eq_some_iff.mp h
            simp [hcap]
          · cases h
    · cases h
  case mbox => subst h; simp
  case core => subst h; simp
  case aperture => subst h; simp [hcap]

@[simp] theorem portWrite_owned (b : Block) (i m : Nat) (s : State) :
    (portWrite b i m s).owned parts = s.owned parts := by
  unfold portWrite
  split <;> simp []

@[simp] theorem busWrite_owned (p : Path) (addr m : Nat) (s : State) (hcap : .cap ∈ parts) :
    (busWrite p addr m s).owned parts = s.owned parts := by
  simp only [busWrite]
  split
  · simp
  · simp
  · simp
  · split
    · simp [hcap]
    · split
      · simp
      · split
        case h_1 u hspecial => simp [specialWrite_owned hcap hspecial]
        case h_2 => split <;> simp [hcap]

@[simp] theorem busWrites_owned (p : Path) (xs : List (Nat × Nat)) (s : State) (hcap : .cap ∈ parts) :
    (busWrites p xs s).owned parts = s.owned parts := by
  induction xs generalizing s with
  | nil => rfl
  | cons x xs ih => simp [busWrites, ih, hcap]


/-! The operations of Sys2Proof/Machine/Keys.lean. -/

@[simp] theorem setFld_owned (b : Nat) (f : Fld) (v : Nat) (s : State) (hcap : .cap ∈ parts) :
    (setFld b f v s).owned parts = s.owned parts := by
  unfold setFld
  split <;> simp [hcap]

@[simp] theorem setFlds_owned (b : Nat) (l : List (Fld × Nat)) (s : State) (hcap : .cap ∈ parts) :
    (setFlds b l s).owned parts = s.owned parts := by simp [setFlds, hcap]

@[simp] theorem setWl_owned (b : Nat) (f : Fld) (v : Nat) (s : State) :
    (setWl b f v s).owned parts = s.owned parts := by
  simp only [setWl]
  split <;> simp []

@[simp] theorem portFill_owned (addr data first : Nat) (l : List Nat) (s : State) (hcap : .cap ∈ parts) :
    (portFill addr data first l s).owned parts = s.owned parts := by simp [portFill, hcap]

@[simp] theorem setRate_owned (l : Nat) (f : Fld) (hz : Rat) (s : State) (hcap : .cap ∈ parts) :
    (setRate l f hz s).owned parts = s.owned parts := by simp [setRate, hcap]

@[simp] theorem clkOut_owned (h o : Nat) (hz : Rat) (fmt src : Nat) (pct : Rat) (s : State) (hcap : .cap ∈ parts) :
    (clkOut h o hz fmt src pct s).owned parts = s.owned parts := by simp [clkOut, hcap]

@[simp] theorem hkSequence_owned (h c : Nat) (l : List (Nat × Nat × Nat)) (s : State) (hcap : .cap ∈ parts) :
    (hkSequence h c l s).owned parts = s.owned parts := by simp [hkSequence, hcap]

/-- What the keys of `rows` set keeps the owned parts but those of `parts`. -/
def ActsKeep (parts : List OwnedField) (rows : List KeyRow) : Prop :=
  ∀ r ∈ rows, ∀ a v s, (r.act a v s).owned parts = s.owned parts
@[simp] theorem actsKeep_nil : ActsKeep parts [] := by simp [ActsKeep]
@[simp] theorem actsKeep_cons (r : KeyRow) (rows : List KeyRow) :
    ActsKeep parts (r :: rows) ↔ (∀ a v s, (r.act a v s).owned parts = s.owned parts) ∧ ActsKeep parts rows := by
  simp [ActsKeep]
@[simp] theorem actsKeep_append (rows more : List KeyRow) :
    ActsKeep parts (rows ++ more) ↔ ActsKeep parts rows ∧ ActsKeep parts more := by
  simp [ActsKeep, or_imp, forall_and]
theorem actsKeep_map {β : Type} (f : β → KeyRow) (xs : List β) (h : ∀ x a v s, ((f x).act a v s).owned parts = s.owned
    parts) :
    ActsKeep parts (xs.map f) := by
  intro r hr
  obtain ⟨x, -, rfl⟩ := List.mem_map.mp hr
  exact h x
@[simp] theorem actsKeep_keysAt (pre : List Seg) (b : List Nat → Nat) (xs : List (String × Gram × (KeyVal → List (Fld
    × Nat))))
    (hcap : .cap ∈ parts) : ActsKeep parts (keysAt pre b xs) :=
  actsKeep_map _ _ (fun x a v s => setFlds_owned _ _ s hcap)
@[simp] theorem actsKeep_keysBoth (pre : String) (b : Nat → List Nat) (xs : List (String × Gram × (KeyVal → List (Fld
    × Nat))))
    (hcap : .cap ∈ parts) : ActsKeep parts (keysBoth pre b xs) :=
  actsKeep_map _ _ (fun x a v s => State.owned_foldl _ _ _ _ (fun u b => setFlds_owned _ _ u hcap))
theorem actsKeep_keysAcq (hcap : .cap ∈ parts) : ActsKeep parts keysAcq := by
  simp [keysAcq, hcap]
theorem actsKeep_keysJrx (hcap : .cap ∈ parts) : ActsKeep parts keysJrx := by
  simp [keysJrx, hcap]
theorem actsKeep_keysWb (hcap : .cap ∈ parts) : ActsKeep parts keysWb := by
  simp [keysWb, hcap]
theorem actsKeep_keysTrg (hcap : .cap ∈ parts) : ActsKeep parts keysTrg := by
  simp [keysTrg, hcap]
theorem actsKeep_keysRec (hcap : .cap ∈ parts) : ActsKeep parts keysRec := by
  simp [keysRec, hcap]
theorem actsKeep_keysDens (hcap : .cap ∈ parts) : ActsKeep parts keysDens := by
  simp [keysDens, hcap]
theorem actsKeep_keysZoom (hcap : .cap ∈ parts) : ActsKeep parts keysZoom := by
  simp [keysZoom, hcap]
theorem actsKeep_keysPwr (hcap : .cap ∈ parts) : ActsKeep parts keysPwr := by
  simp [keysPwr, hcap]
theorem actsKeep_keysTime (hcap : .cap ∈ parts) : ActsKeep parts keysTime := by
  simp [keysTime, hcap]
theorem actsKeep_keysTdc (hcap : .cap ∈ parts) : ActsKeep parts keysTdc := by
  simp [keysTdc, hcap]
theorem actsKeep_keysNfs (hcap : .cap ∈ parts) : ActsKeep parts keysNfs := by
  simp [keysNfs, hcap]
theorem actsKeep_keysDdr (hcap : .cap ∈ parts) : ActsKeep parts keysDdr := by
  simp [keysDdr, hcap]
theorem actsKeep_keysDma (hcap : .cap ∈ parts) : ActsKeep parts keysDma := by
  simp [keysDma, hcap]
theorem actsKeep_keysEth (hcap : .cap ∈ parts) : ActsKeep parts keysEth := by
  simp [keysEth, hcap]
theorem actsKeep_keysDisp (hcap : .cap ∈ parts) : ActsKeep parts keysDisp := by
  simp [keysDisp, hcap]
theorem actsKeep_keysClk (hcap : .cap ∈ parts) : ActsKeep parts keysClk := by
  simp [keysClk, hcap]
theorem actsKeep_keysHk (hcap : .cap ∈ parts) : ActsKeep parts keysHk := by
  simp [keysHk, hcap]
theorem actsKeep_keysFault (hcap : .cap ∈ parts) : ActsKeep parts keysFault := by
  simp [keysFault, hcap]
theorem actsKeep_keyRows (hcap : .cap ∈ parts) : ActsKeep parts keyRows := by
  simp [keyRows, hcap, actsKeep_keysAcq, actsKeep_keysJrx, actsKeep_keysWb, actsKeep_keysTrg, actsKeep_keysRec,
      actsKeep_keysDens, actsKeep_keysZoom, actsKeep_keysPwr, actsKeep_keysTime, actsKeep_keysTdc, actsKeep_keysNfs,
      actsKeep_keysDdr, actsKeep_keysDma, actsKeep_keysEth, actsKeep_keysDisp, actsKeep_keysClk, actsKeep_keysHk,
      actsKeep_keysFault]
theorem keyValue_mem {rows : List KeyRow} {k : KeyRec} {r : KeyRow} {a : List Nat} {v : KeyVal}
    (h : keyValue rows k = some (r, a, v)) : r ∈ rows := by
  unfold keyValue at h
  split at h
  · rename_i r' a' hfind
    obtain ⟨w, -, hw⟩ := Option.map_eq_some_iff.mp h
    cases hw
    unfold findKey at hfind
    obtain ⟨q, hq, hmatch⟩ := List.exists_of_findSome?_eq_some hfind
    obtain ⟨b, -, hb⟩ := Option.map_eq_some_iff.mp hmatch
    cases hb
    exact hq
  · cases h
@[simp] theorem keyApply_owned (k : KeyRec) (s : State) (hcap : .cap ∈ parts) : (keyApply k s).owned parts = s.owned
    parts := by
  unfold keyApply
  split
  · exact actsKeep_keyRows hcap _ (keyValue_mem ‹_›) _ _ _
  · rfl


/-! The operations of Sys2Proof/Machine/Place.lean. -/

@[simp] theorem placePipes_owned (i : Nat) (s : State) (hcap : .cap ∈ parts) :
    (placePipes i s).owned parts = s.owned parts := by simp [placePipes, hcap]

@[simp] theorem placeZoom_owned (keys : List KeyRec) (s : State) (p : ZoomPlace) (hcap : .cap ∈ parts) :
    (placeZoom keys s p).owned parts = s.owned parts := by simp [placeZoom, hcap]

@[simp] theorem selectWords_owned (a words : Nat) (l : List Nat) (s : State) (hcap : .cap ∈ parts) :
    (selectWords a words l s).owned parts = s.owned parts := by simp [selectWords, hcap]

@[simp] theorem placeCore_owned (keys : List KeyRec) (zooms : List ZoomPlace) (rings : List CorePlace) (s : State) (x
    : Nat × Nat) (hcap : .cap ∈ parts) :
    (placeCore keys zooms rings s x).owned parts = s.owned parts := by simp [placeCore, hcap]

@[simp] theorem placeZooms_owned (keys : List KeyRec) (new : List ZoomPlace) (rings : List CorePlace) (s : State)
    (hcap : .cap ∈ parts) :
    (placeZooms keys new rings s).owned parts = s.owned parts := by simp [placeZooms, hcap]

@[simp] theorem placeMask_owned (i : Nat) (held : List (List KAtom)) (x : List KAtom × Nat) (s : State) (hcap : .cap ∈
    parts) :
    (placeMask i held x s).owned parts = s.owned parts := by
  unfold placeMask
  split <;> simp [hcap]

@[simp] theorem placeMasks_owned (keys : List KeyRec) (i : Nat) (held : List (List KAtom)) (s : State) (hcap : .cap ∈
    parts) :
    (placeMasks keys i held s).owned parts = s.owned parts := by
  unfold placeMasks
  extract_lets masks l u
  have hu : u.owned parts = s.owned parts := by simp [u, hcap]
  rw [State.owned_foldl, hu]
  intro v k
  split
  · split <;> simp [hcap]
  · rfl

@[simp] theorem placeRoute_owned (s : State) (x : (List Byte × Nat) × Fin 64) (hcap : .cap ∈ parts) :
    (placeRoute s x).owned parts = s.owned parts := by
  unfold placeRoute
  split <;> simp [hcap]


/-! The operations of Sys2Proof/Machine/Loads.lean. -/

@[simp] theorem applyKeys_owned (keys : List KeyRec) (s : State) (hcap : .cap ∈ parts) :
    (applyKeys keys s).owned parts = s.owned parts := by simp [applyKeys, hcap]

@[simp] theorem applySettings_owned (keys : List KeyRec) (inputs : List Nat) (s : State) (hcap : .cap ∈ parts) :
    (applySettings keys inputs s).owned parts = s.owned parts := by simp [applySettings, hcap]


/-! The operations of Sys2Proof/Machine/Plan.lean. -/

@[simp] theorem setPlanState_owned (n v : Nat) (s : State) :
    (setPlanState n v s).owned parts = s.owned parts := by simp [setPlanState]

@[simp] theorem takeCmd_owned (n op : Nat) (s : State) :
    (takeCmd n op s).owned parts = s.owned parts := by simp [takeCmd]

@[simp] theorem dieOff_owned (d : Nat) (s : State) :
    (dieOff d s).owned parts = s.owned parts := by simp [dieOff]

@[simp] theorem wakeDies_owned (mask : Nat) (s : State) :
    (wakeDies mask s).owned parts = s.owned parts := by simp [wakeDies]

@[simp] theorem settled_owned (s : State) (n : Nat) (hcap : .cap ∈ parts) :
    (settled s n).owned parts = s.owned parts := by simp [settled, hcap]

@[simp] theorem commitInput_owned (keys : List KeyRec) (i : Nat) (s : State) (hcap : .cap ∈ parts) :
    (commitInput keys i s).owned parts = s.owned parts := by simp [commitInput, hcap]

@[simp] theorem enableInput_owned (keys : List KeyRec) (i : Nat) (s : State) (hcap : .cap ∈ parts) :
    (enableInput keys i s).owned parts = s.owned parts := by simp [enableInput, hcap]

@[simp] theorem reportRefusal_owned (n r : Nat) (s : State) :
    (reportRefusal n r s).owned parts = s.owned parts := by simp [reportRefusal]

@[simp] theorem refuse_owned (n r : Nat) (wait : Bool) (s : State) :
    (refuse n r wait s).owned parts = s.owned parts := by simp [refuse]

@[simp] theorem placePlan_owned (n : Nat) (p : PlanNeed) (s : State) (hcap : .cap ∈ parts) :
    (placePlan n p s).owned parts = s.owned parts := by simp [placePlan, hcap]

@[simp] theorem dmaOwners_owned (s : State) :
    (dmaOwners s).owned parts = s.owned parts := by simp [dmaOwners]

@[simp] theorem admitted_owned (n : Nat) (p : PlanNeed) (s : State) (hcap : .cap ∈ parts) :
    (admitted n p s).owned parts = s.owned parts := by simp [admitted, hcap]

@[simp] theorem tryAdmit_owned (n : Nat) (p : PlanNeed) (s : State) (hcap : .cap ∈ parts) :
    (tryAdmit n p s).owned parts = s.owned parts := by
  unfold tryAdmit
  (repeat' split) <;> simp [hcap]

@[simp] theorem recheck_owned (n : Nat) (p : PlanNeed) (s : State) (hcap : .cap ∈ parts) :
    (recheck n p s).owned parts = s.owned parts := by
  unfold recheck
  split <;> simp [hcap]

@[simp] theorem recheckAll_owned (l : List (Fin 32 × PlanNeed)) (s : State) (hcap : .cap ∈ parts) :
    (recheckAll l s).owned parts = s.owned parts := by simp [recheckAll, hcap]

@[simp] theorem disableBlocks_owned (keys : List KeyRec) (i : Nat) (s : State) (hcap : .cap ∈ parts) :
    (disableBlocks keys i s).owned parts = s.owned parts := by simp [disableBlocks, hcap]

@[simp] theorem disableInput_owned (i : Nat) (s : State) (hcap : .cap ∈ parts) :
    (disableInput i s).owned parts = s.owned parts := by simp [disableInput, hcap]

@[simp] theorem releasePlan_owned (n : Nat) (s : State) (hcap : .cap ∈ parts) :
    (releasePlan n s).owned parts = s.owned parts := by simp [releasePlan, hcap]

@[simp] theorem leave_owned (n : Nat) (writes : List (Nat × Nat)) (s : State) (hcap : .cap ∈ parts) :
    (leave n writes s).owned parts = s.owned parts := by simp [leave, hcap]

@[simp] theorem afterEnd_owned (n : Nat) (s : State) :
    (afterEnd n s).owned parts = s.owned parts := by simp [afterEnd]

@[simp] theorem stopPlan_owned (n : Nat) (writes : List (Nat × Nat)) (s : State) (hcap : .cap ∈ parts) :
    (stopPlan n writes s).owned parts = s.owned parts := by simp [stopPlan, hcap]

@[simp] theorem stopFor_owned (n r : Nat) (s : State) (hcap : .cap ∈ parts) :
    (stopFor n r s).owned parts = s.owned parts := by simp [stopFor, hcap]

@[simp] theorem suspend_owned (n r : Nat) (writes : List (Nat × Nat)) (s : State) (hcap : .cap ∈ parts) :
    (suspend n r writes s).owned parts = s.owned parts := by simp [suspend, hcap]

@[simp] theorem showNext_owned (s : State) :
    (showNext s).owned parts = s.owned parts := by simp [showNext]

@[simp] theorem planStep_owned (f : State → State) (s : State) (hf : ∀ s, (f s).owned parts = s.owned parts) :
    (planStep f s).owned parts = s.owned parts := by
  simp [planStep, hf]

@[simp] theorem keyErrors_owned (n : Nat) (s : State) :
    (keyErrors n s).owned parts = s.owned parts := by simp [keyErrors]

@[simp] theorem putPlan_owned (n : Nat) (head : List Byte) (keys : List KeyRec) (s : State) :
    (putPlan n head keys s).owned parts = s.owned parts := by simp [putPlan]

@[simp] theorem planLoad_owned (n : Nat) (s : State) :
    (planLoad n s).owned parts = s.owned parts := by simp [planLoad]

@[simp] theorem execPlanLoad_keeps (n : Fin 32) (s : State) :
    Keeps parts s (execPlanLoad n s) := by simp [execPlanLoad]

@[simp] theorem execPlanAdmit_keeps (n : Fin 32) (p : PlanNeed) (s : State) (hcap : .cap ∈ parts) :
    Keeps parts s (execPlanAdmit n p s) := by simp [execPlanAdmit, hcap]

@[simp] theorem execPlanStop_keeps (n : Fin 32) (e : PlanEnd) (s : State) (hcap : .cap ∈ parts) :
    Keeps parts s (execPlanStop n e s) := by simp [execPlanStop, hcap]

@[simp] theorem emptySlot_owned (n : Nat) (s : State) :
    (emptySlot n s).owned parts = s.owned parts := by simp [emptySlot]

@[simp] theorem execPlanClear_keeps (n : Fin 32) (e : PlanEnd) (s : State) (hcap : .cap ∈ parts) :
    Keeps parts s (execPlanClear n e s) := by simp [execPlanClear, hcap]

@[simp] theorem execPlanStart_keeps (n : Fin 32) (p : PlanNeed) (s : State) (hcap : .cap ∈ parts) :
    Keeps parts s (execPlanStart n p s) := by simp [execPlanStart, hcap]

@[simp] theorem execPlanEnd_keeps (n : Fin 32) (e : PlanEnd) (s : State) (hcap : .cap ∈ parts) :
    Keeps parts s (execPlanEnd n e s) := by simp [execPlanEnd, hcap]

@[simp] theorem wakeInput_owned (s : State) (i : Nat) (hcap : .cap ∈ parts) :
    (wakeInput s i).owned parts = s.owned parts := by simp [wakeInput, hcap]

@[simp] theorem execPlanWake_keeps (n : Fin 32) (dies : BitVec 8) (s : State) (hcap : .cap ∈ parts) :
    Keeps parts s (execPlanWake n dies s) := by
  rw [execPlanWake, keeps_next]
  exact planStep_owned _ _ (fun u => by split <;> simp [hcap])

@[simp] theorem railsOff_owned (enables : Nat) (s : State) (hcap : .cap ∈ parts) :
    (railsOff enables s).owned parts = s.owned parts := by
  have hoff : ∀ (u : State) (rails : RailSt), ({ u with cap := [], ddr := [], link := [], rails := rails } :
      State).owned parts =
      u.owned parts := fun u rails => State.owned_mono (ps := [.cap]) (by simp [hcap]) rfl
  simp [railsOff, hoff]

@[simp] theorem execNfsClosed_keeps (h : Hub) (s : State) (hcap : .cap ∈ parts) :
    Keeps parts s (execNfsClosed h s) := by simp [execNfsClosed, hcap]

@[simp] theorem settlePower_owned (s : State) (hcap : .cap ∈ parts) :
    (settlePower s).owned parts = s.owned parts := by simp [settlePower, hcap]

@[simp] theorem sleepDies_owned (l : List Nat) (s : State) (hcap : .cap ∈ parts) :
    (sleepDies l s).owned parts = s.owned parts := by simp [sleepDies, hcap]

@[simp] theorem execDieSleep_keeps (d : Fin 8) (s : State) (hcap : .cap ∈ parts) :
    Keeps parts s (execDieSleep d s) := by simp [execDieSleep, hcap]

@[simp] theorem pwrSleep_owned (s : State) (hcap : .cap ∈ parts) :
    (pwrSleep s).owned parts = s.owned parts := by simp [pwrSleep, hcap]

@[simp] theorem execPwrCmdSleep_keeps (s : State) (hcap : .cap ∈ parts) :
    Keeps parts s (execPwrCmdSleep s) := by simp [execPwrCmdSleep, hcap]

@[simp] theorem aonExit_owned (s : State) :
    (aonExit s).owned parts = s.owned parts := by simp [aonExit]

@[simp] theorem execPwrCmdWake_keeps (s : State) :
    Keeps parts s (execPwrCmdWake s) := by simp [execPwrCmdWake]

@[simp] theorem execAonExit_keeps (s : State) :
    Keeps parts s (execAonExit s) := by simp [execAonExit]

@[simp] theorem execNfsMounted_keeps (h : Hub) (kept : List Nat) (again : List (Fin 32 × PlanNeed)) (s : State) (hcap
    : .cap ∈ parts) (hdrawn : .drawn ∈ parts) :
    Keeps parts s (execNfsMounted h kept again s) := by simp [execNfsMounted, hcap, hdrawn]

@[simp] theorem execHoldupRecheck_keeps (n : Fin 32) (p : PlanNeed) (s : State) (hcap : .cap ∈ parts) :
    Keeps parts s (execHoldupRecheck n p s) := by simp [execHoldupRecheck, hcap]

@[simp] theorem execThrottleSuspend_keeps (e : PlanEnd) (s : State) (hcap : .cap ∈ parts) :
    Keeps parts s (execThrottleSuspend e s) := by
  rw [execThrottleSuspend, keeps_next]
  refine planStep_owned _ _ (fun u => ?_)
  split
  · split <;> simp [hcap]
  · rfl

@[simp] theorem capSuspend_owned (xs : List (Fin 32 × PlanEnd)) (n : Nat) (s : State) (hcap : .cap ∈ parts) :
    (capSuspend xs n s).owned parts = s.owned parts := by
  induction n generalizing s with
  | zero => rfl
  | succ n ih =>
    unfold capSuspend
    split
    · rfl
    · split <;> simp [ih, hcap]

@[simp] theorem takePwr_owned (s : State) :
    (takePwr s).owned parts = s.owned parts := by simp [takePwr]

@[simp] theorem capAct_owned (cap e : Nat) (ends : List (Fin 32 × PlanEnd)) (again : List (Fin 32 × PlanNeed)) (s :
    State) (hcap : .cap ∈ parts) :
    (capAct cap e ends again s).owned parts = s.owned parts := by simp [capAct, hcap]

@[simp] theorem execPwrCapWrite_keeps (p : Path) (v : BitVec 17) (s : State) (hcap : .cap ∈ parts) :
    Keeps parts s (execPwrCapWrite p v s) := by simp [execPwrCapWrite, hcap]


/-! The operations of Sys2Proof/Machine/Ledger.lean. -/

@[simp] theorem ledgerCount_owned (l : LedgerIn) (s : State) (henergy : .energy ∈ parts) :
    (ledgerCount l s).owned parts = s.owned parts := by simp [ledgerCount, henergy]

@[simp] theorem ledgerRails_owned (l : LedgerIn) (s : State) :
    (ledgerRails l s).owned parts = s.owned parts := by simp [ledgerRails]

@[simp] theorem ledgerBank_owned (s : State) :
    (ledgerBank s).owned parts = s.owned parts := by simp [ledgerBank]

@[simp] theorem execLedgerStep_keeps (l : LedgerIn) (s : State) (hcap : .cap ∈ parts) (henergy : .energy ∈ parts) :
    Keeps parts s (execLedgerStep l s) := by simp [execLedgerStep, hcap, henergy]

@[simp] theorem moveGain_owned (ratio : Rat) (d : Nat) (s : State) :
    (moveGain ratio d s).owned parts = s.owned parts := by simp [moveGain]

@[simp] theorem calibrate_owned (s : State) :
    (calibrate s).owned parts = s.owned parts := by simp [calibrate]

@[simp] theorem execLedgerCalibrate_keeps (s : State) :
    Keeps parts s (execLedgerCalibrate s) := by simp [execLedgerCalibrate]

@[simp] theorem chargers_owned (s : State) :
    (chargers s).owned parts = s.owned parts := by simp [chargers]

@[simp] theorem capTestStart_owned (s : State) :
    (capTestStart s).owned parts = s.owned parts := by simp [capTestStart]

@[simp] theorem execCapTestStart_keeps (s : State) :
    Keeps parts s (execCapTestStart s) := by simp [execCapTestStart]

@[simp] theorem capTestOver_owned (s : State) :
    (capTestOver s).owned parts = s.owned parts := by simp [capTestOver]

@[simp] theorem execCapTestEnd_keeps (s : State) :
    Keeps parts s (execCapTestEnd s) := by
  unfold execCapTestEnd
  split <;> simp []


/-! The operations of Sys2Proof/Machine/Boot.lean. -/

@[simp] theorem setBoot_owned (v : Nat) (s : State) :
    (setBoot v s).owned parts = s.owned parts := by simp [setBoot]

@[simp] theorem showFuses_owned (s : State) :
    (showFuses s).owned parts = s.owned parts := by simp [showFuses]

@[simp] theorem bootIgnored_owned (o : Nat) (s : State) :
    (bootIgnored o s).owned parts = s.owned parts := by simp [bootIgnored]

@[simp] theorem partResets_owned (s : State) :
    (partResets s).owned parts = s.owned parts := by simp [partResets]

@[simp] theorem resetAll_owned (cold : Bool) (s : State) (hcap : .cap ∈ parts) (hlead : .lead ∈ parts) (henergy :
    .energy ∈ parts) (hbrokenPipes : .brokenPipes ∈ parts) (halive : .alive ∈ parts) (haliveRuns : .aliveRuns ∈ parts)
    (hbeatsMissed : .beatsMissed ∈ parts) (hspi : .spi ∈ parts) (hpwm : .pwm ∈ parts) (hpairs : .pairs ∈ parts) (hhkAt
    : .hkAt ∈ parts) (hhotLost : .hotLost ∈ parts) (hresetLow : .resetLow ∈ parts) (hrepairs : .repairs ∈ parts)
    (htrgTx : .trgTx ∈ parts) :
    (resetAll cold s).owned parts = s.owned parts := by
  unfold resetAll
  extract_lets u keep
  have hu : u.owned parts = s.owned parts := by simp [u]
  rw [partResets_owned, ← hu]
  exact State.owned_mono (ps := [.cap, .lead, .energy, .brokenPipes, .alive, .aliveRuns, .beatsMissed, .spi, .pwm,
      .pairs, .hkAt,
    .hotLost, .resetLow, .repairs, .trgTx]) (by simp [hcap, hlead, henergy, hbrokenPipes, halive, haliveRuns,
        hbeatsMissed, hspi,
    hpwm, hpairs, hhkAt, hhotLost, hresetLow, hrepairs, htrgTx]) rfl

@[simp] theorem execResetAssert_keeps (s : State) (hcap : .cap ∈ parts) (hlead : .lead ∈ parts) (henergy : .energy ∈
    parts) (hbrokenPipes : .brokenPipes ∈ parts) (halive : .alive ∈ parts) (haliveRuns : .aliveRuns ∈ parts)
    (hbeatsMissed : .beatsMissed ∈ parts) (hspi : .spi ∈ parts) (hpwm : .pwm ∈ parts) (hpairs : .pairs ∈ parts) (hhkAt
    : .hkAt ∈ parts) (hhotLost : .hotLost ∈ parts) (hresetLow : .resetLow ∈ parts) (hrepairs : .repairs ∈ parts)
    (htrgTx : .trgTx ∈ parts) :
    Keeps parts s (execResetAssert s) := by simp [execResetAssert, hcap, hlead, henergy, hbrokenPipes, halive,
        haliveRuns, hbeatsMissed, hspi, hpwm, hpairs, hhkAt, hhotLost, hresetLow, hrepairs, htrgTx]

@[simp] theorem execPowerOnReset_keeps (s : State) (hcap : .cap ∈ parts) (hlead : .lead ∈ parts) (henergy : .energy ∈
    parts) (hbrokenPipes : .brokenPipes ∈ parts) (halive : .alive ∈ parts) (haliveRuns : .aliveRuns ∈ parts)
    (hbeatsMissed : .beatsMissed ∈ parts) (hspi : .spi ∈ parts) (hpwm : .pwm ∈ parts) (hpairs : .pairs ∈ parts) (hhkAt
    : .hkAt ∈ parts) (hhotLost : .hotLost ∈ parts) (hresetLow : .resetLow ∈ parts) (hrepairs : .repairs ∈ parts)
    (htrgTx : .trgTx ∈ parts) :
    Keeps parts s (execPowerOnReset s) := by simp [execPowerOnReset, hcap, hlead, henergy, hbrokenPipes, halive,
        haliveRuns, hbeatsMissed, hspi, hpwm, hpairs, hhkAt, hhotLost, hresetLow, hrepairs, htrgTx]

@[simp] theorem execResetRelease_keeps (sel : BitVec 2) (s : State) (hresetLow : .resetLow ∈ parts) :
    Keeps parts s (execResetRelease sel s) := by simp [execResetRelease, hresetLow]

@[simp] theorem railsFail_owned (s : State) :
    (railsFail s).owned parts = s.owned parts := by simp [railsFail]

@[simp] theorem execRailSequenceStep_keeps (ok pmb : Bool) (s : State) (hhotLost : .hotLost ∈ parts) :
    Keeps parts s (execRailSequenceStep ok pmb s) := by
  have hon : ∀ (u : State) (rails : RailSt) (powered : Nat), ({ u with rails := rails, powered := powered, hotLost :=
      0 } : State).owned
      parts = u.owned parts := fun u rails powered => State.owned_mono (ps := [.hotLost]) (by simp [hhotLost]) rfl
  simp only [execRailSequenceStep]
  split_ifs <;> simp [hon]

@[simp] theorem execVcoreSetPoint_keeps (mv : Nat) (s : State) :
    Keeps parts s (execVcoreSetPoint mv s) := by simp [execVcoreSetPoint]

@[simp] theorem flushPlans_owned (s : State) (hcap : .cap ∈ parts) :
    (flushPlans s).owned parts = s.owned parts := by simp [flushPlans, hcap]

@[simp] theorem diesOff_owned (s : State) :
    (diesOff s).owned parts = s.owned parts := by simp [diesOff]

@[simp] theorem powerFail_owned (s : State) (hcap : .cap ∈ parts) (hpowerGood : .powerGood ∈ parts) :
    (powerFail s).owned parts = s.owned parts := by
  unfold powerFail
  extract_lets raised boot u v w off rails x
  have hu : u.owned parts = s.owned parts := by
    rw [← State.raise_owned s 10 (pendingMib s)]
    exact State.owned_mono (ps := [.powerGood]) (by simp [hpowerGood]) rfl
  have hw : w.owned parts = u.owned parts := by
    simp only [w]
    split <;> simp [v]
  have hoff : ∀ rails : RailSt, ({ off with rails := rails } : State).owned parts = w.owned parts := fun rails => by
    rw [← diesOff_owned w, ← railsOff_owned 0 (diesOff w) hcap]
    rfl
  split
  · rfl
  · split
    · rw [State.wr_owned, setBoot_owned, hoff, hw, hu]
    · split
      · rw [hw, hu]
      · simp [x, hw, hu, hcap]

@[simp] theorem execPowerFail_keeps (s : State) (hcap : .cap ∈ parts) (hpowerGood : .powerGood ∈ parts) :
    Keeps parts s (execPowerFail s) := by simp [execPowerFail, hcap, hpowerGood]

@[simp] theorem execPowerRestore_keeps (s : State) (hpowerGood : .powerGood ∈ parts) :
    Keeps parts s (execPowerRestore s) := by
  unfold execPowerRestore
  extract_lets u
  have hu : u.owned parts = s.owned parts := State.owned_powerGood s _ hpowerGood
  have hrails : ∀ rails : RailSt, ({ u with rails := rails } : State).owned parts = s.owned parts := fun rails => hu
  rw [keeps_next]
  split
  · rw [setBoot_owned, hrails]
  · exact hu

@[simp] theorem execRailOutOfTolerance_keeps (out deep : BitVec 10) (codes : List (BitVec 32)) (s : State) (hcap :
    .cap ∈ parts) (hpowerGood : .powerGood ∈ parts) :
    Keeps parts s (execRailOutOfTolerance out deep codes s) := by simp [execRailOutOfTolerance, hcap, hpowerGood]

@[simp] theorem dmaProgram_owned (r : State) (k start first : Nat) (name : List Byte) (s : State) (hcap : .cap ∈
    parts) :
    (dmaProgram r k start first name s).owned parts = s.owned parts := by
  simp [dmaProgram, hcap]

@[simp] theorem deviceApply_owned (keys : List KeyRec) (k : KeyRec) (x : State × Nat) (hcap : .cap ∈ parts) :
    (deviceApply keys k x).1.owned parts = x.1.owned parts := by
  simp only [deviceApply]
  split
  · split <;> simp [hcap]
  · simp [hcap]

@[simp] theorem tdcDefaults_owned (keys : List KeyRec) (s : State) (hcap : .cap ∈ parts) :
    (tdcDefaults keys s).owned parts = s.owned parts := by simp [tdcDefaults, hcap]

@[simp] theorem clockIdDefault_owned (s : State) :
    (clockIdDefault s).owned parts = s.owned parts := by simp [clockIdDefault]

@[simp] theorem applyDevices_owned (keys : List KeyRec) (s : State) (hcap : .cap ∈ parts) :
    (applyDevices keys s).owned parts = s.owned parts := by
  unfold applyDevices
  extract_lets dev u v w
  have hfold : ∀ (ks : List KeyRec) (x : State × Nat),
      (ks.foldl (fun x k => deviceApply dev k x) x).1.owned parts = x.1.owned parts := by
    intro ks
    induction ks with
    | nil => intro x; rfl
    | cons k ks ih => intro x; rw [List.foldl_cons, ih, deviceApply_owned _ _ _ hcap]
  have hu : u.owned parts = s.owned parts := (hfold dev _).trans rfl
  have hv : v.owned parts = u.owned parts := by simp [v, hcap]
  have hw : w.owned parts = v.owned parts := by simp [w, hcap]
  rw [State.owned_foldl, hw, hv, hu]
  intro x h
  rw [setFld_owned _ _ _ _ hcap]
  split <;> simp

@[simp] theorem applyImage_owned (host : Bool) (img : List Byte) (s : State) (hcap : .cap ∈ parts) :
    (applyImage host img s).owned parts = s.owned parts := by simp [applyImage, hcap]

@[simp] theorem copyFails_owned (cause : Nat) (s : State) :
    (copyFails cause s).owned parts = s.owned parts := by
  simp only [copyFails]
  split <;> simp []

@[simp] theorem execImageReadComplete_keeps (img : List Byte) (valid : Bool) (size : Nat) (s : State) (hcap : .cap ∈
    parts) :
    Keeps parts s (execImageReadComplete img valid size s) := by
  simp only [execImageReadComplete]
  (repeat' split) <;> simp [hcap]

@[simp] theorem execMemoryTrainingComplete_keeps (a0 a1 b0 b1 : DdrTrain) (s : State) :
    Keeps parts s (execMemoryTrainingComplete a0 a1 b0 b1 s) := by simp [execMemoryTrainingComplete]

@[simp] theorem loadPlans_owned (s : State) :
    (loadPlans s).owned parts = s.owned parts := by simp [loadPlans]

@[simp] theorem execBootPlannerStart_keeps (ms : BitVec 16) (s : State) (hcap : .cap ∈ parts) (haliveRuns : .aliveRuns
    ∈ parts) :
    Keeps parts s (execBootPlannerStart ms s) := by
  unfold execBootPlannerStart
  extract_lets u v
  have hu : u.owned parts = s.owned parts := by simp [u, hcap]
  have hv : v.owned parts = u.owned parts := by simp [v, hcap]
  have hruns : ({ v with aliveRuns := true } : State).owned parts = v.owned parts := State.owned_aliveRuns v _
      haliveRuns
  split
  · simp
  · rw [keeps_next, showNext_owned, State.wr_owned, hruns, hv, hu]

@[simp] theorem execSvnAdvance_keeps (s : State) (hfusedSvn : .fusedSvn ∈ parts) :
    Keeps parts s (execSvnAdvance s) := by simp [execSvnAdvance, hfusedSvn]

@[simp] theorem bootHostgo_owned (s : State) (hcap : .cap ∈ parts) :
    (bootHostgo s).owned parts = s.owned parts := by
  simp only [bootHostgo]
  (repeat' split) <;> simp [hcap]

@[simp] theorem execBootHostgo_keeps (s : State) (hcap : .cap ∈ parts) :
    Keeps parts s (execBootHostgo s) := by simp [execBootHostgo, hcap]

@[simp] theorem bootNorProg_owned (s : State) :
    (bootNorProg s).owned parts = s.owned parts := by simp [bootNorProg]

@[simp] theorem execBootNorProg_keeps (s : State) :
    Keeps parts s (execBootNorProg s) := by simp [execBootNorProg]

@[simp] theorem execNorProgDone_keeps (mismatch : Bool) (s : State) :
    Keeps parts s (execNorProgDone mismatch s) := by simp [execNorProgDone]

@[simp] theorem bootRestart_owned (s : State) (hcap : .cap ∈ parts) :
    (bootRestart s).owned parts = s.owned parts := by simp [bootRestart, hcap]

@[simp] theorem execBootRestart_keeps (s : State) (hcap : .cap ∈ parts) :
    Keeps parts s (execBootRestart s) := by simp [execBootRestart, hcap]

@[simp] theorem bootFuseGo_owned (s : State) :
    (bootFuseGo s).owned parts = s.owned parts := by simp [bootFuseGo]

@[simp] theorem execBootFuseGo_keeps (s : State) :
    Keeps parts s (execBootFuseGo s) := by simp [execBootFuseGo]

@[simp] theorem blow_owned (op slot : Nat) (hash : List Byte) (s : State) (hfuses : .fuses ∈ parts) (hfusedSvn :
    .fusedSvn ∈ parts) :
    (blow op slot hash s).owned parts = s.owned parts := by
  have hfuse : ∀ (fuses : Nat) (keys : Tbl (List Byte)), ({ s with fuses := fuses, keyHash := keys } : State).owned
      parts =
      s.owned parts := fun fuses keys => State.owned_mono (ps := [.fuses]) (by simp [hfuses]) rfl
  unfold blow
  split
  · exact hfuse _ _
  · exact hfuse _ _
  · exact hfuse _ _
  · exact hfuse _ _
  · exact hfuse _ _
  · exact State.owned_fusedSvn s _ hfusedSvn
  · rfl

@[simp] theorem execFuseDone_keeps (ok : Bool) (s : State) (hfuses : .fuses ∈ parts) (hfusedSvn : .fusedSvn ∈ parts) :
    Keeps parts s (execFuseDone ok s) := by
  unfold execFuseDone
  split <;> simp [hfuses, hfusedSvn]

@[simp] theorem execBootLockWrite_keeps (p : Path) (v : BitVec 5) (s : State) (hcap : .cap ∈ parts) :
    Keeps parts s (execBootLockWrite p v s) := by simp [execBootLockWrite, hcap]


/-! The operations of Sys2Proof/Machine/Host.lean. -/

@[simp] theorem planCmdWrite_owned (i addr wo : Nat) (s : State) :
    (planCmdWrite i addr wo s).owned parts = s.owned parts := by simp [planCmdWrite]

@[simp] theorem pwrCmdWrite_owned (wo : Nat) (s : State) (hcap : .cap ∈ parts) :
    (pwrCmdWrite wo s).owned parts = s.owned parts := by simp [pwrCmdWrite, hcap]

@[simp] theorem bootCmdWrite_owned (wo : Nat) (s : State) (hcap : .cap ∈ parts) :
    (bootCmdWrite wo s).owned parts = s.owned parts := by simp [bootCmdWrite, hcap]

@[simp] theorem hostWrite_owned (p : Path) (addr m : Nat) (s : State) (hcap : .cap ∈ parts) :
    (hostWrite p addr m s).owned parts = s.owned parts := by
  unfold hostWrite
  extract_lets wo t
  split
  · simp
  · split
    · split <;> simp [hcap]
    · split <;> simp [hcap, t]
    · split <;> simp [hcap]
    · simp [hcap]

@[simp] theorem hostRead_owned (p : Path) (addr : Nat) (s : State) :
    (hostRead p addr s).owned parts = s.owned parts := by simp [hostRead]

theorem hwSpecial_owned {p : Path} {b : Block} {i o : Nat} {r : RegDesc} {w : HwUpdate} {s u : State}
    (h : hwSpecial p b i o r w s = some u) : u.owned parts = s.owned parts := by
  cases b <;> simp only [hwSpecial, reduceCtorEq, Option.some.injEq] at h
  case fcol => split_ifs at h <;> cases h <;> simp
  case dma =>
    split at h
    · rw [← Option.some.inj h]
      simp
    · cases h
  case mbox => subst h; simp

@[simp] theorem hwApply_owned (p : Path) (addr : Nat) (u : HwUpdate) (s : State) :
    (hwApply p addr u s).owned parts = s.owned parts := by
  unfold hwApply
  split
  · rfl
  · split
    · split
      · rfl
      · split
        case h_1 hspecial => exact hwSpecial_owned hspecial
        case h_2 =>
          dsimp only
          split <;> simp
    · rfl

@[simp] theorem execConfigWrite_keeps (p : Path) (addr : BitVec 32) (v : Word) (u : HwUpdate) (s : State) (hcap : .cap
    ∈ parts) :
    Keeps parts s (execConfigWrite p addr v u s) := by simp [execConfigWrite, hcap]

@[simp] theorem execRcClearingRead_keeps (p : Path) (w : BitVec 28) (u : HwUpdate) (s : State) :
    Keeps parts s (execRcClearingRead p w u s) := by simp [execRcClearingRead]

@[simp] theorem execAliasSetWrite_keeps (p : Path) (w : BitVec 28) (m : Word) (u : HwUpdate) (s : State) (hcap : .cap
    ∈ parts) :
    Keeps parts s (execAliasSetWrite p w m u s) := by simp [execAliasSetWrite, hcap]

@[simp] theorem execAliasClearWrite_keeps (p : Path) (w : BitVec 28) (m : Word) (u : HwUpdate) (s : State) (hcap :
    .cap ∈ parts) :
    Keeps parts s (execAliasClearWrite p w m u s) := by simp [execAliasClearWrite, hcap]

@[simp] theorem execAliasToggleWrite_keeps (p : Path) (w : BitVec 28) (m : Word) (u : HwUpdate) (s : State) (hcap :
    .cap ∈ parts) :
    Keeps parts s (execAliasToggleWrite p w m u s) := by simp [execAliasToggleWrite, hcap]


/-! The operations of Sys2Proof/Machine/Dma.lean. -/

@[simp] theorem modAr_owned (h k a : Nat) (n : Int) (s : State) :
    (modAr h k a n s).owned parts = s.owned parts := by simp [modAr]

@[simp] theorem regBytes_owned (h : Hub) (n : Nat) (as : List Nat) (s : State) :
    (regBytes h n as s).2.owned parts = s.owned parts := by
  induction n generalizing as s with
  | zero => rfl
  | succ n ih =>
    cases as with
    | nil => rfl
    | cons a as => simp [regBytes, ih]

@[simp] theorem spaceRead_owned (h : Hub) (k : Nat) (sp : DmaSpace) (as : List Nat) (s : State) :
    (spaceRead h k sp as s).2.owned parts = s.owned parts := by
  cases sp <;> simp [spaceRead]

@[simp] theorem regPut_owned (h : Hub) (n : Nat) (as : List Nat) (d : List Byte) (s : State) (hcap : .cap ∈ parts) :
    (regPut h n as d s).owned parts = s.owned parts := by
  induction n generalizing as d s with
  | zero => rfl
  | succ n ih =>
    cases as with
    | nil => rfl
    | cons a as => simp [regPut, ih, hcap]

@[simp] theorem spaceWrite_owned (h : Hub) (sp : DmaSpace) (l : List Nat) (d : List Byte) (s : State) (hcap : .cap ∈
    parts) :
    (spaceWrite h sp l d s).owned parts = s.owned parts := by
  unfold spaceWrite
  split <;> simp [hcap]

@[simp] theorem dmaPortPut_owned (h port done : Nat) (last : Bool) (d : List Byte) (s : State) (hcap : .cap ∈ parts) :
    (dmaPortPut h port done last d s).owned parts = s.owned parts := by
  unfold dmaPortPut
  split
  · extract_lets b n data count u
    have hu : u.owned parts = s.owned parts := by simp [u, hcap]
    split <;> simp [hu]
  · cases hpush : strPush h (port - 64) (done == 0) d s with
    | none => rfl
    | some u => exact strPush_owned hpush

@[simp] theorem dmaStall_owned (h k : Nat) (stalls : Nat) (s : State) :
    (dmaStall h k stalls s).owned parts = s.owned parts := by simp [dmaStall]

@[simp] theorem dmaUnit_throttleIf_owned (on : Bool) (h : Nat) (s : State) :
    (dmaUnit.throttleIf on h s).owned parts = s.owned parts := by simp [dmaUnit.throttleIf]
@[simp] theorem dmaUnit_owned (h : Hub) (k : Nat) (gather : Bool) (x : DmaXfer) (stalls done n : Nat) (s : State)
    (hcap : .cap ∈ parts) : (dmaUnit h k gather x stalls done n s).1.owned parts = s.owned parts := by
  unfold dmaUnit
  extract_lets total sa da ssp dsp idx zero src dst iw tableOk
  split
  · simp
  · split
    · simp
    · split
      · simp
      · split
        · simp
        · generalize hread : (if zero = true then (List.replicate n 0, s) else spaceRead h k ssp src s) = got
          have hgot : got.2.owned parts = s.owned parts := by
            rw [← hread]
            split <;> simp
          obtain ⟨data, u⟩ := got
          dsimp only at hgot ⊢
          split <;> simp [hcap, hgot]

@[simp] theorem dmaUnits_owned (h : Hub) (k : Nat) (gather : Bool) (x : DmaXfer) (stalls stop : Nat) (n : Nat) (s :
    State)
    (hcap : .cap ∈ parts) : (dmaUnits h k gather x stalls stop n s).owned parts = s.owned parts := by
  induction n generalizing s with
  | zero => rfl
  | succ n ih =>
    unfold dmaUnits
    extract_lets done size
    split
    · rfl
    · have hunit := dmaUnit_owned h k gather x stalls done size s hcap
      split
      case h_1 t heq =>
        rw [heq] at hunit
        rw [ih]
        exact hunit
      case h_2 t heq =>
        rw [heq] at hunit
        exact hunit

@[simp] theorem dmaDone_owned (h k : Nat) (gather : Bool) (x : DmaXfer) (s : State) :
    (dmaDone h k gather x s).owned parts = s.owned parts := by simp [dmaDone]

@[simp] theorem dmaBoundary_owned (h k : Nat) (s : State) :
    (dmaBoundary h k s).owned parts = s.owned parts := by simp [dmaBoundary]

@[simp] theorem dmaFree_owned (h : Hub) (k stalls : Nat) (s : State) (hcap : .cap ∈ parts) :
    (dmaFree h k stalls s).owned parts = s.owned parts := by
  unfold dmaFree
  split
  · dsimp only
    split
    · rfl
    · split <;> simp [hcap]
  · rfl

@[simp] theorem dmaBurst_owned (h : Hub) (k stalls : Nat) (s : State) (hcap : .cap ∈ parts) :
    (dmaBurst h k stalls s).owned parts = s.owned parts := by
  unfold dmaBurst
  split
  · split
    · rfl
    · rename_i g x size _ _ _
      extract_lets total begun stop u b low v w y
      have hu : u.owned parts = s.owned parts := by simp [u, hcap]
      have hw : w.owned parts = u.owned parts := by simp [w, v]
      split
      · exact hu
      · split
        · simp [hw, hu]
        · split
          · simp [hw, hu]
          · split <;> simp [y, hw, hu]
  · rfl

@[simp] theorem dmaXferIssue_owned (h : Hub) (k : Nat) (g : Bool) (stalls : Nat) (x : DmaXfer) (s : State) (hcap :
    .cap ∈ parts) :
    (dmaXferIssue h k g stalls x s).owned parts = s.owned parts := by simp [dmaXferIssue, hcap]

@[simp] theorem tagWaits_owned (h : Nat) (n : BitVec 32) (s : State) :
    (tagWaits h n s).owned parts = s.owned parts := by simp [tagWaits]

@[simp] theorem execDmaMove_keeps (h : Hub) (k : Fin 16) (parityBad : Bool) (waits stalls : BitVec 32) (s : State)
    (hcap : .cap ∈ parts) :
    Keeps parts s (execDmaMove h k parityBad waits stalls s) := by
  unfold execDmaMove
  extract_lets u
  have hu : u.owned parts = s.owned parts := by simp [u]
  rw [keeps_next]
  split
  · split <;> simp [hcap, hu]
  · rw [dmaFetch_owned, hu]
    intro op v
    split <;> simp [hcap]

@[simp] theorem execDmaGather_keeps (h : Hub) (k : Fin 16) (parityBad : Bool) (waits stalls : BitVec 32) (s : State)
    (hcap : .cap ∈ parts) :
    Keeps parts s (execDmaGather h k parityBad waits stalls s) := by
  unfold execDmaGather
  extract_lets u
  have hu : u.owned parts = s.owned parts := by simp [u]
  rw [keeps_next]
  split
  · split <;> simp [hcap, hu]
  · rw [dmaFetch_owned, hu]
    intro op v
    split <;> simp [hcap]

@[simp] theorem execDmaBurst_keeps (h : Hub) (k : Fin 16) (waits stalls : BitVec 32) (s : State) (hcap : .cap ∈ parts) :
    Keeps parts s (execDmaBurst h k waits stalls s) := by simp [execDmaBurst, hcap]

@[simp] theorem execDmaSignalRegwrite_keeps (h : Hub) (k : Fin 16) (parityBad : Bool) (s : State) (hcap : .cap ∈
    parts) :
    Keeps parts s (execDmaSignalRegwrite h k parityBad s) := by
  rw [execDmaSignalRegwrite, keeps_next]
  refine dmaIssue_owned _ _ _ _ _ (fun op u => ?_)
  split
  · split <;> simp [hcap]
  · rfl


/-! The operations of Sys2Proof/Machine/Faults.lean. -/

@[simp] theorem showRepairs_owned (s : State) :
    (showRepairs s).owned parts = s.owned parts := by simp [showRepairs]

@[simp] theorem queueFault_owned (h : Nat) (f : Repair) (s : State) (hrepairs : .repairs ∈ parts) :
    (queueFault h f s).owned parts = s.owned parts := by simp [queueFault, hrepairs]

@[simp] theorem swapPipe_owned (i old p : Nat) (s : State) (hcap : .cap ∈ parts) :
    (swapPipe i old p s).owned parts = s.owned parts := by simp [swapPipe, hcap]

theorem placeSpare_owned {f : Repair} {s u : State} (hcap : .cap ∈ parts) (h : placeSpare f s = some u) :
    u.owned parts = s.owned parts := by
  unfold placeSpare at h
  split at h
  · obtain ⟨p, -, rfl⟩ := Option.map_eq_some_iff.mp h
    simp [hcap]
  · split_ifs at h
    cases h
    rfl
  · obtain ⟨m, -, rfl⟩ := Option.map_eq_some_iff.mp h
    simp [hcap]
  · cases h

@[simp] theorem unprotected_owned (c : Bool) (s : State) :
    (unprotected c s).owned parts = s.owned parts := by simp [unprotected]

@[simp] theorem replayFlag_owned (f : Repair) (v : Nat) (s : State) :
    (replayFlag f v s).owned parts = s.owned parts := by
  unfold replayFlag
  split <;> simp []

@[simp] theorem repairPlace_owned (h : Nat) (s : State) (hcap : .cap ∈ parts) (hrepairs : .repairs ∈ parts) :
    (repairPlace h s).owned parts = s.owned parts := by
  unfold repairPlace
  split
  · rfl
  · extract_lets u
    split
    · simp [u, hrepairs]
    · split
      · simp [u, hrepairs]
      · rename_i v hplace
        have hv : v.owned parts = s.owned parts := by
          rw [placeSpare_owned hcap hplace]
          simp [u, hrepairs]
        rw [showRepairs_owned]
        split <;> simp [hv, hrepairs]

@[simp] theorem execRepairPlace_keeps (h : Hub) (s : State) (hcap : .cap ∈ parts) (hrepairs : .repairs ∈ parts) :
    Keeps parts s (execRepairPlace h s) := by simp [execRepairPlace, hcap, hrepairs]

@[simp] theorem repairComplete_owned (h : Nat) (s : State) (hrepairs : .repairs ∈ parts) :
    (repairComplete h s).owned parts = s.owned parts := by
  simp only [repairComplete]
  (repeat' split) <;> simp [hrepairs]

@[simp] theorem execRepairComplete_keeps (h : Hub) (again : List (Fin 32 × PlanNeed)) (s : State) (hcap : .cap ∈
    parts) (hrepairs : .repairs ∈ parts) :
    Keeps parts s (execRepairComplete h again s) := by simp [execRepairComplete, hcap, hrepairs]

@[simp] theorem execPipelineFault_keeps (t : TDie) (pipe : Fin 4) (first : BitVec 56) (s : State) (hbrokenPipes :
    .brokenPipes ∈ parts) :
    Keeps parts s (execPipelineFault t pipe first s) := by
  unfold execPipelineFault
  extract_lets p
  rw [keeps_next]
  split
  · rw [State.owned_brokenPipes _ _ hbrokenPipes, State.raise_owned]
  · rfl

@[simp] theorem stopUsers_owned (d : Nat) (s : State) (hcap : .cap ∈ parts) :
    (stopUsers d s).owned parts = s.owned parts := by simp [stopUsers, hcap]

@[simp] theorem takeLead_owned (s : State) (hlead : .lead ∈ parts) :
    (takeLead s).owned parts = s.owned parts := by
  unfold takeLead
  extract_lets show_
  have hshow : ∀ b f u, (show_ b f u).owned parts = u.owned parts := fun b f u => by simp [show_]
  rw [State.owned_lead _ _ hlead, hshow, hshow, hshow, hshow]

@[simp] theorem controlFault_owned (s : State) (hcap : .cap ∈ parts) (hlead : .lead ∈ parts) :
    (controlFault s).owned parts = s.owned parts := by
  unfold controlFault
  split
  · split <;> simp [hlead]
  · rw [State.owned_controlLost _ _ hlead]
    simp [hcap]

@[simp] theorem severe_owned (e : Event) (s : State) (hcap : .cap ∈ parts) (hlead : .lead ∈ parts) :
    (severe e s).owned parts = s.owned parts := by
  unfold severe
  split <;> simp [hcap, hlead]

@[simp] theorem faultAct_owned (e : Logged) (s : State) (hcap : .cap ∈ parts) (hlead : .lead ∈ parts) (hrepairs :
    .repairs ∈ parts) :
    (faultAct e s).owned parts = s.owned parts := by
  unfold faultAct
  split <;> simp [hcap, hlead, hrepairs]

@[simp] theorem execFaultEvent_keeps (n : Nat) (s : State) (hcap : .cap ∈ parts) (hlead : .lead ∈ parts) (hrepairs :
    .repairs ∈ parts) :
    Keeps parts s (execFaultEvent n s) := by
  unfold execFaultEvent
  extract_lets taken u r
  have hcollect : ∀ (hs : List Nat) (x : State × List Logged),
      (hs.foldl (fun x h => if h = u.lead then collect h taken x.1 else ((collect h taken x.1).1, x.2)) x).1.owned
          parts =
        x.1.owned parts := by
    intro hs
    induction hs with
    | nil => intro x; rfl
    | cons h hs ih =>
      intro x
      rw [List.foldl_cons, ih]
      split <;> simp
  have hr : r.1.owned parts = s.owned parts := hcollect u.hubList (u, [])
  split
  · simp
  · rw [keeps_next, State.owned_foldl _ _ _ _ (fun v e => ?_), hr]
    simp [hcap, hlead, hrepairs]


/-! The operations of Sys2Proof/Machine/Mgmt.lean. -/

@[simp] theorem mgmtRun_owned (h op : Nat) (f : MgmtOp → State → Nat × Nat × State) (s : State)
    (hf : ∀ o s, (f o s).2.2.owned parts = s.owned parts) : (mgmtRun h op f s).owned parts = s.owned parts := by
  unfold mgmtRun; (repeat' split) <;> simp [hf]

@[simp] theorem execMgmtRead_keeps (h : Hub) (s : State) :
    Keeps parts s (execMgmtRead h s) := by simp [execMgmtRead]

@[simp] theorem execMgmtWrite_keeps (h : Hub) (s : State) (hcap : .cap ∈ parts) :
    Keeps parts s (execMgmtWrite h s) := by simp [execMgmtWrite, hcap]

@[simp] theorem execMgmtEcho_keeps (h : Hub) (s : State) :
    Keeps parts s (execMgmtEcho h s) := by simp [execMgmtEcho]

@[simp] theorem stopLocked_owned (h arg : Nat) (s : State) :
    (stopLocked h arg s).owned parts = s.owned parts := by
  unfold stopLocked
  split
  case h_1 hstop => simp [stopTaken_owned hstop]
  case h_2 => rfl

@[simp] theorem execMgmtStopPlan_keeps (h : Hub) (e : PlanEnd) (s : State) (hcap : .cap ∈ parts) :
    Keeps parts s (execMgmtStopPlan h e s) := by
  rw [execMgmtStopPlan, keeps_next]
  split
  · rfl
  · split
    · simp
    · split
      case h_1 hstop =>
        rw [← stopTaken_owned hstop]
        split
        · exact planStep_owned _ _ (fun v => by simp [hcap])
        · rfl
      case h_2 => rfl

@[simp] theorem execMgmtStopAllPlans_keeps (h : Hub) (e : PlanEnd) (s : State) (hcap : .cap ∈ parts) :
    Keeps parts s (execMgmtStopAllPlans h e s) := by
  rw [execMgmtStopAllPlans, keeps_next]
  split
  · rfl
  · split
    · simp
    · split
      case h_1 hstop =>
        rw [← stopTaken_owned hstop]
        exact planStep_owned _ _ (fun v => by simp [hcap])
      case h_2 => rfl


/-! The operations of Sys2Proof/Machine/Requests.lean. -/

@[simp] theorem mboxRequest_owned (h : Nat) (p : Path) (code index dir : Nat) (s : State) (hcap : .cap ∈ parts) :
    (mboxRequest h p code index dir s).owned parts = s.owned parts := by simp [mboxRequest, hcap]

@[simp] theorem mboxGet_owned (h : Nat) (p : Path) (code index : Nat) (s : State) (hcap : .cap ∈ parts) :
    (mboxGet h p code index s).owned parts = s.owned parts := by simp [mboxGet, hcap]

@[simp] theorem mboxSet_owned (h : Nat) (p : Path) (code index k v : Nat) (s : State) (hcap : .cap ∈ parts) :
    (mboxSet h p code index k v s).owned parts = s.owned parts := by simp [mboxSet, hcap]

@[simp] theorem execMboxRequestComplete_keeps (h : Hub) (p : Path) (s : State) :
    Keeps parts s (execMboxRequestComplete h p s) := by simp [execMboxRequestComplete]

@[simp] theorem execMboxLastWordRead_keeps (h : Hub) (p : Path) (s : State) :
    Keeps parts s (execMboxLastWordRead h p s) := by simp [execMboxLastWordRead]

@[simp] theorem execTimeNow_keeps (h : Hub) (p : Path) (s : State) (hcap : .cap ∈ parts) :
    Keeps parts s (execTimeNow h p s) := by simp [execTimeNow, hcap]

@[simp] theorem execTimeFrc_keeps (h : Hub) (p : Path) (s : State) (hcap : .cap ∈ parts) :
    Keeps parts s (execTimeFrc h p s) := by simp [execTimeFrc, hcap]

@[simp] theorem execTimeRs_keeps (h : Hub) (p : Path) (n : Fin 2) (s : State) (hcap : .cap ∈ parts) :
    Keeps parts s (execTimeRs h p n s) := by simp [execTimeRs, hcap]

@[simp] theorem execTimeHost_keeps (h : Hub) (p : Path) (v : BitVec 96) (s : State) (hcap : .cap ∈ parts) :
    Keeps parts s (execTimeHost h p v s) := by simp [execTimeHost, hcap]

@[simp] theorem execTimeStepLog_keeps (h : Hub) (p : Path) (s : State) (hcap : .cap ∈ parts) :
    Keeps parts s (execTimeStepLog h p s) := by simp [execTimeStepLog, hcap]

@[simp] theorem execTimeClockIdWrite_keeps (h : Hub) (p : Path) (v : BitVec 64) (s : State) (hcap : .cap ∈ parts) :
    Keeps parts s (execTimeClockIdWrite h p v s) := by simp [execTimeClockIdWrite, hcap]

@[simp] theorem execTimeClockIdRead_keeps (h : Hub) (p : Path) (s : State) (hcap : .cap ∈ parts) :
    Keeps parts s (execTimeClockIdRead h p s) := by simp [execTimeClockIdRead, hcap]

@[simp] theorem execTimeGmId_keeps (h : Hub) (p : Path) (s : State) (hcap : .cap ∈ parts) :
    Keeps parts s (execTimeGmId h p s) := by simp [execTimeGmId, hcap]

@[simp] theorem execPlanScheduleRead_keeps (h : Hub) (p : Path) (k : Fin 3) (n : Fin 32) (s : State) (hcap : .cap ∈
    parts) :
    Keeps parts s (execPlanScheduleRead h p k n s) := by simp [execPlanScheduleRead, hcap]

@[simp] theorem execPlanScheduleWrite_keeps (h : Hub) (p : Path) (k : Fin 3) (n : Fin 32) (v : BitVec 64) (s : State)
    (hcap : .cap ∈ parts) :
    Keeps parts s (execPlanScheduleWrite h p k n v s) := by simp [execPlanScheduleWrite, hcap]

@[simp] theorem execPlanEnergyWork_keeps (h : Hub) (p : Path) (work : Bool) (n : Fin 32) (s : State) (hcap : .cap ∈
    parts) :
    Keeps parts s (execPlanEnergyWork h p work n s) := by simp [execPlanEnergyWork, hcap]

@[simp] theorem execLedgerEnergy_keeps (h : Hub) (p : Path) (d : Fin 13) (s : State) (hcap : .cap ∈ parts) :
    Keeps parts s (execLedgerEnergy h p d s) := by simp [execLedgerEnergy, hcap]

@[simp] theorem execTarnHead_keeps (h : Hub) (p : Path) (n : Fin 2) (s : State) (hcap : .cap ∈ parts) :
    Keeps parts s (execTarnHead h p n s) := by simp [execTarnHead, hcap]

@[simp] theorem execTarnOldest_keeps (h : Hub) (p : Path) (n : Fin 2) (s : State) (hcap : .cap ∈ parts) :
    Keeps parts s (execTarnOldest h p n s) := by simp [execTarnOldest, hcap]

@[simp] theorem execTdcPop_keeps (h : Hub) (p : Path) (n : Fin 8) (s : State) (hcap : .cap ∈ parts) :
    Keeps parts s (execTdcPop h p n s) := by simp [execTdcPop, hcap]

@[simp] theorem execTdcIvpop_keeps (h : Hub) (p : Path) (m : Fin 4) (s : State) (hcap : .cap ∈ parts) :
    Keeps parts s (execTdcIvpop h p m s) := by simp [execTdcIvpop, hcap]

@[simp] theorem execTdcGateTimeRead_keeps (h : Hub) (p : Path) (close : Bool) (n : Fin 8) (s : State) (hcap : .cap ∈
    parts) :
    Keeps parts s (execTdcGateTimeRead h p close n s) := by simp [execTdcGateTimeRead, hcap]

@[simp] theorem execTdcGateTimeWrite_keeps (h : Hub) (p : Path) (close : Bool) (n : Fin 8) (v : BitVec 96) (s : State)
    (hcap : .cap ∈ parts) :
    Keeps parts s (execTdcGateTimeWrite h p close n v s) := by simp [execTdcGateTimeWrite, hcap]

@[simp] theorem execNfsUnlock_keeps (h : Hub) (p : Path) (v : BitVec 256) (s : State) (hcap : .cap ∈ parts) :
    Keeps parts s (execNfsUnlock h p v s) := by simp [execNfsUnlock, hcap]

@[simp] theorem execNfsCatSts_keeps (h : Hub) (p : Path) (close : Bool) (s : State) (hcap : .cap ∈ parts) :
    Keeps parts s (execNfsCatSts h p close s) := by simp [execNfsCatSts, hcap]

@[simp] theorem execDmaAr_keeps (h : Hub) (p : Path) (k : Fin 16) (a : Fin 4) (s : State) (hcap : .cap ∈ parts) :
    Keeps parts s (execDmaAr h p k a s) := by simp [execDmaAr, hcap]

@[simp] theorem execDdrFreezeAddr_keeps (h : Hub) (p : Path) (c : Fin 2) (s : State) (hcap : .cap ∈ parts) :
    Keeps parts s (execDdrFreezeAddr h p c s) := by simp [execDdrFreezeAddr, hcap]

@[simp] theorem execDdrFreezeSts_keeps (h : Hub) (p : Path) (c : Fin 2) (s : State) (hcap : .cap ∈ parts) :
    Keeps parts s (execDdrFreezeSts h p c s) := by simp [execDdrFreezeSts, hcap]

@[simp] theorem execEthAddressRead_keeps (h : Hub) (p : Path) (w : EthAddr) (s : State) (hcap : .cap ∈ parts) :
    Keeps parts s (execEthAddressRead h p w s) := by simp [execEthAddressRead, hcap]

@[simp] theorem execEthAddressWrite_keeps (h : Hub) (p : Path) (w : EthAddr) (v : BitVec 160) (s : State) (hcap : .cap
    ∈ parts) :
    Keeps parts s (execEthAddressWrite h p w v s) := by simp [execEthAddressWrite, hcap]

@[simp] theorem execEthMgmtKey_keeps (h : Hub) (p : Path) (v : BitVec 256) (s : State) (hcap : .cap ∈ parts) :
    Keeps parts s (execEthMgmtKey h p v s) := by simp [execEthMgmtKey, hcap]

@[simp] theorem execFcolFirstDetail_keeps (h : Hub) (p : Path) (s : State) (hcap : .cap ∈ parts) :
    Keeps parts s (execFcolFirstDetail h p s) := by simp [execFcolFirstDetail, hcap]

@[simp] theorem execFcolLog_keeps (h : Hub) (p : Path) (s : State) (hcap : .cap ∈ parts) :
    Keeps parts s (execFcolLog h p s) := by simp [execFcolLog, hcap]

@[simp] theorem execFuseKeyHash_keeps (h : Hub) (p : Path) (v : BitVec 384) (s : State) (hcap : .cap ∈ parts) :
    Keeps parts s (execFuseKeyHash h p v s) := by simp [execFuseKeyHash, hcap]


/-! The operations of Sys2Proof/Machine/Serve.lean. -/

@[simp] theorem afterFreeze_owned (h c : Nat) (kept : List (Fin 32)) (e : PlanEnd) (f : State → State) (s : State)
    (hcap : .cap ∈ parts) (hf : ∀ s, (f s).owned parts = s.owned parts) : (afterFreeze h c kept e f s).owned parts =
        s.owned parts := by
  unfold afterFreeze
  extract_lets u
  split
  · rw [planStep_owned _ _ (fun v => by simp [hcap])]
    exact hf s
  · exact hf s

@[simp] theorem execDdrReadServe_keeps (h : Hub) (c : Fin 2) (arrivals : List DdrReq) (a : DdrAccess) (kept : List
    (Fin 32)) (e : PlanEnd) (s : State) (hcap : .cap ∈ parts) :
    Keeps parts s (execDdrReadServe h c arrivals a kept e s) := by simp [execDdrReadServe, hcap]

@[simp] theorem execDdrWriteServe_keeps (h : Hub) (c : Fin 2) (a : DdrAccess) (kept : List (Fin 32)) (e : PlanEnd) (s
    : State) (hcap : .cap ∈ parts) :
    Keeps parts s (execDdrWriteServe h c a kept e s) := by simp [execDdrWriteServe, hcap]

@[simp] theorem execDdrScrub_keeps (h : Hub) (c : Fin 2) (a : DdrAccess) (kept : List (Fin 32)) (e : PlanEnd) (s :
    State) (hcap : .cap ∈ parts) :
    Keeps parts s (execDdrScrub h c a kept e s) := by simp [execDdrScrub, hcap]

@[simp] theorem dieHot_owned (d : Nat) (s : State) (hcap : .cap ∈ parts) (hhotLost : .hotLost ∈ parts) :
    (dieHot d s).owned parts = s.owned parts := by simp [dieHot, hcap, hhotLost]

@[simp] theorem tempCheck_owned (d : Nat) (v : Int) (s : State) (hcap : .cap ∈ parts) (hhotLost : .hotLost ∈ parts)
    (hpowerGood : .powerGood ∈ parts) :
    (tempCheck d v s).owned parts = s.owned parts := by simp [tempCheck, hcap, hhotLost, hpowerGood]

@[simp] theorem execHkEntryResult_keeps (h : Hub) (c : Fin 2) (v : Rat) (s : State) (hcap : .cap ∈ parts) (hpairs :
    .pairs ∈ parts) (hhkAt : .hkAt ∈ parts) (hhotLost : .hotLost ∈ parts) (hpowerGood : .powerGood ∈ parts) :
    Keeps parts s (execHkEntryResult h c v s) := by
  unfold execHkEntryResult
  split
  · simp
  · have hres := hkResult_owned (parts := parts) h c v s hpairs hhkAt
    generalize hkResult h c v s = got at hres ⊢
    obtain ⟨chan, u⟩ := got
    dsimp only at hres ⊢
    rw [keeps_next]
    split
    · split <;> simp [hcap, hhotLost, hpowerGood, hres]
    · exact hres


/-! The operations of Sys2Proof/Machine/Spi.lean. -/

@[simp] theorem State.modSpi_owned (s : State) (h : Nat) (f : SpiSt → SpiSt) (hspi : .spi ∈ parts) :
    (State.modSpi s h f).owned parts = s.owned parts := by simp [State.modSpi, hspi]

@[simp] theorem spiWake_owned (s : State) :
    (spiWake s).owned parts = s.owned parts := by simp [spiWake]

@[simp] theorem spiDrain_owned (h : Hub) (s : State) (hcap : .cap ∈ parts) (hspi : .spi ∈ parts) :
    (spiDrain h s).owned parts = s.owned parts := by
  unfold spiDrain
  split <;> simp [hcap, hspi]

@[simp] theorem spiDrainAll_owned (h : Hub) (n : Nat) (s : State) (hcap : .cap ∈ parts) (hspi : .spi ∈ parts) :
    (spiDrainAll h n s).owned parts = s.owned parts := by
  induction n generalizing s with
  | zero => rfl
  | succ n ih => simp [spiDrainAll, ih, hcap, hspi]

@[simp] theorem spiSend_owned (h : Nat) (filler : Nat) (late : Bool) (v : Nat) (s : State) (hspi : .spi ∈ parts) :
    (spiSend h filler late v s).owned parts = s.owned parts := by simp [spiSend, hspi]

@[simp] theorem spiReads_owned (h : Hub) (addr : Nat) (fixed : Bool) (ws : List (Nat × Bool)) (k : Nat) (s : State)
    (hspi : .spi ∈ parts) : (spiReads h addr fixed ws k s).owned parts = s.owned parts := by
  induction ws generalizing k s with
  | nil => rfl
  | cons w ws ih => simp [spiReads, ih, hspi]

@[simp] theorem spiRead_owned (h : Hub) (addr : Nat) (fixed : Bool) (words : List (Nat × Bool)) (s : State) (hcap :
    .cap ∈ parts) (hspi : .spi ∈ parts) :
    (spiRead h addr fixed words s).owned parts = s.owned parts := by simp [spiRead, hcap, hspi]

@[simp] theorem execSpiRead_keeps (h : Hub) (addr : BitVec 32) (words : List (Nat × Bool)) (s : State) (hcap : .cap ∈
    parts) (hspi : .spi ∈ parts) :
    Keeps parts s (execSpiRead h addr words s) := by simp [execSpiRead, hcap, hspi]

@[simp] theorem execSpiReadFixed_keeps (h : Hub) (addr : BitVec 32) (words : List (Nat × Bool)) (s : State) (hcap :
    .cap ∈ parts) (hspi : .spi ∈ parts) :
    Keeps parts s (execSpiReadFixed h addr words s) := by simp [execSpiReadFixed, hcap, hspi]

@[simp] theorem execSpiReadTimeout_keeps (h : Hub) (addr : BitVec 32) (s : State) (hspi : .spi ∈ parts) :
    Keeps parts s (execSpiReadTimeout h addr s) := by simp [execSpiReadTimeout, hspi]

@[simp] theorem spiPost_owned (h a v : Nat) (s : State) (hspi : .spi ∈ parts) :
    (spiPost h a v s).owned parts = s.owned parts := by simp [spiPost, hspi]

@[simp] theorem spiWrite_owned (h : Hub) (addr : Nat) (fixed : Bool) (words : List Word) (s : State) (hspi : .spi ∈
    parts) :
    (spiWrite h addr fixed words s).owned parts = s.owned parts := by simp [spiWrite, hspi]

@[simp] theorem execSpiWrite_keeps (h : Hub) (addr : BitVec 32) (words : List Word) (s : State) (hspi : .spi ∈ parts) :
    Keeps parts s (execSpiWrite h addr words s) := by simp [execSpiWrite, hspi]

@[simp] theorem execSpiWriteFixed_keeps (h : Hub) (addr : BitVec 32) (words : List Word) (s : State) (hspi : .spi ∈
    parts) :
    Keeps parts s (execSpiWriteFixed h addr words s) := by simp [execSpiWriteFixed, hspi]

@[simp] theorem execSpiWriteDrain_keeps (h : Hub) (s : State) (hcap : .cap ∈ parts) (hspi : .spi ∈ parts) :
    Keeps parts s (execSpiWriteDrain h s) := by simp [execSpiWriteDrain, hcap, hspi]

@[simp] theorem execSpiStatus_keeps (h : Hub) (s : State) (hspi : .spi ∈ parts) :
    Keeps parts s (execSpiStatus h s) := by simp [execSpiStatus, hspi]

@[simp] theorem execSpiId_keeps (h : Hub) (s : State) (hspi : .spi ∈ parts) :
    Keeps parts s (execSpiId h s) := by simp [execSpiId, hspi]


/-! The operations of Sys2Proof/Certificates/Slice0/Obligations.lean. -/

@[simp] theorem dmaTurn_owned (f : DmaFn) (h : Hub) (s : State) :
    (dmaTurn f h s).owned parts = s.owned parts := by
  unfold dmaTurn
  split <;> simp []

end

end Sys2Proof.Machine
end

section
/-! PROOFS. The owners of the owned parts (R5, R360, R395, R407, R622, R625, R626, R640): a command changes only those
    it owns. -/

namespace Sys2Proof.Machine

/-! The commands that may change each part, one predicate for each part. -/

def changesFuses : Instr → Bool
  | .fuseDone .. => true
  | _ => false

def changesFusedSvn : Instr → Bool
  | .fuseDone .. | .svnAdvance .. => true
  | _ => false

def changesLead : Instr → Bool
  | .faultEvent .. | .resetAssert .. | .powerOnReset .. => true
  | _ => false

def changesEnergy : Instr → Bool
  | .ledgerStep .. | .resetAssert .. | .powerOnReset .. => true
  | _ => false

def changesDrawn : Instr → Bool
  | .nfsEraseDone .. | .nfsFormatComplete .. | .nfsMounted .. => true
  | _ => false

def changesBrokenPipes : Instr → Bool
  | .pipelineFault .. | .resetAssert .. | .powerOnReset .. => true
  | _ => false

def changesAlive : Instr → Bool
  | .aliveToggle .. | .resetAssert .. | .powerOnReset .. => true
  | _ => false

def changesAliveRuns : Instr → Bool
  | .bootPlannerStart .. | .resetAssert .. | .powerOnReset .. => true
  | _ => false

def changesBeatsMissed : Instr → Bool
  | .plannerHeartbeat .. | .heartbeatMiss .. | .resetAssert .. | .powerOnReset .. => true
  | _ => false

def changesSpi : Instr → Bool
  | .spiRead .. | .spiReadFixed .. | .spiWrite .. | .spiWriteFixed .. | .spiStatus .. | .spiId .. | .spiReadTimeout ..
      | .spiWriteDrain .. | .resetAssert .. | .powerOnReset .. => true
  | _ => false

def changesPwm : Instr → Bool
  | .pwmEdge .. | .resetAssert .. | .powerOnReset .. => true
  | _ => false

def changesPairs : Instr → Bool
  | .hkEntryResult .. | .hkPairTimeout .. | .resetAssert .. | .powerOnReset .. => true
  | _ => false

def changesHkAt : Instr → Bool
  | .hkEntryResult .. | .resetAssert .. | .powerOnReset .. => true
  | _ => false

def changesHotLost : Instr → Bool
  | .railSequenceStep .. | .hkEntryResult .. | .resetAssert .. | .powerOnReset .. => true
  | _ => false

def changesPowerGood : Instr → Bool
  | .powerFail .. | .railOutOfTolerance .. | .powerRestore .. | .hkEntryResult .. => true
  | _ => false

def changesResetLow : Instr → Bool
  | .resetAssert .. | .resetRelease .. | .powerOnReset .. => true
  | _ => false

def changesRepairs : Instr → Bool
  | .repairPlace .. | .repairComplete .. | .faultEvent .. | .resetAssert .. | .powerOnReset .. => true
  | _ => false

def changesTrgTx : Instr → Bool
  | .triggerMessageSend .. | .triggerMessageRepeat .. | .frameTransmit .. | .resetAssert .. | .powerOnReset .. => true
  | _ => false

/-- Whether command `c` may change the part `f`; capture memory has no owners here. -/
def ownsPart : OwnedField → Instr → Bool
  | .cap, _ => true
  | .fuses, c => changesFuses c
  | .fusedSvn, c => changesFusedSvn c
  | .lead, c => changesLead c
  | .energy, c => changesEnergy c
  | .drawn, c => changesDrawn c
  | .brokenPipes, c => changesBrokenPipes c
  | .alive, c => changesAlive c
  | .aliveRuns, c => changesAliveRuns c
  | .beatsMissed, c => changesBeatsMissed c
  | .spi, c => changesSpi c
  | .pwm, c => changesPwm c
  | .pairs, c => changesPairs c
  | .hkAt, c => changesHkAt c
  | .hotLost, c => changesHotLost c
  | .powerGood, c => changesPowerGood c
  | .resetLow, c => changesResetLow c
  | .repairs, c => changesRepairs c
  | .trgTx, c => changesTrgTx c

/-- Every part that has owners. -/
def allParts : List OwnedField :=
  [.cap, .fuses, .fusedSvn, .lead, .energy, .drawn, .brokenPipes, .alive, .aliveRuns, .beatsMissed, .spi, .pwm,
      .pairs, .hkAt, .hotLost, .powerGood, .resetLow, .repairs, .trgTx]

/-- The parts that command `c` may change. -/
def mayChange (c : Instr) : List OwnedField := allParts.filter fun f => ownsPart f c

theorem mem_mayChange (f : OwnedField) (c : Instr) : f ∈ mayChange c ↔ ownsPart f c = true := by
  have hall : f ∈ allParts := by cases f <;> decide
  simp [mayChange, hall]

/-- A command's ownership of a part, read off `ownsPart`. -/
theorem owns {f : OwnedField} {c : Instr} (h : ownsPart f c = true := by rfl) : f ∈ mayChange c :=
  (mem_mayChange f c).mpr h

@[simp] theorem cap_mem_mayChange (c : Instr) : .cap ∈ mayChange c := owns

/-- A command changes no owned part but those it may change. -/
theorem exec_keeps (c : Instr) (s : State) : Keeps (mayChange c) s (exec c s) := by
  cases c <;> unfold exec <;> dsimp only
  case triggerMessageSend => exact execTriggerMessageSend_keeps _ _ owns
  case triggerMessageRepeat => exact execTriggerMessageRepeat_keeps _ _ owns
  case pipelineFault => exact execPipelineFault_keeps _ _ _ _ owns
  case repairPlace => exact execRepairPlace_keeps _ _ owns owns
  case repairComplete => exact execRepairComplete_keeps _ _ _ owns owns
  case ledgerStep => exact execLedgerStep_keeps _ _ owns owns
  case powerFail => exact execPowerFail_keeps _ owns owns
  case resetAssert =>
    exact execResetAssert_keeps _ owns owns owns owns owns owns owns owns owns owns owns owns owns
      owns owns
  case resetRelease => exact execResetRelease_keeps _ _ owns
  case railSequenceStep => exact execRailSequenceStep_keeps _ _ _ owns
  case railOutOfTolerance => exact execRailOutOfTolerance_keeps _ _ _ _ owns owns
  case bootPlannerStart => exact execBootPlannerStart_keeps _ _ owns owns
  case svnAdvance => exact execSvnAdvance_keeps _ owns
  case fuseDone => exact execFuseDone_keeps _ _ owns owns
  case powerRestore => exact execPowerRestore_keeps _ owns
  case nfsEraseDone => exact execNfsEraseDone_keeps _ _ owns
  case nfsMounted => exact execNfsMounted_keeps _ _ _ _ owns owns
  case frameTransmit => exact execFrameTransmit_keeps _ _ _ owns
  case hkEntryResult => exact execHkEntryResult_keeps _ _ _ _ owns owns owns owns owns
  case hkPairTimeout => exact execHkPairTimeout_keeps _ _ _ owns
  case pwmEdge => exact execPwmEdge_keeps _ _ _ _ owns
  case faultEvent => exact execFaultEvent_keeps _ _ owns owns owns
  case plannerHeartbeat => exact execPlannerHeartbeat_keeps _ owns
  case heartbeatMiss => exact execHeartbeatMiss_keeps _ owns
  case aliveToggle => exact execAliveToggle_keeps _ owns
  case spiRead => exact execSpiRead_keeps _ _ _ _ owns owns
  case spiReadFixed => exact execSpiReadFixed_keeps _ _ _ _ owns owns
  case spiWrite => exact execSpiWrite_keeps _ _ _ _ owns
  case spiWriteFixed => exact execSpiWriteFixed_keeps _ _ _ _ owns
  case spiStatus => exact execSpiStatus_keeps _ _ owns
  case spiId => exact execSpiId_keeps _ _ owns
  case spiReadTimeout => exact execSpiReadTimeout_keeps _ _ _ owns
  case spiWriteDrain => exact execSpiWriteDrain_keeps _ _ owns owns
  case powerOnReset =>
    exact execPowerOnReset_keeps _ owns owns owns owns owns owns owns owns owns owns owns owns owns
      owns owns
  case nfsFormatComplete => exact execNfsFormatComplete_keeps _ _ _ owns
  all_goals simp

/-! Each owned part is kept where it is not left out. -/
theorem State.drawn_of_owned {parts : List OwnedField} {s t : State} (hfree : .drawn ∉ parts)
    (h : t.owned parts = s.owned parts) : t.drawn = s.drawn := by
  have hfield := congrArg OwnedState.drawn h
  simpa [State.owned, hfree] using hfield

theorem State.trgTx_of_owned {parts : List OwnedField} {s t : State} (hfree : .trgTx ∉ parts)
    (h : t.owned parts = s.owned parts) : t.trgTx = s.trgTx := by
  have hfield := congrArg OwnedState.trgTx h
  simpa [State.owned, hfree] using hfield

theorem State.repairs_of_owned {parts : List OwnedField} {s t : State} (hfree : .repairs ∉ parts)
    (h : t.owned parts = s.owned parts) : t.repairs = s.repairs := by
  have hfield := congrArg OwnedState.repairs h
  simpa [State.owned, hfree] using hfield

theorem State.lead_of_owned {parts : List OwnedField} {s t : State} (hfree : .lead ∉ parts)
    (h : t.owned parts = s.owned parts) : t.lead = s.lead := by
  have hfield := congrArg OwnedState.lead h
  simpa [State.owned, hfree] using hfield

theorem State.powerGood_of_owned {parts : List OwnedField} {s t : State} (hfree : .powerGood ∉ parts)
    (h : t.owned parts = s.owned parts) : t.powerGood = s.powerGood := by
  have hfield := congrArg OwnedState.powerGood h
  simpa [State.owned, hfree] using hfield

theorem State.resetLow_of_owned {parts : List OwnedField} {s t : State} (hfree : .resetLow ∉ parts)
    (h : t.owned parts = s.owned parts) : t.resetLow = s.resetLow := by
  have hfield := congrArg OwnedState.resetLow h
  simpa [State.owned, hfree] using hfield

theorem State.pairs_of_owned {parts : List OwnedField} {s t : State} (hfree : .pairs ∉ parts)
    (h : t.owned parts = s.owned parts) : t.pairs = s.pairs := by
  have hfield := congrArg OwnedState.pairs h
  simpa [State.owned, hfree] using hfield

theorem State.pwm_of_owned {parts : List OwnedField} {s t : State} (hfree : .pwm ∉ parts)
    (h : t.owned parts = s.owned parts) : t.pwm = s.pwm := by
  have hfield := congrArg OwnedState.pwm h
  simpa [State.owned, hfree] using hfield

theorem State.hkAt_of_owned {parts : List OwnedField} {s t : State} (hfree : .hkAt ∉ parts)
    (h : t.owned parts = s.owned parts) : t.hkAt = s.hkAt := by
  have hfield := congrArg OwnedState.hkAt h
  simpa [State.owned, hfree] using hfield

theorem State.hotLost_of_owned {parts : List OwnedField} {s t : State} (hfree : .hotLost ∉ parts)
    (h : t.owned parts = s.owned parts) : t.hotLost = s.hotLost := by
  have hfield := congrArg OwnedState.hotLost h
  simpa [State.owned, hfree] using hfield

theorem State.aliveRuns_of_owned {parts : List OwnedField} {s t : State} (hfree : .aliveRuns ∉ parts)
    (h : t.owned parts = s.owned parts) : t.aliveRuns = s.aliveRuns := by
  have hfield := congrArg OwnedState.aliveRuns h
  simpa [State.owned, hfree] using hfield

theorem State.alive_of_owned {parts : List OwnedField} {s t : State} (hfree : .alive ∉ parts)
    (h : t.owned parts = s.owned parts) : t.alive = s.alive := by
  have hfield := congrArg OwnedState.alive h
  simpa [State.owned, hfree] using hfield

theorem State.controlLost_of_owned {parts : List OwnedField} {s t : State} (hfree : .lead ∉ parts)
    (h : t.owned parts = s.owned parts) : t.controlLost = s.controlLost := by
  have hfield := congrArg OwnedState.controlLost h
  simpa [State.owned, hfree] using hfield

theorem State.beatsMissed_of_owned {parts : List OwnedField} {s t : State} (hfree : .beatsMissed ∉ parts)
    (h : t.owned parts = s.owned parts) : t.beatsMissed = s.beatsMissed := by
  have hfield := congrArg OwnedState.beatsMissed h
  simpa [State.owned, hfree] using hfield

theorem State.energy_of_owned {parts : List OwnedField} {s t : State} (hfree : .energy ∉ parts)
    (h : t.owned parts = s.owned parts) : t.energy = s.energy := by
  have hfield := congrArg OwnedState.energy h
  simpa [State.owned, hfree] using hfield

theorem State.brokenPipes_of_owned {parts : List OwnedField} {s t : State} (hfree : .brokenPipes ∉ parts)
    (h : t.owned parts = s.owned parts) : t.brokenPipes = s.brokenPipes := by
  have hfield := congrArg OwnedState.brokenPipes h
  simpa [State.owned, hfree] using hfield

theorem State.spi_of_owned {parts : List OwnedField} {s t : State} (hfree : .spi ∉ parts)
    (h : t.owned parts = s.owned parts) : t.spi = s.spi := by
  have hfield := congrArg OwnedState.spi h
  simpa [State.owned, hfree] using hfield

theorem State.fuses_of_owned {parts : List OwnedField} {s t : State} (hfree : .fuses ∉ parts)
    (h : t.owned parts = s.owned parts) : t.fuses = s.fuses := by
  have hfield := congrArg OwnedState.fuses h
  simpa [State.owned, hfree] using hfield

theorem State.fusedSvn_of_owned {parts : List OwnedField} {s t : State} (hfree : .fusedSvn ∉ parts)
    (h : t.owned parts = s.owned parts) : t.fusedSvn = s.fusedSvn := by
  have hfield := congrArg OwnedState.fusedSvn h
  simpa [State.owned, hfree] using hfield

theorem State.keyHash_of_owned {parts : List OwnedField} {s t : State} (hfree : .fuses ∉ parts)
    (h : t.owned parts = s.owned parts) : t.keyHash = s.keyHash := by
  have hfield := congrArg OwnedState.keyHash h
  simpa [State.owned, hfree] using hfield

/-! The owners of each part. -/

theorem changesFuses_or_kept {c : Instr} {P : Prop} (h : changesFuses c = false → P) :
    match (generalizing := false) c with
    | .fuseDone .. => True
    | _ => P := by
  cases c with
  | fuseDone => trivial
  | _ => exact h rfl

theorem changesFusedSvn_or_kept {c : Instr} {P : Prop} (h : changesFusedSvn c = false → P) :
    match (generalizing := false) c with
    | .fuseDone .. | .svnAdvance .. => True
    | _ => P := by
  cases c with
  | fuseDone | svnAdvance => trivial
  | _ => exact h rfl

theorem changesLead_or_kept {c : Instr} {P : Prop} (h : changesLead c = false → P) :
    match (generalizing := false) c with
    | .faultEvent .. | .resetAssert .. | .powerOnReset .. => True
    | _ => P := by
  cases c with
  | faultEvent | resetAssert | powerOnReset => trivial
  | _ => exact h rfl

theorem changesEnergy_or_kept {c : Instr} {P : Prop} (h : changesEnergy c = false → P) :
    match (generalizing := false) c with
    | .ledgerStep .. | .resetAssert .. | .powerOnReset .. => True
    | _ => P := by
  cases c with
  | ledgerStep | resetAssert | powerOnReset => trivial
  | _ => exact h rfl

theorem changesDrawn_or_kept {c : Instr} {P : Prop} (h : changesDrawn c = false → P) :
    match (generalizing := false) c with
    | .nfsEraseDone .. | .nfsFormatComplete .. | .nfsMounted .. => True
    | _ => P := by
  cases c with
  | nfsEraseDone | nfsFormatComplete | nfsMounted => trivial
  | _ => exact h rfl

theorem changesBrokenPipes_or_kept {c : Instr} {P : Prop} (h : changesBrokenPipes c = false → P) :
    match (generalizing := false) c with
    | .pipelineFault .. | .resetAssert .. | .powerOnReset .. => True
    | _ => P := by
  cases c with
  | pipelineFault | resetAssert | powerOnReset => trivial
  | _ => exact h rfl

theorem changesAlive_or_kept {c : Instr} {P : Prop} (h : changesAlive c = false → P) :
    match (generalizing := false) c with
    | .aliveToggle .. | .resetAssert .. | .powerOnReset .. => True
    | _ => P := by
  cases c with
  | aliveToggle | resetAssert | powerOnReset => trivial
  | _ => exact h rfl

theorem changesAliveRuns_or_kept {c : Instr} {P : Prop} (h : changesAliveRuns c = false → P) :
    match (generalizing := false) c with
    | .bootPlannerStart .. | .resetAssert .. | .powerOnReset .. => True
    | _ => P := by
  cases c with
  | bootPlannerStart | resetAssert | powerOnReset => trivial
  | _ => exact h rfl

theorem changesBeatsMissed_or_kept {c : Instr} {P : Prop} (h : changesBeatsMissed c = false → P) :
    match (generalizing := false) c with
    | .plannerHeartbeat .. | .heartbeatMiss .. | .resetAssert .. | .powerOnReset .. => True
    | _ => P := by
  cases c with
  | plannerHeartbeat | heartbeatMiss | resetAssert | powerOnReset => trivial
  | _ => exact h rfl

theorem changesSpi_or_kept {c : Instr} {P : Prop} (h : changesSpi c = false → P) :
    match (generalizing := false) c with
    | .spiRead .. | .spiReadFixed .. | .spiWrite .. | .spiWriteFixed .. | .spiStatus .. | .spiId .. | .spiReadTimeout
        .. | .spiWriteDrain .. | .resetAssert .. | .powerOnReset .. => True
    | _ => P := by
  cases c with
  | spiRead | spiReadFixed | spiWrite | spiWriteFixed | spiStatus | spiId | spiReadTimeout | spiWriteDrain |
      resetAssert | powerOnReset => trivial
  | _ => exact h rfl

theorem changesPwm_or_kept {c : Instr} {P : Prop} (h : changesPwm c = false → P) :
    match (generalizing := false) c with
    | .pwmEdge .. | .resetAssert .. | .powerOnReset .. => True
    | _ => P := by
  cases c with
  | pwmEdge | resetAssert | powerOnReset => trivial
  | _ => exact h rfl

theorem changesPairs_or_kept {c : Instr} {P : Prop} (h : changesPairs c = false → P) :
    match (generalizing := false) c with
    | .hkEntryResult .. | .hkPairTimeout .. | .resetAssert .. | .powerOnReset .. => True
    | _ => P := by
  cases c with
  | hkEntryResult | hkPairTimeout | resetAssert | powerOnReset => trivial
  | _ => exact h rfl

theorem changesHkAt_or_kept {c : Instr} {P : Prop} (h : changesHkAt c = false → P) :
    match (generalizing := false) c with
    | .hkEntryResult .. | .resetAssert .. | .powerOnReset .. => True
    | _ => P := by
  cases c with
  | hkEntryResult | resetAssert | powerOnReset => trivial
  | _ => exact h rfl

theorem changesHotLost_or_kept {c : Instr} {P : Prop} (h : changesHotLost c = false → P) :
    match (generalizing := false) c with
    | .railSequenceStep .. | .hkEntryResult .. | .resetAssert .. | .powerOnReset .. => True
    | _ => P := by
  cases c with
  | railSequenceStep | hkEntryResult | resetAssert | powerOnReset => trivial
  | _ => exact h rfl

theorem changesPowerGood_or_kept {c : Instr} {P : Prop} (h : changesPowerGood c = false → P) :
    match (generalizing := false) c with
    | .powerFail .. | .railOutOfTolerance .. | .powerRestore .. | .hkEntryResult .. => True
    | _ => P := by
  cases c with
  | powerFail | railOutOfTolerance | powerRestore | hkEntryResult => trivial
  | _ => exact h rfl

theorem changesResetLow_or_kept {c : Instr} {P : Prop} (h : changesResetLow c = false → P) :
    match (generalizing := false) c with
    | .resetAssert .. | .resetRelease .. | .powerOnReset .. => True
    | _ => P := by
  cases c with
  | resetAssert | resetRelease | powerOnReset => trivial
  | _ => exact h rfl

theorem changesRepairs_or_kept {c : Instr} {P : Prop} (h : changesRepairs c = false → P) :
    match (generalizing := false) c with
    | .repairPlace .. | .repairComplete .. | .faultEvent .. | .resetAssert .. | .powerOnReset .. => True
    | _ => P := by
  cases c with
  | repairPlace | repairComplete | faultEvent | resetAssert | powerOnReset => trivial
  | _ => exact h rfl

theorem changesTrgTx_or_kept {c : Instr} {P : Prop} (h : changesTrgTx c = false → P) :
    match (generalizing := false) c with
    | .triggerMessageSend .. | .triggerMessageRepeat .. | .frameTransmit .. | .resetAssert .. | .powerOnReset .. => True
    | _ => P := by
  cases c with
  | triggerMessageSend | triggerMessageRepeat | frameTransmit | resetAssert | powerOnReset => trivial
  | _ => exact h rfl

/-- Settles O13: the owned parts of `exec_keeps`, one by one. -/
theorem ownersOfState : Obligations.OwnersOfState := by
  unfold Obligations.OwnersOfState
  intro c s t h
  have hkept := exec_keeps c s t h
  have hfree : ∀ f, ownsPart f c = false → f ∉ mayChange c := fun f hf => by simp [mem_mayChange, hf]
  exact ⟨congrArg OwnedState.pending hkept, congrArg OwnedState.part hkept, congrArg OwnedState.suffixE hkept,
      changesFuses_or_kept (fun h => ⟨State.fuses_of_owned (hfree .fuses h) hkept, State.keyHash_of_owned (hfree
      .fuses h) hkept⟩),
    changesFusedSvn_or_kept (fun h => State.fusedSvn_of_owned (hfree .fusedSvn h) hkept),
    changesLead_or_kept (fun h => ⟨State.lead_of_owned (hfree .lead h) hkept, State.controlLost_of_owned (hfree .lead
        h) hkept⟩),
    changesEnergy_or_kept (fun h => State.energy_of_owned (hfree .energy h) hkept),
    changesDrawn_or_kept (fun h => State.drawn_of_owned (hfree .drawn h) hkept),
    changesBrokenPipes_or_kept (fun h => State.brokenPipes_of_owned (hfree .brokenPipes h) hkept),
    changesAlive_or_kept (fun h => State.alive_of_owned (hfree .alive h) hkept),
    changesAliveRuns_or_kept (fun h => State.aliveRuns_of_owned (hfree .aliveRuns h) hkept),
    changesBeatsMissed_or_kept (fun h => State.beatsMissed_of_owned (hfree .beatsMissed h) hkept),
    changesSpi_or_kept (fun h => State.spi_of_owned (hfree .spi h) hkept),
    changesPwm_or_kept (fun h => State.pwm_of_owned (hfree .pwm h) hkept),
    changesPairs_or_kept (fun h => State.pairs_of_owned (hfree .pairs h) hkept),
    changesHkAt_or_kept (fun h => State.hkAt_of_owned (hfree .hkAt h) hkept),
    changesHotLost_or_kept (fun h => State.hotLost_of_owned (hfree .hotLost h) hkept),
    changesPowerGood_or_kept (fun h => State.powerGood_of_owned (hfree .powerGood h) hkept),
    changesResetLow_or_kept (fun h => State.resetLow_of_owned (hfree .resetLow h) hkept),
    changesRepairs_or_kept (fun h => State.repairs_of_owned (hfree .repairs h) hkept),
    changesTrgTx_or_kept (fun h => State.trgTx_of_owned (hfree .trgTx h) hkept)⟩

end Sys2Proof.Machine
end

section
/-! PROOFS. The invariant of every step (R5, R490, R622): capture memory stays canonical and the leading hub exists. The
operations that touch neither keep it by their rules above; here stand those that do. -/

namespace Sys2Proof.Machine

/-- All parts with owners but capture memory and the leading hub. -/
def memParts : List OwnedField := allParts.filter fun f => decide (f ≠ .cap) && decide (f ≠ .lead)

@[simp] theorem mem_memParts (f : OwnedField) : f ∈ memParts ↔ f ≠ .cap ∧ f ≠ .lead := by
  cases f <;> decide

/-- Capture memory is canonical, and the hub that leads exists. -/
def OwnedState.Ok (o : OwnedState) : Prop := Memory.wf o.cap ∧ (o.lead = 0 ∨ (o.lead = 1 ∧ o.part = .s8d))

/-- What the invariant `Inv` speaks of: capture memory, the leading hub and the part. -/
abbrev State.held (s : State) : OwnedState := s.owned memParts

theorem State.held_ok_iff (s : State) : s.held.Ok ↔ Inv s := by
  have hcap : s.held.cap = s.cap := by simp [State.held, State.owned]
  have hlead : s.held.lead = s.lead := by simp [State.held, State.owned]
  have hpart : s.held.part = s.part := rfl
  rw [OwnedState.Ok, hcap, hlead, hpart]
  exact ⟨fun h => ⟨h.1, h.2⟩, fun h => ⟨h.memory, h.lead⟩⟩

/-- An operation of capture memory keeps the invariant if it keeps the canonical form. -/
theorem State.held_ok_of_memory {s t : State} (hs : s.held.Ok) (hcap : Memory.wf s.cap → Memory.wf t.cap)
    (hlead : t.lead = s.lead) (hpart : t.part = s.part) : t.held.Ok := by
  rw [State.held_ok_iff] at hs ⊢
  exact ⟨hcap hs.memory, by rw [hlead, hpart]; exact hs.lead⟩

@[simp] theorem OwnedState.ok_ite (c : Prop) [Decidable c] (x y : OwnedState) :
    (if c then x else y).Ok ↔ if c then x.Ok else y.Ok := by
  split <;> rfl

theorem State.held_foldl {β : Type} (f : State → β → State) (xs : List β) {s : State} (hs : s.held.Ok)
    (hf : ∀ s b, s.held.Ok → (f s b).held.Ok) : (xs.foldl f s).held.Ok := by
  induction xs generalizing s with
  | nil => exact hs
  | cons x xs ih => exact ih (hf s x hs)

/-- The answer `o` to a command meets the invariant. -/
def AnswersOk (o : Host.Outcome State Fault Refusal) : Prop := ∀ t, o = .next t → t.held.Ok

@[simp] theorem answersOk_next (t : State) : AnswersOk (.next t) ↔ t.held.Ok := by simp [AnswersOk]

@[simp] theorem answersOk_ite (c : Prop) [Decidable c] (o p : Host.Outcome State Fault Refusal) :
    AnswersOk (if c then o else p) ↔ if c then AnswersOk o else AnswersOk p := by
  split <;> rfl

theorem Keeps.answersOk {s : State} {o : Host.Outcome State Fault Refusal} (h : Keeps memParts s o) (hs : s.held.Ok) :
    AnswersOk o := by
  intro t ht
  rw [State.held, h t ht]
  exact hs


/-! The operations of Sys2Proof/Machine/Ops.lean. -/

@[simp] theorem State.setRaw_held {s : State} (h a : Nat) (v : Byte) (hs : s.held.Ok) :
    (State.setRaw s h a v).held.Ok := State.held_ok_of_memory hs (State.setRaw_wf h a v) rfl rfl

@[simp] theorem State.putRaw_held {s : State} (h a : Nat) (l : List Byte) (hs : s.held.Ok) :
    (State.putRaw s h a l).held.Ok := State.held_ok_of_memory hs (State.putRaw_wf h a l) rfl rfl

@[simp] theorem State.putBoot_held {s : State} (h a : Nat) (l : List Byte) (hs : s.held.Ok) :
    (State.putBoot s h a l).held.Ok := State.held_ok_of_memory hs (State.putBoot_wf h a l) (by simp) (by simp)

@[simp] theorem State.setBytes_held {s : State} (h a : Nat) (l : List Byte) (hs : s.held.Ok) :
    (State.setBytes s h a l).held.Ok := State.held_ok_of_memory hs (State.setBytes_wf h a l) (by simp) (by simp)

@[simp] theorem State.ringBytes_held {s : State} (h base size pos : Nat) (l : List Byte) (hs : s.held.Ok) :
    (State.ringBytes s h base size pos l).held.Ok := by
  unfold State.ringBytes
  split <;> simp [hs]

@[simp] theorem State.zeroRange_held {s : State} (h lo hi : Nat) (hs : s.held.Ok) :
    (State.zeroRange s h lo hi).held.Ok := by
  refine State.held_ok_of_memory hs (State.zeroRange_wf h lo hi) ?_ ?_ <;>
  · unfold State.zeroRange
    dsimp only
    split <;> rfl


/-! The operations of Sys2Proof/Machine/Level.lean. -/

@[simp] theorem sendItem_held (inp : Nat) (bytes : List Byte) {s : State} (hs : s.held.Ok) :
    (sendItem inp bytes s).held.Ok := by
  unfold sendItem
  extract_lets r u v w
  have hu : u.held.Ok := hs
  have hw : w.held.Ok := by
    simp only [w]
    split
    · exact hu
    · have hv : v.held.Ok := by simp [v, hu]
      exact hv
  simp [hw]


/-! The operations of Sys2Proof/Machine/Wb.lean. -/

@[simp] theorem emitTrace_held (t : Nat) (extra : Nat) {s : State} (hs : s.held.Ok) :
    (emitTrace t extra s).held.Ok := by
  simp [emitTrace, hs]

@[simp] theorem averager_held (t : Nat) (d : Det) {s : State} (hs : s.held.Ok) :
    (averager t d s).held.Ok := by
  simp [averager, hs]

@[simp] theorem closeDet_held (t : Nat) (d : Det) {s : State} (hs : s.held.Ok) :
    (closeDet t d s).held.Ok := by
  simp [closeDet, hs]

@[simp] theorem passShort_held (t : Nat) (d : Det) {s : State} (hs : s.held.Ok) :
    (passShort t d s).held.Ok := by
  simp [passShort, hs]

@[simp] theorem passParts_held (t : Nat) (n : Nat) {s : State} (hs : s.held.Ok) : (passParts t n s).held.Ok := by
  induction n generalizing s with
  | zero => exact hs
  | succ n ih =>
    simp [passParts, ih, hs]

@[simp] theorem partialClose_held (t idx : Nat) {s : State} (hs : s.held.Ok) :
    (partialClose t idx s).held.Ok := by
  simp [partialClose, hs]

@[simp] theorem specOut_held (q : WbSet) (i : SpecInfo) (sat : Nat) (bins : List (Int × Int)) (e : Nat) {s : State}
    (hs : s.held.Ok) :
    (specOut q i sat bins e s).held.Ok := by
  simp [specOut, hs]

@[simp] theorem specDetect_held (i : SpecInfo) {s : State} (hs : s.held.Ok) :
    (specDetect i s).held.Ok := by
  simp [specDetect, hs]


/-! The operations of Sys2Proof/Machine/CpuCtl.lean. -/

@[simp] theorem execCoreBlockWritten_answersOk (t : TDie) (c : CoreIx) (p : Fin 2) {s : State} (hs : s.held.Ok) :
    AnswersOk (execCoreBlockWritten t c p s) := by
  simp only [execCoreBlockWritten]
  split <;> simp [hs]


/-! The operations of Sys2Proof/Machine/Nfs.lean. -/

@[simp] theorem execNfsReadDone_answersOk (h : Hub) (x : NandRead) {s : State} (hs : s.held.Ok) :
    AnswersOk (execNfsReadDone h x s) := by
  unfold execNfsReadDone
  extract_lets b q num ofs len safe n info dead weak data u v set w₁ w₂ w₃ w₄ w
  have hset : ∀ c f (x : State), (set c f x).held = x.held := fun c f x => by simp [set]
  have hw : w.held.Ok := by simp [w, w₄, w₃, w₂, w₁, v, u, hset, hs]
  split
  · simp [hs]
  · rw [answersOk_next]
    split <;> simp [hw]


/-! The operations of Sys2Proof/Machine/Rec.lean. -/

@[simp] theorem blockWrite_held (l : Nat) {s : State} (hs : s.held.Ok) :
    (blockWrite l s).held.Ok := by
  simp [blockWrite, hs]

@[simp] theorem stagePush_held (l : Nat) (pad : Bool) {s : State} (hs : s.held.Ok) :
    (stagePush l pad s).held.Ok := by
  simp only [stagePush]
  split <;> simp [hs]

@[simp] theorem recFinish_held (l : Nat) {s : State} (hs : s.held.Ok) :
    (recFinish l s).held.Ok := by
  simp [recFinish, hs]

@[simp] theorem recArm_held (l : Nat) {s : State} (hs : s.held.Ok) :
    (recArm l s).held.Ok := by
  simp [recArm, hs]

@[simp] theorem recStop_held (l : Nat) {s : State} (hs : s.held.Ok) :
    (recStop l s).held.Ok := by
  simp [recStop, hs]

@[simp] theorem execRecArm_answersOk (t : TDie) {s : State} (hs : s.held.Ok) :
    AnswersOk (execRecArm t s) := by
  simp [execRecArm, hs]

@[simp] theorem execRecStop_answersOk (t : TDie) {s : State} (hs : s.held.Ok) :
    AnswersOk (execRecStop t s) := by
  simp [execRecStop, hs]

@[simp] theorem stageBytes_held (l : Nat) (bytes : List Byte) {s : State} (hs : s.held.Ok) :
    (stageBytes l bytes s).held.Ok := by
  simp [stageBytes, hs]

@[simp] theorem streamCopy_held (l : Nat) (g : RecSeg) {s : State} (hs : s.held.Ok) :
    (streamCopy l g s).held.Ok := by
  simp [streamCopy, hs]

@[simp] theorem segsAdvance_held (l : Nat) {s : State} (hs : s.held.Ok) :
    (segsAdvance l s).held.Ok := by
  unfold segsAdvance
  (repeat' split) <;> simp [hs]

@[simp] theorem execTarnBlockWrite_answersOk (t : TDie) {s : State} (hs : s.held.Ok) :
    AnswersOk (execTarnBlockWrite t s) := by
  simp [execTarnBlockWrite, hs]

@[simp] theorem completeSegment_held (l : Nat) (g : RecSeg) {s : State} (hs : s.held.Ok) :
    (completeSegment l g s).held.Ok := by
  simp [completeSegment, hs]

@[simp] theorem execSegmentComplete_answersOk (t : TDie) {s : State} (hs : s.held.Ok) :
    AnswersOk (execSegmentComplete t s) := by
  simp only [execSegmentComplete]
  split <;> simp [hs]

@[simp] theorem coClose_held (l : Nat) {s : State} (hs : s.held.Ok) :
    (coClose l s).held.Ok := by
  unfold coClose
  split <;> simp [hs]

@[simp] theorem coReady_held (i idx sts : Nat) (lv : List Int) (n : Nat) {s : State} (hs : s.held.Ok) : (coReady i idx
    sts lv n s).held.Ok := by
  induction n generalizing s with
  | zero => exact hs
  | succ n ih =>
    simp [coReady, ih, hs]

@[simp] theorem coRestart_held (l : Nat) {s : State} (hs : s.held.Ok) :
    (coRestart l s).held.Ok := by
  simp [coRestart, hs]

@[simp] theorem coBin_held (l idx sts k n : Nat) (lv : List Int) (bin : Nat) {s : State} (hs : s.held.Ok) :
    (coBin l idx sts k n lv bin s).held.Ok := by
  simp [coBin, hs]

@[simp] theorem coSpectrum_held (src : Nat) (i : SpecInfo) {s : State} (hs : s.held.Ok) :
    (coSpectrum src i s).held.Ok := by
  unfold coSpectrum
  extract_lets l idx c spans u n v lastBin w
  have hu : u.held.Ok := by simp [u, hs]
  split
  · exact hu
  · have hv : v.held.Ok := by simp [v, hu]
    have hw : w.held.Ok := State.held_foldl _ _ hv fun x k hx => by simp [hx]
    split
    · split <;> simp [hw]
    · exact hw

@[simp] theorem coDisable_held (l : Nat) {s : State} (hs : s.held.Ok) :
    (coDisable l s).held.Ok := by
  simp [coDisable, hs]

@[simp] theorem execCoBlockFlush_answersOk (t : TDie) {s : State} (hs : s.held.Ok) :
    AnswersOk (execCoBlockFlush t s) := by
  simp [execCoBlockFlush, hs]

@[simp] theorem detectedOut_held (l : Nat) {s : State} (hs : s.held.Ok) :
    (detectedOut l s).held.Ok := by
  unfold detectedOut
  extract_lets ds u
  exact State.held_foldl _ _ hs fun v d hv => by simp [hv]


/-! The operations of Sys2Proof/Machine/Chz.lean. -/

@[simp] theorem execZoomBlockWritten_answersOk (t : TDie) (n : Fin 128) {s : State} (hs : s.held.Ok) :
    AnswersOk (execZoomBlockWritten t n s) := by
  simp only [execZoomBlockWritten]
  (repeat' split) <;> simp [hs]


/-! The operations of Sys2Proof/Machine/Dens.lean. -/

@[simp] theorem execDensFrameWritten_answersOk (t : TDie) {s : State} (hs : s.held.Ok) :
    AnswersOk (execDensFrameWritten t s) := by
  unfold execDensFrameWritten
  split <;> simp [hs]

@[simp] theorem execSgRowWritten_answersOk (t : TDie) {s : State} (hs : s.held.Ok) :
    AnswersOk (execSgRowWritten t s) := by
  unfold execSgRowWritten
  split <;> simp [hs]

@[simp] theorem execDensRowRepair_answersOk (t : TDie) (first : Nat) {s : State} (hs : s.held.Ok) :
    AnswersOk (execDensRowRepair t first s) := by
  unfold execDensRowRepair
  split <;> simp [hs]


/-! The operations of Sys2Proof/Machine/Spectrum.lean. -/

@[simp] theorem specConsume_held (l : Nat) (r : SpecResult) {s : State} (hs : s.held.Ok) :
    (specConsume l r s).held.Ok := by
  simp [specConsume, hs]

@[simp] theorem specRelease_held (i : Nat) (n : Nat) {s : State} (hs : s.held.Ok) : (specRelease i n s).held.Ok := by
  induction n generalizing s with
  | zero => exact hs
  | succ n ih =>
    unfold specRelease
    extract_lets w u
    split
    · split
      · split <;> simp [u, ih, hs]
      · simp [u, ih, hs]
    · exact hs

@[simp] theorem specReleaseAll_held (l : Nat) {s : State} (hs : s.held.Ok) :
    (specReleaseAll l s).held.Ok := by
  simp [specReleaseAll, hs]

@[simp] theorem specFlush_held (l : Nat) {s : State} (hs : s.held.Ok) :
    (specFlush l s).held.Ok := State.held_foldl _ _ hs fun u r hu => by simp [hu]

@[simp] theorem wbClose_held (l idx : Nat) {s : State} (hs : s.held.Ok) :
    (wbClose l idx s).held.Ok := by
  have hu : (partialClose l idx (densClose l idx (specFlush l s))).held.Ok := by simp [hs]
  exact detectedOut_held _ hu

@[simp] theorem execWbSwitch_answersOk (t : TDie) {s : State} (hs : s.held.Ok) :
    AnswersOk (execWbSwitch t s) := by
  unfold execWbSwitch
  split <;> simp [hs]

@[simp] theorem specReplay_held (t start : Nat) {s : State} (hs : s.held.Ok) :
    (specReplay t start s).held.Ok := by
  simp only [specReplay]
  split <;> simp [hs]

@[simp] theorem execSpectrumComplete_answersOk (t : TDie) (start : Nat) (replay : Bool) {s : State} (hs : s.held.Ok) :
    AnswersOk (execSpectrumComplete t start replay s) := by
  unfold execSpectrumComplete
  extract_lets l q
  split
  · simp [hs]
  · split
    · simp [hs]
    · split
      · simp [hs]
      · rw [answersOk_next]
        refine detectedOut_held _ (specReleaseAll_held _ ?_)
        rw [State.held, State.modTrg_owned]
        refine specDetect_held _ (specOut_held _ _ _ _ _ ?_)
        simp [hs]

@[simp] theorem execDetectMerge_answersOk (t : TDie) {s : State} (hs : s.held.Ok) :
    AnswersOk (execDetectMerge t s) := by
  simp [execDetectMerge, hs]

@[simp] theorem execTraceRepairOutput_answersOk (t : TDie) (first : Nat) {s : State} (hs : s.held.Ok) :
    AnswersOk (execTraceRepairOutput t first s) := by
  simp only [execTraceRepairOutput]
  split <;> simp [hs]


/-! The operations of Sys2Proof/Machine/Stream.lean. -/

@[simp] theorem streamStop_held (inp j : Nat) {s : State} (hs : s.held.Ok) :
    (streamStop inp j s).held.Ok := by
  simp [streamStop, hs]


/-! The operations of Sys2Proof/Machine/Acq.lean. -/

@[simp] theorem acqDisable_held (a : Nat) {s : State} (hs : s.held.Ok) :
    (acqDisable a s).held.Ok := by
  simp [acqDisable, hs]

@[simp] theorem execAcqDisable_answersOk (a : ADie) {s : State} (hs : s.held.Ok) :
    AnswersOk (execAcqDisable a s) := by
  simp [execAcqDisable, hs]


/-! The operations of Sys2Proof/Machine/Jrx.lean. -/

@[simp] theorem jrxDisable_held (j : Nat) {s : State} (hs : s.held.Ok) :
    (jrxDisable j s).held.Ok := by
  unfold jrxDisable
  extract_lets run u
  have hu : u.held.Ok := by simp [u, hs]
  clear_value u
  split
  · exact streamStop_held _ _ hu
  · exact hu


/-! The operations of Sys2Proof/Machine/Ddr.lean. -/

@[simp] theorem ddrAcceptOne_held (h : Nat) (r : DdrReq) {s : State} (hs : s.held.Ok) :
    (ddrAcceptOne h r s).held.Ok := by
  simp [ddrAcceptOne, hs]

@[simp] theorem execDdrWriteAccept_answersOk (h : Hub) (l : List DdrReq) {s : State} (hs : s.held.Ok) :
    AnswersOk (execDdrWriteAccept h l s) := by
  rw [execDdrWriteAccept, answersOk_next]
  split
  · exact State.held_foldl _ _ hs fun u src hu => State.held_foldl _ _ hu fun v r hv => by simp [hv]
  · exact hs

@[simp] theorem ddrZero_held (h c : Nat) {s : State} (hs : s.held.Ok) :
    (ddrZero h c s).held.Ok := State.held_ok_of_memory hs (twf_filter _) rfl rfl

@[simp] theorem execDdrRelease_answersOk (h : Hub) (c : Fin 2) (t : DdrTrain) {s : State} (hs : s.held.Ok) :
    AnswersOk (execDdrRelease h c t s) := by
  simp [execDdrRelease, hs]


/-! The operations of Sys2Proof/Machine/Bus.lean. -/

@[simp] theorem apertureWrite_held (host : Bool) (h o addr v : Nat) {s : State} (hs : s.held.Ok) :
    (apertureWrite host h o addr v s).held.Ok := by
  simp [apertureWrite, hs]

@[simp] theorem acqWrote_held (i o old new wo : Nat) {s : State} (hs : s.held.Ok) :
    (acqWrote i o old new wo s).held.Ok := by
  unfold acqWrote
  (repeat' split) <;> simp [hs]

@[simp] theorem jrxWrote_held (o old new : Nat) {s : State} (hs : s.held.Ok) :
    (jrxWrote o old new s).held.Ok := by
  simp [jrxWrote, hs]

@[simp] theorem recWrote_held (i o old new wo : Nat) {s : State} (hs : s.held.Ok) :
    (recWrote i o old new wo s).held.Ok := by
  simp [recWrote, hs]

@[simp] theorem wrote_held (normal : Bool) (b : Block) (i o old new wo : Nat) {s : State} (hs : s.held.Ok) :
    (wrote normal b i o old new wo s).held.Ok := by
  unfold wrote
  split <;> simp [hs]

@[simp] theorem fieldWrite_held (al : Nat) (b : Block) (i o a addr : Nat) (r : RegDesc) (m : Nat) {s : State} (hs :
    s.held.Ok) :
    (fieldWrite al b i o a addr r m s).held.Ok := by
  simp [fieldWrite, hs]

theorem specialWrite_held {p : Path} {al : Nat} {b : Block} {i o addr m : Nat} {s u : State} (hs : s.held.Ok)
    (h : specialWrite p al b i o addr m s = some u) : u.held.Ok := by
  cases b <;> simp only [specialWrite, reduceCtorEq, Option.some.injEq] at h
  case pwr => split_ifs at h; cases h; simp [hs]
  case fcol => split_ifs at h <;> cases h <;> simp [hs]
  case dma => split_ifs at h <;> cases h <;> simp [hs]
  case tdc => split_ifs at h; cases h; exact hs
  case cctl =>
    split at h
    · split at h
      · rw [← Option.some.inj h]
        split_ifs <;> simp [hs]
      · split at h
        · rw [← Option.some.inj h]
          split_ifs <;> simp [hs]
        · split at h
          · obtain ⟨d, -, rfl⟩ := Option.map_eq_some_iff.mp h
            simp [hs]
          · cases h
    · cases h
  case mbox => subst h; simp [hs]
  case core => subst h; simp [hs]
  case aperture => subst h; simp [hs]

@[simp] theorem busWrite_held (p : Path) (addr m : Nat) {s : State} (hs : s.held.Ok) :
    (busWrite p addr m s).held.Ok := by
  unfold busWrite
  extract_lets u w al m
  have hu : u.held.Ok := hs
  clear_value u
  split
  · exact hu
  · exact hu
  · simpa using hu
  · split
    · simp [hu]
    · split
      · exact hu
      · split
        case h_1 t hspecial => exact specialWrite_held hu hspecial
        case h_2 => split <;> simp [hu]

@[simp] theorem busWrites_held (p : Path) (xs : List (Nat × Nat)) {s : State} (hs : s.held.Ok) :
    (busWrites p xs s).held.Ok := by
  induction xs generalizing s with
  | nil => exact hs
  | cons x xs ih => simp [busWrites, ih, hs]


/-! The operations of Sys2Proof/Machine/Keys.lean. -/

@[simp] theorem setFld_held (b : Nat) (f : Fld) (v : Nat) {s : State} (hs : s.held.Ok) :
    (setFld b f v s).held.Ok := by
  unfold setFld
  split <;> simp [hs]

@[simp] theorem setFlds_held (b : Nat) (l : List (Fld × Nat)) {s : State} (hs : s.held.Ok) :
    (setFlds b l s).held.Ok := State.held_foldl _ _ hs fun u x hu => by simp [hu]

@[simp] theorem portFill_held (addr data first : Nat) (l : List Nat) {s : State} (hs : s.held.Ok) :
    (portFill addr data first l s).held.Ok := State.held_foldl _ _ (by simp [hs]) fun u v hu => by simp [hu]

@[simp] theorem setRate_held (l : Nat) (f : Fld) (hz : Rat) {s : State} (hs : s.held.Ok) :
    (setRate l f hz s).held.Ok := by
  simp [setRate, hs]

@[simp] theorem clkOut_held (h o : Nat) (hz : Rat) (fmt src : Nat) (pct : Rat) {s : State} (hs : s.held.Ok) :
    (clkOut h o hz fmt src pct s).held.Ok := by
  unfold clkOut
  extract_lets b ob ref div n int fr u v
  have hu : u.held.Ok := by simp [u, hs]
  have hv : v.held.Ok := by simp [v, hu]
  split
  · exact hu
  · simp [hv]

@[simp] theorem hkSequence_held (h c : Nat) (l : List (Nat × Nat × Nat)) {s : State} (hs : s.held.Ok) :
    (hkSequence h c l s).held.Ok := by
  unfold hkSequence
  extract_lets b u
  have hu : u.held.Ok := State.held_foldl _ _ hs fun v x hv => by simp [hv]
  simp [hu]

/-- Every settings key among `rows` keeps the invariant when it is applied. -/
def ActsOk (rows : List KeyRow) : Prop :=
  ∀ r ∈ rows, ∀ a v s, s.held.Ok → (r.act a v s).held.Ok
@[simp] theorem actsOk_nil : ActsOk [] := by simp [ActsOk]
@[simp] theorem actsOk_cons (r : KeyRow) (rows : List KeyRow) :
    ActsOk (r :: rows) ↔ (∀ a v s, s.held.Ok → (r.act a v s).held.Ok) ∧ ActsOk rows := by
  simp [ActsOk]
@[simp] theorem actsOk_append (rows more : List KeyRow) : ActsOk (rows ++ more) ↔ ActsOk rows ∧ ActsOk more := by
  simp [ActsOk, or_imp, forall_and]
theorem actsOk_map {β : Type} (f : β → KeyRow) (xs : List β)
    (h : ∀ x a v s, s.held.Ok → ((f x).act a v s).held.Ok) : ActsOk (xs.map f) := by
  intro r hr
  obtain ⟨x, -, rfl⟩ := List.mem_map.mp hr
  exact h x
@[simp] theorem actsOk_keysAt (pre : List Seg) (b : List Nat → Nat)
    (xs : List (String × Gram × (KeyVal → List (Fld × Nat)))) : ActsOk (keysAt pre b xs) :=
  actsOk_map _ _ fun _ _ _ _ hs => setFlds_held _ _ hs
@[simp] theorem actsOk_keysBoth (pre : String) (b : Nat → List Nat)
    (xs : List (String × Gram × (KeyVal → List (Fld × Nat)))) : ActsOk (keysBoth pre b xs) :=
  actsOk_map _ _ fun _ _ _ _ hs => State.held_foldl _ _ hs fun _ _ hu => setFlds_held _ _ hu
theorem actsOk_keysAcq : ActsOk keysAcq := by
  simp +contextual [keysAcq]
theorem actsOk_keysJrx : ActsOk keysJrx := by
  simp +contextual [keysJrx]
theorem actsOk_keysWb : ActsOk keysWb := by
  simp +contextual [keysWb]
theorem actsOk_keysTrg : ActsOk keysTrg := by
  simp +contextual [keysTrg]
theorem actsOk_keysRec : ActsOk keysRec := by
  simp +contextual [keysRec]
theorem actsOk_keysDens : ActsOk keysDens := by
  simp +contextual [keysDens]
theorem actsOk_keysZoom : ActsOk keysZoom := by
  refine (actsOk_append _ _).mpr ⟨(actsOk_append _ _).mpr ⟨actsOk_map _ _ fun _ _ _ _ hs => hs,
    actsOk_map _ _ fun _ _ _ _ hs => hs⟩, ?_⟩
  simp only [actsOk_cons, actsOk_nil, and_true]
  exact ⟨fun _ _ _ hs => State.held_foldl _ _ hs fun _ _ hu => setFld_held _ _ _ hu,
    fun _ _ _ hs => State.held_foldl _ _ hs fun _ _ hu => setFld_held _ _ _ hu⟩
theorem actsOk_keysPwr : ActsOk keysPwr := by
  simp +contextual [keysPwr]
theorem actsOk_keysTime : ActsOk keysTime := by
  simp +contextual [keysTime]
theorem actsOk_keysTdc : ActsOk keysTdc := by
  simp +contextual [keysTdc]
theorem actsOk_keysNfs : ActsOk keysNfs := by
  simp +contextual [keysNfs]
theorem actsOk_keysDdr : ActsOk keysDdr := by
  simp only [keysDdr, actsOk_append, actsOk_cons, actsOk_nil, actsOk_keysBoth, and_true, true_and]
  exact ⟨fun _ _ _ hs => State.held_foldl _ _ hs fun _ _ hu =>
      State.held_foldl _ _ (setFld_held _ _ _ hu) fun _ _ hw => setFld_held _ _ _ hw,
    fun _ _ _ hs => State.held_foldl _ _ hs fun _ _ hu =>
      State.held_foldl _ _ (setFld_held _ _ _ hu) fun _ _ hw => setFld_held _ _ _ hw⟩
theorem actsOk_keysDma : ActsOk keysDma := by
  simp +contextual [keysDma]
/-- The prefixes from which a hub answers management. -/
theorem mgmtAllow_held (h : Nat) (v : KeyVal) {s : State} (hs : s.held.Ok) :
    (setFld (ethB h) R.ETH_MGMT_ALLOW_EN (2 ^ v.length - 1) (v.zipIdx.foldl (fun s x => mboxPut h 0x72 x.2
      (KeyVal.n [x.1] 0 + 2 ^ 128 * (KeyVal.n [x.1] 1 + 256 * KeyVal.n [x.1] 2)) s) s)).held.Ok :=
  setFld_held _ _ _ (State.held_foldl _ _ hs fun _ _ hu => by simp [hu])
theorem actsOk_keysEth : ActsOk keysEth := by
  simp +contextual [keysEth, mgmtAllow_held, -Nat.reducePow]
theorem actsOk_keysDisp : ActsOk keysDisp := by
  simp +contextual [keysDisp]
theorem actsOk_keysClk : ActsOk keysClk := by
  simp +contextual [keysClk]
theorem actsOk_keysHk : ActsOk keysHk := by
  simp +contextual [keysHk]
theorem actsOk_keysFault : ActsOk keysFault := by
  simp +contextual [keysFault]
theorem actsOk_keyRows : ActsOk keyRows := by
  simp [keyRows, actsOk_keysAcq, actsOk_keysJrx, actsOk_keysWb, actsOk_keysTrg, actsOk_keysRec, actsOk_keysDens,
      actsOk_keysZoom, actsOk_keysPwr, actsOk_keysTime, actsOk_keysTdc, actsOk_keysNfs, actsOk_keysDdr,
      actsOk_keysDma, actsOk_keysEth, actsOk_keysDisp, actsOk_keysClk, actsOk_keysHk, actsOk_keysFault]
@[simp] theorem keyApply_held (k : KeyRec) {s : State} (hs : s.held.Ok) : (keyApply k s).held.Ok := by
  unfold keyApply
  split
  · exact actsOk_keyRows _ (keyValue_mem ‹_›) _ _ _ hs
  · exact hs


/-! The operations of Sys2Proof/Machine/Place.lean. -/

@[simp] theorem placePipes_held (i : Nat) {s : State} (hs : s.held.Ok) :
    (placePipes i s).held.Ok := by
  simp [placePipes, hs]

@[simp] theorem placeZoom_held (keys : List KeyRec) {s : State} (p : ZoomPlace) (hs : s.held.Ok) :
    (placeZoom keys s p).held.Ok := by
  simp [placeZoom, hs]

@[simp] theorem selectWords_held (a words : Nat) (l : List Nat) {s : State} (hs : s.held.Ok) :
    (selectWords a words l s).held.Ok := State.held_foldl _ _ hs fun u k hu => by split <;> simp [hu]

@[simp] theorem placeCore_held (keys : List KeyRec) (zooms : List ZoomPlace) (rings : List CorePlace) {s : State} (x :
    Nat × Nat) (hs : s.held.Ok) :
    (placeCore keys zooms rings s x).held.Ok := by
  simp [placeCore, hs]

@[simp] theorem placeZooms_held (keys : List KeyRec) (new : List ZoomPlace) (rings : List CorePlace) {s : State} (hs :
    s.held.Ok) :
    (placeZooms keys new rings s).held.Ok := by
  unfold placeZooms
  extract_lets cores u v
  have hu : u.held.Ok := State.held_foldl _ _ hs fun x n hx => by simp [hx]
  have hv : v.held.Ok := State.held_foldl _ _ hu fun x n hx => by simp [hx]
  refine State.held_foldl _ _ hv fun x t hx => ?_
  dsimp only
  split
  · exact hx
  · exact selectWords_held _ _ _ (selectWords_held _ _ _ (setFld_held _ _ _ hx))

@[simp] theorem placeMask_held (i : Nat) (held : List (List KAtom)) (x : List KAtom × Nat) {s : State} (hs :
    s.held.Ok) :
    (placeMask i held x s).held.Ok := by
  unfold placeMask
  split <;> simp [hs]

@[simp] theorem placeMasks_held (keys : List KeyRec) (i : Nat) (held : List (List KAtom)) {s : State} (hs : s.held.Ok) :
    (placeMasks keys i held s).held.Ok := by
  unfold placeMasks
  extract_lets masks l u
  have hu : u.held.Ok := State.held_foldl _ _ hs fun v x hv => by simp [hv]
  refine State.held_foldl _ _ hu fun v k hv => ?_
  split
  · split <;> simp [hv]
  · exact hv

@[simp] theorem placeRoute_held {s : State} (x : (List Byte × Nat) × Fin 64) (hs : s.held.Ok) :
    (placeRoute s x).held.Ok := by
  unfold placeRoute
  split <;> simp [hs]


/-! The operations of Sys2Proof/Machine/Loads.lean. -/

@[simp] theorem applyKeys_held (keys : List KeyRec) {s : State} (hs : s.held.Ok) :
    (applyKeys keys s).held.Ok := State.held_foldl _ _ hs fun u k hu => by simp [hu]

@[simp] theorem applySettings_held (keys : List KeyRec) (inputs : List Nat) {s : State} (hs : s.held.Ok) :
    (applySettings keys inputs s).held.Ok := by
  simp [applySettings, hs]


/-! The operations of Sys2Proof/Machine/Plan.lean. -/

@[simp] theorem settled_held {s : State} (n : Nat) (hs : s.held.Ok) :
    (settled s n).held.Ok := by
  simp [settled, hs]

@[simp] theorem commitInput_held (keys : List KeyRec) (i : Nat) {s : State} (hs : s.held.Ok) :
    (commitInput keys i s).held.Ok := by
  unfold commitInput
  extract_lets l u v
  have hu : u.held.Ok := by simp [u, hs]
  have hv : v.held.Ok := by simp only [v]; split <;> simp [hu]
  split <;> simp [hv]

@[simp] theorem enableInput_held (keys : List KeyRec) (i : Nat) {s : State} (hs : s.held.Ok) :
    (enableInput keys i s).held.Ok := by
  unfold enableInput
  extract_lets l u v w host co x y
  have hu : u.held.Ok := by simp [u, hs]
  have hv : v.held.Ok := by simp only [v]; split <;> simp [hu]
  have hw : w.held.Ok := by simp [w, hv]
  have hx : x.held.Ok := by simp only [x]; split <;> simp [hw]
  have hy : y.held.Ok := by simp [y, hx]
  split
  · exact hx
  · split <;> simp [hy]

@[simp] theorem placePlan_held (n : Nat) (p : PlanNeed) {s : State} (hs : s.held.Ok) :
    (placePlan n p s).held.Ok := by
  unfold placePlan
  extract_lets run keys inputs new t₀ held t₁ t₂ t₃ t₄ t₅
  have h₀ : t₀.held.Ok := by simp [t₀, hs]
  have h₁ : t₁.held.Ok := State.held_foldl _ _ h₀ fun x n hx => by simp [hx]
  have h₂ : t₂.held.Ok := State.held_foldl _ _ h₁ fun x d hx => by split <;> simp [hx]
  have h₃ : t₃.held.Ok := by simp [t₃, h₂]
  have h₄ : t₄.held.Ok := State.held_foldl _ _ h₃ fun x r hx => by simp [hx]
  have h₅ : t₅.held.Ok := by simp [t₅, h₄]
  exact State.held_foldl _ _ h₅ fun x i hx => by simp [hx]

@[simp] theorem admitted_held (n : Nat) (p : PlanNeed) {s : State} (hs : s.held.Ok) :
    (admitted n p s).held.Ok := by
  unfold admitted
  extract_lets zooms dies streams u v w x
  have hu : u.held.Ok := by simp [u, hs]
  have hw : w.held.Ok := by simp [w, v, hu]
  clear_value w
  simp [x, hw]

@[simp] theorem tryAdmit_held (n : Nat) (p : PlanNeed) {s : State} (hs : s.held.Ok) :
    (tryAdmit n p s).held.Ok := by
  unfold tryAdmit
  split
  · exact hs
  · split <;> simp [hs]

@[simp] theorem recheck_held (n : Nat) (p : PlanNeed) {s : State} (hs : s.held.Ok) :
    (recheck n p s).held.Ok := by
  unfold recheck
  extract_lets st
  split
  · exact hs
  · split <;> simp [hs]

@[simp] theorem recheckAll_held (l : List (Fin 32 × PlanNeed)) {s : State} (hs : s.held.Ok) :
    (recheckAll l s).held.Ok := State.held_foldl _ _ hs fun u x hu => by simp [hu]

@[simp] theorem disableBlocks_held (keys : List KeyRec) (i : Nat) {s : State} (hs : s.held.Ok) :
    (disableBlocks keys i s).held.Ok := by
  unfold disableBlocks
  extract_lets l u v
  have hu : u.held.Ok := by
    simp only [u]
    split
    · exact hs
    · exact setFld_held _ _ _ (setFld_held _ _ _ (busWrite_held _ _ _ hs))
  have hv : v.held.Ok := by simp only [v]; split <;> simp [hu]
  split <;> simp [hv]

@[simp] theorem disableInput_held (i : Nat) {s : State} (hs : s.held.Ok) :
    (disableInput i s).held.Ok := by
  unfold disableInput
  extract_lets l u v w
  have hu : u.held.Ok := by simp [u, hs]
  have hv : v.held.Ok := by simp [v, hu]
  have hw : w.held.Ok := by simp [w, hv]
  split <;> simp [hw]

@[simp] theorem releasePlan_held (n : Nat) {s : State} (hs : s.held.Ok) :
    (releasePlan n s).held.Ok := by
  unfold releasePlan
  extract_lets rest used keys held mine cores u v w x shared y
  have hu : u.held.Ok := State.held_foldl _ _ hs fun z p hz => by simp [hz]
  have hv : v.held.Ok := State.held_foldl _ _ hu fun z t hz => by simp [hz]
  have hw : w.held.Ok := State.held_foldl _ _ hv fun z t hz => by simp [hz]
  have hx : x.held.Ok := State.held_foldl _ _ hw fun z t hz => by simp [hz]
  have hy : y.held.Ok := by simp [y, hx]
  exact State.held_foldl _ _ hy fun z t hz => by simp [hz]

@[simp] theorem leave_held (n : Nat) (writes : List (Nat × Nat)) {s : State} (hs : s.held.Ok) :
    (leave n writes s).held.Ok := by
  simp [leave, hs]

@[simp] theorem stopPlan_held (n : Nat) (writes : List (Nat × Nat)) {s : State} (hs : s.held.Ok) :
    (stopPlan n writes s).held.Ok := by
  simp [stopPlan, hs]

@[simp] theorem stopFor_held (n r : Nat) {s : State} (hs : s.held.Ok) :
    (stopFor n r s).held.Ok := by
  simp [stopFor, hs]

@[simp] theorem suspend_held (n r : Nat) (writes : List (Nat × Nat)) {s : State} (hs : s.held.Ok) :
    (suspend n r writes s).held.Ok := by
  simp [suspend, hs]

theorem planStep_held (f : State → State) {s : State} (hs : s.held.Ok) (hf : ∀ s, s.held.Ok → (f s).held.Ok) :
    (planStep f s).held.Ok := by
  simp [planStep, hf, hs]
@[simp] theorem execPlanAdmit_answersOk (n : Fin 32) (p : PlanNeed) {s : State} (hs : s.held.Ok) :
    AnswersOk (execPlanAdmit n p s) := by
  rw [execPlanAdmit, answersOk_next]
  exact planStep_held _ hs fun u hu => by split <;> simp [hu]

@[simp] theorem execPlanStop_answersOk (n : Fin 32) (e : PlanEnd) {s : State} (hs : s.held.Ok) :
    AnswersOk (execPlanStop n e s) := by
  rw [execPlanStop, answersOk_next]
  exact planStep_held _ hs fun u hu => by simp [hu]

@[simp] theorem execPlanClear_answersOk (n : Fin 32) (e : PlanEnd) {s : State} (hs : s.held.Ok) :
    AnswersOk (execPlanClear n e s) := by
  rw [execPlanClear, answersOk_next]
  exact planStep_held _ hs fun u hu => by simp [hu]

@[simp] theorem execPlanStart_answersOk (n : Fin 32) (p : PlanNeed) {s : State} (hs : s.held.Ok) :
    AnswersOk (execPlanStart n p s) := by
  rw [execPlanStart, answersOk_next]
  exact planStep_held _ hs fun u hu => by split <;> simp [hu]

@[simp] theorem execPlanEnd_answersOk (n : Fin 32) (e : PlanEnd) {s : State} (hs : s.held.Ok) :
    AnswersOk (execPlanEnd n e s) := by
  rw [execPlanEnd, answersOk_next]
  refine planStep_held _ hs fun u hu => ?_
  dsimp only
  split_ifs <;> simp [hu]

@[simp] theorem wakeInput_held {s : State} (i : Nat) (hs : s.held.Ok) :
    (wakeInput s i).held.Ok := by
  simp [wakeInput, hs]

@[simp] theorem execPlanWake_answersOk (n : Fin 32) (dies : BitVec 8) {s : State} (hs : s.held.Ok) :
    AnswersOk (execPlanWake n dies s) := by
  rw [execPlanWake, answersOk_next]
  refine planStep_held _ hs fun u hu => ?_
  split
  · exact hu
  · have hset : (settled (wakeDies (dies.toNat ||| planDies u n) u) n).held.Ok := by simp [hu]
    have hin := State.held_foldl wakeInput (planInputs u n) hset fun v i hv => by simp [hv]
    simp [hin]

@[simp] theorem railsOff_held (enables : Nat) {s : State} (hs : s.held.Ok) :
    (railsOff enables s).held.Ok := by
  unfold railsOff
  extract_lets u
  have hu : u.held.Ok := State.held_foldl _ _ hs fun v h hv => by simp [hv]
  exact State.held_ok_of_memory hu (fun _ => twf_nil _) rfl rfl

@[simp] theorem execNfsClosed_answersOk (h : Hub) {s : State} (hs : s.held.Ok) :
    AnswersOk (execNfsClosed h s) := by
  simp [execNfsClosed, hs]

@[simp] theorem settlePower_held {s : State} (hs : s.held.Ok) :
    (settlePower s).held.Ok := by
  simp [settlePower, hs]

@[simp] theorem sleepDies_held (l : List Nat) {s : State} (hs : s.held.Ok) :
    (sleepDies l s).held.Ok := by
  simp [sleepDies, hs]

@[simp] theorem execDieSleep_answersOk (d : Fin 8) {s : State} (hs : s.held.Ok) :
    AnswersOk (execDieSleep d s) := by
  rw [execDieSleep, answersOk_next]
  exact planStep_held _ hs fun u hu => by simp [hu]

@[simp] theorem pwrSleep_held {s : State} (hs : s.held.Ok) :
    (pwrSleep s).held.Ok := planStep_held _ hs fun u hu => by simp [hu]

@[simp] theorem execPwrCmdSleep_answersOk {s : State} (hs : s.held.Ok) :
    AnswersOk (execPwrCmdSleep s) := by
  simp [execPwrCmdSleep, hs]

@[simp] theorem execNfsMounted_answersOk (h : Hub) (kept : List Nat) (again : List (Fin 32 × PlanNeed)) {s : State}
    (hs : s.held.Ok) :
    AnswersOk (execNfsMounted h kept again s) := by
  unfold execNfsMounted
  extract_lets t
  have ht : t.held.Ok := by simp [t, hs]
  rw [answersOk_next]
  split
  · exact ht
  · exact planStep_held _ ht fun u hu => by simp [hu]

@[simp] theorem execHoldupRecheck_answersOk (n : Fin 32) (p : PlanNeed) {s : State} (hs : s.held.Ok) :
    AnswersOk (execHoldupRecheck n p s) := by
  rw [execHoldupRecheck, answersOk_next]
  exact planStep_held _ hs fun u hu => by dsimp only; split <;> simp [hu]

@[simp] theorem execThrottleSuspend_answersOk (e : PlanEnd) {s : State} (hs : s.held.Ok) :
    AnswersOk (execThrottleSuspend e s) := by
  rw [execThrottleSuspend, answersOk_next]
  refine planStep_held _ hs fun u hu => ?_
  split
  · split <;> simp [hu]
  · exact hu

@[simp] theorem capSuspend_held (xs : List (Fin 32 × PlanEnd)) (n : Nat) {s : State} (hs : s.held.Ok) : (capSuspend xs
    n s).held.Ok := by
  induction n generalizing s with
  | zero => exact hs
  | succ n ih =>
    unfold capSuspend
    split
    · exact hs
    · split <;> simp [ih, hs]

@[simp] theorem capAct_held (cap e : Nat) (ends : List (Fin 32 × PlanEnd)) (again : List (Fin 32 × PlanNeed)) {s :
    State} (hs : s.held.Ok) :
    (capAct cap e ends again s).held.Ok := by
  simp [capAct, hs]

@[simp] theorem execPwrCapWrite_answersOk (p : Path) (v : BitVec 17) {s : State} (hs : s.held.Ok) :
    AnswersOk (execPwrCapWrite p v s) := by
  simp [execPwrCapWrite, hs]


/-! The operations of Sys2Proof/Machine/Ledger.lean. -/

@[simp] theorem execLedgerStep_answersOk (l : LedgerIn) {s : State} (hs : s.held.Ok) :
    AnswersOk (execLedgerStep l s) := by
  unfold execLedgerStep
  extract_lets cap e u v
  have hu : u.held.Ok := by simp [u, hs]
  have hv : v.held.Ok := by simp only [v]; split <;> simp [hu]
  rw [answersOk_next]
  exact planStep_held _ (by simp [hv]) fun w hw => by simp [hw]


/-! The operations of Sys2Proof/Machine/Boot.lean. -/

@[simp] theorem resetAll_held (cold : Bool) {s : State} (hs : s.held.Ok) :
    (resetAll cold s).held.Ok := by
  unfold resetAll
  extract_lets u keep
  rw [State.held, partResets_owned]
  exact (State.held_ok_iff _).mpr ⟨twf_nil _, .inl rfl⟩

@[simp] theorem execResetAssert_answersOk {s : State} (hs : s.held.Ok) :
    AnswersOk (execResetAssert s) := by
  simp [execResetAssert, hs]

@[simp] theorem execPowerOnReset_answersOk {s : State} (hs : s.held.Ok) :
    AnswersOk (execPowerOnReset s) := by
  simp [execPowerOnReset, hs]

@[simp] theorem flushPlans_held {s : State} (hs : s.held.Ok) :
    (flushPlans s).held.Ok := State.held_foldl _ _ hs fun u n hu => by
    split_ifs <;> simp [hu]

@[simp] theorem powerFail_held {s : State} (hs : s.held.Ok) :
    (powerFail s).held.Ok := by
  unfold powerFail
  extract_lets raised boot u v w off rails x
  have hu : u.held.Ok := State.held_ok_of_memory (s := raised) (by simp [raised, hs]) id rfl rfl
  have hv : v.held.Ok := by simp [v, hu]
  have hw : w.held.Ok := by simp only [w]; split <;> simp [hv]
  have hoff : off.held.Ok := by simp [off, hw]
  split
  · exact hs
  · split
    · have hrails : ({ off with rails := rails } : State).held.Ok := hoff
      simpa using hrails
    · split
      · exact hw
      · have hx : x.held.Ok := by simp [x, hw]
        rw [State.held, chargers_owned]
        exact State.held_foldl _ _ hx fun z h hz => by simp [hz]

@[simp] theorem execPowerFail_answersOk {s : State} (hs : s.held.Ok) :
    AnswersOk (execPowerFail s) := by
  simp [execPowerFail, hs]

@[simp] theorem execRailOutOfTolerance_answersOk (out deep : BitVec 10) (codes : List (BitVec 32)) {s : State} (hs :
    s.held.Ok) :
    AnswersOk (execRailOutOfTolerance out deep codes s) := by
  simp [execRailOutOfTolerance, hs]

@[simp] theorem dmaProgram_held {s0 : State} (k start first : Nat) (name : List Byte) {s : State} (hs : s.held.Ok) :
    (dmaProgram s0 k start first name s).held.Ok := State.held_foldl _ _ hs fun _ _ hu => setFld_held _ _ _
        (State.held_ok_of_memory hu id rfl rfl)

theorem deviceApply_held (keys : List KeyRec) (k : KeyRec) {x : State × Nat} (hx : x.1.held.Ok) :
    (deviceApply keys k x).1.held.Ok := by
  unfold deviceApply
  split
  · extract_lets start part
    split <;> simp [hx]
  · simp [hx]

@[simp] theorem tdcDefaults_held (keys : List KeyRec) {s : State} (hs : s.held.Ok) :
    (tdcDefaults keys s).held.Ok := by
  unfold tdcDefaults
  extract_lets pps said
  refine State.held_foldl _ _ hs fun u g hu => ?_
  extract_lets b p v
  have hv : v.held.Ok := by simp only [v]; split <;> simp [hu]
  split <;> simp [hv]

@[simp] theorem applyDevices_held (keys : List KeyRec) {s : State} (hs : s.held.Ok) :
    (applyDevices keys s).held.Ok := by
  unfold applyDevices
  extract_lets dev u v w
  have hfold : ∀ (ks : List KeyRec) (x : State × Nat), x.1.held.Ok →
      (ks.foldl (fun x k => deviceApply dev k x) x).1.held.Ok := by
    intro ks
    induction ks with
    | nil => exact fun _ hx => hx
    | cons k ks ih => exact fun x hx => ih _ (deviceApply_held dev k hx)
  have hu : u.held.Ok := hfold _ _ hs
  have hv : v.held.Ok := by simp only [v]; split <;> simp [hu]
  have hw : w.held.Ok := by simp [w, hv]
  refine State.held_foldl _ _ hw fun x h hx => setFld_held _ _ _ ?_
  split <;> simp [hx]

@[simp] theorem applyImage_held (host : Bool) (img : List Byte) {s : State} (hs : s.held.Ok) :
    (applyImage host img s).held.Ok := by
  unfold applyImage
  extract_lets b keys slot u boot v w
  have hu : u.held.Ok := by simp [u, hs]
  have hw : w.held.Ok := State.held_ok_of_memory hu id rfl rfl
  clear_value w
  simp [hw]

@[simp] theorem execImageReadComplete_answersOk (img : List Byte) (valid : Bool) (size : Nat) {s : State} (hs :
    s.held.Ok) :
    AnswersOk (execImageReadComplete img valid size s) := by
  simp only [execImageReadComplete]
  (repeat' split) <;> simp [hs]

@[simp] theorem execBootPlannerStart_answersOk (ms : BitVec 16) {s : State} (hs : s.held.Ok) :
    AnswersOk (execBootPlannerStart ms s) := by
  unfold execBootPlannerStart
  extract_lets u v
  have hu : u.held.Ok := by simp only [u]; split <;> simp [hs]
  have hv : v.held.Ok := by simp [v, hu]
  clear_value v
  split
  · simp [hs]
  · simp [hv]

@[simp] theorem bootHostgo_held {s : State} (hs : s.held.Ok) :
    (bootHostgo s).held.Ok := by
  simp only [bootHostgo]
  (repeat' split) <;> simp [hs]

@[simp] theorem execBootHostgo_answersOk {s : State} (hs : s.held.Ok) :
    AnswersOk (execBootHostgo s) := by
  simp [execBootHostgo, hs]

@[simp] theorem bootRestart_held {s : State} (hs : s.held.Ok) :
    (bootRestart s).held.Ok := by
  simp [bootRestart, hs]

@[simp] theorem execBootRestart_answersOk {s : State} (hs : s.held.Ok) :
    AnswersOk (execBootRestart s) := by
  simp [execBootRestart, hs]

@[simp] theorem execBootLockWrite_answersOk (p : Path) (v : BitVec 5) {s : State} (hs : s.held.Ok) :
    AnswersOk (execBootLockWrite p v s) := by
  simp [execBootLockWrite, hs]


/-! The operations of Sys2Proof/Machine/Host.lean. -/

@[simp] theorem pwrCmdWrite_held (wo : Nat) {s : State} (hs : s.held.Ok) :
    (pwrCmdWrite wo s).held.Ok := by
  simp [pwrCmdWrite, hs]

@[simp] theorem bootCmdWrite_held (wo : Nat) {s : State} (hs : s.held.Ok) :
    (bootCmdWrite wo s).held.Ok := by
  simp [bootCmdWrite, hs]

@[simp] theorem hostWrite_held (p : Path) (addr m : Nat) {s : State} (hs : s.held.Ok) :
    (hostWrite p addr m s).held.Ok := by
  unfold hostWrite
  (repeat' split) <;> simp [hs]

@[simp] theorem execConfigWrite_answersOk (p : Path) (addr : BitVec 32) (v : Word) (u : HwUpdate) {s : State} (hs :
    s.held.Ok) :
    AnswersOk (execConfigWrite p addr v u s) := by
  simp [execConfigWrite, hs]

@[simp] theorem execAliasSetWrite_answersOk (p : Path) (w : BitVec 28) (m : Word) (u : HwUpdate) {s : State} (hs :
    s.held.Ok) :
    AnswersOk (execAliasSetWrite p w m u s) := by
  simp [execAliasSetWrite, hs]

@[simp] theorem execAliasClearWrite_answersOk (p : Path) (w : BitVec 28) (m : Word) (u : HwUpdate) {s : State} (hs :
    s.held.Ok) :
    AnswersOk (execAliasClearWrite p w m u s) := by
  simp [execAliasClearWrite, hs]

@[simp] theorem execAliasToggleWrite_answersOk (p : Path) (w : BitVec 28) (m : Word) (u : HwUpdate) {s : State} (hs :
    s.held.Ok) :
    AnswersOk (execAliasToggleWrite p w m u s) := by
  simp [execAliasToggleWrite, hs]


/-! The operations of Sys2Proof/Machine/Dma.lean. -/

@[simp] theorem regPut_held (h : Hub) (n : Nat) (as : List Nat) (d : List Byte) {s : State} (hs : s.held.Ok) :
    (regPut h n as d s).held.Ok := by
  induction n generalizing as d s with
  | zero => exact hs
  | succ n ih =>
    cases as with
    | nil => exact hs
    | cons a as => simp [regPut, ih, hs]

@[simp] theorem spaceWrite_held (h : Hub) (sp : DmaSpace) (l : List Nat) (d : List Byte) {s : State} (hs : s.held.Ok) :
    (spaceWrite h sp l d s).held.Ok := by
  unfold spaceWrite
  split
  · exact State.held_foldl _ _ hs fun u x hu => by simp [hu]
  · simp [hs]
  · exact hs

@[simp] theorem dmaPortPut_held (h port done : Nat) (last : Bool) (d : List Byte) {s : State} (hs : s.held.Ok) :
    (dmaPortPut h port done last d s).held.Ok := by
  unfold dmaPortPut
  split
  · extract_lets b n data count u
    have hu : u.held.Ok := by simp [u, hs]
    clear_value u
    split <;> simp [hu]
  · cases hpush : strPush h (port - 64) (done == 0) d s with
    | none => exact hs
    | some u =>
      have hu : u.held = s.held := strPush_owned hpush
      simpa [hu] using hs

theorem dmaUnit_held (h : Hub) (k : Nat) (gather : Bool) (x : DmaXfer) (stalls done n : Nat) {s : State}
    (hs : s.held.Ok) : (dmaUnit h k gather x stalls done n s).1.held.Ok := by
  unfold dmaUnit
  extract_lets total sa da ssp dsp idx zero src dst iw tableOk
  split
  · simp [hs]
  · split
    · simp [hs]
    · split
      · simp [hs]
      · split
        · simp [hs]
        · generalize hread : (if zero = true then (List.replicate n 0, s) else spaceRead h k ssp src s) = got
          have hgot : got.2.held.Ok := by
            rw [← hread]
            split <;> simp [hs]
          obtain ⟨data, u⟩ := got
          dsimp only at hgot ⊢
          split <;> simp [hgot]

@[simp] theorem dmaUnits_held (h : Hub) (k : Nat) (gather : Bool) (x : DmaXfer) (stalls stop n : Nat) {s : State}
    (hs : s.held.Ok) : (dmaUnits h k gather x stalls stop n s).held.Ok := by
  induction n generalizing s with
  | zero => exact hs
  | succ n ih =>
    unfold dmaUnits
    extract_lets done size
    split
    · exact hs
    · have hunit := dmaUnit_held h k gather x stalls done size hs
      split
      case h_1 t heq =>
        rw [heq] at hunit
        exact ih hunit
      case h_2 t heq =>
        rw [heq] at hunit
        exact hunit

@[simp] theorem dmaFree_held (h : Hub) (k stalls : Nat) {s : State} (hs : s.held.Ok) :
    (dmaFree h k stalls s).held.Ok := by
  unfold dmaFree
  split
  · extract_lets total u
    have hu : u.held.Ok := by simp [u, hs]
    split
    · exact hs
    · split <;> simp [hu]
  · exact hs

@[simp] theorem dmaBurst_held (h : Hub) (k stalls : Nat) {s : State} (hs : s.held.Ok) :
    (dmaBurst h k stalls s).held.Ok := by
  unfold dmaBurst
  split
  · split
    · exact hs
    · rename_i g x size _ _ _
      extract_lets total begun stop u b low v w y
      have hu : u.held.Ok := by simp [u, hs]
      have hv : v.held.Ok := by simp only [v]; split <;> simp [hu]
      have hw : w.held.Ok := by simp [w, hv]
      have hy : y.held.Ok := by simp [y, hw]
      split_ifs <;> simp [hu, hw, hy]
  · exact hs

@[simp] theorem dmaXferIssue_held (h : Hub) (k : Nat) (g : Bool) (stalls : Nat) (x : DmaXfer) {s : State} (hs :
    s.held.Ok) :
    (dmaXferIssue h k g stalls x s).held.Ok := by
  simp [dmaXferIssue, hs]

theorem dmaFetch_held (h k : Nat) (bad : Bool) (f : DmaOp → State → State) {s : State} (hs : s.held.Ok)
    (hf : ∀ op s, s.held.Ok → (f op s).held.Ok) : (dmaFetch h k bad f s).held.Ok := by
  unfold dmaFetch
  split
  · exact hs
  · split
    · simp [hs]
    · split <;> simp [hf, hs]
theorem dmaIssue_held (h k : Nat) (bad : Bool) (f : DmaOp → State → State) {s : State} (hs : s.held.Ok)
    (hf : ∀ op s, s.held.Ok → (f op s).held.Ok) : (dmaIssue h k bad f s).held.Ok :=
  dmaFetch_held _ _ _ _ (by simp [hs]) hf
@[simp] theorem execDmaMove_answersOk (h : Hub) (k : Fin 16) (parityBad : Bool) (waits stalls : BitVec 32) {s : State}
    (hs : s.held.Ok) :
    AnswersOk (execDmaMove h k parityBad waits stalls s) := by
  unfold execDmaMove
  extract_lets u
  have hu : u.held.Ok := by simp [u, hs]
  rw [answersOk_next]
  split
  · split <;> simp [hu]
  · refine dmaFetch_held _ _ _ _ hu fun op v hv => ?_
    split <;> simp [hv]

@[simp] theorem execDmaGather_answersOk (h : Hub) (k : Fin 16) (parityBad : Bool) (waits stalls : BitVec 32) {s :
    State} (hs : s.held.Ok) :
    AnswersOk (execDmaGather h k parityBad waits stalls s) := by
  unfold execDmaGather
  extract_lets u
  have hu : u.held.Ok := by simp [u, hs]
  rw [answersOk_next]
  split
  · split <;> simp [hu]
  · refine dmaFetch_held _ _ _ _ hu fun op v hv => ?_
    split <;> simp [hv]

@[simp] theorem execDmaBurst_answersOk (h : Hub) (k : Fin 16) (waits stalls : BitVec 32) {s : State} (hs : s.held.Ok) :
    AnswersOk (execDmaBurst h k waits stalls s) := by
  simp [execDmaBurst, hs]

@[simp] theorem execDmaSignalRegwrite_answersOk (h : Hub) (k : Fin 16) (parityBad : Bool) {s : State} (hs : s.held.Ok) :
    AnswersOk (execDmaSignalRegwrite h k parityBad s) := by
  rw [execDmaSignalRegwrite, answersOk_next]
  refine dmaIssue_held _ _ _ _ hs fun op u hu => ?_
  split
  · split <;> simp [hu]
  · exact hu


/-! The operations of Sys2Proof/Machine/Faults.lean. -/

@[simp] theorem swapPipe_held (i old p : Nat) {s : State} (hs : s.held.Ok) :
    (swapPipe i old p s).held.Ok := by
  simp [swapPipe, hs]

theorem placeSpare_held {f : Repair} {s u : State} (hs : s.held.Ok) (h : placeSpare f s = some u) : u.held.Ok := by
  unfold placeSpare at h
  split at h
  · obtain ⟨p, -, rfl⟩ := Option.map_eq_some_iff.mp h
    simp [hs]
  · split_ifs at h
    cases h
    exact hs
  · obtain ⟨m, -, rfl⟩ := Option.map_eq_some_iff.mp h
    simp [hs]
  · cases h

@[simp] theorem repairPlace_held (h : Nat) {s : State} (hs : s.held.Ok) :
    (repairPlace h s).held.Ok := by
  unfold repairPlace
  split
  · exact hs
  · extract_lets u
    have hu : u.held.Ok := by simp [u, hs]
    clear_value u
    split
    · simp [hu]
    · split
      · simp [hu]
      · rename_i v hplace
        have hv : v.held.Ok := placeSpare_held hu hplace
        dsimp only
        rw [State.held, showRepairs_owned]
        split <;> simp [hv]

@[simp] theorem execRepairPlace_answersOk (h : Hub) {s : State} (hs : s.held.Ok) :
    AnswersOk (execRepairPlace h s) := by
  rw [execRepairPlace, answersOk_next]
  exact planStep_held _ hs fun u hu => by simp [hu]

@[simp] theorem execRepairComplete_answersOk (h : Hub) (again : List (Fin 32 × PlanNeed)) {s : State} (hs : s.held.Ok) :
    AnswersOk (execRepairComplete h again s) := by
  rw [execRepairComplete, answersOk_next]
  exact planStep_held _ hs fun u hu => by split <;> simp [hu]

@[simp] theorem stopUsers_held (d : Nat) {s : State} (hs : s.held.Ok) :
    (stopUsers d s).held.Ok := State.held_foldl _ _ hs fun u n hu => by split <;> simp [hu]

/-- The second hub leads only in a part that has one. -/
theorem takeLead_held {s : State} (hs : s.held.Ok) (hhub : s.hasHub 1 = true) : (takeLead s).held.Ok := by
  have hpart : s.part = .s8d := by
    cases hp : s.part <;> simp [State.hasHub, Part.hubs, hp] at hhub ⊢
  unfold takeLead
  extract_lets show_ u
  have hshow : ∀ b f u, (show_ b f u).held = u.held := fun b f u => by simp [show_]
  have hheld : u.held = s.held := by rw [hshow, hshow, hshow, hshow]
  clear_value u
  have hmem : Inv u := (State.held_ok_iff u).mp (by rw [hheld]; exact hs)
  have hsame : u.part = s.part := congrArg OwnedState.part hheld
  exact (State.held_ok_iff _).mpr ⟨hmem.memory, .inr ⟨rfl, hsame.trans hpart⟩⟩

@[simp] theorem controlFault_held {s : State} (hs : s.held.Ok) :
    (controlFault s).held.Ok := by
  unfold controlFault
  split
  · rename_i hhub
    split
    · exact takeLead_held hs hhub
    · exact hs
  · have hstop : (allSlots.foldl (fun s n => stopPlan n [] s) s).held.Ok :=
      State.held_foldl _ _ hs fun u n hu => by simp [hu]
    exact State.held_ok_of_memory hstop id rfl rfl

@[simp] theorem severe_held (e : Event) {s : State} (hs : s.held.Ok) :
    (severe e s).held.Ok := by
  unfold severe
  extract_lets u
  have hu : u.held.Ok := by simp [u, hs]
  split
  · simp [hu]
  · split <;> simp [hu]

@[simp] theorem faultAct_held (e : Logged) {s : State} (hs : s.held.Ok) :
    (faultAct e s).held.Ok := by
  unfold faultAct
  extract_lets u
  have hu : u.held.Ok := by
    simp only [u]
    split
    · split <;> simp [hs]
    · exact hs
  split <;> simp [hu]

@[simp] theorem execFaultEvent_answersOk (n : Nat) {s : State} (hs : s.held.Ok) :
    AnswersOk (execFaultEvent n s) := by
  unfold execFaultEvent
  extract_lets taken u r
  have hu : u.held.Ok := State.held_ok_of_memory hs id rfl rfl
  have hcollect : ∀ (hs : List Nat) (x : State × List Logged), x.1.held.Ok →
      (hs.foldl (fun x h => if h = u.lead then collect h taken x.1 else ((collect h taken x.1).1, x.2)) x).1.held.Ok
          := by
    intro hs
    induction hs with
    | nil => exact fun _ hx => hx
    | cons h hs ih =>
      intro x hx
      rw [List.foldl_cons]
      refine ih _ ?_
      split <;> simp [hx]
  have hr : r.1.held.Ok := hcollect u.hubList (u, []) hu
  split
  · simp [hs]
  · rw [answersOk_next]
    exact State.held_foldl _ _ hr fun v e hv => by simp [hv]


/-! The operations of Sys2Proof/Machine/Mgmt.lean. -/

theorem mgmtRun_held (h op : Nat) (f : MgmtOp → State → Nat × Nat × State) {s : State} (hs : s.held.Ok)
    (hf : ∀ o s, s.held.Ok → (f o s).2.2.held.Ok) : (mgmtRun h op f s).held.Ok := by
  unfold mgmtRun
  split
  · exact hs
  · split
    · exact hs
    · split
      · exact hs
      · split
        · exact hs
        · split <;> simp [hf, hs]
@[simp] theorem execMgmtWrite_answersOk (h : Hub) {s : State} (hs : s.held.Ok) :
    AnswersOk (execMgmtWrite h s) := by
  rw [execMgmtWrite, answersOk_next]
  exact mgmtRun_held _ _ _ hs fun o u hu => by simp [hu]

@[simp] theorem execMgmtStopPlan_answersOk (h : Hub) (e : PlanEnd) {s : State} (hs : s.held.Ok) :
    AnswersOk (execMgmtStopPlan h e s) := by
  rw [execMgmtStopPlan, answersOk_next]
  split
  · exact hs
  · split
    · simp [hs]
    · split
      case h_1 n u hstop =>
        have hu : u.held = s.held := stopTaken_owned hstop
        have hok : u.held.Ok := hu ▸ hs
        split
        · exact planStep_held _ hok fun v hv => by simp [hv]
        · exact hok
      case h_2 => exact hs

@[simp] theorem execMgmtStopAllPlans_answersOk (h : Hub) (e : PlanEnd) {s : State} (hs : s.held.Ok) :
    AnswersOk (execMgmtStopAllPlans h e s) := by
  rw [execMgmtStopAllPlans, answersOk_next]
  split
  · exact hs
  · split
    · simp [hs]
    · split
      case h_1 n u hstop =>
        have hu : u.held = s.held := stopTaken_owned hstop
        have hok : u.held.Ok := hu ▸ hs
        refine planStep_held _ hok fun v hv => ?_
        have hstop := State.held_foldl (fun s n => stopPlan n [] s) allSlots hv fun w n hw => by simp [hw]
        simp [hstop]
      case h_2 => exact hs


/-! The operations of Sys2Proof/Machine/Requests.lean. -/

@[simp] theorem mboxRequest_held (h : Nat) (p : Path) (code index dir : Nat) {s : State} (hs : s.held.Ok) :
    (mboxRequest h p code index dir s).held.Ok := by
  simp [mboxRequest, hs]

@[simp] theorem mboxGet_held (h : Nat) (p : Path) (code index : Nat) {s : State} (hs : s.held.Ok) :
    (mboxGet h p code index s).held.Ok := by
  simp [mboxGet, hs]

@[simp] theorem mboxSet_held (h : Nat) (p : Path) (code index k v : Nat) {s : State} (hs : s.held.Ok) :
    (mboxSet h p code index k v s).held.Ok := by
  have hu := State.held_foldl (fun s (x : Nat × Nat) => hostWrite p (mboxB h + R.MBOX_DATA_w + 4 * x.2) x.1 s)
    (wordsOf k v).zipIdx hs fun u x hu => by simp [hu]
  simp [mboxSet, hu]

@[simp] theorem execTimeNow_answersOk (h : Hub) (p : Path) {s : State} (hs : s.held.Ok) :
    AnswersOk (execTimeNow h p s) := by
  simp [execTimeNow, hs]

@[simp] theorem execTimeFrc_answersOk (h : Hub) (p : Path) {s : State} (hs : s.held.Ok) :
    AnswersOk (execTimeFrc h p s) := by
  simp [execTimeFrc, hs]

@[simp] theorem execTimeRs_answersOk (h : Hub) (p : Path) (n : Fin 2) {s : State} (hs : s.held.Ok) :
    AnswersOk (execTimeRs h p n s) := by
  simp [execTimeRs, hs]

@[simp] theorem execTimeHost_answersOk (h : Hub) (p : Path) (v : BitVec 96) {s : State} (hs : s.held.Ok) :
    AnswersOk (execTimeHost h p v s) := by
  simp [execTimeHost, hs]

@[simp] theorem execTimeStepLog_answersOk (h : Hub) (p : Path) {s : State} (hs : s.held.Ok) :
    AnswersOk (execTimeStepLog h p s) := by
  simp [execTimeStepLog, hs]

@[simp] theorem execTimeClockIdWrite_answersOk (h : Hub) (p : Path) (v : BitVec 64) {s : State} (hs : s.held.Ok) :
    AnswersOk (execTimeClockIdWrite h p v s) := by
  simp [execTimeClockIdWrite, hs]

@[simp] theorem execTimeClockIdRead_answersOk (h : Hub) (p : Path) {s : State} (hs : s.held.Ok) :
    AnswersOk (execTimeClockIdRead h p s) := by
  simp [execTimeClockIdRead, hs]

@[simp] theorem execTimeGmId_answersOk (h : Hub) (p : Path) {s : State} (hs : s.held.Ok) :
    AnswersOk (execTimeGmId h p s) := by
  simp [execTimeGmId, hs]

@[simp] theorem execPlanScheduleRead_answersOk (h : Hub) (p : Path) (k : Fin 3) (n : Fin 32) {s : State} (hs :
    s.held.Ok) :
    AnswersOk (execPlanScheduleRead h p k n s) := by
  simp [execPlanScheduleRead, hs]

@[simp] theorem execPlanScheduleWrite_answersOk (h : Hub) (p : Path) (k : Fin 3) (n : Fin 32) (v : BitVec 64) {s :
    State} (hs : s.held.Ok) :
    AnswersOk (execPlanScheduleWrite h p k n v s) := by
  simp [execPlanScheduleWrite, hs]

@[simp] theorem execPlanEnergyWork_answersOk (h : Hub) (p : Path) (work : Bool) (n : Fin 32) {s : State} (hs :
    s.held.Ok) :
    AnswersOk (execPlanEnergyWork h p work n s) := by
  simp [execPlanEnergyWork, hs]

@[simp] theorem execLedgerEnergy_answersOk (h : Hub) (p : Path) (d : Fin 13) {s : State} (hs : s.held.Ok) :
    AnswersOk (execLedgerEnergy h p d s) := by
  simp [execLedgerEnergy, hs]

@[simp] theorem execTarnHead_answersOk (h : Hub) (p : Path) (n : Fin 2) {s : State} (hs : s.held.Ok) :
    AnswersOk (execTarnHead h p n s) := by
  simp [execTarnHead, hs]

@[simp] theorem execTarnOldest_answersOk (h : Hub) (p : Path) (n : Fin 2) {s : State} (hs : s.held.Ok) :
    AnswersOk (execTarnOldest h p n s) := by
  simp [execTarnOldest, hs]

@[simp] theorem execTdcPop_answersOk (h : Hub) (p : Path) (n : Fin 8) {s : State} (hs : s.held.Ok) :
    AnswersOk (execTdcPop h p n s) := by
  simp [execTdcPop, hs]

@[simp] theorem execTdcIvpop_answersOk (h : Hub) (p : Path) (m : Fin 4) {s : State} (hs : s.held.Ok) :
    AnswersOk (execTdcIvpop h p m s) := by
  simp [execTdcIvpop, hs]

@[simp] theorem execTdcGateTimeRead_answersOk (h : Hub) (p : Path) (close : Bool) (n : Fin 8) {s : State} (hs :
    s.held.Ok) :
    AnswersOk (execTdcGateTimeRead h p close n s) := by
  simp [execTdcGateTimeRead, hs]

@[simp] theorem execTdcGateTimeWrite_answersOk (h : Hub) (p : Path) (close : Bool) (n : Fin 8) (v : BitVec 96) {s :
    State} (hs : s.held.Ok) :
    AnswersOk (execTdcGateTimeWrite h p close n v s) := by
  simp [execTdcGateTimeWrite, hs]

@[simp] theorem execNfsUnlock_answersOk (h : Hub) (p : Path) (v : BitVec 256) {s : State} (hs : s.held.Ok) :
    AnswersOk (execNfsUnlock h p v s) := by
  simp [execNfsUnlock, hs]

@[simp] theorem execNfsCatSts_answersOk (h : Hub) (p : Path) (close : Bool) {s : State} (hs : s.held.Ok) :
    AnswersOk (execNfsCatSts h p close s) := by
  simp [execNfsCatSts, hs]

@[simp] theorem execDmaAr_answersOk (h : Hub) (p : Path) (k : Fin 16) (a : Fin 4) {s : State} (hs : s.held.Ok) :
    AnswersOk (execDmaAr h p k a s) := by
  simp [execDmaAr, hs]

@[simp] theorem execDdrFreezeAddr_answersOk (h : Hub) (p : Path) (c : Fin 2) {s : State} (hs : s.held.Ok) :
    AnswersOk (execDdrFreezeAddr h p c s) := by
  simp [execDdrFreezeAddr, hs]

@[simp] theorem execDdrFreezeSts_answersOk (h : Hub) (p : Path) (c : Fin 2) {s : State} (hs : s.held.Ok) :
    AnswersOk (execDdrFreezeSts h p c s) := by
  simp [execDdrFreezeSts, hs]

@[simp] theorem execEthAddressRead_answersOk (h : Hub) (p : Path) (w : EthAddr) {s : State} (hs : s.held.Ok) :
    AnswersOk (execEthAddressRead h p w s) := by
  simp [execEthAddressRead, hs]

@[simp] theorem execEthAddressWrite_answersOk (h : Hub) (p : Path) (w : EthAddr) (v : BitVec 160) {s : State} (hs :
    s.held.Ok) :
    AnswersOk (execEthAddressWrite h p w v s) := by
  simp [execEthAddressWrite, hs]

@[simp] theorem execEthMgmtKey_answersOk (h : Hub) (p : Path) (v : BitVec 256) {s : State} (hs : s.held.Ok) :
    AnswersOk (execEthMgmtKey h p v s) := by
  simp [execEthMgmtKey, hs]

@[simp] theorem execFcolFirstDetail_answersOk (h : Hub) (p : Path) {s : State} (hs : s.held.Ok) :
    AnswersOk (execFcolFirstDetail h p s) := by
  simp [execFcolFirstDetail, hs]

@[simp] theorem execFcolLog_answersOk (h : Hub) (p : Path) {s : State} (hs : s.held.Ok) :
    AnswersOk (execFcolLog h p s) := by
  simp [execFcolLog, hs]

@[simp] theorem execFuseKeyHash_answersOk (h : Hub) (p : Path) (v : BitVec 384) {s : State} (hs : s.held.Ok) :
    AnswersOk (execFuseKeyHash h p v s) := by
  simp [execFuseKeyHash, hs]


/-! The operations of Sys2Proof/Machine/Serve.lean. -/

theorem afterFreeze_held (h c : Nat) (kept : List (Fin 32)) (e : PlanEnd) (f : State → State) {s : State}
    (hs : s.held.Ok) (hf : ∀ s, s.held.Ok → (f s).held.Ok) : (afterFreeze h c kept e f s).held.Ok := by
  unfold afterFreeze
  extract_lets t
  have ht : t.held.Ok := hf s hs
  split
  · refine planStep_held _ ht fun u hu => ?_
    have hrun := State.held_foldl (fun t n =>
      if onHub t n h && !(kept.map (·.val)).contains n then suspend n 3 [] t else t) (running u) hu fun v n hv => by
        split <;> simp [hv]
    exact recheckAll_held _ (busWrites_held _ _ hrun)
  · exact ht

@[simp] theorem execDdrReadServe_answersOk (h : Hub) (c : Fin 2) (arrivals : List DdrReq) (a : DdrAccess) (kept : List
    (Fin 32)) (e : PlanEnd) {s : State} (hs : s.held.Ok) :
    AnswersOk (execDdrReadServe h c arrivals a kept e s) := by
  rw [execDdrReadServe, answersOk_next]
  split
  · exact afterFreeze_held _ _ _ _ _ hs fun u hu => by simp [hu]
  · exact hs

@[simp] theorem execDdrWriteServe_answersOk (h : Hub) (c : Fin 2) (a : DdrAccess) (kept : List (Fin 32)) (e : PlanEnd)
    {s : State} (hs : s.held.Ok) :
    AnswersOk (execDdrWriteServe h c a kept e s) := by
  rw [execDdrWriteServe, answersOk_next]
  split
  · exact afterFreeze_held _ _ _ _ _ hs fun u hu => by simp [hu]
  · exact hs

@[simp] theorem execDdrScrub_answersOk (h : Hub) (c : Fin 2) (a : DdrAccess) (kept : List (Fin 32)) (e : PlanEnd) {s :
    State} (hs : s.held.Ok) :
    AnswersOk (execDdrScrub h c a kept e s) := by
  rw [execDdrScrub, answersOk_next]
  split
  · exact afterFreeze_held _ _ _ _ _ hs fun u hu => by simp [hu]
  · exact hs

@[simp] theorem dieHot_held (d : Nat) {s : State} (hs : s.held.Ok) :
    (dieHot d s).held.Ok := by
  unfold dieHot
  extract_lets u
  have hu : u.held.Ok := State.held_ok_of_memory (s := dieOff d s) (by simp [hs]) id rfl rfl
  exact State.held_foldl _ _ hu fun v n hv => by split <;> simp [hv]

@[simp] theorem tempCheck_held (d : Nat) (v : Int) {s : State} (hs : s.held.Ok) :
    (tempCheck d v s).held.Ok := by
  simp [tempCheck, hs]

@[simp] theorem execHkEntryResult_answersOk (h : Hub) (c : Fin 2) (v : Rat) {s : State} (hs : s.held.Ok) :
    AnswersOk (execHkEntryResult h c v s) := by
  simp only [execHkEntryResult]
  (repeat' split) <;> simp [hs]


/-! The operations of Sys2Proof/Machine/Spi.lean. -/

@[simp] theorem spiDrain_held (h : Hub) {s : State} (hs : s.held.Ok) :
    (spiDrain h s).held.Ok := by
  unfold spiDrain
  split <;> simp [hs]

@[simp] theorem spiDrainAll_held (h : Hub) (n : Nat) {s : State} (hs : s.held.Ok) : (spiDrainAll h n s).held.Ok := by
  induction n generalizing s with
  | zero => exact hs
  | succ n ih =>
    simp [spiDrainAll, ih, hs]

@[simp] theorem spiRead_held (h : Hub) (addr : Nat) (fixed : Bool) (words : List (Nat × Bool)) {s : State} (hs :
    s.held.Ok) :
    (spiRead h addr fixed words s).held.Ok := by
  simp [spiRead, hs]

@[simp] theorem execSpiRead_answersOk (h : Hub) (addr : BitVec 32) (words : List (Nat × Bool)) {s : State} (hs :
    s.held.Ok) :
    AnswersOk (execSpiRead h addr words s) := by
  simp [execSpiRead, hs]

@[simp] theorem execSpiReadFixed_answersOk (h : Hub) (addr : BitVec 32) (words : List (Nat × Bool)) {s : State} (hs :
    s.held.Ok) :
    AnswersOk (execSpiReadFixed h addr words s) := by
  simp [execSpiReadFixed, hs]

@[simp] theorem execSpiWriteDrain_answersOk (h : Hub) {s : State} (hs : s.held.Ok) :
    AnswersOk (execSpiWriteDrain h s) := by
  simp [execSpiWriteDrain, hs]

/-- The answer to every command meets the invariant if the state does. -/
theorem exec_answersOk (c : Instr) {s : State} (hs : s.held.Ok) : AnswersOk (exec c s) := by
  cases c <;> unfold exec <;> dsimp only
  case configWrite => exact execConfigWrite_answersOk _ _ _ _ hs
  case aliasSetWrite => exact execAliasSetWrite_answersOk _ _ _ _ hs
  case aliasClearWrite => exact execAliasClearWrite_answersOk _ _ _ _ hs
  case aliasToggleWrite => exact execAliasToggleWrite_answersOk _ _ _ _ hs
  case acqDisable => exact execAcqDisable_answersOk _ hs
  case wbSwitch => exact execWbSwitch_answersOk _ hs
  case spectrumComplete => exact execSpectrumComplete_answersOk _ _ _ hs
  case detectMerge => exact execDetectMerge_answersOk _ hs
  case traceRepairOutput => exact execTraceRepairOutput_answersOk _ _ hs
  case tarnBlockWrite => exact execTarnBlockWrite_answersOk _ hs
  case recArm => exact execRecArm_answersOk _ hs
  case recStop => exact execRecStop_answersOk _ hs
  case segmentComplete => exact execSegmentComplete_answersOk _ hs
  case coBlockFlush => exact execCoBlockFlush_answersOk _ hs
  case densFrameWritten => exact execDensFrameWritten_answersOk _ hs
  case sgRowWritten => exact execSgRowWritten_answersOk _ hs
  case densRowRepair => exact execDensRowRepair_answersOk _ _ hs
  case zoomBlockWritten => exact execZoomBlockWritten_answersOk _ _ hs
  case repairPlace => exact execRepairPlace_answersOk _ hs
  case repairComplete => exact execRepairComplete_answersOk _ _ hs
  case coreBlockWritten => exact execCoreBlockWritten_answersOk _ _ _ hs
  case planAdmit => exact execPlanAdmit_answersOk _ _ hs
  case planStop => exact execPlanStop_answersOk _ _ hs
  case planClear => exact execPlanClear_answersOk _ _ hs
  case planStart => exact execPlanStart_answersOk _ _ hs
  case planEnd => exact execPlanEnd_answersOk _ _ hs
  case planWake => exact execPlanWake_answersOk _ _ hs
  case dieSleep => exact execDieSleep_answersOk _ hs
  case pwrCmdSleep => exact execPwrCmdSleep_answersOk hs
  case holdupRecheck => exact execHoldupRecheck_answersOk _ _ hs
  case ledgerStep => exact execLedgerStep_answersOk _ hs
  case throttleSuspend => exact execThrottleSuspend_answersOk _ hs
  case pwrCapWrite => exact execPwrCapWrite_answersOk _ _ hs
  case powerFail => exact execPowerFail_answersOk hs
  case resetAssert => exact execResetAssert_answersOk hs
  case railOutOfTolerance => exact execRailOutOfTolerance_answersOk _ _ _ hs
  case imageReadComplete => exact execImageReadComplete_answersOk _ _ _ hs
  case bootPlannerStart => exact execBootPlannerStart_answersOk _ hs
  case bootHostgo => exact execBootHostgo_answersOk hs
  case bootRestart => exact execBootRestart_answersOk hs
  case bootLockWrite => exact execBootLockWrite_answersOk _ _ hs
  case nfsReadDone => exact execNfsReadDone_answersOk _ _ hs
  case nfsMounted => exact execNfsMounted_answersOk _ _ _ hs
  case nfsClosed => exact execNfsClosed_answersOk _ hs
  case ddrReadServe => exact execDdrReadServe_answersOk _ _ _ _ _ _ hs
  case ddrWriteAccept => exact execDdrWriteAccept_answersOk _ _ hs
  case ddrScrub => exact execDdrScrub_answersOk _ _ _ _ _ hs
  case ddrRelease => exact execDdrRelease_answersOk _ _ _ hs
  case dmaMove => exact execDmaMove_answersOk _ _ _ _ _ hs
  case dmaGather => exact execDmaGather_answersOk _ _ _ _ _ hs
  case dmaSignalRegwrite => exact execDmaSignalRegwrite_answersOk _ _ _ hs
  case dmaBurst => exact execDmaBurst_answersOk _ _ _ _ hs
  case mgmtWrite => exact execMgmtWrite_answersOk _ hs
  case mgmtStopPlan => exact execMgmtStopPlan_answersOk _ _ hs
  case mgmtStopAllPlans => exact execMgmtStopAllPlans_answersOk _ _ hs
  case hkEntryResult => exact execHkEntryResult_answersOk _ _ _ hs
  case faultEvent => exact execFaultEvent_answersOk _ hs
  case spiRead => exact execSpiRead_answersOk _ _ _ hs
  case spiReadFixed => exact execSpiReadFixed_answersOk _ _ _ hs
  case spiWriteDrain => exact execSpiWriteDrain_answersOk _ hs
  case timeNow => exact execTimeNow_answersOk _ _ hs
  case timeFrc => exact execTimeFrc_answersOk _ _ hs
  case timeRs => exact execTimeRs_answersOk _ _ _ hs
  case timeHost => exact execTimeHost_answersOk _ _ _ hs
  case timeStepLog => exact execTimeStepLog_answersOk _ _ hs
  case timeClockIdWrite => exact execTimeClockIdWrite_answersOk _ _ _ hs
  case timeClockIdRead => exact execTimeClockIdRead_answersOk _ _ hs
  case timeGmId => exact execTimeGmId_answersOk _ _ hs
  case planScheduleRead => exact execPlanScheduleRead_answersOk _ _ _ _ hs
  case planScheduleWrite => exact execPlanScheduleWrite_answersOk _ _ _ _ _ hs
  case planEnergyWork => exact execPlanEnergyWork_answersOk _ _ _ _ hs
  case ledgerEnergy => exact execLedgerEnergy_answersOk _ _ _ hs
  case tarnHead => exact execTarnHead_answersOk _ _ _ hs
  case tarnOldest => exact execTarnOldest_answersOk _ _ _ hs
  case tdcPop => exact execTdcPop_answersOk _ _ _ hs
  case tdcIvpop => exact execTdcIvpop_answersOk _ _ _ hs
  case tdcGateTimeRead => exact execTdcGateTimeRead_answersOk _ _ _ _ hs
  case tdcGateTimeWrite => exact execTdcGateTimeWrite_answersOk _ _ _ _ _ hs
  case nfsUnlock => exact execNfsUnlock_answersOk _ _ _ hs
  case nfsCatSts => exact execNfsCatSts_answersOk _ _ _ hs
  case dmaAr => exact execDmaAr_answersOk _ _ _ _ hs
  case ddrFreezeAddr => exact execDdrFreezeAddr_answersOk _ _ _ hs
  case ddrFreezeSts => exact execDdrFreezeSts_answersOk _ _ _ hs
  case ethAddressRead => exact execEthAddressRead_answersOk _ _ _ hs
  case ethAddressWrite => exact execEthAddressWrite_answersOk _ _ _ _ hs
  case ethMgmtKey => exact execEthMgmtKey_answersOk _ _ _ hs
  case fcolFirstDetail => exact execFcolFirstDetail_answersOk _ _ hs
  case fcolLog => exact execFcolLog_answersOk _ _ hs
  case fuseKeyHash => exact execFuseKeyHash_answersOk _ _ _ hs
  case powerOnReset => exact execPowerOnReset_answersOk hs
  case ddrWriteServe => exact execDdrWriteServe_answersOk _ _ _ _ _ hs
  all_goals exact Keeps.answersOk (by simp) hs

/-- Settles O4: each operation that writes capture memory keeps its canonical form, only a control fault and a reset set
the leading hub, and the second hub leads in no part but the one that has it. -/
theorem invKept : Obligations.InvKept := by
  unfold Obligations.InvKept
  intro s t hinv hstep
  unfold step at hstep
  rw [← State.held_ok_iff] at hinv ⊢
  split at hstep
  case h_1 =>
    cases hstep
    simpa using hinv
  case h_2 c rest _ =>
    have hrest : ({ s with pending := rest } : State).held.Ok := hinv
    exact exec_answersOk c hrest t hstep

end Sys2Proof.Machine
end

section
/-! PROOFS. What a row of chapters 1 and 2 leaves alone. `State.outside parts win` is what is left of a state without its
registers in the window `win` and without the parts of `parts`; that an operation stays inside is one equation, and `simp`
chains the equations of the operations it is made of. -/

namespace Sys2Proof.Machine

/-- A part of the state, beside the registers, that a row of chapters 1 and 2 may change. -/
inductive FramePart where
  | force | tabF | flight | marks | link | acq | jrx | time | codes | spares | stream | wb | trg | recs | dens | zooms
  deriving DecidableEq

section
variable {parts : List FramePart} {win : Nat → Prop}

/-- The state without its registers and the parts of `parts`. -/
def State.rest (parts : List FramePart) (s : State) : State :=
  { s with
    regs := []
    force := if .force ∈ parts then [] else s.force
    tabF := if .tabF ∈ parts then [] else s.tabF
    flight := if .flight ∈ parts then [] else s.flight
    marks := if .marks ∈ parts then [] else s.marks
    link := if .link ∈ parts then [] else s.link
    acq := if .acq ∈ parts then [] else s.acq
    jrx := if .jrx ∈ parts then {} else s.jrx
    time := if .time ∈ parts then {} else s.time
    codes := if .codes ∈ parts then [] else s.codes
    spares := if .spares ∈ parts then [] else s.spares
    stream := if .stream ∈ parts then [] else s.stream
    wb := if .wb ∈ parts then [] else s.wb
    trg := if .trg ∈ parts then [] else s.trg
    recs := if .recs ∈ parts then [] else s.recs
    dens := if .dens ∈ parts then [] else s.dens
    zooms := if .zooms ∈ parts then [] else s.zooms }

/-- The state `s` with the registers and the parts of `parts` as `t` has them. -/
def State.taking (parts : List FramePart) (s t : State) : State :=
  { s with
    regs := t.regs
    force := if .force ∈ parts then t.force else s.force
    tabF := if .tabF ∈ parts then t.tabF else s.tabF
    flight := if .flight ∈ parts then t.flight else s.flight
    marks := if .marks ∈ parts then t.marks else s.marks
    link := if .link ∈ parts then t.link else s.link
    acq := if .acq ∈ parts then t.acq else s.acq
    jrx := if .jrx ∈ parts then t.jrx else s.jrx
    time := if .time ∈ parts then t.time else s.time
    codes := if .codes ∈ parts then t.codes else s.codes
    spares := if .spares ∈ parts then t.spares else s.spares
    stream := if .stream ∈ parts then t.stream else s.stream
    wb := if .wb ∈ parts then t.wb else s.wb
    trg := if .trg ∈ parts then t.trg else s.trg
    recs := if .recs ∈ parts then t.recs else s.recs
    dens := if .dens ∈ parts then t.dens else s.dens
    zooms := if .zooms ∈ parts then t.zooms else s.zooms }

theorem State.taking_self (parts : List FramePart) (s : State) : s.taking parts s = s := by simp [State.taking]

theorem State.taking_rest (parts : List FramePart) (s t : State) : (s.rest parts).taking parts t = s.taking parts t := by
  have hpart : ∀ {α : Type} (k : FramePart) (x d y : α),
      (if k ∈ parts then x else if k ∈ parts then d else y) = if k ∈ parts then x else y := by
    intro α k x d y
    split <;> rfl
  simp only [State.taking, State.rest, hpart]

/-- What is left of a state without the parts of `parts` and the registers at window addresses that meet `win`. -/
def State.outside (parts : List FramePart) (win : Nat → Prop) (s : State) : State × ({a // ¬ win a} → Word) :=
  (s.rest parts, fun a => s.reg a)

/-- The answer `o` to a row leaves `s` as it is outside `parts` and `win`. -/
def StaysInside (parts : List FramePart) (win : Nat → Prop) (s : State) (o : Host.Outcome State Fault Refusal) : Prop :=
  ∀ t, o = .next t → t.outside parts win = s.outside parts win

theorem StaysInside.leaves {c : Instr} {s : State} {upd : State → State} (hupd : ∀ t, s.taking parts t = upd t)
    (h : StaysInside parts win s (exec c s)) : Leaves c s upd win := by
  intro t ht
  obtain ⟨hrest, hreg⟩ := Prod.mk.inj (h t ht)
  refine ⟨?_, fun a ha => congrFun hreg ⟨a, ha⟩⟩
  calc t = t.taking parts t := (State.taking_self parts t).symm
    _ = (t.rest parts).taking parts t := (State.taking_rest parts t t).symm
    _ = (s.rest parts).taking parts t := by rw [hrest]
    _ = s.taking parts t := State.taking_rest parts s t
    _ = upd t := hupd t

theorem StaysInside.leaves_of_mem {rows : List Instr} {s : State} {upd : State → State}
    (hupd : ∀ t, s.taking parts t = upd t) (h : ∀ row ∈ rows, StaysInside parts win s (exec row s)) :
    ∀ row ∈ rows, Leaves row s upd win := fun row hrow => (h row hrow).leaves hupd

@[simp] theorem staysInside_next (s t : State) :
    StaysInside parts win s (.next t) ↔ t.outside parts win = s.outside parts win := by simp [StaysInside]

@[simp] theorem staysInside_ite (c : Prop) [Decidable c] (s : State) (o p : Host.Outcome State Fault Refusal) :
    StaysInside parts win s (if c then o else p) ↔
      if c then StaysInside parts win s o else StaysInside parts win s p := by
  split <;> rfl

@[simp] theorem State.outside_ite (c : Prop) [Decidable c] (s t : State) :
    (if c then s else t).outside parts win = if c then s.outside parts win else t.outside parts win := apply_ite _ _ _ _

/-- A fold stays inside where its steps do. -/
theorem State.foldl_outside_mem {β : Type} (f : State → β → State) (xs : List β) (s : State)
    (h : ∀ b ∈ xs, ∀ s, (f s b).outside parts win = s.outside parts win) :
    (xs.foldl f s).outside parts win = s.outside parts win := by
  induction xs generalizing s with
  | nil => rfl
  | cons b xs ih => exact (ih (f s b) fun c hc => h c (.tail b hc)).trans (h b (.head xs) s)

@[simp] theorem State.foldl_outside {β : Type} (f : State → β → State) (xs : List β) (s : State)
    (h : ∀ s b, (f s b).outside parts win = s.outside parts win) :
    (xs.foldl f s).outside parts win = s.outside parts win :=
  State.foldl_outside_mem f xs s fun b _ s => h s b

/-! The window of a block: 64 KiB from where its registers start (R633). -/

/-- The window holds every register of the block that starts at `b`. -/
def Covers (win : Nat → Prop) (b : Nat) : Prop := ∀ o < 0x10000, win (b + o)

/-- The window holds the blocks of both dies of the pair of lead die `l`, which start where `B` says. -/
def CoversPair (win : Nat → Prop) (B : Nat → Nat) (l : Nat) : Prop := Covers win (B l) ∧ Covers win (B (l + 1))

theorem CoversPair.of_mem {B : Nat → Nat} {s : State} {l t : Nat} (h : CoversPair win B l) (ht : t ∈ pairDies s l) :
    Covers win (B t) := by
  have hpair : t = l ∨ t = l + 1 := by
    unfold pairDies at ht
    split at ht
    · simpa using ht
    · exact .inl (by simpa using ht)
  rcases hpair with rfl | rfl
  · exact h.1
  · exact h.2

/-! The fields that rows of chapters 1 and 2 write, each in its block. -/

@[simp] theorem hub_offsets : R.BOOT_STATUS_STATE.off < 0x10000 ∧ R.BOOT_STATUS_DIE_LOST.off < 0x10000 ∧
    R.CHIP_CONFIG_USABLE.off < 0x10000 ∧ R.CLK_STATUS_SAMP_LOCK.off < 0x10000 := by decide

@[simp] theorem wb_trg_offsets : R.WB_STATUS_RUN.off < 0x10000 ∧ R.WB_STATUS_PIPES.off < 0x10000 ∧
    R.WB_SAT_COUNT_SATURATIONS.off < 0x10000 ∧ R.TRG_STATUS_RUN.off < 0x10000 ∧
    R.TRG_COND_STATE_STATE.off < 0x10000 := by decide

@[simp] theorem rec_chz_offsets : R.REC_TARN_STATUS_RUN.off < 0x10000 ∧ R.REC_TARN_STATUS_FULL.off < 0x10000 ∧
    R.CHZ_STATUS_RUN.off < 0x10000 ∧ R.CHZ_STATUS_PRIMED.off < 0x10000 := by decide

@[simp] theorem dens_offsets : R.DENS_STATUS_RUN.off < 0x10000 ∧ R.DENS_STATUS_DECIM.off < 0x10000 ∧
    R.DENS_STATUS_EVERY.off < 0x10000 ∧ R.DENS_STATUS_SAT.off < 0x10000 ∧ R.DENS_SHADOW_PENDING.off < 0x10000 ∧
    R.DENS_LATE_COUNT_LATE.off < 0x10000 ∧ R.DENS_PARTIAL_COUNT_PARTIALS.off < 0x10000 := by decide

@[simp] theorem jrx_offsets : R.JRX_CTRL_EN.off < 0x10000 ∧ R.JRX_STATUS_LANE_LOCK.off < 0x10000 ∧
    R.JRX_STATUS_READY.off < 0x10000 ∧ R.JRX_STATUS_RBD_ERR.off < 0x10000 ∧ R.JRX_STATUS_CRC_ERR.off < 0x10000 ∧
    R.JRX_ARRIVAL_EARLY.off < 0x10000 ∧ R.JRX_ARRIVAL_LATE.off < 0x10000 ∧
    R.JRX_ERR_COUNT_ERRORS.off < 0x10000 := by decide

@[simp] theorem acq_offsets : R.ACQ_CTRL_EN.off < 0x10000 ∧ R.ACQ_CTRL_GAIN.off < 0x10000 ∧
    R.ACQ_STATUS_CLK_LOCK.off < 0x10000 ∧ R.ACQ_STATUS_STREAM.off < 0x10000 ∧ R.ACQ_STATUS_UNCAL.off < 0x10000 ∧
    R.ACQ_STATUS_DEGRADED.off < 0x10000 ∧ R.ACQ_STATUS_FROZEN.off < 0x10000 ∧ R.ACQ_STATUS_LIMIT.off < 0x10000 ∧
    R.ACQ_STATUS_OVR.off < 0x10000 ∧ R.ACQ_STATUS_GAIN_CLAMP.off < 0x10000 ∧
    R.ACQ_OVR_COUNT_OVR_SAMPLES.off < 0x10000 ∧ R.ACQ_DELAY_MEAS_DELAY.off < 0x10000 ∧
    R.ACQ_DELAY_BOARD_DELAY.off < 0x10000 ∧ R.ACQ_DELAY_TOTAL_DELAY.off < 0x10000 ∧ R.EST_SEL_SLOT.off < 0x10000 ∧
    R.EST_OFS_OFS.off < 0x10000 ∧ R.EST_GAIN_GAIN.off < 0x10000 ∧ R.EST_SKEW_SKEW.off < 0x10000 ∧
    R.XSKEW_RESULT_SKEW.off < 0x10000 ∧ R.XSKEW_RESULT_VALID.off < 0x10000 ∧ R.XSKEW_RESULT_FAIL.off < 0x10000 ∧
    R.XSKEW_RESULT_NA.off < 0x10000 := by decide

@[simp] theorem cal_offsets : R.CAL_CTRL_MODE.off < 0x10000 ∧ R.CAL_STATE_STATE.off < 0x10000 ∧
    R.CAL_STATE_CAUSE.off < 0x10000 ∧ R.CAL_STATE_RERUN.off < 0x10000 ∧ R.CAL_STATE_SLOT.off < 0x10000 ∧
    R.CAL_STATE_SPARE.off < 0x10000 ∧ R.CAL_TEMP_TEMP_REF.off < 0x10000 ∧ R.CAL_TEMP_TEMP_NOW.off < 0x10000 ∧
    R.CAL_RUN_COUNT_RUNS.off < 0x10000 ∧ R.CAL_REJECT_COUNT_REJECTS.off < 0x10000 ∧
    R.CAL_REJECT_CAUSE_CAUSES.off < 0x10000 ∧ R.CAL_TIMEOUT_COUNT_TIMEOUTS.off < 0x10000 ∧
    R.CAL_RETIRED_INDEX.off < 0x10000 ∧ R.CAL_RETIRED_REASON.off < 0x10000 ∧ R.CAL_RETIRED_SECOND.off < 0x10000 ∧
    R.SC_n_STATE_LIMIT.off < 0x10000 ∧ R.SC_n_STATE_ROLE.off < 0x10000 ∧ R.SC_n_STATE_SLOT.off < 0x10000 := by decide

@[simp] theorem trimFld_offset (i : Nat) : (trimFld i).1.off < 0x10000 := by
  unfold trimFld
  split <;> decide

/-! Writes of registers. -/

@[simp] theorem State.wr_outside (s : State) (b : Nat) (f : Fld) (v : Nat) (hb : Covers win b) (hf : f.off < 0x10000) :
    (s.wr b f v).outside parts win = s.outside parts win := by
  have hreg : ∀ a : {a // ¬ win a}, (s.wr b f v).reg a = s.reg a := fun a =>
    State.reg_wr_other s b f v a fun ha => a.2 (ha ▸ hb f.off hf)
  exact Prod.ext rfl (funext hreg)

@[simp] theorem State.wrI_outside (s : State) (b : Nat) (f : Fld) (v : Int) (hb : Covers win b) (hf : f.off < 0x10000) :
    (s.wrI b f v).outside parts win = s.outside parts win := State.wr_outside s b f _ hb hf

@[simp] theorem State.inc_outside (s : State) (b : Nat) (f : Fld) (n : Nat) (hb : Covers win b) (hf : f.off < 0x10000) :
    (s.inc b f n).outside parts win = s.outside parts win := State.wr_outside s b f _ hb hf

@[simp] theorem State.wrs_outside (b : Nat) (xs : List (Fld × Nat)) (s : State) (hb : Covers win b)
    (hxs : ∀ x ∈ xs, x.1.off < 0x10000) : (s.wrs b xs).outside parts win = s.outside parts win := by
  induction xs generalizing s with
  | nil => rfl
  | cons x xs ih =>
    exact (ih (s.wr b x.1 x.2) fun y hy => hxs y (.tail x hy)).trans (State.wr_outside s b x.1 x.2 hb (hxs x (.head xs)))

/-! Updates of one part. -/

@[simp] theorem State.raise_outside (s : State) (src detail : Nat) (h : .flight ∈ parts) :
    (s.raise src detail).outside parts win = s.outside parts win := by
  simp [State.outside, State.rest, State.raise, State.reg, h]

@[simp] theorem State.mark_outside (s : State) (t first last bits : Nat) (h : .marks ∈ parts) :
    (s.mark t first last bits).outside parts win = s.outside parts win := by
  simp [State.outside, State.rest, State.reg, h]

@[simp] theorem State.setLink_outside (s : State) (l : Nat) (v : Link) (h : .link ∈ parts) :
    (s.setLink l v).outside parts win = s.outside parts win := by
  simp [State.outside, State.rest, State.setLink, State.reg, h]

@[simp] theorem State.modAcq_outside (s : State) (a : Nat) (f : AcqSt → AcqSt) (h : .acq ∈ parts) :
    (s.modAcq a f).outside parts win = s.outside parts win := by
  simp [State.outside, State.rest, State.modAcq, State.setAcq, State.reg, h]

@[simp] theorem State.modWb_outside (s : State) (t : Nat) (f : WbSt → WbSt) (h : .wb ∈ parts) :
    (s.modWb t f).outside parts win = s.outside parts win := by
  simp [State.outside, State.rest, State.modWb, State.reg, h]

@[simp] theorem State.modTrg_outside (s : State) (l : Nat) (f : TrgSt → TrgSt) (h : .trg ∈ parts) :
    (s.modTrg l f).outside parts win = s.outside parts win := by
  simp [State.outside, State.rest, State.modTrg, State.reg, h]

@[simp] theorem State.modRec_outside (s : State) (l : Nat) (f : RecSt → RecSt) (h : .recs ∈ parts) :
    (s.modRec l f).outside parts win = s.outside parts win := by
  simp [State.outside, State.rest, State.modRec, State.reg, h]

@[simp] theorem State.modDens_outside (s : State) (l : Nat) (f : DensSt → DensSt) (h : .dens ∈ parts) :
    (s.modDens l f).outside parts win = s.outside parts win := by
  simp [State.outside, State.rest, State.modDens, State.reg, h]

@[simp] theorem State.modZoom_outside (s : State) (t n : Nat) (f : ZoomSt → ZoomSt) (h : .zooms ∈ parts) :
    (s.modZoom t n f).outside parts win = s.outside parts win := by
  simp [State.outside, State.rest, State.modZoom, State.reg, h]

@[simp] theorem State.enforce_outside (s : State) (b lo hi : Nat) (h : .force ∈ parts) :
    (s.enforce b lo hi).outside parts win = s.outside parts win := by
  simp [State.outside, State.rest, State.enforce, State.reg, h]

@[simp] theorem State.tabEnforce_outside (s : State) (lo hi : Nat) (h : .tabF ∈ parts) :
    (s.tabEnforce lo hi).outside parts win = s.outside parts win := by
  simp [State.outside, State.rest, State.tabEnforce, State.reg, h]

@[simp] theorem State.putSample_outside (s : State) (inp j : Nat) (x : Int × Int) (h : .stream ∈ parts) :
    (s.putSample inp j x).outside parts win = s.outside parts win := by
  simp [State.outside, State.rest, State.putSample, State.reg, h]

@[simp] theorem State.takeCodes_outside (s : State) (a f : Nat) (codes : List (BitVec 12)) (spare : BitVec 12)
    (hcodes : .codes ∈ parts) (hspares : .spares ∈ parts) :
    (s.takeCodes a f codes spare).outside parts win = s.outside parts win := by
  simp [State.outside, State.rest, State.takeCodes, State.reg, hcodes, hspares]

@[simp] theorem State.jrx_outside (s : State) (x : JrxSt) (h : .jrx ∈ parts) :
    ({ s with jrx := x } : State).outside parts win = s.outside parts win := by
  simp [State.outside, State.rest, State.reg, h]

@[simp] theorem State.jrx_time_outside (s : State) (x : JrxSt) (y : TimeSt) (hjrx : .jrx ∈ parts)
    (htime : .time ∈ parts) : ({ s with jrx := x, time := y } : State).outside parts win = s.outside parts win := by
  simp [State.outside, State.rest, State.reg, hjrx, htime]

/-! The links (R25). -/

@[simp] theorem State.showUsable_outside (s : State) (h0 : Covers win (chipB 0)) (h1 : Covers win (chipB 1)) :
    s.showUsable.outside parts win = s.outside parts win := by
  simp [State.showUsable, h0, h1]

theorem execLinkTrain_staysInside (trained spare : BitVec 9) (s : State) (hlink : .link ∈ parts)
    (hboot : Covers win (bootB 0)) (h0 : Covers win (chipB 0)) (h1 : Covers win (chipB 1)) :
    StaysInside parts win s (execLinkTrain trained spare s) := by
  simp [execLinkTrain, trainLinks, hlink, hboot, h0, h1]

theorem execLinkTrainTimeout_staysInside (l : Fin 9) (s : State) (hlink : .link ∈ parts)
    (hboot : Covers win (bootB 0)) (h0 : Covers win (chipB 0)) (h1 : Covers win (chipB 1)) :
    StaysInside parts win s (execLinkTrainTimeout l s) := by
  simp [execLinkTrainTimeout, hlink, hboot, h0, h1]

/-! The wide-band transform, trigger, record and zoom operations of a stream that starts. -/

@[simp] theorem wbSchedule_outside (t j : Nat) (s : State) (hwb : .wb ∈ parts) :
    (wbSchedule t j s).outside parts win = s.outside parts win := by simp [wbSchedule, hwb]

@[simp] theorem wbRestart_outside (t j idx : Nat) (s : State) (hwb : .wb ∈ parts) :
    (wbRestart t j idx s).outside parts win = s.outside parts win := by simp [wbRestart, hwb]

@[simp] theorem wbShow_outside (t : Nat) (s : State) (hb : Covers win (wbB t)) :
    (wbShow t s).outside parts win = s.outside parts win := by
  simp [wbShow, hb]

@[simp] theorem rsAdvance_outside (t : Nat) (s : State) (hwb : .wb ∈ parts) (hb : Covers win (wbB t)) :
    (rsAdvance t s).outside parts win = s.outside parts win := by
  simp [rsAdvance, hwb, hb]

@[simp] theorem trgSchedule_outside (l j : Nat) (s : State) (htrg : .trg ∈ parts) :
    (trgSchedule l j s).outside parts win = s.outside parts win := by simp [trgSchedule, htrg]

@[simp] theorem trgShow_outside (l : Nat) (s : State) (hb : Covers win (trgB l)) :
    (trgShow l s).outside parts win = s.outside parts win := by
  simp [trgShow, hb]

@[simp] theorem trgStreamStart_outside (l j : Nat) (s : State) (htrg : .trg ∈ parts) (hb : CoversPair win trgB l) :
    (trgStreamStart l j s).outside parts win = s.outside parts win := by
  have hclear : ∀ u v : State,
      ((pairDies u l).foldl (fun s t => s.wr (trgB t) R.TRG_COND_STATE_STATE 0) v).outside parts win =
        v.outside parts win := fun u v =>
    State.foldl_outside_mem _ _ _ fun t ht s => State.wr_outside s _ _ _ (hb.of_mem ht) (by simp)
  simp [trgStreamStart, htrg, hb.1, hclear]

@[simp] theorem tarnStart_outside (l : Nat) (s : State) (hrecs : .recs ∈ parts) (hb : Covers win (recB l)) :
    (tarnStart l s).outside parts win = s.outside parts win := by
  simp [tarnStart, hrecs, hb]

@[simp] theorem zoomSync_outside (t n : Nat) (s : State) (hzooms : .zooms ∈ parts) :
    (zoomSync t n s).outside parts win = s.outside parts win := by simp [zoomSync, hzooms]

@[simp] theorem zoomRestartAll_outside (t : Nat) (s : State) (hzooms : .zooms ∈ parts) :
    (zoomRestartAll t s).outside parts win = s.outside parts win := by simp [zoomRestartAll, hzooms]

@[simp] theorem chzStreamStart_outside (t : Nat) (s : State) (hzooms : .zooms ∈ parts) (hb : Covers win (chzB t)) :
    (chzStreamStart t s).outside parts win = s.outside parts win := by
  simp [chzStreamStart, hzooms, hb]

/-! The density engine. -/

@[simp] theorem densShow_outside (l : Nat) (s : State) (hb : CoversPair win densB l) :
    (densShow l s).outside parts win = s.outside parts win := by
  simp [densShow, hb.1, hb.2]

@[simp] theorem satShow_outside (t : Nat) (hit : Bool) (s : State) (hb : Covers win (densB t)) :
    (satShow t hit s).outside parts win = s.outside parts win := by
  simp [satShow, hb]

section
variable (hdens : .dens ∈ parts) {l : Nat} (hb : Covers win (densB l))
include hdens hb

@[simp] theorem densAdd_outside (k : Nat) (g : Tbl Nat → Tbl Nat) (s : State) :
    (densAdd l k g s).outside parts win = s.outside parts win := by simp [densAdd, hdens, hb]

@[simp] theorem takeFrame_outside (extra : Nat) (s : State) :
    (takeFrame l extra s).outside parts win = s.outside parts win := by
  simp only [takeFrame]
  split
  · rfl
  · simp [hdens, hb]

@[simp] theorem takeReady_outside (n : Nat) (s : State) :
    (takeReady l n s).outside parts win = s.outside parts win := by
  induction n generalizing s with
  | zero => rfl
  | succ n ih =>
    unfold takeReady
    split
    · split
      · rw [ih, takeFrame_outside hdens hb]
      · rfl
    · rfl

@[simp] theorem mergeArrive_outside (s : State) (p : DensPart) :
    (mergeArrive l s p).outside parts win = s.outside parts win := by
  unfold mergeArrive
  split
  · simp [hdens, hb]
  · simp [hdens, hb]

@[simp] theorem endFrame_outside (s : State) : (endFrame l s).outside parts win = s.outside parts win := by
  simp [endFrame, hdens, hb]

@[simp] theorem endFrames_outside (e n : Nat) (s : State) :
    (endFrames l e n s).outside parts win = s.outside parts win := by
  induction n generalizing s with
  | zero => rfl
  | succ n ih => simp [endFrames, ih, hdens, hb]

omit hb in
@[simp] theorem endRow_outside (n : Nat) (s : State) : (endRow l n s).outside parts win = s.outside parts win := by
  simp [endRow, hdens]

omit hb in
@[simp] theorem endRows_outside (e n : Nat) (s : State) :
    (endRows l e n s).outside parts win = s.outside parts win := by
  induction n generalizing s with
  | zero => rfl
  | succ n ih => simp [endRows, ih, hdens]

@[simp] theorem densAdvance_outside (e : Nat) (s : State) :
    (densAdvance l e s).outside parts win = s.outside parts win := by simp [densAdvance, hdens, hb]

@[simp] theorem densClose_outside (e : Nat) (s : State) :
    (densClose l e s).outside parts win = s.outside parts win := by
  simp [densClose, hdens, hb]

omit hb in
@[simp] theorem densClear_outside (s : State) : (densClear l s).outside parts win = s.outside parts win := by
  simp [densClear, hdens]

end

@[simp] theorem densTakeEffect_outside (l : Nat) (after : Option Nat) (e : Nat) (s : State) (hdens : .dens ∈ parts)
    (hforce : .force ∈ parts) (htabF : .tabF ∈ parts) (hb : CoversPair win densB l) :
    (densTakeEffect l after e s).outside parts win = s.outside parts win := by
  simp [densTakeEffect, hdens, hforce, htabF, hb, hb.1]

@[simp] theorem densIdle_outside (l : Nat) (s : State) (hdens : .dens ∈ parts)
    (hforce : .force ∈ parts) (htabF : .tabF ∈ parts) (hb : CoversPair win densB l) :
    (densIdle l s).outside parts win = s.outside parts win := by
  simp [densIdle, hdens, hforce, htabF, hb]

/-! The start of a stream (Sys2Proof/Machine/Stream.lean). -/

/-- The parts that the start of a stream changes. -/
def streamParts : List FramePart := [.force, .tabF, .wb, .trg, .recs, .dens, .zooms]

/-- The window holds the blocks that consume an input's stream on the dies of the pair of lead die `l`. -/
structure CoversStream (win : Nat → Prop) (l : Nat) : Prop where
  wb : CoversPair win wbB l
  trg : CoversPair win trgB l
  recd : CoversPair win recB l
  dens : CoversPair win densB l
  chz : CoversPair win chzB l

theorem streamStart_outside (inp j : Nat) (s : State) (hparts : streamParts ⊆ parts)
    (hb : CoversStream win (leadOf inp)) :
    (streamStart inp j s).outside parts win = s.outside parts win := by
  simp only [streamParts, List.cons_subset] at hparts
  obtain ⟨hforce, htabF, hwb, htrg, hrecs, hdens, hzooms, -⟩ := hparts
  have hchz : ∀ u v : State,
      ((pairDies u (leadOf inp)).foldl (fun s t => chzStreamStart t s) v).outside parts win =
        v.outside parts win := fun u v =>
    State.foldl_outside_mem _ _ _ fun t ht s => chzStreamStart_outside t s hzooms (hb.chz.of_mem ht)
  simp [streamStart, hchz, hforce, htabF, hwb, htrg, hrecs, hdens, hb.wb.1, hb.trg, hb.recd.1, hb.dens]

/-! The calibration (Sys2Proof/Machine/Acq.lean). -/

section
variable {a : Nat} (ha : Covers win (acqB a))
include ha

@[simp] theorem State.calShow_outside (s : State) : (s.calShow a).outside parts win = s.outside parts win := by
  simp [State.calShow, ha]

@[simp] theorem delayTotal_outside (s : State) : (delayTotal a s).outside parts win = s.outside parts win := by
  simp [delayTotal, ha]

@[simp] theorem estSnapshot_outside (s : State) : (estSnapshot a s).outside parts win = s.outside parts win := by
  simp [estSnapshot, ha]

section
variable (hacq : .acq ∈ parts)
include hacq

@[simp] theorem startRun_outside (c : Nat) (s : State) : (startRun a c s).outside parts win = s.outside parts win := by
  simp [startRun, ha, hacq]

@[simp] theorem setRerun_outside (c : Nat) (s : State) : (setRerun a c s).outside parts win = s.outside parts win := by
  simp [setRerun, ha, hacq]

@[simp] theorem calCause_outside (c : Nat) (s : State) : (calCause a c s).outside parts win = s.outside parts win := by
  simp [calCause, ha, hacq]

@[simp] theorem enterIdle_outside (s : State) : (enterIdle a s).outside parts win = s.outside parts win := by
  simp [enterIdle, ha, hacq]

@[simp] theorem calOff_outside (s : State) : (calOff a s).outside parts win = s.outside parts win := by
  simp [calOff, ha, hacq]

@[simp] theorem calOn_outside (s : State) : (calOn a s).outside parts win = s.outside parts win := by
  unfold calOn
  split <;> simp [ha, hacq]

@[simp] theorem runOver_outside (done : Bool) (s : State) :
    (runOver a done s).outside parts win = s.outside parts win := by
  simp only [runOver]
  split <;> simp [ha, hacq]

@[simp] theorem stepDone_outside (s : State) : (stepDone a s).outside parts win = s.outside parts win := by
  simp [stepDone, ha, hacq]

@[simp] theorem idleDone_outside (s : State) : (idleDone a s).outside parts win = s.outside parts win := by
  simp only [idleDone]
  split <;> simp [ha, hacq]

@[simp] theorem beginStep_outside (k : StepKind) (s : State) :
    (beginStep a k s).outside parts win = s.outside parts win := by
  simp [beginStep, ha, hacq]

@[simp] theorem freeze_outside (s : State) : (freeze a s).outside parts win = s.outside parts win := by
  simp only [freeze]
  split <;> simp [ha, hacq]

@[simp] theorem calCmdAbort_outside (s : State) : (calCmdAbort a s).outside parts win = s.outside parts win := by
  simp [calCmdAbort, ha, hacq]

@[simp] theorem calCtrlWritten_outside (old : Nat) (s : State) :
    (calCtrlWritten a old s).outside parts win = s.outside parts win := by
  unfold calCtrlWritten
  extract_lets m u q
  have hu : u.outside parts win = s.outside parts win := by simp [u, ha, hacq]
  split
  · split <;> simp [hu, ha, hacq]
  · simp [hu, ha]

@[simp] theorem gainWritten_outside (s : State) : (gainWritten a s).outside parts win = s.outside parts win := by
  simp [gainWritten, ha, hacq]

end

omit ha in
@[simp] theorem scFailed_outside (n j : Nat) (s : State) (hacq : .acq ∈ parts) (hflight : .flight ∈ parts) :
    (scFailed a n j s).outside parts win = s.outside parts win := by
  simp [scFailed, hacq, hflight]

/-! Trims: those of a sub-converter lie at its registers, which start at `scB a n`. -/

section
variable {n : Nat} (hn : Covers win (scB a n))
include hn

@[simp] theorem setTrim_outside (i : Nat) (v : Int) (s : State) :
    (setTrim a n i v s).outside parts win = s.outside parts win := by
  simp [setTrim, showLimit, ha, hn]

@[simp] theorem moveTrims_outside (d : Int × Int × Int) (s : State) :
    (moveTrims a n d s).outside parts win = s.outside parts win := by
  simp [moveTrims, ha, hn]

@[simp] theorem retire_outside (reason : Nat) (s : State) (hacq : .acq ∈ parts) :
    (retire a n reason s).outside parts win = s.outside parts win := by
  simp [retire, ha, hn, hacq]

end
end

/-! The rows of the calibration. -/

section
variable {a : ADie} (ha : Covers win (acqB a))
include ha

theorem execEstSelWrite_staysInside (slot : Fin 64) (s : State) : StaysInside parts win s (execEstSelWrite a slot s) := by
  simp [execEstSelWrite, ha]

theorem execAcqDelayMeasure_staysInside (v : BitVec 16) (s : State) :
    StaysInside parts win s (execAcqDelayMeasure a v s) := by
  simp [execAcqDelayMeasure, ha]

theorem execFactoryTrimLoad_staysInside (temp : Rat) (s : State) (hsc : ∀ n < 65, Covers win (scB a n)) :
    StaysInside parts win s (execFactoryTrimLoad a temp s) := by
  simp only [execFactoryTrimLoad, staysInside_ite, staysInside_next]
  split
  · trivial
  · exact State.foldl_outside_mem _ _ _ fun n hn s => by simp [ha, hsc n (List.mem_range.mp hn)]

theorem execCalStatTimeout_staysInside (s : State) (hflight : .flight ∈ parts) :
    StaysInside parts win s (execCalStatTimeout a s) := by
  simp [execCalStatTimeout, ha, hflight]

section
variable (hacq : .acq ∈ parts)
include hacq

theorem execGainWrite_staysInside (code : Fin 32) (s : State) : StaysInside parts win s (execGainWrite a code s) := by
  simp [execGainWrite, ha, hacq]

theorem execCalStepStart_staysInside (s : State) : StaysInside parts win s (execCalStepStart a s) := by
  simp [execCalStepStart, ha, hacq]

theorem execIdleStepStart_staysInside (s : State) : StaysInside parts win s (execIdleStepStart a s) := by
  simp [execIdleStepStart, ha, hacq]

theorem execCalRunComplete_staysInside (s : State) : StaysInside parts win s (execCalRunComplete a s) := by
  simp [execCalRunComplete, ha, hacq]

theorem execCalTempRead_staysInside (temp : BitVec 16) (s : State) :
    StaysInside parts win s (execCalTempRead a temp s) := by
  simp [execCalTempRead, ha, hacq]

theorem execCalIntervalExpire_staysInside (s : State) : StaysInside parts win s (execCalIntervalExpire a s) := by
  simp [execCalIntervalExpire, ha, hacq]

theorem execCalCmdRun_staysInside (s : State) : StaysInside parts win s (execCalCmdRun a s) := by
  simp [execCalCmdRun, calCmdRun, ha, hacq]

theorem execCalCmdAbort_staysInside (s : State) : StaysInside parts win s (execCalCmdAbort a s) := by
  simp [execCalCmdAbort, ha, hacq]

theorem execCalModeWrite_staysInside (mode : BitVec 2) (s : State) :
    StaysInside parts win s (execCalModeWrite a mode s) := by
  simp [execCalModeWrite, ha, hacq]

omit ha in
theorem execCalCmdXskew_staysInside (s : State) (h0 : Covers win (acqB 0)) :
    StaysInside parts win s (execCalCmdXskew a s) := by
  simp only [execCalCmdXskew, calCmdXskew, staysInside_next]
  split <;> simp [h0, hacq]

omit ha in
theorem execXskewComplete_staysInside (s : State) (h0 : Covers win (acqB 0)) (h1 : Covers win (acqB 1)) :
    StaysInside parts win s (execXskewComplete s) := by
  unfold execXskewComplete
  split
  · simp
  · next j hj =>
    generalize xskewPeak s j = peak
    obtain ⟨d, p, ideal⟩ := peak
    dsimp only
    split
    · simp
    · split
      · simp [h0, hacq]
      · rw [staysInside_next]
        split <;> simp [h0, h1, hacq]

theorem execSubwindowComplete_staysInside (s : State) (hflight : .flight ∈ parts) :
    StaysInside parts win s (execSubwindowComplete a s) := by
  simp [execSubwindowComplete, ha, hacq, hflight]

theorem execCalWindowComplete_staysInside (s : State) (hflight : .flight ∈ parts) :
    StaysInside parts win s (execCalWindowComplete a s) := by
  simp [execCalWindowComplete, ha, hacq, hflight]

/-! Rows that take a sub-converter's number from the state, which bounds it by no figure. -/

section
variable (hsc : ∀ n, Covers win (scB a n))
include hsc

theorem execFailedScReplace_staysInside (s : State) (hflight : .flight ∈ parts) :
    StaysInside parts win s (execFailedScReplace a s) := by
  simp only [execFailedScReplace]
  split
  · simp
  · split <;> simp [ha, hacq, hsc, hflight]

theorem execVerifyWindowComplete_staysInside (s : State) (hflight : .flight ∈ parts) :
    StaysInside parts win s (execVerifyWindowComplete a s) := by
  unfold execVerifyWindowComplete
  extract_lets q
  generalize verifyFigures s a q.slot (q.verSubs.take 4) = figures
  obtain ⟨ofs, gain, skew⟩ := figures
  dsimp only
  split
  · simp
  split
  · simp [ha, hacq]
  split
  · simp [ha, hacq]
  split
  · simp
  split <;> simp [ha, hacq, hsc, hflight]

theorem execSpareSwap_staysInside (s : State) : StaysInside parts win s (execSpareSwap a s) := by
  unfold execSpareSwap
  split
  · simp
  · simp [ha, hacq, hsc]

theorem execTrimUpdate_staysInside (s : State) : StaysInside parts win s (execTrimUpdate a s) := by
  simp only [execTrimUpdate]
  split
  · simp [ha, hacq, hsc]
  · simp

theorem execLiveTrimStep_staysInside (s : State) : StaysInside parts win s (execLiveTrimStep a s) := by
  simp [execLiveTrimStep, ha, hacq, hsc]

end
end
end

/-! The rows of the stream. -/

@[simp] theorem sendFrame_outside (a k : Nat) (s : State) (hstream : .stream ∈ parts) (hmarks : .marks ∈ parts) :
    (sendFrame a k s).outside parts win = s.outside parts win := by simp [sendFrame, hstream, hmarks]

/-- The parts that a frame of an input changes. -/
def frameParts : List FramePart := [.marks, .acq, .jrx, .codes, .spares, .stream, .wb]

theorem execStreamFrame_staysInside (a : ADie) (f : ConvFrame) (s : State) (hparts : frameParts ⊆ parts)
    (ha : Covers win (acqB a)) (hwa : Covers win (wbB (leadOf a))) (hw0 : Covers win (wbB 0)) :
    StaysInside parts win s (execStreamFrame a f s) := by
  simp only [frameParts, List.cons_subset] at hparts
  obtain ⟨hmarks, hacq, hjrx, hcodes, hspares, hstream, hwb, -⟩ := hparts
  have hput : ∀ (xs : List ((Int × Int) × Nat)) (u : State),
      (xs.foldl (fun s x => s.putSample 0 (s.jrx.next + x.2) x.1) u).outside parts win = u.outside parts win := by
    simp [hstream]
  simp [execStreamFrame, jrxFrame, acqFrame, hput, ha, hwa, hw0, hmarks, hacq, hjrx, hcodes, hspares, hstream, hwb]

theorem execAcqEnable_staysInside (a : ADie) (s : State) (hparts : streamParts ⊆ parts) (hacq : .acq ∈ parts)
    (ha : Covers win (acqB a)) (hstream : CoversStream win (leadOf a)) : StaysInside parts win s (execAcqEnable a s) := by
  simp [execAcqEnable, acqEnable, startStreamAt, streamStart_outside, hparts, hstream, ha, hacq]

@[simp] theorem showSampLock_outside (s : State) (h0 : Covers win (clkB 0)) (h1 : Covers win (clkB 1)) :
    (showSampLock s).outside parts win = s.outside parts win := by
  have hclk : ∀ h ∈ s.clkHubs, Covers win (clkB h) := by
    intro h hh
    unfold State.clkHubs at hh
    split at hh <;> simp only [List.mem_cons, List.not_mem_nil, or_false] at hh
    · rcases hh with rfl | rfl
      · exact h0
      · exact h1
    · exact hh ▸ h0
  exact State.foldl_outside_mem _ _ _ fun h hh s => by simp [hclk h hh]

theorem execSampleClockLock_staysInside (a : ADie) (s : State) (ha : Covers win (acqB a)) (h0 : Covers win (clkB 0))
    (h1 : Covers win (clkB 1)) : StaysInside parts win s (execSampleClockLock a s) := by
  simp [execSampleClockLock, ha, h0, h1]

theorem execSampleClockUnlock_staysInside (a : ADie) (s : State)
    (hparts : [.flight, .marks, .acq, .stream, .wb] ⊆ parts) (ha : Covers win (acqB a)) (h0 : Covers win (clkB 0))
    (h1 : Covers win (clkB 1)) (hw : Covers win (wbB (leadOf a))) :
    StaysInside parts win s (execSampleClockUnlock a s) := by
  simp only [List.cons_subset] at hparts
  obtain ⟨hflight, hmarks, hacq, hstream, hwb, -⟩ := hparts
  simp [execSampleClockUnlock, flushFrames, ha, h0, h1, hw, hflight, hmarks, hacq, hstream, hwb]

/-! The rows of the JESD204C receiver. -/

section
variable (hjrxB : Covers win (jrxB 0))
include hjrxB

theorem execJrxCrcError_staysInside (s : State) : StaysInside parts win s (execJrxCrcError s) := by
  simp [execJrxCrcError, hjrxB]

theorem execJrxEnable_staysInside (s : State) (hjrx : .jrx ∈ parts) : StaysInside parts win s (execJrxEnable s) := by
  have henable : (jrxEnable s).outside parts win = s.outside parts win :=
    (State.jrx_outside _ _ hjrx).trans (by simp [hjrxB])
  simp [execJrxEnable, henable]

theorem execJrxLaneLock_staysInside (lane : Fin 16) (arrival : BitVec 16) (s : State) (hjrx : .jrx ∈ parts) :
    StaysInside parts win s (execJrxLaneLock lane arrival s) := by
  unfold execJrxLaneLock
  split
  · exact (staysInside_next _ _).mpr ((State.jrx_outside _ _ hjrx).trans (by simp [hjrxB]))
  · simp

theorem execJrxLaneLockLoss_staysInside (lane : Fin 16) (first last : Nat) (s : State) (hflight : .flight ∈ parts)
    (hmarks : .marks ∈ parts) : StaysInside parts win s (execJrxLaneLockLoss lane first last s) := by
  simp [execJrxLaneLockLoss, hjrxB, hflight, hmarks]

omit hjrxB in
@[simp] theorem jrxRealigned_outside (s : State) (hjrx : .jrx ∈ parts) (hmarks : .marks ∈ parts) :
    (jrxRealigned s).outside parts win = s.outside parts win := by
  unfold jrxRealigned
  split
  · rfl
  · exact (State.jrx_outside _ _ hjrx).trans (by simp [hmarks])

theorem execJrxRelease_staysInside (s : State) (hstream : streamParts ⊆ parts)
    (hparts : [.flight, .marks, .jrx, .time] ⊆ parts) (hs : CoversStream win (leadOf 0)) :
    StaysInside parts win s (execJrxRelease s) := by
  simp only [List.cons_subset] at hparts
  obtain ⟨hflight, hmarks, hjrx, htime, -⟩ := hparts
  unfold execJrxRelease
  split
  · simp
  · have hfirst : ∀ (u : State) (x : JrxSt) (y : TimeSt),
        (streamStart 0 0 { u with jrx := x, time := y }).outside parts win = u.outside parts win := fun u x y =>
      (streamStart_outside 0 0 _ hstream hs).trans (State.jrx_time_outside u x y hjrx htime)
    dsimp only
    split
    · rw [staysInside_next]
      split
      · simp [hmarks, hjrx]
      · rw [hfirst]
        simp [hjrxB]
    · rw [staysInside_next]
      split
      · rw [State.jrx_outside _ _ hjrx]
        simp [hjrxB, hflight]
      · simp [hjrxB, hflight]

end

end

/-! The windows of O52: where the blocks stand (R632, R633). -/

theorem place_hubPage {h page o : Nat} {b : Block} (hh : h < 2) (hpage : page < 16) (ho : o < 0x10000)
    (hb : hubBlock page = some b) : place (hubB h + page * 0x10000 + o) = some (b, h, o) := by
  have hhub : hubB h = h * 0x800000 := rfl
  have hwindow : hubB h + page * 0x10000 + o < 0x1000000 := by omega
  have hregs : ¬ 0x400000 ≤ (hubB h + page * 0x10000 + o) % 0x800000 := by omega
  have hat : (hubB h + page * 0x10000 + o) % 0x800000 / 0x10000 = page := by omega
  have hindex : (hubB h + page * 0x10000 + o) / 0x800000 = h := by omega
  have hoff : (hubB h + page * 0x10000 + o) % 0x10000 = o := by omega
  rw [place, if_pos hwindow, if_neg hregs, hat, hb, hindex, hoff]
  rfl

theorem place_diePage {t page o : Nat} {b : Block} (ht : t < 4) (hpage : page < 16) (ho : o < 0x10000)
    (hb : tBlock page = some b) : place (tB t + page * 0x10000 + o) = some (b, t, o) := by
  have hdie : tB t = 0x4000000 + t * 0x2000000 := rfl
  have hhub : ¬ tB t + page * 0x10000 + o < 0x1000000 := by omega
  have hacq : ¬ tB t + page * 0x10000 + o < 0x1200000 := by omega
  have hwindow : 0x4000000 ≤ tB t + page * 0x10000 + o ∧ tB t + page * 0x10000 + o < 0xC000000 := by omega
  have hcore : ¬ (0x100000 ≤ (tB t + page * 0x10000 + o) % 0x2000000 ∧
      (tB t + page * 0x10000 + o) % 0x2000000 < 0x1180000) := by omega
  have hregs : (tB t + page * 0x10000 + o) % 0x2000000 < 0x100000 := by omega
  have hat : (tB t + page * 0x10000 + o) % 0x2000000 / 0x10000 = page := by omega
  have hindex : (tB t + page * 0x10000 + o - 0x4000000) / 0x2000000 = t := by omega
  have hoff : (tB t + page * 0x10000 + o) % 0x2000000 % 0x10000 = o := by omega
  rw [place, if_neg hhub, if_neg hacq, if_pos hwindow]
  dsimp only
  rw [if_neg hcore, if_pos hregs, hat, hb, hindex, hoff]
  rfl

theorem place_acq {a o : Nat} (ha : a < 2) (ho : o < 0x100000) : place (acqB a + o) = some (.acq, a, o) := by
  have hbase : acqB a = 0x1000000 + a * 0x100000 := rfl
  have hhub : ¬ acqB a + o < 0x1000000 := by omega
  have hwindow : acqB a + o < 0x1200000 := by omega
  have hindex : (acqB a + o - 0x1000000) / 0x100000 = a := by omega
  have hoff : (acqB a + o) % 0x100000 = o := by omega
  rw [place, if_neg hhub, if_pos hwindow, hindex, hoff]

theorem inBlocks_of_place {bs : List Block} {x i o : Nat} {b : Block} (hb : b ∈ bs) (hx : place x = some (b, i, o)) :
    inBlocks bs x := ⟨b, hb, by rw [hx]; rfl⟩

section
variable {bs : List Block}

theorem covers_hubPage {h page : Nat} {b : Block} (hh : h < 2) (hpage : page < 16) (hat : hubBlock page = some b)
    (hb : b ∈ bs) : Covers (inBlocks bs) (hubB h + page * 0x10000) := fun _ ho =>
  inBlocks_of_place hb (place_hubPage hh hpage ho hat)

theorem covers_diePage {t page : Nat} {b : Block} (ht : t < 4) (hpage : page < 16) (hat : tBlock page = some b)
    (hb : b ∈ bs) : Covers (inBlocks bs) (tB t + page * 0x10000) := fun _ ho =>
  inBlocks_of_place hb (place_diePage ht hpage ho hat)

theorem covers_chip (hb : .chip ∈ bs) {h : Nat} (hh : h < 2) : Covers (inBlocks bs) (chipB h) := by
  have hchip : chipB h = hubB h + 0 * 0x10000 := by simp [chipB]
  rw [hchip]
  exact covers_hubPage hh (by decide) rfl hb

theorem covers_boot (hb : .boot ∈ bs) : Covers (inBlocks bs) (bootB 0) :=
  covers_hubPage (h := 0) (page := 1) (by decide) (by decide) rfl hb

theorem covers_clk (hb : .clk ∈ bs) {h : Nat} (hh : h < 2) : Covers (inBlocks bs) (clkB h) :=
  covers_hubPage (page := 4) hh (by decide) rfl hb

theorem covers_jrx (hb : .jrx ∈ bs) : Covers (inBlocks bs) (jrxB 0) :=
  covers_diePage (t := 0) (page := 15) (by decide) (by decide) rfl hb

theorem covers_wb (hb : .wb ∈ bs) {t : Nat} (ht : t < 4) : Covers (inBlocks bs) (wbB t) :=
  covers_diePage (page := 1) ht (by decide) rfl hb

theorem covers_acq (hb : .acq ∈ bs) {a : Nat} (ha : a < 2) : Covers (inBlocks bs) (acqB a) := fun o ho =>
  inBlocks_of_place hb (place_acq ha (by omega))

/-- The registers of the 65 sub-converters of a die lie in its block. -/
theorem covers_sc (hb : .acq ∈ bs) {a n : Nat} (ha : a < 2) (hn : n < 65) : Covers (inBlocks bs) (scB a n) := by
  intro o ho
  have hsc : scB a n + o = acqB a + (0x10 * n + o) := by
    rw [scB]
    omega
  rw [hsc]
  exact inBlocks_of_place hb (place_acq ha (by omega))

theorem coversPair_diePage {l page : Nat} {b : Block} (hl : l + 1 < 4) (hpage : page < 16)
    (hat : tBlock page = some b) (hb : b ∈ bs) : CoversPair (inBlocks bs) (fun t => tB t + page * 0x10000) l :=
  ⟨covers_diePage (by omega) hpage hat hb, covers_diePage hl hpage hat hb⟩

theorem coversStream_inBlocks (hbs : [.wb, .trg, .recd, .dens, .chz] ⊆ bs) {l : Nat} (hl : l + 1 < 4) :
    CoversStream (inBlocks bs) l := by
  simp only [List.cons_subset] at hbs
  obtain ⟨hwb, htrg, hrecd, hdens, hchz, -⟩ := hbs
  exact {
    wb := coversPair_diePage (page := 1) hl (by decide) rfl hwb
    trg := coversPair_diePage (page := 2) hl (by decide) rfl htrg
    recd := coversPair_diePage (page := 3) hl (by decide) rfl hrecd
    dens := coversPair_diePage (page := 4) hl (by decide) rfl hdens
    chz := coversPair_diePage (page := 5) hl (by decide) rfl hchz }

end

theorem covers_above {a b : Nat} (h : a ≤ b) : Covers (fun x => a ≤ x) b := fun o _ => by omega

theorem covers_above_sc (a n : Nat) : Covers (fun x => acqB a ≤ x) (scB a n) := covers_above (Nat.le_add_right _ _)

theorem leadOf_pair_lt (a : ADie) : leadOf a + 1 < 4 := by
  have ha := a.isLt
  simp only [leadOf]
  omega

theorem leadOf_lt (a : ADie) : leadOf a < 4 := Nat.lt_of_succ_lt (leadOf_pair_lt a)

/-! Rows that change no register. -/

theorem leaves_of_next {c : Instr} {s t : State} {upd : State → State} {win : Nat → Prop} (hexec : exec c s = .next t)
    (hupd : t = upd t) (hregs : t.regs = s.regs) : Leaves c s upd win := by
  intro u hu
  obtain rfl : t = u := by
    rw [hexec] at hu
    injection hu
  exact ⟨hupd, fun a _ => by rw [State.reg, State.reg, hregs]⟩

/-- A row that answers `t` under its condition and else leaves the state as it is. -/
theorem leaves_of_ite {c : Instr} {s t : State} {upd : State → State} {win : Nat → Prop} {p : Prop} [Decidable p]
    (hexec : exec c s = if p then .next t else .next s) (hupd : t = upd t) (hregs : t.regs = s.regs)
    (hsame : s = upd s) : Leaves c s upd win := by
  split at hexec
  · exact leaves_of_next hexec hupd hregs
  · exact leaves_of_next hexec hsame rfl

/-- Settles O52: each row is made of operations that stay inside the parts and the registers named with it. -/
theorem acqRowsFrame : Obligations.AcqRowsFrame := by
  unfold Obligations.AcqRowsFrame
  refine ⟨fun a code temp mode s => ?_, fun a s => ?_, fun a f s => ?_, fun a s => ?_, fun a s => ?_,
    fun a slot v temp s => ?_, fun a s => ?_, fun a s => ?_, fun a s => ?_, fun a s => ?_, fun a s => ?_,
    fun lane arrival s => ?_, fun s => ?_, fun lane first last s => ?_, fun s => ?_, fun l back f s => ?_,
    fun l back first s => ?_, fun d first last s => ?_, fun trained spareUsed l s => ?_⟩
  · have ha : Covers (inBlocks [.acq]) (acqB a) := covers_acq (by simp) a.isLt
    have h0 : Covers (inBlocks [.acq]) (acqB 0) := covers_acq (by simp) (by decide)
    have h1 : Covers (inBlocks [.acq]) (acqB 1) := covers_acq (by simp) (by decide)
    have hacq : FramePart.acq ∈ [FramePart.acq] := by simp
    refine StaysInside.leaves_of_mem (parts := [.acq]) (fun _ => rfl) ?_
    simp only [List.forall_mem_cons]
    exact ⟨execGainWrite_staysInside ha hacq code s, execCalStepStart_staysInside ha hacq s,
      execCalRunComplete_staysInside ha hacq s, execIdleStepStart_staysInside ha hacq s,
      execCalTempRead_staysInside ha hacq temp s, execCalIntervalExpire_staysInside ha hacq s,
      execCalCmdRun_staysInside ha hacq s, execCalCmdAbort_staysInside ha hacq s,
      execCalCmdXskew_staysInside hacq s h0, execXskewComplete_staysInside hacq s h0 h1,
      execCalModeWrite_staysInside ha hacq mode s, by simp⟩
  · refine leaves_of_next rfl ?_ ?_ <;> split <;> rfl
  · have ha : Covers (inBlocks [.acq, .wb]) (acqB a) := covers_acq (by simp) a.isLt
    have hwa : Covers (inBlocks [.acq, .wb]) (wbB (leadOf a)) := covers_wb (by simp) (leadOf_lt a)
    have hw0 : Covers (inBlocks [.acq, .wb]) (wbB 0) := covers_wb (by simp) (by decide)
    exact (execStreamFrame_staysInside a f s (List.Subset.refl frameParts) ha hwa hw0).leaves fun _ => rfl
  · have ha : Covers (inBlocks [.acq]) (acqB a) := covers_acq (by simp) a.isLt
    refine StaysInside.leaves_of_mem (parts := [.flight, .acq]) (fun _ => rfl) ?_
    simp only [List.forall_mem_cons]
    exact ⟨execSubwindowComplete_staysInside ha (by simp) s (by simp),
      execCalWindowComplete_staysInside ha (by simp) s (by simp), by simp⟩
  · have ha : Covers (inBlocks [.acq]) (acqB a) := covers_acq (by simp) a.isLt
    exact (execCalStatTimeout_staysInside (parts := [.flight]) ha s (by simp)).leaves fun _ => rfl
  · have ha : Covers (inBlocks [.acq]) (acqB a) := covers_acq (by simp) a.isLt
    have hsc : ∀ n < 65, Covers (inBlocks [.acq]) (scB a n) := fun n hn => covers_sc (by simp) a.isLt hn
    refine StaysInside.leaves_of_mem (parts := []) (fun _ => rfl) ?_
    simp only [List.forall_mem_cons]
    exact ⟨execEstSelWrite_staysInside ha slot s, execAcqDelayMeasure_staysInside ha v s,
      execFactoryTrimLoad_staysInside ha temp s hsc, by simp⟩
  · refine StaysInside.leaves_of_mem (parts := [.flight, .acq]) (fun _ => rfl) ?_
    have ha := covers_above (le_refl (acqB a))
    have hsc := covers_above_sc a
    simp only [List.forall_mem_cons]
    exact ⟨execFailedScReplace_staysInside ha (by simp) hsc s (by simp),
      execVerifyWindowComplete_staysInside ha (by simp) hsc s (by simp), by simp⟩
  · refine StaysInside.leaves_of_mem (parts := [.acq]) (fun _ => rfl) ?_
    have ha := covers_above (le_refl (acqB a))
    have hsc := covers_above_sc a
    simp only [List.forall_mem_cons]
    exact ⟨execSpareSwap_staysInside ha (by simp) hsc s, execTrimUpdate_staysInside ha (by simp) hsc s,
      execLiveTrimStep_staysInside ha (by simp) hsc s, by simp⟩
  · have ha : Covers (inBlocks [.acq, .clk]) (acqB a) := covers_acq (by simp) a.isLt
    have h0 : Covers (inBlocks [.acq, .clk]) (clkB 0) := covers_clk (by simp) (by decide)
    have h1 : Covers (inBlocks [.acq, .clk]) (clkB 1) := covers_clk (by simp) (by decide)
    exact (execSampleClockLock_staysInside (parts := []) a s ha h0 h1).leaves fun _ => rfl
  · have ha : Covers (inBlocks [.acq, .clk, .wb]) (acqB a) := covers_acq (by simp) a.isLt
    have h0 : Covers (inBlocks [.acq, .clk, .wb]) (clkB 0) := covers_clk (by simp) (by decide)
    have h1 : Covers (inBlocks [.acq, .clk, .wb]) (clkB 1) := covers_clk (by simp) (by decide)
    have hw : Covers (inBlocks [.acq, .clk, .wb]) (wbB (leadOf a)) := covers_wb (by simp) (leadOf_lt a)
    exact (execSampleClockUnlock_staysInside a s (List.Subset.refl _) ha h0 h1 hw).leaves fun _ => rfl
  · have ha : Covers (inBlocks [.acq, .chz, .dens, .recd, .trg, .wb]) (acqB a) := covers_acq (by simp) a.isLt
    have hs : CoversStream (inBlocks [.acq, .chz, .dens, .recd, .trg, .wb]) (leadOf a) :=
      coversStream_inBlocks (by simp) (leadOf_pair_lt a)
    exact (execAcqEnable_staysInside (parts := .acq :: streamParts) a s (List.subset_cons_self _ _) (by simp) ha
      hs).leaves fun _ => rfl
  · have hjrxB : Covers (inBlocks [.jrx]) (jrxB 0) := covers_jrx (by simp)
    refine StaysInside.leaves_of_mem (parts := [.jrx]) (fun _ => rfl) ?_
    simp only [List.forall_mem_cons]
    exact ⟨execJrxEnable_staysInside hjrxB s (by simp),
      execJrxLaneLock_staysInside hjrxB lane arrival s (by simp), by simp⟩
  · exact (execJrxCrcError_staysInside (parts := []) (covers_jrx (by simp)) s).leaves fun _ => rfl
  · exact (execJrxLaneLockLoss_staysInside (parts := [.flight, .marks]) (covers_jrx (by simp)) lane first last s
      (by simp) (by simp)).leaves fun _ => rfl
  · have hjrxB : Covers (inBlocks [.chz, .dens, .jrx, .recd, .trg, .wb]) (jrxB 0) := covers_jrx (by simp)
    have hs : CoversStream (inBlocks [.chz, .dens, .jrx, .recd, .trg, .wb]) (leadOf 0) :=
      coversStream_inBlocks (by simp) (by decide)
    exact (execJrxRelease_staysInside (parts := [.flight, .marks, .jrx, .time] ++ streamParts) hjrxB s
      (List.subset_append_right _ _) (List.subset_append_left _ _) hs).leaves fun _ => rfl
  · exact leaves_of_ite rfl (by cases back <;> rfl) rfl rfl
  · exact leaves_of_ite rfl (by cases back <;> rfl) rfl rfl
  · refine leaves_of_next rfl ?_ ?_ <;> split <;> rfl
  · have hboot : Covers (inBlocks [.boot, .chip]) (bootB 0) := covers_boot (by simp)
    have h0 : Covers (inBlocks [.boot, .chip]) (chipB 0) := covers_chip (by simp) (by decide)
    have h1 : Covers (inBlocks [.boot, .chip]) (chipB 1) := covers_chip (by simp) (by decide)
    refine StaysInside.leaves_of_mem (parts := [.link]) (fun _ => rfl) ?_
    simp only [List.forall_mem_cons]
    exact ⟨execLinkTrain_staysInside trained spareUsed s (by simp) hboot h0 h1,
      execLinkTrainTimeout_staysInside l s (by simp) hboot h0 h1, by simp⟩

end Sys2Proof.Machine
end

section
/-! PROOFS. The link rows (R20, R22, R24, R25). -/

namespace Sys2Proof.Machine

@[simp] theorem State.linkSt_setLink_same (s : State) (l : Nat) (v : Link) : (s.setLink l v).linkSt l = v := by
  simp [State.setLink, State.linkSt]

theorem State.linkSt_setLink_other (s : State) (l k : Nat) (v : Link) (h : k ≠ l) :
    (s.setLink l v).linkSt k = s.linkSt k := tget_tset_other _ _ _ _ _ h

@[simp] theorem State.linkSt_wr (s : State) (b : Nat) (f : Fld) (v l : Nat) : (s.wr b f v).linkSt l = s.linkSt l := rfl

@[simp] theorem State.linkSt_raise (s : State) (src detail l : Nat) : (s.raise src detail).linkSt l = s.linkSt l := rfl

@[simp] theorem State.linkSt_showUsable (s : State) (l : Nat) : s.showUsable.linkSt l = s.linkSt l := rfl

/-! LINK_TRAIN (R25). -/

/-- Link `l` after training: as the operands say, where the link exists and has not failed. -/
def trainedLink (trained spare : BitVec 9) (s : State) (l : Nat) : Link :=
  if s.hasLink l && !(s.linkSt l).failed then
    { s.linkSt l with
      training := !trained.getLsbD l, trained := trained.getLsbD l, spareUsed := trained.getLsbD l && spare.getLsbD l }
  else s.linkSt l

/-- The training of link `l`. -/
def trainLink (trained spare : BitVec 9) (s : State) (l : Nat) : State :=
  if s.hasLink l && !(s.linkSt l).failed then s.setLink l (trainedLink trained spare s l) else s

theorem trainLinks_eq (trained spare : BitVec 9) (s : State) :
    trainLinks trained spare s = ((List.range 9).foldl (trainLink trained spare) s).showUsable := by
  have hstep : trainLink trained spare = fun s l =>
      if s.hasLink l && !(s.linkSt l).failed then
        s.setLink l { s.linkSt l with
          training := !trained.getLsbD l, trained := trained.getLsbD l
          spareUsed := trained.getLsbD l && spare.getLsbD l }
      else s := by
    funext s l
    unfold trainLink trainedLink
    split <;> rfl
  rw [hstep, trainLinks]

@[simp] theorem trainLink_part (trained spare : BitVec 9) (s : State) (l : Nat) :
    (trainLink trained spare s l).part = s.part := by
  unfold trainLink
  split <;> rfl

theorem linkSt_trainLink (trained spare : BitVec 9) (s : State) (l k : Nat) :
    (trainLink trained spare s l).linkSt k = if k = l then trainedLink trained spare s l else s.linkSt k := by
  unfold trainLink
  split
  · split
    · next hk => rw [hk, State.linkSt_setLink_same]
    · next hk => exact State.linkSt_setLink_other s l k _ hk
  · next hstays =>
    split
    · next hk => rw [hk, trainedLink, if_neg hstays]
    · rfl

theorem State.hasLink_congr {s t : State} (h : t.part = s.part) (l : Nat) : t.hasLink l = s.hasLink l := by
  simp only [State.hasLink, h]

/-- Each link is trained once, from what it was. -/
theorem linkSt_trainLink_range (trained spare : BitVec 9) (s : State) (n k : Nat) :
    (((List.range n).foldl (trainLink trained spare) s).part = s.part) ∧
      ((List.range n).foldl (trainLink trained spare) s).linkSt k =
        if k < n then trainedLink trained spare s k else s.linkSt k := by
  induction n generalizing k with
  | zero => exact ⟨rfl, rfl⟩
  | succ n ih =>
    rw [List.range_succ, List.foldl_append, List.foldl_cons, List.foldl_nil]
    generalize hu : (List.range n).foldl (trainLink trained spare) s = u at ih ⊢
    refine ⟨(trainLink_part trained spare u n).trans (ih 0).1, ?_⟩
    have hlink : u.linkSt n = s.linkSt n := by simpa using (ih n).2
    have hthere : u.hasLink n = s.hasLink n := State.hasLink_congr (ih 0).1 n
    rw [linkSt_trainLink, (ih k).2]
    rcases Nat.lt_trichotomy k n with hk | rfl | hk
    · rw [if_neg (by omega), if_pos hk, if_pos (by omega)]
    · rw [if_pos rfl, if_pos (by omega), trainedLink, trainedLink, hlink, hthere]
    · rw [if_neg (by omega), if_neg (by omega), if_neg (by omega)]

theorem linkSt_trainLinks (trained spare : BitVec 9) (s : State) (l : Fin 9) :
    (trainLinks trained spare s).linkSt l = trainedLink trained spare s l := by
  rw [trainLinks_eq, State.linkSt_showUsable, (linkSt_trainLink_range trained spare s 9 l).2, if_pos l.isLt]

/-- LINK_TRAIN trains the links of the state it starts from: what it writes to BOOT_STATUS first is no part of a link. -/
theorem execLinkTrain_links (trained spare : BitVec 9) (s : State) :
    ∃ t, execLinkTrain trained spare s = .next t ∧ ∀ l : Fin 9, t.linkSt l = trainedLink trained spare s l := by
  refine ⟨_, rfl, fun l => ?_⟩
  rw [linkSt_trainLinks]
  split <;> rfl

/-! LINK_TRAIN_TIMEOUT (R25, R651). -/

theorem foldl_or_testBit (p : Nat → Bool) (g : Nat → Nat) (xs : List Nat) (m k : Nat) :
    (xs.foldl (fun m l => if p l then m ||| 2 ^ g l else m) m).testBit k =
      (m.testBit k || xs.any fun l => p l && decide (g l = k)) := by
  induction xs generalizing m with
  | nil => simp
  | cons l xs ih =>
    rw [List.foldl_cons, ih, List.any_cons]
    cases p l
    · simp
    · simp [Nat.testBit_or, Nat.testBit_two_pow, Bool.or_assoc]

/-- The far die of a failed link is among the dies that the links lost. -/
theorem State.farLost_testBit {s : State} {l : Nat} (hl : l < 9) (hfailed : (s.linkSt l).failed = true) :
    s.farLost.testBit (farDie l) = true := by
  rw [State.farLost, foldl_or_testBit, Bool.or_eq_true, List.any_eq_true]
  exact .inr ⟨l, List.mem_range.mpr hl, by simp [hfailed]⟩

/-- No die returns by being cut off. -/
theorem cutOff_testBit {m k : Nat} (h : m.testBit k = true) : (cutOff m).testBit k = true := by
  have hor : ∀ (c : Bool) (m x : Nat), m.testBit k = true → (if c then m ||| x else m).testBit k = true := by
    intro c m x hm
    cases c <;> simp [Nat.testBit_or, hm]
  exact hor _ _ _ (hor _ _ _ (hor _ _ _ h))

/-- The far die of a link of the configuration is present. -/
theorem State.farDie_present {s : State} {l : Fin 9} (h : s.hasLink l = true) :
    s.part.present.testBit (farDie l) = true := by
  cases hpart : s.part <;> rw [State.hasLink, hpart] at h <;> revert l <;> decide

theorem State.linkLost_farDie {s : State} {l : Fin 9} (h : s.hasLink l = true) (hfailed : (s.linkSt l).failed = true) :
    s.linkLost.testBit (farDie l) = true := by
  rw [State.linkLost, Nat.testBit_and, cutOff_testBit (State.farLost_testBit l.isLt hfailed), State.farDie_present h]
  rfl

theorem State.lostDies_farDie {s : State} {l : Fin 9} (h : s.hasLink l = true) (hfailed : (s.linkSt l).failed = true) :
    bit s.lostDies (farDie l) = true := by
  have hlost : (s.farLost ||| s.hotLost).testBit (farDie l) = true := by
    rw [Nat.testBit_or, State.farLost_testBit l.isLt hfailed, Bool.true_or]
  rw [bit_eq_testBit, State.lostDies, Nat.testBit_and, cutOff_testBit hlost, State.farDie_present h]
  rfl

/-- USABLE shows the dies present without those that the links lost (R651). -/
theorem State.showUsable_usable (s : State) :
    s.showUsable.rd (chipB 0) R.CHIP_CONFIG_USABLE = without s.part.present s.linkLost % 2 ^ 8 := by
  rw [State.showUsable, State.rd_wr_other _ _ _ _ _ _ (by decide), State.rd_wr_same _ _ _ _ (by decide)]
  rfl

theorem State.showUsable_farDie {s : State} {l : Fin 9} (h : s.hasLink l = true) (hfailed : (s.linkSt l).failed = true) :
    bit (s.showUsable.rd (chipB 0) R.CHIP_CONFIG_USABLE) (farDie l) = false := by
  rw [bit_eq_testBit, State.showUsable_usable, Nat.testBit_mod_two_pow, without_testBit, State.linkLost_farDie h hfailed]
  simp

theorem execLinkTrainTimeout_fails {l : Fin 9} {s : State} (h : s.hasLink l = true)
    (htraining : (s.linkSt l).training = true) :
    execLinkTrainTimeout l s = .next (((s.setLink l { s.linkSt l with training := false, failed := true }).showUsable).wr
      (bootB 0) R.BOOT_STATUS_DIE_LOST 1) := by
  simp [execLinkTrainTimeout, h, htraining]

/-! LINK_FLIT_SEND and LINK_CRC_RETRY (R20, R22). -/

/-- The direction of a link that the operand of a row names. -/
def Link.dir (k : Link) (back : Bool) : LinkDir := if back then k.back else k.fwd

def Link.setDir (k : Link) (back : Bool) (d : LinkDir) : Link :=
  if back then { k with back := d } else { k with fwd := d }

theorem Link.dir_eq (k : Link) (back : Bool) : k.dir back = if back then k.back else k.fwd := rfl

theorem Link.setDir_errors (k : Link) (back : Bool) (d : LinkDir) : (k.setDir back d).errors = k.errors := by
  cases back <;> rfl

@[simp] theorem Link.dir_setDir (k : Link) (back : Bool) (d : LinkDir) : (k.setDir back d).dir back = d := by
  cases back <;> rfl

theorem execLinkFlitSend_trained {l : Fin 9} {s : State} (back : Bool) (f : FlitSlot) (h : s.hasLink l = true)
    (htrained : (s.linkSt l).trained = true) :
    execLinkFlitSend l back f s =
      .next (s.setLink l ((s.linkSt l).setDir back (((s.linkSt l).dir back).slot f))) := by
  cases back <;> simp [execLinkFlitSend, h, htrained, Link.setDir, Link.dir]

theorem LinkDir.take_next (d : LinkDir) (xs : List (Nat × Nat)) : (d.take xs).next = d.next := by
  unfold LinkDir.take
  induction xs generalizing d with
  | nil => rfl
  | cons x xs ih =>
    rw [List.foldl_cons, ih]
    split <;> rfl

/-- What a slot brings leaves the number of the next flit. -/
theorem slotBrings_next (d : LinkDir) (f : FlitSlot) : (slotBrings d f).next = d.next := LinkDir.take_next d _

/-- A direction of a link after channel `v` has sent in the slot, or none has. -/
def LinkDir.filled (d : LinkDir) (v : Option Nat) : LinkDir :=
  { d with
    gap0 := if v = some 0 then 1 else min 100 (d.gap0 + 1)
    gap3 := if v = some 3 then 1 else min 50 (d.gap3 + 1)
    cred0 := if v = some 0 then d.cred0 - 1 else d.cred0
    cred3 := if v = some 3 then d.cred3 - 1 else d.cred3
    used := if v = some 1 ∨ v = some 2 then d.used + 1 else d.used
    next := match v with | some _ => d.next + 1 | none => d.next
    wire := match v with | some c => d.wire ++ [(d.next, c)] | none => d.wire
    retry := match v with | some c => d.retry ++ [(d.next, c)] | none => d.retry }

theorem LinkDir.slot_eq (d : LinkDir) (f : FlitSlot) :
    d.slot f = (slotBrings d f).filled ((slotBrings d f).pick f.ready) := rfl

/-- The channel that gets the slot sends after what the slot brings. -/
theorem LinkDir.slot_send {d : LinkDir} {f : FlitSlot} {v : Nat} (h : (slotBrings d f).pick f.ready = some v) :
    (d.slot f).next = d.next + 1 ∧ (d.slot f).retry = (slotBrings d f).retry ++ [(d.next, v)] ∧
      (d.slot f).wire = (slotBrings d f).wire ++ [(d.next, v)] ∧
      (d.slot f).cred0 = (slotBrings d f).cred0 - (if v = 0 then 1 else 0) ∧
      (d.slot f).cred3 = (slotBrings d f).cred3 - (if v = 3 then 1 else 0) ∧
      (d.slot f).used = (slotBrings d f).used + (if v = 1 ∨ v = 2 then 1 else 0) := by
  have hsent : (d.slot f).next = (slotBrings d f).next + 1 ∧
      (d.slot f).retry = (slotBrings d f).retry ++ [((slotBrings d f).next, v)] ∧
      (d.slot f).wire = (slotBrings d f).wire ++ [((slotBrings d f).next, v)] ∧
      (d.slot f).cred0 = (if some v = some 0 then (slotBrings d f).cred0 - 1 else (slotBrings d f).cred0) ∧
      (d.slot f).cred3 = (if some v = some 3 then (slotBrings d f).cred3 - 1 else (slotBrings d f).cred3) ∧
      (d.slot f).used =
        (if some v = some 1 ∨ some v = some 2 then (slotBrings d f).used + 1 else (slotBrings d f).used) := by
    rw [LinkDir.slot_eq, h]
    exact ⟨rfl, rfl, rfl, rfl, rfl, rfl⟩
  obtain ⟨hnext, hretry, hwire, hcred0, hcred3, hused⟩ := hsent
  rw [slotBrings_next] at hnext hretry hwire
  refine ⟨hnext, hretry, hwire, ?_, ?_, ?_⟩
  · rw [hcred0]; simp only [Option.some.injEq]; split <;> rfl
  · rw [hcred3]; simp only [Option.some.injEq]; split <;> rfl
  · rw [hused]; simp only [Option.some.injEq]; split <;> rfl

theorem LinkDir.slot_empty {d : LinkDir} {f : FlitSlot} (h : (slotBrings d f).pick f.ready = none) :
    (d.slot f).next = d.next ∧ (d.slot f).retry = (slotBrings d f).retry ∧ (d.slot f).wire = (slotBrings d f).wire := by
  rw [LinkDir.slot_eq, h]
  exact ⟨slotBrings_next d f, rfl, rfl⟩

/-- A direction of a link with flits `first` and later on the wire again. -/
def LinkDir.retried (d : LinkDir) (first : Nat) : LinkDir :=
  { d with wire := d.wire.filter (fun e => decide (e.1 < first)) ++ d.replay first }

theorem execLinkCrcRetry_trained {l : Fin 9} {s : State} (back : Bool) (k : Nat) (h : s.hasLink l = true)
    (htrained : (s.linkSt l).trained = true) :
    execLinkCrcRetry l back k s = .next ((s.setLink l
      (({ s.linkSt l with errors := (s.linkSt l).errors + 1 } : Link).setDir back
        (((s.linkSt l).dir back).retried k))).raise (48 + l) ((s.linkSt l).errors + 1)) := by
  cases back <;> simp [execLinkCrcRetry, h, htrained, Link.setDir, Link.dir, LinkDir.retried]

/-! INPUT_BUFFER_OVERFLOW (R24). -/

/-- A status bit of one of the intervals that holds a sample is a status bit of the sample. -/
theorem foldl_status_testBit (first last k : Nat) (ms : List Mark) (b : Nat) :
    (ms.foldl (fun b m => if m.first ≤ last ∧ first ≤ m.last then b ||| m.bits else b) b).testBit k =
      (b.testBit k || ms.any fun m => decide (m.first ≤ last ∧ first ≤ m.last) && m.bits.testBit k) := by
  induction ms generalizing b with
  | nil => simp
  | cons m ms ih =>
    rw [List.foldl_cons, ih, List.any_cons]
    split
    · next hm => simp [hm, Nat.testBit_or, Bool.or_assoc]
    · next hm => simp [hm]

theorem State.statusOf_testBit (s : State) (t first last k : Nat) :
    (s.statusOf t first last).testBit k = (tget noMarks s.marks t).any fun m =>
      decide (m.first ≤ last ∧ first ≤ m.last) && m.bits.testBit k := by
  rw [State.statusOf, foldl_status_testBit]
  simp

/-- An interval that joins the newest one, or is the newest one, is part of the first. -/
theorem addMark_head (ms : List Mark) (m : Mark) :
    ∃ n ∈ addMark ms m, n.first ≤ m.first ∧ m.last ≤ n.last ∧ n.bits = m.bits := by
  unfold addMark
  split
  · exact ⟨m, by simp, le_refl _, le_refl _, rfl⟩
  · next n ms =>
    split
    · next hjoin => exact ⟨{ n with last := m.last }, by simp, hjoin.2.1, le_refl _, hjoin.1⟩
    · exact ⟨m, by simp, le_refl _, le_refl _, rfl⟩

theorem State.mark_status {s : State} {t first last bits j k : Nat} (hbits : bits.testBit k = true) (hfirst : first ≤ j)
    (hlast : j ≤ last) : ((s.mark t first last bits).statusOf t j j).testBit k = true := by
  have hne : bits ≠ 0 := by
    rintro rfl
    simp at hbits
  obtain ⟨m, hm, hmfirst, hmlast, hmbits⟩ := addMark_head (tget noMarks s.marks t) ⟨first, last, bits⟩
  have hmarks : tget noMarks (s.mark t first last bits).marks t =
      addMark (tget noMarks s.marks t) ⟨first, last, bits⟩ := by
    rw [State.mark, if_neg hne]
    exact tget_tset_same _ _ _ _
  rw [State.statusOf_testBit, hmarks, List.any_eq_true]
  exact ⟨m, hm, by simp [hmbits, hbits, hmfirst.trans hfirst, hlast.trans hmlast]⟩

theorem execInputBufferOverflow_loses {d : TDie} {first last : Nat} {s : State} (h : s.usableT d = true)
    (hle : first ≤ last) :
    execInputBufferOverflow d first last s = .next ((s.mark d first last markLost).raise (57 + d) first) := by
  simp [execInputBufferOverflow, h, hle]

/-! The statement. -/

theorem State.raise_flight_map (s : State) (src detail : Nat) :
    (s.raise src detail).flight.map (fun e => (e.source, e.detail)) =
      s.flight.map (fun e => (e.source, e.detail)) ++ [(src, detail % 2 ^ 64)] := by
  rw [State.raise, List.map_append]
  rfl

/-- Settles O14: the answer of each row written out, with what the links, the marks and the registers hold in it. -/
theorem linkRowsComplete : Obligations.LinkRowsComplete := by
  unfold Obligations.LinkRowsComplete
  refine ⟨fun tr sp s => ?_, fun l s hlink htraining => ?_, fun l back f s hlink htrained => ?_,
    fun l back k s hlink htrained => ?_, fun d first last s husable hle => ?_⟩
  · obtain ⟨t, ht, hlinks⟩ := execLinkTrain_links tr sp s
    refine ⟨t, ht, fun l hlink hfailed => ?_, fun l hfailed => ?_⟩
    · rw [hlinks l, trainedLink, hlink, hfailed]
      exact ⟨rfl, rfl, rfl⟩
    · rw [hlinks l, trainedLink, hfailed, Bool.not_true, Bool.and_false]
      rfl
  · let u := s.setLink l { s.linkSt l with training := false, failed := true }
    have hu : u.linkSt l = { s.linkSt l with training := false, failed := true } := State.linkSt_setLink_same s l _
    have hfailed : (u.linkSt l).failed = true := by rw [hu]
    have hlink' : u.hasLink l = true := hlink
    refine ⟨u.showUsable.wr (bootB 0) R.BOOT_STATUS_DIE_LOST 1, execLinkTrainTimeout_fails hlink htraining, hfailed,
      ?_, ?_, State.lostDies_farDie hlink' hfailed, ?_⟩
    · rw [State.linkSt_wr, State.linkSt_showUsable, hu]
    · rw [State.on, State.rd_wr_same _ _ _ _ (by decide)]
      rfl
    · rw [State.rd_wr_other _ _ _ _ _ _ (by decide)]
      exact State.showUsable_farDie hlink' hfailed
  · simp only [← Link.dir_eq]
    refine ⟨_, execLinkFlitSend_trained back f hlink htrained, fun v hv => ?_, fun hv => ?_⟩ <;>
      rw [State.linkSt_setLink_same, Link.dir_setDir]
    · exact LinkDir.slot_send hv
    · exact LinkDir.slot_empty hv
  · simp only [← Link.dir_eq]
    refine ⟨_, execLinkCrcRetry_trained back k hlink htrained, ?_, ?_, ?_, State.raise_flight_map _ _ _⟩ <;>
      rw [State.linkSt_raise, State.linkSt_setLink_same]
    · exact Link.setDir_errors _ back _
    · rw [Link.dir_setDir, LinkDir.retried]
    · rw [Link.dir_setDir, LinkDir.retried, LinkDir.replay]
  · refine ⟨_, execInputBufferOverflow_loses husable hle, ?_, fun j hfirst hlast => ?_⟩
    · rw [State.raise_flight_map, State.mark_flight]
    · rw [bit_eq_testBit]
      exact State.mark_status (by decide) hfirst hlast


end Sys2Proof.Machine
end

section
/-! PROOFS. What the blocks of the transform dies leave alone: the records of the acquisition dies, and every register
below the windows of the transform dies (R632). `State.acqSide` is that part of a state, and that an operation of a
transform die's block keeps it is one equation. -/

namespace Sys2Proof.Machine

/-- The records of the acquisition dies, and the registers below the windows of the transform dies. -/
def State.acqSide (s : State) : Tbl AcqSt × ({x // x < tB 0} → Word) := (s.acq, fun x => s.reg x)

theorem State.acqSt_of_acqSide {s t : State} (h : t.acqSide = s.acqSide) (a : Nat) : t.acqSt a = s.acqSt a :=
  congrArg (fun m => tget dAcq m a) (congrArg Prod.fst h)

/-- The registers of an acquisition die lie below the windows of the transform dies. -/
theorem State.rd_of_acqSide {s t : State} (h : t.acqSide = s.acqSide) (a : ADie) (f : Fld) (hf : f.off < 0x100000) :
    t.rd (acqB a) f = s.rd (acqB a) f := by
  have ha := a.isLt
  have hbelow : acqB a + f.off < tB 0 := by simp only [acqB, tB]; omega
  have hreg : t.reg (acqB a + f.off) = s.reg (acqB a + f.off) := congrFun (congrArg Prod.snd h) ⟨_, hbelow⟩
  rw [State.rd, State.rd, hreg]

/-- A row's operation that stays inside registers of the transform dies and parts other than `acq` keeps it. -/
theorem State.acqSide_of_outside {parts : List FramePart} {s t : State} (hacq : .acq ∉ parts)
    (h : t.outside parts (fun x => tB 0 ≤ x) = s.outside parts (fun x => tB 0 ≤ x)) : t.acqSide = s.acqSide := by
  obtain ⟨hrest, hreg⟩ := Prod.mk.inj h
  have hacq' : t.acq = s.acq := by simpa [State.rest, hacq] using congrArg State.acq hrest
  exact Prod.ext hacq' (funext fun x => congrFun hreg ⟨x.1, Nat.not_le.mpr x.2⟩)

/-! Updates of other parts. -/

/-- An update of parts that the blocks of the transform dies hold. -/
@[simp] theorem State.acqSide_mk (s : State) (cap : List Host.Cell) (items : List (Nat × List Byte))
    (traceRing : Tbl ItemRing) (credits lineOvf : Tbl Nat) (wb : Tbl WbSt) (trg : Tbl TrgSt) (recs : Tbl RecSt)
    (dens : Tbl DensSt) (zooms : Tbl ZoomSt) :
    ({ s with cap, items, traceRing, credits, lineOvf, wb, trg, recs, dens, zooms } : State).acqSide = s.acqSide :=
  Prod.ext rfl rfl

@[simp] theorem State.acqSide_ite (c : Prop) [Decidable c] (s t : State) :
    (if c then s else t).acqSide = if c then s.acqSide else t.acqSide := apply_ite _ _ _ _

@[simp] theorem State.acqSide_foldl {β : Type} (f : State → β → State) (xs : List β) (s : State)
    (h : ∀ s b, (f s b).acqSide = s.acqSide) : (xs.foldl f s).acqSide = s.acqSide :=
  foldl_keeps State.acqSide f h xs s

@[simp] theorem State.modWb_acqSide (s : State) (t : Nat) (f : WbSt → WbSt) : (s.modWb t f).acqSide = s.acqSide :=
  Prod.ext rfl rfl

@[simp] theorem State.modTrg_acqSide (s : State) (l : Nat) (f : TrgSt → TrgSt) :
    (s.modTrg l f).acqSide = s.acqSide :=
  Prod.ext rfl rfl

@[simp] theorem State.modRec_acqSide (s : State) (l : Nat) (f : RecSt → RecSt) :
    (s.modRec l f).acqSide = s.acqSide :=
  Prod.ext rfl rfl

@[simp] theorem State.modCo_acqSide (s : State) (l : Nat) (f : CoSt → CoSt) : (s.modCo l f).acqSide = s.acqSide :=
  Prod.ext rfl rfl

@[simp] theorem State.modDens_acqSide (s : State) (l : Nat) (f : DensSt → DensSt) :
    (s.modDens l f).acqSide = s.acqSide :=
  Prod.ext rfl rfl

@[simp] theorem State.modZoom_acqSide (s : State) (t n : Nat) (f : ZoomSt → ZoomSt) :
    (s.modZoom t n f).acqSide = s.acqSide :=
  Prod.ext rfl rfl

@[simp] theorem State.pulse_acqSide (s : State) (h line : Nat) : (s.pulse h line).acqSide = s.acqSide := by
  simp only [State.acqSide, State.pulse_acq, State.reg, State.pulse_regs]

@[simp] theorem State.setBytes_acqSide (s : State) (h a : Nat) (l : List Byte) :
    (s.setBytes h a l).acqSide = s.acqSide := by
  simp only [State.acqSide, State.setBytes_acq, State.reg, State.setBytes_regs]

@[simp] theorem State.ringBytes_acqSide (s : State) (h base size pos : Nat) (l : List Byte) :
    (s.ringBytes h base size pos l).acqSide = s.acqSide := by
  unfold State.ringBytes
  split <;> simp

/-! Writes of registers of the transform dies. -/

@[simp] theorem tB_le_tB (t : Nat) : tB 0 ≤ tB t := by simp only [tB]; omega

@[simp] theorem tB_le_wbB (t : Nat) : tB 0 ≤ wbB t := (tB_le_tB t).trans (Nat.le_add_right _ _)

@[simp] theorem tB_le_trgB (t : Nat) : tB 0 ≤ trgB t := (tB_le_tB t).trans (Nat.le_add_right _ _)

@[simp] theorem tB_le_recB (t : Nat) : tB 0 ≤ recB t := (tB_le_tB t).trans (Nat.le_add_right _ _)

@[simp] theorem tB_le_densB (t : Nat) : tB 0 ≤ densB t := (tB_le_tB t).trans (Nat.le_add_right _ _)

@[simp] theorem tB_le_chzB (t : Nat) : tB 0 ≤ chzB t := (tB_le_tB t).trans (Nat.le_add_right _ _)

@[simp] theorem tB_le_condB (l c : Nat) : tB 0 ≤ condB l c := (tB_le_trgB _).trans (Nat.le_add_right _ _)

@[simp] theorem tB_le_zcB (t n : Nat) : tB 0 ≤ zcB t n := (tB_le_chzB t).trans (Nat.le_add_right _ _)

@[simp] theorem State.wr_acqSide (s : State) (b : Nat) (f : Fld) (v : Nat) (hb : tB 0 ≤ b) :
    (s.wr b f v).acqSide = s.acqSide :=
  Prod.ext rfl (funext fun x => State.reg_wr_other s b f v x (by have := x.2; omega))

@[simp] theorem State.inc_acqSide (s : State) (b : Nat) (f : Fld) (n : Nat) (hb : tB 0 ≤ b) :
    (s.inc b f n).acqSide = s.acqSide := State.wr_acqSide s b f _ hb

@[simp] theorem State.wrs_acqSide (b : Nat) (xs : List (Fld × Nat)) (s : State) (hb : tB 0 ≤ b) :
    (s.wrs b xs).acqSide = s.acqSide := by
  induction xs generalizing s with
  | nil => rfl
  | cons x xs ih => exact (ih (s.wr b x.1 x.2)).trans (State.wr_acqSide s b x.1 x.2 hb)

/-! The wide-band transform's traces. -/

@[simp] theorem sendItem_acqSide (inp : Nat) (bytes : List Byte) (s : State) :
    (sendItem inp bytes s).acqSide = s.acqSide := by
  simp only [sendItem]
  split <;> simp

@[simp] theorem emitTrace_acqSide (t extra : Nat) (s : State) : (emitTrace t extra s).acqSide = s.acqSide := by
  simp [emitTrace]

@[simp] theorem averager_acqSide (t : Nat) (d : Det) (s : State) : (averager t d s).acqSide = s.acqSide := by
  simp [averager]

@[simp] theorem mergeOldest_acqSide (t : Nat) (s : State) : (mergeOldest t s).2.acqSide = s.acqSide := by
  unfold mergeOldest
  split <;> simp

@[simp] theorem passShort_acqSide (t : Nat) (d : Det) (s : State) : (passShort t d s).acqSide = s.acqSide := by
  simp [passShort]

@[simp] theorem passParts_acqSide (t n : Nat) (s : State) : (passParts t n s).acqSide = s.acqSide := by
  induction n generalizing s with
  | zero => rfl
  | succ n ih => simp [passParts, ih]

@[simp] theorem partialClose_acqSide (t idx : Nat) (s : State) : (partialClose t idx s).acqSide = s.acqSide := by
  simp [partialClose]

@[simp] theorem wbShow_acqSide (t : Nat) (s : State) : (wbShow t s).acqSide = s.acqSide := by simp [wbShow]

/-! The trigger conditions. -/

@[simp] theorem trgEntry_acqSide (l : Nat) (e : TrgEntry) (s : State) : (trgEntry l e s).acqSide = s.acqSide := by
  simp [trgEntry]

@[simp] theorem condStateAt_acqSide (l c set k : Nat) (on : Bool) (flags : Nat) (s : State) :
    (condStateAt l c set k on flags s).acqSide = s.acqSide := by
  simp [condStateAt, showCond, countHit]

@[simp] theorem spectralCond_acqSide (l c k n flags : Nat) (v : Option Bool) (s : State) :
    (spectralCond l c k n flags v s).acqSide = s.acqSide := by
  simp [spectralCond, State.setCond]

@[simp] theorem spectralTake_acqSide (l src : Nat) (r : SpecResult) (s : State) :
    (spectralTake l src r s).acqSide = s.acqSide := by
  simp [spectralTake]

@[simp] theorem trgShow_acqSide (l : Nat) (s : State) : (trgShow l s).acqSide = s.acqSide := by simp [trgShow]

/-! The Tarn and the change-only records. -/

@[simp] theorem tarnStop_acqSide (l : Nat) (s : State) : (tarnStop l s).acqSide = s.acqSide := by simp [tarnStop]

@[simp] theorem coClose_acqSide (l : Nat) (s : State) : (coClose l s).acqSide = s.acqSide := by
  unfold coClose
  split <;> simp

@[simp] theorem coPut_acqSide (l : Nat) (e : List Byte) (s : State) : (coPut l e s).acqSide = s.acqSide := by
  unfold coPut
  split <;> simp

@[simp] theorem coOpen_acqSide (l idx sts : Nat) (lv : List Int) (s : State) :
    (coOpen l idx sts lv s).acqSide = s.acqSide := by
  simp [coOpen]

@[simp] theorem coReady_acqSide (l idx sts : Nat) (lv : List Int) (n : Nat) (s : State) :
    (coReady l idx sts lv n s).acqSide = s.acqSide := by
  induction n generalizing s with
  | zero => rfl
  | succ n ih => simp [coReady, ih]

@[simp] theorem coBin_acqSide (l idx sts k n : Nat) (lv : List Int) (bin : Nat) (s : State) :
    (coBin l idx sts k n lv bin s).acqSide = s.acqSide := by
  simp [coBin]

@[simp] theorem coSpectrum_acqSide (src : Nat) (i : SpecInfo) (s : State) :
    (coSpectrum src i s).acqSide = s.acqSide := by
  unfold coSpectrum
  extract_lets l idx c spans u n v lastBin w
  have hu : u.acqSide = s.acqSide := by simp [u]
  split
  · exact hu
  · have hv : v.acqSide = u.acqSide := by simp [v]
    have hw : w.acqSide = v.acqSide := by simp [w]
    split <;> simp [hw, hv, hu]

@[simp] theorem detectedOut_acqSide (l : Nat) (s : State) : (detectedOut l s).acqSide = s.acqSide := by
  simp [detectedOut]

/-! The zoom channels. -/

@[simp] theorem zoomEnd_acqSide (t n : Nat) (s : State) : (zoomEnd t n s).acqSide = s.acqSide := by
  unfold zoomEnd zoomCloseOpen
  split <;> simp [zoomClose]

@[simp] theorem chzStreamStop_acqSide (t : Nat) (s : State) : (chzStreamStop t s).acqSide = s.acqSide := by
  simp [chzStreamStop, zoomEndAll]

/-! The density engine. -/

theorem coversDens_above (l : Nat) : CoversPair (fun x => tB 0 ≤ x) densB l :=
  ⟨covers_above (tB_le_densB l), covers_above (tB_le_densB _)⟩

/-- The parts that the density engine changes beside its registers. -/
def densParts : List FramePart := [.force, .tabF, .dens]

@[simp] theorem densTakeEffect_acqSide (l : Nat) (after : Option Nat) (e : Nat) (s : State) :
    (densTakeEffect l after e s).acqSide = s.acqSide :=
  State.acqSide_of_outside (parts := densParts) (by decide)
    (densTakeEffect_outside l after e s (by decide) (by decide) (by decide) (coversDens_above l))

@[simp] theorem densIdle_acqSide (l : Nat) (s : State) : (densIdle l s).acqSide = s.acqSide := by simp [densIdle]

@[simp] theorem densShow_acqSide (l : Nat) (s : State) : (densShow l s).acqSide = s.acqSide :=
  State.acqSide_of_outside (parts := densParts) (by decide) (densShow_outside l s (coversDens_above l))

@[simp] theorem densAdvance_acqSide (l e : Nat) (s : State) : (densAdvance l e s).acqSide = s.acqSide :=
  State.acqSide_of_outside (parts := densParts) (by decide)
    (densAdvance_outside (by decide) (covers_above (tB_le_densB l)) e s)

@[simp] theorem densClose_acqSide (l e : Nat) (s : State) : (densClose l e s).acqSide = s.acqSide :=
  State.acqSide_of_outside (parts := densParts) (by decide)
    (densClose_outside (by decide) (covers_above (tB_le_densB l)) e s)

@[simp] theorem densAdd_acqSide (l k : Nat) (g : Tbl Nat → Tbl Nat) (s : State) :
    (densAdd l k g s).acqSide = s.acqSide :=
  State.acqSide_of_outside (parts := densParts) (by decide)
    (densAdd_outside (by decide) (covers_above (tB_le_densB l)) k g s)

@[simp] theorem satShow_acqSide (t : Nat) (hit : Bool) (s : State) : (satShow t hit s).acqSide = s.acqSide := by
  simp [satShow]

@[simp] theorem densSkip_acqSide (t : Nat) (out : Bool) (s : State) : (densSkip t out s).acqSide = s.acqSide := by
  simp [densSkip]

@[simp] theorem densCount_acqSide (i : SpecInfo) (s : State) : (densCount i s).acqSide = s.acqSide := by
  simp [densCount]

@[simp] theorem sgCount_acqSide (i : SpecInfo) (s : State) : (sgCount i s).acqSide = s.acqSide := by
  simp [sgCount]

@[simp] theorem densSpectrum_acqSide (i : SpecInfo) (s : State) : (densSpectrum i s).acqSide = s.acqSide := by
  simp only [densSpectrum]
  split <;> simp

/-! The start and the stop of a stream. -/

@[simp] theorem specConsume_acqSide (l : Nat) (r : SpecResult) (s : State) :
    (specConsume l r s).acqSide = s.acqSide := by
  simp [specConsume]

@[simp] theorem wbClose_acqSide (l idx : Nat) (s : State) : (wbClose l idx s).acqSide = s.acqSide := by
  simp [wbClose, specFlush]

theorem streamStop_acqSide (inp j : Nat) (s : State) : (streamStop inp j s).acqSide = s.acqSide := by
  simp [streamStop]

theorem coversStream_above (l : Nat) : CoversStream (fun x => tB 0 ≤ x) l where
  wb := ⟨covers_above (tB_le_wbB l), covers_above (tB_le_wbB _)⟩
  trg := ⟨covers_above (tB_le_trgB l), covers_above (tB_le_trgB _)⟩
  recd := ⟨covers_above (tB_le_recB l), covers_above (tB_le_recB _)⟩
  dens := coversDens_above l
  chz := ⟨covers_above (tB_le_chzB l), covers_above (tB_le_chzB _)⟩

theorem streamStart_acqSide (inp j : Nat) (s : State) : (streamStart inp j s).acqSide = s.acqSide :=
  State.acqSide_of_outside (parts := streamParts) (by decide)
    (streamStart_outside inp j s (List.Subset.refl _) (coversStream_above _))

theorem rsAdvance_acqSide (t : Nat) (s : State) : (rsAdvance t s).acqSide = s.acqSide :=
  State.acqSide_of_outside (parts := [.wb]) (by decide)
    (rsAdvance_outside t s (by decide) (covers_above (tB_le_wbB t)))

end Sys2Proof.Machine
end

section
/-! PROOFS. The registers and the record of an acquisition die under the shared operations of the calibration (R46 to
R65). -/

namespace Sys2Proof.Machine

/-! Fields that share no bit. -/

/-- Field `g` of the block at `c` shares no bit with the fields `fs` of the block at `b`. -/
def Fld.clearOf (fs : List Fld) (b c : Nat) (g : Fld) : Prop :=
  ∀ f ∈ fs, c + g.off ≠ b + f.off ∨ g.lo + g.w ≤ f.lo ∨ f.lo + f.w ≤ g.lo

/-- Whether fields `f` and `g` of one block share no bit. -/
def Fld.apart (f g : Fld) : Bool := g.off != f.off || (decide (g.lo + g.w ≤ f.lo) || decide (f.lo + f.w ≤ g.lo))

theorem Fld.clearOf_same {fs : List Fld} {b : Nat} {g : Fld} (h : fs.all (·.apart g) = true) : g.clearOf fs b b := by
  intro f hf
  have hfg := List.all_eq_true.mp h f hf
  simp only [Fld.apart, Bool.or_eq_true, bne_iff_ne, decide_eq_true_eq] at hfg
  omega

/-- The registers of the sub-converters lie above the others of an acquisition die. -/
theorem Fld.clearOf_sc {fs : List Fld} {a n : Nat} {g : Fld} (hfs : ∀ f ∈ fs, f.off < 0x1000) (hg : 0x1000 ≤ g.off) :
    g.clearOf fs (acqB a) (scB a n) := by
  intro f hf
  have := hfs f hf
  rw [scB]
  omega

theorem State.rd_wr_clear {fs : List Fld} {b c : Nat} {f g : Fld} (h : g.clearOf fs b c) (hf : f ∈ fs)
    (hw : f.lo + f.w ≤ 32) (s : State) (v : Nat) : (s.wr b f v).rd c g = s.rd c g := by
  rcases h f hf with hne | happart
  · exact State.rd_wr_other s b c f g v hne
  · exact State.rd_wr_apart s b c f g v hw happart

/-- A field of a block after a write of another one of the block. -/
theorem State.rd_wr_of_apart {f g : Fld} (s : State) (b v : Nat) (hw : f.lo + f.w ≤ 32) (h : f.apart g = true) :
    (s.wr b f v).rd b g = s.rd b g :=
  State.rd_wr_clear (fs := [f]) (Fld.clearOf_same (by simp [h])) (by simp) hw s v

/-- A field of a sub-converter after a write of a register of its die that is no sub-converter's. -/
theorem State.rd_sc_wr {f g : Fld} (s : State) (a n v : Nat) (hf : f.off < 0x1000) (hg : 0x1000 ≤ g.off) :
    (s.wr (acqB a) f v).rd (scB a n) g = s.rd (scB a n) g :=
  State.rd_wr_other s _ _ f g v (by rw [scB]; omega)

/-- The other way round. -/
theorem State.rd_wr_sc {f g : Fld} (s : State) (a n v : Nat) (hf : 0x1000 ≤ f.off) (hg : g.off < 0x1000) :
    (s.wr (scB a n) f v).rd (acqB a) g = s.rd (acqB a) g :=
  State.rd_wr_other s _ _ f g v (by rw [scB]; omega)

/-- Fields of the registers of two sub-converters. -/
theorem State.rd_wr_sc_other {f g : Fld} (s : State) (a m n v : Nat) (hmn : m ≠ n) (hf : f.off / 16 = 0x100)
    (hg : g.off / 16 = 0x100) : (s.wr (scB a n) f v).rd (scB a m) g = s.rd (scB a m) g :=
  State.rd_wr_other s _ _ f g v (by simp only [scB]; omega)

/-- A one-bit field that has been set. -/
theorem State.on_of_rd_one {s : State} {b : Nat} {f : Fld} (h : s.rd b f = 1) : s.on b f = true := by
  rw [State.on, h]; rfl

theorem State.on_of_rd_zero {s : State} {b : Nat} {f : Fld} (h : s.rd b f = 0) : s.on b f = false := by
  rw [State.on, h]; rfl

/-- A counter field after a count (R9). -/
theorem State.rd_inc_same (s : State) (b : Nat) (f : Fld) (n : Nat) (hw : f.lo + f.w ≤ 32) :
    (s.inc b f n).rd b f = min (2 ^ f.w - 1) (s.rd b f + n) := by
  have hpos := Nat.two_pow_pos f.w
  rw [State.inc, State.rd_wr_same _ _ _ _ hw]
  exact Nat.mod_eq_of_lt (by omega)

/-! Two's complement fields. -/

theorem sx_eq_toInt {w : Nat} (hw : 0 < w) (n : Nat) : sx w n = (BitVec.ofNat w n).toInt := by
  have hpow : 2 ^ w = 2 * 2 ^ (w - 1) := by
    rw [← Nat.pow_succ']
    congr 1
    omega
  rw [sx, BitVec.toInt_eq_toNat_cond, BitVec.toNat_ofNat, hpow]
  split <;> split <;> omega

theorem enc_eq_toNat (w : Nat) (v : Int) : enc w v = (BitVec.ofInt w v).toNat := by
  rw [BitVec.toNat_ofInt, enc]

theorem sx_toNat {w : Nat} (hw : 0 < w) (v : BitVec w) : sx w v.toNat = v.toInt := by
  rw [sx_eq_toInt hw, BitVec.ofNat_toNat, BitVec.setWidth_eq]

/-- A number that `w` bits hold is the value of its code. -/
theorem sx_enc_mod {w : Nat} {v : Int} (hw : 0 < w) (hlo : -(2 ^ w : Nat) ≤ v * 2) (hhi : v * 2 < (2 ^ w : Nat)) :
    sx w (enc w v % 2 ^ w) = v := by
  rw [enc_eq_toNat, Nat.mod_eq_of_lt (BitVec.isLt _), sx_toNat hw, BitVec.toInt_ofInt,
    Int.bmod_eq_of_le_mul_two hlo hhi]

/-- A two's complement field reads as it was written. -/
theorem State.rdI_wrI_same (s : State) (b : Nat) (f : Fld) (v : Int) (hfit : f.lo + f.w ≤ 32) (hw : 0 < f.w)
    (hlo : -(2 ^ f.w : Nat) ≤ v * 2) (hhi : v * 2 < (2 ^ f.w : Nat)) : (s.wrI b f v).rdI b f = v := by
  rw [State.rdI, State.wrI, State.rd_wr_same _ _ _ _ hfit, sx_enc_mod hw hlo hhi]

/-! The record of an acquisition die. -/

section
variable (s : State) (a : Nat)

@[simp] theorem State.acqSt_wr (b : Nat) (f : Fld) (v : Nat) : (s.wr b f v).acqSt a = s.acqSt a := by
  simp only [State.acqSt, State.wr_acq]

@[simp] theorem State.acqSt_wrI (b : Nat) (f : Fld) (v : Int) : (s.wrI b f v).acqSt a = s.acqSt a := by
  simp only [State.acqSt, State.wrI_acq]

@[simp] theorem State.acqSt_inc (b : Nat) (f : Fld) (n : Nat) : (s.inc b f n).acqSt a = s.acqSt a := by
  simp only [State.acqSt, State.inc_acq]

@[simp] theorem State.acqSt_wrs (b : Nat) (l : List (Fld × Nat)) : (s.wrs b l).acqSt a = s.acqSt a := by
  simp [State.acqSt]

@[simp] theorem State.acqSt_raise (src detail : Nat) : (s.raise src detail).acqSt a = s.acqSt a := by
  simp only [State.acqSt, State.raise_acq]

@[simp] theorem State.acqSt_mark (t first last bits : Nat) : (s.mark t first last bits).acqSt a = s.acqSt a := by
  simp [State.acqSt]

@[simp] theorem State.acqSt_calShow (b : Nat) : (s.calShow b).acqSt a = s.acqSt a :=
  State.acqSt_wr s a _ _ _

end

/-! The end of a run (R54, R64, R65). -/

/-- A run has counted, and its output is calibrated (R54, R66). -/
def runCounted (a : Nat) (s : State) : State :=
  (s.inc (acqB a) R.CAL_RUN_COUNT_RUNS).wr (acqB a) R.ACQ_STATUS_UNCAL 0

/-- A run that counts is one that does not, after its count and the end of UNCAL. -/
theorem runOver_true (a : Nat) (s : State) : runOver a true s = runOver a false (runCounted a s) := rfl

/-- The record of a die whose run has ended; `again` is the cause of a further run (R54). -/
def AcqSt.ended (q : AcqSt) (hold : Bool) (again : Option Nat) : AcqSt :=
  { q with
    phase := .idle, step := .none, abort := false, ranOnce := true, runSteps := 0
    rerunCause := if hold then again else .none }

/-- Without a cause that waits the calibration stays in IDLE after a run. -/
theorem runOver_idle {a : Nat} {s : State} (h : waitingCause a (s.acqSt a).rerunCause s = none) :
    runOver a false s =
      ((s.modAcq a fun q => q.ended (s.calHold a) none).wr (acqB a) R.CAL_STATE_RERUN 0).calShow a := by
  simp [runOver, h, AcqSt.ended, b2n]

/-- A cause that waited with RERUN starts a further run. -/
theorem runOver_again {a c : Nat} {s : State} (h : waitingCause a (s.acqSt a).rerunCause s = some c)
    (hhold : s.calHold a = false) :
    runOver a false s =
      startRun a c ((s.modAcq a fun q => q.ended false (some c)).wr (acqB a) R.CAL_STATE_RERUN 0) := by
  simp [runOver, h, hhold, AcqSt.ended, b2n]

/-- In HOLD it goes on waiting. -/
theorem runOver_hold {a c : Nat} {s : State} (h : waitingCause a (s.acqSt a).rerunCause s = some c)
    (hhold : s.calHold a = true) :
    runOver a false s =
      ((s.modAcq a fun q => q.ended true (some c)).wr (acqB a) R.CAL_STATE_RERUN 1).calShow a := by
  simp [runOver, h, hhold, AcqSt.ended, b2n]

/-! CAL_STATE and CAL_TEMP: all that a run, its start and its end write. -/

/-- The fields that the operations of calibration runs write. -/
def runFlds : List Fld := [R.CAL_STATE_STATE, R.CAL_STATE_CAUSE, R.CAL_STATE_RERUN, R.CAL_TEMP_TEMP_REF]

theorem clearOf_runFlds_sc {a n : Nat} {g : Fld} (hg : 0x1000 ≤ g.off) : g.clearOf runFlds (acqB a) (scB a n) :=
  Fld.clearOf_sc (by decide) hg

section
variable {a c : Nat} {g : Fld} (h : g.clearOf runFlds (acqB a) c)
include h

theorem State.rd_wr_run (f : Fld) (hf : f ∈ runFlds) (s : State) (v : Nat) :
    (s.wr (acqB a) f v).rd c g = s.rd c g :=
  State.rd_wr_clear h hf ((by decide : ∀ f ∈ runFlds, f.lo + f.w ≤ 32) f hf) s v

theorem State.rd_calShow (s : State) : (s.calShow a).rd c g = s.rd c g :=
  State.rd_wr_run h _ (by decide) s _

theorem rd_startRun (k : Nat) (s : State) : (startRun a k s).rd c g = s.rd c g := by
  simp (disch := decide) [startRun, State.wrs, State.rd_calShow h, State.rd_wr_run h]

theorem rd_setRerun (k : Nat) (s : State) : (setRerun a k s).rd c g = s.rd c g := by
  simp (disch := decide) [setRerun, State.rd_wr_run h]

theorem rd_calCause (k : Nat) (s : State) : (calCause a k s).rd c g = s.rd c g := by
  simp only [calCause]
  split_ifs <;> simp [rd_setRerun h, rd_startRun h]

theorem rd_enterIdle (s : State) : (enterIdle a s).rd c g = s.rd c g := by
  simp [enterIdle, State.rd_calShow h]

theorem rd_calOff (s : State) : (calOff a s).rd c g = s.rd c g := by
  simp (disch := decide) [calOff, State.rd_calShow h, State.rd_wr_run h]

theorem rd_calOn (s : State) : (calOn a s).rd c g = s.rd c g := by
  unfold calOn
  split <;> simp [rd_calOff h, rd_enterIdle h, rd_calCause h]

/-- The end of a run that does not count; for one that counts see `runOver_true`. -/
theorem rd_runOver (s : State) : (runOver a false s).rd c g = s.rd c g := by
  cases hagain : waitingCause a (s.acqSt a).rerunCause s with
  | none => simp (disch := decide) [runOver_idle hagain, State.rd_calShow h, State.rd_wr_run h]
  | some k =>
    cases hhold : s.calHold a with
    | false => simp (disch := decide) [runOver_again hagain hhold, rd_startRun h, State.rd_wr_run h]
    | true => simp (disch := decide) [runOver_hold hagain hhold, State.rd_calShow h, State.rd_wr_run h]

theorem rd_stepDone (s : State) : (stepDone a s).rd c g = s.rd c g := by
  simp only [stepDone]
  split <;> simp [rd_runOver h, State.rd_calShow h]

theorem rd_idleDone (s : State) : (idleDone a s).rd c g = s.rd c g := by
  simp only [idleDone]
  split
  · split <;> simp [State.rd_calShow h, rd_startRun h, rd_setRerun h]
  · simp [State.rd_calShow h]

theorem rd_calCtrlWritten (old : Nat) (s : State) : (calCtrlWritten a old s).rd c g = s.rd c g := by
  unfold calCtrlWritten
  extract_lets m u q
  have hu : u.rd c g = s.rd c g := by
    simp only [u]
    split_ifs <;> simp [rd_calOff h, rd_calOn h]
  split
  · split <;> simp (disch := decide) [State.rd_calShow h, rd_startRun h, State.rd_wr_run h, hu]
  · simp [State.rd_calShow h, hu]

end

/-! The start of a run (R53, R54). -/

theorem acqSt_startRun (a c : Nat) (s : State) :
    (startRun a c s).acqSt a = { s.acqSt a with
      phase := .run, runSteps := 0, abort := false, step := .none
      nextSlot := if (s.acqSt a).frozen then 0 else (s.acqSt a).nextSlot } := by
  simp [startRun]

theorem rd_startRun_cause (a c : Nat) (s : State) : (startRun a c s).rd (acqB a) R.CAL_STATE_CAUSE = c % 8 := by
  simp (disch := decide) only [startRun, State.calShow, State.wrs, State.rd_wr_of_apart, State.rd_wr_same]
  rfl

/-- RERUN does not change when a run starts. -/
theorem rd_startRun_rerun (a c : Nat) (s : State) :
    (startRun a c s).rd (acqB a) R.CAL_STATE_RERUN = s.rd (acqB a) R.CAL_STATE_RERUN := by
  simp (disch := decide) only [startRun, State.calShow, State.wrs, State.rd_wr_of_apart, State.rd_modAcq]

theorem acqSt_setRerun (a c : Nat) (s : State) :
    (setRerun a c s).acqSt a = { s.acqSt a with rerunCause := some ((s.acqSt a).rerunCause.getD c) } := by
  simp [setRerun]

theorem rd_setRerun_rerun (a c : Nat) (s : State) : (setRerun a c s).rd (acqB a) R.CAL_STATE_RERUN = 1 := by
  simp (disch := decide) only [setRerun, State.rd_wr_same]
  rfl

/-- Cause `c` of R53 acts: the calibration is on, its mode takes the cause, and a frozen rotation allows live trims. -/
structure CauseActs (a c : Nat) (s : State) : Prop where
  enabled : (s.acqSt a).enabled = true
  mode : s.calMode a = 2 ∨ (s.calMode a = 1 ∧ c = 4)
  live : (s.acqSt a).frozen = false ∨ s.on (acqB a) R.ACQ_CTRL_LIVE_TRIM = true

/-- What a cause that acts does, by what the calibration is doing. -/
theorem calCause_of_acts {a c : Nat} {s : State} (h : CauseActs a c s) :
    calCause a c s = if (s.acqSt a).phase = .run then setRerun a c s
      else if (s.acqSt a).step ≠ .none then
        s.modAcq a fun q => { q with idleCause := some (q.idleCause.getD c) }
      else if s.calHold a then setRerun a c s else startRun a c s := by
  obtain ⟨henabled, hmode, hlive⟩ := h
  have htakes : (!(s.acqSt a).enabled || s.calMode a == 0 || (s.calMode a == 1 && c != 4)) = false := by
    rcases hmode with hmode | ⟨hmode, rfl⟩ <;> simp [henabled, hmode]
  have hallows : ((s.acqSt a).frozen && !s.on (acqB a) R.ACQ_CTRL_LIVE_TRIM) = false := by
    rcases hlive with hlive | hlive <;> simp [hlive]
  simp only [calCause, htakes, hallows, Bool.false_eq_true, if_false]

theorem CauseActs.start {a c : Nat} {s : State} (h : CauseActs a c s) (hphase : (s.acqSt a).phase ≠ .run)
    (hstep : (s.acqSt a).step = .none) (hhold : s.calHold a = false) : calCause a c s = startRun a c s := by
  simp [calCause_of_acts h, hphase, hstep, hhold]

theorem CauseActs.rerun {a c : Nat} {s : State} (h : CauseActs a c s) (hphase : (s.acqSt a).phase = .run) :
    calCause a c s = setRerun a c s := by
  simp [calCause_of_acts h, hphase]

theorem CauseActs.wait {a c : Nat} {s : State} (h : CauseActs a c s) (hphase : (s.acqSt a).phase ≠ .run)
    (hstep : (s.acqSt a).step ≠ .none) :
    calCause a c s = s.modAcq a fun q => { q with idleCause := some (q.idleCause.getD c) } := by
  simp [calCause_of_acts h, hphase, hstep]

/-- What a cause that acts leaves, in the three cases that the rows of R53 and R54 name. -/
theorem CauseActs.cases {a c : Nat} {s : State} (h : CauseActs a c s) :
    ((s.acqSt a).phase ≠ .run → (s.acqSt a).step = .none → s.calHold a = false →
      ((calCause a c s).acqSt a).phase = .run ∧ (calCause a c s).rd (acqB a) R.CAL_STATE_CAUSE = c % 8) ∧
    ((s.acqSt a).phase = .run →
      ((calCause a c s).acqSt a).rerunCause = some ((s.acqSt a).rerunCause.getD c) ∧
        (calCause a c s).on (acqB a) R.CAL_STATE_RERUN = true) ∧
    ((s.acqSt a).phase ≠ .run → (s.acqSt a).step ≠ .none →
      ((calCause a c s).acqSt a).idleCause = some ((s.acqSt a).idleCause.getD c)) := by
  refine ⟨fun hphase hstep hhold => ?_, fun hphase => ?_, fun hphase hstep => ?_⟩
  · rw [h.start hphase hstep hhold, acqSt_startRun]
    exact ⟨rfl, rd_startRun_cause a c s⟩
  · rw [h.rerun hphase, acqSt_setRerun]
    exact ⟨rfl, State.on_of_rd_one (rd_setRerun_rerun a c s)⟩
  · rw [h.wait hphase hstep, State.acqSt_modAcq]

/-! IDLE, OFF, and the end of a run (R64, R65). -/

theorem acqSt_enterIdle (a : Nat) (s : State) :
    (enterIdle a s).acqSt a = { s.acqSt a with phase := .idle, step := .none } := by
  simp [enterIdle]

theorem acqSt_calOff (a : Nat) (s : State) :
    (calOff a s).acqSt a = { s.acqSt a with
      phase := .off, step := .none, waiting := false, displaced := .none, abort := false
      rerunCause := .none, idleCause := .none } := by
  simp [calOff]

/-- What every end of a run leaves as it is. -/
theorem acqSt_runOver (a : Nat) (s : State) :
    ∃ phase runSteps nextSlot rerunCause, (runOver a false s).acqSt a =
      { s.acqSt a with
        step := .none, abort := false, ranOnce := true
        phase := phase, runSteps := runSteps, nextSlot := nextSlot, rerunCause := rerunCause } := by
  cases hagain : waitingCause a (s.acqSt a).rerunCause s with
  | none =>
    rw [runOver_idle hagain, State.acqSt_calShow, State.acqSt_wr, State.acqSt_modAcq]
    exact ⟨_, _, _, _, rfl⟩
  | some c =>
    cases hhold : s.calHold a with
    | false =>
      rw [runOver_again hagain hhold, acqSt_startRun, State.acqSt_wr, State.acqSt_modAcq]
      exact ⟨_, _, _, _, rfl⟩
    | true =>
      rw [runOver_hold hagain hhold, State.acqSt_calShow, State.acqSt_wr, State.acqSt_modAcq]
      exact ⟨_, _, _, _, rfl⟩

end Sys2Proof.Machine
end

section
/-! PROOFS. The gain of an acquisition die (R38 to R40) and the JESD204C input of the S8G-2D (R77 to R81). -/

namespace Sys2Proof.Machine

/-! A write of the gain. -/

theorem execGainWrite_present {a : ADie} {s : State} (h : s.hasA a = true) (code : Fin 32) :
    execGainWrite a code s = .next (gainWritten a (s.wr (acqB a) R.ACQ_CTRL_GAIN code)) := by
  simp [execGainWrite, h]

/-- The record after a write of the field GAIN. -/
theorem acqSt_gainWritten (a : Nat) (s : State) :
    (gainWritten a s).acqSt a = { s.acqSt a with
      gainNext := if min 24 (s.rd (acqB a) R.ACQ_CTRL_GAIN) = (s.acqSt a).gain then .none
        else some (min 24 (s.rd (acqB a) R.ACQ_CTRL_GAIN)) } := by
  simp only [gainWritten, State.acqSt_modAcq]
  split <;> simp only [State.acqSt_wr]

theorem gainWritten_gain (a : Nat) (s : State) :
    (gainWritten a s).rd (acqB a) R.ACQ_CTRL_GAIN = s.rd (acqB a) R.ACQ_CTRL_GAIN := by
  simp only [gainWritten, State.rd_modAcq]
  split
  · exact State.rd_wr_of_apart s _ _ (by decide) (by decide)
  · rfl

theorem gainWritten_clamp {a : Nat} {s : State} (h : 24 < s.rd (acqB a) R.ACQ_CTRL_GAIN) :
    (gainWritten a s).on (acqB a) R.ACQ_STATUS_GAIN_CLAMP = true := by
  apply State.on_of_rd_one
  simp only [gainWritten, State.rd_modAcq, if_pos h]
  exact State.rd_wr_same s _ _ 1 (by decide)

/-- The field as a write of `code` leaves it. -/
theorem rd_gain (a : Nat) (code : Fin 32) (s : State) :
    (s.wr (acqB a) R.ACQ_CTRL_GAIN code).rd (acqB a) R.ACQ_CTRL_GAIN = code :=
  (State.rd_wr_same s _ _ _ (by decide)).trans (Nat.mod_eq_of_lt code.isLt)

/-- Settles O12: the gain that waits, or the gain in force where it is that of the code. -/
theorem gainCodeClamps : Obligations.GainCodeClamps := by
  unfold Obligations.GainCodeClamps
  intro a code s hdie hcode
  refine ⟨_, execGainWrite_present hdie code, ?_, by norm_num, gainWritten_clamp (by rwa [rd_gain])⟩
  have hmin : min 24 code.val = 24 := Nat.min_eq_left hcode.le
  rw [acqSt_gainWritten, rd_gain, State.acqSt_wr, hmin]
  dsimp only
  split
  · next hgain => exact hgain.symm
  · rfl

/-! The receiver (R77 to R81). -/

/-- The receiver's state and registers, and the time base, as a stream that starts leaves them. -/
theorem streamStart_jrx (inp j : Nat) (s : State) (hlead : leadOf inp + 1 < 4) :
    (streamStart inp j s).jrx = s.jrx ∧ (streamStart inp j s).time = s.time ∧
      ∀ f : Fld, f.off < 0x10000 → (streamStart inp j s).rd (jrxB 0) f = s.rd (jrxB 0) f := by
  have hkept := streamStart_outside (parts := streamParts) inp j s (List.Subset.refl _)
    (coversStream_inBlocks (List.Subset.refl _) hlead)
  obtain ⟨hrest, hreg⟩ := Prod.mk.inj hkept
  have hjrx := congrArg State.jrx hrest
  have htime := congrArg State.time hrest
  refine ⟨hjrx, htime, fun f hf => ?_⟩
  have hplace : place (jrxB 0 + f.off) = some (.jrx, 0, f.off) :=
    place_diePage (t := 0) (page := 15) (by decide) (by decide) hf rfl
  have hout : ¬ inBlocks [.wb, .trg, .recd, .dens, .chz] (jrxB 0 + f.off) := by
    rintro ⟨b, hb, hat⟩
    rw [hplace] at hat
    simp only [Option.map_some, Option.some.injEq] at hat
    subst hat
    revert hb
    decide
  rw [State.rd, State.rd]
  exact congrArg (fun r : Word => bitsOf r.toNat f.lo f.w) (congrFun hreg ⟨_, hout⟩)

/-- The receiver's state beside its registers. -/
@[simp] theorem State.rd_jrx (s : State) (q : JrxSt) (b : Nat) (f : Fld) :
    ({ s with jrx := q } : State).rd b f = s.rd b f := State.rd_congr rfl b f

theorem execJrxEnable_starts {s : State} (hpart : s.part = .s2d) (hen : s.on (jrxB 0) R.JRX_CTRL_EN = false) :
    execJrxEnable s = .next (jrxEnable s) := by
  simp [execJrxEnable, hpart, hen]

theorem rd_jrxEnable (s : State) :
    (jrxEnable s).rd (jrxB 0) R.JRX_CTRL_EN = 1 ∧ (jrxEnable s).rd (jrxB 0) R.JRX_STATUS_LANE_LOCK = 0 ∧
      (jrxEnable s).rd (jrxB 0) R.JRX_STATUS_READY = 0 := by
  refine ⟨?_, ?_, ?_⟩ <;>
    · simp (disch := decide) only [jrxEnable, State.wrs, State.rd_jrx, State.rd_wr_of_apart, State.rd_wr_same]
      rfl

/-- A lane in use locks. -/
def jrxLock (lane : Fin 16) (arrival early late : Nat) (s : State) : State :=
  { s.wrs (jrxB 0) [(R.JRX_STATUS_LANE_LOCK, s.rd (jrxB 0) R.JRX_STATUS_LANE_LOCK ||| 2 ^ lane.val),
      (R.JRX_ARRIVAL_EARLY, early), (R.JRX_ARRIVAL_LATE, late)] with
    jrx := { s.jrx with arrival := tset (fun _ => 0) s.jrx.arrival lane arrival } }

/-- The first lane to lock sets both ends of the arrivals, a later one moves them. -/
theorem execJrxLaneLock_locks {lane : Fin 16} {s : State} (hpart : s.part = .s2d)
    (hen : s.on (jrxB 0) R.JRX_CTRL_EN = true) (hlane : lane.val < s.jrxLanes) (v : BitVec 16) :
    execJrxLaneLock lane v s = .next (if s.rd (jrxB 0) R.JRX_STATUS_LANE_LOCK = 0
      then jrxLock lane v.toNat v.toNat v.toNat s
      else jrxLock lane v.toNat (min v.toNat (s.rd (jrxB 0) R.JRX_ARRIVAL_EARLY))
        (max v.toNat (s.rd (jrxB 0) R.JRX_ARRIVAL_LATE)) s) := by
  rw [execJrxLaneLock, if_pos ⟨hpart, hen, hlane⟩]
  split <;> simp [jrxLock, State.wrs, *]

section
variable (lane : Fin 16) (arrival early late : Nat) (s : State)

theorem jrxLock_laneLock : (jrxLock lane arrival early late s).rd (jrxB 0) R.JRX_STATUS_LANE_LOCK =
    s.rd (jrxB 0) R.JRX_STATUS_LANE_LOCK ||| 2 ^ lane.val := by
  have hbit : 2 ^ lane.val < 2 ^ R.JRX_STATUS_LANE_LOCK.w := Nat.pow_lt_pow_right (by decide) lane.isLt
  simp (disch := decide) only [jrxLock, State.wrs, State.rd_jrx, State.rd_wr_of_apart, State.rd_wr_same]
  exact Nat.mod_eq_of_lt (Nat.or_lt_two_pow (State.rd_lt s _ _) hbit)

theorem jrxLock_early : (jrxLock lane arrival early late s).rd (jrxB 0) R.JRX_ARRIVAL_EARLY =
    early % 2 ^ R.JRX_ARRIVAL_EARLY.w := by
  simp (disch := decide) only [jrxLock, State.wrs, State.rd_jrx, State.rd_wr_of_apart, State.rd_wr_same]

theorem jrxLock_late : (jrxLock lane arrival early late s).rd (jrxB 0) R.JRX_ARRIVAL_LATE =
    late % 2 ^ R.JRX_ARRIVAL_LATE.w := by
  simp (disch := decide) only [jrxLock, State.wrs, State.rd_jrx, State.rd_wr_same]

theorem jrxLock_arrival : tget (fun _ => 0) (jrxLock lane arrival early late s).jrx.arrival lane = arrival :=
  tget_tset_same _ _ _ _

end

/-! The release (R78, R79). -/

/-- The state with which a stream starts at the first release: its FRC value is R_L. -/
def jrxReady (s : State) : State :=
  { s.wr (jrxB 0) R.JRX_STATUS_READY 1 with
    time := { s.time with rl := some s.time.frc }, jrx := { s.jrx with next := 0, lostFrom := none } }

/-- The state after a release for which data of a lane is missing. -/
def jrxMissed (s : State) : State :=
  (s.wr (jrxB 0) R.JRX_STATUS_RBD_ERR 1).raise 66 (s.jrxLate.foldl (fun m k => m ||| 2 ^ k) 0)

section
variable {s : State} (hpart : s.part = .s2d) (hen : s.on (jrxB 0) R.JRX_CTRL_EN = true)
  (hlocked : s.jrxLocked = true) (hlemc : s.jrx.lemc ≠ none)
include hpart hen hlocked hlemc

theorem execJrxRelease_first (hlate : s.jrxLate = []) (hready : s.on (jrxB 0) R.JRX_STATUS_READY = false) :
    execJrxRelease s = .next (streamStart 0 0 (jrxReady s)) := by
  have hsome : s.jrx.lemc.isSome = true := Option.isSome_iff_ne_none.mpr hlemc
  simp [execJrxRelease, hpart, hen, hlocked, hsome, hlate, hready, jrxReady]

theorem execJrxRelease_again (hlate : s.jrxLate = []) (hready : s.on (jrxB 0) R.JRX_STATUS_READY = true) :
    execJrxRelease s = .next (jrxRealigned s) := by
  have hsome : s.jrx.lemc.isSome = true := Option.isSome_iff_ne_none.mpr hlemc
  simp [execJrxRelease, hpart, hen, hlocked, hsome, hlate, hready]

theorem execJrxRelease_missed (hlate : s.jrxLate ≠ []) :
    execJrxRelease s = .next (if s.on (jrxB 0) R.JRX_STATUS_READY
      then { jrxMissed s with jrx := { s.jrx with lostFrom := some (s.jrx.lostFrom.getD s.jrx.next) } }
      else jrxMissed s) := by
  have hsome : s.jrx.lemc.isSome = true := Option.isSome_iff_ne_none.mpr hlemc
  cases hl : s.jrxLate with
  | nil => exact absurd hl hlate
  | cons l ls => simp [execJrxRelease, hpart, hen, hlocked, hsome, hl, jrxMissed, State.raise]

end

/-- The stream that the first release starts. -/
theorem streamStart_jrxReady (s : State) :
    (streamStart 0 0 (jrxReady s)).on (jrxB 0) R.JRX_STATUS_READY = true ∧
      (streamStart 0 0 (jrxReady s)).time.rl = some s.time.frc ∧ (streamStart 0 0 (jrxReady s)).jrx.next = 0 := by
  obtain ⟨hjrx, htime, hregs⟩ := streamStart_jrx 0 0 (jrxReady s) (by decide)
  refine ⟨State.on_of_rd_one ?_, by rw [htime]; rfl, by rw [hjrx]; rfl⟩
  rw [hregs _ (by decide)]
  exact State.rd_wr_same s _ _ 1 (by decide)

theorem jrxRealigned_jrx (s : State) : (jrxRealigned s).jrx.lostFrom = none ∧ (jrxRealigned s).time = s.time := by
  unfold jrxRealigned
  split
  · next h => exact ⟨h, rfl⟩
  · refine ⟨rfl, ?_⟩
    dsimp only
    split
    · exact State.mark_time _ _ _ _ _
    · rfl

theorem jrxMissed_rbdErr (s : State) : (jrxMissed s).rd (jrxB 0) R.JRX_STATUS_RBD_ERR = 1 := by
  rw [jrxMissed, State.rd_raise, State.rd_wr_same _ _ _ _ (by decide)]
  rfl

/-- The sources of the events in flight after another one. -/
theorem State.raise_flight_sources (s : State) (src detail : Nat) :
    (s.raise src detail).flight.map (·.source) = s.flight.map (·.source) ++ [src] := by
  simpa [List.map_map, Function.comp_def] using congrArg (List.map Prod.fst) (State.raise_flight_map s src detail)

theorem jrxMissed_sources (s : State) :
    (jrxMissed s).flight.map (·.source) = s.flight.map (·.source) ++ [66] := by
  rw [jrxMissed, State.raise_flight_sources, State.wr_flight]

/-! Errors and losses (R80). -/

theorem execJrxCrcError_counts {s : State} (hpart : s.part = .s2d) (hen : s.on (jrxB 0) R.JRX_CTRL_EN = true) :
    execJrxCrcError s = .next ((s.inc (jrxB 0) R.JRX_ERR_COUNT_ERRORS).wr (jrxB 0) R.JRX_STATUS_CRC_ERR 1) := by
  rw [execJrxCrcError, if_pos ⟨hpart, hen⟩]

theorem execJrxLaneLockLoss_loses {lane : Fin 16} {s : State} (hpart : s.part = .s2d)
    (hlane : bit (s.rd (jrxB 0) R.JRX_STATUS_LANE_LOCK) lane = true) (first last : Nat) :
    execJrxLaneLockLoss lane first last s = .next (((s.wr (jrxB 0) R.JRX_STATUS_LANE_LOCK
      (s.rd (jrxB 0) R.JRX_STATUS_LANE_LOCK - 2 ^ lane.val)).mark 0 first last markLost).raise 66 (2 ^ lane.val)) := by
  rw [execJrxLaneLockLoss, if_pos ⟨hpart, hlane⟩]

/-- Settles O18: the answer of each row written out, with the fields, the events and the flags that it holds. -/
theorem jrxRowsComplete : Obligations.JrxRowsComplete := by
  unfold Obligations.JrxRowsComplete
  refine ⟨fun s hpart hen => ?_, fun lane v s hpart hen hlane => ?_, fun s hpart hen hlocked hlemc => ?_,
    fun s hpart hen => ?_, fun lane first last s hpart hlane => ?_⟩
  · obtain ⟨hon, hlock, hready⟩ := rd_jrxEnable s
    exact ⟨_, execJrxEnable_starts hpart hen, State.on_of_rd_one hon, hlock, State.on_of_rd_zero hready, rfl⟩
  · refine ⟨_, execJrxLaneLock_locks hpart hen hlane v, ?_⟩
    by_cases hnone : s.rd (jrxB 0) R.JRX_STATUS_LANE_LOCK = 0
    · rw [if_pos hnone]
      exact ⟨jrxLock_laneLock _ _ _ _ s, jrxLock_arrival _ _ _ _ s,
        fun _ => ⟨jrxLock_early _ _ _ _ s, jrxLock_late _ _ _ _ s⟩, fun hsome => absurd hnone hsome⟩
    · rw [if_neg hnone]
      exact ⟨jrxLock_laneLock _ _ _ _ s, jrxLock_arrival _ _ _ _ s, fun h => absurd h hnone,
        fun _ => ⟨jrxLock_early _ _ _ _ s, jrxLock_late _ _ _ _ s⟩⟩
  · by_cases hlate : s.jrxLate = []
    · cases hready : s.on (jrxB 0) R.JRX_STATUS_READY with
      | false =>
        exact ⟨_, execJrxRelease_first hpart hen hlocked hlemc hlate hready, fun _ _ => streamStart_jrxReady s,
          fun _ h => absurd h (by decide), fun h => absurd hlate h⟩
      | true =>
        obtain ⟨hlost, htime⟩ := jrxRealigned_jrx s
        exact ⟨_, execJrxRelease_again hpart hen hlocked hlemc hlate hready, fun _ h => absurd h (by decide),
          fun _ _ => ⟨hlost, by rw [htime]⟩, fun h => absurd hlate h⟩
    · refine ⟨_, execJrxRelease_missed hpart hen hlocked hlemc hlate, fun h => absurd h hlate,
        fun h => absurd h hlate, fun _ => ?_⟩
      cases s.on (jrxB 0) R.JRX_STATUS_READY with
      | false =>
        exact ⟨State.on_of_rd_one (jrxMissed_rbdErr s), jrxMissed_sources s, fun h => absurd h (by decide)⟩
      | true => exact ⟨State.on_of_rd_one (jrxMissed_rbdErr s), jrxMissed_sources s, fun _ => rfl⟩
  · refine ⟨_, execJrxCrcError_counts hpart hen, State.on_of_rd_one (State.rd_wr_same _ _ _ 1 (by decide)), ?_⟩
    rw [State.rd_wr_of_apart _ _ _ (by decide) (by decide), State.rd_inc_same _ _ _ _ (by decide)]
  · have hold := State.rd_lt s (jrxB 0) R.JRX_STATUS_LANE_LOCK
    have hbit : 2 ^ lane.val < 2 ^ 64 := Nat.pow_lt_pow_right (by decide) (by omega)
    refine ⟨_, execJrxLaneLockLoss_loses hpart hlane first last, ?_, fun j hfirst hlast => ?_, ?_⟩
    · rw [State.rd_raise, State.rd_mark, State.rd_wr_same _ _ _ _ (by decide)]
      exact Nat.mod_eq_of_lt ((Nat.sub_le _ _).trans_lt hold)
    · rw [bit_eq_testBit]
      exact State.mark_status (by decide) hfirst hlast
    · rw [State.raise_flight_map, State.mark_flight, State.wr_flight, Nat.mod_eq_of_lt hbit]

end Sys2Proof.Machine
end

section
/-! PROOFS. Calibration runs, their causes and commands, and the skew measurement (R53 to R65, R69 to R71). -/

namespace Sys2Proof.Machine

theorem State.calMode_congr {s t : State} {a : Nat}
    (h : t.rd (acqB a) R.CAL_CTRL_MODE = s.rd (acqB a) R.CAL_CTRL_MODE) : t.calMode a = s.calMode a := by
  rw [State.calMode, State.calMode, h]

theorem State.calHold_congr {s t : State} {a : Nat}
    (h : t.rd (acqB a) R.CAL_CTRL_HOLD = s.rd (acqB a) R.CAL_CTRL_HOLD) : t.calHold a = s.calHold a := by
  rw [State.calHold, State.calHold, State.on, State.on, h]

theorem State.rdI_congr {s t : State} {b : Nat} {f : Fld} (h : t.rd b f = s.rd b f) : t.rdI b f = s.rdI b f := by
  rw [State.rdI, State.rdI, h]

/-! The end of a run that counts. -/

theorem execCalRunComplete_counts {a : ADie} {s : State} (hphase : (s.acqSt a).phase = .run)
    (hstep : (s.acqSt a).step = .none) (hlen : (s.acqSt a).runLength ≤ (s.acqSt a).runSteps) :
    execCalRunComplete a s = .next (runOver a true s) := by
  simp only [execCalRunComplete, hphase, hstep, hlen, and_self, if_true]

theorem rd_runCounted {g : Fld} (hruns : R.CAL_RUN_COUNT_RUNS.apart g = true)
    (huncal : R.ACQ_STATUS_UNCAL.apart g = true) (a : Nat) (s : State) :
    (runCounted a s).rd (acqB a) g = s.rd (acqB a) g := by
  rw [runCounted, State.rd_wr_of_apart _ _ _ (by decide) huncal]
  exact State.rd_wr_of_apart _ _ _ (by decide) hruns

theorem acqSt_runCounted (a : Nat) (s : State) : (runCounted a s).acqSt a = s.acqSt a := by
  rw [runCounted, State.acqSt_wr, State.acqSt_inc]

theorem runOver_runs (a : Nat) (s : State) :
    (runOver a true s).rd (acqB a) R.CAL_RUN_COUNT_RUNS =
      min (2 ^ 32 - 1) (s.rd (acqB a) R.CAL_RUN_COUNT_RUNS + 1) := by
  rw [runOver_true, rd_runOver (Fld.clearOf_same (by decide)), runCounted,
    State.rd_wr_of_apart _ _ _ (by decide) (by decide), State.rd_inc_same _ _ _ _ (by decide)]
  rfl

theorem runOver_uncal (a : Nat) (s : State) : (runOver a true s).on (acqB a) R.ACQ_STATUS_UNCAL = false := by
  apply State.on_of_rd_zero
  rw [runOver_true, rd_runOver (Fld.clearOf_same (by decide)), runCounted, State.rd_wr_same _ _ _ _ (by decide),
    Nat.zero_mod]

theorem waitingCause_auto {a : Nat} {s : State} (h : s.calMode a = 2) (c : Option Nat) : waitingCause a c s = c := by
  cases c <;> simp [waitingCause, h]

/-- A run that counts ends in IDLE where no cause waits. -/
theorem acqSt_runOver_idle {a : Nat} {s : State} (h : (s.acqSt a).rerunCause = none) :
    ((runOver a true s).acqSt a).phase = .idle := by
  have hnone : waitingCause a ((runCounted a s).acqSt a).rerunCause (runCounted a s) = none := by
    rw [acqSt_runCounted, h]
    rfl
  rw [runOver_true, runOver_idle hnone, State.acqSt_calShow, State.acqSt_wr, State.acqSt_modAcq]
  rfl

/-- Under AUTO a run that counts is followed by the run of the cause that waits. -/
theorem runOver_true_again {a c : Nat} {s : State} (h : (s.acqSt a).rerunCause = some c) (hmode : s.calMode a = 2)
    (hhold : s.calHold a = false) :
    runOver a true s = startRun a c
      (((runCounted a s).modAcq a fun q => q.ended false (some c)).wr (acqB a) R.CAL_STATE_RERUN 0) := by
  have hmode' : (runCounted a s).calMode a = 2 :=
    (State.calMode_congr (rd_runCounted (by decide) (by decide) a s)).trans hmode
  have hhold' : (runCounted a s).calHold a = false :=
    (State.calHold_congr (rd_runCounted (by decide) (by decide) a s)).trans hhold
  rw [runOver_true]
  refine runOver_again ?_ hhold'
  rw [waitingCause_auto hmode', acqSt_runCounted, h]

/-! The causes of R53. -/

theorem execCalTempRead_reads {a : ADie} {s : State} (h : s.hasA a = true) (temp : BitVec 16) :
    execCalTempRead a temp s = .next
      (if s.rd (acqB a) R.CAL_CTRL_TEMP_DELTA < (temp.toInt - s.rdI (acqB a) R.CAL_TEMP_TEMP_REF).natAbs
        then calCause a 1 (s.wr (acqB a) R.CAL_TEMP_TEMP_NOW temp.toNat)
        else s.wr (acqB a) R.CAL_TEMP_TEMP_NOW temp.toNat) := by
  have hdelta : (s.wr (acqB a) R.CAL_TEMP_TEMP_NOW temp.toNat).rd (acqB a) R.CAL_CTRL_TEMP_DELTA =
      s.rd (acqB a) R.CAL_CTRL_TEMP_DELTA := State.rd_wr_of_apart s _ _ (by decide) (by decide)
  have href : (s.wr (acqB a) R.CAL_TEMP_TEMP_NOW temp.toNat).rdI (acqB a) R.CAL_TEMP_TEMP_REF =
      s.rdI (acqB a) R.CAL_TEMP_TEMP_REF := State.rdI_congr (State.rd_wr_of_apart s _ _ (by decide) (by decide))
  simp only [execCalTempRead, h, Bool.not_true, Bool.false_eq_true, if_false, hdelta, href,
    sx_toNat (by decide : 0 < 16)]

theorem rd_tempNow (b : Nat) (temp : BitVec 16) (s : State) :
    (s.wr b R.CAL_TEMP_TEMP_NOW temp.toNat).rd b R.CAL_TEMP_TEMP_NOW = temp.toNat :=
  (State.rd_wr_same s _ _ _ (by decide)).trans (Nat.mod_eq_of_lt temp.isLt)

/-- The temperature that is shown does not bear on whether a cause acts. -/
theorem CauseActs.tempRead {a c : Nat} {s : State} (h : CauseActs a c s) (temp : Nat) :
    CauseActs a c (s.wr (acqB a) R.CAL_TEMP_TEMP_NOW temp) where
  enabled := by rw [State.acqSt_wr]; exact h.enabled
  mode := by
    rw [State.calMode_congr (State.rd_wr_of_apart s _ _ (by decide) (by decide))]
    exact h.mode
  live := by
    rw [State.acqSt_wr, State.on, State.rd_wr_of_apart _ _ _ (by decide) (by decide)]
    exact h.live

theorem execCalIntervalExpire_expires {a : ADie} {s : State} (hmax : s.rd (acqB a) R.CAL_LIMITS_MAX_INTERVAL ≠ 0)
    (honce : (s.acqSt a).ranOnce = true) : execCalIntervalExpire a s = .next (calCause a 2 s) := by
  rw [execCalIntervalExpire, if_pos ⟨hmax, honce⟩]

theorem execCalCmdRun_present {a : ADie} {s : State} (h : s.hasA a = true) :
    execCalCmdRun a s = .next (calCause a 4 s) := by
  rw [execCalCmdRun, if_pos h, calCmdRun]

/-- A step that STAT_TIMEOUT has passed for: it lacks sub-windows, or its window is behind it (R14, R59). -/
theorem execCalStatTimeout_counts {a : ADie} {s : State} (hstep : (s.acqSt a).step ≠ .none)
    (htimeout : s.rd (acqB a) R.CAL_LIMITS_STAT_TIMEOUT ≠ 0) (hdone : (s.acqSt a).doneAt ≠ some s.time.frc)
    (hdue : (s.acqSt a).step = .idle ∨ (s.acqSt a).windowDone = true ∨ (s.acqSt a).subs.length < 64) :
    execCalStatTimeout a s = .next ((s.inc (acqB a) R.CAL_TIMEOUT_COUNT_TIMEOUTS).raise (84 + a) (s.acqSt a).slot) := by
  have hlacks : ((s.acqSt a).step != .idle && !(s.acqSt a).windowDone && decide (64 ≤ (s.acqSt a).subs.length)) =
      false := by
    rcases hdue with h | h | h
    · simp [h]
    · simp [h]
    · simp [Nat.not_le.mpr h]
  simp only [execCalStatTimeout, hlacks]
  exact if_pos ⟨hstep, htimeout, trivial, hdone⟩

/-! ABORT (R65). -/

theorem execCalCmdAbort_present {a : ADie} {s : State} (h : s.hasA a = true) :
    execCalCmdAbort a s = .next (calCmdAbort a s) := by
  rw [execCalCmdAbort, if_pos h]

/-- RERUN has cleared, and a run in progress is to end. -/
def abortMarked (a : Nat) (s : State) : State :=
  (s.modAcq a fun q => { q with abort := decide (q.phase = .run), rerunCause := .none }).wr (acqB a)
    R.CAL_STATE_RERUN 0

theorem acqSt_abortMarked (a : Nat) (s : State) : (abortMarked a s).acqSt a =
    { s.acqSt a with abort := decide ((s.acqSt a).phase = .run), rerunCause := .none } := by
  rw [abortMarked, State.acqSt_wr, State.acqSt_modAcq]

theorem calCmdAbort_between {a : Nat} {s : State} (hphase : (s.acqSt a).phase = .run)
    (hstep : (s.acqSt a).step = .none) :
    calCmdAbort a s = (((abortMarked a s).modAcq a fun q => q.ended ((abortMarked a s).calHold a) none).wr (acqB a)
      R.CAL_STATE_RERUN 0).calShow a := by
  have hnone : waitingCause a ((abortMarked a s).acqSt a).rerunCause (abortMarked a s) = none := by
    rw [acqSt_abortMarked]
    rfl
  rw [← runOver_idle hnone, calCmdAbort]
  exact if_pos ⟨hphase, hstep⟩

theorem calCmdAbort_within {a : Nat} {s : State} (h : ¬ ((s.acqSt a).phase = .run ∧ (s.acqSt a).step = .none)) :
    calCmdAbort a s = abortMarked a s := by
  rw [calCmdAbort]
  exact if_neg h

theorem calCmdAbort_rerun (a : Nat) (s : State) :
    ((calCmdAbort a s).acqSt a).rerunCause = none ∧ (calCmdAbort a s).rd (acqB a) R.CAL_STATE_RERUN = 0 := by
  by_cases h : (s.acqSt a).phase = .run ∧ (s.acqSt a).step = .none
  · rw [calCmdAbort_between h.1 h.2, State.acqSt_calShow, State.acqSt_wr, State.acqSt_modAcq]
    refine ⟨ite_self none, ?_⟩
    simp (disch := decide) only [State.calShow, State.rd_wr_of_apart, State.rd_wr_same, Nat.zero_mod]
  · rw [calCmdAbort_within h, acqSt_abortMarked]
    exact ⟨rfl, State.rd_wr_same _ _ _ _ (by decide)⟩

theorem calCmdAbort_runs (a : Nat) (s : State) :
    (calCmdAbort a s).rd (acqB a) R.CAL_RUN_COUNT_RUNS = s.rd (acqB a) R.CAL_RUN_COUNT_RUNS := by
  have hmarked : (abortMarked a s).rd (acqB a) R.CAL_RUN_COUNT_RUNS = s.rd (acqB a) R.CAL_RUN_COUNT_RUNS := by
    rw [abortMarked, State.rd_wr_of_apart _ _ _ (by decide) (by decide), State.rd_modAcq]
  rw [← hmarked, calCmdAbort]
  split
  · exact rd_runOver (Fld.clearOf_same (by decide)) _
  · rfl

/-! The skew of a shared signal (R69 to R71). -/

/-- The state in which the result of a measurement is shown. -/
def xskewEnded (s : State) : State := s.modAcq 0 fun q => { q with xskew := .none }

/-- The measurement has failed (R70). -/
def xskewFailed (s : State) : State :=
  (xskewEnded s).wrs (acqB 0) [(R.XSKEW_RESULT_VALID, 0), (R.XSKEW_RESULT_FAIL, 1)]

/-- The measurement has found `steps`. -/
def xskewFound (steps : Int) (s : State) : State :=
  (xskewEnded s).wrs (acqB 0) [(R.XSKEW_RESULT_SKEW, enc 24 steps), (R.XSKEW_RESULT_VALID, 1),
    (R.XSKEW_RESULT_FAIL, 0)]

/-- A measurement whose peak `peak` fails (R70): it is below half the ideal one, or at an end of the search. -/
def xskewFails (peak : Int × Rat × Rat) : Prop :=
  4 * peak.2.1 < peak.2.2 ∨ peak.2.1 = 0 ∨ peak.1.natAbs = 64

/-- APPLY adds a valid result to A1's board delay (R71). -/
def xskewApplied (steps : Int) (s : State) : State :=
  if s.on (acqB 0) R.XSKEW_CTRL_APPLY then
    delayTotal 1 (s.wr (acqB 1) R.ACQ_DELAY_BOARD_DELAY (boardSum (s.rdI (acqB 1) R.ACQ_DELAY_BOARD_DELAY) steps))
  else s

/-- The answer once both streams have given their samples: it depends on the peak alone. -/
theorem execXskewComplete_there {j : Nat} {s : State} (hj : (s.acqSt 0).xskew = some j)
    (h0 : j + 2 ^ 24 ≤ s.streamHead 0) (h1 : j + 2 ^ 24 + 64 ≤ s.streamHead 1) :
    (xskewFails (xskewPeak s j) → execXskewComplete s = .next (xskewFailed s)) ∧
    (¬ xskewFails (xskewPeak s j) → execXskewComplete s = .next
      (xskewApplied (xskewSteps j (xskewPeak s j).1) (xskewFound (xskewSteps j (xskewPeak s j).1) s))) := by
  have hthere : ¬ (s.streamHead 0 < j + 2 ^ 24 ∨ s.streamHead 1 < j + 2 ^ 24 + 64) := by omega
  unfold execXskewComplete
  split
  next hnone =>
    rw [hj] at hnone
    contradiction
  next k hk =>
    obtain rfl : j = k := Option.some.inj (hj.symm.trans hk)
    generalize xskewPeak s j = peak
    obtain ⟨d, p, ideal⟩ := peak
    exact ⟨fun hpeak => (if_neg hthere).trans (if_pos hpeak), fun hpeak => (if_neg hthere).trans (if_neg hpeak)⟩

theorem rd_xskewFailed (s : State) : (xskewFailed s).rd (acqB 0) R.XSKEW_RESULT_VALID = 0 ∧
    (xskewFailed s).rd (acqB 0) R.XSKEW_RESULT_FAIL = 1 := by
  constructor <;>
  · simp (disch := decide) only [xskewFailed, State.wrs, State.rd_wr_of_apart, State.rd_wr_same]
    rfl

theorem rd_xskewFound (steps : Int) (s : State) :
    (xskewFound steps s).rd (acqB 0) R.XSKEW_RESULT_VALID = 1 ∧
      (xskewFound steps s).rd (acqB 0) R.XSKEW_RESULT_FAIL = 0 ∧
      (xskewFound steps s).rd (acqB 0) R.XSKEW_RESULT_SKEW = enc 24 steps := by
  refine ⟨?_, ?_, ?_⟩
  · simp (disch := decide) only [xskewFound, State.wrs, State.rd_wr_of_apart, State.rd_wr_same]
    rfl
  · simp (disch := decide) only [xskewFound, State.wrs, State.rd_wr_same, Nat.zero_mod]
  · simp (disch := decide) only [xskewFound, State.wrs, State.rd_wr_of_apart, State.rd_wr_same]
    rw [enc_eq_toNat]
    exact Nat.mod_eq_of_lt (BitVec.isLt _)

/-- The registers of A0 and the delay of A1's board do not change with the other writes. -/
theorem rd_xskewApplied (f : Fld) (hf : f.off < 0x100000) (steps : Int) (s : State) :
    (xskewApplied steps s).rd (acqB 0) f = s.rd (acqB 0) f := by
  have hother : ∀ g : Fld, acqB 0 + f.off ≠ acqB 1 + g.off := fun g => by
    simp only [acqB]
    omega
  rw [xskewApplied]
  split
  · rw [delayTotal, State.wrI, State.rd_wr_other _ _ _ _ _ _ (hother _), State.rd_wr_other _ _ _ _ _ _ (hother _)]
  · rfl

theorem acqSt_xskewApplied (steps : Int) (s : State) (a : Nat) : (xskewApplied steps s).acqSt a = s.acqSt a := by
  rw [xskewApplied]
  split
  · rw [delayTotal, State.acqSt_wrI, State.acqSt_wr]
  · rfl

theorem boardSum_lt (b d : Int) : boardSum b d < 2 ^ 24 := by
  rw [boardSum]
  split
  · rw [enc_eq_toNat]
    exact BitVec.isLt _
  · exact Nat.mod_lt _ (by decide)

/-- The delay of A1's board after a valid result that is applied. -/
theorem xskewApplied_board {steps : Int} {s : State} (h : s.on (acqB 0) R.XSKEW_CTRL_APPLY = true) :
    (xskewApplied steps s).rd (acqB 1) R.ACQ_DELAY_BOARD_DELAY =
      boardSum (s.rdI (acqB 1) R.ACQ_DELAY_BOARD_DELAY) steps := by
  rw [xskewApplied, if_pos h, delayTotal, State.wrI, State.rd_wr_of_apart _ _ _ (by decide) (by decide),
    State.rd_wr_same _ _ _ _ (by decide)]
  exact Nat.mod_eq_of_lt (boardSum_lt _ _)

theorem acqSt_xskewEnded (s : State) : ((xskewEnded s).acqSt 0).xskew = none := by
  rw [xskewEnded, State.acqSt_modAcq]

/-- A result leaves APPLY, and A1's registers, as they were. -/
theorem rd_xskewFound_other (steps : Int) (s : State) :
    (xskewFound steps s).rd (acqB 0) R.XSKEW_CTRL_APPLY = s.rd (acqB 0) R.XSKEW_CTRL_APPLY ∧
      (xskewFound steps s).rd (acqB 1) R.ACQ_DELAY_BOARD_DELAY = s.rd (acqB 1) R.ACQ_DELAY_BOARD_DELAY := by
  have hother : ∀ g : Fld, g.off < 0x100000 → acqB 1 + R.ACQ_DELAY_BOARD_DELAY.off ≠ acqB 0 + g.off := fun g hg => by
    simp only [acqB]
    omega
  constructor
  · simp (disch := decide) only [xskewFound, xskewEnded, State.wrs, State.rd_wr_of_apart, State.rd_modAcq]
  · simp only [xskewFound, xskewEnded, State.wrs]
    rw [State.rd_wr_other _ _ _ _ _ _ (hother _ (by decide)), State.rd_wr_other _ _ _ _ _ _ (hother _ (by decide)),
      State.rd_wr_other _ _ _ _ _ _ (hother _ (by decide)), State.rd_modAcq]

/-! A write of CAL_CTRL (R64, R65). -/

/-- A change of MODE from `old` acts as R65 states. -/
def calModeChanged (a old : Nat) (s : State) : State :=
  if (s.acqSt a).enabled && s.calMode a != min 2 old then
    (if s.calMode a = 0 then calOff a s else if min 2 old = 0 then calOn a s else s)
  else s

/-- The causes that arose in HOLD act once it is clear (R64). -/
def calResumed (a : Nat) (s : State) : State :=
  if !s.calHold a && decide ((s.acqSt a).phase = .idle) && decide ((s.acqSt a).step = .none) then
    match waitingCause a (s.acqSt a).rerunCause s with
    | some c =>
      startRun a c ((s.modAcq a fun q => { q with rerunCause := .none }).wr (acqB a) R.CAL_STATE_RERUN 0)
    | .none => s.calShow a
  else s.calShow a

theorem calCtrlWritten_eq (a old : Nat) (s : State) : calCtrlWritten a old s = calResumed a (calModeChanged a old s) :=
  rfl

theorem calResumed_busy {a : Nat} {s : State} (h : (s.acqSt a).phase ≠ .idle) : calResumed a s = s.calShow a := by
  simp [calResumed, h]

theorem calResumed_quiet {a : Nat} {s : State} (h : waitingCause a (s.acqSt a).rerunCause s = none) :
    calResumed a s = s.calShow a := by
  rw [calResumed, h]
  exact ite_self _

section
variable {a : Nat} {mode : BitVec 2} {s : State}

theorem execCalModeWrite_present {a : ADie} (h : s.hasA a = true) : execCalModeWrite a mode s = .next
    (calCtrlWritten a (s.rd (acqB a) R.CAL_CTRL_MODE) (s.wr (acqB a) R.CAL_CTRL_MODE mode.toNat)) := by
  rw [execCalModeWrite, if_pos h]

theorem rd_calMode (a : Nat) (mode : BitVec 2) (s : State) :
    (s.wr (acqB a) R.CAL_CTRL_MODE mode.toNat).rd (acqB a) R.CAL_CTRL_MODE = mode.toNat :=
  (State.rd_wr_same s _ _ _ (by decide)).trans (Nat.mod_eq_of_lt mode.isLt)

theorem calMode_written (a : Nat) (mode : BitVec 2) (s : State) :
    (s.wr (acqB a) R.CAL_CTRL_MODE mode.toNat).calMode a = min 2 mode.toNat := by
  rw [State.calMode, rd_calMode]

/-- A change to OFF. -/
theorem calModeChanged_off {s : State} {old : Nat} (henabled : (s.acqSt a).enabled = true)
    (hmode : s.calMode a = 0) (hold : min 2 old ≠ 0) : calModeChanged a old s = calOff a s := by
  simp [calModeChanged, henabled, hmode, hold.symm]

/-- A change from OFF. -/
theorem calModeChanged_on {s : State} {old : Nat} (henabled : (s.acqSt a).enabled = true)
    (hmode : s.calMode a ≠ 0) (hold : min 2 old = 0) : calModeChanged a old s = calOn a s := by
  simp [calModeChanged, henabled, hmode, hold]

/-- A change between VERIFY and AUTO. -/
theorem calModeChanged_between {s : State} {old : Nat} (hmode : s.calMode a ≠ 0) (hold : min 2 old ≠ 0) :
    calModeChanged a old s = s := by
  rw [calModeChanged, if_neg hmode, if_neg hold, ite_self]

/-- An enable under VERIFY: IDLE. -/
theorem calOn_verify {a : Nat} {s : State} (h : s.calMode a = 1) : calOn a s = enterIdle a s := by
  simp only [calOn, h]

/-- An enable under AUTO with a spare, and out of HOLD: a run with cause START. -/
theorem calOn_auto {a : Nat} {s : State} (hmode : s.calMode a = 2) (henabled : (s.acqSt a).enabled = true)
    (hfrozen : (s.acqSt a).frozen = false) (hhold : s.calHold a = false) :
    calOn a s = startRun a 0 (enterIdle a s) := by
  have hacts : CauseActs a 0 (enterIdle a s) := {
    enabled := by rw [acqSt_enterIdle]; exact henabled
    mode := .inl ((State.calMode_congr (rd_enterIdle (Fld.clearOf_same (by decide)) s)).trans hmode)
    live := .inl (by rw [acqSt_enterIdle]; exact hfrozen) }
  have hhold' : (enterIdle a s).calHold a = false :=
    (State.calHold_congr (rd_enterIdle (Fld.clearOf_same (by decide)) s)).trans hhold
  rw [calOn, hmode]
  exact hacts.start (by simp [acqSt_enterIdle]) (by rw [acqSt_enterIdle]) hhold'

theorem calHold_written (a : Nat) (mode : BitVec 2) (s : State) :
    (s.wr (acqB a) R.CAL_CTRL_MODE mode.toNat).calHold a = s.calHold a :=
  State.calHold_congr (State.rd_wr_of_apart s _ _ (by decide) (by decide))

end

/-! What a write of CAL_CTRL leaves, with `old` the MODE before it. -/

section
variable {a old : Nat} {s : State}

theorem calCtrlWritten_off (henabled : (s.acqSt a).enabled = true) (hmode : s.calMode a = 0) (hold : min 2 old ≠ 0) :
    calCtrlWritten a old s = (calOff a s).calShow a := by
  rw [calCtrlWritten_eq, calModeChanged_off henabled hmode hold]
  exact calResumed_busy (by simp [acqSt_calOff])

theorem calCtrlWritten_verify (henabled : (s.acqSt a).enabled = true) (hmode : s.calMode a = 1)
    (hold : min 2 old = 0) (hcause : (s.acqSt a).rerunCause ≠ some 4) :
    calCtrlWritten a old s = (enterIdle a s).calShow a := by
  have hmode' : (enterIdle a s).calMode a = 1 :=
    (State.calMode_congr (rd_enterIdle (Fld.clearOf_same (by decide)) s)).trans hmode
  rw [calCtrlWritten_eq, calModeChanged_on henabled (by omega) hold, calOn_verify hmode]
  apply calResumed_quiet
  rw [acqSt_enterIdle, waitingCause, hmode', Option.filter_eq_none_iff]
  intro c hc
  have hne : c ≠ 4 := fun h => hcause (hc.trans (congrArg some h))
  simp [hne]

theorem calCtrlWritten_auto (henabled : (s.acqSt a).enabled = true) (hmode : s.calMode a = 2)
    (hold : min 2 old = 0) (hfrozen : (s.acqSt a).frozen = false) (hhold : s.calHold a = false) :
    calCtrlWritten a old s = (startRun a 0 (enterIdle a s)).calShow a := by
  rw [calCtrlWritten_eq, calModeChanged_on henabled (by omega) hold, calOn_auto hmode henabled hfrozen hhold]
  exact calResumed_busy (by simp [acqSt_startRun])

theorem calCtrlWritten_run (hmode : s.calMode a ≠ 0) (hold : min 2 old ≠ 0) (hphase : (s.acqSt a).phase = .run) :
    calCtrlWritten a old s = s.calShow a := by
  rw [calCtrlWritten_eq, calModeChanged_between hmode hold]
  exact calResumed_busy (by simp [hphase])

end

/-! The statement. -/

/-- Settles O17: each row's answer is the end of a run, a cause that acts, or the writes of a command. -/
theorem calRunRowsComplete : Obligations.CalRunRowsComplete := by
  unfold Obligations.CalRunRowsComplete
  refine ⟨fun a s hphase hstep hlen => ?_, fun a temp s hdie => ?_, fun a s hmax honce henabled hmode hfrozen => ?_,
    fun a s hstep htimeout hdone hdue => ?_, fun a s hdie henabled hmode hlive => ?_, fun a s hdie => ?_,
    fun a s => ?_, fun j s hj h0 h1 => ?_, fun a mode s hdie => ?_⟩
  · obtain ⟨phase, runSteps, nextSlot, rerunCause, hrecord⟩ := acqSt_runOver a (runCounted a s)
    rw [← runOver_true] at hrecord
    refine ⟨_, execCalRunComplete_counts hphase hstep hlen, runOver_runs a s, runOver_uncal a s, by rw [hrecord],
      by rw [hrecord], acqSt_runOver_idle, fun c hc hauto hhold => ?_⟩
    rw [runOver_true_again hc hauto hhold, acqSt_startRun]
    refine ⟨rfl, rfl, rd_startRun_cause _ _ _, State.on_of_rd_zero ?_⟩
    rw [rd_startRun_rerun, State.rd_wr_same _ _ _ _ (by decide), Nat.zero_mod]
  · refine ⟨_, execCalTempRead_reads hdie temp, ?_, fun hnear => ?_,
      fun hfar henabled hmode hfrozen hphase hstep hhold => ?_⟩
    · split
      · rw [rd_calCause (Fld.clearOf_same (by decide)), rd_tempNow]
      · exact rd_tempNow _ temp s
    · rw [if_neg (Nat.not_lt.mpr hnear), State.acqSt_wr]
    · have hacts := CauseActs.tempRead (c := 1) ⟨henabled, .inl hmode, .inl hfrozen⟩ temp.toNat
      have hhold' := (State.calHold_congr (State.rd_wr_of_apart s (acqB a) temp.toNat
        (f := R.CAL_TEMP_TEMP_NOW) (g := R.CAL_CTRL_HOLD) (by decide) (by decide))).trans hhold
      rw [if_pos hfar]
      exact hacts.cases.1 (by rwa [State.acqSt_wr]) (by rwa [State.acqSt_wr]) hhold'
  · have hacts : CauseActs a 2 s := ⟨henabled, .inl hmode, .inl hfrozen⟩
    exact ⟨_, execCalIntervalExpire_expires hmax honce, hacts.cases⟩
  · refine ⟨_, execCalStatTimeout_counts hstep htimeout hdone hdue, ?_, ?_, ?_⟩
    · rw [State.raise_flight_map, State.inc_flight]
    · rw [State.rd_raise, State.rd_inc_same _ _ _ _ (by decide)]
    · rw [State.acqSt_raise, State.acqSt_inc]
  · have hmodes : s.calMode a = 2 ∨ (s.calMode a = 1 ∧ 4 = 4) := by
      have hle : s.calMode a ≤ 2 := Nat.min_le_left _ _
      omega
    have hacts : CauseActs a 4 s := ⟨henabled, hmodes, hlive⟩
    exact ⟨_, execCalCmdRun_present hdie, hacts.cases⟩
  · obtain ⟨hcause, hrerun⟩ := calCmdAbort_rerun a s
    refine ⟨_, execCalCmdAbort_present hdie, hcause, State.on_of_rd_zero hrerun, fun hphase hstep => ?_,
      fun hphase hstep => ⟨?_, calCmdAbort_runs a s⟩⟩
    · rw [calCmdAbort_within fun h => hstep h.2, acqSt_abortMarked]
      exact ⟨decide_eq_true hphase, rfl, hphase⟩
    · rw [calCmdAbort_between hphase hstep, State.acqSt_calShow, State.acqSt_wr, State.acqSt_modAcq]
      rfl
  · refine ⟨_, rfl, fun hpart ha => ?_, fun hpart ha => ?_, fun hother => ?_⟩
    · subst ha
      simp [calCmdXskew, hpart]
    · subst ha
      apply State.on_of_rd_one
      simp only [calCmdXskew, hpart]
      exact State.rd_wr_same s _ _ 1 (by decide)
    · have hkept : calCmdXskew a s = s := by
        rcases hother with rfl | hpart
        · cases hpart : s.part <;> simp [calCmdXskew, hpart]
        · simp [calCmdXskew, hpart]
      rw [hkept]
      exact ⟨rfl, rfl⟩
  · obtain ⟨hfailed, hfound⟩ := execXskewComplete_there hj h0 h1
    by_cases hpeak : xskewFails (xskewPeak s j)
    · obtain ⟨hvalid, hfail⟩ := rd_xskewFailed s
      refine ⟨_, hfailed hpeak, ?_, fun _ => ⟨State.on_of_rd_zero hvalid, State.on_of_rd_one hfail⟩,
        fun hno => absurd hpeak hno⟩
      rw [xskewFailed, State.acqSt_wrs, acqSt_xskewEnded]
    · obtain ⟨hvalid, hfail, hskew⟩ := rd_xskewFound (xskewSteps j (xskewPeak s j).1) s
      obtain ⟨happly, hboard⟩ := rd_xskewFound_other (xskewSteps j (xskewPeak s j).1) s
      refine ⟨_, hfound hpeak, ?_, fun hyes => absurd hyes hpeak, fun _ => ⟨State.on_of_rd_one ?_,
        State.on_of_rd_zero ?_, ?_, fun hon => ?_⟩⟩
      · rw [acqSt_xskewApplied, xskewFound, State.acqSt_wrs, acqSt_xskewEnded]
      · rw [rd_xskewApplied _ (by decide), hvalid]
      · rw [rd_xskewApplied _ (by decide), hfail]
      · rw [rd_xskewApplied _ (by decide), hskew]
      · rw [← State.rdI_congr hboard]
        refine xskewApplied_board ?_
        rw [State.on, happly]
        exact hon
  · have hrecord : (s.wr (acqB a) R.CAL_CTRL_MODE mode.toNat).acqSt a = s.acqSt a := State.acqSt_wr s a _ _ _
    refine ⟨_, execCalModeWrite_present hdie, ?_, fun henabled hmode hold => ?_,
      fun henabled hmode hold hcause => ?_, fun henabled hmode hold hfrozen hhold => ?_, fun hold hmode hphase => ?_⟩
    · rw [rd_calCtrlWritten (Fld.clearOf_same (by decide)), rd_calMode]
    · rw [calCtrlWritten_off (by rw [hrecord, henabled]) (by rw [calMode_written, hmode]; rfl) hold,
        State.acqSt_calShow, acqSt_calOff]
      exact ⟨rfl, rfl⟩
    · rw [calCtrlWritten_verify (by rw [hrecord, henabled]) (by rw [calMode_written, hmode]; rfl) hold
        (by rw [hrecord]; exact hcause), State.acqSt_calShow, acqSt_enterIdle]
      exact ⟨rfl, rfl⟩
    · rw [calCtrlWritten_auto (by rw [hrecord, henabled]) (by rw [calMode_written, Nat.min_eq_left hmode]) hold
        (by rw [hrecord, hfrozen]) (by rw [calHold_written, hhold]), State.acqSt_calShow, acqSt_startRun,
        State.calShow, State.rd_wr_of_apart _ _ _ (by decide) (by decide)]
      exact ⟨rfl, rd_startRun_cause _ _ _⟩
    · have hmode' : mode.toNat ≠ 0 := fun h => hmode (BitVec.eq_of_toNat_eq h)
      rw [calCtrlWritten_run (by rw [calMode_written]; omega) hold (by rw [hrecord, hphase]), State.acqSt_calShow,
        hrecord]
      exact ⟨hphase, rfl⟩

end Sys2Proof.Machine
end

section
/-! PROOFS. The trims of the sub-converters (R51, R52), and tables filled by a fold over a list. -/

namespace Sys2Proof.Machine

/-! Folds. -/

/-- What a fold leaves of the item `n`, where a step sets its own item and keeps the others. -/
theorem foldl_sets {σ β γ : Type} {f : σ → β → σ} (obs : σ → β → γ) (val : β → γ)
    (hsame : ∀ s n, obs (f s n) n = val n) (hother : ∀ s m n, n ≠ m → obs (f s m) n = obs s n) (xs : List β) (s : σ)
    {n : β} (hn : n ∈ xs) : obs (xs.foldl f s) n = val n := by
  induction xs using List.reverseRecOn with
  | nil => simp at hn
  | append_singleton xs x ih =>
    rw [List.foldl_append, List.foldl_cons, List.foldl_nil]
    by_cases hx : n = x
    · rw [hx]
      exact hsame _ x
    · rw [hother _ _ _ hx]
      exact ih (by simpa [hx] using hn)

/-- An entry of a table that takes the items of a list in turn, each at a place of its own. -/
theorem tget_foldl_zipIdx {α β : Type} [DecidableEq α] (d : Nat → α) {key : Nat → Nat} (hkey : key.Injective)
    (val : β → α) (xs : List β) (m : Tbl α) {k : Nat} (hk : k < xs.length) :
    tget d (xs.zipIdx.foldl (fun m x => tset d m (key x.2) (val x.1)) m) (key k) = val xs[k] := by
  induction xs using List.reverseRecOn with
  | nil => simp at hk
  | append_singleton xs x ih =>
    simp only [List.zipIdx_append, List.foldl_append, List.zipIdx_singleton, List.foldl_cons, List.foldl_nil, zero_add]
    by_cases hlast : k = xs.length
    · subst hlast
      simp [tget_tset_same]
    · have hin : k < xs.length := by
        rw [List.length_append, List.length_singleton] at hk
        omega
      rw [tget_tset_other _ _ _ _ _ (hkey.ne hlast), ih hin, List.getElem_append_left hin]

/-! One trim. -/

theorem trimFld_cases (i : Nat) : trimFld i = trimFld 0 ∨ trimFld i = trimFld 1 ∨ trimFld i = trimFld 2 :=
  match i with
  | 0 => .inl rfl
  | 1 => .inr (.inl rfl)
  | _ + 2 => .inr (.inr rfl)

/-- A trim register holds the whole range of its trim. -/
theorem trimFld_fits (i : Nat) : (trimFld i).1.lo + (trimFld i).1.w ≤ 32 ∧ 0 < (trimFld i).1.w ∧
    -(2 ^ (trimFld i).1.w : Nat) ≤ (trimFld i).2.1 * 2 ∧ (trimFld i).2.2 * 2 < (2 ^ (trimFld i).1.w : Nat) ∧
    (trimFld i).2.1 ≤ (trimFld i).2.2 := by
  rcases trimFld_cases i with h | h | h <;> rw [h] <;> decide

/-- It lies in the row of its sub-converter. -/
theorem trimFld_row (i : Nat) : (trimFld i).1.off / 16 = 0x100 := by
  rcases trimFld_cases i with h | h | h <;> rw [h] <;> decide

theorem trimFld_off_ge (i : Nat) : 0x1000 ≤ (trimFld i).1.off := by
  have hrow := trimFld_row i
  omega

theorem trimFld_off_ne_state (i : Nat) : (trimFld i).1.off ≠ R.SC_n_STATE_LIMIT.off := by
  rcases trimFld_cases i with h | h | h <;> rw [h] <;> decide

theorem clampI_mem {lo hi : Int} (h : lo ≤ hi) (v : Int) : lo ≤ clampI lo hi v ∧ clampI lo hi v ≤ hi := by
  unfold clampI
  split_ifs <;> omega

theorem State.trim_congr {s t : State} {a n i : Nat}
    (h : t.rd (scB a n) (trimFld i).1 = s.rd (scB a n) (trimFld i).1) : t.trim a n i = s.trim a n i := by
  rw [State.trim, State.trim, State.rdI, State.rdI, h]

/-- What the calibration writes when it sets a trim. -/
theorem rd_setTrim {a n i c : Nat} {g : Fld} (hsc : g.clearOf [(trimFld i).1, R.SC_n_STATE_LIMIT] (scB a n) c)
    (hacq : g.clearOf [R.ACQ_STATUS_LIMIT] (acqB a) c) (v : Int) (s : State) :
    (setTrim a n i v s).rd c g = s.rd c g := by
  have htrim : ∀ u : State, (u.wr (scB a n) (trimFld i).1 (enc (trimFld i).1.w
      (clampI (trimFld i).2.1 (trimFld i).2.2 v))).rd c g = u.rd c g := fun u =>
    State.rd_wr_clear hsc (by simp) (trimFld_fits i).1 u _
  simp only [setTrim, showLimit, State.wrI]
  split
  · rw [State.rd_wr_clear hacq (by simp) (by decide), State.rd_wr_clear hsc (by simp) (by decide), htrim]
  · rw [State.rd_wr_clear hsc (by simp) (by decide), htrim]

theorem acqSt_setTrim (a n i b : Nat) (v : Int) (s : State) : (setTrim a n i v s).acqSt b = s.acqSt b := by
  simp only [setTrim, showLimit]
  split <;> simp only [State.acqSt_wr, State.acqSt_wrI]

theorem trim_setTrim_same (a n i : Nat) (v : Int) (s : State) :
    (setTrim a n i v s).trim a n i = clampI (trimFld i).2.1 (trimFld i).2.2 v := by
  obtain ⟨hfit, hpos, hlo, hhi, hrange⟩ := trimFld_fits i
  have hstate := trimFld_off_ne_state i
  obtain ⟨hmin, hmax⟩ := clampI_mem hrange v
  have hheld := State.rdI_wrI_same s (scB a n) (trimFld i).1 (clampI (trimFld i).2.1 (trimFld i).2.2 v) hfit hpos
    (by omega) (by omega)
  have hshow : (showLimit a n (s.wrI (scB a n) (trimFld i).1 (clampI (trimFld i).2.1 (trimFld i).2.2 v))).rdI
      (scB a n) (trimFld i).1 = clampI (trimFld i).2.1 (trimFld i).2.2 v := by
    refine (State.rdI_congr ?_).trans hheld
    exact State.rd_wr_other _ _ _ _ _ _ (by omega)
  have hset : (setTrim a n i v s).rdI (scB a n) (trimFld i).1 = clampI (trimFld i).2.1 (trimFld i).2.2 v := by
    refine (State.rdI_congr ?_).trans hshow
    simp only [setTrim]
    split
    · exact State.rd_sc_wr _ _ _ _ (by decide) (trimFld_off_ge i)
    · rfl
  rw [State.trim, hset, max_eq_right hmin]

theorem trim_setTrim_other {a m n i k : Nat} (h : m ≠ n ∨ (trimFld k).1.off ≠ (trimFld i).1.off) (v : Int)
    (s : State) : (setTrim a n i v s).trim a m k = s.trim a m k := by
  have hrow := trimFld_row i
  have hrow' := trimFld_row k
  have hstate := trimFld_off_ne_state k
  have hlimit : R.SC_n_STATE_LIMIT.off = 0x100C := rfl
  refine State.trim_congr (rd_setTrim (fun f hf => .inl ?_) (fun f hf => .inl ?_) v s)
  · simp only [List.mem_cons, List.not_mem_nil, or_false] at hf
    simp only [scB]
    rcases hf with rfl | rfl <;> omega
  · have hf' : f.off < 0x1000 := by
      rw [List.mem_singleton.mp hf]
      decide
    rw [scB]
    omega

/-- A trim depends on no register of its die that is no sub-converter's. -/
theorem trim_wr_acq {f : Fld} (hf : f.off < 0x1000) (a n i v : Nat) (s : State) :
    (s.wr (acqB a) f v).trim a n i = s.trim a n i :=
  State.trim_congr (State.rd_sc_wr _ _ _ _ hf (trimFld_off_ge i))

theorem trim_modAcq (s : State) (a : Nat) (f : AcqSt → AcqSt) (b n i : Nat) :
    (s.modAcq a f).trim b n i = s.trim b n i :=
  State.trim_congr (State.rd_modAcq ..)

/-! The three trims of a sub-converter. -/

/-- The three trims of sub-converter `n` are set. -/
def setTrims (a n : Nat) (v : Int × Int × Int) (s : State) : State :=
  setTrim a n 2 v.2.2 (setTrim a n 1 v.2.1 (setTrim a n 0 v.1 s))

theorem moveTrims_eq (a n : Nat) (d : Int × Int × Int) (s : State) :
    moveTrims a n d s = setTrims a n (s.trim a n 0 + d.1, s.trim a n 1 + d.2.1, s.trim a n 2 + d.2.2) s := rfl

theorem trim_setTrims_same (a n : Nat) (v : Int × Int × Int) (s : State) :
    (setTrims a n v s).trim a n 0 = clampI (-512) 511 v.1 ∧
      (setTrims a n v s).trim a n 1 = clampI (-512) 511 v.2.1 ∧
      (setTrims a n v s).trim a n 2 = clampI (-63) 63 v.2.2 := by
  refine ⟨?_, ?_, trim_setTrim_same _ _ 2 _ _⟩
  · rw [setTrims, trim_setTrim_other (.inr (by decide)), trim_setTrim_other (.inr (by decide))]
    exact trim_setTrim_same _ _ 0 _ _
  · rw [setTrims, trim_setTrim_other (.inr (by decide))]
    exact trim_setTrim_same _ _ 1 _ _

theorem trim_setTrims_other {a m n : Nat} (h : m ≠ n) (v : Int × Int × Int) (s : State) (k : Nat) :
    (setTrims a n v s).trim a m k = s.trim a m k := by
  rw [setTrims, trim_setTrim_other (.inl h), trim_setTrim_other (.inl h), trim_setTrim_other (.inl h)]

theorem acqSt_setTrims (a n b : Nat) (v : Int × Int × Int) (s : State) :
    (setTrims a n v s).acqSt b = s.acqSt b := by
  rw [setTrims, acqSt_setTrim, acqSt_setTrim, acqSt_setTrim]

end Sys2Proof.Machine
end

section
/-! PROOFS. The steps of the blind calibration: what each of them starts, ends and leaves (R44 to R63). -/

namespace Sys2Proof.Machine

/-! The end of a step (R55, R57). -/

/-- The record of a die whose run step or live-trim step is complete. -/
def AcqSt.stepped (q : AcqSt) : AcqSt :=
  { q with
    step := .none, displaced := .none, waiting := false, runSteps := q.runSteps + 1
    nextSlot := if q.frozen then (q.slot + 1) % 64 else q.nextSlot }

theorem acqSt_stepDone (a : Nat) (s : State) :
    ((stepDone a s).acqSt a).step = .none ∧ ((stepDone a s).acqSt a).displaced = none ∧
      ((s.acqSt a).abort = false → (stepDone a s).acqSt a = (s.acqSt a).stepped) := by
  have hstepped : (s.modAcq a AcqSt.stepped).acqSt a = (s.acqSt a).stepped := State.acqSt_modAcq s a _
  by_cases hend : ((s.acqSt a).stepped.abort && decide ((s.acqSt a).stepped.runSteps <
      (s.acqSt a).stepped.runLength)) = true
  · have hover : stepDone a s = runOver a false (s.modAcq a AcqSt.stepped) := by
      rw [← hstepped] at hend
      exact if_pos hend
    obtain ⟨phase, runSteps, nextSlot, rerunCause, hrecord⟩ := acqSt_runOver a (s.modAcq a AcqSt.stepped)
    rw [hover, hrecord, hstepped]
    refine ⟨rfl, rfl, fun habort => ?_⟩
    rw [show (s.acqSt a).stepped.abort = false from habort] at hend
    cases hend
  · have hshow : stepDone a s = (s.modAcq a AcqSt.stepped).calShow a := by
      rw [← hstepped] at hend
      exact if_neg hend
    rw [hshow, State.acqSt_calShow, hstepped]
    exact ⟨rfl, rfl, fun _ => rfl⟩

/-- The record of a die whose idle step has ended. -/
def AcqSt.idled (q : AcqSt) : AcqSt :=
  { q with step := .none, displaced := .none, waiting := false, idleCause := .none }

theorem idleDone_quiet {a : Nat} {s : State} (h : waitingCause a (s.acqSt a).idleCause s = none) :
    idleDone a s = (s.modAcq a AcqSt.idled).calShow a := by
  simp only [idleDone, h]
  rfl

theorem idleDone_hold {a c : Nat} {s : State} (h : waitingCause a (s.acqSt a).idleCause s = some c)
    (hhold : s.calHold a = true) : idleDone a s = (setRerun a c (s.modAcq a AcqSt.idled)).calShow a := by
  have hhold' : (s.modAcq a AcqSt.idled).calHold a = true := (State.calHold_congr (State.rd_modAcq ..)).trans hhold
  simp only [idleDone, h]
  exact if_pos hhold'

theorem idleDone_run {a c : Nat} {s : State} (h : waitingCause a (s.acqSt a).idleCause s = some c)
    (hhold : s.calHold a = false) : idleDone a s = startRun a c (s.modAcq a AcqSt.idled) := by
  have hhold' : (s.modAcq a AcqSt.idled).calHold a = false := (State.calHold_congr (State.rd_modAcq ..)).trans hhold
  simp only [idleDone, h]
  exact if_neg (ne_true_of_eq_false hhold')

/-- What every end of an idle step leaves as it is. -/
theorem acqSt_idleDone (a : Nat) (s : State) :
    ∃ phase runSteps abort nextSlot rerunCause, ((s.acqSt a).frozen = false → nextSlot = (s.acqSt a).nextSlot) ∧
      (idleDone a s).acqSt a = { (s.acqSt a).idled with
        phase := phase, runSteps := runSteps, abort := abort, nextSlot := nextSlot, rerunCause := rerunCause } := by
  cases hcause : waitingCause a (s.acqSt a).idleCause s with
  | none =>
    rw [idleDone_quiet hcause, State.acqSt_calShow, State.acqSt_modAcq]
    exact ⟨_, _, _, _, _, fun _ => rfl, rfl⟩
  | some c =>
    cases hhold : s.calHold a with
    | false =>
      rw [idleDone_run hcause hhold, acqSt_startRun, State.acqSt_modAcq]
      exact ⟨_, _, _, _, _, fun h => if_neg (by simpa [AcqSt.idled] using h), rfl⟩
    | true =>
      rw [idleDone_hold hcause hhold, State.acqSt_calShow, acqSt_setRerun, State.acqSt_modAcq]
      exact ⟨_, _, _, _, _, fun _ => rfl, rfl⟩

/-! The end of the rotation (R56, R61, R63). -/

/-- The fields that show it. -/
def freezeFlds : List Fld := [R.CAL_STATE_SPARE, R.ACQ_STATUS_FROZEN]

/-- What the end of the rotation leaves as it is. -/
theorem acqSt_freeze (a : Nat) (s : State) :
    ∃ phase runSteps nextSlot ranOnce, (freeze a s).acqSt a = { s.acqSt a with
      frozen := true, step := .none, displaced := .none, waiting := false, abort := false
      rerunCause := .none, idleCause := .none
      phase := phase, runSteps := runSteps, nextSlot := nextSlot, ranOnce := ranOnce } := by
  simp only [freeze]
  split
  · split
    · rw [acqSt_startRun, State.acqSt_wrs, State.acqSt_modAcq]
      exact ⟨_, _, _, _, rfl⟩
    · rw [State.acqSt_calShow, State.acqSt_wrs, State.acqSt_modAcq]
      exact ⟨_, _, _, _, rfl⟩
  · rw [State.acqSt_calShow, State.acqSt_wrs, State.acqSt_modAcq]
    exact ⟨_, _, _, _, rfl⟩

/-- The registers at the end of the rotation, before a live-trim run starts. -/
def frozenShown (a : Nat) (s : State) : State :=
  s.wrs (acqB a) [(R.CAL_STATE_RERUN, 0), (R.CAL_STATE_SPARE, 127), (R.ACQ_STATUS_FROZEN, 1)]

theorem rd_freeze_shown {a c : Nat} {g : Fld} (h : g.clearOf runFlds (acqB a) c) (s : State) :
    ∃ f : AcqSt → AcqSt, (freeze a s).rd c g = (frozenShown a (s.modAcq a f)).rd c g := by
  simp only [freeze]
  split
  · split
    · exact ⟨_, rd_startRun h _ _⟩
    · exact ⟨_, State.rd_calShow h _⟩
  · exact ⟨_, State.rd_calShow h _⟩

theorem rd_freeze {a c : Nat} {g : Fld} (hrun : g.clearOf runFlds (acqB a) c)
    (hfreeze : g.clearOf freezeFlds (acqB a) c) (s : State) : (freeze a s).rd c g = s.rd c g := by
  obtain ⟨f, hshown⟩ := rd_freeze_shown hrun s
  simp (disch := decide) only [hshown, frozenShown, State.wrs, State.rd_wr_clear hfreeze, State.rd_wr_run hrun,
    State.rd_modAcq]

theorem freeze_spare (a : Nat) (s : State) : (freeze a s).rd (acqB a) R.CAL_STATE_SPARE = 127 := by
  obtain ⟨f, hshown⟩ := rd_freeze_shown (a := a) (c := acqB a) (g := R.CAL_STATE_SPARE)
    (Fld.clearOf_same (by decide)) s
  rw [hshown]
  simp (disch := decide) only [frozenShown, State.wrs, State.rd_wr_of_apart, State.rd_wr_same]
  rfl

theorem State.calShow_flight (a : Nat) (s : State) : (s.calShow a).flight = s.flight := State.wr_flight s _ _ _

theorem startRun_flight (a c : Nat) (s : State) : (startRun a c s).flight = s.flight := by
  rw [startRun, State.calShow_flight, State.wrs_flight, State.modAcq_flight]

theorem freeze_flight (a : Nat) (s : State) : (freeze a s).flight = s.flight := by
  simp only [freeze]
  split
  · split
    · rw [startRun_flight, State.wrs_flight, State.modAcq_flight]
    · rw [State.calShow_flight, State.wrs_flight, State.modAcq_flight]
  · rw [State.calShow_flight, State.wrs_flight, State.modAcq_flight]

/-- A sub-converter is retired. -/
theorem rd_retire {a n reason : Nat} (hn : n < 128) (hreason : reason < 4) (s : State) :
    (retire a n reason s).rd (scB a n) R.SC_n_STATE_ROLE = 2 ∧
      (retire a n reason s).rd (acqB a) R.CAL_RETIRED_INDEX = n ∧
      (retire a n reason s).rd (acqB a) R.CAL_RETIRED_REASON = reason ∧
      (retire a n reason s).rd (acqB a) R.CAL_STATE_SPARE = 127 := by
  refine ⟨?_, ?_, ?_, freeze_spare a _⟩
  · rw [retire, rd_freeze (clearOf_runFlds_sc (by decide)) (Fld.clearOf_sc (by decide) (by decide)),
      State.rd_wr_same _ _ _ _ (by decide)]
    rfl
  · rw [retire, rd_freeze (Fld.clearOf_same (by decide)) (Fld.clearOf_same (by decide)),
      State.rd_wr_sc _ _ _ _ (by decide) (by decide)]
    simp (disch := decide) only [State.wrs, State.rd_wr_of_apart, State.rd_wr_same]
    exact Nat.mod_eq_of_lt hn
  · rw [retire, rd_freeze (Fld.clearOf_same (by decide)) (Fld.clearOf_same (by decide)),
      State.rd_wr_sc _ _ _ _ (by decide) (by decide)]
    simp (disch := decide) only [State.wrs, State.rd_wr_same]
    exact Nat.mod_eq_of_lt hreason

/-- The role of another sub-converter. -/
theorem rd_retire_other {a m n : Nat} (h : m ≠ n) (reason : Nat) (s : State) :
    (retire a n reason s).rd (scB a m) R.SC_n_STATE_ROLE = s.rd (scB a m) R.SC_n_STATE_ROLE := by
  rw [retire, rd_freeze (clearOf_runFlds_sc (by decide)) (Fld.clearOf_sc (by decide) (by decide)),
    State.rd_wr_sc_other _ _ _ _ _ h (by decide) (by decide)]
  simp (disch := decide) only [State.wrs, State.rd_sc_wr]

theorem acqSt_retire (a n reason : Nat) (s : State) :
    ∃ phase runSteps nextSlot ranOnce, (retire a n reason s).acqSt a = { s.acqSt a with
      frozen := true, step := .none, displaced := .none, waiting := false, abort := false
      rerunCause := .none, idleCause := .none
      phase := phase, runSteps := runSteps, nextSlot := nextSlot, ranOnce := ranOnce } := by
  obtain ⟨phase, runSteps, nextSlot, ranOnce, hrecord⟩ := acqSt_freeze a
    ((s.wrs (acqB a) [(R.CAL_RETIRED_INDEX, n), (R.CAL_RETIRED_REASON, reason)]).wr (scB a n) R.SC_n_STATE_ROLE 2)
  rw [State.acqSt_wr, State.acqSt_wrs] at hrecord
  exact ⟨phase, runSteps, nextSlot, ranOnce, hrecord⟩

theorem retire_flight (a n reason : Nat) (s : State) : (retire a n reason s).flight = s.flight := by
  rw [retire, freeze_flight, State.wr_flight, State.wrs_flight]

/-! Failed sub-converters (R61). -/

/-- Sub-converter `n` has been found failed. -/
def AcqSt.knowsFailed (q : AcqSt) (n : Nat) : Prop := q.failing.any (fun f => f.1 == n) = true ∨ n ∈ q.degraded

theorem acqSt_scFailed (a n j : Nat) (s : State) :
    (∃ more, (scFailed a n j s).acqSt a = { s.acqSt a with failing := (s.acqSt a).failing ++ more }) ∧
      ((scFailed a n j s).acqSt a).knowsFailed n := by
  simp only [scFailed]
  split
  · next hknown =>
    refine ⟨⟨[], by simp⟩, ?_⟩
    simpa [AcqSt.knowsFailed] using hknown
  · split
    · rw [State.acqSt_modAcq]
      exact ⟨⟨_, rfl⟩, .inl (by simp)⟩
    · next hfree =>
      have hempty : (s.acqSt a).failing = [] := by
        simp only [Bool.or_eq_true, not_or, Bool.not_eq_true, Bool.not_eq_false', List.isEmpty_iff] at hfree
        exact hfree.2
      rw [State.acqSt_raise, State.acqSt_modAcq]
      exact ⟨⟨[(n, j)], by rw [hempty]; rfl⟩, .inl (by simp)⟩

theorem rd_scFailed (a n j : Nat) (s : State) (b : Nat) (f : Fld) : (scFailed a n j s).rd b f = s.rd b f := by
  simp only [scFailed]
  split
  · rfl
  · split <;> simp only [State.rd_raise, State.rd_modAcq]

/-- All the sub-converters that `bad` names are found failed in turn. -/
theorem acqSt_scFailed_foldl {β : Type} (a j : Nat) (n : β → Nat) (bad : List β) (s : State) :
    (∃ more, (bad.foldl (fun s k => scFailed a (n k) j s) s).acqSt a =
      { s.acqSt a with failing := (s.acqSt a).failing ++ more }) ∧
    ∀ k ∈ bad, ((bad.foldl (fun s k => scFailed a (n k) j s) s).acqSt a).knowsFailed (n k) := by
  induction bad using List.reverseRecOn with
  | nil => exact ⟨⟨[], by simp⟩, fun k hk => absurd hk (by simp)⟩
  | append_singleton bad x ih =>
    obtain ⟨⟨more, hmore⟩, hknown⟩ := ih
    rw [List.foldl_append, List.foldl_cons, List.foldl_nil]
    obtain ⟨⟨last, hlast⟩, hx⟩ := acqSt_scFailed a (n x) j (bad.foldl (fun s k => scFailed a (n k) j s) s)
    refine ⟨⟨more ++ last, by rw [hlast, hmore, List.append_assoc]⟩, fun k hk => ?_⟩
    rcases List.mem_append.mp hk with hk | hk
    · rw [hlast]
      exact (hknown k hk).imp (fun h => by simp [h]) id
    · rw [List.mem_singleton.mp hk]
      exact hx

/-- The sub-converters that `bad` names have been found failed, from sample `j`. -/
def failuresShown {β : Type} (a j : Nat) (n : β → Nat) (bad : List β) (s : State) : State :=
  (bad.foldl (fun s k => scFailed a (n k) j s) s).calShow a

theorem acqSt_failuresShown {β : Type} (a j : Nat) (n : β → Nat) (bad : List β) (s : State) :
    (∃ more, (failuresShown a j n bad s).acqSt a = { s.acqSt a with failing := (s.acqSt a).failing ++ more }) ∧
      ∀ k ∈ bad, ((failuresShown a j n bad s).acqSt a).knowsFailed (n k) := by
  rw [failuresShown, State.acqSt_calShow]
  exact acqSt_scFailed_foldl a j n bad s

theorem rd_failuresShown {β : Type} {g : Fld} (hg : R.CAL_STATE_STATE.apart g = true) (a j : Nat) (n : β → Nat)
    (bad : List β) (s : State) : (failuresShown a j n bad s).rd (acqB a) g = s.rd (acqB a) g := by
  rw [failuresShown, State.calShow, State.rd_wr_of_apart _ _ _ (by decide) hg]
  exact foldl_keeps (fun s : State => s.rd (acqB a) g) _ (fun s k => rd_scFailed a (n k) j s _ g) bad s

end Sys2Proof.Machine
end

section
/-! PROOFS. The rows of a calibration step (R44 to R63): the sub-windows and the estimates, the start of a step, the
verification, the swap, the trims, and a failed sub-converter. -/

namespace Sys2Proof.Machine

/-! SUBWINDOW_COMPLETE (R47, R48). -/

/-- A sub-window with the causes `cs` is rejected. -/
def subRejected (a cs : Nat) (s : State) : State :=
  ((s.inc (acqB a) R.CAL_REJECT_COUNT_REJECTS).wr (acqB a) R.CAL_REJECT_CAUSE_CAUSES
    (s.rd (acqB a) R.CAL_REJECT_CAUSE_CAUSES ||| cs)).modAcq a fun q => { q with waiting := q.waiting || q.lacks }

/-- The sub-window from frame `b` counts. -/
def AcqSt.qualified (q : AcqSt) (b : Nat) : AcqSt :=
  { q with
    subs := if q.windowDone then q.subs else q.subs ++ [b]
    verSubs := if q.verified || decide (b < q.verFrom) then q.verSubs else q.verSubs ++ [b] }

/-- The next sub-window follows the one from frame `b`. -/
def AcqSt.subEnded (q : AcqSt) (b : Nat) : AcqSt :=
  { q with subStart := b + subLen, gainAt := q.gainAt.filter fun g => decide (b + subLen ≤ g) }

/-- The sub-window from frame `b`, with the causes `cs`, is judged. -/
def subJudged (a b cs : Nat) (s : State) : State :=
  (if (s.acqSt a).step = .none then s
    else if cs ≠ 0 then subRejected a cs s else s.modAcq a fun q => q.qualified b).modAcq a fun q => q.subEnded b

theorem execSubwindowComplete_judges {a : ADie} {s : State} (hdie : s.hasA a = true)
    (hstream : s.on (acqB a) R.ACQ_STATUS_STREAM = true)
    (hthere : 32 * ((s.acqSt a).subStart + 65536) ≤ s.streamHead a) :
    execSubwindowComplete a s = .next
      (failuresShown a (32 * (s.acqSt a).subStart) (s.acqSt a).inSlot
        (if ensembleLoud s a (s.acqSt a).subStart then constantSlots s a (s.acqSt a).subStart else [])
        (subJudged a (s.acqSt a).subStart (rejectCauses s a (s.acqSt a).subStart) s)) := by
  have hgo : (!(s.hasA a && s.on (acqB a) R.ACQ_STATUS_STREAM) ||
      decide (s.streamHead a < 32 * ((s.acqSt a).subStart + subLen))) = false := by
    have hnot : ¬ s.streamHead a < 32 * ((s.acqSt a).subStart + subLen) := Nat.not_lt.mpr hthere
    simp [hdie, hstream, hnot]
  unfold execSubwindowComplete
  generalize rejectCauses s a = causes
  generalize constantSlots s a = constant
  generalize ensembleLoud s a = loud
  exact if_neg (ne_true_of_eq_false hgo)

/-- Six causes (R47). -/
theorem rejectCauses_lt (s : State) (a b : Nat) : rejectCauses s a b < 64 := by
  have hsum : ∀ c0 c1 c2 c3 c4 c5 : Bool,
      b2n c0 + 2 * b2n c1 + 4 * b2n c2 + 8 * b2n c3 + 16 * b2n c4 + 32 * b2n c5 < 64 := by decide
  unfold rejectCauses
  exact hsum _ _ _ _ _ _

section
variable {a b cs : Nat} {s : State}

theorem acqSt_subJudged_outside (h : (s.acqSt a).step = .none) :
    (subJudged a b cs s).acqSt a = (s.acqSt a).subEnded b := by
  rw [subJudged, if_pos h, State.acqSt_modAcq]

theorem acqSt_subJudged_counts (h : (s.acqSt a).step ≠ .none) (hcs : cs = 0) :
    (subJudged a b cs s).acqSt a = ((s.acqSt a).qualified b).subEnded b := by
  rw [subJudged, if_neg h, if_neg (not_not_intro hcs), State.acqSt_modAcq, State.acqSt_modAcq]

theorem acqSt_subJudged_rejected (h : (s.acqSt a).step ≠ .none) (hcs : cs ≠ 0) :
    (subJudged a b cs s).acqSt a =
      ({ s.acqSt a with waiting := (s.acqSt a).waiting || (s.acqSt a).lacks } : AcqSt).subEnded b := by
  rw [subJudged, if_neg h, if_pos hcs, State.acqSt_modAcq, subRejected, State.acqSt_modAcq, State.acqSt_wr,
    State.acqSt_inc]

/-- Every sub-window is followed by the next, in the step that it found. -/
theorem acqSt_subJudged (a b cs : Nat) (s : State) : ((subJudged a b cs s).acqSt a).subStart = b + subLen ∧
    ((subJudged a b cs s).acqSt a).step = (s.acqSt a).step := by
  by_cases h : (s.acqSt a).step = .none
  · rw [acqSt_subJudged_outside h]
    exact ⟨rfl, rfl⟩
  · by_cases hcs : cs = 0
    · rw [acqSt_subJudged_counts h hcs]
      exact ⟨rfl, rfl⟩
    · rw [acqSt_subJudged_rejected h hcs]
      exact ⟨rfl, rfl⟩

/-- No register changes with a sub-window that is not rejected. -/
theorem rd_subJudged_kept (h : (s.acqSt a).step = .none ∨ cs = 0) (c : Nat) (f : Fld) :
    (subJudged a b cs s).rd c f = s.rd c f := by
  rw [subJudged, State.rd_modAcq]
  by_cases hstep : (s.acqSt a).step = .none
  · rw [if_pos hstep]
  · rw [if_neg hstep, if_neg (not_not_intro (h.resolve_left hstep)), State.rd_modAcq]

theorem rd_subJudged_rejected (h : (s.acqSt a).step ≠ .none) (hcs : cs ≠ 0) (hlt : cs < 64) :
    (subJudged a b cs s).rd (acqB a) R.CAL_REJECT_COUNT_REJECTS =
      min (2 ^ 32 - 1) (s.rd (acqB a) R.CAL_REJECT_COUNT_REJECTS + 1) ∧
    (subJudged a b cs s).rd (acqB a) R.CAL_REJECT_CAUSE_CAUSES = s.rd (acqB a) R.CAL_REJECT_CAUSE_CAUSES ||| cs := by
  have hold := State.rd_lt s (acqB a) R.CAL_REJECT_CAUSE_CAUSES
  rw [subJudged, if_neg h, if_pos hcs, State.rd_modAcq, State.rd_modAcq, subRejected, State.rd_modAcq,
    State.rd_modAcq, State.rd_wr_of_apart _ _ _ (by decide) (by decide), State.rd_inc_same _ _ _ _ (by decide),
    State.rd_wr_same _ _ _ _ (by decide)]
  exact ⟨rfl, Nat.mod_eq_of_lt (Nat.or_lt_two_pow (n := 6) hold hlt)⟩

end

/-! CAL_WINDOW_COMPLETE (R49, R61). -/

theorem accumulate_length (t : Rat) (l : List Rat) : (accumulate t l).length = l.length := by
  induction l generalizing t with
  | nil => rfl
  | cons d l ih => rw [accumulate, List.length_cons, ih, List.length_cons]

theorem estimates_length (st : List SlotStat) : (estimates st).length = st.length := by
  simp [estimates, accumulate_length]

theorem slotStats_length (s : State) (a : Nat) (fs : List Nat) : (slotStats s a fs).length = 64 := by
  rw [slotStats, List.length_map, List.length_range]

/-- The estimates of a completed window. -/
def windowEsts (s : State) (a : Nat) : List Est := estimates (slotStats s a ((s.acqSt a).subs.take 64))

theorem windowEsts_length (s : State) (a : Nat) : (windowEsts s a).length = 64 := by
  rw [windowEsts, estimates_length, slotStats_length]

/-- The record with the estimates `es`, at FRC value `now`. -/
def AcqSt.windowed (q : AcqSt) (now : Nat) (es : List Est) : AcqSt :=
  ({ q with
    windowDone := true, doneAt := some now
    est := es.zipIdx.foldl (fun m e => tset (fun _ => {}) m e.2 e.1) q.est } : AcqSt).settleWait

theorem execCalWindowComplete_estimates {a : ADie} {s : State} (hdie : s.hasA a = true)
    (hstep : (s.acqSt a).step = .run ∨ (s.acqSt a).step = .live) (hsubs : 64 ≤ (s.acqSt a).subs.length)
    (hdone : (s.acqSt a).windowDone = false) :
    execCalWindowComplete a s = .next
      (failuresShown a (32 * (s.acqSt a).subs.headD 0) (fun e => (s.acqSt a).inSlot e.2)
        ((windowEsts s a).zipIdx.filter fun e => estFails e.1)
        (s.modAcq a fun q => q.windowed s.time.frc (windowEsts s a))) := by
  have hzip : (windowEsts s a).zipIdx = (windowEsts s a).zip (List.range 64) := by
    rw [List.zipIdx_eq_zip_range', windowEsts_length, List.range_eq_range']
  have hgo : ¬ (!(s.hasA a) || decide ((s.acqSt a).step = .none) || decide ((s.acqSt a).step = .idle) ||
      decide ((s.acqSt a).subs.length < 64) || (s.acqSt a).windowDone) = true := by
    rcases hstep with hstep | hstep <;> simp [hdie, hstep, hdone, hsubs]
  simp only [AcqSt.windowed, hzip]
  unfold windowEsts execCalWindowComplete
  generalize slotStats s a = stats
  generalize estimates = ests
  exact if_neg hgo

/-- The record after the window, for the estimates `es`. -/
theorem AcqSt.windowed_fields (q : AcqSt) (now : Nat) (es : List Est) : (q.windowed now es).windowDone = true ∧
    (q.windowed now es).step = q.step ∧ (q.windowed now es).waiting = (q.waiting && !q.verified) ∧
    (q.windowed now es).failing = q.failing ∧ (q.windowed now es).degraded = q.degraded := by
  refine ⟨rfl, rfl, ?_, rfl, rfl⟩
  simp [AcqSt.windowed, AcqSt.settleWait, AcqSt.lacks]

theorem AcqSt.windowed_est (q : AcqSt) (now : Nat) (es : List Est) {k : Nat} (hk : k < es.length) :
    tget (fun _ => ({} : Est)) (q.windowed now es).est k = es[k] :=
  tget_foldl_zipIdx (fun _ => ({} : Est)) (key := id) Function.injective_id id es q.est hk

/-! The start of a step (R55, R57, R63). -/

theorem acqSt_beginStep (a : Nat) (k : StepKind) (s : State) : (beginStep a k s).acqSt a = { s.acqSt a with
    step := k, slot := (s.acqSt a).nextSlot, subStart := (s.acqSt a).nextFrame, subs := []
    verFrom := (s.acqSt a).nextFrame, verSubs := [], retries := 0, windowDone := false, doneAt := .none
    waiting := false, verified := decide (k = .live), displaced := .none } := by
  rw [beginStep, State.acqSt_calShow, State.acqSt_wr, State.acqSt_modAcq]

theorem beginStep_slot (a : Nat) (k : StepKind) (s : State) :
    (beginStep a k s).rd (acqB a) R.CAL_STATE_SLOT = (s.acqSt a).nextSlot % 64 := by
  simp (disch := decide) only [beginStep, State.calShow, State.rd_wr_of_apart, State.rd_wr_same, State.acqSt_modAcq]
  rfl

theorem execCalStepStart_starts {a : ADie} {s : State} (hphase : (s.acqSt a).phase = .run)
    (hstep : (s.acqSt a).step = .none) (hhold : s.calHold a = false)
    (hlen : (s.acqSt a).runSteps < (s.acqSt a).runLength)
    (hlive : (s.acqSt a).frozen = false ∨ s.on (acqB a) R.ACQ_CTRL_LIVE_TRIM = true) :
    execCalStepStart a s = .next (beginStep a (if (s.acqSt a).frozen then .live else .run) s) := by
  rw [execCalStepStart]
  exact if_pos ⟨hphase, hstep, hhold, hlen, hlive⟩

theorem execIdleStepStart_starts {a : ADie} {s : State} (hphase : (s.acqSt a).phase = .idle)
    (hstep : (s.acqSt a).step = .none) (hhold : s.calHold a = false) (hfrozen : (s.acqSt a).frozen = false)
    (hidle : s.rd (acqB a) R.CAL_TIMING_STEP_IDLE ≠ 0) : execIdleStepStart a s = .next (beginStep a .idle s) := by
  rw [execIdleStepStart]
  exact if_pos ⟨hphase, hstep, hhold, hfrozen, hidle⟩

/-! VERIFY_WINDOW_COMPLETE (R56, R57). -/

/-- The figures of the verification in progress. -/
def verifyFound (s : State) (a : Nat) : Rat × Rat × Rat :=
  verifyFigures s a (s.acqSt a).slot ((s.acqSt a).verSubs.take 4)

/-- Whether they are within the limits. -/
def verifyPasses (s : State) (a : Nat) : Bool :=
  verifyOk s a (verifyFound s a).1 (verifyFound s a).2.1 (verifyFound s a).2.2

/-- A failed idle step ends (R57, R73). -/
def idleFailed (a : Nat) (s : State) : State :=
  idleDone a (s.modAcq a fun q => { q with
    idleCause := if s.calMode a = 2 then some ((s.acqSt a).idleCause.getD 3) else (s.acqSt a).idleCause
    verifyFails := q.verifyFails + b2n (decide (s.calMode a = 1)) })

/-- The differences that a failed run step takes off the trims of the spare. -/
def verifyDelta (found : Rat × Rat × Rat) : Int × Int × Int :=
  (-roundRat (16 * found.1), -(logRound found.2.1 10000 17), -roundRat (found.2.2 / 48))

/-- The spare `y` is trimmed and verified again. -/
def verifyAgain (a y : Nat) (s : State) : State :=
  moveTrims a y (verifyDelta (verifyFound s a)) (s.modAcq a fun q => { q with
    retries := q.retries + 1, verSubs := [], verFrom := q.nextFrame })

section
variable {a : ADie} {s : State} (hverified : (s.acqSt a).verified = false) (hsubs : 4 ≤ (s.acqSt a).verSubs.length)
include hverified hsubs

theorem execVerifyWindowComplete_judges (hstep : (s.acqSt a).step = .run ∨ (s.acqSt a).step = .idle) :
    execVerifyWindowComplete a s = (if verifyPasses s a then
        .next ((s.modAcq a fun q => ({ q with verified := true } : AcqSt).settleWait).calShow a)
      else if (s.acqSt a).step = .idle then .next (idleFailed a s)
      else match s.spare a with
        | .none => .next s
        | some y =>
          if s.rd (acqB a) R.CAL_VERIFY_RETRY < (s.acqSt a).retries + 1 then
            .next (retire a y 1 (s.raise (80 + a) (32 * (s.acqSt a).verSubs.headD 0)))
          else .next (verifyAgain a y s)) := by
  have hgo : ¬ (((s.acqSt a).step ≠ .run ∧ (s.acqSt a).step ≠ .idle) ∨ (s.acqSt a).verified = true ∨
      (s.acqSt a).verSubs.length < 4) := by
    rcases hstep with hstep | hstep <;> simp [hstep, hverified, hsubs]
  unfold execVerifyWindowComplete verifyPasses idleFailed verifyAgain verifyFound
  generalize verifyFigures s a = figures
  exact if_neg hgo

end

end Sys2Proof.Machine
end

section
/-! PROOFS. The ends of a calibration step (R44, R45, R50, R56, R57, R61, R63), and the statement of its rows. -/

namespace Sys2Proof.Machine

theorem State.spare_congr {s t : State} {a : Nat}
    (h : t.rd (acqB a) R.CAL_STATE_SPARE = s.rd (acqB a) R.CAL_STATE_SPARE) : t.spare a = s.spare a := by
  rw [State.spare, State.spare, h]

/-! The slot and the role of a sub-converter (R74). -/

theorem rd_scState_same {role : Nat} (hrole : role < 4) (a n k : Nat) (s : State) :
    (s.wrs (scB a n) [(R.SC_n_STATE_SLOT, k), (R.SC_n_STATE_ROLE, role)]).rd (scB a n) R.SC_n_STATE_ROLE = role ∧
      (s.wrs (scB a n) [(R.SC_n_STATE_SLOT, k), (R.SC_n_STATE_ROLE, role)]).rd (scB a n) R.SC_n_STATE_SLOT =
        k % 64 := by
  simp (disch := decide) only [State.wrs, State.rd_wr_of_apart, State.rd_wr_same]
  exact ⟨Nat.mod_eq_of_lt hrole, rfl⟩

theorem rd_scState_other {m n : Nat} (h : m ≠ n) {g : Fld} (hg : g.off / 16 = 0x100) (a k role : Nat) (s : State) :
    (s.wrs (scB a n) [(R.SC_n_STATE_SLOT, k), (R.SC_n_STATE_ROLE, role)]).rd (scB a m) g = s.rd (scB a m) g := by
  simp only [State.wrs]
  rw [State.rd_wr_sc_other _ _ _ _ _ h (by decide) hg, State.rd_wr_sc_other _ _ _ _ _ h (by decide) hg]

/-! A failed verification (R56, R57). -/

theorem acqSt_idleFailed (a : Nat) (s : State) : ((idleFailed a s).acqSt a).step = .none ∧
    ((idleFailed a s).acqSt a).verifyFails = (s.acqSt a).verifyFails + b2n (decide (s.calMode a = 1)) := by
  rw [idleFailed]
  obtain ⟨phase, runSteps, abort, nextSlot, rerunCause, -, hrecord⟩ := acqSt_idleDone a (s.modAcq a fun q => { q with
    idleCause := if s.calMode a = 2 then some ((s.acqSt a).idleCause.getD 3) else (s.acqSt a).idleCause
    verifyFails := q.verifyFails + b2n (decide (s.calMode a = 1)) })
  rw [hrecord, State.acqSt_modAcq]
  exact ⟨rfl, rfl⟩

/-- Under AUTO a run follows, with cause RESIDUAL or the one that waited. -/
theorem idleFailed_run {a : Nat} {s : State} (hmode : s.calMode a = 2) (hhold : s.calHold a = false) :
    ((idleFailed a s).acqSt a).phase = .run ∧
      (idleFailed a s).rd (acqB a) R.CAL_STATE_CAUSE = (s.acqSt a).idleCause.getD 3 % 8 := by
  rw [idleFailed, idleDone_run (c := (s.acqSt a).idleCause.getD 3)]
  · rw [acqSt_startRun]
    exact ⟨rfl, rd_startRun_cause _ _ _⟩
  · rw [State.acqSt_modAcq, if_pos hmode]
    exact waitingCause_auto ((State.calMode_congr (State.rd_modAcq ..)).trans hmode) _
  · exact (State.calHold_congr (State.rd_modAcq ..)).trans hhold

theorem acqSt_moveTrims (a n b : Nat) (d : Int × Int × Int) (s : State) : (moveTrims a n d s).acqSt b = s.acqSt b := by
  rw [moveTrims_eq, acqSt_setTrims]

/-- The three trims of a sub-converter that moves by `d`. -/
theorem trim_moveTrims (a n : Nat) (d : Int × Int × Int) (s : State) :
    (moveTrims a n d s).trim a n 0 = clampI (-512) 511 (s.trim a n 0 + d.1) ∧
      (moveTrims a n d s).trim a n 1 = clampI (-512) 511 (s.trim a n 1 + d.2.1) ∧
      (moveTrims a n d s).trim a n 2 = clampI (-63) 63 (s.trim a n 2 + d.2.2) := by
  rw [moveTrims_eq]
  exact trim_setTrims_same a n _ s

theorem acqSt_verifyAgain (a y : Nat) (s : State) : (verifyAgain a y s).acqSt a = { s.acqSt a with
    retries := (s.acqSt a).retries + 1, verSubs := [], verFrom := (s.acqSt a).nextFrame } := by
  rw [verifyAgain, acqSt_moveTrims, State.acqSt_modAcq]

theorem trim_verifyAgain (a y : Nat) (s : State) :
    (verifyAgain a y s).trim a y 0 = clampI (-512) 511 (s.trim a y 0 + (verifyDelta (verifyFound s a)).1) ∧
      (verifyAgain a y s).trim a y 1 = clampI (-512) 511 (s.trim a y 1 + (verifyDelta (verifyFound s a)).2.1) ∧
      (verifyAgain a y s).trim a y 2 = clampI (-63) 63 (s.trim a y 2 + (verifyDelta (verifyFound s a)).2.2) := by
  have hmoved := trim_moveTrims a y (verifyDelta (verifyFound s a)) (s.modAcq a fun q => { q with
    retries := q.retries + 1, verSubs := [], verFrom := q.nextFrame })
  simp only [trim_modAcq] at hmoved
  exact hmoved

/-- The registers, the record and the event with which the spare `y` is retired. -/
theorem retire_failedSpare (a : Nat) (y : Fin 65) (j : Nat) (s : State) :
    ((retire a y 1 (s.raise (80 + a) j)).acqSt a).frozen = true ∧
      (retire a y 1 (s.raise (80 + a) j)).rd (scB a y) R.SC_n_STATE_ROLE = 2 ∧
      (retire a y 1 (s.raise (80 + a) j)).rd (acqB a) R.CAL_RETIRED_INDEX = y ∧
      (retire a y 1 (s.raise (80 + a) j)).rd (acqB a) R.CAL_RETIRED_REASON = 1 ∧
      (retire a y 1 (s.raise (80 + a) j)).flight.map (·.source) = s.flight.map (·.source) ++ [80 + a] := by
  obtain ⟨hrole, hindex, hreason, -⟩ := rd_retire (a := a) (n := y) (reason := 1) (y.isLt.trans (by decide))
    (by decide) (s.raise (80 + a) j)
  obtain ⟨phase, runSteps, nextSlot, ranOnce, hrecord⟩ := acqSt_retire a y 1 (s.raise (80 + a) j)
  exact ⟨by rw [hrecord], hrole, hindex, hreason, by rw [retire_flight, State.raise_flight_sources]⟩

/-- A failed run step, by how often it has failed (R56). -/
theorem execVerifyWindowComplete_failedRun {a : ADie} {s : State} (hverified : (s.acqSt a).verified = false)
    (hsubs : 4 ≤ (s.acqSt a).verSubs.length) (hrun : (s.acqSt a).step = .run) (hfails : verifyPasses s a = false) :
    ∃ t, execVerifyWindowComplete a s = .next t ∧ ∀ y : Fin 65, s.spare a = some y.val →
      (s.rd (acqB a) R.CAL_VERIFY_RETRY < (s.acqSt a).retries + 1 → (t.acqSt a).frozen = true ∧
        t.rd (scB a y) R.SC_n_STATE_ROLE = 2 ∧ t.rd (acqB a) R.CAL_RETIRED_INDEX = y.val ∧
        t.rd (acqB a) R.CAL_RETIRED_REASON = 1 ∧
        t.flight.map (·.source) = s.flight.map (·.source) ++ [80 + a.val]) ∧
      ((s.acqSt a).retries + 1 ≤ s.rd (acqB a) R.CAL_VERIFY_RETRY →
        (t.acqSt a).retries = (s.acqSt a).retries + 1 ∧ (t.acqSt a).verSubs = [] ∧
        t.trim a y 0 = clampI (-512) 511 (s.trim a y 0 + (verifyDelta (verifyFound s a)).1) ∧
        t.trim a y 1 = clampI (-512) 511 (s.trim a y 1 + (verifyDelta (verifyFound s a)).2.1) ∧
        t.trim a y 2 = clampI (-63) 63 (s.trim a y 2 + (verifyDelta (verifyFound s a)).2.2)) := by
  have hbusy : (s.acqSt a).step ≠ .idle := by rw [hrun]; decide
  have hjudged := execVerifyWindowComplete_judges hverified hsubs (.inl hrun)
  rw [if_neg (ne_true_of_eq_false hfails), if_neg hbusy] at hjudged
  cases hspare : s.spare a with
  | none => exact ⟨_, hjudged.trans (by rw [hspare]), fun _ hy => nomatch hy⟩
  | some n =>
    simp only [hspare] at hjudged
    by_cases hretry : s.rd (acqB a) R.CAL_VERIFY_RETRY < (s.acqSt a).retries + 1
    · refine ⟨_, hjudged.trans (if_pos hretry), fun y hy => ?_⟩
      obtain rfl : n = y := Option.some.inj hy
      exact ⟨fun _ => retire_failedSpare a y _ s, fun hle => absurd hretry (Nat.not_lt.mpr hle)⟩
    · refine ⟨_, hjudged.trans (if_neg hretry), fun y hy => ?_⟩
      obtain rfl : n = y := Option.some.inj hy
      rw [acqSt_verifyAgain]
      exact ⟨fun hlt => absurd hlt hretry, fun _ => ⟨rfl, rfl, trim_verifyAgain a y s⟩⟩

/-! SPARE_SWAP (R44, R45). -/

/-- The record after the spare `y` has taken the slot of the step. -/
def AcqSt.swapped (q : AcqSt) (y : Nat) : AcqSt :=
  { q with
    slots := tset (fun k => k) q.slots q.slot y, nextSlot := (q.slot + 1) % 64
    displaced := some (q.inSlot q.slot) }

/-- The spare `y` has taken the slot `k` of `x`, which is the spare now. -/
def swapShown (a y x k : Nat) (s : State) : State :=
  ((s.wrs (scB a y) [(R.SC_n_STATE_SLOT, k), (R.SC_n_STATE_ROLE, 0)]).wrs (scB a x)
    [(R.SC_n_STATE_SLOT, (k + 1) % 64), (R.SC_n_STATE_ROLE, 1)]).wr (acqB a) R.CAL_STATE_SPARE x

theorem execSpareSwap_swaps {a : ADie} {y : Nat} {s : State} (hspare : s.spare a = some y)
    (hverified : (s.acqSt a).verified = true) (hdisplaced : (s.acqSt a).displaced = none)
    (hfailing : (s.acqSt a).failing = [])
    (hstep : (s.acqSt a).step = .idle ∨ ((s.acqSt a).step = .run ∧ (s.acqSt a).windowDone = true)) :
    execSpareSwap a s = .next (if (s.acqSt a).step = .idle
      then idleDone a (swapShown a y ((s.acqSt a).inSlot (s.acqSt a).slot) (s.acqSt a).slot
        (s.modAcq a fun q => q.swapped y))
      else swapShown a y ((s.acqSt a).inSlot (s.acqSt a).slot) (s.acqSt a).slot
        (s.modAcq a fun q => q.swapped y)) := by
  simp only [execSpareSwap, hspare]
  exact if_pos ⟨hverified, hdisplaced, hfailing, hstep⟩

theorem AcqSt.swapped_inSlot (q : AcqSt) (y : Nat) : (q.swapped y).inSlot q.slot = y ∧
    ∀ k, k ≠ q.slot → (q.swapped y).inSlot k = q.inSlot k :=
  ⟨tget_tset_same _ _ _ _, fun _ hk => tget_tset_other _ _ _ _ _ hk⟩

theorem acqSt_swapShown (a y x k : Nat) (s : State) : (swapShown a y x k s).acqSt a = s.acqSt a := by
  rw [swapShown, State.acqSt_wr, State.acqSt_wrs, State.acqSt_wrs]

theorem rd_swapShown {a y x k : Nat} (hx : x < 65) (hne : x ≠ y) (hk : k < 64) (s : State) :
    (swapShown a y x k s).rd (acqB a) R.CAL_STATE_SPARE = x ∧
      (swapShown a y x k s).rd (scB a x) R.SC_n_STATE_ROLE = 1 ∧
      (swapShown a y x k s).rd (scB a y) R.SC_n_STATE_ROLE = 0 ∧
      (swapShown a y x k s).rd (scB a y) R.SC_n_STATE_SLOT = k := by
  refine ⟨?_, ?_, ?_, ?_⟩
  · rw [swapShown, State.rd_wr_same _ _ _ _ (by decide)]
    exact Nat.mod_eq_of_lt (hx.trans (by decide))
  · rw [swapShown, State.rd_sc_wr _ _ _ _ (by decide) (by decide)]
    exact (rd_scState_same (by decide) _ _ _ _).1
  · rw [swapShown, State.rd_sc_wr _ _ _ _ (by decide) (by decide), rd_scState_other hne.symm (by decide)]
    exact (rd_scState_same (by decide) _ _ _ _).1
  · rw [swapShown, State.rd_sc_wr _ _ _ _ (by decide) (by decide), rd_scState_other hne.symm (by decide)]
    exact (rd_scState_same (by decide) _ _ _ _).2.trans (Nat.mod_eq_of_lt hk)

/-! TRIM_UPDATE and LIVE_TRIM_STEP (R46, R50). -/

/-- The changes of R50 for the slot of the step. -/
def stepDelta (s : State) (a : Nat) : Int × Int × Int :=
  trimDelta s a (tget (fun _ => {}) (s.acqSt a).est (s.acqSt a).slot)

/-- They are at most one step each while the sub-converter stays in its slot (R46). -/
def liveDelta (d : Int × Int × Int) : Int × Int × Int := (clampI (-1) 1 d.1, clampI (-1) 1 d.2.1, clampI (-1) 1 d.2.2)

theorem execTrimUpdate_moves {a : ADie} {x : Nat} {s : State} (hstep : (s.acqSt a).step = .run)
    (hdisplaced : (s.acqSt a).displaced = some x) :
    execTrimUpdate a s = .next (stepDone a (moveTrims a x (stepDelta s a) s)) := by
  simp only [execTrimUpdate, hstep, hdisplaced, stepDelta]

theorem execLiveTrimStep_moves {a : ADie} {s : State} (hstep : (s.acqSt a).step = .live)
    (hdone : (s.acqSt a).windowDone = true) (hlive : s.on (acqB a) R.ACQ_CTRL_LIVE_TRIM = true) :
    execLiveTrimStep a s = .next (stepDone a (moveTrims a ((s.acqSt a).inSlot (s.acqSt a).slot)
      (liveDelta (stepDelta s a)) s)) := by
  rw [execLiveTrimStep]
  exact if_pos ⟨hstep, hdone, hlive⟩

/-- The trims stay as the step has moved them. -/
theorem trim_stepDone (a n i : Nat) (s : State) : (stepDone a s).trim a n i = s.trim a n i :=
  State.trim_congr (rd_stepDone (clearOf_runFlds_sc (trimFld_off_ge i)) s)

theorem trim_stepDone_moveTrims (a n : Nat) (d : Int × Int × Int) (s : State) :
    (stepDone a (moveTrims a n d s)).trim a n 0 = clampI (-512) 511 (s.trim a n 0 + d.1) ∧
      (stepDone a (moveTrims a n d s)).trim a n 1 = clampI (-512) 511 (s.trim a n 1 + d.2.1) ∧
      (stepDone a (moveTrims a n d s)).trim a n 2 = clampI (-63) 63 (s.trim a n 2 + d.2.2) := by
  rw [trim_stepDone, trim_stepDone, trim_stepDone]
  exact trim_moveTrims a n d s

theorem acqSt_stepDone_moveTrims (a n : Nat) (d : Int × Int × Int) (s : State) :
    ((stepDone a (moveTrims a n d s)).acqSt a).step = .none ∧
      ((stepDone a (moveTrims a n d s)).acqSt a).displaced = none ∧
      ((s.acqSt a).abort = false →
        ((stepDone a (moveTrims a n d s)).acqSt a).runSteps = (s.acqSt a).runSteps + 1) := by
  obtain ⟨hstep, hdisplaced, hstepped⟩ := acqSt_stepDone a (moveTrims a n d s)
  refine ⟨hstep, hdisplaced, fun habort => ?_⟩
  rw [hstepped (by rw [acqSt_moveTrims]; exact habort), acqSt_moveTrims]
  rfl

/-! FAILED_SC_REPLACE (R61, R63). -/

/-- The spare `y` has taken slot `k` of a failed sub-converter; the others that have failed are `rest`. -/
def replaceShown (a y k : Nat) (rest : List (Nat × Nat)) (s : State) : State :=
  ((s.modAcq a fun q => { q with failing := rest }).modAcq a fun q => { q with
    slots := tset (fun k => k) q.slots k y }).wrs (scB a y) [(R.SC_n_STATE_SLOT, k), (R.SC_n_STATE_ROLE, 0)]

/-- Sub-converter `n` stays in service. -/
def degradedShown (a n : Nat) (rest : List (Nat × Nat)) (s : State) : State :=
  (((s.modAcq a fun q => { q with failing := rest }).modAcq a fun q => { q with
    degraded := q.degraded ++ [n] }).wrs (acqB a) [(R.ACQ_STATUS_DEGRADED, 1), (R.CAL_RETIRED_SECOND, 1)]).raise
    (82 + a) n

section
variable {a : ADie} {n j k : Nat} {rest : List (Nat × Nat)} {s : State}
  (hfailing : (s.acqSt a).failing = (n, j) :: rest)
  (hslot : (List.range 64).find? (fun k => (s.acqSt a).inSlot k == n) = some k)
include hfailing hslot

theorem execFailedScReplace_replaces {y : Nat} (hspare : s.spare a = some y) :
    execFailedScReplace a s = .next (retire a n 2 (replaceShown a y k rest s)) := by
  have hspare' : (s.modAcq a fun q => { q with failing := rest }).spare a = some y :=
    (State.spare_congr (State.rd_modAcq ..)).trans hspare
  simp only [execFailedScReplace, hfailing, hspare', hslot]
  rfl

theorem execFailedScReplace_degrades (hspare : s.spare a = none) :
    execFailedScReplace a s = .next (degradedShown a n rest s) := by
  have hspare' : (s.modAcq a fun q => { q with failing := rest }).spare a = none :=
    (State.spare_congr (State.rd_modAcq ..)).trans hspare
  simp only [execFailedScReplace, hfailing, hspare', hslot]
  rfl

end

theorem acqSt_replaceShown (a y k : Nat) (rest : List (Nat × Nat)) (s : State) : (replaceShown a y k rest s).acqSt a =
    { s.acqSt a with failing := rest, slots := tset (fun k => k) (s.acqSt a).slots k y } := by
  rw [replaceShown, State.acqSt_wrs, State.acqSt_modAcq, State.acqSt_modAcq]

theorem acqSt_degradedShown (a n : Nat) (rest : List (Nat × Nat)) (s : State) : (degradedShown a n rest s).acqSt a =
    { s.acqSt a with failing := rest, degraded := (s.acqSt a).degraded ++ [n] } := by
  rw [degradedShown, State.acqSt_raise, State.acqSt_wrs, State.acqSt_modAcq, State.acqSt_modAcq]

theorem rd_degradedShown (a n : Nat) (rest : List (Nat × Nat)) (s : State) :
    (degradedShown a n rest s).rd (acqB a) R.ACQ_STATUS_DEGRADED = 1 ∧
      (degradedShown a n rest s).rd (acqB a) R.CAL_RETIRED_SECOND = 1 := by
  rw [degradedShown, State.rd_raise, State.rd_raise]
  simp (disch := decide) only [State.wrs, State.rd_wr_of_apart, State.rd_wr_same]
  exact ⟨rfl, rfl⟩

/-! The statement. -/

/-- Settles O16: each row's answer written out by its lemma above, with the record, the registers, the trims and the
events that it leaves. -/
theorem calStepRowsComplete : Obligations.CalStepRowsComplete := by
  unfold Obligations.CalStepRowsComplete
  refine ⟨fun a s hdie hstream hthere => ?_, fun a s hdie hstep hsubs hdone => ?_,
    fun a s hphase hstep hhold hlen hlive => ?_, fun a s hphase hstep hhold hfrozen hidle => ?_,
    fun a s hstep hverified hsubs => ?_,
    fun a y s hspare hslot hx hne hverified hdisplaced hfailing hstep => ?_,
    fun a x s hstep hdisplaced => ?_, fun a s hstep hdone hlive hx => ?_,
    fun a n j rest k s hfailing hslot => ?_⟩
  · refine ⟨_, execSubwindowComplete_judges hdie hstream hthere, ?_⟩
    obtain ⟨hstart, hkept⟩ := acqSt_subJudged a (s.acqSt a).subStart (rejectCauses s a (s.acqSt a).subStart) s
    obtain ⟨⟨more, hrecord⟩, hknown⟩ := acqSt_failuresShown a (32 * (s.acqSt a).subStart) (s.acqSt a).inSlot
      (if ensembleLoud s a (s.acqSt a).subStart then constantSlots s a (s.acqSt a).subStart else [])
      (subJudged a (s.acqSt a).subStart (rejectCauses s a (s.acqSt a).subStart) s)
    refine ⟨by rw [hrecord]; exact hstart, by rw [hrecord]; exact hkept, fun hstep hcs => ?_, fun hstep hcs => ?_,
      fun hstep => ?_, fun hloud k hk => hknown k (by rw [if_pos hloud]; exact hk)⟩
    · rw [hrecord, rd_failuresShown (by decide), rd_subJudged_kept (.inr hcs), acqSt_subJudged_counts hstep hcs]
      exact ⟨rfl, rfl, rfl⟩
    · obtain ⟨hcount, hcauses⟩ := rd_subJudged_rejected (b := (s.acqSt a).subStart) hstep hcs (rejectCauses_lt s a _)
      rw [hrecord, rd_failuresShown (by decide), rd_failuresShown (by decide), hcount, hcauses,
        acqSt_subJudged_rejected hstep hcs]
      exact ⟨rfl, rfl, rfl, rfl, rfl⟩
    · rw [hrecord, rd_failuresShown (by decide), rd_subJudged_kept (.inl hstep), acqSt_subJudged_outside hstep]
      exact ⟨rfl, rfl⟩
  · refine ⟨_, execCalWindowComplete_estimates hdie hstep hsubs hdone, ?_⟩
    obtain ⟨⟨more, hrecord⟩, hknown⟩ := acqSt_failuresShown a (32 * (s.acqSt a).subs.headD 0)
      (fun e => (s.acqSt a).inSlot e.2) ((windowEsts s a).zipIdx.filter fun e => estFails e.1)
      (s.modAcq a fun q => q.windowed s.time.frc (windowEsts s a))
    have hlen : ∀ k : Fin 64, k.val < (windowEsts s a).length := fun k => by
      rw [windowEsts_length]
      exact k.isLt
    have hest : ∀ k : Fin 64, (windowEsts s a)[k.val]? = some ((windowEsts s a)[k.val]'(hlen k)) := fun k =>
      List.getElem?_eq_getElem (hlen k)
    obtain ⟨hwindow, hkept, hwaiting, -, -⟩ := AcqSt.windowed_fields (s.acqSt a) s.time.frc (windowEsts s a)
    rw [State.acqSt_modAcq] at hrecord
    refine ⟨by rw [hrecord]; exact hwindow, by rw [hrecord]; exact hkept, by rw [hrecord]; exact hwaiting,
      fun k => ?_, fun k hfails => hknown ((windowEsts s a)[k.val]'(hlen k), k) ?_⟩
    · rw [hrecord, ← windowEsts, hest]
      exact AcqSt.windowed_est (s.acqSt a) s.time.frc _ (hlen k)
    · rw [← windowEsts, hest] at hfails
      exact List.mem_filter.mpr ⟨List.mk_mem_zipIdx_iff_getElem?.mpr (hest k), hfails⟩
  · refine ⟨_, execCalStepStart_starts hphase hstep hhold hlen hlive, ?_⟩
    rw [acqSt_beginStep, beginStep_slot]
    refine ⟨rfl, rfl, rfl, rfl, ?_, rfl, rfl⟩
    cases (s.acqSt a).frozen <;> rfl
  · refine ⟨_, execIdleStepStart_starts hphase hstep hhold hfrozen hidle, ?_⟩
    rw [acqSt_beginStep, beginStep_slot]
    exact ⟨rfl, rfl, rfl, rfl, rfl⟩
  · have hjudged := execVerifyWindowComplete_judges hverified hsubs hstep
    cases hpass : verifyPasses s a with
    | true =>
      refine ⟨_, hjudged.trans (if_pos hpass), fun _ => ?_, fun hno => ?_, fun hno => ?_⟩
      · rw [State.acqSt_calShow, State.acqSt_modAcq]
        exact ⟨rfl, rfl⟩
      · exact absurd (hpass.symm.trans hno) (by decide)
      · exact absurd (hpass.symm.trans hno) (by decide)
    | false =>
      rw [if_neg (ne_true_of_eq_false hpass)] at hjudged
      rcases hstep with hrun | hidle
      · obtain ⟨t, ht, hspares⟩ := execVerifyWindowComplete_failedRun hverified hsubs hrun hpass
        exact ⟨t, ht, fun hyes => absurd (hpass.symm.trans hyes) (by decide),
          fun _ hidle => absurd (hrun.symm.trans hidle) (by decide), fun _ _ => hspares⟩
      · obtain ⟨hnone, hfails⟩ := acqSt_idleFailed a s
        exact ⟨_, hjudged.trans (if_pos hidle), fun hyes => absurd (hpass.symm.trans hyes) (by decide),
          fun _ _ => ⟨hnone, hfails, idleFailed_run⟩, fun _ hrun => absurd (hidle.symm.trans hrun) (by decide)⟩
  · obtain ⟨hspareNow, hroleX, hroleY, hslotY⟩ := rd_swapShown (a := a) hx hne hslot
      (s.modAcq a fun q => q.swapped y)
    obtain ⟨hsame, hothers⟩ := AcqSt.swapped_inSlot (s.acqSt a) y
    have hrecord : (swapShown a y ((s.acqSt a).inSlot (s.acqSt a).slot) (s.acqSt a).slot
        (s.modAcq a fun q => q.swapped y)).acqSt a = (s.acqSt a).swapped y := by
      rw [acqSt_swapShown, State.acqSt_modAcq]
    refine ⟨_, execSpareSwap_swaps hspare hverified hdisplaced hfailing hstep, ?_⟩
    rcases hstep with hidle | ⟨hrun, -⟩
    · obtain ⟨phase, runSteps, abort, nextSlot, rerunCause, hnext, hidled⟩ := acqSt_idleDone a
        (swapShown a y ((s.acqSt a).inSlot (s.acqSt a).slot) (s.acqSt a).slot (s.modAcq a fun q => q.swapped y))
      rw [hrecord] at hnext hidled
      rw [if_pos hidle, hidled, rd_idleDone (Fld.clearOf_same (by decide)),
        rd_idleDone (clearOf_runFlds_sc (by decide)), rd_idleDone (clearOf_runFlds_sc (by decide)),
        rd_idleDone (clearOf_runFlds_sc (by decide))]
      exact ⟨hsame, hspareNow, hroleX, hroleY, hslotY, fun k hk => hothers k hk,
        fun hrun => absurd (hidle.symm.trans hrun) (by decide), fun _ => ⟨rfl, rfl⟩, hnext⟩
    · have hbusy : (s.acqSt a).step ≠ .idle := by rw [hrun]; decide
      rw [if_neg hbusy, hrecord]
      exact ⟨hsame, hspareNow, hroleX, hroleY, hslotY, fun k hk => hothers k hk, fun _ => ⟨hrun, rfl⟩,
        fun hidle => absurd hidle hbusy, fun _ => rfl⟩
  · obtain ⟨hnone, hfree, hsteps⟩ := acqSt_stepDone_moveTrims a x (stepDelta s a) s
    obtain ⟨hofs, hgain, hskew⟩ := trim_stepDone_moveTrims a x (stepDelta s a) s
    exact ⟨_, execTrimUpdate_moves hstep hdisplaced, hfree, hofs, hgain, hskew, fun habort => ⟨hnone, hsteps habort⟩⟩
  · obtain ⟨hnone, -, hsteps⟩ :=
      acqSt_stepDone_moveTrims a ((s.acqSt a).inSlot (s.acqSt a).slot) (liveDelta (stepDelta s a)) s
    obtain ⟨hofs, hgain, hskew⟩ :=
      trim_stepDone_moveTrims a ((s.acqSt a).inSlot (s.acqSt a).slot) (liveDelta (stepDelta s a)) s
    exact ⟨_, execLiveTrimStep_moves hstep hdone hlive, hnone, hofs, hgain, hskew, hsteps⟩
  · cases hspare : s.spare a with
    | none =>
      have hslots : (s.acqSt a).inSlot k = n := by
        simpa using (List.find?_eq_some_iff_append.mp hslot).1
      obtain ⟨hdegraded, hsecond⟩ := rd_degradedShown a n rest s
      refine ⟨_, execFailedScReplace_degrades hfailing hslot hspare, ?_⟩
      rw [acqSt_degradedShown]
      refine ⟨rfl, fun _ hy => (nomatch hy), fun _ => ⟨hslots, by simp, State.on_of_rd_one hdegraded,
        State.on_of_rd_one hsecond, ?_⟩⟩
      rw [degradedShown, State.raise_flight_map, State.wrs_flight, State.modAcq_flight, State.modAcq_flight,
        Nat.mod_eq_of_lt (n.isLt.trans (by decide))]
    | some m =>
      obtain ⟨phase, runSteps, nextSlot, ranOnce, hrecord⟩ := acqSt_retire a n 2 (replaceShown a m k rest s)
      obtain ⟨hrole, hindex, hreason, hnospare⟩ := rd_retire (a := a) (n := n) (reason := 2)
        (n.isLt.trans (by decide)) (by decide) (replaceShown a m k rest s)
      rw [acqSt_replaceShown] at hrecord
      refine ⟨_, execFailedScReplace_replaces hfailing hslot hspare, by rw [hrecord], fun y hy hne => ?_,
        fun hno => nomatch hno⟩
      obtain rfl : m = y := Option.some.inj hy
      refine ⟨?_, by rw [hrecord], hnospare, ?_, hrole, hindex, hreason⟩
      · rw [hrecord]
        exact tget_tset_same _ _ _ _
      · rw [rd_retire_other (Fin.val_ne_of_ne hne), replaceShown]
        exact (rd_scState_same (by decide) _ _ _ _).1

end Sys2Proof.Machine
end

section
/-! PROOFS. A frame of the stream: the converter's codes, the flit, the frame boundary, and the samples that come over
the lanes of the S8G-2D (R39 to R42, R76). -/

namespace Sys2Proof.Machine

/-! The codes of a frame. -/

theorem codeKey_injective (a n : Nat) : Function.Injective fun k => codeKey a (n + k) := fun j k h => by
  simp only [codeKey] at h
  omega

theorem streamKey_injective (inp n : Nat) : Function.Injective fun k => streamKey inp (n + k) := fun j k h => by
  simp only [streamKey] at h
  omega

theorem padTo_length {α : Type} (n : Nat) (d : α) (l : List α) : (padTo n d l).length = n := by
  simp [padTo]

theorem padTo_getElem {α : Type} {n k : Nat} (d : α) (l : List α) (hk : k < (padTo n d l).length) :
    (padTo n d l)[k] = l[k]?.getD d := by
  rw [padTo_length] at hk
  simp only [padTo, List.getElem_take]
  by_cases hin : k < l.length
  · simp [hin]
  · simp [List.getElem_append_right (Nat.not_lt.mp hin), Nat.not_lt.mp hin]

/-- A code depends on the codes that have been taken in alone. -/
theorem State.code_congr {s t : State} (h : t.codes = s.codes) (a n : Nat) : t.code a n = s.code a n := by
  rw [State.code, State.code, h]

theorem takeCodes_code (s : State) (a n : Nat) (codes : List (BitVec 12)) (spare : BitVec 12) (k : Fin 64) :
    (s.takeCodes a n codes spare).code a (64 * n + k) = ((codes[k.val]?).getD 0).toInt := by
  have hk : k.val < (padTo 64 0 codes).length := by
    rw [padTo_length]
    exact k.isLt
  have htaken : tget noNat (s.takeCodes a n codes spare).codes (codeKey a (64 * n + k)) =
      ((padTo 64 0 codes)[k.val]).toNat :=
    tget_foldl_zipIdx noNat (codeKey_injective a (64 * n)) BitVec.toNat (padTo 64 0 codes) s.codes hk
  rw [State.code, htaken, padTo_getElem 0 codes hk, sx_toNat (by decide)]

/-! The flit of a frame (R41, R42). -/

/-- `n` overloads are counted. -/
def overloaded (a n : Nat) (s : State) : State :=
  if n = 0 then s else (s.inc (acqB a) R.ACQ_OVR_COUNT_OVR_SAMPLES n).wr (acqB a) R.ACQ_STATUS_OVR 1

/-- The status bits of a frame with `n` overloads. -/
def frameBits (q : AcqSt) (n uncal : Nat) : Nat :=
  markOvr * b2n (decide (0 < n)) + markSettle * b2n (q.settling && decide (0 < q.settleLeft)) + markUncal * uncal

/-- The flit from stream sample `j` carries `bits`. -/
def flitSent (a j bits : Nat) (s : State) : State :=
  ((s.mark (leadOf a) j (j + 31) bits).mark (leadOf a + 1) j (j + 31) bits).modAcq a fun q => { q with
    flit := some (j, bits) }

/-- The overloads in the codes of a frame. -/
def overloadsOf (f : ConvFrame) : Nat := ((f.codes.take 64).filter fun v => overload v.toInt).length

/-- The frame's codes are taken in and, in the stream, its flit is sent. -/
def frameSent (a : Nat) (f : ConvFrame) (s : State) : State :=
  let u := s.takeCodes a (s.acqSt a).frame f.codes f.spare
  if (s.acqSt a).streams (s.acqSt a).frame then
    flitSent a (32 * (s.acqSt a).frame)
      (frameBits (s.acqSt a) (overloadsOf f) ((overloaded a (overloadsOf f) u).rd (acqB a) R.ACQ_STATUS_UNCAL))
      (overloaded a (overloadsOf f) u)
  else u

/-- The record after the frame boundary. -/
def AcqSt.nextFramed (q : AcqSt) : AcqSt := ({ q with settleLeft := q.settleLeft - 1 } : AcqSt).boundary

theorem acqFrame_eq (a : Nat) (f : ConvFrame) (s : State) : acqFrame a f s = rsAdvance (leadOf a)
    ((if ddcDelay ≤ (s.acqSt a).frame then sendFrame a ((s.acqSt a).frame - ddcDelay) (frameSent a f s)
      else frameSent a f s).modAcq a AcqSt.nextFramed) := rfl

/-- What the samples that leave the down-converter do not bear on. -/
theorem sendFrame_keeps {γ : Type} (g : State → γ) (hput : ∀ s inp j x, g (State.putSample s inp j x) = g s)
    (hmark : ∀ s t first last bits, g (State.mark s t first last bits) = g s) (a k : Nat) (s : State) :
    g (sendFrame a k s) = g s := by
  simp only [sendFrame]
  split
  · rfl
  · generalize (List.range 32).map _ = xs
    split
    · rw [hmark, hmark]
      exact foldl_keeps g _ (fun s x => hput s _ _ _) xs s
    · exact foldl_keeps g _ (fun s x => hput s _ _ _) xs s

/-- What the resampler does not bear on. -/
theorem rsAdvance_keeps {γ : Type} (g : State → γ) (hg : ∀ s, g (State.rest [.wb] s) = g s) (t : Nat) (s : State) :
    g (rsAdvance t s) = g s := by
  have hkept := congrArg Prod.fst (rsAdvance_outside (parts := [.wb]) (win := fun _ => True) t s (by decide)
    (fun _ _ => trivial))
  exact (hg _).symm.trans ((congrArg g hkept).trans (hg s))

section
variable (a : ADie) (f : ConvFrame) (s : State)

/-- The record and the registers of the die, and the codes, after a frame. -/
theorem acqFrame_leaves : ((acqFrame a f s).acqSt a = ((frameSent a f s).acqSt a).nextFramed) ∧
    (∀ g : Fld, g.off < 0x100000 → (acqFrame a f s).rd (acqB a) g = (frameSent a f s).rd (acqB a) g) ∧
    (acqFrame a f s).codes = (frameSent a f s).codes := by
  have hsent : ∀ {γ : Type} (g : State → γ), (∀ s inp j x, g (State.putSample s inp j x) = g s) →
      (∀ s t first last bits, g (State.mark s t first last bits) = g s) →
      g (if ddcDelay ≤ (s.acqSt a).frame then sendFrame a ((s.acqSt a).frame - ddcDelay) (frameSent a f s)
        else frameSent a f s) = g (frameSent a f s) := fun g hput hmark => by
    split
    · exact sendFrame_keeps g hput hmark _ _ _
    · rfl
  rw [acqFrame_eq]
  refine ⟨?_, fun g hg => ?_, ?_⟩
  · rw [State.acqSt_of_acqSide (rsAdvance_acqSide _ _), State.acqSt_modAcq]
    exact congrArg AcqSt.nextFramed (hsent (fun s => s.acqSt a) (fun _ _ _ _ => rfl) fun s => State.acqSt_mark s a)
  · rw [State.rd_of_acqSide (rsAdvance_acqSide _ _) a g hg, State.rd_modAcq]
    exact hsent (fun s => s.rd (acqB a) g) (fun _ _ _ _ => rfl) fun s t first last bits =>
      State.rd_mark s t first last bits _ _
  · rw [rsAdvance_keeps State.codes (fun _ => rfl)]
    exact hsent State.codes (fun _ _ _ _ => rfl) State.mark_codes

theorem overloaded_count (a n : Nat) (s : State) : (overloaded a n s).rd (acqB a) R.ACQ_OVR_COUNT_OVR_SAMPLES =
    min (2 ^ 32 - 1) (s.rd (acqB a) R.ACQ_OVR_COUNT_OVR_SAMPLES + n) := by
  have hlt := State.rd_lt s (acqB a) R.ACQ_OVR_COUNT_OVR_SAMPLES
  have hw : R.ACQ_OVR_COUNT_OVR_SAMPLES.w = 32 := rfl
  rw [overloaded]
  split
  · next hnone =>
    rw [hw] at hlt
    omega
  · rw [State.rd_wr_of_apart _ _ _ (by decide) (by decide), State.rd_inc_same _ _ _ _ (by decide)]
    rfl

theorem overloaded_uncal (a n : Nat) (s : State) :
    (overloaded a n s).rd (acqB a) R.ACQ_STATUS_UNCAL = s.rd (acqB a) R.ACQ_STATUS_UNCAL := by
  rw [overloaded]
  split
  · rfl
  · rw [State.rd_wr_of_apart _ _ _ (by decide) (by decide), State.inc,
      State.rd_wr_of_apart _ _ _ (by decide) (by decide)]

theorem overloaded_codes (a n : Nat) (s : State) : (overloaded a n s).codes = s.codes := by
  rw [overloaded]
  split <;> rfl

theorem acqSt_overloaded (a n b : Nat) (s : State) : (overloaded a n s).acqSt b = s.acqSt b := by
  rw [overloaded]
  split
  · rfl
  · rw [State.acqSt_wr, State.acqSt_inc]

theorem frameSent_codes (a : Nat) :
    (frameSent a f s).codes = (s.takeCodes a (s.acqSt a).frame f.codes f.spare).codes := by
  simp only [frameSent]
  split
  · rw [flitSent, State.modAcq_codes, State.mark_codes, State.mark_codes, overloaded_codes]
  · rfl

/-- The flit is all that a frame changes in the record before its boundary. -/
theorem acqSt_frameSent (a : Nat) : ∃ flit, (frameSent a f s).acqSt a = { s.acqSt a with flit := flit } := by
  simp only [frameSent]
  split
  · rw [flitSent, State.acqSt_modAcq, State.acqSt_mark, State.acqSt_mark, acqSt_overloaded]
    exact ⟨_, rfl⟩
  · exact ⟨_, rfl⟩

end

/-- A frame of the stream. -/
theorem frameSent_stream {a : Nat} {s : State} (h : (s.acqSt a).streams (s.acqSt a).frame = true) (f : ConvFrame) :
    (frameSent a f s).rd (acqB a) R.ACQ_OVR_COUNT_OVR_SAMPLES =
      min (2 ^ 32 - 1) (s.rd (acqB a) R.ACQ_OVR_COUNT_OVR_SAMPLES + (overloadsOf f)) ∧
    ((frameSent a f s).acqSt a).flit = some (32 * (s.acqSt a).frame,
      frameBits (s.acqSt a) (overloadsOf f) (s.rd (acqB a) R.ACQ_STATUS_UNCAL)) := by
  simp only [frameSent, h, if_true]
  rw [flitSent, State.rd_modAcq, State.rd_mark, State.rd_mark, overloaded_count, State.acqSt_modAcq, overloaded_uncal]
  exact ⟨rfl, rfl⟩

theorem overloads_any (f : ConvFrame) :
    decide (0 < (overloadsOf f)) = (f.codes.take 64).any fun v => overload v.toInt := by
  rw [overloadsOf, Bool.eq_iff_iff, decide_eq_true_iff, List.length_pos_iff_exists_mem, List.any_eq_true]
  simp only [List.mem_filter]

theorem AcqSt.nextFramed_frame (q : AcqSt) : q.nextFramed.frame = q.frame + 1 ∧ q.nextFramed.flit = q.flit := by
  simp only [AcqSt.nextFramed, AcqSt.boundary]
  split <;> exact ⟨rfl, rfl⟩

theorem AcqSt.nextFramed_gain {q : AcqSt} {g : Nat} (h : q.gainNext = some g) : q.nextFramed.gain = g ∧
    q.nextFramed.settling = true ∧ q.nextFramed.settleLeft = 7 ∧ q.nextFramed.gainNext = none := by
  simp only [AcqSt.nextFramed, AcqSt.boundary, h]
  exact ⟨trivial, trivial, trivial, trivial⟩

theorem AcqSt.nextFramed_same {q : AcqSt} (h : q.gainNext = none) :
    q.nextFramed.gain = q.gain ∧ q.nextFramed.settleLeft = q.settleLeft - 1 := by
  simp only [AcqSt.nextFramed, AcqSt.boundary, h]
  exact ⟨trivial, trivial⟩

theorem execStreamFrame_acq {a : ADie} {s : State} (hdie : s.hasA a = true)
    (hcounting : (s.acqSt a).counting = true) (f : ConvFrame) : execStreamFrame a f s = .next (acqFrame a f s) := by
  have hpart : s.part ≠ .s2d := fun h => by
    simp [State.hasA, h, Part.aDies] at hdie
  rw [execStreamFrame, if_neg hpart, hdie, hcounting]
  rfl

/-! The samples of the lanes (R76). -/

theorem jesdSamples_length (s : State) (lanes : List (List Byte)) : (jesdSamples s lanes).length = 32 := by
  rw [jesdSamples, List.length_map, List.length_range]

/-- The samples `xs` arrive from sample `j` on. -/
def samplesPut (inp j : Nat) (xs : List (Int × Int)) (s : State) : State :=
  xs.zipIdx.foldl (fun s x => s.putSample inp (j + x.2) x.1) s

theorem samplesPut_jrx (inp j : Nat) (xs : List (Int × Int)) (s : State) : (samplesPut inp j xs s).jrx = s.jrx := by
  rw [samplesPut]
  refine foldl_keeps State.jrx _ (fun u x => ?_) _ s
  rfl

theorem samplesPut_streamSample (inp j : Nat) (xs : List (Int × Int)) (s : State) {k : Nat} (hk : k < xs.length) :
    (samplesPut inp j xs s).streamSample inp (j + k) = xs[k] := by
  have hstream : (samplesPut inp j xs s).stream =
      xs.zipIdx.foldl (fun m x => tset noPair m (streamKey inp (j + x.2)) x.1) s.stream :=
    (List.foldl_hom State.stream fun _ _ => rfl).symm
  rw [State.streamSample, hstream]
  exact tget_foldl_zipIdx noPair (streamKey_injective inp j) id xs s.stream hk

/-- The place of the first of them does not move while they arrive. -/
theorem putSample_foldl_next (xs : List ((Int × Int) × Nat)) (s : State) :
    xs.foldl (fun s x => s.putSample 0 (s.jrx.next + x.2) x.1) s =
      xs.foldl (fun u x => u.putSample 0 (s.jrx.next + x.2) x.1) s := by
  induction xs generalizing s with
  | nil => rfl
  | cons x xs ih =>
    rw [List.foldl_cons, List.foldl_cons, ih]
    rfl

/-- The state with the 32 samples `xs`, before the resampler takes them. -/
def lanesTaken (xs : List (Int × Int)) (s : State) : State :=
  let u := samplesPut 0 s.jrx.next xs s
  { u with jrx := { u.jrx with next := u.jrx.next + 32 } }

/-- The samples that come over the lanes, once they have released and while they are aligned. -/
theorem execStreamFrame_jrx {s : State} (hpart : s.part = .s2d) (hready : s.on (jrxB 0) R.JRX_STATUS_READY = true)
    (hlost : s.jrx.lostFrom = none) (a : ADie) (f : ConvFrame) :
    execStreamFrame a f s = .next (rsAdvance 0 (lanesTaken (jesdSamples s f.lanes) s)) := by
  have hgo : (s.on (jrxB 0) R.JRX_STATUS_READY && s.jrx.lostFrom.isNone) = true := by
    rw [hready, hlost]
    rfl
  rw [execStreamFrame, if_pos hpart]
  unfold jrxFrame
  generalize jesdSamples s = samples
  rw [if_pos hgo, putSample_foldl_next]
  rfl

theorem lanesTaken_next (xs : List (Int × Int)) (s : State) : (lanesTaken xs s).jrx.next = s.jrx.next + 32 :=
  congrArg (fun q : JrxSt => q.next + 32) (samplesPut_jrx 0 s.jrx.next xs s)

theorem lanesTaken_streamSample (xs : List (Int × Int)) (s : State) {k : Nat} (hk : k < xs.length) :
    (lanesTaken xs s).streamSample 0 (s.jrx.next + k) = xs[k] := by
  rw [← samplesPut_streamSample 0 s.jrx.next xs s hk, State.streamSample, State.streamSample, lanesTaken]

/-- What the resampler leaves of the input's stream. -/
theorem rsAdvance_stream (u : State) :
    (rsAdvance 0 u).jrx = u.jrx ∧ ∀ j, (rsAdvance 0 u).streamSample 0 j = u.streamSample 0 j :=
  ⟨rsAdvance_keeps State.jrx (fun _ => rfl) 0 u,
    fun j => rsAdvance_keeps (fun s => s.streamSample 0 j) (fun _ => rfl) 0 u⟩

end Sys2Proof.Machine
end

section
/-! PROOFS. The enable and the disable of a stream, the factory trims, the delays and the shown estimates (R64 to R67,
R74, R672), and the statement of the stream's rows. -/

namespace Sys2Proof.Machine

/-! ACQ_ENABLE (R64, R66, R672). -/

theorem execAcqEnable_usable {a : ADie} {s : State} (h : s.usableA a = true) :
    execAcqEnable a s = .next (acqEnable a s) := by
  rw [execAcqEnable, if_pos h]

/-- EN is 1. -/
def enableShown (a : Nat) (s : State) : State :=
  (s.modAcq a fun q => { q with enabled := true }).wr (acqB a) R.ACQ_CTRL_EN 1

/-- The stream starts with the next frame, if frames are counted. -/
def enableStarted (a : Nat) (s : State) : State :=
  if (s.acqSt a).counting then startStreamAt a ((s.acqSt a).frame + 1) (enableShown a s) else enableShown a s

theorem acqSt_enableShown (a : Nat) (s : State) : (enableShown a s).acqSt a = { s.acqSt a with enabled := true } := by
  rw [enableShown, State.acqSt_wr, State.acqSt_modAcq]

theorem acqEnable_eq {a : Nat} {s : State} (h : (s.acqSt a).enabled = false) :
    acqEnable a s = calOn a (enableStarted a s) := by
  have hrecord := acqSt_enableShown a s
  rw [acqEnable, if_neg (ne_true_of_eq_false h)]
  change calOn a (if ((enableShown a s).acqSt a).counting = true
    then startStreamAt a (((enableShown a s).acqSt a).frame + 1) (enableShown a s) else enableShown a s) = _
  rw [hrecord]
  rfl

theorem acqSt_startStreamAt (a k : Nat) (s : State) : (startStreamAt a k s).acqSt a =
    { s.acqSt a with spans := (k, .none) :: (s.acqSt a).spans, subStart := k } := by
  rw [startStreamAt, State.acqSt_of_acqSide (streamStart_acqSide _ _ _), State.acqSt_wrs, State.acqSt_modAcq]

theorem rd_startStreamAt {f : Fld} (a : ADie) (k : Nat) (s : State) (hf : f.off < 0x100000) :
    (startStreamAt a k s).rd (acqB a) f =
      (s.wrs (acqB a) [(R.ACQ_STATUS_STREAM, 1), (R.ACQ_STATUS_UNCAL, 1)]).rd (acqB a) f := by
  rw [startStreamAt, State.rd_of_acqSide (streamStart_acqSide _ _ _) a f hf]
  exact State.rd_congr (by simp only [State.wrs, State.wr, State.setReg, State.reg, State.modAcq_regs]) _ _

theorem acqSt_enableStarted (a : Nat) (s : State) : ((enableStarted a s).acqSt a).enabled = true ∧
    ((enableStarted a s).acqSt a).frozen = (s.acqSt a).frozen ∧
    ((s.acqSt a).counting = true →
      ((enableStarted a s).acqSt a).spans = ((s.acqSt a).frame + 1, none) :: (s.acqSt a).spans) := by
  rw [enableStarted]
  split
  · rw [acqSt_startStreamAt, acqSt_enableShown]
    exact ⟨rfl, rfl, fun _ => rfl⟩
  · next hidle =>
    rw [acqSt_enableShown]
    exact ⟨rfl, rfl, fun hcounting => absurd hcounting hidle⟩

/-- The fields that a start of the stream does not bear on. -/
theorem rd_enableStarted {f : Fld} (hen : R.ACQ_CTRL_EN.apart f = true) (hstream : R.ACQ_STATUS_STREAM.apart f = true)
    (huncal : R.ACQ_STATUS_UNCAL.apart f = true) (hf : f.off < 0x100000) (a : ADie) (s : State) :
    (enableStarted a s).rd (acqB a) f = s.rd (acqB a) f := by
  have hshown : (enableShown a s).rd (acqB a) f = s.rd (acqB a) f := by
    rw [enableShown, State.rd_wr_of_apart _ _ _ (by decide) hen, State.rd_modAcq]
  rw [enableStarted]
  split
  · rw [rd_startStreamAt a _ _ hf, ← hshown]
    simp only [State.wrs]
    rw [State.rd_wr_of_apart _ _ _ (by decide) huncal, State.rd_wr_of_apart _ _ _ (by decide) hstream]
  · exact hshown

theorem enableStarted_en (a : ADie) (s : State) : (enableStarted a s).rd (acqB a) R.ACQ_CTRL_EN = 1 := by
  have hshown : (enableShown a s).rd (acqB a) R.ACQ_CTRL_EN = 1 := by
    rw [enableShown, State.rd_wr_same _ _ _ _ (by decide)]
    rfl
  rw [enableStarted]
  split
  · rw [rd_startStreamAt a _ _ (by decide), ← hshown]
    simp (disch := decide) only [State.wrs, State.rd_wr_of_apart]
  · exact hshown

theorem enableStarted_stream {a : ADie} {s : State} (h : (s.acqSt a).counting = true) :
    (enableStarted a s).rd (acqB a) R.ACQ_STATUS_STREAM = 1 ∧
      (enableStarted a s).rd (acqB a) R.ACQ_STATUS_UNCAL = 1 := by
  rw [enableStarted, if_pos h, rd_startStreamAt a _ _ (by decide), rd_startStreamAt a _ _ (by decide)]
  simp (disch := decide) only [State.wrs, State.rd_wr_of_apart, State.rd_wr_same]
  exact ⟨rfl, rfl⟩

/-- A start of the calibration leaves the enable and the stream alone. -/
theorem acqSt_calOn (a : Nat) (s : State) : ((calOn a s).acqSt a).enabled = (s.acqSt a).enabled ∧
    ((calOn a s).acqSt a).spans = (s.acqSt a).spans := by
  have hcause : ∀ u : State, ((calCause a 0 u).acqSt a).enabled = (u.acqSt a).enabled ∧
      ((calCause a 0 u).acqSt a).spans = (u.acqSt a).spans := fun u => by
    simp only [calCause]
    split_ifs <;> simp [acqSt_setRerun, acqSt_startRun]
  unfold calOn
  split
  · rw [acqSt_calOff]
    exact ⟨rfl, rfl⟩
  · rw [acqSt_enterIdle]
    exact ⟨rfl, rfl⟩
  · obtain ⟨henabled, hspans⟩ := hcause (enterIdle a s)
    rw [henabled, hspans, acqSt_enterIdle]
    exact ⟨rfl, rfl⟩

/-- A calibration that is OFF. -/
theorem calOn_off {a : Nat} {s : State} (h : s.calMode a = 0) : calOn a s = calOff a s := by
  simp only [calOn, h]

/-! ACQ_DISABLE (R65, R672). -/

theorem execAcqDisable_present {a : ADie} {s : State} (h : s.hasA a = true) :
    execAcqDisable a s = .next (acqDisable a s) := by
  rw [execAcqDisable, if_pos h]

/-- EN is 0, and the calibration is OFF. -/
def disableShown (a : Nat) (s : State) : State :=
  calOff a (((s.modAcq a fun q => { q with
    enabled := false, spans := q.spans.map fun e => (e.1, some (e.2.getD q.frame)) }).wr (acqB a) R.ACQ_CTRL_EN 0).wr
    (acqB a) R.ACQ_STATUS_STREAM 0)

/-- What the stop of the stream in the transform dies leaves. -/
theorem acqDisable_acqSide {a : Nat} {s : State} (h : (s.acqSt a).enabled = true) :
    (acqDisable a s).acqSide = (disableShown a s).acqSide := by
  simp only [acqDisable, h, if_true]
  split
  · exact streamStop_acqSide _ _ _
  · rfl

theorem acqSt_disableShown (a : Nat) (s : State) : ((disableShown a s).acqSt a).enabled = false ∧
    ((disableShown a s).acqSt a).phase = .off ∧ ((disableShown a s).acqSt a).step = .none ∧
    ((disableShown a s).acqSt a).spans =
      (s.acqSt a).spans.map fun e => (e.1, some (e.2.getD (s.acqSt a).frame)) := by
  rw [disableShown, acqSt_calOff, State.acqSt_wr, State.acqSt_wr, State.acqSt_modAcq]
  exact ⟨rfl, rfl, rfl, rfl⟩

theorem rd_disableShown (a : Nat) (s : State) : (disableShown a s).rd (acqB a) R.ACQ_CTRL_EN = 0 ∧
    (disableShown a s).rd (acqB a) R.ACQ_STATUS_STREAM = 0 := by
  rw [disableShown, rd_calOff (Fld.clearOf_same (by decide)), rd_calOff (Fld.clearOf_same (by decide)),
    State.rd_wr_of_apart _ _ _ (by decide) (by decide), State.rd_wr_same _ _ _ _ (by decide),
    State.rd_wr_same _ _ _ _ (by decide)]
  exact ⟨rfl, rfl⟩

/-- The registers of a sub-converter lie below the windows of the transform dies. -/
theorem State.trim_of_acqSide {s t : State} (h : t.acqSide = s.acqSide) (a : ADie) (n : Fin 65) (i : Nat) :
    t.trim a n i = s.trim a n i := by
  have ha := a.isLt
  have hn := n.isLt
  have hrow := trimFld_row i
  have hbelow : scB a n + (trimFld i).1.off < tB 0 := by
    simp only [scB, acqB, tB]
    omega
  have hreg : t.reg (scB a n + (trimFld i).1.off) = s.reg (scB a n + (trimFld i).1.off) :=
    congrFun (congrArg Prod.snd h) ⟨_, hbelow⟩
  apply State.trim_congr
  rw [State.rd, State.rd, hreg]

theorem trim_disableShown (a n i : Nat) (s : State) : (disableShown a s).trim a n i = s.trim a n i := by
  rw [disableShown, State.trim_congr (rd_calOff (clearOf_runFlds_sc (trimFld_off_ge i)) _),
    trim_wr_acq (by decide), trim_wr_acq (by decide), trim_modAcq]

/-! The other settings. -/

theorem execGainSettleEnd_ends {a : ADie} {s : State} (hsettling : (s.acqSt a).settling = true)
    (hleft : (s.acqSt a).settleLeft = 0) :
    execGainSettleEnd a s = .next (s.modAcq a fun q => { q with settling := false }) := by
  have hover : ((s.acqSt a).settling && (s.acqSt a).settleLeft == 0) = true := by simp [hsettling, hleft]
  simp only [execGainSettleEnd, hover, if_true]

/-- The factory trims of sub-converter `n` at die temperature `temp` (R66). -/
def AcqSt.factoryTrims (q : AcqSt) (temp : Rat) (n : Nat) : Int × Int × Int :=
  let lo := tget (fun _ => ({} : Trims)) q.fact25 n
  let hi := tget (fun _ => ({} : Trims)) q.fact85 n
  (factoryTrim lo.ofs hi.ofs temp, factoryTrim lo.gain hi.gain temp, factoryTrim lo.skew hi.skew temp)

theorem execFactoryTrimLoad_usable {a : ADie} {s : State} (h : s.usableA a = true) (temp : Rat) :
    execFactoryTrimLoad a temp s = .next
      ((List.range 65).foldl (fun u n => setTrims a n ((s.acqSt a).factoryTrims temp n) u) s) := by
  have hgo : ¬ (!s.usableA a) = true := by simp [h]
  rw [execFactoryTrimLoad]
  exact if_neg hgo

/-- The trims of sub-converter `n` once all have been set. -/
theorem trim_setTrims_foldl (a : Nat) (v : Nat → Int × Int × Int) (ns : List Nat) (s : State) {n : Nat} (hn : n ∈ ns) :
    (ns.foldl (fun u n => setTrims a n (v n) u) s).trim a n 0 = clampI (-512) 511 (v n).1 ∧
      (ns.foldl (fun u n => setTrims a n (v n) u) s).trim a n 1 = clampI (-512) 511 (v n).2.1 ∧
      (ns.foldl (fun u n => setTrims a n (v n) u) s).trim a n 2 = clampI (-63) 63 (v n).2.2 := by
  have hset := foldl_sets (fun (u : State) n => (u.trim a n 0, u.trim a n 1, u.trim a n 2))
    (fun n => (clampI (-512) 511 (v n).1, clampI (-512) 511 (v n).2.1, clampI (-63) 63 (v n).2.2))
    (f := fun u n => setTrims a n (v n) u)
    (fun u n => by
      obtain ⟨hofs, hgain, hskew⟩ := trim_setTrims_same a n (v n) u
      rw [hofs, hgain, hskew])
    (fun u m n hne => by
      rw [trim_setTrims_other hne, trim_setTrims_other hne, trim_setTrims_other hne])
    ns s hn
  obtain ⟨hofs, hrest⟩ := Prod.mk.inj hset
  obtain ⟨hgain, hskew⟩ := Prod.mk.inj hrest
  exact ⟨hofs, hgain, hskew⟩

theorem execAcqDelayMeasure_present {a : ADie} {s : State} (h : s.hasA a = true) (v : BitVec 16) :
    execAcqDelayMeasure a v s = .next (delayTotal a (s.wr (acqB a) R.ACQ_DELAY_MEAS_DELAY v.toNat)) := by
  rw [execAcqDelayMeasure, if_pos h]

/-- A two's complement field lies in its range. -/
theorem State.rdI_bounds (s : State) (b : Nat) {f : Fld} {w : Nat} (hf : f.w = w) (hw : 0 < w) :
    -(2 ^ w : Int) ≤ 2 * s.rdI b f ∧ 2 * s.rdI b f < 2 ^ w := by
  rw [State.rdI, hf, sx_eq_toInt hw]
  exact ⟨BitVec.le_two_mul_toInt, BitVec.two_mul_toInt_lt⟩

theorem delayTotal_total (a : Nat) (s : State) : (delayTotal a s).rdI (acqB a) R.ACQ_DELAY_TOTAL_DELAY =
    s.rdI (acqB a) R.ACQ_DELAY_FACT_DELAY + s.rdI (acqB a) R.ACQ_DELAY_MEAS_DELAY +
      s.rdI (acqB a) R.ACQ_DELAY_BOARD_DELAY := by
  have hfact := s.rdI_bounds (acqB a) (f := R.ACQ_DELAY_FACT_DELAY) (w := 16) rfl (by decide)
  have hmeas := s.rdI_bounds (acqB a) (f := R.ACQ_DELAY_MEAS_DELAY) (w := 16) rfl (by decide)
  have hboard := s.rdI_bounds (acqB a) (f := R.ACQ_DELAY_BOARD_DELAY) (w := 24) rfl (by decide)
  have htotal : R.ACQ_DELAY_TOTAL_DELAY.w = 26 := rfl
  refine State.rdI_wrI_same _ _ _ _ (by decide) (by decide) ?_ ?_ <;>
  · rw [htotal]
    omega

/-- The measured delay as the write shows it. -/
theorem rd_delayMeas (b : Nat) (v : BitVec 16) (s : State) :
    (s.wr b R.ACQ_DELAY_MEAS_DELAY v.toNat).rd b R.ACQ_DELAY_MEAS_DELAY = v.toNat :=
  (State.rd_wr_same s _ _ _ (by decide)).trans (Nat.mod_eq_of_lt v.isLt)

theorem execEstSelWrite_present {a : ADie} {s : State} (h : s.hasA a = true) (slot : Fin 64) :
    execEstSelWrite a slot s = .next (estSnapshot a (s.wr (acqB a) R.EST_SEL_SLOT slot)) := by
  rw [execEstSelWrite, if_pos h]

/-- A shown estimate, held at the ends of its field (R74). -/
def held16 (v : Int) : Int := clampI (-32768) 32767 v

theorem rdI_wrI_held {f : Fld} (hfit : f.lo + f.w ≤ 32) (hw : f.w = 16) (s : State) (b : Nat) (v : Int) :
    (s.wrI b f (held16 v)).rdI b f = held16 v := by
  obtain ⟨hmin, hmax⟩ := clampI_mem (lo := -32768) (hi := 32767) (by decide) v
  refine State.rdI_wrI_same s b f _ hfit (by omega) ?_ ?_ <;>
  · rw [hw, held16]
    omega

theorem estSnapshot_shows (a : Nat) (s : State) {e : Est}
    (he : tget (fun _ => ({} : Est)) (s.acqSt a).est (s.rd (acqB a) R.EST_SEL_SLOT) = e) :
    (estSnapshot a s).rd (acqB a) R.EST_SEL_SLOT = s.rd (acqB a) R.EST_SEL_SLOT ∧
      (estSnapshot a s).rdI (acqB a) R.EST_OFS_OFS = held16 (roundRat (e.ofs * 256)) ∧
      (estSnapshot a s).rdI (acqB a) R.EST_GAIN_GAIN = held16 (logRound e.ratio 100000 20) ∧
      (estSnapshot a s).rdI (acqB a) R.EST_SKEW_SKEW = held16 (roundRat e.skew) := by
  have hshown : estSnapshot a s = ((s.wrI (acqB a) R.EST_OFS_OFS (held16 (roundRat (e.ofs * 256)))).wrI (acqB a)
      R.EST_GAIN_GAIN (held16 (logRound e.ratio 100000 20))).wrI (acqB a) R.EST_SKEW_SKEW
      (held16 (roundRat e.skew)) := by
    rw [← he]
    rfl
  rw [hshown]
  refine ⟨?_, ?_, ?_, rdI_wrI_held (by decide) rfl _ _ _⟩
  · simp (disch := decide) only [State.wrI, State.rd_wr_of_apart]
  · refine (State.rdI_congr ?_).trans (rdI_wrI_held (f := R.EST_OFS_OFS) (by decide) rfl s (acqB a) _)
    simp (disch := decide) only [State.wrI, State.rd_wr_of_apart]
  · refine (State.rdI_congr ?_).trans (rdI_wrI_held (f := R.EST_GAIN_GAIN) (by decide) rfl
      (s.wrI (acqB a) R.EST_OFS_OFS (held16 (roundRat (e.ofs * 256)))) (acqB a) _)
    simp (disch := decide) only [State.wrI, State.rd_wr_of_apart]

/-! The statement. -/

/-- Settles O15: the answer of each row written out, with the record, the registers, the trims and the samples that it
leaves. -/
theorem streamRowsComplete : Obligations.StreamRowsComplete := by
  unfold Obligations.StreamRowsComplete
  refine ⟨fun a f s hdie hcounting => ?_, fun a f s hpart hready hlost => ?_, fun a s husable hoff => ?_,
    fun a s hdie hon => ?_, fun a code s hdie => ?_, fun a s hsettling hleft => ?_, fun a temp s husable => ?_,
    fun a v s hdie => ?_, fun a slot s hdie => ?_⟩
  · obtain ⟨hrecord, hregs, hcodes⟩ := acqFrame_leaves a f s
    obtain ⟨flit, hsent⟩ := acqSt_frameSent f s a
    obtain ⟨hframe, hflit⟩ := AcqSt.nextFramed_frame ((frameSent a f s).acqSt a)
    refine ⟨_, execStreamFrame_acq hdie hcounting f, ?_, fun k => ?_, fun g hg => ?_, fun hnone => ?_,
      fun hstream => ?_⟩
    · rw [hrecord, hframe, hsent]
    · rw [State.code_congr (hcodes.trans (frameSent_codes f s a)), takeCodes_code]
    · rw [hrecord]
      exact AcqSt.nextFramed_gain (by rw [hsent]; exact hg)
    · obtain ⟨hgain, hleft⟩ := AcqSt.nextFramed_same (q := (frameSent a f s).acqSt a) (by rw [hsent]; exact hnone)
      rw [hrecord, hgain, hleft, hsent]
      exact ⟨rfl, rfl⟩
    · obtain ⟨hcount, hbits⟩ := frameSent_stream hstream f
      rw [hregs _ (by decide), hcount, hrecord, hflit, hbits, frameBits, overloads_any]
      exact ⟨rfl, rfl⟩
  · obtain ⟨hjrx, hstream⟩ := rsAdvance_stream (lanesTaken (jesdSamples s f.lanes) s)
    refine ⟨_, execStreamFrame_jrx hpart hready hlost a f, by rw [hjrx, lanesTaken_next], fun k => ?_⟩
    have hk : k.val < (jesdSamples s f.lanes).length := by
      rw [jesdSamples_length]
      exact k.isLt
    rw [List.getElem?_eq_getElem hk, Option.getD_some, hstream]
    exact lanesTaken_streamSample _ s hk
  · obtain ⟨henabled, hfrozenKept, hspans⟩ := acqSt_enableStarted a s
    obtain ⟨henabledOn, hspansOn⟩ := acqSt_calOn a (enableStarted a s)
    have hmode : (enableStarted a s).calMode a = s.calMode a :=
      State.calMode_congr (rd_enableStarted (by decide) (by decide) (by decide) (by decide) a s)
    have hhold : (enableStarted a s).calHold a = s.calHold a :=
      State.calHold_congr (rd_enableStarted (by decide) (by decide) (by decide) (by decide) a s)
    refine ⟨_, execAcqEnable_usable husable, ?_⟩
    rw [acqEnable_eq hoff]
    refine ⟨henabledOn.trans henabled, State.on_of_rd_one ?_, fun hcounting => ?_, fun hmode0 => ?_, fun hmode1 => ?_,
      fun hmode2 hfrozen hholds => ?_⟩
    · rw [rd_calOn (Fld.clearOf_same (by decide)), enableStarted_en]
    · obtain ⟨hstream, huncal⟩ := enableStarted_stream hcounting
      refine ⟨hspansOn.trans (hspans hcounting), State.on_of_rd_one ?_, State.on_of_rd_one ?_⟩
      · rw [rd_calOn (Fld.clearOf_same (by decide)), hstream]
      · rw [rd_calOn (Fld.clearOf_same (by decide)), huncal]
    · rw [calOn_off (hmode.trans hmode0), acqSt_calOff]
    · rw [calOn_verify (hmode.trans hmode1), acqSt_enterIdle]
    · rw [calOn_auto (hmode.trans hmode2) henabled (hfrozenKept.trans hfrozen) (hhold.trans hholds), acqSt_startRun]
      exact ⟨rfl, rd_startRun_cause _ _ _⟩
  · obtain ⟨henabled, hphase, hstep, hspans⟩ := acqSt_disableShown a s
    obtain ⟨hen, hstream⟩ := rd_disableShown a s
    have hside := acqDisable_acqSide (a := a) hon
    refine ⟨_, execAcqDisable_present hdie, ?_⟩
    rw [State.acqSt_of_acqSide hside]
    refine ⟨henabled, State.on_of_rd_zero ?_, State.on_of_rd_zero ?_, hphase, hstep, hspans, fun n i => ?_⟩
    · rw [State.rd_of_acqSide hside a _ (by decide), hen]
    · rw [State.rd_of_acqSide hside a _ (by decide), hstream]
    · rw [State.trim_of_acqSide hside, trim_disableShown]
  · refine ⟨_, execGainWrite_present hdie code, ?_, ?_, ?_, fun hcode => gainWritten_clamp (by rwa [rd_gain])⟩
    · rw [gainWritten_gain, rd_gain]
    · rw [acqSt_gainWritten, rd_gain, State.acqSt_wr]
    · rw [acqSt_gainWritten, State.acqSt_wr]
  · refine ⟨_, execGainSettleEnd_ends hsettling hleft, ?_⟩
    rw [State.acqSt_modAcq]
    exact ⟨rfl, rfl, rfl⟩
  · exact ⟨_, execFactoryTrimLoad_usable husable temp, fun n =>
      trim_setTrims_foldl a ((s.acqSt a).factoryTrims temp) (List.range 65) s (List.mem_range.mpr n.isLt)⟩
  · refine ⟨_, execAcqDelayMeasure_present hdie v, ?_, ?_⟩
    · rw [delayTotal, State.wrI, State.rd_wr_of_apart _ _ _ (by decide) (by decide), rd_delayMeas]
    · have hmeas : (s.wr (acqB a) R.ACQ_DELAY_MEAS_DELAY v.toNat).rdI (acqB a) R.ACQ_DELAY_MEAS_DELAY = v.toInt := by
        rw [State.rdI, rd_delayMeas]
        exact sx_toNat (by decide) v
      rw [delayTotal_total, hmeas, State.rdI_congr (State.rd_wr_of_apart s _ _ (by decide) (by decide)),
        State.rdI_congr (State.rd_wr_of_apart s _ _ (by decide) (by decide))]
  · have hslot : (s.wr (acqB a) R.EST_SEL_SLOT slot).rd (acqB a) R.EST_SEL_SLOT = slot.val :=
      (State.rd_wr_same s _ _ _ (by decide)).trans (Nat.mod_eq_of_lt slot.isLt)
    obtain ⟨hsel, hofs, hgain, hskew⟩ := estSnapshot_shows a (s.wr (acqB a) R.EST_SEL_SLOT slot) (by
      rw [hslot, State.acqSt_wr])
    exact ⟨_, execEstSelWrite_present hdie slot, hsel.trans hslot, hofs, hgain, hskew⟩

end Sys2Proof.Machine
end

section
/-! PROOFS. What the blocks that take spectra leave of the wide-band transform (R133, R195, R206). `State.wbCore` is what
the transform's rows keep across detection, averaging and the release in index order; `State.wbSide` adds the records and
the items, which the trigger conditions, the change-only records and the density engine do not touch either. -/

namespace Sys2Proof.Machine

/-! The pages of the transform dies' windows (R632). -/

/-- Address `x` lies in page `p` of a transform die's window: that of its block WB is page 1, of REC page 3. -/
def onPage (p x : Nat) : Prop := tB 0 ≤ x ∧ (x - tB 0) % 0x2000000 / 0x10000 = p

/-- Outside page `p` of every transform die. -/
abbrev offPage (p x : Nat) : Prop := ¬ onPage p x

theorem onPage_iff {p t k o : Nat} (hk : k < 16) (ho : o < 0x10000) : onPage p (tB t + k * 0x10000 + o) ↔ k = p := by
  have hle : tB 0 ≤ tB t + k * 0x10000 + o := by simp only [tB]; omega
  have hpage : (tB t + k * 0x10000 + o - tB 0) % 0x2000000 / 0x10000 = k := by simp only [tB]; omega
  rw [onPage, hpage]
  exact and_iff_right hle

theorem covers_page {p t k : Nat} (hk : k < 16) (hne : k ≠ p) : Covers (offPage p) (tB t + k * 0x10000) :=
  fun _ ho => mt (onPage_iff hk ho).mp hne

@[simp] theorem covers_trgB (t : Nat) : Covers (offPage 1) (trgB t) := covers_page (k := 2) (by decide) (by decide)

@[simp] theorem covers_recB (t : Nat) : Covers (offPage 1) (recB t) := covers_page (k := 3) (by decide) (by decide)

@[simp] theorem covers_densB (t : Nat) : Covers (offPage 1) (densB t) := covers_page (k := 4) (by decide) (by decide)

@[simp] theorem coversPair_densB (l : Nat) : CoversPair (offPage 1) densB l := ⟨covers_densB l, covers_densB _⟩

/-- The registers of a die's conditions lie in its block TRG. -/
@[simp] theorem covers_condB (l c : Nat) : Covers (offPage 1) (condB l c) := by
  rintro o ho ⟨-, hpage⟩
  simp only [condB, trgB, tB] at hpage
  omega

/-- Table place `k` is an entry of a user window. -/
def onWtab (k : Nat) : Prop := k % 0x100000 < 0x10000

/-! What is kept. -/

/-- An input's wide-band record without what its detector, its averager and the release in index order hold. -/
def WbSt.setting (w : WbSt) : WbSt :=
  { w with
    relIdx := 0, detLead := {}, detPartner := {}, parts := [], trace := {}, incomplete := [], detOut := [], auto := [] }

/-- What the wide-band rows keep while spectra are detected, averaged and released. -/
@[ext] structure WbCore where
  wb : Nat → WbSt
  live : Tbl Word
  tabL : Tbl Word
  reg : {x // onPage 1 x ∧ x % 0x10000 ≠ R.WB_PARTIAL_COUNT} → Word
  force : {x // onPage 1 x} → Word
  tabF : {k // onWtab k} → Word

def State.wbCore (s : State) : WbCore where
  wb l := (s.wbSt l).setting
  live := s.live
  tabL := s.tabL
  reg x := s.reg x
  force x := s.forceReg x
  tabF k := tget tabReset s.tabF k

/-- The wide-band transform's part of a state: what its rows keep, its records, and the items sent. -/
def State.wbSide (s : State) : WbCore × Tbl WbSt × List (Nat × List Byte) := (s.wbCore, s.wb, s.items)

section
variable {s t : State}

theorem State.wbSide_wbCore (h : t.wbSide = s.wbSide) : t.wbCore = s.wbCore := congrArg Prod.fst h

theorem State.wbSide_wb (h : t.wbSide = s.wbSide) : t.wb = s.wb := congrArg (·.2.1) h

theorem State.wbSide_items (h : t.wbSide = s.wbSide) : t.items = s.items := congrArg (·.2.2) h

theorem State.wbSt_of_wbSide (h : t.wbSide = s.wbSide) (l : Nat) : t.wbSt l = s.wbSt l := by
  rw [State.wbSt, State.wbSt, State.wbSide_wb h]

theorem State.setting_of_wbCore (h : t.wbCore = s.wbCore) (l : Nat) : (t.wbSt l).setting = (s.wbSt l).setting :=
  congrFun (congrArg WbCore.wb h) l

/-- The registers of a block WB, but for the count of short closings. -/
theorem State.reg_of_wbCore (h : t.wbCore = s.wbCore) (d : Nat) {o : Nat} (ho : o < 0x10000)
    (hpartial : o ≠ R.WB_PARTIAL_COUNT) : t.reg (wbB d + o) = s.reg (wbB d + o) :=
  congrFun (congrArg WbCore.reg h) ⟨wbB d + o, (onPage_iff (k := 1) (by decide) ho).mpr rfl, by
    simp only [wbB, tB]
    omega⟩

theorem State.rd_of_wbCore (h : t.wbCore = s.wbCore) (d : Nat) {f : Fld} (hf : f.off < 0x10000)
    (hpartial : f.off ≠ R.WB_PARTIAL_COUNT) : t.rd (wbB d) f = s.rd (wbB d) f := by
  rw [State.rd, State.rd, State.reg_of_wbCore h d hf hpartial]

theorem State.forceReg_of_wbCore (h : t.wbCore = s.wbCore) (d : Nat) {o : Nat} (ho : o < 0x10000) :
    t.forceReg (wbB d + o) = s.forceReg (wbB d + o) :=
  congrFun (congrArg WbCore.force h) ⟨wbB d + o, (onPage_iff (k := 1) (by decide) ho).mpr rfl⟩

theorem State.rdF_of_wbCore (h : t.wbCore = s.wbCore) (d : Nat) {f : Fld} (hf : f.off < 0x10000) :
    t.rdF (wbB d) f = s.rdF (wbB d) f := by
  rw [State.rdF, State.rdF, State.forceReg_of_wbCore h d hf]

theorem onWtab_key (d : Nat) (k : Fin 65536) : onWtab (wtabKey d k) := by
  have := k.isLt
  simp only [onWtab, wtabKey]
  omega

theorem State.tabF_of_wbCore (h : t.wbCore = s.wbCore) (d : Nat) (k : Fin 65536) :
    tget tabReset t.tabF (wtabKey d k) = tget tabReset s.tabF (wtabKey d k) :=
  congrFun (congrArg WbCore.tabF h) ⟨_, onWtab_key d k⟩

end

/-- What `wbSide` shows, field by field. -/
theorem State.wbSide_ext {s t : State} (hwb : t.wb = s.wb) (hitems : t.items = s.items) (hlive : t.live = s.live)
    (htabL : t.tabL = s.tabL) (hreg : ∀ x, onPage 1 x → t.reg x = s.reg x)
    (hforce : ∀ x, onPage 1 x → t.forceReg x = s.forceReg x)
    (htabF : ∀ k, onWtab k → tget tabReset t.tabF k = tget tabReset s.tabF k) : t.wbSide = s.wbSide := by
  refine Prod.ext (WbCore.ext (funext fun l => ?_) hlive htabL (funext fun x => hreg _ x.2.1)
    (funext fun x => hforce _ x.2) (funext fun k => htabF _ k.2)) (Prod.ext hwb hitems)
  show (t.wbSt l).setting = (s.wbSt l).setting
  rw [State.wbSt, State.wbSt, hwb]

/-! Updates of other parts, and writes outside the blocks WB. -/

/-- An update of parts that the takers of spectra hold. -/
@[simp] theorem State.wbSide_mk (s : State) (cap : List Host.Cell) (trg : Tbl TrgSt) (recs : Tbl RecSt)
    (dens : Tbl DensSt) : ({ s with cap, trg, recs, dens } : State).wbSide = s.wbSide :=
  Prod.ext rfl rfl

@[simp] theorem State.wbSide_ite (c : Prop) [Decidable c] (s t : State) :
    (if c then s else t).wbSide = if c then s.wbSide else t.wbSide := apply_ite _ _ _ _

@[simp] theorem State.wbSide_foldl {β : Type} (f : State → β → State) (xs : List β) (s : State)
    (h : ∀ s b, (f s b).wbSide = s.wbSide) : (xs.foldl f s).wbSide = s.wbSide :=
  foldl_keeps State.wbSide f h xs s

@[simp] theorem State.modTrg_wbSide (s : State) (l : Nat) (f : TrgSt → TrgSt) : (s.modTrg l f).wbSide = s.wbSide :=
  Prod.ext rfl rfl

@[simp] theorem State.modRec_wbSide (s : State) (l : Nat) (f : RecSt → RecSt) : (s.modRec l f).wbSide = s.wbSide :=
  Prod.ext rfl rfl

@[simp] theorem State.modCo_wbSide (s : State) (l : Nat) (f : CoSt → CoSt) : (s.modCo l f).wbSide = s.wbSide :=
  Prod.ext rfl rfl

@[simp] theorem State.modDens_wbSide (s : State) (l : Nat) (f : DensSt → DensSt) :
    (s.modDens l f).wbSide = s.wbSide :=
  Prod.ext rfl rfl

@[simp] theorem State.setBytes_wbSide (s : State) (h a : Nat) (l : List Byte) : (s.setBytes h a l).wbSide = s.wbSide :=
  State.wbSide_ext (by simp) (by simp) (by simp) (by simp) (fun x _ => by simp [State.reg])
    (fun x _ => by simp [State.forceReg]) (fun k _ => by simp)

@[simp] theorem State.ringBytes_wbSide (s : State) (h base size pos : Nat) (l : List Byte) :
    (s.ringBytes h base size pos l).wbSide = s.wbSide := by
  unfold State.ringBytes
  split <;> simp

@[simp] theorem State.wr_wbSide (s : State) (b : Nat) (f : Fld) (v : Nat) (hb : Covers (offPage 1) b)
    (hf : f.off < 0x10000) : (s.wr b f v).wbSide = s.wbSide :=
  State.wbSide_ext (by simp) (by simp) (by simp) (by simp)
    (fun x hx => State.reg_wr_other s b f v x fun h => hb _ hf (h ▸ hx))
    (fun x _ => by simp [State.forceReg]) (fun k _ => by simp)

@[simp] theorem State.inc_wbSide (s : State) (b : Nat) (f : Fld) (n : Nat) (hb : Covers (offPage 1) b)
    (hf : f.off < 0x10000) : (s.inc b f n).wbSide = s.wbSide := State.wr_wbSide s b f _ hb hf

/-- Live registers outside the blocks WB take effect. -/
@[simp] theorem State.enforce_wbSide (s : State) (b lo hi : Nat) (hb : Covers (offPage 1) b) (hlo : lo ≤ hi)
    (hhi : hi ≤ 0x10000) : (s.enforce b lo hi).wbSide = s.wbSide := by
  refine State.wbSide_ext rfl rfl rfl rfl (fun x _ => rfl) (fun x hx => ?_) (fun k _ => rfl)
  have hout : x < b + lo ∨ b + hi ≤ x := by
    by_contra hin
    refine hb (x - b) (by omega) ?_
    rwa [Nat.add_sub_cancel' (by omega)]
  exact tget_tcopy_outside _ _ _ _ _ _ (by omega) hout

/-- The live map table takes effect. -/
@[simp] theorem State.tabEnforce_wbSide (s : State) (l : Nat) :
    (s.tabEnforce (densKey l 0) (densKey l 256)).wbSide = s.wbSide := by
  refine State.wbSide_ext rfl rfl rfl rfl (fun x _ => rfl) (fun x _ => rfl) (fun k hk => ?_)
  refine tget_tcopy_outside _ _ _ _ _ _ (by simp only [densKey]; omega) ?_
  simp only [onWtab] at hk
  simp only [densKey]
  omega

/-- A density operation that stays inside its block and its own records keeps it. -/
theorem State.wbSide_of_outside {s t : State} (h : t.outside [.dens] (offPage 1) = s.outside [.dens] (offPage 1)) :
    t.wbSide = s.wbSide := by
  obtain ⟨hrest, hreg⟩ := Prod.mk.inj h
  have hkept {α : Type} (g : State → α) (hg : ∀ u, g (State.rest [.dens] u) = g u) : g t = g s :=
    (hg t).symm.trans ((congrArg g hrest).trans (hg s))
  have hforce : t.force = s.force := hkept State.force fun _ => rfl
  have htabF : t.tabF = s.tabF := hkept State.tabF fun _ => rfl
  exact State.wbSide_ext (hkept State.wb fun _ => rfl) (hkept State.items fun _ => rfl)
    (hkept State.live fun _ => rfl) (hkept State.tabL fun _ => rfl) (fun x hx => congrFun hreg ⟨x, not_not.mpr hx⟩)
    (fun x _ => by rw [State.forceReg, State.forceReg, hforce]) (fun k _ => by rw [htabF])

/-! The trigger conditions. -/

@[simp] theorem taker_offsets : R.TRG_COND_STATE_STATE.off < 0x10000 ∧ R.TRG_COND_c_HITS_HITS.off < 0x10000 ∧
    R.TRG_LATE_COUNT_LATE.off < 0x10000 ∧ R.REC_CO_DROP_DROPPED.off < 0x10000 ∧ R.REC_STATUS_CO_DROP.off < 0x10000 ∧
    R.REC_CO_ENTRIES_ENTRIES.off < 0x10000 ∧ R.REC_OVERRUN_COUNT_OVERRUNS.off < 0x10000 ∧
    R.REC_STATUS_OVERRUN.off < 0x10000 ∧ R.DENS_DECIM_COUNT_SKIPPED.off < 0x10000 ∧
    R.DENS_STATUS_CLAMP.off < 0x10000 ∧ R.DENS_STATUS_BAD_RANGE.off < 0x10000 := by decide

@[simp] theorem trgEntry_wbSide (l : Nat) (e : TrgEntry) (s : State) : (trgEntry l e s).wbSide = s.wbSide := by
  simp [trgEntry]

@[simp] theorem condStateAt_wbSide (l c set k : Nat) (on : Bool) (flags : Nat) (s : State) :
    (condStateAt l c set k on flags s).wbSide = s.wbSide := by
  simp [condStateAt, showCond, countHit]

@[simp] theorem spectralCond_wbSide (l c k n flags : Nat) (v : Option Bool) (s : State) :
    (spectralCond l c k n flags v s).wbSide = s.wbSide := by
  simp [spectralCond, State.setCond]

@[simp] theorem spectralTake_wbSide (l src : Nat) (r : SpecResult) (s : State) :
    (spectralTake l src r s).wbSide = s.wbSide := by
  simp [spectralTake]

/-! The change-only records. -/

@[simp] theorem coClose_wbSide (l : Nat) (s : State) : (coClose l s).wbSide = s.wbSide := by
  unfold coClose
  split <;> simp

@[simp] theorem coPut_wbSide (l : Nat) (e : List Byte) (s : State) : (coPut l e s).wbSide = s.wbSide := by
  unfold coPut
  split <;> simp

@[simp] theorem coOpen_wbSide (l idx sts : Nat) (lv : List Int) (s : State) :
    (coOpen l idx sts lv s).wbSide = s.wbSide := by
  simp [coOpen]

@[simp] theorem coReady_wbSide (l idx sts : Nat) (lv : List Int) (n : Nat) (s : State) :
    (coReady l idx sts lv n s).wbSide = s.wbSide := by
  induction n generalizing s with
  | zero => rfl
  | succ n ih => simp [coReady, ih]

@[simp] theorem coBin_wbSide (l idx sts k n : Nat) (lv : List Int) (bin : Nat) (s : State) :
    (coBin l idx sts k n lv bin s).wbSide = s.wbSide := by
  simp [coBin]

@[simp] theorem coSpectrum_wbSide (src : Nat) (i : SpecInfo) (s : State) : (coSpectrum src i s).wbSide = s.wbSide := by
  unfold coSpectrum
  extract_lets l idx c spans u n v lastBin w
  have hu : u.wbSide = s.wbSide := by simp [u]
  have hv : v.wbSide = s.wbSide := by simp [v, hu]
  have hw : w.wbSide = s.wbSide := by simp [w, hv]
  split
  · exact hu
  · split <;> simp [hw]

@[simp] theorem coRestart_wbSide (l : Nat) (s : State) : (coRestart l s).wbSide = s.wbSide := by simp [coRestart]

/-! The density engine. -/

@[simp] theorem densAdvance_wbSide (l e : Nat) (s : State) : (densAdvance l e s).wbSide = s.wbSide :=
  State.wbSide_of_outside (densAdvance_outside (by decide) (covers_densB l) e s)

@[simp] theorem densClose_wbSide (l e : Nat) (s : State) : (densClose l e s).wbSide = s.wbSide :=
  State.wbSide_of_outside (densClose_outside (by decide) (covers_densB l) e s)

@[simp] theorem densAdd_wbSide (l k : Nat) (g : Tbl Nat → Tbl Nat) (s : State) : (densAdd l k g s).wbSide = s.wbSide :=
  State.wbSide_of_outside (densAdd_outside (by decide) (covers_densB l) k g s)

@[simp] theorem densShow_wbSide (l : Nat) (s : State) : (densShow l s).wbSide = s.wbSide :=
  State.wbSide_of_outside (densShow_outside l s (coversPair_densB l))

@[simp] theorem densClear_wbSide (l : Nat) (s : State) : (densClear l s).wbSide = s.wbSide := by simp [densClear]

@[simp] theorem densTakeEffect_wbSide (l : Nat) (after : Option Nat) (e : Nat) (s : State) :
    (densTakeEffect l after e s).wbSide = s.wbSide := by
  simp [densTakeEffect]

@[simp] theorem densIdle_wbSide (l : Nat) (s : State) : (densIdle l s).wbSide = s.wbSide := by simp [densIdle]

@[simp] theorem densWbSwitch_wbSide (l : Nat) (changed : Bool) (s : State) :
    (densWbSwitch l changed s).wbSide = s.wbSide := by
  simp [densWbSwitch, densRange]

@[simp] theorem densCount_wbSide (i : SpecInfo) (s : State) : (densCount i s).wbSide = s.wbSide := by
  simp [densCount, densSkip, satShow]

@[simp] theorem sgCount_wbSide (i : SpecInfo) (s : State) : (sgCount i s).wbSide = s.wbSide := by simp [sgCount]

@[simp] theorem densSpectrum_wbSide (i : SpecInfo) (s : State) : (densSpectrum i s).wbSide = s.wbSide := by
  simp only [densSpectrum]
  split <;> simp

@[simp] theorem densReplay_wbSide (i : SpecInfo) (s : State) : (densReplay i s).wbSide = s.wbSide := by
  unfold densReplay
  extract_lets l q holds u
  have hu : u.wbSide = s.wbSide := by simp [u]
  split
  · rfl
  · split
    · simp [hu]
    · split <;> simp [hu, densSkip]

/-! All of them together, and replays. -/

@[simp] theorem specConsume_wbSide (l : Nat) (r : SpecResult) (s : State) : (specConsume l r s).wbSide = s.wbSide := by
  simp [specConsume]

@[simp] theorem specFlush_wbSide (l : Nat) (s : State) : (specFlush l s).wbSide = s.wbSide := by simp [specFlush]

@[simp] theorem replayCount_wbSide (l : Nat) (held : Bool) (s : State) : (replayCount l held s).wbSide = s.wbSide := by
  simp [replayCount]

@[simp] theorem replayConds_wbSide (q : WbSet) (src : Nat) (i : SpecInfo) (s : State) :
    (replayConds q src i s).wbSide = s.wbSide := by
  simp [replayConds]

@[simp] theorem replayDetected_wbSide (t : Nat) (q : WbSet) (idx : Nat) (s : State) :
    (replayDetected t q idx s).wbSide = s.wbSide := by
  simp [replayDetected]

/-- Detected spectra that have come out are gone from the record, and nothing else of the transform changes. -/
theorem detectedOut_wbSide (l : Nat) (s : State) :
    (detectedOut l s).wbSide = (s.modWb l fun w => { w with detOut := [] }).wbSide := by
  simp [detectedOut]

end Sys2Proof.Machine
end

section
/-! PROOFS. Detection, averaging and the release of spectra in index order (R112 to R118, R130): what they keep of the
wide-band transform, and that they only append items. -/

namespace Sys2Proof.Machine

/-! Updates that keep the rows' part. -/

@[simp] theorem State.wbCore_ite (c : Prop) [Decidable c] (s t : State) :
    (if c then s else t).wbCore = if c then s.wbCore else t.wbCore := apply_ite _ _ _ _

/-- The updates of a wide-band record that detection, averaging and the release in index order make. -/
@[simp] theorem WbSt.setting_mk (w : WbSt) (relIdx : Nat) (detLead detPartner : Det) (parts : List Det)
    (trace : TraceAcc) (incomplete : List TraceLack) (detOut : List Det) (auto : List AutoMask) :
    ({ w with relIdx, detLead, detPartner, parts, trace, incomplete, detOut, auto } : WbSt).setting = w.setting := by
  cases w
  rfl

@[simp] theorem State.modWb_wbCore (s : State) (l : Nat) (f : WbSt → WbSt) (hf : ∀ w, (f w).setting = w.setting) :
    (s.modWb l f).wbCore = s.wbCore := by
  refine WbCore.ext (funext fun k => ?_) rfl rfl rfl rfl rfl
  show ((s.modWb l f).wbSt k).setting = (s.wbSt k).setting
  by_cases hk : k = l
  · rw [hk, State.wbSt_modWb, hf]
  · rw [State.wbSt, State.modWb, tget_tset_other _ _ _ _ _ hk, State.wbSt]

/-- An update of parts that sending an item changes. -/
@[simp] theorem State.wbCore_mk (s : State) (cap : List Host.Cell) (items : List (Nat × List Byte))
    (traceRing : Tbl ItemRing) (credits lineOvf : Tbl Nat) :
    ({ s with cap, items, traceRing, credits, lineOvf } : State).wbCore = s.wbCore :=
  WbCore.ext rfl rfl rfl rfl rfl rfl

@[simp] theorem State.pulse_wbCore (s : State) (h line : Nat) : (s.pulse h line).wbCore = s.wbCore := by
  simp only [State.pulse]
  split <;> simp

@[simp] theorem State.setBytes_wbCore (s : State) (h a : Nat) (l : List Byte) : (s.setBytes h a l).wbCore = s.wbCore :=
  State.wbSide_wbCore (State.setBytes_wbSide s h a l)

@[simp] theorem sendItem_wbCore (inp : Nat) (bytes : List Byte) (s : State) :
    (sendItem inp bytes s).wbCore = s.wbCore := by
  simp only [sendItem]
  split <;> simp

/-- A short closing is counted, which is no part of what is kept. -/
@[simp] theorem State.inc_partial_wbCore (s : State) (d : Nat) :
    (s.inc (wbB d) R.WB_PARTIAL_COUNT_PARTIALS).wbCore = s.wbCore := by
  refine WbCore.ext rfl rfl rfl (funext fun x => State.reg_inc_other s _ _ _ _ ?_) rfl rfl
  obtain ⟨x, -, hx⟩ := x
  rintro rfl
  simp only [wbB, tB, R.WB_PARTIAL_COUNT_PARTIALS, R.WB_PARTIAL_COUNT] at hx
  omega

@[simp] theorem State.modTrg_wbCore (s : State) (l : Nat) (f : TrgSt → TrgSt) : (s.modTrg l f).wbCore = s.wbCore :=
  State.wbSide_wbCore (State.modTrg_wbSide s l f)

@[simp] theorem specConsume_wbCore (l : Nat) (r : SpecResult) (s : State) : (specConsume l r s).wbCore = s.wbCore :=
  State.wbSide_wbCore (specConsume_wbSide l r s)

/-! Detection and averaging. -/

@[simp] theorem emitTrace_wbCore (t extra : Nat) (s : State) : (emitTrace t extra s).wbCore = s.wbCore := by
  simp [emitTrace]

@[simp] theorem averager_wbCore (t : Nat) (d : Det) (s : State) : (averager t d s).wbCore = s.wbCore := by
  simp [averager]

@[simp] theorem closeDet_wbCore (t : Nat) (d : Det) (s : State) : (closeDet t d s).wbCore = s.wbCore := by
  simp [closeDet]

@[simp] theorem mergeOldest_wbCore (t : Nat) (s : State) : (mergeOldest t s).2.wbCore = s.wbCore := by
  unfold mergeOldest
  split <;> simp

@[simp] theorem passShort_wbCore (t : Nat) (d : Det) (s : State) : (passShort t d s).wbCore = s.wbCore := by
  simp [passShort]

@[simp] theorem passParts_wbCore (t n : Nat) (s : State) : (passParts t n s).wbCore = s.wbCore := by
  induction n generalizing s with
  | zero => rfl
  | succ n ih => simp [passParts, ih]

@[simp] theorem partialClose_wbCore (t idx : Nat) (s : State) : (partialClose t idx s).wbCore = s.wbCore := by
  simp [partialClose]

@[simp] theorem specDetect_wbCore (i : SpecInfo) (s : State) : (specDetect i s).wbCore = s.wbCore := by
  unfold specDetect
  extract_lets l rel d one partner get put old u cur lastOwn
  have hput : ∀ w x, (put w x).setting = w.setting := by
    intro w x
    simp only [put]
    split <;> rfl
  have hu : u.wbCore = s.wbCore := by simp [u, hput]
  split <;> simp [hput, hu]

@[simp] theorem detectedOut_wbCore (l : Nat) (s : State) : (detectedOut l s).wbCore = s.wbCore :=
  (State.wbSide_wbCore (detectedOut_wbSide l s)).trans (State.modWb_wbCore s l _ fun _ => rfl)

@[simp] theorem wbClose_wbCore (l idx : Nat) (s : State) : (wbClose l idx s).wbCore = s.wbCore := by
  rw [wbClose, detectedOut_wbCore, partialClose_wbCore]
  exact State.wbSide_wbCore (by simp)

/-! The release in index order. -/

@[simp] theorem specRelease_wbCore (l n : Nat) (s : State) : (specRelease l n s).wbCore = s.wbCore := by
  induction n generalizing s with
  | zero => rfl
  | succ n ih =>
    simp only [specRelease]
    split
    · split
      · split <;> simp [ih]
      · simp [ih]
    · rfl

@[simp] theorem specReleaseAll_wbCore (l : Nat) (s : State) : (specReleaseAll l s).wbCore = s.wbCore :=
  specRelease_wbCore l _ s

theorem specRelease_items (l n : Nat) (s : State) : (specRelease l n s).items = s.items := by
  induction n generalizing s with
  | zero => rfl
  | succ n ih =>
    have hconsume : ∀ r u, (specConsume l r u).items = u.items := fun r u =>
      State.wbSide_items (specConsume_wbSide l r u)
    simp only [specRelease]
    split
    · split
      · split <;> simp [ih, hconsume]
      · simp [ih]
    · rfl

@[simp] theorem specReleaseAll_items (l : Nat) (s : State) : (specReleaseAll l s).items = s.items :=
  specRelease_items l _ s

/-! Items. -/

@[simp] theorem sendItem_items (inp : Nat) (bytes : List Byte) (s : State) :
    (sendItem inp bytes s).items = s.items ++ [(inp, bytes)] := by
  simp only [sendItem, State.pulse_items]
  split <;> simp

@[simp] theorem detectedOut_items (l : Nat) (s : State) : (detectedOut l s).items = s.items :=
  (State.wbSide_items (detectedOut_wbSide l s)).trans (State.modWb_items s l _)

/-! A trace goes out. -/

@[simp] theorem sendItem_wb (inp : Nat) (bytes : List Byte) (s : State) : (sendItem inp bytes s).wb = s.wb := by
  simp only [sendItem, State.pulse_wb]
  split <;> simp

@[simp] theorem sendItem_force (inp : Nat) (bytes : List Byte) (s : State) : (sendItem inp bytes s).force = s.force := by
  simp only [sendItem, State.pulse_force]
  split <;> simp

@[simp] theorem sendItem_tabF (inp : Nat) (bytes : List Byte) (s : State) : (sendItem inp bytes s).tabF = s.tabF := by
  simp only [sendItem, State.pulse_tabF]
  split <;> simp

/-- Fields of the record that detection, averaging and the release in index order keep. -/
theorem WbSt.kept_of_setting {v w : WbSt} (h : v.setting = w.setting) : v.running = w.running ∧ v.tunes = w.tunes ∧
    v.baseStart = w.baseStart ∧ v.baseIdx = w.baseIdx ∧ v.doneLead = w.doneLead ∧ v.donePartner = w.donePartner ∧
    v.lost = w.lost :=
  ⟨(congrArg WbSt.running h :), (congrArg WbSt.tunes h :), (congrArg WbSt.baseStart h :), (congrArg WbSt.baseIdx h :),
    (congrArg WbSt.doneLead h :), (congrArg WbSt.donePartner h :), (congrArg WbSt.lost h :)⟩

theorem State.rdF_congr {s t : State} (h : t.force = s.force) : t.rdF = s.rdF := by
  funext b f
  rw [State.rdF, State.rdF, State.forceReg, State.forceReg, h]

theorem State.rdL_congr {s t : State} (h : t.live = s.live) : t.rdL = s.rdL := by
  funext b f
  rw [State.rdL, State.rdL, State.liveReg, State.liveReg, h]

/-- The setting in force depends on the tables in force and on where its counts start. -/
theorem State.wbSet_congr {s t : State} {l : Nat} (hforce : t.force = s.force) (htabF : t.tabF = s.tabF)
    (hset : (t.wbSt l).setting = (s.wbSt l).setting) : t.wbSet l = s.wbSet l := by
  obtain ⟨-, -, hstart, hidx, -⟩ := WbSt.kept_of_setting hset
  have hrd := State.rdF_congr hforce
  unfold State.wbSet State.wbLog2n State.wbOverlap State.wbWindow State.wbDet State.wbD State.wbL State.onF
  rw [hrd, htabF, hstart, hidx]

theorem State.wbSet_modWb (s : State) (l : Nat) (f : WbSt → WbSt) (hf : ∀ w, (f w).setting = w.setting) :
    (s.modWb l f).wbSet l = s.wbSet l :=
  State.wbSet_congr rfl rfl (by rw [State.wbSt_modWb, hf])

/-- A trace that holds a detected spectrum goes out, and the next one starts empty. -/
theorem emitTrace_sends {t : Nat} {s : State} (h : (s.wbSt t).trace.ivs ≠ 0) (extra : Nat) :
    ∃ take : List AutoMask → List AutoMask, emitTrace t extra s =
      sendItem (inputOf t) (traceBytes (s.wbSet t) (inputOf t) extra (s.wbSt t).trace)
        (s.modWb t fun w => { w with trace := {}, auto := take w.auto }) :=
  ⟨_, if_neg h⟩

theorem emitTrace_leaves {t : Nat} {s : State} (h : (s.wbSt t).trace.ivs ≠ 0) (extra : Nat) :
    ((emitTrace t extra s).wbSt t).parts = (s.wbSt t).parts ∧ ((emitTrace t extra s).wbSt t).trace = {} ∧
    (emitTrace t extra s).wbSet t = s.wbSet t ∧ (emitTrace t extra s).items =
      s.items ++ [(inputOf t, traceBytes (s.wbSet t) (inputOf t) extra (s.wbSt t).trace)] := by
  obtain ⟨take, hsend⟩ := emitTrace_sends h extra
  have hwb : (emitTrace t extra s).wbSt t = { s.wbSt t with trace := {}, auto := take (s.wbSt t).auto } := by
    rw [hsend, State.wbSt, sendItem_wb]
    exact State.wbSt_modWb s t _
  refine ⟨by rw [hwb], by rw [hwb], State.wbSet_congr ?_ ?_ (by rw [hwb]; rfl), ?_⟩ <;> simp [hsend]

/-- The trace in progress as a detected spectrum of trace `tr` finds it: one of another number is over (R115). -/
def TraceAcc.opened (a : TraceAcc) (tr : Nat) : TraceAcc := if a.ivs ≠ 0 ∧ a.tr ≠ tr then {} else a

/-- A trace that is over goes out when a detected spectrum of trace `tr` comes. -/
def traceOpened (t tr : Nat) (s : State) : State :=
  if (s.wbSt t).trace.ivs ≠ 0 ∧ (s.wbSt t).trace.tr ≠ tr then emitTrace t 32 s else s

theorem traceOpened_leaves (t tr : Nat) (s : State) : ((traceOpened t tr s).wbSt t).parts = (s.wbSt t).parts ∧
    ((traceOpened t tr s).wbSt t).trace = (s.wbSt t).trace.opened tr ∧
    (traceOpened t tr s).wbSet t = s.wbSet t ∧ s.items <+: (traceOpened t tr s).items := by
  rw [traceOpened, TraceAcc.opened]
  split
  · next h =>
    obtain ⟨hparts, htrace, hset, hitems⟩ := emitTrace_leaves h.1 32
    exact ⟨hparts, htrace, hset, hitems ▸ List.prefix_append _ _⟩
  · exact ⟨rfl, rfl, rfl, List.prefix_rfl⟩

/-- A detected spectrum has joined its trace (R115). -/
def traceJoined (t : Nat) (d : Det) (s : State) : State :=
  (traceOpened t (d.iv / s.wbL t) (s.modWb t fun w => { w with detOut := w.detOut ++ [d] })).modWb t fun w =>
    { w with trace := w.trace.add (d.iv / s.wbL t) d }

theorem traceJoined_leaves (t : Nat) (d : Det) (s : State) :
    ((traceJoined t d s).wbSt t).parts = (s.wbSt t).parts ∧
    ((traceJoined t d s).wbSt t).trace = ((s.wbSt t).trace.opened (d.iv / s.wbL t)).add (d.iv / s.wbL t) d ∧
    (traceJoined t d s).wbSet t = s.wbSet t ∧ s.items <+: (traceJoined t d s).items := by
  obtain ⟨hparts, htrace, hset, hitems⟩ :=
    traceOpened_leaves t (d.iv / s.wbL t) (s.modWb t fun w => { w with detOut := w.detOut ++ [d] })
  rw [State.wbSt_modWb] at hparts htrace
  refine ⟨?_, ?_, ?_, hitems⟩
  · rw [traceJoined, State.wbSt_modWb, hparts]
  · rw [traceJoined, State.wbSt_modWb, htrace]
  · rw [traceJoined, State.wbSet_modWb _ _ _ (by simp), hset, State.wbSet_modWb _ _ _ (by simp)]

theorem averager_off {t : Nat} {s : State} (hen : s.onF (wbB t) R.WB_AVG_TRACE_EN = false) (d : Det) :
    averager t d s = s.modWb t fun w => { w with detOut := w.detOut ++ [d] } :=
  if_pos (Bool.not_eq_true' _ ▸ hen)

/-- A detected spectrum that is not its trace's last joins it. -/
theorem averager_joins {t : Nat} {d : Det} {s : State} (hen : s.onF (wbB t) R.WB_AVG_TRACE_EN = true)
    (hlast : d.iv % s.wbL t ≠ s.wbL t - 1) : averager t d s = traceJoined t d s := by
  have hgo : ¬ (!s.onF (wbB t) R.WB_AVG_TRACE_EN) = true := by rw [hen]; decide
  exact (if_neg hgo).trans (if_neg hlast)

/-- The last one completes the trace, which goes out (R115), as PARTIAL if it lacks spectra (R119). -/
theorem averager_completes {t : Nat} {d : Det} {s : State} {a : TraceAcc}
    (hen : s.onF (wbB t) R.WB_AVG_TRACE_EN = true) (hlast : d.iv % s.wbL t = s.wbL t - 1)
    (ha : ((s.wbSt t).trace.opened (d.iv / s.wbL t)).add (d.iv / s.wbL t) d = a) :
    ((averager t d s).wbSt t).parts = (s.wbSt t).parts ∧ ((averager t d s).wbSt t).trace = {} ∧
    (averager t d s).items = (traceJoined t d s).items ++ [(inputOf t,
      traceBytes (s.wbSet t) (inputOf t) (if a.det.n < s.wbD t * s.wbL t then 32 else 0) a)] := by
  obtain ⟨hparts, htrace, hset, -⟩ := traceJoined_leaves t d s
  have hgo : ¬ (!s.onF (wbB t) R.WB_AVG_TRACE_EN) = true := by rw [hen]; decide
  let u := if bit d.flags 5 then (traceJoined t d s).inc (wbB t) R.WB_PARTIAL_COUNT_PARTIALS else traceJoined t d s
  have hu : u.wb = (traceJoined t d s).wb ∧ u.items = (traceJoined t d s).items ∧
      u.wbSet t = (traceJoined t d s).wbSet t := by
    simp only [u]
    split <;> exact ⟨rfl, rfl, rfl⟩
  obtain ⟨huwb, huitems, huset⟩ := hu
  have huwbSt : u.wbSt t = (traceJoined t d s).wbSt t := by rw [State.wbSt, State.wbSt, huwb]
  have hsends : averager t d s = emitTrace t (if a.det.n < s.wbD t * s.wbL t then 32 else 0) u := by
    rw [← ha, ← htrace, traceJoined, State.wbSt_modWb]
    exact (if_neg hgo).trans (if_pos hlast)
  have hivs : (u.wbSt t).trace.ivs ≠ 0 := by
    rw [huwbSt, htrace]
    exact Nat.succ_ne_zero _
  obtain ⟨hparts', htrace', -, hitems⟩ := emitTrace_leaves hivs (if a.det.n < s.wbD t * s.wbL t then 32 else 0)
  rw [huset, huitems, huwbSt, htrace, ha, hset] at hitems
  rw [huwbSt, hparts] at hparts'
  rw [hsends]
  exact ⟨hparts', htrace', hitems⟩

theorem averager_parts (t : Nat) (d : Det) (s : State) : ((averager t d s).wbSt t).parts = (s.wbSt t).parts := by
  cases hen : s.onF (wbB t) R.WB_AVG_TRACE_EN with
  | false => rw [averager_off hen, State.wbSt_modWb]
  | true =>
    by_cases hlast : d.iv % s.wbL t = s.wbL t - 1
    · exact (averager_completes hen hlast rfl).1
    · rw [averager_joins hen hlast]
      exact (traceJoined_leaves t d s).1

theorem averager_items (t : Nat) (d : Det) (s : State) : s.items <+: (averager t d s).items := by
  obtain ⟨-, -, -, hjoined⟩ := traceJoined_leaves t d s
  cases hen : s.onF (wbB t) R.WB_AVG_TRACE_EN with
  | false => rw [averager_off hen, State.modWb_items]
  | true =>
    by_cases hlast : d.iv % s.wbL t = s.wbL t - 1
    · obtain ⟨-, -, hitems⟩ := averager_completes hen hlast rfl
      exact hjoined.trans (hitems ▸ List.prefix_append _ _)
    · rw [averager_joins hen hlast]
      exact hjoined

theorem closeDet_items (t : Nat) (d : Det) (s : State) : s.items <+: (closeDet t d s).items := by
  simp only [closeDet]
  split
  · exact List.prefix_rfl
  · split
    · exact List.prefix_rfl
    · exact averager_items _ _ _

theorem specDetect_items (i : SpecInfo) (s : State) : s.items <+: (specDetect i s).items := by
  unfold specDetect
  extract_lets l rel d one partner get put old u cur lastOwn
  have hu : s.items <+: u.items := by
    simp only [u]
    split
    · exact closeDet_items l old (s.modWb l _)
    · exact List.prefix_rfl
  split
  · exact hu.trans (closeDet_items l cur (u.modWb l _))
  · exact hu

end Sys2Proof.Machine
end

section
/-! PROOFS. The shadow set of the wide-band transform and the window tables behind it (R91 to R96, R100). -/

namespace Sys2Proof.Machine

/-! Ranges of registers and tables that are copied. -/

section
variable (s : State) (b lo hi : Nat) {o : Nat} (hlo : lo ≤ o) (hhi : o < hi)
include hlo hhi

theorem State.liveReg_handOver : (s.handOver b lo hi).liveReg (b + o) = s.reg (b + o) :=
  tget_tcopy_inside _ _ _ _ _ _ (by omega) (by omega)

theorem State.reg_takeBack : (s.takeBack b lo hi).reg (b + o) = s.liveReg (b + o) :=
  tget_tcopy_inside _ _ _ _ _ _ (by omega) (by omega)

theorem State.forceReg_enforce : (s.enforce b lo hi).forceReg (b + o) = s.liveReg (b + o) :=
  tget_tcopy_inside _ _ _ _ _ _ (by omega) (by omega)

end

/-- The offsets of the shadowed registers of a block WB (R126). -/
abbrev wbShadowed : List Nat := [0x4, 0x8, 0xC, 0x10, 0x14, 0x18, 0x1C, 0x20]

theorem wbShadowed_range {o : Nat} (ho : o ∈ wbShadowed) : 0x4 ≤ o ∧ o < 0x24 :=
  (by decide : ∀ o ∈ wbShadowed, 0x4 ≤ o ∧ o < 0x24) o ho

/-- The user window of a die, copied from one table to another. -/
theorem tget_tcopy_wtab (src dst : Tbl Word) (d : Nat) (k : Fin 65536) :
    tget tabReset (tcopy src dst (wtabKey d 0) (wtabKey d 65536)) (wtabKey d k) = tget tabReset src (wtabKey d k) := by
  have := k.isLt
  exact tget_tcopy_inside _ _ _ _ _ _ (by simp only [wtabKey]; omega) (by simp only [wtabKey]; omega)

/-! The hand-over (R92, R93, R95). -/

/-- The shadow set and the shadow window have become the live ones. -/
def wbHanded (t : Nat) (s : State) : State :=
  (s.handOver (wbB t) 0x4 0x24).tabHandOver (wtabKey t 0) (wtabKey t 65536)

/-- CLAMP, if the set handed over holds a field that is clamped. -/
def wbClampShown (t : Nat) (s : State) : State :=
  if wbClamped s t then s.wr (wbB t) R.WB_STATUS_CLAMP 1 else s

/-- The registers show the hand-over. -/
def wbHandShown (t : Nat) (s : State) : State :=
  let u := wbClampShown t (wbHanded t s)
  let e := wbEdge u (clampTune (tuneOf u.rdL t)) (2 ^ clampLog2n (u.rdL (wbB t) R.WB_CTRL_LOG2N))
  windowFigures t ((u.wrs (wbB t) [(R.WB_SHADOW_SHADOW_DIRTY, 0), (R.WB_SHADOW_PENDING, 1), (R.WB_EDGE_FIRST, e.1),
    (R.WB_EDGE_LAST, e.2)]).inc (wbB t) R.WB_SWITCH_COUNT_SWITCHES)

theorem wbHandOver_refused {t : Nat} {s : State} (hen : s.on (wbB t) R.WB_CTRL_EN = true)
    (hpipes : pipesHeld s t < 2 ^ s.rd (wbB t) R.WB_CTRL_OVERLAP) :
    wbHandOver t s = s.wr (wbB t) R.WB_STATUS_NO_PIPES 1 :=
  if_pos (by simp [hen, hpipes])

theorem wbHandOver_hands {t : Nat} {s : State} (h : s.on (wbB t) R.WB_CTRL_EN = false ∨
    2 ^ s.rd (wbB t) R.WB_CTRL_OVERLAP ≤ pipesHeld s t) :
    wbHandOver t s = if ((wbHandShown t s).wbSt t).running then
      wbSchedule t ((wbHandShown t s).recvSample (inputOf t)) (wbHandShown t s)
      else (wbHandShown t s).modWb t fun w => { w with waitStart := true } := by
  refine if_neg ?_
  rcases h with hen | hpipes
  · simp [hen]
  · simp [hpipes]

section
variable (t : Nat) (s : State)

theorem wbClampShown_keeps : (wbClampShown t s).live = s.live ∧ (wbClampShown t s).tabL = s.tabL ∧
    (wbClampShown t s).wb = s.wb ∧ (wbClampShown t s).part = s.part ∧ (wbClampShown t s).time = s.time ∧
    (wbClampShown t s).acqSide = s.acqSide := by
  unfold wbClampShown
  split <;> simp

theorem rd_wbClampShown {f : Fld} (hf : R.WB_STATUS_CLAMP.apart f = true) :
    (wbClampShown t s).rd (wbB t) f = s.rd (wbB t) f := by
  unfold wbClampShown
  split
  · exact State.rd_wr_of_apart s _ _ (by decide) hf
  · rfl

theorem wbHanded_keeps : (wbHanded t s).wb = s.wb ∧ (wbHanded t s).part = s.part ∧ (wbHanded t s).time = s.time ∧
    (wbHanded t s).acqSide = s.acqSide := ⟨rfl, rfl, rfl, rfl⟩

theorem wbHandShown_keeps : (wbHandShown t s).live = (wbHanded t s).live ∧
    (wbHandShown t s).tabL = (wbHanded t s).tabL ∧ (wbHandShown t s).wb = s.wb ∧
    (wbHandShown t s).part = s.part ∧ (wbHandShown t s).time = s.time ∧ (wbHandShown t s).acqSide = s.acqSide := by
  obtain ⟨hlive, htabL, hwb, hpart, htime, hside⟩ := wbClampShown_keeps t (wbHanded t s)
  obtain ⟨hwb', hpart', htime', hside'⟩ := wbHanded_keeps t s
  simp [wbHandShown, windowFigures, hlive, htabL, hwb, hpart, htime, hside, hwb', hpart', htime', hside']

theorem rd_wbHandShown : (wbHandShown t s).rd (wbB t) R.WB_SHADOW_PENDING = 1 ∧
    (wbHandShown t s).rd (wbB t) R.WB_SHADOW_SHADOW_DIRTY = 0 ∧
    (wbHandShown t s).rd (wbB t) R.WB_SHADOW_HELD = s.rd (wbB t) R.WB_SHADOW_HELD ∧
    (wbHandShown t s).rd (wbB t) R.WB_SWITCH_COUNT_SWITCHES =
      min (2 ^ R.WB_SWITCH_COUNT_SWITCHES.w - 1) (s.rd (wbB t) R.WB_SWITCH_COUNT_SWITCHES + 1) ∧
    (wbHandShown t s).rd (wbB t) R.WB_STATUS_CLAMP = (wbClampShown t (wbHanded t s)).rd (wbB t) R.WB_STATUS_CLAMP := by
  have hinc : ∀ (u : State) {f : Fld}, R.WB_SWITCH_COUNT_SWITCHES.apart f = true →
      (u.inc (wbB t) R.WB_SWITCH_COUNT_SWITCHES).rd (wbB t) f = u.rd (wbB t) f := fun u f hf =>
    State.rd_wr_of_apart u _ _ (by decide) hf
  simp (disch := decide) only [wbHandShown, windowFigures, State.wrs, State.rd_wr_of_apart, hinc, State.rd_wr_same,
    State.rd_inc_same, rd_wbClampShown]
  exact ⟨rfl, rfl, rfl, rfl, trivial⟩

end

/-- The sample an input receives does not depend on the registers of the transform dies. -/
theorem State.recvSample_congr {s t : State} (hpart : t.part = s.part) (htime : t.time = s.time)
    (hside : t.acqSide = s.acqSide) (inp : Nat) : t.recvSample inp = s.recvSample inp := by
  have hreg : t.reg (timeB 0 + R.TIME_JRX_STEP_STEP.off) = s.reg (timeB 0 + R.TIME_JRX_STEP_STEP.off) :=
    congrFun (congrArg Prod.snd hside) ⟨_, by decide⟩
  have hstep : t.rd (timeB 0) R.TIME_JRX_STEP_STEP = s.rd (timeB 0) R.TIME_JRX_STEP_STEP := by
    rw [State.rd, State.rd, hreg]
  rw [State.recvSample, State.recvSample, hpart, htime, hstep, State.acqSt_of_acqSide hside]

theorem wbClamped_congr {s t : State} (hpart : t.part = s.part) (hlive : t.live = s.live) (l : Nat) :
    wbClamped t l = wbClamped s l := by
  rw [wbClamped, wbClamped, hpart, State.rdL_congr hlive]

/-- What a hand-over leaves: the live set and window, the registers that show it, and the switch that is to come. -/
theorem wbHandOver_leaves {t : Nat} {s : State} (h : s.on (wbB t) R.WB_CTRL_EN = false ∨
    2 ^ s.rd (wbB t) R.WB_CTRL_OVERLAP ≤ pipesHeld s t) :
    (wbHandOver t s).live = (wbHanded t s).live ∧ (wbHandOver t s).tabL = (wbHanded t s).tabL ∧
    (wbHandOver t s).regs = (wbHandShown t s).regs ∧ (wbHandOver t s).part = s.part ∧
    ((s.wbSt t).running = true →
      ((wbHandOver t s).wbSt t).sw = some (ceilTo 65536 (s.recvSample (inputOf t) + 20480))) ∧
    ((s.wbSt t).running = false → ((wbHandOver t s).wbSt t).waitStart = true) := by
  obtain ⟨hlive, htabL, hwb, hpart, htime, hside⟩ := wbHandShown_keeps t s
  have hrun : (wbHandShown t s).wbSt t = s.wbSt t := by rw [State.wbSt, State.wbSt, hwb]
  rw [wbHandOver_hands h, hrun, State.recvSample_congr hpart htime hside]
  have hkept : ∀ f, ((wbHandShown t s).modWb t f).live = (wbHanded t s).live ∧
      ((wbHandShown t s).modWb t f).tabL = (wbHanded t s).tabL ∧
      ((wbHandShown t s).modWb t f).regs = (wbHandShown t s).regs ∧ ((wbHandShown t s).modWb t f).part = s.part :=
    fun f => ⟨(State.modWb_live _ _ _).trans hlive, (State.modWb_tabL _ _ _).trans htabL, State.modWb_regs _ _ _,
      (State.modWb_part _ _ _).trans hpart⟩
  cases hgo : (s.wbSt t).running with
  | false =>
    obtain ⟨hl, ht, hr, hp⟩ := hkept fun w => { w with waitStart := true }
    rw [if_neg (by decide), State.wbSt_modWb]
    exact ⟨hl, ht, hr, hp, nofun, fun _ => rfl⟩
  | true =>
    rw [if_pos rfl, wbSchedule, State.wbSt_modWb]
    obtain ⟨hl, ht, hr, hp⟩ := hkept _
    exact ⟨hl, ht, hr, hp, fun _ => rfl, nofun⟩

/-- The hand-over as its registers, its live set and its live window show it. -/
theorem wbHandOver_shows {t : Nat} {s : State} (h : s.on (wbB t) R.WB_CTRL_EN = false ∨
    2 ^ s.rd (wbB t) R.WB_CTRL_OVERLAP ≤ pipesHeld s t) :
    (∀ o ∈ wbShadowed, (wbHandOver t s).liveReg (wbB t + o) = s.reg (wbB t + o)) ∧
    (∀ k : Fin 65536, tget tabReset (wbHandOver t s).tabL (wtabKey t k) = tget tabReset s.tabS (wtabKey t k)) ∧
    (wbHandOver t s).on (wbB t) R.WB_SHADOW_PENDING = true ∧
    (wbHandOver t s).on (wbB t) R.WB_SHADOW_SHADOW_DIRTY = false ∧
    (wbHandOver t s).on (wbB t) R.WB_SHADOW_HELD = s.on (wbB t) R.WB_SHADOW_HELD ∧
    (wbHandOver t s).rd (wbB t) R.WB_SWITCH_COUNT_SWITCHES =
      min (2 ^ R.WB_SWITCH_COUNT_SWITCHES.w - 1) (s.rd (wbB t) R.WB_SWITCH_COUNT_SWITCHES + 1) ∧
    (wbClamped (wbHandOver t s) t = true → (wbHandOver t s).on (wbB t) R.WB_STATUS_CLAMP = true) := by
  obtain ⟨hlive, htabL, hregs, hpart, -⟩ := wbHandOver_leaves h
  obtain ⟨hpending, hdirty, hheld, hcount, hclamp⟩ := rd_wbHandShown t s
  have hrd := State.rd_congr hregs (wbB t)
  refine ⟨fun o ho => ?_, fun k => ?_, State.on_of_rd_one ((hrd _).trans hpending),
    State.on_of_rd_zero ((hrd _).trans hdirty), ?_, (hrd _).trans hcount, fun hclamped => ?_⟩
  · obtain ⟨hlo, hhi⟩ := wbShadowed_range ho
    rw [State.liveReg, hlive]
    exact State.liveReg_handOver s (wbB t) 0x4 0x24 hlo hhi
  · rw [htabL]
    exact tget_tcopy_wtab s.tabS s.tabL t k
  · rw [State.on, State.on, hrd, hheld]
  · rw [wbClamped_congr (t := wbHandOver t s) (s := wbHanded t s) hpart hlive] at hclamped
    refine State.on_of_rd_one ((hrd _).trans (hclamp.trans ?_))
    rw [wbClampShown, if_pos hclamped]
    exact State.rd_wr_same _ _ _ 1 (by decide)

theorem wbHandOver_held (t : Nat) (s : State) :
    (wbHandOver t s).on (wbB t) R.WB_SHADOW_HELD = s.on (wbB t) R.WB_SHADOW_HELD := by
  by_cases hpipes : s.on (wbB t) R.WB_CTRL_EN = true ∧ pipesHeld s t < 2 ^ s.rd (wbB t) R.WB_CTRL_OVERLAP
  · rw [wbHandOver_refused hpipes.1 hpipes.2, State.on, State.on, State.rd_wr_of_apart _ _ _ (by decide) (by decide)]
  · rw [not_and_or, Bool.not_eq_true, not_lt] at hpipes
    obtain ⟨-, -, -, -, hheld, -⟩ := wbHandOver_shows hpipes
    exact hheld

/-! The rows of the shadow set. -/

section
variable {d : TDie} {s : State}

theorem execWbCommit_holds (husable : s.usableT d = true) (hlead : isLead d = true)
    (h : s.on (wbB d) R.WB_SHADOW_PENDING = true ∨ s.on (wbB d) R.WB_SHADOW_HELD = true) :
    execWbCommit d s = .next (s.wr (wbB d) R.WB_SHADOW_HELD 1) := by
  simp [execWbCommit, wbCommit, husable, hlead, h]

theorem execWbCommit_hands (husable : s.usableT d = true) (hlead : isLead d = true)
    (hpending : s.on (wbB d) R.WB_SHADOW_PENDING = false) (hheld : s.on (wbB d) R.WB_SHADOW_HELD = false) :
    execWbCommit d s = .next (wbHandOver d s) := by
  simp [execWbCommit, wbCommit, husable, hlead, hpending, hheld]

theorem execWbRevert_usable (husable : s.usableT d = true) : execWbRevert d s = .next (wbRevert d s) := by
  rw [execWbRevert, if_pos husable]

/-- A revert puts the live set and window back; on a partner die the words that are copies of the lead die's stay. -/
theorem wbRevert_shows (t : Nat) (s : State) :
    (∀ o ∈ ([0x10, 0x14, 0x18, 0x1C, 0x20] : List Nat), (wbRevert t s).reg (wbB t + o) = s.liveReg (wbB t + o)) ∧
    (isLead t = true → ∀ o ∈ ([0x4, 0x8, 0xC] : List Nat), (wbRevert t s).reg (wbB t + o) = s.liveReg (wbB t + o)) ∧
    (∀ k : Fin 65536, tget tabReset (wbRevert t s).tabS (wtabKey t k) = tget tabReset s.tabL (wtabKey t k)) ∧
    (wbRevert t s).on (wbB t) R.WB_SHADOW_SHADOW_DIRTY = false ∧ (wbRevert t s).live = s.live := by
  have hback : ∀ {o : Nat}, (if isLead t then 0x4 else 0x10) ≤ o → o < 0x24 →
      (wbRevert t s).reg (wbB t + o) = s.liveReg (wbB t + o) := by
    intro o hlo hhi
    have hother : wbB t + o ≠ wbB t + R.WB_SHADOW_SHADOW_DIRTY.off := by
      have hoff : R.WB_SHADOW_SHADOW_DIRTY.off = 0x28 := rfl
      omega
    exact (State.reg_wr_other _ _ _ _ _ hother).trans (State.reg_takeBack s (wbB t) _ 0x24 hlo hhi)
  have hset : ∀ o ∈ ([0x10, 0x14, 0x18, 0x1C, 0x20] : List Nat), 0x10 ≤ o ∧ o < 0x24 := by decide
  have hlead : ∀ o ∈ ([0x4, 0x8, 0xC] : List Nat), 0x4 ≤ o ∧ o < 0x24 := by decide
  refine ⟨fun o ho => hback (le_trans ?_ (hset o ho).1) (hset o ho).2,
    fun h o ho => hback (by rw [if_pos h]; exact (hlead o ho).1) (hlead o ho).2,
    fun k => tget_tcopy_wtab s.tabL s.tabS t k, State.on_of_rd_zero (State.rd_wr_same _ _ _ 0 (by decide)), rfl⟩
  split <;> decide

/-- The pipelines that are held do not depend on HELD. -/
theorem pipesHeld_wr_held (t : Nat) (s : State) : pipesHeld (s.wr (wbB t) R.WB_SHADOW_HELD 0) t = pipesHeld s t := by
  have husable : (s.wr (wbB t) R.WB_SHADOW_HELD 0).usableT (t + 1) = s.usableT (t + 1) := rfl
  simp (disch := decide) only [pipesHeld, State.rd_wr_of_apart, husable]

theorem execWbHeldHandover_hands (hheld : s.on (wbB d) R.WB_SHADOW_HELD = true)
    (hpending : s.on (wbB d) R.WB_SHADOW_PENDING = false) :
    execWbHeldHandover d s = .next (wbHandOver d (s.wr (wbB d) R.WB_SHADOW_HELD 0)) := by
  simp [execWbHeldHandover, hheld, hpending]

/-- A commit that was held is handed over as one that comes alone is, or refused for want of pipelines. -/
theorem execWbHeldHandover_shows (hheld : s.on (wbB d) R.WB_SHADOW_HELD = true)
    (hpending : s.on (wbB d) R.WB_SHADOW_PENDING = false) :
    ∃ t, execWbHeldHandover d s = .next t ∧ t.on (wbB d) R.WB_SHADOW_HELD = false ∧
      (s.on (wbB d) R.WB_CTRL_EN = false ∨ 2 ^ s.rd (wbB d) R.WB_CTRL_OVERLAP ≤ pipesHeld s d →
        (∀ o ∈ wbShadowed, t.liveReg (wbB d + o) = s.reg (wbB d + o)) ∧
        (∀ k : Fin 65536, tget tabReset t.tabL (wtabKey d k) = tget tabReset s.tabS (wtabKey d k)) ∧
        t.on (wbB d) R.WB_SHADOW_PENDING = true ∧ t.on (wbB d) R.WB_SHADOW_SHADOW_DIRTY = false) ∧
      (s.on (wbB d) R.WB_CTRL_EN = true ∧ pipesHeld s d < 2 ^ s.rd (wbB d) R.WB_CTRL_OVERLAP →
        t.on (wbB d) R.WB_STATUS_NO_PIPES = true ∧ t.live = s.live ∧ (t.wbSt d).sw = (s.wbSt d).sw ∧
        t.on (wbB d) R.WB_SHADOW_PENDING = false) := by
  let u := s.wr (wbB d) R.WB_SHADOW_HELD 0
  have hrd : ∀ {f : Fld}, R.WB_SHADOW_HELD.apart f = true → u.rd (wbB d) f = s.rd (wbB d) f := fun hf =>
    State.rd_wr_of_apart s _ _ (by decide) hf
  have hon : ∀ {f : Fld}, R.WB_SHADOW_HELD.apart f = true → u.on (wbB d) f = s.on (wbB d) f := fun hf => by
    rw [State.on, State.on, hrd hf]
  refine ⟨wbHandOver d u, execWbHeldHandover_hands hheld hpending, ?_, fun h => ?_, fun h => ?_⟩
  · rw [wbHandOver_held]
    exact State.on_of_rd_zero (State.rd_wr_same _ _ _ 0 (by decide))
  · rw [← pipesHeld_wr_held, ← hrd (by decide), ← hon (by decide)] at h
    obtain ⟨hlive, htab, hpend, hdirty, -⟩ := wbHandOver_shows h
    refine ⟨fun o ho => (hlive o ho).trans (State.reg_wr_other s _ _ _ _ ?_), htab, hpend, hdirty⟩
    have hrange := (wbShadowed_range ho).2
    have hoff : R.WB_SHADOW_HELD.off = 0x28 := rfl
    omega
  · rw [← pipesHeld_wr_held, ← hrd (by decide), ← hon (by decide)] at h
    rw [wbHandOver_refused h.1 h.2]
    refine ⟨State.on_of_rd_one (State.rd_wr_same _ _ _ 1 (by decide)), rfl, rfl, ?_⟩
    rw [State.on, State.rd_wr_of_apart _ _ _ (by decide) (by decide), ← State.on, hon (by decide)]
    exact hpending

theorem execWbPendingClear_clears (hpending : s.on (wbB d) R.WB_SHADOW_PENDING = true) (hsw : (s.wbSt d).sw = none)
    (hwait : (s.wbSt d).waitStart = false)
    (hfirst : s.onF (wbB d) R.WB_CTRL_EN = false ∨ ((s.wbSt d).baseIdx < (s.wbSt d).doneLead ∧
      (s.wbOverlap d ≠ 3 ∨ s.usableT (d + 1 : Nat) = false ∨ (s.wbSt d).baseIdx < (s.wbSt d).donePartner))) :
    execWbPendingClear d s = .next (s.wr (wbB d) R.WB_SHADOW_PENDING 0) := by
  rw [execWbPendingClear]
  refine congrArg Host.Outcome.next (if_pos ?_)
  simp only [hpending, hsw, hwait, Option.isNone_none, Bool.not_false, Bool.and_true, Bool.true_and]
  rcases hfirst with hen | ⟨hlead, hpartner⟩
  · simp [hen]
  · simp only [hlead, decide_true, Bool.true_and, Bool.or_eq_true, decide_eq_true_eq, Bool.not_eq_true']
    tauto

/-! The data port of the user window. -/

/-- The entry a write sets holds the 18 bits written. -/
theorem wtabAccess_write (t : Nat) (v : BitVec 18) (s : State) :
    tget tabReset (wtabAccess t (some (v.setWidth 32)) s).tabS (wtabKey t (s.rd (wbB t) R.WB_WTAB_ADDR_ADDR)) =
      v.setWidth 32 ∧
    (wtabAccess t (some (v.setWidth 32)) s).tabL = s.tabL ∧
    (wtabAccess t (some (v.setWidth 32)) s).on (wbB t) R.WB_SHADOW_SHADOW_DIRTY = true ∧
    (wtabAccess t (some (v.setWidth 32)) s).rd (wbB t) R.WB_WTAB_ADDR_ADDR =
      (s.rd (wbB t) R.WB_WTAB_ADDR_ADDR + 1) % 65536 := by
  have hmask : v.setWidth 32 &&& 0x3FFFF#32 = v.setWidth 32 := by
    have hlt : (v.setWidth 32).toNat < 2 ^ 18 := by
      have := v.isLt
      rw [BitVec.toNat_setWidth]
      omega
    apply BitVec.eq_of_toNat_eq
    exact (Nat.and_two_pow_sub_one_eq_mod _ 18).trans (Nat.mod_eq_of_lt hlt)
  refine ⟨?_, rfl, State.on_of_rd_one ?_, ?_⟩
  · exact (tget_tset_same _ _ _ _).trans hmask
  · rw [wtabAccess, State.rd_wr_of_apart _ _ _ (by decide) (by decide)]
    exact State.rd_wr_same _ _ _ 1 (by decide)
  · rw [wtabAccess, State.rd_wr_same _ _ _ _ (by decide)]
    exact Nat.mod_mod _ _

theorem wtabAccess_read (t : Nat) (s : State) :
    (wtabAccess t none s).readData = tget tabReset (if s.on (wbB t) R.WB_SHADOW_VIEW then s.tabL else s.tabS)
      (wtabKey t (s.rd (wbB t) R.WB_WTAB_ADDR_ADDR)) ∧
    (wtabAccess t none s).tabS = s.tabS ∧
    (wtabAccess t none s).rd (wbB t) R.WB_WTAB_ADDR_ADDR = (s.rd (wbB t) R.WB_WTAB_ADDR_ADDR + 1) % 65536 := by
  refine ⟨rfl, rfl, ?_⟩
  rw [wtabAccess, State.rd_wr_same _ _ _ _ (by decide)]
  exact Nat.mod_mod _ _

theorem execWtabDataAccess_present (h : s.hasT d = true) (write : Option (BitVec 18)) :
    execWtabDataAccess d write s = .next (wtabAccess d (write.map (·.setWidth 32)) s) := by
  rw [execWtabDataAccess, if_pos h]

end

end Sys2Proof.Machine
end

section
/-! PROOFS. The wide-band switch (R92, R97, R103, R113). -/

namespace Sys2Proof.Machine

/-- RUN and PIPES follow the setting in force. -/
theorem wbShow_shows (t : Nat) (s : State) :
    (wbShow t s).on (wbB t) R.WB_STATUS_RUN = (s.onF (wbB t) R.WB_CTRL_EN && (s.wbSt t).running) ∧
    (wbShow t s).rd (wbB t) R.WB_STATUS_PIPES =
      (if s.onF (wbB t) R.WB_CTRL_EN then 2 ^ s.wbOverlap t else 0) := by
  have hoverlap : s.wbOverlap t < 4 := bitsOf_lt _ _ _
  have hpow : 2 ^ s.wbOverlap t < 2 ^ 4 := Nat.pow_lt_pow_right (by decide) hoverlap
  refine ⟨?_, ?_⟩
  · simp (disch := decide) only [wbShow, State.wrs, State.on, State.rd_wr_of_apart, State.rd_wr_same]
    cases s.onF (wbB t) R.WB_CTRL_EN && (s.wbSt t).running <;> rfl
  · simp (disch := decide) only [wbShow, State.wrs, State.rd_wr_same]
    refine Nat.mod_eq_of_lt ?_
    split
    · exact hpow
    · exact Nat.two_pow_pos _

/-- The live set has taken effect at sample `sw`, whose frame has index `idx`; the registers do not show it yet. -/
def wbSwitched (t sw idx : Nat) (s : State) : State :=
  let sameRun := decide (bitsPut (s.forceReg (wbB t + R.WB_RS)).toNat 8 4 0 =
    bitsPut (s.liveReg (wbB t + R.WB_RS)).toNat 8 4 0)
  (wbRestart t sw idx ((s.enforce (wbB t) 0x4 0x24).tabEnforce (wtabKey t 0) (wtabKey t 65536))).modWb t fun w =>
    { w with
      sw := none
      tunes := (sw, clampTune (tuneOf s.rdL t)) :: w.tunes
      rsStart := if sameRun then w.rsStart else sw
      rsNext := if sameRun then w.rsNext else 0 }

theorem wbSwitchAt_eq (t sw idx : Nat) (s : State) : wbSwitchAt t sw idx s = wbShow t (wbSwitched t sw idx s) := rfl

theorem wbSwitched_leaves (t sw idx : Nat) (s : State) :
    ((wbSwitched t sw idx s).wbSt t).sw = none ∧
    ((wbSwitched t sw idx s).wbSt t).running = (s.wbSt t).running ∧
    ((wbSwitched t sw idx s).wbSt t).tunes = (sw, clampTune (tuneOf s.rdL t)) :: (s.wbSt t).tunes ∧
    ((wbSwitched t sw idx s).wbSt t).baseIdx = idx ∧
    ((wbSwitched t sw idx s).wbSt t).baseStart = ceilTo ((wbSwitched t sw idx s).wbHop t) sw ∧
    (∀ o ∈ wbShadowed, (wbSwitched t sw idx s).forceReg (wbB t + o) = s.liveReg (wbB t + o)) ∧
    (∀ k : Fin 65536, tget tabReset (wbSwitched t sw idx s).tabF (wtabKey t k) = tget tabReset s.tabL (wtabKey t k)) := by
  have hwb : (wbSwitched t sw idx s).wbSt t = _ := State.wbSt_modWb _ t _
  rw [wbRestart, State.wbSt_modWb] at hwb
  refine ⟨by rw [hwb], by rw [hwb]; rfl, by rw [hwb]; rfl, by rw [hwb], by rw [hwb]; rfl, fun o ho => ?_,
    fun k => tget_tcopy_wtab s.tabL s.tabF t k⟩
  obtain ⟨hlo, hhi⟩ := wbShadowed_range ho
  exact State.forceReg_enforce s (wbB t) 0x4 0x24 hlo hhi

/-- The switch, but for what the other blocks do at it. -/
theorem wbSwitchAt_leaves (t sw idx : Nat) (s : State) {u : State} (hu : wbSwitchAt t sw idx s = u) :
    (u.wbSt t).sw = none ∧ (∀ o ∈ wbShadowed, u.forceReg (wbB t + o) = s.liveReg (wbB t + o)) ∧
    (∀ k : Fin 65536, tget tabReset u.tabF (wtabKey t k) = tget tabReset s.tabL (wtabKey t k)) ∧
    (u.wbSt t).tunes = (sw, clampTune (tuneOf s.rdL t)) :: (s.wbSt t).tunes ∧ (u.wbSt t).baseIdx = idx ∧
    (u.wbSt t).baseStart = ceilTo (u.wbHop t) sw ∧
    u.on (wbB t) R.WB_STATUS_RUN = (u.onF (wbB t) R.WB_CTRL_EN && (s.wbSt t).running) ∧
    u.rd (wbB t) R.WB_STATUS_PIPES = (if u.onF (wbB t) R.WB_CTRL_EN then 2 ^ u.wbOverlap t else 0) := by
  obtain ⟨hsw, hrun, htunes, hidx, hstart, hforced, htab⟩ := wbSwitched_leaves t sw idx s
  obtain ⟨hshown, hpipes⟩ := wbShow_shows t (wbSwitched t sw idx s)
  rw [wbSwitchAt_eq] at hu
  rw [hu] at hshown hpipes
  have hwb : u.wbSt t = (wbSwitched t sw idx s).wbSt t := by simp [← hu, State.wbSt, wbShow]
  have hforce : u.force = (wbSwitched t sw idx s).force := by simp [← hu, wbShow]
  have htabF : u.tabF = (wbSwitched t sw idx s).tabF := by simp [← hu, wbShow]
  have hrd := State.rdF_congr hforce
  have hhop : u.wbHop t = (wbSwitched t sw idx s).wbHop t := by
    unfold State.wbHop State.wbN State.wbLog2n State.wbOverlap
    rw [hrd]
  have hen : u.onF (wbB t) R.WB_CTRL_EN = (wbSwitched t sw idx s).onF (wbB t) R.WB_CTRL_EN := by
    rw [State.onF, State.onF, hrd]
  have hoverlap : u.wbOverlap t = (wbSwitched t sw idx s).wbOverlap t := by
    rw [State.wbOverlap, State.wbOverlap, hrd]
  rw [hwb, hhop, hen, hoverlap, htabF, hshown, hpipes, hrun]
  refine ⟨hsw, fun o ho => ?_, htab, htunes, hidx, hstart, rfl, rfl⟩
  rw [State.forceReg, hforce]
  exact hforced o ho

/-- What the switch does to the other blocks leaves the wide-band transform as it is. -/
theorem execWbSwitch_switches {d : TDie} {sw : Nat} {s : State} (h : (s.wbSt d).sw = some sw) :
    ∃ t, execWbSwitch d s = .next t ∧
      t.wbSide = (wbSwitchAt d sw (wbNextIdx s d sw) (wbClose d (wbNextIdx s d sw) s)).wbSide := by
  rw [execWbSwitch, h]
  exact ⟨_, rfl, by simp⟩

/-- The switch of a state that closes the interval in progress first: the live set of `s` is in force. -/
theorem execWbSwitch_inForce {d : TDie} {sw : Nat} {s : State} (h : (s.wbSt d).sw = some sw) :
    ∃ t, execWbSwitch d s = .next t ∧ (t.wbSt d).sw = none ∧
      (∀ o ∈ wbShadowed, t.forceReg (wbB d + o) = s.liveReg (wbB d + o)) ∧
      (∀ k : Fin 65536, tget tabReset t.tabF (wtabKey d k) = tget tabReset s.tabL (wtabKey d k)) ∧
      (t.wbSt d).tunes = (sw, clampTune (tuneOf s.rdL d)) :: (s.wbSt d).tunes ∧
      (t.wbSt d).baseIdx = wbNextIdx s d sw ∧ (t.wbSt d).baseStart = ceilTo (t.wbHop d) sw ∧
      t.on (wbB d) R.WB_STATUS_RUN = (t.onF (wbB d) R.WB_CTRL_EN && (s.wbSt d).running) ∧
      t.rd (wbB d) R.WB_STATUS_PIPES = (if t.onF (wbB d) R.WB_CTRL_EN then 2 ^ t.wbOverlap d else 0) := by
  obtain ⟨t, hexec, hside⟩ := execWbSwitch_switches h
  have hclose := wbClose_wbCore d (wbNextIdx s d sw) s
  obtain ⟨hrun, htunes, -⟩ := WbSt.kept_of_setting (State.setting_of_wbCore hclose d)
  have hlive : (wbClose d (wbNextIdx s d sw) s).live = s.live := congrArg WbCore.live hclose
  have htabL : (wbClose d (wbNextIdx s d sw) s).tabL = s.tabL := congrArg WbCore.tabL hclose
  have hrdL := State.rdL_congr hlive
  have hleaves := wbSwitchAt_leaves d sw (wbNextIdx s d sw) (wbClose d (wbNextIdx s d sw) s) rfl
  generalize wbSwitchAt d sw (wbNextIdx s d sw) (wbClose d (wbNextIdx s d sw) s) = u at hside hleaves
  have hcore := State.wbSide_wbCore hside
  have hlog2n := State.rdF_of_wbCore hcore d (f := R.WB_CTRL_LOG2N) (by decide)
  have hoverlap := State.rdF_of_wbCore hcore d (f := R.WB_CTRL_OVERLAP) (by decide)
  have hhop : t.wbHop d = u.wbHop d := by
    unfold State.wbHop State.wbN State.wbLog2n State.wbOverlap
    rw [hlog2n, hoverlap]
  have hen : t.onF (wbB d) R.WB_CTRL_EN = u.onF (wbB d) R.WB_CTRL_EN := by
    rw [State.onF, State.onF, State.rdF_of_wbCore hcore d (by decide)]
  obtain ⟨hsw, hforced, htab, htuned, hidx, hstart, hshown, hpipes⟩ := hleaves
  rw [hrun] at hshown
  rw [htunes, hrdL] at htuned
  refine ⟨t, hexec, ?_⟩
  rw [State.wbSt_of_wbSide hside, hhop, hen, State.on, State.rd_of_wbCore hcore d (by decide) (by decide),
    State.rd_of_wbCore hcore d (by decide) (by decide), State.wbOverlap, hoverlap]
  refine ⟨hsw, fun o ho => ?_, fun k => ?_, htuned, hidx, hstart, hshown, hpipes⟩
  · have hoff : o < 0x10000 := by
      have := (wbShadowed_range ho).2
      omega
    rw [State.forceReg_of_wbCore hcore d hoff, hforced o ho, State.liveReg, State.liveReg, hlive]
  · rw [State.tabF_of_wbCore hcore, htab, htabL]

end Sys2Proof.Machine
end

section
/-! PROOFS. A spectrum of the stream, the merge of detected spectra, and replays (R103 to R119). -/

namespace Sys2Proof.Machine

@[simp] theorem sendItem_regs (inp : Nat) (bytes : List Byte) (s : State) : (sendItem inp bytes s).regs = s.regs := by
  simp only [sendItem, State.pulse_regs]
  split <;> simp

/-! The output of a spectrum (R107, R109, R111). -/

/-- A spectrum has been counted with its saturated bins. -/
def specCounted (i : SpecInfo) (sat : Nat) (s : State) : State :=
  let u := s.wr (wbB i.die) R.WB_SPEC_COUNT_SPECTRA ((s.rd (wbB i.die) R.WB_SPEC_COUNT_SPECTRA + 1) % 2 ^ 32)
  if sat = 0 then u else u.inc (wbB i.die) R.WB_SAT_COUNT_SATURATIONS sat

theorem specCounted_counts (i : SpecInfo) (sat : Nat) (s : State) :
    (specCounted i sat s).rd (wbB i.die) R.WB_SPEC_COUNT_SPECTRA =
      (s.rd (wbB i.die) R.WB_SPEC_COUNT_SPECTRA + 1) % 2 ^ 32 ∧
    (specCounted i sat s).rd (wbB i.die) R.WB_SAT_COUNT_SATURATIONS =
      min (2 ^ 32 - 1) (s.rd (wbB i.die) R.WB_SAT_COUNT_SATURATIONS + sat) ∧
    (specCounted i sat s).wb = s.wb ∧ (specCounted i sat s).items = s.items := by
  have hcount := State.rd_wr_same s (wbB i.die) R.WB_SPEC_COUNT_SPECTRA
    ((s.rd (wbB i.die) R.WB_SPEC_COUNT_SPECTRA + 1) % 2 ^ 32) (by decide)
  have hsat := State.rd_wr_of_apart (f := R.WB_SPEC_COUNT_SPECTRA) (g := R.WB_SAT_COUNT_SATURATIONS) s (wbB i.die)
    ((s.rd (wbB i.die) R.WB_SPEC_COUNT_SPECTRA + 1) % 2 ^ 32) (by decide) (by decide)
  have hlt : s.rd (wbB i.die) R.WB_SAT_COUNT_SATURATIONS < 2 ^ 32 := State.rd_lt _ _ _
  unfold specCounted
  dsimp only
  split
  · next hzero =>
    refine ⟨hcount.trans (Nat.mod_mod _ _), ?_, rfl, rfl⟩
    rw [hsat, hzero]
    omega
  · refine ⟨?_, ?_, rfl, rfl⟩
    · rw [State.inc, State.rd_wr_of_apart _ _ _ (by decide) (by decide), hcount]
      exact Nat.mod_mod _ _
    · rw [State.rd_inc_same _ _ _ _ (by decide), hsat]
      rfl

/-- The item a spectrum goes out as: its levels or its bins (R109). -/
def specItem (q : WbSet) (i : SpecInfo) (bins : List (Int × Int)) (e : Nat) : List Byte :=
  if q.out = 1 then itemHeader 2 (inputOf i.lead) i.flags q.log2n q.window 0xFF 0 i.sts i.idx 1 ++ levelBytes i.lv
  else itemHeader 1 (inputOf i.lead) i.flags q.log2n q.window 0xFF e i.sts i.idx 1 ++ cplxBytes bins

theorem specOut_eq (q : WbSet) (i : SpecInfo) (sat : Nat) (bins : List (Int × Int)) (e : Nat) (s : State) :
    specOut q i sat bins e s =
      if (decide (i.die = i.lead) || bit i.flags 6) && decide ((i.idx - q.baseIdx) % q.every = 0) &&
          (q.out == 1 || q.out == 2) then
        sendItem (inputOf i.lead) (specItem q i bins e) (specCounted i sat s)
      else specCounted i sat s := rfl

theorem specOut_counts (q : WbSet) (i : SpecInfo) (sat : Nat) (bins : List (Int × Int)) (e : Nat) (s : State) :
    (specOut q i sat bins e s).rd (wbB i.die) R.WB_SPEC_COUNT_SPECTRA =
      (s.rd (wbB i.die) R.WB_SPEC_COUNT_SPECTRA + 1) % 2 ^ 32 ∧
    (specOut q i sat bins e s).rd (wbB i.die) R.WB_SAT_COUNT_SATURATIONS =
      min (2 ^ 32 - 1) (s.rd (wbB i.die) R.WB_SAT_COUNT_SATURATIONS + sat) ∧
    (specOut q i sat bins e s).wb = s.wb := by
  obtain ⟨hcount, hsat, hwb, -⟩ := specCounted_counts i sat s
  rw [specOut_eq]
  split
  · exact ⟨(State.rd_congr (sendItem_regs _ _ _) _ _).trans hcount,
      (State.rd_congr (sendItem_regs _ _ _) _ _).trans hsat, (sendItem_wb _ _ _).trans hwb⟩
  · exact ⟨hcount, hsat, hwb⟩

/-- Every EVERY-th spectrum of the lead die goes out. -/
theorem specOut_sends {q : WbSet} {i : SpecInfo} (hlead : i.die = i.lead)
    (hevery : (i.idx - q.baseIdx) % q.every = 0) (hout : q.out = 1 ∨ q.out = 2) (sat : Nat) (bins : List (Int × Int))
    (e : Nat) (s : State) : (inputOf i.lead, specItem q i bins e) ∈ (specOut q i sat bins e s).items := by
  have hgo : ((decide (i.die = i.lead) || bit i.flags 6) && decide ((i.idx - q.baseIdx) % q.every = 0) &&
      (q.out == 1 || q.out == 2)) = true := by
    simp [hlead, hevery, hout]
  rw [specOut_eq, if_pos hgo, sendItem_items]
  exact List.mem_append_right _ (List.mem_singleton.mpr rfl)

/-! A spectrum that is due. -/

theorem wbSt_specDone (t idx : Nat) (s : State) : (specDone t idx s).wbSt (pairLead t) = { s.wbSt (pairLead t) with
    nextIdx := max (s.wbSt (pairLead t)).nextIdx (idx + 1)
    doneLead := if t = pairLead t then idx + 1 else (s.wbSt (pairLead t)).doneLead
    donePartner := if t = pairLead t then (s.wbSt (pairLead t)).donePartner else idx + 1 } :=
  State.wbSt_modWb s (pairLead t) _

/-- The count of the die that has computed a spectrum, or lost it. -/
theorem done_specDone (t idx : Nat) (s : State) :
    (if t = pairLead t then ((specDone t idx s).wbSt (pairLead t)).doneLead
      else ((specDone t idx s).wbSt (pairLead t)).donePartner) = idx + 1 := by
  rw [wbSt_specDone]
  split <;> rfl

/-- The index of the spectrum of the frame at `start` in the setting in force. -/
def dueIdx (s : State) (t start : Nat) : Nat :=
  (s.wbSet (pairLead t)).baseIdx + (s.wbSet (pairLead t)).numberOf start

/-- The spectrum of the frame at `start` as die `t` computes it, with its saturated bins, its bins and its exponent. -/
def dueInfo (s : State) (t start : Nat) : SpecInfo × Nat × List (Int × Int) × Nat :=
  specInfo s t (s.wbSet (pairLead t)) (dueIdx s t start) (s.dieSample t)
    (s.statusOf t start (start + (s.wbSet (pairLead t)).n - 1))

theorem dueInfo_names (s : State) (t start : Nat) : (dueInfo s t start).1.die = t ∧
    (dueInfo s t start).1.lead = pairLead t ∧ (dueInfo s t start).1.idx = dueIdx s t start := ⟨rfl, rfl, rfl⟩

/-- The item that a spectrum that is due goes out as. -/
def dueItem (s : State) (t start : Nat) : List Byte :=
  specItem (s.wbSet (pairLead t)) (dueInfo s t start).1 (dueInfo s t start).2.2.1 (dueInfo s t start).2.2.2

/-- The spectrum has been computed, counted and sent. -/
def specSent (t start : Nat) (s : State) : State :=
  specOut (s.wbSet (pairLead t)) (dueInfo s t start).1 (dueInfo s t start).2.1 (dueInfo s t start).2.2.1
    (dueInfo s t start).2.2.2 (specDone t (dueIdx s t start) s)

section
variable {d : TDie} {start : Nat} {s : State}

theorem execSpectrumComplete_computes (hdue : specDue s d start = true)
    (hpipe : (pipeOf s (pairLead d) start).any (fun p => s.brokenPipes.contains (4 * p.1 + p.2)) = false) :
    ∃ f, execSpectrumComplete d start false s = .next (detectedOut (pairLead d) (specReleaseAll (pairLead d)
      ((specDetect (dueInfo s d start).1 (specSent d start s)).modTrg (pairLead d) f))) := by
  unfold execSpectrumComplete
  dsimp only
  rw [if_neg (by decide), hdue, hpipe]
  exact ⟨_, rfl⟩

/-- What is kept from the moment the spectrum is sent, and that its item stays. -/
theorem execSpectrumComplete_leaves (hdue : specDue s d start = true)
    (hpipe : (pipeOf s (pairLead d) start).any (fun p => s.brokenPipes.contains (4 * p.1 + p.2)) = false) :
    ∃ t, execSpectrumComplete d start false s = .next t ∧ t.wbCore = (specSent d start s).wbCore ∧
      (specSent d start s).items <+: t.items := by
  obtain ⟨f, hexec⟩ := execSpectrumComplete_computes hdue hpipe
  refine ⟨_, hexec, by simp, ?_⟩
  rw [detectedOut_items, specReleaseAll_items, State.modTrg_items]
  exact specDetect_items _ _

/-- The spectrum is counted, and every EVERY-th of the lead die goes out. -/
theorem execSpectrumComplete_counts (hdue : specDue s d start = true)
    (hpipe : (pipeOf s (pairLead d) start).any (fun p => s.brokenPipes.contains (4 * p.1 + p.2)) = false) :
    ∃ t, execSpectrumComplete d start false s = .next t ∧
      (if d.val = pairLead d then (t.wbSt (pairLead d)).doneLead else (t.wbSt (pairLead d)).donePartner) =
        dueIdx s d start + 1 ∧
      t.rd (wbB d) R.WB_SPEC_COUNT_SPECTRA = (s.rd (wbB d) R.WB_SPEC_COUNT_SPECTRA + 1) % 2 ^ 32 ∧
      t.rd (wbB d) R.WB_SAT_COUNT_SATURATIONS =
        min (2 ^ 32 - 1) (s.rd (wbB d) R.WB_SAT_COUNT_SATURATIONS + (dueInfo s d start).2.1) ∧
      (t.wbSt (pairLead d)).lost = (s.wbSt (pairLead d)).lost ∧
      (d.val = pairLead d → (s.wbSet (pairLead d)).out = 1 ∨ (s.wbSet (pairLead d)).out = 2 →
        (dueIdx s d start - (s.wbSet (pairLead d)).baseIdx) % (s.wbSet (pairLead d)).every = 0 →
        (inputOf (pairLead d), dueItem s d start) ∈ t.items) := by
  obtain ⟨t, hexec, hcore, hitems⟩ := execSpectrumComplete_leaves hdue hpipe
  obtain ⟨hdie, hlead, hidx⟩ := dueInfo_names s d start
  obtain ⟨hspec, hsat, hwb⟩ := specOut_counts (s.wbSet (pairLead d)) (dueInfo s d start).1 (dueInfo s d start).2.1
    (dueInfo s d start).2.2.1 (dueInfo s d start).2.2.2 (specDone d (dueIdx s d start) s)
  rw [hdie] at hspec hsat
  have hsent : (specSent d start s).wbSt (pairLead d) = (specDone d (dueIdx s d start) s).wbSt (pairLead d) := by
    rw [State.wbSt, State.wbSt, specSent, hwb]
  obtain ⟨-, -, -, -, hdoneLead, hdonePartner, hlost⟩ :=
    WbSt.kept_of_setting (State.setting_of_wbCore hcore (pairLead d))
  refine ⟨t, hexec, ?_, ?_, ?_, ?_, fun hself hout hevery => ?_⟩
  · rw [hdoneLead, hdonePartner, hsent]
    exact done_specDone d (dueIdx s d start) s
  · exact (State.rd_of_wbCore hcore d (by decide) (by decide)).trans hspec
  · exact (State.rd_of_wbCore hcore d (by decide) (by decide)).trans hsat
  · rw [hlost, hsent, wbSt_specDone]
  · have hdieLead : (dueInfo s d start).1.die = (dueInfo s d start).1.lead := by rw [hdie, hlead, ← hself]
    have hsends := specOut_sends hdieLead (hidx ▸ hevery) hout (dueInfo s d start).2.1 (dueInfo s d start).2.2.1
      (dueInfo s d start).2.2.2 (specDone d (dueIdx s d start) s)
    rw [hlead] at hsends
    exact hitems.mem hsends

theorem execSpectrumComplete_loses (hdue : specDue s d start = true)
    (hpipe : (pipeOf s (pairLead d) start).any (fun p => s.brokenPipes.contains (4 * p.1 + p.2)) = true) :
    execSpectrumComplete d start false s = .next (specReleaseAll (pairLead d) (specLost d start s)) := by
  unfold execSpectrumComplete
  dsimp only
  rw [if_neg (by decide), hdue, hpipe]
  rfl

/-- The spectrum is lost: its die has gone past it, and it waits to be recomputed. -/
def specMissed (t start : Nat) (s : State) : State :=
  specDone t (dueIdx s t start) (s.modWb (pairLead t) fun w => { w with
    lost := w.lost ++ [{ idx := dueIdx s t start, start := start, set := s.wbSet (pairLead t) }] })

/-- The trace that lacks a lost spectrum is noted; nothing else changes. -/
theorem specLost_leaves (t start : Nat) (s : State) :
    (specLost t start s).wbCore = (specMissed t start s).wbCore ∧ (specLost t start s).items = s.items := by
  unfold specLost
  extract_lets l q idx span first u at_
  have hu : u = specMissed t start s := rfl
  rw [hu]
  split
  · exact ⟨rfl, rfl⟩
  · exact ⟨State.modWb_wbCore _ _ _ (by simp), rfl⟩

/-- A spectrum that is lost is noted, and neither counted nor sent. -/
theorem execSpectrumComplete_notes (hdue : specDue s d start = true)
    (hpipe : (pipeOf s (pairLead d) start).any (fun p => s.brokenPipes.contains (4 * p.1 + p.2)) = true) :
    ∃ t, execSpectrumComplete d start false s = .next t ∧
      (if d.val = pairLead d then (t.wbSt (pairLead d)).doneLead else (t.wbSt (pairLead d)).donePartner) =
        dueIdx s d start + 1 ∧
      (∃ e ∈ (t.wbSt (pairLead d)).lost, e.start = start ∧ e.idx = dueIdx s d start) ∧
      t.rd (wbB d) R.WB_SPEC_COUNT_SPECTRA = s.rd (wbB d) R.WB_SPEC_COUNT_SPECTRA ∧ t.items = s.items := by
  obtain ⟨hlostCore, hitems⟩ := specLost_leaves d start s
  have hcore := (specReleaseAll_wbCore (pairLead d) (specLost d start s)).trans hlostCore
  obtain ⟨-, -, -, -, hdoneLead, hdonePartner, hlost⟩ :=
    WbSt.kept_of_setting (State.setting_of_wbCore hcore (pairLead d))
  refine ⟨_, execSpectrumComplete_loses hdue hpipe, ?_, ?_, ?_, (specReleaseAll_items _ _).trans hitems⟩
  · rw [hdoneLead, hdonePartner]
    exact done_specDone d (dueIdx s d start) _
  · rw [hlost, specMissed, wbSt_specDone, State.wbSt_modWb]
    exact ⟨_, List.mem_append_right _ (List.mem_singleton.mpr rfl), rfl, rfl⟩
  · exact State.rd_of_wbCore hcore d (by decide) (by decide)

theorem execSpectrumComplete_replays {e : LostSpec}
    (hlost : (s.wbSt (pairLead d)).lost.find? (fun x => x.start == start) = some e) (husable : s.usableT d = true)
    (hreplay : pipeReplay s (pairLead d) = true) :
    ∃ (t u : State) (i : SpecInfo) (sat : Nat) (bins : List (Int × Int)) (ex : Nat),
      execSpectrumComplete d start true s = .next t ∧ i.die = d ∧ u.wbSide = s.wbSide ∧
      t.wbSide = (specOut e.set i sat bins ex
        (u.modWb (pairLead d) fun w => { w with lost := w.lost.filter (· != e) })).wbSide := by
  let u := replayCount (pairLead d) (tarnHolds s (pairLead d) start (start + e.set.n - 1)) s
  let r := replayInfo u d e.set e.idx
  have hgo : (!(s.usableT d && pipeReplay s (pairLead d))) = false := by rw [husable, hreplay]; rfl
  refine ⟨replayDetected d e.set e.idx (densReplay r.1 (replayConds e.set 0 r.1 (specOut e.set r.1 r.2.1 r.2.2.1 r.2.2.2
      (u.modWb (pairLead d) fun w => { w with lost := w.lost.filter (· != e) })))), u, r.1, r.2.1, r.2.2.1, r.2.2.2, ?_,
    rfl, replayCount_wbSide _ _ _, by simp⟩
  unfold execSpectrumComplete specReplay
  dsimp only
  rw [if_pos rfl, hlost]
  dsimp only
  rw [hgo]
  rfl

/-- A spectrum that has been recomputed is counted and waits no more. -/
theorem execSpectrumComplete_recomputes {e : LostSpec}
    (hlost : (s.wbSt (pairLead d)).lost.find? (fun x => x.start == start) = some e) (husable : s.usableT d = true)
    (hreplay : pipeReplay s (pairLead d) = true) :
    ∃ t, execSpectrumComplete d start true s = .next t ∧
      t.rd (wbB d) R.WB_SPEC_COUNT_SPECTRA = (s.rd (wbB d) R.WB_SPEC_COUNT_SPECTRA + 1) % 2 ^ 32 ∧
      (t.wbSt (pairLead d)).lost = (s.wbSt (pairLead d)).lost.filter (fun x => x != e) := by
  obtain ⟨t, u, i, sat, bins, ex, hexec, hdie, hu, ht⟩ := execSpectrumComplete_replays hlost husable hreplay
  obtain ⟨hspec, -, hwb⟩ := specOut_counts e.set i sat bins ex
    (u.modWb (pairLead d) fun w => { w with lost := w.lost.filter (· != e) })
  rw [hdie, State.rd_modWb, State.rd_of_wbCore (State.wbSide_wbCore hu) d (by decide) (by decide)] at hspec
  refine ⟨t, hexec, (State.rd_of_wbCore (State.wbSide_wbCore ht) d (by decide) (by decide)).trans hspec, ?_⟩
  rw [State.wbSt_of_wbSide ht, State.wbSt, hwb, ← State.wbSt, State.wbSt_modWb, State.wbSt_of_wbSide hu]

end

end Sys2Proof.Machine
end

section
/-! PROOFS. The merge of detected spectra at the hub (R114, R115). -/

namespace Sys2Proof.Machine

/-- The lowest interval number among the parts waiting at the hub, `p` being one of them. -/
def oldestIv (parts : List Det) (p : Det) : Nat := parts.foldl (fun m x => min m x.iv) p.iv

/-- The detected spectrum that the parts of interval `iv` make. -/
def mergedDet (mode iv : Nat) (parts : List Det) : Det :=
  detResult mode ((parts.filter fun x => x.iv == iv).foldl (detJoin mode) {})

theorem foldl_min_iv (l : List Det) (m : Nat) :
    l.foldl (fun m x => min m x.iv) m = m ∨ ∃ x ∈ l, x.iv = l.foldl (fun m x => min m x.iv) m := by
  induction l generalizing m with
  | nil => exact .inl rfl
  | cons x l ih =>
    rw [List.foldl_cons]
    rcases ih (min m x.iv) with hmin | ⟨y, hy, hiv⟩
    · rw [hmin]
      rcases Nat.le_total m x.iv with hle | hle
      · exact .inl (Nat.min_eq_left hle)
      · exact .inr ⟨x, List.mem_cons_self, (Nat.min_eq_right hle).symm⟩
    · exact .inr ⟨y, List.mem_cons_of_mem _ hy, hiv⟩

/-- A part of the oldest interval waits at the hub. -/
theorem oldestIv_mem {parts : List Det} {p : Det} (h : p ∈ parts) : ∃ x ∈ parts, x.iv = oldestIv parts p := by
  rcases foldl_min_iv parts p.iv with hmin | hmem
  · exact ⟨p, h, hmin.symm⟩
  · exact hmem

theorem detJoin_iv (mode : Nat) {a d : Det} {k : Nat} (ha : a.iv = k) (hd : d.iv = k) : (detJoin mode a d).iv = k := by
  unfold detJoin
  split
  · exact hd
  · split <;> exact ha

theorem foldl_detJoin_iv (mode : Nat) {k : Nat} (l : List Det) (hl : ∀ x ∈ l, x.iv = k) {a : Det} (ha : a.iv = k) :
    (l.foldl (detJoin mode) a).iv = k := by
  induction l generalizing a with
  | nil => exact ha
  | cons x l ih =>
    exact ih (fun y hy => hl y (List.mem_cons_of_mem _ hy)) (detJoin_iv mode ha (hl x List.mem_cons_self))

theorem detResult_iv (mode : Nat) (d : Det) : (detResult mode d).iv = d.iv := by
  unfold detResult
  split
  · rfl
  · split <;> rfl

/-- The parts of one interval make a detected spectrum of that interval. -/
theorem mergedDet_iv (mode : Nat) {iv : Nat} {parts : List Det} (h : ∃ x ∈ parts, x.iv = iv) :
    (mergedDet mode iv parts).iv = iv := by
  obtain ⟨x, hx, hiv⟩ := h
  rw [mergedDet, detResult_iv]
  have hall : ∀ y ∈ parts.filter (fun y => y.iv == iv), y.iv = iv := fun y hy => by simpa using (List.mem_filter.mp hy).2
  have hmem : x ∈ parts.filter fun y => y.iv == iv := List.mem_filter.mpr ⟨hx, by simp [hiv]⟩
  cases hmine : parts.filter fun y => y.iv == iv with
  | nil => rw [hmine] at hmem; exact absurd hmem List.not_mem_nil
  | cons y l =>
    rw [hmine] at hall
    have hfirst : detJoin mode {} y = y := if_pos rfl
    rw [List.foldl_cons, hfirst]
    exact foldl_detJoin_iv mode l (fun z hz => hall z (List.mem_cons_of_mem _ hz)) (hall y List.mem_cons_self)

theorem mergeOldest_of_head {t : Nat} {p : Det} {s : State} (hp : (s.wbSt t).parts.head? = some p) :
    mergeOldest t s =
      (((s.wbSt t).parts.filter fun x => x.iv == oldestIv (s.wbSt t).parts p).foldl (detJoin (s.wbDet t)) {},
        s.modWb t fun w => { w with parts := w.parts.filter fun x => x.iv != oldestIv (s.wbSt t).parts p }) := by
  obtain ⟨l, hl⟩ := List.head?_eq_some_iff.mp hp
  unfold mergeOldest
  rw [hl]
  rfl

/-- The parts of the oldest interval have left the hub. -/
def mergeTaken (t : Nat) (p : Det) (s : State) : State :=
  s.modWb t fun w => { w with parts := w.parts.filter fun x => x.iv != oldestIv (s.wbSt t).parts p }

theorem execDetectMerge_merges {d : TDie} {p : Det} {s : State} (hlead : isLead d = true) (hoverlap : s.wbOverlap d = 3)
    (hready : mergeReady s d = true) (hp : (s.wbSt d).parts.head? = some p) :
    execDetectMerge d s = .next (detectedOut d
      (averager d (mergedDet (s.wbDet d) (oldestIv (s.wbSt d).parts p) (s.wbSt d).parts) (mergeTaken d p s))) := by
  have hgo : (isLead d && decide (s.wbOverlap d = 3) && mergeReady s d) = true := by simp [hlead, hoverlap, hready]
  rw [execDetectMerge, if_pos hgo, mergeOldest_of_head hp]
  rfl

/-- What the hand-on of detected spectra leaves of the averager's part. -/
theorem detectedOut_leaves (t : Nat) (s : State) : ((detectedOut t s).wbSt t).parts = (s.wbSt t).parts ∧
    ((detectedOut t s).wbSt t).trace = (s.wbSt t).trace := by
  rw [State.wbSt_of_wbSide (detectedOut_wbSide t s), State.wbSt_modWb]
  exact ⟨rfl, rfl⟩

/-- The trace that a merged interval joins, with it. -/
def mergedTrace (t iv : Nat) (s : State) : TraceAcc :=
  ((s.wbSt t).trace.opened (iv / s.wbL t)).add (iv / s.wbL t) (mergedDet (s.wbDet t) iv (s.wbSt t).parts)

/-- A merged interval leaves the hub and joins its trace, which goes out if the interval is its last. -/
theorem execDetectMerge_averages {d : TDie} {p : Det} {s : State} {iv : Nat} (hlead : isLead d = true)
    (hoverlap : s.wbOverlap d = 3) (hready : mergeReady s d = true) (hp : (s.wbSt d).parts.head? = some p)
    (hiv : oldestIv (s.wbSt d).parts p = iv) :
    ∃ t, execDetectMerge d s = .next t ∧ (t.wbSt d).parts = (s.wbSt d).parts.filter (fun x => x.iv != iv) ∧
      (s.onF (wbB d) R.WB_AVG_TRACE_EN = true → iv % s.wbL d ≠ s.wbL d - 1 →
        (t.wbSt d).trace = mergedTrace d iv s) ∧
      (s.onF (wbB d) R.WB_AVG_TRACE_EN = true → iv % s.wbL d = s.wbL d - 1 → (t.wbSt d).trace = {} ∧
        (inputOf d, traceBytes (s.wbSet d) (inputOf d)
          (if (mergedTrace d iv s).det.n < s.wbD d * s.wbL d then 32 else 0) (mergedTrace d iv s)) ∈ t.items) := by
  let det := mergedDet (s.wbDet d) iv (s.wbSt d).parts
  have hdet : det.iv = iv := mergedDet_iv _ (hiv ▸ oldestIv_mem (List.mem_of_head? hp))
  have hexec := execDetectMerge_merges hlead hoverlap hready hp
  rw [hiv] at hexec
  obtain ⟨hparts, htrace⟩ := detectedOut_leaves d (averager d det (mergeTaken d p s))
  have htaken : (mergeTaken d p s).wbSt d = { s.wbSt d with parts := (s.wbSt d).parts.filter fun x => x.iv != iv } := by
    rw [mergeTaken, State.wbSt_modWb, hiv]
  have hset : (mergeTaken d p s).wbSet d = s.wbSet d := State.wbSet_modWb s d _ (by simp)
  refine ⟨_, hexec, ?_, fun hen hlast => ?_, fun hen hlast => ?_⟩
  · rw [hparts, averager_parts, htaken]
  · rw [htrace, averager_joins (t := d) (s := mergeTaken d p s) hen (hdet.symm ▸ hlast),
      (traceJoined_leaves _ _ _).2.1, htaken, hdet]
    rfl
  · have ha : (((mergeTaken d p s).wbSt d).trace.opened (det.iv / (mergeTaken d p s).wbL d)).add
        (det.iv / (mergeTaken d p s).wbL d) det = mergedTrace d iv s := by
      rw [htaken, hdet]
      rfl
    obtain ⟨-, hsent, hitems⟩ := averager_completes (t := d) (s := mergeTaken d p s) hen (hdet.symm ▸ hlast) ha
    rw [hset] at hitems
    rw [htrace, detectedOut_items, hitems]
    exact ⟨hsent, List.mem_append_right _ (List.mem_singleton.mpr rfl)⟩

end Sys2Proof.Machine
end

section
/-! PROOFS. A trace that goes out again (R119). A spectrum recomputed from the Tarn depends neither on the registers of the
blocks REC, where the replay counts the samples that have been overtaken, nor on the list of incomplete traces. -/

namespace Sys2Proof.Machine

theorem covers_recB_onPage (l : Nat) : Covers (onPage 3) (recB l) :=
  fun _ ho => (onPage_iff (k := 3) (by decide) ho).mpr rfl

theorem not_onPage_of_lt {p x : Nat} (h : x < tB 0) : ¬ onPage p x := fun hx => absurd hx.1 (by omega)

@[simp] theorem replayCount_wb (l : Nat) (held : Bool) (s : State) : (replayCount l held s).wb = s.wb :=
  State.wbSide_wb (replayCount_wbSide l held s)

theorem replayCount_outside (l : Nat) (held : Bool) (s : State) :
    (replayCount l held s).outside [.wb] (onPage 3) = s.outside [.wb] (onPage 3) := by
  have hoff : R.REC_OVERRUN_COUNT_OVERRUNS.off < 0x10000 ∧ R.REC_STATUS_OVERRUN.off < 0x10000 := by decide
  unfold replayCount
  split
  · rfl
  · rw [State.wr_outside _ _ _ _ (covers_recB_onPage l) hoff.2, State.inc_outside _ _ _ _ (covers_recB_onPage l) hoff.1]

theorem hubOf_lt (s : State) (l : Nat) : hubOf s l < 2 := by
  unfold hubOf
  split <;> decide

theorem State.chanOf_lt (s : State) (h a : Nat) : s.chanOf h a < 2 := by
  unfold State.chanOf
  split
  · cases s.chMib h 0 == 0 && s.chMib h 1 != 0 <;> decide
  · split
    · decide
    · split
      · exact Nat.mod_lt _ (by decide)
      · exact Nat.mod_lt _ (by decide)

section
variable {s t : State} (h : t.outside [.wb] (onPage 3) = s.outside [.wb] (onPage 3))
include h

/-- What depends neither on registers nor on the wide-band records. -/
theorem State.same_of_outside {α : Type} (g : State → α) (hg : ∀ u, g (State.rest [.wb] u) = g u) : g t = g s :=
  (hg t).symm.trans ((congrArg g (congrArg Prod.fst h)).trans (hg s))

theorem State.rd_of_outside {b : Nat} {f : Fld} (hout : ¬ onPage 3 (b + f.off)) : t.rd b f = s.rd b f := by
  have hreg : t.reg (b + f.off) = s.reg (b + f.off) := congrFun (congrArg Prod.snd h) ⟨_, hout⟩
  rw [State.rd, State.rd, hreg]

/-- The registers of a DDR-5 channel. -/
theorem State.rd_ddrCh_of_outside {hub c : Nat} (hhub : hub < 2) (hc : c < 2) :
    t.chMib hub c = s.chMib hub c ∧ t.frozen hub c = s.frozen hub c := by
  have hbelow : ∀ f : Fld, f.off < 0x10000 → ¬ onPage 3 (ddrChB hub c + f.off) := fun f hf =>
    not_onPage_of_lt (by simp only [ddrChB, ddrB, hubB, tB]; omega)
  refine ⟨State.rd_of_outside h (hbelow _ (by decide)), ?_⟩
  rw [State.frozen, State.frozen, State.rd_of_outside h (hbelow _ (by decide))]

/-- Capture memory as a requester reads it. -/
theorem State.byte_of_outside {hub : Nat} (hhub : hub < 2) (a : Nat) : t.byte hub a = s.byte hub a := by
  obtain ⟨hmib0, hfrozen0⟩ := State.rd_ddrCh_of_outside h hhub (c := 0) (by decide)
  obtain ⟨hmib1, hfrozen1⟩ := State.rd_ddrCh_of_outside h hhub (c := 1) (by decide)
  obtain ⟨hboot0, -⟩ := State.rd_ddrCh_of_outside h (hub := 0) (c := 0) (by decide) (by decide)
  obtain ⟨hboot1, -⟩ := State.rd_ddrCh_of_outside h (hub := 0) (c := 1) (by decide) (by decide)
  have hboth : t.bothChannels hub = s.bothChannels hub := by
    rw [State.bothChannels, State.bothChannels, hmib0, hmib1]
  have hin : t.inBoot hub a = s.inBoot hub a := by
    simp only [State.inBoot, State.hubLimit, State.bothChannels, hboot0, hboot1]
  have hslot : t.tarnSlotAt hub a = s.tarnSlotAt hub a := State.same_of_outside h (·.tarnSlotAt hub a) fun _ => rfl
  have hchan : t.chanOf hub a = s.chanOf hub a := by
    unfold State.chanOf
    rw [hboth, hin, hslot, hmib0, hmib1]
  have hfrozen : t.frozenAt hub a = s.frozenAt hub a := by
    rw [State.frozenAt, State.frozenAt, hchan, (State.rd_ddrCh_of_outside h hhub (s.chanOf_lt hub a)).2]
  have hraw : ∀ g, t.rawByte g a = s.rawByte g a := fun g => State.same_of_outside h (·.rawByte g a) fun _ => rfl
  unfold State.byte State.anyFrozen
  rw [hfrozen0, hfrozen1, hfrozen, hin, hboth, hraw, hraw]

theorem State.leAt_of_outside {hub : Nat} (hhub : hub < 2) (a n : Nat) : t.leAt hub a n = s.leAt hub a n := by
  have hbytes : t.bytes hub a n = s.bytes hub a n := by
    induction n generalizing a with
    | zero => rfl
    | succ n ih => rw [State.bytes, State.bytes, State.byte_of_outside h hhub, ih]
  rw [State.leAt, State.leAt, hbytes]

/-- The Tarn. -/
theorem tarnRead_of_outside (l : Nat) : tarnRead t l = tarnRead s l := by
  funext j
  have hrec : t.recSt l = s.recSt l := State.same_of_outside h (·.recSt l) fun _ => rfl
  have hhub : hubOf t l = hubOf s l := State.same_of_outside h (hubOf · l) fun _ => rfl
  unfold tarnRead tarnSample
  rw [hrec, hhub]
  simp only [State.leAt_of_outside h (hubOf_lt s l)]

/-- The time of a sample. -/
theorem State.sampleSts_of_outside {inp : Nat} (hinp : inp < 2) (j : Int) : t.sampleSts inp j = s.sampleSts inp j := by
  have hpart : t.part = s.part := State.same_of_outside h State.part fun _ => rfl
  have htime : t.time = s.time := State.same_of_outside h State.time fun _ => rfl
  have hstep : t.rd (timeB 0) R.TIME_JRX_STEP_STEP = s.rd (timeB 0) R.TIME_JRX_STEP_STEP :=
    State.rd_of_outside h (not_onPage_of_lt (by decide))
  have hboard : t.rd (jrxB 0) R.JRX_DELAY_BOARD_DELAY = s.rd (jrxB 0) R.JRX_DELAY_BOARD_DELAY :=
    State.rd_of_outside h (mt (onPage_iff (p := 3) (t := 0) (k := 15) (by decide) (by decide)).mp (by decide))
  have hdelay : t.rd (acqB inp) R.ACQ_DELAY_TOTAL_DELAY = s.rd (acqB inp) R.ACQ_DELAY_TOTAL_DELAY := by
    refine State.rd_of_outside h (not_onPage_of_lt ?_)
    simp only [acqB, tB, R.ACQ_DELAY_TOTAL_DELAY]
    omega
  have hfrc : t.sampleFrc inp j = s.sampleFrc inp j := by
    unfold State.sampleFrc
    rw [hpart, htime, hstep]
  have hinput : t.inputDelay inp = s.inputDelay inp := by
    unfold State.inputDelay
    rw [hpart, State.rdI, State.rdI, State.rdI, State.rdI, hboard, hdelay]
  have hat : t.timeAtLess = s.timeAtLess := State.same_of_outside h State.timeAtLess fun _ => rfl
  unfold State.sampleSts
  rw [hfrc, hinput, hat]

/-- A spectrum recomputed from the Tarn. -/
theorem replayInfo_of_outside (d : TDie) (hzones : (t.wbSt (pairLead d)).zones = (s.wbSt (pairLead d)).zones)
    (q : WbSet) (idx : Nat) : replayInfo t d q idx = replayInfo s d q idx := by
  have hinp : inputOf d < 2 := by simp only [inputOf]; omega
  have hbits : tarnBits t (pairLead d) = tarnBits s (pairLead d) :=
    State.same_of_outside h (tarnBits · (pairLead d)) fun _ => rfl
  unfold replayInfo specInfo zoneBits
  dsimp only
  rw [tarnRead_of_outside h, hbits, hzones]
  simp only [State.sampleSts_of_outside h hinp]

end

/-! The row. -/

/-- Trace `e` waits for no spectrum any more. -/
def repairTaken (l : Nat) (e : TraceLack) (s : State) : State :=
  s.modWb l fun w => { w with incomplete := w.incomplete.filter (· != e) }

theorem wbSt_repairTaken (l : Nat) (e : TraceLack) (s : State) : (repairTaken l e s).wbSt l =
    { s.wbSt l with incomplete := (s.wbSt l).incomplete.filter (· != e) } :=
  State.wbSt_modWb s l _

/-- A replay for a trace that is repaired recomputes what the state before it gives. -/
theorem replayInfo_repairTaken (d : TDie) (held : Bool) (e : TraceLack) (s : State) (q : WbSet) (idx : Nat) :
    replayInfo (replayCount (pairLead d) held (repairTaken (pairLead d) e s)) d q idx = replayInfo s d q idx := by
  have houtside : (replayCount (pairLead d) held (repairTaken (pairLead d) e s)).outside [.wb] (onPage 3) =
      s.outside [.wb] (onPage 3) :=
    (replayCount_outside _ _ _).trans (State.modWb_outside s _ _ (by decide))
  refine replayInfo_of_outside houtside d ?_ q idx
  rw [State.wbSt, replayCount_wb, ← State.wbSt, wbSt_repairTaken]

/-- The trace `e` as the spectra of its samples in the Tarn make it. -/
def repairTrace (s : State) (t : Nat) (e : TraceLack) : TraceAcc :=
  traceOf e.set ((List.range e.n).map fun k => (replayInfo s t e.set (e.first + k)).1)

/-- Which die of the pair recomputes a spectrum shows in nothing but its name. -/
theorem replayInfo_pairLead (s : State) (t : Nat) (q : WbSet) (idx : Nat) :
    (replayInfo s (pairLead t) q idx).1 = { (replayInfo s t q idx).1 with die := pairLead t } := by
  have hlead : pairLead (pairLead t) = pairLead t := by simp only [pairLead]; omega
  have hinput : inputOf (pairLead t) = inputOf t := by simp only [inputOf, pairLead]; omega
  unfold replayInfo specInfo
  rw [hlead, hinput]

/-- A trace does not depend on the dies that computed its spectra. -/
theorem traceOf_die (q : WbSet) (t : Nat) (l : List SpecInfo) :
    traceOf q (l.map fun i => { i with die := t }) = traceOf q l := by
  have hdet : ∀ iv, detOf q iv (l.map fun i => { i with die := t }) = detOf q iv l := fun iv => by
    simp only [detOf, List.filter_map, List.foldl_map]
    rfl
  simp only [traceOf, List.map_map, hdet]
  rfl

theorem repairTrace_pairLead (s : State) (t : Nat) (e : TraceLack) :
    repairTrace s (pairLead t) e = repairTrace s t e := by
  simp only [repairTrace, replayInfo_pairLead]
  rw [← traceOf_die e.set (pairLead t) ((List.range e.n).map fun k => (replayInfo s t e.set (e.first + k)).1),
    List.map_map]
  rfl

theorem repairTrace_repairTaken (d : TDie) (held : Bool) (e : TraceLack) (s : State) :
    repairTrace (replayCount (pairLead d) held (repairTaken (pairLead d) e s)) d e = repairTrace s d e := by
  simp only [repairTrace, replayInfo_repairTaken]

section
variable {d : TDie} {first : Nat} {e : TraceLack} {s : State}

/-- The trace goes out, its samples read from the Tarn. -/
theorem execTraceRepairOutput_outputs
    (hfind : (s.wbSt (pairLead d)).incomplete.find? (fun x => x.first == first) = some e) (husable : s.usableT d = true)
    (hout : e.set.baseIdx ≠ (s.wbSt (pairLead d)).baseIdx ∨ first + e.n ≤ (s.wbSt (pairLead d)).relIdx)
    (hlacks : ((s.wbSt (pairLead d)).lost.any fun x => decide (first ≤ x.idx) && decide (x.idx < first + e.n)) = false) :
    ∃ held, execTraceRepairOutput d first s = .next (if e.n = 0 then repairTaken (pairLead d) e s else
      sendItem (inputOf (pairLead d)) (traceBytes e.set (inputOf (pairLead d))
        (64 ||| if e.n < e.set.d * e.set.l then 32 else 0)
        (repairTrace (replayCount (pairLead d) held (repairTaken (pairLead d) e s)) d e))
        (replayCount (pairLead d) held (repairTaken (pairLead d) e s))) := by
  have hfirst : e.first = first := by simpa using List.find?_some hfind
  have hgo : ¬ (!s.usableT d || !(decide (e.set.baseIdx ≠ (s.wbSt (pairLead d)).baseIdx) ||
      decide (first + e.n ≤ (s.wbSt (pairLead d)).relIdx)) ||
      (s.wbSt (pairLead d)).lost.any fun x => decide (first ≤ x.idx) && decide (x.idx < first + e.n)) = true := by
    rw [hlacks, husable]
    simpa [imp_iff_not_or] using hout
  subst hfirst
  unfold execTraceRepairOutput
  dsimp only
  rw [hfind]
  dsimp only
  rw [if_neg hgo]
  exact ⟨_, (apply_ite Host.Outcome.next _ _ _).symm⟩

/-- The repaired trace is no longer incomplete, and goes out as the samples in the Tarn make it. -/
theorem execTraceRepairOutput_repairs
    (hfind : (s.wbSt (pairLead d)).incomplete.find? (fun x => x.first == first) = some e) (husable : s.usableT d = true)
    (hout : e.set.baseIdx ≠ (s.wbSt (pairLead d)).baseIdx ∨ first + e.n ≤ (s.wbSt (pairLead d)).relIdx)
    (hlacks : ((s.wbSt (pairLead d)).lost.any fun x => decide (first ≤ x.idx) && decide (x.idx < first + e.n)) = false) :
    ∃ t, execTraceRepairOutput d first s = .next t ∧
      (t.wbSt (pairLead d)).incomplete = (s.wbSt (pairLead d)).incomplete.filter (fun x => x != e) ∧
      (e.n = 0 → t.items = s.items) ∧
      (e.n ≠ 0 → t.items = s.items ++ [(inputOf (pairLead d), traceBytes e.set (inputOf (pairLead d))
        (64 ||| if e.n < e.set.d * e.set.l then 32 else 0) (repairTrace s (pairLead d) e))]) := by
  obtain ⟨held, hexec⟩ := execTraceRepairOutput_outputs hfind husable hout hlacks
  refine ⟨_, hexec, ?_, fun hn => ?_, fun hn => ?_⟩
  · split
    · rw [wbSt_repairTaken]
    · rw [State.wbSt, sendItem_wb, replayCount_wb, ← State.wbSt, wbSt_repairTaken]
  · rw [if_pos hn]
    rfl
  · rw [if_neg hn, sendItem_items, State.wbSide_items (replayCount_wbSide _ _ _)]
    rw [repairTrace_pairLead, repairTrace_repairTaken]
    rfl

end

end Sys2Proof.Machine
end

section
/-! PROOFS. The wide-band rows complete with their effects (R92 to R119). -/

namespace Sys2Proof.Machine

/-- Settles O19, row by row: the hand-over's copies and registers show in `wbHandOver_shows`; what the other blocks do at a
switch, a spectrum or a merge leaves `State.wbCore` as it is; an item once sent stays. -/
theorem wbRowsComplete : Obligations.WbRowsComplete := by
  unfold Obligations.WbRowsComplete
  refine ⟨fun d s husable hlead => ?wbCommit, fun d s husable => ?wbRevert,
    fun d s hheld hpending => execWbHeldHandover_shows hheld hpending,
    fun d sw s hsw => execWbSwitch_inForce hsw, fun d s hpending hsw hwait hfirst => ?wbPendingClear,
    fun d v s hpresent => ?wtabWrite, fun d s hpresent => ?wtabRead, fun d start s hdue hpipe => ?spectrumDue,
    fun d start s hdue hpipe => execSpectrumComplete_notes hdue hpipe,
    fun d start e s hlost husable hreplay => execSpectrumComplete_recomputes hlost husable hreplay,
    fun d p s hlead hoverlap hready hp => execDetectMerge_averages hlead hoverlap hready hp rfl,
    fun d first e s hfind husable hout hlacks => ?traceRepairOutput⟩
  case wbCommit =>
    by_cases hwaits : s.on (wbB d) R.WB_SHADOW_PENDING = true ∨ s.on (wbB d) R.WB_SHADOW_HELD = true
    · refine ⟨_, execWbCommit_holds husable hlead hwaits, fun _ => ⟨?_, rfl, rfl⟩, ?_, ?_⟩
      · exact State.on_of_rd_one (State.rd_wr_same _ _ _ 1 (by decide))
      · exact fun hpending hheld => by simp [hpending, hheld] at hwaits
      · exact fun hpending hheld => by simp [hpending, hheld] at hwaits
    · have hpending : s.on (wbB d) R.WB_SHADOW_PENDING = false := by simpa using mt Or.inl hwaits
      have hheld : s.on (wbB d) R.WB_SHADOW_HELD = false := by simpa using mt Or.inr hwaits
      refine ⟨_, execWbCommit_hands husable hlead hpending hheld, fun h => absurd h hwaits, fun _ _ h => ?_,
        fun _ _ h => ?_⟩
      · obtain ⟨hlive, htab, hpend, hdirty, -, hcount, hclamp⟩ := wbHandOver_shows h
        obtain ⟨-, -, -, -, hrun, hidle⟩ := wbHandOver_leaves h
        exact ⟨hlive, htab, hpend, hdirty, hcount, hclamp, hrun, hidle⟩
      · rw [wbHandOver_refused h.1 h.2]
        exact ⟨State.on_of_rd_one (State.rd_wr_same _ _ _ 1 (by decide)), rfl, rfl⟩
  case wbRevert =>
    obtain ⟨hset, hwords, htab, hdirty, hlive⟩ := wbRevert_shows d s
    exact ⟨_, execWbRevert_usable husable, hset, hwords, htab, hdirty, hlive⟩
  case wbPendingClear =>
    exact ⟨_, execWbPendingClear_clears hpending hsw hwait hfirst,
      State.on_of_rd_zero (State.rd_wr_same _ _ _ 0 (by decide)), rfl, rfl⟩
  case wtabWrite =>
    obtain ⟨hentry, htabL, hdirty, haddr⟩ := wtabAccess_write d v s
    exact ⟨_, execWtabDataAccess_present hpresent (some v), hentry, htabL, hdirty, haddr⟩
  case wtabRead =>
    obtain ⟨hdata, htabS, haddr⟩ := wtabAccess_read d s
    exact ⟨_, execWtabDataAccess_present hpresent none, hdata, htabS, haddr⟩
  case spectrumDue =>
    obtain ⟨t, hexec, hdone, hcount, hsat, hlost, hitem⟩ := execSpectrumComplete_counts hdue hpipe
    refine ⟨t, hexec, hdone, hcount, hsat, hlost, fun hself hout hevery => ?_, fun hself hout hevery => ?_⟩
    · have hbytes := hitem hself (.inl hout) hevery
      rw [dueItem, specItem, if_pos hout] at hbytes
      exact hbytes
    · have hbytes := hitem hself (.inr hout) hevery
      rw [dueItem, specItem, if_neg (by rw [hout]; decide)] at hbytes
      exact hbytes
  case traceRepairOutput =>
    obtain rfl : e.first = first := by simpa using List.find?_some hfind
    exact execTraceRepairOutput_repairs hfind husable hout hlacks

end Sys2Proof.Machine
end

section
/-! PROOFS. Old trigger sets that one row statement each leaves free: two that end at one sample (R161), and one that ends
after the switch sample (R162). -/

namespace Sys2Proof.Machine

/-! FABRIC_EVALUATE (R151): a switch sample listed twice is evaluated twice. -/

/-- A hit of condition 3 at sample 50. -/
def hitAtSwitch : TrgEntry := { at_ := 50, src := 3, hit := true, state := some true }

/-- Unit 7 of die 0, in SINGLE mode on condition 3, is armed; two old sets end at the sample of the one hit in the log. -/
def twiceSwitched : State :=
  { State.reset with
    force := [(unitB 0 7 + R.TRGU_u_CTRL_EN.off, 1), (unitB 0 7 + R.TRGU_u_A_CONDS.off, 8)]
    regs := [(trgB 0 + R.TRG_CTRL_EN.off, 1), (unitB 0 7 + R.TRGU_u_STATUS_ARMED.off, 1)]
    wb := [(0, { running := true })]
    trg := [(0, { log := [hitAtSwitch], old := [⟨50, [], []⟩, ⟨50, [], []⟩] })] }

/-- Both old sets bring their switch sample to the fabric, which merges only one with the hit's; the unit has no holdoff, so
each evaluation of the sample issues an event. -/
theorem twiceSwitched_evaluatedTwice : fabricSamples twiceSwitched 0 [hitAtSwitch] 0 101 = [50, 50] ∧
    twiceSwitched.rd (unitB 0 7) R.TRGU_u_EVENTS_EVENTS = 0 ∧
    (fabricTo 0 100 twiceSwitched).rd (unitB 0 7) R.TRGU_u_EVENTS_EVENTS = 2 := by decide +kernel

/-- Refutes O20: where two old sets end at the sample of a hit, FABRIC_EVALUATE evaluates that sample twice
(`twiceSwitched_evaluatedTwice`), and a unit in SINGLE mode without a holdoff issues two events where its clause says one. -/
theorem not_trgFabricRowsComplete : ¬ Obligations.TrgFabricRowsComplete := by
  unfold Obligations.TrgFabricRowsComplete
  rintro ⟨-, -, -, -, -, -, -, hsingle, -⟩
  obtain ⟨t, ht, -, hcount, -⟩ := hsingle 0 100 7 hitAtSwitch twiceSwitched (by decide) (by decide +kernel)
    (by decide +kernel) (by decide +kernel) (by decide +kernel) (by decide +kernel) (by decide) rfl (by decide)
    (by decide +kernel) (by decide +kernel) (by decide +kernel) (by decide +kernel) (by decide +kernel)
    (by decide +kernel)
  have hrun : exec (Instr.fabricEvaluate 0 100) twiceSwitched = .next (fabricTo 0 100 twiceSwitched) := rfl
  obtain rfl : fabricTo 0 100 twiceSwitched = t := Host.Outcome.next.inj (hrun.symm.trans ht)
  obtain ⟨-, hbefore, hafter⟩ := twiceSwitched_evaluatedTwice
  have htwo : 2 = (0 + 1) % 2 ^ 32 := hafter.symm.trans (hbefore ▸ hcount)
  exact absurd htwo (by decide)

/-! TRG_SWITCH (R162): a condition's type for the switch sample is that of the old set which still holds there. -/

/-- The sample count has started again: an old set, whose condition 0 is of type LEVEL, holds up to sample 106496, and the
live set, whose conditions are all OFF, has its switch sample at 24576. Condition 0 is true. -/
def recounted : State :=
  { State.reset with
    trg := [(0, { sw := some 24576, conds := [(0, { state := true })]
                  old := [⟨106496, [(condB 0 0 + R.TRG_COND_c_CTRL_TYPE.off, 3)], []⟩] })] }

/-- The switch looks condition 0's type up in the old set, and so keeps the condition, which is OFF in the set in force. -/
theorem recounted_keepsCondition : condType recounted 0 24576 0 = 3 ∧
    (trgSwitchAt 0 24576 recounted).rdF (condB 0 0) R.TRG_COND_c_CTRL_TYPE = 0 ∧
    ((trgSwitchAt 0 24576 recounted).condSt 0 0).state = true := by decide +kernel

/-- Refutes O21: where an old set holds past the switch sample, as where the sample count has started again since,
TRG_SWITCH takes a condition's type from that set (`recounted_keepsCondition`), so one that is OFF in the set now in force
stays true. -/
theorem not_trgMessageRowsComplete : ¬ Obligations.TrgMessageRowsComplete := by
  unfold Obligations.TrgMessageRowsComplete
  rintro ⟨-, -, -, -, -, -, -, -, hswitch, -⟩
  obtain ⟨t, ht, -, -, -, -, hoff, -⟩ := hswitch 0 24576 recounted (by decide) (by decide +kernel)
  have hrun : exec (Instr.trgSwitch 0) recounted = .next (trgSwitchAt 0 24576 recounted) := rfl
  obtain rfl : trgSwitchAt 0 24576 recounted = t := Host.Outcome.next.inj (hrun.symm.trans ht)
  obtain ⟨-, htype, hstate⟩ := recounted_keepsCondition
  exact Bool.noConfusion (hstate.symm.trans (hoff 0 htype))

end Sys2Proof.Machine
end

section
/-! PROOFS. What a row of the record, density and zoom blocks leaves alone, where it changes parts that `State.outside` does
not name: `Within` says it of two states, and is chained along the operations of the row. -/

namespace Sys2Proof.Machine

/-- A choice of parts of the state: `take s t` is `s` with those parts as `t` has them. -/
structure Taking where
  take : State → State → State
  self : ∀ s, take s s = s := by intros; rfl
  twice : ∀ s t u, take (take s t) u = take s u := by intros; rfl

/-- Between `s` and `t` only the parts of `P` change, and of the registers only some at addresses that meet `win`. -/
structure Within (P : Taking) (win : Nat → Prop) (s t : State) : Prop where
  parts : t = P.take s t
  regs : ∀ a, ¬ win a → t.reg a = s.reg a

section
variable {P : Taking} {win : Nat → Prop} {s t u : State}

theorem Within.refl (P : Taking) (win : Nat → Prop) (s : State) : Within P win s s := ⟨(P.self s).symm, fun _ _ => rfl⟩

theorem Within.trans (h : Within P win s t) (h' : Within P win t u) : Within P win s u where
  parts := by
    have htwice := P.twice s t u
    rw [← h.parts] at htwice
    exact h'.parts.trans htwice
  regs a ha := (h'.regs a ha).trans (h.regs a ha)

theorem Within.ite {c : Prop} [Decidable c] (ht : Within P win s t) (hu : Within P win s u) :
    Within P win s (if c then t else u) := by
  split
  · exact ht
  · exact hu

theorem Within.foldl_mem {β : Type} (f : State → β → State) (xs : List β) (s : State)
    (h : ∀ b ∈ xs, ∀ s, Within P win s (f s b)) : Within P win s (xs.foldl f s) := by
  induction xs generalizing s with
  | nil => exact Within.refl P win s
  | cons b xs ih => exact (h b (.head xs) s).trans (ih (f s b) fun c hc => h c (.tail b hc))

/-- A row that answers a state within its parts and its registers leaves the others alone. -/
theorem Within.leaves {c : Instr} {upd : State → State} (hexec : exec c s = .next t) (h : Within P win s t)
    (hupd : ∀ v, P.take s v = upd v) : Leaves c s upd win := by
  intro v hv
  obtain rfl : t = v := Host.Outcome.next.inj (hexec.symm.trans hv)
  exact ⟨h.parts.trans (hupd t), h.regs⟩

theorem State.eq_taking_of_outside {parts : List FramePart} (h : t.outside parts win = s.outside parts win) :
    t = s.taking parts t := by
  have hrest : t.rest parts = s.rest parts := (Prod.mk.inj h).1
  calc t = t.taking parts t := (State.taking_self parts t).symm
    _ = (t.rest parts).taking parts t := (State.taking_rest parts t t).symm
    _ = (s.rest parts).taking parts t := by rw [hrest]
    _ = s.taking parts t := State.taking_rest parts s t

/-- An operation that stays inside parts which `P` has, too. -/
theorem Within.of_outside {parts : List FramePart} (hP : ∀ s v, P.take s (s.taking parts v) = s.taking parts v)
    (h : t.outside parts win = s.outside parts win) : Within P win s t where
  parts := by
    have ht := State.eq_taking_of_outside h
    calc t = s.taking parts t := ht
      _ = P.take s (s.taking parts t) := (hP s t).symm
      _ = P.take s t := by rw [← ht]
  regs a ha := congrFun (Prod.mk.inj h).2 ⟨a, ha⟩

/-- An update of parts of `P` that are no registers. -/
theorem Within.of_parts (hP : t = P.take s t) (hregs : t.regs = s.regs) : Within P win s t :=
  ⟨hP, fun a _ => by rw [State.reg, State.reg, hregs]⟩

/-- A write of a register of the window. -/
theorem Within.wr {b : Nat} {f : Fld} {v : Nat} (hP : s.wr b f v = P.take s (s.wr b f v)) (hwin : win (b + f.off)) :
    Within P win s (s.wr b f v) :=
  ⟨hP, fun a ha => State.reg_wr_other s b f v a fun h => ha (h ▸ hwin)⟩

end

/-! Single registers, and ranges of them, in the window. -/

section
variable {parts : List FramePart} {win : Nat → Prop}

theorem State.wr_outside_at (s : State) (b : Nat) (f : Fld) (v : Nat) (h : win (b + f.off)) :
    (s.wr b f v).outside parts win = s.outside parts win :=
  Prod.ext rfl (funext fun a => State.reg_wr_other s b f v a fun ha => a.2 (ha ▸ h))

theorem State.wrs_outside_at (b : Nat) (xs : List (Fld × Nat)) (s : State) (h : ∀ x ∈ xs, win (b + x.1.off)) :
    (s.wrs b xs).outside parts win = s.outside parts win := by
  induction xs generalizing s with
  | nil => rfl
  | cons x xs ih =>
    exact (ih (s.wr b x.1 x.2) fun y hy => h y (.tail x hy)).trans (State.wr_outside_at s b x.1 x.2 (h x (.head xs)))

/-- Registers of the window that take the live values. -/
theorem State.takeBack_outside (s : State) (b lo hi : Nat) (hlo : lo ≤ hi) (h : ∀ o, lo ≤ o → o < hi → win (b + o)) :
    (s.takeBack b lo hi).outside parts win = s.outside parts win := by
  refine Prod.ext rfl (funext fun a => tget_tcopy_outside _ _ _ _ _ _ (by omega) ?_)
  by_contra hin
  refine a.2 ?_
  have hwin := h (a.1 - b) (by omega) (by omega)
  rwa [Nat.add_sub_cancel' (by omega)] at hwin

end

/-! The windows of O54: the blocks TRG, REC, DENS and CHZ of a die (R633). -/

section
variable {bs : List Block} {t : Nat} (ht : t < 4)
include ht

theorem covers_trg (hb : .trg ∈ bs) : Covers (inBlocks bs) (trgB t) := covers_diePage (page := 2) ht (by decide) rfl hb

theorem covers_recd (hb : .recd ∈ bs) : Covers (inBlocks bs) (recB t) := covers_diePage (page := 3) ht (by decide) rfl hb

theorem covers_dens (hb : .dens ∈ bs) : Covers (inBlocks bs) (densB t) := covers_diePage (page := 4) ht (by decide) rfl hb

theorem covers_chz (hb : .chz ∈ bs) : Covers (inBlocks bs) (chzB t) := covers_diePage (page := 5) ht (by decide) rfl hb

end

section
variable {win : Nat → Prop} {t : Nat}

/-- The registers of the 8 units of a die lie in its block TRG. -/
theorem Covers.unit (h : Covers win (trgB t)) {u o : Nat} (hu : u < 8) (ho : o < 0x1000) : win (unitB t u + o) := by
  have hunit := h (0x40 * u + o) (by omega)
  rwa [← Nat.add_assoc] at hunit

/-- The registers of the 128 channels of a die lie in its block CHZ. -/
theorem Covers.zoom (h : Covers win (chzB t)) {n o : Nat} (hn : n < 128) (ho : o < 0x2000) : win (zcB t n + o) := by
  have hzoom := h (0x40 * n + o) (by omega)
  rwa [← Nat.add_assoc] at hzoom

end

end Sys2Proof.Machine
end

section
/-! PROOFS. The registers and the parts that the operations of the record, density and zoom blocks change (R177 to R182, R212
to R231, R250 to R263). -/

namespace Sys2Proof.Machine

section
variable {parts : List FramePart} {win : Nat → Prop}

/-! The record engine. -/

@[simp] theorem rec_offsets : R.REC_STATUS_ARMED.off < 0x10000 ∧ R.REC_STATUS_PRE_CLIP.off < 0x10000 ∧
    R.REC_STATUS_TRUNC.off < 0x10000 ∧ R.REC_NET_STALE_STALE.off < 0x10000 ∧
    R.REC_TRUNC_COUNT_TRUNCATED.off < 0x10000 ∧ R.REC_CO_CTRL_EN.off < 0x10000 ∧
    R.TRGU_u_MISS_MISSED.off < 0x10000 := by decide

theorem showArmed_outside (l : Nat) (s : State) (hrec : Covers win (recB l))
    (hunit : ∀ u < 8, win (unitB l u + R.TRGU_u_STATUS_ARMED.off)) :
    (showArmed l s).outside parts win = s.outside parts win := by
  have hunits : ∀ (g : Nat → State → Nat) (v : State), ((List.range 8).foldl (fun s u =>
      s.wr (unitB l u) R.TRGU_u_STATUS_ARMED (g u s)) v).outside parts win = v.outside parts win := fun g v =>
    State.foldl_outside_mem _ _ _ fun u hu s => State.wr_outside_at s _ _ _ (hunit u (List.mem_range.mp hu))
  simp only [showArmed]
  rw [State.wr_outside _ _ _ _ hrec (by simp)]
  exact hunits (fun u s' => b2n (if bit (s.rdL (recB l) R.REC_CTRL_UNITS) u then
    s.on (recB l) R.REC_STATUS_RUN && !(s.recSt l).stopping && (s.recSt l).rearm.isNone
    else s'.on (recB l) R.REC_CTRL_EN)) s

theorem deliverEvent_outside (l : Nat) (e : TrgEvent) (s : State) (hrecs : .recs ∈ parts)
    (hwin : ∀ b, trgB l ≤ b → Covers win b) : (deliverEvent l e s).outside parts win = s.outside parts win := by
  have hunitB : ∀ u, trgB l ≤ unitB l u := fun u => Nat.le_add_right _ _
  have hrec : Covers win (recB l) := hwin _ (by simp only [trgB, recB]; omega)
  have harmed : ∀ v : State, (showArmed l v).outside parts win = v.outside parts win := fun v =>
    showArmed_outside l v hrec fun u _ => hwin _ (hunitB u) _ (by decide)
  simp [deliverEvent, harmed, hrec, hwin _ (hunitB e.unit), hrecs]

/-! The density engine. A pair's second die shows the engine's state where the part has it. -/

theorem hasT_lt {s : State} {t : Nat} (h : s.hasT t = true) : t < 4 := by
  have hdies : s.part.tDies ≤ 4 := by cases s.part <;> decide
  exact Nat.lt_of_lt_of_le (of_decide_eq_true h) hdies

@[simp] theorem dens_set_offsets : R.DENS_SHADOW_SHADOW_DIRTY.off < 0x10000 ∧ R.DENS_SHADOW_HELD.off < 0x10000 ∧
    R.DENS_STATUS_MERGE_LATE.off < 0x10000 ∧ R.DENS_TAB_ADDR_ENTRY.off < 0x10000 := by decide

section
variable {l : Nat} (hb : Covers win (densB l)) (hpair : l + 1 < 4 → Covers win (densB (l + 1)))
include hb hpair

theorem densShow_outside_present (s : State) : (densShow l s).outside parts win = s.outside parts win := by
  by_cases hlt : l + 1 < 4
  · simp [densShow, hb, hpair hlt]
  · have hnone : ∀ v : State, v.hasT (l + 1) = false := fun v => Bool.not_eq_true _ ▸ mt hasT_lt hlt
    simp [densShow, hb, hnone]

variable (hdens : .dens ∈ parts) (hforce : .force ∈ parts) (htabF : .tabF ∈ parts)
include hdens hforce htabF

theorem densTakeEffect_outside_present (after : Option Nat) (e : Nat) (s : State) :
    (densTakeEffect l after e s).outside parts win = s.outside parts win := by
  simp only [densTakeEffect]
  rw [densShow_outside_present hb hpair]
  simp [hdens, hforce, htabF, hb]

theorem execDensEnable_staysInside (d : TDie) (hd : d.val = l) (s : State) :
    StaysInside parts win s (execDensEnable d s) := by
  subst hd
  rw [execDensEnable, staysInside_next]
  split
  · split
    · exact densTakeEffect_outside_present hb hpair hdens hforce htabF _ _ s
    · rfl
  · rfl

end

/-! The zoom channels, whose window is their die's block CHZ. -/

@[simp] theorem zoomMap_off_lt (f : Fld) (n : Nat) (hf : f.off < 0x8000) (hn : n < 0x8000) :
    (zoomMap f n).off < 0x10000 := by
  simp only [zoomMap]
  omega

@[simp] theorem chz_offsets : R.CHZ_DIRTY_k_DIRTY.off < 0x8000 ∧ R.CHZ_PENDING_k_PENDING.off < 0x8000 ∧
    R.CHZ_HELD_k_HELD.off < 0x8000 ∧ R.CHZ_STATUS_CLAMP.off < 0x10000 ∧ R.CHZ_SWITCH_COUNT_SWITCHES.off < 0x10000 ∧
    R.CHZ_SYNC_COUNT_RESETS.off < 0x10000 ∧ R.CHZ_SAT_COUNT_SATURATIONS.off < 0x10000 := by decide

section
variable {t n : Nat} (hb : Covers win (chzB t)) (hn : n < 128)
include hb hn

@[simp] theorem State.zcWr_outside (s : State) (f : Fld) (v : Nat) (hf : f.off < 0x2000) :
    (s.wr (zcB t n) f v).outside parts win = s.outside parts win :=
  State.wr_outside_at s _ _ _ (hb.zoom hn hf)

@[simp] theorem State.zcWrI_outside (s : State) (f : Fld) (v : Int) (hf : f.off < 0x2000) :
    (s.wrI (zcB t n) f v).outside parts win = s.outside parts win := State.zcWr_outside hb hn s f _ hf

@[simp] theorem State.zcInc_outside (s : State) (f : Fld) (k : Nat) (hf : f.off < 0x2000) :
    (s.inc (zcB t n) f k).outside parts win = s.outside parts win := State.zcWr_outside hb hn s f _ hf

@[simp] theorem State.zcWrs_outside (xs : List (Fld × Nat)) (s : State) (hxs : ∀ x ∈ xs, x.1.off < 0x2000) :
    (s.wrs (zcB t n) xs).outside parts win = s.outside parts win :=
  State.wrs_outside_at _ xs s fun x hx => hb.zoom hn (hxs x hx)

end

@[simp] theorem zc_offsets : R.ZC_n_STATUS_RUN.off < 0x2000 ∧ R.ZC_n_STATUS_PRIMING.off < 0x2000 ∧
    R.ZC_n_STATUS_EDGE.off < 0x2000 ∧ R.ZC_n_STATUS_CLAMP.off < 0x2000 ∧ R.ZC_n_STATUS_SAT.off < 0x2000 ∧
    R.ZC_n_STATUS_DROP.off < 0x2000 ∧ R.ZC_n_DROP_DROPPED.off < 0x2000 ∧ R.ZC_n_PEAK_LEVEL.off < 0x2000 ∧
    R.ZC_n_RMS_LEVEL.off < 0x2000 ∧ R.ZC_n_ENV_LEVEL.off < 0x2000 := by decide

@[simp] theorem zoomClose_outside (t n : Nat) (b : ZoomBlock) (flags : Nat) (s : State) (hzooms : .zooms ∈ parts) :
    (zoomClose t n b flags s).outside parts win = s.outside parts win := by simp [zoomClose, hzooms]

@[simp] theorem zoomCloseOpen_outside (t n flags : Nat) (s : State) (hzooms : .zooms ∈ parts) :
    (zoomCloseOpen t n flags s).outside parts win = s.outside parts win := by
  unfold zoomCloseOpen
  split
  · rfl
  · simp [hzooms]

section
variable {t n : Nat} (hb : Covers win (chzB t)) (hn : n < 128) (hzooms : .zooms ∈ parts)
include hb hn

theorem zoomRevert_outside (s : State) : (zoomRevert t n s).outside parts win = s.outside parts win := by
  have hset : ∀ o, zcLo ≤ o → o < zcHi → win (zcB t n + o) := fun o _ ho =>
    hb.zoom hn (Nat.lt_trans ho (by decide))
  rw [zoomRevert, State.wr_outside _ _ _ _ hb (zoomMap_off_lt _ _ (by simp) (by omega)),
    State.takeBack_outside _ _ _ _ (by decide) hset]

include hzooms

@[simp] theorem zoomEnd_outside (s : State) : (zoomEnd t n s).outside parts win = s.outside parts win := by
  simp [zoomEnd, hb, hn, hzooms]

@[simp] theorem zoomReset_outside (u : Nat) (s : State) : (zoomReset t n u s).outside parts win = s.outside parts win := by
  simp [zoomReset, hb, hn, hzooms]

theorem zoomSwitch_outside (p : Nat) (s : State) (hforce : .force ∈ parts) :
    (zoomSwitch t n p s).outside parts win = s.outside parts win := by
  have hmap : (zoomMap R.CHZ_PENDING_k_PENDING n).off < 0x10000 := zoomMap_off_lt _ _ (by simp) (by omega)
  simp [zoomSwitch, hb, hn, hzooms, hforce, hmap]

omit hb hn in
theorem zoomStore_outside (o : ZoomOut) (s : State) : (zoomStore t n o s).outside parts win = s.outside parts win := by
  simp [zoomStore, hzooms]

end

/-- A fold over the channels that a mask names. -/
theorem eachZoom_outside {k mask : Nat} {f : Nat → State → State} (hk : k < 4)
    (h : ∀ n < 128, ∀ s, (f n s).outside parts win = s.outside parts win) (s : State) :
    (eachZoom k mask f s).outside parts win = s.outside parts win := by
  refine State.foldl_outside_mem _ _ _ fun b hb s => ?_
  have hlt := List.mem_range.mp hb
  simp [h (32 * k + b) (by omega)]

/-! Detector results and the ZOOM conditions (R139, R257 to R259). -/

@[simp] theorem trg_offsets : R.TRG_LATE_COUNT_LATE.off < 0x10000 ∧ R.TRG_COND_STATE_STATE.off < 0x10000 := by decide

theorem trgEntry_outside (l : Nat) (e : TrgEntry) (s : State) (htrg : .trg ∈ parts) (hl : Covers win (trgB l)) :
    (trgEntry l e s).outside parts win = s.outside parts win := by
  simp [trgEntry, htrg, hl]

theorem condState_outside (l c k : Nat) (on : Bool) (flags : Nat) (s : State) (htrg : .trg ∈ parts)
    (hl : Covers win (trgB l)) (hc : Covers win (trgB (l + c / 16))) :
    (condState l c k on flags s).outside parts win = s.outside parts win := by
  have hhits : win (condB l c + R.TRG_COND_c_HITS_HITS.off) := by
    have hoff : R.TRG_COND_c_HITS_HITS.off = 0x11C := rfl
    have := hc (0x20 * (c % 16) + 0x11C) (by omega)
    rwa [← Nat.add_assoc] at this
  have hcount : ∀ v : State, (countHit l c v).outside parts win = v.outside parts win := fun v =>
    State.wr_outside_at v _ _ _ hhits
  simp [condState, condStateAt, trgEntry_outside, showCond, hcount, htrg, hl, hc]

/-- The ZOOM conditions of a die are shown on it, and its pair's fabric takes their hits. -/
theorem zoomConds_outside (t ch det k : Nat) (v : Int) (flags : Nat) (s : State) (htrg : .trg ∈ parts)
    (hl : Covers win (trgB (pairLead t))) (ht : Covers win (trgB t)) :
    (zoomConds t ch det k v flags s).outside parts win = s.outside parts win := by
  refine State.foldl_outside_mem _ _ _ fun c0 hc0 s => ?_
  have hdie : pairLead t + (16 * (t - pairLead t) + c0) / 16 = t := by
    have hlt := List.mem_range.mp hc0
    simp only [pairLead]
    omega
  have hc : Covers win (trgB (pairLead t + (16 * (t - pairLead t) + c0) / 16)) := by rwa [hdie]
  simp [condState_outside, htrg, hl, hc]

theorem zoomDetect_outside {t n : Nat} (uS : Nat) (o : ZoomOut) (s : State) (htrg : .trg ∈ parts)
    (hzooms : .zooms ∈ parts) (hl : Covers win (trgB (pairLead t))) (ht : Covers win (trgB t))
    (hb : Covers win (chzB t)) (hn : n < 128) : (zoomDetect t n uS o s).outside parts win = s.outside parts win := by
  simp [zoomDetect, zoomResult, zoomConds_outside, htrg, hzooms, hl, ht, hb, hn]

end

end Sys2Proof.Machine
end

section
/-! PROOFS. The frame of the record, density and zoom rows that store nothing (R177, R182, R212, R216, R227, R252, R266). -/

namespace Sys2Proof.Machine

section
variable {win : Nat → Prop}

/-! The DENS shadow set (R227, R228). -/

/-- What the hand-over of a DENS set changes. -/
def densTaking : Taking where
  take s t := { s with
    regs := t.regs, live := t.live, tabL := t.tabL, force := t.force, tabF := t.tabF, dens := t.dens }

/-- What the data port of the map table and a revert of the set change. -/
def densTabTaking : Taking where
  take s t := { s with regs := t.regs, tabS := t.tabS, readData := t.readData }

def densRevertTaking : Taking where
  take s t := { s with regs := t.regs, tabS := t.tabS }

/-- The shadow set and the shadow map table have become the live ones. -/
def densHanded (l : Nat) (s : State) : State :=
  (((s.handOver (densB l) 0x4 0x8).handOver (densB l) 0x14 0x30).handOver (densB l) 0x3C 0x54).tabHandOver
    (densKey l 0) (densKey l 256)

theorem densHandOver_outside {parts : List FramePart} {l : Nat} (s : State) (hdens : .dens ∈ parts)
    (hforce : .force ∈ parts) (htabF : .tabF ∈ parts) (hb : Covers win (densB l))
    (hpair : l + 1 < 4 → Covers win (densB (l + 1))) :
    (densHandOver l s).outside parts win = (densHanded l s).outside parts win := by
  have heffect : ∀ (e : Nat) (v : State), (densTakeEffect l .none e v).outside parts win = v.outside parts win :=
    densTakeEffect_outside_present hb hpair hdens hforce htabF .none
  simp [densHandOver, densRange, heffect, densHanded, hdens, hb]

theorem densHandOver_within {l : Nat} (s : State) (hb : Covers win (densB l))
    (hpair : l + 1 < 4 → Covers win (densB (l + 1))) : Within densTaking win s (densHandOver l s) :=
  have hhanded : Within densTaking win s (densHanded l s) := .of_parts rfl rfl
  hhanded.trans (.of_outside (parts := [.dens, .force, .tabF]) (fun _ _ => rfl)
    (densHandOver_outside s (by simp) (by simp) (by simp) hb hpair))

theorem densCommit_within {l : Nat} (s : State) (hb : Covers win (densB l))
    (hpair : l + 1 < 4 → Covers win (densB (l + 1))) : Within densTaking win s (densCommit l s) :=
  .ite (.refl _ _ _) (.ite (.wr rfl (hb _ (by simp))) (densHandOver_within s hb hpair))

theorem densRevert_within {l : Nat} (s : State) (hb : Covers win (densB l)) :
    Within densRevertTaking win s (densRevert l s) := by
  have hback : ∀ (v : State) (lo hi : Nat), lo ≤ hi → hi < 0x10000 →
      Within densRevertTaking win v (v.takeBack (densB l) lo hi) := fun v lo hi hle hlt =>
    .of_outside (parts := []) (fun _ _ => rfl)
      (State.takeBack_outside v _ _ _ hle fun o _ ho => hb o (Nat.lt_trans ho hlt))
  refine .ite (.refl _ _ _) ?_
  have hregs := ((hback s 0x4 0x8 (by decide) (by decide)).trans (hback _ 0x14 0x30 (by decide) (by decide))).trans
    (hback _ 0x3C 0x54 (by decide) (by decide))
  have htab := hregs.trans (.of_parts (t := State.tabTakeBack _ (densKey l 0) (densKey l 256)) rfl rfl)
  exact htab.trans (.wr rfl (hb _ (by simp)))

theorem densTabAccess_within {t : Nat} (write : Option Word) (s : State) (hb : Covers win (densB t)) :
    Within densTabTaking win s (densTabAccess t write s) := by
  have hstep : ∀ v e, Within densTabTaking win s v →
      Within densTabTaking win s (v.wr (densB t) R.DENS_TAB_ADDR_ENTRY e) := fun v e hv =>
    hv.trans (.wr rfl (hb _ (by simp)))
  unfold densTabAccess
  cases write with
  | none =>
    exact .ite (.of_parts rfl rfl) (hstep _ _ (.of_parts rfl rfl))
  | some w =>
    refine .ite (.refl _ _ _) (hstep _ _ ?_)
    have hset : ∀ k, Within densTabTaking win s { s with tabS := tset tabReset s.tabS k (w &&& 0xFFFF) } :=
      fun _ => .of_parts rfl rfl
    exact (hset _).trans (.wr rfl (hb _ (by simp)))

/-! The commits of the zoom channels (R251, R252). -/

/-- What a commit of channels changes. -/
def zoomTaking : Taking where
  take s t := { s with regs := t.regs, live := t.live, zooms := t.zooms }

section
variable {t n : Nat} (hb : Covers win (chzB t)) (hn : n < 128)
include hb hn

theorem zoomHandOver_within (s : State) : Within zoomTaking win s (zoomHandOver t n s) := by
  have hhanded : Within zoomTaking win s (s.handOver (zcB t n) zcLo zcHi) := .of_parts rfl rfl
  have hmap : ∀ f : Fld, f.off < 0x8000 → (zoomMap f n).off < 0x10000 := fun f hf => zoomMap_off_lt f n hf (by omega)
  refine hhanded.trans (.of_outside (parts := [.zooms]) (fun _ _ => rfl) ?_)
  simp [zoomHandOver, hb, hn, hmap]

theorem zoomCommit_within (s : State) : Within zoomTaking win s (zoomCommit t n s) :=
  .ite (.wr rfl (hb _ (zoomMap_off_lt _ _ (by simp) (by omega)))) (zoomHandOver_within hb hn s)

end

theorem eachZoom_within {P : Taking} {k mask : Nat} {f : Nat → State → State} (hk : k < 4)
    (h : ∀ n < 128, ∀ s, Within P win s (f n s)) (s : State) : Within P win s (eachZoom k mask f s) :=
  .foldl_mem _ _ _ fun b hb s => by
    have hlt := List.mem_range.mp hb
    exact .ite (h (32 * k + b) (by omega) s) (.refl _ _ _)

/-! The outputs of the zoom channels and their feeds (R245 to R263, R266). -/

/-- What an output changes. -/
def outputTaking : Taking where
  take s t := { s with regs := t.regs, flight := t.flight, trg := t.trg, cores := t.cores, zooms := t.zooms }

/-- What a replayed output changes. -/
def rebuildTaking : Taking where
  take s t := { s with regs := t.regs, cores := t.cores, zooms := t.zooms }

/-- A live word that finds room changes its core alone. -/
theorem liveArrive_cores {t c p : Nat} {w : PortWord} {s u : State} (h : liveArrive t c p w s = some u) :
    u = { s with cores := u.cores } := by
  unfold liveArrive at h
  split_ifs at h <;> cases h <;> rfl

theorem zoomFeed_within {t n : Nat} (hb : Covers win (chzB t)) (hn : n < 128) (o : ZoomOut) (s : State) :
    Within outputTaking win s (zoomFeed t n o s) := by
  unfold zoomFeed
  refine .ite (.refl _ _ _) ?_
  split
  · rename_i u hu
    have hcores := liveArrive_cores hu
    have harrive : Within outputTaking win s u := by
      rw [hcores]
      exact .of_parts rfl rfl
    exact harrive.trans (.of_outside (parts := [.zooms]) (fun _ _ => rfl) (by simp))
  · exact .of_outside (parts := [.flight, .zooms]) (fun _ _ => rfl) (by simp [State.raiseIf, hb, hn])

section
variable (d : TDie) (n : Fin 128) (s : State) (hb : Covers win (chzB d)) (hl : Covers win (trgB (pairLead d)))
  (hd : Covers win (trgB d))
include hb hl hd

/-- An output that is found: it is looked through, fed to its reader and stored. -/
theorem zoomEmit_within (uS : Nat) (o : ZoomOut) :
    Within outputTaking win s (zoomStore d n o (zoomFeed d n o (zoomDetect d n uS o s))) := by
  have hdetect : Within outputTaking win s (zoomDetect d n uS o s) :=
    .of_outside (parts := [.trg, .zooms]) (fun _ _ => rfl)
      (zoomDetect_outside _ _ _ (by simp) (by simp) hl hd hb n.isLt)
  exact (hdetect.trans (zoomFeed_within hb n.isLt _ _)).trans
    (.of_outside (parts := [.zooms]) (fun _ _ => rfl) (zoomStore_outside (by simp) _ _))

theorem execZoomOutput_within : ∃ t, execZoomOutput d n s = .next t ∧ Within outputTaking win s t := by
  have hn := n.isLt
  unfold execZoomOutput
  extract_lets q l span
  split
  · exact ⟨s, rfl, .refl _ _ _⟩
  · refine ⟨_, rfl, .trans ?_ (zoomEmit_within d n _ hb hl hd q.uS _)⟩
    refine .of_outside (parts := [.zooms]) (fun _ _ => rfl) ?_
    split <;> simp [hb, hn]

end

end

end Sys2Proof.Machine
end

section
/-! PROOFS. The rows of O54. -/

namespace Sys2Proof.Machine

section
variable {parts : List FramePart} {win : Nat → Prop}

@[simp] theorem coEnable_outside (l : Nat) (s : State) (hrecs : .recs ∈ parts) :
    (coEnable l s).outside parts win = s.outside parts win := by simp [coEnable, State.modCo, hrecs]

section
variable (d : TDie) (s : State)

/-! The record rows. -/

theorem execTarnStart_staysInside (hrecs : .recs ∈ parts) (hb : Covers win (recB d)) :
    StaysInside parts win s (execTarnStart d s) := by
  rw [execTarnStart, staysInside_next]
  split
  · exact tarnStart_outside d s hrecs hb
  · rfl

theorem execCoEnable_staysInside (hrecs : .recs ∈ parts) (hb : Covers win (recB d)) :
    StaysInside parts win s (execCoEnable d s) := by
  have hoff : R.REC_CO_CTRL_EN.off < 0x10000 := by decide
  rw [execCoEnable, staysInside_next]
  split
  · simp [hrecs, hb, hoff]
  · rfl

theorem execRecRearm_staysInside (hrecs : .recs ∈ parts) (hrec : Covers win (recB d)) (htrg : Covers win (trgB d)) :
    StaysInside parts win s (execRecRearm d s) := by
  unfold execRecRearm
  split
  · rw [staysInside_next]
    split
    · rw [showArmed_outside d _ hrec fun u hu => htrg.unit hu (by decide), State.modRec_outside _ _ _ hrecs]
    · rfl
  · simp

theorem execTriggerEventDeliver_staysInside (hrecs : .recs ∈ parts) (htrg : .trg ∈ parts)
    (hwin : ∀ b, trgB d ≤ b → Covers win b) : StaysInside parts win s (execTriggerEventDeliver d s) := by
  unfold execTriggerEventDeliver
  split
  · simp
  · rw [staysInside_next, deliverEvent_outside _ _ _ hrecs hwin, State.modTrg_outside _ _ _ htrg]

/-! The density rows. -/

section
variable (hdens : .dens ∈ parts)
include hdens

section
variable (hb : Covers win (densB d))
include hb

theorem execDensFrameEnd_staysInside : StaysInside parts win s (execDensFrameEnd d s) := by
  rw [execDensFrameEnd, staysInside_next]
  split
  · exact endFrame_outside hdens hb s
  · rfl

theorem execDensMergeArrive_staysInside : StaysInside parts win s (execDensMergeArrive d s) := by
  unfold execDensMergeArrive
  split
  · simp
  · rw [staysInside_next, mergeArrive_outside hdens hb, State.modDens_outside _ _ _ hdens]

theorem execDensMergeTimeout_staysInside : StaysInside parts win s (execDensMergeTimeout d s) := by
  unfold execDensMergeTimeout
  split
  · simp
  · rw [staysInside_next, takeReady_outside hdens hb, takeFrame_outside hdens hb, State.wr_outside _ _ _ _ hb (by simp)]

end

end

/-- What the rows change that store rows of counts, and no register. -/
def countsTaking : Taking where
  take s t := { s with dens := t.dens }

theorem endRow_within (l n : Nat) : Within countsTaking win s (endRow l n s) := by
  unfold endRow
  extract_lets q g d first fl bytes a lack u
  have hnext : Within countsTaking win s u := .of_parts rfl rfl
  exact .ite (hnext.trans (.of_parts rfl rfl)) hnext

theorem execSgRowEnd_within : ∃ t, execSgRowEnd d s = .next t ∧ Within countsTaking win s t :=
  ⟨_, rfl, .ite (endRow_within s _ _) (.refl _ _ _)⟩

theorem execDensClear_within : ∃ t, execDensClear d s = .next t ∧ Within countsTaking win s t :=
  ⟨_, rfl, .ite (.of_parts rfl rfl) (.refl _ _ _)⟩

theorem execDensHeldHandover_within (hb : Covers win (densB d)) (hpair : d.val + 1 < 4 → Covers win (densB (d + 1))) :
    ∃ t, execDensHeldHandover d s = .next t ∧ Within densTaking win s t :=
  ⟨_, rfl, .ite ((Within.wr rfl (hb _ (by simp))).trans (densHandOver_within _ hb hpair)) (.refl _ _ _)⟩

/-! The zoom rows. -/

section
variable (hb : Covers win (chzB d))
include hb

theorem execChzPrimed_staysInside : StaysInside parts win s (execChzPrimed d s) := by
  have hoff : R.CHZ_STATUS_PRIMED.off < 0x10000 := by decide
  rw [execChzPrimed, staysInside_next]
  split
  · exact State.wr_outside _ _ _ _ hb hoff
  · rfl

theorem execChzRevert_staysInside (k : Fin 4) (mask : Word) : StaysInside parts win s (execChzRevert d k mask s) := by
  rw [execChzRevert, staysInside_next]
  split
  · exact eachZoom_outside k.isLt (fun _ hn => zoomRevert_outside hb hn) s
  · rfl

theorem execZoomSwitchPoint_staysInside (hforce : .force ∈ parts) (hzooms : .zooms ∈ parts) :
    StaysInside parts win s (execZoomSwitchPoint d s) := by
  rw [execZoomSwitchPoint, staysInside_next]
  split
  · split
    · refine State.foldl_outside_mem _ _ _ fun n hn s => ?_
      split
      · exact zoomSwitch_outside hb (List.mem_range.mp hn) hzooms _ s hforce
      · rfl
    · rfl
  · rfl

theorem execChzCommit_within (k : Fin 4) (mask : Word) :
    ∃ t, execChzCommit d k mask s = .next t ∧ Within zoomTaking win s t :=
  ⟨_, rfl, .ite (eachZoom_within k.isLt (fun _ hn => zoomCommit_within hb hn) s) (.refl _ _ _)⟩

theorem execChzHeldHandover_within (n : Fin 128) :
    ∃ t, execChzHeldHandover d n s = .next t ∧ Within zoomTaking win s t :=
  have hheld : win (chzB d + (zoomMap R.CHZ_HELD_k_HELD n).off) := hb _ (zoomMap_off_lt _ _ (by simp) (by omega))
  ⟨_, rfl, .ite ((Within.wr rfl hheld).trans (zoomHandOver_within hb n.isLt _)) (.refl _ _ _)⟩

end

/-- What a reset of channels changes, which is scheduled only. -/
def syncTaking : Taking where
  take s t := { s with zooms := t.zooms }

theorem execChzSync_within (k : Fin 4) (mask : Word) :
    ∃ t, execChzSync d k mask s = .next t ∧ Within syncTaking win s t := by
  have hsync : ∀ n < 128, ∀ v, Within syncTaking win v (zoomSync d n v) := fun _ _ _ =>
    .ite (.of_parts rfl rfl) (.of_parts rfl rfl)
  exact ⟨_, rfl, .ite (eachZoom_within k.isLt hsync s) (.refl _ _ _)⟩

theorem replayCount_within {l : Nat} (held : Bool) (hb : Covers win (recB l)) :
    Within rebuildTaking win s (replayCount l held s) :=
  .ite (.refl _ _ _) (.trans (.wr rfl (hb _ (by decide))) (.wr rfl (hb _ (by decide))))

theorem execReplayRebuild_within (n : Fin 128) (v : Nat) (last : Bool) (hb : Covers win (recB (pairLead d))) :
    ∃ t, execReplayRebuild d n v last s = .next t ∧ Within rebuildTaking win s t := by
  have hzooms : ∀ {u w : State}, w.outside [.zooms] win = u.outside [.zooms] win → Within rebuildTaking win u w :=
    fun h => .of_outside (fun _ _ => rfl) h
  have hport : ∀ (u : State) (c p : Nat) (w : PortWord), Within rebuildTaking win u (portPut d c p w u) :=
    fun _ _ _ _ => .of_parts rfl rfl
  have hcount := fun held => replayCount_within (win := win) s held hb
  unfold execReplayRebuild
  extract_lets q r span l u c p
  split
  · exact ⟨s, rfl, .refl _ _ _⟩
  · have hcounted : Within rebuildTaking win s u := hcount _
    generalize zoomOut s d n v r (tarnRead s l) (zoomBits s (s.recSt l).tarn.src span) = emitted
    obtain ⟨o, sats⟩ := emitted
    dsimp only
    clear_value u
    split
    · split
      · exact ⟨_, rfl, hcounted.trans (hzooms (by simp))⟩
      · exact ⟨_, rfl, hcounted.trans (hzooms (by simp))⟩
    · split
      · split
        · exact ⟨u, rfl, hcounted⟩
        · exact ⟨_, rfl, hcounted.trans (hport _ _ _ _)⟩
      · exact ⟨u, rfl, hcounted⟩

end

end

/-- Settles O54: the rows are chained from the operations of their blocks, each of which writes in its own block. -/
theorem recordRowsFrame : Obligations.RecordRowsFrame := by
  unfold Obligations.RecordRowsFrame
  refine ⟨fun d s => ?_, fun d s => ?_, fun d s => ?_, fun d s => ?_, fun d s => ?_, fun d s => ?_, fun d s => ?_,
    fun d write s => ?_, fun d s => ?_, fun d k mask s => ?_, fun d k mask s => ?_, fun d k mask n s => ?_,
    fun d s => ?_, fun d n s => ?_, fun d n s => ?_, fun d pipe first s => ?_, fun d n v last s => ?_⟩
  · have hb : Covers (inBlocks [.recd]) (recB d) := covers_recd d.isLt (by simp)
    refine StaysInside.leaves_of_mem (parts := [.recs]) (fun _ => rfl) ?_
    simp only [List.forall_mem_cons]
    exact ⟨execTarnStart_staysInside d s (by simp) hb, execCoEnable_staysInside d s (by simp) hb, by simp⟩
  · have hrec : Covers (inBlocks [.recd, .trg]) (recB d) := covers_recd d.isLt (by simp)
    have htrg : Covers (inBlocks [.recd, .trg]) (trgB d) := covers_trg d.isLt (by simp)
    exact (execRecRearm_staysInside (parts := [.recs]) d s (by simp) hrec htrg).leaves fun _ => rfl
  · exact (execTriggerEventDeliver_staysInside (parts := [.trg, .recs]) d s (by simp) (by simp)
      fun b hb => covers_above hb).leaves fun _ => rfl
  · have hb : Covers (inBlocks [.dens]) (densB d) := covers_dens d.isLt (by simp)
    have hdens : FramePart.dens ∈ [FramePart.dens] := by simp
    refine StaysInside.leaves_of_mem (parts := [.dens]) (fun _ => rfl) ?_
    simp only [List.forall_mem_cons]
    exact ⟨execDensFrameEnd_staysInside d s hdens hb, execDensMergeArrive_staysInside d s hdens hb,
      execDensMergeTimeout_staysInside d s hdens hb, by simp⟩
  · obtain ⟨t, hend, hended⟩ := execSgRowEnd_within d s
    obtain ⟨u, hclear, hcleared⟩ := execDensClear_within d s
    simp only [List.forall_mem_cons]
    exact ⟨hended.leaves hend fun _ => rfl, hcleared.leaves hclear fun _ => rfl, by simp⟩
  · have hb : Covers (inBlocks [.dens]) (densB d) := covers_dens d.isLt (by simp)
    have hpair : d.val + 1 < 4 → Covers (inBlocks [.dens]) (densB (d + 1)) := fun h => covers_dens h (by simp)
    obtain ⟨t, hexec, hheld⟩ := execDensHeldHandover_within d s hb hpair
    simp only [List.forall_mem_cons]
    exact ⟨(densCommit_within s hb hpair).leaves rfl fun _ => rfl, hheld.leaves hexec fun _ => rfl, by simp⟩
  · exact (densRevert_within s (covers_dens d.isLt (by simp))).leaves rfl fun _ => rfl
  · have hb : Covers (inBlocks [.dens]) (densB d) := covers_dens d.isLt (by simp)
    exact (Within.ite (densTabAccess_within _ s hb) (.refl _ _ _)).leaves rfl fun _ => rfl
  · have hb : Covers (inBlocks [.dens]) (densB d) := covers_dens d.isLt (by simp)
    have hpair : d.val + 1 < 4 → Covers (inBlocks [.dens]) (densB (d + 1)) := fun h => covers_dens h (by simp)
    exact (execDensEnable_staysInside (parts := [.force, .tabF, .dens]) hb hpair (by simp) (by simp) (by simp) d rfl
      s).leaves fun _ => rfl
  · have hb : Covers (inBlocks [.chz]) (chzB d) := covers_chz d.isLt (by simp)
    refine StaysInside.leaves_of_mem (parts := []) (fun _ => rfl) ?_
    simp only [List.forall_mem_cons]
    exact ⟨execChzPrimed_staysInside d s hb, execChzRevert_staysInside d s hb k mask, by simp⟩
  · obtain ⟨t, hsync, hsynced⟩ := execChzSync_within d s k mask
    exact hsynced.leaves hsync fun _ => rfl
  · have hb : Covers (inBlocks [.chz]) (chzB d) := covers_chz d.isLt (by simp)
    obtain ⟨t, hcommit, hcommitted⟩ := execChzCommit_within d s hb k mask
    obtain ⟨u, hexec, hheld⟩ := execChzHeldHandover_within d s hb n
    simp only [List.forall_mem_cons]
    exact ⟨hcommitted.leaves hcommit fun _ => rfl, hheld.leaves hexec fun _ => rfl, by simp⟩
  · have hb : Covers (inBlocks [.chz]) (chzB d) := covers_chz d.isLt (by simp)
    exact (execZoomSwitchPoint_staysInside (parts := [.force, .zooms]) d s hb (by simp) (by simp)).leaves fun _ => rfl
  · have hb : Covers (inBlocks [.chz, .trg]) (chzB d) := covers_chz d.isLt (by simp)
    have hl : Covers (inBlocks [.chz, .trg]) (trgB (pairLead d)) :=
      covers_trg (by simp only [pairLead]; omega) (by simp)
    have hd : Covers (inBlocks [.chz, .trg]) (trgB d) := covers_trg d.isLt (by simp)
    obtain ⟨t, hexec, hemit⟩ := execZoomOutput_within d n s hb hl hd
    exact hemit.leaves hexec fun _ => rfl
  · refine leaves_of_next rfl ?_ ?_ <;> split <;> rfl
  · refine leaves_of_next rfl ?_ ?_ <;> split <;> rfl
  · have hb : Covers (inBlocks [.recd]) (recB (pairLead d)) :=
      covers_recd (by simp only [pairLead]; omega) (by simp)
    obtain ⟨t, hexec, hrebuilt⟩ := execReplayRebuild_within d s n v last hb
    exact hrebuilt.leaves hexec fun _ => rfl

end Sys2Proof.Machine
end

section
/-! PROOFS. Bytes written into a hub's capture memory and read back from it (R490, R507). -/

namespace Sys2Proof.Machine

section
variable {s : State} {h a : Nat} {l : List Byte}

/-! Single bytes. -/

@[simp] theorem State.anyFrozen_setBytes (s : State) (h a g : Nat) (l : List Byte) :
    (s.setBytes h a l).anyFrozen g = s.anyFrozen g := by
  simp only [State.anyFrozen, State.frozen, State.rd_setBytes]

theorem State.byte_eq_rawByte (hfree : s.anyFrozen h = false) (a : Nat) : s.byte h a = s.rawByte h a := by
  simp [State.byte, hfree]

/-- A write where no channel is frozen, before the end of the hub's addresses. -/
theorem State.setBytes_of_free (hfree : s.anyFrozen h = false) (hend : a + l.length ≤ 2 ^ 40) :
    s.setBytes h a l = (s.putBoot h a l).putRaw h a l := by
  have hwhole : l.take (2 ^ 40 - a % 2 ^ 40) = l := by
    refine List.take_of_length_le ?_
    have := Nat.mod_le a (2 ^ 40)
    omega
  have hfree' : (s.putBoot h a l).anyFrozen h = false := by
    rw [← hfree]
    simp only [State.anyFrozen, State.frozen, State.rd, State.reg, State.putBoot_regs]
  simp only [State.setBytes, hwhole, hfree']
  rfl

theorem State.rawByte_setBytes_inside (hfree : s.anyFrozen h = false) (hend : a + l.length ≤ 2 ^ 40) {i : Nat}
    (hi : i < l.length) : (s.setBytes h a l).rawByte h (a + i) = l.getD i 0 := by
  rw [State.setBytes_of_free hfree hend, State.rawByte_putRaw_inside _ _ _ _ _ hi hend, List.getD_eq_getElem?_getD]

/-- The second copy of the boot region lies beyond the bytes of both hubs. -/
theorem State.rawByte_putBoot (s : State) (a : Nat) (l : List Byte) (_hh : h < 2) (b : Nat) :
    (s.putBoot h a l).rawByte h b = s.rawByte h b := by
  unfold State.putBoot
  extract_lets lo hi
  split
  · refine State.rawByte_putRaw_outside _ _ _ _ _ _ (.inl ?_)
    simp only [cellOf]
    omega
  · rfl

theorem State.rawByte_setBytes_outside (hfree : s.anyFrozen h = false) (hend : a + l.length ≤ 2 ^ 40) (hh : h < 2)
    {b : Nat} (hb : b < 2 ^ 40) (hout : b < a ∨ a + l.length ≤ b) :
    (s.setBytes h a l).rawByte h b = s.rawByte h b := by
  by_cases hempty : l.length = 0
  · rw [State.setBytes_of_free hfree hend, State.rawByte_putRaw_outside, State.rawByte_putBoot _ _ _ hh]
    omega
  · rw [State.setBytes_of_free hfree hend, State.rawByte_putRaw_outside, State.rawByte_putBoot _ _ _ hh]
    have ha : a % 2 ^ 40 = a := Nat.mod_eq_of_lt (by omega)
    simp only [cellOf, ha, Nat.mod_eq_of_lt hb]
    omega

/-! Little-endian numbers. -/

theorem ofLe_leBytes (k n : Nat) : ofLe (leBytes k n) = n % 256 ^ k := by
  induction k generalizing n with
  | zero => simp [leBytes, ofLe, Nat.mod_one]
  | succ k ih =>
    rw [leBytes, ofLe, ih, BitVec.toNat_ofNat, Nat.pow_succ' (m := 256)]
    exact (Nat.mod_mul (a := 256)).symm

@[simp] theorem length_leBytes (k n : Nat) : (leBytes k n).length = k := by
  induction k generalizing n with
  | zero => rfl
  | succ k ih => simp [leBytes, ih]

theorem State.bytes_eq_map (s : State) (h a n : Nat) : s.bytes h a n = (List.range n).map fun i => s.byte h (a + i) := by
  induction n generalizing a with
  | zero => rfl
  | succ n ih => simp [State.bytes, ih, List.range_succ_eq_map, Function.comp_def, Nat.add_assoc, Nat.add_comm 1]

theorem State.leAt_congr {t : State} (hbyte : ∀ i, t.byte h i = s.byte h i) (a n : Nat) : t.leAt h a n = s.leAt h a n := by
  simp only [State.leAt, State.bytes_eq_map, hbyte]

/-- The number whose bytes `l` stand in memory. -/
theorem State.leAt_of_rawByte (hfree : s.anyFrozen h = false) (hl : ∀ i < l.length, s.rawByte h (a + i) = l.getD i 0) :
    s.leAt h a l.length = ofLe l := by
  have hbytes : s.bytes h a l.length = l := by
    rw [State.bytes_eq_map]
    refine List.ext_getElem (by simp) fun i hi hil => ?_
    rw [List.getElem_map, List.getElem_range, State.byte_eq_rawByte hfree, hl i hil, List.getD_eq_getElem _ _ hil]
  rw [State.leAt, hbytes]

end

/-- Pieces of one length stand one after the other. -/
theorem getD_flatMap {α β : Type} {f : α → List β} {n : Nat} {d : β} {xs : List α}
    (hlen : ∀ x ∈ xs, (f x).length = n) {i k : Nat} (hi : i < xs.length) (hk : k < n) :
    (xs.flatMap f).getD (n * i + k) d = (f xs[i]).getD k d := by
  induction xs generalizing i with
  | nil => exact absurd hi (by simp)
  | cons x xs ih =>
    have hx : (f x).length = n := hlen x (.head xs)
    rw [List.flatMap_cons]
    cases i with
    | zero =>
      rw [List.getD_append _ _ _ _ (by omega), Nat.mul_zero, Nat.zero_add]
      rfl
    | succ i =>
      rw [List.getD_append_right _ _ _ _ (by rw [hx, Nat.mul_succ]; omega), hx,
        show n * (i + 1) + k - n = n * i + k by rw [Nat.mul_succ]; omega]
      exact ih (fun y hy => hlen y (.tail x hy)) (Nat.lt_of_succ_lt_succ hi)

theorem length_flatMap_const {α β : Type} {f : α → List β} {n : Nat} {xs : List α}
    (hlen : ∀ x ∈ xs, (f x).length = n) : (xs.flatMap f).length = n * xs.length := by
  rw [List.length_flatMap, List.map_congr_left hlen, List.map_const', List.sum_replicate, smul_eq_mul, Nat.mul_comm]

end Sys2Proof.Machine
end

section
/-! PROOFS. What staging into a hub's flash store changes: registers of the NFS block and of PWR, the store's own state, bytes
of the ring, and how far the ring is filled (R187, R367, R460 to R463). -/

namespace Sys2Proof.Machine

section
variable {P Q : Taking} {win : Nat → Prop} {s t : State}

theorem Within.widen (h : Within P win s t) (hPQ : ∀ v u, Q.take v (P.take v u) = P.take v u) : Within Q win s t where
  parts := by
    have hparts := hPQ s t
    rw [← h.parts] at hparts
    exact hparts.symm
  regs := h.regs

theorem Within.rd (h : Within P win s t) {b : Nat} {f : Fld} (hout : ¬ win (b + f.off)) : t.rd b f = s.rd b f := by
  rw [State.rd, State.rd, h.regs _ hout]

/-- Writes of registers that lie less than `lim` above the block's start. -/
theorem Within.wrs {b lim : Nat} {xs : List (Fld × Nat)}
    (hP : ∀ v r, { v with regs := r } = P.take v { v with regs := r }) (hb : ∀ o < lim, win (b + o))
    (hoff : (xs.all fun x => decide (x.1.off < lim)) = true) : Within P win s (s.wrs b xs) := by
  induction xs generalizing s with
  | nil => exact .refl P win s
  | cons x xs ih =>
    obtain ⟨hx, hxs⟩ := Bool.and_eq_true_iff.mp hoff
    have hwr : Within P win s (s.wr b x.1 x.2) := .wr (hP _ _) (hb _ (of_decide_eq_true hx))
    exact hwr.trans (ih hxs)

end

/-- What the flash store changes when it acts on what is staged. -/
def nfsTaking : Taking where
  take s t := { s with regs := t.regs, nfs := t.nfs }

/-- What staging changes. -/
def stageTaking : Taking where
  take s t := { s with regs := t.regs, nfs := t.nfs, cap := t.cap, recs := t.recs }

/-- The registers that staging changes: those of the blocks NFS and PWR of a hub (R633). -/
def stageWin (x : Nat) : Prop := x < tB 0 ∧ (x % 0x800000 / 0x10000 = 0xB ∨ x % 0x800000 / 0x10000 = 0x2)

theorem stageWin_nfs {h : Nat} (hh : h < 2) : Covers stageWin (nfsB h) := by
  intro o ho
  simp only [stageWin, nfsB, hubB, tB]
  omega

/-- The registers of the 64 sources of a hub lie in its block NFS. -/
theorem stageWin_src {h k : Nat} (hh : h < 2) (hk : k < 64) : ∀ o < 0x8000, stageWin (nfsSrcB h k + o) := by
  intro o ho
  rw [nfsSrcB, Nat.add_assoc]
  exact stageWin_nfs hh _ (by omega)

theorem stageWin_pwr : Covers stageWin (pwrB 0) := by
  intro o ho
  simp only [stageWin, pwrB, hubB, tB]
  omega

/-- The registers of the transform dies lie above the hubs'. -/
theorem not_stageWin_rec (l o : Nat) : ¬ stageWin (recB l + o) := by
  simp only [stageWin, recB, tB]
  omega

theorem not_stageWin_ddr {h c o : Nat} (_hh : h < 2) (hc : c < 2) (ho : o < 0x1000) : ¬ stageWin (ddrChB h c + o) := by
  simp only [stageWin, ddrChB, ddrB, hubB, tB]
  omega

section
variable {h : Nat} (hh : h < 2)
include hh

theorem nfsShow_within (s : State) : Within nfsTaking stageWin s (nfsShow h s) :=
  Within.wrs (fun _ _ => rfl) (stageWin_nfs hh) rfl

theorem setCounts_within (r : NfsRec) (hr : r.source < 64) (w p f : Nat) (s : State) :
    Within nfsTaking stageWin s (setCounts h r w p f s) := by
  unfold setCounts
  extract_lets b u
  have hshown : Within nfsTaking stageWin s u :=
    .ite (.wrs (fun _ _ => rfl) (stageWin_src hh hr) rfl) (.refl _ _ _)
  exact hshown.trans (.of_parts rfl rfl)

omit hh in
theorem nfsSeal_within (s : State) : Within nfsTaking stageWin s (nfsSeal h s) := by
  unfold nfsSeal
  split
  · exact .refl _ _ _
  · exact .of_parts rfl rfl

omit hh in
/-- The round robin goes over the 64 sources of a hub. -/
theorem nextTake_source {s : State} {r : NfsRec} (hr : nextTake s h = some r) : r.source < 64 := by
  obtain ⟨k, -, hk⟩ := List.exists_of_findSome?_eq_some hr
  have hturn := List.find?_some hk
  simp only [Bool.and_eq_true, beq_iff_eq] at hturn
  omega

theorem nfsFill_within (fuel : Nat) (s : State) : Within nfsTaking stageWin s (nfsFill h fuel s) := by
  induction fuel generalizing s with
  | zero => exact .refl _ _ _
  | succ fuel ih =>
    unfold nfsFill
    refine .ite (.refl _ _ _) ?_
    split
    · exact .refl _ _ _
    · rename_i r hr
      extract_lets q c
      split
      · split
        · exact .refl _ _ _
        · extract_lets d
          refine Within.trans ?_ (ih _)
          exact .of_parts rfl rfl
      · rename_i o ho
        extract_lets n u full
        have hcounts : Within nfsTaking stageWin (takeInto h r c.2.1 n o s) u :=
          setCounts_within hh r (nextTake_source hr) _ _ _ _
        have hinto : Within nfsTaking stageWin s (takeInto h r c.2.1 n o s) := .of_parts rfl rfl
        have htaken : Within nfsTaking stageWin s u := hinto.trans hcounts
        exact htaken.trans ((Within.ite (nfsSeal_within u) (.refl _ _ u)).trans (ih _))

theorem nfsRun_within (s : State) : Within nfsTaking stageWin s (nfsRun h s) := by
  unfold nfsRun
  exact (nfsFill_within hh _ s).trans (nfsShow_within hh _)

theorem stageAdvance_within (k n : Nat) (hk : k < 64) (s : State) :
    Within nfsTaking stageWin s (stageAdvance h k n s) := by
  have hoff : R.NFS_SRC_s_WPTR_WPTR.off < 0x8000 := by decide
  have hsource : stageWin (nfsSrcB h k + R.NFS_SRC_s_WPTR_WPTR.off) := stageWin_src hh hk _ hoff
  exact (Within.wr rfl hsource).trans (nfsRun_within hh _)

end

theorem throttle_within (h : Nat) (on : Bool) (s : State) : Within nfsTaking stageWin s (throttle h on s) := by
  unfold throttle
  extract_lets was u any v
  have hu : Within nfsTaking stageWin s u := .ite (.of_parts rfl rfl) (.ite (.refl _ _ _) (.of_parts rfl rfl))
  have hoff : R.PWR_THROTTLE_COUNT_THROTTLES.off < 0x10000 ∧ R.PWR_STATE_THROTTLE.off < 0x10000 := by decide
  have hcount : stageWin (pwrB 0 + R.PWR_THROTTLE_COUNT_THROTTLES.off) := stageWin_pwr _ hoff.1
  have hv : Within nfsTaking stageWin u v := .ite (.wr rfl hcount) (.refl _ _ _)
  have hstate : stageWin (pwrB 0 + R.PWR_STATE_THROTTLE.off) := stageWin_pwr _ hoff.2
  clear_value v
  exact (hu.trans hv).trans (.wr rfl hstate)

/-! The staging ring of a record engine. -/

theorem State.setBytes_within (s : State) (h a : Nat) (l : List Byte) :
    Within stageTaking stageWin s (s.setBytes h a l) := by
  have hraw : ∀ (v : State) (g b : Nat) (m : List Byte), Within stageTaking stageWin v (v.putRaw g b m) :=
    fun _ _ _ _ => .of_parts rfl rfl
  have hboot : ∀ m, Within stageTaking stageWin s (s.putBoot h a m) := fun _ => .ite (hraw _ _ _ _) (.refl _ _ _)
  refine (hboot _).trans (.ite (hraw _ _ _ _) ?_)
  exact .foldl_mem _ _ _ fun _ _ _ => .ite (.refl _ _ _) (.of_parts rfl rfl)

theorem State.modRec_within (s : State) (l : Nat) (f : RecSt → RecSt) : Within stageTaking stageWin s (s.modRec l f) :=
  .of_parts rfl rfl

theorem State.ringBytes_within (s : State) (h base size pos : Nat) (l : List Byte) :
    Within stageTaking stageWin s (s.ringBytes h base size pos l) :=
  .ite (.refl _ _ _) ((State.setBytes_within _ _ _ _).trans (State.setBytes_within _ _ _ _))

theorem stageSource_lt {s : State} {h base k : Nat} (hk : stageSource s h base = some k) : k < 64 := by
  rw [stageSource, firstBelow] at hk
  exact List.mem_range.mp (List.mem_of_find?_eq_some hk)

theorem stagePush_within (l : Nat) (pad : Bool) (s : State) : Within stageTaking stageWin s (stagePush l pad s) := by
  unfold stagePush
  extract_lets h r wr u n v
  split
  · exact .refl _ _ _
  · rename_i k hk
    have hu : Within stageTaking stageWin s u := .ite (.refl _ _ _) (State.ringBytes_within _ _ _ _ _ _)
    have hv : Within stageTaking stageWin u v := .of_parts rfl rfl
    have hadvance := (stageAdvance_within (hubOf_lt s l) k n (stageSource_lt hk) v).widen (Q := stageTaking) fun _ _ => rfl
    exact (hu.trans hv).trans (.ite (.refl _ _ _) hadvance)

section
variable {s t : State}

theorem Within.recs_of_nfs (h : Within nfsTaking stageWin s t) : t.recs = s.recs :=
  h.parts ▸ rfl

theorem Within.part {win : Nat → Prop} (h : Within stageTaking win s t) : t.part = s.part := by
  rw [h.parts]
  rfl

theorem Within.live {win : Nat → Prop} (h : Within stageTaking win s t) : t.live = s.live := by
  rw [h.parts]
  rfl

theorem Within.marks {win : Nat → Prop} (h : Within stageTaking win s t) : t.marks = s.marks := by
  rw [h.parts]
  rfl

theorem Within.stream {win : Nat → Prop} (h : Within stageTaking win s t) : t.stream = s.stream := by
  rw [h.parts]
  rfl

theorem Within.credits {win : Nat → Prop} (h : Within stageTaking win s t) : t.credits = s.credits := by
  rw [h.parts]
  rfl

theorem Within.lineOvf {win : Nat → Prop} (h : Within stageTaking win s t) : t.lineOvf = s.lineOvf := by
  rw [h.parts]
  rfl

theorem hubOf_congr (h : t.part = s.part) (l : Nat) : hubOf t l = hubOf s l := by
  have hhub : t.hasHub 1 = s.hasHub 1 := by rw [State.hasHub, h, State.hasHub]
  rw [hubOf, hubOf, hhub]

/-- The channels of a hub are as frozen as before, which their registers say. -/
theorem Within.anyFrozen {P : Taking} (h : Within P stageWin s t) {g : Nat} (hg : g < 2) :
    t.anyFrozen g = s.anyFrozen g := by
  have hoff : R.DDR_c_STATUS_STATE.off < 0x1000 := by decide
  have hstate : ∀ c < 2, t.rd (ddrChB g c) R.DDR_c_STATUS_STATE = s.rd (ddrChB g c) R.DDR_c_STATUS_STATE :=
    fun c hc => h.rd (not_stageWin_ddr hg hc hoff)
  simp only [State.anyFrozen, State.frozen, hstate 0 (by decide), hstate 1 (by decide)]

end

theorem recSt_throttle (h l : Nat) (on : Bool) (s : State) : (throttle h on s).recSt l = s.recSt l := by
  rw [State.recSt, (throttle_within h on s).recs_of_nfs, State.recSt]

theorem State.recSt_ringBytes (s : State) (h base size pos k : Nat) (l : List Byte) :
    (s.ringBytes h base size pos l).recSt k = s.recSt k := by
  simp only [State.recSt, State.ringBytes]
  split <;> simp

/-- Of a record engine's own state staging changes how far the ring is filled. -/
theorem recSt_stagePush (l : Nat) (pad : Bool) (s : State) :
    ∃ w r, (stagePush l pad s).recSt l = { s.recSt l with stageWr := w, stageRd := r } := by
  unfold stagePush
  extract_lets h r wr u n v
  split
  · exact ⟨_, _, rfl⟩
  · rename_i k hk
    have hu : u.recSt l = s.recSt l := by
      simp only [u]
      split
      · rfl
      · exact State.recSt_ringBytes _ _ _ _ _ _ _
    have hv : v.recSt l = { s.recSt l with stageWr := wr, stageRd := wr / 4096 } := by
      simp only [v, State.recSt_modRec, hu]
    refine ⟨wr, wr / 4096, ?_⟩
    split
    · exact hv
    · have hadvance := (stageAdvance_within (hubOf_lt s l) k n (stageSource_lt hk) v).recs_of_nfs
      rw [State.recSt, hadvance]
      exact hv

theorem stageBytes_within (l : Nat) (bytes : List Byte) (s : State) :
    Within stageTaking stageWin s (stageBytes l bytes s) := by
  unfold stageBytes
  exact ((State.ringBytes_within _ _ _ _ _ _).trans (State.modRec_within _ _ _)).trans (stagePush_within l false _)

theorem recSt_stageBytes (l : Nat) (bytes : List Byte) (s : State) :
    ∃ w r, (stageBytes l bytes s).recSt l = { s.recSt l with stageWr := w, stageRd := r } := by
  unfold stageBytes
  obtain ⟨w, r, hpush⟩ := recSt_stagePush l false ((s.ringBytes (hubOf s l) (recRegion s l) (recSize s l)
    (s.recSt l).stageWr bytes).modRec l fun r => { r with stageWr := r.stageWr + bytes.length })
  rw [State.recSt_modRec, State.recSt_ringBytes] at hpush
  exact ⟨w, r, hpush⟩

/-! The copies of the segments in progress (R182, R187). -/

theorem streamCopy_within (l : Nat) (g : RecSeg) (s : State) : Within stageTaking stageWin s (streamCopy l g s) := by
  unfold streamCopy
  extract_lets room free head u n g₁ upTo g'
  have hu : Within stageTaking stageWin s u := (throttle_within _ _ s).widen fun _ _ => rfl
  clear_value u
  exact hu.trans (.ite (.refl _ _ _) ((State.modRec_within _ _ _).trans (stageBytes_within l _ _)))

theorem recSt_streamCopy (l : Nat) (g : RecSeg) (s : State) :
    ∃ segs w r, (streamCopy l g s).recSt l = { s.recSt l with segs := segs, stageWr := w, stageRd := r } := by
  unfold streamCopy
  extract_lets room free head u n g₁ upTo g'
  have hu : u.recSt l = s.recSt l := recSt_throttle _ l _ s
  split
  · exact ⟨_, _, _, hu⟩
  · obtain ⟨w, r, hbytes⟩ := recSt_stageBytes l (((segItem u l g₁).take upTo).drop g₁.staged) (setOldest l g' u)
    rw [hbytes, setOldest, State.recSt_modRec, hu]
    exact ⟨_, w, r, rfl⟩

theorem segsAdvance_within (l : Nat) (s : State) : Within stageTaking stageWin s (segsAdvance l s) := by
  unfold segsAdvance
  refine .ite ?_ (.of_parts rfl rfl)
  split
  · exact streamCopy_within _ _ _
  · exact .refl _ _ _

theorem recSt_segsAdvance (l : Nat) (s : State) :
    ∃ segs w r, (segsAdvance l s).recSt l = { s.recSt l with segs := segs, stageWr := w, stageRd := r } := by
  unfold segsAdvance
  split
  · split
    · exact recSt_streamCopy _ _ _
    · exact ⟨_, _, _, rfl⟩
  · exact ⟨_, _, _, State.recSt_modRec _ _ _⟩

end Sys2Proof.Machine
end

section
/-! PROOFS. The Tarn: its start, and the block that the forwarding die sends next (R28, R169 to R174). -/

namespace Sys2Proof.Machine

/-- A write in the block REC, or in another of a transform die, freezes no channel. -/
theorem State.anyFrozen_wr_rec (s : State) (l : Nat) (f : Fld) (v : Nat) {h : Nat} (hh : h < 2) :
    (s.wr (recB l) f v).anyFrozen h = s.anyFrozen h := by
  have hapart : ∀ c < 2, ddrChB h c + R.DDR_c_STATUS_STATE.off ≠ recB l + f.off := by
    have hoff : R.DDR_c_STATUS_STATE.off < 0x1000 := by decide
    intro c hc
    simp only [ddrChB, ddrB, hubB, recB, tB]
    omega
  have hstate : ∀ c < 2, (s.wr (recB l) f v).frozen h c = s.frozen h c := fun c hc => by
    rw [State.frozen, State.frozen, State.rd_wr_other _ _ _ _ _ _ (hapart c hc)]
  rw [State.anyFrozen, State.anyFrozen, hstate 0 (by decide), hstate 1 (by decide)]

section
variable {l : Nat} {s : State}

/-- The Tarn of an enabled input, whose stream runs, starts empty. -/
theorem tarnStart_eq (hen : s.on (recB l) R.REC_TARN_CTRL_EN = true) (hrun : (s.wbSt l).running = true)
    (hstopped : (s.recSt l).tarn.run = false) (hfree : s.anyFrozen (hubOf s l) = false) :
    tarnStart l s = (s.wrs (recB l) [(R.REC_TARN_STATUS_RUN, 1), (R.REC_TARN_STATUS_FULL, 0)]).modRec l fun r => { r with
      tarn := { run := true, base := s.rd (recB l) R.REC_TARN_BASE_BASE * 2 ^ 20
                depth := max 16 (s.rd (recB l) R.REC_TARN_DEPTH_DEPTH)
                first := max (s.recvSample (inputOf l)) (s.wbSt l).start
                next := max (s.recvSample (inputOf l)) (s.wbSt l).start / tarnBlock, src := (forwarder s l).getD l } } := by
  simp [tarnStart, hen, hrun, hstopped, hfree]

/-! The bytes of a block (R169, R170). -/

/-- Sample `i` of the block that the Tarn takes next: zero before the Tarn's first one and where the stream is lost. -/
def blockSample (s : State) (l i : Nat) : Int × Int :=
  let q := (s.recSt l).tarn
  if q.first ≤ q.next * tarnBlock + i ∧
      bit (s.statusOf q.src (q.next * tarnBlock + i) (q.next * tarnBlock + i)) 7 = false then
    s.streamSample (inputOf l) (q.next * tarnBlock + i)
  else (0, 0)

/-- The bytes of the block that the Tarn takes next. -/
def blockBytes (s : State) (l : Nat) : List Byte :=
  let q := (s.recSt l).tarn
  let j0 := q.next * tarnBlock
  (List.range tarnBlock).flatMap fun i =>
    if q.first ≤ j0 + i ∧ bit (s.statusOf q.src (j0 + i) (j0 + i)) 7 = false then
      c24 (s.streamSample (inputOf l) (j0 + i)).1 (s.streamSample (inputOf l) (j0 + i)).2
    else List.replicate 6 0

/-- The descriptor of the block that the Tarn takes next. -/
def blockDesc (s : State) (l : Nat) : List Byte :=
  let q := (s.recSt l).tarn
  let j0 := q.next * tarnBlock
  leBytes 8 j0 ++ leBytes 2 (tarnStatus s l j0 (j0 + tarnBlock - 1)) ++
    leBytes 4 ((s.leAt (hubOf s l) (q.descAt q.next + 10) 4 + 1) % 2 ^ 32) ++ [0, 0]

/-- The memory with the next block and its descriptor in it. -/
def blockStored (s : State) (l : Nat) : State :=
  let q := (s.recSt l).tarn
  (s.setBytes (hubOf s l) (q.slotAt q.next) (blockBytes s l)).setBytes (hubOf s l) (q.descAt q.next) (blockDesc s l)

theorem length_c24 (i q : Int) : (c24 i q).length = 6 := by simp [c24]

theorem blockBytes_eq (s : State) (l : Nat) :
    blockBytes s l = (List.range tarnBlock).flatMap fun i => c24 (blockSample s l i).1 (blockSample s l i).2 := by
  refine List.flatMap_congr fun i _ => ?_
  simp only [blockSample]
  split <;> rfl

theorem length_blockBytes (s : State) (l : Nat) : (blockBytes s l).length = tarnSlot := by
  rw [blockBytes_eq, length_flatMap_const fun i _ => length_c24 (blockSample s l i).1 (blockSample s l i).2]
  simp [tarnBlock, tarnSlot]

theorem getD_blockBytes (s : State) (l : Nat) {i k : Nat} (hi : i < tarnBlock) (hk : k < 6) :
    (blockBytes s l).getD (6 * i + k) 0 = (c24 (blockSample s l i).1 (blockSample s l i).2).getD k 0 := by
  rw [blockBytes_eq, getD_flatMap (fun i _ => length_c24 (blockSample s l i).1 (blockSample s l i).2)
    (by simpa using hi) hk, List.getElem_range]

theorem length_blockDesc (s : State) (l : Nat) : (blockDesc s l).length = 16 := by simp [blockDesc]

/-- A block's write sets bytes of memory, status bits of the Tarn, and the block's number. -/
theorem blockWrite_eq (l : Nat) (s : State) :
    blockWrite l s =
      let q := (s.recSt l).tarn
      let u := blockStored s l
      let v := if bit (tarnStatus s l (q.next * tarnBlock) (q.next * tarnBlock + tarnBlock - 1)) 4 then
        u.wr (recB l) R.REC_TARN_STATUS_LOST 1 else u
      (if q.depth ≤ q.next + 1 - q.first / tarnBlock then v.wr (recB l) R.REC_TARN_STATUS_FULL 1 else v).modRec l
        fun r => { r with tarn := { q with next := q.next + 1 } } := rfl

@[simp] theorem tarn_blockWrite (l : Nat) (s : State) : ((blockWrite l s).recSt l).tarn =
    { (s.recSt l).tarn with next := (s.recSt l).tarn.next + 1 } := by
  rw [blockWrite_eq, State.recSt_modRec]

theorem rawByte_blockWrite (l : Nat) (s : State) (h b : Nat) :
    (blockWrite l s).rawByte h b = (blockStored s l).rawByte h b := by
  have hcap : (blockWrite l s).cap = (blockStored s l).cap := by
    simp only [blockWrite_eq, State.modRec_cap, apply_ite State.cap, State.wr_cap, ite_self]
  rw [State.rawByte, hcap, State.rawByte]

theorem anyFrozen_blockWrite (l : Nat) (s : State) {h : Nat} (hh : h < 2) :
    (blockWrite l s).anyFrozen h = s.anyFrozen h := by
  have hmod : ∀ (v : State) f, (v.modRec l f).anyFrozen h = v.anyFrozen h := fun _ _ => rfl
  simp only [blockWrite_eq, hmod, apply_ite (State.anyFrozen · h), State.anyFrozen_wr_rec _ _ _ _ hh, ite_self,
    blockStored, State.anyFrozen_setBytes]

/-! Where the block stands in memory (R169, R170). -/

theorem TarnSt.slotAt_le (q : TarnSt) (hdepth : 0 < q.depth) (b c : Nat) : q.slotAt b + tarnSlot ≤ q.descAt c := by
  have hslot : (b % q.depth + 1) * tarnSlot ≤ q.depth * tarnSlot := Nat.mul_le_mul_right _ (Nat.mod_lt b hdepth)
  rw [Nat.add_mul, Nat.one_mul] at hslot
  simp only [TarnSt.slotAt, TarnSt.descAt]
  omega

theorem TarnSt.descAt_le (q : TarnSt) (hdepth : 0 < q.depth) (b : Nat) :
    q.descAt b + 16 ≤ q.base + q.depth * (393216 + 16) := by
  have hdesc : (b % q.depth + 1) * 16 ≤ q.depth * 16 := Nat.mul_le_mul_right _ (Nat.mod_lt b hdepth)
  simp only [TarnSt.descAt, tarnSlot, Nat.mul_add]
  omega

section
variable (hfree : s.anyFrozen (hubOf s l) = false) (hdepth : 0 < (s.recSt l).tarn.depth)
  (hend : (s.recSt l).tarn.base + (s.recSt l).tarn.depth * (393216 + 16) ≤ 2 ^ 40)
include hfree hdepth hend

/-- The slot lies among the slots, before all descriptors. -/
theorem rawByte_blockStored_slot {i : Nat} (hi : i < tarnSlot) :
    (blockStored s l).rawByte (hubOf s l) ((s.recSt l).tarn.slotAt (s.recSt l).tarn.next + i) =
      (blockBytes s l).getD i 0 := by
  have hlen := length_blockBytes s l
  have hdesc := length_blockDesc s l
  have hslot := (s.recSt l).tarn.slotAt_le hdepth (s.recSt l).tarn.next (s.recSt l).tarn.next
  have hlast := (s.recSt l).tarn.descAt_le hdepth (s.recSt l).tarn.next
  rw [blockStored, State.rawByte_setBytes_outside (by simpa using hfree) (by omega) (hubOf_lt s l) (by omega) (by omega),
    State.rawByte_setBytes_inside hfree (by omega) (by omega)]

theorem rawByte_blockStored_desc {i : Nat} (hi : i < 16) :
    (blockStored s l).rawByte (hubOf s l) ((s.recSt l).tarn.descAt (s.recSt l).tarn.next + i) =
      (blockDesc s l).getD i 0 := by
  have hdesc := length_blockDesc s l
  have hlast := (s.recSt l).tarn.descAt_le hdepth (s.recSt l).tarn.next
  rw [blockStored, State.rawByte_setBytes_inside (by simpa using hfree) (by omega) (by omega)]

/-- A number of 3 bytes in the slot. -/
theorem leAt_blockWrite {i k : Nat} (hi : i < tarnBlock) (hk : k ≤ 3) {v : Int}
    (hv : ∀ j < 3, (c24 (blockSample s l i).1 (blockSample s l i).2).getD (k + j) 0 = (leBytes 3 (enc 24 v)).getD j 0) :
    (blockWrite l s).leAt (hubOf s l) ((s.recSt l).tarn.slotAt (s.recSt l).tarn.next + 6 * i + k) 3 = enc 24 v := by
  have hbytes : ∀ j < (leBytes 3 (enc 24 v)).length, (blockWrite l s).rawByte (hubOf s l)
      ((s.recSt l).tarn.slotAt (s.recSt l).tarn.next + 6 * i + k + j) = (leBytes 3 (enc 24 v)).getD j 0 := by
    intro j hj
    rw [length_leBytes] at hj
    have hin : 6 * i + (k + j) < tarnSlot := by simp only [tarnBlock, tarnSlot] at hi ⊢; omega
    rw [← hv j hj, ← getD_blockBytes s l hi (by omega), rawByte_blockWrite,
      ← rawByte_blockStored_slot hfree hdepth hend hin]
    simp only [Nat.add_assoc]
  have hle := State.leAt_of_rawByte (by rw [anyFrozen_blockWrite l s (hubOf_lt s l), hfree]) hbytes
  rw [length_leBytes, ofLe_leBytes] at hle
  rw [hle, enc_eq_toNat]
  exact Nat.mod_eq_of_lt (BitVec.isLt _)

theorem leAt_blockWrite_i {i : Nat} (hi : i < tarnBlock) :
    (blockWrite l s).leAt (hubOf s l) ((s.recSt l).tarn.slotAt (s.recSt l).tarn.next + 6 * i) 3 =
      enc 24 (blockSample s l i).1 :=
  leAt_blockWrite hfree hdepth hend hi (k := 0) (by decide) fun j hj => by
    rw [c24, List.getD_append _ _ _ _ (by rw [length_leBytes]; omega), Nat.zero_add]

theorem leAt_blockWrite_q {i : Nat} (hi : i < tarnBlock) :
    (blockWrite l s).leAt (hubOf s l) ((s.recSt l).tarn.slotAt (s.recSt l).tarn.next + 6 * i + 3) 3 =
      enc 24 (blockSample s l i).2 :=
  leAt_blockWrite hfree hdepth hend hi (k := 3) (by decide) fun j _ => by
    rw [c24, List.getD_append_right _ _ _ _ (by rw [length_leBytes]; omega), length_leBytes, Nat.add_sub_cancel_left]

/-- The descriptor starts with the block's first sample. -/
theorem leAt_blockWrite_desc :
    (blockWrite l s).leAt (hubOf s l) ((s.recSt l).tarn.descAt (s.recSt l).tarn.next) 8 =
      (s.recSt l).tarn.next * tarnBlock % 2 ^ 64 := by
  have hbytes : ∀ j < (leBytes 8 ((s.recSt l).tarn.next * tarnBlock)).length, (blockWrite l s).rawByte (hubOf s l)
      ((s.recSt l).tarn.descAt (s.recSt l).tarn.next + j) =
        (leBytes 8 ((s.recSt l).tarn.next * tarnBlock)).getD j 0 := by
    intro j hj
    have hj8 := hj
    rw [length_leBytes] at hj8
    rw [rawByte_blockWrite, rawByte_blockStored_desc hfree hdepth hend (by omega)]
    simp only [blockDesc, List.append_assoc]
    exact List.getD_append _ _ _ _ hj
  have hle := State.leAt_of_rawByte (by rw [anyFrozen_blockWrite l s (hubOf_lt s l), hfree]) hbytes
  rwa [length_leBytes, ofLe_leBytes] at hle

end

end

/-! The copies in progress go on before the block is written, and leave alone what it takes. -/

section
variable {l : Nat} {s : State}

theorem tarn_segsAdvance (l : Nat) (s : State) : ((segsAdvance l s).recSt l).tarn = (s.recSt l).tarn := by
  obtain ⟨segs, w, r, h⟩ := recSt_segsAdvance l s
  rw [h]

theorem hubOf_segsAdvance (l k : Nat) (s : State) : hubOf (segsAdvance l s) k = hubOf s k :=
  hubOf_congr (segsAdvance_within l s).part k

theorem blockSample_segsAdvance (l i : Nat) (s : State) : blockSample (segsAdvance l s) l i = blockSample s l i := by
  have hmarks : (segsAdvance l s).marks = s.marks := (segsAdvance_within l s).marks
  have hstream : (segsAdvance l s).stream = s.stream := (segsAdvance_within l s).stream
  have hstatus : ∀ t first last, (segsAdvance l s).statusOf t first last = s.statusOf t first last := fun _ _ _ => by
    rw [State.statusOf, hmarks, State.statusOf]
  have hsample : ∀ n j, (segsAdvance l s).streamSample n j = s.streamSample n j := fun _ _ => by
    rw [State.streamSample, hstream, State.streamSample]
  rw [blockSample, blockSample, tarn_segsAdvance]
  simp only [hstatus, hsample]

theorem anyFrozen_segsAdvance (l : Nat) (s : State) {h : Nat} (hh : h < 2) :
    (segsAdvance l s).anyFrozen h = s.anyFrozen h := (segsAdvance_within l s).anyFrozen hh

/-- The block as it stands in memory after the copies and its write. -/
theorem leAt_tarnBlockWrite (hfree : s.anyFrozen (hubOf s l) = false) (hdepth : 0 < (s.recSt l).tarn.depth)
    (hend : (s.recSt l).tarn.base + (s.recSt l).tarn.depth * (393216 + 16) ≤ 2 ^ 40) :
    let t := blockWrite l (segsAdvance l s)
    let q := (s.recSt l).tarn
    (∀ i < tarnBlock, t.leAt (hubOf s l) (q.slotAt q.next + 6 * i) 3 = enc 24 (blockSample s l i).1 ∧
      t.leAt (hubOf s l) (q.slotAt q.next + 6 * i + 3) 3 = enc 24 (blockSample s l i).2) ∧
    t.leAt (hubOf s l) (q.descAt q.next) 8 = q.next * tarnBlock % 2 ^ 64 := by
  have hhub := hubOf_segsAdvance l l s
  have htarn := tarn_segsAdvance l s
  have hfree' : (segsAdvance l s).anyFrozen (hubOf (segsAdvance l s) l) = false := by
    rw [hhub, anyFrozen_segsAdvance l s (hubOf_lt s l), hfree]
  have hi := fun i hi => leAt_blockWrite_i hfree' (by rwa [htarn]) (by rwa [htarn]) (i := i) hi
  have hq := fun i hi => leAt_blockWrite_q hfree' (by rwa [htarn]) (by rwa [htarn]) (i := i) hi
  have hdesc := leAt_blockWrite_desc hfree' (by rwa [htarn]) (by rwa [htarn])
  simp only [hhub, htarn, blockSample_segsAdvance] at hi hq hdesc
  exact ⟨fun i hlt => ⟨hi i hlt, hq i hlt⟩, hdesc⟩

end

/-- The die that forwards the stream and has done so writes the block that has come. -/
theorem exec_tarnBlockWrite {d : TDie} {s : State} (hrun : (s.recSt (pairLead d)).tarn.run = true)
    (hforward : forwarder s (pairLead d) = some d.val) (hsrc : (s.recSt (pairLead d)).tarn.src = d.val)
    (hcome : ((s.recSt (pairLead d)).tarn.next + 1) * 65536 ≤ s.streamHead (inputOf (pairLead d))) :
    exec (Instr.tarnBlockWrite d) s = .next (blockWrite (pairLead d) (segsAdvance (pairLead d) s)) := by
  have htake : takeOver (pairLead d) d (segsAdvance (pairLead d) s) = segsAdvance (pairLead d) s := by
    simp only [takeOver, tarn_segsAdvance, hsrc, if_true]
  change execTarnBlockWrite d s = _
  simp [execTarnBlockWrite, hrun, hforward, tarnBlock, hcome, htake]

end Sys2Proof.Machine
end

section
/-! PROOFS. The record engine's acquisitions: what a change of its state shows, its end, a stop, an event and a re-arm (R176
to R183). -/

namespace Sys2Proof.Machine

/-! The units that the record engine holds armed (R148, R177). -/

section
variable (l : Nat)

/-- Unit `u` shows whether it is armed. -/
def showUnit (units : Nat) (armed : Bool) (s : State) (u : Nat) : State :=
  s.wr (unitB l u) R.TRGU_u_STATUS_ARMED (b2n (if bit units u then armed else s.on (recB l) R.REC_CTRL_EN))

/-- Whether the record engine's units may be armed: it runs, takes events, and waits for no sample. -/
def unitsArmed (s : State) : Bool :=
  s.on (recB l) R.REC_STATUS_RUN && !(s.recSt l).stopping && (s.recSt l).rearm.isNone

theorem showArmed_eq (s : State) : showArmed l s =
    ((List.range 8).foldl (showUnit l (s.rdL (recB l) R.REC_CTRL_UNITS) (unitsArmed l s)) s).wr (recB l)
      R.REC_STATUS_ARMED (b2n (unitsArmed l s)) := rfl

variable {l}

theorem rd_showUnits_other {b : Nat} {f : Fld} (units : Nat) (armed : Bool) (us : List Nat) (s : State)
    (hother : ∀ u ∈ us, b + f.off ≠ unitB l u + R.TRGU_u_STATUS_ARMED.off) :
    (us.foldl (showUnit l units armed) s).rd b f = s.rd b f := by
  induction us generalizing s with
  | nil => rfl
  | cons u us ih =>
    rw [List.foldl_cons, ih _ fun v hv => hother v (.tail u hv)]
    exact State.rd_wr_other _ _ _ _ _ _ (hother u (.head us))

/-- The units lie below the registers of the record engine, one after the other. -/
theorem unitB_apart {f : Fld} {u : Nat} (hu : u < 8) : recB l + f.off ≠ unitB l u + R.TRGU_u_STATUS_ARMED.off := by
  have hoff : R.TRGU_u_STATUS_ARMED.off = 0x434 := rfl
  simp only [recB, unitB, trgB, hoff]
  omega

theorem unitB_apart_unit {u v : Nat} (h : u ≠ v) :
    unitB l u + R.TRGU_u_STATUS_ARMED.off ≠ unitB l v + R.TRGU_u_STATUS_ARMED.off := by
  simp only [unitB]
  omega

theorem rd_showUnits_rec (f : Fld) (units : Nat) (armed : Bool) {us : List Nat} (hus : ∀ u ∈ us, u < 8) (s : State) :
    (us.foldl (showUnit l units armed) s).rd (recB l) f = s.rd (recB l) f :=
  rd_showUnits_other units armed us s fun u hu => unitB_apart (hus u hu)

theorem State.on_wr_bit (s : State) (b : Nat) (f : Fld) (hw : f.w = 1) (hf : f.lo + f.w ≤ 32) (c : Bool) :
    (s.wr b f (b2n c)).on b f = c := by
  rw [State.on, State.rd_wr_same _ _ _ _ hf, hw]
  cases c <;> rfl

theorem on_showUnits_unit (units : Nat) (armed : Bool) {us : List Nat} (hus : ∀ u ∈ us, u < 8) (hnodup : us.Nodup)
    (s : State) {u : Nat} (hu : u ∈ us) : (us.foldl (showUnit l units armed) s).on (unitB l u) R.TRGU_u_STATUS_ARMED =
      if bit units u then armed else s.on (recB l) R.REC_CTRL_EN := by
  obtain ⟨before, after, rfl⟩ := List.append_of_mem hu
  have hbefore : ∀ v ∈ before, v < 8 := fun v hv => hus v (List.mem_append_left _ hv)
  have hafter : ∀ v ∈ after, unitB l u + R.TRGU_u_STATUS_ARMED.off ≠ unitB l v + R.TRGU_u_STATUS_ARMED.off := by
    intro v hv
    refine unitB_apart_unit fun huv => ?_
    subst huv
    exact (List.nodup_cons.mp (List.nodup_append.mp hnodup).2.1).1 hv
  have hen : (before.foldl (showUnit l units armed) s).on (recB l) R.REC_CTRL_EN = s.on (recB l) R.REC_CTRL_EN := by
    rw [State.on, rd_showUnits_rec _ _ _ hbefore, State.on]
  rw [List.foldl_append, List.foldl_cons, State.on, rd_showUnits_other _ _ _ _ hafter, showUnit,
    ← State.on, State.on_wr_bit _ _ _ rfl (by decide), hen]

@[simp] theorem rd_showArmed {f : Fld} (hf : R.REC_STATUS_ARMED.apart f = true) (s : State) :
    (showArmed l s).rd (recB l) f = s.rd (recB l) f := by
  rw [showArmed_eq, State.rd_wr_of_apart _ _ _ (by decide) hf,
    rd_showUnits_rec _ _ _ fun u hu => List.mem_range.mp hu]

theorem showUnits_keeps (units : Nat) (armed : Bool) (us : List Nat) (s : State) :
    us.foldl (showUnit l units armed) s = { s with regs := (us.foldl (showUnit l units armed) s).regs } := by
  induction us generalizing s with
  | nil => rfl
  | cons u us ih =>
    rw [List.foldl_cons, ih]
    rfl

/-- What is shown is in registers alone. -/
theorem showArmed_keeps (s : State) : showArmed l s = { s with regs := (showArmed l s).regs } := by
  rw [showArmed_eq, showUnits_keeps]
  rfl

@[simp] theorem recSt_showArmed (k : Nat) (s : State) : (showArmed l s).recSt k = s.recSt k := by
  have hrecs : (showArmed l s).recs = s.recs := by rw [showArmed_keeps]
  rw [State.recSt, hrecs, State.recSt]

@[simp] theorem live_showArmed (s : State) : (showArmed l s).live = s.live := by
  rw [showArmed_keeps]

@[simp] theorem tabL_showArmed (s : State) : (showArmed l s).tabL = s.tabL := by
  rw [showArmed_keeps]

@[simp] theorem rdL_showArmed (s : State) : (showArmed l s).rdL = s.rdL := State.rdL_congr (live_showArmed s)

/-- The units that the engine holds are armed as it is, the others while it is on. -/
theorem armedAs_showArmed (s : State) : armedAs s (showArmed l s) l (unitsArmed l s) := by
  refine ⟨?_, fun u => ?_⟩
  · rw [showArmed_eq]
    exact State.on_wr_bit _ _ _ rfl (by decide) _
  · have hrange : ∀ v ∈ List.range 8, v < 8 := fun v hv => List.mem_range.mp hv
    rw [rdL_showArmed, showArmed_eq, State.on, State.rd_wr_other _ _ _ _ _ _ (unitB_apart u.isLt).symm, ← State.on,
      on_showUnits_unit _ _ hrange List.nodup_range _ (List.mem_range.mpr u.isLt)]

/-- What is armed depends on whether the engine is on. -/
theorem armedAs_of_en {s v t : State} {on on' : Bool} (h : armedAs v t l on)
    (hen : v.on (recB l) R.REC_CTRL_EN = s.on (recB l) R.REC_CTRL_EN) (hon : on = on') : armedAs s t l on' := by
  subst hon
  obtain ⟨hown, hunits⟩ := h
  exact ⟨hown, fun u => by rw [hunits u, hen]⟩

end

/-! The end of an acquisition (R176, R181). -/

section
variable {l : Nat} {s : State}

theorem recFinish_of_segs (h : (s.recSt l).segs ≠ []) : recFinish l s = s := by
  simp [recFinish, h]

theorem recFinish_of_going (hstop : (s.recSt l).stopping = false) (hm : (s.recSt l).m ≠ 0)
    (hnext : (s.recSt l).nextSeg < (s.recSt l).m) : recFinish l s = s := by
  simp [recFinish, hstop, hm, hnext]

/-- The acquisition has ended: what is staged is padded, and the units are disarmed. -/
theorem recFinish_of_ended (hrun : s.on (recB l) R.REC_STATUS_RUN = true)
    (hended : (s.recSt l).stopping = true ∨ (s.recSt l).m = 0) (hsegs : (s.recSt l).segs = []) :
    recFinish l s = showArmed l ((if recMode s l = 2 then stagePush l true s else s).wrs (recB l)
      [(R.REC_STATUS_RUN, 0), (R.REC_STATUS_DONE, 1), (R.REC_STATUS_STOPPED, b2n (s.recSt l).stopping)]) := by
  rcases hended with h | h <;> simp [recFinish, hrun, h, hsegs]

end

end Sys2Proof.Machine
end

section
/-! PROOFS. The rows REC_STOP, TRIGGER_EVENT_DELIVER and REC_REARM (R179 to R183). -/

namespace Sys2Proof.Machine

section
variable {l : Nat}

/-- The record engine shows that its acquisition is done. -/
def recEnded (l : Nat) (stopped : Bool) (s : State) : State :=
  showArmed l (s.wrs (recB l) [(R.REC_STATUS_RUN, 0), (R.REC_STATUS_DONE, 1), (R.REC_STATUS_STOPPED, b2n stopped)])

theorem recSt_recEnded (stopped : Bool) (s : State) : (recEnded l stopped s).recSt l = s.recSt l := by
  rw [recEnded, recSt_showArmed]
  rfl

/-- The fields of the block REC that the end of an acquisition writes. -/
def endedFlds : List Fld := [R.REC_STATUS_RUN, R.REC_STATUS_DONE, R.REC_STATUS_STOPPED, R.REC_STATUS_ARMED]

theorem rd_recEnded {f : Fld} (hf : endedFlds.all (·.apart f) = true) (stopped : Bool) (s : State) :
    (recEnded l stopped s).rd (recB l) f = s.rd (recB l) f := by
  have happart := List.all_eq_true.mp hf
  simp only [recEnded, State.wrs]
  rw [rd_showArmed (happart _ (by simp [endedFlds])),
    State.rd_wr_of_apart _ _ _ (by decide) (happart _ (by simp [endedFlds])),
    State.rd_wr_of_apart _ _ _ (by decide) (happart _ (by simp [endedFlds])),
    State.rd_wr_of_apart _ _ _ (by decide) (happart _ (by simp [endedFlds]))]

theorem live_recEnded (stopped : Bool) (s : State) : (recEnded l stopped s).live = s.live := by
  rw [recEnded, live_showArmed, State.wrs_live]

theorem tabL_recEnded (stopped : Bool) (s : State) : (recEnded l stopped s).tabL = s.tabL := by
  rw [recEnded, tabL_showArmed, State.wrs_tabL]

theorem on_recEnded (stopped : Bool) (s : State) : (recEnded l stopped s).on (recB l) R.REC_STATUS_RUN = false ∧
    (recEnded l stopped s).on (recB l) R.REC_STATUS_DONE = true ∧
    (recEnded l stopped s).on (recB l) R.REC_STATUS_STOPPED = stopped := by
  refine ⟨State.on_of_rd_zero ?_, State.on_of_rd_one ?_, ?_⟩
  · simp (disch := decide) only [recEnded, rd_showArmed, State.wrs, State.rd_wr_of_apart, State.rd_wr_same]
    rfl
  · simp (disch := decide) only [recEnded, rd_showArmed, State.wrs, State.rd_wr_of_apart, State.rd_wr_same]
    rfl
  · rw [recEnded, State.on, rd_showArmed (by decide), ← State.on]
    exact State.on_wr_bit _ _ _ rfl (by decide) stopped

theorem armedAs_recEnded (stopped : Bool) (s : State) : armedAs s (recEnded l stopped s) l false := by
  refine armedAs_of_en (armedAs_showArmed _) ?_ ?_
  · simp (disch := decide) only [State.on, State.wrs, State.rd_wr_of_apart]
  · have hrun : (s.wrs (recB l) [(R.REC_STATUS_RUN, 0), (R.REC_STATUS_DONE, 1),
        (R.REC_STATUS_STOPPED, b2n stopped)]).on (recB l) R.REC_STATUS_RUN = false := by
      refine State.on_of_rd_zero ?_
      simp (disch := decide) only [State.wrs, State.rd_wr_of_apart, State.rd_wr_same]
      rfl
    rw [unitsArmed, hrun, Bool.false_and, Bool.false_and]

/-! REC_STOP (R181). -/

/-- The record engine has been told to stop. -/
def recStopping (l : Nat) (s : State) : State := showArmed l (s.modRec l fun r => { r with stopping := true })

theorem recSt_recStopping (s : State) : (recStopping l s).recSt l = { s.recSt l with stopping := true } := by
  rw [recStopping, recSt_showArmed, State.recSt_modRec]

theorem rd_recStopping {f : Fld} (hf : R.REC_STATUS_ARMED.apart f = true) (s : State) :
    (recStopping l s).rd (recB l) f = s.rd (recB l) f := by
  rw [recStopping, rd_showArmed hf, State.rd_modRec]

theorem recMode_recStopping (s : State) : recMode (recStopping l s) l = recMode s l := by
  rw [recMode, recStopping, rdL_showArmed]
  rfl

theorem armedAs_recStopping (s : State) : armedAs s (recStopping l s) l false := by
  refine armedAs_of_en (armedAs_showArmed _) rfl ?_
  simp [unitsArmed]

section
variable {s : State} (hlead : isLead l = true) (hrun : s.on (recB l) R.REC_STATUS_RUN = true)
include hlead hrun

theorem recStop_eq : recStop l s = recFinish l (recStopping l s) := by
  rw [recStop, hlead, hrun, recStopping]
  rfl

/-- With no segment in progress a stop ends the acquisition at once. -/
theorem recStop_of_done (hsegs : (s.recSt l).segs = []) : recStop l s =
    recEnded l true (if recMode s l = 2 then stagePush l true (recStopping l s) else recStopping l s) := by
  have hrun' : (recStopping l s).on (recB l) R.REC_STATUS_RUN = true := by
    rw [State.on, rd_recStopping (by decide)]
    exact hrun
  rw [recStop_eq hlead hrun, recFinish_of_ended hrun' (.inl (by rw [recSt_recStopping]))
    (by rw [recSt_recStopping]; exact hsegs), recMode_recStopping, recSt_recStopping]
  rfl

theorem recStop_of_segs (hsegs : (s.recSt l).segs ≠ []) : recStop l s = recStopping l s := by
  rw [recStop_eq hlead hrun, recFinish_of_segs]
  rw [recSt_recStopping]
  exact hsegs

theorem stopping_recStop : ((recStop l s).recSt l).stopping = true := by
  by_cases hsegs : (s.recSt l).segs = []
  · rw [recStop_of_done hlead hrun hsegs, recSt_recEnded]
    split
    · obtain ⟨w, r, hpush⟩ := recSt_stagePush l true (recStopping l s)
      rw [hpush, recSt_recStopping]
    · rw [recSt_recStopping]
  · rw [recStop_of_segs hlead hrun hsegs, recSt_recStopping]

theorem on_recStop_of_done (hsegs : (s.recSt l).segs = []) : (recStop l s).on (recB l) R.REC_STATUS_RUN = false ∧
    (recStop l s).on (recB l) R.REC_STATUS_DONE = true ∧ (recStop l s).on (recB l) R.REC_STATUS_STOPPED = true := by
  rw [recStop_of_done hlead hrun hsegs]
  exact on_recEnded true _

theorem on_recStop_of_segs (hsegs : (s.recSt l).segs ≠ []) : (recStop l s).on (recB l) R.REC_STATUS_RUN = true := by
  rw [recStop_of_segs hlead hrun hsegs, State.on, rd_recStopping (by decide)]
  exact hrun

theorem armedAs_recStop (hmode : recMode s l ≠ 2) : armedAs s (recStop l s) l false := by
  by_cases hsegs : (s.recSt l).segs = []
  · rw [recStop_of_done hlead hrun hsegs, if_neg hmode]
    exact armedAs_of_en (armedAs_recEnded true _) (by rw [State.on, rd_recStopping (by decide), State.on]) rfl
  · rw [recStop_of_segs hlead hrun hsegs]
    exact armedAs_recStopping s

end

/-! TRIGGER_EVENT_DELIVER (R179, R180, R182, R183). -/

/-- The flags that a segment takes from its event's causes and from the mode (R189). -/
def eventFlags (s : State) (l : Nat) (f : Fire) : Nat :=
  f.flags % 32 * 128 ||| (if recMode s l = 2 then 16384 else 0)

/-- They say neither PRE_CLIP nor TRUNC. -/
theorem eventFlags_unclipped (s : State) (l : Nat) (f : Fire) :
    bit (eventFlags s l f) 5 = false ∧ bit (eventFlags s l f) 6 = false := by
  have hall : ∀ n < 32, ∀ m ∈ [0, 16384], bit (n * 128 ||| m) 5 = false ∧ bit (n * 128 ||| m) 6 = false := by decide
  refine hall _ (Nat.mod_lt _ (by decide)) _ ?_
  split <;> simp

section
variable {s : State} {e : TrgEvent}

/-- The segment of an event whose samples the Tarn holds from PRE before it, and whose slot is large enough. -/
theorem cutSegment_whole (segno : Nat) (hwin : recWindow s l e.fire = (recPre s l, recPost s l))
    (hpre : recPre s l ≤ e.sample) (hold : (s.recSt l).tarn.oldest ≤ e.sample - recPre s l)
    (hlive : (s.recSt l).tarn.run = true ∨ e.sample < (s.recSt l).tarn.head)
    (hcap : recMode s l = 2 ∨ recPre s l + recPost s l ≤ s.rd (recB l) R.REC_CAP_CAP * 64) :
    cutSegment s l segno e = { ev := e, segno := segno, start := e.sample - recPre s l, len := recPre s l + recPost s l,
                               req := recPre s l + recPost s l, flags := eventFlags s l e.fire } := by
  have htrunc : (recMode s l != 2 && decide (s.rd (recB l) R.REC_CAP_CAP * 64 < recPre s l + recPost s l)) = false := by
    rcases hcap with h | h
    · simp [h]
    · simp [Nat.not_lt.mpr h]
  have hclip : ¬ (e.sample < (s.recSt l).tarn.oldest ∨
      (s.recSt l).tarn.run = false ∧ (s.recSt l).tarn.head ≤ e.sample) := by
    rintro (h | ⟨hstopped, hhead⟩)
    · omega
    · rcases hlive with hrun | hbelow
      · exact Bool.noConfusion (hrun.symm.trans hstopped)
      · omega
  have hlen : e.sample + recPost s l - (e.sample - recPre s l) = recPre s l + recPost s l := by omega
  by_cases hmode : recMode s l = 2 <;>
    simp [cutSegment, hwin, htrunc, hclip, hpre, max_eq_right hold, hlen, eventFlags, hmode]

/-- NETWIN, or an event that no message brought, leaves PRE and POST as they are set (R199). -/
theorem recWindow_own {f : Fire} (h : s.onL (recB l) R.REC_CTRL_NETWIN = false ∨ bit f.xsrc 4 = false) :
    recWindow s l f = (recPre s l, recPost s l) := by
  rcases h with h | h <;> simp [recWindow, h]

section
variable (hunit : bit (s.rdL (recB l) R.REC_CTRL_UNITS) e.unit = true)
  (hrun : s.on (recB l) R.REC_STATUS_RUN = true) (hstop : (s.recSt l).stopping = false)
include hunit hrun hstop

/-- An event that the record engine takes, whose segment is neither clipped nor truncated. -/
theorem deliverEvent_eq (hroom : recMode s l = 1 ∨ (s.recSt l).nextSeg < (s.recSt l).m) {g : RecSeg}
    (hg : cutSegment s l (s.recSt l).nextSeg e = g) (h5 : bit g.flags 5 = false) (h6 : bit g.flags 6 = false) :
    deliverEvent l e s = showArmed l (s.modRec l fun r => { r with
      segs := r.segs ++ [g], nextSeg := r.nextSeg + 1
      rearm := some (max (if s.onL (recB l) R.REC_CTRL_ARM_MODE then 0 else e.sample + max (recWindow s l e.fire).2 9216)
        (r.rearm.getD 0)) }) := by
  have hfull : (recMode s l != 1 && decide ((s.recSt l).m ≤ (s.recSt l).nextSeg)) = false := by
    rcases hroom with h | h
    · simp [h]
    · simp [Nat.not_le.mpr h]
  simp [deliverEvent, hunit, hrun, hstop, hfull, hg, h5, h6]

/-- An event after the last segment is missed. -/
theorem deliverEvent_missed (hmode : recMode s l ≠ 1) (hfull : (s.recSt l).m ≤ (s.recSt l).nextSeg) :
    deliverEvent l e s = s.inc (unitB l e.unit) R.TRGU_u_MISS_MISSED := by
  simp [deliverEvent, hunit, hrun, hstop, hmode, hfull]

end

theorem deliverEvent_ignored (hunit : bit (s.rdL (recB l) R.REC_CTRL_UNITS) e.unit = false) :
    deliverEvent l e s = s := by
  simp [deliverEvent, hunit]

theorem exec_triggerEventDeliver {d : TDie} {r : List TrgEvent} (hev : (s.trgSt d).events = e :: r) :
    exec (Instr.triggerEventDeliver d) s = .next (deliverEvent d e (s.modTrg d fun q => { q with events := r })) := by
  change execTriggerEventDeliver d s = _
  rw [execTriggerEventDeliver, hev]

theorem trg_showArmed (s : State) : (showArmed l s).trg = s.trg := by rw [showArmed_keeps]

theorem exec_recRearm {d : TDie} {k : Nat} (hrearm : (s.recSt d).rearm = some k) (hk : k ≤ (s.trgSt d).evaluated) :
    exec (Instr.recRearm d) s = .next (showArmed d (s.modRec d fun r => { r with rearm := none })) := by
  change execRecRearm d s = _
  rw [execRecRearm, hrearm]
  exact congrArg _ (if_pos hk)

end

end

end Sys2Proof.Machine
end

section
/-! PROOFS. The row REC_ARM (R177, R184, R186). -/

namespace Sys2Proof.Machine

section
variable {l : Nat}

/-! The settings that an ARM latches. -/

/-- The (A) fields and the mask-test table have become the live ones. -/
def recLatched (l : Nat) (s : State) : State :=
  (((s.handOver (recB l) 0x4 0x8).handOver (recB l) 0x10 0x24).handOver (recB l) 0x40 0x50).tabHandOver
    (mtKey l 0) (mtKey l 4096)

/-- Byte offset `o` of a REC block belongs to a register of (A) fields (R177). -/
abbrev inArmSet (o : Nat) : Prop := (0x4 ≤ o ∧ o < 0x8) ∨ (0x10 ≤ o ∧ o < 0x24) ∨ (0x40 ≤ o ∧ o < 0x50)

theorem liveReg_recLatched (s : State) {o : Nat} (ho : inArmSet o) :
    (recLatched l s).liveReg (recB l + o) = s.reg (recB l + o) := by
  have hother : ∀ (v : State) (lo hi : Nat), lo ≤ hi → o < lo ∨ hi ≤ o →
      (v.handOver (recB l) lo hi).liveReg (recB l + o) = v.liveReg (recB l + o) := fun v lo hi hle hout =>
    tget_tcopy_outside _ _ _ _ _ _ (by omega) (by omega)
  change (((s.handOver (recB l) 0x4 0x8).handOver (recB l) 0x10 0x24).handOver (recB l) 0x40 0x50).liveReg _ = _
  rcases ho with ⟨hlo, hhi⟩ | ⟨hlo, hhi⟩ | ⟨hlo, hhi⟩
  · rw [hother _ _ _ (by decide) (by omega), hother _ _ _ (by decide) (by omega), State.liveReg_handOver _ _ _ _ hlo hhi]
  · rw [hother _ _ _ (by decide) (by omega), State.liveReg_handOver _ _ _ _ hlo hhi]
    rfl
  · rw [State.liveReg_handOver _ _ _ _ hlo hhi]
    rfl

/-- A field that is latched. -/
theorem rdL_recLatched (s : State) {f : Fld} (hf : inArmSet f.off) :
    (recLatched l s).rdL (recB l) f = s.rd (recB l) f := by
  rw [State.rdL, liveReg_recLatched s hf, State.rd]

theorem rd_recLatched (s : State) (f : Fld) : (recLatched l s).rd (recB l) f = s.rd (recB l) f := rfl

theorem tabL_recLatched (s : State) (i : Fin 4096) :
    tget tabReset (recLatched l s).tabL (mtKey l i) = tget tabReset s.tabS (mtKey l i) := by
  have hi := i.isLt
  exact tget_tcopy_inside _ _ _ _ _ _ (by simp only [mtKey]; omega) (by simp only [mtKey]; omega)

/-! The acquisition that an ARM starts. -/

/-- Whether M is lowered, because a slot would be too small (R186). -/
def armCut (s : State) (l : Nat) : Bool :=
  !(recMode s l == 2) && decide (recSize s l / clampLen 1048576 (s.rdL (recB l) R.REC_SEGS_M) / 64 * 64 < 576)

/-- The segments of the acquisition. -/
def armSegs (s : State) (l : Nat) : Nat :=
  if armCut s l then recSize s l / 576 else clampLen 1048576 (s.rdL (recB l) R.REC_SEGS_M)

/-- Bytes of a slot. -/
def armSlot (s : State) (l : Nat) : Nat := recSize s l / max 1 (armSegs s l) / 64 * 64

/-- CAP, in units of 64 samples. -/
def armCap (s : State) (l : Nat) : Nat :=
  if recMode s l == 2 then 0xFFFFFFFF
  else min 0xFFFFFFFF ((armSlot s l - 192) / (64 * sampleBytes s l) * 64 / 64)

/-- The number of the acquisition. -/
def armNo (s : State) (l : Nat) : Nat := (s.rd (recB l) R.REC_ACQ_COUNT_ACQUISITIONS + 1) % 2 ^ 32

/-- The counts and the status of an acquisition that starts. -/
def armCounted (l : Nat) (s : State) : State :=
  s.wrs (recB l) [(R.REC_ACQ_COUNT_ACQUISITIONS, armNo s l), (R.REC_SEG_COUNT_SEGMENTS, 0),
    (R.REC_MT_FIRST_VALID, 0), (R.REC_STATUS_RUN, 1), (R.REC_STATUS_DONE, 0), (R.REC_STATUS_STOPPED, 0),
    (R.REC_CAP_CAP, armCap s l)]

/-- They, and whether M is lowered. -/
def armShown (l : Nat) (s : State) : State :=
  if armCut s l then (armCounted l s).wr (recB l) R.REC_STATUS_SEGS_CUT 1 else armCounted l s

/-- The acquisition that starts, before its units are shown armed. -/
def armReady (l : Nat) (s : State) : State :=
  (armShown l s).modRec l fun r => { r with
    segs := [], nextSeg := 0, m := armSegs s l, slot := armSlot s l, acqNo := armNo s l, stopping := false, rearm := none
    stageWr := 0, stageRd := 0 }

theorem recArm_eq {s : State} (hlead : isLead l = true) (husable : s.usableT l = true)
    (hidle : s.on (recB l) R.REC_STATUS_RUN = false) :
    recArm l s = recFinish l (showArmed l (armReady l (recLatched l s))) := by
  rw [recArm, if_neg (by simp [hlead, husable, hidle])]
  extract_lets u v a m0 stream cut m slot cap acq w x y
  have hready : y = armReady l v := rfl
  rw [hready]
  rfl

/-- CAP as it is read: 64 samples are one unit. -/
theorem armCap_eq (s : State) (l : Nat) : armCap s l = if recMode s l = 2 then 2 ^ 32 - 1
    else min (2 ^ 32 - 1) ((armSlot s l - 192) / (64 * sampleBytes s l)) := by
  simp [armCap]

theorem clampLen_eq (m n : Nat) (hm : 0 < m) : clampLen m n = min m (max 1 n) := by
  unfold clampLen
  split_ifs <;> omega

/-! What is read after an ARM. -/

theorem rd_armShown {f : Fld} (hcut : R.REC_STATUS_SEGS_CUT.apart f = true) (s : State) :
    (armShown l s).rd (recB l) f = (armCounted l s).rd (recB l) f := by
  unfold armShown
  split
  · exact State.rd_wr_of_apart _ _ _ (by decide) hcut
  · rfl

theorem armShown_live (s : State) : (armShown l s).live = s.live := by
  have hcounted : (armCounted l s).live = s.live := State.wrs_live _ _ _
  unfold armShown
  split
  · rw [State.wr_live, hcounted]
  · exact hcounted

theorem armShown_tabL (s : State) : (armShown l s).tabL = s.tabL := by
  have hcounted : (armCounted l s).tabL = s.tabL := State.wrs_tabL _ _ _
  unfold armShown
  split
  · rw [State.wr_tabL, hcounted]
  · exact hcounted

theorem armShown_recs (s : State) : (armShown l s).recs = s.recs := by
  have hcounted : (armCounted l s).recs = s.recs := State.wrs_recs _ _ _
  unfold armShown
  split
  · rw [State.wr_recs, hcounted]
  · exact hcounted

section
variable (s : State)

theorem armShown_run : (armShown l s).rd (recB l) R.REC_STATUS_RUN = 1 := by
  rw [rd_armShown (by decide), armCounted]
  simp (disch := decide) only [State.wrs, State.rd_wr_of_apart, State.rd_wr_same]
  rfl

theorem armShown_done : (armShown l s).rd (recB l) R.REC_STATUS_DONE = 0 := by
  rw [rd_armShown (by decide), armCounted]
  simp (disch := decide) only [State.wrs, State.rd_wr_of_apart, State.rd_wr_same]
  rfl

theorem armShown_acq : (armShown l s).rd (recB l) R.REC_ACQ_COUNT_ACQUISITIONS = armNo s l := by
  rw [rd_armShown (by decide), armCounted]
  simp (disch := decide) only [State.wrs, State.rd_wr_of_apart, State.rd_wr_same]
  exact Nat.mod_eq_of_lt (Nat.mod_lt _ (by decide))

theorem armShown_count : (armShown l s).rd (recB l) R.REC_SEG_COUNT_SEGMENTS = 0 := by
  rw [rd_armShown (by decide), armCounted]
  simp (disch := decide) only [State.wrs, State.rd_wr_of_apart, State.rd_wr_same]
  rfl

theorem armShown_first : (armShown l s).rd (recB l) R.REC_MT_FIRST_VALID = 0 := by
  rw [rd_armShown (by decide), armCounted]
  simp (disch := decide) only [State.wrs, State.rd_wr_of_apart, State.rd_wr_same]
  rfl

theorem armShown_cap : (armShown l s).rd (recB l) R.REC_CAP_CAP = armCap s l := by
  have hlt : armCap s l < 2 ^ 32 := by
    rw [armCap_eq]
    split <;> omega
  rw [rd_armShown (by decide), armCounted]
  simp (disch := decide) only [State.wrs, State.rd_wr_same]
  exact Nat.mod_eq_of_lt hlt

theorem armShown_en : (armShown l s).rd (recB l) R.REC_CTRL_EN = s.rd (recB l) R.REC_CTRL_EN := by
  rw [rd_armShown (by decide), armCounted]
  simp (disch := decide) only [State.wrs, State.rd_wr_of_apart]

theorem armShown_cut (hcut : armCut s l = true) : (armShown l s).on (recB l) R.REC_STATUS_SEGS_CUT = true := by
  rw [armShown, hcut]
  exact State.on_wr_bit _ _ _ rfl (by decide) true

end

/-! An ARM that starts an acquisition of some segments, and one for which the region is too small. -/

/-- The acquisition that has started. -/
def recArmed (l : Nat) (s : State) : State := showArmed l (armReady l (recLatched l s))

theorem recSt_recArmed (s : State) : (recArmed l s).recSt l =
    { s.recSt l with
      segs := [], nextSeg := 0, m := armSegs (recLatched l s) l, slot := armSlot (recLatched l s) l
      acqNo := armNo (recLatched l s) l, stopping := false, rearm := none, stageWr := 0, stageRd := 0 } := by
  have hrecs : (armShown l (recLatched l s)).recSt l = s.recSt l := by
    rw [State.recSt, armShown_recs]
    rfl
  rw [recArmed, recSt_showArmed, armReady, State.recSt_modRec, hrecs]

theorem rd_recArmed {f : Fld} (hf : R.REC_STATUS_ARMED.apart f = true) (s : State) :
    (recArmed l s).rd (recB l) f = (armShown l (recLatched l s)).rd (recB l) f := by
  rw [recArmed, rd_showArmed hf, armReady, State.rd_modRec]

theorem live_recArmed (s : State) : (recArmed l s).live = (recLatched l s).live := by
  rw [recArmed, live_showArmed, armReady, State.modRec_live, armShown_live]

theorem tabL_recArmed (s : State) : (recArmed l s).tabL = (recLatched l s).tabL := by
  rw [recArmed, tabL_showArmed, armReady, State.modRec_tabL, armShown_tabL]

theorem armedAs_recArmed (s : State) : armedAs s (recArmed l s) l true := by
  have hen : (armReady l (recLatched l s)).on (recB l) R.REC_CTRL_EN = s.on (recB l) R.REC_CTRL_EN := by
    rw [State.on, armReady, State.rd_modRec, armShown_en, rd_recLatched, State.on]
  refine armedAs_of_en (armedAs_showArmed _) hen ?_
  have hrun : (armReady l (recLatched l s)).on (recB l) R.REC_STATUS_RUN = true :=
    State.on_of_rd_one (by rw [armReady, State.rd_modRec, armShown_run])
  rw [unitsArmed, hrun, armReady, State.recSt_modRec]
  rfl

section
variable {s : State} (hlead : isLead l = true) (husable : s.usableT l = true)
  (hidle : s.on (recB l) R.REC_STATUS_RUN = false)
include hlead husable hidle

theorem recArm_of_segs (hm : armSegs (recLatched l s) l ≠ 0) : recArm l s = recArmed l s := by
  rw [recArm_eq hlead husable hidle]
  refine recFinish_of_going (s := recArmed l s) ?_ ?_ ?_ <;> rw [recSt_recArmed]
  · exact hm
  · exact Nat.pos_of_ne_zero hm

omit hlead husable hidle in
/-- No segment fits: only outside STREAM mode M is lowered to 0. -/
theorem recMode_of_none {v : State} (hm : armSegs v l = 0) : recMode v l ≠ 2 := by
  intro hmode
  have hcut : armCut v l = false := by simp [armCut, hmode]
  rw [armSegs, hcut, if_neg (by decide), clampLen_eq _ _ (by decide)] at hm
  omega

theorem recArm_of_none (hm : armSegs (recLatched l s) l = 0) : recArm l s = recEnded l false (recArmed l s) := by
  have hrun : (recArmed l s).on (recB l) R.REC_STATUS_RUN = true :=
    State.on_of_rd_one (by rw [rd_recArmed (by decide), armShown_run])
  have hmode : recMode (recArmed l s) l ≠ 2 := by
    rw [recMode, State.rdL_congr (live_recArmed s)]
    exact recMode_of_none hm
  have hfinish := recFinish_of_ended hrun (.inr (by rw [recSt_recArmed]; exact hm)) (by rw [recSt_recArmed])
  rw [if_neg hmode, recSt_recArmed] at hfinish
  rw [recArm_eq hlead husable hidle]
  exact hfinish

/-- What both show: the latched settings, the engine's own state, and the registers that the end leaves alone. -/
theorem recArm_shows : (recArm l s).live = (recLatched l s).live ∧ (recArm l s).tabL = (recLatched l s).tabL ∧
    (recArm l s).recSt l = (recArmed l s).recSt l ∧
    ∀ f, endedFlds.all (·.apart f) = true → (recArm l s).rd (recB l) f = (armShown l (recLatched l s)).rd (recB l) f := by
  have harmed : ∀ f, endedFlds.all (·.apart f) = true →
      (recArmed l s).rd (recB l) f = (armShown l (recLatched l s)).rd (recB l) f := fun f hf =>
    rd_recArmed (List.all_eq_true.mp hf _ (by simp [endedFlds])) s
  by_cases hm : armSegs (recLatched l s) l = 0
  · rw [recArm_of_none hlead husable hidle hm]
    exact ⟨by rw [live_recEnded, live_recArmed], by rw [tabL_recEnded, tabL_recArmed], recSt_recEnded _ _,
      fun f hf => (rd_recEnded hf false _).trans (harmed f hf)⟩
  · rw [recArm_of_segs hlead husable hidle hm]
    exact ⟨live_recArmed s, tabL_recArmed s, rfl, harmed⟩

end

/-! The acquisition in terms of the settings that the ARM found. -/

section
variable (s : State)

theorem recMode_recLatched : recMode (recLatched l s) l = s.rd (recB l) R.REC_CTRL_MODE % 3 := by
  rw [recMode, rdL_recLatched s (by decide)]

theorem recSize_recLatched : recSize (recLatched l s) l = s.rd (recB l) R.REC_REGION_SIZE_SIZE * 2 ^ 20 := by
  rw [recSize, rdL_recLatched s (by decide)]

theorem segsM_recLatched : clampLen 1048576 ((recLatched l s).rdL (recB l) R.REC_SEGS_M) =
    min 1048576 (max 1 (s.rd (recB l) R.REC_SEGS_M)) := by
  rw [clampLen_eq _ _ (by decide), rdL_recLatched s (by decide)]

theorem armCut_recLatched {a m0 : Nat} (ha : a = s.rd (recB l) R.REC_REGION_SIZE_SIZE * 2 ^ 20)
    (hm0 : m0 = min 1048576 (max 1 (s.rd (recB l) R.REC_SEGS_M))) :
    armCut (recLatched l s) l = true ↔ s.rd (recB l) R.REC_CTRL_MODE % 3 ≠ 2 ∧ a / m0 / 64 * 64 < 576 := by
  rw [armCut, recMode_recLatched, recSize_recLatched, segsM_recLatched, ← ha, ← hm0]
  simp

theorem armSegs_recLatched {a m0 : Nat} (ha : a = s.rd (recB l) R.REC_REGION_SIZE_SIZE * 2 ^ 20)
    (hm0 : m0 = min 1048576 (max 1 (s.rd (recB l) R.REC_SEGS_M))) :
    armSegs (recLatched l s) l =
      if s.rd (recB l) R.REC_CTRL_MODE % 3 ≠ 2 ∧ a / m0 / 64 * 64 < 576 then a / 576 else m0 := by
  rw [armSegs, recSize_recLatched, segsM_recLatched, ← ha, ← hm0]
  exact if_congr (armCut_recLatched s ha hm0) rfl rfl

theorem armCap_recLatched : armCap (recLatched l s) l = if s.rd (recB l) R.REC_CTRL_MODE % 3 = 2 then 2 ^ 32 - 1
    else min (2 ^ 32 - 1) ((armSlot (recLatched l s) l - 192) /
      (64 * (if s.on (recB l) R.REC_CTRL_FORMAT then 4 else 6))) := by
  have hformat : recC16 (recLatched l s) l = s.on (recB l) R.REC_CTRL_FORMAT := by
    rw [recC16, State.onL, rdL_recLatched s (by decide), State.on]
  rw [armCap_eq, recMode_recLatched, sampleBytes, hformat]

end

end

end Sys2Proof.Machine
end

section
/-! PROOFS. The bytes of a segment, and what they depend on (R175, R188 to R193). -/

namespace Sys2Proof.Machine

/-- Two states show a segment of lead die `l` alike: its settings, the Tarn, and what stands in memory. -/
structure SegView (l : Nat) (s t : State) : Prop where
  live : t.live = s.live
  tabL : t.tabL = s.tabL
  marks : t.marks = s.marks
  wb : t.wb = s.wb
  tarn : (t.recSt l).tarn = (s.recSt l).tarn
  acqNo : (t.recSt l).acqNo = (s.recSt l).acqNo
  memory : t.leAt (hubOf t l) = s.leAt (hubOf s l)
  first : t.on (recB l) R.REC_MT_FIRST_VALID = s.on (recB l) R.REC_MT_FIRST_VALID

section
variable {l : Nat} {s t : State}

/-! The settings and the table of the mask test alone. -/

section
variable (hlive : t.live = s.live)
include hlive

theorem recMode_congr (l : Nat) : recMode t l = recMode s l := by
  rw [recMode, State.rdL_congr hlive, recMode]

theorem recC16_congr (l : Nat) : recC16 t l = recC16 s l := by
  rw [recC16, State.onL, State.rdL_congr hlive, recC16, State.onL]

theorem recShift_congr (l : Nat) : recShift t l = recShift s l := by
  rw [recShift, State.rdL_congr hlive, recShift]

theorem recMeas_congr (l : Nat) : recMeas t l = recMeas s l := by
  rw [recMeas, State.onL, State.rdL_congr hlive, recMeas, State.onL]

theorem measureBlock_congr (g : RecSeg) (xs : List (Int × Int)) (xe : Int × Int) :
    measureBlock t l g xs xe = measureBlock s l g xs xe := by
  unfold measureBlock State.rdLI
  rw [State.rdL_congr hlive]

theorem segTested_congr (g : RecSeg) : segTested t l g = segTested s l g := by
  rw [segTested, State.onL, State.rdL_congr hlive, segTested, State.onL]

theorem mtPoint_congr (htabL : t.tabL = s.tabL) (g : RecSeg) (xs : List (Int × Int)) :
    mtPoint t l g xs = mtPoint s l g xs := by
  unfold mtPoint State.rdLI
  rw [State.rdL_congr hlive, htabL]

end

section
variable (h : SegView l s t)
include h

theorem SegView.tarnRead (j : Nat) : tarnRead t l j = tarnRead s l j := by
  simp only [Machine.tarnRead, tarnSample, h.tarn, h.memory]

theorem SegView.tarnStatus (first last : Nat) : tarnStatus t l first last = tarnStatus s l first last := by
  unfold Machine.tarnStatus tarnBits State.statusOf State.wbSt
  rw [h.tarn, h.marks, h.wb]

theorem SegView.segStatus (g : RecSeg) : segStatus t l g = segStatus s l g := by
  simp only [Machine.segStatus, h.tarn, h.memory, h.tarnStatus]

theorem SegView.segBytes (g : RecSeg) (flags : Nat) (mt : Option Nat) (xs : List (Int × Int)) (meas : List Byte) :
    segBytes t l g flags mt xs meas = segBytes s l g flags mt xs meas := by
  unfold Machine.segBytes
  rw [recC16_congr h.live, recShift_congr h.live, h.acqNo]

theorem SegView.segItem (g : RecSeg) : segItem t l g = segItem s l g := by
  unfold Machine.segItem
  rw [recC16_congr h.live, recShift_congr h.live, recMeas_congr h.live, segTested_congr h.live,
    mtPoint_congr h.live h.tabL, h.first, h.segStatus, h.tarnRead]
  simp only [measureBlock_congr h.live, h.segBytes]

end

/-! The copies (R182). -/

theorem segLeft_segCopy (s : State) (l : Nat) (g : RecSeg) : segLeft (segCopy s l (segLeft g) g) = 0 := by
  simp only [segLeft, segCopy, List.length_append, List.length_map, List.length_range]
  omega

/-- A segment whose samples are all copied has none that could be copied yet. -/
theorem segSettled_of_left {g : RecSeg} (h : segLeft g = 0) : segSettled s l g = 0 := by
  simp [segSettled, h]

/-- Outside STREAM mode the copies change the segments alone. -/
theorem segsAdvance_eq (hmode : recMode s l ≠ 2) :
    segsAdvance l s = s.modRec l fun r => { r with segs := r.segs.map fun g => segCopy s l (segSettled s l g) g } := by
  simp [segsAdvance, hmode]

theorem leAt_modRec_of_free {h : Nat} (hfree : s.anyFrozen h = false) (k : Nat) (f : RecSt → RecSt) :
    (s.modRec k f).leAt h = s.leAt h := by
  funext a n
  have hfree' : (s.modRec k f).anyFrozen h = false := hfree
  exact State.leAt_congr (fun i => by rw [State.byte_eq_rawByte hfree', State.byte_eq_rawByte hfree]; rfl) a n

/-- Where no channel is frozen the copies leave the segments' view alone. -/
theorem segView_segsAdvance (hmode : recMode s l ≠ 2) (hfree : s.anyFrozen (hubOf s l) = false) :
    SegView l s (segsAdvance l s) := by
  rw [segsAdvance_eq hmode]
  refine ⟨rfl, rfl, rfl, rfl, ?_, ?_, leAt_modRec_of_free hfree l _, rfl⟩ <;> rw [State.recSt_modRec]

end

end Sys2Proof.Machine
end

section
/-! PROOFS. The row SEGMENT_COMPLETE (R182, R187, R192, R193). -/

namespace Sys2Proof.Machine

/-- From `s` to `t` the record engine of lead die `l` counts and shows, in no other fields of its block than `fs`: its
segments and the pulse lines stay, and outside STREAM mode memory does. -/
structure RecShows (fs : List Fld) (l : Nat) (s t : State) : Prop where
  live : t.live = s.live
  credits : t.credits = s.credits
  lineOvf : t.lineOvf = s.lineOvf
  segs : (t.recSt l).segs = (s.recSt l).segs
  rd : ∀ f, fs.all (·.apart f) = true → t.rd (recB l) f = s.rd (recB l) f
  cap : recMode s l ≠ 2 → t.cap = s.cap

section
variable {fs gs : List Fld} {l : Nat} {s t u : State}

theorem RecShows.refl (s : State) : RecShows fs l s s := ⟨rfl, rfl, rfl, rfl, fun _ _ => rfl, fun _ => rfl⟩

theorem RecShows.trans (h : RecShows fs l s t) (h' : RecShows fs l t u) : RecShows fs l s u where
  live := h'.live.trans h.live
  credits := h'.credits.trans h.credits
  lineOvf := h'.lineOvf.trans h.lineOvf
  segs := h'.segs.trans h.segs
  rd f hf := (h'.rd f hf).trans (h.rd f hf)
  cap hmode := (h'.cap (by rwa [recMode_congr h.live])).trans (h.cap hmode)

theorem RecShows.mono (h : RecShows fs l s t) (hsub : fs ⊆ gs) : RecShows gs l s t :=
  { h with rd := fun f hf => h.rd f (List.all_eq_true.mpr fun g hg => List.all_eq_true.mp hf g (hsub hg)) }

theorem RecShows.on (h : RecShows fs l s t) {f : Fld} (hf : fs.all (·.apart f) = true) :
    t.on (recB l) f = s.on (recB l) f := by
  rw [State.on, h.rd f hf, State.on]

/-- A write of one of the fields. -/
theorem RecShows.wr {f : Fld} {v : Nat} (hf : f ∈ fs) (hw : f.lo + f.w ≤ 32) : RecShows fs l s (s.wr (recB l) f v) :=
  ⟨rfl, rfl, rfl, rfl, fun _ hg => State.rd_wr_of_apart _ _ _ hw (List.all_eq_true.mp hg f hf), fun _ => rfl⟩

/-! The end of the acquisition. -/

theorem recShows_showArmed (s : State) : RecShows endedFlds l s (showArmed l s) where
  live := live_showArmed s
  credits := by rw [showArmed_keeps]
  lineOvf := by rw [showArmed_keeps]
  segs := by rw [recSt_showArmed]
  rd f hf := rd_showArmed (List.all_eq_true.mp hf _ (by simp [endedFlds])) s
  cap _ := by rw [showArmed_keeps]

theorem recShows_recEnded (stopped : Bool) (s : State) : RecShows endedFlds l s (recEnded l stopped s) := by
  have hw : ∀ f ∈ endedFlds, f.lo + f.w ≤ 32 := by decide
  have hwr : ∀ f ∈ endedFlds, ∀ v (x : State), RecShows endedFlds l x (x.wr (recB l) f v) := fun f hf _ _ =>
    .wr hf (hw f hf)
  exact (((hwr _ (by simp [endedFlds]) _ _).trans (hwr _ (by simp [endedFlds]) _ _)).trans
    (hwr _ (by simp [endedFlds]) _ _)).trans (recShows_showArmed _)

theorem recShows_stagePush (pad : Bool) (hmode : recMode s l = 2) : RecShows fs l s (stagePush l pad s) := by
  have hwithin := stagePush_within l pad s
  obtain ⟨w, r, hrec⟩ := recSt_stagePush l pad s
  exact ⟨hwithin.live, hwithin.credits, hwithin.lineOvf, by rw [hrec], fun f _ => hwithin.rd (not_stageWin_rec l _),
    fun h => absurd hmode h⟩

theorem recShows_recFinish (s : State) : RecShows endedFlds l s (recFinish l s) := by
  unfold recFinish
  extract_lets r ended u
  split
  · have hu : RecShows endedFlds l s u := by
      simp only [u]
      split
      · exact recShows_stagePush true (by assumption)
      · exact .refl s
    exact hu.trans (recShows_recEnded r.stopping u)
  · exact .refl s

theorem recShows_recStop (s : State) : RecShows endedFlds l s (recStop l s) := by
  have hstopping : RecShows endedFlds l s (s.modRec l fun r => { r with stopping := true }) :=
    ⟨rfl, rfl, rfl, by rw [State.recSt_modRec], fun _ _ => rfl, fun _ => rfl⟩
  unfold recStop
  split
  · exact (hstopping.trans (recShows_showArmed _)).trans (recShows_recFinish _)
  · exact .refl s

/-! The verdict of the mask test (R192, R193). -/

/-- The fields that the verdict and the end of the acquisition write. -/
def verdictFlds : List Fld :=
  [R.REC_MT_PASS_PASSED, R.REC_MT_FAIL_FAILED, R.REC_MT_FIRST_SEG, R.REC_MT_FIRST_VALID, R.REC_STATUS_MT_FAIL] ++ endedFlds

/-- The first failing segment of an acquisition is shown. -/
def firstShown (l : Nat) (g : RecSeg) (s : State) : State :=
  if s.on (recB l) R.REC_MT_FIRST_VALID then s
  else s.wrs (recB l) [(R.REC_MT_FIRST_SEG, g.segno), (R.REC_MT_FIRST_VALID, 1), (R.REC_STATUS_MT_FAIL, 1)]

/-- The verdict `mt` on a segment that has failed or passed is counted; a failure may stop the acquisition. -/
def verdictShown (l : Nat) (g : RecSeg) (mt : Option Nat) (s : State) : State :=
  if mt.isNone then s.inc (recB l) R.REC_MT_PASS_PASSED
  else
    let u := firstShown l g (s.inc (recB l) R.REC_MT_FAIL_FAILED)
    if u.onL (recB l) R.REC_MT_CTRL_STOP then recStop l u else u

theorem recShows_firstShown (g : RecSeg) (s : State) : RecShows verdictFlds l s (firstShown l g s) := by
  have hw : ∀ f ∈ verdictFlds, f.lo + f.w ≤ 32 := by decide
  have hwr : ∀ f ∈ verdictFlds, ∀ v (x : State), RecShows verdictFlds l x (x.wr (recB l) f v) := fun f hf _ _ =>
    .wr hf (hw f hf)
  unfold firstShown
  split
  · exact .refl s
  · exact ((hwr _ (by simp [verdictFlds]) _ _).trans (hwr _ (by simp [verdictFlds]) _ _)).trans
      (hwr _ (by simp [verdictFlds]) _ _)

theorem firstShown_valid (g : RecSeg) (s : State) : (firstShown l g s).on (recB l) R.REC_MT_FIRST_VALID = true := by
  unfold firstShown
  split
  · assumption
  · refine State.on_of_rd_one ?_
    simp (disch := decide) only [State.wrs, State.rd_wr_of_apart, State.rd_wr_same]
    rfl

theorem rd_firstShown_failed (g : RecSeg) (s : State) :
    (firstShown l g s).rd (recB l) R.REC_MT_FAIL_FAILED = s.rd (recB l) R.REC_MT_FAIL_FAILED := by
  unfold firstShown
  split
  · rfl
  · simp (disch := decide) only [State.wrs, State.rd_wr_of_apart]

theorem recShows_verdictShown (g : RecSeg) (mt : Option Nat) (s : State) :
    RecShows verdictFlds l s (verdictShown l g mt s) := by
  have hcount : ∀ f ∈ verdictFlds, f.lo + f.w ≤ 32 → RecShows verdictFlds l s (s.inc (recB l) f) := fun f hf hw =>
    .wr hf hw
  have hstop : ∀ u : State, RecShows verdictFlds l u (recStop l u) := fun u =>
    (recShows_recStop u).mono (List.subset_append_right _ _)
  unfold verdictShown
  extract_lets u
  have hu : RecShows verdictFlds l s u :=
    (hcount _ (by simp [verdictFlds]) (by decide)).trans (recShows_firstShown g _)
  split
  · exact hcount _ (by simp [verdictFlds]) (by decide)
  · split
    · exact hu.trans (hstop u)
    · exact hu

theorem verdictShown_passed (g : RecSeg) (s : State) : (verdictShown l g none s).rd (recB l) R.REC_MT_PASS_PASSED =
    min (2 ^ 32 - 1) (s.rd (recB l) R.REC_MT_PASS_PASSED + 1) :=
  State.rd_inc_same s _ _ 1 (by decide)

theorem verdictShown_failed (g : RecSeg) {mt : Option Nat} (hmt : mt ≠ none) (s : State) :
    (verdictShown l g mt s).rd (recB l) R.REC_MT_FAIL_FAILED = min (2 ^ 32 - 1) (s.rd (recB l) R.REC_MT_FAIL_FAILED + 1) ∧
      (verdictShown l g mt s).on (recB l) R.REC_MT_FIRST_VALID = true := by
  have hfailed : (firstShown l g (s.inc (recB l) R.REC_MT_FAIL_FAILED)).rd (recB l) R.REC_MT_FAIL_FAILED =
      min (2 ^ 32 - 1) (s.rd (recB l) R.REC_MT_FAIL_FAILED + 1) := by
    rw [rd_firstShown_failed]
    exact State.rd_inc_same s _ _ 1 (by decide)
  have hvalid := firstShown_valid (l := l) g (s.inc (recB l) R.REC_MT_FAIL_FAILED)
  rw [verdictShown, if_neg (by simpa using hmt)]
  extract_lets u
  split
  · have hstop := recShows_recStop (l := l) u
    exact ⟨(hstop.rd _ (by decide)).trans hfailed, (hstop.on (by decide)).trans hvalid⟩
  · exact ⟨hfailed, hvalid⟩

/-! A segment that completes. -/

/-- The bytes of a segment stand in its slot, or follow into the staging ring. -/
def segStored (l : Nat) (g : RecSeg) (s : State) : State :=
  if recMode s l = 2 then stageBytes l ((segItem s l g).drop g.staged) s
  else s.setBytes (hubOf s l) (recRegion s l + g.segno % max 1 (s.recSt l).m * (s.recSt l).slot) (segItem s l g)

/-- Samples that were overtaken are counted. -/
def overrunShown (l : Nat) (g : RecSeg) (s : State) : State :=
  if g.overrun then (s.inc (recB l) R.REC_OVERRUN_COUNT_OVERRUNS).wr (recB l) R.REC_STATUS_OVERRUN 1 else s

/-- The segment is counted, line REC pulses, and the next one is the oldest. -/
def segCounted (l h : Nat) (g : RecSeg) (s : State) : State :=
  (((overrunShown l g s).inc (recB l) R.REC_SEG_COUNT_SEGMENTS).pulse h 0x3000).modRec l fun r => { r with
    segs := r.segs.drop 1 }

/-- What the mask test finds in a segment, if it is tested. -/
def segVerdict (s : State) (l : Nat) (g : RecSeg) : Option Nat := if segTested s l g then mtPoint s l g g.xs else none

theorem completeSegment_eq (l : Nat) (g : RecSeg) (s : State) : completeSegment l g s =
    let v := segCounted l (hubOf s l) g (segStored l g s)
    recFinish l (if !segTested s l g then v else verdictShown l g (segVerdict s l g) v) := by
  unfold completeSegment
  extract_lets bytes ovr mtOn mt h r stored overrun counted next failed shown verdict v
  have hstored : stored = segStored l g s := rfl
  have hnext : next = segCounted l h g stored := rfl
  have hverdict : verdict = if !mtOn then next else verdictShown l g mt next := rfl
  rw [hverdict, hnext, hstored]
  rfl

/-- Storing the bytes changes neither the settings nor what the engine shows. -/
theorem segStored_keeps (l : Nat) (g : RecSeg) (s : State) : (segStored l g s).live = s.live ∧
    (segStored l g s).credits = s.credits ∧ (segStored l g s).lineOvf = s.lineOvf ∧
    ((segStored l g s).recSt l).segs = (s.recSt l).segs ∧ ∀ f, (segStored l g s).rd (recB l) f = s.rd (recB l) f := by
  unfold segStored
  split
  · have hwithin := stageBytes_within l ((segItem s l g).drop g.staged) s
    obtain ⟨w, r, hrec⟩ := recSt_stageBytes l ((segItem s l g).drop g.staged) s
    exact ⟨hwithin.live, hwithin.credits, hwithin.lineOvf, by rw [hrec], fun f => hwithin.rd (not_stageWin_rec l _)⟩
  · refine ⟨State.setBytes_live _ _ _ _, State.setBytes_credits _ _ _ _, State.setBytes_lineOvf _ _ _ _, ?_,
      fun f => State.rd_setBytes _ _ _ _ _ _⟩
    rw [State.recSt, State.setBytes_recs, State.recSt]

/-- The fields that count a segment. -/
def countedFlds : List Fld := [R.REC_OVERRUN_COUNT_OVERRUNS, R.REC_STATUS_OVERRUN, R.REC_SEG_COUNT_SEGMENTS]

theorem recShows_overrunShown (g : RecSeg) (s : State) : RecShows countedFlds l s (overrunShown l g s) := by
  unfold overrunShown
  split
  · have hcount : RecShows countedFlds l s (s.inc (recB l) R.REC_OVERRUN_COUNT_OVERRUNS) :=
      .wr (by simp [countedFlds]) (by decide)
    exact hcount.trans (.wr (by simp [countedFlds]) (by decide))
  · exact .refl s

theorem rd_overrunShown (g : RecSeg) (s : State) :
    (overrunShown l g s).rd (recB l) R.REC_SEG_COUNT_SEGMENTS = s.rd (recB l) R.REC_SEG_COUNT_SEGMENTS := by
  unfold overrunShown
  split
  · simp (disch := decide) only [State.inc, State.rd_wr_of_apart]
  · rfl

theorem overrunShown_overrun {g : RecSeg} (hg : g.overrun = true) (s : State) :
    (overrunShown l g s).on (recB l) R.REC_STATUS_OVERRUN = true ∧
      (overrunShown l g s).rd (recB l) R.REC_OVERRUN_COUNT_OVERRUNS =
        min (2 ^ 32 - 1) (s.rd (recB l) R.REC_OVERRUN_COUNT_OVERRUNS + 1) := by
  rw [overrunShown, if_pos hg]
  refine ⟨State.on_wr_bit _ _ _ rfl (by decide) true, ?_⟩
  rw [State.rd_wr_of_apart _ _ _ (by decide) (by decide)]
  exact State.rd_inc_same s _ _ 1 (by decide)

section
variable (h : Nat) (g : RecSeg) (s : State)

theorem segCounted_segs : ((segCounted l h g s).recSt l).segs = (s.recSt l).segs.drop 1 := by
  have hshows := recShows_overrunShown (l := l) g s
  rw [segCounted, State.recSt_modRec, State.recSt, State.pulse_recs, State.inc_recs, ← State.recSt]
  exact congrArg _ hshows.segs

theorem rd_segCounted (f : Fld) : (segCounted l h g s).rd (recB l) f =
    ((overrunShown l g s).inc (recB l) R.REC_SEG_COUNT_SEGMENTS).rd (recB l) f := by
  rw [segCounted, State.rd_modRec, State.rd_pulse]

theorem segCounted_count : (segCounted l h g s).rd (recB l) R.REC_SEG_COUNT_SEGMENTS =
    min (2 ^ 32 - 1) (s.rd (recB l) R.REC_SEG_COUNT_SEGMENTS + 1) := by
  rw [rd_segCounted, State.rd_inc_same _ _ _ 1 (by decide), rd_overrunShown]
  rfl

theorem rd_segCounted_of_apart {f : Fld} (hf : countedFlds.all (·.apart f) = true) :
    (segCounted l h g s).rd (recB l) f = s.rd (recB l) f := by
  rw [rd_segCounted, State.inc, State.rd_wr_of_apart _ _ _ (by decide)
    (List.all_eq_true.mp hf _ (by simp [countedFlds])), (recShows_overrunShown g s).rd f hf]

theorem segCounted_overrun (hg : g.overrun = true) : (segCounted l h g s).on (recB l) R.REC_STATUS_OVERRUN = true ∧
    (segCounted l h g s).rd (recB l) R.REC_OVERRUN_COUNT_OVERRUNS =
      min (2 ^ 32 - 1) (s.rd (recB l) R.REC_OVERRUN_COUNT_OVERRUNS + 1) := by
  obtain ⟨hstatus, hcount⟩ := overrunShown_overrun (l := l) hg s
  refine ⟨?_, ?_⟩
  · rwa [State.on, rd_segCounted, State.inc, State.rd_wr_of_apart _ _ _ (by decide) (by decide)]
  · rwa [rd_segCounted, State.inc, State.rd_wr_of_apart _ _ _ (by decide) (by decide)]

theorem segCounted_cap : (segCounted l h g s).cap = s.cap := by
  rw [segCounted, State.modRec_cap, State.pulse_cap, State.inc_cap, overrunShown]
  split <;> rfl

theorem segCounted_live : (segCounted l h g s).live = s.live := by
  rw [segCounted, State.modRec_live, State.pulse_live, State.inc_live]
  exact (recShows_overrunShown (l := l) g s).live

end

/-- A pulse of a line, where the other operations give no credit. -/
theorem pulsed_pulse {s t u : State} {h line : Nat} (hs : u.credits = s.credits) (ht : t.credits = (u.pulse h line).credits)
    (hovf : t.lineOvf = (u.pulse h line).lineOvf) : pulsed s t h line := by
  unfold State.pulse at ht hovf
  dsimp only at ht hovf
  rw [hs] at ht hovf
  unfold pulsed
  by_cases hfull : tget noNat s.credits (h * 65536 + line) = 65535
  · rw [if_pos hfull] at hovf ⊢
    rw [hovf]
    exact tget_tset_same _ _ _ _
  · rw [if_neg hfull] at ht ⊢
    rw [ht]
    exact tget_tset_same _ _ _ _

section
variable (l : Nat) (g : RecSeg) (s : State)

/-- After the segment is counted the engine shows the verdict and the end of the acquisition. -/
theorem completeSegment_shows :
    RecShows verdictFlds l (segCounted l (hubOf s l) g (segStored l g s)) (completeSegment l g s) := by
  rw [completeSegment_eq]
  extract_lets v
  have hfinish : ∀ u : State, RecShows verdictFlds l u (recFinish l u) := fun u =>
    (recShows_recFinish u).mono (List.subset_append_right _ _)
  split
  · exact hfinish v
  · exact (recShows_verdictShown g _ v).trans (hfinish _)

theorem completeSegment_segs : ((completeSegment l g s).recSt l).segs = (s.recSt l).segs.drop 1 := by
  obtain ⟨-, -, -, hsegs, -⟩ := segStored_keeps l g s
  rw [(completeSegment_shows l g s).segs, segCounted_segs, hsegs]

theorem completeSegment_count : (completeSegment l g s).rd (recB l) R.REC_SEG_COUNT_SEGMENTS =
    min (2 ^ 32 - 1) (s.rd (recB l) R.REC_SEG_COUNT_SEGMENTS + 1) := by
  obtain ⟨-, -, -, -, hrd⟩ := segStored_keeps l g s
  rw [(completeSegment_shows l g s).rd _ (by decide), segCounted_count, hrd]

theorem completeSegment_pulsed : pulsed s (completeSegment l g s) (hubOf s l) 0x3000 := by
  obtain ⟨-, hcredits, hovf, -, -⟩ := segStored_keeps l g s
  have hshows := completeSegment_shows l g s
  have hcounted := recShows_overrunShown (l := l) g (segStored l g s)
  have hbefore : ((overrunShown l g (segStored l g s)).inc (recB l) R.REC_SEG_COUNT_SEGMENTS).credits = s.credits :=
    hcounted.credits.trans hcredits
  exact pulsed_pulse hbefore hshows.credits hshows.lineOvf

theorem completeSegment_overrun (hg : g.overrun = true) :
    (completeSegment l g s).on (recB l) R.REC_STATUS_OVERRUN = true ∧
      (completeSegment l g s).rd (recB l) R.REC_OVERRUN_COUNT_OVERRUNS =
        min (2 ^ 32 - 1) (s.rd (recB l) R.REC_OVERRUN_COUNT_OVERRUNS + 1) := by
  obtain ⟨-, -, -, -, hrd⟩ := segStored_keeps l g s
  have hshows := completeSegment_shows l g s
  obtain ⟨hstatus, hcount⟩ := segCounted_overrun (l := l) (hubOf s l) g (segStored l g s) hg
  exact ⟨(hshows.on (by decide)).trans hstatus, by rw [hshows.rd _ (by decide), hcount, hrd]⟩

section
variable (htested : segTested s l g = true)
include htested

/-- The acquisition's end leaves the verdict as it was shown. -/
theorem completeSegment_tested : RecShows endedFlds l (verdictShown l g (mtPoint s l g g.xs)
    (segCounted l (hubOf s l) g (segStored l g s))) (completeSegment l g s) := by
  rw [completeSegment_eq]
  simp only [segVerdict, htested, Bool.not_true, Bool.false_eq_true, if_false, if_true]
  exact recShows_recFinish _

theorem completeSegment_passed (hmt : mtPoint s l g g.xs = none) :
    (completeSegment l g s).rd (recB l) R.REC_MT_PASS_PASSED =
      min (2 ^ 32 - 1) (s.rd (recB l) R.REC_MT_PASS_PASSED + 1) := by
  obtain ⟨-, -, -, -, hrd⟩ := segStored_keeps l g s
  rw [(completeSegment_tested l g s htested).rd _ (by decide), hmt, verdictShown_passed,
    rd_segCounted_of_apart _ _ _ (by decide), hrd]

theorem completeSegment_failed (hmt : mtPoint s l g g.xs ≠ none) :
    (completeSegment l g s).rd (recB l) R.REC_MT_FAIL_FAILED =
        min (2 ^ 32 - 1) (s.rd (recB l) R.REC_MT_FAIL_FAILED + 1) ∧
      (completeSegment l g s).on (recB l) R.REC_MT_FIRST_VALID = true := by
  obtain ⟨-, -, -, -, hrd⟩ := segStored_keeps l g s
  have hshows := completeSegment_tested l g s htested
  obtain ⟨hfailed, hvalid⟩ := verdictShown_failed (l := l) g hmt (segCounted l (hubOf s l) g (segStored l g s))
  exact ⟨by rw [hshows.rd _ (by decide), hfailed, rd_segCounted_of_apart _ _ _ (by decide), hrd],
    (hshows.on (by decide)).trans hvalid⟩

end

/-- Outside STREAM mode the segment's bytes stand in its slot. -/
theorem completeSegment_stored (hmode : recMode s l ≠ 2)
    (hstore : storable s (hubOf s l) (recRegion s l + g.segno % max 1 (s.recSt l).m * (s.recSt l).slot) (segItem s l g)) :
    stored (completeSegment l g s) (hubOf s l) (recRegion s l + g.segno % max 1 (s.recSt l).m * (s.recSt l).slot)
      (segItem s l g) := by
  obtain ⟨hfree, hend⟩ := hstore
  obtain ⟨hlive, -, -, -, -⟩ := segStored_keeps l g s
  have hshows := completeSegment_shows l g s
  have hmode' : recMode (segCounted l (hubOf s l) g (segStored l g s)) l ≠ 2 := by
    rwa [recMode_congr ((segCounted_live _ _ _).trans hlive)]
  intro i hi
  rw [State.rawByte, hshows.cap hmode', segCounted_cap, segStored, if_neg hmode]
  exact State.rawByte_setBytes_inside hfree hend hi

end

end

end Sys2Proof.Machine
end

section
/-! PROOFS. When SEGMENT_COMPLETE completes the oldest segment: its samples are copied, and in STREAM mode what is left of it
finds room (R175, R182, R187, R367). -/

namespace Sys2Proof.Machine

/-! Outside STREAM mode. -/

section
variable {d : TDie} {g : RecSeg} {r : List RecSeg} {s : State} (hsegs : (s.recSt d).segs = g :: r)
  (hmode : recMode s d ≠ 2)
include hsegs hmode

/-- The segments with their copies gone on. -/
theorem segs_segsAdvance : ((segsAdvance d s).recSt d).segs =
    segCopy s d (segSettled s d g) g :: r.map fun x => segCopy s d (segSettled s d x) x := by
  rw [segsAdvance_eq hmode, State.recSt_modRec, hsegs]
  rfl

theorem exec_segmentComplete (hset : segSettled s d g = segLeft g) : exec (Instr.segmentComplete d) s =
    .next (completeSegment d (segCopy s d (segLeft g) g) (segsAdvance d s)) := by
  have hnow := segs_segsAdvance hsegs hmode
  rw [hset] at hnow
  have hmode' : recMode (segsAdvance d s) d ≠ 2 := by
    rwa [recMode_congr (segsAdvance_within d s).live]
  change execSegmentComplete d s = _
  simp [execSegmentComplete, hnow, segLeft_segCopy, hmode']

end

/-! In STREAM mode: the throttle, and the room in the staging ring. -/

/-- The registers that show the throttle (R367). -/
def throttleWin (x : Nat) : Prop :=
  x = pwrB 0 + R.PWR_STATE_THROTTLE.off ∨ x = pwrB 0 + R.PWR_THROTTLE_COUNT_THROTTLES.off

theorem throttle_shows (h : Nat) (on : Bool) (s : State) : Within nfsTaking throttleWin s (throttle h on s) := by
  unfold throttle
  extract_lets was u any v
  have hu : Within nfsTaking throttleWin s u := .ite (.of_parts rfl rfl) (.ite (.refl _ _ _) (.of_parts rfl rfl))
  have hv : Within nfsTaking throttleWin u v := .ite (.wr rfl (.inr rfl)) (.refl _ _ _)
  clear_value v
  exact (hu.trans hv).trans (.wr rfl (.inl rfl))

/-- Of a store's own state the throttle changes the mark of the writer that waits. -/
theorem nfsSt_throttle (h k : Nat) (on : Bool) (s : State) :
    ∃ w, (throttle h on s).nfsSt k = { s.nfsSt k with throttled := w } := by
  have hmod : ∀ f : NfsSt → NfsSt, (s.modNfs h f).nfsSt k = if k = h then f (s.nfsSt h) else s.nfsSt k := by
    intro f
    by_cases hk : k = h
    · rw [if_pos hk, hk, State.nfsSt_modNfs]
    · rw [if_neg hk, State.nfsSt, State.modNfs, tget_tset_other _ _ _ _ _ hk, State.nfsSt]
  have hmark : ∀ w, ∃ v, (s.modNfs h fun q => { q with throttled := w }).nfsSt k = { s.nfsSt k with throttled := v } := by
    intro w
    rw [hmod]
    by_cases hk : k = h
    · exact ⟨w, by rw [if_pos hk, hk]⟩
    · exact ⟨_, if_neg hk⟩
  unfold throttle
  extract_lets was u any v
  have hu : ∃ w, u.nfsSt k = { s.nfsSt k with throttled := w } := by
    simp only [u]
    split
    · exact hmark _
    · split
      · exact ⟨_, rfl⟩
      · exact hmark _
  have hv : v.nfs = u.nfs := by
    simp only [v]
    split <;> rfl
  obtain ⟨w, hu⟩ := hu
  refine ⟨w, ?_⟩
  rw [State.nfsSt, State.wr_nfs, hv]
  exact hu

section
variable (h : Nat) (on : Bool) (s : State)

/-- The registers of the sources do not show the throttle. -/
theorem rd_throttle_src (g k : Nat) (f : Fld) : (throttle h on s).rd (nfsSrcB g k) f = s.rd (nfsSrcB g k) f := by
  refine (throttle_shows h on s).rd ?_
  have hoff : R.PWR_STATE_THROTTLE.off < 0x1000 ∧ R.PWR_THROTTLE_COUNT_THROTTLES.off < 0x1000 := by decide
  simp only [throttleWin, nfsSrcB, nfsB, pwrB, hubB]
  omega

theorem recCounts_throttle (g : Nat) (r : NfsRec) : recCounts (throttle h on s) g r = recCounts s g r := by
  obtain ⟨w, hnfs⟩ := nfsSt_throttle h g on s
  simp only [recCounts, hnfs, rd_throttle_src]
  rfl

theorem pendingSectors_throttle (g : Nat) : pendingSectors (throttle h on s) g = pendingSectors s g := by
  obtain ⟨w, hnfs⟩ := nfsSt_throttle h g on s
  simp only [pendingSectors, hnfs, recCounts_throttle]

theorem part_throttle : (throttle h on s).part = s.part :=
  ((throttle_shows h on s).widen (Q := stageTaking) fun _ _ => rfl).part

theorem live_throttle : (throttle h on s).live = s.live :=
  ((throttle_shows h on s).widen (Q := stageTaking) fun _ _ => rfl).live

theorem pendingAll_throttle : pendingAll (throttle h on s) = pendingAll s := by
  have hhub : (throttle h on s).hasHub 1 = s.hasHub 1 := by rw [State.hasHub, part_throttle, State.hasHub]
  rw [pendingAll, pendingSectors_throttle, pendingSectors_throttle, hhub, pendingAll]

theorem stageSource_throttle (g base : Nat) : stageSource (throttle h on s) g base = stageSource s g base := by
  simp only [stageSource, State.on, rd_throttle_src]

theorem rd_throttle_pwr {f : Fld} (hstate : f.off ≠ R.PWR_STATE_THROTTLE.off)
    (hcount : f.off ≠ R.PWR_THROTTLE_COUNT_THROTTLES.off) : (throttle h on s).rd (pwrB 0) f = s.rd (pwrB 0) f := by
  refine (throttle_shows h on s).rd ?_
  simp only [throttleWin, Nat.add_left_cancel_iff]
  exact fun hor => hor.elim hstate hcount

theorem stageRoom_throttle (l : Nat) : stageRoom (throttle h on s) l = stageRoom s l := by
  have hrd := State.rdL_congr (live_throttle h on s)
  have hhub := hubOf_congr (part_throttle h on s)
  have hsize : recSize (throttle h on s) l = recSize s l := by rw [recSize, hrd, recSize]
  have hused : ∀ g k, stageUsed (throttle h on s) g k = stageUsed s g k := fun g k => by
    rw [stageUsed, rd_throttle_src, rd_throttle_src, stageUsed]
  have hlimit : (throttle h on s).rd (pwrB 0) R.PWR_LIMIT_MIB_LIMIT = s.rd (pwrB 0) R.PWR_LIMIT_MIB_LIMIT :=
    rd_throttle_pwr h on s (by decide) (by decide)
  have hholdup : (throttle h on s).on (pwrB 0) R.PWR_CTRL_HOLDUP_EN = s.on (pwrB 0) R.PWR_CTRL_HOLDUP_EN := by
    rw [State.on, rd_throttle_pwr h on s (by decide) (by decide), State.on]
  simp only [stageRoom, hrd, hhub, hsize, hused, hlimit, hholdup, stageSource_throttle, pendingAll_throttle,
    recSt_throttle]

theorem rd_throttle_ddr (g c : Nat) (f : Fld) : (throttle h on s).rd (ddrChB g c) f = s.rd (ddrChB g c) f := by
  refine (throttle_shows h on s).rd ?_
  have hoff : R.PWR_STATE_THROTTLE.off < 0x1000 ∧ R.PWR_THROTTLE_COUNT_THROTTLES.off < 0x1000 := by decide
  simp only [throttleWin, ddrChB, ddrB, pwrB, hubB]
  omega

/-- Capture memory reads as before: its bytes, its channels and the Tarns in it are the same. -/
theorem byte_throttle (g a : Nat) : (throttle h on s).byte g a = s.byte g a := by
  have hwithin := throttle_within h on s
  have hcap : (throttle h on s).cap = s.cap := by
    rw [hwithin.parts]
    rfl
  have hhub : hubOf (throttle h on s) = hubOf s := funext (hubOf_congr (part_throttle h on s))
  simp only [State.byte, State.anyFrozen, State.frozenAt, State.frozen, State.chanOf, State.bothChannels, State.chMib,
    State.inBoot, State.hubLimit, State.tarnSlotAt, State.rawByte, rd_throttle_ddr, hcap, hhub, hwithin.recs_of_nfs]

theorem segView_throttle (l : Nat) : SegView l s (throttle h on s) where
  live := live_throttle h on s
  tabL := by
    rw [(throttle_within h on s).parts]
    rfl
  marks := by
    rw [(throttle_within h on s).parts]
    rfl
  wb := by
    rw [(throttle_within h on s).parts]
    rfl
  tarn := by rw [recSt_throttle]
  acqNo := by rw [recSt_throttle]
  memory := by
    funext a n
    rw [hubOf_congr (part_throttle h on s)]
    exact State.leAt_congr (byte_throttle h on s _) a n
  first := by rw [State.on, (throttle_within h on s).rd (not_stageWin_rec l _), State.on]

end

/-! The last segment of a stream. -/

section
variable {d : TDie} {g : RecSeg} {r : List RecSeg} {s : State} (hsegs : (s.recSt d).segs = g :: r)
  (hmode : recMode s d = 2) (hleft : segLeft g = 0)
include hsegs hmode hleft

/-- Nothing is left to be copied: nobody waits for the throttle. -/
theorem segsAdvance_of_copied : segsAdvance d s = throttle (hubOf s d) false s := by
  simp [segsAdvance, hmode, hsegs, streamCopy, segSettled_of_left hleft]

theorem exec_segmentComplete_stream (hroom : (segItem s d g).length - g.staged ≤ (stageRoom s d).1)
    (hlimit : (segItem s d g).length - g.staged ≤ (stageRoom s d).2) : ∃ on,
    exec (Instr.segmentComplete d) s =
      .next (completeSegment d g (throttle (hubOf s d) on (throttle (hubOf s d) false s))) := by
  have hhub := hubOf_congr (part_throttle (hubOf s d) false s) d
  have hmode' : recMode (throttle (hubOf s d) false s) d = 2 := by
    rw [recMode_congr (live_throttle _ _ s)]
    exact hmode
  refine ⟨decide ((stageRoom s d).2 < (segItem s d g).length - g.staged) &&
    decide ((segItem s d g).length - g.staged ≤ (stageRoom s d).1), ?_⟩
  change execSegmentComplete d s = _
  simp only [execSegmentComplete, segsAdvance_of_copied hsegs hmode hleft, recSt_throttle, hsegs, hleft, hmode', hhub,
    stageRoom_throttle, (segView_throttle (hubOf s d) false s d).segItem]
  simp [hroom, hlimit]

end

end Sys2Proof.Machine
end

section
/-! PROOFS. The change-only records (R196, R197), and the rows of O22. -/

namespace Sys2Proof.Machine

/-! Bytes written into a ring. -/

/-- Place `i` after place `p` of a ring. -/
theorem ring_place {size i : Nat} (pos : Nat) (hi : i < size) :
    (pos + i) % size = if i < size - pos % size then pos % size + i else i - (size - pos % size) := by
  have hp : pos % size < size := Nat.mod_lt _ (by omega)
  rw [Nat.add_mod, Nat.mod_eq_of_lt hi]
  split
  · exact Nat.mod_eq_of_lt (by omega)
  · rw [Nat.mod_eq_sub_mod (by omega), Nat.mod_eq_of_lt (by omega)]
    omega

theorem State.rawByte_ringBytes {s : State} {h base size pos : Nat} {l : List Byte} (hfree : s.anyFrozen h = false)
    (hh : h < 2) (hend : base + size ≤ 2 ^ 40) (hlen : l.length ≤ size) {i : Nat} (hi : i < l.length) :
    (s.ringBytes h base size pos l).rawByte h (base + (pos + i) % size) = l.getD i 0 := by
  have hp : pos % size < size := Nat.mod_lt _ (by omega)
  have hrest : (l.drop (size - pos % size)).take size = l.drop (size - pos % size) :=
    List.take_of_length_le (by rw [List.length_drop]; omega)
  have hhead : (l.take (size - pos % size)).length ≤ size - pos % size := List.length_take_le _ _
  have htail : (l.drop (size - pos % size)).length = l.length - (size - pos % size) := List.length_drop
  have hfree' : (s.setBytes h (base + pos % size) (l.take (size - pos % size))).anyFrozen h = false := by
    rw [State.anyFrozen_setBytes, hfree]
  rw [State.ringBytes, if_neg (by omega)]
  dsimp only
  rw [hrest, ring_place pos (by omega)]
  split
  · rename_i hfirst
    rw [State.rawByte_setBytes_outside hfree' (by omega) hh (by omega) (by omega), ← Nat.add_assoc,
      State.rawByte_setBytes_inside hfree (by omega) (by rw [List.length_take]; omega)]
    simp [List.getD_eq_getElem?_getD, hfirst]
  · rename_i hsecond
    rw [State.rawByte_setBytes_inside hfree' (by omega) (by omega)]
    simp only [List.getD_eq_getElem?_getD, List.getElem?_drop]
    rw [Nat.add_sub_cancel' (by omega)]

/-! The open block (R197). -/

/-- The bytes of a block of change-only records. -/
def coBytes (l : Nat) (b : CoBlock) : List Byte :=
  leBytes 1 0x30 ++ leBytes 1 (inputOf l) ++ leBytes 2 b.flags ++ leBytes 4 b.entries.length ++ leBytes 8 b.first ++
    leBytes 12 b.sts ++ leBytes 4 (b.last + 1 - b.first) ++ b.entries.flatten

section
variable {l : Nat} {b : CoBlock} {s : State} (hblk : (s.recSt l).co.blk = some b)
include hblk

theorem coClose_eq : coClose l s =
    (s.ringBytes (hubOf s l) (coBase s l) (coSize s l) (s.recSt l).co.pos (coBytes l b)).modCo l fun c => { c with
      blk := none, pos := if coSize s l = 0 then 0 else (c.pos + (coBytes l b).length) % coSize s l } := by
  unfold coClose
  rw [hblk]
  dsimp only
  rw [coBytes]

theorem co_coClose (hsize : coSize s l ≠ 0) : ((coClose l s).recSt l).co =
    { (s.recSt l).co with blk := none, pos := ((s.recSt l).co.pos + (coBytes l b).length) % coSize s l } := by
  rw [coClose_eq hblk, State.modCo, State.recSt_modRec, State.recSt_ringBytes, if_neg hsize]

theorem rawByte_coClose (hfree : s.anyFrozen (hubOf s l) = false) (hend : coBase s l + coSize s l ≤ 2 ^ 40)
    (hlen : (coBytes l b).length ≤ coSize s l) {i : Nat} (hi : i < (coBytes l b).length) :
    (coClose l s).rawByte (hubOf s l) (coBase s l + ((s.recSt l).co.pos + i) % coSize s l) = (coBytes l b).getD i 0 := by
  rw [State.rawByte, coClose_eq hblk, State.modCo_cap, ← State.rawByte]
  exact State.rawByte_ringBytes hfree (hubOf_lt s l) hend hlen hi

end

/-- A generator that is off starts with the settings, every bin OFF. -/
theorem coEnable_eq {l : Nat} {s : State} (hlead : isLead l = true) (husable : s.usableT l = true)
    (hen : s.on (recB l) R.REC_CO_CTRL_EN = true) (hoff : (s.recSt l).co.run = false) :
    coEnable l s = s.modCo l fun c => { c with
      run := true, src := s.rd (recB l) R.REC_CO_CTRL_SRC, table := s.rd (recB l) R.REC_CO_CTRL_TABLE
      hyst := s.rd (recB l) R.REC_CO_CTRL_HYST, first := s.rd (recB l) R.REC_CO_BINS_FIRST
      last := s.rd (recB l) R.REC_CO_BINS_LAST, on := [], restart := true, dropped := false, snap := [] } := by
  rw [coEnable, hlead, husable, hen, hoff]
  rfl

end Sys2Proof.Machine
end

section
/-! PROOFS. The rows of O22 (R169 to R199). -/

namespace Sys2Proof.Machine

section
variable {d : TDie} {s : State}

theorem exec_tarnStart {f : Nat} (hlead : isLead d = true) (hsrc : forwarder s d = some f) :
    exec (Instr.tarnStart d) s = .next (tarnStart d s) := by
  change execTarnStart d s = _
  simp [execTarnStart, hlead, hsrc]

/-- A Tarn that starts shows that it runs, and is not full. -/
theorem on_tarnStart (hen : s.on (recB d) R.REC_TARN_CTRL_EN = true) (hrun : (s.wbSt d).running = true)
    (hstopped : (s.recSt d).tarn.run = false) (hfree : s.anyFrozen (hubOf s d) = false) :
    (tarnStart d s).on (recB d) R.REC_TARN_STATUS_RUN = true ∧
      (tarnStart d s).on (recB d) R.REC_TARN_STATUS_FULL = false := by
  rw [tarnStart_eq hen hrun hstopped hfree]
  refine ⟨State.on_of_rd_one ?_, State.on_of_rd_zero ?_⟩ <;>
    · simp (disch := decide) only [State.rd_modRec, State.wrs, State.rd_wr_of_apart, State.rd_wr_same]
      rfl

theorem exec_coEnable (hlead : isLead d = true) (husable : s.usableT d = true)
    (hoff : s.on (recB d) R.REC_CO_CTRL_EN = false) :
    exec (Instr.coEnable d) s = .next (coEnable d (s.wr (recB d) R.REC_CO_CTRL_EN 1)) := by
  change execCoEnable d s = _
  simp [execCoEnable, hlead, husable, hoff]

theorem exec_coBlockFlush (hflush : s.rd (recB d) R.REC_CO_FLUSH_FLUSH ≠ 0) :
    exec (Instr.coBlockFlush d) s = .next (coClose d s) := by
  change execCoBlockFlush d s = _
  rw [execCoBlockFlush, if_neg hflush]

/-- What an ARM shows, whether it starts an acquisition or finds no room for one. -/
theorem recArm_armed (hlead : isLead d = true) (husable : s.usableT d = true)
    (hidle : s.on (recB d) R.REC_STATUS_RUN = false) :
    (armSegs (recLatched d s) d ≠ 0 → (recArm d s).on (recB d) R.REC_STATUS_RUN = true ∧
      (recArm d s).on (recB d) R.REC_STATUS_DONE = false ∧ armedAs s (recArm d s) d true) ∧
    (armSegs (recLatched d s) d = 0 → (recArm d s).on (recB d) R.REC_STATUS_RUN = false ∧
      (recArm d s).on (recB d) R.REC_STATUS_DONE = true ∧ armedAs s (recArm d s) d false) := by
  refine ⟨fun hm => ?_, fun hm => ?_⟩
  · rw [recArm_of_segs hlead husable hidle hm]
    exact ⟨State.on_of_rd_one (by rw [rd_recArmed (by decide), armShown_run]),
      State.on_of_rd_zero (by rw [rd_recArmed (by decide), armShown_done]), armedAs_recArmed s⟩
  · rw [recArm_of_none hlead husable hidle hm]
    obtain ⟨hrun, hdone, -⟩ := on_recEnded (l := d) false (recArmed d s)
    refine ⟨hrun, hdone, armedAs_of_en (armedAs_recEnded false _) ?_ rfl⟩
    rw [State.on, rd_recArmed (by decide), armShown_en, rd_recLatched, State.on]

/-- The counts that an ARM shows. -/
theorem rd_recArm (hlead : isLead d = true) (husable : s.usableT d = true)
    (hidle : s.on (recB d) R.REC_STATUS_RUN = false) :
    (recArm d s).rd (recB d) R.REC_ACQ_COUNT_ACQUISITIONS = armNo (recLatched d s) d ∧
    (recArm d s).rd (recB d) R.REC_SEG_COUNT_SEGMENTS = 0 ∧
    (recArm d s).on (recB d) R.REC_MT_FIRST_VALID = false ∧
    (recArm d s).rd (recB d) R.REC_CAP_CAP = armCap (recLatched d s) d ∧
    (armCut (recLatched d s) d = true → (recArm d s).on (recB d) R.REC_STATUS_SEGS_CUT = true) := by
  obtain ⟨-, -, -, hrd⟩ := recArm_shows hlead husable hidle
  exact ⟨by rw [hrd _ (by decide), armShown_acq], by rw [hrd _ (by decide), armShown_count],
    State.on_of_rd_zero (by rw [hrd _ (by decide), armShown_first]), by rw [hrd _ (by decide), armShown_cap],
    fun hcut => by rw [State.on, hrd _ (by decide), ← State.on, armShown_cut _ hcut]⟩

/-- The record engine after an event whose segment is whole (R179, R180, R182, R183). -/
theorem deliverEvent_whole {l : Nat} {e : TrgEvent} (hunit : bit (s.rdL (recB l) R.REC_CTRL_UNITS) e.unit = true)
    (hrun : s.on (recB l) R.REC_STATUS_RUN = true) (hstop : (s.recSt l).stopping = false)
    (hroom : recMode s l = 1 ∨ (s.recSt l).nextSeg < (s.recSt l).m)
    (hnet : s.onL (recB l) R.REC_CTRL_NETWIN = false ∨ bit e.fire.xsrc 4 = false) (hpre : recPre s l ≤ e.sample)
    (hold : (s.recSt l).tarn.oldest ≤ e.sample - recPre s l)
    (hlive : (s.recSt l).tarn.run = true ∨ e.sample < (s.recSt l).tarn.head)
    (hcap : recMode s l = 2 ∨ recPre s l + recPost s l ≤ s.rd (recB l) R.REC_CAP_CAP * 64) :
    deliverEvent l e s = showArmed l (s.modRec l fun r => { r with
      segs := r.segs ++ [{ ev := e, segno := (s.recSt l).nextSeg, start := e.sample - recPre s l
                           len := recPre s l + recPost s l, req := recPre s l + recPost s l
                           flags := eventFlags s l e.fire }]
      nextSeg := r.nextSeg + 1
      rearm := some (max (if s.onL (recB l) R.REC_CTRL_ARM_MODE then 0 else e.sample + max (recPost s l) 9216)
        (r.rearm.getD 0)) }) := by
  have hwin := recWindow_own hnet
  obtain ⟨h5, h6⟩ := eventFlags_unclipped s l e.fire
  rw [deliverEvent_eq hunit hrun hstop hroom (cutSegment_whole _ hwin hpre hold hlive hcap) h5 h6, hwin]

theorem segCopy_segno (s : State) (l n : Nat) (g : RecSeg) : (segCopy s l n g).segno = g.segno := rfl

/-! What is said of the state before the copies went on, or before the throttle was set. -/

theorem pulsed_segsAdvance {l : Nat} {t : State} (h : pulsed (segsAdvance l s) t (hubOf (segsAdvance l s) l) 0x3000) :
    pulsed s t (hubOf s l) 0x3000 := by
  unfold pulsed at h ⊢
  rwa [hubOf_segsAdvance, (segsAdvance_within l s).credits] at h

theorem pulsed_throttle {l g : Nat} {on : Bool} {t : State}
    (h : pulsed (throttle g on s) t (hubOf (throttle g on s) l) 0x3000) : pulsed s t (hubOf s l) 0x3000 := by
  have hcredits := ((throttle_within g on s).widen (Q := stageTaking) fun _ _ => rfl).credits
  unfold pulsed at h ⊢
  rwa [hubOf_congr (part_throttle g on s), hcredits] at h

theorem rd_throttle_rec (g l : Nat) (on : Bool) (s : State) (f : Fld) :
    (throttle g on s).rd (recB l) f = s.rd (recB l) f := (throttle_within g on s).rd (not_stageWin_rec l _)

/-- Outside STREAM mode the bytes of a segment whose samples are copied stand in its slot. -/
theorem segmentComplete_stored {l n : Nat} (hmode : recMode s l ≠ 2) {g : RecSeg} (hn : g.segno = n)
    (hstore : storable s (hubOf s l) (recRegion s l + n % max 1 (s.recSt l).m * (s.recSt l).slot) (segItem s l g)) :
    stored (completeSegment l g (segsAdvance l s)) (hubOf s l)
      (recRegion s l + n % max 1 (s.recSt l).m * (s.recSt l).slot) (segItem s l g) := by
  subst hn
  have hhub := hubOf_segsAdvance l l s
  have hlive := (segsAdvance_within l s).live
  have hregion : recRegion (segsAdvance l s) l = recRegion s l := by
    rw [recRegion, State.rdL_congr hlive, recRegion]
  have hrec : ((segsAdvance l s).recSt l).m = (s.recSt l).m ∧ ((segsAdvance l s).recSt l).slot = (s.recSt l).slot := by
    obtain ⟨segs, w, r, h⟩ := recSt_segsAdvance l s
    rw [h]
    exact ⟨rfl, rfl⟩
  have hitem := (segView_segsAdvance hmode hstore.1).segItem g
  have hfree := anyFrozen_segsAdvance l s (hubOf_lt s l)
  have hstored := completeSegment_stored l g (segsAdvance l s) (by rwa [recMode_congr hlive])
  unfold storable at hstore hstored
  rw [hhub, hregion, hrec.1, hrec.2, hitem, hfree] at hstored
  exact hstored hstore

/-! The oldest segment, outside STREAM mode, after its copy has gone on to its end. -/

section
variable {g : RecSeg} {r : List RecSeg} (hmode : recMode s d ≠ 2)
include hmode

theorem rd_segsAdvance (f : Fld) : (segsAdvance d s).rd (recB d) f = s.rd (recB d) f := by
  rw [segsAdvance_eq hmode, State.rd_modRec]

theorem segmentComplete_segnos (hsegs : (s.recSt d).segs = g :: r) (g' : RecSeg) :
    ((completeSegment d g' (segsAdvance d s)).recSt d).segs.map (fun x => x.segno) = r.map fun x => x.segno := by
  rw [completeSegment_segs, segs_segsAdvance hsegs hmode, List.drop_one, List.tail_cons, List.map_map]
  rfl

theorem segmentComplete_overrun {g' : RecSeg} (hg : g'.overrun = true) :
    (completeSegment d g' (segsAdvance d s)).on (recB d) R.REC_STATUS_OVERRUN = true ∧
      (completeSegment d g' (segsAdvance d s)).rd (recB d) R.REC_OVERRUN_COUNT_OVERRUNS =
        min (2 ^ 32 - 1) (s.rd (recB d) R.REC_OVERRUN_COUNT_OVERRUNS + 1) := by
  obtain ⟨hstatus, hcount⟩ := completeSegment_overrun d g' (segsAdvance d s) hg
  exact ⟨hstatus, by rw [hcount, rd_segsAdvance hmode]⟩

/-- The mask test judges the samples that are copied now. -/
theorem segmentComplete_verdict {n : Nat} (htested : segTested s d g = true) :
    (mtPoint s d g (segCopy s d n g).xs = none →
      (completeSegment d (segCopy s d n g) (segsAdvance d s)).rd (recB d) R.REC_MT_PASS_PASSED =
        min (2 ^ 32 - 1) (s.rd (recB d) R.REC_MT_PASS_PASSED + 1)) ∧
    (mtPoint s d g (segCopy s d n g).xs ≠ none →
      (completeSegment d (segCopy s d n g) (segsAdvance d s)).rd (recB d) R.REC_MT_FAIL_FAILED =
          min (2 ^ 32 - 1) (s.rd (recB d) R.REC_MT_FAIL_FAILED + 1) ∧
        (completeSegment d (segCopy s d n g) (segsAdvance d s)).on (recB d) R.REC_MT_FIRST_VALID = true) := by
  have htested' : segTested (segsAdvance d s) d (segCopy s d n g) = true := by
    rw [segTested_congr (segsAdvance_within d s).live]
    exact htested
  have hpoint : mtPoint (segsAdvance d s) d (segCopy s d n g) (segCopy s d n g).xs =
      mtPoint s d g (segCopy s d n g).xs := by
    rw [segsAdvance_eq hmode]
    rfl
  refine ⟨fun hmt => ?_, fun hmt => ?_⟩
  · rw [completeSegment_passed d _ _ htested' (hpoint.trans hmt), rd_segsAdvance hmode]
  · obtain ⟨hfailed, hvalid⟩ := completeSegment_failed d _ _ htested' (hpoint ▸ hmt)
    exact ⟨by rw [hfailed, rd_segsAdvance hmode], hvalid⟩

end

end

/-- Settles O22, row by row: each next state is written out by the operations of the record engine, and what the row names
is read off it. -/
theorem recRowsComplete : Obligations.RecRowsComplete := by
  unfold Obligations.RecRowsComplete
  refine ⟨fun d f s hlead hsrc hen hrun hstopped hfree => ?tarnStart,
    fun d s hrun hforward hsrc hcome hfree hdepth hend => ?tarnBlockWrite,
    fun d a m0 s hlead husable hidle ha hm0 => ?recArm,
    fun d s hlead hrun hmode => ⟨_, rfl, stopping_recStop hlead hrun, armedAs_recStop hlead hrun hmode,
      on_recStop_of_done hlead hrun, on_recStop_of_segs hlead hrun⟩,
    fun d s hlead hrun _ => ⟨_, rfl, stopping_recStop hlead hrun, on_recStop_of_done hlead hrun⟩,
    fun d e r s hev hunit hrun hstop hroom hnet hpre hold hlive hcap => ?eventTaken,
    fun d e r s hev hunit hrun hstop hmode hfull => ?eventMissed, fun d e r s hev hunit => ?eventIgnored,
    fun d g r s hsegs hmode hset => ?segmentComplete, fun d g r s hsegs hmode hleft hroom hlimit => ?segmentStreamed,
    fun d k s hrearm hk => ?recRearm, fun d s hlead husable hoff hidle => ?coEnable,
    fun d b l s hflush hblk hsize hl => ?coBlockFlush⟩
  case tarnStart =>
    refine ⟨_, exec_tarnStart hlead hsrc, ?_, on_tarnStart hen hrun hstopped hfree⟩
    rw [tarnStart_eq hen hrun hstopped hfree, State.recSt_modRec, hsrc]
    rfl
  case tarnBlockWrite =>
    obtain ⟨hsamples, hdesc⟩ := leAt_tarnBlockWrite hfree hdepth hend
    refine ⟨_, exec_tarnBlockWrite hrun hforward hsrc hcome, by rw [tarn_blockWrite, tarn_segsAdvance], fun i => ?_, hdesc⟩
    obtain ⟨hi, hq⟩ := hsamples i i.isLt
    rw [hi, hq, blockSample, hsrc]
    exact ⟨rfl, rfl⟩
  case recArm =>
    obtain ⟨hlive, htabL, hrec, -⟩ := recArm_shows hlead husable hidle
    obtain ⟨hsome, hnone⟩ := recArm_armed hlead husable hidle
    obtain ⟨hno, hcount, hfirst, hcap, hcut⟩ := rd_recArm hlead husable hidle
    rw [recSt_recArmed] at hrec
    have hm : ((recArm d s).recSt d).m = armSegs (recLatched d s) d := by rw [hrec]
    have hslot : ((recArm d s).recSt d).slot = armSlot (recLatched d s) d := by rw [hrec]
    refine ⟨_, rfl, fun o ho => ?_, fun i => ?_, hm.trans (armSegs_recLatched s ha hm0), by rw [hrec], by rw [hrec],
      by rw [hrec], ?_, hno, ?_, hcount, hfirst, ?_, fun h => hcut ((armCut_recLatched s ha hm0).mpr h),
      fun h => hsome (hm ▸ h), fun h => hnone (hm ▸ h)⟩
    · have hset : ∀ o ∈ ([0x4, 0x10, 0x14, 0x18, 0x1C, 0x20, 0x40, 0x44, 0x48, 0x4C] : List Nat), inArmSet o := by decide
      rw [State.liveReg, hlive, ← State.liveReg, liveReg_recLatched s (hset o ho)]
    · rw [htabL, tabL_recLatched]
    · rw [hslot, armSlot, recSize_recLatched, ← ha, hm]
    · rw [hno, hrec]
    · rw [hcap, armCap_recLatched, hslot]
  case eventTaken =>
    refine ⟨_, exec_triggerEventDeliver hev, ?_⟩
    rw [deliverEvent_whole (s := s.modTrg d fun q => { q with events := r }) hunit hrun hstop hroom hnet hpre hold hlive
      hcap]
    refine ⟨?_, ?_, armedAs_of_en (armedAs_showArmed _) rfl (by simp [unitsArmed]), ?_, ?_⟩
    · rw [State.trgSt, trg_showArmed, State.modRec_trg, ← State.trgSt, State.trgSt_modTrg]
    · rw [recSt_showArmed, State.recSt_modRec]
      rfl
    · rw [recSt_showArmed, State.recSt_modRec]
      exact ⟨_, List.mem_append_right _ (.head _), rfl, rfl, rfl, rfl, rfl, rfl, rfl⟩
    · rw [recSt_showArmed, State.recSt_modRec]
      rfl
  case eventMissed =>
    refine ⟨_, exec_triggerEventDeliver hev, ?_⟩
    rw [deliverEvent_missed (s := s.modTrg d fun q => { q with events := r }) hunit hrun hstop hmode hfull]
    refine ⟨?_, rfl, State.rd_inc_same _ _ _ 1 (by decide)⟩
    rw [State.trgSt, State.inc_trg, ← State.trgSt, State.trgSt_modTrg]
  case eventIgnored =>
    refine ⟨_, exec_triggerEventDeliver hev, ?_⟩
    rw [deliverEvent_ignored (s := s.modTrg d fun q => { q with events := r }) hunit]
    exact ⟨by rw [State.trgSt_modTrg], rfl, rfl⟩
  case segmentComplete =>
    exact ⟨_, exec_segmentComplete hsegs hmode hset, segmentComplete_segnos hmode hsegs _,
      by rw [completeSegment_count, rd_segsAdvance hmode], pulsed_segsAdvance (completeSegment_pulsed d _ _),
      segmentComplete_stored hmode (segCopy_segno s d (segLeft g) g), segmentComplete_overrun hmode,
      fun htested => (segmentComplete_verdict hmode htested).1, fun htested => (segmentComplete_verdict hmode htested).2⟩
  case segmentStreamed =>
    obtain ⟨on, hexec⟩ := exec_segmentComplete_stream hsegs hmode hleft hroom hlimit
    refine ⟨_, hexec, ?_, ?_, pulsed_throttle (pulsed_throttle (completeSegment_pulsed d g _))⟩
    · rw [completeSegment_segs, recSt_throttle, recSt_throttle, hsegs]
      rfl
    · rw [completeSegment_count, rd_throttle_rec, rd_throttle_rec]
  case recRearm =>
    refine ⟨_, exec_recRearm hrearm hk, by rw [recSt_showArmed, State.recSt_modRec],
      armedAs_of_en (armedAs_showArmed _) rfl ?_⟩
    simp [unitsArmed, State.on]
  case coEnable =>
    have hen : (s.wr (recB d) R.REC_CO_CTRL_EN 1).on (recB d) R.REC_CO_CTRL_EN = true :=
      State.on_wr_bit _ _ _ rfl (by decide) true
    refine ⟨_, exec_coEnable hlead husable hoff, ?_⟩
    rw [coEnable_eq (s := s.wr (recB d) R.REC_CO_CTRL_EN 1) hlead husable hen hidle, State.modCo, State.recSt_modRec]
    simp (disch := decide) only [State.rd_wr_of_apart, true_and]
    exact hen
  case coBlockFlush =>
    subst hl
    exact ⟨_, exec_coBlockFlush hflush, by rw [co_coClose hblk hsize],
      (congrArg CoSt.pos (co_coClose hblk hsize) :), fun hfree hend hlen i hi => rawByte_coClose hblk hfree hend hlen hi⟩

end Sys2Proof.Machine
end

section
/-! PROOFS. Tables of counts: what a count reads after others are added to it, and after it has decayed (R208, R212). -/

namespace Sys2Proof.Machine

/-- A write leaves the places of a table distinct. -/
theorem nodup_keys_tset {α : Type} [DecidableEq α] {d : Nat → α} {m : Tbl α} (h : (m.map (·.1)).Nodup) (k : Nat)
    (v : α) : ((tset d m k v).map (·.1)).Nodup := by
  have hsub : ∀ p : Nat × α → Bool, ((m.filter p).map (·.1)).Nodup := fun p =>
    h.sublist (List.filter_sublist.map _)
  unfold tset
  rw [List.map_append, List.map_append]
  refine List.nodup_append.mpr ⟨hsub _, List.nodup_append.mpr ⟨?_, hsub _, ?_⟩, ?_⟩
  · split <;> simp
  · intro a ha b hb
    have ha' : a = k := by split at ha <;> simp_all
    simp only [List.mem_map, List.mem_filter, decide_eq_true_eq] at hb
    obtain ⟨e, ⟨-, he⟩, rfl⟩ := hb
    omega
  · intro a ha b hb
    simp only [List.mem_map, List.mem_filter, decide_eq_true_eq] at ha
    obtain ⟨e, ⟨-, he⟩, rfl⟩ := ha
    have hb' : k ≤ b := by
      rcases List.mem_append.mp hb with hb | hb
      · split at hb <;> simp_all
      · simp only [List.mem_map, List.mem_filter, decide_eq_true_eq] at hb
        obtain ⟨x, ⟨-, hx⟩, rfl⟩ := hb
        exact hx.le
    omega

theorem tget_le {m : Tbl Nat} {b : Nat} (h : ∀ e ∈ m, e.2 ≤ b) (k : Nat) : tget noNat m k ≤ b := by
  induction m with
  | nil => exact Nat.zero_le b
  | cons e m ih =>
    rw [tget]
    split
    · exact h e (.head m)
    · exact ih fun x hx => h x (.tail e hx)

/-- A place that no entry lists. -/
theorem tget_of_key_notMem {m : Tbl Nat} {k : Nat} (h : k ∉ m.map (·.1)) : tget noNat m k = 0 :=
  tget_none _ _ _ fun _ he hk => h (List.mem_map.mpr ⟨_, he, hk⟩)

/-! Counts are added (R208). -/

theorem tget_countAdd_same (m : Tbl Nat) (k n : Nat) : tget noNat (countAdd m k n) k = min 65535 (tget noNat m k + n) :=
  tget_tset_same _ _ _ _

theorem tget_countAdd_other (m : Tbl Nat) {k j : Nat} (h : j ≠ k) (n : Nat) :
    tget noNat (countAdd m k n) j = tget noNat m j :=
  tget_tset_other _ _ _ _ _ h

theorem nodup_keys_countsAdd {m : Tbl Nat} (h : (m.map (·.1)).Nodup) (p : Tbl Nat) :
    ((countsAdd m p).map (·.1)).Nodup := by
  induction p generalizing m with
  | nil => exact h
  | cons e p ih => exact ih (nodup_keys_tset h e.1 _)

theorem tget_countAdd_le {m : Tbl Nat} (h : ∀ k, tget noNat m k ≤ 65535) (k n j : Nat) :
    tget noNat (countAdd m k n) j ≤ 65535 := by
  by_cases hj : j = k
  · rw [hj, tget_countAdd_same]
    exact Nat.min_le_left _ _
  · rw [tget_countAdd_other m hj]
    exact h j

/-- Each count that `p` lists, once, is added to its own, and holds at 65,535. -/
theorem tget_countsAdd {m p : Tbl Nat} (hp : (p.map (·.1)).Nodup) (hm : ∀ k, tget noNat m k ≤ 65535) (k : Nat) :
    tget noNat (countsAdd m p) k = min 65535 (tget noNat m k + tget noNat p k) := by
  induction p generalizing m with
  | nil => exact (Nat.min_eq_right (hm k)).symm
  | cons e p ih =>
    obtain ⟨hnew, hp⟩ := List.nodup_cons.mp hp
    have hadd : countsAdd m (e :: p) = countsAdd (countAdd m e.1 e.2) p := rfl
    rw [hadd, ih hp (tget_countAdd_le hm e.1 e.2), tget]
    by_cases hk : e.1 = k
    · subst hk
      rw [if_pos rfl, tget_of_key_notMem hnew, tget_countAdd_same, Nat.add_zero]
      exact Nat.min_eq_right (Nat.min_le_left _ _)
    · rw [if_neg hk, tget_countAdd_other m (Ne.symm hk)]

/-! Counts decay (R212). -/

theorem decay_zero (mode k step : Nat) : decay mode k step 0 = 0 := by
  unfold decay
  split <;> simp

theorem decay_eq (mode k step c : Nat) : decay mode k step c =
    if mode = 0 then 0 else if mode = 1 then c - (c + 2 ^ k - 1) / 2 ^ k else if mode = 2 then c - step else c := by
  match mode with
  | 0 => rfl
  | 1 => rfl
  | 2 => rfl
  | _ + 3 => rfl

/-- A change of every count that leaves 0 alone. -/
theorem tget_map_filter {f : Nat → Nat} (hf : f 0 = 0) {m : Tbl Nat} (hm : (m.map (·.1)).Nodup) (k : Nat) :
    tget noNat ((m.map fun e => (e.1, f e.2)).filter fun e => e.2 != 0) k = f (tget noNat m k) := by
  induction m with
  | nil => exact hf.symm
  | cons e m ih =>
    obtain ⟨hnew, hm⟩ := List.nodup_cons.mp hm
    rw [List.map_cons, List.filter_cons, tget]
    by_cases hk : e.1 = k
    · subst hk
      rw [if_pos rfl]
      split
      · rw [tget, if_pos rfl]
      · rename_i hzero
        rw [ih hm, tget_of_key_notMem hnew, hf]
        simpa using (Eq.symm (by simpa using hzero) : 0 = f e.2)
    · rw [if_neg hk]
      split
      · rw [tget, if_neg hk, ih hm]
      · exact ih hm

theorem tget_decayAll (s : State) (l : Nat) {m : Tbl Nat} (hm : (m.map (·.1)).Nodup) (k : Nat) :
    tget noNat (decayAll s l m) k = decay (s.rdF (densB l) R.DENS_DECAY_MODE)
      (max 1 (s.rdF (densB l) R.DENS_DECAY_K)) (s.rdF (densB l) R.DENS_DECAY_STEP) (tget noNat m k) :=
  tget_map_filter (decay_zero _ _ _) hm k

end Sys2Proof.Machine
end

section
/-! PROOFS. The items of the density engine: their headers, and what memory reads once they stand in it (R220). -/

namespace Sys2Proof.Machine

/-- An item whose header holds `x` and `y` in its words at bytes 4 and 6. -/
def densItem (kind inp flags x y sts first count : Nat) (rest : List Byte) : List Byte :=
  leBytes 1 kind ++ leBytes 1 inp ++ leBytes 2 flags ++ leBytes 2 x ++ leBytes 2 y ++ leBytes 12 sts ++ leBytes 8 first
    ++ leBytes 4 count ++ rest

theorem frameBytes_eq (s : State) (l : Nat) (fr : DensFrame) (counts : Tbl Nat) : ∃ w h rest,
    frameBytes s l fr counts = densItem (if s.onF (densB l) R.DENS_OUT_FORMAT then 0x42 else 0x40) (inputOf l) fr.flags
      w h fr.sts fr.first fr.count rest :=
  ⟨_, _, _, List.append_assoc _ _ _⟩

theorem SgSet.bytes_eq (g : SgSet) (inp flags sts first count : Nat) (lv : List Int) : ∃ x y rest,
    g.bytes inp flags sts first count lv =
      densItem (if g.index8 then 0x43 else 0x41) inp flags x y sts first count rest :=
  ⟨_, _, _, List.append_assoc _ _ _⟩

section
variable (kind inp flags x y sts first count : Nat) (rest : List Byte)

theorem densItem_kind : (densItem kind inp flags x y sts first count rest).take 1 = leBytes 1 kind := rfl

theorem densItem_flags :
    ((densItem kind inp flags x y sts first count rest).drop 2).take 2 = leBytes 2 flags := rfl

theorem densItem_first :
    ((densItem kind inp flags x y sts first count rest).drop 20).take 8 = leBytes 8 first := rfl

theorem densItem_count :
    ((densItem kind inp flags x y sts first count rest).drop 28).take 4 = leBytes 4 count := rfl

theorem le_length_densItem : 32 ≤ (densItem kind inp flags x y sts first count rest).length := by
  simp only [densItem, List.length_append, length_leBytes]
  omega

end

/-! Memory. -/

section
variable {s : State} {h a : Nat} {l : List Byte}

/-- A write that the end of the hub's addresses cuts off stands in memory before that. -/
theorem State.rawByte_setBytes_before (hfree : s.anyFrozen h = false) {i : Nat} (hi : i < l.length)
    (hend : a + i < 2 ^ 40) : (s.setBytes h a l).rawByte h (a + i) = l.getD i 0 := by
  have hmod : a % 2 ^ 40 = a := Nat.mod_eq_of_lt (by omega)
  have hcut : s.setBytes h a l = s.setBytes h a (l.take (2 ^ 40 - a)) := by
    simp only [State.setBytes, hmod, List.take_take, Nat.min_self]
  have hlen : (l.take (2 ^ 40 - a)).length = min (2 ^ 40 - a) l.length := List.length_take
  rw [hcut, State.rawByte_setBytes_inside hfree (by omega) (by omega), List.getD_eq_getElem?_getD,
    List.getElem?_take_of_lt (by omega), List.getD_eq_getElem?_getD]

/-- A number in the bytes `l` where the first `k` of them stand in memory. -/
theorem State.leAt_of_stored_start {k n m : Nat} (hfree : s.anyFrozen h = false)
    (hl : ∀ i < k, s.rawByte h (a + i) = l.getD i 0) (hk : n + m ≤ k) (hlen : k ≤ l.length) :
    s.leAt h (a + n) m = ofLe ((l.drop n).take m) := by
  have hm : ((l.drop n).take m).length = m := by
    rw [List.length_take, List.length_drop]
    omega
  have hbytes : ∀ i < ((l.drop n).take m).length, s.rawByte h (a + n + i) = ((l.drop n).take m).getD i 0 := by
    intro i hi
    rw [Nat.add_assoc, hl _ (by omega), List.getD_eq_getElem?_getD, List.getD_eq_getElem?_getD,
      List.getElem?_take_of_lt (by omega), List.getElem?_drop]
  have hle := State.leAt_of_rawByte hfree hbytes
  rwa [hm] at hle

end

end Sys2Proof.Machine
end

section
/-! PROOFS. The fields of its block that the operations of the density engine write (R208, R209, R223, R228). -/

namespace Sys2Proof.Machine

/-- What an operation leaves that changes parts of `parts` and registers of `win` only. -/
theorem State.same_outside {parts : List FramePart} {win : Nat → Prop} {s t : State}
    (h : t.outside parts win = s.outside parts win) {α : Type} (g : State → α)
    (hg : ∀ u, g (State.rest parts u) = g u) : g t = g s :=
  (hg t).symm.trans ((congrArg g (congrArg Prod.fst h)).trans (hg s))

/-- From `s` to `t` the block DENS of die `l` changes in no other fields than `fs`. -/
def DensShows (fs : List Fld) (l : Nat) (s t : State) : Prop :=
  ∀ f : Fld, f.off < 0x10000 → fs.all (·.apart f) = true → t.rd (densB l) f = s.rd (densB l) f

section
variable {fs gs : List Fld} {l : Nat} {s t u : State}

theorem DensShows.refl (s : State) : DensShows fs l s s := fun _ _ _ => rfl

theorem DensShows.trans (h : DensShows fs l s t) (h' : DensShows fs l t u) : DensShows fs l s u :=
  fun f hoff hf => (h' f hoff hf).trans (h f hoff hf)

theorem DensShows.mono (h : DensShows fs l s t) (hsub : fs ⊆ gs) : DensShows gs l s t := fun f hoff hf =>
  h f hoff (List.all_eq_true.mpr fun g hg => List.all_eq_true.mp hf g (hsub hg))

theorem DensShows.on (h : DensShows fs l s t) {f : Fld} (hoff : f.off < 0x10000) (hf : fs.all (·.apart f) = true) :
    t.on (densB l) f = s.on (densB l) f := by
  rw [State.on, h f hoff hf, State.on]

theorem DensShows.of_regs (h : t.regs = s.regs) : DensShows fs l s t := fun _ _ _ => State.rd_congr h _ _

theorem DensShows.modDens (s : State) (k : Nat) (f : DensSt → DensSt) : DensShows fs l s (s.modDens k f) :=
  .of_regs (State.modDens_regs s k f)

theorem DensShows.ite {c : Prop} [Decidable c] (ht : DensShows fs l s t) (hu : DensShows fs l s u) :
    DensShows fs l s (if c then t else u) := by
  split
  · exact ht
  · exact hu

theorem DensShows.foldl {β : Type} {f : State → β → State} (h : ∀ b s, DensShows fs l s (f s b)) (xs : List β)
    (s : State) : DensShows fs l s (xs.foldl f s) := by
  induction xs generalizing s with
  | nil => exact .refl s
  | cons b xs ih => exact (h b s).trans (ih (f s b))

/-- A write of one of the fields. -/
theorem DensShows.wr {f : Fld} {v : Nat} (hf : f ∈ fs) (hw : f.lo + f.w ≤ 32) : DensShows fs l s (s.wr (densB l) f v) :=
  fun _ _ hg => State.rd_wr_of_apart _ _ _ hw (List.all_eq_true.mp hg f hf)

theorem DensShows.inc {f : Fld} {n : Nat} (hf : f ∈ fs) (hw : f.lo + f.w ≤ 32) :
    DensShows fs l s (s.inc (densB l) f n) :=
  .wr hf hw

end

/-! Frames (R212, R215). -/

section
variable {fs : List Fld} {l : Nat} (hsat : R.DENS_STATUS_SAT ∈ fs)
include hsat

theorem densShows_satShow (hit : Bool) (s : State) : DensShows fs l s (satShow l hit s) :=
  .ite (.wr hsat (by decide)) (.refl s)

theorem densShows_densAdd (k : Nat) (g : Tbl Nat → Tbl Nat) (s : State) : DensShows fs l s (densAdd l k g s) :=
  (DensShows.modDens s l _).trans (densShows_satShow hsat _ _)

theorem densShows_takeFrame (extra : Nat) (s : State) : DensShows fs l s (takeFrame l extra s) := by
  simp only [takeFrame]
  split
  · exact .refl s
  · exact (DensShows.modDens s l _).trans (densShows_satShow hsat _ _)

theorem densShows_takeReady (n : Nat) (s : State) : DensShows fs l s (takeReady l n s) := by
  induction n generalizing s with
  | zero => exact .refl s
  | succ n ih =>
    unfold takeReady
    split
    · exact .ite ((densShows_takeFrame hsat 0 s).trans (ih _)) (.refl s)
    · exact .refl s

theorem densShows_endFrame (s : State) : DensShows fs l s (endFrame l s) :=
  (DensShows.modDens s l _).trans (densShows_takeReady hsat _ _)

theorem densShows_endFrames (e n : Nat) (s : State) : DensShows fs l s (endFrames l e n s) := by
  induction n generalizing s with
  | zero => exact .refl s
  | succ n ih => exact .ite ((densShows_endFrame hsat s).trans (ih _)) (.refl s)

omit hsat

@[simp] theorem endRow_regs (l n : Nat) (s : State) : (endRow l n s).regs = s.regs := by
  unfold endRow
  extract_lets q g d first fl bytes a lack u
  split <;> simp [u]

@[simp] theorem endRows_regs (l e n : Nat) (s : State) : (endRows l e n s).regs = s.regs := by
  induction n generalizing s with
  | zero => rfl
  | succ n ih =>
    rw [endRows]
    split
    · rw [ih, endRow_regs]
    · rfl

include hsat

theorem densShows_densAdvance (e : Nat) (s : State) : DensShows fs l s (densAdvance l e s) :=
  .ite (.refl s) ((densShows_endFrames hsat _ _ s).trans (.of_regs (endRows_regs l e _ _)))

end

/-! A set that takes effect (R228). -/

/-- The fields that the counts and the closing of frames and rows write. -/
def closeFlds : List Fld := [R.DENS_STATUS_SAT, R.DENS_PARTIAL_COUNT_PARTIALS, R.DENS_LATE_COUNT_LATE]

/-- The fields that follow the setting in force. -/
def showFlds : List Fld := [R.DENS_STATUS_RUN, R.DENS_STATUS_DECIM, R.DENS_STATUS_EVERY]

/-- The fields that a set writes which takes effect. -/
def effectFlds : List Fld := R.DENS_SHADOW_PENDING :: showFlds ++ closeFlds

theorem closeFlds_subset : closeFlds ⊆ effectFlds := List.subset_append_right _ _

theorem showFlds_subset : showFlds ⊆ effectFlds := fun _ h =>
  List.mem_append_left _ (List.mem_cons_of_mem _ h)

section
variable (l : Nat)

theorem densShows_mergeArrive (s : State) (p : DensPart) : DensShows closeFlds l s (mergeArrive l s p) := by
  have hsat : R.DENS_STATUS_SAT ∈ closeFlds := by simp [closeFlds]
  unfold mergeArrive
  split
  · exact ((densShows_densAdd hsat _ _ s).trans (.modDens _ l _)).trans (densShows_takeReady hsat _ _)
  · have hlate : DensShows closeFlds l s (s.inc (densB l) R.DENS_LATE_COUNT_LATE) :=
      .inc (by simp [closeFlds]) (by decide)
    exact (hlate.trans (densShows_densAdd hsat _ _ _)).trans (.modDens _ l _)

theorem densShows_densClose (e : Nat) (s : State) : DensShows closeFlds l s (densClose l e s) := by
  have hsat : R.DENS_STATUS_SAT ∈ closeFlds := by simp [closeFlds]
  unfold densClose
  extract_lets u q one r v w x y
  have hu : DensShows closeFlds l s u := densShows_densAdvance hsat e s
  have hone : ∀ (b : Bool) (z : State), DensShows closeFlds l z (one b z) := fun b z =>
    .ite (.inc (by simp [closeFlds]) (by decide)) (.refl z)
  have hv : DensShows closeFlds l u v := .ite ((hone true u).trans (.of_regs (endRow_regs l _ _))) (.refl u)
  have hw : DensShows closeFlds l v w := .ite ((hone true v).trans (densShows_endFrame hsat _)) (.refl v)
  have hx : DensShows closeFlds l w x :=
    (DensShows.modDens w l _).trans (.foldl (fun p z => densShows_mergeArrive l z p) _ _)
  have hy : DensShows closeFlds l x y := .modDens x l _
  refine hu.trans (.ite (.modDens u l _) ?_)
  exact ((((hv.trans hw).trans hx).trans hy).trans (densShows_takeReady hsat _ y)).trans (.modDens _ l _)

theorem densShows_densShow (s : State) : DensShows showFlds l s (densShow l s) := by
  have hsame : ∀ (v : State) (x y z : Nat), DensShows showFlds l v (v.wrs (densB l)
      [(R.DENS_STATUS_RUN, x), (R.DENS_STATUS_DECIM, y), (R.DENS_STATUS_EVERY, z)]) := fun v x y z =>
    ((DensShows.wr (by simp [showFlds]) (by decide)).trans (.wr (by simp [showFlds]) (by decide))).trans
      (.wr (by simp [showFlds]) (by decide))
  have hnext : ∀ (v : State) (x y z : Nat), DensShows showFlds l v (v.wrs (densB (l + 1))
      [(R.DENS_STATUS_RUN, x), (R.DENS_STATUS_DECIM, y), (R.DENS_STATUS_EVERY, z)]) := by
    intro v x y z f hoff _
    have hother : ∀ g ∈ showFlds, densB l + f.off ≠ densB (l + 1) + g.off := fun g hg => by
      have hgoff : g.off < 0x10000 := (by decide : ∀ g ∈ showFlds, g.off < 0x10000) g hg
      simp only [densB, tB]
      omega
    simp only [State.wrs]
    rw [State.rd_wr_other _ _ _ _ _ _ (hother _ (by simp [showFlds])),
      State.rd_wr_other _ _ _ _ _ _ (hother _ (by simp [showFlds])),
      State.rd_wr_other _ _ _ _ _ _ (hother _ (by simp [showFlds]))]
  unfold densShow
  extract_lets e run show_ u
  have hu : DensShows showFlds l s u := hsame s _ _ _
  exact .ite (hu.trans (hnext u _ _ _)) hu

/-- The live DENS set and map table have come into force. -/
def densEnforced (s : State) : State :=
  (((s.enforce (densB l) 0x4 0x8).enforce (densB l) 0x14 0x30).enforce (densB l) 0x3C 0x54).tabEnforce
    (densKey l 0) (densKey l 256)

/-- The set has come into force once what is in progress is closed; it clears the counts if it changes what R229
names. -/
def densForced (e : Nat) (s : State) : State :=
  if densChanges s l then densClear l (densEnforced l (densClose l e s)) else densEnforced l (densClose l e s)

theorem densTakeEffect_eq (after : Option Nat) (e : Nat) (s : State) : densTakeEffect l after e s =
    densShow l (((densForced l e s).wr (densB l) R.DENS_SHADOW_PENDING 0).modDens l fun q =>
      { q with handedAt := none, after := after }) := rfl

theorem densShows_densForced (e : Nat) (s : State) : DensShows effectFlds l s (densForced l e s) := by
  have hset : ∀ u : State, DensShows effectFlds l u (densEnforced l u) := fun _ => .of_regs rfl
  have hclosed := ((densShows_densClose l e s).mono closeFlds_subset).trans (hset (densClose l e s))
  exact .ite (hclosed.trans (.modDens _ l _)) hclosed

theorem densShows_densTakeEffect (after : Option Nat) (e : Nat) (s : State) :
    DensShows effectFlds l s (densTakeEffect l after e s) := by
  rw [densTakeEffect_eq]
  exact (((densShows_densForced l e s).trans (.wr (by simp [effectFlds]) (by decide))).trans
    (.modDens _ l _)).trans ((densShows_densShow l _).mono showFlds_subset)

theorem densTakeEffect_pending (after : Option Nat) (e : Nat) (s : State) :
    (densTakeEffect l after e s).on (densB l) R.DENS_SHADOW_PENDING = false := by
  rw [densTakeEffect_eq, (densShows_densShow l _).on (by decide) (by decide)]
  exact State.on_of_rd_zero (State.rd_wr_same _ _ _ 0 (by decide))

end

end Sys2Proof.Machine
end

section
/-! PROOFS. The DENS shadow set: its hand-over, its revert, and a set that comes into force (R227 to R231). -/

namespace Sys2Proof.Machine

/-! The registers of the set and the map table, copied from one table to another. -/

theorem tget_tcopy_densSet (src dst : Tbl Word) (b : Nat) {o : Nat} (ho : inDensSet o) :
    tget resetOf (tcopy src (tcopy src (tcopy src dst (b + 0x4) (b + 0x8)) (b + 0x14) (b + 0x30)) (b + 0x3C) (b + 0x54))
      (b + o) = tget resetOf src (b + o) := by
  rcases ho with ho | ho | ho
  · rw [tget_tcopy_outside _ _ _ _ _ _ (by omega) (by omega), tget_tcopy_outside _ _ _ _ _ _ (by omega) (by omega),
      tget_tcopy_inside _ _ _ _ _ _ (by omega) (by omega)]
  · rw [tget_tcopy_outside _ _ _ _ _ _ (by omega) (by omega), tget_tcopy_inside _ _ _ _ _ _ (by omega) (by omega)]
  · exact tget_tcopy_inside _ _ _ _ _ _ (by omega) (by omega)

theorem tget_tcopy_densTab (src dst : Tbl Word) (l : Nat) (i : Fin 256) :
    tget tabReset (tcopy src dst (densKey l 0) (densKey l 256)) (densKey l i) = tget tabReset src (densKey l i) := by
  have := i.isLt
  exact tget_tcopy_inside _ _ _ _ _ _ (by simp only [densKey]; omega) (by simp only [densKey]; omega)

/-! A set comes into force (R228, R231). -/

section
variable (l : Nat) (after : Option Nat) (e : Nat) (s : State)

theorem densClose_same {α : Type} (g : State → α) (hg : ∀ u, g (State.rest [.dens] u) = g u) :
    g (densClose l e s) = g s :=
  State.same_outside (densClose_outside (win := fun _ => True) (by decide) (fun _ _ => trivial) e s) g hg

theorem densShow_same {α : Type} (g : State → α) (hg : ∀ u, g (State.rest [] u) = g u) : g (densShow l s) = g s :=
  State.same_outside (densShow_outside (win := fun _ => True) l s ⟨fun _ _ => trivial, fun _ _ => trivial⟩) g hg

/-- What a set that comes into force leaves alone, beside registers. -/
theorem densTakeEffect_same {α : Type} (g : State → α) (hg : ∀ u, g (State.rest densParts u) = g u) :
    g (densTakeEffect l after e s) = g s :=
  State.same_outside (densTakeEffect_outside (win := fun _ => True) l after e s (by decide) (by decide) (by decide)
    ⟨fun _ _ => trivial, fun _ _ => trivial⟩) g hg

theorem densForced_force : (densForced l e s).force = (densEnforced l (densClose l e s)).force ∧
    (densForced l e s).tabF = (densEnforced l (densClose l e s)).tabF := by
  unfold densForced
  split <;> exact ⟨rfl, rfl⟩

theorem densTakeEffect_force : (densTakeEffect l after e s).force = (densEnforced l (densClose l e s)).force ∧
    (densTakeEffect l after e s).tabF = (densEnforced l (densClose l e s)).tabF := by
  obtain ⟨hforce, htab⟩ := densForced_force l e s
  rw [densTakeEffect_eq]
  exact ⟨(densShow_same l _ State.force fun _ => rfl).trans hforce,
    (densShow_same l _ State.tabF fun _ => rfl).trans htab⟩

theorem forceReg_densEnforced {o : Nat} (ho : inDensSet o) :
    (densEnforced l s).forceReg (densB l + o) = s.liveReg (densB l + o) :=
  tget_tcopy_densSet s.live s.force (densB l) ho

theorem tabF_densEnforced (i : Fin 256) :
    tget tabReset (densEnforced l s).tabF (densKey l i) = tget tabReset s.tabL (densKey l i) :=
  tget_tcopy_densTab s.tabL s.tabF l i

/-- The set in force is the live one. -/
theorem forceReg_densTakeEffect {o : Nat} (ho : inDensSet o) :
    (densTakeEffect l after e s).forceReg (densB l + o) = s.liveReg (densB l + o) := by
  rw [State.forceReg, (densTakeEffect_force l after e s).1, ← State.forceReg, forceReg_densEnforced l _ ho,
    State.liveReg, densClose_same l e s State.live fun _ => rfl, State.liveReg]

theorem tabF_densTakeEffect (i : Fin 256) :
    tget tabReset (densTakeEffect l after e s).tabF (densKey l i) = tget tabReset s.tabL (densKey l i) := by
  rw [(densTakeEffect_force l after e s).2, tabF_densEnforced, densClose_same l e s State.tabL fun _ => rfl]

theorem densClose_fresh : ((densClose l e s).densSt l).fresh = true := by
  unfold densClose
  extract_lets u q one r v w x y
  split <;> rw [State.densSt_modDens]

theorem densForced_fresh : ((densForced l e s).densSt l).fresh = true := by
  have hset : ∀ u : State, (densEnforced l u).densSt l = u.densSt l := fun _ => rfl
  unfold densForced
  split
  · rw [densClear, State.densSt_modDens, hset]
    exact densClose_fresh l e s
  · rw [hset, densClose_fresh]

/-- The next spectrum starts the set's first frame and row, after sample `after`. -/
theorem densSt_densTakeEffect : ((densTakeEffect l after e s).densSt l).handedAt = none ∧
    ((densTakeEffect l after e s).densSt l).after = after ∧ ((densTakeEffect l after e s).densSt l).fresh = true := by
  rw [densTakeEffect_eq, densShow_same l _ (State.densSt · l) fun _ => rfl, State.densSt_modDens]
  exact ⟨rfl, rfl, densForced_fresh l e s⟩

end

/-! The hand-over (R227, R228). -/

section
variable (l : Nat) (s : State)

theorem liveReg_densHanded {o : Nat} (ho : inDensSet o) :
    (densHanded l s).liveReg (densB l + o) = s.reg (densB l + o) :=
  tget_tcopy_densSet s.regs s.live (densB l) ho

theorem tabL_densHanded (i : Fin 256) :
    tget tabReset (densHanded l s).tabL (densKey l i) = tget tabReset s.tabS (densKey l i) :=
  tget_tcopy_densTab s.tabS s.tabL l i

/-- The live wide-band set stays. -/
theorem rdL_wb_densHanded {f : Fld} (hf : f.off < 0x10000) : (densHanded l s).rdL (wbB l) f = s.rdL (wbB l) f := by
  have hbelow : wbB l + f.off < densB l := by simp only [wbB, densB]; omega
  have hlive : (densHanded l s).liveReg (wbB l + f.off) = s.liveReg (wbB l + f.off) := by
    refine (tget_tcopy_outside _ _ _ _ _ _ (by omega) (by omega)).trans
      ((tget_tcopy_outside _ _ _ _ _ _ (by omega) (by omega)).trans
        (tget_tcopy_outside _ _ _ _ _ _ (by omega) (by omega)))
  rw [State.rdL, State.rdL, hlive]

/-- The points of the live wide-band set, at which the limits of R205 act. -/
def liveN : Nat := 2 ^ clampLog2n (s.rdL (wbB l) R.WB_CTRL_LOG2N)

/-- The SHADOW register after the hand-over. -/
def densPended : State :=
  (densHanded l s).wrs (densB l) [(R.DENS_SHADOW_SHADOW_DIRTY, 0), (R.DENS_SHADOW_PENDING, 1)]

/-- A limit of R205 that clamps shows. -/
def densClampShown : State :=
  if densClamped (densHanded l s).rdL l (liveN l (densHanded l s)) || (s.densSt l).rateClamp then
    (densPended l s).wr (densB l) R.DENS_STATUS_CLAMP 1 else densPended l s

/-- The registers show the hand-over. -/
def densHandShown : State :=
  densRange l (liveN l (densHanded l s)) (densClampShown l s).rdL (densClampShown l s)

/-- The set waits for the first frame that starts after the sample being received. -/
def densHandWaits : State :=
  (densHandShown l s).modDens l fun q =>
    { q with handedAt := some ((densHandShown l s).recvSample (inputOf l)), rateClamp := false }

theorem densHandOver_eq : densHandOver l s = if spectraRun (densHandWaits l s) l then densHandWaits l s
    else densTakeEffect l none ((densHandWaits l s).wbSt l).nextIdx (densHandWaits l s) := rfl

theorem densHandShown_outside {win : Nat → Prop} (hb : Covers win (densB l)) :
    (densHandShown l s).outside [] win = (densHanded l s).outside [] win := by
  simp [densHandShown, densRange, densClampShown, densPended, hb]

theorem densHandShown_same {α : Type} (g : State → α) (hg : ∀ u, g (State.rest [] u) = g u) :
    g (densHandShown l s) = g (densHanded l s) :=
  State.same_outside (densHandShown_outside (win := fun _ => True) l s fun _ _ => trivial) g hg

theorem spectraRun_densHandWaits : spectraRun (densHandWaits l s) l = spectraRun s l :=
  densHandShown_same l s (spectraRun · l) fun _ => rfl

/-- The sample being received does not depend on the registers of the transform dies. -/
theorem recvSample_densHandShown (inp : Nat) : (densHandShown l s).recvSample inp = s.recvSample inp := by
  refine State.recvSample_congr (densHandShown_same l s State.part fun _ => rfl)
    (densHandShown_same l s State.time fun _ => rfl) ?_ inp
  exact (State.acqSide_of_outside (by decide) (densHandShown_outside l s (covers_above (tB_le_densB l)))).trans rfl

theorem densShows_densClampShown : DensShows [R.DENS_STATUS_CLAMP] l (densPended l s) (densClampShown l s) :=
  .ite (.wr (by simp) (by decide)) (.refl _)

theorem densShows_densRange (n : Nat) (rd : Nat → Fld → Nat) :
    DensShows [R.DENS_STATUS_BAD_RANGE] l s (densRange l n rd s) :=
  .ite (.wr (by simp) (by decide)) (.refl _)

theorem densHandShown_dirty : (densHandShown l s).on (densB l) R.DENS_SHADOW_SHADOW_DIRTY = false := by
  rw [densHandShown, (densShows_densRange l _ _ _).on (by decide) (by decide),
    (densShows_densClampShown l s).on (by decide) (by decide)]
  refine State.on_of_rd_zero ?_
  simp (disch := decide) only [densPended, State.wrs, State.rd_wr_of_apart, State.rd_wr_same]
  rfl

theorem densHandShown_pending : (densHandShown l s).on (densB l) R.DENS_SHADOW_PENDING = true := by
  rw [densHandShown, (densShows_densRange l _ _ _).on (by decide) (by decide),
    (densShows_densClampShown l s).on (by decide) (by decide)]
  exact State.on_of_rd_one (State.rd_wr_same _ _ _ 1 (by decide))

theorem densHandShown_held :
    (densHandShown l s).on (densB l) R.DENS_SHADOW_HELD = s.on (densB l) R.DENS_SHADOW_HELD := by
  rw [densHandShown, (densShows_densRange l _ _ _).on (by decide) (by decide),
    (densShows_densClampShown l s).on (by decide) (by decide), State.on, State.on]
  simp (disch := decide) only [densPended, State.wrs, State.rd_wr_of_apart]
  rfl

theorem densHandShown_clamp (h : densClamped (densHanded l s).rdL l (liveN l (densHanded l s)) = true) :
    (densHandShown l s).on (densB l) R.DENS_STATUS_CLAMP = true := by
  rw [densHandShown, (densShows_densRange l _ _ _).on (by decide) (by decide), densClampShown, h, Bool.true_or,
    if_pos rfl]
  exact State.on_of_rd_one (State.rd_wr_same _ _ _ 1 (by decide))

theorem rdL_densClampShown : (densClampShown l s).rdL = (densHanded l s).rdL := by
  unfold densClampShown
  split <;> rfl

theorem densHandShown_badRange
    (h : densLast (densHanded l s).rdL l (liveN l (densHanded l s)) < densFirst (densHanded l s).rdL l) :
    (densHandShown l s).on (densB l) R.DENS_STATUS_BAD_RANGE = true := by
  rw [densHandShown, rdL_densClampShown, densRange, if_pos h]
  exact State.on_of_rd_one (State.rd_wr_same _ _ _ 1 (by decide))

/-- What the hand-over leaves, whether the set waits for a spectrum or is in force at once. -/
theorem densHandOver_keeps : (densHandOver l s).live = (densHanded l s).live ∧
    (densHandOver l s).tabL = (densHanded l s).tabL ∧
    DensShows effectFlds l (densHandShown l s) (densHandOver l s) := by
  have hlive : (densHandWaits l s).live = (densHanded l s).live := densHandShown_same l s State.live fun _ => rfl
  have htab : (densHandWaits l s).tabL = (densHanded l s).tabL := densHandShown_same l s State.tabL fun _ => rfl
  have hshows : DensShows effectFlds l (densHandShown l s) (densHandWaits l s) := .modDens _ l _
  rw [densHandOver_eq]
  split
  · exact ⟨hlive, htab, hshows⟩
  · exact ⟨(densTakeEffect_same l _ _ _ State.live fun _ => rfl).trans hlive,
      (densTakeEffect_same l _ _ _ State.tabL fun _ => rfl).trans htab,
      hshows.trans (densShows_densTakeEffect l _ _ _)⟩

end

/-- From `s` to `t` lead die `l` hands over its DENS set: it becomes the live one, and waits for a spectrum or is in
force at once. -/
structure DensHandsOver (l : Nat) (s t : State) : Prop where
  live : ∀ o : Fin 0x60, inDensSet o → t.liveReg (densB l + o) = s.reg (densB l + o)
  tabL : ∀ i : Fin 256, tget tabReset t.tabL (densKey l i) = tget tabReset s.tabS (densKey l i)
  dirty : t.on (densB l) R.DENS_SHADOW_SHADOW_DIRTY = false
  pending : t.on (densB l) R.DENS_SHADOW_PENDING = spectraRun s l
  waits : spectraRun s l = true → (t.densSt l).handedAt = some (s.recvSample (inputOf l)) ∧ t.force = s.force
  inForce : spectraRun s l = false → (∀ o : Fin 0x60, inDensSet o → t.forceReg (densB l + o) = s.reg (densB l + o)) ∧
    (∀ i : Fin 256, tget tabReset t.tabF (densKey l i) = tget tabReset s.tabS (densKey l i)) ∧
    (t.densSt l).handedAt = none
  clamp : densClamped t.rdL l (liveN l s) = true → t.on (densB l) R.DENS_STATUS_CLAMP = true
  badRange : densLast t.rdL l (liveN l s) < densFirst t.rdL l → t.on (densB l) R.DENS_STATUS_BAD_RANGE = true

theorem densHandOver_pending (l : Nat) (s : State) :
    (densHandOver l s).on (densB l) R.DENS_SHADOW_PENDING = spectraRun s l := by
  rw [densHandOver_eq, spectraRun_densHandWaits]
  cases hrun : spectraRun s l with
  | true =>
    rw [if_pos rfl, ← densHandShown_pending l s]
    exact (DensShows.modDens (fs := []) _ l _).on (by decide) (by decide)
  | false =>
    rw [if_neg Bool.false_ne_true]
    exact densTakeEffect_pending l none _ _

theorem densHandOver_handsOver (l : Nat) (s : State) : DensHandsOver l s (densHandOver l s) := by
  obtain ⟨hlive, htab, hshows⟩ := densHandOver_keeps l s
  have hn : liveN l (densHanded l s) = liveN l s := by
    rw [liveN, rdL_wb_densHanded l s (by decide), liveN]
  have hrdL : (densHandOver l s).rdL = (densHanded l s).rdL := State.rdL_congr hlive
  refine ⟨fun o ho => ?_, fun i => ?_, ?_, densHandOver_pending l s, fun hrun => ?_, fun hrun => ?_, fun h => ?_,
    fun h => ?_⟩
  · rw [State.liveReg, hlive]
    exact liveReg_densHanded l s ho
  · rw [htab, tabL_densHanded]
  · rw [hshows.on (by decide) (by decide), densHandShown_dirty]
  · rw [densHandOver_eq, spectraRun_densHandWaits, if_pos hrun, densHandWaits, State.densSt_modDens,
      recvSample_densHandShown]
    exact ⟨rfl, densHandShown_same l s State.force fun _ => rfl⟩
  · rw [densHandOver_eq, spectraRun_densHandWaits, hrun, if_neg Bool.false_ne_true]
    refine ⟨fun o ho => ?_, fun i => ?_, (densSt_densTakeEffect l none _ _).1⟩
    · rw [forceReg_densTakeEffect l none _ _ ho, ← liveReg_densHanded l s ho]
      exact densHandShown_same l s (State.liveReg · _) fun _ => rfl
    · rw [tabF_densTakeEffect l none _ _ i, ← tabL_densHanded l s i]
      exact densHandShown_same l s (fun u => tget tabReset u.tabL _) fun _ => rfl
  · rw [hshows.on (by decide) (by decide)]
    exact densHandShown_clamp l s (by rwa [hrdL, ← hn] at h)
  · rw [hshows.on (by decide) (by decide)]
    exact densHandShown_badRange l s (by rwa [hrdL, ← hn] at h)

theorem densHandOver_held (l : Nat) (s : State) :
    (densHandOver l s).on (densB l) R.DENS_SHADOW_HELD = s.on (densB l) R.DENS_SHADOW_HELD := by
  obtain ⟨-, -, hshows⟩ := densHandOver_keeps l s
  rw [hshows.on (by decide) (by decide), densHandShown_held]

/-- HELD is no part of what is handed over. -/
theorem DensHandsOver.of_wr_held {l v : Nat} {s t : State}
    (h : DensHandsOver l (s.wr (densB l) R.DENS_SHADOW_HELD v) t) : DensHandsOver l s t := by
  have hreg : ∀ o : Fin 0x60, inDensSet o →
      (s.wr (densB l) R.DENS_SHADOW_HELD v).reg (densB l + o) = s.reg (densB l + o) := fun o ho =>
    State.reg_wr_other _ _ _ _ _ (by have hoff : R.DENS_SHADOW_HELD.off = 0xC := rfl; omega)
  have hrecv : (s.wr (densB l) R.DENS_SHADOW_HELD v).recvSample (inputOf l) = s.recvSample (inputOf l) :=
    State.recvSample_congr (State.wr_part _ _ _ _) (State.wr_time _ _ _ _)
      (State.wr_acqSide _ _ _ _ (tB_le_densB l)) _
  exact { h with
    live := fun o ho => (h.live o ho).trans (hreg o ho)
    waits := fun hrun => ⟨(h.waits hrun).1.trans (congrArg some hrecv), (h.waits hrun).2⟩
    inForce := fun hrun => ⟨fun o ho => ((h.inForce hrun).1 o ho).trans (hreg o ho), (h.inForce hrun).2⟩ }

/-! The rows of the shadow set. -/

section
variable {d : TDie} {s : State}

theorem exec_densCommit (hlead : isLead d = true) (husable : s.usableT d = true)
    (hpending : s.on (densB d) R.DENS_SHADOW_PENDING = false) (hheld : s.on (densB d) R.DENS_SHADOW_HELD = false) :
    exec (Instr.densCommit d) s = .next (densHandOver d s) := by
  change execDensCommit d s = _
  simp [execDensCommit, densCommit, hlead, husable, hpending, hheld]

theorem exec_densCommit_holds (hlead : isLead d = true) (husable : s.usableT d = true)
    (h : s.on (densB d) R.DENS_SHADOW_PENDING = true ∨ s.on (densB d) R.DENS_SHADOW_HELD = true) :
    exec (Instr.densCommit d) s = .next (s.wr (densB d) R.DENS_SHADOW_HELD 1) := by
  change execDensCommit d s = _
  simp [execDensCommit, densCommit, hlead, husable, h]

theorem exec_densHeldHandover (hheld : s.on (densB d) R.DENS_SHADOW_HELD = true)
    (hpending : s.on (densB d) R.DENS_SHADOW_PENDING = false) :
    exec (Instr.densHeldHandover d) s = .next (densHandOver d (s.wr (densB d) R.DENS_SHADOW_HELD 0)) := by
  change execDensHeldHandover d s = _
  simp [execDensHeldHandover, hheld, hpending]

theorem exec_densEnable {j : Nat} (hlead : isLead d = true) (hhanded : (s.densSt d).handedAt = some j)
    (hlive : s.onL (densB d) R.DENS_CTRL_EN = true) (hforce : s.onF (densB d) R.DENS_CTRL_EN = false) :
    exec (Instr.densEnable d) s = .next (densTakeEffect d (some j) (firstAfter s d j) s) := by
  change execDensEnable d s = _
  simp [execDensEnable, hlead, hhanded, hlive, hforce]

/-- A revert puts the live set and map table back (R96). -/
def densReverted (l : Nat) (s : State) : State :=
  ((((s.takeBack (densB l) 0x4 0x8).takeBack (densB l) 0x14 0x30).takeBack (densB l) 0x3C 0x54).tabTakeBack
    (densKey l 0) (densKey l 256)).wr (densB l) R.DENS_SHADOW_SHADOW_DIRTY 0

theorem exec_densRevert (hlead : isLead d = true) (husable : s.usableT d = true) :
    exec (Instr.densRevert d) s = .next (densReverted d s) := by
  change execDensRevert d s = _
  simp [execDensRevert, densRevert, densReverted, hlead, husable]

theorem reg_densReverted (l : Nat) (s : State) {o : Nat} (ho : inDensSet o) :
    (densReverted l s).reg (densB l + o) = s.liveReg (densB l + o) := by
  have hother : densB l + o ≠ densB l + R.DENS_SHADOW_SHADOW_DIRTY.off := by
    have hoff : R.DENS_SHADOW_SHADOW_DIRTY.off = 0xC := rfl
    omega
  exact (State.reg_wr_other _ _ _ _ _ hother).trans (tget_tcopy_densSet s.live s.regs (densB l) ho)

/-! The data port of the map table (R215, R227). -/

/-- The entry that the data port of die `t` reaches: 0 acts as 1. -/
def densEntry (s : State) (t : Nat) : Nat := max 1 (s.rd (densB t) R.DENS_TAB_ADDR_ENTRY)

theorem exec_densTabDataAccess (hpresent : s.hasT d = true) (w : Option (BitVec 16)) :
    exec (Instr.densTabDataAccess d w) s = .next (densTabAccess d (w.map (·.setWidth 32)) s) := by
  change execDensTabDataAccess d w s = _
  rw [execDensTabDataAccess, if_pos hpresent]

theorem pairLead_of_isLead {t : Nat} (h : isLead t = true) : pairLead t = t := by
  simp only [isLead, beq_iff_eq] at h
  simp only [pairLead]
  omega

/-- ENTRY steps on, from 255 to 1. -/
theorem rd_entry_wr {t i : Nat} (hi : i ≤ 255) (u : State) :
    (u.wr (densB t) R.DENS_TAB_ADDR_ENTRY (if i = 255 then 1 else i + 1)).rd (densB t) R.DENS_TAB_ADDR_ENTRY =
      if i = 255 then 1 else i + 1 := by
  have hwidth : R.DENS_TAB_ADDR_ENTRY.w = 8 := rfl
  rw [State.rd_wr_same _ _ _ _ (by decide), hwidth]
  refine Nat.mod_eq_of_lt ?_
  split <;> omega

/-- On a lead die a write sets the shadow entry. -/
theorem densTabAccess_write {t : Nat} (hlead : isLead t = true) (hentry : densEntry s t ≤ 255) (v : BitVec 16) :
    let u := densTabAccess t (some (v.setWidth 32)) s
    tget tabReset u.tabS (densKey t (densEntry s t)) = v.setWidth 32 ∧
      u.on (densB t) R.DENS_SHADOW_SHADOW_DIRTY = true ∧
      u.rd (densB t) R.DENS_TAB_ADDR_ENTRY = if densEntry s t = 255 then 1 else densEntry s t + 1 := by
  have hmask : v.setWidth 32 &&& 0xFFFF#32 = v.setWidth 32 := by
    have hlt : (v.setWidth 32).toNat < 2 ^ 16 := by
      have := v.isLt
      rw [BitVec.toNat_setWidth]
      omega
    apply BitVec.eq_of_toNat_eq
    exact (Nat.and_two_pow_sub_one_eq_mod _ 16).trans (Nat.mod_eq_of_lt hlt)
  have hdirty := fun (w : State) => State.rd_wr_same w (densB t) R.DENS_SHADOW_SHADOW_DIRTY 1 (by decide)
  simp only [densTabAccess, hlead, pairLead_of_isLead hlead, Bool.not_true, Bool.false_eq_true, if_false]
  refine ⟨(tget_tset_same _ _ _ _).trans hmask, State.on_of_rd_one ?_, rd_entry_wr hentry _⟩
  rw [State.rd_wr_of_apart _ _ _ (by decide) (by decide)]
  exact hdirty _

/-- On a lead die a read gives the entry of the bank that VIEW selects. -/
theorem densTabAccess_read {t : Nat} (hlead : isLead t = true) (hentry : densEntry s t ≤ 255) :
    let u := densTabAccess t none s
    u.readData = tget tabReset (if s.on (densB t) R.DENS_SHADOW_VIEW then s.tabL else s.tabS)
        (densKey t (densEntry s t)) ∧
      u.rd (densB t) R.DENS_TAB_ADDR_ENTRY = if densEntry s t = 255 then 1 else densEntry s t + 1 := by
  simp only [densTabAccess, hlead, pairLead_of_isLead hlead, Bool.not_true, Bool.false_eq_true, if_false]
  exact ⟨rfl, rd_entry_wr hentry _⟩

theorem densTabAccess_partner {t : Nat} (hlead : isLead t = false) :
    (∀ v, densTabAccess t (some v) s = s) ∧ (densTabAccess t none s).readData =
      tget tabReset s.tabL (densKey (pairLead t) (densEntry s (pairLead t))) := by
  simp only [densTabAccess, hlead, Bool.not_false, if_true, implies_true, true_and]
  rfl

theorem densTabAccess_keeps (t : Nat) (w : Option Word) :
    (densTabAccess t w s).tabL = s.tabL ∧ (w = none → (densTabAccess t w s).tabS = s.tabS) := by
  unfold densTabAccess
  extract_lets b i k u
  cases w with
  | none => split <;> exact ⟨rfl, fun _ => rfl⟩
  | some v => split <;> exact ⟨rfl, nofun⟩

end

end Sys2Proof.Machine
end

section
/-! PROOFS. Frames: how they end, are taken, and go to memory (R211 to R215, R220 to R223). -/

namespace Sys2Proof.Machine

/-! A frame is taken (R212, R215). -/

/-- Frame `fr` with the flags that taking it sets, `extra` among them. -/
def takenFrame (s : State) (l extra : Nat) (fr : DensFrame) : DensFrame :=
  { fr with flags := fr.flags ||| extra ||| (if (s.densSt l).counts.any fun e => e.2 == 65535 then 256 else 0)
      ||| (if 1 < densEvery s l then 1024 else 0) ||| (if fr.seen < densF s l then 32 else 0)
      ||| (if (s.densSt l).cleared then 2048 else 0) }

/-- Its item on the way to the ring of frames. -/
def takenOut (s : State) (l extra : Nat) (fr : DensFrame) : DensOut :=
  let bytes := frameBytes s l (takenFrame s l extra fr) (s.densSt l).counts
  { n := fr.f, first := fr.first, bytes := bytes
    addr := s.rdF (densB l) R.DENS_MAP_BASE_BASE * 2 ^ 20 + fr.f % densNbuf s l * bytes.length }

section
variable {s : State} {l : Nat} {fr : DensFrame}

@[simp] theorem satShow_dens (t : Nat) (hit : Bool) (s : State) : (satShow t hit s).dens = s.dens := by
  unfold satShow
  split <;> rfl

theorem densSt_satShow (t : Nat) (hit : Bool) (s : State) (l : Nat) : (satShow t hit s).densSt l = s.densSt l := by
  rw [State.densSt, satShow_dens, State.densSt]

theorem decayAll_congr {u s : State} (hrdF : u.rdF = s.rdF) (l : Nat) (m : Tbl Nat) :
    decayAll u l m = decayAll s l m := by
  rw [decayAll, decayAll, hrdF]

theorem densSt_takeFrame {next : Tbl Nat} {rest : List (DensFrame × Tbl Nat)}
    (h : (s.densSt l).ended = (fr, next) :: rest) (extra : Nat) : (takeFrame l extra s).densSt l = { s.densSt l with
      counts := countsAdd (decayAll s l (s.densSt l).counts) next, ended := rest, cleared := false
      frames := if s.onF (densB l) R.DENS_CTRL_MAP_EN then (s.densSt l).frames ++ [takenOut s l extra fr]
        else (s.densSt l).frames } := by
  simp only [takeFrame, h]
  rw [densSt_satShow, State.densSt_modDens]
  rfl

/-- What the item of a frame says of it, under the settings in force that `s` has too. -/
theorem takenOut_shows {u s : State} (hrdF : u.rdF = s.rdF) (l extra : Nat) (fr : DensFrame) :
    (takenOut u l extra fr).bytes.take 1 = leBytes 1 (if s.onF (densB l) R.DENS_OUT_FORMAT then 0x42 else 0x40) ∧
    (takenOut u l extra fr).addr = s.rdF (densB l) R.DENS_MAP_BASE_BASE * 2 ^ 20
      + fr.f % densNbuf s l * (takenOut u l extra fr).bytes.length ∧
    ((takenOut u l extra fr).bytes.drop 28).take 4 = leBytes 4 fr.count ∧
    ((takenOut u l extra fr).bytes.drop 2).take 2 = leBytes 2 (takenFrame u l extra fr).flags := by
  obtain ⟨w, h, rest, hbytes⟩ := frameBytes_eq u l (takenFrame u l extra fr) (u.densSt l).counts
  have hout : (takenOut u l extra fr).bytes = _ := hbytes
  refine ⟨?_, ?_, ?_, ?_⟩
  · rw [hout, densItem_kind, State.onF, State.onF, hrdF]
  · rw [densNbuf, ← hrdF]
    rfl
  · rw [hout, densItem_count]
    rfl
  · rw [hout, densItem_flags]

/-- PARTIAL and MERGE_LATE stand in the header of a frame that is taken with them. -/
theorem takenFrame_late (s : State) (l : Nat) (fr : DensFrame) :
    bit (ofLe (leBytes 2 (takenFrame s l (32 + 4096) fr).flags)) 5 = true ∧
      bit (ofLe (leBytes 2 (takenFrame s l (32 + 4096) fr).flags)) 12 = true := by
  have hset : (32 + 4096).testBit 5 = true ∧ (32 + 4096).testBit 12 = true := by decide
  have hflags : ∀ k < 16, (32 + 4096).testBit k = true →
      bit (ofLe (leBytes 2 (takenFrame s l (32 + 4096) fr).flags)) k = true := by
    intro k hk hbit
    rw [ofLe_leBytes, bit_eq_testBit, show 256 ^ 2 = 2 ^ 16 from rfl, Nat.testBit_mod_two_pow]
    simp [takenFrame, hk, hbit]
  exact ⟨hflags 5 (by decide) hset.1, hflags 12 (by decide) hset.2⟩

/-- A frame that waits for nothing is taken, if it is the only one. -/
theorem takeReady_one {next : Tbl Nat} (h : (s.densSt l).ended = [(fr, next)]) :
    takeReady l 1 s = if fr.whole then takeFrame l 0 s else s := by
  rw [takeReady, h]
  rfl

/-- Frames that are taken one after the other go behind those on their way. -/
theorem takeReady_keeps (l n : Nat) (s : State) :
    ((takeReady l n s).densSt l).ended.length ≤ (s.densSt l).ended.length ∧
    ((takeReady l n s).densSt l).sent = (s.densSt l).sent ∧
    (s.densSt l).frames ⊆ ((takeReady l n s).densSt l).frames := by
  induction n generalizing s with
  | zero => exact ⟨le_rfl, rfl, List.Subset.refl _⟩
  | succ n ih =>
    unfold takeReady
    split
    · rename_i fr next rest hended
      split
      · obtain ⟨hlen, hsent, hframes⟩ := ih (takeFrame l 0 s)
        rw [densSt_takeFrame hended] at hlen hsent hframes
        refine ⟨hlen.trans ?_, hsent, List.Subset.trans ?_ hframes⟩
        · rw [hended]
          exact Nat.le_succ _
        · dsimp only
          split
          · exact List.subset_append_left _ _
          · exact List.Subset.refl _
      · exact ⟨le_rfl, rfl, List.Subset.refl _⟩
    · exact ⟨le_rfl, rfl, List.Subset.refl _⟩

/-- What taking the only frame that has ended, `fr`, leaves. -/
theorem densSt_takeReady_one (hended : (s.densSt l).ended = [(fr, [])]) (hwhole : fr.whole = true) :
    (takeReady l 1 s).densSt l = { s.densSt l with
      counts := decayAll s l (s.densSt l).counts, ended := [], cleared := false
      frames := if s.onF (densB l) R.DENS_CTRL_MAP_EN then (s.densSt l).frames ++ [takenOut s l 0 fr]
        else (s.densSt l).frames } := by
  rw [takeReady_one hended, if_pos hwhole, densSt_takeFrame hended]
  rfl

end

section
variable {d : TDie} {s : State}

/-! DENS_CLEAR (R213). -/

theorem exec_densClear (hlead : isLead d = true) (husable : s.usableT d = true) :
    exec (Instr.densClear d) s = .next (densClear d s) := by
  change execDensClear d s = _
  simp [execDensClear, hlead, husable]

/-! DENS_FRAME_END (R211, R212, R223). -/

theorem exec_densFrameEnd (hlead : isLead d = true) (hen : s.onF (densB d) R.DENS_CTRL_EN = true)
    (hfresh : (s.densSt d).fresh = false) (hend : (s.densSt d).frame.first + densF s d ≤ (s.wbSt d).relIdx) :
    exec (Instr.densFrameEnd d) s = .next (endFrame d s) := by
  change execDensFrameEnd d s = _
  simp [execDensFrameEnd, hlead, hen, hfresh, hend]

/-- Whether the frame in progress waits for counts of the partner die. -/
def densWaits (s : State) (l : Nat) : Bool := partnerCounts s l || decide ((s.densSt l).pframe.seen ≠ 0)

/-- The counts of the partner die for the frame in progress. -/
def partnerPart (q : DensSt) : DensPart :=
  { frame := { q.pframe with f := q.frame.f, first := q.frame.first }, counts := q.partner }

/-- The frame in progress has ended, and the next begins. -/
def frameEnded (l : Nat) (s : State) : State :=
  s.modDens l fun q => { q with
    ended := q.ended ++ [({ q.frame with whole := !densWaits s l }, [])]
    sent := if densWaits s l then q.sent ++ [partnerPart (s.densSt l)] else q.sent
    frame := newFrame s l ((s.densSt l).frame.f + 1), pframe := {}, partner := [] }

section
variable {l : Nat} (hended : (s.densSt l).ended = [])
include hended

theorem endFrame_eq : endFrame l s = takeReady l 1 (frameEnded l s) := by
  have hone : ((frameEnded l s).densSt l).ended.length = 1 := by
    rw [frameEnded, State.densSt_modDens, hended]
    rfl
  rw [← hone]
  rfl

theorem densSt_frameEnded : (frameEnded l s).densSt l = { s.densSt l with
    ended := [({ (s.densSt l).frame with whole := !densWaits s l }, [])]
    sent := if densWaits s l then (s.densSt l).sent ++ [partnerPart (s.densSt l)] else (s.densSt l).sent
    frame := newFrame s l ((s.densSt l).frame.f + 1), pframe := {}, partner := [] } := by
  rw [frameEnded, State.densSt_modDens, hended]
  rfl

/-- A frame that waits for nothing is taken as its spectra end. -/
theorem densSt_endFrame_alone (hwaits : densWaits s l = false) : (endFrame l s).densSt l =
    { (frameEnded l s).densSt l with
      counts := decayAll s l (s.densSt l).counts, ended := [], cleared := false
      frames := if s.onF (densB l) R.DENS_CTRL_MAP_EN then
        (s.densSt l).frames ++ [takenOut (frameEnded l s) l 0 { (s.densSt l).frame with whole := true }]
        else (s.densSt l).frames } := by
  have hone := densSt_frameEnded hended
  rw [hwaits] at hone
  rw [endFrame_eq hended, densSt_takeReady_one (by rw [hone]) rfl, hone]
  rfl

/-- A frame that waits for the partner die's counts is not taken. -/
theorem densSt_endFrame_waits (hwaits : densWaits s l = true) :
    (endFrame l s).densSt l = (frameEnded l s).densSt l := by
  have hone := densSt_frameEnded hended
  rw [hwaits] at hone
  rw [endFrame_eq hended, takeReady_one (by rw [hone])]
  rfl

end

/-! DENS_MERGE_ARRIVE and DENS_MERGE_TIMEOUT (R208, R223). -/

section
variable {l : Nat} {p : DensPart}

theorem densAdd_rdF (l k : Nat) (g : Tbl Nat → Tbl Nat) (s : State) : (densAdd l k g s).rdF = s.rdF :=
  State.rdF_congr (State.same_outside
    (densAdd_outside (parts := [.dens]) (win := fun _ => True) (by decide) (fun _ _ => trivial) k g s) State.force
    fun _ => rfl)

/-- Counts are added to those of the oldest frame not yet taken. -/
theorem densSt_densAdd_zero (l : Nat) (g : Tbl Nat → Tbl Nat) (s : State) :
    (densAdd l 0 g s).densSt l = { s.densSt l with counts := g (s.densSt l).counts } := by
  rw [densAdd, densSt_satShow, State.densSt_modDens]
  rfl

/-- The counts of the partner die are in the frame that waits for them. -/
def partMerged (l : Nat) (p : DensPart) (s : State) : State :=
  (densAdd l 0 (countsAdd · p.counts) s).modDens l fun q => { q with
    ended := q.ended.zipIdx.map fun x => if x.2 = 0 then (mergePart x.1.1 p, x.1.2) else x.1 }

theorem partMerged_rdF (l : Nat) (p : DensPart) (s : State) : (partMerged l p s).rdF = s.rdF := densAdd_rdF l 0 _ s

section
variable {fr : DensFrame} (hended : (s.densSt l).ended = [(fr, [])])
include hended

theorem densSt_partMerged : (partMerged l p s).densSt l = { s.densSt l with
    counts := countsAdd (s.densSt l).counts p.counts, ended := [(mergePart fr p, [])] } := by
  rw [partMerged, State.densSt_modDens, densSt_densAdd_zero, hended]
  rfl

theorem mergeArrive_inTime (hfirst : fr.first = p.frame.first) (hwhole : fr.whole = false) :
    mergeArrive l s p = takeReady l 1 (partMerged l p s) := by
  have hfind : ((s.densSt l).ended.zipIdx.find? fun e => e.1.1.first == p.frame.first && !e.1.1.whole) =
      some ((fr, []), 0) := by
    simp [hended, hfirst, hwhole]
  have hone : ((partMerged l p s).densSt l).ended.length = 1 := by
    rw [densSt_partMerged hended]
    rfl
  rw [← hone]
  simp only [mergeArrive, hfind]
  rfl

/-- Counts that come in time complete their frame, which is taken. -/
theorem densSt_mergeArrive_inTime (hfirst : fr.first = p.frame.first) (hwhole : fr.whole = false) :
    (mergeArrive l s p).densSt l = { s.densSt l with
      counts := decayAll s l (countsAdd (s.densSt l).counts p.counts), ended := [], cleared := false
      frames := if s.onF (densB l) R.DENS_CTRL_MAP_EN then
        (s.densSt l).frames ++ [takenOut (partMerged l p s) l 0 (mergePart fr p)] else (s.densSt l).frames } := by
  have hmerged := densSt_partMerged (p := p) hended
  have hrdF := partMerged_rdF l p s
  rw [mergeArrive_inTime hended hfirst hwhole, densSt_takeReady_one (by rw [hmerged]) rfl, hmerged, decayAll_congr hrdF,
    State.onF, hrdF, State.onF]

end

theorem rd_mergeArrive_inTime {fr : DensFrame} (hended : (s.densSt l).ended = [(fr, [])])
    (hfirst : fr.first = p.frame.first) (hwhole : fr.whole = false) :
    (mergeArrive l s p).rd (densB l) R.DENS_LATE_COUNT_LATE = s.rd (densB l) R.DENS_LATE_COUNT_LATE := by
  have hsat : R.DENS_STATUS_SAT ∈ [R.DENS_STATUS_SAT] := .head _
  have hadd : DensShows [R.DENS_STATUS_SAT] l s (partMerged l p s) :=
    (densShows_densAdd hsat 0 _ s).trans (.modDens _ l _)
  rw [mergeArrive_inTime hended hfirst hwhole]
  exact (hadd.trans (densShows_takeReady hsat 1 _)) _ (by decide) (by decide)

/-- Counts that come too late go to the oldest frame not yet taken, and are counted. -/
theorem mergeArrive_late
    (h : (s.densSt l).ended.all (fun e => e.1.first != p.frame.first || e.1.whole) = true) : ∃ mark : DensSt → DensSt,
    (∀ q, (mark q).counts = q.counts ∧ (mark q).sent = q.sent ∧ (mark q).frames = q.frames) ∧ mergeArrive l s p =
      (densAdd l 0 (countsAdd · p.counts) (s.inc (densB l) R.DENS_LATE_COUNT_LATE)).modDens l mark := by
  have hfind : ((s.densSt l).ended.zipIdx.find? fun e => e.1.1.first == p.frame.first && !e.1.1.whole) = none := by
    refine List.find?_eq_none.mpr fun e he => ?_
    have hone := List.all_eq_true.mp h e.1 (List.fst_mem_of_mem_zipIdx he)
    cases hw : e.1.1.whole <;> simp_all
  simp only [mergeArrive, hfind]
  refine ⟨_, fun q => ?_, rfl⟩
  cases q.ended with
  | nil => exact ⟨rfl, rfl, rfl⟩
  | cons e r => exact ⟨rfl, rfl, rfl⟩

theorem mergeArrive_late_shows
    (h : (s.densSt l).ended.all (fun e => e.1.first != p.frame.first || e.1.whole) = true) :
    ((mergeArrive l s p).densSt l).counts = countsAdd (s.densSt l).counts p.counts ∧
    ((mergeArrive l s p).densSt l).sent = (s.densSt l).sent ∧
    ((mergeArrive l s p).densSt l).frames = (s.densSt l).frames ∧
    (mergeArrive l s p).rd (densB l) R.DENS_LATE_COUNT_LATE =
      min (2 ^ 32 - 1) (s.rd (densB l) R.DENS_LATE_COUNT_LATE + 1) := by
  obtain ⟨mark, hmark, heq⟩ := mergeArrive_late h
  obtain ⟨hcounts, hsent, hframes⟩ := hmark { s.densSt l with counts := countsAdd (s.densSt l).counts p.counts }
  have hdens : (mergeArrive l s p).densSt l =
      mark { s.densSt l with counts := countsAdd (s.densSt l).counts p.counts } := by
    rw [heq, State.densSt_modDens, densSt_densAdd_zero]
    rfl
  refine ⟨by rw [hdens, hcounts], by rw [hdens, hsent], by rw [hdens, hframes], ?_⟩
  have hadd := densShows_densAdd (l := l) (List.mem_singleton_self R.DENS_STATUS_SAT) 0 (countsAdd · p.counts)
    (s.inc (densB l) R.DENS_LATE_COUNT_LATE)
  rw [heq, State.rd_modDens, hadd _ (by decide) (by decide)]
  exact State.rd_inc_same _ _ _ 1 (by decide)

end

section
variable {p : DensPart} {r : List DensPart}

theorem exec_densMergeArrive (hsent : (s.densSt d).sent = p :: r) : exec (Instr.densMergeArrive d) s =
    .next (mergeArrive d (s.modDens d fun q => { q with sent := r }) p) := by
  change execDensMergeArrive d s = _
  simp only [execDensMergeArrive, hsent]

end

/-- The oldest frame that has ended, taken without the partner die's counts. -/
def frameTimedOut (l : Nat) (s : State) : State :=
  takeFrame l (32 + 4096) (s.wr (densB l) R.DENS_STATUS_MERGE_LATE 1)

section
variable {fr : DensFrame} {next : Tbl Nat} {rest : List (DensFrame × Tbl Nat)}
  (hended : (s.densSt d).ended = (fr, next) :: rest)
include hended

theorem exec_densMergeTimeout : exec (Instr.densMergeTimeout d) s =
    .next (takeReady d ((frameTimedOut d s).densSt d).ended.length (frameTimedOut d s)) := by
  change execDensMergeTimeout d s = _
  simp only [execDensMergeTimeout, hended]
  rfl

theorem densSt_frameTimedOut : ((frameTimedOut d s).densSt d).ended = rest ∧
    ((frameTimedOut d s).densSt d).sent = (s.densSt d).sent ∧
    (s.onF (densB d) R.DENS_CTRL_MAP_EN = true →
      takenOut (s.wr (densB d) R.DENS_STATUS_MERGE_LATE 1) d (32 + 4096) fr ∈
        ((frameTimedOut d s).densSt d).frames) := by
  rw [frameTimedOut, densSt_takeFrame (s := s.wr (densB d) R.DENS_STATUS_MERGE_LATE 1) hended]
  refine ⟨rfl, rfl, fun hmap => ?_⟩
  have hmap' : (s.wr (densB d) R.DENS_STATUS_MERGE_LATE 1).onF (densB d) R.DENS_CTRL_MAP_EN = true := hmap
  simp [hmap']

end

theorem on_frameTimedOut (l n : Nat) (s : State) :
    (takeReady l n (frameTimedOut l s)).on (densB l) R.DENS_STATUS_MERGE_LATE = true := by
  have hsat : R.DENS_STATUS_SAT ∈ [R.DENS_STATUS_SAT] := .head _
  have htaken : DensShows [R.DENS_STATUS_SAT] l (s.wr (densB l) R.DENS_STATUS_MERGE_LATE 1)
      (takeReady l n (frameTimedOut l s)) :=
    (densShows_takeFrame hsat _ _).trans (densShows_takeReady hsat n _)
  rw [htaken.on (by decide) (by decide)]
  exact State.on_of_rd_one (State.rd_wr_same _ _ _ 1 (by decide))

end

end Sys2Proof.Machine
end

section
/-! PROOFS. Rows of the spectrogram, what goes to memory, and the repair of a row (R214 to R222, R226). -/

namespace Sys2Proof.Machine

section
variable {d : TDie} {s : State}

/-! SG_ROW_END (R216 to R220). -/

theorem exec_sgRowEnd (hlead : isLead d = true) (hen : s.onF (densB d) R.DENS_CTRL_EN = true)
    (hfresh : (s.densSt d).fresh = false)
    (hend : (s.densSt d).mS + ((s.densSt d).row.j + 1) * densR s d ≤ (s.wbSt d).relIdx) :
    exec (Instr.sgRowEnd d) s = .next (endRow d (densR s d) s) := by
  change execSgRowEnd d s = _
  simp [execSgRowEnd, hlead, hen, hfresh, hend]

/-- The row `o` that ends, and the note `e` of what it lacks. -/
theorem densSt_endRow (l n : Nat) (s : State) : ∃ (o : DensOut) (e : DensLack),
    (o.n = (s.densSt l).row.j ∧ o.first = (s.densSt l).mS + (s.densSt l).row.j * densR s l ∧
      o.bytes.take 1 = leBytes 1 (if s.onF (densB l) R.DENS_SG_CTRL_FORMAT then 0x43 else 0x41) ∧
      o.addr = s.rdF (densB l) R.DENS_SG_BASE_BASE * 2 ^ 20
        + (s.densSt l).row.j % max 1 (s.rdF (densB l) R.DENS_SG_ROWS_ROWS) * o.bytes.length) ∧
    (e.first = o.first ∧ e.n = n ∧ e.addr = o.addr) ∧
    (endRow l n s).densSt l = if s.onF (densB l) R.DENS_CTRL_SG_EN then { s.densSt l with
        row := { j := (s.densSt l).row.j + 1 }, rows := (s.densSt l).rows ++ [o]
        lacking := if (s.densSt l).row.seen < n then (s.densSt l).lacking ++ [e] else (s.densSt l).lacking }
      else { s.densSt l with row := { j := (s.densSt l).row.j + 1 } } := by
  unfold endRow
  extract_lets q g d first fl bytes a lack u
  obtain ⟨x, y, rest, hbytes⟩ :=
    SgSet.bytes_eq g (inputOf l) fl (specSts s l first) first d.n (g.levels (s.wbN l) d)
  have hu : u.densSt l = { s.densSt l with row := { j := (s.densSt l).row.j + 1 } } := State.densSt_modDens _ _ _
  refine ⟨{ n := q.row.j, first := first, addr := a, bytes := bytes }, lack, ⟨rfl, rfl, ?_, rfl⟩, ⟨rfl, rfl, rfl⟩, ?_⟩
  · exact (congrArg (List.take 1) hbytes).trans (densItem_kind _ _ _ _ _ _ _ _ _)
  · have hen : u.onF (densB l) R.DENS_CTRL_SG_EN = s.onF (densB l) R.DENS_CTRL_SG_EN := rfl
    rw [hen]
    split
    · rw [State.densSt_modDens, hu]
    · exact hu

/-! DENS_FRAME_WRITTEN and SG_ROW_WRITTEN (R214, R219, R220, R222). -/

/-- Item `o` stands in memory, is counted in `count`, its number is in `last`, and `line` pulses. -/
def itemWritten (l : Nat) (o : DensOut) (next : DensSt → DensSt) (last count : Fld) (line : Nat) (s : State) : State :=
  let u := (s.setBytes (hubOf s l) o.addr o.bytes).modDens l next
  (u.wrs (densB l) [(last, o.n), (count, (u.rd (densB l) count + 1) % 2 ^ 32)]).pulse (hubOf u l) line

section
variable (l : Nat) (o : DensOut) (next : DensSt → DensSt) (last count : Fld) (line : Nat) (s : State)

theorem densSt_itemWritten : (itemWritten l o next last count line s).densSt l = next (s.densSt l) := by
  rw [itemWritten, State.densSt, State.pulse_dens, State.wrs_dens, ← State.densSt, State.densSt_modDens, State.densSt,
    State.setBytes_dens, ← State.densSt]

theorem itemWritten_pulsed : pulsed s (itemWritten l o next last count line s) (hubOf s l) line := by
  have hhub : hubOf ((s.setBytes (hubOf s l) o.addr o.bytes).modDens l next) l = hubOf s l :=
    hubOf_congr (by simp) l
  unfold itemWritten
  extract_lets u
  rw [hhub]
  refine pulsed_pulse ?_ rfl rfl
  simp [u]

theorem itemWritten_stored (hstore : storable s (hubOf s l) o.addr o.bytes) :
    stored (itemWritten l o next last count line s) (hubOf s l) o.addr o.bytes := by
  intro i hi
  have hcap : (itemWritten l o next last count line s).cap = (s.setBytes (hubOf s l) o.addr o.bytes).cap := by
    simp [itemWritten]
  rw [State.rawByte, hcap, ← State.rawByte]
  exact State.rawByte_setBytes_inside hstore.1 hstore.2 hi

/-- The two fields are words of the block, at different offsets. -/
theorem rd_itemWritten (hlast : last.lo = 0 ∧ last.w = 32) (hcount : count.lo = 0 ∧ count.w = 32)
    (hne : last.off ≠ count.off) :
    (itemWritten l o next last count line s).rd (densB l) last = o.n % 2 ^ 32 ∧
      (itemWritten l o next last count line s).rd (densB l) count = (s.rd (densB l) count + 1) % 2 ^ 32 := by
  unfold itemWritten
  extract_lets u
  have hu : u.rd (densB l) count = s.rd (densB l) count := by rw [State.rd_modDens, State.rd_setBytes]
  rw [State.rd_pulse, State.rd_pulse, hu]
  simp only [State.wrs]
  refine ⟨?_, ?_⟩
  · rw [State.rd_wr_other _ _ _ _ _ _ (by omega), State.rd_wr_same _ _ _ _ (by omega), hlast.2]
  · rw [State.rd_wr_same _ _ _ _ (by omega), hcount.2, Nat.mod_mod]

end

/-- The frames `r` are still on their way. -/
def framesSent (r : List DensOut) (q : DensSt) : DensSt := { q with frames := r }

theorem exec_densFrameWritten {o : DensOut} {r : List DensOut} (h : (s.densSt d).frames = o :: r) :
    exec (Instr.densFrameWritten d) s =
      .next (itemWritten d o (framesSent r) R.DENS_MAP_LAST_FRAME R.DENS_FRAME_COUNT_FRAMES 0x4000 s) := by
  change execDensFrameWritten d s = _
  simp only [execDensFrameWritten, h]
  rfl

/-- A row takes the slot of `e`, another row that lacks spectra. -/
def coversLack (o : DensOut) (e : DensLack) : Bool :=
  e.first != o.first && decide (e.addr < o.addr + o.bytes.length) && decide (o.addr < e.addr + e.size)

/-- Row `o` stands in its slot, and the rows `r` are still on their way. -/
def rowSent (o : DensOut) (r : List DensOut) (q : DensSt) : DensSt :=
  { q with rows := r, lacking := q.lacking.map fun e => { e with reused := e.reused || coversLack o e } }

theorem exec_sgRowWritten {o : DensOut} {r : List DensOut} (h : (s.densSt d).rows = o :: r) :
    exec (Instr.sgRowWritten d) s =
      .next (itemWritten d o (rowSent o r) R.DENS_SG_LAST_ROW R.DENS_ROW_COUNT_ROWS 0x4001 s) := by
  change execSgRowWritten d s = _
  simp only [execSgRowWritten, h]
  rfl

/-! DENS_ROW_REPAIR (R221, R226). -/

/-- The row with first spectrum `first` is no longer lacking. -/
def lackTaken (l first : Nat) (s : State) : State :=
  s.modDens l fun q => { q with lacking := q.lacking.filter fun x => x.first != first }

/-- The samples in the Tarn that row `e` needs are all held. -/
def lackHeld (l first : Nat) (e : DensLack) (s : State) : Bool :=
  tarnHolds s l (e.set.startOf first) (e.set.startOf (first + e.n - 1) + e.set.n - 1)

/-- The state in which row `e` is computed again. -/
def rowReplayed (l first : Nat) (e : DensLack) (s : State) : State :=
  replayCount l (lackHeld l first e (lackTaken l first s)) (lackTaken l first s)

/-- The flags of the complete row: REPAIRED among them. -/
def repairFlags (e : DensLack) (d : Det) : Nat :=
  densFlags d.flags ||| 64 ||| (if e.set.overlap = 3 then 512 else 0) ||| (if e.n < e.sg.r then 32 else 0)

/-- The item of the complete row. -/
def repairBytes (l first : Nat) (e : DensLack) (s : State) : List Byte :=
  let d := e.whole s l
  e.sg.bytes (inputOf l) (repairFlags e d) (s.sampleSts (inputOf l) (e.set.startOf first : Nat)) first d.n
    (e.sg.levels e.set.n d)

section
variable {first : Nat} {e : DensLack} (hfind : (s.densSt d).lacking.find? (fun x => x.first == first) = some e)
  (hcome : ((s.wbSt d).lost.any fun x => decide (first ≤ x.idx) && decide (x.idx < first + e.n)) = false)
  (hrows : ((s.densSt d).rows.any fun o => o.first == first) = false)
include hfind hcome hrows

theorem exec_densRowRepair_reused (hreused : e.reused = true) : exec (Instr.densRowRepair d first) s =
    .next ((lackTaken d first s).inc (densB d) R.DENS_LATE_COUNT_LATE) := by
  change execDensRowRepair d first s = _
  simp only [execDensRowRepair, hfind, hcome, hrows, hreused, Bool.or_self, Bool.false_eq_true, if_false, if_true]
  rfl

theorem exec_densRowRepair_writes (hreused : e.reused = false) : exec (Instr.densRowRepair d first) s =
    .next ((rowReplayed d first e s).setBytes (hubOf (rowReplayed d first e s) d) e.addr
      (repairBytes d first e (rowReplayed d first e s))) := by
  change execDensRowRepair d first s = _
  simp only [execDensRowRepair, hfind, hcome, hrows, hreused, Bool.or_self, Bool.false_eq_true, if_false]
  rfl

end

theorem rowReplayed_outside (l first : Nat) (e : DensLack) (s : State) :
    (rowReplayed l first e s).outside [.wb] (onPage 3) = (lackTaken l first s).outside [.wb] (onPage 3) :=
  replayCount_outside _ _ _

theorem rowReplayed_part (l first : Nat) (e : DensLack) (s : State) : (rowReplayed l first e s).part = s.part :=
  State.same_of_outside (rowReplayed_outside l first e s) State.part fun _ => rfl

theorem densSt_rowReplayed (l first : Nat) (e : DensLack) (s : State) : (rowReplayed l first e s).densSt l =
    { s.densSt l with lacking := (s.densSt l).lacking.filter fun x => x.first != first } := by
  rw [State.same_of_outside (rowReplayed_outside l first e s) (State.densSt · l) fun _ => rfl, lackTaken,
    State.densSt_modDens]

theorem anyFrozen_rowReplayed (l first : Nat) (e : DensLack) (s : State) {h : Nat} (hh : h < 2) :
    (rowReplayed l first e s).anyFrozen h = s.anyFrozen h := by
  have hrows := rowReplayed_outside l first e s
  have hch := fun c hc => (State.rd_ddrCh_of_outside (c := c) hrows hh hc).2
  rw [State.anyFrozen, hch 0 (by decide), hch 1 (by decide), ← State.anyFrozen]
  rfl

/-- The complete row depends neither on the registers of the blocks REC nor on the density engine. -/
theorem whole_rowReplayed (d : TDie) (first : Nat) (e x : DensLack) (s : State) :
    x.whole (rowReplayed d first e s) d = x.whole s d := by
  have hrows := rowReplayed_outside d first e s
  have hinp : inputOf d < 2 := by simp only [inputOf]; omega
  have hbits : tarnBits (rowReplayed d first e s) d = tarnBits (lackTaken d first s) d :=
    State.same_of_outside hrows (tarnBits · d) fun _ => rfl
  have hwb : (rowReplayed d first e s).wbSt (pairLead d) = (lackTaken d first s).wbSt (pairLead d) := by
    rw [State.wbSt, rowReplayed, replayCount_wb, ← State.wbSt]
  have hwhole : x.whole (rowReplayed d first e s) d = x.whole (lackTaken d first s) d := by
    unfold DensLack.whole specInfo
    dsimp only
    rw [tarnRead_of_outside hrows, hbits, hwb]
    simp only [State.sampleSts_of_outside hrows hinp]
  exact hwhole.trans rfl

/-- What stands in memory once a row is repaired (R220, R221). -/
theorem rowRepaired_stored {d : TDie} {first : Nat} {e : DensLack} {s : State}
    (hfree : s.anyFrozen (hubOf s d) = false) (hend : e.addr + 2 ^ 20 ≤ 2 ^ 40) :
    let u := rowReplayed d first e s
    let t := u.setBytes (hubOf u d) e.addr (repairBytes d first e u)
    (t.rawByte (hubOf s d) e.addr).toNat = (if e.sg.index8 then 0x43 else 0x41) ∧
      bit (t.rawByte (hubOf s d) (e.addr + 2)).toNat 6 = true ∧ t.leAt (hubOf s d) (e.addr + 20) 8 = first % 2 ^ 64 ∧
      t.leAt (hubOf s d) (e.addr + 28) 4 = (e.whole s d).n % 2 ^ 32 := by
  intro u t
  have hhub : hubOf u d = hubOf s d := hubOf_congr (rowReplayed_part d first e s) d
  have hfree' : u.anyFrozen (hubOf s d) = false := by rw [anyFrozen_rowReplayed d first e s (hubOf_lt s d), hfree]
  obtain ⟨x, y, rest, hbytes⟩ := SgSet.bytes_eq e.sg (inputOf d) (repairFlags e (e.whole u d))
    (u.sampleSts (inputOf d) (e.set.startOf first : Nat)) first (e.whole u d).n (e.sg.levels e.set.n (e.whole u d))
  have hitem : repairBytes d first e u = _ := hbytes
  have hlen : 32 ≤ (repairBytes d first e u).length := by
    rw [hitem]
    exact le_length_densItem _ _ _ _ _ _ _ _ _
  have hbyte : ∀ i < 32, t.rawByte (hubOf s d) (e.addr + i) = (repairBytes d first e u).getD i 0 := by
    intro i hi
    show (u.setBytes (hubOf u d) e.addr (repairBytes d first e u)).rawByte _ _ = _
    rw [hhub]
    exact State.rawByte_setBytes_before hfree' (by omega) (by omega)
  have hle : ∀ n m, n + m ≤ 32 → t.leAt (hubOf s d) (e.addr + n) m = ofLe (((repairBytes d first e u).drop n).take m) :=
    fun n m hnm => State.leAt_of_stored_start ((State.anyFrozen_setBytes _ _ _ _ _).trans hfree') hbyte hnm hlen
  refine ⟨?_, ?_, ?_, ?_⟩
  · rw [← Nat.add_zero e.addr, hbyte 0 (by decide), hitem]
    show (BitVec.ofNat 8 (if e.sg.index8 then 0x43 else 0x41)).toNat = _
    cases e.sg.index8 <;> rfl
  · rw [hbyte 2 (by decide), hitem]
    show bit (BitVec.ofNat 8 (repairFlags e (e.whole u d))).toNat 6 = true
    have hset : (64 : Nat).testBit 6 = true := by decide
    rw [bit_eq_testBit, BitVec.toNat_ofNat, Nat.testBit_mod_two_pow]
    simp [repairFlags, hset]
  · rw [hle 20 8 (by decide), hitem, densItem_first, ofLe_leBytes]
    rfl
  · rw [hle 28 4 (by decide), hitem, densItem_count, ofLe_leBytes, whole_rowReplayed]
    rfl

end

end Sys2Proof.Machine
end

section
/-! PROOFS. The rows of O23 (R204 to R231). -/

namespace Sys2Proof.Machine

/-- Settles O23, row by row: each next state is written out by the operations of the density engine, and what the row
names is read off it. -/
theorem densRowsComplete : Obligations.DensRowsComplete := by
  unfold Obligations.DensRowsComplete
  refine ⟨fun d s hlead hen hfresh hend hpartner hseen hended hnodup => ?frameEnd,
    fun d s hlead hen hfresh hend hpartner hended => ?frameEndWaits,
    fun d o r s hframes => ?frameWritten, fun d s hlead hen hfresh hend => ?rowEnd,
    fun d o r s hrows => ?rowWritten, fun d s hlead husable => ?clear,
    fun d s hlead husable hpending hheld => ?commit, fun d s hlead husable h => ?commitHeld,
    fun d s hlead husable => ?revert, fun d s hheld hpending => ?heldHandover,
    fun d v s hpresent hentry => ?tabWrite, fun d s hpresent hentry => ?tabRead,
    fun d j s hlead hhanded hlive hforce => ?enable,
    fun d p r fr s hsent hended hfirst hwhole hnodup hp hmax => ?mergeInTime,
    fun d p r s hsent hlate hp hmax => ?mergeLate, fun d fr n r s hended => ?mergeTimeout,
    fun d first e s hfind hcome hrows => ?rowRepair⟩
  case frameEnd =>
    have hwaits : densWaits s d = false := by simp [densWaits, hpartner, hseen]
    obtain ⟨hkind, haddr, hcount, -⟩ := takenOut_shows (u := frameEnded d s) (s := s) rfl d 0
      { (s.densSt d).frame with whole := true }
    refine ⟨_, exec_densFrameEnd hlead hen hfresh hend, ?_⟩
    rw [densSt_endFrame_alone hended hwaits]
    refine ⟨?_, rfl, rfl, fun k => ?_, fun hmap => ?_, fun hmap => ?_⟩
    · rw [densSt_frameEnded hended]
      rfl
    · exact (tget_decayAll s d hnodup k).trans (decay_eq _ _ _ _)
    · exact ⟨_, by simp [hmap], rfl, rfl, hkind, haddr, hcount⟩
    · simp [hmap]
  case frameEndWaits =>
    have hwaits : densWaits s d = true := by
      rcases hpartner with h | h <;> simp [densWaits, h]
    refine ⟨_, exec_densFrameEnd hlead hen hfresh hend, ?_⟩
    rw [densSt_endFrame_waits hended hwaits, densSt_frameEnded hended, hwaits]
    exact ⟨rfl, rfl, rfl, rfl, ⟨partnerPart (s.densSt d), by simp, rfl, rfl, rfl, rfl⟩,
      ⟨_, .head _, rfl, rfl, rfl, rfl⟩⟩
  case frameWritten =>
    obtain ⟨hlast, hcount⟩ := rd_itemWritten d o (framesSent r) R.DENS_MAP_LAST_FRAME R.DENS_FRAME_COUNT_FRAMES 0x4000 s
      (by decide) (by decide) (by decide)
    exact ⟨_, exec_densFrameWritten hframes, by rw [densSt_itemWritten, framesSent], hlast, hcount,
      itemWritten_pulsed _ _ _ _ _ _ _, itemWritten_stored _ _ _ _ _ _ _⟩
  case rowEnd =>
    obtain ⟨o, e, ⟨hn, hfirst, hkind, haddr⟩, ⟨hefirst, hen', headdr⟩, hrow⟩ := densSt_endRow d (densR s d) s
    refine ⟨_, exec_sgRowEnd hlead hen hfresh hend, ?_⟩
    rw [hrow]
    refine ⟨by split <;> rfl, fun hsg => ⟨o, ?_, hn, hfirst, hkind, haddr, fun hlack => ⟨e, ?_, hefirst, hen', headdr⟩⟩,
      fun hsg => ?_⟩
    · simp [hsg]
    · simp [hsg, hlack]
    · simp [hsg]
  case rowWritten =>
    obtain ⟨hlast, hcount⟩ := rd_itemWritten d o (rowSent o r) R.DENS_SG_LAST_ROW R.DENS_ROW_COUNT_ROWS 0x4001 s
      (by decide) (by decide) (by decide)
    refine ⟨_, exec_sgRowWritten hrows, by rw [densSt_itemWritten, rowSent], hlast, hcount,
      itemWritten_pulsed _ _ _ _ _ _ _, itemWritten_stored _ _ _ _ _ _ _, fun e he hfirst hlo hhi => ⟨_, ?_, rfl⟩⟩
    rw [densSt_itemWritten]
    have hcovers : coversLack o e = true := by simp [coversLack, hfirst, hlo, hhi]
    exact List.mem_map.mpr ⟨e, he, by rw [hcovers, Bool.or_true]⟩
  case clear =>
    refine ⟨densClear d s, exec_densClear hlead husable, ?_⟩
    rw [densClear, State.densSt_modDens]
    exact ⟨rfl, rfl, rfl, rfl, rfl⟩
  case commit =>
    have h := densHandOver_handsOver d s
    exact ⟨_, exec_densCommit hlead husable hpending hheld, h.live, h.tabL, h.dirty, h.pending, h.waits, h.inForce,
      h.clamp, h.badRange⟩
  case commitHeld =>
    exact ⟨_, exec_densCommit_holds hlead husable h, State.on_of_rd_one (State.rd_wr_same _ _ _ 1 (by decide)), rfl,
      rfl, rfl⟩
  case revert =>
    exact ⟨_, exec_densRevert hlead husable, fun o ho => reg_densReverted d s ho,
      fun i => tget_tcopy_densTab s.tabL s.tabS d i, State.on_of_rd_zero (State.rd_wr_same _ _ _ 0 (by decide)), rfl⟩
  case heldHandover =>
    have h := (densHandOver_handsOver d (s.wr (densB d) R.DENS_SHADOW_HELD 0)).of_wr_held
    refine ⟨_, exec_densHeldHandover hheld hpending, ?_, h.live, h.tabL, h.dirty, h.pending, h.waits, h.inForce,
      h.clamp, h.badRange⟩
    rw [densHandOver_held]
    exact State.on_of_rd_zero (State.rd_wr_same _ _ _ 0 (by decide))
  case tabWrite =>
    refine ⟨_, exec_densTabDataAccess hpresent _, fun hlead => densTabAccess_write hlead hentry v,
      fun hlead => (densTabAccess_partner hlead).1 _, (densTabAccess_keeps d _).1⟩
  case tabRead =>
    refine ⟨_, exec_densTabDataAccess hpresent _, fun hlead => densTabAccess_read hlead hentry,
      fun hlead => (densTabAccess_partner hlead).2, (densTabAccess_keeps d _).2 rfl⟩
  case enable =>
    obtain ⟨hnone, hafter, hfresh⟩ := densSt_densTakeEffect d (some j) (firstAfter s d j) s
    have hen := forceReg_densTakeEffect d (some j) (firstAfter s d j) s (o := R.DENS_CTRL_EN.off) (by decide)
    refine ⟨_, exec_densEnable hlead hhanded hlive hforce, fun o ho => forceReg_densTakeEffect d _ _ s ho,
      fun i => tabF_densTakeEffect d _ _ s i, ?_, hnone, hafter, hfresh, densTakeEffect_pending d _ _ s⟩
    rw [State.onF, State.rdF, hen, ← State.rdL, ← State.onL]
    exact hlive
  case mergeInTime =>
    let u := s.modDens d fun q => { q with sent := r }
    have hu : u.densSt d = { s.densSt d with sent := r } := State.densSt_modDens _ _ _
    have hended' : (u.densSt d).ended = [(fr, [])] := by rw [hu, ← hended]
    obtain ⟨hkind, haddr, hcount, -⟩ := takenOut_shows (u := partMerged d p u) (s := s) (partMerged_rdF d p u) d 0
      (mergePart fr p)
    have hframe := densSt_mergeArrive_inTime hended' hfirst hwhole
    rw [hu] at hframe
    refine ⟨_, exec_densMergeArrive hsent, ?_, ?_, rd_mergeArrive_inTime hended' hfirst hwhole, fun k => ?_,
      fun hmap => ?_⟩
    · rw [hframe]
    · rw [hframe]
    · rw [hframe, ← tget_countsAdd hp (tget_le hmax) k, ← decay_eq]
      exact tget_decayAll s d (nodup_keys_countsAdd hnodup _) k
    · rw [hframe]
      refine ⟨takenOut (partMerged d p u) d 0 (mergePart fr p), ?_, rfl, rfl, hkind, haddr, hcount⟩
      have hmap' : u.onF (densB d) R.DENS_CTRL_MAP_EN = true := hmap
      simp [hmap']
  case mergeLate =>
    let u := s.modDens d fun q => { q with sent := r }
    have hu : u.densSt d = { s.densSt d with sent := r } := State.densSt_modDens _ _ _
    have hlate' : (u.densSt d).ended.all (fun e => e.1.first != p.frame.first || e.1.whole) = true := by
      rw [hu]
      exact hlate
    obtain ⟨hcounts, hsent', hframes, hcount⟩ := mergeArrive_late_shows hlate'
    rw [hu] at hcounts hsent' hframes
    refine ⟨_, exec_densMergeArrive hsent, hsent', hframes, hcount, fun k => ?_⟩
    rw [hcounts]
    exact tget_countsAdd hp (tget_le hmax) k
  case mergeTimeout =>
    let u := s.wr (densB d) R.DENS_STATUS_MERGE_LATE 1
    obtain ⟨hrest, hsent, hout⟩ := densSt_frameTimedOut hended
    obtain ⟨hkind, haddr, -, hflags⟩ := takenOut_shows (u := u) (s := s) rfl d (32 + 4096) fr
    obtain ⟨hlen, hsent', hframes⟩ := takeReady_keeps d ((frameTimedOut d s).densSt d).ended.length (frameTimedOut d s)
    refine ⟨_, exec_densMergeTimeout hended, on_frameTimedOut d _ s, hlen.trans_eq (congrArg List.length hrest),
      hsent'.trans hsent, fun hmap => ⟨_, hframes (hout hmap), rfl, rfl, hkind, haddr, ?_⟩⟩
    rw [hflags]
    exact takenFrame_late u d fr
  case rowRepair =>
    cases hreused : e.reused with
    | true =>
      refine ⟨_, exec_densRowRepair_reused hfind hcome hrows hreused, ?_, fun _ => ⟨rfl, ?_⟩, nofun⟩
      · rw [State.densSt, State.inc_dens, ← State.densSt, lackTaken, State.densSt_modDens]
      · rw [State.rd_inc_same _ _ _ 1 (by decide)]
        rfl
    | false =>
      refine ⟨_, exec_densRowRepair_writes hfind hcome hrows hreused, ?_, nofun, fun _ hfree hend =>
        rowRepaired_stored hfree hend⟩
      rw [State.densSt, State.setBytes_dens, ← State.densSt, densSt_rowReplayed]

end Sys2Proof.Machine
end
